-- ==== Sys2Proof/Word.lean ====
section
/-! DEFINITION. The word types of the DX-240 (spec/00_scope.md, Notation; R5: control registers are 64-bit words). -/
namespace Sys2Proof

/-- A 64-bit word: a control register, a word of a command packet, a K64 general register. -/
abbrev Word := BitVec 64
/-- A byte of memory. -/
abbrev Byte := BitVec 8
/-- A 64-byte line of memory as one number, byte 0 least significant. -/
abbrev Line := BitVec 512
/-- A line address: physical address bits [51:6] (R239). -/
abbrev LineAddr := BitVec 46
/-- A hub half: 0 is H0, 1 is H1 (R14). -/
abbrev Half := Fin 2
/-- A compute die, CD0 to CD11. -/
abbrev Die := Fin 12
/-- A global core number (R19). -/
abbrev GCore := Fin 240
/-- A polder number; polder 0 is the service polder (R19, R59). -/
abbrev Pol := Fin 32

end Sys2Proof
end

