-- ==== Sys2Proof/Syntax.lean ====
section
/-! DEFINITION. The commands of the DX-240 block: one constructor of `Instr` per row of spec/opcode_table.json, with
the operands the row's rule gives it (an address, a value, a packet, a message, a pin event). -/
namespace Sys2Proof

/-- Who submits a command packet: the transports of R32. A relayed command names the port it came through, the member
that sent it (SRC of its frame, R362), and whether that member took it from a mailbox ring rather than a host queue. -/
inductive Source where
  | pcie (e : Fin 4)
  | mailbox (p : Pol)
  | sideband
  | cascade (c : Fin 4) (m : Fin 16) (mb : Bool)
  deriving DecidableEq, Repr

/-- The agents that make accesses: the source kinds 0x01 to 0x08 of R77. -/
inductive Agent where
  | core (g : GCore)
  | ingest (s : Fin 128)
  | pcie (e : Fin 4)
  | cascade (c : Fin 4)
  | guest (g : Half)
  | mailbox (p : Pol)
  | sideband
  | hubAgent (stop : BitVec 12)
  deriving DecidableEq, Repr

/-- The tag of an access (R68): its polder, its world, and the agent that makes it. -/
structure Acc where
  pol : Pol
  sec : Bool
  src : Agent
  deriving DecidableEq, Repr

/-- A submission entry: the eight words of R34. -/
structure Entry where
  w0 : Word
  w1 : Word
  w2 : Word
  w3 : Word
  w4 : Word
  w5 : Word
  w6 : Word
  w7 : Word
  deriving DecidableEq, Repr

/-- A fetched command: who sent it and through which submission queue, its entry, and what lies outside the package:
the descriptor list a list pointer names (R35) and the bytes the buffer holds. For a mailbox source list and bytes
lie in polder memory and are read there. -/
structure Cmd where
  src : Source
  sqid : Fin 64
  e : Entry
  list : List (Word × Word)
  data : List Byte
  deriving DecidableEq, Repr

/-- The message types of R240. -/
inductive MsgTy where
  | readShared | readOwn | upgrade | placeWrite | write | evictClean
  | invalidate | recall | downgrade | census
  | invAck | recallAck | grant | completion | nack
  | data | writeback | censusReport
  deriving DecidableEq, Repr

/-- A fabric message: the two header words of R239 with the type-specific fields A and B as they stand, and the byte
mask and data of the messages that carry them. -/
structure Msg where
  ty : MsgTy
  src : BitVec 12
  dst : BitVec 12
  txid : BitVec 12
  urg : BitVec 2
  pol : Pol
  sec : Bool
  a : BitVec 12
  la : LineAddr
  b : BitVec 18
  mask : BitVec 64
  data : Line
  deriving DecidableEq, Repr

/-- What fails an encoder input (R86). -/
inductive EncFault where
  | illegal | los | index | overspeed
  deriving DecidableEq, Repr

/-- Why the checking engine takes over a polder (R93). -/
inductive TakeoverCause where
  | halfLost | parity | encoder
  deriving DecidableEq, Repr

/-- The detectors of R126 that end in a fence, and the tick-dirty ECC error that ends in an abort. -/
inductive FaultSource where
  | residue | state | tickDirty
  deriving DecidableEq, Repr

/-- A TLBI as it reaches a core (R164, R226): form 0 to 6, LEAF, the address and the ASID and VMID it names. -/
structure TlbInv where
  form : Fin 7
  leaf : Bool
  va : Word
  asid : BitVec 16
  vmid : BitVec 16
  deriving DecidableEq, Repr

/-- The kinds of access a walk serves (R203, R211). -/
inductive AccKind where
  | fetch | load | store | atomic
  deriving DecidableEq, Repr

/-- What a LOAD is: a data read, or the fetch of an instruction line (R180, R210). -/
inductive LoadKind where
  | data | fetch
  deriving DecidableEq, Repr

/-- The kinds of branch the predictor tells apart (R168, R169). -/
inductive BranchKind where
  | cond | jump | call | ret | indirect
  deriving DecidableEq, Repr

/-- The call instructions of the K64 volume that raise an exception at S with their immediate: a supervisor call and a breakpoint
(R151). -/
inductive CallKind where
  | call | breakpoint
  deriving DecidableEq, Repr

/-- A cache way that can be retired (R200). -/
inductive CacheWay where
  | l2 (g : GCore) (way : Fin 16)
  | dc (d : Die) (slice : Fin 20) (way : Fin 16)
  deriving DecidableEq, Repr

/-- A DRAM bank of a sub-channel: rank, bank group and bank (R272). -/
structure BankId where
  rank : Fin 4
  group : Fin 8
  bank : Fin 4
  deriving DecidableEq, Repr

/-- What the on-the-fly check of a scrub read finds (R293, R296). -/
inductive EccOutcome where
  | good | corrected | uncorrectable
  deriving DecidableEq, Repr

/-- A DRAM row of a sub-channel (R297). -/
structure RowId where
  sc : Fin 2
  bank : BankId
  row : BitVec 17
  deriving DecidableEq, Repr


/-- A GVCP discovery answer (R307): the head's MAC and serial number, its address, and the configuration step of R307
that it answers with an error, if any. -/
structure GvcpAnswer where
  mac : BitVec 48
  serial : BitVec 128
  ip : BitVec 32
  failStep : Option (Fin 7)
  deriving DecidableEq, Repr

/-- What a received Ethernet frame holds (R302). -/
inductive HeadKind where
  | arp (ip : BitVec 32)
  | icmpEcho (ip : BitVec 32) (data : List Byte)
  | gvcp | gvsp | ptp | pause | fragment | options | other
  deriving DecidableEq, Repr

/-- A received Ethernet frame: its VLAN (0 untagged), whether FCS and FEC are good, its length, and what it holds. -/
structure HeadFrame where
  vid : BitVec 12
  fcsOk : Bool
  fecOk : Bool
  len : Nat
  kind : HeadKind
  deriving DecidableEq, Repr

/-- The PTP messages of R304. -/
inductive PtpKind where
  | sync (twoStep : Bool)
  | followUp | delayReq | delayResp | announce | other
  deriving DecidableEq, Repr

/-- What a GVSP packet is (R306, R312): a leader with its time stamp, a payload packet, a trailer, or a kind that is not
used. -/
inductive GvspKind where
  | leader (ts : Word)
  | payload (data : List Byte)
  | trailer
  | foreign
  deriving DecidableEq, Repr

/-- A GVSP packet: source address, block ID, packet ID and kind. -/
structure GvspPacket where
  ip : BitVec 32
  block : Word
  pid : BitVec 32
  kind : GvspKind
  deriving DecidableEq, Repr

/-- A flit as it arrives (R333): whether its CRC is good, its header, and the messages its slots carry. -/
structure Flit where
  crcOk : Bool
  kind : Fin 4
  seq : BitVec 10
  ack : BitVec 10
  fmt : BitVec 4
  crVn : Fin 8
  crCnt : Fin 8
  msgs : List Msg
  deriving DecidableEq, Repr

/-- What a lane test finds (R346): the failed data lanes of the hub-to-peer and of the peer-to-hub direction, and the
interruption in ns. -/
structure LaneTest where
  tx : List (Fin 64)
  rx : List (Fin 64)
  ns : Nat
  deriving DecidableEq, Repr

/-- What a CAP flit offers (R338): DIEKIND, REV, LEVEL, FEATURES, and the initial credits of VN0 to VN5. -/
structure CapOffer where
  kind : Fin 4
  rev : Fin 16
  level : Fin 16
  features : Byte
  credits : List Byte
  deriving DecidableEq, Repr

/-- The header of a received cascade frame (R362), with the port it came by. KIND is the command, and whether the kind is flooded
(R363) tells whether DST or FSEQ counts. -/
structure CasHdr where
  port : Fin 4
  src : Fin 16
  dst : Fin 16
  ttl : Fin 16
  id : BitVec 32
  lseq : BitVec 16
  lack : BitVec 16
  fseq : Word
  deriving DecidableEq, Repr

/-- A member as HELLO and MEMBER announce it (R363): serial number, priority, MASTER_CAP, PROMOTE; with MEMBER also its role (0
member, 1 master, 2 island master), its hops to the master, the sum of DELAY + 350 ns over the hops of its shortest path to the
master (log entry 31), and its timing values as CS_TIMING lays them out. -/
structure MemberInfo where
  serial : Word
  prio : Byte
  masterCap : Bool
  promote : Bool
  role : Fin 3
  hops : Fin 16
  pathNs : Nat
  timing : Word
  deriving DecidableEq, Repr

/-- A TICK frame (R363, R370). -/
structure CasTick where
  chan : Fin 8
  num : BitVec 48
  edge : Word
  count : Word
  island : Bool
  deriving DecidableEq, Repr

/-- What a PUT, GET_REQ and their answers name (R380, R382): the sending polder, the window and the line's offset in it. -/
structure XferArg where
  pol : Fin 32
  win : Fin 16
  off : Word
  deriving DecidableEq, Repr

/-- The first frame of a relayed entry (R383): whether the sender took it from a mailbox ring, the entry, and its buffer's
bytes. -/
structure RelayCmdHead where
  mb : Bool
  e : Entry
  total : Nat
  deriving DecidableEq, Repr

/-- The first frame of a relayed completion (R383): CID, status, RESULT and TICK_LO, and the bytes returned. -/
structure RelayCplHead where
  cid : BitVec 16
  status : Byte
  result : BitVec 128
  tickLo : BitVec 20
  total : Nat
  deriving DecidableEq, Repr

/-- The straps that PORST_N samples (R8, R438): STRAP_PRIMARY as the half whose controller is active, STRAP_CASCADE_ID, and
STRAP_BOOT. -/
structure Straps where
  primary : Half
  cascadeId : Fin 16
  boot : Fin 4
  deriving DecidableEq, Repr

/-- What a channel shows at start-up (R268, R269): MC_CFG's fields, whether its DIMM is one the package takes, and whether
training succeeds. -/
structure ChanReport where
  dpc : Fin 3
  ranks : Fin 3
  dense : Bool
  supported : Bool
  trained : Bool
  trfcsb : BitVec 16
  trefi : BitVec 16
  deriving DecidableEq, Repr

/-- What start-up finds in its present phase (R439): the sixteen channels, and the compute dies that fail. -/
structure StartupReport where
  chans : List ChanReport
  badDies : List (Fin 12)
  deriving DecidableEq, Repr

/-- What a precise sample says of the instruction (R449, words 0 to 2 and 5). -/
structure SampleInfo where
  dva : BitVec 64
  lat : BitVec 16
  rlat : BitVec 16
  src : Byte
  tlbmiss : Bool
  mispred : Bool
  inst : BitVec 32
  deriving DecidableEq, Repr

/-- An event as a block raises it (R454, R462): code, polder concerned (0 none), whether that polder's view shows it,
source stop, the arguments that go to ARG0 to ARG3, and the arguments the code's table shows "without" (bit i for
ARGi). -/
structure Event where
  code : Nat
  pol : Nat
  pview : Bool
  src : Nat
  args : List Nat
  hide : Nat
  deriving DecidableEq, Repr

/-- A K64 atomic operation by the number the K64 volume gives it (log entry 3). -/
abbrev AtomicOp := BitVec 8

/-- What error detection finds at an access (R199): none, first-level parity, the merging buffer, L2 data corrected, L2
data, an L2 tag, die-cache data corrected, die-cache data, one or both copies of a die-cache tag. -/
inductive CacheErr where
  | none | l1 | mb | l2Corr | l2Data | l2Tag | dcCorr | dcData | dcTag | dcTagBoth
  deriving DecidableEq, Repr

/-- A request TLP below BAR2's part of the address space (R411, R419). -/
inductive BarReq where
  | read | write | atomic | io
  deriving DecidableEq, Repr

/-- What a memory TLP that is no BAR2 request addresses: BAR0 with the QRB (R408), BAR4 with the MSI-X table and PBA (R409), or the
expansion ROM (R410). -/
inductive PeBar where
  | bar0 | bar4 | rom
  deriving DecidableEq, Repr

/-- The payload of such a TLP: whole 8 B words, one aligned 4 B word (in the low half of a word), or another size or alignment. -/
inductive TlpSize where
  | words | dword | other
  deriving DecidableEq, Repr

/-- An end of a die-link module (R331): the hub end of module `m` of a half, or the compute die's end of it. -/
structure LinkEnd where
  half : Half
  m : Fin 13
  die : Bool
  deriving DecidableEq, Repr

/-- The rails of R423. -/
inductive Rail where
  | aon | hub (h : Half) | serL | serH | io | phy | cd (d : Die)
  deriving DecidableEq, Repr

/-- A power domain (R432): kind 0x0 to 0x7 and index. -/
structure Domain where
  kind : Fin 8
  index : Fin 256
  deriving DecidableEq, Repr

/-- The commands. Each constructor's docstring is the summary of its row of spec/opcode_table.json. -/
inductive Instr where
  /-- SQ_DB (R41): A write to a submission-queue doorbell sets the new SQ tail, or is ignored and sets QRB_STAT.DB_ERR. -/
  | sqDb (src : Source) (q : Fin 64) (v : Word)
  /-- CQ_DB (R41): A write to a completion-queue doorbell sets the new CQ head and frees slots for held completions, or is ignored
  and sets DB_ERR. -/
  | cqDb (src : Source) (q : Fin 64) (v : Word)
  /-- COMMAND_FETCH (R43): The active controller arbitrates over pending entries and fetches the next submission entry, checking it
  against the completion cache. -/
  | commandFetch (e : Entry) (list : List (Word × Word)) (data : List Byte)
  /-- COMPLETION_POST (R37): The controller writes the 32 B completion entry with the CQ phase, or holds it while the CQ is full. -/
  | completionPost (src : Source) (cq : Fin 64)
  /-- SIDEBAND_REQUEST (R32): An MCTP request message on the management sideband carries one entry, or is discarded whole if the
  previous response is still unsent. -/
  | sidebandRequest (e : Entry)
  /-- QRB_ENABLE (R40): Writing QRB_CTL.EN to 1 makes the admin queue live and sets QRB_STAT.RDY within 1 ms. -/
  | qrbEnable (src : Source)
  /-- QRB_DISABLE (R40): Writing QRB_CTL.EN to 0 stops fetching, completes fetched commands, deletes queues 1-63 and clears RDY. -/
  | qrbDisable (src : Source)
  /-- HC_HEARTBEAT (R29): Every 20 us the active hub controller sends a heartbeat to the standby. -/
  | hcHeartbeat (arrives : Bool)
  /-- CONTROLLER_TAKEOVER (R29): On three missed heartbeats or loss of the active half the standby takes over, rewrites recorded
  completions and re-executes accepted commands. -/
  | controllerTakeover
  /-- STANDBY_REJOIN (R30): A restarted or newly booted controller copies the active state and sets CP_ROLE.STANDBY_READY. -/
  | standbyRejoin (imageGood : Bool)
  /-- IDENTIFY (R48): Writes one identity structure of the requested kind to DESC0. -/
  | identify (c : Cmd)
  /-- GET_LOG (R46): Returns a window of the error, recorder export, berm history, wear or firmware log. -/
  | getLog (c : Cmd)
  /-- GET_FEATURE (R46): Returns the value of a listed feature. -/
  | getFeature (c : Cmd)
  /-- SET_FEATURE (R46): Writes the value of a listed feature not given its own row and returns the previous value. -/
  | setFeature (c : Cmd)
  /-- SET_WRR_WEIGHTS (R43): SET_FEATURE 0x0001 sets the sending source's W_H, W_M and W_L weights. -/
  | setWrrWeights (c : Cmd)
  /-- SET_TRIG_CFG (R105): SET_FEATURE 0x0100+t writes TRIG_CFG of a trigger and, in Guarded, of its pair. -/
  | setTrigCfg (c : Cmd)
  /-- SET_GD_CTL (R140): SET_FEATURE 0x0200+p writes the guard control of a polder. -/
  | setGdCtl (c : Cmd)
  /-- SET_ENTRY_POINT (R146): SET_FEATURE 0x0300+p sets a polder's entry point and, with START = 1, starts every core that has not
  yet run. -/
  | setEntryPoint (c : Cmd)
  /-- SET_HP_CFG (R301): SET_FEATURE 0x0400+n changes a head port's mode and retrains it, or completes BUSY if a stream is bound. -/
  | setHpCfg (c : Cmd)
  /-- SET_CS_TBIND (R372): SET_FEATURE 0x0500+p binds a polder to a cascade tick channel. -/
  | setCsTbind (c : Cmd)
  /-- SET_SEND_RING (R381): SET_FEATURE 0x0540+p sets the base and size of a polder's cascade send ring. -/
  | setSendRing (c : Cmd)
  /-- SET_RELAY (R383): SET_FEATURE 0x0020 relays a source's SQ to a cascade member. -/
  | setRelay (c : Cmd)
  /-- SET_CNT_DUMP (R450): SET_FEATURE 0x0700+p sets the counter dump period K of a polder. -/
  | setCntDump (c : Cmd)
  /-- QUEUE_CREATE (R42): Creates an SQ or CQ on queue 0 of an endpoint or mailbox set, checking its ring. -/
  | queueCreate (c : Cmd)
  /-- QUEUE_DELETE (R42): Deletes an SQ after its fetched commands complete, or a CQ no SQ uses. -/
  | queueDelete (c : Cmd)
  /-- FW_DOWNLOAD (R56): Writes part of an image into the slot that is not running, under one download session per slot. -/
  | fwDownload (c : Cmd)
  /-- FW_COMMIT_STAGE (R56): FW_COMMIT action 0 verifies the image and marks the slot valid, or empty on failure. -/
  | fwCommitStage (c : Cmd)
  /-- FW_COMMIT_NEXT_RESET (R56): FW_COMMIT action 1 verifies the image and makes the slot the boot choice for the next reset. -/
  | fwCommitNextReset (c : Cmd)
  /-- FW_COMMIT_LIVE (R56): FW_COMMIT action 2 verifies the image, swaps controller roles by planned handover and restarts the
  former active controller on the new slot. -/
  | fwCommitLive (c : Cmd)
  /-- CONFIG_WRITE (R52): Checks a configuration record and stores it as the pending record for the next package reset or POR. -/
  | configWrite (c : Cmd)
  /-- CONFIG_READ (R52): Returns the configuration record in force or the pending one. -/
  | configRead (c : Cmd)
  /-- POLDER_CREATE (R60): Creates a polder from its descriptor and grants cores explicitly or by the rule of R61. -/
  | polderCreate (c : Cmd)
  /-- POLDER_DELETE (R67): Stops ticks, unbinds triggers and streams, detaches functions and regions, and returns the cores to
  polder 0. -/
  | polderDelete (c : Cmd)
  /-- POLDER_ATTACH (R63): Binds a core, region, trigger, function, encoder, cascade port, frame or dump area, or the sideband to a
  polder. -/
  | polderAttach (c : Cmd)
  /-- POLDER_DETACH (R63): Removes an object from a polder; regions are swept and cores leave at their point of rest. -/
  | polderDetach (c : Cmd)
  /-- CORE_DETACH_AT_REST (R481): A detached core reaches its point of rest, is cleaned under R65, and its logical number becomes
  vacant. -/
  | coreDetachAtRest (g : GCore)
  /-- TICK_CONFIGURE (R88): Checks and accepts a tick descriptor for a polder. -/
  | tickConfigure (c : Cmd)
  /-- TICK_CONFIG_TAKE_EFFECT (R89): At the first old-source edge at least 1 ms after acceptance, or 1 ms after for a stopped
  polder, the new tick configuration takes force. -/
  | tickConfigTakeEffect (p : Pol)
  /-- TRIGGER_PROGRAM (R102): Queues a firing for a tick number and offset on a trigger and its pair, dropping or firing at once if
  late. -/
  | triggerProgram (c : Cmd)
  /-- JNS_CREATE (R53): Allocates a journal namespace for a polder. -/
  | jnsCreate (c : Cmd)
  /-- JNS_DELETE (R53): Erases a journal namespace and frees its space. -/
  | jnsDelete (c : Cmd)
  /-- JOURNAL_WRITE (R54): Writes to a namespace, each 16 KiB block atomically by copy-on-write, in ascending block order. -/
  | journalWrite (c : Cmd)
  /-- JOURNAL_READ (R54): Reads from a namespace, each block all old or all new. -/
  | journalRead (c : Cmd)
  /-- RECORDER_EXPORT_KEEP (R460): Exports one half's records to a slot of the keep-store dump area and logs code 0x04. -/
  | recorderExportKeep (c : Cmd)
  /-- RECORDER_EXPORT_BUFFER (R460): Copies the records held, in the sender's view form, to DESC0. -/
  | recorderExportBuffer (c : Cmd)
  /-- BERM_RETIRE (R388): Takes a resource of the named kind out of service, by migration, loss or retirement as the kind decides.
  -/
  | bermRetire (c : Cmd)
  /-- BERM_BRING_IN (R388): Returns a resource of the named kind to service or starts its resynchronisation. -/
  | bermBringIn (c : Cmd)
  /-- CASCADE_JOIN (R366): Enables cascade ports, exchanges HELLO and MEMBER, calibrates and adopts or elects a master. -/
  | cascadeJoin (c : Cmd)
  /-- CASCADE_LEAVE (R367): Floods LEAVE, disables the cascade ports and leaves the cascade. -/
  | cascadeLeave (c : Cmd)
  /-- HEAD_BIND (R309): Stores a HEAD_BIND entry and loads a stream context on the named ports. -/
  | headBind (c : Cmd)
  /-- HEAD_UNBIND (R327): Stops a stream at once, discards its reorder window and gives up control of the head. -/
  | headUnbind (c : Cmd)
  /-- WINDOW_COMMIT (R357): Copies the staged dike or PCIe inbound windows into force in one cycle and increments the epoch. -/
  | windowCommit (c : Cmd)
  /-- STATUS_READ (R47): Returns the state word of a named object. -/
  | statusRead (c : Cmd)
  /-- TICK_QUERY (R46): Returns a polder's tick number and its edge PTIME. -/
  | tickQuery (c : Cmd)
  /-- PTIME_QUERY (R46): Returns PTIME and its discipline source. -/
  | ptimeQuery (c : Cmd)
  /-- RECORDER_FREEZE (R459): Freezes a half's recorder, or fixes the end of a polder's view. -/
  | recorderFreeze (c : Cmd)
  /-- RECORDER_UNFREEZE (R459): Ends a freeze, writes staged events and returns the events dropped. -/
  | recorderUnfreeze (c : Cmd)
  /-- POWER_VOTE (R432): Sets or withdraws a client's vote on a power domain. -/
  | powerVote (c : Cmd)
  /-- TRIGGER_ARM (R104): Arms a trigger output. -/
  | triggerArm (c : Cmd)
  /-- TRIGGER_DISARM (R104): Disarms a trigger output. -/
  | triggerDisarm (c : Cmd)
  /-- HEAD_PRESENCE (R311): Returns link and presence bits per head port. -/
  | headPresence (c : Cmd)
  /-- PWRFAIL_ASSERT (R437): Recognised PWRFAIL_N assertion refuses keep-store commands, completes writes in progress and sets
  PF_SAFE. -/
  | pwrfailAssert
  /-- PWRFAIL_DEASSERT (R437): Recognised PWRFAIL_N deassertion with no rail out of range clears PF_SAFE and resumes acceptance. -/
  | pwrfailDeassert
  /-- PF_SAFE (R437): All keep-store block writes in progress have completed, and PM_RAIL.PF_SAFE sets. -/
  | pfSafe
  /-- RGN_COMMIT (R73): A write with GO = 1 copies the staged words into one region entry in both halves atomically. -/
  | rgnCommit (a : Acc) (h : Half) (v : Word)
  /-- REGISTER_WRITE (R7): A control-register write with no behaviour of its own updates fields per their access types, or reads
  zero and is ignored under R5. -/
  | registerWrite (a : Acc) (write : Bool) (addr : BitVec 52) (size : Fin 4) (v : Word)
  /-- PT_STEP (R81): A write to PT_STEP steps PTIME while no polder is tick-bound, and is otherwise refused with STEP_REFUSED. -/
  | ptStep (a : Acc) (h : Half) (v : Word)
  /-- PT_PHASE (R81): A write to PT_PHASE adds a phase correction to be absorbed by slewing. -/
  | ptPhase (a : Acc) (h : Half) (v : Word)
  /-- PPS_EDGE (R472): A rising edge on PPS_IN is stamped into PT_PPS. -/
  | ppsEdge (h : Half)
  /-- PTIME_SOURCE_LOST (R81): Loss of the discipline source holds the last frequency and sets PT_STAT.HOLDOVER until it returns. -/
  | ptimeSourceLost (lost : Bool)
  /-- PTIME_ALIGN (R80): Every 1 ms a die PTIME replica is aligned to its engine by two-way timing over VN5. -/
  | ptimeAlign (d : Die)
  /-- ENCODER_COUNT (R83): A filtered quadrature or pulse transition adds or subtracts 1 from ENC_POS. -/
  | encoderCount (e : Fin 16) (a b z : Bool) (held : Nat)
  /-- ENCODER_INPUT_FAIL (R86): An illegal transition, loss of signal, index error or overspeed fails the input and hands driving to
  the partner engine. -/
  | encoderInputFail (e : Fin 16) (cause : EncFault)
  /-- TICK_EDGE (R82): An edge of the polder's tick source occurs and the engines stamp it, cross-check encoders and send tick
  messages. -/
  | tickEdge (p : Pol) (chk : Option (Nat × Nat))
  /-- HOST_TICK (R82): A write of TK_CTL.HOST_TICK produces one edge for a HOST source. -/
  | hostTick (a : Acc) (h : Half) (p : Pol)
  /-- ENCODER_STALL_TIMEOUT (R85): No ENC edge for 1 s logs code 0x4D and TK_NOW.STATE reads stalled. -/
  | encoderStallTimeout (p : Pol)
  /-- TICK_MESSAGE (R90): A tick message reaches a die control stop and is passed to the polder's cores' pending latches. -/
  | tickMessage (d : Die) (p : Pol) (te : Half)
  /-- TICK_BACKUP_COPY (R93): If the driver's copy has not arrived 20 ns before fire PTIME, the die passes on the checker's copy. -/
  | tickBackupCopy (d : Die) (p : Pol)
  /-- ENGINE_TAKEOVER (R93): The checking engine takes over driving a polder at the next edge. -/
  | engineTakeover (p : Pol) (cause : TakeoverCause)
  /-- TICK_TAKE (R90): A core takes the pending tick when its PTIME reaches the fire PTIME, or on arrival if late. -/
  | tickTake (g : GCore)
  /-- TICK_RECORD_DURABLE (R113): The tick record written by the die control stop becomes durable and the core may retire
  instructions of the tick. -/
  | tickRecordDurable (g : GCore)
  /-- TICKWAIT (R95): Takes a pending tick or waits in C1, closing an open tick first. -/
  | tickwait (g : GCore) (w : BitVec 32)
  /-- TICKDONE (R96): Closes the open tick, committing it in a guarded polder. -/
  | tickdone (g : GCore) (w : BitVec 32)
  /-- TICKABORT (R125): Ends the open guarded tick without effect and commits an empty tick with ABORTED = 1. -/
  | tickabort (g : GCore) (w : BitVec 32)
  /-- TICK_OVERRUN (R98): At the deadline a core with its tick open overruns and the polder's policy applies. -/
  | tickOverrun (g : GCore)
  /-- TICK_RESUME (R98): A write of TK_CTL.RESUME resumes suspended tick delivery from the next edge. -/
  | tickResume (a : Acc) (h : Half) (p : Pol)
  /-- TRIGGER_FIRE (R101): A queued firing reaches edge(n)+offset and drives a pulse, or is discarded if disarmed. -/
  | triggerFire (t : Fin 32)
  /-- SLACK_OPEN (R107): When all participating polders are in slack, SlackOpen with the close PTIME is sent to the memory
  controllers. -/
  | slackOpen
  /-- SLACK_CLOSE (R107): A window closed early sends SlackClose and controllers start nothing more. -/
  | slackClose
  /-- COMMIT_POINT (R120): When phase A acknowledgements and the commit record's acknowledgements return, TICKDONE retires and phase
  B starts. -/
  | commitPoint (g : GCore)
  /-- PHASE_B_COMPLETE (R120): Every tick-dirty line has been written home and its mark cleared. -/
  | phaseBComplete (g : GCore)
  /-- DEFERRED_DRAIN (R120): Phase C drains the deferred queue entries in order with their tags, then the tick closes. -/
  | deferredDrain (g : GCore)
  /-- DEFER_LIMIT_EXPIRED (R122): A deferred snoop's DEFER_LIMIT expires and a holder not yet at step 2 without a token aborts. -/
  | deferLimitExpired (g : GCore) (la : LineAddr)
  /-- CORE_FAULT_DETECTED (R126): A residue, parity or ECC check detects a core fault and the core is fenced. -/
  | coreFaultDetected (g : GCore) (source : FaultSource) (syndrome : Word)
  /-- REPLACEMENT_READY (R131): The berm replacement reaches C0, loads the frame and starts the re-run or next tick. -/
  | replacementReady (p : Pol) (l : Byte)
  /-- DIE_HEARTBEAT_LOSS (R134): Four missed die heartbeats detect the loss of a whole die and start recovery of its logical CPUs.
  -/
  | dieHeartbeatLoss (d : Die)
  /-- LOAD (R180): A load reads from the merging buffer, L1D or beyond; an illegal Device read in a guarded tick raises a guard
  violation. -/
  | load (g : GCore) (kind : LoadKind) (rd : Fin 32) (va : Word) (size : Fin 7) (err : CacheErr)
  /-- STORE (R115): A retiring store writes L1D and the merging buffer, marking lines tick-dirty or deferring Device writes in a
  guarded tick. -/
  | store (g : GCore) (va : Word) (size : Fin 7) (rs : Fin 32) (ordered : Bool)
  /-- INTERRUPT (R154): An interrupt identity becomes pending and is taken, or held during an open tick. -/
  | interrupt (p : Pol) (l : Byte) (id : BitVec 16)
  /-- MFSR (R149): Reads a system register, or raises class 0x02. -/
  | mfsr (g : GCore) (rd : Fin 32) (n : BitVec 12)
  /-- MTSR (R149): Writes a system register without behaviour of its own, or raises class 0x02. -/
  | mtsr (g : GCore) (n : BitVec 12) (rs : Fin 32)
  /-- CTXKEY_WRITE (R171): An MTSR to CTXKEY serialises the front end under the new predictor key. -/
  | ctxkeyWrite (g : GCore) (rs : Fin 32)
  /-- CTXRND_DRAW (R171): Writing CTXRND.DRAW loads CTXKEY with a fresh random draw. -/
  | ctxrndDraw (g : GCore) (rs : Fin 32)
  /-- TRANSLATION_REG_WRITE (R201): An MTSR to S1ROOT, S1CTL, S2ROOT or S2CTL serialises so younger instructions translate under the
  new value. -/
  | translationRegWrite (g : GCore) (n : BitVec 12) (rs : Fin 32)
  /-- RDPKR (R158): Writes PKR into RD. -/
  | rdpkr (g : GCore) (w : BitVec 32)
  /-- WRPKR (R158): Renames a new PKR value for younger loads and stores. -/
  | wrpkr (g : GCore) (w : BitVec 32)
  /-- CMA (R159): Cleans, invalidates or cleans-and-invalidates the line of an address at package, die or core scope. -/
  | cma (g : GCore) (w : BitVec 32)
  /-- CMSW (R160): Performs a maintenance operation on one cache line of this core by set and way. -/
  | cmsw (g : GCore) (w : BitVec 32)
  /-- WLOCK (R162): Preloads an L2 way with a range and locks it, returning lines placed and status. -/
  | wlock (g : GCore) (w : BitVec 32)
  /-- WUNLOCK (R163): Makes a locked way ordinary. -/
  | wunlock (g : GCore) (w : BitVec 32)
  /-- WLQUERY (R163): Returns the mask of locked ways. -/
  | wlquery (g : GCore) (w : BitVec 32)
  /-- TLBI (R164): Removes translations of the selected form locally or by broadcast within the polder. -/
  | tlbi (g : GCore) (w : BitVec 32)
  /-- TLBI_BROADCAST (R226): A broadcast invalidation reaches a target core, which removes matching entries, restarts walks and
  acknowledges. -/
  | tlbiBroadcast (g : GCore) (inv : TlbInv)
  /-- TLBSYNC (R165): Retires when every earlier TLBI is complete at every target. -/
  | tlbsync (g : GCore) (w : BitVec 32)
  /-- PLACE (R166): Asks home to push a line in S into another core's cache of the same polder. -/
  | place (g : GCore) (w : BitVec 32)
  /-- FENCE_MB (R167): Holds younger instructions until older loads and stores complete and the merging buffer drains. -/
  | fenceMb (g : GCore) (w : BitVec 32)
  /-- FENCE_DEV (R167): Holds younger memory accesses until older Device accesses are acknowledged. -/
  | fenceDev (g : GCore) (w : BitVec 32)
  /-- FENCE_PLC (R167): Holds younger memory accesses until older PLACE hints are pushed or dropped. -/
  | fencePlc (g : GCore) (w : BitVec 32)
  /-- FENCE_CM (R167): Holds younger accesses until older CMA and CMSW complete everywhere. -/
  | fenceCm (g : GCore) (w : BitVec 32)
  /-- FENCE_I (R167): Makes older stores visible to fetch, invalidates L1I and refetches. -/
  | fenceI (g : GCore) (w : BitVec 32)
  /-- BRANCH_MISPREDICT (R169): A mispredicted branch restores history and return stack from its checkpoint and refetches. -/
  | branchMispredict (g : GCore) (ahead : List (Word × BranchKind)) (taken : Bool) (target : Word) (wrong : List (Bool × Word))
  /-- PAGE_WALK (R203): A TLB miss walks the stage-1 and stage-2 tables, faulting or filling the TLB. -/
  | pageWalk (g : GCore) (va : Word) (acc : AccKind) (la : LineAddr) (err : CacheErr)
  /-- MB_ENTRY_TIMEOUT (R181): A merging-buffer entry that has taken no store for 64 cycles closes. -/
  | mbEntryTimeout (g : GCore) (la : LineAddr)
  /-- MB_DRAIN (R181): The oldest closed merging-buffer entry drains into its L2 line once the line is held in M. -/
  | mbDrain (g : GCore) (err : CacheErr)
  /-- L2_DISABLE (R195): Clearing L2_CTL.EN starts a sweep that cleans, unlocks and invalidates the L2, or is refused for a guarded
  polder. -/
  | l2Disable (a : Acc) (g : GCore) (v : Word)
  /-- L2_SWEEP_DONE (R195): The L2 sweep leaves no valid line and EN_STATUS clears. -/
  | l2SweepDone (g : GCore)
  /-- DC_DISABLE (R196): Clearing DC_CTL.EN sweeps the die cache, back-invalidating the die's L2s, or is refused. -/
  | dcDisable (a : Acc) (d : Die) (v : Word)
  /-- DC_SWEEP_DONE (R196): No slice holds a valid line and DC_STAT.EN_STATUS clears. -/
  | dcSweepDone (d : Die)
  /-- DC_MAINT (R198): A write with GO = 1 performs a die-cache maintenance operation on one entry by slice, set and way. -/
  | dcMaint (a : Acc) (d : Die) (v : Word)
  /-- DC_MAINT_DONE (R198): The die-cache maintenance operation completes everywhere and BUSY clears. -/
  | dcMaintDone (d : Die)
  /-- CACHE_WAY_RETIRE (R200): An L2 or die-cache way exceeding ECC_THRESH in a window is retired. -/
  | cacheWayRetire (unit : CacheWay)
  /-- READ_SHARED (R248): A ReadShared request reaches its home bank and is checked, forwarded, queued or Nacked. -/
  | readShared (m : Msg)
  /-- READ_OWN (R248): A ReadOwn request reaches its home bank for an M grant. -/
  | readOwn (m : Msg)
  /-- UPGRADE (R248): An Upgrade reaches its bank, which invalidates other sharers and grants M. -/
  | upgrade (m : Msg)
  /-- PLACE_WRITE (R249): A PlaceWrite reaches its bank, which writes memory, invalidates copies and has the line pushed, or a hint
  is forwarded or dropped. -/
  | placeWrite (m : Msg)
  /-- WRITE (R249): A Write reaches its bank, which invalidates copies and forwards it to the controller. -/
  | write (m : Msg)
  /-- EVICT_CLEAN (R248): A die's EvictClean removes it from PRES at the bank. -/
  | evictClean (m : Msg)
  /-- INVALIDATE (R191): An Invalidate reaches a die's slice and is forwarded to the L2s in PRES, deferred at tick-dirty lines. -/
  | invalidate (m : Msg)
  /-- RECALL (R191): A Recall reaches a die, which writes back or drops the line and answers RecallAck. -/
  | recall (m : Msg)
  /-- DOWNGRADE (R191): A Downgrade reaches a die, which cleans the line to S and answers RecallAck. -/
  | downgrade (m : Msg)
  /-- CENSUS (R260): A Census reaches a die control stop, which walks its die-cache tags and sends CensusReports. -/
  | census (m : Msg)
  /-- INV_ACK (R248): An InvAck reaches the bank and counts down INV, or a RETRY answer has the snoop resent. -/
  | invAck (m : Msg)
  /-- RECALL_ACK (R248): A RecallAck reaches the bank and continues or waits for WbAccepted. -/
  | recallAck (m : Msg)
  /-- SNOOP_RETRY_RESEND (R248): NACK_RETRY ns after a RETRY answer the bank sends the same snoop again. -/
  | snoopRetryResend (h : Half) (la : LineAddr) (d : Die)
  /-- GRANT (R248): A Grant reaches the L2, which takes the line in M. -/
  | grant (m : Msg)
  /-- RD_DONE (R248): RdDone at the bank writes STATE, PRES and GSTAMP and serves the next waiter. -/
  | rdDone (m : Msg)
  /-- WB_ACCEPTED (R248): WbAccepted at the bank sends WbAck and moves or continues the line's transaction. -/
  | wbAccepted (m : Msg)
  /-- WR_DONE (R248): WrDone at the bank sends WriteDone to the writer. -/
  | wrDone (m : Msg)
  /-- WB_ACK (R253): WbAck at an L2 frees its writeback-pending entry and clears a tick-dirty mark. -/
  | wbAck (m : Msg)
  /-- WRITE_DONE (R249): WriteDone completes a Write at the writer. -/
  | writeDone (m : Msg)
  /-- MIR_DONE (R286): MirDone reaches the writer or home controller, completing a mirror copy. -/
  | mirDone (m : Msg)
  /-- PLACE_DONE (R250): PlaceDone reaches the issuing core with PUSHED. -/
  | placeDone (m : Msg)
  /-- NACK (R233): A Nack reaches a requester, which retries NACK_RETRY ns later, aged after four. -/
  | nack (m : Msg)
  /-- NACK_RETRY (R233): The retry delay expires and the requester resends its request. -/
  | nackRetry (m : Msg)
  /-- DATA (R240): A Data message reaches a requester or push target and fills the line, or a push is dropped. -/
  | data (m : Msg)
  /-- DATA_BURST (R335): A DataBurst reaches its target and is treated as four pushes. -/
  | dataBurst (m0 m1 m2 m3 : Msg)
  /-- WRITEBACK (R286): A Writeback reaches a controller's writeback reserve and is mirrored or stored. -/
  | writeback (m : Msg)
  /-- CENSUS_REPORT (R260): A CensusReport is inserted at a surviving bank, or Nacked for overflow settlement. -/
  | censusReport (m : Msg)
  /-- HOLD_WINDOW_EXPIRED (R246): A line's hold window passes and the bank may send the waiting snoop. -/
  | holdWindowExpired (h : Half) (la : LineAddr)
  /-- DIRECTORY_COLUMN_RETIRE (R252): A way column passing 64 corrected errors in 3,600 s is retired and a spare brought in. -/
  | directoryColumnRetire (h : Half) (bank : Fin 16) (way : Fin 26)
  /-- DIRECTORY_ENTRY_UE (R252): An uncorrectable entry is invalidated, its set marked BCAST and a set-scoped census run. -/
  | directoryEntryUe (h : Half) (la : LineAddr)
  /-- BCAST_SWEEP (R261): Every 100 us each BCAST set is censused again and cleared when its lines fit. -/
  | bcastSweep (h : Half) (bank : Fin 16)
  /-- HUB_HALF_LOSS (R395): Loss of a hub half is concluded from missed heartbeats or rail report and the survivor takes over. -/
  | hubHalfLoss (h : Half)
  /-- CENSUS_COMPLETE (R260): Every live die has sent LAST and overflow is settled; held requests are served. -/
  | censusComplete (h : Half)
  /-- HOMES_HAND_BACK (R264): After resynchronisation the survivor hands the returning half's homes back one bank at a time. -/
  | homesHandBack (h : Half) (bank : Fin 16)
  /-- HUB_HEARTBEAT (R395): Every 2 us each half sends a heartbeat over the spine and through a transit path. -/
  | hubHeartbeat (h : Half) (spine : Bool) (transit : Bool)
  /-- SPINE_LOSS (R265): Loss of the spine moves hub-to-hub traffic to transit paths. -/
  | spineLoss
  /-- TRANSIT_REMAP (R265): When the live transit dies change, transit traffic drains and the new mapping is used. -/
  | transitRemap
  /-- MC_COMMAND_SLOT (R275): Each sub-channel chooses one DRAM command per slot by forced refresh, urgency, rotation and row hits.
  `corrected`: a read it issues returns with an error that the code of R293 corrects. -/
  | mcCommandSlot (ch : Fin 16) (sc : Fin 2) (corrected : Bool)
  /-- PAGE_IDLE_CLOSE (R275): An open row with no request for PAGE_IDLE ns closes. -/
  | pageIdleClose (ch : Fin 16) (sc : Fin 2) (bank : BankId)
  /-- URGENCY_RISE (R279): A queued request's age passes a weir and its urgency rises. -/
  | urgencyRise (ch : Fin 16) (sc : Fin 2) (txid : BitVec 12)
  /-- REFRESH_INTERVAL (R281): Every tREFI a bank set's refresh debt rises, forcing REFsb at 4. -/
  | refreshInterval (ch : Fin 16) (sc : Fin 2) (rank : Fin 4) (set : Fin 4)
  /-- DIMM_TEMP_POLL (R282): Every 1 ms the controller reads DIMM temperature and sets the doubled refresh rate. -/
  | dimmTempPoll (ch : Fin 16) (hot : Bool) (celsius : BitVec 8)
  /-- RETRAIN_OSC_CHECK (R283): Every OSC_US the DQS oscillator measures drift and wants or forces a retraining pause. -/
  | retrainOscCheck (ch : Fin 16) (sc : Fin 2) (drift : Nat)
  /-- RETRAIN_WAIT_EXPIRED (R283): A wanted pause waits RT_WAIT_US without a window and runs at the first idle moment. -/
  | retrainWaitExpired (ch : Fin 16) (sc : Fin 2)
  /-- RETRAIN_PAUSE_END (R283): A retraining pause of at most 300 ns ends, or the sub-channel is lost on failure. -/
  | retrainPauseEnd (ch : Fin 16) (sc : Fin 2) (corrected : Bool)
  /-- REDIRECTED_READ (R287): A read passed from the home controller is served by the mirror controller. -/
  | redirectedRead (m : Msg)
  /-- CHANNEL_LOSS (R289): A DRAM channel is lost, fenced and served from the mirror, or poisoned in Throughput. -/
  | channelLoss (ch : Fin 16) (cause : Fin 4)
  /-- RESYNC_CHUNK (R290): A returning channel copies one 8 KiB chunk from the mirror, holding and then applying new writes. -/
  | resyncChunk (ch : Fin 16) (chunk : Nat)
  /-- UNCORRECTABLE_READ (R294): An uncorrectable read is retried, then recovered from the mirror or poisoned. -/
  | uncorrectableRead (m : Msg) (secondGood : Bool) (mirrorGood : Bool)
  /-- PATROL_SCRUB (R296): Patrol scrub reads one line when its bank is idle, correcting or recovering it. -/
  | patrolScrub (ch : Fin 16) (la : LineAddr) (outcome : EccOutcome)
  /-- ROW_REPAIR (R297): A row reaching ROW_THRESH is repaired by sPPR or redirected to the mirror. -/
  | rowRepair (ch : Fin 16) (row : RowId) (resource : Bool)
  /-- HEAD_LINK_UP (R307): A head sub-port's link comes up and discovery starts. -/
  | headLinkUp (port : Fin 16) (sub : Fin 4)
  /-- HEAD_LINK_DOWN (R303): Loss of PCS alignment or FEC lock takes a head sub-port's link down. -/
  | headLinkDown (port : Fin 16) (sub : Fin 4)
  /-- GVCP_DISCOVERY (R307): Every 1 s Clasto broadcasts GVCP discovery on each sub-port. -/
  | gvcpDiscovery (port : Fin 16) (sub : Fin 4)
  /-- GVCP_ANSWER (R307): A discovery answer is matched against HEAD_BIND and the head configured, or logged as unmatched. -/
  | gvcpAnswer (port : Fin 16) (sub : Fin 4) (ans : GvcpAnswer)
  /-- HEAD_HEARTBEAT (R310): Every 100 ms Clasto reads the head's control-privilege register; three misses make it absent. -/
  | headHeartbeat (stream : Fin 128) (answered : Bool) (ptpSlave : Bool)
  /-- HEAD_FRAME (R302): A received Ethernet frame is answered (ARP, ICMP, GVCP, PTP) or dropped as foreign. -/
  | headFrame (port : Fin 16) (sub : Fin 4) (f : HeadFrame)
  /-- PTP_MESSAGE (R304): A PTP event or general message on a head sub-port is time-stamped and handled. -/
  | ptpMessage (port : Fin 16) (sub : Fin 4) (kind : PtpKind) (domain : BitVec 8) (body : Word)
  /-- PTP_SYNC_SEND (R304): Every 2^-LOG_SYNC s each master head sub-port sends Sync. -/
  | ptpSyncSend (port : Fin 16) (sub : Fin 4)
  /-- GVSP_PACKET (R313): A GVSP packet enters the stream's reorder window, is forwarded to the lead, or is dropped as duplicate. -/
  | gvspPacket (port : Fin 16) (slot : Fin 8) (pkt : GvspPacket)
  /-- REORDER_TIMEOUT (R313): A missing packet position is given up after REORDER_NS. -/
  | reorderTimeout (stream : Fin 128)
  /-- SLOT_HEADER_ACCEPT (R318): Once the payload writes complete the engine writes the slot header and acknowledges the slot to the
  shadow. -/
  | slotHeaderAccept (stream : Fin 128)
  /-- CUT_TAKE (R321): At edge PTIME + CUT_LAG the engine takes cut k, writing gaps and the cut record. -/
  | cutTake (stream : Fin 128)
  /-- CUT_RECORD_DELAYED (R326): A cut record whose position frees is written with DELAYED set. -/
  | cutRecordDelayed (stream : Fin 128)
  /-- CUT_REL (R323): A write to CUT_REL releases cuts of one stream up to a tick, freeing them when conditions hold. -/
  | cutRel (a : Acc) (p : Pol) (s : Fin 128) (v : Word)
  /-- CUT_REL_ALL (R323): A write to CUT_REL_ALL releases cuts of every stream of the polder. -/
  | cutRelAll (a : Acc) (p : Pol) (v : Word)
  /-- CUT_FREE (R324): A cut covered by a release whose cores have all closed the tick is freed. -/
  | cutFree (stream : Fin 128)
  /-- INGEST_LEAD_TAKEOVER (R316): The shadow engine becomes lead, writing unacknowledged lines and rewriting the newest record. -/
  | ingestLeadTakeover (stream : Fin 128)
  /-- FLIT_RECEIVE (R336): A sequenced, maintenance or null flit is received, accepted in order or discarded with RETRY_REQ. -/
  | flitReceive (l : LinkEnd) (f : Flit)
  /-- RETRY_REQ (R336): A RETRY_REQ maintenance flit makes the sender resend from the named SEQ. -/
  | retryReq (l : LinkEnd) (seq : BitVec 10)
  /-- RETRY_REQ_REPEAT (R336): Every 2 us the receiver repeats RETRY_REQ until the expected flit arrives. -/
  | retryReqRepeat (l : LinkEnd)
  /-- ACK_TIMEOUT_RESEND (R336): No ACK progress for 4 us makes the sender resend from its oldest unacknowledged flit. -/
  | ackTimeoutResend (l : LinkEnd)
  /-- MAP_FLIT_SEND (R338): Every 500 ns each module end sends a MAP maintenance flit. -/
  | mapFlitSend (l : LinkEnd)
  /-- MAP_MISMATCH (R348): A received map disagrees with the end's own, and a retrain adopts the hub's or widest map. -/
  | mapMismatch (l : LinkEnd) (test : LaneTest)
  /-- CAP (R340): A CAP flit during training settles level, features and credits, or the peer is refused. -/
  | cap (h : Half) (m : Fin 13) (offer : CapOffer)
  /-- LINK_TRAIN (R340): A module trains its UCIe PHY, exchanges CAP and begins sequenced traffic. -/
  | linkTrain (h : Half) (m : Fin 13) (good : Bool) (test : LaneTest)
  /-- SLEEP_REQ (R345): A SLEEP_REQ is answered SLEEP_ACK when the peer is idle too. -/
  | sleepReq (l : LinkEnd)
  /-- SLEEP_ACK (R345): After SLEEP_ACK both main-band directions idle. -/
  | sleepAck (l : LinkEnd)
  /-- SLEEP_IDLE_EXPIRED (R345): A direction idle for SLEEP_IDLE ns sends SLEEP_REQ. -/
  | sleepIdleExpired (l : LinkEnd)
  /-- LINK_WAKE (R345): A message at either end wakes a sleeping link through the sideband. -/
  | linkWake (l : LinkEnd)
  /-- LANE_TEST (R346): CRC failures reaching CRC_THRESH in 1 ms run the lane test, repairing or falling back to x32. -/
  | laneTest (h : Half) (m : Fin 13) (test : LaneTest)
  /-- LK_RETRAIN (R348): A write of LK_CTL.RETRAIN retrains the module. -/
  | lkRetrain (a : Acc) (l : LinkEnd) (test : LaneTest)
  /-- LINK_MODULE_LOSS (R347): A module with no usable map, failed retrains or 5 us silence is lost and its traffic rerouted. -/
  | linkModuleLoss (h : Half) (m : Fin 13) (cause : Fin 3)
  /-- MODULE_RETRAIN_TRY (R347): Every 100 ms the hub end retrains a lost module and restores it if it trains. -/
  | moduleRetrainTry (h : Half) (m : Fin 13) (good : Bool)
  /-- GUEST_REQUEST (R353): A guest request is admitted by cap and bucket, then decoded through dike windows or refused silently. -/
  | guestRequest (g : Half) (m : Msg)
  /-- GUEST_DOORBELL (R354): A guest write to GDBd raises the configured interrupt when enabled. -/
  | guestDoorbell (g : Half) (d : Fin 16) (v : Word)
  /-- GUEST_MODULE_LOSS (R356): A lost guest module's admitted requests are completed internally and answers discarded. -/
  | guestModuleLoss (g : Half)
  /-- HELLO (R359): A HELLO frame makes a cascade link usable when CASCADE_IDs match. -/
  | hello (h : CasHdr) (serial : Word) (prio : Byte) (masterCap promote : Bool)
  /-- HELLO_SEND (R363): Every 1 ms each cascade port sends HELLO and MEMBER frames. -/
  | helloSend
  /-- MEMBER (R363): A MEMBER frame updates the member table and route table. -/
  | member (h : CasHdr) (f : MemberInfo) (divs : List (BitVec 64))
  /-- ELECT (R368): An ELECT frame registers a formation or island candidacy. -/
  | elect (h : CasHdr) (island : Option (Fin 8)) (prio : Byte) (serial : Word)
  /-- ELECTION_WAIT_END (R368): The election wait ends and the lowest (PRIORITY, serial) candidate becomes master or island master.
  -/
  | electionWaitEnd (island : Bool) (chan : Fin 8)
  /-- MASTER_SEARCH_TIMEOUT (R368): No master announced within 10 ms starts the formation election. -/
  | masterSearchTimeout
  /-- CAL (R369): A CAL frame exchanges two-way timing stamps and updates the link delay. -/
  | cal (h : CasHdr) (answer : Option (Word × Word))
  /-- CAL_SEND (R369): Every 1 ms one end of each cascade link starts two-way timing. -/
  | calSend (port : Fin 4)
  /-- SYNC (R369): A SYNC frame from the time parent disciplines PTIME. -/
  | sync (h : CasHdr) (parentTime : Word)
  /-- TICK (R370): A cascade TICK frame is passed to the tick engines for delivery at edge + L_CASCADE, or adopted after a master
  change. -/
  | tick (h : CasHdr) (f : CasTick)
  /-- HB (R363): A cascade heartbeat frame from a member is received. -/
  | hb (h : CasHdr) (st : Fin 8)
  /-- HB_SEND (R363): Every 20 us each member floods HB. -/
  | hbSend
  /-- MASTER_LOSS (R373): No route or no master HB for 60 us puts the member in holdover. -/
  | masterLoss (m : Fin 16) (route : Bool)
  /-- HOLDOVER_EDGE (R374): In holdover the tick engine makes an edge at E + j*P with the next local number. -/
  | holdoverEdge (chan : Fin 8)
  /-- HOLDOVER_END (R374): Holdover ends by HOLD_TICKS or HOLD_MS, and an island election or stall follows. -/
  | holdoverEnd (chan : Fin 8)
  /-- RECON (R378): A RECON frame is received and logged. -/
  | recon (h : CasHdr) (index : Fin 16) (chan : Fin 8) (old new : Fin 16) (ofs : BitVec 48)
  /-- LEAVE (R367): A LEAVE frame removes a member, treated as master loss if from the master. -/
  | leave (h : CasHdr)
  /-- CASCADE_LINK_RESEND (R364): An out-of-order LSEQ or 5 us without LACK progress resends frames go-back-N. -/
  | cascadeLinkResend (port : Fin 4) (lack : Option (BitVec 16))
  /-- RELAY_CMD (R383): A relayed command entry is executed by the receiving member. -/
  | relayCmd (h : CasHdr) (hd : Option RelayCmdHead) (data : List Byte)
  /-- RELAY_CPL (R383): A relayed completion and its data are posted to the SQ's CQ. -/
  | relayCpl (h : CasHdr) (hd : Option RelayCplHead) (data : List Byte)
  /-- PUT (R380): A PUT is decoded through exported windows and written at home, or refused silently. -/
  | put (h : CasHdr) (x : XferArg) (data : BitVec 512)
  /-- PUT_ACK (R382): A PUT_ACK reports put lines written at the destination. -/
  | putAck (h : CasHdr) (x : XferArg)
  /-- GET_REQ (R380): A GET_REQ is decoded through exported windows and read non-caching, or refused. -/
  | getReq (h : CasHdr) (x : XferArg)
  /-- GET_DATA (R382): GET_DATA is written locally for a get. -/
  | getData (h : CasHdr) (x : XferArg) (data : BitVec 512)
  /-- CS_SQTAIL (R381): A write to CS_SQTAIL sets the send ring tail and starts descriptors. -/
  | csSqtail (a : Acc) (p : Pol) (v : Word)
  /-- TRANSFER_DONE (R382): A put or get completes, or stays unreachable 1 ms, and the done word is written. -/
  | transferDone (p : Pol)
  /-- CS_WCOMMIT (R380): A write of GO commits the staged exported windows under the epoch rule. -/
  | csWcommit (a : Acc) (h : Half) (v : Word)
  /-- AGEING_SAMPLE (R387): Every PERIOD_MS each margin is sampled, warning or retiring an ageing core or die. -/
  | ageingSample (d : Die) (margins : List Byte)
  /-- PLANNED_MIGRATION (R390): At the old core's next close the logical CPU moves to a berm core without losing a tick. -/
  | plannedMigration (g : GCore)
  /-- MIGRATION_LOAD (R390): The replacement in C0 loads the body or migration slot and takes the next tick. -/
  | migrationLoad (p : Pol) (l : Byte)
  /-- DIE_RETIRE (R391): A compute die's cores are migrated, the die fenced and its modules taken down. -/
  | dieRetire (d : Die)
  /-- REFCLK_FAIL (R392): A failed reference clock input is switched to the other within 100 ns. -/
  | refclkFail (h : Half) (i : Fin 2)
  /-- REFCLK_BOTH_FAIL (R476): Both inputs fail at a half, which holds frequency 100 us and is then lost. -/
  | refclkBothFail (h : Half)
  /-- KEEP_BLOCK_FAIL (R393): A keep-store block failing to program or erase is replaced by a spare and the write repeated. -/
  | keepBlockFail
  /-- HALF_BRING_IN (R395): A returning half copies unit 14, the region table and contexts, trains, resynchronises and takes back
  homes. -/
  | halfBringIn (h : Half)
  /-- PERST_RELEASE (R405): Release of PERST_N starts the function's configuration readiness. -/
  | perstRelease (e : Fin 4)
  /-- CONFIG_READY (R405): The function becomes configuration-ready and stops answering RRS. -/
  | configReady (e : Fin 4)
  /-- CONFIG_REQUEST (R405): A configuration request is served or answered with Request Retry Status. -/
  | configRequest (e : Fin 4) (type1 write : Bool) (off : BitVec 12) (v : BitVec 32)
  /-- FLR (R406): A function-level reset stops DMA and interrupts and resets FLR registers. -/
  | flr (e : Fin 4)
  /-- BAR0_ACCESS (R408): A BAR0 TLP is taken as aligned 8 B accesses to the function's QRB. -/
  | bar0Access (e : Fin 4) (write : Bool) (bar : PeBar) (off : BitVec 20) (data : List Word) (size : TlpSize)
  /-- BAR2_REQUEST (R411): A BAR2 request is decoded through inbound windows into reads, Writes or PlaceWrites, or refused silently.
  -/
  | bar2Request (e : Fin 4) (req : BarReq) (start off : Word) (mask : BitVec 64) (data : BitVec 512) (ep : Bool) (ro : Bool)
  /-- MSIX_MESSAGE (R421): A vector sends at most one MSI-X message per us covering completions written. -/
  | msixMessage (e : Fin 4) (vec : Fin 2048)
  /-- MSIX_UNMASK (R421): Unmasking a vector with a pending bit sends its message if a CQ still holds an entry. -/
  | msixUnmask (e : Fin 4) (vec : Fin 2048)
  /-- INTX_ASSERT (R422): Assert_INTA or Deassert_INTA is sent as CQs fill or are consumed. -/
  | intxAssert (e : Fin 4)
  /-- L1_IDLE_EXPIRED (R415): A link idle for L1_IDLE us requests ASPM L1. -/
  | l1IdleExpired (e : Fin 4)
  /-- L0P_EVALUATE (R415): Every 10 us the function chooses its L0p width from recent traffic. -/
  | l0pEvaluate (e : Fin 4) (load : Nat)
  /-- LTR_SEND (R417): An LTR message is sent when the first Urgent SQ is created or the last deleted. -/
  | ltrSend (e : Fin 4)
  /-- D3HOT_ENTRY (R418): Entering D3hot stops fetching and withdraws the port vote; D0 restores it. -/
  | d3hotEntry (e : Fin 4) (enter : Bool)
  /-- PORST (R434): Power-on reset resets everything including AON. -/
  | porst (straps : Straps)
  /-- PKRST (R434): PKRST_N held 10 us triggers a package reset. -/
  | pkrst (boot : Fin 4)
  /-- RST_REQ_PKR (R434): RST_REQ kind 1 resets the package except AON and keep store. -/
  | rstReqPkr (a : Acc) (h : Half)
  /-- RST_REQ_DIE (R435): RST_REQ kind 2 resets one compute die, or BUSY if it holds polder cores. -/
  | rstReqDie (a : Acc) (h : Half) (d : Die)
  /-- RST_REQ_CORE (R435): RST_REQ kind 3 resets one core, which restarts at its polder's entry point. -/
  | rstReqCore (a : Acc) (h : Half) (g : GCore)
  /-- RST_REQ_POLDER (R435): RST_REQ kind 4 resets every core of a polder and its mailbox set. -/
  | rstReqPolder (a : Acc) (h : Half) (p : Pol)
  /-- RST_REQ_LINK (R434): RST_REQ kind 5 resets one die-link module end or PCIe port. -/
  | rstReqLink (a : Acc) (h : Half) (target : BitVec 16)
  /-- BOOT_VERIFY (R438): The boot ROM verifies the chosen slot, falls back to the other, or enters recovery. -/
  | bootVerify (hc : Half)
  /-- STARTUP_PHASE (R439): Start-up advances through command-ready, training, zero-fill, dies up and polder restore to running. -/
  | startupPhase (r : StartupReport)
  /-- RAIL_MONITOR (R427): Every 1 us the power controller checks rails; one out of range loses a die, a half, or resets the
  package. -/
  | railMonitor (rail : Rail) (inRange : Bool) (mv : BitVec 16)
  /-- THERMAL_SAMPLE (R428): Every 100 us sensors are read, warning at 100 C and tripping at 110 C. -/
  | thermalSample (u : Fin 14) (temps : List Byte)
  /-- VOTE_DROP (R433): On withdrawal of the last vote the domain asks veto clients and enters Draining or stays Open. -/
  | voteDrop (dom : Domain)
  /-- SLUICE_DRAINED (R430): A Draining domain with nothing outstanding moves to Fenced, then Closed once clamps hold. -/
  | sluiceDrained (dom : Domain)
  /-- SLUICE_WAKE (R430): A vote or demand wakes a domain to Open, aborting a drain if Draining. -/
  | sluiceWake (dom : Domain)
  /-- C2_IDLE_EXPIRED (R431): A core in C1 for C2_IDLE us without tick delivery enters C2. -/
  | c2IdleExpired (g : GCore)
  /-- AVS_STEP (R426): The power controller commands a die voltage step of at most 10 mV. -/
  | avsStep (d : Die)
  /-- CNT_CLR (R441): Writing CNT_CTL.CLR zeroes every counter and CNT_OVF. -/
  | cntClr (g : GCore) (rs : Fin 32)
  /-- CB_OWN_WRITE (R446): A write to CB_OWN assigns a counter bank and clears its counters. -/
  | cbOwnWrite (a : Acc) (addr : BitVec 52) (v : Word)
  /-- SAMPLE_TAKE (R448): The instruction completing a sampling interval is recorded, held in a guarded tick. -/
  | sampleTake (g : GCore) (smp : SampleInfo)
  /-- COUNTER_DUMP (R451): At a dumped tick's fire PTIME all counters of the polder are latched and written to the dump area. -/
  | counterDump (p : Pol)
  /-- RECORDER_RECORD (R455): An event is written as a recorder record, repeated, staged, dropped or overwritten by mode. -/
  | recorderRecord (h : Half) (ev : Event)
  /-- RECORDER_AUTO_EXPORT (R455): A full recorder with AUTO_EXPORT is frozen, exported and cleared by Clasto. -/
  | recorderAutoExport (h : Half)
  /-- REC_FREEZE (R459): A write to REC_CTL.FREEZE freezes or unfreezes the half's recorder. -/
  | recFreeze (a : Acc) (h : Half) (v : Word)
  /-- FREEZE_LAPSE (R459): A freeze lapses after FREEZE_MAX ms and logs code 0x02. -/
  | freezeLapse (h : Half)
  /-- REC_CLEAR (R459): A write of REC_CTL.CLEAR invalidates every record and logs code 0x01. -/
  | recClear (a : Acc) (h : Half) (v : Word)
  /-- REC_MODE (R456): A write of REC_CTL.MODE, or the change at phase 7, sets NORMAL or LIVE and logs code 0x03. -/
  | recMode (a : Acc) (h : Half) (v : Word)
  /-- REC_CURSOR (R458): A write to a recorder cursor selects a record, clamped to OLDEST. -/
  | recCursor (a : Acc) (h : Half) (view : Option Pol) (v : Word)
  /-- REC_WINDOW7_READ (R458): A read of window word 7 returns it and advances the cursor. -/
  | recWindow7Read (a : Acc) (h : Half) (view : Option Pol)
  /-- RV_FREEZE (R459): A write to RV_CTL.FREEZE fixes or releases the end of a polder's view. -/
  | rvFreeze (a : Acc) (h : Half) (p : Pol) (v : Word)
  /-- SLACK_CLOSE_PTIME (R284): The close PTIME of a published slack window is reached, and the controllers start nothing more. -/
  | slackClosePtime
  /-- SPPR_WAIT_EXPIRED (R297): A wanted sPPR that has found no slack window within 100 ms runs outside one. -/
  | spprWaitExpired (ch : Fin 16)
  /-- SPINE_RESTORE (R265): The spine returns, and hub-to-hub traffic leaves the transit paths; SPINE_DOWN clears and code 0x6D is
  logged. -/
  | spineRestore
  /-- REFCLK_RECOVER (R476): A failed reference clock input becomes good again; after 1 ms it releases a package held in reset, or
  it rejoins as standby. -/
  | refclkRecover (h : Half) (i : Fin 2)
  /-- CONTROLLERS_FAILED (R434): QRB_STAT.FATAL has stood on every QRB for 1 s, and the package takes a package reset. -/
  | controllersFailed
  /-- TOKEN_BUCKET_REFILL (R353): Each µs the dike's bucket gains RATE tokens, admitting guest requests that wait for tokens. -/
  | tokenBucketRefill (g : Half)
  /-- SYNC_SEND (R369): Eight times per ms each time parent sends SYNC to its cascade neighbours. -/
  | syncSend
  /-- CASCADE_LINK_DOWN (R373): A cascade port's PCS link goes down, changing the route table and possibly losing the master. -/
  | cascadeLinkDown (port : Fin 4)
  /-- CASCADE_LINK_UP (R384): A cascade port's PCS link comes up, sets CS_PORT.LINK and logs code 0xA4. -/
  | cascadeLinkUp (port : Fin 4)
  /-- PERST_ASSERT (R406): Assertion of a port's PERST_N acts as an FLR together with a LINK reset of the port. -/
  | perstAssert (e : Fin 4)
  /-- PCIE_LINK_DOWN (R406): A PCIe endpoint link goes down and acts as an FLR with a LINK reset of the port. -/
  | pcieLinkDown (e : Fin 4)
  /-- HOT_RESET (R406): A hot reset received on a PCIe endpoint link acts as an FLR with a LINK reset of the port. -/
  | hotReset (e : Fin 4)
  /-- PCIE_LINK_UP (R405): A PCIe port finishes link training and PE_STAT.LINK reads L0. -/
  | pcieLinkUp (e : Fin 4) (speed : Fin 7) (width : Fin 17) (flit : Bool)
  /-- PHY_SUPPLY_TRANSIENT (R434): A supply transient at a die-link or PCIe PHY causes a LINK reset of that end. -/
  | phySupplyTransient (h : Half) (target : Fin 32) (die : Bool)
  /-- DEVICE_READ_TIMEOUT (R151): A Device read without a response within 1 ms raises a machine check with source 0x03. -/
  | deviceReadTimeout (g : GCore)
  /-- COMPLETION_TIMEOUT (R419): A command buffer read over PCIe receives no completion in time; the command completes
  INVALID_BUFFER and Completion Timeout is set. -/
  | completionTimeout (e : Fin 4) (cid : BitVec 16) (ep : Bool)
  /-- CORE_FREQUENCY_STEP (R143): The power controller moves a FAST_CLOCK core one 100 MHz step, stalling the core for at most 2 µs.
  -/
  | coreFrequencyStep (g : GCore) (up : Bool)
  /-- PHASE_REMAINDER_ABSORBED (R81): The phase remainder has been slewed away; PT_STAT.SLEWING clears, and CS_STAT.CONVERGING
  clears once the offset is within 20 ns. -/
  | phaseRemainderAbsorbed
  /-- VIEW_SEEK_DONE (R458): A polder view finds the selected record; RV_STAT.BUSY clears and the window shows it. -/
  | viewSeekDone (h : Half) (p : Pol)
  /-- ENC_CFG_WRITE (R86): A write to ENC_CFG.EN starts or stops decoding, and writing it 0 then 1 clears FAILED. -/
  | encCfgWrite (a : Acc) (e : Fin 16) (v : Word)
  /-- SUPERVISOR_CALL (R151): A supervisor call raises class 0x03 at S with the call immediate. -/
  | supervisorCall (g : GCore) (kind : CallKind) (imm : BitVec 16)
  /-- HYPERVISOR_CALL (R151): A hypervisor call raises class 0x04 at H with the call immediate. -/
  | hypervisorCall (g : GCore) (imm : BitVec 16)
  /-- MONITOR_CALL (R145): A monitor call enters M and sets the world bit secure, or raises class 0x00 in a non-secure polder. -/
  | monitorCall (g : GCore) (imm : BitVec 16)
  /-- EXCEPTION_RETURN (R145): An exception return lowers the level and, from M, sets the world bit to WCTL_M.RWORLD. -/
  | exceptionReturn (g : GCore)
  /-- K64_HALT (R431): The K64 halt instruction puts the core in C1. -/
  | k64Halt (g : GCore)
  /-- ATOMIC (R116): An atomic operation reads and writes its address, returns zero on a refused address, and raises a guard
  violation on a Device address in a guarded tick. -/
  | atomic (g : GCore) (rd : Fin 32) (va : Word) (size : Fin 4) (op : AtomicOp) (rs : Fin 32) (err : CacheErr)
  deriving DecidableEq, Repr

end Sys2Proof
end

