-- ==== Sys2Proof/Decode.lean ====
section
/-! DEFINITION. The word decoder over the rows of spec/opcode_table.json that give bits: none of them does. -/
namespace Sys2Proof

/-- The command that a table word spells: no row of the table gives bits, so no word spells one. -/
def decodeTableWord (_nbits _w : Nat) : Option Instr := none

end Sys2Proof
end

