-- ==== Sys2Proof/Config.lean ====
section
/-! DEFINITION. What one part of the family fixes for good (fuses, straps sampled by the board) and the free values:
opaque constants with no body, which no proof can evaluate. -/
namespace Sys2Proof.Config

/-- The hardware random source and every other value the spec leaves open, one fresh word per index (log entry 2). -/
opaque freeWord : Nat → BitVec 64
/-- What K64 puts above the `n` bytes a narrow load reads into a general register (the K64 volume, log entry 3). -/
opaque loadUpper : (n : Nat) → BitVec 64 → BitVec 64
/-- The new memory value of a K64 atomic: operation number, size in bytes, old value, operand (log entry 3). -/
opaque atomicResult : (op n : Nat) → BitVec 64 → BitVec 64 → BitVec 64
/-- SHA-384 and ECDSA verdict of an image (R438): `none` fails, `some k` verifies against fused key hash `k`
(log entry 4). -/
opaque imageKey : List (BitVec 8) → Option (Fin 4)
/-- The version word of an image; the image layout is not in the spec (log entry 4). -/
opaque imageVersion : List (BitVec 8) → BitVec 32
/-- The UEFI ROM image that a firmware image carries, empty for none (R57, R410; log entry 4). -/
opaque imageRom : List (BitVec 8) → List (BitVec 8)

/-- The fused operating point of a compute die, in mV, for a core frequency in MHz (R426; log entry 2). -/
opaque avsPoint : (die mhz : Nat) → BitVec 10
/-- The spine lane that a message of a line crosses on (R447; log entry 2). -/
opaque spineLane : BitVec 46 → BitVec 8

/-- Which of the lines with these AGE fields the die cache gives up: its pseudo-LRU, which is named and not laid down (R188, R192;
log entry 18). -/
opaque plruVictim : List (BitVec 4) → Nat
/-- The keyed functions of the predictor: the hash of a table's index and tag, and the mask of a stored target, by table, CTXKEY,
polder key, world and level, and what the table is indexed by (R168, R171; log entry 162). -/
opaque predHash : (table : Nat) → List Nat → Nat
opaque predMask : (table : Nat) → List Nat → BitVec 64
/-- The set of a TLB structure that an entry's address falls in, which no rule lays down (R222; log entry 165). -/
opaque tlbSet : (structure_ : Nat) → Nat → Nat
/-- What a vector load of fewer than 64 B puts above the bytes it reads (the K64 volume, log entry 3). -/
opaque vecUpper : (n : Nat) → BitVec 512 → BitVec 512

/-- The address that FORCEIP gives a head (R307), by the head's MAC, the sub-port's address and its prefix length (log entry 169).
-/
opaque forcedIp : BitVec 48 → BitVec 32 → Nat → BitVec 32
/-- IEEE 1588's comparison of data sets (R304): an announced one, as one word, is better than the package's own with these
priorities (log entry 28). -/
opaque betterMaster : BitVec 64 → (prio1 prio2 : Nat) → Bool

/-- PKG_ID.GRADE as fused: 0x2, extended (R2; log entry 1). -/
def grade : Nat := 2
/-- PKG_ID.SPEED as fused: 0x1, 2.8 GHz (log entry 1). -/
def speed : Nat := 1
/-- PKG_ID.HUB_REV as fused: 0x1, B0 (log entry 1). -/
def hubRev : Nat := 1
/-- CD_REV of every compute die as fused: 0x1, B0 (R3; log entry 1). -/
def dieRev : Nat := 1
/-- The package serial number (R403), as fused: any value (log entry 1). -/
opaque serialFuse : BitVec 64
def serial : Nat := serialFuse.toNat
/-- MAC_BASE (R303), as fused: any value (log entry 1). -/
opaque macFuse : BitVec 48
def macBase : Nat := macFuse.toNat
/-- The fused minimum image version (R438): any value (log entry 1). -/
opaque versionFuse : BitVec 32
def minVersion : Nat := versionFuse.toNat
/-- The fused key hashes that fuses have revoked (R438), bit k for hash k: any value (log entry 1). -/
opaque revokedFuse : BitVec 4
def revokedKeys : Nat := revokedFuse.toNat

end Sys2Proof.Config
end

