-- ==== Sys2Proof/Machine/Regs.lean ====
section
/-! DEFINITION. The control registers of the DX-240 and their fields, in the layout of the register headings of
spec/00_scope.md to spec/18_pins_electrical.md: unit and block, offset, array strides, bit range, access type (R7),
reset kind and reset value (R9). -/
namespace Sys2Proof.Machine

/-- The control registers, each under the name its heading in the spec gives it (an array is one constructor). `LKC_*`
are the compute-end copies of `LK_*` (spec/12), `CBD_*` the die counter banks (spec/17, R446), `GDB` the guest
doorbell page (spec/12, R354). -/
inductive Reg where
  | PKG_ID
  | CD_REV
  | CP_ROLE
  | MEM_WEIR
  | MEM_SIZE
  | MEM_TGT
  | BM_CORES
  | REF_STAT
  | CP_INFO
  | QRB_CTL
  | QRB_STAT
  | ASQ_BASE
  | ACQ_BASE
  | SQ_DB
  | CQ_DB
  | CUT_REL
  | CUT_REL_ALL
  | CS_SQTAIL
  | RGN_LO
  | RGN_HI
  | RGN_RD
  | RGN_WR
  | RGN_STAGE_LO
  | RGN_STAGE_HI
  | RGN_STAGE_RD
  | RGN_STAGE_WR
  | RGN_COMMIT
  | WORLD_ATTR
  | RGN_VIOL
  | PT_NOW
  | PT_CTL
  | PT_FREQ
  | PT_PHASE
  | PT_STEP
  | PT_PPS
  | PT_STAT
  | ENC_CFG
  | ENC_POS
  | ENC_STAT
  | TRIG_CFG
  | TRIG_STAT
  | TRIG_CNT
  | SLACK_CTL
  | TE_STAT
  | TK_CFG
  | TK_CTL
  | TK_NOW
  | TK_EDGE
  | TK_EVT
  | GD_CTL
  | GD_STAT
  | GD_CNT0
  | GD_CNT1
  | L2_CTL
  | L2_STAT
  | L2_ECC
  | L2_CNT
  | DC_CTL
  | DC_STAT
  | DC_CNT
  | DC_MAINT
  | DC_SLICE
  | DIR_CTL
  | DIR_STAT
  | DIR_CNT0
  | DIR_CNT1
  | CEN_STAT
  | DIR_BANK
  | HP_CFG
  | HP_STAT
  | HP_CNT
  | HP_ADDR
  | PTP_CFG
  | PTP_EPOCH
  | STR_BIND
  | STR_STAT
  | STR_POS
  | STR_CNT0
  | STR_CNT1
  | LK_CTL
  | LK_STAT
  | LK_MAP_TX
  | LK_MAP_RX
  | LK_CNT
  | LKC_CTL
  | LKC_STAT
  | LKC_MAP_TX
  | LKC_MAP_RX
  | LKC_CNT
  | DK_CTL
  | DK_STAT
  | DK_EPOCH
  | DK_CNT
  | DK_BASE
  | DK_LIM
  | DK_TGT
  | DK_ATTR
  | DK_STG
  | DK_DBCFG
  | GDB
  | CS_CTL
  | CS_TIMING
  | CS_STAT
  | CS_CNT
  | CS_PORT
  | CS_MEM
  | CS_CHAN
  | CS_CHDIV
  | CS_TBIND
  | CS_WTGT
  | CS_WATTR
  | CS_STG_WTGT
  | CS_STG_WATTR
  | CS_WCOMMIT
  | AG_CTL
  | AG_MARGIN
  | PE_CFG
  | PE_STAT
  | PE_PM
  | PE_CNT
  | PW_EPOCH
  | PW_BASE
  | PW_LIM
  | PW_TGT
  | PW_ATTR
  | PW_STG
  | PM_RAIL
  | PM_PKG
  | PV_VOTE
  | PV_VETO
  | PV_STAT
  | RST_REQ
  | RST_CAUSE
  | TS_HUB
  | DPM_CTL
  | TS_DIE
  | CB_OWN
  | CB_SEL
  | CB_CNT
  | CBD_OWN
  | CBD_SEL
  | CBD_CNT
  | CNT_DUMP
  | REC_CTL
  | REC_STAT
  | REC_DROP
  | REC_CURSOR
  | REC_WINDOW
  | RV_CTL
  | RV_STAT
  | RV_CURSOR
  | RV_WINDOW
  | MC_CFG
  | MC_CTL
  | MC_STAT
  | MC_REF
  | MC_RT
  | MC_RTSTAT
  | MC_ERR
  | MC_ECC
  | MC_SCRUB
  deriving DecidableEq, Repr

/-- The fields of the control registers that are not reserved, named `REGISTER_FIELD`. -/
inductive Fld where
  | PKG_ID_DEVICE
  | PKG_ID_GRADE
  | PKG_ID_SPEED
  | PKG_ID_HUB_REV
  | PKG_ID_GUARDED
  | CD_REV_CD0_REV
  | CD_REV_CD1_REV
  | CD_REV_CD2_REV
  | CD_REV_CD3_REV
  | CD_REV_CD4_REV
  | CD_REV_CD5_REV
  | CD_REV_CD6_REV
  | CD_REV_CD7_REV
  | CD_REV_CD8_REV
  | CD_REV_CD9_REV
  | CD_REV_CD10_REV
  | CD_REV_CD11_REV
  | CP_ROLE_ACTIVE
  | CP_ROLE_STANDBY_READY
  | CP_ROLE_LAST_CAUSE
  | CP_ROLE_TAKEOVERS
  | MEM_WEIR_W1
  | MEM_WEIR_W2
  | MEM_WEIR_W3
  | MEM_SIZE_BLOCKS
  | MEM_TGT_T0
  | MEM_TGT_T1
  | MEM_TGT_T2
  | MEM_TGT_T3
  | BM_CORES_CD0
  | BM_CORES_CD1
  | BM_CORES_CD2
  | BM_CORES_CD3
  | BM_CORES_CD4
  | BM_CORES_CD5
  | BM_CORES_CD6
  | BM_CORES_CD7
  | BM_CORES_CD8
  | BM_CORES_CD9
  | BM_CORES_CD10
  | BM_CORES_CD11
  | BM_CORES_PROFILE
  | REF_STAT_GOOD_H0
  | REF_STAT_SEL_H0
  | REF_STAT_GOOD_H1
  | REF_STAT_SEL_H1
  | REF_STAT_SWITCHES
  | CP_INFO_MAXDEPTH
  | CP_INFO_MAXQID
  | CP_INFO_VERSION
  | QRB_CTL_EN
  | QRB_CTL_ASQ_SIZE
  | QRB_CTL_ACQ_SIZE
  | QRB_STAT_RDY
  | QRB_STAT_DB_ERR
  | QRB_STAT_TAKEOVER
  | QRB_STAT_FATAL
  | ASQ_BASE_BASE
  | ACQ_BASE_BASE
  | SQ_DB_VALUE
  | CQ_DB_VALUE
  | CUT_REL_TICK
  | CUT_REL_ALL_TICK
  | CS_SQTAIL_VALUE
  | RGN_LO_VALID
  | RGN_LO_WORLD
  | RGN_LO_TYPE
  | RGN_LO_IDEMP
  | RGN_LO_BASE
  | RGN_HI_LIMIT
  | RGN_RD_MASK
  | RGN_WR_MASK
  | RGN_STAGE_LO_VALUE
  | RGN_STAGE_HI_VALUE
  | RGN_STAGE_RD_VALUE
  | RGN_STAGE_WR_VALUE
  | RGN_COMMIT_INDEX
  | RGN_COMMIT_GO
  | WORLD_ATTR_PCIE_SEC
  | WORLD_ATTR_CASC_SEC
  | WORLD_ATTR_GUEST_SEC
  | WORLD_ATTR_SIDEBAND_TRUSTED
  | RGN_VIOL_COUNT
  | PT_NOW_TIME
  | PT_CTL_SRC
  | PT_CTL_PPS_HALF
  | PT_CTL_SLEW_MAX
  | PT_FREQ_VALUE
  | PT_PHASE_VALUE
  | PT_STEP_VALUE
  | PT_PPS_STAMP
  | PT_STAT_SRC_OK
  | PT_STAT_HOLDOVER
  | PT_STAT_SLEWING
  | PT_STAT_STEP_REFUSED
  | ENC_CFG_EN
  | ENC_CFG_MODE
  | ENC_CFG_ZCHK
  | ENC_CFG_FILT
  | ENC_CFG_TOL
  | ENC_CFG_ZPERIOD
  | ENC_POS_POS
  | ENC_STAT_ILLEGAL
  | ENC_STAT_LOS
  | ENC_STAT_ZERR
  | ENC_STAT_OVERSPEED
  | ENC_STAT_PAIR_FAULT
  | ENC_STAT_FAILED
  | ENC_STAT_ILLEGAL_CNT
  | TRIG_CFG_POL
  | TRIG_CFG_LATE
  | TRIG_CFG_WIDTH
  | TRIG_STAT_ARMED
  | TRIG_STAT_DEPTH
  | TRIG_CNT_FIRED
  | TRIG_CNT_LATE_DROP
  | TRIG_CNT_LATE_FIRED
  | TRIG_CNT_DISARM_DROP
  | TRIG_CNT_OVF
  | SLACK_CTL_MIN_NS
  | SLACK_CTL_GUARD_NS
  | TE_STAT_PARTNER
  | TE_STAT_ROLE_CHANGES
  | TE_STAT_MISMATCH
  | TE_STAT_BACKUP
  | TK_CFG_WORD
  | TK_CTL_HOST_TICK
  | TK_CTL_RESUME
  | TK_CTL_PREF
  | TK_NOW_NUM
  | TK_NOW_STATE
  | TK_EDGE_PTIME
  | TK_EVT_OVERRUN
  | TK_EVT_SKIP
  | TK_EVT_LATE
  | TK_EVT_EARLY
  | GD_CTL_DEFER_LIMIT
  | GD_CTL_CATCHUP
  | GD_STAT_TOKEN_HELD
  | GD_STAT_TOKEN_CPU
  | GD_STAT_RECOVERING
  | GD_STAT_VACANT
  | GD_STAT_LAST_CAUSE
  | GD_CNT0_ABORT_SNOOP
  | GD_CNT0_ABORT_ERR
  | GD_CNT0_RERUN_FAULT
  | GD_CNT0_TICKABORT
  | GD_CNT1_WAY_OVF
  | GD_CNT1_DQ_OVF
  | GD_CNT1_DEV_READ
  | GD_CNT1_TOKEN
  | GD_CNT1_CATCHUP_FAIL
  | L2_CTL_EN
  | L2_CTL_PF
  | L2_STAT_EN_STATUS
  | L2_STAT_SWEEP
  | L2_STAT_REFUSED
  | L2_STAT_LOCKED
  | L2_STAT_RETIRED
  | L2_ECC_ECC_THRESH
  | L2_ECC_ECC_WINDOW
  | L2_ECC_CE_CNT
  | L2_ECC_UE_CNT
  | L2_ECC_LAST_WAY
  | L2_CNT_LOCK_LOST
  | L2_CNT_PUSH_DROP
  | DC_CTL_EN
  | DC_CTL_ECC_THRESH
  | DC_CTL_ECC_WINDOW
  | DC_STAT_EN_STATUS
  | DC_STAT_SWEEP
  | DC_STAT_REFUSED
  | DC_CNT_PUSH_DROP
  | DC_CNT_LOCK_VICTIM
  | DC_MAINT_OP
  | DC_MAINT_SLICE
  | DC_MAINT_SET
  | DC_MAINT_WAY
  | DC_MAINT_GO
  | DC_MAINT_BUSY
  | DC_SLICE_RETIRED
  | DC_SLICE_SPARE_USED
  | DC_SLICE_CE_CNT
  | DC_SLICE_UE_CNT
  | DIR_CTL_HOLD_WINDOW
  | DIR_CTL_NACK_RETRY
  | DIR_STAT_HOMES
  | DIR_STAT_SPINE_DOWN
  | DIR_STAT_PARTNER_LOST
  | DIR_STAT_PATHS
  | DIR_CNT0_RECALLS
  | DIR_CNT0_INVALS
  | DIR_CNT1_NACKS
  | DIR_CNT1_HOLD_WAITS
  | DIR_CNT1_DIR_EVICTS
  | DIR_CNT1_HINT_DROP
  | CEN_STAT_LINES
  | CEN_STAT_DROPPED
  | CEN_STAT_BCAST
  | CEN_STAT_DURATION
  | DIR_BANK_TRK
  | DIR_BANK_WAIT
  | DIR_BANK_WAIT_MAX
  | DIR_BANK_SPARE
  | DIR_BANK_RETIRED
  | HP_CFG_MODE
  | HP_CFG_AN_EN
  | HP_CFG_SUB_EN
  | HP_STAT_LINK
  | HP_STAT_RATE
  | HP_CNT_FCS_ERR
  | HP_CNT_FEC_UNCORR
  | HP_CNT_FOREIGN
  | HP_CNT_LINK_DOWN
  | HP_ADDR_IPV4
  | HP_ADDR_PREFIX
  | HP_ADDR_VID
  | PTP_CFG_DOMAIN
  | PTP_CFG_PRIO1
  | PTP_CFG_PRIO2
  | PTP_CFG_LOG_SYNC
  | PTP_CFG_ONE_STEP
  | PTP_CFG_SLAVE
  | PTP_CFG_SLAVE_EN
  | PTP_EPOCH_OFFSET
  | STR_BIND_WORD
  | STR_STAT_STATE
  | STR_STAT_LEAD
  | STR_STAT_PAIR_LIVE
  | STR_STAT_FULL
  | STR_STAT_LAST_CUT
  | STR_POS_NEXT
  | STR_POS_HELD
  | STR_CNT0_LINES
  | STR_CNT0_INCOMPLETE
  | STR_CNT0_LATE
  | STR_CNT1_DROP
  | STR_CNT1_DUP_PKT
  | STR_CNT1_FOREIGN_PKT
  | LK_CTL_RETRAIN
  | LK_CTL_SLEEP_EN
  | LK_CTL_SLEEP_IDLE
  | LK_CTL_CRC_THRESH
  | LK_STAT_STATE
  | LK_STAT_LEVEL
  | LK_STAT_PEER_KIND
  | LK_STAT_PEER_REV
  | LK_STAT_FEATURES
  | LK_STAT_LAST_CAUSE
  | LK_MAP_TX_MAP
  | LK_MAP_RX_MAP
  | LK_CNT_RETRIES
  | LK_CNT_CRC_ERR
  | LK_CNT_RETRAINS
  | LK_CNT_MISMATCH
  | LK_CNT_SLEEPS
  | LKC_CTL_RETRAIN
  | LKC_CTL_SLEEP_EN
  | LKC_CTL_SLEEP_IDLE
  | LKC_CTL_CRC_THRESH
  | LKC_STAT_STATE
  | LKC_STAT_LEVEL
  | LKC_STAT_PEER_KIND
  | LKC_STAT_PEER_REV
  | LKC_STAT_FEATURES
  | LKC_STAT_LAST_CAUSE
  | LKC_MAP_TX_MAP
  | LKC_MAP_RX_MAP
  | LKC_CNT_RETRIES
  | LKC_CNT_CRC_ERR
  | LKC_CNT_RETRAINS
  | LKC_CNT_MISMATCH
  | LKC_CNT_SLEEPS
  | DK_CTL_FENCE
  | DK_CTL_PQUAR
  | DK_CTL_OUTCAP
  | DK_CTL_RATE
  | DK_CTL_BURST
  | DK_STAT_PQ_TRIP
  | DK_STAT_OUTSTANDING
  | DK_EPOCH_CURRENT
  | DK_EPOCH_OLDEST_LIVE
  | DK_CNT_REFUSED
  | DK_CNT_POISON_IN
  | DK_CNT_RATE_HELD
  | DK_BASE_ADDR
  | DK_LIM_ADDR
  | DK_TGT_ADDR
  | DK_ATTR_VALID
  | DK_ATTR_RD
  | DK_ATTR_WR
  | DK_ATTR_PLACE
  | DK_ATTR_SEC
  | DK_ATTR_POLDER
  | DK_STG_VALUE
  | DK_DBCFG_EN
  | DK_DBCFG_POLDER
  | DK_DBCFG_LCPU
  | DK_DBCFG_INTID
  | GDB_VALUE
  | CS_CTL_PORTS
  | CS_CTL_MASTER_CAP
  | CS_CTL_PROMOTE
  | CS_CTL_PRIORITY
  | CS_CTL_CASCADE_ID
  | CS_TIMING_L_CASCADE
  | CS_TIMING_HOLD_TICKS
  | CS_TIMING_HOLD_MS
  | CS_STAT_STATE
  | CS_STAT_INDEX
  | CS_STAT_MASTER
  | CS_STAT_CONVERGING
  | CS_STAT_LATE_RISK
  | CS_STAT_D_WORST
  | CS_STAT_MEMBERS
  | CS_CNT_HOLDOVERS
  | CS_CNT_RECONCILES
  | CS_CNT_RESENDS
  | CS_CNT_UNREACH
  | CS_PORT_LINK
  | CS_PORT_PEER_OK
  | CS_PORT_PEER
  | CS_PORT_DELAY
  | CS_PORT_ASYM
  | CS_MEM_REACH
  | CS_MEM_MASTER_CAP
  | CS_MEM_PROMOTE
  | CS_MEM_ROLE
  | CS_MEM_PRIORITY
  | CS_MEM_HOPS
  | CS_MEM_SERIAL_LO
  | CS_CHAN_OFS
  | CS_CHAN_STATE
  | CS_CHAN_DIR
  | CS_CHAN_MASTER
  | CS_CHAN_ENC
  | CS_CHAN_ENC_EN
  | CS_CHDIV_FRAC
  | CS_CHDIV_N
  | CS_TBIND_CHANNEL
  | CS_TBIND_VALID
  | CS_WTGT_TGT
  | CS_WATTR_VALID
  | CS_WATTR_RD
  | CS_WATTR_WR
  | CS_WATTR_POLDER
  | CS_WATTR_PAGES
  | CS_STG_WTGT_TGT
  | CS_STG_WATTR_VALID
  | CS_STG_WATTR_RD
  | CS_STG_WATTR_WR
  | CS_STG_WATTR_POLDER
  | CS_STG_WATTR_PAGES
  | CS_WCOMMIT_GO
  | AG_CTL_PERIOD_MS
  | AG_CTL_AG_WARN
  | AG_CTL_AG_RETIRE
  | AG_MARGIN_NOW
  | AG_MARGIN_LOWEST
  | AG_MARGIN_STATE
  | AG_MARGIN_BELOW
  | PE_CFG_MODE
  | PE_CFG_MAX_SPEED
  | PE_CFG_BAR2_LOG
  | PE_CFG_SUBSYS
  | PE_STAT_LINK
  | PE_STAT_SPEED
  | PE_STAT_WIDTH
  | PE_STAT_L0P_WIDTH
  | PE_STAT_FLIT
  | PE_STAT_D3
  | PE_STAT_READY
  | PE_PM_L1_IDLE
  | PE_PM_L0P_EN
  | PE_CNT_REFUSED
  | PE_CNT_RRS
  | PE_CNT_L1_ENTRIES
  | PE_CNT_AER_LOST
  | PW_EPOCH_CURRENT
  | PW_EPOCH_OLDEST_LIVE
  | PW_BASE_ADDR
  | PW_LIM_ADDR
  | PW_TGT_ADDR
  | PW_ATTR_VALID
  | PW_ATTR_RD
  | PW_ATTR_WR
  | PW_ATTR_PLACE
  | PW_ATTR_SEC
  | PW_ATTR_POLDER
  | PW_ATTR_LEVEL
  | PW_ATTR_PTGT
  | PW_STG_VALUE
  | PM_RAIL_CD_OK
  | PM_RAIL_HUB_OK
  | PM_RAIL_SHARED_OK
  | PM_RAIL_PWRFAIL
  | PM_RAIL_PF_SAFE
  | PM_RAIL_THERMTRIP
  | PM_PKG_STATE
  | PM_PKG_PHASE
  | PM_PKG_CAUSE
  | PM_PKG_TJ_MAX
  | PM_PKG_TDIMM_MAX
  | PM_PKG_P1_ENTRIES
  | PV_VOTE_VOTES
  | PV_VOTE_SLUICE
  | PV_VETO_MASK
  | PV_VETO_HOLD
  | PV_STAT_REFUSALS
  | PV_STAT_ABORTS
  | PV_STAT_LAST_REFUSER
  | PV_STAT_DROPS
  | RST_REQ_KIND
  | RST_REQ_TARGET
  | RST_REQ_GO
  | RST_CAUSE_CAUSE
  | RST_CAUSE_PKR_COUNT
  | TS_HUB_TEMP
  | TS_HUB_VALID
  | TS_HUB_MAX
  | DPM_CTL_C2_IDLE
  | DPM_CTL_GUARD_MV
  | DPM_CTL_VOLT_MV
  | TS_DIE_TEMP
  | TS_DIE_VALID
  | TS_DIE_MAX
  | CB_OWN_EN
  | CB_OWN_OWNER
  | CB_SEL_EVENT
  | CB_SEL_UNIT
  | CB_CNT_VALUE
  | CBD_OWN_EN
  | CBD_OWN_OWNER
  | CBD_SEL_EVENT
  | CBD_SEL_UNIT
  | CBD_CNT_VALUE
  | CNT_DUMP_K
  | CNT_DUMP_SLOTS
  | CNT_DUMP_SKIPPED
  | REC_CTL_FREEZE
  | REC_CTL_MODE
  | REC_CTL_AUTO_EXPORT
  | REC_CTL_CLEAR
  | REC_CTL_FREEZE_MAX
  | REC_STAT_NEXT
  | REC_STAT_OLDEST
  | REC_DROP_DROPPED
  | REC_DROP_STAGED
  | REC_DROP_FULL
  | REC_DROP_FROZEN
  | REC_CURSOR_SEQ
  | REC_CURSOR_PARTNER
  | REC_WINDOW_WORD
  | RV_CTL_FREEZE
  | RV_STAT_NEXT
  | RV_STAT_DROPPED
  | RV_STAT_BUSY
  | RV_CURSOR_VSEQ
  | RV_WINDOW_WORD
  | MC_CFG_DPC
  | MC_CFG_RANKS
  | MC_CFG_DENSITY
  | MC_CFG_SPEED
  | MC_CFG_TRFCSB
  | MC_CFG_TREFI
  | MC_CTL_PAUSE_MIRROR
  | MC_CTL_WQ_HI
  | MC_CTL_WQ_LO
  | MC_CTL_PAGE_IDLE
  | MC_CTL_RESYNC_BW
  | MC_STAT_STATE
  | MC_STAT_RESYNC_PCT
  | MC_STAT_REDIRECTS
  | MC_REF_FORCED
  | MC_REF_DEBT_PEAK
  | MC_REF_HOT
  | MC_RT_SOFT_PS
  | MC_RT_HARD_PS
  | MC_RT_OSC_US
  | MC_RT_RT_WAIT_US
  | MC_RTSTAT_IN_SLACK
  | MC_RTSTAT_IDLE
  | MC_RTSTAT_FORCED
  | MC_RTSTAT_LAST_DRIFT
  | MC_ERR_CE
  | MC_ERR_UE
  | MC_ERR_MIRROR_FIX
  | MC_ERR_POISON_READ
  | MC_ECC_ROW_THRESH
  | MC_ECC_WINDOW_S
  | MC_ECC_SPPR_DONE
  | MC_SCRUB_PERIOD_H
  | MC_SCRUB_EN
  | MC_SCRUB_PASSES
  deriving DecidableEq, Repr

/-- The access types of R7; `rwl` fields are locked while QRB_CTL.EN is 1 (R8). -/
inductive AccTy where
  | rw | ro | wo | rc | w1c | w1s | rwl
  deriving DecidableEq, Repr

/-- The reset kinds of R434 that a Reset column names (R9); `flr` is the FLR/POLDER kind of a queue register block. -/
inductive RstKind where
  | por | pkr | die | core | polder | link | flr
  deriving DecidableEq, Repr

/-- Where a register's instances stand: once in the package, once per hub half, once for both halves (a write to
either copy updates both), once per compute die, once per core, once per queue register block, once per mailbox set. -/
inductive RegClass where
  | pkg | hub | hubShared | die | coreBlk | qrb | mbox
  deriving DecidableEq, Repr

/-- One row of a field table: its register, its bit range, its access type, its reset kind and its stated reset value
(0 where the column names a loaded value; `Fld.resetOf` gives those). -/
structure FldDesc where
  reg : Reg
  hi  : Nat
  lo  : Nat
  ty  : AccTy
  kind : RstKind
  rst : Nat
  deriving DecidableEq, Repr

/-- Placement of a register: class, offset of its first instance in the unit (or block), and the array strides and
counts, outermost first. -/
structure RegPlace where
  cls : RegClass
  base : Nat
  dims : List (Nat × Nat)
  deriving DecidableEq, Repr

/-- The address of every register (R22 to R24, R480 and the registers' own headings). -/
def Reg.place : Reg → RegPlace
  | .PKG_ID => ⟨.pkg, 0x0, []⟩
  | .CD_REV => ⟨.pkg, 0x8, []⟩
  | .CP_ROLE => ⟨.pkg, 0x10, []⟩
  | .MEM_WEIR => ⟨.pkg, 0x1000, []⟩
  | .MEM_SIZE => ⟨.pkg, 0x1008, []⟩
  | .MEM_TGT => ⟨.pkg, 0x1040, [(8, 10)]⟩
  | .BM_CORES => ⟨.pkg, 0x2000, []⟩
  | .REF_STAT => ⟨.pkg, 0x2008, []⟩
  | .CP_INFO => ⟨.qrb, 0x0, []⟩
  | .QRB_CTL => ⟨.qrb, 0x8, []⟩
  | .QRB_STAT => ⟨.qrb, 0x10, []⟩
  | .ASQ_BASE => ⟨.qrb, 0x18, []⟩
  | .ACQ_BASE => ⟨.qrb, 0x20, []⟩
  | .SQ_DB => ⟨.qrb, 0x1000, [(16, 64)]⟩
  | .CQ_DB => ⟨.qrb, 0x1008, [(16, 64)]⟩
  | .CUT_REL => ⟨.mbox, 0x2000, [(8, 128)]⟩
  | .CUT_REL_ALL => ⟨.mbox, 0x2400, []⟩
  | .CS_SQTAIL => ⟨.mbox, 0x2800, []⟩
  | .RGN_LO => ⟨.hubShared, 0xb0000000, [(32, 256)]⟩
  | .RGN_HI => ⟨.hubShared, 0xb0000008, [(32, 256)]⟩
  | .RGN_RD => ⟨.hubShared, 0xb0000010, [(32, 256)]⟩
  | .RGN_WR => ⟨.hubShared, 0xb0000018, [(32, 256)]⟩
  | .RGN_STAGE_LO => ⟨.hubShared, 0xb0002000, []⟩
  | .RGN_STAGE_HI => ⟨.hubShared, 0xb0002008, []⟩
  | .RGN_STAGE_RD => ⟨.hubShared, 0xb0002010, []⟩
  | .RGN_STAGE_WR => ⟨.hubShared, 0xb0002018, []⟩
  | .RGN_COMMIT => ⟨.hubShared, 0xb0002020, []⟩
  | .WORLD_ATTR => ⟨.hubShared, 0xb0002040, []⟩
  | .RGN_VIOL => ⟨.hub, 0xb0002048, []⟩
  | .PT_NOW => ⟨.hubShared, 0x40000100, []⟩
  | .PT_CTL => ⟨.hubShared, 0x40000108, []⟩
  | .PT_FREQ => ⟨.hubShared, 0x40000110, []⟩
  | .PT_PHASE => ⟨.hubShared, 0x40000118, []⟩
  | .PT_STEP => ⟨.hubShared, 0x40000120, []⟩
  | .PT_PPS => ⟨.hubShared, 0x40000128, []⟩
  | .PT_STAT => ⟨.hubShared, 0x40000130, []⟩
  | .ENC_CFG => ⟨.hub, 0x40001000, [(32, 8)]⟩
  | .ENC_POS => ⟨.hub, 0x40001008, [(32, 8)]⟩
  | .ENC_STAT => ⟨.hub, 0x40001010, [(32, 8)]⟩
  | .TRIG_CFG => ⟨.hub, 0x40004000, [(32, 16)]⟩
  | .TRIG_STAT => ⟨.hub, 0x40004008, [(32, 16)]⟩
  | .TRIG_CNT => ⟨.hub, 0x40004010, [(32, 16)]⟩
  | .SLACK_CTL => ⟨.hub, 0x40000200, []⟩
  | .TE_STAT => ⟨.hub, 0x40000000, []⟩
  | .TK_CFG => ⟨.hubShared, 0x40002000, [(128, 32), (8, 6)]⟩
  | .TK_CTL => ⟨.hubShared, 0x40002030, [(128, 32)]⟩
  | .TK_NOW => ⟨.hubShared, 0x40002038, [(128, 32)]⟩
  | .TK_EDGE => ⟨.hubShared, 0x40002040, [(128, 32)]⟩
  | .TK_EVT => ⟨.hubShared, 0x40002048, [(128, 32)]⟩
  | .GD_CTL => ⟨.hubShared, 0x40003000, [(64, 32)]⟩
  | .GD_STAT => ⟨.hubShared, 0x40003008, [(64, 32)]⟩
  | .GD_CNT0 => ⟨.hubShared, 0x40003010, [(64, 32)]⟩
  | .GD_CNT1 => ⟨.hubShared, 0x40003018, [(64, 32)]⟩
  | .L2_CTL => ⟨.coreBlk, 0x40000, []⟩
  | .L2_STAT => ⟨.coreBlk, 0x40008, []⟩
  | .L2_ECC => ⟨.coreBlk, 0x40010, []⟩
  | .L2_CNT => ⟨.coreBlk, 0x40018, []⟩
  | .DC_CTL => ⟨.die, 0x81000000, []⟩
  | .DC_STAT => ⟨.die, 0x81000008, []⟩
  | .DC_CNT => ⟨.die, 0x81000010, []⟩
  | .DC_MAINT => ⟨.die, 0x81000018, []⟩
  | .DC_SLICE => ⟨.die, 0x81001000, [(16, 20)]⟩
  | .DIR_CTL => ⟨.hubShared, 0x0, []⟩
  | .DIR_STAT => ⟨.hub, 0x8, []⟩
  | .DIR_CNT0 => ⟨.hub, 0x10, []⟩
  | .DIR_CNT1 => ⟨.hub, 0x18, []⟩
  | .CEN_STAT => ⟨.hub, 0x20, []⟩
  | .DIR_BANK => ⟨.hub, 0x1000, [(16, 16)]⟩
  | .HP_CFG => ⟨.hub, 0x20000000, [(256, 8)]⟩
  | .HP_STAT => ⟨.hub, 0x20000008, [(256, 8)]⟩
  | .HP_CNT => ⟨.hub, 0x20000010, [(256, 8)]⟩
  | .HP_ADDR => ⟨.hub, 0x20000020, [(256, 8), (8, 4)]⟩
  | .PTP_CFG => ⟨.hubShared, 0x20000800, []⟩
  | .PTP_EPOCH => ⟨.hubShared, 0x20000808, []⟩
  | .STR_BIND => ⟨.hub, 0x20010000, [(256, 64), (8, 16)]⟩
  | .STR_STAT => ⟨.hub, 0x20010080, [(256, 64)]⟩
  | .STR_POS => ⟨.hub, 0x20010088, [(256, 64)]⟩
  | .STR_CNT0 => ⟨.hub, 0x20010090, [(256, 64)]⟩
  | .STR_CNT1 => ⟨.hub, 0x20010098, [(256, 64)]⟩
  | .LK_CTL => ⟨.hub, 0x30000000, [(256, 13)]⟩
  | .LK_STAT => ⟨.hub, 0x30000008, [(256, 13)]⟩
  | .LK_MAP_TX => ⟨.hub, 0x30000010, [(256, 13)]⟩
  | .LK_MAP_RX => ⟨.hub, 0x30000018, [(256, 13)]⟩
  | .LK_CNT => ⟨.hub, 0x30000020, [(256, 13)]⟩
  | .LKC_CTL => ⟨.die, 0x82000000, [(256, 2)]⟩
  | .LKC_STAT => ⟨.die, 0x82000008, [(256, 2)]⟩
  | .LKC_MAP_TX => ⟨.die, 0x82000010, [(256, 2)]⟩
  | .LKC_MAP_RX => ⟨.die, 0x82000018, [(256, 2)]⟩
  | .LKC_CNT => ⟨.die, 0x82000020, [(256, 2)]⟩
  | .DK_CTL => ⟨.hub, 0x80000000, []⟩
  | .DK_STAT => ⟨.hub, 0x80000008, []⟩
  | .DK_EPOCH => ⟨.hub, 0x80000010, []⟩
  | .DK_CNT => ⟨.hub, 0x80000018, []⟩
  | .DK_BASE => ⟨.hub, 0x80001000, [(32, 32)]⟩
  | .DK_LIM => ⟨.hub, 0x80001008, [(32, 32)]⟩
  | .DK_TGT => ⟨.hub, 0x80001010, [(32, 32)]⟩
  | .DK_ATTR => ⟨.hub, 0x80001018, [(32, 32)]⟩
  | .DK_STG => ⟨.hub, 0x80002000, [(8, 128)]⟩
  | .DK_DBCFG => ⟨.hub, 0x80003000, [(8, 16)]⟩
  | .GDB => ⟨.hub, 0x80004000, [(8, 16)]⟩
  | .CS_CTL => ⟨.hubShared, 0x90000000, []⟩
  | .CS_TIMING => ⟨.hubShared, 0x90000008, []⟩
  | .CS_STAT => ⟨.hubShared, 0x90000010, []⟩
  | .CS_CNT => ⟨.hubShared, 0x90000018, []⟩
  | .CS_PORT => ⟨.hub, 0x90000100, [(64, 2)]⟩
  | .CS_MEM => ⟨.hubShared, 0x90000200, [(8, 16)]⟩
  | .CS_CHAN => ⟨.hubShared, 0x90000300, [(16, 8)]⟩
  | .CS_CHDIV => ⟨.hubShared, 0x90000308, [(16, 8)]⟩
  | .CS_TBIND => ⟨.hubShared, 0x90000400, [(8, 32)]⟩
  | .CS_WTGT => ⟨.hubShared, 0x90001000, [(16, 16)]⟩
  | .CS_WATTR => ⟨.hubShared, 0x90001008, [(16, 16)]⟩
  | .CS_STG_WTGT => ⟨.hubShared, 0x90001800, [(16, 16)]⟩
  | .CS_STG_WATTR => ⟨.hubShared, 0x90001808, [(16, 16)]⟩
  | .CS_WCOMMIT => ⟨.hubShared, 0x90001900, []⟩
  | .AG_CTL => ⟨.die, 0x83000000, []⟩
  | .AG_MARGIN => ⟨.die, 0x83000100, [(8, 21)]⟩
  | .PE_CFG => ⟨.hub, 0x70000000, [(16777216, 2)]⟩
  | .PE_STAT => ⟨.hub, 0x70000008, [(16777216, 2)]⟩
  | .PE_PM => ⟨.hub, 0x70000010, [(16777216, 2)]⟩
  | .PE_CNT => ⟨.hub, 0x70000018, [(16777216, 2)]⟩
  | .PW_EPOCH => ⟨.hub, 0x70000020, [(16777216, 2)]⟩
  | .PW_BASE => ⟨.hub, 0x70001000, [(16777216, 2), (32, 32)]⟩
  | .PW_LIM => ⟨.hub, 0x70001008, [(16777216, 2), (32, 32)]⟩
  | .PW_TGT => ⟨.hub, 0x70001010, [(16777216, 2), (32, 32)]⟩
  | .PW_ATTR => ⟨.hub, 0x70001018, [(16777216, 2), (32, 32)]⟩
  | .PW_STG => ⟨.hub, 0x70002000, [(16777216, 2), (8, 128)]⟩
  | .PM_RAIL => ⟨.hub, 0x50000000, []⟩
  | .PM_PKG => ⟨.hubShared, 0x50000008, []⟩
  | .PV_VOTE => ⟨.hubShared, 0x50100000, [(65536, 8), (32, 256)]⟩
  | .PV_VETO => ⟨.hubShared, 0x50100008, [(65536, 8), (32, 256)]⟩
  | .PV_STAT => ⟨.hubShared, 0x50100010, [(65536, 8), (32, 256)]⟩
  | .RST_REQ => ⟨.hubShared, 0x50000100, []⟩
  | .RST_CAUSE => ⟨.hubShared, 0x50000108, []⟩
  | .TS_HUB => ⟨.hub, 0x50000200, [(8, 8)]⟩
  | .DPM_CTL => ⟨.die, 0x84000000, []⟩
  | .TS_DIE => ⟨.die, 0x86000000, [(8, 21)]⟩
  | .CB_OWN => ⟨.hub, 0xa0000000, [(256, 32)]⟩
  | .CB_SEL => ⟨.hub, 0xa0000008, [(256, 32), (8, 8)]⟩
  | .CB_CNT => ⟨.hub, 0xa0000048, [(256, 32), (8, 8)]⟩
  | .CBD_OWN => ⟨.die, 0x85000000, [(256, 4)]⟩
  | .CBD_SEL => ⟨.die, 0x85000008, [(256, 4), (8, 8)]⟩
  | .CBD_CNT => ⟨.die, 0x85000048, [(256, 4), (8, 8)]⟩
  | .CNT_DUMP => ⟨.hubShared, 0xa0008000, [(16, 32)]⟩
  | .REC_CTL => ⟨.hub, 0x60000000, []⟩
  | .REC_STAT => ⟨.hub, 0x60000008, []⟩
  | .REC_DROP => ⟨.hub, 0x60000010, []⟩
  | .REC_CURSOR => ⟨.hub, 0x60000018, []⟩
  | .REC_WINDOW => ⟨.hub, 0x60000040, [(8, 8)]⟩
  | .RV_CTL => ⟨.hub, 0x60010000, [(256, 32)]⟩
  | .RV_STAT => ⟨.hub, 0x60010008, [(256, 32)]⟩
  | .RV_CURSOR => ⟨.hub, 0x60010018, [(256, 32)]⟩
  | .RV_WINDOW => ⟨.hub, 0x60010040, [(256, 32), (8, 8)]⟩
  | .MC_CFG => ⟨.hub, 0x10000000, [(16777216, 8)]⟩
  | .MC_CTL => ⟨.hub, 0x10000008, [(16777216, 8)]⟩
  | .MC_STAT => ⟨.hub, 0x10000010, [(16777216, 8)]⟩
  | .MC_REF => ⟨.hub, 0x10000018, [(16777216, 8)]⟩
  | .MC_RT => ⟨.hub, 0x10000020, [(16777216, 8)]⟩
  | .MC_RTSTAT => ⟨.hub, 0x10000028, [(16777216, 8)]⟩
  | .MC_ERR => ⟨.hub, 0x10000030, [(16777216, 8)]⟩
  | .MC_ECC => ⟨.hub, 0x10000038, [(16777216, 8)]⟩
  | .MC_SCRUB => ⟨.hub, 0x10000040, [(16777216, 8)]⟩

/-- The field tables of the register headings. -/
def Fld.desc : Fld → FldDesc
  | .PKG_ID_DEVICE => ⟨.PKG_ID, 15, 0, .ro, .por, 0x240⟩
  | .PKG_ID_GRADE => ⟨.PKG_ID, 19, 16, .ro, .por, 0x0⟩
  | .PKG_ID_SPEED => ⟨.PKG_ID, 23, 20, .ro, .por, 0x0⟩
  | .PKG_ID_HUB_REV => ⟨.PKG_ID, 27, 24, .ro, .por, 0x0⟩
  | .PKG_ID_GUARDED => ⟨.PKG_ID, 28, 28, .ro, .pkr, 0x0⟩
  | .CD_REV_CD0_REV => ⟨.CD_REV, 3, 0, .ro, .por, 0x0⟩
  | .CD_REV_CD1_REV => ⟨.CD_REV, 7, 4, .ro, .por, 0x0⟩
  | .CD_REV_CD2_REV => ⟨.CD_REV, 11, 8, .ro, .por, 0x0⟩
  | .CD_REV_CD3_REV => ⟨.CD_REV, 15, 12, .ro, .por, 0x0⟩
  | .CD_REV_CD4_REV => ⟨.CD_REV, 19, 16, .ro, .por, 0x0⟩
  | .CD_REV_CD5_REV => ⟨.CD_REV, 23, 20, .ro, .por, 0x0⟩
  | .CD_REV_CD6_REV => ⟨.CD_REV, 27, 24, .ro, .por, 0x0⟩
  | .CD_REV_CD7_REV => ⟨.CD_REV, 31, 28, .ro, .por, 0x0⟩
  | .CD_REV_CD8_REV => ⟨.CD_REV, 35, 32, .ro, .por, 0x0⟩
  | .CD_REV_CD9_REV => ⟨.CD_REV, 39, 36, .ro, .por, 0x0⟩
  | .CD_REV_CD10_REV => ⟨.CD_REV, 43, 40, .ro, .por, 0x0⟩
  | .CD_REV_CD11_REV => ⟨.CD_REV, 47, 44, .ro, .por, 0x0⟩
  | .CP_ROLE_ACTIVE => ⟨.CP_ROLE, 0, 0, .ro, .pkr, 0x0⟩
  | .CP_ROLE_STANDBY_READY => ⟨.CP_ROLE, 1, 1, .ro, .pkr, 0x0⟩
  | .CP_ROLE_LAST_CAUSE => ⟨.CP_ROLE, 7, 4, .ro, .pkr, 0x0⟩
  | .CP_ROLE_TAKEOVERS => ⟨.CP_ROLE, 23, 8, .ro, .pkr, 0x0⟩
  | .MEM_WEIR_W1 => ⟨.MEM_WEIR, 6, 0, .rw, .pkr, 0x32⟩
  | .MEM_WEIR_W2 => ⟨.MEM_WEIR, 14, 8, .rw, .pkr, 0x4b⟩
  | .MEM_WEIR_W3 => ⟨.MEM_WEIR, 22, 16, .rw, .pkr, 0x5a⟩
  | .MEM_SIZE_BLOCKS => ⟨.MEM_SIZE, 30, 0, .ro, .pkr, 0x0⟩
  | .MEM_TGT_T0 => ⟨.MEM_TGT, 15, 0, .rw, .pkr, 0x0⟩
  | .MEM_TGT_T1 => ⟨.MEM_TGT, 31, 16, .rw, .pkr, 0x0⟩
  | .MEM_TGT_T2 => ⟨.MEM_TGT, 47, 32, .rw, .pkr, 0x0⟩
  | .MEM_TGT_T3 => ⟨.MEM_TGT, 63, 48, .rw, .pkr, 0x0⟩
  | .BM_CORES_CD0 => ⟨.BM_CORES, 2, 0, .ro, .pkr, 0x0⟩
  | .BM_CORES_CD1 => ⟨.BM_CORES, 5, 3, .ro, .pkr, 0x0⟩
  | .BM_CORES_CD2 => ⟨.BM_CORES, 8, 6, .ro, .pkr, 0x0⟩
  | .BM_CORES_CD3 => ⟨.BM_CORES, 11, 9, .ro, .pkr, 0x0⟩
  | .BM_CORES_CD4 => ⟨.BM_CORES, 14, 12, .ro, .pkr, 0x0⟩
  | .BM_CORES_CD5 => ⟨.BM_CORES, 17, 15, .ro, .pkr, 0x0⟩
  | .BM_CORES_CD6 => ⟨.BM_CORES, 20, 18, .ro, .pkr, 0x0⟩
  | .BM_CORES_CD7 => ⟨.BM_CORES, 23, 21, .ro, .pkr, 0x0⟩
  | .BM_CORES_CD8 => ⟨.BM_CORES, 26, 24, .ro, .pkr, 0x0⟩
  | .BM_CORES_CD9 => ⟨.BM_CORES, 29, 27, .ro, .pkr, 0x0⟩
  | .BM_CORES_CD10 => ⟨.BM_CORES, 32, 30, .ro, .pkr, 0x0⟩
  | .BM_CORES_CD11 => ⟨.BM_CORES, 35, 33, .ro, .pkr, 0x0⟩
  | .BM_CORES_PROFILE => ⟨.BM_CORES, 39, 36, .ro, .pkr, 0x0⟩
  | .REF_STAT_GOOD_H0 => ⟨.REF_STAT, 1, 0, .ro, .por, 0x0⟩
  | .REF_STAT_SEL_H0 => ⟨.REF_STAT, 2, 2, .ro, .por, 0x0⟩
  | .REF_STAT_GOOD_H1 => ⟨.REF_STAT, 7, 6, .ro, .por, 0x0⟩
  | .REF_STAT_SEL_H1 => ⟨.REF_STAT, 8, 8, .ro, .por, 0x0⟩
  | .REF_STAT_SWITCHES => ⟨.REF_STAT, 31, 16, .rc, .por, 0x0⟩
  | .CP_INFO_MAXDEPTH => ⟨.CP_INFO, 11, 0, .ro, .flr, 0xfff⟩
  | .CP_INFO_MAXQID => ⟨.CP_INFO, 17, 12, .ro, .flr, 0x3f⟩
  | .CP_INFO_VERSION => ⟨.CP_INFO, 31, 24, .ro, .flr, 0x1⟩
  | .QRB_CTL_EN => ⟨.QRB_CTL, 0, 0, .rw, .flr, 0x0⟩
  | .QRB_CTL_ASQ_SIZE => ⟨.QRB_CTL, 27, 16, .rwl, .flr, 0x0⟩
  | .QRB_CTL_ACQ_SIZE => ⟨.QRB_CTL, 43, 32, .rwl, .flr, 0x0⟩
  | .QRB_STAT_RDY => ⟨.QRB_STAT, 0, 0, .ro, .flr, 0x0⟩
  | .QRB_STAT_DB_ERR => ⟨.QRB_STAT, 1, 1, .w1c, .flr, 0x0⟩
  | .QRB_STAT_TAKEOVER => ⟨.QRB_STAT, 2, 2, .w1c, .flr, 0x0⟩
  | .QRB_STAT_FATAL => ⟨.QRB_STAT, 3, 3, .ro, .flr, 0x0⟩
  | .ASQ_BASE_BASE => ⟨.ASQ_BASE, 63, 12, .rwl, .flr, 0x0⟩
  | .ACQ_BASE_BASE => ⟨.ACQ_BASE, 63, 12, .rwl, .flr, 0x0⟩
  | .SQ_DB_VALUE => ⟨.SQ_DB, 11, 0, .rw, .flr, 0x0⟩
  | .CQ_DB_VALUE => ⟨.CQ_DB, 11, 0, .rw, .flr, 0x0⟩
  | .CUT_REL_TICK => ⟨.CUT_REL, 47, 0, .rw, .polder, 0x0⟩
  | .CUT_REL_ALL_TICK => ⟨.CUT_REL_ALL, 47, 0, .wo, .polder, 0x0⟩
  | .CS_SQTAIL_VALUE => ⟨.CS_SQTAIL, 63, 0, .rw, .polder, 0x0⟩
  | .RGN_LO_VALID => ⟨.RGN_LO, 0, 0, .ro, .pkr, 0x0⟩
  | .RGN_LO_WORLD => ⟨.RGN_LO, 1, 1, .ro, .pkr, 0x0⟩
  | .RGN_LO_TYPE => ⟨.RGN_LO, 2, 2, .ro, .pkr, 0x0⟩
  | .RGN_LO_IDEMP => ⟨.RGN_LO, 3, 3, .ro, .pkr, 0x0⟩
  | .RGN_LO_BASE => ⟨.RGN_LO, 51, 21, .ro, .pkr, 0x0⟩
  | .RGN_HI_LIMIT => ⟨.RGN_HI, 51, 21, .ro, .pkr, 0x0⟩
  | .RGN_RD_MASK => ⟨.RGN_RD, 31, 0, .ro, .pkr, 0x0⟩
  | .RGN_WR_MASK => ⟨.RGN_WR, 31, 0, .ro, .pkr, 0x0⟩
  | .RGN_STAGE_LO_VALUE => ⟨.RGN_STAGE_LO, 63, 0, .rw, .pkr, 0x0⟩
  | .RGN_STAGE_HI_VALUE => ⟨.RGN_STAGE_HI, 63, 0, .rw, .pkr, 0x0⟩
  | .RGN_STAGE_RD_VALUE => ⟨.RGN_STAGE_RD, 63, 0, .rw, .pkr, 0x0⟩
  | .RGN_STAGE_WR_VALUE => ⟨.RGN_STAGE_WR, 63, 0, .rw, .pkr, 0x0⟩
  | .RGN_COMMIT_INDEX => ⟨.RGN_COMMIT, 7, 0, .wo, .pkr, 0x0⟩
  | .RGN_COMMIT_GO => ⟨.RGN_COMMIT, 8, 8, .wo, .pkr, 0x0⟩
  | .WORLD_ATTR_PCIE_SEC => ⟨.WORLD_ATTR, 3, 0, .rw, .pkr, 0x0⟩
  | .WORLD_ATTR_CASC_SEC => ⟨.WORLD_ATTR, 7, 4, .rw, .pkr, 0x0⟩
  | .WORLD_ATTR_GUEST_SEC => ⟨.WORLD_ATTR, 9, 8, .rw, .pkr, 0x0⟩
  | .WORLD_ATTR_SIDEBAND_TRUSTED => ⟨.WORLD_ATTR, 10, 10, .rw, .pkr, 0x0⟩
  | .RGN_VIOL_COUNT => ⟨.RGN_VIOL, 47, 0, .rc, .pkr, 0x0⟩
  | .PT_NOW_TIME => ⟨.PT_NOW, 63, 0, .ro, .por, 0x0⟩
  | .PT_CTL_SRC => ⟨.PT_CTL, 1, 0, .rw, .por, 0x0⟩
  | .PT_CTL_PPS_HALF => ⟨.PT_CTL, 2, 2, .rw, .por, 0x0⟩
  | .PT_CTL_SLEW_MAX => ⟨.PT_CTL, 15, 8, .rw, .por, 0x14⟩
  | .PT_FREQ_VALUE => ⟨.PT_FREQ, 63, 0, .rw, .por, 0x0⟩
  | .PT_PHASE_VALUE => ⟨.PT_PHASE, 63, 0, .wo, .por, 0x0⟩
  | .PT_STEP_VALUE => ⟨.PT_STEP, 63, 0, .wo, .por, 0x0⟩
  | .PT_PPS_STAMP => ⟨.PT_PPS, 63, 0, .ro, .por, 0x0⟩
  | .PT_STAT_SRC_OK => ⟨.PT_STAT, 0, 0, .ro, .por, 0x0⟩
  | .PT_STAT_HOLDOVER => ⟨.PT_STAT, 1, 1, .ro, .por, 0x0⟩
  | .PT_STAT_SLEWING => ⟨.PT_STAT, 2, 2, .ro, .por, 0x0⟩
  | .PT_STAT_STEP_REFUSED => ⟨.PT_STAT, 3, 3, .w1c, .por, 0x0⟩
  | .ENC_CFG_EN => ⟨.ENC_CFG, 0, 0, .rw, .pkr, 0x0⟩
  | .ENC_CFG_MODE => ⟨.ENC_CFG, 2, 1, .rw, .pkr, 0x0⟩
  | .ENC_CFG_ZCHK => ⟨.ENC_CFG, 3, 3, .rw, .pkr, 0x0⟩
  | .ENC_CFG_FILT => ⟨.ENC_CFG, 7, 4, .rw, .pkr, 0x4⟩
  | .ENC_CFG_TOL => ⟨.ENC_CFG, 23, 16, .rw, .pkr, 0x4⟩
  | .ENC_CFG_ZPERIOD => ⟨.ENC_CFG, 47, 24, .rw, .pkr, 0x0⟩
  | .ENC_POS_POS => ⟨.ENC_POS, 63, 0, .ro, .pkr, 0x0⟩
  | .ENC_STAT_ILLEGAL => ⟨.ENC_STAT, 0, 0, .w1c, .pkr, 0x0⟩
  | .ENC_STAT_LOS => ⟨.ENC_STAT, 1, 1, .w1c, .pkr, 0x0⟩
  | .ENC_STAT_ZERR => ⟨.ENC_STAT, 2, 2, .w1c, .pkr, 0x0⟩
  | .ENC_STAT_OVERSPEED => ⟨.ENC_STAT, 3, 3, .w1c, .pkr, 0x0⟩
  | .ENC_STAT_PAIR_FAULT => ⟨.ENC_STAT, 4, 4, .w1c, .pkr, 0x0⟩
  | .ENC_STAT_FAILED => ⟨.ENC_STAT, 5, 5, .ro, .pkr, 0x0⟩
  | .ENC_STAT_ILLEGAL_CNT => ⟨.ENC_STAT, 47, 32, .rc, .pkr, 0x0⟩
  | .TRIG_CFG_POL => ⟨.TRIG_CFG, 0, 0, .rw, .pkr, 0x0⟩
  | .TRIG_CFG_LATE => ⟨.TRIG_CFG, 1, 1, .rw, .pkr, 0x0⟩
  | .TRIG_CFG_WIDTH => ⟨.TRIG_CFG, 31, 8, .rw, .pkr, 0x3e8⟩
  | .TRIG_STAT_ARMED => ⟨.TRIG_STAT, 0, 0, .ro, .pkr, 0x0⟩
  | .TRIG_STAT_DEPTH => ⟨.TRIG_STAT, 21, 11, .ro, .pkr, 0x0⟩
  | .TRIG_CNT_FIRED => ⟨.TRIG_CNT, 15, 0, .rc, .pkr, 0x0⟩
  | .TRIG_CNT_LATE_DROP => ⟨.TRIG_CNT, 31, 16, .rc, .pkr, 0x0⟩
  | .TRIG_CNT_LATE_FIRED => ⟨.TRIG_CNT, 47, 32, .rc, .pkr, 0x0⟩
  | .TRIG_CNT_DISARM_DROP => ⟨.TRIG_CNT, 55, 48, .rc, .pkr, 0x0⟩
  | .TRIG_CNT_OVF => ⟨.TRIG_CNT, 63, 56, .rc, .pkr, 0x0⟩
  | .SLACK_CTL_MIN_NS => ⟨.SLACK_CTL, 15, 0, .rw, .pkr, 0x3e8⟩
  | .SLACK_CTL_GUARD_NS => ⟨.SLACK_CTL, 31, 16, .rw, .pkr, 0x3e8⟩
  | .TE_STAT_PARTNER => ⟨.TE_STAT, 0, 0, .ro, .pkr, 0x0⟩
  | .TE_STAT_ROLE_CHANGES => ⟨.TE_STAT, 15, 8, .rc, .pkr, 0x0⟩
  | .TE_STAT_MISMATCH => ⟨.TE_STAT, 31, 16, .rc, .pkr, 0x0⟩
  | .TE_STAT_BACKUP => ⟨.TE_STAT, 47, 32, .rc, .pkr, 0x0⟩
  | .TK_CFG_WORD => ⟨.TK_CFG, 63, 0, .ro, .pkr, 0x0⟩
  | .TK_CTL_HOST_TICK => ⟨.TK_CTL, 0, 0, .wo, .pkr, 0x0⟩
  | .TK_CTL_RESUME => ⟨.TK_CTL, 1, 1, .wo, .pkr, 0x0⟩
  | .TK_CTL_PREF => ⟨.TK_CTL, 2, 2, .rw, .pkr, 0x0⟩
  | .TK_NOW_NUM => ⟨.TK_NOW, 47, 0, .ro, .pkr, 0x0⟩
  | .TK_NOW_STATE => ⟨.TK_NOW, 50, 48, .ro, .pkr, 0x0⟩
  | .TK_EDGE_PTIME => ⟨.TK_EDGE, 63, 0, .ro, .pkr, 0x0⟩
  | .TK_EVT_OVERRUN => ⟨.TK_EVT, 15, 0, .rc, .pkr, 0x0⟩
  | .TK_EVT_SKIP => ⟨.TK_EVT, 31, 16, .rc, .pkr, 0x0⟩
  | .TK_EVT_LATE => ⟨.TK_EVT, 47, 32, .rc, .pkr, 0x0⟩
  | .TK_EVT_EARLY => ⟨.TK_EVT, 63, 48, .rc, .pkr, 0x0⟩
  | .GD_CTL_DEFER_LIMIT => ⟨.GD_CTL, 19, 0, .rw, .pkr, 0x7d0⟩
  | .GD_CTL_CATCHUP => ⟨.GD_CTL, 22, 20, .rw, .pkr, 0x4⟩
  | .GD_STAT_TOKEN_HELD => ⟨.GD_STAT, 0, 0, .ro, .pkr, 0x0⟩
  | .GD_STAT_TOKEN_CPU => ⟨.GD_STAT, 15, 8, .ro, .pkr, 0x0⟩
  | .GD_STAT_RECOVERING => ⟨.GD_STAT, 23, 16, .ro, .pkr, 0x0⟩
  | .GD_STAT_VACANT => ⟨.GD_STAT, 31, 24, .ro, .pkr, 0x0⟩
  | .GD_STAT_LAST_CAUSE => ⟨.GD_STAT, 39, 32, .ro, .pkr, 0x0⟩
  | .GD_CNT0_ABORT_SNOOP => ⟨.GD_CNT0, 15, 0, .rc, .pkr, 0x0⟩
  | .GD_CNT0_ABORT_ERR => ⟨.GD_CNT0, 31, 16, .rc, .pkr, 0x0⟩
  | .GD_CNT0_RERUN_FAULT => ⟨.GD_CNT0, 47, 32, .rc, .pkr, 0x0⟩
  | .GD_CNT0_TICKABORT => ⟨.GD_CNT0, 63, 48, .rc, .pkr, 0x0⟩
  | .GD_CNT1_WAY_OVF => ⟨.GD_CNT1, 15, 0, .rc, .pkr, 0x0⟩
  | .GD_CNT1_DQ_OVF => ⟨.GD_CNT1, 31, 16, .rc, .pkr, 0x0⟩
  | .GD_CNT1_DEV_READ => ⟨.GD_CNT1, 47, 32, .rc, .pkr, 0x0⟩
  | .GD_CNT1_TOKEN => ⟨.GD_CNT1, 55, 48, .rc, .pkr, 0x0⟩
  | .GD_CNT1_CATCHUP_FAIL => ⟨.GD_CNT1, 63, 56, .rc, .pkr, 0x0⟩
  | .L2_CTL_EN => ⟨.L2_CTL, 0, 0, .rw, .core, 0x1⟩
  | .L2_CTL_PF => ⟨.L2_CTL, 1, 1, .rw, .core, 0x1⟩
  | .L2_STAT_EN_STATUS => ⟨.L2_STAT, 0, 0, .ro, .core, 0x1⟩
  | .L2_STAT_SWEEP => ⟨.L2_STAT, 1, 1, .ro, .core, 0x0⟩
  | .L2_STAT_REFUSED => ⟨.L2_STAT, 2, 2, .w1c, .core, 0x0⟩
  | .L2_STAT_LOCKED => ⟨.L2_STAT, 31, 16, .ro, .core, 0x0⟩
  | .L2_STAT_RETIRED => ⟨.L2_STAT, 47, 32, .ro, .pkr, 0x0⟩
  | .L2_ECC_ECC_THRESH => ⟨.L2_ECC, 15, 0, .rw, .pkr, 0x40⟩
  | .L2_ECC_ECC_WINDOW => ⟨.L2_ECC, 31, 16, .rw, .pkr, 0xe10⟩
  | .L2_ECC_CE_CNT => ⟨.L2_ECC, 47, 32, .rc, .pkr, 0x0⟩
  | .L2_ECC_UE_CNT => ⟨.L2_ECC, 55, 48, .rc, .pkr, 0x0⟩
  | .L2_ECC_LAST_WAY => ⟨.L2_ECC, 59, 56, .ro, .pkr, 0x0⟩
  | .L2_CNT_LOCK_LOST => ⟨.L2_CNT, 31, 0, .rc, .core, 0x0⟩
  | .L2_CNT_PUSH_DROP => ⟨.L2_CNT, 63, 32, .rc, .core, 0x0⟩
  | .DC_CTL_EN => ⟨.DC_CTL, 0, 0, .rw, .die, 0x1⟩
  | .DC_CTL_ECC_THRESH => ⟨.DC_CTL, 31, 16, .rw, .pkr, 0x40⟩
  | .DC_CTL_ECC_WINDOW => ⟨.DC_CTL, 47, 32, .rw, .pkr, 0xe10⟩
  | .DC_STAT_EN_STATUS => ⟨.DC_STAT, 0, 0, .ro, .die, 0x1⟩
  | .DC_STAT_SWEEP => ⟨.DC_STAT, 1, 1, .ro, .die, 0x0⟩
  | .DC_STAT_REFUSED => ⟨.DC_STAT, 2, 2, .w1c, .die, 0x0⟩
  | .DC_CNT_PUSH_DROP => ⟨.DC_CNT, 31, 0, .rc, .die, 0x0⟩
  | .DC_CNT_LOCK_VICTIM => ⟨.DC_CNT, 63, 32, .rc, .die, 0x0⟩
  | .DC_MAINT_OP => ⟨.DC_MAINT, 1, 0, .rw, .die, 0x0⟩
  | .DC_MAINT_SLICE => ⟨.DC_MAINT, 6, 2, .rw, .die, 0x0⟩
  | .DC_MAINT_SET => ⟨.DC_MAINT, 17, 7, .rw, .die, 0x0⟩
  | .DC_MAINT_WAY => ⟨.DC_MAINT, 22, 18, .rw, .die, 0x0⟩
  | .DC_MAINT_GO => ⟨.DC_MAINT, 23, 23, .wo, .die, 0x0⟩
  | .DC_MAINT_BUSY => ⟨.DC_MAINT, 24, 24, .ro, .die, 0x0⟩
  | .DC_SLICE_RETIRED => ⟨.DC_SLICE, 15, 0, .ro, .pkr, 0x0⟩
  | .DC_SLICE_SPARE_USED => ⟨.DC_SLICE, 16, 16, .ro, .pkr, 0x0⟩
  | .DC_SLICE_CE_CNT => ⟨.DC_SLICE, 47, 32, .rc, .pkr, 0x0⟩
  | .DC_SLICE_UE_CNT => ⟨.DC_SLICE, 55, 48, .rc, .pkr, 0x0⟩
  | .DIR_CTL_HOLD_WINDOW => ⟨.DIR_CTL, 10, 0, .rw, .pkr, 0xc8⟩
  | .DIR_CTL_NACK_RETRY => ⟨.DIR_CTL, 23, 16, .rw, .pkr, 0x40⟩
  | .DIR_STAT_HOMES => ⟨.DIR_STAT, 1, 0, .ro, .pkr, 0x0⟩
  | .DIR_STAT_SPINE_DOWN => ⟨.DIR_STAT, 2, 2, .ro, .pkr, 0x0⟩
  | .DIR_STAT_PARTNER_LOST => ⟨.DIR_STAT, 3, 3, .ro, .pkr, 0x0⟩
  | .DIR_STAT_PATHS => ⟨.DIR_STAT, 27, 16, .ro, .pkr, 0x0⟩
  | .DIR_CNT0_RECALLS => ⟨.DIR_CNT0, 31, 0, .rc, .pkr, 0x0⟩
  | .DIR_CNT0_INVALS => ⟨.DIR_CNT0, 63, 32, .rc, .pkr, 0x0⟩
  | .DIR_CNT1_NACKS => ⟨.DIR_CNT1, 15, 0, .rc, .pkr, 0x0⟩
  | .DIR_CNT1_HOLD_WAITS => ⟨.DIR_CNT1, 31, 16, .rc, .pkr, 0x0⟩
  | .DIR_CNT1_DIR_EVICTS => ⟨.DIR_CNT1, 47, 32, .rc, .pkr, 0x0⟩
  | .DIR_CNT1_HINT_DROP => ⟨.DIR_CNT1, 63, 48, .rc, .pkr, 0x0⟩
  | .CEN_STAT_LINES => ⟨.CEN_STAT, 23, 0, .ro, .pkr, 0x0⟩
  | .CEN_STAT_DROPPED => ⟨.CEN_STAT, 39, 24, .ro, .pkr, 0x0⟩
  | .CEN_STAT_BCAST => ⟨.CEN_STAT, 51, 40, .ro, .pkr, 0x0⟩
  | .CEN_STAT_DURATION => ⟨.CEN_STAT, 63, 52, .ro, .pkr, 0x0⟩
  | .DIR_BANK_TRK => ⟨.DIR_BANK, 9, 0, .ro, .pkr, 0x0⟩
  | .DIR_BANK_WAIT => ⟨.DIR_BANK, 28, 16, .ro, .pkr, 0x0⟩
  | .DIR_BANK_WAIT_MAX => ⟨.DIR_BANK, 44, 32, .rc, .pkr, 0x0⟩
  | .DIR_BANK_SPARE => ⟨.DIR_BANK, 49, 48, .ro, .pkr, 0x0⟩
  | .DIR_BANK_RETIRED => ⟨.DIR_BANK, 52, 50, .ro, .pkr, 0x0⟩
  | .HP_CFG_MODE => ⟨.HP_CFG, 1, 0, .rw, .pkr, 0x0⟩
  | .HP_CFG_AN_EN => ⟨.HP_CFG, 2, 2, .rw, .pkr, 0x0⟩
  | .HP_CFG_SUB_EN => ⟨.HP_CFG, 11, 8, .rw, .pkr, 0x0⟩
  | .HP_STAT_LINK => ⟨.HP_STAT, 3, 0, .ro, .pkr, 0x0⟩
  | .HP_STAT_RATE => ⟨.HP_STAT, 6, 4, .ro, .pkr, 0x0⟩
  | .HP_CNT_FCS_ERR => ⟨.HP_CNT, 15, 0, .rc, .pkr, 0x0⟩
  | .HP_CNT_FEC_UNCORR => ⟨.HP_CNT, 31, 16, .rc, .pkr, 0x0⟩
  | .HP_CNT_FOREIGN => ⟨.HP_CNT, 47, 32, .rc, .pkr, 0x0⟩
  | .HP_CNT_LINK_DOWN => ⟨.HP_CNT, 63, 48, .rc, .pkr, 0x0⟩
  | .HP_ADDR_IPV4 => ⟨.HP_ADDR, 31, 0, .rw, .pkr, 0x0⟩
  | .HP_ADDR_PREFIX => ⟨.HP_ADDR, 37, 32, .rw, .pkr, 0x0⟩
  | .HP_ADDR_VID => ⟨.HP_ADDR, 49, 38, .rw, .pkr, 0x0⟩
  | .PTP_CFG_DOMAIN => ⟨.PTP_CFG, 7, 0, .rw, .pkr, 0x0⟩
  | .PTP_CFG_PRIO1 => ⟨.PTP_CFG, 15, 8, .rw, .pkr, 0x80⟩
  | .PTP_CFG_PRIO2 => ⟨.PTP_CFG, 23, 16, .rw, .pkr, 0x80⟩
  | .PTP_CFG_LOG_SYNC => ⟨.PTP_CFG, 26, 24, .rw, .pkr, 0x3⟩
  | .PTP_CFG_ONE_STEP => ⟨.PTP_CFG, 27, 27, .rw, .pkr, 0x1⟩
  | .PTP_CFG_SLAVE => ⟨.PTP_CFG, 33, 28, .rw, .pkr, 0x0⟩
  | .PTP_CFG_SLAVE_EN => ⟨.PTP_CFG, 34, 34, .rw, .pkr, 0x0⟩
  | .PTP_EPOCH_OFFSET => ⟨.PTP_EPOCH, 63, 0, .rw, .pkr, 0x0⟩
  | .STR_BIND_WORD => ⟨.STR_BIND, 63, 0, .ro, .pkr, 0x0⟩
  | .STR_STAT_STATE => ⟨.STR_STAT, 2, 0, .ro, .pkr, 0x0⟩
  | .STR_STAT_LEAD => ⟨.STR_STAT, 3, 3, .ro, .pkr, 0x0⟩
  | .STR_STAT_PAIR_LIVE => ⟨.STR_STAT, 4, 4, .ro, .pkr, 0x0⟩
  | .STR_STAT_FULL => ⟨.STR_STAT, 5, 5, .ro, .pkr, 0x0⟩
  | .STR_STAT_LAST_CUT => ⟨.STR_STAT, 63, 16, .ro, .pkr, 0x0⟩
  | .STR_POS_NEXT => ⟨.STR_POS, 31, 0, .ro, .pkr, 0x0⟩
  | .STR_POS_HELD => ⟨.STR_POS, 63, 32, .ro, .pkr, 0x0⟩
  | .STR_CNT0_LINES => ⟨.STR_CNT0, 31, 0, .rc, .pkr, 0x0⟩
  | .STR_CNT0_INCOMPLETE => ⟨.STR_CNT0, 47, 32, .rc, .pkr, 0x0⟩
  | .STR_CNT0_LATE => ⟨.STR_CNT0, 63, 48, .rc, .pkr, 0x0⟩
  | .STR_CNT1_DROP => ⟨.STR_CNT1, 31, 0, .rc, .pkr, 0x0⟩
  | .STR_CNT1_DUP_PKT => ⟨.STR_CNT1, 47, 32, .rc, .pkr, 0x0⟩
  | .STR_CNT1_FOREIGN_PKT => ⟨.STR_CNT1, 63, 48, .rc, .pkr, 0x0⟩
  | .LK_CTL_RETRAIN => ⟨.LK_CTL, 0, 0, .wo, .pkr, 0x0⟩
  | .LK_CTL_SLEEP_EN => ⟨.LK_CTL, 1, 1, .rw, .pkr, 0x1⟩
  | .LK_CTL_SLEEP_IDLE => ⟨.LK_CTL, 31, 16, .rw, .pkr, 0x7d0⟩
  | .LK_CTL_CRC_THRESH => ⟨.LK_CTL, 47, 32, .rw, .pkr, 0x10⟩
  | .LK_STAT_STATE => ⟨.LK_STAT, 1, 0, .ro, .link, 0x0⟩
  | .LK_STAT_LEVEL => ⟨.LK_STAT, 3, 2, .ro, .link, 0x0⟩
  | .LK_STAT_PEER_KIND => ⟨.LK_STAT, 5, 4, .ro, .link, 0x0⟩
  | .LK_STAT_PEER_REV => ⟨.LK_STAT, 9, 6, .ro, .link, 0x0⟩
  | .LK_STAT_FEATURES => ⟨.LK_STAT, 17, 10, .ro, .link, 0x0⟩
  | .LK_STAT_LAST_CAUSE => ⟨.LK_STAT, 21, 18, .ro, .link, 0x0⟩
  | .LK_MAP_TX_MAP => ⟨.LK_MAP_TX, 37, 0, .ro, .pkr, 0x0⟩
  | .LK_MAP_RX_MAP => ⟨.LK_MAP_RX, 37, 0, .ro, .pkr, 0x0⟩
  | .LK_CNT_RETRIES => ⟨.LK_CNT, 15, 0, .rc, .pkr, 0x0⟩
  | .LK_CNT_CRC_ERR => ⟨.LK_CNT, 31, 16, .rc, .pkr, 0x0⟩
  | .LK_CNT_RETRAINS => ⟨.LK_CNT, 47, 32, .rc, .pkr, 0x0⟩
  | .LK_CNT_MISMATCH => ⟨.LK_CNT, 55, 48, .rc, .pkr, 0x0⟩
  | .LK_CNT_SLEEPS => ⟨.LK_CNT, 63, 56, .rc, .pkr, 0x0⟩
  | .LKC_CTL_RETRAIN => ⟨.LKC_CTL, 0, 0, .wo, .die, 0x0⟩
  | .LKC_CTL_SLEEP_EN => ⟨.LKC_CTL, 1, 1, .rw, .die, 0x1⟩
  | .LKC_CTL_SLEEP_IDLE => ⟨.LKC_CTL, 31, 16, .rw, .die, 0x7d0⟩
  | .LKC_CTL_CRC_THRESH => ⟨.LKC_CTL, 47, 32, .rw, .die, 0x10⟩
  | .LKC_STAT_STATE => ⟨.LKC_STAT, 1, 0, .ro, .link, 0x0⟩
  | .LKC_STAT_LEVEL => ⟨.LKC_STAT, 3, 2, .ro, .link, 0x0⟩
  | .LKC_STAT_PEER_KIND => ⟨.LKC_STAT, 5, 4, .ro, .link, 0x0⟩
  | .LKC_STAT_PEER_REV => ⟨.LKC_STAT, 9, 6, .ro, .link, 0x0⟩
  | .LKC_STAT_FEATURES => ⟨.LKC_STAT, 17, 10, .ro, .link, 0x0⟩
  | .LKC_STAT_LAST_CAUSE => ⟨.LKC_STAT, 21, 18, .ro, .link, 0x0⟩
  | .LKC_MAP_TX_MAP => ⟨.LKC_MAP_TX, 37, 0, .ro, .die, 0x0⟩
  | .LKC_MAP_RX_MAP => ⟨.LKC_MAP_RX, 37, 0, .ro, .die, 0x0⟩
  | .LKC_CNT_RETRIES => ⟨.LKC_CNT, 15, 0, .rc, .die, 0x0⟩
  | .LKC_CNT_CRC_ERR => ⟨.LKC_CNT, 31, 16, .rc, .die, 0x0⟩
  | .LKC_CNT_RETRAINS => ⟨.LKC_CNT, 47, 32, .rc, .die, 0x0⟩
  | .LKC_CNT_MISMATCH => ⟨.LKC_CNT, 55, 48, .rc, .die, 0x0⟩
  | .LKC_CNT_SLEEPS => ⟨.LKC_CNT, 63, 56, .rc, .die, 0x0⟩
  | .DK_CTL_FENCE => ⟨.DK_CTL, 0, 0, .rw, .pkr, 0x1⟩
  | .DK_CTL_PQUAR => ⟨.DK_CTL, 1, 1, .rw, .pkr, 0x1⟩
  | .DK_CTL_OUTCAP => ⟨.DK_CTL, 26, 16, .rw, .pkr, 0x100⟩
  | .DK_CTL_RATE => ⟨.DK_CTL, 47, 32, .rw, .pkr, 0x0⟩
  | .DK_CTL_BURST => ⟨.DK_CTL, 63, 48, .rw, .pkr, 0x40⟩
  | .DK_STAT_PQ_TRIP => ⟨.DK_STAT, 0, 0, .w1c, .pkr, 0x0⟩
  | .DK_STAT_OUTSTANDING => ⟨.DK_STAT, 26, 16, .ro, .pkr, 0x0⟩
  | .DK_EPOCH_CURRENT => ⟨.DK_EPOCH, 31, 0, .ro, .pkr, 0x0⟩
  | .DK_EPOCH_OLDEST_LIVE => ⟨.DK_EPOCH, 63, 32, .ro, .pkr, 0x0⟩
  | .DK_CNT_REFUSED => ⟨.DK_CNT, 23, 0, .rc, .pkr, 0x0⟩
  | .DK_CNT_POISON_IN => ⟨.DK_CNT, 39, 24, .rc, .pkr, 0x0⟩
  | .DK_CNT_RATE_HELD => ⟨.DK_CNT, 63, 40, .rc, .pkr, 0x0⟩
  | .DK_BASE_ADDR => ⟨.DK_BASE, 51, 12, .ro, .pkr, 0x0⟩
  | .DK_LIM_ADDR => ⟨.DK_LIM, 51, 12, .ro, .pkr, 0x0⟩
  | .DK_TGT_ADDR => ⟨.DK_TGT, 51, 12, .ro, .pkr, 0x0⟩
  | .DK_ATTR_VALID => ⟨.DK_ATTR, 0, 0, .ro, .pkr, 0x0⟩
  | .DK_ATTR_RD => ⟨.DK_ATTR, 1, 1, .ro, .pkr, 0x0⟩
  | .DK_ATTR_WR => ⟨.DK_ATTR, 2, 2, .ro, .pkr, 0x0⟩
  | .DK_ATTR_PLACE => ⟨.DK_ATTR, 3, 3, .ro, .pkr, 0x0⟩
  | .DK_ATTR_SEC => ⟨.DK_ATTR, 4, 4, .ro, .pkr, 0x0⟩
  | .DK_ATTR_POLDER => ⟨.DK_ATTR, 9, 5, .ro, .pkr, 0x0⟩
  | .DK_STG_VALUE => ⟨.DK_STG, 63, 0, .rw, .pkr, 0x0⟩
  | .DK_DBCFG_EN => ⟨.DK_DBCFG, 0, 0, .rw, .pkr, 0x0⟩
  | .DK_DBCFG_POLDER => ⟨.DK_DBCFG, 5, 1, .rw, .pkr, 0x0⟩
  | .DK_DBCFG_LCPU => ⟨.DK_DBCFG, 15, 8, .rw, .pkr, 0x0⟩
  | .DK_DBCFG_INTID => ⟨.DK_DBCFG, 31, 16, .rw, .pkr, 0x0⟩
  | .GDB_VALUE => ⟨.GDB, 63, 0, .ro, .pkr, 0x0⟩
  | .CS_CTL_PORTS => ⟨.CS_CTL, 3, 0, .ro, .pkr, 0x0⟩
  | .CS_CTL_MASTER_CAP => ⟨.CS_CTL, 4, 4, .ro, .pkr, 0x0⟩
  | .CS_CTL_PROMOTE => ⟨.CS_CTL, 5, 5, .ro, .pkr, 0x0⟩
  | .CS_CTL_PRIORITY => ⟨.CS_CTL, 15, 8, .ro, .pkr, 0x0⟩
  | .CS_CTL_CASCADE_ID => ⟨.CS_CTL, 63, 32, .ro, .pkr, 0x0⟩
  | .CS_TIMING_L_CASCADE => ⟨.CS_TIMING, 31, 0, .ro, .pkr, 0x7d0⟩
  | .CS_TIMING_HOLD_TICKS => ⟨.CS_TIMING, 47, 32, .ro, .pkr, 0x40⟩
  | .CS_TIMING_HOLD_MS => ⟨.CS_TIMING, 63, 48, .ro, .pkr, 0xa⟩
  | .CS_STAT_STATE => ⟨.CS_STAT, 2, 0, .ro, .pkr, 0x0⟩
  | .CS_STAT_INDEX => ⟨.CS_STAT, 6, 3, .ro, .por, 0x0⟩
  | .CS_STAT_MASTER => ⟨.CS_STAT, 10, 7, .ro, .pkr, 0x0⟩
  | .CS_STAT_CONVERGING => ⟨.CS_STAT, 11, 11, .ro, .pkr, 0x0⟩
  | .CS_STAT_LATE_RISK => ⟨.CS_STAT, 12, 12, .ro, .pkr, 0x0⟩
  | .CS_STAT_D_WORST => ⟨.CS_STAT, 31, 16, .ro, .pkr, 0x0⟩
  | .CS_STAT_MEMBERS => ⟨.CS_STAT, 47, 32, .ro, .pkr, 0x0⟩
  | .CS_CNT_HOLDOVERS => ⟨.CS_CNT, 15, 0, .rc, .pkr, 0x0⟩
  | .CS_CNT_RECONCILES => ⟨.CS_CNT, 31, 16, .rc, .pkr, 0x0⟩
  | .CS_CNT_RESENDS => ⟨.CS_CNT, 47, 32, .rc, .pkr, 0x0⟩
  | .CS_CNT_UNREACH => ⟨.CS_CNT, 63, 48, .rc, .pkr, 0x0⟩
  | .CS_PORT_LINK => ⟨.CS_PORT, 0, 0, .ro, .pkr, 0x0⟩
  | .CS_PORT_PEER_OK => ⟨.CS_PORT, 1, 1, .ro, .pkr, 0x0⟩
  | .CS_PORT_PEER => ⟨.CS_PORT, 5, 2, .ro, .pkr, 0x0⟩
  | .CS_PORT_DELAY => ⟨.CS_PORT, 31, 16, .ro, .pkr, 0x0⟩
  | .CS_PORT_ASYM => ⟨.CS_PORT, 47, 32, .rw, .pkr, 0x0⟩
  | .CS_MEM_REACH => ⟨.CS_MEM, 0, 0, .ro, .pkr, 0x0⟩
  | .CS_MEM_MASTER_CAP => ⟨.CS_MEM, 1, 1, .ro, .pkr, 0x0⟩
  | .CS_MEM_PROMOTE => ⟨.CS_MEM, 2, 2, .ro, .pkr, 0x0⟩
  | .CS_MEM_ROLE => ⟨.CS_MEM, 4, 3, .ro, .pkr, 0x0⟩
  | .CS_MEM_PRIORITY => ⟨.CS_MEM, 15, 8, .ro, .pkr, 0x0⟩
  | .CS_MEM_HOPS => ⟨.CS_MEM, 19, 16, .ro, .pkr, 0x0⟩
  | .CS_MEM_SERIAL_LO => ⟨.CS_MEM, 63, 32, .ro, .pkr, 0x0⟩
  | .CS_CHAN_OFS => ⟨.CS_CHAN, 47, 0, .ro, .pkr, 0x0⟩
  | .CS_CHAN_STATE => ⟨.CS_CHAN, 50, 48, .ro, .pkr, 0x0⟩
  | .CS_CHAN_DIR => ⟨.CS_CHAN, 51, 51, .ro, .pkr, 0x0⟩
  | .CS_CHAN_MASTER => ⟨.CS_CHAN, 55, 52, .ro, .pkr, 0x0⟩
  | .CS_CHAN_ENC => ⟨.CS_CHAN, 59, 56, .ro, .pkr, 0x0⟩
  | .CS_CHAN_ENC_EN => ⟨.CS_CHAN, 60, 60, .ro, .pkr, 0x0⟩
  | .CS_CHDIV_FRAC => ⟨.CS_CHDIV, 31, 0, .ro, .pkr, 0x0⟩
  | .CS_CHDIV_N => ⟨.CS_CHDIV, 55, 32, .ro, .pkr, 0x0⟩
  | .CS_TBIND_CHANNEL => ⟨.CS_TBIND, 2, 0, .ro, .pkr, 0x0⟩
  | .CS_TBIND_VALID => ⟨.CS_TBIND, 3, 3, .ro, .pkr, 0x0⟩
  | .CS_WTGT_TGT => ⟨.CS_WTGT, 51, 12, .ro, .pkr, 0x0⟩
  | .CS_WATTR_VALID => ⟨.CS_WATTR, 0, 0, .ro, .pkr, 0x0⟩
  | .CS_WATTR_RD => ⟨.CS_WATTR, 1, 1, .ro, .pkr, 0x0⟩
  | .CS_WATTR_WR => ⟨.CS_WATTR, 2, 2, .ro, .pkr, 0x0⟩
  | .CS_WATTR_POLDER => ⟨.CS_WATTR, 7, 3, .ro, .pkr, 0x0⟩
  | .CS_WATTR_PAGES => ⟨.CS_WATTR, 63, 32, .ro, .pkr, 0x0⟩
  | .CS_STG_WTGT_TGT => ⟨.CS_STG_WTGT, 51, 12, .rw, .pkr, 0x0⟩
  | .CS_STG_WATTR_VALID => ⟨.CS_STG_WATTR, 0, 0, .rw, .pkr, 0x0⟩
  | .CS_STG_WATTR_RD => ⟨.CS_STG_WATTR, 1, 1, .rw, .pkr, 0x0⟩
  | .CS_STG_WATTR_WR => ⟨.CS_STG_WATTR, 2, 2, .rw, .pkr, 0x0⟩
  | .CS_STG_WATTR_POLDER => ⟨.CS_STG_WATTR, 7, 3, .rw, .pkr, 0x0⟩
  | .CS_STG_WATTR_PAGES => ⟨.CS_STG_WATTR, 63, 32, .rw, .pkr, 0x0⟩
  | .CS_WCOMMIT_GO => ⟨.CS_WCOMMIT, 0, 0, .wo, .pkr, 0x0⟩
  | .AG_CTL_PERIOD_MS => ⟨.AG_CTL, 15, 0, .rw, .pkr, 0x3e8⟩
  | .AG_CTL_AG_WARN => ⟨.AG_CTL, 23, 16, .rw, .pkr, 0x28⟩
  | .AG_CTL_AG_RETIRE => ⟨.AG_CTL, 31, 24, .rw, .pkr, 0x14⟩
  | .AG_MARGIN_NOW => ⟨.AG_MARGIN, 7, 0, .ro, .por, 0x0⟩
  | .AG_MARGIN_LOWEST => ⟨.AG_MARGIN, 15, 8, .ro, .por, 0x0⟩
  | .AG_MARGIN_STATE => ⟨.AG_MARGIN, 17, 16, .ro, .pkr, 0x0⟩
  | .AG_MARGIN_BELOW => ⟨.AG_MARGIN, 19, 18, .ro, .por, 0x0⟩
  | .PE_CFG_MODE => ⟨.PE_CFG, 2, 0, .ro, .pkr, 0x0⟩
  | .PE_CFG_MAX_SPEED => ⟨.PE_CFG, 5, 3, .ro, .pkr, 0x0⟩
  | .PE_CFG_BAR2_LOG => ⟨.PE_CFG, 8, 6, .ro, .pkr, 0x0⟩
  | .PE_CFG_SUBSYS => ⟨.PE_CFG, 31, 16, .ro, .pkr, 0x0⟩
  | .PE_STAT_LINK => ⟨.PE_STAT, 1, 0, .ro, .link, 0x0⟩
  | .PE_STAT_SPEED => ⟨.PE_STAT, 4, 2, .ro, .link, 0x0⟩
  | .PE_STAT_WIDTH => ⟨.PE_STAT, 9, 5, .ro, .link, 0x0⟩
  | .PE_STAT_L0P_WIDTH => ⟨.PE_STAT, 14, 10, .ro, .link, 0x0⟩
  | .PE_STAT_FLIT => ⟨.PE_STAT, 15, 15, .ro, .link, 0x0⟩
  | .PE_STAT_D3 => ⟨.PE_STAT, 16, 16, .ro, .link, 0x0⟩
  | .PE_STAT_READY => ⟨.PE_STAT, 17, 17, .ro, .link, 0x0⟩
  | .PE_PM_L1_IDLE => ⟨.PE_PM, 15, 0, .rw, .pkr, 0x32⟩
  | .PE_PM_L0P_EN => ⟨.PE_PM, 16, 16, .rw, .pkr, 0x1⟩
  | .PE_CNT_REFUSED => ⟨.PE_CNT, 23, 0, .rc, .pkr, 0x0⟩
  | .PE_CNT_RRS => ⟨.PE_CNT, 39, 24, .rc, .pkr, 0x0⟩
  | .PE_CNT_L1_ENTRIES => ⟨.PE_CNT, 55, 40, .rc, .pkr, 0x0⟩
  | .PE_CNT_AER_LOST => ⟨.PE_CNT, 63, 56, .rc, .pkr, 0x0⟩
  | .PW_EPOCH_CURRENT => ⟨.PW_EPOCH, 31, 0, .ro, .pkr, 0x0⟩
  | .PW_EPOCH_OLDEST_LIVE => ⟨.PW_EPOCH, 63, 32, .ro, .pkr, 0x0⟩
  | .PW_BASE_ADDR => ⟨.PW_BASE, 51, 12, .ro, .pkr, 0x0⟩
  | .PW_LIM_ADDR => ⟨.PW_LIM, 51, 12, .ro, .pkr, 0x0⟩
  | .PW_TGT_ADDR => ⟨.PW_TGT, 51, 12, .ro, .pkr, 0x0⟩
  | .PW_ATTR_VALID => ⟨.PW_ATTR, 0, 0, .ro, .pkr, 0x0⟩
  | .PW_ATTR_RD => ⟨.PW_ATTR, 1, 1, .ro, .pkr, 0x0⟩
  | .PW_ATTR_WR => ⟨.PW_ATTR, 2, 2, .ro, .pkr, 0x0⟩
  | .PW_ATTR_PLACE => ⟨.PW_ATTR, 3, 3, .ro, .pkr, 0x0⟩
  | .PW_ATTR_SEC => ⟨.PW_ATTR, 4, 4, .ro, .pkr, 0x0⟩
  | .PW_ATTR_POLDER => ⟨.PW_ATTR, 9, 5, .ro, .pkr, 0x0⟩
  | .PW_ATTR_LEVEL => ⟨.PW_ATTR, 10, 10, .ro, .pkr, 0x0⟩
  | .PW_ATTR_PTGT => ⟨.PW_ATTR, 23, 16, .ro, .pkr, 0x0⟩
  | .PW_STG_VALUE => ⟨.PW_STG, 63, 0, .rw, .pkr, 0x0⟩
  | .PM_RAIL_CD_OK => ⟨.PM_RAIL, 11, 0, .ro, .por, 0x0⟩
  | .PM_RAIL_HUB_OK => ⟨.PM_RAIL, 13, 12, .ro, .por, 0x0⟩
  | .PM_RAIL_SHARED_OK => ⟨.PM_RAIL, 17, 14, .ro, .por, 0x0⟩
  | .PM_RAIL_PWRFAIL => ⟨.PM_RAIL, 18, 18, .ro, .por, 0x0⟩
  | .PM_RAIL_PF_SAFE => ⟨.PM_RAIL, 19, 19, .ro, .por, 0x0⟩
  | .PM_RAIL_THERMTRIP => ⟨.PM_RAIL, 20, 20, .ro, .por, 0x0⟩
  | .PM_PKG_STATE => ⟨.PM_PKG, 0, 0, .ro, .pkr, 0x0⟩
  | .PM_PKG_PHASE => ⟨.PM_PKG, 3, 1, .ro, .pkr, 0x1⟩
  | .PM_PKG_CAUSE => ⟨.PM_PKG, 7, 4, .ro, .pkr, 0x0⟩
  | .PM_PKG_TJ_MAX => ⟨.PM_PKG, 15, 8, .ro, .pkr, 0x0⟩
  | .PM_PKG_TDIMM_MAX => ⟨.PM_PKG, 23, 16, .ro, .pkr, 0x0⟩
  | .PM_PKG_P1_ENTRIES => ⟨.PM_PKG, 39, 24, .rc, .pkr, 0x0⟩
  | .PV_VOTE_VOTES => ⟨.PV_VOTE, 31, 0, .ro, .pkr, 0x1⟩
  | .PV_VOTE_SLUICE => ⟨.PV_VOTE, 33, 32, .ro, .pkr, 0x0⟩
  | .PV_VETO_MASK => ⟨.PV_VETO, 31, 0, .rw, .pkr, 0x2⟩
  | .PV_VETO_HOLD => ⟨.PV_VETO, 63, 32, .rw, .pkr, 0x0⟩
  | .PV_STAT_REFUSALS => ⟨.PV_STAT, 15, 0, .rc, .pkr, 0x0⟩
  | .PV_STAT_ABORTS => ⟨.PV_STAT, 31, 16, .rc, .pkr, 0x0⟩
  | .PV_STAT_LAST_REFUSER => ⟨.PV_STAT, 36, 32, .ro, .pkr, 0x0⟩
  | .PV_STAT_DROPS => ⟨.PV_STAT, 63, 48, .rc, .pkr, 0x0⟩
  | .RST_REQ_KIND => ⟨.RST_REQ, 2, 0, .wo, .pkr, 0x0⟩
  | .RST_REQ_TARGET => ⟨.RST_REQ, 31, 16, .wo, .pkr, 0x0⟩
  | .RST_REQ_GO => ⟨.RST_REQ, 32, 32, .wo, .pkr, 0x0⟩
  | .RST_CAUSE_CAUSE => ⟨.RST_CAUSE, 3, 0, .ro, .por, 0x0⟩
  | .RST_CAUSE_PKR_COUNT => ⟨.RST_CAUSE, 47, 32, .ro, .por, 0x0⟩
  | .TS_HUB_TEMP => ⟨.TS_HUB, 7, 0, .ro, .pkr, 0x0⟩
  | .TS_HUB_VALID => ⟨.TS_HUB, 8, 8, .ro, .pkr, 0x0⟩
  | .TS_HUB_MAX => ⟨.TS_HUB, 23, 16, .ro, .pkr, 0x0⟩
  | .DPM_CTL_C2_IDLE => ⟨.DPM_CTL, 15, 0, .rw, .die, 0x64⟩
  | .DPM_CTL_GUARD_MV => ⟨.DPM_CTL, 23, 16, .ro, .die, 0x0⟩
  | .DPM_CTL_VOLT_MV => ⟨.DPM_CTL, 33, 24, .ro, .die, 0x352⟩
  | .TS_DIE_TEMP => ⟨.TS_DIE, 7, 0, .ro, .die, 0x0⟩
  | .TS_DIE_VALID => ⟨.TS_DIE, 8, 8, .ro, .die, 0x0⟩
  | .TS_DIE_MAX => ⟨.TS_DIE, 23, 16, .ro, .die, 0x0⟩
  | .CB_OWN_EN => ⟨.CB_OWN, 0, 0, .rw, .pkr, 0x0⟩
  | .CB_OWN_OWNER => ⟨.CB_OWN, 5, 1, .rw, .pkr, 0x0⟩
  | .CB_SEL_EVENT => ⟨.CB_SEL, 11, 0, .rw, .pkr, 0x0⟩
  | .CB_SEL_UNIT => ⟨.CB_SEL, 19, 12, .rw, .pkr, 0xff⟩
  | .CB_CNT_VALUE => ⟨.CB_CNT, 47, 0, .rw, .pkr, 0x0⟩
  | .CBD_OWN_EN => ⟨.CBD_OWN, 0, 0, .rw, .die, 0x0⟩
  | .CBD_OWN_OWNER => ⟨.CBD_OWN, 5, 1, .rw, .die, 0x0⟩
  | .CBD_SEL_EVENT => ⟨.CBD_SEL, 11, 0, .rw, .die, 0x0⟩
  | .CBD_SEL_UNIT => ⟨.CBD_SEL, 19, 12, .rw, .die, 0xff⟩
  | .CBD_CNT_VALUE => ⟨.CBD_CNT, 47, 0, .rw, .die, 0x0⟩
  | .CNT_DUMP_K => ⟨.CNT_DUMP, 15, 0, .rw, .pkr, 0x0⟩
  | .CNT_DUMP_SLOTS => ⟨.CNT_DUMP, 31, 16, .ro, .pkr, 0x0⟩
  | .CNT_DUMP_SKIPPED => ⟨.CNT_DUMP, 47, 32, .rc, .pkr, 0x0⟩
  | .REC_CTL_FREEZE => ⟨.REC_CTL, 0, 0, .rw, .por, 0x0⟩
  | .REC_CTL_MODE => ⟨.REC_CTL, 1, 1, .rw, .por, 0x1⟩
  | .REC_CTL_AUTO_EXPORT => ⟨.REC_CTL, 2, 2, .rw, .por, 0x1⟩
  | .REC_CTL_CLEAR => ⟨.REC_CTL, 3, 3, .wo, .por, 0x0⟩
  | .REC_CTL_FREEZE_MAX => ⟨.REC_CTL, 31, 16, .rw, .por, 0x64⟩
  | .REC_STAT_NEXT => ⟨.REC_STAT, 31, 0, .ro, .por, 0x0⟩
  | .REC_STAT_OLDEST => ⟨.REC_STAT, 63, 32, .ro, .por, 0x0⟩
  | .REC_DROP_DROPPED => ⟨.REC_DROP, 31, 0, .rc, .por, 0x0⟩
  | .REC_DROP_STAGED => ⟨.REC_DROP, 38, 32, .ro, .por, 0x0⟩
  | .REC_DROP_FULL => ⟨.REC_DROP, 39, 39, .ro, .por, 0x0⟩
  | .REC_DROP_FROZEN => ⟨.REC_DROP, 40, 40, .ro, .por, 0x0⟩
  | .REC_CURSOR_SEQ => ⟨.REC_CURSOR, 31, 0, .rw, .por, 0x0⟩
  | .REC_CURSOR_PARTNER => ⟨.REC_CURSOR, 32, 32, .rw, .por, 0x0⟩
  | .REC_WINDOW_WORD => ⟨.REC_WINDOW, 63, 0, .ro, .por, 0x0⟩
  | .RV_CTL_FREEZE => ⟨.RV_CTL, 0, 0, .rw, .por, 0x0⟩
  | .RV_STAT_NEXT => ⟨.RV_STAT, 31, 0, .ro, .por, 0x0⟩
  | .RV_STAT_DROPPED => ⟨.RV_STAT, 47, 32, .rc, .por, 0x0⟩
  | .RV_STAT_BUSY => ⟨.RV_STAT, 48, 48, .ro, .por, 0x0⟩
  | .RV_CURSOR_VSEQ => ⟨.RV_CURSOR, 31, 0, .rw, .por, 0x0⟩
  | .RV_WINDOW_WORD => ⟨.RV_WINDOW, 63, 0, .ro, .por, 0x0⟩
  | .MC_CFG_DPC => ⟨.MC_CFG, 1, 0, .ro, .pkr, 0x0⟩
  | .MC_CFG_RANKS => ⟨.MC_CFG, 3, 2, .ro, .pkr, 0x0⟩
  | .MC_CFG_DENSITY => ⟨.MC_CFG, 4, 4, .ro, .pkr, 0x0⟩
  | .MC_CFG_SPEED => ⟨.MC_CFG, 15, 8, .ro, .pkr, 0x0⟩
  | .MC_CFG_TRFCSB => ⟨.MC_CFG, 31, 16, .ro, .pkr, 0x0⟩
  | .MC_CFG_TREFI => ⟨.MC_CFG, 47, 32, .ro, .pkr, 0x0⟩
  | .MC_CTL_PAUSE_MIRROR => ⟨.MC_CTL, 0, 0, .rw, .pkr, 0x1⟩
  | .MC_CTL_WQ_HI => ⟨.MC_CTL, 15, 8, .rw, .pkr, 0x60⟩
  | .MC_CTL_WQ_LO => ⟨.MC_CTL, 23, 16, .rw, .pkr, 0x20⟩
  | .MC_CTL_PAGE_IDLE => ⟨.MC_CTL, 31, 24, .rw, .pkr, 0x40⟩
  | .MC_CTL_RESYNC_BW => ⟨.MC_CTL, 47, 32, .rw, .pkr, 0x64⟩
  | .MC_STAT_STATE => ⟨.MC_STAT, 2, 0, .ro, .pkr, 0x0⟩
  | .MC_STAT_RESYNC_PCT => ⟨.MC_STAT, 14, 8, .ro, .pkr, 0x0⟩
  | .MC_STAT_REDIRECTS => ⟨.MC_STAT, 22, 16, .ro, .pkr, 0x0⟩
  | .MC_REF_FORCED => ⟨.MC_REF, 31, 0, .rc, .pkr, 0x0⟩
  | .MC_REF_DEBT_PEAK => ⟨.MC_REF, 34, 32, .rc, .pkr, 0x0⟩
  | .MC_REF_HOT => ⟨.MC_REF, 35, 35, .ro, .pkr, 0x0⟩
  | .MC_RT_SOFT_PS => ⟨.MC_RT, 7, 0, .rw, .pkr, 0xc⟩
  | .MC_RT_HARD_PS => ⟨.MC_RT, 15, 8, .rw, .pkr, 0x19⟩
  | .MC_RT_OSC_US => ⟨.MC_RT, 31, 16, .rw, .pkr, 0x64⟩
  | .MC_RT_RT_WAIT_US => ⟨.MC_RT, 47, 32, .rw, .pkr, 0x2710⟩
  | .MC_RTSTAT_IN_SLACK => ⟨.MC_RTSTAT, 15, 0, .rc, .pkr, 0x0⟩
  | .MC_RTSTAT_IDLE => ⟨.MC_RTSTAT, 31, 16, .rc, .pkr, 0x0⟩
  | .MC_RTSTAT_FORCED => ⟨.MC_RTSTAT, 47, 32, .rc, .pkr, 0x0⟩
  | .MC_RTSTAT_LAST_DRIFT => ⟨.MC_RTSTAT, 55, 48, .ro, .pkr, 0x0⟩
  | .MC_ERR_CE => ⟨.MC_ERR, 23, 0, .rc, .pkr, 0x0⟩
  | .MC_ERR_UE => ⟨.MC_ERR, 35, 24, .rc, .pkr, 0x0⟩
  | .MC_ERR_MIRROR_FIX => ⟨.MC_ERR, 47, 36, .rc, .pkr, 0x0⟩
  | .MC_ERR_POISON_READ => ⟨.MC_ERR, 59, 48, .rc, .pkr, 0x0⟩
  | .MC_ECC_ROW_THRESH => ⟨.MC_ECC, 15, 0, .rw, .pkr, 0x10⟩
  | .MC_ECC_WINDOW_S => ⟨.MC_ECC, 31, 16, .rw, .pkr, 0xe10⟩
  | .MC_ECC_SPPR_DONE => ⟨.MC_ECC, 39, 32, .ro, .pkr, 0x0⟩
  | .MC_SCRUB_PERIOD_H => ⟨.MC_SCRUB, 15, 0, .rw, .pkr, 0x18⟩
  | .MC_SCRUB_EN => ⟨.MC_SCRUB, 16, 16, .rw, .pkr, 0x1⟩
  | .MC_SCRUB_PASSES => ⟨.MC_SCRUB, 47, 32, .rc, .pkr, 0x0⟩

/-- The named fields of each register, in rising bit order. -/
def Reg.fields : Reg → List Fld
  | .PKG_ID => [.PKG_ID_DEVICE, .PKG_ID_GRADE, .PKG_ID_SPEED, .PKG_ID_HUB_REV, .PKG_ID_GUARDED]
  | .CD_REV => [.CD_REV_CD0_REV, .CD_REV_CD1_REV, .CD_REV_CD2_REV, .CD_REV_CD3_REV, .CD_REV_CD4_REV, .CD_REV_CD5_REV, .CD_REV_CD6_REV, .CD_REV_CD7_REV, .CD_REV_CD8_REV, .CD_REV_CD9_REV, .CD_REV_CD10_REV, .CD_REV_CD11_REV]
  | .CP_ROLE => [.CP_ROLE_ACTIVE, .CP_ROLE_STANDBY_READY, .CP_ROLE_LAST_CAUSE, .CP_ROLE_TAKEOVERS]
  | .MEM_WEIR => [.MEM_WEIR_W1, .MEM_WEIR_W2, .MEM_WEIR_W3]
  | .MEM_SIZE => [.MEM_SIZE_BLOCKS]
  | .MEM_TGT => [.MEM_TGT_T0, .MEM_TGT_T1, .MEM_TGT_T2, .MEM_TGT_T3]
  | .BM_CORES => [.BM_CORES_CD0, .BM_CORES_CD1, .BM_CORES_CD2, .BM_CORES_CD3, .BM_CORES_CD4, .BM_CORES_CD5, .BM_CORES_CD6, .BM_CORES_CD7, .BM_CORES_CD8, .BM_CORES_CD9, .BM_CORES_CD10, .BM_CORES_CD11, .BM_CORES_PROFILE]
  | .REF_STAT => [.REF_STAT_GOOD_H0, .REF_STAT_SEL_H0, .REF_STAT_GOOD_H1, .REF_STAT_SEL_H1, .REF_STAT_SWITCHES]
  | .CP_INFO => [.CP_INFO_MAXDEPTH, .CP_INFO_MAXQID, .CP_INFO_VERSION]
  | .QRB_CTL => [.QRB_CTL_EN, .QRB_CTL_ASQ_SIZE, .QRB_CTL_ACQ_SIZE]
  | .QRB_STAT => [.QRB_STAT_RDY, .QRB_STAT_DB_ERR, .QRB_STAT_TAKEOVER, .QRB_STAT_FATAL]
  | .ASQ_BASE => [.ASQ_BASE_BASE]
  | .ACQ_BASE => [.ACQ_BASE_BASE]
  | .SQ_DB => [.SQ_DB_VALUE]
  | .CQ_DB => [.CQ_DB_VALUE]
  | .CUT_REL => [.CUT_REL_TICK]
  | .CUT_REL_ALL => [.CUT_REL_ALL_TICK]
  | .CS_SQTAIL => [.CS_SQTAIL_VALUE]
  | .RGN_LO => [.RGN_LO_VALID, .RGN_LO_WORLD, .RGN_LO_TYPE, .RGN_LO_IDEMP, .RGN_LO_BASE]
  | .RGN_HI => [.RGN_HI_LIMIT]
  | .RGN_RD => [.RGN_RD_MASK]
  | .RGN_WR => [.RGN_WR_MASK]
  | .RGN_STAGE_LO => [.RGN_STAGE_LO_VALUE]
  | .RGN_STAGE_HI => [.RGN_STAGE_HI_VALUE]
  | .RGN_STAGE_RD => [.RGN_STAGE_RD_VALUE]
  | .RGN_STAGE_WR => [.RGN_STAGE_WR_VALUE]
  | .RGN_COMMIT => [.RGN_COMMIT_INDEX, .RGN_COMMIT_GO]
  | .WORLD_ATTR => [.WORLD_ATTR_PCIE_SEC, .WORLD_ATTR_CASC_SEC, .WORLD_ATTR_GUEST_SEC, .WORLD_ATTR_SIDEBAND_TRUSTED]
  | .RGN_VIOL => [.RGN_VIOL_COUNT]
  | .PT_NOW => [.PT_NOW_TIME]
  | .PT_CTL => [.PT_CTL_SRC, .PT_CTL_PPS_HALF, .PT_CTL_SLEW_MAX]
  | .PT_FREQ => [.PT_FREQ_VALUE]
  | .PT_PHASE => [.PT_PHASE_VALUE]
  | .PT_STEP => [.PT_STEP_VALUE]
  | .PT_PPS => [.PT_PPS_STAMP]
  | .PT_STAT => [.PT_STAT_SRC_OK, .PT_STAT_HOLDOVER, .PT_STAT_SLEWING, .PT_STAT_STEP_REFUSED]
  | .ENC_CFG => [.ENC_CFG_EN, .ENC_CFG_MODE, .ENC_CFG_ZCHK, .ENC_CFG_FILT, .ENC_CFG_TOL, .ENC_CFG_ZPERIOD]
  | .ENC_POS => [.ENC_POS_POS]
  | .ENC_STAT => [.ENC_STAT_ILLEGAL, .ENC_STAT_LOS, .ENC_STAT_ZERR, .ENC_STAT_OVERSPEED, .ENC_STAT_PAIR_FAULT, .ENC_STAT_FAILED, .ENC_STAT_ILLEGAL_CNT]
  | .TRIG_CFG => [.TRIG_CFG_POL, .TRIG_CFG_LATE, .TRIG_CFG_WIDTH]
  | .TRIG_STAT => [.TRIG_STAT_ARMED, .TRIG_STAT_DEPTH]
  | .TRIG_CNT => [.TRIG_CNT_FIRED, .TRIG_CNT_LATE_DROP, .TRIG_CNT_LATE_FIRED, .TRIG_CNT_DISARM_DROP, .TRIG_CNT_OVF]
  | .SLACK_CTL => [.SLACK_CTL_MIN_NS, .SLACK_CTL_GUARD_NS]
  | .TE_STAT => [.TE_STAT_PARTNER, .TE_STAT_ROLE_CHANGES, .TE_STAT_MISMATCH, .TE_STAT_BACKUP]
  | .TK_CFG => [.TK_CFG_WORD]
  | .TK_CTL => [.TK_CTL_HOST_TICK, .TK_CTL_RESUME, .TK_CTL_PREF]
  | .TK_NOW => [.TK_NOW_NUM, .TK_NOW_STATE]
  | .TK_EDGE => [.TK_EDGE_PTIME]
  | .TK_EVT => [.TK_EVT_OVERRUN, .TK_EVT_SKIP, .TK_EVT_LATE, .TK_EVT_EARLY]
  | .GD_CTL => [.GD_CTL_DEFER_LIMIT, .GD_CTL_CATCHUP]
  | .GD_STAT => [.GD_STAT_TOKEN_HELD, .GD_STAT_TOKEN_CPU, .GD_STAT_RECOVERING, .GD_STAT_VACANT, .GD_STAT_LAST_CAUSE]
  | .GD_CNT0 => [.GD_CNT0_ABORT_SNOOP, .GD_CNT0_ABORT_ERR, .GD_CNT0_RERUN_FAULT, .GD_CNT0_TICKABORT]
  | .GD_CNT1 => [.GD_CNT1_WAY_OVF, .GD_CNT1_DQ_OVF, .GD_CNT1_DEV_READ, .GD_CNT1_TOKEN, .GD_CNT1_CATCHUP_FAIL]
  | .L2_CTL => [.L2_CTL_EN, .L2_CTL_PF]
  | .L2_STAT => [.L2_STAT_EN_STATUS, .L2_STAT_SWEEP, .L2_STAT_REFUSED, .L2_STAT_LOCKED, .L2_STAT_RETIRED]
  | .L2_ECC => [.L2_ECC_ECC_THRESH, .L2_ECC_ECC_WINDOW, .L2_ECC_CE_CNT, .L2_ECC_UE_CNT, .L2_ECC_LAST_WAY]
  | .L2_CNT => [.L2_CNT_LOCK_LOST, .L2_CNT_PUSH_DROP]
  | .DC_CTL => [.DC_CTL_EN, .DC_CTL_ECC_THRESH, .DC_CTL_ECC_WINDOW]
  | .DC_STAT => [.DC_STAT_EN_STATUS, .DC_STAT_SWEEP, .DC_STAT_REFUSED]
  | .DC_CNT => [.DC_CNT_PUSH_DROP, .DC_CNT_LOCK_VICTIM]
  | .DC_MAINT => [.DC_MAINT_OP, .DC_MAINT_SLICE, .DC_MAINT_SET, .DC_MAINT_WAY, .DC_MAINT_GO, .DC_MAINT_BUSY]
  | .DC_SLICE => [.DC_SLICE_RETIRED, .DC_SLICE_SPARE_USED, .DC_SLICE_CE_CNT, .DC_SLICE_UE_CNT]
  | .DIR_CTL => [.DIR_CTL_HOLD_WINDOW, .DIR_CTL_NACK_RETRY]
  | .DIR_STAT => [.DIR_STAT_HOMES, .DIR_STAT_SPINE_DOWN, .DIR_STAT_PARTNER_LOST, .DIR_STAT_PATHS]
  | .DIR_CNT0 => [.DIR_CNT0_RECALLS, .DIR_CNT0_INVALS]
  | .DIR_CNT1 => [.DIR_CNT1_NACKS, .DIR_CNT1_HOLD_WAITS, .DIR_CNT1_DIR_EVICTS, .DIR_CNT1_HINT_DROP]
  | .CEN_STAT => [.CEN_STAT_LINES, .CEN_STAT_DROPPED, .CEN_STAT_BCAST, .CEN_STAT_DURATION]
  | .DIR_BANK => [.DIR_BANK_TRK, .DIR_BANK_WAIT, .DIR_BANK_WAIT_MAX, .DIR_BANK_SPARE, .DIR_BANK_RETIRED]
  | .HP_CFG => [.HP_CFG_MODE, .HP_CFG_AN_EN, .HP_CFG_SUB_EN]
  | .HP_STAT => [.HP_STAT_LINK, .HP_STAT_RATE]
  | .HP_CNT => [.HP_CNT_FCS_ERR, .HP_CNT_FEC_UNCORR, .HP_CNT_FOREIGN, .HP_CNT_LINK_DOWN]
  | .HP_ADDR => [.HP_ADDR_IPV4, .HP_ADDR_PREFIX, .HP_ADDR_VID]
  | .PTP_CFG => [.PTP_CFG_DOMAIN, .PTP_CFG_PRIO1, .PTP_CFG_PRIO2, .PTP_CFG_LOG_SYNC, .PTP_CFG_ONE_STEP, .PTP_CFG_SLAVE, .PTP_CFG_SLAVE_EN]
  | .PTP_EPOCH => [.PTP_EPOCH_OFFSET]
  | .STR_BIND => [.STR_BIND_WORD]
  | .STR_STAT => [.STR_STAT_STATE, .STR_STAT_LEAD, .STR_STAT_PAIR_LIVE, .STR_STAT_FULL, .STR_STAT_LAST_CUT]
  | .STR_POS => [.STR_POS_NEXT, .STR_POS_HELD]
  | .STR_CNT0 => [.STR_CNT0_LINES, .STR_CNT0_INCOMPLETE, .STR_CNT0_LATE]
  | .STR_CNT1 => [.STR_CNT1_DROP, .STR_CNT1_DUP_PKT, .STR_CNT1_FOREIGN_PKT]
  | .LK_CTL => [.LK_CTL_RETRAIN, .LK_CTL_SLEEP_EN, .LK_CTL_SLEEP_IDLE, .LK_CTL_CRC_THRESH]
  | .LK_STAT => [.LK_STAT_STATE, .LK_STAT_LEVEL, .LK_STAT_PEER_KIND, .LK_STAT_PEER_REV, .LK_STAT_FEATURES, .LK_STAT_LAST_CAUSE]
  | .LK_MAP_TX => [.LK_MAP_TX_MAP]
  | .LK_MAP_RX => [.LK_MAP_RX_MAP]
  | .LK_CNT => [.LK_CNT_RETRIES, .LK_CNT_CRC_ERR, .LK_CNT_RETRAINS, .LK_CNT_MISMATCH, .LK_CNT_SLEEPS]
  | .LKC_CTL => [.LKC_CTL_RETRAIN, .LKC_CTL_SLEEP_EN, .LKC_CTL_SLEEP_IDLE, .LKC_CTL_CRC_THRESH]
  | .LKC_STAT => [.LKC_STAT_STATE, .LKC_STAT_LEVEL, .LKC_STAT_PEER_KIND, .LKC_STAT_PEER_REV, .LKC_STAT_FEATURES, .LKC_STAT_LAST_CAUSE]
  | .LKC_MAP_TX => [.LKC_MAP_TX_MAP]
  | .LKC_MAP_RX => [.LKC_MAP_RX_MAP]
  | .LKC_CNT => [.LKC_CNT_RETRIES, .LKC_CNT_CRC_ERR, .LKC_CNT_RETRAINS, .LKC_CNT_MISMATCH, .LKC_CNT_SLEEPS]
  | .DK_CTL => [.DK_CTL_FENCE, .DK_CTL_PQUAR, .DK_CTL_OUTCAP, .DK_CTL_RATE, .DK_CTL_BURST]
  | .DK_STAT => [.DK_STAT_PQ_TRIP, .DK_STAT_OUTSTANDING]
  | .DK_EPOCH => [.DK_EPOCH_CURRENT, .DK_EPOCH_OLDEST_LIVE]
  | .DK_CNT => [.DK_CNT_REFUSED, .DK_CNT_POISON_IN, .DK_CNT_RATE_HELD]
  | .DK_BASE => [.DK_BASE_ADDR]
  | .DK_LIM => [.DK_LIM_ADDR]
  | .DK_TGT => [.DK_TGT_ADDR]
  | .DK_ATTR => [.DK_ATTR_VALID, .DK_ATTR_RD, .DK_ATTR_WR, .DK_ATTR_PLACE, .DK_ATTR_SEC, .DK_ATTR_POLDER]
  | .DK_STG => [.DK_STG_VALUE]
  | .DK_DBCFG => [.DK_DBCFG_EN, .DK_DBCFG_POLDER, .DK_DBCFG_LCPU, .DK_DBCFG_INTID]
  | .GDB => [.GDB_VALUE]
  | .CS_CTL => [.CS_CTL_PORTS, .CS_CTL_MASTER_CAP, .CS_CTL_PROMOTE, .CS_CTL_PRIORITY, .CS_CTL_CASCADE_ID]
  | .CS_TIMING => [.CS_TIMING_L_CASCADE, .CS_TIMING_HOLD_TICKS, .CS_TIMING_HOLD_MS]
  | .CS_STAT => [.CS_STAT_STATE, .CS_STAT_INDEX, .CS_STAT_MASTER, .CS_STAT_CONVERGING, .CS_STAT_LATE_RISK, .CS_STAT_D_WORST, .CS_STAT_MEMBERS]
  | .CS_CNT => [.CS_CNT_HOLDOVERS, .CS_CNT_RECONCILES, .CS_CNT_RESENDS, .CS_CNT_UNREACH]
  | .CS_PORT => [.CS_PORT_LINK, .CS_PORT_PEER_OK, .CS_PORT_PEER, .CS_PORT_DELAY, .CS_PORT_ASYM]
  | .CS_MEM => [.CS_MEM_REACH, .CS_MEM_MASTER_CAP, .CS_MEM_PROMOTE, .CS_MEM_ROLE, .CS_MEM_PRIORITY, .CS_MEM_HOPS, .CS_MEM_SERIAL_LO]
  | .CS_CHAN => [.CS_CHAN_OFS, .CS_CHAN_STATE, .CS_CHAN_DIR, .CS_CHAN_MASTER, .CS_CHAN_ENC, .CS_CHAN_ENC_EN]
  | .CS_CHDIV => [.CS_CHDIV_FRAC, .CS_CHDIV_N]
  | .CS_TBIND => [.CS_TBIND_CHANNEL, .CS_TBIND_VALID]
  | .CS_WTGT => [.CS_WTGT_TGT]
  | .CS_WATTR => [.CS_WATTR_VALID, .CS_WATTR_RD, .CS_WATTR_WR, .CS_WATTR_POLDER, .CS_WATTR_PAGES]
  | .CS_STG_WTGT => [.CS_STG_WTGT_TGT]
  | .CS_STG_WATTR => [.CS_STG_WATTR_VALID, .CS_STG_WATTR_RD, .CS_STG_WATTR_WR, .CS_STG_WATTR_POLDER, .CS_STG_WATTR_PAGES]
  | .CS_WCOMMIT => [.CS_WCOMMIT_GO]
  | .AG_CTL => [.AG_CTL_PERIOD_MS, .AG_CTL_AG_WARN, .AG_CTL_AG_RETIRE]
  | .AG_MARGIN => [.AG_MARGIN_NOW, .AG_MARGIN_LOWEST, .AG_MARGIN_STATE, .AG_MARGIN_BELOW]
  | .PE_CFG => [.PE_CFG_MODE, .PE_CFG_MAX_SPEED, .PE_CFG_BAR2_LOG, .PE_CFG_SUBSYS]
  | .PE_STAT => [.PE_STAT_LINK, .PE_STAT_SPEED, .PE_STAT_WIDTH, .PE_STAT_L0P_WIDTH, .PE_STAT_FLIT, .PE_STAT_D3, .PE_STAT_READY]
  | .PE_PM => [.PE_PM_L1_IDLE, .PE_PM_L0P_EN]
  | .PE_CNT => [.PE_CNT_REFUSED, .PE_CNT_RRS, .PE_CNT_L1_ENTRIES, .PE_CNT_AER_LOST]
  | .PW_EPOCH => [.PW_EPOCH_CURRENT, .PW_EPOCH_OLDEST_LIVE]
  | .PW_BASE => [.PW_BASE_ADDR]
  | .PW_LIM => [.PW_LIM_ADDR]
  | .PW_TGT => [.PW_TGT_ADDR]
  | .PW_ATTR => [.PW_ATTR_VALID, .PW_ATTR_RD, .PW_ATTR_WR, .PW_ATTR_PLACE, .PW_ATTR_SEC, .PW_ATTR_POLDER, .PW_ATTR_LEVEL, .PW_ATTR_PTGT]
  | .PW_STG => [.PW_STG_VALUE]
  | .PM_RAIL => [.PM_RAIL_CD_OK, .PM_RAIL_HUB_OK, .PM_RAIL_SHARED_OK, .PM_RAIL_PWRFAIL, .PM_RAIL_PF_SAFE, .PM_RAIL_THERMTRIP]
  | .PM_PKG => [.PM_PKG_STATE, .PM_PKG_PHASE, .PM_PKG_CAUSE, .PM_PKG_TJ_MAX, .PM_PKG_TDIMM_MAX, .PM_PKG_P1_ENTRIES]
  | .PV_VOTE => [.PV_VOTE_VOTES, .PV_VOTE_SLUICE]
  | .PV_VETO => [.PV_VETO_MASK, .PV_VETO_HOLD]
  | .PV_STAT => [.PV_STAT_REFUSALS, .PV_STAT_ABORTS, .PV_STAT_LAST_REFUSER, .PV_STAT_DROPS]
  | .RST_REQ => [.RST_REQ_KIND, .RST_REQ_TARGET, .RST_REQ_GO]
  | .RST_CAUSE => [.RST_CAUSE_CAUSE, .RST_CAUSE_PKR_COUNT]
  | .TS_HUB => [.TS_HUB_TEMP, .TS_HUB_VALID, .TS_HUB_MAX]
  | .DPM_CTL => [.DPM_CTL_C2_IDLE, .DPM_CTL_GUARD_MV, .DPM_CTL_VOLT_MV]
  | .TS_DIE => [.TS_DIE_TEMP, .TS_DIE_VALID, .TS_DIE_MAX]
  | .CB_OWN => [.CB_OWN_EN, .CB_OWN_OWNER]
  | .CB_SEL => [.CB_SEL_EVENT, .CB_SEL_UNIT]
  | .CB_CNT => [.CB_CNT_VALUE]
  | .CBD_OWN => [.CBD_OWN_EN, .CBD_OWN_OWNER]
  | .CBD_SEL => [.CBD_SEL_EVENT, .CBD_SEL_UNIT]
  | .CBD_CNT => [.CBD_CNT_VALUE]
  | .CNT_DUMP => [.CNT_DUMP_K, .CNT_DUMP_SLOTS, .CNT_DUMP_SKIPPED]
  | .REC_CTL => [.REC_CTL_FREEZE, .REC_CTL_MODE, .REC_CTL_AUTO_EXPORT, .REC_CTL_CLEAR, .REC_CTL_FREEZE_MAX]
  | .REC_STAT => [.REC_STAT_NEXT, .REC_STAT_OLDEST]
  | .REC_DROP => [.REC_DROP_DROPPED, .REC_DROP_STAGED, .REC_DROP_FULL, .REC_DROP_FROZEN]
  | .REC_CURSOR => [.REC_CURSOR_SEQ, .REC_CURSOR_PARTNER]
  | .REC_WINDOW => [.REC_WINDOW_WORD]
  | .RV_CTL => [.RV_CTL_FREEZE]
  | .RV_STAT => [.RV_STAT_NEXT, .RV_STAT_DROPPED, .RV_STAT_BUSY]
  | .RV_CURSOR => [.RV_CURSOR_VSEQ]
  | .RV_WINDOW => [.RV_WINDOW_WORD]
  | .MC_CFG => [.MC_CFG_DPC, .MC_CFG_RANKS, .MC_CFG_DENSITY, .MC_CFG_SPEED, .MC_CFG_TRFCSB, .MC_CFG_TREFI]
  | .MC_CTL => [.MC_CTL_PAUSE_MIRROR, .MC_CTL_WQ_HI, .MC_CTL_WQ_LO, .MC_CTL_PAGE_IDLE, .MC_CTL_RESYNC_BW]
  | .MC_STAT => [.MC_STAT_STATE, .MC_STAT_RESYNC_PCT, .MC_STAT_REDIRECTS]
  | .MC_REF => [.MC_REF_FORCED, .MC_REF_DEBT_PEAK, .MC_REF_HOT]
  | .MC_RT => [.MC_RT_SOFT_PS, .MC_RT_HARD_PS, .MC_RT_OSC_US, .MC_RT_RT_WAIT_US]
  | .MC_RTSTAT => [.MC_RTSTAT_IN_SLACK, .MC_RTSTAT_IDLE, .MC_RTSTAT_FORCED, .MC_RTSTAT_LAST_DRIFT]
  | .MC_ERR => [.MC_ERR_CE, .MC_ERR_UE, .MC_ERR_MIRROR_FIX, .MC_ERR_POISON_READ]
  | .MC_ECC => [.MC_ECC_ROW_THRESH, .MC_ECC_WINDOW_S, .MC_ECC_SPPR_DONE]
  | .MC_SCRUB => [.MC_SCRUB_PERIOD_H, .MC_SCRUB_EN, .MC_SCRUB_PASSES]

/-- Every register, in the order of the headings. -/
def Reg.all : List Reg :=
  ([.PKG_ID, .CD_REV, .CP_ROLE, .MEM_WEIR, .MEM_SIZE, .MEM_TGT, .BM_CORES, .REF_STAT, .CP_INFO, .QRB_CTL, .QRB_STAT, .ASQ_BASE] : List Reg)
  ++ ([.ACQ_BASE, .SQ_DB, .CQ_DB, .CUT_REL, .CUT_REL_ALL, .CS_SQTAIL, .RGN_LO, .RGN_HI, .RGN_RD, .RGN_WR, .RGN_STAGE_LO, .RGN_STAGE_HI] : List Reg)
  ++ ([.RGN_STAGE_RD, .RGN_STAGE_WR, .RGN_COMMIT, .WORLD_ATTR, .RGN_VIOL, .PT_NOW, .PT_CTL, .PT_FREQ, .PT_PHASE, .PT_STEP, .PT_PPS, .PT_STAT] : List Reg)
  ++ ([.ENC_CFG, .ENC_POS, .ENC_STAT, .TRIG_CFG, .TRIG_STAT, .TRIG_CNT, .SLACK_CTL, .TE_STAT, .TK_CFG, .TK_CTL, .TK_NOW, .TK_EDGE] : List Reg)
  ++ ([.TK_EVT, .GD_CTL, .GD_STAT, .GD_CNT0, .GD_CNT1, .L2_CTL, .L2_STAT, .L2_ECC, .L2_CNT, .DC_CTL, .DC_STAT, .DC_CNT] : List Reg)
  ++ ([.DC_MAINT, .DC_SLICE, .DIR_CTL, .DIR_STAT, .DIR_CNT0, .DIR_CNT1, .CEN_STAT, .DIR_BANK, .HP_CFG, .HP_STAT, .HP_CNT, .HP_ADDR] : List Reg)
  ++ ([.PTP_CFG, .PTP_EPOCH, .STR_BIND, .STR_STAT, .STR_POS, .STR_CNT0, .STR_CNT1, .LK_CTL, .LK_STAT, .LK_MAP_TX, .LK_MAP_RX, .LK_CNT] : List Reg)
  ++ ([.LKC_CTL, .LKC_STAT, .LKC_MAP_TX, .LKC_MAP_RX, .LKC_CNT, .DK_CTL, .DK_STAT, .DK_EPOCH, .DK_CNT, .DK_BASE, .DK_LIM, .DK_TGT] : List Reg)
  ++ ([.DK_ATTR, .DK_STG, .DK_DBCFG, .GDB, .CS_CTL, .CS_TIMING, .CS_STAT, .CS_CNT, .CS_PORT, .CS_MEM, .CS_CHAN, .CS_CHDIV] : List Reg)
  ++ ([.CS_TBIND, .CS_WTGT, .CS_WATTR, .CS_STG_WTGT, .CS_STG_WATTR, .CS_WCOMMIT, .AG_CTL, .AG_MARGIN, .PE_CFG, .PE_STAT, .PE_PM, .PE_CNT] : List Reg)
  ++ ([.PW_EPOCH, .PW_BASE, .PW_LIM, .PW_TGT, .PW_ATTR, .PW_STG, .PM_RAIL, .PM_PKG, .PV_VOTE, .PV_VETO, .PV_STAT, .RST_REQ] : List Reg)
  ++ ([.RST_CAUSE, .TS_HUB, .DPM_CTL, .TS_DIE, .CB_OWN, .CB_SEL, .CB_CNT, .CBD_OWN, .CBD_SEL, .CBD_CNT, .CNT_DUMP, .REC_CTL] : List Reg)
  ++ ([.REC_STAT, .REC_DROP, .REC_CURSOR, .REC_WINDOW, .RV_CTL, .RV_STAT, .RV_CURSOR, .RV_WINDOW, .MC_CFG, .MC_CTL, .MC_STAT, .MC_REF] : List Reg)
  ++ ([.MC_RT, .MC_RTSTAT, .MC_ERR, .MC_ECC, .MC_SCRUB] : List Reg)

end Sys2Proof.Machine
end

