-- ==== Sys2Proof/Machine/State.lean ====
section
/-! DEFINITION. The state of the DX-240 as plain data: every register, queue, buffer, counter, mode and pin the spec
gives the package, and the queue of commands that wait. -/
namespace Sys2Proof.Machine

/-- Why a step stops with a fault. -/
inductive Fault where
  /-- The command names a form the spec gives no effect. Safe: the machine stops where the hardware might go on. -/
  | noEffectStated
  deriving DecidableEq, Repr

/-- Why a command is refused. -/
inductive Refusal where
  /-- Raised by exec for a command that has no meaning yet. Safe: the machine stops. -/
  | notModelled (mnemonic : String)
  deriving DecidableEq, Repr

/-- A sparse table by number: entries in rising key order, none equal to the table's default (canonical form). -/
abbrev Tbl (α : Type) := List (Nat × α)

/-- One value per hub half. -/
structure Two (α : Type) where
  h0 : α
  h1 : α
  deriving DecidableEq, Repr

/-! ### The command plane (spec/02) -/

/-- A submission queue (R40 to R42): ring base, entries, class, completion queue, head and tail; `deleting` from its
QUEUE_DELETE on, `delCmd` that command while it waits for the last one fetched (R42); `relay` names the cascade member
of R383, `rel` the slots that a deferred doorbell submitted (R102). -/
structure Sq where
  base : Nat
  size : Nat
  cls : Nat
  cq : Nat
  head : Nat
  tail : Nat
  deleting : Bool
  delCmd : Option Cmd
  relay : Option Nat
  rel : List Nat
  deriving DecidableEq, Repr

/-- A completion queue: ring base, entries, vector, interrupt enable, head, tail and phase (R41). -/
structure Cq where
  base : Nat
  size : Nat
  vector : Nat
  ien : Bool
  head : Nat
  tail : Nat
  phase : Bool
  deriving DecidableEq, Repr

/-- What acceptance found of a buffer in polder memory (R35): its descriptors in order, and whether the form and every
address pass for a transfer that reads the buffer and for one that writes it. -/
structure BufPlan where
  descs : List (Word × Word)
  rd : Bool
  wr : Bool
  deriving DecidableEq, Repr

/-- An accept record of R28: the command, the queue head after its fetch, and the PTIME of the fetch. `attached` marks a duplicate
that waits for the running command's completion (R31). `plan` is what acceptance found of a mailbox source's buffer, `recEnd` the
recorder's NEXT in the half its PARAM0 names (R460); `released` that its doorbell came out of a deferred queue (R102), `begun` that
the command has begun and completes later, `prog` how many blocks of a JOURNAL_WRITE are durable (R54), `relayTo` the member it was
relayed to, `data` the buffer data that came with a relayed entry (R383), `discard` that a function-level reset came since, so that
its completion is discarded (R406). -/
structure Running where
  src : Source
  sqid : Nat
  e : Entry
  sqHead : Nat
  at_ : Nat
  recEnd : Nat
  attached : Bool
  plan : Option BufPlan
  released : Bool
  begun : Bool
  prog : Nat
  relayTo : Option Nat
  data : List Byte
  discard : Bool
  deriving DecidableEq, Repr

/-- A completion ready to be posted (the done record of R28): what R37 puts into the entry, and the bytes the command
returns on a transport that carries them; `pt` is the PTIME of a cached completion (R31). -/
structure Cpl where
  src : Source
  sqid : Nat
  cid : Nat
  status : Nat
  result : Nat
  sqHead : Nat
  tickLo : Nat
  pt : Option Nat
  out : List Byte
  deriving DecidableEq, Repr

/-- A completion posted and not yet consumed, with the slot it was written to (R28, R29): source number, CQ, slot, address
and bytes. -/
structure Posted where
  n : Nat
  cq : Nat
  slot : Nat
  addr : Nat
  data : List Byte
  deriving DecidableEq, Repr

/-- A live activation under way (R56, R397): its command, the slot, the boot choice before it, and whether the roles have
swapped. -/
structure Live where
  cmd : Cmd
  slot : Nat
  oldBoot : Nat
  swapped : Bool
  deriving DecidableEq, Repr

/-- A completion-cache entry (R31). -/
structure Cached where
  key : Nat
  e : Entry
  status : Nat
  result : Nat
  tickLo : Nat
  ptime : Nat
  deriving DecidableEq, Repr

/-- The arbitration state of one source (R43): weights, the class in turn and the entries taken from it, and the
last queue served in each class. -/
structure Wrr where
  wH : Nat
  wM : Nat
  wL : Nat
  cls : Nat
  used : Nat
  lastU : Nat
  lastH : Nat
  lastM : Nat
  lastL : Nat
  deriving DecidableEq, Repr

/-- One firmware slot of the keep store (R50, R57). -/
structure FwSlot where
  image : List Byte
  version : Nat
  state : Nat
  key : Nat
  rom : Bool
  changed : Nat
  deriving DecidableEq, Repr

/-- A journal namespace (R53): number, owner, world, offset and size in the journal area in MiB, creation time. -/
structure Jns where
  nsid : Nat
  owner : Nat
  sec : Bool
  off : Nat
  mib : Nat
  created : Nat
  deriving DecidableEq, Repr

/-- One entry of the error log (R49); `hide` marks the arguments that read zero in view form, `pview` whether the
polder's view shows the code, `gen` the polder's creation number when it was raised. -/
structure ErrEnt where
  ptime : Nat
  seq : Nat
  code : Nat
  pol : Nat
  half : Nat
  arg0 : Nat
  arg1 : Nat
  pview : Bool
  hide : Nat
  gen : Nat
  deriving DecidableEq, Repr

/-- The command plane and the keep store (spec/02). `direct` are the sideband and relayed entries that wait for the arbiter
(R32), `posted` the completions of R28 that stand in rings. -/
structure CmdPlane where
  sqs : Tbl (Option Sq)
  cqs : Tbl (Option Cq)
  direct : List (Source × Entry × List Byte)
  running : List Running
  ready : List Cpl
  posted : List Posted
  cache : List Cached
  wrr : Tbl Wrr
  lastUrgent : Nat
  lastSrc : Nat
  stopping : List Nat
  sidebandBusy : Bool
  hbMissed : Nat
  fatalSince : Option Nat
  recovery : Bool
  slotA : FwSlot
  slotB : FwSlot
  session : Option (Nat × Nat)
  live : Option Live
  bootChoice : Nat
  runActive : Option Nat
  runStandby : Option Nat
  cfg : List Word
  cfgPending : Option (List Word)
  jns : List Jns
  keep : List Host.Cell
  badBlocks : List Nat
  spareBlocks : Nat
  blockFailed : Bool
  errLog : List ErrEnt
  errSeq : Nat
  busRead : Word
  deriving DecidableEq, Repr

/-! ### The recorder (spec/17) -/

/-- A recorder record (R454). `hide` marks the arguments the code's table shows "without" (R457), `gen` the number of
the polder's creation. -/
structure Rec where
  seq : Nat
  vseq : Nat
  ptime : Nat
  code : Nat
  pol : Nat
  pview : Bool
  dup : Bool
  half : Nat
  src : Nat
  rep : Nat
  args : List Nat
  hide : Nat
  gen : Nat
  deriving DecidableEq, Repr

/-- One half's recorder beside its registers: the records held, the staging FIFO, REPEAT increments that wait for
unfreeze, when the freeze began, what was dropped during it, and per polder the end a view freeze fixed. -/
structure Recorder where
  recs : List Rec
  staged : List Rec
  stagedReps : List Nat
  frozenAt : Nat
  frozenDrops : Nat
  viewEnd : Tbl (Option Nat)
  viewDrops : Tbl Nat
  deriving DecidableEq, Repr

/-- An export slot of the recorder dump area (R460). -/
structure Export where
  slot : Nat
  ptime : Nat
  half : Nat
  recs : List Rec
  deriving DecidableEq, Repr

/-! ### Polders (spec/03) -/

/-- A polder's object set (R58, R60): descriptor word 0, the core of each logical CPU (`none` vacant), masks of the
triggers, encoders, PCIe functions and cascade ports attached, the sideband, frame and dump areas (base and KiB),
the polder key, the entry point and START, the state STATUS_READ reports, the POLDER_DETACH commands that wait for a core's
point of rest (R481), and the POLDER_DELETE under way (R67): `halted` once it has stopped tick delivery. -/
structure Polder where
  word0 : Word
  lcpus : List (Option Nat)
  trigs : Nat
  encs : Nat
  fns : Nat
  cports : Nat
  sideband : Bool
  frame : Option (Nat × Nat)
  dump : Option (Nat × Nat)
  key : Word
  entry : Nat
  start : Bool
  stopped : Nat
  sendBase : Nat
  sendSize : Nat
  sendHead : Nat
  unreach : Bool
  deleting : Bool
  halted : Bool
  everTicked : Bool
  detCmds : List (Nat × Cmd)
  delCmd : Option Cmd
  deriving DecidableEq, Repr

/-! ### The tick (spec/04) -/

/-- A tick message (R90) or the tick a core holds: number, edge, count, fire and deadline PTIME, flags, the divider of
T_MIN it was taken under, CATCHUP and RERUN of the tick record (R113), and the PTIME at which it reached the core's latch
(R92). -/
structure TickMsg where
  num : Nat
  edge : Nat
  count : Word
  fire : Nat
  deadline : Nat
  flags : Nat
  catchup : Bool
  rerun : Bool
  at_ : Nat
  deriving DecidableEq, Repr

/-- A polder's context in the tick engines beside TK_*: the descriptor accepted and not yet in force with the PTIME
of its acceptance and its command (R89); the number of the next edge where it does not follow NUM; P₀ per engine; the edges
that the engines' encoder inputs have reached and that are not yet taken, oldest first (engine, PTIME, ENC_POS); how many
edges are taken under the configuration; the anchor of a TIMER or PTP schedule; the hold time and the fire PTIME of the last
edge; two edges out of tolerance in a row; the edges kept for STRETCH; the messages under way (die, engine); the edges
stamped, newest first, that queued triggers may name; the state before a stall of R85; what the next edge does to delivery;
the driver from the next edge on with the cause of its takeover (0 for a move of TK_CTL.PREF); whether both inputs have failed
(R86); whether it restrains the slack window (R106); and the last tick dumped with its fire PTIME (R451). -/
structure TickCtx where
  next : Option (List Word × Nat)
  nextCmd : Option Cmd
  first : Option Nat
  p0a : Int
  p0b : Int
  due : List (Nat × Nat × Word)
  edgeIx : Nat
  anchor : Nat
  lastFire : Nat
  fireAt : Nat
  disagree : Nat
  stretch : List TickMsg
  msgs : List (Nat × Nat × TickMsg)
  edges : List (Nat × Nat)
  stall : Option Nat
  suspendNext : Bool
  resumeNext : Bool
  prefNext : Option (Nat × Nat)
  stretching : Bool
  encFailed : Bool
  restrains : Bool
  dumped : Option (Nat × Nat)
  deriving DecidableEq, Repr

/-- One encoder input beside its registers: the levels of lines A and B, the position at the last index pulse, and how far
its partner has advanced since its last transition (R86). -/
structure EncIn where
  a : Bool
  b : Bool
  zPos : Option Int
  partnerAdv : Nat
  deriving DecidableEq, Repr

/-- The tick engines: contexts, encoder inputs, trigger queues (tick, offset, the PTIME at which a late one fires) and the end of
each output's pulse, the package slack window (published close PTIME), phase remainder and the free-running sub-ns rate. -/
structure TickEngine where
  ctx : Tbl TickCtx
  enc : Tbl EncIn
  trig : Tbl (List (Nat × Nat × Option Nat))
  pulseEnd : Tbl Nat
  slackClose : Option Nat
  slackOpen : Bool
  phaseLeft : Int
  rateAcc : Int
  slewAcc : Int
  dieOfs : Tbl Int
  cursors : Tbl (Nat × Nat)
  deriving DecidableEq, Repr

/-! ### Cores (spec/05 to spec/08) -/

/-- A cached line. `m` M state, `dirty` modified since it last reached memory, `td` tick-dirty, `way` its way; `age` the
pseudo-LRU state of a die-cache entry (R188). -/
structure CLine where
  data : Line
  m : Bool
  dirty : Bool
  td : Bool
  way : Nat
  poison : Bool
  age : BitVec 4
  deriving DecidableEq, Repr

/-- A merging-buffer entry (R181): the bytes stored so far and when it was opened. -/
structure MbEnt where
  la : Nat
  mask : BitVec 64
  data : Line
  at_ : Nat
  closed : Bool
  sent : Bool
  deriving DecidableEq, Repr

/-- What waits for a fill. `kind` 0 load, 1 store ownership, 2 atomic, 5 Device read, 6 uncached load, 7 instruction fetch, 8
uncached or Device fetch. `stage` 0 the request is out, 1 it was Nacked, 2 it waits behind the core's own writeback (R257), 3 it
waits for another miss of the same line; `nacks` how often it was Nacked and `first` when it was first tried (R233); `seen` the
snoops parked until the fill is used (R242). -/
structure Miss where
  la : Nat
  kind : Nat
  rd : Nat
  addr : Nat
  size : Nat
  op : Nat
  val : Word
  txid : Nat
  sent : Nat
  stage : Nat
  nacks : Nat
  first : Nat
  seen : List Msg
  deriving DecidableEq, Repr

/-- A deferred-queue entry (R119). -/
structure DqEnt where
  addr : Nat
  size : Nat
  data : Word
  deriving DecidableEq, Repr

/-- The structures of R222: the instruction and data TLBs, the unified TLB's arrays for small, large and 1 GiB and larger slots,
the stage-1 paging-structure cache by level, the stage-2 TLB and the stage-2 paging-structure cache. -/
inductive TlbStr where
  | itlb | dtlb | small | large | huge | psc0 | psc1 | psc2 | s2tlb | s2psc
  deriving DecidableEq, Repr

/-- An entry of one of them (R212, R216, R222, R223). `va` is the address its slot begins at, an IPA for stage 2, `size` the log₂
of the slot; `pa` what the slot begins at, or the next table of a table entry. A stage-2 leaf keeps where its entry stands and
its value; `perms`, `key` and `device` are a final translation's, `dirtyBit` D of both stages; `mark` is the tick mark. -/
structure TlbEnt where
  str : TlbStr
  pol : Nat
  sec : Bool
  s2 : Bool
  vmid : Nat
  asid : Nat
  glob : Bool
  va : Nat
  size : Nat
  pa : Nat
  level : Nat
  ea : Nat
  val : Nat
  perms : Nat
  key : Nat
  device : Bool
  dirtyBit : Bool
  mark : Bool
  deriving DecidableEq, Repr

/-- The regime of a TLBI's issuer, which a broadcast carries (R225). -/
structure Regime where
  pol : Nat
  sec : Bool
  s2 : Bool
  vmid : Nat
  deriving DecidableEq, Repr

/-- A broadcast TLBI on its way to core `dst`, or waiting there for the accesses made through the entries it removed: `spans` are
where those pointed, as address and log₂ of the size (R164, R165, R226). -/
structure TlbiPend where
  dst : Nat
  inv : TlbInv
  reg : Regime
  done : Bool
  spans : List (Nat × Nat)
  deriving DecidableEq, Repr

/-- A WLOCK fill in progress (R162, R187): its way, the next address, the lines left and placed, the sets taken. -/
structure LockFill where
  way : Nat
  va : Nat
  left : Nat
  placed : Nat
  sets : List Nat
  deriving DecidableEq, Repr

/-- An entry of a predictor table (R168): tag, scrambled target, two-bit counter. -/
structure PredEnt where
  tag : Nat
  target : Word
  ctr : Nat
  deriving DecidableEq, Repr

/-- The return stack (R168): its 32 slots, the slot of the top and how many entries it holds. -/
structure Ras where
  buf : Tbl Word
  top : Nat
  n : Nat
  deriving DecidableEq, Repr

/-- A predictor checkpoint (R169): global history, path history, the top index of the return stack with its depth, and the top
entry. -/
structure Checkpoint where
  hist : Nat
  path : Nat
  rasTop : Nat
  rasN : Nat
  rasEnt : Word
  deriving DecidableEq, Repr

/-- A predicted branch in flight with its checkpoint (R169). -/
structure Flight where
  pc : Word
  kind : BranchKind
  taken : Bool
  target : Word
  ck : Checkpoint
  deriving DecidableEq, Repr

/-- The tick side of a core (R90 to R100, R109 to R132). `step` is the commit step of R120 under way, 0 for none; `waitRd` the
register of the TICKWAIT whose tick is awaited or open, `doneAt` when a late tick closed under SKIP (R98);
`splitting` that commit is the one of a guard overflow (R118), `aborted` the empty one of TICKABORT (R125); `mcHeld` a machine check
held for the next tick (R153); `half` the half of the frame slot that serves the open tick, `bodyLevel` and `bodySec` the level and
world at its take. -/
structure CoreTick where
  pend : Option TickMsg
  backlog : List TickMsg
  cur : TickMsg
  isOpen : Bool
  durable : Bool
  step : Nat
  split : Bool
  splitting : Bool
  aborted : Bool
  first : Bool
  half : Nat
  bodyLevel : Nat
  bodySec : Bool
  waiting : Bool
  waitRd : Option Nat
  doneAt : Nat
  missed : Nat
  aborts : Nat
  token : Option Nat
  dq : List DqEnt
  phaseA : List Nat
  ints : List Nat
  mcHeld : Option (Nat × Word)
  catching : Bool
  leaving : Bool
  lastRetire : Nat
  faultAt : Nat
  recovering : Bool
  overran : Bool
  deriving DecidableEq, Repr

/-- A precise sample held in the tile (R449). -/
abbrev Sample := List Word

/-- What a retirement that completes a sampling interval leaves for its record (R448, R449): the PC, the level, word 3 of the
record, PTIME, and whether the record is held until the commit. -/
structure SmpDue where
  pc : Word
  level : Nat
  tick : Nat
  pt : Nat
  held : Bool
  deriving DecidableEq, Repr

/-- A hub agent's write, or its recall where `mask` is zero, that waits at a tick-dirty line (R66, R122): line, bytes, and the
command that completes with it. -/
structure HubWrite where
  la : Nat
  mask : BitVec 64
  data : Line
  cmd : Option Cmd
  deriving DecidableEq, Repr

/-- A core's architectural state as the die control stop saves it in the body layout of R111 (R390, R431): PC, registers,
system registers, level and world. -/
structure Save where
  pc : Word
  gpr : Tbl Word
  vr : Tbl Line
  sys : Tbl Word
  level : Nat
  sec : Bool
  deriving DecidableEq, Repr

/-- A request an agent has outstanding (R228): the message as sent, whether a Nack waits for its retry, how many came (R233), when
it was first sent and when it was last Nacked. A core's PLACE hints are kept in the same form. -/
structure IoTx where
  msg : Msg
  nacked : Bool
  nacks : Nat
  first : Nat
  sent : Nat
  deriving DecidableEq, Repr

/-- One core. `serv` 0 in service, 1 berm, 2 retired, 3 fenced (R47); `pow` 0 to 3 for C0 to C3; `restarted` since the last dump its
counters started anew (R444, R452). `hist`, `path` and `ras` are the predictor's history with the branches in
`flight`, the `ret` fields the retired one (R169); `predTab` its tables; `mbLost` the lines of which an error lost stores (R182);
`syncing` says that a TLBSYNC waits (R165). -/
structure Core where
  gpr : Tbl Word
  vr : Tbl Line
  sys : Tbl Word
  pc : Word
  level : Nat
  sec : Bool
  serv : Nat
  pow : Nat
  pol : Nat
  lcpu : Nat
  started : Bool
  ckey : Word
  pend : List Nat
  t : CoreTick
  l1i : Tbl (Option CLine)
  l1d : Tbl (Option CLine)
  l2 : Tbl (Option CLine)
  mb : List MbEnt
  mbLost : List Nat
  miss : List Miss
  parked : List (Msg × Nat)
  tlb : List TlbEnt
  hist : Nat
  path : Nat
  ras : Ras
  retHist : Nat
  retPath : Nat
  retRas : Ras
  flight : List Flight
  predTab : Tbl (Option PredEnt)
  fill : Option LockFill
  syncing : Bool
  wbs : List Msg
  cmPend : List (Nat × Nat × Nat)
  plPend : List IoTx
  tlbiPend : List TlbiPend
  smpLeft : Nat
  smpDue : List SmpDue
  smpHeld : List Sample
  shadow : Tbl Word
  save : Option Save
  idleSince : Option Nat
  restarted : Bool
  deriving DecidableEq, Repr

/-- A compute die beside its registers: state (0 in service, 1 fenced, 2 retired, 3 refused), missed heartbeats, the
die cache by slice line, and the corrected errors of each way of its L2s (core × 16 + way) and slices (512 + slice ×
16 + way) with the start of their window (R200). -/
structure DieSt where
  state : Nat
  hbMissed : Nat
  dc : Tbl (Option CLine)
  wayCe : Tbl (Nat × Nat)
  deriving DecidableEq, Repr

/-! ### The host endpoint (spec/15) -/

/-- A BAR2 request's part that waits for order (R412): its message, whether Relaxed Ordering is set, the epoch it was decoded under
(R357), and the BAR2 offset at which its request begins. -/
structure PeReq where
  msg : Msg
  ro : Bool
  epoch : Nat
  req : Nat
  deriving DecidableEq, Repr

/-- One in flight: its transaction, epoch, kind (0 read, 1 write, 2 relaxed write), request, and a read's answer that waits for
lower addresses of its request: the words and whether they are poisoned. -/
structure PeLive where
  tx : Nat
  epoch : Nat
  kind : Nat
  req : Nat
  ans : Option (List Word × Bool)
  deriving DecidableEq, Repr

/-- One PCIe port beside its registers: the writable 16-bit values of configuration space by byte offset, the MSI-X table
(address, data, mask per vector) and pending bits, when each vector's last message left (plus 1) and which vectors wait to
send one, AER status, header log, INTx line, PERST_N, the BAR2 requests that wait for order, those in flight, and the LTR
reported last. -/
structure PeSt where
  cfg : Tbl Nat
  msixAddr : Tbl Nat
  msixData : Tbl Nat
  msixMask : Tbl Nat
  pba : Tbl Nat
  rom : List Byte
  msixSent : Tbl Nat
  msixHeld : List Nat
  aerUnc : Nat
  aerCor : Nat
  hdr : List Nat
  intx : Bool
  perst : Bool
  queue : List PeReq
  live : List PeLive
  ltr : Nat
  deriving DecidableEq, Repr

/-! ### Directories and the fabric (spec/09) -/

/-- A directory entry (R232): M rather than S, presence by die, GSTAMP, and the way it takes in its set. -/
structure DirEnt where
  m : Bool
  pres : Nat
  gstamp : Nat
  way : Nat
  deriving DecidableEq, Repr

/-- The transient states of R248; `hold` is a stable line whose next snoop waits for the hold window (R246). -/
inductive TrSt where
  | hold | rd | inv | rcl | dgd | wr | evi
  deriving DecidableEq, Repr

/-- A line tracker (R233): number, state, the request served and when it arrived, answers outstanding, whether an answer announced a
Writeback and whether that is accepted, whether the owner kept S, the snoop sent, the dies to send it to again after RETRY with the
time of that answer, the line an eviction makes room for, whether it is the recall round of R261, and the waiters in the order of
service with their arrival times. -/
structure Trk where
  id : Nat
  la : Nat
  st : TrSt
  req : Option Msg
  reqAt : Nat
  cnt : Nat
  needWb : Bool
  wbIn : Bool
  kept : Bool
  snp : MsgTy
  retry : List (Nat × Nat)
  line : Option Nat
  bcast : Bool
  waiters : List (Msg × Nat)
  deriving DecidableEq, Repr

/-- One half's directory: entries by line address, trackers, sets with BCAST = 1 by (bank, set), corrected-error
columns retired by (bank, way), census progress (dies yet to send LAST, lines inserted and dropped, when it began),
banks still to hand back, spine heartbeats missed, and whether the spine and each transit die serve. -/
structure DirHalf where
  ents : Tbl (Option DirEnt)
  trks : List Trk
  bcast : List (Nat × Nat)
  retired : List (Nat × Nat)
  census : Option (List Nat)
  cenLines : Nat
  cenDropped : Nat
  cenStart : Nat
  handBack : List Nat
  heldReqs : List Msg
  hbMissed : Nat
  spineMissed : Nat
  mapDies : List Nat
  deriving DecidableEq, Repr

/-! ### Memory channels (spec/10) -/

/-- A read queued at a controller: its request, the DRAM bank and row it needs, arrival PTIME and urgency, and whether the other
half's controller passed it on (R287). -/
structure McRd where
  msg : Msg
  bank : Nat
  row : Nat
  at_ : Nat
  urg : Nat
  redir : Bool
  deriving DecidableEq, Repr

/-- A line in a write queue that DRAM has not yet taken; `fwd` when a bank forwarded it, so that it holds an entry of the request
pool and not of the writeback reserve (R274). -/
structure McWr where
  la : Nat
  pol : Pol
  txid : Nat
  port : Nat
  urgIn : Nat
  bank : Nat
  row : Nat
  at_ : Nat
  urg : Nat
  fwd : Bool
  deriving DecidableEq, Repr

/-- A write accepted here whose mirror copy is not yet acknowledged (R286): its line, its port (R278), the messages its acceptance
sends. -/
structure MirWait where
  la : Nat
  port : Nat
  ans : List Msg
  deriving DecidableEq, Repr

/-- One sub-channel (R274 to R284): queues in arrival order, open rows by bank with streak and last use, write mode,
the bank chosen last, refresh debt by rank and bank set, PTIME of each set's last debt step, drift pause wanted since,
forced or under way, and the bank that soft repair holds. -/
structure McSub where
  reads : List McRd
  writes : List McWr
  rows : Tbl (Option (Nat × Nat × Nat))
  wmode : Bool
  last : Nat
  debt : Tbl Int
  wanted : Option Nat
  forced : Bool
  pausing : Bool
  deriving DecidableEq, Repr

/-- One channel: its sub-channels, the accepted writes that wait for MirDone with the answer to send (R286), the
redirect table (R297), corrected errors by row, the rows that want soft repair with the time and whether it holds their bank, the
start of a resynchronisation and its next chunk, and each DIMM's temperature. -/
structure Mc where
  s0 : McSub
  s1 : McSub
  waitMir : List MirWait
  redirect : List RowId
  rowCe : List (RowId × Nat)
  sppr : List (RowId × Nat × Bool)
  resync : Option (Nat × Nat)
  temp : Nat
  scrubAt : Nat
  deriving DecidableEq, Repr

/-! ### The berm (spec/14) -/

/-- A berm-history record (R386). `pol` is the polder of the logical CPU it is about (0 none), `lcpu` the CPU's number, and
`gen` that polder's creation number. -/
structure BermRec where
  ptime : Nat
  kind : Nat
  event : Nat
  cause : Nat
  index : Nat
  detail : Nat
  seq : Nat
  pol : Nat
  lcpu : Nat
  gen : Nat
  deriving DecidableEq, Repr

/-- A planned migration (R390): old core and replacement, its cause, the tick the old core had and whether it was open when
armed, whether the CPU has moved, whether a fault moved it (R127), the logical CPU, and the command that waits. -/
structure Migr where
  old : Nat
  new : Nat
  cause : Nat
  armNum : Nat
  armOpen : Bool
  moved : Bool
  faulted : Bool
  pol : Nat
  lcpu : Nat
  cmd : Option Cmd
  deriving DecidableEq, Repr

/-- A deferred log that a fence left to replay (R127, R128): the fenced core, its logical CPU, the frame half that holds the
log, and the world its writes carry. -/
structure Replay where
  old : Nat
  pol : Nat
  lcpu : Nat
  half : Nat
  sec : Bool
  deriving DecidableEq, Repr

/-- The berm history and what Clasto has under way: event log, state summary of every retired resource (kind, index, cause),
rows repaired, planned migrations, dies that retire (die, cause, the command that waits), margins at the first start-up by
global core, dies sampled since POR, recoveries whose replacement wakes (polder, logical CPU, old core), cores whose
lack of a replacement has been logged, ways and columns whose retirement waits (kind, index, cause, command), and the
deferred logs to replay. -/
structure Berm where
  hist : List BermRec
  seq : Nat
  retired : List (Nat × Nat × Nat)
  rows : List (Nat × RowId)
  migr : List Migr
  dieRet : List (Nat × Nat × Option Cmd)
  first : Tbl Nat
  sampled : List Nat
  repl : List (Nat × Nat × Nat)
  noCore : List Nat
  wayRet : List (Nat × Nat × Nat × Option Cmd)
  replay : List Replay
  deriving DecidableEq, Repr

/-! ### Ingest (spec/11) -/

/-- A packet held in a reorder window (R313): its position in the run, its data, when it arrived, and as bits the halves whose port
received it (R315). -/
structure IngPkt where
  pos : Nat
  data : List Byte
  at_ : Nat
  via : Nat
  deriving DecidableEq, Repr

/-- A slot (R317): its header words beside SLOTNO and MARK, and when its header was accepted; `flags` is word 4 from bit 32
on. -/
structure SlotRec where
  no : Nat
  seq : Nat
  stamp : Nat
  block : Nat
  line : Nat
  count : Nat
  flags : Nat
  missing : Nat
  accAt : Nat
  deriving DecidableEq, Repr

/-- A cut not yet freed (R321 to R326): tick, first slot and first slot after it, its record's words, and whether the
record stands in memory. -/
structure Cut where
  tick : Nat
  first : Nat
  next : Nat
  words : List Nat
  written : Bool
  deriving DecidableEq, Repr

/-- A HEAD_BIND entry with its stream context (R308 to R326). `a` and `b` are its streams, `lead` the lead's half; `conf` and
`confB` say that R307 has completed on the first and the second port, for the head at the addresses `ip` and `ipB`; `ever` and
`present` the head's presence; the run (b₀, SEQ₀), the window's start `lo` with the packets held, the stamps of leaders by block,
the next line of the run, the dropped run that waits for its gap slot, slots whose headers are not yet accepted, slots accepted but
in no cut, the cuts held, what the next record reports, when the shadow last took the lead over, and the PTIME of the last change to
present or absent (R48). -/
structure Strm where
  words : List Nat
  pol : Nat
  a : Nat
  b : Option Nat
  lead : Nat
  conf : Bool
  ip : Nat
  confB : Bool
  ipB : Nat
  ever : Bool
  present : Bool
  hbMissed : Nat
  unsync : Bool
  run : Option (Nat × Nat)
  lastBlock : Nat
  restart : Bool
  lo : Nat
  got : List IngPkt
  stamps : List (Nat × Nat)
  prev : Option (Nat × Nat)
  line : Nat
  covered : Nat
  lastStamp : Option (Nat × Nat)
  dropSeq : Nat
  dropStamp : Nat
  dropCount : Nat
  nextSlot : Nat
  held : Nat
  slots : List SlotRec
  acc : List SlotRec
  cuts : List Cut
  cutFirst : Nat
  lastCut : Option (Nat × Nat × Nat)
  since : Nat
  released : Nat
  dropped : Nat
  full : Bool
  tookAt : Option Nat
  changedAt : Nat
  deriving DecidableEq, Repr

/-- Ingest: the HEAD_BIND table with its contexts, and the boundary clock's last Sync and delay, and whether the best master
clock algorithm has made its sub-port a slave (R304). -/
structure Ingest where
  heads : List Strm
  syncAt : Nat
  reqAt : Nat
  delay : Int
  slaved : Bool
  deriving DecidableEq, Repr

/-! ### Die links and the dike (spec/12) -/

/-- A module end (R336 to R348) beside its registers: the next SEQ, the replay buffer (SEQ, FMT, messages; oldest first), the SEQ
expected, when RETRY_REQ was last sent while one is wanted, when ACK last moved, credits held and owed by virtual network, when a
sequenced flit last left and an intact flit last came, the CRC failures of the last ms, the maps the PHY runs under, whether the
module is lost and awaits retraining, failed trainings in a row, and when an unanswered SLEEP_REQ was last sent. -/
structure LkSt where
  next : Nat
  replay : List (Nat × Nat × List Msg)
  expect : Nat
  retryAt : Option Nat
  ackAt : Nat
  credits : List Nat
  owed : List Nat
  sentAt : Nat
  goodAt : Nat
  crcAt : List Nat
  txMap : Nat
  rxMap : Nat
  lost : Bool
  fails : Nat
  sleepAt : Option Nat
  deriving DecidableEq, Repr

/-- A guest site's dike (R351 to R357) beside its registers: tokens in the bucket, requests that wait at the guest stop
(with whether RATE_HELD has counted them), admitted requests not complete (TXID, epoch), and whether the module is lost. -/
structure Dike where
  tokens : Nat
  waiting : List (Msg × Bool)
  live : List (Nat × Nat)
  down : Bool
  deriving DecidableEq, Repr

/-! ### The cascade (spec/13) -/

/-- A cascade channel (R365, R370 to R378) beside its registers: the polder whose edges it carries when this package is
master, the last local tick with its edge and count, whether one has come, the intervals received (newest first), holdover
edges made, when an island election's wait began, P₀ and the edges made as island master, whether the next TICK of a new
master is to be reconciled, with the master before it, and the key of the master that makes its edges (R377). -/
structure CsChan where
  pol : Option Nat
  num : Nat
  edge : Nat
  count : Word
  ticked : Bool
  ivals : List Nat
  made : Nat
  electAt : Option Nat
  p0 : Int
  k : Nat
  adopt : Bool
  old : Nat
  key : Nat × Nat × Nat
  deriving DecidableEq, Repr

/-- A transfer a send ring has under way (R381, R382): the descriptor's fields, the lines done, whether DEST could not be reached
when it began, and since when it has not been. -/
structure Xfer where
  op : Nat
  dest : Nat
  win : Nat
  len : Nat
  off : Nat
  loc : Nat
  done : Nat
  got : List Nat
  unreach : Bool
  lostAt : Option Nat
  deriving DecidableEq, Repr

/-- A cascade frame as it is sent (R362): the header's fields and the words that follow, ARG first. -/
structure CsFrame where
  kind : Nat
  src : Nat
  dst : Nat
  ttl : Nat
  fseq : Nat
  id : Nat
  lseq : Nat
  lack : Nat
  body : List Nat
  deriving DecidableEq, Repr

/-- One cascade port (R364, R369): the last LSEQ sent and the last received in order, when LACK last advanced, the LSEQ of the
first HELLO sent since the link came up, *t*1 of the timing exchange under way, whether one has completed, the replay buffer of
frames not yet acknowledged and the frames that wait for room in it, in class order. -/
structure CsPort where
  lseq : Nat
  got : Nat
  ackAt : Nat
  hello : Option Nat
  cal1 : Option Nat
  cald : Bool
  sent : List CsFrame
  wait : List CsFrame
  deriving DecidableEq, Repr

/-- A reachable member (R363): what it announces, the ports its MEMBER frames came by with their hops, and its last HB. -/
structure Member where
  info : MemberInfo
  via : List (Nat × Nat)
  hbAt : Nat
  deriving DecidableEq, Repr

/-- A PUT or GET_REQ that this package serves: the stop and number of its bank request, the member that asked, and the transfer it
belongs to. -/
structure CasIo where
  stop : BitVec 12
  tx : BitVec 12
  member : Nat
  arg : XferArg
  deriving DecidableEq, Repr

/-- The cascade beside its registers: members, channels, candidates of the formation (priority, serial number, index) and of
island elections (channel first), when the formation wait began, the join command that waits and when it began, the last HB of the
master, when holdover last began, the key of the master followed (R377), ports, the flood sequence of this package and those seen of
others (source, FSEQ; newest first), requests served for other members, relayed entries and completions whose later frames are to
come, transfers by polder, and the join record in force with its port mask (R365), which a start-up restores. -/
structure Casc where
  mems : Tbl (Option Member)
  chans : Tbl CsChan
  cands : List (Nat × Nat × Nat)
  isle : List (Nat × Nat × Nat × Nat)
  electAt : Option Nat
  join : Option Cmd
  joinAt : Nat
  hbAt : Nat
  heldAt : Nat
  key : Nat × Nat × Nat
  ports : Tbl CsPort
  fseq : Nat
  seen : List (Nat × Nat)
  reqs : List CasIo
  asmCmd : Tbl (Option (RelayCmdHead × List Byte))
  asmCpl : Tbl (Option (RelayCplHead × List Byte))
  xfers : Tbl (Option Xfer)
  joined : Option (Nat × List Nat)
  deriving DecidableEq, Repr


/-! ### Supplies, resets and start-up (spec/16) -/

/-- The definitions that a start-up restores in phase 6 (R436, R439): polders, the values of the register fields that hold
definitions, HEAD_BIND entries (words, polder, streams), and the join record. -/
structure Defs where
  pols : Tbl (Option Polder)
  regs : List (Nat × Nat)
  heads : List (List Nat × Nat × Nat × Option Nat)
  join : Option (Nat × List Nat)
  deriving DecidableEq, Repr

/-- What the power controllers hold beside their registers: the straps last sampled; the rails out of range with the PTIME since
which each is back in range; what holds the package in reset (rail numbers, 99 for the reference clock); the dies held in DIE reset
by a thermal trip; the sensors (unit and index) at 100 °C or above; per domain the PTIME of the last 0xC2 and of the end of the last
drain; the halves at which both reference clock inputs failed; when PWRFAIL_N asserted, the package reset that waits for PF_SAFE,
each die's last voltage step, the definitions to restore, and the channel that stopped start-up (R47). -/
structure Power where
  prim : Nat
  casc : Nat
  boot : Nat
  bad : List (Nat × Option Nat)
  held : List Nat
  tripped : Bool
  hot : List (Nat × Nat)
  vetoAt : Tbl Nat
  fenceAt : Tbl Nat
  refOut : List Nat
  pfAt : Nat
  pkrWait : Option (Nat × Nat)
  avsAt : Tbl Nat
  defs : Option Defs
  stopCh : Nat
  deriving DecidableEq, Repr

/-! ### The machine -/

/-- What leaves the package on its pins and links, oldest first (log entry 6). -/
inductive Wire where
  /-- A posted write to host memory through endpoint `e` (completion entries and command buffers). -/
  | hostWrite (e : Nat) (addr : Nat) (data : List Byte)
  /-- A read of host memory through endpoint `e`. -/
  | hostRead (e : Nat) (addr len : Nat)
  /-- An MSI-X message (R421), with the address and data of its table entry (R409). -/
  | msix (e vec addr data : Nat)
  /-- Assert_INTx or Deassert_INTx (R422). -/
  | intx (e : Nat) (assert : Bool)
  /-- A PCIe completion: request served, its data, error status. -/
  | pcieCpl (e : Nat) (data : List Word) (status : Nat)
  /-- A PCIe message: LTR, error, PME. -/
  | pcieMsg (e kind : Nat) (v : Nat)
  /-- The sideband response: the four words of the completion and the data returned (R32). -/
  | sideband (cpl : List Nat) (data : List Byte)
  /-- A pulse on trigger output `t` from one PTIME to another at a polarity (R101). -/
  | pulse (t start stop pol : Nat)
  /-- A frame sent on head port `port`, sub-port `sub`: kind and words. -/
  | head (port sub kind : Nat) (body : List Nat)
  /-- A frame sent on cascade port `port`. -/
  | cascade (port : Nat) (f : CsFrame)
  /-- A flit or map flit sent on a die-link module. -/
  | flit (unit kind seq : Nat) (body : List Nat)
  /-- A message to the guest die of a site (R351). -/
  | guest (site : Nat) (m : Msg)
  /-- A DRAM command of a sub-channel. -/
  | dram (ch sc kind : Nat) (arg : Nat)
  /-- A pin driven: name number and level. -/
  | pin (n : Nat) (v : Bool)
  deriving DecidableEq, Repr

/-- The DX-240. `regs` holds every control-register field at key `field × 65536 + instance` once it has been written
(State.get reads one that is not listed as its reset value); `mem` the copy of DRAM each half stores (in Throughput the
lines it homes, in Guarded every line), `hub` what hub agents have to write or recall once a tick lets go of its line;
`pending` the commands that wait. -/
structure State where
  regs : List (Nat × Nat)
  mem : Two (List Host.Cell)
  poison : Two (List Nat)
  hub : List HubWrite
  cp : CmdPlane
  rcd : Two Recorder
  exports : List Export
  pols : Tbl (Option Polder)
  polGen : Tbl Nat
  te : TickEngine
  cores : Tbl Core
  pe : Tbl PeSt
  dies : Tbl DieSt
  halfLost : Two Bool
  halfReturning : Two Bool
  fabric : List Msg
  dir : Two DirHalf
  io : List IoTx
  mcs : Tbl Mc
  berm : Berm
  ing : Ingest
  links : Tbl LkSt
  dike : Two Dike
  cas : Casc
  pow : Power
  out : List Wire
  free : Nat
  pending : List Instr
  deriving DecidableEq, Repr

/-! ### Reset -/

/-- A recorder that holds nothing. -/
def Recorder.reset : Recorder :=
  { recs := [], staged := [], stagedReps := [], frozenAt := 0, frozenDrops := 0, viewEnd := [], viewDrops := [] }

/-- A firmware slot that holds no image. -/
def FwSlot.reset : FwSlot := { image := [], version := 0, state := 0, key := 0, rom := false, changed := 0 }

/-- A directory half that tracks nothing. -/
def DirHalf.reset : DirHalf :=
  { ents := [], trks := [], bcast := [], retired := [], census := none, cenLines := 0, cenDropped := 0, cenStart := 0,
    handBack := [], heldReqs := [], hbMissed := 0, spineMissed := 0, mapDies := [] }

/-- A dike whose token bucket is empty (log entry 35). -/
def Dike.reset : Dike := { tokens := 0, waiting := [], live := [], down := false }

/-- The machine right after POR with a factory-fresh keep store (R20, R51, R438): every register field at the value of its
Reset column, start-up in phase 1, nothing attached, nothing waiting (log entries 1, 32, 33). -/
def State.reset : State :=
  { regs := [], mem := ⟨[], []⟩, poison := ⟨[], []⟩, hub := [],
    cp := { sqs := [], cqs := [], direct := [], running := [], ready := [], posted := [], cache := [], wrr := [], lastUrgent := 0, lastSrc := 0,
            stopping := [], sidebandBusy := false, hbMissed := 0, fatalSince := none, recovery := false,
            slotA := FwSlot.reset, slotB := FwSlot.reset, session := none, live := none, bootChoice := 0, runActive := none,
            runStandby := none, cfg := [], cfgPending := none, jns := [], keep := [], badBlocks := [],
            spareBlocks := 8192, blockFailed := false, errLog := [], errSeq := 0, busRead := 0 },
    rcd := ⟨Recorder.reset, Recorder.reset⟩, exports := [], pols := [], polGen := [],
    te := { ctx := [], enc := [], trig := [], pulseEnd := [], slackClose := none, slackOpen := false, phaseLeft := 0,
            rateAcc := 0, slewAcc := 0, dieOfs := [], cursors := [] },
    cores := [], pe := [], dies := [], halfLost := ⟨false, false⟩, halfReturning := ⟨false, false⟩, fabric := [],
    dir := ⟨DirHalf.reset, DirHalf.reset⟩, io := [], mcs := [],
    berm := { hist := [], seq := 0, retired := [], rows := [], migr := [], dieRet := [], first := [], sampled := [],
              repl := [], noCore := [], wayRet := [], replay := [] },
    ing := { heads := [], syncAt := 0, reqAt := 0, delay := 0, slaved := false }, links := [], dike := ⟨Dike.reset, Dike.reset⟩,
    cas := { mems := [], chans := [], cands := [], isle := [], electAt := none, join := none, joinAt := 0, hbAt := 0,
             heldAt := 0, key := (0, 0, 0), ports := [], fseq := 0, seen := [], reqs := [], asmCmd := [], asmCpl := [], xfers := [],
             joined := none },
    pow := { prim := 0, casc := 0, boot := 0, bad := [], held := [], tripped := false, hot := [], vetoAt := [], fenceAt := [], refOut := [], pfAt := 0,
             pkrWait := none, avsAt := [], defs := none, stopCh := 0 },
    out := [], free := 0, pending := [] }

end Sys2Proof.Machine
end

