-- ==== Sys2Proof/Machine/Ops.lean ====
section
/-! DEFINITION. The named operations over the state that every family shares: sparse tables, per-half values, bit
fields, control-register fields, line and byte memory, polders and cores. -/
namespace Sys2Proof.Machine

/-! ### Sparse tables -/

/-- The value at key `k`; `d` where the table lists none. -/
def Tbl.get {α : Type} (d : α) : Tbl α → Nat → α
  | [], _ => d
  | (j, v) :: t, k => if j = k then v else Tbl.get d t k

/-- The table without key `k`. -/
def Tbl.erase {α : Type} : Tbl α → Nat → Tbl α
  | [], _ => []
  | (j, v) :: t, k => if j = k then Tbl.erase t k else (j, v) :: Tbl.erase t k

/-- Insert `(k, v)` before the first greater key. -/
def Tbl.insert {α : Type} (k : Nat) (v : α) : Tbl α → Tbl α
  | [] => [(k, v)]
  | (j, w) :: t => if k < j then (k, v) :: (j, w) :: t else (j, w) :: Tbl.insert k v t

/-- Set key `k` to `v`; the default value lists nothing, so equal tables are equal lists. -/
def Tbl.set {α : Type} [DecidableEq α] (d : α) (t : Tbl α) (k : Nat) (v : α) : Tbl α :=
  if v = d then Tbl.erase t k else Tbl.insert k v (Tbl.erase t k)

/-- Canonical form: strictly rising keys, no entry equal to the default. -/
def Tbl.wf {α : Type} [DecidableEq α] (d : α) : Tbl α → Bool
  | [] => true
  | [(_, v)] => decide (v ≠ d)
  | (j, v) :: (k, w) :: t => decide (v ≠ d) && decide (j < k) && Tbl.wf d ((k, w) :: t)

/-- The value of half `h`. -/
def Two.get {α : Type} (t : Two α) (h : Nat) : α := if h = 0 then t.h0 else t.h1

/-- Replace the value of half `h`. -/
def Two.set {α : Type} (t : Two α) (h : Nat) (v : α) : Two α :=
  if h = 0 then { t with h0 := v } else { t with h1 := v }

/-! ### Bit fields -/

/-- Bits [hi:lo] of a number. -/
def bitsOf (v hi lo : Nat) : Nat := v / 2 ^ lo % 2 ^ (hi + 1 - lo)

/-- Bit `i` of a number. -/
def bitOf (v i : Nat) : Bool := v.testBit i

/-- A number with bit `i` set or cleared. -/
def withBit (v i : Nat) (b : Bool) : Nat :=
  if v.testBit i = b then v else if b then v + 2 ^ i else v - 2 ^ i

/-- A Bool as a register bit. -/
def b2n (b : Bool) : Nat := if b then 1 else 0

/-- How many of the low `n` bits are set. -/
def popcount (v : Nat) : Nat → Nat
  | 0 => 0
  | n + 1 => popcount v n + b2n (v.testBit n)

/-- A 64-bit pattern read as a signed number. -/
def signed64 (v : Nat) : Int := if v % 2 ^ 64 < 2 ^ 63 then (v % 2 ^ 64 : Nat) else (v % 2 ^ 64 : Nat) - (2 ^ 64 : Int)

/-- A signed number as its 64-bit pattern. -/
def unsigned64 (v : Int) : Nat := (v % (2 ^ 64 : Int)).toNat

/-! ### Control-register fields (R5 to R9) -/

/-- The value a field takes at reset where the Reset column names a loaded value: fuses (log entry 1), the defaults of
a missing configuration record (R51), the table of R278, an empty berm history (R20), or the stated number. -/
def Fld.resetOf (f : Fld) (i : Nat) : Nat :=
  match f with
  | .PKG_ID_GRADE => Config.grade
  | .PKG_ID_SPEED => Config.speed
  | .PKG_ID_HUB_REV => Config.hubRev
  | .CD_REV_CD0_REV | .CD_REV_CD1_REV | .CD_REV_CD2_REV | .CD_REV_CD3_REV | .CD_REV_CD4_REV | .CD_REV_CD5_REV
  | .CD_REV_CD6_REV | .CD_REV_CD7_REV | .CD_REV_CD8_REV | .CD_REV_CD9_REV | .CD_REV_CD10_REV | .CD_REV_CD11_REV =>
      Config.dieRev
  | .BM_CORES_CD0 | .BM_CORES_CD1 | .BM_CORES_CD2 | .BM_CORES_CD3 | .BM_CORES_CD4 | .BM_CORES_CD5
  | .BM_CORES_CD6 | .BM_CORES_CD7 | .BM_CORES_CD8 | .BM_CORES_CD9 | .BM_CORES_CD10 | .BM_CORES_CD11 => 2
  | .WORLD_ATTR_SIDEBAND_TRUSTED => 1
  | .PE_CFG_MODE => if i % 4096 = 0 then 1 else 0
  | .PE_CFG_MAX_SPEED => 6
  | .PE_CFG_BAR2_LOG => 6
  | .PE_CFG_SUBSYS => 0x0240
  | .MEM_TGT_T0 => if i < 3 then 500 else if i < 7 then 2000 else if i = 7 then 1500 else if i = 8 then 1500 else 2000
  | .MEM_TGT_T1 => if i < 3 then 500 else if i < 7 then 2000 else if i = 7 then 1500 else if i = 8 then 1500 else 2000
  | .MEM_TGT_T2 => if i < 3 then 500 else if i < 7 then 2000 else if i = 7 then 1500 else if i = 8 then 2000 else 8000
  | .MEM_TGT_T3 => if i < 3 then 500 else if i < 7 then 2000 else if i = 7 then 1500 else if i = 8 then 2000 else 0
  | _ => f.desc.rst

/-- The width of a field in bits. -/
def Fld.width (f : Fld) : Nat := f.desc.hi + 1 - f.desc.lo

/-- The key of instance `i` of a field in the register table; instance numbers are 16 bits wide. -/
def Fld.key (f : Fld) (i : Nat) : Nat := f.ctorIdx * 65536 + i % 65536

/-- A field of instance `i`: its stored value, or the value reset gave it. -/
def State.get (s : State) (f : Fld) (i : Nat) : Nat :=
  match s.regs.lookup (f.key i) with
  | some v => v
  | none => f.resetOf i

/-- Set a field of instance `i`, cut to the field's width. -/
def State.put (s : State) (f : Fld) (i v : Nat) : State :=
  { s with regs := Tbl.insert (f.key i) (v % 2 ^ f.width) (Tbl.erase s.regs (f.key i)) }

/-- Count `n` more in a counter field, which saturates (log entry 5 for the counters whose row does not say so). -/
def State.bump (s : State) (f : Fld) (i n : Nat) : State :=
  s.put f i (min (s.get f i + n) (2 ^ f.width - 1))

/-- A one-bit field as a Bool. -/
def State.flag (s : State) (f : Fld) (i : Nat) : Bool := s.get f i == 1

/-- Set a one-bit field. -/
def State.setFlag (s : State) (f : Fld) (i : Nat) (b : Bool) : State := s.put f i (b2n b)

/-- Instance numbers: a per-half register, a per-die one, a global channel, port, stream, encoder, trigger, PCIe port,
and the hub end of die-link module `m` (R17, R19). -/
def instH (h k : Nat) : Nat := h * 4096 + k
def instD (d k : Nat) : Nat := d * 4096 + k
def instCh (ch : Nat) : Nat := instH (ch / 8) (ch % 8)
def instPort (p : Nat) : Nat := instH (p / 8) (p % 8)
def instStr (s : Nat) : Nat := instH (s / 64) (s % 64)
def instEnc (e : Nat) : Nat := instH (e / 8) (e % 8)
def instTrg (t : Nat) : Nat := instH (t / 16) (t % 16)
def instPe (e : Nat) : Nat := instH (e / 2) (e % 2)

/-- The table number of a power domain: kind and index (R432). -/
def domKey (kind i : Nat) : Nat := kind * 256 + i

/-- Set or withdraw a client's vote. -/
def State.setVote (s : State) (d c : Nat) (b : Bool) : State :=
  s.put .PV_VOTE_VOTES d (withBit (s.get .PV_VOTE_VOTES d) c b)

/-- PTIME (R80). -/
def State.now (s : State) : Nat := s.get .PT_NOW_TIME 0

/-- The half of the active hub controller (CP_ROLE.ACTIVE). -/
def State.activeHalf (s : State) : Nat := s.get .CP_ROLE_ACTIVE 0

/-- The Guarded configuration is in force (R4). -/
def State.guardedCfg (s : State) : Bool := s.flag .PKG_ID_GUARDED 0

/-- Half `h` is lost (R395). -/
def State.lost (s : State) (h : Nat) : Bool := s.halfLost.get h

/-- Send something out of the package. -/
def State.emit (s : State) (w : Wire) : State := { s with out := s.out ++ [w] }

/-- Draw one free value and advance the draw counter (log entry 2). -/
def State.fresh (s : State) : Word := Config.freeWord s.free
def State.drawn (s : State) : State := { s with free := s.free + 1 }

/-! ### Polders, cores and dies -/

/-- The polder context with nothing attached. -/
def Polder.empty : Polder :=
  { word0 := 0, lcpus := [], trigs := 0, encs := 0, fns := 0, cports := 0, sideband := false, frame := none,
    dump := none, key := 0, entry := 0, start := false, stopped := 0, sendBase := 0, sendSize := 0, sendHead := 0,
    unreach := false, deleting := false, halted := false, everTicked := false,
    detCmds := [], delCmd := none }

/-- Polder `p`, if it exists. Polder 0 always exists and is not held in the table (R59). -/
def State.polder (s : State) (p : Nat) : Option Polder := Tbl.get none s.pols p

def State.setPolder (s : State) (p : Nat) (v : Option Polder) : State := { s with pols := Tbl.set none s.pols p v }

/-- Change polder `p` where it exists. -/
def State.updPolder (s : State) (p : Nat) (f : Polder → Polder) : State :=
  match s.polder p with
  | some v => s.setPolder p (some (f v))
  | none => s

def Polder.secure (v : Polder) : Bool := v.word0.getLsbD 0
def Polder.guarded (v : Polder) : Bool := v.word0.getLsbD 1
def Polder.tickBound (v : Polder) : Bool := v.word0.getLsbD 2
def Polder.fastClock (v : Polder) : Bool := v.word0.getLsbD 3

/-- The world of a polder's mailbox set and streams: polder 0 is secure (R59). -/
def State.polSecure (s : State) (p : Nat) : Bool :=
  if p = 0 then true else match s.polder p with | some v => v.secure | none => false

def State.polGuarded (s : State) (p : Nat) : Bool := match s.polder p with | some v => v.guarded | none => false
def State.polTickBound (s : State) (p : Nat) : Bool := match s.polder p with | some v => v.tickBound | none => false

/-- A tick message that names nothing. -/
def TickMsg.none : TickMsg :=
  { num := 0, edge := 0, count := 0, fire := 0, deadline := 0, flags := 0, catchup := false, rerun := false,
    at_ := 0 }

/-- Insert into an ascending list without repeats: one pending instance of an identity absorbs any further ones. -/
def insertAsc (x : Nat) : List Nat → List Nat
  | [] => [x]
  | y :: ys => if x < y then x :: y :: ys else if x = y then y :: ys else y :: insertAsc x ys

/-- The tick side of a core that has never ticked. -/
def CoreTick.empty : CoreTick :=
  { pend := none, backlog := [], cur := TickMsg.none, isOpen := false, durable := false, step := 0, split := false,
    first := true, waiting := false, waitRd := none, doneAt := 0, missed := 0, aborts := 0, token := none, dq := [], phaseA := [],
    ints := [], mcHeld := none, half := 0, bodyLevel := 3, bodySec := true, splitting := false, aborted := false, catching := false, leaving := false, lastRetire := 0, faultAt := 0,
    recovering := false, overran := false }

/-- The empty return stack. -/
def Ras.empty : Ras := { buf := [], top := 0, n := 0 }

/-- A core after reset with an empty berm history: in polder 0, in C3; local cores 18 and 19 are the berm (R20, R59). -/
def Core.reset (g : Nat) : Core :=
  { gpr := [], vr := [], sys := [], pc := 0, level := 3, sec := true, serv := if 18 ≤ g % 20 then 1 else 0, pow := 3,
    pol := 0, lcpu := 0, started := false, ckey := 0, pend := [], t := CoreTick.empty, l1i := [], l1d := [], l2 := [],
    mb := [], mbLost := [], miss := [], parked := [], wbs := [], tlb := [], hist := 0, path := 0, ras := Ras.empty,
    retHist := 0, retPath := 0, retRas := Ras.empty, flight := [], predTab := [], fill := none, syncing := false,
    cmPend := [], plPend := [], tlbiPend := [], smpLeft := 0, smpDue := [], smpHeld := [], shadow := [],
    save := none, idleSince := none, restarted := false }

/-- Core `g`; one that the table does not list is as reset leaves it. -/
def State.core (s : State) (g : Nat) : Core :=
  match s.cores.lookup g with
  | some c => c
  | none => Core.reset g

def State.setCore (s : State) (g : Nat) (c : Core) : State :=
  { s with cores := Tbl.insert g c (Tbl.erase s.cores g) }

def State.updCore (s : State) (g : Nat) (f : Core → Core) : State := s.setCore g (f (s.core g))

/-- Change the tick side of a core. -/
def State.updTick (s : State) (g : Nat) (f : CoreTick → CoreTick) : State :=
  s.updCore g fun c => { c with t := f c.t }

/-- The core a polder's logical CPU runs on, if the CPU is in use and not vacant (R62). -/
def State.coreOf (s : State) (p l : Nat) : Option Nat :=
  match s.polder p with
  | some v => (v.lcpus[l]?).join
  | none => none

/-- The cores of a polder in logical order, vacant numbers left out. -/
def Polder.cores (v : Polder) : List Nat := v.lcpus.filterMap id

def DieSt.reset : DieSt := { state := 0, hbMissed := 0, dc := [], wayCe := [] }
def State.die (s : State) (d : Nat) : DieSt := Tbl.get DieSt.reset s.dies d
def State.updDie (s : State) (d : Nat) (f : DieSt → DieSt) : State :=
  { s with dies := Tbl.set DieSt.reset s.dies d (f (s.die d)) }

/-- Global core numbers, and the compute die of one (R19). -/
def allCores : List Nat := List.range 240
def dieOf (g : Nat) : Nat := g / 20

/-! ### Physical memory -/

/-- One byte of a memory; an unlisted address reads as zero (R436: DRAM is zero until written). -/
def memByte (m : List Host.Cell) (a : Nat) : Byte := Tbl.get 0 m a

/-- Write one byte; writing zero removes the entry. -/
def memPut (m : List Host.Cell) (a : Nat) (b : Byte) : List Host.Cell := Tbl.set 0 m a b

/-- The canonical form of a memory: strictly rising addresses, no zero byte listed. -/
def Memory.wf (m : List Host.Cell) : Bool := Tbl.wf 0 m

/-- Write bytes at rising addresses. -/
def memPutAll (m : List Host.Cell) (a : Nat) : List Byte → List Host.Cell
  | [] => m
  | b :: bs => memPutAll (memPut m a b) (a + 1) bs

/-- `n` bytes at rising addresses. -/
def memBytes (m : List Host.Cell) (a : Nat) : Nat → List Byte
  | 0 => []
  | n + 1 => memByte m a :: memBytes m (a + 1) n

/-- Bytes as one little-endian number. -/
def leNat : List Byte → Nat
  | [] => 0
  | b :: bs => b.toNat + 256 * leNat bs

/-- The `n` low bytes of a number, little-endian. -/
def natLe (v : Nat) : Nat → List Byte
  | 0 => []
  | n + 1 => BitVec.ofNat 8 v :: natLe (v / 256) n

/-- Words as bytes (R34: every multi-byte value is little-endian). -/
def wordsLe (ws : List Nat) : List Byte := ws.flatMap fun w => natLe w 8

/-- Word `i` of a byte string, zero beyond its end. -/
def wordAt (bs : List Byte) (i : Nat) : Nat := leNat ((bs.drop (8 * i)).take 8)

/-- The bits of a line that a byte mask selects. -/
def lineMask (mask : BitVec 64) : Nat → Line
  | 0 => 0
  | n + 1 => lineMask mask n ||| (if mask.getLsbD n then (0xFF : Line) <<< (8 * n) else 0)

/-- A line with the masked bytes replaced. -/
def lineMerge (old new : Line) (mask : BitVec 64) : Line :=
  (old &&& ~~~(lineMask mask 64)) ||| (new &&& lineMask mask 64)

/-- `n` bytes of a line from byte `o` on, as a word. -/
def lineRead (l : Line) (o n : Nat) : Word := BitVec.ofNat 64 ((l.toNat / 2 ^ (8 * o)) % 2 ^ (8 * n))

/-- A line holding `n` bytes of a word at byte `o`, and the byte mask that covers them. -/
def lineOf (v : Word) (o n : Nat) : Line := BitVec.ofNat 512 ((v.toNat % 2 ^ (8 * n)) * 2 ^ (8 * o))
def maskOf (o n : Nat) : BitVec 64 := BitVec.ofNat 64 ((2 ^ n - 1) * 2 ^ o)

/-- The home half of a physical address: the parity of PA bits 8, 17, 26, 35 and 44 (R230). -/
def homeHalf (a : Nat) : Nat :=
  ((b2n (a.testBit 8)) + b2n (a.testBit 17) + b2n (a.testBit 26) + b2n (a.testBit 35) + b2n (a.testBit 44)) % 2

/-- MEM_SIZE in bytes (R271). -/
def State.memSize (s : State) : Nat := s.get .MEM_SIZE_BLOCKS 0 * 0x200000

/-- The half whose copy of a line is read: the home half, or its mirror while the home half is lost or still
resynchronising (R287, R291). -/
def State.readHalf (s : State) (a : Nat) : Nat :=
  if (s.lost (homeHalf a) || s.halfReturning.get (homeHalf a)) && s.guardedCfg then 1 - homeHalf a else homeHalf a

/-- One byte of the copy of DRAM that a read is served from. -/
def State.ramByte (s : State) (a : Nat) : Byte := memByte (s.mem.get (s.readHalf a)) a
def State.ramBytes (s : State) (a : Nat) : Nat → List Byte
  | 0 => []
  | n + 1 => s.ramByte a :: s.ramBytes (a + 1) n

/-- Write one byte to the copy of one half, or to every copy the configuration stores (R286). -/
def State.writeByteHalf (s : State) (h a : Nat) (b : Byte) : State :=
  { s with mem := s.mem.set h (memPut (s.mem.get h) a b) }
def State.ramWriteByte (s : State) (a : Nat) (b : Byte) : State :=
  if s.guardedCfg then (s.writeByteHalf 0 a b).writeByteHalf 1 a b else s.writeByteHalf (homeHalf a) a b
def State.ramWrite (s : State) (a : Nat) : List Byte → State
  | [] => s
  | b :: bs => (s.ramWriteByte a b).ramWrite (a + 1) bs

/-- The copy of a line that one half stores, and replacing it. -/
def State.lineHalf (s : State) (h la : Nat) : Line := BitVec.ofNat 512 (leNat (memBytes (s.mem.get h) (la * 64) 64))
def State.writeLineHalf (s : State) (h la : Nat) (l : Line) : State :=
  { s with mem := s.mem.set h (memPutAll (s.mem.get h) (la * 64) (natLe l.toNat 64)) }
/-- A whole line of DRAM as a read finds it; writing one to every copy. -/
def State.ramLine (s : State) (la : Nat) : Line := BitVec.ofNat 512 (leNat (s.ramBytes (la * 64) 64))
def State.ramWriteLine (s : State) (la : Nat) (l : Line) : State := s.ramWrite (la * 64) (natLe l.toNat 64)

/-! ### What hub agents read and write (R228, R243)

A hub agent's access is one step here (log entry 17): a read finds what its owner would have written back, a write
takes the line from every cache. -/

/-- The line as its owner holds it, when an L2 holds it modified and not tick-dirty. -/
def dirtyIn (la : Nat) : List (Nat × Core) → Option Line
  | [] => none
  | (_, c) :: t =>
    match Tbl.get none c.l2 la with
    | some l => if l.m && l.dirty && !l.td then some l.data else dirtyIn la t
    | none => dirtyIn la t

/-- The youngest Writeback of a line that is on its way to its home, not to a mirror. -/
def wbIn (la : Nat) (l : List Msg) : Option Line :=
  ((l.filter fun m => m.ty == .writeback && m.la.toNat == la && !m.a.getLsbD 2).getLast?).map (·.data)

/-- What the caches or the fabric hold of a line that memory does not: its owner's modified copy, else a Writeback. -/
def State.newer (s : State) (la : Nat) : Option Line :=
  match dirtyIn la s.cores with
  | some l => some l
  | none => wbIn la s.fabric

/-- The coherent value of a line. -/
def State.lineVal (s : State) (la : Nat) : Line :=
  match s.newer la with
  | some l => l
  | none => s.ramLine la

/-- Set or clear the poison of a line in one half. -/
def State.setPoison (s : State) (h la : Nat) (p : Bool) : State :=
  let l := s.poison.get h
  { s with poison := s.poison.set h (if p then insertAsc la l else l.filter fun x => x != la) }

/-- Set or clear the poison of a line in every copy the configuration stores (R286, R295). -/
def State.poisonAll (s : State) (la : Nat) (p : Bool) : State :=
  if s.guardedCfg then (s.setPoison 0 la p).setPoison 1 la p else s.setPoison (homeHalf (la * 64)) la p
/-- Memory holds the line as poison. -/
def State.ramPoison (s : State) (la : Nat) : Bool := (s.poison.get (s.readHalf (la * 64))).contains la

/-- Poison of the line as its owner holds it modified, or as the youngest Writeback carries it (R295). -/
def dirtyPoison (la : Nat) (l : List (Nat × Core)) : Option Bool :=
  l.findSome? fun x => match Tbl.get none x.2.l2 la with
    | some c => if c.m && c.dirty && !c.td then some c.poison else none
    | none => none
def State.newerPoison (s : State) (la : Nat) : Bool :=
  match dirtyPoison la s.cores with
  | some p => p
  | none => match (s.fabric.filter fun m => m.ty == .writeback && m.la.toNat == la && !m.a.getLsbD 2).getLast? with
    | some m => m.a.getLsbD 3
    | none => false

/-- Writebacks of a line that are on their way when a hub agent has written it come before that write: they carry its value from
then on (log entry 17). -/
def State.settleWb (s : State) (la : Nat) : State :=
  if s.fabric.any fun m => m.ty == .writeback && m.la.toNat == la then
    let v := s.ramLine la
    let a := fun m : Msg => (m.a &&& 0xFF7) ||| (if s.ramPoison la then 8 else 0)
    { s with fabric := s.fabric.map fun m => if m.ty == .writeback && m.la.toNat == la then { m with a := a m, data := v } else m }
  else s

/-- `n` bytes from byte address `a` on, as a hub agent reads them. -/
def State.readByte (s : State) (a : Nat) : Byte := BitVec.ofNat 8 ((s.lineVal (a / 64)).toNat / 2 ^ (8 * (a % 64)))
def State.readBytes (s : State) (a n : Nat) : List Byte := (List.range n).map fun i => s.readByte (a + i)

/-- Take a line out of every cache and its home directory, unless an open guarded tick holds it tick-dirty. The invalidation
closes the core's merging-buffer entries of the line (R181). -/
def Core.loseLine (c : Core) (la : Nat) : Core :=
  match Tbl.get none c.l2 la with
  | some l => if l.td then c else
      { c with l2 := Tbl.erase c.l2 la, l1d := Tbl.erase c.l1d la, l1i := Tbl.erase c.l1i la,
               mb := c.mb.map fun e => if e.la = la then { e with closed := true } else e }
  | none => c
def DirHalf.loseLine (d : DirHalf) (la : Nat) : DirHalf := { d with ents := Tbl.erase d.ents la }
def DieSt.loseLine (d : DieSt) (la : Nat) : DieSt := { d with dc := Tbl.erase d.dc la }
/-- Change every entry of a table. -/
def Tbl.mapVals {α : Type} (f : α → α) : Tbl α → Tbl α
  | [] => []
  | (k, v) :: t => (k, f v) :: Tbl.mapVals f t
/-- Change every core, every die cache, both directory halves, the fabric or the I/O transactions. -/
def State.mapCores (s : State) (f : Core → Core) : State := { s with cores := Tbl.mapVals f s.cores }
def State.setCores (s : State) (t : Tbl Core) : State := { s with cores := t }
def State.mapDies (s : State) (f : DieSt → DieSt) : State := { s with dies := Tbl.mapVals f s.dies }
def State.updDirs (s : State) (f : DirHalf → DirHalf) : State := { s with dir := { h0 := f s.dir.h0, h1 := f s.dir.h1 } }
def State.updFabric (s : State) (f : List Msg → List Msg) : State := { s with fabric := f s.fabric }
def State.updIo (s : State) (f : List IoTx → List IoTx) : State := { s with io := f s.io }
/-- Half `h` is lost, or it is returning (R395). -/
def State.setHalf (s : State) (h : Nat) (lost returning : Bool) : State :=
  { s with halfLost := s.halfLost.set h lost, halfReturning := s.halfReturning.set h returning }
/-- Change the command plane. -/
def State.updCp (s : State) (f : CmdPlane → CmdPlane) : State := { s with cp := f s.cp }
/-- Change the berm's state. -/
def State.updBerm (s : State) (f : Berm → Berm) : State := { s with berm := f s.berm }
/-- Some L2 of the package holds the line. -/
def l2Holds (la : Nat) : Tbl Core → Bool
  | [] => false
  | (_, c) :: t => (Tbl.get none c.l2 la).isSome || l2Holds la t
/-- A core loses a line from a locked way: L2_CNT.LOCK_LOST (R186). -/
def State.lockLost (s : State) (la : Nat) : Tbl Core → State
  | [] => s
  | (g, c) :: t =>
    let s := s.lockLost la t
    match Tbl.get none c.l2 la with
    | some l =>
      let i := instD (g / 20) (g % 20)
      if !l.td && (s.get .L2_STAT_LOCKED i).testBit l.way then s.bump .L2_CNT_LOCK_LOST i 1 else s
    | none => s
def State.loseLine (s : State) (la : Nat) : State :=
  let s := (s.lockLost la s.cores).mapCores fun c => c.loseLine la
  if l2Holds la s.cores then s else (s.mapDies fun d => d.loseLine la).updDirs fun d => d.loseLine la

/-- What memory lacks of a line reaches it. -/
def State.cleanLine (s : State) (la : Nat) : State :=
  match s.newer la with
  | some l => ((s.ramWriteLine la l).poisonAll la (s.newerPoison la)).settleWb la
  | none => s

/-- The owner's modified copy reaches memory, and every copy is gone. -/
def State.recallLine (s : State) (la : Nat) : State := (s.cleanLine la).loseLine la

/-- The core whose open guarded tick holds a line tick-dirty. -/
def tdIn (la : Nat) : Tbl Core → Option Nat
  | [] => none
  | (g, c) :: t =>
    match Tbl.get none c.l2 la with
    | some l => if l.td then some g else tdIn la t
    | none => tdIn la t

/-- What stands among a core's parked snoops for the snoop of a hub agent's access (R122). -/
def hubSnoop (la : Nat) : Msg :=
  { ty := .write, src := 0xC2C, dst := 0, txid := 0, urg := 0, pol := 0, sec := true, a := 0, la := BitVec.ofNat 46 la, b := 0,
    mask := 0, data := 0 }

/-- A hub agent's access waits at the tick-dirty line that core `g` holds; its snoop parks there where there is room (R122). -/
def State.hubWait (s : State) (g : Nat) (x : HubWrite) : State :=
  let s := s.updCore g fun c => if c.parked.length < 16 then { c with parked := c.parked ++ [(hubSnoop x.la, s.now)] } else c
  { s with hub := s.hub ++ [x] }

/-- A hub agent's write to one line: at once, or once a guarded tick has let go of it (R122). -/
def State.writeLine (s : State) (la : Nat) (l : Line) (mask : BitVec 64) : State :=
  match tdIn la s.cores with
  | some g => s.hubWait g { la := la, mask := mask, data := l, cmd := none }
  | none =>
    let s := s.recallLine la
    let s := s.ramWriteLine la (lineMerge (s.ramLine la) l mask)
    (if mask = BitVec.allOnes 64 then s.poisonAll la false else s).settleWb la

/-- A hub agent recalls a line for command `cmd`, likewise. -/
def State.hubRecall (s : State) (la : Nat) (cmd : Option Cmd) : State :=
  match tdIn la s.cores with
  | some g => s.hubWait g { la := la, mask := 0, data := 0, cmd := cmd }
  | none => s.recallLine la

/-- The lines a byte range touches. -/
def rangeLines (a n : Nat) : List Nat := (List.range ((a + n - 1) / 64 - a / 64 + 1)).map (a / 64 + ·)

/-- The part of a byte range that lies in one line: its data and mask. -/
def linePart (a : Nat) (bs : List Byte) (la : Nat) : Line × BitVec 64 :=
  let o := if a / 64 = la then a % 64 else 0
  let l := (if a / 64 = la then bs else bs.drop (la * 64 - a)).take (64 - o)
  (BitVec.ofNat 512 (leNat l * 2 ^ (8 * o)), BitVec.ofNat 64 ((2 ^ l.length - 1) * 2 ^ o))

/-- Write bytes as a hub agent does. -/
def State.writeBytes (s : State) (a : Nat) (bs : List Byte) : State :=
  if bs.isEmpty then s
  else
    let ls := rangeLines a bs.length
    let whole := fun la : Nat => decide (a ≤ la * 64) && decide (la * 64 + 64 ≤ a + bs.length)
    let done := fun (s : State) (la : Nat) => (if whole la then s.poisonAll la false else s).settleWb la
    if ls.all fun la => (tdIn la s.cores).isNone then ls.foldl done ((ls.foldl (fun s la => s.recallLine la) s).ramWrite a bs)
    else ls.foldl (fun s la => let x := linePart a bs la; s.writeLine la x.1 x.2) s

/-- A hub agent's waiting accesses to a line take place once no open tick holds it: they return with the commands whose last one
this was. -/
def State.hubApply (s : State) (la : Nat) : State × List Cmd :=
  if (tdIn la s.cores).isSome then (s, [])
  else
    let mine := s.hub.filter fun x => x.la == la
    let rest := s.hub.filter fun x => x.la != la
    let s := mine.foldl (fun (s : State) x => if x.mask = 0 then s.recallLine la else s.writeLine la x.data x.mask) { s with hub := rest }
    (s, (mine.filterMap (·.cmd)).filter fun c => !rest.any fun x => x.cmd == some c)

end Sys2Proof.Machine
end

