-- ==== Sys2Proof/Machine/Traps.lean ====
section
/-! DEFINITION. A core's registers, counters, exception entry and interrupts (spec/06, spec/17 R441 to R444). Taking an exception
is the one operation `State.takeExc`, admitting a pending interrupt the one operation `State.admitInt`. -/
namespace Sys2Proof.Machine

/-! ### Registers (R147) -/

/-- g0 reads as zero. -/
def Core.gprOf (c : Core) (r : Nat) : Word := if r = 0 then 0 else Tbl.get 0 c.gpr r
/-- Writes to g0 are discarded. -/
def Core.setGpr (c : Core) (r : Nat) (v : Word) : Core := if r = 0 then c else { c with gpr := Tbl.set 0 c.gpr r v }
def Core.vrOf (c : Core) (r : Nat) : Line := Tbl.get 0 c.vr r
def Core.setVr (c : Core) (r : Nat) (v : Line) : Core := { c with vr := Tbl.set 0 c.vr r v }
/-- The stored value of a system register; RWORLD resets to 1, CORE_CLK to 2,800 MHz (R148). -/
def sysReset (n : Nat) : Word := if n = 0xC0A then 1 else if n = 0xC09 then 0xAF0 else 0
def Core.sysOf (c : Core) (n : Nat) : Word := match c.sys.lookup n with | some v => v | none => sysReset n
def Core.setSys (c : Core) (n : Nat) (v : Word) : Core := { c with sys := Tbl.insert n v (Tbl.erase c.sys n) }

/-- The core's polder is secure, guarded, tick-bound. -/
def State.coreSecPol (s : State) (g : Nat) : Bool := s.polSecure (s.core g).pol
def State.coreGuarded (s : State) (g : Nat) : Bool := s.polGuarded (s.core g).pol

/-- An open guarded tick that has not split (R118). -/
def State.inGuarded (s : State) (g : Nat) : Bool :=
  (s.core g).t.isOpen && !(s.core g).t.split && s.coreGuarded g

/-- The tag of a core's accesses (R68): its polder and its world bit, non-secure in a non-secure polder. -/
def State.coreSec (s : State) (g : Nat) : Bool := (s.core g).sec && s.coreSecPol g

/-- A miss that the core's next instruction waits for (log entry 15): every kind but the merging buffer's. -/
def Miss.blocks (m : Miss) : Bool := m.kind != 1

/-- The core can go on with its instruction: in C0, in service, started, not waiting in TICKWAIT, not committing, with no
older access outstanding, and in a guarded polder after its first tick only in an open tick whose tick record is
durable (R110, R113). -/
def State.canGoOn (s : State) (g : Nat) : Bool :=
  let c := s.core g
  c.pow == 0 && c.serv == 0 && c.started && !c.t.waiting && c.t.step == 0 && !c.t.recovering && !c.miss.any Miss.blocks &&
    (!s.coreGuarded g || !c.t.isOpen && c.t.first || c.t.isOpen && c.t.durable)
/-- It can execute an instruction: no WLOCK fill and no TLBSYNC of it is unfinished besides. -/
def State.canRun (s : State) (g : Nat) : Bool := s.canGoOn g && (s.core g).fill.isNone && !(s.core g).syncing

/-! ### Counters (R441 to R443) -/

/-- One event counted by general counter `i` (R441 to R443): enabled at the level and world, in an open tick when
TICKONLY; a wrap sets its CNT_OVF bit and with INT raises interrupt 0x0020. -/
def State.countOne (s : State) (g i ev n : Nat) : State :=
  let c := s.core g
  let sel := (c.sysOf (0xC2C + i)).toNat
  let ctl := (c.sysOf 0xC22).toNat
  if bitOf ctl 0 && bitsOf sel 11 0 == ev && bitOf sel (12 + c.level) && (!bitOf sel 17 || c.t.isOpen) &&
      (!(s.coreSecPol g && c.sec) || bitOf ctl 2) then
    let v := (c.sysOf (0xC24 + i)).toNat + n
    let s := s.updCore g fun c => c.setSys (0xC24 + i) (BitVec.ofNat 64 (v % 2 ^ 48))
    if v < 2 ^ 48 then s
    else
      let s := s.updCore g fun c => c.setSys 0xC23 (c.sysOf 0xC23 ||| BitVec.ofNat 64 (2 ^ i))
      if bitOf sel 16 then s.updCore g fun c => { c with pend := insertAsc 0x20 c.pend } else s
  else s

/-- COUNTER_OVERFLOW and counting of core event `ev` in all eight general counters (R443, R445). -/
def State.countCore (s : State) (g ev : Nat) (n : Nat := 1) : State :=
  (List.range 8).foldl (fun s i => s.countOne g i ev n) s

/-- A fixed counter: sets its CNT_OVF bit when it wraps and raises no interrupt. -/
def State.countFixed (s : State) (g num bit n : Nat) : State :=
  let c := s.core g
  if bitOf (c.sysOf 0xC22).toNat 0 && (!(s.coreSecPol g && c.sec) || bitOf (c.sysOf 0xC22).toNat 2) then
    let v := (c.sysOf num).toNat + n
    let s := s.updCore g fun c => c.setSys num (BitVec.ofNat 64 v)
    if v < 2 ^ 64 then s else s.updCore g fun c => c.setSys 0xC23 (c.sysOf 0xC23 ||| BitVec.ofNat 64 (2 ^ bit))
  else s

/-! ### Exceptions (R144, R145, R149 to R153) -/

/-- What an exception reports: class, DETAIL, level that takes it, address, and vector kind (0 synchronous, 1
interrupt, 2 machine check). -/
structure Exc where
  cls : Nat
  detail : Nat
  level : Nat
  addr : Word
  kind : Nat
  deriving DecidableEq, Repr

/-- The system register of a level's bank: STAT, XPC, XSYN, XADDR and XVEC at offsets 0 to 4 (R148). -/
def bankReg (level k : Nat) : Nat := level * 0x100 + k

/-- The vector offset (R150): 0x600 for a guard violation, else kind × 0x200 plus 0x100 from the same level. -/
def vecOffset (e : Exc) (level : Nat) : Nat :=
  if e.cls = 0x10 then 0x600 else e.kind * 0x200 + (if level = e.level then 0x100 else 0)

/-- XSYN (R150): CLASS, INTICK, GUARDED, DETAIL. -/
def xsynOf (e : Exc) (inTick guarded : Bool) : Nat := e.cls + b2n inTick * 64 + b2n guarded * 128 + e.detail * 256

/-- Whatever stops the pipeline drops the branches in flight and a WLOCK fill: the predictor's retired state stands again (R169),
the lines a fill placed stay unlocked (R162). -/
def Core.squash (c : Core) : Core :=
  { c with flight := [], hist := c.retHist, path := c.retPath, ras := c.retRas, fill := none }

/-- EXCEPTION_ENTRY (R144, R145, R150, R151, R153): the taking level's XPC saves the PC, its STAT the level and world
it came from, XSYN the syndrome, XADDR the address; the level changes, entry to M sets the world bit, and the PC goes
to the vector. The STAT layout is the K64 volume's: here [1:0] saved level, [2] saved world (PRESUMED, log entry 14). -/
def State.takeExc (s : State) (g : Nat) (e : Exc) (resume : Word) : State :=
  let s := s.updCore g fun c =>
    let c := c.setSys (bankReg e.level 1) resume
    let c := c.setSys (bankReg e.level 0) (BitVec.ofNat 64 (c.level + b2n c.sec * 4))
    let c := c.setSys (bankReg e.level 2) (BitVec.ofNat 64 (xsynOf e c.t.isOpen (c.t.isOpen && s.coreGuarded g)))
    let c := if e.cls = 0x08 || e.cls = 0x09 || e.cls = 0x0A || e.cls = 0x0B || e.cls = 0x10 || e.cls = 0x1C then
        c.setSys (bankReg e.level 3) e.addr else c
    let c := c.squash
    { c with level := e.level, sec := if e.level = 3 then true else c.sec,
             pc := (c.sysOf (bankReg e.level 4) &&& ~~~(0xFFF : Word)) + BitVec.ofNat 64 (vecOffset e c.level) }
  s.countCore g (if e.cls = 0x18 then 0x081 else 0x080)

/-- A synchronous exception of the instruction at the PC, taken at level `l` (or the current level if higher). -/
def State.syncExc (s : State) (g cls detail l : Nat) (addr : Word) : State :=
  s.takeExc g { cls := cls, detail := detail, level := max l (s.core g).level, addr := addr, kind := 0 } (s.core g).pc

/-- Classes 0x00 to 0x02 are taken at S from U, else at the current level (R151). -/
def State.illegal (s : State) (g word : Nat) : State := s.syncExc g 0x00 word 1 0
def State.belowLevel (s : State) (g func sub need : Nat) : State := s.syncExc g 0x01 (func + sub * 64 + need * 2048) 1 0

/-- A machine check (R151): at M in a secure polder, at H otherwise. -/
def State.takeMc (s : State) (g source : Nat) (addr : Word) : State :=
  s.takeExc g { cls := 0x1C, detail := source, level := if s.coreSecPol g then 3 else 2, addr := addr, kind := 2 } (s.core g).pc

/-- A machine check is taken, or held for the next tick where a guarded core stands between its commit point and the take
(R153). -/
def State.machineCheck (s : State) (g source : Nat) (addr : Word) : State :=
  let t := (s.core g).t
  if s.coreGuarded g && !t.first && (!t.isOpen || 4 ≤ t.step && !t.splitting) then
    s.updTick g fun t => { t with mcHeld := some (source, addr) }
  else s.takeMc g source addr

/-! ### Interrupts (R100, R153, R154) -/

/-- The interrupt enable of the level an identity is routed to: IEN_S, the K64 volume's (PRESUMED: bit 0 enables
interrupts at S, log entry 14). Every identity of R154 is routed to S. -/
def Core.intEnabled (c : Core) : Bool := c.level < 1 || c.level = 1 && (c.sysOf 0x109).getLsbD 0

/-- Take the lowest pending identity at S (R154). -/
def State.takeInt (s : State) (g : Nat) : State :=
  match (s.core g).pend with
  | [] => s
  | id :: rest =>
    let s := s.updCore g fun c => { c with pend := rest }
    s.takeExc g { cls := 0x18, detail := id, level := 1, addr := 0, kind := 1 } (s.core g).pc

/-- A pending interrupt may be taken now (R100, R110, R153, R165): the core executes, no tick is open or committing, no access or
TLBSYNC it has begun is outstanding; a guarded core holds interrupts from the commit point of its first tick on, for the next
tick. -/
def State.admits (s : State) (g : Nat) : Bool :=
  let c := s.core g
  c.started && c.serv == 0 && c.pow != 3 && c.intEnabled && !c.pend.isEmpty && !c.t.isOpen && c.t.step == 0 &&
    !c.t.recovering && !c.syncing && !c.miss.any Miss.blocks && (!s.coreGuarded g || c.t.first)

/-- A core that may take a pending interrupt takes it; one that waits in C1 or C2 wakes for it, and a TICKWAIT that slept runs
again after the handler (R153). -/
def State.admitInt (s : State) (g : Nat) : State :=
  if s.admits g then
    (s.updCore g fun c => { c with pow := 0, t := { c.t with waiting := false } }).takeInt g
  else s

/-! ### Time at a die (R80) -/

/-- PTIME as die `d` reads it (R80). -/
def State.diePtime (s : State) (d : Nat) : Nat := unsigned64 (s.now + Tbl.get 0 s.te.dieOfs d)

/-! ### Precise sampling (R448, R449) -/

/-- Size of the sample buffer in records. -/
def Core.smpSize (c : Core) : Nat := (bitsOf (c.sysOf 0xC35).toNat 11 0 + 1) * 64

/-- Sampling is under way: EN, FULL clear and INDEX inside the buffer (log entry 98). -/
def Core.sampling (c : Core) : Bool :=
  bitOf (c.sysOf 0xC34).toNat 0 && !bitOf (c.sysOf 0xC37).toNat 0 && decide ((c.sysOf 0xC36).toNat % 2 ^ 22 < c.smpSize)

/-- The interval that a draw gives: PERIOD with its low RAND bits drawn, 0 acting as 1. -/
def Core.interval (c : Core) (draw : Word) : Nat :=
  let v := (c.sysOf 0xC34).toNat
  let r := bitsOf v 4 1
  max 1 (bitsOf v 63 32 / 2 ^ r * 2 ^ r + draw.toNat % 2 ^ r)

/-- What a sample of the instruction at the PC shows of its core now. -/
def State.smpNow (s : State) (g : Nat) : SmpDue :=
  let c := s.core g
  let o := c.t.isOpen
  { pc := c.pc, level := c.level, pt := s.diePtime (dieOf g), held := s.inGuarded g,
    tick := (if s.polTickBound c.pol then (c.sysOf 0xC10).toNat % 2 ^ 48 else 0) + b2n o * 2 ^ 48 +
      b2n (o && s.coreGuarded g) * 2 ^ 49 + b2n (o && c.t.cur.rerun) * 2 ^ 50 }

/-- A retired instruction counts in the sampling interval, which is drawn at its first instruction; the one that completes it is
sampled where SMP_CTL enables the level (R448). -/
def State.smpRetired (s : State) (g : Nat) : State :=
  let c := s.core g
  if !c.sampling then s
  else
    let s' := if c.smpLeft = 0 then s.drawn else s
    let left := if c.smpLeft = 0 then c.interval s.fresh else c.smpLeft
    let due := if left ≤ 1 && bitOf (c.sysOf 0xC34).toNat (6 + c.level) then [s.smpNow g] else []
    s'.updCore g fun c => { c with smpLeft := left - 1, smpDue := c.smpDue ++ due }

/-- A retired instruction in the counters and the sampling interval: INSTRET, RETIRED and the operations issued (R441, R445). -/
def State.countRetired (s : State) (g : Nat) : State :=
  (((s.smpRetired g).countFixed g 0xC21 9 1).countCore g 0x002).countCore g 0x003

/-- An instruction retires (R99, R441) and `pc` is the next: the counters count it, and an interrupt that waited is taken. -/
def State.retireTo (s : State) (g : Nat) (pc : Word) : State :=
  let now := s.now
  ((s.countRetired g).updCore g fun c => { c with pc := pc, t := { c.t with lastRetire := now } }).admitInt g

/-- It retires with its 32-bit word behind the PC. -/
def State.retire (s : State) (g : Nat) : State := s.retireTo g ((s.core g).pc + 4)

end Sys2Proof.Machine
end

