-- ==== Sys2Proof/Machine/Flags.lean ====
section
/-! DEFINITION. What an operation raises beside its result: recorder records and the error log (R49, R453 to R461),
AER status (R419, R420), refusals and RGN_VIOL (R74, R77), interrupts at cores (R154) and bank counters (R446). -/
namespace Sys2Proof.Machine

/-! ### The recorder -/

/-- The half that records an event of half `h` (R453): the survivor for a lost half. -/
def State.recHalf (s : State) (h : Nat) : Nat := if s.lost h && !s.lost (1 - h) then 1 - h else h

/-- REC_CTL.MODE is LIVE (R456). -/
def State.recLive (s : State) (h : Nat) : Bool := s.flag .REC_CTL_MODE (instH h 0)

/-- Records held: NEXT − OLDEST (R455). -/
def State.recHeld (s : State) (h : Nat) : Nat :=
  (s.get .REC_STAT_NEXT (instH h 0) + 2 ^ 32 - s.get .REC_STAT_OLDEST (instH h 0)) % 2 ^ 32

def State.updRcd (s : State) (h : Nat) (f : Recorder → Recorder) : State :=
  { s with rcd := s.rcd.set h (f (s.rcd.get h)) }

/-- An event about polder `p` dropped in half `h` (R455): DROPPED, and the polder's RV_STAT.DROPPED when its view shows the
event. -/
def State.recDrop (s : State) (h p : Nat) (pview : Bool) : State :=
  let s := (s.bump .REC_DROP_DROPPED (instH h 0) 1).updRcd h fun r => { r with frozenDrops := r.frozenDrops + 1 }
  if pview then
    (s.bump .RV_STAT_DROPPED (instH h p) 1).updRcd h fun r =>
      { r with viewDrops := Tbl.set 0 r.viewDrops p (Tbl.get 0 r.viewDrops p + 1) }
  else s

/-- The polder's view of this creation of the polder shows the record (R457). -/
def State.recShown (s : State) (r : Rec) : Bool := r.pview && r.gen == Tbl.get 0 s.polGen r.pol

/-- Write one record into the SRAM of half `h` (R454, R455, R457): it takes SEQ = NEXT and, when its polder's view
shows it, VSEQ = RV_STAT.NEXT. In NORMAL mode a full recorder drops it; in LIVE mode it overwrites the oldest. -/
def State.recPut (s : State) (h : Nat) (r : Rec) : State :=
  if !s.recLive h && 8192 ≤ s.recHeld h then (s.setFlag .REC_DROP_FULL (instH h 0) true).recDrop h r.pol r.pview
  else
    let seq := s.get .REC_STAT_NEXT (instH h 0)
    let v := if s.recShown r then s.get .RV_STAT_NEXT (instH h r.pol) else 0
    let s := if s.recShown r then s.put .RV_STAT_NEXT (instH h r.pol) (v + 1) else s
    let s := (s.updRcd h fun q => { q with recs := q.recs ++ [{ r with seq := seq, vseq := v }] }).put .REC_STAT_NEXT
      (instH h 0) (seq + 1)
    if 8192 < s.recHeld h then
      (s.updRcd h fun q => { q with recs := q.recs.drop 1 }).put .REC_STAT_OLDEST (instH h 0)
        (s.get .REC_STAT_OLDEST (instH h 0) + 1)
    else if s.recHeld h = 8192 && !s.recLive h then s.setFlag .REC_DROP_FULL (instH h 0) true
    else s

/-- An event as a record without its numbers; it takes them when it is written (R459). -/
def State.recOf (s : State) (e : Event) (dup : Bool) (raised : Nat) : Rec :=
  { seq := 0, vseq := 0, ptime := s.now, code := e.code, pol := e.pol, pview := e.pview, dup := dup, half := raised,
    src := e.src, rep := 1, args := e.args, hide := e.hide, gen := Tbl.get 0 s.polGen e.pol }

/-- Record an event in half `h`: staged while a freeze is in force, up to 64, and dropped beyond (R459). -/
def State.recEvent (s : State) (h : Nat) (e : Event) (dup : Bool) (raised : Nat) : State :=
  if s.flag .REC_DROP_FROZEN (instH h 0) then
    if s.get .REC_DROP_STAGED (instH h 0) < 64 then
      (s.updRcd h fun r => { r with staged := r.staged ++ [s.recOf e dup raised] }).put .REC_DROP_STAGED
        (instH h 0) (s.get .REC_DROP_STAGED (instH h 0) + 1)
    else s.recDrop h e.pol e.pview
  else s.recPut h (s.recOf e dup raised)

/-- The codes of R49 that are error events. -/
def errorCodes : List Nat :=
  [0x10, 0x55, 0x5D, 0x5E, 0x60, 0x62, 0x70, 0x71, 0x72, 0x79, 0x7B, 0x94, 0x97, 0x98, 0xB1, 0xB7, 0xB8, 0xC1, 0xC5,
   0xC6, 0xC7]

/-- Feed the error log (R49): the last 1,024 error events, whether or not the recorder holds them. -/
def State.errorLog (s : State) (e : Event) (raised : Nat) : State :=
  if errorCodes.contains e.code then
    let x : ErrEnt := { ptime := s.now, seq := s.cp.errSeq, code := e.code, pol := e.pol, half := raised,
                        arg0 := e.args.getD 0 0, arg1 := e.args.getD 1 0, pview := e.pview, hide := e.hide,
                        gen := Tbl.get 0 s.polGen e.pol }
    let l := s.cp.errLog ++ [x]
    s.updCp fun q => { q with errLog := l.drop (l.length - 1024), errSeq := q.errSeq + 1 }
  else s

/-! ### AER (R419, R420) -/

def PeSt.reset : PeSt :=
  { cfg := [], msixAddr := [], msixData := [], msixMask := [], pba := [], rom := [], msixSent := [], msixHeld := [], aerUnc := 0,
    aerCor := 0, hdr := [], intx := false, perst := true, queue := [], live := [], ltr := 0 }

def State.peSt (s : State) (e : Nat) : PeSt := Tbl.get PeSt.reset s.pe e
def State.updPe (s : State) (e : Nat) (f : PeSt → PeSt) : State :=
  { s with pe := Tbl.set PeSt.reset s.pe e (f (s.peSt e)) }

/-- AER status bits PCIe assigns: Corrected Internal Error 14, Uncorrectable Internal Error 22, Completion Timeout 14,
Poisoned TLP 12, Unsupported Request 20 (PRESUMED, log entry 7). -/
def aerCorInternal : Nat := 14
def aerUncInternal : Nat := 22
def aerCplTimeout : Nat := 14
def aerPoisoned : Nat := 12
def aerUnsupported : Nat := 20

/-- A writable 16-bit configuration register of a port: Command at 0x04, MSI-X control at 0xB2, Device Control at 0x58, AER
masks at 0x108 and 0x114 and severity at 0x10C, with the defaults PCIe gives (log entry 7). -/
def cfgDefault (o : Nat) : Nat :=
  if o = 0x10A then 0x40 else if o = 0x114 then 0xE000 else if o = 0x10C then 0x2030 else if o = 0x10E then 0x46 else 0
def PeSt.half (p : PeSt) (o : Nat) : Nat := match p.cfg.lookup o with | some v => v | none => cfgDefault o
def State.cfgHalf (s : State) (e o : Nat) : Nat := (s.peSt e).half o
def State.cfgPair (s : State) (e o : Nat) : Nat := s.cfgHalf e o + s.cfgHalf e (o + 2) * 65536

/-- The error message that PCIe's masks, severities and enables let out: 1 correctable, 2 non-fatal, 3 fatal. -/
def State.aerMessage (s : State) (e : Nat) (uncorrectable : Bool) (bit : Nat) : State :=
  let en := s.cfgHalf e 0x58
  if uncorrectable then
    let fatal := (s.cfgPair e 0x10C).testBit bit
    if !(s.cfgPair e 0x108).testBit bit && en.testBit (if fatal then 2 else 1) then
      s.emit (.pcieMsg e (if fatal then 3 else 2) bit) else s
  else if !(s.cfgPair e 0x114).testBit bit && en.testBit 0 then s.emit (.pcieMsg e 1 bit) else s

/-- Set an uncorrectable or corrected AER status bit of endpoint `e` with a header log; an internal error that finds
its bit set counts in PE_CNT.AER_LOST and is not logged (R420). -/
def State.aer (s : State) (e : Nat) (uncorrectable internal : Bool) (bit : Nat) (hdr : List Nat) : State :=
  let st := if uncorrectable then (s.peSt e).aerUnc else (s.peSt e).aerCor
  if st.testBit bit then (if internal then s.bump .PE_CNT_AER_LOST (instPe e) 1 else s)
  else
    (s.updPe e fun p =>
      if uncorrectable then { p with aerUnc := withBit p.aerUnc bit true, hdr := hdr }
      else { p with aerCor := withBit p.aerCor bit true, hdr := hdr }).aerMessage e uncorrectable bit

/-- Port `e` offers a function: PE_CFG.MODE 1 or 2 (R399). -/
def State.isEndpoint (s : State) (e : Nat) : Bool :=
  let m := s.get .PE_CFG_MODE (instPe e)
  m == 1 || m == 2

/-- PCIE_SEC bit of endpoint `e` (WORLD_ATTR). -/
def State.pcieSec (s : State) (e : Nat) : Bool := (s.get .WORLD_ATTR_PCIE_SEC 0).testBit e

/-- Polder `p` is attached to the function of endpoint `e`. -/
def State.fnBound (s : State) (e p : Nat) : Bool :=
  match s.polder p with | some v => v.fns.testBit e | none => false

/-- The codes of a polder view that raise Corrected Internal Error, and those a secure function reports (R419). -/
def aerPolderCodes : List Nat := [0x55, 0x56, 0x57, 0x58, 0x59, 0x5A, 0x5B, 0x5C, 0x5D, 0xB3, 0x85]
def aerSecureCodes : List Nat := [0x70, 0x72, 0x91, 0x92, 0x93, 0x94, 0x95, 0xB1, 0xB5, 0xB7, 0x10]

/-- Header log of an internal error (R420). -/
def aerHeader (code pol lcpu seq t : Nat) : List Nat :=
  [code + pol * 256 + lcpu * 65536, seq, t % 2 ^ 32, t / 2 ^ 32 % 2 ^ 32]

/-- Map a recorded event to AER at endpoint `e`. -/
def State.aerEvent (s : State) (e seq : Nat) (ev : Event) : State :=
  if !s.isEndpoint e then s
  else
    let l := if aerPolderCodes.contains ev.code then ev.args.getD 0 0xFF % 256 else 0xFF
    if ev.code = 0xB8 && s.fnBound e ev.pol then s.aer e true true aerUncInternal (aerHeader ev.code ev.pol 0xFF seq s.now)
    else if ev.pview && aerPolderCodes.contains ev.code && s.fnBound e ev.pol then
      s.aer e false true aerCorInternal (aerHeader ev.code ev.pol l seq s.now)
    else if s.pcieSec e && aerSecureCodes.contains ev.code then
      s.aer e false true aerCorInternal (aerHeader ev.code 0 0xFF seq s.now)
    else s

/-- A block of half `h` raises an event: recorder, error log and AER (R49, R419, R453). -/
def State.logEv (s : State) (h : Nat) (e : Event) (dup : Bool := false) : State :=
  let rh := s.recHalf h
  let seq := s.get .REC_STAT_NEXT (instH rh 0)
  let s := (s.errorLog e h).recEvent rh e dup h
  (((s.aerEvent 0 seq e).aerEvent 1 seq e).aerEvent 2 seq e).aerEvent 3 seq e

/-- Stops of a hub half (R238): unit 12 or 13, stop number. -/
def hubStop (h n : Nat) : Nat := (12 + h) * 256 + n
/-- Die control stop of a die. -/
def dieStop (d : Nat) : Nat := d * 256 + 22

/-- An event in the secure view only, from stop `n` of half `h`. -/
def State.logSec (s : State) (h n code : Nat) (args : List Nat) : State :=
  s.logEv h { code := code, pol := 0, pview := false, src := hubStop h n, args := args, hide := 0 }

/-- An event about polder `p` that its view shows. -/
def State.logPol (s : State) (h n code p : Nat) (args : List Nat) (hide : Nat := 0) : State :=
  s.logEv h { code := code, pol := p, pview := true, src := hubStop h n, args := args, hide := hide }

/-- An event about polder `p` in the secure view only. -/
def State.logPolSec (s : State) (h n code p : Nat) (args : List Nat) : State :=
  s.logEv h { code := code, pol := p, pview := false, src := hubStop h n, args := args, hide := 0 }

/-- A compute die's event about a polder, recorded in the active controller's half (R453). -/
def State.logDie (s : State) (d code p : Nat) (args : List Nat) (hide : Nat := 0) : State :=
  s.logEv s.activeHalf { code := code, pol := p, pview := p ≠ 0, src := dieStop d, args := args, hide := hide }

/-- One record per polder view, every copy after the first with DUP (R454); with no polder one secure record. -/
def State.logPols (s : State) (h n code : Nat) (ps : List Nat) (args : List Nat) : State :=
  match ps with
  | [] => s.logSec h n code args
  | p :: qs =>
    qs.foldl (fun s q => s.logEv h { code := code, pol := q, pview := true, src := hubStop h n, args := args, hide := 0 } true)
      (s.logPol h n code p args)

/-! ### Refusals (R74, R77) -/

/-- Source kind and index of R77. -/
def agentKind : Agent → Nat
  | .core _ => 1 | .ingest _ => 2 | .pcie _ => 3 | .cascade _ => 4 | .guest _ => 5 | .mailbox _ => 6 | .sideband => 7
  | .hubAgent _ => 8
def agentIndex : Agent → Nat
  | .core g => g | .ingest n => n | .pcie e => e | .cascade c => c | .guest g => g | .mailbox p => p | .sideband => 0
  | .hubAgent n => n.toNat

/-- A record that a refusal of the same source, kind and 2 MiB block within 1 ms of its first repeats (R77). -/
def refusalMatch (a0 kind addr now : Nat) (r : Rec) : Bool :=
  r.code == 0x20 && r.args.getD 0 0 == a0 && r.args.getD 1 0 / 256 == kind && r.args.getD 2 0 / 2 ^ 21 == addr / 2 ^ 21 &&
    now ≤ r.ptime + 1000000

/-- One more in REPEAT, which saturates at 65,535. -/
def Rec.again (r : Rec) : Rec := { r with rep := min (r.rep + 1) 65535 }

/-- Refuse an access in half `h`: RGN_VIOL counts it, and the secure view records it or repeats its record (R77). A
REPEAT that arrives during a freeze is applied at unfreeze (R459). -/
def State.refuse (s : State) (h : Nat) (src : Agent) (pol : Nat) (sec : Bool) (addr kind : Nat) : State :=
  let s := s.bump .RGN_VIOL_COUNT (instH h 0) 1
  let rh := s.recHalf h
  let a0 := agentKind src * 2 ^ 56 + agentIndex src
  let a1 := b2n sec + kind * 256
  let m := refusalMatch a0 kind addr s.now
  let q := s.rcd.get rh
  if q.recs.any m then
    match (q.recs.filter m).getLast? with
    | some r =>
      if s.flag .REC_DROP_FROZEN (instH rh 0) then s.updRcd rh fun q => { q with stagedReps := q.stagedReps ++ [r.seq] }
      else s.updRcd rh fun q => { q with recs := q.recs.map fun x => if x.seq = r.seq then x.again else x }
    | none => s
  else if q.staged.any m then
    s.updRcd rh fun q => { q with staged := q.staged.map fun x => if m x then x.again else x }
  else s.logEv h { code := 0x20, pol := pol, pview := false, src := hubStop h 45, args := [a0, a1, addr, 0], hide := 0 }

/-! ### Interrupts at cores (R154) -/

/-- Interrupt `id` becomes pending at the core of a logical CPU, which takes it where it may; a vacant or unused number has none
(R154). -/
def State.raiseInt (s : State) (p l id : Nat) : State :=
  match s.coreOf p l with
  | some g => (s.updCore g fun c => { c with pend := insertAsc id c.pend }).admitInt g
  | none => s

/-- SUPERVISOR of polder `p` (R87), from the descriptor in force. -/
def State.supervisor (s : State) (p : Nat) : Nat := bitsOf (s.get .TK_CFG_WORD (p * 6)) 23 16

/-- TICK_FAULT (identity 0x0010) to the SUPERVISOR of a polder (R154). -/
def State.tickFault (s : State) (p : Nat) : State := s.raiseInt p (s.supervisor p) 0x10

/-! ### Counter banks (R446, R447) -/

/-- Count `n` of a bank event in one counter of a hub bank where it selects the event and the unit, and where its
owner is polder 0 or the tag's polder. -/
def State.countHub1 (s : State) (h b i ev unit : Nat) (tag : Option Nat) (n : Nat) : State :=
  let o := s.get .CB_OWN_OWNER (instH h b)
  let k := instH h (b * 8 + i)
  if s.flag .CB_OWN_EN (instH h b) && s.get .CB_SEL_EVENT k == ev &&
      (s.get .CB_SEL_UNIT k == 0xFF || s.get .CB_SEL_UNIT k == unit) && (o == 0 || tag == some o)
  then s.put .CB_CNT_VALUE k (s.get .CB_CNT_VALUE k + n) else s

/-- Count a bank event in half `h`. A half whose banks are all disabled counts nothing. -/
def State.countHub (s : State) (h ev unit : Nat) (tag : Option Nat) (n : Nat := 1) : State :=
  (List.range 256).foldl (fun s j => s.countHub1 h (j / 8) (j % 8) ev unit tag n) s

/-- The same for a compute die's four banks. -/
def State.countDie1 (s : State) (d b i ev unit : Nat) (tag : Option Nat) (n : Nat) : State :=
  let o := s.get .CBD_OWN_OWNER (instD d b)
  let k := instD d (b * 8 + i)
  if s.flag .CBD_OWN_EN (instD d b) && s.get .CBD_SEL_EVENT k == ev &&
      (s.get .CBD_SEL_UNIT k == 0xFF || s.get .CBD_SEL_UNIT k == unit) && (o == 0 || tag == some o)
  then s.put .CBD_CNT_VALUE k (s.get .CBD_CNT_VALUE k + n) else s
def State.countDie (s : State) (d ev unit : Nat) (tag : Option Nat) (n : Nat := 1) : State :=
  (List.range 32).foldl (fun s j => s.countDie1 d (j / 8) (j % 8) ev unit tag n) s

end Sys2Proof.Machine
end

