-- ==== Sys2Proof/Machine/Operands.lean ====
section
/-! DEFINITION. Operand forms: the fields of a submission entry (R34), sources and their world (R32), descriptors and
buffers (R35), the region check of an access (R70), and the shared course of a command from its checks (R36, R38, R39,
R55, R438, R439) to its completion (R28, R31, R37). -/
namespace Sys2Proof
open Sys2Proof.Machine

/-! ### Entry fields (R34) -/

def Entry.opcode (e : Entry) : Nat := bitsOf e.w0.toNat 7 0
def Entry.dmode (e : Entry) : Nat := bitsOf e.w0.toNat 9 8
def Entry.cls (e : Entry) : Nat := bitsOf e.w0.toNat 17 16
def Entry.cid (e : Entry) : Nat := bitsOf e.w0.toNat 47 32
def Entry.polder (e : Entry) : Nat := bitsOf e.w0.toNat 52 48
def Entry.nsid (e : Entry) : Nat := bitsOf e.w1.toNat 31 0
def Entry.p0 (e : Entry) : Nat := e.w6.toNat
def Entry.p1 (e : Entry) : Nat := e.w7.toNat

/-- Bits of an entry that are reserved whatever the opcode (R34). -/
def Entry.reservedZero (e : Entry) : Bool :=
  bitsOf e.w0.toNat 15 10 == 0 && bitsOf e.w0.toNat 31 18 == 0 && bitsOf e.w0.toNat 63 53 == 0 &&
    bitsOf e.w1.toNat 63 32 == 0

/-- Words that the entry's DMODE leaves unused are zero (R36). -/
def Entry.unusedZero (e : Entry) : Bool :=
  match e.dmode with
  | 0 => e.w2 == 0 && e.w3 == 0 && e.w4 == 0 && e.w5 == 0
  | 1 => true
  | 2 => e.w4 == 0 && e.w5 == 0
  | _ => false

/-- An entry of 64 bytes in memory. -/
def entryOf (bs : List Byte) : Entry :=
  let w := fun i => BitVec.ofNat 64 (wordAt bs i)
  { w0 := w 0, w1 := w 1, w2 := w 2, w3 := w 3, w4 := w 4, w5 := w 5, w6 := w 6, w7 := w 7 }

/-! ### Sources (R32) -/

/-- The number of a source: endpoints 0 to 3, mailbox sets 4 to 35, the sideband 36, relaying members from 40 on, by port
and member. -/
def Source.num : Source → Nat
  | .pcie e => e
  | .mailbox p => 4 + p
  | .sideband => 36
  | .cascade c m _ => 40 + c + 4 * m

def Source.agent : Source → Agent
  | .pcie e => .pcie e
  | .mailbox p => .mailbox p
  | .sideband => .sideband
  | .cascade c _ _ => .cascade c

/-- Sources with queues (R32). -/
def Source.hasQueues : Source → Bool
  | .pcie _ => true
  | .mailbox _ => true
  | _ => false

/-- The SPACE values a source accepts (R35); a relayed command what the transport it came from accepts. -/
def Source.spaceOk (src : Source) (sp : Nat) : Bool :=
  match src with
  | .pcie _ => sp == 0
  | .mailbox _ => sp == 1
  | .sideband => sp == 2
  | .cascade _ _ mb => sp == b2n mb

/-- The most a transport carries in one command: 16 MiB (R35), 1,024 B on the sideband (R32), 1 MiB by relay (R383). -/
def Source.bufMax : Source → Nat
  | .sideband => 1024
  | .cascade _ _ _ => 0x100000
  | _ => 0x1000000

end Sys2Proof

namespace Sys2Proof.Machine

/-! ### Sources (R32) -/

/-- CASC_SEC bit of cascade port `c` (WORLD_ATTR). -/
def State.cascSec (s : State) (c : Nat) : Bool := (s.get .WORLD_ATTR_CASC_SEC 0).testBit c

/-- The world of a source (R32, R68): secure or not. -/
def State.srcSecure (s : State) : Source → Bool
  | .pcie e => s.pcieSec e
  | .mailbox p => s.polSecure p
  | .sideband => s.flag .WORLD_ATTR_SIDEBAND_TRUSTED 0
  | .cascade c _ _ => s.cascSec c

/-- A source bound to a polder; secure sources always qualify (R32, R46). -/
def State.srcBound (s : State) (src : Source) (p : Nat) : Bool :=
  s.srcSecure src ||
  match src, s.polder p with
  | .pcie e, some v => v.fns.testBit e
  | .mailbox q, some _ => (q : Nat) == p
  | .sideband, some v => v.sideband
  | .cascade c _ _, some v => v.cports.testBit c
  | _, none => false

/-- The sources in round-robin order (R43). -/
def queueSources : List Source :=
  (List.finRange 4).map .pcie ++ (List.finRange 32).map .mailbox

/-- Queue `q` of source number `n` in the queue tables; the instance of its queue register block. -/
def qKey (n q : Nat) : Nat := n * 64 + q

def State.sq (s : State) (k : Nat) : Option Sq := Tbl.get none s.cp.sqs k
def State.cq (s : State) (k : Nat) : Option Cq := Tbl.get none s.cp.cqs k
def State.setSq (s : State) (k : Nat) (q : Option Sq) : State :=
  s.updCp fun c => { c with sqs := Tbl.set none c.sqs k q }
def State.setCq (s : State) (k : Nat) (q : Option Cq) : State :=
  s.updCp fun c => { c with cqs := Tbl.set none c.cqs k q }

/-! ### The region check (R70) -/

/-- Entry `n` of the region table is valid and covers address `a`. -/
def State.rgnCovers (s : State) (a n : Nat) : Bool :=
  s.flag .RGN_LO_VALID n && decide (s.get .RGN_LO_BASE n * 0x200000 ≤ a) &&
    decide (a ≤ s.get .RGN_HI_LIMIT n * 0x200000 + 0x1FFFFF)

/-- The lowest-numbered entry that covers an address. -/
def State.rgnOf (s : State) (a : Nat) : Option Nat := (List.range 256).find? (s.rgnCovers a)

/-- The check of R70 on tag (`p`, `sec`): `none` allows, `some k` refuses with kind `k` of R77. -/
def State.rgnCheck (s : State) (p : Nat) (sec write : Bool) (a : Nat) : Option Nat :=
  match s.rgnOf a with
  | none => some 4
  | some n =>
    if p = 0 && sec then none
    else if s.flag .RGN_LO_WORLD n && !sec then some 1
    else if !(s.get .RGN_RD_MASK n).testBit p then some 2
    else if write && !(s.get .RGN_WR_MASK n).testBit p then some 3
    else none

/-- The region type of an address is Device (R72); idempotent reads (R116). -/
def State.rgnDevice (s : State) (a : Nat) : Bool :=
  match s.rgnOf a with | some n => s.flag .RGN_LO_TYPE n | none => false
def State.rgnIdemp (s : State) (a : Nat) : Bool :=
  match s.rgnOf a with | some n => s.flag .RGN_LO_IDEMP n | none => false

/-- Every 2 MiB block of a range passes the check. -/
def State.rangeOk (s : State) (p : Nat) (sec write : Bool) (a n : Nat) : Bool :=
  n == 0 || ((List.range ((a + n - 1) / 0x200000 - a / 0x200000 + 1)).all fun i =>
    (s.rgnCheck p sec write (a / 0x200000 * 0x200000 + i * 0x200000)).isNone)

/-! ### Descriptors and buffers (R35) -/

/-- A descriptor: address, length, space and whether its reserved bits are zero. -/
def descLen (w : Word) : Nat := bitsOf w.toNat 31 0
def descSpace (w : Word) : Nat := bitsOf w.toNat 35 32
def descRsvOk (w : Word) : Bool := bitsOf w.toNat 63 36 == 0

/-- One descriptor passes R35: an empty one needs only zero reserved bits. -/
def descOk (src : Source) (d : Word × Word) : Bool :=
  descRsvOk d.2 && (descLen d.2 == 0 || src.spaceOk (descSpace d.2))

/-- The polder whose rights command DMA uses (R68): the polder named, or a mailbox set's own (log entry 9). -/
def dmaPolder (c : Cmd) : Nat :=
  match c.src with
  | .mailbox p => if c.e.polder = 0 then p else c.e.polder
  | _ => c.e.polder

/-- The accept record of a command, if it has one. -/
def State.runningOf (s : State) (c : Cmd) : Option Running :=
  s.cp.running.find? fun r => r.src == c.src && r.sqid == c.sqid && r.e == c.e && !r.attached

/-- The descriptor list that a list pointer names: read from polder memory for a mailbox source. -/
def State.descList (s : State) (c : Cmd) : List (Word × Word) :=
  match c.src with
  | .mailbox _ =>
    (List.range (descLen c.e.w3 / 16)).map fun i =>
      let b := s.readBytes (c.e.w2.toNat + 16 * i) 16
      (BitVec.ofNat 64 (wordAt b 0), BitVec.ofNat 64 (wordAt b 1))
  | _ => c.list.take (descLen c.e.w3 / 16)

/-- The list pointer of DMODE 2 passes R35. -/
def State.listOk (s : State) (c : Cmd) : Bool :=
  if c.e.dmode = 2 then
    descRsvOk c.e.w3 && c.src.spaceOk (descSpace c.e.w3) && descLen c.e.w3 % 16 == 0 &&
      decide (1 ≤ descLen c.e.w3 / 16) && decide (descLen c.e.w3 / 16 ≤ 256) &&
      (match c.src with
       | .mailbox _ => s.rangeOk (dmaPolder c) (s.srcSecure c.src) false c.e.w2.toNat (descLen c.e.w3)
       | _ => true)
  else true

/-- The length of a descriptor list's buffer in bytes. -/
def descsLen (ds : List (Word × Word)) : Nat := (ds.map fun d => descLen d.2).sum

/-- The check of R35 as the state stands: the descriptors, and whether the buffer may be read and may be written. -/
def State.planNow (s : State) (c : Cmd) : BufPlan :=
  let ds := match c.e.dmode with
    | 1 => [(c.e.w2, c.e.w3), (c.e.w4, c.e.w5)]
    | 2 => if s.listOk c then s.descList c else []
    | _ => []
  let form := s.listOk c && ds.all (descOk c.src) && decide (descsLen ds ≤ c.src.bufMax)
  let reach := fun write => match c.src with
    | .mailbox _ => ds.all fun d => s.rangeOk (dmaPolder c) (s.srcSecure c.src) write d.1.toNat (descLen d.2)
    | _ => true
  { descs := ds, rd := form && reach false, wr := form && reach true }

/-- What acceptance found of the command's buffer; a host's list is read when the command executes. -/
def State.plan (s : State) (c : Cmd) : BufPlan :=
  match (s.runningOf c).bind (·.plan) with
  | some p => p
  | none => s.planNow c

/-- The command's descriptors, in order, and the buffer's length in bytes. -/
def State.descs (s : State) (c : Cmd) : List (Word × Word) := (s.plan c).descs
def State.bufLen (s : State) (c : Cmd) : Nat := descsLen (s.descs c)

/-- The command's buffer passes R35 for a transfer that writes it (`out`) or reads it. -/
def State.bufOk (s : State) (c : Cmd) (out : Bool) : Bool := if out then (s.plan c).wr else (s.plan c).rd

/-- The bytes a command takes from its buffer: polder memory of a mailbox source, for a relayed command what came with it (R383). -/
def State.bufBytes (s : State) (c : Cmd) : List Byte :=
  match c.src with
  | .mailbox _ => (s.descs c).flatMap fun d => s.readBytes d.1.toNat (descLen d.2)
  | .cascade _ _ _ => (((s.runningOf c).map (·.data)).getD c.data).take (s.bufLen c)
  | _ => c.data.take (s.bufLen c)

/-- Words of the buffer. -/
def State.bufWord (s : State) (c : Cmd) (i : Nat) : Nat := wordAt (s.bufBytes c) i

/-- Write returned bytes through the descriptors: polder memory, or posted writes to host memory. -/
def scatter (src : Source) (s : State) (ds : List (Word × Word)) (bs : List Byte) : State :=
  match ds with
  | [] => s
  | d :: ds =>
    let n := descLen d.2
    let s := if (bs.take n).isEmpty then s else
      match src with
      | .mailbox _ => s.writeBytes d.1.toNat (bs.take n)
      | .pcie e => s.emit (.hostWrite e d.1.toNat (bs.take n))
      | _ => s
    scatter src s ds (bs.drop n)

/-! ### Completions (R28, R31, R37) -/

/-- STATUS values (R38). -/
def stSuccess : Nat := 0
def stInvalidOpcode : Nat := 1
def stInvalidField : Nat := 2
def stNoSuchObject : Nat := 3
def stInvalidBuffer : Nat := 4
def stBusy : Nat := 5
def stNoResource : Nat := 6
def stNotReady : Nat := 7
def stPowerFail : Nat := 8
def stImageInvalid : Nat := 9
def stImageRevoked : Nat := 10
def stMediaError : Nat := 11

/-- What a command answers: status, RESULT, and bytes for its buffer. -/
structure CmdRes where
  status : Nat
  result : Nat
  out : List Byte
  deriving DecidableEq, Repr

def resOk (r : Nat := 0) : CmdRes := { status := 0, result := r, out := [] }
def resErr (st : Nat) : CmdRes := { status := st, result := 0, out := [] }
def resOut (r : Nat) (bs : List Byte) : CmdRes := { status := 0, result := r, out := bs }

/-- TICK_LO (R37): bits [19:0] of the named polder's tick number, 0 for a tick-free polder. -/
def State.tickLo (s : State) (p : Nat) : Nat :=
  if s.polTickBound p then s.get .TK_NOW_NUM p % 2 ^ 20 else 0

/-- The completion cache a source uses (R31): a host pair shares one in the Guarded configuration, and each relaying member
has one. -/
def State.cacheKey (s : State) (src : Source) : Nat :=
  match src with
  | .pcie e => if s.guardedCfg then (e : Nat) % 2 else e
  | .cascade _ m _ => 40 + m
  | _ => src.num

/-- Opcodes 0x60 to 0x6F are immediate (R45). -/
def immediate (op : Nat) : Bool := 0x60 ≤ op && op ≤ 0x6F

/-- Keep the last 1,024 completions of one cache, and none older than 10 s (R31). -/
def trimCache (k now : Nat) (l : List Cached) : List Cached :=
  let l := l.filter fun x => decide (now ≤ x.ptime + 10000000000)
  let n := (l.filter fun x => x.key == k).length
  if 1024 < n then (l.eraseP fun x => x.key == k) else l

/-- A fresh accept record (R28). -/
def State.acceptRec (s : State) (src : Source) (q : Nat) (e : Entry) (sqHead : Nat) : Running :=
  { src := src, sqid := q, e := e, sqHead := sqHead, at_ := s.now, recEnd := s.get .REC_STAT_NEXT (bitsOf e.p0 0 0), attached := false, plan := none, released := false, begun := false,
    prog := 0, relayTo := none, data := [], discard := false }

/-- Change the accept record of a command that has begun and completes later; one that has none gets one. -/
def State.hold (s : State) (c : Cmd) (prog : Nat := 0) : State :=
  match s.runningOf c with
  | some r => s.updCp fun q => { q with running := q.running.map fun x =>
      if x = r then { x with begun := true, prog := prog } else x }
  | none => s.updCp fun q => { q with running := q.running ++
      [{ s.acceptRec c.src c.sqid c.e 0 with begun := true, prog := prog }] }

/-- The command has begun and completes later. -/
def State.begun (s : State) (c : Cmd) : Bool := (s.runningOf c).any (·.begun)

/-- The objects an entry names, by kind and number (R44): polder, queue, namespace, firmware, configuration record, feature,
attachable object, recorder half, berm resource, the cascade, stream, window set. -/
def namedObjects (src : Source) (e : Entry) : List (Nat × Nat) :=
  let op := e.opcode
  let pol := if op = 0x01 && bitsOf e.p0 3 0 ≠ 2 || op < 0x10 && op ≠ 0x01 && op ≠ 0x03 && op ≠ 0x04 || 0x21 ≤ op && op ≤ 0x23 || e.polder = 0 then []
    else [(0, e.polder)]
  pol ++
    (if op = 0x05 || op = 0x06 then [(1, src.num * 128 + bitsOf e.p0 6 0)]
     else if op = 0x01 && bitsOf e.p0 3 0 = 4 || 0x21 ≤ op && op ≤ 0x23 then [(2, e.nsid)]
     else if op = 0x08 || op = 0x09 || op = 0x02 && bitsOf e.p0 7 0 = 5 then [(3, 0)]
     else if op = 0x0A || op = 0x0B then [(4, 0)]
     else if op = 0x03 || op = 0x04 then [(5, bitsOf e.p0 15 0)]
     else if op = 0x12 || op = 0x13 then [(6, bitsOf e.p0 3 0 * 2 ^ 32 + bitsOf e.p0 63 32)]
     else if op = 0x28 then [(7, bitsOf e.p0 0 0)]
     else if op = 0x30 || op = 0x31 then [(8, bitsOf e.p0 3 0 * 2 ^ 64 + e.p1)]
     else if op = 0x38 || op = 0x39 then [(9, 0)]
     else if op = 0x3D then [(10, bitsOf e.p0 6 0)]
     else if op = 0x40 then [(11, bitsOf e.p0 2 0)]
     else [])

/-- A record that stands before another on the same object (R44): fetched, not immediate, not begun. A JOURNAL_WRITE under way
keeps its place before a later one (R54). -/
def Running.before (x r : Running) : Bool :=
  !immediate x.e.opcode && !x.attached && x.relayTo.isNone &&
    (!x.begun || x.e.opcode == 0x22 && r.e.opcode == 0x22) &&
    (namedObjects x.src x.e).any fun o => (namedObjects r.src r.e).contains o

/-- It is a command's turn (R44): no command fetched before it that names the same object still has to run. Immediate
commands take no part in the order. -/
def State.inTurn (s : State) (c : Cmd) : Bool :=
  immediate c.e.opcode ||
  match s.runningOf c with
  | some r => (s.cp.running.takeWhile (· ≠ r)).all fun x => !x.before r
  | none => true

/-- The completion of one record. -/
def cplOf (r : Running) (res : CmdRes) (tickLo : Nat) : Cpl :=
  { src := r.src, sqid := r.sqid, cid := r.e.cid, status := res.status, result := res.result, sqHead := r.sqHead,
    tickLo := tickLo, pt := none, out := res.out }

/-- Complete a command (R28, R31, R37): its done record stands in `ready` until COMPLETION_POST writes it; attached duplicates
receive the same completion, and a non-immediate command enters the completion cache. That of a command whose function was reset
meanwhile is discarded (R406). `t` is TICK_LO. -/
def State.finishAt (s : State) (c : Cmd) (res : CmdRes) (t : Nat) : State :=
  let gone := (s.runningOf c).any (·.discard)
  let s := if gone then s else scatter c.src s (s.descs c) res.out
  let r : Running := match s.runningOf c with
    | some r => r
    | none => s.acceptRec c.src c.sqid c.e 0
  let k := s.cacheKey c.src
  let dup := fun x : Running => x.attached && s.cacheKey x.src == k && x.e == c.e
  let cs := (if gone then [] else [cplOf r res t]) ++ (s.cp.running.filter dup).map fun x => cplOf x res t
  let run := (s.cp.running.erase r).filter fun x => !dup x
  let cache := if immediate c.e.opcode then s.cp.cache else
    trimCache k s.now (s.cp.cache ++ [{ key := k, e := c.e, status := res.status, result := res.result, tickLo := t,
                                        ptime := s.now }])
  s.updCp fun q => { q with running := run, ready := q.ready ++ cs, cache := cache }

/-- TICK_LO of a completion: of the polder named, to a source that may know it (R37, R39). -/
def State.cmdTick (s : State) (c : Cmd) : Nat := if s.srcBound c.src c.e.polder then s.tickLo c.e.polder else 0
def State.finish (s : State) (c : Cmd) (res : CmdRes) : State := s.finishAt c res (s.cmdTick c)

/-! ### Checks before a command's effect -/

/-- What the opcode table fixes for an opcode (R46): secure-only, whether the command names the polder it acts on, the
DMODEs it uses, whether its buffer is written, and the bits of PARAM0 and PARAM1 its row names. -/
structure OpSpec where
  secureOnly : Bool
  namesPol : Bool
  needsPhase7 : Bool
  powerFail : Bool
  dmodes : List Nat
  writesBuf : Bool
  m0 : Nat
  m1 : Nat
  deriving DecidableEq, Repr

/-- The object of a silenced command in ARG2 of its refusal record (R77). -/
def silenceArg (e : Entry) : Nat :=
  let op := e.opcode
  let kind := if op = 0x60 || op = 0x01 || op = 0x12 || op = 0x13 then bitsOf e.p0 3 0 else 0
  let obj :=
    if op = 0x60 || op = 0x01 && bitsOf e.p0 3 0 ≠ 4 then bitsOf e.p1 31 0
    else if op = 0x12 || op = 0x13 then bitsOf e.p0 63 32
    else if op = 0x3D then bitsOf e.p0 6 0
    else if op = 0x01 || op = 0x21 || op = 0x22 || op = 0x23 then e.nsid
    else 0
  op + e.polder * 256 + kind * 65536 + obj * 2 ^ 32

/-- Silence (R39): the refusal is recorded as kind 0x07 in the active controller's half. -/
def State.silence (s : State) (c : Cmd) : State :=
  s.refuse s.activeHalf c.src.agent c.e.polder (s.srcSecure c.src) (silenceArg c.e) 7

/-- Start-up has not reached phase 7 (R439). -/
def State.starting (s : State) : Bool := s.get .PM_PKG_PHASE 0 < 7

/-- In recovery the sideband alone is served, and of it IDENTIFY, STATUS_READ, FW_DOWNLOAD and FW_COMMIT action 1
(R438). -/
def recoveryAllows (c : Cmd) : Bool :=
  c.src == .sideband &&
    (c.e.opcode == 0x01 || c.e.opcode == 0x60 || c.e.opcode == 0x08 || c.e.opcode == 0x09 && bitsOf c.e.p0 1 0 == 1)

/-- The class of the queue a command came from differs from its CLASS field (R36). -/
def State.classWrong (s : State) (c : Cmd) : Bool :=
  c.src.hasQueues && match s.sq (qKey c.src.num c.sqid) with | some q => q.cls != c.e.cls | none => false

/-- The reserved fields of R36 are zero and the DMODE is one the opcode uses. -/
def OpSpec.fieldsOk (o : OpSpec) (e : Entry) : Bool :=
  e.reservedZero && e.unusedZero && o.dmodes.contains e.dmode && (e.p0 &&& o.m0) == e.p0 && (e.p1 &&& o.m1) == e.p1

/-- The checks every command meets before its own, in this order (log entry 10): recovery, opcode and world, fields, start-up phase,
power fail, the polder named, the buffer. `some (status, silent)` completes it without effect. A non-secure source that names a
polder it is not bound to finds none whatever the opcode (R39), and a polder being deleted is gone (R67). An NSID in a command that
uses none is ignored (DESIGN CHOICE, log entry 145). -/
def State.precheck (s : State) (o : OpSpec) (c : Cmd) : Option (Nat × Bool) :=
  let sec := s.srcSecure c.src || s.cp.recovery
  let p := c.e.polder
  if s.cp.recovery && !recoveryAllows c then some (stNotReady, false)
  else if o.secureOnly && !sec then some (stInvalidOpcode, true)
  else if !(o.fieldsOk c.e) || s.classWrong c then some (stInvalidField, false)
  else if (o.namesPol || o.needsPhase7) && s.starting then some (stNotReady, false)
  else if o.powerFail && s.flag .PM_RAIL_PWRFAIL (instH s.activeHalf 0) then some (stPowerFail, false)
  else if o.namesPol && p = 0 then (if sec then some (stInvalidField, false) else some (stNoSuchObject, true))
  else if p ≠ 0 && !s.srcBound c.src p then some (stNoSuchObject, true)
  else if o.namesPol && c.e.opcode ≠ 0x10 && (s.polder p).all (·.deleting) then some (stNoSuchObject, false)
  else if !(s.bufOk c o.writesBuf) then some (stInvalidBuffer, false)
  else none

/-- Run a command when its turn has come (R44): its shared checks, then its own effect, then its completion. A keep-store
write that needs a spare block when none is left completes NO_RESOURCE (R393). -/
def runCmd (o : OpSpec) (c : Cmd) (body : State → State × CmdRes) (s : State) : State :=
  if !s.inTurn c then s
  else match s.precheck o c with
  | some (st, silent) => (if silent then s.silence c else s).finish c (resErr st)
  | none =>
    if o.powerFail && s.cp.blockFailed then
      (s.updCp fun q => { q with blockFailed := false }).finish c (resErr stNoResource)
    else (body s).1.finish c (body s).2

/-- The same for a command that may complete later: it has begun, and without a result its accept record stays until a later
event completes it. Executed again it goes on as it was (R29). -/
def runCmdLater (o : OpSpec) (c : Cmd) (body : State → State × Option CmdRes) (s : State) : State :=
  if !s.inTurn c || s.begun c then s
  else match s.precheck o c with
  | some (st, silent) => (if silent then s.silence c else s).finish c (resErr st)
  | none => match body (s.hold c) with
    | (t, some r) => t.finish c r
    | (t, none) => t

end Sys2Proof.Machine
end

