-- ==== Sys2Proof/Machine/Queues.lean ====
section
/-! DEFINITION. The hub controller pair, the transports, queues, doorbells, arbitration and completions
(spec/02, R28 to R33, R40 to R45). -/
namespace Sys2Proof.Machine

/-- The outcome of a step of this machine. -/
abbrev Res := Host.Outcome State Fault Refusal

/-! ### Sending on cascade ports (R359, R362 to R364) -/

def CsPort.reset : CsPort :=
  { lseq := 0, got := 0, ackAt := 0, hello := none, cal1 := none, cald := false, sent := [], wait := [] }
def State.updCas (s : State) (f : Casc → Casc) : State := { s with cas := f s.cas }
def State.csPort (s : State) (c : Nat) : CsPort := Tbl.get CsPort.reset s.cas.ports c
def State.updCsPort (s : State) (c : Nat) (f : CsPort → CsPort) : State :=
  s.updCas fun x => { x with ports := Tbl.set CsPort.reset x.ports c (f (s.csPort c)) }
def instPort2 (c : Nat) : Nat := instH (c / 2) (c % 2)

def State.csIndex (s : State) : Nat := s.get .CS_STAT_INDEX 0
def State.csId (s : State) : Nat := s.get .CS_CTL_CASCADE_ID 0

/-- A port is joined and its PCS link up; a lost half has no ports. -/
def State.csLink (s : State) (c : Nat) : Bool :=
  (s.get .CS_CTL_PORTS 0).testBit c && s.flag .CS_PORT_LINK (instPort2 c) && !s.lost (c / 2)
/-- A port carries cascade traffic: HELLO has been exchanged (R359). -/
def State.csUp (s : State) (c : Nat) : Bool := s.csLink c && s.flag .CS_PORT_PEER_OK (instPort2 c)

/-- Put a frame on the wire: it takes the next LSEQ, carries LACK, and stays in the replay buffer. -/
def State.csWire (s : State) (c : Nat) (f : CsFrame) : State :=
  let now := s.now
  let q := s.csPort c
  let f := { f with lseq := (q.lseq + 1) % 65536, lack := q.got }
  (s.updCsPort c fun q =>
    { q with lseq := f.lseq, sent := q.sent ++ [f], ackAt := if q.sent.isEmpty then now else q.ackAt }).emit (.cascade c f)

/-- The class of a kind (R364): TICK, SYNC, CAL and HB first, then control kinds, then the data kinds 0x18 to 0x1B. -/
def csClass (k : Nat) : Nat := if 4 ≤ k ∧ k ≤ 7 then 0 else if 0x18 ≤ k ∧ k ≤ 0x1B then 2 else 1

/-- Send a frame on a port. With 128 frames in the replay buffer it waits behind those of its class (DEDUCED, log entry 171). -/
def State.csTx (s : State) (c : Nat) (f : CsFrame) : State :=
  let q := s.csPort c
  if q.sent.length < 128 && q.wait.isEmpty then s.csWire c f
  else
    let k := csClass f.kind
    s.updCsPort c fun q => { q with wait := q.wait.filter (fun g => decide (csClass g.kind ≤ k)) ++ [f] ++
                                            q.wait.filter (fun g => decide (k < csClass g.kind)) }

/-- Frames that waited take the room the replay buffer has. -/
def State.csDrain (s : State) (c : Nat) : State :=
  let q := s.csPort c
  let n := 128 - q.sent.length
  (q.wait.take n).foldl (fun s f => s.csWire c f) (s.updCsPort c fun q => { q with wait := q.wait.drop n })

/-- LACK advances (R364): the frames it covers leave the replay buffer. -/
def State.csAck (s : State) (c lack : Nat) : State :=
  let now := s.now
  let q := s.csPort c
  let rest := q.sent.filter fun f =>
    let d := (f.lseq + 65536 - lack) % 65536
    decide (0 < d ∧ d ≤ 128)
  if rest.length < q.sent.length then (s.updCsPort c fun q => { q with sent := rest, ackAt := now }).csDrain c else s

/-- A frame of this package, with the TTL of the longest path (R360, R362; log entry 171). -/
def State.csFrame (s : State) (kind dst fseq : Nat) (body : List Nat) : CsFrame :=
  { kind := kind, src := s.csIndex, dst := dst, ttl := 15, fseq := fseq, id := s.csId, lseq := 0, lack := 0, body := body }

/-- Send a frame to the peer of a port. -/
def State.csSend (s : State) (c kind : Nat) (body : List Nat) : State :=
  s.csTx c (s.csFrame kind (s.get .CS_PORT_PEER (instPort2 c)) 0 body)

/-- Send a frame out of every usable port but one. -/
def State.csOut (s : State) (except : Option Nat) (f : CsFrame) : State :=
  (List.range 4).foldl (fun s c => if s.csUp c && except != some c then s.csTx c f else s) s

/-- Flood a frame of this package under its next FSEQ (R362). -/
def State.csFlood (s : State) (kind : Nat) (body : List Nat) : State :=
  let n := s.cas.fseq + 1
  (s.updCas fun x => { x with fseq := n }).csOut none (s.csFrame kind 0 n body)

/-- The best of the ports a member is reached by (R363): the fewest hops, then the lower port. -/
def bestVia : List (Nat × Nat) → Option (Nat × Nat)
  | [] => none
  | x :: xs => match bestVia xs with
    | some y => if x.2 < y.2 ∨ x.2 = y.2 ∧ x.1 ≤ y.1 then some x else some y
    | none => some x

def State.member (s : State) (i : Nat) : Option Member := Tbl.get none s.cas.mems i
/-- The port that routes to a member, and the hops by it (R363). -/
def State.csVia (s : State) (i : Nat) : Option (Nat × Nat) :=
  (s.member i).bind fun m => bestVia (m.via.filter fun x => s.csUp x.1)
def State.csRoute (s : State) (i : Nat) : Option Nat := (s.csVia i).map (·.1)

/-- Send an unflooded frame by the route to its destination; one without a route is dropped. -/
def State.csSendTo (s : State) (dst kind : Nat) (body : List Nat) : State :=
  match s.csRoute dst with
  | some c => s.csTx c (s.csFrame kind dst 0 body)
  | none => s

/-- Send a relayed entry or completion with its data (R362, R383): a frame's payload is at most 4,096 B, so what does not fit
beside the head follows in further frames (DESIGN CHOICE, log entry 171). -/
def State.csRelaySend (s : State) (dst kind : Nat) (head : List Nat) (data : List Byte) : State :=
  let bytes := data.map (·.toNat)
  let rest := bytes.drop 4032
  (List.range ((rest.length + 4095) / 4096)).foldl (fun s i => s.csSendTo dst kind ((rest.drop (4096 * i)).take 4096))
    (s.csSendTo dst kind (head ++ [bytes.length] ++ bytes.take 4032))

/-- Frame kinds (R363). -/
def csHello : Nat := 1
def csMember : Nat := 2
def csElect : Nat := 3
def csCal : Nat := 4
def csSync : Nat := 5
def csTick : Nat := 6
def csHb : Nat := 7
def csRecon : Nat := 8
def csRelayCmd : Nat := 0x10
def csRelayCpl : Nat := 0x11
def csPut : Nat := 0x18
def csPutAck : Nat := 0x19
def csGetReq : Nat := 0x1A
def csGetData : Nat := 0x1B
def csLeave : Nat := 0x1F

/-- Answer the member whose PUT or GET_REQ a bank request served (R380, R382). -/
def State.casAnswer (s : State) (m : Msg) (kind : Nat) (words : List Nat) : State :=
  match s.cas.reqs.find? fun x => x.stop == m.dst && x.tx == m.txid with
  | some x =>
    (s.updCas fun c => { c with reqs := c.reqs.erase x }).csSendTo x.member kind
      ([x.arg.pol.val, x.arg.win.val, x.arg.off.toNat] ++ words)
  | none => s

/-- The words of an entry. -/
def entryWords (e : Entry) : List Nat :=
  [e.w0.toNat, e.w1.toNat, e.w2.toNat, e.w3.toNat, e.w4.toNat, e.w5.toNat, e.w6.toNat, e.w7.toNat]

/-- Opcodes whose buffer is written rather than read (R46). -/
def outOpcodes : List Nat := [0x01, 0x02, 0x0B, 0x23, 0x28]

/-- Relay an accepted entry to member `i` (R383), with its outgoing buffer data: it waits for RELAY_CPL. A buffer that its own
transport does not accept, or beyond 1 MiB, completes the command with INVALID_BUFFER; a member that cannot be reached with
NO_SUCH_OBJECT (DESIGN CHOICE, log entry 172). -/
def State.relay (s : State) (c : Cmd) (i : Nat) (r : Running) : State :=
  let p := s.planNow c
  let out := outOpcodes.contains c.e.opcode
  let s := s.updCp fun q => { q with running := q.running ++ [{ r with plan := some p, relayTo := some i }] }
  if !(if out then p.wr else p.rd) || 0x100000 < descsLen p.descs then s.finish c (resErr stInvalidBuffer)
  else if (s.csRoute i).isNone then s.finish c (resErr stNoSuchObject)
  else s.csRelaySend i csRelayCmd (b2n (4 ≤ c.src.num) :: entryWords c.e) (if out then [] else s.bufBytes c)

/-! ### Queues and doorbells (R40 to R42) -/

/-- The number of entries between two positions of a ring. -/
def ringDist (size a b : Nat) : Nat := if size = 0 then 0 else (b + size - a % size) % size

/-- A ring of S entries is full when it holds S − 1 (R40). -/
def Cq.full (q : Cq) : Bool := ringDist q.size q.head q.tail + 1 == q.size

/-- A new SQ tail is accepted: below the size, and not a move onto the head (R41). -/
def Sq.tailOk (q : Sq) (v : Nat) : Bool := decide (v < q.size) && !(v == q.head && v != q.tail) && !q.deleting

/-- A new CQ head is accepted: below the size, and not past the tail (R41). -/
def Cq.headOk (q : Cq) (v : Nat) : Bool :=
  decide (v < q.size) && decide (ringDist q.size q.head v ≤ ringDist q.size q.head q.tail)

/-- Ignore a doorbell: QRB_STAT.DB_ERR (R41). -/
def State.dbErr (s : State) (n : Nat) : State := s.setFlag .QRB_STAT_DB_ERR (qKey n 0) true

/-- A doorbell write to SQ `q` of source `n` (R41). -/
def State.sqDoorbell (s : State) (n q v : Nat) : State :=
  match s.sq (qKey n q) with
  | some r =>
    if r.tailOk (v % 4096) then
      (s.setSq (qKey n q) (some { r with tail := v % 4096 })).put .SQ_DB_VALUE (qKey n q) v
    else s.dbErr n
  | none => s.dbErr n

/-- The slots from one ring index up to another. -/
def ringSlots (size a b : Nat) : List Nat := (List.range (ringDist size a b)).map fun i => (a + i) % size

/-- A doorbell out of a deferred queue has moved a tail from `old`: the commands it submits are released ones (R102). -/
def State.releaseFrom (s : State) (i old : Nat) : State :=
  match s.sq i with
  | some r => s.setSq i (some { r with rel := r.rel ++ ringSlots r.size old r.tail })
  | none => s

/-- The posted completions of CQ `q` of source `n` that a move of its head to `v` leaves in the ring (R28). -/
def Cq.stays (r : Cq) (v : Nat) (n q : Nat) (x : Posted) : Bool :=
  !(x.n == n && x.cq == q) || decide (ringDist r.size r.head v ≤ ringDist r.size r.head x.slot)

/-- A doorbell write to CQ `q` of source `n` (R41). -/
def State.cqDoorbell (s : State) (n q v : Nat) : State :=
  match s.cq (qKey n q) with
  | some r =>
    if r.headOk (v % 4096) then
      ((s.setCq (qKey n q) (some { r with head := v % 4096 })).updCp fun c =>
        { c with posted := c.posted.filter (r.stays (v % 4096) n q) }).put .CQ_DB_VALUE (qKey n q) v
    else s.dbErr n
  | none => s.dbErr n

/-- SQ_DB (R41). -/
def execSqDb (src : Source) (q : Fin 64) (v : Word) (s : State) : Res := .next (s.sqDoorbell src.num q v.toNat)

/-- INTx line of an endpoint after a change (R422): asserted while MSI-X and Interrupt Disable are off and an IEN CQ
holds an entry beyond its head doorbell value. -/
def State.intxWanted (s : State) (e : Nat) : Bool :=
  !((s.cfgHalf e 0xB2).testBit 15) && !((s.cfgHalf e 0x04).testBit 10) &&
    (List.range 64).any fun q =>
      match s.cq (qKey e q) with | some c => c.ien && c.head != c.tail | none => false

def State.intxUpdate (s : State) (e : Nat) : State :=
  if s.intxWanted e == (s.peSt e).intx then s
  else (s.updPe e fun p => { p with intx := !p.intx }).emit (.intx e (s.intxWanted e))

/-- CQ_DB (R41): consuming entries may release the endpoint's INTx line (R422). -/
def execCqDb (src : Source) (q : Fin 64) (v : Word) (s : State) : Res :=
  let s := s.cqDoorbell src.num q v.toNat
  .next (match src with | .pcie e => s.intxUpdate e | _ => s)

/-- The source of number `n`, of those with queues. -/
def sourceOf (n : Nat) : Source :=
  if h : n < 4 then .pcie ⟨n, h⟩
  else if h : n - 4 < 32 then .mailbox ⟨n - 4, h⟩
  else .sideband

/-- Queue 0 of a block whose EN is 1 (R40): class Urgent, bases and sizes from the registers; the admin CQ of an
endpoint signals on vector 0, that of a mailbox set raises no interrupt. -/
def State.adminLive (s : State) (src : Source) : State :=
  let n := src.num
  let i := qKey n 0
  let sz := s.get .QRB_CTL_ASQ_SIZE i
  let cz := s.get .QRB_CTL_ACQ_SIZE i
  if sz < 1 || cz < 1 then s
  else
    ((s.setSq i (some { base := s.get .ASQ_BASE_BASE i * 4096, size := sz + 1, cls := 0, cq := 0, head := 0, tail := 0,
                        deleting := false, delCmd := none, relay := none, rel := [] })).setCq i
      (some { base := s.get .ACQ_BASE_BASE i * 4096, size := cz + 1, vector := 0,
              ien := (match src with | .pcie _ => true | _ => false), head := 0, tail := 0, phase := true })).setFlag
      .QRB_STAT_RDY i true

/-- EN is set (R40): the admin queue goes live unless a size is below 1. Set again while the block still stops, it goes live once
the block has stopped (DESIGN CHOICE, log entry 146). -/
def State.qrbStart (s : State) (src : Source) : State :=
  let i := qKey src.num 0
  if s.flag .QRB_CTL_EN i || s.flag .QRB_STAT_RDY i then s.setFlag .QRB_CTL_EN i true
  else (s.setFlag .QRB_CTL_EN i true).adminLive src

/-- QRB_ENABLE (R40). -/
def execQrbEnable (src : Source) (s : State) : Res := .next (s.qrbStart src)

/-- Source `n` has commands fetched and not yet posted. -/
def State.outstanding (s : State) (n : Nat) : Bool :=
  s.cp.running.any (fun r => r.src.num == n && !r.discard) || s.cp.ready.any (fun r => r.src.num == n)

/-- Remove every queue of source `n`. -/
def State.dropQueues (s : State) (n : Nat) : State :=
  s.updCp fun c => { c with sqs := c.sqs.filter fun x => x.1 / 64 != n, cqs := c.cqs.filter fun x => x.1 / 64 != n,
                            posted := c.posted.filter fun x => x.n != n }

/-- A block that was told to stop (QRB_CTL.EN = 0) and whose fetched commands have all completed deletes its queues
and clears RDY (QRB_CTL.EN); where EN is 1 again by then, it starts. -/
def State.qrbSettle (s : State) (n : Nat) : State :=
  if s.cp.stopping.contains n && !s.outstanding n then
    let s := ((s.dropQueues n).setFlag .QRB_STAT_RDY (qKey n 0) false).updCp fun c =>
      { c with stopping := c.stopping.filter fun x => x != n }
    if s.flag .QRB_CTL_EN (qKey n 0) then s.adminLive (sourceOf n) else s
  else s

/-- Clear QRB_CTL.EN of source `n` and stop fetching from it. -/
def State.qrbStop (s : State) (n : Nat) : State :=
  ((s.setFlag .QRB_CTL_EN (qKey n 0) false).updCp fun c =>
    { c with stopping := if c.stopping.contains n then c.stopping else n :: c.stopping }).qrbSettle n

/-- QRB_DISABLE (R40, R8). -/
def execQrbDisable (src : Source) (s : State) : Res := .next (s.qrbStop src.num)

/-! ### Arbitration (R43) -/

def Wrr.init : Wrr := { wH := 16, wM := 4, wL := 1, cls := 1, used := 0, lastU := 0, lastH := 0, lastM := 0, lastL := 0 }
def State.wrr (s : State) (n : Nat) : Wrr := Tbl.get Wrr.init s.cp.wrr n
def State.updWrr (s : State) (n : Nat) (f : Wrr → Wrr) : State :=
  s.updCp fun c => { c with wrr := Tbl.set Wrr.init c.wrr n (f (s.wrr n)) }

/-- The controller may reach host memory through a function: Bus Master Enable is 1, D0, and no function reset is under way
(R406, R407, R418). -/
def State.dmaOn (s : State) (e : Nat) : Bool :=
  (s.cfgHalf e 0x04).testBit 2 && !s.flag .PE_STAT_D3 (instPe e) && s.flag .PE_STAT_READY (instPe e)

/-- Queue `q` of source `n` may be fetched from: live, not stopping, not deleting, not empty, and for a function DMA is on. -/
def State.sqPending (s : State) (n q : Nat) : Bool :=
  (4 ≤ n || s.dmaOn n) && !s.cp.stopping.contains n && s.flag .QRB_CTL_EN (qKey n 0) && s.flag .QRB_STAT_RDY (qKey n 0) &&
    match s.sq (qKey n q) with
    | some r => r.head != r.tail && !r.deleting
    | none => false

/-- The class of queue `q`. -/
def State.sqCls (s : State) (n q : Nat) : Nat :=
  match s.sq (qKey n q) with | some r => r.cls | none => 4

/-- A sideband or relayed entry of class `k` waits from source `n` (R32). -/
def directOf (n k : Nat) (x : Source × Entry × List Byte) : Bool := x.1.num == n && x.2.1.cls == k

/-- An entry of class `k` waits in queue `q` of source `n`; a source without queues counts as one queue. -/
def State.waitsIn (s : State) (n k q : Nat) : Bool :=
  if n < 36 then s.sqPending n q && s.sqCls n q == k else q == 0 && s.cp.direct.any (directOf n k)

/-- The next queue of class `k` of source `n` in round robin after queue `last`. -/
def State.nextQueue (s : State) (n k last : Nat) : Option Nat :=
  ((List.range 64).map fun i => (last + 1 + i) % 64).find? (s.waitsIn n k)

/-- The next source, in round robin after source number `last`, that a test accepts: queue sources, the sideband, members. -/
def nextSource (last : Nat) (ok : Nat → Bool) : Option Nat :=
  ((List.range 104).map fun i => (last + 1 + i) % 104).find? ok

/-- The weight of a class. -/
def Wrr.weight (w : Wrr) (k : Nat) : Nat := if k = 1 then w.wH else if k = 2 then w.wM else w.wL
/-- The queue served last in a class. -/
def Wrr.last (w : Wrr) (k : Nat) : Nat :=
  if k = 0 then w.lastU else if k = 1 then w.lastH else if k = 2 then w.lastM else w.lastL
def Wrr.setLast (w : Wrr) (k q : Nat) : Wrr :=
  if k = 0 then { w with lastU := q } else if k = 1 then { w with lastH := q } else if k = 2 then { w with lastM := q }
  else { w with lastL := q }

/-- One turn of weighted round robin in source `n`: from the class in turn, a class with nothing pending or its weight
used up is passed over; a round is High, Medium, Low. `fuel` 4 visits every class and the first again. -/
def State.wrrPick (s : State) (n : Nat) : Nat → Wrr → Option (Nat × Wrr)
  | 0, _ => none
  | fuel + 1, w =>
    match (if w.used < w.weight w.cls then s.nextQueue n w.cls (w.last w.cls) else none) with
    | some q => some (q, ({ w with used := w.used + 1 }).setLast w.cls q)
    | none => s.wrrPick n fuel { w with cls := w.cls % 3 + 1, used := 0 }

/-- Source, queue and class the controller fetches from next: an Urgent entry anywhere first, else the next source's weighted
round robin. -/
def State.pickQueue (s : State) : Option (Nat × Nat × Nat × State) :=
  match nextSource s.cp.lastUrgent (fun n => (s.nextQueue n 0 (s.wrr n).lastU).isSome) with
  | some n =>
    match s.nextQueue n 0 (s.wrr n).lastU with
    | some q => some (n, q, 0, (s.updWrr n fun w => w.setLast 0 q).updCp fun c => { c with lastUrgent := n })
    | none => none
  | none =>
    match nextSource s.cp.lastSrc (fun n => (s.wrrPick n 4 (s.wrr n)).isSome) with
    | some n =>
      match s.wrrPick n 4 (s.wrr n) with
      | some (q, w) => some (n, q, w.cls, (s.updWrr n fun _ => w).updCp fun c => { c with lastSrc := n })
      | none => none
    | none => none

/-- A polder's ring access outside its rights is refused silently: zeros (R40, R74, R77). -/
def State.ringRead (s : State) (p a n : Nat) : State × List Byte :=
  match s.rgnCheck p (s.polSecure p) false a with
  | none => (s, s.readBytes a n)
  | some k =>
    match sourceOf (4 + p) with
    | .mailbox q => (s.refuse (homeHalf a) (.mailbox q) p (s.polSecure p) a k, List.replicate n 0)
    | _ => (s, List.replicate n 0)
def State.ringWrite (s : State) (p a : Nat) (bs : List Byte) : State :=
  match s.rgnCheck p (s.polSecure p) true a with
  | none => s.writeBytes a bs
  | some k =>
    match sourceOf (4 + p) with
    | .mailbox q => s.refuse (homeHalf a) (.mailbox q) p (s.polSecure p) a k
    | _ => s

/-- The assigned opcodes (R46). -/
def assignedOpcodes : List Nat :=
  [0x01, 0x02, 0x03, 0x04, 0x05, 0x06, 0x08, 0x09, 0x0A, 0x0B, 0x10, 0x11, 0x12, 0x13, 0x18, 0x19, 0x20, 0x21, 0x22,
   0x23, 0x28, 0x30, 0x31, 0x38, 0x39, 0x3C, 0x3D, 0x40, 0x60, 0x61, 0x62, 0x63, 0x64, 0x65, 0x66, 0x67, 0x68]

/-- Opcodes a non-secure source may not send (R46): its row names only a secure sender. -/
def secureOpcodes : List Nat :=
  [0x08, 0x09, 0x0A, 0x0B, 0x10, 0x11, 0x12, 0x13, 0x18, 0x20, 0x21, 0x30, 0x31, 0x38, 0x39, 0x3C, 0x3D, 0x40]

/-- A submission answered from the completion cache (R31): the cached RESULT, STATUS, TICK_LO and PTIME with the new
submission's SQID, SQHEAD and phase. -/
def State.cacheHit (s : State) (src : Source) (e : Entry) : Option Cached :=
  if immediate e.opcode then none
  else s.cp.cache.find? fun x => x.key == s.cacheKey src && x.e == e && decide (s.now ≤ x.ptime + 10000000000)

/-- The completion a cache hit posts. -/
def cachedCpl (src : Source) (q sqHead : Nat) (x : Cached) : Cpl :=
  { src := src, sqid := q, cid := x.e.cid, status := x.status, result := x.result, sqHead := sqHead,
    tickLo := x.tickLo, pt := some x.ptime, out := [] }

/-- Accept one submission (R28, R31, R38, R39): answered from the cache, attached to the identical running command, relayed
to a member (R383), refused as an unassigned or secure-only opcode, or given an accept record. The buffer of a mailbox source
is checked here (R35). -/
def State.accept (s : State) (c : Cmd) (sqHead : Nat) (relay : Option Nat) (rel : Bool := false) : State :=
  let r := { s.acceptRec c.src c.sqid c.e sqHead with released := rel }
  match s.cacheHit c.src c.e with
  | some x => s.updCp fun q => { q with ready := q.ready ++ [cachedCpl c.src c.sqid sqHead x] }
  | none =>
    if !immediate c.e.opcode && s.cp.running.any (fun x => !x.attached && s.cacheKey x.src == s.cacheKey c.src && x.e == c.e)
    then s.updCp fun q => { q with running := q.running ++ [{ r with attached := true }] }
    else match relay with
    | some i => s.relay c i r
    | none =>
      let bad := !assignedOpcodes.contains c.e.opcode
      let hid := secureOpcodes.contains c.e.opcode && !(s.srcSecure c.src || s.cp.recovery)
      let r := match c.src with
        | .mailbox _ => { r with plan := some (s.planNow c) }
        | .cascade _ _ _ => { r with data := c.data }
        | _ => r
      let s := s.updCp fun q => { q with running := q.running ++ [r] }
      if bad && !s.cp.recovery then s.finish c (resErr stInvalidOpcode)
      else if hid then (s.silence c).finish c (resErr stInvalidOpcode)
      else if s.cp.recovery && !recoveryAllows c then s.finish c (resErr stNotReady)
      else s

/-- A non-immediate entry finds 256 non-immediate commands in execution (R44). -/
def State.full256 (s : State) (e : Entry) : Bool :=
  !immediate e.opcode && decide (256 ≤ (s.cp.running.filter fun x => !immediate x.e.opcode).length)

/-- Fetch from queue `q` of source `n`, if the entry may be fetched: the entry of a host queue is what the host memory read returns,
that of a mailbox ring is read from polder memory. -/
def State.fetchQueue (s : State) (n q : Nat) (r : Sq) (e : Entry) (list : List (Word × Word)) (data : List Byte) : Option State :=
  let (s2, e) := if n < 4 then (s.emit (.hostRead n (r.base + r.head * 64) 64), e)
    else let (t, bs) := s.ringRead (n - 4) (r.base + r.head * 64) 64; (t, entryOf bs)
  if s2.full256 e then none
  else
    let hd := (r.head + 1) % r.size
    some ((s2.setSq (qKey n q) (some { r with head := hd, rel := r.rel.filter (· != r.head) })).accept
      { src := sourceOf n, sqid := Fin.ofNat 64 q, e := e, list := list, data := data } hd r.relay (r.rel.contains r.head))

/-- COMMAND_FETCH (R43): the arbiter's entry is fetched, unless no controller serves or 256 non-immediate commands run (R44).
`list` and `data` are what a relayed host command's buffer holds. -/
def execCommandFetch (e : Entry) (list : List (Word × Word)) (data : List Byte) (s : State) : Res :=
  match (if s.cp.fatalSince.isSome then none else s.pickQueue) with
  | none => .next s
  | some (n, q, k, s1) =>
    match s1.sq (qKey n q), s.cp.direct.find? (directOf n k) with
    | some r, _ => .next ((s1.fetchQueue n q r e list data).getD s)
    | none, some x =>
      .next (if s.full256 x.2.1 then s
        else (s1.updCp fun c => { c with direct := c.direct.erase x }).accept
          { src := x.1, sqid := 0, e := x.2.1, list := [], data := x.2.2 } 0 none)
    | none, none => .next s

/-- SIDEBAND_REQUEST (R32): one command at a time, which waits for the arbiter; a request before the previous response was
sent is discarded whole. -/
def execSidebandRequest (e : Entry) (s : State) : Res :=
  .next (if s.cp.sidebandBusy then s
         else s.updCp fun c => { c with sidebandBusy := true, direct := c.direct ++ [(.sideband, e, [])] })

/-! ### Completions (R37, R41) -/

/-- The four words of a completion entry (R37). -/
def cplWords (x : Cpl) (phase : Bool) (t : Nat) : List Nat :=
  [x.result % 2 ^ 64, x.result / 2 ^ 64 % 2 ^ 64,
   x.cid + x.status * 2 ^ 16 + x.sqid * 2 ^ 24 + b2n phase * 2 ^ 31 + x.sqHead * 2 ^ 32 + x.tickLo * 2 ^ 44, t]

/-- Signal a CQ's completion notice (R32, R421, R422): with MSI-X the vector's message waits for MSIX_MESSAGE, which keeps
messages of one vector at least 1 µs apart; else INTx. -/
def State.msixSend (s : State) (e vec : Nat) : State :=
  if 2048 ≤ vec then s
  else if !(s.cfgHalf e 0xB2).testBit 15 then s.intxUpdate e
  else s.updPe e fun p => { p with msixHeld := insertAsc vec p.msixHeld }

/-- The completion interrupt of one CQ. -/
def State.cqSignal (s : State) (src : Source) (k : Nat) (q : Cq) : State :=
  if !q.ien then s
  else match src with
    | .pcie e => s.msixSend e q.vector
    | .mailbox p => s.raiseInt p q.vector (0x100 + k)
    | _ => s

/-- Write the bytes of a completion entry to the ring of a source. -/
def State.cplWrite (s : State) (src : Source) (a : Nat) (bs : List Byte) : State :=
  match src with
  | .pcie e => s.emit (.hostWrite e a bs)
  | .mailbox p => s.ringWrite p a bs
  | _ => s

/-- Write one completion entry to its CQ: the slot at the tail, the current phase, inverted each time the tail wraps. -/
def State.postTo (s : State) (src : Source) (k : Nat) (q : Cq) (x : Cpl) : State :=
  let t := x.pt.getD s.now
  let bs := wordsLe (cplWords x q.phase t)
  let a := q.base + q.tail * 32
  let nt := (q.tail + 1) % q.size
  let q' := { q with tail := nt, phase := if nt = 0 then !q.phase else q.phase }
  let s := (s.setCq (qKey src.num k) (some q')).updCp fun c =>
    { c with posted := c.posted ++ [{ n := src.num, cq := k, slot := q.tail, addr := a, data := bs }] }
  (s.cplWrite src a bs).cqSignal src k q'

/-- The CQ a ready completion goes to. -/
def State.cplCq (s : State) (x : Cpl) : Option Nat :=
  match s.sq (qKey x.src.num x.sqid) with | some q => some q.cq | none => none

/-- Every command fetched from SQ `k` has completed into its CQ. -/
def State.sqDone (s : State) (k : Nat) : Bool :=
  !(s.cp.running.any fun r => qKey r.src.num r.sqid == k && !r.discard) && !(s.cp.ready.any fun r => qKey r.src.num r.sqid == k)

/-- An SQ whose QUEUE_DELETE waits and whose commands have all completed is gone, and the command completes (R42). -/
def State.sqSettle (s : State) (k : Nat) : State :=
  match s.sq k with
  | some q =>
    match q.delCmd with
    | some c => if s.sqDone k then (s.setSq k none).finish c resOk else s
    | none => s
  | none => s

/-- COMPLETION_POST (R37, R41): the oldest ready completion for the CQ is written, or held while the CQ is full. For
the sideband it is the response message, for a relayed command the RELAY_CPL (R383). -/
def execCompletionPost (src : Source) (cq : Fin 64) (s : State) : Res :=
  let mine := fun x : Cpl => x.src == src && (!src.hasQueues || s.cplCq x == some (cq : Nat))
  match s.cp.ready.find? mine with
  | none => .next s
  | some x =>
    let s1 := s.updCp fun c => { c with ready := c.ready.eraseP mine }
    match src with
    | .sideband =>
      .next ((s1.updCp fun c => { c with sidebandBusy := false }).emit (.sideband (cplWords x false (x.pt.getD s.now)) x.out))
    | .cascade _ m _ =>
      .next (s1.csRelaySend m csRelayCpl (cplWords x false (x.pt.getD s.now)) x.out)
    | _ =>
      match s1.cq (qKey src.num cq) with
      | none => .next (s1.qrbSettle src.num)
      | some q =>
        if q.full || src.num < 4 && !s1.dmaOn src.num then .next s
        else .next (((s1.postTo src cq q x).sqSettle (qKey src.num x.sqid)).qrbSettle src.num)

/-! ### The controller pair (R28 to R30) -/

/-- Every QRB: endpoints and mailbox sets. -/
def State.onQrbs (s : State) (f : State → Nat → State) : State := (List.range 36).foldl f s

/-- No controller can serve the queues: QRB_STAT.FATAL on every block, and AER at every endpoint (R419). -/
def State.fatal (s : State) : State :=
  let s := s.onQrbs fun s n => s.setFlag .QRB_STAT_FATAL (qKey n 0) true
  let s := (List.range 4).foldl (fun s e =>
    if s.isEndpoint e then s.aer e true true aerUncInternal (aerHeader 0 0 0xFF 0 s.now) else s) s
  s.updCp fun c => { c with fatalSince := some s.now }

/-- A controller can serve them again. -/
def State.unfatal (s : State) : State :=
  (s.onQrbs fun s n => s.setFlag .QRB_STAT_FATAL (qKey n 0) false).updCp fun c => { c with fatalSince := none }

/-- The boot choice and the slots the controllers run; an entry of the firmware log whose bits change takes the PTIME of the
change (R57). -/
def State.setRuns (s : State) (boot : Nat) (ra rs : Option Nat) : State :=
  let moved := fun k : Nat => (s.cp.bootChoice == k) != (boot == k) || (s.cp.runActive == some k) != (ra == some k) ||
    (s.cp.runStandby == some k) != (rs == some k)
  s.updCp fun q => { q with
    bootChoice := boot, runActive := ra, runStandby := rs,
    slotA := if moved 0 then { q.slotA with changed := s.now } else q.slotA,
    slotB := if moved 1 then { q.slotB with changed := s.now } else q.slotB }

/-- Write every recorded completion again, to the same slot with the same bytes (R29). -/
def State.repost (s : State) : State := s.cp.posted.foldl (fun s x => s.cplWrite (sourceOf x.n) x.addr x.data) s

/-- An activation that the loss of the active controller meets before its standby has verified the new image (R397): the boot
choice reverts and the command completes NOT_READY. -/
def State.liveLost (s : State) : State :=
  match s.cp.live with
  | some l => if l.swapped then s
    else ((s.setRuns l.oldBoot s.cp.runActive s.cp.runStandby).updCp fun q => { q with live := none }).finish l.cmd
      (resErr stNotReady)
  | none => s

/-- The role moves to the standby (R29): every completion posted is written again, commands with an accept record stay to be
executed again from their start, and every QRB shows TAKEOVER. The standby's place stays empty until a controller joins. -/
def State.swapRoles (s : State) (cause : Nat) : State :=
  let a := 1 - s.activeHalf
  let s := (((s.put .CP_ROLE_ACTIVE 0 a).put .CP_ROLE_LAST_CAUSE 0 cause).bump .CP_ROLE_TAKEOVERS 0 1).setFlag
    .CP_ROLE_STANDBY_READY 0 false
  let s := s.onQrbs fun s n => s.setFlag .QRB_STAT_TAKEOVER (qKey n 0) true
  let s := (s.setRuns s.cp.bootChoice s.cp.runStandby none).updCp fun c =>
    { c with hbMissed := 0, running := c.running.map fun r => { r with prog := 0 } }
  s.repost.logSec a 44 0x10 [a, cause]

/-- The standby takes over from a failed controller. Without a ready standby no controller is left. -/
def State.takeover (s : State) (cause : Nat) : State :=
  if s.flag .CP_ROLE_STANDBY_READY 0 then (s.swapRoles cause).liveLost else s.fatal

/-- The standby controller is out: nothing is left in reserve (R30). -/
def State.standbyGone (s : State) : State :=
  (s.setFlag .CP_ROLE_STANDBY_READY 0 false).setRuns s.cp.bootChoice s.cp.runActive none

/-- HC_HEARTBEAT (R29): three heartbeats missed in a row make the standby take over. -/
def execHcHeartbeat (arrives : Bool) (s : State) : Res :=
  .next (if arrives then s.updCp fun c => { c with hbMissed := 0 }
         else if s.cp.hbMissed + 1 < 3 then s.updCp fun c => { c with hbMissed := c.hbMissed + 1 }
         else (s.updCp fun c => { c with hbMissed := 0 }).takeover 1)

/-- CONTROLLER_TAKEOVER (R29): cause 0x2 when the active half is lost, else 0x1. -/
def execControllerTakeover (s : State) : Res :=
  .next (s.takeover (if s.lost s.activeHalf then 2 else 1))

/-- The other controller may stand by: its half is in service, it is not retired, and the package is not in recovery. -/
def State.mayStandBy (s : State) : Bool :=
  !s.lost (1 - s.activeHalf) && !s.cp.recovery && !(s.berm.retired.any fun x => x.1 == 7 && x.2.1 == 1 - s.activeHalf)

/-- An activation after its standby has loaded the image (R56): verified, the roles swap as a planned handover; the former
active controller, restarted from the slot, becomes standby and the command completes. An image that fails there stops the
activation: IMAGE_INVALID, the boot choice reverts, and service continues on the old image. -/
def State.liveStep (s : State) (l : Live) (imageGood : Bool) : State :=
  if l.swapped then
    if imageGood && s.mayStandBy then
      (((s.setFlag .CP_ROLE_STANDBY_READY 0 true).setRuns s.cp.bootChoice s.cp.runActive (some l.slot)).updCp fun q =>
        { q with live := none }).finish l.cmd (resOk (if l.slot = 0 then s.cp.slotA.version else s.cp.slotB.version))
    else s
  else if imageGood then
    ((s.setRuns s.cp.bootChoice s.cp.runActive (some l.slot)).swapRoles 3).updCp fun q =>
      { q with live := some { l with swapped := true } }
  else
    ((s.setRuns l.oldBoot s.cp.runActive s.cp.runStandby).updCp fun q => { q with live := none }).finish l.cmd
      (resErr stImageInvalid)

/-- STANDBY_REJOIN (R30): a controller whose half is in service and whose image verifies copies the active state. In
recovery neither controller is standby. While an activation is under way it is the controller that the activation restarts. -/
def execStandbyRejoin (imageGood : Bool) (s : State) : Res :=
  .next (match s.cp.live with
    | some l => s.liveStep l imageGood
    | none =>
      if imageGood && s.mayStandBy then
        ((s.setFlag .CP_ROLE_STANDBY_READY 0 true).setRuns s.cp.bootChoice s.cp.runActive s.cp.runActive).unfatal
      else s)

/-! ### QUEUE_CREATE and QUEUE_DELETE (R42) -/

def specQueueCreate : OpSpec :=
  { secureOnly := false, namesPol := false, needsPhase7 := false, powerFail := false, dmodes := [0], writesBuf := false,
    m0 := 0xFFF3F37FFFF, m1 := 0xFFFFFFFFFFFFFFFF }

/-- The command came on queue 0 of an endpoint or mailbox set (R38). -/
def onQueue0 (c : Cmd) : Bool := c.src.hasQueues && c.sqid == 0

/-- A mailbox set's new ring passes R35 as a buffer: read right for an SQ, read and write for a CQ. -/
def State.ringOk (s : State) (src : Source) (isCq : Bool) (base n : Nat) : Bool :=
  match src with
  | .mailbox p =>
    let len := n * (if isCq then 32 else 64)
    s.rangeOk p (s.polSecure p) false base len && (!isCq || s.rangeOk p (s.polSecure p) true base len)
  | _ => true

/-- The effect of QUEUE_CREATE on a source's queues. -/
def State.queueCreate (s : State) (c : Cmd) : State × CmdRes :=
  let p := c.e.p0
  let qid := bitsOf p 5 0
  let isCq := bitOf p 6
  let n := bitsOf p 18 7 + 1
  let k := qKey c.src.num qid
  let cqk := qKey c.src.num (bitsOf p 29 24)
  if !onQueue0 c then (s, resErr stInvalidOpcode)
  else if qid = 0 || n < 2 || c.e.p1 % 4096 ≠ 0 then (s, resErr stInvalidField)
  else if isCq then
    if (s.cq k).isSome || bitsOf p 21 20 ≠ 0 || bitsOf p 29 24 ≠ 0 then (s, resErr stInvalidField)
    else if !s.ringOk c.src true c.e.p1 n then (s, resErr stInvalidBuffer)
    else (s.setCq k (some { base := c.e.p1, size := n, vector := bitsOf p 42 32, ien := bitOf p 43, head := 0, tail := 0,
                            phase := true }), resOk)
  else if (s.sq k).isSome || (s.cq cqk).isNone || bitsOf p 43 32 ≠ 0 then (s, resErr stInvalidField)
  else if !s.ringOk c.src false c.e.p1 n then (s, resErr stInvalidBuffer)
  else (s.setSq k (some { base := c.e.p1, size := n, cls := bitsOf p 21 20, cq := bitsOf p 29 24, head := 0, tail := 0,
                          deleting := false, delCmd := none, relay := none, rel := [] }), resOk)

/-- QUEUE_CREATE (R42). -/
def execQueueCreate (c : Cmd) (s : State) : Res :=
  .next (runCmd specQueueCreate c (fun s => s.queueCreate c) s)

def specQueueDelete : OpSpec :=
  { secureOnly := false, namesPol := false, needsPhase7 := false, powerFail := false, dmodes := [0], writesBuf := false,
    m0 := 0x7F, m1 := 0 }

/-- The effect of QUEUE_DELETE: an SQ stops being fetched from, and it is gone and the command completes once the last command
fetched from it has completed; a CQ no SQ uses is gone at once. -/
def State.queueDelete (s : State) (c : Cmd) : State × Option CmdRes :=
  let qid := bitsOf c.e.p0 5 0
  let k := qKey c.src.num qid
  if !onQueue0 c then (s, some (resErr stInvalidOpcode))
  else if qid = 0 then (s, some (resErr stInvalidField))
  else if bitOf c.e.p0 6 then
    if (s.cq k).isNone then (s, some (resErr stNoSuchObject))
    else if (List.range 64).any (fun q => match s.sq (qKey c.src.num q) with | some r => r.cq == qid | none => false)
    then (s, some (resErr stInvalidField))
    else ((s.setCq k none).updCp fun q => { q with posted := q.posted.filter fun x => !(x.n == c.src.num && x.cq == qid) },
          some resOk)
  else
    match s.sq k with
    | some q =>
      if q.deleting then (s, some (resErr stNoSuchObject))
      else if s.sqDone k then (s.setSq k none, some resOk)
      else (s.setSq k (some { q with deleting := true, delCmd := some c }), none)
    | none => (s, some (resErr stNoSuchObject))

/-- QUEUE_DELETE (R42). -/
def execQueueDelete (c : Cmd) (s : State) : Res :=
  .next (runCmdLater specQueueDelete c (fun s => s.queueDelete c) s)

/-! ### WRR weights (R43) -/

def specWrr : OpSpec :=
  { secureOnly := false, namesPol := false, needsPhase7 := false, powerFail := false, dmodes := [0], writesBuf := false,
    m0 := 0xFFFF, m1 := 0xFFFFFF }

/-- The value of feature 0x0001 for a source. -/
def Wrr.value (w : Wrr) : Nat := (w.wH - 1) + (w.wM - 1) * 256 + (w.wL - 1) * 65536

/-- SET_WRR_WEIGHTS (R43): applies to the sending source; RESULT is the previous value. -/
def execSetWrrWeights (c : Cmd) (s : State) : Res :=
  .next (runCmd specWrr c (fun s =>
    let v := c.e.p1
    (s.updWrr c.src.num fun w => { w with wH := bitsOf v 7 0 + 1, wM := bitsOf v 15 8 + 1, wL := bitsOf v 23 16 + 1 },
     resOk (s.wrr c.src.num).value)) s)

end Sys2Proof.Machine
end

