-- ==== Sys2Proof/Machine/Keep.lean ====
section
/-! DEFINITION. The keep store (spec/02, R50 to R57): firmware slots, the configuration record and journal namespaces. -/
namespace Sys2Proof.Machine

/-! ### CRC-32C (R51, R112, R460) -/

/-- One bit of the Castagnoli CRC, reflected form (PRESUMED conventions, log entry 11). -/
def crcBit (c : BitVec 32) : BitVec 32 := if c.getLsbD 0 then (c >>> 1) ^^^ 0x82F63B78 else c >>> 1
def crcByte (c : BitVec 32) (b : Byte) : BitVec 32 :=
  crcBit (crcBit (crcBit (crcBit (crcBit (crcBit (crcBit (crcBit (c ^^^ b.setWidth 32))))))))
/-- CRC-32C of a byte string. -/
def crc32c (bs : List Byte) : Nat := (~~~ (bs.foldl crcByte 0xFFFFFFFF)).toNat

/-! ### Firmware (R56, R57) -/

def State.slot (s : State) (k : Nat) : FwSlot := if k = 0 then s.cp.slotA else s.cp.slotB
def State.setSlot (s : State) (k : Nat) (f : FwSlot) : State :=
  s.updCp fun c => if k = 0 then { c with slotA := f } else { c with slotB := f }

/-- A slot that a controller runs (R56). -/
def State.slotRunning (s : State) (k : Nat) : Bool :=
  !s.cp.recovery && (s.cp.runActive == some k || s.cp.runStandby == some k)

/-- Verify the image of a slot with the boot ROM's rules (R438): its key, the revocation fuses, the fused minimum. -/
def FwSlot.verify (f : FwSlot) : Option Nat × Nat :=
  match Config.imageKey f.image with
  | none => (none, stImageInvalid)
  | some k =>
    if Config.revokedKeys.testBit k || (Config.imageVersion f.image).toNat < Config.minVersion then
      (none, stImageRevoked)
    else (some k, stSuccess)

/-- A slot whose image verified against key `k`, or one marked empty after a failure (R56, R57). -/
def FwSlot.passed (f : FwSlot) (k t : Nat) : FwSlot :=
  { f with version := (Config.imageVersion f.image).toNat, state := 2, key := k, rom := !(Config.imageRom f.image).isEmpty,
           changed := t }
def FwSlot.failed (st t : Nat) : FwSlot :=
  { FwSlot.reset with state := if st = stImageRevoked then 4 else 3, changed := t }

/-- The expansion ROM of the running slot (R410). -/
def State.romNow (s : State) : List Byte := match s.cp.runActive with | some k => Config.imageRom (s.slot k).image | none => []

/-- Overwrite part of an image. -/
def imageWrite (img : List Byte) (off : Nat) (bs : List Byte) : List Byte :=
  img.take off ++ List.replicate (off - img.length) 0 ++ bs ++ img.drop (off + bs.length)

def specFwDownload : OpSpec :=
  { secureOnly := true, namesPol := false, needsPhase7 := false, powerFail := true, dmodes := [1, 2], writesBuf := false,
    m0 := 0xFFFFFFFFFFFFFFFF, m1 := 1 }

/-- FW_DOWNLOAD (R56): one session at a time, begun by offset 0. More than 1 MiB, or data beyond the slot's 64 MiB, is a
parameter out of range (DESIGN CHOICE, log entry 147). While an activation is under way it is BUSY. -/
def State.fwDownload (s : State) (c : Cmd) : State × CmdRes :=
  let off := c.e.p0
  let k := bitsOf c.e.p1 0 0
  let me := c.src.num
  let n := s.bufLen c
  if off % 4096 ≠ 0 || n > 0x100000 || off + n > 0x4000000 || s.slotRunning k then (s, resErr stInvalidField)
  else if s.cp.live.isSome then (s, resErr stBusy)
  else
    let mine := s.cp.session == some (me, k)
    let free := match s.cp.session with | none => true | some (o, _) => o == me
    if off = 0 && free || mine then
      let f := if off = 0 then { FwSlot.reset with state := 1 } else s.slot k
      ((s.setSlot k { f with image := imageWrite f.image off (s.bufBytes c), changed := s.now }).updCp fun q =>
        { q with session := some (me, k) }, resOk)
    else if s.cp.session.isSome then (s, resErr stBusy)
    else (s, resErr stNotReady)

/-- FW_DOWNLOAD (R56). -/
def execFwDownload (c : Cmd) (s : State) : Res := .next (runCmd specFwDownload c (fun s => s.fwDownload c) s)

def specFwCommit : OpSpec :=
  { secureOnly := true, namesPol := false, needsPhase7 := false, powerFail := true, dmodes := [0], writesBuf := false,
    m0 := 0x13, m1 := 0 }

/-- What the three actions share (R56): the slot must not be running nor in another source's session; its image is
verified, and on failure the slot is marked empty. `none` in the first place means the commit stops there. -/
def State.fwVerify (s : State) (c : Cmd) : State × Option CmdRes :=
  let k := bitsOf c.e.p0 4 4
  let other := match s.cp.session with | none => false | some (o, _) => o != c.src.num
  if s.slotRunning k then (s, some (resErr stInvalidField))
  else if other || s.cp.live.isSome then (s, some (resErr stBusy))
  else
    let s := s.updCp fun q => { q with session := none }
    match (s.slot k).verify with
    | (some key, _) => (s.setSlot k ((s.slot k).passed key s.now), none)
    | (none, st) => (s.setSlot k (FwSlot.failed st s.now), some (resErr st))

/-- FW_COMMIT action 0: the slot is valid. -/
def execFwCommitStage (c : Cmd) (s : State) : Res :=
  .next (runCmd specFwCommit c (fun s =>
    match s.fwVerify c with
    | (s, some r) => (s, r)
    | (s, none) => (s, resOk (s.slot (bitsOf c.e.p0 4 4)).version)) s)

/-- FW_COMMIT action 1: the slot is also the boot choice for the next package reset. -/
def execFwCommitNextReset (c : Cmd) (s : State) : Res :=
  .next (runCmd specFwCommit c (fun s =>
    match s.fwVerify c with
    | (s, some r) => (s, r)
    | (s, none) =>
      let k := bitsOf c.e.p0 4 4
      (s.setRuns k s.cp.runActive s.cp.runStandby, resOk (s.slot k).version)) s)

/-- FW_COMMIT action 2 (R56, R397): needs a ready standby (R30). The slot becomes the boot choice and the standby loads it;
STANDBY_REJOIN then swaps the roles as a planned handover, restarts the former active controller, and completes the command. -/
def execFwCommitLive (c : Cmd) (s : State) : Res :=
  .next (runCmdLater specFwCommit c (fun s =>
    if !s.flag .CP_ROLE_STANDBY_READY 0 then (s, some (resErr stNotReady))
    else
      let k := bitsOf c.e.p0 4 4
      let old := s.cp.bootChoice
      match s.fwVerify c with
      | (s, some r) => (s, some r)
      | (s, none) => ((s.setRuns k s.cp.runActive s.cp.runStandby).updCp fun q =>
          { q with live := some { cmd := c, slot := k, oldBoot := old, swapped := false } }, none)) s)

/-- The firmware log (R57): two 64 B entries. -/
def State.fwLogEntry (s : State) (k : Nat) : List Nat :=
  let f := s.slot k
  [f.version + f.state * 2 ^ 32 + b2n (s.cp.runActive == some k) * 2 ^ 36 + b2n (s.cp.runStandby == some k) * 2 ^ 37 +
     b2n (s.cp.bootChoice == k) * 2 ^ 38,
   f.image.length + f.key * 2 ^ 32 + b2n f.rom * 2 ^ 34, f.changed, Config.minVersion, 0, 0, 0, 0]

/-! ### The configuration record (R51, R52) -/

/-- The record with the defaults of R51, its CRC in place. -/
def defaultCfg : List Word :=
  let body := (BitVec.ofNat 64 4 : Word) ::
    (List.replicate 80 (0 : Word) ++
     [BitVec.ofNat 64 (1 + 6 * 8 + 6 * 64 + 0x0240 * 65536), BitVec.ofNat 64 (6 * 8 + 6 * 64 + 0x0240 * 65536),
      BitVec.ofNat 64 (1 + 6 * 8 + 6 * 64 + 0x0240 * 65536), BitVec.ofNat 64 (6 * 8 + 6 * 64 + 0x0240 * 65536)] ++
     List.replicate 42 (0 : Word))
  BitVec.ofNat 64 (1 + 128 * 65536 + crc32c (wordsLe (body.map (·.toNat))) * 2 ^ 32) :: body

/-- The record in force: the defaults where the keep store holds none (R51). -/
def State.cfgInForce (s : State) : List Word := if s.cp.cfg.isEmpty then defaultCfg else s.cp.cfg

def cfgW (r : List Word) (i : Nat) : Nat := (r.getD i 0).toNat

/-- A record's header and CRC (R51). -/
def cfgHeaderOk (r : List Word) : Bool :=
  r.length == 128 && bitsOf (cfgW r 0) 15 0 == 1 && bitsOf (cfgW r 0) 31 16 == 128 &&
    bitsOf (cfgW r 0) 63 32 == crc32c (wordsLe ((r.drop 1).map (·.toNat)))

/-- HP_CFG as its register accepts it: zeros in the reserved bits (R301). -/
def hpCfgOk (v : Nat) : Bool := decide (v < 4096) && bitsOf v 7 3 == 0
/-- HP_ADDR: PREFIX 8 to 30 unless the sub-port has no address (zero word), nothing above bit 49. -/
def hpAddrOk (v : Nat) : Bool := v == 0 || decide (v < 2 ^ 50) && decide (8 ≤ bitsOf v 37 32) && decide (bitsOf v 37 32 ≤ 30)
/-- PE_CFG: zeros in the reserved bits; every MODE, speed and size has a meaning (R399). -/
def peCfgOk (v : Nat) : Bool := decide (v < 2 ^ 32) && bitsOf v 15 9 == 0

/-- The checks of R52 on a record. -/
def cfgOk (r : List Word) : Bool :=
  cfgHeaderOk r && decide (cfgW r 1 < 2 ^ 13) &&
    (List.range 16).all (fun i => hpCfgOk (cfgW r (2 + i))) && (List.range 64).all (fun i => hpAddrOk (cfgW r (18 + i))) &&
    (List.range 4).all (fun i => peCfgOk (cfgW r (82 + i))) && (List.range 33).all (fun i => cfgW r (95 + i) == 0) &&
    (!bitOf (cfgW r 1) 0 ||
      ((List.range 8).all (fun i => cfgW r (2 + i) == cfgW r (10 + i)) && cfgW r 82 == cfgW r 84 && cfgW r 83 == cfgW r 85))

/-- Words of a byte string. -/
def wordsOf (bs : List Byte) (n : Nat) : List Word := (List.range n).map fun i => BitVec.ofNat 64 (wordAt bs i)

def specConfigWrite : OpSpec :=
  { secureOnly := true, namesPol := false, needsPhase7 := false, powerFail := true, dmodes := [1], writesBuf := false,
    m0 := 0, m1 := 0 }

/-- CONFIG_WRITE (R52): a record that passes becomes the pending record. -/
def execConfigWrite (c : Cmd) (s : State) : Res :=
  .next (runCmd specConfigWrite c (fun s =>
    if s.bufLen c ≠ 1024 then (s, resErr stInvalidBuffer)
    else if !cfgOk (wordsOf (s.bufBytes c) 128) then (s, resErr stInvalidField)
    else (s.updCp fun q => { q with cfgPending := some (wordsOf (s.bufBytes c) 128) }, resOk 1)) s)

def specConfigRead : OpSpec :=
  { secureOnly := true, namesPol := false, needsPhase7 := false, powerFail := false, dmodes := [1], writesBuf := true,
    m0 := 1, m1 := 0 }

/-- CONFIG_READ (R52): the record in force or the pending one. -/
def execConfigRead (c : Cmd) (s : State) : Res :=
  .next (runCmd specConfigRead c (fun s =>
    if s.bufLen c < 1024 then (s, resErr stInvalidBuffer)
    else if bitOf c.e.p0 0 then
      match s.cp.cfgPending with
      | some r => (s, resOut 1024 (wordsLe (r.map (·.toNat))))
      | none => (s, resErr stNoSuchObject)
    else (s, resOut 1024 (wordsLe (s.cfgInForce.map (·.toNat))))) s)

/-! ### Journal namespaces (R53 to R55) -/

/-- Start of the journal area in the keep store, and its size in MiB (R50). -/
def journalBase : Nat := 0x0D000000
def journalMiB : Nat := 1840

def State.jnsOf (s : State) (n : Nat) : Option Jns := s.cp.jns.find? fun j => j.nsid == n

/-- The lowest offset in MiB at which `n` MiB are free (log entry 12). -/
def State.jnsGap (s : State) (n : Nat) : Option Nat :=
  let starts := 0 :: s.cp.jns.map fun j => j.off + j.mib
  let ok := fun o => decide (o + n ≤ journalMiB) && s.cp.jns.all fun j => decide (o + n ≤ j.off) || decide (j.off + j.mib ≤ o)
  (starts.filter ok).min?

/-- The lowest free NSID, 1 to 32. -/
def State.jnsFree (s : State) : Option Nat := ((List.range 32).map (· + 1)).find? fun n => (s.jnsOf n).isNone

def specJnsCreate : OpSpec :=
  { secureOnly := true, namesPol := true, needsPhase7 := false, powerFail := true, dmodes := [0], writesBuf := false,
    m0 := 0xFFFFFFFF, m1 := 0 }

/-- JNS_CREATE (R53): one namespace per polder; RESULT is the NSID. A size of 0 is a parameter out of range (DESIGN CHOICE,
log entry 148). -/
def execJnsCreate (c : Cmd) (s : State) : Res :=
  .next (runCmd specJnsCreate c (fun s =>
    let p := c.e.polder
    if c.e.p0 = 0 then (s, resErr stInvalidField)
    else if s.cp.jns.any fun j => j.owner == p then (s, resErr stBusy)
    else match s.jnsFree, s.jnsGap c.e.p0 with
    | some n, some o =>
      let j : Jns := { nsid := n, owner := p, sec := s.polSecure p, off := o, mib := c.e.p0, created := s.now }
      (s.updCp fun q => { q with jns := q.jns ++ [j] }, resOk n)
    | _, _ => (s, resErr stNoResource)) s)

def specJnsDelete : OpSpec :=
  { secureOnly := true, namesPol := false, needsPhase7 := false, powerFail := true, dmodes := [0], writesBuf := false,
    m0 := 0, m1 := 0 }

/-- Erase a range of the keep store. -/
def keepErase (k : List Host.Cell) (a n : Nat) : List Host.Cell := k.filter fun c => decide (c.1 < a) || decide (a + n ≤ c.1)

/-- A JOURNAL_WRITE to namespace `n` is under way (R44, R54). -/
def State.jnsWriting (s : State) (n : Nat) : Bool :=
  s.cp.running.any fun r => r.begun && r.e.opcode == 0x22 && r.e.nsid == n

/-- JNS_DELETE (R53): the data is erased before the command completes. A write under way holds the namespace (R44). -/
def execJnsDelete (c : Cmd) (s : State) : Res :=
  .next (runCmd specJnsDelete c (fun s =>
    match s.jnsOf c.e.nsid with
    | none => (s, resErr stNoSuchObject)
    | some j =>
      if s.jnsWriting j.nsid then (s, resErr stBusy)
      else (s.updCp fun q => { q with jns := q.jns.filter fun x => x.nsid != j.nsid,
                                      keep := keepErase q.keep (journalBase + j.off * 0x100000) (j.mib * 0x100000) }, resOk)) s)

/-- The namespace a journal command reaches: a non-secure source only its own polders' and no secure one (R39, R53). -/
def State.jnsFor (s : State) (c : Cmd) : Option Jns :=
  match s.jnsOf c.e.nsid with
  | some j => if s.srcSecure c.src || (!j.sec && j.owner ≠ 0 && s.srcBound c.src j.owner) then some j else none
  | none => none

def specJournal (w : Bool) : OpSpec :=
  { secureOnly := false, namesPol := false, needsPhase7 := false, powerFail := w, dmodes := [1, 2], writesBuf := !w,
    m0 := 0xFFFFFFFFFFFFFFFF, m1 := 0 }

/-- The 16 KiB blocks of the keep store that a range touches (R54). -/
def blocksOf (a n : Nat) : List Nat :=
  if n = 0 then [] else (List.range ((a + n - 1) / 16384 - a / 16384 + 1)).map (· + a / 16384)

/-- The part of `n` bytes from address `a` on that falls into block `b`: how many bytes precede it, and its length. -/
def blockPart (a n b : Nat) : Nat × Nat := (b * 16384 - a, min (a + n) ((b + 1) * 16384) - max a (b * 16384))

/-- Make one block of a write durable: all its new bytes at once (R54). A block that read as MEDIA_ERROR holds data again. -/
def State.blockWrite (s : State) (a : Nat) (bs : List Byte) (b : Nat) : State :=
  let x := blockPart a bs.length b
  s.updCp fun q => { q with keep := memPutAll q.keep (a + x.1) ((bs.drop x.1).take x.2),
                            badBlocks := q.badBlocks.filter (· ≠ b) }

/-- How many blocks of a JOURNAL_WRITE are durable. -/
def State.progress (s : State) (c : Cmd) : Nat := match s.runningOf c with | some r => r.prog | none => 0

/-- A write to a namespace makes its next block durable, in ascending order; with the last one the command completes (R54). -/
def State.journalBlock (s : State) (c : Cmd) (j : Jns) : State :=
  let a := journalBase + j.off * 0x100000 + c.e.p0
  let l := blocksOf a (s.bufLen c)
  let k := s.progress c
  let t := match l[k]? with
    | some b => s.blockWrite a (s.bufBytes c) b
    | none => s
  if k + 1 < l.length then t.hold c (k + 1) else t.finish c resOk

/-- JOURNAL_WRITE (R54): each execution writes one aligned 16 KiB block, in ascending order, until the command completes. A write
under way goes on while PWRFAIL_N is asserted (R55). -/
def execJournalWrite (c : Cmd) (s : State) : Res :=
  .next (if s.begun c then (match s.jnsFor c with | some j => s.journalBlock c j | none => s)
    else if !s.inTurn c then s
    else match s.precheck (specJournal true) c with
    | some (st, silent) => (if silent then s.silence c else s).finish c (resErr st)
    | none =>
      if s.cp.blockFailed then (s.updCp fun q => { q with blockFailed := false }).finish c (resErr stNoResource)
      else match s.jnsFor c with
      | none => (if (s.jnsOf c.e.nsid).isSome then s.silence c else s).finish c (resErr stNoSuchObject)
      | some j =>
        if c.e.p0 % 512 ≠ 0 || s.bufLen c % 512 ≠ 0 || c.e.p0 + s.bufLen c > j.mib * 0x100000 then
          s.finish c (resErr stInvalidField)
        else s.journalBlock c j)

/-- PWRFAIL_N is asserted as both halves show it. -/
def State.pwrFail (s : State) : Bool := s.flag .PM_RAIL_PWRFAIL (instH s.activeHalf 0)

/-- The block that an accepted JOURNAL_WRITE writes next, where it is being executed: begun, or free to begin. -/
def State.blockNext (s : State) (r : Running) : Option Nat :=
  let c : Cmd := { src := r.src, sqid := Fin.ofNat 64 r.sqid, e := r.e, list := [], data := [] }
  if r.e.opcode ≠ 0x22 || r.relayTo.isSome || !(r.begun || s.inTurn c && (s.precheck (specJournal true) c).isNone) then none
  else match s.jnsFor c with
    | some j =>
      if j.mib * 0x100000 < r.e.p0 + s.bufLen c then none
      else (blocksOf (journalBase + j.off * 0x100000 + r.e.p0) (s.bufLen c))[r.prog]?
    | none => none

/-- Power is lost (R55). Without the warning of PWRFAIL_N a block that was being written may read as MEDIA_ERROR (free, log entry
182). -/
def State.tearBlocks (s : State) : State :=
  if s.pwrFail then s
  else s.cp.running.foldl (fun t r => match s.blockNext r with
    | some b =>
      let u := t.drawn
      if t.fresh.getLsbD 0 then u.updCp fun q => { q with badBlocks := insertAsc b q.badBlocks } else u
    | none => t) s

/-- JOURNAL_READ (R54): a block that a power loss damaged reads as MEDIA_ERROR until it is written (R55). -/
def execJournalRead (c : Cmd) (s : State) : Res :=
  .next (runCmd (specJournal false) c (fun s =>
    match s.jnsFor c with
    | none => (if (s.jnsOf c.e.nsid).isSome then s.silence c else s, resErr stNoSuchObject)
    | some j =>
      let n := s.bufLen c
      if c.e.p0 % 512 ≠ 0 || n % 512 ≠ 0 || c.e.p0 + n > j.mib * 0x100000 then (s, resErr stInvalidField)
      else
        let a := journalBase + j.off * 0x100000 + c.e.p0
        if (blocksOf a n).any fun b => s.cp.badBlocks.contains b then (s, resErr stMediaError)
        else (s, resOut 0 (memBytes s.cp.keep a n))) s)

end Sys2Proof.Machine
end

