-- ==== Sys2Proof/Machine/Tick.lean ====
section
/-! DEFINITION. The tick (spec/04): PTIME and its discipline, encoder inputs, tick sources and edges, the tick engines'
delivery to the compute dies, trigger outputs and slack windows. -/
namespace Sys2Proof.Machine

def State.updTe (s : State) (f : TickEngine → TickEngine) : State := { s with te := f s.te }

/-! ### PTIME (R80, R81) -/

/-- PT_CTL.SLEW_MAX as the largest rate departure, in units of 2⁻⁴⁰: units of 10 ppm, 0 acts as 1, at most 100. -/
def State.slewMax (s : State) : Int := (min (max (s.get .PT_CTL_SLEW_MAX 0) 1) 100 * 10995116 : Nat)

/-- PT_FREQ clamped to SLEW_MAX. -/
def State.freqRate (s : State) : Int := max (-s.slewMax) (min s.slewMax (signed64 (s.get .PT_FREQ_VALUE 0)))

/-- The slewing rate: what SLEW_MAX leaves beside the frequency correction, toward the phase remainder. -/
def State.slewRate (s : State) : Int :=
  if s.te.phaseLeft > 0 then s.slewMax - s.freqRate else if s.te.phaseLeft < 0 then -s.slewMax - s.freqRate else 0

/-- Cycles of a core's clock in the nanosecond that passes (R141, R143). -/
def State.coreCycles (s : State) (g : Nat) : Nat :=
  let f := ((s.core g).sysOf 0xC09).toNat % 65536
  (s.now + 1) * f / 1000 - s.now * f / 1000

/-- A nanosecond of a core's clock in C0 or C1, in CNT_CYC and in the events that count cycles (R441, R445): all cycles, those of a
TICKWAIT in C1, of a commit before its commit point, and of an interrupt held under R100. -/
def State.countCycles (s : State) (g : Nat) : State :=
  let c := s.core g
  if c.serv ≠ 0 || 2 ≤ c.pow || !bitOf (c.sysOf 0xC22).toNat 0 then s
  else
    let n := s.coreCycles g
    let s := (s.countFixed g 0xC20 8 n).countCore g 0x001 n
    let s := if c.pow = 1 && c.t.waiting then s.countCore g 0x051 n else s
    let s := if 0 < c.t.step && c.t.step < 4 then s.countCore g 0x056 n else s
    let s := if c.intEnabled && !c.pend.isEmpty && c.t.isOpen then s.countCore g 0x082 n else s
    s.admitInt g

/-- One nanosecond of the reference clock passes (log entry 8): PTIME advances by 1 + PT_FREQ and absorbs part of the
phase remainder, never faster than SLEW_MAX allows. With no reference clock at either half PTIME holds (R476). -/
def State.passNs (s : State) : State :=
  if s.pow.held.contains 99 then s else
  let r := s.te.rateAcc + (2 ^ 40 : Int) + s.freqRate
  let w := s.te.slewAcc + s.slewRate
  let k := w.tdiv (2 ^ 40 : Int)
  let left := s.te.phaseLeft - k
  let adv := (r / (2 ^ 40 : Int) + k).toNat
  let s := (s.cores.map (·.1)).foldl State.countCycles s
  let s := s.updTe fun t => { t with rateAcc := r % (2 ^ 40 : Int), slewAcc := if left = 0 then 0 else w - k * (2 ^ 40 : Int),
                                     phaseLeft := left }
  s.put .PT_NOW_TIME 0 (s.now + adv)

/-- A polder is tick-bound (R81). -/
def State.anyTickBound (s : State) : Bool :=
  s.pols.any fun x => match x.2 with | some v => v.tickBound | none => false

/-- The unit of a control-space address (R22). -/
def ctlUnit (addr : Nat) : Nat := addr / 2 ^ 32 % 16

/-- Core `g` is fenced: with its die, or by a fault of its own that also retired it (R127, R129). -/
def State.coreFenced (s : State) (g : Nat) : Bool :=
  (s.core g).serv == 3 || (s.core g).serv == 2 && s.berm.retired.any fun x => x == (0, g, 1)

/-- The unit or block is that of a fenced core, of a compute die not in service, or of a lost half (R27). -/
def State.unitGone (s : State) (addr : Nat) : Bool :=
  let u := ctlUnit addr
  if u < 12 then
    (s.die u).state != 0 || decide (addr % 2 ^ 32 / 2 ^ 24 < 20) && s.coreFenced (u * 20 + addr % 2 ^ 32 / 2 ^ 24)
  else if u = 12 then s.lost 0
  else if u = 13 then s.lost 1
  else false

/-- A control-space access (R27, R77, R78): with a tag that may not reach the block it is refused with kind 0x05 in half `h`;
at a unit that is gone it has no effect and logs code 0x21. -/
def State.ctlGate (s : State) (a : Acc) (ok : Bool) (h addr : Nat) (f : State → State) : State :=
  if !ok then s.refuse h a.src a.pol a.sec addr 5
  else if s.unitGone addr then
    s.logSec s.activeHalf 44 0x21 [ctlUnit addr, agentKind a.src * 2 ^ 56 + agentIndex a.src]
  else f s

/-- The access reaches a secure-only block. -/
def State.secureOnly (s : State) (a : Acc) (h addr : Nat) (f : State → State) : State := s.ctlGate a a.sec h addr f

/-- The physical address of offset `o` in half `h` (R22). -/
def hubAddr (h o : Nat) : Nat := 0xFF00C00000000 + h * 0x100000000 + o

/-- The effect of a write to PT_STEP (R81). -/
def State.ptStep (s : State) (v : Nat) : State :=
  if s.anyTickBound then (s.setFlag .PT_STAT_STEP_REFUSED 0 true).logSec s.activeHalf 43 0x4B [v]
  else s.put .PT_NOW_TIME 0 (unsigned64 (s.now + signed64 v))

/-- PT_STEP (R81). -/
def execPtStep (a : Acc) (h : Half) (v : Word) (s : State) : Res :=
  .next (s.secureOnly a h (hubAddr h 0x40000120) fun s => s.ptStep v.toNat)

/-- The effect of a write to PT_PHASE: added to any remainder still being slewed. -/
def State.ptPhase (s : State) (v : Nat) : State :=
  let left := s.te.phaseLeft + signed64 v
  (s.updTe fun t => { t with phaseLeft := left }).setFlag .PT_STAT_SLEWING 0 (left ≠ 0)

/-- A measured offset becomes the phase to be slewed (R81): the servo's law is Clasto's (DESIGN CHOICE, log entry 28). -/
def State.servoPhase (s : State) (off : Int) : State :=
  (s.updTe fun t => { t with phaseLeft := off }).setFlag .PT_STAT_SLEWING 0 (off ≠ 0)

/-- PT_PHASE (R81). -/
def execPtPhase (a : Acc) (h : Half) (v : Word) (s : State) : Res :=
  .next (s.secureOnly a h (hubAddr h 0x40000118) fun s => s.ptPhase v.toNat)

/-- PHASE_REMAINDER_ABSORBED (R81, R378): with no remainder left SLEWING clears; CONVERGING clears once the offset is
within 20 ns. -/
def execPhaseRemainderAbsorbed (s : State) : Res :=
  .next (
    let s := if s.te.phaseLeft = 0 then s.setFlag .PT_STAT_SLEWING 0 false else s
    if s.te.phaseLeft.natAbs ≤ 20 then s.setFlag .CS_STAT_CONVERGING 0 false else s)

/-- PPS_EDGE (R81, R472): the edge on the selected input is stamped. -/
def execPpsEdge (h : Half) (s : State) : Res :=
  .next (if s.get .PT_CTL_PPS_HALF 0 = h && !s.lost h then s.put .PT_PPS_STAMP 0 s.now else s)

/-- PTIME_SOURCE_LOST (R81): loss sets HOLDOVER and keeps the frequency; the return clears it. Code 0x4C each way. A
free-running PTIME has no source to lose. -/
def State.sourceLost (s : State) (lost : Bool) : State :=
  let src := s.get .PT_CTL_SRC 0
  if src = 0 then s
  else if lost == !s.flag .PT_STAT_SRC_OK 0 && lost == s.flag .PT_STAT_HOLDOVER 0 then s
  else ((s.setFlag .PT_STAT_SRC_OK 0 (!lost)).setFlag .PT_STAT_HOLDOVER 0 lost).logSec s.activeHalf 43 0x4C [src]

def execPtimeSourceLost (lost : Bool) (s : State) : Res := .next (s.sourceLost lost)

/-- PTIME_ALIGN (R80): the die's replica takes its engine's count. -/
def execPtimeAlign (d : Die) (s : State) : Res :=
  .next (s.updTe fun t => { t with dieOfs := Tbl.set 0 t.dieOfs d 0 })


/-! ### Tick contexts (R87) -/

def TickCtx.empty : TickCtx :=
  { next := none, nextCmd := none, first := none, p0a := 0, p0b := 0, due := [], edgeIx := 0, anchor := 0, lastFire := 0,
    fireAt := 0, disagree := 0, stretch := [], msgs := [], edges := [], stall := none, suspendNext := false,
    resumeNext := false, prefNext := none, stretching := false, encFailed := false, restrains := false, dumped := none }

def State.ctx (s : State) (p : Nat) : TickCtx := Tbl.get TickCtx.empty s.te.ctx p
def State.updCtx (s : State) (p : Nat) (f : TickCtx → TickCtx) : State :=
  s.updTe fun t => { t with ctx := Tbl.set TickCtx.empty t.ctx p (f (s.ctx p)) }

/-- Word `w` of the tick descriptor in force, and its fields (R87). -/
def State.tk (s : State) (p w : Nat) : Nat := s.get .TK_CFG_WORD (p * 6 + w)
def State.tkSource (s : State) (p : Nat) : Nat := bitsOf (s.tk p 0) 2 0
def State.tkEnc (s : State) (p : Nat) : Nat := bitsOf (s.tk p 0) 7 4
def State.tkDir (s : State) (p : Nat) : Bool := bitOf (s.tk p 0) 8
def State.tkPolicy (s : State) (p : Nat) : Nat := bitsOf (s.tk p 0) 10 9
def State.tkSlack (s : State) (p : Nat) : Bool := bitOf (s.tk p 0) 11
def State.tkPeriod (s : State) (p : Nat) : Nat := bitsOf (s.tk p 2) 31 0
def State.tkOffset (s : State) (p : Nat) : Nat := bitsOf (s.tk p 2) 47 32
def State.tkGuard (s : State) (p : Nat) : Nat := bitsOf (s.tk p 3) 31 0

/-- The divider D in units of 2⁻³² (R84). -/
def dividerOf (w1 : Nat) : Nat := bitsOf w1 55 32 * 2 ^ 32 + bitsOf w1 31 0

/-- ⌈k × D⌉ (R84). -/
def edgeCount (w1 k : Nat) : Nat := (k * dividerOf w1 + 2 ^ 32 - 1) / 2 ^ 32

/-- The driving engine of polder `p` (TK_CTL.PREF). -/
def State.driver (s : State) (p : Nat) : Nat := s.get .TK_CTL_PREF p

/-- The engine that supplies the next edge: a takeover or a move of TK_CTL.PREF acts from it on (R93). -/
def State.nextDriver (s : State) (p : Nat) : Nat :=
  match (s.ctx p).prefNext with | some (h, _) => h | none => s.driver p

/-- The encoder input engine `h` counts for polder `p`: its member of the pair in Guarded, the named input otherwise
(R86). -/
def State.encOn (s : State) (p h : Nat) : Nat :=
  if s.guardedCfg then s.tkEnc p % 8 + h * 8 else s.tkEnc p

/-- ENC_POS of an input, signed, and a polder's position on it (R83). -/
def State.encPos (s : State) (e : Nat) : Int := signed64 (s.get .ENC_POS_POS (instEnc e))
def State.polPos (s : State) (p h : Nat) : Int :=
  if s.tkDir p then -(s.encPos (s.encOn p h)) else s.encPos (s.encOn p h)

/-- P₀ of engine `h`. -/
def State.p0 (s : State) (p h : Nat) : Int := if h = 0 then (s.ctx p).p0a else (s.ctx p).p0b

/-- An input that counts as failed: FAILED, not enabled, or on a lost half (R17, R83, R86). -/
def State.encBad (s : State) (e : Nat) : Bool :=
  s.flag .ENC_STAT_FAILED (instEnc e) || !s.flag .ENC_CFG_EN (instEnc e) || s.lost (e / 8)

/-- The polders ticked by encoder `e` or its pair member. -/
def State.encPolders (s : State) (e : Nat) : List Nat :=
  (List.range 32).filter fun p =>
    (s.polder p).isSome && s.tkSource p == 1 &&
      (s.tkEnc p == e || s.guardedCfg && s.tkEnc p % 8 == e % 8)

/-- ENC_STAT of an input as one word. -/
def State.encStat (s : State) (e : Nat) : Nat :=
  let i := instEnc e
  s.get .ENC_STAT_ILLEGAL i + s.get .ENC_STAT_LOS i * 2 + s.get .ENC_STAT_ZERR i * 4 + s.get .ENC_STAT_OVERSPEED i * 8 +
    s.get .ENC_STAT_PAIR_FAULT i * 16 + s.get .ENC_STAT_FAILED i * 32 + s.get .ENC_STAT_ILLEGAL_CNT i * 2 ^ 32

/-! ### Edges (R82 to R86, R89, R90, R93) -/

/-- Engine `h` notes the edge of polder `p` that its input has reached with this count: PTIME and ENC_POS (R82, R84). -/
def State.noteEdge (s : State) (p h : Nat) : State :=
  let c := s.ctx p
  let k := c.edgeIx + (c.due.filter fun x => x.1 == h).length + 1
  if !c.encFailed && decide (s.p0 p h + edgeCount (s.tk p 1) k ≤ s.polPos p h) then
    s.updCtx p fun c => { c with due := c.due ++ [(h, s.now, BitVec.ofNat 64 (s.get .ENC_POS_POS (instEnc (s.encOn p h))))] }
  else s

/-- The edge taken leaves each engine's list. -/
def dropEdge (due : List (Nat × Nat × Word)) : List (Nat × Nat × Word) :=
  (due.eraseP fun x => x.1 == 0).eraseP fun x => x.1 == 1

/-- The edge PTIME, and for ENC the position, if polder `p`'s source is at an edge now (R82, R84): for ENC the engine that
supplies the edge has noted one and its input stands; TIMER and PTP edges stand at their scheduled PTIME. -/
def State.edgeDue (s : State) (p : Nat) : Option (Nat × Word) :=
  let c := s.ctx p
  match s.tkSource p with
  | 1 =>
    let h := s.nextDriver p
    if s.encBad (s.encOn p h) then none else (c.due.find? fun x => x.1 == h).map (·.2)
  | 2 => if c.anchor + (c.edgeIx + 1) * s.tkPeriod p ≤ s.now then some (c.anchor + (c.edgeIx + 1) * s.tkPeriod p, 0) else none
  | 3 => if c.anchor + c.edgeIx * s.tkPeriod p ≤ s.now then some (c.anchor + c.edgeIx * s.tkPeriod p, 0) else none
  | _ => none

/-- The compute dies that hold cores of a polder. -/
def State.polDies (s : State) (p : Nat) : List Nat :=
  match s.polder p with
  | some v => (v.cores.map dieOf).eraseDups
  | none => []

/-- HOLDOVER flag of a tick (R94): PTIME in holdover, a tick of holdover or of an island on the polder's channel (R374,
R375), or a member that converges (R378). -/
def State.tkHoldover (s : State) (p : Nat) : Bool :=
  let st := s.get .CS_CHAN_STATE (s.get .CS_TBIND_CHANNEL p)
  s.flag .PT_STAT_HOLDOVER 0 || s.tkSource p == 4 && (st == 2 || st == 3 || s.flag .CS_STAT_CONVERGING 0)

/-- The tick message of an edge (R90, R94, R97); a source other than ENC gives no position. -/
def State.tickMsg (s : State) (p num edge base extra : Nat) (count : Word) (early : Bool) : TickMsg :=
  let fire := base + extra
  { num := num, edge := edge, count := if s.tkSource p = 1 then count else 0, fire := fire,
    deadline := fire + s.tkPeriod p - s.tkGuard p,
    flags := s.tkSource p + b2n early * 16 + b2n (s.tkHoldover p) * 32 + b2n (s.polGuarded p) * 64, catchup := false,
    rerun := false, at_ := 0 }

/-- Close the published slack window at once (R106, R107). -/
def State.slackShut (s : State) : State := s.updTe fun t => { t with slackOpen := false, slackClose := none }

/-- The pair cross-check of R86 at an edge: the positions counted from each engine's own P₀ differ by more than TOL at
two edges in a row, and neither input has failed. -/
def State.pairCheck (s : State) (p : Nat) : State :=
  if s.tkSource p ≠ 1 || !s.guardedCfg then s
  else
    let d := (s.polPos p 0 - s.p0 p 0) - (s.polPos p 1 - s.p0 p 1)
    let e := s.encOn p (s.driver p)
    let tol := max (s.get .ENC_CFG_TOL (instEnc e)) 1
    let n := if d.natAbs > tol then (s.ctx p).disagree + 1 else 0
    let s := s.updCtx p fun c => { c with disagree := n }
    let e0 := s.encOn p 0
    let e1 := s.encOn p 1
    if n ≥ 2 && !s.encBad e0 && !s.encBad e1 && !s.flag .ENC_STAT_PAIR_FAULT (instEnc e) then
      let s := (s.setFlag .ENC_STAT_PAIR_FAULT (instEnc e0) true).setFlag .ENC_STAT_PAIR_FAULT (instEnc e1) true
      s.logPols (s.driver p) 43 0x45 (s.encPolders e) [e, s.encStat e]
    else s

/-- ENGINE_MISMATCH (R93): the checker's own stamp or number differs from the driver's by more than 8 ns or at all. -/
def State.mismatchCheck (s : State) (p num edge : Nat) (chk : Option (Nat × Nat)) : State :=
  match chk with
  | none => s
  | some (t, n) =>
    if n ≠ num || t > edge + 8 || edge > t + 8 then
      let h := 1 - s.driver p
      (s.bump .TE_STAT_MISMATCH (instH h 0) 1).logPolSec h 43 0x46 p [num, edge, t]
    else s

/-- Send the tick messages of an edge from both engines to every die of the polder (R90). -/
def State.sendTick (s : State) (p : Nat) (m : TickMsg) : State :=
  let ds := s.polDies p
  let hs := [0, 1].filter fun h => !s.lost h
  s.updCtx p fun c => { c with msgs := c.msgs ++ ds.flatMap fun d => hs.map fun h => (d, h, m) }

/-- The pair member of an encoder input. -/
def encPair (e : Nat) : Nat := (e + 8) % 16

/-- Polder `p` moves to engine `h` from the next edge on; `cause` 1 to 3 as code 0x47 gives it, 0 for a move of
TK_CTL.PREF (R93). -/
def State.handOver (s : State) (p h cause : Nat) : State := s.updCtx p fun c => { c with prefNext := some (h, cause) }

/-- The move that waits takes place (R93): a takeover counts, with code 0x47. -/
def State.movePref (s : State) (p : Nat) : State :=
  match (s.ctx p).prefNext with
  | none => s
  | some (h, cause) =>
    let old := s.driver p
    let s := (s.put .TK_CTL_PREF p h).updCtx p fun c => { c with prefNext := none }
    if cause = 0 || h = old then s else (s.bump .TE_STAT_ROLE_CHANGES (instH h 0) 1).logPolSec h 43 0x47 p [h, cause]

/-- Polder `p` stalls: no input of its encoder is left (R86). -/
def State.encStall (s : State) (p : Nat) : State :=
  if (s.ctx p).encFailed then s
  else ((s.put .TK_NOW_STATE p 3).updCtx p fun c => { c with encFailed := true, due := [], stall := none }).tickFault p

/-- Polders stall for want of encoder `e`: code 0x45 for each input (R86). -/
def State.encStallAll (s : State) (e : Nat) (ps : List Nat) : State :=
  let s := (ps.foldl State.encStall s).logPols (e / 8) 43 0x45 ps [e, s.encStat e]
  if s.guardedCfg then s.logPols (encPair e / 8) 43 0x45 ps [encPair e, s.encStat (encPair e)] else s

/-- Input `e` counts as failed from now on (R83, R86): in Guarded the other half's engine takes over the polders it drives; when
both inputs of the pair have failed, or in Throughput, the polders it ticks stall. -/
def State.encDown (s : State) (e : Nat) : State :=
  let ps := s.encPolders e
  if s.guardedCfg && !s.encBad (encPair e) then
    ps.foldl (fun s p => if s.nextDriver p = e / 8 then s.handOver p (1 - e / 8) 3 else s) s
  else s.encStallAll e ps

/-- Ticks that are not delivered count as missed on every core of the polder that runs (R94, R98). -/
def State.missAll (s : State) (p n : Nat) : State :=
  match s.polder p with
  | some v => v.cores.foldl (fun s g =>
      if (s.core g).started then s.updTick g fun t => { t with missed := min (t.missed + n) 65535 } else s) s
  | none => s

/-- The number of the first tick under a new configuration (R87): KEEP_NUM continues from the polder's last tick, or from 0 for
one that has never ticked. -/
def State.firstNum (s : State) (p : Nat) (w5 : Nat) : Nat :=
  if bitOf w5 63 then
    (if s.polder p |>.any (·.everTicked) then (s.get .TK_NOW_NUM p + 1) % 2 ^ 48 else 0)
  else bitsOf w5 47 0

/-- The first value of ANCHOR + j × PERIOD_NS after PTIME `t`, with j not negative (R82; DESIGN CHOICE, log entry 153). -/
def ptpFirst (anchor per t : Nat) : Nat := if t < anchor then anchor else anchor + ((t - anchor) / per + 1) * per

/-- The TICK_CONFIGURE that waits completes: RESULT is the number of the first tick to come (R46, R89). -/
def State.configDone (s : State) (p n : Nat) : State :=
  match (s.ctx p).nextCmd with
  | some c => (s.updCtx p fun x => { x with next := none, nextCmd := none }).finish c (resOk n)
  | none => s.updCtx p fun x => { x with next := none }

/-- An encoder of which one input has failed is driven by the other from the first edge on; one of which none stands stalls
its polder at once (R86; DEDUCED, log entry 154). -/
def State.encStart (s : State) (p : Nat) : State :=
  if s.tkSource p ≠ 1 then s
  else
    let h := s.nextDriver p
    let e := s.encOn p h
    if !s.encBad e then s
    else if s.guardedCfg && !s.encBad (encPair e) then s.handOver p (1 - h) 3
    else s.encStallAll e [p]

/-- Put the accepted configuration in force at PTIME `t` (R87, R89): the descriptor words, the number of the first tick, the
anchors of the new source. Delivery runs, whether or not it was suspended (DESIGN CHOICE, log entry 155). -/
def State.takeConfig (s : State) (p : Nat) (ws : List Word) (t : Nat) : State :=
  let w := fun i => (ws.getD i 0).toNat
  let n := s.firstNum p (w 5)
  let run := s.get .TK_NOW_STATE p == 1 && (s.ctx p).restrains
  let s := (List.range 6).foldl (fun s i => s.put .TK_CFG_WORD (p * 6 + i) (w i)) s
  let anchor := if bitsOf (w 0) 2 0 = 3 then ptpFirst (w 4) (bitsOf (w 2) 31 0) t else t
  let s := s.put .TK_NOW_STATE p (if bitsOf (w 0) 2 0 = 0 then 0 else 1)
  let s := s.updCtx p fun c =>
    { c with first := some n, due := [], edgeIx := 0, anchor := anchor, stall := none, stretch := [], stretching := false,
             suspendNext := false, resumeNext := false, encFailed := false, restrains := run, disagree := 0 }
  ((s.updCtx p fun c => { c with p0a := s.polPos p 0, p0b := s.polPos p 1 }).encStart p).configDone p n

/-- What an edge makes of delivery (R85, R98): resumed, suspended, or no longer stalled. A polder whose delivery starts again
restrains the slack window from the first tick it takes (R106). -/
def State.edgeState (s : State) (p : Nat) : State :=
  let c := s.ctx p
  let old := s.get .TK_NOW_STATE p
  let st := c.stall.getD (if old = 3 then 1 else old)
  let new := if c.resumeNext then 1 else if c.suspendNext then 2 else st
  (s.put .TK_NOW_STATE p new).updCtx p fun c =>
    { c with stall := none, resumeNext := false, suspendNext := c.suspendNext && c.resumeNext,
             restrains := c.restrains && old == 1 && new == 1 }

/-- A polder restrains the package window: SLACK = 1, ticks running, and a tick taken since they run (R106). -/
def State.slackTakes (s : State) (p : Nat) : Bool :=
  (s.polder p).isSome && s.tkSlack p && s.get .TK_NOW_STATE p == 1 && (s.ctx p).restrains

/-- Deliver a tick, or hold it for STRETCH; with one held already the polder falls back to FAULT with code 0x42, and neither is
delivered (R98). A tick that is not delivered counts as missed. -/
def State.tickOut (s : State) (p : Nat) (m : TickMsg) : State :=
  let c := s.ctx p
  if s.get .TK_NOW_STATE p ≠ 1 then s.missAll p 1
  else if !c.stretching then s.sendTick p m
  else if c.stretch.isEmpty then s.updCtx p fun c => { c with stretch := [m] }
  else
    ((((s.put .TK_NOW_STATE p 2).updCtx p fun c => { c with stretch := [], stretching := false, restrains := false }).tickFault p).logPol
      (s.driver p) 43 0x42 p [m.num]).missAll p 2

/-- An edge of polder `p` (R85, R89, R90, R93, R98, R106): stamp and number it, hold it to T_MIN, cross-check it, deliver it
unless delivery is suspended, and let a waiting configuration take force. -/
def State.tickEdge (s : State) (p edge extra : Nat) (count : Word) (chk : Option (Nat × Nat)) : State :=
  let c := s.ctx p
  let num := c.first.getD ((s.get .TK_NOW_NUM p + 1) % 2 ^ 48)
  let ever := s.polder p |>.any (·.everTicked)
  let early := ever && decide (edge < c.lastFire + s.tkPeriod p)
  let base := if early then c.lastFire + s.tkPeriod p else edge
  let prev := s.get .TK_EDGE_PTIME p
  let s := if s.slackTakes p then s.slackShut else s
  let s := ((s.movePref p).put .TK_NOW_NUM p num).put .TK_EDGE_PTIME p edge
  let s := if early then (s.bump .TK_EVT_EARLY p 1).logPol (s.driver p) 43 0x44 p [num, edge - prev] else s
  let s := (s.pairCheck p).mismatchCheck p num edge chk
  let s := s.updPolder p fun v => { v with everTicked := true }
  let s := s.updCtx p fun c =>
    { c with first := none, due := dropEdge c.due, edgeIx := c.edgeIx + 1, lastFire := base, fireAt := base + extra,
             edges := (num, edge) :: c.edges.filter fun x => decide (edge ≤ x.2 + 2 ^ 32) }
  let m := s.tickMsg p num edge base extra count early
  let s := (s.edgeState p).tickOut p m
  match c.next with
  | some (ws, t) => if t + 1000000 ≤ edge then s.takeConfig p ws edge else s
  | none => s

/-- The effect of HOST_TICK: one edge for a HOST source (R82). -/
def State.hostTick (s : State) (p : Nat) : State :=
  if (s.polder p).isSome && s.tkSource p = 5 && s.get .TK_NOW_STATE p ≠ 0 then s.tickEdge p s.now (s.tkOffset p) 0 none
  else s

/-- HOST_TICK (R82). -/
def execHostTick (a : Acc) (h : Half) (p : Pol) (s : State) : Res :=
  .next (s.secureOnly a h (hubAddr h (0x40002030 + p * 0x80)) fun s => s.hostTick p)

/-- TICK_CONFIG_TAKE_EFFECT (R86, R89): the configuration of a stopped or new polder, or of one stalled for want of its encoder,
1 ms after its acceptance. -/
def execTickConfigTakeEffect (p : Pol) (s : State) : Res :=
  .next (
    match (s.ctx p).next with
    | some (ws, t) =>
      if (s.get .TK_NOW_STATE p = 0 || (s.ctx p).encFailed) && t + 1000000 ≤ s.now then s.takeConfig p ws (t + 1000000) else s
    | none => s)

/-- ENCODER_STALL_TIMEOUT (R85): no ENC edge for 1 s logs code 0x4D once and TK_NOW.STATE reads 3 until the next edge. -/
def execEncoderStallTimeout (p : Pol) (s : State) : Res :=
  .next (
    let st := s.get .TK_NOW_STATE p
    if s.tkSource p = 1 && (st = 1 || st = 2) &&
        decide (max (s.get .TK_EDGE_PTIME p) (s.ctx p).anchor + 1000000000 ≤ s.now) then
      ((s.put .TK_NOW_STATE p 3).updCtx p fun c => { c with stall := some st }).logPol (s.driver p) 43 0x4D p
        [unsigned64 (s.encPos (s.encOn p (s.driver p)))]
    else s)

/-- TICK_RESUME (R98): delivery of a suspended polder resumes from the next edge. -/
def State.tickResume (s : State) (p : Nat) : State :=
  if s.get .TK_NOW_STATE p = 2 || (s.ctx p).stall = some 2 then s.updCtx p fun c => { c with resumeNext := true } else s

def execTickResume (a : Acc) (h : Half) (p : Pol) (s : State) : Res :=
  .next (s.secureOnly a h (hubAddr h (0x40002030 + p * 0x80)) fun s => s.tickResume p)

/-! ### Encoder inputs (R83, R86) -/

def EncIn.empty : EncIn := { a := false, b := false, zPos := none, partnerAdv := 0 }
def State.encIn (s : State) (e : Nat) : EncIn := Tbl.get EncIn.empty s.te.enc e
def State.updEnc (s : State) (e : Nat) (f : EncIn → EncIn) : State :=
  s.updTe fun t => { t with enc := Tbl.set EncIn.empty t.enc e (f (s.encIn e)) }

/-- The place of a pair of levels in the quadrature cycle: with A leading B they pass 00, 10, 11, 01. -/
def quadPlace (a b : Bool) : Nat := if a then (if b then 2 else 1) else if b then 3 else 0

/-- How many places a transition moves on in the cycle; 2 is illegal. -/
def quadStep (a b a2 b2 : Bool) : Nat := (quadPlace a2 b2 + 4 - quadPlace a b) % 4

/-- What a transition counts by ENC_CFG.MODE (R83): ×4 at every transition, ×2 at those of A, ×1 at those of A with B low
(DESIGN CHOICE, log entry 156); in mode 3 an A pulse by the level of B. -/
def encStep (mode : Nat) (a b a2 b2 : Bool) : Int :=
  if mode = 3 then (if !a && a2 then (if b2 then -1 else 1) else 0)
  else
    let n : Int := if quadStep a b a2 b2 = 1 then 1 else if quadStep a b a2 b2 = 3 then -1 else 0
    if mode = 0 || mode = 1 && a != a2 || mode = 2 && a != a2 && !b2 then n else 0

/-- An input fails (R86): its ENC_STAT bit and FAILED. -/
def State.encFail (s : State) (e : Nat) (bit : Fld) : State :=
  let i := instEnc e
  let was := s.encBad e
  let s := (s.setFlag bit i true).setFlag .ENC_STAT_FAILED i true
  if was then s else s.encDown e

/-- A detector of R86 finds input `e` at fault; none runs while it is not decoded. -/
def State.encFault (s : State) (e : Nat) (cause : EncFault) : State :=
  let i := instEnc e
  if !s.flag .ENC_CFG_EN i || s.lost (e / 8) then s
  else match cause with
    | .illegal => (s.bump .ENC_STAT_ILLEGAL_CNT i 1).encFail e .ENC_STAT_ILLEGAL
    | .los => s.encFail e .ENC_STAT_LOS
    | .index => s.encFail e .ENC_STAT_ZERR
    | .overspeed => s.encFail e .ENC_STAT_OVERSPEED

/-- ENC_CFG.TOL as it acts (0 acts as 1). -/
def State.encTol (s : State) (e : Nat) : Nat := max (s.get .ENC_CFG_TOL (instEnc e)) 1

/-- Input `e` counts `n` (R83, R84): ENC_POS moves, and each engine that counts the input notes an edge it reaches. In Guarded the
partner falls behind; 64 × TOL counts with no transition of its own show loss of signal (R86). The counts are taken whatever
their direction, with this input's TOL (DESIGN CHOICE, log entry 157). -/
def State.encCount (s : State) (e : Nat) (n : Int) : State :=
  let s := s.put .ENC_POS_POS (instEnc e) (unsigned64 (s.encPos e + n))
  let s := (s.encPolders e).foldl (fun s p =>
    [0, 1].foldl (fun s h => if s.encOn p h = e then s.noteEdge p h else s) s) s
  let q := encPair e
  if !s.guardedCfg || s.encBad q then s
  else
    let s := s.updEnc q fun x => { x with partnerAdv := x.partnerAdv + 1 }
    if 64 * s.encTol e ≤ (s.encIn q).partnerAdv then s.encFault q .los else s

/-- An index edge of input `e` (R86, R470): with ZCHK the interval since the last is held against ZPERIOD. -/
def State.encIndex (s : State) (e : Nat) : State :=
  let i := instEnc e
  let bad := match (s.encIn e).zPos with
    | some q => s.flag .ENC_CFG_ZCHK i &&
        decide (s.encTol e < ((s.encPos e - q).natAbs - s.get .ENC_CFG_ZPERIOD i : Int).natAbs)
    | none => false
  let s := s.updEnc e fun x => { x with zPos := some (s.encPos e) }
  if bad then s.encFault e .index else s

/-- ENCODER_COUNT (R83): lines A and B of an input come to levels that hold for `held` ns; a pulse shorter than FILT is ignored.
The transition counts as MODE says, an illegal one fails the input (R86), and `z` says that an index edge is taken with it,
after the count (R470). An input that is off, or on a lost half, is not decoded. -/
def execEncoderCount (e : Fin 16) (a b z : Bool) (held : Nat) (s : State) : Res :=
  let i := instEnc e
  let x := s.encIn e
  .next (
    if s.lost (e / 8) then s
    else if !s.flag .ENC_CFG_EN i then s.updEnc e fun x => { x with a := a, b := b }
    else if held < s.get .ENC_CFG_FILT i then s
    else
      let mode := s.get .ENC_CFG_MODE i
      let s := s.updEnc e fun x => { x with a := a, b := b, partnerAdv := if x.a = a && x.b = b then x.partnerAdv else 0 }
      let n := encStep mode x.a x.b a b
      let s := if n = 0 then s else s.encCount e n
      let s := if mode ≠ 3 && quadStep x.a x.b a b = 2 then s.encFault e .illegal else s
      if z then s.encIndex e else s)

/-- ENCODER_INPUT_FAIL (R86): what a detector of an input finds; illegal transitions also count in ILLEGAL_CNT. -/
def execEncoderInputFail (e : Fin 16) (cause : EncFault) (s : State) : Res := .next (s.encFault e cause)

/-- The effect of a write to ENC_CFG (R83, R86): FAILED clears when EN is written 0 and then 1. -/
def State.encCfgWrite (s : State) (e v : Nat) : State :=
  let i := instEnc e
  let rising := !s.flag .ENC_CFG_EN i && bitOf v 0
  let s := ((((((s.put .ENC_CFG_EN i (bitsOf v 0 0)).put .ENC_CFG_MODE i (bitsOf v 2 1)).put .ENC_CFG_ZCHK i
    (bitsOf v 3 3)).put .ENC_CFG_FILT i (bitsOf v 7 4)).put .ENC_CFG_TOL i (bitsOf v 23 16)).put .ENC_CFG_ZPERIOD i
    (bitsOf v 47 24))
  if rising then (s.setFlag .ENC_STAT_FAILED i false).updEnc e fun x => { x with zPos := none, partnerAdv := 0 } else s

/-- A write of ENC_CFG. An input that is switched off counts as failed (R83). -/
def State.encSwitch (s : State) (e v : Nat) : State :=
  let down := !s.encBad e && !bitOf v 0
  let s := s.encCfgWrite e v
  if down then s.encDown e else s

/-- ENC_CFG_WRITE (R86). -/
def execEncCfgWrite (a : Acc) (e : Fin 16) (v : Word) (s : State) : Res :=
  .next (s.secureOnly a (e / 8) (hubAddr (e / 8) (0x40001000 + e % 8 * 0x20)) fun s => s.encSwitch e v.toNat)

/-- ENGINE_TAKEOVER (R93): the checker drives polder `p` from the next edge. -/
def execEngineTakeover (p : Pol) (cause : TakeoverCause) (s : State) : Res :=
  let h := 1 - s.driver p
  let c := match cause with | .halfLost => 1 | .parity => 2 | .encoder => 3
  .next (if (s.polder p).isNone || s.lost h || s.nextDriver p = h then s else s.handOver p h c)

/-! ### Delivery to the dies (R90 to R93) -/

/-- GD_CTL.CATCHUP as it acts: 0 acts as 1, 5 to 7 as 4 (R132). -/
def State.catchup (s : State) (p : Nat) : Nat := min (max (s.get .GD_CTL_CATCHUP p) 1) 4

/-- CATCHUP_FAIL (R132): the oldest waiting tick is dropped, it counts in MISSED, and catch-up ends. -/
def State.catchupFail (s : State) (g : Nat) : State :=
  let c := s.core g
  let dropped := match c.t.backlog with | m :: _ => m.num | [] => c.t.cur.num
  let was := c.t.catching && !c.t.recovering
  let s := s.updTick g fun t => { t with backlog := t.backlog.drop 1, missed := min (t.missed + b2n (!t.backlog.isEmpty)) 65535,
                                         catching := false }
  let s := if was then s.put .GD_STAT_RECOVERING c.pol (s.get .GD_STAT_RECOVERING c.pol - 1) else s
  (s.bump .GD_CNT1_CATCHUP_FAIL c.pol 1).logDie (dieOf g) 0x5C c.pol [c.lcpu, dropped]

/-- A tick message reaches a core (R90, R92, R98, R132): its one-deep latch takes it; a core in recovery or catch-up keeps
its ticks in order up to CATCHUP; a tick the core never took counts as missed, and under SKIP is dropped with code
0x41. -/
def State.latchTick (s : State) (g : Nat) (m : TickMsg) : State :=
  let c := s.core g
  let m := { m with at_ := s.diePtime (dieOf g) }
  if c.t.leaving || !c.started && !c.t.recovering then s
  else if c.t.recovering || c.t.catching then
    let s := if c.t.backlog.length ≥ s.catchup c.pol then s.catchupFail g else s
    s.updTick g fun t => { t with backlog := t.backlog ++ [m] }
  else match c.t.pend with
  | some old =>
    let s := s.updTick g fun t => { t with pend := some m, missed := min (t.missed + 1) 65535 }
    if s.tkPolicy c.pol = 1 then
      (s.bump .TK_EVT_SKIP c.pol 1).logDie (dieOf g) 0x41 c.pol [c.lcpu, old.num]
    else s
  | none => s.updTick g fun t => { t with pend := some m }

/-- The cores of polder `p` on die `d`. -/
def State.coresOn (s : State) (p d : Nat) : List Nat :=
  match s.polder p with
  | some v => v.cores.filter fun g => dieOf g == d
  | none => []

/-- Pass one message on to the die's cores, and drop both engines' copies of that tick. -/
def State.passTick (s : State) (d p : Nat) (m : TickMsg) : State :=
  let s := s.updCtx p fun c => { c with msgs := c.msgs.filter fun x => !(x.1 == d && x.2.2.num == m.num) }
  (s.coresOn p d).foldl (fun s g => s.latchTick g m) s

/-- The oldest message of engine `h` on its way to die `d`. -/
def State.msgTo (s : State) (p d h : Nat) : Option TickMsg :=
  match (s.ctx p).msgs.find? fun x => x.1 == d && x.2.1 == h with
  | some x => some x.2.2
  | none => none

/-- TICK_MESSAGE (R90, R93): the driving engine's copy is passed on; the checker's copy waits at the die. -/
def execTickMessage (d : Die) (p : Pol) (te : Half) (s : State) : Res :=
  .next (if (te : Nat) = s.driver p then
      match s.msgTo p d te with
      | some m => s.passTick d p m
      | none => s
    else s)

/-- TICK_BACKUP_COPY (R93): 20 ns before the fire PTIME without the driver's copy, the checker's is passed on and
TE_STAT.BACKUP counts. -/
def execTickBackupCopy (d : Die) (p : Pol) (s : State) : Res :=
  .next (match s.msgTo p d (1 - s.driver p) with
    | some m => if m.fire ≤ s.now + 20 then (s.bump .TE_STAT_BACKUP (instH (1 - s.driver p) 0) 1).passTick d p m else s
    | none => s)

/-! ### TICK_CONFIGURE (R87, R88) -/

def specTickConfigure : OpSpec :=
  { secureOnly := true, namesPol := true, needsPhase7 := false, powerFail := false, dmodes := [1], writesBuf := false,
    m0 := 0, m1 := 0 }

/-- The range checks of R88 on a descriptor for polder `v`. -/
def tickDescOk (v : Polder) (w : Nat → Nat) : Bool :=
  let src := bitsOf (w 0) 2 0
  let per := bitsOf (w 2) 31 0
  let work := bitsOf (w 3) 63 32
  let gd := bitsOf (w 3) 31 0
  let pol := bitsOf (w 0) 10 9
  decide (src ≤ 5) && bitsOf (w 0) 3 3 == 0 && decide (pol ≤ 2) && bitsOf (w 0) 15 12 == 0 && bitsOf (w 0) 63 24 == 0 &&
    bitsOf (w 1) 63 56 == 0 && bitsOf (w 2) 63 48 == 0 && bitsOf (w 5) 62 48 == 0 && w 6 == 0 && w 7 == 0 &&
    decide (10000 ≤ per) && decide (per ≤ if v.guarded then 400000 else 100000000) && decide (160 ≤ bitsOf (w 2) 47 32) &&
    decide (work + gd ≤ per) && (!v.guarded || decide (work * 10 ≤ per * 7) && decide (2000 ≤ gd)) &&
    (!v.guarded || pol != 2) && (src == 0 || v.tickBound) && (src != 1 || bitsOf (w 1) 55 32 != 0) &&
    (!v.guarded || src != 5)

/-- TICK_CONFIGURE (R44, R46, R63, R86 to R89): an accepted descriptor waits to take force, and the command completes then with
the number of the first tick; one that comes meanwhile finds the polder busy. While no input of a failed encoder is enabled
again, it is not ready (DESIGN CHOICE, log entry 158). -/
def execTickConfigure (c : Cmd) (s : State) : Res :=
  .next (runCmdLater specTickConfigure c (fun s =>
    let p := c.e.polder
    match s.polder p with
    | none => (s, some (resErr stNoSuchObject))
    | some v =>
      let w := fun i => s.bufWord c i
      let e := bitsOf (w 0) 7 4
      let src := bitsOf (w 0) 2 0
      if s.bufLen c ≠ 64 then (s, some (resErr stInvalidBuffer))
      else if !tickDescOk v w then (s, some (resErr stInvalidField))
      else if src = 1 && !v.encs.testBit e then (s, some (resErr stNoSuchObject))
      else if v.guarded && v.frame.isNone then (s, some (resErr stNotReady))
      else if src = 4 && !s.flag .CS_TBIND_VALID p then (s, some (resErr stNotReady))
      else if src = 1 && (s.ctx p).encFailed && s.encBad e && (!s.guardedCfg || s.encBad (encPair e)) then
        (s, some (resErr stNotReady))
      else if (s.ctx p).next.isSome then (s, some (resErr stBusy))
      else
        (s.updCtx p fun x => { x with next := some ((List.range 6).map (fun i => BitVec.ofNat 64 (w i)), s.now),
                                      nextCmd := some c }, none)) s)

/-! ### Triggers (R101 to R105) -/

def State.trigQ (s : State) (t : Nat) : List (Nat × Nat × Option Nat) := Tbl.get [] s.te.trig t
def State.setTrigQ (s : State) (t : Nat) (q : List (Nat × Nat × Option Nat)) : State :=
  (s.updTe fun e => { e with trig := Tbl.set [] e.trig t q }).put .TRIG_STAT_DEPTH (instTrg t) q.length

/-- The other output of a pair (R64), and the outputs a program or configuration reaches. -/
def trigPair (t : Nat) : Nat := (t + 16) % 32
def State.trigSet (s : State) (t : Nat) : List Nat := if s.guardedCfg then [t, trigPair t] else [t]

/-- The polder that holds trigger `t`. -/
def State.trigOwner (s : State) (t : Nat) : Option Nat :=
  (List.range 32).find? fun p => match s.polder p with | some v => v.trigs.testBit t | none => false

/-- TRIG_CFG.WIDTH as it acts (values below 10 act as 10). -/
def State.trigWidth (s : State) (t : Nat) : Nat := max (s.get .TRIG_CFG_WIDTH (instTrg t)) 10

/-- Drive a pulse from `start`; pulses that overlap merge into one (R101). -/
def State.pulse (s : State) (t start : Nat) : State :=
  let stop := start + s.trigWidth t
  let last := Tbl.get 0 s.te.pulseEnd t
  let s := s.updTe fun e => { e with pulseEnd := Tbl.set 0 e.pulseEnd t (max last stop) }
  s.emit (.pulse t start (max last stop) (s.get .TRIG_CFG_POL (instTrg t)))

/-- edge(n) of polder `p`, if tick `n` has occurred and its stamp is still of use. -/
def State.edgeOf (s : State) (p n : Nat) : Option Nat :=
  match (s.ctx p).edges.find? fun x => x.1 == n with | some x => some x.2 | none => none

/-- Tick `n` lies behind the next edge of polder `p`, in the half of the number space that is past. -/
def State.tickPast (s : State) (p n : Nat) : Bool :=
  (s.polder p |>.any (·.everTicked)) &&
    decide (((s.ctx p).first.getD (s.get .TK_NOW_NUM p + 1) + 2 ^ 49 - 1 - n) % 2 ^ 48 < 2 ^ 47)

/-- How late a program is now: `none` if its fire PTIME is not past (R103). -/
def State.trigLate (s : State) (p n o : Nat) : Option Nat :=
  match s.edgeOf p n with
  | some e => if e + o < s.now then some (s.now - (e + o)) else none
  | none => if s.tickPast p n then some 0xFFFFFFFF else none

/-- A program takes its place in the queue of output `t` (R101, R103): a late one is dropped with code 0x48, or with code 0x49
waits in the queue to fire now. -/
def State.trigPlace (s : State) (p t n o : Nat) : State :=
  match s.trigLate p n o with
  | some l =>
    if s.flag .TRIG_CFG_LATE (instTrg t) then
      ((s.bump .TRIG_CNT_LATE_FIRED (instTrg t) 1).logPol (t / 16) 43 0x49 p [t, n, o, l]).setTrigQ t
        (s.trigQ t ++ [(n, o, some s.now)])
    else (s.bump .TRIG_CNT_LATE_DROP (instTrg t) 1).logPol (t / 16) 43 0x48 p [t, n, o, l]
  | none => s.setTrigQ t (s.trigQ t ++ [(n, o, none)])

/-- Queue full: 1,024 entries (R101, R104). -/
def State.trigFull (s : State) (t : Nat) : Bool := decide (1024 ≤ (s.trigQ t).length)

/-- A program released from a deferred queue: dropped with TRIG_CNT.OVF and code 0x4A for an offset below 100 (cause 2) or on a
full queue (cause 1) (R101, R104, log entry 40). -/
def State.trigRelease (s : State) (p t n o : Nat) : State :=
  if o < 100 || s.trigFull t then
    (s.bump .TRIG_CNT_OVF (instTrg t) 1).logPol (t / 16) 43 0x4A p [t, n, o, if o < 100 then 2 else 1]
  else s.trigPlace p t n o

/-- The command's doorbell waited in a deferred queue (R102). -/
def State.released (s : State) (c : Cmd) : Bool := (s.runningOf c).any (·.released)

/-- The trigger's half is in service. -/
def State.trigUp (s : State) (t : Nat) : Bool := !s.lost (t / 16)

/-- The object check of a trigger command: secure sources may name a held trigger, others only one of their polders'. -/
def State.trigFor (s : State) (c : Cmd) (t : Nat) : Option Nat :=
  match s.trigOwner t with
  | some p => if s.srcBound c.src p then some p else none
  | none => none

/-- NO_SUCH_OBJECT for a trigger: recorded as silence when it exists and a non-secure source is not bound (R39). -/
def State.trigSilent (s : State) (c : Cmd) (t : Nat) : State :=
  if (s.trigOwner t).isSome && !s.srcSecure c.src then s.silence c else s

def specTrigProgram : OpSpec :=
  { secureOnly := false, namesPol := false, needsPhase7 := true, powerFail := false, dmodes := [0], writesBuf := false,
    m0 := 0xFFFFFFFFFFFF001F, m1 := 0xFFFFFFFF }

/-- TRIGGER_PROGRAM (R101 to R104): in Guarded the program enters both members' queues. -/
def execTriggerProgram (c : Cmd) (s : State) : Res :=
  .next (runCmd specTrigProgram c (fun s =>
    let t := bitsOf c.e.p0 4 0
    let n := bitsOf c.e.p0 63 16
    let o := bitsOf c.e.p1 31 0
    match s.trigFor c t with
    | none => (s.trigSilent c t, resErr stNoSuchObject)
    | some p =>
      let ts := (s.trigSet t).filter s.trigUp
      if s.released c then (ts.foldl (fun s t => s.trigRelease p t n o) s, resOk)
      else if o < 100 then (s, resErr stInvalidField)
      else if ts.any s.trigFull then (s, resErr stNoResource)
      else (ts.foldl (fun s t => s.trigPlace p t n o) s, resOk)) s)

/-- The fire PTIME of a queued entry: edge(n) + o, or for a late one when it took its place. -/
def State.fireOf (s : State) (p : Nat) (x : Nat × Nat × Option Nat) : Option Nat :=
  match x.2.2 with
  | some t => some t
  | none => (s.edgeOf p x.1).map (· + x.2.1)

/-- The first entry of output `t` whose fire PTIME is over drives its pulse, or is discarded while the output is disarmed
(R101, R104). -/
def State.fireOne (s : State) (p t : Nat) : State :=
  match (s.trigQ t).find? fun x => (s.fireOf p x).any fun f => decide (f < s.now) with
  | none => s
  | some x =>
    let s1 := s.setTrigQ t ((s.trigQ t).erase x)
    if s.flag .TRIG_STAT_ARMED (instTrg t) then (s1.bump .TRIG_CNT_FIRED (instTrg t) 1).pulse t ((s.fireOf p x).getD s.now)
    else s1.bump .TRIG_CNT_DISARM_DROP (instTrg t) 1

/-- The level of trigger output `t` (R465, R467): high impedance while no polder holds it, else the active level of TRIG_CFG.POL
during a pulse and the inactive one otherwise. -/
def State.trgPin (s : State) (t : Nat) : Option Bool :=
  if (s.trigOwner t).isNone then none
  else some (xor (s.flag .TRIG_CFG_POL (instTrg t)) (decide (s.now < Tbl.get 0 s.te.pulseEnd t)))

/-- TRIGGER_FIRE (R101, R104): a firing. Its pulse starts at its fire PTIME, and it is settled once that nanosecond is over, so that
a disarm of the same nanosecond comes before it. -/
def execTriggerFire (t : Fin 32) (s : State) : Res :=
  .next (match s.trigOwner t with
    | none => s
    | some p => if s.trigUp t then s.fireOne p t else s)

def specTrigArm : OpSpec :=
  { secureOnly := false, namesPol := false, needsPhase7 := false, powerFail := false, dmodes := [0], writesBuf := false,
    m0 := 0x1F, m1 := 0 }

/-- Arm or disarm one output. -/
def State.trigArm (s : State) (c : Cmd) (b : Bool) : State × CmdRes :=
  let t := bitsOf c.e.p0 4 0
  match s.trigFor c t with
  | none => (s.trigSilent c t, resErr stNoSuchObject)
  | some p =>
    if !s.trigUp t then (s, resErr stNotReady)
    else
      -- firings of earlier nanoseconds come first
      let s := (s.trigQ t).foldl (fun s _ => s.fireOne p t) s
      (s.setFlag .TRIG_STAT_ARMED (instTrg t) b, resOk (b2n b))

/-- TRIGGER_ARM (R104). -/
def execTriggerArm (c : Cmd) (s : State) : Res := .next (runCmd specTrigArm c (fun s => s.trigArm c true) s)
/-- TRIGGER_DISARM (R104). -/
def execTriggerDisarm (c : Cmd) (s : State) : Res := .next (runCmd specTrigArm c (fun s => s.trigArm c false) s)

def specSetTrig : OpSpec :=
  { secureOnly := false, namesPol := false, needsPhase7 := false, powerFail := false, dmodes := [0], writesBuf := false,
    m0 := 0xFFFF, m1 := 0xFFFFFF03 }

/-- TRIG_CFG of an output as one word. -/
def State.trigCfg (s : State) (t : Nat) : Nat :=
  s.get .TRIG_CFG_POL (instTrg t) + s.get .TRIG_CFG_LATE (instTrg t) * 2 + s.get .TRIG_CFG_WIDTH (instTrg t) * 256
def State.putTrigCfg (s : State) (t v : Nat) : State :=
  ((s.put .TRIG_CFG_POL (instTrg t) v).put .TRIG_CFG_LATE (instTrg t) (v / 2)).put .TRIG_CFG_WIDTH (instTrg t) (v / 256)

/-- SET_TRIG_CFG (R105): both members of the pair in Guarded. -/
def execSetTrigCfg (c : Cmd) (s : State) : Res :=
  .next (runCmd specSetTrig c (fun s =>
    let t := bitsOf c.e.p0 15 0 - 0x100
    match s.trigFor c t with
    | none => if s.srcSecure c.src then
        ((s.trigSet t).foldl (fun s t => s.putTrigCfg t c.e.p1) s, resOk (s.trigCfg t))
      else (s.trigSilent c t, resErr stNoSuchObject)
    | some _ => ((s.trigSet t).foldl (fun s t => s.putTrigCfg t c.e.p1) s, resOk (s.trigCfg t))) s)

/-! ### Slack windows (R106, R107) -/

/-- Every core of the polder has closed the last tick, commit drain included, and none is recovering (R133). -/
def State.allClosed (s : State) (p : Nat) : Bool :=
  match s.polder p with
  | some v => v.cores.all fun g =>
      let t := (s.core g).t
      !t.isOpen && t.step == 0 && !t.recovering && t.pend.isNone && t.cur.num == s.get .TK_NOW_NUM p
  | none => true

/-- The close time of a polder's slack (R106): for every source the fire PTIME of the last tick + PERIOD_NS, less the guard. -/
def State.slackUntil (s : State) (p : Nat) : Nat :=
  (s.ctx p).fireAt + s.tkPeriod p - s.get .SLACK_CTL_GUARD_NS (instH (s.driver p) 0)

/-- The earliest close time among the polders that take part, if all are in slack. -/
def State.slackTime (s : State) : Option Nat :=
  let ps := (List.range 32).filter s.slackTakes
  if ps.all s.allClosed then (ps.map s.slackUntil).min? else none

/-- SLACK_OPEN (R107): every participating polder is in slack; a window shorter than MIN_NS is not published. -/
def execSlackOpen (s : State) : Res :=
  .next (match s.slackTime with
    | some t =>
      if s.now + s.get .SLACK_CTL_MIN_NS (instH s.activeHalf 0) ≤ t then
        s.updTe fun e => { e with slackOpen := true, slackClose := some t } else s
    | none => s)

/-- SLACK_CLOSE (R107): a published window that closes early. -/
def execSlackClose (s : State) : Res := .next s.slackShut

/-- SLACK_CLOSE_PTIME (R107, R284): the published close PTIME is reached. -/
def execSlackClosePtime (s : State) : Res :=
  .next (match s.te.slackClose with
    | some t => if t ≤ s.now then s.slackShut else s
    | none => s)

end Sys2Proof.Machine
end

