-- ==== Sys2Proof/Machine/Cores.lean ====
section
/-! DEFINITION. The core (spec/06): running an instruction, guard violations, interrupts, calls and returns,
system registers, the core clock. -/
namespace Sys2Proof.Machine

/-- GUARD_VIOLATION (R116, R152): class 0x10 before the instruction has any effect; a refused Device read or atomic
counts in GD_CNT1.DEV_READ with code 0x54. -/
def State.guardViolation (s : State) (g sub : Nat) (addr : Word) (pa : Nat) : State :=
  let c := s.core g
  let s := if sub = 1 || sub = 2 then
      (s.bump .GD_CNT1_DEV_READ c.pol 1).logDie (dieOf g) 0x54 c.pol [c.lcpu, c.t.cur.num, pa] else s
  s.syncExc g 0x10 sub 1 addr

/-- Run an instruction of core `g`: nothing happens while the core cannot execute one (log entry 15); one below its
lowest level raises class 0x01 (R155, R156). -/
def State.instr (s : State) (g need func sub : Nat) (f : State → State) : State :=
  if !s.canRun g then s
  else if (s.core g).level < need then s.belowLevel g func sub need
  else f s

/-! ### The added instructions' words (R155, R156) -/

/-- The fields of an added instruction's word. -/
def wordFunc (w : BitVec 32) : Nat := w.toNat % 64
def wordSub (w : BitVec 32) : Nat := w.toNat / 64 % 32
def wordRs2 (w : BitVec 32) : Nat := w.toNat / 2 ^ 11 % 32
def wordRs1 (w : BitVec 32) : Nat := w.toNat / 2 ^ 16 % 32
def wordRd (w : BitVec 32) : Nat := w.toNat / 2 ^ 21 % 32
def wordMajor (w : BitVec 32) : Nat := w.toNat / 2 ^ 26

/-- A row of R156: whether the instruction uses RD, RS1 and RS2, the SUB values it defines and the lowest level for one. A way
above 11 is a status of WLOCK's, not an unknown encoding (R162). -/
structure AddedRow where
  rd : Bool
  rs1 : Bool
  rs2 : Bool
  sub : Nat → Bool
  level : Nat → Nat

def addedRow : Nat → Option AddedRow
  | 0x00 => some ⟨true, false, false, (· == 0), fun _ => 0⟩
  | 0x01 => some ⟨false, false, false, (· == 0), fun _ => 0⟩
  | 0x02 => some ⟨false, false, false, (· == 0), fun _ => 0⟩
  | 0x04 => some ⟨true, false, false, (· == 0), fun _ => 0⟩
  | 0x05 => some ⟨false, true, false, (· == 0), fun _ => 0⟩
  | 0x08 => some ⟨false, true, false, fun n => n % 4 < 3 && n / 4 < 3, fun n => if n % 4 = 0 then 0 else 1⟩
  | 0x09 => some ⟨false, true, false, (· < 3), fun _ => 1⟩
  | 0x0C => some ⟨true, true, true, fun _ => true, fun _ => 1⟩
  | 0x0D => some ⟨false, false, false, (· < 12), fun _ => 1⟩
  | 0x0E => some ⟨true, false, false, (· == 0), fun _ => 1⟩
  | 0x10 => some ⟨false, true, true, fun n => n % 8 != 7, fun n => if n % 8 ≤ 3 then 1 else 2⟩
  | 0x11 => some ⟨false, false, false, (· == 0), fun _ => 1⟩
  | 0x14 => some ⟨false, true, true, (· == 0), fun _ => 0⟩
  | 0x18 => some ⟨false, false, false, (· < 5), fun _ => 0⟩
  | _ => none

/-- Every field of the word is one the instruction uses and defines (R155). -/
def AddedRow.fits (r : AddedRow) (w : BitVec 32) : Bool :=
  (r.rd || wordRd w == 0) && (r.rs1 || wordRs1 w == 0) && (r.rs2 || wordRs2 w == 0) && r.sub (wordSub w)

/-- Run an added instruction's word: class 0x00 for an unknown FUNC, an undefined SUB or a field that is not used, class 0x01
below its level; `f` is what the words of FUNC `func`, and for a fence of SUB `sub`, do. Another instruction's word does nothing
here. -/
def State.addedIf (s : State) (ready : Bool) (g func : Nat) (sub : Option Nat) (w : BitVec 32) (f : State → State) : State :=
  if !ready || wordMajor w ≠ 0x3B then s
  else match addedRow (wordFunc w) with
    | none => s.illegal g w.toNat
    | some r =>
      if !r.fits w then s.illegal g w.toNat
      else if wordFunc w ≠ func || sub.any (· != wordSub w) then s
      else if (s.core g).level < r.level (wordSub w) then s.belowLevel g func (wordSub w) (r.level (wordSub w))
      else f s
def State.added (s : State) (g func : Nat) (w : BitVec 32) (f : State → State) : State := s.addedIf (s.canRun g) g func none w f

/-! ### Interrupts (R100, R153, R154) -/

/-- HELD_INTERRUPTS_TAKEN (R110, R130, R153): a machine check that waited comes first; up to four held interrupts are taken as the
first act of a tick and named in its tick record; the last taken vector runs first (log entry 16). -/
def State.takeHeld (s : State) (g : Nat) : State :=
  let ids := if (s.core g).intEnabled then (s.core g).pend.take 4 else []
  let mc := (s.core g).t.mcHeld
  let s := s.updTick g fun t => { t with ints := ids, mcHeld := none }
  let s := match mc with | some x => s.takeMc g x.1 x.2 | none => s
  ids.foldl (fun s _ => s.takeInt g) s

/-- INTERRUPT (R100, R153, R154): the identity becomes pending; a core that has no open tick takes it where its level's
enable admits it, a tick-bound thread in an open tick holds it. A core in TICKWAIT's C1 wakes for it and records the
TICKWAIT's address. -/
def execInterrupt (p : Pol) (l : Byte) (id : BitVec 16) (s : State) : Res :=
  let known := id.toNat < 0x10 || id = 0x10 || id = 0x20 || id = 0x21 || (0x100 ≤ id.toNat && id.toNat ≤ 0x13F) || 0x200 ≤ id.toNat
  .next (if known then s.raiseInt p l.toNat id.toNat else s)

/-! ### Calls and returns (R144, R145, R151) -/

/-- SUPERVISOR_CALL (R151): class 0x03 at S; the return address is the next instruction (log entry 14). A breakpoint raises class
0x0C at S with its own address. -/
def execSupervisorCall (g : GCore) (kind : CallKind) (imm : BitVec 16) (s : State) : Res :=
  .next (s.instr g 0 0 0 fun s =>
    match kind with
    | .call => s.takeExc g { cls := 3, detail := imm.toNat, level := max 1 (s.core g).level, addr := 0, kind := 0 } ((s.core g).pc + 4)
    | .breakpoint => s.syncExc g 0x0C imm.toNat 1 0)

/-- HYPERVISOR_CALL (R151): class 0x04 at H. -/
def execHypervisorCall (g : GCore) (imm : BitVec 16) (s : State) : Res :=
  .next (s.instr g 0 0 0 fun s =>
    s.takeExc g { cls := 4, detail := imm.toNat, level := max 2 (s.core g).level, addr := 0, kind := 0 } ((s.core g).pc + 4))

/-- MONITOR_CALL (R144, R145): class 0x05 at M; in a non-secure polder class 0x00 (unknown instruction), with the word
as the K64 volume encodes it (log entry 14). -/
def execMonitorCall (g : GCore) (imm : BitVec 16) (s : State) : Res :=
  .next (s.instr g 0 0 0 fun s =>
    if s.coreSecPol g then
      s.takeExc g { cls := 5, detail := imm.toNat, level := 3, addr := 0, kind := 0 } ((s.core g).pc + 4)
    else (s.illegal (g := g) (word := (Config.freeWord s.free).toNat % 2 ^ 32)).drawn)

/-- EXCEPTION_RETURN (R144, R145): to the level STAT saved, never above the current one; a return from M takes
WCTL_M.RWORLD as the world bit, any other keeps it; at U the instruction is above its level. The predictor's retired
state stands (R169). -/
def execExceptionReturn (g : GCore) (s : State) : Res :=
  .next (
    if !s.canRun g then s
    else
      let c := s.core g
      if c.level = 0 then s.belowLevel g 0 0 1
      else
        let st := (c.sysOf (bankReg c.level 0)).toNat
        let l := min (bitsOf st 1 0) c.level
        let w := if c.level = 3 && l < 3 then (c.sysOf 0xC0A).getLsbD 0 else c.sec
        let s := s.countRetired g
        (s.updCore g fun c =>
          { c.squash with level := l, sec := w, pc := c.sysOf (bankReg c.level 1), t := { c.t with lastRetire := s.now } }).admitInt g)

/-- K64_HALT (R431): the core waits in C1. -/
def execK64Halt (g : GCore) (s : State) : Res :=
  .next (s.instr g 0 0 0 fun s => (s.updCore g fun c => { c with pow := 1, idleSince := some s.now }).retire g)

/-- DEVICE_READ_TIMEOUT (R151): a Device read without a response within 1 ms: machine check source 0x03. -/
def execDeviceReadTimeout (g : GCore) (s : State) : Res :=
  .next (match (s.core g).miss.find? fun m => (m.kind == 5 || m.kind == 8 && s.rgnDevice m.addr) && decide (m.sent + 1000000 ≤ s.now) with
    | some m => (s.updCore g fun c => { c with miss := c.miss.erase m }).machineCheck g 3 (BitVec.ofNat 64 m.addr)
    | none => s)

/-! ### System registers (R147 to R149) -/

/-- The level that may read a number; 4 for never, 5 for a number that is not implemented. -/
def sysReadLevel (n : Nat) (uread : Bool) : Nat :=
  if n = 0x010 || n = 0x011 then 0
  else if 0x100 ≤ n && n ≤ 0x109 then 1
  else if 0x200 ≤ n && n ≤ 0x209 then 2
  else if 0x300 ≤ n && n ≤ 0x305 then 3
  else if n = 0xC00 || n = 0xC08 || n = 0xC18 || (0xC10 ≤ n && n ≤ 0xC15) then 0
  else if n = 0xC01 || n = 0xC09 then 1
  else if n = 0xC0A then 3
  else if n = 0xC02 || n = 0xC16 then 4
  else if 0xC20 ≤ n && n ≤ 0xC33 then (if uread then 0 else 1)
  else if 0xC34 ≤ n && n ≤ 0xC37 then 1
  else 5

/-- The level that may write a number; 4 for a register with no write level, 5 for one not implemented. -/
def sysWriteLevel (n : Nat) : Nat :=
  if n = 0x010 || n = 0x011 || n = 0xC00 then 0
  else if 0x100 ≤ n && n ≤ 0x109 then 1
  else if 0x200 ≤ n && n ≤ 0x209 then 2
  else if 0x300 ≤ n && n ≤ 0x305 then 3
  else if n = 0xC01 || n = 0xC02 || n = 0xC16 then 1
  else if n = 0xC0A then 3
  else if n = 0xC08 || n = 0xC09 || n = 0xC18 || (0xC10 ≤ n && n ≤ 0xC15) then 4
  else if 0xC20 ≤ n && n ≤ 0xC37 then 1
  else 5

/-- M registers: 0x300 to 0x305 and WCTL_M. -/
def isMReg (n : Nat) : Bool := (0x300 ≤ n && n ≤ 0x305) || n = 0xC0A

/-- The bits a register keeps; an MTSR writes zero to reserved fields (R149, spec/08).
Registers laid out by the K64 volume keep every bit (log entry 14). -/
def sysMask (n : Nat) (secPol : Bool) (level : Nat) : Nat :=
  if n = 0x102 || n = 0x202 || n = 0x302 then 0xFFFFFFFFFF
  else if n = 0x106 || n = 0x107 || n = 0x207 then 0xFFFFFFFFFF000
  else if n = 0x108 then 0xFFFF0007
  else if n = 0x208 then 0xFFFF0001
  else if n = 0x206 then 0xFFFFFFFFF000
  else if n = 0x104 || n = 0x204 || n = 0x304 then 0xFFFFFFFFFFFFF000
  else if n = 0xC00 then 0xFFFFFFFF
  else if n = 0xC0A then 1
  else if n = 0xC22 then (if secPol && level = 3 then 7 else 3)
  else if 0xC24 ≤ n && n ≤ 0xC2B then 0xFFFFFFFFFFFF
  else if 0xC2C ≤ n && n ≤ 0xC33 then (if secPol then 0x3FFFF else 0x37FFF)
  else if n = 0xC34 then (if secPol then 0xFFFFFFFF000003FF else 0xFFFFFFFF000001FF)
  else if n = 0xC35 then 0xFFFFFFFFFFFFF
  else if n = 0xC36 then 0x3FFFFF
  else 0xFFFFFFFFFFFFFFFF

/-- PLD_ID as a read finds it (R148): GCORE reads zero while WORLD is 0. -/
def State.pldId (s : State) (g : Nat) : Nat :=
  let c := s.core g
  let w0 := match s.polder c.pol with | some v => v.word0.toNat | none => 1
  c.pol + c.lcpu * 256 + b2n (s.coreSec g) * 2 ^ 16 + c.level * 2 ^ 17 + b2n (bitOf w0 1) * 2 ^ 19 + b2n (bitOf w0 2) * 2 ^ 20 +
    b2n (bitOf w0 3) * 2 ^ 21 + (if s.coreSec g then g * 2 ^ 32 else 0)

/-- What an MFSR reads. -/
def State.sysRead (s : State) (g n : Nat) : Word :=
  let c := s.core g
  if n = 0xC08 then BitVec.ofNat 64 (s.pldId g)
  else if n = 0xC09 then BitVec.ofNat 64 ((c.sysOf 0xC09).toNat % 65536 +
    (match s.polder c.pol with | some v => b2n (v.tickBound || !v.fastClock) * 65536 | none => 65536))
  else if n = 0xC18 then BitVec.ofNat 64 (s.diePtime (dieOf g))
  else c.sysOf n

/-- Class 0x02 (R149): number, write, level needed, not implemented. -/
def State.sysRefused (s : State) (g n : Nat) (write : Bool) (need : Nat) : State :=
  s.syncExc g 0x02 (n + b2n write * 4096 + (if need ≤ 3 then need else 0) * 8192 + b2n (need == 5) * 32768) 1 0

/-- The access check of an MFSR or MTSR: `none` allows; in a non-secure polder an M register is an unknown instruction
(R144). -/
def State.sysAccess (s : State) (g n : Nat) (write : Bool) : Option State :=
  let c := s.core g
  let need := if write then sysWriteLevel n else sysReadLevel n ((c.sysOf 0xC22).getLsbD 1)
  if isMReg n && !s.coreSecPol g then
    some ((s.illegal g ((Config.freeWord s.free).toNat % 2 ^ 32)).drawn)
  else if need ≤ c.level then none
  else some (s.sysRefused g n write need)

/-- MFSR (R94, R149). Reading SMP_STAT clears LOST (RC). -/
def execMfsr (g : GCore) (rd : Fin 32) (n : BitVec 12) (s : State) : Res :=
  .next (s.instr g 0 0 0 fun s =>
    match s.sysAccess g n.toNat false with
    | some t => t
    | none =>
      let v := s.sysRead g n.toNat
      let s := s.updCore g fun c => c.setGpr rd v
      let s := if n.toNat = 0xC37 then s.updCore g fun c => c.setSys 0xC37 (c.sysOf 0xC37 &&& 1) else s
      s.retire g)

/-- CNT_CTL.CLR (R441): every counter becomes zero and CNT_OVF clears. -/
def counterRegs : List Nat := [0xC20, 0xC21, 0xC23] ++ (List.range 8).map (0xC24 + ·)
def Core.clearCounters (c : Core) : Core := counterRegs.foldl (fun c n => c.setSys n 0) c

/-- CTXRND.DRAW (R148, R171): CTXKEY takes a fresh draw. -/
def State.drawKey (s : State) (g : Nat) : State := (s.updCore g fun c => c.squash.setSys 0xC01 (Config.freeWord s.free)).drawn

/-- What an MTSR of value `v` does to register `n`. -/
def State.mtsrPlain (s : State) (g n : Nat) (v : Word) : State :=
  let c := s.core g
  let m := sysMask n (s.coreSecPol g) c.level
  let keep := if n = 0xC22 && !(s.coreSecPol g && c.level = 3) then (c.sysOf n).toNat &&& 4 else 0
  let w := BitVec.ofNat 64 ((v.toNat &&& m) ||| keep)
  if n = 0xC16 then (if v.getLsbD 0 then s.tickResume c.pol else s)
  else if n = 0xC23 then s.updCore g fun c => c.setSys n (c.sysOf n &&& ~~~(v &&& 0x3FF))
  else if n = 0xC37 then s.updCore g fun c => c.setSys n (c.sysOf n &&& ~~~(v &&& 1))
  else if n = 0xC02 then (if v.getLsbD 0 then s.drawKey g else s)
  else
    let s := s.updCore g fun c => c.setSys n w
    let s := if n = 0xC22 && v.getLsbD 3 then s.updCore g Core.clearCounters else s
    let s := if n = 0xC34 then s.updCore g fun c => { c with smpLeft := 0 } else s
    if n = 0xC22 || (0xC2C ≤ n && n ≤ 0xC35) then s.updCore g fun c => { c with shadow := Tbl.insert n w (Tbl.erase c.shadow n) }
    else s

/-- The counters that an MTSR of value `v` to register `n` writes. -/
def countersWritten (n : Nat) (v : Word) : List Nat :=
  if n = 0xC22 && v.getLsbD 3 then counterRegs
  else if n = 0xC20 || n = 0xC21 || 0xC24 ≤ n && n ≤ 0xC2B then [n] else []

/-- An MTSR retires: its write of a counter wins over what the same cycle counts there, and sets no CNT_OVF bit (R443). -/
def State.retireMtsr (s : State) (g n : Nat) (v : Word) : State :=
  match countersWritten n v with
  | [] => s.retire g
  | rs =>
    let now := s.now
    let c0 := s.core g
    let s := (s.updCore g fun c => rs.foldl (fun c r => c.setSys r 0) c).countRetired g
    (s.updCore g fun c => { (rs.foldl (fun c r => c.setSys r (c0.sysOf r)) c) with
                            pc := c.pc + 4, t := { c.t with lastRetire := now } }).admitInt g

/-- MTSR (R148, R149, R444): TK_CTL.RESUME, W1C status registers, and the shadow copy of the counter controls. -/
def execMtsr (g : GCore) (n : BitVec 12) (rs : Fin 32) (s : State) : Res :=
  .next (s.instr g 0 0 0 fun s =>
    match s.sysAccess g n.toNat true with
    | some t => t
    | none =>
      let v := (s.core g).gprOf rs
      (s.mtsrPlain g n.toNat v).retireMtsr g n.toNat v)

/-- CTXKEY_WRITE (R171): the front end serialises; younger predictions use the new key. -/
def execCtxkeyWrite (g : GCore) (rs : Fin 32) (s : State) : Res :=
  .next (s.instr g 0 0 0 fun s =>
    match s.sysAccess g 0xC01 true with
    | some t => t
    | none => (s.updCore g fun c => c.squash.setSys 0xC01 (c.gprOf rs)).retire g)

/-- CTXRND_DRAW (R171): DRAW = 1 loads CTXKEY with a fresh draw. -/
def execCtxrndDraw (g : GCore) (rs : Fin 32) (s : State) : Res :=
  .next (s.instr g 0 0 0 fun s =>
    match s.sysAccess g 0xC02 true with
    | some t => t
    | none =>
      if ((s.core g).gprOf rs).getLsbD 0 then (s.drawKey g).retire g else s.retire g)

/-- RDPKR (R158). -/
def execRdpkr (g : GCore) (w : BitVec 32) (s : State) : Res :=
  .next (s.added g 0x04 w fun s => (s.updCore g fun c => c.setGpr (wordRd w) (c.sysOf 0xC00)).retire g)

/-- WRPKR (R158): bits [63:32] are ignored. -/
def execWrpkr (g : GCore) (w : BitVec 32) (s : State) : Res :=
  .next (s.added g 0x05 w fun s => (s.updCore g fun c => c.setSys 0xC00 (c.gprOf (wordRs1 w) &&& 0xFFFFFFFF)).retire g)

/-- CNT_CLR (R441): an MTSR to CNT_CTL whose CLR bit is 1 sets every counter to zero and clears CNT_OVF, beside the
other fields it writes. -/
def execCntClr (g : GCore) (rs : Fin 32) (s : State) : Res :=
  .next (s.instr g 0 0 0 fun s =>
    match s.sysAccess g 0xC22 true with
    | some t => t
    | none =>
      let v := (s.core g).gprOf rs
      (s.mtsrPlain g 0xC22 v).retireMtsr g 0xC22 v)

/-! ### The core clock (R143) -/

/-- The frequency a die's voltage supports: at most what the held voltage covers where the half that commands it is lost (R426). -/
def State.mhzHeld (s : State) (d n : Nat) : Bool :=
  !s.lost (d / 6) || decide ((Config.avsPoint d n).toNat + s.get .DPM_CTL_GUARD_MV (instD d 0) ≤ s.get .DPM_CTL_VOLT_MV (instD d 0))

/-- CORE_FREQUENCY_STEP (R143, R426): a core of a FAST_CLOCK polder moves one 100 MHz step between 2,800 and 3,400 MHz; any
other core keeps 2.8 GHz (R142). -/
def execCoreFrequencyStep (g : GCore) (up : Bool) (s : State) : Res :=
  .next (match s.polder (s.core g).pol with
    | some v =>
      if v.fastClock then
        let f := ((s.core g).sysOf 0xC09).toNat % 65536
        let n := if up then min (f + 100) 3400 else max (f - 100) 2800
        if up && !s.mhzHeld (dieOf g) n then s else s.updCore g fun c => c.setSys 0xC09 (BitVec.ofNat 64 n)
      else s
    | none => s)

/-! ### Starting a core (R146) and leaving a polder (R65) -/

/-- The state in which a core starts at its polder's entry point (R146). CTXKEY is a fresh draw. -/
def State.startCore (s : State) (g : Nat) : State :=
  let c := s.core g
  let sec := s.polSecure c.pol
  let v := s.polder c.pol
  let e := match v with | some v => v.entry | none => 0
  let n : Core := { Core.reset g with serv := 0, pol := c.pol, lcpu := c.lcpu, level := if sec then 3 else 2, sec := sec,
                                      started := true, pow := 0, pc := BitVec.ofNat 64 e, ckey := c.ckey,
                                      pend := c.pend }
  let n := ((n.setGpr 1 (BitVec.ofNat 64 c.lcpu)).setGpr 2 (BitVec.ofNat 64 c.pol)).setSys 0xC0A 0
  (s.setCore g (n.setSys 0xC01 s.fresh)).drawn

/-- What R65 clears when a core leaves a polder; its dirty lines were written back before. It goes to polder 0 in C3. -/
def State.parkCore (s : State) (g serv : Nat) : State :=
  s.setCore g { Core.reset g with serv := serv }

end Sys2Proof.Machine
end

