-- ==== Sys2Proof/Machine/Caches.lean ====
section
/-! DEFINITION. The core caches, the merging buffer and the die cache (spec/07), the stops and requests of the fabric
that they use (R230, R231, R238 to R241), and the map from a line to its memory channel (R272, R273). -/
namespace Sys2Proof.Machine

/-! ### Stops (R238) and homes (R230, R231) -/

def stopId (u n : Nat) : BitVec 12 := BitVec.ofNat 12 (u * 256 + n)
def coreStop (g : Nat) : BitVec 12 := stopId (g / 20) (g % 20)
def dieCtlStop (d : Nat) : BitVec 12 := stopId d 22
def bankStop (h b : Nat) : BitVec 12 := stopId (12 + h) b
def mcStop (h ch : Nat) : BitVec 12 := stopId (12 + h) (16 + ch)
def stopUnit (x : BitVec 12) : Nat := x.toNat / 256
def stopNo (x : BitVec 12) : Nat := x.toNat % 256

/-- The instance of a register in a core's block. -/
def instC (g : Nat) : Nat := instD (g / 20) (g % 20)

/-- BANK, SET and TAG of a line address (R231). -/
def dirBank (la : Nat) : Nat := (la % 16) ^^^ (la / 2 ^ 18 % 16)
def dirSet (la : Nat) : Nat := (la / 16 % 16384) ^^^ (la / 2 ^ 18 % 16384)
def dirTag (la : Nat) : Nat := la / 2 ^ 18

/-- The line address of a bank, set and tag (R231). -/
def dirLine (bank set tag : Nat) : Nat :=
  tag * 2 ^ 18 + (set ^^^ (tag % 16384)) * 16 + (bank ^^^ (tag % 16))

/-- The half that homes a line now: the survivor while a half is lost in the Guarded configuration, and for each bank
until its homes are handed back (R230, R264). -/
def State.home (s : State) (la : Nat) : Nat :=
  let h := homeHalf (la * 64)
  if s.guardedCfg && (s.lost h || s.halfReturning.get h && (s.dir.get h).handBack.contains (dirBank la)) then 1 - h else h

/-! ### From a line to its channel (R271 to R273) -/

/-- log₂ of the ranks per channel, and ROWB, from the population of channel 0 (R269: every channel is alike). -/
def State.rb (s : State) : Nat :=
  let n := s.get .MC_CFG_DPC 0 * s.get .MC_CFG_RANKS 0
  if n ≥ 4 then 2 else if n ≥ 2 then 1 else 0
def State.rowb (s : State) : Nat := if s.flag .MC_CFG_DENSITY 0 then 17 else 16

/-- The half line index Q (R272). -/
def State.qOf (s : State) (la : Nat) : Nat := if s.guardedCfg then la else la / 8 * 4 + la % 4

/-- The fields of R273. -/
def State.dRow (s : State) (la : Nat) : Nat := s.qOf la / 2 ^ (16 + s.rb) % 2 ^ s.rowb
def State.dRank (s : State) (la : Nat) : Nat := s.qOf la / 2 ^ 16 % 2 ^ s.rb
def State.dSub (s : State) (la : Nat) : Nat := s.qOf la % 2
def State.dCh (s : State) (la : Nat) : Nat := (s.qOf la / 2 % 8) ^^^ (s.dRow la / 32 % 8)
def State.dGroup (s : State) (la : Nat) : Nat := (s.qOf la / 128 % 8) ^^^ (s.dRow la % 8)
def State.dBank (s : State) (la : Nat) : Nat := (s.qOf la / 1024 % 4) ^^^ (s.dRow la / 8 % 4)
/-- Rank, bank group and bank as one number in rotating order (R275). -/
def State.dBankNo (s : State) (la : Nat) : Nat := s.dRank la * 32 + s.dGroup la * 4 + s.dBank la

/-! ### Messages -/

/-- Credits of a compute-die module by virtual network (R337). -/
def linkCredits : List Nat := [64, 64, 128, 128, 64, 16]

def LkSt.reset : LkSt :=
  { next := 0, replay := [], expect := 0, retryAt := none, ackAt := 0, credits := linkCredits, owed := [0, 0, 0, 0, 0, 0],
    sentAt := 0, goodAt := 0, crcAt := [], txMap := 0, rxMap := 0, lost := false, fails := 0, sleepAt := none }

/-- The module of a compute die to half `h` is lost (R15, R347). -/
def State.dieCut (s : State) (h d : Nat) : Bool := (Tbl.get LkSt.reset s.links (h * 13 + d)).lost

/-- The half from which a message between two stops crosses to the other half (R15): hub to hub, and to or from a die whose
module to the hub's half is lost. -/
def State.crosses (s : State) (src dst : BitVec 12) : Option Nat :=
  let u := stopUnit src
  let v := stopUnit dst
  if 12 ≤ u && u < 14 then
    if v < 12 then (if s.dieCut (u - 12) v then some (u - 12) else none)
    else if v < 14 && u ≠ v then some (u - 12) else none
  else if 12 ≤ v && v < 14 && s.dieCut (v - 12) u then some (13 - v) else none

/-- The die whose transit path carries a message (R265): the k-th of those in use for a line address, else the lowest. -/
def transitOf (dies : List Nat) (m : Msg) : Option Nat :=
  if m.ty = .census then dies.head? else dies[m.la.toNat % 64 % dies.length]?

/-- What carries a message across is counted: the spine, or a die's transit buffers (R16, R447). -/
def State.carried (s : State) (m : Msg) : State :=
  match s.crosses m.src m.dst with
  | none => s
  | some h =>
    if s.flag .DIR_STAT_SPINE_DOWN (instH 0 0) then
      match transitOf (s.dir.get h).mapDies m with
      | some d => s.countDie d 0x312 h (some m.pol)
      | none => s
    else s.countHub h 0x440 (Config.spineLane m.la).toNat (some m.pol)

/-- A message enters the fabric (R237 to R239). -/
def State.send (s : State) (m : Msg) : State :=
  let s := s.carried m
  { s with fabric := s.fabric ++ [m] }
/-- A message has arrived: it leaves the fabric. -/
def State.arrive (s : State) (m : Msg) : State := { s with fabric := s.fabric.erase m }

/-- The virtual network of a message (R240). -/
def msgVn : MsgTy → Nat
  | .readShared | .readOwn | .upgrade | .placeWrite | .write | .evictClean => 0
  | .invalidate | .recall | .downgrade | .census => 1
  | .invAck | .recallAck | .grant | .completion | .nack => 2
  | .data => 3
  | .writeback => 4
  | .censusReport => 5

/-- A message may arrive now: it was sent, and no earlier one of its virtual network between its two stops is still on its way
(R237). -/
def State.mayArrive (s : State) (m : Msg) : Bool :=
  s.fabric.find? (fun x => msgVn x.ty == msgVn m.ty && x.src == m.src && x.dst == m.dst) == some m

/-- A message with no mask or data, on nobody's behalf. -/
def plainMsg (ty : MsgTy) (src dst : BitVec 12) (la : Nat) (a b : Nat) : Msg :=
  { ty := ty, src := src, dst := dst, txid := 0, urg := 0, pol := 0, sec := true, a := BitVec.ofNat 12 a,
    la := BitVec.ofNat 46 la, b := BitVec.ofNat 18 b, mask := 0, data := 0 }

/-- The exclusive-retry tokens held, as (PTIME taken, polder), and the rank of a core's own: how many are older; ties go
to the lower polder number (R124). -/
def State.tokens (s : State) : List (Nat × Nat) :=
  s.cores.filterMap fun x => x.2.t.token.map fun t => (t, x.2.pol)
def State.tkRank (s : State) (g : Nat) : Nat :=
  match (s.core g).t.token with
  | some t => (s.tokens.filter fun y => decide (y.1 < t) || y.1 == t && decide (y.2 < (s.core g).pol)).length
  | none => 0

/-! ### Urgency (R278, R279) -/

/-- The port of a request by its source stop (R278). Two head ports share an ingest stop; the lower stands for both
(log entry 24). -/
def msgPort (src : BitVec 12) : Nat :=
  let u := stopUnit src
  let n := stopNo src
  if u < 12 then u
  else
    let h := u - 12
    if 30 ≤ n && n ≤ 33 then 12 + h * 8 + (n - 30) * 2
    else if n = 34 || n = 35 then 28 + h * 2 + (n - 34)
    else if n = 38 then 32 + h
    else if n = 36 || n = 37 then 34 + h * 2 + (n - 36)
    else 38

/-- MEM_TGT of a port; 0 acts as 1. -/
def State.memTgt (s : State) (port : Nat) : Nat :=
  max (s.get ([Fld.MEM_TGT_T0, .MEM_TGT_T1, .MEM_TGT_T2, .MEM_TGT_T3].getD (port % 4) .MEM_TGT_T0) (port / 4)) 1

/-- Weir `u`; one not above the one before it acts as equal to it. -/
def State.weir (s : State) (u : Nat) : Nat :=
  let a := s.get .MEM_WEIR_W1 0
  let b := max a (s.get .MEM_WEIR_W2 0)
  if u ≤ 1 then a else if u = 2 then b else max b (s.get .MEM_WEIR_W3 0)

/-- URG of a request that came with `uin` and has waited `wait` ns at this place (R279). -/
def State.urgency (s : State) (port uin wait : Nat) : Nat :=
  let tgt := s.memTgt port
  let age := (if uin = 0 then 0 else s.weir uin * tgt / 100) + wait
  ([1, 2, 3].filter fun u => decide (uin < u) && decide (s.weir u * tgt / 100 ≤ age)).foldl max uin

/-- A request as it leaves its source stop, where it has waited `wait` ns (R279). -/
def State.urged (s : State) (m : Msg) (wait : Nat) : Msg :=
  { m with urg := BitVec.ofNat 2 (s.urgency (msgPort m.src) m.urg.toNat wait) }

/-- A request of a core (R240): A[4:0] its core number, A[8] TKP, B[4:0] TKRANK. -/
def State.coreReq (s : State) (g : Nat) (ty : MsgTy) (la txid extra : Nat) (wait : Nat := 0) : Msg :=
  s.urged { plainMsg ty (coreStop g) (bankStop (s.home la) (dirBank la)) la
      (g % 20 + extra + (if (s.core g).t.token.isSome then 256 else 0)) (s.tkRank g) with
    txid := BitVec.ofNat 12 txid, pol := Fin.ofNat 32 (s.core g).pol, sec := s.coreSec g } wait

/-! ### L2 and L1 (R176, R179 to R187) -/

def State.l2 (s : State) (g la : Nat) : Option CLine := Tbl.get none (s.core g).l2 la
/-- A line of this core carries the mark of its open guarded tick. -/
def State.tdHere (s : State) (g la : Nat) : Bool := match s.l2 g la with | some l => l.td | none => false
def State.setL2 (s : State) (g la : Nat) (l : CLine) : State :=
  s.updCore g fun c => { c with l2 := Tbl.set none c.l2 la (some l) }

/-- Both the L2 and the die cache of a core allocate: each is enabled and no sweep of it runs (R195, R196). -/
def State.l2On (s : State) (g : Nat) : Bool :=
  s.flag .L2_CTL_EN (instC g) && !s.flag .L2_STAT_SWEEP (instC g) && s.flag .DC_CTL_EN (instD (g / 20) 0) &&
    !s.flag .DC_STAT_SWEEP (instD (g / 20) 0)

/-- Locked and retired ways of a core's L2. -/
def State.l2Locked (s : State) (g : Nat) : Nat := s.get .L2_STAT_LOCKED (instC g)
def State.l2Retired (s : State) (g : Nat) : Nat := s.get .L2_STAT_RETIRED (instC g)
/-- A way takes no fill: it is locked or retired, or a WLOCK fill into it is in progress (R184). -/
def State.l2Blocked (s : State) (g w : Nat) : Bool :=
  (s.l2Locked g).testBit w || (s.l2Retired g).testBit w || (s.core g).fill.any fun f => f.way == w

/-- The lines of one L2 set. -/
def State.l2SetOf (s : State) (g set : Nat) : List (Nat × CLine) :=
  (s.core g).l2.filterMap fun x => match x.2 with | some l => if x.1 % 1024 = set then some (x.1, l) else none | none => none

/-- The L2 gives up a line: the L1 copies go in the same cycle (R179), and a locked line counts as lost (R186). -/
def State.l2Drop (s : State) (g la : Nat) : State :=
  match s.l2 g la with
  | none => s
  | some l =>
    let s := s.updCore g fun c =>
      { c with l2 := Tbl.erase c.l2 la, l1d := Tbl.erase c.l1d la, l1i := Tbl.erase c.l1i la }
    if (s.l2Locked g).testBit l.way then s.bump .L2_CNT_LOCK_LOST (instC g) 1 else s

/-- An invalidation of a line reaches a core: its L2 gives the line up, and its open merging-buffer entry closes (R181). -/
def State.l2Inval (s : State) (g la : Nat) : State :=
  (s.l2Drop g la).updCore g fun c => { c with mb := c.mb.map fun e => if e.la = la then { e with closed := true } else e }

/-- The lines an open guarded tick has marked. -/
def State.tdLines (s : State) (g : Nat) : List (Nat × CLine) :=
  (s.core g).l2.filterMap fun x => match x.2 with | some l => if l.td then some (x.1, l) else none | none => none

/-- What the merging buffer holds of a line, laid over it in allocation order (R180). -/
def mbOver (mb : List MbEnt) (la : Nat) (l : Line) : Line :=
  mb.foldl (fun l e => if e.la = la then lineMerge l e.data e.mask else l) l

/-- Fill a first-level cache of `ways` ways and `sets` sets with a line the L2 holds: an empty way, else one that
pseudo-LRU decides (free, log entry 18, here the draw `r`). -/
def fillL1 (c : Tbl (Option CLine)) (ways sets r la : Nat) (l : Line) : Tbl (Option CLine) :=
  let set := c.filterMap fun x => match x.2 with | some y => if x.1 % sets = la % sets then some (x.1, y.way) else none | none => none
  let new := fun w : Nat => some ({ data := l, m := false, dirty := false, td := false, way := w, poison := false, age := 0 } : CLine)
  match (List.range ways).find? fun w => !set.any fun x => x.2 == w with
  | some w => Tbl.set none c la (new w)
  | none =>
    let v := set.getD (r % set.length) (la, 0)
    Tbl.set none (Tbl.erase c v.1) la (new v.2)

/-- Fill L1D (8 ways of 128 sets) or L1I (4 ways of 256 sets). -/
def State.l1Fill (s : State) (g la : Nat) (l : Line) : State :=
  match Tbl.get none (s.core g).l1d la with
  | some _ => s
  | none => s.drawn.updCore g fun c => { c with l1d := fillL1 c.l1d 8 128 s.fresh.toNat la l }
def State.l1iFill (s : State) (g la : Nat) (l : Line) : State :=
  match Tbl.get none (s.core g).l1i la with
  | some _ => s
  | none => s.drawn.updCore g fun c => { c with l1i := fillL1 c.l1i 4 256 s.fresh.toNat la l }

/-! ### The die cache (R188 to R192)

PRES and LK are exact (R189), so the model reads them off the die's L2s (log entry 19). -/

def coresOfDie (d : Nat) : List Nat := (List.range 20).map (d * 20 + ·)
/-- The L2s of a die that hold a line: PRES. -/
def State.holders (s : State) (d la : Nat) : List Nat := (coresOfDie d).filter fun g => (s.l2 g la).isSome
/-- The L2 of a die that holds a line in M, if any: STATE M. -/
def State.mHolder (s : State) (d la : Nat) : Option Nat :=
  (coresOfDie d).find? fun g => match s.l2 g la with | some l => l.m | none => false
/-- LK: some L2 of the die holds the line in a locked way. -/
def State.lineLocked (s : State) (d la : Nat) : Bool :=
  (coresOfDie d).any fun g => match s.l2 g la with | some l => (s.l2Locked g).testBit l.way | none => false

def State.dc (s : State) (d la : Nat) : Option CLine := Tbl.get none (s.die d).dc la
def State.setDc (s : State) (d la : Nat) (l : CLine) : State :=
  s.updDie d fun x => { x with dc := Tbl.set none x.dc la (some l) }
def State.dropDc (s : State) (d la : Nat) : State := s.updDie d fun x => { x with dc := Tbl.erase x.dc la }

/-- Die-cache set, slice and local set of a line (R176, R177). -/
def dcSet (la : Nat) : Nat := (la % 32768) ^^^ (la / 32768 % 32768)
def dcSlice (la : Nat) : Nat := dcSet la % 20
def dcLocal (la : Nat) : Nat := dcSet la / 20

/-- The lines of one die-cache set. -/
def State.dcSetOf (s : State) (d set : Nat) : List (Nat × CLine) :=
  (s.die d).dc.filterMap fun x => match x.2 with | some l => if dcSet x.1 = set then some (x.1, l) else none | none => none

/-- The home bank hears that a die has dropped a line (EvictClean). -/
def State.evictClean (s : State) (d la : Nat) : State :=
  s.send (plainMsg .evictClean (dieCtlStop d) (bankStop (s.home la) (dirBank la)) la 0 0)

/-- A core's L2 sends a Writeback home (R240): RET 0 line dropped, 1 kept in M, 2 kept in S. It passes through the
slice, which stores the data (R189), and the L2 keeps a writeback-pending entry until WbAck (R241). -/
def State.writeback (s : State) (g la : Nat) (l : CLine) (ret : Nat) : State :=
  let d := g / 20
  let s := match s.dc d la with | some x => s.setDc d la { x with data := l.data, poison := l.poison } | none => s
  let m := s.urged { plainMsg .writeback (coreStop g) (mcStop (s.home la) (s.dCh la)) la (ret + b2n l.poison * 8) 0 with
    data := l.data, pol := Fin.ofNat 32 (s.core g).pol, sec := s.coreSec g } 0
  ((s.updCore g fun c => { c with wbs := c.wbs ++ [m] }).countCore g 0x025).send m

/-- A Writeback of the line by this core is not yet acknowledged. -/
def Core.wbWaits (c : Core) (la : Nat) : Bool := c.wbs.any fun m => m.la.toNat == la

/-- A phase A Writeback to the mirror half's controller (R120, R240: MIR). -/
def State.mirrorWrite (s : State) (g la : Nat) (l : CLine) : State :=
  s.send { plainMsg .writeback (coreStop g) (mcStop (1 - s.home la) (s.dCh la)) la (4 + b2n l.poison * 8) 0 with
    data := l.data, pol := Fin.ofNat 32 (s.core g).pol, sec := s.coreSec g }

/-- The die gives up a line (R192): modified L2 copies are written back, the others dropped; unless a Writeback tells
the home, an EvictClean does. -/
def State.dieEvict (s : State) (d la : Nat) : State :=
  let wrote := match s.mHolder d la with
    | some g => match s.l2 g la with | some l => l.dirty | none => false
    | none => false
  let s := (s.holders d la).foldl (fun s g =>
    match s.l2 g la with
    | some l => (if l.m && l.dirty then s.writeback g la l 0 else s).l2Inval g la
    | none => s) s
  let s := s.dropDc d la
  if wrote then s else s.evictClean d la

/-- An open guarded tick of the die holds the line tick-dirty. -/
def State.tdOn (s : State) (d la : Nat) : Bool :=
  (coresOfDie d).any fun g => match s.l2 g la with | some l => l.td | none => false

/-- The victim class of a die-cache line (R192). -/
def State.dcClass (s : State) (d la : Nat) : Nat :=
  if s.lineLocked d la then 5
  else if (s.mHolder d la).isSome then 4
  else if (s.holders d la).isEmpty then 2
  else 3

/-- Choose among candidates as pseudo-LRU does, which the spec does not lay down (free, log entry 18). -/
def State.pick {α : Type} (s : State) (l : List α) : Option α := l[s.fresh.toNat % l.length]?

/-- The line that a fill of a full die-cache set gives up: one of the first class that has any, as pseudo-LRU chooses by AGE
(R192); for a push none of class 4 or 5 (R194). -/
def State.dcVictim (s : State) (d la : Nat) (push : Bool) : Option (Nat × CLine) :=
  let set := s.dcSetOf d (dcSet la)
  let c := (set.map fun x => s.dcClass d x.1).min?.getD 5
  let l := set.filter fun x => s.dcClass d x.1 == c
  if push && 4 ≤ c then none else l[Config.plruVictim (l.map fun x => x.2.age) % l.length]?

/-- A way of its die-cache set that a line can take without giving one up. -/
def State.dcEmpty (s : State) (d la : Nat) : Option Nat :=
  let set := s.dcSetOf d (dcSet la)
  let retired := s.get .DC_SLICE_RETIRED (instD d (dcSlice la))
  (List.range 16).find? fun w => !retired.testBit w && !(set.any fun x => x.2.way == w)

/-- A way for a line in its die-cache set, with the back-invalidation of its victim: `none` while the victim is tick-dirty, which
defers it (R192), and for a push that finds none. -/
def State.dcRoom (s : State) (d la : Nat) (push : Bool) : Option (Nat × State) :=
  match s.dcEmpty d la with
  | some w => some (w, s)
  | none =>
    match s.dcVictim d la push with
    | none => none
    | some v =>
      if s.tdOn d v.1 then none
      else
        let lock := s.dcClass d v.1 == 5
        let s := (s.dieEvict d v.1).countDie d 0x302 (dcSlice la) none
        some (v.2.way, if lock then s.bump .DC_CNT_LOCK_VICTIM (instD d 0) 1 else s)

/-- The AGE of a die-cache line that was just used: free (R188, log entry 18). -/
def State.newAge (s : State) : BitVec 4 := s.fresh.setWidth 4

/-- Put a line into the die cache, or refresh the copy there. -/
def State.dcFill (s : State) (d la : Nat) (data : Line) (poison push : Bool) : Option State :=
  match s.dc d la with
  | some x => some (s.drawn.setDc d la { x with data := data, poison := poison, age := s.newAge })
  | none =>
    match s.dcRoom d la push with
    | some (w, s) => some (s.drawn.setDc d la
        { data := data, m := false, dirty := false, td := false, way := w, poison := poison, age := s.newAge })
    | none => none

/-- The L2 gives up a line of its own to make room (R184): a clean victim is dropped; a modified one is written back, and its slice
keeps the written data in S (R189). A clean line in M leaves the die cache too: no writeback tells the home (log entry 20). -/
def State.l2Evict (s : State) (g la : Nat) (l : CLine) : State :=
  if !l.m then s.l2Drop g la
  else if l.dirty then (s.writeback g la l 2).l2Drop g la
  else s.dieEvict (g / 20) la

/-- A way for a line in its L2 set (R184): an empty way that is neither locked nor retired, else a victim. -/
def State.l2Room (s : State) (g la : Nat) : Option (Nat × State) :=
  let set := s.l2SetOf g (la % 1024)
  match (List.range 16).find? fun w => !s.l2Blocked g w && !(set.any fun x => x.2.way == w) with
  | some w => some (w, s)
  | none =>
    match s.pick (set.filter fun x => !s.l2Blocked g x.2.way && !x.2.td) with
    | some v => some (v.2.way, s.drawn.l2Evict g v.1 v.2)
    | none => none

/-- Fill a line into the die cache and the L2 together (R190): `none` while no way is free. `way` names the way that a WLOCK has
cleared for it. -/
def State.l2Fill (s : State) (g la : Nat) (data : Line) (m poison push : Bool) (way : Option Nat := none) : Option State :=
  match s.dcFill (g / 20) la data poison push with
  | none => none
  | some s =>
    match s.l2 g la with
    | some l => some (s.setL2 g la { l with data := data, m := m, poison := poison })
    | none =>
      match way.elim (s.l2Room g la) fun w => some (w, s) with
      | some (w, s) => some (s.setL2 g la { data := data, m := m, dirty := false, td := false, way := w, poison := poison, age := 0 })
      | none => none

/-- A line moves within the die from its die cache into an L2 in S (R190), but for one whose writeback this L2 still waits for
(R257). -/
def State.l2FromDc (s : State) (g la : Nat) (way : Option Nat := none) : Option State :=
  match s.dc (g / 20) la, s.mHolder (g / 20) la with
  | some x, none =>
    if (s.core g).wbWaits la then none
    else match way.elim (s.l2Room g la) fun w => some (w, s) with
      | some (w, s) =>
        some ((s.setL2 g la { x with m := false, dirty := false, td := false, way := w }).drawn.setDc (g / 20) la { x with age := s.newAge })
      | none => none
  | _, _ => none

/-! ### Misses -/

/-- The lowest transaction number a core has free. -/
def State.freeTx (s : State) (g : Nat) : Nat :=
  ((List.range 4096).find? fun n => !((s.core g).miss.any fun m => m.txid == n) && !((s.core g).plPend.any fun m => m.msg.txid.toNat == n) &&
    !((s.core g).mb.any fun e => e.sent && e.la % 4096 == n)).getD 0

/-- The request of a miss: a read for a load, ownership for a store or an atomic; with the line already held in S an
Upgrade; a non-caching read (CORE 0x1F) for a Device or uncached access. -/
def State.missReq (s : State) (g : Nat) (m : Miss) : Msg :=
  if m.kind = 5 || m.kind = 6 || m.kind = 8 then
    { s.coreReq g .readShared m.la m.txid 0 (s.now - m.first) with a := BitVec.ofNat 12 (0x1F + (if 4 ≤ m.nacks then 128 else 0)) }
  else
    let ty : MsgTy := if m.kind = 0 || m.kind = 7 then .readShared else if (s.l2 g m.la).isSome then .upgrade else .readOwn
    s.coreReq g ty m.la m.txid (if 4 ≤ m.nacks then 128 else 0) (s.now - m.first)

/-- A new miss goes out, unless the line's own writeback or another miss of the line is still open (R257). -/
def State.startMiss (s : State) (g : Nat) (m : Miss) : State :=
  let c := s.core g
  let st := if c.wbWaits m.la then 2 else if c.miss.any (fun x => x.la == m.la) then 3 else 0
  let m := { m with txid := s.freeTx g, sent := s.now, stage := st, nacks := 0, first := s.now, seen := [] }
  let s1 := s.updCore g fun c => { c with miss := c.miss ++ [m] }
  let s1 := if m.kind = 5 || (s.l2 g m.la).isSome then s1
    else (s1.countCore g 0x024).countDie (g / 20) 0x301 (dcSlice m.la) (some c.pol)
  if st = 0 then s1.send (s.missReq g m) else s1

/-- Send again what waited: misses in stage `st` of a line. -/
def State.resend (s : State) (g la st : Nat) : State :=
  match (s.core g).miss.find? fun m => m.la == la && m.stage == st with
  | some m =>
    let s := s.updCore g fun c => { c with miss := c.miss.map fun x => if x = m then { x with stage := 0, sent := s.now } else x }
    s.send (s.missReq g { m with stage := 0 })
  | none => s

/-! ### Way retirement (R200) -/

/-- Clean, unlock and invalidate an L2 way. -/
def State.l2RetireWay (s : State) (g w : Nat) : State :=
  let lines := (s.core g).l2.filterMap fun x => match x.2 with | some l => if l.way = w then some (x.1, l) else none | none => none
  let s := s.put .L2_STAT_LOCKED (instC g) (withBit (s.l2Locked g) w false)
  let s := lines.foldl (fun s x => s.l2Evict g x.1 x.2) s
  s.put .L2_STAT_RETIRED (instC g) (withBit (s.l2Retired g) w true)

/-- A berm-history record (R386); `who` is the logical CPU it is about. -/
def State.bermNote (s : State) (kind event cause index detail : Nat) (who : Nat × Nat := (0, 0)) : State :=
  let b := s.berm
  let r : BermRec := { ptime := s.now, kind := kind, event := event, cause := cause, index := index, detail := detail,
                       seq := b.seq, pol := who.1, lcpu := who.2, gen := Tbl.get 0 s.polGen who.1 }
  let l := b.hist ++ [r]
  s.updBerm fun b => { b with hist := l.drop (l.length - 65536), seq := (b.seq + 1) % 2 ^ 32 }

/-- A record about a resource's standing, which the summary follows: retired (1) or brought in (2). -/
def State.bermLog (s : State) (kind event cause index detail : Nat) (who : Nat × Nat := (0, 0)) : State :=
  let rest := s.berm.retired.filter fun x => x.1 != kind || x.2.1 != index
  (s.bermNote kind event cause index detail who).updBerm fun b =>
    { b with retired := if event = 1 then rest ++ [(kind, index, cause)] else if event = 2 then rest else b.retired }

/-- A resource retired: berm history and code 0xB1 (R388, R398). -/
def State.retired (s : State) (kind index cause : Nat) (who : Nat × Nat := (0, 0)) : State :=
  (s.bermLog kind 1 cause index 0 who).logSec s.activeHalf 44 0xB1 [kind, index, cause]

/-- A resource stands as retired in the berm history's summary. -/
def State.isRetired (s : State) (kind index : Nat) : Bool := s.berm.retired.any fun x => x.1 == kind && x.2.1 == index

/-- How many bits of a 16-bit mask are set. -/
def ways (m : Nat) : Nat := popcount m 16

/-- Retire an L2 way (R200): at most two ways of a core; a core of a tick-bound polder only while no tick is open. -/
def State.retireL2 (s : State) (g w cause : Nat) : State :=
  if (s.l2Retired g).testBit w || 2 ≤ ways (s.l2Retired g) then s
  else ((s.l2RetireWay g w).logDie (g / 20) 0x61 0 [g % 20, w]).bermLog 2 1 cause (g * 16 + w) 0

/-- Retire a die-cache way (R200): the slice's spare stands in for the first, the slice then runs on 15 and 14 ways. -/
def State.retireDc (s : State) (d sl w cause : Nat) : State :=
  let i := instD d sl
  let lines := (s.die d).dc.filterMap fun x => match x.2 with
    | some l => if l.way = w && dcSlice x.1 = sl then some x.1 else none
    | none => none
  let s := lines.foldl (fun s la => s.dieEvict d la) s
  let s := if s.flag .DC_SLICE_SPARE_USED i then s.put .DC_SLICE_RETIRED i (withBit (s.get .DC_SLICE_RETIRED i) w true)
    else s.setFlag .DC_SLICE_SPARE_USED i true
  (s.logDie d 0x61 0 [32 + sl, w]).bermLog 3 1 cause (d * 512 + sl * 16 + w) (if s.flag .DC_SLICE_SPARE_USED i then 0 else 1)

/-! ### Disabling a cache (R195 to R197) -/

/-- The core belongs to a guarded polder; the die holds such a core. -/
def State.dieGuarded (s : State) (d : Nat) : Bool := (coresOfDie d).any fun g => s.coreGuarded g

/-- The effect of a write to L2_CTL: clearing EN starts a sweep, refused for a core of a guarded polder. -/
def State.l2CtlWrite (s : State) (g v : Nat) : State :=
  let i := instC g
  let s := s.put .L2_CTL_PF i (v / 2)
  if bitOf v 0 then (s.setFlag .L2_CTL_EN i true).setFlag .L2_STAT_EN_STATUS i true
  else if s.coreGuarded g then s.setFlag .L2_STAT_REFUSED i true
  else if s.flag .L2_CTL_EN i then (s.setFlag .L2_CTL_EN i false).setFlag .L2_STAT_SWEEP i true
  else s

/-- The physical address of a compute die's register. -/
def dieAddr (d o : Nat) : Nat := 0xFF00000000000 + d * 0x100000000 + o

/-- L2_DISABLE (R195, R197). -/
def execL2Disable (a : Acc) (g : GCore) (v : Word) (s : State) : Res :=
  .next (s.secureOnly a s.activeHalf (dieAddr (g / 20) ((g % 20) * 0x1000000 + 0x40000)) fun s => s.l2CtlWrite g v.toNat)

/-- L2_SWEEP_DONE (R195): every modified line is cleaned, locked ways unlocked and every line invalidated; EN_STATUS
reads 0 while EN is 0. -/
def execL2SweepDone (g : GCore) (s : State) : Res :=
  let i := instC g
  .next (
    if s.flag .L2_STAT_SWEEP i then
      let s := s.put .L2_STAT_LOCKED i 0
      let s := (s.core g).l2.foldl (fun s x => match x.2 with | some l => s.l2Evict g x.1 l | none => s) s
      (s.setFlag .L2_STAT_SWEEP i false).setFlag .L2_STAT_EN_STATUS i (s.flag .L2_CTL_EN i)
    else s)

/-- The effect of a write to DC_CTL (R196, R197). -/
def State.dcCtlWrite (s : State) (d v : Nat) : State :=
  let i := instD d 0
  let s := (s.put .DC_CTL_ECC_THRESH i (v / 2 ^ 16)).put .DC_CTL_ECC_WINDOW i (v / 2 ^ 32)
  if bitOf v 0 then (s.setFlag .DC_CTL_EN i true).setFlag .DC_STAT_EN_STATUS i true
  else if s.dieGuarded d then s.setFlag .DC_STAT_REFUSED i true
  else if s.flag .DC_CTL_EN i then (s.setFlag .DC_CTL_EN i false).setFlag .DC_STAT_SWEEP i true
  else s

/-- DC_DISABLE (R196, R197). -/
def execDcDisable (a : Acc) (d : Die) (v : Word) (s : State) : Res :=
  .next (s.secureOnly a s.activeHalf (dieAddr d 0x81000000) fun s => s.dcCtlWrite d v.toNat)

/-- DC_SWEEP_DONE (R196): every line is back-invalidated in the die's L2s and invalidated. -/
def execDcSweepDone (d : Die) (s : State) : Res :=
  let i := instD d 0
  .next (
    if s.flag .DC_STAT_SWEEP i then
      let s := (s.die d).dc.foldl (fun s x => s.dieEvict d x.1) s
      (s.setFlag .DC_STAT_SWEEP i false).setFlag .DC_STAT_EN_STATUS i (s.flag .DC_CTL_EN i)
    else s)

/-! ### Maintenance by set and way (R198) -/

/-- The line a DC_MAINT names. -/
def State.maintLine (s : State) (d : Nat) : Option Nat :=
  let i := instD d 0
  let sl := s.get .DC_MAINT_SLICE i
  let set := s.get .DC_MAINT_SET i * 20 + sl
  if sl < 20 && set < 32768 then
    ((s.dcSetOf d set).find? fun x => x.2.way == s.get .DC_MAINT_WAY i).map fun x => x.1
  else none

/-- The effect of a write to DC_MAINT: ignored while BUSY; with GO the operation starts. OP 3 and a set, slice or way out
of range have no effect. -/
def State.dcMaintWrite (s : State) (d v : Nat) : State :=
  let i := instD d 0
  if s.flag .DC_MAINT_BUSY i then s
  else
    let s := (((s.put .DC_MAINT_OP i v).put .DC_MAINT_SLICE i (v / 4)).put .DC_MAINT_SET i (v / 128)).put .DC_MAINT_WAY i (v / 2 ^ 18)
    let ok := v % 4 ≠ 3 && s.get .DC_MAINT_SLICE i < 20 && s.get .DC_MAINT_SET i * 20 + s.get .DC_MAINT_SLICE i < 32768 &&
      s.get .DC_MAINT_WAY i < 16
    if bitOf v 23 && ok then s.setFlag .DC_MAINT_BUSY i true else s

/-- DC_MAINT (R198). -/
def execDcMaint (a : Acc) (d : Die) (v : Word) (s : State) : Res :=
  .next (s.secureOnly a s.activeHalf (dieAddr d 0x81000018) fun s => s.dcMaintWrite d v.toNat)

/-- A modified, unmarked copy of a line on a die is written back and kept: in M for CMA (R159), or through a Downgrade in S for
DC_MAINT (R198). -/
def State.dieClean (s : State) (d la : Nat) (down : Bool) : State :=
  match s.mHolder d la with
  | some g =>
    match s.l2 g la with
    | some l =>
      if l.dirty && !l.td then (s.writeback g la l (if down then 2 else 1)).setL2 g la { l with dirty := false, m := !down } else s
    | none => s
  | none => s

end Sys2Proof.Machine
end

