-- ==== Sys2Proof/Machine/Addresses.lean ====
section
/-! DEFINITION. The control-space map (spec/01, R22 to R24, R480; spec/03, R78): which register an address names and which
tags reach it. -/
namespace Sys2Proof.Machine

/-! ### Addresses (R22 to R24, R480) -/

/-- What a control-space address names: a register instance, a root port's devices (R400), or nothing. -/
inductive CtlTarget where
  | reg (r : Reg) (i : Nat)
  | device (e : Nat)
  | unassigned
  deriving DecidableEq, Repr

/-- The index of an offset in a register array of one or two dimensions, flattened. -/
def arrayIndex (o base : Nat) : List (Nat × Nat) → Option Nat
  | [] => if o = base then some 0 else none
  | [(st, n)] => if base ≤ o && (o - base) % st = 0 && (o - base) / st < n then some ((o - base) / st) else none
  | (st, n) :: (st2, n2) :: _ =>
    if base ≤ o && (o - base) / st < n && (o - base) % st % st2 = 0 && (o - base) % st / st2 < n2 then
      some ((o - base) / st * n2 + (o - base) % st / st2)
    else none

/-- The first register of a class whose array holds an offset. -/
def regAt (cls : RegClass → Bool) (o : Nat) : Option (Reg × Nat) :=
  Reg.all.findSome? fun r =>
    if cls r.place.cls then (arrayIndex o r.place.base r.place.dims).map fun k => (r, k) else none

/-- A register instance, or nothing. -/
def target (x : Option (Reg × Nat)) (inst : Nat → Nat) : CtlTarget :=
  match x with | some (r, k) => .reg r (inst k) | none => .unassigned

/-- The mailbox set of polder `p`: its QRB and its release registers (R33). -/
def mailboxTarget (p o : Nat) : CtlTarget :=
  match regAt (· == .qrb) o with
  | some (r, q) => .reg r (qKey (4 + p) q)
  | none => target (regAt (· == .mbox) o) (instD p)

/-- The indexes of a power-domain kind (R432). -/
def domCount : List Nat := [240, 12, 16, 16, 4, 4, 2, 2]
def domOk (k i : Nat) : Bool := decide (i < domCount.getD k 0)

/-- A register instance exists: those of a power domain only where R432 has the domain. -/
def instOk (r : Reg) (k : Nat) : Bool :=
  match r with
  | .PV_VOTE | .PV_VETO | .PV_STAT => domOk (k / 256) (k % 256)
  | _ => true

/-- A hub register: one instance per half, or one that both halves hold. -/
def hubTarget (h o : Nat) : CtlTarget :=
  match regAt (· == .hub) o with
  | some (r, k) => .reg r (instH h k)
  | none => target ((regAt (· == .hubShared) o).filter fun x => instOk x.1 x.2) id

/-- The target of a control-space address; `root` tells which ports are root ports. -/
def ctlTarget (root : Nat → Bool) (addr : Nat) : CtlTarget :=
  let u := ctlUnit addr
  let o := addr % 2 ^ 32
  if addr < 0xFF00000000000 || 0xFF10000000000 ≤ addr then .unassigned
  else if u < 12 then
    if o < 0x14000000 then target (regAt (· == .coreBlk) (o % 0x1000000)) fun _ => instC (u * 20 + o / 0x1000000)
    else target (regAt (· == .die) o) (instD u)
  else if u < 14 then
    let e := (u - 12) * 2 + (o - 0x70000000) / 0x1000000
    if 0xD0000000 ≤ o && o < 0xD0200000 then mailboxTarget ((o - 0xD0000000) / 0x10000) (o % 0x10000)
    else if 0x70000000 ≤ o && o < 0x72000000 && 0x400000 ≤ o % 0x1000000 && root e then .device e
    else hubTarget (u - 12) o
  else if u = 14 then target (regAt (· == .pkg) o) id
  else .unassigned

/-- Port `e` is a root port (R399). -/
def State.rootPort (s : State) (e : Nat) : Bool :=
  let m := s.get .PE_CFG_MODE (instPe e)
  m == 3 || m == 4

def State.ctlTarget (s : State) (addr : Nat) : CtlTarget := Machine.ctlTarget s.rootPort addr

/-! ### Who reaches what (R78) -/

/-- The half that checks an access (R78). -/
def State.ctlHalf (s : State) (addr : Nat) : Nat :=
  if ctlUnit addr = 12 then 0 else if ctlUnit addr = 13 then 1 else s.activeHalf

/-- The owner of the counter bank that a register belongs to, if it is one that an owner reaches (R446). -/
def State.bankOwner (s : State) (r : Reg) (i : Nat) : Nat :=
  match r with
  | .CB_SEL | .CB_CNT => s.get .CB_OWN_OWNER (instH (i / 4096) (i % 4096 / 8))
  | .CBD_SEL | .CBD_CNT => s.get .CBD_OWN_OWNER (instD (i / 4096) (i % 4096 / 8))
  | _ => 0

/-- The polder whose recorder view a register belongs to. -/
def viewOfReg (r : Reg) (i : Nat) : Option Nat :=
  match r with
  | .RV_CTL | .RV_STAT | .RV_CURSOR => some (i % 4096)
  | .RV_WINDOW => some (i % 4096 / 8)
  | _ => none

/-- A non-secure tag reaches a register: the table of R78. -/
def State.reaches (s : State) (p : Nat) (write : Bool) (t : CtlTarget) : Bool :=
  match t with
  | .reg r i =>
    match r with
    | .PKG_ID | .CD_REV | .CP_ROLE | .PM_PKG => !write
    | .CP_INFO | .QRB_CTL | .QRB_STAT | .ASQ_BASE | .ACQ_BASE | .SQ_DB | .CQ_DB =>
      i / 64 == 4 + p && p != 0 && !s.polSecure p
    | .GDB => write && !(s.get .WORLD_ATTR_GUEST_SEC 0).testBit (i / 4096)
    | .CUT_REL | .CUT_REL_ALL | .CS_SQTAIL => i / 4096 == p && p != 0 && !s.polSecure p
    | _ => viewOfReg r i == some p && p != 0 || s.bankOwner r i == p && p != 0
  | _ => false

end Sys2Proof.Machine
end

