-- ==== Sys2Proof/Machine/Guard.lean ====
section
/-! DEFINITION. The tick at a core and guarded ticks (spec/04 R90 to R100, spec/05): taking, closing, committing,
aborting and ending a tick, guard overflow, overrun, fault detection, fencing and recovery by a berm core. -/
namespace Sys2Proof.Machine

/-! ### The frame slot (R111 to R114) -/

/-- The frame slot of a core's logical CPU. -/
def State.frameSlot (s : State) (p l : Nat) : Nat :=
  match s.polder p with
  | some v => (match v.frame with | some (b, _) => b + l * 0x2000 | none => 0)
  | none => 0
/-- Half `h` of a core's slot. -/
def State.frameHalf (s : State) (g h : Nat) : Nat := s.frameSlot (s.core g).pol (s.core g).lcpu + h % 2 * 0x1000

/-- The system registers of the frame, in the order of the register map (R148). -/
def frameRegs : List Nat :=
  [0x010, 0x011] ++ (List.range 10).map (0x100 + ·) ++ (List.range 10).map (0x200 + ·) ++
    (List.range 6).map (0x300 + ·) ++ [0xC00, 0xC0A]

/-- The words of a frame body (R111): PC and g1 to g31, 80 system register words, v0 to v31. -/
def State.frameBody (s : State) (g : Nat) : List Nat :=
  let c := s.core g
  let sec := s.coreSecPol g
  let sys := frameRegs.map fun n => if isMReg n && !sec then 0 else (c.sysOf n).toNat
  (c.pc.toNat :: (List.range 31).map fun i => (c.gprOf (i + 1)).toNat) ++ sys ++ List.replicate 50 0 ++
    (List.range 32).flatMap fun i => (List.range 8).map fun j => (c.vrOf i).toNat / 2 ^ (64 * j) % 2 ^ 64

/-- Load a frame body from half `h`; M words are ignored in a non-secure polder. The frame names no level and world;
those of the tick's take stand (log entry 21). -/
def State.loadBody (s : State) (g h : Nat) : State :=
  let a := s.frameHalf g h
  let gb := s.readBytes (a + 0x80) 256
  let sb := s.readBytes (a + 0x180) 640
  let vb := s.readBytes (a + 0x400) 2048
  let sec := s.coreSecPol g
  s.updCore g fun c =>
    let c := { c.squash with pc := BitVec.ofNat 64 (wordAt gb 0), level := c.t.bodyLevel, sec := c.t.bodySec }
    let c := (List.range 31).foldl (fun c i => c.setGpr (i + 1) (BitVec.ofNat 64 (wordAt gb (i + 1)))) c
    let c := (frameRegs.zipIdx).foldl (fun c x =>
      if isMReg x.1 && !sec then c else c.setSys x.1 (BitVec.ofNat 64 (wordAt sb x.2))) c
    (List.range 32).foldl (fun c i => c.setVr i (BitVec.ofNat 512 (leNat ((vb.drop (64 * i)).take 64)))) c

/-- A deferred entry as its two words (R119). -/
def DqEnt.words (e : DqEnt) : List Nat := [e.addr + e.size * 2 ^ 52, e.data.toNat]

/-- The bitwise complement that MARK holds. -/
def markOf (w : Nat) : Nat := 2 ^ 64 - 1 - w % 2 ^ 64

/-- A commit record's words (R112). -/
def commitWords (tick aborted split first lines entries t crc core : Nat) : List Nat :=
  let w0 := tick % 2 ^ 48 + aborted * 2 ^ 48 + split * 2 ^ 49 + first * 2 ^ 50
  [w0, lines + entries * 2 ^ 32, t, crc, core, 0, 0, markOf w0]

/-- A tick record's words (R113). -/
def tickWords (m : TickMsg) (ints : List Nat) : List Nat :=
  let w0 := m.num % 2 ^ 48
  let id := fun i => ints.getD i 0
  [w0, m.edge, m.count.toNat, m.fire,
   m.flags % 2 ^ 24 + b2n m.rerun * 2 ^ 24 + b2n m.catchup * 2 ^ 25 + ints.length * 2 ^ 26,
   id 0 + id 1 * 2 ^ 16 + id 2 * 2 ^ 32 + id 3 * 2 ^ 48, 0, markOf w0]

/-- The commit record in half `h`, if it is valid: MARK and the CRC over body and used log (R114). -/
def State.commitRec (s : State) (p l h : Nat) : Option (List Nat) :=
  let a := s.frameSlot p l + h % 2 * 0x1000
  let r := s.readBytes a 64
  let w := (List.range 8).map (wordAt r)
  let n := bitsOf (w.getD 1 0) 38 32
  let crc := crc32c (s.readBytes (a + 0x80) 2944 ++ s.readBytes (a + 0xC00) (16 * min n 64))
  if w.getD 7 0 = markOf (w.getD 0 0) && w.getD 3 0 = crc then some w else none

/-- The tick record in half `h`, if it is current for tick `k`: its MARK matches and it names the tick (R113, R114). -/
def State.tickRec (s : State) (p l h k : Nat) : Option (List Nat) :=
  let r := s.readBytes (s.frameSlot p l + h % 2 * 0x1000 + 0x40) 64
  let w := (List.range 8).map (wordAt r)
  if w.getD 7 0 = markOf (w.getD 0 0) && w.getD 0 0 % 2 ^ 48 = k then some w else none

/-- The interrupts a tick record names, in the order taken. -/
def recInts (w : List Nat) : List Nat :=
  (List.range (min (bitsOf (w.getD 4 0) 28 26) 4)).map fun i => w.getD 5 0 / 2 ^ (16 * i) % 2 ^ 16

/-! ### Planned migrations under way (R390) -/

/-- The migration that leaves core `g`, not yet moved. -/
def State.migrFrom (s : State) (g : Nat) : Option Migr := s.berm.migr.find? fun x => x.old == g && !x.moved

/-- The point of R390 has come: the first close after the arming, at once for a core that is not started or whose polder is
tick-free. -/
def State.migrReady (s : State) (x : Migr) : Bool :=
  let c := s.core x.old
  !c.started || !s.polTickBound c.pol || !c.t.isOpen && c.t.step == 0 && (x.armOpen || c.t.cur.num != x.armNum)

/-- The old core takes no further tick. -/
def State.migrHolds (s : State) (g : Nat) : Bool :=
  match s.migrFrom g with | some x => s.migrReady x | none => false

/-- Drop a migration and complete its command with a replacement, 0xFFFF for none. -/
def State.migrDone (s : State) (x : Migr) (new : Nat) : State :=
  let s := s.updBerm fun b => { b with migr := b.migr.erase x }
  match x.cmd with
  | some c => s.finish c (resOk new)
  | none => s

/-- The replacement takes its first tick or resumes (R390, step 4): code 0xB3, and BERM_RETIRE completes. -/
def State.migrTaken (s : State) (g : Nat) : State :=
  match s.berm.migr.find? fun x => x.new == g && x.moved with
  | some x =>
    let s := if x.faulted then s else s.logDie (dieOf g) 0xB3 x.pol [x.lcpu, x.old, g] 6
    s.migrDone x g
  | none => s

/-- No core takes the CPU over: what waited for it completes. -/
def State.migrVoid (s : State) (g : Nat) : State :=
  match s.berm.migr.find? fun x => x.old == g && !x.moved || x.new == g && x.moved with
  | some x => s.migrDone x 0xFFFF
  | none => s

/-! ### Taking a tick (R90, R92, R94, R110, R113) -/

/-- TK_FLAGS of a tick as taken. -/
def tkFlags (m : TickMsg) (missed : Nat) (late : Bool) : Nat := m.flags + b2n late * 8 + missed * 256

/-- The TK registers take a tick's values (R94). -/
def Core.tkRegs (c : Core) (m : TickMsg) : Core :=
  (((((c.setSys 0xC10 (BitVec.ofNat 64 m.num)).setSys 0xC11 (BitVec.ofNat 64 m.edge)).setSys 0xC12 m.count).setSys
    0xC13 (BitVec.ofNat 64 m.fire)).setSys 0xC14 (BitVec.ofNat 64 m.deadline)).setSys 0xC15 (BitVec.ofNat 64 (m.flags % 2 ^ 24))

/-- The destination of the TICKWAIT that asked for the tick takes TK_FLAGS.MISSED (R95); so it does when the tick runs again
(log entry 160). -/
def Core.waitResult (c : Core) (flags : Nat) : Core :=
  match c.t.waitRd with | some r => c.setGpr r (BitVec.ofNat 64 (bitsOf flags 23 8)) | none => c

/-- Half `k` mod 2 serves tick `k` (R111). After a tick that was not taken the last commit wrote the other half: what it holds is
copied over at the take (DESIGN CHOICE, log entry 159). -/
def State.alignHalf (s : State) (g k : Nat) : State :=
  let t := (s.core g).t
  if !s.coreGuarded g || t.half = k % 2 then s
  else (s.writeBytes (s.frameHalf g k) (s.readBytes (s.frameHalf g t.half) 0x1000)).updTick g fun t => { t with half := k % 2 }

/-- A polder's first tick since its delivery runs makes it restrain the slack window, which closes (R106). -/
def State.slackJoin (s : State) (p : Nat) : State :=
  if s.get .TK_NOW_STATE p = 1 && !(s.ctx p).restrains then
    (if s.tkSlack p then s.slackShut else s).updCtx p fun c => { c with restrains := true }
  else s

/-- A core takes tick `m`: the TK registers take their values, one that reached the core after its fire PTIME counts as late
with code 0x43 (R92), TICKWAIT returns TK_FLAGS.MISSED. A guarded core runs once its tick record is durable. -/
def State.takeTick (s : State) (g : Nat) (m : TickMsg) : State :=
  let c := s.core g
  let late := decide (m.fire < m.at_)
  let m := { m with flags := tkFlags m c.t.missed late }
  let guarded := s.coreGuarded g
  let s := (s.alignHalf g m.num).updCore g fun c =>
    let c := (c.tkRegs m).waitResult m.flags
    { c with pow := 0, idleSince := none, pc := if c.t.waiting && !guarded then c.pc + 4 else c.pc,
             t := { c.t with cur := m, isOpen := true, durable := !guarded, step := 0, split := false, splitting := false,
                             aborted := false, first := false, waiting := false, missed := 0, aborts := 0, dq := [],
                             phaseA := [], ints := [], overran := false, doneAt := 0, bodyLevel := c.level, bodySec := c.sec } }
  let s := ((s.countCore g 0x050).migrTaken g).slackJoin c.pol
  if late then (s.bump .TK_EVT_LATE c.pol 1).logDie (dieOf g) 0x43 c.pol [dieOf g, m.num, m.at_ - m.fire] else s

/-- A core whose tick is closed may take the next: it waits in TICKWAIT, or its polder is guarded and it has ticked. -/
def State.mayTake (s : State) (g : Nat) : Bool :=
  let c := s.core g
  c.started && c.serv == 0 && !c.t.isOpen && c.t.step == 0 && !c.t.leaving && !c.t.recovering && !s.migrHolds g &&
    (c.t.waiting || s.coreGuarded g && !c.t.first)

/-- A tick that fired before a late core closed its own is not taken under SKIP: it counts in TK_EVT.SKIP and MISSED, with code
0x41 (R98). -/
def State.skipTick (s : State) (g : Nat) (m : TickMsg) : State :=
  let c := s.core g
  ((s.updTick g fun t => { t with pend := none, missed := min (t.missed + 1) 65535 }).bump .TK_EVT_SKIP c.pol 1).logDie
    (dieOf g) 0x41 c.pol [c.lcpu, m.num]

/-- Take the pending tick, or the oldest of the recovery's backlog, if its fire PTIME is reached (R90, R98, R132). -/
def State.tryTake (s : State) (g : Nat) : State :=
  let t := (s.core g).t
  let now := s.diePtime (dieOf g)
  if !s.mayTake g then s
  else match t.backlog, t.pend with
    | m :: rest, _ =>
      if m.fire ≤ now then (s.updTick g fun t => { t with backlog := rest }).takeTick g { m with catchup := true } else s
    | [], some m =>
      if m.fire ≤ t.doneAt then s.skipTick g m
      else if m.fire ≤ now then (s.updTick g fun t => { t with pend := none }).takeTick g m
      else s
    | [], none => s

/-- When a late core of a SKIP polder closes its tick; 0 in every other case (R98, R132). -/
def State.skipFrom (s : State) (g : Nat) : Nat :=
  let t := (s.core g).t
  if t.overran && !t.catching && s.tkPolicy (s.core g).pol = 1 then s.diePtime (dieOf g) else 0

/-- TICK_TAKE (R90). -/
def execTickTake (g : GCore) (s : State) : Res := .next (s.tryTake g)

/-- Write the tick record of the open tick into half `h` (R113). -/
def State.writeTickRec (s : State) (g : Nat) : State :=
  let t := (s.core g).t
  s.writeBytes (s.frameHalf g t.half + 0x40) (wordsLe (tickWords t.cur t.ints))

/-- TICK_RECORD_DURABLE (R110, R113): the record becomes durable, and up to four held interrupts are taken as the first
act of the tick. -/
def execTickRecordDurable (g : GCore) (s : State) : Res :=
  .next (
    let t := (s.core g).t
    if t.isOpen && !t.durable && s.coreGuarded g then
      let ids := if (s.core g).intEnabled then (s.core g).pend.take 4 else []
      let s := (s.updTick g fun t => { t with ints := ids, durable := true }).writeTickRec g
      s.takeHeld g
    else s)

/-! ### Tokens (R124) -/

/-- The thread takes its polder's exclusive-retry token if it is free. -/
def State.takeToken (s : State) (g : Nat) : State :=
  let c := s.core g
  if s.flag .GD_STAT_TOKEN_HELD c.pol then s
  else
    let s := s.updTick g fun t => { t with token := some s.now }
    (((s.setFlag .GD_STAT_TOKEN_HELD c.pol true).put .GD_STAT_TOKEN_CPU c.pol c.lcpu).bump .GD_CNT1_TOKEN c.pol 1).logDie
      (dieOf g) 0x51 c.pol [c.lcpu, c.t.cur.num]

/-- A core's thread needs its polder's token: its open tick was aborted twice and has not reached its commit point (R124). -/
def State.needsToken (s : State) (g : Nat) : Bool :=
  let t := (s.core g).t
  t.isOpen && !t.split && decide (t.step < 4) && decide (2 ≤ t.aborts) && t.token.isNone

/-- A core gives its token up; one that needs it takes it then, the lowest logical CPU first (R124; DESIGN CHOICE, log entry
161). -/
def State.freeToken (s : State) (g : Nat) : State :=
  if (s.core g).t.token.isSome then
    let p := (s.core g).pol
    let s := (s.updTick g fun t => { t with token := none }).setFlag .GD_STAT_TOKEN_HELD p false
    match ((s.polder p).map (·.cores)).bind fun l => l.find? fun n => n != g && s.needsToken n with
    | some n => s.takeToken n
    | none => s
  else s

/-! ### Leaving tick-dirty lines (R123, R125, R253) -/

/-- The answer to a parked snoop for a line that was dropped. -/
def dropAnswer (g : Nat) (m : Msg) : Msg :=
  if m.ty = .invalidate then plainMsg .invAck (dieCtlStop (g / 20)) m.src m.la.toNat 0 m.b.toNat
  else plainMsg .recallAck (dieCtlStop (g / 20)) m.src m.la.toNat 2 m.b.toNat

/-- What hub agents have to do at a line takes place once no open tick holds it, and the commands that waited for it complete
(R66, R122). -/
def State.hubSettle (s : State) (la : Nat) : State :=
  let r := s.hubApply la
  r.2.foldl (fun s c => s.finish c resOk) r.1
def State.hubSettleAll (s : State) : State := (s.hub.map (·.la)).eraseDups.foldl State.hubSettle s

/-- Drop one line without data: a parked snoop is answered, else the home hears an EvictClean. -/
def State.dropMarked (s : State) (g la : Nat) : State :=
  let ps := (s.core g).parked.filter fun x => x.1.la.toNat == la && x.1.ty != .write
  let s := (s.l2Drop g la).dropDc (g / 20) la
  let s := s.updCore g fun c => { c with parked := c.parked.filter fun x => x.1.la.toNat != la }
  (if ps.isEmpty then s.evictClean (g / 20) la else ps.foldl (fun s x => s.send (dropAnswer g x.1)) s).hubSettle la

/-- The mirror Writebacks of a tile that are still on their way are withdrawn. -/
def State.withdrawMirror (s : State) (g : Nat) : State :=
  s.updFabric fun l => l.filter fun m => !(m.ty == .writeback && m.src == coreStop g && m.a.getLsbD 2)

/-- Records held by precise sampling are discarded and counted in SMP_STAT.LOST (R449). -/
def State.dropSamples (s : State) (g : Nat) : State :=
  let due := (s.core g).smpDue.filter (·.held)
  let n := (s.core g).smpHeld.length + due.length
  if n = 0 then s
  else s.updCore g fun c =>
    let lost := min (bitsOf (c.sysOf 0xC37).toNat 31 16 + n) 65535
    { c.setSys 0xC37 ((c.sysOf 0xC37 &&& 1) ||| BitVec.ofNat 64 (lost * 65536)) with
        smpHeld := [], smpDue := c.smpDue.filter fun x => !x.held }

/-- Discard what the open tick did: tick-dirty lines, the deferred queue, stores in the merging buffer, marked TLB
entries and held samples; for lines already written in phase A the mirror half rewrites its copy from home. -/
def State.undoTick (s : State) (g : Nat) : State :=
  let lines := s.tdLines g
  let wrote := (s.core g).t.step = 2
  let s := lines.foldl (fun s x =>
    let h := s.home x.1
    let s := if wrote then s.writeLineHalf (1 - h) x.1 (s.lineHalf h x.1) else s
    s.dropMarked g x.1) s
  let s := if wrote then s.withdrawMirror g else s
  (s.updCore g fun c =>
    { c with mb := [], tlb := c.tlb.filter fun e => !e.mark, miss := [],
             t := { c.t with dq := [], phaseA := [], step := 0, splitting := false, aborted := false } }).dropSamples g

/-- A re-run takes the interrupts its tick record names, in order (R130, R138). -/
def State.takeAgain (s : State) (g : Nat) (ids : List Nat) : State :=
  ids.foldl (fun s id => s.takeExc g { cls := 0x18, detail := id, level := 1, addr := 0, kind := 1 } (s.core g).pc) s

/-- TICK_ABORT (R123, R124): the tick's effects are discarded, the body of half p is loaded and tick `k` runs again on
the same core under its tick record. Cause 1 contention, 2 data error. -/
def State.abortTick (s : State) (g cause la : Nat) : State :=
  let c := s.core g
  let s := s.undoTick g
  let s := s.bump (if cause = 1 then .GD_CNT0_ABORT_SNOOP else .GD_CNT0_ABORT_ERR) c.pol 1
  let s := (s.logDie (dieOf g) 0x50 c.pol [c.lcpu, c.t.cur.num, cause, la]).countCore g 0x054
  let ids := if c.t.durable then ((s.tickRec c.pol c.lcpu c.t.half c.t.cur.num).map recInts).getD [] else []
  let s := ((s.loadBody g c.t.half).updTick g fun t => { t with aborts := t.aborts + 1 }).updCore g fun c => c.waitResult c.t.cur.flags
  let s := if (s.core g).t.aborts ≥ 2 then s.takeToken g else s
  s.takeAgain g ids

/-! ### Commit (R118, R120) -/

/-- The mirror takes phase A copies: both halves serve and every channel stores its copy (R137). -/
def State.mirrorOk (s : State) : Bool :=
  s.guardedCfg && !s.lost 0 && !s.lost 1 && !s.halfReturning.h0 && !s.halfReturning.h1

/-- Steps 1 and 2 of R120: with the merging buffer drained, phase A sends every tick-dirty line to its mirror half and
writes body and deferred log to half q; a guard overflow writes no body, and one for want of a way (`force`) commits at once what
the L2 holds, since the store that overflowed stands in the buffer (R118). -/
def State.commitAdvance (s : State) (g : Nat) (force : Bool := false) : State :=
  let c := s.core g
  if c.t.step = 1 && (c.mb.isEmpty || force) then
    let lines := s.tdLines g
    let q := s.frameHalf g (c.t.half + 1)
    let s := if s.mirrorOk then lines.foldl (fun s x => s.mirrorWrite g x.1 x.2) s else s
    let s := if c.t.splitting then s else s.writeBytes (q + 0x80) (wordsLe (s.frameBody g))
    let s := s.writeBytes (q + 0xC00) (wordsLe (c.t.dq.flatMap DqEnt.words))
    s.updTick g fun t => { t with step := 2, phaseA := if s.mirrorOk then lines.map (·.1) else [] }
  else s

/-- Start the commit of the open tick; the merging buffer's entries close. -/
def State.startCommit (s : State) (g : Nat) (split : Bool) (force : Bool := false) : State :=
  let s := s.updCore g fun c =>
    let c := if split then c else c.squash
    { c with mb := c.mb.map fun e => { e with closed := true }, t := { c.t with step := 1, splitting := split } }
  s.commitAdvance g force

/-- GUARD_OVERFLOW (R118): WAY_OVF with code 0x52, or DQ_OVF with code 0x53. -/
def State.guardOverflow (s : State) (g : Nat) (dq : Bool) (set : Nat) : State :=
  let c := s.core g
  let s := s.bump (if dq then .GD_CNT1_DQ_OVF else .GD_CNT1_WAY_OVF) c.pol 1
  let s := if dq then s.logDie (dieOf g) 0x53 c.pol [c.lcpu, c.t.cur.num]
    else s.logDie (dieOf g) 0x52 c.pol [c.lcpu, c.t.cur.num, set]
  s.startCommit g true (!dq)

/-- End of catch-up at the first tick whose commit point meets its deadline, or its failure (R132). -/
def State.catchupAt (s : State) (g : Nat) : State :=
  let c := s.core g
  if !c.t.catching then s
  else if s.now ≤ c.t.cur.deadline then
    ((s.updTick g fun t => { t with catching := false }).put .GD_STAT_RECOVERING c.pol
      (s.get .GD_STAT_RECOVERING c.pol - 1)).logDie (dieOf g) 0x5B c.pol [c.lcpu, c.t.cur.num]
  else if c.t.backlog.isEmpty && !c.t.cur.rerun then
    s.catchupFail g
  else s

/-- COMMIT_POINT (R112, R120, step 3): with every phase A acknowledgement in, the commit record goes to half q on both
halves, TICKDONE retires, the token is released, phase B starts. -/
def execCommitPoint (g : GCore) (s : State) : Res :=
  .next (
    let c := s.core g
    let t := c.t
    if t.step = 2 && t.phaseA.isEmpty then
      let q := s.frameHalf g (t.half + 1)
      let lines := s.tdLines g
      let crc := crc32c (s.readBytes (q + 0x80) 2944 ++ s.readBytes (q + 0xC00) (16 * t.dq.length))
      let w := commitWords t.cur.num (b2n t.aborted) (b2n t.splitting) (b2n t.first) lines.length t.dq.length s.now crc g
      let s := s.writeBytes q (wordsLe w)
      let s := s.freeToken g
      let d := s.skipFrom g
      let s := if t.splitting then s
        else (s.countRetired g).updTick g fun t => { t with lastRetire := s.now, doneAt := d }
      let s := lines.foldl (fun s x => s.writeback g x.1 x.2 1) s
      let s := s.updCore g fun c => { c with tlb := c.tlb.map fun e => { e with mark := false },
                                             t := { c.t with step := 4 } }
      let s := if t.cur.rerun && !t.splitting then s.logDie (dieOf g) 0x58 c.pol [c.lcpu, t.cur.num, s.now - t.faultAt] else s
      if t.splitting || t.first then s else s.catchupAt g
    else s)

/-- PHASE_B_COMPLETE (R120, step 4): every line has been acknowledged and its mark cleared. -/
def execPhaseBComplete (g : GCore) (s : State) : Res :=
  .next (if (s.core g).t.step = 4 && (s.tdLines g).isEmpty then s.updTick g fun t => { t with step := 5 } else s)

/-- A way of a cache can be retired: for an L2 no tick of the core is open, for a die cache none of its lines is
tick-dirty (R200). -/
def State.cacheWayFree (s : State) (kind i : Nat) : Bool :=
  if kind = 2 then !(s.core (i / 16)).t.isOpen && (s.core (i / 16)).t.step == 0
  else !((s.die (i / 512)).dc.any fun x => s.tdOn (i / 512) x.1)

/-- Retire a cache way now. -/
def State.wayRetire (s : State) (kind i cause : Nat) : State :=
  if kind = 2 then s.retireL2 (i / 16) (i % 16) cause else s.retireDc (i / 512) (i / 16 % 32) (i % 16) cause

/-- Way retirements that waited for a commit take place once they can (R200). -/
def State.waysAtClose (s : State) : State :=
  s.berm.wayRet.foldl (fun s x =>
    if x.1 ≤ 3 && s.cacheWayFree x.1 x.2.1 then
      let s := (s.wayRetire x.1 x.2.1 x.2.2.1).updBerm fun b => { b with wayRet := b.wayRet.erase x }
      match x.2.2.2 with
      | some c => (s.logSec s.activeHalf 44 0xB1 [x.1, x.2.1, x.2.2.1]).finish c (resOk 0xFFFF)
      | none => s
    else s) s

/-- A tick closes on a core: STRETCH delivers what waited once the last core has closed (R98). -/
def State.stretchDone (s : State) (p : Nat) : State :=
  let x := s.ctx p
  if x.stretching && (match s.polder p with | some v => v.cores.all fun g => !(s.core g).t.isOpen | none => false) then
    let s := s.updCtx p fun x => { x with stretching := false, stretch := [] }
    x.stretch.foldl (fun s m => s.sendTick p m) s
  else s

/-- Step 6 of R120, or the end of a guard overflow's commit: the tick closes, or its remainder runs unguarded. -/
def State.closeGuarded (s : State) (g : Nat) : State :=
  let t := (s.core g).t
  if t.splitting then s.updTick g fun t => { t with step := 0, splitting := false, split := true, dq := [] }
  else if t.first then
    -- only now does the first TICKWAIT wait, in C1
    (s.updCore g fun c => { c with
      pow := 1, idleSince := some s.now,
      t := { c.t with step := 0, first := false, waiting := true, half := (t.half + 1) % 2, dq := [] } }).tryTake g
  else
    (s.updTick g fun t => { t with step := 0, isOpen := false, durable := false, split := false, aborted := false, dq := [],
                                   half := (t.half + 1) % 2, cur := { t.cur with rerun := false } }).waysAtClose.tryTake g

/-- Close the open tick of a core whose polder is not guarded (R96, R100). -/
def State.closePlain (s : State) (g : Nat) : State :=
  let d := s.skipFrom g
  let s := (s.catchupAt g).updCore g fun c => { c.squash with t := { c.t with isOpen := false, doneAt := d } }
  (s.stretchDone (s.core g).pol).waysAtClose

/-- What TICKDONE does with a tick open: commit in a guarded polder, close in another. `rd` is the destination of a TICKWAIT that
acts so (R95). -/
def State.tickDone (s : State) (g : Nat) (rd : Option Nat) : State :=
  if s.coreGuarded g then
    (s.updCore g fun c => { c with pc := c.pc + 4, t := { c.t with waitRd := rd } }).startCommit g false
  else (s.closePlain g).retire g

/-- TICKDONE (R96, R157): no effect with no tick open or in a tick-free polder. -/
def execTickdone (g : GCore) (w : BitVec 32) (s : State) : Res :=
  .next (s.added g 1 w fun s => if (s.core g).t.isOpen then s.tickDone g none else s.retire g)

/-- The core waits for its next tick (R95). -/
def State.waitTick (s : State) (g rd : Nat) : State :=
  (s.updCore g fun c => { c with pow := 1, idleSince := some s.now, t := { c.t with waiting := true, waitRd := some rd } }).tryTake g

/-- TICKWAIT (R95, R110, R157): zero in a tick-free polder; with a tick open it first does what TICKDONE does; the first
TICKWAIT of a guarded core commits an empty tick with FIRST = 1. -/
def execTickwait (g : GCore) (w : BitVec 32) (s : State) : Res :=
  .next (s.added g 0 w fun s =>
    let c := s.core g
    let rd := wordRd w
    if !s.polTickBound c.pol then (s.updCore g fun c => c.setGpr rd 0).retire g
    else if s.coreGuarded g then
      if c.t.isOpen then s.tickDone g (some rd)
      else
        -- the first TICKWAIT: an empty commit, then the wait; COMMIT_OF is the number of the last edge
        let n := s.get .TK_NOW_NUM c.pol
        (s.updCore g fun c =>
          { c with
            pc := c.pc + 4,
            t := { c.t with waitRd := some rd, half := n % 2, cur := { TickMsg.none with num := n }, bodyLevel := c.level, bodySec := c.sec }
          }).startCommit g false
    else
      let s := if c.t.isOpen then s.closePlain g else s
      let s := s.waitTick g rd
      s.admitInt g)

/-- TICKABORT (R125, R157): no effect in a tick-free polder or with no tick open; in a tick-bound polder that is not
guarded, and in the unguarded remainder of a split tick, it acts as TICKDONE (log entry 22). -/
def execTickabort (g : GCore) (w : BitVec 32) (s : State) : Res :=
  .next (s.added g 2 w fun s =>
    let c := s.core g
    if !c.t.isOpen then s.retire g
    else if !s.inGuarded g then s.tickDone g none
    else
      let pc := c.pc + 4
      let s := ((s.undoTick g).freeToken g).bump .GD_CNT0_TICKABORT c.pol 1
      let s := (s.loadBody g c.t.half).updCore g fun c => { c with pc := pc, t := { c.t with aborted := true, waitRd := none } }
      s.startCommit g false)

/-! ### Snoops at tick-dirty lines (R122) -/

/-- GD_CTL.DEFER_LIMIT as it acts. -/
def State.deferLimit (s : State) (p : Nat) : Nat := max (s.get .GD_CTL_DEFER_LIMIT p) 200

/-- DEFER_LIMIT_EXPIRED (R122): a snoop parked for DEFER_LIMIT, or a hub agent's access that found sixteen parked, aborts a
holder that has not reached step 2 and holds no token. -/
def execDeferLimitExpired (g : GCore) (la : LineAddr) (s : State) : Res :=
  .next (
    let c := s.core g
    if c.t.step < 2 && c.t.token.isNone && c.t.isOpen &&
        (c.parked.any (fun x => x.1.la == la && decide (x.2 + s.deferLimit c.pol ≤ s.now)) ||
          16 ≤ c.parked.length && s.tdHere g la.toNat && s.hub.any fun x => x.la == la.toNat) then s.abortTick g 1 la.toNat
    else s)

/-- What stands among a core's parked snoops for one that core `g`'s access causes. -/
def foldSnoop (g la : Nat) : Msg := { hubSnoop la with src := coreStop g }

/-- An access meets a line that core `n` holds tick-dirty (R122, R124): an older token (`older`), or a seventeenth snoop, aborts a
holder that may still abort; else its snoop `m` parks there, and the access waits. -/
def State.parkSnoop (s : State) (m : Msg) (older : Bool) (n la : Nat) : State :=
  let t := (s.core n).t
  let ps := (s.core n).parked
  if t.isOpen && t.step < 2 && older then s.abortTick n 1 la
  else if ps.any fun x => x.1 == m then s
  else if ps.length < 16 then
    (s.updCore n fun c => { c with parked := c.parked ++ [(m, s.now)] }).countCore n 0x055
  else if t.isOpen && t.step < 2 && t.token.isNone then s.abortTick n 1 la
  else s
def State.parkAt (s : State) (g n la : Nat) : State :=
  let t := (s.core n).t
  s.parkSnoop (foldSnoop g la) ((s.core g).t.token.isSome && (t.token.isNone || decide (s.tkRank g < s.tkRank n))) n la

/-- The access of core `g` to a line waits; where another core holds the line tick-dirty its snoop parks there. -/
def State.lineDefer (s : State) (g la : Nat) : State :=
  match s.cores.find? fun x => x.1 != g && (match Tbl.get none x.2.l2 la with | some l => l.td | none => false) with
  | some x => s.parkAt g x.1 la
  | none => s

/-- A fill of a line waits; where the die-cache victim is tick-dirty its back-invalidation parks at the holder (R192). -/
def State.fillDefer (s : State) (g la : Nat) : State :=
  let d := g / 20
  if (s.dc d la).isSome || (s.dcEmpty d la).isSome then s
  else match s.dcVictim d la false with
    | some v =>
      match (coresOfDie d).find? fun n => s.tdHere n v.1 with
      | some n => s.parkAt g n v.1
      | none => s
    | none => s

/-! ### Fencing and recovery (R126 to R136, R394) -/

/-- CD_REV of a die. -/
def State.dieRevOf (s : State) (d : Nat) : Nat :=
  s.get ([Fld.CD_REV_CD0_REV, .CD_REV_CD1_REV, .CD_REV_CD2_REV, .CD_REV_CD3_REV, .CD_REV_CD4_REV, .CD_REV_CD5_REV,
    .CD_REV_CD6_REV, .CD_REV_CD7_REV, .CD_REV_CD8_REV, .CD_REV_CD9_REV, .CD_REV_CD10_REV, .CD_REV_CD11_REV].getD d
      .CD_REV_CD0_REV) 0

/-- BM_CORES of a die. -/
def bmFld (d : Nat) : Fld :=
  [Fld.BM_CORES_CD0, .BM_CORES_CD1, .BM_CORES_CD2, .BM_CORES_CD3, .BM_CORES_CD4, .BM_CORES_CD5, .BM_CORES_CD6,
    .BM_CORES_CD7, .BM_CORES_CD8, .BM_CORES_CD9, .BM_CORES_CD10, .BM_CORES_CD11].getD d .BM_CORES_CD0

/-- A berm core in C3 on a die in service. -/
def State.bermCore (s : State) (g : Nat) : Bool :=
  let c := s.core g
  c.serv == 1 && c.pow == 3 && (s.die (dieOf g)).state == 0

/-- The replacement of R129: the same die first, else the lowest die and core of the same revision. -/
def State.replacementFor (s : State) (g : Nat) : Option Nat :=
  match (coresOfDie (dieOf g)).find? s.bermCore with
  | some n => some n
  | none => allCores.find? fun n => s.bermCore n && s.dieRevOf (dieOf n) == s.dieRevOf (dieOf g)

/-- Snoops parked at a core are answered as by one that holds nothing. -/
def State.answerParked (s : State) (g : Nat) : State :=
  let ps := (s.core g).parked.filter fun x => x.1.ty != .write
  ps.foldl (fun s x => s.send (dropAnswer g x.1)) (s.updCore g fun c => { c with parked := [] })

/-- What the core's merging buffer and L2 hold reaches memory where its polder may write, and its caches are empty (R65). -/
def State.cleanCore (s : State) (g : Nat) : State :=
  let p := (s.core g).pol
  let sec := s.coreSec g
  let s := (s.core g).mb.foldl (fun s e =>
    if (s.rgnCheck p sec true (e.la * 64)).isNone then s.writeLine e.la e.data e.mask else s) s
  (s.core g).l2.foldl (fun s x => match x.2 with
    | some l => if l.m then s.recallLine x.1 else s.l2Drop g x.1
    | none => s) s

/-- The core leaves service: for good, with AG_MARGIN.STATE reading retired, or fenced with its die; a berm core leaves
BM_CORES. -/
def State.retireCore (s : State) (g cause : Nat) (who : Nat × Nat := ((s.core g).pol, (s.core g).lcpu)) : State :=
  let s := (s.setVote (domKey 0 g) 16 false).put .L2_STAT_LOCKED (instC g) 0
  if (s.die (dieOf g)).state = 1 then (s.answerParked g).parkCore g 3
  else
  let berm := (s.core g).serv == 1
  let s := (((s.answerParked g).parkCore g 2).put .AG_MARGIN_STATE (instC g) 2).retired 0 g cause who
  if berm then s.put (bmFld (dieOf g)) 0 (s.get (bmFld (dieOf g)) 0 - 1) else s

/-- Put a core, or nothing, at a logical CPU. -/
def State.setLcpu (s : State) (p l : Nat) (g : Option Nat) : State :=
  s.updPolder p fun v => { v with lcpus := v.lcpus.set l g }

/-- LCPU_VACANT (R135): TICK_FAULT to the SUPERVISOR, GD_STAT.VACANT and code 0x5D. -/
def State.vacate (s : State) (p l d : Nat) : State :=
  (((s.setLcpu p l none).bump .GD_STAT_VACANT p 1).logDie d 0x5D p [l]).tickFault p

/-- A detached core has left: its number becomes vacant, GD_STAT.VACANT counts it in a guarded polder, no TICK_FAULT is
raised, and the POLDER_DETACH completes (R481). -/
def State.detached (s : State) (p l g : Nat) : State :=
  let cmds : List Cmd := ((s.polder p).map fun v => v.detCmds.filterMap fun x => if x.1 = g then some x.2 else none).getD []
  let s := s.updPolder p fun v => { v with lcpus := v.lcpus.set l none, detCmds := v.detCmds.filter fun x => x.1 != g }
  let s := if s.polGuarded p then s.bump .GD_STAT_VACANT p 1 else s
  cmds.foldl (fun s c => s.finish c (resOk)) s

/-- The deferred entries of half `h` of a slot. -/
def State.logEntries (s : State) (p l h n : Nat) : List DqEnt :=
  let b := s.readBytes (s.frameSlot p l + h % 2 * 0x1000 + 0xC00) (16 * n)
  (List.range n).map fun i =>
    { addr := wordAt b (2 * i) % 2 ^ 52, size := bitsOf (wordAt b (2 * i)) 53 52, data := BitVec.ofNat 64 (wordAt b (2 * i + 1)) }

/-- The drain cursor of a logical CPU (R128), kept alike in both halves: tick and entries accepted. -/
def State.cursor (s : State) (p l : Nat) : Nat × Nat := Tbl.get (0, 0) s.te.cursors (p * 256 + l)
def State.setCursor (s : State) (p l tick n : Nat) : State :=
  s.updTe fun t => { t with cursors := Tbl.set (0, 0) t.cursors (p * 256 + l) (tick, n) }
/-- How many entries of a tick's log the cursor has passed. -/
def State.passed (s : State) (p l tick : Nat) : Nat := if (s.cursor p l).1 = tick then (s.cursor p l).2 else 0

/-- The lines the fenced core holds in M, and what becomes of their two copies (R127). -/
def State.settleLines (s : State) (g : Nat) (committed : Bool) : State :=
  let s := if committed then s else s.withdrawMirror g
  let lines := (s.core g).l2.filterMap fun x => match x.2 with | some l => if l.m then some x.1 else none | none => none
  lines.foldl (fun s la =>
    let h := s.home la
    let s := if !s.mirrorOk then s
      else if committed then s.writeLineHalf h la (s.lineHalf (1 - h) la) else s.writeLineHalf (1 - h) la (s.lineHalf h la)
    s.dropMarked g la) s

/-- What a replacement of a logical CPU starts from: the tick side of the core it replaces, with the frame half it loads. -/
def replTick (t : CoreTick) (committed : Bool) (half now : Nat) : CoreTick :=
  { CoreTick.empty with
    cur := { t.cur with rerun := !committed }, first := false, half := half,
    bodyLevel := t.bodyLevel, bodySec := t.bodySec, ints := t.ints, recovering := true, catching := true,
    waitRd := t.waitRd, missed := t.missed, aborts := t.aborts, faultAt := now, durable := false, isOpen := false,
    backlog := t.backlog ++ t.pend.toList }

/-- Give a logical CPU to core `n`, which wakes from C3 with the shadow of its predecessor's counter controls (R444); Clasto
votes client 16 on its domain (R432). -/
def State.assign (s : State) (p l n : Nat) (old : Core) (t : CoreTick) : State :=
  let c := { Core.reset n with serv := 0, pol := p, lcpu := l, sec := s.polSecure p, level := if s.polSecure p then 3 else 2,
                               pend := old.pend, ckey := old.ckey, shadow := old.shadow, t := t,
                               restarted := true }
  let c := old.shadow.foldl (fun c x => c.setSys x.1 x.2) c
  (((s.setCore n (c.setSys 0xC01 s.fresh)).drawn.setLcpu p l (some n)).put (bmFld (dieOf n)) 0
    (s.get (bmFld (dieOf n)) 0 - 1)).setVote (domKey 0 n) 16 true

/-- CORE_FENCE (R127 to R129, R135, R136, R394): the decision from the commit record of half q, what is left of the
commit, and the choice of a replacement. `cause` is GD_STAT.LAST_CAUSE's code, `src` the detector. -/
def State.fence (s : State) (g cause src syndrome : Nat) : State :=
  let c := s.core g
  let p := c.pol
  let l := c.lcpu
  let d := dieOf g
  if p = 0 || c.serv ≠ 0 then (if c.serv ≤ 1 then s.retireCore g 1 else s)
  else
    let s := s.logDie d 0x55 p [l, g, src, syndrome] 2
    let s := (s.freeToken g).dropSamples g
    if c.t.leaving && (!s.coreGuarded g || c.t.first) then ((s.cleanCore g).retireCore g 1).detached p l g
    else if !s.coreGuarded g || c.t.first then ((((s.migrVoid g).cleanCore g).retireCore g 1).vacate p l d)
    else
      let r := s.commitRec p l (c.t.half + 1)
      let mine := match r with | some w => w.getD 0 0 % 2 ^ 48 == c.t.cur.num | none => false
      let split := match r with | some w => bitOf (w.getD 0 0) 49 | none => false
      let s := s.put .GD_STAT_LAST_CAUSE p cause
      if mine && split then
        let s := s.settleLines g true
        let s := ((s.put .GD_STAT_LAST_CAUSE p 6).logDie d 0x56 p [l, c.t.cur.num, 3]).logDie d 0x5E p [l, c.t.cur.num]
        (((s.migrVoid g).retireCore g 1).vacate p l d)
      else
        let done := mine || !c.t.isOpen && c.t.step = 0 && !(c.t.recovering && c.t.cur.rerun)
        let half := if mine then (c.t.half + 1) % 2 else c.t.half
        let s := if done then s.updBerm fun b => { b with
            replay := b.replay ++ [{ old := g, pol := p, lcpu := l, half := half, sec := s.coreSec g }] } else s
        let s := (s.settleLines g done).logDie d 0x56 p [l, c.t.cur.num, if done then 1 else 2]
        let pick := match s.migrFrom g with
          | some x => if (s.core x.new).serv = 1 then some x.new else s.replacementFor g
          | none => s.replacementFor g
        if c.t.leaving then (s.retireCore g 1).detached p l g
        else match pick with
        | none => ((((s.migrVoid g).retireCore g 1).put .GD_STAT_LAST_CAUSE p 7).vacate p l d)
        | some n =>
          let s := s.updBerm fun b => { b with
            repl := b.repl ++ [(p, l, g)],
            migr := b.migr.map fun x =>
              if x.old = g && !x.moved || x.new = g && x.moved then { x with new := n, moved := true, faulted := true } else x }
          let again := c.t.recovering || c.t.catching
          let s := (s.retireCore g 1).assign p l n c (replTick c.t done half s.now)
          (if again then s else s.bump .GD_STAT_RECOVERING p 1).bump .GD_CNT0_RERUN_FAULT p 1

/-- CORE_FAULT_DETECTED (R126): a residue or state check fences the core; an uncorrectable error in a tick-dirty line
aborts the tick on the same core. -/
def execCoreFaultDetected (g : GCore) (source : FaultSource) (syndrome : Word) (s : State) : Res :=
  .next (match source with
    | .residue => s.fence g 1 1 syndrome.toNat
    | .state => s.fence g 2 2 syndrome.toNat
    | .tickDirty =>
      if s.inGuarded g && (s.core g).t.step < 4 then
        (s.put .GD_STAT_LAST_CAUSE (s.core g).pol 3).abortTick g 2 syndrome.toNat
      else s)

/-- TICK_OVERRUN (R97 to R99): at the deadline an open tick that has not reached its commit point overruns; a guarded
core that retired nothing for 10 µs is hung and fenced; the policy is suspended in catch-up (R132). -/
def execTickOverrun (g : GCore) (s : State) : Res :=
  .next (
    let c := s.core g
    let t := c.t
    let p := c.pol
    if !t.isOpen || 4 ≤ t.step && !t.splitting || t.overran || s.now ≤ t.cur.deadline then s
    else if (s.polder p).any (·.deleting) then
      -- R67, step 1: a guarded tick still open is aborted and its deferred queue discarded
      ((if s.coreGuarded g then (s.undoTick g).freeToken g else s).updTick g fun t => { t with isOpen := false, durable := false })
    else if s.coreGuarded g && t.lastRetire + 10000 ≤ t.cur.deadline then s.fence g 4 3 0
    else
      let s := (s.updTick g fun t => { t with overran := true }).bump .TK_EVT_OVERRUN p 1
      let s := s.logDie (dieOf g) 0x40 p [c.lcpu, t.cur.num]
      if t.catching then s
      else if s.tkPolicy p = 0 then (s.updCtx p fun x => { x with suspendNext := true }).tickFault p
      else if s.tkPolicy p = 2 then s.updCtx p fun x => { x with stretching := true }
      else s)

/-- The tick record a re-run stands under (R130): that of half p with RERUN set, or where it is not current for the tick one built
from the message of the tick, without interrupts. -/
def State.rerunRec (s : State) (n : Nat) : List Nat :=
  let c := s.core n
  match s.tickRec c.pol c.lcpu c.t.half c.t.cur.num with
  | some w => w.set 4 (w.getD 4 0 ||| 2 ^ 24)
  | none => tickWords { c.t.cur with rerun := true } []

/-- A replacement runs tick `k` again under its tick record, and takes the interrupts that names (R130, R138). -/
def State.rerun (s : State) (n : Nat) : State :=
  let w := s.rerunRec n
  let c := s.core n
  let m := { c.t.cur with edge := w.getD 1 0, count := BitVec.ofNat 64 (w.getD 2 0), fire := w.getD 3 0,
                          flags := w.getD 4 0 % 2 ^ 24 }
  let s := s.writeBytes (s.frameHalf n c.t.half + 0x40) (wordsLe w)
  (s.updCore n fun c =>
    let c := (c.tkRegs m).waitResult m.flags
    { c with t := { c.t with cur := m, recovering := false, isOpen := true, durable := true, lastRetire := s.now,
                             ints := recInts w } }).takeAgain n (recInts w)

/-- REPLACEMENT_READY (R127, R130, R131, R138): the replacement is in C0 and the deferred log of a committed tick is replayed; it
loads the frame and starts the re-run, or takes the next tick. Code 0x57. -/
def execReplacementReady (p : Pol) (l : Byte) (s : State) : Res :=
  .next (match s.coreOf p l.toNat with
    | none => s
    | some n =>
      let t := (s.core n).t
      if !t.recovering || !s.berm.repl.any (fun x => x.1 == (p : Nat) && x.2.1 == l.toNat) ||
          s.berm.replay.any (fun x => x.pol == (p : Nat) && x.lcpu == l.toNat) then s
      else
        let old := ((s.berm.repl.find? fun x => x.1 == (p : Nat) && x.2.1 == l.toNat).map (·.2.2)).getD n
        let s := s.updBerm fun b => { b with repl := b.repl.filter fun x => !(x.1 == (p : Nat) && x.2.1 == l.toNat) }
        let s := (s.updCore n fun c => { c with started := true, pow := 0 }).loadBody n t.half
        let s := s.logDie (dieOf n) 0x57 p [l.toNat, old, n] 6
        let s := (s.bermLog 0 6 1 old n (p, l.toNat)).migrTaken n
        let s := if t.catching then s else s.put .GD_STAT_RECOVERING p (s.get .GD_STAT_RECOVERING p - 1)
        if t.cur.rerun then s.rerun n else (s.updTick n fun t => { t with recovering := false }).tryTake n)

/-! ### SET_GD_CTL (R140) -/

def specSetGd : OpSpec :=
  { secureOnly := false, namesPol := false, needsPhase7 := false, powerFail := false, dmodes := [0], writesBuf := false,
    m0 := 0xFFFF, m1 := 0x7FFFFF }

/-- GD_CTL of a polder as one word. -/
def State.gdCtl (s : State) (p : Nat) : Nat := s.get .GD_CTL_DEFER_LIMIT p + s.get .GD_CTL_CATCHUP p * 2 ^ 20

/-- SET_GD_CTL: RESULT is the previous value. -/
def execSetGdCtl (c : Cmd) (s : State) : Res :=
  .next (runCmd specSetGd c (fun s =>
    let p := bitsOf c.e.p0 15 0 - 0x200
    if !s.srcSecure c.src then (s.silence c, resErr stNoSuchObject)
    else if (s.polder p).isNone then (s, resErr stNoSuchObject)
    else ((s.put .GD_CTL_DEFER_LIMIT p c.e.p1).put .GD_CTL_CATCHUP p (c.e.p1 / 2 ^ 20), resOk (s.gdCtl p))) s)

end Sys2Proof.Machine
end

