-- ==== Sys2Proof/Machine/Translation.lean ====
section
/-! DEFINITION. Address translation (spec/08): the two-stage walk, permissions and keys, Accessed and Dirty, walk faults,
the TLBs and their invalidation. A walk is one step (log entry 23): its fetches take the coherent value of each entry, and
the lines they read come into the L2 and the die cache. -/
namespace Sys2Proof

/-- The access writes. -/
def AccKind.writes : AccKind → Bool
  | .store | .atomic => true
  | _ => false

end Sys2Proof

namespace Sys2Proof.Machine

/-! ### Folded line transactions of the walker and of WLOCK (log entry 23) -/

/-- The core can read a line's committed value now: no other core holds it tick-dirty, no transaction is open on it in its bank
and no Writeback of it is on its way. -/
def State.lineFree (s : State) (g la : Nat) : Bool :=
  !((s.dir.get (s.home la)).trks.any fun t => t.la == la) && !(s.cores.any fun x => x.2.wbWaits la) &&
    !(s.cores.any fun x => x.1 != g && (match Tbl.get none x.2.l2 la with | some l => l.td | none => false))

/-- The line as this core's walker or load reads it: its own L2 copy as it stands, else the coherent value. -/
def State.coreVal (s : State) (g la : Nat) : Line :=
  match s.l2 g la with
  | some l => l.data
  | none => s.lineVal la

/-- The line reads as poison. -/
def State.linePoison (s : State) (g la : Nat) : Bool :=
  match s.l2 g la with
  | some l => l.poison
  | none => (s.poison.get (s.readHalf (la * 64))).contains la

/-- GSTAMP now (R232). -/
def State.gstamp (s : State) : Nat := bitsOf s.now 11 2

/-- The active ways of a bank: a retired column gives way to a spare of the same number; from the third one on it is gone
(R252). -/
def State.dirWays (s : State) (h b : Nat) : List Nat :=
  let gone := ((s.dir.get h).retired.filter fun x => x.1 == b).drop 2
  (List.range 24).filter fun w => !gone.contains (b, w)

/-- The entries of a set. -/
def State.dirSetOf (s : State) (h b set : Nat) : List (Nat × DirEnt) :=
  (s.dir.get h).ents.filterMap fun x => match x.2 with
    | some e => if dirBank x.1 = b && dirSet x.1 = set then some (x.1, e) else none
    | none => none

/-- The way of a new directory entry: the lowest free one (R231, R251). -/
def State.dirWay (s : State) (h la : Nat) : Option Nat :=
  let used := (s.dirSetOf h (dirBank la) (dirSet la)).map fun x => x.2.way
  (s.dirWays h (dirBank la)).find? fun w => !used.contains w

def State.dirEnt (s : State) (h la : Nat) : Option DirEnt := Tbl.get none (s.dir.get h).ents la
def State.updDir (s : State) (h : Nat) (f : DirHalf → DirHalf) : State := { s with dir := s.dir.set h (f (s.dir.get h)) }
def State.setDirEnt (s : State) (h la : Nat) (e : Option DirEnt) : State :=
  s.updDir h fun d => { d with ents := Tbl.set none d.ents la e }

/-- Record a line's state at home: presence `pres`, M or S; zero presence is I. -/
def State.record (s : State) (h la pres : Nat) (m : Bool) : State :=
  match s.dirEnt h la with
  | some e => s.setDirEnt h la (if pres = 0 then none else some { e with m := m, pres := pres, gstamp := s.gstamp })
  | none =>
    match (if pres = 0 then none else s.dirWay h la) with
    | some w => s.setDirEnt h la (some { m := m, pres := pres, gstamp := s.gstamp, way := w })
    | none => s

/-- Record a push's target as a sharer. A push sets no GSTAMP (R249): the entry keeps the stamp `old` it had; the stamp of an
entry that had none is free (log entry 139). -/
def State.recordPush (s : State) (h la pres : Nat) (old : Option Nat) : State :=
  let s := s.record h la pres false
  match s.dirEnt h la with
  | some e => (s.setDirEnt h la (some { e with gstamp := old.getD (s.fresh.toNat % 1024) })).drawn
  | none => s

/-- The hold window of a grant still runs (R246). -/
def State.inHold (s : State) (e : DirEnt) : Bool :=
  decide ((s.gstamp + 1024 - e.gstamp) % 1024 < min (s.get .DIR_CTL_HOLD_WINDOW 0) 2000 / 4)

/-- An entry of the set to give up (R251), outside its hold window and with no tracker: an S entry with the fewest
presence bits, else an M entry. -/
def State.dirVictim (s : State) (h la : Nat) : Option (Nat × DirEnt) :=
  let l := (s.dirSetOf h (dirBank la) (dirSet la)).filter fun x =>
    !((s.dir.get h).trks.any fun t => t.la == x.1) && !s.inHold x.2
  let ss := l.filter fun x => !x.2.m
  let fewest := (ss.map fun x => popcount x.2.pres 12).min?
  match fewest with
  | some n => s.pick (ss.filter fun x => popcount x.2.pres 12 == n)
  | none => s.pick (l.filter fun x => x.2.m)

/-- Room for a line's directory entry in a folded transaction (R251): its own, a free way, or that of a victim which every cache
gives up. `none`: it has to wait. -/
def State.dirRoom (s : State) (g h la : Nat) : Option State :=
  if (s.dirEnt h la).isSome || (s.dirWay h la).isSome then some s
  else match s.dirVictim h la with
    | some (va, _) =>
      if s.lineFree g va && !s.tdHere g va then some ((s.drawn.recallLine va).bump .DIR_CNT1_DIR_EVICTS (instH h 0) 1) else none
    | none => none

/-- The core's own S copy of a line becomes M where it stands: every other copy goes (R186, R242). -/
def State.ownLine (s : State) (g la : Nat) (l : CLine) : Option State :=
  let s := s.updCore g fun c => { c with l2 := Tbl.erase c.l2 la }
  let s := (s.recallLine la).record (s.home la) la (2 ^ (g / 20)) true
  (s.dcFill (g / 20) la l.data l.poison false).map fun s => s.setL2 g la { l with m := true }

/-- Bring a line into the core's L2 in S, or in M, as one folded transaction; `way` is a way cleared for it. `none`: it has to
wait. -/
def State.bring (s : State) (g la : Nat) (own : Bool) (way : Option Nat := none) : Option State :=
  if !s.lineFree g la then none
  else
    let h := s.home la
    let d := g / 20
    match s.l2 g la with
    | some l => if l.m || !own then some s else s.ownLine g la l
    | none =>
      match s.dirRoom g h la with
      | none => none
      | some s =>
        let v := s.lineVal la
        let po := s.linePoison g la
        if own then ((s.recallLine la).record h la (2 ^ d) true).l2Fill g la v true po false way
        else
          -- a modified copy elsewhere is written back and kept in S (Downgrade)
          let s := (s.cleanLine la).mapCores fun c => match Tbl.get none c.l2 la with
            | some l => { c with l2 := Tbl.set none c.l2 la (some { l with m := false, dirty := false }) }
            | none => c
          let pres := match s.dirEnt h la with | some e => e.pres | none => 0
          (s.record h la (withBit pres d true) false).l2Fill g la v false po false way

/-! ### Walk results -/

/-- A walk fault (R217): stage, level, cause, the stage-1 level of STAGE 3, WALKWR, the IPA that faulted, and the physical address
of the fetch. -/
structure WFault where
  stage : Nat
  level : Nat
  cause : Nat
  s1 : Nat
  wr : Bool
  ipa : Nat
  pa : Nat
  deriving DecidableEq, Repr

/-- A leaf a walk used: where its entry stands, its value, its level, what it gives for the address, the address it translates,
and whether it came from the stage-2 TLB. -/
structure Leaf where
  ea : Nat
  val : Nat
  level : Nat
  out : Nat
  va : Nat
  cached : Bool
  deriving DecidableEq, Repr

/-- What a walk has gone through: the stage-2 leaves of its stage-1 table fetches, whether an entry stood in a tick-dirty line or
came from a marked entry, the lines it fetched, and the table entries it met. -/
structure Trace where
  used : List Leaf
  td : Bool
  lines : List Nat
  tabs : List TlbEnt
  deriving DecidableEq, Repr

def Trace.none : Trace := { used := [], td := false, lines := [], tabs := [] }
def Trace.append (a b : Trace) : Trace :=
  { used := a.used ++ b.used, td := a.td || b.td, lines := a.lines ++ b.lines, tabs := a.tabs ++ b.tabs }

/-- What a walk comes to, with its trace: a result, a fault, or a wait at a line (R216). -/
inductive WRes (α : Type) where
  | ok (a : α) (t : Trace)
  | fault (f : WFault) (t : Trace)
  | wait (la : Nat)
  deriving DecidableEq, Repr

/-- Fields of an entry (R204 to R206). -/
def pteV (e : Nat) : Bool := bitOf e 0
def pteLeaf (e : Nat) : Bool := bitOf e 1
def pteR (e : Nat) : Bool := bitOf e 2
def pteW (e : Nat) : Bool := bitOf e 3
def pteX (e : Nat) : Bool := bitOf e 4
def pteU (e : Nat) : Bool := bitOf e 5
def pteG (e : Nat) : Bool := bitOf e 6
def pteA (e : Nat) : Bool := bitOf e 7
def pteD (e : Nat) : Bool := bitOf e 8
def pteDev (e : Nat) : Bool := bitOf e 11
def pteOut (e : Nat) : Nat := bitsOf e 51 12 * 4096
def pteKey (e : Nat) : Nat := bitsOf e 55 52
def pteGrp (e : Nat) : Nat := bitsOf e 10 9

/-- The log₂ of the span one slot covers: the leaf's size times its group (R212). -/
def slotBits (e level : Nat) : Nat := 12 + 9 * (3 - level) + 2 * pteGrp e

/-- A physical address in control space (R21, R25). -/
def inControl (a : Nat) : Bool := decide (0xFF00000000000 ≤ a)

/-! ### What the TLBs hold (R222, R223) -/

/-- Regime of a core (R201). -/
def State.s1On (s : State) (g : Nat) : Bool := ((s.core g).sysOf 0x108).getLsbD 0
def State.s2On (s : State) (g : Nat) : Bool := ((s.core g).sysOf 0x208).getLsbD 0 && decide ((s.core g).level ≤ 1)
def Core.asid (c : Core) : Nat := bitsOf (c.sysOf 0x108).toNat 31 16
def Core.vmid (c : Core) : Nat := bitsOf (c.sysOf 0x208).toNat 31 16

/-- The index, ways and sets of a structure (R222). -/
def TlbStr.shape : TlbStr → Nat × Nat × Nat
  | .itlb => (0, 64, 1)
  | .dtlb => (1, 96, 1)
  | .small => (2, 8, 512)
  | .large => (3, 4, 256)
  | .huge => (4, 32, 1)
  | .psc0 => (5, 32, 1)
  | .psc1 => (6, 64, 1)
  | .psc2 => (7, 256, 1)
  | .s2tlb => (8, 4, 128)
  | .s2psc => (9, 64, 1)

/-- The structure holds final translations, or stage-2 entries. -/
def TlbStr.final : TlbStr → Bool
  | .itlb | .dtlb | .small | .large | .huge => true
  | _ => false
def TlbStr.stage2 : TlbStr → Bool
  | .s2tlb | .s2psc => true
  | _ => false

/-- The unified array a final translation of a size goes to, the first-level TLB of an access, and the paging-structure cache of a
level. -/
def unifiedStr (size : Nat) : TlbStr := if size < 21 then .small else if size < 30 then .large else .huge
def firstStr (acc : AccKind) : TlbStr := if acc == .fetch then .itlb else .dtlb
def pscStr (level : Nat) : TlbStr := if level = 0 then .psc0 else if level = 1 then .psc1 else .psc2

/-- The set of a structure an entry belongs to (log entry 165). -/
def TlbEnt.set (e : TlbEnt) : Nat :=
  let x := e.str.shape
  if x.2.2 = 1 then 0 else Config.tlbSet x.1 (e.va / 2 ^ e.size) % x.2.2

/-- An entry's slot covers an address. -/
def TlbEnt.covers (e : TlbEnt) (va : Nat) : Bool := e.va == va / 2 ^ e.size * 2 ^ e.size

/-- The entry's tag agrees with the core's own (R223); a stage-2 entry is tagged by polder, world and VMID only. -/
def State.tagOk (s : State) (g : Nat) (e : TlbEnt) : Bool :=
  let c := s.core g
  e.pol == c.pol && e.sec == s.coreSec g &&
    (if e.str.stage2 then e.vmid == c.vmid
     else e.s2 == s.s2On g && (!e.s2 || e.vmid == c.vmid) && (e.glob || e.asid == c.asid))

/-- The first entry of a structure that serves an address. -/
def State.tlbFind (s : State) (g : Nat) (str : TlbStr) (va : Nat) : Option TlbEnt :=
  (s.core g).tlb.find? fun e => e.str == str && s.tagOk g e && e.covers va

/-- Two entries stand for the same thing. -/
def TlbEnt.same (a b : TlbEnt) : Bool :=
  a.str == b.str && a.pol == b.pol && a.sec == b.sec && a.s2 == b.s2 && a.vmid == b.vmid && a.asid == b.asid &&
    a.glob == b.glob && a.va == b.va && a.size == b.size && a.level == b.level

/-- Put an entry into its structure. In a full set another leaves, which no rule chooses (free, log entry 165). -/
def State.tlbPut (s : State) (g : Nat) (e : TlbEnt) : State :=
  let l := (s.core g).tlb.filter fun x => !x.same e
  let mine := l.filter fun x => x.str == e.str
  let ways := e.str.shape.2.1
  if mine.length < ways then s.updCore g fun c => { c with tlb := e :: l }
  else
    let set := mine.filter fun x => x.set == e.set
    if set.length < ways then s.updCore g fun c => { c with tlb := e :: l }
    else match s.pick set with
      | some v => s.drawn.updCore g fun c => { c with tlb := e :: l.erase v }
      | none => s

/-- An entry of this core's tags, with nothing of its own yet. -/
def State.tlbNew (s : State) (g : Nat) (str : TlbStr) (va size : Nat) : TlbEnt :=
  let c := s.core g
  let two := s.s2On g
  { str := str, pol := c.pol, sec := s.coreSec g, s2 := two || str.stage2, vmid := if two || str.stage2 then c.vmid else 0,
    asid := if str.stage2 then 0 else c.asid, glob := false, va := va / 2 ^ size * 2 ^ size, size := size, pa := 0, level := 0, ea := 0,
    val := 0, perms := 0, key := 0, device := false, dirtyBit := false, mark := false }

/-! ### Walks (R202 to R209, R219 to R221) -/

/-- One walk fetch at a physical address (R220, R221): what the walker's world may not read reads as not present; `dev` says that
its stage-2 leaf has DEV = 1. -/
def State.walkRead (s : State) (g pa : Nat) (dev : Bool) (flt : Nat → WFault) : WRes Nat :=
  let c := s.core g
  let sec := s.coreSec g
  let la := pa / 64
  let f := fun (cause : Nat) => WRes.fault { flt cause with pa := pa } Trace.none
  if inControl pa then f (if sec || s.reaches c.pol false (s.ctlTarget (pa / 8 * 8)) then 3 else 1)
  else match s.rgnCheck c.pol sec false pa with
    | some _ => f (if sec then 5 else 1)
    | none =>
      if dev || s.rgnDevice pa then f 3
      else if (s.l2 g la).isNone && !s.lineFree g la then .wait la
      else if s.linePoison g la then .fault { flt 4 with pa := pa } { Trace.none with lines := [la] }
      else .ok ((s.coreVal g la).toNat / 2 ^ (8 * (pa % 64)) % 2 ^ 64) { Trace.none with td := s.tdHere g la, lines := [la] }

/-- A walk from a table at level 3 − n down to its leaf (R203 to R207). `rd` fetches the entry at an address for its level; `two`
says that the outputs are IPAs; `tab` makes the paging-structure entry of a table entry. -/
def walkFrom (rd : Nat → Nat → WRes Nat) (flt : Nat → Nat → WFault) (two : Bool) (tab : Nat → Nat → Bool → TlbEnt) (va : Nat) :
    Nat → Nat → WRes Leaf
  | 0, _ => .fault (flt 3 1) Trace.none
  | n + 1, tbl =>
    let level := 3 - n
    let sh := 12 + 9 * n
    let ea := tbl + va / 2 ^ sh % 512 * 8
    match rd level ea with
    | .fault f t => .fault f t
    | .wait la => .wait la
    | .ok e t =>
      if !pteV e || pteLeaf e && level == 0 || !pteLeaf e && level == 3 then .fault (flt level 1) t
      else if two && decide (2 ^ 48 ≤ pteOut e) then .fault (flt level 6) t
      else if pteLeaf e then
        if pteOut e % 2 ^ sh ≠ 0 then .fault (flt level 6) t
        else .ok { ea := ea, val := e, level := level, out := pteOut e + va % 2 ^ sh, va := va, cached := false } t
      else match walkFrom rd flt two tab va n (pteOut e) with
        | .ok l t2 => .ok l ({ t with tabs := t.tabs ++ [tab level (pteOut e) t.td] }.append t2)
        | .fault f t2 => .fault f (t.append t2)
        | .wait la => .wait la

/-- Where a walk starts: after the deepest cached table entry on the path, else at the root (R222, R227). The flag is its tick
mark. -/
def walkStart (found : Nat → Option TlbEnt) (root : Nat) : Nat × Nat × Bool :=
  match found 2 with
  | some e => (1, e.pa, e.mark)
  | none =>
    match found 1 with
    | some e => (2, e.pa, e.mark)
    | none =>
      match found 0 with
      | some e => (3, e.pa, e.mark)
      | none => (4, root, false)

/-- The result of a walk that started below a marked entry. -/
def WRes.marked {α : Type} (m : Bool) : WRes α → WRes α
  | .ok a t => .ok a { t with td := t.td || m }
  | r => r

/-- The stage-2 translation of an IPA (R202, R203): from the stage-2 TLB, else a walk. `stage` is 2, or 3 for a stage-1 table
fetch of level `s1`; a fresh walk uses no cached entry (R208). -/
def State.stage2 (s : State) (g ipa stage s1 : Nat) (fresh : Bool) : WRes Leaf :=
  let f := fun (lv ca : Nat) => ({ stage := stage, level := lv, cause := ca, s1 := s1, wr := false, ipa := ipa, pa := 0 } : WFault)
  if 2 ^ 48 ≤ ipa then .fault (f 0 6) Trace.none
  else match (if fresh then none else s.tlbFind g .s2tlb ipa) with
    | some e =>
      .ok { ea := e.ea, val := e.val, level := e.level, out := e.pa + ipa % 2 ^ e.size, va := ipa, cached := true }
        { Trace.none with td := e.mark }
    | none =>
      let at_ := fun (lv : Nat) => if fresh then none else
        (s.core g).tlb.find? fun e => e.str == .s2psc && e.level == lv && s.tagOk g e && e.covers ipa
      let x := walkStart at_ (bitsOf ((s.core g).sysOf 0x207).toNat 51 12 * 4096)
      (walkFrom (fun lv ea => s.walkRead g ea false (f lv)) f false
        (fun lv out m => { s.tlbNew g .s2psc ipa (39 - 9 * lv) with pa := out, level := lv, mark := m && s.inGuarded g })
        ipa x.1 x.2.1).marked x.2.2

/-- A stage-1 table fetch, through stage 2 where it applies: its leaf needs R (R208, R220). -/
def State.s1Fetch (s : State) (g : Nat) (two fresh : Bool) (lv ea : Nat) : WRes Nat :=
  let f := fun (ca : Nat) => ({ stage := 1, level := lv, cause := ca, s1 := 0, wr := false, ipa := 0, pa := 0 } : WFault)
  if !two then s.walkRead g ea false f
  else match s.stage2 g ea 3 lv fresh with
    | .fault x t => .fault x t
    | .wait la => .wait la
    | .ok l t =>
      let x := fun (ca : Nat) => ({ stage := 3, level := l.level, cause := ca, s1 := lv, wr := false, ipa := ea, pa := 0 } : WFault)
      let t := { t with used := [l] }
      if !pteR l.val then .fault (x 2) t
      else match s.walkRead g l.out (pteDev l.val) (fun ca => if ca = 3 && pteDev l.val then x 3 else f ca) with
        | .ok v t2 => .ok v (t.append t2)
        | .fault y t2 => .fault y (t.append t2)
        | r => r

/-- The access as its permission bits (R208). -/
def accAllowed (e : Nat) (acc : AccKind) (u : Bool) : Bool :=
  if pteW e && !pteR e then false
  else match acc with
    | .fetch => pteX e && (pteU e == u)
    | .load => pteR e && (!u || pteU e)
    | .store | .atomic => pteR e && pteW e && (!u || pteU e)
def accAllowed2 (e : Nat) (acc : AccKind) : Bool :=
  if pteW e && !pteR e then false
  else match acc with
    | .fetch => pteX e
    | .load => pteR e
    | .store | .atomic => pteR e && pteW e

/-- The protection-key check of a stage-1 leaf (R211): the key refused, if any. -/
def keyRefused (pkr e : Nat) (acc : AccKind) : Bool :=
  acc != .fetch && pteU e && (bitOf pkr (pteKey e) || acc.writes && bitOf pkr (16 + pteKey e))

/-- What the walk of an access comes to: a physical address and Device type with the leaves of both stages, a fault, a refused
key, or a wait at a line. -/
inductive XRes where
  | ok (pa : Nat) (dev : Bool) (leaf1 leaf2 : Option Leaf) (t : Trace)
  | fault (f : WFault) (t : Trace)
  | key (k : Nat) (t : Trace)
  | wait (la : Nat)
  deriving DecidableEq, Repr

/-- A fault of the access itself at stage 1. -/
def fault1 (lv ca : Nat) : WFault := { stage := 1, level := lv, cause := ca, s1 := 0, wr := false, ipa := 0, pa := 0 }

/-- The check of an address before any fetch (R202): canonical, in a half that is not off; with stage 1 off within 52 bits. -/
def State.vaFault (s : State) (g va : Nat) : Option WFault :=
  let ctl := ((s.core g).sysOf 0x108).toNat
  if s.s1On g then
    if va / 2 ^ 47 ≠ 0 && va / 2 ^ 47 ≠ 2 ^ 17 - 1 then some (fault1 0 6)
    else if (if bitOf va 47 then bitOf ctl 2 else bitOf ctl 1) then some (fault1 0 1)
    else none
  else if 2 ^ 52 ≤ va then some (fault1 0 6)
  else none

/-- The stage-1 walk of an address (R203). A stage-1 leaf stands where stage 2 puts its table (R214). -/
def State.stage1 (s : State) (g va : Nat) (fresh : Bool) : WRes Leaf :=
  let two := s.s2On g
  let root := bitsOf ((s.core g).sysOf (if bitOf va 47 then 0x107 else 0x106)).toNat 51 12 * 4096
  let at_ := fun (lv : Nat) => if fresh then none else s.tlbFind g (pscStr lv) va
  let x := walkStart at_ root
  match (walkFrom (s.s1Fetch g two fresh) fault1 two
      (fun lv out m => { s.tlbNew g (pscStr lv) va (39 - 9 * lv) with pa := out, level := lv, mark := m && s.inGuarded g })
      (va % 2 ^ 48) x.1 x.2.1).marked x.2.2 with
  | .ok l t => .ok { l with ea := (t.used.getLast?.map (·.out)).getD l.ea } t
  | r => r

/-- The final stage-2 translation of an access with its permission (R208, R219). -/
def State.final2 (s : State) (g out : Nat) (acc : AccKind) (fresh : Bool) : WRes Leaf :=
  match s.stage2 g out 2 0 fresh with
  | .ok l t =>
    if accAllowed2 l.val acc then .ok l t
    else .fault { stage := 2, level := l.level, cause := 2, s1 := 0, wr := false, ipa := out, pa := 0 } t
  | r => r

/-- The full walk of an access (R201 to R209, R219). -/
def State.walk (s : State) (g va : Nat) (acc : AccKind) (fresh : Bool) : XRes :=
  let c := s.core g
  let two := s.s2On g
  match s.vaFault g va with
  | some f => .fault f Trace.none
  | none =>
    if s.s1On g then
      match s.stage1 g va fresh with
      | .fault f t => .fault f t
      | .wait la => .wait la
      | .ok l t =>
        if !accAllowed l.val acc (c.level == 0) then .fault (fault1 l.level 2) t
        else if keyRefused (c.sysOf 0xC00).toNat l.val acc then .key (pteKey l.val) t
        else if !two then .ok l.out (pteDev l.val) (some l) none t
        else match s.final2 g l.out acc fresh with
          | .fault f t2 => .fault f (t.append t2)
          | .wait la => .wait la
          | .ok l2 t2 => .ok l2.out (pteDev l.val || pteDev l2.val) (some l) (some l2) (t.append t2)
    else if !two then .ok va false none none Trace.none
    else match s.final2 g va acc fresh with
      | .fault f t => .fault f t
      | .wait la => .wait la
      | .ok l2 t => .ok l2.out (pteDev l2.val) none (some l2) t

/-- The lines that walk fetches read come into the L2 and the die cache as Normal reads do (R221); the line at which that has to
wait, if any. -/
def State.fetchLines (s : State) (g : Nat) : List Nat → State × Option Nat
  | [] => (s, none)
  | la :: rest =>
    if !s.l2On g then (s, none)
    else match s.bring g la false with
      | some s => s.fetchLines g rest
      | none => (s, some la)

/-! ### Accessed and Dirty (R213 to R216) -/

/-- How many ways of the set tick-dirty lines take, locked ways aside, and the limit of R115 and R185. -/
def State.tdCount (s : State) (g set : Nat) : Nat :=
  ((s.l2SetOf g set).filter fun x => x.2.td && !(s.l2Locked g).testBit x.2.way).length
def State.tdLimit (s : State) (g : Nat) : Nat := 14 - ways ((s.l2Locked g) ||| (s.l2Retired g))

/-- A store's line may be marked: it is marked already, stands in a locked way, or the set has room (R115, R185). -/
def State.tdRoom (s : State) (g la : Nat) : Bool :=
  match s.l2 g la with
  | some l => l.td || (s.l2Locked g).testBit l.way || decide (s.tdCount g (la % 1024) < s.tdLimit g)
  | none => decide (s.tdCount g (la % 1024) < s.tdLimit g)

/-- Write into a line the L2 holds in M: tick-dirty inside an open guarded tick, an ordinary modified line outside. -/
def State.l2Write (s : State) (g la : Nat) (data : Line) (mask : BitVec 64) : State :=
  match s.l2 g la with
  | none => s
  | some l =>
    let td := s.inGuarded g
    let s := if td && !l.td then s.countCore g 0x052 else s
    let n := lineMerge l.data data mask
    let s := s.setL2 g la { l with data := n, dirty := true, td := l.td || td, poison := l.poison && mask != BitVec.allOnes 64 }
    match Tbl.get none (s.core g).l1d la with
    | some x => s.updCore g fun c => { c with l1d := Tbl.set none c.l1d la (some { x with data := n }) }
    | none => s

/-- What one A/D update comes to (R214, R215): it is made or not needed, refused for want of the write right, has met another
value, or has to wait (at a line, or for a guard overflow's commit). -/
inductive AdRes where
  | made (s : State)
  | refused (s : State)
  | differs (s : State)
  | wait (s : State)

/-- The value an update leaves. -/
def adNew (v : Nat) (d : Bool) : Nat := withBit (if d then withBit v 8 true else v) 7 true
/-- An update changes its entry. -/
def updates (x : Leaf × Bool) : Bool := x.1.val != adNew x.1.val x.2

/-- Set A, and D, on one entry by compare-and-swap in the core's own L2 (AD_UPDATE; R214 to R216). -/
def State.adSet (s : State) (g : Nat) (l : Leaf) (d : Bool) : AdRes :=
  let la := l.ea / 64
  let now := fun (s : State) => (s.coreVal g la).toNat / 2 ^ (8 * (l.ea % 64)) % 2 ^ 64
  if !updates (l, d) then .made s
  else match s.rgnCheck (s.core g).pol (s.coreSec g) true l.ea with
    | some k => .refused (s.refuse (homeHalf l.ea) (.core (Fin.ofNat 240 g)) (s.core g).pol (s.coreSec g) l.ea k)
    | none =>
      if s.inGuarded g && !s.tdRoom g la then .wait (s.guardOverflow g false (la % 1024))
      else if !s.l2On g && (s.l2 g la).isNone then
        if !s.lineFree g la then .wait (s.lineDefer g la)
        else if now s ≠ l.val then .differs s
        else .made (s.writeBytes l.ea (natLe (adNew l.val d) 8))
      else match s.bring g la true with
        | none => .wait ((s.lineDefer g la).fillDefer g la)
        | some s =>
          if now s ≠ l.val then .differs s
          else .made (s.l2Write g la (lineOf (BitVec.ofNat 64 (adNew l.val d)) (l.ea % 64) 8) (maskOf (l.ea % 64) 8))

/-- The updates of a walk in order; one refused leaves the others made. -/
def State.adAll (s : State) (g : Nat) : List (Leaf × Bool) → AdRes
  | [] => .made s
  | (l, d) :: t =>
    match s.adSet g l d with
    | .made s => s.adAll g t
    | .refused s => match s.adAll g t with | .made s => .refused s | r => r
    | r => r

/-- The updates of a walk: A on every stage-2 leaf its table fetches used, with D on that of the page it writes to, then the
leaves of the access (R213). -/
def walkUpdates (l1 l2 : Option Leaf) (used : List Leaf) (wr1 d : Bool) : List (Leaf × Bool) :=
  used.dropLast.map (fun l => (l, false)) ++ used.getLast?.toList.map (fun l => (l, wr1)) ++
    (l1.map fun l => (l, d)).toList ++ (l2.map fun l => (l, d)).toList

/-- The stage-2 leaf of the table page that a walker write goes to does not allow it (R208, R217: STAGE 3 with WALKWR). -/
def walkWrFault (l1 : Option Leaf) (used : List Leaf) (wr1 : Bool) : Option WFault :=
  match l1, used.getLast? with
  | some l, some x =>
    if wr1 && !(pteR x.val && pteW x.val) then
      some { stage := 3, level := x.level, cause := 2, s1 := l.level, wr := true, ipa := x.va, pa := 0 }
    else none
  | _, _ => none

/-! ### Filling the TLBs (R212, R216, R218, R223) -/

/-- The permission bits a final translation holds: stage 1 in [3:0] (R W X U), stage 2 in [6:4] (R W X). -/
def tlbPerms (l1 : Leaf) (l2 : Option Leaf) : Nat :=
  bitsOf l1.val 5 2 + (match l2 with | some l => bitsOf l.val 4 2 * 16 | none => 0x70)

/-- The final translation a completed walk leaves in a structure; `d` says that the access set D. -/
def State.finalOf (s : State) (g va pa : Nat) (dev d : Bool) (l1 : Leaf) (l2 : Option Leaf) (mark : Bool) : TlbEnt :=
  let b := match l2 with | some l => min (slotBits l1.val l1.level) (slotBits l.val l.level) | none => slotBits l1.val l1.level
  let glob := pteG l1.val
  { s.tlbNew g (unifiedStr b) va b with
    asid := if glob then 0 else (s.core g).asid, glob := glob, pa := pa - va % 2 ^ b, level := l1.level, perms := tlbPerms l1 l2,
    key := pteKey l1.val, device := dev, dirtyBit := d || pteD l1.val && (l2.all fun l => pteD l.val), mark := mark }

/-- A stage-2 leaf as the stage-2 TLB holds it, with its bits as the walk left them. -/
def State.s2Of (s : State) (g : Nat) (x : Leaf × Bool) (mark : Bool) : TlbEnt :=
  let l := x.1
  let b := slotBits l.val l.level
  { s.tlbNew g .s2tlb l.va b with pa := l.out - l.va % 2 ^ b, level := l.level, ea := l.ea, val := adNew l.val x.2, mark := mark }

/-- What a completed walk leaves: its table entries, its stage-2 leaves, and with stage 1 on the final translation, in the unified
TLB and that of the access. `all` are its updates. -/
def State.tlbFill (s : State) (g va pa : Nat) (acc : AccKind) (dev d : Bool) (l1 l2 : Option Leaf) (t : Trace)
    (all : List (Leaf × Bool)) : State :=
  let tick := s.inGuarded g
  let s := t.tabs.foldl (fun s e => s.tlbPut g e) s
  let leaf1 := fun (l : Leaf) => l1.any (· == l)
  let s := (all.filter fun x => !x.1.cached && !leaf1 x.1).foldl (fun s x => s.tlbPut g (s.s2Of g x (tick && (t.td || updates x)))) s
  match l1 with
  | some l =>
    let e := s.finalOf g va pa dev d l l2 (tick && (t.td || all.any updates))
    (s.tlbPut g e).tlbPut g { e with str := firstStr acc }
  | none => s

/-! ### Walk faults (R217 to R221) -/

/-- Raise a walk fault (R217, R218). -/
def State.walkFault (s : State) (g va : Nat) (acc : AccKind) (f : WFault) : State :=
  let s := if f.stage = 1 then s else s.updCore g fun c => c.setSys 0x206 (BitVec.ofNat 64 (f.ipa / 4096 % 2 ^ 36 * 4096))
  let det := f.stage + f.level * 4 + f.cause * 16 + b2n acc.writes * 256 + b2n f.wr * 512 + (if f.stage = 3 then f.s1 * 1024 else 0)
  s.syncExc g (if acc == .fetch then 0x08 else 0x09) det (if f.stage = 1 then 1 else 2) (BitVec.ofNat 64 va)

/-- A protection-key violation (R211, R218). -/
def State.keyFault (s : State) (g va k : Nat) (acc : AccKind) : State :=
  s.syncExc g 0x0A (k + b2n acc.writes * 16) 1 (BitVec.ofNat 64 va)

/-- What a faulting fetch leaves in the hub: a refused one counts and is recorded at its physical address (R76 to R78, R220), a
poisoned one is logged with code 0x62 (R221). -/
def State.walkRecord (s : State) (g : Nat) (f : WFault) : State :=
  let c := s.core g
  let a : Agent := .core (Fin.ofNat 240 g)
  if f.pa = 0 then s
  else if f.cause = 4 then s.logDie (dieOf g) 0x62 c.pol [f.stage, f.level, f.pa]
  else if f.cause ≠ 1 && f.cause ≠ 5 then s
  else if inControl f.pa then s.refuse (s.ctlHalf f.pa) a c.pol (s.coreSec g) f.pa 5
  else match s.rgnCheck c.pol (s.coreSec g) false f.pa with
    | some k => s.refuse (homeHalf f.pa) a c.pol (s.coreSec g) f.pa k
    | none => s

/-! ### Translating an access (R208, R211, R212, R218, R219, R224) -/

/-- What translating an access comes to, before an exception is taken: an address and Device type, a walk fault, a refused key, or
a wait. -/
inductive Tx where
  | ok (s : State) (pa : Nat) (dev : Bool)
  | fault (s : State) (f : WFault)
  | key (s : State) (k : Nat)
  | wait (s : State)
  deriving DecidableEq, Repr

/-- The walk of an access with its fetches, its updates and the entries it leaves (R203, R208, R213 to R216). A permission fault
that rests on a cached entry, and a store through a cached leaf whose D is 0, walk afresh; so does an update that meets another
value (R214), up to the eighth time. `setD` is false for maintenance, which never sets D. -/
def State.walkFill (s : State) (g va : Nat) (acc : AccKind) (setD : Bool) : Nat → Bool → Tx
  | 0, _ => .wait s
  | n + 1, fresh =>
    match s.walk g va acc fresh with
    | .wait la => .wait (s.lineDefer g la)
    | .fault f t =>
      if f.cause = 2 && !fresh then s.walkFill g va acc setD n true
      else match s.fetchLines g t.lines with
        | (s, some la) => .wait (s.fillDefer g la)
        | (s, none) => .fault (s.walkRecord g f) f
    | .key k t =>
      match s.fetchLines g t.lines with
      | (s, some la) => .wait (s.fillDefer g la)
      | (s, none) => .key s k
    | .ok pa dev l1 l2 t =>
      match s.fetchLines g t.lines with
      | (s, some la) => .wait (s.fillDefer g la)
      | (s, none) =>
        let d := acc.writes && setD
        let wr1 := (l1.map fun l => (l, d)).any updates
        let all := walkUpdates l1 l2 t.used wr1 d
        if all.any fun x => x.1.cached && updates x then s.walkFill g va acc setD n true
        else match walkWrFault l1 t.used wr1 with
          | some f => if fresh then .fault s f else s.walkFill g va acc setD n true
          | none =>
            match s.adAll g all with
            | .wait s => .wait s
            | .differs s => (s.countCore g 0x033).walkFill g va acc setD n true
            | .refused s => .ok s pa dev
            | .made s => .ok (s.tlbFill g va pa acc dev d l1 l2 t all) pa dev

/-- How often a walk starts again at most: once without cached entries, eight times after a failed compare (R214), once more for a
leaf without D. -/
def walkFuel : Nat := 12

/-- Drop the final translations of an address (R208). -/
def State.tlbDrop (s : State) (g va : Nat) : State :=
  s.updCore g fun c => { c with tlb := c.tlb.filter fun e => !(e.str.final && s.tagOk g e && e.covers va) }

/-- What a final translation that the TLBs hold comes to for an access, in the order of R219: a stage-1 refusal, a refused key, a
stage-2 refusal or a missing D send it on to a walk (`none`). -/
def State.useEntry (s : State) (g va : Nat) (acc : AccKind) (setD : Bool) (e : TlbEnt) : Option Tx :=
  let bits := e.perms % 16 * 4
  if !accAllowed bits acc ((s.core g).level == 0) then none
  else if keyRefused ((s.core g).sysOf 0xC00).toNat (bits + e.key * 2 ^ 52) acc then some (.key s e.key)
  else if !accAllowed2 (e.perms / 16 * 4) acc || acc.writes && setD && !e.dirtyBit then none
  else some (.ok (if e.str == firstStr acc then s else s.tlbPut g { e with str := firstStr acc }) (e.pa + va % 2 ^ e.size) e.device)

/-- Look an address up in the TLB of the access, whose miss counts, then in the unified one (R222, R224). -/
def State.tlbLook (s : State) (g va : Nat) (acc : AccKind) : State × Option TlbEnt :=
  match s.tlbFind g (firstStr acc) va with
  | some e => (s, some e)
  | none => (s.countCore g (if acc == .fetch then 0x031 else 0x030), [TlbStr.small, .large, .huge].findSome? fun str => s.tlbFind g str va)

/-- Translate an access: the check of its address, a TLB hit that allows it, else a walk. -/
def State.xlate (s : State) (g va : Nat) (acc : AccKind) (setD : Bool) : Tx :=
  match s.vaFault g va with
  | some f => .fault s f
  | none =>
    if !s.s1On g then s.walkFill g va acc setD walkFuel false
    else match s.tlbLook g va acc with
      | (s, some e) =>
        match s.useEntry g va acc setD e with
        | some r => r
        | none => (s.tlbDrop g va).walkFill g va acc setD walkFuel true
      | (s, none) => s.walkFill g va acc setD walkFuel false

/-- A translated access: an address and Device type, an exception already taken, or a wait. -/
inductive Tr where
  | ok (s : State) (pa : Nat) (dev : Bool)
  | exc (s : State)
  | wait (s : State)
  deriving DecidableEq, Repr

/-- Translate an access of the instruction at the PC. -/
def State.translate (s : State) (g va : Nat) (acc : AccKind) (setD : Bool := true) : Tr :=
  match s.xlate g va acc setD with
  | .ok s pa dev => .ok s pa dev
  | .fault s f => .exc (s.walkFault g va acc f)
  | .key s k => .exc (s.keyFault g va k acc)
  | .wait s => .wait s

/-- A translation that takes no exception (WLOCK, R162; PLACE, R166): `exc` says that it failed. -/
def State.probe (s : State) (g va : Nat) (acc : AccKind) : Tr :=
  match s.xlate g va acc true with
  | .ok s pa dev => .ok s pa dev
  | .fault s _ => .exc s
  | .key s _ => .exc s
  | .wait s => .wait s

/-- The translation of a wrong-path access (R173, R174): a hit, or a walk that needs no update and leaves its entries; no fault is
raised, and one that would set A or D goes no further. -/
def State.specXlate (s : State) (g va : Nat) (acc : AccKind) : State × Option Nat :=
  let miss := fun (s : State) =>
    match s.walk g va acc false with
    | .ok pa dev l1 l2 t =>
      match s.fetchLines g t.lines with
      | (s, some _) => (s, none)
      | (s, none) =>
        let all := walkUpdates l1 l2 t.used false false
        if all.any updates then (s, none)
        else (s.tlbFill g va pa acc dev false l1 l2 t all, if dev then none else some pa)
    | .fault _ t => ((s.fetchLines g t.lines).1, none)
    | .key _ t => ((s.fetchLines g t.lines).1, none)
    | .wait _ => (s, none)
  match s.vaFault g va with
  | some _ => (s, none)
  | none =>
    if !s.s1On g then miss s
    else match s.tlbLook g va acc with
      | (s, some e) =>
        match s.useEntry g va acc false e with
        | some (.ok s pa dev) => (s, if dev then none else some pa)
        | _ => (s, none)
      | (s, none) => miss s

/-! ### Invalidation (R164, R165, R225, R226) -/

/-- The regime of an issuer (R225), with the VMID of S2CTL for the stage-2 forms. -/
def State.regime (s : State) (g : Nat) : Regime :=
  { pol := (s.core g).pol, sec := s.coreSec g, s2 := s.s2On g, vmid := (s.core g).vmid }

/-- An entry is removed by a TLBI (the table of R225). A VA inside a grouped slot removes the whole slot; LEAF keeps table
entries. -/
def tlbKills (r : Regime) (i : TlbInv) (e : TlbEnt) : Bool :=
  let world := e.pol == r.pol && e.sec == r.sec
  let mine := world && e.s2 == r.s2 && (!e.s2 || e.vmid == r.vmid)
  let here := e.covers i.va.toNat
  let form := i.form.val
  if form = 6 then e.pol == r.pol && (!i.leaf || e.str.final || e.str == .s2tlb)
  else if form = 5 then world && e.s2 && e.vmid == i.vmid.toNat && (!i.leaf || e.str.final || e.str == .s2tlb)
  else if e.str.stage2 then form == 4 && world && e.vmid == r.vmid && here && (!i.leaf || e.str == .s2tlb)
  else if form = 4 then e.str.final && world && e.s2 && e.vmid == r.vmid
  else if e.str.final then
    mine && (if form = 0 then here && (e.glob || e.asid == i.asid.toNat)
      else if form = 1 then here
      else form == 3 || !e.glob && e.asid == i.asid.toNat)
  else
    !i.leaf && mine && (if form = 0 then here && e.asid == i.asid.toNat
      else if form = 1 then here
      else form == 3 || e.asid == i.asid.toNat)

/-- Remove the entries a TLBI names from one core: the state, and where the removed leaves pointed. -/
def State.tlbKill (s : State) (g : Nat) (r : Regime) (i : TlbInv) : State × List (Nat × Nat) :=
  let gone := (s.core g).tlb.filter fun e => tlbKills r i e
  (s.updCore g fun c => { c with tlb := c.tlb.filter fun e => !tlbKills r i e },
   (gone.filter fun e => e.str.final || e.str == .s2tlb).map fun e => (e.pa, e.size))

/-- A core still has an access outstanding in one of the spans: a miss, or a store in its merging buffer (R165). -/
def Core.busyIn (c : Core) (spans : List (Nat × Nat)) : Bool :=
  let hit := fun (a : Nat) => spans.any fun x => decide (x.1 ≤ a) && decide (a < x.1 + 2 ^ x.2)
  c.miss.any (fun m => hit (m.la * 64)) || c.mb.any fun e => hit (e.la * 64)

/-- A target is complete: it has removed the entries and finished the accesses made with them, or it is no longer a core of the
polder that holds any (R164, R165). -/
def State.tlbiDone (s : State) (x : TlbiPend) : Bool :=
  let c := s.core x.dst
  c.pol != x.reg.pol || c.serv != 0 || c.pow == 3 || x.done && !c.busyIn x.spans

/-- The lowest level of a TLBI form. -/
def tlbiLevel (form : Nat) : Nat := if form ≤ 3 then 1 else 2

/-- TLBI (R156, R164, R225). It acts at once on this core; without LOCAL it is on its way to every other core of the polder until
TLBI_BROADCAST delivers it. -/
def execTlbi (g : GCore) (w : BitVec 32) (s : State) : Res :=
  .next (s.added g 0x10 w fun s =>
    let sub := wordSub w
    let c := s.core g
    let i : TlbInv := { form := Fin.ofNat 7 (sub % 8), leaf := bitOf sub 3, va := c.gprOf (wordRs1 w),
                        asid := (c.gprOf (wordRs2 w)).setWidth 16, vmid := (c.gprOf (wordRs2 w)).setWidth 16 }
    let r := s.regime g
    let (s, spans) := s.tlbKill g r i
    let own : List TlbiPend := if (s.core g).busyIn spans then [{ dst := g, inv := i, reg := r, done := true, spans := spans }] else []
    let others := if bitOf sub 4 then [] else match s.polder c.pol with
      | some v => v.cores.filter fun n => n != (g : Nat) && (s.core n).serv == 0 && (s.core n).pow != 3
      | none => []
    (s.updCore g fun c => { c with
      tlbiPend := c.tlbiPend ++ own ++ others.map fun n => { dst := n, inv := i, reg := r, done := false, spans := [] } }).retire g)

/-- TLBI_BROADCAST (R164, R226): the invalidation reaches core `g`, which removes what it names; a walk is one step here, so none is
in flight. A core waiting in C1 or C2 does not wake for it. -/
def execTlbiBroadcast (g : GCore) (inv : TlbInv) (s : State) : Res :=
  let mine := fun (x : TlbiPend) => x.dst == (g : Nat) && x.inv == inv && !x.done && x.reg.pol == (s.core g).pol
  .next (
    match s.cores.find? fun x => x.2.tlbiPend.any mine with
    | some y =>
      match (s.core y.1).tlbiPend.find? mine with
      | some x =>
        let (s, spans) := s.tlbKill g x.reg inv
        s.updCore y.1 fun c => { c with tlbiPend := c.tlbiPend.map fun z => if z = x then { x with done := true, spans := spans } else z }
      | none => s
    | none => s)

/-- TLBSYNC (R165): retires when every TLBI this core issued is complete at every target; interrupts wait for it. -/
def execTlbsync (g : GCore) (w : BitVec 32) (s : State) : Res :=
  .next (s.addedIf (s.canGoOn g && (s.core g).fill.isNone) g 0x11 none w fun s =>
    let left := (s.core g).tlbiPend.filter fun x => !s.tlbiDone x
    let s := s.updCore g fun c => { c with tlbiPend := left, syncing := !left.isEmpty }
    if left.isEmpty then s.retire g else s)

/-- TRANSLATION_REG_WRITE (R201, R149): an MTSR to S1ROOT_LO, S1ROOT_HI, S1CTL, XIPA_H, S2ROOT or S2CTL; reserved fields
are written as zero, and nothing is invalidated. -/
def trMask (n : Nat) : Nat :=
  if n = 0x106 || n = 0x107 || n = 0x207 then 0xFFFFFFFFFF000
  else if n = 0x108 then 0xFFFF0007
  else if n = 0x208 then 0xFFFF0001
  else if n = 0x206 then 0xFFFFFFFFF000
  else 0

def execTranslationRegWrite (g : GCore) (n : BitVec 12) (rs : Fin 32) (s : State) : Res :=
  .next (s.instr g 0 0 0 fun s =>
    if trMask n.toNat = 0 then s
    else match s.sysAccess g n.toNat true with
      | some t => t
      | none => (s.updCore g fun c => c.setSys n.toNat (c.gprOf rs &&& BitVec.ofNat 64 (trMask n.toNat))).retire g)

end Sys2Proof.Machine
end

