-- ==== Sys2Proof/Machine/Maint.lean ====
section
/-! DEFINITION. Cache maintenance, way locking, the placement hint, fences and the merging buffer (R159 to R167, R180 to
R187). -/
namespace Sys2Proof.Machine

/-! ### Maintenance (R159 to R161) -/

/-- Clean one L2: a dirty copy is written back and kept. -/
def State.l2Clean (s : State) (g la : Nat) : State :=
  match s.l2 g la with
  | some l => if l.m && l.dirty && !l.td then (s.writeback g la l 1).setL2 g la { l with dirty := false } else s
  | none => s

/-- A die drops its copies of a line; its data is discarded, and the home hears of it. -/
def State.dieDrop (s : State) (d la : Nat) : State :=
  if (s.dc d la).isNone && (s.holders d la).isEmpty then s
  else (((s.holders d la).foldl (fun s g => s.l2Inval g la) s).dropDc d la).evictClean d la

/-- The dies of the package, in order. -/
def allDies : List Nat := List.range 12

/-- The core whose open tick holds a line tick-dirty and defers an operation of core `g` on it (R122). -/
def State.tdElse (s : State) (g la : Nat) : Option Nat :=
  (s.cores.find? fun x => x.1 != g && (match Tbl.get none x.2.l2 la with | some l => l.td | none => false)).map (·.1)

/-- The effect of CMA operation `op` (0 clean, 1 invalidate, 2 clean and invalidate) at a scope (0 package, 1 die, 2 core)
on a line; `none` while another core's tick defers it. The package scope is one step here (log entry 17). -/
def State.cmDo (s : State) (g la op scope : Nat) : Option State :=
  let d := g / 20
  if scope = 2 then
    some (if op = 0 then s.l2Clean g la
      else match s.l2 g la with
        | none => s
        | some l => if l.m then (if op = 1 then s.dieDrop d la else s.dieEvict d la) else s.l2Inval g la)
  else if (s.tdElse g la).any fun n => scope = 0 || n / 20 = d then none
  else if scope = 1 then some (if op = 0 then s.dieClean d la false else if op = 1 then s.dieDrop d la else s.dieEvict d la)
  else
    some (allDies.foldl (fun s d =>
      if op = 0 then s.dieClean d la false
      else if op = 1 then s.dieDrop d la
      else if (s.dc d la).isNone && (s.holders d la).isEmpty then s else s.dieEvict d la) s)

/-- Carry out an operation now, or leave it for the caches to complete, with its snoop parked where it waits. -/
def State.cmTry (s : State) (g la op scope : Nat) : State :=
  match s.cmDo g la op scope with
  | some s => s
  | none => (s.lineDefer g la).updCore g fun c => { c with cmPend := c.cmPend ++ [(la, op, scope)] }

/-- The operations that still wait, tried again. -/
def State.cmRetry (s : State) (g : Nat) : State :=
  let l := (s.core g).cmPend
  l.foldl (fun s x => s.cmTry g x.1 x.2.1 x.2.2) (s.updCore g fun c => { c with cmPend := [] })

/-- The refusal of an access by the region table, with its record (R74, R77). -/
def State.coreRefused (s : State) (g pa : Nat) (write : Bool) : Option State :=
  match s.rgnCheck (s.core g).pol (s.coreSec g) write pa with
  | some k => some (s.refuse (s.home (pa / 64)) (.core (Fin.ofNat 240 g)) (s.core g).pol (s.coreSec g) pa k)
  | none => none

/-- CMA (R159, R161): translated as a load for a clean and as a store otherwise; refused addresses, control space and
Device memory see no effect. -/
def execCma (g : GCore) (w : BitVec 32) (s : State) : Res :=
  .next (s.added g 0x08 w fun s =>
    let op := wordSub w % 4
    let va := (s.core g).gprOf (wordRs1 w)
    match s.translate g va.toNat (if op = 0 then .load else .store) false with
    | .wait s => s
    | .exc s => s
    | .ok s pa dev =>
      if dev || inControl pa || s.rgnDevice pa then s.retire g
      else match s.coreRefused g pa (op != 0) with
        | some s => s.retire g
        | none =>
          let la := pa / 64
          if s.inGuarded g && s.tdHere g la then
            if op = 0 then s.retire g else s.guardViolation g 3 va pa
          else (s.cmTry g la op (wordSub w / 4)).retire g)

/-- The line a set and way of one of the core's caches holds (R160). -/
def wayLine (c : Tbl (Option CLine)) (sets set way : Nat) : Option Nat :=
  (c.find? fun x => match x.2 with | some l => x.1 % sets == set && l.way == way | none => false).map (·.1)

/-- CMSW (R160, R161): a set, way or cache out of range has no effect. -/
def execCmsw (g : GCore) (w : BitVec 32) (s : State) : Res :=
  .next (s.added g 0x09 w fun s =>
    let op := wordSub w
    let r := ((s.core g).gprOf (wordRs1 w)).toNat
    let way := r % 16
    let set := bitsOf r 13 4
    let ca := bitsOf r 15 14
    let c := s.core g
    if ca = 2 then
      if s.inGuarded g then s.guardViolation g 4 0 0
      else match wayLine c.l2 1024 set way with
        | none => s.retire g
        | some la => (s.cmTry g la op 2).retire g
    else if ca = 3 then s.retire g
    else
      match wayLine (if ca = 0 then c.l1i else c.l1d) (if ca = 0 then 256 else 128) set way with
      | none => s.retire g
      | some la =>
        if op = 0 then s.retire g
        else if s.inGuarded g && s.tdHere g la then s.guardViolation g 3 0 0
        else (s.updCore g fun c =>
          if ca = 0 then { c with l1i := Tbl.erase c.l1i la } else { c with l1d := Tbl.erase c.l1d la }).retire g)

/-- DC_MAINT_DONE (R198): the operation completes in every cache it reaches; a tick-dirty copy defers it, and its snoop parks
there (R122). -/
def execDcMaintDone (d : Die) (s : State) : Res :=
  let i := instD d 0
  .next (
    if !s.flag .DC_MAINT_BUSY i then s
    else match s.maintLine d with
      | none => s.setFlag .DC_MAINT_BUSY i false
      | some la =>
        match (coresOfDie d).find? fun n => s.tdHere n la with
        | some n => s.parkSnoop { hubSnoop la with src := dieCtlStop d } false n la
        | none => (if s.get .DC_MAINT_OP i = 0 then s.dieClean d la true else s.dieEvict d la).setFlag .DC_MAINT_BUSY i false)

/-! ### Way locking (R161 to R163, R187) -/

/-- Give way `w` of a set to a line (R161, R162): `none` while the way holds a tick-dirty line. -/
def State.lockWay (s : State) (g la w : Nat) : Option State :=
  match (s.l2SetOf g (la % 1024)).find? fun x => x.2.way == w with
  | some v => if v.1 = la then some s else if v.2.td then none else some (s.l2Evict g v.1 v.2)
  | none => some s

/-- Place one line in S in way `w`, or move it there: `none` while it has to wait. -/
def State.lockLine (s : State) (g la w : Nat) : Option State :=
  match s.l2 g la with
  | some l => some (s.setL2 g la { l with way := w })
  | none =>
    match s.l2FromDc g la (some w) with
    | some s => some s
    | none => s.bring g la false (some w)

/-- What filling one line of a WLOCK comes to: the line is placed, the fill ends with a status, or it waits. -/
inductive LockRes where
  | placed (s : State) (set : Nat)
  | ends (s : State) (status : Nat)
  | wait (s : State)

/-- Fill the next line of a WLOCK (R162): translated as a load, into way `f.way` of its set. -/
def State.lockNext (s : State) (g : Nat) (f : LockFill) : LockRes :=
  match s.probe g f.va .load with
  | .wait s => .wait s
  | .exc s => .ends s 3
  | .ok s pa dev =>
    if dev || inControl pa || s.rgnDevice pa then .ends s 3
    else match s.coreRefused g pa false with
      | some s => .ends s 3
      | none =>
        let la := pa / 64
        if f.sets.contains (la % 1024) then .ends s 2
        else match s.lockWay g la f.way with
          | none => .ends s 6
          | some t => match t.lockLine g la f.way with
            | none => .wait ((s.lineDefer g la).fillDefer g la)
            | some s => .placed s (la % 1024)

/-- WLOCK's result in RD (R162). -/
def State.lockDone (s : State) (g rd n st : Nat) : State :=
  (s.updCore g fun c => { c.setGpr rd (BitVec.ofNat 64 (n + st * 2 ^ 56)) with fill := none }).retire g

/-- Go on with the fill in progress by one line (R162, R187): EN cleared ends it with status 0x05, its way retired with 0x01; with
every line in place the way is locked. A sweep lets it wait. -/
def State.lockStep (s : State) (g rd : Nat) (f : LockFill) : State :=
  if (s.l2Retired g).testBit f.way then s.lockDone g rd f.placed 1
  else if !s.flag .L2_CTL_EN (instC g) || !s.flag .DC_CTL_EN (instD (g / 20) 0) then s.lockDone g rd f.placed 5
  else if !s.l2On g then s
  else match s.lockNext g f with
    | .wait s => s
    | .ends s st => s.lockDone g rd f.placed st
    | .placed s set =>
      if f.left ≤ 1 then (s.put .L2_STAT_LOCKED (instC g) (withBit (s.l2Locked g) f.way true)).lockDone g rd (f.placed + 1) 0
      else
        let f := { f with va := (f.va + 64) % 2 ^ 64, left := f.left - 1, placed := f.placed + 1, sets := set :: f.sets }
        s.updCore g fun c => { c with fill := some f }

/-- WLOCK (R162, R187). The command starts the fill with its first line, and given again takes it on by one line each time, until
the last line makes it retire; what comes between the lines finds the fill in progress. -/
def execWlock (g : GCore) (w : BitVec 32) (s : State) : Res :=
  .next (s.addedIf (s.canGoOn g && !(s.core g).syncing) g 0x0C none w fun s =>
    let way := wordSub w
    let rd := wordRd w
    let va := ((s.core g).gprOf (wordRs1 w)).toNat
    let len := ((s.core g).gprOf (wordRs2 w)).toNat
    match (s.core g).fill with
    | some f => s.lockStep g rd f
    | none =>
      if 11 < way || (s.l2Locked g).testBit way || (s.l2Retired g).testBit way then s.lockDone g rd 0 1
      else if va % 64 ≠ 0 || len % 64 ≠ 0 || len < 64 || 65536 < len then s.lockDone g rd 0 4
      else
        let f : LockFill := { way := way, va := va, left := len / 64, placed := 0, sets := [] }
        (s.updCore g fun c => { c with fill := some f }).lockStep g rd f)

/-- WUNLOCK (R161, R163): the way becomes ordinary with its lines in place. -/
def execWunlock (g : GCore) (w : BitVec 32) (s : State) : Res :=
  .next (s.added g 0x0D w fun s =>
    if s.inGuarded g then s.guardViolation g 4 0 0
    else (s.put .L2_STAT_LOCKED (instC g) (withBit (s.l2Locked g) (wordSub w) false)).retire g)

/-- WLQUERY (R163): the locked ways, among which a retired one of 0 to 11 reads as locked (R200). -/
def execWlquery (g : GCore) (w : BitVec 32) (s : State) : Res :=
  .next (s.added g 0x0E w fun s =>
    (s.updCore g fun c => c.setGpr (wordRd w) (BitVec.ofNat 64 (s.l2Locked g ||| s.l2Retired g % 4096))).retire g)

/-! ### The placement hint (R166) -/

/-- The core a PLACE names, if it can take a push. -/
def State.placeTarget (s : State) (g l : Nat) : Option Nat :=
  match s.coreOf (s.core g).pol l with
  | some t => if (s.core t).pow = 3 then none else some t
  | none => none

/-- A hint has no effect at its issuer and counts as dropped. -/
def State.placeDrop (s : State) (g : Nat) : State := (s.countCore g 0x061).retire g

/-- PLACE (R166): raises nothing. A dirty unmarked line of this core is first written back and kept in S. -/
def execPlace (g : GCore) (w : BitVec 32) (s : State) : Res :=
  .next (s.added g 0x14 w fun s =>
    let va := ((s.core g).gprOf (wordRs1 w)).toNat
    let r := ((s.core g).gprOf (wordRs2 w)).toNat
    match s.probe g va .load with
    | .wait s => s
    | .exc s => s.placeDrop g
    | .ok s pa dev =>
      match s.placeTarget g (r % 256) with
      | none => s.placeDrop g
      | some t =>
        if dev || inControl pa || s.rgnDevice pa || s.tdHere g (pa / 64) then s.placeDrop g
        else match s.coreRefused g pa false with
          | some s => s.placeDrop g
          | none =>
            let la := pa / 64
            let s := match s.l2 g la with
              | some l => if l.m && l.dirty then (s.writeback g la l 2).setL2 g la { l with m := false, dirty := false } else s
              | none => s
            let m := { s.coreReq g .placeWrite la (s.freeTx g) 0 with
              a := BitVec.ofNat 12 (1 + t % 20 * 8 + r / 256 % 2 * 256), b := BitVec.ofNat 18 (t / 20) }
            let x : IoTx := { msg := m, nacked := false, nacks := 0, first := s.now, sent := s.now }
            (((s.updCore g fun c => { c with plPend := c.plPend ++ [x] }).send m).countCore g 0x060).retire g)

/-! ### Fences (R167, R181) -/

/-- The open merging-buffer entries close. -/
def State.closeMb (s : State) (g : Nat) : State :=
  s.updCore g fun c => { c with mb := c.mb.map fun e => { e with closed := true } }

/-- A fence's word: FUNC 0x18 with its SUB. -/
def State.fenceWord (s : State) (g sub : Nat) (w : BitVec 32) (f : State → State) : State :=
  s.addedIf (s.canRun g) g 0x18 (some sub) w f

/-- FENCE.MB (R167, R181): the open entries close; it retires once the merging buffer has drained into L2. -/
def execFenceMb (g : GCore) (w : BitVec 32) (s : State) : Res :=
  .next (s.fenceWord g 0 w fun s => if (s.core g).mb.isEmpty then s.retire g else s.closeMb g)

/-- FENCE.DEV (R167): a Device access is acknowledged within its own step here, a Device read holds the core back while it
is out, and deferred entries are excluded. -/
def execFenceDev (g : GCore) (w : BitVec 32) (s : State) : Res :=
  .next (s.fenceWord g 1 w fun s => s.retire g)

/-- FENCE.PLC (R167): every older PLACE has been pushed or dropped. -/
def execFencePlc (g : GCore) (w : BitVec 32) (s : State) : Res :=
  .next (s.fenceWord g 2 w fun s => if (s.core g).plPend.isEmpty then s.retire g else s)

/-- FENCE.CM (R167): every older CMA and CMSW has completed in every cache it reaches. -/
def execFenceCm (g : GCore) (w : BitVec 32) (s : State) : Res :=
  .next (s.fenceWord g 3 w fun s =>
    let s := s.cmRetry g
    if (s.core g).cmPend.isEmpty then s.retire g else s)

/-- FENCE.I (R167): with every older store in L2, the core's L1I is invalidated. -/
def execFenceI (g : GCore) (w : BitVec 32) (s : State) : Res :=
  .next (s.fenceWord g 4 w fun s =>
    if (s.core g).mb.isEmpty then (s.updCore g fun c => { c with l1i := [] }).retire g else s.closeMb g)

/-! ### The merging buffer (R180 to R183, R115) -/

/-- 64 core cycles in ns, rounded up, at the core's clock. -/
def State.mbWait (s : State) (g : Nat) : Nat :=
  let f := max (((s.core g).sysOf 0xC09).toNat % 65536) 1
  (64000 + f - 1) / f

/-- MB_ENTRY_TIMEOUT (R181): an entry that has taken no store for 64 cycles closes. -/
def execMbEntryTimeout (g : GCore) (la : LineAddr) (s : State) : Res :=
  let w := s.mbWait g
  .next (s.updCore g fun c =>
    { c with mb := c.mb.map fun e => if e.la = la.toNat && decide (e.at_ + w ≤ s.now) then { e with closed := true } else e })

/-- The oldest entry leaves the merging buffer. -/
def State.mbPop (s : State) (g : Nat) : State := s.updCore g fun c => { c with mb := c.mb.drop 1 }

/-- An entry writes into its line (R115, R118). Beyond the tick-dirty limit a guard overflow starts; one met while TICKDONE
waits for the buffer puts TICKDONE, which has not retired, back to run after the split commit. A split commit that waits for the
buffer goes on without the rest of it, and nothing drains while phase A and B run. -/
def State.drainInto (s : State) (g : Nat) (e : MbEnt) : State :=
  let st := (s.core g).t.step
  if s.inGuarded g && 2 ≤ st then s
  else if s.inGuarded g && !s.tdRoom g e.la then
    if (s.core g).t.splitting then s.commitAdvance g true
    else (if st = 1 then s.updCore g fun c => { c with pc := c.pc - 4 } else s).guardOverflow g false (e.la % 1024)
  else ((s.l2Write g e.la e.data e.mask).mbPop g).commitAdvance g

/-- The oldest merging-buffer entry drains (R181 to R183, R115, R118, R195): it writes into its L2 line if the line is held in M,
else the L2 asks for ownership; with allocation off it goes home as a partial Write. -/
def State.mbDrain (s : State) (g : Nat) : State :=
  let ask := fun (e : MbEnt) =>
    if (s.core g).miss.any fun m => m.la == e.la && m.kind == 1 then s
    else s.startMiss g { la := e.la, kind := 1, rd := 0, addr := e.la * 64, size := 0, op := 0, val := 0, txid := 0, sent := 0,
                         stage := 0, nacks := 0, first := 0, seen := [] }
  match (s.core g).mb with
  | [] => s
  | e :: _ =>
    match s.l2 g e.la with
    | some l => if l.m then s.drainInto g e else ask e
    | none =>
      if s.l2On g then ask e
      else if e.sent || s.now < e.at_ then s
      else
        let m := s.coreReq g .write e.la (e.la % 4096) 0
        let s := s.updCore g fun c => { c with mb := c.mb.set 0 { e with sent := true, closed := true } }
        s.send { m with a := BitVec.ofNat 12 (if e.mask = BitVec.allOnes 64 then 4 else 0), mask := e.mask, data := e.data }

end Sys2Proof.Machine
end

