-- ==== Sys2Proof/Machine/Predictor.lean ====
section
/-! DEFINITION. Branch prediction and speculation (spec/06, R168 to R175): the predictor's tables and its keyed lookups, prediction,
resolution and training of branches, and what wrong-path accesses leave behind. -/
namespace Sys2Proof.Machine

/-! ### The return stack (R168, R169) -/

/-- Push a return address; beyond 32 entries the oldest is overwritten. -/
def Ras.push (r : Ras) (v : Word) : Ras :=
  let t := (r.top + 1) % 32
  { buf := Tbl.set 0 r.buf t v, top := t, n := min (r.n + 1) 32 }
def Ras.pop (r : Ras) : Ras := if r.n = 0 then r else { r with top := (r.top + 31) % 32, n := r.n - 1 }
/-- The address a return is predicted to, unless the stack is empty. -/
def Ras.topEnt (r : Ras) : Option Word := if r.n = 0 then none else some (Tbl.get 0 r.buf r.top)

/-! ### Histories -/

/-- Global history: the outcomes of the last 400 branches; path history: the last 16 taken targets (R168). -/
def histPush (h : Nat) (taken : Bool) : Nat := (h * 2 + b2n taken) % 2 ^ 400
def pathPush (p : Nat) (target : Word) : Nat := (p * 2 ^ 64 + target.toNat) % 2 ^ 1024

/-- What one outcome does to the return stack. -/
def rasStep (r : Ras) (pc : Word) (kind : BranchKind) : Ras :=
  match kind with
  | .call => r.push (pc + 4)
  | .ret => r.pop
  | _ => r

/-! ### Tables (R168, R171) -/

/-- The tables by number: 0 the zero-bubble target buffer, 1 the branch target buffer, 2 the base direction table, 3 to 8 the tagged
direction tables, 9 the indirect target table; with their entries. The branch target buffer has 8 ways. -/
def predSize (t : Nat) : Nat := [64, 1024, 16384, 2048, 2048, 2048, 2048, 2048, 2048, 8192].getD t 1
/-- The history a tagged table sees. -/
def predHist (t : Nat) : Nat := [8, 16, 32, 64, 160, 400].getD (t - 3) 0

/-- The four inputs of the keyed functions: CTXKEY, the polder key, the world bit, the level (R171). -/
def Core.predKey (c : Core) : List Nat := [(c.sysOf 0xC01).toNat, c.ckey.toNat, b2n c.sec, c.level]

/-- What a table is indexed by (R168): the PC, with the global history for a tagged table, with the path for the indirect one. -/
def Core.predIn (c : Core) (t : Nat) (pc : Word) : List Nat :=
  c.predKey ++ [pc.toNat] ++ (if 3 ≤ t && t ≤ 8 then [c.hist % 2 ^ predHist t] else if t = 9 then [c.path] else [])
def Core.predIdx (c : Core) (t : Nat) (pc : Word) : Nat := Config.predHash t (c.predIn t pc) % predSize t
def Core.predTag (c : Core) (t : Nat) (pc : Word) : Nat := Config.predHash t (c.predIn t pc) / predSize t % 4096
/-- The key of way `w` of an index in the table of all entries. -/
def predKeyOf (t idx w : Nat) : Nat := t * 2 ^ 20 + idx * 8 + w

/-- The entry a lookup finds: any way with the tag of the lookup. -/
def Core.predFind (c : Core) (t : Nat) (pc : Word) : Option (Nat × PredEnt) :=
  (List.range (if t = 1 then 8 else 1)).findSome? fun w =>
    match Tbl.get none c.predTab (predKeyOf t (c.predIdx t pc) w) with
    | some e => if t = 2 || e.tag == c.predTag t pc then some (w, e) else none
    | none => none

/-- A stored target as a lookup reads it, and as training stores it (R171). -/
def Core.predXor (c : Core) (t : Nat) (pc v : Word) : Word := v ^^^ Config.predMask t (c.predIn t pc)

/-- The longest tagged table with an entry, the base table otherwise: its number and counter; a counter that nothing has trained
reads as 0 (PRESUMED, log entry 162). -/
def Core.provider (c : Core) (pc : Word) : Nat × Nat :=
  match [8, 7, 6, 5, 4, 3].findSome? fun t => (c.predFind t pc).map fun x => (t, x.2.ctr) with
  | some x => x
  | none => (2, match c.predFind 2 pc with | some x => x.2.ctr | none => 0)

/-- The target the buffers give: the zero-bubble one first, then the branch target buffer. -/
def Core.bufTarget (c : Core) (pc : Word) : Option Word :=
  match c.predFind 0 pc with
  | some x => some (c.predXor 0 pc x.2.target)
  | none => (c.predFind 1 pc).map fun x => c.predXor 1 pc x.2.target
def Core.indTarget (c : Core) (pc : Word) : Option Word := (c.predFind 9 pc).map fun x => c.predXor 9 pc x.2.target

/-- The predicted outcome of a branch (R168, R169): direction, and the address fetched next. A branch whose target no structure
gives is followed by the next instruction (PRESUMED, log entry 162). -/
def Core.predict (c : Core) (pc : Word) (kind : BranchKind) : Bool × Word :=
  let t : Option Word :=
    match kind with
    | .cond => if 2 ≤ (c.provider pc).2 then c.bufTarget pc else none
    | .jump | .call => c.bufTarget pc
    | .indirect => c.indTarget pc
    | .ret => match c.ras.topEnt with | some v => some v | none => c.indTarget pc
  match t with
  | some v => (true, v)
  | none => (false, pc + 4)

/-- The histories and the return stack follow an outcome. -/
def Core.follow (c : Core) (pc : Word) (kind : BranchKind) (taken : Bool) (target : Word) : Core :=
  { c with hist := histPush c.hist taken, path := if taken then pathPush c.path target else c.path, ras := rasStep c.ras pc kind }

/-- Predict a branch that decode has reached: it takes a checkpoint and flies on (R169). With 128 in flight decode stalls. -/
def State.predictOne (s : State) (g : Nat) (b : Word × BranchKind) : State :=
  let c := s.core g
  if 128 ≤ c.flight.length then s
  else
    let ck : Checkpoint := { hist := c.hist, path := c.path, rasTop := c.ras.top, rasN := c.ras.n, rasEnt := Tbl.get 0 c.ras.buf c.ras.top }
    let p := c.predict b.1 b.2
    (s.updCore g fun c =>
      { c.follow b.1 b.2 p.1 p.2 with
        flight := c.flight ++ [{ pc := b.1, kind := b.2, taken := p.1, target := p.2, ck := ck }] }).countCore g 0x012

/-! ### Training (R170) -/

/-- A two-bit counter moves towards an outcome. -/
def ctrStep (n : Nat) (taken : Bool) : Nat := if taken then min (n + 1) 3 else n - 1

/-- Write an entry of a table at way `w`. -/
def Core.predPut (c : Core) (t : Nat) (pc : Word) (w : Nat) (target : Word) (ctr : Nat) : Core :=
  let e : PredEnt := { tag := c.predTag t pc, target := c.predXor t pc target, ctr := ctr }
  { c with predTab := Tbl.set none c.predTab (predKeyOf t (c.predIdx t pc) w) (some e) }

/-- The way a target takes: that of its own entry, an empty one, else one that no rule chooses (free, log entry 162). -/
def Core.predWay (c : Core) (t : Nat) (pc : Word) (r : Nat) : Nat :=
  match c.predFind t pc with
  | some x => x.1
  | none =>
    if t ≠ 1 then 0
    else ((List.range 8).find? fun w => (Tbl.get none c.predTab (predKeyOf 1 (c.predIdx 1 pc) w)).isNone).getD (r % 8)

/-- Train the tables with a branch that retires, under the histories it was predicted with: the direction of a conditional branch in
the table that gave it, and after a mispredict in the next longer one as well; its target where it was taken. -/
def Core.train (c : Core) (pc : Word) (kind : BranchKind) (taken : Bool) (target : Word) (miss : Bool) (r : Nat) : Core :=
  let c1 := if kind != .cond then c
    else
      let p := c.provider pc
      let c1 := c.predPut p.1 pc 0 0 (ctrStep p.2 taken)
      if miss && p.1 < 8 then c1.predPut (p.1 + 1) pc 0 0 (if taken then 2 else 1) else c1
  if !taken then c1
  else match kind with
    | .cond | .jump | .call => (c1.predPut 0 pc 0 target 0).predPut 1 pc (c1.predWay 1 pc r) target 0
    | .indirect => c1.predPut 9 pc 0 target 0
    | .ret => if c.ras.n = 0 then c1.predPut 9 pc 0 target 0 else c1

/-! ### Wrong-path accesses (R75, R173, R174) -/

/-- A speculative fetch or load: from Normal memory that the polder may read it fills the caches, and its walk the TLBs; it does
nothing else. -/
def State.specAccess (s : State) (g va : Nat) (fetch : Bool) : State :=
  match (s.countCore g 0x003).specXlate g va (if fetch then .fetch else .load) with
  | (s, none) => s
  | (s, some pa) =>
    let la := pa / 64
    let have1 := (Tbl.get none (if fetch then (s.core g).l1i else (s.core g).l1d) la).isSome
    if inControl pa || s.rgnDevice pa || have1 then s
    else match s.coreRefused g pa false with
      | some s => s
      | none =>
        let s := s.countCore g (if fetch then 0x020 else 0x021)
        if !s.l2On g then s
        else
          let s := if (s.l2 g la).isSome then s else s.countCore g 0x024
          match s.bring g la false with
          | some s => if s.linePoison g la then s else if fetch then s.l1iFill g la (s.coreVal g la) else s.l1Fill g la (s.coreVal g la)
          | none => s

/-! ### Resolution (R169, R170, R172) -/

/-- The oldest branch in flight resolves with its outcome. A mispredict drops what is younger, restores the histories and the return
stack from the checkpoint and applies the outcome. The branch retires, which trains the tables. -/
def State.resolve (s : State) (g : Nat) (b : Flight) (rest : List Flight) (taken : Bool) (target : Word)
    (wrong : List (Bool × Word)) : State :=
  let next := if taken then target else b.pc + 4
  let miss := b.taken != taken || taken && b.target != target
  let s := if miss then wrong.foldl (fun s x => s.specAccess g x.2.toNat x.1) s else s
  let r := s.fresh.toNat
  let s := s.drawn.updCore g fun c =>
    let old := { c with hist := c.retHist, path := c.retPath, ras := c.retRas }
    let back := { c with hist := b.ck.hist, path := b.ck.path,
                         ras := { buf := Tbl.set 0 c.ras.buf b.ck.rasTop b.ck.rasEnt, top := b.ck.rasTop, n := b.ck.rasN } }
    let now := if miss then { back.follow b.pc b.kind taken target with flight := [] } else { c with flight := rest }
    let done := old.follow b.pc b.kind taken target
    { now with retHist := done.hist, retPath := done.path, retRas := done.ras,
               predTab := (old.train b.pc b.kind taken target miss r).predTab }
  let s := s.countCore g 0x010
  let s := if miss then s.countCore g 0x011 else s
  let s := if miss && (b.kind == .indirect || b.kind == .ret) then s.countCore g 0x013 else s
  s.retireTo g next

/-- BRANCH_MISPREDICT (R169 to R175): decode reaches the branches `ahead`, which are predicted; then the oldest one in flight, at
the PC, resolves with its outcome, after the accesses `wrong` of the path it was predicted on where that was wrong. -/
def execBranchMispredict (g : GCore) (ahead : List (Word × BranchKind)) (taken : Bool) (target : Word) (wrong : List (Bool × Word))
    (s : State) : Res :=
  .next (
    if !s.canRun g then s
    else
      let stale := match (s.core g).flight with | b :: _ => b.pc != (s.core g).pc | [] => false
      let s := if stale then s.updCore g Core.squash else s
      let s := ahead.foldl (fun s b => s.predictOne g b) s
      match (s.core g).flight with
      | b :: rest => if b.pc = (s.core g).pc then s.resolve g b rest taken target wrong else s
      | [] => s)

end Sys2Proof.Machine
end

