-- ==== Sys2Proof/Machine/Memory.lean ====
section
/-! DEFINITION. The memory channels (spec/10): queues, command choice, urgency, refresh, retraining, mirroring, channel
loss and resynchronisation, errors, scrub and row repair. A write reaches the stored copy when its controller accepts
it, which is what every later read finds (R277); the write queue then tells which line still waits for its DRAM write. -/
namespace Sys2Proof.Machine

/-! ### State of a channel -/

def McSub.reset : McSub :=
  { reads := [], writes := [], rows := [], wmode := false, last := 0, debt := [], wanted := none, forced := false,
    pausing := false }
def Mc.reset : Mc :=
  { s0 := McSub.reset, s1 := McSub.reset, waitMir := [], redirect := [], rowCe := [], sppr := [], resync := none,
    temp := 0, scrubAt := 0 }
def State.mc (s : State) (ch : Nat) : Mc := Tbl.get Mc.reset s.mcs ch
def State.updMc (s : State) (ch : Nat) (f : Mc → Mc) : State := { s with mcs := Tbl.set Mc.reset s.mcs ch (f (s.mc ch)) }
def Mc.sub (m : Mc) (sc : Nat) : McSub := if sc = 0 then m.s0 else m.s1
def Mc.setSub (m : Mc) (sc : Nat) (x : McSub) : Mc := if sc = 0 then { m with s0 := x } else { m with s1 := x }
def State.sub (s : State) (ch sc : Nat) : McSub := (s.mc ch).sub sc
def State.updSub (s : State) (ch sc : Nat) (f : McSub → McSub) : State := s.updMc ch fun m => m.setSub sc (f (m.sub sc))

/-- MC_STAT.STATE. -/
def State.mcState (s : State) (ch : Nat) : Nat := s.get .MC_STAT_STATE (instCh ch)

/-- The row of a line (R273). -/
def State.rowId (s : State) (la : Nat) : RowId :=
  { sc := Fin.ofNat 2 (s.dSub la),
    bank := { rank := Fin.ofNat 4 (s.dRank la), group := Fin.ofNat 8 (s.dGroup la), bank := Fin.ofNat 4 (s.dBank la) },
    row := BitVec.ofNat 17 (s.dRow la) }
def bankNo (b : BankId) : Nat := b.rank.val * 32 + b.group.val * 4 + b.bank.val

/-! ### Polder stop (R396) -/

/-- A polder holds a Normal region. -/
def State.holdsNormal (s : State) (p : Nat) : Bool :=
  (List.range 256).any fun n => s.flag .RGN_LO_VALID n && !s.flag .RGN_LO_TYPE n && (s.get .RGN_RD_MASK n).testBit p

/-- POLDER_STOP (R396): no further ticks, TICK_FAULT, status 3 and code 0xB8. `why` is 1 for a channel, 2 for a half. -/
def State.stopPolder (s : State) (p why : Nat) : State :=
  match s.polder p with
  | none => s
  | some v =>
    if v.stopped ≠ 0 then s
    else (((s.updPolder p fun v => { v with stopped := why }).put .TK_NOW_STATE p 0).tickFault p).logPol s.activeHalf 44 0xB8 p [why]

/-- Stop every polder whose memory cannot be served. -/
def State.stopPolders (s : State) (why : Nat) : State :=
  (List.range 32).foldl (fun s p => if s.holdsNormal p then s.stopPolder p why else s) s

/-! ### Answers of a controller -/

/-- A Completion from a controller to a bank (R240): KIND, tracker. -/
def mcCompletion (src dst : BitVec 12) (kind la b : Nat) (m : Msg) : Msg :=
  { plainMsg .completion src dst la kind b with txid := m.txid, urg := m.urg, pol := m.pol, sec := m.sec }

/-- The stop of a push target (R249): a core's L2, or the die cache's slice. -/
def pushStop (m : Msg) : BitVec 12 :=
  let die := m.b.toNat % 16
  let core := m.a.toNat / 8 % 32
  if m.a.getLsbD 8 then stopId die (dcSlice m.la.toNat) else stopId die core

/-- Data of a push (R249). -/
def pushMsg (src : BitVec 12) (m : Msg) (data : Line) (poison : Bool) : Msg :=
  { plainMsg .data src (pushStop m) m.la.toNat (2 + (if m.a.getLsbD 8 then 4 else 0) + m.a.toNat / 8 % 32 * 8 + b2n poison * 512) 0 with
    data := data, urg := m.urg, pol := m.pol, sec := m.sec }

/-- The home bank of a line, as the target of a controller's Completions. -/
def State.bankOf (s : State) (la : Nat) : BitVec 12 := bankStop (s.home la) (dirBank la)

/-- Data to the requester, or the push of a hint, and RdDone to the bank's tracker (R248, R250). -/
def State.mcAnswer (s : State) (h ch : Nat) (m : Msg) (data : Line) (poison : Bool) : State :=
  let me := mcStop h ch
  let la := m.la.toNat
  let s := if poison then s.bump .MC_ERR_POISON_READ (instH h ch) 1 else s
  let d : Msg :=
    if m.ty = .placeWrite then pushMsg me m data poison
    else { plainMsg .data me m.src la ((if m.a.getLsbD 6 then 1 else 0) + b2n poison * 512) 0 with
             txid := m.txid, urg := m.urg, pol := m.pol, sec := m.sec, data := data }
  let tr := if m.ty = .placeWrite then m.b.toNat / 32 % 512 else m.b.toNat % 512
  (s.send d).send (mcCompletion me (s.bankOf la) 1 la tr m)

/-- Serve a read from the copy that half `h` stores. -/
def State.mcServe (s : State) (h ch : Nat) (m : Msg) : State :=
  let la := m.la.toNat
  (s.countHub h 0x410 ch (some m.pol)).mcAnswer h ch m (s.lineHalf h la) ((s.poison.get h).contains la)

/-- Pass a read to the controller of the same channel on the other half (R287). -/
def State.mcRedirect (s : State) (h ch : Nat) (m : Msg) : State :=
  (s.countHub h 0x414 ch (some m.pol)).send { m with dst := mcStop (1 - h) ch }

/-! ### Acceptance (R274, R277, R286, R289, R292) -/

/-- A forwarded request finds one of its bank's 16 credits and an entry of the sub-channel's 128 (R274); until then the bank keeps
it (R241). -/
def State.mcCredit (s : State) (m : Msg) : Bool :=
  let g := (stopUnit m.dst - 12) * 8 + (stopNo m.dst - 16)
  let la := m.la.toNat
  let used := fun (x : McSub) (p : Nat → Bool) =>
    (x.reads.filter fun r => !r.redir && p r.msg.la.toNat).length + (x.writes.filter fun w => w.fwd && p w.la).length
  let mine := fun a : Nat => dirBank a == dirBank la
  decide (used (s.sub g (s.dSub la)) (fun _ => true) < 128) && decide (used (s.sub g 0) mine + used (s.sub g 1) mine < 16)

/-- A Writeback finds an entry of the sub-channel's reserve of 64, or replaces the line's entry (R274, R286). -/
def State.wbRoom (s : State) (m : Msg) : Bool :=
  let la := m.la.toNat
  let x := s.sub ((stopUnit m.dst - 12) * 8 + (stopNo m.dst - 16)) (s.dSub la)
  decide ((x.writes.filter fun w => !w.fwd).length < 64) || x.writes.any fun w => w.la == la

/-- A redirected read finds one of the 32 entries of its reserve (R274). -/
def State.redirRoom (s : State) (m : Msg) : Bool :=
  let g := (stopUnit m.dst - 12) * 8 + (stopNo m.dst - 16)
  decide (((((s.sub g 0).reads ++ (s.sub g 1).reads).filter fun r => r.redir).length) < 32)

/-- The other half's controller of the same channel can serve reads. -/
def State.peerServes (s : State) (h ch : Nat) : Bool := !s.lost (1 - h) && s.mcState ((1 - h) * 8 + ch) == 2

/-- A read of this line goes to the mirror: the channel is lost or resynchronising, its row is in the redirect table, or
its sub-channel is in a forced pause (R285, R287, R290, R297). -/
def State.mcRedirects (s : State) (h ch la : Nat) : Bool :=
  let g := h * 8 + ch
  s.guardedCfg && s.peerServes h ch &&
    (s.mcState g == 3 || s.mcState g == 4 || (s.mc g).redirect.contains (s.rowId la) ||
      (s.sub g (s.dSub la)).pausing && (s.sub g (s.dSub la)).forced && s.flag .MC_CTL_PAUSE_MIRROR (instCh g))

/-- A request at or above MEM_SIZE (R271). -/
def State.beyond (s : State) (la : Nat) : Bool := decide (s.memSize ≤ la * 64)
def State.beyondLog (s : State) (h ch : Nat) (m : Msg) : State :=
  s.logSec h (16 + ch) 0x7A [m.src.toNat, m.la.toNat * 64]

/-- A read that this controller answers: from its write queue, or queued for DRAM (R277); poison where neither copy can be read
(R292; log entry 168). -/
def State.mcTakeRead (s : State) (h ch : Nat) (m : Msg) (redir : Bool) : State :=
  let la := m.la.toNat
  let g := h * 8 + ch
  let st := s.mcState g
  if st = 3 || st = 4 || st = 5 then s.mcAnswer h ch m 0 true
  else if (s.sub g (s.dSub la)).writes.any (fun w => w.la == la) then s.mcServe h ch m
  else
    let r : McRd := { msg := m, bank := s.dBankNo la, row := s.dRow la, at_ := s.now, urg := m.urg.toNat, redir := redir }
    s.updSub g (s.dSub la) fun x => { x with reads := x.reads ++ [r] }

/-- A controller receives a forwarded read. -/
def State.mcRead (s : State) (h ch : Nat) (m : Msg) : State :=
  let la := m.la.toNat
  if s.beyond la then (s.beyondLog h ch m).mcAnswer h ch m 0 false
  else if s.mcRedirects h ch la then s.mcRedirect h ch m
  else s.mcTakeRead h ch m false

/-- The port of a write (R278): a mirror copy's is that of the write it copies. -/
def State.wrPort (s : State) (ch : Nat) (m : Msg) : Nat :=
  let n := stopNo m.src
  if 12 ≤ stopUnit m.src && 16 ≤ n && n < 24 then
    match (s.mc ((stopUnit m.src - 12) * 8 + ch)).waitMir.find? fun x => x.la == m.la.toNat with
    | some x => x.port
    | none => 38
  else msgPort m.src

/-- A line enters the write queue; an entry of the same line that has not issued is replaced. -/
def State.mcQueue (s : State) (h ch la : Nat) (m : Msg) : State :=
  let w : McWr := { la := la, pol := m.pol, txid := m.txid.toNat, port := s.wrPort ch m, urgIn := m.urg.toNat, bank := s.dBankNo la,
                    row := s.dRow la, at_ := s.now, urg := m.urg.toNat, fwd := m.ty != .writeback }
  s.updSub (h * 8 + ch) (s.dSub la) fun x => { x with writes := (x.writes.filter fun y => y.la != la) ++ [w] }

/-- Store a full line in the copy of half `h`. -/
def State.mcStore (s : State) (h ch la : Nat) (data : Line) (poison : Bool) (m : Msg) : State :=
  ((s.writeLineHalf h la data).setPoison h la poison).mcQueue h ch la m

/-- The peer controller takes the mirror copy: both halves serve and its channel is not lost. -/
def State.peerOk (s : State) (h ch : Nat) : Bool :=
  s.guardedCfg && !s.lost (1 - h) && (let x := s.mcState ((1 - h) * 8 + ch); x == 2 || x == 4)

/-- An accepted write: stored here unless the channel is lost, copied to the peer, and answered once the copy is in
(R286, R289, R291, R292). `ans` are the messages acceptance sends. -/
def State.mcAccept (s : State) (h ch la : Nat) (data : Line) (poison : Bool) (m : Msg) (ans : List Msg) : State :=
  let g := h * 8 + ch
  let own := s.mcState g != 3 && s.mcState g != 5
  let s := if own then s.mcStore h ch la data poison m else s
  if s.peerOk h ch then
    let c := { plainMsg .writeback (mcStop h ch) (mcStop (1 - h) ch) la (4 + b2n poison * 8) 0 with
                 data := data, urg := m.urg, pol := m.pol, sec := m.sec }
    (s.updMc g fun x => { x with waitMir := x.waitMir ++ [{ la := la, port := msgPort m.src, ans := ans }] }).send c
  else ans.foldl (fun s a => s.send a) s

/-- The half whose copy a partial write merges with: the peer's while this channel's own is stale. -/
def State.mergeHalf (s : State) (h ch : Nat) : Nat :=
  if (s.mcState (h * 8 + ch) == 3 || s.mcState (h * 8 + ch) == 4) && s.peerOk h ch then 1 - h else h

/-- A controller receives a forwarded Write or PlaceWrite (R249, R277). -/
def State.mcWrite (s : State) (h ch : Nat) (m : Msg) : State :=
  let la := m.la.toNat
  let me := mcStop h ch
  let done := mcCompletion me (s.bankOf la) 3 la (m.b.toNat / 32 % 512) m
  if s.beyond la then (s.beyondLog h ch m).send done
  else if s.mcState (h * 8 + ch) = 5 then s.send done
  else
    let b := s.mergeHalf h ch
    let full := m.a.getLsbD 2
    let data := if full then m.data else lineMerge (s.lineHalf b la) m.data m.mask
    let poison := m.a.getLsbD 3 && m.ty == .write || !full && (s.poison.get b).contains la
    let push := m.ty = .placeWrite && !m.b.getLsbD 4
    s.mcAccept h ch la data poison m (if push then [pushMsg me m data poison, done] else [done])

/-- A controller receives a Writeback (R240, R286, R288): WbAccepted names the writer in SRC and RET in B (log entry 25);
with MIR it stores its copy and answers MirDone. -/
def State.mcWriteback (s : State) (h ch : Nat) (m : Msg) : State :=
  let la := m.la.toNat
  let poison := m.a.getLsbD 3
  let live := s.mcState (h * 8 + ch) != 3 && s.mcState (h * 8 + ch) != 5
  if m.a.getLsbD 2 then
    let s := if live && !s.beyond la then s.mcStore h ch la m.data poison m else s
    s.send (mcCompletion (mcStop h ch) m.src 6 la 0 m)
  else
    let a := mcCompletion m.src (s.bankOf la) 2 la (m.a.toNat % 4) m
    if s.beyond la then (s.beyondLog h ch m).send a
    else if s.mcState (h * 8 + ch) = 5 then s.send a
    else s.mcAccept h ch la m.data poison m [a]

/-- MirDone at a home controller: acceptance is complete (R286). -/
def State.mcMirDone (s : State) (h ch : Nat) (m : Msg) : State :=
  let g := h * 8 + ch
  match (s.mc g).waitMir.find? fun x => x.la == m.la.toNat with
  | some x => x.ans.foldl (fun s a => s.send a) (s.updMc g fun y => { y with waitMir := y.waitMir.erase x })
  | none => s

/-! ### Command choice (R275 to R277, R281, R284) -/

/-- What a sub-channel issues in a slot, as (kind, argument) on its command pins: 1 activate, 2 precharge, 3 read, 4 write,
5 REFsb, 6 and 7 into and out of self-refresh, 8 hPPR of a row. -/
def State.dramCmd (s : State) (ch sc kind arg : Nat) : State := s.emit (.dram ch sc kind arg)

/-- Pauses and pull-ins a slack window allows until its close PTIME. -/
def State.slackFor (s : State) (n : Nat) : Bool :=
  s.te.slackOpen && (match s.te.slackClose with | some t => decide (s.now + n ≤ t) | none => false)

/-- The bank-set number of a bank: rank × 4 + bank. -/
def setOfBank (b : Nat) : Nat := b / 32 * 4 + b % 4

/-- No request of the sub-channel is queued for a bank set. -/
def McSub.setEmpty (x : McSub) (k : Nat) : Bool :=
  !(x.reads.any fun r => setOfBank r.bank == k) && !(x.writes.any fun w => setOfBank w.bank == k)

/-- REFsb to a bank set: its rows close and its debt falls by one (R281). -/
def State.refsb (s : State) (ch sc k : Nat) : State :=
  ((s.updSub ch sc fun x =>
    { x with debt := Tbl.set 0 x.debt k (Tbl.get 0 x.debt k - 1), rows := x.rows.filter fun r => setOfBank r.1 != k }).countHub
    (ch / 8) 0x415 (ch % 8) none).dramCmd ch sc 5 k

/-- Bank sets of the ranks in use. -/
def State.rankSets (s : State) : List Nat := List.range (2 ^ s.rb * 4)

/-- A refresh that may issue now: forced, else idle with D ≥ 1, else a pull-in during a slack window. -/
def State.dueRefresh (s : State) (ch sc : Nat) (forced : Bool) : Option Nat :=
  let x := s.sub ch sc
  let d := fun k => Tbl.get 0 x.debt k
  if forced then s.rankSets.find? fun k => decide (4 ≤ d k)
  else match s.rankSets.find? fun k => decide (1 ≤ d k) && x.setEmpty k with
    | some k => some k
    | none => if s.slackFor 0 then s.rankSets.find? fun k => decide (-4 < d k) && x.setEmpty k else none

/-- WQ_LO: a value not below WQ_HI acts as WQ_HI − 1. -/
def State.wqLo (s : State) (ch : Nat) : Nat := min (s.get .MC_CTL_WQ_LO (instCh ch)) (s.get .MC_CTL_WQ_HI (instCh ch) - 1)

/-- The mode of the next command (R276). A full write queue does not undo the return that a read of urgency 2 made (log entry
168). -/
def State.nextMode (s : State) (ch sc : Nat) : Bool :=
  let x := s.sub ch sc
  let w := x.writes.length
  let r3 := x.reads.any fun r => r.urg == 3
  let r2 := x.reads.any fun r => decide (2 ≤ r.urg)
  if x.wmode then !(decide (w ≤ s.wqLo ch) && !x.reads.isEmpty || w == 0 || r2)
  else decide (s.get .MC_CTL_WQ_HI (instCh ch) ≤ w) && !r2 || x.reads.isEmpty && decide (0 < w) ||
    x.writes.any (fun y => y.urg == 3) && !r3

/-- A request as the choice sees it: its place in arrival order, bank, row, urgency. -/
structure Cand where
  ix : Nat
  bank : Nat
  row : Nat
  urg : Nat
  pol : Nat
  deriving DecidableEq, Repr

/-- Request entries of a DRAM bank that came before time `at_`. -/
def McSub.ahead (x : McSub) (b at_ : Nat) : Nat :=
  (x.reads.filter fun r => r.bank == b && !r.redir && decide (r.at_ < at_)).length +
    (x.writes.filter fun w => w.bank == b && w.fwd && decide (w.at_ < at_)).length

/-- The requests the choice sees: of each bank the first 16 request entries (R274), and every entry of the reserves. -/
def McSub.cands (x : McSub) (w : Bool) : List Cand :=
  if w then (x.writes.zipIdx.filter fun y => !y.1.fwd || decide (x.ahead y.1.bank y.1.at_ < 16)).map fun y =>
    { ix := y.2, bank := y.1.bank, row := y.1.row, urg := y.1.urg, pol := y.1.pol }
  else (x.reads.zipIdx.filter fun y => y.1.redir || decide (x.ahead y.1.bank y.1.at_ < 16)).map fun y =>
    { ix := y.2, bank := y.1.bank, row := y.1.row, urg := y.1.urg, pol := y.1.msg.pol }

/-- Soft repair holds a bank (R297). -/
def State.bankHeldFor (s : State) (ch sc b : Nat) : Bool :=
  (s.mc ch).sppr.any fun x => x.2.2 && x.1.sc.val == sc && bankNo x.1.bank == b

/-- The request served next (R275, 2 and 3): the first bank after the last in rotating order among those with the highest
urgency present, then the oldest row hit or the oldest of the bank's highest urgency. -/
def pickCand (x : McSub) (l : List Cand) : Option Cand :=
  let top := (l.map (·.urg)).foldl max 0
  let banks := (l.filter fun c => c.urg == top).map (·.bank)
  match (List.range 128).find? fun i => banks.contains ((x.last + 1 + i) % 128) with
  | none => none
  | some i =>
    let b := (x.last + 1 + i) % 128
    let mine := l.filter fun c => c.bank == b
    let hi := (mine.map (·.urg)).foldl max 0
    let hit := match Tbl.get none x.rows b with
      | some (row, streak, _) => if streak < 8 then (mine.find? fun (c : Cand) => c.row == row) else none
      | none => none
    match hit with
    | some c => if c.urg = hi then some c else mine.find? fun c => c.urg == hi
    | none => mine.find? fun c => c.urg == hi

/-- sPPR is wanted for a row (R297). -/
def State.wantRepair (s : State) (ch : Nat) (r : RowId) : State :=
  s.updMc ch fun x => if x.sppr.any fun y => y.1 == r then x else { x with sppr := x.sppr ++ [(r, s.now, false)] }

/-- One corrected error of a row (R293, R297). -/
def State.rowError (s : State) (ch : Nat) (r : RowId) : State :=
  let s := (s.bump .MC_ERR_CE (instCh ch) 1).updMc ch fun x => { x with rowCe := x.rowCe ++ [(r, s.now)] }
  let i := instCh ch
  let win := max (s.get .MC_ECC_WINDOW_S i) 1 * 1000000000
  let s := s.updMc ch fun x => { x with rowCe := x.rowCe.filter fun y => decide (s.now < y.2 + win) }
  let n := ((s.mc ch).rowCe.filter fun y => y.1 == r).length
  let t := s.get .MC_ECC_ROW_THRESH i
  if t ≠ 0 && t ≤ n then (s.wantRepair ch r).updMc ch fun x => { x with rowCe := x.rowCe.filter fun y => y.1 != r } else s

/-- Serve a chosen request, one DRAM command of it in this slot. -/
def State.mcIssue (s : State) (ch sc : Nat) (w : Bool) (c : Cand) (corrected : Bool) : State :=
  let x := s.sub ch sc
  let s := s.updSub ch sc fun x => { x with last := c.bank }
  match Tbl.get none x.rows c.bank with
  | none => (s.updSub ch sc fun x => { x with rows := Tbl.set none x.rows c.bank (some (c.row, 0, s.now)) }).dramCmd ch sc 1
      (c.bank * 2 ^ 17 + c.row)
  | some (row, streak, _) =>
    if row ≠ c.row then
      (s.updSub ch sc fun x => { x with rows := Tbl.set none x.rows c.bank none }).dramCmd ch sc 2 c.bank
    else
      let s := s.updSub ch sc fun x =>
        { x with rows := Tbl.set none x.rows c.bank (if streak = 7 then none else some (row, streak + 1, s.now)) }
      let s := (s.countHub (ch / 8) 0x412 (ch % 8) (some c.pol)).dramCmd ch sc (if w then 4 else 3) (c.bank * 2 ^ 17 + c.row)
      if w then
        (s.updSub ch sc fun x => { x with writes := x.writes.eraseIdx c.ix }).countHub (ch / 8) 0x411 (ch % 8) (some c.pol)
      else
        match x.reads[c.ix]? with
        | some r =>
          let s := if corrected then s.rowError ch (s.rowId r.msg.la.toNat) else s
          (s.updSub ch sc fun x => { x with reads := x.reads.eraseIdx c.ix }).mcServe (ch / 8) (ch % 8)
            { r.msg with urg := BitVec.ofNat 2 r.urg }
        | none => s

/-- A retraining pause starts (R283): the two sub-channels of a channel never pause together. -/
def State.startPause (s : State) (ch sc : Nat) : State := s.updSub ch sc fun x => { x with pausing := true }
def State.canPause (s : State) (ch sc : Nat) : Bool :=
  (s.sub ch sc).wanted.isSome && !(s.sub ch sc).pausing && !(s.sub ch (1 - sc)).pausing

/-- No lower channel of the half has a pause to start first (R284: starts go in channel order). -/
def State.pauseTurn (s : State) (ch : Nat) : Bool :=
  (List.range (ch % 8)).all fun n => !s.canPause (ch / 8 * 8 + n) 0 && !s.canPause (ch / 8 * 8 + n) 1

/-- A wanted pause that found no slack window within RT_WAIT_US runs at the first moment with no request queued (R283). -/
def State.idlePause (s : State) (ch sc : Nat) : Option State :=
  let x := s.sub ch sc
  match x.wanted with
  | some t =>
    if !x.forced && s.canPause ch sc && x.reads.isEmpty && x.writes.isEmpty && t + s.get .MC_RT_RT_WAIT_US (instCh ch) * 1000 ≤ s.now then
      some ((s.startPause ch sc).bump .MC_RTSTAT_IDLE (instCh ch) 1)
    else none
  | none => none

/-- MC_COMMAND_SLOT (R275, R276, R281, R284). -/
def execMcCommandSlot (ch : Fin 16) (sc : Fin 2) (corrected : Bool) (s : State) : Res :=
  .next (
    if (s.sub ch sc).pausing || (s.mcState ch ≠ 2 && s.mcState ch ≠ 4) then s
    else if (s.sub ch sc).forced && s.canPause ch sc then s.startPause ch sc
    else match s.dueRefresh ch sc true with
      | some k => s.refsb ch sc k
      | none =>
        if s.canPause ch sc && s.pauseTurn ch && s.slackFor 300 then (s.startPause ch sc).bump .MC_RTSTAT_IN_SLACK (instCh ch) 1
        else match s.idlePause ch sc with
        | some t => t
        | none =>
          let m := s.nextMode ch sc
          let s := s.updSub ch sc fun x => { x with wmode := m }
          let l := ((s.sub ch sc).cands m).filter fun c => !s.bankHeldFor ch sc c.bank
          match pickCand (s.sub ch sc) l with
          | some c => s.mcIssue ch sc m c corrected
          | none =>
            match s.dueRefresh ch sc false with
            | some k => s.refsb ch sc k
            | none => s)

/-- PAGE_IDLE_CLOSE (R275). -/
def execPageIdleClose (ch : Fin 16) (sc : Fin 2) (bank : BankId) (s : State) : Res :=
  let b := bankNo bank
  let x := s.sub ch sc
  .next (match Tbl.get none x.rows b with
    | some (row, _, t) =>
      if t + s.get .MC_CTL_PAGE_IDLE (instCh ch) ≤ s.now && !(x.reads.any fun r => r.bank == b && r.row == row) &&
          !(x.writes.any fun w => w.bank == b && w.row == row) then
        (s.updSub ch sc fun x => { x with rows := Tbl.set none x.rows b none }).dramCmd ch sc 2 b
      else s
    | none => s)

/-- URGENCY_RISE (R279): the urgency of a queued request by its age; one that reaches 3 counts. -/
def execUrgencyRise (ch : Fin 16) (sc : Fin 2) (txid : BitVec 12) (s : State) : Res :=
  .next (
    let x := s.sub ch sc
    let ru := fun r : McRd => s.urgency (msgPort r.msg.src) r.msg.urg.toNat (s.now - r.at_)
    let wu := fun w : McWr => s.urgency w.port w.urgIn (s.now - w.at_)
    let tags := ((x.reads.filter fun r => r.msg.txid == txid && r.urg < 3 && ru r == 3).map (·.msg.pol)) ++
      (x.writes.filter fun w => w.txid == txid.toNat && w.urg < 3 && wu w == 3).map (·.pol)
    let s := s.updSub ch sc fun x =>
      { x with reads := x.reads.map fun r => if r.msg.txid = txid then { r with urg := max r.urg (ru r) } else r,
               writes := x.writes.map fun w => if w.txid = txid.toNat then { w with urg := max w.urg (wu w) } else w }
    tags.foldl (fun s (p : Pol) => s.countHub (ch / 8) 0x413 (ch % 8) (some p)) s)

/-! ### Refresh and temperature (R281, R282) -/

/-- REFRESH_INTERVAL (R281): the debt of a bank set rises, to 4 at most, where its REFsb is forced. -/
def execRefreshInterval (ch : Fin 16) (sc : Fin 2) (rank set : Fin 4) (s : State) : Res :=
  let k := rank.val * 4 + set.val
  .next (
    let d := Tbl.get 0 (s.sub ch sc).debt k
    if rank.val < 2 ^ s.rb && d < 4 then
      let s := s.updSub ch sc fun x => { x with debt := Tbl.set 0 x.debt k (d + 1) }
      let s := if s.get .MC_REF_DEBT_PEAK (instCh ch) < (d + 1).toNat then s.put .MC_REF_DEBT_PEAK (instCh ch) (d + 1).toNat else s
      if d + 1 = 4 then s.bump .MC_REF_FORCED (instCh ch) 1 else s
    else s)

/-- DIMM_TEMP_POLL (R282). -/
def execDimmTempPoll (ch : Fin 16) (hot : Bool) (celsius : BitVec 8) (s : State) : Res :=
  .next ((s.setFlag .MC_REF_HOT (instCh ch) hot).updMc ch fun x => { x with temp := celsius.toNat })

/-! ### Channel loss (R289, R292) -/

/-- CHANNEL_LOSS (R289, R292): fenced; queued reads go to the mirror, queued writes are discarded; in Throughput reads
return poison and the polders that hold regions stop. `bcause` is the berm history's CAUSE. -/
def State.channelLost (s : State) (ch cause bcause : Nat) : State :=
  let st := s.mcState ch
  if st = 0 || st = 3 || st = 5 || st = 6 then s
  else
    let h := ch / 8
    let l := ch % 8
    let reads := (s.sub ch 0).reads ++ (s.sub ch 1).reads
    let mir := s.guardedCfg && s.peerServes h l
    let s := s.put .MC_STAT_STATE (instCh ch) (if s.guardedCfg then 3 else 5)
    let s := s.updMc ch fun x => { x with s0 := { McSub.reset with debt := x.s0.debt }, s1 := { McSub.reset with debt := x.s1.debt },
                                          resync := none }
    let s := reads.foldl (fun s r => if mir then s.mcRedirect h l r.msg else s.mcAnswer h l r.msg 0 true) s
    let s := (s.logSec h (16 + l) 0x72 [ch, cause]).retired 5 ch bcause
    if s.guardedCfg then s else s.stopPolders 1

/-- CHANNEL_LOSS: cause 0 to 3 as R289 lists them. -/
def execChannelLoss (ch : Fin 16) (cause : Fin 4) (s : State) : Res := .next (s.channelLost ch (cause.val + 1) 1)

/-! ### Retraining (R283 to R285) -/

/-- RETRAIN_OSC_CHECK (R283): drift in ps. -/
def execRetrainOscCheck (ch : Fin 16) (sc : Fin 2) (drift : Nat) (s : State) : Res :=
  .next (
    let i := instCh ch
    let soft := s.get .MC_RT_SOFT_PS i
    let hard := max soft (s.get .MC_RT_HARD_PS i)
    let s := s.put .MC_RTSTAT_LAST_DRIFT i (min drift 255)
    if hard ≤ drift then
      if (s.sub ch sc).forced then s
      else
        let s := s.updSub ch sc fun x => { x with wanted := some (x.wanted.getD s.now), forced := true }
        (s.bump .MC_RTSTAT_FORCED i 1).logSec (ch / 8) (16 + ch % 8) 0x78 [ch, sc, drift]
    else if soft ≤ drift then s.updSub ch sc fun x => { x with wanted := some (x.wanted.getD s.now) }
    else s)

/-- RETRAIN_WAIT_EXPIRED (R283): no window within RT_WAIT_US; the pause runs while the sub-channel has no request. -/
def execRetrainWaitExpired (ch : Fin 16) (sc : Fin 2) (s : State) : Res := .next ((s.idlePause ch sc).getD s)

/-- RETRAIN_PAUSE_END (R283): commands resume; a drift that was not corrected loses the channel with code 0x79. -/
def execRetrainPauseEnd (ch : Fin 16) (sc : Fin 2) (corrected : Bool) (s : State) : Res :=
  .next (
    if !(s.sub ch sc).pausing then s
    else
      let s := s.updSub ch sc fun x => { x with pausing := false, wanted := none, forced := false }
      if corrected then s
      else (s.logSec (ch / 8) (16 + ch % 8) 0x79 [ch, sc]).channelLost ch 3 1)

/-! ### Mirroring (R287, R290) -/

/-- REDIRECTED_READ (R287): the mirror controller answers exactly as the home controller would. -/
def execRedirectedRead (m : Msg) (s : State) : Res :=
  let h := stopUnit m.dst - 12
  .next (if s.mayArrive m && s.redirRoom m then (s.arrive m).mcTakeRead h (stopNo m.dst - 16) m true else s)

/-- The lines of one 8 KiB chunk of a channel: its eighth of 64 KiB of addresses, since only the Guarded configuration
resynchronises (log entry 26). -/
def chunkLines (ch chunk : Nat) (s : State) : List Nat :=
  (List.range 1024).filterMap fun i =>
    let la := chunk * 1024 + i
    if s.dCh la = ch % 8 then some la else none

/-- How many chunks a channel holds. -/
def State.chunks (s : State) : Nat := s.memSize / 65536

/-- A bring-in's copy starts (R290). -/
def State.startResync (s : State) (ch : Nat) : State :=
  ((s.put .MC_STAT_STATE (instCh ch) 4).put .MC_STAT_RESYNC_PCT (instCh ch) 0).updMc ch fun x => { x with resync := some (s.now, 0) }

/-- RESYNC_CHUNK (R290): the next chunk, at no more than RESYNC_BW, is copied from the mirror. A line with a write accepted here
whose mirror copy is still on its way keeps the write. After the last chunk the channel is in service with code 0x74. -/
def execResyncChunk (ch : Fin 16) (chunk : Nat) (s : State) : Res :=
  .next (
    let h := ch / 8
    match (s.mc ch).resync with
    | none => s
    | some (t, k) =>
      let rate := max (s.get .MC_CTL_RESYNC_BW (instCh ch)) 1
      if s.mcState ch ≠ 4 || chunk ≠ k || !s.peerServes h (ch % 8) || s.now < t + k * 81920 / rate then s
      else
        let held := (s.mc ch).waitMir.map (·.la)
        let s := (chunkLines ch chunk s).foldl (fun s la =>
          if held.contains la then s
          else (s.writeLineHalf h la (s.lineHalf (1 - h) la)).setPoison h la ((s.poison.get (1 - h)).contains la)) s
        let n := max s.chunks 1
        if n ≤ chunk + 1 then
          (((s.put .MC_STAT_STATE (instCh ch) 2).put .MC_STAT_RESYNC_PCT (instCh ch) 100).updMc ch fun x =>
            { x with resync := none }).logSec h (16 + ch % 8) 0x74 [ch, s.now - t]
        else (s.put .MC_STAT_RESYNC_PCT (instCh ch) ((chunk + 1) * 100 / n)).updMc ch fun x => { x with resync := some (t, k + 1) })

/-! ### Errors (R293 to R297) -/

/-- The end of an uncorrectable read (R294): recovered from the mirror, or poisoned. `true` when recovered. -/
def State.ueResolve (s : State) (ch la : Nat) (mirrorGood : Bool) : State × Bool :=
  let h := ch / 8
  let l := ch % 8
  let s := s.bump .MC_ERR_UE (instCh ch) 1
  if s.guardedCfg && mirrorGood && s.peerServes h l then
    let s := (s.writeLineHalf h la (s.lineHalf (1 - h) la)).setPoison h la ((s.poison.get (1 - h)).contains la)
    (((s.bump .MC_ERR_MIRROR_FIX (instCh ch) 1).logSec h (16 + l) 0x70 [ch, la * 64]).wantRepair ch (s.rowId la), true)
  else
    let s := s.setPoison h la true
    let s := if s.guardedCfg then s.setPoison (1 - h) la true else s
    (s.logSec h (16 + l) 0x71 [ch, la * 64, 1], false)

/-- UNCORRECTABLE_READ (R294): a queued read fails in DRAM; a good second read serves it, else the line is recovered from
the mirror or returned poisoned. -/
def execUncorrectableRead (m : Msg) (secondGood mirrorGood : Bool) (s : State) : Res :=
  .next (
    let h := stopUnit m.dst - 12
    let l := stopNo m.dst - 16
    let ch := h * 8 + l
    let la := m.la.toNat
    let sc := s.dSub la
    if (s.sub ch sc).reads.any fun r => r.msg == m then
      let s := s.updSub ch sc fun x => { x with reads := x.reads.eraseP fun r => r.msg == m }
      if secondGood then s.mcServe h l m else (s.ueResolve ch la mirrorGood).1.mcServe h l m
    else s)

/-- PATROL_SCRUB (R296): a poisoned line is skipped; a bank with a queued request waits. -/
def execPatrolScrub (ch : Fin 16) (la : LineAddr) (outcome : EccOutcome) (s : State) : Res :=
  .next (
    let a := la.toNat
    let i := instCh ch
    let b := s.dBankNo a
    let x := s.sub ch (s.dSub a)
    if !s.flag .MC_SCRUB_EN i || s.mcState ch ≠ 2 || s.dCh a ≠ ch % 8 || s.beyond a || (!s.guardedCfg && homeHalf (a * 64) ≠ ch / 8) || (x.reads.any fun r => r.bank == b) || (x.writes.any fun w => w.bank == b) then s
    else
      let s := if a < (s.mc ch).scrubAt then s.bump .MC_SCRUB_PASSES i 1 else s
      let s := s.updMc ch fun x => { x with scrubAt := a }
      if (s.poison.get (ch / 8)).contains a then s
      else match outcome with
        | .good => s
        | .corrected => s.rowError ch (s.rowId a)
        | .uncorrectable =>
          let good := s.peerOk (ch / 8) (ch % 8) && !(s.poison.get (1 - ch / 8)).contains a
          (s.ueResolve ch a good).1)

/-- Soft repairs start: outside a slack window only after 100 ms. -/
def State.runSppr (s : State) (ch : Nat) (late : Bool) : State :=
  let go := !late && s.slackFor 5000
  let now := s.now
  let held := fun y : RowId × Nat × Bool => y.2.2 || go || (late && decide (y.2.1 + 100000000 ≤ now))
  s.updMc ch fun x => { x with sppr := x.sppr.map fun y => (y.1, y.2.1, held y) }

/-- SPPR_WAIT_EXPIRED (R297): no slack window within 100 ms; the repair holds its bank now. -/
def execSpprWaitExpired (ch : Fin 16) (s : State) : Res := .next (s.runSppr ch true)

/-- The arguments of codes 0x75 and 0x76 (R300). -/
def rowArgs (ch : Nat) (r : RowId) : List Nat := [ch, r.bank.rank, r.bank.group.val * 4 + r.bank.bank.val, r.row.toNat]

/-- ROW_REPAIR (R297): the row that waits for repair, in a slack window or held already, is repaired with its lines kept, or
without a repair resource redirected to the mirror; a full table or Throughput leaves its block to Clasto's report. -/
def execRowRepair (ch : Fin 16) (row : RowId) (resource : Bool) (s : State) : Res :=
  .next (
    let s := s.runSppr ch false
    match (s.mc ch).sppr.find? fun x => x.1 == row && x.2.2 with
    | some x =>
        let r := x.1
        let i := instCh ch
        let s := s.updMc ch fun y => { y with sppr := y.sppr.erase x }
        if resource then
          let s := ((s.bump .MC_ECC_SPPR_DONE i 1).bermLog 5 4 3 ch (bankNo r.bank * 2 ^ 18 + r.sc.val * 2 ^ 17 + r.row.toNat)).logSec
            (ch / 8) (16 + ch % 8) 0x75 (rowArgs ch r)
          s.updBerm fun b => { b with rows := b.rows ++ [((ch : Nat), r)] }
        else if s.guardedCfg && (s.mc ch).redirect.length < 64 then
          ((s.updMc ch fun x => { x with redirect := x.redirect ++ [r] }).put .MC_STAT_REDIRECTS i ((s.mc ch).redirect.length + 1)).logSec
            (ch / 8) (16 + ch % 8) 0x76 (rowArgs ch r)
        else s.bermNote 5 1 3 ch (bankNo r.bank * 2 ^ 18 + r.sc.val * 2 ^ 17 + r.row.toNat)
    | none => s)

end Sys2Proof.Machine
end

