-- ==== Sys2Proof/Machine/Dike.lean ====
section
/-! DEFINITION. Guest sites and the dike (spec/12, R351 to R357): admission, decode through windows, the doorbell page,
quarantine and module loss. -/
namespace Sys2Proof.Machine

def State.updDike (s : State) (g : Nat) (f : Dike → Dike) : State := { s with dike := s.dike.set g (f (s.dike.get g)) }

/-- The guest module of a site is up (LK_STAT of module 12). -/
def State.guestUp (s : State) (g : Nat) : Bool := s.get .LK_STAT_STATE (instH g 12) == 2 && !(s.dike.get g).down

/-- DK_STAT.OUTSTANDING and DK_EPOCH.OLDEST_LIVE follow the admitted requests (R357). -/
def State.syncDike (s : State) (g : Nat) : State :=
  let l := (s.dike.get g).live
  let cur := s.get .DK_EPOCH_CURRENT (instH g 0)
  (s.put .DK_STAT_OUTSTANDING (instH g 0) l.length).put .DK_EPOCH_OLDEST_LIVE (instH g 0) ((l.map (·.2)).foldl min cur)

/-- The answer of a request the dike does not pass on (R352, R353): zeros, or a WriteDone. -/
def guestAnswer (g : Nat) (m : Msg) : Msg :=
  if m.ty = .readShared then { plainMsg .data (stopId (12 + g) 38) m.src m.la.toNat 0 0 with txid := m.txid }
  else { plainMsg .completion (stopId (12 + g) 38) m.src m.la.toNat 5 0 with txid := m.txid }
def State.guestDone (s : State) (g : Nat) (m : Msg) : State := s.emit (.guest g (guestAnswer g m))

/-- GUEST_SEC bit of site `g` (WORLD_ATTR). -/
def State.guestSec (s : State) (g : Nat) : Bool := (s.get .WORLD_ATTR_GUEST_SEC 0).testBit g

/-- Refuse a guest request (R74, R77, R353): recorded with the tag of the window that decoded it, or polder 0 and the world of
the site; counted, answered in silence. -/
def State.guestRefuse (s : State) (g : Half) (m : Msg) (kind : Nat) (tag : Nat × Bool := (0, s.guestSec g)) : State :=
  ((s.refuse g (.guest g) tag.1 tag.2 (m.la.toNat * 64) kind).bump .DK_CNT_REFUSED (instH g 0) 1).guestDone g m

/-- The window in force that decodes a guest address (R352). -/
def State.dikeWindow (s : State) (g a : Nat) : Option Nat :=
  (List.range 32).find? fun n =>
    s.flag .DK_ATTR_VALID (instH g n) && decide (s.get .DK_BASE_ADDR (instH g n) * 4096 ≤ a) &&
      decide (a ≤ s.get .DK_LIM_ADDR (instH g n) * 4096 + 0xFFF)

/-- A window allows a request's type. -/
def State.windowAllows (s : State) (g n : Nat) (m : Msg) : Bool :=
  if m.ty = .readShared then s.flag .DK_ATTR_RD (instH g n)
  else if m.ty = .write then s.flag .DK_ATTR_WR (instH g n)
  else s.flag .DK_ATTR_PLACE (instH g n)

/-- A guest Write or PlaceWrite with POISON = 1: bit 3 of A in both (log entry 29). -/
def guestPoison (m : Msg) : Bool := (m.ty == .write || m.ty == .placeWrite) && m.a.getLsbD 3

/-- GDB`d` is written (R354): with EN = 1 the value is kept and the interrupt raised. -/
def State.guestBell (s : State) (g d : Nat) (v : Nat) : State :=
  let i := instH g d
  if s.flag .DK_DBCFG_EN i then
    let s := s.put .GDB_VALUE i v
    if s.get .DK_DBCFG_INTID i < 0x200 then s
    else s.raiseInt (s.get .DK_DBCFG_POLDER i) (s.get .DK_DBCFG_LCPU i) (s.get .DK_DBCFG_INTID i)
  else s

/-- A Write to the doorbell page: each doorbell whose eight bytes are all written. -/
def State.guestBells (s : State) (g : Nat) (m : Msg) : State :=
  (List.range 8).foldl (fun s i =>
    if m.mask.toNat / 2 ^ (8 * i) % 256 = 255 then
      s.guestBell g (m.la.toNat % 2 * 8 + i) (m.data.toNat / 2 ^ (64 * i) % 2 ^ 64)
    else s) s

/-- The tag that window `n` gives a request (R68, R352). -/
def State.dikeTag (s : State) (g n : Nat) : Nat × Bool :=
  (s.get .DK_ATTR_POLDER (instH g n), s.flag .DK_ATTR_SEC (instH g n) && s.guestSec g)

/-- The request as it goes home under window `n` (R352, 3 and 4): its physical line, its tag, and for a PlaceWrite the core
of the logical CPU it names. A poisoned PlaceWrite is stored and not pushed (log entry 29). -/
def State.guestMsg (s : State) (g n : Nat) (m : Msg) : Msg :=
  let i := instH g n
  let pa := m.la.toNat * 64 - s.get .DK_BASE_ADDR i * 4096 + s.get .DK_TGT_ADDR i * 4096
  let p := (s.dikeTag g n).1
  let sec := (s.dikeTag g n).2
  let la := pa / 64
  let full := if m.mask = BitVec.ofNat 64 (2 ^ 64 - 1) then 4 else 0
  let base : Msg :=
    { plainMsg m.ty (stopId (12 + g) 38) (bankStop (s.home la) (dirBank la)) la 0 0 with
      txid := m.txid, urg := m.urg, pol := Fin.ofNat 32 p, sec := sec, mask := m.mask, data := m.data }
  if m.ty = .readShared then { base with a := 31 }
  else if m.ty = .write || guestPoison m then
    { base with ty := .write, a := BitVec.ofNat 12 (full + (if guestPoison m then 8 else 0)) }
  else
    match s.coreOf p (m.b.toNat % 256) with
    | some c => { base with a := BitVec.ofNat 12 (full + c % 20 * 8 + (if m.a.getLsbD 8 then 256 else 0)), b := BitVec.ofNat 18 (c / 20) }
    | none => { base with a := BitVec.ofNat 12 full, b := 16 }

/-- Decode an accepted request (R352). The doorbell page of site `g` lies at dike offset 0x4000. -/
def State.guestDecode (s : State) (g : Half) (m : Msg) : State :=
  let a := m.la.toNat * 64
  let bells := 0xFF00C00000000 + g.val * 0x100000000 + 0x80004000
  if 0xFF00000000000 ≤ a then
    if m.ty = .write && (a = bells || a = bells + 64) then (s.guestBells g m).guestDone g m
    else s.guestRefuse g m 5
  else
    match s.dikeWindow g a with
    | none => s.guestRefuse g m 6
    | some n =>
      if !s.windowAllows g n m then s.guestRefuse g m 6 (s.dikeTag g n)
      else
        let r := s.urged (s.guestMsg g n m) 0
        let e := s.get .DK_EPOCH_CURRENT (instH g 0)
        let s := (s.updDike g fun d => { d with live := d.live ++ [(m.txid.toNat, e)] }).syncDike g
        let x : IoTx := { msg := r, nacked := false, nacks := 0, first := s.now, sent := s.now }
        (s.updIo fun l => l ++ [x]).send r

/-- Quarantine (R355): PQ_TRIP and FENCE set, code 0x97. -/
def State.quarantine (s : State) (g : Nat) (m : Msg) : State :=
  ((s.setFlag .DK_STAT_PQ_TRIP (instH g 0) true).setFlag .DK_CTL_FENCE (instH g 0) true).logSec g 38 0x97 [g, m.la.toNat * 64]

/-- An admitted request: poison is met first (R355), then decode. -/
def State.guestAccept (s : State) (g : Half) (m : Msg) : State :=
  if guestPoison m then
    let s := s.bump .DK_CNT_POISON_IN (instH g 0) 1
    if s.flag .DK_CTL_PQUAR (instH g 0) then (s.quarantine g m).guestDone g m else s.guestDecode g m
  else s.guestDecode g m

/-- The cap and the bucket allow one more request (R353). -/
def State.dikeCap (s : State) (g : Nat) : Bool := decide ((s.dike.get g).live.length < max (s.get .DK_CTL_OUTCAP (instH g 0)) 1)
def State.dikeTokens (s : State) (g : Nat) : Bool :=
  s.get .DK_CTL_RATE (instH g 0) == 0 || decide (64 ≤ (s.dike.get g).tokens)

/-- Admit one request, or `none` while it must wait (R353). -/
def State.guestAdmit (s : State) (g : Half) (m : Msg) : Option State :=
  if s.flag .DK_CTL_FENCE (instH g 0) then some (s.guestRefuse g m 6)
  else if s.dikeCap g && s.dikeTokens g then
    let spend := if s.get .DK_CTL_RATE (instH g 0) = 0 then 0 else 64
    some ((s.updDike g fun d => { d with tokens := d.tokens - spend }).guestAccept g m)
  else none

/-- Count a request that waits for tokens (DK_CNT.RATE_HELD), once. -/
def State.rateHeld (s : State) (g : Nat) (x : Msg × Bool) : State × Bool :=
  if !x.2 && s.dikeCap g && !s.dikeTokens g then (s.bump .DK_CNT_RATE_HELD (instH g 0) 1, true) else (s, x.2)

/-- Admit the requests that wait, in order, as far as cap and bucket allow. -/
def State.dikeServe (s : State) (g : Half) : Nat → State
  | 0 => s
  | n + 1 =>
    match (s.dike.get g).waiting with
    | [] => s
    | x :: rest =>
      match (s.updDike g fun d => { d with waiting := rest }).guestAdmit g x.1 with
      | some t => t.dikeServe g n
      | none =>
        let (t, b) := s.rateHeld g x
        t.updDike g fun d => { d with waiting := (x.1, b) :: rest }
def State.dikeAdmit (s : State) (g : Half) : State := s.dikeServe g (s.dike.get g).waiting.length

/-- An admitted request is complete: its answer goes to the guest while the module lives, and another may be admitted. -/
def State.guestComplete (s : State) (g : Half) (txid : Nat) (m : Msg) : State :=
  match (s.dike.get g).live.find? fun x => x.1 == txid with
  | none => s
  | some x =>
    let s := (s.updDike g fun d => { d with live := d.live.erase x }).syncDike g
    (s.emit (.guest g m)).dikeAdmit g

/-- The messages a guest may send (R351). -/
def guestMay (m : Msg) : Bool := m.ty == .readShared && m.a.toNat % 32 == 31 || m.ty == .write || m.ty == .placeWrite

/-- GUEST_REQUEST (R351 to R355): with 64 requests waiting the guest holds no VN0 credit; a message outside the profile fences the
guest; any other is admitted or waits. -/
def execGuestRequest (g : Half) (m : Msg) (s : State) : Res :=
  .next (
    if !s.guestUp g || 64 ≤ (s.dike.get g).waiting.length then s
    else if !guestMay m then s.quarantine g m
    else (s.updDike g fun d => { d with waiting := d.waiting ++ [(m, false)] }).dikeAdmit g)

/-- GUEST_DOORBELL (R354): the guest's write to GDB`d`, as the dike carries it out. -/
def execGuestDoorbell (g : Half) (d : Fin 16) (v : Word) (s : State) : Res :=
  .next (if s.guestUp g && !s.flag .DK_CTL_FENCE (instH g 0) then s.guestBell g d v.toNat else s)

/-- The guest module is lost (R356): every admitted request is completed inside and its answer discarded; what waited at
the stop is discarded too. -/
def State.guestLoss (s : State) (g : Nat) : State :=
  if (s.dike.get g).down then s
  else
    let n := (s.dike.get g).live.length
    ((s.updDike g fun d => { d with waiting := [], live := [], down := true }).syncDike g).logSec g 38 0x98 [g, n]

/-- GUEST_MODULE_LOSS (R356). -/
def execGuestModuleLoss (g : Half) (s : State) : Res :=
  .next ((s.put .LK_STAT_STATE (instH g 12) 0).guestLoss g)

/-- TOKEN_BUCKET_REFILL (R353): once each µs. -/
def execTokenBucketRefill (g : Half) (s : State) : Res :=
  let i := instH g 0
  let top := max (s.get .DK_CTL_BURST i) 1 * 64
  let rate := s.get .DK_CTL_RATE i
  .next ((s.updDike g fun d => { d with tokens := min (d.tokens + rate) top }).dikeAdmit g)

end Sys2Proof.Machine
end

