-- ==== Sys2Proof/Machine/Ports.lean ====
section
/-! DEFINITION. What an I/O agent has in flight, and the BAR2 requests of a PCIe port in their order (R228, R411 to R413,
R357). -/
namespace Sys2Proof.Machine

/-- A transaction number free at a stop. -/
def State.freeIoTx (s : State) (src : BitVec 12) : Nat :=
  ((List.range 4096).find? fun n => !s.io.any fun x => x.msg.src == src && x.msg.txid.toNat == n).getD 0

/-- A request of an I/O agent goes to its home. -/
def State.ioSend (s : State) (m : Msg) : State :=
  let m := s.urged m 0
  let x : IoTx := { msg := m, nacked := false, nacks := 0, first := s.now, sent := s.now }
  (s.updIo fun l => l ++ [x]).send m

/-- The stop of a PCIe port. -/
def peStop (e : Nat) : BitVec 12 := stopId (12 + e / 2) (34 + e % 2)

/-- PW_EPOCH.OLDEST_LIVE follows the requests accepted and not complete (R357). -/
def State.syncPw (s : State) (e : Nat) : State :=
  let p := s.peSt e
  let cur := s.get .PW_EPOCH_CURRENT (instPe e)
  s.put .PW_EPOCH_OLDEST_LIVE (instPe e) ((p.live.map (·.epoch) ++ p.queue.map (·.epoch)).foldl min cur)

/-- A request may go to its home (R412): a read once no write is in flight, a write once no write is, save that writes with
Relaxed Ordering may pass one another. -/
def peMayGo (live : List PeLive) (x : PeReq) : Bool :=
  if x.msg.ty = .readShared || !x.ro then live.all fun y => y.kind == 0 else live.all fun y => y.kind != 1

/-- Send what order allows, from the front of the port's queue. -/
def State.pePump (s : State) (e : Nat) : Nat → State
  | 0 => s
  | n + 1 =>
    match (s.peSt e).queue with
    | [] => s
    | x :: rest =>
      if peMayGo (s.peSt e).live x then
        let tx := s.freeIoTx (peStop e)
        let kind := if x.msg.ty = .readShared then 0 else if x.ro then 2 else 1
        let y : PeLive := { tx := tx, epoch := x.epoch, kind := kind, req := x.req, ans := none }
        let s := s.updPe e fun p => { p with queue := rest, live := p.live ++ [y] }
        (s.ioSend { x.msg with txid := BitVec.ofNat 12 tx }).pePump e n
      else s

/-- The answers that may leave, in address order within one request (R412), and what stays in flight. -/
def peFlush : List PeLive → List Nat → List PeLive × List (List Word × Bool)
  | [], _ => ([], [])
  | x :: xs, held =>
    match x.ans with
    | some a =>
      let r := peFlush xs held
      if held.contains x.req then (x :: r.1, r.2) else (r.1, a :: r.2)
    | none =>
      let r := peFlush xs (if x.kind = 0 then x.req :: held else held)
      (x :: r.1, r.2)

/-- A BAR2 request has completed, a read with its data; what waited for it goes on. A link that is down carries no completion. -/
def State.peDone (s : State) (e tx : Nat) (ans : Option (List Word × Bool)) : State :=
  let l := (s.peSt e).live
  let l := match ans with
    | some a => l.map fun x => if x.tx = tx && x.kind = 0 then { x with ans := some a } else x
    | none => l.filter fun x => x.tx != tx
  let r := peFlush l []
  let s := s.updPe e fun p => { p with live := r.1 }
  let s := if 2 ≤ s.get .PE_STAT_LINK (instPe e) then
      r.2.foldl (fun s a => s.emit (.pcieCpl e a.1 (b2n a.2))) s else s
  (s.pePump e (s.peSt e).queue.length).syncPw e

/-- Accept a decoded request: it keeps the epoch in force (R357) and goes out in order. -/
def State.peAccept (s : State) (e req : Nat) (m : Msg) (ro : Bool) : State :=
  let x : PeReq := { msg := m, ro := ro, epoch := s.get .PW_EPOCH_CURRENT (instPe e), req := req }
  let s := s.updPe e fun p => { p with queue := p.queue ++ [x] }
  (s.pePump e (s.peSt e).queue.length).syncPw e

end Sys2Proof.Machine
end

