-- ==== Sys2Proof/Machine/Coherence.lean ====
section
/-! DEFINITION. Coherence and the fabric (spec/09): home banks with their trackers and waiters, snoops at a die, answers,
fills and pushes, directory eviction and column retirement, the census after the loss of a hub half, hand-back, spine
and transit. A message's arrival is its command; the sender put it into `fabric`. -/
namespace Sys2Proof.Machine

/-! ### Trackers and waiters (R233, R234) -/

def State.trk (s : State) (h la : Nat) : Option Trk := (s.dir.get h).trks.find? fun t => t.la == la
def State.bankTrks (s : State) (h b : Nat) : List Trk := (s.dir.get h).trks.filter fun t => dirBank t.la == b
def State.bankHeld (s : State) (h b : Nat) : List Msg := (s.dir.get h).heldReqs.filter fun m => dirBank m.la.toNat == b
/-- Waiter slots in use: those of the trackers, and the requests that a census holds (R260, 3). -/
def State.bankWaiters (s : State) (h b : Nat) : Nat :=
  ((s.bankTrks h b).map fun t => t.waiters.length).sum + (s.bankHeld h b).length

/-- DIR_BANK's occupancy fields follow the bank. -/
def State.syncBank (s : State) (h b : Nat) : State :=
  let i := instH h b
  let w := s.bankWaiters h b
  let s := (s.put .DIR_BANK_TRK i (s.bankTrks h b).length).put .DIR_BANK_WAIT i w
  if s.get .DIR_BANK_WAIT_MAX i < w then s.put .DIR_BANK_WAIT_MAX i w else s

def State.setTrk (s : State) (h : Nat) (t : Trk) : State :=
  (s.updDir h fun d => { d with trks := d.trks.map fun x => if x.la = t.la then t else x }).syncBank h (dirBank t.la)
def State.dropTrk (s : State) (h la : Nat) : State :=
  (s.updDir h fun d => { d with trks := d.trks.filter fun x => x.la != la }).syncBank h (dirBank la)

/-- The request kinds that carry AGED and TKP. -/
def coreKind (m : Msg) : Bool := m.ty == .readShared || m.ty == .readOwn || m.ty == .upgrade
def msgAged (m : Msg) : Bool := coreKind m && (m.a.getLsbD 7 || m.a.getLsbD 8)
def msgTkp (m : Msg) : Bool := coreKind m && m.a.getLsbD 8
def msgRank (m : Msg) : Nat := m.b.toNat % 32
def msgHint (m : Msg) : Bool := m.ty == .placeWrite && m.a.getLsbD 0
/-- A non-caching read (CORE 0x1F). -/
def nonCaching (m : Msg) : Bool := m.ty == .readShared && m.a.toNat % 32 == 31
def msgDie (m : Msg) : Nat := stopUnit m.src
def msgWrites (m : Msg) : Bool := m.ty == .write || m.ty == .placeWrite
def msgOwns (m : Msg) : Bool := m.ty == .readOwn || m.ty == .upgrade

/-- The request takes a directory entry. -/
def msgRecords (m : Msg) : Bool :=
  if m.ty = .write then false else if m.ty = .placeWrite then msgHint m || !m.b.getLsbD 4 else !nonCaching m

/-- The core of a die stop. -/
def stopCore (x : BitVec 12) : Nat := stopUnit x * 20 + stopNo x
def isCoreStop (x : BitVec 12) : Bool := decide (stopUnit x < 12) && decide (stopNo x < 20)

/-- When a request was first tried, and how often it has been tried (R233, R267). -/
def State.attempts (s : State) (m : Msg) : Nat × Nat :=
  if isCoreStop m.src then
    match (s.core (stopCore m.src)).miss.find? fun x => x.la == m.la.toNat && x.txid == m.txid.toNat && x.stage == 0 with
    | some x => (x.first, x.nacks + 1)
    | none => (s.now, 1)
  else match s.io.find? fun x => x.msg.src == m.src && x.msg.txid == m.txid with
    | some x => (x.first, x.nacks + 1)
    | none => (s.now, 1)

/-- Requests for lines of a bank that were Nacked four times, wait for their retry and were first tried before time `at_`: they
come before a later one at the reserved slots (R233). -/
def State.agedBefore (s : State) (h b at_ : Nat) : Nat :=
  let mine := fun la : Nat => dirBank la == b && s.home la == h
  ((s.cores.map (·.1)).map fun g => ((s.core g).miss.filter fun x =>
    x.stage == 1 && decide (4 ≤ x.nacks) && decide (x.first < at_) && mine x.la).length).sum +
    (s.io.filter fun x => x.nacked && decide (4 ≤ x.nacks) && coreKind x.msg && decide (x.first < at_) && mine x.msg.la.toNat).length

/-- A request finds a slot of `n` where `used` are in use and the last `reserve` are for aged requests and token holders (R233). -/
def State.slotFree (s : State) (h b : Nat) (m : Msg) (n reserve used : Nat) : Bool :=
  if msgTkp m then decide (used < n)
  else if msgAged m then decide (used + s.agedBefore h b (s.attempts m).1 < n)
  else decide (used + reserve < n)
/-- A tracker, and a waiter slot, is free for a request (R233). -/
def State.trkRoom (s : State) (h b : Nat) (m : Msg) : Bool := s.slotFree h b m 512 16 (s.bankTrks h b).length
def State.waitRoom (s : State) (h b : Nat) (m : Msg) : Bool := s.slotFree h b m 4096 64 (s.bankWaiters h b)

/-- Code 0x69, where a request takes a reserved slot (R267). -/
def State.reserveUsed (s : State) (h b : Nat) (m : Msg) (reserved : Bool) : State :=
  if reserved then s.logSec h b 0x69 [b, m.src.toNat, (s.attempts m).2] else s

/-- Open a tracker under the lowest free number. -/
def State.openTrk (s : State) (h la : Nat) (st : TrSt) (req : Option Msg) (at_ : Nat) : State :=
  let ids := (s.bankTrks h (dirBank la)).map (·.id)
  let id := ((List.range 512).find? fun n => !ids.contains n).getD 0
  let t : Trk := { id := id, la := la, st := st, req := req, reqAt := at_, cnt := 0, needWb := false, wbIn := false,
                   kept := false, snp := .recall, retry := [], line := none, bcast := false, waiters := [] }
  (s.updDir h fun d => { d with trks := d.trks ++ [t] }).syncBank h (dirBank la)

/-- Answer Nack (R233). -/
def State.nackMsg (s : State) (h : Nat) (m : Msg) : State :=
  let b := dirBank m.la.toNat
  ((s.bump .DIR_CNT1_NACKS (instH h 0) 1).countHub h 0x402 b (some m.pol)).send
    { plainMsg .nack (bankStop h b) m.src m.la.toNat 0 0 with txid := m.txid, urg := m.urg, pol := m.pol, sec := m.sec }

/-- Where a request goes among the waiters: a token holder to the head, in rank order (R234). -/
def insertWaiter (m : Msg) (at_ : Nat) : List (Msg × Nat) → List (Msg × Nat)
  | [] => [(m, at_)]
  | x :: l =>
    if msgTkp m && (!msgTkp x.1 || decide (msgRank m < msgRank x.1)) then (m, at_) :: x :: l else x :: insertWaiter m at_ l

/-- A request joins a line's waiters, or is Nacked (R233). -/
def State.join (s : State) (h : Nat) (t : Trk) (m : Msg) (at_ : Nat) : State :=
  let b := dirBank t.la
  if t.waiters.length < 16 && s.waitRoom h b m then
    (s.reserveUsed h b m (decide (4032 ≤ s.bankWaiters h b))).setTrk h { t with waiters := insertWaiter m at_ t.waiters }
  else s.nackMsg h m

/-! ### Answers of a bank -/

/-- A Completion of a bank to a writer or an issuer (R240). -/
def State.bankDone (s : State) (h kind pushed : Nat) (m : Msg) : State :=
  s.send { plainMsg .completion (bankStop h (dirBank m.la.toNat)) m.src m.la.toNat (kind + pushed * 16) 0 with
    txid := m.txid, urg := m.urg, pol := m.pol, sec := m.sec }

/-- The answer to a refused read: zeros that fill nothing (R75, R247). -/
def State.refusedZeros (s : State) (h : Nat) (m : Msg) : State :=
  s.send { plainMsg .data (bankStop h (dirBank m.la.toNat)) m.src m.la.toNat 256 0 with
    txid := m.txid, urg := m.urg, pol := m.pol, sec := m.sec }

/-- Grant M (R248). -/
def State.grantM (s : State) (h : Nat) (m : Msg) : State :=
  s.send { plainMsg .grant (bankStop h (dirBank m.la.toNat)) m.src m.la.toNat 1 0 with
    txid := m.txid, urg := m.urg, pol := m.pol, sec := m.sec }

/-- A hint is dropped at home (R250). -/
def State.hintDrop (s : State) (h : Nat) (m : Msg) : State :=
  (s.bump .DIR_CNT1_HINT_DROP (instH h 0) 1).bankDone h 7 0 m

/-- The dies that take part in snoops: in service (R260, R261). -/
def State.liveDies (s : State) : List Nat := allDies.filter fun d => (s.die d).state == 0

/-- A snoop to one die (R240): EVICT, and the token and rank of the request it serves. -/
def snoopMsg (h : Nat) (t : Trk) (ty : MsgTy) (d : Nat) : Msg :=
  let (tk, r) := match t.req with
    | some m => (msgTkp m, msgRank m)
    | none => (false, 0)
  let base := plainMsg ty (bankStop h (dirBank t.la)) (stopId d (dcSlice t.la)) t.la
    (b2n (t.st == .evi) + b2n tk * 2 + (if tk then r * 4 else 0)) t.id
  match t.req with
  | some m => { base with urg := m.urg, pol := m.pol, sec := m.sec }
  | none => base

/-- The snoop a tracker's state sends. -/
def trkSnoop (st : TrSt) (m : Bool) : MsgTy :=
  match st with
  | .inv => .invalidate
  | .dgd => .downgrade
  | .evi => if m then .recall else .invalidate
  | _ => .recall

/-- Send snoops of one type to dies, counted in DIR_CNT0. -/
def State.snoopOut (s : State) (h : Nat) (t : Trk) (ty : MsgTy) (ds : List Nat) : State :=
  let s := if ty = .invalidate then s.bump .DIR_CNT0_INVALS (instH h 0) ds.length
    else (s.bump .DIR_CNT0_RECALLS (instH h 0) ds.length).countHub h 0x401 (dirBank t.la) (t.req.map fun m => m.pol) ds.length
  ds.foldl (fun s d => s.send (snoopMsg h t ty d)) s

/-- A tracker sends its snoops: the count is the number of dies snooped (R248). -/
def State.snoopAll (s : State) (h : Nat) (t : Trk) (ty : MsgTy) (ds : List Nat) : State :=
  let t := { t with cnt := ds.length, snp := ty }
  (s.setTrk h t).snoopOut h t ty ds

/-- Dies in a presence mask. -/
def diesOf (pres : Nat) : List Nat := allDies.filter fun d => pres.testBit d

/-! ### Serving a request (R246 to R252) -/

/-- Forward a request to its controller (R248): a read with its GRANT, a write with its data. The entry a push takes is
recorded now (R249). The bank adds its own waiting time to the urgency (R279). -/
def State.forward (s : State) (h : Nat) (m : Msg) : State :=
  let la := m.la.toNat
  match s.trk h la with
  | none => s
  | some t =>
    let urg := BitVec.ofNat 2 (s.urgency (msgPort m.src) m.urg.toNat (s.now - t.reqAt))
    let f := { m with dst := mcStop h (s.dCh la), urg := urg }
    if msgHint m then
      (s.setTrk h { t with st := .rd, cnt := 0 }).send { f with a := m.a ||| 2, b := BitVec.ofNat 18 (m.b.toNat % 32 + t.id * 32) }
    else if msgWrites m then
      let s := s.setTrk h { t with st := .wr, cnt := 0 }
      let old := (s.dirEnt h la).map (·.gstamp)
      let s := s.setDirEnt h la none
      let s := if m.ty = .placeWrite && !m.b.getLsbD 4 then s.recordPush h la (2 ^ (m.b.toNat % 16)) old else s
      s.send { f with a := m.a ||| 2, b := BitVec.ofNat 18 (m.b.toNat % 32 + t.id * 32) }
    else
      let own := msgOwns m
      (s.setTrk h { t with st := .rd, cnt := 0 }).send
        { f with ty := if own then .readOwn else .readShared,
                 a := BitVec.ofNat 12 (m.a.toNat % 32 + 32 + b2n own * 64 + m.a.toNat / 128 * 128), b := BitVec.ofNat 18 t.id }

/-- Ways of the set that lines in RD or WR are about to take. -/
def State.claimed (s : State) (h la : Nat) : Nat :=
  ((s.dir.get h).trks.filter fun t => dirBank t.la == dirBank la && dirSet t.la == dirSet la && t.st != .hold && t.st != .evi &&
    (s.dirEnt h t.la).isNone && (match t.req with | some m => msgRecords m | none => false)).length

/-- A way is free for a new entry. -/
def State.wayFree (s : State) (h la : Nat) : Bool :=
  decide ((s.dirSetOf h (dirBank la) (dirSet la)).length + s.claimed h la < (s.dirWays h (dirBank la)).length)

/-- Hold a request until its hold window ends or a way frees. -/
def State.holdReq (s : State) (h : Nat) (m : Msg) (at_ : Nat) : State :=
  let s := s.openTrk h m.la.toNat .hold none at_
  match s.trk h m.la.toNat with
  | some t => s.setTrk h { t with waiters := [(m, at_)] }
  | none => s

/-- Start an eviction that makes room for a line (DIRECTORY_EVICTION, R251). -/
def State.dirEvict (s : State) (h la : Nat) (m : Msg) (at_ : Nat) : State :=
  let v := s.dirVictim h la
  let s := s.drawn.holdReq h m at_
  match v with
  | none => s
  | some (va, e) =>
    let s := (s.bump .DIR_CNT1_DIR_EVICTS (instH h 0) 1).openTrk h va .evi none at_
    match s.trk h va with
    | some t =>
      s.snoopAll h { t with line := some la } (trkSnoop .evi e.m) (diesOf e.pres)
    | none => s

/-- The snoops a request needs at an entry (R248): their type and the dies, none if it can go on at once. -/
def snoopsFor (e : DirEnt) (m : Msg) : Option (TrSt × List Nat) :=
  if e.m then some (if coreKind m && !msgOwns m then .dgd else .rcl, diesOf e.pres)
  else if coreKind m && !msgOwns m then none
  else
    let ds := if msgWrites m then diesOf e.pres else (diesOf e.pres).filter fun d => d != msgDie m
    if ds.isEmpty then none else some (.inv, ds)

/-- An Upgrade from a die that holds the line is granted without data (R248). -/
def State.grantNow (s : State) (h : Nat) (m : Msg) : State :=
  (s.record h m.la.toNat (2 ^ msgDie m) true).grantM h m

/-- Serve a request on a line with no tracker (R246 to R251, R261). `had` says that it waited and takes over the slots its line
had. A hint that would need a recall round or an eviction is dropped: it invalidates nothing (R250). -/
def State.serve (s : State) (h : Nat) (m : Msg) (at_ : Nat) (had : Bool) : State :=
  let la := m.la.toNat
  let b := dirBank la
  let hold := fun (s : State) (f : State → State) => if had || s.waitRoom h b m then f s else s.nackMsg h m
  if !had && !s.trkRoom h b m then s.nackMsg h m
  else
    let s := s.reserveUsed h b m (!had && decide (496 ≤ (s.bankTrks h b).length))
    match s.dirEnt h la with
    | none =>
      if (s.dir.get h).bcast.contains (b, dirSet la) then
        if msgHint m then s.hintDrop h m
        else
          let s := s.openTrk h la .rcl (some m) at_
          match s.trk h la with
          | some t => s.snoopAll h { t with bcast := true } .recall s.liveDies
          | none => s
      else if msgRecords m && !s.wayFree h la then (if msgHint m then s.hintDrop h m else hold s fun s => s.dirEvict h la m at_)
      else (s.openTrk h la .rd (some m) at_).forward h m
    | some e =>
      if msgHint m then (if e.m then s.hintDrop h m else (s.openTrk h la .rd (some m) at_).forward h m)
      else match snoopsFor e m with
        | none =>
          if m.ty = .upgrade && !e.m && e.pres.testBit (msgDie m) then s.grantNow h m
          else (s.openTrk h la .rd (some m) at_).forward h m
        | some (st, ds) =>
          if s.inHold e then
            hold s fun s => ((s.bump .DIR_CNT1_HOLD_WAITS (instH h 0) 1).countHub h 0x403 b (some m.pol)).holdReq h m at_
          else
            let s := s.openTrk h la st (some m) at_
            match s.trk h la with
            | some t => s.snoopAll h t (trkSnoop st e.m) ds
            | none => s

/-- Serve waiters in order until one opens a tracker; the rest wait on (R234). -/
def State.serveAll (s : State) (h la : Nat) : List (Msg × Nat) → State
  | [] => s
  | x :: rest =>
    match s.trk h la with
    | some t => s.setTrk h { t with waiters := t.waiters ++ (x :: rest) }
    | none => (s.serve h x.1 x.2 true).serveAll h la rest

/-- Take a held line up again. -/
def State.unhold (s : State) (h la : Nat) : State :=
  match s.trk h la with
  | some t => if t.st = .hold then (s.dropTrk h la).serveAll h la t.waiters else s
  | none => s

/-- Lines of a set that wait for a way. -/
def State.wayWaiters (s : State) (h la : Nat) : List Nat :=
  ((s.dir.get h).trks.filter fun t => t.st == .hold && dirBank t.la == dirBank la && dirSet t.la == dirSet la &&
    (s.dirEnt h t.la).isNone).map (·.la)

/-- An entry of a set has changed: requests that wait for a way of it are tried again (R251). -/
def State.setChanged (s : State) (h la : Nat) : State := (s.wayWaiters h la).foldl (fun s x => s.unhold h x) s

/-- A line returns to a stable state: its tracker is freed, its next waiter served, and requests that wait for a way of its
set are tried again (R234, R251). -/
def State.finishLine (s : State) (h la : Nat) : State :=
  match s.trk h la with
  | none => s
  | some t => ((s.dropTrk h la).serveAll h la t.waiters).setChanged h la

/-- A victim's last answer is in: the entry takes the line the eviction made room for, then the victim's own waiters are served
(R251). -/
def State.evicted (s : State) (h : Nat) (t : Trk) : State :=
  let s := (s.setDirEnt h t.la none).dropTrk h t.la
  let s := match t.line with | some la => s.unhold h la | none => s
  (s.serveAll h t.la t.waiters).setChanged h t.la

/-- An entry leaves the bank's directory or gives up one die while its line is stable or held (R248): a request held for it may go
on, and one that waits for a way. -/
def State.entryLeft (s : State) (h la : Nat) (e : Option DirEnt) : State :=
  ((s.setDirEnt h la e).unhold h la).setChanged h la

/-- Every answer of a tracker's snoops is in (R248): what the line becomes, and the request goes on. -/
def State.proceed (s : State) (h : Nat) (t : Trk) : State :=
  let la := t.la
  match t.st, t.req with
  | .evi, _ => s.evicted h t
  | .dgd, some m =>
    let s := s.setDirEnt h la (if t.kept then (s.dirEnt h la).map fun e => { e with m := false } else none)
    if msgRecords m && (s.dirEnt h la).isNone && !s.wayFree h la then
      ((s.dropTrk h la).dirEvict h la m t.reqAt).serveAll h la t.waiters
    else s.forward h m
  | .rcl, some m =>
    let s := s.setDirEnt h la none
    if t.bcast && msgRecords m && !s.wayFree h la then ((s.dropTrk h la).dirEvict h la m t.reqAt).serveAll h la t.waiters
    else s.forward h m
  | .inv, some m =>
    if msgWrites m then (s.setDirEnt h la none).forward h m
    else
      let own := match s.dirEnt h la with | some e => e.pres.testBit (msgDie m) | none => false
      if m.ty = .upgrade && own then (s.grantNow h m).finishLine h la
      else
        -- the requester's die keeps what it has until its Data arrives
        let s := if own then s.setDirEnt h la ((s.dirEnt h la).map fun e => { e with pres := 2 ^ msgDie m }) else s
        s.forward h m
  | _, _ => s

/-- Go on once the count is zero and any announced Writeback is accepted. -/
def State.checkTrk (s : State) (h : Nat) (t : Trk) : State :=
  let s := s.setTrk h t
  if t.cnt = 0 && (!t.needWb || t.wbIn) then s.proceed h t else s

/-! ### Requests at a bank (R247) -/

/-- Who made a request (R77), by its source stop. -/
def agentOf (m : Msg) : Agent :=
  let u := stopUnit m.src
  let n := stopNo m.src
  if u < 12 && n < 20 then .core (Fin.ofNat 240 (u * 20 + n))
  else if n = 34 || n = 35 then .pcie (Fin.ofNat 4 ((u - 12) * 2 + (n - 34)))
  else if n = 36 || n = 37 then .cascade (Fin.ofNat 4 ((u - 12) * 2 + (n - 36)))
  else if n = 38 then .guest (Fin.ofNat 2 (u - 12))
  else .hubAgent m.src

/-- The target of a placement lies in the writer's polder (R71, R247). -/
def State.targetMine (s : State) (m : Msg) : Bool :=
  let die := m.b.toNat % 16
  if m.a.getLsbD 8 then (coresOfDie die).any fun g => (s.core g).pol == m.pol.val
  else (s.core (die * 20 + m.a.toNat / 8 % 32)).pol == m.pol.val

/-- Take a checked request in: behind the line's tracker, or served at once. -/
def State.takeIn (s : State) (h : Nat) (m : Msg) : State :=
  match s.trk h m.la.toNat with
  | some t => if msgHint m then s.hintDrop h m else s.join h t m s.now
  | none => s.serve h m s.now false

/-- A census is running and the line's home was the lost half (R260, 3). -/
def State.censusHolds (s : State) (h la : Nat) : Bool :=
  (s.dir.get h).census.isSome && homeHalf (la * 64) != h

/-- A request reaches a bank (R233, R247, R263). -/
def State.bankRequest (s : State) (h : Nat) (m : Msg) : State :=
  let la := m.la.toNat
  let b := dirBank la
  if s.lost h then
    -- Throughput: lines of the lost half have no memory
    if msgWrites m then s.bankDone h (if msgHint m then 7 else 5) 0 m
    else s.send { plainMsg .data (bankStop h b) m.src la (512 + b2n (msgOwns m)) 0 with txid := m.txid, pol := m.pol, sec := m.sec }
  else if s.censusHolds h la then
    if ((s.bankHeld h b).filter fun x => x.la == m.la).length < 16 && s.waitRoom h b m then
      (s.updDir h fun d => { d with heldReqs := d.heldReqs ++ [m] }).syncBank h b
    else s.nackMsg h m
  else
    let s := s.countHub h 0x400 b (some m.pol)
    let rd := s.rgnCheck m.pol m.sec false (la * 64)
    let wr := s.rgnCheck m.pol m.sec true (la * 64)
    let no := fun (s : State) k => s.refuse h (agentOf m) m.pol m.sec (la * 64) k
    if msgHint m then
      match rd with
      | some k => (no s k).hintDrop h m
      | none => s.takeIn h m
    else if msgWrites m then
      match wr with
      | some k => (no s k).bankDone h 5 0 m
      | none =>
        if m.ty = .placeWrite && !s.targetMine m then s.takeIn h { m with b := m.b ||| 16 } else s.takeIn h m
    else match rd with
      | some k => (no s k).refusedZeros h m
      | none =>
        if msgOwns m then
          match wr with
          | some k => (no s k).takeIn h { m with ty := .readShared }
          | none => s.takeIn h m
        else s.takeIn h m

/-- The half of a hub stop. -/
def stopHalf (x : BitVec 12) : Nat := stopUnit x - 12

/-- A stop is a memory controller's (R238). -/
def isMcStop (x : BitVec 12) : Bool := decide (12 ≤ stopUnit x) && decide (16 ≤ stopNo x) && decide (stopNo x < 24)

/-- READ_SHARED (R248): at its home bank, or forwarded at a controller. -/
def execReadShared (m : Msg) (s : State) : Res :=
  if !s.mayArrive m || isMcStop m.dst && !s.mcCredit m then .next s else
  let s := s.arrive m
  .next (if isMcStop m.dst then s.mcRead (stopHalf m.dst) (stopNo m.dst - 16) m
    else s.bankRequest (stopHalf m.dst) { m with ty := .readShared })

/-- READ_OWN (R248). -/
def execReadOwn (m : Msg) (s : State) : Res :=
  if !s.mayArrive m || isMcStop m.dst && !s.mcCredit m then .next s else
  let s := s.arrive m
  .next (if isMcStop m.dst then s.mcRead (stopHalf m.dst) (stopNo m.dst - 16) m
    else s.bankRequest (stopHalf m.dst) { m with ty := .readOwn })

/-- UPGRADE (R248). -/
def execUpgrade (m : Msg) (s : State) : Res :=
  .next (if s.mayArrive m then (s.arrive m).bankRequest (stopHalf m.dst) { m with ty := .upgrade } else s)

/-- PLACE_WRITE (R249, R250): at its bank, or forwarded at a controller: a write, or a hint's read. -/
def execPlaceWrite (m : Msg) (s : State) : Res :=
  if !s.mayArrive m || isMcStop m.dst && !s.mcCredit m then .next s else
  let s := s.arrive m
  .next (if isMcStop m.dst then
      (if msgHint m then s.mcRead (stopHalf m.dst) (stopNo m.dst - 16) m
       else s.mcWrite (stopHalf m.dst) (stopNo m.dst - 16) m)
    else s.bankRequest (stopHalf m.dst) { m with ty := .placeWrite })

/-- WRITE (R249). -/
def execWrite (m : Msg) (s : State) : Res :=
  if !s.mayArrive m || isMcStop m.dst && !s.mcCredit m then .next s else
  let s := s.arrive m
  .next (if isMcStop m.dst then s.mcWrite (stopHalf m.dst) (stopNo m.dst - 16) m
    else s.bankRequest (stopHalf m.dst) { m with ty := .write })

/-- EVICT_CLEAN (R248, R255): presence is removed; an owner's takes the line to I, another die's is stale. -/
def execEvictClean (m : Msg) (s : State) : Res :=
  if !s.mayArrive m then .next s else
  let s := s.arrive m
  let h := stopHalf m.dst
  let la := m.la.toNat
  .next (match s.dirEnt h la with
    | none => s
    | some e =>
      if e.pres.testBit (msgDie m) then
        let p := withBit e.pres (msgDie m) false
        s.entryLeft h la (if p = 0 then none else some { e with pres := p })
      else s)

/-- HOLD_WINDOW_EXPIRED (R246): the request that waited is served, or a way is tried again. -/
def execHoldWindowExpired (h : Half) (la : LineAddr) (s : State) : Res :=
  .next (match s.dirEnt h la.toNat with
    | some e => if s.inHold e then s else s.unhold h la.toNat
    | none => s.unhold h la.toNat)

/-! ### Loads and atomics at a core: the part that a fill resumes (R180, R190, R242) -/

/-- A line as the core's loads see it: with its merging-buffer bytes laid over. -/
def State.coreLine (s : State) (g la : Nat) : Line := mbOver (s.core g).mb la (s.coreVal g la)

/-- The bytes of a load from lines already at hand; `l2` is the second line of an access that crosses. -/
def loadBytes (l1 l2 : Line) (o n : Nat) : Line :=
  BitVec.ofNat 512 ((l1.toNat + l2.toNat * 2 ^ 512) / 2 ^ (8 * o) % 2 ^ (8 * n))

/-- What a load puts into its register: its bytes, and above those of a narrow load the K64 volume's extension, which is
zero for zero (log entry 3). -/
def loadValue (size : Nat) (v : Word) : Word :=
  if size = 3 || v == 0 then v
  else
    let m := BitVec.ofNat 64 (2 ^ (8 * 2 ^ size) - 1)
    (v &&& m) ||| (Config.loadUpper (2 ^ size) v &&& ~~~m)
def vecValue (size : Nat) (v : Line) : Line :=
  if size = 6 || v == 0 then v
  else
    let m := BitVec.ofNat 512 (2 ^ (8 * 2 ^ size) - 1)
    (v &&& m) ||| (Config.vecUpper (2 ^ size) v &&& ~~~m)

/-- The destination of a load takes its bytes: a general register up to 8 B, a vector register above (log entry 3). -/
def Core.setLoaded (c : Core) (rd size : Nat) (v : Line) : Core :=
  if size ≤ 3 then c.setGpr rd (loadValue size (v.setWidth 64)) else c.setVr rd (vecValue size v)

/-- A load retires with its value. -/
def State.loadDone (s : State) (g rd size : Nat) (v : Line) : State :=
  ((s.countCore g 0x040).updCore g fun c => c.setLoaded rd size v).retire g

/-- A miss of a load. -/
def loadMiss (kind la pa pa2 rd size : Nat) : Miss :=
  { la := la, kind := kind, rd := rd, addr := pa, size := size, op := 0, val := BitVec.ofNat 64 pa2, txid := 0, sent := 0,
    stage := 0, nacks := 0, first := 0, seen := [] }

/-- The merging buffer holds every byte of an access to one line. -/
def mbCovers (mb : List MbEnt) (la o n : Nat) : Bool :=
  let m := mb.foldl (fun (x : BitVec 64) e => if e.la = la then x ||| e.mask else x) 0
  m &&& maskOf o n == maskOf o n

/-- Have a line at the core: in L2 already, or moved there from the die cache (R190); `none` asks home. -/
def State.ensure (s : State) (g la : Nat) : Option State :=
  if (s.l2 g la).isSome then some s
  else if s.l2On g then
    match (s.countCore g 0x024).l2FromDc g la with
    | some s => some ((s.countCore g 0x026).countDie (g / 20) 0x300 (dcSlice la) (some (s.core g).pol))
    | none => none
  else none

/-- Read poison: the machine check of R295; that of an instruction fetch has a source of its own (R151). -/
def State.loadPoison (s : State) (g pa : Nat) : State := s.machineCheck g 1 (BitVec.ofNat 64 pa)
def State.fetchPoison (s : State) (g pa : Nat) : State := s.machineCheck g 2 (BitVec.ofNat 64 pa)

/-- Try an instruction fetch from Normal memory (R180, R199): the line comes into L1I; poison is a machine check. -/
def State.fetchTry (s : State) (g pa : Nat) : State :=
  let la := pa / 64
  match Tbl.get none (s.core g).l1i la with
  | some _ => s
  | none =>
    let s := s.countCore g 0x020
    match s.ensure g la with
    | none => s.startMiss g (loadMiss (if s.l2On g then 7 else 8) la pa pa 0 6)
    | some s =>
      if s.linePoison g la then s.fetchPoison g pa
      else if s.l2On g then s.l1iFill g la (s.coreVal g la) else s

/-- Try a Normal load of `2 ^ size` bytes at `pa`; `pa2` is where its second line starts, if it crosses (R180, R190,
R195). -/
def State.loadTry (s : State) (g rd pa pa2 size : Nat) : State :=
  let n := 2 ^ size
  let o := pa % 64
  let la := pa / 64
  let cross := decide (64 < o + n)
  let lost := (s.core g).mbLost
  if lost.contains la || cross && lost.contains (pa2 / 64) then
    (s.updCore g fun c => { c with mbLost := c.mbLost.filter fun x => x != la && !(cross && x == pa2 / 64) }).loadPoison g pa
  else if !cross && mbCovers (s.core g).mb la o n then
    s.loadDone g rd size (loadBytes (mbOver (s.core g).mb la 0) 0 o n)
  else
    let kind := if s.l2On g then 0 else 6
    let s := match Tbl.get none (s.core g).l1d la with | some _ => s | none => s.countCore g 0x021
    match s.ensure g la with
    | none =>
      match (if s.l2On g then none else s.dc (g / 20) la), s.mHolder (g / 20) la with
      | some x, none =>
        if x.poison then s.loadPoison g pa
        else s.loadDone g rd size (loadBytes (mbOver (s.core g).mb la x.data) (s.coreLine g (pa2 / 64)) o n)
      | _, _ => s.startMiss g (loadMiss kind la pa pa2 rd size)
    | some s =>
      match (if cross then s.ensure g (pa2 / 64) else some s) with
      | none => s.startMiss g (loadMiss kind (pa2 / 64) pa pa2 rd size)
      | some s =>
        if s.linePoison g la || cross && s.linePoison g (pa2 / 64) then s.loadPoison g pa
        else
          let s := if s.l2On g then s.l1Fill g la (s.coreVal g la) else s
          s.loadDone g rd size (loadBytes (s.coreLine g la) (s.coreLine g (pa2 / 64)) o n)

/-- An atomic on a line the L2 holds in M (log entry 3): the old value to RD, the new one to the line. -/
def State.atomicDo (s : State) (g rd pa size op : Nat) (v : Word) : State :=
  let la := pa / 64
  let n := 2 ^ size
  if s.linePoison g la then s.loadPoison g pa
  else if s.inGuarded g && !s.tdRoom g la then s.guardOverflow g false (la % 1024)
  else
    let old := lineRead (s.coreLine g la) (pa % 64) n
    let new := Config.atomicResult op n old v
    let s := s.l2Write g la (lineOf new (pa % 64) n) (maskOf (pa % 64) n)
    s.loadDone g rd size (old.setWidth 512)

/-! ### Snoops at a die (R122, R186, R191, R242, R254 to R259) -/

/-- The answer to a snoop: AW, ND, KEPT and RETRY as bits 0 to 3. -/
def State.snoopAnswer (s : State) (m : Msg) (bits : Nat) : State :=
  s.send { plainMsg (if m.ty = .invalidate then .invAck else .recallAck) m.dst m.src m.la.toNat
      (if m.ty = .invalidate then bits / 8 * 8 else bits) m.b.toNat with
    urg := m.urg, pol := m.pol, sec := m.sec }

/-- The cores of a die whose Writeback of the line is not yet acknowledged. -/
def State.wbPending (s : State) (d la : Nat) : Option Nat := (coresOfDie d).find? fun g => (s.core g).wbWaits la

/-- Every L2 of a die that holds a line gives it up (R181, R191). -/
def State.dieTake (s : State) (d la : Nat) : State :=
  ((s.holders d la).foldl (fun s g => (s.countCore g 0x062).l2Inval g la) s).dropDc d la

/-- A core takes part: its miss of the line has its answer on the way (R242). -/
def State.fillComing (s : State) (d la : Nat) : Option Nat :=
  (coresOfDie d).find? fun g => (s.core g).miss.any fun x => x.la == la && x.stage == 0 &&
    s.fabric.any fun f => f.dst == coreStop g && f.la.toNat == la && f.txid.toNat == x.txid && (f.ty == .data || f.ty == .grant)

/-- Serve a snoop at a die that holds no tick-dirty copy. -/
def State.snoopServe (s : State) (d : Nat) (m : Msg) : State :=
  let la := m.la.toNat
  match m.ty with
  | .invalidate => (s.dieTake d la).snoopAnswer m 0
  | _ =>
    match s.mHolder d la with
    | some g =>
      match s.l2 g la with
      | some l =>
        if m.ty = .downgrade then
          let s := (if l.dirty then s.writeback g la l 2 else s).countCore g 0x062
          let s := s.setL2 g la { l with m := false, dirty := false }
          s.snoopAnswer m (4 + (if l.dirty then 0 else 2))
        else
          let s := if l.dirty then s.writeback g la l 0 else s
          (s.dieTake d la).snoopAnswer m (if l.dirty then 0 else 2)
      | none => s
    | none =>
      let kept := m.ty == .downgrade && (s.dc d la).isSome
      let aw := (s.wbPending d la).isSome
      let s := if m.ty = .downgrade then s else s.dieTake d la
      s.snoopAnswer m (b2n aw + (if aw then 0 else 2) + b2n kept * 4)

/-- The holder of a tick-dirty copy on a die. -/
def State.tdHolder (s : State) (d la : Nat) : Option Nat := (coresOfDie d).find? fun g => s.tdHere g la

/-- The request behind a snoop holds an older token than core `g` (R124). -/
def State.outranked (s : State) (g : Nat) (m : Msg) : Bool :=
  m.a.getLsbD 1 && ((s.core g).t.token.isNone || decide (m.a.toNat / 4 % 32 < s.tkRank g))

/-- A snoop reaches a die (R191, SNOOP_DEFER of R122): parked until its own fill is used, deferred at a tick-dirty line,
deferred behind a Writeback that keeps the line, or served. -/
def State.snoop (s : State) (d : Nat) (m : Msg) : State :=
  let la := m.la.toNat
  match s.fillComing d la with
  | some g => s.updCore g fun c => { c with miss := c.miss.map fun x => if x.la = la then { x with seen := x.seen ++ [m] } else x }
  | none =>
    match s.tdHolder d la with
    | some g =>
      let t := (s.core g).t
      if t.step < 2 && s.outranked g m then (s.abortTick g 1 la).snoopServe d m
      else if (s.core g).parked.length < 16 then
        (s.updCore g fun c => { c with parked := c.parked ++ [(m, s.now)] }).countCore g 0x055
      else if t.step < 2 && t.token.isNone then (s.abortTick g 1 la).snoopServe d m
      else s.snoopAnswer m 8
    | none =>
      match s.wbPending d la with
      | some g =>
        if (s.l2 g la).isSome then s.updCore g fun c => { c with parked := c.parked ++ [(m, s.now)] } else s.snoopServe d m
      | none => s.snoopServe d m

/-- A push of the line to the die is still on its way. It lands before a snoop that the bank sent after it (R259; log entry
166). -/
def State.pushComing (s : State) (m : Msg) : Bool :=
  s.fabric.any fun f => f.ty == .data && f.a.getLsbD 1 && f.la == m.la && stopUnit f.dst == stopUnit m.dst

/-- A snoop arrives at its die. -/
def State.snoopIn (s : State) (m : Msg) (ty : MsgTy) : State :=
  if s.mayArrive m && !s.pushComing m then (s.arrive m).snoop (stopUnit m.dst) { m with ty := ty } else s

/-- INVALIDATE (R191). -/
def execInvalidate (m : Msg) (s : State) : Res := .next (s.snoopIn m .invalidate)
/-- RECALL (R191). -/
def execRecall (m : Msg) (s : State) : Res := .next (s.snoopIn m .recall)
/-- DOWNGRADE (R191). -/
def execDowngrade (m : Msg) (s : State) : Res := .next (s.snoopIn m .downgrade)

/-- The snoops parked for a line are answered. -/
def State.unpark (s : State) (g la : Nat) : State :=
  let ps := (s.core g).parked.filter fun x => x.1.la.toNat == la && x.1.ty != .write
  ps.foldl (fun s x => s.snoop (g / 20) x.1)
    (s.updCore g fun c => { c with parked := c.parked.filter fun x => x.1.la.toNat != la })

/-- NACK_RETRY in ns; values below 16 act as 16. -/
def State.nackRetry (s : State) : Nat := max (s.get .DIR_CTL_NACK_RETRY 0) 16

/-! ### Answers at a bank (R248) -/

/-- A tracker that waits for snoop answers and matches an answer's number. -/
def State.snoopTrk (s : State) (h : Nat) (m : Msg) : Option Trk :=
  match s.trk h m.la.toNat with
  | some t => if (t.st == .inv || t.st == .rcl || t.st == .dgd || t.st == .evi) && m.b.toNat % 512 == t.id then some t else none
  | none => none

/-- INV_ACK (R248). -/
def execInvAck (m : Msg) (s : State) : Res :=
  if !s.mayArrive m then .next s else
  let s := s.arrive m
  let h := stopHalf m.dst
  .next (match s.snoopTrk h m with
    | none => s
    | some t =>
      if m.a.getLsbD 3 then s.setTrk h { t with retry := t.retry ++ [(msgDie m, s.now)] }
      else s.checkTrk h { t with cnt := t.cnt - 1 })

/-- RECALL_ACK (R248, R254): ND counts the owner as clean; otherwise its Writeback has to be accepted too. -/
def execRecallAck (m : Msg) (s : State) : Res :=
  if !s.mayArrive m then .next s else
  let s := s.arrive m
  let h := stopHalf m.dst
  .next (match s.snoopTrk h m with
    | none => s
    | some t =>
      if m.a.getLsbD 3 then s.setTrk h { t with retry := t.retry ++ [(msgDie m, s.now)] }
      else s.checkTrk h { t with cnt := t.cnt - 1, needWb := t.needWb || !m.a.getLsbD 1, kept := t.kept || m.a.getLsbD 2 })

/-- SNOOP_RETRY_RESEND (R248): NACK_RETRY ns after a RETRY answer the bank sends the same snoop to that die again. -/
def execSnoopRetryResend (h : Half) (la : LineAddr) (d : Die) (s : State) : Res :=
  .next (match s.trk h la.toNat with
    | none => s
    | some t =>
      match t.retry.find? fun x => x.1 == d.val && decide (x.2 + s.nackRetry ≤ s.now) with
      | some x =>
        let t := { t with retry := t.retry.erase x }
        (s.setTrk h t).snoopOut h t t.snp [d.val]
      | none => s)

/-- RD_DONE (R248): STATE, PRES and GSTAMP are written, the tracker is freed and the next waiter served. -/
def execRdDone (m : Msg) (s : State) : Res :=
  if !s.mayArrive m then .next s else
  let s := s.arrive m
  let h := stopHalf m.dst
  let la := m.la.toNat
  .next (match s.trk h la with
    | none => s
    | some t =>
      match t.st, t.req with
      | .rd, some r =>
        let pres := match s.dirEnt h la with | some e => e.pres | none => 0
        let s :=
          if msgHint r then
            (s.recordPush h la (withBit pres (r.b.toNat % 16) true) ((s.dirEnt h la).map (·.gstamp))).bankDone h 7 1 r
          else if nonCaching r then s
          else if msgOwns r then s.record h la (2 ^ msgDie r) true
          else s.record h la (withBit pres (msgDie r) true) false
        s.finishLine h la
      | _, _ => s)

/-- WR_DONE (R248): WriteDone to the writer. -/
def execWrDone (m : Msg) (s : State) : Res :=
  if !s.mayArrive m then .next s else
  let s := s.arrive m
  let h := stopHalf m.dst
  .next (match s.trk h m.la.toNat with
    | none => s
    | some t =>
      match t.st, t.req with
      | .wr, some r => (s.bankDone h 5 0 r).finishLine h m.la.toNat
      | _, _ => s)

/-- A Writeback of the owner is accepted while its line is in M and stable (R248): RET 0 takes the line to I; RET 2, whose copy the
die keeps in S, to S (log entry 167). -/
def State.ownerWrote (s : State) (h la : Nat) (m : Msg) : State :=
  match s.dirEnt h la with
  | some e =>
    if e.m && e.pres.testBit (msgDie m) && m.b.toNat % 4 ≠ 1 then
      s.entryLeft h la (if m.b.toNat % 4 = 0 then none else some { e with m := false })
    else s
  | none => s

/-- WB_ACCEPTED (R248, R253, R254): WbAck to the writer; a line in M(o) goes to I, stays, or goes to S as RET says; an
open transaction counts it. -/
def execWbAccepted (m : Msg) (s : State) : Res :=
  if !s.mayArrive m then .next s else
  let s := s.arrive m
  let h := stopHalf m.dst
  let la := m.la.toNat
  let s := s.send { plainMsg .completion (bankStop h (dirBank la)) m.src la 4 0 with urg := m.urg, pol := m.pol, sec := m.sec }
  .next (match s.trk h la with
    | some t =>
      if t.st = .inv || t.st = .rcl || t.st = .dgd || t.st = .evi then s.checkTrk h { t with wbIn := true }
      else if t.st = .hold then s.ownerWrote h la m
      else s
    | none => s.ownerWrote h la m)

/-! ### Answers at a core or an I/O agent -/

/-- An I/O agent's transaction by stop and number. -/
def State.ioOf (s : State) (m : Msg) : Option IoTx := s.io.find? fun x => x.msg.src == m.dst && x.msg.txid == m.txid
def State.ioDrop (s : State) (x : IoTx) : State := s.updIo fun l => l.erase x

/-- The words of a line. -/
def lineWords (l : Line) : List Nat := (List.range 8).map fun i => l.toNat / 2 ^ (64 * i) % 2 ^ 64

/-- What an I/O agent does with a read's data: a PCIe port completes its request, a guest or cascade stop sends it on. -/
def State.ioData (s : State) (m : Msg) : State :=
  let n := stopNo m.dst
  let h := stopHalf m.dst
  let words := lineWords m.data
  if n = 34 || n = 35 then
    s.peDone (h * 2 + (n - 34)) m.txid.toNat (some (words.map (BitVec.ofNat 64), m.a.getLsbD 9))
  else if n = 36 || n = 37 then s.casAnswer m csGetData words
  else if n = 38 then
    s.guestComplete (Fin.ofNat 2 h) m.txid.toNat { m with dst := 0, a := m.a &&& 0xEFF }
  else s

/-- The misses that waited behind another miss of their line. -/
def State.wakeMisses (s : State) (g la : Nat) : State :=
  match (s.core g).miss.find? fun x => x.la == la && x.stage == 3 with
  | none => s
  | some x =>
    let drop := s.updCore g fun c => { c with miss := c.miss.erase x }
    match s.l2 g la with
    | some l =>
      if x.kind = 0 then drop.loadTry g x.rd x.addr x.val.toNat x.size
      else if x.kind = 7 then drop.fetchTry g x.addr
      else if x.kind = 1 && l.m then drop
      else if x.kind = 2 && l.m then drop.atomicDo g x.rd x.addr x.size x.op x.val
      else s.resend g la 3
    | none => s.resend g la 3

/-- A load or fetch whose data did not go into a cache ends with it. `data` is the line `x.la`; a load's other line, if it crosses,
is read beside it. -/
def State.useOnce (s : State) (g : Nat) (x : Miss) (poison : Bool) (data : Line) : State :=
  let la := x.la
  let l2 := x.val.toNat / 64
  let n := 2 ^ x.size
  let cross := decide (64 < x.addr % 64 + n)
  let line := fun (a : Nat) => if a = la then (if x.kind = 5 then data else mbOver (s.core g).mb la data) else s.coreLine g a
  let bad := poison || cross && (s.linePoison g (x.addr / 64) && x.addr / 64 != la || s.linePoison g l2 && l2 != la)
  if x.kind = 7 || x.kind = 8 then (if poison then s.fetchPoison g x.addr else s)
  else if bad then s.loadPoison g x.addr
  else s.loadDone g x.rd x.size (loadBytes (line (x.addr / 64)) (line l2) (x.addr % 64) n)

/-- Use a fill for the access that asked for it (R242), before any snoop that waited for it. `own` is STATE M; `data` what
came with it; `rz` a refusal, whose zeros fill nothing (R75); `none` while no way is free (R184). -/
def State.useFill (s : State) (g : Nat) (x : Miss) (own rz poison : Bool) (data : Line) : Option State :=
  let la := x.la
  let drop := fun s : State => s.updCore g fun c => { c with miss := c.miss.filter fun y => !(y.la == la && y.txid == x.txid) }
  let after := fun s : State => ((x.seen.foldl (fun s m => s.snoop (g / 20) m) s).wakeMisses g la)
  let popLine := fun s : State => s.updCore g fun c =>
    { c with mb := c.mb.eraseP fun e => e.la == la, l1d := Tbl.erase c.l1d la }
  if rz then
    some (after (
      let s := drop s
      if x.kind = 1 then popLine s
      else if x.kind = 2 then s.loadDone g x.rd x.size 0
      else s.useOnce g x false 0))
  else if x.kind = 5 || x.kind = 6 || x.kind = 8 then some (after ((drop s).useOnce g x poison data))
  else if !s.l2On g then
    -- allocation was switched off meanwhile: the data serves the load, the line is given back
    let s := (drop s).evictClean (g / 20) la
    some (after (if x.kind = 0 || x.kind = 7 then s.useOnce g x poison data else s))
  else
    let others := if own then (s.holders (g / 20) la).filter fun n => n != g else []
    let s := others.foldl (fun s n => s.l2Inval n la) s
    match s.l2Fill g la data own poison false with
    | none => none
    | some s =>
      let s := drop s
      some (after (
        if x.kind = 0 then s.loadTry g x.rd x.addr x.val.toNat x.size
        else if x.kind = 7 then s.fetchTry g x.addr
        else if x.kind = 1 then
          if own then (match (s.core g).mb with | e :: _ => if e.la = la then s.drainInto g e else s | [] => s)
          else popLine s
        else if own then s.atomicDo g x.rd x.addr x.size x.op x.val
        else s.loadDone g x.rd x.size 0))

/-- The miss an answer belongs to. -/
def State.missOf (s : State) (g : Nat) (m : Msg) : Option Miss :=
  (s.core g).miss.find? fun x => x.la == m.la.toNat && x.txid == m.txid.toNat && x.stage == 0

/-- A push arrives (R193, R194, R249): accepted into the L2 and the die cache, or the die cache alone; a dropped one is
counted and reported by EvictClean. -/
def State.pushIn (s : State) (m : Msg) : State :=
  let d := stopUnit m.dst
  let la := m.la.toNat
  let lvl := m.a.getLsbD 2
  let g := d * 20 + m.a.toNat / 8 % 32
  let po := m.a.getLsbD 9
  let got : Option State :=
    if !s.flag .DC_CTL_EN (instD d 0) then none
    else if lvl then s.dcFill d la m.data po true
    else if (s.core g).pow = 3 || !s.flag .L2_CTL_EN (instC g) then none
    else s.l2Fill g la m.data false po true
  match got with
  | some s => if lvl then s else s.countCore g 0x027
  | none =>
    let s := (s.bump .DC_CNT_PUSH_DROP (instD d 0) 1).countDie d 0x303 (dcSlice la) (some m.pol)
    let s := if lvl then s else s.bump .L2_CNT_PUSH_DROP (instC g) 1
    if (s.dc d la).isSome || !(s.holders d la).isEmpty then s else s.evictClean d la

/-- Data at its target (R190, R240). Data that nobody waits for is dropped and reported. -/
def State.dataIn (s : State) (m : Msg) : State :=
  if !s.mayArrive m then s
  else if m.a.getLsbD 1 then (s.arrive m).pushIn m
  else if isCoreStop m.dst then
    let g := stopCore m.dst
    match s.missOf g m with
    | some x =>
      match (s.arrive m).useFill g x (m.a.getLsbD 0) (m.a.getLsbD 8) (m.a.getLsbD 9) m.data with
      | some t => t
      | none => s.fillDefer g x.la
    | none => if m.a.getLsbD 8 then s.arrive m else (s.arrive m).evictClean (g / 20) m.la.toNat
  else match s.ioOf m with
    | some x => ((s.arrive m).ioDrop x).ioData m
    | none => s.arrive m

/-- DATA (R190, R242, R249). -/
def execData (m : Msg) (s : State) : Res := .next (s.dataIn m)

/-- DATA_BURST (R335): on a module with PLACE256 in force, treated as four pushes. -/
def execDataBurst (m0 m1 m2 m3 : Msg) (s : State) : Res :=
  .next (if (s.get .LK_STAT_FEATURES (instH (stopUnit m0.src - 12) (stopUnit m0.dst))).testBit 1 then
      (((s.dataIn m0).dataIn m1).dataIn m2).dataIn m3
    else s)

/-- GRANT (R248): the Upgrade's line is now held in M. -/
def execGrant (m : Msg) (s : State) : Res :=
  let g := stopCore m.dst
  let la := m.la.toNat
  .next (if !s.mayArrive m then s else match s.missOf g m with
    | none => s.arrive m
    | some x =>
      match s.l2 g la with
      | some l =>
        match (s.arrive m).useFill g x true false l.poison l.data with
        | some t => t
        | none => s.fillDefer g la
      | none =>
        -- the copy is gone: the line is given back and asked for again
        let s := ((s.arrive m).evictClean (g / 20) la).updCore g fun c =>
          { c with miss := c.miss.map fun y => if y = x then { y with stage := 1 } else y }
        s.resend g la 1)

/-- WB_ACK (R120, R241, R253, R257): the pending entry is freed; once no Writeback of the line is left, the mark of a phase B line
is cleared, its parked snoops answered, and a request that waited for the writeback goes out. -/
def execWbAck (m : Msg) (s : State) : Res :=
  if !s.mayArrive m then .next s else
  let s := s.arrive m
  let g := stopCore m.dst
  let la := m.la.toNat
  let s := s.updCore g fun c => { c with wbs := c.wbs.eraseP fun x => x.la.toNat == la }
  .next (
    if (s.core g).wbWaits la then s
    else
      let s := match s.l2 g la with
        | some l => if l.td && (s.core g).t.step = 4 then s.setL2 g la { l with td := false, dirty := false } else s
        | none => s
      if s.tdHere g la then s else ((s.hubSettle la).unpark g la).resend g la 2)

/-- WRITE_DONE (R249): the write is complete at its writer. -/
def execWriteDone (m : Msg) (s : State) : Res :=
  if !s.mayArrive m then .next s else
  let s := s.arrive m
  .next (
    if isCoreStop m.dst then
      let g := stopCore m.dst
      match (s.core g).mb with
      | e :: _ => if e.sent && e.la = m.la.toNat then (s.mbPop g).commitAdvance g else s
      | [] => s
    else match s.ioOf m with
      | some x =>
        let s := s.ioDrop x
        if stopNo m.dst = 36 || stopNo m.dst = 37 then s.casAnswer m csPutAck []
        else if stopNo m.dst = 34 || stopNo m.dst = 35 then
          s.peDone (stopHalf m.dst * 2 + (stopNo m.dst - 34)) m.txid.toNat none
        else if stopNo m.dst = 38 then s.guestComplete (Fin.ofNat 2 (stopHalf m.dst)) m.txid.toNat { m with dst := 0 } else s
      | none => s)

/-- MIR_DONE (R286, R288): a phase A acknowledgement at its core, or a mirror copy's at the home controller. -/
def execMirDone (m : Msg) (s : State) : Res :=
  if !s.mayArrive m then .next s else
  let s := s.arrive m
  .next (
    if isCoreStop m.dst then s.updTick (stopCore m.dst) fun t => { t with phaseA := t.phaseA.erase m.la.toNat }
    else if isMcStop m.dst then s.mcMirDone (stopHalf m.dst) (stopNo m.dst - 16) m
    else s)

/-- PLACE_DONE (R250). -/
def execPlaceDone (m : Msg) (s : State) : Res :=
  if !s.mayArrive m then .next s else
  let s := s.arrive m
  let g := stopCore m.dst
  let s := s.updCore g fun c => { c with plPend := c.plPend.eraseP fun x => x.msg.txid == m.txid }
  .next (if m.a.getLsbD 4 then s else s.countCore g 0x061)

/-- A request that was Nacked (R233). -/
def IoTx.refused (x : IoTx) (now : Nat) : IoTx := { x with nacked := true, nacks := x.nacks + 1, sent := now }

/-- The retry of a Nacked request, once NACK_RETRY ns have passed: with AGED = 1 after four Nacks where its message has that bit
(R233, R240). -/
def State.retryTx (s : State) (x : IoTx) (l : List IoTx) : List IoTx × Option Msg :=
  if x.nacked && decide (x.sent + s.nackRetry ≤ s.now) then
    (l.map fun y => if y = x then { y with nacked := false } else y,
     some (s.urged (if 4 ≤ x.nacks && coreKind x.msg then { x.msg with a := x.msg.a ||| 128 } else x.msg) (s.now - x.first)))
  else (l, none)

/-- NACK (R233): the requester will retry; a die control stop settles the line whose census report found no way (R260, 7): an S
line is dropped, a modified one written back and dropped, a tick-dirty one kept. -/
def execNack (m : Msg) (s : State) : Res :=
  if !s.mayArrive m then .next s else
  let s := s.arrive m
  let now := s.now
  .next (
    if isCoreStop m.dst then
      let g := stopCore m.dst
      match s.missOf g m with
      | some x => s.updCore g fun c =>
          { c with miss := c.miss.map fun y => if y = x then { y with stage := 1, nacks := y.nacks + 1, sent := now } else y }
      | none =>
        if (s.core g).plPend.any fun x => x.msg.txid == m.txid then
          s.updCore g fun c => { c with plPend := c.plPend.map fun x => if x.msg.txid = m.txid then x.refused now else x }
        else
          let again := now + s.nackRetry
          s.updCore g fun c =>
            { c with mb := c.mb.map fun e => if e.sent && e.la = m.la.toNat then { e with sent := false, at_ := again } else e }
    else if stopUnit m.dst < 12 then (if s.tdOn (stopUnit m.dst) m.la.toNat then s else s.dieEvict (stopUnit m.dst) m.la.toNat)
    else s.updIo fun l => l.map fun x => if x.msg.src = m.dst && x.msg.txid = m.txid then x.refused now else x)

/-- NACK_RETRY (R233): `m` is the request that was Nacked; it goes out again. -/
def execNackRetry (m : Msg) (s : State) : Res :=
  .next (
    if isCoreStop m.src then
      let g := stopCore m.src
      match (s.core g).miss.find? fun x => x.la == m.la.toNat && x.txid == m.txid.toNat && x.stage == 1 with
      | some x => if x.sent + s.nackRetry ≤ s.now then s.resend g m.la.toNat 1 else s
      | none => match (s.core g).plPend.find? fun x => x.msg == m with
        | some x =>
          let r := s.retryTx x (s.core g).plPend
          match r.2 with
          | some q => (s.updCore g fun c => { c with plPend := r.1 }).send q
          | none => s
        | none => s
    else match s.io.find? fun x => x.msg.src == m.src && x.msg.txid == m.txid with
      | some x =>
        let r := s.retryTx x s.io
        match r.2 with
        | some q => (s.updIo fun _ => r.1).send q
        | none => s
      | none => s)

/-- WRITEBACK (R241, R286, R288): at a memory controller. -/
def execWriteback (m : Msg) (s : State) : Res :=
  .next (if s.mayArrive m && s.wbRoom m then (s.arrive m).mcWriteback (stopHalf m.dst) (stopNo m.dst - 16) m else s)

/-! ### Column retirement and set-scoped censuses (R252, R261) -/

/-- The lines that live dies hold in a set, with the die. -/
def State.setLines (s : State) (h b set : Nat) : List (Nat × Nat) :=
  s.liveDies.flatMap fun d => (s.die d).dc.filterMap fun x => match x.2 with
    | some _ => if dirBank x.1 = b && dirSet x.1 = set && s.home x.1 = h then some (d, x.1) else none
    | none => none

/-- Insert what a die reports; `none` without a free way. A report is no grant:
the spec gives its entry no stamp, so the stamp is free (log entry 139). -/
def State.reportIn (s : State) (h la d : Nat) (m : Bool) : Option State :=
  match s.dirEnt h la with
  | some e => some (s.setDirEnt h la (some { e with pres := if m then 2 ^ d else withBit e.pres d true, m := m || e.m }))
  | none =>
    match s.dirWay h la with
    | some w => some (s.setDirEnt h la (some { m := m, pres := 2 ^ d, gstamp := s.fresh.toNat % 1024, way := w })).drawn
    | none => none

/-- A set-scoped Census (R252, R261), in one step: the set's entries are rebuilt from what the dies hold; BCAST clears with
code 0x6C once every line fits. -/
def State.setCensus (s : State) (h b set : Nat) : State :=
  let l := s.setLines h b set
  let r := l.foldl (fun (x : State × Bool) y =>
    match x.1.reportIn h y.2 y.1 (s.mHolder y.1 y.2).isSome with
    | some t => (t, x.2)
    | none => (x.1, false)) (s, true)
  if r.2 then (r.1.updDir h fun d => { d with bcast := d.bcast.filter fun x => x != (b, set) }).logSec h b 0x6C [b, set]
  else r.1

/-- Retire a way column (R252): every entry of it is evicted first, by the coherent access of log entry 17. -/
def State.retireColumn (s : State) (h b w cause : Nat) : State :=
  let lines := (s.dir.get h).ents.filterMap fun x => match x.2 with
    | some e => if dirBank x.1 = b && e.way = w then some x.1 else none
    | none => none
  let s := lines.foldl (fun s la => (s.recallLine la).setDirEnt h la none) s
  let s := s.updDir h fun d => { d with retired := d.retired ++ [(b, w)] }
  let i := instH h b
  let s := s.put .DIR_BANK_RETIRED i (min (s.get .DIR_BANK_RETIRED i + 1) 7)
  let s := s.put .DIR_BANK_SPARE i (min (s.get .DIR_BANK_SPARE i + 1) 2)
  let left := 2 - s.get .DIR_BANK_SPARE i
  (s.bermLog 4 1 cause (h * 512 + b * 32 + w) left).logSec h b 0x68 [b, w, left]

/-- A column can be retired: none of its lines is in a transaction or tick-dirty. -/
def State.columnFree (s : State) (h b w : Nat) : Bool :=
  (s.dir.get h).ents.all fun x => match x.2 with
    | some e => !(dirBank x.1 == b && e.way == w) || (s.trk h x.1).isNone && !(allDies.any fun d => s.tdOn d x.1)
    | none => true

/-- DIRECTORY_COLUMN_RETIRE (R252): a column passed 64 corrected errors within 3,600 s. -/
def execDirectoryColumnRetire (h : Half) (bank : Fin 16) (way : Fin 26) (s : State) : Res :=
  .next (
    let i := h.val * 512 + bank.val * 32 + way.val
    if !s.columnFree h bank way then s
    else match s.berm.wayRet.find? fun x => x.1 == 4 && x.2.1 == i with
      | some x =>
        let s := (s.retireColumn h bank way x.2.2.1).updBerm fun b => { b with wayRet := b.wayRet.erase x }
        match x.2.2.2 with
        | some c => (s.logSec s.activeHalf 44 0xB1 [4, i, x.2.2.1]).finish c (resOk 0xFFFF)
        | none => s
      | none => s.retireColumn h bank way 3)

/-- DIRECTORY_ENTRY_UE (R252). -/
def execDirectoryEntryUe (h : Half) (la : LineAddr) (s : State) : Res :=
  let b := dirBank la.toNat
  let set := dirSet la.toNat
  let s := s.setDirEnt h la.toNat none
  let s := s.updDir h fun d => { d with bcast := if d.bcast.contains (b, set) then d.bcast else d.bcast ++ [(b, set)] }
  .next (s.setCensus h b set)

/-- BCAST_SWEEP (R261). -/
def execBcastSweep (h : Half) (bank : Fin 16) (s : State) : Res :=
  .next (((s.dir.get h).bcast.filter fun x => x.1 == bank.val).foldl (fun s x => s.setCensus h x.1 x.2) s)

/-! ### Losing a hub half (R260 to R264, R395) -/

/-- What the loss of a half leaves of the messages under way (R260, 2): its answers and snoops are discarded, and what was on its
way to it is sent again by its sender or lost with it. -/
def outlives (h : Nat) (m : Msg) : Bool := stopUnit m.src != 12 + h && stopUnit m.dst != 12 + h

/-- Every outstanding request to the lost half is sent again, and every Writeback without its WbAck (R260, 2): misses, uncached
stores, hints, Writebacks and I/O transactions. -/
def State.reissue (s : State) (h : Nat) : State :=
  let hit := fun la : Nat => homeHalf (la * 64) == h
  let home := fun (x : IoTx) =>
    { x with nacked := false, msg := { x.msg with dst := bankStop (s.home x.msg.la.toNat) (dirBank x.msg.la.toNat) } }
  let s := (s.cores.map (·.1)).foldl (fun s g =>
    let s := s.updCore g fun c =>
      { c with mb := c.mb.map fun e => if hit e.la then { e with sent := false } else e,
               parked := c.parked.filter fun x => stopUnit x.1.src != 12 + h,
               t := { c.t with phaseA := c.t.phaseA.filter hit },
               miss := c.miss.map fun x => if x.stage = 0 && hit x.la then { x with stage := 1, seen := [] } else x }
    let s := ((s.core g).miss.filter fun x => x.stage == 1 && hit x.la).foldl (fun s x => s.resend g x.la 1) s
    let s := s.updCore g fun c => { c with plPend := c.plPend.map fun x => if hit x.msg.la.toNat then home x else x }
    let s := ((s.core g).plPend.filter fun x => hit x.msg.la.toNat).foldl (fun s x => s.send x.msg) s
    ((s.core g).wbs.filter fun m => hit m.la.toNat).foldl (fun s m =>
      s.send { m with dst := mcStop (s.home m.la.toNat) (s.dCh m.la.toNat) }) s) s
  let s := s.updIo fun l => l.map fun x => if hit x.msg.la.toNat then home x else x
  s.io.foldl (fun s x => if hit x.msg.la.toNat then s.send x.msg else s) s

/-- HOMES_TAKEOVER_CENSUS (R260): the survivor `v` takes every home and sends the Census. -/
def State.takeHomes (s : State) (h v : Nat) : State :=
  let s := (s.updFabric fun l => l.filter (outlives h)).updDir h fun d => { d with trks := [], ents := [] }
  let s := (List.range 8).foldl (fun s ch => s.updMc (h * 8 + ch) fun _ => Mc.reset) s
  -- acceptance at the survivor needs no MirDone any more
  let s := (List.range 8).foldl (fun s ch =>
    let w := (s.mc (v * 8 + ch)).waitMir
    let s := s.updMc (v * 8 + ch) fun x => { x with waitMir := [] }
    w.foldl (fun s x => x.ans.foldl (fun s a => s.send a) s) s) s
  let s := s.reissue h
  let ds := s.liveDies
  let now := s.now
  let s := s.updDir v fun d => { d with census := some ds, cenLines := 0, cenDropped := 0, cenStart := now }
  let s := (s.put .DIR_STAT_HOMES (instH v 0) 2).logSec v 0 0x6A [h]
  ds.foldl (fun s d => s.send (plainMsg .census (bankStop v 0) (dieCtlStop d) 0 h 0)) s

/-- Throughput: each die drops its copies of lines homed on the lost half (R263). -/
def State.dropHomed (s : State) (h : Nat) : State :=
  let s := (s.updFabric fun l => l.filter fun m => stopUnit m.src != 12 + h).updDir h fun d =>
    { d with trks := [], ents := [] }
  let s := allDies.foldl (fun s d =>
    let l := (s.die d).dc.filterMap fun x => if homeHalf (x.1 * 64) = h then some x.1 else none
    l.foldl (fun s la => ((s.holders d la).foldl (fun s g => s.l2Inval g la) s).dropDc d la) s) s
  s.reissue h

/-- STR_STAT.PAIR_LIVE follows the halves in service (R315). -/
def State.pairSync (s : State) : State :=
  s.ing.heads.foldl (fun s x => match x.b with
    | some b => (s.setFlag .STR_STAT_PAIR_LIVE (instStr x.a) (!s.lost (1 - x.a / 64))).setFlag .STR_STAT_PAIR_LIVE (instStr b)
        (!s.lost (1 - b / 64))
    | none => s) s

/-- The survivor's engine drives every polder from the next edge (R93); the encoder inputs of the lost half, `es`, count as failed
(R86). -/
def State.engineLoss (s : State) (h : Nat) (es : List Nat) : State :=
  let s := (List.range 32).foldl (fun s p =>
    if (s.polder p).isSome && s.nextDriver p = h then s.handOver p (1 - h) 1 else s) s
  es.foldl State.encDown s

/-- HUB_HALF_LOSS (R30, R93, R260, R263, R395): half `h` is concluded to be lost. -/
def State.halfLoss (s : State) (h : Nat) : State :=
  if s.lost h then s
  else
    let v := 1 - h
    let es := ((List.range 8).map (h * 8 + ·)).filter fun e => !s.encBad e
    let s := if h = s.activeHalf then s else s.standbyGone
    let s := (s.setHalf h true false).pairSync
    let s := (s.setFlag .DIR_STAT_PARTNER_LOST (instH v 0) true).logSec v 44 0xB7 [h]
    let s := s.bermLog 8 1 1 h 0
    let s := if s.guardedCfg then s.takeHomes h v else (s.dropHomed h).stopPolders 2
    if s.lost v then s else s.engineLoss h es

/-- HUB_HALF_LOSS: ingest leads and the hub controller follow by their own commands. -/
def execHubHalfLoss (h : Half) (s : State) : Res := .next (s.halfLoss h)

/-- CENSUS (R260, 5): a die reports every valid line whose home was the lost half; the last report carries LAST. A die with
no such line sends one that names none (B = 1, log entry 27). -/
def execCensus (m : Msg) (s : State) : Res :=
  if !s.mayArrive m then .next s else
  let s := s.arrive m
  let d := stopUnit m.dst
  let lost := m.a.toNat % 2
  let v := stopHalf m.src
  let lines := (s.die d).dc.filterMap fun x => match x.2 with
    | some _ => if homeHalf (x.1 * 64) = lost then some x.1 else none
    | none => none
  let n := lines.length
  .next (
    if n = 0 then s.send (plainMsg .censusReport (dieCtlStop d) (bankStop v 0) 0 4 1)
    else lines.zipIdx.foldl (fun s x =>
      let a := b2n (s.mHolder d x.1).isSome + b2n (s.tdOn d x.1) * 2 + (if x.2 + 1 = n then 4 else 0)
      s.send (plainMsg .censusReport (dieCtlStop d) (bankStop v (dirBank x.1)) x.1 a 0)) s)

/-- CENSUS_REPORT (R260, 6 and 7): inserted, or settled by its die, which Nack tells; a tick-dirty line is kept and its set takes
BCAST. -/
def execCensusReport (m : Msg) (s : State) : Res :=
  if !s.mayArrive m then .next s else
  let s := s.arrive m
  let h := stopHalf m.dst
  let d := stopUnit m.src
  let la := m.la.toNat
  let s :=
    if m.b.toNat % 2 = 1 then s
    else match s.reportIn h la d (m.a.getLsbD 0) with
      | some s => s.updDir h fun x => { x with cenLines := x.cenLines + 1 }
      | none =>
        let s := s.updDir h fun x => { x with cenDropped := x.cenDropped + 1 }
        let s := s.send (plainMsg .nack m.dst m.src la 0 0)
        if m.a.getLsbD 1 then
          s.updDir h fun x => { x with bcast := if x.bcast.contains (dirBank la, dirSet la) then x.bcast else x.bcast ++ [(dirBank la, dirSet la)] }
        else s
  .next (
    if m.a.getLsbD 2 then s.updDir h fun x => { x with census := x.census.map fun l => l.filter fun y => y != d } else s)

/-- Census reports that found no way, not yet settled by their dies (R260, 8). -/
def State.cenUnsettled (s : State) (h : Nat) : Bool :=
  s.fabric.any fun m => (m.ty == .nack && stopUnit m.src == 12 + h && decide (stopUnit m.dst < 12) && !isCoreStop m.dst) ||
    (m.ty == .writeback && stopUnit m.dst == 12 + h && homeHalf (m.la.toNat * 64) != h)

/-- CENSUS_COMPLETE (R260, 8): every live die has sent LAST and every overflow is settled; CEN_STAT is written, code 0x6B logged,
and the held requests are served. -/
def execCensusComplete (h : Half) (s : State) : Res :=
  .next (match (s.dir.get h).census with
    | some [] =>
      if s.cenUnsettled h then s else
      let x := s.dir.get h
      let i := instH h 0
      let us := min ((s.now - x.cenStart) / 1000) 4095
      let s := (((s.put .CEN_STAT_LINES i x.cenLines).put .CEN_STAT_DROPPED i (min x.cenDropped 65535)).put .CEN_STAT_BCAST i
        (min x.bcast.length 4095)).put .CEN_STAT_DURATION i us
      let s := (s.put .DIR_STAT_HOMES i 1).logSec h 0 0x6B [x.cenLines, x.cenDropped, x.bcast.length, us]
      let s := s.updDir h fun x => { x with census := none, heldReqs := [] }
      let s := (List.range 16).foldl (fun s b => s.syncBank h b) s
      x.heldReqs.foldl (fun s m => s.bankRequest h m) s
    | _ => s)

/-- HOMES_HAND_BACK (R264): with every channel of the returning half back in service, one bank's entries for its lines move
to it, in one step that nothing can come between; code 0x6F. Half `h` is the returning one. -/
def execHomesHandBack (h : Half) (bank : Fin 16) (s : State) : Res :=
  .next (
    let v := 1 - h.val
    let ready := s.halfReturning.get h && (List.range 8).all fun ch => s.mcState (h * 8 + ch) == 2
    let busy := (s.bankTrks v bank).any fun t => homeHalf (t.la * 64) == h.val
    if !ready || busy || !(s.dir.get h).handBack.contains bank.val then s
    else
      let mine := fun la : Nat => dirBank la == bank.val && homeHalf (la * 64) == h.val
      let move := (s.dir.get v).ents.filter fun x => mine x.1
      let s := s.updDir v fun d => { d with ents := d.ents.filter fun x => !mine x.1 }
      let s := move.foldl (fun s x => match x.2 with
        | some e => match s.dirWay h x.1 with
          | some w => s.setDirEnt h x.1 (some { e with way := w })
          | none => s.recallLine x.1
        | none => s) s
      -- a set of the survivor that may miss lines of the returning half leaves that doubt to the half's own set
      let doubt := (s.dir.get v).bcast.filter fun x => x.1 == bank.val
      let s := s.updDir h fun d => { d with handBack := d.handBack.erase bank.val, bcast := d.bcast ++ doubt.filter fun x => !d.bcast.contains x }
      let s := (s.put .DIR_STAT_HOMES (instH v 0) 3).logSec v bank 0x6F [bank]
      if (s.dir.get h).handBack.isEmpty then
        let s := s.setHalf h false false
        ((s.put .DIR_STAT_HOMES (instH v 0) 0).put .DIR_STAT_HOMES (instH h 0) 0).setFlag .DIR_STAT_PARTNER_LOST (instH v 0) false
      else s)

/-! ### Heartbeats, spine and transit (R265, R266, R395) -/

/-- HUB_HEARTBEAT (R395): what half `h` receives of its partner's heartbeats in one 2 µs interval; four in a row missed on
both routes conclude a lost half, on the spine alone a lost spine, by their own commands. -/
def execHubHeartbeat (h : Half) (spine transit : Bool) (s : State) : Res :=
  .next (s.updDir h fun d =>
    { d with hbMissed := if spine || transit then 0 else d.hbMissed + 1, spineMissed := if spine then 0 else d.spineMissed + 1 })

/-- The dies that offer a live transit path (DIR_STAT.PATHS). -/
def State.pathMask (s : State) : Nat := s.get .DIR_STAT_PATHS (instH 0 0)
def State.transitDies (s : State) : List Nat := allDies.filter fun d => s.pathMask.testBit d && (s.die d).state == 0

/-- DIR_STAT.SPINE_DOWN in both halves, with code 0x6D. -/
def State.spineDown (s : State) (b : Bool) : State :=
  let s := (s.setFlag .DIR_STAT_SPINE_DOWN (instH 0 0) b).setFlag .DIR_STAT_SPINE_DOWN (instH 1 0) b
  (s.logSec 0 39 0x6D [s.pathMask]).logSec 1 39 0x6D [s.pathMask]

/-- Both halves use the present transit mapping. -/
def State.remapTransit (s : State) : State :=
  let l := s.transitDies
  (s.updDir 0 fun d => { d with mapDies := l }).updDir 1 fun d => { d with mapDies := l }

/-- SPINE_LOSS (R265): hub-to-hub traffic goes by transit. -/
def execSpineLoss (s : State) : Res :=
  .next (if s.flag .DIR_STAT_SPINE_DOWN (instH 0 0) then s else (s.spineDown true).remapTransit)

/-- SPINE_RESTORE (R265). -/
def execSpineRestore (s : State) : Res :=
  .next (if s.flag .DIR_STAT_SPINE_DOWN (instH 0 0) then s.spineDown false else s)

/-- TRANSIT_REMAP (R265). -/
def execTransitRemap (s : State) : Res := .next s.remapTransit

end Sys2Proof.Machine
end

