-- ==== Sys2Proof/Machine/Ingest.lean ====
section
/-! DEFINITION. Head ports and line ingest (spec/11): links, PTP, heads, reassembly of lines, the landing ring, cuts and
their release. A paired head is one logical stream; what the shadow forwards to the lead (R315) enters the one window. -/
namespace Sys2Proof.Machine

/-! ### Ports (R301 to R303) -/

/-- A sub-port exists in its port's mode and is enabled. -/
def State.subExists (s : State) (port sub : Nat) : Bool :=
  let m := s.get .HP_CFG_MODE (instPort port)
  if m = 1 then sub == 0 else if m = 2 then decide (sub < 2) else m == 3
def State.subOn (s : State) (port sub : Nat) : Bool :=
  s.subExists port sub && (s.get .HP_CFG_SUB_EN (instPort port)).testBit sub && !s.lost (port / 8)
def State.subLink (s : State) (port sub : Nat) : Bool := (s.get .HP_STAT_LINK (instPort port)).testBit sub

/-- The instance of HP_ADDR of a sub-port. -/
def instSub (port sub : Nat) : Nat := instH (port / 8) (port % 8 * 4 + sub)

/-- What a sub-port sends (log entry 6). -/
def headArp : Nat := 1
def headEcho : Nat := 2
def headDiscovery : Nat := 3
def headForceIp : Nat := 4
def headWrite : Nat := 5
def headRead : Nat := 6
def headSync : Nat := 7
def headFollowUp : Nat := 8
def headDelayResp : Nat := 9
def headDelayReq : Nat := 10
def headAnnounce : Nat := 11
def headRelease : Nat := 12

/-- The stop an ingest engine logs from (R238): two ports share a stop. -/
def ingStop (port : Nat) : Nat := 30 + port % 8 / 2

/-! ### Streams -/

/-- The stream (spec/00) of a port and slot. -/
def Strm.w (x : Strm) (i : Nat) : Nat := x.words.getD i 0
def Strm.portA (x : Strm) : Nat := bitsOf (x.w 0) 11 8
def Strm.subA (x : Strm) : Nat := bitsOf (x.w 0) 13 12
def Strm.portB (x : Strm) : Nat := bitsOf (x.w 0) 19 16
def Strm.subB (x : Strm) : Nat := bitsOf (x.w 0) 21 20
def Strm.paired (x : Strm) : Bool := bitOf (x.w 0) 22
def Strm.lineBytes (x : Strm) : Nat := bitsOf (x.w 4) 16 0
def Strm.pktBytes (x : Strm) : Nat := bitsOf (x.w 4) 45 32
def Strm.blockLines (x : Strm) : Nat := bitsOf (x.w 4) 63 48
def Strm.lineNs (x : Strm) : Nat := bitsOf (x.w 5) 31 0
def Strm.cutLag (x : Strm) : Nat := bitsOf (x.w 5) 63 32
def Strm.ringBase (x : Strm) : Nat := x.w 6
def Strm.nSlots (x : Strm) : Nat := bitsOf (x.w 7) 15 0
def Strm.cutDepth (x : Strm) : Nat := bitsOf (x.w 7) 26 16
def Strm.cutBase (x : Strm) : Nat := x.w 8
def Strm.placeMode (x : Strm) : Nat := bitsOf (x.w 9) 1 0
def Strm.level (x : Strm) : Bool := bitOf (x.w 9) 2
def Strm.ntgt (x : Strm) : Nat := bitsOf (x.w 9) 5 3
def Strm.cutPlace (x : Strm) : Bool := bitOf (x.w 9) 6
def Strm.reorderNs (x : Strm) : Nat := bitsOf (x.w 9) 63 32
def Strm.tgt (x : Strm) (i : Nat) : Nat := bitsOf (x.w 10) (8 * i + 7) (8 * i)

/-- Bytes of a slot (R317): the header and the payload padded to whole lines. -/
def Strm.slotBytes (x : Strm) : Nat := 64 + (x.lineBytes + 63) / 64 * 64
/-- Payload packets of a block, and packet positions of a block: leader, payload and trailer (R312, R313). -/
def Strm.nPkt (x : Strm) : Nat := (x.blockLines * x.lineBytes + x.pktBytes - 1) / max x.pktBytes 1
def Strm.nPos (x : Strm) : Nat := x.nPkt + 2

/-- The stream number of the lead. -/
def Strm.leadStream (x : Strm) : Nat :=
  match x.b with | some b => if b / 64 = x.lead then b else x.a | none => x.a

/-- The entry a stream number belongs to. -/
def State.strm (s : State) (n : Nat) : Option Strm := s.ing.heads.find? fun x => x.a == n || x.b == some n
def State.updIng (s : State) (f : Ingest → Ingest) : State := { s with ing := f s.ing }
def State.updStrm (s : State) (a : Nat) (f : Strm → Strm) : State :=
  s.updIng fun g => { g with heads := g.heads.map fun x => if x.a = a then f x else x }

/-- A port and sub-port are the entry's first. -/
def Strm.firstPort (x : Strm) (port sub : Nat) : Bool := x.portA == port && x.subA == sub
/-- R307 has completed on a port of the entry; the head's address there. -/
def Strm.confOn (x : Strm) (first : Bool) : Bool := if first then x.conf else x.confB
def Strm.ipOn (x : Strm) (first : Bool) : Nat := if first then x.ip else x.ipB
def Strm.setConf (x : Strm) (first : Bool) (ip : Nat) : Strm :=
  if first then { x with conf := true, ip := ip, hbMissed := 0 } else { x with confB := true, ipB := ip, hbMissed := 0 }

/-- Both links of a head's ports; one on a lost half counts as none. -/
def State.headLinks (s : State) (x : Strm) : Bool × Bool :=
  (s.subLink x.portA x.subA && !s.lost (x.portA / 8), x.paired && s.subLink x.portB x.subB && !s.lost (x.portB / 8))

/-- The streams of an entry. -/
def Strm.streams (x : Strm) : List Nat := x.a :: x.b.toList

/-- STR_STAT and STR_POS follow the context. -/
def State.syncStrm (s : State) (a : Nat) : State :=
  match s.strm a with
  | none => s
  | some x =>
    x.streams.foldl (fun s n =>
      let i := instStr n
      let lead := n == x.leadStream
      let s := (s.put .STR_STAT_STATE i (if x.present then 2 else if x.ever then 3 else 1)).setFlag .STR_STAT_LEAD i lead
      let s := (s.setFlag .STR_STAT_PAIR_LIVE i (x.paired && !s.lost (1 - n / 64))).setFlag .STR_STAT_FULL i
        (decide (x.held + x.nSlots ≤ x.nextSlot))
      let s := s.put .STR_STAT_LAST_CUT i (match x.lastCut with | some (k, _, _) => k | none => 0)
      (s.put .STR_POS_NEXT i (x.nextSlot % 2 ^ 32)).put .STR_POS_HELD i (x.held % 2 ^ 32)) s

/-- A head becomes absent (R310): cause 1 link, 2 heartbeat. It is configured anew before it can be present again (R307). -/
def State.headAbsent (s : State) (x : Strm) (cause : Nat) : State :=
  if !x.present then s
  else ((s.updStrm x.a fun y => { y with present := false, conf := false, confB := false, changedAt := s.now }).logPol x.lead (ingStop x.portA) 0x81 x.pol [x.a, cause]).syncStrm x.a

/-- A head becomes present (R310). -/
def State.headPresent (s : State) (x : Strm) : State :=
  ((s.updStrm x.a fun y => { y with present := true, ever := true, changedAt := s.now }).logPol x.lead
    (ingStop x.portA) 0x80 x.pol [x.a, x.portA, x.subA]).syncStrm x.a

/-! ### Links (R303, R307) -/

/-- GVCP discovery on a sub-port (R307). -/
def State.discover (s : State) (port sub : Nat) : State :=
  if s.subOn port sub && s.subLink port sub then s.emit (.head port sub headDiscovery []) else s

/-- HP_STAT.RATE of a mode. -/
def rateOf (mode : Nat) : Nat := if mode = 1 then 3 else if mode = 2 then 2 else if mode = 3 then 1 else 0

/-- HEAD_LINK_UP (R303, R307). -/
def execHeadLinkUp (port : Fin 16) (sub : Fin 4) (s : State) : Res :=
  .next (
    if !s.subOn port sub || s.subLink port sub then s
    else
      let i := instPort port
      let s := (s.put .HP_STAT_LINK i (withBit (s.get .HP_STAT_LINK i) sub true)).put .HP_STAT_RATE i (rateOf (s.get .HP_CFG_MODE i))
      s.discover port sub)

/-- A sub-port's link is gone (R303, R310, R316). -/
def State.linkDown (s : State) (port sub : Nat) : State :=
  if !s.subLink port sub then s
  else
    let i := instPort port
    let l := withBit (s.get .HP_STAT_LINK i) sub false
    let s := (s.put .HP_STAT_LINK i l).bump .HP_CNT_LINK_DOWN i 1
    let s := if l = 0 then s.put .HP_STAT_RATE i 0 else s
    (s.ing.heads.filter fun x => (x.portA == port && x.subA == sub) || (x.paired && x.portB == port && x.subB == sub)).foldl
      (fun s x =>
        let (la, lb) := s.headLinks x
        if la || lb then s else s.headAbsent x 1) s

/-- HEAD_LINK_DOWN (R303). -/
def execHeadLinkDown (port : Fin 16) (sub : Fin 4) (s : State) : Res := .next (s.linkDown port sub)

/-- GVCP_DISCOVERY (R307). -/
def execGvcpDiscovery (port : Fin 16) (sub : Fin 4) (s : State) : Res := .next (s.discover port sub)

/-- An answer matches an entry on its port and sub-port (R307, R308). -/
def ansMatches (x : Strm) (port sub : Nat) (a : GvcpAnswer) : Bool :=
  let here := (x.portA == port && x.subA == sub) || (x.paired && x.portB == port && x.subB == sub)
  let m := bitsOf (x.w 0) 1 0
  let mac := bitsOf (x.w 1) 47 0 == a.mac.toNat
  let ser := x.w 2 + x.w 3 * 2 ^ 64 == a.serial.toNat
  here && (if m = 0 then ser else if m = 1 then mac else ser && mac)

/-- The register writes of an entry's INIT list; address 0 ends it. -/
def initWrites (x : Strm) : List (Nat × Nat) :=
  ([12, 13, 14, 15].map fun i => (bitsOf (x.w i) 31 0, bitsOf (x.w i) 63 32)).takeWhile fun y => y.1 != 0

/-- GVCP_ANSWER (R307): a matching head is configured in six steps; one it answers with an error stops there with code
0x82. Code 0x88 for an answer that matches nothing. -/
def execGvcpAnswer (port : Fin 16) (sub : Fin 4) (ans : GvcpAnswer) (s : State) : Res :=
  .next (
    if !s.subLink port sub then s
    else match s.ing.heads.find? fun x => ansMatches x port sub ans with
    | none => s.logSec (port / 8) (ingStop port) 0x88 [port, sub, ans.mac.toNat]
    | some x =>
      let first := x.firstPort port sub
      if x.confOn first && x.ipOn first = ans.ip.toNat then s
      else
        let pre := s.get .HP_ADDR_PREFIX (instSub port sub)
        let mine := s.get .HP_ADDR_IPV4 (instSub port sub)
        let inNet := ans.ip.toNat / 2 ^ (32 - pre) == mine / 2 ^ (32 - pre)
        let q := (if first then x.a else x.b.getD x.a) % 8
        let ip := if inNet then ans.ip.toNat else (Config.forcedIp ans.mac (BitVec.ofNat 32 mine) pre).toNat
        let send := fun (s : State) (k : Nat) (l : List Nat) => s.emit (.head port sub k l)
        let go := fun (n : Nat) => match ans.failStep with | some f => decide (n < f.val) | none => true
        let s := if !inNet then send s headForceIp [ans.mac.toNat, ip] else s
        let s := if go 1 then send s headWrite [2] else s
        let s := if go 2 then send s headWrite [3, mine, 49152 + q] else s
        let s := if go 3 then send s headWrite [4, x.pktBytes] else s
        let s := if go 4 then send s headWrite [5, 1000] else s
        let s := if go 5 then (initWrites x).foldl (fun s y => send s headWrite [6, y.1, y.2]) s else s
        match ans.failStep with
        | some f => s.logPol (port / 8) (ingStop port) 0x82 x.pol [x.a, f]
        | none => s.updStrm x.a fun y => y.setConf first ip)

/-- HEAD_HEARTBEAT (R310). -/
def execHeadHeartbeat (stream : Fin 128) (answered ptpSlave : Bool) (s : State) : Res :=
  .next (match s.strm stream with
    | none => s
    | some x =>
      if !x.conf && !x.confB then s
      else
        let first := x.conf && ((s.headLinks x).1 || !x.confB)
        let s := if first then s.emit (.head x.portA x.subA headRead []) else s.emit (.head x.portB x.subB headRead [])
        let n := if answered then 0 else x.hbMissed + 1
        let s := s.updStrm x.a fun y => { y with hbMissed := n, unsync := if answered then !ptpSlave else y.unsync }
        if n = 3 then s.headAbsent x 2 else s)

/-! ### Frames and PTP (R302, R304, R305) -/

/-- A frame dropped and counted in HP_CNT.FOREIGN. -/
def State.foreign (s : State) (port : Nat) : State := s.bump .HP_CNT_FOREIGN (instPort port) 1

/-- HEAD_FRAME (R302). -/
def execHeadFrame (port : Fin 16) (sub : Fin 4) (f : HeadFrame) (s : State) : Res :=
  .next (
    let i := instPort port
    let ip := s.get .HP_ADDR_IPV4 (instSub port sub)
    if !s.subLink port sub then s
    else if !f.fecOk then s.bump .HP_CNT_FEC_UNCORR i 1
    else if !f.fcsOk then s.bump .HP_CNT_FCS_ERR i 1
    else if f.vid.toNat ≠ s.get .HP_ADDR_VID (instSub port sub) || 9216 < f.len then s.foreign port
    else match f.kind with
    | .arp a => if a.toNat = ip then s.emit (.head port sub headArp [ip]) else s.foreign port
    | .icmpEcho a d => if a.toNat = ip then s.emit (.head port sub headEcho (d.map fun b => b.toNat)) else s.foreign port
    | .pause => s
    | .gvcp | .gvsp | .ptp => s
    | .fragment | .options | .other => s.foreign port)

/-- The time served on the head ports (R305). -/
def State.headTime (s : State) : Nat := unsigned64 (s.now + signed64 (s.get .PTP_EPOCH_OFFSET 0))

/-- The sub-port may be the package's PTP slave (R304), and the best master clock algorithm has made it one. -/
def State.maySlave (s : State) (port sub : Nat) : Bool :=
  s.flag .PTP_CFG_SLAVE_EN 0 && s.get .PTP_CFG_SLAVE 0 == port * 4 + sub
def State.isSlave (s : State) (port sub : Nat) : Bool := s.maySlave port sub && s.ing.slaved

/-- The servo's correction for a Sync that left the master at served time `t1` and arrived at PTIME `t2` (R81): the offset
is slewed as a phase correction. The servo's law is Clasto's (DESIGN CHOICE, log entry 28). -/
def State.servo (s : State) (t1 t2 : Nat) : State :=
  if s.get .PT_CTL_SRC 0 = 1 then
    let off := signed64 (unsigned64 ((t1 : Int) - signed64 (s.get .PTP_EPOCH_OFFSET 0) + s.ing.delay - t2))
    (s.sourceLost false).servoPhase off
  else s

/-- PTP_MESSAGE (R304): the sub-port of SLAVE judges every Announce by the best master clock algorithm; as a slave it follows Sync
and measures the delay. Every other sub-port is master, whatever is announced, and answers Delay_Req. Event messages are stamped on
arrival; a message of another domain is dropped. -/
def execPtpMessage (port : Fin 16) (sub : Fin 4) (kind : PtpKind) (domain : BitVec 8) (body : Word) (s : State) : Res :=
  .next (
    if !s.subOn port sub || !s.subLink port sub || domain.toNat ≠ s.get .PTP_CFG_DOMAIN 0 then s
    else if kind = .announce then
      (if s.maySlave port sub then
        let b := Config.betterMaster body (s.get .PTP_CFG_PRIO1 0) (s.get .PTP_CFG_PRIO2 0)
        s.updIng fun g => { g with slaved := b }
       else s)
    else if s.isSlave port sub then
      match kind with
      | .sync true => s.updIng fun g => { g with syncAt := s.now }
      | .sync false => (s.servo body.toNat s.now).updIng fun g => { g with syncAt := s.now }
      | .followUp =>
        let now := s.now
        ((s.servo body.toNat s.ing.syncAt).emit (.head port sub headDelayReq [])).updIng fun g => { g with reqAt := now }
      | .delayResp =>
        -- half the round trip: the request left at reqAt and the master stamped it at `body`
        let up := signed64 (unsigned64 ((body.toNat : Int) - signed64 (s.get .PTP_EPOCH_OFFSET 0) - s.ing.reqAt))
        s.updIng fun g => { g with delay := (g.delay + up) / 2 }
      | _ => s
    else match kind with
      | .delayReq => s.emit (.head port sub headDelayResp [s.headTime])
      | _ => s)

/-- PTP_SYNC_SEND (R304): Announce with the domain and priorities of PTP_CFG (log entry 28), then Sync: one-step with its time in
the Sync, or two-step with a Follow_Up. -/
def execPtpSyncSend (port : Fin 16) (sub : Fin 4) (s : State) : Res :=
  .next (
    if !s.subOn port sub || !s.subLink port sub || s.isSlave port sub then s
    else
      let d := s.get .PTP_CFG_DOMAIN 0
      let s := s.emit (.head port sub headAnnounce [d, s.get .PTP_CFG_PRIO1 0, s.get .PTP_CFG_PRIO2 0])
      if s.flag .PTP_CFG_ONE_STEP 0 then s.emit (.head port sub headSync [d, s.headTime])
      else (s.emit (.head port sub headSync [d])).emit (.head port sub headFollowUp [d, s.headTime]))

/-! ### Writing with placement (R249, R318, R320) -/

/-- A push after a memory write, to a core's L2 or its die's cache (R193, R194, R249). -/
def State.pushTo (s : State) (g la : Nat) (die : Bool) (pol : Nat) : State :=
  if (s.core g).pow = 3 || (s.core g).pol ≠ pol || (s.trk (s.home la) la).isSome then s
  else
    let h := s.home la
    let d := g / 20
    let m : Msg := { plainMsg .data (mcStop h (s.dCh la)) (if die then stopId d (dcSlice la) else coreStop g) la
      (2 + (if die then 4 else 0) + g % 20 * 8) 0 with data := s.ramLine la, pol := Fin.ofNat 32 pol, sec := s.polSecure pol }
    match s.dirWay h la, s.dirEnt h la with
    | none, none => s
    | _, old => (s.recordPush h la (2 ^ d) (old.map (·.gstamp))).pushIn m

/-- Ingest writes bytes with the tag of the bound polder, line by line under R70, and pushes each line to a target. -/
def State.ingWrite (s : State) (x : Strm) (a : Nat) (bs : List Byte) (tgt : Option Nat) (n : Nat) : State :=
  match n with
  | 0 => s
  | k + 1 =>
    let sec := s.polSecure x.pol
    let s :=
      match s.rgnCheck x.pol sec true a with
      | some why => s.refuse x.lead (.ingest (Fin.ofNat 128 x.leadStream)) x.pol sec a why
      | none =>
        let s := s.writeBytes a (bs.take 64)
        match tgt with
        | some g => (s.pushTo g (a / 64) x.level x.pol).countHub x.lead 0x421 (x.leadStream / 8 % 8) (some x.pol)
        | none => s
    s.ingWrite x (a + 64) (bs.drop 64) tgt k

/-- The core a slot is pushed to (R320). -/
def State.slotTarget (s : State) (x : Strm) (no : Nat) : Option Nat :=
  if x.placeMode = 1 then s.coreOf x.pol (x.tgt 0)
  else if x.placeMode = 2 then s.coreOf x.pol (x.tgt (no % (x.ntgt + 1)))
  else none

/-- Slot `no` of the ring. -/
def Strm.slotAddr (x : Strm) (no : Nat) : Nat := x.ringBase + no % max x.nSlots 1 * x.slotBytes

/-- Header words (R317). -/
def SlotRec.words (r : SlotRec) : List Nat :=
  [r.no, r.seq, r.stamp, r.block, r.line + r.count * 2 ^ 16 + r.flags * 2 ^ 32, r.missing, 0, markOf r.no]

def flGap : Nat := 1
def flLate : Nat := 2
def flIncomplete : Nat := 4
def flEst : Nat := 8
def flRestart : Nat := 16
def flDrop : Nat := 32
def flUnsync : Nat := 64

/-- The ring is full for the next slot (R325). -/
def Strm.ringFull (x : Strm) : Bool := decide (x.held + x.nSlots ≤ x.nextSlot)

/-- Give the next slot number to a record; its payload goes out, its header waits for acceptance (R318). -/
def State.newSlot (s : State) (x : Strm) (r : SlotRec) (data : List Byte) : State :=
  let r := { r with no := x.nextSlot, flags := r.flags + (if x.restart then flRestart else 0) + (if x.unsync then flUnsync else 0) }
  let s := if data.isEmpty then s
    else s.ingWrite x (x.slotAddr r.no + 64) (data ++ List.replicate (x.slotBytes - 64 - data.length) 0) (s.slotTarget x r.no)
      (x.slotBytes / 64 - 1)
  s.updStrm x.a fun y =>
    { y with slots := y.slots ++ [r], nextSlot := y.nextSlot + 1, restart := false,
             full := y.full || decide (y.held + y.nSlots ≤ y.nextSlot + 1) }

/-- A gap slot that covers lines (R317, R319, R325). -/
def gapRec (seq stamp count flags : Nat) : SlotRec :=
  { no := 0, seq := seq, stamp := stamp, block := 0, line := 0, count := count, flags := flGap + flags, missing := 0, accAt := 0 }

/-- The dropped run gets its gap slot once the ring has room (R325). -/
def State.flushDrop (s : State) (a : Nat) : State :=
  match s.strm a with
  | none => s
  | some x =>
    if x.dropCount = 0 || x.ringFull then s
    else (s.newSlot x (gapRec x.dropSeq x.dropStamp (min x.dropCount 65535) flDrop) []).updStrm a fun y =>
      { y with dropCount := y.dropCount - min x.dropCount 65535, dropSeq := y.dropSeq + min x.dropCount 65535 }

/-- RING_FULL_DROP (R325). -/
def State.dropLine (s : State) (x : Strm) (seq stamp : Nat) : State :=
  (s.bump .STR_CNT1_DROP (instStr x.leadStream) 1).updStrm x.a fun y =>
    { y with dropped := y.dropped + 1, full := true, dropCount := y.dropCount + 1,
             dropSeq := if y.dropCount = 0 then seq else y.dropSeq, dropStamp := if y.dropCount = 0 then stamp else y.dropStamp }

/-! ### The reorder window (R313, R314) -/

/-- The positions of the payload packets of line `n` of the run, and its leader's. -/
def Strm.linePos (x : Strm) (n : Nat) : List Nat :=
  let k := n / max x.blockLines 1
  let o := n % max x.blockLines 1 * x.lineBytes
  let j0 := o / max x.pktBytes 1
  let j1 := (o + x.lineBytes - 1) / max x.pktBytes 1
  k * x.nPos :: (List.range (j1 + 1 - j0)).map fun i => k * x.nPos + 1 + j0 + i

/-- A position is received or given up. -/
def Strm.settled (x : Strm) (p : Nat) : Bool := decide (p < x.lo) || x.got.any fun g => g.pos == p

/-- Start the window at the oldest position not received. -/
def Strm.advance (x : Strm) : Nat → Strm
  | 0 => x
  | n + 1 => if x.got.any fun g => g.pos == x.lo then ({ x with lo := x.lo + 1 }).advance n else x

/-- The bytes of line `n` as received, missing ones zero, with how many are missing. -/
def Strm.lineData (x : Strm) (n : Nat) : List Byte × Nat :=
  let k := n / max x.blockLines 1
  let o := n % max x.blockLines 1 * x.lineBytes
  let at_ := fun i : Nat =>
    let j := (o + i) / max x.pktBytes 1
    match x.got.find? fun g => g.pos == k * x.nPos + 1 + j with
    | some g => g.data[(o + i) % max x.pktBytes 1]?
    | none => none
  let bs := (List.range x.lineBytes).map at_
  (bs.map fun b => b.getD 0, (bs.filter fun b => b.isNone).length)

/-- The stamp of line `n` and whether it is estimated (R314); with no previous block in the run the estimate is free (log
entry 135). -/
def State.lineStamp (s : State) (x : Strm) (n : Nat) : Nat × Bool :=
  let bl := max x.blockLines 1
  let k := n / bl
  match x.stamps.lookup k with
  | some t => (unsigned64 ((t : Int) - signed64 (s.get .PTP_EPOCH_OFFSET 0) + (n % bl * x.lineNs : Nat)), false)
  | none =>
    match x.prev with
    | some (k0, t0) => (t0 + ((k - k0) * bl + n % bl) * x.lineNs, true)
    | none => (s.fresh.toNat, true)

/-- Line `n` leaves the window (LINE_LEAVES_WINDOW, R313, R314, R325). -/
def State.leaveLine (s : State) (x : Strm) (n : Nat) : State :=
  let bl := max x.blockLines 1
  let (t, est) := s.lineStamp x n
  let (b0, seq0) := x.run.getD (0, 0)
  let seq := seq0 + n
  let s := (if est && x.prev.isNone then s.drawn else s).updStrm x.a fun y =>
    { y with line := n + 1, prev := if n % bl = 0 then some (n / bl, t) else y.prev,
             lastStamp := if y.covered ≤ seq then some (seq, t) else y.lastStamp, covered := max y.covered (seq + 1) }
  let s := s.flushDrop x.a
  match s.strm x.a with
  | none => s
  | some y =>
    if y.ringFull || 0 < y.dropCount then s.dropLine y seq t
    else
      let (data, missing) := x.lineData n
      s.newSlot y { no := 0, seq := seq, stamp := t, block := b0 + n / bl, line := n % bl, count := 1,
                    flags := (if missing = 0 then 0 else flIncomplete) + (if est then flEst else 0), missing := missing, accAt := 0 } data

/-- Blocks from `k` on of which nothing was received and every position is given up. -/
def Strm.lostBlocks (x : Strm) (k : Nat) : Nat :=
  let nxt := (x.got.map fun g => g.pos / x.nPos).filter fun b => k ≤ b
  min (nxt.foldl min (x.lo / x.nPos)) (x.lo / x.nPos) - k

/-- A run of missing blocks is covered by one gap slot (R314, R317). -/
def State.leaveGap (s : State) (x : Strm) (blocks : Nat) : State :=
  let bl := max x.blockLines 1
  let n := min (blocks * bl) (65535 / bl * bl)
  let (t, est) := s.lineStamp x x.line
  let seq := (x.run.getD (0, 0)).2 + x.line
  let s := (if est && x.prev.isNone then s.drawn else s).updStrm x.a fun y =>
    { y with line := y.line + n, prev := some (x.line / bl, t), lastStamp := some (seq + n - 1, t + (n - 1) * x.lineNs),
             covered := max y.covered (seq + n) }
  let s := s.flushDrop x.a
  match s.strm x.a with
  | none => s
  | some y =>
    if y.ringFull || 0 < y.dropCount then
      s.updStrm x.a fun y => { y with dropCount := y.dropCount + n, dropSeq := if y.dropCount = 0 then seq else y.dropSeq,
                                      dropStamp := if y.dropCount = 0 then t else y.dropStamp, full := true }
    else s.newSlot y (gapRec seq t n 0) []

/-- Complete lines leave in sequence order (R313). -/
def State.leaveLines (s : State) (a : Nat) : Nat → State
  | 0 => s
  | k + 1 =>
    match s.strm a with
    | none => s
    | some x =>
      let bl := max x.blockLines 1
      let lost := if x.line % bl = 0 then x.lostBlocks (x.line / bl) else 0
      if x.run.isNone || s.lost x.lead then s
      else if 0 < lost && 65535 / bl ≠ 0 then (s.leaveGap x lost).leaveLines a k
      else if (x.linePos x.line).all x.settled then (s.leaveLine x x.line).leaveLines a k
      else s

/-- What lines that have left no longer need is let go. -/
def Strm.trim (x : Strm) : Strm :=
  let k := x.line / max x.blockLines 1
  let keep := (x.linePos x.line).getD 1 0
  { x with got := x.got.filter fun g => decide (keep ≤ g.pos) || decide (x.lo ≤ g.pos),
           stamps := x.stamps.filter fun y => decide (k ≤ y.1) }

/-- Let every line go that can. -/
def State.settleWindow (s : State) (a : Nat) : State :=
  match s.strm a with
  | none => s
  | some x =>
    let s := s.leaveLines a (x.got.length * 150 + x.lo + 2048)
    (s.updStrm a fun y => y.trim).syncStrm a

/-- Begin a run (R314): lines of the old one leave first, then SEQ goes on with the new block as b₀. -/
def State.newRun (s : State) (x : Strm) (block : Nat) (mark : Bool) : State :=
  let top := (x.got.map fun g => g.pos + 1).foldl max x.lo
  let s := (s.updStrm x.a fun y => { y with lo := top }).settleWindow x.a
  s.updStrm x.a fun y =>
    let seq := match y.run with | some (_, q) => q + y.line | none => y.covered
    { y with run := some (block, max seq y.covered), lo := 0, got := [], stamps := [], prev := none, line := 0,
             restart := y.restart || mark }

/-- The newest packet position received or given up. -/
def Strm.front (x : Strm) : Nat := (x.got.map (·.pos)).foldl max (x.lo - 1)

/-- A packet of block `b` at `pid` begins a new run (R314): its block lies more than 2²⁰ above the last one, or below it and
out of the reorder window's reach, where it is no late packet and no second copy under R313 (log entry 141). -/
def Strm.jumps (x : Strm) (b pid : Nat) : Bool :=
  match x.run with
  | none => false
  | some (b0, _) =>
    decide (b < b0) || decide (x.lastBlock + 2 ^ 20 < b) ||
      decide (b < x.lastBlock) && decide ((b - b0) * x.nPos + pid + 1024 ≤ x.front)

/-- A packet takes its position in the window (R313); the leader's time stamp is kept for its block. -/
def Strm.take (x : Strm) (k pos now via : Nat) (kind : GvspKind) : Strm :=
  let y : Strm :=
    { x with
      got := x.got ++ [{ pos := pos, data := (match kind with | .payload d => d | _ => []), at_ := now, via := via }]
      lo := max x.lo (pos - 1023)
      stamps := (match kind with | .leader t => x.stamps ++ [(k, t.toNat)] | _ => x.stamps) }
  y.advance (y.got.length + 1)

/-- An accepted packet of a present head (R313 to R315), received on a port of half `h`. `again`: its head has just become present
again. -/
def State.acceptPkt (s : State) (x : Strm) (h : Nat) (pkt : GvspPacket) (again : Bool) : State :=
  let b := pkt.block.toNat
  let pid := match pkt.kind with | .leader _ => 0 | .trailer => x.nPkt + 1 | _ => pkt.pid.toNat
  let jump := again || x.jumps b pid
  let s := if jump then (s.newRun x b true).logPol x.lead (ingStop x.portA) 0x87 x.pol [x.a, x.lastBlock, b]
    else if x.run.isNone then s.newRun x b false else s
  match s.strm x.a with
  | none => s
  | some x =>
    let k := b - (x.run.getD (0, 0)).1
    let pos := k * x.nPos + pid
    if decide (pos < x.lo) || x.got.any (fun g => g.pos == pos) then
      let s := s.updStrm x.a fun y => { y with got := y.got.map fun g => if g.pos = pos then { g with via := g.via ||| 2 ^ h } else g }
      s.bump .STR_CNT1_DUP_PKT (instStr x.leadStream) 1
    else
      let now := s.now
      (s.updStrm x.a fun y => { y.take k pos now (2 ^ h) pkt.kind with lastBlock := if jump then b else max y.lastBlock b }).settleWindow x.a

/-- GVSP_PACKET (R306, R312 to R315). -/
def execGvspPacket (port : Fin 16) (slot : Fin 8) (pkt : GvspPacket) (s : State) : Res :=
  let n := port.val * 8 + slot.val
  .next (match s.strm n with
    | none => s.foreign port
    | some x =>
      let sub := if n = x.a then x.subA else x.subB
      let isLeader := match pkt.kind with | .leader _ => true | _ => false
      if !s.subLink port sub then s
      else if pkt.ip.toNat ≠ x.ipOn (n == x.a) || !x.confOn (n == x.a) then s.foreign port
      else if pkt.kind = .foreign || x.nPkt < pkt.pid.toNat && pkt.kind ≠ .trailer then
        s.bump .STR_CNT1_FOREIGN_PKT (instStr n) 1
      else if x.present then s.acceptPkt x (n / 64) pkt false
      else if isLeader then
        let s := s.headPresent x
        match s.strm n with
        | none => s
        | some y => s.acceptPkt y (n / 64) pkt x.ever
      else s)

/-- REORDER_TIMEOUT (R313): missing positions before a packet that has been held for REORDER_NS are given up. -/
def execReorderTimeout (stream : Fin 128) (s : State) : Res :=
  .next (match s.strm stream with
    | none => s
    | some x =>
      let old := (x.got.filter fun g => decide (g.at_ + x.reorderNs ≤ s.now) && decide (x.lo ≤ g.pos)).map (·.pos)
      if old.isEmpty then s
      else
        let lo := old.foldl max x.lo
        (s.updStrm x.a fun y => ({ y with lo := lo } : Strm).advance (y.got.length + 1)).settleWindow x.a)

/-- The oldest slot's header is written and accepted; LATE is known now (R317, R318, R321). -/
def State.acceptSlot (s : State) (x : Strm) : State :=
  match x.slots with
  | [] => s
  | r :: rest =>
    let late := match x.lastCut with | some (_, e, _) => decide (r.stamp < e) && r.flags % 2 == 0 | none => false
    let r := { r with flags := r.flags + (if late then flLate else 0), accAt := s.now }
    let i := instStr x.leadStream
    let s := s.ingWrite x (x.slotAddr r.no) (wordsLe r.words) (s.slotTarget x r.no) 1
    let s := if r.flags % 2 = 1 then s else (s.bump .STR_CNT0_LINES i 1).countHub x.lead 0x420 (x.leadStream / 8 % 8) (some x.pol)
    let s := if bitOf r.flags 2 then s.bump .STR_CNT0_INCOMPLETE i 1 else s
    let s := if late then s.bump .STR_CNT0_LATE i 1 else s
    (s.updStrm x.a fun y => { y with slots := rest, acc := y.acc ++ [r] }).syncStrm x.a

/-- Accept headers, oldest first, while `p` holds of the slots that wait. -/
def State.acceptWhile (s : State) (a : Nat) (p : List SlotRec → Bool) : Nat → State
  | 0 => s
  | n + 1 =>
    match s.strm a with
    | none => s
    | some x => if p x.slots then (s.acceptSlot x).acceptWhile a p n else s

/-- SLOT_HEADER_ACCEPT (R317, R318, R321). -/
def execSlotHeaderAccept (stream : Fin 128) (s : State) : Res :=
  .next (match s.strm stream with
    | none => s
    | some x => if s.lost x.lead then s else s.acceptSlot x)

/-! ### Cuts (R319, R321, R322, R324, R326) -/

/-- The next edge a stream has to cut: the oldest after its last cut's, whatever configuration made it (R328), or after its binding.
-/
def State.nextEdge (s : State) (x : Strm) : Option (Nat × Nat) :=
  let last := match x.lastCut with | some (_, e, _) => e | none => x.since
  ((s.ctx x.pol).edges.filter fun e => decide (last < e.2)).getLast?

/-- The gap slot of R319, if lines are expected before edge `e` that are neither written nor held. -/
def State.cutGap (s : State) (x : Strm) (e : Nat) : State :=
  match x.run, x.lastStamp with
  | some (_, seq0), some (q, t) =>
    let p := max x.lineNs 1
    let due := if t < e then (e - t - 1) / p else 0
    let heldIx := (x.got.filter fun g => decide (x.lo ≤ g.pos)).map fun g =>
      seq0 + g.pos / x.nPos * x.blockLines + (g.pos % x.nPos - 1) * x.pktBytes / max x.lineBytes 1
    let first := x.covered
    let stop := heldIx.foldl min (q + 1 + due)
    let n := min (stop - first) 65535
    if !x.ever || n = 0 then s
    else
      let s := s.flushDrop x.a
      match s.strm x.a with
      | none => s
      | some y =>
        let stamp := t + (first - q) * p
        let s := if y.ringFull || 0 < y.dropCount then
            s.updStrm x.a fun y => { y with dropCount := y.dropCount + n, dropSeq := if y.dropCount = 0 then first else y.dropSeq,
                                            dropStamp := if y.dropCount = 0 then stamp else y.dropStamp }
          else s.newSlot y (gapRec first stamp n 0) []
        s.updStrm x.a fun y => { y with covered := first + n }
  | _, _ => s

/-- A gap slot's header goes out before the cut is taken, and so do those of the slots before it (R319, R321). -/
def State.acceptGaps (s : State) (x : Strm) : State :=
  s.acceptWhile x.a (fun l => l.any fun r => r.flags % 2 == 1) x.slots.length

/-- The slots of a cut (R321): up to the last one stamped before the edge and accepted by the cut PTIME `by_`, where that
counts. -/
def cutSlots (acc : List SlotRec) (e : Nat) (by_ : Option Nat) : List SlotRec :=
  match (acc.filter fun r => decide (r.stamp < e) &&
    (match by_ with | some t => decide (r.accAt ≤ t) || r.flags % 2 == 1 | none => true)).getLast? with
  | some l => acc.filter fun r => decide (r.no ≤ l.no)
  | none => []

/-- The cut record's words (R322). -/
def cutWords (x : Strm) (k e first next : Nat) (l : List SlotRec) (solo delayed : Bool) : List Nat :=
  let lines := (l.filter fun r => r.flags % 2 == 0 && !bitOf r.flags 1).length
  let late := (l.filter fun r => bitOf r.flags 1).length
  let gaps := ((l.filter fun r => r.flags % 2 == 1).map (·.count)).sum
  let inc := (l.filter fun r => bitOf r.flags 2).length
  [k, e, first, next, lines % 2 ^ 16 + late % 2 ^ 16 * 2 ^ 16 + min gaps 65535 * 2 ^ 32 + inc % 2 ^ 16 * 2 ^ 48,
   x.dropped % 2 ^ 32 + b2n (x.ever && !x.present) * 2 ^ 32 + b2n x.full * 2 ^ 33 + b2n solo * 2 ^ 34 + b2n delayed * 2 ^ 35 +
     b2n (!x.ever) * 2 ^ 36, x.a, markOf k]

/-- A cut record goes to memory, and with CUT_PLACE to TGT0. -/
def State.writeCut (s : State) (x : Strm) (c : Cut) : State :=
  s.ingWrite x (x.cutBase + c.tick % max x.cutDepth 1 * 64) (wordsLe c.words) (if x.cutPlace then s.coreOf x.pol (x.tgt 0) else none) 1

/-- Cut `k` of edge PTIME `e` is taken (R319 to R322, R326, R328): the record waits while the one it replaces is not freed;
a cut whose PTIME fell during a lead takeover covers all that the new lead has written. -/
def State.takeCut (s : State) (x : Strm) (k e : Nat) : State :=
  let took := match x.tookAt with | some t => decide (e + x.cutLag ≤ t) | none => false
  let l := cutSlots x.acc e (if took then none else some (e + x.cutLag))
  let first := x.cutFirst
  let next := match l.getLast? with | some r => r.no + 1 | none => first
  let busy := x.cuts.any fun c => c.tick % max x.cutDepth 1 == k % max x.cutDepth 1
  let delayed := busy || took || decide (e + x.cutLag + 2000 < s.now)
  let (la, lb) := s.headLinks x
  let c : Cut := { tick := k, first := first, next := next, written := !busy,
                   words := cutWords x k e first next l (x.paired && la != lb) delayed }
  let s := if busy then s else s.writeCut x c
  let inc := (l.filter fun r => bitOf r.flags 2).length
  let s := if x.dropped = 0 then s else s.logPol x.lead (ingStop x.portA) 0x83 x.pol [x.a, k, x.dropped]
  let s := if inc = 0 then s else s.logPol x.lead (ingStop x.portA) 0x84 x.pol [x.a, k, inc]
  let s := if delayed then s.logPol x.lead (ingStop x.portA) 0x86 x.pol [x.a, k] else s
  (s.updStrm x.a fun y =>
    { y with cuts := y.cuts ++ [c], cutFirst := next, lastCut := some (k, e, e + x.cutLag), dropped := 0,
             full := y.ringFull, acc := y.acc.filter fun r => decide (next ≤ r.no) }).syncStrm x.a

/-- CUT_TAKE (R319 to R322, R326): at edge + CUT_LAG. -/
def execCutTake (stream : Fin 128) (s : State) : Res :=
  .next (match s.strm stream with
    | none => s
    | some x0 =>
      match s.nextEdge x0 with
      | none => s
      | some (k, e) =>
        if s.now < e + x0.cutLag || s.lost x0.lead then s
        else
          let s := s.cutGap x0 e
          let s := match s.strm x0.a with | some x => s.acceptGaps x | none => s
          match s.strm x0.a with
          | none => s
          | some x => s.takeCut x k e)

/-- CUT_RECORD_DELAYED (R326): the oldest record not written, once its position is free. -/
def execCutRecordDelayed (stream : Fin 128) (s : State) : Res :=
  .next (match s.strm stream with
    | none => s
    | some x =>
      match x.cuts.find? fun c => !c.written with
      | none => s
      | some c =>
        let d := max x.cutDepth 1
        if s.lost x.lead || x.cuts.any fun y => y.written && y.tick % d == c.tick % d then s
        else (s.writeCut x c).updStrm x.a fun y =>
          { y with cuts := y.cuts.map fun z => if z.tick = c.tick then { z with written := true } else z })

/-- Every core of a polder has closed tick `k` or did not take it (R133, R324). -/
def State.tickClosed (s : State) (p k : Nat) : Bool :=
  let busy := fun g : Nat =>
    let t := (s.core g).t
    (t.isOpen || t.step != 0 || t.recovering && t.cur.rerun) && decide (t.cur.num ≤ k) ||
      (match t.pend with | some m => decide (m.num ≤ k) | none => false) || t.backlog.any fun m => decide (m.num ≤ k)
  match s.polder p with
  | some v => !v.guarded || v.cores.all fun g => !busy g
  | none => true

/-- Free the oldest cuts that a release covers and every core has closed, in order (R324). -/
def State.freeCuts (s : State) (a : Nat) : Nat → State
  | 0 => s
  | n + 1 =>
    match s.strm a with
    | none => s
    | some x =>
      match x.cuts with
      | [] => s
      | c :: rest =>
        if c.tick ≤ x.released && c.written && s.tickClosed x.pol c.tick then
          (s.updStrm a fun y => { y with cuts := rest, held := c.next }).freeCuts a n
        else s

/-- After cuts are freed the dropped run gets its gap slot, and lines that wait go on. -/
def State.afterFree (s : State) (a : Nat) : State :=
  match s.strm a with
  | none => s
  | some x => ((s.freeCuts a (x.cuts.length + 1)).flushDrop a).syncStrm a

/-- CUT_FREE (R324). -/
def execCutFree (stream : Fin 128) (s : State) : Res :=
  .next (match s.strm stream with
    | some x => s.afterFree x.a
    | none => s)

/-- The newest cut published: taken, with its record written (R323, R326). -/
def Strm.published (x : Strm) : Option Nat :=
  match (x.cuts.filter (·.written)).getLast? with
  | some c => some c.tick
  | none => if x.cuts.isEmpty then x.lastCut.map (·.1) else none

/-- A release of tick `n` for one logical stream (R323): clamped to the newest cut published, never backward. -/
def State.releaseCut (s : State) (x : Strm) (n : Nat) : State :=
  match x.published with
  | none => s
  | some k =>
    let m := min n k
    if m < x.released then s
    else
      let s := s.updStrm x.a fun y => { y with released := m }
      (x.streams.foldl (fun s q => s.put .CUT_REL_TICK (instD x.pol q) m) s).afterFree x.a

/-- The physical address of a mailbox register (R22, R33). -/
def mboxAddr (h p o : Nat) : Nat := hubAddr h (0xD0000000 + p * 0x10000 + o)

/-- The effect of a write to CUT_REL (R323): a stream not bound to the polder is logged with code 0x89. -/
def State.cutRel (s : State) (p stream v : Nat) : State :=
  match s.strm stream with
  | some x => if x.pol = p then s.releaseCut x (v % 2 ^ 48) else s.logPolSec s.activeHalf (ingStop 0) 0x89 p [stream]
  | none => s.logPolSec s.activeHalf (ingStop 0) 0x89 p [stream]

/-- The effect of a write to CUT_REL_ALL. -/
def State.cutRelAll (s : State) (p v : Nat) : State :=
  (s.ing.heads.filter fun x => x.pol == p).foldl (fun s x => s.releaseCut x (v % 2 ^ 48)) s

/-- The mailbox set of a polder: a non-secure tag reaches only its own (R78). -/
def State.mboxAccess (s : State) (a : Acc) (p o : Nat) (f : State → State) : State :=
  if a.sec || a.pol.val == p && !s.polSecure p then f s
  else s.refuse s.activeHalf a.src a.pol a.sec (mboxAddr s.activeHalf p o) 5

/-- CUT_REL (R323). -/
def execCutRel (a : Acc) (p : Pol) (stream : Fin 128) (v : Word) (s : State) : Res :=
  .next (s.mboxAccess a p (0x2000 + stream * 8) fun s => s.cutRel p stream v.toNat)

/-- CUT_REL_ALL (R323). -/
def execCutRelAll (a : Acc) (p : Pol) (v : Word) (s : State) : Res :=
  .next (s.mboxAccess a p 0x2400 fun s => s.cutRelAll p v.toNat)

/-- INGEST_LEAD_TAKEOVER (R316): with the lead's half lost the shadow becomes lead and writes every line not acknowledged,
in sequence order, into the slots after the last acknowledged one; of the window it holds what its own port received. Code
0x85. -/
def execIngestLeadTakeover (stream : Fin 128) (s : State) : Res :=
  .next (match s.strm stream with
    | none => s
    | some x =>
      if !x.paired || !s.lost x.lead then s
      else
        let now := s.now
        let s := (s.updStrm x.a fun y => { y with lead := 1 - y.lead, tookAt := some now, got := y.got.filter fun g => g.via.testBit (1 - y.lead) }).logPol (1 - x.lead) (ingStop x.portA) 0x85
          x.pol [x.a]
        (s.acceptWhile x.a (fun l => !l.isEmpty) x.slots.length).settleWindow x.a)

/-! ### Binding (R308, R309, R327) -/

def specHeadBind : OpSpec :=
  { secureOnly := true, namesPol := true, needsPhase7 := true, powerFail := false, dmodes := [1], writesBuf := false, m0 := 0, m1 := 0 }

/-- The cut depths of R308. -/
def cutDepths : List Nat := [4, 8, 16, 32, 64, 128, 256, 512, 1024]

/-- A range lies within Normal regions the polder may read and write. -/
def State.normalRange (s : State) (p a n : Nat) : Bool :=
  decide (a + n ≤ s.memSize) && s.rangeOk p (s.polSecure p) true a n &&
    (List.range ((a + n - 1) / 0x200000 - a / 0x200000 + 1)).all fun i => !s.rgnDevice (a / 0x200000 * 0x200000 + i * 0x200000)

/-- Field checks of a HEAD_BIND entry (R308). -/
def headFieldsOk (x : Strm) : Bool :=
  let w := x.w
  bitsOf (w 0) 1 0 != 3 && bitsOf (w 0) 7 2 == 0 && bitsOf (w 0) 15 14 == 0 && bitsOf (w 0) 63 23 == 0 &&
    bitsOf (w 1) 63 48 == 0 && decide (64 ≤ x.lineBytes) && decide (x.lineBytes ≤ 65536) && bitsOf (w 4) 31 17 == 0 &&
    bitsOf (w 4) 47 46 == 0 && decide (256 ≤ x.pktBytes) && decide (x.pktBytes ≤ 8960) && x.pktBytes % 4 == 0 &&
    decide (1 ≤ x.blockLines) && bitsOf (w 6) 63 52 == 0 && w 6 % 4096 == 0 && decide (16 ≤ x.nSlots) &&
    cutDepths.contains x.cutDepth && bitsOf (w 7) 63 27 == 0 && bitsOf (w 8) 63 52 == 0 && w 8 % 64 == 0 &&
    x.placeMode != 3 && bitsOf (w 9) 31 7 == 0 && decide (1000 ≤ x.reorderNs) && decide (x.reorderNs ≤ 1000000) && w 11 == 0 &&
    decide (1000 ≤ x.cutLag)

/-- The remaining INVALID_FIELD cases of R309. -/
def State.headOk (s : State) (p : Nat) (x : Strm) : Bool :=
  headFieldsOk x && x.paired == s.guardedCfg &&
    (!s.guardedCfg || decide (x.portA < 8) && decide (8 ≤ x.portB)) &&
    s.subExists x.portA x.subA && (!x.paired || s.subExists x.portB x.subB) && s.polTickBound p &&
    decide (x.cutLag + bitsOf (s.tk p 3) 63 32 + s.tkGuard p ≤ s.tkPeriod p) &&
    s.normalRange p x.ringBase (x.nSlots * x.slotBytes) && s.normalRange p x.cutBase (x.cutDepth * 64)

/-- Two entries match the same head (R309). -/
def sameHead (x y : Strm) : Bool :=
  let m := fun z : Strm => bitsOf (z.w 0) 1 0
  let mac := bitsOf (x.w 1) 47 0 == bitsOf (y.w 1) 47 0
  let ser := x.w 2 == y.w 2 && x.w 3 == y.w 3
  m x != 1 && m y != 1 && ser || m x != 0 && m y != 0 && mac

/-- The lowest free stream of a port's engine. -/
def State.freeStream (s : State) (port : Nat) : Option Nat :=
  ((List.range 8).map (port * 8 + ·)).find? fun n => (s.strm n).isNone

/-- An entry before any stream is chosen. -/
def newStrm (p : Nat) (words : List Nat) : Strm :=
  { words := words, pol := p, a := 0, b := none, lead := 0, conf := false, ip := 0, confB := false, ipB := 0, ever := false, present := false, hbMissed := 0,
    unsync := false, run := none, lastBlock := 0, restart := false, lo := 0, got := [], stamps := [], prev := none, line := 0,
    covered := 0, lastStamp := none, dropSeq := 0, dropStamp := 0, dropCount := 0, nextSlot := 0, held := 0, slots := [], acc := [],
    cuts := [], cutFirst := 0, lastCut := none, since := 0, released := 0, dropped := 0, full := false, tookAt := none, changedAt := 0 }

/-- The binding registers of a stream. -/
def State.putBind (s : State) (n : Nat) (ws : List Nat) : State :=
  (List.range 16).foldl (fun s i => s.put .STR_BIND_WORD (instH (n / 64) (n % 64 * 16 + i)) (ws.getD i 0)) s

/-- Load an entry into its streams (R309, R315). -/
def State.bindHead (s : State) (x : Strm) : State :=
  let x := { x with since := s.now, lead := if x.paired then s.get .TK_CTL_PREF x.pol else x.a / 64 }
  let s := s.updIng fun g => { g with heads := g.heads ++ [x] }
  (x.streams.foldl (fun s n => s.putBind n x.words) s).syncStrm x.a

/-- HEAD_BIND (R308, R309). -/
def execHeadBind (c : Cmd) (s : State) : Res :=
  .next (runCmd specHeadBind c (fun s =>
    let p := c.e.polder
    let x := newStrm p ((List.range 16).map (s.bufWord c))
    if s.bufLen c ≠ 128 then (s, resErr stInvalidBuffer)
    else if !s.headOk p x then (s, resErr stInvalidField)
    else if s.ing.heads.any (sameHead x) then (s, resErr stBusy)
    else if s.cp.blockFailed then (s.updCp fun q => { q with blockFailed := false }, resErr stNoResource)
    else if 128 ≤ s.ing.heads.length then (s, resErr stNoResource)
    else match s.freeStream x.portA with
      | none => (s, resErr stNoResource)
      | some a =>
        if x.paired then
          match s.freeStream x.portB with
          | none => (s, resErr stNoResource)
          | some b => (s.bindHead { x with a := a, b := some b }, resOk a)
        else (s.bindHead { x with a := a }, resOk a)) s)

/-- Stop a logical stream (R327): control of the head is given up, and its entry leaves the HEAD_BIND table. -/
def State.unbindHead (s : State) (x : Strm) : State :=
  let s := if x.conf then s.emit (.head x.portA x.subA headRelease []) else s
  let s := if x.confB then s.emit (.head x.portB x.subB headRelease []) else s
  let s := s.updIng fun g => { g with heads := g.heads.filter fun y => y.a != x.a }
  x.streams.foldl (fun s n =>
    let i := instStr n
    let s := (s.putBind n []).put .STR_STAT_STATE i 0
    ((s.setFlag .STR_STAT_LEAD i false).setFlag .STR_STAT_PAIR_LIVE i false).setFlag .STR_STAT_FULL i false) s

def specHeadUnbind : OpSpec :=
  { secureOnly := true, namesPol := false, needsPhase7 := false, powerFail := false, dmodes := [0], writesBuf := false, m0 := 0x7F, m1 := 0 }

/-- HEAD_UNBIND (R327). -/
def execHeadUnbind (c : Cmd) (s : State) : Res :=
  .next (runCmd specHeadUnbind c (fun s =>
    match s.strm (bitsOf c.e.p0 6 0) with
    | some x => (s.unbindHead x, resOk)
    | none => (s, resErr stNoSuchObject)) s)

def specSetHp : OpSpec :=
  { secureOnly := false, namesPol := false, needsPhase7 := false, powerFail := false, dmodes := [0], writesBuf := false,
    m0 := 0xFFFF, m1 := 0xFFF }

/-- HP_CFG of a port as one word. -/
def State.hpCfg (s : State) (port : Nat) : Nat :=
  let i := instPort port
  s.get .HP_CFG_MODE i + s.get .HP_CFG_AN_EN i * 4 + s.get .HP_CFG_SUB_EN i * 256

/-- The port retrains in the mode of a new HP_CFG: every link of it goes down first. -/
def State.setHpCfg (s : State) (port v : Nat) : State :=
  let i := instPort port
  let s := (List.range 4).foldl (fun s b => s.linkDown port b) s
  ((s.put .HP_CFG_MODE i v).put .HP_CFG_AN_EN i (v / 4)).put .HP_CFG_SUB_EN i (v / 256)

/-- A register write of HP_CFG (R301, R302): MODE is changed only by the command; a sub-port disabled loses its link. -/
def State.hpCfgWrite (s : State) (port v : Nat) : State :=
  let i := instPort port
  let s := (s.put .HP_CFG_AN_EN i (v / 4)).put .HP_CFG_SUB_EN i (v / 256)
  (List.range 4).foldl (fun s b => if (v / 256).testBit b then s else s.linkDown port b) s

/-- SET_HP_CFG (R301): BUSY while any stream is bound to the port. -/
def execSetHpCfg (c : Cmd) (s : State) : Res :=
  .next (runCmd specSetHp c (fun s =>
    let port := bitsOf c.e.p0 15 0 - 0x400
    let v := c.e.p1
    if !s.srcSecure c.src then (s.silence c, resErr stNoSuchObject)
    else if 16 ≤ port || !hpCfgOk v then (s, resErr stInvalidField)
    else if s.ing.heads.any fun x => x.portA == port || x.paired && x.portB == port then (s, resErr stBusy)
    else (s.setHpCfg port v, resOk (s.hpCfg port))) s)

end Sys2Proof.Machine
end

