-- ==== Sys2Proof/Machine/Links.lean ====
section
/-! DEFINITION. Die-link modules (spec/12, R331 to R350): flits and retry, credits, training and capability exchange, lane
maps and their repair, retraining, sleep, module loss. -/
namespace Sys2Proof.Machine
open Sys2Proof

/-! ### Module ends -/

/-- The number of a module end: hub ends by half and module, then compute ends by die and half. -/
def endNo (l : LinkEnd) : Nat := if l.die then 26 + l.m * 2 + l.half else l.half * 13 + l.m
/-- The other end of the module. -/
def endPeer (l : LinkEnd) : LinkEnd := { l with die := !l.die }
/-- An end inside the package: every hub end, and the compute ends of modules 0 to 11. -/
def endOurs (l : LinkEnd) : Bool := !l.die || decide (l.m.val < 12)
def hubEnd (h : Half) (m : Fin 13) : LinkEnd := { half := h, m := m, die := false }
def dieEnd (h : Half) (m : Fin 13) : LinkEnd := { half := h, m := m, die := true }

def State.lk (s : State) (l : LinkEnd) : LkSt := Tbl.get LkSt.reset s.links (endNo l)
/-- Change an end of the package; the guest's own end is not part of it. -/
def State.updLk (s : State) (l : LinkEnd) (f : LkSt → LkSt) : State :=
  if endOurs l then { s with links := Tbl.set LkSt.reset s.links (endNo l) (f (s.lk l)) } else s

/-- The instance of an end's registers, and a field of them: the hub end's `LK_*` or the compute end's `LKC_*`. -/
def endInst (l : LinkEnd) : Nat := if l.die then instD l.m l.half else instH l.half l.m
def State.lkGet (s : State) (l : LinkEnd) (hub die : Fld) : Nat := s.get (if l.die then die else hub) (endInst l)
def State.lkPut (s : State) (l : LinkEnd) (hub die : Fld) (v : Nat) : State :=
  if endOurs l then s.put (if l.die then die else hub) (endInst l) v else s
def State.lkBump (s : State) (l : LinkEnd) (hub die : Fld) : State :=
  if endOurs l then s.bump (if l.die then die else hub) (endInst l) 1 else s

/-- LK_STAT.STATE of an end, and of a module by its hub end: 0 down, 1 training, 2 up, 3 asleep. -/
def State.lkState (s : State) (l : LinkEnd) : Nat := s.lkGet l .LK_STAT_STATE .LKC_STAT_STATE
def State.modState (s : State) (h : Half) (m : Fin 13) : Nat := s.lkState (hubEnd h m)

/-- Do the same at both ends of a module. -/
def State.bothEnds (s : State) (h : Half) (m : Fin 13) (f : State → LinkEnd → State) : State :=
  f (f s (hubEnd h m)) (dieEnd h m)
def State.setModState (s : State) (h : Half) (m : Fin 13) (v : Nat) : State :=
  let now := s.now
  s.bothEnds h m fun s l =>
    let s := s.lkPut l .LK_STAT_STATE .LKC_STAT_STATE v
    if v = 2 then s.updLk l fun k => { k with goodAt := now } else s

/-- The link stop that ends module `m` on its hub half (R238): two dies to a stop, the guest at its own. -/
def linkStop (m : Nat) : Nat := if m = 12 then 38 else 24 + m / 2

/-- Send a flit from an end: sequenced 0, maintenance 1. -/
def State.sendFlit (s : State) (l : LinkEnd) (kind seq : Nat) (body : List Nat) : State :=
  s.emit (.flit (endNo l) kind seq body)

/-- What the hub offers, by its revision (R342): A0 level 1, X32FB and GUEST; B0 level 2, with PLACE256 and FASTSLEEP. -/
def State.hubLevel (s : State) : Nat := if s.get .PKG_ID_HUB_REV 0 = 0 then 1 else 2
def State.hubFeatures (s : State) : Nat := if s.get .PKG_ID_HUB_REV 0 = 0 then 0x11 else 0x17

/-- Word 0 of a maintenance flit of an end (R338). -/
def State.maintWord (s : State) (l : LinkEnd) (mtype : Nat) : Nat :=
  let hub := s.get .PKG_ID_HUB_REV 0
  let rev := if l.die then s.dieRevOf l.m else hub
  let level := if l.die then (if rev = 0 then 1 else if rev = 1 then 2 else 3) else s.hubLevel
  let feats := if l.die then (if rev = 0 then 1 else if rev = 1 then 7 else 15) else s.hubFeatures
  mtype + (if l.die then 1 else 0) * 2 ^ 18 + rev * 2 ^ 20 + level * 2 ^ 24 + feats * 2 ^ 28

/-- The initial credits an end grants: the guest only 64 on VN0 (R337, R351). -/
def endCredits (l : LinkEnd) : List Nat := if l.m.val = 12 then [64, 0, 0, 0, 0, 0] else linkCredits

/-- Send a maintenance flit (R338): MTYPE, RETRY_SEQ, both maps, the initial credits and the replay depth. It returns no credits
(log entry 30). -/
def State.sendMaint (s : State) (l : LinkEnd) (mtype retry : Nat) : State :=
  let k := s.lk l
  s.sendFlit l 1 k.next ([s.maintWord l mtype + retry * 2 ^ 8, k.txMap, k.rxMap,
    (List.range 6).foldr (fun i v => (endCredits l).getD i 0 + 256 * v) 0, 512] ++ List.replicate 10 0)

/-! ### Lane maps (R332, R346) -/

/-- CRC-8 with polynomial 0x07 over bits [29:0] of a map, most significant bit first. -/
def crc8 (v : Nat) : Nat → Nat → Nat
  | 0, c => c
  | n + 1, c =>
    let b := (c / 128 + v / 2 ^ n) % 2
    crc8 v n (((c * 2 % 256) ^^^ (if b = 1 then 7 else 0)))
def mapCheck (v : Nat) : Nat := v % 2 ^ 30 + crc8 (v % 2 ^ 30) 30 0 * 2 ^ 30

def mapX32 (v : Nat) : Bool := bitOf v 0
def mapHalf (v : Nat) : Nat := bitsOf v 1 1
/-- Repair field `k` of a map: the lane it steers, if valid. -/
def mapRep (v k : Nat) : Option Nat :=
  let r := v / 2 ^ (2 + 7 * k) % 128
  if 64 ≤ r then some (r % 64) else none
/-- The lanes a map repairs, and whether it uses a lane. -/
def mapRepairs (v : Nat) : List Nat := (List.range 4).filterMap (mapRep v)
def mapUses (v lane : Nat) : Bool := !mapX32 v || lane / 32 == mapHalf v
/-- Every failed lane that a map uses is repaired in it. -/
def mapWorks (v : Nat) (bad : List Nat) : Bool := bad.all fun x => !mapUses v x || (mapRepairs v).contains x

/-- Failed lanes of half `k` of the data lanes, in order. -/
def badIn (bad : List Nat) (k : Nat) : List Nat := (List.range 32).filterMap fun i => if bad.contains (k * 32 + i) then some (k * 32 + i) else none
/-- Repair fields for half `k`. -/
def repBits (l : List Nat) (k : Nat) : Nat :=
  match l with
  | [] => 0
  | [x] => (64 + x) * 2 ^ (2 + 14 * k)
  | x :: y :: _ => (64 + x) * 2 ^ (2 + 14 * k) + (64 + y) * 2 ^ (9 + 14 * k)

/-- The widest map for a direction: x64 with repairs, else x32 on a half that repairs cover; `none` when neither half is
usable. -/
def widestMap (bad : List Nat) : Option Nat :=
  let l := badIn bad 0
  let r := badIn bad 1
  if l.length ≤ 2 && r.length ≤ 2 then some (mapCheck (repBits l 0 + repBits r 1))
  else if l.length ≤ 2 then some (mapCheck (1 + repBits l 0))
  else if r.length ≤ 2 then some (mapCheck (3 + repBits r 1))
  else none

/-- The map a lane test yields (R346, R348): the hub's record where it is achievable, else the widest. -/
def newMap (record : Nat) (bad : List Nat) : Option Nat := if mapWorks record bad then some record else widestMap bad

def State.hubMap (s : State) (h : Half) (m : Fin 13) (rx : Bool) : Nat :=
  s.get (if rx then .LK_MAP_RX_MAP else .LK_MAP_TX_MAP) (instH h m)

/-- Both ends run under a pair of maps, hub to peer and peer to hub, and show it in LK_MAP. -/
def State.adoptMaps (s : State) (h : Half) (m : Fin 13) (tx rx : Nat) : State :=
  let s := (s.lkPut (hubEnd h m) .LK_MAP_TX_MAP .LK_MAP_TX_MAP tx).lkPut (hubEnd h m) .LK_MAP_RX_MAP .LK_MAP_RX_MAP rx
  let s := (s.lkPut (dieEnd h m) .LKC_MAP_TX_MAP .LKC_MAP_TX_MAP rx).lkPut (dieEnd h m) .LKC_MAP_RX_MAP .LKC_MAP_RX_MAP tx
  (s.updLk (hubEnd h m) fun k => { k with txMap := tx, rxMap := rx }).updLk (dieEnd h m) fun k => { k with txMap := rx, rxMap := tx }

/-- The berm-history index of a module (R389). -/
def modIndex (h : Half) (m : Fin 13) : Nat := h * 16 + m

/-- One direction takes a new map: each new repair and a fallback go to the berm history and the recorder (R346). -/
def State.noteMap (s : State) (h : Half) (m : Fin 13) (rx : Bool) (old new : Nat) : State :=
  if old = new then s
  else
    let fresh := (mapRepairs new).filter fun x => !(mapRepairs old).contains x
    let s := fresh.foldl (fun s x =>
      (s.bermLog 6 4 1 (modIndex h m) x).logSec h (linkStop m) 0x91 [m, b2n rx, x]) s
    if mapX32 new && !(mapX32 old && mapHalf old = mapHalf new) then
      (s.bermLog 6 5 1 (modIndex h m) (mapHalf new)).logSec h (linkStop m) 0x92 [m, b2n rx, mapHalf new]
    else s

/-! ### Loss and return of a module (R266, R347) -/

/-- Bit `d` of DIR_STAT.PATHS in both halves: a die with both modules up offers a transit path (R16). -/
def State.syncPath (s : State) (d : Fin 12) : State :=
  let up := fun h : Half => 2 ≤ s.modState h (Fin.ofNat 13 d.val)
  let b := decide (up 0) && decide (up 1) && (s.die d).state == 0
  let v := withBit s.pathMask d b
  (s.put .DIR_STAT_PATHS (instH 0 0) v).put .DIR_STAT_PATHS (instH 1 0) v

/-- A change of state of a compute-die module changes the transit paths (R265, R266). -/
def State.pathsOf (s : State) (m : Fin 13) : State :=
  if h : m.val < 12 then (s.syncPath ⟨m.val, h⟩).remapTransit else s

/-- The module is lost (R347): LK_STAT.STATE reads 0, code 0x94 with its cause (log entry 48), and for a compute
die the traffic goes round (code 0x6E); a guest's requests end (R356). -/
def State.moduleLost (s : State) (h : Half) (m : Fin 13) (cause : Nat) : State :=
  if s.modState h m = 0 then s
  else
    let s := (s.setModState h m 0).updLk (hubEnd h m) fun k => { k with lost := true }
    let s := (s.logSec h (linkStop m) 0x94 [m, cause]).pathsOf m
    if m.val = 12 then s.guestLoss h else s.logSec h (linkStop m) 0x6E [m]

/-- No intact flit has arrived for 5 µs at an end of an active module (R347). -/
def State.silent (s : State) (h : Half) (m : Fin 13) : Bool :=
  [hubEnd h m, dieEnd h m].any fun l => endOurs l && s.lkState l == 2 && decide ((s.lk l).goodAt + 5000 ≤ s.now)

/-- LINK_MODULE_LOSS (R347): no usable map (cause 0), a second failed retraining (1), or 5 µs without an intact flit (2). -/
def execLinkModuleLoss (h : Half) (m : Fin 13) (cause : Fin 3) (s : State) : Res :=
  .next (if cause = 2 && !s.silent h m then s else s.moduleLost h m cause)

/-! ### Lane test and retrain (R346, R348) -/

/-- A die's end of a module counts in the die's banks (R447). -/
def State.countFlit (s : State) (l : LinkEnd) (ev : Nat) : State :=
  if l.die && endOurs l then s.countDie l.m ev l.half none else s

/-- Every unacknowledged flit of an end goes out again from the oldest (R336). -/
def State.resendFrom (s : State) (l : LinkEnd) (p : Nat × Nat × List Msg → Bool) : State :=
  ((s.lk l).replay.filter p).foldl (fun s x => (s.sendFlit l 0 x.1 [x.2.1, x.2.2.length]).countFlit l 0x311) s
def State.resendAll (s : State) (l : LinkEnd) : State :=
  let now := s.now
  (s.resendFrom l fun _ => true).updLk l fun k => { k with ackAt := now, retryAt := none }

/-- A lane test settles both maps from the hub's record; the module is lost where a direction has none, 32 lanes counting only with
X32FB in force (R341). The result is the state and whether the module runs. -/
def State.laneTest (s : State) (h : Half) (m : Fin 13) (t : LaneTest) : State × Bool :=
  let tx := s.hubMap h m false
  let rx := s.hubMap h m true
  match newMap tx (t.tx.map Fin.val), newMap rx (t.rx.map Fin.val) with
  | some a, some b =>
    if (mapX32 a || mapX32 b) && !(s.get .LK_STAT_FEATURES (instH h m)).testBit 0 then (s.moduleLost h m 0, false)
    else (((s.noteMap h m false tx a).noteMap h m true rx b).adoptMaps h m a b, true)
  | _, _ => (s.moduleLost h m 0, false)

/-- A retrain of a module (R348): LAST_CAUSE, LK_CNT.RETRAINS, a lane test, and both ends resend. -/
def State.retrain (s : State) (h : Half) (m : Fin 13) (cause : Nat) (t : LaneTest) : State × Bool :=
  let s := s.bothEnds h m fun s l =>
    ((s.lkPut l .LK_STAT_LAST_CAUSE .LKC_STAT_LAST_CAUSE cause).lkBump l .LK_CNT_RETRAINS .LKC_CNT_RETRAINS).updLk l fun k =>
      { k with crcAt := [] }
  let (s, ok) := s.laneTest h m t
  if ok then (s.bothEnds h m fun s l => s.resendAll l, true) else (s, false)

/-- A module whose main band is up, waking it first where it sleeps (R349). -/
def State.awake (s : State) (h : Half) (m : Fin 13) : State := if s.modState h m = 3 then s.setModState h m 2 else s

/-- CRC_THRESH of an end: CRC failures per ms that start a lane test; 0 acts as 1. -/
def State.crcThresh (s : State) (l : LinkEnd) : Nat := max (s.lkGet l .LK_CTL_CRC_THRESH .LKC_CTL_CRC_THRESH) 1
def State.crcHigh (s : State) (l : LinkEnd) : Bool :=
  endOurs l && decide (s.crcThresh l ≤ ((s.lk l).crcAt.filter fun t => decide (s.now < t + 1000000)).length)

/-- LANE_TEST (R346): CRC failures of either end have reached its threshold within 1 ms. -/
def execLaneTest (h : Half) (m : Fin 13) (test : LaneTest) (s : State) : Res :=
  .next (if s.modState h m = 2 && (s.crcHigh (hubEnd h m) || s.crcHigh (dieEnd h m)) then (s.retrain h m 1 test).1 else s)

/-- A module is retrained on a write of RETRAIN (cause 3). -/
def State.retrainWrite (s : State) (l : LinkEnd) (t : LaneTest) : State :=
  if s.modState l.half l.m < 2 then s else ((s.awake l.half l.m).retrain l.half l.m 3 t).1

/-- LK_RETRAIN (R348): a secure write of LK_CTL.RETRAIN at either end. -/
def execLkRetrain (a : Acc) (l : LinkEnd) (test : LaneTest) (s : State) : Res :=
  let addr := if l.die then dieAddr l.m (0x82000000 + l.half * 0x100) else hubAddr l.half (0x30000000 + l.m * 0x100)
  .next (if endOurs l then s.secureOnly a l.half addr fun s => s.retrainWrite l test else s)

/-- The two ends' maps disagree, by CHECK and every field (R348). A guest's maps are its own. -/
def State.mapsDiffer (s : State) (h : Half) (m : Fin 13) : Bool :=
  m.val == 12 || (s.lk (hubEnd h m)).txMap != (s.lk (dieEnd h m)).rxMap || (s.lk (hubEnd h m)).rxMap != (s.lk (dieEnd h m)).txMap

/-- MAP_MISMATCH (R348, R349): the detecting end has the module retrained; LK_CNT.MISMATCH and code 0x93 with the map that
changed before and after. -/
def execMapMismatch (l : LinkEnd) (test : LaneTest) (s : State) : Res :=
  let h := l.half
  let m := l.m
  .next (
    if s.modState h m < 2 || !s.mapsDiffer h m then s
    else
      let s := s.awake h m
      let tx := s.hubMap h m false
      let rx := s.hubMap h m true
      let (s, ok) := (s.bothEnds h m fun s l => s.lkBump l .LK_CNT_MISMATCH .LKC_CNT_MISMATCH).retrain h m 2 test
      if ok then
        let old := if s.hubMap h m false = tx then rx else tx
        let new := if s.hubMap h m false = tx then s.hubMap h m true else s.hubMap h m false
        s.logSec h (linkStop m) 0x93 [m, old, new, test.ns]
      else s)

/-- A LINK reset of one module end (R348): its PHY comes back under the default map; SEQ, ACK, replay buffer and credits
stay. Where both ends were reset, the hub end reloads its record from LK_MAP (R349). -/
def State.linkReset (s : State) (l : LinkEnd) : State :=
  let s := s.updLk l fun k => { k with txMap := 0, rxMap := 0 }
  let p := s.lk (endPeer l)
  if endOurs (endPeer l) && p.txMap == 0 && p.rxMap == 0 then
    s.updLk (hubEnd l.half l.m) fun k => { k with txMap := s.hubMap l.half l.m false, rxMap := s.hubMap l.half l.m true }
  else s

/-! ### Training and capability exchange (R340 to R344) -/

/-- LINK_TRAIN (R340, 1 and 2): the PHY comes up under the hub's record, or the lane test's maps, and both ends send CAP; a third
failure leaves the module down. -/
def execLinkTrain (h : Half) (m : Fin 13) (good : Bool) (test : LaneTest) (s : State) : Res :=
  let l := hubEnd h m
  .next (
    if s.modState h m ≠ 0 || s.isRetired 6 (h * 16 + m) || (s.lk l).lost || 3 ≤ (s.lk l).fails then s
    else if !good then s.updLk l fun k => { k with fails := k.fails + 1 }
    else
      match newMap (s.hubMap h m false) (test.tx.map Fin.val), newMap (s.hubMap h m true) (test.rx.map Fin.val) with
      | some a, some b =>
        ((((s.noteMap h m false (s.hubMap h m false) a).noteMap h m true (s.hubMap h m true) b).adoptMaps h m a b).setModState h m 1).bothEnds h m
          fun s l => if endOurs l then s.sendMaint l 1 0 else s
      | _, _ => s.updLk l fun k => { k with fails := k.fails + 1 })

/-- The features of a level (R341), GUEST left out. -/
def levelFeatures (level : Nat) : Nat := if level ≤ 1 then 1 else if level = 2 then 7 else 15

/-- The compute revisions each hub revision may carry (R3). -/
def State.revOk (s : State) (rev : Nat) : Bool := if s.get .PKG_ID_HUB_REV 0 = 0 then decide (rev ≤ 1) else decide (rev ≤ 2)

/-- The peer is one the site takes (R343). -/
def State.peerFits (s : State) (m : Fin 13) (o : CapOffer) : Bool :=
  if m.val = 12 then o.kind == 2 && o.features.getLsbD 4
  else o.kind == 1 && !o.features.getLsbD 4 && s.revOk o.rev

/-- The hub end refuses the peer (R343): the module stays down, a compute die is held in reset. -/
def State.refusePeer (s : State) (h : Half) (m : Fin 13) (o : CapOffer) : State :=
  let s := (s.setModState h m 0).updLk (hubEnd h m) fun k => { k with fails := 3 }
  let s := s.lkPut (hubEnd h m) .LK_STAT_LAST_CAUSE .LK_STAT_LAST_CAUSE 5
  let s := s.logSec h (linkStop m) 0x96 [m, o.kind, o.rev]
  if m.val < 12 then s.updDie m fun d => { d with state := 3 } else s

/-- Both ends start anew on the agreed terms (R340, 4). -/
def State.startLink (s : State) (l : LinkEnd) (level feats kind rev : Nat) (credits : List Nat) : State :=
  let now := s.now
  let s := (s.lkPut l .LK_STAT_LEVEL .LKC_STAT_LEVEL level).lkPut l .LK_STAT_FEATURES .LKC_STAT_FEATURES feats
  let s := (s.lkPut l .LK_STAT_PEER_KIND .LKC_STAT_PEER_KIND kind).lkPut l .LK_STAT_PEER_REV .LKC_STAT_PEER_REV rev
  s.updLk l fun k =>
    { k with next := 0, replay := [], expect := 0, retryAt := none, ackAt := now, credits := credits,
             owed := [0, 0, 0, 0, 0, 0], sentAt := now, goodAt := now, crcAt := [], lost := false, fails := 0, sleepAt := none }

/-- CAP (R340, 2 to 5): the peer's capabilities are checked, level and features settled, and sequenced traffic begins. -/
def execCap (h : Half) (m : Fin 13) (offer : CapOffer) (s : State) : Res :=
  .next (
    if s.modState h m ≠ 1 then s
    else if !s.peerFits m offer then s.refusePeer h m offer
    else
      let level := min s.hubLevel offer.level
      let guest := if m.val = 12 then 16 else 0
      let feats := (s.hubFeatures &&& offer.features.toNat &&& levelFeatures level) + guest
      let s := s.startLink (hubEnd h m) level feats offer.kind offer.rev (offer.credits.map (·.toNat))
      let s := s.startLink (dieEnd h m) level feats 0 (s.get .PKG_ID_HUB_REV 0) linkCredits
      let s := s.setModState h m 2
      let s := if m.val = 12 then s.updDike h fun d => { d with down := false } else s
      (s.logSec h (linkStop m) 0x90 [m, level, feats, b2n (mapX32 (s.hubMap h m false) || mapX32 (s.hubMap h m true))]).pathsOf m)

/-- MODULE_RETRAIN_TRY (R347): every 100 ms the hub end retrains a lost module; traffic returns once it trains. -/
def execModuleRetrainTry (h : Half) (m : Fin 13) (good : Bool) (s : State) : Res :=
  .next (
    if !(s.lk (hubEnd h m)).lost || s.isRetired 6 (h * 16 + m) then s
    else
      let s := s.bothEnds h m fun s l =>
        (s.lkPut l .LK_STAT_LAST_CAUSE .LKC_STAT_LAST_CAUSE 4).lkBump l .LK_CNT_RETRAINS .LKC_CNT_RETRAINS
      if good then
        let s := (s.setModState h m 2).updLk (hubEnd h m) fun k => { k with lost := false }
        let s := s.bothEnds h m fun s l => s.resendAll l
        let s := if m.val = 12 then s.updDike h fun d => { d with down := false } else s
        (s.logSec h (linkStop m) 0x95 [m]).pathsOf m
      else s)

/-! ### Flits and retry (R333 to R338) -/

/-- A reserved slot format of a sequenced flit (R334). -/
def fmtReserved (f : BitVec 4) : Bool := f.toNat == 0 || decide (14 ≤ f.toNat)

/-- Credits of a flit's messages on a network. -/
def vnCount (l : List Msg) (vn : Nat) : Nat := (l.filter fun m => msgVn m.ty == vn).length
/-- Change a list of six counts. -/
def onVns (l : List Nat) (f : Nat → Nat → Nat) : List Nat := (List.range 6).map fun i => f i (l.getD i 0)

/-- An end may send a new flit (R336, R337): fewer than 512 are unacknowledged and it holds the credits. -/
def LkSt.maySend (k : LkSt) (msgs : List Msg) : Bool :=
  decide (k.replay.length < 512) && (List.range 6).all fun i => decide (vnCount msgs i ≤ k.credits.getD i 0)

/-- The credits an end returns next (R337): VN5's first, else those of the network with the most owed, the lower on a tie, at most
7; with none owed VN 7, which returns none (R333). -/
def LkSt.creditTurn (k : LkSt) : Nat × Nat :=
  let most := k.owed.foldl max 0
  if 0 < k.owed.getD 5 0 then (5, min (k.owed.getD 5 0) 7)
  else match (List.range 6).find? fun i => 0 < most && k.owed.getD i 0 == most with
    | some i => (i, min most 7)
    | none => (7, 0)

/-- The sender of a flit, where it is an end of the package, would send this one now (log entry 30): a sequenced flit is its next
one, which it may send, or stands in its replay buffer; its credit return is the next in turn. A maintenance flit returns none. -/
def State.flitReal (s : State) (l : LinkEnd) (f : Flit) : Bool :=
  let k := s.lk l
  !endOurs l ||
    ((f.kind != 0 || f.seq.toNat == k.next && k.maySend f.msgs || k.replay.any (fun x => x.1 == f.seq.toNat && x.2.1 == f.fmt.toNat && x.2.2 == f.msgs)) &&
     (if f.kind = 1 then 6 ≤ f.crVn.val || f.crCnt == 0 else f.kind == 3 || k.creditTurn == (f.crVn.val, f.crCnt.val)))

/-- The sending of a sequenced flit, where the arriving flit is the sender's next (log entry 30): it enters the replay buffer
and spends credits. -/
def State.flitSent (s : State) (l : LinkEnd) (f : Flit) : State :=
  let k := s.lk l
  if f.kind = 0 && f.seq.toNat = k.next && k.maySend f.msgs then
    let now := s.now
    (s.countFlit l 0x310).updLk l fun k =>
      { k with next := (k.next + 1) % 1024, replay := k.replay ++ [(f.seq.toNat, f.fmt.toNat, f.msgs)],
               credits := onVns k.credits fun i c => c - vnCount f.msgs i, sentAt := now,
               ackAt := if k.replay.isEmpty then now else k.ackAt }
  else s

/-- ACK and a credit return from an intact flit (R333, R336). -/
def State.flitHeader (s : State) (l : LinkEnd) (f : Flit) : State :=
  let k := s.lk l
  let rest := k.replay.filter fun x => decide (512 ≤ (f.ack.toNat + 1024 - x.1) % 1024)
  let now := s.now
  (s.updLk l fun k =>
    { k with replay := rest, ackAt := if rest.length < k.replay.length then now else k.ackAt, goodAt := now,
             credits := onVns k.credits fun i c => if i = f.crVn then c + f.crCnt else c }).updLk (endPeer l) fun k =>
    { k with owed := onVns k.owed fun i c => if i = f.crVn then c - f.crCnt else c }

/-- Ask for the flit expected, once until it arrives (R336). -/
def State.askRetry (s : State) (l : LinkEnd) : State :=
  let k := s.lk l
  if k.retryAt.isSome then s
  else
    let now := s.now
    (s.updLk l fun k => { k with retryAt := some now }).sendMaint l 3 k.expect

/-- FLIT_RECEIVE (R333, R336, R337): at end `l`. A flit that fails its checks is discarded whole; a sequenced flit is
accepted in order, a duplicate is dropped, and the first other one draws RETRY_REQ. -/
def execFlitReceive (l : LinkEnd) (f : Flit) (s : State) : Res :=
  .next (
    if !endOurs l || s.lkState l ≠ 2 || !s.flitReal (endPeer l) f then s
    else
      let s := s.flitSent (endPeer l) f
      let now := s.now
      if !f.crcOk then
        ((s.lkBump l .LK_CNT_CRC_ERR .LKC_CNT_CRC_ERR).updLk l fun k =>
          { k with crcAt := (k.crcAt.filter fun t => decide (now < t + 1000000)) ++ [now] }).askRetry l
      else if f.kind = 3 || f.kind = 0 && fmtReserved f.fmt then s.askRetry l
      else
        let s := s.flitHeader l f
        let k := s.lk l
        if f.kind ≠ 0 then s
        else if f.seq.toNat = k.expect then
          s.updLk l fun k =>
            { k with expect := (k.expect + 1) % 1024, retryAt := none, owed := onVns k.owed fun i c => c + vnCount f.msgs i }
        else if (k.expect + 1024 - f.seq.toNat) % 1024 ≤ 512 then s
        else s.askRetry l)

/-- RETRY_REQ (R336): the sender resends from the SEQ named, in order. -/
def execRetryReq (l : LinkEnd) (seq : BitVec 10) (s : State) : Res :=
  .next (
    if !endOurs l || s.lkState l ≠ 2 then s
    else
      let s := s.lkBump l .LK_CNT_RETRIES .LKC_CNT_RETRIES
      s.resendFrom l fun x => decide ((x.1 + 1024 - seq.toNat) % 1024 < 512))

/-- RETRY_REQ_REPEAT (R336): every 2 µs until the flit arrives. -/
def execRetryReqRepeat (l : LinkEnd) (s : State) : Res :=
  .next (match (s.lk l).retryAt with
    | some t =>
      if endOurs l && s.lkState l = 2 && t + 2000 ≤ s.now then
        let now := s.now
        (s.updLk l fun k => { k with retryAt := some now }).sendMaint l 3 (s.lk l).expect
      else s
    | none => s)

/-- ACK_TIMEOUT_RESEND (R336): no ACK progress for 4 µs. -/
def execAckTimeoutResend (l : LinkEnd) (s : State) : Res :=
  let k := s.lk l
  .next (if endOurs l && s.lkState l = 2 && !k.replay.isEmpty && k.ackAt + 4000 ≤ s.now then
      let now := s.now
      (s.resendFrom l fun _ => true).updLk l fun k => { k with ackAt := now }
    else s)

/-- MAP_FLIT_SEND (R338): a MAP flit with the end's record of both maps, its credits and its replay depth. -/
def execMapFlitSend (l : LinkEnd) (s : State) : Res :=
  .next (if endOurs l && s.lkState l = 2 then s.sendMaint l 2 0 else s)

/-! ### Fast link sleep (R345) -/

/-- Any core of a tick-bound polder on a die. -/
def State.dieTicks (s : State) (d : Nat) : Bool := (coresOfDie d).any fun g => s.polTickBound (s.core g).pol

/-- The module may sleep: FASTSLEEP in force, SLEEP_EN = 1 at the end, no tick-bound polder's core on the die. -/
def State.maySleep (s : State) (l : LinkEnd) : Bool :=
  endOurs l && s.lkState l == 2 && (s.lkGet l .LK_STAT_FEATURES .LKC_STAT_FEATURES).testBit 2 &&
    s.lkGet l .LK_CTL_SLEEP_EN .LKC_CTL_SLEEP_EN == 1 && !(decide (l.m.val < 12) && s.dieTicks l.m)

/-- The end's direction is idle: nothing sent for SLEEP_IDLE ns and no credits owed. -/
def State.linkIdle (s : State) (l : LinkEnd) : Bool :=
  let k := s.lk l
  k.owed.all (· == 0) &&
    decide (k.sentAt + s.lkGet l .LK_CTL_SLEEP_IDLE .LKC_CTL_SLEEP_IDLE ≤ s.now)

/-- SLEEP_IDLE_EXPIRED (R345): SLEEP_REQ goes out, and again only after a further SLEEP_IDLE. -/
def execSleepIdleExpired (l : LinkEnd) (s : State) : Res :=
  let idle := s.lkGet l .LK_CTL_SLEEP_IDLE .LKC_CTL_SLEEP_IDLE
  let due := match (s.lk l).sleepAt with | some t => decide (t + idle ≤ s.now) | none => true
  .next (if s.maySleep l && s.linkIdle l && due then
      let now := s.now
      (s.updLk l fun k => { k with sleepAt := some now }).sendMaint l 4 0
    else s)

/-- SLEEP_REQ (R345), received at end `l`: answered only when its own direction is idle too. -/
def execSleepReq (l : LinkEnd) (s : State) : Res :=
  .next (if s.maySleep l && s.linkIdle l then s.sendMaint l 5 0 else s)

/-- SLEEP_ACK (R345), received at end `l`, which had asked: both directions idle; a message that came meanwhile keeps the link
awake. -/
def execSleepAck (l : LinkEnd) (s : State) : Res :=
  .next (if s.maySleep l && (s.lk l).sleepAt.isSome then
      let s1 := s.updLk l fun k => { k with sleepAt := none }
      if s.linkIdle l then
        (s1.setModState l.half l.m 3).bothEnds l.half l.m fun s e => s.lkBump e .LK_CNT_SLEEPS .LKC_CNT_SLEEPS
      else s1
    else s)

/-- LINK_WAKE (R345). -/
def execLinkWake (l : LinkEnd) (s : State) : Res := .next (s.awake l.half l.m)

/-- Modules of a die that holds a core of a tick-bound polder never sleep (R345): those asleep wake. -/
def State.wakeDie (s : State) (d : Nat) : State :=
  if s.dieTicks d then (s.awake 0 (Fin.ofNat 13 d)).awake 1 (Fin.ofNat 13 d) else s

end Sys2Proof.Machine
end

