-- ==== Sys2Proof/Machine/Cascade.lean ====
section
/-! DEFINITION. The cascade (spec/13): joining and leaving, members and routes, election and ranking of masters, time,
ticks, holdover and islands, reconciliation, exported windows, transfers and relayed commands. -/
namespace Sys2Proof.Machine
open Sys2Proof

/-! ### Membership -/

def CsChan.reset : CsChan :=
  { pol := none, num := 0, edge := 0, count := 0, ticked := false, ivals := [], made := 0, electAt := none, p0 := 0, k := 0,
    adopt := false, old := 0, key := (0, 0, 0) }
def State.chan (s : State) (c : Nat) : CsChan := Tbl.get CsChan.reset s.cas.chans c
def State.updChan (s : State) (c : Nat) (f : CsChan → CsChan) : State :=
  s.updCas fun x => { x with chans := Tbl.set CsChan.reset x.chans c (f (s.chan c)) }

/-- CS_STAT: STATE, the master followed. -/
def State.csState (s : State) : Nat := s.get .CS_STAT_STATE 0
def State.csMaster (s : State) : Nat := s.get .CS_STAT_MASTER 0
def State.csJoined (s : State) : Bool := s.csState != 0
/-- CS_TIMING as one word. -/
def State.csTiming (s : State) : Nat :=
  s.get .CS_TIMING_L_CASCADE 0 + s.get .CS_TIMING_HOLD_TICKS 0 * 2 ^ 32 + s.get .CS_TIMING_HOLD_MS 0 * 2 ^ 48
def State.putTiming (s : State) (w : Nat) : State :=
  ((s.put .CS_TIMING_L_CASCADE 0 (bitsOf w 31 0)).put .CS_TIMING_HOLD_TICKS 0 (bitsOf w 47 32)).put .CS_TIMING_HOLD_MS 0
    (bitsOf w 63 48)
def State.lCascade (s : State) : Nat := s.get .CS_TIMING_L_CASCADE 0

/-- Record an event of the cascade, in the secure view. -/
def State.csLog (s : State) (code : Nat) (args : List Nat) : State := s.logSec s.activeHalf 36 code args

/-- The polders bound to a channel that take their ticks from it (R370, R372). -/
def State.bound (s : State) (c : Nat) : List Nat :=
  (List.range 32).filter fun p =>
    (s.polder p).isSome && s.tkSource p == 4 && s.flag .CS_TBIND_VALID p && s.get .CS_TBIND_CHANNEL p == c &&
      s.get .TK_NOW_STATE p != 0

/-- An event of a channel, also in the view of every polder bound to it (R384). -/
def State.chanLog (s : State) (c code : Nat) (args : List Nat) : State := s.logPols s.activeHalf 36 code (s.bound c) args

/-- CS_MEM and CS_STAT.MEMBERS of a member that became reachable or not; code 0xA5 on a change. -/
def State.setReach (s : State) (i : Nat) (b : Bool) : State :=
  let s := if s.flag .CS_MEM_REACH i == b then s else s.csLog 0xA5 [i]
  (s.setFlag .CS_MEM_REACH i b).put .CS_STAT_MEMBERS 0 (withBit (s.get .CS_STAT_MEMBERS 0) i b)

/-! ### The transfers' engine (R381, R382) -/

def State.xfer (s : State) (p : Nat) : Option Xfer := Tbl.get none s.cas.xfers p
def State.setXfer (s : State) (p : Nat) (x : Option Xfer) : State :=
  s.updCas fun c => { c with xfers := Tbl.set none c.xfers p x }

/-- A cascade agent's access on a polder's behalf, checked under R70: a refused read gives zeros, a refused write has no
effect (R74). -/
def State.polRead (s : State) (c p a n : Nat) : State × List Byte :=
  if s.rangeOk p (s.polSecure p) false a n then (s, s.readBytes a n)
  else (s.refuse (homeHalf a) (.cascade (Fin.ofNat 4 c)) p (s.polSecure p) a ((s.rgnCheck p (s.polSecure p) false a).getD 2),
        List.replicate n 0)
def State.polWrite (s : State) (c p a : Nat) (bs : List Byte) : State :=
  if s.rangeOk p (s.polSecure p) true a bs.length then s.writeBytes a bs
  else s.refuse (homeHalf a) (.cascade (Fin.ofNat 4 c)) p (s.polSecure p) a ((s.rgnCheck p (s.polSecure p) true a).getD 3)

/-- The port a polder's transfers leave by: the route to the destination. -/
def State.xferPort (s : State) (x : Xfer) : Nat := (s.csRoute x.dest).getD 0

/-- Send a transfer's lines that are not done yet: puts with their data, or get requests. -/
def State.sendXfer (s : State) (p : Nat) (x : Xfer) : State :=
  let c := s.xferPort x
  let todo := (List.range (x.len / 64)).filter fun i => !x.got.contains i
  if x.op = 0 then
    let (s, bs) := s.polRead c p x.loc x.len
    todo.foldl (fun s i =>
      s.csSendTo x.dest csPut ([p, x.win, x.off + 64 * i] ++ (List.range 8).map fun j => wordAt bs (8 * i + j))) s
  else todo.foldl (fun s i => s.csSendTo x.dest csGetReq [p, x.win, x.off + 64 * i]) s

/-- Member `i` became reachable or not: a transfer to it counts how long it is not, and sends again what is not done (DESIGN
CHOICE, log entry 173). -/
def State.xferReach (s : State) (i : Nat) (b : Bool) : State :=
  let now := s.now
  (List.range 32).foldl (fun s p => match s.xfer p with
    | some x =>
      if x.dest ≠ i || x.unreach then s
      else if b then (if x.lostAt.isSome then (s.setXfer p (some { x with lostAt := none })).sendXfer p x else s)
      else if x.lostAt.isNone then s.setXfer p (some { x with lostAt := some now }) else s
    | none => s) s

/-! ### Members and routes -/

/-- A member is no longer reachable. -/
def State.dropMember (s : State) (i : Nat) : State :=
  ((s.setReach i false).updCas fun x =>
    { x with mems := Tbl.erase x.mems i, seen := x.seen.filter fun y => y.1 != i }).xferReach i false

/-- The role this package announces, and its own key among candidates: (PRIORITY, serial number, index). -/
def State.csRole (s : State) : Nat := if s.csState = 3 then 1 else if s.csState = 5 then 2 else 0
def State.selfCand (s : State) : Nat × Nat × Nat := (s.get .CS_CTL_PRIORITY 0, Config.serial, s.csIndex)

/-- What this package announces of itself (R363, R365): serial number; priority, MASTER_CAP and PROMOTE. -/
def State.selfWords (s : State) : List Nat :=
  [Config.serial, s.get .CS_CTL_PRIORITY 0 + s.get .CS_CTL_MASTER_CAP 0 * 256 + s.get .CS_CTL_PROMOTE 0 * 512]

/-- This package makes the channel's edges as island master. -/
def State.isIsle (s : State) (c : Nat) : Bool :=
  s.csState == 5 && s.get .CS_CHAN_STATE c == 3 && s.get .CS_CHAN_MASTER c == s.csIndex

/-- The channel dividers a master publishes (R363): CHDIV with DIR in bit 56 and "defined" in bit 57 (log entry 31). -/
def State.chanDiv (s : State) (c : Nat) : Nat :=
  if s.csState = 3 then
    match (s.chan c).pol with
    | some p => s.tk p 1 % 2 ^ 56 + b2n (s.tkDir p) * 2 ^ 56 + 2 ^ 57
    | none => 0
  else if s.isIsle c then
    s.get .CS_CHDIV_FRAC c + s.get .CS_CHDIV_N c * 2 ^ 32 + s.get .CS_CHAN_DIR c * 2 ^ 56 + 2 ^ 57
  else 0

/-- The sum of DELAY + 350 ns over this package's shortest path to the master (R371): that of its neighbour on the path, and the
link between them. -/
def State.selfPath (s : State) : Nat :=
  match s.csRoute s.csMaster with
  | some c =>
    let up := match s.member (s.get .CS_PORT_PEER (instPort2 c)) with
      | some m => if s.get .CS_PORT_PEER (instPort2 c) = s.csMaster then 0 else m.info.pathNs
      | none => 0
    up + s.get .CS_PORT_DELAY (instPort2 c) + 350
  | none => 0
def State.selfHops (s : State) : Nat := ((s.csVia s.csMaster).map (·.2)).getD 0

/-- Send HELLO on a port; the first since the link came up is noted. -/
def State.helloOn (s : State) (c : Nat) : State :=
  let s := s.csTx c (s.csFrame csHello 0 0 s.selfWords)
  s.updCsPort c fun q => { q with hello := some (q.hello.getD q.lseq) }

/-- HELLO_SEND (R363): HELLO on each joined port and a flooded MEMBER, every 1 ms. -/
def execHelloSend (s : State) : Res :=
  .next (if !s.csJoined then s
    else
      let s := (List.range 4).foldl (fun s c => if s.csLink c then s.helloOn c else s) s
      s.csFlood csMember (s.selfWords ++ [s.csRole, s.selfHops, s.selfPath, s.csTiming] ++
        (if s.csRole = 0 then [] else (List.range 8).map s.chanDiv)))

/-- Disable the cascade ports and leave every table empty. -/
def State.csOff (s : State) : State :=
  let s := (List.range 4).foldl (fun s c =>
    (s.setFlag .CS_PORT_PEER_OK (instPort2 c) false).setFlag .CS_PORT_LINK (instPort2 c) false) s
  let s := (List.range 16).foldl (fun s i => if s.flag .CS_MEM_REACH i then s.dropMember i else s) s
  ((s.put .CS_CTL_PORTS 0 0).put .CS_STAT_STATE 0 0).updCas fun x =>
    { x with mems := [], cands := [], isle := [], electAt := none, joined := none, ports := [], seen := [], asmCmd := [],
             asmCpl := [] }

/-- Complete the join that waits (R366). -/
def State.joinDone (s : State) (res : CmdRes) : State :=
  match s.cas.join with
  | some c => (s.updCas fun x => { x with join := none }).finish c res
  | none => s

/-! ### Receiving (R359, R361, R362, R364) -/

/-- Take a frame off a link: LACK empties the replay buffer, and a frame that is not the next in order is answered with an empty
frame (KIND 0, log entry 171) carrying LACK. The Bool tells whether the frame is taken. -/
def State.csTake (s : State) (h : CasHdr) : State × Bool :=
  let c := h.port.val
  if !s.csLink c || h.id.toNat ≠ s.csId then (s, false)
  else
    let s := s.csAck c h.lack.toNat
    let q := s.csPort c
    if h.lseq.toNat ≠ (q.got + 1) % 65536 then
      (s.emit (.cascade c { s.csFrame 0 (s.get .CS_PORT_PEER (instPort2 c)) 0 [] with ttl := 0, lseq := q.lseq, lack := q.got }), false)
    else (s.updCsPort c fun q => { q with got := h.lseq.toNat }, true)

/-- A frame between neighbours (CAL, SYNC). -/
def State.onLink (s : State) (h : CasHdr) (f : State → State) : State :=
  let (s, ok) := s.csTake h
  if ok && s.csUp h.port then f s else s

/-- A frame already seen: of this package itself, or with an FSEQ of its source among the last 256 seen (log entry 171). -/
def State.csSeen (s : State) (h : CasHdr) : Bool := h.src.val == s.csIndex || s.cas.seen.contains (h.src.val, h.fseq.toNat)

/-- A flooded frame (R362) is noted and forwarded out of every other port while TTL lasts. -/
def State.csForward (s : State) (h : CasHdr) (kind : Nat) (body : List Nat) : State :=
  let s := s.updCas fun x => { x with seen := ((h.src.val, h.fseq.toNat) :: x.seen).take 256 }
  if h.ttl.val = 0 then s
  else s.csOut (some h.port) { s.csFrame kind h.dst h.fseq.toNat body with src := h.src, ttl := h.ttl - 1 }

/-- A flooded frame: taken once, and forwarded. -/
def State.onFlood (s : State) (h : CasHdr) (kind : Nat) (body : List Nat) (f : State → State) : State :=
  let (s, ok) := s.csTake h
  if !ok || !s.csUp h.port || s.csSeen h then s else f (s.csForward h kind body)

/-- An unflooded frame (R363): taken by its destination, else passed on by the route while TTL lasts. -/
def State.onRoute (s : State) (h : CasHdr) (kind : Nat) (body : List Nat) (f : State → State) : State :=
  let (s, ok) := s.csTake h
  if !ok || !s.csUp h.port then s
  else if h.dst.val = s.csIndex then f s
  else if h.ttl.val = 0 then s
  else match s.csRoute h.dst with
    | some c => s.csTx c { s.csFrame kind h.dst 0 body with src := h.src, ttl := h.ttl - 1 }
    | none => s

/-- The link's HELLO has been acknowledged: the peer has received one of this package (R359; DEDUCED, log entry 171). -/
def CsPort.helloDone (q : CsPort) : Bool :=
  match q.hello with
  | some n => !q.sent.any fun f => f.lseq == n
  | none => false

/-- What a member announces of itself in HELLO and MEMBER (R363). -/
def State.announced (s : State) (i : Nat) (serial : Word) (prio : Byte) (cap promote : Bool) : State :=
  (((s.setFlag .CS_MEM_MASTER_CAP i cap).setFlag .CS_MEM_PROMOTE i promote).put .CS_MEM_PRIORITY i prio.toNat).put .CS_MEM_SERIAL_LO i
    (serial.toNat % 2 ^ 32)

/-- HELLO (R359, R361, R366): a peer of another cascade is not used; one with this package's index ends a join with
BUSY. -/
def execHello (h : CasHdr) (serial : Word) (prio : Byte) (masterCap promote : Bool) (s : State) : Res :=
  let c := h.port.val
  .next (
    if !s.csLink c then s
    else if h.id.toNat ≠ s.csId then (s.setFlag .CS_PORT_PEER_OK (instPort2 c) false).csLog 0xA8 [c, h.id.toNat]
    else
      let (s, ok) := s.csTake h
      if !ok then s
      else if h.src.val = s.csIndex && serial.toNat ≠ Config.serial then
        let s := s.csLog 0xA8 [c, h.src]
        if s.cas.join.isSome then s.csOff.joinDone (resErr stBusy) else s.setFlag .CS_PORT_PEER_OK (instPort2 c) false
      else
        let s := (s.put .CS_PORT_PEER (instPort2 c) h.src).announced h.src serial prio masterCap promote
        if (s.csPort c).helloDone then s.setFlag .CS_PORT_PEER_OK (instPort2 c) true else s)

/-! ### Masters (R366, R368, R375 to R378) -/

/-- The rank of a master (R377): elected before island, then PRIORITY, then serial number. -/
def rankKey (island : Bool) (prio serial : Nat) : Nat × Nat × Nat := (b2n island, prio, serial)
def keyBefore (a b : Nat × Nat × Nat) : Bool :=
  decide (a.1 < b.1) || a.1 == b.1 && (decide (a.2.1 < b.2.1) || a.2.1 == b.2.1 && decide (a.2.2 < b.2.2))
def State.selfKey (s : State) (island : Bool) : Nat × Nat × Nat := rankKey island (s.get .CS_CTL_PRIORITY 0) Config.serial

/-- D_WORST and LATE_RISK at the master (R371). -/
def State.dWorst (s : State) : State :=
  if s.csRole = 0 then s
  else
    let d := s.cas.mems.foldl (fun v x => match x.2 with | some m => max v m.info.pathNs | none => v) 0
    let risk := decide (s.lCascade < d + 100)
    let was := s.flag .CS_STAT_LATE_RISK 0
    let s := (s.put .CS_STAT_D_WORST 0 (min d 65535)).setFlag .CS_STAT_LATE_RISK 0 risk
    if risk && !was then s.csLog 0xA7 [d] else s

/-- Take the timing values of the master followed (R365). -/
def State.takeTiming (s : State) (w : Nat) : State :=
  if w = s.csTiming then s else (s.csLog 0xA9 [s.csTiming, w]).putTiming w

/-- Follow another maker of a channel's edges (R378): the next TICK is to be reconciled, holdover and a stall end (R374, R376),
and an election under way is abandoned (R379). -/
def State.adoptChan (s : State) (c m : Nat) (key : Nat × Nat × Nat) : State :=
  let old := s.get .CS_CHAN_MASTER c
  ((s.put .CS_CHAN_STATE c (if key.1 = 1 then 3 else 1)).put .CS_CHAN_MASTER c m).updChan c fun x =>
    { x with adopt := x.ticked, old := old, electAt := none, key := key }

/-- Take what a master says of its channel: the divider, and the channel itself where nothing was known of it. -/
def State.takeDiv (s : State) (c m d : Nat) (key : Nat × Nat × Nat) : State :=
  if !bitOf d 57 then s
  else
    let s := ((s.put .CS_CHDIV_FRAC c (bitsOf d 31 0)).put .CS_CHDIV_N c (bitsOf d 55 32)).setFlag .CS_CHAN_DIR c (bitOf d 56)
    if s.get .CS_CHAN_STATE c = 0 then
      ((s.put .CS_CHAN_STATE c (if key.1 = 1 then 3 else 1)).put .CS_CHAN_MASTER c m).updChan c fun x => { x with key := key }
    else s

/-- Whether a MEMBER frame defines channel `c`, and its divider. -/
def divOf (divs : List (BitVec 64)) (c : Nat) : Nat := (divs.getD c 0).toNat
def State.takeDivs (s : State) (m : Nat) (divs : List (BitVec 64)) (key : Nat × Nat × Nat) : State :=
  (List.range 8).foldl (fun s c => s.takeDiv c m (divOf divs c) key) s

/-- The master followed for time and heartbeats changes; code 0xA0. -/
def State.setMaster (s : State) (i : Nat) (key : Nat × Nat × Nat) : State :=
  let now := s.now
  ((s.put .CS_STAT_MASTER 0 i).updCas fun x => { x with key := key, hbAt := now, electAt := none }).csLog 0xA0 [s.csIndex, i, s.csId]

/-- Follow a master with every channel (R366, R377, R378): a join that waits completes, and a master demotes. -/
def State.follow (s : State) (i : Nat) (f : MemberInfo) (divs : List (BitVec 64)) : State :=
  let key := rankKey (f.role == 2) f.prio.toNat f.serial.toNat
  let s := (List.range 8).foldl (fun s c =>
    if s.get .CS_CHAN_STATE c = 0 then s else s.adoptChan c i key) s
  let s := ((s.put .CS_STAT_STATE 0 (if f.role == 2 then 6 else 2)).setMaster i key).takeTiming f.timing.toNat
  (s.takeDivs i divs key).joinDone (resOk s.csIndex)

/-- Each usable link has been calibrated (R366, step 3). -/
def State.csCald (s : State) : Bool := (List.range 4).all fun c => !s.csUp c || (s.csPort c).cald

/-- Follow an island master on the channels it makes (R375, R377): those without a maker, and those whose maker ranks behind it. -/
def State.followIsle (s : State) (i : Nat) (f : MemberInfo) (divs : List (BitVec 64)) : State :=
  let key := rankKey true f.prio.toNat f.serial.toNat
  let mine := (List.range 8).filter fun c =>
    bitOf (divOf divs c) 57 &&
      (s.get .CS_CHAN_STATE c == 0 || s.get .CS_CHAN_STATE c == 2 || s.get .CS_CHAN_STATE c == 4 || keyBefore key (s.chan c).key)
  let s := (mine.foldl (fun s c => s.adoptChan c i key) s).takeDivs i divs key
  let s := if s.csState = 4 && !mine.isEmpty || s.csState ≠ 4 && keyBefore key s.cas.key then s.setMaster i key else s
  if s.csMaster = i || s.csState ≠ 4 then
    (s.put .CS_STAT_STATE 0 (if (List.range 8).any s.isIsle then 5 else 6)).takeTiming f.timing.toNat
  else s

/-- What a master's MEMBER changes (R366, R377): a package that searches follows it once its links are calibrated, a follower
takes its values, and another master that ranks before the one followed replaces it. -/
def State.heardMaster (s : State) (i : Nat) (f : MemberInfo) (divs : List (BitVec 64)) : State :=
  let island := f.role == 2
  let st := s.csState
  let key := rankKey island f.prio.toNat f.serial.toNat
  if st = 1 then (if s.csCald then s.follow i f divs else s)
  else if (st = 2 || st = 6) && s.csMaster = i && key.1 = s.cas.key.1 then
    ((s.takeTiming f.timing.toNat).takeDivs i divs key).updCas fun x => { x with key := key }
  else if island then (if st = 2 || st = 3 then s else s.followIsle i f divs)
  else if st = 4 || keyBefore key s.cas.key then s.follow i f divs
  else s

/-- The member table's entry and route of a member (R363): TTL tells the hops the frame has taken. -/
def State.noteMember (s : State) (h : CasHdr) (f : MemberInfo) : State :=
  let i := h.src.val
  let now := s.now
  let old := s.member i
  let via := ((old.map (·.via)).getD []).filter fun x => x.1 != h.port.val
  let m : Member := { info := f, via := via ++ [(h.port.val, 16 - h.ttl.val)], hbAt := (old.map (·.hbAt)).getD now }
  let s := (s.updCas fun x => { x with mems := Tbl.set none x.mems i (some m) }).setReach i true
  let s := (s.announced i f.serial f.prio f.masterCap f.promote).put .CS_MEM_ROLE i f.role
  (s.put .CS_MEM_HOPS i (((s.csVia i).map (·.2)).getD 0 % 16)).xferReach i true

/-- The words of a MEMBER frame. -/
def memberWords (f : MemberInfo) (divs : List (BitVec 64)) : List Nat :=
  [f.serial.toNat, f.prio.toNat + b2n f.masterCap * 256 + b2n f.promote * 512, f.role, f.hops, f.pathNs, f.timing.toNat] ++
    divs.map (·.toNat)

/-- MEMBER (R363, R366, R371, R377): every copy tells a route; the first is forwarded and taken. Another member with this
package's index ends a join with BUSY. -/
def execMember (h : CasHdr) (f : MemberInfo) (divs : List (BitVec 64)) (s : State) : Res :=
  .next (
    let (s, ok) := s.csTake h
    if !ok || !s.csUp h.port then s
    else if h.src.val = s.csIndex then
      if f.serial.toNat ≠ Config.serial && s.cas.join.isSome then (s.csLog 0xA8 [h.port, h.src]).csOff.joinDone (resErr stBusy)
      else s
    else
      let s := s.noteMember h f
      if s.csSeen h then s
      else
        let s := (s.csForward h csMember (memberWords f divs)).dWorst
        if f.role.val = 0 then s else s.heardMaster h.src f divs)

/-- This package becomes master (R368): its channels are those of its join record. -/
def State.becomeMaster (s : State) : State :=
  let s := (s.put .CS_STAT_STATE 0 3).setMaster s.csIndex (s.selfKey false)
  let s := s.takeDivs s.csIndex ((List.range 8).map fun c => BitVec.ofNat 64 (s.chanDiv c)) (s.selfKey false)
  s.dWorst.joinDone (resOk s.csIndex)

/-- The candidate with the lowest (PRIORITY, serial number). -/
def bestCand : List (Nat × Nat × Nat) → Option (Nat × Nat × Nat)
  | [] => none
  | x :: xs => match bestCand xs with
    | some y => if decide (x.1 < y.1) || x.1 == y.1 && decide (x.2.1 ≤ y.2.1) then some x else some y
    | none => some x

/-- An item joins a list once. -/
def once {α : Type} [BEq α] (l : List α) (x : α) : List α := if l.contains x then l else l ++ [x]

/-- ELECT (R368, R375): a candidacy, for the formation or for a channel of an island (DEDUCED, log entry 174: an island ELECT
names its channel). -/
def execElect (h : CasHdr) (island : Option (Fin 8)) (prio : Byte) (serial : Word) (s : State) : Res :=
  let c := (prio.toNat, serial.toNat, h.src.val)
  .next (s.onFlood h csElect ((match island with | some k => [1, k.val] | none => [0, 0]) ++ [prio.toNat, serial.toNat]) fun s =>
    s.updCas fun x => match island with
      | some k => { x with isle := once x.isle (k.val, c) }
      | none => if s.csState = 1 then { x with cands := once x.cands c } else x)

/-- MASTER_SEARCH_TIMEOUT (R366, R368): no master announced within 10 ms; a master-capable member stands, and the election
runs 2 ms. With nobody reachable who may be master the join completes while the package searches on. -/
def execMasterSearchTimeout (s : State) : Res :=
  .next (
    if s.csState ≠ 1 || s.cas.electAt.isSome || s.now < s.cas.joinAt + 10000000 then s
    else
      let now := s.now
      let cap := s.flag .CS_CTL_MASTER_CAP 0
      let others := s.cas.mems.any fun x => match x.2 with | some m => m.info.masterCap | none => false
      if !cap && !others && s.cas.cands.isEmpty then s.joinDone (resOk s.csIndex)
      else
        let s := if cap then
            (s.csFlood csElect [0, 0, s.get .CS_CTL_PRIORITY 0, Config.serial]).updCas fun x => { x with cands := once x.cands s.selfCand }
          else s
        s.updCas fun x => { x with electAt := some now })

/-! ### Ticks on a channel -/

/-- Deliver a tick of channel `c` to the polders bound to it, at edge + L_CASCADE (R370). -/
def State.chanTick (s : State) (c num edge : Nat) (count : Word) : State :=
  let now := s.chan c
  let iv := if now.ticked then ((edge - now.edge) :: now.ivals).take 16 else now.ivals
  let s := s.updChan c fun x => { x with num := num, edge := edge, count := count, ticked := true, ivals := iv }
  (s.bound c).foldl (fun s p => (s.updCtx p fun x => { x with first := some num }).tickEdge p edge s.lCascade count none) s

/-- The words of a TICK frame, and one flooded for an edge made here. -/
def casTickWords (f : CasTick) : List Nat := [f.chan, f.num.toNat, f.edge.toNat, f.count.toNat, b2n f.island]
def State.floodTick (s : State) (c num edge : Nat) (count : Word) (island : Bool) : State :=
  s.csFlood csTick [c, num, edge, count.toNat, b2n island]

/-- The channels a polder's edges carry while this package is master (R370). -/
def State.masterChans (s : State) (p : Nat) : List Nat :=
  if s.csState = 3 then (List.range 8).filter fun c => (s.chan c).pol == some p else []

/-- The encoder input an island master counts: CHAN_ENC, or its pair while that has failed. -/
def State.isleEnc (s : State) (c : Nat) : Nat :=
  let e := s.get .CS_CHAN_ENC c
  if s.encBad e && s.guardedCfg then encPair e else e
def State.islePos (s : State) (c : Nat) : Int :=
  if s.flag .CS_CHAN_DIR c then -(s.encPos (s.isleEnc c)) else s.encPos (s.isleEnc c)

/-- An edge of channel `c` is due at this island master (R375, R84). -/
def State.isleDue (s : State) (c : Nat) : Bool :=
  s.isIsle c && !s.encBad (s.isleEnc c) &&
    decide ((s.chan c).p0 + edgeCount (s.get .CS_CHDIV_FRAC c + s.get .CS_CHDIV_N c * 2 ^ 32) ((s.chan c).k + 1) ≤ s.islePos c)

/-- TICK_EDGE (R82, R370, R375): an edge of the polder's own source; a channel polder's edge at the master is flooded and
delivered on its channel, and a polder on SOURCE 4, or without a source of its own, sees the edges this package makes as island
master. -/
def execTickEdge (p : Pol) (chk : Option (Nat × Nat)) (s : State) : Res :=
  .next (
    if (s.polder p).isNone || (s.ctx p).encFailed then s
    else if s.tkSource p = 4 || s.get .TK_NOW_STATE p = 0 then
      let c := s.get .CS_TBIND_CHANNEL p
      if s.flag .CS_TBIND_VALID p && s.isleDue c then
        let num := ((s.chan c).num + 1) % 2 ^ 48
        let cnt := BitVec.ofNat 64 (unsigned64 (s.encPos (s.isleEnc c)))
        ((s.updChan c fun x => { x with k := x.k + 1 }).floodTick c num s.now cnt true).chanTick c num s.now cnt
      else s
    else match s.edgeDue p with
    | some (e, cnt) =>
      let t := s.tickEdge p e (s.tkOffset p) cnt chk
      let num := t.get .TK_NOW_NUM p
      (s.masterChans p).foldl (fun t c => (t.floodTick c num e cnt false).chanTick c num e cnt) t
    | none => s)

/-- Reconcile a channel to the new master's tick (R378): L is the next local number, OFS = L − the master's number. -/
def State.reconcile (s : State) (m : Nat) (f : CasTick) : State :=
  let c := f.chan.val
  let x := s.chan c
  let l := (x.num + 1) % 2 ^ 48
  let ofs := (l + 2 ^ 48 - f.num.toNat) % 2 ^ 48
  let s := (s.put .CS_CHAN_OFS c ofs).bump .CS_CNT_RECONCILES 0 1
  let s := s.csFlood csRecon [s.csIndex, c, x.old, m, ofs]
  (s.chanLog c 0xA6 [c, x.old * 2 ^ 56 + m, ofs]).updChan c fun x => { x with adopt := false, made := 0, electAt := none }

/-- The number a master's tick has here (R372). -/
def State.localNum (s : State) (f : CasTick) : Nat := (f.num.toNat + s.get .CS_CHAN_OFS f.chan) % 2 ^ 48

/-- Take a tick of the channel's maker `m` (R370, R378): one whose number is not ahead of the last local one was already taken. -/
def State.takeChan (s : State) (m : Nat) (f : CasTick) : State :=
  let c := f.chan.val
  let x := s.chan c
  let st := s.get .CS_CHAN_STATE c
  let s := if x.ticked && (x.adopt || st = 2 || st = 4) then
      (if x.adopt then s else s.updChan c fun y => { y with old := m }).reconcile m f
    else s
  let s := (s.put .CS_CHAN_STATE c (if f.island then 3 else 1)).put .CS_CHAN_MASTER c m
  let l := s.localNum f
  let ahead := (l + 2 ^ 48 - x.num) % 2 ^ 48
  if x.ticked && (ahead = 0 || 2 ^ 47 ≤ ahead) then s else s.chanTick c l f.edge.toNat f.count

/-- The package takes its ticks of the channel from member `m`: the channel's maker, or the master followed of a channel not
known yet. -/
def State.takesFrom (s : State) (c m : Nat) : Bool :=
  s.csState != 0 && s.csState != 1 && !s.isIsle c &&
    (if s.get .CS_CHAN_STATE c = 0 then s.csMaster == m else s.get .CS_CHAN_MASTER c == m)

/-- TICK (R370, R374, R377 to R379). One that arrives in the cycle holdover began is taken, and holdover starts from it; one whose
local number a holdover edge has is discarded; a later one ends holdover. -/
def execTick (h : CasHdr) (f : CasTick) (s : State) : Res :=
  let c := f.chan.val
  .next (s.onFlood h csTick (casTickWords f) fun s =>
    let x := s.chan c
    let st := s.get .CS_CHAN_STATE c
    let now := s.now
    if !s.takesFrom c h.src then s
    else if st = 2 && !x.adopt && s.cas.heldAt = now && x.made = 0 then
      (((s.put .CS_CHAN_STATE c 1).takeChan h.src f).put .CS_CHAN_STATE c 2).updChan c fun x => { x with made := 0 }
    else if st = 2 && !x.adopt && decide ((x.num + 2 ^ 48 - s.localNum f) % 2 ^ 48 < x.made) then s
    else
      let s := if s.csState = 4 then
          (s.put .CS_STAT_STATE 0 (if f.island then 6 else 2)).updCas fun y => { y with hbAt := now } else s
      s.takeChan h.src f)

/-- HB (R363, R373). -/
def execHb (h : CasHdr) (st : Fin 8) (s : State) : Res :=
  let i := h.src.val
  .next (s.onFlood h csHb [st] fun s =>
    let now := s.now
    s.updCas fun x => { x with hbAt := if s.csMaster = i then now else x.hbAt,
                               mems := match s.member i with
                                 | some m => Tbl.set none x.mems i (some { m with hbAt := now })
                                 | none => x.mems })

/-- Member `i` is the master followed, or makes a channel's edges. -/
def State.isMaker (s : State) (i : Nat) : Bool :=
  s.csMaster == i ||
    (List.range 8).any fun c => s.get .CS_CHAN_MASTER c == i && (s.get .CS_CHAN_STATE c == 1 || s.get .CS_CHAN_STATE c == 3)

/-- HB_SEND (R363): every 20 µs. A member other than a master that has sent none for 60 µs is no longer reachable (DESIGN CHOICE,
log entry 175). -/
def execHbSend (s : State) : Res :=
  .next (if s.csJoined then
      let now := s.now
      let old := (List.range 16).filter fun i => match s.member i with
        | some m => !s.isMaker i && decide (m.hbAt + 60000 < now)
        | none => false
      (old.foldl (fun s i => s.dropMember i) (s.csFlood csHb [s.csState])).dWorst
    else s)

/-- A channel enters holdover (R373). -/
def State.holdChan (s : State) (cause c : Nat) : State :=
  ((s.chanLog c 0xA1 [c, (s.chan c).num, cause]).put .CS_CHAN_STATE c 2).updChan c fun x => { x with made := 0, electAt := none }

/-- The channels whose edges member `m` makes enter holdover (R373): cause 0 route, 1 heartbeat, 2 left. A package that itself makes
a channel's edges, or takes another's from a further island master, goes on with those. -/
def State.holdover (s : State) (cause m : Nat) : State :=
  let live := fun (s : State) c => s.get .CS_CHAN_STATE c == 1 || s.get .CS_CHAN_STATE c == 3
  let now := s.now
  let lost := (List.range 8).filter fun c => live s c && s.get .CS_CHAN_MASTER c == m
  let s := (s.bump .CS_CNT_HOLDOVERS 0 1).updCas fun x =>
    { x with heldAt := now, isle := x.isle.filter fun y => !lost.contains y.1 }
  let s := lost.foldl (fun s c => s.holdChan cause c) s
  if s.csMaster ≠ m then s
  else if (List.range 8).any s.isIsle then (s.put .CS_STAT_STATE 0 5).setMaster s.csIndex (s.selfKey true)
  else match (List.range 8).find? (live s) with
    | some c => (s.put .CS_STAT_STATE 0 6).setMaster (s.get .CS_CHAN_MASTER c) (s.chan c).key
    | none => s.put .CS_STAT_STATE 0 4

/-- A member follows master `m` and can lose it. -/
def State.canLose (s : State) (m : Nat) : Bool :=
  (s.csState == 2 || s.csState == 5 || s.csState == 6) && m != s.csIndex && s.isMaker m

/-- Forget the best way to a member: a link on it is lost (R373). -/
def State.loseVia (s : State) (i : Nat) : State :=
  match s.member i, s.csRoute i with
  | some m, some c =>
    let via := m.via.filter fun x => x.1 != c
    if via.isEmpty then s.dropMember i
    else s.updCas fun x => { x with mems := Tbl.set none x.mems i (some { m with via := via }) }
  | _, _ => s

/-- MASTER_LOSS (R373): of master `m`. By heartbeat once 60 µs have passed without one; by route when a link loss on the way to it
has been detected and no other way is left (how a loss elsewhere in the cascade becomes known is left open, log entry 176). -/
def execMasterLoss (m : Fin 16) (route : Bool) (s : State) : Res :=
  .next (
    if !s.canLose m then s
    else if route then
      let s := s.loseVia m
      if (s.csRoute m).isSome then s else s.holdover 0 m
    else
      let last := if s.csMaster = m.val then s.cas.hbAt else ((s.member m).map (·.hbAt)).getD 0
      if s.now < last + 60000 then s else s.holdover 1 m)

/-- `j` mean intervals of the last 16 received (R374). -/
def CsChan.after (x : CsChan) (j : Nat) : Nat := j * x.ivals.sum / max x.ivals.length 1
/-- The edge PTIME of the last TICK received: `made` holdover edges have followed it. -/
def CsChan.base (x : CsChan) : Nat := x.edge - x.after x.made

/-- HOLDOVER_EDGE (R374): edge j at E + j × P, with the next local number; `made` counts j from E. With no interval received
there is no P and no edge (DESIGN CHOICE, log entry 177). -/
def execHoldoverEdge (chan : Fin 8) (s : State) : Res :=
  let c := chan.val
  let x := s.chan c
  let e0 := x.base
  let e := e0 + x.after (x.made + 1)
  .next (
    if s.get .CS_CHAN_STATE c ≠ 2 || x.electAt.isSome || x.ivals.isEmpty || s.now < e || s.get .CS_TIMING_HOLD_TICKS 0 ≤ x.made ||
        e0 + s.get .CS_TIMING_HOLD_MS 0 * 1000000 < e then s
    else
      let iv := x.ivals
      let t := (s.updChan c fun x => { x with made := x.made + 1 }).chanTick c ((x.num + 1) % 2 ^ 48) e x.count
      t.updChan c fun x => { x with ivals := iv })

/-- CHANNEL_STALL (R376). -/
def State.chanStall (s : State) (c : Nat) : State :=
  let s := (s.chanLog c 0xA3 [c, (s.chan c).num]).put .CS_CHAN_STATE c 4
  ((s.bound c).foldl (fun s p => s.put .TK_NOW_STATE p 3) s).updChan c fun x => { x with electAt := none }

/-- HOLDOVER_END (R374 to R376): by HOLD_TICKS or HOLD_MS; those who may stand for island master do, and with no candidate
in reach the channel stalls. -/
def execHoldoverEnd (chan : Fin 8) (s : State) : Res :=
  let c := chan.val
  let x := s.chan c
  .next (
    if s.get .CS_CHAN_STATE c ≠ 2 || x.electAt.isSome then s
    else if x.made < s.get .CS_TIMING_HOLD_TICKS 0 && s.now < x.base + s.get .CS_TIMING_HOLD_MS 0 * 1000000 then s
    else
      let now := s.now
      let mine := s.flag .CS_CTL_PROMOTE 0 && s.flag .CS_CHAN_ENC_EN c
      let others := (List.range 16).any fun i => s.flag .CS_MEM_REACH i && s.flag .CS_MEM_PROMOTE i
      let s := if mine then
          (s.csFlood csElect [1, c, s.get .CS_CTL_PRIORITY 0, Config.serial]).updCas fun x => { x with isle := once x.isle (c, s.selfCand) }
        else s
      if mine || others then s.updChan c fun x => { x with electAt := some now } else s.chanStall c)

/-- An island election of channel `c` ends (R375): this package, if it stands and ranks first, makes the channel's edges from
CHAN_ENC; else it follows the winner; with no candidate the channel stalls. -/
def State.isleEnd (s : State) (c : Nat) : State :=
  match bestCand ((s.cas.isle.filter fun x => x.1 == c).map (·.2)) with
  | none => s.chanStall c
  | some w =>
    let key := rankKey true w.1 w.2.1
    let own := decide (w = s.selfCand)
    let p0 := s.islePos c
    let first := ((s.chan c).num + 1) % 2 ^ 48
    let s := (s.adoptChan c w.2.2 key).updChan c fun x => { x with adopt := !own && x.adopt, p0 := p0, k := 0 }
    let s := if s.csState = 4 || keyBefore key s.cas.key then s.setMaster w.2.2 key else s
    (s.put .CS_STAT_STATE 0 (if own || (List.range 8).any s.isIsle then 5 else 6)).csLog 0xA2 [c, w.2.2, first]

/-- ELECTION_WAIT_END (R368, R375). -/
def execElectionWaitEnd (island : Bool) (chan : Fin 8) (s : State) : Res :=
  .next (
    if island then
      match (s.chan chan).electAt with
      | some t => if s.get .CS_CHAN_STATE chan = 2 && t + 200000 ≤ s.now then s.isleEnd chan else s
      | none => s
    else match s.cas.electAt with
      | some t =>
        if s.csState = 1 && t + 2000000 ≤ s.now then
          let l := s.cas.cands
          let s := s.updCas fun x => { x with electAt := none, cands := [] }
          match bestCand l with
          | none => s.joinDone (resOk s.csIndex)
          | some w =>
            if w = s.selfCand then s.becomeMaster
            else ((s.put .CS_STAT_STATE 0 2).setMaster w.2.2 (rankKey false w.1 w.2.1)).joinDone (resOk s.csIndex)
        else s
      | none => s)

/-- RECON (R378): another member reconciled; every member records it. -/
def execRecon (h : CasHdr) (index : Fin 16) (chan : Fin 8) (old new : Fin 16) (ofs : BitVec 48) (s : State) : Res :=
  .next (s.onFlood h csRecon [index, chan, old, new, ofs.toNat] fun s =>
    s.chanLog chan 0xA6 [chan, old.val * 2 ^ 56 + new, ofs.toNat])

/-- LEAVE (R367): the sender leaves; a leaving master is lost with cause "left". -/
def execLeave (h : CasHdr) (s : State) : Res :=
  .next (s.onFlood h csLeave [] fun s =>
    let s := s.dropMember h.src
    if s.canLose h.src then s.holdover 2 h.src else s.dWorst)

/-! ### Time (R369) -/

/-- The time parent's port: the route to the master (R369). -/
def State.timePort (s : State) : Option Nat := s.csRoute s.csMaster

/-- The one-way delay of a link in ns from the four stamps (R369); ASYM is signed ps. -/
def State.calDelay (s : State) (c t1 t2 t3 t4 : Nat) : Int :=
  let a := s.get .CS_PORT_ASYM (instPort2 c)
  let asym : Int := if a < 32768 then a else (a : Int) - 65536
  ((((t4 : Int) - t1) - ((t3 : Int) - t2)) * 500 + asym) / 1000

/-- CAL (R369): the peer's CAL is answered with its arrival *t*2 and the answer's *t*3; an answer gives the link's delay. -/
def execCal (h : CasHdr) (answer : Option (Word × Word)) (s : State) : Res :=
  let c := h.port.val
  .next (s.onLink h fun s =>
    let now := s.now
    match answer, (s.csPort c).cal1 with
    | none, _ => s.csSend c csCal [1, now, now]
    | some (t2, t3), some t1 =>
      let d := (s.calDelay c t1 t2.toNat t3.toNat now).toNat
      ((s.put .CS_PORT_DELAY (instPort2 c) (min d 65535)).updCsPort c fun q => { q with cal1 := none, cald := true }).dWorst
    | some _, none => s)

/-- CAL_SEND (R369): this end starts two-way timing. -/
def execCalSend (port : Fin 4) (s : State) : Res :=
  let now := s.now
  .next (if s.csUp port then (s.csSend port csCal [0, now]).updCsPort port fun q => { q with cal1 := some now } else s)

/-- SYNC (R369, R378, R81): the time parent's PTIME at a stamped instant, which DELAY later is now; the offset is slewed while
PT_CTL.SRC is 3, and CONVERGING reads 1 while it exceeds 20 ns. -/
def execSync (h : CasHdr) (parentTime : Word) (s : State) : Res :=
  .next (s.onLink h fun s =>
    if s.timePort ≠ some h.port.val then s
    else
      let off := signed64 (unsigned64 ((parentTime.toNat : Int) + s.get .CS_PORT_DELAY (instPort2 h.port) - s.now))
      let s := s.setFlag .CS_STAT_CONVERGING 0 (decide (20 < off.natAbs))
      if s.get .PT_CTL_SRC 0 = 3 then (s.sourceLost false).servoPhase off else s)

/-- SYNC_SEND (R363): eight per ms on each port. -/
def execSyncSend (s : State) : Res :=
  .next (if s.csJoined then (List.range 4).foldl (fun s c => if s.csUp c then s.csSend c csSync [s.now] else s) s else s)

/-! ### Links (R364, R373, R384) -/

/-- CASCADE_LINK_RESEND (R364): an empty frame with LACK has come, or LACK has not advanced for 5 µs; what is not acknowledged is
sent again from LACK + 1. -/
def execCascadeLinkResend (port : Fin 4) (lack : Option (BitVec 16)) (s : State) : Res :=
  let c := port.val
  let now := s.now
  .next (
    if !s.csLink c then s
    else
      let s := match lack with | some l => s.csAck c l.toNat | none => s
      let q := s.csPort c
      if q.sent.isEmpty || lack.isNone && now < q.ackAt + 5000 then s
      else
        let s := (s.bump .CS_CNT_RESENDS 0 1).updCsPort c fun q => { q with ackAt := now }
        q.sent.foldl (fun s f => s.emit (.cascade c { f with lack := q.got })) s)

/-- CASCADE_LINK_DOWN (R373, R384): the port's way to each member ends; a master no longer reached is lost. -/
def execCascadeLinkDown (port : Fin 4) (s : State) : Res :=
  let c := port.val
  .next (
    if !s.flag .CS_PORT_LINK (instPort2 c) then s
    else
      let s := s.csLog 0xA4 [c, s.get .CS_PORT_PEER (instPort2 c)]
      let s := (s.setFlag .CS_PORT_LINK (instPort2 c) false).setFlag .CS_PORT_PEER_OK (instPort2 c) false
      let s := s.updCas fun x =>
        { x with ports := Tbl.erase x.ports c,
                 mems := Tbl.mapVals (fun m => m.map fun m => { m with via := m.via.filter fun v => v.1 != c }) x.mems }
      let gone := (List.range 16).filter fun i => match s.member i with | some m => m.via.isEmpty | none => false
      let s := gone.foldl (fun s i => s.dropMember i) s
      (gone.foldl (fun s i => if s.canLose i then s.holdover 0 i else s) s).dWorst)

/-- CASCADE_LINK_UP (R384): the PCS link of an enabled port. -/
def execCascadeLinkUp (port : Fin 4) (s : State) : Res :=
  let i := instPort2 port
  .next (if s.flag .CS_PORT_LINK i || !(s.get .CS_CTL_PORTS 0).testBit port then s
    else ((s.setFlag .CS_PORT_LINK i true).updCas fun x => { x with ports := Tbl.erase x.ports port }).csLog 0xA4
      [port, s.get .CS_PORT_PEER i])

/-! ### Joining and leaving (R365 to R367) -/

def specCasJoin : OpSpec :=
  { secureOnly := true, namesPol := false, needsPhase7 := true, powerFail := false, dmodes := [1], writesBuf := false,
    m0 := 0xF, m1 := 0 }

/-- The join record's fields keep their ranges and name what exists (R365). -/
def State.joinOk (s : State) (w : Nat → Nat) : Bool :=
  bitsOf (w 0) 31 0 != 0 && bitsOf (w 0) 63 42 == 0 && decide (1000 ≤ bitsOf (w 1) 31 0) && decide (bitsOf (w 1) 31 0 ≤ 100000) &&
    decide (1 ≤ bitsOf (w 1) 47 32) && decide (1 ≤ bitsOf (w 1) 63 48) && decide (bitsOf (w 1) 63 48 ≤ 1000) &&
    ((List.range 8).all fun c =>
      let p := bitsOf (w 2) (8 * c + 4) (8 * c)
      let en := bitOf (w 2) (8 * c + 7)
      let e := bitsOf (w 3) (8 * c + 3) (8 * c)
      (!en || s.polTickBound p && s.tkSource p == 1) &&
        (!bitOf (w 3) (8 * c + 7) || (List.range 32).any fun q => match s.polder q with
          | some v => v.encs.testBit e && s.flag .CS_TBIND_VALID q && s.get .CS_TBIND_CHANNEL q == c
          | none => false) &&
        bitsOf (w 2) (8 * c + 6) (8 * c + 5) == 0 && bitsOf (w 3) (8 * c + 6) (8 * c + 4) == 0) &&
    w 4 == 0 && w 5 == 0 && w 6 == 0 && w 7 == 0

/-- Put a join record in force with its ports (R366, 1): the package searches. -/
def State.joinStart (s : State) (mask : Nat) (w : Nat → Nat) : State :=
  let now := s.now
  let s := ((s.put .CS_CTL_PORTS 0 mask).put .CS_CTL_PRIORITY 0 (bitsOf (w 0) 39 32)).put .CS_CTL_CASCADE_ID 0 (bitsOf (w 0) 31 0)
  let s := (s.setFlag .CS_CTL_MASTER_CAP 0 (bitOf (w 0) 40)).setFlag .CS_CTL_PROMOTE 0 (bitOf (w 0) 41)
  let s := (s.putTiming (w 1)).put .CS_STAT_STATE 0 1
  let s := (List.range 8).foldl (fun s c =>
    let s := (s.put .CS_CHAN_ENC c (bitsOf (w 3) (8 * c + 3) (8 * c))).setFlag .CS_CHAN_ENC_EN c (bitOf (w 3) (8 * c + 7))
    let s := (s.put .CS_CHAN_OFS c 0).put .CS_CHAN_STATE c 0
    s.updChan c fun _ => { CsChan.reset with pol := if bitOf (w 2) (8 * c + 7) then some (bitsOf (w 2) (8 * c + 4) (8 * c)) else none }) s
  s.updCas fun x => { x with cands := [], isle := [], electAt := none, joinAt := now, ports := [], seen := [],
                             joined := some (mask, (List.range 8).map w) }

/-- CASCADE_JOIN (R365, R366): completes later, when a master is followed or chosen. -/
def execCascadeJoin (c : Cmd) (s : State) : Res :=
  .next (runCmdLater specCasJoin c (fun s =>
      let w := fun i => s.bufWord c i
      let mask := bitsOf c.e.p0 3 0
      if s.csJoined then (s, some (resErr stBusy))
      else if s.bufLen c ≠ 64 then (s, some (resErr stInvalidBuffer))
      else if mask = 0 || !s.joinOk w then (s, some (resErr stInvalidField))
      else ((s.joinStart mask w).updCas fun x => { x with join := some c }, none)) s)

def specCasLeave : OpSpec :=
  { secureOnly := true, namesPol := false, needsPhase7 := false, powerFail := false, dmodes := [0], writesBuf := false,
    m0 := 0, m1 := 0 }

/-- Leave the cascade (R367): every channel in use stalls. -/
def State.csLeaveAll (s : State) : State :=
  let s := s.csFlood csLeave []
  let s := (List.range 8).foldl (fun s c => if (s.bound c).isEmpty && s.get .CS_CHAN_STATE c = 0 then s else s.chanStall c) s
  s.csOff

/-- CASCADE_LEAVE (R367). A join that waits ends with BUSY (DESIGN CHOICE, log entry 178). -/
def execCascadeLeave (c : Cmd) (s : State) : Res :=
  .next (runCmd specCasLeave c (fun s =>
    if s.csJoined then ((s.joinDone (resErr stBusy)).csLeaveAll, resOk) else (s, resOk)) s)

def specSetTbind : OpSpec :=
  { secureOnly := false, namesPol := false, needsPhase7 := false, powerFail := false, dmodes := [0], writesBuf := false,
    m0 := 0xFFFF, m1 := 0xF }

/-- The polder a feature number names; the feature is secure-only (R46, R372): any other sender finds no such object. -/
def State.csTbind (s : State) (p : Nat) : Nat := s.get .CS_TBIND_CHANNEL p + s.get .CS_TBIND_VALID p * 8

/-- SET_CS_TBIND (R372). -/
def execSetCsTbind (c : Cmd) (s : State) : Res :=
  .next (runCmd specSetTbind c (fun s =>
    let p := bitsOf c.e.p0 15 0 - 0x500
    if !s.srcSecure c.src then (s.silence c, resErr stNoSuchObject)
    else
      ((s.put .CS_TBIND_CHANNEL p (bitsOf c.e.p1 2 0)).setFlag .CS_TBIND_VALID p (bitOf c.e.p1 3), resOk (s.csTbind p))) s)

/-! ### Relaying (R383) -/

def specSetRelay : OpSpec :=
  { secureOnly := false, namesPol := false, needsPhase7 := false, powerFail := false, dmodes := [0], writesBuf := false,
    m0 := 0xFFFF, m1 := 0x1F3F }

/-- The relay of a source's SQ as feature 0x0020 shows it. -/
def relayValue (q : Nat) (r : Option Nat) : Nat := match r with | some i => q + i * 256 + 4096 | none => q

/-- SET_RELAY (R383). -/
def execSetRelay (c : Cmd) (s : State) : Res :=
  .next (runCmd specSetRelay c (fun s =>
    let q := bitsOf c.e.p1 5 0
    match s.sq (qKey c.src.num q) with
    | none => (s, resErr stNoSuchObject)
    | some r =>
      (s.setSq (qKey c.src.num q) (some { r with relay := if bitOf c.e.p1 12 then some (bitsOf c.e.p1 11 8) else none }),
       resOk (relayValue q r.relay))) s)

/-- A relayed entry with all its data waits for the arbiter and executes as the cascade transport (R32, R383). -/
def State.relayIn (s : State) (h : CasHdr) (x : RelayCmdHead) (data : List Byte) : State :=
  let src : Source := .cascade h.port h.src x.mb
  if x.total ≤ 0x100000 then s.updCp fun c => { c with direct := c.direct ++ [(src, x.e, data)] }
  else s.finish { src := src, sqid := 0, e := x.e, list := [], data := [] } (resErr stInvalidBuffer)

/-- RELAY_CMD (R383): another member's entry, or more of its data. -/
def execRelayCmd (h : CasHdr) (hd : Option RelayCmdHead) (data : List Byte) (s : State) : Res :=
  let words := match hd with
    | some x => b2n x.mb :: entryWords x.e ++ [x.total]
    | none => []
  .next (s.onRoute h csRelayCmd (words ++ data.map (·.toNat)) fun s =>
    match hd.map (·, data) <|> (Tbl.get none s.cas.asmCmd h.src).map fun y => (y.1, y.2 ++ data) with
    | none => s
    | some (x, d) =>
      if d.length < x.total then s.updCas fun c => { c with asmCmd := Tbl.set none c.asmCmd h.src (some (x, d)) }
      else (s.updCas fun c => { c with asmCmd := Tbl.erase c.asmCmd h.src }).relayIn h x d)

/-- A command this package relayed and whose completion is due: the oldest with its CID. -/
def State.relayed (s : State) (cid : Nat) : Option Running :=
  s.cp.running.find? fun r => r.e.cid == cid && !r.attached && r.relayTo.isSome

/-- A relayed completion with all its data (R383): it goes to the SQ's CQ, with the member's tick number. -/
def State.relayDone (s : State) (x : RelayCplHead) (data : List Byte) : State :=
  match s.relayed x.cid.toNat with
  | some r =>
    let c : Cmd := { src := r.src, sqid := Fin.ofNat 64 r.sqid, e := r.e, list := [], data := [] }
    s.finishAt c { status := x.status.toNat, result := x.result.toNat, out := data } x.tickLo.toNat
  | none => s

/-- RELAY_CPL (R383): a completion, or more of its data. -/
def execRelayCpl (h : CasHdr) (hd : Option RelayCplHead) (data : List Byte) (s : State) : Res :=
  let words := match hd with
    | some x => [x.result.toNat, x.cid.toNat + x.status.toNat * 2 ^ 16 + x.tickLo.toNat * 2 ^ 44, x.total]
    | none => []
  .next (s.onRoute h csRelayCpl (words ++ data.map (·.toNat)) fun s =>
    match hd.map (·, data) <|> (Tbl.get none s.cas.asmCpl h.src).map fun y => (y.1, y.2 ++ data) with
    | none => s
    | some (x, d) =>
      if d.length < x.total then s.updCas fun c => { c with asmCpl := Tbl.set none c.asmCpl h.src (some (x, d)) }
      else (s.updCas fun c => { c with asmCpl := Tbl.erase c.asmCpl h.src }).relayDone x d)

/-! ### Exported windows (R380) -/

/-- The stop of a cascade port. -/
def casStop (c : Nat) : BitVec 12 := stopId (12 + c / 2) (36 + c % 2)

/-- The physical address an exported window gives a request, with its polder (R380). An offset that is not 64 B aligned is outside
every window (DESIGN CHOICE, log entry 178). -/
def State.csWindow (s : State) (w off : Nat) (write : Bool) : Option (Nat × Nat) :=
  if s.flag .CS_WATTR_VALID w && s.flag (if write then .CS_WATTR_WR else .CS_WATTR_RD) w &&
      off + 64 ≤ s.get .CS_WATTR_PAGES w * 4096 && off % 64 = 0 then
    some (s.get .CS_WTGT_TGT w * 4096 + off, s.get .CS_WATTR_POLDER w)
  else none

/-- A line request of the cascade stop under a tag. -/
def State.casReq (s : State) (c : Nat) (ty : MsgTy) (pa p a : Nat) : Msg :=
  let la := pa / 64
  { plainMsg ty (casStop c) (bankStop (s.home la) (dirBank la)) la a 0 with
    txid := BitVec.ofNat 12 (s.freeIoTx (casStop c)), pol := Fin.ofNat 32 p, sec := s.cascSec c }

/-- Send a cascade stop's line request home and note whom its answer goes to. -/
def State.casServe (s : State) (h : CasHdr) (x : XferArg) (m : Msg) : State :=
  (s.updCas fun c => { c with reqs := c.reqs ++ [{ stop := m.src, tx := m.txid, member := h.src, arg := x }] }).ioSend m

/-- The words of a PUT, GET_REQ or answer. -/
def argWords (x : XferArg) : List Nat := [x.pol, x.win, x.off.toNat]

/-- PUT (R380, R382): one line into an exported window; a refused one is acknowledged all the same. -/
def execPut (h : CasHdr) (x : XferArg) (data : BitVec 512) (s : State) : Res :=
  .next (s.onRoute h csPut (argWords x ++ lineWords data) fun s =>
    match s.csWindow x.win x.off.toNat true with
    | none => (s.refuse (h.port / 2) (.cascade h.port) 0 (s.cascSec h.port) x.off.toNat 6).csSendTo h.src csPutAck (argWords x)
    | some (pa, p) =>
      s.casServe h x { s.casReq h.port .write pa p 4 with data := data, mask := BitVec.ofNat 64 (2 ^ 64 - 1) })

/-- GET_REQ (R380, R382): one line out of an exported window; a refused one reads zeros. -/
def execGetReq (h : CasHdr) (x : XferArg) (s : State) : Res :=
  .next (s.onRoute h csGetReq (argWords x) fun s =>
    match s.csWindow x.win x.off.toNat false with
    | none =>
      (s.refuse (h.port / 2) (.cascade h.port) 0 (s.cascSec h.port) x.off.toNat 6).csSendTo h.src csGetData
        (argWords x ++ [0, 0, 0, 0, 0, 0, 0, 0])
    | some (pa, p) => s.casServe h x (s.casReq h.port .readShared pa p 31))

/-- A staged valid window names polder 0, which the commit rule of R357 turns away. -/
def State.csStageBad (s : State) : Bool :=
  (List.range 16).any fun w => s.flag .CS_STG_WATTR_VALID w && s.get .CS_STG_WATTR_POLDER w == 0

/-- Copy the staged windows into force in one cycle. -/
def State.csCommit (s : State) : State :=
  if s.csStageBad then s
  else
    let cp := fun (src dst : Fld) (s : State) => (List.range 16).foldl (fun t w => t.put dst w (s.get src w)) s
    cp .CS_STG_WATTR_PAGES .CS_WATTR_PAGES (cp .CS_STG_WATTR_POLDER .CS_WATTR_POLDER (cp .CS_STG_WATTR_WR .CS_WATTR_WR
      (cp .CS_STG_WATTR_RD .CS_WATTR_RD (cp .CS_STG_WATTR_VALID .CS_WATTR_VALID (cp .CS_STG_WTGT_TGT .CS_WTGT_TGT s)))))

/-- CS_WCOMMIT (R380, R357): a secure write with GO = 1. -/
def execCsWcommit (a : Acc) (h : Half) (v : Word) (s : State) : Res :=
  .next (s.secureOnly a h (hubAddr h 0x90001900) fun s => if v.getLsbD 0 then s.csCommit else s)

/-! ### Transfers (R381, R382) -/

/-- A descriptor that runs: OP 0 or 1 with a length of 64 to 1 MiB and aligned fields. One whose length or offset is wrong completes
like one of OP 2 (DESIGN CHOICE, log entry 178). -/
def Xfer.ok (x : Xfer) : Bool :=
  decide (x.op ≤ 1) && decide (64 ≤ x.len) && decide (x.len ≤ 1048576) && x.len % 64 == 0 && x.off % 64 == 0

/-- Start the next descriptor of a polder's ring, if the polder is attached to a cascade port and its engine is free (R381, R382).
-/
def State.nextXfer (s : State) (p : Nat) : State :=
  match s.polder p with
  | none => s
  | some v =>
    let tail := s.get .CS_SQTAIL_VALUE (instD p 0)
    if v.sendSize = 0 || v.cports = 0 || (s.xfer p).isSome || v.sendHead = tail then s
    else
      let (s, b) := s.polRead 0 p (v.sendBase + v.sendHead * 32) 32
      let w := wordAt b 0
      let x : Xfer := { op := bitsOf w 1 0, dest := bitsOf w 5 2, win := bitsOf w 9 6, len := bitsOf w 63 32, off := wordAt b 1,
                        loc := bitsOf (wordAt b 2) 51 0, done := bitsOf (wordAt b 3) 51 0 / 8 * 8, got := [], unreach := false,
                        lostAt := none }
      let x := { x with unreach := !x.ok || (s.csRoute x.dest).isNone }
      let s := s.setXfer p (some x)
      if x.unreach then s else s.sendXfer p x

/-- The mailbox doorbell takes a new tail below the ring's size (R381), and ignores another (DESIGN CHOICE, log entry 178); the last
tail written wins. -/
def State.sqTail (s : State) (p v : Nat) : State :=
  match s.polder p with
  | some q => if v < q.sendSize then (s.put .CS_SQTAIL_VALUE (instD p 0) v).nextXfer p else s
  | none => s

/-- CS_SQTAIL (R381). -/
def execCsSqtail (a : Acc) (p : Pol) (v : Word) (s : State) : Res :=
  .next (s.mboxAccess a p 0x2800 fun s => s.sqTail p v.toNat)

/-- An answer of member `src` names a line of the polder's transfer that is not done yet. -/
def State.xferLine (s : State) (src op : Nat) (x : XferArg) : Option (Xfer × Nat) :=
  match s.xfer x.pol with
  | some t =>
    let i := (x.off.toNat - t.off) / 64
    if t.dest == src && t.op == op && t.win == x.win && !t.unreach && decide (t.off ≤ x.off.toNat) && decide (64 * i < t.len) &&
        !t.got.contains i then some (t, i) else none
  | none => none

/-- PUT_ACK (R382): a line of a put has received WriteDone at its destination. -/
def execPutAck (h : CasHdr) (x : XferArg) (s : State) : Res :=
  .next (s.onRoute h csPutAck (argWords x) fun s =>
    match s.xferLine h.src 0 x with
    | some (t, i) => s.setXfer x.pol (some { t with got := i :: t.got })
    | none => s)

/-- GET_DATA (R382): a line of a get is written locally. -/
def execGetData (h : CasHdr) (x : XferArg) (data : BitVec 512) (s : State) : Res :=
  .next (s.onRoute h csGetData (argWords x ++ lineWords data) fun s =>
    match s.xferLine h.src 1 x with
    | some (t, i) =>
      (s.polWrite h.port x.pol (t.loc + 64 * i) (natLe data.toNat 64)).setXfer x.pol (some { t with got := i :: t.got })
    | none => s)

/-- A transfer ends with UNREACH (R382): DEST was not reachable, or has not been for 1 ms. -/
def State.xferUnreach (s : State) (x : Xfer) : Bool :=
  x.unreach || match x.lostAt with | some t => decide (t + 1000000 ≤ s.now) | none => false

/-- TRANSFER_DONE (R382): the done word is written once the last line is done, or with UNREACH; the next descriptor
follows. -/
def execTransferDone (p : Pol) (s : State) : Res :=
  .next (match s.xfer p with
    | none => s
    | some x =>
      let bad := s.xferUnreach x
      if !bad && x.got.length * 64 < x.len then s
      else
        let s := s.polWrite (s.xferPort x) p x.done (natLe (1 + b2n bad * 2) 8)
        let s := if bad then s.bump .CS_CNT_UNREACH 0 1 else s
        let s := (s.setXfer p none).updPolder p fun v => { v with sendHead := (v.sendHead + 1) % max v.sendSize 1 }
        s.nextXfer p)

def specSetSend : OpSpec :=
  { secureOnly := false, namesPol := false, needsPhase7 := false, powerFail := false, dmodes := [0], writesBuf := false,
    m0 := 0xFFFF, m1 := 0xFFFFFFFFFFFFF }

/-- The send ring of a polder as feature 0x0540 + p shows it. -/
def Polder.sendRing (v : Polder) : Nat := v.sendBase + (v.sendSize - 1)

/-- SET_SEND_RING (R381): from a secure source or one bound to the polder. -/
def execSetSendRing (c : Cmd) (s : State) : Res :=
  .next (runCmd specSetSend c (fun s =>
    let p := bitsOf c.e.p0 15 0 - 0x540
    if !s.srcBound c.src p then (s.silence c, resErr stNoSuchObject)
    else match s.polder p with
    | none => (s, resErr stNoSuchObject)
    | some v =>
      let v1 := { v with sendBase := bitsOf c.e.p1 51 12 * 4096, sendSize := bitsOf c.e.p1 11 0 + 1, sendHead := 0 }
      (((s.setPolder p (some v1)).setXfer p none).put .CS_SQTAIL_VALUE (instD p 0) 0, resOk v.sendRing)) s)

end Sys2Proof.Machine
end

