-- ==== Sys2Proof/Machine/Berm.lean ====
section
/-! DEFINITION. The berm (spec/14): retirement and bring-in of every kind of resource, ageing, planned migration, the
retirement and loss of a compute die, and the return of a hub half (R385 to R397). -/
namespace Sys2Proof.Machine

/-! ### Leaving a polder (R65) -/

/-- A core leaves its polder (R65): an open guarded tick ends without effect, the L2 is cleaned and emptied, the core is in
C3 with everything empty. -/
def State.leaveCore (s : State) (g serv : Nat) : State :=
  let s := ((if s.inGuarded g then s.undoTick g else s).freeToken g).dropSamples g
  ((((s.cleanCore g).answerParked g).parkCore g serv).put .L2_STAT_LOCKED (instC g) 0).setVote (domKey 0 g) 16 false

/-- A berm core of a die leaves the berm. -/
def State.unberm (s : State) (g serv : Nat) : State :=
  let berm := (s.core g).serv == 1
  let s := s.parkCore g serv
  if berm then s.put (bmFld (dieOf g)) 0 (s.get (bmFld (dieOf g)) 0 - 1) else s

/-! ### Arming a migration (R390) -/

/-- A core is being migrated, or its logical CPU recovers. -/
def State.moving (s : State) (g : Nat) : Bool :=
  (s.core g).t.recovering || s.berm.migr.any fun x => x.old == g && !x.moved || x.new == g

/-- Arm a migration of core `g`; `none` with no same-revision berm core left. The replacement starts to wake. -/
def State.armMigr (s : State) (g cause : Nat) (cmd : Option Cmd) : Option State :=
  match s.replacementFor g with
  | none => none
  | some n =>
    let t := (s.core g).t
    let x : Migr := { old := g, new := n, cause := cause, armNum := t.cur.num, armOpen := t.isOpen || t.step != 0,
                      moved := false, faulted := false, pol := (s.core g).pol, lcpu := (s.core g).lcpu, cmd := cmd }
    some ((s.updBerm fun b => { b with migr := b.migr ++ [x] }).updCore n fun c => { c with pow := 0 })

/-- The tick side that the replacement takes over. -/
def migrTick (t : CoreTick) : CoreTick := { t with token := none, recovering := true, leaving := false, isOpen := false }

/-- The state a core keeps for its replacement or for its own return from C3. -/
def Core.saved (c : Core) : Save := { pc := c.pc, gpr := c.gpr, vr := c.vr, sys := c.sys, level := c.level, sec := c.sec }
def Core.restored (c : Core) (v : Save) : Core :=
  { c with pc := v.pc, gpr := v.gpr, vr := v.vr, sys := v.sys, level := v.level, sec := v.sec, save := none }

/-- Move a logical CPU from its core to the replacement (R390): its state is saved, the old core leaves the polder, and the
replacement takes its number. Cores of a die that retires are not retired themselves. -/
def State.migrMove (s : State) (x : Migr) : State :=
  let g := x.old
  let old := s.core g
  match (if (s.core x.new).serv = 1 then some x.new else s.replacementFor g) with
  | none =>
    let s := s.updBerm fun b => { b with migr := b.migr.erase x }
    match x.cmd with | some c => s.finish c (resErr stNoResource) | none => s
  | some n =>
    let y := { x with new := n, moved := true }
    let s := s.updBerm fun b => { b with migr := b.migr.map fun z => if z = x then y else z }
    let dying := s.berm.dieRet.any fun z => z.1 == dieOf g
    let s := if dying then s.leaveCore g 3 else (s.leaveCore g 2).retireCore g x.cause (x.pol, x.lcpu)
    let s := s.bermLog 0 8 x.cause g n (x.pol, x.lcpu)
    let s := s.assign x.pol x.lcpu n old (migrTick old.t)
    s.updCore n fun c => { c with save := some old.saved, started := old.started }

/-- PLANNED_MIGRATION (R390, steps 1 to 4). -/
def execPlannedMigration (g : GCore) (s : State) : Res :=
  .next (match s.migrFrom g with
    | some x => if s.migrReady x then s.migrMove x else s
    | none => s)

/-- The first waiting tick is already late: the catch-up rule of R132 applies. -/
def State.migrLate (s : State) (n : Nat) : State :=
  match (s.core n).t.backlog with
  | m :: _ =>
    if m.fire < s.diePtime (dieOf n) then
      (s.updTick n fun t => { t with catching := true }).bump .GD_STAT_RECOVERING (s.core n).pol 1
    else s
  | [] => s

/-- MIGRATION_LOAD (R390): the body of half q in a guarded polder that has ticked, else the migration slot. The CPU takes
the next tick or resumes. -/
def execMigrationLoad (p : Pol) (l : Byte) (s : State) : Res :=
  .next (match s.coreOf p l.toNat with
    | none => s
    | some n =>
      let c := s.core n
      match s.berm.migr.find? fun x => x.new == n && x.moved && !x.faulted, c.save with
      | some _, some v =>
        let s := s.updCore n fun c => c.restored v
        let s := if s.coreGuarded n && !c.t.first then s.loadBody n c.t.half else s
        let s := s.updCore n fun c => { c with pow := if c.t.waiting then 1 else 0, idleSince := some s.now }
        let s := (s.updTick n fun t => { t with recovering := false }).migrLate n
        let s := s.tryTake n
        if s.canRun n || !(s.core n).started || s.get .TK_NOW_STATE p ≠ 1 then s.migrTaken n else s
      | _, _ => s)

/-! ### Compute dies (R391, R134) -/

/-- Every core of the die that a polder holds starts to migrate, or its CPU becomes vacant; the die's berm cores leave the
berm first. -/
def State.armDie (s : State) (d cause : Nat) (cmd : Option Cmd) : State :=
  let s := s.updBerm fun b => { b with dieRet := b.dieRet ++ [(d, cause, cmd)] }
  let s := (coresOfDie d).foldl (fun s g => if (s.core g).serv = 1 then s.unberm g 3 else s) s
  (coresOfDie d).foldl (fun s g =>
    let c := s.core g
    if c.pol = 0 || (s.migrFrom g).isSome then s
    else match s.armMigr g cause none with
      | some s => s
      | none => (s.leaveCore g 3).vacate c.pol c.lcpu d) s

/-- The directories forget a die. -/
def DirHalf.dropDie (x : DirHalf) (d : Nat) : DirHalf :=
  { x with ents := x.ents.filterMap fun e => match e.2 with
      | some v =>
        let p := withBit v.pres d false
        if p = 0 then none else some (e.1, some { v with pres := p })
      | none => none }

/-- A snoop of a home to a die. -/
def isSnoop (m : Msg) : Bool := m.ty == .invalidate || m.ty == .recall || m.ty == .downgrade

/-- What is on its way to a die that is gone: snoops are answered as by a die that holds nothing, the rest is dropped. -/
def State.dropTraffic (s : State) (d : Nat) : State :=
  let ms := s.fabric.filter fun m => stopUnit m.dst == d
  let s := s.updFabric fun l => l.filter fun m => stopUnit m.dst != d
  ms.foldl (fun s m =>
    if isSnoop m then s.snoopAnswer m 2
    else if m.ty = .census then s.send (plainMsg .censusReport (dieCtlStop d) (bankStop (stopHalf m.src) 0) 0 4 1)
    else s) s

/-- The die is fenced and both its modules go down; it offers no transit path (R391). -/
def State.dieOut (s : State) (d cause : Nat) : State :=
  let s := (coresOfDie d).foldl (fun s g => if (s.core g).serv = 2 then s else s.unberm g 3) s
  let s := s.updDie d fun x => { x with state := 2, dc := [] }
  let s := s.updDirs fun x => x.dropDie d
  let s := s.dropTraffic d
  let m : Fin 13 := Fin.ofNat 13 d
  let s := ((s.setModState 0 m 0).setModState 1 m 0).pathsOf m
  let r := s.berm.dieRet.find? fun x => x.1 == d
  let s := ((s.retired 1 d cause).put .AG_MARGIN_STATE (instD d 20) 2).updBerm fun b => { b with dieRet := b.dieRet.filter fun x => x.1 != d }
  match r with
  | some (_, _, some c) => s.finish c (resOk 0xFFFF)
  | _ => s

/-- Every core of the die has left its polder. -/
def State.dieEmpty (s : State) (d : Nat) : Bool := (coresOfDie d).all fun g => (s.core g).pol == 0

/-- DIE_RETIRE (R391). -/
def execDieRetire (d : Die) (s : State) : Res :=
  .next (
    if (s.die d).state ≠ 0 then s
    else
      let s := if s.berm.dieRet.any fun x => x.1 == d.val then s else s.armDie d 4 none
      if s.dieEmpty d then s.dieOut d (((s.berm.dieRet.find? fun x => x.1 == d.val).map (·.2.1)).getD 4) else s)

/-- A whole die is lost (R134): recovery runs as for single cores, then the die is retired with cause 0x05 (R391). -/
def State.dieLoss (s : State) (d : Nat) : State :=
  if (s.die d).state = 1 || (s.die d).state = 2 then s
  else
    let s := s.updDie d fun x => { x with state := 1 }
    let s := (coresOfDie d).foldl (fun s g => if (s.core g).serv = 1 then s.unberm g 3 else s) s
    let s := (coresOfDie d).foldl (fun s g => if (s.core g).pol = 0 then s else s.fence g 5 4 0) s
    let s := (coresOfDie d).foldl (fun s g => s.answerParked g) s
    s.dieOut d 5

/-- DIE_HEARTBEAT_LOSS (R126, R134). -/
def execDieHeartbeatLoss (d : Die) (s : State) : Res := .next (s.dieLoss d)

/-! ### Ways (R200) -/

/-- Retire a cache way, at once or when its lines allow it: a third retirement of L2 ways retires the core, a fourth of a
die-cache slice's reports the die (R385). `none` where the core has no replacement. -/
def State.retireWay (s : State) (kind i cause : Nat) (cmd : Option Cmd) : Option State :=
  let g := i / 16
  if kind = 2 && 2 ≤ ways (s.l2Retired g) then
    if (s.core g).pol = 0 then
      let s := s.retireCore g cause
      some (match cmd with | some c => s.finish c (resOk 0xFFFF) | none => s)
    else if s.moving g then some (match cmd with | some c => s.finish c (resErr stBusy) | none => s)
    else s.armMigr g cause cmd
  else
    let d := i / 512
    let s := if kind = 3 && 2 ≤ ways (s.get .DC_SLICE_RETIRED (instD d (i / 16 % 32))) &&
        !(s.berm.dieRet.any fun x => x.1 == d) then s.armDie d cause none else s
    some (s.updBerm fun b => { b with wayRet := b.wayRet ++ [(kind, i, cause, cmd)] }).waysAtClose

/-- The corrected errors that a way counts in its window (R200). -/
def State.wayCount (s : State) (d key : Nat) : Nat := (Tbl.get (0, 0) (s.die d).wayCe key).2
def State.clearWay (s : State) (d key : Nat) : State := s.updDie d fun x => { x with wayCe := Tbl.erase x.wayCe key }

/-- CACHE_WAY_RETIRE (R200): the corrected errors of one window passed ECC_THRESH, which 0 disables. -/
def execCacheWayRetire (u : CacheWay) (s : State) : Res :=
  .next (match u with
    | .l2 g w =>
      let i := g.val * 16 + w.val
      let th := s.get .L2_ECC_ECC_THRESH (instC g)
      if th = 0 || (s.l2Retired g).testBit w || s.wayCount (dieOf g) (g % 20 * 16 + w) ≤ th then s
      else ((s.clearWay (dieOf g) (g % 20 * 16 + w)).retireWay 2 i 3 none).getD s
    | .dc d sl w =>
      let i := d.val * 512 + sl.val * 16 + w.val
      let th := s.get .DC_CTL_ECC_THRESH (instD d 0)
      if th = 0 || (s.get .DC_SLICE_RETIRED (instD d sl)).testBit w || s.wayCount d (512 + sl * 16 + w) ≤ th then s
      else ((s.clearWay d (512 + sl * 16 + w)).retireWay 3 i 3 none).getD s)

/-! ### Ageing (R387) -/

def State.agWarn (s : State) (d : Nat) : Nat := s.get .AG_CTL_AG_WARN (instD d 0)
/-- A value of AG_RETIRE above AG_WARN acts as AG_WARN. -/
def State.agRetire (s : State) (d : Nat) : Nat := min (s.get .AG_CTL_AG_RETIRE (instD d 0)) (s.agWarn d)

/-- Another retirement or recovery of the polder is in progress. -/
def State.polBusy (s : State) (p : Nat) : Bool :=
  s.get .GD_STAT_RECOVERING p != 0 || s.berm.migr.any fun x => x.pol == p

/-- A core or die whose margin stayed below AG_RETIRE for three samples is retired for ageing, or waits for another retirement or
recovery in a polder it serves. -/
def State.ageOut (s : State) (d c : Nat) : State :=
  let g := d * 20 + c
  let k := s.core g
  if c = 20 then
    if (s.die d).state ≠ 0 || s.berm.dieRet.any (fun x => x.1 == d) ||
        (coresOfDie d).any (fun n => (s.core n).pol != 0 && s.polBusy (s.core n).pol) then s
    else s.armDie d 2 none
  else if k.serv = 2 || k.serv = 3 || s.moving g then s
  else if k.pol = 0 then s.retireCore g 2
  else if s.polBusy k.pol then s
  else match s.armMigr g 2 none with
    | some s => s
    | none =>
      if s.berm.noCore.contains g then s
      else (s.updBerm fun b => { b with noCore := b.noCore ++ [g] }).logDie d 0xB4 0 [s.dieRevOf d, g]

/-- The margin's number in the table of first-start-up values: the global core, or 240 + die for a die control stop. -/
def firstKey (d c : Nat) : Nat := if c < 20 then d * 20 + c else 240 + d

/-- One margin sampled (R387): NOW, LOWEST and BELOW, the warning once for each crossing, retirement at the third sample
below AG_RETIRE. -/
def State.ageSample (s : State) (d c v : Nat) : State :=
  let i := instD d c
  let first := !s.berm.sampled.contains d
  let s := s.put .AG_MARGIN_NOW i v
  let s := s.put .AG_MARGIN_LOWEST i (if first then v else min (s.get .AG_MARGIN_LOWEST i) v)
  let s := s.put .AG_MARGIN_BELOW i (if v < s.agRetire d then min (s.get .AG_MARGIN_BELOW i + 1) 3 else 0)
  let st := s.get .AG_MARGIN_STATE i
  let k := s.core (d * 20 + c)
  let s :=
    if st = 0 && v < s.agWarn d then
      ((s.put .AG_MARGIN_STATE i 1).logDie d 0xB0 0 [if c = 20 then d else d * 20 + c, v]).bermLog (if c = 20 then 1 else 0) 7 2
        (if c = 20 then d else d * 20 + c) v (if c = 20 then (0, 0) else (k.pol, k.lcpu))
    else if st = 1 && s.agWarn d ≤ v then s.put .AG_MARGIN_STATE i 0
    else s
  let s := if s.berm.first.any fun x => x.1 == firstKey d c then s
    else s.updBerm fun b => { b with first := Tbl.insert (firstKey d c) v b.first }
  if s.get .AG_MARGIN_BELOW i = 3 then s.ageOut d c else s

/-- AGEING_SAMPLE (R387). -/
def execAgeingSample (d : Die) (margins : List Byte) (s : State) : Res :=
  let s := ((margins.take 21).zipIdx).foldl (fun s x => s.ageSample d x.2 x.1.toNat) s
  .next (s.updBerm fun b => { b with sampled := if b.sampled.contains d.val then b.sampled else b.sampled ++ [d.val] })

/-! ### Reference clock inputs (R392) -/

def goodFld (h : Nat) : Fld := if h = 0 then .REF_STAT_GOOD_H0 else .REF_STAT_GOOD_H1
def selFld (h : Nat) : Fld := if h = 0 then .REF_STAT_SEL_H0 else .REF_STAT_SEL_H1

/-- An input of a half is no longer good: the half switches to the other input where that is good. -/
def State.refLose (s : State) (h i : Nat) : State :=
  let s := s.put (goodFld h) 0 (withBit (s.get (goodFld h) 0) i false)
  if s.get (selFld h) 0 = i && (s.get (goodFld h) 0).testBit (1 - i) then
    ((s.put (selFld h) 0 (1 - i)).bump .REF_STAT_SWITCHES 0 1).logSec h 44 0xB5 [i, 1 - i]
  else s

/-! ### A hub half returns (R395) -/

/-- Copy the per-half hub registers that the halves hold alike from the survivor: the region table is shared, tick and
guard contexts stand in the state once. The half's links train anew, its channels resynchronise, and its homes come back
bank by bank (R264, R290, R291, R340). -/
def State.halfBringIn (s : State) (h : Nat) : State :=
  let hh : Half := Fin.ofNat 2 h
  let s := (s.setHalf h false true).pairSync
  let s := s.updDir h fun d => { d with ents := [], trks := [], census := none, heldReqs := [], handBack := List.range 16,
                                        hbMissed := 0, spineMissed := 0 }
  let s := (List.finRange 13).foldl (fun s m =>
    (s.lkPut (hubEnd hh m) .LK_STAT_STATE .LKC_STAT_STATE 0).updLk (hubEnd hh m) fun k => { k with lost := false, fails := 0 }) s
  let s := (List.range 8).foldl (fun s l => s.startResync (h * 8 + l)) s
  let s := s.bermLog 8 2 4 h 0
  (s.logSec (1 - h) 44 0xB7 [h]).logSec (1 - h) 44 0xB2 [8, h]

/-- The half stands lost and its partner serves, in the Guarded configuration. -/
def State.canReturn (s : State) (h : Nat) : Bool := s.guardedCfg && s.lost h && !s.lost (1 - h)

/-- HALF_BRING_IN (R395). -/
def execHalfBringIn (h : Half) (s : State) : Res := .next (if s.canReturn h then s.halfBringIn h else s)

/-! ### BERM_RETIRE and BERM_BRING_IN (R388) -/

def specBerm : OpSpec :=
  { secureOnly := true, namesPol := false, needsPhase7 := false, powerFail := false, dmodes := [0], writesBuf := false,
    m0 := 0xF, m1 := 0xFFFFFFFFFFFFFFFF }

/-- The index names a resource of the kind. -/
def bermIndexOk (k i : Nat) : Bool :=
  if k = 0 then decide (i < 240) else if k = 1 then decide (i < 12) else if k = 2 then decide (i < 3840)
  else if k = 3 then decide (i < 6144) && decide (i / 16 % 32 < 20)
  else if k = 4 then decide (i < 1024) && decide (i % 32 < 26)
  else if k = 5 then decide (i < 16) else if k = 6 then decide (i < 32) && decide (i % 16 < 13)
  else if k = 7 then decide (i < 2) else if k = 8 then decide (i < 2) else if k = 9 then decide (i < 4) else false

/-- The answer of a retirement with no replacement. -/
def resGone : CmdRes := resOk 0xFFFF

/-- BERM_RETIRE of a core. -/
def State.bermCoreOut (s : State) (c : Cmd) (g : Nat) : State × Option CmdRes :=
  if s.moving g then (s, some (resErr stBusy))
  else if (s.core g).serv = 2 then (s, some (resErr stInvalidField))
  else if (s.core g).pol = 0 then (s.retireCore g 4, some resGone)
  else match s.armMigr g 4 (some c) with
    | some s => (s, none)
    | none => (s, some (resErr stNoResource))

/-- BERM_RETIRE of a cache way or directory column: at once, or when its lines allow it. -/
def State.bermWayOut (s : State) (c : Cmd) (k i : Nat) : State × Option CmdRes :=
  let gone := if k = 2 then (s.l2Retired (i / 16)).testBit (i % 16)
    else if k = 3 then (s.get .DC_SLICE_RETIRED (instD (i / 512) (i / 16 % 32))).testBit (i % 16)
    else s.isRetired 4 i
  if gone then (s, some (resErr stInvalidField))
  else if s.berm.wayRet.any fun x => x.1 == k && x.2.1 == i then (s, some (resErr stBusy))
  else if k = 4 then
    if s.columnFree (i / 512) (i / 32 % 16) (i % 32) then
      ((s.retireColumn (i / 512) (i / 32 % 16) (i % 32) 4).logSec s.activeHalf 44 0xB1 [4, i, 4], some resGone)
    else (s.updBerm fun b => { b with wayRet := b.wayRet ++ [(4, i, 4, some c)] }, none)
  else match s.retireWay k i 4 (some c) with
    | some s => (s, none)
    | none => (s, some (resErr stNoResource))

/-- BERM_RETIRE of a hub controller: a planned handover from the active one, or the standby stops. -/
def State.bermHcOut (s : State) (i : Nat) : State × Option CmdRes :=
  if s.isRetired 7 i then (s, some (resErr stInvalidField))
  else if s.activeHalf = i then
    if !s.flag .CP_ROLE_STANDBY_READY 0 then (s, some (resErr stNotReady))
    else (((s.swapRoles 3).liveLost).retired 7 i 4, some resGone)
  else (s.standbyGone.retired 7 i 4, some resGone)

/-- BERM_RETIRE by kind. -/
def State.bermOut (s : State) (c : Cmd) : State × Option CmdRes :=
  let k := bitsOf c.e.p0 3 0
  let i := c.e.p1
  if !bermIndexOk k i || k = 8 then (s, some (resErr stInvalidField))
  else if k = 0 then s.bermCoreOut c i
  else if k = 1 then
    if s.berm.dieRet.any fun x => x.1 == i then (s, some (resErr stBusy))
    else if (s.die i).state ≠ 0 then (s, some (resErr stInvalidField))
    else
      let s := s.armDie i 4 (some c)
      (if s.dieEmpty i then s.dieOut i 4 else s, none)
  else if k ≤ 4 then s.bermWayOut c k i
  else if k = 5 then
    if !s.guardedCfg then (s, some (resErr stNotReady))
    else if s.mcState i = 4 then (s, some (resErr stBusy))
    else if s.mcState i = 3 || s.mcState i = 0 then (s, some (resErr stInvalidField))
    else (s.channelLost i 4 4, some resGone)
  else if k = 6 then
    if s.isRetired 6 i then (s, some (resErr stInvalidField))
    else
      let h : Half := Fin.ofNat 2 (i / 16)
      let m : Fin 13 := Fin.ofNat 13 (i % 16)
      ((s.moduleLost h m 4).retired 6 i 4, some resGone)
  else if k = 7 then s.bermHcOut i
  else
    let h := i / 2
    let b := i % 2
    if s.isRetired 9 i then (s, some (resErr stInvalidField))
    else if s.get (goodFld h) 0 = 2 ^ b then (s, some (resErr stNotReady))
    else ((s.refLose h b).retired 9 i 4, some resGone)

/-- BERM_RETIRE (R388). A resource already retired is INVALID_FIELD (DESIGN CHOICE, log entry 179). -/
def execBermRetire (c : Cmd) (s : State) : Res := .next (runCmdLater specBerm c (fun s => s.bermOut c) s)

/-- A completed bring-in: berm history and code 0xB2. -/
def State.broughtIn (s : State) (k i : Nat) : State := (s.bermLog k 2 4 i 0).logSec s.activeHalf 44 0xB2 [k, i]

/-- BERM_BRING_IN of a core: self-tested, with an outcome the spec leaves to the silicon (free), and refused for an aged
core whose margin is below AG_WARN. -/
def State.bermCoreIn (s : State) (g : Nat) : State × CmdRes :=
  let d := dieOf g
  let i := instC g
  let aged := s.berm.retired.any fun x => x.1 == 0 && x.2.1 == g && x.2.2 == 2
  if (s.core g).serv ≠ 2 || (s.die d).state ≠ 0 then (s, resErr stInvalidField)
  else
    let ok := s.fresh.getLsbD 0
    let s := s.drawn
    if !ok || aged && s.get .AG_MARGIN_NOW i < s.agWarn d then (s, resErr stNotReady)
    else
      let s := ((s.parkCore g 1).put .AG_MARGIN_STATE i 0).put (bmFld d) 0 (s.get (bmFld d) 0 + 1)
      (s.broughtIn 0 g, resOk)

/-- The cores that the profile of R20 holds back. -/
def State.bermLocal (s : State) (c : Nat) : Bool := if s.flag .BM_CORES_PROFILE 0 then 16 ≤ c else 18 ≤ c

/-- BERM_BRING_IN of a die: its modules may train again, and its cores that are not retired return to polder 0 or to the
berm, by the profile. -/
def State.bermDieIn (s : State) (d : Nat) : State :=
  let s := s.updDie d fun _ => DieSt.reset
  let m : Fin 13 := Fin.ofNat 13 d
  let s := (List.finRange 2).foldl (fun s h => s.updLk (hubEnd h m) fun k => { k with lost := false, fails := 0 }) s
  let s := (coresOfDie d).foldl (fun s g =>
    if s.isRetired 0 g then s else s.parkCore g (if s.bermLocal (g % 20) then 1 else 0)) s
  let n := ((coresOfDie d).filter fun g => (s.core g).serv == 1).length
  ((s.put (bmFld d) 0 n).put .AG_MARGIN_STATE (instD d 20) 0).broughtIn 1 d

/-- BERM_BRING_IN by kind. -/
def State.bermIn (s : State) (c : Cmd) : State × CmdRes :=
  let k := bitsOf c.e.p0 3 0
  let i := c.e.p1
  if !bermIndexOk k i || k = 2 || k = 3 || k = 4 then (s, resErr stInvalidField)
  else if k = 0 then s.bermCoreIn i
  else if k = 1 then
    if s.berm.dieRet.any fun x => x.1 == i then (s, resErr stBusy)
    else if (s.die i).state = 0 then (s, resErr stInvalidField)
    else if s.pow.bad.any fun x => x.1 == 7 + i then (s, resErr stNotReady)
    else (s.bermDieIn i, resOk)
  else if k = 5 then
    if s.mcState i = 4 then (s, resErr stBusy)
    else if s.mcState i ≠ 3 then (s, resErr (if s.guardedCfg then stInvalidField else stNotReady))
    else ((s.startResync i).broughtIn 5 i, resOk)
  else if k = 6 then
    let h : Half := Fin.ofNat 2 (i / 16)
    let m : Fin 13 := Fin.ofNat 13 (i % 16)
    if !s.isRetired 6 i && s.modState h m ≠ 0 then (s, resErr stInvalidField)
    else ((s.updLk (hubEnd h m) fun x => { x with lost := false, fails := 0 }).broughtIn 6 i, resOk)
  else if k = 7 then
    if s.activeHalf = i || s.flag .CP_ROLE_STANDBY_READY 0 then (s, resErr stInvalidField) else (s.broughtIn 7 i, resOk)
  else if k = 8 then
    if s.halfReturning.get i then (s, resErr stBusy)
    else if !s.canReturn i then (s, resErr stInvalidField)
    else if s.get .PM_RAIL_HUB_OK (instH (1 - i) 0) / 2 ^ i % 2 = 0 then (s, resErr stNotReady)
    else (s.halfBringIn i, resOk)
  else if !s.isRetired 9 i then (s, resErr stInvalidField)
  else ((s.put (goodFld (i / 2)) 0 (withBit (s.get (goodFld (i / 2)) 0) (i % 2) true)).broughtIn 9 i, resOk)

/-- BERM_BRING_IN (R388). A resource in service is INVALID_FIELD, and a module or die completes once its training may start (DESIGN
CHOICE, log entry 179). -/
def execBermBringIn (c : Cmd) (s : State) : Res := .next (runCmd specBerm c (fun s => s.bermIn c) s)

/-! ### Keep-store blocks (R393) -/

/-- KEEP_BLOCK_FAIL (R393): a spare block takes the failed one's place; with none left, the write that needs one completes
NO_RESOURCE. -/
def execKeepBlockFail (s : State) : Res :=
  .next (if s.cp.spareBlocks = 0 then s.updCp fun q => { q with blockFailed := true }
         else s.updCp fun q => { q with spareBlocks := q.spareBlocks - 1 })

end Sys2Proof.Machine
end

