-- ==== Sys2Proof/Machine/Endpoint.lean ====
section
/-! DEFINITION. The host endpoint (spec/15): configuration space, readiness and resets of a function, BAR2 windows, MSI-X
and INTx, link power and the window commits (R399 to R422, R357). -/
namespace Sys2Proof.Machine

/-! ### Register groups under a reset (R9, R436) -/

/-- The table numbers of the fields that a reset kind names in their Reset column. -/
def fieldsOf (p : RstKind → Bool) (q : Reg → Bool) : List Nat :=
  Reg.all.flatMap fun r => if q r then (r.fields.filter fun f => p f.desc.kind).map (·.ctorIdx) else []

/-- Give every instance that `inst` names of the fields in `fs` its reset value again. -/
def State.initFields (s : State) (fs : List Nat) (inst : Nat → Bool) : State :=
  { s with regs := s.regs.filter fun x => !(fs.contains (x.1 / 65536) && inst (x.1 % 65536)) }

/-- The registers of one queue register block: those of endpoint `n` at FLR, of mailbox set `n` − 4 at a POLDER reset. -/
def State.initQrb (s : State) (n : Nat) : State :=
  s.initFields (fieldsOf (fun k => k == .flr) fun r => r.place.cls == .qrb) fun i => i / 64 == n

/-! ### Configuration space (R402 to R405) -/

/-- Width of the link a mode gives. -/
def State.peWidth (s : State) (e : Nat) : Nat := if s.get .PE_CFG_MODE (instPe e) = 1 then 16 else 8
/-- The highest speed trained: 0 and 7 act as 6. -/
def State.peSpeed (s : State) (e : Nat) : Nat :=
  let v := s.get .PE_CFG_MAX_SPEED (instPe e)
  if v = 0 || v = 7 then 6 else v
/-- log₂ of the BAR2 size in GiB: 7 acts as 6. -/
def State.bar2Log (s : State) (e : Nat) : Nat := min (s.get .PE_CFG_BAR2_LOG (instPe e)) 6
def State.peSubsys (s : State) (e : Nat) : Nat :=
  let v := s.get .PE_CFG_SUBSYS (instPe e)
  if v = 0 then 0x0240 else v

/-- The polders attached to a function, as a mask. -/
def State.fnPolders (s : State) (e : Nat) : Nat :=
  ((List.range 32).map fun p => if s.fnBound e p then 2 ^ p else 0).sum

/-- The vendor-specific words of R404. -/
def State.vsec (s : State) (e : Nat) : Nat :=
  e + (e + 2) % 4 * 4 + b2n (s.pcieSec e) * 16 + b2n s.guardedCfg * 32 + s.activeHalf * 64

/-- The writable bits of the 32-bit configuration word at an offset, as PCIe gives them (log entry 7). -/
def State.cfgMask (s : State) (e o : Nat) : Nat :=
  if o = 0x04 then 0x0546 else if o = 0x10 then 0xFFFF0000 else if o = 0x14 || o = 0x24 then 0xFFFFFFFF
  else if o = 0x18 then 2 ^ 32 - 2 ^ min (30 + s.bar2Log e) 32
  else if o = 0x1C then 2 ^ 32 - 2 ^ (s.bar2Log e - 2)
  else if o = 0x20 then 0xFFF00000 else if o = 0x30 then 0xFFF00001 else if o = 0x3C then 0xFF
  else if o = 0x44 then 0x3 else if o = 0x58 then 0x7FFF else if o = 0x60 then 0x03F3 else if o = 0x78 then 0x147F
  else if o = 0x80 then 0xFFFF else if o = 0xB0 then 0xC0000000
  else if o = 0x108 || o = 0x10C then 0x07FFF030 else if o = 0x114 then 0xF1C1 else if o = 0x118 then 0x140
  else if o = 0x228 then 0xA else if o = 0x234 then 0x1FFF1FFF else 0

/-- The read-only part of a configuration word (R402 to R404; layouts PCIe's, log entry 7). -/
def State.cfgFixed (s : State) (e o : Nat) : Nat :=
  let i := instPe e
  let p := s.peSt e
  if o = 0x00 then 0x02401F3A
  else if o = 0x04 then 0x00100000 + b2n p.intx * 0x80000
  else if o = 0x08 then s.get .PKG_ID_HUB_REV 0 + 0x12000000
  else if o = 0x10 || o = 0x20 then 0x4
  else if o = 0x18 then 0xC
  else if o = 0x2C then 0x1F3A + s.peSubsys e * 65536
  else if o = 0x34 then 0x40 else if o = 0x3C then 0x100
  else if o = 0x40 then 0x00035001 else if o = 0x44 then 0x8
  else if o = 0x50 then 0x8002B010 else if o = 0x54 then 0x10008022
  else if o = 0x5C then s.peSpeed e + s.peWidth e * 16 + 0x800
  else if o = 0x60 then (s.get .PE_STAT_SPEED i + s.get .PE_STAT_WIDTH i * 16) * 65536
  else if o = 0x74 then 0x00030800 else if o = 0x7C then 0x7E
  else if o = 0xB0 then 0x07FF0011 else if o = 0xB4 then 0x4 else if o = 0xB8 then 0x8004
  else if o = 0x100 then 0x14820001 else if o = 0x104 then p.aerUnc else if o = 0x110 then p.aerCor
  else if o = 0x118 then 0xA0
  else if 0x11C ≤ o && o ≤ 0x128 then p.hdr.getD ((o - 0x11C) / 4) 0
  else if o = 0x148 then 0x15810003 else if o = 0x14C then Config.serial % 2 ^ 32
  else if o = 0x150 then Config.serial / 2 ^ 32 % 2 ^ 32
  else if o = 0x158 then 0x16810025 else if o = 0x15C then 0x80000001
  else if o = 0x168 then 0x1A010026 else if o = 0x1A0 then 0x1E01002A else if o = 0x1E0 then 0x22010031
  else if o = 0x220 then 0x2301001E else if o = 0x224 then 0x1A
  else if o = 0x230 then 0x24010018
  else if o = 0x240 then 0x0001000B else if o = 0x244 then 0x01810001
  else if o = 0x248 then s.vsec e else if o = 0x24C then s.fnPolders e
  else if o = 0x250 then s.get .PW_EPOCH_CURRENT i else 0

/-- A configuration word as the host reads it. -/
def State.cfgRead (s : State) (e o : Nat) : Nat :=
  let m := s.cfgMask e o
  (s.cfgPair e o &&& m) + (s.cfgFixed e o &&& (2 ^ 32 - 1 - m))

/-- Store the writable bits of a configuration word. -/
def State.cfgStore (s : State) (e o v : Nat) : State :=
  let w := v &&& s.cfgMask e o
  s.updPe e fun p => { p with cfg := Tbl.insert o (w % 65536) (Tbl.insert (o + 2) (w / 65536)
    (Tbl.erase (Tbl.erase p.cfg o) (o + 2))) }

/-! ### Power of a function (R418) -/

/-- Enter or leave D3hot: the vote of client 0 of the port's domain follows (R418). -/
def State.d3hot (s : State) (e : Nat) (enter : Bool) : State :=
  (s.setFlag .PE_STAT_D3 (instPe e) enter).setVote (domKey 4 e) 0 (!enter)

/-- D3HOT_ENTRY (R418). -/
def execD3hotEntry (e : Fin 4) (enter : Bool) (s : State) : Res :=
  .next (if s.isEndpoint e then
      (s.updPe e fun p => { p with cfg := Tbl.insert 0x44 (if enter then 3 else 0) (Tbl.erase p.cfg 0x44) }).d3hot e enter
    else s)

/-! ### Readiness and resets (R405, R406) -/

/-- The sticky configuration registers, which PCIe leaves to a fundamental reset alone: AER masks, severities and control (log entry
7). -/
def cfgSticky (o : Nat) : Bool := o / 4 == 0x108 / 4 || o / 4 == 0x10C / 4 || o / 4 == 0x114 / 4 || o / 4 == 0x118 / 4
/-- The configuration registers that survive an FLR: the sticky ones and the link's; all others take their reset value (log entry
7). -/
def flrKeeps (o : Nat) : Bool := o / 4 == 0x60 / 4 || o / 4 == 0x80 / 4 || o / 4 == 0x228 / 4 || cfgSticky o
/-- Max_Payload_Size, the one field of Device Control that survives an FLR (log entry 7). -/
def cfgPayload (t : Tbl Nat) : Tbl Nat :=
  match t.lookup 0x58 with
  | some v => if v &&& 0xE0 = 0 then [] else [(0x58, v &&& 0xE0)]
  | none => []

/-- What a function-level reset leaves of a command of the function (R406): one that has begun, or runs at a member, ends without a
completion; another has no effect. -/
def flrKeepsCmd (e : Nat) (r : Running) : Option Running :=
  if r.src.num ≠ e then some r else if r.begun || r.relayTo.isSome then some { r with discard := true } else none

/-- What a function-level reset does at once (R406): no DMA, no interrupts; commands not yet executed have no effect and
later completions are discarded; queues, MSI-X table, PBA and configuration registers take their reset values. -/
def State.flr (s : State) (e : Nat) : State :=
  let s := if (s.peSt e).intx then s.emit (.intx e false) else s
  let s := s.updCp fun q => { q with running := q.running.filterMap (flrKeepsCmd e), ready := q.ready.filter fun r => r.src.num != e,
                                     stopping := q.stopping.filter fun n => n != e }
  let s := ((s.dropQueues e).initQrb e).updPe e fun p =>
    { p with cfg := cfgPayload p.cfg ++ p.cfg.filter fun x => flrKeeps x.1, msixAddr := [], msixData := [], msixMask := [],
             pba := [], msixHeld := [], intx := false, rom := s.romNow }
  let s := if s.flag .PE_STAT_D3 (instPe e) then s.d3hot e false else s
  s.setFlag .PE_STAT_READY (instPe e) false

/-- FLR (R406). -/
def execFlr (e : Fin 4) (s : State) : Res := .next (if s.isEndpoint e then s.flr e else s)

/-- A LINK reset of a PCIe port (R434, R436): PE_STAT takes its reset values, the endpoint's QRB, MSI-X table and PBA, and every
configuration register that is not sticky. -/
def State.peLinkReset (s : State) (e : Nat) : State :=
  let s := s.initFields (fieldsOf (fun k => k == .link) fun r => r == .PE_STAT) fun i => i == instPe e
  ((s.dropQueues e).initQrb e).updPe e fun p =>
    { p with cfg := p.cfg.filter fun x => cfgSticky x.1, msixAddr := [], msixData := [], msixMask := [], pba := [], msixHeld := [],
             rom := s.romNow }

/-- Hot reset, link-down and PERST_N: an FLR together with a LINK reset of the port (R406). -/
def State.peReset (s : State) (e : Nat) : State := (if s.isEndpoint e then s.flr e else s).peLinkReset e

/-- PERST_ASSERT (R406): a fundamental reset, which sticky registers do not survive either (log entry 7). -/
def execPerstAssert (e : Fin 4) (s : State) : Res :=
  .next ((s.peReset e).updPe e fun p => { p with perst := true, cfg := [], aerUnc := 0, aerCor := 0, hdr := [] })

/-- PCIE_LINK_DOWN (R406). -/
def execPcieLinkDown (e : Fin 4) (s : State) : Res := .next (s.peReset e)

/-- HOT_RESET (R406): the link trains again. -/
def execHotReset (e : Fin 4) (s : State) : Res := .next ((s.peReset e).put .PE_STAT_LINK (instPe e) 1)

/-- A port that is not disabled (R399). -/
def State.peOn (s : State) (e : Nat) : Bool := 1 ≤ s.get .PE_CFG_MODE (instPe e) && s.get .PE_CFG_MODE (instPe e) ≤ 4

/-- PERST_RELEASE (R405): the link starts to train; configuration requests receive RRS until the function is ready. -/
def execPerstRelease (e : Fin 4) (s : State) : Res :=
  .next (if s.peOn e then (s.updPe e fun p => { p with perst := false }).put .PE_STAT_LINK (instPe e) 1 else s)

/-- PCIE_LINK_UP (R405). -/
def execPcieLinkUp (e : Fin 4) (speed : Fin 7) (width : Fin 17) (flit : Bool) (s : State) : Res :=
  let i := instPe e
  .next (if s.peOn e && !(s.peSt e).perst then
      ((((s.put .PE_STAT_LINK i 2).put .PE_STAT_SPEED i (min speed (s.peSpeed e))).put .PE_STAT_WIDTH i (min width (s.peWidth e))).put
        .PE_STAT_L0P_WIDTH i (min width (s.peWidth e))).setFlag .PE_STAT_FLIT i flit
    else s)

/-- A valid image stands in the boot slot and the package has reached command-ready (R405). -/
def State.bootGood (s : State) : Bool := !s.cp.recovery && s.cp.runActive.isSome && 2 ≤ s.get .PM_PKG_PHASE 0

/-- CONFIG_READY (R405): with PERST_N released and the link trained, the function stops answering RRS. -/
def execConfigReady (e : Fin 4) (s : State) : Res :=
  .next (if s.isEndpoint e && s.bootGood && !(s.peSt e).perst && 2 ≤ s.get .PE_STAT_LINK (instPe e) then
      s.setFlag .PE_STAT_READY (instPe e) true else s)

/-- An inbound request counts in the half's banks (R447) and wakes its link from L1. -/
def State.peInbound (s : State) (e : Nat) (tag : Option Nat) : State :=
  let s := s.countHub (e / 2) 0x430 (e % 2) tag
  if s.get .PE_STAT_LINK (instPe e) = 3 then s.put .PE_STAT_LINK (instPe e) 2 else s

/-- An Unsupported Request (R407, R419); `read` expects a completion. -/
def State.peUr (s : State) (e : Nat) (read : Bool) : State :=
  let s := s.aer e true false aerUnsupported []
  if read then s.emit (.pcieCpl e [] 3) else s

/-! ### Interrupts (R421, R422) -/

/-- A CQ of a vector holds an entry the host has not consumed. -/
def State.vecPending (s : State) (e vec : Nat) : Bool :=
  (List.range 64).any fun q => match s.cq (qKey e q) with
    | some c => c.ien && c.vector == vec && c.head != c.tail
    | none => false

/-- Send a vector's message; the next of the same vector is at least 1 µs later. -/
def State.msixEmit (s : State) (e vec : Nat) : State :=
  (s.updPe e fun p => { p with msixSent := Tbl.set 0 p.msixSent vec (s.now + 1), pba := Tbl.set 0 p.pba vec 0,
                               msixHeld := p.msixHeld.erase vec }).emit (.msix e vec (Tbl.get 0 (s.peSt e).msixAddr vec) (Tbl.get 0 (s.peSt e).msixData vec))

/-- A vector is masked, by its own mask bit or the function's. -/
def State.vecMasked (s : State) (e vec : Nat) : Bool :=
  (s.cfgHalf e 0xB2).testBit 14 || (Tbl.get 1 (s.peSt e).msixMask vec).testBit 0

/-- MSIX_MESSAGE (R421): a vector with completions written sends its one message, or sets its PBA bit while masked. -/
def execMsixMessage (e : Fin 4) (vec : Fin 2048) (s : State) : Res :=
  .next (
    let p := s.peSt e
    if !p.msixHeld.contains vec.val || !(s.cfgHalf e 0xB2).testBit 15 then s
    else if s.vecMasked e vec then s.updPe e fun p => { p with pba := Tbl.set 0 p.pba vec 1, msixHeld := p.msixHeld.erase vec.val }
    else if Tbl.get 0 p.msixSent vec = 0 || Tbl.get 0 p.msixSent vec + 999 ≤ s.now then s.msixEmit e vec
    else s)

/-- A vector is no longer masked: a pending one sends its message if a CQ of it still holds an entry. -/
def State.unmaskVec (s : State) (e vec : Nat) : State :=
  if Tbl.get 0 (s.peSt e).pba vec = 0 || s.vecMasked e vec then s
  else if s.vecPending e vec then s.msixEmit e vec
  else s.updPe e fun p => { p with pba := Tbl.set 0 p.pba vec 0 }

/-- MSIX_UNMASK (R421). -/
def execMsixUnmask (e : Fin 4) (vec : Fin 2048) (s : State) : Res :=
  .next ((s.updPe e fun p => { p with msixMask := Tbl.set 1 p.msixMask vec 0 }).unmaskVec e vec)

/-- INTX_ASSERT (R422): the line follows what is wanted. -/
def execIntxAssert (e : Fin 4) (s : State) : Res := .next (if s.isEndpoint e then s.intxUpdate e else s)

/-! ### Configuration requests (R405, R407) -/

/-- A write of a configuration word, with what it starts: an FLR (Device Control bit 15), D3hot or D0, an INTx or MSI-X
change, the clearing of AER status. -/
def State.cfgWrite (s : State) (e o v : Nat) : State :=
  let s := s.cfgStore e o v
  if o = 0x04 then s.intxUpdate e
  else if o = 0x44 then
    let d3 := v % 4 == 3
    if d3 == s.flag .PE_STAT_D3 (instPe e) then s else s.d3hot e d3
  else if o = 0x58 then (if v.testBit 15 then s.flr e else s)
  else if o = 0xB0 then
    let s := s.intxUpdate e
    (s.peSt e).pba.foldl (fun s x => s.unmaskVec e x.1) s
  else if o = 0x104 then s.updPe e fun p => { p with aerUnc := p.aerUnc &&& (2 ^ 32 - 1 - v % 2 ^ 32) }
  else if o = 0x110 then s.updPe e fun p => { p with aerCor := p.aerCor &&& (2 ^ 32 - 1 - v % 2 ^ 32) }
  else s

/-- CONFIG_REQUEST (R405): Request Retry Status until the function is ready; a type 1 request is unsupported (R419). -/
def execConfigRequest (e : Fin 4) (type1 write : Bool) (off : BitVec 12) (v : BitVec 32) (s : State) : Res :=
  let o := off.toNat / 4 * 4
  .next (
    if !s.isEndpoint e || s.lost (e / 2) || (s.peSt e).perst then s
    else if !s.flag .PE_STAT_READY (instPe e) then (s.bump .PE_CNT_RRS (instPe e) 1).emit (.pcieCpl e [] 2)
    else
      let s := s.peInbound e none
      if type1 then s.peUr e true
      else if write then (s.cfgWrite e o v.toNat).emit (.pcieCpl e [] 0)
      else s.emit (.pcieCpl e [BitVec.ofNat 64 (s.cfgRead e o)] 0))

/-! ### BAR2 (R411 to R413) -/

/-- The last BAR2 offset a window covers. -/
def State.peLimit (s : State) (e n : Nat) : Nat := s.get .PW_LIM_ADDR (instH (e / 2) (e % 2 * 32 + n)) * 4096 + 0xFFF
/-- The lowest-numbered valid window that covers a BAR2 offset below the BAR's size. -/
def State.peWindow (s : State) (e o : Nat) : Option Nat :=
  if 2 ^ (30 + s.bar2Log e) ≤ o then none
  else (List.range 32).find? fun n =>
    let i := instH (e / 2) (e % 2 * 32 + n)
    s.flag .PW_ATTR_VALID i && decide (s.get .PW_BASE_ADDR i * 4096 ≤ o) && decide (o ≤ s.peLimit e n)

/-- Refuse a BAR2 request by a window (R411, R77): the record holds the BAR2 offset. -/
def State.peRefuse (s : State) (e o p : Nat) (sec write : Bool) : State :=
  let s := (s.bump .PE_CNT_REFUSED (instPe e) 1).refuse (e / 2) (.pcie (Fin.ofNat 4 e)) p sec o 6
  if write then s else s.emit (.pcieCpl e (List.replicate 8 0) 0)

/-- The request as it goes home under window `n` (R411, R412): a line, its tag, and for a PlaceWrite the core of the
window's logical CPU. A poisoned write is stored poisoned, not pushed (R413, log entry 29). -/
def State.peMsg (s : State) (e n o : Nat) (write : Bool) (mask : BitVec 64) (data : Line) (ep : Bool) : Msg :=
  let i := instH (e / 2) (e % 2 * 32 + n)
  let pa := o - s.get .PW_BASE_ADDR i * 4096 + s.get .PW_TGT_ADDR i * 4096
  let p := s.get .PW_ATTR_POLDER i
  let la := pa / 64
  let full := if mask = BitVec.ofNat 64 (2 ^ 64 - 1) then 4 else 0
  let m : Msg :=
    { plainMsg .readShared (peStop e) (bankStop (s.home la) (dirBank la)) la 31 0 with
      pol := Fin.ofNat 32 p, sec := s.flag .PW_ATTR_SEC i && s.pcieSec e, mask := mask, data := data }
  if !write then m
  else if !s.flag .PW_ATTR_PLACE i || ep then { m with ty := .write, a := BitVec.ofNat 12 (full + (if ep then 8 else 0)) }
  else match s.coreOf p (s.get .PW_ATTR_PTGT i) with
    | some c => { m with ty := .placeWrite, a := BitVec.ofNat 12 (full + c % 20 * 8 + s.get .PW_ATTR_LEVEL i * 256),
                         b := BitVec.ofNat 18 (c / 20) }
    | none => { m with ty := .placeWrite, a := BitVec.ofNat 12 full, b := 16 }

/-- The first byte that a mask names. -/
def firstByte (mask : BitVec 64) : Nat := ((List.range 64).find? fun i => mask.getLsbD i).getD 0

/-- BAR2_REQUEST (R411 to R414): the part of a request that lies in one line, `off` its line's BAR2 offset and `mask` its bytes;
`start` is the offset of the request's first byte, whose window decodes all of it. An AtomicOp and an I/O request are unsupported
(R419). -/
def execBar2Request (e : Fin 4) (req : BarReq) (start off : Word) (mask : BitVec 64) (data : BitVec 512) (ep ro : Bool) (s : State) : Res :=
  let o := off.toNat / 64 * 64 + firstByte mask
  let write := decide (req = .write)
  .next (
    if !s.peOn e || s.lost (e / 2) || (s.peSt e).perst then s
    else if s.isEndpoint e && (!(s.cfgHalf e 0x04).testBit 1 || req = .atomic || req = .io) then s.peUr e (!write)
    else
      let w := s.peWindow e start.toNat
      let s := s.peInbound e (w.map fun n => s.get .PW_ATTR_POLDER (instH (e / 2) (e % 2 * 32 + n)))
      let s := if write && ep then s.aer e true false aerPoisoned [] else s
      match w with
      | none => s.peRefuse e o 0 (s.pcieSec e) write
      | some n =>
        let i := instH (e / 2) (e % 2 * 32 + n)
        let p := s.get .PW_ATTR_POLDER i
        if !s.flag (if write then .PW_ATTR_WR else .PW_ATTR_RD) i || s.peLimit e n < o || 2 ^ (30 + s.bar2Log e) ≤ o then
          s.peRefuse e o p (s.flag .PW_ATTR_SEC i && s.pcieSec e) write
        else s.peAccept e start.toNat (s.peMsg e n (off.toNat / 64 * 64) write mask data ep) (ro && write))

/-- COMPLETION_TIMEOUT (R419): the command whose buffer read got no completion, or one with EP = 1, has no effect. -/
def execCompletionTimeout (e : Fin 4) (cid : BitVec 16) (ep : Bool) (s : State) : Res :=
  .next (match s.cp.running.find? fun r => r.src.num == e.val && r.e.cid == cid.toNat && !r.attached && !r.begun && !r.discard with
    | some r =>
      (s.aer e true false (if ep then aerPoisoned else aerCplTimeout) []).finish
        { src := r.src, sqid := Fin.ofNat 64 r.sqid, e := r.e, list := [], data := [] } (resErr stInvalidBuffer)
    | none => s)

/-! ### Link power (R415 to R417) -/

/-- An Urgent SQ exists on a function. -/
def State.urgentSq (s : State) (e : Nat) : Bool := (List.range 64).any fun q => s.sqCls e q == 0
/-- The package is in Standby (P1). -/
def State.standby (s : State) : Bool := s.flag .PM_PKG_STATE 0

/-- L1_IDLE_EXPIRED (R415): ASPM L1, where Link Control enables it, no Urgent SQ exists and the package is in P0. -/
def execL1IdleExpired (e : Fin 4) (s : State) : Res :=
  let i := instPe e
  .next (if s.isEndpoint e && s.get .PE_STAT_LINK i = 2 && (s.cfgHalf e 0x60).testBit 1 && !s.urgentSq e && !s.standby then
      (s.put .PE_STAT_LINK i 3).bump .PE_CNT_L1_ENTRIES i 1 else s)

/-- The narrowest width that carries a load at under 50 %: `load` is in hundredths of one lane's capacity. -/
def l0pWidth (w load : Nat) : Nat :=
  (([1, 2, 4, 8].filter fun x => decide (x < w)).find? fun x => decide (load < 50 * x)).getD w

/-- L0P_EVALUATE (R415, R416): in Standby the link is held in L0 at x1. -/
def execL0pEvaluate (e : Fin 4) (load : Nat) (s : State) : Res :=
  let i := instPe e
  .next (if s.isEndpoint e && s.flag .PE_STAT_FLIT i && 2 ≤ s.get .PE_STAT_LINK i then
      if s.standby then (s.put .PE_STAT_LINK i 2).put .PE_STAT_L0P_WIDTH i 1
      else if s.get .PE_STAT_LINK i = 3 then s
      else if s.flag .PE_PM_L0P_EN i then s.put .PE_STAT_L0P_WIDTH i (l0pWidth (s.get .PE_STAT_WIDTH i) load)
      else s.put .PE_STAT_L0P_WIDTH i (s.get .PE_STAT_WIDTH i)
    else s)

/-- LTR_SEND (R417): 2 µs while an Urgent SQ exists, else 100 µs, when that differs from what was reported. -/
def execLtrSend (e : Fin 4) (s : State) : Res :=
  let v := if s.urgentSq e then 2 else 100
  .next (if s.isEndpoint e && (s.peSt e).ltr ≠ v then (s.updPe e fun p => { p with ltr := v }).emit (.pcieMsg e 4 v) else s)

/-! ### WINDOW_COMMIT (R357) -/

def specWindow : OpSpec :=
  { secureOnly := true, namesPol := false, needsPhase7 := false, powerFail := false, dmodes := [0], writesBuf := false,
    m0 := 0x7, m1 := 0 }

/-- A staged dike window that a commit turns away. -/
def State.dikeStageBad (s : State) (g : Nat) : Bool :=
  (List.range 32).any fun n =>
    let w := fun k => s.get .DK_STG_VALUE (instH g (n * 4 + k))
    bitOf (w 3) 0 && (bitsOf (w 1) 51 12 < bitsOf (w 0) 51 12 || 0xFF00000000000 ≤ bitsOf (w 1) 51 12 * 4096 ||
      bitsOf (w 3) 9 5 == 0)

/-- A staged PCIe window that a commit turns away. -/
def State.peStageBad (s : State) (e : Nat) : Bool :=
  (List.range 32).any fun n =>
    let v := s.get .PW_STG_VALUE (instH (e / 2) (e % 2 * 128 + n * 4 + 3))
    bitOf v 0 && bitsOf v 9 5 == 0

/-- Copy a site's staged dike windows into force. -/
def State.dikeCommit (s : State) (g : Nat) : State :=
  let s := (List.range 32).foldl (fun t n =>
    let i := instH g n
    let w := fun k => s.get .DK_STG_VALUE (instH g (n * 4 + k))
    let t := ((t.put .DK_BASE_ADDR i (bitsOf (w 0) 51 12)).put .DK_LIM_ADDR i (bitsOf (w 1) 51 12)).put .DK_TGT_ADDR i
      (bitsOf (w 2) 51 12)
    ((((((t.put .DK_ATTR_VALID i (bitsOf (w 3) 0 0)).put .DK_ATTR_RD i (bitsOf (w 3) 1 1)).put .DK_ATTR_WR i
      (bitsOf (w 3) 2 2)).put .DK_ATTR_PLACE i (bitsOf (w 3) 3 3)).put .DK_ATTR_SEC i (bitsOf (w 3) 4 4)).put .DK_ATTR_POLDER i
      (bitsOf (w 3) 9 5))) s
  (s.put .DK_EPOCH_CURRENT (instH g 0) (s.get .DK_EPOCH_CURRENT (instH g 0) + 1)).syncDike g

/-- Copy a port's staged windows into force. -/
def State.peCommit (s : State) (e : Nat) : State :=
  let s := (List.range 32).foldl (fun t n =>
    let i := instH (e / 2) (e % 2 * 32 + n)
    let w := fun k => s.get .PW_STG_VALUE (instH (e / 2) (e % 2 * 128 + n * 4 + k))
    let t := ((t.put .PW_BASE_ADDR i (bitsOf (w 0) 35 12)).put .PW_LIM_ADDR i (bitsOf (w 1) 35 12)).put .PW_TGT_ADDR i
      (bitsOf (w 2) 51 12)
    let t := (((t.put .PW_ATTR_VALID i (bitsOf (w 3) 0 0)).put .PW_ATTR_RD i (bitsOf (w 3) 1 1)).put .PW_ATTR_WR i
      (bitsOf (w 3) 2 2)).put .PW_ATTR_PLACE i (bitsOf (w 3) 3 3)
    (((t.put .PW_ATTR_SEC i (bitsOf (w 3) 4 4)).put .PW_ATTR_POLDER i (bitsOf (w 3) 9 5)).put .PW_ATTR_LEVEL i
      (bitsOf (w 3) 10 10)).put .PW_ATTR_PTGT i (bitsOf (w 3) 23 16)) s
  (s.put .PW_EPOCH_CURRENT (instPe e) (s.get .PW_EPOCH_CURRENT (instPe e) + 1)).syncPw e

/-- The effect of WINDOW_COMMIT on a target. -/
def State.windowCommit (s : State) (t : Nat) : State × CmdRes :=
  if 6 ≤ t then (s, resErr stInvalidField)
  else if t < 4 then
    if s.peStageBad t then (s, resErr stInvalidField)
    else (s.peCommit t, resOk ((s.peCommit t).get .PW_EPOCH_CURRENT (instPe t)))
  else if s.dikeStageBad (t - 4) then (s, resErr stInvalidField)
  else (s.dikeCommit (t - 4), resOk ((s.dikeCommit (t - 4)).get .DK_EPOCH_CURRENT (instH (t - 4) 0)))

/-- WINDOW_COMMIT (R357): RESULT is the new epoch. -/
def execWindowCommit (c : Cmd) (s : State) : Res :=
  .next (runCmd specWindow c (fun s => s.windowCommit (bitsOf c.e.p0 2 0)) s)

end Sys2Proof.Machine
end

