-- ==== Sys2Proof/Machine/Polders.lean ====
section
/-! DEFINITION. Polders (spec/03): creation, deletion, attaching and detaching, the region table's commit, and the entry
point of R146 (R58 to R67, R73, R481). -/
namespace Sys2Proof.Machine

/-! ### The region table (R73) -/

/-- Copy the staged words into entry `n`. -/
def State.rgnStore (s : State) (n : Nat) : State :=
  let lo := s.get .RGN_STAGE_LO_VALUE 0
  let s := (((s.put .RGN_LO_VALID n (bitsOf lo 0 0)).put .RGN_LO_WORLD n (bitsOf lo 1 1)).put .RGN_LO_TYPE n (bitsOf lo 2 2)).put
    .RGN_LO_IDEMP n (bitsOf lo 3 3)
  (((s.put .RGN_LO_BASE n (bitsOf lo 51 21)).put .RGN_HI_LIMIT n (bitsOf (s.get .RGN_STAGE_HI_VALUE 0) 51 21)).put .RGN_RD_MASK n
    (bitsOf (s.get .RGN_STAGE_RD_VALUE 0) 31 0)).put .RGN_WR_MASK n (bitsOf (s.get .RGN_STAGE_WR_VALUE 0) 31 0)

/-- The effect of a write to RGN_COMMIT. -/
def State.rgnCommit (s : State) (v : Nat) : State := if bitOf v 8 then s.rgnStore (bitsOf v 7 0) else s

/-- RGN_COMMIT (R73). -/
def execRgnCommit (a : Acc) (h : Half) (v : Word) (s : State) : Res :=
  .next (s.secureOnly a h (hubAddr h 0xB0002020) fun s => s.rgnCommit v.toNat)

/-- First and last byte of region entry `n`. -/
def State.rgnLo (s : State) (n : Nat) : Nat := s.get .RGN_LO_BASE n * 0x200000
def State.rgnHi (s : State) (n : Nat) : Nat := s.get .RGN_HI_LIMIT n * 0x200000 + 0x1FFFFF
def State.rgnValid (s : State) (n : Nat) : Bool := s.flag .RGN_LO_VALID n

/-- Another valid entry overlaps entry `n` (R70). -/
def State.rgnOverlaps (s : State) (n : Nat) : Bool :=
  (List.range 256).any fun m => m != n && s.rgnValid m && decide (s.rgnLo m ≤ s.rgnHi n) && decide (s.rgnLo n ≤ s.rgnHi m)

/-- A polder holds a region with read, or with read and write rights. -/
def State.holdsRgn (s : State) (p n : Nat) : Bool :=
  (s.get .RGN_RD_MASK n).testBit p || (s.get .RGN_WR_MASK n).testBit p
def State.holdsRgnRw (s : State) (p n : Nat) : Bool :=
  s.rgnValid n && (s.get .RGN_RD_MASK n).testBit p && (s.get .RGN_WR_MASK n).testBit p

/-- The sweep of R66: every line of the range that a die holds is invalidated, one in M recalled first; a tick-dirty one
waits for its holder, and command `cmd` with it. -/
def State.sweepRange (s : State) (lo hi : Nat) (cmd : Option Cmd) : State :=
  let inR := fun la : Nat => decide (lo ≤ la * 64) && decide (la * 64 ≤ hi)
  let las := (((s.dir.h0.ents ++ s.dir.h1.ents).map (·.1)).filter inR).eraseDups
  las.foldl (fun s la => s.hubRecall la cmd) s

/-- Detach a region (R66): the rights first, then the sweep. -/
def State.detachRgn (s : State) (p n : Nat) (cmd : Option Cmd) : State :=
  ((s.put .RGN_RD_MASK n (withBit (s.get .RGN_RD_MASK n) p false)).put .RGN_WR_MASK n
    (withBit (s.get .RGN_WR_MASK n) p false)).sweepRange (s.rgnLo n) (s.rgnHi n) cmd

/-- Command `c` waits for a sweep. -/
def State.sweeping (s : State) (c : Cmd) : Bool := s.hub.any fun x => x.cmd == some c

/-! ### Creating (R60 to R62) -/

/-- A core that a polder may be granted: in polder 0, in service, on a die in service. -/
def State.coreFree (s : State) (g : Nat) : Bool :=
  (s.core g).serv == 0 && (s.core g).pol == 0 && (s.die (dieOf g)).state == 0 &&
    !(s.berm.dieRet.any fun x => x.1 == dieOf g)

/-- The core is in the berm, fenced or retired. -/
def State.coreOut (s : State) (g : Nat) : Bool :=
  (s.core g).serv != 0 || (s.die (dieOf g)).state != 0 || s.berm.dieRet.any fun x => x.1 == dieOf g

/-- The grant rule of R61: one core at a time from the die with the most free cores left, ties to the lower die, the lowest
local core first. `free` lists the free cores of each die. -/
def grant : Nat → List (List Nat) → List Nat
  | 0, _ => []
  | n + 1, free =>
    let m := (free.map List.length).foldl max 0
    if m = 0 then []
    else
      match free.findIdx? fun l => l.length == m with
      | some i => ((free.getD i []).headD 0) :: grant n (free.set i ((free.getD i []).drop 1))
      | none => []

/-- Insert into an ascending list. -/
def sortNat : List Nat → List Nat
  | [] => []
  | x :: xs => insertAsc x (sortNat xs)

def State.freeByDie (s : State) : List (List Nat) := (List.range 12).map fun d => (coresOfDie d).filter s.coreFree

/-- The descriptor's field checks (R60, R61). -/
def State.polDescOk (s : State) (w : Nat → Nat) : Bool :=
  let n := bitsOf (w 0) 15 8
  let m := bitsOf (w 0) 23 16
  let mask := w 1 + w 2 * 2 ^ 64 + w 3 * 2 ^ 128 + w 4 * 2 ^ 192
  let g := bitOf (w 0) 1
  let tb := bitOf (w 0) 2
  let fast := bitOf (w 0) 3
  bitsOf (w 0) 7 5 == 0 && bitsOf (w 0) 63 24 == 0 && w 5 == 0 && w 6 == 0 && w 7 == 0 && decide (mask < 2 ^ 240) &&
    decide (1 ≤ n) && decide (n ≤ 216) && decide (1 ≤ m) && decide (m ≤ n) && (!g || s.guardedCfg && tb) &&
    (!fast || !tb && !s.guardedCfg) && (!bitOf (w 0) 4 || popcount mask 240 == n && m == n)

/-- The cores a descriptor is granted, in ascending order, or the status that refuses it. -/
def State.polGrant (s : State) (w : Nat → Nat) : Nat × List Nat :=
  let mask := w 1 + w 2 * 2 ^ 64 + w 3 * 2 ^ 128 + w 4 * 2 ^ 192
  if bitOf (w 0) 4 then
    let gs := allCores.filter fun g => mask.testBit g
    if gs.any s.coreOut then (stNoResource, []) else if gs.any fun g => !s.coreFree g then (stBusy, []) else (0, gs)
  else
    let gs := grant (bitsOf (w 0) 15 8) s.freeByDie
    if gs.length < bitsOf (w 0) 23 16 then (stNoResource, []) else (0, sortNat gs)

/-- The register numbers of a polder's own registers, and their reset values again. -/
def polRegs : List Reg := [.TK_CTL, .TK_NOW, .TK_EDGE, .TK_EVT, .GD_CTL, .GD_STAT, .GD_CNT0, .GD_CNT1, .CS_TBIND]
def State.initPolRegs (s : State) (p : Nat) : State :=
  let s := s.initFields (fieldsOf (fun _ => true) fun r => polRegs.contains r) fun i => i == p
  s.initFields [Fld.TK_CFG_WORD.ctorIdx] fun i => i / 6 == p

/-- A core joins a polder (R65): in C3, empty, with its logical number; Clasto votes client 16 on its domain (R432). -/
def State.joinCore (s : State) (p l g : Nat) : State :=
  let sec := s.polSecure p
  ((s.setCore g { Core.reset g with serv := 0, pol := p, lcpu := l, sec := sec, level := if sec then 3 else 2,
                                    ckey := ((s.polder p).map (·.key)).getD 0 }).setVote (domKey 0 g) 16 true).wakeDie (g / 20)

/-- Make a polder of a descriptor's words and its cores. Its mailbox set exists with EN = 0; its tick context is fresh,
and the engine on the active hub controller's half drives it (R93). -/
def State.makePolder (s : State) (p : Nat) (w0 : Word) (gs : List Nat) : State :=
  let v : Polder := { Polder.empty with word0 := w0, lcpus := gs.map some, key := s.fresh }
  let s := ((((s.drawn.initPolRegs p).put .TK_CTL_PREF p s.activeHalf).dropQueues (4 + p)).initQrb (4 + p)).setPolder p (some v)
  let s := { s with polGen := Tbl.set 0 s.polGen p (Tbl.get 0 s.polGen p + 1) }
  let s := s.updTe fun t => { t with ctx := Tbl.erase t.ctx p }
  gs.zipIdx.foldl (fun s x => s.joinCore p x.2 x.1) s

def specPolderCreate : OpSpec :=
  { secureOnly := true, namesPol := true, needsPhase7 := true, powerFail := false, dmodes := [1], writesBuf := false,
    m0 := 0, m1 := 0 }

/-- POLDER_CREATE (R60, R61). -/
def execPolderCreate (c : Cmd) (s : State) : Res :=
  .next (runCmd specPolderCreate c (fun s =>
    let p := c.e.polder
    let w := fun i => s.bufWord c i
    if s.bufLen c ≠ 64 then (s, resErr stInvalidBuffer)
    else if !s.polDescOk w then (s, resErr stInvalidField)
    else if (s.polder p).isSome then (s, resErr stBusy)
    else match s.polGrant w with
      | (0, gs) => (s.makePolder p (BitVec.ofNat 64 (w 0)) gs, resOk gs.length)
      | (st, _) => (s, resErr st)) s)

/-! ### Attaching (R58, R62 to R64) -/

/-- The objects a pair makes of one (R64): trigger, encoder, function. -/
def State.pairOf (s : State) (kind n : Nat) : List Nat :=
  if !s.guardedCfg then [n]
  else if kind = 2 then [n, (n + 16) % 32] else if kind = 4 then [n, (n + 8) % 16] else if kind = 3 then [n, (n + 2) % 4] else [n]

/-- The newest valid commit record of a slot that carries a body, as the half it stands in (R114, R127). -/
def State.slotHalf (s : State) (p l : Nat) : Option (Nat × List Nat) :=
  let ok := fun h => match s.commitRec p l h with
    | some w => if bitOf (w.getD 0 0) 49 then none else some (h, w)
    | none => none
  match ok 0, ok 1 with
  | some a, some b => if b.2.getD 2 0 > a.2.getD 2 0 then some b else some a
  | some a, none => some a
  | none, b => b

/-- A core that takes a vacant number of a guarded polder begins from its slot at the next tick (R135). -/
def State.beginFromSlot (s : State) (p l g : Nat) : State :=
  match s.slotHalf p l with
  | none => if (s.polder p).any (·.start) then s.startCore g else s
  | some (h, w) =>
    let s := s.updCore g fun c =>
      { c with started := true, pow := 0,
               t := { CoreTick.empty with first := false, half := h, cur := { TickMsg.none with num := w.getD 0 0 % 2 ^ 48 },
                                          bodyLevel := c.level, bodySec := c.sec } }
    let s := (s.updCore g fun c => c.setSys 0xC01 s.fresh).drawn
    s.loadBody g h

/-- Attach a core. -/
def State.attachCore (s : State) (p g : Nat) (v : Polder) : State × CmdRes :=
  if 240 ≤ g then (s, resErr stInvalidField)
  else if v.cores.contains g then (s, resOk)
  else if s.coreOut g then (s, resErr stNoResource)
  else if !s.coreFree g then (s, resErr stBusy)
  else
    let l := (v.lcpus.findIdx? (·.isNone)).getD v.lcpus.length
    let fits := match v.frame with | some (_, kib) => decide ((l + 1) * 8 ≤ kib) | none => true
    if 256 ≤ l || !fits then (s, resErr stNoResource)
    else
      let again := decide (l < v.lcpus.length)
      let s := s.updPolder p fun v => { v with lcpus := if again then v.lcpus.set l (some g) else v.lcpus ++ [some g] }
      let s := s.joinCore p l g
      let s := if again && v.guarded then s.put .GD_STAT_VACANT p (s.get .GD_STAT_VACANT p - 1) else s
      (if again && v.guarded then s.beginFromSlot p l g else if v.start then s.startCore g else s, resOk)

/-- Attach a region with its rights. Rights 0 take the polder's bits away without the sweep of R66 (DESIGN CHOICE, log
entry 150). -/
def State.attachRgn (s : State) (p n r : Nat) (v : Polder) : State × CmdRes :=
  if 256 ≤ n || 4 ≤ r || r = 2 then (s, resErr stInvalidField)
  else if !s.rgnValid n then (s, resErr stNoSuchObject)
  else if s.flag .RGN_LO_WORLD n && !v.secure || s.rgnOverlaps n then (s, resErr stInvalidField)
  else
    ((s.put .RGN_RD_MASK n (withBit (s.get .RGN_RD_MASK n) p (bitOf r 0))).put .RGN_WR_MASK n
      (withBit (s.get .RGN_WR_MASK n) p (bitOf r 1)), resOk)

/-- The polders other than `p` that exist. -/
def State.otherPols (s : State) (p : Nat) : List Polder :=
  (List.range 32).filterMap fun q => if q = p then none else s.polder q

/-- A range overlaps a frame or dump area. -/
def areaHits (a n : Nat) : Option (Nat × Nat) → Bool
  | some (b, k) => decide (a < b + k * 1024) && decide (b < a + n)
  | none => false

/-- Attach a frame or dump area. An entry with VALID = 0 is no object (DESIGN CHOICE, log entry 149). -/
def State.attachArea (s : State) (p n x : Nat) (v : Polder) (frame : Bool) : State × CmdRes :=
  let a := s.rgnLo n + bitsOf x 31 0 * 4096
  let k := bitsOf x 63 32
  if 256 ≤ n then (s, resErr stInvalidField)
  else if !s.rgnValid n then (s, resErr stNoSuchObject)
  else if k = 0 || !s.holdsRgnRw p n || s.rgnHi n + 1 < a + k * 1024 then (s, resErr stInvalidField)
  else if (if frame then v.frame else v.dump).isSome && s.get .TK_NOW_STATE p ≠ 0 then (s, resErr stBusy)
  else if (s.otherPols p).any fun o => areaHits a (k * 1024) o.frame || areaHits a (k * 1024) o.dump then (s, resErr stBusy)
  else
    (s.updPolder p fun v => if frame then { v with frame := some (a, k) } else { v with dump := some (a, k) }, resOk)

/-- Attach a trigger, encoder, function or cascade port, with its pair. Encoders and functions may be shared between polders
(R58), so that another polder's hold makes a trigger alone BUSY (DEDUCED, log entry 151). -/
def State.attachBit (s : State) (p kind n : Nat) (v : Polder) : State × CmdRes :=
  let ns := s.pairOf kind n
  let lim := if kind = 2 then 32 else if kind = 4 then 16 else 4
  let set := fun m => ns.foldl (fun m i => withBit m i true) m
  if lim ≤ n then (s, resErr stInvalidField)
  else if kind = 2 then
    if ns.any fun t => (s.otherPols p).any fun o => o.trigs.testBit t then (s, resErr stBusy)
    else (s.updPolder p fun v => { v with trigs := set v.trigs }, resOk)
  else if kind = 3 then
    if !s.isEndpoint n then (s, resErr stNoSuchObject)
    else if v.secure && ns.any (fun e => !s.pcieSec e) then (s, resErr stInvalidField)
    else (s.updPolder p fun v => { v with fns := set v.fns }, resOk)
  else if kind = 4 then (s.updPolder p fun v => { v with encs := set v.encs }, resOk)
  else if v.secure && !(s.get .WORLD_ATTR_CASC_SEC 0).testBit n then (s, resErr stInvalidField)
  else (s.updPolder p fun v => { v with cports := set v.cports }, resOk)

/-- The object and kind of POLDER_ATTACH and POLDER_DETACH. -/
def objKind (c : Cmd) : Nat := bitsOf c.e.p0 3 0
def objNum (c : Cmd) : Nat := bitsOf c.e.p0 63 32

/-- POLDER_ATTACH by kind. -/
def State.polAttach (s : State) (c : Cmd) : State × CmdRes :=
  let p := c.e.polder
  let k := objKind c
  let n := objNum c
  match s.polder p with
  | none => (s, resErr stNoSuchObject)
  | some v =>
    if k = 1 then s.attachRgn p n c.e.p1 v
    else if k = 6 then s.attachArea p n c.e.p1 v true
    else if k = 7 then s.attachArea p n c.e.p1 v false
    else if 8 < k || c.e.p1 ≠ 0 then (s, resErr stInvalidField)
    else if k = 0 then s.attachCore p n v
    else if k = 8 then
      if n ≠ 0 || v.secure && !s.flag .WORLD_ATTR_SIDEBAND_TRUSTED 0 then (s, resErr stInvalidField)
      else (s.updPolder p fun v => { v with sideband := true }, resOk)
    else s.attachBit p k n v

def specPolderObj : OpSpec :=
  { secureOnly := true, namesPol := true, needsPhase7 := false, powerFail := false, dmodes := [0], writesBuf := false,
    m0 := 0xFFFFFFFF0000000F, m1 := 0xFFFFFFFFFFFFFFFF }

/-- POLDER_ATTACH (R58, R63, R64). -/
def execPolderAttach (c : Cmd) (s : State) : Res := .next (runCmd specPolderObj c (fun s => s.polAttach c) s)

/-! ### Detaching (R63, R64, R66, R481) -/

/-- Unbind a trigger output: disarmed, its queue dropped. -/
def State.unbindTrig (s : State) (t : Nat) : State := (s.setTrigQ t []).setFlag .TRIG_STAT_ARMED (instTrg t) false

/-- Detach a trigger, encoder, function or cascade port, with its pair. -/
def State.detachBit (s : State) (p kind n : Nat) (v : Polder) : State × CmdRes :=
  let ns := s.pairOf kind n
  let clear := fun m => ns.foldl (fun m i => withBit m i false) m
  let held := if kind = 2 then v.trigs else if kind = 3 then v.fns else if kind = 4 then v.encs else v.cports
  let lim := if kind = 2 then 32 else if kind = 4 then 16 else 4
  if lim ≤ n then (s, resErr stInvalidField)
  else if !held.testBit n then (s, resErr stNoSuchObject)
  else if kind = 2 then
    (ns.foldl (fun s t => s.unbindTrig t) (s.updPolder p fun v => { v with trigs := clear v.trigs }), resOk)
  else if kind = 3 then (s.updPolder p fun v => { v with fns := clear v.fns }, resOk)
  else if kind = 4 then (s.updPolder p fun v => { v with encs := clear v.encs }, resOk)
  else (s.updPolder p fun v => { v with cports := clear v.cports }, resOk)

/-- Tick delivery of the polder runs: TK_NOW.STATE is other than 0 (R63). -/
def State.ticksRun (s : State) (p : Nat) : Bool := s.get .TK_NOW_STATE p != 0

/-- Detach a core: it takes no further tick; the command completes at its point of rest. -/
def State.detachCore (s : State) (c : Cmd) (p g : Nat) (v : Polder) : State × Option CmdRes :=
  if 240 ≤ g then (s, some (resErr stInvalidField))
  else if !v.cores.contains g then (s, some (resErr stNoSuchObject))
  else if (s.core g).t.leaving || s.moving g then (s, some (resErr stBusy))
  else ((s.updPolder p fun v => { v with detCmds := v.detCmds ++ [(g, c)] }).updTick g fun t => { t with leaving := true }, none)

/-- Detach a frame or dump area that lies in region entry `n`. -/
def State.detachArea (s : State) (p n : Nat) (v : Polder) (frame : Bool) : State × CmdRes :=
  match (if frame then v.frame else v.dump) with
  | some (a, _) =>
    if s.rgnLo n ≤ a && decide (a ≤ s.rgnHi n) then
      (s.updPolder p fun v => if frame then { v with frame := none } else { v with dump := none }, resOk)
    else (s, resErr stNoSuchObject)
  | none => (s, resErr stNoSuchObject)

/-- POLDER_DETACH by kind. -/
def State.polDetach (s : State) (c : Cmd) : State × Option CmdRes :=
  let p := c.e.polder
  let k := objKind c
  let n := objNum c
  let now := fun x : State × CmdRes => (x.1, some x.2)
  match s.polder p with
  | none => (s, some (resErr stNoSuchObject))
  | some v =>
    if 8 < k then (s, some (resErr stInvalidField))
    else if k = 0 then s.detachCore c p n v
    else if k = 1 then
      if 256 ≤ n then (s, some (resErr stInvalidField))
      else if s.holdsRgn p n then
        let s := s.detachRgn p n (some c)
        (s, if s.sweeping c then none else some resOk)
      else (s, some (resErr stNoSuchObject))
    else if k = 6 then now (s.detachArea p n v true)
    else if k = 7 then now (s.detachArea p n v false)
    else if k = 8 then
      if n ≠ 0 then (s, some (resErr stInvalidField))
      else if v.sideband then (s.updPolder p fun v => { v with sideband := false }, some resOk)
      else (s, some (resErr stNoSuchObject))
    else now (s.detachBit p k n v)

/-- POLDER_DETACH (R63, R64, R66, R481). -/
def execPolderDetach (c : Cmd) (s : State) : Res := .next (runCmdLater specPolderObj c (fun s => s.polDetach c) s)

/-! ### Deleting (R67) -/

/-- Nothing of the polder is under way: every core is at rest, none moves or recovers, and no detach waits. -/
def State.polAtRest (s : State) (p : Nat) (v : Polder) : Bool :=
  v.detCmds.isEmpty && v.cores.all (fun g =>
    let t := (s.core g).t
    !t.isOpen && t.step == 0 && !t.recovering) && !(s.berm.migr.any fun x => x.pol == p)

/-- Steps 2 to 6 of R67. The polder's namespace passes to polder 0 (R53). -/
def State.polEnd (s : State) (p : Nat) (v : Polder) : State :=
  let s := ((List.range 32).filter fun t => v.trigs.testBit t).foldl (fun s t => s.unbindTrig t) s
  let s := (s.ing.heads.filter fun x => x.pol == p).foldl (fun s x => s.unbindHead x) s
  let s := s.qrbStop (4 + p)
  let s := ((List.range 256).filter fun n => s.holdsRgn p n).foldl (fun s n => s.detachRgn p n v.delCmd) s
  let s := v.cores.foldl (fun s g => s.leaveCore g 0) s
  let s := s.updCp fun q => { q with jns := q.jns.map fun j => if j.owner = p then { j with owner := 0, sec := true } else j }
  let s := s.updCas fun x => { x with chans := Tbl.mapVals (fun y => if y.pol = some p then { y with pol := none } else y) x.chans,
                                      xfers := Tbl.erase x.xfers p }
  let s := (s.updTe fun t => { t with ctx := Tbl.erase t.ctx p }).initPolRegs p
  let s := s.setPolder p none
  match v.delCmd with
  | some c => if s.sweeping c then s else s.finish c resOk
  | none => s

/-- Step 1 of R67: tick delivery stops; no core takes a further tick. -/
def State.polStop (s : State) (p : Nat) (v : Polder) : State :=
  let s := (s.put .TK_NOW_STATE p 0).updCtx p fun x => { x with msgs := [], suspendNext := false, resumeNext := false }
  let s := v.cores.foldl (fun s g => s.updTick g fun t => { t with leaving := true, pend := none, backlog := [] }) s
  s.updPolder p fun v => { v with halted := true }

/-- A command other than its POLDER_DELETE still runs against the polder (R67). -/
def State.polHeld (s : State) (p : Nat) (v : Polder) : Bool :=
  !v.detCmds.isEmpty || s.cp.running.any fun r =>
    r.begun && r.e.opcode != 0x11 && (namedObjects r.src r.e).contains (0, p)

/-- A POLDER_DELETE under way goes on: delivery stops once the commands that ran before it have completed, and the polder ends
once its ticks have. -/
def State.polSettle (s : State) (p : Nat) : State :=
  match s.polder p with
  | some v =>
    -- a configuration not yet in force completes with the number it gives, and never takes force (log entry 152)
    let s := match v.deleting, (s.ctx p).next with
      | true, some (ws, _) => s.configDone p (s.firstNum p (ws.getD 5 0).toNat)
      | _, _ => s
    if !v.deleting || s.polHeld p v then s
    else
      let s := if v.halted then s else s.polStop p v
      match s.polder p with
      | some v => if s.polAtRest p v then s.polEnd p v else s
      | none => s
  | none => s

def specPolderDelete : OpSpec :=
  { secureOnly := true, namesPol := true, needsPhase7 := false, powerFail := false, dmodes := [0], writesBuf := false,
    m0 := 0, m1 := 0 }

/-- POLDER_DELETE (R67). Executed again it goes on from where it stands. -/
def execPolderDelete (c : Cmd) (s : State) : Res :=
  .next ((runCmdLater specPolderDelete c (fun s =>
    ((s.updPolder c.e.polder fun v => { v with deleting := true, delCmd := some c }), none)) s).polSettle c.e.polder)

/-- The point of rest of R481: in a guarded polder whose ticks run, no tick open; elsewhere the next instruction boundary,
with no access of the core outstanding. -/
def State.atRest (s : State) (g : Nat) : Bool :=
  let c := s.core g
  if s.coreGuarded g && s.ticksRun c.pol then !c.t.isOpen && c.t.step == 0 else !(c.miss.any Miss.blocks) && c.t.step == 0

/-- CORE_DETACH_AT_REST (R481): the core leaves the polder; in a polder being deleted, the delete goes on once every core
is at rest. -/
def execCoreDetachAtRest (g : GCore) (s : State) : Res :=
  .next (
    let p := (s.core g).pol
    let l := (s.core g).lcpu
    match s.polder p with
    | none => s
    | some v =>
      let s := if v.detCmds.any (fun x => x.1 == g.val) && s.atRest g then
          (s.leaveCore g 0).detached p l g else s
      s.polSettle p)

/-! ### The entry point (R146) -/

def specSetEntry : OpSpec :=
  { secureOnly := false, namesPol := false, needsPhase7 := false, powerFail := false, dmodes := [0], writesBuf := false,
    m0 := 0xFFFF, m1 := 0xFFFFFFFFFFFFD }

/-- The feature value of an entry point. -/
def Polder.entryWord (v : Polder) : Nat := v.entry + b2n v.start

/-- Start every core of a polder that has not yet run; a replacement in a guarded polder resumes from its frame instead. -/
def State.startAll (s : State) (p : Nat) : State :=
  match s.polder p with
  | some v => v.cores.foldl (fun s g =>
      if (s.core g).started || (s.core g).t.recovering || (s.core g).t.leaving then s else s.startCore g) s
  | none => s

/-- SET_ENTRY_POINT (R146). -/
def execSetEntryPoint (c : Cmd) (s : State) : Res :=
  .next (runCmd specSetEntry c (fun s =>
    let p := bitsOf c.e.p0 15 0 - 0x300
    if !s.srcSecure c.src then (s.silence c, resErr stNoSuchObject)
    else match s.polder p with
    | none => (s, resErr stNoSuchObject)
    | some v =>
      let go := bitOf c.e.p1 0
      let s := s.updPolder p fun v => { v with entry := bitsOf c.e.p1 51 2 * 4, start := go }
      (if go then s.startAll p else s, resOk v.entryWord)) s)

end Sys2Proof.Machine
end

