-- ==== Sys2Proof/Machine/Recorder.lean ====
section
/-! DEFINITION. Sampling, counter dumps and the event recorder (spec/17, R446 to R462). -/
namespace Sys2Proof.Machine

/-! ### Records as words (R454, R457) -/

/-- A record in the secure view. -/
def recWords (r : Rec) : List Nat :=
  let w0 := r.seq + r.vseq * 2 ^ 32
  [w0, r.ptime,
   r.code + r.pol * 2 ^ 8 + b2n r.pview * 2 ^ 13 + b2n r.dup * 2 ^ 14 + r.half * 2 ^ 15 + r.src * 2 ^ 16 + r.rep * 2 ^ 32] ++
    (List.range 4).map (fun i => r.args.getD i 0) ++ [markOf w0]

/-- The same in its polder's view: VSEQ in word 0, SRC and HALF zero, the arguments shown "without" zero. -/
def viewWords (r : Rec) : List Nat :=
  [r.vseq, r.ptime, r.code + r.pol * 2 ^ 8 + b2n r.pview * 2 ^ 13 + b2n r.dup * 2 ^ 14 + r.rep * 2 ^ 32] ++
    (List.range 4).map (fun i => if r.hide.testBit i then 0 else r.args.getD i 0) ++ [markOf r.vseq]

/-- The records of polder `p`'s view among some records (R457). -/
def State.viewOf (s : State) (p : Nat) (rs : List Rec) : List Rec := rs.filter fun r => r.pol == p && s.recShown r

/-- The end of polder `p`'s view in half `h`: where a freeze of the view fixed it, else RV_STAT.NEXT (R459). -/
def State.viewNext (s : State) (h p : Nat) : Nat :=
  (Tbl.get none (s.rcd.get h).viewEnd p).getD (s.get .RV_STAT_NEXT (instH h p))

/-- The records a reader of polder `p`'s view in half `h` finds. -/
def State.viewRecs (s : State) (h p : Nat) : List Rec :=
  (s.viewOf p (s.rcd.get h).recs).filter fun r => decide (r.vseq < s.viewNext h p)

/-! ### Freezing, clearing and modes (R455, R456, R459, R461) -/

/-- A freeze is in force in half `h`. -/
def State.frozen (s : State) (h : Nat) : Bool := s.flag .REC_DROP_FROZEN (instH h 0)

/-- An event of the recorder of half `h` itself. -/
def State.logRec (s : State) (h code : Nat) (args : List Nat) : State :=
  s.recEvent (s.recHalf h) { code := code, pol := 0, pview := false, src := hubStop h 44, args := args, hide := 0 } false h

/-- Freeze half `h` (R459). -/
def State.recFreeze (s : State) (h : Nat) : State :=
  if s.frozen h then s
  else ((s.setFlag .REC_CTL_FREEZE (instH h 0) true).setFlag .REC_DROP_FROZEN (instH h 0) true).updRcd h fun r =>
    { r with frozenAt := s.now, frozenDrops := 0 }

/-- Unfreeze half `h`: the staged events are written in order, and the REPEAT increments that arrived are applied (R459). -/
def State.recUnfreeze (s : State) (h : Nat) : State :=
  if !s.frozen h then s
  else
    let q := s.rcd.get h
    let s := ((s.setFlag .REC_CTL_FREEZE (instH h 0) false).setFlag .REC_DROP_FROZEN (instH h 0) false).put .REC_DROP_STAGED
      (instH h 0) 0
    let s := s.updRcd h fun r => { r with
      staged := [], stagedReps := [],
      recs := q.stagedReps.foldl (fun rs n => rs.map fun x => if x.seq = n then x.again else x) r.recs }
    q.staged.foldl (fun s r => s.recPut h r) s

/-- Set the mode of half `h` (R456, R461): a change logs code 0x03; LIVE ends a freeze, NORMAL finds the SRAM full at 8,192
records held. -/
def State.recSetMode (s : State) (h : Nat) (live : Bool) : State :=
  if s.recLive h = live then s
  else
    let s := (if live then s.recUnfreeze h else s).setFlag .REC_CTL_MODE (instH h 0) live
    let s := s.setFlag .REC_DROP_FULL (instH h 0) (!live && s.recHeld h == 8192)
    s.logRec h 0x03 [b2n (!live), b2n live]

/-- Clear half `h` (R459, R461): OLDEST := NEXT, FULL := 0, and code 0x01 with the number cleared; a frozen view ends here. -/
def State.recClear (s : State) (h : Nat) : State :=
  let n := s.recHeld h
  let s := (s.put .REC_STAT_OLDEST (instH h 0) (s.get .REC_STAT_NEXT (instH h 0))).setFlag .REC_DROP_FULL (instH h 0) false
  (s.updRcd h fun r => { r with recs := [] }).logRec h 0x01 [n]

/-- A write of REC_CTL: AUTO_EXPORT and FREEZE_MAX, then MODE, then FREEZE, which has no effect in LIVE mode, then CLEAR. -/
def State.recCtlWrite (s : State) (h v : Nat) : State :=
  let s := (s.setFlag .REC_CTL_AUTO_EXPORT (instH h 0) (bitOf v 2)).put .REC_CTL_FREEZE_MAX (instH h 0) (bitsOf v 31 16)
  let s := s.recSetMode h (bitOf v 1)
  let s := if s.recLive h then s else if bitOf v 0 then s.recFreeze h else s.recUnfreeze h
  if bitOf v 3 then s.recClear h else s

/-- Offset of the recorder block's register `o` (R24). -/
def recAddr (h o : Nat) : Nat := hubAddr h (0x60000000 + o)

/-- REC_FREEZE (R459). -/
def execRecFreeze (a : Acc) (h : Half) (v : Word) (s : State) : Res :=
  .next (s.secureOnly a h (recAddr h 0) fun s => s.recCtlWrite h v.toNat)

/-- REC_CLEAR (R459). -/
def execRecClear (a : Acc) (h : Half) (v : Word) (s : State) : Res :=
  .next (s.secureOnly a h (recAddr h 0) fun s => s.recCtlWrite h v.toNat)

/-- REC_MODE (R456). -/
def execRecMode (a : Acc) (h : Half) (v : Word) (s : State) : Res :=
  .next (s.secureOnly a h (recAddr h 0) fun s => s.recCtlWrite h v.toNat)

/-- FREEZE_LAPSE (R459): after FREEZE_MAX ms, 0 acting as 1, the freeze ends with code 0x02. -/
def execFreezeLapse (h : Half) (s : State) : Res :=
  .next (if s.frozen h &&
      decide ((s.rcd.get h).frozenAt + max (s.get .REC_CTL_FREEZE_MAX (instH h 0)) 1 * 1000000 ≤ s.now) then
      (s.recUnfreeze h).logRec h 0x02 [] else s)

/-- RECORDER_RECORD (R453 to R455, R459): a block of half `h` raises an event. -/
def execRecorderRecord (h : Half) (ev : Event) (s : State) : Res := .next (s.logEv h ev)

/-! ### The view of a polder (R458, R459) -/

/-- Fix or release the end of polder `p`'s view in half `h`. -/
def State.viewFreeze (s : State) (h p : Nat) (on : Bool) : State :=
  let s := s.setFlag .RV_CTL_FREEZE (instH h p) on
  if on then
    if (Tbl.get none (s.rcd.get h).viewEnd p).isSome then s
    else s.updRcd h fun r => { r with viewEnd := Tbl.set none r.viewEnd p (some (s.get .RV_STAT_NEXT (instH h p))),
                                      viewDrops := Tbl.erase r.viewDrops p }
  else s.updRcd h fun r => { r with viewEnd := Tbl.erase r.viewEnd p }

/-- The tag reaches the view of polder `p` (R78). -/
def viewTag (a : Acc) (p : Nat) : Bool := a.sec || (a.pol : Nat) == p

/-- The physical address of register `o` of a view: the secure view, or polder `p`'s. -/
def viewAddr (h : Nat) (view : Option Pol) (o : Nat) : Nat :=
  recAddr h (match view with | none => o | some p => 0x10000 + p * 0x100 + o)

/-- An access to a register of a view. -/
def State.viewGate (s : State) (a : Acc) (h : Nat) (view : Option Pol) (o : Nat) (f : State → State) : State :=
  s.ctlGate a (match view with | none => a.sec | some p => viewTag a p) h (viewAddr h view o) f

/-- RV_FREEZE (R459). -/
def execRvFreeze (a : Acc) (h : Half) (p : Pol) (v : Word) (s : State) : Res :=
  .next (s.viewGate a h (some p) 0 fun s => s.viewFreeze h p (v.getLsbD 0))

/-! ### Cursors and windows (R458) -/

/-- The half whose SRAM the secure view of half `h` shows: the lost partner's under PARTNER. -/
def State.recSram (s : State) (h : Nat) : Nat :=
  if s.flag .REC_CURSOR_PARTNER (instH h 0) && s.lost (1 - h) then 1 - h else h

/-- `a` comes before `b` in the cyclic order of 32-bit sequence numbers. -/
def seqBefore (a b : Nat) : Bool := a % 2 ^ 32 != b % 2 ^ 32 && decide ((b + 2 ^ 32 - a % 2 ^ 32) % 2 ^ 32 < 2 ^ 31)

/-- A cursor write: the secure view clamps to OLDEST, and a polder's view starts to seek. -/
def State.cursorWrite (s : State) (h : Nat) (view : Option Pol) (v : Nat) : State :=
  match view with
  | none =>
    let s := s.setFlag .REC_CURSOR_PARTNER (instH h 0) (bitOf v 32)
    let o := s.get .REC_STAT_OLDEST (instH (s.recSram h) 0)
    let c := bitsOf v 31 0
    s.put .REC_CURSOR_SEQ (instH h 0) (if seqBefore c o then o else c)
  | some p => (s.put .RV_CURSOR_VSEQ (instH h p) (bitsOf v 31 0)).setFlag .RV_STAT_BUSY (instH h p) true

/-- REC_CURSOR (R458). -/
def execRecCursor (a : Acc) (h : Half) (view : Option Pol) (v : Word) (s : State) : Res :=
  .next (s.viewGate a h view 0x18 fun s => s.cursorWrite h view v.toNat)

/-- VIEW_SEEK_DONE (R458): the view has found the record; a VSEQ below its oldest becomes that. -/
def execViewSeekDone (h : Half) (p : Pol) (s : State) : Res :=
  .next (if s.flag .RV_STAT_BUSY (instH h p) then
      let c := s.get .RV_CURSOR_VSEQ (instH h p)
      let o := match s.viewRecs h p with | r :: _ => r.vseq | [] => s.viewNext h p
      (s.put .RV_CURSOR_VSEQ (instH h p) (if seqBefore c o then o else c)).setFlag .RV_STAT_BUSY (instH h p) false
    else s)

/-- The record under a cursor, as the view's eight words; zeros at or beyond NEXT, while seeking, and where no record is held. The
secure view shows the entry of the SRAM, rewritten or not (R455, R461). -/
def State.windowWords (s : State) (h : Nat) (view : Option Pol) : List Nat :=
  match view with
  | none =>
    let c := s.get .REC_CURSOR_SEQ (instH h 0)
    if !seqBefore c (s.get .REC_STAT_NEXT (instH (s.recSram h) 0)) then []
    else match (s.rcd.get (s.recSram h)).recs.find? fun r => r.seq % 8192 == c % 8192 with
      | some r => recWords r
      | none => []
  | some p =>
    if s.flag .RV_STAT_BUSY (instH h p) then []
    else match (s.viewRecs h p).find? fun r => r.vseq % 2 ^ 32 == s.get .RV_CURSOR_VSEQ (instH h p) with
      | some r => viewWords r
      | none => []
def State.windowWord (s : State) (h : Nat) (view : Option Pol) (w : Nat) : Nat := (s.windowWords h view).getD w 0

/-- A read of window word `w`; word 7 advances the cursor, but not at or beyond NEXT. -/
def State.windowRead (s : State) (h : Nat) (view : Option Pol) (w : Nat) : State :=
  let s' := s.updCp fun q => { q with busRead := BitVec.ofNat 64 (s.windowWord h view w) }
  if w ≠ 7 then s'
  else match view with
    | none =>
      let c := s.get .REC_CURSOR_SEQ (instH h 0)
      if seqBefore c (s.get .REC_STAT_NEXT (instH (s.recSram h) 0)) then s'.put .REC_CURSOR_SEQ (instH h 0) (c + 1) else s'
    | some p =>
      let c := s.get .RV_CURSOR_VSEQ (instH h p)
      if !s.flag .RV_STAT_BUSY (instH h p) && seqBefore c (s.viewNext h p) then s'.put .RV_CURSOR_VSEQ (instH h p) (c + 1) else s'

/-- REC_WINDOW7_READ (R458). -/
def execRecWindow7Read (a : Acc) (h : Half) (view : Option Pol) (s : State) : Res :=
  .next ((s.updCp fun q => { q with busRead := 0 }).viewGate a h view 0x78 fun s => s.windowRead h view 7)

/-! ### RECORDER_FREEZE, RECORDER_UNFREEZE (R459) -/

def specRecFreeze : OpSpec :=
  { secureOnly := false, namesPol := false, needsPhase7 := false, powerFail := false, dmodes := [0], writesBuf := false,
    m0 := 1, m1 := 0 }

/-- RECORDER_FREEZE: a secure source freezes the half; a bound source its own view. -/
def execRecorderFreeze (c : Cmd) (s : State) : Res :=
  .next (runCmd specRecFreeze c (fun s =>
    let h := bitsOf c.e.p0 0 0
    let p := c.e.polder
    if s.srcSecure c.src then
      if s.recLive h then (s, resErr stNotReady) else (s.recFreeze h, resOk (s.recHeld h))
    else if p = 0 || (s.polder p).isNone || !s.srcBound c.src p then (s.silence c, resErr stNoSuchObject)
    else if s.recLive h then (s, resErr stNotReady)
    else (s.viewFreeze h p true, resOk ((s.viewFreeze h p true).viewRecs h p).length)) s)

/-- RECORDER_UNFREEZE: RESULT counts what was dropped meanwhile. -/
def execRecorderUnfreeze (c : Cmd) (s : State) : Res :=
  .next (runCmd specRecFreeze c (fun s =>
    let h := bitsOf c.e.p0 0 0
    let p := c.e.polder
    if s.srcSecure c.src then
      (s.recUnfreeze h, resOk (if s.frozen h then min (s.rcd.get h).frozenDrops 65535 else 0))
    else if p = 0 || (s.polder p).isNone || !s.srcBound c.src p then (s.silence c, resErr stNoSuchObject)
    else
      let on := (Tbl.get none (s.rcd.get h).viewEnd p).isSome
      (s.viewFreeze h p false, resOk (if on then min (Tbl.get 0 (s.rcd.get h).viewDrops p) 65535 else 0))) s)

/-! ### Exports (R455, R460) -/

/-- The slot of the dump area the next export takes: the lowest free one, else the oldest. -/
def State.exportSlot (s : State) : Nat :=
  match ((List.range 63).map (· + 1)).find? fun n => s.exports.all fun x => x.slot != n with
  | some n => n
  | none => match s.exports with | x :: _ => x.slot | [] => 1

/-- Export half `h` to the keep store; exports stand oldest first. Code 0x04. -/
def State.exportKeep (s : State) (h : Nat) : State :=
  let n := s.exportSlot
  let rs := (s.rcd.get h).recs
  let e : Export := { slot := n, ptime := s.now, half := h, recs := rs }
  let s := { s with exports := (s.exports.filter fun (x : Export) => x.slot != n) ++ [e] }
  s.logRec h 0x04 [n, rs.length]

def specExport (dm : Nat) : OpSpec :=
  { secureOnly := false, namesPol := false, needsPhase7 := false, powerFail := false, dmodes := [dm], writesBuf := true,
    m0 := 3, m1 := 0 }

/-- RECORDER_EXPORT to the keep store: the dump area is a secure object. -/
def execRecorderExportKeep (c : Cmd) (s : State) : Res :=
  .next (runCmd (specExport 0) c (fun s =>
    let h := bitsOf c.e.p0 0 0
    if !s.srcSecure c.src then (s.silence c, resErr stNoSuchObject)
    else (s.exportKeep h, resOk (s.rcd.get h).recs.length)) s)

/-- Those of some records that were held when a command was accepted (R460). -/
def State.heldAtAccept (s : State) (c : Cmd) (rs : List Rec) : List Rec :=
  match s.runningOf c with
  | some r => rs.filter fun x => seqBefore x.seq r.recEnd
  | none => rs

/-- RECORDER_EXPORT to DESC0: as many whole records as it holds, oldest first, in the form of the sender's view. -/
def execRecorderExportBuffer (c : Cmd) (s : State) : Res :=
  .next (runCmd (specExport 1) c (fun s =>
    let h := bitsOf c.e.p0 0 0
    let p := c.e.polder
    let n := s.bufLen c / 64
    if s.srcSecure c.src then
      let rs := (s.heldAtAccept c (s.rcd.get h).recs).take n
      (s, resOut rs.length (wordsLe (rs.flatMap recWords)))
    else if p = 0 || (s.polder p).isNone || !s.srcBound c.src p then (s.silence c, resErr stNoSuchObject)
    else
      let rs := (s.heldAtAccept c (s.viewRecs h p)).take n
      (s, resOut rs.length (wordsLe (rs.flatMap viewWords)))) s)

/-- RECORDER_AUTO_EXPORT (R455, R461): Clasto answers FULL by a freeze, an export, a clear and the unfreeze that writes the
staged events. -/
def execRecorderAutoExport (h : Half) (s : State) : Res :=
  .next (if s.flag .REC_DROP_FULL (instH h 0) && s.flag .REC_CTL_AUTO_EXPORT (instH h 0) && !s.recLive h && !s.frozen h then
      (((s.recFreeze h).exportKeep h).recClear h).recUnfreeze h
    else s)

/-! ### Precise samples (R448, R449) -/

/-- The words of a sample. -/
def sampleWords (d : SmpDue) (x : SampleInfo) : List Nat :=
  [d.pc.toNat, x.dva.toNat,
   x.lat.toNat + x.rlat.toNat * 2 ^ 16 + x.src.toNat * 2 ^ 32 + b2n x.tlbmiss * 2 ^ 40 + b2n x.mispred * 2 ^ 41 + d.level * 2 ^ 42,
   d.tick, d.pt, x.inst.toNat, 0, markOf d.pc.toNat]

/-- One more record discarded in SMP_STAT.LOST. -/
def Core.sampleLost (c : Core) : Core :=
  c.setSys 0xC37 ((c.sysOf 0xC37 &&& 1) ||| BitVec.ofNat 64 (min (bitsOf (c.sysOf 0xC37).toNat 31 16 + 1) 65535 * 65536))

/-- Write one record to the buffer with the core's tag; at the buffer's end sampling stops with FULL and, with INT, interrupt
0x0021. A held record that finds the buffer full is discarded (log entry 98). -/
def State.sampleWrite (s : State) (g : Nat) (ws : List Nat) : State :=
  let c := s.core g
  let i := (c.sysOf 0xC36).toNat % 2 ^ 22
  let a := bitsOf (c.sysOf 0xC35).toNat 51 12 * 4096 + i * 64
  if bitOf (c.sysOf 0xC37).toNat 0 || c.smpSize ≤ i then s.updCore g Core.sampleLost
  else
    let s := match s.coreRefused g a true with
      | some t => t
      | none => s.writeBytes a (wordsLe ws)
    let s := s.updCore g fun c => c.setSys 0xC36 (BitVec.ofNat 64 (i + 1))
    if i + 1 < c.smpSize then s
    else
      let s := s.updCore g fun c => c.setSys 0xC37 (c.sysOf 0xC37 ||| 1)
      if bitOf (c.sysOf 0xC34).toNat 5 then (s.updCore g fun c => { c with pend := insertAsc 0x21 c.pend }).admitInt g else s

/-- SAMPLE_TAKE (R448, R449): the record of the instruction that completed an interval, with what the pipeline saw of it. In an open
guarded tick the tile holds up to 16. -/
def execSampleTake (g : GCore) (smp : SampleInfo) (s : State) : Res :=
  .next (match (s.core g).smpDue with
    | [] => s
    | d :: ds =>
      let s := s.updCore g fun c => { c with smpDue := ds }
      let ws := sampleWords d smp
      if d.held && s.inGuarded g then
        if (s.core g).smpHeld.length < 16 then
          s.updCore g fun c => { c with smpHeld := c.smpHeld ++ [ws.map (BitVec.ofNat 64)] }
        else s.updCore g Core.sampleLost
      else s.sampleWrite g ws)

/-! ### Counter banks (R446) -/

/-- A write of CB_OWN of bank `b`: unit `u` below 12 is a die's bank. It clears the bank's counters. -/
def State.cbOwn (s : State) (u b v : Nat) : State :=
  if u < 12 then
    let s := (s.setFlag .CBD_OWN_EN (instD u b) (bitOf v 0)).put .CBD_OWN_OWNER (instD u b) (bitsOf v 5 1)
    (List.range 8).foldl (fun s i => s.put .CBD_CNT_VALUE (instD u (b * 8 + i)) 0) s
  else
    let h := u - 12
    let s := (s.setFlag .CB_OWN_EN (instH h b) (bitOf v 0)).put .CB_OWN_OWNER (instH h b) (bitsOf v 5 1)
    (List.range 8).foldl (fun s i => s.put .CB_CNT_VALUE (instH h (b * 8 + i)) 0) s

/-- The unit and bank whose CB_OWN stands at a control-space address. -/
def bankAt (addr : Nat) : Option (Nat × Nat) :=
  let u := ctlUnit addr
  let o := addr % 2 ^ 32
  if !(decide (0xFF00000000000 ≤ addr) && decide (addr < 0xFF01000000000)) then none
  else if u < 12 then
    if 0x85000000 ≤ o && o < 0x85000400 && o % 0x100 = 0 then some (u, (o - 0x85000000) / 0x100) else none
  else if u < 14 then
    if 0xA0000000 ≤ o && o < 0xA0002000 && o % 0x100 = 0 then some (u, (o - 0xA0000000) / 0x100) else none
  else none

/-- CB_OWN_WRITE (R446): secure only; another address is no CB_OWN. -/
def execCbOwnWrite (a : Acc) (addr : BitVec 52) (v : Word) (s : State) : Res :=
  .next (match bankAt addr.toNat with
    | some (u, b) => s.secureOnly a (if u < 12 then s.activeHalf else u - 12) addr.toNat fun s => s.cbOwn u b v.toNat
    | none => s)

/-! ### Tick-aligned dumps (R450 to R452) -/

/-- The banks polder `p` owns, in order of unit and bank. -/
def State.ownedBanks (s : State) (p : Nat) : List (Nat × Nat) :=
  ((List.range 12).flatMap fun u => ((List.range 4).filter fun b => s.get .CBD_OWN_OWNER (instD u b) == p).map fun b => (u, b)) ++
    ((List.range 2).flatMap fun h => ((List.range 32).filter fun b => s.get .CB_OWN_OWNER (instH h b) == p).map fun b => (12 + h, b))

/-- DUMPSZ and SLOTS (R451). -/
def State.dumpSize (s : State) (p : Nat) : Nat :=
  match s.polder p with | some v => 128 * (v.lcpus.length + (s.ownedBanks p).length) | none => 0
def State.dumpSlots (s : State) (p : Nat) : Nat :=
  match (s.polder p).bind (·.dump) with
  | some (_, kib) => if s.dumpSize p = 0 then 0 else kib * 1024 / s.dumpSize p
  | none => 0

/-- A dump record (R452): `sel` the eight event numbers. -/
def dumpWords (tick l : Nat) (restart vacant : Bool) (cyc ret : Nat) (cnt sel : List Nat) (fire unit ovf : Nat) : List Nat :=
  let w0 := tick + l * 2 ^ 48 + b2n restart * 2 ^ 56 + b2n vacant * 2 ^ 57
  let pack := fun k => (List.range 4).foldl (fun a i => a + sel.getD (k + i) 0 * 2 ^ (12 * i)) 0
  [w0, cyc, ret] ++ (List.range 8).map (fun i => cnt.getD i 0) ++ [pack 0, pack 4, fire, ovf + unit * 2 ^ 8, markOf w0]

/-- The record of a logical CPU. -/
def State.dumpLcpu (s : State) (tick fire l : Nat) (g : Option Nat) : List Nat :=
  match g with
  | none => dumpWords tick l false true 0 0 [] [] fire 0 0
  | some g =>
    let c := s.core g
    let r := fun n => (c.sysOf n).toNat
    dumpWords tick l c.restarted false (r 0xC20) (r 0xC21) ((List.range 8).map fun i => r (0xC24 + i))
      ((List.range 8).map fun i => bitsOf (r (0xC2C + i)) 11 0) fire 0 (bitsOf (r 0xC23) 9 0)

/-- The record of a bank. -/
def State.dumpBank (s : State) (tick fire u b : Nat) : List Nat :=
  let k := fun i => if u < 12 then instD u (b * 8 + i) else instH (u - 12) (b * 8 + i)
  dumpWords tick (0x80 + b) false false 0 0
    ((List.range 8).map fun i => s.get (if u < 12 then .CBD_CNT_VALUE else .CB_CNT_VALUE) (k i))
    ((List.range 8).map fun i => s.get (if u < 12 then .CBD_SEL_EVENT else .CB_SEL_EVENT) (k i)) fire u 0

/-- Write one dump record: the tag is the polder's, secure (R68). -/
def State.dumpWrite (s : State) (p a : Nat) (stop : BitVec 12) (ws : List Nat) : State :=
  match s.rgnCheck p true true a with
  | none => s.writeBytes a (wordsLe ws)
  | some k => s.refuse (homeHalf a) (.hubAgent stop) (Fin.ofNat 32 p) true a k

/-- Latch and write the dump of tick `n` with fire PTIME `fire` at address `base`. -/
def State.dumpAll (s : State) (p n fire base : Nat) (v : Polder) : State :=
  let ls := v.lcpus.zipIdx.map fun x => (s.dumpLcpu n fire x.2 x.1, match x.1 with
    | some g => dieCtlStop (dieOf g)
    | none => stopId (12 + s.activeHalf) 44)
  let bs := (s.ownedBanks p).map fun x => (s.dumpBank n fire x.1 x.2, if x.1 < 12 then dieCtlStop x.1 else stopId x.1 44)
  let s := (ls ++ bs).zipIdx.foldl (fun s x => s.dumpWrite p (base + x.2 * 128) x.1.2 x.1.1) s
  v.cores.foldl (fun s g => s.updCore g fun c => { c with restarted := false }) s

/-- COUNTER_DUMP (R450 to R452): at the fire PTIME of the latest tick, to within the 4 ns of R91, where its number is a multiple of
K. Less than 20 µs
after the dump before, that one may still be under way: then this one is skipped. -/
def execCounterDump (p : Pol) (s : State) : Res :=
  .next (match s.polder p, (s.polder p).bind (·.dump) with
    | some v, some (area, _) =>
      let k := s.get .CNT_DUMP_K p
      let n := s.get .TK_NOW_NUM p
      let fire := (s.ctx p).lastFire + s.tkOffset p
      if k = 0 || n % k ≠ 0 || !v.tickBound || !v.everTicked || s.now < fire || fire + 4 < s.now || s.dumpSlots p = 0 ||
          ((s.ctx p).dumped.any fun x => x.1 == n) then s
      else
        let near := (s.ctx p).dumped.any fun x => decide (fire < x.2 + 20000)
        let skip := near && s.fresh.getLsbD 0
        let s := if near then s.drawn else s
        if skip then (s.bump .CNT_DUMP_SKIPPED p 1).updCtx p fun c => { c with dumped := c.dumped.map fun x => (n, x.2) }
        else (s.dumpAll p n fire (area + n / k % s.dumpSlots p * s.dumpSize p) v).updCtx p fun c => { c with dumped := some (n, fire) }
    | _, _ => s)

def specSetDump : OpSpec :=
  { secureOnly := false, namesPol := false, needsPhase7 := false, powerFail := false, dmodes := [0], writesBuf := false,
    m0 := 0xFFFF, m1 := 0xFFFF }

/-- SET_CNT_DUMP (R450): features 0x0700 + p. -/
def execSetCntDump (c : Cmd) (s : State) : Res :=
  .next (runCmd specSetDump c (fun s =>
    let p := bitsOf c.e.p0 15 0 - 0x700
    match s.polder p with
    | none => (if s.srcSecure c.src then s else s.silence c, resErr stNoSuchObject)
    | some v =>
      if !s.srcBound c.src p then (s.silence c, resErr stNoSuchObject)
      else if !v.tickBound && c.e.p1 ≠ 0 then (s, resErr stInvalidField)
      else if v.dump.isNone then (s, resErr stNotReady)
      else (s.put .CNT_DUMP_K p c.e.p1, resOk (s.get .CNT_DUMP_K p))) s)

end Sys2Proof.Machine
end

