-- ==== Sys2Proof/Machine/Reset.lean ====
section
/-! DEFINITION. Resets and start-up (spec/16, R431 to R439): what each reset kind keeps and loses, the boot ROM, and the
phases of start-up. -/
namespace Sys2Proof.Machine

def State.updPow (s : State) (f : Power → Power) : State := { s with pow := f s.pow }

/-! ### The configuration record (R51) -/

/-- Load the record in force into the registers whose Reset column names it. -/
def State.loadCfg (s : State) : State :=
  let r := s.cfgInForce
  let w := cfgW r 1
  let s := (s.setFlag .PKG_ID_GUARDED 0 (bitOf w 0)).setFlag .BM_CORES_PROFILE 0 (bitOf w 1)
  let s := (s.setFlag .WORLD_ATTR_SIDEBAND_TRUSTED 0 (bitOf w 2)).put .WORLD_ATTR_PCIE_SEC 0 (bitsOf w 6 3)
  let s := (s.put .WORLD_ATTR_CASC_SEC 0 (bitsOf w 10 7)).put .WORLD_ATTR_GUEST_SEC 0 (bitsOf w 12 11)
  let s := (List.range 16).foldl (fun s n =>
    let v := cfgW r (2 + n)
    ((s.put .HP_CFG_MODE (instPort n) (bitsOf v 1 0)).put .HP_CFG_AN_EN (instPort n) (bitsOf v 2 2)).put .HP_CFG_SUB_EN
      (instPort n) (bitsOf v 11 8)) s
  let s := (List.range 64).foldl (fun s n =>
    let v := cfgW r (18 + n)
    let i := instSub (n / 4) (n % 4)
    ((s.put .HP_ADDR_IPV4 i (bitsOf v 31 0)).put .HP_ADDR_PREFIX i (bitsOf v 37 32)).put .HP_ADDR_VID i (bitsOf v 49 38)) s
  let s := (List.range 4).foldl (fun s n =>
    let v := cfgW r (82 + n)
    let i := instPe n
    (((s.put .PE_CFG_MODE i (bitsOf v 2 0)).put .PE_CFG_MAX_SPEED i (bitsOf v 5 3)).put .PE_CFG_BAR2_LOG i
      (bitsOf v 8 6)).put .PE_CFG_SUBSYS i (bitsOf v 31 16)) s
  let s := s.put .PTP_EPOCH_OFFSET 0 (cfgW r 86)
  (List.range 32).foldl (fun s p => s.put .CNT_DUMP_K p (bitsOf (cfgW r (87 + p / 4)) (16 * (p % 4) + 15) (16 * (p % 4)))) s

/-! ### What a package reset keeps (R436) -/

/-- The register fields that the berm history holds. -/
def bermFields : List Nat :=
  ([.L2_STAT_RETIRED, .DC_SLICE_RETIRED, .DC_SLICE_SPARE_USED, .DIR_BANK_SPARE, .DIR_BANK_RETIRED, .LK_MAP_TX_MAP,
    .LK_MAP_RX_MAP, .LKC_MAP_TX_MAP, .LKC_MAP_RX_MAP, .MC_STAT_REDIRECTS, .AG_MARGIN_STATE, .BM_CORES_CD0, .BM_CORES_CD1,
    .BM_CORES_CD2, .BM_CORES_CD3, .BM_CORES_CD4, .BM_CORES_CD5, .BM_CORES_CD6, .BM_CORES_CD7, .BM_CORES_CD8, .BM_CORES_CD9,
    .BM_CORES_CD10, .BM_CORES_CD11] : List Fld).map (·.ctorIdx)

/-- The fields of the AON domain and the recorder, which only POR initialises. -/
def aonFields : List Nat := fieldsOf (fun k => k == .por) fun _ => true

/-- The register fields of the polder definitions beside the polders themselves (R436, R439): region table, tick
configurations, GD_CTL, CS_TBIND, windows and votes. -/
def defFields : List Nat :=
  ([.RGN_LO_VALID, .RGN_LO_WORLD, .RGN_LO_TYPE, .RGN_LO_IDEMP, .RGN_LO_BASE, .RGN_HI_LIMIT, .RGN_RD_MASK, .RGN_WR_MASK,
    .TK_CFG_WORD, .TK_CTL_PREF, .GD_CTL_DEFER_LIMIT, .GD_CTL_CATCHUP, .CS_TBIND_CHANNEL, .CS_TBIND_VALID, .DK_BASE_ADDR,
    .DK_LIM_ADDR, .DK_TGT_ADDR, .DK_ATTR_VALID, .DK_ATTR_RD, .DK_ATTR_WR, .DK_ATTR_PLACE, .DK_ATTR_SEC, .DK_ATTR_POLDER,
    .PW_BASE_ADDR, .PW_LIM_ADDR, .PW_TGT_ADDR, .PW_ATTR_VALID, .PW_ATTR_RD, .PW_ATTR_WR, .PW_ATTR_PLACE, .PW_ATTR_SEC,
    .PW_ATTR_POLDER, .PW_ATTR_LEVEL, .PW_ATTR_PTGT, .CS_WTGT_TGT, .CS_WATTR_VALID, .CS_WATTR_RD, .CS_WATTR_WR,
    .CS_WATTR_POLDER, .CS_WATTR_PAGES] : List Fld).map (·.ctorIdx)

/-- The votes a start-up restores: those of clients 8 to 31. -/
def voteField : Nat := Fld.PV_VOTE_VOTES.ctorIdx

/-- A polder's definition without what runs. -/
def Polder.definition (v : Polder) : Polder :=
  { v with stopped := 0, sendHead := 0, unreach := false, deleting := false, halted := false, everTicked := false,
           detCmds := [], delCmd := none }

/-- The definitions in force, as the keep store holds them. Before phase 7 they are still those to be restored. -/
def State.defsNow (s : State) : Option Defs :=
  if s.starting then s.pow.defs
  else some { pols := s.pols.map fun x => (x.1, x.2.map Polder.definition),
              regs := s.regs.filter fun x => (voteField :: defFields).contains (x.1 / 65536),
              heads := s.ing.heads.map fun x => (x.words, x.pol, x.a, x.b),
              join := s.cas.joined }

/-- The keep store's part of the command plane; the pending configuration record takes force (R51, R52). -/
def CmdPlane.kept (c : CmdPlane) : CmdPlane :=
  { State.reset.cp with slotA := c.slotA, slotB := c.slotB, bootChoice := c.bootChoice, cfg := c.cfgPending.getD c.cfg,
                        jns := c.jns, keep := c.keep, badBlocks := c.badBlocks, spareBlocks := c.spareBlocks,
                        errLog := c.errLog, errSeq := c.errSeq }

/-- The berm history with nothing under way; the dies sampled are counted from POR. -/
def Berm.kept (b : Berm) (por : Bool) : Berm :=
  { State.reset.berm with hist := b.hist, seq := b.seq, retired := b.retired, rows := b.rows, first := b.first,
                          sampled := if por then [] else b.sampled }

/-- A table whose entries are reset but for what `f` keeps. -/
def Tbl.keep {α : Type} [DecidableEq α] (d : α) (f : α → α) (t : Tbl α) : Tbl α :=
  t.foldl (fun a x => Tbl.set d a x.1 (f x.2)) []

/-- Half `h` stays out: its rail is out of range. -/
def Power.railOut (p : Power) (h : Nat) : Bool := p.bad.any fun x => x.1 == 1 + h

/-- Everything that a package reset or POR leaves: the keep store, the berm history, and under PKR the AON domain. -/
def State.rebuild (s : State) (por : Bool) : State :=
  let r := State.reset
  { r with
    regs := s.regs.filter fun x => (if por then bermFields else bermFields ++ aonFields).contains (x.1 / 65536)
    cp := s.cp.kept
    rcd := if por then r.rcd else s.rcd
    exports := s.exports
    polGen := s.polGen
    te := if por then r.te else { r.te with rateAcc := s.te.rateAcc, slewAcc := s.te.slewAcc, phaseLeft := s.te.phaseLeft }
    cores := s.cores
    dies := Tbl.keep DieSt.reset (fun d => { DieSt.reset with state := if d.state = 2 then 2 else 0 }) s.dies
    mcs := Tbl.keep Mc.reset (fun m => { Mc.reset with redirect := m.redirect }) s.mcs
    dir := { h0 := { DirHalf.reset with retired := s.dir.h0.retired }, h1 := { DirHalf.reset with retired := s.dir.h1.retired } }
    berm := s.berm.kept por
    links := Tbl.keep LkSt.reset (fun k => { LkSt.reset with txMap := k.txMap, rxMap := k.rxMap }) s.links
    halfLost := { h0 := s.pow.railOut 0, h1 := s.pow.railOut 1 }
    pow := { s.pow with hot := [], vetoAt := [], fenceAt := [], pkrWait := none, avsAt := [], defs := s.defsNow,
                        tripped := s.pow.tripped && !por }
    out := s.out
    free := s.free
    pending := s.pending }

/-- Service, berm or retirement of a core as the berm history gives it; an empty history gives the fixed list of R20. -/
def State.coreServ (s : State) (g : Nat) : Nat :=
  if s.berm.hist.isEmpty then (if (if s.flag .BM_CORES_PROFILE 0 then 16 else 18) ≤ g % 20 then 1 else 0)
  else
    let v := (s.core g).serv
    if v = 3 then (if (s.die (dieOf g)).state = 2 then 3 else 0) else v

/-- Every core as a reset leaves it. -/
def State.resetCores (s : State) : State :=
  let s := if s.berm.hist.isEmpty then
      (List.range 12).foldl (fun s d => s.put (bmFld d) 0 (if s.flag .BM_CORES_PROFILE 0 then 4 else 2)) s else s
  let vs := allCores.map fun g => (g, s.coreServ g)
  s.setCores (vs.filterMap fun x =>
      if (Core.reset x.1).serv = x.2 then none else some (x.1, { Core.reset x.1 with serv := x.2 }))

/-- POR (R55, R434, R436): everything but the keep store; the straps are sampled (R466). -/
def State.por (s : State) (prim casc boot : Nat) : State :=
  let s := (s.tearBlocks.rebuild true).loadCfg.resetCores
  ((s.put .CP_ROLE_ACTIVE 0 prim).put .CS_STAT_INDEX 0 casc).updPow fun p =>
    { p with prim := prim, casc := casc, boot := boot }

/-- PKR (R434, R436) with RST_CAUSE and STRAP_BOOT as sampled at its release. -/
def State.pkr (s : State) (cause boot : Nat) : State :=
  let s := (s.rebuild false).loadCfg.resetCores
  let s := (s.put .CP_ROLE_ACTIVE 0 s.pow.prim).updPow fun p => { p with boot := boot }
  (s.put .RST_CAUSE_CAUSE 0 cause).bump .RST_CAUSE_PKR_COUNT 0 1

/-- PORST (R434, R466): PORST_N asserted and released. -/
def execPorst (st : Straps) (s : State) : Res :=
  .next (((s.por st.primary st.cascadeId st.boot).updPow fun p => { p with bad := [], held := [] }))

/-- A package reset that meets PWRFAIL_N is held off until PF_SAFE, or until 800 µs have passed (R437). -/
def State.askPkr (s : State) (cause boot : Nat) : State :=
  if s.flag .PM_RAIL_PWRFAIL (instH s.activeHalf 0) && !s.flag .PM_RAIL_PF_SAFE (instH s.activeHalf 0) &&
      decide (s.now < s.pow.pfAt + 800000) then
    s.updPow fun p => { p with pkrWait := some (cause, boot) }
  else s.pkr cause boot

/-- PKRST (R434, R473): PKRST_N held for 10 µs and released with STRAP_BOOT at `boot`. -/
def execPkrst (boot : Fin 4) (s : State) : Res := .next (s.askPkr 1 boot)

/-! ### RST_REQ (R434, R435) -/

/-- The domain of a unit that is reset comes out Open; a drain under way is cancelled (R435). -/
def State.openDomain (s : State) (d : Nat) : State := s.put .PV_VOTE_SLUICE d 0

/-- The die registers of R436: DC_*, DPM_CTL and the compute-end LK_*. -/
def dieRegs : List Reg :=
  [.DC_CTL, .DC_STAT, .DC_CNT, .DC_MAINT, .DC_SLICE, .DPM_CTL, .LKC_CTL, .LKC_STAT, .LKC_MAP_TX, .LKC_MAP_RX, .LKC_CNT]

/-- The fields of a die, its cores and its module ends that a DIE reset initialises (R9, R436). -/
def dieFields : List Nat :=
  (fieldsOf (fun k => k == .die) (fun _ => true) ++
    fieldsOf (fun _ => true) fun r => dieRegs.contains r || r.place.cls == .coreBlk).filter fun f => !bermFields.contains f

/-- DIE reset: the die's registers, cores, caches and module ends. -/
def State.dieReset (s : State) (d : Nat) : State :=
  let s := (coresOfDie d).foldl (fun s g =>
    let c := s.core g
    s.setCore g { Core.reset g with serv := c.serv, pol := c.pol, lcpu := c.lcpu, ckey := c.ckey, save := none }) s
  let s := (s.updDie d fun x => { x with dc := [], hbMissed := 0 }).initFields dieFields fun i => i / 4096 == d
  let s := (s.updDirs fun x => x.dropDie d).hubSettleAll
  let m : Fin 13 := Fin.ofNat 13 d
  let s := ((s.linkReset (dieEnd 0 m)).linkReset (dieEnd 1 m)).setModState 0 m 0
  let s := (coresOfDie d).foldl (fun (s : State) g => s.openDomain (domKey 0 g)) s
  ((s.setModState 1 m 0).pathsOf m).openDomain (domKey 1 d)

/-- A core of the die belongs to a polder other than 0. -/
def State.diePolders (s : State) (d : Nat) : Bool := (coresOfDie d).any fun g => (s.core g).pol != 0

/-- The fields of a core's block that a CORE reset initialises. -/
def coreFields : List Nat :=
  (fieldsOf (fun _ => true) fun r => r.place.cls == .coreBlk).filter fun f => !bermFields.contains f

/-- CORE reset: membership stays, everything else of the core is lost, and it starts at its polder's entry point where START
stands; ticks that fire meanwhile count in MISSED (R435). -/
def State.coreReset (s : State) (g : Nat) : State :=
  let c := s.core g
  let s := (s.freeToken g).answerParked g
  let t := { CoreTick.empty with pend := c.t.pend, missed := c.t.missed }
  let s := s.setCore g { Core.reset g with serv := c.serv, pol := c.pol, lcpu := c.lcpu, sec := s.polSecure c.pol, ckey := c.ckey,
                                           level := if s.polSecure c.pol then 3 else 2, t := t }
  let s := ((s.initFields coreFields fun i => i == instC g).openDomain (domKey 0 g)).hubSettleAll
  match s.polder c.pol with
  | some v => if v.start && c.serv == 0 then (s.startCore g).updTick g fun _ => t else s
  | none => s

/-- Tick delivery of a guarded polder runs, so that its cores restart only from their frames (R435). -/
def State.resetBusy (s : State) (p : Nat) : Bool := s.polGuarded p && s.ticksRun p

/-- POLDER reset: every core of the polder and its mailbox set. -/
def State.polReset (s : State) (p : Nat) : State :=
  let s := match s.polder p with
    | some v => v.cores.foldl (fun (s : State) g => s.coreReset g) s
    | none => s
  ((s.dropQueues (4 + p)).initQrb (4 + p)).initFields [Fld.CUT_REL_TICK.ctorIdx] fun i => i / 4096 == p

/-- LINK reset of a module end (R348, R436): the PHY comes back under its default map. LK_STAT is initialised and then shows again
what BDL, which keeps its state, has in force (log entry 170); LAST_CAUSE stays at its reset value. -/
def State.moduleReset (s : State) (l : LinkEnd) : State :=
  let s := (s.linkReset l).lkPut l .LK_STAT_LAST_CAUSE .LKC_STAT_LAST_CAUSE 0
  s.awake l.half l.m

/-- LINK reset by RST_REQ's target coding: half × 32 + module, or + 16 + local PCIe port. -/
def State.linkTarget (s : State) (t : Nat) (die : Bool := false) : State :=
  let h := t / 32 % 2
  let n := t % 32
  if 64 ≤ t then s
  else if hn : n < 13 then s.moduleReset { half := Fin.ofNat 2 h, m := ⟨n, hn⟩, die := die }
  else if n = 16 || n = 17 then s.peReset (h * 2 + (n - 16))
  else s

/-- Apply a reset request: the state, and `false` where R435 says BUSY. Kinds without meaning give no effect. -/
def State.rstDo (s : State) (kind t : Nat) : State × Bool :=
  if kind = 1 then (s.askPkr 2 s.pow.boot, true)
  else if kind = 2 then
    if 12 ≤ t then (s, true)
    else if s.diePolders t && (s.die t).state == 0 then (s, false)
    else (s.dieReset t, true)
  else if kind = 3 then
    if 240 ≤ t then (s, true)
    else if s.resetBusy (s.core t).pol then (s, false)
    else (s.coreReset t, true)
  else if kind = 4 then
    if s.resetBusy t then (s, false)
    else if (s.polder t).isNone then (s, true)
    else (s.polReset t, true)
  else if kind = 5 then (s.linkTarget t, true)
  else (s, true)

/-- A write of RST_REQ: GO = 1 applies it. -/
def State.rstReq (s : State) (v : Nat) : State := if bitOf v 32 then (s.rstDo (bitsOf v 2 0) (bitsOf v 31 16)).1 else s

/-- The address of RST_REQ in half `h`. -/
def rstAddr (h : Nat) : Nat := hubAddr h 0x50000100

/-- The word of a reset request. -/
def rstWord (kind t : Nat) : Nat := kind + t * 2 ^ 16 + 2 ^ 32

/-- RST_REQ kind 1 (R434). -/
def execRstReqPkr (a : Acc) (h : Half) (s : State) : Res :=
  .next (s.secureOnly a h (rstAddr h) fun s => s.rstReq (rstWord 1 0))
/-- RST_REQ kind 2 (R435). -/
def execRstReqDie (a : Acc) (h : Half) (d : Die) (s : State) : Res :=
  .next (s.secureOnly a h (rstAddr h) fun s => s.rstReq (rstWord 2 d))
/-- RST_REQ kind 3 (R435). -/
def execRstReqCore (a : Acc) (h : Half) (g : GCore) (s : State) : Res :=
  .next (s.secureOnly a h (rstAddr h) fun s => s.rstReq (rstWord 3 g))
/-- RST_REQ kind 4 (R435). -/
def execRstReqPolder (a : Acc) (h : Half) (p : Pol) (s : State) : Res :=
  .next (s.secureOnly a h (rstAddr h) fun s => s.rstReq (rstWord 4 p))
/-- RST_REQ kind 5 (R434). -/
def execRstReqLink (a : Acc) (h : Half) (target : BitVec 16) (s : State) : Res :=
  .next (s.secureOnly a h (rstAddr h) fun s => s.rstReq (rstWord 5 target.toNat))

/-- PHY_SUPPLY_TRANSIENT (R434): a LINK reset of that end, named as RST_REQ names it; with `die` the compute die's end of the
module. -/
def execPhySupplyTransient (h : Half) (target : Fin 32) (die : Bool) (s : State) : Res := .next (s.linkTarget (h * 32 + target) die)

/-- CONTROLLERS_FAILED (R434): FATAL has stood on every QRB for 1 s. -/
def execControllersFailed (s : State) : Res :=
  .next (match s.cp.fatalSince with
    | some t => if t + 1000000000 ≤ s.now then s.askPkr 4 s.pow.boot else s
    | none => s)

/-! ### The boot ROM (R438) -/

/-- The order in which the ROM tries the slots under STRAP_BOOT. -/
def State.bootOrder (s : State) : List Nat :=
  let k := if s.pow.boot = 0 then s.cp.bootChoice else s.pow.boot - 1
  if s.pow.boot = 3 then [] else [k, 1 - k]

/-- Try the slots in order: each failure logs code 0xC6 with the verification status, the first that passes runs. -/
def State.bootTry (s : State) (h : Nat) : List Nat → State × Option Nat
  | [] => (s, none)
  | k :: ks =>
    match (s.slot k).verify with
    | (some key, _) => (s.setSlot k ((s.slot k).passed key (s.slot k).changed), some k)
    | (none, st) => (s.logSec h 44 0xC6 [k, st]).bootTry h ks

/-- The active controller boots in phase 1: the slot of STRAP_BOOT, else the other; with none left the controllers enter recovery.
-/
def State.bootActive (s : State) (h : Nat) : State :=
  match s.bootTry h s.bootOrder with
  | (s, some k) =>
    let s := s.setRuns s.cp.bootChoice (some k) s.cp.runStandby
    (List.range 4).foldl (fun s e => s.updPe e fun p => { p with rom := s.romNow }) s
  | (s, none) =>
    (((s.setRuns s.cp.bootChoice none none).updCp fun q => { q with recovery := true }).put .PM_PKG_CAUSE 0 4).logSec
      s.activeHalf 44 0xC7 [1, 4]

/-- The other controller boots the slot that the active one runs (R30); where it fails verification nothing stands by. -/
def State.bootStandby (s : State) (h k : Nat) : State :=
  match (s.slot k).verify with
  | (some _, _) => (s.setRuns s.cp.bootChoice s.cp.runActive (some k)).setFlag .CP_ROLE_STANDBY_READY 0 true
  | (none, st) => s.logSec h 44 0xC6 [k, st]

/-- BOOT_VERIFY (R30, R438): controller `hc` verifies its slot and boots. -/
def execBootVerify (hc : Half) (s : State) : Res :=
  .next (
    if !s.pow.held.isEmpty || s.cp.recovery || s.lost hc then s
    else if hc.val = s.activeHalf then (if s.get .PM_PKG_PHASE 0 = 1 then s.bootActive hc else s)
    else match s.cp.runActive with
      | some k => if s.mayStandBy && s.cp.live.isNone && !s.flag .CP_ROLE_STANDBY_READY 0 then s.bootStandby hc k else s
      | none => s)

/-! ### Start-up (R439) -/

/-- Start-up stops in its phase: PM_PKG.CAUSE and code 0xC7. -/
def State.startStop (s : State) (cause : Nat) : State :=
  (s.put .PM_PKG_CAUSE 0 cause).logSec s.activeHalf 44 0xC7 [s.get .PM_PKG_PHASE 0, cause]

/-- A channel that start-up did not report. -/
def absentChan : ChanReport :=
  { dpc := 0, ranks := 0, dense := false, supported := false, trained := false, trfcsb := 0, trefi := 0 }
def chanOf (r : StartupReport) (i : Nat) : ChanReport := r.chans.getD i absentChan

/-- The same population (R269). -/
def sameChan (a b : ChanReport) : Bool := a.dpc == b.dpc && a.ranks == b.ranks && a.dense == b.dense
/-- A population of R268. -/
def goodChan (a : ChanReport) : Bool := a.dpc != 0 && a.ranks != 0 && a.supported

/-- GiB on one channel (R268). -/
def chanGib (a : ChanReport) : Nat := a.dpc * (32 * a.ranks * (if a.dense then 2 else 1))

/-- Hard repair of every row that the berm history records (R297, R386). -/
def State.hppr (s : State) : State :=
  s.berm.rows.foldl (fun s x => s.dramCmd x.1 x.2.sc 8 (bankNo x.2.bank * 2 ^ 17 + x.2.row.toNat)) s

/-- Populate and train the channels (R268 to R271), repairing the rows recorded: a refused population or a failed training stops
start-up. -/
def State.train (s : State) (r : StartupReport) : State :=
  let c := chanOf r 0
  match (List.range 16).find? fun i => !(sameChan (chanOf r i) c && goodChan (chanOf r i)) with
  | some i =>
    let s := (List.range 16).foldl (fun s i => s.put .MC_STAT_STATE (instCh i) 6) s
    ((s.logSec (i / 8) 44 0x7B [i, if goodChan (chanOf r i) then 1 else 2]).updPow fun p => { p with stopCh := i }).startStop 1
  | none =>
    match (List.range 16).find? fun i => !(chanOf r i).trained with
    | some i => (s.updPow fun p => { p with stopCh := i }).startStop 2
    | none =>
      let s := (List.range 16).foldl (fun s i =>
        let x := chanOf r i
        let k := instCh i
        let s := ((s.put .MC_CFG_DPC k x.dpc).put .MC_CFG_RANKS k x.ranks).setFlag .MC_CFG_DENSITY k x.dense
        let s := (s.put .MC_CFG_SPEED k (if x.dpc.val = 1 then 0x50 else 0x40)).put .MC_CFG_TRFCSB k x.trfcsb.toNat
        (s.put .MC_CFG_TREFI k x.trefi.toNat).put .MC_STAT_STATE k 2) s.hppr
      let gib := chanGib c * (if s.guardedCfg then 8 else 16)
      (s.put .MEM_SIZE_BLOCKS 0 (gib * 512)).put .PM_PKG_PHASE 0 4

/-- Restore one polder (R436, R439): its cores where they are still in service, a fresh key, its tick configuration;
after POR the engine on the active hub controller's half drives it (R93). -/
def State.restorePolder (s : State) (p : Nat) (v : Polder) : State :=
  let v := { v with key := s.fresh, lcpus := v.lcpus.map fun g => match g with
    | some g => if s.coreFree g then some g else none
    | none => none }
  let s := s.drawn.setPolder p (some v)
  let s := if s.get .RST_CAUSE_CAUSE 0 = 0 then s.put .TK_CTL_PREF p s.activeHalf else s
  let s := v.lcpus.zipIdx.foldl (fun s x => match x.1 with | some g => s.joinCore p x.2 g | none => s) s
  let ws := (List.range 6).map fun i => BitVec.ofNat 64 (s.get .TK_CFG_WORD (p * 6 + i))
  if v.tickBound && bitsOf (s.get .TK_CFG_WORD (p * 6)) 2 0 ≠ 0 then s.takeConfig p ws s.now else s

/-- A restored vote word: the hardware's clients as they are, the others as they were. -/
def mergeVotes (now was : Nat) : Nat := bitsOf was 31 8 * 256 + now % 256

/-- Restore every definition: registers, polders, heads, the cascade membership, START, and the votes. -/
def State.restore (s : State) (d : Defs) : State :=
  let s := d.regs.foldl (fun s x => if x.1 / 65536 = voteField then s
    else { s with regs := Tbl.insert x.1 x.2 (Tbl.erase s.regs x.1) }) s
  let s := d.pols.foldl (fun s x => match x.2 with | some v => s.restorePolder x.1 v | none => s) s
  let s := d.heads.foldl (fun s x => s.bindHead { newStrm x.2.1 x.1 with a := x.2.2.1, b := x.2.2.2 }) s
  let s := match d.join with
    | some (m, ws) => s.joinStart m fun i => ws.getD i 0
    | none => s
  let s := d.pols.foldl (fun s x => match x.2 with | some v => if v.start then s.startAll x.1 else s | none => s) s
  d.regs.foldl (fun s x => if x.1 / 65536 = voteField then
    s.put .PV_VOTE_VOTES (x.1 % 65536) (mergeVotes (s.get .PV_VOTE_VOTES (x.1 % 65536)) x.2) else s) s

/-- Phase 7 (R439, R456): polders are restored and each recorder leaves LIVE mode. -/
def State.startDone (s : State) : State :=
  let s := match s.pow.defs with | some d => s.restore d | none => s
  let s := (s.updPow fun p => { p with defs := none }).put .PM_PKG_PHASE 0 7
  (s.recSetMode 0 false).recSetMode 1 false

/-- Command-ready (R439): the record is in force; its absence and low spares are logged (R51, R393). -/
def State.commandReady (s : State) : State :=
  let s := s.put .PM_PKG_PHASE 0 2
  let s := if s.cp.cfg.isEmpty then s.logSec s.activeHalf 44 0x12 [1] else s
  if s.cp.spareBlocks < 16 then s.logSec s.activeHalf 44 0xB6 [s.cp.spareBlocks] else s

/-- STARTUP_PHASE (R439): the present phase completes as `r` reports. A start-up that stopped stays where it is. -/
def execStartupPhase (r : StartupReport) (s : State) : Res :=
  .next (
    let ph := s.get .PM_PKG_PHASE 0
    if s.get .PM_PKG_CAUSE 0 ≠ 0 || !s.pow.held.isEmpty then s
    else if ph = 1 then (if s.cp.runActive.isSome then s.commandReady else s)
    else if ph = 2 then
      ((List.range 16).foldl (fun s i => s.put .MC_STAT_STATE (instCh i) 1) s).put .PM_PKG_PHASE 0 3
    else if ph = 3 then s.train r
    else if ph = 4 then
      ({ s with mem := { h0 := [], h1 := [] }, poison := { h0 := [], h1 := [] } } : State).put .PM_PKG_PHASE 0 5
    else if ph = 5 then
      if r.badDies.any fun d => (s.die d).state == 0 then s.startStop 3 else s.put .PM_PKG_PHASE 0 6
    else if ph = 6 then s.startDone
    else s)

end Sys2Proof.Machine
end

