-- ==== Sys2Proof/Machine/Power.lean ====
section
/-! DEFINITION. Supplies, temperature, votes and sluices (spec/16, R423 to R433, R437, R476; spec/18, R479). -/
namespace Sys2Proof.Machine

/-- Set a field of both halves' PM_RAIL: each power controller monitors every rail (R427). -/
def State.putRail (s : State) (f : Fld) (v : Nat) : State := (s.put f (instH 0 0) v).put f (instH 1 0) v

/-! ### The power-fail warning (R437) -/

/-- An activation whose standby has not verified the image completes POWER_FAIL, and the boot choice reverts (R437). -/
def State.pfLive (s : State) : State :=
  match s.cp.live with
  | some l => if l.swapped then s
    else ((s.setRuns l.oldBoot s.cp.runActive s.cp.runStandby).updCp fun q => { q with live := none }).finish l.cmd (resErr stPowerFail)
  | none => s

/-- The warning begins: keep-store commands are refused from here (R55), and code 0xC0 is logged. -/
def State.pfAssert (s : State) : State :=
  if s.pwrFail then s
  else ((((s.putRail .PM_RAIL_PWRFAIL 1).putRail .PM_RAIL_PF_SAFE 0).updPow fun p => { p with pfAt := s.now }).logSec
    s.activeHalf 44 0xC0 [1]).pfLive

/-- PWRFAIL_ASSERT (R437, R474): asserted again before a recognised deassertion it runs on. -/
def execPwrfailAssert (s : State) : Res := .next s.pfAssert

/-- PWRFAIL_DEASSERT (R437): with no rail out of range and no thermal trip latched. -/
def execPwrfailDeassert (s : State) : Res :=
  .next (if s.pwrFail && s.pow.bad.isEmpty && !s.pow.tripped then
      ((s.putRail .PM_RAIL_PWRFAIL 0).putRail .PM_RAIL_PF_SAFE 0).logSec s.activeHalf 44 0xC0 [0]
    else s)

/-- PF_SAFE (R437): every block write is complete; a package reset that was held off follows. -/
def execPfSafe (s : State) : Res :=
  .next (if s.pwrFail then
      let s := s.putRail .PM_RAIL_PF_SAFE 1
      match s.pow.pkrWait with
      | some (c, b) => s.pkr c b
      | none => s
    else s)

/-! ### Rails (R427) -/

/-- The number of a rail in code 0xC1. -/
def railNo : Rail → Nat
  | .aon => 0 | .hub h => 1 + h | .serL => 3 | .serH => 4 | .io => 5 | .phy => 6 | .cd d => 7 + d

/-- PM_RAIL's bit of a rail; VDD_AON has none. -/
def State.railBit (s : State) (r : Rail) (b : Bool) : State :=
  let f := fun (x : Fld) (i : Nat) => s.putRail x (withBit (s.get x (instH 0 0)) i b)
  match r with
  | .aon => s
  | .hub h => f .PM_RAIL_HUB_OK h
  | .serL => f .PM_RAIL_SHARED_OK 0
  | .serH => f .PM_RAIL_SHARED_OK 1
  | .io => f .PM_RAIL_SHARED_OK 2
  | .phy => f .PM_RAIL_SHARED_OK 3
  | .cd d => f .PM_RAIL_CD_OK d

/-- How long a rail must have been back in range before what it took comes out of reset, in ns. -/
def railHold : Rail → Nat
  | .cd _ => 1000000
  | _ => 2000000

/-- A rail leaves its range: a die or a half is lost, the package is held in package reset, or POR. -/
def State.railLost (s : State) (r : Rail) : State :=
  match r with
  | .aon => s.por s.pow.prim s.pow.casc s.pow.boot
  | .hub h => s.halfLoss h
  | .cd d => (s.dieLoss d).dieReset d
  | r => (s.pkr 3 s.pow.boot).updPow fun p => { p with held := railNo r :: p.held }

/-- RAIL_MONITOR (R427): one rail as the monitor finds it, with its voltage. -/
def execRailMonitor (rail : Rail) (inRange : Bool) (mv : BitVec 16) (s : State) : Res :=
  let n := railNo rail
  .next (
    let s := s.railBit rail inRange
    match s.pow.bad.lookup n with
    | none =>
      if inRange then s
      else
        let s := if s.pwrFail then s else s.logSec s.activeHalf 44 0xC1 [n, mv.toNat]
        (s.updPow fun p => { p with bad := p.bad ++ [(n, none)] }).railLost rail
    | some since =>
      let rest := s.pow.bad.filter fun x => x.1 != n
      if !inRange then s.updPow fun p => { p with bad := rest ++ [(n, none)] }
      else match since with
        | none => s.updPow fun p => { p with bad := rest ++ [(n, some s.now)] }
        | some t =>
          if t + railHold rail ≤ s.now then s.updPow fun p => { p with bad := rest, held := p.held.filter fun k => k != n } else s)

/-! ### Temperature (R428, R479) -/

/-- A reading in °C, two's complement. -/
def celsius (v : Nat) : Int := if v % 256 < 128 then (v % 256 : Nat) else (v % 256 : Nat) - (256 : Int)

/-- The registers of sensor `i` of unit `u`, and its instance. -/
def tsTemp (u : Nat) : Fld := if u < 12 then .TS_DIE_TEMP else .TS_HUB_TEMP
def tsValid (u : Nat) : Fld := if u < 12 then .TS_DIE_VALID else .TS_HUB_VALID
def tsMax (u : Nat) : Fld := if u < 12 then .TS_DIE_MAX else .TS_HUB_MAX
def tsInst (u i : Nat) : Nat := if u < 12 then instD u i else instH (u - 12) i
/-- Sensors of a unit. -/
def tsCount (u : Nat) : Nat := if u < 12 then 21 else 8

/-- One reading; code 0xC4 once for each crossing of 100 °C. -/
def State.tsRead (s : State) (u i v : Nat) : State :=
  let k := tsInst u i
  let s := s.put (tsMax u) k (if s.flag (tsValid u) k && celsius v ≤ celsius (s.get (tsMax u) k) then s.get (tsMax u) k else v)
  let s := (s.put (tsTemp u) k v).setFlag (tsValid u) k true
  if 100 ≤ celsius v then
    if s.pow.hot.contains (u, i) then s
    else (s.updPow fun p => { p with hot := (u, i) :: p.hot }).logSec s.activeHalf 44 0xC4 [u * 256 + i, v]
  else s.updPow fun p => { p with hot := p.hot.filter fun x => x != (u, i) }

/-- The highest of some readings, 0 where there is none. -/
def hottest (l : List Nat) : Nat :=
  match l with
  | [] => 0
  | x :: xs => xs.foldl (fun a b => if celsius a < celsius b then b else a) x

/-- PM_PKG.TJ_MAX and TDIMM_MAX. -/
def State.pkgTemps (s : State) : State :=
  let ts := (List.range 14).flatMap fun u => (List.range (tsCount u)).filterMap fun i =>
    if s.flag (tsValid u) (tsInst u i) then some (s.get (tsTemp u) (tsInst u i)) else none
  let ds := (List.range 16).filterMap fun ch => if (s.mc ch).temp = 0 then none else some (s.mc ch).temp
  (s.put .PM_PKG_TJ_MAX 0 (hottest ts)).put .PM_PKG_TDIMM_MAX 0 (hottest ds)

/-- Pin numbers of `Wire.pin`: THERMTRIP_N. -/
def pinThermtrip : Nat := 0

/-- THERMAL_TRIP (R428): THERMTRIP_N asserts, every compute die is held in DIE reset, and the power-fail path runs. -/
def State.trip (s : State) (u i v : Nat) : State :=
  let s := (s.logSec s.activeHalf 44 0xC5 [u * 256 + i, v]).updPow fun p => { p with tripped := true }
  let s := ((s.putRail .PM_RAIL_THERMTRIP 1).put .RST_CAUSE_CAUSE 0 5).emit (.pin pinThermtrip false)
  ((List.range 12).foldl (fun (s : State) d => if (s.die d).state = 0 then (s.dieReset d).updDie d fun x => { x with state := 1 } else s)
    s).pfAssert

/-- THERMAL_SAMPLE (R428, R479): one unit's sensors, in order. -/
def execThermalSample (u : Fin 14) (temps : List Byte) (s : State) : Res :=
  .next (
    let rs := (temps.take (tsCount u)).zipIdx
    let s := (rs.foldl (fun (s : State) x => s.tsRead u x.2 x.1.toNat) s).pkgTemps
    match rs.find? fun x => decide (110 ≤ celsius x.1.toNat) with
    | some x => if s.pow.tripped then s else s.trip u x.2 x.1.toNat
    | none => s)

/-! ### Votes (R432) -/

/-- Tick delivery of a polder runs. -/
def State.anyTicks (s : State) : Bool := (List.range 32).any fun p => (s.polder p).isSome && s.ticksRun p

/-- The package is in P0. -/
def State.inP0 (s : State) : Bool := s.get .PM_PKG_STATE 0 == 0

/-- Client 0, hardware demand: whether it holds a vote on domain `i` of kind `k` (R432). -/
def State.demand (s : State) (k i : Nat) : Bool :=
  match k with
  | 0 =>
    let c := s.core i
    c.pow == 0 || !c.pend.isEmpty || c.pol != 0 && s.ticksRun c.pol
  | 1 => (coresOfDie i).any fun g => (s.core g).pow != 3
  | 2 => s.inP0
  | 3 => s.ing.heads.any fun x => x.portA == i || x.paired && x.portB == i
  | 4 => s.isEndpoint i && !s.flag .PE_STAT_D3 (instPe i)
  | 5 => s.csJoined && s.inP0
  | 6 => !s.flag .DK_CTL_FENCE (instH i 0)
  | _ => s.anyTicks || (!s.inP0 && s.cp.running.any fun r => !immediate r.e.opcode) || (List.range 12).any fun d => (s.die d).state == 0 && s.get .PV_VOTE_SLUICE (domKey 1 d) != 3

/-- A keep-store write runs: a JOURNAL_WRITE is between two of its blocks (R54). -/
def State.keepWriting (s : State) : Bool := s.cp.running.any fun r => r.begun && r.e.opcode == 0x22

/-- Client 1, hardware veto: whether it refuses a drop (R432). -/
def State.veto (s : State) (k i : Nat) : Bool :=
  match k with
  | 0 => (s.core i).t.isOpen || (s.core i).t.step != 0 || (s.core i).fill.isSome || s.flag .L2_STAT_SWEEP (instC i)
  | 1 => s.flag .DC_MAINT_BUSY (instD i 0) || s.berm.wayRet.any fun x => x.1 == 3 && x.2.1 / 512 == i
  | 2 => s.mcState i == 4 || !(s.mc i).sppr.isEmpty || (s.mc i).s0.pausing || (s.mc i).s1.pausing
  | 4 => s.urgentSq i
  | 6 => s.get .DK_STAT_OUTSTANDING (instH i 0) != 0
  | 7 => (s.dir.get i).census.isSome || !(s.dir.get i).handBack.isEmpty || s.cp.live.isSome || s.keepWriting || s.pwrFail
  | _ => false

/-- The votes held on a domain: client 0 follows the demand. -/
def State.votes (s : State) (k i : Nat) : Nat := withBit (s.get .PV_VOTE_VOTES (domKey k i)) 0 (s.demand k i)

/-- PV_VOTE.SLUICE of a domain. -/
def State.sluice (s : State) (d : Nat) : Nat := s.get .PV_VOTE_SLUICE d

/-- A domain as POWER_VOTE and code 0xC2 number it. -/
def domCode (k i : Nat) : Nat := k * 4096 + i

/-! ### Sluices (R430, R431, R433) -/

/-- The client that refuses a drop: the lowest one asked that refuses. -/
def State.refuser (s : State) (k i : Nat) : Option Nat :=
  let d := domKey k i
  let m := s.get .PV_VETO_MASK d
  (List.range 32).find? fun c => m.testBit c && (c == 1 && s.veto k i || decide (8 ≤ c) && (s.get .PV_VETO_HOLD d).testBit c)

/-- A refused drop: REFUSALS, LAST_REFUSER, and code 0xC2 at most once per second per domain. -/
def State.dropRefused (s : State) (k i c : Nat) : State :=
  let d := domKey k i
  let s := (s.bump .PV_STAT_REFUSALS d 1).put .PV_STAT_LAST_REFUSER d c
  let last := Tbl.get 0 s.pow.vetoAt d
  if last ≠ 0 && s.now < last - 1 + 1000000000 then s
  else (s.updPow fun p => { p with vetoAt := Tbl.set 0 p.vetoAt d (s.now + 1) }).logSec s.activeHalf 44 0xC2 [domCode k i, c]

/-- VOTE_DROP (R433): with no vote held an Open domain asks its veto clients, and drains where none refuses. -/
def execVoteDrop (dom : Domain) (s : State) : Res :=
  let k := dom.kind.val
  let i := dom.index.val
  let d := domKey k i
  .next (if !domOk k i || s.sluice d ≠ 0 || s.votes k i ≠ 0 then s
    else match s.refuser k i with
      | some c => s.dropRefused k i c
      | none => (s.put .PV_VOTE_VOTES d 0).put .PV_VOTE_SLUICE d 1)

/-- A Draining domain holds nothing outstanding: for a core no access, buffer entry, snoop or deferred access; for a die no
message and no sweep; for a channel empty queues; for a guest site no request. -/
def State.drained (s : State) (k i : Nat) : Bool :=
  match k with
  | 0 =>
    let c := s.core i
    c.miss.isEmpty && c.mb.isEmpty && c.parked.isEmpty && c.wbs.isEmpty && c.cmPend.isEmpty && c.plPend.isEmpty &&
      c.tlbiPend.isEmpty && c.t.dq.isEmpty && c.smpHeld.isEmpty
  | 1 => !s.flag .DC_STAT_SWEEP (instD i 0) && s.fabric.all fun m => stopUnit m.dst != i && stopUnit m.src != i
  | 2 =>
    let m := s.mc i
    m.s0.reads.isEmpty && m.s1.reads.isEmpty && m.s0.writes.isEmpty && m.s1.writes.isEmpty && m.waitMir.isEmpty
  | 6 => (s.dike.get i).live.isEmpty && (s.dike.get i).waiting.isEmpty
  | _ => true

/-- What a domain writes back before it is fenced: a core's dirty L2 lines; the die cache holds nothing modified then. -/
def State.drainClean (s : State) (k i : Nat) : State := if k = 0 then s.cleanCore i else s

/-- A core in C3 (R431): its state is in its save slot, everything else of it is lost. -/
def State.coreOff (s : State) (g : Nat) : State :=
  s.updCore g fun c =>
    { c with pow := 3, idleSince := none, save := some c.saved, l1i := [], l1d := [], l2 := [], tlb := [], hist := 0,
             path := 0, ras := Ras.empty, retHist := 0, retPath := 0, retRas := Ras.empty, flight := [], predTab := [] }

/-- Both hub fabrics are closed: P1 (R431); every channel is in self-refresh. -/
def State.enterP1 (s : State) (i : Nat) : State :=
  if s.sluice (domKey 7 0) = 3 && s.sluice (domKey 7 1) = 3 && s.inP0 then
    let s := ((s.put .PM_PKG_STATE 0 1).bump .PM_PKG_P1_ENTRIES 0 1).logSec s.activeHalf 44 0xC3 [1, i]
    (List.range 16).foldl (fun s ch => (s.dramCmd ch 0 6 0).dramCmd ch 1 6 0) s
  else s

/-- Leave P1: the channels come out of self-refresh; `cause` is the client whose vote woke the fabric. -/
def State.leaveP1 (s : State) (cause : Nat) : State :=
  if s.inP0 then s
  else (List.range 16).foldl (fun s ch => (s.dramCmd ch 0 7 0).dramCmd ch 1 7 0)
    ((s.put .PM_PKG_STATE 0 0).logSec s.activeHalf 44 0xC3 [0, cause])

/-- What closing a domain does (R431, R432). -/
def State.closeDomain (s : State) (k i : Nat) : State :=
  match k with
  | 0 => (s.coreOff i).put .L2_STAT_LOCKED (instC i) 0
  | 1 => (s.updDie i fun x => { x with dc := [] }).updDirs fun x => x.dropDie i
  | 2 => (s.dramCmd i 0 6 0).dramCmd i 1 6 0
  | 3 => (List.range 4).foldl (fun s b => s.linkDown i b) s
  | 6 => if s.modState (Fin.ofNat 2 i) 12 = 2 then s.setModState (Fin.ofNat 2 i) 12 3 else s
  | 7 => s.enterP1 0
  | _ => s

/-- A Draining or Fenced domain moves on (R430). -/
def State.sluiceNext (s : State) (k i : Nat) : State :=
  let d := domKey k i
  if s.sluice d = 1 then
    if s.votes k i ≠ 0 then (s.put .PV_VOTE_SLUICE d 0).bump .PV_STAT_ABORTS d 1
    else if s.drained k i then
      ((s.drainClean k i).put .PV_VOTE_SLUICE d 2).updPow fun p => { p with fenceAt := Tbl.set 0 p.fenceAt d (s.now + 1) }
    else s
  else if s.sluice d = 2 && s.votes k i = 0 then
    ((s.put .PV_VOTE_SLUICE d 3).closeDomain k i).bump .PV_STAT_DROPS d 1
  else s

/-- SLUICE_DRAINED (R430). -/
def execSluiceDrained (dom : Domain) (s : State) : Res :=
  .next (if domOk dom.kind dom.index then s.sluiceNext dom.kind dom.index else s)

/-- What a domain gets back on its way to Open: a core its saved state, in C1 where it waits or halted; a channel leaves
self-refresh; a guest's main band comes up; the fabric leaves P1. -/
def State.openDomainUp (s : State) (k i cause : Nat) : State :=
  match k with
  | 0 => s.updCore i fun c =>
      let c := match c.save with | some v => c.restored v | none => c
      { c with pow := if c.t.waiting || !c.started then 1 else 0 }
  | 2 => (s.dramCmd i 0 7 0).dramCmd i 1 7 0
  | 6 => if s.modState (Fin.ofNat 2 i) 12 = 3 then s.setModState (Fin.ofNat 2 i) 12 2 else s
  | 7 => s.leaveP1 cause
  | _ => s

/-- The lowest client that holds a vote. -/
def lowBit (v : Nat) : Nat := ((List.range 32).find? fun i => v.testBit i).getD 0

/-- A vote or demand wakes a domain (R430, R433). In the cycle the drain ended it counts as an abort too. -/
def State.wakeDomain (s : State) (k i : Nat) : State :=
  let d := domKey k i
  let v := s.votes k i
  if v = 0 || s.sluice d = 0 then s
  else if s.sluice d = 1 then (s.put .PV_VOTE_SLUICE d 0).bump .PV_STAT_ABORTS d 1
  else
    let closed := s.sluice d = 3
    let s := if !closed && Tbl.get 0 s.pow.fenceAt d = s.now + 1 then s.bump .PV_STAT_ABORTS d 1 else s
    let s := s.put .PV_VOTE_SLUICE d 0
    if closed then s.openDomainUp k i (lowBit v) else s

/-- SLUICE_WAKE (R430). -/
def execSluiceWake (dom : Domain) (s : State) : Res :=
  .next (if domOk dom.kind dom.index then s.wakeDomain dom.kind dom.index else s)

/-- C2_IDLE_EXPIRED (R431): a core in C1 for C2_IDLE µs, 0 acting as 1, whose polder has no tick delivery running, enters C2
and loses its L1 contents. -/
def execC2IdleExpired (g : GCore) (s : State) : Res :=
  let c := s.core g
  .next (match c.idleSince with
    | some t =>
      if c.pow = 1 && !(c.pol != 0 && s.ticksRun c.pol) &&
          decide (t + max (s.get .DPM_CTL_C2_IDLE (instD (dieOf g) 0)) 1 * 1000 ≤ s.now) then
        s.updCore g fun c => { c with pow := 2, l1i := [], l1d := [] }
      else s
    | none => s)

/-! ### POWER_VOTE (R432) -/

def specVote : OpSpec :=
  { secureOnly := false, namesPol := false, needsPhase7 := false, powerFail := false, dmodes := [0], writesBuf := false,
    m0 := 0xFFFF, m1 := 0x11F }

/-- The polder a client of 16 to 31 is assigned to: client 16 of a core domain is the polder that holds the core. -/
def State.clientPolder (s : State) (k i c : Nat) : Option Nat :=
  if k = 0 && c = 16 && (s.core i).pol ≠ 0 then some (s.core i).pol else none

/-- POWER_VOTE: RESULT is the vote register after the change; a vote on a domain that is not Open wakes it. The unused clients 2 to
7 are INVALID_FIELD, and no client of 17 to 31, nor one of 16 to 31 of another domain, is assigned (DESIGN CHOICE, log entry 180).
-/
def execPowerVote (c : Cmd) (s : State) : Res :=
  .next (runCmd specVote c (fun s =>
    let k := bitsOf c.e.p0 15 12
    let i := bitsOf c.e.p0 11 0
    let n := bitsOf c.e.p1 4 0
    let on := bitOf c.e.p1 8
    if !s.srcSecure c.src && 8 ≤ n && n < 16 then (s.silence c, resErr stNoSuchObject)
    else if !domOk k i || n < 8 then (s, resErr stInvalidField)
    else if 16 ≤ n && !((s.clientPolder k i n).any fun p => s.srcBound c.src p) then (s, resErr stInvalidField)
    else
      let s := s.setVote (domKey k i) n on
      (if on then s.wakeDomain k i else s, resOk (s.votes k i))) s)

/-! ### Die voltage (R426) -/

/-- The guard band: 5 mV for every 10 ps by which the die's lowest margin falls below its first-start-up value, at most 50. -/
def State.guardBand (s : State) (d : Nat) : Nat :=
  let cs := (List.range 21).filter fun c => s.berm.first.any fun x => x.1 == firstKey d c
  let low := fun (f : Nat → Nat) => match cs.map f with | [] => 0 | x :: xs => xs.foldl min x
  if s.berm.sampled.contains d then
    min 50 ((low (fun c => Tbl.get 0 s.berm.first (firstKey d c)) - low fun c => s.get .AG_MARGIN_NOW (instD d c)) / 10 * 5)
  else 0

/-- The highest frequency a core of the die runs, at least 2.8 GHz (R142, R143). -/
def State.dieMhz (s : State) (d : Nat) : Nat :=
  ((coresOfDie d).map fun g => ((s.core g).sysOf 0xC09).toNat % 65536).foldl max 2800

/-- One step towards a target, of at most 10 mV. -/
def stepTo (now want : Nat) : Nat := if now < want then min (now + 10) want else max (now - 10) want

/-- AVS_STEP (R426): the operating point plus the guard band, at most 10 mV a step and 1 µs apart. The regulators of a lost
half hold their voltage. -/
def execAvsStep (d : Die) (s : State) : Res :=
  let i := instD d 0
  .next (if s.lost (d / 6) || (Tbl.get 0 s.pow.avsAt d ≠ 0 && s.now < Tbl.get 0 s.pow.avsAt d - 1 + 1000) then s
    else
      let g := s.guardBand d
      let want := (Config.avsPoint d (s.dieMhz d)).toNat + g
      let s := s.put .DPM_CTL_GUARD_MV i g
      let v := stepTo (s.get .DPM_CTL_VOLT_MV i) want
      if v = s.get .DPM_CTL_VOLT_MV i then s
      else (s.put .DPM_CTL_VOLT_MV i v).updPow fun p => { p with avsAt := Tbl.set 0 p.avsAt d (s.now + 1) })

/-! ### Reference clocks (R392, R476) -/

/-- REFCLK_FAIL (R392): the half switches to its other input where that is good. -/
def execRefclkFail (h : Half) (i : Fin 2) (s : State) : Res := .next (s.refLose h i)

/-- REFCLK_BOTH_FAIL (R476): the half is lost; with both halves out the package is held in package reset, for a cause that
RST_CAUSE does not list (a free value). -/
def execRefclkBothFail (h : Half) (s : State) : Res :=
  .next (
    let s := (s.put (goodFld h) 0 0).updPow fun p => { p with refOut := (h : Nat) :: p.refOut.filter fun x => x != h.val }
    if s.pow.refOut.contains (1 - h.val) then
      if s.pow.held.contains 99 then s
      else ((s.drawn.pkr (s.fresh.toNat % 16) s.pow.boot).updPow fun p => { p with held := 99 :: p.held })
    else s.halfLoss h)

/-- REFCLK_RECOVER (R392, R476): the input is good again and in use where the half has no other; a package held in reset for
want of a clock is released with PT_STAT.HOLDOVER set. -/
def execRefclkRecover (h : Half) (i : Fin 2) (s : State) : Res :=
  .next (
    let s := s.put (goodFld h) 0 (withBit (s.get (goodFld h) 0) i true)
    let s := if (s.get (goodFld h) 0).testBit (s.get (selFld h) 0) then s else s.put (selFld h) 0 i
    let was := s.pow.held.contains 99
    let s := s.updPow fun p => { p with refOut := p.refOut.filter (fun x => x != h.val), held := p.held.filter fun k => k != 99 }
    if was then s.setFlag .PT_STAT_HOLDOVER 0 true else s)

end Sys2Proof.Machine
end

