-- ==== Sys2Proof/Machine/Queries.lean ====
section
/-! DEFINITION. The commands that read: STATUS_READ, IDENTIFY, GET_LOG, GET_FEATURE, the queries, and SET_FEATURE 0x0600
(spec/02, R46 to R49, R57; spec/14, R386, R387; spec/17, R460). -/
namespace Sys2Proof.Machine

/-! ### Registers as words (R5 to R7) -/

/-- The two tick engines run in lockstep: both halves serve and start-up has loaded the firmware (log entry 41). -/
def State.lockstep (s : State) : Bool :=
  !s.lost 0 && !s.lost 1 && !s.halfReturning.h0 && !s.halfReturning.h1 && decide (2 ≤ s.get .PM_PKG_PHASE 0)

/-- A field as a read finds it: WO reads zero, the fields that follow the state are computed, the rest is stored. -/
def State.fieldVal (s : State) (f : Fld) (i : Nat) : Nat :=
  match f with
  | .PV_VOTE_VOTES => if domOk (i / 256) (i % 256) then s.votes (i / 256) (i % 256) else 0
  | .PV_VOTE_SLUICE => if domOk (i / 256) (i % 256) then s.sluice i else 0
  | .CNT_DUMP_SLOTS => s.dumpSlots i
  | .TE_STAT_PARTNER => b2n s.lockstep
  | f => if f.desc.ty = .wo then 0 else s.get f i

/-- The word of some fields of one instance. -/
def State.wordOf (s : State) (i : Nat) : List Fld → Nat
  | [] => 0
  | f :: fs => s.fieldVal f i * 2 ^ f.desc.lo + s.wordOf i fs

/-- A control register as one word. -/
def State.word (s : State) (r : Reg) (i : Nat) : Nat := s.wordOf i r.fields

/-! ### STATUS_READ (R47) -/

/-- The answer of a silenced query, and of one whose object does not exist. -/
def State.hidden (s : State) (c : Cmd) : State × CmdRes := (s.silence c, resErr stNoSuchObject)
def State.absent (s : State) : State × CmdRes := (s, resErr stNoSuchObject)

/-- The state word of a polder. -/
def State.polderWord (s : State) (p : Nat) (v : Polder) : Nat :=
  let tk := s.get .TK_NOW_STATE p
  let st := if v.stopped ≠ 0 then 3 else if tk = 2 then 2 else if tk = 3 then 4 else if v.start then 1 else 0
  st + v.stopped % 16 * 16 + v.cores.length * 256 + (v.lcpus.length - v.cores.length) * 2 ^ 16 + b2n v.guarded * 2 ^ 24 +
    b2n v.secure * 2 ^ 25 + b2n v.tickBound * 2 ^ 26 + s.get .TK_NOW_NUM p % 2 ^ 32 * 2 ^ 32

/-- The state word of a global core. -/
def State.coreWord (s : State) (g : Nat) : Nat :=
  let c := s.core g
  c.pol + c.lcpu * 2 ^ 5 + c.pow * 2 ^ 13 + c.serv * 2 ^ 15 + s.get .AG_MARGIN_NOW (instD (g / 20) (g % 20)) * 2 ^ 17

/-- The state word of the package. -/
def State.packageWord (s : State) : Nat :=
  let cause := s.get .PM_PKG_CAUSE 0
  s.word .PM_PKG 0 % 2 ^ 40 + (if cause = 1 || cause = 2 then s.pow.stopCh * 2 ^ 40 else 0) +
    b2n s.guardedCfg * 2 ^ 48 + b2n (s.flag .CP_ROLE_STANDBY_READY 0) * 2 ^ 49

/-- The state word of a hub half. -/
def State.halfWord (s : State) (h : Nat) : Nat :=
  let ret := s.halfReturning.get h
  b2n (!s.lost h && !ret) + b2n (s.lost h) * 2 + b2n ret * 4 + b2n (s.activeHalf == h && s.cp.fatalSince.isNone) * 8 +
    b2n (s.activeHalf != h && s.flag .CP_ROLE_STANDBY_READY 0) * 16 + s.get .DIR_STAT_HOMES (instH h 0) * 32

/-- The answer about an object whose state one half keeps: NOT_READY with that half lost. -/
def State.inHalf (s : State) (h w : Nat) : State × CmdRes := if s.lost h then (s, resErr stNotReady) else (s, resOk w)

/-- The polder that holds encoder `e`, as one the source is bound to. -/
def State.encFor (s : State) (c : Cmd) (e : Nat) : Bool :=
  (List.range 32).any fun p => (match s.polder p with | some v => v.encs.testBit e | none => false) && s.srcBound c.src p

/-- Some polder holds encoder `e`. -/
def State.encHeld (s : State) (e : Nat) : Bool :=
  (List.range 32).any fun p => match s.polder p with | some v => v.encs.testBit e | none => false

/-- Objects that only secure sources may read: core, channel, cascade, hub half, power domain. -/
def State.secureStatus (s : State) (k o : Nat) : State × CmdRes :=
  if k = 2 then (if o < 240 then (s, resOk (s.coreWord o)) else s.absent)
  else if k = 3 then (if o < 16 then s.inHalf (o / 8) (s.word .MC_STAT (instCh o)) else s.absent)
  else if k = 8 then (s, resOk (s.word .CS_STAT 0))
  else if k = 9 then (if o < 2 then (s, resOk (s.halfWord o)) else s.absent)
  else if o < 65536 && domOk (o / 4096) (o % 4096) then (s, resOk (s.word .PV_VOTE (domKey (o / 4096) (o % 4096))))
  else s.absent

/-- The state word of an object, after the checks of R39 and R59. -/
def State.statusRead (s : State) (c : Cmd) : State × CmdRes :=
  let k := bitsOf c.e.p0 3 0
  let o := c.e.p1
  let sec := s.srcSecure c.src
  if k = 0 then (s, resOk s.packageWord)
  else if 11 ≤ k then (s, resErr stInvalidField)
  else if k = 1 then
    if o = 0 then (if sec then (s, resErr stInvalidField) else s.hidden c)
    else match s.polder o with
      | some v => if s.srcBound c.src o then (s, resOk (s.polderWord o v)) else s.hidden c
      | none => s.absent
  else if k = 4 then
    match s.strm o with
    | some x => if s.srcBound c.src x.pol then s.inHalf (o / 64) (s.word .STR_STAT (instStr o)) else s.hidden c
    | none => if sec && decide (o < 128) then s.inHalf (o / 64) (s.word .STR_STAT (instStr o)) else s.absent
  else if k = 5 then
    if 32 ≤ o then s.absent
    else if sec || (s.trigFor c o).isSome then s.inHalf (o / 16) (s.word .TRIG_STAT (instTrg o) % 2 ^ 22)
    else if (s.trigOwner o).isSome then s.hidden c else s.absent
  else if k = 6 then
    if 16 ≤ o then s.absent
    else if sec || s.encFor c o then
      s.inHalf (o / 8) (s.word .ENC_STAT (instEnc o) % 64 + s.word .ENC_POS (instEnc o) % 2 ^ 48 * 2 ^ 16)
    else if s.encHeld o then s.hidden c else s.absent
  else if k = 7 then
    if 4 ≤ o then s.absent
    else if sec || c.src.num == o then s.inHalf (o / 2) (s.word .PE_STAT (instPe o) % 2 ^ 18)
    else s.hidden c
  else if sec then s.secureStatus k o
  else s.hidden c

def specQuery (m0 m1 : Nat) : OpSpec :=
  { secureOnly := false, namesPol := false, needsPhase7 := false, powerFail := false, dmodes := [0], writesBuf := false,
    m0 := m0, m1 := m1 }

/-- STATUS_READ (R47). -/
def execStatusRead (c : Cmd) (s : State) : Res :=
  .next (runCmd (specQuery 0xF 0xFFFFFFFFFFFFFFFF) c (fun s => s.statusRead c) s)

/-! ### IDENTIFY (R48) -/

/-- Firmware version and slot of the active controller. -/
def State.running (s : State) : Nat :=
  match s.cp.runActive with | some k => (s.slot k).version % 2 ^ 32 + k * 2 ^ 32 | none => 0

/-- How many cores stand at a service state. -/
def State.coreCount (s : State) (v : Nat) : Nat := (allCores.filter fun g => (s.core g).serv == v).length

/-- The cores of a die at a service state, one bit each. -/
def State.dieMask (s : State) (d v : Nat) : Nat :=
  ((List.range 20).map fun c => b2n ((s.core (d * 20 + c)).serv == v) * 2 ^ c).sum

/-- Kind 0: words 2, 5, 7 and 8 read zero for a non-secure source. -/
def State.idPackage (s : State) (sec : Bool) : List Nat :=
  let z := fun (x : Nat) => if sec then x else 0
  [s.word .PKG_ID 0, s.word .CD_REV 0, z (s.word .CP_ROLE 0), Config.serial, Config.macBase, z s.running,
   s.get .MEM_SIZE_BLOCKS 0,
   z (s.coreCount 0 + s.coreCount 1 * 2 ^ 8 + s.coreCount 2 * 2 ^ 16 + b2n (s.get .BM_CORES_PROFILE 0 == 1) * 2 ^ 24),
   z (s.get .CS_STAT_INDEX 0 + b2n s.csJoined * 16)] ++ List.replicate 23 0

/-- Kind 1. -/
def State.idDie (s : State) (d : Nat) : List Nat :=
  let lk := fun (h : Nat) => s.get .LK_STAT_LEVEL (instH h d) + s.get .LK_STAT_FEATURES (instH h d) * 4
  [s.dieRevOf d + (s.die d).state * 16,
   s.dieMask d 0 + s.dieMask d 1 * 2 ^ 20 + s.dieMask d 2 * 2 ^ 40, lk 0 + lk 1 * 2 ^ 16,
   (((List.range 21).map fun c => s.get .AG_MARGIN_NOW (instD d c)).min?).getD 0, 0, 0, 0, 0]

/-- The word of a logical CPU in kind 2; the global core reads zero for a non-secure source. -/
def State.idLcpu (s : State) (sec : Bool) (g : Option Nat) : Nat :=
  match g with
  | none => 2 ^ 10
  | some g =>
    let c := s.core g
    (if sec then g else 0) + 2 ^ 8 + b2n (c.t.recovering || c.t.catching) * 2 ^ 9 + c.pow * 2 ^ 11 +
      s.dieRevOf (g / 20) % 8 * 2 ^ 13

/-- The regions a polder holds a right in. -/
def State.regionsOf (s : State) (p : Nat) : List Nat :=
  (List.range 256).filter fun n =>
    s.flag .RGN_LO_VALID n && ((s.get .RGN_RD_MASK n).testBit p || (s.get .RGN_WR_MASK n).testBit p)

/-- Kind 2. -/
def State.idPolder (s : State) (sec : Bool) (p : Nat) (v : Polder) : List Nat :=
  let rs := s.regionsOf p
  let ns := ((s.cp.jns.find? fun j => j.owner == p).map (·.nsid)).getD 0
  let strs := (s.ing.heads.filter fun x => x.pol == p).flatMap Strm.streams
  let bits := fun (lo : Nat) => ((strs.filter fun n => n / 64 == lo).map fun n => 2 ^ (n % 64)).sum
  let fr := v.frame.getD (0, 0)
  let du := v.dump.getD (0, 0)
  [v.word0.toNat % 2 ^ 24, v.lcpus.length + (v.lcpus.length - v.cores.length) * 2 ^ 8 + ns * 2 ^ 16 + rs.length * 2 ^ 24,
   v.trigs, v.encs + v.fns * 2 ^ 16 + v.cports * 2 ^ 20 + b2n v.sideband * 2 ^ 24, bits 0, bits 1, fr.1, du.1,
   fr.2 + du.2 * 2 ^ 32, 0, 0, 0, 0, 0, 0, 0] ++
    v.lcpus.map (s.idLcpu sec) ++
    rs.map fun n => n + b2n ((s.get .RGN_RD_MASK n).testBit p) * 2 ^ 8 + b2n ((s.get .RGN_WR_MASK n).testBit p) * 2 ^ 9

/-- Kind 3. -/
def State.idHead (s : State) (n : Nat) (x : Strm) : List Nat :=
  (List.range 16).map x.w ++ [s.word .STR_STAT (instStr n), x.ipOn (n == x.a) % 2 ^ 32 + b2n (x.confOn (n == x.a)) * 2 ^ 32, x.changedAt] ++
    List.replicate 13 0

/-- Kind 4. -/
def idJns (j : Jns) : List Nat := [j.nsid + j.owner * 2 ^ 8 + b2n j.sec * 2 ^ 13, j.mib, j.created, 0]

/-- Write a structure to DESC0, which must hold it. -/
def State.structure (s : State) (c : Cmd) (ws : List Nat) : State × CmdRes :=
  if descLen c.e.w3 < 8 * ws.length then (s, resErr stInvalidBuffer) else (s, resOut (8 * ws.length) (wordsLe ws))

/-- IDENTIFY by kind. -/
def State.identify (s : State) (c : Cmd) : State × CmdRes :=
  let k := bitsOf c.e.p0 3 0
  let o := c.e.p1
  let p := c.e.polder
  let sec := s.srcSecure c.src
  if 5 ≤ k then (s, resErr stInvalidField)
  else if k ≠ 1 && k ≠ 3 && o ≠ 0 then (s, resErr stInvalidField)
  else if k = 0 then s.structure c (s.idPackage sec)
  else if k = 1 then
    if !sec then s.hidden c
    else if 12 ≤ o then s.absent
    else s.structure c (s.idDie o)
  else if k = 2 then
    if p = 0 then (if sec then (s, resErr stInvalidField) else s.hidden c)
    else match s.polder p with
      | some v => if s.srcBound c.src p then s.structure c (s.idPolder sec p v) else s.hidden c
      | none => s.absent
  else if k = 3 then
    match s.strm o with
    | some x => if s.srcBound c.src x.pol then s.structure c (s.idHead o x) else s.hidden c
    | none => s.absent
  else match s.jnsFor c with
    | some j => s.structure c (idJns j)
    | none => if (s.jnsOf c.e.nsid).isSome then s.hidden c else s.absent

def specIdentify : OpSpec :=
  { secureOnly := false, namesPol := false, needsPhase7 := false, powerFail := false, dmodes := [1], writesBuf := true,
    m0 := 0xF, m1 := 0xFFFFFFFFFFFFFFFF }

/-- IDENTIFY (R48). -/
def execIdentify (c : Cmd) (s : State) : Res := .next (runCmd specIdentify c (fun s => s.identify c) s)

/-! ### GET_LOG (R46, R49, R57, R386, R387, R460) -/

/-- A non-secure source sees only the polders it is bound to. -/
def State.logSees (s : State) (c : Cmd) (p : Nat) : Bool := s.srcSecure c.src || p ≠ 0 && s.srcBound c.src p

/-- The error-log entries a source receives (R49). -/
def State.errSeen (s : State) (c : Cmd) (x : ErrEnt) : Bool :=
  s.srcSecure c.src || s.logSees c x.pol && x.pview && x.gen == Tbl.get 0 s.polGen x.pol

/-- An error-log entry's words. -/
def errWords (sec : Bool) (x : ErrEnt) : List Nat :=
  let a := fun (i v : Nat) => if !sec && x.hide.testBit i then 0 else v
  [x.ptime, x.seq % 2 ^ 32 + x.code * 2 ^ 32 + x.pol * 2 ^ 40 + x.half * 2 ^ 45, a 0 x.arg0, a 1 x.arg1]

/-- An index entry of the dump area, which is also a slot's header (R460). -/
def exportHeader (x : Export) : List Nat :=
  let first := (x.recs.head?.map (·.seq)).getD 0
  [x.ptime, first % 2 ^ 32 + x.half * 2 ^ 32, x.recs.length, crc32c (wordsLe (x.recs.flatMap recWords)), 0, 0, 0, markOf x.ptime]

/-- Word `i` of the dump area: slot 0 is the index, slots 1 to 63 hold exports (R460). -/
def State.dumpAreaWord (s : State) (i : Nat) : Nat :=
  let slot := i / 131072
  let w := i % 131072
  let at_ := fun (n : Nat) => s.exports.find? fun x => x.slot == n
  if slot = 0 then (match at_ (w / 8 + 1) with | some x => (exportHeader x).getD (w % 8) 0 | none => 0)
  else match at_ slot with
    | some x => if w < 8 then (exportHeader x).getD w 0
      else (match x.recs[w / 8 - 1]? with | some r => (recWords r).getD (w % 8) 0 | none => 0)
    | none => 0

/-- The records of a source's polders in every export, oldest export first, in view form (R460). -/
def State.exportView (s : State) (c : Cmd) : List Nat :=
  (s.exports.flatMap fun x => x.recs.filter fun r => s.logSees c r.pol && s.recShown r).flatMap viewWords

/-- A berm-history record; the view of a non-secure source carries the logical CPU in place of global cores (R386). -/
def bermWords (sec : Bool) (r : BermRec) : List Nat :=
  let ix := if sec then r.index else r.lcpu
  let de := if sec || r.event ≠ 6 && r.event ≠ 8 then r.detail else r.lcpu
  let ws := [r.ptime, r.kind + r.event * 16 + r.cause * 2 ^ 12 + ix * 2 ^ 32, de + r.seq * 2 ^ 32]
  ws ++ [crc32c (wordsLe ws)]

/-- The records a non-secure source receives: those of logical CPUs of its own polders. -/
def State.bermSeen (s : State) (c : Cmd) (r : BermRec) : Bool :=
  r.kind == 0 && s.logSees c r.pol && r.pol != 0 && r.gen == Tbl.get 0 s.polGen r.pol

/-- Word `i` of the wear log: two words a core, its four values in order, 32 bits each (R387, log entry 42). -/
def State.wearWord (s : State) (i : Nat) : Nat :=
  let k := instD (i / 2 / 20) (i / 2 % 20)
  if i % 2 = 0 then Tbl.get 0 s.berm.first (i / 2) + s.get .AG_MARGIN_NOW k * 2 ^ 32
  else s.get .AG_MARGIN_LOWEST k + s.get .AG_MARGIN_STATE k * 2 ^ 32

/-- Bytes `off` to `off + n` of a log given by words. -/
def logBytes (w : Nat → Nat) (off n : Nat) : List Byte :=
  ((List.range ((n + 7) / 8)).flatMap fun i => natLe (w (off / 8 + i)) 8).take n

/-- A log of some words. -/
def logOf (ws : List Nat) : Nat × (Nat → Nat) := (8 * ws.length, fun i => ws.getD i 0)

/-- The length in bytes and the words of a log as a source finds it. The layout of the 4 KiB summary is not in the spec:
its 512 words are free values (log entry 43). -/
def State.logFor (s : State) (c : Cmd) (k : Nat) : Nat × (Nat → Nat) :=
  let sec := s.srcSecure c.src
  if k = 1 then logOf ((s.cp.errLog.filter (s.errSeen c)).flatMap (errWords sec))
  else if k = 2 then (if sec then (0x4000000, s.dumpAreaWord) else logOf (s.exportView c))
  else if k = 3 then
    if sec then
      let t := s.berm.hist.flatMap (bermWords true)
      (4096 + 8 * t.length, fun i => if i < 512 then (Config.freeWord (s.free + i)).toNat else t.getD (i - 512) 0)
    else logOf ((s.berm.hist.filter (s.bermSeen c)).flatMap (bermWords false))
  else if k = 4 then (if sec then (3840, s.wearWord) else logOf [])
  else if sec then logOf (s.fwLogEntry 0 ++ s.fwLogEntry 1) else logOf []

/-- GET_LOG's window: from the offset, as much as the buffer holds. -/
def State.getLog (s : State) (c : Cmd) : State × CmdRes :=
  let k := bitsOf c.e.p0 7 0
  let off := c.e.p1
  if k = 0 || 6 ≤ k || off % 8 ≠ 0 then (s, resErr stInvalidField)
  else
    let l := s.logFor c k
    let n := min (s.bufLen c) (l.1 - off)
    ({ s with free := if k = 3 && s.srcSecure c.src then s.free + 512 else s.free },
     resOut (n + l.1 * 2 ^ 64) (logBytes l.2 off n))

def specGetLog : OpSpec :=
  { secureOnly := false, namesPol := false, needsPhase7 := false, powerFail := false, dmodes := [1, 2], writesBuf := true,
    m0 := 0xFF, m1 := 0xFFFFFFFFFFFFFFFF }

/-- GET_LOG (R46). -/
def execGetLog (c : Cmd) (s : State) : Res := .next (runCmd specGetLog c (fun s => s.getLog c) s)

/-! ### GET_FEATURE, SET_FEATURE (R46) -/

/-- The value of a polder's feature. -/
def State.polFeature (s : State) (c : Cmd) (p : Nat) (f : Polder → Nat) : State × CmdRes :=
  match s.polder p with
  | some v => if s.srcBound c.src p then (s, resOk (f v)) else s.hidden c
  | none => s.absent

/-- The value of a listed feature. Which SQ feature 0x0020 reports on is not stated: a free value (log entry 44). -/
def State.getFeature (s : State) (c : Cmd) : State × CmdRes :=
  let f := bitsOf c.e.p0 15 0
  if f = 0x1 then (s, resOk (s.wrr c.src.num).value)
  else if f = 0x20 then (s.drawn, resOk s.fresh.toNat)
  else if 0x100 ≤ f && f < 0x120 then
    if s.srcSecure c.src || (s.trigFor c (f - 0x100)).isSome then (s, resOk (s.trigCfg (f - 0x100)))
    else (s.trigSilent c (f - 0x100), resErr stNoSuchObject)
  else if 0x200 ≤ f && f < 0x220 then s.polFeature c (f - 0x200) fun _ => s.gdCtl (f - 0x200)
  else if 0x300 ≤ f && f < 0x320 then s.polFeature c (f - 0x300) Polder.entryWord
  else if 0x400 ≤ f && f < 0x410 then
    if s.srcSecure c.src then (s, resOk (s.hpCfg (f - 0x400))) else s.hidden c
  else if 0x500 ≤ f && f < 0x520 then s.polFeature c (f - 0x500) fun _ => s.csTbind (f - 0x500)
  else if 0x540 ≤ f && f < 0x560 then s.polFeature c (f - 0x540) Polder.sendRing
  else if f = 0x600 then
    if s.srcSecure c.src then (s, resOk (s.word .RST_REQ 0)) else s.hidden c
  else if 0x700 ≤ f && f < 0x720 then s.polFeature c (f - 0x700) fun _ => s.get .CNT_DUMP_K (f - 0x700)
  else (s, resErr stInvalidField)

/-- GET_FEATURE (R46). -/
def execGetFeature (c : Cmd) (s : State) : Res :=
  .next (runCmd (specQuery 0xFFFF 0) c (fun s => s.getFeature c) s)

/-- SET_FEATURE of 0x0600 (R434, R435), which completes once the reset has been applied: a package reset ends the command
with its queue. An unlisted feature is INVALID_FIELD; every other listed one has a command of its own. -/
def State.setFeature (s : State) (c : Cmd) : State × Option CmdRes :=
  let v := c.e.p1
  if bitsOf c.e.p0 15 0 ≠ 0x600 || v &&& 0x1FFFF0007 ≠ v then (s, some (resErr stInvalidField))
  else if !s.srcSecure c.src then (s.silence c, some (resErr stNoSuchObject))
  else if !bitOf v 32 then (s, some resOk)
  else
    let r := s.rstDo (bitsOf v 2 0) (bitsOf v 31 16)
    if !r.2 then (s, some (resErr stBusy))
    else (r.1, if bitsOf v 2 0 = 1 then none else some resOk)

/-- SET_FEATURE (R46). -/
def execSetFeature (c : Cmd) (s : State) : Res :=
  .next (runCmdLater (specQuery 0xFFFF 0xFFFFFFFFFFFFFFFF) c (fun s => s.setFeature c) s)

/-! ### TICK_QUERY, PTIME_QUERY, HEAD_PRESENCE -/

def specTickQuery : OpSpec :=
  { secureOnly := false, namesPol := true, needsPhase7 := false, powerFail := false, dmodes := [0], writesBuf := false,
    m0 := 0, m1 := 0 }

/-- TICK_QUERY (R46): the polder's tick number and its edge PTIME. -/
def execTickQuery (c : Cmd) (s : State) : Res :=
  .next (runCmd specTickQuery c (fun s =>
    let p := c.e.polder
    match s.polder p with
    | some v =>
      if v.tickBound && v.everTicked then
        (s, resOk (s.get .TK_NOW_NUM p % 2 ^ 48 + s.word .TK_EDGE p * 2 ^ 64))
      else (s, resErr stNotReady)
    | none => s.absent) s)

/-- PTIME_QUERY (R46). -/
def execPtimeQuery (c : Cmd) (s : State) : Res :=
  .next (runCmd (specQuery 0 0) c (fun s => (s, resOk (s.now + s.get .PT_CTL_SRC 0 * 2 ^ 64))) s)

/-- The bit of a port in HEAD_PRESENCE (R311): a stream is bound, and every head bound is present. -/
def State.portPresent (s : State) (n : Nat) : Bool :=
  let hs := s.ing.heads.filter fun x => x.portA == n || x.paired && x.portB == n
  !hs.isEmpty && hs.all (·.present)

/-- A mask over the sixteen head ports. -/
def portMask (f : Nat → Bool) : Nat := ((List.range 16).map fun n => b2n (f n) * 2 ^ n).sum

/-- HEAD_PRESENCE (R46, R311). -/
def execHeadPresence (c : Cmd) (s : State) : Res :=
  .next (runCmd (specQuery 0 0) c (fun s =>
    (s, resOk (portMask (fun n => s.get .HP_STAT_LINK (instPort n) != 0) + portMask s.portPresent * 2 ^ 64))) s)

end Sys2Proof.Machine
end

