-- ==== Sys2Proof/Machine/RegWrite.lean ====
section
/-! DEFINITION. Control-space accesses (spec/00, R5 to R8; spec/01, R25 to R27): what a read or a write of a register
does. -/
namespace Sys2Proof.Machine

/-! ### Fields by access type (R7, R8) -/

/-- The lock of an RWL field: QRB_CTL.EN of its block is its only one. Cleared, it holds until the queues have stopped. -/
def State.locked (s : State) (i : Nat) : Bool :=
  s.flag .QRB_CTL_EN (qKey (i / 64) 0) || s.cp.stopping.contains (i / 64)

/-- The bits of a field that exist: PV_VETO.HOLD has none for clients 0 to 7. -/
def Fld.real (f : Fld) (x : Nat) : Nat :=
  match f with
  | .PV_VETO_HOLD => x / 256 * 256
  | _ => x

/-- What a write gives one field. -/
def State.writeField (s : State) (f : Fld) (i v : Nat) : State :=
  let x := f.real (bitsOf v f.desc.hi f.desc.lo)
  match f.desc.ty with
  | .rw | .wo => s.put f i x
  | .w1c => s.put f i (s.get f i &&& (2 ^ f.width - 1 - x))
  | .w1s => s.put f i (s.get f i ||| x)
  | .rwl => if s.locked i then s else s.put f i x
  | .ro | .rc => s

/-- A write of a register with no behaviour of its own. -/
def State.writeFields (s : State) (r : Reg) (i v : Nat) : State := r.fields.foldl (fun s f => s.writeField f i v) s

/-- A read clears the RC fields. -/
def State.clearRc (s : State) (r : Reg) (i : Nat) : State :=
  r.fields.foldl (fun s f => if f.desc.ty = .rc then s.put f i 0 else s) s

/-! ### Reads and writes of registers -/

/-- The word a read returns. -/
def State.answer (s : State) (v : Nat) : State := s.updCp fun q => { q with busRead := BitVec.ofNat 64 v }

/-- A read of a register: the windows of the recorder move their cursors (R458). -/
def State.regRead (s : State) (r : Reg) (i : Nat) : State :=
  match r with
  | .REC_WINDOW => s.windowRead (i / 4096) none (i % 4096)
  | .RV_WINDOW => s.windowRead (i / 4096) (some (Fin.ofNat 32 (i % 4096 / 8))) (i % 8)
  | _ => (s.answer (s.word r i)).clearRc r i

/-- A lane test whose finding is free: which lanes fail comes from the random words (log entry 45). -/
def drawnLanes (w : Word) : List (Fin 64) := (List.finRange 64).filter fun i => w.getLsbD i
def State.drawnTest (s : State) : LaneTest :=
  { tx := drawnLanes (Config.freeWord s.free), rx := drawnLanes (Config.freeWord (s.free + 1)), ns := (Config.freeWord (s.free + 2)).toNat }

/-- A write of LK_CTL at one end of a module. -/
def State.lkCtlWrite (s : State) (r : Reg) (i : Nat) (l : LinkEnd) (v : Nat) : State :=
  let s := s.writeFields r i v
  if bitOf v 0 && endOurs l then ({ s with free := s.free + 3 } : State).retrainWrite l s.drawnTest else s

/-- A write of QRB_CTL (R8, R40): the sizes are locked while EN is 1, and until the queues have stopped. -/
def State.qrbCtlWrite (s : State) (n v : Nat) : State :=
  let i := qKey n 0
  if s.flag .QRB_CTL_EN i then (if bitOf v 0 then s else s.qrbStop n)
  else
    let s := if s.locked i then s else (s.put .QRB_CTL_ASQ_SIZE i (bitsOf v 27 16)).put .QRB_CTL_ACQ_SIZE i (bitsOf v 43 32)
    if bitOf v 0 then s.qrbStart (sourceOf n) else s

/-- A CQ doorbell, which may release an endpoint's INTx line (R422). -/
def State.cqDoorbellIntx (s : State) (n q v : Nat) : State :=
  let s := s.cqDoorbell n q v
  if n < 4 then s.intxUpdate n else s

/-- A write of TK_CTL (R82, R93, R98): PREF takes effect at the next edge of a running polder. -/
def State.tkCtlWrite (s : State) (p v : Nat) : State :=
  let s := if s.ticksRun p then s.handOver p (bitsOf v 2 2) 0 else s.put .TK_CTL_PREF p (bitsOf v 2 2)
  let s := if bitOf v 1 then s.tickResume p else s
  if bitOf v 0 then s.hostTick p else s

/-- A write of a register: those with a behaviour of their own, and the rest by access type. -/
def State.regWrite (s : State) (r : Reg) (i v : Nat) : State :=
  let h := i / 4096
  let k := i % 4096
  match r with
  | .QRB_CTL => s.qrbCtlWrite (i / 64) v
  | .SQ_DB => s.sqDoorbell (i / 64) (i % 64) v
  | .CQ_DB => s.cqDoorbellIntx (i / 64) (i % 64) v
  | .CUT_REL => s.cutRel h k v
  | .CUT_REL_ALL => s.cutRelAll h v
  | .CS_SQTAIL => s.sqTail h v
  | .RGN_COMMIT => s.rgnCommit v
  | .PT_STEP => s.ptStep v
  | .HP_CFG => s.hpCfgWrite (h * 8 + k) v
  | .PT_PHASE => s.ptPhase v
  | .ENC_CFG => s.encSwitch (h * 8 + k) v
  | .TK_CTL => s.tkCtlWrite i v
  | .L2_CTL => s.l2CtlWrite (h * 20 + k) v
  | .DC_CTL => s.dcCtlWrite h v
  | .DC_MAINT => s.dcMaintWrite h v
  | .LK_CTL => s.lkCtlWrite r i (hubEnd (Fin.ofNat 2 h) (Fin.ofNat 13 k)) v
  | .LKC_CTL => s.lkCtlWrite r i (dieEnd (Fin.ofNat 2 k) (Fin.ofNat 13 h)) v
  | .DK_CTL => (s.writeFields r i v).dikeAdmit (Fin.ofNat 2 h)
  | .CS_WCOMMIT => if bitOf v 0 then s.csCommit else s
  | .RST_REQ => s.rstReq v
  | .CB_OWN => s.cbOwn (12 + h) k v
  | .CBD_OWN => s.cbOwn h k v
  | .REC_CTL => s.recCtlWrite h v
  | .REC_CURSOR => s.cursorWrite h none v
  | .RV_CTL => s.viewFreeze h k (bitOf v 0)
  | .RV_CURSOR => s.cursorWrite h (some (Fin.ofNat 32 k)) v
  | _ => s.writeFields r i v

/-! ### Accesses -/

/-- An access of a size and alignment that R5 allows. -/
def wordAccess (addr size : Nat) : Bool := size == 8 && addr % 8 == 0

/-- A control-space read: what it returns stands in `busRead`. A device below a root port answers a free value. -/
def State.ctlRead (s : State) (a : Acc) (addr size : Nat) : State :=
  let t := s.ctlTarget (addr / 8 * 8)
  (s.answer 0).ctlGate a (a.sec || s.reaches a.pol false t) (s.ctlHalf addr) addr fun s =>
    match t with
    | .reg r i => if wordAccess addr size then s.regRead r i else s
    | .device e => ((s.emit (.hostRead e addr size)).answer (s.fresh.toNat % 2 ^ (8 * size))).drawn
    | .unassigned => s

/-- A control-space write. -/
def State.ctlWrite (s : State) (a : Acc) (addr size v : Nat) : State :=
  let t := s.ctlTarget (addr / 8 * 8)
  s.ctlGate a (a.sec || s.reaches a.pol true t) (s.ctlHalf addr) addr fun s =>
    match t with
    | .reg r i => if wordAccess addr size then s.regWrite r i v else s
    | .device e => s.emit (.hostWrite e addr (natLe v size))
    | .unassigned => s

/-- REGISTER_WRITE (R5, R7, R26, R27, R78): an aligned access of 1, 2, 4 or 8 bytes to control space. -/
def execRegisterWrite (a : Acc) (write : Bool) (addr : BitVec 52) (size : Fin 4) (v : Word) (s : State) : Res :=
  .next (if write then s.ctlWrite a addr.toNat (2 ^ size.val) v.toNat else s.ctlRead a addr.toNat (2 ^ size.val))

end Sys2Proof.Machine
end

