-- ==== Sys2Proof/Machine/Access.lean ====
section
/-! DEFINITION. Loads, fetches, stores and atomics of a core with the errors they meet (R72, R74, R75, R115 to R119, R180 to R182,
R199, R210), phase C and the replay of a deferred log (R120, R128), and BAR0 (R408). -/
namespace Sys2Proof.Machine

/-! ### What an access reaches -/

/-- The tag of a core's accesses (R68). -/
def State.coreAcc (s : State) (g : GCore) : Acc :=
  { pol := Fin.ofNat 32 (s.core g).pol, sec := s.coreSec g, src := .core g }

/-- The memory type of an access is Device (R25, R72). -/
def State.deviceType (s : State) (pa : Nat) (dev : Bool) : Bool := dev || inControl pa || s.rgnDevice pa

/-- A Device write of `size` bytes that leaves the tile: to control space, or to DRAM of Device type (R70, R74). -/
def State.devWrite (s : State) (a : Acc) (pa size v : Nat) : State :=
  if inControl pa then s.ctlWrite a pa size v
  else match s.rgnCheck a.pol a.sec true pa with
    | some k => s.refuse (s.home (pa / 64)) a.src a.pol a.sec pa k
    | none => if pa < s.memSize then s.writeBytes pa (natLe v size) else s

/-- A Device read in an open guarded tick is made only to an idempotent region or to the polder's own mailbox QRB (R116). -/
def State.idempRead (s : State) (g pa : Nat) : Bool :=
  if inControl pa then
    match s.ctlTarget (pa / 8 * 8) with
    | .reg r i => r.place.cls == .qrb && i / 64 == 4 + (s.core g).pol
    | _ => false
  else s.rgnIdemp pa

/-- Class 0x0B: a misaligned atomic or Device access (R151). -/
def State.misaligned (s : State) (g size : Nat) (write : Bool) (va : Word) : State :=
  s.syncExc g 0x0B (size + b2n write * 8) 1 va

/-- The address of an access's second line: the translation of the next page where it crosses one. -/
def State.secondLine (s : State) (g va pa n : Nat) (acc : AccKind) : Tr :=
  if va % 4096 + n ≤ 4096 then .ok s (pa / 64 * 64 + 64) false
  else s.translate g ((va / 4096 + 1) * 4096 % 2 ^ 64) acc

/-! ### Errors found by an access (R199)

Code 0x60 names the cache (0 to 19 an L2 of the die, 32 + n a slice, 64 + n a merging buffer), the set, the way and the
outcome: 0 refetched, 1 poisoned, 2 tick aborted, 3 fenced, 4 machine check, 5 served, 6 die loss (log entry 46). -/

/-- What an error leaves: the access goes on, or has ended. -/
inductive ErrRes where
  | goOn (s : State)
  | ended (s : State)

def State.log60 (s : State) (g cache set way outcome : Nat) : State :=
  s.logDie (dieOf g) 0x60 (s.core g).pol [cache, set, way, outcome]

/-- One error of the L2: its counters and the way of the last. -/
def State.l2Err (s : State) (g way : Nat) (ue : Bool) : State :=
  (s.bump (if ue then .L2_ECC_UE_CNT else .L2_ECC_CE_CNT) (instC g) 1).put .L2_ECC_LAST_WAY (instC g) way

/-- A corrected error counts at its way over the window of ECC_WINDOW, which the first error of it opens (R200; log entry 163). -/
def State.wayErr (s : State) (d key window : Nat) : State :=
  let x := Tbl.get (0, 0) (s.die d).wayCe key
  let x := if 0 < x.2 && s.now < x.1 + max window 1 * 1000000 then (x.1, x.2 + 1) else (s.now, 1)
  s.updDie d fun y => { y with wayCe := Tbl.set (0, 0) y.wayCe key x }

/-- An open guarded tick of the core can still be aborted (R123). -/
def State.abortable (s : State) (g : Nat) : Bool := s.inGuarded g && decide ((s.core g).t.step < 4)

/-- Uncorrectable data of an L2 line: an unmodified line is dropped and fetched again, a tick-dirty one aborts the tick, another
modified one goes home poisoned, where the access finds it. -/
def State.l2DataErr (s : State) (g la : Nat) : ErrRes :=
  match s.l2 g la with
  | none => .goOn s
  | some l =>
    let s := s.l2Err g l.way true
    let log := fun (s : State) (o : Nat) => s.log60 g (g % 20) (la % 1024) l.way o
    if !l.dirty then .goOn ((log s 0).l2Evict g la l)
    else if l.td then
      if s.abortable g then .ended (((log s 2).put .GD_STAT_LAST_CAUSE (s.core g).pol 3).abortTick g 2 la) else .goOn s
    else .goOn (((log s 1).setL2 g la { l with poison := true }).dieEvict (g / 20) la)

/-- An uncorrectable L2 tag: the set is invalidated, the lines of it in M go home poisoned, and a guarded tick aborts, which drops
its own lines (log entry 46). -/
def State.l2TagErr (s : State) (g la : Nat) : ErrRes :=
  let lines := s.l2SetOf g (la % 1024)
  let s := s.l2Err g ((lines.head?.map fun x => x.2.way).getD 0) true
  let inTick := s.abortable g
  let s := s.log60 g (g % 20) (la % 1024) 0 (if inTick then 2 else 1)
  let s := lines.foldl (fun (s : State) (x : Nat × CLine) =>
    if x.2.td then s
    else if x.2.m then (s.setL2 g x.1 { x.2 with poison := true, dirty := true }).dieEvict (g / 20) x.1
    else s.l2Drop g x.1) s
  if inTick then .ended (s.abortTick g 2 la) else .goOn s

/-- An uncorrectable error in a merging-buffer entry of a line loses its stores (R182): it aborts an open guarded tick, fences the
core of a guarded polder outside one, and otherwise raises a machine check at the next load from the line, which is this one if
`load`. -/
def State.mbErr (s : State) (g la pa : Nat) (load : Bool) : ErrRes :=
  if !(s.core g).mb.any (fun e => e.la == la) then .goOn s
  else
    let s := s.updCore g fun c => { c with mb := c.mb.filter fun e => e.la != la }
    let log := fun (s : State) (o : Nat) => s.log60 g (64 + g % 20) 0 0 o
    if s.abortable g then .ended ((log s 2).abortTick g 2 la)
    else if s.coreGuarded g then .ended ((log s 3).fence g 2 2 la)
    else if load then .ended ((log s 4).loadPoison g pa)
    else .ended ((log s 4).updCore g fun c => { c with mbLost := insertAsc la c.mbLost })

/-- The error that the lookup of a line meets (R199). `load` says that a load or an atomic meets it, `fetch` an instruction fetch.
-/
def State.cacheErr (s : State) (g la pa : Nat) (load fetch : Bool) (err : CacheErr) : ErrRes :=
  let d := g / 20
  let sl := instD d (dcSlice la)
  let dcWay := match s.dc d la with | some x => x.way | none => 0
  let dcUe := fun (o : Nat) => (s.bump .DC_SLICE_UE_CNT sl 1).log60 g (32 + dcSlice la) (dcLocal la) dcWay o
  match err with
  | .none => .goOn s
  | .l1 => .goOn (s.updCore g fun c => if fetch then { c with l1i := Tbl.erase c.l1i la } else { c with l1d := Tbl.erase c.l1d la })
  | .mb => if fetch then .goOn s else s.mbErr g la pa load
  | .l2Corr => .goOn (match s.l2 g la with
    | some l => (s.l2Err g l.way false).wayErr d (g % 20 * 16 + l.way) (s.get .L2_ECC_ECC_WINDOW (instC g))
    | none => s)
  | .l2Data => s.l2DataErr g la
  | .l2Tag => s.l2TagErr g la
  | .dcCorr => .goOn (match s.dc d la with
    | some x => (s.bump .DC_SLICE_CE_CNT sl 1).wayErr d (512 + dcSlice la * 16 + x.way) (s.get .DC_CTL_ECC_WINDOW (instD d 0))
    | none => s)
  | .dcData => .goOn (match s.dc d la with
    | some x => (dcUe 0).setDc d la { x with data := s.lineVal la }
    | none => s)
  | .dcTag => .goOn (dcUe 5)
  | .dcTagBoth => .ended ((dcUe 6).dieLoss d)

/-- PAGE_WALK (R203): the walk of an access that missed the TLBs; it faults or leaves its entries. An error of the line `la` is met
where the walk reads it (R221). -/
def execPageWalk (g : GCore) (va : Word) (acc : AccKind) (la : LineAddr) (err : CacheErr) (s : State) : Res :=
  let lines := match s.walk g va.toNat acc false with
    | .ok _ _ _ _ t => t.lines
    | .fault _ t => t.lines
    | .key _ t => t.lines
    | .wait _ => []
  .next (
    if !s.canRun g then s
    else match (if lines.contains la.toNat then s.cacheErr g la.toNat (la.toNat * 64) false true err else .goOn s) with
      | .ended s => s
      | .goOn s =>
        match s.translate g va.toNat acc with
        | .ok s _ _ => s
        | .exc s => s
        | .wait s => s)

/-- MB_DRAIN (R181 to R183, R115, R118, R195). An error of the oldest entry ends it (R182); others are met in its line. -/
def execMbDrain (g : GCore) (err : CacheErr) (s : State) : Res :=
  .next (
    match (s.core g).mb with
    | [] => s
    | e :: _ =>
      match s.cacheErr g e.la (e.la * 64) false false err with
      | .ended s => s
      | .goOn s => s.mbDrain g)

/-! ### LOAD (R74, R75, R116, R180, R190, R210) -/

/-- A Device load: refused in a guarded tick where R116 says so; a control-space read answers in its step, a read of Device
DRAM goes home and is never repeated. -/
def State.loadDevice (s : State) (g : GCore) (rd size pa : Nat) (va : Word) : State :=
  if s.inGuarded g && !s.idempRead g pa then s.guardViolation g 1 va pa
  else
    let s := s.countCore g 0x042
    if inControl pa then
      let s := s.ctlRead (s.coreAcc g) pa (2 ^ size)
      s.loadDone g rd size (s.cp.busRead.setWidth 512)
    else match s.coreRefused g pa false with
      | some s => s.loadDone g rd size 0
      | none => s.startMiss g (loadMiss 5 (pa / 64) pa pa rd size)

/-- A Normal load whose lines are known. Every access is checked against the region table (R70, R75): of a load that crosses
into a refused line, that line's bytes read zero in this step. -/
def State.loadNormal (s : State) (g rd size pa pa2 : Nat) : State :=
  let n := 2 ^ size
  let o := pa % 64
  let cross := decide (64 < o + n)
  match s.coreRefused g pa false, (if cross then s.coreRefused g pa2 false else none) with
  | none, none => s.loadTry g rd pa pa2 size
  | some s, none => s.loadDone g rd size (if cross then loadBytes 0 (s.coreLine g (pa2 / 64)) o n else 0)
  | none, some s => s.loadDone g rd size (loadBytes (s.coreLine g (pa / 64)) 0 o n)
  | some s, some _ =>
    match s.coreRefused g pa2 false with
    | some s => s.loadDone g rd size 0
    | none => s.loadDone g rd size 0

/-- A data load. -/
def State.loadData (s : State) (g : GCore) (rd : Nat) (va : Word) (size : Nat) (err : CacheErr) : State :=
  let n := 2 ^ size
  match s.translate g va.toNat .load with
  | .wait s => s
  | .exc s => s
  | .ok s pa dev =>
    if s.deviceType pa dev then
      if va.toNat % n ≠ 0 then s.misaligned g size false va else s.loadDevice g rd size pa va
    else match s.cacheErr g (pa / 64) pa true false err with
      | .ended s => s
      | .goOn s =>
        if pa % 64 + n ≤ 64 then s.loadNormal g rd size pa pa
        else match s.secondLine g va.toNat pa n .load with
          | .wait s => s
          | .exc s => s
          | .ok s pa2 dev2 => if s.deviceType pa2 dev2 then s.misaligned g size false va else s.loadNormal g rd size pa pa2

/-- The fetch of an instruction line. That of the line of the PC raises what it meets; one ahead of it is speculative (R173). A
refused fetch gives zeros, which no cache keeps; a Device one reads its 64 B line and fills no cache (R74, R75, R210). -/
def State.fetchLine (s : State) (g : GCore) (va : Word) (err : CacheErr) : State :=
  if va.toNat / 64 ≠ (s.core g).pc.toNat / 64 then s.specAccess g va.toNat true
  else match s.translate g va.toNat .fetch with
    | .wait s => s
    | .exc s => s
    | .ok s pa dev =>
      if s.deviceType pa dev then
        if s.inGuarded g && !s.idempRead g pa then s.guardViolation g 1 va pa
        else
          let s := s.countCore g 0x042
          let a := pa / 64 * 64
          if inControl pa then s.ctlRead (s.coreAcc g) a 64
          else match s.coreRefused g pa false with
            | some s => s
            | none => s.startMiss g (loadMiss 8 (pa / 64) a a 0 6)
      else match s.cacheErr g (pa / 64) pa false true err with
        | .ended s => s
        | .goOn s => match s.coreRefused g pa false with
          | some s => s
          | none => s.fetchTry g pa

/-- LOAD. -/
def execLoad (g : GCore) (kind : LoadKind) (rd : Fin 32) (va : Word) (size : Fin 7) (err : CacheErr) (s : State) : Res :=
  .next (s.instr g 0 0 0 fun s =>
    match kind with
    | .data => s.loadData g rd va size err
    | .fetch => s.fetchLine g va err)

/-! ### STORE (R115 to R119, R180, R181) -/

/-- Merge into the open entry of a line, or open a new one; `none` while all 32 are in use. An entry that is full closes. -/
def mbStore (mb : List MbEnt) (la : Nat) (data : Line) (mask : BitVec 64) (now : Nat) : Option (List MbEnt) :=
  let shut := fun e : MbEnt => if e.mask = BitVec.allOnes 64 then { e with closed := true } else e
  if mb.any fun e => e.la == la && !e.closed then
    some (mb.map fun e => if e.la == la && !e.closed then
      shut { e with mask := e.mask ||| mask, data := lineMerge e.data data mask, at_ := now } else e)
  else if 32 ≤ mb.length then none
  else some (mb ++ [shut { la := la, mask := mask, data := lineMerge 0 data mask, at_ := now, closed := false, sent := false }])

/-- Bytes into the L1D copy of a line, if there is one (R180). -/
def Core.l1Store (c : Core) (la : Nat) (data : Line) (mask : BitVec 64) : Core :=
  match Tbl.get none c.l1d la with
  | some x => { c with l1d := Tbl.set none c.l1d la (some { x with data := lineMerge x.data data mask }) }
  | none => c

/-- A Normal store: what of its bytes lies in the first line, the rest in the second. -/
def Core.storeBytes (c : Core) (pa pa2 n v : Nat) (now : Nat) : Option Core :=
  let o := pa % 64
  let n1 := min n (64 - o)
  let a := BitVec.ofNat 512 (v % 2 ^ (8 * n1) * 2 ^ (8 * o))
  match mbStore c.mb (pa / 64) a (maskOf o n1) now with
  | none => none
  | some mb =>
    let c1 := { c with mb := mb }.l1Store (pa / 64) a (maskOf o n1)
    if n1 = n then some c1
    else
      let b := BitVec.ofNat 512 (v / 2 ^ (8 * n1) % 2 ^ (8 * (n - n1)))
      match mbStore mb (pa2 / 64) b (maskOf 0 (n - n1)) now with
      | none => none
      | some mb => some ({ c1 with mb := mb }.l1Store (pa2 / 64) b (maskOf 0 (n - n1)))

/-- The store retires. -/
def State.storeDone (s : State) (g : Nat) : State := (s.countCore g 0x041).retire g

/-- A Normal store: it stalls while the merging buffer has no room. The home checks the right when the entry drains (R71). -/
def State.storeNormal (s : State) (g pa pa2 n v : Nat) : State :=
  match (s.core g).storeBytes pa pa2 n v s.now with
  | none => s
  | some c => (s.setCore g c).storeDone g

/-- The deferred entries of a Device store: one, or one for each aligned 8 B of a wider one (R117). -/
def dqEntries (pa size v : Nat) : List DqEnt :=
  if size ≤ 3 then [{ addr := pa, size := size, data := BitVec.ofNat 64 (v % 2 ^ (8 * 2 ^ size)) }]
  else (List.range (2 ^ size / 8)).map fun i => { addr := pa + 8 * i, size := 3, data := BitVec.ofNat 64 (v / 2 ^ (64 * i)) }

/-- A Device store: into the deferred queue of an open guarded tick, whose overflow commits first (R116 to R118), else out. -/
def State.storeDevice (s : State) (g : GCore) (size pa v : Nat) : State :=
  if s.inGuarded g then
    let es := dqEntries pa size v
    if 64 < (s.core g).t.dq.length + es.length then s.guardOverflow g true 0
    else
      (((s.updTick g fun t => { t with dq := t.dq ++ es }).countCore g 0x053 es.length).countCore g 0x042).storeDone g
  else ((s.devWrite (s.coreAcc g) pa (2 ^ size) v).countCore g 0x042).storeDone g

/-- The data of a store: a general register up to 8 B, a vector register above. -/
def Core.storeVal (c : Core) (rs size : Nat) : Nat := if size ≤ 3 then (c.gprOf rs).toNat else (c.vrOf rs).toNat

/-- STORE. An ordered store closes the open entries of the merging buffer first (R181). -/
def execStore (g : GCore) (va : Word) (size : Fin 7) (rs : Fin 32) (ordered : Bool) (s : State) : Res :=
  .next (s.instr g 0 0 0 fun s =>
    let n := 2 ^ size.val
    let v := (s.core g).storeVal rs size % 2 ^ (8 * n)
    let s := if ordered then s.closeMb g else s
    match s.translate g va.toNat .store with
    | .wait s => s
    | .exc s => s
    | .ok s pa dev =>
      if s.deviceType pa dev then
        if va.toNat % n ≠ 0 then s.misaligned g size true va else s.storeDevice g size pa v
      else if pa % 64 + n ≤ 64 then s.storeNormal g pa pa n v
      else match s.secondLine g va.toNat pa n .store with
        | .wait s => s
        | .exc s => s
        | .ok s pa2 dev2 => if s.deviceType pa2 dev2 then s.misaligned g size true va else s.storeNormal g pa pa2 n v)

/-! ### ATOMIC (R74, R116) -/

/-- The new value of an atomic in memory (log entry 3). -/
def atomicNew (op size : Nat) (old v : Word) : Nat := (Config.atomicResult op (2 ^ size) old v).toNat % 2 ^ (8 * 2 ^ size)

/-- An atomic on a Device address outside a guarded tick: one read and one write of the target. -/
def State.atomicDevice (s : State) (g : GCore) (rd size pa op : Nat) (v : Word) : State :=
  let s := s.countCore g 0x042
  if inControl pa then
    let s := s.ctlRead (s.coreAcc g) pa (2 ^ size)
    let old := s.cp.busRead
    (s.ctlWrite (s.coreAcc g) pa (2 ^ size) (atomicNew op size old v)).loadDone g rd size (old.setWidth 512)
  else match s.coreRefused g pa true with
    | some s => s.loadDone g rd size 0
    | none =>
      let old := BitVec.ofNat 64 (leNat (s.readBytes pa (2 ^ size)))
      (s.devWrite (s.coreAcc g) pa (2 ^ size) (atomicNew op size old v)).loadDone g rd size (old.setWidth 512)

/-- A Normal atomic: zero from a refused address; it waits for the line's stores to drain, then for the line in M. -/
def State.atomicNormal (s : State) (g rd size pa op : Nat) (v : Word) : State :=
  let la := pa / 64
  let n := 2 ^ size
  let ask := fun (s : State) => s.startMiss g { loadMiss 2 la pa pa rd size with op := op, val := v }
  match s.coreRefused g pa true with
  | some s => s.loadDone g rd size 0
  | none =>
    if (s.core g).mb.any fun e => e.la == la then s.closeMb g
    else match s.l2 g la with
      | some l => if l.m then s.atomicDo g rd pa size op v else ask s
      | none =>
        if s.l2On g then ask s
        else if !s.lineFree g la then s.lineDefer g la
        else if s.linePoison g la then s.loadPoison g pa
        else
          let old := lineRead (s.lineVal la) (pa % 64) n
          (s.writeLine la (lineOf (Config.atomicResult op n old v) (pa % 64) n) (maskOf (pa % 64) n)).loadDone g rd size (old.setWidth 512)

/-- ATOMIC. -/
def execAtomic (g : GCore) (rd : Fin 32) (va : Word) (size : Fin 4) (op : AtomicOp) (rs : Fin 32) (err : CacheErr) (s : State) : Res :=
  .next (s.instr g 0 0 0 fun s =>
    let v := (s.core g).gprOf rs
    if va.toNat % 2 ^ size.val ≠ 0 then s.misaligned g size true va
    else match s.translate g va.toNat .atomic with
      | .wait s => s
      | .exc s => s
      | .ok s pa dev =>
        if s.deviceType pa dev then
          if s.inGuarded g then s.guardViolation g 2 va pa else s.atomicDevice g rd size pa op.toNat v
        else match s.cacheErr g (pa / 64) pa true false err with
          | .ended s => s
          | .goOn s => s.atomicNormal g rd size pa op.toNat v)

/-! ### DEFERRED_DRAIN (R120, R127, R128, R449) -/

/-- The mailbox queue whose doorbell an address is. -/
def State.doorbellOf (s : State) (a : Nat) : Option Nat :=
  if !inControl a then none
  else match s.ctlTarget a with
    | .reg .SQ_DB i => some i
    | _ => none

/-- Issue one deferred entry. What a mailbox doorbell submits is released by the commit (R101, R104). -/
def State.drainOne (s : State) (a : Acc) (e : DqEnt) : State :=
  let go := s.devWrite a e.addr (2 ^ e.size) e.data.toNat
  match s.doorbellOf e.addr with
  | some i => match s.sq i with | some q => go.releaseFrom i q.tail | none => go
  | none => go

/-- Issue the entries of a tick from the first one past the cursor, which moves with them. -/
def State.drainLog (s : State) (a : Acc) (p l tick : Nat) (es : List DqEnt) : State :=
  let n := s.passed p l tick
  let s := (es.drop n).foldl (fun (s : State) (e : DqEnt) => s.drainOne a e) s
  if es.length ≤ n then s else s.setCursor p l tick es.length

/-- Replay of a deferred log by the hub, with code 0x59. -/
def State.replayLog (s : State) (g : GCore) (x : Replay) : State :=
  let s := s.updBerm fun b => { b with replay := b.replay.erase x }
  match s.commitRec x.pol x.lcpu x.half with
  | none => s
  | some w =>
    let tick := w.getD 0 0 % 2 ^ 48
    let n := min (bitsOf (w.getD 1 0) 38 32) 64
    let k := min (s.passed x.pol x.lcpu tick) n
    let a : Acc := { pol := Fin.ofNat 32 x.pol, sec := x.sec, src := .core g }
    (s.drainLog a x.pol x.lcpu tick (s.logEntries x.pol x.lcpu x.half n)).logDie (dieOf g) 0x59 x.pol [x.lcpu, tick, n - k, k]

/-- Phase C of the core's own tick, with the samples it held, and the close of the tick. -/
def State.phaseC (s : State) (g : GCore) : State :=
  let c := s.core g
  let s := s.drainLog (s.coreAcc g) c.pol c.lcpu c.t.cur.num c.t.dq
  let s := c.smpHeld.foldl (fun (s : State) (ws : Sample) => s.sampleWrite g (ws.map BitVec.toNat))
    (s.updCore g fun c => { c with smpHeld := [] })
  s.closeGuarded g

/-- DEFERRED_DRAIN: phase C of a committed tick, or for a core that was fenced after its commit point the replay of its log. -/
def execDeferredDrain (g : GCore) (s : State) : Res :=
  .next (match s.berm.replay.find? fun x => x.old == (g : Nat) with
    | some x => s.replayLog g x
    | none => if (s.core g).t.step = 5 then s.phaseC g else s)

/-! ### BAR0 (R5, R408) -/

/-- The QRB register of a function at a BAR0 offset. -/
def bar0Target (e o : Nat) : Option (Reg × Nat) := (regAt (· == .qrb) o).map fun x => (x.1, qKey e x.2)

def State.bar0Read (s : State) (e o : Nat) : State :=
  match bar0Target e o with | some (r, i) => s.regRead r i | none => s.answer 0
def State.bar0Write (s : State) (e o v : Nat) : State :=
  match bar0Target e o with | some (r, i) => s.regWrite r i v | none => s

/-- The 8 B reads of a TLP, in address order, with the words they give. -/
def State.bar0Reads (s : State) (e o : Nat) : Nat → State × List Word
  | 0 => (s, [])
  | n + 1 =>
    let s := s.bar0Read e o
    let w := s.cp.busRead
    let r := s.bar0Reads e (o + 8) n
    (r.1, w :: r.2)
def State.bar0Writes (s : State) (e o : Nat) : List Word → State
  | [] => s
  | w :: ws => (s.bar0Write e o w.toNat).bar0Writes e (o + 8) ws

/-- An aligned 4 B word of BAR4 (R409): the MSI-X table, of which a vector's mask starts set, the pending bits, zero beyond. -/
def State.bar4Dword (s : State) (e o : Nat) : Nat :=
  let p := s.peSt e
  let vec := o / 16
  if o < 0x8000 then
    [Tbl.get 0 p.msixAddr vec % 2 ^ 32, Tbl.get 0 p.msixAddr vec / 2 ^ 32, Tbl.get 0 p.msixData vec, Tbl.get 1 p.msixMask vec].getD (o / 4 % 4) 0
  else if o < 0x8100 then ((List.range 32).map fun i => Tbl.get 0 p.pba ((o - 0x8000) * 8 + i) % 2 * 2 ^ i).sum
  else 0

/-- Write one: the pending bits are read only; a vector whose mask clears is unmasked (R421). -/
def State.bar4Put (s : State) (e o v : Nat) : State :=
  let vec := o / 16
  if 0x8000 ≤ o then s
  else match o / 4 % 4 with
    | 0 => s.updPe e fun p => { p with msixAddr := Tbl.set 0 p.msixAddr vec (Tbl.get 0 p.msixAddr vec / 2 ^ 32 * 2 ^ 32 + v / 4 * 4) }
    | 1 => s.updPe e fun p => { p with msixAddr := Tbl.set 0 p.msixAddr vec (Tbl.get 0 p.msixAddr vec % 2 ^ 32 + v * 2 ^ 32) }
    | 2 => s.updPe e fun p => { p with msixData := Tbl.set 0 p.msixData vec v }
    | _ => (s.updPe e fun p => { p with msixMask := Tbl.set 1 p.msixMask vec (v % 2) }).unmaskVec e vec

/-- The words of BAR4 or of the ROM from an offset on; bytes beyond the ROM image read zero (R410). -/
def State.bar4Words (s : State) (e o n : Nat) : List Word :=
  (List.range n).map fun i => BitVec.ofNat 64 (s.bar4Dword e (o + 8 * i) + s.bar4Dword e (o + 8 * i + 4) * 2 ^ 32)
def State.romWords (s : State) (e o n : Nat) : List Word :=
  (List.range n).map fun i => BitVec.ofNat 64 (leNat (((s.peSt e).rom.drop (o + 8 * i)).take 8))
def State.bar4Puts (s : State) (e o : Nat) : List Word → State
  | [] => s
  | w :: ws => ((s.bar4Put e o (w.toNat % 2 ^ 32)).bar4Put e (o + 4) (w.toNat / 2 ^ 32)).bar4Puts e (o + 8) ws

/-- The expansion ROM decodes: its BAR is enabled. -/
def State.romOn (s : State) (e : Nat) : Bool := (s.cfgHalf e 0x30).testBit 0

/-- What a read of BAR0, BAR4 or the ROM answers. -/
def State.barRead (s : State) (e : Nat) (bar : PeBar) (o n : Nat) (size : TlpSize) : State × List Word :=
  match bar, size with
  | .bar0, .words => if o % 8 = 0 && o < 0x10000 then s.bar0Reads e o n else (s, List.replicate n 0)
  | .bar4, .words => (s, if o % 8 = 0 then s.bar4Words e o n else List.replicate n 0)
  | .bar4, .dword => (s, if o % 4 = 0 then [BitVec.ofNat 64 (s.bar4Dword e o)] else List.replicate n 0)
  | .rom, .dword => (s, (s.romWords e o 1).map fun w => w &&& 0xFFFFFFFF)
  | .rom, _ => (s, s.romWords e o n)
  | _, _ => (s, List.replicate n 0)

/-- What a write to one of them does; one to the ROM has no effect. -/
def State.barWrite (s : State) (e : Nat) (bar : PeBar) (o : Nat) (data : List Word) (size : TlpSize) : State :=
  match bar, size with
  | .bar0, .words => if o % 8 = 0 && o < 0x10000 then s.bar0Writes e o data else s
  | .bar4, .words => if o % 8 = 0 then s.bar4Puts e o data else s
  | .bar4, .dword => if o % 4 = 0 then s.bar4Put e o ((data.headD 0).toNat % 2 ^ 32) else s
  | _, _ => s

/-- BAR0_ACCESS (R407 to R410), for BAR0 and for the other two regions of a function that TLPs address: `data` gives the words of a
write, and by its length how many a read asks for. -/
def execBar0Access (e : Fin 4) (write : Bool) (bar : PeBar) (off : BitVec 20) (data : List Word) (size : TlpSize) (s : State) : Res :=
  .next (
    if !s.isEndpoint e || s.lost (e / 2) || (s.peSt e).perst then s
    else if !(s.cfgHalf e 0x04).testBit 1 || bar = .rom && !s.romOn e then s.peUr e (!write)
    else
      let s := s.peInbound e none
      if write then s.barWrite e bar off.toNat data size
      else
        let r := s.barRead e bar off.toNat data.length size
        r.1.emit (.pcieCpl e r.2 0))

end Sys2Proof.Machine
end

