-- ==== Sys2Proof/Machine/Dispatch.lean ====
section
/-! DEFINITION. The meaning of every command: one arm per constructor of Instr, one direct call each. -/
namespace Sys2Proof.Machine

/-- The effect of a command on everything but the queue. -/
def exec (i : Instr) (s : State) : Host.Outcome State Fault Refusal :=
  match i with
  | .sqDb src q v => Sys2Proof.Machine.execSqDb src q v s
  | .cqDb src q v => Sys2Proof.Machine.execCqDb src q v s
  | .commandFetch e list data => Sys2Proof.Machine.execCommandFetch e list data s
  | .completionPost src cq => Sys2Proof.Machine.execCompletionPost src cq s
  | .sidebandRequest e => Sys2Proof.Machine.execSidebandRequest e s
  | .qrbEnable src => Sys2Proof.Machine.execQrbEnable src s
  | .qrbDisable src => Sys2Proof.Machine.execQrbDisable src s
  | .hcHeartbeat arrives => Sys2Proof.Machine.execHcHeartbeat arrives s
  | .controllerTakeover => Sys2Proof.Machine.execControllerTakeover s
  | .standbyRejoin imageGood => Sys2Proof.Machine.execStandbyRejoin imageGood s
  | .identify c => Sys2Proof.Machine.execIdentify c s
  | .getLog c => Sys2Proof.Machine.execGetLog c s
  | .getFeature c => Sys2Proof.Machine.execGetFeature c s
  | .setFeature c => Sys2Proof.Machine.execSetFeature c s
  | .setWrrWeights c => Sys2Proof.Machine.execSetWrrWeights c s
  | .setTrigCfg c => Sys2Proof.Machine.execSetTrigCfg c s
  | .setGdCtl c => Sys2Proof.Machine.execSetGdCtl c s
  | .setEntryPoint c => Sys2Proof.Machine.execSetEntryPoint c s
  | .setHpCfg c => Sys2Proof.Machine.execSetHpCfg c s
  | .setCsTbind c => Sys2Proof.Machine.execSetCsTbind c s
  | .setSendRing c => Sys2Proof.Machine.execSetSendRing c s
  | .setRelay c => Sys2Proof.Machine.execSetRelay c s
  | .setCntDump c => Sys2Proof.Machine.execSetCntDump c s
  | .queueCreate c => Sys2Proof.Machine.execQueueCreate c s
  | .queueDelete c => Sys2Proof.Machine.execQueueDelete c s
  | .fwDownload c => Sys2Proof.Machine.execFwDownload c s
  | .fwCommitStage c => Sys2Proof.Machine.execFwCommitStage c s
  | .fwCommitNextReset c => Sys2Proof.Machine.execFwCommitNextReset c s
  | .fwCommitLive c => Sys2Proof.Machine.execFwCommitLive c s
  | .configWrite c => Sys2Proof.Machine.execConfigWrite c s
  | .configRead c => Sys2Proof.Machine.execConfigRead c s
  | .polderCreate c => Sys2Proof.Machine.execPolderCreate c s
  | .polderDelete c => Sys2Proof.Machine.execPolderDelete c s
  | .polderAttach c => Sys2Proof.Machine.execPolderAttach c s
  | .polderDetach c => Sys2Proof.Machine.execPolderDetach c s
  | .coreDetachAtRest g => Sys2Proof.Machine.execCoreDetachAtRest g s
  | .tickConfigure c => Sys2Proof.Machine.execTickConfigure c s
  | .tickConfigTakeEffect p => Sys2Proof.Machine.execTickConfigTakeEffect p s
  | .triggerProgram c => Sys2Proof.Machine.execTriggerProgram c s
  | .jnsCreate c => Sys2Proof.Machine.execJnsCreate c s
  | .jnsDelete c => Sys2Proof.Machine.execJnsDelete c s
  | .journalWrite c => Sys2Proof.Machine.execJournalWrite c s
  | .journalRead c => Sys2Proof.Machine.execJournalRead c s
  | .recorderExportKeep c => Sys2Proof.Machine.execRecorderExportKeep c s
  | .recorderExportBuffer c => Sys2Proof.Machine.execRecorderExportBuffer c s
  | .bermRetire c => Sys2Proof.Machine.execBermRetire c s
  | .bermBringIn c => Sys2Proof.Machine.execBermBringIn c s
  | .cascadeJoin c => Sys2Proof.Machine.execCascadeJoin c s
  | .cascadeLeave c => Sys2Proof.Machine.execCascadeLeave c s
  | .headBind c => Sys2Proof.Machine.execHeadBind c s
  | .headUnbind c => Sys2Proof.Machine.execHeadUnbind c s
  | .windowCommit c => Sys2Proof.Machine.execWindowCommit c s
  | .statusRead c => Sys2Proof.Machine.execStatusRead c s
  | .tickQuery c => Sys2Proof.Machine.execTickQuery c s
  | .ptimeQuery c => Sys2Proof.Machine.execPtimeQuery c s
  | .recorderFreeze c => Sys2Proof.Machine.execRecorderFreeze c s
  | .recorderUnfreeze c => Sys2Proof.Machine.execRecorderUnfreeze c s
  | .powerVote c => Sys2Proof.Machine.execPowerVote c s
  | .triggerArm c => Sys2Proof.Machine.execTriggerArm c s
  | .triggerDisarm c => Sys2Proof.Machine.execTriggerDisarm c s
  | .headPresence c => Sys2Proof.Machine.execHeadPresence c s
  | .pwrfailAssert => Sys2Proof.Machine.execPwrfailAssert s
  | .pwrfailDeassert => Sys2Proof.Machine.execPwrfailDeassert s
  | .pfSafe => Sys2Proof.Machine.execPfSafe s
  | .rgnCommit a h v => Sys2Proof.Machine.execRgnCommit a h v s
  | .registerWrite a write addr size v => Sys2Proof.Machine.execRegisterWrite a write addr size v s
  | .ptStep a h v => Sys2Proof.Machine.execPtStep a h v s
  | .ptPhase a h v => Sys2Proof.Machine.execPtPhase a h v s
  | .ppsEdge h => Sys2Proof.Machine.execPpsEdge h s
  | .ptimeSourceLost lost => Sys2Proof.Machine.execPtimeSourceLost lost s
  | .ptimeAlign d => Sys2Proof.Machine.execPtimeAlign d s
  | .encoderCount e a b z held => Sys2Proof.Machine.execEncoderCount e a b z held s
  | .encoderInputFail e cause => Sys2Proof.Machine.execEncoderInputFail e cause s
  | .tickEdge p chk => Sys2Proof.Machine.execTickEdge p chk s
  | .hostTick a h p => Sys2Proof.Machine.execHostTick a h p s
  | .encoderStallTimeout p => Sys2Proof.Machine.execEncoderStallTimeout p s
  | .tickMessage d p te => Sys2Proof.Machine.execTickMessage d p te s
  | .tickBackupCopy d p => Sys2Proof.Machine.execTickBackupCopy d p s
  | .engineTakeover p cause => Sys2Proof.Machine.execEngineTakeover p cause s
  | .tickTake g => Sys2Proof.Machine.execTickTake g s
  | .tickRecordDurable g => Sys2Proof.Machine.execTickRecordDurable g s
  | .tickwait g w => Sys2Proof.Machine.execTickwait g w s
  | .tickdone g w => Sys2Proof.Machine.execTickdone g w s
  | .tickabort g w => Sys2Proof.Machine.execTickabort g w s
  | .tickOverrun g => Sys2Proof.Machine.execTickOverrun g s
  | .tickResume a h p => Sys2Proof.Machine.execTickResume a h p s
  | .triggerFire t => Sys2Proof.Machine.execTriggerFire t s
  | .slackOpen => Sys2Proof.Machine.execSlackOpen s
  | .slackClose => Sys2Proof.Machine.execSlackClose s
  | .commitPoint g => Sys2Proof.Machine.execCommitPoint g s
  | .phaseBComplete g => Sys2Proof.Machine.execPhaseBComplete g s
  | .deferredDrain g => Sys2Proof.Machine.execDeferredDrain g s
  | .deferLimitExpired g la => Sys2Proof.Machine.execDeferLimitExpired g la s
  | .coreFaultDetected g source syndrome => Sys2Proof.Machine.execCoreFaultDetected g source syndrome s
  | .replacementReady p l => Sys2Proof.Machine.execReplacementReady p l s
  | .dieHeartbeatLoss d => Sys2Proof.Machine.execDieHeartbeatLoss d s
  | .load g kind rd va size err => Sys2Proof.Machine.execLoad g kind rd va size err s
  | .store g va size rs ordered => Sys2Proof.Machine.execStore g va size rs ordered s
  | .interrupt p l id => Sys2Proof.Machine.execInterrupt p l id s
  | .mfsr g rd n => Sys2Proof.Machine.execMfsr g rd n s
  | .mtsr g n rs => Sys2Proof.Machine.execMtsr g n rs s
  | .ctxkeyWrite g rs => Sys2Proof.Machine.execCtxkeyWrite g rs s
  | .ctxrndDraw g rs => Sys2Proof.Machine.execCtxrndDraw g rs s
  | .translationRegWrite g n rs => Sys2Proof.Machine.execTranslationRegWrite g n rs s
  | .rdpkr g w => Sys2Proof.Machine.execRdpkr g w s
  | .wrpkr g w => Sys2Proof.Machine.execWrpkr g w s
  | .cma g w => Sys2Proof.Machine.execCma g w s
  | .cmsw g w => Sys2Proof.Machine.execCmsw g w s
  | .wlock g w => Sys2Proof.Machine.execWlock g w s
  | .wunlock g w => Sys2Proof.Machine.execWunlock g w s
  | .wlquery g w => Sys2Proof.Machine.execWlquery g w s
  | .tlbi g w => Sys2Proof.Machine.execTlbi g w s
  | .tlbiBroadcast g inv => Sys2Proof.Machine.execTlbiBroadcast g inv s
  | .tlbsync g w => Sys2Proof.Machine.execTlbsync g w s
  | .place g w => Sys2Proof.Machine.execPlace g w s
  | .fenceMb g w => Sys2Proof.Machine.execFenceMb g w s
  | .fenceDev g w => Sys2Proof.Machine.execFenceDev g w s
  | .fencePlc g w => Sys2Proof.Machine.execFencePlc g w s
  | .fenceCm g w => Sys2Proof.Machine.execFenceCm g w s
  | .fenceI g w => Sys2Proof.Machine.execFenceI g w s
  | .branchMispredict g ahead taken target wrong => Sys2Proof.Machine.execBranchMispredict g ahead taken target wrong s
  | .pageWalk g va acc la err => Sys2Proof.Machine.execPageWalk g va acc la err s
  | .mbEntryTimeout g la => Sys2Proof.Machine.execMbEntryTimeout g la s
  | .mbDrain g err => Sys2Proof.Machine.execMbDrain g err s
  | .l2Disable a g v => Sys2Proof.Machine.execL2Disable a g v s
  | .l2SweepDone g => Sys2Proof.Machine.execL2SweepDone g s
  | .dcDisable a d v => Sys2Proof.Machine.execDcDisable a d v s
  | .dcSweepDone d => Sys2Proof.Machine.execDcSweepDone d s
  | .dcMaint a d v => Sys2Proof.Machine.execDcMaint a d v s
  | .dcMaintDone d => Sys2Proof.Machine.execDcMaintDone d s
  | .cacheWayRetire unit => Sys2Proof.Machine.execCacheWayRetire unit s
  | .readShared m => Sys2Proof.Machine.execReadShared m s
  | .readOwn m => Sys2Proof.Machine.execReadOwn m s
  | .upgrade m => Sys2Proof.Machine.execUpgrade m s
  | .placeWrite m => Sys2Proof.Machine.execPlaceWrite m s
  | .write m => Sys2Proof.Machine.execWrite m s
  | .evictClean m => Sys2Proof.Machine.execEvictClean m s
  | .invalidate m => Sys2Proof.Machine.execInvalidate m s
  | .recall m => Sys2Proof.Machine.execRecall m s
  | .downgrade m => Sys2Proof.Machine.execDowngrade m s
  | .census m => Sys2Proof.Machine.execCensus m s
  | .invAck m => Sys2Proof.Machine.execInvAck m s
  | .recallAck m => Sys2Proof.Machine.execRecallAck m s
  | .snoopRetryResend h la d => Sys2Proof.Machine.execSnoopRetryResend h la d s
  | .grant m => Sys2Proof.Machine.execGrant m s
  | .rdDone m => Sys2Proof.Machine.execRdDone m s
  | .wbAccepted m => Sys2Proof.Machine.execWbAccepted m s
  | .wrDone m => Sys2Proof.Machine.execWrDone m s
  | .wbAck m => Sys2Proof.Machine.execWbAck m s
  | .writeDone m => Sys2Proof.Machine.execWriteDone m s
  | .mirDone m => Sys2Proof.Machine.execMirDone m s
  | .placeDone m => Sys2Proof.Machine.execPlaceDone m s
  | .nack m => Sys2Proof.Machine.execNack m s
  | .nackRetry m => Sys2Proof.Machine.execNackRetry m s
  | .data m => Sys2Proof.Machine.execData m s
  | .dataBurst m0 m1 m2 m3 => Sys2Proof.Machine.execDataBurst m0 m1 m2 m3 s
  | .writeback m => Sys2Proof.Machine.execWriteback m s
  | .censusReport m => Sys2Proof.Machine.execCensusReport m s
  | .holdWindowExpired h la => Sys2Proof.Machine.execHoldWindowExpired h la s
  | .directoryColumnRetire h bank way => Sys2Proof.Machine.execDirectoryColumnRetire h bank way s
  | .directoryEntryUe h la => Sys2Proof.Machine.execDirectoryEntryUe h la s
  | .bcastSweep h bank => Sys2Proof.Machine.execBcastSweep h bank s
  | .hubHalfLoss h => Sys2Proof.Machine.execHubHalfLoss h s
  | .censusComplete h => Sys2Proof.Machine.execCensusComplete h s
  | .homesHandBack h bank => Sys2Proof.Machine.execHomesHandBack h bank s
  | .hubHeartbeat h spine transit => Sys2Proof.Machine.execHubHeartbeat h spine transit s
  | .spineLoss => Sys2Proof.Machine.execSpineLoss s
  | .transitRemap => Sys2Proof.Machine.execTransitRemap s
  | .mcCommandSlot ch sc corrected => Sys2Proof.Machine.execMcCommandSlot ch sc corrected s
  | .pageIdleClose ch sc bank => Sys2Proof.Machine.execPageIdleClose ch sc bank s
  | .urgencyRise ch sc txid => Sys2Proof.Machine.execUrgencyRise ch sc txid s
  | .refreshInterval ch sc rank set => Sys2Proof.Machine.execRefreshInterval ch sc rank set s
  | .dimmTempPoll ch hot celsius => Sys2Proof.Machine.execDimmTempPoll ch hot celsius s
  | .retrainOscCheck ch sc drift => Sys2Proof.Machine.execRetrainOscCheck ch sc drift s
  | .retrainWaitExpired ch sc => Sys2Proof.Machine.execRetrainWaitExpired ch sc s
  | .retrainPauseEnd ch sc corrected => Sys2Proof.Machine.execRetrainPauseEnd ch sc corrected s
  | .redirectedRead m => Sys2Proof.Machine.execRedirectedRead m s
  | .channelLoss ch cause => Sys2Proof.Machine.execChannelLoss ch cause s
  | .resyncChunk ch chunk => Sys2Proof.Machine.execResyncChunk ch chunk s
  | .uncorrectableRead m secondGood mirrorGood => Sys2Proof.Machine.execUncorrectableRead m secondGood mirrorGood s
  | .patrolScrub ch la outcome => Sys2Proof.Machine.execPatrolScrub ch la outcome s
  | .rowRepair ch row resource => Sys2Proof.Machine.execRowRepair ch row resource s
  | .headLinkUp port sub => Sys2Proof.Machine.execHeadLinkUp port sub s
  | .headLinkDown port sub => Sys2Proof.Machine.execHeadLinkDown port sub s
  | .gvcpDiscovery port sub => Sys2Proof.Machine.execGvcpDiscovery port sub s
  | .gvcpAnswer port sub ans => Sys2Proof.Machine.execGvcpAnswer port sub ans s
  | .headHeartbeat stream answered ptpSlave => Sys2Proof.Machine.execHeadHeartbeat stream answered ptpSlave s
  | .headFrame port sub f => Sys2Proof.Machine.execHeadFrame port sub f s
  | .ptpMessage port sub kind domain body => Sys2Proof.Machine.execPtpMessage port sub kind domain body s
  | .ptpSyncSend port sub => Sys2Proof.Machine.execPtpSyncSend port sub s
  | .gvspPacket port slot pkt => Sys2Proof.Machine.execGvspPacket port slot pkt s
  | .reorderTimeout stream => Sys2Proof.Machine.execReorderTimeout stream s
  | .slotHeaderAccept stream => Sys2Proof.Machine.execSlotHeaderAccept stream s
  | .cutTake stream => Sys2Proof.Machine.execCutTake stream s
  | .cutRecordDelayed stream => Sys2Proof.Machine.execCutRecordDelayed stream s
  | .cutRel a p str v => Sys2Proof.Machine.execCutRel a p str v s
  | .cutRelAll a p v => Sys2Proof.Machine.execCutRelAll a p v s
  | .cutFree stream => Sys2Proof.Machine.execCutFree stream s
  | .ingestLeadTakeover stream => Sys2Proof.Machine.execIngestLeadTakeover stream s
  | .flitReceive l f => Sys2Proof.Machine.execFlitReceive l f s
  | .retryReq l seq => Sys2Proof.Machine.execRetryReq l seq s
  | .retryReqRepeat l => Sys2Proof.Machine.execRetryReqRepeat l s
  | .ackTimeoutResend l => Sys2Proof.Machine.execAckTimeoutResend l s
  | .mapFlitSend l => Sys2Proof.Machine.execMapFlitSend l s
  | .mapMismatch l test => Sys2Proof.Machine.execMapMismatch l test s
  | .cap h m offer => Sys2Proof.Machine.execCap h m offer s
  | .linkTrain h m good test => Sys2Proof.Machine.execLinkTrain h m good test s
  | .sleepReq l => Sys2Proof.Machine.execSleepReq l s
  | .sleepAck l => Sys2Proof.Machine.execSleepAck l s
  | .sleepIdleExpired l => Sys2Proof.Machine.execSleepIdleExpired l s
  | .linkWake l => Sys2Proof.Machine.execLinkWake l s
  | .laneTest h m test => Sys2Proof.Machine.execLaneTest h m test s
  | .lkRetrain a l test => Sys2Proof.Machine.execLkRetrain a l test s
  | .linkModuleLoss h m cause => Sys2Proof.Machine.execLinkModuleLoss h m cause s
  | .moduleRetrainTry h m good => Sys2Proof.Machine.execModuleRetrainTry h m good s
  | .guestRequest g m => Sys2Proof.Machine.execGuestRequest g m s
  | .guestDoorbell g d v => Sys2Proof.Machine.execGuestDoorbell g d v s
  | .guestModuleLoss g => Sys2Proof.Machine.execGuestModuleLoss g s
  | .hello h serial prio masterCap promote => Sys2Proof.Machine.execHello h serial prio masterCap promote s
  | .helloSend => Sys2Proof.Machine.execHelloSend s
  | .member h f divs => Sys2Proof.Machine.execMember h f divs s
  | .elect h island prio serial => Sys2Proof.Machine.execElect h island prio serial s
  | .electionWaitEnd island chan => Sys2Proof.Machine.execElectionWaitEnd island chan s
  | .masterSearchTimeout => Sys2Proof.Machine.execMasterSearchTimeout s
  | .cal h answer => Sys2Proof.Machine.execCal h answer s
  | .calSend port => Sys2Proof.Machine.execCalSend port s
  | .sync h parentTime => Sys2Proof.Machine.execSync h parentTime s
  | .tick h f => Sys2Proof.Machine.execTick h f s
  | .hb h st => Sys2Proof.Machine.execHb h st s
  | .hbSend => Sys2Proof.Machine.execHbSend s
  | .masterLoss m route => Sys2Proof.Machine.execMasterLoss m route s
  | .holdoverEdge chan => Sys2Proof.Machine.execHoldoverEdge chan s
  | .holdoverEnd chan => Sys2Proof.Machine.execHoldoverEnd chan s
  | .recon h index chan old new ofs => Sys2Proof.Machine.execRecon h index chan old new ofs s
  | .leave h => Sys2Proof.Machine.execLeave h s
  | .cascadeLinkResend port lack => Sys2Proof.Machine.execCascadeLinkResend port lack s
  | .relayCmd h hd data => Sys2Proof.Machine.execRelayCmd h hd data s
  | .relayCpl h hd data => Sys2Proof.Machine.execRelayCpl h hd data s
  | .put h x data => Sys2Proof.Machine.execPut h x data s
  | .putAck h x => Sys2Proof.Machine.execPutAck h x s
  | .getReq h x => Sys2Proof.Machine.execGetReq h x s
  | .getData h x data => Sys2Proof.Machine.execGetData h x data s
  | .csSqtail a p v => Sys2Proof.Machine.execCsSqtail a p v s
  | .transferDone p => Sys2Proof.Machine.execTransferDone p s
  | .csWcommit a h v => Sys2Proof.Machine.execCsWcommit a h v s
  | .ageingSample d margins => Sys2Proof.Machine.execAgeingSample d margins s
  | .plannedMigration g => Sys2Proof.Machine.execPlannedMigration g s
  | .migrationLoad p l => Sys2Proof.Machine.execMigrationLoad p l s
  | .dieRetire d => Sys2Proof.Machine.execDieRetire d s
  | .refclkFail h ix => Sys2Proof.Machine.execRefclkFail h ix s
  | .refclkBothFail h => Sys2Proof.Machine.execRefclkBothFail h s
  | .keepBlockFail => Sys2Proof.Machine.execKeepBlockFail s
  | .halfBringIn h => Sys2Proof.Machine.execHalfBringIn h s
  | .perstRelease e => Sys2Proof.Machine.execPerstRelease e s
  | .configReady e => Sys2Proof.Machine.execConfigReady e s
  | .configRequest e type1 write off v => Sys2Proof.Machine.execConfigRequest e type1 write off v s
  | .flr e => Sys2Proof.Machine.execFlr e s
  | .bar0Access e write bar off data size => Sys2Proof.Machine.execBar0Access e write bar off data size s
  | .bar2Request e req start off mask data ep ro => Sys2Proof.Machine.execBar2Request e req start off mask data ep ro s
  | .msixMessage e vec => Sys2Proof.Machine.execMsixMessage e vec s
  | .msixUnmask e vec => Sys2Proof.Machine.execMsixUnmask e vec s
  | .intxAssert e => Sys2Proof.Machine.execIntxAssert e s
  | .l1IdleExpired e => Sys2Proof.Machine.execL1IdleExpired e s
  | .l0pEvaluate e load => Sys2Proof.Machine.execL0pEvaluate e load s
  | .ltrSend e => Sys2Proof.Machine.execLtrSend e s
  | .d3hotEntry e enter => Sys2Proof.Machine.execD3hotEntry e enter s
  | .porst straps => Sys2Proof.Machine.execPorst straps s
  | .pkrst boot => Sys2Proof.Machine.execPkrst boot s
  | .rstReqPkr a h => Sys2Proof.Machine.execRstReqPkr a h s
  | .rstReqDie a h d => Sys2Proof.Machine.execRstReqDie a h d s
  | .rstReqCore a h g => Sys2Proof.Machine.execRstReqCore a h g s
  | .rstReqPolder a h p => Sys2Proof.Machine.execRstReqPolder a h p s
  | .rstReqLink a h target => Sys2Proof.Machine.execRstReqLink a h target s
  | .bootVerify hc => Sys2Proof.Machine.execBootVerify hc s
  | .startupPhase r => Sys2Proof.Machine.execStartupPhase r s
  | .railMonitor rail inRange mv => Sys2Proof.Machine.execRailMonitor rail inRange mv s
  | .thermalSample u temps => Sys2Proof.Machine.execThermalSample u temps s
  | .voteDrop dom => Sys2Proof.Machine.execVoteDrop dom s
  | .sluiceDrained dom => Sys2Proof.Machine.execSluiceDrained dom s
  | .sluiceWake dom => Sys2Proof.Machine.execSluiceWake dom s
  | .c2IdleExpired g => Sys2Proof.Machine.execC2IdleExpired g s
  | .avsStep d => Sys2Proof.Machine.execAvsStep d s
  | .cntClr g rs => Sys2Proof.Machine.execCntClr g rs s
  | .cbOwnWrite a addr v => Sys2Proof.Machine.execCbOwnWrite a addr v s
  | .sampleTake g smp => Sys2Proof.Machine.execSampleTake g smp s
  | .counterDump p => Sys2Proof.Machine.execCounterDump p s
  | .recorderRecord h ev => Sys2Proof.Machine.execRecorderRecord h ev s
  | .recorderAutoExport h => Sys2Proof.Machine.execRecorderAutoExport h s
  | .recFreeze a h v => Sys2Proof.Machine.execRecFreeze a h v s
  | .freezeLapse h => Sys2Proof.Machine.execFreezeLapse h s
  | .recClear a h v => Sys2Proof.Machine.execRecClear a h v s
  | .recMode a h v => Sys2Proof.Machine.execRecMode a h v s
  | .recCursor a h view v => Sys2Proof.Machine.execRecCursor a h view v s
  | .recWindow7Read a h view => Sys2Proof.Machine.execRecWindow7Read a h view s
  | .rvFreeze a h p v => Sys2Proof.Machine.execRvFreeze a h p v s
  | .slackClosePtime => Sys2Proof.Machine.execSlackClosePtime s
  | .spprWaitExpired ch => Sys2Proof.Machine.execSpprWaitExpired ch s
  | .spineRestore => Sys2Proof.Machine.execSpineRestore s
  | .refclkRecover h ix => Sys2Proof.Machine.execRefclkRecover h ix s
  | .controllersFailed => Sys2Proof.Machine.execControllersFailed s
  | .tokenBucketRefill g => Sys2Proof.Machine.execTokenBucketRefill g s
  | .syncSend => Sys2Proof.Machine.execSyncSend s
  | .cascadeLinkDown port => Sys2Proof.Machine.execCascadeLinkDown port s
  | .cascadeLinkUp port => Sys2Proof.Machine.execCascadeLinkUp port s
  | .perstAssert e => Sys2Proof.Machine.execPerstAssert e s
  | .pcieLinkDown e => Sys2Proof.Machine.execPcieLinkDown e s
  | .hotReset e => Sys2Proof.Machine.execHotReset e s
  | .pcieLinkUp e speed width flit => Sys2Proof.Machine.execPcieLinkUp e speed width flit s
  | .phySupplyTransient h target die => Sys2Proof.Machine.execPhySupplyTransient h target die s
  | .deviceReadTimeout g => Sys2Proof.Machine.execDeviceReadTimeout g s
  | .completionTimeout e cid ep => Sys2Proof.Machine.execCompletionTimeout e cid ep s
  | .coreFrequencyStep g up => Sys2Proof.Machine.execCoreFrequencyStep g up s
  | .phaseRemainderAbsorbed => Sys2Proof.Machine.execPhaseRemainderAbsorbed s
  | .viewSeekDone h p => Sys2Proof.Machine.execViewSeekDone h p s
  | .encCfgWrite a e v => Sys2Proof.Machine.execEncCfgWrite a e v s
  | .supervisorCall g kind imm => Sys2Proof.Machine.execSupervisorCall g kind imm s
  | .hypervisorCall g imm => Sys2Proof.Machine.execHypervisorCall g imm s
  | .monitorCall g imm => Sys2Proof.Machine.execMonitorCall g imm s
  | .exceptionReturn g => Sys2Proof.Machine.execExceptionReturn g s
  | .k64Halt g => Sys2Proof.Machine.execK64Halt g s
  | .atomic g rd va size op rs err => Sys2Proof.Machine.execAtomic g rd va size op rs err s

end Sys2Proof.Machine
end

