-- ==== Sys2Proof/WellFormed.lean ====
section
/-! DEFINITION. Which commands are well formed: a command packet, a message or a report is of the kind its row names. -/
namespace Sys2Proof

/-- PARAM0 of a command's entry (R34). -/
def param0 (c : Cmd) : Nat := c.e.w6.toNat

/-- The entry carries an opcode (R34, R46). -/
def isOp (c : Cmd) (op : Nat) : Bool := c.e.w0.toNat % 256 == op

/-- A SET_FEATURE of a feature from `lo` to `hi`. -/
def isFeature (c : Cmd) (lo hi : Nat) : Bool := isOp c 0x04 && decide (lo ≤ param0 c % 65536) && decide (param0 c % 65536 ≤ hi)

/-- A feature that no other row of the table sets. -/
def plainFeature (f : Nat) : Bool :=
  !(f == 0x0001 || f == 0x0020 || 0x0100 ≤ f && f ≤ 0x011F || 0x0200 ≤ f && f ≤ 0x021F || 0x0300 ≤ f && f ≤ 0x031F ||
    0x0400 ≤ f && f ≤ 0x040F || 0x0500 ≤ f && f ≤ 0x051F || 0x0540 ≤ f && f ≤ 0x055F || 0x0700 ≤ f && f ≤ 0x071F)

/-- A Completion message of a kind (R240). -/
def isComp (m : Msg) (kind : Nat) : Bool := m.ty == .completion && m.a.toNat % 16 == kind

/-- A request that a bank may answer with Nack (R233). -/
def isRequest (m : Msg) : Bool :=
  m.ty == .readShared || m.ty == .readOwn || m.ty == .upgrade || m.ty == .placeWrite || m.ty == .write

/-- The four messages of a DataBurst are pushes of one aligned 256 B block to one target (R335). -/
def inOneBlock (a b c d : Msg) : Bool :=
  a.la.toNat % 4 == 0 && a.a.getLsbD 1 && b.dst == a.dst && c.dst == a.dst && d.dst == a.dst && b.la == a.la + 1 && c.la == a.la + 2 && d.la == a.la + 3

/-- Slot classes of a message by its size (R334, R239): 16 B, 80 B, 88 B. -/
def slotClass (m : Msg) : Nat :=
  match m.ty with
  | .data | .writeback => 1
  | .write => 2
  | .placeWrite => if m.a.getLsbD 0 then 0 else 2
  | _ => 0

/-- A sequenced flit's messages fill the slots that its FMT names (R334). The four lines of a DataBurst stand in its last flit; a
reserved FMT is discarded whatever its slots hold. -/
def fmtFits (f : Flit) : Bool :=
  let cls := f.msgs.map slotClass
  let burst := fun (rest : List Nat) => match f.msgs with
    | a :: b :: c :: d :: _ => inOneBlock a b c d && cls == [1, 1, 1, 1] ++ rest
    | _ => false
  match f.fmt.toNat with
  | 1 => cls == [0]
  | 2 => cls == [0, 0]
  | 3 => cls == [0, 0, 0]
  | 4 => cls == [1]
  | 5 => cls == [1, 0]
  | 6 => cls == [0, 1]
  | 7 => cls == [2]
  | 8 | 9 => cls == []
  | 10 => burst []
  | 11 => burst [0]
  | 12 => burst [0, 0]
  | 13 => burst [1]
  | _ => true

/-- An event's fields have the widths of a record (R454). -/
def eventFits (e : Event) : Bool :=
  decide (e.code < 256) && decide (e.pol < 32) && decide (e.src < 4096) && decide (e.args.length ≤ 4) &&
    e.args.all (fun a => decide (a < 2 ^ 64)) && decide (e.hide < 16)

/-- A cascade frame's payload is at most 4,096 B (R362): its head beside the data. -/
def payloadFits (head : Nat) (d : List Byte) : Bool := decide (head + d.length ≤ 4096)

/-- The source has a queue register block: an endpoint or a mailbox set (R33, R40). -/
def hasQrb : Source → Bool
  | .pcie _ | .mailbox _ => true
  | .sideband | .cascade _ _ _ => false

/-- The FUNC values of R156. -/
def addedFuncs : List Nat := [0x00, 0x01, 0x02, 0x04, 0x05, 0x08, 0x09, 0x0C, 0x0D, 0x0E, 0x10, 0x11, 0x14, 0x18]

/-- A word of the added instructions' major opcode (R155) with a row's FUNC, or with one that no row has. -/
def addedOf (w : BitVec 32) (func : Nat) : Bool :=
  w.toNat / 2 ^ 26 == 0x3B && (w.toNat % 64 == func || !addedFuncs.contains (w.toNat % 64))

/-- The command is of the form its row gives. -/
def Instr.wf (i : Instr) : Bool :=
  match i with
  | .sqDb src _ _ => hasQrb src
  | .cqDb src _ _ => hasQrb src
  | .commandFetch _ _ _ => true
  | .completionPost _ _ => true
  | .sidebandRequest _ => true
  | .qrbEnable src => hasQrb src
  | .qrbDisable src => hasQrb src
  | .hcHeartbeat _ => true
  | .controllerTakeover => true
  | .standbyRejoin _ => true
  | .identify c => isOp c 0x01
  | .getLog c => isOp c 0x02
  | .getFeature c => isOp c 0x03
  | .setFeature c => isOp c 0x04 && plainFeature (param0 c % 65536)
  | .setWrrWeights c => isFeature c 0x0001 0x0001
  | .setTrigCfg c => isFeature c 0x0100 0x011F
  | .setGdCtl c => isFeature c 0x0200 0x021F
  | .setEntryPoint c => isFeature c 0x0300 0x031F
  | .setHpCfg c => isFeature c 0x0400 0x040F
  | .setCsTbind c => isFeature c 0x0500 0x051F
  | .setSendRing c => isFeature c 0x0540 0x055F
  | .setRelay c => isFeature c 0x0020 0x0020
  | .setCntDump c => isFeature c 0x0700 0x071F
  | .queueCreate c => isOp c 0x05
  | .queueDelete c => isOp c 0x06
  | .fwDownload c => isOp c 0x08
  | .fwCommitStage c => isOp c 0x09 && param0 c % 4 == 0
  | .fwCommitNextReset c => isOp c 0x09 && param0 c % 4 == 1
  | .fwCommitLive c => isOp c 0x09 && param0 c % 4 == 2
  | .configWrite c => isOp c 0x0A
  | .configRead c => isOp c 0x0B
  | .polderCreate c => isOp c 0x10
  | .polderDelete c => isOp c 0x11
  | .polderAttach c => isOp c 0x12
  | .polderDetach c => isOp c 0x13
  | .coreDetachAtRest _ => true
  | .tickConfigure c => isOp c 0x18
  | .tickConfigTakeEffect _ => true
  | .triggerProgram c => isOp c 0x19
  | .jnsCreate c => isOp c 0x20
  | .jnsDelete c => isOp c 0x21
  | .journalWrite c => isOp c 0x22
  | .journalRead c => isOp c 0x23
  | .recorderExportKeep c => isOp c 0x28 && (param0 c).testBit 1
  | .recorderExportBuffer c => isOp c 0x28 && !(param0 c).testBit 1
  | .bermRetire c => isOp c 0x30
  | .bermBringIn c => isOp c 0x31
  | .cascadeJoin c => isOp c 0x38
  | .cascadeLeave c => isOp c 0x39
  | .headBind c => isOp c 0x3C
  | .headUnbind c => isOp c 0x3D
  | .windowCommit c => isOp c 0x40
  | .statusRead c => isOp c 0x60
  | .tickQuery c => isOp c 0x61
  | .ptimeQuery c => isOp c 0x62
  | .recorderFreeze c => isOp c 0x63
  | .recorderUnfreeze c => isOp c 0x64
  | .powerVote c => isOp c 0x65
  | .triggerArm c => isOp c 0x66
  | .triggerDisarm c => isOp c 0x67
  | .headPresence c => isOp c 0x68
  | .pwrfailAssert => true
  | .pwrfailDeassert => true
  | .pfSafe => true
  | .rgnCommit _ _ _ => true
  | .registerWrite _ _ _ _ _ => true
  | .ptStep _ _ _ => true
  | .ptPhase _ _ _ => true
  | .ppsEdge _ => true
  | .ptimeSourceLost _ => true
  | .ptimeAlign _ => true
  | .encoderCount _ _ _ _ _ => true
  | .encoderInputFail _ _ => true
  | .tickEdge _ _ => true
  | .hostTick _ _ _ => true
  | .encoderStallTimeout _ => true
  | .tickMessage _ _ _ => true
  | .tickBackupCopy _ _ => true
  | .engineTakeover _ _ => true
  | .tickTake _ => true
  | .tickRecordDurable _ => true
  | .tickwait _ w => addedOf w 0x00
  | .tickdone _ w => addedOf w 0x01
  | .tickabort _ w => addedOf w 0x02
  | .tickOverrun _ => true
  | .tickResume _ _ _ => true
  | .triggerFire _ => true
  | .slackOpen => true
  | .slackClose => true
  | .commitPoint _ => true
  | .phaseBComplete _ => true
  | .deferredDrain _ => true
  | .deferLimitExpired _ _ => true
  | .coreFaultDetected _ _ _ => true
  | .replacementReady _ _ => true
  | .dieHeartbeatLoss _ => true
  | .load _ _ _ _ _ _ => true
  | .store _ _ _ _ _ => true
  | .interrupt _ _ _ => true
  | .mfsr _ _ _ => true
  | .mtsr _ _ _ => true
  | .ctxkeyWrite _ _ => true
  | .ctxrndDraw _ _ => true
  | .translationRegWrite _ _ _ => true
  | .rdpkr _ w => addedOf w 0x04
  | .wrpkr _ w => addedOf w 0x05
  | .cma _ w => addedOf w 0x08
  | .cmsw _ w => addedOf w 0x09
  | .wlock _ w => addedOf w 0x0C
  | .wunlock _ w => addedOf w 0x0D
  | .wlquery _ w => addedOf w 0x0E
  | .tlbi _ w => addedOf w 0x10
  | .tlbiBroadcast _ _ => true
  | .tlbsync _ w => addedOf w 0x11
  | .place _ w => addedOf w 0x14
  | .fenceMb _ w => addedOf w 0x18 && (w.toNat / 64 % 32 == 0 || 5 ≤ w.toNat / 64 % 32)
  | .fenceDev _ w => addedOf w 0x18 && (w.toNat / 64 % 32 == 1 || 5 ≤ w.toNat / 64 % 32)
  | .fencePlc _ w => addedOf w 0x18 && (w.toNat / 64 % 32 == 2 || 5 ≤ w.toNat / 64 % 32)
  | .fenceCm _ w => addedOf w 0x18 && (w.toNat / 64 % 32 == 3 || 5 ≤ w.toNat / 64 % 32)
  | .fenceI _ w => addedOf w 0x18 && (w.toNat / 64 % 32 == 4 || 5 ≤ w.toNat / 64 % 32)
  | .branchMispredict _ _ _ _ _ => true
  | .pageWalk _ _ _ _ _ => true
  | .mbEntryTimeout _ _ => true
  | .mbDrain _ _ => true
  | .l2Disable _ _ _ => true
  | .l2SweepDone _ => true
  | .dcDisable _ _ _ => true
  | .dcSweepDone _ => true
  | .dcMaint _ _ _ => true
  | .dcMaintDone _ => true
  | .cacheWayRetire _ => true
  | .readShared m => m.ty == .readShared
  | .readOwn m => m.ty == .readOwn
  | .upgrade m => m.ty == .upgrade
  | .placeWrite m => m.ty == .placeWrite
  | .write m => m.ty == .write
  | .evictClean m => m.ty == .evictClean
  | .invalidate m => m.ty == .invalidate
  | .recall m => m.ty == .recall
  | .downgrade m => m.ty == .downgrade
  | .census m => m.ty == .census
  | .invAck m => m.ty == .invAck
  | .recallAck m => m.ty == .recallAck
  | .snoopRetryResend _ _ _ => true
  | .grant m => m.ty == .grant
  | .rdDone m => isComp m 1
  | .wbAccepted m => isComp m 2
  | .wrDone m => isComp m 3
  | .wbAck m => isComp m 4
  | .writeDone m => isComp m 5
  | .mirDone m => isComp m 6
  | .placeDone m => isComp m 7
  | .nack m => m.ty == .nack
  | .nackRetry m => isRequest m
  | .data m => m.ty == .data
  | .dataBurst a b c d => a.ty == .data && b.ty == .data && c.ty == .data && d.ty == .data && inOneBlock a b c d
  | .writeback m => m.ty == .writeback
  | .censusReport m => m.ty == .censusReport
  | .holdWindowExpired _ _ => true
  | .directoryColumnRetire _ _ _ => true
  | .directoryEntryUe _ _ => true
  | .bcastSweep _ _ => true
  | .hubHalfLoss _ => true
  | .censusComplete _ => true
  | .homesHandBack _ _ => true
  | .hubHeartbeat _ _ _ => true
  | .spineLoss => true
  | .transitRemap => true
  | .mcCommandSlot _ _ _ => true
  | .pageIdleClose _ _ _ => true
  | .urgencyRise _ _ _ => true
  | .refreshInterval _ _ _ _ => true
  | .dimmTempPoll _ _ _ => true
  | .retrainOscCheck _ _ _ => true
  | .retrainWaitExpired _ _ => true
  | .retrainPauseEnd _ _ _ => true
  | .redirectedRead m => m.ty == .readShared
  | .channelLoss _ _ => true
  | .resyncChunk _ _ => true
  | .uncorrectableRead m _ _ => m.ty == .readShared
  | .patrolScrub _ _ _ => true
  | .rowRepair _ _ _ => true
  | .headLinkUp _ _ => true
  | .headLinkDown _ _ => true
  | .gvcpDiscovery _ _ => true
  | .gvcpAnswer _ _ _ => true
  | .headHeartbeat _ _ _ => true
  | .headFrame _ _ _ => true
  | .ptpMessage _ _ _ _ _ => true
  | .ptpSyncSend _ _ => true
  | .gvspPacket _ _ _ => true
  | .reorderTimeout _ => true
  | .slotHeaderAccept _ => true
  | .cutTake _ => true
  | .cutRecordDelayed _ => true
  | .cutRel _ _ _ _ => true
  | .cutRelAll _ _ _ => true
  | .cutFree _ => true
  | .ingestLeadTakeover _ => true
  | .flitReceive _ f => if f.kind = 0 then fmtFits f else f.msgs.isEmpty
  | .retryReq _ _ => true
  | .retryReqRepeat _ => true
  | .ackTimeoutResend _ => true
  | .mapFlitSend _ => true
  | .mapMismatch _ _ => true
  | .cap _ _ o => o.credits.length == 6
  | .linkTrain _ _ _ _ => true
  | .sleepReq _ => true
  | .sleepAck _ => true
  | .sleepIdleExpired _ => true
  | .linkWake _ => true
  | .laneTest _ _ _ => true
  | .lkRetrain _ _ _ => true
  | .linkModuleLoss _ _ _ => true
  | .moduleRetrainTry _ _ _ => true
  | .guestRequest _ m => m.ty == .readShared || m.ty == .write || m.ty == .placeWrite
  | .guestDoorbell _ _ _ => true
  | .guestModuleLoss _ => true
  | .hello _ _ _ _ _ => true
  | .helloSend => true
  | .member _ _ _ => true
  | .elect _ _ _ _ => true
  | .electionWaitEnd _ _ => true
  | .masterSearchTimeout => true
  | .cal _ _ => true
  | .calSend _ => true
  | .sync _ _ => true
  | .tick _ _ => true
  | .hb _ _ => true
  | .hbSend => true
  | .masterLoss _ _ => true
  | .holdoverEdge _ => true
  | .holdoverEnd _ => true
  | .recon _ _ _ _ _ _ => true
  | .leave _ => true
  | .cascadeLinkResend _ _ => true
  | .relayCmd _ hd d => payloadFits (if hd.isSome then 64 else 0) d
  | .relayCpl _ hd d => payloadFits (if hd.isSome then 32 else 0) d
  | .put _ _ _ => true
  | .putAck _ _ => true
  | .getReq _ _ => true
  | .getData _ _ _ => true
  | .csSqtail _ _ _ => true
  | .transferDone _ => true
  | .csWcommit _ _ _ => true
  | .ageingSample _ ms => ms.length == 21
  | .plannedMigration _ => true
  | .migrationLoad _ _ => true
  | .dieRetire _ => true
  | .refclkFail _ _ => true
  | .refclkBothFail _ => true
  | .keepBlockFail => true
  | .halfBringIn _ => true
  | .perstRelease _ => true
  | .configReady _ => true
  | .configRequest _ _ _ _ _ => true
  | .flr _ => true
  | .bar0Access _ _ _ _ ws size => if size = .dword then ws.length == 1 else !ws.isEmpty
  | .bar2Request _ _ _ _ _ _ _ _ => true
  | .msixMessage _ _ => true
  | .msixUnmask _ _ => true
  | .intxAssert _ => true
  | .l1IdleExpired _ => true
  | .l0pEvaluate _ _ => true
  | .ltrSend _ => true
  | .d3hotEntry _ _ => true
  | .porst _ => true
  | .pkrst _ => true
  | .rstReqPkr _ _ => true
  | .rstReqDie _ _ _ => true
  | .rstReqCore _ _ _ => true
  | .rstReqPolder _ _ _ => true
  | .rstReqLink _ _ _ => true
  | .bootVerify _ => true
  | .startupPhase r => r.chans.length == 16
  | .railMonitor _ _ _ => true
  | .thermalSample _ _ => true
  | .voteDrop _ => true
  | .sluiceDrained _ => true
  | .sluiceWake _ => true
  | .c2IdleExpired _ => true
  | .avsStep _ => true
  | .cntClr _ _ => true
  | .cbOwnWrite _ _ _ => true
  | .sampleTake _ _ => true
  | .counterDump _ => true
  | .recorderRecord _ ev => eventFits ev
  | .recorderAutoExport _ => true
  | .recFreeze _ _ _ => true
  | .freezeLapse _ => true
  | .recClear _ _ _ => true
  | .recMode _ _ _ => true
  | .recCursor _ _ _ _ => true
  | .recWindow7Read _ _ _ => true
  | .rvFreeze _ _ _ _ => true
  | .slackClosePtime => true
  | .spprWaitExpired _ => true
  | .spineRestore => true
  | .refclkRecover _ _ => true
  | .controllersFailed => true
  | .tokenBucketRefill _ => true
  | .syncSend => true
  | .cascadeLinkDown _ => true
  | .cascadeLinkUp _ => true
  | .perstAssert _ => true
  | .pcieLinkDown _ => true
  | .hotReset _ => true
  | .pcieLinkUp _ _ _ _ => true
  | .phySupplyTransient _ _ _ => true
  | .deviceReadTimeout _ => true
  | .completionTimeout _ _ _ => true
  | .coreFrequencyStep _ _ => true
  | .phaseRemainderAbsorbed => true
  | .viewSeekDone _ _ => true
  | .encCfgWrite _ _ _ => true
  | .supervisorCall _ _ _ => true
  | .hypervisorCall _ _ => true
  | .monitorCall _ _ => true
  | .exceptionReturn _ => true
  | .k64Halt _ => true
  | .atomic _ _ _ _ _ _ _ => true

end Sys2Proof
end

