-- ==== Sys2Proof/Safety.lean ====
section
/-! DEFINITION. What counts as a safe state and a safe run: both memory copies canonical, and no step that stops. -/
namespace Sys2Proof.Machine

/-- Both halves' copies of DRAM are in canonical form. -/
def State.memOk (s : State) : Bool := Memory.wf s.mem.h0 && Memory.wf s.mem.h1

/-- A register's stored entry fits the width of the field it is stored for. -/
def fitsField (x : Nat × Nat) : Prop := ∀ f : Fld, x.1 / 65536 = f.ctorIdx → x.2 < 2 ^ f.width

/-- Every stored register field fits its width, and so does every one that the keep store holds for the next start-up. -/
def State.fieldsFit (s : State) : Prop :=
  (∀ x ∈ s.regs, fitsField x) ∧ ∀ d, s.pow.defs = some d → ∀ x ∈ d.regs, fitsField x

/-- The parts of the state beside the waiting commands. -/
inductive Part where
  | regs | mem | poison | hub | cp | rcd | exports | pols | polGen | te | cores | pe | dies | halfLost | halfReturning | fabric
  | dir | io | mcs | berm | ing | links | dike | cas | pow | out | free
  deriving DecidableEq, Repr

/-- Two states agree in a part. -/
def Part.same (p : Part) (s t : State) : Prop :=
  match p with
  | .regs => t.regs = s.regs | .mem => t.mem = s.mem | .poison => t.poison = s.poison
  | .hub => t.hub = s.hub | .cp => t.cp = s.cp
  | .rcd => t.rcd = s.rcd | .exports => t.exports = s.exports | .pols => t.pols = s.pols
  | .polGen => t.polGen = s.polGen | .te => t.te = s.te | .cores => t.cores = s.cores | .pe => t.pe = s.pe
  | .dies => t.dies = s.dies | .halfLost => t.halfLost = s.halfLost
  | .halfReturning => t.halfReturning = s.halfReturning | .fabric => t.fabric = s.fabric | .dir => t.dir = s.dir
  | .io => t.io = s.io | .mcs => t.mcs = s.mcs | .berm => t.berm = s.berm | .ing => t.ing = s.ing
  | .links => t.links = s.links | .dike => t.dike = s.dike | .cas => t.cas = s.cas | .pow => t.pow = s.pow
  | .out => t.out = s.out | .free => t.free = s.free

/-- The frame of a command: from `s` to `t` nothing changes but the parts `ps`, and of the registers only the fields
`fs`. -/
def Changes (ps : List Part) (fs : List Fld) (s t : State) : Prop :=
  (∀ p : Part, p ∉ ps → p.same s t) ∧ (∀ (f : Fld) (i : Nat), f ∉ fs → t.get f i = s.get f i) ∧ t.pending = s.pending

/-- The parts and fields that recording an event may change (R49, R419, R455). -/
def logParts : List Part := [.regs, .cp, .rcd, .pe, .out]
def logFlds : List Fld :=
  [.PE_CNT_AER_LOST, .REC_STAT_NEXT, .REC_STAT_OLDEST, .REC_DROP_DROPPED, .REC_DROP_STAGED, .REC_DROP_FULL, .RV_STAT_NEXT,
   .RV_STAT_DROPPED]

/-- A refusal also counts in RGN_VIOL (R77). -/
def refuseFlds : List Fld := .RGN_VIOL_COUNT :: logFlds

/-- The parts a command's completion may change: the bytes it returns go to its buffer, through the caches (R35). -/
def cmdParts : List Part := logParts ++ [.mem, .poison, .hub, .cores, .dies, .fabric, .dir]

/-- The fields it may change with those of a refusal: the counts of locked lines lost and of the hub's bank (R186, R446). -/
def cmdFlds : List Fld := [.L2_CNT_LOCK_LOST, .CB_CNT_VALUE, .CBD_CNT_VALUE] ++ refuseFlds

/-- The same with further parts or fields. -/
def logWith (ps : List Part) : List Part := logParts ++ ps
def cmdWith (ps : List Part) : List Part := cmdParts ++ ps
def logAnd (fs : List Fld) : List Fld := logFlds ++ fs
def refuseAnd (fs : List Fld) : List Fld := refuseFlds ++ fs
def cmdAnd (fs : List Fld) : List Fld := cmdFlds ++ fs

/-- The frame over the parts alone, for a command that may change register fields of every kind. -/
def ChangesParts (ps : List Part) (s t : State) : Prop := (∀ p : Part, p ∉ ps → p.same s t) ∧ t.pending = s.pending

/-- A general counter of the core raises an interrupt when it wraps (R443). -/
def Core.raises (c : Core) : Bool := (List.range 8).any fun i => bitOf (c.sysOf (0xC2C + i)).toNat 16

/-- No interrupt follows an instruction of core `g` that retires (R153): interrupts are off where it runs, a tick is open, or none
is pending and no counter raises one. -/
def State.calm (s : State) (g : Nat) : Bool :=
  !(s.core g).intEnabled || (s.core g).t.isOpen || (s.core g).pend.isEmpty && !(s.core g).raises

/-- The frame of an instruction of core `g` that works on that core alone. -/
def OwnCore (g : Nat) (s t : State) : Prop :=
  (∀ k, k ≠ g → t.core k = s.core k) ∧ (t.core g).vr = (s.core g).vr ∧ (t.core g).l2 = (s.core g).l2 ∧
  (t.core g).pol = (s.core g).pol ∧ (t.core g).lcpu = (s.core g).lcpu ∧ (t.core g).serv = (s.core g).serv

/-- Byte `b` lies in none of the ranges that descriptors name. -/
def outsideAll (ds : List (Word × Word)) (b : Nat) : Prop := ∀ d ∈ ds, b < d.1.toNat ∨ d.1.toNat + descLen d.2 ≤ b

/-- The frame of a command that acts on nothing in memory: no byte outside its buffer changes, none at all where its source
is not a mailbox, no core's registers, and no byte that waits in a merging buffer. -/
def BufferOnly (c : Cmd) (s t : State) : Prop :=
  (∀ b, outsideAll (s.descs c) b → t.readByte b = s.readByte b) ∧
  ((∀ p, c.src ≠ .mailbox p) → t.mem = s.mem ∧ t.cores = s.cores) ∧
  ∀ g, (t.core g).gpr = (s.core g).gpr ∧ (t.core g).vr = (s.core g).vr ∧ (t.core g).sys = (s.core g).sys ∧
    (t.core g).pc = (s.core g).pc ∧ (t.core g).level = (s.core g).level ∧ (t.core g).pend = (s.core g).pend ∧
    (t.core g).mb.map (fun e => (e.la, e.mask, e.data)) = (s.core g).mb.map fun e => (e.la, e.mask, e.data)

/-- Command `c` has its own effect when it is executed: its turn has come and it has not begun (R44), it passes the checks that
precede its own (R36, R38, R39, R55, R393, R438, R439), and no reset of its function discards its completion (R406). -/
def State.passes (s : State) (o : OpSpec) (c : Cmd) : Bool :=
  s.inTurn c && !s.begun c && !(s.runningOf c).any (·.discard) && (s.precheck o c).isNone && !(o.powerFail && s.cp.blockFailed)

/-- The completion of `c` stands ready with a status and a RESULT (R37). -/
def answered (t : State) (c : Cmd) (st r : Nat) : Prop :=
  ∃ x ∈ t.cp.ready, x.src = c.src ∧ x.cid = c.e.cid ∧ x.status = st ∧ x.result = r

/-- The same with the bytes the command returns. -/
def answeredOut (t : State) (c : Cmd) (st r : Nat) (bs : List Byte) : Prop :=
  ∃ x ∈ t.cp.ready, x.src = c.src ∧ x.cid = c.e.cid ∧ x.status = st ∧ x.result = r ∧ x.out = bs

/-- A submission was taken up: it has an accept record, or its completion stands ready (R28, R31). -/
def accepted (t : State) (src : Source) (q : Nat) (e : Entry) : Prop :=
  (∃ x ∈ t.cp.running, x.src = src ∧ x.sqid = q ∧ x.e = e) ∨ ∃ x ∈ t.cp.ready, x.src = src ∧ x.sqid = q ∧ x.cid = e.cid

/-- A bank can take a request up at once (R233, R260, R261): its half is in service and counting no dies, nothing is under way
for the line, and a tracker is free for any request. -/
def State.bankFree (s : State) (m : Msg) : Prop :=
  isMcStop m.dst = false ∧ s.lost (stopHalf m.dst) = false ∧ s.censusHolds (stopHalf m.dst) m.la.toNat = false ∧
  s.trk (stopHalf m.dst) m.la.toNat = none ∧ (s.bankTrks (stopHalf m.dst) (dirBank m.la.toNat)).length < 496 ∧
  (s.dir.get (stopHalf m.dst)).bcast.contains (dirBank m.la.toNat, dirSet m.la.toNat) = false

/-- A die answers a snoop of a line at once (R191): no fill of it is on its way, no tick holds it dirty and no Writeback of it
is pending. -/
def State.snoopFree (s : State) (m : Msg) : Prop :=
  s.fillComing (stopUnit m.dst) m.la.toNat = none ∧ s.tdHolder (stopUnit m.dst) m.la.toNat = none ∧
  s.wbPending (stopUnit m.dst) m.la.toNat = none

/-- Word `w` is core `g`'s instruction of FUNC `func` (R155, R156): its fields are the ones the row defines, and the core runs at
the level it asks or above. -/
def State.wordOk (s : State) (g func : Nat) (w : BitVec 32) : Bool :=
  wordMajor w == 0x3B && wordFunc w == func &&
    (addedRow func).any fun r => r.fits w && decide (r.level (wordSub w) ≤ (s.core g).level)

/-- A cascade frame comes on a port that carries traffic, as the next in order of its link (R361, R364). -/
def State.hears (s : State) (h : CasHdr) : Bool :=
  s.csUp h.port && h.id.toNat == s.csId && h.lseq.toNat == ((s.csPort h.port).got + 1) % 65536

/-- A frame of a kind and content has gone out on a cascade port, or waits there for room in the replay buffer (R364). -/
def State.csSent (t : State) (c kind : Nat) (body : List Nat) : Bool :=
  (t.out.any fun o => match o with
    | .cascade q f => q == c && f.kind == kind && f.body == body
    | _ => false) || (t.csPort c).wait.any fun f => f.kind == kind && f.body == body

/-- The outcome is a next state. -/
def answers (o : Host.Outcome State Fault Refusal) : Bool :=
  match o with | .next _ => true | .fault _ => false | .refused _ => false

/-- A run of `k` steps that stops nowhere. -/
def runsSafely : Nat → State → Bool
  | 0, _ => true
  | k + 1, s => match step s with | .next t => runsSafely k t | .fault _ => false | .refused _ => false

end Sys2Proof.Machine
end

