-- ==== Sys2Proof/Certificates/Slice0/Obligations.lean ====
section
/-! DEFINITION. What is claimed of the machine, for the provers: what each command does where the spec gives its effect, what
it leaves unchanged, and the invariants of every step. -/
open Sys2Proof Sys2Proof.Machine

/-- Every command answers a next state with the queue it found, and a step takes the command at the front: it runs `exec` on the
state with the queue's rest. With nothing waiting the block idles for one nanosecond of its reference clock, in which only PTIME and
what counts a running core's cycles move, and stands still without that clock: the model's choice (log entry 8), not a rule of the
spec. -/
def Obligations.StepRunsTheFrontCommand : Prop :=
  (∀ (c : Instr) (s : State), step { s with pending := c :: s.pending } = exec c s) ∧
  (∀ (c : Instr) (cs : List Instr) (s : State), s.pending = c :: cs → step s = exec c { s with pending := cs }) ∧
  (∀ (c : Instr) (s : State), ∃ t, exec c s = .next t ∧ t.pending = s.pending) ∧
  (∀ s : State, s.pending = [] → 99 ∉ s.pow.held → s.freqRate = 0 → s.slewRate = 0 → s.te.rateAcc = 0 → s.te.slewAcc = 0 →
    ∃ t, step s = .next t ∧ t.now = (s.now + 1) % 2 ^ 64 ∧ Changes [.regs, .te, .cores] [.PT_NOW_TIME] s t ∧
      ∀ g, ((s.core g).serv ≠ 0 ∨ 2 ≤ (s.core g).pow ∨ bitOf ((s.core g).sysOf 0xC22).toNat 0 = false) → t.core g = s.core g) ∧
  (∀ s : State, s.pending = [] → 99 ∈ s.pow.held → step s = .next s)

/-- Invariant of every step (R436): both halves' copies of DRAM stay in canonical form, addresses rising and no zero byte listed. -/
def Obligations.StepsKeepMemoryCanonical : Prop :=
  ∀ s t : State, s.memOk = true → step s = .next t → t.memOk = true

/-- Invariant of every step (R7): every register field that is stored, now or for the next start-up, fits the width its row gives
it, so a read of a field is below two to its width. -/
def Obligations.StepsKeepFieldsWithinTheirWidths : Prop :=
  (∀ s t : State, s.fieldsFit → step s = .next t → t.fieldsFit) ∧
  (∀ (s : State) (f : Fld) (i : Nat), s.fieldsFit → s.get f i < 2 ^ f.width)

/-- R8, R20, R59, R147, R148, R278, R436, R456: what reset leaves: empty DRAM, no polder but polder 0, every core in polder 0 and in
C3 with local cores 18 and 19 in the berm, the recorder LIVE with AUTO_EXPORT and a freeze of 100 ms, the fields named here at
value, and both invariants. -/
def Obligations.ResetIsAsTheSpecSays : Prop :=
  State.reset.memOk = true ∧ State.reset.fieldsFit ∧ State.reset.pending = [] ∧
  (∀ a, State.reset.readByte a = 0) ∧
  (∀ p, State.reset.polder p = none) ∧ State.reset.polSecure 0 = true ∧
  (∀ g, (State.reset.core g).pol = 0 ∧ (State.reset.core g).pow = 3 ∧ (State.reset.core g).started = false ∧
    (State.reset.core g).l2 = [] ∧ (State.reset.core g).sysOf 0xC09 = 2800 ∧ (State.reset.core g).sysOf 0xC0A = 1 ∧
    (State.reset.core g).sysOf 0xC22 = 0 ∧ ((State.reset.core g).serv = if 18 ≤ g % 20 then 1 else 0)) ∧
  (∀ d, (State.reset.die d).state = 0 ∧ (State.reset.die d).dc = []) ∧
  (∀ h : Half, State.reset.lost h = false ∧ State.reset.recLive h = true ∧ State.reset.frozen h = false ∧
    State.reset.flag .REC_CTL_AUTO_EXPORT (instH h 0) = true ∧ State.reset.get .REC_CTL_FREEZE_MAX (instH h 0) = 100 ∧
    State.reset.get .REC_STAT_NEXT (instH h 0) = 0 ∧ State.reset.recHeld h = 0) ∧
  (∀ (h b i : Nat), h < 2 → b < 32 → i < 8 → State.reset.get .CB_SEL_UNIT (instH h (b * 8 + i)) = 0xFF ∧
    State.reset.get .CB_CNT_VALUE (instH h (b * 8 + i)) = 0) ∧
  (∀ d i, State.reset.get .DPM_CTL_C2_IDLE (instD d i) = 100) ∧
  State.reset.now = 0 ∧ State.reset.flag .QRB_CTL_EN (qKey 0 0) = false

/-- R122, R228, R243, R286: bytes a hub agent writes are what it reads back, in both configurations and wherever the line was
cached, every other byte reads as before, and a write to a line that an open guarded tick holds waits. -/
def Obligations.WrittenBytesAreReadBack : Prop :=
  (∀ (s : State) (a : Nat) (bs : List Byte), (∀ la ∈ rangeLines a bs.length, tdIn la s.cores = none) →
    (s.writeBytes a bs).readBytes a bs.length = bs) ∧
  (∀ (s : State) (a b : Nat) (bs : List Byte), (b < a ∨ a + bs.length ≤ b) → (s.writeBytes a bs).readByte b = s.readByte b) ∧
  (∀ (s : State) (a : Nat) (bs : List Byte), s.guardedCfg = true → (∀ la ∈ rangeLines a bs.length, tdIn la s.cores = none) →
    ∀ i, i < bs.length → memByte ((s.writeBytes a bs).mem.get 0) (a + i) = memByte ((s.writeBytes a bs).mem.get 1) (a + i)) ∧
  (∀ (s : State) (a : Nat) (bs : List Byte) (g : Nat), tdIn (a / 64) s.cores = some g → bs ≠ [] → a % 64 + bs.length ≤ 64 →
    (s.writeBytes a bs).mem = s.mem ∧ ∃ x, (s.writeBytes a bs).hub = s.hub ++ [x] ∧ x.la = a / 64)

/-- R22, R70, R176, R177, R230, R231: the unit, home half, directory bank, set and tag and die-cache slice of an address, each line
address given back by its parts; and when the region table allows an access. -/
def Obligations.AddressesHaveUnitsHomesAndRights : Prop :=
  (∀ u o : Nat, u < 16 → o < 2 ^ 32 → ctlUnit (0xFF00000000000 + u * 2 ^ 32 + o) = u) ∧
  (∀ a : BitVec 52, homeHalf a.toNat = b2n (a.getLsbD 8 ^^ a.getLsbD 17 ^^ a.getLsbD 26 ^^ a.getLsbD 35 ^^ a.getLsbD 44)) ∧
  (∀ (s : State) (la : Nat), (s.guardedCfg = true ∧ s.lost (homeHalf (la * 64)) = true → s.home la = 1 - homeHalf (la * 64)) ∧
    (s.guardedCfg = false ∨ s.lost (homeHalf (la * 64)) = false ∧ s.halfReturning.get (homeHalf (la * 64)) = false →
      s.home la = homeHalf (la * 64))) ∧
  (∀ la : Nat, la < 2 ^ 46 → dirBank la < 16 ∧ dirSet la < 16384 ∧ dirTag la < 2 ^ 28 ∧
    dirLine (dirBank la) (dirSet la) (dirTag la) = la) ∧
  (∀ la : Nat, dcSet la < 32768 ∧ dcSlice la < 20 ∧ dcSet la = dcLocal la * 20 + dcSlice la ∧
    dcLocal la < if dcSlice la < 8 then 1639 else 1638) ∧
  (∀ (s : State) (p : Nat) (sec w : Bool) (a : Nat), s.rgnCheck p sec w a = none ↔
    ∃ n, n < 256 ∧ s.rgnCovers a n = true ∧ (∀ m, m < n → s.rgnCovers a m = false) ∧
      ((p = 0 ∧ sec = true) ∨ (s.flag .RGN_LO_WORLD n = true → sec = true) ∧ (s.get .RGN_RD_MASK n).testBit p = true ∧
        (w = true → (s.get .RGN_WR_MASK n).testBit p = true)))

/-- R5: an access of another size than 64 bits or another alignment, or at an unassigned offset of control space, reads as zero
and has its write ignored: nothing changes but what the refusal of a tag that may not reach the block leaves. -/
def Obligations.MisshapenAccessesReadZero : Prop :=
  ∀ (a : Acc) (w : Bool) (addr : BitVec 52) (sz : Fin 4) (v : Word) (s : State),
    ((∃ r i, s.ctlTarget (addr.toNat / 8 * 8) = .reg r i ∧ (sz ≠ 3 ∨ addr.toNat % 8 ≠ 0)) ∨
      s.ctlTarget (addr.toNat / 8 * 8) = .unassigned) →
    ∃ t, exec (.registerWrite a w addr sz v) s = .next t ∧ Changes logParts refuseFlds s t ∧ (w = false → t.cp.busRead = 0) ∧
      (a.sec = true → s.unitGone addr.toNat = false → w = true → t = s)

/-- R311: bit 64 + n of the result of HEAD_PRESENCE. -/
def Obligations.HeadPresenceReportsBoundHeads : Prop :=
  ∀ (c : Cmd) (s : State), s.passes (specQuery 0 0) c = true →
    ∃ t r, exec (.headPresence c) s = .next t ∧ answered t c 0 r ∧
      ∀ n, n < 16 → (r.testBit (64 + n) = true ↔
        (∃ x ∈ s.ing.heads, x.portA = n ∨ x.paired = true ∧ x.portB = n) ∧
        ∀ x ∈ s.ing.heads, (x.portA = n ∨ x.paired = true ∧ x.portB = n) → x.present = true)

/-- R41: a doorbell write carries the new tail or head, and the last one received wins; a value the queue does not accept, or a
queue that does not exist, sets QRB_STAT.DB_ERR and moves nothing. Both commands complete for every source and value. -/
def Obligations.DoorbellsSetTailOrHead : Prop :=
  (∀ (src : Source) (q : Fin 64) (v : Word) (s : State) (r : Sq),
    s.sq (qKey src.num q) = some r → r.tailOk (v.toNat % 4096) = true →
    ∃ t, exec (.sqDb src q v) s = .next t ∧ t.sq (qKey src.num q) = some { r with tail := v.toNat % 4096 } ∧
      t.get .SQ_DB_VALUE (qKey src.num q) = v.toNat % 4096 ∧ ∀ k, k ≠ qKey src.num q → t.sq k = s.sq k) ∧
  (∀ (src : Source) (q : Fin 64) (v : Word) (s : State),
    (∀ r, s.sq (qKey src.num q) = some r → r.tailOk (v.toNat % 4096) = false) →
    ∃ t, exec (.sqDb src q v) s = .next t ∧ t.flag .QRB_STAT_DB_ERR (qKey src.num 0) = true ∧ t.cp = s.cp) ∧
  (∀ (src : Source) (q : Fin 64) (v : Word) (s : State) (r : Cq),
    s.cq (qKey src.num q) = some r → r.headOk (v.toNat % 4096) = true →
    ∃ t, exec (.cqDb src q v) s = .next t ∧ t.cq (qKey src.num q) = some { r with head := v.toNat % 4096 } ∧
      t.get .CQ_DB_VALUE (qKey src.num q) = v.toNat % 4096 ∧ ∀ k, k ≠ qKey src.num q → t.cq k = s.cq k) ∧
  (∀ (src : Source) (q : Fin 64) (v : Word) (s : State),
    (∀ r, s.cq (qKey src.num q) = some r → r.headOk (v.toNat % 4096) = false) →
    ∃ t, exec (.cqDb src q v) s = .next t ∧ t.flag .QRB_STAT_DB_ERR (qKey src.num 0) = true ∧ t.cp = s.cp)

/-- R43: while an Urgent queue of a source waits, what is fetched next is an Urgent entry. -/
def Obligations.UrgentQueuesAreServedFirst : Prop :=
  ∀ (s t : State) (n q m u k : Nat), n < 36 → q < 64 → s.sqPending n q = true → s.sqCls n q = 0 →
    s.pickQueue = some (m, u, k, t) → k = 0 ∧ (m < 36 → s.sqCls m u = 0 ∧ s.sqPending m u = true)

/-- R28, R32, R40, R43, R44: COMMAND_FETCH takes the entry at the head of the queue that arbitration picks and advances its head
by one slot; from a host queue it reads 64 bytes at the head, from a mailbox ring it reads polder memory, from the sideband and
a member it takes the entry that waits. The command has an accept record or its completion stands ready. Nothing is fetched when no
queue waits, no controller serves, or 256 commands run. A sideband request waits for the arbiter, and one that comes before the
previous response was sent is discarded whole. -/
def Obligations.CommandsAreAccepted : Prop :=
  (∀ (e : Entry) (list : List (Word × Word)) (data : List Byte) (s s1 : State) (n q k : Nat) (r : Sq), s.cp.fatalSince = none →
    s.pickQueue = some (n, q, k, s1) → s.sq (qKey n q) = some r → r.relay = none → n < 4 → s.full256 e = false →
    (∀ x ∈ s.cp.running, x.discard = false) →
    ∃ t, exec (.commandFetch e list data) s = .next t ∧
      t.sq (qKey n q) = some { r with head := (r.head + 1) % r.size, rel := r.rel.filter (· != r.head) } ∧
      Wire.hostRead n (r.base + r.head * 64) 64 ∈ t.out ∧ accepted t (sourceOf n) (q % 64) e) ∧
  (∀ (e : Entry) (list : List (Word × Word)) (data : List Byte) (s s1 : State) (n q k : Nat) (r : Sq), s.cp.fatalSince = none →
    s.pickQueue = some (n, q, k, s1) → s.sq (qKey n q) = some r → r.relay = none → 4 ≤ n → n < 36 →
    s.full256 (entryOf (s1.ringRead (n - 4) (r.base + r.head * 64) 64).2) = false → (∀ x ∈ s.cp.running, x.discard = false) →
    ∃ t, exec (.commandFetch e list data) s = .next t ∧
      t.sq (qKey n q) = some { r with head := (r.head + 1) % r.size, rel := r.rel.filter (· != r.head) } ∧
      accepted t (sourceOf n) (q % 64) (entryOf (s1.ringRead (n - 4) (r.base + r.head * 64) 64).2)) ∧
  (∀ (e : Entry) (list : List (Word × Word)) (data : List Byte) (s s1 : State) (n q k : Nat) (x : Source × Entry × List Byte),
    s.cp.fatalSince = none → s.pickQueue = some (n, q, k, s1) → s.sq (qKey n q) = none →
    s.cp.direct.find? (directOf n k) = some x → s.full256 x.2.1 = false → (∀ y ∈ s.cp.running, y.discard = false) →
    ∃ t, exec (.commandFetch e list data) s = .next t ∧ t.cp.direct = s.cp.direct.erase x ∧ accepted t x.1 0 x.2.1) ∧
  (∀ (e : Entry) (list : List (Word × Word)) (data : List Byte) (s : State), s.pickQueue = none ∨ s.cp.fatalSince.isSome = true →
    exec (.commandFetch e list data) s = .next s) ∧
  (∀ (e : Entry) (list : List (Word × Word)) (data : List Byte) (s s1 : State) (n q k : Nat) (r : Sq),
    s.pickQueue = some (n, q, k, s1) → s.sq (qKey n q) = some r → n < 4 → s.full256 e = true →
    exec (.commandFetch e list data) s = .next s) ∧
  (∀ (e : Entry) (s : State), s.cp.sidebandBusy = false →
    ∃ t, exec (.sidebandRequest e) s = .next t ∧ t.cp.sidebandBusy = true ∧ t.cp.direct = s.cp.direct ++ [(.sideband, e, [])]) ∧
  (∀ (e : Entry) (s : State), s.cp.sidebandBusy = true → exec (.sidebandRequest e) s = .next s)

/-- R37, R41, R42: COMPLETION_POST writes the oldest ready completion of the CQ into the slot at the tail with the current phase,
moves the tail, and inverts the phase when the tail wraps to slot 0; a full CQ holds it. On the sideband it is the response, for
a member the frames of a RELAY_CPL. The last completion of an SQ that QUEUE_DELETE waits for removes the SQ and completes the
QUEUE_DELETE. -/
def Obligations.CompletionsArePostedInOrder : Prop :=
  (∀ (e : Fin 4) (cq : Fin 64) (s : State) (x : Cpl) (q : Cq),
    s.cp.ready.find? (fun y => y.src == .pcie e && s.cplCq y == some (cq : Nat)) = some x →
    s.cq (qKey e cq) = some q → q.full = false → s.dmaOn e = true → s.cp.stopping = [] →
    (∀ r, s.sq (qKey e x.sqid) = some r → r.delCmd = none) →
    ∃ t, exec (.completionPost (.pcie e) cq) s = .next t ∧
      t.cq (qKey e cq) = some { q with tail := (q.tail + 1) % q.size, phase := if (q.tail + 1) % q.size = 0 then !q.phase else q.phase } ∧
      Wire.hostWrite e (q.base + q.tail * 32) (wordsLe (cplWords x q.phase (x.pt.getD s.now))) ∈ t.out ∧
      t.cp.ready.length + 1 = s.cp.ready.length) ∧
  (∀ (e : Fin 4) (cq : Fin 64) (s : State) (x : Cpl) (q : Cq) (r : Sq) (c : Cmd), s.cp.ready = [x] → x.src = .pcie e →
    s.sq (qKey e x.sqid) = some r → r.cq = cq.val → r.delCmd = some c → s.cq (qKey e cq) = some q → q.full = false →
    s.dmaOn e = true → s.cp.stopping = [] → (∀ y ∈ s.cp.running, qKey y.src.num y.sqid ≠ qKey e x.sqid) →
    (s.runningOf c).any (·.discard) = false →
    ∃ t, exec (.completionPost (.pcie e) cq) s = .next t ∧ t.sq (qKey e x.sqid) = none ∧ answered t c 0 0) ∧
  (∀ (src : Source) (cq : Fin 64) (s : State) (q : Cq), src.hasQueues = true → s.cq (qKey src.num cq) = some q →
    q.full = true → exec (.completionPost src cq) s = .next s) ∧
  (∀ (cq : Fin 64) (s : State) (x : Cpl), s.cp.ready.find? (fun y => y.src == .sideband) = some x →
    ∃ t, exec (.completionPost .sideband cq) s = .next t ∧
      t.out = s.out ++ [.sideband (cplWords x false (x.pt.getD s.now)) x.out] ∧
      t.cp.sidebandBusy = false ∧ t.cp.ready.length + 1 = s.cp.ready.length) ∧
  (∀ (c : Fin 4) (m : Fin 16) (b : Bool) (cq : Fin 64) (s : State) (x : Cpl), s.cp.ready.find? (fun y => y.src == .cascade c m b) = some x →
    ∃ t, exec (.completionPost (.cascade c m b) cq) s = .next t ∧ t.cp.ready.length + 1 = s.cp.ready.length ∧
      t.cp.sqs = s.cp.sqs ∧ t.cp.cqs = s.cp.cqs)

/-- R40: with EN set and both sizes at least 1 the administrative queue pair goes live, of class Urgent, at the bases and sizes
of the registers, with RDY 1; with a size of 0 it does not. With EN cleared and nothing outstanding every queue of the block is
gone and RDY is 0; with something outstanding the queues stay until it has completed. -/
def Obligations.AdminQueuesGoLiveAndStop : Prop :=
  (∀ (src : Source) (s : State), s.flag .QRB_CTL_EN (qKey src.num 0) = false → s.flag .QRB_STAT_RDY (qKey src.num 0) = false →
    1 ≤ s.get .QRB_CTL_ASQ_SIZE (qKey src.num 0) → 1 ≤ s.get .QRB_CTL_ACQ_SIZE (qKey src.num 0) →
    ∃ t, exec (.qrbEnable src) s = .next t ∧ t.flag .QRB_CTL_EN (qKey src.num 0) = true ∧
      t.flag .QRB_STAT_RDY (qKey src.num 0) = true ∧
      (∃ q, t.sq (qKey src.num 0) = some q ∧ q.cls = 0 ∧ q.cq = 0 ∧ q.head = 0 ∧ q.tail = 0 ∧ q.relay = none ∧
        q.base = s.get .ASQ_BASE_BASE (qKey src.num 0) * 4096 ∧ q.size = s.get .QRB_CTL_ASQ_SIZE (qKey src.num 0) + 1) ∧
      ∃ q, t.cq (qKey src.num 0) = some q ∧ q.phase = true ∧ q.vector = 0 ∧ q.head = 0 ∧ q.tail = 0 ∧
        q.base = s.get .ACQ_BASE_BASE (qKey src.num 0) * 4096 ∧ q.size = s.get .QRB_CTL_ACQ_SIZE (qKey src.num 0) + 1) ∧
  (∀ (src : Source) (s : State), s.get .QRB_CTL_ASQ_SIZE (qKey src.num 0) = 0 ∨ s.get .QRB_CTL_ACQ_SIZE (qKey src.num 0) = 0 →
    ∃ t, exec (.qrbEnable src) s = .next t ∧ t.flag .QRB_CTL_EN (qKey src.num 0) = true ∧ t.cp = s.cp ∧
      t.get .QRB_STAT_RDY (qKey src.num 0) = s.get .QRB_STAT_RDY (qKey src.num 0)) ∧
  (∀ (src : Source) (s : State), s.outstanding src.num = false →
    ∃ t, exec (.qrbDisable src) s = .next t ∧ t.flag .QRB_CTL_EN (qKey src.num 0) = false ∧
      t.flag .QRB_STAT_RDY (qKey src.num 0) = false ∧
      ∀ q, q < 64 → t.sq (qKey src.num q) = none ∧ t.cq (qKey src.num q) = none) ∧
  (∀ (src : Source) (s : State), s.outstanding src.num = true →
    ∃ t, exec (.qrbDisable src) s = .next t ∧ t.flag .QRB_CTL_EN (qKey src.num 0) = false ∧ t.cp.sqs = s.cp.sqs ∧
      t.cp.cqs = s.cp.cqs ∧ src.num ∈ t.cp.stopping)

/-- R29, R30, R56: two missed heartbeats in a row change nothing but their count, the third makes the ready standby active with
LAST_CAUSE 1; CONTROLLER_TAKEOVER names cause 2 when the active half is lost; TAKEOVERS counts, every QRB shows TAKEOVER, the
standby is no longer ready, and commands with an accept record stay to be executed again from their start. A controller whose image
verifies and whose half serves becomes the ready standby again. While an activation is under way the controller that rejoins is the
one it restarts: the first time the roles swap with LAST_CAUSE 3, the second time the command completes; an image that fails
the first time ends the activation. -/
def Obligations.StandbyTakesOverAndRejoins : Prop :=
  (∀ s : State, ∃ t, exec (.hcHeartbeat true) s = .next t ∧ t.cp.hbMissed = 0 ∧ t.regs = s.regs) ∧
  (∀ s : State, s.cp.hbMissed < 2 →
    ∃ t, exec (.hcHeartbeat false) s = .next t ∧ t.cp.hbMissed = s.cp.hbMissed + 1 ∧ t.regs = s.regs) ∧
  (∀ s : State, 2 ≤ s.cp.hbMissed → s.flag .CP_ROLE_STANDBY_READY 0 = true →
    ∃ t, exec (.hcHeartbeat false) s = .next t ∧ t.activeHalf = 1 - s.activeHalf ∧ t.get .CP_ROLE_LAST_CAUSE 0 = 1 ∧
      t.cp.hbMissed = 0) ∧
  (∀ s : State, s.flag .CP_ROLE_STANDBY_READY 0 = true →
    ∃ t, exec .controllerTakeover s = .next t ∧ t.activeHalf = 1 - s.activeHalf ∧
      t.get .CP_ROLE_LAST_CAUSE 0 = (if s.lost s.activeHalf then 2 else 1) ∧ t.flag .CP_ROLE_STANDBY_READY 0 = false ∧
      t.get .CP_ROLE_TAKEOVERS 0 = min (s.get .CP_ROLE_TAKEOVERS 0 + 1) 65535 ∧
      (∀ n, n < 36 → t.flag .QRB_STAT_TAKEOVER (qKey n 0) = true) ∧
      (s.cp.live = none → t.cp.running = s.cp.running.map fun r => { r with prog := 0 })) ∧
  (∀ s : State, s.flag .CP_ROLE_STANDBY_READY 0 = false →
    ∃ t, exec .controllerTakeover s = .next t ∧ t.activeHalf = s.activeHalf ∧
      ∀ n, n < 36 → t.flag .QRB_STAT_FATAL (qKey n 0) = true) ∧
  (∀ s : State, s.cp.live = none → s.lost (1 - s.activeHalf) = false → s.cp.recovery = false →
    (∀ x ∈ s.berm.retired, ¬(x.1 = 7 ∧ x.2.1 = 1 - s.activeHalf)) →
    ∃ t, exec (.standbyRejoin true) s = .next t ∧ t.flag .CP_ROLE_STANDBY_READY 0 = true ∧ t.activeHalf = s.activeHalf ∧
      t.cp.runStandby = s.cp.runActive ∧ t.cp.fatalSince = none) ∧
  (∀ s : State, s.cp.live = none → exec (.standbyRejoin false) s = .next s) ∧
  (∀ (s : State) (l : Live), s.cp.live = some l → l.swapped = false →
    ∃ t, exec (.standbyRejoin true) s = .next t ∧ t.activeHalf = 1 - s.activeHalf ∧ t.get .CP_ROLE_LAST_CAUSE 0 = 3 ∧
      t.cp.runActive = some l.slot ∧ t.cp.live = some { l with swapped := true }) ∧
  (∀ (s : State) (l : Live), s.cp.live = some l → l.swapped = false → (s.runningOf l.cmd).any (·.discard) = false →
    ∃ t, exec (.standbyRejoin false) s = .next t ∧ t.activeHalf = s.activeHalf ∧ t.cp.bootChoice = l.oldBoot ∧
      t.cp.live = none ∧ answered t l.cmd 9 0) ∧
  (∀ (s : State) (l : Live), s.cp.live = some l → l.swapped = true → s.mayStandBy = true →
    (s.runningOf l.cmd).any (·.discard) = false →
    ∃ t, exec (.standbyRejoin true) s = .next t ∧ t.flag .CP_ROLE_STANDBY_READY 0 = true ∧ t.cp.live = none ∧
      t.cp.runStandby = some l.slot ∧ answered t l.cmd 0 (if l.slot = 0 then s.cp.slotA.version else s.cp.slotB.version))

/-- R42, R43: on queue 0, QUEUE_CREATE makes the CQ or SQ its parameters name, empty and with phase 1, or refuses a number that is
taken or 0 with INVALID_FIELD and no effect; QUEUE_DELETE removes an unused CQ, and an SQ with nothing outstanding; an SQ with
something outstanding stops being fetched from and the command waits for it. The weights of feature 0x0001 apply to the sending
source, and RESULT is the previous value. -/
def Obligations.QueuesAreCreatedAndDeleted : Prop :=
  (∀ (c : Cmd) (s : State), s.passes specQueueCreate c = true → onQueue0 c = true → bitOf c.e.p0 6 = true →
    bitsOf c.e.p0 5 0 ≠ 0 → 2 ≤ bitsOf c.e.p0 18 7 + 1 → c.e.p1 % 4096 = 0 → bitsOf c.e.p0 21 20 = 0 → bitsOf c.e.p0 29 24 = 0 →
    s.cq (qKey c.src.num (bitsOf c.e.p0 5 0)) = none → s.ringOk c.src true c.e.p1 (bitsOf c.e.p0 18 7 + 1) = true →
    ∃ t, exec (.queueCreate c) s = .next t ∧ answered t c 0 0 ∧ t.cq (qKey c.src.num (bitsOf c.e.p0 5 0)) =
      some ⟨c.e.p1, bitsOf c.e.p0 18 7 + 1, bitsOf c.e.p0 42 32, bitOf c.e.p0 43, 0, 0, true⟩) ∧
  (∀ (c : Cmd) (s : State), s.passes specQueueCreate c = true → onQueue0 c = true → bitOf c.e.p0 6 = false →
    bitsOf c.e.p0 5 0 ≠ 0 → 2 ≤ bitsOf c.e.p0 18 7 + 1 → c.e.p1 % 4096 = 0 → bitsOf c.e.p0 43 32 = 0 →
    s.sq (qKey c.src.num (bitsOf c.e.p0 5 0)) = none → s.cq (qKey c.src.num (bitsOf c.e.p0 29 24)) ≠ none →
    s.ringOk c.src false c.e.p1 (bitsOf c.e.p0 18 7 + 1) = true →
    ∃ t, exec (.queueCreate c) s = .next t ∧ answered t c 0 0 ∧ t.sq (qKey c.src.num (bitsOf c.e.p0 5 0)) =
      some ⟨c.e.p1, bitsOf c.e.p0 18 7 + 1, bitsOf c.e.p0 21 20, bitsOf c.e.p0 29 24, 0, 0, false, none, none, []⟩) ∧
  (∀ (c : Cmd) (s : State), s.passes specQueueCreate c = true → onQueue0 c = true → bitsOf c.e.p0 5 0 = 0 →
    ∃ t, exec (.queueCreate c) s = .next t ∧ answered t c 2 0 ∧ t.cp.sqs = s.cp.sqs ∧ t.cp.cqs = s.cp.cqs) ∧
  (∀ (c : Cmd) (s : State), s.passes specQueueDelete c = true → onQueue0 c = true → bitsOf c.e.p0 5 0 ≠ 0 → bitOf c.e.p0 6 = true →
    s.cq (qKey c.src.num (bitsOf c.e.p0 5 0)) ≠ none →
    (∀ q, q < 64 → ∀ r, s.sq (qKey c.src.num q) = some r → r.cq ≠ bitsOf c.e.p0 5 0) →
    ∃ t, exec (.queueDelete c) s = .next t ∧ answered t c 0 0 ∧ t.cq (qKey c.src.num (bitsOf c.e.p0 5 0)) = none) ∧
  (∀ (c : Cmd) (s : State) (r : Sq), s.passes specQueueDelete c = true → onQueue0 c = true → bitsOf c.e.p0 5 0 ≠ 0 →
    bitOf c.e.p0 6 = false → s.sq (qKey c.src.num (bitsOf c.e.p0 5 0)) = some r → r.deleting = false →
    (∀ x ∈ s.cp.running, qKey x.src.num x.sqid ≠ qKey c.src.num (bitsOf c.e.p0 5 0)) →
    (∀ x ∈ s.cp.ready, qKey x.src.num x.sqid ≠ qKey c.src.num (bitsOf c.e.p0 5 0)) →
    ∃ t, exec (.queueDelete c) s = .next t ∧ answered t c 0 0 ∧ t.sq (qKey c.src.num (bitsOf c.e.p0 5 0)) = none) ∧
  (∀ (c : Cmd) (s : State) (r : Sq), s.passes specQueueDelete c = true → onQueue0 c = true → bitsOf c.e.p0 5 0 ≠ 0 →
    bitOf c.e.p0 6 = false → s.sq (qKey c.src.num (bitsOf c.e.p0 5 0)) = some r → r.deleting = false →
    (∃ x ∈ s.cp.ready, qKey x.src.num x.sqid = qKey c.src.num (bitsOf c.e.p0 5 0)) →
    ∃ t, exec (.queueDelete c) s = .next t ∧ t.cp.ready = s.cp.ready ∧
      t.sq (qKey c.src.num (bitsOf c.e.p0 5 0)) = some { r with deleting := true, delCmd := some c }) ∧
  (∀ (c : Cmd) (s : State), s.passes specWrr c = true →
    ∃ t, exec (.setWrrWeights c) s = .next t ∧ answered t c 0 (s.wrr c.src.num).value ∧
      (t.wrr c.src.num).wH = bitsOf c.e.p1 7 0 + 1 ∧ (t.wrr c.src.num).wM = bitsOf c.e.p1 15 8 + 1 ∧
      (t.wrr c.src.num).wL = bitsOf c.e.p1 23 16 + 1)

/-- R56, R57: FW_DOWNLOAD at offset 0 begins a session of its source and puts the bytes into the slot; a slot that runs is refused.
FW_COMMIT verifies the slot: on success the slot is valid (and the boot choice with action 1; with action 2 the boot choice too, and
its activation is under way, which StandbyTakesOverAndRejoins goes on with), on failure it is marked empty and nothing else changes.
-/
def Obligations.FirmwareIsDownloadedAndCommitted : Prop :=
  (∀ (c : Cmd) (s : State), s.passes specFwDownload c = true → c.e.p0 = 0 → s.bufLen c ≤ 0x100000 →
    s.slotRunning (bitsOf c.e.p1 0 0) = false → s.cp.session = none → s.cp.live = none →
    ∃ t, exec (.fwDownload c) s = .next t ∧ answered t c 0 0 ∧ (t.slot (bitsOf c.e.p1 0 0)).image = s.bufBytes c ∧
      (t.slot (bitsOf c.e.p1 0 0)).state = 1 ∧ t.cp.session = some (c.src.num, bitsOf c.e.p1 0 0)) ∧
  (∀ (c : Cmd) (s : State), s.passes specFwDownload c = true → s.slotRunning (bitsOf c.e.p1 0 0) = true →
    ∃ t, exec (.fwDownload c) s = .next t ∧ answered t c 2 0 ∧ ∀ k, t.slot k = s.slot k) ∧
  (∀ (c : Cmd) (s : State), s.passes specFwCommit c = true → s.slotRunning (bitsOf c.e.p0 4 4) = false → s.cp.session = none →
    s.cp.live = none →
    ∃ t, exec (.fwCommitStage c) s = .next t ∧ t.cp.bootChoice = s.cp.bootChoice ∧
      ((∃ k st, (s.slot (bitsOf c.e.p0 4 4)).verify = (some k, st) ∧ (t.slot (bitsOf c.e.p0 4 4)).state = 2 ∧
          answered t c 0 (Config.imageVersion (s.slot (bitsOf c.e.p0 4 4)).image).toNat) ∨
       ∃ st, (s.slot (bitsOf c.e.p0 4 4)).verify = (none, st) ∧ t.slot (bitsOf c.e.p0 4 4) = FwSlot.failed st s.now ∧
          answered t c st 0)) ∧
  (∀ (c : Cmd) (s : State), s.passes specFwCommit c = true → s.slotRunning (bitsOf c.e.p0 4 4) = false → s.cp.session = none →
    s.cp.live = none →
    ∃ t, exec (.fwCommitNextReset c) s = .next t ∧
      ((∃ k st, (s.slot (bitsOf c.e.p0 4 4)).verify = (some k, st) ∧ t.cp.bootChoice = bitsOf c.e.p0 4 4 ∧
          (t.slot (bitsOf c.e.p0 4 4)).state = 2) ∨
       ∃ st, (s.slot (bitsOf c.e.p0 4 4)).verify = (none, st) ∧ t.cp.bootChoice = s.cp.bootChoice ∧ answered t c st 0)) ∧
  (∀ (c : Cmd) (s : State), s.passes specFwCommit c = true → s.flag .CP_ROLE_STANDBY_READY 0 = true →
    s.slotRunning (bitsOf c.e.p0 4 4) = false → s.cp.session = none →
    s.cp.live = none →
    ∃ t, exec (.fwCommitLive c) s = .next t ∧
      ((∃ k st, (s.slot (bitsOf c.e.p0 4 4)).verify = (some k, st) ∧ t.cp.bootChoice = bitsOf c.e.p0 4 4 ∧
          t.cp.ready = s.cp.ready ∧ t.cp.live = some ⟨c, bitsOf c.e.p0 4 4, s.cp.bootChoice, false⟩) ∨
       ∃ st, (s.slot (bitsOf c.e.p0 4 4)).verify = (none, st) ∧ t.activeHalf = s.activeHalf ∧ answered t c st 0)) ∧
  (∀ (c : Cmd) (s : State), s.passes specFwCommit c = true → s.flag .CP_ROLE_STANDBY_READY 0 = false →
    ∃ t, exec (.fwCommitLive c) s = .next t ∧ answered t c 7 0 ∧ t.activeHalf = s.activeHalf)

/-- R52, R53, R54: a record that passes the checks becomes the pending one and can be read; a journal namespace is made for a polder
that has none, takes data that reads back as written, one 16 KiB block at a time in ascending order, and is gone with its data after
JNS_DELETE. -/
def Obligations.ConfigurationAndJournalHoldWhatIsWritten : Prop :=
  (∀ (c : Cmd) (s : State), s.passes specConfigWrite c = true → s.bufLen c = 1024 →
    ∃ t, exec (.configWrite c) s = .next t ∧ t.cp.cfg = s.cp.cfg ∧
      (if cfgOk (wordsOf (s.bufBytes c) 128) then t.cp.cfgPending = some (wordsOf (s.bufBytes c) 128) ∧ answered t c 0 1
       else t.cp.cfgPending = s.cp.cfgPending ∧ answered t c 2 0)) ∧
  (∀ (c : Cmd) (s : State), s.passes specConfigRead c = true → 1024 ≤ s.bufLen c → bitOf c.e.p0 0 = false →
    ∃ t, exec (.configRead c) s = .next t ∧ answeredOut t c 0 1024 (wordsLe (s.cfgInForce.map (·.toNat)))) ∧
  (∀ (c : Cmd) (s : State) (r : List Word), s.passes specConfigRead c = true → 1024 ≤ s.bufLen c → bitOf c.e.p0 0 = true →
    s.cp.cfgPending = some r →
    ∃ t, exec (.configRead c) s = .next t ∧ answeredOut t c 0 1024 (wordsLe (r.map (·.toNat)))) ∧
  (∀ (c : Cmd) (s : State) (n o : Nat), s.passes specJnsCreate c = true → c.e.p0 ≠ 0 → (∀ j ∈ s.cp.jns, j.owner ≠ c.e.polder) →
    s.jnsFree = some n → s.jnsGap c.e.p0 = some o →
    ∃ t, exec (.jnsCreate c) s = .next t ∧ answered t c 0 n ∧ t.jnsOf n ≠ none) ∧
  (∀ (c : Cmd) (s : State) (j : Jns), s.passes specJnsDelete c = true → s.jnsOf c.e.nsid = some j →
    s.jnsWriting j.nsid = false →
    ∃ t, exec (.jnsDelete c) s = .next t ∧ answered t c 0 0 ∧ t.jnsOf c.e.nsid = none ∧
      ∀ i, i < j.mib * 0x100000 → memByte t.cp.keep (journalBase + j.off * 0x100000 + i) = 0) ∧
  (∀ (c : Cmd) (s : State) (j : Jns) (a : Nat), s.passes (specJournal true) c = true → s.jnsFor c = some j → c.e.p0 % 512 = 0 →
    s.bufLen c % 512 = 0 → c.e.p0 + s.bufLen c ≤ j.mib * 0x100000 → s.progress c = 0 →
    a = journalBase + j.off * 0x100000 + c.e.p0 → (blocksOf a (s.bufLen c)).length ≤ 1 →
    ∃ t, exec (.journalWrite c) s = .next t ∧ answered t c 0 0 ∧
      (∀ i, i < (s.bufBytes c).length → some (memByte t.cp.keep (a + i)) = (s.bufBytes c)[i]?) ∧
      ∀ b, (b < a ∨ a + (s.bufBytes c).length ≤ b) → memByte t.cp.keep b = memByte s.cp.keep b) ∧
  (∀ (c : Cmd) (s : State) (j : Jns) (a : Nat), s.passes (specJournal true) c = true → s.jnsFor c = some j → c.e.p0 % 512 = 0 →
    s.bufLen c % 512 = 0 → c.e.p0 + s.bufLen c ≤ j.mib * 0x100000 → s.progress c = 0 →
    a = journalBase + j.off * 0x100000 + c.e.p0 → 1 < (blocksOf a (s.bufLen c)).length →
    ∃ t, exec (.journalWrite c) s = .next t ∧ t.cp.ready = s.cp.ready ∧ t.begun c = true ∧ t.progress c = 1 ∧
      (∀ i, i < (s.bufBytes c).length → (a + i) / 16384 = a / 16384 → some (memByte t.cp.keep (a + i)) = (s.bufBytes c)[i]?) ∧
      ∀ b, b / 16384 ≠ a / 16384 → memByte t.cp.keep b = memByte s.cp.keep b) ∧
  (∀ (c : Cmd) (s : State) (j : Jns) (a : Nat), s.begun c = true → (s.runningOf c).any (·.discard) = false →
    s.jnsFor c = some j → a = journalBase + j.off * 0x100000 + c.e.p0 →
    (blocksOf a (s.bufLen c)).length = s.progress c + 1 →
    ∃ t, exec (.journalWrite c) s = .next t ∧ answered t c 0 0 ∧
      (∀ i, i < (s.bufBytes c).length → (a + i) / 16384 = a / 16384 + s.progress c →
        some (memByte t.cp.keep (a + i)) = (s.bufBytes c)[i]?) ∧
      ∀ b, b / 16384 ≠ a / 16384 + s.progress c → memByte t.cp.keep b = memByte s.cp.keep b) ∧
  (∀ (c : Cmd) (s : State) (j : Jns), s.passes (specJournal false) c = true → s.jnsFor c = some j → c.e.p0 % 512 = 0 →
    s.bufLen c % 512 = 0 → c.e.p0 + s.bufLen c ≤ j.mib * 0x100000 → s.cp.badBlocks = [] →
    ∃ t, exec (.journalRead c) s = .next t ∧
      answeredOut t c 0 0 (memBytes s.cp.keep (journalBase + j.off * 0x100000 + c.e.p0) (s.bufLen c)))

/-- R46 to R49: IDENTIFY kind 0 writes 256 bytes that begin with PKG_ID; GET_LOG 0x05 reports a firmware log of 128 bytes;
GET_FEATURE 0x0001 is the sending source's weights; STATUS_READ reports the package's state word and a core's; the queries
report the tick, PTIME with its discipline, and the head ports. None of them changes a register field, but for
the bytes written to a mailbox source's buffer. -/
def Obligations.QueriesReportState : Prop :=
  (∀ (c : Cmd) (s : State), s.passes specIdentify c = true → bitsOf c.e.p0 3 0 = 0 → c.e.p1 = 0 → 256 ≤ descLen c.e.w3 →
    ∃ t, exec (.identify c) s = .next t ∧ ((∀ p, c.src ≠ .mailbox p) → t.regs = s.regs) ∧
      answeredOut t c 0 256 (wordsLe (s.idPackage (s.srcSecure c.src))) ∧
      (s.idPackage (s.srcSecure c.src)).head? = some (s.word .PKG_ID 0)) ∧
  (∀ (c : Cmd) (s : State), s.passes specGetLog c = true → bitsOf c.e.p0 7 0 = 5 → c.e.p1 = 0 → 128 ≤ s.bufLen c →
    s.srcSecure c.src = true →
    ∃ t, exec (.getLog c) s = .next t ∧ ((∀ p, c.src ≠ .mailbox p) → t.regs = s.regs) ∧
      answeredOut t c 0 (128 + 128 * 2 ^ 64) (logBytes (logOf (s.fwLogEntry 0 ++ s.fwLogEntry 1)).2 0 128)) ∧
  (∀ (c : Cmd) (s : State), s.passes (specQuery 0xFFFF 0) c = true → bitsOf c.e.p0 15 0 = 1 →
    ∃ t, exec (.getFeature c) s = .next t ∧ t.regs = s.regs ∧ answered t c 0 (s.wrr c.src.num).value) ∧
  (∀ (c : Cmd) (s : State), s.passes (specQuery 0xFFFF 0) c = true → 0x210 ≤ bitsOf c.e.p0 15 0 → bitsOf c.e.p0 15 0 < 0x220 →
    s.polder (bitsOf c.e.p0 15 0 - 0x200) = none →
    ∃ t, exec (.getFeature c) s = .next t ∧ t.regs = s.regs ∧ answered t c 3 0) ∧
  (∀ (c : Cmd) (s : State), s.passes (specQuery 0xF 0xFFFFFFFFFFFFFFFF) c = true → bitsOf c.e.p0 3 0 = 0 →
    ∃ t, exec (.statusRead c) s = .next t ∧ t.regs = s.regs ∧ answered t c 0 s.packageWord) ∧
  (∀ (c : Cmd) (s : State), s.passes (specQuery 0xF 0xFFFFFFFFFFFFFFFF) c = true → bitsOf c.e.p0 3 0 = 2 → c.e.p1 < 240 →
    s.srcSecure c.src = true →
    ∃ t, exec (.statusRead c) s = .next t ∧ t.regs = s.regs ∧ answered t c 0 (s.coreWord c.e.p1)) ∧
  (∀ (c : Cmd) (s : State) (v : Polder), s.passes specTickQuery c = true → s.polder c.e.polder = some v →
    ∃ t, exec (.tickQuery c) s = .next t ∧ t.regs = s.regs ∧
      (if v.tickBound && v.everTicked then answered t c 0 (s.get .TK_NOW_NUM c.e.polder % 2 ^ 48 + s.word .TK_EDGE c.e.polder * 2 ^ 64)
       else answered t c 7 0)) ∧
  (∀ (c : Cmd) (s : State), s.passes (specQuery 0 0) c = true →
    ∃ t, exec (.ptimeQuery c) s = .next t ∧ t.regs = s.regs ∧ answered t c 0 (s.now + s.get .PT_CTL_SRC 0 * 2 ^ 64)) ∧
  (∀ (c : Cmd) (s : State), s.passes (specQuery 0 0) c = true →
    ∃ t, exec (.headPresence c) s = .next t ∧ t.regs = s.regs ∧
      answered t c 0 (portMask (fun n => s.get .HP_STAT_LINK (instPort n) != 0) + portMask s.portPresent * 2 ^ 64))

/-- R73: a secure write of RGN_COMMIT with GO replaces all fields of the entry by the staged words at once; with GO 0 it has no
effect, and with a non-secure tag it is refused (R78): RGN_VIOL counts it and the entry stays. -/
def Obligations.RegionCommitReplacesTheEntry : Prop :=
  (∀ (a : Acc) (h : Half) (v : Word) (s : State), a.sec = true → s.lost h = false → bitOf v.toNat 8 = true →
    ∃ t, exec (.rgnCommit a h v) s = .next t ∧
      t.get .RGN_LO_VALID (bitsOf v.toNat 7 0) = bitsOf (s.get .RGN_STAGE_LO_VALUE 0) 0 0 ∧
      t.get .RGN_LO_WORLD (bitsOf v.toNat 7 0) = bitsOf (s.get .RGN_STAGE_LO_VALUE 0) 1 1 ∧
      t.get .RGN_LO_TYPE (bitsOf v.toNat 7 0) = bitsOf (s.get .RGN_STAGE_LO_VALUE 0) 2 2 ∧
      t.get .RGN_LO_IDEMP (bitsOf v.toNat 7 0) = bitsOf (s.get .RGN_STAGE_LO_VALUE 0) 3 3 ∧
      t.get .RGN_LO_BASE (bitsOf v.toNat 7 0) = bitsOf (s.get .RGN_STAGE_LO_VALUE 0) 51 21 ∧
      t.get .RGN_HI_LIMIT (bitsOf v.toNat 7 0) = bitsOf (s.get .RGN_STAGE_HI_VALUE 0) 51 21 ∧
      t.get .RGN_RD_MASK (bitsOf v.toNat 7 0) = bitsOf (s.get .RGN_STAGE_RD_VALUE 0) 31 0 ∧
      t.get .RGN_WR_MASK (bitsOf v.toNat 7 0) = bitsOf (s.get .RGN_STAGE_WR_VALUE 0) 31 0 ∧
      ∀ n, n < 256 → n ≠ bitsOf v.toNat 7 0 → t.get .RGN_LO_VALID n = s.get .RGN_LO_VALID n ∧
        t.get .RGN_LO_BASE n = s.get .RGN_LO_BASE n ∧ t.get .RGN_HI_LIMIT n = s.get .RGN_HI_LIMIT n ∧
        t.get .RGN_RD_MASK n = s.get .RGN_RD_MASK n ∧ t.get .RGN_WR_MASK n = s.get .RGN_WR_MASK n) ∧
  (∀ (a : Acc) (h : Half) (v : Word) (s : State), a.sec = true → s.lost h = false → bitOf v.toNat 8 = false →
    exec (.rgnCommit a h v) s = .next s) ∧
  (∀ (a : Acc) (h : Half) (v : Word) (s : State), a.sec = false →
    ∃ t, exec (.rgnCommit a h v) s = .next t ∧ t.get .RGN_VIOL_COUNT (instH h 0) = min (s.get .RGN_VIOL_COUNT (instH h 0) + 1) (2 ^ 48 - 1) ∧
      ∀ n, t.get .RGN_LO_VALID n = s.get .RGN_LO_VALID n ∧ t.get .RGN_LO_BASE n = s.get .RGN_LO_BASE n)

/-- R60 to R63, R67, R481: POLDER_CREATE makes the polder with the granted cores in ascending order; a taken number is BUSY.
POLDER_ATTACH of a region sets the polder's rights, of the sideband binds it. POLDER_DETACH of a region takes both rights away and
completes once no line of it is to be recalled, of a core waits for its point of rest. POLDER_DELETE of a polder without cores
removes it and completes likewise. The entry point of R146 is written
and RESULT is the previous value. -/
def Obligations.PoldersAreMadeAndChanged : Prop :=
  (∀ (c : Cmd) (s : State) (gs : List Nat), s.passes specPolderCreate c = true → s.bufLen c = 64 →
    s.polDescOk (s.bufWord c) = true → s.polder c.e.polder = none → s.polGrant (s.bufWord c) = (0, gs) →
    ∃ t, exec (.polderCreate c) s = .next t ∧ answered t c 0 gs.length ∧
      ∃ v, t.polder c.e.polder = some v ∧ v.lcpus = gs.map some ∧ v.word0 = BitVec.ofNat 64 (s.bufWord c 0) ∧ v.trigs = 0 ∧ v.fns = 0 ∧ v.encs = 0 ∧ v.frame = none) ∧
  (∀ (c : Cmd) (s : State), s.passes specPolderCreate c = true → s.bufLen c = 64 → s.polDescOk (s.bufWord c) = true →
    s.polder c.e.polder ≠ none →
    ∃ t, exec (.polderCreate c) s = .next t ∧ answered t c 5 0 ∧ t.pols = s.pols) ∧
  (∀ (c : Cmd) (s : State) (v : Polder), s.passes specPolderObj c = true → s.polder c.e.polder = some v → v.deleting = false →
    objKind c = 1 → objNum c < 256 → (c.e.p1 = 1 ∨ c.e.p1 = 3) → s.rgnValid (objNum c) = true →
    (s.flag .RGN_LO_WORLD (objNum c) = false ∨ v.secure = true) → s.rgnOverlaps (objNum c) = false →
    ∃ t, exec (.polderAttach c) s = .next t ∧ answered t c 0 0 ∧
      t.get .RGN_RD_MASK (objNum c) = withBit (s.get .RGN_RD_MASK (objNum c)) c.e.polder true % 2 ^ 32 ∧
      t.get .RGN_WR_MASK (objNum c) = withBit (s.get .RGN_WR_MASK (objNum c)) c.e.polder (c.e.p1 == 3) % 2 ^ 32) ∧
  (∀ (c : Cmd) (s : State) (v : Polder), s.passes specPolderObj c = true → s.polder c.e.polder = some v → v.deleting = false →
    objKind c = 8 → objNum c = 0 → c.e.p1 = 0 → (v.secure = false ∨ s.flag .WORLD_ATTR_SIDEBAND_TRUSTED 0 = true) →
    ∃ t, exec (.polderAttach c) s = .next t ∧ answered t c 0 0 ∧ t.polder c.e.polder = some { v with sideband := true }) ∧
  (∀ (c : Cmd) (s : State) (v : Polder), s.passes specPolderObj c = true → s.polder c.e.polder = some v → v.deleting = false →
    objKind c = 1 → objNum c < 256 → s.holdsRgn c.e.polder (objNum c) = true →
    ∃ t, exec (.polderDetach c) s = .next t ∧ (t.sweeping c = true ∨ answered t c 0 0) ∧
      t.get .RGN_RD_MASK (objNum c) = withBit (s.get .RGN_RD_MASK (objNum c)) c.e.polder false % 2 ^ 32 ∧
      t.get .RGN_WR_MASK (objNum c) = withBit (s.get .RGN_WR_MASK (objNum c)) c.e.polder false % 2 ^ 32) ∧
  (∀ (c : Cmd) (s : State) (v : Polder), s.passes specPolderObj c = true → s.polder c.e.polder = some v → v.deleting = false →
    objKind c = 0 → objNum c < 240 → some (objNum c) ∈ v.lcpus → (s.core (objNum c)).t.leaving = false →
    s.moving (objNum c) = false →
    ∃ t, exec (.polderDetach c) s = .next t ∧ t.cp.ready = s.cp.ready ∧ (t.core (objNum c)).t.leaving = true ∧
      t.polder c.e.polder = some { v with detCmds := v.detCmds ++ [(objNum c, c)] }) ∧
  (∀ (g : GCore) (s : State) (v : Polder) (c : Cmd), s.polder (s.core g).pol = some v → v.detCmds = [(g.val, c)] →
    v.deleting = false → s.atRest g = true → (s.runningOf c).any (·.discard) = false →
    ∃ t, exec (.coreDetachAtRest g) s = .next t ∧ (t.core g).pol = 0 ∧ (t.core g).pow = 3 ∧ answered t c 0 0) ∧
  (∀ (c : Cmd) (s : State) (v : Polder), s.passes specPolderDelete c = true → s.polder c.e.polder = some v →
    v.deleting = false → v.lcpus = [] → s.polHeld c.e.polder v = false → s.berm.migr = [] →
    ∃ t, exec (.polderDelete c) s = .next t ∧ (t.sweeping c = true ∨ answered t c 0 0) ∧ t.polder c.e.polder = none) ∧
  (∀ (c : Cmd) (s : State) (v : Polder), s.passes specSetEntry c = true → s.srcSecure c.src = true →
    s.polder (bitsOf c.e.p0 15 0 - 0x300) = some v → bitOf c.e.p1 0 = false →
    ∃ t, exec (.setEntryPoint c) s = .next t ∧ answered t c 0 v.entryWord ∧
      t.polder (bitsOf c.e.p0 15 0 - 0x300) = some { v with entry := bitsOf c.e.p1 51 2 * 4, start := false })

/-- R80, R81: a secure step takes effect while no polder is tick-bound and is refused otherwise, with STEP_REFUSED set and PTIME
as it was; a phase correction joins what is still to be slewed; a 1PPS edge on the selected input is stamped; the loss of a
selected source sets HOLDOVER and clears SRC_OK, its return the other way; a die's replica is aligned; SLEWING clears once no
remainder is left. -/
def Obligations.PtimeIsDisciplined : Prop :=
  (∀ (a : Acc) (h : Half) (v : Word) (s : State), a.sec = true → s.lost h = false → s.anyTickBound = false →
    ∃ t, exec (.ptStep a h v) s = .next t ∧ t.now = unsigned64 (s.now + signed64 v.toNat) ∧
      t.get .PT_FREQ_VALUE 0 = s.get .PT_FREQ_VALUE 0) ∧
  (∀ (a : Acc) (h : Half) (v : Word) (s : State), a.sec = true → s.lost h = false → s.anyTickBound = true →
    ∃ t, exec (.ptStep a h v) s = .next t ∧ t.now = s.now ∧ t.flag .PT_STAT_STEP_REFUSED 0 = true) ∧
  (∀ (a : Acc) (h : Half) (v : Word) (s : State), a.sec = true → s.lost h = false →
    ∃ t, exec (.ptPhase a h v) s = .next t ∧ t.te.phaseLeft = s.te.phaseLeft + signed64 v.toNat ∧ t.now = s.now ∧
      t.flag .PT_STAT_SLEWING 0 = decide (s.te.phaseLeft + signed64 v.toNat ≠ 0)) ∧
  (∀ (h : Half) (s : State), s.get .PT_CTL_PPS_HALF 0 = h → s.lost h = false →
    ∃ t, exec (.ppsEdge h) s = .next t ∧ t.get .PT_PPS_STAMP 0 = s.now % 2 ^ 64) ∧
  (∀ (h : Half) (s : State), s.get .PT_CTL_PPS_HALF 0 ≠ h ∨ s.lost h = true → exec (.ppsEdge h) s = .next s) ∧
  (∀ (lost : Bool) (s : State), s.get .PT_CTL_SRC 0 ≠ 0 →
    ∃ t, exec (.ptimeSourceLost lost) s = .next t ∧ t.flag .PT_STAT_HOLDOVER 0 = lost ∧ t.flag .PT_STAT_SRC_OK 0 = !lost ∧
      t.get .PT_FREQ_VALUE 0 = s.get .PT_FREQ_VALUE 0 ∧ t.now = s.now) ∧
  (∀ (d : Die) (s : State), ∃ t, exec (.ptimeAlign d) s = .next t ∧ t.diePtime d = unsigned64 s.now) ∧
  (∀ s : State, s.te.phaseLeft = 0 → ∃ t, exec .phaseRemainderAbsorbed s = .next t ∧ t.flag .PT_STAT_SLEWING 0 = false) ∧
  (∀ s : State, s.te.phaseLeft ≠ 0 →
    ∃ t, exec .phaseRemainderAbsorbed s = .next t ∧ t.get .PT_STAT_SLEWING 0 = s.get .PT_STAT_SLEWING 0)

/-- R82 to R84, R87 to R90, R93: an edge is stamped at its PTIME with the next 48-bit number, whether a HOST write or the
polder's own source makes it, and a message to every die of the polder carries them; a descriptor in range is held for its
moment, and its command with it; it takes force 1 ms after acceptance for a polder without ticks, and the command completes with
the number of the first tick; a message of the driving engine leaves no second copy
of its tick; a write of RESUME to a suspended polder and the takeover by the checking engine wait for the next edge; an ENC
source without an edge for 1 s stalls. -/
def Obligations.TicksAreConfiguredAndDelivered : Prop :=
  (∀ (a : Acc) (h : Half) (p : Pol) (s : State) (v : Polder), a.sec = true → s.lost h = false → s.polder p = some v →
    s.tkSource p = 5 → s.get .TK_NOW_STATE p = 1 → (s.ctx p).next = none → (s.ctx p).suspendNext = false →
    (s.ctx p).stall = none → (s.ctx p).first = none → (s.ctx p).stretching = false →
    ∃ t, exec (.hostTick a h p) s = .next t ∧ t.get .TK_NOW_NUM p = (s.get .TK_NOW_NUM p + 1) % 2 ^ 48 ∧
      t.get .TK_EDGE_PTIME p = s.now % 2 ^ 64 ∧
      ∀ d ∈ s.polDies p, ∀ k, (k = 0 ∨ k = 1) → s.lost k = false →
        ∃ m, (d, k, m) ∈ (t.ctx p).msgs ∧ m.num = (s.get .TK_NOW_NUM p + 1) % 2 ^ 48 ∧ m.edge = s.now) ∧
  (∀ (p : Pol) (s : State) (v : Polder) (e : Nat), s.polder p = some v → s.get .TK_NOW_STATE p = 1 →
    (s.ctx p).encFailed = false → s.tkSource p = 2 → s.edgeDue p = some (e, 0) → (s.ctx p).next = none → (s.ctx p).first = none →
    s.masterChans p = [] →
    ∃ t, exec (.tickEdge p none) s = .next t ∧ t.get .TK_NOW_NUM p = (s.get .TK_NOW_NUM p + 1) % 2 ^ 48 ∧
      t.get .TK_EDGE_PTIME p = e % 2 ^ 64 ∧ e = (s.ctx p).anchor + ((s.ctx p).edgeIx + 1) * s.tkPeriod p) ∧
  (∀ (c : Cmd) (s : State) (v : Polder), s.passes specTickConfigure c = true → s.polder c.e.polder = some v → s.bufLen c = 64 →
    tickDescOk v (s.bufWord c) = true → bitsOf (s.bufWord c 0) 2 0 ≠ 1 → bitsOf (s.bufWord c 0) 2 0 ≠ 4 →
    (v.guarded = true → v.frame ≠ none) → (s.ctx c.e.polder).next = none →
    ∃ t, exec (.tickConfigure c) s = .next t ∧ t.cp.ready = s.cp.ready ∧ t.regs = s.regs ∧
      (t.ctx c.e.polder).nextCmd = some c ∧ (t.ctx c.e.polder).next = some ((List.range 6).map (fun i => BitVec.ofNat 64 (s.bufWord c i)), s.now)) ∧
  (∀ (p : Pol) (s : State) (ws : List Word) (t0 : Nat), (s.ctx p).next = some (ws, t0) →
    (s.get .TK_NOW_STATE p = 0 ∨ (s.ctx p).encFailed = true) → t0 + 1000000 ≤ s.now →
    (bitsOf (ws.getD 0 0).toNat 2 0 = 1 → s.guardedCfg = false ∧ s.encBad (bitsOf (ws.getD 0 0).toNat 7 4) = false) →
    (∀ c, (s.ctx p).nextCmd = some c → (s.runningOf c).any (·.discard) = false) →
    ∃ t, exec (.tickConfigTakeEffect p) s = .next t ∧ (t.ctx p).next = none ∧
      t.get .TK_NOW_STATE p = (if bitsOf (ws.getD 0 0).toNat 2 0 = 0 then 0 else 1) ∧
      (t.ctx p).first = some (s.firstNum p (ws.getD 5 0).toNat) ∧
      (∀ c, (s.ctx p).nextCmd = some c → answered t c 0 (s.firstNum p (ws.getD 5 0).toNat)) ∧
      ∀ i, i < 6 → t.get .TK_CFG_WORD (p * 6 + i) = (ws.getD i 0).toNat) ∧
  (∀ (d : Die) (p : Pol) (h : Half) (s : State) (m : TickMsg), (h : Nat) = s.driver p → s.msgTo p d h = some m →
    ∃ t, exec (.tickMessage d p h) s = .next t ∧ ∀ x ∈ (t.ctx p).msgs, x.1 = d.val → x.2.2.num ≠ m.num) ∧
  (∀ (d : Die) (p : Pol) (h : Half) (s : State), (h : Nat) ≠ s.driver p → exec (.tickMessage d p h) s = .next s) ∧
  (∀ (d : Die) (p : Pol) (s : State) (m : TickMsg), s.msgTo p d (1 - s.driver p) = some m → m.fire ≤ s.now + 20 →
    ∃ t, exec (.tickBackupCopy d p) s = .next t ∧ (∀ x ∈ (t.ctx p).msgs, x.1 = d.val → x.2.2.num ≠ m.num) ∧
      t.get .TE_STAT_BACKUP (instH (1 - s.driver p) 0) = min (s.get .TE_STAT_BACKUP (instH (1 - s.driver p) 0) + 1) 65535) ∧
  (∀ (a : Acc) (h : Half) (p : Pol) (s : State), a.sec = true → s.lost h = false → s.get .TK_NOW_STATE p = 2 →
    ∃ t, exec (.tickResume a h p) s = .next t ∧ (t.ctx p).resumeNext = true ∧ t.regs = s.regs) ∧
  (∀ (p : Pol) (cause : TakeoverCause) (s : State) (v : Polder), s.polder p = some v → s.lost (1 - s.driver p) = false →
    s.nextDriver p ≠ 1 - s.driver p →
    ∃ t, exec (.engineTakeover p cause) s = .next t ∧ t.nextDriver p = 1 - s.driver p ∧ t.driver p = s.driver p ∧
      t.regs = s.regs) ∧
  (∀ (p : Pol) (s : State), s.tkSource p = 1 → (s.get .TK_NOW_STATE p = 1 ∨ s.get .TK_NOW_STATE p = 2) →
    max (s.get .TK_EDGE_PTIME p) (s.ctx p).anchor + 1000000000 ≤ s.now →
    ∃ t, exec (.encoderStallTimeout p) s = .next t ∧ t.get .TK_NOW_STATE p = 3 ∧
      (t.ctx p).stall = some (s.get .TK_NOW_STATE p))

/-- R83, R86: a transition of an enabled input that holds as long as FILT asks moves ENC_POS by what its MODE counts, a shorter one
is ignored, an illegal one counts and fails the input; an input that is off or on a lost half decodes nothing; an input that fails
shows its cause and FAILED; a secure write of ENC_CFG takes the fields, and FAILED clears when EN rises. -/
def Obligations.EncodersCountAndFail : Prop :=
  (∀ (e : Fin 16) (a b : Bool) (held : Nat) (s : State) (n : Int), s.lost (e / 8) = false → s.flag .ENC_CFG_EN (instEnc e) = true →
    s.get .ENC_CFG_FILT (instEnc e) ≤ held → s.guardedCfg = false →
    n = encStep (s.get .ENC_CFG_MODE (instEnc e)) (s.encIn e).a (s.encIn e).b a b → n ≠ 0 →
    ∃ t, exec (.encoderCount e a b false held) s = .next t ∧ t.get .ENC_POS_POS (instEnc e) = unsigned64 (s.encPos e + n) ∧
      (t.encIn e).a = a ∧ (t.encIn e).b = b ∧ t.cores = s.cores) ∧
  (∀ (e : Fin 16) (a b z : Bool) (held : Nat) (s : State),
    s.lost (e / 8) = true ∨ s.flag .ENC_CFG_EN (instEnc e) = true ∧ held < s.get .ENC_CFG_FILT (instEnc e) →
    exec (.encoderCount e a b z held) s = .next s) ∧
  (∀ (e : Fin 16) (a b z : Bool) (held : Nat) (s : State), s.lost (e / 8) = false → s.flag .ENC_CFG_EN (instEnc e) = false →
    ∃ t, exec (.encoderCount e a b z held) s = .next t ∧ t.regs = s.regs ∧ (t.encIn e).a = a ∧ (t.encIn e).b = b) ∧
  (∀ (e : Fin 16) (a b : Bool) (held : Nat) (s : State), s.lost (e / 8) = false → s.flag .ENC_CFG_EN (instEnc e) = true →
    s.get .ENC_CFG_FILT (instEnc e) ≤ held → s.get .ENC_CFG_MODE (instEnc e) ≠ 3 →
    a ≠ (s.encIn e).a → b ≠ (s.encIn e).b →
    ∃ t, exec (.encoderCount e a b false held) s = .next t ∧ t.flag .ENC_STAT_ILLEGAL (instEnc e) = true ∧
      t.flag .ENC_STAT_FAILED (instEnc e) = true ∧ t.get .ENC_POS_POS (instEnc e) = s.get .ENC_POS_POS (instEnc e) ∧
      t.get .ENC_STAT_ILLEGAL_CNT (instEnc e) = min (s.get .ENC_STAT_ILLEGAL_CNT (instEnc e) + 1) 65535) ∧
  (∀ (e : Fin 16) (s : State), s.flag .ENC_CFG_EN (instEnc e) = true → s.lost (e / 8) = false →
    ∃ t, exec (.encoderInputFail e .overspeed) s = .next t ∧ t.flag .ENC_STAT_OVERSPEED (instEnc e) = true ∧
      t.flag .ENC_STAT_FAILED (instEnc e) = true) ∧
  (∀ (e : Fin 16) (s : State), s.flag .ENC_CFG_EN (instEnc e) = true → s.lost (e / 8) = false →
    ∃ t, exec (.encoderInputFail e .illegal) s = .next t ∧ t.flag .ENC_STAT_ILLEGAL (instEnc e) = true ∧
      t.flag .ENC_STAT_FAILED (instEnc e) = true ∧
      t.get .ENC_STAT_ILLEGAL_CNT (instEnc e) = min (s.get .ENC_STAT_ILLEGAL_CNT (instEnc e) + 1) 65535) ∧
  (∀ (e : Fin 16) (c : EncFault) (s : State), s.flag .ENC_CFG_EN (instEnc e) = false ∨ s.lost (e / 8) = true →
    exec (.encoderInputFail e c) s = .next s) ∧
  (∀ (a : Acc) (e : Fin 16) (v : Word) (s : State), a.sec = true → s.lost (e / 8) = false →
    s.flag .ENC_CFG_EN (instEnc e) = false → bitOf v.toNat 0 = true →
    ∃ t, exec (.encCfgWrite a e v) s = .next t ∧ t.flag .ENC_CFG_EN (instEnc e) = true ∧
      t.flag .ENC_STAT_FAILED (instEnc e) = false ∧ t.get .ENC_CFG_MODE (instEnc e) = bitsOf v.toNat 2 1 ∧
      t.get .ENC_CFG_FILT (instEnc e) = bitsOf v.toNat 7 4 ∧
      t.get .ENC_CFG_TOL (instEnc e) = bitsOf v.toNat 23 16 ∧ t.get .ENC_POS_POS (instEnc e) = s.get .ENC_POS_POS (instEnc e))

/-- R101 to R107: a program that is not late enters the queue of its output; an entry whose fire PTIME is over drives a pulse
from its edge plus its offset while the output is armed, and is discarded and counted while it is not; arming and disarming
answer the new state; the configuration word of an output is written and the previous one returned; the package slack window
is published when it is long enough, and closes early or at its published PTIME. -/
def Obligations.TriggersFireAndSlackOpens : Prop :=
  (∀ (c : Cmd) (s : State) (p : Nat), s.passes specTrigProgram c = true → s.trigFor c (bitsOf c.e.p0 4 0) = some p →
    s.guardedCfg = false → s.trigUp (bitsOf c.e.p0 4 0) = true → s.released c = false → 100 ≤ bitsOf c.e.p1 31 0 →
    s.trigFull (bitsOf c.e.p0 4 0) = false → s.trigLate p (bitsOf c.e.p0 63 16) (bitsOf c.e.p1 31 0) = none →
    ∃ t, exec (.triggerProgram c) s = .next t ∧ answered t c 0 0 ∧
      t.trigQ (bitsOf c.e.p0 4 0) = s.trigQ (bitsOf c.e.p0 4 0) ++ [(bitsOf c.e.p0 63 16, bitsOf c.e.p1 31 0, none)]) ∧
  (∀ (c : Cmd) (s : State) (p : Nat), s.passes specTrigProgram c = true → s.trigFor c (bitsOf c.e.p0 4 0) = some p →
    s.released c = false → bitsOf c.e.p1 31 0 < 100 →
    ∃ t, exec (.triggerProgram c) s = .next t ∧ answered t c 2 0 ∧ t.te = s.te) ∧
  (∀ (k : Fin 32) (s : State) (p n o e : Nat), s.trigOwner k = some p → s.trigQ k = [(n, o, none)] → s.edgeOf p n = some e →
    s.trigUp k = true → e + o < s.now → s.flag .TRIG_STAT_ARMED (instTrg k) = true → Tbl.get 0 s.te.pulseEnd k ≤ e + o →
    ∃ t, exec (.triggerFire k) s = .next t ∧ t.trigQ k = [] ∧
      t.out = s.out ++ [.pulse k (e + o) (e + o + s.trigWidth k) (s.get .TRIG_CFG_POL (instTrg k))] ∧
      t.get .TRIG_CNT_FIRED (instTrg k) = min (s.get .TRIG_CNT_FIRED (instTrg k) + 1) 65535) ∧
  (∀ (k : Fin 32) (s : State) (p n o e : Nat), s.trigOwner k = some p → s.trigQ k = [(n, o, none)] → s.edgeOf p n = some e →
    s.trigUp k = true → e + o < s.now → s.flag .TRIG_STAT_ARMED (instTrg k) = false →
    ∃ t, exec (.triggerFire k) s = .next t ∧ t.trigQ k = [] ∧ t.out = s.out ∧
      t.get .TRIG_CNT_DISARM_DROP (instTrg k) = min (s.get .TRIG_CNT_DISARM_DROP (instTrg k) + 1) 255) ∧
  (∀ (c : Cmd) (s : State) (p : Nat), s.passes specTrigArm c = true → s.trigFor c (bitsOf c.e.p0 4 0) = some p →
    s.trigUp (bitsOf c.e.p0 4 0) = true →
    ∃ t, exec (.triggerArm c) s = .next t ∧ answered t c 0 1 ∧ t.flag .TRIG_STAT_ARMED (instTrg (bitsOf c.e.p0 4 0)) = true) ∧
  (∀ (c : Cmd) (s : State) (p : Nat), s.passes specTrigArm c = true → s.trigFor c (bitsOf c.e.p0 4 0) = some p →
    s.trigUp (bitsOf c.e.p0 4 0) = true →
    ∃ t, exec (.triggerDisarm c) s = .next t ∧ answered t c 0 0 ∧ t.flag .TRIG_STAT_ARMED (instTrg (bitsOf c.e.p0 4 0)) = false) ∧
  (∀ (c : Cmd) (s : State) (p k : Nat), s.passes specSetTrig c = true → bitsOf c.e.p0 15 0 = 0x100 + k → k < 32 →
    s.trigFor c k = some p → s.guardedCfg = false →
    ∃ t, exec (.setTrigCfg c) s = .next t ∧ answered t c 0 (s.trigCfg k) ∧ t.get .TRIG_CFG_POL (instTrg k) = c.e.p1 % 2 ∧
      t.get .TRIG_CFG_LATE (instTrg k) = c.e.p1 / 2 % 2 ∧ t.get .TRIG_CFG_WIDTH (instTrg k) = c.e.p1 / 256 % 2 ^ 24) ∧
  (∀ (s : State) (c : Nat), s.slackTime = some c →
    ∃ t, exec .slackOpen s = .next t ∧ t.regs = s.regs ∧
      (if s.now + s.get .SLACK_CTL_MIN_NS (instH s.activeHalf 0) ≤ c then t.te.slackOpen = true ∧ t.te.slackClose = some c
       else t.te = s.te)) ∧
  (∀ s : State, ∃ t, exec .slackClose s = .next t ∧ t.te.slackOpen = false ∧ t.te.slackClose = none ∧ t.regs = s.regs) ∧
  (∀ (s : State) (c : Nat), s.te.slackClose = some c →
    ∃ t, exec .slackClosePtime s = .next t ∧ t.regs = s.regs ∧
      if c ≤ s.now then t.te.slackOpen = false ∧ t.te.slackClose = none else t.te = s.te)

/-- R90, R95, R96, R98, R110, R123, R125, R157: a core takes its pending tick at the fire PTIME, with the TK registers showing it,
except one that a late core of a SKIP polder drops, and in a guarded polder the tick is durable only once its record is; TICKDONE
closes the tick or starts its commit, as the TICKWAIT of a guarded core does, TICKABORT discards what it did and commits an empty
tick, and with no tick open TICKDONE and TICKABORT only retire; TICKWAIT waits in C1, and in a tick-free polder writes zero; a tick
still open past its deadline is counted as an overrun and FAULT suspends the polder at the next edge. -/
def Obligations.TicksAreTakenAndClosed : Prop :=
  (∀ (g : GCore) (s : State) (m : TickMsg), s.mayTake g = true → (s.core g).t.backlog = [] → (s.core g).t.pend = some m →
    m.fire ≤ s.diePtime (dieOf g) →
    (s.core g).t.doneAt < m.fire → s.berm.migr = [] →
    ∃ t, exec (.tickTake g) s = .next t ∧ (t.core g).t.isOpen = true ∧ (t.core g).t.durable = !s.coreGuarded g ∧
      (t.core g).t.pend = none ∧ (t.core g).sysOf 0xC10 = BitVec.ofNat 64 m.num ∧
      (t.core g).sysOf 0xC11 = BitVec.ofNat 64 m.edge ∧ (t.core g).sysOf 0xC13 = BitVec.ofNat 64 m.fire) ∧
  (∀ (g : GCore) (s : State) (m : TickMsg), s.mayTake g = true → (s.core g).t.backlog = [] → (s.core g).t.pend = some m →
    m.fire ≤ (s.core g).t.doneAt →
    ∃ t, exec (.tickTake g) s = .next t ∧ (t.core g).t.isOpen = false ∧ (t.core g).t.pend = none ∧
      (t.core g).t.missed = min ((s.core g).t.missed + 1) 65535 ∧
      t.get .TK_EVT_SKIP (s.core g).pol = min (s.get .TK_EVT_SKIP (s.core g).pol + 1) (2 ^ Fld.width .TK_EVT_SKIP - 1)) ∧
  (∀ (g : GCore) (s : State), s.mayTake g = false → exec (.tickTake g) s = .next s) ∧
  (∀ (g : GCore) (s : State), (s.core g).t.isOpen = true → (s.core g).t.durable = false → s.coreGuarded g = true →
    ∃ t, exec (.tickRecordDurable g) s = .next t ∧ (t.core g).t.durable = true ∧
      ((s.core g).intEnabled = false → (s.core g).t.mcHeld = none → (t.core g).t.ints = [] ∧ (t.core g).pc = (s.core g).pc)) ∧
  (∀ (g : GCore) (w : BitVec 32) (s : State), s.canRun g = true → s.wordOk g 0x01 w = true → (s.core g).t.isOpen = true →
    s.coreGuarded g = false → (s.core g).t.catching = false → (s.core g).intEnabled = false → s.berm.wayRet = [] →
    ∃ t, exec (.tickdone g w) s = .next t ∧ (t.core g).t.isOpen = false ∧ (t.core g).pc = (s.core g).pc + 4 ∧
      (t.core g).gpr = (s.core g).gpr) ∧
  (∀ (g : GCore) (w : BitVec 32) (s : State), s.canRun g = true → s.wordOk g 0x01 w = true → (s.core g).t.isOpen = true →
    s.coreGuarded g = true → (s.core g).mb = [] →
    ∃ t, exec (.tickdone g w) s = .next t ∧ (t.core g).t.step = 2 ∧ (t.core g).t.isOpen = true ∧
      (t.core g).pc = (s.core g).pc + 4) ∧
  (∀ (g : GCore) (w : BitVec 32) (s : State), s.canRun g = true → s.wordOk g 0x01 w = true → (s.core g).t.isOpen = false →
    exec (.tickdone g w) s = .next (s.retire g)) ∧
  (∀ (g : GCore) (w : BitVec 32) (s : State), s.canRun g = true → s.wordOk g 0x00 w = true → s.calm g = true →
    s.polTickBound (s.core g).pol = false →
    ∃ t, exec (.tickwait g w) s = .next t ∧ (t.core g).gprOf (wordRd w) = 0 ∧ (t.core g).pc = (s.core g).pc + 4) ∧
  (∀ (g : GCore) (w : BitVec 32) (s : State), s.canRun g = true → s.wordOk g 0x00 w = true →
    s.polTickBound (s.core g).pol = true → s.coreGuarded g = false →
    (s.core g).t.isOpen = false → (s.core g).t.backlog = [] → (s.core g).t.pend = none → (s.core g).intEnabled = false →
    ∃ t, exec (.tickwait g w) s = .next t ∧ (t.core g).t.waiting = true ∧ (t.core g).t.waitRd = some (wordRd w) ∧
      (t.core g).pow = 1 ∧ (t.core g).pc = (s.core g).pc) ∧
  (∀ (g : GCore) (w : BitVec 32) (s : State), s.canRun g = true → s.wordOk g 0x00 w = true →
    s.polTickBound (s.core g).pol = true → s.coreGuarded g = true → (s.core g).mb = [] →
    ∃ t, exec (.tickwait g w) s = .next t ∧ (t.core g).t.step = 2 ∧ (t.core g).pc = (s.core g).pc + 4 ∧
      (t.core g).t.waitRd = some (wordRd w) ∧ (t.core g).gpr = (s.core g).gpr) ∧
  (∀ (g : GCore) (w : BitVec 32) (s : State), s.canRun g = true → s.wordOk g 0x02 w = true → s.inGuarded g = true →
    ∃ t, exec (.tickabort g w) s = .next t ∧ (t.core g).t.aborted = true ∧ (t.core g).t.step = 2 ∧ (t.core g).t.dq = [] ∧
      (t.core g).t.token = none ∧ (t.core g).pc = (s.core g).pc + 4 ∧
      t.get .GD_CNT0_TICKABORT (s.core g).pol = min (s.get .GD_CNT0_TICKABORT (s.core g).pol + 1) 65535) ∧
  (∀ (g : GCore) (w : BitVec 32) (s : State), s.canRun g = true → s.wordOk g 0x02 w = true → (s.core g).t.isOpen = false →
    exec (.tickabort g w) s = .next (s.retire g)) ∧
  (∀ (g : GCore) (s : State), (s.core g).t.isOpen = true → s.coreGuarded g = false → (s.core g).t.step = 0 →
    (s.core g).t.overran = false → (s.core g).t.cur.deadline < s.now → (s.polder (s.core g).pol).any (·.deleting) = false →
    (s.core g).t.catching = false → s.tkPolicy (s.core g).pol = 0 →
    ∃ t, exec (.tickOverrun g) s = .next t ∧ (t.core g).t.overran = true ∧ (t.core g).t.isOpen = true ∧
      (t.ctx (s.core g).pol).suspendNext = true ∧
      t.get .TK_EVT_OVERRUN (s.core g).pol =
        min (s.get .TK_EVT_OVERRUN (s.core g).pol + 1) (2 ^ Fld.width .TK_EVT_OVERRUN - 1)) ∧
  (∀ (g : GCore) (s : State), (s.core g).t.isOpen = false ∨ s.now ≤ (s.core g).t.cur.deadline →
    exec (.tickOverrun g) s = .next s)

/-- R120, R122 to R124, R126 to R131, R135, R140: at the commit point the record stands and the core gives its token up; phase B
ends when no line is tick-dirty, phase C issues only what the cursor has not passed and closes the tick; a snoop parked past
DEFER_LIMIT or a data error aborts a tick that may abort; a faulty core of an unguarded polder leaves its number vacant, one of a
guarded polder is replaced by a berm core that re-runs the tick; SET_GD_CTL writes GD_CTL. -/
def Obligations.CommitsAndFaults : Prop :=
  (∀ (g : GCore) (s : State), (s.core g).t.step = 2 → (s.core g).t.phaseA = [] → (s.core g).t.splitting = false →
    (s.core g).t.first = false → (s.core g).t.catching = false →
    ∃ t, exec (.commitPoint g) s = .next t ∧ (t.core g).t.step = 4 ∧ (t.core g).t.token = none ∧
      ((s.core g).t.token.isSome = true → (∀ n, s.needsToken n = false) → t.flag .GD_STAT_TOKEN_HELD (s.core g).pol = false)) ∧
  (∀ (g : GCore) (s : State), (s.core g).t.step ≠ 2 → exec (.commitPoint g) s = .next s) ∧
  (∀ (g : GCore) (s : State), (s.core g).t.step = 4 → s.tdLines g = [] →
    ∃ t, exec (.phaseBComplete g) s = .next t ∧ (t.core g).t.step = 5 ∧ t.mem = s.mem ∧ t.regs = s.regs) ∧
  (∀ (g : GCore) (s : State), (s.core g).t.step ≠ 4 → exec (.phaseBComplete g) s = .next s) ∧
  (∀ (g : GCore) (s : State), s.berm.replay.find? (fun x => x.old == (g : Nat)) = none → (s.core g).t.step = 5 →
    (s.core g).t.dq.length ≤ s.passed (s.core g).pol (s.core g).lcpu (s.core g).t.cur.num → (s.core g).smpHeld = [] →
    (s.core g).t.splitting = false → (s.core g).t.first = false → s.berm.wayRet = [] → (s.core g).t.backlog = [] →
    (s.core g).t.pend = none →
    ∃ t, exec (.deferredDrain g) s = .next t ∧ (t.core g).t.isOpen = false ∧ (t.core g).t.step = 0 ∧ (t.core g).t.dq = [] ∧
      (t.core g).t.half = ((s.core g).t.half + 1) % 2 ∧ t.mem = s.mem ∧ t.regs = s.regs) ∧
  (∀ (g : GCore) (s : State), s.berm.replay.find? (fun x => x.old == (g : Nat)) = none → (s.core g).t.step ≠ 5 →
    exec (.deferredDrain g) s = .next s) ∧
  (∀ (g : GCore) (la : LineAddr) (m : Msg) (t0 : Nat) (s : State), (s.core g).t.step < 2 → (s.core g).t.token = none →
    (s.core g).t.isOpen = true → (m, t0) ∈ (s.core g).parked → m.la = la → t0 + s.deferLimit (s.core g).pol ≤ s.now →
    ∃ t, exec (.deferLimitExpired g la) s = .next t ∧ (t.core g).t.dq = [] ∧
      (t.core g).t.aborts = (s.core g).t.aborts + 1 ∧
      t.get .GD_CNT0_ABORT_SNOOP (s.core g).pol = min (s.get .GD_CNT0_ABORT_SNOOP (s.core g).pol + 1) 65535) ∧
  (∀ (g : GCore) (la : LineAddr) (s : State), (2 ≤ (s.core g).t.step ∨ (s.core g).t.token.isSome = true) →
    exec (.deferLimitExpired g la) s = .next s) ∧
  (∀ (g : GCore) (syn : Word) (s : State), s.inGuarded g = true → (s.core g).t.step < 4 →
    ∃ t, exec (.coreFaultDetected g .tickDirty syn) s = .next t ∧ t.get .GD_STAT_LAST_CAUSE (s.core g).pol = 3 ∧
      (t.core g).t.aborts = (s.core g).t.aborts + 1 ∧ (t.core g).serv = (s.core g).serv ∧
      t.get .GD_CNT0_ABORT_ERR (s.core g).pol = min (s.get .GD_CNT0_ABORT_ERR (s.core g).pol + 1) 65535) ∧
  (∀ (g : GCore) (syn : Word) (s : State), (s.core g).pol ≠ 0 → (s.core g).serv = 0 → (s.core g).t.leaving = false →
    s.coreGuarded g = false → (s.die (dieOf g)).state = 0 →
    ∃ t, exec (.coreFaultDetected g .residue syn) s = .next t ∧ t.coreOf (s.core g).pol (s.core g).lcpu = none ∧
      (t.core g).serv = 2 ∧ t.get .GD_STAT_VACANT (s.core g).pol = min (s.get .GD_STAT_VACANT (s.core g).pol + 1) 255) ∧
  (∀ (g : GCore) (n : Nat) (syn : Word) (s : State), (s.core g).pol ≠ 0 → (s.core g).serv = 0 → (s.core g).t.leaving = false →
    s.coreGuarded g = true → (s.core g).t.first = false → (s.die (dieOf g)).state = 0 → (s.core g).t.isOpen = true →
    (s.core g).t.token = none → (s.core g).smpHeld = [] → s.coreOf (s.core g).pol (s.core g).lcpu = some g.val →
    s.commitRec (s.core g).pol (s.core g).lcpu ((s.core g).t.half + 1) = none → s.migrFrom g = none →
    s.replacementFor g = some n →
    ∃ t, exec (.coreFaultDetected g .state syn) s = .next t ∧ t.coreOf (s.core g).pol (s.core g).lcpu = some n ∧
      (t.core n).t.recovering = true ∧ (t.core n).t.cur.rerun = true ∧ (t.core n).t.cur.num = (s.core g).t.cur.num ∧
      (t.core g).serv = 2 ∧ t.get .GD_STAT_LAST_CAUSE (s.core g).pol = 2 ∧
      t.get .GD_CNT0_RERUN_FAULT (s.core g).pol = min (s.get .GD_CNT0_RERUN_FAULT (s.core g).pol + 1) 65535) ∧
  (∀ (p : Pol) (l : Byte) (n old : Nat) (s : State), s.coreOf p l.toNat = some n → (s.core n).t.recovering = true →
    (p.val, l.toNat, old) ∈ s.berm.repl → s.berm.replay.any (fun x => x.pol == (p : Nat) && x.lcpu == l.toNat) = false →
    (s.core n).t.cur.rerun = true →
    ∃ t, exec (.replacementReady p l) s = .next t ∧ (t.core n).started = true ∧ (t.core n).pow = 0 ∧
      (t.core n).t.isOpen = true ∧ (t.core n).t.durable = true ∧ (t.core n).t.recovering = false ∧
      (t.core n).sysOf 0xC10 = BitVec.ofNat 64 (s.core n).t.cur.num) ∧
  (∀ (c : Cmd) (p : Nat) (v : Polder) (s : State), s.passes specSetGd c = true → s.srcSecure c.src = true →
    bitsOf c.e.p0 15 0 = 0x200 + p → p < 32 → s.polder p = some v →
    ∃ t, exec (.setGdCtl c) s = .next t ∧ answered t c 0 (s.gdCtl p) ∧ t.get .GD_CTL_DEFER_LIMIT p = c.e.p1 % 2 ^ 20 ∧
      t.get .GD_CTL_CATCHUP p = c.e.p1 / 2 ^ 20 % 8)

/-- R144, R145, R150, R151, R153, R154: a call, a breakpoint, an unknown instruction, a timed-out Device read and an interrupt enter
the level that takes them, with the PC to return to in XPC, the class and detail in XSYN and the PC at the vector; entry to M makes
the world secure; a guarded core that has ticked holds an interrupt; an exception return goes to the saved level, never above the
current one, and from M takes RWORLD. The K64 layout of STAT is the model's own (log entry 14). -/
def Obligations.ExceptionsEnterAndReturn : Prop :=
  (∀ (g : GCore) (imm : BitVec 16) (s : State), s.canRun g = true → (s.core g).level ≤ 3 →
    ∃ t, exec (.supervisorCall g .call imm) s = .next t ∧ (t.core g).level = max 1 (s.core g).level ∧
      (t.core g).sysOf (bankReg (max 1 (s.core g).level) 1) = (s.core g).pc + 4 ∧
      bitsOf ((t.core g).sysOf (bankReg (max 1 (s.core g).level) 2)).toNat 5 0 = 3 ∧
      bitsOf ((t.core g).sysOf (bankReg (max 1 (s.core g).level) 2)).toNat 39 8 = imm.toNat ∧
      (t.core g).pc = ((s.core g).sysOf (bankReg (max 1 (s.core g).level) 4) &&& ~~~(0xFFF : Word)) +
        (if (s.core g).level = 0 then 0 else 0x100) ∧ (t.core g).gpr = (s.core g).gpr) ∧
  (∀ (g : GCore) (imm : BitVec 16) (s : State), s.canRun g = true → (s.core g).level ≤ 3 →
    ∃ t, exec (.supervisorCall g .breakpoint imm) s = .next t ∧ (t.core g).level = max 1 (s.core g).level ∧
      (t.core g).sysOf (bankReg (max 1 (s.core g).level) 1) = (s.core g).pc ∧
      bitsOf ((t.core g).sysOf (bankReg (max 1 (s.core g).level) 2)).toNat 5 0 = 0x0C ∧
      bitsOf ((t.core g).sysOf (bankReg (max 1 (s.core g).level) 2)).toNat 39 8 = imm.toNat) ∧
  (∀ (g : GCore) (imm : BitVec 16) (s : State), s.canRun g = true → (s.core g).level ≤ 2 →
    ∃ t, exec (.hypervisorCall g imm) s = .next t ∧ (t.core g).level = 2 ∧ (t.core g).sysOf 0x201 = (s.core g).pc + 4 ∧
      bitsOf ((t.core g).sysOf 0x202).toNat 5 0 = 4 ∧ bitsOf ((t.core g).sysOf 0x202).toNat 39 8 = imm.toNat ∧
      (t.core g).sec = (s.core g).sec) ∧
  (∀ (g : GCore) (imm : BitVec 16) (s : State), s.canRun g = true → s.coreSecPol g = true →
    ∃ t, exec (.monitorCall g imm) s = .next t ∧ (t.core g).level = 3 ∧ (t.core g).sec = true ∧
      (t.core g).sysOf 0x301 = (s.core g).pc + 4 ∧ bitsOf ((t.core g).sysOf 0x302).toNat 5 0 = 5) ∧
  (∀ (g : GCore) (imm : BitVec 16) (s : State), s.canRun g = true → s.coreSecPol g = false → (s.core g).level ≤ 1 →
    ∃ t, exec (.monitorCall g imm) s = .next t ∧ (t.core g).level = 1 ∧ (t.core g).sysOf 0x101 = (s.core g).pc ∧
      bitsOf ((t.core g).sysOf 0x102).toNat 5 0 = 0) ∧
  (∀ (g : GCore) (s : State), s.canRun g = true → 1 ≤ (s.core g).level →
    ((s.core g).t.isOpen = true ∨ (s.core g).pend = [] ∧ (s.core g).raises = false) →
    ∃ t, exec (.exceptionReturn g) s = .next t ∧
      (t.core g).level = min (((s.core g).sysOf (bankReg (s.core g).level 0)).toNat % 4) (s.core g).level ∧
      (t.core g).pc = (s.core g).sysOf (bankReg (s.core g).level 1) ∧
      ((s.core g).level ≠ 3 → (t.core g).sec = (s.core g).sec) ∧
      ((s.core g).level = 3 → (t.core g).level < 3 → (t.core g).sec = ((s.core g).sysOf 0xC0A).getLsbD 0)) ∧
  (∀ (g : GCore) (s : State), s.canRun g = true → (s.core g).level = 0 →
    ∃ t, exec (.exceptionReturn g) s = .next t ∧ (t.core g).level = 1 ∧ (t.core g).sysOf 0x101 = (s.core g).pc ∧
      bitsOf ((t.core g).sysOf 0x102).toNat 5 0 = 1) ∧
  (∀ (g : GCore) (s : State), s.canRun g = true → s.calm g = true →
    ∃ t, exec (.k64Halt g) s = .next t ∧ (t.core g).pow = 1 ∧ (t.core g).pc = (s.core g).pc + 4 ∧
      (t.core g).gpr = (s.core g).gpr) ∧
  (∀ (g : GCore) (m : Miss) (s : State), (s.core g).miss.find? (fun m => (m.kind == 5 || m.kind == 8 && s.rgnDevice m.addr) &&
      decide (m.sent + 1000000 ≤ s.now)) = some m →
    (s.coreGuarded g = true → (s.core g).t.isOpen = true ∧ (s.core g).t.step = 0) →
    ∃ t, exec (.deviceReadTimeout g) s = .next t ∧ (t.core g).miss = (s.core g).miss.erase m ∧
      (t.core g).level = (if s.coreSecPol g then 3 else 2) ∧
      (t.core g).sysOf (bankReg (if s.coreSecPol g then 3 else 2) 1) = (s.core g).pc ∧
      bitsOf ((t.core g).sysOf (bankReg (if s.coreSecPol g then 3 else 2) 2)).toNat 5 0 = 0x1C ∧
      bitsOf ((t.core g).sysOf (bankReg (if s.coreSecPol g then 3 else 2) 2)).toNat 39 8 = 3) ∧
  (∀ (p : Pol) (l : Byte) (id : BitVec 16) (g : Nat) (s : State), s.coreOf p l.toNat = some g → id.toNat < 0x11 →
    ((s.core g).t.isOpen = true ∨ s.coreGuarded g = true ∧ (s.core g).t.first = false) →
    ∃ t, exec (.interrupt p l id) s = .next t ∧ id.toNat ∈ (t.core g).pend ∧ (t.core g).pc = (s.core g).pc ∧
      (t.core g).level = (s.core g).level) ∧
  (∀ (p : Pol) (l : Byte) (id : BitVec 16) (g : Nat) (s : State), s.coreOf p l.toNat = some g → id.toNat < 0x11 →
    (s.core g).t.isOpen = false → (s.core g).t.step = 0 → (s.core g).t.recovering = false → (s.core g).started = true →
    (s.core g).serv = 0 → (s.core g).pow ≠ 3 → (s.core g).syncing = false → (s.core g).miss.any Miss.blocks = false →
    (s.coreGuarded g = true → (s.core g).t.first = true) → (s.core g).intEnabled = true → (s.core g).pend = [] →
    ∃ t, exec (.interrupt p l id) s = .next t ∧ (t.core g).level = 1 ∧ (t.core g).sysOf 0x101 = (s.core g).pc ∧
      bitsOf ((t.core g).sysOf 0x102).toNat 5 0 = 0x18 ∧ bitsOf ((t.core g).sysOf 0x102).toNat 39 8 = id.toNat ∧
      (t.core g).pow = 0 ∧ (t.core g).t.waiting = false)

/-- R143, R147 to R149, R158, R168 to R171, R441, R443: MFSR and RDPKR put a system register into a general register, MTSR writes
one with its reserved fields zero, a counter as it counts, an access the level does not allow raises class 0x02 with no other
effect, and g0 stays zero; CTXKEY is written or drawn afresh; CNT_CTL.CLR clears every counter; a branch that resolves as predicted
leaves the younger ones in flight, a mispredicted one drops them, restores its checkpoint and goes to the correct path; a FAST_CLOCK
core moves one step of 100 MHz within its bounds. -/
def Obligations.SystemRegistersAndPrediction : Prop :=
  (∀ (g : GCore) (rd : Fin 32) (n : BitVec 12) (s : State), s.canRun g = true → s.calm g = true →
    (isMReg n.toNat = true → s.coreSecPol g = true) →
    sysReadLevel n.toNat (((s.core g).sysOf 0xC22).getLsbD 1) ≤ (s.core g).level →
    ∃ t, exec (.mfsr g rd n) s = .next t ∧ (t.core g).gprOf rd = (if rd = 0 then 0 else s.sysRead g n.toNat) ∧
      (t.core g).pc = (s.core g).pc + 4 ∧ ∀ r, r ≠ rd.val → (t.core g).gprOf r = (s.core g).gprOf r) ∧
  (∀ (g : GCore) (rd : Fin 32) (n : BitVec 12) (s : State), s.canRun g = true → isMReg n.toNat = false → (s.core g).level ≤ 3 →
    (s.core g).level < sysReadLevel n.toNat (((s.core g).sysOf 0xC22).getLsbD 1) →
    ∃ t, exec (.mfsr g rd n) s = .next t ∧ (t.core g).level = max 1 (s.core g).level ∧ (t.core g).gpr = (s.core g).gpr ∧
      (t.core g).sysOf (bankReg (max 1 (s.core g).level) 1) = (s.core g).pc ∧
      bitsOf ((t.core g).sysOf (bankReg (max 1 (s.core g).level) 2)).toNat 5 0 = 2 ∧
      bitsOf ((t.core g).sysOf (bankReg (max 1 (s.core g).level) 2)).toNat 20 8 = n.toNat) ∧
  (∀ (g : GCore) (n : BitVec 12) (rs : Fin 32) (s : State), s.canRun g = true →
    ((s.core g).t.isOpen = true ∨ (s.core g).pend = [] ∧ (s.core g).raises = false) →
    (isMReg n.toNat = true → s.coreSecPol g = true) →
    sysWriteLevel n.toNat ≤ (s.core g).level → n.toNat < 0xC20 → n.toNat ≠ 0xC16 → n.toNat ≠ 0xC02 →
    ∃ t, exec (.mtsr g n rs) s = .next t ∧ (t.core g).pc = (s.core g).pc + 4 ∧
      (t.core g).sysOf n.toNat =
        BitVec.ofNat 64 (((s.core g).gprOf rs).toNat &&& sysMask n.toNat (s.coreSecPol g) (s.core g).level) ∧
      (∀ m, m < 0xC20 → m ≠ n.toNat → (t.core g).sysOf m = (s.core g).sysOf m) ∧ (t.core g).gpr = (s.core g).gpr) ∧
  (∀ (g : GCore) (n : BitVec 12) (rs : Fin 32) (s : State), s.canRun g = true → s.calm g = true →
    sysWriteLevel n.toNat ≤ (s.core g).level → countersWritten n.toNat 0 = [n.toNat] →
    ∃ t, exec (.mtsr g n rs) s = .next t ∧ (t.core g).pc = (s.core g).pc + 4 ∧ (t.core g).gpr = (s.core g).gpr ∧
      (t.core g).sysOf n.toNat =
        BitVec.ofNat 64 (((s.core g).gprOf rs).toNat &&& sysMask n.toNat (s.coreSecPol g) (s.core g).level)) ∧
  (∀ (g : GCore) (rs : Fin 32) (s : State), s.canRun g = true → s.calm g = true → 1 ≤ (s.core g).level →
    ∃ t, exec (.ctxkeyWrite g rs) s = .next t ∧ (t.core g).sysOf 0xC01 = (s.core g).gprOf rs ∧
      (t.core g).flight = [] ∧ (t.core g).pc = (s.core g).pc + 4) ∧
  (∀ (g : GCore) (rs : Fin 32) (s : State), s.canRun g = true → s.calm g = true → 1 ≤ (s.core g).level →
    ∃ t, exec (.ctxrndDraw g rs) s = .next t ∧ (t.core g).pc = (s.core g).pc + 4 ∧
      (t.core g).sysOf 0xC01 = if ((s.core g).gprOf rs).getLsbD 0 then s.fresh else (s.core g).sysOf 0xC01) ∧
  (∀ (g : GCore) (w : BitVec 32) (s : State), s.canRun g = true → s.wordOk g 0x04 w = true → s.calm g = true →
    ∃ t, exec (.rdpkr g w) s = .next t ∧ (t.core g).gprOf (wordRd w) = (if wordRd w = 0 then 0 else (s.core g).sysOf 0xC00) ∧
      (t.core g).pc = (s.core g).pc + 4) ∧
  (∀ (g : GCore) (w : BitVec 32) (s : State), s.canRun g = true → s.wordOk g 0x05 w = true → s.calm g = true →
    ∃ t, exec (.wrpkr g w) s = .next t ∧ (t.core g).sysOf 0xC00 = (s.core g).gprOf (wordRs1 w) &&& 0xFFFFFFFF ∧
      (t.core g).pc = (s.core g).pc + 4 ∧ (t.core g).gpr = (s.core g).gpr) ∧
  (∀ (g : GCore) (rs : Fin 32) (s : State), s.canRun g = true → s.calm g = true → 1 ≤ (s.core g).level →
    ((s.core g).gprOf rs).getLsbD 3 = true →
    ∃ t, exec (.cntClr g rs) s = .next t ∧ (t.core g).pc = (s.core g).pc + 4 ∧ ∀ n ∈ counterRegs, (t.core g).sysOf n = 0) ∧
  (∀ (g : GCore) (kind : BranchKind) (taken : Bool) (target : Word) (wrong : List (Bool × Word)) (s : State),
    s.canRun g = true → s.calm g = true → (s.core g).flight = [] →
    ∃ t, exec (.branchMispredict g [((s.core g).pc, kind)] taken target wrong) s = .next t ∧
      (t.core g).pc = (if taken then target else (s.core g).pc + 4) ∧ (t.core g).flight = [] ∧
      (t.core g).retHist = histPush (s.core g).retHist taken) ∧
  (∀ (g : GCore) (b : Flight) (rest : List Flight) (wrong : List (Bool × Word)) (s : State), s.canRun g = true →
    s.calm g = true → (s.core g).flight = b :: rest → b.pc = (s.core g).pc →
    ∃ t, exec (.branchMispredict g [] b.taken b.target wrong) s = .next t ∧ (t.core g).flight = rest ∧
      (t.core g).pc = (if b.taken then b.target else b.pc + 4) ∧ (t.core g).hist = (s.core g).hist) ∧
  (∀ (g : GCore) (b : Flight) (rest : List Flight) (taken : Bool) (target : Word) (wrong : List (Bool × Word)) (s : State),
    s.canRun g = true → s.calm g = true → (s.core g).flight = b :: rest → b.pc = (s.core g).pc →
    (b.taken ≠ taken ∨ taken = true ∧ b.target ≠ target) →
    ∃ t, exec (.branchMispredict g [] taken target wrong) s = .next t ∧ (t.core g).flight = [] ∧
      (t.core g).pc = (if taken then target else b.pc + 4) ∧ (t.core g).hist = histPush b.ck.hist taken) ∧
  (∀ (g : GCore) (up : Bool) (v : Polder) (s : State), s.polder (s.core g).pol = some v → v.fastClock = true →
    (up = true → s.mhzHeld (dieOf g) (min (((s.core g).sysOf 0xC09).toNat % 65536 + 100) 3400) = true) →
    ∃ t, exec (.coreFrequencyStep g up) s = .next t ∧
      ((t.core g).sysOf 0xC09).toNat =
        (if up then min (((s.core g).sysOf 0xC09).toNat % 65536 + 100) 3400 else max (((s.core g).sysOf 0xC09).toNat % 65536 - 100) 2800)) ∧
  (∀ (g : GCore) (up : Bool) (v : Polder) (s : State), s.polder (s.core g).pol = some v → v.fastClock = false →
    exec (.coreFrequencyStep g up) s = .next s)

/-- R70 to R75, R116 to R118, R151, R152, R180, R408 to R410: a load takes its bytes from the merging buffer, else from its line,
and zero from a refused address; a store enters the merging buffer; a Device store of an open guarded tick is deferred and a Device
read or atomic that R116 refuses raises a guard violation; a misaligned Device access or atomic raises class 0x0B; an atomic answers
the old value; BAR0 reads and writes the queue registers of a function, BAR4 reads its MSI-X table, the ROM its image. The state `s`
is the one after the translation of the address (`u` before it). -/
def Obligations.AccessesOfACore : Prop :=
  (∀ (g : GCore) (rd : Fin 32) (va : Word) (size : Fin 7) (pa : Nat) (u s : State), u.canRun g = true →
    u.translate g va.toNat .load = .ok s pa false → s.deviceType pa false = false → pa % 64 + 2 ^ size.val ≤ 64 →
    s.coreRefused g pa false = none → (s.core g).mbLost = [] → s.calm g = true →
    mbCovers (s.core g).mb (pa / 64) (pa % 64) (2 ^ size.val) = true →
    ∃ t, exec (.load g .data rd va size .none) u = .next t ∧ (t.core g).pc = (s.core g).pc + 4 ∧
      (size ≤ 3 → (t.core g).gprOf rd = if rd = 0 then 0 else
        loadValue size (lineRead (mbOver (s.core g).mb (pa / 64) 0) (pa % 64) (2 ^ size.val))) ∧
      (3 < size → (t.core g).vrOf rd = vecValue size (loadBytes (mbOver (s.core g).mb (pa / 64) 0) 0 (pa % 64) (2 ^ size.val)))) ∧
  (∀ (g : GCore) (rd : Fin 32) (va : Word) (size : Fin 7) (pa : Nat) (l : CLine) (u s : State), u.canRun g = true →
    u.translate g va.toNat .load = .ok s pa false → s.deviceType pa false = false → pa % 64 + 2 ^ size.val ≤ 64 →
    s.coreRefused g pa false = none → (s.core g).mbLost = [] → s.calm g = true →
    mbCovers (s.core g).mb (pa / 64) (pa % 64) (2 ^ size.val) = false → s.l2 g (pa / 64) = some l → l.poison = false →
    ∃ t, exec (.load g .data rd va size .none) u = .next t ∧ (t.core g).pc = (s.core g).pc + 4 ∧
      (size ≤ 3 → (t.core g).gprOf rd = if rd = 0 then 0 else
        loadValue size (lineRead (mbOver (s.core g).mb (pa / 64) l.data) (pa % 64) (2 ^ size.val))) ∧
      (3 < size →
        (t.core g).vrOf rd = vecValue size (loadBytes (mbOver (s.core g).mb (pa / 64) l.data) 0 (pa % 64) (2 ^ size.val)))) ∧
  (∀ (g : GCore) (rd : Fin 32) (va : Word) (size : Fin 7) (pa : Nat) (v u s : State), u.canRun g = true →
    u.translate g va.toNat .load = .ok s pa false → s.deviceType pa false = false → pa % 64 + 2 ^ size.val ≤ 64 →
    s.calm g = true → s.coreRefused g pa false = some v →
    ∃ t, exec (.load g .data rd va size .none) u = .next t ∧ (t.core g).pc = (s.core g).pc + 4 ∧
      (size ≤ 3 → (t.core g).gprOf rd = 0) ∧ (3 < size → (t.core g).vrOf rd = 0) ∧
      (t.core g).l1d = (s.core g).l1d ∧ (t.core g).l2 = (s.core g).l2 ∧ t.mem = s.mem) ∧
  (∀ (g : GCore) (rd : Fin 32) (va : Word) (size : Fin 7) (pa : Nat) (dev : Bool) (err : CacheErr) (u s : State),
    u.canRun g = true → (s.core g).level ≤ 3 → u.translate g va.toNat .load = .ok s pa dev → s.deviceType pa dev = true →
    va.toNat % 2 ^ size.val = 0 → s.inGuarded g = true → s.idempRead g pa = false →
    ∃ t, exec (.load g .data rd va size err) u = .next t ∧ (t.core g).gpr = (s.core g).gpr ∧
      (t.core g).level = max 1 (s.core g).level ∧
      (t.core g).pc = ((s.core g).sysOf (bankReg (max 1 (s.core g).level) 4) &&& ~~~(0xFFF : Word)) + 0x600 ∧
      bitsOf ((t.core g).sysOf (bankReg (max 1 (s.core g).level) 2)).toNat 5 0 = 0x10 ∧
      bitsOf ((t.core g).sysOf (bankReg (max 1 (s.core g).level) 2)).toNat 39 8 = 1 ∧
      t.get .GD_CNT1_DEV_READ (s.core g).pol = min (s.get .GD_CNT1_DEV_READ (s.core g).pol + 1) 65535) ∧
  (∀ (g : GCore) (va : Word) (size : Fin 7) (rs : Fin 32) (ordered : Bool) (pa : Nat) (u s : State), u.canRun g = true →
    (u.core g).mb = [] → u.translate g va.toNat .store = .ok s pa false → s.deviceType pa false = false →
    pa % 64 + 2 ^ size.val ≤ 64 → s.calm g = true → (s.core g).mb = [] →
    ∃ t, exec (.store g va size rs ordered) u = .next t ∧ (t.core g).pc = (s.core g).pc + 4 ∧
      (t.core g).mb = [⟨pa / 64, maskOf (pa % 64) (2 ^ size.val),
        lineMerge 0 (BitVec.ofNat 512 ((u.core g).storeVal rs size % 2 ^ (8 * 2 ^ size.val) * 2 ^ (8 * (pa % 64))))
          (maskOf (pa % 64) (2 ^ size.val)), s.now, decide (size = 6), false⟩] ∧ t.mem = s.mem ∧ (t.core g).l2 = (s.core g).l2) ∧
  (∀ (g : GCore) (va : Word) (size : Fin 7) (rs : Fin 32) (pa : Nat) (dev : Bool) (u s : State), u.canRun g = true →
    u.translate g va.toNat .store = .ok s pa dev → s.deviceType pa dev = true → va.toNat % 2 ^ size.val = 0 →
    s.inGuarded g = true →
    (s.core g).t.dq.length + (dqEntries pa size ((u.core g).storeVal rs size % 2 ^ (8 * 2 ^ size.val))).length ≤ 64 →
    ∃ t, exec (.store g va size rs false) u = .next t ∧ (t.core g).pc = (s.core g).pc + 4 ∧ t.mem = s.mem ∧
      (t.core g).t.dq = (s.core g).t.dq ++ dqEntries pa size ((u.core g).storeVal rs size % 2 ^ (8 * 2 ^ size.val))) ∧
  (∀ (g : GCore) (va : Word) (size : Fin 7) (rs : Fin 32) (pa : Nat) (dev : Bool) (u s : State), u.canRun g = true →
    u.translate g va.toNat .store = .ok s pa dev → s.deviceType pa dev = true → va.toNat % 2 ^ size.val = 0 →
    s.inGuarded g = true →
    64 < (s.core g).t.dq.length + (dqEntries pa size ((u.core g).storeVal rs size % 2 ^ (8 * 2 ^ size.val))).length →
    ∃ t, exec (.store g va size rs false) u = .next t ∧ (t.core g).pc = (s.core g).pc ∧ (t.core g).t.splitting = true ∧
      (t.core g).t.dq = (s.core g).t.dq ∧
      t.get .GD_CNT1_DQ_OVF (s.core g).pol = min (s.get .GD_CNT1_DQ_OVF (s.core g).pol + 1) 65535) ∧
  (∀ (g : GCore) (rd : Fin 32) (va : Word) (size : Fin 4) (op : AtomicOp) (rs : Fin 32) (pa : Nat) (l : CLine) (u s : State),
    u.canRun g = true → va.toNat % 2 ^ size.val = 0 → pa % 2 ^ size.val = 0 → u.translate g va.toNat .atomic = .ok s pa false →
    s.deviceType pa false = false → s.coreRefused g pa true = none → (s.core g).mb = [] → s.l2 g (pa / 64) = some l →
    l.m = true → l.poison = false → s.inGuarded g = false → s.calm g = true →
    ∃ t, exec (.atomic g rd va size op rs .none) u = .next t ∧ (t.core g).pc = (s.core g).pc + 4 ∧
      (t.core g).gprOf rd = (if rd = 0 then 0 else loadValue size (lineRead l.data (pa % 64) (2 ^ size.val))) ∧
      ∃ n, t.l2 g (pa / 64) = some n ∧ n.dirty = true ∧
        n.data = lineMerge l.data (lineOf (Config.atomicResult op.toNat (2 ^ size.val)
          (lineRead l.data (pa % 64) (2 ^ size.val)) ((u.core g).gprOf rs)) (pa % 64) (2 ^ size.val))
          (maskOf (pa % 64) (2 ^ size.val))) ∧
  (∀ (g : GCore) (rd : Fin 32) (va : Word) (size : Fin 4) (op : AtomicOp) (rs : Fin 32) (err : CacheErr) (s : State),
    s.canRun g = true → (s.core g).level ≤ 3 → va.toNat % 2 ^ size.val ≠ 0 →
    ∃ t, exec (.atomic g rd va size op rs err) s = .next t ∧ (t.core g).gpr = (s.core g).gpr ∧
      (t.core g).level = max 1 (s.core g).level ∧
      bitsOf ((t.core g).sysOf (bankReg (max 1 (s.core g).level) 2)).toNat 5 0 = 0x0B ∧
      bitsOf ((t.core g).sysOf (bankReg (max 1 (s.core g).level) 2)).toNat 39 8 = size.val + 8) ∧
  (∀ (e : Fin 4) (off : BitVec 20) (data : List Word) (s : State), s.isEndpoint e = true → s.lost (e / 2) = false →
    (s.peSt e).perst = false → (s.cfgHalf e 0x04).testBit 1 = true →
    (off.toNat % 8 ≠ 0 ∨ 0x10000 ≤ off.toNat ∨ bar0Target e off.toNat = none) → data.length ≤ 1 →
    ∃ t, exec (.bar0Access e false .bar0 off data .words) s = .next t ∧ t.out = s.out ++ [.pcieCpl e (data.map fun _ => 0) 0]) ∧
  (∀ (e : Fin 4) (v : Word) (s : State), s.isEndpoint e = true → s.lost (e / 2) = false → (s.peSt e).perst = false →
    (s.cfgHalf e 0x04).testBit 1 = true → s.flag .QRB_CTL_EN (qKey e 0) = false → s.cp.stopping.contains (qKey e 0 / 64) = false →
    ∃ t, exec (.bar0Access e true .bar0 0x18 [v] .words) s = .next t ∧ t.get .ASQ_BASE_BASE (qKey e 0) = bitsOf v.toNat 63 12) ∧
  (∀ (e : Fin 4) (off : BitVec 20) (data : List Word) (s : State), s.isEndpoint e = true → s.lost (e / 2) = false →
    (s.peSt e).perst = false → (s.cfgHalf e 0x04).testBit 1 = true → off.toNat % 8 = 0 →
    ∃ t, exec (.bar0Access e false .bar4 off data .words) s = .next t ∧
      t.out = s.out ++ [.pcieCpl e (s.bar4Words e off.toNat data.length) 0]) ∧
  (∀ (e : Fin 4) (off : BitVec 20) (data : List Word) (s : State), s.isEndpoint e = true → s.lost (e / 2) = false →
    (s.peSt e).perst = false → (s.cfgHalf e 0x04).testBit 1 = true → s.romOn e = true →
    ∃ t, exec (.bar0Access e false .rom off data .words) s = .next t ∧
      t.out = s.out ++ [.pcieCpl e (s.romWords e off.toNat data.length) 0])

/-- R155 to R167, R181 to R183, R187, R195, R200: an added instruction's word of an unknown FUNC or SUB raises class 0x00, one below
its level class 0x01; maintenance cleans or drops the line it names and raises class 0x10 at a tick-dirty one; WLOCK fills its way
line by line, locks it with its last line and answers its status, WUNLOCK and WLQUERY undo and show it; PLACE sends its push or
drops it; a fence retires once what it orders is done; the merging buffer closes and drains its entries in order. The state `s` is
the one after the translation of an address (`u` before it). -/
def Obligations.MaintenanceLocksAndFences : Prop :=
  (∀ (g : GCore) (w : BitVec 32) (s : State), s.canRun g = true → (s.core g).level ≤ 3 → wordMajor w = 0x3B →
    ((addedRow (wordFunc w)).all fun r => !r.fits w) = true →
    ∃ t, exec (.wunlock g w) s = .next t ∧ (t.core g).level = max 1 (s.core g).level ∧ (t.core g).gpr = (s.core g).gpr ∧
      bitsOf ((t.core g).sysOf (bankReg (max 1 (s.core g).level) 2)).toNat 5 0 = 0 ∧
      bitsOf ((t.core g).sysOf (bankReg (max 1 (s.core g).level) 2)).toNat 39 8 = w.toNat) ∧
  (∀ (g : GCore) (w : BitVec 32) (r : AddedRow) (s : State), s.canRun g = true → wordMajor w = 0x3B → wordFunc w = 0x0D →
    addedRow (wordFunc w) = some r → r.fits w = true → (s.core g).level = 0 →
    ∃ t, exec (.wunlock g w) s = .next t ∧ (t.core g).level = 1 ∧ t.l2Locked g = s.l2Locked g ∧
      bitsOf ((t.core g).sysOf 0x102).toNat 5 0 = 1 ∧ bitsOf ((t.core g).sysOf 0x102).toNat 13 8 = 0x0D ∧
      bitsOf ((t.core g).sysOf 0x102).toNat 18 14 = wordSub w ∧ bitsOf ((t.core g).sysOf 0x102).toNat 20 19 = 1) ∧
  (∀ (g : GCore) (w : BitVec 32) (pa : Nat) (l : CLine) (u s : State), u.canRun g = true → u.wordOk g 0x08 w = true →
    wordSub w = 8 → u.translate g ((u.core g).gprOf (wordRs1 w)).toNat .load false = .ok s pa false → inControl pa = false →
    s.rgnDevice pa = false → s.coreRefused g pa false = none → s.calm g = true → s.l2 g (pa / 64) = some l → l.m = true →
    l.dirty = true → l.td = false →
    ∃ t, exec (.cma g w) u = .next t ∧ (t.core g).pc = (s.core g).pc + 4 ∧
      t.l2 g (pa / 64) = some { l with dirty := false } ∧
      ∃ m ∈ t.fabric, m.ty = .writeback ∧ m.la.toNat = pa / 64 % 2 ^ 46 ∧ m.data = l.data) ∧
  (∀ (g : GCore) (w : BitVec 32) (pa : Nat) (l : CLine) (u s : State), u.canRun g = true → u.wordOk g 0x08 w = true →
    wordSub w = 9 → u.translate g ((u.core g).gprOf (wordRs1 w)).toNat .store false = .ok s pa false → inControl pa = false →
    s.rgnDevice pa = false → s.coreRefused g pa true = none → s.calm g = true → s.l2 g (pa / 64) = some l → l.td = false →
    ∃ t, exec (.cma g w) u = .next t ∧ (t.core g).pc = (s.core g).pc + 4 ∧ t.l2 g (pa / 64) = none ∧ t.mem = s.mem) ∧
  (∀ (g : GCore) (w : BitVec 32) (pa : Nat) (u s : State), u.canRun g = true → u.wordOk g 0x08 w = true → wordSub w = 9 →
    1 ≤ (s.core g).level → (s.core g).level ≤ 3 →
    u.translate g ((u.core g).gprOf (wordRs1 w)).toNat .store false = .ok s pa false → inControl pa = false →
    s.rgnDevice pa = false → s.coreRefused g pa true = none → s.inGuarded g = true → s.tdHere g (pa / 64) = true →
    ∃ t, exec (.cma g w) u = .next t ∧ (t.core g).l2 = (s.core g).l2 ∧
      bitsOf ((t.core g).sysOf (bankReg (s.core g).level 2)).toNat 5 0 = 0x10 ∧
      bitsOf ((t.core g).sysOf (bankReg (s.core g).level 2)).toNat 39 8 = 3) ∧
  (∀ (g : GCore) (w : BitVec 32) (s : State), s.canRun g = true → s.wordOk g 0x09 w = true →
    wayLine (s.core g).l2 1024 (bitsOf ((s.core g).gprOf (wordRs1 w)).toNat 13 4) (((s.core g).gprOf (wordRs1 w)).toNat % 16) = none →
    bitsOf ((s.core g).gprOf (wordRs1 w)).toNat 15 14 = 2 → s.inGuarded g = false → exec (.cmsw g w) s = .next (s.retire g)) ∧
  (∀ (g : GCore) (w : BitVec 32) (la : Nat) (s : State), s.canRun g = true → s.wordOk g 0x09 w = true → s.calm g = true →
    wayLine (s.core g).l1d 128 (bitsOf ((s.core g).gprOf (wordRs1 w)).toNat 13 4) (((s.core g).gprOf (wordRs1 w)).toNat % 16) = some la →
    bitsOf ((s.core g).gprOf (wordRs1 w)).toNat 15 14 = 1 → wordSub w ≠ 0 → s.inGuarded g = false →
    ∃ t, exec (.cmsw g w) s = .next t ∧ (t.core g).pc = (s.core g).pc + 4 ∧ Tbl.get none (t.core g).l1d la = none ∧
      (t.core g).l2 = (s.core g).l2) ∧
  (∀ (g : GCore) (w : BitVec 32) (s : State), s.canRun g = true → s.wordOk g 0x0C w = true → (s.core g).fill = none →
    wordSub w ≤ 11 → (s.l2Locked g).testBit (wordSub w) = false → (s.l2Retired g).testBit (wordSub w) = false →
    ((s.core g).gprOf (wordRs1 w)).toNat % 64 = 0 → ((s.core g).gprOf (wordRs2 w)).toNat % 64 = 0 →
    64 ≤ ((s.core g).gprOf (wordRs2 w)).toNat → ((s.core g).gprOf (wordRs2 w)).toNat ≤ 65536 →
    exec (.wlock g w) s = exec (.wlock g w) (s.updCore g fun c => { c with
      fill := some ⟨wordSub w, (c.gprOf (wordRs1 w)).toNat, (c.gprOf (wordRs2 w)).toNat / 64, 0, []⟩ })) ∧
  (∀ (g : GCore) (w : BitVec 32) (f : LockFill) (pa : Nat) (l : CLine) (s : State), s.canGoOn g = true →
    (s.core g).syncing = false → s.wordOk g 0x0C w = true → (s.core g).fill = some f → (s.l2Retired g).testBit f.way = false →
    s.l2On g = true → s.probe g f.va .load = .ok s pa false → inControl pa = false → s.rgnDevice pa = false →
    s.coreRefused g pa false = none → f.sets.contains (pa / 64 % 1024) = false → s.l2 g (pa / 64) = some l →
    (s.l2SetOf g (pa / 64 % 1024)).find? (fun x => x.2.way == f.way) = none → s.calm g = true →
    ∃ t, exec (.wlock g w) s = .next t ∧ t.l2 g (pa / 64) = some { l with way := f.way } ∧
      (f.left ≤ 1 → (t.core g).pc = (s.core g).pc + 4 ∧ (t.core g).fill = none ∧
        (t.core g).gprOf (wordRd w) = (if wordRd w = 0 then 0 else BitVec.ofNat 64 (f.placed + 1)) ∧
        (f.way < 12 → (t.l2Locked g).testBit f.way = true)) ∧
      (1 < f.left → (t.core g).pc = (s.core g).pc ∧ t.l2Locked g = s.l2Locked g ∧
        (t.core g).fill = some ⟨f.way, (f.va + 64) % 2 ^ 64, f.left - 1, f.placed + 1, pa / 64 % 1024 :: f.sets⟩)) ∧
  (∀ (g : GCore) (w : BitVec 32) (f : LockFill) (s : State), s.canGoOn g = true → (s.core g).syncing = false →
    s.wordOk g 0x0C w = true → (s.core g).fill = some f → s.calm g = true →
    ((s.l2Retired g).testBit f.way = true ∨ s.flag .L2_CTL_EN (instC g) = false) →
    ∃ t, exec (.wlock g w) s = .next t ∧ (t.core g).pc = (s.core g).pc + 4 ∧ t.l2Locked g = s.l2Locked g ∧
      (t.core g).l2 = (s.core g).l2 ∧ (t.core g).gprOf (wordRd w) = if wordRd w = 0 then 0 else
        BitVec.ofNat 64 (f.placed + (if (s.l2Retired g).testBit f.way then 1 else 5) * 2 ^ 56)) ∧
  (∀ (g : GCore) (w : BitVec 32) (s : State), s.canRun g = true → s.wordOk g 0x0C w = true → s.calm g = true →
    (11 < wordSub w ∨ (s.l2Locked g).testBit (wordSub w) = true) →
    ∃ t, exec (.wlock g w) s = .next t ∧ (t.core g).gprOf (wordRd w) = (if wordRd w = 0 then 0 else 0x0100000000000000) ∧
      (t.core g).pc = (s.core g).pc + 4 ∧ t.l2Locked g = s.l2Locked g ∧ (t.core g).l2 = (s.core g).l2) ∧
  (∀ (g : GCore) (w : BitVec 32) (s : State), s.canRun g = true → s.wordOk g 0x0D w = true → s.calm g = true →
    s.inGuarded g = false →
    ∃ t, exec (.wunlock g w) s = .next t ∧ (t.core g).pc = (s.core g).pc + 4 ∧ (t.l2Locked g).testBit (wordSub w) = false ∧
      (t.core g).l2 = (s.core g).l2 ∧ ∀ i, i < 12 → i ≠ wordSub w → (t.l2Locked g).testBit i = (s.l2Locked g).testBit i) ∧
  (∀ (g : GCore) (w : BitVec 32) (s : State), s.canRun g = true → s.wordOk g 0x0E w = true → s.calm g = true →
    ∃ t, exec (.wlquery g w) s = .next t ∧ (t.core g).pc = (s.core g).pc + 4 ∧ t.l2Locked g = s.l2Locked g ∧
      (t.core g).gprOf (wordRd w) = if wordRd w = 0 then 0 else BitVec.ofNat 64 (s.l2Locked g ||| s.l2Retired g % 4096)) ∧
  (∀ (g : GCore) (w : BitVec 32) (pa n : Nat) (s : State), s.canRun g = true → s.wordOk g 0x14 w = true → s.calm g = true →
    s.probe g ((s.core g).gprOf (wordRs1 w)).toNat .load = .ok s pa false →
    s.placeTarget g (((s.core g).gprOf (wordRs2 w)).toNat % 256) = some n → inControl pa = false → s.rgnDevice pa = false →
    s.l2 g (pa / 64) = none → s.coreRefused g pa false = none →
    ∃ t, exec (.place g w) s = .next t ∧ (t.core g).pc = (s.core g).pc + 4 ∧
      ∃ x, (t.core g).plPend = (s.core g).plPend ++ [x] ∧ x.msg ∈ t.fabric ∧ x.msg.ty = .placeWrite ∧
        x.msg.la.toNat = pa / 64 % 2 ^ 46 ∧ x.msg.src = coreStop g ∧ x.msg.b.toNat = n / 20 % 2 ^ 18) ∧
  (∀ (g : GCore) (w : BitVec 32) (pa : Nat) (s : State), s.canRun g = true → s.wordOk g 0x14 w = true → s.calm g = true →
    s.probe g ((s.core g).gprOf (wordRs1 w)).toNat .load = .ok s pa false →
    s.placeTarget g (((s.core g).gprOf (wordRs2 w)).toNat % 256) = none →
    ∃ t, exec (.place g w) s = .next t ∧ (t.core g).pc = (s.core g).pc + 4 ∧ t.fabric = s.fabric ∧
      (t.core g).gpr = (s.core g).gpr) ∧
  (∀ (g : GCore) (w : BitVec 32) (s : State), s.canRun g = true → s.wordOk g 0x18 w = true → wordSub w = 0 → s.calm g = true →
    ∃ t, exec (.fenceMb g w) s = .next t ∧ t.mem = s.mem ∧ (t.core g).l2 = (s.core g).l2 ∧
      (if (s.core g).mb = [] then (t.core g).pc = (s.core g).pc + 4
       else (t.core g).pc = (s.core g).pc ∧ ∀ e ∈ (t.core g).mb, e.closed = true)) ∧
  (∀ (g : GCore) (w : BitVec 32) (s : State), s.canRun g = true → s.wordOk g 0x18 w = true → wordSub w = 1 →
    exec (.fenceDev g w) s = .next (s.retire g)) ∧
  (∀ (g : GCore) (w : BitVec 32) (s : State), s.canRun g = true → s.wordOk g 0x18 w = true → wordSub w = 2 →
    exec (.fencePlc g w) s = .next (if (s.core g).plPend = [] then s.retire g else s)) ∧
  (∀ (g : GCore) (w : BitVec 32) (s : State), s.canRun g = true → s.wordOk g 0x18 w = true → wordSub w = 3 →
    (s.core g).cmPend = [] → s.calm g = true →
    ∃ t, exec (.fenceCm g w) s = .next t ∧ (t.core g).pc = (s.core g).pc + 4 ∧ (t.core g).l2 = (s.core g).l2) ∧
  (∀ (g : GCore) (w : BitVec 32) (s : State), s.canRun g = true → s.wordOk g 0x18 w = true → wordSub w = 4 →
    (s.core g).mb = [] → s.calm g = true →
    ∃ t, exec (.fenceI g w) s = .next t ∧ (t.core g).pc = (s.core g).pc + 4 ∧ (t.core g).l1i = [] ∧
      (t.core g).l1d = (s.core g).l1d) ∧
  (∀ (g : GCore) (la : LineAddr) (s : State),
    ∃ t, exec (.mbEntryTimeout g la) s = .next t ∧ t.regs = s.regs ∧
      (∀ e ∈ (s.core g).mb, e.la = la.toNat → e.at_ + s.mbWait g ≤ s.now → { e with closed := true } ∈ (t.core g).mb) ∧
      ∀ e ∈ (s.core g).mb, e.la ≠ la.toNat → e ∈ (t.core g).mb) ∧
  (∀ (g : GCore) (e : MbEnt) (es : List MbEnt) (l : CLine) (s : State), (s.core g).mb = e :: es → s.l2 g e.la = some l →
    l.m = true → s.inGuarded g = false → (s.core g).t.step = 0 →
    ∃ t, exec (.mbDrain g .none) s = .next t ∧ (t.core g).mb = es ∧
      ∃ n, t.l2 g e.la = some n ∧ n.data = lineMerge l.data e.data e.mask ∧ n.dirty = true ∧ n.m = true ∧ n.td = l.td) ∧
  (∀ (g : GCore) (e : MbEnt) (es : List MbEnt) (s : State), (s.core g).mb = e :: es → s.l2 g e.la = none → s.l2On g = true →
    (s.core g).miss = [] → (s.core g).wbs = [] →
    ∃ t, exec (.mbDrain g .none) s = .next t ∧ (t.core g).mb = e :: es ∧
      ∃ m ∈ t.fabric, m.ty = .readOwn ∧ m.la.toNat = e.la % 2 ^ 46 ∧ m.src = coreStop g) ∧
  (∀ (g : GCore) (e : MbEnt) (es : List MbEnt) (s : State), (s.core g).mb = e :: es → s.l2 g e.la = none → s.l2On g = false →
    e.sent = false → e.at_ ≤ s.now →
    ∃ t, exec (.mbDrain g .none) s = .next t ∧ (t.core g).mb = { e with sent := true, closed := true } :: es ∧
      ∃ m ∈ t.fabric, m.ty = .write ∧ m.la.toNat = e.la % 2 ^ 46 ∧ m.mask = e.mask ∧ m.data = e.data)

/-- R195 to R198: clearing EN of L2_CTL or DC_CTL starts a sweep, refused with REFUSED set for a core of a guarded polder or a
die that holds one; the end of a sweep leaves no line, no locked way and EN_STATUS as EN is; DC_MAINT starts an operation
unless one is running, and its end clears BUSY with the line dropped, while a tick-dirty copy defers it. -/
def Obligations.CachesAreSweptAndMaintained : Prop :=
  (∀ (a : Acc) (g : GCore) (v : Word) (s : State), a.sec = true →
    s.unitGone (dieAddr (g / 20) ((g % 20) * 0x1000000 + 0x40000)) = false → bitOf v.toNat 0 = false → s.coreGuarded g = false →
    s.flag .L2_CTL_EN (instC g) = true →
    ∃ t, exec (.l2Disable a g v) s = .next t ∧ t.flag .L2_CTL_EN (instC g) = false ∧ t.flag .L2_STAT_SWEEP (instC g) = true ∧
      t.get .L2_STAT_EN_STATUS (instC g) = s.get .L2_STAT_EN_STATUS (instC g) ∧ t.cores = s.cores) ∧
  (∀ (a : Acc) (g : GCore) (v : Word) (s : State), a.sec = true →
    s.unitGone (dieAddr (g / 20) ((g % 20) * 0x1000000 + 0x40000)) = false → bitOf v.toNat 0 = false → s.coreGuarded g = true →
    ∃ t, exec (.l2Disable a g v) s = .next t ∧ t.get .L2_CTL_EN (instC g) = s.get .L2_CTL_EN (instC g) ∧
      t.flag .L2_STAT_REFUSED (instC g) = true ∧ t.get .L2_STAT_SWEEP (instC g) = s.get .L2_STAT_SWEEP (instC g)) ∧
  (∀ (g : GCore) (s : State), s.flag .L2_STAT_SWEEP (instC g) = true →
    ∃ t, exec (.l2SweepDone g) s = .next t ∧ t.flag .L2_STAT_SWEEP (instC g) = false ∧ t.l2Locked g = 0 ∧
      t.get .L2_STAT_EN_STATUS (instC g) = b2n (s.flag .L2_CTL_EN (instC g)) ∧ ∀ la, t.l2 g la = none) ∧
  (∀ (g : GCore) (s : State), s.flag .L2_STAT_SWEEP (instC g) = false → exec (.l2SweepDone g) s = .next s) ∧
  (∀ (a : Acc) (d : Die) (v : Word) (s : State), a.sec = true → s.unitGone (dieAddr d 0x81000000) = false →
    bitOf v.toNat 0 = false → s.dieGuarded d = false → s.flag .DC_CTL_EN (instD d 0) = true →
    ∃ t, exec (.dcDisable a d v) s = .next t ∧ t.flag .DC_CTL_EN (instD d 0) = false ∧
      t.flag .DC_STAT_SWEEP (instD d 0) = true ∧ t.dies = s.dies) ∧
  (∀ (a : Acc) (d : Die) (v : Word) (s : State), a.sec = true → s.unitGone (dieAddr d 0x81000000) = false →
    bitOf v.toNat 0 = false → s.dieGuarded d = true →
    ∃ t, exec (.dcDisable a d v) s = .next t ∧ t.get .DC_CTL_EN (instD d 0) = s.get .DC_CTL_EN (instD d 0) ∧
      t.flag .DC_STAT_REFUSED (instD d 0) = true) ∧
  (∀ (d : Die) (s : State), s.flag .DC_STAT_SWEEP (instD d 0) = true →
    ∃ t, exec (.dcSweepDone d) s = .next t ∧ t.flag .DC_STAT_SWEEP (instD d 0) = false ∧
      t.get .DC_STAT_EN_STATUS (instD d 0) = b2n (s.flag .DC_CTL_EN (instD d 0)) ∧ ∀ la, t.dc d la = none) ∧
  (∀ (d : Die) (s : State), s.flag .DC_STAT_SWEEP (instD d 0) = false → exec (.dcSweepDone d) s = .next s) ∧
  (∀ (a : Acc) (d : Die) (v : Word) (s : State), a.sec = true → s.unitGone (dieAddr d 0x81000018) = false →
    s.flag .DC_MAINT_BUSY (instD d 0) = true → exec (.dcMaint a d v) s = .next s) ∧
  (∀ (a : Acc) (d : Die) (v : Word) (s : State), a.sec = true → s.unitGone (dieAddr d 0x81000018) = false →
    s.flag .DC_MAINT_BUSY (instD d 0) = false → bitOf v.toNat 23 = true → v.toNat % 4 ≠ 3 → bitsOf v.toNat 6 2 < 20 →
    bitsOf v.toNat 17 7 * 20 + bitsOf v.toNat 6 2 < 32768 → bitsOf v.toNat 22 18 < 16 →
    ∃ t, exec (.dcMaint a d v) s = .next t ∧ t.flag .DC_MAINT_BUSY (instD d 0) = true ∧
      t.get .DC_MAINT_OP (instD d 0) = v.toNat % 4 ∧ t.get .DC_MAINT_SLICE (instD d 0) = bitsOf v.toNat 6 2 ∧
      t.get .DC_MAINT_SET (instD d 0) = bitsOf v.toNat 17 7 ∧ t.get .DC_MAINT_WAY (instD d 0) = bitsOf v.toNat 22 18) ∧
  (∀ (d : Die) (la : Nat) (s : State), s.flag .DC_MAINT_BUSY (instD d 0) = true → s.maintLine d = some la →
    (coresOfDie d).find? (fun n => s.tdHere n la) = none → s.get .DC_MAINT_OP (instD d 0) = 0 →
    ∃ t, exec (.dcMaintDone d) s = .next t ∧ t.flag .DC_MAINT_BUSY (instD d 0) = false ∧ (t.dc d la).isSome = true) ∧
  (∀ (d : Die) (la : Nat) (s : State), s.flag .DC_MAINT_BUSY (instD d 0) = true → s.maintLine d = some la →
    (coresOfDie d).find? (fun n => s.tdHere n la) = none → s.get .DC_MAINT_OP (instD d 0) ≠ 0 →
    ∃ t, exec (.dcMaintDone d) s = .next t ∧ t.flag .DC_MAINT_BUSY (instD d 0) = false ∧ t.dc d la = none ∧
      ∀ g ∈ coresOfDie d, t.l2 g la = none) ∧
  (∀ (d : Die) (la n : Nat) (s : State), s.flag .DC_MAINT_BUSY (instD d 0) = true → s.maintLine d = some la →
    (coresOfDie d).find? (fun n => s.tdHere n la) = some n → (s.core n).parked = [] →
    ∃ t, exec (.dcMaintDone d) s = .next t ∧ t.flag .DC_MAINT_BUSY (instD d 0) = true ∧ t.dc d la = s.dc d la ∧
      (t.core n).parked.map (·.1.la.toNat) = [la % 2 ^ 46] ∧ (t.core n).l2 = (s.core n).l2)

/-- R201 to R209, R211 to R213, R217, R218, R222, R225, R226: a walk fills the TLB with the translation that stage 1 gives, faults
with its stage, level and cause where an entry is not present, and does nothing on a hit; TLBI removes what its form names
here and is on its way to every other core of the polder, TLBSYNC waits for all of them; form 7 is unknown; the translation
registers take their fields and invalidate nothing. -/
def Obligations.TranslationsFillAndGo : Prop :=
  (∀ (g : GCore) (va : Word) (acc : AccKind) (la : LineAddr) (e : TlbEnt) (pa : Nat) (dev : Bool) (s : State),
    s.canRun g = true → s.vaFault g va.toNat = none → s.s1On g = true → s.tlbFind g (firstStr acc) va.toNat = some e →
    s.useEntry g va.toNat acc true e = some (.ok s pa dev) → exec (.pageWalk g va acc la .none) s = .next s) ∧
  (∀ (g : GCore) (va : Word) (la : LineAddr) (pa : Nat) (dev : Bool) (l : Leaf) (tr : Trace) (u s : State), s.canRun g = true →
    (s.core g).tlb = [] → s.s1On g = true → s.walk g va.toNat .load false = .ok pa dev (some l) none tr → tr.used = [] →
    s.fetchLines g tr.lines = (u, none) → pteA l.val = true → va.toNat % 2 ^ slotBits l.val l.level ≤ pa →
    ∃ t, exec (.pageWalk g va .load la .none) s = .next t ∧ t.mem = u.mem ∧
      ∃ e ∈ (t.core g).tlb, e.str = .dtlb ∧ s.tagOk g e = true ∧ e.covers va.toNat = true ∧ e.pa + va.toNat % 2 ^ e.size = pa ∧
        e.perms = tlbPerms l none ∧ e.device = dev) ∧
  (∀ (g : GCore) (va : Word) (la : LineAddr) (f : WFault) (tr : Trace) (u s : State), s.canRun g = true → (s.core g).tlb = [] →
    (s.core g).level ≤ 1 → s.walk g va.toNat .load false = .fault f tr → s.fetchLines g tr.lines = (u, none) → f.stage = 1 →
    f.level < 4 → f.cause = 1 → f.pa = 0 → f.wr = false → f.s1 = 0 →
    ∃ t, exec (.pageWalk g va .load la .none) s = .next t ∧ (t.core g).level = 1 ∧ (t.core g).tlb = [] ∧
      (t.core g).sysOf 0x101 = (s.core g).pc ∧ (t.core g).sysOf 0x103 = va ∧
      bitsOf ((t.core g).sysOf 0x102).toNat 5 0 = 9 ∧ bitsOf ((t.core g).sysOf 0x102).toNat 9 8 = 1 ∧
      bitsOf ((t.core g).sysOf 0x102).toNat 11 10 = f.level ∧ bitsOf ((t.core g).sysOf 0x102).toNat 15 12 = 1) ∧
  (∀ (g : GCore) (w : BitVec 32) (s : State), s.canRun g = true → s.wordOk g 0x10 w = true → s.calm g = true →
    wordSub w = 0x16 →
    ∃ t, exec (.tlbi g w) s = .next t ∧ (t.core g).pc = (s.core g).pc + 4 ∧
      (∀ e ∈ (t.core g).tlb, e.pol ≠ (s.core g).pol) ∧
      (∀ x ∈ (t.core g).tlbiPend, x ∈ (s.core g).tlbiPend ∨ x.dst = g.val) ∧ ∀ k, k ≠ g.val → t.core k = s.core k) ∧
  (∀ (g : GCore) (w : BitVec 32) (v : Polder) (s : State), s.canRun g = true → s.wordOk g 0x10 w = true → s.calm g = true →
    wordSub w = 6 → s.polder (s.core g).pol = some v →
    ∃ t, exec (.tlbi g w) s = .next t ∧ (t.core g).pc = (s.core g).pc + 4 ∧
      ∀ n ∈ v.cores, n ≠ g.val → (s.core n).serv = 0 → (s.core n).pow ≠ 3 →
        ∃ x ∈ (t.core g).tlbiPend, x.dst = n ∧ x.inv.form = 6 ∧ x.done = false) ∧
  (∀ (g : GCore) (w : BitVec 32) (s : State), s.canRun g = true → (s.core g).level ≤ 3 → wordMajor w = 0x3B →
    wordFunc w = 0x10 → wordSub w % 8 = 7 →
    ∃ t, exec (.tlbi g w) s = .next t ∧ (t.core g).tlb = (s.core g).tlb ∧
      bitsOf ((t.core g).sysOf (bankReg (max 1 (s.core g).level) 2)).toNat 5 0 = 0) ∧
  (∀ (g : GCore) (inv : TlbInv) (y : Nat × Core) (x : TlbiPend) (s : State),
    s.cores.find? (fun z => z.2.tlbiPend.any fun x => x.dst == (g : Nat) && x.inv == inv && !x.done && x.reg.pol == (s.core g).pol) =
      some y → y.1 ≠ g.val →
    (s.core y.1).tlbiPend.find? (fun x => x.dst == (g : Nat) && x.inv == inv && !x.done && x.reg.pol == (s.core g).pol) = some x →
    ∃ t, exec (.tlbiBroadcast g inv) s = .next t ∧
      (∀ e ∈ (t.core g).tlb, e ∈ (s.core g).tlb ∧ tlbKills x.reg inv e = false) ∧
      ∃ z ∈ (t.core y.1).tlbiPend, z.dst = g.val ∧ z.inv = inv ∧ z.done = true) ∧
  (∀ (g : GCore) (w : BitVec 32) (s : State), s.canGoOn g = true → (s.core g).fill = none → s.wordOk g 0x11 w = true →
    s.calm g = true → (s.core g).tlbiPend.all s.tlbiDone = true →
    ∃ t, exec (.tlbsync g w) s = .next t ∧ (t.core g).pc = (s.core g).pc + 4 ∧ (t.core g).tlbiPend = [] ∧
      (t.core g).syncing = false) ∧
  (∀ (g : GCore) (w : BitVec 32) (s : State), s.canGoOn g = true → (s.core g).fill = none → s.wordOk g 0x11 w = true →
    (s.core g).tlbiPend.all s.tlbiDone = false →
    ∃ t, exec (.tlbsync g w) s = .next t ∧ (t.core g).pc = (s.core g).pc ∧ (t.core g).syncing = true ∧
      (t.core g).tlbiPend = (s.core g).tlbiPend.filter fun x => !s.tlbiDone x) ∧
  (∀ (g : GCore) (rs : Fin 32) (s : State), s.canRun g = true → s.calm g = true → 1 ≤ (s.core g).level →
    ∃ t, exec (.translationRegWrite g 0x108 rs) s = .next t ∧ (t.core g).pc = (s.core g).pc + 4 ∧
      (t.core g).sysOf 0x108 = (s.core g).gprOf rs &&& 0xFFFF0007 ∧ (t.core g).tlb = (s.core g).tlb) ∧
  (∀ (g : GCore) (rs : Fin 32) (s : State), s.canRun g = true → s.calm g = true → 2 ≤ (s.core g).level →
    ∃ t, exec (.translationRegWrite g 0x207 rs) s = .next t ∧ (t.core g).pc = (s.core g).pc + 4 ∧
      (t.core g).sysOf 0x207 = (s.core g).gprOf rs &&& 0x000FFFFFFFFFF000 ∧ (t.core g).tlb = (s.core g).tlb)

/-- R75, R237, R246 to R251: a message arrives after those sent before it on its network between its two stops; a bank forwards a
read or a write of a line in I to its controller, invalidates the other sharers of an S line for an ownership request, recalls an M
line from its owner, grants a sole sharer's Upgrade at once, and refuses what the region table refuses with zeros or with WriteDone
and no effect; a request inside the hold window waits; RdDone and WrDone end the transaction, and EvictClean takes the die out of
PRES. -/
def Obligations.BanksServeRequests : Prop :=
  (∀ (m : Msg) (s : State), s.mayArrive m = true → s.bankFree m → s.rgnCheck m.pol m.sec false (m.la.toNat * 64) = none →
    s.dirEnt (stopHalf m.dst) m.la.toNat = none → s.wayFree (stopHalf m.dst) m.la.toNat = true →
    ∃ t, exec (.readShared m) s = .next t ∧ t.mem = s.mem ∧
      t.dirEnt (stopHalf m.dst) m.la.toNat = none ∧
      (∃ k, t.trk (stopHalf m.dst) m.la.toNat = some k ∧ k.st = .rd) ∧
      ∃ f ∈ t.fabric, f.ty = .readShared ∧ f.dst = mcStop (stopHalf m.dst) (s.dCh m.la.toNat) ∧ f.la = m.la ∧ f.src = m.src ∧
        f.txid = m.txid ∧ f.a.getLsbD 6 = false) ∧
  (∀ (m : Msg) (k : Nat) (s : State), s.mayArrive m = true → s.bankFree m → s.rgnCheck m.pol m.sec false (m.la.toNat * 64) = some k →
    ∃ t, exec (.readShared m) s = .next t ∧ t.dir = s.dir ∧ t.mem = s.mem ∧
      ∃ f ∈ t.fabric, f.ty = .data ∧ f.dst = m.src ∧ f.txid = m.txid ∧ f.la = m.la ∧ f.data = 0 ∧ f.a.getLsbD 8 = true) ∧
  (∀ (m : Msg) (s : State), s.mayArrive m = true → s.bankFree m → s.rgnCheck m.pol m.sec false (m.la.toNat * 64) = none →
    s.rgnCheck m.pol m.sec true (m.la.toNat * 64) = none →
    s.dirEnt (stopHalf m.dst) m.la.toNat = none → s.wayFree (stopHalf m.dst) m.la.toNat = true →
    ∃ t, exec (.readOwn m) s = .next t ∧
      ∃ f ∈ t.fabric, f.ty = .readOwn ∧ f.dst = mcStop (stopHalf m.dst) (s.dCh m.la.toNat) ∧ f.la = m.la ∧ f.src = m.src ∧
        f.a.getLsbD 6 = true) ∧
  (∀ (m : Msg) (e : DirEnt) (s : State), s.mayArrive m = true → s.bankFree m → s.rgnCheck m.pol m.sec false (m.la.toNat * 64) = none →
    s.rgnCheck m.pol m.sec true (m.la.toNat * 64) = none → s.dirEnt (stopHalf m.dst) m.la.toNat = some e → e.m = false →
    s.inHold e = false → (∃ d ∈ diesOf e.pres, d ≠ msgDie m) →
    ∃ t, exec (.readOwn m) s = .next t ∧ t.dirEnt (stopHalf m.dst) m.la.toNat = some e ∧
      (∃ k, t.trk (stopHalf m.dst) m.la.toNat = some k ∧ k.st = .inv ∧
        k.cnt = ((diesOf e.pres).filter fun d => d != msgDie m).length) ∧
      ∀ d ∈ diesOf e.pres, d ≠ msgDie m →
        ∃ f ∈ t.fabric, f.ty = .invalidate ∧ f.dst = stopId d (dcSlice m.la.toNat) ∧ f.la = m.la) ∧
  (∀ (m : Msg) (e : DirEnt) (s : State), s.mayArrive m = true → s.bankFree m → s.rgnCheck m.pol m.sec false (m.la.toNat * 64) = none →
    s.dirEnt (stopHalf m.dst) m.la.toNat = some e → e.m = true → s.inHold e = false →
    ∃ t, exec (.readShared m) s = .next t ∧
      (∃ k, t.trk (stopHalf m.dst) m.la.toNat = some k ∧ k.st = .dgd) ∧
      ∀ d ∈ diesOf e.pres, ∃ f ∈ t.fabric, f.ty = .downgrade ∧ f.dst = stopId d (dcSlice m.la.toNat) ∧ f.la = m.la) ∧
  (∀ (m : Msg) (e : DirEnt) (s : State), s.mayArrive m = true → s.bankFree m → s.rgnCheck m.pol m.sec false (m.la.toNat * 64) = none →
    s.dirEnt (stopHalf m.dst) m.la.toNat = some e → (e.m = true ∨ ∃ d ∈ diesOf e.pres, d ≠ msgDie m) → s.inHold e = true →
    s.rgnCheck m.pol m.sec true (m.la.toNat * 64) = none → s.waitRoom (stopHalf m.dst) (dirBank m.la.toNat) m = true →
    ∃ t, exec (.readOwn m) s = .next t ∧ t.dirEnt (stopHalf m.dst) m.la.toNat = some e ∧ t.fabric = s.fabric.erase m ∧
      ∃ k, t.trk (stopHalf m.dst) m.la.toNat = some k ∧ k.st = .hold ∧ k.waiters = [({ m with ty := .readOwn }, s.now)]) ∧
  (∀ (m : Msg) (e : DirEnt) (s : State), s.mayArrive m = true → s.bankFree m → s.rgnCheck m.pol m.sec false (m.la.toNat * 64) = none →
    s.rgnCheck m.pol m.sec true (m.la.toNat * 64) = none → s.dirEnt (stopHalf m.dst) m.la.toNat = some e → e.m = false →
    e.pres = 2 ^ msgDie m → msgDie m < 12 →
    ∃ t, exec (.upgrade m) s = .next t ∧
      t.dirEnt (stopHalf m.dst) m.la.toNat = some { e with m := true, gstamp := s.gstamp } ∧
      t.trk (stopHalf m.dst) m.la.toNat = none ∧
      ∃ f ∈ t.fabric, f.ty = .grant ∧ f.dst = m.src ∧ f.la = m.la ∧ f.txid = m.txid ∧ f.a.getLsbD 0 = true) ∧
  (∀ (m : Msg) (s : State), s.mayArrive m = true → s.bankFree m → s.rgnCheck m.pol m.sec true (m.la.toNat * 64) = none →
    s.dirEnt (stopHalf m.dst) m.la.toNat = none →
    ∃ t, exec (.write m) s = .next t ∧ t.dirEnt (stopHalf m.dst) m.la.toNat = none ∧
      (∃ k, t.trk (stopHalf m.dst) m.la.toNat = some k ∧ k.st = .wr) ∧
      ∃ f ∈ t.fabric, f.ty = .write ∧ f.dst = mcStop (stopHalf m.dst) (s.dCh m.la.toNat) ∧ f.la = m.la ∧ f.data = m.data ∧
        f.mask = m.mask) ∧
  (∀ (m : Msg) (k : Nat) (s : State), s.mayArrive m = true → s.bankFree m → s.rgnCheck m.pol m.sec true (m.la.toNat * 64) = some k →
    ∃ t, exec (.write m) s = .next t ∧ t.dir = s.dir ∧ t.mem = s.mem ∧
      ∃ f ∈ t.fabric, f.ty = .completion ∧ f.a = 5 ∧ f.dst = m.src ∧ f.txid = m.txid ∧ f.la = m.la) ∧
  (∀ (m : Msg) (s : State), s.mayArrive m = true → s.bankFree m → m.a.getLsbD 0 = false → s.rgnCheck m.pol m.sec true (m.la.toNat * 64) = none →
    s.dirEnt (stopHalf m.dst) m.la.toNat = none →
    (s.targetMine m = false ∨ m.b.getLsbD 4 = true) →
    ∃ t, exec (.placeWrite m) s = .next t ∧ t.dirEnt (stopHalf m.dst) m.la.toNat = none ∧
      ∃ f ∈ t.fabric, f.ty = .placeWrite ∧ f.dst = mcStop (stopHalf m.dst) (s.dCh m.la.toNat) ∧ f.la = m.la ∧ f.data = m.data ∧
        f.b.getLsbD 4 = true) ∧
  (∀ (m : Msg) (e : DirEnt) (s : State), s.mayArrive m = true → s.bankFree m → m.a.getLsbD 0 = true →
    s.rgnCheck m.pol m.sec false (m.la.toNat * 64) = none → s.dirEnt (stopHalf m.dst) m.la.toNat = some e → e.m = true →
    ∃ t, exec (.placeWrite m) s = .next t ∧ t.dir = s.dir ∧ t.mem = s.mem ∧
      t.get .DIR_CNT1_HINT_DROP (instH (stopHalf m.dst) 0) =
        min (s.get .DIR_CNT1_HINT_DROP (instH (stopHalf m.dst) 0) + 1) (2 ^ Fld.width .DIR_CNT1_HINT_DROP - 1) ∧
      ∃ f ∈ t.fabric, f.ty = .completion ∧ f.a = 7 ∧ f.dst = m.src ∧ f.txid = m.txid) ∧
  (∀ (m : Msg) (e : DirEnt) (s : State), s.mayArrive m = true → s.dirEnt (stopHalf m.dst) m.la.toNat = some e → e.pres.testBit (msgDie m) = true → s.trk (stopHalf m.dst) m.la.toNat = none →
    s.wayWaiters (stopHalf m.dst) m.la.toNat = [] →
    ∃ t, exec (.evictClean m) s = .next t ∧ t.dirEnt (stopHalf m.dst) m.la.toNat =
      (if withBit e.pres (msgDie m) false = 0 then none else some { e with pres := withBit e.pres (msgDie m) false }) ∧
      t.mem = s.mem ∧ t.cores = s.cores) ∧
  (∀ (m : Msg) (s : State), s.mayArrive m = false → exec (.readShared m) s = .next s ∧ exec (.upgrade m) s = .next s ∧
    exec (.write m) s = .next s ∧ exec (.rdDone m) s = .next s) ∧
  (∀ (h : Half) (la : LineAddr) (e : DirEnt) (s : State), s.dirEnt h la.toNat = some e → s.inHold e = true →
    exec (.holdWindowExpired h la) s = .next s) ∧
  (∀ (h : Half) (la : LineAddr) (e : DirEnt) (k : Trk) (m : Msg) (n : Nat) (s : State), s.dirEnt h la.toNat = some e →
    s.inHold e = false → s.trk h la.toNat = some k → k.st = .hold → k.waiters = [(m, n)] → m.ty = .upgrade → m.la = la →
    e.m = false → e.pres = 2 ^ msgDie m → msgDie m < 12 → (s.bankTrks h (dirBank la.toNat)).length < 496 →
    ∃ t, exec (.holdWindowExpired h la) s = .next t ∧ t.trk h la.toNat = none ∧
      ∃ f ∈ t.fabric, f.ty = .grant ∧ f.dst = m.src ∧ f.txid = m.txid) ∧
  (∀ (m r : Msg) (k : Trk) (e : DirEnt) (s : State), s.mayArrive m = true → s.trk (stopHalf m.dst) m.la.toNat = some k → k.st = .rd → k.req = some r →
    k.waiters = [] → r.ty = .readOwn → s.dirEnt (stopHalf m.dst) m.la.toNat = some e →
    s.wayWaiters (stopHalf m.dst) m.la.toNat = [] →
    ∃ t, exec (.rdDone m) s = .next t ∧ t.trk (stopHalf m.dst) m.la.toNat = none ∧
      t.dirEnt (stopHalf m.dst) m.la.toNat = some { e with m := true, pres := 2 ^ msgDie r, gstamp := s.gstamp }) ∧
  (∀ (m r : Msg) (k : Trk) (e : DirEnt) (s : State), s.mayArrive m = true → s.trk (stopHalf m.dst) m.la.toNat = some k → k.st = .rd → k.req = some r →
    k.waiters = [] → r.ty = .readShared → nonCaching r = false → s.dirEnt (stopHalf m.dst) m.la.toNat = some e →
    withBit e.pres (msgDie r) true ≠ 0 → s.wayWaiters (stopHalf m.dst) m.la.toNat = [] →
    ∃ t, exec (.rdDone m) s = .next t ∧ t.trk (stopHalf m.dst) m.la.toNat = none ∧
      t.dirEnt (stopHalf m.dst) m.la.toNat =
        some { e with m := false, pres := withBit e.pres (msgDie r) true, gstamp := s.gstamp }) ∧
  (∀ (m r : Msg) (k : Trk) (s : State), s.mayArrive m = true → s.trk (stopHalf m.dst) m.la.toNat = some k → k.st = .wr → k.req = some r →
    k.waiters = [] → s.wayWaiters (stopHalf m.dst) m.la.toNat = [] →
    ∃ t, exec (.wrDone m) s = .next t ∧ t.trk (stopHalf m.dst) m.la.toNat = none ∧ t.mem = s.mem ∧
      ∃ f ∈ t.fabric, f.ty = .completion ∧ f.a = 5 ∧ f.dst = r.src ∧ f.txid = r.txid)

/-- R191, R248, R250, R253 to R257: a die that holds a line gives it up to an Invalidate or a Recall, a modified copy by a
Writeback first, and keeps it in S at a Downgrade; a Recall of a line the die has no copy of is answered ND; the answers count
down at the bank, and the request goes on when the last is in; a RETRY answer is sent again; the controller's WbAccepted
acknowledges the writer and ends its M, and WbAck frees its pending entry. -/
def Obligations.SnoopsAreAnswered : Prop :=
  (∀ (m : Msg) (s : State), s.mayArrive m = true → s.pushComing m = false → s.snoopFree m →
    ∃ t, exec (.invalidate m) s = .next t ∧ t.mem = s.mem ∧ t.dc (stopUnit m.dst) m.la.toNat = none ∧
      (∀ g ∈ coresOfDie (stopUnit m.dst), t.l2 g m.la.toNat = none) ∧
      ∃ f ∈ t.fabric, f.ty = .invAck ∧ f.dst = m.src ∧ f.la = m.la ∧ f.b = m.b ∧ f.a = 0) ∧
  (∀ (m : Msg) (g : Nat) (l : CLine) (s : State), s.mayArrive m = true → s.pushComing m = false → s.snoopFree m → s.mHolder (stopUnit m.dst) m.la.toNat = some g →
    s.l2 g m.la.toNat = some l → l.dirty = true →
    ∃ t, exec (.recall m) s = .next t ∧ (∀ n ∈ coresOfDie (stopUnit m.dst), t.l2 n m.la.toNat = none) ∧
      (t.core g).wbWaits m.la.toNat = true ∧
      (∃ f ∈ t.fabric, f.ty = .writeback ∧ f.la = m.la ∧ f.data = l.data ∧ f.a.toNat % 4 = 0 ∧ f.src = coreStop g) ∧
      ∃ f ∈ t.fabric, f.ty = .recallAck ∧ f.dst = m.src ∧ f.la = m.la ∧ f.b = m.b ∧ f.a = 0) ∧
  (∀ (m : Msg) (s : State), s.mayArrive m = true → s.pushComing m = false → s.snoopFree m → s.mHolder (stopUnit m.dst) m.la.toNat = none →
    ∃ t, exec (.recall m) s = .next t ∧ t.dc (stopUnit m.dst) m.la.toNat = none ∧
      ∃ f ∈ t.fabric, f.ty = .recallAck ∧ f.dst = m.src ∧ f.la = m.la ∧ f.b = m.b ∧ f.a = 2) ∧
  (∀ (m : Msg) (g : Nat) (l : CLine) (s : State), s.mayArrive m = true → s.pushComing m = false → s.snoopFree m → s.mHolder (stopUnit m.dst) m.la.toNat = some g →
    s.l2 g m.la.toNat = some l → l.dirty = true →
    ∃ t, exec (.downgrade m) s = .next t ∧ t.l2 g m.la.toNat = some { l with m := false, dirty := false } ∧
      (∃ f ∈ t.fabric, f.ty = .writeback ∧ f.la = m.la ∧ f.data = l.data ∧ f.a.toNat % 4 = 2 ∧ f.src = coreStop g) ∧
      ∃ f ∈ t.fabric, f.ty = .recallAck ∧ f.dst = m.src ∧ f.la = m.la ∧ f.b = m.b ∧ f.a = 4) ∧
  (∀ (m : Msg) (g : Nat) (l : CLine) (s : State), s.mayArrive m = true → s.pushComing m = false → s.snoopFree m → s.mHolder (stopUnit m.dst) m.la.toNat = some g →
    s.l2 g m.la.toNat = some l → l.dirty = false →
    ∃ t, exec (.downgrade m) s = .next t ∧ t.l2 g m.la.toNat = some { l with m := false } ∧
      ∃ f ∈ t.fabric, f.ty = .recallAck ∧ f.dst = m.src ∧ f.la = m.la ∧ f.b = m.b ∧ f.a = 6) ∧
  (∀ (m : Msg) (k : Trk) (r : Msg) (s : State), s.mayArrive m = true → s.trk (stopHalf m.dst) m.la.toNat = some k → k.st = .inv → k.req = some r →
    m.b.toNat % 512 = k.id → m.a.getLsbD 3 = false → 1 < k.cnt → k.la = m.la.toNat →
    ∃ t, exec (.invAck m) s = .next t ∧ t.fabric = s.fabric.erase m ∧
      t.trk (stopHalf m.dst) m.la.toNat = some { k with cnt := k.cnt - 1 }) ∧
  (∀ (m : Msg) (k : Trk) (r : Msg) (s : State), s.mayArrive m = true → s.trk (stopHalf m.dst) m.la.toNat = some k → k.st = .inv → k.req = some r →
    m.b.toNat % 512 = k.id → m.a.getLsbD 3 = false → k.cnt = 1 → k.needWb = false → k.la = m.la.toNat → r.ty = .write →
    r.la = m.la →
    ∃ t, exec (.invAck m) s = .next t ∧ t.dirEnt (stopHalf m.dst) m.la.toNat = none ∧
      (∃ n, t.trk (stopHalf m.dst) m.la.toNat = some n ∧ n.st = .wr) ∧
      ∃ f ∈ t.fabric, f.ty = .write ∧ f.dst = mcStop (stopHalf m.dst) (s.dCh m.la.toNat) ∧ f.la = m.la ∧ f.data = r.data) ∧
  (∀ (m : Msg) (k : Trk) (s : State), s.mayArrive m = true → s.trk (stopHalf m.dst) m.la.toNat = some k → k.st = .inv → m.b.toNat % 512 = k.id →
    m.a.getLsbD 3 = true → k.la = m.la.toNat →
    ∃ t, exec (.invAck m) s = .next t ∧
      t.trk (stopHalf m.dst) m.la.toNat = some { k with retry := k.retry ++ [(msgDie m, s.now)] }) ∧
  (∀ (m : Msg) (k : Trk) (r : Msg) (s : State), s.mayArrive m = true → s.trk (stopHalf m.dst) m.la.toNat = some k → k.st = .rcl → k.req = some r →
    k.la = m.la.toNat → m.b.toNat % 512 = k.id → m.a.getLsbD 3 = false → k.cnt = 1 → m.a.getLsbD 1 = false → k.wbIn = false →
    ∃ t, exec (.recallAck m) s = .next t ∧ t.fabric = s.fabric.erase m ∧
      ∃ n, t.trk (stopHalf m.dst) m.la.toNat = some n ∧ n.st = .rcl ∧ n.cnt = 0 ∧ n.needWb = true) ∧
  (∀ (m : Msg) (k : Trk) (r : Msg) (s : State), s.mayArrive m = true → s.trk (stopHalf m.dst) m.la.toNat = some k → k.st = .rcl → k.req = some r →
    k.la = m.la.toNat → m.b.toNat % 512 = k.id → m.a.getLsbD 3 = false → k.cnt = 1 → m.a.getLsbD 1 = true → k.needWb = false →
    k.bcast = false → r.ty = .readOwn → r.la = m.la →
    ∃ t, exec (.recallAck m) s = .next t ∧ t.dirEnt (stopHalf m.dst) m.la.toNat = none ∧
      ∃ f ∈ t.fabric, f.ty = .readOwn ∧ f.dst = mcStop (stopHalf m.dst) (s.dCh m.la.toNat) ∧ f.la = m.la ∧ f.src = r.src) ∧
  (∀ (h : Half) (la : LineAddr) (d : Die) (k : Trk) (x : Nat × Nat) (s : State), s.trk h la.toNat = some k → k.la = la.toNat →
    k.retry.find? (fun y => y.1 == d.val && decide (y.2 + s.nackRetry ≤ s.now)) = some x →
    ∃ t, exec (.snoopRetryResend h la d) s = .next t ∧
      t.trk h la.toNat = some { k with retry := k.retry.erase x } ∧
      ∃ f ∈ t.fabric, f.ty = k.snp ∧ f.dst = stopId d.val (dcSlice la.toNat) ∧ f.la = la) ∧
  (∀ (h : Half) (la : LineAddr) (d : Die) (k : Trk) (s : State), s.trk h la.toNat = some k →
    k.retry.find? (fun y => y.1 == d.val && decide (y.2 + s.nackRetry ≤ s.now)) = none →
    exec (.snoopRetryResend h la d) s = .next s) ∧
  (∀ (m : Msg) (e : DirEnt) (s : State), s.mayArrive m = true → s.trk (stopHalf m.dst) m.la.toNat = none →
    s.dirEnt (stopHalf m.dst) m.la.toNat = some e → e.m = true → e.pres.testBit (msgDie m) = true →
    s.wayWaiters (stopHalf m.dst) m.la.toNat = [] →
    ∃ t, exec (.wbAccepted m) s = .next t ∧ t.mem = s.mem ∧
      t.dirEnt (stopHalf m.dst) m.la.toNat =
        (if m.b.toNat % 4 = 0 then none else if m.b.toNat % 4 = 1 then some e else some { e with m := false }) ∧
      ∃ f ∈ t.fabric, f.ty = .completion ∧ f.a = 4 ∧ f.dst = m.src ∧ f.la = m.la) ∧
  (∀ (m : Msg) (s : State), s.mayArrive m = true → (s.core (stopCore m.dst)).parked = [] → (s.core (stopCore m.dst)).miss = [] →
    s.hub = [] → ((s.core (stopCore m.dst)).wbs.filter fun x => x.la == m.la).length ≤ 1 →
    ∃ t, exec (.wbAck m) s = .next t ∧ (t.core (stopCore m.dst)).wbWaits m.la.toNat = false ∧ t.mem = s.mem ∧ t.dir = s.dir ∧
      ∀ l, s.l2 (stopCore m.dst) m.la.toNat = some l →
        t.l2 (stopCore m.dst) m.la.toNat =
          some (if l.td && (s.core (stopCore m.dst)).t.step = 4 then { l with td := false, dirty := false } else l))

/-- R190, R193, R194, R233, R241, R242, R248 to R250, R257, R286, R335: Data ends the miss that asked for it, fills the L2 and
gives a load its word, zeros when the bank refused it; data nobody asked for is given back; a push refreshes the die cache; a
Grant lets the merging buffer write; WriteDone, MirDone and PlaceDone end what waited for them; a Nacked request goes out again
once NACK_RETRY is over, with AGED = 1 after four Nacks; a Writeback is stored and accepted. -/
def Obligations.AnswersEndRequests : Prop :=
  (∀ (m : Msg) (x : Miss) (s : State), s.mayArrive m = true → isCoreStop m.dst = true → m.a.getLsbD 1 = false → m.a.getLsbD 8 = false →
    m.a.getLsbD 9 = false → m.a.getLsbD 0 = false → s.missOf (stopCore m.dst) m = some x →
    (s.core (stopCore m.dst)).miss = [x] → (s.core (stopCore m.dst)).mb = [] → x.seen = [] → x.kind = 0 → x.size = 3 →
    x.addr / 64 = m.la.toNat → x.addr % 64 ≤ 56 → (s.core (stopCore m.dst)).mbLost = [] → s.calm (stopCore m.dst) = true →
    s.l2On (stopCore m.dst) = true →
    (s.dc (stopCore m.dst / 20) m.la.toNat).isSome = true → s.l2SetOf (stopCore m.dst) (m.la.toNat % 1024) = [] →
    s.l2 (stopCore m.dst) m.la.toNat = none → s.l2Blocked (stopCore m.dst) 0 = false →
    ∃ t, exec (.data m) s = .next t ∧ (t.core (stopCore m.dst)).miss = [] ∧
      (t.core (stopCore m.dst)).pc = (s.core (stopCore m.dst)).pc + 4 ∧
      (t.core (stopCore m.dst)).gprOf x.rd = (if x.rd = 0 then 0 else lineRead m.data (x.addr % 64) 8) ∧
      ∃ l, t.l2 (stopCore m.dst) m.la.toNat = some l ∧ l.data = m.data ∧ l.m = false ∧ l.dirty = false) ∧
  (∀ (m : Msg) (x : Miss) (s : State), s.mayArrive m = true → isCoreStop m.dst = true → m.a.getLsbD 1 = false → m.a.getLsbD 8 = true →
    s.missOf (stopCore m.dst) m = some x → (s.core (stopCore m.dst)).miss = [x] → (s.core (stopCore m.dst)).mb = [] →
    x.seen = [] → x.kind = 0 → x.size ≤ 3 → x.addr % 64 + 2 ^ x.size ≤ 64 → x.la = x.addr / 64 →
    s.calm (stopCore m.dst) = true →
    ∃ t, exec (.data m) s = .next t ∧ (t.core (stopCore m.dst)).miss = [] ∧
      (t.core (stopCore m.dst)).pc = (s.core (stopCore m.dst)).pc + 4 ∧ (t.core (stopCore m.dst)).gprOf x.rd = 0 ∧
      (t.core (stopCore m.dst)).l2 = (s.core (stopCore m.dst)).l2 ∧ t.dir = s.dir) ∧
  (∀ (m : Msg) (s : State), s.mayArrive m = true → isCoreStop m.dst = true → m.a.getLsbD 1 = false → m.a.getLsbD 8 = false →
    s.missOf (stopCore m.dst) m = none →
    ∃ t, exec (.data m) s = .next t ∧ t.cores = s.cores ∧ t.dies = s.dies ∧
      ∃ f ∈ t.fabric, f.ty = .evictClean ∧ f.la = m.la ∧ f.dst = bankStop (s.home m.la.toNat) (dirBank m.la.toNat)) ∧
  (∀ (m : Msg) (x : CLine) (s : State), s.mayArrive m = true → m.a.getLsbD 1 = true → m.a.getLsbD 2 = true →
    s.flag .DC_CTL_EN (instD (stopUnit m.dst) 0) = true → s.dc (stopUnit m.dst) m.la.toNat = some x →
    ∃ t, exec (.data m) s = .next t ∧ t.cores = s.cores ∧ t.dir = s.dir ∧
      (t.dc (stopUnit m.dst) m.la.toNat).map (fun y => { y with age := 0 }) =
        some { x with data := m.data, poison := m.a.getLsbD 9, age := 0 }) ∧
  (∀ (m : Msg) (s : State), s.mayArrive m = true → m.a.getLsbD 1 = true → m.a.getLsbD 2 = true →
    s.flag .DC_CTL_EN (instD (stopUnit m.dst) 0) = false →
    ∃ t, exec (.data m) s = .next t ∧ t.dies = s.dies ∧
      t.get .DC_CNT_PUSH_DROP (instD (stopUnit m.dst) 0) =
        min (s.get .DC_CNT_PUSH_DROP (instD (stopUnit m.dst) 0) + 1) (2 ^ Fld.width .DC_CNT_PUSH_DROP - 1)) ∧
  (∀ (a b c d : Msg) (s : State),
    (s.get .LK_STAT_FEATURES (instH (stopUnit a.src - 12) (stopUnit a.dst))).testBit 1 = true → ∃ s1 s2 s3 t, exec (.data a) s = .next s1 ∧ exec (.data b) s1 = .next s2 ∧
    exec (.data c) s2 = .next s3 ∧ exec (.data d) s3 = .next t ∧ exec (.dataBurst a b c d) s = .next t) ∧
  (∀ (m : Msg) (x : Miss) (l y : CLine) (e : MbEnt) (es : List MbEnt) (s : State), s.mayArrive m = true → s.missOf (stopCore m.dst) m = some x →
    (s.core (stopCore m.dst)).miss = [x] → x.seen = [] → x.kind = 1 → x.la = m.la.toNat →
    (s.core (stopCore m.dst)).mb = e :: es → e.la = m.la.toNat → s.l2 (stopCore m.dst) m.la.toNat = some l →
    s.dc (stopCore m.dst / 20) m.la.toNat = some y → s.holders (stopCore m.dst / 20) m.la.toNat = [stopCore m.dst] →
    s.l2On (stopCore m.dst) = true → s.inGuarded (stopCore m.dst) = false → (s.core (stopCore m.dst)).t.step = 0 →
    ∃ t, exec (.grant m) s = .next t ∧ (t.core (stopCore m.dst)).mb = es ∧ (t.core (stopCore m.dst)).miss = [] ∧
      ∃ n, t.l2 (stopCore m.dst) m.la.toNat = some n ∧ n.m = true ∧ n.dirty = true ∧
        n.data = lineMerge l.data e.data e.mask) ∧
  (∀ (m : Msg) (s : State), s.mayArrive m = true → s.missOf (stopCore m.dst) m = none →
    ∃ t, exec (.grant m) s = .next t ∧ t.cores = s.cores ∧ t.fabric = s.fabric.erase m) ∧
  (∀ (m : Msg) (e : MbEnt) (es : List MbEnt) (s : State), s.mayArrive m = true → isCoreStop m.dst = true →
    (s.core (stopCore m.dst)).mb = e :: es → e.sent = true → e.la = m.la.toNat → (s.core (stopCore m.dst)).t.step = 0 →
    ∃ t, exec (.writeDone m) s = .next t ∧ (t.core (stopCore m.dst)).mb = es ∧ t.mem = s.mem) ∧
  (∀ (m : Msg) (s : State), s.mayArrive m = true → isCoreStop m.dst = true →
    ∃ t, exec (.mirDone m) s = .next t ∧
      (t.core (stopCore m.dst)).t.phaseA = (s.core (stopCore m.dst)).t.phaseA.erase m.la.toNat ∧ t.mem = s.mem) ∧
  (∀ (m : Msg) (s : State), s.mayArrive m = true →
    ∃ t, exec (.placeDone m) s = .next t ∧ t.mem = s.mem ∧
      (t.core (stopCore m.dst)).plPend = (s.core (stopCore m.dst)).plPend.eraseP fun x => x.msg.txid == m.txid) ∧
  (∀ (m : Msg) (x : Miss) (s : State), s.mayArrive m = true → isCoreStop m.dst = true → s.missOf (stopCore m.dst) m = some x →
    ∃ t, exec (.nack m) s = .next t ∧ t.fabric = s.fabric.erase m ∧
      { x with stage := 1, nacks := x.nacks + 1, sent := s.now } ∈ (t.core (stopCore m.dst)).miss) ∧
  (∀ (m : Msg) (x : Miss) (s : State), isCoreStop m.src = true →
    (s.core (stopCore m.src)).miss.find? (fun y => y.la == m.la.toNat && y.txid == m.txid.toNat && y.stage == 1) = some x →
    (s.core (stopCore m.src)).miss = [x] → x.sent + s.nackRetry ≤ s.now → x.kind = 0 →
    ∃ t, exec (.nackRetry m) s = .next t ∧ (t.core (stopCore m.src)).miss = [{ x with stage := 0, sent := s.now }] ∧
      ∃ f ∈ t.fabric, f.ty = .readShared ∧ f.la = m.la ∧ f.src = coreStop (stopCore m.src) ∧
        f.a.getLsbD 7 = decide (4 ≤ x.nacks)) ∧
  (∀ (m : Msg) (x : Miss) (s : State), isCoreStop m.src = true →
    (s.core (stopCore m.src)).miss.find? (fun y => y.la == m.la.toNat && y.txid == m.txid.toNat && y.stage == 1) = some x →
    s.now < x.sent + s.nackRetry → exec (.nackRetry m) s = .next s) ∧
  (∀ (m : Msg) (s : State), s.mayArrive m = true → s.wbRoom m = true → m.a.getLsbD 2 = false → s.beyond m.la.toNat = false → s.guardedCfg = false →
    s.mcState (stopHalf m.dst * 8 + (stopNo m.dst - 16)) ≠ 3 → s.mcState (stopHalf m.dst * 8 + (stopNo m.dst - 16)) ≠ 5 →
    ∃ t, exec (.writeback m) s = .next t ∧ t.lineHalf (stopHalf m.dst) m.la.toNat = m.data ∧
      ∃ f ∈ t.fabric, f.ty = .completion ∧ f.a = 2 ∧ f.src = m.src ∧ f.la = m.la ∧
        f.dst = bankStop (s.home m.la.toNat) (dirBank m.la.toNat)) ∧
  (∀ (m : Msg) (s : State), s.mayArrive m = true → s.wbRoom m = true → m.a.getLsbD 2 = true → s.beyond m.la.toNat = false →
    s.mcState (stopHalf m.dst * 8 + (stopNo m.dst - 16)) ≠ 3 → s.mcState (stopHalf m.dst * 8 + (stopNo m.dst - 16)) ≠ 5 →
    ∃ t, exec (.writeback m) s = .next t ∧ t.lineHalf (stopHalf m.dst) m.la.toNat = m.data ∧
      ∃ f ∈ t.fabric, f.ty = .completion ∧ f.a = 6 ∧ f.dst = m.src ∧ f.la = m.la)

/-- R252, R260 to R266, R395: a column retirement spends a spare and waits while a line of it is in a transaction; a set whose
entry failed is rebuilt from what the dies hold; the loss of a half makes the survivor home of every line and starts the census,
which the dies answer and the last report completes; hand-back returns the entries bank by bank; heartbeats are counted; the
loss and return of the spine are shown in both halves, and transit uses the dies that offer a path. -/
def Obligations.DirectoryRepairAndHubLoss : Prop :=
  (∀ (h : Half) (b : Fin 16) (w : Fin 26) (s : State), s.columnFree h b w = false →
    exec (.directoryColumnRetire h b w) s = .next s) ∧
  (∀ (h : Half) (b : Fin 16) (w : Fin 26) (s : State), s.columnFree h b w = true →
    (s.berm.wayRet.find? fun x => x.1 == 4 && x.2.1 == h.val * 512 + b.val * 32 + w.val) = none →
    ∃ t, exec (.directoryColumnRetire h b w) s = .next t ∧
      (t.dir.get h).retired = (s.dir.get h).retired ++ [(b.val, w.val)] ∧
      t.get .DIR_BANK_SPARE (instH h b) = min (s.get .DIR_BANK_SPARE (instH h b) + 1) 2) ∧
  (∀ (h : Half) (la : LineAddr) (s : State), s.setLines h (dirBank la.toNat) (dirSet la.toNat) = [] →
    ∃ t, exec (.directoryEntryUe h la) s = .next t ∧ t.dirEnt h la.toNat = none ∧ t.mem = s.mem ∧
      (t.dir.get h).bcast.contains (dirBank la.toNat, dirSet la.toNat) = false) ∧
  (∀ (h : Half) (la : LineAddr) (d w : Nat) (s : State), s.setLines h (dirBank la.toNat) (dirSet la.toNat) = [(d, la.toNat)] →
    s.mHolder d la.toNat = none → (s.setDirEnt h la.toNat none).dirWay h la.toNat = some w →
    ∃ t, exec (.directoryEntryUe h la) s = .next t ∧
      (t.dir.get h).bcast.contains (dirBank la.toNat, dirSet la.toNat) = false ∧
      ∃ e, t.dirEnt h la.toNat = some e ∧ e.pres = 2 ^ d ∧ e.m = false) ∧
  (∀ (h : Half) (b : Fin 16) (s : State), (∀ x ∈ (s.dir.get h).bcast, x.1 ≠ b.val) → exec (.bcastSweep h b) s = .next s) ∧
  (∀ (h : Half) (b : Fin 16) (n : Nat) (s : State), (s.dir.get h).bcast = [(b.val, n)] → s.setLines h b n = [] →
    ∃ t, exec (.bcastSweep h b) s = .next t ∧ (t.dir.get h).bcast = [] ∧ t.mem = s.mem) ∧
  (∀ (h : Half) (s : State), s.lost h = false → s.lost (1 - h.val) = false → s.halfReturning.get (1 - h.val) = false →
    s.guardedCfg = true →
    ∃ t, exec (.hubHalfLoss h) s = .next t ∧ t.lost h = true ∧ (∀ la, t.home la = 1 - h.val) ∧
      t.flag .DIR_STAT_PARTNER_LOST (instH (1 - h.val) 0) = true ∧ t.get .DIR_STAT_HOMES (instH (1 - h.val) 0) = 2 ∧
      (t.dir.get (1 - h.val)).census = some s.liveDies ∧
      (∀ p, p < 32 → (s.polder p).isSome = true → s.nextDriver p = h → (t.ctx p).prefNext.map (·.1) = some (1 - h.val)) ∧
      ∀ d ∈ s.liveDies, ∃ f ∈ t.fabric, f.ty = .census ∧ f.dst = dieCtlStop d) ∧
  (∀ (h : Half) (s : State), s.lost h = false → s.guardedCfg = false →
    ∃ t, exec (.hubHalfLoss h) s = .next t ∧ t.lost h = true ∧
      ∀ d ∈ allDies, ∀ la, homeHalf (la * 64) = h → t.dc d la = none) ∧
  (∀ (m : Msg) (s : State), s.mayArrive m = true → (∀ x ∈ (s.die (stopUnit m.dst)).dc, homeHalf (x.1 * 64) ≠ m.a.toNat % 2) →
    ∃ t, exec (.census m) s = .next t ∧ t.dies = s.dies ∧
      ∃ f ∈ t.fabric, f.ty = .censusReport ∧ f.src = dieCtlStop (stopUnit m.dst) ∧ f.a.getLsbD 2 = true ∧ f.b = 1) ∧
  (∀ (m : Msg) (la : Nat) (x : CLine) (s : State), s.mayArrive m = true → s.dc (stopUnit m.dst) la = some x → homeHalf (la * 64) = m.a.toNat % 2 →
    ∃ t, exec (.census m) s = .next t ∧ t.dies = s.dies ∧ t.cores = s.cores ∧
      ∃ f ∈ t.fabric, f.ty = .censusReport ∧ f.dst = bankStop (stopHalf m.src) (dirBank la) ∧ f.la = BitVec.ofNat 46 la ∧
        f.a.getLsbD 0 = (s.mHolder (stopUnit m.dst) la).isSome) ∧
  (∀ (m : Msg) (w : Nat) (s : State), s.mayArrive m = true → m.b.toNat % 2 = 0 → s.dirEnt (stopHalf m.dst) m.la.toNat = none →
    s.dirWay (stopHalf m.dst) m.la.toNat = some w →
    ∃ t, exec (.censusReport m) s = .next t ∧
      (∃ e, t.dirEnt (stopHalf m.dst) m.la.toNat = some e ∧ e.pres = 2 ^ stopUnit m.src ∧ e.m = m.a.getLsbD 0 ∧ e.way = w) ∧
      (t.dir.get (stopHalf m.dst)).cenLines = (s.dir.get (stopHalf m.dst)).cenLines + 1 ∧
      (t.dir.get (stopHalf m.dst)).census = (if m.a.getLsbD 2 then
        (s.dir.get (stopHalf m.dst)).census.map (fun l => l.filter fun y => y != stopUnit m.src)
        else (s.dir.get (stopHalf m.dst)).census)) ∧
  (∀ (m : Msg) (s : State), s.mayArrive m = true → m.b.toNat % 2 = 0 → s.dirEnt (stopHalf m.dst) m.la.toNat = none →
    s.dirWay (stopHalf m.dst) m.la.toNat = none → m.a.getLsbD 1 = false →
    ∃ t, exec (.censusReport m) s = .next t ∧ t.dirEnt (stopHalf m.dst) m.la.toNat = none ∧
      (t.dir.get (stopHalf m.dst)).cenDropped = (s.dir.get (stopHalf m.dst)).cenDropped + 1 ∧ ∃ f ∈ t.fabric, f.ty = .nack ∧ f.dst = m.src ∧ f.la = m.la) ∧
  (∀ (h : Half) (s : State), (s.dir.get h).census = some [] → (s.dir.get h).heldReqs = [] → s.cenUnsettled h = false →
    ∃ t, exec (.censusComplete h) s = .next t ∧ (t.dir.get h).census = none ∧ t.get .DIR_STAT_HOMES (instH h 0) = 1 ∧
      t.get .CEN_STAT_DURATION (instH h 0) = min ((s.now - (s.dir.get h).cenStart) / 1000) 4095 ∧
      (t.dir.get h).ents = (s.dir.get h).ents) ∧
  (∀ (m : Msg) (s : State), s.mayArrive m = true → stopUnit m.dst < 12 → isCoreStop m.dst = false →
    s.tdOn (stopUnit m.dst) m.la.toNat = false →
    ∃ t, exec (.nack m) s = .next t ∧ t.dc (stopUnit m.dst) m.la.toNat = none ∧
      ∀ g ∈ coresOfDie (stopUnit m.dst), t.l2 g m.la.toNat = none) ∧
  (∀ (h : Half) (s : State), (s.dir.get h).census ≠ some [] → exec (.censusComplete h) s = .next s) ∧
  (∀ (h : Half) (b : Fin 16) (s : State), s.halfReturning.get h = true → (∀ ch, ch < 8 → s.mcState (h * 8 + ch) = 2) →
    (∀ k ∈ s.bankTrks (1 - h.val) b, homeHalf (k.la * 64) ≠ h) → (s.dir.get h).handBack.contains b.val = true →
    (s.dir.get h).handBack.erase b.val ≠ [] →
    ∃ t, exec (.homesHandBack h b) s = .next t ∧ (t.dir.get h).handBack = (s.dir.get h).handBack.erase b.val ∧
      t.get .DIR_STAT_HOMES (instH (1 - h.val) 0) = 3 ∧
      ∀ la, dirBank la = b → homeHalf (la * 64) = h → t.dirEnt (1 - h.val) la = none) ∧
  (∀ (h : Half) (b : Fin 16) (s : State), s.halfReturning.get h = true → (∀ ch, ch < 8 → s.mcState (h * 8 + ch) = 2) →
    (∀ k ∈ s.bankTrks (1 - h.val) b, homeHalf (k.la * 64) ≠ h) → (s.dir.get h).handBack = [b.val] →
    ∃ t, exec (.homesHandBack h b) s = .next t ∧ (t.dir.get h).handBack = [] ∧ t.lost h = false ∧
      t.halfReturning.get h = false ∧ t.flag .DIR_STAT_PARTNER_LOST (instH (1 - h.val) 0) = false) ∧
  (∀ (h : Half) (b : Fin 16) (s : State), s.halfReturning.get h = false → exec (.homesHandBack h b) s = .next s) ∧
  (∀ (h : Half) (sp tr : Bool) (s : State),
    ∃ t, exec (.hubHeartbeat h sp tr) s = .next t ∧ t.regs = s.regs ∧
      (t.dir.get h).hbMissed = (if sp || tr then 0 else (s.dir.get h).hbMissed + 1) ∧
      (t.dir.get h).spineMissed = (if sp then 0 else (s.dir.get h).spineMissed + 1)) ∧
  (∀ (s : State), s.flag .DIR_STAT_SPINE_DOWN (instH 0 0) = false →
    ∃ t, exec .spineLoss s = .next t ∧ t.flag .DIR_STAT_SPINE_DOWN (instH 0 0) = true ∧
      t.flag .DIR_STAT_SPINE_DOWN (instH 1 0) = true ∧ (t.dir.get 0).mapDies = s.transitDies ∧
      (t.dir.get 1).mapDies = s.transitDies) ∧
  (∀ (s : State), s.flag .DIR_STAT_SPINE_DOWN (instH 0 0) = true →
    ∃ t, exec .spineRestore s = .next t ∧ t.flag .DIR_STAT_SPINE_DOWN (instH 0 0) = false ∧
      t.flag .DIR_STAT_SPINE_DOWN (instH 1 0) = false) ∧
  (∀ (s : State), ∃ t, exec .transitRemap s = .next t ∧ t.regs = s.regs ∧ (t.dir.get 0).mapDies = s.transitDies ∧
    (t.dir.get 1).mapDies = s.transitDies)

/-- R275 to R285: a command slot refreshes a bank set whose debt is 4, else serves the request that is next in rotating order,
activating its row, then reading it for its requester; an idle row closes; urgency follows age; a refresh interval adds to the
debt of a set up to 4 and counts a forced one; drift that reaches RT_SOFT_PS or RT_HARD_PS asks for a retraining pause, which
waits for an idle sub-channel and ends with commands resuming or, uncorrected, with the channel lost. -/
def Obligations.ChannelsServeRefreshAndRetrain : Prop :=
  (∀ (ch : Fin 16) (sc : Fin 2) (c : Bool) (s : State), (s.sub ch sc).pausing = true → exec (.mcCommandSlot ch sc c) s = .next s) ∧
  (∀ (ch : Fin 16) (sc : Fin 2) (k : Nat) (c : Bool) (s : State), (s.sub ch sc).pausing = false → (s.sub ch sc).forced = false →
    s.mcState ch = 2 → s.dueRefresh ch sc true = some k →
    ∃ t, exec (.mcCommandSlot ch sc c) s = .next t ∧
      Tbl.get 0 (t.sub ch sc).debt k = Tbl.get 0 (s.sub ch sc).debt k - 1 ∧
      (∀ r ∈ (t.sub ch sc).rows, setOfBank r.1 ≠ k) ∧ .dram ch sc 5 k ∈ t.out ∧ t.mem = s.mem) ∧
  (∀ (ch : Fin 16) (sc : Fin 2) (r : McRd) (c : Bool) (s : State), (s.sub ch sc).pausing = false → (s.sub ch sc).wanted = none →
    s.mcState ch = 2 → s.dueRefresh ch sc true = none → (s.mc ch).sppr = [] → (s.sub ch sc).reads = [r] →
    (s.sub ch sc).writes = [] → 0 < s.get .MC_CTL_WQ_HI (instCh ch) → r.bank < 128 →
    Tbl.get none (s.sub ch sc).rows r.bank = none →
    ∃ t, exec (.mcCommandSlot ch sc c) s = .next t ∧ .dram ch sc 1 (r.bank * 2 ^ 17 + r.row) ∈ t.out ∧
      (t.sub ch sc).reads = [r] ∧ Tbl.get none (t.sub ch sc).rows r.bank = some (r.row, 0, s.now)) ∧
  (∀ (ch : Fin 16) (sc : Fin 2) (r : McRd) (streak at_ : Nat) (c : Bool) (s : State), (s.sub ch sc).pausing = false →
    (s.sub ch sc).wanted = none → s.mcState ch = 2 → s.dueRefresh ch sc true = none → (s.mc ch).sppr = [] →
    (s.sub ch sc).reads = [r] → (s.sub ch sc).writes = [] → 0 < s.get .MC_CTL_WQ_HI (instCh ch) → r.bank < 128 →
    Tbl.get none (s.sub ch sc).rows r.bank = some (r.row, streak, at_) → r.msg.ty ≠ .placeWrite →
    ∃ t, exec (.mcCommandSlot ch sc c) s = .next t ∧ .dram ch sc 3 (r.bank * 2 ^ 17 + r.row) ∈ t.out ∧
      (t.sub ch sc).reads = [] ∧ t.mem = s.mem ∧
      ∃ f ∈ t.fabric, f.ty = .data ∧ f.dst = r.msg.src ∧ f.txid = r.msg.txid ∧ f.la = r.msg.la ∧
        f.data = s.lineHalf (ch / 8) r.msg.la.toNat) ∧
  (∀ (ch : Fin 16) (sc : Fin 2) (b : BankId) (row n at_ : Nat) (s : State),
    Tbl.get none (s.sub ch sc).rows (bankNo b) = some (row, n, at_) → at_ + s.get .MC_CTL_PAGE_IDLE (instCh ch) ≤ s.now →
    (s.sub ch sc).reads = [] → (s.sub ch sc).writes = [] →
    ∃ t, exec (.pageIdleClose ch sc b) s = .next t ∧ Tbl.get none (t.sub ch sc).rows (bankNo b) = none ∧
      t.out = s.out ++ [.dram ch sc 2 (bankNo b)]) ∧
  (∀ (ch : Fin 16) (sc : Fin 2) (b : BankId) (s : State), Tbl.get none (s.sub ch sc).rows (bankNo b) = none →
    exec (.pageIdleClose ch sc b) s = .next s) ∧
  (∀ (ch : Fin 16) (sc : Fin 2) (r : McRd) (s : State), (s.sub ch sc).reads = [r] → (s.sub ch sc).writes = [] →
    ∃ t, exec (.urgencyRise ch sc r.msg.txid) s = .next t ∧ (t.sub ch sc).writes = [] ∧
      (t.sub ch sc).reads =
        [{ r with urg := max r.urg (s.urgency (msgPort r.msg.src) r.msg.urg.toNat (s.now - r.at_)) }]) ∧
  (∀ (ch : Fin 16) (sc : Fin 2) (rank set : Fin 4) (s : State), rank.val < 2 ^ s.rb →
    Tbl.get 0 (s.sub ch sc).debt (rank.val * 4 + set.val) < 4 →
    ∃ t, exec (.refreshInterval ch sc rank set) s = .next t ∧
      Tbl.get 0 (t.sub ch sc).debt (rank.val * 4 + set.val) = Tbl.get 0 (s.sub ch sc).debt (rank.val * 4 + set.val) + 1 ∧
      t.get .MC_REF_FORCED (instCh ch) =
        (if Tbl.get 0 (s.sub ch sc).debt (rank.val * 4 + set.val) = 3 then
          min (s.get .MC_REF_FORCED (instCh ch) + 1) (2 ^ Fld.width .MC_REF_FORCED - 1)
         else s.get .MC_REF_FORCED (instCh ch))) ∧
  (∀ (ch : Fin 16) (sc : Fin 2) (rank set : Fin 4) (s : State),
    Tbl.get 0 (s.sub ch sc).debt (rank.val * 4 + set.val) = 4 → exec (.refreshInterval ch sc rank set) s = .next s) ∧
  (∀ (ch : Fin 16) (hot : Bool) (c : BitVec 8) (s : State),
    ∃ t, exec (.dimmTempPoll ch hot c) s = .next t ∧ t.flag .MC_REF_HOT (instCh ch) = hot ∧ (t.mc ch).temp = c.toNat ∧
      t.mem = s.mem) ∧
  (∀ (ch : Fin 16) (sc : Fin 2) (drift : Nat) (s : State), drift < s.get .MC_RT_SOFT_PS (instCh ch) →
    ∃ t, exec (.retrainOscCheck ch sc drift) s = .next t ∧ t.get .MC_RTSTAT_LAST_DRIFT (instCh ch) = min drift 255 ∧
      t.mcs = s.mcs) ∧
  (∀ (ch : Fin 16) (sc : Fin 2) (drift : Nat) (s : State), s.get .MC_RT_SOFT_PS (instCh ch) ≤ drift →
    s.get .MC_RT_HARD_PS (instCh ch) ≤ drift → (s.sub ch sc).forced = false →
    ∃ t, exec (.retrainOscCheck ch sc drift) s = .next t ∧ (t.sub ch sc).forced = true ∧ (t.sub ch sc).wanted.isSome = true ∧
      t.get .MC_RTSTAT_FORCED (instCh ch) =
        min (s.get .MC_RTSTAT_FORCED (instCh ch) + 1) (2 ^ Fld.width .MC_RTSTAT_FORCED - 1)) ∧
  (∀ (ch : Fin 16) (sc : Fin 2) (drift : Nat) (s : State), s.get .MC_RT_SOFT_PS (instCh ch) ≤ drift →
    drift < s.get .MC_RT_HARD_PS (instCh ch) → (s.sub ch sc).wanted = none →
    ∃ t, exec (.retrainOscCheck ch sc drift) s = .next t ∧ (t.sub ch sc).wanted = some s.now ∧
      (t.sub ch sc).forced = (s.sub ch sc).forced) ∧
  (∀ (ch : Fin 16) (sc : Fin 2) (at_ : Nat) (s : State), (s.sub ch sc).wanted = some at_ → (s.sub ch sc).forced = false →
    (s.sub ch sc).pausing = false → (s.sub ch (1 - sc.val)).pausing = false → (s.sub ch sc).reads = [] →
    (s.sub ch sc).writes = [] → at_ + s.get .MC_RT_RT_WAIT_US (instCh ch) * 1000 ≤ s.now →
    ∃ t, exec (.retrainWaitExpired ch sc) s = .next t ∧ (t.sub ch sc).pausing = true ∧
      t.get .MC_RTSTAT_IDLE (instCh ch) = min (s.get .MC_RTSTAT_IDLE (instCh ch) + 1) (2 ^ Fld.width .MC_RTSTAT_IDLE - 1)) ∧
  (∀ (ch : Fin 16) (sc : Fin 2) (s : State), (s.sub ch sc).wanted = none → exec (.retrainWaitExpired ch sc) s = .next s) ∧
  (∀ (ch : Fin 16) (sc : Fin 2) (s : State), (s.sub ch sc).pausing = true →
    ∃ t, exec (.retrainPauseEnd ch sc true) s = .next t ∧ t.regs = s.regs ∧
      t.sub ch sc = { s.sub ch sc with pausing := false, wanted := none, forced := false }) ∧
  (∀ (ch : Fin 16) (sc : Fin 2) (s : State), (s.sub ch sc).pausing = true → s.mcState ch = 2 → s.guardedCfg = true →
    ∃ t, exec (.retrainPauseEnd ch sc false) s = .next t ∧ t.mcState ch = 3)

/-- R286, R287, R289 to R297: a lost channel is fenced, its queued reads go to the mirror, and in the Throughput configuration
the polders that hold memory stop; a mirror answers a redirected read as the home controller would; resynchronisation copies
each chunk from the mirror and its last puts the channel in service; an uncorrectable read that neither a second read nor the
mirror can serve returns poison; scrub counts what it corrects and skips poison; soft repair waits 100 ms, and a row without a
repair resource is redirected. -/
def Obligations.ChannelLossAndRepair : Prop :=
  (∀ (ch : Fin 16) (cause : Fin 4) (s : State), s.mcState ch = 2 → s.guardedCfg = true →
    ∃ t, exec (.channelLoss ch cause) s = .next t ∧ t.mcState ch = 3 ∧ (∀ sc, (t.sub ch sc).reads = []) ∧
      (∀ sc, (t.sub ch sc).writes = []) ∧
      (s.lost (1 - ch.val / 8) = false → s.mcState ((1 - ch.val / 8) * 8 + ch.val % 8) = 2 →
        ∀ r ∈ (s.sub ch 0).reads, { r.msg with dst := mcStop (1 - ch.val / 8) (ch.val % 8) } ∈ t.fabric)) ∧
  (∀ (ch : Fin 16) (cause : Fin 4) (p : Nat) (v : Polder) (s : State), s.mcState ch = 2 → s.guardedCfg = false → p < 32 →
    s.holdsNormal p = true → s.polder p = some v → v.stopped = 0 →
    ∃ t, exec (.channelLoss ch cause) s = .next t ∧ t.mcState ch = 5 ∧ t.polder p = some { v with stopped := 1 } ∧
      t.get .TK_NOW_STATE p = 0) ∧
  (∀ (ch : Fin 16) (cause : Fin 4) (s : State), (s.mcState ch = 0 ∨ s.mcState ch = 3 ∨ s.mcState ch = 5 ∨ s.mcState ch = 6) →
    exec (.channelLoss ch cause) s = .next s) ∧
  (∀ (m : Msg) (w : McWr) (s : State), s.mayArrive m = true → s.redirRoom m = true → m.ty ≠ .placeWrite →
    s.mcState ((stopUnit m.dst - 12) * 8 + (stopNo m.dst - 16)) = 2 → w.la = m.la.toNat →
    w ∈ (s.sub ((stopUnit m.dst - 12) * 8 + (stopNo m.dst - 16)) (s.dSub m.la.toNat)).writes →
    ∃ t, exec (.redirectedRead m) s = .next t ∧ t.mem = s.mem ∧ t.mcs = s.mcs ∧
      ∃ f ∈ t.fabric, f.ty = .data ∧ f.dst = m.src ∧ f.txid = m.txid ∧ f.la = m.la ∧
        f.data = s.lineHalf (stopUnit m.dst - 12) m.la.toNat) ∧
  (∀ (m : Msg) (s : State), s.mayArrive m = true → s.redirRoom m = true →
    s.mcState ((stopUnit m.dst - 12) * 8 + (stopNo m.dst - 16)) = 2 →
    (s.sub ((stopUnit m.dst - 12) * 8 + (stopNo m.dst - 16)) (s.dSub m.la.toNat)).writes = [] →
    ∃ t, exec (.redirectedRead m) s = .next t ∧ t.mem = s.mem ∧ t.fabric = s.fabric.erase m ∧
      (t.sub ((stopUnit m.dst - 12) * 8 + (stopNo m.dst - 16)) (s.dSub m.la.toNat)).reads =
        (s.sub ((stopUnit m.dst - 12) * 8 + (stopNo m.dst - 16)) (s.dSub m.la.toNat)).reads ++
          [⟨m, s.dBankNo m.la.toNat, s.dRow m.la.toNat, s.now, m.urg.toNat, true⟩]) ∧
  (∀ (m : Msg) (s : State), s.redirRoom m = false → exec (.redirectedRead m) s = .next s) ∧
  (∀ (ch : Fin 16) (n : Nat) (s : State), s.mcState ch ≠ 4 → exec (.resyncChunk ch n) s = .next s) ∧
  (∀ (ch : Fin 16) (n at_ : Nat) (s : State), s.mcState ch = 4 → (s.mc ch).resync = some (at_, n) →
    s.peerServes (ch.val / 8) (ch.val % 8) = true →
    at_ + n * 81920 / max (s.get .MC_CTL_RESYNC_BW (instCh ch)) 1 ≤ s.now →
    ∃ t, exec (.resyncChunk ch n) s = .next t ∧
      (∀ la ∈ chunkLines ch n s, (∀ x ∈ (s.mc ch).waitMir, x.la ≠ la) →
        t.lineHalf (ch.val / 8) la = s.lineHalf (1 - ch.val / 8) la) ∧
      (t.mc ch).resync = (if max s.chunks 1 ≤ n + 1 then none else some (at_, n + 1)) ∧
      t.mcState ch = (if max s.chunks 1 ≤ n + 1 then 2 else 4)) ∧
  (∀ (m : Msg) (sg mg : Bool) (s : State),
    (∀ r ∈ (s.sub ((stopUnit m.dst - 12) * 8 + (stopNo m.dst - 16)) (s.dSub m.la.toNat)).reads, r.msg ≠ m) →
    exec (.uncorrectableRead m sg mg) s = .next s) ∧
  (∀ (m : Msg) (r : McRd) (mg : Bool) (s : State), m.ty ≠ .placeWrite → r.msg = m →
    r ∈ (s.sub ((stopUnit m.dst - 12) * 8 + (stopNo m.dst - 16)) (s.dSub m.la.toNat)).reads →
    ∃ t, exec (.uncorrectableRead m true mg) s = .next t ∧ t.mem = s.mem ∧ t.poison = s.poison ∧
      ∃ f ∈ t.fabric, f.ty = .data ∧ f.dst = m.src ∧ f.txid = m.txid ∧
        f.data = s.lineHalf (stopUnit m.dst - 12) m.la.toNat) ∧
  (∀ (m : Msg) (r : McRd) (mg : Bool) (s : State), m.ty ≠ .placeWrite → r.msg = m → s.guardedCfg = false →
    r ∈ (s.sub ((stopUnit m.dst - 12) * 8 + (stopNo m.dst - 16)) (s.dSub m.la.toNat)).reads →
    ∃ t, exec (.uncorrectableRead m false mg) s = .next t ∧ t.mem = s.mem ∧
      (t.poison.get (stopUnit m.dst - 12)).contains m.la.toNat = true ∧
      ∃ f ∈ t.fabric, f.ty = .data ∧ f.dst = m.src ∧ f.txid = m.txid ∧ f.a.getLsbD 9 = true) ∧
  (∀ (ch : Fin 16) (la : LineAddr) (s : State), s.flag .MC_SCRUB_EN (instCh ch) = true → s.mcState ch = 2 →
    s.dCh la.toNat = ch % 8 → s.beyond la.toNat = false → (s.guardedCfg = true ∨ homeHalf (la.toNat * 64) = ch / 8) →
    (∀ r ∈ (s.sub ch (s.dSub la.toNat)).reads, r.bank ≠ s.dBankNo la.toNat) →
    (∀ w ∈ (s.sub ch (s.dSub la.toNat)).writes, w.bank ≠ s.dBankNo la.toNat) →
    (s.poison.get (ch / 8)).contains la.toNat = false →
    ∃ t, exec (.patrolScrub ch la .corrected) s = .next t ∧ (t.mc ch).scrubAt = la.toNat ∧ t.mem = s.mem ∧
      t.get .MC_ERR_CE (instCh ch) = min (s.get .MC_ERR_CE (instCh ch) + 1) (2 ^ Fld.width .MC_ERR_CE - 1)) ∧
  (∀ (ch : Fin 16) (la : LineAddr) (o : EccOutcome) (s : State), s.flag .MC_SCRUB_EN (instCh ch) = true → s.mcState ch = 2 →
    s.dCh la.toNat = ch % 8 → s.beyond la.toNat = false → (s.guardedCfg = true ∨ homeHalf (la.toNat * 64) = ch / 8) →
    (∀ r ∈ (s.sub ch (s.dSub la.toNat)).reads, r.bank ≠ s.dBankNo la.toNat) →
    (∀ w ∈ (s.sub ch (s.dSub la.toNat)).writes, w.bank ≠ s.dBankNo la.toNat) →
    (s.poison.get (ch / 8)).contains la.toNat = true →
    ∃ t, exec (.patrolScrub ch la o) s = .next t ∧ (t.mc ch).scrubAt = la.toNat ∧ t.mem = s.mem ∧ t.poison = s.poison ∧
      t.get .MC_ERR_CE (instCh ch) = s.get .MC_ERR_CE (instCh ch)) ∧
  (∀ (ch : Fin 16) (la : LineAddr) (o : EccOutcome) (s : State), s.flag .MC_SCRUB_EN (instCh ch) = false →
    exec (.patrolScrub ch la o) s = .next s) ∧
  (∀ (ch : Fin 16) (r : RowId) (at_ : Nat) (s : State), (s.mc ch).sppr = [(r, at_, false)] →
    ∃ t, exec (.spprWaitExpired ch) s = .next t ∧ t.regs = s.regs ∧
      (t.mc ch).sppr = [(r, at_, decide (at_ + 100000000 ≤ s.now))]) ∧
  (∀ (ch : Fin 16) (r : RowId) (at_ : Nat) (s : State), (s.mc ch).sppr = [(r, at_, true)] →
    ∃ t, exec (.rowRepair ch r true) s = .next t ∧ (t.mc ch).sppr = [] ∧ t.mem = s.mem ∧
      t.get .MC_ECC_SPPR_DONE (instCh ch) =
        min (s.get .MC_ECC_SPPR_DONE (instCh ch) + 1) (2 ^ Fld.width .MC_ECC_SPPR_DONE - 1)) ∧
  (∀ (ch : Fin 16) (r : RowId) (at_ : Nat) (s : State), (s.mc ch).sppr = [(r, at_, true)] → s.guardedCfg = true →
    (s.mc ch).redirect.length < 64 →
    ∃ t, exec (.rowRepair ch r false) s = .next t ∧ (t.mc ch).sppr = [] ∧
      (t.mc ch).redirect = (s.mc ch).redirect ++ [r] ∧
      t.get .MC_STAT_REDIRECTS (instCh ch) = (s.mc ch).redirect.length + 1) ∧
  (∀ (ch : Fin 16) (row : RowId) (res : Bool) (s : State), (s.mc ch).sppr = [] → exec (.rowRepair ch row res) s = .next s)

/-- R301 to R304, R307, R309, R310, R327: a sub-port's link comes up with a discovery and goes down with its heads absent; a head
that matches its entry is configured step by step and counts as configured once no step failed; three unanswered heartbeats make
it absent; frames of other kinds are dropped and counted; a master sub-port announces and serves PTIME + PTP_EPOCH, a slave stamps
Sync on arrival, and messages of another domain are dropped; HEAD_BIND loads the entry
into the lowest free stream, HEAD_UNBIND removes it, and HP_CFG changes only on a port with no stream. -/
def Obligations.HeadPortsAndBindings : Prop :=
  (∀ (p : Fin 16) (b : Fin 4) (s : State), s.subOn p b = true → s.subLink p b = false →
    ∃ t, exec (.headLinkUp p b) s = .next t ∧ t.subLink p b = true ∧
      t.get .HP_STAT_RATE (instPort p) = rateOf (s.get .HP_CFG_MODE (instPort p)) ∧
      t.out = s.out ++ [.head p b headDiscovery []]) ∧
  (∀ (p : Fin 16) (b : Fin 4) (s : State), s.subOn p b = false → exec (.headLinkUp p b) s = .next s) ∧
  (∀ (p : Fin 16) (b : Fin 4) (s : State), s.subLink p b = true → s.ing.heads = [] →
    ∃ t, exec (.headLinkDown p b) s = .next t ∧ t.subLink p b = false ∧
      t.get .HP_CNT_LINK_DOWN (instPort p) =
        min (s.get .HP_CNT_LINK_DOWN (instPort p) + 1) (2 ^ Fld.width .HP_CNT_LINK_DOWN - 1)) ∧
  (∀ (p : Fin 16) (b : Fin 4) (x : Strm) (s : State), s.subLink p b = true → s.ing.heads = [x] → x.portA = p → x.subA = b →
    x.paired = false → x.present = true →
    ∃ t, exec (.headLinkDown p b) s = .next t ∧ t.subLink p b = false ∧
      ∃ y, t.strm x.a = some y ∧ y.present = false ∧ y.conf = false ∧ y.cuts = x.cuts ∧ y.got = x.got) ∧
  (∀ (p : Fin 16) (b : Fin 4) (x : Strm) (s : State), s.subLink p b = true → s.ing.heads = [x] → x.portA = p → x.subA = b →
    (s.headLinks x).2 = true → (x.portB ≠ p ∨ x.subB ≠ b) → x.portB < 16 → x.subB < 4 →
    ∃ t, exec (.headLinkDown p b) s = .next t ∧ t.subLink p b = false ∧ t.ing = s.ing) ∧
  (∀ (p : Fin 16) (b : Fin 4) (s : State), s.subOn p b = true → s.subLink p b = true →
    ∃ t, exec (.gvcpDiscovery p b) s = .next t ∧ t.regs = s.regs ∧ t.ing = s.ing ∧
      t.out = s.out ++ [.head p b headDiscovery []]) ∧
  (∀ (p : Fin 16) (b : Fin 4) (s : State), s.subLink p b = false → exec (.gvcpDiscovery p b) s = .next s) ∧
  (∀ (p : Fin 16) (b : Fin 4) (n : GvcpAnswer) (s : State), s.subLink p b = true →
    (s.ing.heads.find? fun x => ansMatches x p b n) = none →
    ∃ t, exec (.gvcpAnswer p b n) s = .next t ∧ t.ing = s.ing ∧ t.mem = s.mem) ∧
  (∀ (p : Fin 16) (b : Fin 4) (n : GvcpAnswer) (x : Strm) (s : State), s.subLink p b = true → s.ing.heads = [x] →
    ansMatches x p b n = true → x.firstPort p b = true → x.conf = false → n.failStep = none →
    n.ip.toNat / 2 ^ (32 - s.get .HP_ADDR_PREFIX (instSub p b)) =
      s.get .HP_ADDR_IPV4 (instSub p b) / 2 ^ (32 - s.get .HP_ADDR_PREFIX (instSub p b)) →
    ∃ t, exec (.gvcpAnswer p b n) s = .next t ∧ t.ing.heads = [{ x with conf := true, ip := n.ip.toNat, hbMissed := 0 }] ∧
      .head p b headWrite [4, x.pktBytes] ∈ t.out ∧ .head p b headWrite [5, 1000] ∈ t.out ∧
      ∀ y ∈ initWrites x, .head p b headWrite [6, y.1, y.2] ∈ t.out) ∧
  (∀ (p : Fin 16) (b : Fin 4) (n : GvcpAnswer) (x : Strm) (s : State), s.subLink p b = true → s.ing.heads = [x] →
    ansMatches x p b n = true → x.conf = false → n.failStep.isSome = true →
    ∃ t, exec (.gvcpAnswer p b n) s = .next t ∧ t.ing = s.ing) ∧
  (∀ (n : Fin 128) (slave : Bool) (x : Strm) (s : State), s.strm n = some x → x.conf = true →
    ∃ t, exec (.headHeartbeat n true slave) s = .next t ∧ t.regs = s.regs ∧
      t.strm n = some { x with hbMissed := 0, unsync := !slave }) ∧
  (∀ (n : Fin 128) (slave : Bool) (x : Strm) (s : State), s.strm n = some x → x.conf = true → x.hbMissed = 2 →
    x.present = true →
    ∃ t, exec (.headHeartbeat n false slave) s = .next t ∧
      t.strm n = some { x with hbMissed := 3, present := false, conf := false, confB := false, changedAt := s.now }) ∧
  (∀ (n : Fin 128) (an slave : Bool) (s : State), s.strm n = none → exec (.headHeartbeat n an slave) s = .next s) ∧
  (∀ (p : Fin 16) (b : Fin 4) (f : HeadFrame) (a : BitVec 32) (s : State), s.subLink p b = true → f.fecOk = true → f.fcsOk = true →
    f.vid.toNat = s.get .HP_ADDR_VID (instSub p b) → f.len ≤ 9216 → f.kind = .arp a →
    a.toNat = s.get .HP_ADDR_IPV4 (instSub p b) →
    ∃ t, exec (.headFrame p b f) s = .next t ∧ t.regs = s.regs ∧ t.out = s.out ++ [.head p b headArp [a.toNat]]) ∧
  (∀ (p : Fin 16) (b : Fin 4) (f : HeadFrame) (s : State), s.subLink p b = true → f.fecOk = true → f.fcsOk = true →
    (f.vid.toNat ≠ s.get .HP_ADDR_VID (instSub p b) ∨ 9216 < f.len ∨ f.kind = .fragment ∨ f.kind = .options ∨
      f.kind = .other) →
    ∃ t, exec (.headFrame p b f) s = .next t ∧ t.out = s.out ∧ t.ing = s.ing ∧
      t.get .HP_CNT_FOREIGN (instPort p) =
        min (s.get .HP_CNT_FOREIGN (instPort p) + 1) (2 ^ Fld.width .HP_CNT_FOREIGN - 1)) ∧
  (∀ (p : Fin 16) (b : Fin 4) (d : BitVec 8) (w : Word) (s : State), s.subOn p b = true → s.subLink p b = true → s.isSlave p b = false →
    d.toNat = s.get .PTP_CFG_DOMAIN 0 →
    ∃ t, exec (.ptpMessage p b .delayReq d w) s = .next t ∧ t.regs = s.regs ∧
      t.out = s.out ++ [.head p b headDelayResp [unsigned64 (s.now + signed64 (s.get .PTP_EPOCH_OFFSET 0))]]) ∧
  (∀ (p : Fin 16) (b : Fin 4) (x : Bool) (d : BitVec 8) (w : Word) (s : State), s.isSlave p b = false →
    exec (.ptpMessage p b (.sync x) d w) s = .next s) ∧
  (∀ (p : Fin 16) (b : Fin 4) (k : PtpKind) (d : BitVec 8) (w : Word) (s : State), d.toNat ≠ s.get .PTP_CFG_DOMAIN 0 →
    exec (.ptpMessage p b k d w) s = .next s) ∧
  (∀ (p : Fin 16) (b : Fin 4) (d : BitVec 8) (w : Word) (s : State), s.subOn p b = true → s.subLink p b = true →
    s.isSlave p b = true → d.toNat = s.get .PTP_CFG_DOMAIN 0 →
    ∃ t, exec (.ptpMessage p b (.sync true) d w) s = .next t ∧ t.ing = { s.ing with syncAt := s.now } ∧ t.regs = s.regs) ∧
  (∀ (p : Fin 16) (b : Fin 4) (s : State), s.subOn p b = true → s.subLink p b = true → s.isSlave p b = false →
    ∃ t, exec (.ptpSyncSend p b) s = .next t ∧ t.regs = s.regs ∧
      t.out = s.out ++ .head p b headAnnounce [s.get .PTP_CFG_DOMAIN 0, s.get .PTP_CFG_PRIO1 0, s.get .PTP_CFG_PRIO2 0] ::
        (if s.flag .PTP_CFG_ONE_STEP 0 then [.head p b headSync [s.get .PTP_CFG_DOMAIN 0, s.headTime]]
          else [.head p b headSync [s.get .PTP_CFG_DOMAIN 0], .head p b headFollowUp [s.get .PTP_CFG_DOMAIN 0, s.headTime]])) ∧
  (∀ (p : Fin 16) (b : Fin 4) (s : State), s.isSlave p b = true → exec (.ptpSyncSend p b) s = .next s) ∧
  (∀ (c : Cmd) (a : Nat) (s : State), s.passes specHeadBind c = true → s.bufLen c = 128 → s.cp.blockFailed = false →
    s.headOk c.e.polder (newStrm c.e.polder ((List.range 16).map (s.bufWord c))) = true → s.ing.heads = [] →
    s.guardedCfg = false →
    s.freeStream (newStrm c.e.polder ((List.range 16).map (s.bufWord c))).portA = some a →
    ∃ t, exec (.headBind c) s = .next t ∧ answered t c 0 a ∧
      (∃ x, t.strm a = some x ∧ x.pol = c.e.polder ∧ x.nextSlot = 0 ∧ x.present = false ∧
        x.words = (List.range 16).map (s.bufWord c)) ∧
      t.get .STR_STAT_STATE (instStr a) = 1) ∧
  (∀ (c : Cmd) (s : State), s.passes specHeadBind c = true → s.bufLen c ≠ 128 →
    ∃ t, exec (.headBind c) s = .next t ∧ answered t c 4 0 ∧ t.ing = s.ing) ∧
  (∀ (c : Cmd) (x : Strm) (s : State), s.passes specHeadUnbind c = true → s.strm (bitsOf c.e.p0 6 0) = some x →
    ∃ t, exec (.headUnbind c) s = .next t ∧ answered t c 0 0 ∧ (∀ y ∈ t.ing.heads, y.a ≠ x.a) ∧ t.mem = s.mem ∧
      t.get .STR_STAT_STATE (instStr x.a) = 0) ∧
  (∀ (c : Cmd) (s : State), s.passes specSetHp c = true → s.srcSecure c.src = true → bitsOf c.e.p0 15 0 - 0x400 < 16 →
    hpCfgOk c.e.p1 = true → (∃ x ∈ s.ing.heads, x.portA = bitsOf c.e.p0 15 0 - 0x400) →
    ∃ t, exec (.setHpCfg c) s = .next t ∧ answered t c 5 0 ∧ t.ing = s.ing ∧
      t.get .HP_CFG_MODE (instPort (bitsOf c.e.p0 15 0 - 0x400)) = s.get .HP_CFG_MODE (instPort (bitsOf c.e.p0 15 0 - 0x400))) ∧
  (∀ (c : Cmd) (s : State), s.passes specSetHp c = true → s.srcSecure c.src = true → bitsOf c.e.p0 15 0 - 0x400 < 16 →
    hpCfgOk c.e.p1 = true → s.ing.heads = [] → s.get .HP_STAT_LINK (instPort (bitsOf c.e.p0 15 0 - 0x400)) < 16 →
    ∃ t, exec (.setHpCfg c) s = .next t ∧ answered t c 0 (s.hpCfg (bitsOf c.e.p0 15 0 - 0x400)) ∧
      t.get .HP_CFG_MODE (instPort (bitsOf c.e.p0 15 0 - 0x400)) = c.e.p1 % 4 ∧
      t.get .HP_STAT_LINK (instPort (bitsOf c.e.p0 15 0 - 0x400)) = 0)

/-- R312 to R314, R316 to R319, R321 to R326, R328: packets that a stream does not take are dropped and counted; one inside the
window is held, one already held or written is a duplicate, and a complete line leaves as a slot with its sequence number and
stamp; the oldest slot's header is written with its LATE mark; a cut runs from the first slot not in the last cut, its record
waits while its position is not free, a release is clamped to the newest cut published and frees what it covers; the shadow
becomes lead when the lead's half is lost. -/
def Obligations.LinesSlotsAndCuts : Prop :=
  (∀ (p : Fin 16) (q : Fin 8) (k : GvspPacket) (s : State), s.strm (p.val * 8 + q.val) = none →
    ∃ t, exec (.gvspPacket p q k) s = .next t ∧ t.ing = s.ing ∧ t.mem = s.mem ∧
      t.get .HP_CNT_FOREIGN (instPort p) =
        min (s.get .HP_CNT_FOREIGN (instPort p) + 1) (2 ^ Fld.width .HP_CNT_FOREIGN - 1)) ∧
  (∀ (p : Fin 16) (q : Fin 8) (k : GvspPacket) (x : Strm) (s : State), s.strm (p.val * 8 + q.val) = some x →
    x.a = p.val * 8 + q.val → s.subLink p x.subA = true → k.ip.toNat ≠ x.ip →
    ∃ t, exec (.gvspPacket p q k) s = .next t ∧ t.ing = s.ing ∧
      t.get .HP_CNT_FOREIGN (instPort p) =
        min (s.get .HP_CNT_FOREIGN (instPort p) + 1) (2 ^ Fld.width .HP_CNT_FOREIGN - 1)) ∧
  (∀ (p : Fin 16) (q : Fin 8) (k : GvspPacket) (x : Strm) (s : State), s.strm (p.val * 8 + q.val) = some x →
    x.a = p.val * 8 + q.val → s.subLink p x.subA = true → k.ip.toNat = x.ip → x.conf = true → k.kind = .foreign →
    ∃ t, exec (.gvspPacket p q k) s = .next t ∧ t.ing = s.ing ∧
      t.get .STR_CNT1_FOREIGN_PKT (instStr x.a) =
        min (s.get .STR_CNT1_FOREIGN_PKT (instStr x.a) + 1) (2 ^ Fld.width .STR_CNT1_FOREIGN_PKT - 1)) ∧
  (∀ (p : Fin 16) (q : Fin 8) (k : GvspPacket) (x : Strm) (d : List Byte) (s : State), s.strm (p.val * 8 + q.val) = some x →
    x.a = p.val * 8 + q.val → s.subLink p x.subA = true → k.ip.toNat = x.ip → x.conf = true → x.present = true →
    k.kind = .payload d → k.pid.toNat ≤ x.nPkt → x.run = some (k.block.toNat, 0) → x.lastBlock = k.block.toNat →
    (∃ g ∈ x.got, g.pos = k.pid.toNat) →
    ∃ t, exec (.gvspPacket p q k) s = .next t ∧ t.ing = s.ing ∧
      t.get .STR_CNT1_DUP_PKT (instStr x.leadStream) =
        min (s.get .STR_CNT1_DUP_PKT (instStr x.leadStream) + 1) (2 ^ Fld.width .STR_CNT1_DUP_PKT - 1)) ∧
  (∀ (p : Fin 16) (q : Fin 8) (k : GvspPacket) (x : Strm) (d : List Byte) (s : State), s.strm (p.val * 8 + q.val) = some x →
    x.a = p.val * 8 + q.val → s.subLink p x.subA = true → k.ip.toNat = x.ip → x.conf = true → x.present = true →
    k.kind = .payload d → k.pid.toNat = 2 → 2 ≤ x.nPkt → x.run = some (k.block.toNat, 0) → x.lastBlock = k.block.toNat →
    x.got = [] → x.lo = 0 → x.line = 0 →
    ∃ t, exec (.gvspPacket p q k) s = .next t ∧ t.mem = s.mem ∧
      ∃ y, t.strm x.a = some y ∧ y.got = [{ pos := 2, data := d, at_ := s.now, via := 2 ^ (p.val / 8) }] ∧ y.lo = 0 ∧ y.slots = x.slots ∧
        y.nextSlot = x.nextSlot) ∧
  (∀ (p : Fin 16) (q : Fin 8) (k : GvspPacket) (x : Strm) (g : IngPkt) (d : List Byte) (ts n : Nat) (s : State),
    s.strm (p.val * 8 + q.val) = some x → x.a = p.val * 8 + q.val → s.subLink p x.subA = true → k.ip.toNat = x.ip →
    x.conf = true → x.present = true → k.kind = .payload d → k.pid.toNat = 1 → x.run = some (k.block.toNat, n) →
    x.lastBlock = k.block.toNat → x.got = [g] → g.pos = 0 → x.lo = 1 → x.line = 0 → x.stamps = [(0, ts)] →
    x.blockLines = 1 → x.lineBytes = x.pktBytes → 0 < x.pktBytes → d.length = x.pktBytes → s.lost x.lead = false →
    x.dropCount = 0 → x.ringFull = false → x.restart = false → x.unsync = false →
    ∃ t, exec (.gvspPacket p q k) s = .next t ∧
      ∃ y r, t.strm x.a = some y ∧ y.nextSlot = x.nextSlot + 1 ∧ y.slots = x.slots ++ [r] ∧ r.no = x.nextSlot ∧ r.seq = n ∧
        r.block = k.block.toNat ∧ r.line = 0 ∧ r.missing = 0 ∧ r.flags = 0 ∧
        r.stamp = unsigned64 (ts - signed64 (s.get .PTP_EPOCH_OFFSET 0))) ∧
  (∀ (n : Fin 128) (x : Strm) (s : State), s.strm n = some x → (∀ g ∈ x.got, s.now < g.at_ + x.reorderNs) →
    exec (.reorderTimeout n) s = .next s) ∧
  (∀ (n : Fin 128) (x : Strm) (g : IngPkt) (s : State), s.strm n = some x → x.a = n → x.got = [g] → g.pos = 2 → x.lo = 0 →
    g.at_ + x.reorderNs ≤ s.now → x.line = 0 → 4 ≤ x.nPkt → (∃ p ∈ x.linePos 0, 3 < p) →
    ∃ t, exec (.reorderTimeout n) s = .next t ∧ ∃ y, t.strm n = some y ∧ y.lo = 3 ∧ y.got = [g]) ∧
  (∀ (n : Fin 128) (x : Strm) (s : State), s.strm n = some x → x.slots = [] → exec (.slotHeaderAccept n) s = .next s) ∧
  (∀ (n : Fin 128) (x : Strm) (r : SlotRec) (l : List SlotRec) (k e c : Nat) (s : State), s.strm n = some x → x.a = n →
    s.lost x.lead = false → x.slots = r :: l → x.lastCut = some (k, e, c) → r.stamp < e → r.flags = 0 →
    ∃ t, exec (.slotHeaderAccept n) s = .next t ∧ ∃ y, t.strm n = some y ∧ y.slots = l ∧
      y.acc = x.acc ++ [{ r with flags := flLate, accAt := s.now }]) ∧
  (∀ (n : Fin 128) (x : Strm) (r : SlotRec) (l : List SlotRec) (s : State), s.strm n = some x → x.a = n → s.lost x.lead = false →
    x.slots = r :: l → x.lastCut = none → x.placeMode = 0 →
    s.rgnCheck x.pol (s.polSecure x.pol) true (x.slotAddr r.no) = none →
    ∃ t, exec (.slotHeaderAccept n) s = .next t ∧ t.ramBytes (x.slotAddr r.no) 64 = wordsLe r.words) ∧
  (∀ (n : Fin 128) (x : Strm) (k e : Nat) (s : State), s.strm n = some x → s.nextEdge x = some (k, e) → s.now < e + x.cutLag →
    exec (.cutTake n) s = .next s) ∧
  (∀ (n : Fin 128) (x : Strm) (r : SlotRec) (k e : Nat) (s : State), s.strm n = some x → x.a = n → s.nextEdge x = some (k, e) →
    e + x.cutLag ≤ s.now → s.lost x.lead = false → x.run = none → x.slots = [] → x.cuts = [] → x.acc = [r] → r.stamp < e →
    r.accAt ≤ e + x.cutLag →
    ∃ t, exec (.cutTake n) s = .next t ∧ ∃ y c, t.strm n = some y ∧ y.cuts = [c] ∧ c.tick = k ∧ c.first = x.cutFirst ∧
      c.next = r.no + 1 ∧ c.written = true ∧ y.acc = [] ∧ y.lastCut = some (k, e, e + x.cutLag) ∧ y.cutFirst = r.no + 1) ∧
  (∀ (n : Fin 128) (x : Strm) (s : State), s.strm n = some x → (∀ c ∈ x.cuts, c.written = true) →
    exec (.cutRecordDelayed n) s = .next s) ∧
  (∀ (n : Fin 128) (x : Strm) (c : Cut) (s : State), s.strm n = some x → x.a = n → x.cuts = [c] → c.written = false →
    s.lost x.lead = false →
    ∃ t, exec (.cutRecordDelayed n) s = .next t ∧ ∃ y, t.strm n = some y ∧ y.cuts = [{ c with written := true }]) ∧
  (∀ (n : Fin 128) (x : Strm) (c : Cut) (s : State), s.strm n = some x → x.a = n → x.cuts = [c] → c.written = true →
    c.tick ≤ x.released → s.tickClosed x.pol c.tick = true → x.dropCount = 0 →
    ∃ t, exec (.cutFree n) s = .next t ∧ ∃ y, t.strm n = some y ∧ y.cuts = [] ∧ y.held = c.next) ∧
  (∀ (n : Fin 128) (x : Strm) (c : Cut) (s : State), s.strm n = some x → x.a = n → x.cuts = [c] →
    (x.released < c.tick ∨ s.tickClosed x.pol c.tick = false) → x.dropCount = 0 →
    ∃ t, exec (.cutFree n) s = .next t ∧ ∃ y, t.strm n = some y ∧ y.cuts = [c] ∧ y.held = x.held) ∧
  (∀ (a : Acc) (p : Pol) (n : Fin 128) (v : Word) (x : Strm) (k : Nat) (s : State), a.sec = true → s.strm n = some x → x.a = n →
    x.pol = p → x.published = some k → x.released ≤ min (v.toNat % 2 ^ 48) k →
    ∃ t, exec (.cutRel a p n v) s = .next t ∧ t.get .CUT_REL_TICK (instD p n) = min (v.toNat % 2 ^ 48) k % 2 ^ 48 ∧
      ∃ y, t.strm n = some y ∧ y.released = min (v.toNat % 2 ^ 48) k) ∧
  (∀ (a : Acc) (p : Pol) (n : Fin 128) (v : Word) (s : State), a.sec = true →
    (∀ x, s.strm n = some x → x.pol ≠ p) →
    ∃ t, exec (.cutRel a p n v) s = .next t ∧ t.ing = s.ing ∧ t.mem = s.mem) ∧
  (∀ (a : Acc) (p : Pol) (n : Fin 128) (v : Word) (s : State), a.sec = false → a.pol ≠ p →
    ∃ t, exec (.cutRel a p n v) s = .next t ∧ t.ing = s.ing ∧
      t.get .RGN_VIOL_COUNT (instH s.activeHalf 0) = min (s.get .RGN_VIOL_COUNT (instH s.activeHalf 0) + 1) (2 ^ 48 - 1)) ∧
  (∀ (a : Acc) (p : Pol) (v : Word) (x : Strm) (k : Nat) (s : State), a.sec = true → s.ing.heads = [x] → x.pol = p →
    x.published = some k → x.released ≤ min (v.toNat % 2 ^ 48) k →
    ∃ t, exec (.cutRelAll a p v) s = .next t ∧ ∃ y, t.strm x.a = some y ∧ y.released = min (v.toNat % 2 ^ 48) k) ∧
  (∀ (n : Fin 128) (x : Strm) (s : State), s.strm n = some x → (x.paired = false ∨ s.lost x.lead = false) →
    exec (.ingestLeadTakeover n) s = .next s) ∧
  (∀ (n : Fin 128) (x : Strm) (s : State), s.strm n = some x → x.a = n → x.paired = true → s.lost x.lead = true → x.slots = [] →
    x.run = none →
    ∃ t, exec (.ingestLeadTakeover n) s = .next t ∧ ∃ y, t.strm n = some y ∧ y.lead = 1 - x.lead ∧ y.cuts = x.cuts ∧
      y.nextSlot = x.nextSlot)

/-- R332, R333, R336 to R348: a module trains to the agreed level and features or is refused with its die held in reset; a damaged
flit is discarded and counted, a sequenced one in order is accepted, a duplicate draws no request; RETRY_REQ and 4 µs without ACK
progress resend; a retrain keeps the hub's record of the maps where it works and both ends resend; an idle module with FASTSLEEP
sleeps and wakes; a lost module reads STATE 0 and returns when it trains. -/
def Obligations.ModulesTrainRetryAndSleep : Prop :=
  (∀ (h : Half) (m : Fin 13) (x : LaneTest) (s : State), s.modState h m = 0 → s.isRetired 6 (h * 16 + m) = false →
    (s.lk (hubEnd h m)).lost = false → (s.lk (hubEnd h m)).fails < 3 →
    mapWorks (s.hubMap h m false) (x.tx.map Fin.val) = true → mapWorks (s.hubMap h m true) (x.rx.map Fin.val) = true →
    ∃ t, exec (.linkTrain h m true x) s = .next t ∧ t.modState h m = 1 ∧
      (t.lk (hubEnd h m)).txMap = s.hubMap h m false ∧ (t.lk (hubEnd h m)).rxMap = s.hubMap h m true) ∧
  (∀ (h : Half) (m : Fin 13) (x : LaneTest) (s : State), s.modState h m = 0 → s.isRetired 6 (h * 16 + m) = false →
    (s.lk (hubEnd h m)).lost = false → (s.lk (hubEnd h m)).fails < 3 →
    ∃ t, exec (.linkTrain h m false x) s = .next t ∧ t.modState h m = 0 ∧
      (t.lk (hubEnd h m)).fails = (s.lk (hubEnd h m)).fails + 1) ∧
  (∀ (h : Half) (m : Fin 13) (o : CapOffer) (s : State), s.modState h m = 1 → m.val < 12 → s.peerFits m o = true →
    ∃ t, exec (.cap h m o) s = .next t ∧ t.modState h m = 2 ∧ t.get .LK_STAT_LEVEL (instH h m) = min s.hubLevel o.level % 4 ∧
      t.get .LK_STAT_FEATURES (instH h m) =
        (s.hubFeatures &&& o.features.toNat &&& levelFeatures (min s.hubLevel o.level)) % 256 ∧
      (t.lk (hubEnd h m)).next = 0 ∧ (t.lk (hubEnd h m)).expect = 0 ∧ (t.lk (hubEnd h m)).replay = [] ∧
      (t.lk (dieEnd h m)).credits = linkCredits) ∧
  (∀ (h : Half) (m : Fin 13) (o : CapOffer) (s : State), s.modState h m = 1 → m.val < 12 →
    (o.kind ≠ 1 ∨ o.features.getLsbD 4 = true ∨ s.revOk o.rev = false) →
    ∃ t, exec (.cap h m o) s = .next t ∧ t.modState h m = 0 ∧ (t.die m).state = 3 ∧ t.get .LK_STAT_LAST_CAUSE (instH h m) = 5) ∧
  (∀ (l : LinkEnd) (f : Flit) (s : State), s.lkState l ≠ 2 → exec (.flitReceive l f) s = .next s) ∧
  (∀ (l : LinkEnd) (f : Flit) (s : State), l.die = false → s.lkState l = 2 → s.flitReal (endPeer l) f = true → f.crcOk = false →
    ∃ t, exec (.flitReceive l f) s = .next t ∧ (t.lk l).expect = (s.lk l).expect ∧ (t.lk l).owed = (s.lk l).owed ∧
      (t.lk l).credits = (s.lk l).credits ∧
      t.get .LK_CNT_CRC_ERR (instH l.half l.m) =
        min (s.get .LK_CNT_CRC_ERR (instH l.half l.m) + 1) (2 ^ Fld.width .LK_CNT_CRC_ERR - 1)) ∧
  (∀ (l : LinkEnd) (f : Flit) (s : State), endOurs l = true → s.lkState l = 2 → s.flitReal (endPeer l) f = true → f.crcOk = true →
    f.kind = 0 →
    fmtReserved f.fmt = false → f.seq.toNat = (s.lk l).expect →
    ∃ t, exec (.flitReceive l f) s = .next t ∧ (t.lk l).expect = ((s.lk l).expect + 1) % 1024 ∧ (t.lk l).retryAt = none ∧
      (t.lk l).owed = onVns (s.lk l).owed (fun i c => c + vnCount f.msgs i) ∧ t.out = s.out) ∧
  (∀ (l : LinkEnd) (f : Flit) (s : State), endOurs l = true → s.lkState l = 2 → s.flitReal (endPeer l) f = true → f.crcOk = true →
    f.kind = 0 →
    fmtReserved f.fmt = false → f.seq.toNat ≠ (s.lk l).expect → ((s.lk l).expect + 1024 - f.seq.toNat) % 1024 ≤ 512 →
    ∃ t, exec (.flitReceive l f) s = .next t ∧ (t.lk l).expect = (s.lk l).expect ∧ (t.lk l).owed = (s.lk l).owed ∧
      t.out = s.out) ∧
  (∀ (l : LinkEnd) (f : Flit) (s : State), endOurs l = true → s.lkState l = 2 → s.flitReal (endPeer l) f = true → f.crcOk = true →
    f.kind = 0 →
    fmtReserved f.fmt = true → (s.lk l).retryAt = none →
    ∃ t, exec (.flitReceive l f) s = .next t ∧ (t.lk l).expect = (s.lk l).expect ∧ (t.lk l).credits = (s.lk l).credits ∧
      (t.lk l).retryAt = some s.now ∧
      ∃ w ws, t.out = s.out ++ [.flit (endNo l) 1 (s.lk l).next (w :: ws)] ∧ w % 256 = 3 ∧ w / 256 % 1024 = (s.lk l).expect % 1024) ∧
  (∀ (l : LinkEnd) (q : BitVec 10) (s : State), endOurs l = true → s.lkState l = 2 →
    ∃ t, exec (.retryReq l q) s = .next t ∧ t.links = s.links ∧
      ∀ x ∈ (s.lk l).replay, (x.1 + 1024 - q.toNat) % 1024 < 512 → .flit (endNo l) 0 x.1 [x.2.1, x.2.2.length] ∈ t.out) ∧
  (∀ (l : LinkEnd) (n : Nat) (s : State), endOurs l = true → s.lkState l = 2 → (s.lk l).retryAt = some n → n + 2000 ≤ s.now →
    ∃ t, exec (.retryReqRepeat l) s = .next t ∧ (t.lk l).retryAt = some s.now ∧
      ∃ w ws, t.out = s.out ++ [.flit (endNo l) 1 (s.lk l).next (w :: ws)] ∧ w % 256 = 3 ∧ w / 256 % 1024 = (s.lk l).expect % 1024) ∧
  (∀ (l : LinkEnd) (s : State), (s.lk l).retryAt = none → exec (.retryReqRepeat l) s = .next s) ∧
  (∀ (l : LinkEnd) (s : State), endOurs l = true → s.lkState l = 2 → (s.lk l).replay ≠ [] → (s.lk l).ackAt + 4000 ≤ s.now →
    ∃ t, exec (.ackTimeoutResend l) s = .next t ∧ (t.lk l).ackAt = s.now ∧
      t.out = s.out ++ (s.lk l).replay.map fun x => .flit (endNo l) 0 x.1 [x.2.1, x.2.2.length]) ∧
  (∀ (l : LinkEnd) (s : State), (s.lk l).replay = [] → exec (.ackTimeoutResend l) s = .next s) ∧
  (∀ (l : LinkEnd) (s : State), endOurs l = true → s.lkState l = 2 →
    ∃ t, exec (.mapFlitSend l) s = .next t ∧ t.links = s.links ∧ t.regs = s.regs ∧
      ∃ w c, w % 256 = 2 ∧
        t.out = s.out ++ [.flit (endNo l) 1 (s.lk l).next ([w, (s.lk l).txMap, (s.lk l).rxMap, c, 512] ++ List.replicate 10 0)]) ∧
  (∀ (l : LinkEnd) (s : State), s.lkState l ≠ 2 → exec (.mapFlitSend l) s = .next s) ∧
  (∀ (l : LinkEnd) (s : State), s.maySleep l = true → s.linkIdle l = true → (s.lk l).sleepAt = none →
    ∃ t, exec (.sleepIdleExpired l) s = .next t ∧ t.regs = s.regs ∧ (t.lk l).sleepAt = some s.now ∧
      ∃ w ws, t.out = s.out ++ [.flit (endNo l) 1 (s.lk l).next (w :: ws)] ∧ w % 256 = 4) ∧
  (∀ (l : LinkEnd) (s : State), s.maySleep l = true → s.linkIdle l = true →
    ∃ t, exec (.sleepReq l) s = .next t ∧ t.regs = s.regs ∧
      ∃ w ws, t.out = s.out ++ [.flit (endNo l) 1 (s.lk l).next (w :: ws)] ∧ w % 256 = 5) ∧
  (∀ (l : LinkEnd) (s : State), (s.maySleep l = false ∨ s.linkIdle l = false) →
    exec (.sleepIdleExpired l) s = .next s ∧ exec (.sleepReq l) s = .next s) ∧
  (∀ (l : LinkEnd) (s : State), (s.maySleep l = false ∨ (s.lk l).sleepAt = none) → exec (.sleepAck l) s = .next s) ∧
  (∀ (l : LinkEnd) (s : State), s.maySleep l = true → s.linkIdle l = true → (s.lk l).sleepAt.isSome = true →
    ∃ t, exec (.sleepAck l) s = .next t ∧ t.modState l.half l.m = 3 ∧
      t.get .LK_CNT_SLEEPS (instH l.half l.m) = min (s.get .LK_CNT_SLEEPS (instH l.half l.m) + 1) (2 ^ Fld.width .LK_CNT_SLEEPS - 1)) ∧
  (∀ (l : LinkEnd) (s : State), s.modState l.half l.m = 3 →
    ∃ t, exec (.linkWake l) s = .next t ∧ t.modState l.half l.m = 2 ∧ (t.lk l).replay = (s.lk l).replay ∧
      (t.lk l).expect = (s.lk l).expect ∧ (t.lk l).credits = (s.lk l).credits) ∧
  (∀ (h : Half) (m : Fin 13) (x : LaneTest) (s : State), s.modState h m = 2 → s.crcHigh (hubEnd h m) = true →
    (s.get .LK_STAT_FEATURES (instH h m)).testBit 0 = true →
    mapWorks (s.hubMap h m false) (x.tx.map Fin.val) = true → mapWorks (s.hubMap h m true) (x.rx.map Fin.val) = true →
    ∃ t, exec (.laneTest h m x) s = .next t ∧ t.get .LK_STAT_LAST_CAUSE (instH h m) = 1 ∧
      t.hubMap h m false = s.hubMap h m false % 2 ^ 38 ∧ (t.lk (hubEnd h m)).replay = (s.lk (hubEnd h m)).replay ∧
      t.get .LK_CNT_RETRAINS (instH h m) = min (s.get .LK_CNT_RETRAINS (instH h m) + 1) (2 ^ Fld.width .LK_CNT_RETRAINS - 1)) ∧
  (∀ (h : Half) (m : Fin 13) (lane : Fin 64) (s : State), s.modState h m = 2 → s.crcHigh (hubEnd h m) = true →
    s.hubMap h m false = 0 → s.hubMap h m true = 0 →
    ∃ t, exec (.laneTest h m { tx := [], rx := [lane], ns := 0 }) s = .next t ∧ t.hubMap h m false = 0 ∧
      mapX32 (t.hubMap h m true) = false ∧ mapRepairs (t.hubMap h m true) = [lane.val]) ∧
  (∀ (h : Half) (m : Fin 13) (x : LaneTest) (s : State), s.modState h m ≠ 2 → exec (.laneTest h m x) s = .next s) ∧
  (∀ (a : Acc) (l : LinkEnd) (x : LaneTest) (s : State), a.sec = true → l.die = false → s.lost l.half = false →
    s.modState l.half l.m = 2 → (s.get .LK_STAT_FEATURES (instH l.half l.m)).testBit 0 = true → mapWorks (s.hubMap l.half l.m false) (x.tx.map Fin.val) = true →
    mapWorks (s.hubMap l.half l.m true) (x.rx.map Fin.val) = true →
    ∃ t, exec (.lkRetrain a l x) s = .next t ∧ t.get .LK_STAT_LAST_CAUSE (instH l.half l.m) = 3 ∧ t.modState l.half l.m = 2) ∧
  (∀ (l : LinkEnd) (x : LaneTest) (s : State), l.m.val < 12 → s.modState l.half l.m = 2 → s.mapsDiffer l.half l.m = true →
    (s.get .LK_STAT_FEATURES (instH l.half l.m)).testBit 0 = true →
    mapWorks (s.hubMap l.half l.m false) (x.tx.map Fin.val) = true →
    mapWorks (s.hubMap l.half l.m true) (x.rx.map Fin.val) = true →
    ∃ t, exec (.mapMismatch l x) s = .next t ∧ t.mapsDiffer l.half l.m = false ∧
      t.get .LK_STAT_LAST_CAUSE (instH l.half l.m) = 2 ∧
      t.get .LK_CNT_MISMATCH (instH l.half l.m) =
        min (s.get .LK_CNT_MISMATCH (instH l.half l.m) + 1) (2 ^ Fld.width .LK_CNT_MISMATCH - 1)) ∧
  (∀ (l : LinkEnd) (x : LaneTest) (s : State), s.mapsDiffer l.half l.m = false → exec (.mapMismatch l x) s = .next s) ∧
  (∀ (h : Half) (m : Fin 13) (c : Fin 3) (s : State), s.modState h m ≠ 0 → m.val < 12 → (c ≠ 2 ∨ s.silent h m = true) →
    ∃ t, exec (.linkModuleLoss h m c) s = .next t ∧ t.modState h m = 0 ∧ (t.lk (hubEnd h m)).lost = true ∧
      (t.get .DIR_STAT_PATHS (instH 0 0)).testBit m = false) ∧
  (∀ (h : Half) (m : Fin 13) (c : Fin 3) (s : State), s.modState h m = 0 → exec (.linkModuleLoss h m c) s = .next s) ∧
  (∀ (h : Half) (m : Fin 13) (s : State), (s.lk (hubEnd h m)).lost = true → s.isRetired 6 (h * 16 + m) = false →
    ∃ t, exec (.moduleRetrainTry h m true) s = .next t ∧ t.modState h m = 2 ∧ (t.lk (hubEnd h m)).lost = false ∧
      t.get .LK_STAT_LAST_CAUSE (instH h m) = 4) ∧
  (∀ (h : Half) (m : Fin 13) (g : Bool) (s : State), (s.lk (hubEnd h m)).lost = false →
    exec (.moduleRetrainTry h m g) s = .next s)

/-- R351 to R357: a fenced guest's requests are all refused and answered in silence; an admitted one is decoded once through the
lowest window that covers it and goes home with the window's tag; one the window does not allow, and one in control space, is
refused; over the cap a request waits; a message outside the profile, or poison under PQUAR, fences the guest; a doorbell keeps its
value; the loss of the module ends what was admitted; the bucket fills by RATE up to BURST × 64. -/
def Obligations.TheDikeAdmitsAndDecodes : Prop :=
  (∀ (g : Half) (m : Msg) (s : State), s.guestUp g = false → exec (.guestRequest g m) s = .next s) ∧
  (∀ (g : Half) (m : Msg) (s : State), s.guestUp g = true → guestMay m = true → (s.dike.get g).waiting = [] →
    s.flag .DK_CTL_FENCE (instH g 0) = true →
    ∃ t, exec (.guestRequest g m) s = .next t ∧ t.mem = s.mem ∧ t.fabric = s.fabric ∧ (t.dike.get g).waiting = [] ∧
      (t.dike.get g).tokens = (s.dike.get g).tokens ∧ .guest g (guestAnswer g m) ∈ t.out ∧
      t.get .DK_CNT_REFUSED (instH g 0) = min (s.get .DK_CNT_REFUSED (instH g 0) + 1) (2 ^ Fld.width .DK_CNT_REFUSED - 1)) ∧
  (∀ (g : Half) (m : Msg) (n : Nat) (s : State), s.guestUp g = true → m.ty = .readShared → m.a.toNat % 32 = 31 →
    (s.dike.get g).waiting = [] → s.flag .DK_CTL_FENCE (instH g 0) = false → s.dikeCap g = true →
    s.get .DK_CTL_RATE (instH g 0) = 0 → m.la.toNat * 64 < 0xFF00000000000 →
    s.dikeWindow g (m.la.toNat * 64) = some n → s.flag .DK_ATTR_RD (instH g n) = true →
    ∃ t, exec (.guestRequest g m) s = .next t ∧ (t.dike.get g).waiting = [] ∧
      (m.txid.toNat, s.get .DK_EPOCH_CURRENT (instH g 0)) ∈ (t.dike.get g).live ∧
      ∃ f ∈ t.fabric, f.ty = .readShared ∧ f.src = stopId (12 + g) 38 ∧ f.txid = m.txid ∧
        f.pol.val = s.get .DK_ATTR_POLDER (instH g n) % 32 ∧
        f.sec = (s.flag .DK_ATTR_SEC (instH g n) && (s.get .WORLD_ATTR_GUEST_SEC 0).testBit g) ∧
        f.la = BitVec.ofNat 46 ((m.la.toNat * 64 - s.get .DK_BASE_ADDR (instH g n) * 4096 +
          s.get .DK_TGT_ADDR (instH g n) * 4096) / 64)) ∧
  (∀ (g : Half) (m : Msg) (s : State), s.guestUp g = true → guestMay m = true → guestPoison m = false →
    (s.dike.get g).waiting = [] → s.flag .DK_CTL_FENCE (instH g 0) = false → s.dikeCap g = true →
    s.get .DK_CTL_RATE (instH g 0) = 0 → m.la.toNat * 64 < 0xFF00000000000 →
    (s.dikeWindow g (m.la.toNat * 64) = none ∨
      ∃ n, s.dikeWindow g (m.la.toNat * 64) = some n ∧ s.windowAllows g n m = false) →
    ∃ t, exec (.guestRequest g m) s = .next t ∧ t.mem = s.mem ∧ t.fabric = s.fabric ∧ .guest g (guestAnswer g m) ∈ t.out ∧
      t.get .DK_CNT_REFUSED (instH g 0) = min (s.get .DK_CNT_REFUSED (instH g 0) + 1) (2 ^ Fld.width .DK_CNT_REFUSED - 1)) ∧
  (∀ (g : Half) (m : Msg) (s : State), s.guestUp g = true → guestMay m = true → (s.dike.get g).waiting = [] →
    s.flag .DK_CTL_FENCE (instH g 0) = false → s.dikeCap g = false →
    ∃ t, exec (.guestRequest g m) s = .next t ∧ t.mem = s.mem ∧ t.fabric = s.fabric ∧ t.out = s.out ∧
      (t.dike.get g).waiting = [(m, false)]) ∧
  (∀ (g : Half) (m : Msg) (s : State), s.guestUp g = true → guestMay m = false → (s.dike.get g).waiting.length < 64 →
    ∃ t, exec (.guestRequest g m) s = .next t ∧ t.mem = s.mem ∧ t.fabric = s.fabric ∧
      t.flag .DK_CTL_FENCE (instH g 0) = true ∧ t.flag .DK_STAT_PQ_TRIP (instH g 0) = true) ∧
  (∀ (g : Half) (m : Msg) (s : State), s.guestUp g = true → guestMay m = true → guestPoison m = true →
    (s.dike.get g).waiting = [] → s.flag .DK_CTL_FENCE (instH g 0) = false → s.dikeCap g = true →
    s.get .DK_CTL_RATE (instH g 0) = 0 → s.flag .DK_CTL_PQUAR (instH g 0) = true →
    ∃ t, exec (.guestRequest g m) s = .next t ∧ t.mem = s.mem ∧ t.fabric = s.fabric ∧
      t.flag .DK_CTL_FENCE (instH g 0) = true ∧
      t.get .DK_CNT_POISON_IN (instH g 0) = min (s.get .DK_CNT_POISON_IN (instH g 0) + 1) (2 ^ Fld.width .DK_CNT_POISON_IN - 1)) ∧
  (∀ (g : Half) (d : Fin 16) (v : Word) (s : State), s.guestUp g = true → s.flag .DK_CTL_FENCE (instH g 0) = false →
    s.flag .DK_DBCFG_EN (instH g d) = true → s.get .DK_DBCFG_INTID (instH g d) < 0x200 →
    ∃ t, exec (.guestDoorbell g d v) s = .next t ∧ t.get .GDB_VALUE (instH g d) = v.toNat ∧ t.cores = s.cores) ∧
  (∀ (g : Half) (d : Fin 16) (v : Word) (s : State), s.flag .DK_DBCFG_EN (instH g d) = false →
    exec (.guestDoorbell g d v) s = .next s) ∧
  (∀ (g : Half) (s : State), (s.dike.get g).down = false →
    ∃ t, exec (.guestModuleLoss g) s = .next t ∧ (t.dike.get g).live = [] ∧ (t.dike.get g).waiting = [] ∧
      t.guestUp g = false ∧ t.mem = s.mem ∧ t.get .DK_STAT_OUTSTANDING (instH g 0) = 0) ∧
  (∀ (g : Half) (s : State), (s.dike.get g).waiting = [] →
    ∃ t, exec (.tokenBucketRefill g) s = .next t ∧ t.regs = s.regs ∧
      (t.dike.get g).tokens =
        min ((s.dike.get g).tokens + s.get .DK_CTL_RATE (instH g 0)) (max (s.get .DK_CTL_BURST (instH g 0)) 1 * 64))

/-- R359, R361 to R369, R371, R373, R377, R381: a peer with another CASCADE_ID is not used; a frame out of order on its link has no
effect; a flooded frame is taken once and forwarded; a member is reached and listed as it announces itself; a searching package
follows the master it hears of and takes its timing values; a master that ranks before the one followed is adopted, every channel to
be reconciled, and one that ranks after is not; the formation election is won by the lowest (PRIORITY, serial number); a member that
leaves or whose link is lost is no longer reachable; two-way timing gives a link's delay; SYNC of the time parent gives the offset
that is slewed. -/
def Obligations.CascadeMembersMastersAndTime : Prop :=
  (∀ s : State, s.csJoined = true →
    ∃ t, exec .helloSend s = .next t ∧ t.regs = s.regs ∧ t.cas.mems = s.cas.mems ∧
      (∀ c, c < 4 → s.csLink c = true → t.csSent c csHello s.selfWords = true) ∧
      ∀ c, c < 4 → s.csUp c = true → t.csSent c csMember (s.selfWords ++ [s.csRole, s.selfHops, s.selfPath, s.csTiming] ++
        (if s.csRole = 0 then [] else (List.range 8).map s.chanDiv)) = true) ∧
  (∀ s : State, s.csJoined = false → exec .helloSend s = .next s ∧ exec .hbSend s = .next s ∧ exec .syncSend s = .next s) ∧
  (∀ (h : CasHdr) (n : Word) (p : Byte) (a b : Bool) (s : State), s.csLink h.port = true → h.id.toNat = s.csId →
    h.lseq.toNat = ((s.csPort h.port).got + 1) % 65536 → ¬ (h.src.val = s.csIndex ∧ n.toNat ≠ Config.serial) →
    ∃ t, exec (.hello h n p a b) s = .next t ∧ t.get .CS_PORT_PEER (instPort2 h.port) = h.src ∧
      t.flag .CS_PORT_PEER_OK (instPort2 h.port) = ((t.csPort h.port).helloDone || s.flag .CS_PORT_PEER_OK (instPort2 h.port)) ∧
      t.flag .CS_MEM_MASTER_CAP h.src = a ∧ t.flag .CS_MEM_PROMOTE h.src = b ∧ t.get .CS_MEM_PRIORITY h.src = p.toNat ∧
      t.get .CS_MEM_SERIAL_LO h.src = n.toNat % 2 ^ 32 ∧ (t.csPort h.port).got = h.lseq.toNat) ∧
  (∀ (h : CasHdr) (n : Word) (p : Byte) (a b : Bool) (s : State), s.csLink h.port = true → h.id.toNat ≠ s.csId →
    ∃ t, exec (.hello h n p a b) s = .next t ∧ t.csUp h.port = false ∧ t.cas = s.cas) ∧
  (∀ (h : CasHdr) (n : Word) (p : Byte) (a b : Bool) (f : CasTick) (s : State), s.csLink h.port = true → h.id.toNat = s.csId →
    h.lseq.toNat ≠ ((s.csPort h.port).got + 1) % 65536 →
    ∃ t u, exec (.hello h n p a b) s = .next t ∧ exec (.tick h f) s = .next u ∧ t.regs = s.regs ∧ u.regs = s.regs ∧
      t.cas.mems = s.cas.mems ∧ u.cas.chans = s.cas.chans ∧ (t.csPort h.port).got = (s.csPort h.port).got) ∧
  (∀ (h : CasHdr) (n : Word) (p : Byte) (a b : Bool) (s : State), s.csLink h.port = false →
    exec (.hello h n p a b) s = .next s) ∧
  (∀ (h : CasHdr) (n : Word) (p : Byte) (a b : Bool) (k : Cmd) (s : State), s.csLink h.port = true → h.id.toNat = s.csId →
    h.lseq.toNat = ((s.csPort h.port).got + 1) % 65536 → h.src.val = s.csIndex → n.toNat ≠ Config.serial →
    s.cas.join = some k → (s.runningOf k).any (·.discard) = false →
    ∃ t, exec (.hello h n p a b) s = .next t ∧ answered t k 5 0 ∧ t.csState = 0 ∧ t.get .CS_CTL_PORTS 0 = 0) ∧
  (∀ (h : CasHdr) (f : MemberInfo) (ds : List (BitVec 64)) (s : State), s.hears h = true → h.src.val ≠ s.csIndex → f.role = 0 →
    ∃ t, exec (.member h f ds) s = .next t ∧ t.flag .CS_MEM_REACH h.src = true ∧
      t.flag .CS_MEM_MASTER_CAP h.src = f.masterCap ∧ t.flag .CS_MEM_PROMOTE h.src = f.promote ∧ t.get .CS_MEM_ROLE h.src = 0 ∧
      t.get .CS_MEM_PRIORITY h.src = f.prio.toNat ∧ t.get .CS_MEM_SERIAL_LO h.src = f.serial.toNat % 2 ^ 32 ∧
      (t.get .CS_STAT_MEMBERS 0).testBit h.src = true ∧
      (s.member h.src = none → t.csVia h.src = some (h.port.val, 16 - h.ttl.val) ∧ t.get .CS_MEM_HOPS h.src = (16 - h.ttl.val) % 16)) ∧
  (∀ (h : CasHdr) (f : MemberInfo) (ds : List (BitVec 64)) (s : State), s.hears h = true → s.csSeen h = false →
    h.src.val ≠ s.csIndex → s.csState = 1 → s.csCald = true → f.role ≠ 0 →
    (∀ k, s.cas.join = some k → (s.runningOf k).any (·.discard) = false) →
    ∃ t, exec (.member h f ds) s = .next t ∧ t.csState = (if f.role = 2 then 6 else 2) ∧ t.csMaster = h.src ∧
      t.csTiming = f.timing.toNat ∧ t.cas.join = none ∧ ∀ k, s.cas.join = some k → answered t k 0 s.csIndex) ∧
  (∀ (h : CasHdr) (f : MemberInfo) (ds : List (BitVec 64)) (s : State), s.hears h = true → s.csSeen h = false →
    h.src.val ≠ s.csIndex → 1 < s.csState → s.csState ≠ 4 → h.src.val ≠ s.csMaster → f.role = 1 →
    ∃ t, exec (.member h f ds) s = .next t ∧
      if keyBefore (rankKey false f.prio.toNat f.serial.toNat) s.cas.key = true then
        t.csState = 2 ∧ t.csMaster = h.src ∧ t.csTiming = f.timing.toNat ∧ t.cas.key = rankKey false f.prio.toNat f.serial.toNat ∧
          ∀ n, n < 8 → s.get .CS_CHAN_STATE n ≠ 0 → (t.chan n).adopt = (s.chan n).ticked ∧ (t.chan n).num = (s.chan n).num ∧
            (t.chan n).electAt = none ∧ t.get .CS_CHAN_MASTER n = h.src
      else t.csState = s.csState ∧ t.csMaster = s.csMaster ∧ t.cas.chans = s.cas.chans) ∧
  (∀ (h : CasHdr) (f : MemberInfo) (ds : List (BitVec 64)) (n : Nat) (s : State), s.hears h = true → s.csSeen h = false →
    h.src.val ≠ s.csIndex → s.csState = 4 → f.role = 2 → h.src.val ≠ s.csMaster → n < 8 → bitOf (divOf ds n) 57 = true →
    s.get .CS_CHAN_STATE n = 2 →
    ∃ t, exec (.member h f ds) s = .next t ∧ t.csState = 6 ∧ t.csMaster = h.src ∧ t.get .CS_CHAN_STATE n = 3 ∧
      t.get .CS_CHAN_MASTER n = h.src ∧ (t.chan n).adopt = (s.chan n).ticked ∧
      t.get .CS_CHDIV_N n = bitsOf (divOf ds n) 55 32 ∧ t.get .CS_CHDIV_FRAC n = bitsOf (divOf ds n) 31 0) ∧
  (∀ (h : CasHdr) (f : MemberInfo) (ds : List (BitVec 64)) (s : State), s.csLink h.port = false →
    exec (.member h f ds) s = .next s) ∧
  (∀ (h : CasHdr) (i : Option (Fin 8)) (p : Byte) (n : Word) (s : State), s.hears h = true → s.csSeen h = false →
    ∃ t, exec (.elect h i p n) s = .next t ∧ t.regs = s.regs ∧
      (∀ k, i = some k → (k.val, p.toNat, n.toNat, h.src.val) ∈ t.cas.isle) ∧
      (i = none → s.csState = 1 → (p.toNat, n.toNat, h.src.val) ∈ t.cas.cands) ∧
      (h.ttl ≠ 0 → ∀ q, q < 4 → s.csUp q = true → q ≠ h.port.val →
        t.csSent q csElect ((match i with | some k => [1, k.val] | none => [0, 0]) ++ [p.toNat, n.toNat]) = true)) ∧
  (∀ (h : CasHdr) (i : Option (Fin 8)) (p : Byte) (n : Word) (s : State), s.hears h = true → s.csSeen h = true →
    ∃ t, exec (.elect h i p n) s = .next t ∧ t.regs = s.regs ∧ t.cas.isle = s.cas.isle ∧ t.cas.cands = s.cas.cands) ∧
  (∀ s : State, s.csState = 1 → s.cas.electAt = none → s.cas.joinAt + 10000000 ≤ s.now → s.flag .CS_CTL_MASTER_CAP 0 = true →
    ∃ t, exec .masterSearchTimeout s = .next t ∧ t.cas.electAt = some s.now ∧ s.selfCand ∈ t.cas.cands ∧ t.regs = s.regs ∧
      ∀ q, q < 4 → s.csUp q = true → t.csSent q csElect [0, 0, s.get .CS_CTL_PRIORITY 0, Config.serial] = true) ∧
  (∀ (s : State) (k : Cmd), s.csState = 1 → s.cas.electAt = none → s.cas.joinAt + 10000000 ≤ s.now →
    s.flag .CS_CTL_MASTER_CAP 0 = false → s.cas.mems = [] → s.cas.cands = [] → s.cas.join = some k →
    (s.runningOf k).any (·.discard) = false →
    ∃ t, exec .masterSearchTimeout s = .next t ∧ answered t k 0 s.csIndex ∧ t.csState = 1) ∧
  (∀ s : State, s.csState ≠ 1 → exec .masterSearchTimeout s = .next s) ∧
  (∀ (n : Fin 8) (s : State) (t0 : Nat), s.csState = 1 → s.cas.electAt = some t0 → t0 + 2000000 ≤ s.now →
    s.selfCand ∈ s.cas.cands → s.csIndex < 16 →
    (∀ x ∈ s.cas.cands, x = s.selfCand ∨ s.selfCand.1 < x.1 ∨ s.selfCand.1 = x.1 ∧ s.selfCand.2.1 < x.2.1) →
    (∀ k, s.cas.join = some k → (s.runningOf k).any (·.discard) = false) →
    ∃ t, exec (.electionWaitEnd false n) s = .next t ∧ t.csState = 3 ∧ t.csMaster = s.csIndex ∧ t.cas.electAt = none ∧
      ∀ k, s.cas.join = some k → answered t k 0 s.csIndex) ∧
  (∀ (n : Fin 8) (s : State) (t0 : Nat) (w : Nat × Nat × Nat), s.csState = 1 → s.cas.electAt = some t0 → t0 + 2000000 ≤ s.now →
    w ∈ s.cas.cands → w ≠ s.selfCand → w.2.2 < 16 →
    (∀ x ∈ s.cas.cands, x = w ∨ w.1 < x.1 ∨ w.1 = x.1 ∧ w.2.1 < x.2.1) →
    (∀ k, s.cas.join = some k → (s.runningOf k).any (·.discard) = false) →
    ∃ t, exec (.electionWaitEnd false n) s = .next t ∧ t.csState = 2 ∧ t.csMaster = w.2.2 ∧
      ∀ k, s.cas.join = some k → answered t k 0 s.csIndex) ∧
  (∀ (n : Fin 8) (s : State), s.cas.electAt = none → exec (.electionWaitEnd false n) s = .next s) ∧
  (∀ (h : CasHdr) (b : Fin 8) (s : State), s.hears h = true → s.csSeen h = false →
    ∃ t, exec (.hb h b) s = .next t ∧ t.regs = s.regs ∧ t.cas.hbAt = if s.csMaster = h.src then s.now else s.cas.hbAt) ∧
  (∀ s : State, s.csJoined = true →
    ∃ t, exec .hbSend s = .next t ∧ t.csState = s.csState ∧ t.csMaster = s.csMaster ∧ t.cas.chans = s.cas.chans ∧
      (∀ q, q < 4 → s.csUp q = true → t.csSent q csHb [s.csState] = true) ∧
      ∀ i m, i < 16 → s.member i = some m → s.isMaker i = false → m.hbAt + 60000 < s.now →
        t.member i = none ∧ t.flag .CS_MEM_REACH i = false) ∧
  (∀ (h : CasHdr) (i : Fin 16) (n : Fin 8) (o w : Fin 16) (v : BitVec 48) (s : State), s.hears h = true → s.csSeen h = false →
    ∃ t, exec (.recon h i n o w v) s = .next t ∧ t.cas.chans = s.cas.chans ∧ t.get .CS_CHAN_OFS n = s.get .CS_CHAN_OFS n ∧
      (h.ttl ≠ 0 → ∀ q, q < 4 → s.csUp q = true → q ≠ h.port.val →
        t.csSent q csRecon [i.val, n.val, o.val, w.val, v.toNat] = true)) ∧
  (∀ (h : CasHdr) (s : State), s.hears h = true → s.csSeen h = false →
    ∃ t, exec (.leave h) s = .next t ∧ t.flag .CS_MEM_REACH h.src = false ∧ t.csRoute h.src = none ∧
      (s.csState = 2 → s.csMaster = h.src → s.csIndex ≠ h.src → (∀ n, n < 8 → s.get .CS_CHAN_MASTER n = h.src) →
        t.csState = 4 ∧ ∀ n, n < 8 → s.get .CS_CHAN_STATE n = 1 → t.get .CS_CHAN_STATE n = 2)) ∧
  (∀ (h : CasHdr) (b : Fin 8) (s : State), s.csLink h.port = false →
    exec (.leave h) s = .next s ∧ exec (.hb h b) s = .next s) ∧
  (∀ (c : Fin 4) (s : State), s.csUp c = true →
    ∃ t, exec (.calSend c) s = .next t ∧ t.regs = s.regs ∧ t.csSent c csCal [0, s.now] = true ∧ (t.csPort c).cal1 = some s.now) ∧
  (∀ (c : Fin 4) (s : State), s.csUp c = false → exec (.calSend c) s = .next s) ∧
  (∀ (h : CasHdr) (s : State), s.hears h = true →
    ∃ t, exec (.cal h none) s = .next t ∧ t.regs = s.regs ∧ t.csSent h.port csCal [1, s.now, s.now] = true) ∧
  (∀ (h : CasHdr) (t1 : Nat) (t2 t3 : Word) (s : State), s.hears h = true → (s.csPort h.port).cal1 = some t1 →
    s.get .CS_PORT_ASYM (instPort2 h.port) < 65536 →
    ∃ t, exec (.cal h (some (t2, t3))) s = .next t ∧ t.now = s.now ∧ (t.csPort h.port).cald = true ∧
      (t.csPort h.port).cal1 = none ∧
      t.get .CS_PORT_DELAY (instPort2 h.port) =
        min ((((s.now : Int) - t1 - ((t3.toNat : Int) - t2.toNat)) * 500 +
          (BitVec.ofNat 16 (s.get .CS_PORT_ASYM (instPort2 h.port))).toInt) / 1000).toNat 65535) ∧
  (∀ (h : CasHdr) (x : Word × Word) (s : State), s.hears h = true → (s.csPort h.port).cal1 = none →
    ∃ t, exec (.cal h (some x)) s = .next t ∧ t.regs = s.regs) ∧
  (∀ (h : CasHdr) (pt : Word) (s : State), s.hears h = true → s.timePort = some h.port.val →
    ∃ t, exec (.sync h pt) s = .next t ∧ t.now = s.now ∧
      ∃ off : Int, off = signed64 (unsigned64 ((pt.toNat : Int) + s.get .CS_PORT_DELAY (instPort2 h.port) - s.now)) ∧
        t.flag .CS_STAT_CONVERGING 0 = decide (20 < off.natAbs) ∧
        t.te.phaseLeft = if s.get .PT_CTL_SRC 0 = 3 then off else s.te.phaseLeft) ∧
  (∀ (h : CasHdr) (pt : Word) (s : State), s.hears h = true → s.timePort ≠ some h.port.val →
    ∃ t, exec (.sync h pt) s = .next t ∧ t.regs = s.regs ∧ t.te = s.te) ∧
  (∀ s : State, s.csJoined = true →
    ∃ t, exec .syncSend s = .next t ∧ t.regs = s.regs ∧ ∀ q, q < 4 → s.csUp q = true → t.csSent q csSync [s.now] = true) ∧
  (∀ (c : Fin 4) (s : State), s.csLink c = true → (s.csPort c).sent ≠ [] → (s.csPort c).ackAt + 5000 ≤ s.now →
    ∃ t, exec (.cascadeLinkResend c none) s = .next t ∧
      t.get .CS_CNT_RESENDS 0 = min (s.get .CS_CNT_RESENDS 0 + 1) (2 ^ Fld.width .CS_CNT_RESENDS - 1) ∧
      ∀ f ∈ (s.csPort c).sent, .cascade c { f with lack := (s.csPort c).got } ∈ t.out) ∧
  (∀ (c : Fin 4) (k : BitVec 16) (f : CsFrame) (s : State), s.csLink c = true → f ∈ (s.csPort c).sent →
    0 < (f.lseq + 65536 - k.toNat) % 65536 → (f.lseq + 65536 - k.toNat) % 65536 ≤ 128 →
    ∃ t, exec (.cascadeLinkResend c (some k)) s = .next t ∧ f ∈ (t.csPort c).sent ∧
      .cascade c { f with lack := (s.csPort c).got } ∈ t.out ∧
      t.get .CS_CNT_RESENDS 0 = min (s.get .CS_CNT_RESENDS 0 + 1) (2 ^ Fld.width .CS_CNT_RESENDS - 1)) ∧
  (∀ (c : Fin 4) (l : Option (BitVec 16)) (s : State), s.csLink c = false → exec (.cascadeLinkResend c l) s = .next s) ∧
  (∀ (c : Fin 4) (s : State), s.flag .CS_PORT_LINK (instPort2 c) = true →
    ∃ t, exec (.cascadeLinkDown c) s = .next t ∧ t.flag .CS_PORT_LINK (instPort2 c) = false ∧ t.csUp c = false ∧
      (∀ i m, i < 16 → s.member i = some m → (∀ x ∈ m.via, x.1 = c.val) → t.csRoute i = none ∧ t.flag .CS_MEM_REACH i = false) ∧
      (∀ i m, i < 16 → s.member i = some m → (∃ x ∈ m.via, x.1 ≠ c.val) → (t.member i).isSome = true) ∧
      (∀ m, s.csState = 2 → s.csMaster < 16 → s.csIndex ≠ s.csMaster → s.member s.csMaster = some m → (∀ x ∈ m.via, x.1 = c.val) →
        (∀ n, n < 8 → s.get .CS_CHAN_MASTER n = s.csMaster) → t.csState = 4)) ∧
  (∀ (c : Fin 4) (s : State), s.flag .CS_PORT_LINK (instPort2 c) = false →
    exec (.cascadeLinkDown c) s = .next s ∧
      ∃ t, exec (.cascadeLinkUp c) s = .next t ∧
        t.flag .CS_PORT_LINK (instPort2 c) = (s.get .CS_CTL_PORTS 0).testBit c ∧ t.cas.mems = s.cas.mems ∧
        ((s.get .CS_CTL_PORTS 0).testBit c = true → t.csPort c = CsPort.reset))

/-- R367, R370, R373 to R376, R378, R379: a TICK of the channel's maker is delivered to the polders bound to its channel at its
edge PTIME + L_CASCADE under the local number; the first TICK after a change of maker or in holdover takes the next local
number, and OFS and a flooded RECON say so, while one that holdover already numbered is dropped; an edge of the master's channel
polder, and of an island master, is flooded; a member that loses its master enters holdover on every channel it takes from it, makes
edges at the mean interval with the next local numbers up to its limits, and then stands for island master or stalls the channel. -/
def Obligations.ChannelTicksHoldoverAndIslands : Prop :=
  (∀ (h : CasHdr) (f : CasTick) (s : State) (p : Nat) (v : Polder), s.hears h = true → s.csSeen h = false →
    s.takesFrom f.chan h.src = true → s.csState ≠ 4 → s.get .CS_CHAN_STATE f.chan = 1 → (s.chan f.chan).ticked = true →
    (s.chan f.chan).adopt = false →
    (f.num.toNat + s.get .CS_CHAN_OFS f.chan) % 2 ^ 48 = ((s.chan f.chan).num + 1) % 2 ^ 48 → (s.chan f.chan).num < 2 ^ 48 →
    s.bound f.chan = [p] → s.polder p = some v → s.get .TK_NOW_STATE p = 1 → (s.ctx p).next = none →
    (s.ctx p).suspendNext = false → (s.ctx p).stall = none → (s.ctx p).stretching = false →
    ∃ t, exec (.tick h f) s = .next t ∧ t.get .TK_NOW_NUM p = ((s.chan f.chan).num + 1) % 2 ^ 48 ∧
      t.get .TK_EDGE_PTIME p = f.edge.toNat ∧ (t.chan f.chan).num = ((s.chan f.chan).num + 1) % 2 ^ 48 ∧
      (t.chan f.chan).edge = f.edge.toNat ∧ t.get .CS_CHAN_OFS f.chan = s.get .CS_CHAN_OFS f.chan ∧
      ∀ d ∈ s.polDies p, ∀ k, (k = 0 ∨ k = 1) → s.lost k = false →
        ∃ m, (d, k, m) ∈ (t.ctx p).msgs ∧ m.num = ((s.chan f.chan).num + 1) % 2 ^ 48 ∧ m.edge = f.edge.toNat ∧
          (v.everTicked = false → m.fire = f.edge.toNat + s.lCascade)) ∧
  (∀ (h : CasHdr) (f : CasTick) (s : State), s.hears h = true → s.csSeen h = false → s.takesFrom f.chan h.src = true →
    s.csState = 4 → (s.chan f.chan).ticked = true → (s.chan f.chan).adopt = false → (s.chan f.chan).num < 2 ^ 48 →
    s.get .CS_CHAN_STATE f.chan = 2 → s.cas.heldAt ≠ s.now →
    (s.chan f.chan).made ≤ ((s.chan f.chan).num + 2 ^ 48 - s.localNum f) % 2 ^ 48 →
    ∃ t, exec (.tick h f) s = .next t ∧ t.csState = (if f.island then 6 else 2) ∧
      t.get .CS_CHAN_STATE f.chan = (if f.island then 3 else 1) ∧ (t.chan f.chan).num = ((s.chan f.chan).num + 1) % 2 ^ 48 ∧
      (t.chan f.chan).adopt = false ∧
      t.get .CS_CHAN_OFS f.chan = (((s.chan f.chan).num + 1) % 2 ^ 48 + 2 ^ 48 - f.num.toNat) % 2 ^ 48 ∧
      t.get .CS_CNT_RECONCILES 0 = min (s.get .CS_CNT_RECONCILES 0 + 1) (2 ^ Fld.width .CS_CNT_RECONCILES - 1)) ∧
  (∀ (h : CasHdr) (f : CasTick) (s : State), s.hears h = true → s.csSeen h = false → s.takesFrom f.chan h.src = true →
    s.get .CS_CHAN_STATE f.chan = 2 → (s.chan f.chan).adopt = false → 0 < (s.chan f.chan).made →
    ((s.chan f.chan).num + 2 ^ 48 - s.localNum f) % 2 ^ 48 < (s.chan f.chan).made →
    ∃ t, exec (.tick h f) s = .next t ∧ t.regs = s.regs ∧ t.cas.chans = s.cas.chans ∧ t.te = s.te) ∧
  (∀ (h : CasHdr) (f : CasTick) (s : State), s.hears h = true → s.csSeen h = false → s.takesFrom f.chan h.src = true →
    s.get .CS_CHAN_STATE f.chan = 2 → (s.chan f.chan).adopt = false → (s.chan f.chan).made = 0 → s.cas.heldAt = s.now →
    (s.chan f.chan).ticked = true → (s.chan f.chan).num < 2 ^ 48 → s.localNum f = ((s.chan f.chan).num + 1) % 2 ^ 48 →
    ∃ t, exec (.tick h f) s = .next t ∧ t.get .CS_CHAN_STATE f.chan = 2 ∧ (t.chan f.chan).num = s.localNum f ∧
      (t.chan f.chan).edge = f.edge.toNat ∧ (t.chan f.chan).made = 0) ∧
  (∀ (h : CasHdr) (f : CasTick) (s : State), s.hears h = true → s.csSeen h = false → s.takesFrom f.chan h.src = true →
    s.csState ≠ 4 → s.get .CS_CHAN_STATE f.chan ≠ 2 → (s.chan f.chan).ticked = true → (s.chan f.chan).num < 2 ^ 48 →
    (s.chan f.chan).adopt = true →
    ∃ t, exec (.tick h f) s = .next t ∧ (t.chan f.chan).num = ((s.chan f.chan).num + 1) % 2 ^ 48 ∧
      (t.chan f.chan).adopt = false ∧
      t.get .CS_CHAN_OFS f.chan = (((s.chan f.chan).num + 1) % 2 ^ 48 + 2 ^ 48 - f.num.toNat) % 2 ^ 48 ∧
      ∀ q, q < 4 → s.csUp q = true →
        t.csSent q csRecon [s.csIndex, f.chan.val, (s.chan f.chan).old, h.src.val, t.get .CS_CHAN_OFS f.chan] = true) ∧
  (∀ (h : CasHdr) (f : CasTick) (s : State), s.hears h = true → s.takesFrom f.chan h.src = false →
    ∃ t, exec (.tick h f) s = .next t ∧ t.regs = s.regs ∧ t.cas.chans = s.cas.chans ∧ t.te = s.te) ∧
  (∀ (p : Pol) (n e : Nat) (cnt : Word) (s : State) (v : Polder), s.polder p = some v → s.get .TK_NOW_STATE p = 1 →
    (s.ctx p).encFailed = false → s.tkSource p = 1 → s.edgeDue p = some (e, cnt) → (s.ctx p).next = none →
    (s.ctx p).first = none → s.masterChans p = [n] →
    ∃ t, exec (.tickEdge p none) s = .next t ∧ (t.chan n).num = (s.get .TK_NOW_NUM p + 1) % 2 ^ 48 ∧ (t.chan n).edge = e ∧
      ∀ q, q < 4 → s.csUp q = true → t.csSent q csTick [n, (s.get .TK_NOW_NUM p + 1) % 2 ^ 48, e, cnt.toNat, 0] = true) ∧
  (∀ (p : Pol) (s : State) (v : Polder), s.polder p = some v → (s.ctx p).encFailed = false →
    (s.tkSource p = 4 ∨ s.get .TK_NOW_STATE p = 0) → s.flag .CS_TBIND_VALID p = true →
    s.isleDue (s.get .CS_TBIND_CHANNEL p) = true →
    ∃ t n, n = s.get .CS_TBIND_CHANNEL p ∧ exec (.tickEdge p none) s = .next t ∧ (t.chan n).k = (s.chan n).k + 1 ∧
      (t.chan n).num = ((s.chan n).num + 1) % 2 ^ 48 ∧ (t.chan n).edge = s.now ∧
      ∀ q, q < 4 → s.csUp q = true →
        t.csSent q csTick [n, ((s.chan n).num + 1) % 2 ^ 48, s.now, unsigned64 (s.encPos (s.isleEnc n)), 1] = true) ∧
  (∀ (m : Fin 16) (s : State), (s.csState = 2 ∨ s.csState = 6) → s.csMaster = m → s.csIndex ≠ m →
    (∀ n, n < 8 → s.get .CS_CHAN_MASTER n = m) → s.cas.hbAt + 60000 ≤ s.now →
    ∃ t, exec (.masterLoss m false) s = .next t ∧ t.csState = 4 ∧ t.cas.heldAt = s.now ∧
      t.get .CS_CNT_HOLDOVERS 0 = min (s.get .CS_CNT_HOLDOVERS 0 + 1) (2 ^ Fld.width .CS_CNT_HOLDOVERS - 1) ∧
      ∀ n, n < 8 → (t.chan n).num = (s.chan n).num ∧
        if s.get .CS_CHAN_STATE n = 1 ∨ s.get .CS_CHAN_STATE n = 3 then t.get .CS_CHAN_STATE n = 2 ∧ (t.chan n).made = 0
        else t.get .CS_CHAN_STATE n = s.get .CS_CHAN_STATE n) ∧
  (∀ (m : Fin 16) (s : State), (s.csState = 2 ∨ s.csState = 6) → s.csMaster = m → s.csIndex ≠ m →
    (∀ n, n < 8 → s.get .CS_CHAN_MASTER n = m) → s.csRoute m = none →
    ∃ t, exec (.masterLoss m true) s = .next t ∧ t.csState = 4 ∧
      ∀ n, n < 8 → (s.get .CS_CHAN_STATE n = 1 ∨ s.get .CS_CHAN_STATE n = 3) → t.get .CS_CHAN_STATE n = 2) ∧
  (∀ (m : Fin 16) (x y : Nat × Nat) (v : Member) (s : State), s.member m = some v → v.via = [x, y] → x.1 ≠ y.1 →
    s.csUp y.1 = true → s.csRoute m = some x.1 → s.canLose m = true →
    ∃ t, exec (.masterLoss m true) s = .next t ∧ t.csRoute m = some y.1 ∧ t.csState = s.csState ∧ t.regs = s.regs) ∧
  (∀ (m : Fin 16) (s : State), s.csMaster = m → s.now < s.cas.hbAt + 60000 → exec (.masterLoss m false) s = .next s) ∧
  (∀ (m : Fin 16) (r : Bool) (s : State), s.canLose m = false → exec (.masterLoss m r) s = .next s) ∧
  (∀ (n : Fin 8) (s : State), s.get .CS_CHAN_STATE n = 2 → (s.chan n).electAt = none → (s.chan n).ivals ≠ [] →
    (s.chan n).made < s.get .CS_TIMING_HOLD_TICKS 0 → (s.chan n).base + (s.chan n).after ((s.chan n).made + 1) ≤ s.now →
    (s.chan n).after ((s.chan n).made + 1) ≤ s.get .CS_TIMING_HOLD_MS 0 * 1000000 →
    ∃ t, exec (.holdoverEdge n) s = .next t ∧ (t.chan n).num = ((s.chan n).num + 1) % 2 ^ 48 ∧
      (t.chan n).edge = (s.chan n).base + (s.chan n).after ((s.chan n).made + 1) ∧ (t.chan n).made = (s.chan n).made + 1 ∧
      (t.chan n).ivals = (s.chan n).ivals ∧ t.get .CS_CHAN_STATE n = 2 ∧
      ∀ p, s.bound n = [p] → (s.ctx p).next = none → t.get .TK_NOW_NUM p = ((s.chan n).num + 1) % 2 ^ 48) ∧
  (∀ (n : Fin 8) (s : State), (s.get .CS_CHAN_STATE n ≠ 2 ∨ s.get .CS_TIMING_HOLD_TICKS 0 ≤ (s.chan n).made ∨
      (s.chan n).electAt.isSome = true) →
    exec (.holdoverEdge n) s = .next s) ∧
  (∀ (n : Fin 8) (s : State), s.get .CS_CHAN_STATE n = 2 → (s.chan n).electAt = none →
    (s.get .CS_TIMING_HOLD_TICKS 0 ≤ (s.chan n).made ∨ (s.chan n).base + s.get .CS_TIMING_HOLD_MS 0 * 1000000 ≤ s.now) →
    s.flag .CS_CTL_PROMOTE 0 = true → s.flag .CS_CHAN_ENC_EN n = true →
    ∃ t, exec (.holdoverEnd n) s = .next t ∧ (t.chan n).electAt = some s.now ∧ (n.val, s.selfCand) ∈ t.cas.isle ∧
      t.regs = s.regs ∧
      ∀ q, q < 4 → s.csUp q = true → t.csSent q csElect [1, n.val, s.get .CS_CTL_PRIORITY 0, Config.serial] = true) ∧
  (∀ (n : Fin 8) (s : State), s.get .CS_CHAN_STATE n = 2 → (s.chan n).electAt = none →
    (s.get .CS_TIMING_HOLD_TICKS 0 ≤ (s.chan n).made ∨ (s.chan n).base + s.get .CS_TIMING_HOLD_MS 0 * 1000000 ≤ s.now) →
    s.flag .CS_CTL_PROMOTE 0 = false → (∀ i, i < 16 → s.flag .CS_MEM_REACH i = false ∨ s.flag .CS_MEM_PROMOTE i = false) →
    ∃ t, exec (.holdoverEnd n) s = .next t ∧ t.get .CS_CHAN_STATE n = 4 ∧ ∀ p ∈ s.bound n, t.get .TK_NOW_STATE p = 3) ∧
  (∀ (n : Fin 8) (s : State), s.get .CS_CHAN_STATE n = 2 → (s.chan n).made < s.get .CS_TIMING_HOLD_TICKS 0 →
    s.now < (s.chan n).base + s.get .CS_TIMING_HOLD_MS 0 * 1000000 → exec (.holdoverEnd n) s = .next s) ∧
  (∀ (n : Fin 8) (s : State) (t0 : Nat), (s.chan n).electAt = some t0 → t0 + 200000 ≤ s.now → s.get .CS_CHAN_STATE n = 2 →
    s.csState = 4 → (n.val, s.selfCand) ∈ s.cas.isle → s.csIndex < 16 →
    (∀ x ∈ s.cas.isle, x.1 ≠ n.val ∨ x.2 = s.selfCand ∨ s.selfCand.1 < x.2.1 ∨
      s.selfCand.1 = x.2.1 ∧ s.selfCand.2.1 < x.2.2.1) →
    ∃ t, exec (.electionWaitEnd true n) s = .next t ∧ t.csState = 5 ∧ t.csMaster = s.csIndex ∧ t.get .CS_CHAN_STATE n = 3 ∧
      t.get .CS_CHAN_MASTER n = s.csIndex ∧ (t.chan n).p0 = s.islePos n ∧ (t.chan n).k = 0 ∧ (t.chan n).adopt = false ∧
      (t.chan n).num = (s.chan n).num) ∧
  (∀ (n : Fin 8) (s : State) (t0 : Nat) (w : Nat × Nat × Nat), (s.chan n).electAt = some t0 → t0 + 200000 ≤ s.now →
    s.get .CS_CHAN_STATE n = 2 → s.csState = 4 → (n.val, w) ∈ s.cas.isle → w ≠ s.selfCand → w.2.2 < 16 →
    (∀ x ∈ s.cas.isle, x.1 ≠ n.val ∨ x.2 = w ∨ w.1 < x.2.1 ∨ w.1 = x.2.1 ∧ w.2.1 < x.2.2.1) →
    ∃ t, exec (.electionWaitEnd true n) s = .next t ∧ t.csState = 6 ∧ t.csMaster = w.2.2 ∧ t.get .CS_CHAN_STATE n = 3 ∧
      t.get .CS_CHAN_MASTER n = w.2.2 ∧ (t.chan n).adopt = (s.chan n).ticked) ∧
  (∀ (n : Fin 8) (s : State) (t0 : Nat), (s.chan n).electAt = some t0 → t0 + 200000 ≤ s.now → s.get .CS_CHAN_STATE n = 2 →
    (∀ x ∈ s.cas.isle, x.1 ≠ n.val) →
    ∃ t, exec (.electionWaitEnd true n) s = .next t ∧ t.get .CS_CHAN_STATE n = 4 ∧ ∀ p ∈ s.bound n, t.get .TK_NOW_STATE p = 3)

/-- R363, R365 to R367, R372, R380 to R383: CASCADE_JOIN puts a good record in force and waits for a master, or says why not;
CASCADE_LEAVE disables the ports and stalls the channels in use; CS_TBIND, a relay and a send ring are set and answer their earlier
value; a put and a get inside an exported window become a Write and a ReadShared at home, and outside every window are refused
silently, and a frame for another member goes on by the route; staged windows take force at GO; a doorbell takes a tail below the
ring's size; a transfer's last line writes its done word. -/
def Obligations.CascadeCommandsWindowsAndTransfers : Prop :=
  (∀ (c : Cmd) (s : State), s.passes specCasJoin c = true → s.csJoined = false → s.bufLen c = 64 → bitsOf c.e.p0 3 0 ≠ 0 →
    s.joinOk (fun i => s.bufWord c i) = true →
    ∃ t, exec (.cascadeJoin c) s = .next t ∧ t.csState = 1 ∧ t.get .CS_CTL_PORTS 0 = bitsOf c.e.p0 3 0 ∧
      t.csId = bitsOf (s.bufWord c 0) 31 0 ∧ t.get .CS_CTL_PRIORITY 0 = bitsOf (s.bufWord c 0) 39 32 ∧
      t.lCascade = bitsOf (s.bufWord c 1) 31 0 ∧ t.cas.join = some c ∧ t.cas.joinAt = s.now ∧ t.cp.ready = s.cp.ready ∧
      t.cas.joined = some (bitsOf c.e.p0 3 0, (List.range 8).map (s.bufWord c)) ∧
      ∀ n, n < 8 → t.get .CS_CHAN_OFS n = 0 ∧ t.get .CS_CHAN_ENC n = bitsOf (s.bufWord c 3) (8 * n + 3) (8 * n)) ∧
  (∀ (c : Cmd) (s : State), s.passes specCasJoin c = true → s.csJoined = true →
    ∃ t, exec (.cascadeJoin c) s = .next t ∧ answered t c 5 0 ∧ t.cas = s.cas ∧ t.csState = s.csState) ∧
  (∀ (c : Cmd) (s : State), s.passes specCasJoin c = true → s.csJoined = false → s.bufLen c ≠ 64 →
    ∃ t, exec (.cascadeJoin c) s = .next t ∧ answered t c 4 0 ∧ t.cas = s.cas ∧ t.csState = 0) ∧
  (∀ (c : Cmd) (s : State), s.passes specCasJoin c = true → s.csJoined = false → s.bufLen c = 64 →
    (bitsOf c.e.p0 3 0 = 0 ∨ s.joinOk (fun i => s.bufWord c i) = false) →
    ∃ t, exec (.cascadeJoin c) s = .next t ∧ answered t c 2 0 ∧ t.cas = s.cas ∧ t.csState = 0) ∧
  (∀ (c : Cmd) (s : State), s.passes specCasLeave c = true → s.csJoined = true →
    ∃ t, exec (.cascadeLeave c) s = .next t ∧ answered t c 0 0 ∧ t.csState = 0 ∧ t.get .CS_CTL_PORTS 0 = 0 ∧
      (∀ q, q < 4 → s.csUp q = true → (s.csPort q).sent.length < 128 → (s.csPort q).wait = [] → t.csSent q csLeave [] = true) ∧
      ∀ n, n < 8 → ∀ p ∈ s.bound n, t.get .TK_NOW_STATE p = 3 ∧ t.get .CS_CHAN_STATE n = 4) ∧
  (∀ (c : Cmd) (s : State), s.passes specCasLeave c = true → s.csJoined = false →
    ∃ t, exec (.cascadeLeave c) s = .next t ∧ answered t c 0 0 ∧ t.cas = s.cas ∧ t.csState = 0) ∧
  (∀ (c : Cmd) (p : Nat) (s : State), s.passes specSetTbind c = true → bitsOf c.e.p0 15 0 = 0x500 + p → p < 32 →
    s.srcSecure c.src = true →
    ∃ t, exec (.setCsTbind c) s = .next t ∧ answered t c 0 (s.csTbind p) ∧ t.get .CS_TBIND_CHANNEL p = bitsOf c.e.p1 2 0 ∧
      t.flag .CS_TBIND_VALID p = bitOf c.e.p1 3) ∧
  (∀ (c : Cmd) (s : State), s.passes specSetTbind c = true → s.srcSecure c.src = false →
    ∃ t, exec (.setCsTbind c) s = .next t ∧ answered t c 3 0 ∧ ∀ p, t.get .CS_TBIND_VALID p = s.get .CS_TBIND_VALID p) ∧
  (∀ (c : Cmd) (q : Nat) (r : Sq) (s : State), s.passes specSetRelay c = true → q = qKey c.src.num (bitsOf c.e.p1 5 0) →
    s.sq q = some r →
    ∃ t, exec (.setRelay c) s = .next t ∧ answered t c 0 (relayValue (bitsOf c.e.p1 5 0) r.relay) ∧
      t.sq q = some { r with relay := if bitOf c.e.p1 12 then some (bitsOf c.e.p1 11 8) else none }) ∧
  (∀ (c : Cmd) (s : State), s.passes specSetRelay c = true → s.sq (qKey c.src.num (bitsOf c.e.p1 5 0)) = none →
    ∃ t, exec (.setRelay c) s = .next t ∧ answered t c 3 0 ∧ t.cp.sqs = s.cp.sqs) ∧
  (∀ (h : CasHdr) (x : RelayCmdHead) (l : List Byte) (s : State), s.hears h = true → h.dst.val = s.csIndex → x.total ≤ l.length →
    x.total ≤ 1048576 →
    ∃ t, exec (.relayCmd h (some x) l) s = .next t ∧ t.cp.direct = s.cp.direct ++ [(.cascade h.port h.src x.mb, x.e, l)] ∧
      t.cas.asmCmd = Tbl.erase s.cas.asmCmd h.src ∧ t.regs = s.regs) ∧
  (∀ (h : CasHdr) (x : RelayCmdHead) (l : List Byte) (s : State), s.hears h = true → h.dst.val = s.csIndex → l.length < x.total →
    ∃ t, exec (.relayCmd h (some x) l) s = .next t ∧ t.cp = s.cp ∧ Tbl.get none t.cas.asmCmd h.src = some (x, l)) ∧
  (∀ (h : CasHdr) (x : RelayCmdHead) (k l : List Byte) (s : State), s.hears h = true → h.dst.val = s.csIndex →
    Tbl.get none s.cas.asmCmd h.src = some (x, k) → x.total ≤ k.length + l.length → x.total ≤ 1048576 →
    ∃ t, exec (.relayCmd h none l) s = .next t ∧ t.cp.direct = s.cp.direct ++ [(.cascade h.port h.src x.mb, x.e, k ++ l)]) ∧
  (∀ (h : CasHdr) (x : RelayCmdHead) (l : List Byte) (s : State), s.hears h = true → h.dst.val = s.csIndex → x.total ≤ l.length →
    1048576 < x.total → s.runningOf ⟨.cascade h.port h.src x.mb, 0, x.e, [], []⟩ = none →
    ∃ t, exec (.relayCmd h (some x) l) s = .next t ∧
      answered t { src := .cascade h.port h.src x.mb, sqid := 0, e := x.e, list := [], data := [] } 4 0) ∧
  (∀ (h : CasHdr) (x : Option RelayCmdHead) (y : Option RelayCplHead) (l : List Byte) (s : State), s.csLink h.port = false →
    exec (.relayCmd h x l) s = .next s ∧ exec (.relayCpl h y l) s = .next s) ∧
  (∀ (h : CasHdr) (x : RelayCplHead) (l : List Byte) (r : Running) (s : State), s.hears h = true → h.dst.val = s.csIndex →
    x.total ≤ l.length → s.relayed x.cid.toNat = some r → r.discard = false →
    s.runningOf ⟨r.src, Fin.ofNat 64 r.sqid, r.e, [], []⟩ = some r →
    ∃ t, exec (.relayCpl h (some x) l) s = .next t ∧
      ∃ y ∈ t.cp.ready, y.src = r.src ∧ y.cid = x.cid.toNat ∧ y.status = x.status.toNat ∧ y.result = x.result.toNat ∧
        y.out = l) ∧
  (∀ (h : CasHdr) (x : RelayCplHead) (l : List Byte) (s : State), s.hears h = true → h.dst.val = s.csIndex →
    x.total ≤ l.length → s.relayed x.cid.toNat = none →
    ∃ t, exec (.relayCpl h (some x) l) s = .next t ∧ t.cp = s.cp ∧ t.regs = s.regs) ∧
  (∀ (h : CasHdr) (x : XferArg) (b : BitVec 512) (pa p : Nat) (s : State), s.hears h = true → h.dst.val = s.csIndex →
    s.csWindow x.win x.off.toNat true = some (pa, p) → pa < 2 ^ 52 → p < 32 →
    ∃ t y, exec (.put h x b) s = .next t ∧ t.io = s.io ++ [y] ∧ y.msg.ty = .write ∧ y.msg.la.toNat = pa / 64 ∧
      y.msg.pol.val = p ∧ y.msg.data = b ∧ y.msg.src = casStop h.port ∧ y.msg ∈ t.fabric ∧ t.regs = s.regs ∧
      t.cas.reqs = s.cas.reqs ++ [⟨y.msg.src, y.msg.txid, h.src, x⟩]) ∧
  (∀ (h : CasHdr) (x : XferArg) (b : BitVec 512) (q : Nat) (s : State), s.hears h = true → h.dst.val = s.csIndex →
    s.csWindow x.win x.off.toNat true = none → s.csRoute h.src = some q →
    ∃ t, exec (.put h x b) s = .next t ∧ t.mem = s.mem ∧ t.io = s.io ∧ t.csSent q csPutAck [x.pol.val, x.win.val, x.off.toNat] = true ∧
      t.get .RGN_VIOL_COUNT (instH (h.port / 2) 0) =
        min (s.get .RGN_VIOL_COUNT (instH (h.port / 2) 0) + 1) (2 ^ Fld.width .RGN_VIOL_COUNT - 1)) ∧
  (∀ (h : CasHdr) (x : XferArg) (pa p : Nat) (s : State), s.hears h = true → h.dst.val = s.csIndex →
    s.csWindow x.win x.off.toNat false = some (pa, p) → pa < 2 ^ 52 → p < 32 →
    ∃ t y, exec (.getReq h x) s = .next t ∧ t.io = s.io ++ [y] ∧ y.msg.ty = .readShared ∧ y.msg.la.toNat = pa / 64 ∧
      y.msg.pol.val = p ∧ y.msg.src = casStop h.port ∧ y.msg ∈ t.fabric ∧
      t.cas.reqs = s.cas.reqs ++ [⟨y.msg.src, y.msg.txid, h.src, x⟩]) ∧
  (∀ (h : CasHdr) (x : XferArg) (q : Nat) (s : State), s.hears h = true → h.dst.val = s.csIndex →
    s.csWindow x.win x.off.toNat false = none → s.csRoute h.src = some q →
    ∃ t, exec (.getReq h x) s = .next t ∧ t.mem = s.mem ∧ t.io = s.io ∧
      t.csSent q csGetData [x.pol.val, x.win.val, x.off.toNat, 0, 0, 0, 0, 0, 0, 0, 0] = true) ∧
  (∀ (h : CasHdr) (x : XferArg) (b : BitVec 512) (q : Nat) (s : State), s.hears h = true → h.dst.val ≠ s.csIndex → h.ttl ≠ 0 →
    s.csRoute h.dst = some q →
    ∃ t, exec (.put h x b) s = .next t ∧ t.io = s.io ∧ t.mem = s.mem ∧
      t.csSent q csPut ([x.pol.val, x.win.val, x.off.toNat] ++ lineWords b) = true) ∧
  (∀ (h : CasHdr) (x : XferArg) (b : BitVec 512) (s : State), s.csLink h.port = false →
    exec (.put h x b) s = .next s ∧ exec (.getReq h x) s = .next s) ∧
  (∀ (a : Acc) (h : Half) (v : Word) (s : State), a.sec = true → s.lost h = false → v.getLsbD 0 = true → s.csStageBad = false →
    ∃ t, exec (.csWcommit a h v) s = .next t ∧ ∀ w, w < 16 →
      t.get .CS_WTGT_TGT w = s.get .CS_STG_WTGT_TGT w % 2 ^ 40 ∧ t.get .CS_WATTR_PAGES w = s.get .CS_STG_WATTR_PAGES w % 2 ^ 32 ∧
      t.get .CS_WATTR_POLDER w = s.get .CS_STG_WATTR_POLDER w % 32 ∧ t.get .CS_WATTR_VALID w = s.get .CS_STG_WATTR_VALID w % 2 ∧
      t.get .CS_WATTR_RD w = s.get .CS_STG_WATTR_RD w % 2 ∧ t.get .CS_WATTR_WR w = s.get .CS_STG_WATTR_WR w % 2) ∧
  (∀ (a : Acc) (h : Half) (v : Word) (s : State), a.sec = true → s.lost h = false → (v.getLsbD 0 = false ∨ s.csStageBad = true) →
    ∃ t, exec (.csWcommit a h v) s = .next t ∧ t.regs = s.regs) ∧
  (∀ (a : Acc) (p : Pol) (v : Word) (s : State) (q : Polder), a.sec = true → s.polder p = some q → v.toNat < q.sendSize →
    ∃ t, exec (.csSqtail a p v) s = .next t ∧ t.get .CS_SQTAIL_VALUE (instD p 0) = v.toNat ∧
      (v.toNat ≠ q.sendHead → s.xfer p = none → q.cports ≠ 0 → (t.xfer p).isSome = true)) ∧
  (∀ (a : Acc) (p : Pol) (v : Word) (s : State) (q : Polder), a.sec = true → s.polder p = some q → q.sendSize ≤ v.toNat →
    ∃ t, exec (.csSqtail a p v) s = .next t ∧ t.get .CS_SQTAIL_VALUE (instD p 0) = s.get .CS_SQTAIL_VALUE (instD p 0) ∧
      t.cas = s.cas) ∧
  (∀ (h : CasHdr) (x : XferArg) (r : Xfer) (i : Nat) (s : State), s.hears h = true → h.dst.val = s.csIndex →
    s.xferLine h.src 0 x = some (r, i) →
    ∃ t, exec (.putAck h x) s = .next t ∧ t.xfer x.pol = some { r with got := i :: r.got } ∧ t.regs = s.regs ∧ t.mem = s.mem) ∧
  (∀ (h : CasHdr) (x : XferArg) (s : State), s.hears h = true → h.dst.val = s.csIndex → s.xferLine h.src 0 x = none →
    ∃ t, exec (.putAck h x) s = .next t ∧ t.cas.xfers = s.cas.xfers ∧ t.regs = s.regs) ∧
  (∀ (h : CasHdr) (x : XferArg) (b : BitVec 512) (r : Xfer) (i : Nat) (s : State), s.hears h = true → h.dst.val = s.csIndex →
    s.xferLine h.src 1 x = some (r, i) → s.rangeOk x.pol (s.polSecure x.pol) true (r.loc + 64 * i) 64 = true →
    ∃ t, exec (.getData h x b) s = .next t ∧ t.xfer x.pol = some { r with got := i :: r.got } ∧
      t.mem = (s.writeBytes (r.loc + 64 * i) (natLe b.toNat 64)).mem) ∧
  (∀ (h : CasHdr) (x : XferArg) (b : BitVec 512) (s : State), s.hears h = true → h.dst.val = s.csIndex →
    s.xferLine h.src 1 x = none →
    ∃ t, exec (.getData h x b) s = .next t ∧ t.mem = s.mem ∧ t.cas.xfers = s.cas.xfers) ∧
  (∀ (p : Pol) (x : Xfer) (s : State), s.xfer p = some x → s.xferUnreach x = false → x.len ≤ x.got.length * 64 →
    s.rangeOk p (s.polSecure p) true x.done 8 = true → s.get .CS_SQTAIL_VALUE (instD p 0) = 0 →
    (∀ q, s.polder p = some q → q.sendHead + 1 = q.sendSize) →
    ∃ t, exec (.transferDone p) s = .next t ∧ t.mem = (s.writeBytes x.done (natLe 1 8)).mem ∧ t.xfer p = none ∧
      t.get .CS_CNT_UNREACH 0 = s.get .CS_CNT_UNREACH 0 ∧
      ∀ q, s.polder p = some q → ∃ q', t.polder p = some q' ∧ q'.sendHead = 0) ∧
  (∀ (p : Pol) (x : Xfer) (s : State), s.xfer p = some x → s.xferUnreach x = true →
    s.rangeOk p (s.polSecure p) true x.done 8 = true → (∀ q, s.polder p = some q → q.cports = 0) →
    ∃ t, exec (.transferDone p) s = .next t ∧ t.mem = (s.writeBytes x.done (natLe 3 8)).mem ∧ t.xfer p = none ∧
      t.get .CS_CNT_UNREACH 0 = min (s.get .CS_CNT_UNREACH 0 + 1) (2 ^ Fld.width .CS_CNT_UNREACH - 1)) ∧
  (∀ (p : Pol) (x : Xfer) (s : State), s.xfer p = some x → s.xferUnreach x = false → x.got.length * 64 < x.len →
    exec (.transferDone p) s = .next s) ∧
  (∀ (c : Cmd) (p : Nat) (v : Polder) (s : State), s.passes specSetSend c = true → bitsOf c.e.p0 15 0 = 0x540 + p →
    s.srcBound c.src p = true → s.polder p = some v →
    ∃ t, exec (.setSendRing c) s = .next t ∧ answered t c 0 v.sendRing ∧ t.get .CS_SQTAIL_VALUE (instD p 0) = 0 ∧
      t.xfer p = none ∧
      ∃ w, t.polder p = some w ∧ w.sendBase = bitsOf c.e.p1 51 12 * 4096 ∧ w.sendSize = bitsOf c.e.p1 11 0 + 1 ∧ w.sendHead = 0) ∧
  (∀ (c : Cmd) (p : Nat) (s : State), s.passes specSetSend c = true → bitsOf c.e.p0 15 0 = 0x540 + p →
    (s.srcBound c.src p = false ∨ s.polder p = none) →
    ∃ t, exec (.setSendRing c) s = .next t ∧ answered t c 3 0 ∧ t.pols = s.pols ∧ t.cas = s.cas)

/-- R388, R390, R395: BERM_RETIRE takes a resource out of service and BERM_BRING_IN returns one, by kind and index: a core that
no polder holds at once with RESULT 0xFFFF, one in a polder by a planned migration to a berm core of its revision, a die, a
column, a channel, a module, a controller and a clock input as their rows say; a hub half is only brought in; an index out of
range or the wrong kind is INVALID_FIELD and a resource under way is BUSY. -/
def Obligations.BermRetireAndBringIn : Prop :=
  (∀ (c : Cmd) (s : State), s.passes specBerm c = true → (bermIndexOk (bitsOf c.e.p0 3 0) c.e.p1 = false ∨ bitsOf c.e.p0 3 0 = 8) →
    ∃ t, exec (.bermRetire c) s = .next t ∧ answered t c 2 0 ∧ t.regs = s.regs ∧ t.berm = s.berm) ∧
  (∀ (c : Cmd) (s : State), s.passes specBerm c = true → bitsOf c.e.p0 3 0 = 0 → c.e.p1 < 240 → s.moving c.e.p1 = false →
    (s.core c.e.p1).serv ≠ 2 → (s.core c.e.p1).pol = 0 → (s.die (dieOf c.e.p1)).state = 0 →
    ∃ t, exec (.bermRetire c) s = .next t ∧ answered t c 0 0xFFFF ∧ (t.core c.e.p1).serv = 2 ∧ t.isRetired 0 c.e.p1 = true) ∧
  (∀ (c : Cmd) (s : State) (n : Nat), s.passes specBerm c = true → bitsOf c.e.p0 3 0 = 0 → c.e.p1 < 240 →
    s.moving c.e.p1 = false → (s.core c.e.p1).serv ≠ 2 → (s.core c.e.p1).pol ≠ 0 → s.replacementFor c.e.p1 = some n →
    ∃ t x, exec (.bermRetire c) s = .next t ∧ t.berm.migr = s.berm.migr ++ [x] ∧ x.old = c.e.p1 ∧ x.new = n ∧ x.cause = 4 ∧
      x.cmd = some c ∧ (t.core n).pow = 0 ∧ t.begun c = true ∧ t.cp.ready = s.cp.ready ∧ t.regs = s.regs) ∧
  (∀ (c : Cmd) (s : State), s.passes specBerm c = true → bitsOf c.e.p0 3 0 = 0 → c.e.p1 < 240 → s.moving c.e.p1 = false →
    (s.core c.e.p1).serv ≠ 2 → (s.core c.e.p1).pol ≠ 0 → s.replacementFor c.e.p1 = none →
    ∃ t, exec (.bermRetire c) s = .next t ∧ answered t c 6 0 ∧ t.berm = s.berm ∧ t.cores = s.cores) ∧
  (∀ (c : Cmd) (s : State), s.passes specBerm c = true → bitsOf c.e.p0 3 0 = 0 → c.e.p1 < 240 → s.moving c.e.p1 = true →
    ∃ t, exec (.bermRetire c) s = .next t ∧ answered t c 5 0 ∧ t.berm = s.berm) ∧
  (∀ (c : Cmd) (s : State), s.passes specBerm c = true → bitsOf c.e.p0 3 0 = 1 → c.e.p1 < 12 →
    (s.berm.dieRet.any fun x => x.1 == c.e.p1) = false → (s.die c.e.p1).state = 0 →
    (∀ g ∈ coresOfDie c.e.p1, (s.core g).pol = 0) →
    ∃ t, exec (.bermRetire c) s = .next t ∧ answered t c 0 0xFFFF ∧ (t.die c.e.p1).state = 2 ∧ t.isRetired 1 c.e.p1 = true ∧
      ∀ h : Half, t.modState h (Fin.ofNat 13 c.e.p1) = 0) ∧
  (∀ (c : Cmd) (s : State), s.passes specBerm c = true → bitsOf c.e.p0 3 0 = 1 → c.e.p1 < 12 →
    (s.berm.dieRet.any fun x => x.1 == c.e.p1) = true → ∃ t, exec (.bermRetire c) s = .next t ∧ answered t c 5 0) ∧
  (∀ (c : Cmd) (s : State), s.passes specBerm c = true → bitsOf c.e.p0 3 0 = 2 → c.e.p1 < 3840 → s.berm.wayRet = [] →
    ways (s.l2Retired (c.e.p1 / 16)) < 2 → (s.l2Retired (c.e.p1 / 16)).testBit (c.e.p1 % 16) = false →
    s.cacheWayFree 2 c.e.p1 = true →
    ∃ t, exec (.bermRetire c) s = .next t ∧ answered t c 0 0xFFFF ∧ t.isRetired 2 c.e.p1 = true ∧
      (t.l2Retired (c.e.p1 / 16)).testBit (c.e.p1 % 16) = true) ∧
  (∀ (c : Cmd) (s : State), s.passes specBerm c = true → bitsOf c.e.p0 3 0 = 2 → c.e.p1 < 3840 → s.berm.wayRet = [] →
    ways (s.l2Retired (c.e.p1 / 16)) < 2 → (s.l2Retired (c.e.p1 / 16)).testBit (c.e.p1 % 16) = false →
    s.cacheWayFree 2 c.e.p1 = false →
    ∃ t, exec (.bermRetire c) s = .next t ∧ t.berm.wayRet = [(2, c.e.p1, 4, some c)] ∧ t.begun c = true ∧
      t.cp.ready = s.cp.ready ∧ t.regs = s.regs) ∧
  (∀ (c : Cmd) (s : State), s.passes specBerm c = true → bitsOf c.e.p0 3 0 = 4 → bermIndexOk 4 c.e.p1 = true →
    s.isRetired 4 c.e.p1 = false → (s.berm.wayRet.any fun x => x.1 == 4 && x.2.1 == c.e.p1) = false →
    s.columnFree (c.e.p1 / 512) (c.e.p1 / 32 % 16) (c.e.p1 % 32) = true →
    ∃ t, exec (.bermRetire c) s = .next t ∧ answered t c 0 0xFFFF ∧ t.isRetired 4 c.e.p1 = true ∧
      t.get .DIR_BANK_RETIRED (instH (c.e.p1 / 512) (c.e.p1 / 32 % 16)) =
        min (s.get .DIR_BANK_RETIRED (instH (c.e.p1 / 512) (c.e.p1 / 32 % 16)) + 1) 7) ∧
  (∀ (c : Cmd) (s : State), s.passes specBerm c = true → bitsOf c.e.p0 3 0 = 5 → c.e.p1 < 16 → s.guardedCfg = false →
    ∃ t, exec (.bermRetire c) s = .next t ∧ answered t c 7 0 ∧ t.regs = s.regs) ∧
  (∀ (c : Cmd) (s : State), s.passes specBerm c = true → bitsOf c.e.p0 3 0 = 5 → c.e.p1 < 16 → s.guardedCfg = true →
    s.mcState c.e.p1 = 2 →
    ∃ t, exec (.bermRetire c) s = .next t ∧ answered t c 0 0xFFFF ∧ t.mcState c.e.p1 = 3 ∧ t.isRetired 5 c.e.p1 = true) ∧
  (∀ (c : Cmd) (s : State), s.passes specBerm c = true → bitsOf c.e.p0 3 0 = 6 → bermIndexOk 6 c.e.p1 = true →
    s.isRetired 6 c.e.p1 = false →
    ∃ t, exec (.bermRetire c) s = .next t ∧ answered t c 0 0xFFFF ∧ t.isRetired 6 c.e.p1 = true ∧
      t.modState (Fin.ofNat 2 (c.e.p1 / 16)) (Fin.ofNat 13 (c.e.p1 % 16)) = 0) ∧
  (∀ (c : Cmd) (s : State), s.passes specBerm c = true → bitsOf c.e.p0 3 0 = 7 → c.e.p1 < 2 → s.isRetired 7 c.e.p1 = false →
    s.activeHalf = c.e.p1 → s.flag .CP_ROLE_STANDBY_READY 0 = false →
    ∃ t, exec (.bermRetire c) s = .next t ∧ answered t c 7 0 ∧ t.regs = s.regs) ∧
  (∀ (c : Cmd) (s : State), s.passes specBerm c = true → bitsOf c.e.p0 3 0 = 7 → c.e.p1 < 2 → s.isRetired 7 c.e.p1 = false →
    s.activeHalf = c.e.p1 → s.flag .CP_ROLE_STANDBY_READY 0 = true →
    ∃ t, exec (.bermRetire c) s = .next t ∧ answered t c 0 0xFFFF ∧ t.activeHalf = 1 - c.e.p1 ∧ t.isRetired 7 c.e.p1 = true ∧
      t.flag .CP_ROLE_STANDBY_READY 0 = false) ∧
  (∀ (c : Cmd) (s : State), s.passes specBerm c = true → bitsOf c.e.p0 3 0 = 7 → c.e.p1 < 2 → s.isRetired 7 c.e.p1 = false →
    s.activeHalf ≠ c.e.p1 →
    ∃ t, exec (.bermRetire c) s = .next t ∧ answered t c 0 0xFFFF ∧ t.activeHalf = s.activeHalf ∧ t.isRetired 7 c.e.p1 = true ∧
      t.flag .CP_ROLE_STANDBY_READY 0 = false) ∧
  (∀ (c : Cmd) (s : State), s.passes specBerm c = true → bitsOf c.e.p0 3 0 = 9 → c.e.p1 < 4 → s.isRetired 9 c.e.p1 = false →
    s.get (goodFld (c.e.p1 / 2)) 0 = 2 ^ (c.e.p1 % 2) →
    ∃ t, exec (.bermRetire c) s = .next t ∧ answered t c 7 0 ∧ t.regs = s.regs) ∧
  (∀ (c : Cmd) (s : State), s.passes specBerm c = true → bitsOf c.e.p0 3 0 = 9 → c.e.p1 < 4 → s.isRetired 9 c.e.p1 = false →
    s.get (goodFld (c.e.p1 / 2)) 0 = 3 →
    ∃ t, exec (.bermRetire c) s = .next t ∧ answered t c 0 0xFFFF ∧ t.get (goodFld (c.e.p1 / 2)) 0 = 2 ^ (1 - c.e.p1 % 2) ∧
      t.isRetired 9 c.e.p1 = true ∧ (s.get (selFld (c.e.p1 / 2)) 0 < 2 → t.get (selFld (c.e.p1 / 2)) 0 = 1 - c.e.p1 % 2)) ∧
  (∀ (c : Cmd) (s : State), s.passes specBerm c = true →
    (bermIndexOk (bitsOf c.e.p0 3 0) c.e.p1 = false ∨ bitsOf c.e.p0 3 0 = 2 ∨ bitsOf c.e.p0 3 0 = 3 ∨ bitsOf c.e.p0 3 0 = 4) →
    ∃ t, exec (.bermBringIn c) s = .next t ∧ answered t c 2 0 ∧ t.regs = s.regs ∧ t.berm = s.berm) ∧
  (∀ (c : Cmd) (s : State), s.passes specBerm c = true → bitsOf c.e.p0 3 0 = 0 → c.e.p1 < 240 → (s.core c.e.p1).serv = 2 →
    (s.die (dieOf c.e.p1)).state = 0 →
    ∃ t, exec (.bermBringIn c) s = .next t ∧
      (answered t c 0 0 ∧ (t.core c.e.p1).serv = 1 ∧ t.isRetired 0 c.e.p1 = false ∨
        answered t c 7 0 ∧ (t.core c.e.p1).serv = 2 ∧ t.berm = s.berm)) ∧
  (∀ (c : Cmd) (s : State), s.passes specBerm c = true → bitsOf c.e.p0 3 0 = 0 → c.e.p1 < 240 → (s.core c.e.p1).serv = 2 →
    (s.die (dieOf c.e.p1)).state = 0 → (0, c.e.p1, 2) ∈ s.berm.retired →
    s.get .AG_MARGIN_NOW (instC c.e.p1) < s.agWarn (dieOf c.e.p1) →
    ∃ t, exec (.bermBringIn c) s = .next t ∧ answered t c 7 0 ∧ (t.core c.e.p1).serv = 2) ∧
  (∀ (c : Cmd) (s : State), s.passes specBerm c = true → bitsOf c.e.p0 3 0 = 1 → c.e.p1 < 12 →
    (s.berm.dieRet.any fun x => x.1 == c.e.p1) = false → (s.die c.e.p1).state ≠ 0 →
    (s.pow.bad.any fun x => x.1 == 7 + c.e.p1) = false →
    ∃ t, exec (.bermBringIn c) s = .next t ∧ answered t c 0 0 ∧ (t.die c.e.p1).state = 0 ∧ t.isRetired 1 c.e.p1 = false ∧
      ∀ g ∈ coresOfDie c.e.p1, s.isRetired 0 g = false → (t.core g).serv = if s.bermLocal (g % 20) then 1 else 0) ∧
  (∀ (c : Cmd) (s : State), s.passes specBerm c = true → bitsOf c.e.p0 3 0 = 5 → c.e.p1 < 16 → s.mcState c.e.p1 = 3 →
    ∃ t, exec (.bermBringIn c) s = .next t ∧ answered t c 0 0 ∧ t.mcState c.e.p1 = 4 ∧
      t.get .MC_STAT_RESYNC_PCT (instCh c.e.p1) = 0 ∧ t.isRetired 5 c.e.p1 = false) ∧
  (∀ (c : Cmd) (s : State), s.passes specBerm c = true → bitsOf c.e.p0 3 0 = 5 → c.e.p1 < 16 → s.mcState c.e.p1 = 4 →
    ∃ t, exec (.bermBringIn c) s = .next t ∧ answered t c 5 0 ∧ t.regs = s.regs) ∧
  (∀ (c : Cmd) (s : State), s.passes specBerm c = true → bitsOf c.e.p0 3 0 = 6 → bermIndexOk 6 c.e.p1 = true →
    s.isRetired 6 c.e.p1 = true →
    ∃ t, exec (.bermBringIn c) s = .next t ∧ answered t c 0 0 ∧ t.isRetired 6 c.e.p1 = false ∧
      (t.lk (hubEnd (Fin.ofNat 2 (c.e.p1 / 16)) (Fin.ofNat 13 (c.e.p1 % 16)))).lost = false) ∧
  (∀ (c : Cmd) (s : State), s.passes specBerm c = true → bitsOf c.e.p0 3 0 = 7 → c.e.p1 < 2 → s.activeHalf ≠ c.e.p1 →
    s.flag .CP_ROLE_STANDBY_READY 0 = false →
    ∃ t, exec (.bermBringIn c) s = .next t ∧ answered t c 0 0 ∧ t.isRetired 7 c.e.p1 = false) ∧
  (∀ (c : Cmd) (s : State) (h : Nat), s.passes specBerm c = true → bitsOf c.e.p0 3 0 = 8 → c.e.p1 = h → h < 2 →
    s.halfReturning.get h = false → s.canReturn h = true → (s.get .PM_RAIL_HUB_OK (instH (1 - h) 0)).testBit h = true →
    ∃ t, exec (.bermBringIn c) s = .next t ∧ answered t c 0 0 ∧ t.lost h = false ∧ t.halfReturning.get h = true ∧
      (t.dir.get h).handBack = List.range 16 ∧ ∀ l, l < 8 → t.mcState (h * 8 + l) = 4) ∧
  (∀ (c : Cmd) (s : State) (h : Nat), s.passes specBerm c = true → bitsOf c.e.p0 3 0 = 8 → c.e.p1 = h → h < 2 →
    s.halfReturning.get h = true → ∃ t, exec (.bermBringIn c) s = .next t ∧ answered t c 5 0) ∧
  (∀ (c : Cmd) (s : State), s.passes specBerm c = true → bitsOf c.e.p0 3 0 = 9 → c.e.p1 < 4 → s.isRetired 9 c.e.p1 = true →
    ∃ t, exec (.bermBringIn c) s = .next t ∧ answered t c 0 0 ∧ t.isRetired 9 c.e.p1 = false ∧
      (t.get (goodFld (c.e.p1 / 2)) 0).testBit (c.e.p1 % 2) = true ∧
      t.get (selFld (c.e.p1 / 2)) 0 = s.get (selFld (c.e.p1 / 2)) 0)

/-- R134, R200, R387, R390, R391, R393, R395: a migration moves a logical CPU whose core has closed its tick to the replacement,
which keeps the saved state until it loads it; a die without polder cores is fenced with both modules down; a lost die is
retired; a way with an error threshold is retired once its lines allow it; a margin sample sets NOW, LOWEST and BELOW and warns
once; a failed keep-store block takes a spare; a half that can return trains, resynchronises and takes back its homes. -/
def Obligations.MigrationAgeingAndDieLoss : Prop :=
  (∀ (g : GCore) (x : Migr) (s : State), s.migrFrom g = some x → s.migrReady x = true → (s.core x.new).serv = 1 →
    x.new ≠ g.val → x.new < 240 → (s.berm.dieRet.any fun z => z.1 == dieOf g) = false → (s.die (dieOf g)).state = 0 →
    ∃ t, exec (.plannedMigration g) s = .next t ∧ (t.core g).serv = 2 ∧ t.isRetired 0 g = true ∧ (t.core x.new).pol = x.pol ∧
      (t.core x.new).lcpu = x.lcpu ∧ (t.core x.new).save = some (s.core g).saved ∧ (t.core x.new).t.recovering = true) ∧
  (∀ (g : GCore) (s : State), s.migrFrom g = none → exec (.plannedMigration g) s = .next s) ∧
  (∀ (g : GCore) (x : Migr) (s : State), s.migrFrom g = some x → s.migrReady x = false →
    exec (.plannedMigration g) s = .next s) ∧
  (∀ (p : Pol) (l : Byte) (n : Nat) (x : Migr) (v : Save) (s : State), s.coreOf p l.toNat = some n →
    (s.berm.migr.find? fun x => x.new == n && x.moved && !x.faulted) = some x → (s.core n).save = some v →
    s.coreGuarded n = false → (s.core n).t.waiting = false →
    ∃ t, exec (.migrationLoad p l) s = .next t ∧ (t.core n).pc = v.pc ∧ (t.core n).gpr = v.gpr ∧ (t.core n).vr = v.vr ∧
      (t.core n).sys = v.sys ∧ (t.core n).level = v.level ∧ (t.core n).save = none ∧ (t.core n).pow = 0 ∧
      (t.core n).t.recovering = false) ∧
  (∀ (p : Pol) (l : Byte) (s : State), s.coreOf p l.toNat = none → exec (.migrationLoad p l) s = .next s) ∧
  (∀ (d : Die) (s : State), (s.die d).state = 0 → (∀ g ∈ coresOfDie d, (s.core g).pol = 0) →
    ∃ t, exec (.dieRetire d) s = .next t ∧ (t.die d).state = 2 ∧ t.isRetired 1 d = true ∧
      (∀ h : Half, t.modState h (Fin.ofNat 13 d) = 0) ∧ ∀ x ∈ t.berm.dieRet, x.1 ≠ d.val) ∧
  (∀ (d : Die) (s : State), (s.die d).state ≠ 0 → exec (.dieRetire d) s = .next s) ∧
  (∀ (d : Die) (s : State), (s.berm.dieRet.any fun x => x.1 == d.val) = true → s.dieEmpty d = false →
    exec (.dieRetire d) s = .next s) ∧
  (∀ (d : Die) (s : State), (s.die d).state ≠ 1 → (s.die d).state ≠ 2 →
    ∃ t, exec (.dieHeartbeatLoss d) s = .next t ∧ (t.die d).state = 2 ∧ t.isRetired 1 d = true ∧
      (∀ h : Half, t.modState h (Fin.ofNat 13 d) = 0) ∧ ∀ g ∈ coresOfDie d, (t.core g).serv = 2 ∨ (t.core g).serv = 3) ∧
  (∀ (d : Die) (s : State), ((s.die d).state = 1 ∨ (s.die d).state = 2) → exec (.dieHeartbeatLoss d) s = .next s) ∧
  (∀ (g : GCore) (w : Fin 16) (s : State), s.get .L2_ECC_ECC_THRESH (instC g) ≠ 0 → (s.l2Retired g).testBit w = false →
    s.get .L2_ECC_ECC_THRESH (instC g) < s.wayCount (dieOf g) (g % 20 * 16 + w) →
    ways (s.l2Retired g) < 2 → s.berm.wayRet = [] → s.cacheWayFree 2 (g * 16 + w) = true →
    ∃ t, exec (.cacheWayRetire (.l2 g w)) s = .next t ∧ (t.l2Retired g).testBit w = true ∧
      t.isRetired 2 (g * 16 + w) = true) ∧
  (∀ (d : Die) (sl : Fin 20) (w : Fin 16) (s : State), s.get .DC_CTL_ECC_THRESH (instD d 0) ≠ 0 →
    s.get .DC_CTL_ECC_THRESH (instD d 0) < s.wayCount d (512 + sl * 16 + w) →
    (s.get .DC_SLICE_RETIRED (instD d sl)).testBit w = false → ways (s.get .DC_SLICE_RETIRED (instD d sl)) < 2 →
    s.berm.wayRet = [] → s.cacheWayFree 3 (d * 512 + sl * 16 + w) = true →
    ∃ t, exec (.cacheWayRetire (.dc d sl w)) s = .next t ∧ t.isRetired 3 (d * 512 + sl * 16 + w) = true ∧
      if s.flag .DC_SLICE_SPARE_USED (instD d sl) then (t.get .DC_SLICE_RETIRED (instD d sl)).testBit w = true
      else t.flag .DC_SLICE_SPARE_USED (instD d sl) = true ∧
        t.get .DC_SLICE_RETIRED (instD d sl) = s.get .DC_SLICE_RETIRED (instD d sl)) ∧
  (∀ (g : GCore) (w : Fin 16) (s : State), s.get .L2_ECC_ECC_THRESH (instC g) = 0 →
    exec (.cacheWayRetire (.l2 g w)) s = .next s) ∧
  (∀ (d : Die) (sl : Fin 20) (w : Fin 16) (s : State), s.get .DC_CTL_ECC_THRESH (instD d 0) = 0 →
    exec (.cacheWayRetire (.dc d sl w)) s = .next s) ∧
  (∀ (d : Die) (l : List Byte) (s : State),
    ∃ t, exec (.ageingSample d l) s = .next t ∧ d.val ∈ t.berm.sampled ∧
      ∀ c, c < 21 → (hc : c < l.length) →
        t.get .AG_MARGIN_NOW (instD d c) = (l[c]).toNat ∧
        t.get .AG_MARGIN_LOWEST (instD d c) =
          (if d.val ∈ s.berm.sampled then min (s.get .AG_MARGIN_LOWEST (instD d c)) (l[c]).toNat else (l[c]).toNat) ∧
        t.get .AG_MARGIN_BELOW (instD d c) =
          (if (l[c]).toNat < s.agRetire d then min (s.get .AG_MARGIN_BELOW (instD d c) + 1) 3 else 0) ∧
        (s.get .AG_MARGIN_STATE (instD d c) = 0 → (l[c]).toNat < s.agWarn d → s.get .AG_MARGIN_BELOW (instD d c) < 2 →
          t.get .AG_MARGIN_STATE (instD d c) = 1)) ∧
  (∀ s : State, s.cp.spareBlocks ≠ 0 →
    ∃ t, exec .keepBlockFail s = .next t ∧ t.cp.spareBlocks = s.cp.spareBlocks - 1 ∧ t.cp.blockFailed = s.cp.blockFailed) ∧
  (∀ s : State, s.cp.spareBlocks = 0 → ∃ t, exec .keepBlockFail s = .next t ∧ t.cp.blockFailed = true) ∧
  (∀ (h : Half) (s : State), s.canReturn h = true →
    ∃ t, exec (.halfBringIn h) s = .next t ∧ t.lost h = false ∧ t.halfReturning.get h = true ∧
      (t.dir.get h).handBack = List.range 16 ∧ (t.dir.get h).ents = [] ∧ (∀ l, l < 8 → t.mcState (h * 8 + l) = 4) ∧
      ∀ m : Fin 13, t.modState h m = 0 ∧ (t.lk (hubEnd h m)).lost = false) ∧
  (∀ (h : Half) (s : State), s.canReturn h = false → exec (.halfBringIn h) s = .next s)

/-- R399, R401 to R407, R415 to R418: a function-level reset ends the function's commands, queues and interrupts and leaves the
windows, and the commands that have begun run to an end without a completion; PERST_N, link-down and hot reset do so with a LINK
reset; the function is ready once PERST_N is released, the link is up and the boot image is good, and answers Request Retry Status
before; a type 1 request is unsupported; the header reads as R402 lists it; a write of Device Control starts an FLR and a write of
the power state enters or leaves D3hot; L1, L0p and LTR follow the link's traffic, the Urgent queues and Standby. -/
def Obligations.EndpointResetsConfigurationAndLinkPower : Prop :=
  (∀ (e : Fin 4) (s : State), s.isEndpoint e = true →
    ∃ t, exec (.flr e) s = .next t ∧ t.flag .PE_STAT_READY (instPe e) = false ∧ (t.peSt e).rom = s.romNow ∧
      (∀ r ∈ t.cp.running, r.src.num = e.val → r.discard = true ∧ (r.begun = true ∨ r.relayTo.isSome = true)) ∧
      (∀ r ∈ s.cp.running, r.src.num ≠ e.val → r ∈ t.cp.running) ∧ (∀ x ∈ t.cp.ready, x.src.num ≠ e.val) ∧ (∀ q, q < 64 → t.sq (qKey e q) = none ∧ t.cq (qKey e q) = none) ∧
      (t.peSt e).intx = false ∧ (t.peSt e).pba = [] ∧ (t.peSt e).msixAddr = [] ∧ (t.peSt e).msixMask = [] ∧
      t.flag .QRB_CTL_EN (qKey e 0) = false ∧
      ∀ i, t.get .PW_BASE_ADDR i = s.get .PW_BASE_ADDR i ∧ t.get .PW_ATTR_VALID i = s.get .PW_ATTR_VALID i ∧
        t.get .PE_CFG_MODE i = s.get .PE_CFG_MODE i) ∧
  (∀ (e : Fin 4) (s : State), s.isEndpoint e = false → exec (.flr e) s = .next s) ∧
  (∀ (e : Fin 4) (b : Bool) (s : State), s.isEndpoint e = true →
    ∃ t, exec (.d3hotEntry e b) s = .next t ∧ t.flag .PE_STAT_D3 (instPe e) = b ∧
      (t.get .PV_VOTE_VOTES (domKey 4 e)).testBit 0 = !b ∧ t.cp = s.cp) ∧
  (∀ (e : Fin 4) (b : Bool) (s : State), s.isEndpoint e = false → exec (.d3hotEntry e b) s = .next s) ∧
  (∀ (e : Fin 4) (s : State),
    ∃ t, exec (.perstAssert e) s = .next t ∧ (t.peSt e).perst = true ∧ t.get .PE_STAT_LINK (instPe e) = 0 ∧
      t.flag .PE_STAT_READY (instPe e) = false ∧ ∀ q, q < 64 → t.sq (qKey e q) = none) ∧
  (∀ (e : Fin 4) (s : State),
    ∃ t, exec (.pcieLinkDown e) s = .next t ∧ t.get .PE_STAT_LINK (instPe e) = 0 ∧ t.flag .PE_STAT_READY (instPe e) = false ∧
      (t.peSt e).perst = (s.peSt e).perst ∧ ∀ q, q < 64 → t.sq (qKey e q) = none) ∧
  (∀ (e : Fin 4) (s : State),
    ∃ t, exec (.hotReset e) s = .next t ∧ t.get .PE_STAT_LINK (instPe e) = 1 ∧ t.flag .PE_STAT_READY (instPe e) = false ∧
      ∀ q, q < 64 → t.sq (qKey e q) = none) ∧
  (∀ (e : Fin 4) (s : State), s.peOn e = true →
    ∃ t, exec (.perstRelease e) s = .next t ∧ (t.peSt e).perst = false ∧ t.get .PE_STAT_LINK (instPe e) = 1) ∧
  (∀ (e : Fin 4) (s : State), s.peOn e = false → exec (.perstRelease e) s = .next s) ∧
  (∀ (e : Fin 4) (sp : Fin 7) (w : Fin 17) (f : Bool) (s : State), s.peOn e = true → (s.peSt e).perst = false →
    ∃ t, exec (.pcieLinkUp e sp w f) s = .next t ∧ t.get .PE_STAT_LINK (instPe e) = 2 ∧
      t.get .PE_STAT_SPEED (instPe e) = min sp.val (s.peSpeed e) ∧ t.get .PE_STAT_WIDTH (instPe e) = min w.val (s.peWidth e) ∧
      t.get .PE_STAT_L0P_WIDTH (instPe e) = min w.val (s.peWidth e) ∧ t.flag .PE_STAT_FLIT (instPe e) = f) ∧
  (∀ (e : Fin 4) (sp : Fin 7) (w : Fin 17) (f : Bool) (s : State), (s.peSt e).perst = true →
    exec (.pcieLinkUp e sp w f) s = .next s) ∧
  (∀ (e : Fin 4) (s : State), s.isEndpoint e = true → s.bootGood = true → (s.peSt e).perst = false →
    2 ≤ s.get .PE_STAT_LINK (instPe e) → ∃ t, exec (.configReady e) s = .next t ∧ t.flag .PE_STAT_READY (instPe e) = true) ∧
  (∀ (e : Fin 4) (s : State), s.bootGood = false → exec (.configReady e) s = .next s) ∧
  (∀ (e : Fin 4) (y w : Bool) (o : BitVec 12) (v : BitVec 32) (s : State), s.isEndpoint e = true → s.lost (e / 2) = false →
    (s.peSt e).perst = false → s.flag .PE_STAT_READY (instPe e) = false →
    ∃ t, exec (.configRequest e y w o v) s = .next t ∧ t.out = s.out ++ [.pcieCpl e [] 2] ∧ t.pe = s.pe ∧
      t.get .PE_CNT_RRS (instPe e) = min (s.get .PE_CNT_RRS (instPe e) + 1) (2 ^ Fld.width .PE_CNT_RRS - 1)) ∧
  (∀ (e : Fin 4) (y w : Bool) (o : BitVec 12) (v : BitVec 32) (s : State), s.lost (e / 2) = true →
    exec (.configRequest e y w o v) s = .next s) ∧
  (∀ (e : Fin 4) (w : Bool) (o : BitVec 12) (v : BitVec 32) (s : State), s.isEndpoint e = true → s.lost (e / 2) = false →
    (s.peSt e).perst = false → s.flag .PE_STAT_READY (instPe e) = true →
    ∃ t, exec (.configRequest e true w o v) s = .next t ∧ .pcieCpl e [] 3 ∈ t.out ∧ (t.peSt e).aerUnc.testBit 20 = true ∧
      (t.peSt e).cfg = (s.peSt e).cfg) ∧
  (∀ (e : Fin 4) (o : BitVec 12) (v : BitVec 32) (s : State), s.isEndpoint e = true → s.lost (e / 2) = false →
    (s.peSt e).perst = false → s.flag .PE_STAT_READY (instPe e) = true →
    ∃ t x, exec (.configRequest e false false o v) s = .next t ∧ t.pe = s.pe ∧ t.out = s.out ++ [.pcieCpl e [BitVec.ofNat 64 x] 0] ∧
      (o.toNat / 4 = 0 → x = 0x02401F3A) ∧ (o.toNat / 4 = 2 → x = 0x12000000 + s.get .PKG_ID_HUB_REV 0 ∨ 256 ≤ s.get .PKG_ID_HUB_REV 0) ∧
      (o.toNat / 4 = 13 → x = 0x40) ∧ (o.toNat / 4 = 0x94 → x = s.get .PW_EPOCH_CURRENT (instPe e) ∨
        2 ^ 32 ≤ s.get .PW_EPOCH_CURRENT (instPe e))) ∧
  (∀ (e : Fin 4) (o : BitVec 12) (v : BitVec 32) (s : State), s.isEndpoint e = true → s.lost (e / 2) = false →
    (s.peSt e).perst = false → s.flag .PE_STAT_READY (instPe e) = true →
    ∃ t, exec (.configRequest e false true o v) s = .next t ∧ .pcieCpl e [] 0 ∈ t.out ∧
      (o.toNat / 4 = 1 → (t.cfgHalf e 0x04).testBit 1 = v.getLsbD 1 ∧ (t.cfgHalf e 0x04).testBit 2 = v.getLsbD 2) ∧
      (o.toNat / 4 = 0x11 → t.flag .PE_STAT_D3 (instPe e) = decide (v.toNat % 4 = 3)) ∧
      (o.toNat / 4 = 0x16 → v.getLsbD 15 = true →
        t.flag .PE_STAT_READY (instPe e) = false ∧ ∀ q, q < 64 → t.sq (qKey e q) = none)) ∧
  (∀ (e : Fin 4) (s : State), s.isEndpoint e = true → s.get .PE_STAT_LINK (instPe e) = 2 → (s.cfgHalf e 0x60).testBit 1 = true →
    s.urgentSq e = false → s.standby = false →
    ∃ t, exec (.l1IdleExpired e) s = .next t ∧ t.get .PE_STAT_LINK (instPe e) = 3 ∧
      t.get .PE_CNT_L1_ENTRIES (instPe e) = min (s.get .PE_CNT_L1_ENTRIES (instPe e) + 1) (2 ^ Fld.width .PE_CNT_L1_ENTRIES - 1)) ∧
  (∀ (e : Fin 4) (s : State), (s.urgentSq e = true ∨ s.standby = true) → exec (.l1IdleExpired e) s = .next s) ∧
  (∀ (e : Fin 4) (n : Nat) (s : State), s.isEndpoint e = true → s.flag .PE_STAT_FLIT (instPe e) = true →
    s.get .PE_STAT_LINK (instPe e) = 2 → s.get .PE_STAT_WIDTH (instPe e) ≤ 16 →
    ∃ t, exec (.l0pEvaluate e n) s = .next t ∧ t.get .PE_STAT_WIDTH (instPe e) = s.get .PE_STAT_WIDTH (instPe e) ∧
      t.get .PE_STAT_L0P_WIDTH (instPe e) =
        if s.standby then 1 else if s.flag .PE_PM_L0P_EN (instPe e) then l0pWidth (s.get .PE_STAT_WIDTH (instPe e)) n
        else s.get .PE_STAT_WIDTH (instPe e)) ∧
  (∀ (e : Fin 4) (n : Nat) (s : State), s.flag .PE_STAT_FLIT (instPe e) = false → exec (.l0pEvaluate e n) s = .next s) ∧
  (∀ (e : Fin 4) (s : State), s.isEndpoint e = true → (s.peSt e).ltr ≠ (if s.urgentSq e then 2 else 100) →
    ∃ t, exec (.ltrSend e) s = .next t ∧ (t.peSt e).ltr = (if s.urgentSq e then 2 else 100) ∧
      t.out = s.out ++ [.pcieMsg e 4 (if s.urgentSq e then 2 else 100)]) ∧
  (∀ (e : Fin 4) (s : State), s.isEndpoint e = false → exec (.ltrSend e) s = .next s)

/-- R357, R407, R411 to R413, R419, R421, R422: a BAR2 request is decoded by the lowest-numbered valid window that covers its first
byte and goes home as a ReadShared, Write or PlaceWrite under the window's tag; one that no window covers or whose window lacks the
right is refused and counted; an AtomicOp or I/O request, or any with Memory Space Enable 0, is an Unsupported Request; a buffer
read without a completion, or a poisoned one, ends its command with INVALID_BUFFER; a vector sends one message or sets its PBA bit
while masked; INTx follows the unconsumed entries; WINDOW_COMMIT puts a good staged set in force and answers the new epoch. -/
def Obligations.EndpointWindowsAndInterrupts : Prop :=
  (∀ (e : Fin 4) (req : BarReq) (start off : Word) (m : BitVec 64) (b : BitVec 512) (ep ro : Bool) (s : State),
    ((s.peSt e).perst = true ∨ s.lost (e / 2) = true ∨ s.peOn e = false) →
    exec (.bar2Request e req start off m b ep ro) s = .next s) ∧
  (∀ (e : Fin 4) (req : BarReq) (start off : Word) (m : BitVec 64) (b : BitVec 512) (ep ro : Bool) (s : State), s.isEndpoint e = true →
    s.lost (e / 2) = false → (s.peSt e).perst = false →
    ((s.cfgHalf e 0x04).testBit 1 = false ∨ req = .atomic ∨ req = .io) →
    ∃ t, exec (.bar2Request e req start off m b ep ro) s = .next t ∧ (t.peSt e).aerUnc.testBit 20 = true ∧ t.io = s.io ∧ t.mem = s.mem ∧
      t.get .PE_CNT_REFUSED (instPe e) = s.get .PE_CNT_REFUSED (instPe e) ∧ (req ≠ .write → .pcieCpl e [] 3 ∈ t.out)) ∧
  (∀ (e : Fin 4) (req : BarReq) (start off : Word) (m : BitVec 64) (b : BitVec 512) (ep ro : Bool) (s : State), s.peOn e = true →
    s.lost (e / 2) = false → (s.peSt e).perst = false → (s.isEndpoint e = true → (s.cfgHalf e 0x04).testBit 1 = true) →
    (req = .read ∨ req = .write) →
    (s.peWindow e start.toNat = none ∨
      ∃ n, s.peWindow e start.toNat = some n ∧
        (s.flag (if req = .write then .PW_ATTR_WR else .PW_ATTR_RD) (instH (e / 2) (e % 2 * 32 + n)) = false ∨
          s.peLimit e n < off.toNat / 64 * 64 + firstByte m ∨ 2 ^ (30 + s.bar2Log e) ≤ off.toNat / 64 * 64 + firstByte m)) →
    ∃ t, exec (.bar2Request e req start off m b ep ro) s = .next t ∧ t.io = s.io ∧ t.mem = s.mem ∧ t.fabric = s.fabric ∧
      t.get .PE_CNT_REFUSED (instPe e) = min (s.get .PE_CNT_REFUSED (instPe e) + 1) (2 ^ Fld.width .PE_CNT_REFUSED - 1) ∧
      (req = .read → .pcieCpl e (List.replicate 8 0) 0 ∈ t.out)) ∧
  (∀ (e : Fin 4) (req : BarReq) (start off : Word) (m : BitVec 64) (b : BitVec 512) (ep ro : Bool) (s : State) (n i pa : Nat),
    s.peOn e = true → s.lost (e / 2) = false → (s.peSt e).perst = false →
    (s.isEndpoint e = true → (s.cfgHalf e 0x04).testBit 1 = true) → (req = .read ∨ req = .write) →
    s.peWindow e start.toNat = some n → i = instH (e / 2) (e % 2 * 32 + n) →
    off.toNat / 64 * 64 + firstByte m ≤ s.peLimit e n → off.toNat / 64 * 64 + firstByte m < 2 ^ (30 + s.bar2Log e) →
    s.flag (if req = .write then .PW_ATTR_WR else .PW_ATTR_RD) i = true → (s.peSt e).queue = [] → (s.peSt e).live = [] →
    pa = off.toNat / 64 * 64 - s.get .PW_BASE_ADDR i * 4096 + s.get .PW_TGT_ADDR i * 4096 → pa < 2 ^ 52 →
    s.get .PW_ATTR_POLDER i < 32 →
    ∃ t x, exec (.bar2Request e req start off m b ep ro) s = .next t ∧ t.io = s.io ++ [x] ∧ x.msg.src = peStop e ∧
      x.msg.la.toNat = pa / 64 ∧ x.msg.pol.val = s.get .PW_ATTR_POLDER i ∧ x.msg.sec = (s.flag .PW_ATTR_SEC i && s.pcieSec e) ∧
      x.msg.ty = (if req = .read then .readShared else if s.flag .PW_ATTR_PLACE i && !ep then .placeWrite else .write) ∧
      x.msg.mask = m ∧ x.msg.data = b ∧ x.msg ∈ t.fabric ∧ t.mem = s.mem ∧ (req = .write → ep = true → (t.peSt e).aerUnc.testBit 12 = true)) ∧
  (∀ (e : Fin 4) (c : BitVec 16) (ep : Bool) (r : Running) (s : State),
    (s.cp.running.find? fun r => r.src.num == e.val && r.e.cid == c.toNat && !r.attached && !r.begun && !r.discard) = some r →
    (∀ k, s.runningOf { src := r.src, sqid := Fin.ofNat 64 r.sqid, e := r.e, list := [], data := [] } = some k → k.discard = false) →
    ∃ t, exec (.completionTimeout e c ep) s = .next t ∧ (t.peSt e).aerUnc.testBit (if ep then 12 else 14) = true ∧ t.mem = s.mem ∧
      answered t { src := r.src, sqid := Fin.ofNat 64 r.sqid, e := r.e, list := [], data := [] } 4 0) ∧
  (∀ (e : Fin 4) (c : BitVec 16) (ep : Bool) (s : State), (∀ r ∈ s.cp.running, r.e.cid ≠ c.toNat) →
    exec (.completionTimeout e c ep) s = .next s) ∧
  (∀ (e : Fin 4) (v : Fin 2048) (s : State), v.val ∈ (s.peSt e).msixHeld → (s.cfgHalf e 0xB2).testBit 15 = true →
    s.vecMasked e v = true →
    ∃ t, exec (.msixMessage e v) s = .next t ∧ Tbl.get 0 (t.peSt e).pba v = 1 ∧ t.out = s.out) ∧
  (∀ (e : Fin 4) (v : Fin 2048) (s : State), v.val ∈ (s.peSt e).msixHeld → (s.cfgHalf e 0xB2).testBit 15 = true →
    s.vecMasked e v = false → (Tbl.get 0 (s.peSt e).msixSent v = 0 ∨ Tbl.get 0 (s.peSt e).msixSent v + 999 ≤ s.now) →
    ∃ t, exec (.msixMessage e v) s = .next t ∧ t.out = s.out ++ [.msix e v (Tbl.get 0 (s.peSt e).msixAddr v) (Tbl.get 0 (s.peSt e).msixData v)] ∧ Tbl.get 0 (t.peSt e).pba v = 0 ∧
      (t.peSt e).msixHeld = (s.peSt e).msixHeld.erase v) ∧
  (∀ (e : Fin 4) (v : Fin 2048) (s : State), (v.val ∉ (s.peSt e).msixHeld ∨ (s.cfgHalf e 0xB2).testBit 15 = false) →
    exec (.msixMessage e v) s = .next s) ∧
  (∀ (e : Fin 4) (v : Fin 2048) (s : State), Tbl.get 0 (s.peSt e).pba v ≠ 0 → (s.cfgHalf e 0xB2).testBit 14 = false →
    ∃ t, exec (.msixUnmask e v) s = .next t ∧ Tbl.get 0 (t.peSt e).pba v = 0 ∧ t.vecMasked e v = false ∧
      t.out = if s.vecPending e v then
        s.out ++ [.msix e v (Tbl.get 0 (s.peSt e).msixAddr v) (Tbl.get 0 (s.peSt e).msixData v)] else s.out) ∧
  (∀ (e : Fin 4) (v : Fin 2048) (s : State), Tbl.get 0 (s.peSt e).pba v = 0 →
    ∃ t, exec (.msixUnmask e v) s = .next t ∧ t.out = s.out ∧ Tbl.get 1 (t.peSt e).msixMask v = 0) ∧
  (∀ (e : Fin 4) (s : State), s.isEndpoint e = true →
    ∃ t, exec (.intxAssert e) s = .next t ∧ (t.peSt e).intx = s.intxWanted e ∧
      t.out = if s.intxWanted e == (s.peSt e).intx then s.out else s.out ++ [.intx e (s.intxWanted e)]) ∧
  (∀ (e : Fin 4) (s : State), s.isEndpoint e = false → exec (.intxAssert e) s = .next s) ∧
  (∀ (c : Cmd) (e : Nat) (s : State), s.passes specWindow c = true → bitsOf c.e.p0 2 0 = e → e < 4 → s.peStageBad e = false →
    ∃ t, exec (.windowCommit c) s = .next t ∧ answered t c 0 ((s.get .PW_EPOCH_CURRENT (instPe e) + 1) % 2 ^ 32) ∧
      t.get .PW_EPOCH_CURRENT (instPe e) = (s.get .PW_EPOCH_CURRENT (instPe e) + 1) % 2 ^ 32 ∧
      ∀ n, n < 32 → ∃ i, i = instH (e / 2) (e % 2 * 32 + n) ∧
        ∃ w : Nat → Nat, (∀ k, w k = s.get .PW_STG_VALUE (instH (e / 2) (e % 2 * 128 + n * 4 + k))) ∧
        t.get .PW_BASE_ADDR i = bitsOf (w 0) 35 12 ∧ t.get .PW_LIM_ADDR i = bitsOf (w 1) 35 12 ∧
        t.get .PW_TGT_ADDR i = bitsOf (w 2) 51 12 ∧ t.get .PW_ATTR_VALID i = bitsOf (w 3) 0 0 ∧
        t.get .PW_ATTR_RD i = bitsOf (w 3) 1 1 ∧ t.get .PW_ATTR_WR i = bitsOf (w 3) 2 2 ∧
        t.get .PW_ATTR_PLACE i = bitsOf (w 3) 3 3 ∧ t.get .PW_ATTR_SEC i = bitsOf (w 3) 4 4 ∧
        t.get .PW_ATTR_POLDER i = bitsOf (w 3) 9 5 ∧ t.get .PW_ATTR_LEVEL i = bitsOf (w 3) 10 10 ∧
        t.get .PW_ATTR_PTGT i = bitsOf (w 3) 23 16) ∧
  (∀ (c : Cmd) (e : Nat) (s : State), s.passes specWindow c = true → bitsOf c.e.p0 2 0 = e →
    (6 ≤ e ∨ e < 4 ∧ s.peStageBad e = true ∨ (e = 4 ∨ e = 5) ∧ s.dikeStageBad (e - 4) = true) →
    ∃ t, exec (.windowCommit c) s = .next t ∧ answered t c 2 0 ∧ t.regs = s.regs) ∧
  (∀ (c : Cmd) (g : Nat) (s : State), s.passes specWindow c = true → bitsOf c.e.p0 2 0 = 4 + g → g < 2 → s.dikeStageBad g = false →
    ∃ t, exec (.windowCommit c) s = .next t ∧ answered t c 0 ((s.get .DK_EPOCH_CURRENT (instH g 0) + 1) % 2 ^ 32) ∧
      ∀ n, n < 32 →
        t.get .DK_BASE_ADDR (instH g n) = bitsOf (s.get .DK_STG_VALUE (instH g (n * 4))) 51 12 ∧
        t.get .DK_LIM_ADDR (instH g n) = bitsOf (s.get .DK_STG_VALUE (instH g (n * 4 + 1))) 51 12 ∧
        t.get .DK_TGT_ADDR (instH g n) = bitsOf (s.get .DK_STG_VALUE (instH g (n * 4 + 2))) 51 12 ∧
        t.get .DK_ATTR_VALID (instH g n) = bitsOf (s.get .DK_STG_VALUE (instH g (n * 4 + 3))) 0 0 ∧
        t.get .DK_ATTR_POLDER (instH g n) = bitsOf (s.get .DK_STG_VALUE (instH g (n * 4 + 3))) 9 5)

/-- R434 to R439: POR initialises everything but the keep store and samples the straps; a package reset keeps the AON domain,
the recorders and the keep store, counts itself and names its cause, and is held off by a power failure that is not yet safe;
DIE, CORE, POLDER and LINK resets reach their scope alone and have no effect where they are busy, and a LINK reset of a module end
keeps what BDL holds there; the active controller's boot ROM runs the first slot that verifies or enters recovery, the other
controller's boots the slot the active one runs; start-up goes from phase to phase, stopping with its cause. -/
def Obligations.ResetsAndStartUp : Prop :=
  (∀ (st : Straps) (s : State),
    ∃ t, exec (.porst st) s = .next t ∧ t.get .CP_ROLE_ACTIVE 0 = st.primary ∧ t.get .CS_STAT_INDEX 0 = st.cascadeId ∧
      t.pow.boot = st.boot ∧ t.get .PM_PKG_PHASE 0 = 1 ∧ t.now = 0 ∧ t.get .RST_CAUSE_CAUSE 0 = 0 ∧ t.mem = State.reset.mem ∧
      t.rcd = State.reset.rcd ∧ t.pols = [] ∧ t.cp.sqs = [] ∧ t.cp.running = [] ∧ t.cp.jns = s.cp.jns ∧ t.cp.slotA = s.cp.slotA ∧
      t.cp.slotB = s.cp.slotB ∧ t.berm.hist = s.berm.hist ∧ t.berm.retired = s.berm.retired ∧ t.cp.keep = s.cp.keep ∧
      (∀ b ∈ s.cp.badBlocks, b ∈ t.cp.badBlocks) ∧ (s.pwrFail = true → t.cp.badBlocks = s.cp.badBlocks)) ∧
  (∀ (b : Fin 4) (s : State), (s.flag .PM_RAIL_PWRFAIL (instH s.activeHalf 0) = false ∨
      s.flag .PM_RAIL_PF_SAFE (instH s.activeHalf 0) = true ∨ s.pow.pfAt + 800000 ≤ s.now) →
    ∃ t, exec (.pkrst b) s = .next t ∧ t.now = s.now ∧ t.rcd = s.rcd ∧ t.get .RST_CAUSE_CAUSE 0 = 1 ∧
      t.get .RST_CAUSE_PKR_COUNT 0 = min (s.get .RST_CAUSE_PKR_COUNT 0 + 1) 65535 ∧ t.get .PM_PKG_PHASE 0 = 1 ∧ t.pow.boot = b ∧
      t.mem = State.reset.mem ∧ t.pols = [] ∧ t.cp.jns = s.cp.jns ∧ t.berm.hist = s.berm.hist) ∧
  (∀ (b : Fin 4) (s : State), s.flag .PM_RAIL_PWRFAIL (instH s.activeHalf 0) = true →
    s.flag .PM_RAIL_PF_SAFE (instH s.activeHalf 0) = false → s.now < s.pow.pfAt + 800000 →
    ∃ t, exec (.pkrst b) s = .next t ∧ t.pow.pkrWait = some (1, b.val) ∧ t.regs = s.regs ∧ t.mem = s.mem ∧ t.pols = s.pols) ∧
  (∀ (a : Acc) (h : Half) (s : State), a.sec = true → s.lost h = false →
    s.flag .PM_RAIL_PWRFAIL (instH s.activeHalf 0) = false →
    ∃ t, exec (.rstReqPkr a h) s = .next t ∧ t.now = s.now ∧ t.get .RST_CAUSE_CAUSE 0 = 2 ∧ t.get .PM_PKG_PHASE 0 = 1 ∧
      t.mem = State.reset.mem ∧ t.pow.boot = s.pow.boot) ∧
  (∀ (a : Acc) (h : Half) (d : Die) (s : State), a.sec = true → s.lost h = false → s.diePolders d = true → (s.die d).state = 0 →
    exec (.rstReqDie a h d) s = .next s) ∧
  (∀ (a : Acc) (h : Half) (d : Die) (s : State), a.sec = true → s.lost h = false → s.diePolders d = false →
    ∃ t, exec (.rstReqDie a h d) s = .next t ∧ (t.die d).dc = [] ∧ (t.die d).state = (s.die d).state ∧ (s.hub = [] → t.mem = s.mem) ∧
      (∀ k : Half, t.modState k (Fin.ofNat 13 d) = 0) ∧
      ∀ g ∈ coresOfDie d, (t.core g).l2 = [] ∧ (t.core g).tlb = [] ∧ (t.core g).started = false ∧ (t.core g).serv = (s.core g).serv) ∧
  (∀ (a : Acc) (h : Half) (g : GCore) (s : State), a.sec = true → s.lost h = false → s.resetBusy (s.core g).pol = true →
    exec (.rstReqCore a h g) s = .next s) ∧
  (∀ (a : Acc) (h : Half) (g : GCore) (s : State) (v : Polder), a.sec = true → s.lost h = false →
    s.resetBusy (s.core g).pol = false → s.polder (s.core g).pol = some v → (s.core g).serv = 0 →
    ∃ t, exec (.rstReqCore a h g) s = .next t ∧ (t.core g).pol = (s.core g).pol ∧ (t.core g).lcpu = (s.core g).lcpu ∧
      (t.core g).l1i = [] ∧ (t.core g).l1d = [] ∧ (t.core g).l2 = [] ∧ (t.core g).tlb = [] ∧ (t.core g).t.isOpen = false ∧
      (t.core g).started = v.start ∧ (v.start = true → (t.core g).pc = BitVec.ofNat 64 v.entry ∧ (t.core g).pow = 0) ∧
      t.pols = s.pols ∧ (s.hub = [] → t.mem = s.mem)) ∧
  (∀ (a : Acc) (h : Half) (p : Pol) (s : State), a.sec = true → s.lost h = false → s.resetBusy p = true →
    exec (.rstReqPolder a h p) s = .next s) ∧
  (∀ (a : Acc) (h : Half) (p : Pol) (s : State) (v : Polder), a.sec = true → s.lost h = false → s.resetBusy p = false →
    s.polder p = some v →
    ∃ t, exec (.rstReqPolder a h p) s = .next t ∧ t.pols = s.pols ∧ (s.hub = [] → t.mem = s.mem) ∧
      (∀ g ∈ v.cores, (t.core g).l2 = [] ∧ (t.core g).pol = (s.core g).pol) ∧
      (∀ q, q < 64 → t.sq (qKey (4 + p) q) = none) ∧ t.get .TK_NOW_STATE p = s.get .TK_NOW_STATE p) ∧
  (∀ (a : Acc) (h k : Half) (m : Fin 13) (l : LinkEnd) (s : State), a.sec = true → s.lost h = false → l = hubEnd k m →
    ∃ t, exec (.rstReqLink a h (BitVec.ofNat 16 (k * 32 + m))) s = .next t ∧ (t.lk l).next = (s.lk l).next ∧
      (t.lk l).expect = (s.lk l).expect ∧ (t.lk l).replay = (s.lk l).replay ∧ (t.lk l).credits = (s.lk l).credits ∧
      t.lkGet l .LK_STAT_LAST_CAUSE .LKC_STAT_LAST_CAUSE = 0 ∧
      ((s.lk (endPeer l)).txMap ≠ 0 → (t.lk l).txMap = 0 ∧ (t.lk l).rxMap = 0) ∧
      t.modState k m = (if s.modState k m = 3 then 2 else s.modState k m) ∧ t.mem = s.mem) ∧
  (∀ (a : Acc) (h : Half) (e : Fin 4) (s : State), a.sec = true → s.lost h = false →
    ∃ t, exec (.rstReqLink a h (BitVec.ofNat 16 (e / 2 * 32 + 16 + e % 2))) s = .next t ∧ t.get .PE_STAT_LINK (instPe e) = 0 ∧
      t.flag .PE_STAT_READY (instPe e) = false) ∧
  (∀ (a : Acc) (h : Half) (v : BitVec 16) (s : State), a.sec = true → s.lost h = false → 64 ≤ v.toNat →
    exec (.rstReqLink a h v) s = .next s) ∧
  (∀ (h : Half) (m : Fin 13) (n : Fin 32) (die : Bool) (l : LinkEnd) (s : State), n.val = m.val → l = ⟨h, m, die⟩ →
    endOurs l = true →
    ∃ t, exec (.phySupplyTransient h n die) s = .next t ∧ (t.lk l).next = (s.lk l).next ∧ (t.lk l).replay = (s.lk l).replay ∧
      (t.lk l).credits = (s.lk l).credits ∧ t.lkGet l .LK_STAT_LAST_CAUSE .LKC_STAT_LAST_CAUSE = 0 ∧
      ((s.lk (endPeer l)).txMap ≠ 0 → (t.lk l).txMap = 0 ∧ (t.lk l).rxMap = 0) ∧
      t.modState h m = (if s.modState h m = 3 then 2 else s.modState h m)) ∧
  (∀ (h : Half) (n : Fin 32) (die : Bool) (s : State), 18 ≤ n.val → exec (.phySupplyTransient h n die) s = .next s) ∧
  (∀ (s : State) (n : Nat), s.cp.fatalSince = some n → n + 1000000000 ≤ s.now →
    s.flag .PM_RAIL_PWRFAIL (instH s.activeHalf 0) = false →
    ∃ t, exec .controllersFailed s = .next t ∧ t.get .RST_CAUSE_CAUSE 0 = 4 ∧ t.get .PM_PKG_PHASE 0 = 1 ∧ t.now = s.now) ∧
  (∀ s : State, s.cp.fatalSince = none → exec .controllersFailed s = .next s) ∧
  (∀ (h : Half) (k x : Nat) (l : List Nat) (s : State), s.get .PM_PKG_PHASE 0 = 1 → s.pow.held = [] → s.cp.recovery = false →
    s.lost h = false → h.val = s.activeHalf → s.bootOrder = k :: l → (s.slot k).verify.1 = some x →
    ∃ t, exec (.bootVerify h) s = .next t ∧ t.cp.recovery = false ∧ t.cp.runActive = some k ∧
      t.cp.runStandby = s.cp.runStandby) ∧
  (∀ (h : Half) (k : Nat) (x : Option Nat) (s : State), s.pow.held = [] → s.cp.recovery = false → s.lost h = false →
    h.val ≠ s.activeHalf → s.cp.runActive = some k → s.mayStandBy = true → s.cp.live = none →
    s.flag .CP_ROLE_STANDBY_READY 0 = false → (s.slot k).verify.1 = x →
    ∃ t, exec (.bootVerify h) s = .next t ∧ t.cp.runActive = some k ∧ t.flag .CP_ROLE_STANDBY_READY 0 = x.isSome ∧
      t.cp.runStandby = (if x.isSome then some k else s.cp.runStandby) ∧ t.cp.recovery = false) ∧
  (∀ (h : Half) (s : State), s.get .PM_PKG_PHASE 0 = 1 → s.pow.held = [] → s.cp.recovery = false → s.lost h = false →
    h.val = s.activeHalf → (∀ k ∈ s.bootOrder, (s.slot k).verify.1 = none) →
    ∃ t, exec (.bootVerify h) s = .next t ∧ t.cp.recovery = true ∧ t.cp.runActive = none ∧ t.get .PM_PKG_CAUSE 0 = 4) ∧
  (∀ (h : Half) (s : State), (h.val = s.activeHalf ∧ s.get .PM_PKG_PHASE 0 ≠ 1 ∨ h.val ≠ s.activeHalf ∧ s.cp.runActive = none) →
    exec (.bootVerify h) s = .next s) ∧
  (∀ (r : StartupReport) (s : State), (s.get .PM_PKG_CAUSE 0 ≠ 0 ∨ s.pow.held ≠ [] ∨ s.get .PM_PKG_PHASE 0 = 7) →
    exec (.startupPhase r) s = .next s) ∧
  (∀ (r : StartupReport) (s : State), s.get .PM_PKG_CAUSE 0 = 0 → s.pow.held = [] → s.get .PM_PKG_PHASE 0 = 1 →
    s.cp.runActive ≠ none → ∃ t, exec (.startupPhase r) s = .next t ∧ t.get .PM_PKG_PHASE 0 = 2) ∧
  (∀ (r : StartupReport) (s : State), s.get .PM_PKG_CAUSE 0 = 0 → s.pow.held = [] → s.get .PM_PKG_PHASE 0 = 2 →
    ∃ t, exec (.startupPhase r) s = .next t ∧ t.get .PM_PKG_PHASE 0 = 3 ∧ ∀ i, i < 16 → t.mcState i = 1) ∧
  (∀ (r : StartupReport) (s : State), s.get .PM_PKG_CAUSE 0 = 0 → s.pow.held = [] → s.get .PM_PKG_PHASE 0 = 3 →
    (∀ i, i < 16 → sameChan (chanOf r i) (chanOf r 0) = true ∧ goodChan (chanOf r i) = true ∧ (chanOf r i).trained = true) →
    ∃ t, exec (.startupPhase r) s = .next t ∧ t.get .PM_PKG_PHASE 0 = 4 ∧ t.get .PM_PKG_CAUSE 0 = 0 ∧
      t.get .MEM_SIZE_BLOCKS 0 = chanGib (chanOf r 0) * (if s.guardedCfg then 8 else 16) * 512 ∧
      ∀ i, i < 16 → t.mcState i = 2 ∧ t.get .MC_CFG_DPC (instCh i) = (chanOf r i).dpc) ∧
  (∀ (r : StartupReport) (s : State) (i : Nat), s.get .PM_PKG_CAUSE 0 = 0 → s.pow.held = [] → s.get .PM_PKG_PHASE 0 = 3 → i < 16 →
    (sameChan (chanOf r i) (chanOf r 0) = false ∨ goodChan (chanOf r i) = false) →
    ∃ t, exec (.startupPhase r) s = .next t ∧ t.get .PM_PKG_PHASE 0 = 3 ∧ t.get .PM_PKG_CAUSE 0 = 1 ∧ ∀ j, j < 16 → t.mcState j = 6) ∧
  (∀ (r : StartupReport) (s : State) (i : Nat), s.get .PM_PKG_CAUSE 0 = 0 → s.pow.held = [] → s.get .PM_PKG_PHASE 0 = 3 →
    (∀ j, j < 16 → sameChan (chanOf r j) (chanOf r 0) = true ∧ goodChan (chanOf r j) = true) → i < 16 →
    (chanOf r i).trained = false →
    ∃ t, exec (.startupPhase r) s = .next t ∧ t.get .PM_PKG_PHASE 0 = 3 ∧ t.get .PM_PKG_CAUSE 0 = 2) ∧
  (∀ (r : StartupReport) (s : State), s.get .PM_PKG_CAUSE 0 = 0 → s.pow.held = [] → s.get .PM_PKG_PHASE 0 = 4 →
    ∃ t, exec (.startupPhase r) s = .next t ∧ t.get .PM_PKG_PHASE 0 = 5 ∧ t.mem.h0 = [] ∧ t.mem.h1 = []) ∧
  (∀ (r : StartupReport) (s : State), s.get .PM_PKG_CAUSE 0 = 0 → s.pow.held = [] → s.get .PM_PKG_PHASE 0 = 5 →
    ∃ t, exec (.startupPhase r) s = .next t ∧
      if (∃ d ∈ r.badDies, (s.die d).state = 0) then t.get .PM_PKG_PHASE 0 = 5 ∧ t.get .PM_PKG_CAUSE 0 = 3
      else t.get .PM_PKG_PHASE 0 = 6 ∧ t.get .PM_PKG_CAUSE 0 = 0) ∧
  (∀ (r : StartupReport) (s : State), s.get .PM_PKG_CAUSE 0 = 0 → s.pow.held = [] → s.get .PM_PKG_PHASE 0 = 6 →
    ∃ t, exec (.startupPhase r) s = .next t ∧ t.get .PM_PKG_PHASE 0 = 7 ∧ t.pow.defs = none) ∧
  (∀ (c : Cmd) (s : State), s.passes (specQuery 0xFFFF 0xFFFFFFFFFFFFFFFF) c = true →
    (bitsOf c.e.p0 15 0 ≠ 0x600 ∨ c.e.p1 &&& 0x1FFFF0007 ≠ c.e.p1) →
    ∃ t, exec (.setFeature c) s = .next t ∧ answered t c 2 0 ∧ t.regs = s.regs) ∧
  (∀ (c : Cmd) (d : Nat) (s : State), s.passes (specQuery 0xFFFF 0xFFFFFFFFFFFFFFFF) c = true → bitsOf c.e.p0 15 0 = 0x600 →
    s.srcSecure c.src = true → d < 12 → c.e.p1 = rstWord 2 d →
    ∃ t, exec (.setFeature c) s = .next t ∧
      if s.diePolders d = true ∧ (s.die d).state = 0 then answered t c 5 0 ∧ t.regs = s.regs
      else answered t c 0 0 ∧ (t.die d).dc = [])

/-- R392, R426 to R428, R430 to R433, R437, R476, R479: the power-fail warning sets and clears PWRFAIL and PF_SAFE and releases a
package reset it held off; a rail out of range takes its die, its half, the package or everything with it; a unit's sensors are
read and 110 °C trips; a domain without votes asks its veto clients, drains, is fenced, closes and is woken by a vote; a core in
C1 without tick delivery enters C2; a die's voltage moves by at most 10 mV; a half changes to its other clock input, or is
lost. -/
def Obligations.SuppliesTemperatureVotesAndSluices : Prop :=
  (∀ s : State, s.pwrFail = false →
    ∃ t, exec .pwrfailAssert s = .next t ∧ t.pow.pfAt = s.now ∧
      ∀ h : Half, t.flag .PM_RAIL_PWRFAIL (instH h 0) = true ∧ t.flag .PM_RAIL_PF_SAFE (instH h 0) = false) ∧
  (∀ s : State, s.pwrFail = true → exec .pwrfailAssert s = .next s) ∧
  (∀ s : State, s.pwrFail = true → s.pow.bad = [] → s.pow.tripped = false →
    ∃ t, exec .pwrfailDeassert s = .next t ∧
      ∀ h : Half, t.flag .PM_RAIL_PWRFAIL (instH h 0) = false ∧ t.flag .PM_RAIL_PF_SAFE (instH h 0) = false) ∧
  (∀ s : State, (s.pwrFail = false ∨ s.pow.bad ≠ [] ∨ s.pow.tripped = true) → exec .pwrfailDeassert s = .next s) ∧
  (∀ s : State, s.pwrFail = true → s.pow.pkrWait = none →
    ∃ t, exec .pfSafe s = .next t ∧ t.mem = s.mem ∧ ∀ h : Half, t.flag .PM_RAIL_PF_SAFE (instH h 0) = true) ∧
  (∀ (s : State) (c b : Nat), s.pwrFail = true → s.pow.pkrWait = some (c, b) → c < 16 →
    ∃ t, exec .pfSafe s = .next t ∧ t.get .PM_PKG_PHASE 0 = 1 ∧ t.get .RST_CAUSE_CAUSE 0 = c ∧ t.pow.boot = b ∧
      t.pow.pkrWait = none) ∧
  (∀ s : State, s.pwrFail = false → exec .pfSafe s = .next s) ∧
  (∀ (d : Fin 12) (v : BitVec 16) (s : State), s.pow.bad.lookup (7 + d.val) = none → (s.die d).state = 0 →
    ∃ t, exec (.railMonitor (.cd d) false v) s = .next t ∧ (t.get .PM_RAIL_CD_OK (instH 0 0)).testBit d = false ∧
      (t.die d).state = 2 ∧ t.pow.bad.lookup (7 + d.val) = some none) ∧
  (∀ (h : Half) (v : BitVec 16) (s : State), s.pow.bad.lookup (1 + h.val) = none →
    ∃ t, exec (.railMonitor (.hub h) false v) s = .next t ∧ t.lost h = true ∧
      (t.get .PM_RAIL_HUB_OK (instH 0 0)).testBit h = false) ∧
  (∀ (r : Rail) (v : BitVec 16) (s : State), (r = .serL ∨ r = .serH ∨ r = .io ∨ r = .phy) → s.pow.bad.lookup (railNo r) = none →
    ∃ t, exec (.railMonitor r false v) s = .next t ∧ t.get .PM_PKG_PHASE 0 = 1 ∧ t.get .RST_CAUSE_CAUSE 0 = 3 ∧
      railNo r ∈ t.pow.held) ∧
  (∀ (v : BitVec 16) (s : State), s.pow.bad.lookup 0 = none →
    ∃ t, exec (.railMonitor .aon false v) s = .next t ∧ t.now = 0 ∧ t.rcd = State.reset.rcd ∧ t.get .PM_PKG_PHASE 0 = 1 ∧
      t.cp.jns = s.cp.jns) ∧
  (∀ (r : Rail) (v : BitVec 16) (s : State), s.pow.bad.lookup (railNo r) = none →
    ∃ t, exec (.railMonitor r true v) s = .next t ∧ t.pow = s.pow ∧ t.dies = s.dies ∧ t.halfLost = s.halfLost ∧
      t.get .PM_PKG_PHASE 0 = s.get .PM_PKG_PHASE 0) ∧
  (∀ (r : Rail) (v : BitVec 16) (s : State), s.pow.bad.lookup (railNo r) = some none →
    ∃ t, exec (.railMonitor r true v) s = .next t ∧ t.pow.bad.lookup (railNo r) = some (some s.now) ∧ t.pow.held = s.pow.held) ∧
  (∀ (r : Rail) (v : BitVec 16) (s : State) (n : Nat), s.pow.bad.lookup (railNo r) = some (some n) → n + railHold r ≤ s.now →
    ∃ t, exec (.railMonitor r true v) s = .next t ∧ t.pow.bad.lookup (railNo r) = none ∧ railNo r ∉ t.pow.held) ∧
  (∀ (u : Fin 14) (l : List Byte) (s : State), (∀ x ∈ l, celsius x.toNat < 110) →
    ∃ t, exec (.thermalSample u l) s = .next t ∧ t.pow.tripped = s.pow.tripped ∧
      ∀ i, (hi : i < l.length) → i < tsCount u → t.get (tsTemp u) (tsInst u i) = (l[i]).toNat ∧ t.flag (tsValid u) (tsInst u i) = true) ∧
  (∀ (u : Fin 14) (l : List Byte) (s : State) (x : Byte), x ∈ l.take (tsCount u) → 110 ≤ celsius x.toNat → s.pow.tripped = false →
    ∃ t, exec (.thermalSample u l) s = .next t ∧ t.pow.tripped = true ∧ t.pwrFail = true ∧ .pin pinThermtrip false ∈ t.out ∧
      t.flag .PM_RAIL_THERMTRIP (instH 0 0) = true ∧ t.get .RST_CAUSE_CAUSE 0 = 5 ∧ ∀ d, d < 12 → (t.die d).state ≠ 0) ∧
  (∀ (x : Domain) (s : State), (s.sluice (domKey x.kind x.index) ≠ 0 ∨ s.votes x.kind x.index ≠ 0) →
    exec (.voteDrop x) s = .next s) ∧
  (∀ (x : Domain) (s : State) (c : Nat), domOk x.kind x.index = true → s.sluice (domKey x.kind x.index) = 0 →
    s.votes x.kind x.index = 0 → s.refuser x.kind x.index = some c →
    ∃ t, exec (.voteDrop x) s = .next t ∧ t.sluice (domKey x.kind x.index) = 0 ∧
      t.get .PV_STAT_LAST_REFUSER (domKey x.kind x.index) = c ∧
      t.get .PV_STAT_REFUSALS (domKey x.kind x.index) = min (s.get .PV_STAT_REFUSALS (domKey x.kind x.index) + 1) 65535) ∧
  (∀ (x : Domain) (s : State), domOk x.kind x.index = true → s.sluice (domKey x.kind x.index) = 0 →
    s.votes x.kind x.index = 0 → s.refuser x.kind x.index = none →
    ∃ t, exec (.voteDrop x) s = .next t ∧ t.sluice (domKey x.kind x.index) = 1) ∧
  (∀ (x : Domain) (s : State) (k : Nat), k = domKey x.kind x.index → domOk x.kind x.index = true → s.sluice k = 1 →
    s.votes x.kind x.index ≠ 0 →
    (∃ t, exec (.sluiceDrained x) s = .next t ∧ t.sluice k = 0 ∧ t.get .PV_STAT_ABORTS k = min (s.get .PV_STAT_ABORTS k + 1) 65535) ∧
      ∃ t, exec (.sluiceWake x) s = .next t ∧ t.sluice k = 0 ∧ t.get .PV_STAT_ABORTS k = min (s.get .PV_STAT_ABORTS k + 1) 65535) ∧
  (∀ (x : Domain) (s : State) (k : Nat), k = domKey x.kind x.index → domOk x.kind x.index = true → s.sluice k = 1 →
    s.votes x.kind x.index = 0 → s.drained x.kind x.index = true →
    ∃ t, exec (.sluiceDrained x) s = .next t ∧ t.sluice k = 2) ∧
  (∀ (x : Domain) (s : State) (k : Nat), k = domKey x.kind x.index → s.sluice k = 1 → s.votes x.kind x.index = 0 →
    s.drained x.kind x.index = false → exec (.sluiceDrained x) s = .next s) ∧
  (∀ (x : Domain) (s : State) (k : Nat), k = domKey x.kind x.index → domOk x.kind x.index = true → s.sluice k = 2 →
    s.votes x.kind x.index = 0 →
    ∃ t, exec (.sluiceDrained x) s = .next t ∧ t.sluice k = 3 ∧ t.get .PV_STAT_DROPS k = min (s.get .PV_STAT_DROPS k + 1) 65535 ∧
      (x.kind = 0 → (t.core x.index).pow = 3 ∧ (t.core x.index).l2 = [] ∧ (t.core x.index).save = some (s.core x.index).saved) ∧
      (x.kind = 1 → (t.die x.index).dc = [])) ∧
  (∀ (x : Domain) (s : State), s.votes x.kind x.index = 0 → exec (.sluiceWake x) s = .next s) ∧
  (∀ (x : Domain) (s : State) (k : Nat), k = domKey x.kind x.index → domOk x.kind x.index = true → s.sluice k = 3 →
    s.votes x.kind x.index ≠ 0 →
    ∃ t, exec (.sluiceWake x) s = .next t ∧ t.sluice k = 0 ∧ t.get .PV_STAT_ABORTS k = s.get .PV_STAT_ABORTS k ∧
      (x.kind = 0 → ∀ v, (s.core x.index).save = some v → (t.core x.index).pc = v.pc ∧ (t.core x.index).gpr = v.gpr ∧
        (t.core x.index).save = none ∧ (t.core x.index).pow ≠ 3)) ∧
  (∀ (g : GCore) (n : Nat) (s : State), (s.core g).idleSince = some n → (s.core g).pow = 1 →
    ((s.core g).pol = 0 ∨ s.ticksRun (s.core g).pol = false) →
    n + max (s.get .DPM_CTL_C2_IDLE (instD (dieOf g) 0)) 1 * 1000 ≤ s.now →
    ∃ t, exec (.c2IdleExpired g) s = .next t ∧ (t.core g).pow = 2 ∧ (t.core g).l1d = [] ∧ (t.core g).l1i = [] ∧
      (t.core g).l2 = (s.core g).l2 ∧ (t.core g).gpr = (s.core g).gpr) ∧
  (∀ (g : GCore) (s : State), ((s.core g).pow ≠ 1 ∨ (s.core g).pol ≠ 0 ∧ s.ticksRun (s.core g).pol = true) →
    exec (.c2IdleExpired g) s = .next s) ∧
  (∀ (d : Die) (s : State), s.lost (d / 6) = false → Tbl.get 0 s.pow.avsAt d = 0 → s.get .DPM_CTL_VOLT_MV (instD d 0) < 1024 →
    ∃ t, exec (.avsStep d) s = .next t ∧ t.get .DPM_CTL_GUARD_MV (instD d 0) = s.guardBand d ∧
      t.get .DPM_CTL_VOLT_MV (instD d 0) =
        stepTo (s.get .DPM_CTL_VOLT_MV (instD d 0)) ((Config.avsPoint d (s.dieMhz d)).toNat + s.guardBand d) % 1024) ∧
  (∀ (d : Die) (s : State), s.lost (d / 6) = true → exec (.avsStep d) s = .next s) ∧
  (∀ (h : Half) (i : Fin 2) (s : State), s.get (selFld h) 0 = i → s.get (goodFld h) 0 = 3 →
    ∃ t, exec (.refclkFail h i) s = .next t ∧ t.get (goodFld h) 0 = 2 ^ (1 - i.val) ∧ t.get (selFld h) 0 = 1 - i ∧
      t.get .REF_STAT_SWITCHES 0 = min (s.get .REF_STAT_SWITCHES 0 + 1) (2 ^ Fld.width .REF_STAT_SWITCHES - 1) ∧ t.now = s.now) ∧
  (∀ (h : Half) (s : State), 1 - h.val ∉ s.pow.refOut →
    ∃ t, exec (.refclkBothFail h) s = .next t ∧ t.lost h = true ∧ t.get (goodFld h) 0 = 0) ∧
  (∀ (h : Half) (s : State), 1 - h.val ∈ s.pow.refOut → 99 ∉ s.pow.held →
    ∃ t, exec (.refclkBothFail h) s = .next t ∧ t.get .PM_PKG_PHASE 0 = 1 ∧ 99 ∈ t.pow.held) ∧
  (∀ (h : Half) (i : Fin 2) (s : State),
    ∃ t, exec (.refclkRecover h i) s = .next t ∧ (t.get (goodFld h) 0).testBit i = true ∧ h.val ∉ t.pow.refOut ∧
      99 ∉ t.pow.held ∧ (99 ∈ s.pow.held → t.flag .PT_STAT_HOLDOVER 0 = true)) ∧
  (∀ (c : Cmd) (s : State) (k i n : Nat), s.passes specVote c = true → bitsOf c.e.p0 15 12 = k → bitsOf c.e.p0 11 0 = i →
    bitsOf c.e.p1 4 0 = n → s.srcSecure c.src = true → domOk k i = true → 8 ≤ n → n < 16 → s.sluice (domKey k i) = 0 →
    ∃ t, exec (.powerVote c) s = .next t ∧ (t.get .PV_VOTE_VOTES (domKey k i)).testBit n = bitOf c.e.p1 8 ∧
      ∃ r, answered t c 0 r ∧ r.testBit n = bitOf c.e.p1 8) ∧
  (∀ (c : Cmd) (s : State) (g : Nat), s.passes specVote c = true → bitsOf c.e.p0 15 0 = g → g < 240 → bitsOf c.e.p1 4 0 = 16 →
    (s.core g).pol ≠ 0 → s.srcBound c.src (s.core g).pol = true → s.sluice (domKey 0 g) = 0 →
    ∃ t, exec (.powerVote c) s = .next t ∧ (t.get .PV_VOTE_VOTES (domKey 0 g)).testBit 16 = bitOf c.e.p1 8) ∧
  (∀ (c : Cmd) (s : State), s.passes specVote c = true →
    (bitsOf c.e.p1 4 0 < 8 ∨ 16 ≤ bitsOf c.e.p1 4 0 ∧ s.clientPolder (bitsOf c.e.p0 15 12) (bitsOf c.e.p0 11 0) (bitsOf c.e.p1 4 0) = none) →
    ∃ t, exec (.powerVote c) s = .next t ∧ answered t c 2 0 ∧ t.regs = s.regs)

/-- R453 to R456, R459, R461: an event takes SEQ = NEXT and is appended, is staged while the half is frozen, is dropped and
counted once a recorder in NORMAL mode is full, and overwrites the oldest in LIVE mode; REC_CTL freezes, unfreezes, clears and
changes the mode; a freeze lapses; RECORDER_FREEZE and RECORDER_UNFREEZE freeze the half or the sender's view. -/
def Obligations.RecorderWritesFreezesAndClears : Prop :=
  (∀ (h : Half) (ev : Event) (s : State) (k : Nat), k = s.recHalf h → s.frozen k = false → s.recHeld k < 8192 →
    ∃ t, exec (.recorderRecord h ev) s = .next t ∧ t.mem = s.mem ∧ t.cores = s.cores ∧
      t.get .REC_STAT_NEXT (instH k 0) = (s.get .REC_STAT_NEXT (instH k 0) + 1) % 2 ^ 32 ∧
      ∃ r, (t.rcd.get k).recs = (s.rcd.get k).recs ++ [r] ∧ r.seq = s.get .REC_STAT_NEXT (instH k 0) ∧ r.ptime = s.now ∧
        r.code = ev.code ∧ r.pol = ev.pol ∧ r.pview = ev.pview ∧ r.half = h.val ∧ r.src = ev.src ∧ r.rep = 1 ∧ r.args = ev.args ∧
        r.vseq = if ev.pview then s.get .RV_STAT_NEXT (instH k ev.pol) else 0) ∧
  (∀ (h : Half) (ev : Event) (s : State) (k : Nat), k = s.recHalf h → s.frozen k = true → s.get .REC_DROP_STAGED (instH k 0) < 64 →
    ∃ t, exec (.recorderRecord h ev) s = .next t ∧ (t.rcd.get k).recs = (s.rcd.get k).recs ∧
      t.get .REC_STAT_NEXT (instH k 0) = s.get .REC_STAT_NEXT (instH k 0) ∧
      t.get .REC_DROP_STAGED (instH k 0) = s.get .REC_DROP_STAGED (instH k 0) + 1 ∧
      ∃ r, (t.rcd.get k).staged = (s.rcd.get k).staged ++ [r] ∧ r.code = ev.code ∧ r.ptime = s.now ∧ r.args = ev.args) ∧
  (∀ (h : Half) (ev : Event) (s : State) (k : Nat), k = s.recHalf h →
    (s.frozen k = true ∧ 64 ≤ s.get .REC_DROP_STAGED (instH k 0) ∨
      s.frozen k = false ∧ s.recLive k = false ∧ 8192 ≤ s.recHeld k) →
    ∃ t, exec (.recorderRecord h ev) s = .next t ∧ (t.rcd.get k).recs = (s.rcd.get k).recs ∧
      (t.rcd.get k).staged = (s.rcd.get k).staged ∧
      t.get .REC_STAT_NEXT (instH k 0) = s.get .REC_STAT_NEXT (instH k 0) ∧
      t.get .REC_DROP_DROPPED (instH k 0) = min (s.get .REC_DROP_DROPPED (instH k 0) + 1) (2 ^ 32 - 1) ∧
      (s.frozen k = false → t.flag .REC_DROP_FULL (instH k 0) = true)) ∧
  (∀ (h : Half) (ev : Event) (s : State) (k : Nat), k = s.recHalf h → s.frozen k = false → s.recLive k = false →
    s.recHeld k = 8191 → s.get .REC_STAT_NEXT (instH k 0) < 2 ^ 32 → s.get .REC_STAT_OLDEST (instH k 0) < 2 ^ 32 →
    ∃ t, exec (.recorderRecord h ev) s = .next t ∧ t.flag .REC_DROP_FULL (instH k 0) = true) ∧
  (∀ (h : Half) (ev : Event) (s : State) (k : Nat), k = s.recHalf h → s.frozen k = false → s.recLive k = true →
    s.recHeld k = 8192 → (s.rcd.get k).recs ≠ [] → s.get .REC_STAT_NEXT (instH k 0) < 2 ^ 32 →
    s.get .REC_STAT_OLDEST (instH k 0) < 2 ^ 32 →
    ∃ t, exec (.recorderRecord h ev) s = .next t ∧ t.recHeld k = 8192 ∧
      t.get .REC_STAT_OLDEST (instH k 0) = (s.get .REC_STAT_OLDEST (instH k 0) + 1) % 2 ^ 32 ∧
      ∃ r, (t.rcd.get k).recs = (s.rcd.get k).recs.drop 1 ++ [r] ∧ r.code = ev.code) ∧
  (∀ (a : Acc) (h : Half) (v : Word) (s : State), a.sec = true → s.lost h = false → s.recLive h = false → s.frozen h = false →
    v.getLsbD 0 = true → v.getLsbD 1 = false → v.getLsbD 3 = false →
    ∃ t, exec (.recFreeze a h v) s = .next t ∧ t.frozen h = true ∧ t.flag .REC_CTL_FREEZE (instH h 0) = true ∧
      (t.rcd.get h).recs = (s.rcd.get h).recs ∧ (t.rcd.get h).frozenAt = s.now ∧
      t.flag .REC_CTL_AUTO_EXPORT (instH h 0) = v.getLsbD 2 ∧ t.get .REC_CTL_FREEZE_MAX (instH h 0) = bitsOf v.toNat 31 16) ∧
  (∀ (a : Acc) (h : Half) (v : Word) (s : State), a.sec = true → s.lost h = false → s.recLive h = false → s.frozen h = true →
    v.getLsbD 0 = false → v.getLsbD 1 = false → v.getLsbD 3 = false →
    ∃ t, exec (.recFreeze a h v) s = .next t ∧ t.frozen h = false ∧ t.get .REC_DROP_STAGED (instH h 0) = 0 ∧
      (t.rcd.get h).staged = [] ∧
      ((s.rcd.get h).stagedReps = [] → (s.rcd.get h).staged = [] → (t.rcd.get h).recs = (s.rcd.get h).recs) ∧
      (∀ r, (s.rcd.get h).stagedReps = [] → (s.rcd.get h).staged = [r] → s.recHeld h < 8192 →
        ∃ x, (t.rcd.get h).recs = (s.rcd.get h).recs ++ [x] ∧ x.code = r.code ∧ x.ptime = r.ptime ∧
          x.seq = s.get .REC_STAT_NEXT (instH h 0))) ∧
  (∀ (a : Acc) (h : Half) (v : Word) (s : State), a.sec = true → s.lost h = false → s.recLive h = true → s.frozen h = false →
    v.getLsbD 1 = true → v.getLsbD 3 = false →
    ∃ t, exec (.recFreeze a h v) s = .next t ∧ t.frozen h = false ∧ t.rcd = s.rcd) ∧
  (∀ (a : Acc) (h : Half) (v : Word) (s : State), a.sec = true → s.lost h = false → s.recLive h = false → s.frozen h = false →
    v.getLsbD 0 = false → v.getLsbD 1 = false → v.getLsbD 3 = true →
    ∃ t, exec (.recClear a h v) s = .next t ∧ t.flag .REC_DROP_FULL (instH h 0) = false ∧
      t.get .REC_STAT_OLDEST (instH h 0) = s.get .REC_STAT_NEXT (instH h 0) % 2 ^ 32 ∧
      ∃ r, (t.rcd.get h).recs = [r] ∧ r.code = 0x01 ∧ r.args = [s.recHeld h] ∧ r.seq = s.get .REC_STAT_NEXT (instH h 0)) ∧
  (∀ (a : Acc) (h : Half) (v : Word) (s : State), a.sec = true → s.lost h = false → s.recLive h = false → s.frozen h = false →
    v.getLsbD 1 = true → v.getLsbD 3 = false → s.recHeld h < 8192 →
    ∃ t, exec (.recMode a h v) s = .next t ∧ t.recLive h = true ∧ t.frozen h = false ∧
      ∃ r ∈ (t.rcd.get h).recs, r.code = 0x03 ∧ r.args = [0, 1]) ∧
  (∀ (a : Acc) (h : Half) (v : Word) (s : State), a.sec = true → s.lost h = false → s.recLive h = true → s.frozen h = false →
    s.recHeld h < 8192 → v.getLsbD 0 = false → v.getLsbD 1 = false → v.getLsbD 3 = false →
    ∃ t, exec (.recMode a h v) s = .next t ∧ t.recLive h = false ∧
      ∃ r, (t.rcd.get h).recs = (s.rcd.get h).recs ++ [r] ∧ r.code = 0x03 ∧ r.args = [1, 0]) ∧
  (∀ (a : Acc) (h : Half) (v : Word) (s : State), a.sec = true → s.lost h = false → s.recLive h = true → s.frozen h = false →
    s.recHeld h = 8192 → v.getLsbD 0 = false → v.getLsbD 1 = false → v.getLsbD 3 = false →
    ∃ t, exec (.recMode a h v) s = .next t ∧ t.recLive h = false ∧ t.flag .REC_DROP_FULL (instH h 0) = true) ∧
  (∀ (h : Half) (s : State), s.frozen h = true →
    (s.rcd.get h).frozenAt + max (s.get .REC_CTL_FREEZE_MAX (instH h 0)) 1 * 1000000 ≤ s.now →
    ∃ t, exec (.freezeLapse h) s = .next t ∧ t.frozen h = false ∧
      ((s.rcd.get h).staged = [] → s.recHeld h < 8192 → s.lost h = false → ∃ r ∈ (t.rcd.get h).recs, r.code = 0x02)) ∧
  (∀ (h : Half) (s : State), (s.frozen h = false ∨
    s.now < (s.rcd.get h).frozenAt + max (s.get .REC_CTL_FREEZE_MAX (instH h 0)) 1 * 1000000) →
    exec (.freezeLapse h) s = .next s) ∧
  (∀ (c : Cmd) (s : State) (h : Nat), s.passes specRecFreeze c = true → s.srcSecure c.src = true → bitsOf c.e.p0 0 0 = h →
    s.recLive h = false →
    ∃ t, exec (.recorderFreeze c) s = .next t ∧ answered t c 0 (s.recHeld h) ∧ t.frozen h = true ∧
      (t.rcd.get h).recs = (s.rcd.get h).recs) ∧
  (∀ (c : Cmd) (s : State) (h : Nat), s.passes specRecFreeze c = true → s.srcSecure c.src = true → bitsOf c.e.p0 0 0 = h →
    s.recLive h = true →
    ∃ t, exec (.recorderFreeze c) s = .next t ∧ answered t c 7 0 ∧ t.rcd = s.rcd ∧ t.regs = s.regs) ∧
  (∀ (c : Cmd) (s : State) (h p : Nat), s.passes specRecFreeze c = true → s.srcSecure c.src = false → bitsOf c.e.p0 0 0 = h →
    p = c.e.polder → p ≠ 0 → (s.polder p).isSome = true → s.srcBound c.src p = true → s.recLive h = false →
    ∃ t r, exec (.recorderFreeze c) s = .next t ∧ answered t c 0 r ∧ t.flag .RV_CTL_FREEZE (instH h p) = true ∧
      (Tbl.get none (t.rcd.get h).viewEnd p).isSome = true ∧ t.frozen h = s.frozen h ∧
      (t.rcd.get h).recs = (s.rcd.get h).recs) ∧
  (∀ (c : Cmd) (s : State), s.passes specRecFreeze c = true → s.srcSecure c.src = false →
    (c.e.polder = 0 ∨ s.polder c.e.polder = none ∨ s.srcBound c.src c.e.polder = false) →
    (∃ t, exec (.recorderFreeze c) s = .next t ∧ answered t c 3 0) ∧
      ∃ t, exec (.recorderUnfreeze c) s = .next t ∧ answered t c 3 0) ∧
  (∀ (c : Cmd) (s : State) (h : Nat), s.passes specRecFreeze c = true → s.srcSecure c.src = true → bitsOf c.e.p0 0 0 = h →
    s.frozen h = true →
    ∃ t, exec (.recorderUnfreeze c) s = .next t ∧ answered t c 0 (min (s.rcd.get h).frozenDrops 65535) ∧ t.frozen h = false ∧
      (t.rcd.get h).staged = []) ∧
  (∀ (c : Cmd) (s : State) (h p : Nat), s.passes specRecFreeze c = true → s.srcSecure c.src = false → bitsOf c.e.p0 0 0 = h →
    p = c.e.polder → p ≠ 0 → (s.polder p).isSome = true → s.srcBound c.src p = true →
    (Tbl.get none (s.rcd.get h).viewEnd p).isSome = true →
    ∃ t, exec (.recorderUnfreeze c) s = .next t ∧ answered t c 0 (min (Tbl.get 0 (s.rcd.get h).viewDrops p) 65535) ∧
      t.flag .RV_CTL_FREEZE (instH h p) = false ∧ Tbl.get none (t.rcd.get h).viewEnd p = none ∧
      (t.rcd.get h).recs = (s.rcd.get h).recs)

/-- R458 to R461: a view's cursor clamps to its oldest record, its window shows the record under it, word 7 advances it and
nothing at or beyond NEXT does; a polder's view seeks after a cursor write; RV_CTL fixes and releases the end of a view; exports
go to the keep store or to DESC0; AUTO_EXPORT exports and clears a full recorder. -/
def Obligations.RecorderViewsWindowsAndExports : Prop :=
  (∀ (a : Acc) (h : Half) (p : Pol) (v : Word) (s : State), (a.sec = true ∨ a.pol = p) → s.lost h = false → v.getLsbD 0 = true →
    Tbl.get none (s.rcd.get h).viewEnd p = none →
    ∃ t, exec (.rvFreeze a h p v) s = .next t ∧ t.flag .RV_CTL_FREEZE (instH h p) = true ∧
      Tbl.get none (t.rcd.get h).viewEnd p = some (s.get .RV_STAT_NEXT (instH h p)) ∧ (t.rcd.get h).recs = (s.rcd.get h).recs ∧
      t.frozen h = s.frozen h) ∧
  (∀ (a : Acc) (h : Half) (p : Pol) (v : Word) (s : State), (a.sec = true ∨ a.pol = p) → s.lost h = false → v.getLsbD 0 = false →
    ∃ t, exec (.rvFreeze a h p v) s = .next t ∧ t.flag .RV_CTL_FREEZE (instH h p) = false ∧
      Tbl.get none (t.rcd.get h).viewEnd p = none ∧ (t.rcd.get h).recs = (s.rcd.get h).recs) ∧
  (∀ (a : Acc) (h : Half) (v : Word) (s : State) (o : Nat), a.sec = true → s.lost h = false → v.getLsbD 32 = false →
    o = s.get .REC_STAT_OLDEST (instH h 0) → o < 2 ^ 32 →
    ∃ t, exec (.recCursor a h none v) s = .next t ∧ t.flag .REC_CURSOR_PARTNER (instH h 0) = false ∧ t.rcd = s.rcd ∧
      t.get .REC_CURSOR_SEQ (instH h 0) = if seqBefore (bitsOf v.toNat 31 0) o then o else bitsOf v.toNat 31 0) ∧
  (∀ (a : Acc) (h : Half) (p : Pol) (v : Word) (s : State), (a.sec = true ∨ a.pol = p) → s.lost h = false →
    ∃ t, exec (.recCursor a h (some p) v) s = .next t ∧ t.get .RV_CURSOR_VSEQ (instH h p) = bitsOf v.toNat 31 0 ∧
      t.flag .RV_STAT_BUSY (instH h p) = true ∧ t.rcd = s.rcd) ∧
  (∀ (h : Half) (p : Pol) (s : State) (r : Rec) (l : List Rec), s.flag .RV_STAT_BUSY (instH h p) = true →
    s.viewRecs h p = r :: l → r.vseq < 2 ^ 32 →
    ∃ t, exec (.viewSeekDone h p) s = .next t ∧ t.flag .RV_STAT_BUSY (instH h p) = false ∧ t.rcd = s.rcd ∧
      t.get .RV_CURSOR_VSEQ (instH h p) =
        (if seqBefore (s.get .RV_CURSOR_VSEQ (instH h p)) r.vseq then r.vseq else s.get .RV_CURSOR_VSEQ (instH h p)) % 2 ^ 32) ∧
  (∀ (h : Half) (p : Pol) (s : State), s.flag .RV_STAT_BUSY (instH h p) = false → exec (.viewSeekDone h p) s = .next s) ∧
  (∀ (a : Acc) (h : Half) (s : State) (c : Nat), a.sec = true → s.lost h = false → s.flag .REC_CURSOR_PARTNER (instH h 0) = false →
    c = s.get .REC_CURSOR_SEQ (instH h 0) → seqBefore c (s.get .REC_STAT_NEXT (instH h 0)) = true →
    ∃ t, exec (.recWindow7Read a h none) s = .next t ∧ t.cp.busRead = BitVec.ofNat 64 (s.windowWord h none 7) ∧
      t.get .REC_CURSOR_SEQ (instH h 0) = (c + 1) % 2 ^ 32 ∧ t.rcd = s.rcd) ∧
  (∀ (a : Acc) (h : Half) (s : State) (c : Nat), a.sec = true → s.lost h = false → s.flag .REC_CURSOR_PARTNER (instH h 0) = false →
    c = s.get .REC_CURSOR_SEQ (instH h 0) → seqBefore c (s.get .REC_STAT_NEXT (instH h 0)) = false →
    ∃ t, exec (.recWindow7Read a h none) s = .next t ∧ t.cp.busRead = 0 ∧ t.regs = s.regs ∧ t.rcd = s.rcd) ∧
  (∀ (a : Acc) (h : Half) (p : Pol) (s : State) (c : Nat), (a.sec = true ∨ a.pol = p) → s.lost h = false →
    s.flag .RV_STAT_BUSY (instH h p) = false → c = s.get .RV_CURSOR_VSEQ (instH h p) → seqBefore c (s.viewNext h p) = true →
    ∃ t, exec (.recWindow7Read a h (some p)) s = .next t ∧ t.cp.busRead = BitVec.ofNat 64 (s.windowWord h (some p) 7) ∧
      t.get .RV_CURSOR_VSEQ (instH h p) = (c + 1) % 2 ^ 32 ∧ t.rcd = s.rcd) ∧
  (∀ (a : Acc) (h : Half) (p : Pol) (s : State), (a.sec = true ∨ a.pol = p) → s.lost h = false →
    s.flag .RV_STAT_BUSY (instH h p) = true →
    ∃ t, exec (.recWindow7Read a h (some p)) s = .next t ∧ t.cp.busRead = 0 ∧ t.regs = s.regs ∧ t.rcd = s.rcd) ∧
  (∀ (h p : Nat) (s : State) (r : Rec), r ∈ s.viewRecs h p →
    r ∈ (s.rcd.get h).recs ∧ r.pol = p ∧ r.pview = true ∧ r.gen = Tbl.get 0 s.polGen p) ∧
  (∀ (r : Rec) (i : Nat), i < 4 → r.hide.testBit i = true → (viewWords r)[3 + i]? = some 0) ∧
  (∀ (c : Cmd) (s : State) (h : Nat), s.passes (specExport 0) c = true → s.srcSecure c.src = true → bitsOf c.e.p0 0 0 = h →
    ∃ t, exec (.recorderExportKeep c) s = .next t ∧ answered t c 0 (s.rcd.get h).recs.length ∧
      ∃ x ∈ t.exports, x.slot = s.exportSlot ∧ x.half = h ∧ x.ptime = s.now ∧ x.recs = (s.rcd.get h).recs) ∧
  (∀ (c : Cmd) (s : State), s.passes (specExport 0) c = true → s.srcSecure c.src = false →
    ∃ t, exec (.recorderExportKeep c) s = .next t ∧ answered t c 3 0 ∧ t.exports = s.exports) ∧
  (∀ (c : Cmd) (s : State) (h : Nat) (l : List Rec), s.passes (specExport 1) c = true → s.srcSecure c.src = true →
    bitsOf c.e.p0 0 0 = h → l = (s.heldAtAccept c (s.rcd.get h).recs).take (s.bufLen c / 64) →
    ∃ t, exec (.recorderExportBuffer c) s = .next t ∧ answeredOut t c 0 l.length (wordsLe (l.flatMap recWords)) ∧
      t.rcd = s.rcd ∧ t.exports = s.exports) ∧
  (∀ (c : Cmd) (s : State) (h p : Nat) (l : List Rec), s.passes (specExport 1) c = true → s.srcSecure c.src = false →
    bitsOf c.e.p0 0 0 = h → p = c.e.polder → p ≠ 0 → (s.polder p).isSome = true → s.srcBound c.src p = true →
    l = (s.heldAtAccept c (s.viewRecs h p)).take (s.bufLen c / 64) →
    ∃ t, exec (.recorderExportBuffer c) s = .next t ∧ answeredOut t c 0 l.length (wordsLe (l.flatMap viewWords)) ∧
      t.rcd = s.rcd) ∧
  (∀ (h : Half) (s : State), s.flag .REC_DROP_FULL (instH h 0) = true → s.flag .REC_CTL_AUTO_EXPORT (instH h 0) = true →
    s.recLive h = false → s.frozen h = false → s.lost h = false → (s.rcd.get h).staged = [] → (s.rcd.get h).stagedReps = [] →
    s.get .REC_DROP_STAGED (instH h 0) = 0 →
    ∃ t, exec (.recorderAutoExport h) s = .next t ∧ t.frozen h = false ∧ t.flag .REC_DROP_FULL (instH h 0) = false ∧
      (∃ x ∈ t.exports, x.half = h ∧ x.recs = (s.rcd.get h).recs) ∧ (t.rcd.get h).recs.map Rec.code = [0x04, 0x01]) ∧
  (∀ (h : Half) (s : State), (s.flag .REC_DROP_FULL (instH h 0) = false ∨ s.flag .REC_CTL_AUTO_EXPORT (instH h 0) = false) →
    exec (.recorderAutoExport h) s = .next s)

/-- R5, R7, R26, R77, R78, R446, R448 to R452: a sample goes to its buffer, or waits in the tile while a guarded tick is open; a
write of CB_OWN gives a bank its owner and clears its counters; SET_CNT_DUMP writes K, and a dumped tick's records go to the area;
a register access of another size or alignment, or at an unassigned address, has no effect and reads as zero; a tag that may not
reach a register is refused; a read returns the register's word and a write changes its RW fields. -/
def Obligations.SamplesBanksDumpsAndRegisters : Prop :=
  (∀ (g : GCore) (x : SampleInfo) (s : State), (s.core g).smpDue = [] → exec (.sampleTake g x) s = .next s) ∧
  (∀ (g : GCore) (x : SampleInfo) (d : SmpDue) (ds : List SmpDue) (s : State), (s.core g).smpDue = d :: ds → d.held = true →
    s.inGuarded g = true → (s.core g).smpHeld.length < 16 →
    ∃ t, exec (.sampleTake g x) s = .next t ∧ t.mem = s.mem ∧ t.regs = s.regs ∧ (t.core g).smpDue = ds ∧
      (t.core g).smpHeld = (s.core g).smpHeld ++ [(sampleWords d x).map (BitVec.ofNat 64)]) ∧
  (∀ (g : GCore) (x : SampleInfo) (d : SmpDue) (ds : List SmpDue) (s : State), (s.core g).smpDue = d :: ds →
    (d.held = true ∧ s.inGuarded g = true ∧ 16 ≤ (s.core g).smpHeld.length ∨
      (d.held = false ∨ s.inGuarded g = false) ∧ (((s.core g).sysOf 0xC37).toNat % 2 = 1 ∨
        (s.core g).smpSize ≤ ((s.core g).sysOf 0xC36).toNat % 2 ^ 22)) →
    ∃ t, exec (.sampleTake g x) s = .next t ∧ t.mem = s.mem ∧ (t.core g).smpHeld = (s.core g).smpHeld ∧ (t.core g).smpDue = ds ∧
      bitsOf ((t.core g).sysOf 0xC37).toNat 31 16 = min (bitsOf ((s.core g).sysOf 0xC37).toNat 31 16 + 1) 65535) ∧
  (∀ (g : GCore) (x : SampleInfo) (d : SmpDue) (ds : List SmpDue) (s u : State) (b i : Nat), (s.core g).smpDue = d :: ds →
    (d.held = false ∨ s.inGuarded g = false) → ((s.core g).sysOf 0xC37).toNat % 2 = 0 → i < (s.core g).smpSize →
    (s.core g).intEnabled = false → u = s.updCore g (fun c => { c with smpDue := ds }) →
    b = bitsOf ((s.core g).sysOf 0xC35).toNat 51 12 * 4096 → i = ((s.core g).sysOf 0xC36).toNat % 2 ^ 22 →
    u.coreRefused g (b + i * 64) true = none →
    ∃ t, exec (.sampleTake g x) s = .next t ∧ t.mem = (u.writeBytes (b + i * 64) (wordsLe (sampleWords d x))).mem ∧
      ((t.core g).sysOf 0xC36).toNat = i + 1 ∧
      (i + 1 < (s.core g).smpSize → ((t.core g).sysOf 0xC37).getLsbD 0 = false) ∧
      (i + 1 = (s.core g).smpSize → ((t.core g).sysOf 0xC37).getLsbD 0 = true ∧
        (((s.core g).sysOf 0xC34).getLsbD 5 = true → 0x21 ∈ (t.core g).pend))) ∧
  (∀ (a : Acc) (addr : BitVec 52) (v : Word) (s : State) (u b : Nat), bankAt addr.toNat = some (u, b) → u < 12 → a.sec = true →
    s.unitGone addr.toNat = false →
    ∃ t, exec (.cbOwnWrite a addr v) s = .next t ∧ t.flag .CBD_OWN_EN (instD u b) = v.getLsbD 0 ∧
      t.get .CBD_OWN_OWNER (instD u b) = bitsOf v.toNat 5 1 ∧ ∀ i, i < 8 → t.get .CBD_CNT_VALUE (instD u (b * 8 + i)) = 0) ∧
  (∀ (a : Acc) (addr : BitVec 52) (v : Word) (s : State) (h b : Nat), bankAt addr.toNat = some (12 + h, b) → a.sec = true →
    s.unitGone addr.toNat = false →
    ∃ t, exec (.cbOwnWrite a addr v) s = .next t ∧ t.flag .CB_OWN_EN (instH h b) = v.getLsbD 0 ∧
      t.get .CB_OWN_OWNER (instH h b) = bitsOf v.toNat 5 1 ∧ ∀ i, i < 8 → t.get .CB_CNT_VALUE (instH h (b * 8 + i)) = 0) ∧
  (∀ (a : Acc) (addr : BitVec 52) (v : Word) (s : State), bankAt addr.toNat = none → exec (.cbOwnWrite a addr v) s = .next s) ∧
  (∀ (c : Cmd) (s : State) (p : Nat) (v : Polder), s.passes specSetDump c = true → p = bitsOf c.e.p0 15 0 - 0x700 →
    s.polder p = some v → s.srcBound c.src p = true → v.tickBound = true → v.dump.isSome = true → c.e.p1 < 2 ^ 16 →
    ∃ t, exec (.setCntDump c) s = .next t ∧ answered t c 0 (s.get .CNT_DUMP_K p) ∧ t.get .CNT_DUMP_K p = c.e.p1) ∧
  (∀ (c : Cmd) (s : State) (p : Nat) (v : Polder), s.passes specSetDump c = true → p = bitsOf c.e.p0 15 0 - 0x700 →
    s.polder p = some v → s.srcBound c.src p = true → v.tickBound = false → c.e.p1 ≠ 0 →
    ∃ t, exec (.setCntDump c) s = .next t ∧ answered t c 2 0 ∧ t.regs = s.regs) ∧
  (∀ (c : Cmd) (s : State) (p : Nat) (v : Polder), s.passes specSetDump c = true → p = bitsOf c.e.p0 15 0 - 0x700 →
    s.polder p = some v → s.srcBound c.src p = true → (v.tickBound = true ∨ c.e.p1 = 0) → v.dump = none →
    ∃ t, exec (.setCntDump c) s = .next t ∧ answered t c 7 0 ∧ t.regs = s.regs) ∧
  (∀ (c : Cmd) (s : State) (p : Nat), s.passes specSetDump c = true → p = bitsOf c.e.p0 15 0 - 0x700 →
    (s.polder p = none ∨ s.srcBound c.src p = false) →
    ∃ t, exec (.setCntDump c) s = .next t ∧ answered t c 3 0 ∧ t.get .CNT_DUMP_K p = s.get .CNT_DUMP_K p) ∧
  (∀ (p : Pol) (s : State) (v : Polder) (area kib k n f : Nat), s.polder p = some v → v.dump = some (area, kib) →
    k = s.get .CNT_DUMP_K p → n = s.get .TK_NOW_NUM p → f = (s.ctx p).lastFire + s.tkOffset p → k ≠ 0 → n % k = 0 →
    v.tickBound = true → v.everTicked = true → f ≤ s.now → s.now ≤ f + 4 → s.dumpSlots p ≠ 0 → (s.ctx p).dumped = none →
    ∃ t, exec (.counterDump p) s = .next t ∧ (t.ctx p).dumped = some (n, f) ∧
      t.mem = (s.dumpAll p n f (area + n / k % s.dumpSlots p * s.dumpSize p) v).mem ∧
      t.get .CNT_DUMP_SKIPPED p = s.get .CNT_DUMP_SKIPPED p) ∧
  (∀ (p : Pol) (s : State), (s.polder p = none ∨ s.get .CNT_DUMP_K p = 0 ∨
      s.get .TK_NOW_NUM p % s.get .CNT_DUMP_K p ≠ 0 ∨ (s.ctx p).dumped.any (fun x => x.1 == s.get .TK_NOW_NUM p) = true) →
    exec (.counterDump p) s = .next s) ∧
  (∀ (tick l cyc ret fire unit ovf : Nat) (restart vacant : Bool) (cnt sel : List Nat),
    (dumpWords tick l restart vacant cyc ret cnt sel fire unit ovf).length = 16 ∧
      (dumpWords tick l restart vacant cyc ret cnt sel fire unit ovf).getD 15 0 =
        markOf ((dumpWords tick l restart vacant cyc ret cnt sel fire unit ovf).getD 0 0)) ∧
  (∀ (a : Acc) (addr : BitVec 52) (sz : Fin 4) (v : Word) (s : State) (r : Reg) (i : Nat),
    s.ctlTarget (addr.toNat / 8 * 8) = .reg r i → a.sec = true → s.unitGone addr.toNat = false →
    (sz ≠ 3 ∨ addr.toNat % 8 ≠ 0) →
    exec (.registerWrite a true addr sz v) s = .next s ∧
      ∃ t, exec (.registerWrite a false addr sz v) s = .next t ∧ t.cp.busRead = 0 ∧ t.regs = s.regs) ∧
  (∀ (a : Acc) (addr : BitVec 52) (sz : Fin 4) (v : Word) (s : State),
    s.ctlTarget (addr.toNat / 8 * 8) = .unassigned → a.sec = true → s.unitGone addr.toNat = false →
    exec (.registerWrite a true addr sz v) s = .next s ∧
      ∃ t, exec (.registerWrite a false addr sz v) s = .next t ∧ t.cp.busRead = 0 ∧ t.regs = s.regs) ∧
  (∀ (a : Acc) (w : Bool) (addr : BitVec 52) (sz : Fin 4) (v : Word) (s : State), a.sec = false →
    s.reaches a.pol w (s.ctlTarget (addr.toNat / 8 * 8)) = false →
    ∃ t, exec (.registerWrite a w addr sz v) s = .next t ∧ t.mem = s.mem ∧ t.cores = s.cores ∧ t.pols = s.pols ∧
      (w = false → t.cp.busRead = 0)) ∧
  (∀ (a : Acc) (addr : BitVec 52) (v : Word) (s : State) (r : Reg) (i : Nat), s.ctlTarget addr.toNat = .reg r i →
    addr.toNat % 8 = 0 → a.sec = true → s.unitGone addr.toNat = false → r ≠ .REC_WINDOW → r ≠ .RV_WINDOW →
    ∃ t, exec (.registerWrite a false addr 3 v) s = .next t ∧ t.cp.busRead = BitVec.ofNat 64 (s.word r i) ∧
      (∀ f j, f.desc.ty ≠ .rc → t.get f j = s.get f j) ∧ ∀ f ∈ r.fields, f.desc.ty = .rc → t.get f i = 0) ∧
  (∀ (a : Acc) (addr : BitVec 52) (v : Word) (s : State) (i : Nat), s.ctlTarget addr.toNat = .reg .DPM_CTL i →
    addr.toNat % 8 = 0 → a.sec = true → s.unitGone addr.toNat = false →
    ∃ t, exec (.registerWrite a true addr 3 v) s = .next t ∧ t.get .DPM_CTL_C2_IDLE i = bitsOf v.toNat Fld.DPM_CTL_C2_IDLE.desc.hi
        Fld.DPM_CTL_C2_IDLE.desc.lo ∧
      ∀ f j, f ∉ Reg.DPM_CTL.fields → t.get f j = s.get f j)

/-- R35, R37: a command that acts on nothing in memory changes no byte of memory but those of its own buffer, none at all where
its source is not a mailbox, and no register of any core. -/
def Obligations.CommandsWriteOnlyTheirBuffers : Prop :=
  (∀ c s t, exec (.queueCreate c) s = .next t → BufferOnly c s t) ∧
  (∀ c s t, exec (.queueDelete c) s = .next t → BufferOnly c s t) ∧
  (∀ c s t, exec (.setWrrWeights c) s = .next t → BufferOnly c s t) ∧
  (∀ c s t, exec (.fwDownload c) s = .next t → BufferOnly c s t) ∧
  (∀ c s t, exec (.fwCommitStage c) s = .next t → BufferOnly c s t) ∧
  (∀ c s t, exec (.fwCommitNextReset c) s = .next t → BufferOnly c s t) ∧
  (∀ c s t, exec (.fwCommitLive c) s = .next t → BufferOnly c s t) ∧
  (∀ c s t, exec (.configWrite c) s = .next t → BufferOnly c s t) ∧
  (∀ c s t, exec (.configRead c) s = .next t → BufferOnly c s t) ∧
  (∀ c s t, exec (.jnsCreate c) s = .next t → BufferOnly c s t) ∧
  (∀ c s t, exec (.jnsDelete c) s = .next t → BufferOnly c s t) ∧
  (∀ c s t, exec (.journalWrite c) s = .next t → BufferOnly c s t) ∧
  (∀ c s t, exec (.journalRead c) s = .next t → BufferOnly c s t) ∧
  (∀ c s t, exec (.tickConfigure c) s = .next t → BufferOnly c s t) ∧
  (∀ c s t, exec (.triggerProgram c) s = .next t → BufferOnly c s t) ∧
  (∀ c s t, exec (.triggerArm c) s = .next t → BufferOnly c s t) ∧
  (∀ c s t, exec (.triggerDisarm c) s = .next t → BufferOnly c s t) ∧
  (∀ c s t, exec (.setTrigCfg c) s = .next t → BufferOnly c s t) ∧
  (∀ c s t, exec (.setGdCtl c) s = .next t → BufferOnly c s t) ∧
  (∀ c s t, exec (.headBind c) s = .next t → BufferOnly c s t) ∧
  (∀ c s t, exec (.headUnbind c) s = .next t → BufferOnly c s t) ∧
  (∀ c s t, exec (.setHpCfg c) s = .next t → BufferOnly c s t) ∧
  (∀ c s t, exec (.cascadeJoin c) s = .next t → BufferOnly c s t) ∧
  (∀ c s t, exec (.setCsTbind c) s = .next t → BufferOnly c s t) ∧
  (∀ c s t, exec (.setRelay c) s = .next t → BufferOnly c s t) ∧
  (∀ c s t, exec (.setSendRing c) s = .next t → BufferOnly c s t) ∧
  (∀ c s t, exec (.windowCommit c) s = .next t → BufferOnly c s t) ∧
  (∀ c s t, exec (.recorderFreeze c) s = .next t → BufferOnly c s t) ∧
  (∀ c s t, exec (.recorderUnfreeze c) s = .next t → BufferOnly c s t) ∧
  (∀ c s t, exec (.recorderExportKeep c) s = .next t → BufferOnly c s t) ∧
  (∀ c s t, exec (.recorderExportBuffer c) s = .next t → BufferOnly c s t) ∧
  (∀ c s t, exec (.setCntDump c) s = .next t → BufferOnly c s t) ∧
  (∀ c s t, exec (.statusRead c) s = .next t → BufferOnly c s t) ∧
  (∀ c s t, exec (.identify c) s = .next t → BufferOnly c s t) ∧
  (∀ c s t, exec (.getLog c) s = .next t → BufferOnly c s t) ∧
  (∀ c s t, exec (.getFeature c) s = .next t → BufferOnly c s t) ∧
  (∀ c s t, exec (.tickQuery c) s = .next t → BufferOnly c s t) ∧
  (∀ c s t, exec (.ptimeQuery c) s = .next t → BufferOnly c s t) ∧
  (∀ c s t, exec (.headPresence c) s = .next t → BufferOnly c s t)

/-- R147, R180, R190: an instruction of a core that names no memory changes no other core and of its own core no general or vector
register but its destination, and no line of its L2; the accesses of a wrong path change no register; a load or a store of Normal
memory that its own core can serve leaves every part of the state but its own core as it was, and so every byte of memory. -/
def Obligations.CoreInstructionsTouchTheirOwnCore : Prop :=
  (∀ (g : GCore) kind imm s t, exec (.supervisorCall g kind imm) s = .next t → OwnCore g s t ∧ (t.core g).gpr = (s.core g).gpr) ∧
  (∀ (g : GCore) imm s t, exec (.hypervisorCall g imm) s = .next t → OwnCore g s t ∧ (t.core g).gpr = (s.core g).gpr) ∧
  (∀ (g : GCore) imm s t, exec (.monitorCall g imm) s = .next t → OwnCore g s t ∧ (t.core g).gpr = (s.core g).gpr) ∧
  (∀ (g : GCore) s t, exec (.exceptionReturn g) s = .next t → OwnCore g s t ∧ (t.core g).gpr = (s.core g).gpr) ∧
  (∀ (g : GCore) s t, exec (.k64Halt g) s = .next t → OwnCore g s t ∧ (t.core g).gpr = (s.core g).gpr) ∧
  (∀ (g : GCore) rs s t, exec (.ctxkeyWrite g rs) s = .next t → OwnCore g s t ∧ (t.core g).gpr = (s.core g).gpr) ∧
  (∀ (g : GCore) rs s t, exec (.ctxrndDraw g rs) s = .next t → OwnCore g s t ∧ (t.core g).gpr = (s.core g).gpr) ∧
  (∀ (g : GCore) w s t, exec (.wrpkr g w) s = .next t → OwnCore g s t ∧ (t.core g).gpr = (s.core g).gpr) ∧
  (∀ (g : GCore) n rs s t, exec (.mtsr g n rs) s = .next t → OwnCore g s t ∧ (t.core g).gpr = (s.core g).gpr) ∧
  (∀ (g : GCore) rs s t, exec (.cntClr g rs) s = .next t → OwnCore g s t ∧ (t.core g).gpr = (s.core g).gpr) ∧
  (∀ (g : GCore) ahead taken target s t, exec (.branchMispredict g ahead taken target []) s = .next t → OwnCore g s t ∧ (t.core g).gpr = (s.core g).gpr) ∧
  (∀ (g : GCore) up s t, exec (.coreFrequencyStep g up) s = .next t → OwnCore g s t ∧ (t.core g).gpr = (s.core g).gpr) ∧
  (∀ (g : GCore) n rs s t, exec (.translationRegWrite g n rs) s = .next t → OwnCore g s t ∧ (t.core g).gpr = (s.core g).gpr) ∧
  (∀ (g : GCore) w s t, exec (.tlbsync g w) s = .next t → OwnCore g s t ∧ (t.core g).gpr = (s.core g).gpr) ∧
  (∀ (g : GCore) w s t, exec (.fenceMb g w) s = .next t → OwnCore g s t ∧ (t.core g).gpr = (s.core g).gpr) ∧
  (∀ (g : GCore) w s t, exec (.fenceDev g w) s = .next t → OwnCore g s t ∧ (t.core g).gpr = (s.core g).gpr) ∧
  (∀ (g : GCore) w s t, exec (.fencePlc g w) s = .next t → OwnCore g s t ∧ (t.core g).gpr = (s.core g).gpr) ∧
  (∀ (g : GCore) w s t, exec (.fenceI g w) s = .next t → OwnCore g s t ∧ (t.core g).gpr = (s.core g).gpr) ∧
  (∀ (g : GCore) la s t, exec (.mbEntryTimeout g la) s = .next t → OwnCore g s t ∧ (t.core g).gpr = (s.core g).gpr) ∧
  (∀ (g : GCore) s t, exec (.phaseBComplete g) s = .next t → OwnCore g s t ∧ (t.core g).gpr = (s.core g).gpr) ∧
  (∀ (g : GCore) s t, exec (.c2IdleExpired g) s = .next t → OwnCore g s t ∧ (t.core g).gpr = (s.core g).gpr) ∧
  (∀ (g : GCore) s t, exec (.deviceReadTimeout g) s = .next t → OwnCore g s t ∧ (t.core g).gpr = (s.core g).gpr) ∧
  (∀ (g : GCore) (rd : Fin 32) n s t, exec (.mfsr g rd n) s = .next t → OwnCore g s t ∧
    ∀ r, r ≠ rd.val → (t.core g).gprOf r = (s.core g).gprOf r) ∧
  (∀ (g : GCore) w s t, exec (.rdpkr g w) s = .next t → OwnCore g s t ∧
    ∀ r, r ≠ wordRd w → (t.core g).gprOf r = (s.core g).gprOf r) ∧
  (∀ (g : GCore) w s t, exec (.wlquery g w) s = .next t → OwnCore g s t ∧
    ∀ r, r ≠ wordRd w → (t.core g).gprOf r = (s.core g).gprOf r) ∧
  (∀ (g : GCore) ahead taken target wrong s t, exec (.branchMispredict g ahead taken target wrong) s = .next t →
    (∀ k, k ≠ g.val → (t.core k).gpr = (s.core k).gpr ∧ (t.core k).pc = (s.core k).pc) ∧ (t.core g).gpr = (s.core g).gpr ∧
      (t.core g).vr = (s.core g).vr) ∧
  (∀ (g : GCore) (rd : Fin 32) (va : Word) (size : Fin 7) (pa : Nat) (s t : State), s.translate g va.toNat .load = .ok s pa false →
    s.deviceType pa false = false → pa % 64 + 2 ^ size.val ≤ 64 → s.coreRefused g pa false = none → (s.core g).mbLost = [] →
    (mbCovers (s.core g).mb (pa / 64) (pa % 64) (2 ^ size.val) = true ∨ ∃ l, s.l2 g (pa / 64) = some l ∧ l.poison = false) →
    exec (.load g .data rd va size .none) s = .next t →
    (∀ p : Part, p ≠ .cores → p ≠ .free → p.same s t) ∧ (∀ k, k ≠ g.val → t.core k = s.core k) ∧
      (∀ r, r ≠ rd.val → (t.core g).gprOf r = (s.core g).gprOf r ∧ (t.core g).vrOf r = (s.core g).vrOf r) ∧
      (size ≤ 3 → (t.core g).vr = (s.core g).vr) ∧ (3 < size → (t.core g).gpr = (s.core g).gpr) ∧
      (t.core g).l2 = (s.core g).l2) ∧
  (∀ (g : GCore) (va : Word) (size : Fin 7) (rs : Fin 32) (ordered : Bool) (pa : Nat) (s t : State),
    s.translate g va.toNat .store = .ok s pa false → (s.closeMb g).translate g va.toNat .store = .ok (s.closeMb g) pa false →
    s.deviceType pa false = false → pa % 64 + 2 ^ size.val ≤ 64 → exec (.store g va size rs ordered) s = .next t →
    (∀ p : Part, p ≠ .cores → p ≠ .free → p.same s t) ∧ OwnCore g s t ∧ (t.core g).gpr = (s.core g).gpr)

/-- R28 to R67, R446 to R462: what the commands of the queues, the keep store, the queries, the polders, the counters and the
recorder leave unchanged: every part of the state and every register field not named here. -/
def Obligations.FramesOfTheCommandPlane : Prop :=
  (∀ (src : Source) (q : Fin 64) (v : Word) (s t : State), exec (.sqDb src q v) s = .next t → Changes [.regs, .cp]
    [.QRB_STAT_DB_ERR, .SQ_DB_VALUE] s t) ∧
  (∀ (src : Source) (q : Fin 64) (v : Word) (s t : State), exec (.cqDb src q v) s = .next t → Changes [.regs, .cp, .pe, .out]
    [.QRB_STAT_DB_ERR, .CQ_DB_VALUE] s t) ∧
  (∀ (src : Source) (s t : State), exec (.qrbEnable src) s = .next t → Changes [.regs, .cp] [.QRB_CTL_EN, .QRB_STAT_RDY] s t) ∧
  (∀ (src : Source) (s t : State), exec (.qrbDisable src) s = .next t → Changes [.regs, .cp] [.QRB_CTL_EN, .QRB_STAT_RDY] s t) ∧
  (∀ (e : Entry) (list : List (Word × Word)) (data : List Byte) (s t : State), exec (.commandFetch e list data) s = .next t →
    Changes (cmdWith [.cas]) cmdFlds s t) ∧
  (∀ (e : Entry) (s t : State), exec (.sidebandRequest e) s = .next t → Changes [.cp] [] s t) ∧
  (∀ (src : Source) (cq : Fin 64) (s t : State), exec (.completionPost src cq) s = .next t → Changes (cmdWith [.cas]) (cmdAnd
    [.QRB_STAT_RDY]) s t) ∧
  (∀ (arrives : Bool) (s t : State), exec (.hcHeartbeat arrives) s = .next t → Changes cmdParts (cmdAnd [.CP_ROLE_ACTIVE,
    .CP_ROLE_STANDBY_READY, .CP_ROLE_LAST_CAUSE, .CP_ROLE_TAKEOVERS, .QRB_STAT_TAKEOVER, .QRB_STAT_FATAL]) s t) ∧
  (∀ (s t : State), exec .controllerTakeover s = .next t → Changes cmdParts (cmdAnd [.CP_ROLE_ACTIVE, .CP_ROLE_STANDBY_READY,
    .CP_ROLE_LAST_CAUSE, .CP_ROLE_TAKEOVERS, .QRB_STAT_TAKEOVER, .QRB_STAT_FATAL]) s t) ∧
  (∀ (imageGood : Bool) (s t : State), exec (.standbyRejoin imageGood) s = .next t → Changes cmdParts (cmdAnd [.CP_ROLE_ACTIVE,
    .CP_ROLE_STANDBY_READY, .CP_ROLE_LAST_CAUSE, .CP_ROLE_TAKEOVERS, .QRB_STAT_TAKEOVER, .QRB_STAT_FATAL]) s t) ∧
  (∀ (c : Cmd) (s t : State), exec (.queueCreate c) s = .next t → Changes cmdParts cmdFlds s t) ∧
  (∀ (c : Cmd) (s t : State), exec (.queueDelete c) s = .next t → Changes cmdParts cmdFlds s t) ∧
  (∀ (c : Cmd) (s t : State), exec (.setWrrWeights c) s = .next t → Changes cmdParts cmdFlds s t) ∧
  (∀ (c : Cmd) (s t : State), exec (.fwDownload c) s = .next t → Changes cmdParts cmdFlds s t) ∧
  (∀ (c : Cmd) (s t : State), exec (.fwCommitStage c) s = .next t → Changes cmdParts cmdFlds s t) ∧
  (∀ (c : Cmd) (s t : State), exec (.fwCommitNextReset c) s = .next t → Changes cmdParts cmdFlds s t) ∧
  (∀ (c : Cmd) (s t : State), exec (.fwCommitLive c) s = .next t → Changes cmdParts cmdFlds s t) ∧
  (∀ (c : Cmd) (s t : State), exec (.configWrite c) s = .next t → Changes cmdParts cmdFlds s t) ∧
  (∀ (c : Cmd) (s t : State), exec (.configRead c) s = .next t → Changes cmdParts cmdFlds s t) ∧
  (∀ (c : Cmd) (s t : State), exec (.jnsCreate c) s = .next t → Changes cmdParts cmdFlds s t) ∧
  (∀ (c : Cmd) (s t : State), exec (.jnsDelete c) s = .next t → Changes cmdParts cmdFlds s t) ∧
  (∀ (c : Cmd) (s t : State), exec (.journalWrite c) s = .next t → Changes cmdParts cmdFlds s t) ∧
  (∀ (c : Cmd) (s t : State), exec (.journalRead c) s = .next t → Changes cmdParts cmdFlds s t) ∧
  (∀ (a : Acc) (h : Half) (v : Word) (s t : State), exec (.rgnCommit a h v) s = .next t → Changes logParts (refuseAnd
    [.RGN_LO_VALID, .RGN_LO_WORLD, .RGN_LO_TYPE, .RGN_LO_IDEMP, .RGN_LO_BASE, .RGN_HI_LIMIT, .RGN_RD_MASK, .RGN_WR_MASK]) s t) ∧
  (∀ (c : Cmd) (s t : State), exec (.polderCreate c) s = .next t → ChangesParts (cmdWith [.pols, .polGen, .te, .links, .free]) s
    t) ∧
  (∀ (c : Cmd) (s t : State), exec (.polderAttach c) s = .next t → Changes (cmdWith [.pols, .links, .free]) (cmdAnd [.RGN_RD_MASK,
    .RGN_WR_MASK, .GD_STAT_VACANT, .LK_STAT_STATE, .LKC_STAT_STATE, .PV_VOTE_VOTES]) s t) ∧
  (∀ (c : Cmd) (s t : State), exec (.polderDetach c) s = .next t → Changes (cmdWith [.pols, .te]) (cmdAnd [.RGN_RD_MASK,
    .RGN_WR_MASK, .TRIG_STAT_ARMED, .TRIG_STAT_DEPTH]) s t) ∧
  (∀ (c : Cmd) (s t : State), exec (.polderDelete c) s = .next t → ChangesParts (cmdWith [.pols, .te, .ing, .cas]) s t) ∧
  (∀ (g : GCore) (s t : State), exec (.coreDetachAtRest g) s = .next t → ChangesParts (cmdWith [.pols, .te, .ing, .cas]) s t) ∧
  (∀ (c : Cmd) (s t : State), exec (.setEntryPoint c) s = .next t → Changes (cmdWith [.pols, .free]) cmdFlds s t) ∧
  (∀ (a : Acc) (h : Half) (v : Word) (s t : State), exec (.recFreeze a h v) s = .next t → Changes logParts (refuseAnd
    [.REC_CTL_FREEZE, .REC_CTL_MODE, .REC_CTL_AUTO_EXPORT, .REC_CTL_FREEZE_MAX, .REC_DROP_FROZEN]) s t) ∧
  (∀ (a : Acc) (h : Half) (v : Word) (s t : State), exec (.recClear a h v) s = .next t → Changes logParts (refuseAnd
    [.REC_CTL_FREEZE, .REC_CTL_MODE, .REC_CTL_AUTO_EXPORT, .REC_CTL_FREEZE_MAX, .REC_DROP_FROZEN]) s t) ∧
  (∀ (a : Acc) (h : Half) (v : Word) (s t : State), exec (.recMode a h v) s = .next t → Changes logParts (refuseAnd
    [.REC_CTL_FREEZE, .REC_CTL_MODE, .REC_CTL_AUTO_EXPORT, .REC_CTL_FREEZE_MAX, .REC_DROP_FROZEN]) s t) ∧
  (∀ (h : Half) (s t : State), exec (.freezeLapse h) s = .next t → Changes [.regs, .rcd] [.REC_CTL_FREEZE, .REC_STAT_NEXT,
    .REC_STAT_OLDEST, .REC_DROP_DROPPED, .REC_DROP_STAGED, .REC_DROP_FULL, .REC_DROP_FROZEN, .RV_STAT_NEXT, .RV_STAT_DROPPED] s
    t) ∧
  (∀ (h : Half) (ev : Event) (s t : State), exec (.recorderRecord h ev) s = .next t → Changes logParts logFlds s t) ∧
  (∀ (a : Acc) (h : Half) (p : Pol) (v : Word) (s t : State), exec (.rvFreeze a h p v) s = .next t → Changes logParts (refuseAnd
    [.RV_CTL_FREEZE]) s t) ∧
  (∀ (a : Acc) (h : Half) (view : Option Pol) (v : Word) (s t : State), exec (.recCursor a h view v) s = .next t → Changes
    logParts (refuseAnd [.REC_CURSOR_SEQ, .REC_CURSOR_PARTNER, .RV_STAT_BUSY, .RV_CURSOR_VSEQ]) s t) ∧
  (∀ (h : Half) (p : Pol) (s t : State), exec (.viewSeekDone h p) s = .next t → Changes [.regs] [.RV_STAT_BUSY, .RV_CURSOR_VSEQ] s
    t) ∧
  (∀ (a : Acc) (h : Half) (view : Option Pol) (s t : State), exec (.recWindow7Read a h view) s = .next t → Changes logParts
    (refuseAnd [.REC_CURSOR_SEQ, .RV_CURSOR_VSEQ]) s t) ∧
  (∀ (c : Cmd) (s t : State), exec (.recorderFreeze c) s = .next t → Changes cmdParts (cmdAnd [.REC_CTL_FREEZE, .REC_DROP_FROZEN,
    .RV_CTL_FREEZE]) s t) ∧
  (∀ (c : Cmd) (s t : State), exec (.recorderUnfreeze c) s = .next t → Changes cmdParts (cmdAnd [.REC_CTL_FREEZE,
    .REC_DROP_FROZEN, .RV_CTL_FREEZE]) s t) ∧
  (∀ (c : Cmd) (s t : State), exec (.recorderExportKeep c) s = .next t → Changes (cmdWith [.exports]) cmdFlds s t) ∧
  (∀ (c : Cmd) (s t : State), exec (.recorderExportBuffer c) s = .next t → Changes cmdParts cmdFlds s t) ∧
  (∀ (h : Half) (s t : State), exec (.recorderAutoExport h) s = .next t → Changes [.regs, .rcd, .exports] [.REC_CTL_FREEZE,
    .REC_STAT_NEXT, .REC_STAT_OLDEST, .REC_DROP_DROPPED, .REC_DROP_STAGED, .REC_DROP_FULL, .REC_DROP_FROZEN, .RV_STAT_NEXT,
    .RV_STAT_DROPPED] s t) ∧
  (∀ (g : GCore) (smp : SampleInfo) (s t : State), exec (.sampleTake g smp) s = .next t → Changes (logWith [.mem, .poison, .hub,
    .cores, .dies, .fabric, .dir]) cmdFlds s t) ∧
  (∀ (a : Acc) (addr : BitVec 52) (v : Word) (s t : State), exec (.cbOwnWrite a addr v) s = .next t → Changes logParts (refuseAnd
    [.CB_OWN_EN, .CB_OWN_OWNER, .CB_CNT_VALUE, .CBD_OWN_EN, .CBD_OWN_OWNER, .CBD_CNT_VALUE]) s t) ∧
  (∀ (p : Pol) (s t : State), exec (.counterDump p) s = .next t → Changes (logWith [.mem, .poison, .hub, .te, .cores, .dies,
    .fabric, .dir, .free]) (cmdAnd [.CNT_DUMP_SKIPPED]) s t) ∧
  (∀ (c : Cmd) (s t : State), exec (.setCntDump c) s = .next t → Changes cmdParts (cmdAnd [.CNT_DUMP_K]) s t) ∧
  (∀ (c : Cmd) (s t : State), exec (.statusRead c) s = .next t → Changes cmdParts cmdFlds s t) ∧
  (∀ (c : Cmd) (s t : State), exec (.identify c) s = .next t → Changes cmdParts cmdFlds s t) ∧
  (∀ (c : Cmd) (s t : State), exec (.getLog c) s = .next t → Changes (cmdWith [.free]) cmdFlds s t) ∧
  (∀ (c : Cmd) (s t : State), exec (.getFeature c) s = .next t → Changes (cmdWith [.free]) cmdFlds s t) ∧
  (∀ (c : Cmd) (s t : State), exec (.tickQuery c) s = .next t → Changes cmdParts cmdFlds s t) ∧
  (∀ (c : Cmd) (s t : State), exec (.ptimeQuery c) s = .next t → Changes cmdParts cmdFlds s t) ∧
  (∀ (c : Cmd) (s t : State), exec (.headPresence c) s = .next t → Changes cmdParts cmdFlds s t)

/-- R80 to R227: what the commands of the tick, of guarded ticks, of the cores, of the caches and of translation leave
unchanged. (A Device access may reach any register of control space, so STORE, ATOMIC and DEFERRED_DRAIN have no such frame.) -/
def Obligations.FramesOfTicksAndCores : Prop :=
  (∀ (a : Acc) (h : Half) (v : Word) (s t : State), exec (.ptStep a h v) s = .next t → Changes logParts (refuseAnd [.PT_NOW_TIME,
    .PT_STAT_STEP_REFUSED]) s t) ∧
  (∀ (a : Acc) (h : Half) (v : Word) (s t : State), exec (.ptPhase a h v) s = .next t → Changes (logWith [.te]) (refuseAnd
    [.PT_STAT_SLEWING]) s t) ∧
  (∀ (s t : State), exec .phaseRemainderAbsorbed s = .next t → Changes [.regs] [.PT_STAT_SLEWING, .CS_STAT_CONVERGING] s t) ∧
  (∀ (h : Half) (s t : State), exec (.ppsEdge h) s = .next t → Changes [.regs] [.PT_PPS_STAMP] s t) ∧
  (∀ (lost : Bool) (s t : State), exec (.ptimeSourceLost lost) s = .next t → Changes logParts (logAnd [.PT_STAT_SRC_OK,
    .PT_STAT_HOLDOVER]) s t) ∧
  (∀ (d : Die) (s t : State), exec (.ptimeAlign d) s = .next t → Changes [.te] [] s t) ∧
  (∀ (a : Acc) (h : Half) (p : Pol) (s t : State), exec (.hostTick a h p) s = .next t → Changes (cmdWith [.pols, .te]) (cmdAnd
    [.ENC_STAT_PAIR_FAULT, .TE_STAT_ROLE_CHANGES, .TE_STAT_MISMATCH, .TK_CFG_WORD, .TK_CTL_PREF, .TK_NOW_NUM, .TK_NOW_STATE,
    .TK_EDGE_PTIME, .TK_EVT_EARLY]) s t) ∧
  (∀ (p : Pol) (s t : State), exec (.tickConfigTakeEffect p) s = .next t → Changes (cmdWith [.te]) (logAnd [.TK_CFG_WORD,
    .TK_NOW_STATE, .L2_CNT_LOCK_LOST, .CB_CNT_VALUE, .CBD_CNT_VALUE]) s t) ∧
  (∀ (p : Pol) (s t : State), exec (.encoderStallTimeout p) s = .next t → Changes (logWith [.te]) (logAnd [.TK_NOW_STATE]) s t) ∧
  (∀ (a : Acc) (h : Half) (p : Pol) (s t : State), exec (.tickResume a h p) s = .next t → Changes (logWith [.te]) refuseFlds s t) ∧
  (∀ (e : Fin 16) (a b z : Bool) (held : Nat) (s t : State), exec (.encoderCount e a b z held) s = .next t → Changes (logWith
    [.te, .cores]) (logAnd [.ENC_POS_POS, .ENC_STAT_ILLEGAL, .ENC_STAT_LOS, .ENC_STAT_ZERR, .ENC_STAT_OVERSPEED,
    .ENC_STAT_FAILED, .ENC_STAT_ILLEGAL_CNT, .TK_NOW_STATE]) s t) ∧
  (∀ (e : Fin 16) (cause : EncFault) (s t : State), exec (.encoderInputFail e cause) s = .next t → Changes (logWith [.te, .cores])
    (logAnd [.ENC_STAT_ILLEGAL, .ENC_STAT_LOS, .ENC_STAT_ZERR, .ENC_STAT_OVERSPEED, .ENC_STAT_FAILED, .ENC_STAT_ILLEGAL_CNT,
    .TK_NOW_STATE]) s t) ∧
  (∀ (a : Acc) (e : Fin 16) (v : Word) (s t : State), exec (.encCfgWrite a e v) s = .next t → Changes (logWith [.te, .cores])
    (refuseAnd [.ENC_CFG_EN, .ENC_CFG_MODE, .ENC_CFG_ZCHK, .ENC_CFG_FILT, .ENC_CFG_TOL, .ENC_CFG_ZPERIOD, .ENC_STAT_FAILED,
    .TK_NOW_STATE]) s t) ∧
  (∀ (p : Pol) (cause : TakeoverCause) (s t : State), exec (.engineTakeover p cause) s = .next t → Changes [.te] [] s t) ∧
  (∀ (d : Die) (p : Pol) (te : Half) (s t : State), exec (.tickMessage d p te) s = .next t → Changes (logWith [.te, .cores])
    (logAnd [.TK_EVT_SKIP, .GD_STAT_RECOVERING, .GD_CNT1_CATCHUP_FAIL]) s t) ∧
  (∀ (d : Die) (p : Pol) (s t : State), exec (.tickBackupCopy d p) s = .next t → Changes (logWith [.te, .cores]) (logAnd
    [.TE_STAT_BACKUP, .TK_EVT_SKIP, .GD_STAT_RECOVERING, .GD_CNT1_CATCHUP_FAIL]) s t) ∧
  (∀ (c : Cmd) (s t : State), exec (.tickConfigure c) s = .next t → Changes (cmdWith [.te]) cmdFlds s t) ∧
  (∀ (c : Cmd) (s t : State), exec (.triggerProgram c) s = .next t → Changes (cmdWith [.te]) (cmdAnd [.TRIG_STAT_DEPTH,
    .TRIG_CNT_LATE_DROP, .TRIG_CNT_LATE_FIRED, .TRIG_CNT_OVF]) s t) ∧
  (∀ (x : Fin 32) (s t : State), exec (.triggerFire x) s = .next t → Changes [.regs, .te, .out] [.TRIG_STAT_DEPTH,
    .TRIG_CNT_FIRED, .TRIG_CNT_DISARM_DROP] s t) ∧
  (∀ (c : Cmd) (s t : State), exec (.triggerArm c) s = .next t → Changes (cmdWith [.te]) (cmdAnd [.TRIG_STAT_ARMED,
    .TRIG_STAT_DEPTH, .TRIG_CNT_FIRED, .TRIG_CNT_DISARM_DROP]) s t) ∧
  (∀ (c : Cmd) (s t : State), exec (.triggerDisarm c) s = .next t → Changes (cmdWith [.te]) (cmdAnd [.TRIG_STAT_ARMED,
    .TRIG_STAT_DEPTH, .TRIG_CNT_FIRED, .TRIG_CNT_DISARM_DROP]) s t) ∧
  (∀ (c : Cmd) (s t : State), exec (.setTrigCfg c) s = .next t → Changes cmdParts (cmdAnd [.TRIG_CFG_POL, .TRIG_CFG_LATE,
    .TRIG_CFG_WIDTH]) s t) ∧
  (∀ (s t : State), exec .slackOpen s = .next t → Changes [.te] [] s t) ∧
  (∀ (s t : State), exec .slackClose s = .next t → Changes [.te] [] s t) ∧
  (∀ (s t : State), exec .slackClosePtime s = .next t → Changes [.te] [] s t) ∧
  (∀ (p : Pol) (l : Byte) (id : BitVec 16) (s t : State), exec (.interrupt p l id) s = .next t → Changes [.cores] [] s t) ∧
  (∀ (g : GCore) (kind : CallKind) (imm : BitVec 16) (s t : State), exec (.supervisorCall g kind imm) s = .next t → Changes
    [.cores] [] s t) ∧
  (∀ (g : GCore) (imm : BitVec 16) (s t : State), exec (.hypervisorCall g imm) s = .next t → Changes [.cores] [] s t) ∧
  (∀ (g : GCore) (imm : BitVec 16) (s t : State), exec (.monitorCall g imm) s = .next t → Changes [.cores, .free] [] s t) ∧
  (∀ (g : GCore) (s t : State), exec (.exceptionReturn g) s = .next t → Changes [.cores, .free] [] s t) ∧
  (∀ (g : GCore) (s t : State), exec (.k64Halt g) s = .next t → Changes [.cores, .free] [] s t) ∧
  (∀ (g : GCore) (s t : State), exec (.deviceReadTimeout g) s = .next t → Changes [.cores] [] s t) ∧
  (∀ (g : GCore) (rd : Fin 32) (n : BitVec 12) (s t : State), exec (.mfsr g rd n) s = .next t → Changes [.cores, .free] [] s t) ∧
  (∀ (g : GCore) (n : BitVec 12) (rs : Fin 32) (s t : State), exec (.mtsr g n rs) s = .next t → Changes [.te, .cores, .free] [] s
    t) ∧
  (∀ (g : GCore) (rs : Fin 32) (s t : State), exec (.ctxkeyWrite g rs) s = .next t → Changes [.cores, .free] [] s t) ∧
  (∀ (g : GCore) (rs : Fin 32) (s t : State), exec (.ctxrndDraw g rs) s = .next t → Changes [.cores, .free] [] s t) ∧
  (∀ (g : GCore) (w : BitVec 32) (s t : State), exec (.rdpkr g w) s = .next t → Changes [.cores, .free] [] s t) ∧
  (∀ (g : GCore) (w : BitVec 32) (s t : State), exec (.wrpkr g w) s = .next t → Changes [.cores, .free] [] s t) ∧
  (∀ (g : GCore) (rs : Fin 32) (s t : State), exec (.cntClr g rs) s = .next t → Changes [.te, .cores, .free] [] s t) ∧
  (∀ (g : GCore) (up : Bool) (s t : State), exec (.coreFrequencyStep g up) s = .next t → Changes [.cores] [] s t) ∧
  (∀ (a : Acc) (g : GCore) (v : Word) (s t : State), exec (.l2Disable a g v) s = .next t → Changes logParts (refuseAnd
    [.L2_CTL_EN, .L2_CTL_PF, .L2_STAT_EN_STATUS, .L2_STAT_SWEEP, .L2_STAT_REFUSED]) s t) ∧
  (∀ (g : GCore) (s t : State), exec (.l2SweepDone g) s = .next t → Changes [.regs, .cores, .dies, .fabric] [.L2_STAT_EN_STATUS,
    .L2_STAT_SWEEP, .L2_STAT_LOCKED, .L2_CNT_LOCK_LOST, .CB_CNT_VALUE, .CBD_CNT_VALUE] s t) ∧
  (∀ (a : Acc) (d : Die) (v : Word) (s t : State), exec (.dcDisable a d v) s = .next t → Changes logParts (refuseAnd [.DC_CTL_EN,
    .DC_CTL_ECC_THRESH, .DC_CTL_ECC_WINDOW, .DC_STAT_EN_STATUS, .DC_STAT_SWEEP, .DC_STAT_REFUSED]) s t) ∧
  (∀ (d : Die) (s t : State), exec (.dcSweepDone d) s = .next t → Changes [.regs, .cores, .dies, .fabric] [.L2_CNT_LOCK_LOST,
    .DC_STAT_EN_STATUS, .DC_STAT_SWEEP, .CB_CNT_VALUE, .CBD_CNT_VALUE] s t) ∧
  (∀ (a : Acc) (d : Die) (v : Word) (s t : State), exec (.dcMaint a d v) s = .next t → Changes logParts (refuseAnd [.DC_MAINT_OP,
    .DC_MAINT_SLICE, .DC_MAINT_SET, .DC_MAINT_WAY, .DC_MAINT_BUSY]) s t) ∧
  (∀ (g : GCore) (s t : State), exec (.tickTake g) s = .next t → Changes (cmdWith [.te, .berm]) (logAnd [.TK_EVT_SKIP,
    .TK_EVT_LATE, .L2_CNT_LOCK_LOST, .CB_CNT_VALUE, .CBD_CNT_VALUE]) s t) ∧
  (∀ (g : GCore) (s t : State), exec (.tickRecordDurable g) s = .next t → Changes [.regs, .mem, .poison, .hub, .cores, .dies,
    .fabric, .dir] [.L2_CNT_LOCK_LOST, .CB_CNT_VALUE, .CBD_CNT_VALUE] s t) ∧
  (∀ (g : GCore) (s t : State), exec (.commitPoint g) s = .next t → Changes (logWith [.mem, .poison, .hub, .cores, .dies, .fabric,
    .dir, .free]) (logAnd [.GD_STAT_TOKEN_HELD, .GD_STAT_TOKEN_CPU, .GD_STAT_RECOVERING, .GD_CNT1_TOKEN, .GD_CNT1_CATCHUP_FAIL,
    .L2_CNT_LOCK_LOST, .CB_CNT_VALUE, .CBD_CNT_VALUE]) s t) ∧
  (∀ (g : GCore) (s t : State), exec (.phaseBComplete g) s = .next t → Changes [.cores] [] s t) ∧
  (∀ (g : GCore) (w : BitVec 32) (s t : State), exec (.tickdone g w) s = .next t → Changes (cmdWith [.te, .berm, .free]) (logAnd
    [.GD_STAT_RECOVERING, .GD_CNT1_CATCHUP_FAIL, .L2_STAT_LOCKED, .L2_STAT_RETIRED, .L2_CNT_LOCK_LOST, .DC_SLICE_RETIRED,
    .DC_SLICE_SPARE_USED, .CB_CNT_VALUE, .CBD_CNT_VALUE]) s t) ∧
  (∀ (g : GCore) (w : BitVec 32) (s t : State), exec (.tickwait g w) s = .next t → Changes (cmdWith [.te, .berm, .free]) (logAnd
    [.TK_EVT_SKIP, .TK_EVT_LATE, .GD_STAT_RECOVERING, .GD_CNT1_CATCHUP_FAIL, .L2_STAT_LOCKED, .L2_STAT_RETIRED,
    .L2_CNT_LOCK_LOST, .DC_SLICE_RETIRED, .DC_SLICE_SPARE_USED, .CB_CNT_VALUE, .CBD_CNT_VALUE]) s t) ∧
  (∀ (g : GCore) (w : BitVec 32) (s t : State), exec (.tickabort g w) s = .next t → Changes (cmdWith [.te, .berm, .free]) (logAnd
    [.GD_STAT_TOKEN_HELD, .GD_STAT_TOKEN_CPU, .GD_STAT_RECOVERING, .GD_CNT0_TICKABORT, .GD_CNT1_TOKEN, .GD_CNT1_CATCHUP_FAIL,
    .L2_STAT_LOCKED, .L2_STAT_RETIRED, .L2_CNT_LOCK_LOST, .DC_SLICE_RETIRED, .DC_SLICE_SPARE_USED, .CB_CNT_VALUE,
    .CBD_CNT_VALUE]) s t) ∧
  (∀ (g : GCore) (la : LineAddr) (s t : State), exec (.deferLimitExpired g la) s = .next t → Changes cmdParts (logAnd
    [.GD_STAT_TOKEN_HELD, .GD_STAT_TOKEN_CPU, .GD_CNT0_ABORT_SNOOP, .GD_CNT0_ABORT_ERR, .GD_CNT1_TOKEN, .L2_CNT_LOCK_LOST,
    .CB_CNT_VALUE, .CBD_CNT_VALUE]) s t) ∧
  (∀ (g : GCore) (source : FaultSource) (syndrome : Word) (s t : State), exec (.coreFaultDetected g source syndrome) s = .next t →
    ChangesParts (cmdWith [.pols, .berm, .free]) s t) ∧
  (∀ (g : GCore) (s t : State), exec (.tickOverrun g) s = .next t → ChangesParts (cmdWith [.pols, .te, .berm, .free]) s t) ∧
  (∀ (p : Pol) (l : Byte) (s t : State), exec (.replacementReady p l) s = .next t → Changes (cmdWith [.te, .berm]) (logAnd
    [.TK_EVT_SKIP, .TK_EVT_LATE, .GD_STAT_RECOVERING, .L2_CNT_LOCK_LOST, .CB_CNT_VALUE, .CBD_CNT_VALUE]) s t) ∧
  (∀ (c : Cmd) (s t : State), exec (.setGdCtl c) s = .next t → Changes cmdParts (cmdAnd [.GD_CTL_DEFER_LIMIT, .GD_CTL_CATCHUP]) s
    t) ∧
  (∀ (g : GCore) (w : BitVec 32) (s t : State), exec (.tlbi g w) s = .next t → Changes [.cores, .free] [] s t) ∧
  (∀ (g : GCore) (inv : TlbInv) (s t : State), exec (.tlbiBroadcast g inv) s = .next t → Changes [.cores] [] s t) ∧
  (∀ (g : GCore) (w : BitVec 32) (s t : State), exec (.tlbsync g w) s = .next t → Changes [.cores, .free] [] s t) ∧
  (∀ (g : GCore) (n : BitVec 12) (rs : Fin 32) (s t : State), exec (.translationRegWrite g n rs) s = .next t → Changes [.cores,
    .free] [] s t) ∧
  (∀ (g : GCore) (w : BitVec 32) (s t : State), exec (.cma g w) s = .next t → Changes (cmdWith [.free]) (cmdAnd
    [.GD_STAT_TOKEN_HELD, .GD_STAT_TOKEN_CPU, .GD_CNT0_ABORT_SNOOP, .GD_CNT0_ABORT_ERR, .GD_CNT1_WAY_OVF, .GD_CNT1_DQ_OVF,
    .GD_CNT1_DEV_READ, .GD_CNT1_TOKEN, .DC_CNT_LOCK_VICTIM, .DIR_CNT1_DIR_EVICTS]) s t) ∧
  (∀ (g : GCore) (w : BitVec 32) (s t : State), exec (.cmsw g w) s = .next t → Changes (cmdWith [.free]) (logAnd
    [.GD_STAT_TOKEN_HELD, .GD_STAT_TOKEN_CPU, .GD_CNT0_ABORT_SNOOP, .GD_CNT0_ABORT_ERR, .GD_CNT1_DEV_READ, .GD_CNT1_TOKEN,
    .L2_CNT_LOCK_LOST, .CB_CNT_VALUE, .CBD_CNT_VALUE]) s t) ∧
  (∀ (d : Die) (s t : State), exec (.dcMaintDone d) s = .next t → Changes cmdParts (logAnd [.GD_STAT_TOKEN_HELD,
    .GD_STAT_TOKEN_CPU, .GD_CNT0_ABORT_SNOOP, .GD_CNT0_ABORT_ERR, .GD_CNT1_TOKEN, .L2_CNT_LOCK_LOST, .DC_MAINT_BUSY,
    .CB_CNT_VALUE, .CBD_CNT_VALUE]) s t) ∧
  (∀ (g : GCore) (w : BitVec 32) (s t : State), exec (.wlock g w) s = .next t → Changes (cmdWith [.free]) (cmdAnd
    [.GD_STAT_TOKEN_HELD, .GD_STAT_TOKEN_CPU, .GD_CNT0_ABORT_SNOOP, .GD_CNT0_ABORT_ERR, .GD_CNT1_WAY_OVF, .GD_CNT1_DQ_OVF,
    .GD_CNT1_TOKEN, .L2_STAT_LOCKED, .DC_CNT_LOCK_VICTIM, .DIR_CNT1_DIR_EVICTS]) s t) ∧
  (∀ (g : GCore) (w : BitVec 32) (s t : State), exec (.wunlock g w) s = .next t → Changes (logWith [.cores, .free]) (logAnd
    [.GD_CNT1_DEV_READ, .L2_STAT_LOCKED]) s t) ∧
  (∀ (g : GCore) (w : BitVec 32) (s t : State), exec (.wlquery g w) s = .next t → Changes [.cores, .free] [] s t) ∧
  (∀ (g : GCore) (w : BitVec 32) (s t : State), exec (.place g w) s = .next t → Changes (cmdWith [.free]) (cmdAnd
    [.GD_STAT_TOKEN_HELD, .GD_STAT_TOKEN_CPU, .GD_CNT0_ABORT_SNOOP, .GD_CNT0_ABORT_ERR, .GD_CNT1_WAY_OVF, .GD_CNT1_DQ_OVF,
    .GD_CNT1_TOKEN, .DC_CNT_LOCK_VICTIM, .DIR_CNT1_DIR_EVICTS]) s t) ∧
  (∀ (g : GCore) (w : BitVec 32) (s t : State), exec (.fenceMb g w) s = .next t → Changes [.cores, .free] [] s t) ∧
  (∀ (g : GCore) (w : BitVec 32) (s t : State), exec (.fenceDev g w) s = .next t → Changes [.cores, .free] [] s t) ∧
  (∀ (g : GCore) (w : BitVec 32) (s t : State), exec (.fencePlc g w) s = .next t → Changes [.cores, .free] [] s t) ∧
  (∀ (g : GCore) (w : BitVec 32) (s t : State), exec (.fenceCm g w) s = .next t → Changes (cmdWith [.free]) (logAnd
    [.GD_STAT_TOKEN_HELD, .GD_STAT_TOKEN_CPU, .GD_CNT0_ABORT_SNOOP, .GD_CNT0_ABORT_ERR, .GD_CNT1_TOKEN, .L2_CNT_LOCK_LOST,
    .CB_CNT_VALUE, .CBD_CNT_VALUE]) s t) ∧
  (∀ (g : GCore) (w : BitVec 32) (s t : State), exec (.fenceI g w) s = .next t → Changes [.cores, .free] [] s t) ∧
  (∀ (g : GCore) (la : LineAddr) (s t : State), exec (.mbEntryTimeout g la) s = .next t → Changes [.cores] [] s t) ∧
  (∀ (g : GCore) (va : Word) (acc : AccKind) (la : LineAddr) (err : CacheErr) (s t : State), exec (.pageWalk g va acc la err) s =
    .next t → ChangesParts (cmdWith [.pols, .berm, .links, .free]) s t) ∧
  (∀ (g : GCore) (err : CacheErr) (s t : State), exec (.mbDrain g err) s = .next t → ChangesParts (cmdWith [.pols, .berm, .links,
    .free]) s t) ∧
  (∀ (g : GCore) (kind : LoadKind) (rd : Fin 32) (va : Word) (size : Fin 7) (err : CacheErr) (s t : State), exec (.load g kind rd
    va size err) s = .next t → ChangesParts (cmdWith [.pols, .berm, .links, .free]) s t)

/-- R228 to R300, R331 to R358: what the messages of coherence, the memory channels, the die links and the dike leave
unchanged. -/
def Obligations.FramesOfTheFabricAndMemory : Prop :=
  (∀ (g : Half) (m : Msg) (s t : State), exec (.guestRequest g m) s = .next t → Changes (logWith [.cores, .dies, .fabric, .io,
    .dike]) (refuseAnd [.DK_CTL_FENCE, .DK_STAT_PQ_TRIP, .DK_STAT_OUTSTANDING, .DK_EPOCH_OLDEST_LIVE, .DK_CNT_REFUSED,
    .DK_CNT_POISON_IN, .DK_CNT_RATE_HELD, .GDB_VALUE, .CB_CNT_VALUE, .CBD_CNT_VALUE]) s t) ∧
  (∀ (g : Half) (d : Fin 16) (v : Word) (s t : State), exec (.guestDoorbell g d v) s = .next t → Changes [.regs, .cores]
    [.GDB_VALUE] s t) ∧
  (∀ (g : Half) (s t : State), exec (.guestModuleLoss g) s = .next t → Changes (logWith [.dike]) (logAnd [.LK_STAT_STATE,
    .DK_STAT_OUTSTANDING, .DK_EPOCH_OLDEST_LIVE]) s t) ∧
  (∀ (g : Half) (s t : State), exec (.tokenBucketRefill g) s = .next t → Changes (logWith [.cores, .dies, .fabric, .io, .dike])
    (refuseAnd [.DK_CTL_FENCE, .DK_STAT_PQ_TRIP, .DK_STAT_OUTSTANDING, .DK_EPOCH_OLDEST_LIVE, .DK_CNT_REFUSED,
    .DK_CNT_POISON_IN, .DK_CNT_RATE_HELD, .GDB_VALUE, .CB_CNT_VALUE, .CBD_CNT_VALUE]) s t) ∧
  (∀ (ch : Fin 16) (sc : Fin 2) (corrected : Bool) (s t : State), exec (.mcCommandSlot ch sc corrected) s = .next t → Changes
    [.regs, .dies, .fabric, .mcs, .out] [.CB_CNT_VALUE, .CBD_CNT_VALUE, .MC_RTSTAT_IN_SLACK, .MC_RTSTAT_IDLE, .MC_ERR_CE,
    .MC_ERR_POISON_READ] s t) ∧
  (∀ (ch : Fin 16) (sc : Fin 2) (bank : BankId) (s t : State), exec (.pageIdleClose ch sc bank) s = .next t → Changes [.mcs, .out]
    [] s t) ∧
  (∀ (ch : Fin 16) (sc : Fin 2) (txid : BitVec 12) (s t : State), exec (.urgencyRise ch sc txid) s = .next t → Changes [.regs,
    .mcs] [.CB_CNT_VALUE] s t) ∧
  (∀ (ch : Fin 16) (sc : Fin 2) (rank : Fin 4) (set : Fin 4) (s t : State), exec (.refreshInterval ch sc rank set) s = .next t →
    Changes [.regs, .mcs] [.MC_REF_FORCED, .MC_REF_DEBT_PEAK] s t) ∧
  (∀ (ch : Fin 16) (hot : Bool) (celsius : BitVec 8) (s t : State), exec (.dimmTempPoll ch hot celsius) s = .next t → Changes
    [.regs, .mcs] [.MC_REF_HOT] s t) ∧
  (∀ (ch : Fin 16) (cause : Fin 4) (s t : State), exec (.channelLoss ch cause) s = .next t → Changes (logWith [.pols, .cores,
    .dies, .fabric, .mcs, .berm]) (logAnd [.TK_NOW_STATE, .CB_CNT_VALUE, .CBD_CNT_VALUE, .MC_STAT_STATE, .MC_ERR_POISON_READ]) s
    t) ∧
  (∀ (ch : Fin 16) (sc : Fin 2) (drift : Nat) (s t : State), exec (.retrainOscCheck ch sc drift) s = .next t → Changes (logWith
    [.mcs]) (logAnd [.MC_RTSTAT_FORCED, .MC_RTSTAT_LAST_DRIFT]) s t) ∧
  (∀ (ch : Fin 16) (sc : Fin 2) (s t : State), exec (.retrainWaitExpired ch sc) s = .next t → Changes [.regs, .mcs]
    [.MC_RTSTAT_IDLE] s t) ∧
  (∀ (ch : Fin 16) (sc : Fin 2) (corrected : Bool) (s t : State), exec (.retrainPauseEnd ch sc corrected) s = .next t → Changes
    (logWith [.pols, .cores, .dies, .fabric, .mcs, .berm]) (logAnd [.TK_NOW_STATE, .CB_CNT_VALUE, .CBD_CNT_VALUE,
    .MC_STAT_STATE, .MC_ERR_POISON_READ]) s t) ∧
  (∀ (m : Msg) (s t : State), exec (.redirectedRead m) s = .next t → Changes [.regs, .dies, .fabric, .mcs] [.CB_CNT_VALUE,
    .CBD_CNT_VALUE, .MC_ERR_POISON_READ] s t) ∧
  (∀ (ch : Fin 16) (chunk : Nat) (s t : State), exec (.resyncChunk ch chunk) s = .next t → Changes (logWith [.mem, .poison, .mcs])
    (logAnd [.MC_STAT_STATE, .MC_STAT_RESYNC_PCT]) s t) ∧
  (∀ (m : Msg) (secondGood : Bool) (mirrorGood : Bool) (s t : State), exec (.uncorrectableRead m secondGood mirrorGood) s = .next
    t → Changes (logWith [.mem, .poison, .dies, .fabric, .mcs]) (logAnd [.CB_CNT_VALUE, .CBD_CNT_VALUE, .MC_ERR_UE,
    .MC_ERR_MIRROR_FIX, .MC_ERR_POISON_READ]) s t) ∧
  (∀ (ch : Fin 16) (la : LineAddr) (outcome : EccOutcome) (s t : State), exec (.patrolScrub ch la outcome) s = .next t → Changes
    (logWith [.mem, .poison, .mcs]) (logAnd [.MC_ERR_CE, .MC_ERR_UE, .MC_ERR_MIRROR_FIX, .MC_SCRUB_PASSES]) s t) ∧
  (∀ (ch : Fin 16) (s t : State), exec (.spprWaitExpired ch) s = .next t → Changes [.mcs] [] s t) ∧
  (∀ (ch : Fin 16) (row : RowId) (resource : Bool) (s t : State), exec (.rowRepair ch row resource) s = .next t → Changes (logWith
    [.mcs, .berm]) (logAnd [.MC_STAT_REDIRECTS, .MC_ECC_SPPR_DONE]) s t) ∧
  (∀ (m : Msg) (s t : State), exec (.readShared m) s = .next t → Changes (logWith [.dies, .fabric, .dir, .mcs, .free]) (refuseAnd
    [.DIR_CNT0_RECALLS, .DIR_CNT0_INVALS, .DIR_CNT1_NACKS, .DIR_CNT1_HOLD_WAITS, .DIR_CNT1_DIR_EVICTS, .DIR_CNT1_HINT_DROP,
    .DIR_BANK_TRK, .DIR_BANK_WAIT, .DIR_BANK_WAIT_MAX, .CB_CNT_VALUE, .CBD_CNT_VALUE, .MC_ERR_POISON_READ]) s t) ∧
  (∀ (m : Msg) (s t : State), exec (.readOwn m) s = .next t → Changes (logWith [.dies, .fabric, .dir, .mcs, .free]) (refuseAnd
    [.DIR_CNT0_RECALLS, .DIR_CNT0_INVALS, .DIR_CNT1_NACKS, .DIR_CNT1_HOLD_WAITS, .DIR_CNT1_DIR_EVICTS, .DIR_CNT1_HINT_DROP,
    .DIR_BANK_TRK, .DIR_BANK_WAIT, .DIR_BANK_WAIT_MAX, .CB_CNT_VALUE, .CBD_CNT_VALUE, .MC_ERR_POISON_READ]) s t) ∧
  (∀ (m : Msg) (s t : State), exec (.upgrade m) s = .next t → Changes (logWith [.dies, .fabric, .dir, .free]) (refuseAnd
    [.DIR_CNT0_RECALLS, .DIR_CNT0_INVALS, .DIR_CNT1_NACKS, .DIR_CNT1_HOLD_WAITS, .DIR_CNT1_DIR_EVICTS, .DIR_CNT1_HINT_DROP,
    .DIR_BANK_TRK, .DIR_BANK_WAIT, .DIR_BANK_WAIT_MAX, .CB_CNT_VALUE, .CBD_CNT_VALUE]) s t) ∧
  (∀ (m : Msg) (s t : State), exec (.placeWrite m) s = .next t → Changes (logWith [.mem, .poison, .cores, .dies, .fabric, .dir,
    .mcs, .free]) (refuseAnd [.DIR_CNT0_RECALLS, .DIR_CNT0_INVALS, .DIR_CNT1_NACKS, .DIR_CNT1_HOLD_WAITS, .DIR_CNT1_DIR_EVICTS,
    .DIR_CNT1_HINT_DROP, .DIR_BANK_TRK, .DIR_BANK_WAIT, .DIR_BANK_WAIT_MAX, .CB_CNT_VALUE, .CBD_CNT_VALUE, .MC_ERR_POISON_READ])
    s t) ∧
  (∀ (m : Msg) (s t : State), exec (.write m) s = .next t → Changes (logWith [.mem, .poison, .cores, .dies, .fabric, .dir, .mcs,
    .free]) (refuseAnd [.DIR_CNT0_RECALLS, .DIR_CNT0_INVALS, .DIR_CNT1_NACKS, .DIR_CNT1_HOLD_WAITS, .DIR_CNT1_DIR_EVICTS,
    .DIR_CNT1_HINT_DROP, .DIR_BANK_TRK, .DIR_BANK_WAIT, .DIR_BANK_WAIT_MAX, .CB_CNT_VALUE, .CBD_CNT_VALUE]) s t) ∧
  (∀ (m : Msg) (s t : State), exec (.evictClean m) s = .next t → Changes (logWith [.dies, .fabric, .dir, .free]) (logAnd
    [.DIR_CNT0_RECALLS, .DIR_CNT0_INVALS, .DIR_CNT1_NACKS, .DIR_CNT1_HOLD_WAITS, .DIR_CNT1_DIR_EVICTS, .DIR_CNT1_HINT_DROP,
    .DIR_BANK_TRK, .DIR_BANK_WAIT, .DIR_BANK_WAIT_MAX, .CB_CNT_VALUE, .CBD_CNT_VALUE]) s t) ∧
  (∀ (h : Half) (la : LineAddr) (s t : State), exec (.holdWindowExpired h la) s = .next t → Changes (logWith [.dies, .fabric,
    .dir, .free]) (logAnd [.DIR_CNT0_RECALLS, .DIR_CNT0_INVALS, .DIR_CNT1_NACKS, .DIR_CNT1_HOLD_WAITS, .DIR_CNT1_DIR_EVICTS,
    .DIR_CNT1_HINT_DROP, .DIR_BANK_TRK, .DIR_BANK_WAIT, .DIR_BANK_WAIT_MAX, .CB_CNT_VALUE, .CBD_CNT_VALUE]) s t) ∧
  (∀ (m : Msg) (s t : State), exec (.invalidate m) s = .next t → Changes cmdParts (logAnd [.GD_STAT_TOKEN_HELD,
    .GD_STAT_TOKEN_CPU, .GD_CNT0_ABORT_SNOOP, .GD_CNT0_ABORT_ERR, .GD_CNT1_TOKEN, .L2_CNT_LOCK_LOST, .CB_CNT_VALUE,
    .CBD_CNT_VALUE]) s t) ∧
  (∀ (m : Msg) (s t : State), exec (.recall m) s = .next t → Changes cmdParts (logAnd [.GD_STAT_TOKEN_HELD, .GD_STAT_TOKEN_CPU,
    .GD_CNT0_ABORT_SNOOP, .GD_CNT0_ABORT_ERR, .GD_CNT1_TOKEN, .L2_CNT_LOCK_LOST, .CB_CNT_VALUE, .CBD_CNT_VALUE]) s t) ∧
  (∀ (m : Msg) (s t : State), exec (.downgrade m) s = .next t → Changes cmdParts (logAnd [.GD_STAT_TOKEN_HELD, .GD_STAT_TOKEN_CPU,
    .GD_CNT0_ABORT_SNOOP, .GD_CNT0_ABORT_ERR, .GD_CNT1_TOKEN, .L2_CNT_LOCK_LOST, .CB_CNT_VALUE, .CBD_CNT_VALUE]) s t) ∧
  (∀ (m : Msg) (s t : State), exec (.invAck m) s = .next t → Changes (logWith [.dies, .fabric, .dir, .free]) (logAnd
    [.DIR_CNT0_RECALLS, .DIR_CNT0_INVALS, .DIR_CNT1_NACKS, .DIR_CNT1_HOLD_WAITS, .DIR_CNT1_DIR_EVICTS, .DIR_CNT1_HINT_DROP,
    .DIR_BANK_TRK, .DIR_BANK_WAIT, .DIR_BANK_WAIT_MAX, .CB_CNT_VALUE, .CBD_CNT_VALUE]) s t) ∧
  (∀ (m : Msg) (s t : State), exec (.recallAck m) s = .next t → Changes (logWith [.dies, .fabric, .dir, .free]) (logAnd
    [.DIR_CNT0_RECALLS, .DIR_CNT0_INVALS, .DIR_CNT1_NACKS, .DIR_CNT1_HOLD_WAITS, .DIR_CNT1_DIR_EVICTS, .DIR_CNT1_HINT_DROP,
    .DIR_BANK_TRK, .DIR_BANK_WAIT, .DIR_BANK_WAIT_MAX, .CB_CNT_VALUE, .CBD_CNT_VALUE]) s t) ∧
  (∀ (h : Half) (la : LineAddr) (d : Die) (s t : State), exec (.snoopRetryResend h la d) s = .next t → Changes [.regs, .dies,
    .fabric, .dir] [.DIR_CNT0_RECALLS, .DIR_CNT0_INVALS, .DIR_BANK_TRK, .DIR_BANK_WAIT, .DIR_BANK_WAIT_MAX, .CB_CNT_VALUE,
    .CBD_CNT_VALUE] s t) ∧
  (∀ (m : Msg) (s t : State), exec (.rdDone m) s = .next t → Changes (logWith [.dies, .fabric, .dir, .free]) (logAnd
    [.DIR_CNT0_RECALLS, .DIR_CNT0_INVALS, .DIR_CNT1_NACKS, .DIR_CNT1_HOLD_WAITS, .DIR_CNT1_DIR_EVICTS, .DIR_CNT1_HINT_DROP,
    .DIR_BANK_TRK, .DIR_BANK_WAIT, .DIR_BANK_WAIT_MAX, .CB_CNT_VALUE, .CBD_CNT_VALUE]) s t) ∧
  (∀ (m : Msg) (s t : State), exec (.wrDone m) s = .next t → Changes (logWith [.dies, .fabric, .dir, .free]) (logAnd
    [.DIR_CNT0_RECALLS, .DIR_CNT0_INVALS, .DIR_CNT1_NACKS, .DIR_CNT1_HOLD_WAITS, .DIR_CNT1_DIR_EVICTS, .DIR_CNT1_HINT_DROP,
    .DIR_BANK_TRK, .DIR_BANK_WAIT, .DIR_BANK_WAIT_MAX, .CB_CNT_VALUE, .CBD_CNT_VALUE]) s t) ∧
  (∀ (m : Msg) (s t : State), exec (.wbAccepted m) s = .next t → Changes (logWith [.dies, .fabric, .dir, .free]) (logAnd
    [.DIR_CNT0_RECALLS, .DIR_CNT0_INVALS, .DIR_CNT1_NACKS, .DIR_CNT1_HOLD_WAITS, .DIR_CNT1_DIR_EVICTS, .DIR_CNT1_HINT_DROP,
    .DIR_BANK_TRK, .DIR_BANK_WAIT, .DIR_BANK_WAIT_MAX, .CB_CNT_VALUE, .CBD_CNT_VALUE]) s t) ∧
  (∀ (m : Msg) (s t : State), exec (.data m) s = .next t → ChangesParts (cmdWith [.io, .dike, .cas, .free]) s t) ∧
  (∀ (m0 m1 m2 m3 : Msg) (s t : State), exec (.dataBurst m0 m1 m2 m3) s = .next t → ChangesParts (cmdWith [.io, .dike, .cas,
    .free]) s t) ∧
  (∀ (m : Msg) (s t : State), exec (.grant m) s = .next t → Changes (cmdWith [.free]) (logAnd [.GD_STAT_TOKEN_HELD,
    .GD_STAT_TOKEN_CPU, .GD_CNT0_ABORT_SNOOP, .GD_CNT0_ABORT_ERR, .GD_CNT1_WAY_OVF, .GD_CNT1_DQ_OVF, .GD_CNT1_TOKEN,
    .L2_CNT_LOCK_LOST, .DC_CNT_LOCK_VICTIM, .CB_CNT_VALUE, .CBD_CNT_VALUE]) s t) ∧
  (∀ (m : Msg) (s t : State), exec (.wbAck m) s = .next t → Changes cmdParts (logAnd [.GD_STAT_TOKEN_HELD, .GD_STAT_TOKEN_CPU,
    .GD_CNT0_ABORT_SNOOP, .GD_CNT0_ABORT_ERR, .GD_CNT1_TOKEN, .L2_CNT_LOCK_LOST, .CB_CNT_VALUE, .CBD_CNT_VALUE]) s t) ∧
  (∀ (m : Msg) (s t : State), exec (.writeDone m) s = .next t → Changes (logWith [.mem, .poison, .hub, .cores, .dies, .fabric,
    .dir, .io, .dike, .cas]) (cmdAnd [.DK_CTL_FENCE, .DK_STAT_PQ_TRIP, .DK_STAT_OUTSTANDING, .DK_EPOCH_OLDEST_LIVE,
    .DK_CNT_REFUSED, .DK_CNT_POISON_IN, .DK_CNT_RATE_HELD, .GDB_VALUE, .PW_EPOCH_OLDEST_LIVE]) s t) ∧
  (∀ (m : Msg) (s t : State), exec (.mirDone m) s = .next t → Changes [.regs, .cores, .dies, .fabric, .mcs] [.CB_CNT_VALUE,
    .CBD_CNT_VALUE] s t) ∧
  (∀ (m : Msg) (s t : State), exec (.placeDone m) s = .next t → Changes [.cores, .fabric] [] s t) ∧
  (∀ (m : Msg) (s t : State), exec (.nack m) s = .next t → Changes [.regs, .cores, .dies, .fabric, .io] [.L2_CNT_LOCK_LOST,
    .CB_CNT_VALUE, .CBD_CNT_VALUE] s t) ∧
  (∀ (m : Msg) (s t : State), exec (.nackRetry m) s = .next t → Changes [.regs, .cores, .dies, .fabric, .io] [.CB_CNT_VALUE,
    .CBD_CNT_VALUE] s t) ∧
  (∀ (m : Msg) (s t : State), exec (.writeback m) s = .next t → Changes (logWith [.mem, .poison, .cores, .dies, .fabric, .mcs])
    (logAnd [.CB_CNT_VALUE, .CBD_CNT_VALUE]) s t) ∧
  (∀ (h : Half) (bank : Fin 16) (way : Fin 26) (s t : State), exec (.directoryColumnRetire h bank way) s = .next t → Changes
    (cmdWith [.berm]) (logAnd [.L2_CNT_LOCK_LOST, .DIR_BANK_SPARE, .DIR_BANK_RETIRED, .CB_CNT_VALUE, .CBD_CNT_VALUE]) s t) ∧
  (∀ (h : Half) (la : LineAddr) (s t : State), exec (.directoryEntryUe h la) s = .next t → Changes (logWith [.dir, .free]) logFlds
    s t) ∧
  (∀ (h : Half) (bank : Fin 16) (s t : State), exec (.bcastSweep h bank) s = .next t → Changes (logWith [.dir, .free]) logFlds s
    t) ∧
  (∀ (h : Half) (s t : State), exec (.hubHalfLoss h) s = .next t → Changes (logWith [.pols, .te, .cores, .dies, .halfLost,
    .halfReturning, .fabric, .dir, .io, .mcs, .berm]) (logAnd [.CP_ROLE_STANDBY_READY, .TK_NOW_STATE, .L2_CNT_LOCK_LOST,
    .DIR_STAT_HOMES, .DIR_STAT_PARTNER_LOST, .STR_STAT_PAIR_LIVE, .CB_CNT_VALUE, .CBD_CNT_VALUE]) s t) ∧
  (∀ (m : Msg) (s t : State), exec (.census m) s = .next t → Changes [.regs, .dies, .fabric] [.CB_CNT_VALUE, .CBD_CNT_VALUE] s t) ∧
  (∀ (m : Msg) (s t : State), exec (.censusReport m) s = .next t → Changes [.regs, .dies, .fabric, .dir, .free] [.CB_CNT_VALUE,
    .CBD_CNT_VALUE] s t) ∧
  (∀ (h : Half) (s t : State), exec (.censusComplete h) s = .next t → Changes (logWith [.dies, .fabric, .dir, .free]) (refuseAnd
    [.DIR_STAT_HOMES, .DIR_CNT0_RECALLS, .DIR_CNT0_INVALS, .DIR_CNT1_NACKS, .DIR_CNT1_HOLD_WAITS, .DIR_CNT1_DIR_EVICTS,
    .DIR_CNT1_HINT_DROP, .CEN_STAT_LINES, .CEN_STAT_DROPPED, .CEN_STAT_BCAST, .CEN_STAT_DURATION, .DIR_BANK_TRK, .DIR_BANK_WAIT,
    .DIR_BANK_WAIT_MAX, .CB_CNT_VALUE, .CBD_CNT_VALUE]) s t) ∧
  (∀ (h : Half) (bank : Fin 16) (s t : State), exec (.homesHandBack h bank) s = .next t → Changes (logWith [.mem, .poison, .cores,
    .dies, .halfLost, .halfReturning, .fabric, .dir]) (logAnd [.L2_CNT_LOCK_LOST, .DIR_STAT_HOMES, .DIR_STAT_PARTNER_LOST,
    .CB_CNT_VALUE, .CBD_CNT_VALUE]) s t) ∧
  (∀ (h : Half) (spine : Bool) (transit : Bool) (s t : State), exec (.hubHeartbeat h spine transit) s = .next t → Changes [.dir]
    [] s t) ∧
  (∀ (s t : State), exec .spineLoss s = .next t → Changes (logWith [.dir]) (logAnd [.DIR_STAT_SPINE_DOWN]) s t) ∧
  (∀ (s t : State), exec .spineRestore s = .next t → Changes logParts (logAnd [.DIR_STAT_SPINE_DOWN]) s t) ∧
  (∀ (s t : State), exec .transitRemap s = .next t → Changes [.dir] [] s t) ∧
  (∀ (h : Half) (m : Fin 13) (cause : Fin 3) (s t : State), exec (.linkModuleLoss h m cause) s = .next t → Changes (logWith [.dir,
    .links, .dike]) (logAnd [.DIR_STAT_PATHS, .LK_STAT_STATE, .LKC_STAT_STATE, .DK_STAT_OUTSTANDING, .DK_EPOCH_OLDEST_LIVE]) s
    t) ∧
  (∀ (h : Half) (m : Fin 13) (test : LaneTest) (s t : State), exec (.laneTest h m test) s = .next t → Changes (logWith [.dir,
    .berm, .links, .dike]) (logAnd [.DIR_STAT_PATHS, .LK_STAT_STATE, .LK_STAT_LAST_CAUSE, .LK_MAP_TX_MAP, .LK_MAP_RX_MAP,
    .LK_CNT_RETRAINS, .LKC_STAT_STATE, .LKC_STAT_LAST_CAUSE, .LKC_MAP_TX_MAP, .LKC_MAP_RX_MAP, .LKC_CNT_RETRAINS,
    .DK_STAT_OUTSTANDING, .DK_EPOCH_OLDEST_LIVE, .CBD_CNT_VALUE]) s t) ∧
  (∀ (a : Acc) (l : LinkEnd) (test : LaneTest) (s t : State), exec (.lkRetrain a l test) s = .next t → Changes (logWith [.dir,
    .berm, .links, .dike]) (refuseAnd [.DIR_STAT_PATHS, .LK_STAT_STATE, .LK_STAT_LAST_CAUSE, .LK_MAP_TX_MAP, .LK_MAP_RX_MAP,
    .LK_CNT_RETRAINS, .LKC_STAT_STATE, .LKC_STAT_LAST_CAUSE, .LKC_MAP_TX_MAP, .LKC_MAP_RX_MAP, .LKC_CNT_RETRAINS,
    .DK_STAT_OUTSTANDING, .DK_EPOCH_OLDEST_LIVE, .CBD_CNT_VALUE]) s t) ∧
  (∀ (l : LinkEnd) (test : LaneTest) (s t : State), exec (.mapMismatch l test) s = .next t → Changes (logWith [.dir, .berm,
    .links, .dike]) (logAnd [.DIR_STAT_PATHS, .LK_STAT_STATE, .LK_STAT_LAST_CAUSE, .LK_MAP_TX_MAP, .LK_MAP_RX_MAP,
    .LK_CNT_RETRAINS, .LK_CNT_MISMATCH, .LKC_STAT_STATE, .LKC_STAT_LAST_CAUSE, .LKC_MAP_TX_MAP, .LKC_MAP_RX_MAP,
    .LKC_CNT_RETRAINS, .LKC_CNT_MISMATCH, .DK_STAT_OUTSTANDING, .DK_EPOCH_OLDEST_LIVE, .CBD_CNT_VALUE]) s t) ∧
  (∀ (h : Half) (m : Fin 13) (good : Bool) (test : LaneTest) (s t : State), exec (.linkTrain h m good test) s = .next t → Changes
    (logWith [.berm, .links]) (logAnd [.LK_STAT_STATE, .LK_MAP_TX_MAP, .LK_MAP_RX_MAP, .LKC_STAT_STATE, .LKC_MAP_TX_MAP,
    .LKC_MAP_RX_MAP]) s t) ∧
  (∀ (h : Half) (m : Fin 13) (offer : CapOffer) (s t : State), exec (.cap h m offer) s = .next t → Changes (logWith [.dies, .dir,
    .links, .dike]) (logAnd [.DIR_STAT_PATHS, .LK_STAT_STATE, .LK_STAT_LEVEL, .LK_STAT_PEER_KIND, .LK_STAT_PEER_REV,
    .LK_STAT_FEATURES, .LK_STAT_LAST_CAUSE, .LKC_STAT_STATE, .LKC_STAT_LEVEL, .LKC_STAT_PEER_KIND, .LKC_STAT_PEER_REV,
    .LKC_STAT_FEATURES]) s t) ∧
  (∀ (h : Half) (m : Fin 13) (good : Bool) (s t : State), exec (.moduleRetrainTry h m good) s = .next t → Changes (logWith [.dir,
    .links, .dike]) (logAnd [.DIR_STAT_PATHS, .LK_STAT_STATE, .LK_STAT_LAST_CAUSE, .LK_CNT_RETRAINS, .LKC_STAT_STATE,
    .LKC_STAT_LAST_CAUSE, .LKC_CNT_RETRAINS, .CBD_CNT_VALUE]) s t) ∧
  (∀ (l : LinkEnd) (f : Flit) (s t : State), exec (.flitReceive l f) s = .next t → Changes [.regs, .links, .out] [.LK_CNT_CRC_ERR,
    .LKC_CNT_CRC_ERR, .CBD_CNT_VALUE] s t) ∧
  (∀ (l : LinkEnd) (seq : BitVec 10) (s t : State), exec (.retryReq l seq) s = .next t → Changes [.regs, .out] [.LK_CNT_RETRIES,
    .LKC_CNT_RETRIES, .CBD_CNT_VALUE] s t) ∧
  (∀ (l : LinkEnd) (s t : State), exec (.retryReqRepeat l) s = .next t → Changes [.links, .out] [] s t) ∧
  (∀ (l : LinkEnd) (s t : State), exec (.ackTimeoutResend l) s = .next t → Changes [.regs, .links, .out] [.CBD_CNT_VALUE] s t) ∧
  (∀ (l : LinkEnd) (s t : State), exec (.mapFlitSend l) s = .next t → Changes [.out] [] s t) ∧
  (∀ (l : LinkEnd) (s t : State), exec (.sleepIdleExpired l) s = .next t → Changes [.links, .out] [] s t) ∧
  (∀ (l : LinkEnd) (s t : State), exec (.sleepReq l) s = .next t → Changes [.out] [] s t) ∧
  (∀ (l : LinkEnd) (s t : State), exec (.sleepAck l) s = .next t → Changes [.regs, .links] [.LK_STAT_STATE, .LK_CNT_SLEEPS,
    .LKC_STAT_STATE, .LKC_CNT_SLEEPS] s t) ∧
  (∀ (l : LinkEnd) (s t : State), exec (.linkWake l) s = .next t → Changes [.regs, .links] [.LK_STAT_STATE, .LKC_STAT_STATE] s t)

/-- R301 to R330, R359 to R440: what the commands of the head ports, the cascade, the berm, the endpoints, the supplies and
start-up leave unchanged. (A package reset starts every part anew, so the commands that may take one have no such frame.) -/
def Obligations.FramesOfHeadsCascadeAndPower : Prop :=
  (∀ (port : Fin 16) (sub : Fin 4) (s t : State), exec (.headLinkUp port sub) s = .next t → Changes [.regs, .out] [.HP_STAT_LINK,
    .HP_STAT_RATE] s t) ∧
  (∀ (port : Fin 16) (sub : Fin 4) (s t : State), exec (.headLinkDown port sub) s = .next t → Changes (logWith [.ing]) (logAnd
    [.HP_STAT_LINK, .HP_STAT_RATE, .HP_CNT_LINK_DOWN, .STR_STAT_STATE, .STR_STAT_LEAD, .STR_STAT_PAIR_LIVE, .STR_STAT_FULL,
    .STR_STAT_LAST_CUT, .STR_POS_NEXT, .STR_POS_HELD]) s t) ∧
  (∀ (port : Fin 16) (sub : Fin 4) (s t : State), exec (.gvcpDiscovery port sub) s = .next t → Changes [.out] [] s t) ∧
  (∀ (port : Fin 16) (sub : Fin 4) (ans : GvcpAnswer) (s t : State), exec (.gvcpAnswer port sub ans) s = .next t → Changes
    (logWith [.ing]) logFlds s t) ∧
  (∀ (stream : Fin 128) (answered : Bool) (ptpSlave : Bool) (s t : State), exec (.headHeartbeat stream answered ptpSlave) s =
    .next t → Changes (logWith [.ing]) (logAnd [.STR_STAT_STATE, .STR_STAT_LEAD, .STR_STAT_PAIR_LIVE, .STR_STAT_FULL,
    .STR_STAT_LAST_CUT, .STR_POS_NEXT, .STR_POS_HELD]) s t) ∧
  (∀ (port : Fin 16) (sub : Fin 4) (f : HeadFrame) (s t : State), exec (.headFrame port sub f) s = .next t → Changes [.regs, .out]
    [.HP_CNT_FCS_ERR, .HP_CNT_FEC_UNCORR, .HP_CNT_FOREIGN] s t) ∧
  (∀ (port : Fin 16) (sub : Fin 4) (kind : PtpKind) (domain : BitVec 8) (body : Word) (s t : State), exec (.ptpMessage port sub
    kind domain body) s = .next t → Changes (logWith [.te, .ing]) (logAnd [.PT_STAT_SRC_OK, .PT_STAT_HOLDOVER,
    .PT_STAT_SLEWING]) s t) ∧
  (∀ (port : Fin 16) (sub : Fin 4) (s t : State), exec (.ptpSyncSend port sub) s = .next t → Changes [.out] [] s t) ∧
  (∀ (port : Fin 16) (slot : Fin 8) (pkt : GvspPacket) (s t : State), exec (.gvspPacket port slot pkt) s = .next t → Changes
    (logWith [.mem, .poison, .hub, .cores, .dies, .fabric, .dir, .ing, .free]) (cmdAnd [.L2_CNT_PUSH_DROP, .DC_CNT_PUSH_DROP,
    .DC_CNT_LOCK_VICTIM, .HP_CNT_FOREIGN, .STR_STAT_STATE, .STR_STAT_LEAD, .STR_STAT_PAIR_LIVE, .STR_STAT_FULL,
    .STR_STAT_LAST_CUT, .STR_POS_NEXT, .STR_POS_HELD, .STR_CNT1_DROP, .STR_CNT1_DUP_PKT, .STR_CNT1_FOREIGN_PKT]) s t) ∧
  (∀ (stream : Fin 128) (s t : State), exec (.reorderTimeout stream) s = .next t → Changes (logWith [.mem, .poison, .hub, .cores,
    .dies, .fabric, .dir, .ing, .free]) (cmdAnd [.L2_CNT_PUSH_DROP, .DC_CNT_PUSH_DROP, .DC_CNT_LOCK_VICTIM, .STR_STAT_STATE,
    .STR_STAT_LEAD, .STR_STAT_PAIR_LIVE, .STR_STAT_FULL, .STR_STAT_LAST_CUT, .STR_POS_NEXT, .STR_POS_HELD, .STR_CNT1_DROP]) s t) ∧
  (∀ (stream : Fin 128) (s t : State), exec (.slotHeaderAccept stream) s = .next t → Changes (logWith [.mem, .poison, .hub,
    .cores, .dies, .fabric, .dir, .ing, .free]) (cmdAnd [.L2_CNT_PUSH_DROP, .DC_CNT_PUSH_DROP, .DC_CNT_LOCK_VICTIM,
    .STR_STAT_STATE, .STR_STAT_LEAD, .STR_STAT_PAIR_LIVE, .STR_STAT_FULL, .STR_STAT_LAST_CUT, .STR_POS_NEXT, .STR_POS_HELD,
    .STR_CNT0_LINES, .STR_CNT0_INCOMPLETE, .STR_CNT0_LATE]) s t) ∧
  (∀ (stream : Fin 128) (s t : State), exec (.cutTake stream) s = .next t → Changes (logWith [.mem, .poison, .hub, .cores, .dies,
    .fabric, .dir, .ing, .free]) (cmdAnd [.L2_CNT_PUSH_DROP, .DC_CNT_PUSH_DROP, .DC_CNT_LOCK_VICTIM, .STR_STAT_STATE,
    .STR_STAT_LEAD, .STR_STAT_PAIR_LIVE, .STR_STAT_FULL, .STR_STAT_LAST_CUT, .STR_POS_NEXT, .STR_POS_HELD, .STR_CNT0_LINES,
    .STR_CNT0_INCOMPLETE, .STR_CNT0_LATE]) s t) ∧
  (∀ (stream : Fin 128) (s t : State), exec (.cutRecordDelayed stream) s = .next t → Changes (logWith [.mem, .poison, .hub,
    .cores, .dies, .fabric, .dir, .ing, .free]) (cmdAnd [.L2_CNT_PUSH_DROP, .DC_CNT_PUSH_DROP, .DC_CNT_LOCK_VICTIM]) s t) ∧
  (∀ (stream : Fin 128) (s t : State), exec (.cutFree stream) s = .next t → Changes (logWith [.mem, .poison, .hub, .cores, .dies,
    .fabric, .dir, .ing, .free]) (cmdAnd [.L2_CNT_PUSH_DROP, .DC_CNT_PUSH_DROP, .DC_CNT_LOCK_VICTIM, .STR_STAT_STATE,
    .STR_STAT_LEAD, .STR_STAT_PAIR_LIVE, .STR_STAT_FULL, .STR_STAT_LAST_CUT, .STR_POS_NEXT, .STR_POS_HELD]) s t) ∧
  (∀ (a : Acc) (p : Pol) (z : Fin 128) (v : Word) (s t : State), exec (.cutRel a p z v) s = .next t → Changes (logWith [.mem,
    .poison, .hub, .cores, .dies, .fabric, .dir, .ing, .free]) (cmdAnd [.CUT_REL_TICK, .L2_CNT_PUSH_DROP, .DC_CNT_PUSH_DROP,
    .DC_CNT_LOCK_VICTIM, .STR_STAT_STATE, .STR_STAT_LEAD, .STR_STAT_PAIR_LIVE, .STR_STAT_FULL, .STR_STAT_LAST_CUT,
    .STR_POS_NEXT, .STR_POS_HELD]) s t) ∧
  (∀ (a : Acc) (p : Pol) (v : Word) (s t : State), exec (.cutRelAll a p v) s = .next t → Changes (logWith [.mem, .poison, .hub,
    .cores, .dies, .fabric, .dir, .ing, .free]) (cmdAnd [.CUT_REL_TICK, .L2_CNT_PUSH_DROP, .DC_CNT_PUSH_DROP,
    .DC_CNT_LOCK_VICTIM, .STR_STAT_STATE, .STR_STAT_LEAD, .STR_STAT_PAIR_LIVE, .STR_STAT_FULL, .STR_STAT_LAST_CUT,
    .STR_POS_NEXT, .STR_POS_HELD]) s t) ∧
  (∀ (stream : Fin 128) (s t : State), exec (.ingestLeadTakeover stream) s = .next t → Changes (logWith [.mem, .poison, .hub,
    .cores, .dies, .fabric, .dir, .ing, .free]) (cmdAnd [.L2_CNT_PUSH_DROP, .DC_CNT_PUSH_DROP, .DC_CNT_LOCK_VICTIM,
    .STR_STAT_STATE, .STR_STAT_LEAD, .STR_STAT_PAIR_LIVE, .STR_STAT_FULL, .STR_STAT_LAST_CUT, .STR_POS_NEXT, .STR_POS_HELD,
    .STR_CNT0_LINES, .STR_CNT0_INCOMPLETE, .STR_CNT0_LATE, .STR_CNT1_DROP]) s t) ∧
  (∀ (c : Cmd) (s t : State), exec (.headBind c) s = .next t → Changes (cmdWith [.ing]) (cmdAnd [.STR_BIND_WORD, .STR_STAT_STATE,
    .STR_STAT_LEAD, .STR_STAT_PAIR_LIVE, .STR_STAT_FULL, .STR_STAT_LAST_CUT, .STR_POS_NEXT, .STR_POS_HELD]) s t) ∧
  (∀ (c : Cmd) (s t : State), exec (.headUnbind c) s = .next t → Changes (cmdWith [.ing]) (cmdAnd [.STR_BIND_WORD,
    .STR_STAT_STATE, .STR_STAT_LEAD, .STR_STAT_PAIR_LIVE, .STR_STAT_FULL]) s t) ∧
  (∀ (c : Cmd) (s t : State), exec (.setHpCfg c) s = .next t → Changes (cmdWith [.ing]) (cmdAnd [.HP_CFG_MODE, .HP_CFG_AN_EN,
    .HP_CFG_SUB_EN, .HP_STAT_LINK, .HP_STAT_RATE, .HP_CNT_LINK_DOWN, .STR_STAT_STATE, .STR_STAT_LEAD, .STR_STAT_PAIR_LIVE,
    .STR_STAT_FULL, .STR_STAT_LAST_CUT, .STR_POS_NEXT, .STR_POS_HELD]) s t) ∧
  (∀ (s t : State), exec .helloSend s = .next t → Changes [.cas, .out] [] s t) ∧
  (∀ (h : CasHdr) (serial : Word) (prio : Byte) (masterCap promote : Bool) (s t : State), exec (.hello h serial prio masterCap
    promote) s = .next t → Changes (cmdWith [.cas]) (cmdAnd [.DIR_CNT1_NACKS, .DIR_BANK_TRK, .DIR_BANK_WAIT, .DIR_BANK_WAIT_MAX,
    .CS_CTL_PORTS, .CS_STAT_STATE, .CS_STAT_MEMBERS, .CS_PORT_LINK, .CS_PORT_PEER_OK, .CS_PORT_PEER, .CS_MEM_REACH,
    .CS_MEM_MASTER_CAP, .CS_MEM_PROMOTE, .CS_MEM_PRIORITY, .CS_MEM_SERIAL_LO]) s t) ∧
  (∀ (h : CasHdr) (f : MemberInfo) (divs : List (BitVec 64)) (s t : State), exec (.member h f divs) s = .next t → ChangesParts
    (cmdWith [.cas]) s t) ∧
  (∀ (h : CasHdr) (island : Option (Fin 8)) (prio : Byte) (serial : Word) (s t : State), exec (.elect h island prio serial) s =
    .next t → Changes [.cas, .out] [] s t) ∧
  (∀ (s t : State), exec .masterSearchTimeout s = .next t → Changes (cmdWith [.cas]) (logAnd [.L2_CNT_LOCK_LOST, .DIR_CNT1_NACKS,
    .DIR_BANK_TRK, .DIR_BANK_WAIT, .DIR_BANK_WAIT_MAX, .CB_CNT_VALUE, .CBD_CNT_VALUE]) s t) ∧
  (∀ (p : Pol) (chk : Option (Nat × Nat)) (s t : State), exec (.tickEdge p chk) s = .next t → Changes (cmdWith [.pols, .te, .cas])
    (logAnd [.ENC_STAT_PAIR_FAULT, .TE_STAT_ROLE_CHANGES, .TE_STAT_MISMATCH, .TK_CFG_WORD, .TK_CTL_PREF, .TK_NOW_NUM,
    .TK_NOW_STATE, .TK_EDGE_PTIME, .TK_EVT_EARLY, .L2_CNT_LOCK_LOST, .CB_CNT_VALUE, .CBD_CNT_VALUE]) s t) ∧
  (∀ (h : CasHdr) (f : CasTick) (s t : State), exec (.tick h f) s = .next t → Changes (cmdWith [.pols, .te, .cas]) (logAnd
    [.ENC_STAT_PAIR_FAULT, .TE_STAT_ROLE_CHANGES, .TE_STAT_MISMATCH, .TK_CFG_WORD, .TK_CTL_PREF, .TK_NOW_NUM, .TK_NOW_STATE,
    .TK_EDGE_PTIME, .TK_EVT_EARLY, .L2_CNT_LOCK_LOST, .CS_STAT_STATE, .CS_CNT_RECONCILES, .CS_CHAN_OFS, .CS_CHAN_STATE,
    .CS_CHAN_MASTER, .CB_CNT_VALUE, .CBD_CNT_VALUE]) s t) ∧
  (∀ (h : CasHdr) (st : Fin 8) (s t : State), exec (.hb h st) s = .next t → Changes [.cas, .out] [] s t) ∧
  (∀ (s t : State), exec .hbSend s = .next t → Changes (logWith [.cas]) (refuseAnd [.CS_STAT_LATE_RISK, .CS_STAT_D_WORST,
    .CS_STAT_MEMBERS, .CS_MEM_REACH]) s t) ∧
  (∀ (m : Fin 16) (route : Bool) (s t : State), exec (.masterLoss m route) s = .next t → Changes (logWith [.cas]) (refuseAnd
    [.CS_STAT_STATE, .CS_STAT_MASTER, .CS_STAT_MEMBERS, .CS_CNT_HOLDOVERS, .CS_MEM_REACH, .CS_CHAN_STATE]) s t) ∧
  (∀ (chan : Fin 8) (s t : State), exec (.holdoverEdge chan) s = .next t → Changes (cmdWith [.pols, .te, .cas]) (logAnd
    [.ENC_STAT_PAIR_FAULT, .TE_STAT_ROLE_CHANGES, .TE_STAT_MISMATCH, .TK_CFG_WORD, .TK_CTL_PREF, .TK_NOW_NUM, .TK_NOW_STATE,
    .TK_EDGE_PTIME, .TK_EVT_EARLY, .L2_CNT_LOCK_LOST, .CB_CNT_VALUE, .CBD_CNT_VALUE]) s t) ∧
  (∀ (chan : Fin 8) (s t : State), exec (.holdoverEnd chan) s = .next t → Changes (logWith [.cas]) (logAnd [.TK_NOW_STATE,
    .CS_CHAN_STATE]) s t) ∧
  (∀ (island : Bool) (chan : Fin 8) (s t : State), exec (.electionWaitEnd island chan) s = .next t → Changes (cmdWith [.cas])
    (logAnd [.TK_NOW_STATE, .L2_CNT_LOCK_LOST, .DIR_CNT1_NACKS, .DIR_BANK_TRK, .DIR_BANK_WAIT, .DIR_BANK_WAIT_MAX,
    .CS_STAT_STATE, .CS_STAT_MASTER, .CS_STAT_LATE_RISK, .CS_STAT_D_WORST, .CS_CHAN_STATE, .CS_CHAN_DIR, .CS_CHAN_MASTER,
    .CS_CHDIV_FRAC, .CS_CHDIV_N, .CB_CNT_VALUE, .CBD_CNT_VALUE]) s t) ∧
  (∀ (h : CasHdr) (index : Fin 16) (chan : Fin 8) (old new : Fin 16) (ofs : BitVec 48) (s t : State), exec (.recon h index chan
    old new ofs) s = .next t → Changes (logWith [.cas]) logFlds s t) ∧
  (∀ (h : CasHdr) (s t : State), exec (.leave h) s = .next t → Changes (logWith [.cas]) (refuseAnd [.CS_STAT_STATE,
    .CS_STAT_MASTER, .CS_STAT_LATE_RISK, .CS_STAT_D_WORST, .CS_STAT_MEMBERS, .CS_CNT_HOLDOVERS, .CS_MEM_REACH, .CS_CHAN_STATE])
    s t) ∧
  (∀ (h : CasHdr) (answer : Option (Word × Word)) (s t : State), exec (.cal h answer) s = .next t → Changes (logWith [.cas])
    (logAnd [.CS_STAT_LATE_RISK, .CS_STAT_D_WORST, .CS_PORT_DELAY]) s t) ∧
  (∀ (port : Fin 4) (s t : State), exec (.calSend port) s = .next t → Changes [.cas, .out] [] s t) ∧
  (∀ (h : CasHdr) (parentTime : Word) (s t : State), exec (.sync h parentTime) s = .next t → Changes (logWith [.te, .cas]) (logAnd
    [.PT_STAT_SRC_OK, .PT_STAT_HOLDOVER, .PT_STAT_SLEWING, .CS_STAT_CONVERGING]) s t) ∧
  (∀ (s t : State), exec .syncSend s = .next t → Changes [.cas, .out] [] s t) ∧
  (∀ (port : Fin 4) (lack : Option (BitVec 16)) (s t : State), exec (.cascadeLinkResend port lack) s = .next t → Changes [.regs,
    .cas, .out] [.CS_CNT_RESENDS] s t) ∧
  (∀ (port : Fin 4) (s t : State), exec (.cascadeLinkDown port) s = .next t → Changes (logWith [.cas]) (refuseAnd [.CS_STAT_STATE,
    .CS_STAT_MASTER, .CS_STAT_LATE_RISK, .CS_STAT_D_WORST, .CS_STAT_MEMBERS, .CS_CNT_HOLDOVERS, .CS_PORT_LINK, .CS_PORT_PEER_OK,
    .CS_MEM_REACH, .CS_CHAN_STATE]) s t) ∧
  (∀ (port : Fin 4) (s t : State), exec (.cascadeLinkUp port) s = .next t → Changes (logWith [.cas]) (logAnd [.CS_PORT_LINK]) s t) ∧
  (∀ (c : Cmd) (s t : State), exec (.cascadeJoin c) s = .next t → Changes (cmdWith [.cas]) (cmdAnd [.CS_CTL_PORTS,
    .CS_CTL_MASTER_CAP, .CS_CTL_PROMOTE, .CS_CTL_PRIORITY, .CS_CTL_CASCADE_ID, .CS_TIMING_L_CASCADE, .CS_TIMING_HOLD_TICKS,
    .CS_TIMING_HOLD_MS, .CS_STAT_STATE, .CS_CHAN_OFS, .CS_CHAN_STATE, .CS_CHAN_ENC, .CS_CHAN_ENC_EN]) s t) ∧
  (∀ (c : Cmd) (s t : State), exec (.cascadeLeave c) s = .next t → Changes (cmdWith [.cas]) (cmdAnd [.TK_NOW_STATE,
    .DIR_CNT1_NACKS, .DIR_BANK_TRK, .DIR_BANK_WAIT, .DIR_BANK_WAIT_MAX, .CS_CTL_PORTS, .CS_STAT_STATE, .CS_STAT_MEMBERS,
    .CS_PORT_LINK, .CS_PORT_PEER_OK, .CS_MEM_REACH, .CS_CHAN_STATE]) s t) ∧
  (∀ (c : Cmd) (s t : State), exec (.setCsTbind c) s = .next t → Changes cmdParts (cmdAnd [.CS_TBIND_CHANNEL, .CS_TBIND_VALID]) s
    t) ∧
  (∀ (c : Cmd) (s t : State), exec (.setRelay c) s = .next t → Changes (cmdWith [.cas]) cmdFlds s t) ∧
  (∀ (h : CasHdr) (hd : Option RelayCmdHead) (data : List Byte) (s t : State), exec (.relayCmd h hd data) s = .next t → Changes
    [.regs, .mem, .poison, .hub, .cp, .cores, .dies, .fabric, .dir, .cas, .out] [.L2_CNT_LOCK_LOST, .CB_CNT_VALUE,
    .CBD_CNT_VALUE] s t) ∧
  (∀ (h : CasHdr) (hd : Option RelayCplHead) (data : List Byte) (s t : State), exec (.relayCpl h hd data) s = .next t → Changes
    [.regs, .mem, .poison, .hub, .cp, .cores, .dies, .fabric, .dir, .cas, .out] [.L2_CNT_LOCK_LOST, .CB_CNT_VALUE,
    .CBD_CNT_VALUE] s t) ∧
  (∀ (h : CasHdr) (x : XferArg) (data : BitVec 512) (s t : State), exec (.put h x data) s = .next t → Changes (logWith [.dies,
    .fabric, .io, .cas]) (refuseAnd [.CB_CNT_VALUE, .CBD_CNT_VALUE]) s t) ∧
  (∀ (h : CasHdr) (x : XferArg) (s t : State), exec (.getReq h x) s = .next t → Changes (logWith [.dies, .fabric, .io, .cas])
    (refuseAnd [.CB_CNT_VALUE, .CBD_CNT_VALUE]) s t) ∧
  (∀ (a : Acc) (h : Half) (v : Word) (s t : State), exec (.csWcommit a h v) s = .next t → Changes logParts (refuseAnd
    [.CS_WTGT_TGT, .CS_WATTR_VALID, .CS_WATTR_RD, .CS_WATTR_WR, .CS_WATTR_POLDER, .CS_WATTR_PAGES]) s t) ∧
  (∀ (a : Acc) (p : Pol) (v : Word) (s t : State), exec (.csSqtail a p v) s = .next t → Changes (logWith [.cas]) (refuseAnd
    [.CS_SQTAIL_VALUE]) s t) ∧
  (∀ (h : CasHdr) (x : XferArg) (s t : State), exec (.putAck h x) s = .next t → Changes [.cas, .out] [] s t) ∧
  (∀ (h : CasHdr) (x : XferArg) (data : BitVec 512) (s t : State), exec (.getData h x data) s = .next t → Changes (logWith [.mem,
    .poison, .hub, .cores, .dies, .fabric, .dir, .cas]) cmdFlds s t) ∧
  (∀ (p : Pol) (s t : State), exec (.transferDone p) s = .next t → Changes (logWith [.mem, .poison, .hub, .pols, .cores, .dies,
    .fabric, .dir, .cas]) (cmdAnd [.CS_CNT_UNREACH]) s t) ∧
  (∀ (c : Cmd) (s t : State), exec (.setSendRing c) s = .next t → Changes (cmdWith [.pols, .cas]) (cmdAnd [.CS_SQTAIL_VALUE]) s t) ∧
  (∀ (g : GCore) (s t : State), exec (.plannedMigration g) s = .next t → Changes (cmdWith [.pols, .berm, .free]) (logAnd
    [.BM_CORES_CD0, .BM_CORES_CD1, .BM_CORES_CD2, .BM_CORES_CD3, .BM_CORES_CD4, .BM_CORES_CD5, .BM_CORES_CD6, .BM_CORES_CD7,
    .BM_CORES_CD8, .BM_CORES_CD9, .BM_CORES_CD10, .BM_CORES_CD11, .GD_STAT_TOKEN_HELD, .GD_STAT_TOKEN_CPU, .GD_CNT1_TOKEN,
    .L2_STAT_LOCKED, .L2_CNT_LOCK_LOST, .AG_MARGIN_STATE, .PV_VOTE_VOTES, .CB_CNT_VALUE, .CBD_CNT_VALUE]) s t) ∧
  (∀ (p : Pol) (l : Byte) (s t : State), exec (.migrationLoad p l) s = .next t → Changes (cmdWith [.te, .berm]) (logAnd
    [.TK_EVT_SKIP, .TK_EVT_LATE, .GD_STAT_RECOVERING, .L2_CNT_LOCK_LOST, .CB_CNT_VALUE, .CBD_CNT_VALUE]) s t) ∧
  (∀ (d : Die) (s t : State), exec (.dieRetire d) s = .next t → ChangesParts (cmdWith [.pols, .berm, .links]) s t) ∧
  (∀ (d : Die) (s t : State), exec (.dieHeartbeatLoss d) s = .next t → ChangesParts (cmdWith [.pols, .berm, .links, .free]) s t) ∧
  (∀ (unit : CacheWay) (s t : State), exec (.cacheWayRetire unit) s = .next t → ChangesParts (cmdWith [.pols, .berm]) s t) ∧
  (∀ (d : Die) (margins : List Byte) (s t : State), exec (.ageingSample d margins) s = .next t → ChangesParts (cmdWith [.pols,
    .berm]) s t) ∧
  (∀ (h : Half) (s t : State), exec (.halfBringIn h) s = .next t → Changes (logWith [.halfLost, .halfReturning, .dir, .mcs, .berm,
    .links]) (logAnd [.STR_STAT_PAIR_LIVE, .LK_STAT_STATE, .LKC_STAT_STATE, .MC_STAT_STATE, .MC_STAT_RESYNC_PCT]) s t) ∧
  (∀ (c : Cmd) (s t : State), exec (.bermRetire c) s = .next t → ChangesParts (cmdWith [.pols, .mcs, .berm, .links, .dike]) s t) ∧
  (∀ (c : Cmd) (s t : State), exec (.bermBringIn c) s = .next t → ChangesParts (cmdWith [.halfLost, .halfReturning, .mcs, .berm,
    .links, .free]) s t) ∧
  (∀ (s t : State), exec .keepBlockFail s = .next t → Changes [.cp] [] s t) ∧
  (∀ (e : Fin 4) (enter : Bool) (s t : State), exec (.d3hotEntry e enter) s = .next t → Changes [.regs, .pe] [.PE_STAT_D3,
    .PV_VOTE_VOTES] s t) ∧
  (∀ (e : Fin 4) (s t : State), exec (.flr e) s = .next t → ChangesParts [.regs, .cp, .pe, .out] s t) ∧
  (∀ (e : Fin 4) (s t : State), exec (.perstAssert e) s = .next t → ChangesParts [.regs, .cp, .pe, .out] s t) ∧
  (∀ (e : Fin 4) (s t : State), exec (.pcieLinkDown e) s = .next t → ChangesParts [.regs, .cp, .pe, .out] s t) ∧
  (∀ (e : Fin 4) (s t : State), exec (.hotReset e) s = .next t → ChangesParts [.regs, .cp, .pe, .out] s t) ∧
  (∀ (e : Fin 4) (s t : State), exec (.perstRelease e) s = .next t → Changes [.regs, .pe] [.PE_STAT_LINK] s t) ∧
  (∀ (e : Fin 4) (speed : Fin 7) (width : Fin 17) (flit : Bool) (s t : State), exec (.pcieLinkUp e speed width flit) s = .next t →
    Changes [.regs] [.PE_STAT_LINK, .PE_STAT_SPEED, .PE_STAT_WIDTH, .PE_STAT_L0P_WIDTH, .PE_STAT_FLIT] s t) ∧
  (∀ (e : Fin 4) (s t : State), exec (.configReady e) s = .next t → Changes [.regs] [.PE_STAT_READY] s t) ∧
  (∀ (e : Fin 4) (vec : Fin 2048) (s t : State), exec (.msixMessage e vec) s = .next t → Changes [.pe, .out] [] s t) ∧
  (∀ (e : Fin 4) (vec : Fin 2048) (s t : State), exec (.msixUnmask e vec) s = .next t → Changes [.pe, .out] [] s t) ∧
  (∀ (e : Fin 4) (s t : State), exec (.intxAssert e) s = .next t → Changes [.pe, .out] [] s t) ∧
  (∀ (e : Fin 4) (type1 write : Bool) (off : BitVec 12) (v : BitVec 32) (s t : State), exec (.configRequest e type1 write off v) s
    = .next t → ChangesParts [.regs, .cp, .pe, .out] s t) ∧
  (∀ (e : Fin 4) (req : BarReq) (start off : Word) (mask : BitVec 64) (data : BitVec 512) (ep : Bool) (ro : Bool) (s t : State),
    exec (.bar2Request e req start off mask data ep ro) s = .next t → Changes (logWith [.dies, .fabric, .io]) (refuseAnd
    [.PE_STAT_LINK, .PE_CNT_REFUSED, .PW_EPOCH_OLDEST_LIVE, .CB_CNT_VALUE, .CBD_CNT_VALUE]) s t) ∧
  (∀ (e : Fin 4) (cid : BitVec 16) (ep : Bool) (s t : State), exec (.completionTimeout e cid ep) s = .next t → Changes [.regs,
    .mem, .poison, .hub, .cp, .cores, .pe, .dies, .fabric, .dir, .out] [.L2_CNT_LOCK_LOST, .PE_CNT_AER_LOST, .CB_CNT_VALUE,
    .CBD_CNT_VALUE] s t) ∧
  (∀ (e : Fin 4) (s t : State), exec (.l1IdleExpired e) s = .next t → Changes [.regs] [.PE_STAT_LINK, .PE_CNT_L1_ENTRIES] s t) ∧
  (∀ (e : Fin 4) (load : Nat) (s t : State), exec (.l0pEvaluate e load) s = .next t → Changes [.regs] [.PE_STAT_LINK,
    .PE_STAT_L0P_WIDTH] s t) ∧
  (∀ (e : Fin 4) (s t : State), exec (.ltrSend e) s = .next t → Changes [.pe, .out] [] s t) ∧
  (∀ (c : Cmd) (s t : State), exec (.windowCommit c) s = .next t → ChangesParts cmdParts s t) ∧
  (∀ (h : Half) (target : Fin 32) (die : Bool) (s t : State), exec (.phySupplyTransient h target die) s = .next t → ChangesParts
    [.regs, .cp, .pe, .links, .out] s t) ∧
  (∀ (hc : Half) (s t : State), exec (.bootVerify hc) s = .next t → Changes logParts (logAnd [.CP_ROLE_STANDBY_READY,
    .PM_PKG_CAUSE]) s t) ∧
  (∀ (r : StartupReport) (s t : State), exec (.startupPhase r) s = .next t → ChangesParts (cmdWith [.pols, .te, .ing, .links,
    .cas, .pow, .free]) s t) ∧
  (∀ (s t : State), exec .pwrfailAssert s = .next t → Changes (cmdWith [.pow]) (logAnd [.L2_CNT_LOCK_LOST, .PM_RAIL_PWRFAIL,
    .PM_RAIL_PF_SAFE, .CB_CNT_VALUE, .CBD_CNT_VALUE]) s t) ∧
  (∀ (s t : State), exec .pwrfailDeassert s = .next t → Changes logParts (logAnd [.PM_RAIL_PWRFAIL, .PM_RAIL_PF_SAFE]) s t) ∧
  (∀ (u : Fin 14) (temps : List Byte) (s t : State), exec (.thermalSample u temps) s = .next t → ChangesParts (cmdWith [.links,
    .pow]) s t) ∧
  (∀ (dom : Domain) (s t : State), exec (.voteDrop dom) s = .next t → Changes (logWith [.pow]) (logAnd [.PV_VOTE_VOTES,
    .PV_VOTE_SLUICE, .PV_STAT_REFUSALS, .PV_STAT_LAST_REFUSER]) s t) ∧
  (∀ (dom : Domain) (s t : State), exec (.sluiceDrained dom) s = .next t → Changes (logWith [.mem, .poison, .hub, .cores, .dies,
    .fabric, .dir, .ing, .links, .pow]) (logAnd [.L2_STAT_LOCKED, .L2_CNT_LOCK_LOST, .HP_STAT_LINK, .HP_STAT_RATE,
    .HP_CNT_LINK_DOWN, .STR_STAT_STATE, .STR_STAT_LEAD, .STR_STAT_PAIR_LIVE, .STR_STAT_FULL, .STR_STAT_LAST_CUT, .STR_POS_NEXT,
    .STR_POS_HELD, .LK_STAT_STATE, .LKC_STAT_STATE, .PM_PKG_STATE, .PM_PKG_P1_ENTRIES, .PV_VOTE_SLUICE, .PV_STAT_ABORTS,
    .PV_STAT_DROPS, .CB_CNT_VALUE, .CBD_CNT_VALUE]) s t) ∧
  (∀ (dom : Domain) (s t : State), exec (.sluiceWake dom) s = .next t → Changes (logWith [.cores, .links]) (logAnd
    [.LK_STAT_STATE, .LKC_STAT_STATE, .PM_PKG_STATE, .PV_VOTE_SLUICE, .PV_STAT_ABORTS]) s t) ∧
  (∀ (g : GCore) (s t : State), exec (.c2IdleExpired g) s = .next t → Changes [.cores] [] s t) ∧
  (∀ (c : Cmd) (s t : State), exec (.powerVote c) s = .next t → Changes (cmdWith [.links]) (cmdAnd [.LK_STAT_STATE,
    .LKC_STAT_STATE, .PM_PKG_STATE, .PV_VOTE_VOTES, .PV_VOTE_SLUICE, .PV_STAT_ABORTS]) s t) ∧
  (∀ (d : Die) (s t : State), exec (.avsStep d) s = .next t → Changes [.regs, .pow] [.DPM_CTL_GUARD_MV, .DPM_CTL_VOLT_MV] s t) ∧
  (∀ (h : Half) (i : Fin 2) (s t : State), exec (.refclkFail h i) s = .next t → Changes logParts (logAnd [.REF_STAT_GOOD_H0,
    .REF_STAT_SEL_H0, .REF_STAT_GOOD_H1, .REF_STAT_SEL_H1, .REF_STAT_SWITCHES]) s t) ∧
  (∀ (h : Half) (i : Fin 2) (s t : State), exec (.refclkRecover h i) s = .next t → Changes [.regs, .pow] [.REF_STAT_GOOD_H0,
    .REF_STAT_SEL_H0, .REF_STAT_GOOD_H1, .REF_STAT_SEL_H1, .PT_STAT_HOLDOVER] s t)
end

