-- ==== Sys2Proof/Laws/Tables.lean ====
section
/-! SUPPORT. Sparse tables and memory: reading after a write, the canonical form and that every table and memory operation
keeps it. -/

set_option Elab.async false
namespace Sys2Proof.Machine

variable {α : Type}

/-! ### Reading after a change -/

@[simp] theorem Tbl.get_nil (d : α) (k : Nat) : Tbl.get d [] k = d := rfl

theorem Tbl.get_erase_same (d : α) (t : Tbl α) (k : Nat) : Tbl.get d (Tbl.erase t k) k = d := by
  induction t with
  | nil => rfl
  | cons x t ih =>
    obtain ⟨j, v⟩ := x
    by_cases h : j = k
    · simpa [Tbl.erase, h] using ih
    · simpa [Tbl.erase, Tbl.get, h] using ih

theorem Tbl.get_erase_ne (d : α) (t : Tbl α) {k j : Nat} (h : j ≠ k) :
    Tbl.get d (Tbl.erase t k) j = Tbl.get d t j := by
  induction t with
  | nil => rfl
  | cons x t ih =>
    obtain ⟨i, v⟩ := x
    by_cases hk : i = k
    · have : i ≠ j := fun e => h (e.symm.trans hk)
      simpa [Tbl.erase, Tbl.get, hk, this, show k ≠ j from fun e => h e.symm] using ih
    · by_cases hj : i = j <;> simp [Tbl.erase, Tbl.get, hk, hj, ih, h]

theorem Tbl.get_insert_same (d : α) (t : Tbl α) (k : Nat) (v : α) (h : ∀ w, (k, w) ∉ t) :
    Tbl.get d (Tbl.insert k v t) k = v := by
  induction t with
  | nil => simp [Tbl.insert, Tbl.get]
  | cons x t ih =>
    obtain ⟨j, w⟩ := x
    have hj : j ≠ k := fun e => h w (by simp [e])
    have ht : ∀ w, (k, w) ∉ t := fun w hw => h w (List.mem_cons_of_mem _ hw)
    by_cases hl : k < j
    · simp [Tbl.insert, hl, Tbl.get]
    · simpa [Tbl.insert, hl, Tbl.get, hj] using ih ht

theorem Tbl.get_insert_ne (d : α) (t : Tbl α) {k j : Nat} (v : α) (h : j ≠ k) :
    Tbl.get d (Tbl.insert k v t) j = Tbl.get d t j := by
  induction t with
  | nil => simp [Tbl.insert, Tbl.get, h.symm]
  | cons x t ih =>
    obtain ⟨i, w⟩ := x
    by_cases hl : k < i
    · simp [Tbl.insert, hl, Tbl.get, h.symm]
    · simp [Tbl.insert, hl, Tbl.get, ih]

theorem Tbl.erase_no_key (t : Tbl α) (k : Nat) (w : α) : (k, w) ∉ Tbl.erase t k := by
  induction t with
  | nil => simp [Tbl.erase]
  | cons x t ih =>
    obtain ⟨j, v⟩ := x
    by_cases h : j = k
    · simpa [Tbl.erase, h] using ih
    · simp [Tbl.erase, h, ih, Ne.symm h]

/-- Reading the key that was set gives the value. -/
@[simp] theorem Tbl.get_set_same [DecidableEq α] (d : α) (t : Tbl α) (k : Nat) (v : α) :
    Tbl.get d (Tbl.set d t k v) k = v := by
  unfold Tbl.set
  split
  · next h => rw [Tbl.get_erase_same, h]
  · exact Tbl.get_insert_same d _ k v (Tbl.erase_no_key t k)

/-- Setting a key leaves every other key as it was. -/
theorem Tbl.get_set_ne [DecidableEq α] (d : α) (t : Tbl α) {k j : Nat} (v : α) (h : j ≠ k) :
    Tbl.get d (Tbl.set d t k v) j = Tbl.get d t j := by
  unfold Tbl.set
  split
  · exact Tbl.get_erase_ne d t h
  · rw [Tbl.get_insert_ne d _ v h, Tbl.get_erase_ne d t h]

theorem Tbl.mem_erase {t : Tbl α} {k : Nat} {x : Nat × α} (h : x ∈ Tbl.erase t k) : x ∈ t := by
  induction t with
  | nil => exact h
  | cons y t ih =>
    obtain ⟨j, v⟩ := y
    by_cases e : j = k
    · exact List.mem_cons_of_mem _ (ih (by simpa [Tbl.erase, e] using h))
    · rcases List.mem_cons.mp (by simpa [Tbl.erase, e] using h) with rfl | h'
      · exact List.mem_cons_self
      · exact List.mem_cons_of_mem _ (ih h')

theorem Tbl.mem_insert {t : Tbl α} {k : Nat} {v : α} {x : Nat × α} (h : x ∈ Tbl.insert k v t) : x = (k, v) ∨ x ∈ t := by
  induction t with
  | nil => exact .inl (by simpa [Tbl.insert] using h)
  | cons y t ih =>
    obtain ⟨j, w⟩ := y
    by_cases e : k < j
    · simpa [Tbl.insert, e] using h
    · rcases List.mem_cons.mp (by simpa [Tbl.insert, e] using h) with rfl | h'
      · exact .inr List.mem_cons_self
      · rcases ih h' with h' | h'
        · exact .inl h'
        · exact .inr (List.mem_cons_of_mem _ h')

/-! ### The canonical form -/

/-- Every key of a table is at least `n` and keys rise strictly, no entry equal to the default. -/
def Tbl.from_ [DecidableEq α] (d : α) : Nat → Tbl α → Prop
  | _, [] => True
  | n, (j, v) :: t => n ≤ j ∧ v ≠ d ∧ Tbl.from_ d (j + 1) t

theorem Tbl.from_mono [DecidableEq α] (d : α) : ∀ (t : Tbl α) {m n : Nat}, m ≤ n → Tbl.from_ d n t → Tbl.from_ d m t
  | [], _, _, _, _ => trivial
  | (_, _) :: _, _, _, h, ⟨h1, h2, h3⟩ => ⟨Nat.le_trans h h1, h2, h3⟩

theorem Tbl.wf_iff [DecidableEq α] (d : α) : ∀ t : Tbl α, Tbl.wf d t = true ↔ Tbl.from_ d 0 t
  | [] => by simp [Tbl.wf, Tbl.from_]
  | [(j, v)] => by simp [Tbl.wf, Tbl.from_]
  | (j, v) :: (k, w) :: t => by
    have ih := Tbl.wf_iff d ((k, w) :: t)
    simp only [Tbl.wf, Tbl.from_, Bool.and_eq_true, decide_eq_true_eq] at ih ⊢
    rw [ih]
    constructor
    · rintro ⟨⟨h1, h2⟩, _, h4, h5⟩
      exact ⟨Nat.zero_le _, h1, h2, h4, h5⟩
    · rintro ⟨_, h1, h2, h4, h5⟩
      exact ⟨⟨h1, h2⟩, Nat.zero_le _, h4, h5⟩

theorem Tbl.from_erase [DecidableEq α] (d : α) (k : Nat) : ∀ (t : Tbl α) {n : Nat},
    Tbl.from_ d n t → Tbl.from_ d n (Tbl.erase t k)
  | [], _, _ => trivial
  | (j, v) :: t, n, ⟨h1, h2, h3⟩ => by
    by_cases h : j = k
    · simpa [Tbl.erase, h] using Tbl.from_mono d _ (by omega) (Tbl.from_erase d k t h3)
    · simp only [Tbl.erase, if_neg h]
      exact ⟨h1, h2, Tbl.from_erase d k t h3⟩

theorem Tbl.from_insert [DecidableEq α] (d : α) (k : Nat) (v : α) (hv : v ≠ d) : ∀ (t : Tbl α) {n : Nat}, n ≤ k →
    (∀ w, (k, w) ∉ t) → Tbl.from_ d n t → Tbl.from_ d n (Tbl.insert k v t)
  | [], _, hn, _, _ => ⟨hn, hv, trivial⟩
  | (j, w) :: t, n, hn, hk, ⟨h1, h2, h3⟩ => by
    have hj : j ≠ k := fun e => hk w (by simp [e])
    by_cases h : k < j
    · simp only [Tbl.insert, if_pos h]
      exact ⟨hn, hv, by omega, h2, h3⟩
    · simp only [Tbl.insert, if_neg h]
      exact ⟨h1, h2, Tbl.from_insert d k v hv t (by omega) (fun w hw => hk w (List.mem_cons_of_mem _ hw)) h3⟩

/-- Setting a key keeps the canonical form. -/
theorem Tbl.wf_set [DecidableEq α] (d : α) (t : Tbl α) (k : Nat) (v : α) (h : Tbl.wf d t = true) :
    Tbl.wf d (Tbl.set d t k v) = true := by
  rw [Tbl.wf_iff] at h ⊢
  unfold Tbl.set
  split
  · exact Tbl.from_erase d k t h
  · next hv => exact Tbl.from_insert d k v hv _ (Nat.zero_le _) (Tbl.erase_no_key t k) (Tbl.from_erase d k t h)

/-! ### Memory -/

/-- A byte reads back as written. -/
theorem memByte_memPut (m : List Host.Cell) (a b : Nat) (v : Byte) :
    memByte (memPut m a v) b = if b = a then v else memByte m b := by
  unfold memByte memPut
  split
  · next h => subst h; exact Tbl.get_set_same _ _ _ _
  · next h => exact Tbl.get_set_ne _ _ _ h

theorem Memory.wf_memPut (m : List Host.Cell) (a : Nat) (v : Byte) (h : Memory.wf m = true) :
    Memory.wf (memPut m a v) = true := Tbl.wf_set _ _ _ _ h

theorem Memory.wf_memPutAll (bs : List Byte) : ∀ (m : List Host.Cell) (a : Nat), Memory.wf m = true →
    Memory.wf (memPutAll m a bs) = true := by
  induction bs with
  | nil => intro m a h; exact h
  | cons b bs ih => intro m a h; exact ih _ _ (Memory.wf_memPut m a b h)

/-- Either half's copy is canonical where both are, and stays so when one is replaced by a canonical one. -/
theorem Two.memOk_get (s : State) (h : Nat) (hm : s.memOk = true) : Memory.wf (s.mem.get h) = true := by
  simp only [State.memOk, Bool.and_eq_true] at hm
  unfold Two.get
  split
  · exact hm.1
  · exact hm.2

theorem Two.memOk_set (s : State) (h : Nat) (m : List Host.Cell) (hm : s.memOk = true) (hw : Memory.wf m = true) :
    (Memory.wf (s.mem.set h m).h0 && Memory.wf (s.mem.set h m).h1) = true := by
  simp only [State.memOk, Bool.and_eq_true] at hm ⊢
  unfold Two.set
  split
  · exact ⟨hw, hm.2⟩
  · exact ⟨hm.1, hw⟩

end Sys2Proof.Machine
end

