-- ==== Sys2Proof/Laws/State.lean ====
section
/-! SUPPORT. Reading a register field, a core, a polder or a queue after a change of the state. -/

set_option Elab.async false
namespace Sys2Proof.Machine

/-! ### Register fields -/

theorem lookup_insert_same (l : List (Nat × Nat)) (k v : Nat) (h : ∀ w, (k, w) ∉ l) :
    (Tbl.insert k v l).lookup k = some v := by
  induction l with
  | nil => simp [Tbl.insert]
  | cons x t ih =>
    obtain ⟨j, w⟩ := x
    have hj : k ≠ j := fun e => h w (by simp [e])
    have ht : ∀ w, (k, w) ∉ t := fun w hw => h w (List.mem_cons_of_mem _ hw)
    by_cases hl : k < j
    · simp [Tbl.insert, hl]
    · simp [Tbl.insert, hl, List.lookup, beq_false_of_ne hj, ih ht]

theorem lookup_insert_ne {α : Type} (l : List (Nat × α)) {k j : Nat} (v : α) (h : j ≠ k) :
    (Tbl.insert k v l).lookup j = l.lookup j := by
  induction l with
  | nil => simp [Tbl.insert, List.lookup, beq_false_of_ne h]
  | cons x t ih =>
    obtain ⟨i, w⟩ := x
    by_cases hl : k < i
    · simp [Tbl.insert, hl, List.lookup, beq_false_of_ne h]
    · simp [Tbl.insert, hl, List.lookup, ih]

theorem lookup_erase_ne {α : Type} (l : List (Nat × α)) {k j : Nat} (h : j ≠ k) :
    (Tbl.erase l k).lookup j = l.lookup j := by
  induction l with
  | nil => rfl
  | cons x t ih =>
    obtain ⟨i, w⟩ := x
    by_cases hi : i = k
    · simp [Tbl.erase, hi, List.lookup, beq_false_of_ne h, ih]
    · simp [Tbl.erase, hi, List.lookup, ih]

theorem Fld.ctorIdx_inj {f g : Fld} (h : f.ctorIdx = g.ctorIdx) : f = g := by
  rw [← Fld.ofNat_ctorIdx f, h, Fld.ofNat_ctorIdx]

theorem Fld.key_ne {f g : Fld} {i j : Nat} (h : g ≠ f ∨ j % 65536 ≠ i % 65536) : g.key j ≠ f.key i := by
  intro e
  simp only [Fld.key] at e
  rcases h with h | h
  · exact h (Fld.ctorIdx_inj (by omega))
  · exact h (by omega)

/-- A field reads as it was written, cut to its width. -/
theorem State.get_put_same (s : State) (f : Fld) (i v : Nat) : (s.put f i v).get f i = v % 2 ^ f.width := by
  unfold State.get State.put
  rw [lookup_insert_same _ _ _ (Tbl.erase_no_key _ _)]

/-- Writing a field leaves every other field and every other instance as they were. -/
theorem State.get_put_ne (s : State) {f g : Fld} {i j : Nat} (v : Nat) (h : g ≠ f ∨ j % 65536 ≠ i % 65536) :
    (s.put f i v).get g j = s.get g j := by
  unfold State.get State.put
  rw [lookup_insert_ne _ _ (Fld.key_ne h), lookup_erase_ne _ (Fld.key_ne h)]

end Sys2Proof.Machine
end

