-- ==== Sys2Proof/Laws/Keeps.lean ====
section
/-! SUPPORT. What every operation keeps: the canonical form of both memory copies, the widths of the register fields, the
queue of waiting commands, and every part of the state and every register field that it does not name. `Keeps m w r s`
says so from `r` to `s`; the sets `m` of parts and `w` of fields are masks of bits, and each operation has one lemma
`<operation>_keeps`. -/

set_option Elab.async false
namespace Sys2Proof.Machine

/-- Every bit of mask `a` is in mask `b`. -/
@[reducible] def within (a b : Nat) : Prop := Nat.land a b = a

theorem within_iff (a b : Nat) : within a b ↔ ∀ i, a.testBit i = true → b.testBit i = true := by
  have e : ∀ i, (Nat.land a b).testBit i = (a.testBit i && b.testBit i) := fun i => Nat.testBit_and a b i
  unfold within
  constructor
  · intro h i hi
    have := e i
    rw [h, hi] at this
    simpa using this.symm
  · intro h
    refine Nat.eq_of_testBit_eq fun i => ?_
    rw [e]
    cases ha : a.testBit i
    · rfl
    · simp [h i ha]

theorem within_trans {a b c : Nat} (h : within a b) (k : within b c) : within a c :=
  (within_iff a c).mpr fun i hi => (within_iff b c).mp k i ((within_iff a b).mp h i hi)

theorem within_bit {a b i : Nat} (h : within a b) (k : a.testBit i = true) : b.testBit i = true :=
  (within_iff a b).mp h i k

/-- The masks of a part and of a field. -/
def Part.mask (p : Part) : Nat := 2 ^ p.ctorIdx
def Fld.mask (f : Fld) : Nat := 2 ^ f.ctorIdx

theorem within_ite {c : Prop} [Decidable c] {f g : Fld} {w : Nat} (hf : within f.mask w) (hg : within g.mask w) :
    within (Fld.mask (if c then f else g)) w := by split <;> assumption

/-- The mask of every field. -/
def Fld.maskAll : Nat := 2 ^ 494 - 1

theorem Fld.ctorIdx_lt (f : Fld) : f.ctorIdx < 494 := by cases f <;> decide

theorem Fld.within_all (f : Fld) : within f.mask Fld.maskAll := by
  refine (within_iff _ _).mpr fun i hi => ?_
  rw [Fld.mask, Nat.testBit_two_pow] at hi
  rw [Fld.maskAll, Nat.testBit_two_pow_sub_one]
  simpa [← of_decide_eq_true hi] using f.ctorIdx_lt

theorem testBit_of_mask {i m : Nat} (h : within (2 ^ i) m) : m.testBit i = true :=
  within_bit h (by simp)

/-- From `r` to `s` the memory stays canonical, register fields stay within their widths, the queue stays, and so does
every part not in `m` and every field not in `w`. -/
structure Keeps (m w : Nat) (r s : State) : Prop where
  mem : r.memOk = true → s.memOk = true
  fit : r.fieldsFit → s.fieldsFit
  pending : s.pending = r.pending
  part : ∀ p : Part, m.testBit p.ctorIdx = false → p.same r s
  reg : ∀ (f : Fld) (i : Nat), w.testBit f.ctorIdx = false → s.get f i = r.get f i

theorem Keeps.refl (m w : Nat) (s : State) : Keeps m w s s :=
  ⟨id, id, rfl, fun p _ => by cases p <;> rfl, fun _ _ _ => rfl⟩

/-- The same for the first part of a pair, for what an option holds, and for an outcome. -/
def Keeps.Opt (m w : Nat) (r : State) : Option State → Prop
  | some t => Keeps m w r t
  | none => True
def Keeps.OptFst {α : Type} (m w : Nat) (r : State) : Option (State × α) → Prop
  | some t => Keeps m w r t.1
  | none => True
def Keeps.OptSnd {α : Type} (m w : Nat) (r : State) : Option (α × State) → Prop
  | some t => Keeps m w r t.2
  | none => True
def Keeps.Opt4 {α β γ : Type} (m w : Nat) (r : State) : Option (α × β × γ × State) → Prop
  | some t => Keeps m w r t.2.2.2
  | none => True
def Keeps.Res (m w : Nat) (r : State) : Host.Outcome State Fault Refusal → Prop
  | .next t => Keeps m w r t
  | .fault _ => True
  | .refused _ => True
def Keeps.Tr (m w : Nat) (r : State) : Tr → Prop
  | .ok t _ _ => Keeps m w r t
  | .exc t => Keeps m w r t
  | .wait t => Keeps m w r t
def Keeps.Lock (m w : Nat) (r : State) : LockRes → Prop
  | .placed t _ => Keeps m w r t
  | .ends t _ => Keeps m w r t
  | .wait t => Keeps m w r t
def Keeps.Tx (m w : Nat) (r : State) : Machine.Tx → Prop
  | .ok t _ _ => Keeps m w r t
  | .fault t _ => Keeps m w r t
  | .key t _ => Keeps m w r t
  | .wait t => Keeps m w r t
def Keeps.OptTx (m w : Nat) (r : State) : Option Machine.Tx → Prop
  | some x => Keeps.Tx m w r x
  | none => True
def Keeps.Ad (m w : Nat) (r : State) : AdRes → Prop
  | .made t => Keeps m w r t
  | .refused t => Keeps m w r t
  | .differs t => Keeps m w r t
  | .wait t => Keeps m w r t
def Keeps.Err (m w : Nat) (r : State) : ErrRes → Prop
  | .goOn t => Keeps m w r t
  | .ended t => Keeps m w r t

theorem Part.same_trans {p : Part} {r s t : State} (h : p.same r s) (k : p.same s t) : p.same r t := by
  cases p <;> exact Eq.trans k h

section
variable {α β : Type} {m w : Nat} {r s t : State}

theorem Keeps.opt {o : Option State} (h : Keeps.Opt m w r o) (e : o = some t) : Keeps m w r t := by subst e; exact h
theorem Keeps.fst {o : State × α} {a : α} (h : Keeps m w r o.1) (e : o = (t, a)) : Keeps m w r t := by subst e; exact h
theorem Keeps.optFst {o : Option (State × α)} {a : α} (h : Keeps.OptFst m w r o) (e : o = some (t, a)) : Keeps m w r t := by
  subst e; exact h
theorem Keeps.optSnd {o : Option (α × State)} {a : α} (h : Keeps.OptSnd m w r o) (e : o = some (a, t)) : Keeps m w r t := by
  subst e; exact h
theorem Keeps.opt4 {γ : Type} {o : Option (α × β × γ × State)} {a : α} {b : β} {c : γ} (h : Keeps.Opt4 m w r o)
    (e : o = some (a, b, c, t)) : Keeps m w r t := by subst e; exact h


theorem Keeps.trGetOk {o : Machine.Tr} {a : Nat} {b : Bool} (h : Keeps.Tr m w r o) (e : o = .ok t a b) : Keeps m w r t := by
  subst e; exact h
theorem Keeps.trGetExc {o : Machine.Tr} (h : Keeps.Tr m w r o) (e : o = .exc t) : Keeps m w r t := by subst e; exact h
theorem Keeps.trGetWait {o : Machine.Tr} (h : Keeps.Tr m w r o) (e : o = .wait t) : Keeps m w r t := by subst e; exact h
theorem Keeps.lockGet {o : LockRes} {a : Nat} (h : Keeps.Lock m w r o) (e : o = .placed t a) : Keeps m w r t := by
  subst e; exact h
theorem Keeps.lockGetEnds {o : LockRes} {a : Nat} (h : Keeps.Lock m w r o) (e : o = .ends t a) : Keeps m w r t := by
  subst e; exact h
theorem Keeps.lockGetWait {o : LockRes} (h : Keeps.Lock m w r o) (e : o = .wait t) : Keeps m w r t := by subst e; exact h
theorem Keeps.txGetOk {o : Machine.Tx} {a : Nat} {b : Bool} (h : Keeps.Tx m w r o) (e : o = .ok t a b) : Keeps m w r t := by
  subst e; exact h
theorem Keeps.txGetFault {o : Machine.Tx} {f : WFault} (h : Keeps.Tx m w r o) (e : o = .fault t f) : Keeps m w r t := by
  subst e; exact h
theorem Keeps.txGetKey {o : Machine.Tx} {k : Nat} (h : Keeps.Tx m w r o) (e : o = .key t k) : Keeps m w r t := by
  subst e; exact h
theorem Keeps.txGetWait {o : Machine.Tx} (h : Keeps.Tx m w r o) (e : o = .wait t) : Keeps m w r t := by subst e; exact h
theorem Keeps.optTxGet {o : Option Machine.Tx} {x : Machine.Tx} (h : Keeps.OptTx m w r o) (e : o = some x) :
    Keeps.Tx m w r x := by subst e; exact h
theorem Keeps.optTxOk {o : Option Machine.Tx} {a : Nat} {b : Bool} (h : Keeps.OptTx m w r o) (e : o = some (.ok t a b)) :
    Keeps m w r t := by subst e; exact h
theorem Keeps.adGetMade {o : AdRes} (h : Keeps.Ad m w r o) (e : o = .made t) : Keeps m w r t := by subst e; exact h
theorem Keeps.adGetRefused {o : AdRes} (h : Keeps.Ad m w r o) (e : o = .refused t) : Keeps m w r t := by subst e; exact h
theorem Keeps.adGetDiffers {o : AdRes} (h : Keeps.Ad m w r o) (e : o = .differs t) : Keeps m w r t := by subst e; exact h
theorem Keeps.adGetWait {o : AdRes} (h : Keeps.Ad m w r o) (e : o = .wait t) : Keeps m w r t := by subst e; exact h
theorem Keeps.errGetOn {o : ErrRes} (h : Keeps.Err m w r o) (e : o = .goOn t) : Keeps m w r t := by subst e; exact h
theorem Keeps.errGetEnd {o : ErrRes} (h : Keeps.Err m w r o) (e : o = .ended t) : Keeps m w r t := by subst e; exact h

theorem Keeps.trOk {a : Nat} {b : Bool} (h : Keeps m w r t) : Keeps.Tr m w r (.ok t a b) := h
theorem Keeps.trExc (h : Keeps m w r t) : Keeps.Tr m w r (.exc t) := h
theorem Keeps.trWait (h : Keeps m w r t) : Keeps.Tr m w r (.wait t) := h
theorem Keeps.lockPlaced {a : Nat} (h : Keeps m w r t) : Keeps.Lock m w r (.placed t a) := h
theorem Keeps.lockEnds {a : Nat} (h : Keeps m w r t) : Keeps.Lock m w r (.ends t a) := h
theorem Keeps.lockWait (h : Keeps m w r t) : Keeps.Lock m w r (.wait t) := h
theorem Keeps.txOk {a : Nat} {b : Bool} (h : Keeps m w r t) : Keeps.Tx m w r (.ok t a b) := h
theorem Keeps.txFault {f : WFault} (h : Keeps m w r t) : Keeps.Tx m w r (.fault t f) := h
theorem Keeps.txKey {k : Nat} (h : Keeps m w r t) : Keeps.Tx m w r (.key t k) := h
theorem Keeps.txWait (h : Keeps m w r t) : Keeps.Tx m w r (.wait t) := h
theorem Keeps.optTxNone : Keeps.OptTx m w r none := trivial
theorem Keeps.optTxSome {x : Machine.Tx} (h : Keeps.Tx m w r x) : Keeps.OptTx m w r (some x) := h
theorem Keeps.adMade (h : Keeps m w r t) : Keeps.Ad m w r (.made t) := h
theorem Keeps.adRefused (h : Keeps m w r t) : Keeps.Ad m w r (.refused t) := h
theorem Keeps.adDiffers (h : Keeps m w r t) : Keeps.Ad m w r (.differs t) := h
theorem Keeps.adWait (h : Keeps m w r t) : Keeps.Ad m w r (.wait t) := h
theorem Keeps.errOn (h : Keeps m w r t) : Keeps.Err m w r (.goOn t) := h
theorem Keeps.errEnd (h : Keeps m w r t) : Keeps.Err m w r (.ended t) := h
theorem Keeps.next (h : Keeps m w r t) : Keeps.Res m w r (.next t) := h
theorem Keeps.optNone : Keeps.Opt m w r none := trivial
theorem Keeps.optSome (h : Keeps m w r t) : Keeps.Opt m w r (some t) := h
theorem Keeps.optFstNone : Keeps.OptFst (α := α) m w r none := trivial
theorem Keeps.optFstSome {a : α} (h : Keeps m w r t) : Keeps.OptFst m w r (some (t, a)) := h
theorem Keeps.optSndNone : Keeps.OptSnd (α := α) m w r none := trivial
theorem Keeps.optSndSome {a : α} (h : Keeps m w r t) : Keeps.OptSnd m w r (some (a, t)) := h
theorem Keeps.opt4None {γ : Type} : Keeps.Opt4 (α := α) (β := β) (γ := γ) m w r none := trivial
theorem Keeps.opt4Some {γ : Type} {a : α} {b : β} {c : γ} (h : Keeps m w r t) : Keeps.Opt4 m w r (some (a, b, c, t)) := h
theorem Keeps.ite {c : Prop} [Decidable c] {a b : State} (ha : Keeps m w r a) (hb : Keeps m w r b) :
    Keeps m w r (if c then a else b) := by split <;> assumption
theorem Keeps.iteFst {c : Prop} [Decidable c] {a b : State × α} (ha : Keeps m w r a.1) (hb : Keeps m w r b.1) :
    Keeps m w r (if c then a else b).1 := by split <;> assumption
theorem Keeps.iteOpt {c : Prop} [Decidable c] {a b : Option State} (ha : Keeps.Opt m w r a) (hb : Keeps.Opt m w r b) :
    Keeps.Opt m w r (if c then a else b) := by split <;> assumption
theorem Keeps.iteOpt4 {γ : Type} {c : Prop} [Decidable c] {a b : Option (α × β × γ × State)} (ha : Keeps.Opt4 m w r a)
    (hb : Keeps.Opt4 m w r b) : Keeps.Opt4 m w r (if c then a else b) := by split <;> assumption
theorem Keeps.iteErr {c : Prop} [Decidable c] {a b : ErrRes} (ha : Keeps.Err m w r a) (hb : Keeps.Err m w r b) :
    Keeps.Err m w r (if c then a else b) := by split <;> assumption
theorem Keeps.map {o : Option State} {f : State → State} (ho : Keeps.Opt m w r o) (hf : ∀ t, Keeps m w r t → Keeps m w r (f t)) :
    Keeps.Opt m w r (o.map f) := by
  cases o
  · trivial
  · exact hf _ ho
theorem Keeps.elimSnd {γ : Type} {o : Option γ} {b : Option (α × State)} {f : γ → Option (α × State)}
    (hb : Keeps.OptSnd m w r b) (hf : ∀ x, Keeps.OptSnd m w r (f x)) : Keeps.OptSnd m w r (o.elim b f) := by
  cases o
  · exact hb
  · exact hf _
theorem Keeps.getD {o : Option State} (h : Keeps m w r s) (ho : Keeps.Opt m w r o) : Keeps m w r (o.getD s) := by
  cases o
  · exact h
  · exact ho
theorem Keeps.foldl {f : State → α → State} {l : List α} (h : Keeps m w r s) (hf : ∀ s x, Keeps m w r s → Keeps m w r (f s x)) :
    Keeps m w r (l.foldl f s) := by
  induction l generalizing s with
  | nil => exact h
  | cons x l ih => exact ih (hf _ _ h)
theorem Keeps.foldlFst {f : State × β → α → State × β} {l : List α} {p : State × β} (h : Keeps m w r p.1)
    (hf : ∀ p x, Keeps m w r p.1 → Keeps m w r (f p x).1) : Keeps m w r (l.foldl f p).1 := by
  induction l generalizing p with
  | nil => exact h
  | cons x l ih => exact ih (hf _ _ h)

/-- A change that leaves memory, registers, the definitions held and the queue alone. -/
theorem Keeps.record {a1 a2 a3 a4 a5 a6 a7 a8 a9 a10 a11 a12 a13 a14 a15 a16 a17 a18 a19 a20 a21 pw a22 a23 a24}
    (h : Keeps m w r s) (hp : pw.defs = s.pow.defs)
    (hm : ∀ p : Part, m.testBit p.ctorIdx = false → p.same s (State.mk s.regs s.mem a1 a2 a3 a4 a5 a6 a7 a8 a9 a10 a11 a12
      a13 a14 a15 a16 a17 a18 a19 a20 a21 a24 pw a22 a23 s.pending)) :
    Keeps m w r (State.mk s.regs s.mem a1 a2 a3 a4 a5 a6 a7 a8 a9 a10 a11 a12 a13 a14 a15 a16 a17 a18 a19 a20 a21 a24 pw a22
      a23 s.pending) :=
  ⟨fun x => h.mem x, fun x => ⟨(h.fit x).1, fun d e => (h.fit x).2 d (hp.symm.trans e)⟩, h.pending,
   fun p hp => Part.same_trans (h.part p hp) (hm p hp), fun f i hw => h.reg f i hw⟩

end

end Sys2Proof.Machine
end

