-- ==== Sys2Proof/Laws/KeepsOps.lean ====
section
/-! SUPPORT. The operations of Machine/Ops.lean keep the memory form, the field widths and the queue. -/

set_option Elab.async false
namespace Sys2Proof.Machine

theorem State.put_keeps {mP wF : Nat} {r0 : State} (s : State) (f : Fld) (i v : Nat) (hk : Keeps mP wF r0 s)
    (hm0 : within 1 mP) (hw0 : within f.mask wF) : Keeps mP wF r0 (s.put f i v) := by
  refine ⟨hk.mem, fun x => ⟨?_, (hk.fit x).2⟩, hk.pending, fun p hp => Part.same_trans (hk.part p hp) ?_, fun g j hg => ?_⟩
  · intro y hy
    rcases Tbl.mem_insert hy with rfl | hy
    · intro g hg
      have hk : f.ctorIdx = g.ctorIdx := by
        rw [← hg]; simp only [Fld.key]; omega
      have : f = g := by rw [← Fld.ofNat_ctorIdx f, hk, Fld.ofNat_ctorIdx]
      subst this
      exact Nat.mod_lt _ (Nat.pow_pos (by decide))
    · exact (hk.fit x).1 y (Tbl.mem_erase hy)
  · cases p <;> first
      | exact rfl
      | exact absurd (hp.symm.trans (within_bit hm0 (by decide +kernel))) Bool.false_ne_true
  · rw [← hk.reg g j hg]
    refine State.get_put_ne s v (.inl fun e => ?_)
    subst e
    exact absurd (hg.symm.trans (testBit_of_mask hw0)) Bool.false_ne_true

theorem State.bump_keeps {mP wF : Nat} {r0 : State} (s : State) (f : Fld) (i : Nat) (n : Nat) (hk : Keeps mP wF r0 s) (hf : within f.mask wF) (hm0 : within 0x1 mP) : Keeps mP wF r0 (State.bump s f i n) := by
  unfold State.bump; try dsimp only
  with_reducible
    repeat' first
      | assumption | exact within_trans (by decide +kernel) hm0 | apply State.put_keeps

theorem State.setFlag_keeps {mP wF : Nat} {r0 : State} (s : State) (f : Fld) (i : Nat) (b : Bool) (hk : Keeps mP wF r0 s) (hf : within f.mask wF) (hm0 : within 0x1 mP) : Keeps mP wF r0 (State.setFlag s f i b) := by
  unfold State.setFlag; try dsimp only
  with_reducible
    repeat' first
      | assumption | exact within_trans (by decide +kernel) hm0 | apply State.put_keeps

theorem State.setVote_keeps {mP wF : Nat} {r0 : State} (s : State) (d : Nat) (c : Nat) (b : Bool) (hk : Keeps mP wF r0 s) (hm0 : within 0x1 mP) (hw0 : within 0x100000000000000000000000000000000000000000000000000000000000000000000000000000000000000000000000000000 wF) : Keeps mP wF r0 (State.setVote s d c b) := by
  unfold State.setVote; try dsimp only
  with_reducible
    repeat' first
      | assumption | exact within_trans (by decide +kernel) hm0 | exact within_trans (by decide +kernel) hw0
      | apply State.put_keeps

theorem State.emit_keeps {mP wF : Nat} {r0 : State} (s : State) (x : Wire) (hk : Keeps mP wF r0 s)
    (hm0 : within 0x2000000 mP) : Keeps mP wF r0 (s.emit x) :=
  Keeps.record hk rfl fun p hp => by
    cases p <;> first
      | exact rfl
      | exact absurd (hp.symm.trans (within_bit hm0 (by decide +kernel))) Bool.false_ne_true

theorem State.drawn_keeps {mP wF : Nat} {r0 : State} (s : State)  (hk : Keeps mP wF r0 s)
    (hm0 : within 0x4000000 mP) : Keeps mP wF r0 (s.drawn ) :=
  Keeps.record hk rfl fun p hp => by
    cases p <;> first
      | exact rfl
      | exact absurd (hp.symm.trans (within_bit hm0 (by decide +kernel))) Bool.false_ne_true

theorem State.setPolder_keeps {mP wF : Nat} {r0 : State} (s : State) (q : Nat) (v : Option Polder) (hk : Keeps mP wF r0 s)
    (hm0 : within 0x80 mP) : Keeps mP wF r0 (s.setPolder q v) :=
  Keeps.record hk rfl fun p hp => by
    cases p <;> first
      | exact rfl
      | exact absurd (hp.symm.trans (within_bit hm0 (by decide +kernel))) Bool.false_ne_true

theorem State.updPolder_keeps {mP wF : Nat} {r0 : State} (s : State) (p : Nat) (f : Polder → Polder) (hk : Keeps mP wF r0 s) (hm0 : within 0x80 mP) : Keeps mP wF r0 (State.updPolder s p f) := by
  unfold State.updPolder; try dsimp only
  with_reducible
    repeat' first
      | assumption | exact within_trans (by decide +kernel) hm0 | apply State.setPolder_keeps | split | dsimp only

theorem State.setCore_keeps {mP wF : Nat} {r0 : State} (s : State) (g : Nat) (c : Core) (hk : Keeps mP wF r0 s)
    (hm0 : within 0x400 mP) : Keeps mP wF r0 (s.setCore g c) :=
  Keeps.record hk rfl fun p hp => by
    cases p <;> first
      | exact rfl
      | exact absurd (hp.symm.trans (within_bit hm0 (by decide +kernel))) Bool.false_ne_true

theorem State.updCore_keeps {mP wF : Nat} {r0 : State} (s : State) (g : Nat) (f : Core → Core) (hk : Keeps mP wF r0 s) (hm0 : within 0x400 mP) : Keeps mP wF r0 (State.updCore s g f) := by
  unfold State.updCore; try dsimp only
  with_reducible
    repeat' first
      | assumption | exact within_trans (by decide +kernel) hm0 | apply State.setCore_keeps

theorem State.updTick_keeps {mP wF : Nat} {r0 : State} (s : State) (g : Nat) (f : CoreTick → CoreTick) (hk : Keeps mP wF r0 s) (hm0 : within 0x400 mP) : Keeps mP wF r0 (State.updTick s g f) := by
  unfold State.updTick; try dsimp only
  with_reducible
    repeat' first
      | intro _ | assumption | exact within_trans (by decide +kernel) hm0 | apply State.updCore_keeps | dsimp only

theorem State.updDie_keeps {mP wF : Nat} {r0 : State} (s : State) (d : Nat) (f : DieSt → DieSt) (hk : Keeps mP wF r0 s)
    (hm0 : within 0x1000 mP) : Keeps mP wF r0 (s.updDie d f) :=
  Keeps.record hk rfl fun p hp => by
    cases p <;> first
      | exact rfl
      | exact absurd (hp.symm.trans (within_bit hm0 (by decide +kernel))) Bool.false_ne_true

theorem State.writeByteHalf_keeps {mP wF : Nat} {r0 : State} (s : State) (h a : Nat) (b : Byte) (hk : Keeps mP wF r0 s)
    (hm0 : within 0x2 mP) : Keeps mP wF r0 (s.writeByteHalf h a b) :=
  ⟨fun x => Two.memOk_set _ h _ (hk.mem x) (Memory.wf_memPut _ _ _ (Two.memOk_get _ h (hk.mem x))), hk.fit, hk.pending,
   fun p hp => Part.same_trans (hk.part p hp) (by
    cases p <;> first
      | exact rfl
      | exact absurd (hp.symm.trans (within_bit hm0 (by decide +kernel))) Bool.false_ne_true), hk.reg⟩

theorem State.ramWriteByte_keeps {mP wF : Nat} {r0 : State} (s : State) (a : Nat) (b : Byte) (hk : Keeps mP wF r0 s) (hm0 : within 0x2 mP) : Keeps mP wF r0 (State.ramWriteByte s a b) := by
  unfold State.ramWriteByte; try dsimp only
  with_reducible
    repeat' first
      | assumption | exact within_trans (by decide +kernel) hm0 | apply State.writeByteHalf_keeps | apply Keeps.ite
      | split | dsimp only

theorem State.ramWrite_keeps {mP wF : Nat} {r0 : State} (s : State) (a : Nat) (bs : List Byte) (hk : Keeps mP wF r0 s)
    (hm0 : within 0x2 mP) : Keeps mP wF r0 (s.ramWrite a bs) := by
  induction bs generalizing s a with
  | nil => exact hk
  | cons b bs ih => exact ih _ _ (State.ramWriteByte_keeps s a b hk hm0)

theorem State.writeLineHalf_keeps {mP wF : Nat} {r0 : State} (s : State) (h la : Nat) (l : Line) (hk : Keeps mP wF r0 s)
    (hm0 : within 0x2 mP) : Keeps mP wF r0 (s.writeLineHalf h la l) :=
  ⟨fun x => Two.memOk_set _ h _ (hk.mem x) (Memory.wf_memPutAll _ _ _ (Two.memOk_get _ h (hk.mem x))), hk.fit, hk.pending,
   fun p hp => Part.same_trans (hk.part p hp) (by
    cases p <;> first
      | exact rfl
      | exact absurd (hp.symm.trans (within_bit hm0 (by decide +kernel))) Bool.false_ne_true), hk.reg⟩

theorem State.ramWriteLine_keeps {mP wF : Nat} {r0 : State} (s : State) (la : Nat) (l : Line) (hk : Keeps mP wF r0 s) (hm0 : within 0x2 mP) : Keeps mP wF r0 (State.ramWriteLine s la l) := by
  unfold State.ramWriteLine; try dsimp only
  with_reducible
    repeat' first
      | assumption | exact within_trans (by decide +kernel) hm0 | apply State.ramWrite_keeps

theorem State.setPoison_keeps {mP wF : Nat} {r0 : State} (s : State) (h : Nat) (la : Nat) (p : Bool) (hk : Keeps mP wF r0 s) (hm0 : within 0x4 mP) : Keeps mP wF r0 (State.setPoison s h la p) := by
  unfold State.setPoison; try dsimp only
  with_reducible
    repeat' first
      | intro _ | assumption | exact within_trans (by decide +kernel) hm0 | apply Keeps.ite | split
      | refine Keeps.record ?_ rfl (fun p hp => by cases p <;> first | exact absurd (hp.symm.trans (within_bit hm0 (by decide +kernel))) Bool.false_ne_true | with_unfolding_all exact rfl)
      | dsimp only

theorem State.poisonAll_keeps {mP wF : Nat} {r0 : State} (s : State) (la : Nat) (p : Bool) (hk : Keeps mP wF r0 s) (hm0 : within 0x4 mP) : Keeps mP wF r0 (State.poisonAll s la p) := by
  unfold State.poisonAll; try dsimp only
  with_reducible
    repeat' first
      | assumption | exact within_trans (by decide +kernel) hm0 | apply State.setPoison_keeps | apply Keeps.ite
      | split | dsimp only

theorem State.settleWb_keeps {mP wF : Nat} {r0 : State} (s : State) (la : Nat) (hk : Keeps mP wF r0 s) (hm0 : within 0x9401 mP) (hw0 : within 0x8400000000000000000000000000000000000000000000000000000000000000000000000000000000000000000000000000000000000 wF) : Keeps mP wF r0 (State.settleWb s la) := by
  unfold State.settleWb; try dsimp only
  with_reducible
    repeat' first
      | intro _ | assumption | exact within_trans (by decide +kernel) hm0 | exact within_trans (by decide +kernel) hw0
      | apply State.writeback_keeps | apply Keeps.ite | split
      | refine Keeps.record ?_ rfl (fun p hp => by cases p <;> first | exact absurd (hp.symm.trans (within_bit hm0 (by decide +kernel))) Bool.false_ne_true | with_unfolding_all exact rfl)
      | dsimp only | apply within_ite

theorem State.mapCores_keeps {mP wF : Nat} {r0 : State} (s : State) (f : Core → Core) (hk : Keeps mP wF r0 s)
    (hm0 : within 0x400 mP) : Keeps mP wF r0 (s.mapCores f) :=
  Keeps.record hk rfl fun p hp => by
    cases p <;> first
      | exact rfl
      | exact absurd (hp.symm.trans (within_bit hm0 (by decide +kernel))) Bool.false_ne_true

theorem State.setCores_keeps {mP wF : Nat} {r0 : State} (s : State) (x : Tbl Core) (hk : Keeps mP wF r0 s)
    (hm0 : within 0x400 mP) : Keeps mP wF r0 (s.setCores x) :=
  Keeps.record hk rfl fun p hp => by
    cases p <;> first
      | exact rfl
      | exact absurd (hp.symm.trans (within_bit hm0 (by decide +kernel))) Bool.false_ne_true

theorem State.mapDies_keeps {mP wF : Nat} {r0 : State} (s : State) (f : DieSt → DieSt) (hk : Keeps mP wF r0 s)
    (hm0 : within 0x1000 mP) : Keeps mP wF r0 (s.mapDies f) :=
  Keeps.record hk rfl fun p hp => by
    cases p <;> first
      | exact rfl
      | exact absurd (hp.symm.trans (within_bit hm0 (by decide +kernel))) Bool.false_ne_true

theorem State.updDirs_keeps {mP wF : Nat} {r0 : State} (s : State) (f : DirHalf → DirHalf) (hk : Keeps mP wF r0 s)
    (hm0 : within 0x10000 mP) : Keeps mP wF r0 (s.updDirs f) :=
  Keeps.record hk rfl fun p hp => by
    cases p <;> first
      | exact rfl
      | exact absurd (hp.symm.trans (within_bit hm0 (by decide +kernel))) Bool.false_ne_true

theorem State.updFabric_keeps {mP wF : Nat} {r0 : State} (s : State) (f : List Msg → List Msg) (hk : Keeps mP wF r0 s)
    (hm0 : within 0x8000 mP) : Keeps mP wF r0 (s.updFabric f) :=
  Keeps.record hk rfl fun p hp => by
    cases p <;> first
      | exact rfl
      | exact absurd (hp.symm.trans (within_bit hm0 (by decide +kernel))) Bool.false_ne_true

theorem State.updIo_keeps {mP wF : Nat} {r0 : State} (s : State) (f : List IoTx → List IoTx) (hk : Keeps mP wF r0 s)
    (hm0 : within 0x20000 mP) : Keeps mP wF r0 (s.updIo f) :=
  Keeps.record hk rfl fun p hp => by
    cases p <;> first
      | exact rfl
      | exact absurd (hp.symm.trans (within_bit hm0 (by decide +kernel))) Bool.false_ne_true

theorem State.setHalf_keeps {mP wF : Nat} {r0 : State} (s : State) (h : Nat) (b1 : Bool) (b2 : Bool) (hk : Keeps mP wF r0 s)
    (hm0 : within 0x6000 mP) : Keeps mP wF r0 (s.setHalf h b1 b2) :=
  Keeps.record hk rfl fun p hp => by
    cases p <;> first
      | exact rfl
      | exact absurd (hp.symm.trans (within_bit hm0 (by decide +kernel))) Bool.false_ne_true

theorem State.updCp_keeps {mP wF : Nat} {r0 : State} (s : State) (f : CmdPlane → CmdPlane) (hk : Keeps mP wF r0 s)
    (hm0 : within 0x10 mP) : Keeps mP wF r0 (s.updCp f) :=
  Keeps.record hk rfl fun p hp => by
    cases p <;> first
      | exact rfl
      | exact absurd (hp.symm.trans (within_bit hm0 (by decide +kernel))) Bool.false_ne_true

theorem State.updBerm_keeps {mP wF : Nat} {r0 : State} (s : State) (f : Berm → Berm) (hk : Keeps mP wF r0 s)
    (hm0 : within 0x80000 mP) : Keeps mP wF r0 (s.updBerm f) :=
  Keeps.record hk rfl fun p hp => by
    cases p <;> first
      | exact rfl
      | exact absurd (hp.symm.trans (within_bit hm0 (by decide +kernel))) Bool.false_ne_true

theorem State.lockLost_keeps {mP wF : Nat} {r0 : State} (s : State) (la : Nat) (y0 : Tbl Core) (hk : Keeps mP wF r0 s)
    (hm0 : within 0x1 mP) (hw0 : within 0x100000000000000000000000000000000000000000 wF) : Keeps mP wF r0 (State.lockLost s la y0) := by
  induction y0 with
  | nil => exact hk
  | cons x l ih =>
    obtain ⟨g, c⟩ := x
    unfold State.lockLost
    dsimp only
    repeat' first
      | with_reducible exact ih
      | with_reducible exact within_trans (by decide +kernel) hm0
      | with_reducible exact within_trans (by decide +kernel) hw0
      | with_reducible apply State.bump_keeps
      | with_reducible apply Keeps.ite
      | split

theorem State.loseLine_keeps {mP wF : Nat} {r0 : State} (s : State) (la : Nat) (hk : Keeps mP wF r0 s) (hm0 : within 0x11401 mP) (hw0 : within 0x100000000000000000000000000000000000000000 wF) : Keeps mP wF r0 (State.loseLine s la) := by
  unfold State.loseLine; try dsimp only
  with_reducible
    repeat' first
      | intro _ | assumption | exact within_trans (by decide +kernel) hm0 | exact within_trans (by decide +kernel) hw0
      | apply State.mapCores_keeps | apply State.mapDies_keeps | apply State.updDirs_keeps
      | apply State.lockLost_keeps | apply Keeps.ite | split | dsimp only | apply within_ite

theorem State.cleanLine_keeps {mP wF : Nat} {r0 : State} (s : State) (la : Nat) (hk : Keeps mP wF r0 s) (hm0 : within 0x9407 mP) (hw0 : within 0x8400000000000000000000000000000000000000000000000000000000000000000000000000000000000000000000000000000000000 wF) : Keeps mP wF r0 (State.cleanLine s la) := by
  unfold State.cleanLine; try dsimp only
  with_reducible
    repeat' first
      | assumption | exact within_trans (by decide +kernel) hm0 | exact within_trans (by decide +kernel) hw0
      | apply State.ramWriteLine_keeps | apply State.poisonAll_keeps | apply State.settleWb_keeps | split | dsimp only

theorem State.recallLine_keeps {mP wF : Nat} {r0 : State} (s : State) (la : Nat) (hk : Keeps mP wF r0 s) (hm0 : within 0x19407 mP) (hw0 : within 0x8400000000000000000000000000000000000000000000000000000000000000000100000000000000000000000000000000000000000 wF) : Keeps mP wF r0 (State.recallLine s la) := by
  unfold State.recallLine; try dsimp only
  with_reducible
    repeat' first
      | assumption | exact within_trans (by decide +kernel) hm0 | exact within_trans (by decide +kernel) hw0
      | apply State.loseLine_keeps | apply State.cleanLine_keeps

theorem State.hubWait_keeps {mP wF : Nat} {r0 : State} (s : State) (g : Nat) (x : HubWrite) (hk : Keeps mP wF r0 s) (hm0 : within 0x408 mP) : Keeps mP wF r0 (State.hubWait s g x) := by
  unfold State.hubWait; try dsimp only
  with_reducible
    repeat' first
      | intro _ | assumption | exact within_trans (by decide +kernel) hm0 | apply State.updCore_keeps
      | apply Keeps.ite | split
      | refine Keeps.record ?_ rfl (fun p hp => by cases p <;> first | exact absurd (hp.symm.trans (within_bit hm0 (by decide +kernel))) Bool.false_ne_true | with_unfolding_all exact rfl)
      | dsimp only

theorem State.writeLine_keeps {mP wF : Nat} {r0 : State} (s : State) (la : Nat) (l : Line) (mask : BitVec 64) (hk : Keeps mP wF r0 s) (hm0 : within 0x1940f mP) (hw0 : within 0x8400000000000000000000000000000000000000000000000000000000000000000100000000000000000000000000000000000000000 wF) : Keeps mP wF r0 (State.writeLine s la l mask) := by
  unfold State.writeLine; try dsimp only
  with_reducible
    repeat' first
      | assumption | exact within_trans (by decide +kernel) hm0 | exact within_trans (by decide +kernel) hw0
      | apply State.ramWriteLine_keeps | apply State.poisonAll_keeps | apply State.settleWb_keeps
      | apply State.recallLine_keeps | apply State.hubWait_keeps | apply Keeps.ite | split | dsimp only
      | apply within_ite

theorem State.hubRecall_keeps {mP wF : Nat} {r0 : State} (s : State) (la : Nat) (cmd : Option Cmd) (hk : Keeps mP wF r0 s) (hm0 : within 0x1940f mP) (hw0 : within 0x8400000000000000000000000000000000000000000000000000000000000000000100000000000000000000000000000000000000000 wF) : Keeps mP wF r0 (State.hubRecall s la cmd) := by
  unfold State.hubRecall; try dsimp only
  with_reducible
    repeat' first
      | assumption | exact within_trans (by decide +kernel) hm0 | exact within_trans (by decide +kernel) hw0
      | apply State.recallLine_keeps | apply State.hubWait_keeps | split | dsimp only

theorem State.writeBytes_keeps {mP wF : Nat} {r0 : State} (s : State) (a : Nat) (bs : List Byte) (hk : Keeps mP wF r0 s) (hm0 : within 0x1940f mP) (hw0 : within 0x8400000000000000000000000000000000000000000000000000000000000000000100000000000000000000000000000000000000000 wF) : Keeps mP wF r0 (State.writeBytes s a bs) := by
  unfold State.writeBytes; try dsimp only
  with_reducible
    repeat' first
      | intro _ | assumption | exact within_trans (by decide +kernel) hm0 | exact within_trans (by decide +kernel) hw0
      | apply State.ramWrite_keeps | apply State.poisonAll_keeps | apply State.settleWb_keeps
      | apply State.recallLine_keeps | apply State.writeLine_keeps | apply Keeps.foldl | apply Keeps.foldlFst
      | apply Keeps.ite | split | dsimp only | apply within_ite

theorem State.hubApply_keeps {mP wF : Nat} {r0 : State} (s : State) (la : Nat) (hk : Keeps mP wF r0 s) (hm0 : within 0x1940f mP) (hw0 : within 0x8400000000000000000000000000000000000000000000000000000000000000000100000000000000000000000000000000000000000 wF) : Keeps mP wF r0 (State.hubApply s la).1 := by
  unfold State.hubApply; try dsimp only
  with_reducible
    repeat' first
      | intro _ | assumption | exact within_trans (by decide +kernel) hm0 | exact within_trans (by decide +kernel) hw0
      | apply State.recallLine_keeps | apply State.writeLine_keeps | apply Keeps.foldl | apply Keeps.foldlFst
      | apply Keeps.ite | apply Keeps.iteFst | split
      | refine Keeps.record ?_ rfl (fun p hp => by cases p <;> first | exact absurd (hp.symm.trans (within_bit hm0 (by decide +kernel))) Bool.false_ne_true | with_unfolding_all exact rfl)
      | dsimp only | apply within_ite

end Sys2Proof.Machine
end

