-- ==== Sys2Proof/Laws/KeepsTraps.lean ====
section
/-! SUPPORT. The operations of Machine/Traps.lean keep the memory form, the field widths and the queue. -/

set_option Elab.async false
namespace Sys2Proof.Machine

theorem State.countOne_keeps {mP wF : Nat} {r0 : State} (s : State) (g : Nat) (i : Nat) (ev : Nat) (n : Nat) (hk : Keeps mP wF r0 s) (hm0 : within 0x400 mP) : Keeps mP wF r0 (State.countOne s g i ev n) := by
  unfold State.countOne; try dsimp only
  with_reducible
    repeat' first
      | intro _ | assumption | exact within_trans (by decide +kernel) hm0 | apply State.updCore_keeps
      | apply Keeps.ite | split | dsimp only

theorem State.countCore_keeps {mP wF : Nat} {r0 : State} (s : State) (g : Nat) (ev : Nat) (n : Nat) (hk : Keeps mP wF r0 s) (hm0 : within 0x400 mP) : Keeps mP wF r0 (State.countCore s g ev n) := by
  unfold State.countCore; try dsimp only
  with_reducible
    repeat' first
      | intro _ | assumption | exact within_trans (by decide +kernel) hm0 | apply State.countOne_keeps
      | apply Keeps.foldl | apply Keeps.foldlFst | dsimp only

theorem State.countFixed_keeps {mP wF : Nat} {r0 : State} (s : State) (g : Nat) (num : Nat) (bit : Nat) (n : Nat) (hk : Keeps mP wF r0 s) (hm0 : within 0x400 mP) : Keeps mP wF r0 (State.countFixed s g num bit n) := by
  unfold State.countFixed; try dsimp only
  with_reducible
    repeat' first
      | intro _ | assumption | exact within_trans (by decide +kernel) hm0 | apply State.updCore_keeps
      | apply Keeps.ite | split | dsimp only

theorem State.takeExc_keeps {mP wF : Nat} {r0 : State} (s : State) (g : Nat) (e : Exc) (resume : Word) (hk : Keeps mP wF r0 s) (hm0 : within 0x400 mP) : Keeps mP wF r0 (State.takeExc s g e resume) := by
  unfold State.takeExc; try dsimp only
  with_reducible
    repeat' first
      | intro _ | assumption | exact within_trans (by decide +kernel) hm0 | apply State.updCore_keeps
      | apply State.countCore_keeps | apply Keeps.ite | split | dsimp only

theorem State.syncExc_keeps {mP wF : Nat} {r0 : State} (s : State) (g : Nat) (cls : Nat) (detail : Nat) (l : Nat) (addr : Word) (hk : Keeps mP wF r0 s) (hm0 : within 0x400 mP) : Keeps mP wF r0 (State.syncExc s g cls detail l addr) := by
  unfold State.syncExc; try dsimp only
  with_reducible
    repeat' first
      | assumption | exact within_trans (by decide +kernel) hm0 | apply State.takeExc_keeps

theorem State.illegal_keeps {mP wF : Nat} {r0 : State} (s : State) (g : Nat) (word : Nat) (hk : Keeps mP wF r0 s) (hm0 : within 0x400 mP) : Keeps mP wF r0 (State.illegal s g word) := by
  unfold State.illegal; try dsimp only
  with_reducible
    repeat' first
      | assumption | exact within_trans (by decide +kernel) hm0 | apply State.syncExc_keeps

theorem State.belowLevel_keeps {mP wF : Nat} {r0 : State} (s : State) (g : Nat) (func : Nat) (sub : Nat) (need : Nat) (hk : Keeps mP wF r0 s) (hm0 : within 0x400 mP) : Keeps mP wF r0 (State.belowLevel s g func sub need) := by
  unfold State.belowLevel; try dsimp only
  with_reducible
    repeat' first
      | intro _ | assumption | exact within_trans (by decide +kernel) hm0 | apply State.syncExc_keeps

theorem State.takeMc_keeps {mP wF : Nat} {r0 : State} (s : State) (g : Nat) (source : Nat) (addr : Word) (hk : Keeps mP wF r0 s) (hm0 : within 0x400 mP) : Keeps mP wF r0 (State.takeMc s g source addr) := by
  unfold State.takeMc; try dsimp only
  with_reducible
    repeat' first
      | assumption | exact within_trans (by decide +kernel) hm0 | apply State.takeExc_keeps | apply Keeps.ite | split
      | dsimp only

theorem State.machineCheck_keeps {mP wF : Nat} {r0 : State} (s : State) (g : Nat) (source : Nat) (addr : Word) (hk : Keeps mP wF r0 s) (hm0 : within 0x400 mP) : Keeps mP wF r0 (State.machineCheck s g source addr) := by
  unfold State.machineCheck; try dsimp only
  with_reducible
    repeat' first
      | intro _ | assumption | exact within_trans (by decide +kernel) hm0 | apply State.updTick_keeps
      | apply State.takeMc_keeps | apply Keeps.ite | split | dsimp only

theorem State.takeInt_keeps {mP wF : Nat} {r0 : State} (s : State) (g : Nat) (hk : Keeps mP wF r0 s) (hm0 : within 0x400 mP) : Keeps mP wF r0 (State.takeInt s g) := by
  unfold State.takeInt; try dsimp only
  with_reducible
    repeat' first
      | intro _ | assumption | exact within_trans (by decide +kernel) hm0 | apply State.updCore_keeps
      | apply State.takeExc_keeps | split | dsimp only

theorem State.admitInt_keeps {mP wF : Nat} {r0 : State} (s : State) (g : Nat) (hk : Keeps mP wF r0 s) (hm0 : within 0x400 mP) : Keeps mP wF r0 (State.admitInt s g) := by
  unfold State.admitInt; try dsimp only
  with_reducible
    repeat' first
      | intro _ | assumption | exact within_trans (by decide +kernel) hm0 | apply State.updCore_keeps
      | apply State.takeInt_keeps | apply Keeps.ite | split
      | refine Keeps.record ?_ rfl (fun p hp => by cases p <;> first | exact absurd (hp.symm.trans (within_bit hm0 (by decide +kernel))) Bool.false_ne_true | with_unfolding_all exact rfl)
      | dsimp only

theorem State.smpRetired_keeps {mP wF : Nat} {r0 : State} (s : State) (g : Nat) (hk : Keeps mP wF r0 s) (hm0 : within 0x4000400 mP) : Keeps mP wF r0 (State.smpRetired s g) := by
  unfold State.smpRetired; try dsimp only
  with_reducible
    repeat' first
      | intro _ | assumption | exact within_trans (by decide +kernel) hm0 | apply State.drawn_keeps
      | apply State.updCore_keeps | apply Keeps.ite | split | dsimp only

theorem State.countRetired_keeps {mP wF : Nat} {r0 : State} (s : State) (g : Nat) (hk : Keeps mP wF r0 s) (hm0 : within 0x4000400 mP) : Keeps mP wF r0 (State.countRetired s g) := by
  unfold State.countRetired; try dsimp only
  with_reducible
    repeat' first
      | assumption | exact within_trans (by decide +kernel) hm0 | apply State.countCore_keeps
      | apply State.countFixed_keeps | apply State.smpRetired_keeps

theorem State.retireTo_keeps {mP wF : Nat} {r0 : State} (s : State) (g : Nat) (pc : Word) (hk : Keeps mP wF r0 s) (hm0 : within 0x4000400 mP) : Keeps mP wF r0 (State.retireTo s g pc) := by
  unfold State.retireTo; try dsimp only
  with_reducible
    repeat' first
      | intro _ | assumption | exact within_trans (by decide +kernel) hm0 | apply State.updCore_keeps
      | apply State.admitInt_keeps | apply State.countRetired_keeps | dsimp only

theorem State.retire_keeps {mP wF : Nat} {r0 : State} (s : State) (g : Nat) (hk : Keeps mP wF r0 s) (hm0 : within 0x4000400 mP) : Keeps mP wF r0 (State.retire s g) := by
  unfold State.retire; try dsimp only
  with_reducible
    repeat' first
      | assumption | exact within_trans (by decide +kernel) hm0 | apply State.retireTo_keeps

end Sys2Proof.Machine
end

