-- ==== Sys2Proof/Laws/KeepsFlags.lean ====
section
/-! SUPPORT. The operations of Machine/Flags.lean keep the memory form, the field widths and the queue. -/

set_option Elab.async false
namespace Sys2Proof.Machine

theorem State.updRcd_keeps {mP wF : Nat} {r0 : State} (s : State) (h : Nat) (f : Recorder → Recorder) (hk : Keeps mP wF r0 s)
    (hm0 : within 0x20 mP) : Keeps mP wF r0 (s.updRcd h f) :=
  Keeps.record hk rfl fun p hp => by
    cases p <;> first
      | exact rfl
      | exact absurd (hp.symm.trans (within_bit hm0 (by decide +kernel))) Bool.false_ne_true

theorem State.recDrop_keeps {mP wF : Nat} {r0 : State} (s : State) (h : Nat) (p : Nat) (pview : Bool) (hk : Keeps mP wF r0 s) (hm0 : within 0x21 mP) (hw0 : within 0x804000000000000000000000000000000000000000000000000000000000000000000000000000000000000000000000000000000000000000 wF) : Keeps mP wF r0 (State.recDrop s h p pview) := by
  unfold State.recDrop; try dsimp only
  with_reducible
    repeat' first
      | intro _ | assumption | exact within_trans (by decide +kernel) hm0 | exact within_trans (by decide +kernel) hw0
      | apply State.bump_keeps | apply State.updRcd_keeps | apply Keeps.ite | split | dsimp only | apply within_ite

theorem State.recPut_keeps {mP wF : Nat} {r0 : State} (s : State) (h : Nat) (r : Rec) (hk : Keeps mP wF r0 s) (hm0 : within 0x21 mP) (hw0 : within 0xc17000000000000000000000000000000000000000000000000000000000000000000000000000000000000000000000000000000000000000 wF) : Keeps mP wF r0 (State.recPut s h r) := by
  unfold State.recPut; try dsimp only
  with_reducible
    repeat' first
      | intro _ | assumption | exact within_trans (by decide +kernel) hm0 | exact within_trans (by decide +kernel) hw0
      | apply State.put_keeps | apply State.setFlag_keeps | apply State.updRcd_keeps | apply State.recDrop_keeps
      | apply Keeps.ite | split | dsimp only | apply within_ite

theorem State.recEvent_keeps {mP wF : Nat} {r0 : State} (s : State) (h : Nat) (e : Event) (dup : Bool) (raised : Nat) (hk : Keeps mP wF r0 s) (hm0 : within 0x21 mP) (hw0 : within 0xc1f000000000000000000000000000000000000000000000000000000000000000000000000000000000000000000000000000000000000000 wF) : Keeps mP wF r0 (State.recEvent s h e dup raised) := by
  unfold State.recEvent; try dsimp only
  with_reducible
    repeat' first
      | intro _ | assumption | exact within_trans (by decide +kernel) hm0 | exact within_trans (by decide +kernel) hw0
      | apply State.put_keeps | apply State.updRcd_keeps | apply State.recDrop_keeps | apply State.recPut_keeps
      | apply Keeps.ite | split | dsimp only | apply within_ite

theorem State.errorLog_keeps {mP wF : Nat} {r0 : State} (s : State) (e : Event) (raised : Nat) (hk : Keeps mP wF r0 s) (hm0 : within 0x10 mP) : Keeps mP wF r0 (State.errorLog s e raised) := by
  unfold State.errorLog; try dsimp only
  with_reducible
    repeat' first
      | intro _ | assumption | exact within_trans (by decide +kernel) hm0 | apply State.updCp_keeps | apply Keeps.ite
      | split | dsimp only

theorem State.updPe_keeps {mP wF : Nat} {r0 : State} (s : State) (e : Nat) (f : PeSt → PeSt) (hk : Keeps mP wF r0 s)
    (hm0 : within 0x800 mP) : Keeps mP wF r0 (s.updPe e f) :=
  Keeps.record hk rfl fun p hp => by
    cases p <;> first
      | exact rfl
      | exact absurd (hp.symm.trans (within_bit hm0 (by decide +kernel))) Bool.false_ne_true

theorem State.aerMessage_keeps {mP wF : Nat} {r0 : State} (s : State) (e : Nat) (uncorrectable : Bool) (bit : Nat) (hk : Keeps mP wF r0 s) (hm0 : within 0x2000000 mP) : Keeps mP wF r0 (State.aerMessage s e uncorrectable bit) := by
  unfold State.aerMessage; try dsimp only
  with_reducible
    repeat' first
      | assumption | exact within_trans (by decide +kernel) hm0 | apply State.emit_keeps | apply Keeps.ite | split
      | dsimp only

theorem State.aer_keeps {mP wF : Nat} {r0 : State} (s : State) (e : Nat) (uncorrectable : Bool) (internal : Bool) (bit : Nat) (hdr : List Nat) (hk : Keeps mP wF r0 s) (hm0 : within 0x2000801 mP) (hw0 : within 0x20000000000000000000000000000000000000000000000000000000000000000000000000000000000000000000000 wF) : Keeps mP wF r0 (State.aer s e uncorrectable internal bit hdr) := by
  unfold State.aer; try dsimp only
  with_reducible
    repeat' first
      | intro _ | assumption | exact within_trans (by decide +kernel) hm0 | exact within_trans (by decide +kernel) hw0
      | apply State.bump_keeps | apply State.updPe_keeps | apply State.aerMessage_keeps | apply Keeps.ite | split
      | dsimp only | apply within_ite

theorem State.aerEvent_keeps {mP wF : Nat} {r0 : State} (s : State) (e : Nat) (seq : Nat) (ev : Event) (hk : Keeps mP wF r0 s) (hm0 : within 0x2000801 mP) (hw0 : within 0x20000000000000000000000000000000000000000000000000000000000000000000000000000000000000000000000 wF) : Keeps mP wF r0 (State.aerEvent s e seq ev) := by
  unfold State.aerEvent; try dsimp only
  with_reducible
    repeat' first
      | assumption | exact within_trans (by decide +kernel) hm0 | exact within_trans (by decide +kernel) hw0
      | apply State.aer_keeps | apply Keeps.ite | split | dsimp only | apply within_ite

theorem State.logEv_keeps {mP wF : Nat} {r0 : State} (s : State) (h : Nat) (e : Event) (dup : Bool) (hk : Keeps mP wF r0 s) (hm0 : within 0x2000831 mP) (hw0 : within 0xc1f000000000000000020000000000000000000000000000000000000000000000000000000000000000000000000000000000000000000000 wF) : Keeps mP wF r0 (State.logEv s h e dup) := by
  unfold State.logEv; try dsimp only
  with_reducible
    repeat' first
      | assumption | exact within_trans (by decide +kernel) hm0 | exact within_trans (by decide +kernel) hw0
      | apply State.recEvent_keeps | apply State.errorLog_keeps | apply State.aerEvent_keeps

theorem State.logSec_keeps {mP wF : Nat} {r0 : State} (s : State) (h : Nat) (n : Nat) (code : Nat) (args : List Nat) (hk : Keeps mP wF r0 s) (hm0 : within 0x2000831 mP) (hw0 : within 0xc1f000000000000000020000000000000000000000000000000000000000000000000000000000000000000000000000000000000000000000 wF) : Keeps mP wF r0 (State.logSec s h n code args) := by
  unfold State.logSec; try dsimp only
  with_reducible
    repeat' first
      | assumption | exact within_trans (by decide +kernel) hm0 | exact within_trans (by decide +kernel) hw0
      | apply State.logEv_keeps

theorem State.logPol_keeps {mP wF : Nat} {r0 : State} (s : State) (h : Nat) (n : Nat) (code : Nat) (p : Nat) (args : List Nat) (hide : Nat) (hk : Keeps mP wF r0 s) (hm0 : within 0x2000831 mP) (hw0 : within 0xc1f000000000000000020000000000000000000000000000000000000000000000000000000000000000000000000000000000000000000000 wF) : Keeps mP wF r0 (State.logPol s h n code p args hide) := by
  unfold State.logPol; try dsimp only
  with_reducible
    repeat' first
      | assumption | exact within_trans (by decide +kernel) hm0 | exact within_trans (by decide +kernel) hw0
      | apply State.logEv_keeps

theorem State.logPolSec_keeps {mP wF : Nat} {r0 : State} (s : State) (h : Nat) (n : Nat) (code : Nat) (p : Nat) (args : List Nat) (hk : Keeps mP wF r0 s) (hm0 : within 0x2000831 mP) (hw0 : within 0xc1f000000000000000020000000000000000000000000000000000000000000000000000000000000000000000000000000000000000000000 wF) : Keeps mP wF r0 (State.logPolSec s h n code p args) := by
  unfold State.logPolSec; try dsimp only
  with_reducible
    repeat' first
      | assumption | exact within_trans (by decide +kernel) hm0 | exact within_trans (by decide +kernel) hw0
      | apply State.logEv_keeps

theorem State.logDie_keeps {mP wF : Nat} {r0 : State} (s : State) (d : Nat) (code : Nat) (p : Nat) (args : List Nat) (hide : Nat) (hk : Keeps mP wF r0 s) (hm0 : within 0x2000831 mP) (hw0 : within 0xc1f000000000000000020000000000000000000000000000000000000000000000000000000000000000000000000000000000000000000000 wF) : Keeps mP wF r0 (State.logDie s d code p args hide) := by
  unfold State.logDie; try dsimp only
  with_reducible
    repeat' first
      | assumption | exact within_trans (by decide +kernel) hm0 | exact within_trans (by decide +kernel) hw0
      | apply State.logEv_keeps

theorem State.logPols_keeps {mP wF : Nat} {r0 : State} (s : State) (h : Nat) (n : Nat) (code : Nat) (ps : List Nat) (args : List Nat) (hk : Keeps mP wF r0 s) (hm0 : within 0x2000831 mP) (hw0 : within 0xc1f000000000000000020000000000000000000000000000000000000000000000000000000000000000000000000000000000000000000000 wF) : Keeps mP wF r0 (State.logPols s h n code ps args) := by
  unfold State.logPols; try dsimp only
  with_reducible
    repeat' first
      | intro _ | assumption | exact within_trans (by decide +kernel) hm0 | exact within_trans (by decide +kernel) hw0
      | apply State.logEv_keeps | apply State.logSec_keeps | apply State.logPol_keeps | apply Keeps.foldl
      | apply Keeps.foldlFst | split | dsimp only

theorem State.refuse_keeps {mP wF : Nat} {r0 : State} (s : State) (h : Nat) (src : Agent) (pol : Nat) (sec : Bool) (addr : Nat) (kind : Nat) (hk : Keeps mP wF r0 s) (hm0 : within 0x2000831 mP) (hw0 : within 0xc1f000000000000000020000000000000000000000000000000000000000000000000000000000000000000000000400000000000000000000 wF) : Keeps mP wF r0 (State.refuse s h src pol sec addr kind) := by
  unfold State.refuse; try dsimp only
  with_reducible
    repeat' first
      | intro _ | assumption | exact within_trans (by decide +kernel) hm0 | exact within_trans (by decide +kernel) hw0
      | apply State.bump_keeps | apply State.updRcd_keeps | apply State.logEv_keeps | apply Keeps.ite | split
      | dsimp only | apply within_ite

theorem State.raiseInt_keeps {mP wF : Nat} {r0 : State} (s : State) (p : Nat) (l : Nat) (id : Nat) (hk : Keeps mP wF r0 s) (hm0 : within 0x400 mP) : Keeps mP wF r0 (State.raiseInt s p l id) := by
  unfold State.raiseInt; try dsimp only
  with_reducible
    repeat' first
      | intro _ | assumption | exact within_trans (by decide +kernel) hm0 | apply State.updCore_keeps
      | apply State.admitInt_keeps | split | dsimp only

theorem State.tickFault_keeps {mP wF : Nat} {r0 : State} (s : State) (p : Nat) (hk : Keeps mP wF r0 s) (hm0 : within 0x400 mP) : Keeps mP wF r0 (State.tickFault s p) := by
  unfold State.tickFault; try dsimp only
  with_reducible
    repeat' first
      | assumption | exact within_trans (by decide +kernel) hm0 | apply State.raiseInt_keeps

theorem State.countHub1_keeps {mP wF : Nat} {r0 : State} (s : State) (h : Nat) (b : Nat) (i : Nat) (ev : Nat) (unit : Nat) (tag : Option Nat) (n : Nat) (hk : Keeps mP wF r0 s) (hm0 : within 0x1 mP) (hw0 : within 0x400000000000000000000000000000000000000000000000000000000000000000000000000000000000000000000000000000000000 wF) : Keeps mP wF r0 (State.countHub1 s h b i ev unit tag n) := by
  unfold State.countHub1; try dsimp only
  with_reducible
    repeat' first
      | assumption | exact within_trans (by decide +kernel) hm0 | exact within_trans (by decide +kernel) hw0
      | apply State.put_keeps | apply Keeps.ite | split | dsimp only | apply within_ite

theorem State.countHub_keeps {mP wF : Nat} {r0 : State} (s : State) (h : Nat) (ev : Nat) (unit : Nat) (tag : Option Nat) (n : Nat) (hk : Keeps mP wF r0 s) (hm0 : within 0x1 mP) (hw0 : within 0x400000000000000000000000000000000000000000000000000000000000000000000000000000000000000000000000000000000000 wF) : Keeps mP wF r0 (State.countHub s h ev unit tag n) := by
  unfold State.countHub; try dsimp only
  with_reducible
    repeat' first
      | intro _ | assumption | exact within_trans (by decide +kernel) hm0 | exact within_trans (by decide +kernel) hw0
      | apply State.countHub1_keeps | apply Keeps.foldl | apply Keeps.foldlFst | dsimp only

theorem State.countDie1_keeps {mP wF : Nat} {r0 : State} (s : State) (d : Nat) (b : Nat) (i : Nat) (ev : Nat) (unit : Nat) (tag : Option Nat) (n : Nat) (hk : Keeps mP wF r0 s) (hm0 : within 0x1 mP) (hw0 : within 0x8000000000000000000000000000000000000000000000000000000000000000000000000000000000000000000000000000000000000 wF) : Keeps mP wF r0 (State.countDie1 s d b i ev unit tag n) := by
  unfold State.countDie1; try dsimp only
  with_reducible
    repeat' first
      | assumption | exact within_trans (by decide +kernel) hm0 | exact within_trans (by decide +kernel) hw0
      | apply State.put_keeps | apply Keeps.ite | split | dsimp only | apply within_ite

theorem State.countDie_keeps {mP wF : Nat} {r0 : State} (s : State) (d : Nat) (ev : Nat) (unit : Nat) (tag : Option Nat) (n : Nat) (hk : Keeps mP wF r0 s) (hm0 : within 0x1 mP) (hw0 : within 0x8000000000000000000000000000000000000000000000000000000000000000000000000000000000000000000000000000000000000 wF) : Keeps mP wF r0 (State.countDie s d ev unit tag n) := by
  unfold State.countDie; try dsimp only
  with_reducible
    repeat' first
      | intro _ | assumption | exact within_trans (by decide +kernel) hm0 | exact within_trans (by decide +kernel) hw0
      | apply State.countDie1_keeps | apply Keeps.foldl | apply Keeps.foldlFst | dsimp only

end Sys2Proof.Machine
end

