-- ==== Sys2Proof/Laws/KeepsOperands.lean ====
section
/-! SUPPORT. The operations of Machine/Operands.lean keep the memory form, the field widths and the queue. -/

set_option Elab.async false
namespace Sys2Proof.Machine

theorem State.setSq_keeps {mP wF : Nat} {r0 : State} (s : State) (k : Nat) (q : Option Sq) (hk : Keeps mP wF r0 s) (hm0 : within 0x10 mP) : Keeps mP wF r0 (State.setSq s k q) := by
  unfold State.setSq; try dsimp only
  with_reducible
    repeat' first
      | intro _ | assumption | exact within_trans (by decide +kernel) hm0 | apply State.updCp_keeps | dsimp only

theorem State.setCq_keeps {mP wF : Nat} {r0 : State} (s : State) (k : Nat) (q : Option Cq) (hk : Keeps mP wF r0 s) (hm0 : within 0x10 mP) : Keeps mP wF r0 (State.setCq s k q) := by
  unfold State.setCq; try dsimp only
  with_reducible
    repeat' first
      | intro _ | assumption | exact within_trans (by decide +kernel) hm0 | apply State.updCp_keeps | dsimp only

theorem scatter_keeps {mP wF : Nat} {r0 : State} (src : Source) (s : State) (ds : List (Word × Word)) (bs : List Byte)
    (hk : Keeps mP wF r0 s) (hm0 : within 0x201940f mP) (hw0 : within 0x8400000000000000000000000000000000000000000000000000000000000000000100000000000000000000000000000000000000000 wF) : Keeps mP wF r0 (scatter src s ds bs) := by
  induction ds generalizing s bs with
  | nil => exact hk
  | cons d ds ih =>
    refine ih _ _ ?_
    split
    · exact hk
    · cases src
      · exact State.emit_keeps _ _ hk (within_trans (by decide +kernel) hm0)
      · exact State.writeBytes_keeps _ _ _ hk (within_trans (by decide +kernel) hm0) (within_trans (by decide +kernel) hw0)
      · exact hk
      · exact hk

theorem State.hold_keeps {mP wF : Nat} {r0 : State} (s : State) (c : Cmd) (prog : Nat) (hk : Keeps mP wF r0 s) (hm0 : within 0x10 mP) : Keeps mP wF r0 (State.hold s c prog) := by
  unfold State.hold; try dsimp only
  with_reducible
    repeat' first
      | intro _ | assumption | exact within_trans (by decide +kernel) hm0 | apply State.updCp_keeps | apply Keeps.ite
      | split | dsimp only

theorem State.finishAt_keeps {mP wF : Nat} {r0 : State} (s : State) (c : Cmd) (res : CmdRes) (t : Nat) (hk : Keeps mP wF r0 s) (hm0 : within 0x201941f mP) (hw0 : within 0x8400000000000000000000000000000000000000000000000000000000000000000100000000000000000000000000000000000000000 wF) : Keeps mP wF r0 (State.finishAt s c res t) := by
  unfold State.finishAt; try dsimp only
  with_reducible
    repeat' first
      | intro _ | assumption | exact within_trans (by decide +kernel) hm0 | exact within_trans (by decide +kernel) hw0
      | apply State.updCp_keeps | apply scatter_keeps | apply Keeps.ite | split | dsimp only | apply within_ite

theorem State.finish_keeps {mP wF : Nat} {r0 : State} (s : State) (c : Cmd) (res : CmdRes) (hk : Keeps mP wF r0 s) (hm0 : within 0x201941f mP) (hw0 : within 0x8400000000000000000000000000000000000000000000000000000000000000000100000000000000000000000000000000000000000 wF) : Keeps mP wF r0 (State.finish s c res) := by
  unfold State.finish; try dsimp only
  with_reducible
    repeat' first
      | assumption | exact within_trans (by decide +kernel) hm0 | exact within_trans (by decide +kernel) hw0
      | apply State.finishAt_keeps

theorem State.silence_keeps {mP wF : Nat} {r0 : State} (s : State) (c : Cmd) (hk : Keeps mP wF r0 s) (hm0 : within 0x2000831 mP) (hw0 : within 0xc1f000000000000000020000000000000000000000000000000000000000000000000000000000000000000000000400000000000000000000 wF) : Keeps mP wF r0 (State.silence s c) := by
  unfold State.silence; try dsimp only
  with_reducible
    repeat' first
      | assumption | exact within_trans (by decide +kernel) hm0 | exact within_trans (by decide +kernel) hw0
      | apply State.refuse_keeps

theorem runCmd_keeps {mP wF : Nat} {r0 : State} (o : OpSpec) (c : Cmd) (body : State → State × CmdRes) (s : State) (hk : Keeps mP wF r0 s) (hbody : ∀ x0, Keeps mP wF r0 x0 → Keeps mP wF r0 (body x0).1) (hm0 : within 0x2019c3f mP) (hw0 : within 0xc1f008400000000000020000000000000000000000000000000000000000000000000000100000000000000000000400000000000000000000 wF) : Keeps mP wF r0 (runCmd o c body s) := by
  unfold runCmd; try dsimp only
  with_reducible
    repeat' first
      | intro _ | assumption | exact within_trans (by decide +kernel) hm0 | exact within_trans (by decide +kernel) hw0
      | apply State.updCp_keeps | apply State.finish_keeps | apply State.silence_keeps | apply hbody | apply Keeps.ite
      | refine Keeps.fst ?_ (by assumption) | split | dsimp only | apply within_ite

theorem runCmdLater_keeps {mP wF : Nat} {r0 : State} (o : OpSpec) (c : Cmd) (body : State → State × Option CmdRes) (s : State) (hk : Keeps mP wF r0 s) (hbody : ∀ x0, Keeps mP wF r0 x0 → Keeps mP wF r0 (body x0).1) (hm0 : within 0x2019c3f mP) (hw0 : within 0xc1f008400000000000020000000000000000000000000000000000000000000000000000100000000000000000000400000000000000000000 wF) : Keeps mP wF r0 (runCmdLater o c body s) := by
  unfold runCmdLater; try dsimp only
  with_reducible
    repeat' first
      | assumption | exact within_trans (by decide +kernel) hm0 | exact within_trans (by decide +kernel) hw0
      | apply State.hold_keeps | apply State.finish_keeps | apply State.silence_keeps | apply hbody | apply Keeps.ite
      | refine Keeps.fst ?_ (by assumption) | split | dsimp only | apply within_ite

end Sys2Proof.Machine
end

