-- ==== Sys2Proof/Laws/KeepsQueues.lean ====
section
/-! SUPPORT. The operations of Machine/Queues.lean keep the memory form, the field widths and the queue. -/

set_option Elab.async false
namespace Sys2Proof.Machine

theorem State.updCas_keeps {mP wF : Nat} {r0 : State} (s : State) (f : Casc → Casc) (hk : Keeps mP wF r0 s)
    (hm0 : within 0x800000 mP) : Keeps mP wF r0 (s.updCas f) :=
  Keeps.record hk rfl fun p hp => by
    cases p <;> first
      | exact rfl
      | exact absurd (hp.symm.trans (within_bit hm0 (by decide +kernel))) Bool.false_ne_true

theorem State.updCsPort_keeps {mP wF : Nat} {r0 : State} (s : State) (c : Nat) (f : CsPort → CsPort) (hk : Keeps mP wF r0 s) (hm0 : within 0x800000 mP) : Keeps mP wF r0 (State.updCsPort s c f) := by
  unfold State.updCsPort; try dsimp only
  with_reducible
    repeat' first
      | intro _ | assumption | exact within_trans (by decide +kernel) hm0 | apply State.updCas_keeps | dsimp only

theorem State.csWire_keeps {mP wF : Nat} {r0 : State} (s : State) (c : Nat) (f : CsFrame) (hk : Keeps mP wF r0 s) (hm0 : within 0x2800000 mP) : Keeps mP wF r0 (State.csWire s c f) := by
  unfold State.csWire; try dsimp only
  with_reducible
    repeat' first
      | intro _ | assumption | exact within_trans (by decide +kernel) hm0 | apply State.emit_keeps
      | apply State.updCsPort_keeps | apply Keeps.ite | split | dsimp only

theorem State.csTx_keeps {mP wF : Nat} {r0 : State} (s : State) (c : Nat) (f : CsFrame) (hk : Keeps mP wF r0 s) (hm0 : within 0x2800000 mP) : Keeps mP wF r0 (State.csTx s c f) := by
  unfold State.csTx; try dsimp only
  with_reducible
    repeat' first
      | intro _ | assumption | exact within_trans (by decide +kernel) hm0 | apply State.updCsPort_keeps
      | apply State.csWire_keeps | apply Keeps.ite | split | dsimp only

theorem State.csDrain_keeps {mP wF : Nat} {r0 : State} (s : State) (c : Nat) (hk : Keeps mP wF r0 s) (hm0 : within 0x2800000 mP) : Keeps mP wF r0 (State.csDrain s c) := by
  unfold State.csDrain; try dsimp only
  with_reducible
    repeat' first
      | intro _ | assumption | exact within_trans (by decide +kernel) hm0 | apply State.updCsPort_keeps
      | apply State.csWire_keeps | apply Keeps.foldl | apply Keeps.foldlFst | dsimp only

theorem State.csAck_keeps {mP wF : Nat} {r0 : State} (s : State) (c : Nat) (lack : Nat) (hk : Keeps mP wF r0 s) (hm0 : within 0x2800000 mP) : Keeps mP wF r0 (State.csAck s c lack) := by
  unfold State.csAck; try dsimp only
  with_reducible
    repeat' first
      | intro _ | assumption | exact within_trans (by decide +kernel) hm0 | apply State.updCsPort_keeps
      | apply State.csDrain_keeps | apply Keeps.ite | split | dsimp only

theorem State.csSend_keeps {mP wF : Nat} {r0 : State} (s : State) (c : Nat) (kind : Nat) (body : List Nat) (hk : Keeps mP wF r0 s) (hm0 : within 0x2800000 mP) : Keeps mP wF r0 (State.csSend s c kind body) := by
  unfold State.csSend; try dsimp only
  with_reducible
    repeat' first
      | assumption | exact within_trans (by decide +kernel) hm0 | apply State.csTx_keeps

theorem State.csOut_keeps {mP wF : Nat} {r0 : State} (s : State) (except : Option Nat) (f : CsFrame) (hk : Keeps mP wF r0 s) (hm0 : within 0x2800000 mP) : Keeps mP wF r0 (State.csOut s except f) := by
  unfold State.csOut; try dsimp only
  with_reducible
    repeat' first
      | intro _ | assumption | exact within_trans (by decide +kernel) hm0 | apply State.csTx_keeps | apply Keeps.foldl
      | apply Keeps.foldlFst | apply Keeps.ite | split | dsimp only

theorem State.csFlood_keeps {mP wF : Nat} {r0 : State} (s : State) (kind : Nat) (body : List Nat) (hk : Keeps mP wF r0 s) (hm0 : within 0x2800000 mP) : Keeps mP wF r0 (State.csFlood s kind body) := by
  unfold State.csFlood; try dsimp only
  with_reducible
    repeat' first
      | intro _ | assumption | exact within_trans (by decide +kernel) hm0 | apply State.updCas_keeps
      | apply State.csOut_keeps | dsimp only

theorem State.csSendTo_keeps {mP wF : Nat} {r0 : State} (s : State) (dst : Nat) (kind : Nat) (body : List Nat) (hk : Keeps mP wF r0 s) (hm0 : within 0x2800000 mP) : Keeps mP wF r0 (State.csSendTo s dst kind body) := by
  unfold State.csSendTo; try dsimp only
  with_reducible
    repeat' first
      | assumption | exact within_trans (by decide +kernel) hm0 | apply State.csTx_keeps | split | dsimp only

theorem State.csRelaySend_keeps {mP wF : Nat} {r0 : State} (s : State) (dst : Nat) (kind : Nat) (head : List Nat) (data : List Byte) (hk : Keeps mP wF r0 s) (hm0 : within 0x2800000 mP) : Keeps mP wF r0 (State.csRelaySend s dst kind head data) := by
  unfold State.csRelaySend; try dsimp only
  with_reducible
    repeat' first
      | intro _ | assumption | exact within_trans (by decide +kernel) hm0 | apply State.csSendTo_keeps
      | apply Keeps.foldl | apply Keeps.foldlFst | dsimp only

theorem State.casAnswer_keeps {mP wF : Nat} {r0 : State} (s : State) (m : Msg) (kind : Nat) (words : List Nat) (hk : Keeps mP wF r0 s) (hm0 : within 0x2800000 mP) : Keeps mP wF r0 (State.casAnswer s m kind words) := by
  unfold State.casAnswer; try dsimp only
  with_reducible
    repeat' first
      | intro _ | assumption | exact within_trans (by decide +kernel) hm0 | apply State.updCas_keeps
      | apply State.csSendTo_keeps | split | dsimp only

theorem State.relay_keeps {mP wF : Nat} {r0 : State} (s : State) (c : Cmd) (i : Nat) (r : Running) (hk : Keeps mP wF r0 s) (hm0 : within 0x281941f mP) (hw0 : within 0x8400000000000000000000000000000000000000000000000000000000000000000100000000000000000000000000000000000000000 wF) : Keeps mP wF r0 (State.relay s c i r) := by
  unfold State.relay; try dsimp only
  with_reducible
    repeat' first
      | intro _ | assumption | exact within_trans (by decide +kernel) hm0 | exact within_trans (by decide +kernel) hw0
      | apply State.updCp_keeps | apply State.finish_keeps | apply State.csRelaySend_keeps | apply Keeps.ite | split
      | dsimp only | apply within_ite

theorem State.dbErr_keeps {mP wF : Nat} {r0 : State} (s : State) (n : Nat) (hk : Keeps mP wF r0 s) (hm0 : within 0x1 mP) (hw0 : within 0x40000000000000 wF) : Keeps mP wF r0 (State.dbErr s n) := by
  unfold State.dbErr; try dsimp only
  with_reducible
    repeat' first
      | assumption | exact within_trans (by decide +kernel) hm0 | exact within_trans (by decide +kernel) hw0
      | apply State.setFlag_keeps

theorem State.sqDoorbell_keeps {mP wF : Nat} {r0 : State} (s : State) (n : Nat) (q : Nat) (v : Nat) (hk : Keeps mP wF r0 s) (hm0 : within 0x11 mP) (hw0 : within 0x840000000000000 wF) : Keeps mP wF r0 (State.sqDoorbell s n q v) := by
  unfold State.sqDoorbell; try dsimp only
  with_reducible
    repeat' first
      | assumption | exact within_trans (by decide +kernel) hm0 | exact within_trans (by decide +kernel) hw0
      | apply State.put_keeps | apply State.setSq_keeps | apply State.dbErr_keeps | apply Keeps.ite | split
      | dsimp only | apply within_ite

theorem State.releaseFrom_keeps {mP wF : Nat} {r0 : State} (s : State) (i : Nat) (old : Nat) (hk : Keeps mP wF r0 s) (hm0 : within 0x10 mP) : Keeps mP wF r0 (State.releaseFrom s i old) := by
  unfold State.releaseFrom; try dsimp only
  with_reducible
    repeat' first
      | assumption | exact within_trans (by decide +kernel) hm0 | apply State.setSq_keeps | split | dsimp only

theorem State.cqDoorbell_keeps {mP wF : Nat} {r0 : State} (s : State) (n : Nat) (q : Nat) (v : Nat) (hk : Keeps mP wF r0 s) (hm0 : within 0x11 mP) (hw0 : within 0x1040000000000000 wF) : Keeps mP wF r0 (State.cqDoorbell s n q v) := by
  unfold State.cqDoorbell; try dsimp only
  with_reducible
    repeat' first
      | intro _ | assumption | exact within_trans (by decide +kernel) hm0 | exact within_trans (by decide +kernel) hw0
      | apply State.put_keeps | apply State.updCp_keeps | apply State.setCq_keeps | apply State.dbErr_keeps
      | apply Keeps.ite | split | dsimp only | apply within_ite

theorem execSqDb_keeps {mP wF : Nat} {r0 : State} (src : Source) (q : Fin 64) (v : Word) (s : State) (hk : Keeps mP wF r0 s) (hm0 : within 0x11 mP) (hw0 : within 0x840000000000000 wF) : Keeps.Res mP wF r0 (execSqDb src q v s) := by
  unfold execSqDb; try dsimp only
  with_reducible
    repeat' first
      | assumption | exact within_trans (by decide +kernel) hm0 | exact within_trans (by decide +kernel) hw0
      | apply State.sqDoorbell_keeps | apply Keeps.next

theorem State.intxUpdate_keeps {mP wF : Nat} {r0 : State} (s : State) (e : Nat) (hk : Keeps mP wF r0 s) (hm0 : within 0x2000800 mP) : Keeps mP wF r0 (State.intxUpdate s e) := by
  unfold State.intxUpdate; try dsimp only
  with_reducible
    repeat' first
      | intro _ | assumption | exact within_trans (by decide +kernel) hm0 | apply State.emit_keeps
      | apply State.updPe_keeps | apply Keeps.ite | split | dsimp only

theorem execCqDb_keeps {mP wF : Nat} {r0 : State} (src : Source) (q : Fin 64) (v : Word) (s : State) (hk : Keeps mP wF r0 s) (hm0 : within 0x2000811 mP) (hw0 : within 0x1040000000000000 wF) : Keeps.Res mP wF r0 (execCqDb src q v s) := by
  unfold execCqDb; try dsimp only
  with_reducible
    repeat' first
      | assumption | exact within_trans (by decide +kernel) hm0 | exact within_trans (by decide +kernel) hw0
      | apply State.cqDoorbell_keeps | apply State.intxUpdate_keeps | apply Keeps.next | split | dsimp only

theorem State.adminLive_keeps {mP wF : Nat} {r0 : State} (s : State) (src : Source) (hk : Keeps mP wF r0 s) (hm0 : within 0x11 mP) (hw0 : within 0x20000000000000 wF) : Keeps mP wF r0 (State.adminLive s src) := by
  unfold State.adminLive; try dsimp only
  with_reducible
    repeat' first
      | assumption | exact within_trans (by decide +kernel) hm0 | exact within_trans (by decide +kernel) hw0
      | apply State.setFlag_keeps | apply State.setSq_keeps | apply State.setCq_keeps | apply Keeps.ite | split
      | dsimp only | apply within_ite

theorem State.qrbStart_keeps {mP wF : Nat} {r0 : State} (s : State) (src : Source) (hk : Keeps mP wF r0 s) (hm0 : within 0x11 mP) (hw0 : within 0x24000000000000 wF) : Keeps mP wF r0 (State.qrbStart s src) := by
  unfold State.qrbStart; try dsimp only
  with_reducible
    repeat' first
      | assumption | exact within_trans (by decide +kernel) hm0 | exact within_trans (by decide +kernel) hw0
      | apply State.setFlag_keeps | apply State.adminLive_keeps | apply Keeps.ite | split | dsimp only
      | apply within_ite

theorem execQrbEnable_keeps {mP wF : Nat} {r0 : State} (src : Source) (s : State) (hk : Keeps mP wF r0 s) (hm0 : within 0x11 mP) (hw0 : within 0x24000000000000 wF) : Keeps.Res mP wF r0 (execQrbEnable src s) := by
  unfold execQrbEnable; try dsimp only
  with_reducible
    repeat' first
      | assumption | exact within_trans (by decide +kernel) hm0 | exact within_trans (by decide +kernel) hw0
      | apply State.qrbStart_keeps | apply Keeps.next

theorem State.dropQueues_keeps {mP wF : Nat} {r0 : State} (s : State) (n : Nat) (hk : Keeps mP wF r0 s) (hm0 : within 0x10 mP) : Keeps mP wF r0 (State.dropQueues s n) := by
  unfold State.dropQueues; try dsimp only
  with_reducible
    repeat' first
      | intro _ | assumption | exact within_trans (by decide +kernel) hm0 | apply State.updCp_keeps | dsimp only

theorem State.qrbSettle_keeps {mP wF : Nat} {r0 : State} (s : State) (n : Nat) (hk : Keeps mP wF r0 s) (hm0 : within 0x11 mP) (hw0 : within 0x20000000000000 wF) : Keeps mP wF r0 (State.qrbSettle s n) := by
  unfold State.qrbSettle; try dsimp only
  with_reducible
    repeat' first
      | intro _ | assumption | exact within_trans (by decide +kernel) hm0 | exact within_trans (by decide +kernel) hw0
      | apply State.setFlag_keeps | apply State.updCp_keeps | apply State.adminLive_keeps
      | apply State.dropQueues_keeps | apply Keeps.ite | split | dsimp only | apply within_ite

theorem State.qrbStop_keeps {mP wF : Nat} {r0 : State} (s : State) (n : Nat) (hk : Keeps mP wF r0 s) (hm0 : within 0x11 mP) (hw0 : within 0x24000000000000 wF) : Keeps mP wF r0 (State.qrbStop s n) := by
  unfold State.qrbStop; try dsimp only
  with_reducible
    repeat' first
      | intro _ | assumption | exact within_trans (by decide +kernel) hm0 | exact within_trans (by decide +kernel) hw0
      | apply State.setFlag_keeps | apply State.updCp_keeps | apply State.qrbSettle_keeps | apply Keeps.ite | split
      | dsimp only | apply within_ite

theorem execQrbDisable_keeps {mP wF : Nat} {r0 : State} (src : Source) (s : State) (hk : Keeps mP wF r0 s) (hm0 : within 0x11 mP) (hw0 : within 0x24000000000000 wF) : Keeps.Res mP wF r0 (execQrbDisable src s) := by
  unfold execQrbDisable; try dsimp only
  with_reducible
    repeat' first
      | assumption | exact within_trans (by decide +kernel) hm0 | exact within_trans (by decide +kernel) hw0
      | apply State.qrbStop_keeps | apply Keeps.next

theorem State.updWrr_keeps {mP wF : Nat} {r0 : State} (s : State) (n : Nat) (f : Wrr → Wrr) (hk : Keeps mP wF r0 s) (hm0 : within 0x10 mP) : Keeps mP wF r0 (State.updWrr s n f) := by
  unfold State.updWrr; try dsimp only
  with_reducible
    repeat' first
      | intro _ | assumption | exact within_trans (by decide +kernel) hm0 | apply State.updCp_keeps | dsimp only

theorem State.pickQueue_keeps {mP wF : Nat} {r0 : State} (s : State) (hk : Keeps mP wF r0 s) (hm0 : within 0x10 mP) : Keeps.Opt4 mP wF r0 (State.pickQueue s) := by
  unfold State.pickQueue; try dsimp only
  with_reducible
    repeat' first
      | intro _ | assumption | exact within_trans (by decide +kernel) hm0 | apply State.updCp_keeps
      | apply State.updWrr_keeps | apply Keeps.opt4None | apply Keeps.opt4Some | split | dsimp only

theorem State.ringRead_keeps {mP wF : Nat} {r0 : State} (s : State) (p : Nat) (a : Nat) (n : Nat) (hk : Keeps mP wF r0 s) (hm0 : within 0x2000831 mP) (hw0 : within 0xc1f000000000000000020000000000000000000000000000000000000000000000000000000000000000000000000400000000000000000000 wF) : Keeps mP wF r0 (State.ringRead s p a n).1 := by
  unfold State.ringRead; try dsimp only
  with_reducible
    repeat' first
      | assumption | exact within_trans (by decide +kernel) hm0 | exact within_trans (by decide +kernel) hw0
      | apply State.refuse_keeps | split | dsimp only

theorem State.ringWrite_keeps {mP wF : Nat} {r0 : State} (s : State) (p : Nat) (a : Nat) (bs : List Byte) (hk : Keeps mP wF r0 s) (hm0 : within 0x2019c3f mP) (hw0 : within 0xc1f008400000000000020000000000000000000000000000000000000000000000000000100000000000000000000400000000000000000000 wF) : Keeps mP wF r0 (State.ringWrite s p a bs) := by
  unfold State.ringWrite; try dsimp only
  with_reducible
    repeat' first
      | assumption | exact within_trans (by decide +kernel) hm0 | exact within_trans (by decide +kernel) hw0
      | apply State.writeBytes_keeps | apply State.refuse_keeps | split | dsimp only

theorem State.accept_keeps {mP wF : Nat} {r0 : State} (s : State) (c : Cmd) (sqHead : Nat) (relay : Option Nat) (rel : Bool) (hk : Keeps mP wF r0 s) (hm0 : within 0x2819c3f mP) (hw0 : within 0xc1f008400000000000020000000000000000000000000000000000000000000000000000100000000000000000000400000000000000000000 wF) : Keeps mP wF r0 (State.accept s c sqHead relay rel) := by
  unfold State.accept; try dsimp only
  with_reducible
    repeat' first
      | intro _ | assumption | exact within_trans (by decide +kernel) hm0 | exact within_trans (by decide +kernel) hw0
      | apply State.updCp_keeps | apply State.finish_keeps | apply State.silence_keeps | apply State.relay_keeps
      | apply Keeps.ite | split | dsimp only | apply within_ite

theorem State.fetchQueue_keeps {mP wF : Nat} {r0 : State} (s : State) (n : Nat) (q : Nat) (r : Sq) (e : Entry) (list : List (Word × Word)) (data : List Byte) (hk : Keeps mP wF r0 s) (hm0 : within 0x2819c3f mP) (hw0 : within 0xc1f008400000000000020000000000000000000000000000000000000000000000000000100000000000000000000400000000000000000000 wF) : Keeps.Opt mP wF r0 (State.fetchQueue s n q r e list data) := by
  unfold State.fetchQueue; try dsimp only
  with_reducible
    repeat' first
      | assumption | exact within_trans (by decide +kernel) hm0 | exact within_trans (by decide +kernel) hw0
      | apply State.emit_keeps | apply State.setSq_keeps | apply State.relay_keeps | apply State.ringRead_keeps
      | apply State.accept_keeps | apply Keeps.optNone | apply Keeps.optSome | apply Keeps.ite | apply Keeps.iteFst
      | apply Keeps.iteOpt | refine Keeps.fst ?_ (by assumption) | split | dsimp only | apply within_ite

theorem execCommandFetch_keeps {mP wF : Nat} {r0 : State} (e : Entry) (list : List (Word × Word)) (data : List Byte) (s : State) (hk : Keeps mP wF r0 s) (hm0 : within 0x2819c3f mP) (hw0 : within 0xc1f008400000000000020000000000000000000000000000000000000000000000000000100000000000000000000400000000000000000000 wF) : Keeps.Res mP wF r0 (execCommandFetch e list data s) := by
  unfold execCommandFetch; try dsimp only
  with_reducible
    repeat' first
      | intro _ | assumption | exact within_trans (by decide +kernel) hm0 | exact within_trans (by decide +kernel) hw0
      | apply State.updCp_keeps | apply State.pickQueue_keeps | apply State.accept_keeps
      | apply State.fetchQueue_keeps | apply Keeps.next | apply Keeps.ite | apply Keeps.iteFst | apply Keeps.iteOpt
      | exact Keeps.opt4None | apply Keeps.opt4Some | refine Keeps.opt4 ?_ (by assumption) | exact Keeps.optNone
      | apply Keeps.optSome | refine Keeps.opt ?_ (by assumption) | apply Keeps.iteOpt4 | apply Keeps.getD | split
      | dsimp only | apply within_ite

theorem execSidebandRequest_keeps {mP wF : Nat} {r0 : State} (e : Entry) (s : State) (hk : Keeps mP wF r0 s) (hm0 : within 0x10 mP) : Keeps.Res mP wF r0 (execSidebandRequest e s) := by
  unfold execSidebandRequest; try dsimp only
  with_reducible
    repeat' first
      | intro _ | assumption | exact within_trans (by decide +kernel) hm0 | apply State.updCp_keeps | apply Keeps.next
      | apply Keeps.ite | apply Keeps.iteFst | split | dsimp only

theorem State.msixSend_keeps {mP wF : Nat} {r0 : State} (s : State) (e : Nat) (vec : Nat) (hk : Keeps mP wF r0 s) (hm0 : within 0x2000800 mP) : Keeps mP wF r0 (State.msixSend s e vec) := by
  unfold State.msixSend; try dsimp only
  with_reducible
    repeat' first
      | intro _ | assumption | exact within_trans (by decide +kernel) hm0 | apply State.updPe_keeps
      | apply State.intxUpdate_keeps | apply Keeps.ite | split | dsimp only

theorem State.cqSignal_keeps {mP wF : Nat} {r0 : State} (s : State) (src : Source) (k : Nat) (q : Cq) (hk : Keeps mP wF r0 s) (hm0 : within 0x2000c00 mP) : Keeps mP wF r0 (State.cqSignal s src k q) := by
  unfold State.cqSignal; try dsimp only
  with_reducible
    repeat' first
      | assumption | exact within_trans (by decide +kernel) hm0 | apply State.raiseInt_keeps
      | apply State.msixSend_keeps | apply Keeps.ite | split | dsimp only

theorem State.cplWrite_keeps {mP wF : Nat} {r0 : State} (s : State) (src : Source) (a : Nat) (bs : List Byte) (hk : Keeps mP wF r0 s) (hm0 : within 0x2019c3f mP) (hw0 : within 0xc1f008400000000000020000000000000000000000000000000000000000000000000000100000000000000000000400000000000000000000 wF) : Keeps mP wF r0 (State.cplWrite s src a bs) := by
  unfold State.cplWrite; try dsimp only
  with_reducible
    repeat' first
      | assumption | exact within_trans (by decide +kernel) hm0 | exact within_trans (by decide +kernel) hw0
      | apply State.emit_keeps | apply State.ringWrite_keeps | split | dsimp only

theorem State.postTo_keeps {mP wF : Nat} {r0 : State} (s : State) (src : Source) (k : Nat) (q : Cq) (x : Cpl) (hk : Keeps mP wF r0 s) (hm0 : within 0x2019c3f mP) (hw0 : within 0xc1f008400000000000020000000000000000000000000000000000000000000000000000100000000000000000000400000000000000000000 wF) : Keeps mP wF r0 (State.postTo s src k q x) := by
  unfold State.postTo; try dsimp only
  with_reducible
    repeat' first
      | intro _ | assumption | exact within_trans (by decide +kernel) hm0 | exact within_trans (by decide +kernel) hw0
      | apply State.updCp_keeps | apply State.setCq_keeps | apply State.cqSignal_keeps | apply State.cplWrite_keeps
      | apply Keeps.ite | apply Keeps.getD | split | dsimp only | apply within_ite

theorem State.sqSettle_keeps {mP wF : Nat} {r0 : State} (s : State) (k : Nat) (hk : Keeps mP wF r0 s) (hm0 : within 0x201941f mP) (hw0 : within 0x8400000000000000000000000000000000000000000000000000000000000000000100000000000000000000000000000000000000000 wF) : Keeps mP wF r0 (State.sqSettle s k) := by
  unfold State.sqSettle; try dsimp only
  with_reducible
    repeat' first
      | assumption | exact within_trans (by decide +kernel) hm0 | exact within_trans (by decide +kernel) hw0
      | apply State.setSq_keeps | apply State.finish_keeps | apply Keeps.ite | split | dsimp only | apply within_ite

theorem execCompletionPost_keeps {mP wF : Nat} {r0 : State} (src : Source) (cq : Fin 64) (s : State) (hk : Keeps mP wF r0 s) (hm0 : within 0x2819c3f mP) (hw0 : within 0xc1f008400000000000020000000000000000000000000000000000000000000000000000100000000000000000000400000020000000000000 wF) : Keeps.Res mP wF r0 (execCompletionPost src cq s) := by
  unfold execCompletionPost; try dsimp only
  with_reducible
    repeat' first
      | intro _ | assumption | exact within_trans (by decide +kernel) hm0 | exact within_trans (by decide +kernel) hw0
      | apply State.emit_keeps | apply State.updCp_keeps | apply State.csRelaySend_keeps | apply State.qrbSettle_keeps
      | apply State.postTo_keeps | apply State.sqSettle_keeps | apply Keeps.next | apply Keeps.ite
      | apply Keeps.iteFst | apply Keeps.getD | split | dsimp only | apply within_ite

theorem State.onQrbs_keeps {mP wF : Nat} {r0 : State} (s : State) (f : State → Nat → State) (hk : Keeps mP wF r0 s) (hf : ∀ x0 x1, Keeps mP wF r0 x0 → Keeps mP wF r0 (f x0 x1)) : Keeps mP wF r0 (State.onQrbs s f) := by
  unfold State.onQrbs; try dsimp only
  with_reducible
    repeat' first
      | intro _ | assumption | apply hf | apply Keeps.foldl | apply Keeps.foldlFst
      | refine Keeps.fst ?_ (by assumption)

theorem State.fatal_keeps {mP wF : Nat} {r0 : State} (s : State) (hk : Keeps mP wF r0 s) (hm0 : within 0x2000811 mP) (hw0 : within 0x20000000000000000000000000000000000000000000000000000000000000000000000000000000100000000000000 wF) : Keeps mP wF r0 (State.fatal s) := by
  unfold State.fatal; try dsimp only
  with_reducible
    repeat' first
      | intro _ | assumption | exact within_trans (by decide +kernel) hm0 | exact within_trans (by decide +kernel) hw0
      | apply State.setFlag_keeps | apply State.updCp_keeps | apply State.aer_keeps | apply State.onQrbs_keeps
      | apply Keeps.foldl | apply Keeps.foldlFst | apply Keeps.ite | split | dsimp only | apply within_ite

theorem State.unfatal_keeps {mP wF : Nat} {r0 : State} (s : State) (hk : Keeps mP wF r0 s) (hm0 : within 0x11 mP) (hw0 : within 0x100000000000000 wF) : Keeps mP wF r0 (State.unfatal s) := by
  unfold State.unfatal; try dsimp only
  with_reducible
    repeat' first
      | intro _ | assumption | exact within_trans (by decide +kernel) hm0 | exact within_trans (by decide +kernel) hw0
      | apply State.setFlag_keeps | apply State.updCp_keeps | apply State.onQrbs_keeps | dsimp only

theorem State.setRuns_keeps {mP wF : Nat} {r0 : State} (s : State) (boot : Nat) (ra : Option Nat) (rs : Option Nat) (hk : Keeps mP wF r0 s) (hm0 : within 0x10 mP) : Keeps mP wF r0 (State.setRuns s boot ra rs) := by
  unfold State.setRuns; try dsimp only
  with_reducible
    repeat' first
      | intro _ | assumption | exact within_trans (by decide +kernel) hm0 | apply State.updCp_keeps | apply Keeps.ite
      | split | dsimp only

theorem State.repost_keeps {mP wF : Nat} {r0 : State} (s : State) (hk : Keeps mP wF r0 s) (hm0 : within 0x2019c3f mP) (hw0 : within 0xc1f008400000000000020000000000000000000000000000000000000000000000000000100000000000000000000400000000000000000000 wF) : Keeps mP wF r0 (State.repost s) := by
  unfold State.repost; try dsimp only
  with_reducible
    repeat' first
      | intro _ | assumption | exact within_trans (by decide +kernel) hm0 | exact within_trans (by decide +kernel) hw0
      | apply State.cplWrite_keeps | apply Keeps.foldl | apply Keeps.foldlFst | dsimp only

theorem State.liveLost_keeps {mP wF : Nat} {r0 : State} (s : State) (hk : Keeps mP wF r0 s) (hm0 : within 0x201941f mP) (hw0 : within 0x8400000000000000000000000000000000000000000000000000000000000000000100000000000000000000000000000000000000000 wF) : Keeps mP wF r0 (State.liveLost s) := by
  unfold State.liveLost; try dsimp only
  with_reducible
    repeat' first
      | intro _ | assumption | exact within_trans (by decide +kernel) hm0 | exact within_trans (by decide +kernel) hw0
      | apply State.updCp_keeps | apply State.finish_keeps | apply State.setRuns_keeps | apply Keeps.ite | split
      | dsimp only | apply within_ite

theorem State.swapRoles_keeps {mP wF : Nat} {r0 : State} (s : State) (cause : Nat) (hk : Keeps mP wF r0 s) (hm0 : within 0x2019c3f mP) (hw0 : within 0xc1f0084000000000000200000000000000000000000000000000000000000000000000001000000000000000000004000000800000001e0000 wF) : Keeps mP wF r0 (State.swapRoles s cause) := by
  unfold State.swapRoles; try dsimp only
  with_reducible
    repeat' first
      | intro _ | assumption | exact within_trans (by decide +kernel) hm0 | exact within_trans (by decide +kernel) hw0
      | apply State.put_keeps | apply State.bump_keeps | apply State.setFlag_keeps | apply State.updCp_keeps
      | apply State.logSec_keeps | apply State.onQrbs_keeps | apply State.setRuns_keeps | apply State.repost_keeps
      | dsimp only

theorem State.takeover_keeps {mP wF : Nat} {r0 : State} (s : State) (cause : Nat) (hk : Keeps mP wF r0 s) (hm0 : within 0x2019c3f mP) (hw0 : within 0xc1f0084000000000000200000000000000000000000000000000000000000000000000001000000000000000000004000001800000001e0000 wF) : Keeps mP wF r0 (State.takeover s cause) := by
  unfold State.takeover; try dsimp only
  with_reducible
    repeat' first
      | assumption | exact within_trans (by decide +kernel) hm0 | exact within_trans (by decide +kernel) hw0
      | apply State.fatal_keeps | apply State.liveLost_keeps | apply State.swapRoles_keeps | apply Keeps.ite | split
      | dsimp only | apply within_ite

theorem State.standbyGone_keeps {mP wF : Nat} {r0 : State} (s : State) (hk : Keeps mP wF r0 s) (hm0 : within 0x11 mP) (hw0 : within 0x40000 wF) : Keeps mP wF r0 (State.standbyGone s) := by
  unfold State.standbyGone; try dsimp only
  with_reducible
    repeat' first
      | assumption | exact within_trans (by decide +kernel) hm0 | exact within_trans (by decide +kernel) hw0
      | apply State.setFlag_keeps | apply State.setRuns_keeps

theorem execHcHeartbeat_keeps {mP wF : Nat} {r0 : State} (arrives : Bool) (s : State) (hk : Keeps mP wF r0 s) (hm0 : within 0x2019c3f mP) (hw0 : within 0xc1f0084000000000000200000000000000000000000000000000000000000000000000001000000000000000000004000001800000001e0000 wF) : Keeps.Res mP wF r0 (execHcHeartbeat arrives s) := by
  unfold execHcHeartbeat; try dsimp only
  with_reducible
    repeat' first
      | intro _ | assumption | exact within_trans (by decide +kernel) hm0 | exact within_trans (by decide +kernel) hw0
      | apply State.updCp_keeps | apply State.takeover_keeps | apply Keeps.next | apply Keeps.ite | apply Keeps.iteFst
      | split | dsimp only | apply within_ite

theorem execControllerTakeover_keeps {mP wF : Nat} {r0 : State} (s : State) (hk : Keeps mP wF r0 s) (hm0 : within 0x2019c3f mP) (hw0 : within 0xc1f0084000000000000200000000000000000000000000000000000000000000000000001000000000000000000004000001800000001e0000 wF) : Keeps.Res mP wF r0 (execControllerTakeover s) := by
  unfold execControllerTakeover; try dsimp only
  with_reducible
    repeat' first
      | assumption | exact within_trans (by decide +kernel) hm0 | exact within_trans (by decide +kernel) hw0
      | apply State.takeover_keeps | apply Keeps.next | apply Keeps.ite | apply Keeps.iteFst | split | dsimp only
      | apply within_ite

theorem State.liveStep_keeps {mP wF : Nat} {r0 : State} (s : State) (l : Live) (imageGood : Bool) (hk : Keeps mP wF r0 s) (hm0 : within 0x2019c3f mP) (hw0 : within 0xc1f0084000000000000200000000000000000000000000000000000000000000000000001000000000000000000004000000800000001e0000 wF) : Keeps mP wF r0 (State.liveStep s l imageGood) := by
  unfold State.liveStep; try dsimp only
  with_reducible
    repeat' first
      | intro _ | assumption | exact within_trans (by decide +kernel) hm0 | exact within_trans (by decide +kernel) hw0
      | apply State.setFlag_keeps | apply State.updCp_keeps | apply State.finish_keeps | apply State.setRuns_keeps
      | apply State.swapRoles_keeps | apply Keeps.ite | split | dsimp only | apply within_ite

theorem execStandbyRejoin_keeps {mP wF : Nat} {r0 : State} (imageGood : Bool) (s : State) (hk : Keeps mP wF r0 s) (hm0 : within 0x2019c3f mP) (hw0 : within 0xc1f0084000000000000200000000000000000000000000000000000000000000000000001000000000000000000004000001800000001e0000 wF) : Keeps.Res mP wF r0 (execStandbyRejoin imageGood s) := by
  unfold execStandbyRejoin; try dsimp only
  with_reducible
    repeat' first
      | assumption | exact within_trans (by decide +kernel) hm0 | exact within_trans (by decide +kernel) hw0
      | apply State.setFlag_keeps | apply State.unfatal_keeps | apply State.setRuns_keeps | apply State.liveStep_keeps
      | apply Keeps.next | apply Keeps.ite | apply Keeps.iteFst | split | dsimp only | apply within_ite

theorem State.queueCreate_keeps {mP wF : Nat} {r0 : State} (s : State) (c : Cmd) (hk : Keeps mP wF r0 s) (hm0 : within 0x10 mP) : Keeps mP wF r0 (State.queueCreate s c).1 := by
  unfold State.queueCreate; try dsimp only
  with_reducible
    repeat' first
      | assumption | exact within_trans (by decide +kernel) hm0 | apply State.setSq_keeps | apply State.setCq_keeps
      | apply Keeps.ite | apply Keeps.iteFst | split | dsimp only

theorem execQueueCreate_keeps {mP wF : Nat} {r0 : State} (c : Cmd) (s : State) (hk : Keeps mP wF r0 s) (hm0 : within 0x2019c3f mP) (hw0 : within 0xc1f008400000000000020000000000000000000000000000000000000000000000000000100000000000000000000400000000000000000000 wF) : Keeps.Res mP wF r0 (execQueueCreate c s) := by
  unfold execQueueCreate; try dsimp only
  with_reducible
    repeat' first
      | intro _ | assumption | exact within_trans (by decide +kernel) hm0 | exact within_trans (by decide +kernel) hw0
      | apply runCmd_keeps | apply State.queueCreate_keeps | apply Keeps.next | refine Keeps.fst ?_ (by assumption)
      | dsimp only

theorem State.queueDelete_keeps {mP wF : Nat} {r0 : State} (s : State) (c : Cmd) (hk : Keeps mP wF r0 s) (hm0 : within 0x10 mP) : Keeps mP wF r0 (State.queueDelete s c).1 := by
  unfold State.queueDelete; try dsimp only
  with_reducible
    repeat' first
      | intro _ | assumption | exact within_trans (by decide +kernel) hm0 | apply State.updCp_keeps
      | apply State.setSq_keeps | apply State.setCq_keeps | apply Keeps.ite | apply Keeps.iteFst | split | dsimp only

theorem execQueueDelete_keeps {mP wF : Nat} {r0 : State} (c : Cmd) (s : State) (hk : Keeps mP wF r0 s) (hm0 : within 0x2019c3f mP) (hw0 : within 0xc1f008400000000000020000000000000000000000000000000000000000000000000000100000000000000000000400000000000000000000 wF) : Keeps.Res mP wF r0 (execQueueDelete c s) := by
  unfold execQueueDelete; try dsimp only
  with_reducible
    repeat' first
      | intro _ | assumption | exact within_trans (by decide +kernel) hm0 | exact within_trans (by decide +kernel) hw0
      | apply runCmdLater_keeps | apply State.queueDelete_keeps | apply Keeps.next
      | refine Keeps.fst ?_ (by assumption) | dsimp only

theorem execSetWrrWeights_keeps {mP wF : Nat} {r0 : State} (c : Cmd) (s : State) (hk : Keeps mP wF r0 s) (hm0 : within 0x2019c3f mP) (hw0 : within 0xc1f008400000000000020000000000000000000000000000000000000000000000000000100000000000000000000400000000000000000000 wF) : Keeps.Res mP wF r0 (execSetWrrWeights c s) := by
  unfold execSetWrrWeights; try dsimp only
  with_reducible
    repeat' first
      | intro _ | assumption | exact within_trans (by decide +kernel) hm0 | exact within_trans (by decide +kernel) hw0
      | apply runCmd_keeps | apply State.updWrr_keeps | apply Keeps.next | dsimp only

end Sys2Proof.Machine
end

