-- ==== Sys2Proof/Laws/KeepsKeep.lean ====
section
/-! SUPPORT. The operations of Machine/Keep.lean keep the memory form, the field widths and the queue. -/

set_option Elab.async false
namespace Sys2Proof.Machine

theorem State.setSlot_keeps {mP wF : Nat} {r0 : State} (s : State) (k : Nat) (f : FwSlot) (hk : Keeps mP wF r0 s) (hm0 : within 0x10 mP) : Keeps mP wF r0 (State.setSlot s k f) := by
  unfold State.setSlot; try dsimp only
  with_reducible
    repeat' first
      | intro _ | assumption | exact within_trans (by decide +kernel) hm0 | apply State.updCp_keeps | apply Keeps.ite
      | split | dsimp only

theorem State.fwDownload_keeps {mP wF : Nat} {r0 : State} (s : State) (c : Cmd) (hk : Keeps mP wF r0 s) (hm0 : within 0x10 mP) : Keeps mP wF r0 (State.fwDownload s c).1 := by
  unfold State.fwDownload; try dsimp only
  with_reducible
    repeat' first
      | intro _ | assumption | exact within_trans (by decide +kernel) hm0 | apply State.updCp_keeps
      | apply State.setSlot_keeps | apply Keeps.ite | apply Keeps.iteFst | split | dsimp only

theorem execFwDownload_keeps {mP wF : Nat} {r0 : State} (c : Cmd) (s : State) (hk : Keeps mP wF r0 s) (hm0 : within 0x2019c3f mP) (hw0 : within 0xc1f008400000000000020000000000000000000000000000000000000000000000000000100000000000000000000400000000000000000000 wF) : Keeps.Res mP wF r0 (execFwDownload c s) := by
  unfold execFwDownload; try dsimp only
  with_reducible
    repeat' first
      | intro _ | assumption | exact within_trans (by decide +kernel) hm0 | exact within_trans (by decide +kernel) hw0
      | apply runCmd_keeps | apply State.fwDownload_keeps | apply Keeps.next | refine Keeps.fst ?_ (by assumption)
      | dsimp only

theorem State.fwVerify_keeps {mP wF : Nat} {r0 : State} (s : State) (c : Cmd) (hk : Keeps mP wF r0 s) (hm0 : within 0x10 mP) : Keeps mP wF r0 (State.fwVerify s c).1 := by
  unfold State.fwVerify; try dsimp only
  with_reducible
    repeat' first
      | intro _ | assumption | exact within_trans (by decide +kernel) hm0 | apply State.updCp_keeps
      | apply State.setSlot_keeps | apply Keeps.ite | apply Keeps.iteFst | split | dsimp only

theorem execFwCommitStage_keeps {mP wF : Nat} {r0 : State} (c : Cmd) (s : State) (hk : Keeps mP wF r0 s) (hm0 : within 0x2019c3f mP) (hw0 : within 0xc1f008400000000000020000000000000000000000000000000000000000000000000000100000000000000000000400000000000000000000 wF) : Keeps.Res mP wF r0 (execFwCommitStage c s) := by
  unfold execFwCommitStage; try dsimp only
  with_reducible
    repeat' first
      | intro _ | assumption | exact within_trans (by decide +kernel) hm0 | exact within_trans (by decide +kernel) hw0
      | apply runCmd_keeps | apply State.fwVerify_keeps | apply Keeps.next | refine Keeps.fst ?_ (by assumption)
      | split | dsimp only

theorem execFwCommitNextReset_keeps {mP wF : Nat} {r0 : State} (c : Cmd) (s : State) (hk : Keeps mP wF r0 s) (hm0 : within 0x2019c3f mP) (hw0 : within 0xc1f008400000000000020000000000000000000000000000000000000000000000000000100000000000000000000400000000000000000000 wF) : Keeps.Res mP wF r0 (execFwCommitNextReset c s) := by
  unfold execFwCommitNextReset; try dsimp only
  with_reducible
    repeat' first
      | intro _ | assumption | exact within_trans (by decide +kernel) hm0 | exact within_trans (by decide +kernel) hw0
      | apply runCmd_keeps | apply State.setRuns_keeps | apply State.fwVerify_keeps | apply Keeps.next
      | refine Keeps.fst ?_ (by assumption) | split | dsimp only

theorem execFwCommitLive_keeps {mP wF : Nat} {r0 : State} (c : Cmd) (s : State) (hk : Keeps mP wF r0 s) (hm0 : within 0x2019c3f mP) (hw0 : within 0xc1f008400000000000020000000000000000000000000000000000000000000000000000100000000000000000000400000000000000000000 wF) : Keeps.Res mP wF r0 (execFwCommitLive c s) := by
  unfold execFwCommitLive; try dsimp only
  with_reducible
    repeat' first
      | intro _ | assumption | exact within_trans (by decide +kernel) hm0 | exact within_trans (by decide +kernel) hw0
      | apply State.updCp_keeps | apply runCmdLater_keeps | apply State.setRuns_keeps | apply State.fwVerify_keeps
      | apply Keeps.next | apply Keeps.ite | apply Keeps.iteFst | apply Keeps.iteOpt
      | refine Keeps.fst ?_ (by assumption) | split | dsimp only | apply within_ite

theorem execConfigWrite_keeps {mP wF : Nat} {r0 : State} (c : Cmd) (s : State) (hk : Keeps mP wF r0 s) (hm0 : within 0x2019c3f mP) (hw0 : within 0xc1f008400000000000020000000000000000000000000000000000000000000000000000100000000000000000000400000000000000000000 wF) : Keeps.Res mP wF r0 (execConfigWrite c s) := by
  unfold execConfigWrite; try dsimp only
  with_reducible
    repeat' first
      | intro _ | assumption | exact within_trans (by decide +kernel) hm0 | exact within_trans (by decide +kernel) hw0
      | apply State.updCp_keeps | apply runCmd_keeps | apply Keeps.next | apply Keeps.ite | apply Keeps.iteFst | split
      | dsimp only | apply within_ite

theorem execConfigRead_keeps {mP wF : Nat} {r0 : State} (c : Cmd) (s : State) (hk : Keeps mP wF r0 s) (hm0 : within 0x2019c3f mP) (hw0 : within 0xc1f008400000000000020000000000000000000000000000000000000000000000000000100000000000000000000400000000000000000000 wF) : Keeps.Res mP wF r0 (execConfigRead c s) := by
  unfold execConfigRead; try dsimp only
  with_reducible
    repeat' first
      | intro _ | assumption | exact within_trans (by decide +kernel) hm0 | exact within_trans (by decide +kernel) hw0
      | apply runCmd_keeps | apply Keeps.next | apply Keeps.ite | apply Keeps.iteFst | split | dsimp only
      | apply within_ite

theorem execJnsCreate_keeps {mP wF : Nat} {r0 : State} (c : Cmd) (s : State) (hk : Keeps mP wF r0 s) (hm0 : within 0x2019c3f mP) (hw0 : within 0xc1f008400000000000020000000000000000000000000000000000000000000000000000100000000000000000000400000000000000000000 wF) : Keeps.Res mP wF r0 (execJnsCreate c s) := by
  unfold execJnsCreate; try dsimp only
  with_reducible
    repeat' first
      | intro _ | assumption | exact within_trans (by decide +kernel) hm0 | exact within_trans (by decide +kernel) hw0
      | apply State.updCp_keeps | apply runCmd_keeps | apply Keeps.next | apply Keeps.ite | apply Keeps.iteFst | split
      | dsimp only | apply within_ite

theorem execJnsDelete_keeps {mP wF : Nat} {r0 : State} (c : Cmd) (s : State) (hk : Keeps mP wF r0 s) (hm0 : within 0x2019c3f mP) (hw0 : within 0xc1f008400000000000020000000000000000000000000000000000000000000000000000100000000000000000000400000000000000000000 wF) : Keeps.Res mP wF r0 (execJnsDelete c s) := by
  unfold execJnsDelete; try dsimp only
  with_reducible
    repeat' first
      | intro _ | assumption | exact within_trans (by decide +kernel) hm0 | exact within_trans (by decide +kernel) hw0
      | apply State.updCp_keeps | apply runCmd_keeps | apply Keeps.next | apply Keeps.ite | apply Keeps.iteFst | split
      | dsimp only | apply within_ite

theorem State.blockWrite_keeps {mP wF : Nat} {r0 : State} (s : State) (a : Nat) (bs : List Byte) (b : Nat) (hk : Keeps mP wF r0 s) (hm0 : within 0x10 mP) : Keeps mP wF r0 (State.blockWrite s a bs b) := by
  unfold State.blockWrite; try dsimp only
  with_reducible
    repeat' first
      | intro _ | assumption | exact within_trans (by decide +kernel) hm0 | apply State.updCp_keeps | dsimp only

theorem State.journalBlock_keeps {mP wF : Nat} {r0 : State} (s : State) (c : Cmd) (j : Jns) (hk : Keeps mP wF r0 s) (hm0 : within 0x201941f mP) (hw0 : within 0x8400000000000000000000000000000000000000000000000000000000000000000100000000000000000000000000000000000000000 wF) : Keeps mP wF r0 (State.journalBlock s c j) := by
  unfold State.journalBlock; try dsimp only
  with_reducible
    repeat' first
      | assumption | exact within_trans (by decide +kernel) hm0 | exact within_trans (by decide +kernel) hw0
      | apply State.hold_keeps | apply State.finish_keeps | apply State.blockWrite_keeps | apply Keeps.ite | split
      | dsimp only | apply within_ite

theorem execJournalWrite_keeps {mP wF : Nat} {r0 : State} (c : Cmd) (s : State) (hk : Keeps mP wF r0 s) (hm0 : within 0x2019c3f mP) (hw0 : within 0xc1f008400000000000020000000000000000000000000000000000000000000000000000100000000000000000000400000000000000000000 wF) : Keeps.Res mP wF r0 (execJournalWrite c s) := by
  unfold execJournalWrite; try dsimp only
  with_reducible
    repeat' first
      | intro _ | assumption | exact within_trans (by decide +kernel) hm0 | exact within_trans (by decide +kernel) hw0
      | apply State.updCp_keeps | apply State.finish_keeps | apply State.silence_keeps
      | apply State.journalBlock_keeps | apply Keeps.next | apply Keeps.ite | apply Keeps.iteFst | split | dsimp only
      | apply within_ite

theorem State.tearBlocks_keeps {mP wF : Nat} {r0 : State} (s : State) (hk : Keeps mP wF r0 s) (hm0 : within 0x4000010 mP) : Keeps mP wF r0 (State.tearBlocks s) := by
  unfold State.tearBlocks; try dsimp only
  with_reducible
    repeat' first
      | intro _ | assumption | exact within_trans (by decide +kernel) hm0 | apply State.drawn_keeps
      | apply State.updCp_keeps | apply Keeps.foldl | apply Keeps.foldlFst | apply Keeps.ite | split | dsimp only

theorem execJournalRead_keeps {mP wF : Nat} {r0 : State} (c : Cmd) (s : State) (hk : Keeps mP wF r0 s) (hm0 : within 0x2019c3f mP) (hw0 : within 0xc1f008400000000000020000000000000000000000000000000000000000000000000000100000000000000000000400000000000000000000 wF) : Keeps.Res mP wF r0 (execJournalRead c s) := by
  unfold execJournalRead; try dsimp only
  with_reducible
    repeat' first
      | intro _ | assumption | exact within_trans (by decide +kernel) hm0 | exact within_trans (by decide +kernel) hw0
      | apply State.silence_keeps | apply runCmd_keeps | apply Keeps.next | apply Keeps.ite | apply Keeps.iteFst
      | split | dsimp only | apply within_ite

end Sys2Proof.Machine
end

