-- ==== Sys2Proof/Laws/KeepsTick.lean ====
section
/-! SUPPORT. The operations of Machine/Tick.lean keep the memory form, the field widths and the queue. -/

set_option Elab.async false
namespace Sys2Proof.Machine

theorem State.updTe_keeps {mP wF : Nat} {r0 : State} (s : State) (f : TickEngine → TickEngine) (hk : Keeps mP wF r0 s)
    (hm0 : within 0x200 mP) : Keeps mP wF r0 (s.updTe f) :=
  Keeps.record hk rfl fun p hp => by
    cases p <;> first
      | exact rfl
      | exact absurd (hp.symm.trans (within_bit hm0 (by decide +kernel))) Bool.false_ne_true

theorem State.countCycles_keeps {mP wF : Nat} {r0 : State} (s : State) (g : Nat) (hk : Keeps mP wF r0 s) (hm0 : within 0x400 mP) : Keeps mP wF r0 (State.countCycles s g) := by
  unfold State.countCycles; try dsimp only
  with_reducible
    repeat' first
      | assumption | exact within_trans (by decide +kernel) hm0 | apply State.countCore_keeps
      | apply State.countFixed_keeps | apply State.admitInt_keeps | apply Keeps.ite | split | dsimp only

theorem State.passNs_keeps {mP wF : Nat} {r0 : State} (s : State) (hk : Keeps mP wF r0 s) (hm0 : within 0x601 mP) (hw0 : within 0x800000000000000000000 wF) : Keeps mP wF r0 (State.passNs s) := by
  unfold State.passNs; try dsimp only
  with_reducible
    repeat' first
      | intro _ | assumption | exact within_trans (by decide +kernel) hm0 | exact within_trans (by decide +kernel) hw0
      | apply State.put_keeps | apply State.updTe_keeps | apply State.countCycles_keeps | apply Keeps.foldl
      | apply Keeps.foldlFst | apply Keeps.ite | split | dsimp only | apply within_ite

theorem State.ctlGate_keeps {mP wF : Nat} {r0 : State} (s : State) (a : Acc) (ok : Bool) (h : Nat) (addr : Nat) (f : State → State) (hk : Keeps mP wF r0 s) (hf : ∀ x0, Keeps mP wF r0 x0 → Keeps mP wF r0 (f x0)) (hm0 : within 0x2000831 mP) (hw0 : within 0xc1f000000000000000020000000000000000000000000000000000000000000000000000000000000000000000000400000000000000000000 wF) : Keeps mP wF r0 (State.ctlGate s a ok h addr f) := by
  unfold State.ctlGate; try dsimp only
  with_reducible
    repeat' first
      | assumption | exact within_trans (by decide +kernel) hm0 | exact within_trans (by decide +kernel) hw0
      | apply State.logSec_keeps | apply State.refuse_keeps | apply hf | apply Keeps.ite
      | refine Keeps.fst ?_ (by assumption) | split | dsimp only | apply within_ite

theorem State.secureOnly_keeps {mP wF : Nat} {r0 : State} (s : State) (a : Acc) (h : Nat) (addr : Nat) (f : State → State) (hk : Keeps mP wF r0 s) (hf : ∀ x0, Keeps mP wF r0 x0 → Keeps mP wF r0 (f x0)) (hm0 : within 0x2000831 mP) (hw0 : within 0xc1f000000000000000020000000000000000000000000000000000000000000000000000000000000000000000000400000000000000000000 wF) : Keeps mP wF r0 (State.secureOnly s a h addr f) := by
  unfold State.secureOnly; try dsimp only
  with_reducible
    repeat' first
      | assumption | exact within_trans (by decide +kernel) hm0 | exact within_trans (by decide +kernel) hw0
      | apply State.ctlGate_keeps | apply hf | refine Keeps.fst ?_ (by assumption)

theorem State.ptStep_keeps {mP wF : Nat} {r0 : State} (s : State) (v : Nat) (hk : Keeps mP wF r0 s) (hm0 : within 0x2000831 mP) (hw0 : within 0xc1f000000000000000020000000000000000000000000000000000000000000000000000000000000000000000400800000000000000000000 wF) : Keeps mP wF r0 (State.ptStep s v) := by
  unfold State.ptStep; try dsimp only
  with_reducible
    repeat' first
      | assumption | exact within_trans (by decide +kernel) hm0 | exact within_trans (by decide +kernel) hw0
      | apply State.put_keeps | apply State.setFlag_keeps | apply State.logSec_keeps | apply Keeps.ite | split
      | dsimp only | apply within_ite

theorem execPtStep_keeps {mP wF : Nat} {r0 : State} (a : Acc) (h : Half) (v : Word) (s : State) (hk : Keeps mP wF r0 s) (hm0 : within 0x2000831 mP) (hw0 : within 0xc1f000000000000000020000000000000000000000000000000000000000000000000000000000000000000000400c00000000000000000000 wF) : Keeps.Res mP wF r0 (execPtStep a h v s) := by
  unfold execPtStep; try dsimp only
  with_reducible
    repeat' first
      | intro _ | assumption | exact within_trans (by decide +kernel) hm0 | exact within_trans (by decide +kernel) hw0
      | apply State.secureOnly_keeps | apply State.ptStep_keeps | apply Keeps.next | dsimp only

theorem State.ptPhase_keeps {mP wF : Nat} {r0 : State} (s : State) (v : Nat) (hk : Keeps mP wF r0 s) (hm0 : within 0x201 mP) (hw0 : within 0x200000000000000000000000 wF) : Keeps mP wF r0 (State.ptPhase s v) := by
  unfold State.ptPhase; try dsimp only
  with_reducible
    repeat' first
      | intro _ | assumption | exact within_trans (by decide +kernel) hm0 | exact within_trans (by decide +kernel) hw0
      | apply State.setFlag_keeps | apply State.updTe_keeps | dsimp only

theorem State.servoPhase_keeps {mP wF : Nat} {r0 : State} (s : State) (off : Int) (hk : Keeps mP wF r0 s) (hm0 : within 0x201 mP) (hw0 : within 0x200000000000000000000000 wF) : Keeps mP wF r0 (State.servoPhase s off) := by
  unfold State.servoPhase; try dsimp only
  with_reducible
    repeat' first
      | intro _ | assumption | exact within_trans (by decide +kernel) hm0 | exact within_trans (by decide +kernel) hw0
      | apply State.setFlag_keeps | apply State.updTe_keeps | dsimp only

theorem execPtPhase_keeps {mP wF : Nat} {r0 : State} (a : Acc) (h : Half) (v : Word) (s : State) (hk : Keeps mP wF r0 s) (hm0 : within 0x2000a31 mP) (hw0 : within 0xc1f000000000000000020000000000000000000000000000000000000000000000000000000000000000000000200400000000000000000000 wF) : Keeps.Res mP wF r0 (execPtPhase a h v s) := by
  unfold execPtPhase; try dsimp only
  with_reducible
    repeat' first
      | intro _ | assumption | exact within_trans (by decide +kernel) hm0 | exact within_trans (by decide +kernel) hw0
      | apply State.secureOnly_keeps | apply State.ptPhase_keeps | apply Keeps.next | dsimp only

theorem execPhaseRemainderAbsorbed_keeps {mP wF : Nat} {r0 : State} (s : State) (hk : Keeps mP wF r0 s) (hm0 : within 0x1 mP) (hw0 : within 0x800000000000000000000000000000000000000000000000000000200000000000000000000000 wF) : Keeps.Res mP wF r0 (execPhaseRemainderAbsorbed s) := by
  unfold execPhaseRemainderAbsorbed; try dsimp only
  with_reducible
    repeat' first
      | assumption | exact within_trans (by decide +kernel) hm0 | exact within_trans (by decide +kernel) hw0
      | apply State.setFlag_keeps | apply Keeps.next | apply Keeps.ite | apply Keeps.iteFst | split | dsimp only
      | apply within_ite

theorem execPpsEdge_keeps {mP wF : Nat} {r0 : State} (h : Half) (s : State) (hk : Keeps mP wF r0 s) (hm0 : within 0x1 mP) (hw0 : within 0x40000000000000000000000 wF) : Keeps.Res mP wF r0 (execPpsEdge h s) := by
  unfold execPpsEdge; try dsimp only
  with_reducible
    repeat' first
      | assumption | exact within_trans (by decide +kernel) hm0 | exact within_trans (by decide +kernel) hw0
      | apply State.put_keeps | apply Keeps.next | apply Keeps.ite | apply Keeps.iteFst | split | dsimp only
      | apply within_ite

theorem State.sourceLost_keeps {mP wF : Nat} {r0 : State} (s : State) (lost : Bool) (hk : Keeps mP wF r0 s) (hm0 : within 0x2000831 mP) (hw0 : within 0xc1f000000000000000020000000000000000000000000000000000000000000000000000000000000000000000180000000000000000000000 wF) : Keeps mP wF r0 (State.sourceLost s lost) := by
  unfold State.sourceLost; try dsimp only
  with_reducible
    repeat' first
      | assumption | exact within_trans (by decide +kernel) hm0 | exact within_trans (by decide +kernel) hw0
      | apply State.setFlag_keeps | apply State.logSec_keeps | apply Keeps.ite | split | dsimp only | apply within_ite

theorem execPtimeSourceLost_keeps {mP wF : Nat} {r0 : State} (lost : Bool) (s : State) (hk : Keeps mP wF r0 s) (hm0 : within 0x2000831 mP) (hw0 : within 0xc1f000000000000000020000000000000000000000000000000000000000000000000000000000000000000000180000000000000000000000 wF) : Keeps.Res mP wF r0 (execPtimeSourceLost lost s) := by
  unfold execPtimeSourceLost; try dsimp only
  with_reducible
    repeat' first
      | assumption | exact within_trans (by decide +kernel) hm0 | exact within_trans (by decide +kernel) hw0
      | apply State.sourceLost_keeps | apply Keeps.next

theorem execPtimeAlign_keeps {mP wF : Nat} {r0 : State} (d : Die) (s : State) (hk : Keeps mP wF r0 s) (hm0 : within 0x200 mP) : Keeps.Res mP wF r0 (execPtimeAlign d s) := by
  unfold execPtimeAlign; try dsimp only
  with_reducible
    repeat' first
      | intro _ | assumption | exact within_trans (by decide +kernel) hm0 | apply State.updTe_keeps | apply Keeps.next
      | dsimp only

theorem State.updCtx_keeps {mP wF : Nat} {r0 : State} (s : State) (p : Nat) (f : TickCtx → TickCtx) (hk : Keeps mP wF r0 s) (hm0 : within 0x200 mP) : Keeps mP wF r0 (State.updCtx s p f) := by
  unfold State.updCtx; try dsimp only
  with_reducible
    repeat' first
      | intro _ | assumption | exact within_trans (by decide +kernel) hm0 | apply State.updTe_keeps | dsimp only

theorem State.noteEdge_keeps {mP wF : Nat} {r0 : State} (s : State) (p : Nat) (h : Nat) (hk : Keeps mP wF r0 s) (hm0 : within 0x200 mP) : Keeps mP wF r0 (State.noteEdge s p h) := by
  unfold State.noteEdge; try dsimp only
  with_reducible
    repeat' first
      | intro _ | assumption | exact within_trans (by decide +kernel) hm0 | apply State.updCtx_keeps | apply Keeps.ite
      | split | dsimp only

theorem State.slackShut_keeps {mP wF : Nat} {r0 : State} (s : State) (hk : Keeps mP wF r0 s) (hm0 : within 0x200 mP) : Keeps mP wF r0 (State.slackShut s) := by
  unfold State.slackShut; try dsimp only
  with_reducible
    repeat' first
      | intro _ | assumption | exact within_trans (by decide +kernel) hm0 | apply State.updTe_keeps | dsimp only

theorem State.pairCheck_keeps {mP wF : Nat} {r0 : State} (s : State) (p : Nat) (hk : Keeps mP wF r0 s) (hm0 : within 0x2000a31 mP) (hw0 : within 0xc1f000000000000000020000000000000000000000000000000000000000000000000000000000000000000400000000000000000000000000 wF) : Keeps mP wF r0 (State.pairCheck s p) := by
  unfold State.pairCheck; try dsimp only
  with_reducible
    repeat' first
      | intro _ | assumption | exact within_trans (by decide +kernel) hm0 | exact within_trans (by decide +kernel) hw0
      | apply State.setFlag_keeps | apply State.logPols_keeps | apply State.updCtx_keeps | apply Keeps.ite | split
      | dsimp only | apply within_ite

theorem State.mismatchCheck_keeps {mP wF : Nat} {r0 : State} (s : State) (p : Nat) (num : Nat) (edge : Nat) (chk : Option (Nat × Nat)) (hk : Keeps mP wF r0 s) (hm0 : within 0x2000831 mP) (hw0 : within 0xc1f000000000000000020000000000000000000000000000000000000000000000000000000000000008000000000000000000000000000000 wF) : Keeps mP wF r0 (State.mismatchCheck s p num edge chk) := by
  unfold State.mismatchCheck; try dsimp only
  with_reducible
    repeat' first
      | assumption | exact within_trans (by decide +kernel) hm0 | exact within_trans (by decide +kernel) hw0
      | apply State.bump_keeps | apply State.logPolSec_keeps | apply Keeps.ite | split | dsimp only | apply within_ite

theorem State.sendTick_keeps {mP wF : Nat} {r0 : State} (s : State) (p : Nat) (m : TickMsg) (hk : Keeps mP wF r0 s) (hm0 : within 0x200 mP) : Keeps mP wF r0 (State.sendTick s p m) := by
  unfold State.sendTick; try dsimp only
  with_reducible
    repeat' first
      | intro _ | assumption | exact within_trans (by decide +kernel) hm0 | apply State.updCtx_keeps | dsimp only

theorem State.handOver_keeps {mP wF : Nat} {r0 : State} (s : State) (p : Nat) (h : Nat) (cause : Nat) (hk : Keeps mP wF r0 s) (hm0 : within 0x200 mP) : Keeps mP wF r0 (State.handOver s p h cause) := by
  unfold State.handOver; try dsimp only
  with_reducible
    repeat' first
      | intro _ | assumption | exact within_trans (by decide +kernel) hm0 | apply State.updCtx_keeps | dsimp only

theorem State.movePref_keeps {mP wF : Nat} {r0 : State} (s : State) (p : Nat) (hk : Keeps mP wF r0 s) (hm0 : within 0x2000a31 mP) (hw0 : within 0xc1f000000000000000020000000000000000000000000000000000000000000000000000000000000104000000000000000000000000000000 wF) : Keeps mP wF r0 (State.movePref s p) := by
  unfold State.movePref; try dsimp only
  with_reducible
    repeat' first
      | intro _ | assumption | exact within_trans (by decide +kernel) hm0 | exact within_trans (by decide +kernel) hw0
      | apply State.put_keeps | apply State.bump_keeps | apply State.logPolSec_keeps | apply State.updCtx_keeps
      | apply Keeps.ite | split | dsimp only | apply within_ite

theorem State.encStall_keeps {mP wF : Nat} {r0 : State} (s : State) (p : Nat) (hk : Keeps mP wF r0 s) (hm0 : within 0x601 mP) (hw0 : within 0x400000000000000000000000000000000 wF) : Keeps mP wF r0 (State.encStall s p) := by
  unfold State.encStall; try dsimp only
  with_reducible
    repeat' first
      | intro _ | assumption | exact within_trans (by decide +kernel) hm0 | exact within_trans (by decide +kernel) hw0
      | apply State.put_keeps | apply State.tickFault_keeps | apply State.updCtx_keeps | apply Keeps.ite | split
      | dsimp only | apply within_ite

theorem State.encStallAll_keeps {mP wF : Nat} {r0 : State} (s : State) (e : Nat) (ps : List Nat) (hk : Keeps mP wF r0 s) (hm0 : within 0x2000e31 mP) (hw0 : within 0xc1f000000000000000020000000000000000000000000000000000000000000000000000000000000400000000000000000000000000000000 wF) : Keeps mP wF r0 (State.encStallAll s e ps) := by
  unfold State.encStallAll; try dsimp only
  with_reducible
    repeat' first
      | intro _ | assumption | exact within_trans (by decide +kernel) hm0 | exact within_trans (by decide +kernel) hw0
      | apply State.logPols_keeps | apply State.encStall_keeps | apply Keeps.foldl | apply Keeps.foldlFst
      | apply Keeps.ite | split | dsimp only | apply within_ite

theorem State.encDown_keeps {mP wF : Nat} {r0 : State} (s : State) (e : Nat) (hk : Keeps mP wF r0 s) (hm0 : within 0x2000e31 mP) (hw0 : within 0xc1f000000000000000020000000000000000000000000000000000000000000000000000000000000400000000000000000000000000000000 wF) : Keeps mP wF r0 (State.encDown s e) := by
  unfold State.encDown; try dsimp only
  with_reducible
    repeat' first
      | intro _ | assumption | exact within_trans (by decide +kernel) hm0 | exact within_trans (by decide +kernel) hw0
      | apply State.handOver_keeps | apply State.encStallAll_keeps | apply Keeps.foldl | apply Keeps.foldlFst
      | apply Keeps.ite | split | dsimp only | apply within_ite

theorem State.missAll_keeps {mP wF : Nat} {r0 : State} (s : State) (p : Nat) (n : Nat) (hk : Keeps mP wF r0 s) (hm0 : within 0x400 mP) : Keeps mP wF r0 (State.missAll s p n) := by
  unfold State.missAll; try dsimp only
  with_reducible
    repeat' first
      | intro _ | assumption | exact within_trans (by decide +kernel) hm0 | apply State.updTick_keeps
      | apply Keeps.foldl | apply Keeps.foldlFst | apply Keeps.ite | split | dsimp only

theorem State.configDone_keeps {mP wF : Nat} {r0 : State} (s : State) (p : Nat) (n : Nat) (hk : Keeps mP wF r0 s) (hm0 : within 0x201961f mP) (hw0 : within 0x8400000000000000000000000000000000000000000000000000000000000000000100000000000000000000000000000000000000000 wF) : Keeps mP wF r0 (State.configDone s p n) := by
  unfold State.configDone; try dsimp only
  with_reducible
    repeat' first
      | intro _ | assumption | exact within_trans (by decide +kernel) hm0 | exact within_trans (by decide +kernel) hw0
      | apply State.finish_keeps | apply State.updCtx_keeps | split | dsimp only

theorem State.encStart_keeps {mP wF : Nat} {r0 : State} (s : State) (p : Nat) (hk : Keeps mP wF r0 s) (hm0 : within 0x2000e31 mP) (hw0 : within 0xc1f000000000000000020000000000000000000000000000000000000000000000000000000000000400000000000000000000000000000000 wF) : Keeps mP wF r0 (State.encStart s p) := by
  unfold State.encStart; try dsimp only
  with_reducible
    repeat' first
      | assumption | exact within_trans (by decide +kernel) hm0 | exact within_trans (by decide +kernel) hw0
      | apply State.handOver_keeps | apply State.encStallAll_keeps | apply Keeps.ite | split | dsimp only
      | apply within_ite

theorem State.takeConfig_keeps {mP wF : Nat} {r0 : State} (s : State) (p : Nat) (ws : List Word) (t : Nat) (hk : Keeps mP wF r0 s) (hm0 : within 0x2019e3f mP) (hw0 : within 0xc1f008400000000000020000000000000000000000000000000000000000000000000000100000000420000000000000000000000000000000 wF) : Keeps mP wF r0 (State.takeConfig s p ws t) := by
  unfold State.takeConfig; try dsimp only
  with_reducible
    repeat' first
      | intro _ | assumption | exact within_trans (by decide +kernel) hm0 | exact within_trans (by decide +kernel) hw0
      | apply State.put_keeps | apply State.updCtx_keeps | apply State.configDone_keeps | apply State.encStart_keeps
      | apply Keeps.foldl | apply Keeps.foldlFst | apply Keeps.ite | split | dsimp only | apply within_ite

theorem State.edgeState_keeps {mP wF : Nat} {r0 : State} (s : State) (p : Nat) (hk : Keeps mP wF r0 s) (hm0 : within 0x201 mP) (hw0 : within 0x400000000000000000000000000000000 wF) : Keeps mP wF r0 (State.edgeState s p) := by
  unfold State.edgeState; try dsimp only
  with_reducible
    repeat' first
      | intro _ | assumption | exact within_trans (by decide +kernel) hm0 | exact within_trans (by decide +kernel) hw0
      | apply State.put_keeps | apply State.updCtx_keeps | apply Keeps.ite | split | dsimp only | apply within_ite

theorem State.tickOut_keeps {mP wF : Nat} {r0 : State} (s : State) (p : Nat) (m : TickMsg) (hk : Keeps mP wF r0 s) (hm0 : within 0x2000e31 mP) (hw0 : within 0xc1f000000000000000020000000000000000000000000000000000000000000000000000000000000400000000000000000000000000000000 wF) : Keeps mP wF r0 (State.tickOut s p m) := by
  unfold State.tickOut; try dsimp only
  with_reducible
    repeat' first
      | intro _ | assumption | exact within_trans (by decide +kernel) hm0 | exact within_trans (by decide +kernel) hw0
      | apply State.put_keeps | apply State.logPol_keeps | apply State.tickFault_keeps | apply State.updCtx_keeps
      | apply State.sendTick_keeps | apply State.missAll_keeps | apply Keeps.ite | split | dsimp only
      | apply within_ite

theorem State.tickEdge_keeps {mP wF : Nat} {r0 : State} (s : State) (p : Nat) (edge : Nat) (extra : Nat) (count : Word) (chk : Option (Nat × Nat)) (hk : Keeps mP wF r0 s) (hm0 : within 0x2019ebf mP) (hw0 : within 0xc1f008400000000000020000000000000000000000000000000000000000000000000000100000008f2c000400000000000000000000000000 wF) : Keeps mP wF r0 (State.tickEdge s p edge extra count chk) := by
  unfold State.tickEdge; try dsimp only
  with_reducible
    repeat' first
      | intro _ | assumption | exact within_trans (by decide +kernel) hm0 | exact within_trans (by decide +kernel) hw0
      | apply State.put_keeps | apply State.bump_keeps | apply State.updPolder_keeps | apply State.logPol_keeps
      | apply State.updCtx_keeps | apply State.slackShut_keeps | apply State.pairCheck_keeps
      | apply State.mismatchCheck_keeps | apply State.movePref_keeps | apply State.takeConfig_keeps
      | apply State.edgeState_keeps | apply State.tickOut_keeps | apply Keeps.ite | split | dsimp only
      | apply within_ite

theorem State.hostTick_keeps {mP wF : Nat} {r0 : State} (s : State) (p : Nat) (hk : Keeps mP wF r0 s) (hm0 : within 0x2019ebf mP) (hw0 : within 0xc1f008400000000000020000000000000000000000000000000000000000000000000000100000008f2c000400000000000000000000000000 wF) : Keeps mP wF r0 (State.hostTick s p) := by
  unfold State.hostTick; try dsimp only
  with_reducible
    repeat' first
      | assumption | exact within_trans (by decide +kernel) hm0 | exact within_trans (by decide +kernel) hw0
      | apply State.tickEdge_keeps | apply Keeps.ite | split | dsimp only | apply within_ite

theorem execHostTick_keeps {mP wF : Nat} {r0 : State} (a : Acc) (h : Half) (p : Pol) (s : State) (hk : Keeps mP wF r0 s) (hm0 : within 0x2019ebf mP) (hw0 : within 0xc1f008400000000000020000000000000000000000000000000000000000000000000000100000008f2c000400000400000000000000000000 wF) : Keeps.Res mP wF r0 (execHostTick a h p s) := by
  unfold execHostTick; try dsimp only
  with_reducible
    repeat' first
      | intro _ | assumption | exact within_trans (by decide +kernel) hm0 | exact within_trans (by decide +kernel) hw0
      | apply State.secureOnly_keeps | apply State.hostTick_keeps | apply Keeps.next | dsimp only

theorem execTickConfigTakeEffect_keeps {mP wF : Nat} {r0 : State} (p : Pol) (s : State) (hk : Keeps mP wF r0 s) (hm0 : within 0x2019e3f mP) (hw0 : within 0xc1f008400000000000020000000000000000000000000000000000000000000000000000100000000420000000000000000000000000000000 wF) : Keeps.Res mP wF r0 (execTickConfigTakeEffect p s) := by
  unfold execTickConfigTakeEffect; try dsimp only
  with_reducible
    repeat' first
      | assumption | exact within_trans (by decide +kernel) hm0 | exact within_trans (by decide +kernel) hw0
      | apply State.takeConfig_keeps | apply Keeps.next | apply Keeps.ite | apply Keeps.iteFst | split | dsimp only
      | apply within_ite

theorem execEncoderStallTimeout_keeps {mP wF : Nat} {r0 : State} (p : Pol) (s : State) (hk : Keeps mP wF r0 s) (hm0 : within 0x2000a31 mP) (hw0 : within 0xc1f000000000000000020000000000000000000000000000000000000000000000000000000000000400000000000000000000000000000000 wF) : Keeps.Res mP wF r0 (execEncoderStallTimeout p s) := by
  unfold execEncoderStallTimeout; try dsimp only
  with_reducible
    repeat' first
      | intro _ | assumption | exact within_trans (by decide +kernel) hm0 | exact within_trans (by decide +kernel) hw0
      | apply State.put_keeps | apply State.logPol_keeps | apply State.updCtx_keeps | apply Keeps.next
      | apply Keeps.ite | apply Keeps.iteFst | split | dsimp only | apply within_ite

theorem State.tickResume_keeps {mP wF : Nat} {r0 : State} (s : State) (p : Nat) (hk : Keeps mP wF r0 s) (hm0 : within 0x200 mP) : Keeps mP wF r0 (State.tickResume s p) := by
  unfold State.tickResume; try dsimp only
  with_reducible
    repeat' first
      | intro _ | assumption | exact within_trans (by decide +kernel) hm0 | apply State.updCtx_keeps | apply Keeps.ite
      | split | dsimp only

theorem execTickResume_keeps {mP wF : Nat} {r0 : State} (a : Acc) (h : Half) (p : Pol) (s : State) (hk : Keeps mP wF r0 s) (hm0 : within 0x2000a31 mP) (hw0 : within 0xc1f000000000000000020000000000000000000000000000000000000000000000000000000000000000000000000400000000000000000000 wF) : Keeps.Res mP wF r0 (execTickResume a h p s) := by
  unfold execTickResume; try dsimp only
  with_reducible
    repeat' first
      | intro _ | assumption | exact within_trans (by decide +kernel) hm0 | exact within_trans (by decide +kernel) hw0
      | apply State.secureOnly_keeps | apply State.tickResume_keeps | apply Keeps.next | dsimp only

theorem State.updEnc_keeps {mP wF : Nat} {r0 : State} (s : State) (e : Nat) (f : EncIn → EncIn) (hk : Keeps mP wF r0 s) (hm0 : within 0x200 mP) : Keeps mP wF r0 (State.updEnc s e f) := by
  unfold State.updEnc; try dsimp only
  with_reducible
    repeat' first
      | intro _ | assumption | exact within_trans (by decide +kernel) hm0 | apply State.updTe_keeps | dsimp only

theorem State.encFail_keeps {mP wF : Nat} {r0 : State} (s : State) (e : Nat) (bit : Fld) (hk : Keeps mP wF r0 s) (hbit : within bit.mask wF) (hm0 : within 0x2000e31 mP) (hw0 : within 0xc1f000000000000000020000000000000000000000000000000000000000000000000000000000000400000800000000000000000000000000 wF) : Keeps mP wF r0 (State.encFail s e bit) := by
  unfold State.encFail; try dsimp only
  with_reducible
    repeat' first
      | assumption | exact within_trans (by decide +kernel) hm0 | exact within_trans (by decide +kernel) hw0
      | apply State.setFlag_keeps | apply State.encDown_keeps | apply Keeps.ite | split | dsimp only
      | apply within_ite

theorem State.encFault_keeps {mP wF : Nat} {r0 : State} (s : State) (e : Nat) (cause : EncFault) (hk : Keeps mP wF r0 s) (hm0 : within 0x2000e31 mP) (hw0 : within 0xc1f000000000000000020000000000000000000000000000000000000000000000000000000000000400001bc0000000000000000000000000 wF) : Keeps mP wF r0 (State.encFault s e cause) := by
  unfold State.encFault; try dsimp only
  with_reducible
    repeat' first
      | assumption | exact within_trans (by decide +kernel) hm0 | exact within_trans (by decide +kernel) hw0
      | apply State.bump_keeps | apply State.illegal_keeps | apply State.encFail_keeps | apply Keeps.ite | split
      | dsimp only | apply within_ite

theorem State.encCount_keeps {mP wF : Nat} {r0 : State} (s : State) (e : Nat) (n : Int) (hk : Keeps mP wF r0 s) (hm0 : within 0x2000e31 mP) (hw0 : within 0xc1f000000000000000020000000000000000000000000000000000000000000000000000000000000400001be0000000000000000000000000 wF) : Keeps mP wF r0 (State.encCount s e n) := by
  unfold State.encCount; try dsimp only
  with_reducible
    repeat' first
      | intro _ | assumption | exact within_trans (by decide +kernel) hm0 | exact within_trans (by decide +kernel) hw0
      | apply State.put_keeps | apply State.noteEdge_keeps | apply State.updEnc_keeps | apply State.encFault_keeps
      | apply Keeps.foldl | apply Keeps.foldlFst | apply Keeps.ite | split | dsimp only | apply within_ite

theorem State.encIndex_keeps {mP wF : Nat} {r0 : State} (s : State) (e : Nat) (hk : Keeps mP wF r0 s) (hm0 : within 0x2000e31 mP) (hw0 : within 0xc1f000000000000000020000000000000000000000000000000000000000000000000000000000000400001bc0000000000000000000000000 wF) : Keeps mP wF r0 (State.encIndex s e) := by
  unfold State.encIndex; try dsimp only
  with_reducible
    repeat' first
      | intro _ | assumption | exact within_trans (by decide +kernel) hm0 | exact within_trans (by decide +kernel) hw0
      | apply State.updEnc_keeps | apply State.encFault_keeps | apply Keeps.ite | split | dsimp only
      | apply within_ite

theorem execEncoderCount_keeps {mP wF : Nat} {r0 : State} (e : Fin 16) (a : Bool) (b : Bool) (z : Bool) (held : Nat) (s : State) (hk : Keeps mP wF r0 s) (hm0 : within 0x2000e31 mP) (hw0 : within 0xc1f000000000000000020000000000000000000000000000000000000000000000000000000000000400001be0000000000000000000000000 wF) : Keeps.Res mP wF r0 (execEncoderCount e a b z held s) := by
  unfold execEncoderCount; try dsimp only
  with_reducible
    repeat' first
      | intro _ | assumption | exact within_trans (by decide +kernel) hm0 | exact within_trans (by decide +kernel) hw0
      | apply State.illegal_keeps | apply State.updEnc_keeps | apply State.encFault_keeps | apply State.encCount_keeps
      | apply State.encIndex_keeps | apply Keeps.next | apply Keeps.ite | apply Keeps.iteFst | split | dsimp only
      | apply within_ite

theorem execEncoderInputFail_keeps {mP wF : Nat} {r0 : State} (e : Fin 16) (cause : EncFault) (s : State) (hk : Keeps mP wF r0 s) (hm0 : within 0x2000e31 mP) (hw0 : within 0xc1f000000000000000020000000000000000000000000000000000000000000000000000000000000400001bc0000000000000000000000000 wF) : Keeps.Res mP wF r0 (execEncoderInputFail e cause s) := by
  unfold execEncoderInputFail; try dsimp only
  with_reducible
    repeat' first
      | assumption | exact within_trans (by decide +kernel) hm0 | exact within_trans (by decide +kernel) hw0
      | apply State.encFault_keeps | apply Keeps.next

theorem State.encCfgWrite_keeps {mP wF : Nat} {r0 : State} (s : State) (e : Nat) (v : Nat) (hk : Keeps mP wF r0 s) (hm0 : within 0x201 mP) (hw0 : within 0x81f800000000000000000000000 wF) : Keeps mP wF r0 (State.encCfgWrite s e v) := by
  unfold State.encCfgWrite; try dsimp only
  with_reducible
    repeat' first
      | intro _ | assumption | exact within_trans (by decide +kernel) hm0 | exact within_trans (by decide +kernel) hw0
      | apply State.put_keeps | apply State.setFlag_keeps | apply State.updEnc_keeps | apply Keeps.ite | split
      | dsimp only | apply within_ite

theorem State.encSwitch_keeps {mP wF : Nat} {r0 : State} (s : State) (e : Nat) (v : Nat) (hk : Keeps mP wF r0 s) (hm0 : within 0x2000e31 mP) (hw0 : within 0xc1f00000000000000002000000000000000000000000000000000000000000000000000000000000040000081f800000000000000000000000 wF) : Keeps mP wF r0 (State.encSwitch s e v) := by
  unfold State.encSwitch; try dsimp only
  with_reducible
    repeat' first
      | assumption | exact within_trans (by decide +kernel) hm0 | exact within_trans (by decide +kernel) hw0
      | apply State.encDown_keeps | apply State.encCfgWrite_keeps | apply Keeps.ite | split | dsimp only
      | apply within_ite

theorem execEncCfgWrite_keeps {mP wF : Nat} {r0 : State} (a : Acc) (e : Fin 16) (v : Word) (s : State) (hk : Keeps mP wF r0 s) (hm0 : within 0x2000e31 mP) (hw0 : within 0xc1f00000000000000002000000000000000000000000000000000000000000000000000000000000040000081f800400000000000000000000 wF) : Keeps.Res mP wF r0 (execEncCfgWrite a e v s) := by
  unfold execEncCfgWrite; try dsimp only
  with_reducible
    repeat' first
      | intro _ | assumption | exact within_trans (by decide +kernel) hm0 | exact within_trans (by decide +kernel) hw0
      | apply State.secureOnly_keeps | apply State.encSwitch_keeps | apply Keeps.next | dsimp only

theorem execEngineTakeover_keeps {mP wF : Nat} {r0 : State} (p : Pol) (cause : TakeoverCause) (s : State) (hk : Keeps mP wF r0 s) (hm0 : within 0x200 mP) : Keeps.Res mP wF r0 (execEngineTakeover p cause s) := by
  unfold execEngineTakeover; try dsimp only
  with_reducible
    repeat' first
      | assumption | exact within_trans (by decide +kernel) hm0 | apply State.handOver_keeps | apply Keeps.next
      | apply Keeps.ite | apply Keeps.iteFst | split | dsimp only

theorem State.catchupFail_keeps {mP wF : Nat} {r0 : State} (s : State) (g : Nat) (hk : Keeps mP wF r0 s) (hm0 : within 0x2000c31 mP) (hw0 : within 0xc1f000000000000000020000000000000000000000000000000000000000000000000000000080100000000000000000000000000000000000 wF) : Keeps mP wF r0 (State.catchupFail s g) := by
  unfold State.catchupFail; try dsimp only
  with_reducible
    repeat' first
      | intro _ | assumption | exact within_trans (by decide +kernel) hm0 | exact within_trans (by decide +kernel) hw0
      | apply State.put_keeps | apply State.bump_keeps | apply State.updTick_keeps | apply State.logDie_keeps
      | apply Keeps.ite | split | dsimp only | apply within_ite

theorem State.latchTick_keeps {mP wF : Nat} {r0 : State} (s : State) (g : Nat) (m : TickMsg) (hk : Keeps mP wF r0 s) (hm0 : within 0x2000c31 mP) (hw0 : within 0xc1f000000000000000020000000000000000000000000000000000000000000000000000000080102000000000000000000000000000000000 wF) : Keeps mP wF r0 (State.latchTick s g m) := by
  unfold State.latchTick; try dsimp only
  with_reducible
    repeat' first
      | intro _ | assumption | exact within_trans (by decide +kernel) hm0 | exact within_trans (by decide +kernel) hw0
      | apply State.bump_keeps | apply State.updTick_keeps | apply State.logDie_keeps | apply State.catchupFail_keeps
      | apply Keeps.ite | split | dsimp only | apply within_ite

theorem State.passTick_keeps {mP wF : Nat} {r0 : State} (s : State) (d : Nat) (p : Nat) (m : TickMsg) (hk : Keeps mP wF r0 s) (hm0 : within 0x2000e31 mP) (hw0 : within 0xc1f000000000000000020000000000000000000000000000000000000000000000000000000080102000000000000000000000000000000000 wF) : Keeps mP wF r0 (State.passTick s d p m) := by
  unfold State.passTick; try dsimp only
  with_reducible
    repeat' first
      | intro _ | assumption | exact within_trans (by decide +kernel) hm0 | exact within_trans (by decide +kernel) hw0
      | apply State.updCtx_keeps | apply State.latchTick_keeps | apply Keeps.foldl | apply Keeps.foldlFst | dsimp only

theorem execTickMessage_keeps {mP wF : Nat} {r0 : State} (d : Die) (p : Pol) (te : Half) (s : State) (hk : Keeps mP wF r0 s) (hm0 : within 0x2000e31 mP) (hw0 : within 0xc1f000000000000000020000000000000000000000000000000000000000000000000000000080102000000000000000000000000000000000 wF) : Keeps.Res mP wF r0 (execTickMessage d p te s) := by
  unfold execTickMessage; try dsimp only
  with_reducible
    repeat' first
      | assumption | exact within_trans (by decide +kernel) hm0 | exact within_trans (by decide +kernel) hw0
      | apply State.passTick_keeps | apply Keeps.next | apply Keeps.ite | apply Keeps.iteFst | split | dsimp only
      | apply within_ite

theorem execTickBackupCopy_keeps {mP wF : Nat} {r0 : State} (d : Die) (p : Pol) (s : State) (hk : Keeps mP wF r0 s) (hm0 : within 0x2000e31 mP) (hw0 : within 0xc1f000000000000000020000000000000000000000000000000000000000000000000000000080102010000000000000000000000000000000 wF) : Keeps.Res mP wF r0 (execTickBackupCopy d p s) := by
  unfold execTickBackupCopy; try dsimp only
  with_reducible
    repeat' first
      | assumption | exact within_trans (by decide +kernel) hm0 | exact within_trans (by decide +kernel) hw0
      | apply State.bump_keeps | apply State.passTick_keeps | apply Keeps.next | apply Keeps.ite | apply Keeps.iteFst
      | split | dsimp only | apply within_ite

theorem execTickConfigure_keeps {mP wF : Nat} {r0 : State} (c : Cmd) (s : State) (hk : Keeps mP wF r0 s) (hm0 : within 0x2019e3f mP) (hw0 : within 0xc1f008400000000000020000000000000000000000000000000000000000000000000000100000000000000000000400000000000000000000 wF) : Keeps.Res mP wF r0 (execTickConfigure c s) := by
  unfold execTickConfigure; try dsimp only
  with_reducible
    repeat' first
      | intro _ | assumption | exact within_trans (by decide +kernel) hm0 | exact within_trans (by decide +kernel) hw0
      | apply runCmdLater_keeps | apply State.updCtx_keeps | apply Keeps.next | apply Keeps.ite | apply Keeps.iteFst
      | split | dsimp only | apply within_ite

theorem State.setTrigQ_keeps {mP wF : Nat} {r0 : State} (s : State) (t : Nat) (q : List (Nat × Nat × Option Nat)) (hk : Keeps mP wF r0 s) (hm0 : within 0x201 mP) (hw0 : within 0x20000000000000000000000000000 wF) : Keeps mP wF r0 (State.setTrigQ s t q) := by
  unfold State.setTrigQ; try dsimp only
  with_reducible
    repeat' first
      | intro _ | assumption | exact within_trans (by decide +kernel) hm0 | exact within_trans (by decide +kernel) hw0
      | apply State.put_keeps | apply State.updTe_keeps | dsimp only

theorem State.pulse_keeps {mP wF : Nat} {r0 : State} (s : State) (t : Nat) (start : Nat) (hk : Keeps mP wF r0 s) (hm0 : within 0x2000200 mP) : Keeps mP wF r0 (State.pulse s t start) := by
  unfold State.pulse; try dsimp only
  with_reducible
    repeat' first
      | intro _ | assumption | exact within_trans (by decide +kernel) hm0 | apply State.emit_keeps
      | apply State.updTe_keeps | dsimp only

theorem State.trigPlace_keeps {mP wF : Nat} {r0 : State} (s : State) (p : Nat) (t : Nat) (n : Nat) (o : Nat) (hk : Keeps mP wF r0 s) (hm0 : within 0x2000a31 mP) (hw0 : within 0xc1f0000000000000000200000000000000000000000000000000000000000000000000000000000000001a0000000000000000000000000000 wF) : Keeps mP wF r0 (State.trigPlace s p t n o) := by
  unfold State.trigPlace; try dsimp only
  with_reducible
    repeat' first
      | assumption | exact within_trans (by decide +kernel) hm0 | exact within_trans (by decide +kernel) hw0
      | apply State.bump_keeps | apply State.logPol_keeps | apply State.setTrigQ_keeps | apply Keeps.ite | split
      | dsimp only | apply within_ite

theorem State.trigRelease_keeps {mP wF : Nat} {r0 : State} (s : State) (p : Nat) (t : Nat) (n : Nat) (o : Nat) (hk : Keeps mP wF r0 s) (hm0 : within 0x2000a31 mP) (hw0 : within 0xc1f0000000000000000200000000000000000000000000000000000000000000000000000000000000005a0000000000000000000000000000 wF) : Keeps mP wF r0 (State.trigRelease s p t n o) := by
  unfold State.trigRelease; try dsimp only
  with_reducible
    repeat' first
      | assumption | exact within_trans (by decide +kernel) hm0 | exact within_trans (by decide +kernel) hw0
      | apply State.bump_keeps | apply State.logPol_keeps | apply State.trigPlace_keeps | apply Keeps.ite | split
      | dsimp only | apply within_ite

theorem State.trigSilent_keeps {mP wF : Nat} {r0 : State} (s : State) (c : Cmd) (t : Nat) (hk : Keeps mP wF r0 s) (hm0 : within 0x2000831 mP) (hw0 : within 0xc1f000000000000000020000000000000000000000000000000000000000000000000000000000000000000000000400000000000000000000 wF) : Keeps mP wF r0 (State.trigSilent s c t) := by
  unfold State.trigSilent; try dsimp only
  with_reducible
    repeat' first
      | assumption | exact within_trans (by decide +kernel) hm0 | exact within_trans (by decide +kernel) hw0
      | apply State.silence_keeps | apply Keeps.ite | split | dsimp only | apply within_ite

theorem execTriggerProgram_keeps {mP wF : Nat} {r0 : State} (c : Cmd) (s : State) (hk : Keeps mP wF r0 s) (hm0 : within 0x2019e3f mP) (hw0 : within 0xc1f0084000000000000200000000000000000000000000000000000000000000000000001000000000005a0000000400000000000000000000 wF) : Keeps.Res mP wF r0 (execTriggerProgram c s) := by
  unfold execTriggerProgram; try dsimp only
  with_reducible
    repeat' first
      | intro _ | assumption | exact within_trans (by decide +kernel) hm0 | exact within_trans (by decide +kernel) hw0
      | apply runCmd_keeps | apply State.trigPlace_keeps | apply State.trigRelease_keeps
      | apply State.trigSilent_keeps | apply Keeps.next | apply Keeps.foldl | apply Keeps.foldlFst | apply Keeps.ite
      | apply Keeps.iteFst | split | dsimp only | apply within_ite

theorem State.fireOne_keeps {mP wF : Nat} {r0 : State} (s : State) (p : Nat) (t : Nat) (hk : Keeps mP wF r0 s) (hm0 : within 0x2000201 mP) (hw0 : within 0x260000000000000000000000000000 wF) : Keeps mP wF r0 (State.fireOne s p t) := by
  unfold State.fireOne; try dsimp only
  with_reducible
    repeat' first
      | intro _ | assumption | exact within_trans (by decide +kernel) hm0 | exact within_trans (by decide +kernel) hw0
      | apply State.bump_keeps | apply State.setTrigQ_keeps | apply State.pulse_keeps | apply Keeps.ite
      | apply Keeps.getD | split | dsimp only | apply within_ite

theorem execTriggerFire_keeps {mP wF : Nat} {r0 : State} (t : Fin 32) (s : State) (hk : Keeps mP wF r0 s) (hm0 : within 0x2000201 mP) (hw0 : within 0x260000000000000000000000000000 wF) : Keeps.Res mP wF r0 (execTriggerFire t s) := by
  unfold execTriggerFire; try dsimp only
  with_reducible
    repeat' first
      | assumption | exact within_trans (by decide +kernel) hm0 | exact within_trans (by decide +kernel) hw0
      | apply State.fireOne_keeps | apply Keeps.next | apply Keeps.ite | apply Keeps.iteFst | split | dsimp only
      | apply within_ite

theorem State.trigArm_keeps {mP wF : Nat} {r0 : State} (s : State) (c : Cmd) (b : Bool) (hk : Keeps mP wF r0 s) (hm0 : within 0x2000a31 mP) (hw0 : within 0xc1f000000000000000020000000000000000000000000000000000000000000000000000000000000000270000000400000000000000000000 wF) : Keeps mP wF r0 (State.trigArm s c b).1 := by
  unfold State.trigArm; try dsimp only
  with_reducible
    repeat' first
      | intro _ | assumption | exact within_trans (by decide +kernel) hm0 | exact within_trans (by decide +kernel) hw0
      | apply State.setFlag_keeps | apply State.trigSilent_keeps | apply State.fireOne_keeps | apply Keeps.foldl
      | apply Keeps.foldlFst | apply Keeps.ite | apply Keeps.iteFst | split | dsimp only | apply within_ite

theorem execTriggerArm_keeps {mP wF : Nat} {r0 : State} (c : Cmd) (s : State) (hk : Keeps mP wF r0 s) (hm0 : within 0x2019e3f mP) (hw0 : within 0xc1f008400000000000020000000000000000000000000000000000000000000000000000100000000000270000000400000000000000000000 wF) : Keeps.Res mP wF r0 (execTriggerArm c s) := by
  unfold execTriggerArm; try dsimp only
  with_reducible
    repeat' first
      | intro _ | assumption | exact within_trans (by decide +kernel) hm0 | exact within_trans (by decide +kernel) hw0
      | apply runCmd_keeps | apply State.trigArm_keeps | apply Keeps.next | refine Keeps.fst ?_ (by assumption)
      | dsimp only

theorem execTriggerDisarm_keeps {mP wF : Nat} {r0 : State} (c : Cmd) (s : State) (hk : Keeps mP wF r0 s) (hm0 : within 0x2019e3f mP) (hw0 : within 0xc1f008400000000000020000000000000000000000000000000000000000000000000000100000000000270000000400000000000000000000 wF) : Keeps.Res mP wF r0 (execTriggerDisarm c s) := by
  unfold execTriggerDisarm; try dsimp only
  with_reducible
    repeat' first
      | intro _ | assumption | exact within_trans (by decide +kernel) hm0 | exact within_trans (by decide +kernel) hw0
      | apply runCmd_keeps | apply State.trigArm_keeps | apply Keeps.next | refine Keeps.fst ?_ (by assumption)
      | dsimp only

theorem State.putTrigCfg_keeps {mP wF : Nat} {r0 : State} (s : State) (t : Nat) (v : Nat) (hk : Keeps mP wF r0 s) (hm0 : within 0x1 mP) (hw0 : within 0xe000000000000000000000000000 wF) : Keeps mP wF r0 (State.putTrigCfg s t v) := by
  unfold State.putTrigCfg; try dsimp only
  with_reducible
    repeat' first
      | assumption | exact within_trans (by decide +kernel) hm0 | exact within_trans (by decide +kernel) hw0
      | apply State.put_keeps

theorem execSetTrigCfg_keeps {mP wF : Nat} {r0 : State} (c : Cmd) (s : State) (hk : Keeps mP wF r0 s) (hm0 : within 0x2019c3f mP) (hw0 : within 0xc1f00840000000000002000000000000000000000000000000000000000000000000000010000000000000e000000400000000000000000000 wF) : Keeps.Res mP wF r0 (execSetTrigCfg c s) := by
  unfold execSetTrigCfg; try dsimp only
  with_reducible
    repeat' first
      | intro _ | assumption | exact within_trans (by decide +kernel) hm0 | exact within_trans (by decide +kernel) hw0
      | apply runCmd_keeps | apply State.trigSilent_keeps | apply State.putTrigCfg_keeps | apply Keeps.next
      | apply Keeps.foldl | apply Keeps.foldlFst | apply Keeps.ite | apply Keeps.iteFst | split | dsimp only
      | apply within_ite

theorem execSlackOpen_keeps {mP wF : Nat} {r0 : State} (s : State) (hk : Keeps mP wF r0 s) (hm0 : within 0x200 mP) : Keeps.Res mP wF r0 (execSlackOpen s) := by
  unfold execSlackOpen; try dsimp only
  with_reducible
    repeat' first
      | intro _ | assumption | exact within_trans (by decide +kernel) hm0 | apply State.updTe_keeps | apply Keeps.next
      | apply Keeps.ite | apply Keeps.iteFst | split | dsimp only

theorem execSlackClose_keeps {mP wF : Nat} {r0 : State} (s : State) (hk : Keeps mP wF r0 s) (hm0 : within 0x200 mP) : Keeps.Res mP wF r0 (execSlackClose s) := by
  unfold execSlackClose; try dsimp only
  with_reducible
    repeat' first
      | assumption | exact within_trans (by decide +kernel) hm0 | apply State.slackShut_keeps | apply Keeps.next

theorem execSlackClosePtime_keeps {mP wF : Nat} {r0 : State} (s : State) (hk : Keeps mP wF r0 s) (hm0 : within 0x200 mP) : Keeps.Res mP wF r0 (execSlackClosePtime s) := by
  unfold execSlackClosePtime; try dsimp only
  with_reducible
    repeat' first
      | assumption | exact within_trans (by decide +kernel) hm0 | apply State.slackShut_keeps | apply Keeps.next
      | apply Keeps.ite | apply Keeps.iteFst | split | dsimp only

end Sys2Proof.Machine
end

