-- ==== Sys2Proof/Laws/KeepsCores.lean ====
section
/-! SUPPORT. The operations of Machine/Cores.lean keep the memory form, the field widths and the queue. -/

set_option Elab.async false
namespace Sys2Proof.Machine

theorem State.guardViolation_keeps {mP wF : Nat} {r0 : State} (s : State) (g : Nat) (sub : Nat) (addr : Word) (pa : Nat) (hk : Keeps mP wF r0 s) (hm0 : within 0x2000c31 mP) (hw0 : within 0xc1f000000000000000020000000000000000000000000000000000000000000000000000000020000000000000000000000000000000000000 wF) : Keeps mP wF r0 (State.guardViolation s g sub addr pa) := by
  unfold State.guardViolation; try dsimp only
  with_reducible
    repeat' first
      | assumption | exact within_trans (by decide +kernel) hm0 | exact within_trans (by decide +kernel) hw0
      | apply State.bump_keeps | apply State.syncExc_keeps | apply State.logDie_keeps | apply Keeps.ite | split
      | dsimp only | apply within_ite

theorem State.instr_keeps {mP wF : Nat} {r0 : State} (s : State) (g : Nat) (need : Nat) (func : Nat) (sub : Nat) (f : State → State) (hk : Keeps mP wF r0 s) (hf : ∀ x0, Keeps mP wF r0 x0 → Keeps mP wF r0 (f x0)) (hm0 : within 0x400 mP) : Keeps mP wF r0 (State.instr s g need func sub f) := by
  unfold State.instr; try dsimp only
  with_reducible
    repeat' first
      | intro _ | assumption | exact within_trans (by decide +kernel) hm0 | apply State.belowLevel_keeps | apply hf
      | apply Keeps.ite | refine Keeps.fst ?_ (by assumption) | split | dsimp only

theorem State.addedIf_keeps {mP wF : Nat} {r0 : State} (s : State) (ready : Bool) (g : Nat) (func : Nat) (sub : Option Nat) (w : BitVec 32) (f : State → State) (hk : Keeps mP wF r0 s) (hf : ∀ x0, Keeps mP wF r0 x0 → Keeps mP wF r0 (f x0)) (hm0 : within 0x400 mP) : Keeps mP wF r0 (State.addedIf s ready g func sub w f) := by
  unfold State.addedIf; try dsimp only
  with_reducible
    repeat' first
      | intro _ | assumption | exact within_trans (by decide +kernel) hm0 | apply State.illegal_keeps
      | apply State.belowLevel_keeps | apply hf | apply Keeps.ite | refine Keeps.fst ?_ (by assumption) | split
      | dsimp only

theorem State.added_keeps {mP wF : Nat} {r0 : State} (s : State) (g : Nat) (func : Nat) (w : BitVec 32) (f : State → State) (hk : Keeps mP wF r0 s) (hf : ∀ x0, Keeps mP wF r0 x0 → Keeps mP wF r0 (f x0)) (hm0 : within 0x400 mP) : Keeps mP wF r0 (State.added s g func w f) := by
  unfold State.added; try dsimp only
  with_reducible
    repeat' first
      | intro _ | assumption | exact within_trans (by decide +kernel) hm0 | apply State.addedIf_keeps | apply hf
      | refine Keeps.fst ?_ (by assumption)

theorem State.takeHeld_keeps {mP wF : Nat} {r0 : State} (s : State) (g : Nat) (hk : Keeps mP wF r0 s) (hm0 : within 0x400 mP) : Keeps mP wF r0 (State.takeHeld s g) := by
  unfold State.takeHeld; try dsimp only
  with_reducible
    repeat' first
      | intro _ | assumption | exact within_trans (by decide +kernel) hm0 | apply State.updTick_keeps
      | apply State.takeMc_keeps | apply State.takeInt_keeps | apply Keeps.foldl | apply Keeps.foldlFst
      | apply Keeps.ite | split | dsimp only

theorem execInterrupt_keeps {mP wF : Nat} {r0 : State} (p : Pol) (l : Byte) (id : BitVec 16) (s : State) (hk : Keeps mP wF r0 s) (hm0 : within 0x400 mP) : Keeps.Res mP wF r0 (execInterrupt p l id s) := by
  unfold execInterrupt; try dsimp only
  with_reducible
    repeat' first
      | assumption | exact within_trans (by decide +kernel) hm0 | apply State.raiseInt_keeps | apply Keeps.next
      | apply Keeps.ite | apply Keeps.iteFst | split | dsimp only

theorem execSupervisorCall_keeps {mP wF : Nat} {r0 : State} (g : GCore) (kind : CallKind) (imm : BitVec 16) (s : State) (hk : Keeps mP wF r0 s) (hm0 : within 0x400 mP) : Keeps.Res mP wF r0 (execSupervisorCall g kind imm s) := by
  unfold execSupervisorCall; try dsimp only
  with_reducible
    repeat' first
      | intro _ | assumption | exact within_trans (by decide +kernel) hm0 | apply State.takeExc_keeps
      | apply State.syncExc_keeps | apply State.instr_keeps | apply Keeps.next | split | dsimp only

theorem execHypervisorCall_keeps {mP wF : Nat} {r0 : State} (g : GCore) (imm : BitVec 16) (s : State) (hk : Keeps mP wF r0 s) (hm0 : within 0x400 mP) : Keeps.Res mP wF r0 (execHypervisorCall g imm s) := by
  unfold execHypervisorCall; try dsimp only
  with_reducible
    repeat' first
      | intro _ | assumption | exact within_trans (by decide +kernel) hm0 | apply State.takeExc_keeps
      | apply State.instr_keeps | apply Keeps.next | dsimp only

theorem execMonitorCall_keeps {mP wF : Nat} {r0 : State} (g : GCore) (imm : BitVec 16) (s : State) (hk : Keeps mP wF r0 s) (hm0 : within 0x4000400 mP) : Keeps.Res mP wF r0 (execMonitorCall g imm s) := by
  unfold execMonitorCall; try dsimp only
  with_reducible
    repeat' first
      | intro _ | assumption | exact within_trans (by decide +kernel) hm0 | apply State.drawn_keeps
      | apply State.takeExc_keeps | apply State.illegal_keeps | apply State.instr_keeps | apply Keeps.next
      | apply Keeps.ite | apply Keeps.iteFst | split | dsimp only

theorem execExceptionReturn_keeps {mP wF : Nat} {r0 : State} (g : GCore) (s : State) (hk : Keeps mP wF r0 s) (hm0 : within 0x4000400 mP) : Keeps.Res mP wF r0 (execExceptionReturn g s) := by
  unfold execExceptionReturn; try dsimp only
  with_reducible
    repeat' first
      | intro _ | assumption | exact within_trans (by decide +kernel) hm0 | apply State.updCore_keeps
      | apply State.belowLevel_keeps | apply State.admitInt_keeps | apply State.countRetired_keeps | apply Keeps.next
      | apply Keeps.ite | apply Keeps.iteFst | split | dsimp only

theorem execK64Halt_keeps {mP wF : Nat} {r0 : State} (g : GCore) (s : State) (hk : Keeps mP wF r0 s) (hm0 : within 0x4000400 mP) : Keeps.Res mP wF r0 (execK64Halt g s) := by
  unfold execK64Halt; try dsimp only
  with_reducible
    repeat' first
      | intro _ | assumption | exact within_trans (by decide +kernel) hm0 | apply State.updCore_keeps
      | apply State.retire_keeps | apply State.instr_keeps | apply Keeps.next
      | refine Keeps.record ?_ rfl (fun p hp => by cases p <;> first | exact absurd (hp.symm.trans (within_bit hm0 (by decide +kernel))) Bool.false_ne_true | with_unfolding_all exact rfl)
      | dsimp only

theorem execDeviceReadTimeout_keeps {mP wF : Nat} {r0 : State} (g : GCore) (s : State) (hk : Keeps mP wF r0 s) (hm0 : within 0x400 mP) : Keeps.Res mP wF r0 (execDeviceReadTimeout g s) := by
  unfold execDeviceReadTimeout; try dsimp only
  with_reducible
    repeat' first
      | intro _ | assumption | exact within_trans (by decide +kernel) hm0 | apply State.updCore_keeps
      | apply State.machineCheck_keeps | apply Keeps.next | split | dsimp only

theorem State.sysRefused_keeps {mP wF : Nat} {r0 : State} (s : State) (g : Nat) (n : Nat) (write : Bool) (need : Nat) (hk : Keeps mP wF r0 s) (hm0 : within 0x400 mP) : Keeps mP wF r0 (State.sysRefused s g n write need) := by
  unfold State.sysRefused; try dsimp only
  with_reducible
    repeat' first
      | assumption | exact within_trans (by decide +kernel) hm0 | apply State.syncExc_keeps | apply Keeps.ite | split
      | dsimp only

theorem State.sysAccess_keeps {mP wF : Nat} {r0 : State} (s : State) (g : Nat) (n : Nat) (write : Bool) (hk : Keeps mP wF r0 s) (hm0 : within 0x4000400 mP) : Keeps.Opt mP wF r0 (State.sysAccess s g n write) := by
  unfold State.sysAccess; try dsimp only
  with_reducible
    repeat' first
      | assumption | exact within_trans (by decide +kernel) hm0 | apply State.drawn_keeps | apply State.illegal_keeps
      | apply State.sysRefused_keeps | apply Keeps.optNone | apply Keeps.optSome | apply Keeps.ite
      | apply Keeps.iteFst | apply Keeps.iteOpt | split | dsimp only

theorem execMfsr_keeps {mP wF : Nat} {r0 : State} (g : GCore) (rd : Fin 32) (n : BitVec 12) (s : State) (hk : Keeps mP wF r0 s) (hm0 : within 0x4000400 mP) : Keeps.Res mP wF r0 (execMfsr g rd n s) := by
  unfold execMfsr; try dsimp only
  with_reducible
    repeat' first
      | intro _ | assumption | exact within_trans (by decide +kernel) hm0 | apply State.updCore_keeps
      | apply State.retire_keeps | apply State.instr_keeps | apply State.sysAccess_keeps | apply Keeps.next
      | apply Keeps.ite | apply Keeps.iteFst | apply Keeps.iteOpt | exact Keeps.optNone | apply Keeps.optSome
      | refine Keeps.opt ?_ (by assumption) | split | dsimp only

theorem State.drawKey_keeps {mP wF : Nat} {r0 : State} (s : State) (g : Nat) (hk : Keeps mP wF r0 s) (hm0 : within 0x4000400 mP) : Keeps mP wF r0 (State.drawKey s g) := by
  unfold State.drawKey; try dsimp only
  with_reducible
    repeat' first
      | intro _ | assumption | exact within_trans (by decide +kernel) hm0 | apply State.drawn_keeps
      | apply State.updCore_keeps | dsimp only

theorem State.mtsrPlain_keeps {mP wF : Nat} {r0 : State} (s : State) (g : Nat) (n : Nat) (v : Word) (hk : Keeps mP wF r0 s) (hm0 : within 0x4000600 mP) : Keeps mP wF r0 (State.mtsrPlain s g n v) := by
  unfold State.mtsrPlain; try dsimp only
  with_reducible
    repeat' first
      | intro _ | assumption | exact within_trans (by decide +kernel) hm0 | apply State.updCore_keeps
      | apply State.tickResume_keeps | apply State.drawKey_keeps | apply Keeps.ite | split | dsimp only

theorem State.retireMtsr_keeps {mP wF : Nat} {r0 : State} (s : State) (g : Nat) (n : Nat) (v : Word) (hk : Keeps mP wF r0 s) (hm0 : within 0x4000400 mP) : Keeps mP wF r0 (State.retireMtsr s g n v) := by
  unfold State.retireMtsr; try dsimp only
  with_reducible
    repeat' first
      | intro _ | assumption | exact within_trans (by decide +kernel) hm0 | apply State.updCore_keeps
      | apply State.admitInt_keeps | apply State.countRetired_keeps | apply State.retire_keeps | apply Keeps.foldl
      | apply Keeps.foldlFst | split | dsimp only

theorem execMtsr_keeps {mP wF : Nat} {r0 : State} (g : GCore) (n : BitVec 12) (rs : Fin 32) (s : State) (hk : Keeps mP wF r0 s) (hm0 : within 0x4000600 mP) : Keeps.Res mP wF r0 (execMtsr g n rs s) := by
  unfold execMtsr; try dsimp only
  with_reducible
    repeat' first
      | intro _ | assumption | exact within_trans (by decide +kernel) hm0 | apply State.instr_keeps
      | apply State.sysAccess_keeps | apply State.mtsrPlain_keeps | apply State.retireMtsr_keeps | apply Keeps.next
      | exact Keeps.optNone | apply Keeps.optSome | refine Keeps.opt ?_ (by assumption) | split | dsimp only

theorem execCtxkeyWrite_keeps {mP wF : Nat} {r0 : State} (g : GCore) (rs : Fin 32) (s : State) (hk : Keeps mP wF r0 s) (hm0 : within 0x4000400 mP) : Keeps.Res mP wF r0 (execCtxkeyWrite g rs s) := by
  unfold execCtxkeyWrite; try dsimp only
  with_reducible
    repeat' first
      | intro _ | assumption | exact within_trans (by decide +kernel) hm0 | apply State.updCore_keeps
      | apply State.retire_keeps | apply State.instr_keeps | apply State.sysAccess_keeps | apply Keeps.next
      | exact Keeps.optNone | apply Keeps.optSome | refine Keeps.opt ?_ (by assumption) | split | dsimp only

theorem execCtxrndDraw_keeps {mP wF : Nat} {r0 : State} (g : GCore) (rs : Fin 32) (s : State) (hk : Keeps mP wF r0 s) (hm0 : within 0x4000400 mP) : Keeps.Res mP wF r0 (execCtxrndDraw g rs s) := by
  unfold execCtxrndDraw; try dsimp only
  with_reducible
    repeat' first
      | intro _ | assumption | exact within_trans (by decide +kernel) hm0 | apply State.retire_keeps
      | apply State.instr_keeps | apply State.sysAccess_keeps | apply State.drawKey_keeps | apply Keeps.next
      | apply Keeps.ite | apply Keeps.iteFst | apply Keeps.iteOpt | exact Keeps.optNone | apply Keeps.optSome
      | refine Keeps.opt ?_ (by assumption) | split | dsimp only

theorem execRdpkr_keeps {mP wF : Nat} {r0 : State} (g : GCore) (w : BitVec 32) (s : State) (hk : Keeps mP wF r0 s) (hm0 : within 0x4000400 mP) : Keeps.Res mP wF r0 (execRdpkr g w s) := by
  unfold execRdpkr; try dsimp only
  with_reducible
    repeat' first
      | intro _ | assumption | exact within_trans (by decide +kernel) hm0 | apply State.updCore_keeps
      | apply State.retire_keeps | apply State.added_keeps | apply Keeps.next | dsimp only

theorem execWrpkr_keeps {mP wF : Nat} {r0 : State} (g : GCore) (w : BitVec 32) (s : State) (hk : Keeps mP wF r0 s) (hm0 : within 0x4000400 mP) : Keeps.Res mP wF r0 (execWrpkr g w s) := by
  unfold execWrpkr; try dsimp only
  with_reducible
    repeat' first
      | intro _ | assumption | exact within_trans (by decide +kernel) hm0 | apply State.updCore_keeps
      | apply State.retire_keeps | apply State.added_keeps | apply Keeps.next | dsimp only

theorem execCntClr_keeps {mP wF : Nat} {r0 : State} (g : GCore) (rs : Fin 32) (s : State) (hk : Keeps mP wF r0 s) (hm0 : within 0x4000600 mP) : Keeps.Res mP wF r0 (execCntClr g rs s) := by
  unfold execCntClr; try dsimp only
  with_reducible
    repeat' first
      | intro _ | assumption | exact within_trans (by decide +kernel) hm0 | apply State.instr_keeps
      | apply State.sysAccess_keeps | apply State.mtsrPlain_keeps | apply State.retireMtsr_keeps | apply Keeps.next
      | exact Keeps.optNone | apply Keeps.optSome | refine Keeps.opt ?_ (by assumption) | split | dsimp only

theorem execCoreFrequencyStep_keeps {mP wF : Nat} {r0 : State} (g : GCore) (up : Bool) (s : State) (hk : Keeps mP wF r0 s) (hm0 : within 0x400 mP) : Keeps.Res mP wF r0 (execCoreFrequencyStep g up s) := by
  unfold execCoreFrequencyStep; try dsimp only
  with_reducible
    repeat' first
      | intro _ | assumption | exact within_trans (by decide +kernel) hm0 | apply State.updCore_keeps
      | apply Keeps.next | apply Keeps.ite | apply Keeps.iteFst | split | dsimp only

theorem State.startCore_keeps {mP wF : Nat} {r0 : State} (s : State) (g : Nat) (hk : Keeps mP wF r0 s) (hm0 : within 0x4000400 mP) : Keeps mP wF r0 (State.startCore s g) := by
  unfold State.startCore; try dsimp only
  with_reducible
    repeat' first
      | assumption | exact within_trans (by decide +kernel) hm0 | apply State.drawn_keeps | apply State.setCore_keeps
      | apply Keeps.ite | split | dsimp only

theorem State.parkCore_keeps {mP wF : Nat} {r0 : State} (s : State) (g : Nat) (serv : Nat) (hk : Keeps mP wF r0 s) (hm0 : within 0x400 mP) : Keeps mP wF r0 (State.parkCore s g serv) := by
  unfold State.parkCore; try dsimp only
  with_reducible
    repeat' first
      | assumption | exact within_trans (by decide +kernel) hm0 | apply State.setCore_keeps

end Sys2Proof.Machine
end

