-- ==== Sys2Proof/Laws/KeepsCaches.lean ====
section
/-! SUPPORT. The operations of Machine/Caches.lean keep the memory form, the field widths and the queue. -/

set_option Elab.async false
namespace Sys2Proof.Machine

theorem State.carried_keeps {mP wF : Nat} {r0 : State} (s : State) (m : Msg) (hk : Keeps mP wF r0 s) (hm0 : within 0x1001 mP) (hw0 : within 0x8400000000000000000000000000000000000000000000000000000000000000000000000000000000000000000000000000000000000 wF) : Keeps mP wF r0 (State.carried s m) := by
  unfold State.carried; try dsimp only
  with_reducible
    repeat' first
      | assumption | exact within_trans (by decide +kernel) hm0 | exact within_trans (by decide +kernel) hw0
      | apply State.mapDies_keeps | apply State.countHub_keeps | apply State.countDie_keeps | apply Keeps.ite | split
      | dsimp only | apply within_ite

theorem State.send_keeps {mP wF : Nat} {r0 : State} (s : State) (m : Msg) (hk : Keeps mP wF r0 s) (hm0 : within 0x9001 mP)
    (hw0 : within 0x8400000000000000000000000000000000000000000000000000000000000000000000000000000000000000000000000000000000000 wF) : Keeps mP wF r0 (State.send s m) :=
  Keeps.record (State.carried_keeps s m hk (within_trans (by decide +kernel) hm0) (within_trans (by decide +kernel) hw0)) rfl
    fun p hp => by
      cases p <;> first
        | exact rfl
        | exact absurd (hp.symm.trans (within_bit hm0 (by decide +kernel))) Bool.false_ne_true

theorem State.arrive_keeps {mP wF : Nat} {r0 : State} (s : State) (x : Msg) (hk : Keeps mP wF r0 s)
    (hm0 : within 0x8000 mP) : Keeps mP wF r0 (s.arrive x) :=
  Keeps.record hk rfl fun p hp => by
    cases p <;> first
      | exact rfl
      | exact absurd (hp.symm.trans (within_bit hm0 (by decide +kernel))) Bool.false_ne_true

theorem State.setL2_keeps {mP wF : Nat} {r0 : State} (s : State) (g : Nat) (la : Nat) (l : CLine) (hk : Keeps mP wF r0 s) (hm0 : within 0x400 mP) : Keeps mP wF r0 (State.setL2 s g la l) := by
  unfold State.setL2; try dsimp only
  with_reducible
    repeat' first
      | intro _ | assumption | exact within_trans (by decide +kernel) hm0 | apply State.updCore_keeps | dsimp only

theorem State.l2Drop_keeps {mP wF : Nat} {r0 : State} (s : State) (g : Nat) (la : Nat) (hk : Keeps mP wF r0 s) (hm0 : within 0x401 mP) (hw0 : within 0x100000000000000000000000000000000000000000 wF) : Keeps mP wF r0 (State.l2Drop s g la) := by
  unfold State.l2Drop; try dsimp only
  with_reducible
    repeat' first
      | intro _ | assumption | exact within_trans (by decide +kernel) hm0 | exact within_trans (by decide +kernel) hw0
      | apply State.bump_keeps | apply State.updCore_keeps | apply Keeps.ite | split | dsimp only | apply within_ite

theorem State.l2Inval_keeps {mP wF : Nat} {r0 : State} (s : State) (g : Nat) (la : Nat) (hk : Keeps mP wF r0 s) (hm0 : within 0x401 mP) (hw0 : within 0x100000000000000000000000000000000000000000 wF) : Keeps mP wF r0 (State.l2Inval s g la) := by
  unfold State.l2Inval; try dsimp only
  with_reducible
    repeat' first
      | intro _ | assumption | exact within_trans (by decide +kernel) hm0 | exact within_trans (by decide +kernel) hw0
      | apply State.updCore_keeps | apply State.l2Drop_keeps | apply Keeps.ite | split | dsimp only | apply within_ite

theorem State.l1Fill_keeps {mP wF : Nat} {r0 : State} (s : State) (g : Nat) (la : Nat) (l : Line) (hk : Keeps mP wF r0 s) (hm0 : within 0x4000400 mP) : Keeps mP wF r0 (State.l1Fill s g la l) := by
  unfold State.l1Fill; try dsimp only
  with_reducible
    repeat' first
      | intro _ | assumption | exact within_trans (by decide +kernel) hm0 | apply State.drawn_keeps
      | apply State.updCore_keeps | split | dsimp only

theorem State.l1iFill_keeps {mP wF : Nat} {r0 : State} (s : State) (g : Nat) (la : Nat) (l : Line) (hk : Keeps mP wF r0 s) (hm0 : within 0x4000400 mP) : Keeps mP wF r0 (State.l1iFill s g la l) := by
  unfold State.l1iFill; try dsimp only
  with_reducible
    repeat' first
      | intro _ | assumption | exact within_trans (by decide +kernel) hm0 | apply State.drawn_keeps
      | apply State.updCore_keeps | split | dsimp only

theorem State.setDc_keeps {mP wF : Nat} {r0 : State} (s : State) (d : Nat) (la : Nat) (l : CLine) (hk : Keeps mP wF r0 s) (hm0 : within 0x1000 mP) : Keeps mP wF r0 (State.setDc s d la l) := by
  unfold State.setDc; try dsimp only
  with_reducible
    repeat' first
      | intro _ | assumption | exact within_trans (by decide +kernel) hm0 | apply State.updDie_keeps | dsimp only

theorem State.dropDc_keeps {mP wF : Nat} {r0 : State} (s : State) (d : Nat) (la : Nat) (hk : Keeps mP wF r0 s) (hm0 : within 0x1000 mP) : Keeps mP wF r0 (State.dropDc s d la) := by
  unfold State.dropDc; try dsimp only
  with_reducible
    repeat' first
      | intro _ | assumption | exact within_trans (by decide +kernel) hm0 | apply State.updDie_keeps | dsimp only

theorem State.evictClean_keeps {mP wF : Nat} {r0 : State} (s : State) (d : Nat) (la : Nat) (hk : Keeps mP wF r0 s) (hm0 : within 0x9001 mP) (hw0 : within 0x8400000000000000000000000000000000000000000000000000000000000000000000000000000000000000000000000000000000000 wF) : Keeps mP wF r0 (State.evictClean s d la) := by
  unfold State.evictClean; try dsimp only
  with_reducible
    repeat' first
      | assumption | exact within_trans (by decide +kernel) hm0 | exact within_trans (by decide +kernel) hw0
      | apply State.send_keeps

theorem State.writeback_keeps {mP wF : Nat} {r0 : State} (s : State) (g : Nat) (la : Nat) (l : CLine) (ret : Nat) (hk : Keeps mP wF r0 s) (hm0 : within 0x9401 mP) (hw0 : within 0x8400000000000000000000000000000000000000000000000000000000000000000000000000000000000000000000000000000000000 wF) : Keeps mP wF r0 (State.writeback s g la l ret) := by
  unfold State.writeback; try dsimp only
  with_reducible
    repeat' first
      | intro _ | assumption | exact within_trans (by decide +kernel) hm0 | exact within_trans (by decide +kernel) hw0
      | apply State.updCore_keeps | apply State.countCore_keeps | apply State.send_keeps | apply State.setDc_keeps
      | split | dsimp only

theorem State.mirrorWrite_keeps {mP wF : Nat} {r0 : State} (s : State) (g : Nat) (la : Nat) (l : CLine) (hk : Keeps mP wF r0 s) (hm0 : within 0x9401 mP) (hw0 : within 0x8400000000000000000000000000000000000000000000000000000000000000000000000000000000000000000000000000000000000 wF) : Keeps mP wF r0 (State.mirrorWrite s g la l) := by
  unfold State.mirrorWrite; try dsimp only
  with_reducible
    repeat' first
      | assumption | exact within_trans (by decide +kernel) hm0 | exact within_trans (by decide +kernel) hw0
      | apply State.send_keeps | apply State.writeback_keeps

theorem State.dieEvict_keeps {mP wF : Nat} {r0 : State} (s : State) (d : Nat) (la : Nat) (hk : Keeps mP wF r0 s) (hm0 : within 0x9401 mP) (hw0 : within 0x8400000000000000000000000000000000000000000000000000000000000000000100000000000000000000000000000000000000000 wF) : Keeps mP wF r0 (State.dieEvict s d la) := by
  unfold State.dieEvict; try dsimp only
  with_reducible
    repeat' first
      | intro _ | assumption | exact within_trans (by decide +kernel) hm0 | exact within_trans (by decide +kernel) hw0
      | apply State.l2Inval_keeps | apply State.dropDc_keeps | apply State.evictClean_keeps
      | apply State.writeback_keeps | apply Keeps.foldl | apply Keeps.foldlFst | apply Keeps.ite | split | dsimp only
      | apply within_ite

theorem State.dcRoom_keeps {mP wF : Nat} {r0 : State} (s : State) (d : Nat) (la : Nat) (push : Bool) (hk : Keeps mP wF r0 s) (hm0 : within 0x9401 mP) (hw0 : within 0x8400000000000000000000000000000000000000000000000000000000000000020100000000000000000000000000000000000000000 wF) : Keeps.OptSnd mP wF r0 (State.dcRoom s d la push) := by
  unfold State.dcRoom; try dsimp only
  with_reducible
    repeat' first
      | assumption | exact within_trans (by decide +kernel) hm0 | exact within_trans (by decide +kernel) hw0
      | apply State.bump_keeps | apply State.countDie_keeps | apply State.dieEvict_keeps | apply Keeps.optSndNone
      | apply Keeps.optSndSome | apply Keeps.ite | apply Keeps.iteFst | split | dsimp only | apply within_ite

theorem State.dcFill_keeps {mP wF : Nat} {r0 : State} (s : State) (d : Nat) (la : Nat) (data : Line) (poison : Bool) (push : Bool) (hk : Keeps mP wF r0 s) (hm0 : within 0x4009401 mP) (hw0 : within 0x8400000000000000000000000000000000000000000000000000000000000000020100000000000000000000000000000000000000000 wF) : Keeps.Opt mP wF r0 (State.dcFill s d la data poison push) := by
  unfold State.dcFill; try dsimp only
  with_reducible
    repeat' first
      | assumption | exact within_trans (by decide +kernel) hm0 | exact within_trans (by decide +kernel) hw0
      | apply State.drawn_keeps | apply State.setDc_keeps | apply State.dcRoom_keeps | apply Keeps.optNone
      | apply Keeps.optSome | exact Keeps.optSndNone | apply Keeps.optSndSome | refine Keeps.optSnd ?_ (by assumption)
      | split | dsimp only

theorem State.l2Evict_keeps {mP wF : Nat} {r0 : State} (s : State) (g : Nat) (la : Nat) (l : CLine) (hk : Keeps mP wF r0 s) (hm0 : within 0x9401 mP) (hw0 : within 0x8400000000000000000000000000000000000000000000000000000000000000000100000000000000000000000000000000000000000 wF) : Keeps mP wF r0 (State.l2Evict s g la l) := by
  unfold State.l2Evict; try dsimp only
  with_reducible
    repeat' first
      | assumption | exact within_trans (by decide +kernel) hm0 | exact within_trans (by decide +kernel) hw0
      | apply State.l2Drop_keeps | apply State.writeback_keeps | apply State.dieEvict_keeps | apply Keeps.ite | split
      | dsimp only | apply within_ite

theorem State.l2Room_keeps {mP wF : Nat} {r0 : State} (s : State) (g : Nat) (la : Nat) (hk : Keeps mP wF r0 s) (hm0 : within 0x4009401 mP) (hw0 : within 0x8400000000000000000000000000000000000000000000000000000000000000000100000000000000000000000000000000000000000 wF) : Keeps.OptSnd mP wF r0 (State.l2Room s g la) := by
  unfold State.l2Room; try dsimp only
  with_reducible
    repeat' first
      | intro _ | assumption | exact within_trans (by decide +kernel) hm0 | exact within_trans (by decide +kernel) hw0
      | apply State.drawn_keeps | apply State.l2Evict_keeps | apply Keeps.optSndNone | apply Keeps.optSndSome | split
      | dsimp only

theorem State.l2Fill_keeps {mP wF : Nat} {r0 : State} (s : State) (g : Nat) (la : Nat) (data : Line) (m : Bool) (poison : Bool) (push : Bool) (way : Option Nat) (hk : Keeps mP wF r0 s) (hm0 : within 0x4009401 mP) (hw0 : within 0x8400000000000000000000000000000000000000000000000000000000000000020100000000000000000000000000000000000000000 wF) : Keeps.Opt mP wF r0 (State.l2Fill s g la data m poison push way) := by
  unfold State.l2Fill; try dsimp only
  with_reducible
    repeat' first
      | intro _ | assumption | exact within_trans (by decide +kernel) hm0 | exact within_trans (by decide +kernel) hw0
      | apply State.setL2_keeps | apply State.dcFill_keeps | apply State.l2Room_keeps | apply Keeps.optNone
      | apply Keeps.optSome | exact Keeps.optNone | apply Keeps.optSome | refine Keeps.opt ?_ (by assumption)
      | exact Keeps.optSndNone | apply Keeps.optSndSome | refine Keeps.optSnd ?_ (by assumption) | apply Keeps.elimSnd
      | split | dsimp only

theorem State.l2FromDc_keeps {mP wF : Nat} {r0 : State} (s : State) (g : Nat) (la : Nat) (way : Option Nat) (hk : Keeps mP wF r0 s) (hm0 : within 0x4009401 mP) (hw0 : within 0x8400000000000000000000000000000000000000000000000000000000000000000100000000000000000000000000000000000000000 wF) : Keeps.Opt mP wF r0 (State.l2FromDc s g la way) := by
  unfold State.l2FromDc; try dsimp only
  with_reducible
    repeat' first
      | intro _ | assumption | exact within_trans (by decide +kernel) hm0 | exact within_trans (by decide +kernel) hw0
      | apply State.drawn_keeps | apply State.setL2_keeps | apply State.setDc_keeps | apply State.l2Room_keeps
      | apply Keeps.optNone | apply Keeps.optSome | apply Keeps.ite | apply Keeps.iteFst | apply Keeps.iteOpt
      | exact Keeps.optSndNone | apply Keeps.optSndSome | refine Keeps.optSnd ?_ (by assumption) | apply Keeps.elimSnd
      | split | dsimp only | apply within_ite

theorem State.startMiss_keeps {mP wF : Nat} {r0 : State} (s : State) (g : Nat) (m : Miss) (hk : Keeps mP wF r0 s) (hm0 : within 0x9401 mP) (hw0 : within 0x8400000000000000000000000000000000000000000000000000000000000000000000000000000000000000000000000000000000000 wF) : Keeps mP wF r0 (State.startMiss s g m) := by
  unfold State.startMiss; try dsimp only
  with_reducible
    repeat' first
      | intro _ | assumption | exact within_trans (by decide +kernel) hm0 | exact within_trans (by decide +kernel) hw0
      | apply State.updCore_keeps | apply State.countCore_keeps | apply State.countDie_keeps | apply State.send_keeps
      | apply Keeps.ite | split | dsimp only | apply within_ite

theorem State.resend_keeps {mP wF : Nat} {r0 : State} (s : State) (g : Nat) (la : Nat) (st : Nat) (hk : Keeps mP wF r0 s) (hm0 : within 0x9401 mP) (hw0 : within 0x8400000000000000000000000000000000000000000000000000000000000000000000000000000000000000000000000000000000000 wF) : Keeps mP wF r0 (State.resend s g la st) := by
  unfold State.resend; try dsimp only
  with_reducible
    repeat' first
      | intro _ | assumption | exact within_trans (by decide +kernel) hm0 | exact within_trans (by decide +kernel) hw0
      | apply State.updCore_keeps | apply State.send_keeps | apply Keeps.ite | split | dsimp only | apply within_ite

theorem State.l2RetireWay_keeps {mP wF : Nat} {r0 : State} (s : State) (g : Nat) (w : Nat) (hk : Keeps mP wF r0 s) (hm0 : within 0x9401 mP) (hw0 : within 0x8400000000000000000000000000000000000000000000000000000000000000000106000000000000000000000000000000000000000 wF) : Keeps mP wF r0 (State.l2RetireWay s g w) := by
  unfold State.l2RetireWay; try dsimp only
  with_reducible
    repeat' first
      | intro _ | assumption | exact within_trans (by decide +kernel) hm0 | exact within_trans (by decide +kernel) hw0
      | apply State.put_keeps | apply State.l2Evict_keeps | apply Keeps.foldl | apply Keeps.foldlFst | apply Keeps.ite
      | split | dsimp only | apply within_ite

theorem State.bermNote_keeps {mP wF : Nat} {r0 : State} (s : State) (kind : Nat) (event : Nat) (cause : Nat) (index : Nat) (detail : Nat) (who : Nat × Nat) (hk : Keeps mP wF r0 s) (hm0 : within 0x80000 mP) : Keeps mP wF r0 (State.bermNote s kind event cause index detail who) := by
  unfold State.bermNote; try dsimp only
  with_reducible
    repeat' first
      | intro _ | assumption | exact within_trans (by decide +kernel) hm0 | apply State.updBerm_keeps | dsimp only

theorem State.bermLog_keeps {mP wF : Nat} {r0 : State} (s : State) (kind : Nat) (event : Nat) (cause : Nat) (index : Nat) (detail : Nat) (who : Nat × Nat) (hk : Keeps mP wF r0 s) (hm0 : within 0x2080831 mP) (hw0 : within 0xc1f000000000000000020000000000000000000000000000000000000000000000000000000000000000000000000000000000000000000000 wF) : Keeps mP wF r0 (State.bermLog s kind event cause index detail who) := by
  unfold State.bermLog; try dsimp only
  with_reducible
    repeat' first
      | intro _ | assumption | exact within_trans (by decide +kernel) hm0 | exact within_trans (by decide +kernel) hw0
      | apply State.updBerm_keeps | apply State.bermNote_keeps | apply State.retired_keeps | apply Keeps.ite | split
      | dsimp only | apply within_ite

theorem State.retired_keeps {mP wF : Nat} {r0 : State} (s : State) (kind : Nat) (index : Nat) (cause : Nat) (who : Nat × Nat) (hk : Keeps mP wF r0 s) (hm0 : within 0x2080831 mP) (hw0 : within 0xc1f000000000000000020000000000000000000000000000000000000000000000000000000000000000000000000000000000000000000000 wF) : Keeps mP wF r0 (State.retired s kind index cause who) := by
  unfold State.retired; try dsimp only
  with_reducible
    repeat' first
      | assumption | exact within_trans (by decide +kernel) hm0 | exact within_trans (by decide +kernel) hw0
      | apply State.logSec_keeps | apply State.bermLog_keeps

theorem State.retireL2_keeps {mP wF : Nat} {r0 : State} (s : State) (g : Nat) (w : Nat) (cause : Nat) (hk : Keeps mP wF r0 s) (hm0 : within 0x2089c31 mP) (hw0 : within 0xc1f008400000000000020000000000000000000000000000000000000000000000000000106000000000000000000000000000000000000000 wF) : Keeps mP wF r0 (State.retireL2 s g w cause) := by
  unfold State.retireL2; try dsimp only
  with_reducible
    repeat' first
      | assumption | exact within_trans (by decide +kernel) hm0 | exact within_trans (by decide +kernel) hw0
      | apply State.logDie_keeps | apply State.l2RetireWay_keeps | apply State.bermLog_keeps | apply Keeps.ite | split
      | dsimp only | apply within_ite

theorem State.retireDc_keeps {mP wF : Nat} {r0 : State} (s : State) (d : Nat) (sl : Nat) (w : Nat) (cause : Nat) (hk : Keeps mP wF r0 s) (hm0 : within 0x2089c31 mP) (hw0 : within 0xc1f008400000000000020000000000000000000000000000000000000000000000003000100000000000000000000000000000000000000000 wF) : Keeps mP wF r0 (State.retireDc s d sl w cause) := by
  unfold State.retireDc; try dsimp only
  with_reducible
    repeat' first
      | intro _ | assumption | exact within_trans (by decide +kernel) hm0 | exact within_trans (by decide +kernel) hw0
      | apply State.put_keeps | apply State.setFlag_keeps | apply State.logDie_keeps | apply State.dieEvict_keeps
      | apply State.bermLog_keeps | apply Keeps.foldl | apply Keeps.foldlFst | apply Keeps.ite | split | dsimp only
      | apply within_ite

theorem State.l2CtlWrite_keeps {mP wF : Nat} {r0 : State} (s : State) (g : Nat) (v : Nat) (hk : Keeps mP wF r0 s) (hm0 : within 0x1 mP) (hw0 : within 0x1f00000000000000000000000000000000000000 wF) : Keeps mP wF r0 (State.l2CtlWrite s g v) := by
  unfold State.l2CtlWrite; try dsimp only
  with_reducible
    repeat' first
      | assumption | exact within_trans (by decide +kernel) hm0 | exact within_trans (by decide +kernel) hw0
      | apply State.put_keeps | apply State.setFlag_keeps | apply Keeps.ite | split | dsimp only | apply within_ite

theorem execL2Disable_keeps {mP wF : Nat} {r0 : State} (a : Acc) (g : GCore) (v : Word) (s : State) (hk : Keeps mP wF r0 s) (hm0 : within 0x2000831 mP) (hw0 : within 0xc1f000000000000000020000000000000000000000000000000000000000000000000000001f00000000000000000400000000000000000000 wF) : Keeps.Res mP wF r0 (execL2Disable a g v s) := by
  unfold execL2Disable; try dsimp only
  with_reducible
    repeat' first
      | intro _ | assumption | exact within_trans (by decide +kernel) hm0 | exact within_trans (by decide +kernel) hw0
      | apply State.secureOnly_keeps | apply State.l2CtlWrite_keeps | apply Keeps.next | dsimp only

theorem execL2SweepDone_keeps {mP wF : Nat} {r0 : State} (g : GCore) (s : State) (hk : Keeps mP wF r0 s) (hm0 : within 0x9401 mP) (hw0 : within 0x8400000000000000000000000000000000000000000000000000000000000000000102c00000000000000000000000000000000000000 wF) : Keeps.Res mP wF r0 (execL2SweepDone g s) := by
  unfold execL2SweepDone; try dsimp only
  with_reducible
    repeat' first
      | intro _ | assumption | exact within_trans (by decide +kernel) hm0 | exact within_trans (by decide +kernel) hw0
      | apply State.put_keeps | apply State.setFlag_keeps | apply State.l2Evict_keeps | apply Keeps.next
      | apply Keeps.foldl | apply Keeps.foldlFst | apply Keeps.ite | apply Keeps.iteFst | split | dsimp only
      | apply within_ite

theorem State.dcCtlWrite_keeps {mP wF : Nat} {r0 : State} (s : State) (d : Nat) (v : Nat) (hk : Keeps mP wF r0 s) (hm0 : within 0x1 mP) (hw0 : within 0xfc00000000000000000000000000000000000000000 wF) : Keeps mP wF r0 (State.dcCtlWrite s d v) := by
  unfold State.dcCtlWrite; try dsimp only
  with_reducible
    repeat' first
      | assumption | exact within_trans (by decide +kernel) hm0 | exact within_trans (by decide +kernel) hw0
      | apply State.put_keeps | apply State.setFlag_keeps | apply Keeps.ite | split | dsimp only | apply within_ite

theorem execDcDisable_keeps {mP wF : Nat} {r0 : State} (a : Acc) (d : Die) (v : Word) (s : State) (hk : Keeps mP wF r0 s) (hm0 : within 0x2000831 mP) (hw0 : within 0xc1f00000000000000002000000000000000000000000000000000000000000000000000fc00000000000000000000400000000000000000000 wF) : Keeps.Res mP wF r0 (execDcDisable a d v s) := by
  unfold execDcDisable; try dsimp only
  with_reducible
    repeat' first
      | intro _ | assumption | exact within_trans (by decide +kernel) hm0 | exact within_trans (by decide +kernel) hw0
      | apply State.secureOnly_keeps | apply State.dcCtlWrite_keeps | apply Keeps.next | dsimp only

theorem execDcSweepDone_keeps {mP wF : Nat} {r0 : State} (d : Die) (s : State) (hk : Keeps mP wF r0 s) (hm0 : within 0x9401 mP) (hw0 : within 0x8400000000000000000000000000000000000000000000000000000000000000006100000000000000000000000000000000000000000 wF) : Keeps.Res mP wF r0 (execDcSweepDone d s) := by
  unfold execDcSweepDone; try dsimp only
  with_reducible
    repeat' first
      | intro _ | assumption | exact within_trans (by decide +kernel) hm0 | exact within_trans (by decide +kernel) hw0
      | apply State.setFlag_keeps | apply State.dieEvict_keeps | apply Keeps.next | apply Keeps.foldl
      | apply Keeps.foldlFst | apply Keeps.ite | apply Keeps.iteFst | split | dsimp only | apply within_ite

theorem State.dcMaintWrite_keeps {mP wF : Nat} {r0 : State} (s : State) (d : Nat) (v : Nat) (hk : Keeps mP wF r0 s) (hm0 : within 0x1 mP) (hw0 : within 0xbc0000000000000000000000000000000000000000000 wF) : Keeps mP wF r0 (State.dcMaintWrite s d v) := by
  unfold State.dcMaintWrite; try dsimp only
  with_reducible
    repeat' first
      | assumption | exact within_trans (by decide +kernel) hm0 | exact within_trans (by decide +kernel) hw0
      | apply State.put_keeps | apply State.setFlag_keeps | apply Keeps.ite | split | dsimp only | apply within_ite

theorem execDcMaint_keeps {mP wF : Nat} {r0 : State} (a : Acc) (d : Die) (v : Word) (s : State) (hk : Keeps mP wF r0 s) (hm0 : within 0x2000831 mP) (hw0 : within 0xc1f000000000000000020000000000000000000000000000000000000000000000000bc0000000000000000000000400000000000000000000 wF) : Keeps.Res mP wF r0 (execDcMaint a d v s) := by
  unfold execDcMaint; try dsimp only
  with_reducible
    repeat' first
      | intro _ | assumption | exact within_trans (by decide +kernel) hm0 | exact within_trans (by decide +kernel) hw0
      | apply State.secureOnly_keeps | apply State.dcMaintWrite_keeps | apply Keeps.next | dsimp only

theorem State.dieClean_keeps {mP wF : Nat} {r0 : State} (s : State) (d : Nat) (la : Nat) (down : Bool) (hk : Keeps mP wF r0 s) (hm0 : within 0x9401 mP) (hw0 : within 0x8400000000000000000000000000000000000000000000000000000000000000000000000000000000000000000000000000000000000 wF) : Keeps mP wF r0 (State.dieClean s d la down) := by
  unfold State.dieClean; try dsimp only
  with_reducible
    repeat' first
      | assumption | exact within_trans (by decide +kernel) hm0 | exact within_trans (by decide +kernel) hw0
      | apply State.setL2_keeps | apply State.writeback_keeps | apply Keeps.ite | split | dsimp only
      | apply within_ite

end Sys2Proof.Machine
end

