-- ==== Sys2Proof/Laws/KeepsDike.lean ====
section
/-! SUPPORT. The operations of Machine/Dike.lean keep the memory form, the field widths and the queue. -/

set_option Elab.async false
namespace Sys2Proof.Machine

theorem State.updDike_keeps {mP wF : Nat} {r0 : State} (s : State) (g : Nat) (f : Dike → Dike) (hk : Keeps mP wF r0 s)
    (hm0 : within 0x400000 mP) : Keeps mP wF r0 (s.updDike g f) :=
  Keeps.record hk rfl fun p hp => by
    cases p <;> first
      | exact rfl
      | exact absurd (hp.symm.trans (within_bit hm0 (by decide +kernel))) Bool.false_ne_true

theorem State.syncDike_keeps {mP wF : Nat} {r0 : State} (s : State) (g : Nat) (hk : Keeps mP wF r0 s) (hm0 : within 0x1 mP) (hw0 : within 0x28000000000000000000000000000000000000000000000000000000000000000000000 wF) : Keeps mP wF r0 (State.syncDike s g) := by
  unfold State.syncDike; try dsimp only
  with_reducible
    repeat' first
      | intro _ | assumption | exact within_trans (by decide +kernel) hm0 | exact within_trans (by decide +kernel) hw0
      | apply State.put_keeps | apply Keeps.foldl | apply Keeps.foldlFst

theorem State.guestDone_keeps {mP wF : Nat} {r0 : State} (s : State) (g : Nat) (m : Msg) (hk : Keeps mP wF r0 s) (hm0 : within 0x2000000 mP) : Keeps mP wF r0 (State.guestDone s g m) := by
  unfold State.guestDone; try dsimp only
  with_reducible
    repeat' first
      | assumption | exact within_trans (by decide +kernel) hm0 | apply State.emit_keeps

theorem State.guestRefuse_keeps {mP wF : Nat} {r0 : State} (s : State) (g : Half) (m : Msg) (kind : Nat) (tag : Nat × Bool) (hk : Keeps mP wF r0 s) (hm0 : within 0x2000831 mP) (hw0 : within 0xc1f000000000000000020000000000000000000000040000000000000000000000000000000000000000000000000400000000000000000000 wF) : Keeps mP wF r0 (State.guestRefuse s g m kind tag) := by
  unfold State.guestRefuse; try dsimp only
  with_reducible
    repeat' first
      | assumption | exact within_trans (by decide +kernel) hm0 | exact within_trans (by decide +kernel) hw0
      | apply State.bump_keeps | apply State.refuse_keeps | apply State.guestDone_keeps

theorem State.guestBell_keeps {mP wF : Nat} {r0 : State} (s : State) (g : Nat) (d : Nat) (v : Nat) (hk : Keeps mP wF r0 s) (hm0 : within 0x401 mP) (hw0 : within 0x800000000000000000000000000000000000000000000000000000000000000000000000000 wF) : Keeps mP wF r0 (State.guestBell s g d v) := by
  unfold State.guestBell; try dsimp only
  with_reducible
    repeat' first
      | assumption | exact within_trans (by decide +kernel) hm0 | exact within_trans (by decide +kernel) hw0
      | apply State.put_keeps | apply State.raiseInt_keeps | apply Keeps.ite | split | dsimp only | apply within_ite

theorem State.guestBells_keeps {mP wF : Nat} {r0 : State} (s : State) (g : Nat) (m : Msg) (hk : Keeps mP wF r0 s) (hm0 : within 0x401 mP) (hw0 : within 0x800000000000000000000000000000000000000000000000000000000000000000000000000 wF) : Keeps mP wF r0 (State.guestBells s g m) := by
  unfold State.guestBells; try dsimp only
  with_reducible
    repeat' first
      | intro _ | assumption | exact within_trans (by decide +kernel) hm0 | exact within_trans (by decide +kernel) hw0
      | apply State.guestBell_keeps | apply Keeps.foldl | apply Keeps.foldlFst | apply Keeps.ite | split | dsimp only
      | apply within_ite

theorem State.guestDecode_keeps {mP wF : Nat} {r0 : State} (s : State) (g : Half) (m : Msg) (hk : Keeps mP wF r0 s) (hm0 : within 0x2429c31 mP) (hw0 : within 0xc1f008400000000000020000000000000000000800068000000000000000000000000000000000000000000000000400000000000000000000 wF) : Keeps mP wF r0 (State.guestDecode s g m) := by
  unfold State.guestDecode; try dsimp only
  with_reducible
    repeat' first
      | intro _ | assumption | exact within_trans (by decide +kernel) hm0 | exact within_trans (by decide +kernel) hw0
      | apply State.updIo_keeps | apply State.send_keeps | apply State.updDike_keeps | apply State.syncDike_keeps
      | apply State.guestDone_keeps | apply State.guestRefuse_keeps | apply State.guestBells_keeps | apply Keeps.ite
      | split | dsimp only | apply within_ite

theorem State.quarantine_keeps {mP wF : Nat} {r0 : State} (s : State) (g : Nat) (m : Msg) (hk : Keeps mP wF r0 s) (hm0 : within 0x2000831 mP) (hw0 : within 0xc1f000000000000000020000000000000000000000004200000000000000000000000000000000000000000000000000000000000000000000 wF) : Keeps mP wF r0 (State.quarantine s g m) := by
  unfold State.quarantine; try dsimp only
  with_reducible
    repeat' first
      | assumption | exact within_trans (by decide +kernel) hm0 | exact within_trans (by decide +kernel) hw0
      | apply State.setFlag_keeps | apply State.logSec_keeps

theorem State.guestAccept_keeps {mP wF : Nat} {r0 : State} (s : State) (g : Half) (m : Msg) (hk : Keeps mP wF r0 s) (hm0 : within 0x2429c31 mP) (hw0 : within 0xc1f0084000000000000200000000000000000008000ec200000000000000000000000000000000000000000000000400000000000000000000 wF) : Keeps mP wF r0 (State.guestAccept s g m) := by
  unfold State.guestAccept; try dsimp only
  with_reducible
    repeat' first
      | assumption | exact within_trans (by decide +kernel) hm0 | exact within_trans (by decide +kernel) hw0
      | apply State.bump_keeps | apply State.guestDone_keeps | apply State.guestDecode_keeps
      | apply State.quarantine_keeps | apply Keeps.ite | split | dsimp only | apply within_ite

theorem State.guestAdmit_keeps {mP wF : Nat} {r0 : State} (s : State) (g : Half) (m : Msg) (hk : Keeps mP wF r0 s) (hm0 : within 0x2429c31 mP) (hw0 : within 0xc1f0084000000000000200000000000000000008000ec200000000000000000000000000000000000000000000000400000000000000000000 wF) : Keeps.Opt mP wF r0 (State.guestAdmit s g m) := by
  unfold State.guestAdmit; try dsimp only
  with_reducible
    repeat' first
      | intro _ | assumption | exact within_trans (by decide +kernel) hm0 | exact within_trans (by decide +kernel) hw0
      | apply State.updDike_keeps | apply State.guestRefuse_keeps | apply State.guestAccept_keeps
      | apply Keeps.optNone | apply Keeps.optSome | apply Keeps.ite | apply Keeps.iteFst | apply Keeps.iteOpt | split
      | dsimp only | apply within_ite

theorem State.rateHeld_keeps {mP wF : Nat} {r0 : State} (s : State) (g : Nat) (x : Msg × Bool) (hk : Keeps mP wF r0 s) (hm0 : within 0x1 mP) (hw0 : within 0x100000000000000000000000000000000000000000000000000000000000000000000000 wF) : Keeps mP wF r0 (State.rateHeld s g x).1 := by
  unfold State.rateHeld; try dsimp only
  with_reducible
    repeat' first
      | assumption | exact within_trans (by decide +kernel) hm0 | exact within_trans (by decide +kernel) hw0
      | apply State.bump_keeps | apply Keeps.ite | apply Keeps.iteFst | split | dsimp only | apply within_ite

theorem State.dikeServe_keeps {mP wF : Nat} {r0 : State} (s : State) (g : Half) (y0 : Nat) (hk : Keeps mP wF r0 s) (hm0 : within 0x2429c31 mP) (hw0 : within 0xc1f0084000000000000200000000000000000008001ec200000000000000000000000000000000000000000000000400000000000000000000 wF) : Keeps mP wF r0 (State.dikeServe s g y0) := by
  induction y0 generalizing s g with
  | zero =>
    unfold State.dikeServe; try dsimp only
    with_reducible
      repeat' first
        | intro _ | assumption | exact within_trans (by decide +kernel) hm0
        | exact within_trans (by decide +kernel) hw0 | apply State.updDike_keeps | apply State.guestAdmit_keeps
        | apply State.rateHeld_keeps | exact Keeps.optNone | apply Keeps.optSome | refine Keeps.opt ?_ (by assumption)
        | refine Keeps.fst ?_ (by assumption) | refine Keeps.fst ?_ (by assumption) | split | dsimp only
  | succ n ih =>
    unfold State.dikeServe; try dsimp only
    with_reducible
      repeat' first
        | intro _ | assumption | exact within_trans (by decide +kernel) hm0
        | exact within_trans (by decide +kernel) hw0 | apply State.updDike_keeps | apply State.guestAdmit_keeps
        | apply State.rateHeld_keeps | exact Keeps.optNone | apply Keeps.optSome | refine Keeps.opt ?_ (by assumption)
        | refine Keeps.fst ?_ (by assumption) | apply ih | refine Keeps.fst ?_ (by assumption) | split | dsimp only

theorem State.dikeAdmit_keeps {mP wF : Nat} {r0 : State} (s : State) (g : Half) (hk : Keeps mP wF r0 s) (hm0 : within 0x2429c31 mP) (hw0 : within 0xc1f0084000000000000200000000000000000008001ec200000000000000000000000000000000000000000000000400000000000000000000 wF) : Keeps mP wF r0 (State.dikeAdmit s g) := by
  unfold State.dikeAdmit; try dsimp only
  with_reducible
    repeat' first
      | assumption | exact within_trans (by decide +kernel) hm0 | exact within_trans (by decide +kernel) hw0
      | apply State.dikeServe_keeps

theorem State.guestComplete_keeps {mP wF : Nat} {r0 : State} (s : State) (g : Half) (txid : Nat) (m : Msg) (hk : Keeps mP wF r0 s) (hm0 : within 0x2429c31 mP) (hw0 : within 0xc1f0084000000000000200000000000000000008001ec200000000000000000000000000000000000000000000000400000000000000000000 wF) : Keeps mP wF r0 (State.guestComplete s g txid m) := by
  unfold State.guestComplete; try dsimp only
  with_reducible
    repeat' first
      | intro _ | assumption | exact within_trans (by decide +kernel) hm0 | exact within_trans (by decide +kernel) hw0
      | apply State.emit_keeps | apply State.updDike_keeps | apply State.syncDike_keeps | apply State.dikeAdmit_keeps
      | split | dsimp only

theorem execGuestRequest_keeps {mP wF : Nat} {r0 : State} (g : Half) (m : Msg) (s : State) (hk : Keeps mP wF r0 s) (hm0 : within 0x2429c31 mP) (hw0 : within 0xc1f0084000000000000200000000000000000008001ec200000000000000000000000000000000000000000000000400000000000000000000 wF) : Keeps.Res mP wF r0 (execGuestRequest g m s) := by
  unfold execGuestRequest; try dsimp only
  with_reducible
    repeat' first
      | intro _ | assumption | exact within_trans (by decide +kernel) hm0 | exact within_trans (by decide +kernel) hw0
      | apply State.updDike_keeps | apply State.quarantine_keeps | apply State.dikeAdmit_keeps | apply Keeps.next
      | apply Keeps.ite | apply Keeps.iteFst | split | dsimp only | apply within_ite

theorem execGuestDoorbell_keeps {mP wF : Nat} {r0 : State} (g : Half) (d : Fin 16) (v : Word) (s : State) (hk : Keeps mP wF r0 s) (hm0 : within 0x401 mP) (hw0 : within 0x800000000000000000000000000000000000000000000000000000000000000000000000000 wF) : Keeps.Res mP wF r0 (execGuestDoorbell g d v s) := by
  unfold execGuestDoorbell; try dsimp only
  with_reducible
    repeat' first
      | assumption | exact within_trans (by decide +kernel) hm0 | exact within_trans (by decide +kernel) hw0
      | apply State.guestBell_keeps | apply Keeps.next | apply Keeps.ite | apply Keeps.iteFst | split | dsimp only
      | apply within_ite

theorem State.guestLoss_keeps {mP wF : Nat} {r0 : State} (s : State) (g : Nat) (hk : Keeps mP wF r0 s) (hm0 : within 0x2400831 mP) (hw0 : within 0xc1f000000000000000020000000000000000000000028000000000000000000000000000000000000000000000000000000000000000000000 wF) : Keeps mP wF r0 (State.guestLoss s g) := by
  unfold State.guestLoss; try dsimp only
  with_reducible
    repeat' first
      | intro _ | assumption | exact within_trans (by decide +kernel) hm0 | exact within_trans (by decide +kernel) hw0
      | apply State.logSec_keeps | apply State.updDike_keeps | apply State.syncDike_keeps | apply Keeps.ite | split
      | dsimp only | apply within_ite

theorem execGuestModuleLoss_keeps {mP wF : Nat} {r0 : State} (g : Half) (s : State) (hk : Keeps mP wF r0 s) (hm0 : within 0x2400831 mP) (hw0 : within 0xc1f000000000000000020000000000000000000000028000000008000000000000000000000000000000000000000000000000000000000000 wF) : Keeps.Res mP wF r0 (execGuestModuleLoss g s) := by
  unfold execGuestModuleLoss; try dsimp only
  with_reducible
    repeat' first
      | assumption | exact within_trans (by decide +kernel) hm0 | exact within_trans (by decide +kernel) hw0
      | apply State.put_keeps | apply State.guestLoss_keeps | apply Keeps.next

theorem execTokenBucketRefill_keeps {mP wF : Nat} {r0 : State} (g : Half) (s : State) (hk : Keeps mP wF r0 s) (hm0 : within 0x2429c31 mP) (hw0 : within 0xc1f0084000000000000200000000000000000008001ec200000000000000000000000000000000000000000000000400000000000000000000 wF) : Keeps.Res mP wF r0 (execTokenBucketRefill g s) := by
  unfold execTokenBucketRefill; try dsimp only
  with_reducible
    repeat' first
      | intro _ | assumption | exact within_trans (by decide +kernel) hm0 | exact within_trans (by decide +kernel) hw0
      | apply State.updDike_keeps | apply State.dikeAdmit_keeps | apply Keeps.next | dsimp only

end Sys2Proof.Machine
end

