-- ==== Sys2Proof/Laws/KeepsPorts.lean ====
section
/-! SUPPORT. The operations of Machine/Ports.lean keep the memory form, the field widths and the queue. -/

set_option Elab.async false
namespace Sys2Proof.Machine

theorem State.ioSend_keeps {mP wF : Nat} {r0 : State} (s : State) (m : Msg) (hk : Keeps mP wF r0 s) (hm0 : within 0x29001 mP) (hw0 : within 0x8400000000000000000000000000000000000000000000000000000000000000000000000000000000000000000000000000000000000 wF) : Keeps mP wF r0 (State.ioSend s m) := by
  unfold State.ioSend; try dsimp only
  with_reducible
    repeat' first
      | intro _ | assumption | exact within_trans (by decide +kernel) hm0 | exact within_trans (by decide +kernel) hw0
      | apply State.updIo_keeps | apply State.send_keeps | dsimp only

theorem State.syncPw_keeps {mP wF : Nat} {r0 : State} (s : State) (e : Nat) (hk : Keeps mP wF r0 s) (hm0 : within 0x1 mP) (hw0 : within 0x80000000000000000000000000000000000000000000000000000000000000000000000000000000000000000000000 wF) : Keeps mP wF r0 (State.syncPw s e) := by
  unfold State.syncPw; try dsimp only
  with_reducible
    repeat' first
      | intro _ | assumption | exact within_trans (by decide +kernel) hm0 | exact within_trans (by decide +kernel) hw0
      | apply State.put_keeps | apply Keeps.foldl | apply Keeps.foldlFst

theorem State.pePump_keeps {mP wF : Nat} {r0 : State} (s : State) (e : Nat) (y0 : Nat) (hk : Keeps mP wF r0 s) (hm0 : within 0x29801 mP) (hw0 : within 0x8400000000000000000000000000000000000000000000000000000000000000000000000000000000000000000000000000000000000 wF) : Keeps mP wF r0 (State.pePump s e y0) := by
  induction y0 generalizing s e with
  | zero =>
    unfold State.pePump; try dsimp only
    with_reducible
      repeat' first
        | intro _ | assumption | exact within_trans (by decide +kernel) hm0
        | exact within_trans (by decide +kernel) hw0 | apply State.updPe_keeps | apply State.ioSend_keeps
        | apply Keeps.ite | refine Keeps.fst ?_ (by assumption) | split | dsimp only | apply within_ite
  | succ n ih =>
    unfold State.pePump; try dsimp only
    with_reducible
      repeat' first
        | intro _ | assumption | exact within_trans (by decide +kernel) hm0
        | exact within_trans (by decide +kernel) hw0 | apply State.updPe_keeps | apply State.ioSend_keeps
        | apply Keeps.ite | apply ih | refine Keeps.fst ?_ (by assumption) | split | dsimp only | apply within_ite

theorem State.peDone_keeps {mP wF : Nat} {r0 : State} (s : State) (e : Nat) (tx : Nat) (ans : Option (List Word × Bool)) (hk : Keeps mP wF r0 s) (hm0 : within 0x2029801 mP) (hw0 : within 0x8400000000000080000000000000000000000000000000000000000000000000000000000000000000000000000000000000000000000 wF) : Keeps mP wF r0 (State.peDone s e tx ans) := by
  unfold State.peDone; try dsimp only
  with_reducible
    repeat' first
      | intro _ | assumption | exact within_trans (by decide +kernel) hm0 | exact within_trans (by decide +kernel) hw0
      | apply State.emit_keeps | apply State.updPe_keeps | apply State.syncPw_keeps | apply State.pePump_keeps
      | apply Keeps.foldl | apply Keeps.foldlFst | apply Keeps.ite | split | dsimp only | apply within_ite

theorem State.peAccept_keeps {mP wF : Nat} {r0 : State} (s : State) (e : Nat) (req : Nat) (m : Msg) (ro : Bool) (hk : Keeps mP wF r0 s) (hm0 : within 0x29801 mP) (hw0 : within 0x8400000000000080000000000000000000000000000000000000000000000000000000000000000000000000000000000000000000000 wF) : Keeps mP wF r0 (State.peAccept s e req m ro) := by
  unfold State.peAccept; try dsimp only
  with_reducible
    repeat' first
      | intro _ | assumption | exact within_trans (by decide +kernel) hm0 | exact within_trans (by decide +kernel) hw0
      | apply State.updPe_keeps | apply State.syncPw_keeps | apply State.pePump_keeps | dsimp only

end Sys2Proof.Machine
end

