-- ==== Sys2Proof/Laws/KeepsGuard.lean ====
section
/-! SUPPORT. The operations of Machine/Guard.lean keep the memory form, the field widths and the queue. -/

set_option Elab.async false
namespace Sys2Proof.Machine

/-- The fields `bmFld` names. -/
theorem bmFld_within {wF : Nat} (d : Nat) (hw0 : within 0x1ffe0000000 wF) : within (bmFld d).mask wF := by
  refine within_trans ?_ hw0
  unfold bmFld
  rcases d with _ | _ | _ | _ | _ | _ | _ | _ | _ | _ | _ | _ | d
  all_goals first
    | decide +kernel
    | exact (by decide +kernel : within (Fld.mask .BM_CORES_CD0) 0x1ffe0000000)

theorem State.loadBody_keeps {mP wF : Nat} {r0 : State} (s : State) (g : Nat) (h : Nat) (hk : Keeps mP wF r0 s) (hm0 : within 0x400 mP) : Keeps mP wF r0 (State.loadBody s g h) := by
  unfold State.loadBody; try dsimp only
  with_reducible
    repeat' first
      | intro _ | assumption | exact within_trans (by decide +kernel) hm0 | apply State.updCore_keeps
      | apply Keeps.foldl | apply Keeps.foldlFst | apply Keeps.ite | split | dsimp only

theorem State.migrDone_keeps {mP wF : Nat} {r0 : State} (s : State) (x : Migr) (new : Nat) (hk : Keeps mP wF r0 s) (hm0 : within 0x209941f mP) (hw0 : within 0x8400000000000000000000000000000000000000000000000000000000000000000100000000000000000000000000000000000000000 wF) : Keeps mP wF r0 (State.migrDone s x new) := by
  unfold State.migrDone; try dsimp only
  with_reducible
    repeat' first
      | intro _ | assumption | exact within_trans (by decide +kernel) hm0 | exact within_trans (by decide +kernel) hw0
      | apply State.updBerm_keeps | apply State.finish_keeps | split | dsimp only

theorem State.migrTaken_keeps {mP wF : Nat} {r0 : State} (s : State) (g : Nat) (hk : Keeps mP wF r0 s) (hm0 : within 0x2099c3f mP) (hw0 : within 0xc1f008400000000000020000000000000000000000000000000000000000000000000000100000000000000000000000000000000000000000 wF) : Keeps mP wF r0 (State.migrTaken s g) := by
  unfold State.migrTaken; try dsimp only
  with_reducible
    repeat' first
      | intro _ | assumption | exact within_trans (by decide +kernel) hm0 | exact within_trans (by decide +kernel) hw0
      | apply State.logDie_keeps | apply State.migrDone_keeps | apply Keeps.ite | split | dsimp only
      | apply within_ite

theorem State.migrVoid_keeps {mP wF : Nat} {r0 : State} (s : State) (g : Nat) (hk : Keeps mP wF r0 s) (hm0 : within 0x209941f mP) (hw0 : within 0x8400000000000000000000000000000000000000000000000000000000000000000100000000000000000000000000000000000000000 wF) : Keeps mP wF r0 (State.migrVoid s g) := by
  unfold State.migrVoid; try dsimp only
  with_reducible
    repeat' first
      | intro _ | assumption | exact within_trans (by decide +kernel) hm0 | exact within_trans (by decide +kernel) hw0
      | apply State.migrDone_keeps | split | dsimp only

theorem State.alignHalf_keeps {mP wF : Nat} {r0 : State} (s : State) (g : Nat) (k : Nat) (hk : Keeps mP wF r0 s) (hm0 : within 0x1940f mP) (hw0 : within 0x8400000000000000000000000000000000000000000000000000000000000000000100000000000000000000000000000000000000000 wF) : Keeps mP wF r0 (State.alignHalf s g k) := by
  unfold State.alignHalf; try dsimp only
  with_reducible
    repeat' first
      | intro _ | assumption | exact within_trans (by decide +kernel) hm0 | exact within_trans (by decide +kernel) hw0
      | apply State.updTick_keeps | apply State.writeBytes_keeps | apply Keeps.ite | split | dsimp only
      | apply within_ite

theorem State.slackJoin_keeps {mP wF : Nat} {r0 : State} (s : State) (p : Nat) (hk : Keeps mP wF r0 s) (hm0 : within 0x200 mP) : Keeps mP wF r0 (State.slackJoin s p) := by
  unfold State.slackJoin; try dsimp only
  with_reducible
    repeat' first
      | intro _ | assumption | exact within_trans (by decide +kernel) hm0 | apply State.updCtx_keeps
      | apply State.slackShut_keeps | apply Keeps.ite | split | dsimp only

theorem State.takeTick_keeps {mP wF : Nat} {r0 : State} (s : State) (g : Nat) (m : TickMsg) (hk : Keeps mP wF r0 s) (hm0 : within 0x2099e3f mP) (hw0 : within 0xc1f008400000000000020000000000000000000000000000000000000000000000000000100000004000000000000000000000000000000000 wF) : Keeps mP wF r0 (State.takeTick s g m) := by
  unfold State.takeTick; try dsimp only
  with_reducible
    repeat' first
      | intro _ | assumption | exact within_trans (by decide +kernel) hm0 | exact within_trans (by decide +kernel) hw0
      | apply State.bump_keeps | apply State.updCore_keeps | apply State.countCore_keeps | apply State.logDie_keeps
      | apply State.migrTaken_keeps | apply State.alignHalf_keeps | apply State.slackJoin_keeps | apply Keeps.ite
      | split
      | refine Keeps.record ?_ rfl (fun p hp => by cases p <;> first | exact absurd (hp.symm.trans (within_bit hm0 (by decide +kernel))) Bool.false_ne_true | with_unfolding_all exact rfl)
      | dsimp only | apply within_ite

theorem State.skipTick_keeps {mP wF : Nat} {r0 : State} (s : State) (g : Nat) (m : TickMsg) (hk : Keeps mP wF r0 s) (hm0 : within 0x2000c31 mP) (hw0 : within 0xc1f000000000000000020000000000000000000000000000000000000000000000000000000000002000000000000000000000000000000000 wF) : Keeps mP wF r0 (State.skipTick s g m) := by
  unfold State.skipTick; try dsimp only
  with_reducible
    repeat' first
      | intro _ | assumption | exact within_trans (by decide +kernel) hm0 | exact within_trans (by decide +kernel) hw0
      | apply State.bump_keeps | apply State.updTick_keeps | apply State.logDie_keeps | dsimp only

theorem State.tryTake_keeps {mP wF : Nat} {r0 : State} (s : State) (g : Nat) (hk : Keeps mP wF r0 s) (hm0 : within 0x2099e3f mP) (hw0 : within 0xc1f008400000000000020000000000000000000000000000000000000000000000000000100000006000000000000000000000000000000000 wF) : Keeps mP wF r0 (State.tryTake s g) := by
  unfold State.tryTake; try dsimp only
  with_reducible
    repeat' first
      | intro _ | assumption | exact within_trans (by decide +kernel) hm0 | exact within_trans (by decide +kernel) hw0
      | apply State.updTick_keeps | apply State.takeTick_keeps | apply State.skipTick_keeps | apply Keeps.ite | split
      | dsimp only | apply within_ite

theorem execTickTake_keeps {mP wF : Nat} {r0 : State} (g : GCore) (s : State) (hk : Keeps mP wF r0 s) (hm0 : within 0x2099e3f mP) (hw0 : within 0xc1f008400000000000020000000000000000000000000000000000000000000000000000100000006000000000000000000000000000000000 wF) : Keeps.Res mP wF r0 (execTickTake g s) := by
  unfold execTickTake; try dsimp only
  with_reducible
    repeat' first
      | assumption | exact within_trans (by decide +kernel) hm0 | exact within_trans (by decide +kernel) hw0
      | apply State.tryTake_keeps | apply Keeps.next

theorem State.writeTickRec_keeps {mP wF : Nat} {r0 : State} (s : State) (g : Nat) (hk : Keeps mP wF r0 s) (hm0 : within 0x1940f mP) (hw0 : within 0x8400000000000000000000000000000000000000000000000000000000000000000100000000000000000000000000000000000000000 wF) : Keeps mP wF r0 (State.writeTickRec s g) := by
  unfold State.writeTickRec; try dsimp only
  with_reducible
    repeat' first
      | assumption | exact within_trans (by decide +kernel) hm0 | exact within_trans (by decide +kernel) hw0
      | apply State.writeBytes_keeps

theorem execTickRecordDurable_keeps {mP wF : Nat} {r0 : State} (g : GCore) (s : State) (hk : Keeps mP wF r0 s) (hm0 : within 0x1940f mP) (hw0 : within 0x8400000000000000000000000000000000000000000000000000000000000000000100000000000000000000000000000000000000000 wF) : Keeps.Res mP wF r0 (execTickRecordDurable g s) := by
  unfold execTickRecordDurable; try dsimp only
  with_reducible
    repeat' first
      | intro _ | assumption | exact within_trans (by decide +kernel) hm0 | exact within_trans (by decide +kernel) hw0
      | apply State.updTick_keeps | apply State.takeHeld_keeps | apply State.writeTickRec_keeps | apply Keeps.next
      | apply Keeps.ite | apply Keeps.iteFst | split | dsimp only | apply within_ite

theorem State.takeToken_keeps {mP wF : Nat} {r0 : State} (s : State) (g : Nat) (hk : Keeps mP wF r0 s) (hm0 : within 0x2000c31 mP) (hw0 : within 0xc1f0000000000000000200000000000000000000000000000000000000000000000000000000400c0000000000000000000000000000000000 wF) : Keeps mP wF r0 (State.takeToken s g) := by
  unfold State.takeToken; try dsimp only
  with_reducible
    repeat' first
      | intro _ | assumption | exact within_trans (by decide +kernel) hm0 | exact within_trans (by decide +kernel) hw0
      | apply State.put_keeps | apply State.bump_keeps | apply State.setFlag_keeps | apply State.updTick_keeps
      | apply State.logDie_keeps | apply Keeps.ite | split | dsimp only | apply within_ite

theorem State.freeToken_keeps {mP wF : Nat} {r0 : State} (s : State) (g : Nat) (hk : Keeps mP wF r0 s) (hm0 : within 0x2000c31 mP) (hw0 : within 0xc1f0000000000000000200000000000000000000000000000000000000000000000000000000400c0000000000000000000000000000000000 wF) : Keeps mP wF r0 (State.freeToken s g) := by
  unfold State.freeToken; try dsimp only
  with_reducible
    repeat' first
      | intro _ | assumption | exact within_trans (by decide +kernel) hm0 | exact within_trans (by decide +kernel) hw0
      | apply State.setFlag_keeps | apply State.updTick_keeps | apply State.takeToken_keeps | apply Keeps.ite | split
      | dsimp only | apply within_ite

theorem State.hubSettle_keeps {mP wF : Nat} {r0 : State} (s : State) (la : Nat) (hk : Keeps mP wF r0 s) (hm0 : within 0x201941f mP) (hw0 : within 0x8400000000000000000000000000000000000000000000000000000000000000000100000000000000000000000000000000000000000 wF) : Keeps mP wF r0 (State.hubSettle s la) := by
  unfold State.hubSettle; try dsimp only
  with_reducible
    repeat' first
      | intro _ | assumption | exact within_trans (by decide +kernel) hm0 | exact within_trans (by decide +kernel) hw0
      | apply State.hubApply_keeps | apply State.finish_keeps | apply Keeps.foldl | apply Keeps.foldlFst
      | refine Keeps.fst ?_ (by assumption) | dsimp only

theorem State.hubSettleAll_keeps {mP wF : Nat} {r0 : State} (s : State) (hk : Keeps mP wF r0 s) (hm0 : within 0x201941f mP) (hw0 : within 0x8400000000000000000000000000000000000000000000000000000000000000000100000000000000000000000000000000000000000 wF) : Keeps mP wF r0 (State.hubSettleAll s) := by
  unfold State.hubSettleAll; try dsimp only
  with_reducible
    repeat' first
      | intro _ | assumption | exact within_trans (by decide +kernel) hm0 | exact within_trans (by decide +kernel) hw0
      | apply State.hubSettle_keeps | apply Keeps.foldl | apply Keeps.foldlFst

theorem State.dropMarked_keeps {mP wF : Nat} {r0 : State} (s : State) (g : Nat) (la : Nat) (hk : Keeps mP wF r0 s) (hm0 : within 0x201941f mP) (hw0 : within 0x8400000000000000000000000000000000000000000000000000000000000000000100000000000000000000000000000000000000000 wF) : Keeps mP wF r0 (State.dropMarked s g la) := by
  unfold State.dropMarked; try dsimp only
  with_reducible
    repeat' first
      | intro _ | assumption | exact within_trans (by decide +kernel) hm0 | exact within_trans (by decide +kernel) hw0
      | apply State.updCore_keeps | apply State.send_keeps | apply State.l2Drop_keeps | apply State.dropDc_keeps
      | apply State.evictClean_keeps | apply State.hubSettle_keeps | apply Keeps.foldl | apply Keeps.foldlFst
      | apply Keeps.ite | split | dsimp only | apply within_ite

theorem State.withdrawMirror_keeps {mP wF : Nat} {r0 : State} (s : State) (g : Nat) (hk : Keeps mP wF r0 s) (hm0 : within 0x9401 mP) (hw0 : within 0x8400000000000000000000000000000000000000000000000000000000000000000000000000000000000000000000000000000000000 wF) : Keeps mP wF r0 (State.withdrawMirror s g) := by
  unfold State.withdrawMirror; try dsimp only
  with_reducible
    repeat' first
      | intro _ | assumption | exact within_trans (by decide +kernel) hm0 | exact within_trans (by decide +kernel) hw0
      | apply State.updFabric_keeps | apply State.writeback_keeps | dsimp only

theorem State.dropSamples_keeps {mP wF : Nat} {r0 : State} (s : State) (g : Nat) (hk : Keeps mP wF r0 s) (hm0 : within 0x400 mP) : Keeps mP wF r0 (State.dropSamples s g) := by
  unfold State.dropSamples; try dsimp only
  with_reducible
    repeat' first
      | intro _ | assumption | exact within_trans (by decide +kernel) hm0 | apply State.updCore_keeps
      | apply Keeps.ite | split | dsimp only

theorem State.undoTick_keeps {mP wF : Nat} {r0 : State} (s : State) (g : Nat) (hk : Keeps mP wF r0 s) (hm0 : within 0x201941f mP) (hw0 : within 0x8400000000000000000000000000000000000000000000000000000000000000000100000000000000000000000000000000000000000 wF) : Keeps mP wF r0 (State.undoTick s g) := by
  unfold State.undoTick; try dsimp only
  with_reducible
    repeat' first
      | intro _ | assumption | exact within_trans (by decide +kernel) hm0 | exact within_trans (by decide +kernel) hw0
      | apply State.updCore_keeps | apply State.writeLineHalf_keeps | apply State.dropMarked_keeps
      | apply State.withdrawMirror_keeps | apply State.dropSamples_keeps | apply Keeps.foldl | apply Keeps.foldlFst
      | apply Keeps.ite | split | dsimp only | apply within_ite

theorem State.takeAgain_keeps {mP wF : Nat} {r0 : State} (s : State) (g : Nat) (ids : List Nat) (hk : Keeps mP wF r0 s) (hm0 : within 0x400 mP) : Keeps mP wF r0 (State.takeAgain s g ids) := by
  unfold State.takeAgain; try dsimp only
  with_reducible
    repeat' first
      | intro _ | assumption | exact within_trans (by decide +kernel) hm0 | apply State.takeExc_keeps
      | apply Keeps.foldl | apply Keeps.foldlFst | dsimp only

theorem State.abortTick_keeps {mP wF : Nat} {r0 : State} (s : State) (g : Nat) (cause : Nat) (la : Nat) (hk : Keeps mP wF r0 s) (hm0 : within 0x2019c3f mP) (hw0 : within 0xc1f0084000000000000200000000000000000000000000000000000000000000000000001000418c0000000000000000000000000000000000 wF) : Keeps mP wF r0 (State.abortTick s g cause la) := by
  unfold State.abortTick; try dsimp only
  with_reducible
    repeat' first
      | intro _ | assumption | exact within_trans (by decide +kernel) hm0 | exact within_trans (by decide +kernel) hw0
      | apply State.bump_keeps | apply State.updCore_keeps | apply State.updTick_keeps | apply State.countCore_keeps
      | apply State.logDie_keeps | apply State.loadBody_keeps | apply State.takeToken_keeps
      | apply State.undoTick_keeps | apply State.takeAgain_keeps | apply Keeps.ite | split | dsimp only
      | apply within_ite

theorem State.commitAdvance_keeps {mP wF : Nat} {r0 : State} (s : State) (g : Nat) (force : Bool) (hk : Keeps mP wF r0 s) (hm0 : within 0x1940f mP) (hw0 : within 0x8400000000000000000000000000000000000000000000000000000000000000000100000000000000000000000000000000000000000 wF) : Keeps mP wF r0 (State.commitAdvance s g force) := by
  unfold State.commitAdvance; try dsimp only
  with_reducible
    repeat' first
      | intro _ | assumption | exact within_trans (by decide +kernel) hm0 | exact within_trans (by decide +kernel) hw0
      | apply State.updTick_keeps | apply State.writeBytes_keeps | apply State.mirrorWrite_keeps | apply Keeps.foldl
      | apply Keeps.foldlFst | apply Keeps.ite | split | dsimp only | apply within_ite

theorem State.startCommit_keeps {mP wF : Nat} {r0 : State} (s : State) (g : Nat) (split : Bool) (force : Bool) (hk : Keeps mP wF r0 s) (hm0 : within 0x1940f mP) (hw0 : within 0x8400000000000000000000000000000000000000000000000000000000000000000100000000000000000000000000000000000000000 wF) : Keeps mP wF r0 (State.startCommit s g split force) := by
  unfold State.startCommit; try dsimp only
  with_reducible
    repeat' first
      | intro _ | assumption | exact within_trans (by decide +kernel) hm0 | exact within_trans (by decide +kernel) hw0
      | apply State.updCore_keeps | apply State.commitAdvance_keeps | apply Keeps.ite | split | dsimp only
      | apply within_ite

theorem State.guardOverflow_keeps {mP wF : Nat} {r0 : State} (s : State) (g : Nat) (dq : Bool) (set : Nat) (hk : Keeps mP wF r0 s) (hm0 : within 0x2019c3f mP) (hw0 : within 0xc1f008400000000000020000000000000000000000000000000000000000000000000000100018000000000000000000000000000000000000 wF) : Keeps mP wF r0 (State.guardOverflow s g dq set) := by
  unfold State.guardOverflow; try dsimp only
  with_reducible
    repeat' first
      | assumption | exact within_trans (by decide +kernel) hm0 | exact within_trans (by decide +kernel) hw0
      | apply State.bump_keeps | apply State.logDie_keeps | apply State.startCommit_keeps | apply Keeps.ite | split
      | dsimp only | apply within_ite

theorem State.catchupAt_keeps {mP wF : Nat} {r0 : State} (s : State) (g : Nat) (hk : Keeps mP wF r0 s) (hm0 : within 0x2019c3f mP) (hw0 : within 0xc1f008400000000000020000000000000000000000000000000000000000000000000000100080100000000000000000000000000000000000 wF) : Keeps mP wF r0 (State.catchupAt s g) := by
  unfold State.catchupAt; try dsimp only
  with_reducible
    repeat' first
      | intro _ | assumption | exact within_trans (by decide +kernel) hm0 | exact within_trans (by decide +kernel) hw0
      | apply State.put_keeps | apply State.updTick_keeps | apply State.logDie_keeps | apply State.catchupFail_keeps
      | apply State.rerun_keeps | apply Keeps.ite | split | dsimp only | apply within_ite

theorem execCommitPoint_keeps {mP wF : Nat} {r0 : State} (g : GCore) (s : State) (hk : Keeps mP wF r0 s) (hm0 : within 0x6019c3f mP) (hw0 : within 0xc1f0084000000000000200000000000000000000000000000000000000000000000000001000c01c0000000000000000000000000000000000 wF) : Keeps.Res mP wF r0 (execCommitPoint g s) := by
  unfold execCommitPoint; try dsimp only
  with_reducible
    repeat' first
      | intro _ | assumption | exact within_trans (by decide +kernel) hm0 | exact within_trans (by decide +kernel) hw0
      | apply State.updCore_keeps | apply State.updTick_keeps | apply State.writeBytes_keeps
      | apply State.countRetired_keeps | apply State.logDie_keeps | apply State.writeback_keeps
      | apply State.freeToken_keeps | apply State.catchupAt_keeps | apply State.rerun_keeps | apply Keeps.next
      | apply Keeps.foldl | apply Keeps.foldlFst | apply Keeps.ite | apply Keeps.iteFst | split | dsimp only
      | apply within_ite

theorem execPhaseBComplete_keeps {mP wF : Nat} {r0 : State} (g : GCore) (s : State) (hk : Keeps mP wF r0 s) (hm0 : within 0x400 mP) : Keeps.Res mP wF r0 (execPhaseBComplete g s) := by
  unfold execPhaseBComplete; try dsimp only
  with_reducible
    repeat' first
      | intro _ | assumption | exact within_trans (by decide +kernel) hm0 | apply State.updTick_keeps
      | apply Keeps.next | apply Keeps.ite | apply Keeps.iteFst | split | dsimp only

theorem State.wayRetire_keeps {mP wF : Nat} {r0 : State} (s : State) (kind : Nat) (i : Nat) (cause : Nat) (hk : Keeps mP wF r0 s) (hm0 : within 0x2089c31 mP) (hw0 : within 0xc1f008400000000000020000000000000000000000000000000000000000000000003000106000000000000000000000000000000000000000 wF) : Keeps mP wF r0 (State.wayRetire s kind i cause) := by
  unfold State.wayRetire; try dsimp only
  with_reducible
    repeat' first
      | assumption | exact within_trans (by decide +kernel) hm0 | exact within_trans (by decide +kernel) hw0
      | apply State.retireL2_keeps | apply State.retireDc_keeps | apply Keeps.ite | split | dsimp only
      | apply within_ite

theorem State.waysAtClose_keeps {mP wF : Nat} {r0 : State} (s : State) (hk : Keeps mP wF r0 s) (hm0 : within 0x2099c3f mP) (hw0 : within 0xc1f008400000000000020000000000000000000000000000000000000000000000003000106000000000000000000000000000000000000000 wF) : Keeps mP wF r0 (State.waysAtClose s) := by
  unfold State.waysAtClose; try dsimp only
  with_reducible
    repeat' first
      | intro _ | assumption | exact within_trans (by decide +kernel) hm0 | exact within_trans (by decide +kernel) hw0
      | apply State.updBerm_keeps | apply State.logSec_keeps | apply State.finish_keeps | apply State.wayRetire_keeps
      | apply Keeps.foldl | apply Keeps.foldlFst | apply Keeps.ite | split | dsimp only | apply within_ite

theorem State.stretchDone_keeps {mP wF : Nat} {r0 : State} (s : State) (p : Nat) (hk : Keeps mP wF r0 s) (hm0 : within 0x200 mP) : Keeps mP wF r0 (State.stretchDone s p) := by
  unfold State.stretchDone; try dsimp only
  with_reducible
    repeat' first
      | intro _ | assumption | exact within_trans (by decide +kernel) hm0 | apply State.updCtx_keeps
      | apply State.sendTick_keeps | apply Keeps.foldl | apply Keeps.foldlFst | apply Keeps.ite | split | dsimp only

theorem State.closeGuarded_keeps {mP wF : Nat} {r0 : State} (s : State) (g : Nat) (hk : Keeps mP wF r0 s) (hm0 : within 0x2099e3f mP) (hw0 : within 0xc1f008400000000000020000000000000000000000000000000000000000000000003000106000006000000000000000000000000000000000 wF) : Keeps mP wF r0 (State.closeGuarded s g) := by
  unfold State.closeGuarded; try dsimp only
  with_reducible
    repeat' first
      | intro _ | assumption | exact within_trans (by decide +kernel) hm0 | exact within_trans (by decide +kernel) hw0
      | apply State.updCore_keeps | apply State.updTick_keeps | apply State.tryTake_keeps
      | apply State.waysAtClose_keeps | apply Keeps.ite | split
      | refine Keeps.record ?_ rfl (fun p hp => by cases p <;> first | exact absurd (hp.symm.trans (within_bit hm0 (by decide +kernel))) Bool.false_ne_true | with_unfolding_all exact rfl)
      | dsimp only | apply within_ite

theorem State.closePlain_keeps {mP wF : Nat} {r0 : State} (s : State) (g : Nat) (hk : Keeps mP wF r0 s) (hm0 : within 0x2099e3f mP) (hw0 : within 0xc1f008400000000000020000000000000000000000000000000000000000000000003000106080100000000000000000000000000000000000 wF) : Keeps mP wF r0 (State.closePlain s g) := by
  unfold State.closePlain; try dsimp only
  with_reducible
    repeat' first
      | intro _ | assumption | exact within_trans (by decide +kernel) hm0 | exact within_trans (by decide +kernel) hw0
      | apply State.updCore_keeps | apply State.catchupAt_keeps | apply State.waysAtClose_keeps
      | apply State.stretchDone_keeps | dsimp only

theorem State.tickDone_keeps {mP wF : Nat} {r0 : State} (s : State) (g : Nat) (rd : Option Nat) (hk : Keeps mP wF r0 s) (hm0 : within 0x6099e3f mP) (hw0 : within 0xc1f008400000000000020000000000000000000000000000000000000000000000003000106080100000000000000000000000000000000000 wF) : Keeps mP wF r0 (State.tickDone s g rd) := by
  unfold State.tickDone; try dsimp only
  with_reducible
    repeat' first
      | intro _ | assumption | exact within_trans (by decide +kernel) hm0 | exact within_trans (by decide +kernel) hw0
      | apply State.updCore_keeps | apply State.retire_keeps | apply State.startCommit_keeps
      | apply State.closePlain_keeps | apply Keeps.ite | split | dsimp only | apply within_ite

theorem execTickdone_keeps {mP wF : Nat} {r0 : State} (g : GCore) (w : BitVec 32) (s : State) (hk : Keeps mP wF r0 s) (hm0 : within 0x6099e3f mP) (hw0 : within 0xc1f008400000000000020000000000000000000000000000000000000000000000003000106080100000000000000000000000000000000000 wF) : Keeps.Res mP wF r0 (execTickdone g w s) := by
  unfold execTickdone; try dsimp only
  with_reducible
    repeat' first
      | intro _ | assumption | exact within_trans (by decide +kernel) hm0 | exact within_trans (by decide +kernel) hw0
      | apply State.retire_keeps | apply State.added_keeps | apply State.tickDone_keeps | apply Keeps.next
      | apply Keeps.ite | apply Keeps.iteFst | split | dsimp only | apply within_ite

theorem State.waitTick_keeps {mP wF : Nat} {r0 : State} (s : State) (g : Nat) (rd : Nat) (hk : Keeps mP wF r0 s) (hm0 : within 0x2099e3f mP) (hw0 : within 0xc1f008400000000000020000000000000000000000000000000000000000000000000000100000006000000000000000000000000000000000 wF) : Keeps mP wF r0 (State.waitTick s g rd) := by
  unfold State.waitTick; try dsimp only
  with_reducible
    repeat' first
      | intro _ | assumption | exact within_trans (by decide +kernel) hm0 | exact within_trans (by decide +kernel) hw0
      | apply State.updCore_keeps | apply State.tryTake_keeps
      | refine Keeps.record ?_ rfl (fun p hp => by cases p <;> first | exact absurd (hp.symm.trans (within_bit hm0 (by decide +kernel))) Bool.false_ne_true | with_unfolding_all exact rfl)
      | dsimp only

theorem execTickwait_keeps {mP wF : Nat} {r0 : State} (g : GCore) (w : BitVec 32) (s : State) (hk : Keeps mP wF r0 s) (hm0 : within 0x6099e3f mP) (hw0 : within 0xc1f008400000000000020000000000000000000000000000000000000000000000003000106080106000000000000000000000000000000000 wF) : Keeps.Res mP wF r0 (execTickwait g w s) := by
  unfold execTickwait; try dsimp only
  with_reducible
    repeat' first
      | intro _ | assumption | exact within_trans (by decide +kernel) hm0 | exact within_trans (by decide +kernel) hw0
      | apply State.updCore_keeps | apply State.admitInt_keeps | apply State.retire_keeps | apply State.added_keeps
      | apply State.startCommit_keeps | apply State.closePlain_keeps | apply State.tickDone_keeps
      | apply State.waitTick_keeps | apply Keeps.next | apply Keeps.ite | apply Keeps.iteFst | split | dsimp only
      | apply within_ite

theorem execTickabort_keeps {mP wF : Nat} {r0 : State} (g : GCore) (w : BitVec 32) (s : State) (hk : Keeps mP wF r0 s) (hm0 : within 0x6099e3f mP) (hw0 : within 0xc1f0084000000000000200000000000000000000000000000000000000000000000030001060c41c0000000000000000000000000000000000 wF) : Keeps.Res mP wF r0 (execTickabort g w s) := by
  unfold execTickabort; try dsimp only
  with_reducible
    repeat' first
      | intro _ | assumption | exact within_trans (by decide +kernel) hm0 | exact within_trans (by decide +kernel) hw0
      | apply State.bump_keeps | apply State.updCore_keeps | apply State.retire_keeps | apply State.added_keeps
      | apply State.loadBody_keeps | apply State.freeToken_keeps | apply State.undoTick_keeps
      | apply State.startCommit_keeps | apply State.tickDone_keeps | apply Keeps.next | apply Keeps.ite
      | apply Keeps.iteFst | split | dsimp only | apply within_ite

theorem execDeferLimitExpired_keeps {mP wF : Nat} {r0 : State} (g : GCore) (la : LineAddr) (s : State) (hk : Keeps mP wF r0 s) (hm0 : within 0x2019c3f mP) (hw0 : within 0xc1f0084000000000000200000000000000000000000000000000000000000000000000001000418c0000000000000000000000000000000000 wF) : Keeps.Res mP wF r0 (execDeferLimitExpired g la s) := by
  unfold execDeferLimitExpired; try dsimp only
  with_reducible
    repeat' first
      | intro _ | assumption | exact within_trans (by decide +kernel) hm0 | exact within_trans (by decide +kernel) hw0
      | apply State.abortTick_keeps | apply Keeps.next | apply Keeps.ite | apply Keeps.iteFst | split | dsimp only
      | apply within_ite

theorem State.parkSnoop_keeps {mP wF : Nat} {r0 : State} (s : State) (m : Msg) (older : Bool) (n : Nat) (la : Nat) (hk : Keeps mP wF r0 s) (hm0 : within 0x2019c3f mP) (hw0 : within 0xc1f0084000000000000200000000000000000000000000000000000000000000000000001000418c0000000000000000000000000000000000 wF) : Keeps mP wF r0 (State.parkSnoop s m older n la) := by
  unfold State.parkSnoop; try dsimp only
  with_reducible
    repeat' first
      | intro _ | assumption | exact within_trans (by decide +kernel) hm0 | exact within_trans (by decide +kernel) hw0
      | apply State.updCore_keeps | apply State.countCore_keeps | apply State.abortTick_keeps | apply Keeps.ite
      | split | dsimp only | apply within_ite

theorem State.parkAt_keeps {mP wF : Nat} {r0 : State} (s : State) (g : Nat) (n : Nat) (la : Nat) (hk : Keeps mP wF r0 s) (hm0 : within 0x2019c3f mP) (hw0 : within 0xc1f0084000000000000200000000000000000000000000000000000000000000000000001000418c0000000000000000000000000000000000 wF) : Keeps mP wF r0 (State.parkAt s g n la) := by
  unfold State.parkAt; try dsimp only
  with_reducible
    repeat' first
      | assumption | exact within_trans (by decide +kernel) hm0 | exact within_trans (by decide +kernel) hw0
      | apply State.parkSnoop_keeps

theorem State.lineDefer_keeps {mP wF : Nat} {r0 : State} (s : State) (g : Nat) (la : Nat) (hk : Keeps mP wF r0 s) (hm0 : within 0x2019c3f mP) (hw0 : within 0xc1f0084000000000000200000000000000000000000000000000000000000000000000001000418c0000000000000000000000000000000000 wF) : Keeps mP wF r0 (State.lineDefer s g la) := by
  unfold State.lineDefer; try dsimp only
  with_reducible
    repeat' first
      | intro _ | assumption | exact within_trans (by decide +kernel) hm0 | exact within_trans (by decide +kernel) hw0
      | apply State.parkAt_keeps | split | dsimp only

theorem State.fillDefer_keeps {mP wF : Nat} {r0 : State} (s : State) (g : Nat) (la : Nat) (hk : Keeps mP wF r0 s) (hm0 : within 0x2019c3f mP) (hw0 : within 0xc1f0084000000000000200000000000000000000000000000000000000000000000000001000418c0000000000000000000000000000000000 wF) : Keeps mP wF r0 (State.fillDefer s g la) := by
  unfold State.fillDefer; try dsimp only
  with_reducible
    repeat' first
      | intro _ | assumption | exact within_trans (by decide +kernel) hm0 | exact within_trans (by decide +kernel) hw0
      | apply State.parkAt_keeps | apply Keeps.ite | split | dsimp only | apply within_ite

theorem State.answerParked_keeps {mP wF : Nat} {r0 : State} (s : State) (g : Nat) (hk : Keeps mP wF r0 s) (hm0 : within 0x9401 mP) (hw0 : within 0x8400000000000000000000000000000000000000000000000000000000000000000000000000000000000000000000000000000000000 wF) : Keeps mP wF r0 (State.answerParked s g) := by
  unfold State.answerParked; try dsimp only
  with_reducible
    repeat' first
      | intro _ | assumption | exact within_trans (by decide +kernel) hm0 | exact within_trans (by decide +kernel) hw0
      | apply State.updCore_keeps | apply State.send_keeps | apply Keeps.foldl | apply Keeps.foldlFst | dsimp only

theorem State.cleanCore_keeps {mP wF : Nat} {r0 : State} (s : State) (g : Nat) (hk : Keeps mP wF r0 s) (hm0 : within 0x1940f mP) (hw0 : within 0x8400000000000000000000000000000000000000000000000000000000000000000100000000000000000000000000000000000000000 wF) : Keeps mP wF r0 (State.cleanCore s g) := by
  unfold State.cleanCore; try dsimp only
  with_reducible
    repeat' first
      | intro _ | assumption | exact within_trans (by decide +kernel) hm0 | exact within_trans (by decide +kernel) hw0
      | apply State.recallLine_keeps | apply State.writeLine_keeps | apply State.l2Drop_keeps | apply Keeps.foldl
      | apply Keeps.foldlFst | apply Keeps.ite | split | dsimp only | apply within_ite

theorem State.retireCore_keeps {mP wF : Nat} {r0 : State} (s : State) (g : Nat) (cause : Nat) (who : Nat × Nat) (hk : Keeps mP wF r0 s) (hm0 : within 0x2089c31 mP) (hw0 : within 0xc1f00840000010000002000080000000000000000000000000000000000000000000000000200000000000000000000000000001ffe0000000 wF) : Keeps mP wF r0 (State.retireCore s g cause who) := by
  unfold State.retireCore; try dsimp only
  with_reducible
    repeat' first
      | assumption | exact within_trans (by decide +kernel) hm0 | exact within_trans (by decide +kernel) hw0
      | apply State.put_keeps | apply State.setVote_keeps | apply State.parkCore_keeps | apply State.retired_keeps
      | apply State.answerParked_keeps | apply Keeps.ite | split | dsimp only | apply within_ite | apply bmFld_within

theorem State.setLcpu_keeps {mP wF : Nat} {r0 : State} (s : State) (p : Nat) (l : Nat) (g : Option Nat) (hk : Keeps mP wF r0 s) (hm0 : within 0x80 mP) : Keeps mP wF r0 (State.setLcpu s p l g) := by
  unfold State.setLcpu; try dsimp only
  with_reducible
    repeat' first
      | intro _ | assumption | exact within_trans (by decide +kernel) hm0 | apply State.updPolder_keeps | dsimp only

theorem State.vacate_keeps {mP wF : Nat} {r0 : State} (s : State) (p : Nat) (l : Nat) (d : Nat) (hk : Keeps mP wF r0 s) (hm0 : within 0x2000cb1 mP) (hw0 : within 0xc1f000000000000000020000000000000000000000000000000000000000000000000000000000200000000000000000000000000000000000 wF) : Keeps mP wF r0 (State.vacate s p l d) := by
  unfold State.vacate; try dsimp only
  with_reducible
    repeat' first
      | assumption | exact within_trans (by decide +kernel) hm0 | exact within_trans (by decide +kernel) hw0
      | apply State.bump_keeps | apply State.logDie_keeps | apply State.tickFault_keeps | apply State.setLcpu_keeps

theorem State.detached_keeps {mP wF : Nat} {r0 : State} (s : State) (p : Nat) (l : Nat) (g : Nat) (hk : Keeps mP wF r0 s) (hm0 : within 0x201949f mP) (hw0 : within 0x8400000000000000000000000000000000000000000000000000000000000000000100000200000000000000000000000000000000000 wF) : Keeps mP wF r0 (State.detached s p l g) := by
  unfold State.detached; try dsimp only
  with_reducible
    repeat' first
      | intro _ | assumption | exact within_trans (by decide +kernel) hm0 | exact within_trans (by decide +kernel) hw0
      | apply State.bump_keeps | apply State.updPolder_keeps | apply State.finish_keeps | apply Keeps.foldl
      | apply Keeps.foldlFst | apply Keeps.ite | split | dsimp only | apply within_ite

theorem State.setCursor_keeps {mP wF : Nat} {r0 : State} (s : State) (p : Nat) (l : Nat) (tick : Nat) (n : Nat) (hk : Keeps mP wF r0 s) (hm0 : within 0x200 mP) : Keeps mP wF r0 (State.setCursor s p l tick n) := by
  unfold State.setCursor; try dsimp only
  with_reducible
    repeat' first
      | intro _ | assumption | exact within_trans (by decide +kernel) hm0 | apply State.updTe_keeps | dsimp only

theorem State.settleLines_keeps {mP wF : Nat} {r0 : State} (s : State) (g : Nat) (committed : Bool) (hk : Keeps mP wF r0 s) (hm0 : within 0x201941f mP) (hw0 : within 0x8400000000000000000000000000000000000000000000000000000000000000000100000000000000000000000000000000000000000 wF) : Keeps mP wF r0 (State.settleLines s g committed) := by
  unfold State.settleLines; try dsimp only
  with_reducible
    repeat' first
      | intro _ | assumption | exact within_trans (by decide +kernel) hm0 | exact within_trans (by decide +kernel) hw0
      | apply State.writeLineHalf_keeps | apply State.dropMarked_keeps | apply State.withdrawMirror_keeps
      | apply Keeps.foldl | apply Keeps.foldlFst | apply Keeps.ite | split | dsimp only | apply within_ite

theorem State.assign_keeps {mP wF : Nat} {r0 : State} (s : State) (p : Nat) (l : Nat) (n : Nat) (old : Core) (t : CoreTick) (hk : Keeps mP wF r0 s) (hm0 : within 0x4000481 mP) (hw0 : within 0x10000000000000000000000000000000000000000000000000000000000000000000000000000000000000000001ffe0000000 wF) : Keeps mP wF r0 (State.assign s p l n old t) := by
  unfold State.assign; try dsimp only
  with_reducible
    repeat' first
      | intro _ | assumption | exact within_trans (by decide +kernel) hm0 | exact within_trans (by decide +kernel) hw0
      | apply State.put_keeps | apply State.setVote_keeps | apply State.drawn_keeps | apply State.setCore_keeps
      | apply State.setLcpu_keeps | apply Keeps.foldl | apply Keeps.foldlFst | apply Keeps.ite | split | dsimp only
      | apply within_ite | apply bmFld_within

theorem State.fence_keeps {mP wF : Nat} {r0 : State} (s : State) (g : Nat) (cause : Nat) (src : Nat) (syndrome : Nat) (hk : Keeps mP wF r0 s) (hm0 : within 0x6099cbf mP) (hw0 : within 0xc1f0084000001000000200008000000000000000000000000000000000000000000000001020427c000000000000000000000001ffe0000000 wF) : Keeps mP wF r0 (State.fence s g cause src syndrome) := by
  unfold State.fence; try dsimp only
  with_reducible
    repeat' first
      | intro _ | assumption | exact within_trans (by decide +kernel) hm0 | exact within_trans (by decide +kernel) hw0
      | apply State.put_keeps | apply State.bump_keeps | apply State.updBerm_keeps | apply State.logDie_keeps
      | apply State.migrVoid_keeps | apply State.freeToken_keeps | apply State.dropSamples_keeps
      | apply State.cleanCore_keeps | apply State.retireCore_keeps | apply State.vacate_keeps
      | apply State.detached_keeps | apply State.settleLines_keeps | apply State.assign_keeps
      | apply State.rerun_keeps | apply Keeps.ite | split | dsimp only | apply within_ite

theorem execCoreFaultDetected_keeps {mP wF : Nat} {r0 : State} (g : GCore) (source : FaultSource) (syndrome : Word) (s : State) (hk : Keeps mP wF r0 s) (hm0 : within 0x6099cbf mP) (hw0 : within 0xc1f008400000100000020000800000000000000000000000000000000000000000000000102043fc000000000000000000000001ffe0000000 wF) : Keeps.Res mP wF r0 (execCoreFaultDetected g source syndrome s) := by
  unfold execCoreFaultDetected; try dsimp only
  with_reducible
    repeat' first
      | assumption | exact within_trans (by decide +kernel) hm0 | exact within_trans (by decide +kernel) hw0
      | apply State.put_keeps | apply State.abortTick_keeps | apply State.fence_keeps | apply Keeps.next
      | apply Keeps.ite | apply Keeps.iteFst | split | dsimp only | apply within_ite

theorem execTickOverrun_keeps {mP wF : Nat} {r0 : State} (g : GCore) (s : State) (hk : Keeps mP wF r0 s) (hm0 : within 0x6099ebf mP) (hw0 : within 0xc1f0084000001000000200008000000000000000000000000000000000000000000000001020427c100000000000000000000001ffe0000000 wF) : Keeps.Res mP wF r0 (execTickOverrun g s) := by
  unfold execTickOverrun; try dsimp only
  with_reducible
    repeat' first
      | intro _ | assumption | exact within_trans (by decide +kernel) hm0 | exact within_trans (by decide +kernel) hw0
      | apply State.bump_keeps | apply State.updTick_keeps | apply State.logDie_keeps | apply State.tickFault_keeps
      | apply State.updCtx_keeps | apply State.freeToken_keeps | apply State.undoTick_keeps | apply State.fence_keeps
      | apply Keeps.next | apply Keeps.ite | apply Keeps.iteFst | split | dsimp only | apply within_ite

theorem State.rerun_keeps {mP wF : Nat} {r0 : State} (s : State) (n : Nat) (hk : Keeps mP wF r0 s) (hm0 : within 0x1940f mP) (hw0 : within 0x8400000000000000000000000000000000000000000000000000000000000000000100000000000000000000000000000000000000000 wF) : Keeps mP wF r0 (State.rerun s n) := by
  unfold State.rerun; try dsimp only
  with_reducible
    repeat' first
      | intro _ | assumption | exact within_trans (by decide +kernel) hm0 | exact within_trans (by decide +kernel) hw0
      | apply State.updCore_keeps | apply State.writeBytes_keeps | apply State.takeAgain_keeps | dsimp only

theorem execReplacementReady_keeps {mP wF : Nat} {r0 : State} (p : Pol) (l : Byte) (s : State) (hk : Keeps mP wF r0 s) (hm0 : within 0x2099e3f mP) (hw0 : within 0xc1f008400000000000020000000000000000000000000000000000000000000000000000100000106000000000000000000000000000000000 wF) : Keeps.Res mP wF r0 (execReplacementReady p l s) := by
  unfold execReplacementReady; try dsimp only
  with_reducible
    repeat' first
      | intro _ | assumption | exact within_trans (by decide +kernel) hm0 | exact within_trans (by decide +kernel) hw0
      | apply State.put_keeps | apply State.updCore_keeps | apply State.updTick_keeps | apply State.updBerm_keeps
      | apply State.logDie_keeps | apply State.bermLog_keeps | apply State.loadBody_keeps
      | apply State.migrTaken_keeps | apply State.tryTake_keeps | apply State.rerun_keeps | apply Keeps.next
      | apply Keeps.ite | apply Keeps.iteFst | split | dsimp only | apply within_ite

theorem execSetGdCtl_keeps {mP wF : Nat} {r0 : State} (c : Cmd) (s : State) (hk : Keeps mP wF r0 s) (hm0 : within 0x2019c3f mP) (hw0 : within 0xc1f008400000000000020000000000000000000000000000000000000000000000000000100000030000000000000400000000000000000000 wF) : Keeps.Res mP wF r0 (execSetGdCtl c s) := by
  unfold execSetGdCtl; try dsimp only
  with_reducible
    repeat' first
      | intro _ | assumption | exact within_trans (by decide +kernel) hm0 | exact within_trans (by decide +kernel) hw0
      | apply State.put_keeps | apply State.silence_keeps | apply runCmd_keeps | apply Keeps.next | apply Keeps.ite
      | apply Keeps.iteFst | split | dsimp only | apply within_ite

end Sys2Proof.Machine
end

