-- ==== Sys2Proof/Laws/KeepsTranslation.lean ====
section
/-! SUPPORT. The operations of Machine/Translation.lean keep the memory form, the field widths and the queue. -/

set_option Elab.async false
namespace Sys2Proof.Machine

theorem State.updDir_keeps {mP wF : Nat} {r0 : State} (s : State) (h : Nat) (f : DirHalf → DirHalf) (hk : Keeps mP wF r0 s)
    (hm0 : within 0x10000 mP) : Keeps mP wF r0 (s.updDir h f) :=
  Keeps.record hk rfl fun p hp => by
    cases p <;> first
      | exact rfl
      | exact absurd (hp.symm.trans (within_bit hm0 (by decide +kernel))) Bool.false_ne_true

theorem State.setDirEnt_keeps {mP wF : Nat} {r0 : State} (s : State) (h : Nat) (la : Nat) (e : Option DirEnt) (hk : Keeps mP wF r0 s) (hm0 : within 0x10000 mP) : Keeps mP wF r0 (State.setDirEnt s h la e) := by
  unfold State.setDirEnt; try dsimp only
  with_reducible
    repeat' first
      | intro _ | assumption | exact within_trans (by decide +kernel) hm0 | apply State.updDir_keeps | dsimp only

theorem State.record_keeps {mP wF : Nat} {r0 : State} (s : State) (h : Nat) (la : Nat) (pres : Nat) (m : Bool) (hk : Keeps mP wF r0 s) (hm0 : within 0x10000 mP) : Keeps mP wF r0 (State.record s h la pres m) := by
  unfold State.record; try dsimp only
  with_reducible
    repeat' first
      | assumption | exact within_trans (by decide +kernel) hm0 | apply State.setDirEnt_keeps | apply Keeps.ite
      | split | dsimp only

theorem State.recordPush_keeps {mP wF : Nat} {r0 : State} (s : State) (h : Nat) (la : Nat) (pres : Nat) (old : Option Nat) (hk : Keeps mP wF r0 s) (hm0 : within 0x4010000 mP) : Keeps mP wF r0 (State.recordPush s h la pres old) := by
  unfold State.recordPush; try dsimp only
  with_reducible
    repeat' first
      | assumption | exact within_trans (by decide +kernel) hm0 | apply State.drawn_keeps
      | apply State.setDirEnt_keeps | apply State.record_keeps | split | dsimp only

theorem State.dirRoom_keeps {mP wF : Nat} {r0 : State} (s : State) (g : Nat) (h : Nat) (la : Nat) (hk : Keeps mP wF r0 s) (hm0 : within 0x4019407 mP) (hw0 : within 0x8400000000000000000000000000000000000000000000000000000000004000000100000000000000000000000000000000000000000 wF) : Keeps.Opt mP wF r0 (State.dirRoom s g h la) := by
  unfold State.dirRoom; try dsimp only
  with_reducible
    repeat' first
      | assumption | exact within_trans (by decide +kernel) hm0 | exact within_trans (by decide +kernel) hw0
      | apply State.bump_keeps | apply State.drawn_keeps | apply State.recallLine_keeps | apply Keeps.optNone
      | apply Keeps.optSome | apply Keeps.ite | apply Keeps.iteFst | apply Keeps.iteOpt | split | dsimp only
      | apply within_ite

theorem State.ownLine_keeps {mP wF : Nat} {r0 : State} (s : State) (g : Nat) (la : Nat) (l : CLine) (hk : Keeps mP wF r0 s) (hm0 : within 0x4019407 mP) (hw0 : within 0x8400000000000000000000000000000000000000000000000000000000000000020100000000000000000000000000000000000000000 wF) : Keeps.Opt mP wF r0 (State.ownLine s g la l) := by
  unfold State.ownLine; try dsimp only
  with_reducible
    repeat' first
      | intro _ | assumption | exact within_trans (by decide +kernel) hm0 | exact within_trans (by decide +kernel) hw0
      | apply State.updCore_keeps | apply State.recallLine_keeps | apply State.setL2_keeps | apply State.dcFill_keeps
      | apply State.record_keeps | apply Keeps.optNone | apply Keeps.optSome | exact Keeps.optNone
      | apply Keeps.optSome | refine Keeps.opt ?_ (by assumption) | apply Keeps.map | dsimp only

theorem State.bring_keeps {mP wF : Nat} {r0 : State} (s : State) (g : Nat) (la : Nat) (own : Bool) (way : Option Nat) (hk : Keeps mP wF r0 s) (hm0 : within 0x4019407 mP) (hw0 : within 0x8400000000000000000000000000000000000000000000000000000000004000020100000000000000000000000000000000000000000 wF) : Keeps.Opt mP wF r0 (State.bring s g la own way) := by
  unfold State.bring; try dsimp only
  with_reducible
    repeat' first
      | intro _ | assumption | exact within_trans (by decide +kernel) hm0 | exact within_trans (by decide +kernel) hw0
      | apply State.mapCores_keeps | apply State.cleanLine_keeps | apply State.recallLine_keeps
      | apply State.l2Fill_keeps | apply State.record_keeps | apply State.dirRoom_keeps | apply State.ownLine_keeps
      | apply Keeps.optNone | apply Keeps.optSome | apply Keeps.ite | apply Keeps.iteFst | apply Keeps.iteOpt
      | exact Keeps.optNone | apply Keeps.optSome | refine Keeps.opt ?_ (by assumption) | exact Keeps.optNone
      | apply Keeps.optSome | exact Keeps.optNone | apply Keeps.optSome | split | dsimp only | apply within_ite

theorem State.tlbPut_keeps {mP wF : Nat} {r0 : State} (s : State) (g : Nat) (e : TlbEnt) (hk : Keeps mP wF r0 s) (hm0 : within 0x4000400 mP) : Keeps mP wF r0 (State.tlbPut s g e) := by
  unfold State.tlbPut; try dsimp only
  with_reducible
    repeat' first
      | intro _ | assumption | exact within_trans (by decide +kernel) hm0 | apply State.drawn_keeps
      | apply State.updCore_keeps | apply Keeps.ite | split | dsimp only

theorem State.fetchLines_keeps {mP wF : Nat} {r0 : State} (s : State) (g : Nat) (y0 : List Nat) (hk : Keeps mP wF r0 s) (hm0 : within 0x4019407 mP) (hw0 : within 0x8400000000000000000000000000000000000000000000000000000000004000020100000000000000000000000000000000000000000 wF) : Keeps mP wF r0 (State.fetchLines s g y0).1 := by
  induction y0 generalizing s g with
  | nil =>
    unfold State.fetchLines; try dsimp only
    with_reducible
      repeat' first
        | assumption | exact within_trans (by decide +kernel) hm0 | exact within_trans (by decide +kernel) hw0
        | apply State.bring_keeps | apply Keeps.ite | apply Keeps.iteFst | apply Keeps.iteOpt | exact Keeps.optNone
        | apply Keeps.optSome | refine Keeps.opt ?_ (by assumption) | refine Keeps.fst ?_ (by assumption) | split
        | dsimp only | apply within_ite
  | cons x l ih =>
    unfold State.fetchLines; try dsimp only
    with_reducible
      repeat' first
        | assumption | exact within_trans (by decide +kernel) hm0 | exact within_trans (by decide +kernel) hw0
        | apply State.bring_keeps | apply Keeps.ite | apply Keeps.iteFst | apply Keeps.iteOpt | exact Keeps.optNone
        | apply Keeps.optSome | refine Keeps.opt ?_ (by assumption) | apply ih | refine Keeps.fst ?_ (by assumption)
        | split | dsimp only | apply within_ite

theorem State.l2Write_keeps {mP wF : Nat} {r0 : State} (s : State) (g : Nat) (la : Nat) (data : Line) (mask : BitVec 64) (hk : Keeps mP wF r0 s) (hm0 : within 0x400 mP) : Keeps mP wF r0 (State.l2Write s g la data mask) := by
  unfold State.l2Write; try dsimp only
  with_reducible
    repeat' first
      | intro _ | assumption | exact within_trans (by decide +kernel) hm0 | apply State.updCore_keeps
      | apply State.countCore_keeps | apply State.setL2_keeps | apply Keeps.ite | split | dsimp only

theorem State.adSet_keeps {mP wF : Nat} {r0 : State} (s : State) (g : Nat) (l : Leaf) (d : Bool) (hk : Keeps mP wF r0 s) (hm0 : within 0x6019c3f mP) (hw0 : within 0xc1f0084000000000000200000000000000000000000000000000000000000000040000201000598c0000000000000400000000000000000000 wF) : Keeps.Ad mP wF r0 (State.adSet s g l d) := by
  unfold State.adSet; try dsimp only
  with_reducible
    repeat' first
      | intro _ | assumption | exact within_trans (by decide +kernel) hm0 | exact within_trans (by decide +kernel) hw0
      | apply State.writeBytes_keeps | apply State.refuse_keeps | apply State.guardOverflow_keeps
      | apply State.lineDefer_keeps | apply State.fillDefer_keeps | apply State.bring_keeps
      | apply State.l2Write_keeps | apply Keeps.adMade | apply Keeps.adRefused | apply Keeps.adDiffers
      | apply Keeps.adWait | apply Keeps.ite | apply Keeps.iteFst | apply Keeps.iteOpt | exact Keeps.optNone
      | apply Keeps.optSome | refine Keeps.opt ?_ (by assumption) | split | dsimp only | apply within_ite

theorem State.adAll_keeps {mP wF : Nat} {r0 : State} (s : State) (g : Nat) (y0 : List (Leaf × Bool)) (hk : Keeps mP wF r0 s) (hm0 : within 0x6019c3f mP) (hw0 : within 0xc1f0084000000000000200000000000000000000000000000000000000000000040000201000598c0000000000000400000000000000000000 wF) : Keeps.Ad mP wF r0 (State.adAll s g y0) := by
  induction y0 generalizing s g with
  | nil =>
    unfold State.adAll; try dsimp only
    with_reducible
      repeat' first
        | assumption | exact within_trans (by decide +kernel) hm0 | exact within_trans (by decide +kernel) hw0
        | apply State.adSet_keeps | apply Keeps.adMade | apply Keeps.adRefused | apply Keeps.adDiffers
        | apply Keeps.adWait | refine Keeps.adGetMade ?_ (by assumption)
        | refine Keeps.adGetRefused ?_ (by assumption) | refine Keeps.adGetDiffers ?_ (by assumption)
        | refine Keeps.adGetWait ?_ (by assumption) | refine Keeps.fst ?_ (by assumption) | split | dsimp only
  | cons x l ih =>
    unfold State.adAll; try dsimp only
    with_reducible
      repeat' first
        | assumption | exact within_trans (by decide +kernel) hm0 | exact within_trans (by decide +kernel) hw0
        | apply State.adSet_keeps | apply Keeps.adMade | apply Keeps.adRefused | apply Keeps.adDiffers
        | apply Keeps.adWait | refine Keeps.adGetMade ?_ (by assumption)
        | refine Keeps.adGetRefused ?_ (by assumption) | refine Keeps.adGetDiffers ?_ (by assumption)
        | refine Keeps.adGetWait ?_ (by assumption) | apply ih | refine Keeps.fst ?_ (by assumption) | split
        | dsimp only

theorem State.tlbFill_keeps {mP wF : Nat} {r0 : State} (s : State) (g : Nat) (va : Nat) (pa : Nat) (acc : AccKind) (dev : Bool) (d : Bool) (l1 : Option Leaf) (l2 : Option Leaf) (t : Trace) (all : List (Leaf × Bool)) (hk : Keeps mP wF r0 s) (hm0 : within 0x4000400 mP) : Keeps mP wF r0 (State.tlbFill s g va pa acc dev d l1 l2 t all) := by
  unfold State.tlbFill; try dsimp only
  with_reducible
    repeat' first
      | intro _ | assumption | exact within_trans (by decide +kernel) hm0 | apply State.tlbPut_keeps
      | apply Keeps.foldl | apply Keeps.foldlFst | split | dsimp only

theorem State.walkFault_keeps {mP wF : Nat} {r0 : State} (s : State) (g : Nat) (va : Nat) (acc : AccKind) (f : WFault) (hk : Keeps mP wF r0 s) (hm0 : within 0x400 mP) : Keeps mP wF r0 (State.walkFault s g va acc f) := by
  unfold State.walkFault; try dsimp only
  with_reducible
    repeat' first
      | intro _ | assumption | exact within_trans (by decide +kernel) hm0 | apply State.updCore_keeps
      | apply State.syncExc_keeps | apply Keeps.ite | split | dsimp only

theorem State.keyFault_keeps {mP wF : Nat} {r0 : State} (s : State) (g : Nat) (va : Nat) (k : Nat) (acc : AccKind) (hk : Keeps mP wF r0 s) (hm0 : within 0x400 mP) : Keeps mP wF r0 (State.keyFault s g va k acc) := by
  unfold State.keyFault; try dsimp only
  with_reducible
    repeat' first
      | assumption | exact within_trans (by decide +kernel) hm0 | apply State.syncExc_keeps

theorem State.walkRecord_keeps {mP wF : Nat} {r0 : State} (s : State) (g : Nat) (f : WFault) (hk : Keeps mP wF r0 s) (hm0 : within 0x2000831 mP) (hw0 : within 0xc1f000000000000000020000000000000000000000000000000000000000000000000000000000000000000000000400000000000000000000 wF) : Keeps mP wF r0 (State.walkRecord s g f) := by
  unfold State.walkRecord; try dsimp only
  with_reducible
    repeat' first
      | assumption | exact within_trans (by decide +kernel) hm0 | exact within_trans (by decide +kernel) hw0
      | apply State.logDie_keeps | apply State.refuse_keeps | apply Keeps.ite | split | dsimp only | apply within_ite

theorem State.walkFill_keeps {mP wF : Nat} {r0 : State} (s : State) (g : Nat) (va : Nat) (acc : AccKind) (setD : Bool) (y0 : Nat)
    (y1 : Bool) (hk : Keeps mP wF r0 s) (hm0 : within 0x6019c3f mP) (hw0 : within 0xc1f0084000000000000200000000000000000000000000000000000000000000040000201000598c0000000000000400000000000000000000 wF) :
    Keeps.Tx mP wF r0 (State.walkFill s g va acc setD y0 y1) := by
  induction y0 generalizing s y1 with
  | zero => exact Keeps.txWait hk
  | succ n ih =>
    unfold State.walkFill
    repeat' first
      | with_reducible assumption
      | with_reducible exact within_trans (by decide +kernel) hm0
      | with_reducible exact within_trans (by decide +kernel) hw0
      | with_reducible apply ih
      | with_reducible apply State.tlbFill_keeps
      | with_reducible apply State.fetchLines_keeps
      | with_reducible apply State.lineDefer_keeps
      | with_reducible apply State.fillDefer_keeps
      | with_reducible apply State.walkRecord_keeps
      | with_reducible apply State.countCore_keeps
      | with_reducible apply State.adAll_keeps
      | with_reducible apply Keeps.txOk
      | with_reducible apply Keeps.txFault
      | with_reducible apply Keeps.txKey
      | with_reducible apply Keeps.txWait
      | with_reducible refine Keeps.fst ?_ (by with_reducible assumption)
      | with_reducible refine Keeps.adGetMade ?_ (by with_reducible assumption)
      | with_reducible refine Keeps.adGetRefused ?_ (by with_reducible assumption)
      | with_reducible refine Keeps.adGetDiffers ?_ (by with_reducible assumption)
      | with_reducible refine Keeps.adGetWait ?_ (by with_reducible assumption)
      | split
      | dsimp only

theorem State.tlbDrop_keeps {mP wF : Nat} {r0 : State} (s : State) (g : Nat) (va : Nat) (hk : Keeps mP wF r0 s) (hm0 : within 0x400 mP) : Keeps mP wF r0 (State.tlbDrop s g va) := by
  unfold State.tlbDrop; try dsimp only
  with_reducible
    repeat' first
      | intro _ | assumption | exact within_trans (by decide +kernel) hm0 | apply State.updCore_keeps | dsimp only

theorem State.useEntry_keeps {mP wF : Nat} {r0 : State} (s : State) (g : Nat) (va : Nat) (acc : AccKind) (setD : Bool) (e : TlbEnt) (hk : Keeps mP wF r0 s) (hm0 : within 0x4000400 mP) : Keeps.OptTx mP wF r0 (State.useEntry s g va acc setD e) := by
  unfold State.useEntry; try dsimp only
  with_reducible
    repeat' first
      | assumption | exact within_trans (by decide +kernel) hm0 | apply State.tlbPut_keeps | apply Keeps.optTxNone
      | apply Keeps.optTxSome | apply Keeps.txOk | apply Keeps.txKey | apply Keeps.txFault | apply Keeps.ite
      | apply Keeps.iteFst | split | dsimp only

theorem State.tlbLook_keeps {mP wF : Nat} {r0 : State} (s : State) (g : Nat) (va : Nat) (acc : AccKind) (hk : Keeps mP wF r0 s) (hm0 : within 0x400 mP) : Keeps mP wF r0 (State.tlbLook s g va acc).1 := by
  unfold State.tlbLook; try dsimp only
  with_reducible
    repeat' first
      | intro _ | assumption | exact within_trans (by decide +kernel) hm0 | apply State.countCore_keeps
      | apply Keeps.ite | apply Keeps.iteFst | split | dsimp only

theorem State.xlate_keeps {mP wF : Nat} {r0 : State} (s : State) (g : Nat) (va : Nat) (acc : AccKind) (setD : Bool) (hk : Keeps mP wF r0 s) (hm0 : within 0x6019c3f mP) (hw0 : within 0xc1f0084000000000000200000000000000000000000000000000000000000000040000201000598c0000000000000400000000000000000000 wF) : Keeps.Tx mP wF r0 (State.xlate s g va acc setD) := by
  unfold State.xlate; try dsimp only
  with_reducible
    repeat' first
      | assumption | exact within_trans (by decide +kernel) hm0 | exact within_trans (by decide +kernel) hw0
      | apply State.walkFill_keeps | apply State.tlbDrop_keeps | apply State.useEntry_keeps
      | apply State.tlbLook_keeps | apply Keeps.txOk | apply Keeps.txFault | apply Keeps.txKey | apply Keeps.txWait
      | apply Keeps.ite | apply Keeps.iteFst | apply Keeps.iteOpt | refine Keeps.txGetOk ?_ (by assumption)
      | refine Keeps.txGetFault ?_ (by assumption) | refine Keeps.txGetKey ?_ (by assumption)
      | refine Keeps.txGetWait ?_ (by assumption) | refine Keeps.optTxGet ?_ (by assumption)
      | refine Keeps.fst ?_ (by assumption) | split | dsimp only | apply within_ite

theorem State.translate_keeps {mP wF : Nat} {r0 : State} (s : State) (g : Nat) (va : Nat) (acc : AccKind) (setD : Bool) (hk : Keeps mP wF r0 s) (hm0 : within 0x6019c3f mP) (hw0 : within 0xc1f0084000000000000200000000000000000000000000000000000000000000040000201000598c0000000000000400000000000000000000 wF) : Keeps.Tr mP wF r0 (State.translate s g va acc setD) := by
  unfold State.translate; try dsimp only
  with_reducible
    repeat' first
      | assumption | exact within_trans (by decide +kernel) hm0 | exact within_trans (by decide +kernel) hw0
      | apply State.walkFault_keeps | apply State.keyFault_keeps | apply State.xlate_keeps | apply Keeps.trOk
      | apply Keeps.trExc | apply Keeps.trWait | refine Keeps.txGetOk ?_ (by assumption)
      | refine Keeps.txGetFault ?_ (by assumption) | refine Keeps.txGetKey ?_ (by assumption)
      | refine Keeps.txGetWait ?_ (by assumption) | split | dsimp only

theorem State.probe_keeps {mP wF : Nat} {r0 : State} (s : State) (g : Nat) (va : Nat) (acc : AccKind) (hk : Keeps mP wF r0 s) (hm0 : within 0x6019c3f mP) (hw0 : within 0xc1f0084000000000000200000000000000000000000000000000000000000000040000201000598c0000000000000400000000000000000000 wF) : Keeps.Tr mP wF r0 (State.probe s g va acc) := by
  unfold State.probe; try dsimp only
  with_reducible
    repeat' first
      | assumption | exact within_trans (by decide +kernel) hm0 | exact within_trans (by decide +kernel) hw0
      | apply State.xlate_keeps | apply Keeps.trOk | apply Keeps.trExc | apply Keeps.trWait
      | refine Keeps.txGetOk ?_ (by assumption) | refine Keeps.txGetFault ?_ (by assumption)
      | refine Keeps.txGetKey ?_ (by assumption) | refine Keeps.txGetWait ?_ (by assumption) | split | dsimp only

theorem State.specXlate_keeps {mP wF : Nat} {r0 : State} (s : State) (g va : Nat) (acc : AccKind) (hk : Keeps mP wF r0 s)
    (hm0 : within 0x4019407 mP) (hw0 : within 0x8400000000000000000000000000000000000000000000000000000000004000020100000000000000000000000000000000000000000 wF) : Keeps mP wF r0 (State.specXlate s g va acc).1 := by
  unfold State.specXlate
  extract_lets miss
  have hm : ∀ t, Keeps mP wF r0 t → Keeps mP wF r0 (miss t).1 := by
    intro t ht
    simp only [miss]
    repeat' first
      | with_reducible assumption
      | with_reducible exact within_trans (by decide +kernel) hm0
      | with_reducible exact within_trans (by decide +kernel) hw0
      | with_reducible apply State.tlbFill_keeps
      | with_reducible apply State.fetchLines_keeps
      | with_reducible refine Keeps.fst ?_ (by with_reducible assumption)
      | with_reducible apply Keeps.iteFst
      | split
      | dsimp only
  clear_value miss
  repeat' first
    | with_reducible assumption
    | with_reducible exact within_trans (by decide +kernel) hm0
    | with_reducible exact within_trans (by decide +kernel) hw0
    | with_reducible apply hm
    | with_reducible apply State.tlbLook_keeps
    | with_reducible apply State.useEntry_keeps
    | with_reducible refine Keeps.fst ?_ (by with_reducible assumption)
    | with_reducible refine Keeps.optTxOk ?_ (by with_reducible assumption)
    | with_reducible apply Keeps.iteFst
    | split
    | dsimp only

theorem State.tlbKill_keeps {mP wF : Nat} {r0 : State} (s : State) (g : Nat) (r : Regime) (i : TlbInv) (hk : Keeps mP wF r0 s) (hm0 : within 0x400 mP) : Keeps mP wF r0 (State.tlbKill s g r i).1 := by
  unfold State.tlbKill; try dsimp only
  with_reducible
    repeat' first
      | intro _ | assumption | exact within_trans (by decide +kernel) hm0 | apply State.updCore_keeps | dsimp only

theorem execTlbi_keeps {mP wF : Nat} {r0 : State} (g : GCore) (w : BitVec 32) (s : State) (hk : Keeps mP wF r0 s) (hm0 : within 0x4000400 mP) : Keeps.Res mP wF r0 (execTlbi g w s) := by
  unfold execTlbi; try dsimp only
  with_reducible
    repeat' first
      | intro _ | assumption | exact within_trans (by decide +kernel) hm0 | apply State.updCore_keeps
      | apply State.retire_keeps | apply State.added_keeps | apply State.tlbKill_keeps | apply Keeps.next
      | apply Keeps.ite | apply Keeps.iteFst | refine Keeps.fst ?_ (by assumption) | split | dsimp only

theorem execTlbiBroadcast_keeps {mP wF : Nat} {r0 : State} (g : GCore) (inv : TlbInv) (s : State) (hk : Keeps mP wF r0 s) (hm0 : within 0x400 mP) : Keeps.Res mP wF r0 (execTlbiBroadcast g inv s) := by
  unfold execTlbiBroadcast; try dsimp only
  with_reducible
    repeat' first
      | intro _ | assumption | exact within_trans (by decide +kernel) hm0 | apply State.updCore_keeps
      | apply State.tlbKill_keeps | apply Keeps.next | apply Keeps.ite | apply Keeps.iteFst
      | refine Keeps.fst ?_ (by assumption) | split | dsimp only

theorem execTlbsync_keeps {mP wF : Nat} {r0 : State} (g : GCore) (w : BitVec 32) (s : State) (hk : Keeps mP wF r0 s) (hm0 : within 0x4000400 mP) : Keeps.Res mP wF r0 (execTlbsync g w s) := by
  unfold execTlbsync; try dsimp only
  with_reducible
    repeat' first
      | intro _ | assumption | exact within_trans (by decide +kernel) hm0 | apply State.updCore_keeps
      | apply State.retire_keeps | apply State.addedIf_keeps | apply Keeps.next | apply Keeps.ite | apply Keeps.iteFst
      | split | dsimp only

theorem execTranslationRegWrite_keeps {mP wF : Nat} {r0 : State} (g : GCore) (n : BitVec 12) (rs : Fin 32) (s : State) (hk : Keeps mP wF r0 s) (hm0 : within 0x4000400 mP) : Keeps.Res mP wF r0 (execTranslationRegWrite g n rs s) := by
  unfold execTranslationRegWrite; try dsimp only
  with_reducible
    repeat' first
      | intro _ | assumption | exact within_trans (by decide +kernel) hm0 | apply State.updCore_keeps
      | apply State.retire_keeps | apply State.instr_keeps | apply State.sysAccess_keeps | apply Keeps.next
      | apply Keeps.ite | apply Keeps.iteFst | apply Keeps.iteOpt | exact Keeps.optNone | apply Keeps.optSome
      | refine Keeps.opt ?_ (by assumption) | split | dsimp only

end Sys2Proof.Machine
end

