-- ==== Sys2Proof/Laws/KeepsMaint.lean ====
section
/-! SUPPORT. The operations of Machine/Maint.lean keep the memory form, the field widths and the queue. -/

set_option Elab.async false
namespace Sys2Proof.Machine

theorem State.l2Clean_keeps {mP wF : Nat} {r0 : State} (s : State) (g : Nat) (la : Nat) (hk : Keeps mP wF r0 s) (hm0 : within 0x9401 mP) (hw0 : within 0x8400000000000000000000000000000000000000000000000000000000000000000000000000000000000000000000000000000000000 wF) : Keeps mP wF r0 (State.l2Clean s g la) := by
  unfold State.l2Clean; try dsimp only
  with_reducible
    repeat' first
      | assumption | exact within_trans (by decide +kernel) hm0 | exact within_trans (by decide +kernel) hw0
      | apply State.setL2_keeps | apply State.writeback_keeps | apply Keeps.ite | split | dsimp only
      | apply within_ite

theorem State.dieDrop_keeps {mP wF : Nat} {r0 : State} (s : State) (d : Nat) (la : Nat) (hk : Keeps mP wF r0 s) (hm0 : within 0x9401 mP) (hw0 : within 0x8400000000000000000000000000000000000000000000000000000000000000000100000000000000000000000000000000000000000 wF) : Keeps mP wF r0 (State.dieDrop s d la) := by
  unfold State.dieDrop; try dsimp only
  with_reducible
    repeat' first
      | intro _ | assumption | exact within_trans (by decide +kernel) hm0 | exact within_trans (by decide +kernel) hw0
      | apply State.l2Inval_keeps | apply State.dropDc_keeps | apply State.evictClean_keeps | apply Keeps.foldl
      | apply Keeps.foldlFst | apply Keeps.ite | split | dsimp only | apply within_ite

theorem State.cmDo_keeps {mP wF : Nat} {r0 : State} (s : State) (g : Nat) (la : Nat) (op : Nat) (scope : Nat) (hk : Keeps mP wF r0 s) (hm0 : within 0x9401 mP) (hw0 : within 0x8400000000000000000000000000000000000000000000000000000000000000000100000000000000000000000000000000000000000 wF) : Keeps.Opt mP wF r0 (State.cmDo s g la op scope) := by
  unfold State.cmDo; try dsimp only
  with_reducible
    repeat' first
      | intro _ | assumption | exact within_trans (by decide +kernel) hm0 | exact within_trans (by decide +kernel) hw0
      | apply State.l2Inval_keeps | apply State.dieEvict_keeps | apply State.dieClean_keeps
      | apply State.l2Clean_keeps | apply State.dieDrop_keeps | apply Keeps.optNone | apply Keeps.optSome
      | apply Keeps.foldl | apply Keeps.foldlFst | apply Keeps.ite | apply Keeps.iteFst | apply Keeps.iteOpt | split
      | dsimp only | apply within_ite

theorem State.cmTry_keeps {mP wF : Nat} {r0 : State} (s : State) (g : Nat) (la : Nat) (op : Nat) (scope : Nat) (hk : Keeps mP wF r0 s) (hm0 : within 0x2019c3f mP) (hw0 : within 0xc1f0084000000000000200000000000000000000000000000000000000000000000000001000418c0000000000000000000000000000000000 wF) : Keeps mP wF r0 (State.cmTry s g la op scope) := by
  unfold State.cmTry; try dsimp only
  with_reducible
    repeat' first
      | intro _ | assumption | exact within_trans (by decide +kernel) hm0 | exact within_trans (by decide +kernel) hw0
      | apply State.updCore_keeps | apply State.lineDefer_keeps | apply State.cmDo_keeps | exact Keeps.optNone
      | apply Keeps.optSome | refine Keeps.opt ?_ (by assumption) | split | dsimp only

theorem State.cmRetry_keeps {mP wF : Nat} {r0 : State} (s : State) (g : Nat) (hk : Keeps mP wF r0 s) (hm0 : within 0x2019c3f mP) (hw0 : within 0xc1f0084000000000000200000000000000000000000000000000000000000000000000001000418c0000000000000000000000000000000000 wF) : Keeps mP wF r0 (State.cmRetry s g) := by
  unfold State.cmRetry; try dsimp only
  with_reducible
    repeat' first
      | intro _ | assumption | exact within_trans (by decide +kernel) hm0 | exact within_trans (by decide +kernel) hw0
      | apply State.updCore_keeps | apply State.cmTry_keeps | apply Keeps.foldl | apply Keeps.foldlFst | dsimp only

theorem State.coreRefused_keeps {mP wF : Nat} {r0 : State} (s : State) (g : Nat) (pa : Nat) (write : Bool) (hk : Keeps mP wF r0 s) (hm0 : within 0x2000831 mP) (hw0 : within 0xc1f000000000000000020000000000000000000000000000000000000000000000000000000000000000000000000400000000000000000000 wF) : Keeps.Opt mP wF r0 (State.coreRefused s g pa write) := by
  unfold State.coreRefused; try dsimp only
  with_reducible
    repeat' first
      | assumption | exact within_trans (by decide +kernel) hm0 | exact within_trans (by decide +kernel) hw0
      | apply State.refuse_keeps | apply Keeps.optNone | apply Keeps.optSome | split | dsimp only

theorem execCma_keeps {mP wF : Nat} {r0 : State} (g : GCore) (w : BitVec 32) (s : State) (hk : Keeps mP wF r0 s) (hm0 : within 0x6019c3f mP) (hw0 : within 0xc1f0084000000000000200000000000000000000000000000000000000000000040000201000798c0000000000000400000000000000000000 wF) : Keeps.Res mP wF r0 (execCma g w s) := by
  unfold execCma; try dsimp only
  with_reducible
    repeat' first
      | intro _ | assumption | exact within_trans (by decide +kernel) hm0 | exact within_trans (by decide +kernel) hw0
      | apply State.retire_keeps | apply State.guardViolation_keeps | apply State.added_keeps
      | apply State.translate_keeps | apply State.cmTry_keeps | apply State.coreRefused_keeps | apply Keeps.next
      | apply Keeps.ite | apply Keeps.iteFst | apply Keeps.iteOpt | refine Keeps.trGetOk ?_ (by assumption)
      | refine Keeps.trGetExc ?_ (by assumption) | refine Keeps.trGetWait ?_ (by assumption) | exact Keeps.optNone
      | apply Keeps.optSome | refine Keeps.opt ?_ (by assumption) | split | dsimp only | apply within_ite

theorem execCmsw_keeps {mP wF : Nat} {r0 : State} (g : GCore) (w : BitVec 32) (s : State) (hk : Keeps mP wF r0 s) (hm0 : within 0x6019c3f mP) (hw0 : within 0xc1f0084000000000000200000000000000000000000000000000000000000000000000001000618c0000000000000000000000000000000000 wF) : Keeps.Res mP wF r0 (execCmsw g w s) := by
  unfold execCmsw; try dsimp only
  with_reducible
    repeat' first
      | intro _ | assumption | exact within_trans (by decide +kernel) hm0 | exact within_trans (by decide +kernel) hw0
      | apply State.updCore_keeps | apply State.retire_keeps | apply State.guardViolation_keeps
      | apply State.added_keeps | apply State.cmTry_keeps | apply Keeps.next | apply Keeps.ite | apply Keeps.iteFst
      | split | dsimp only | apply within_ite

theorem execDcMaintDone_keeps {mP wF : Nat} {r0 : State} (d : Die) (s : State) (hk : Keeps mP wF r0 s) (hm0 : within 0x2019c3f mP) (hw0 : within 0xc1f0084000000000000200000000000000000000000000000000000000000000000008001000418c0000000000000000000000000000000000 wF) : Keeps.Res mP wF r0 (execDcMaintDone d s) := by
  unfold execDcMaintDone; try dsimp only
  with_reducible
    repeat' first
      | intro _ | assumption | exact within_trans (by decide +kernel) hm0 | exact within_trans (by decide +kernel) hw0
      | apply State.setFlag_keeps | apply State.dieEvict_keeps | apply State.dieClean_keeps
      | apply State.parkSnoop_keeps | apply Keeps.next | apply Keeps.ite | apply Keeps.iteFst | split | dsimp only
      | apply within_ite

theorem State.lockWay_keeps {mP wF : Nat} {r0 : State} (s : State) (g : Nat) (la : Nat) (w : Nat) (hk : Keeps mP wF r0 s) (hm0 : within 0x9401 mP) (hw0 : within 0x8400000000000000000000000000000000000000000000000000000000000000000100000000000000000000000000000000000000000 wF) : Keeps.Opt mP wF r0 (State.lockWay s g la w) := by
  unfold State.lockWay; try dsimp only
  with_reducible
    repeat' first
      | intro _ | assumption | exact within_trans (by decide +kernel) hm0 | exact within_trans (by decide +kernel) hw0
      | apply State.l2Evict_keeps | apply Keeps.optNone | apply Keeps.optSome | apply Keeps.ite | apply Keeps.iteFst
      | apply Keeps.iteOpt | split | dsimp only | apply within_ite

theorem State.lockLine_keeps {mP wF : Nat} {r0 : State} (s : State) (g : Nat) (la : Nat) (w : Nat) (hk : Keeps mP wF r0 s) (hm0 : within 0x4019407 mP) (hw0 : within 0x8400000000000000000000000000000000000000000000000000000000004000020100000000000000000000000000000000000000000 wF) : Keeps.Opt mP wF r0 (State.lockLine s g la w) := by
  unfold State.lockLine; try dsimp only
  with_reducible
    repeat' first
      | assumption | exact within_trans (by decide +kernel) hm0 | exact within_trans (by decide +kernel) hw0
      | apply State.setL2_keeps | apply State.l2FromDc_keeps | apply State.bring_keeps | apply Keeps.optNone
      | apply Keeps.optSome | exact Keeps.optNone | apply Keeps.optSome | refine Keeps.opt ?_ (by assumption)
      | exact Keeps.optNone | apply Keeps.optSome | split | dsimp only

theorem State.lockNext_keeps {mP wF : Nat} {r0 : State} (s : State) (g : Nat) (f : LockFill) (hk : Keeps mP wF r0 s) (hm0 : within 0x6019c3f mP) (hw0 : within 0xc1f0084000000000000200000000000000000000000000000000000000000000040000201000598c0000000000000400000000000000000000 wF) : Keeps.Lock mP wF r0 (State.lockNext s g f) := by
  unfold State.lockNext; try dsimp only
  with_reducible
    repeat' first
      | assumption | exact within_trans (by decide +kernel) hm0 | exact within_trans (by decide +kernel) hw0
      | apply State.lineDefer_keeps | apply State.fillDefer_keeps | apply State.probe_keeps
      | apply State.coreRefused_keeps | apply State.lockWay_keeps | apply State.lockLine_keeps
      | apply Keeps.lockPlaced | apply Keeps.lockEnds | apply Keeps.lockWait | apply Keeps.ite | apply Keeps.iteFst
      | apply Keeps.iteOpt | refine Keeps.trGetOk ?_ (by assumption) | refine Keeps.trGetExc ?_ (by assumption)
      | refine Keeps.trGetWait ?_ (by assumption) | exact Keeps.optNone | apply Keeps.optSome
      | refine Keeps.opt ?_ (by assumption) | exact Keeps.optNone | apply Keeps.optSome | exact Keeps.optNone
      | apply Keeps.optSome | split | dsimp only | apply within_ite

theorem State.lockDone_keeps {mP wF : Nat} {r0 : State} (s : State) (g : Nat) (rd : Nat) (n : Nat) (st : Nat) (hk : Keeps mP wF r0 s) (hm0 : within 0x4000400 mP) : Keeps mP wF r0 (State.lockDone s g rd n st) := by
  unfold State.lockDone; try dsimp only
  with_reducible
    repeat' first
      | intro _ | assumption | exact within_trans (by decide +kernel) hm0 | apply State.updCore_keeps
      | apply State.retire_keeps | dsimp only

theorem State.lockStep_keeps {mP wF : Nat} {r0 : State} (s : State) (g : Nat) (rd : Nat) (f : LockFill) (hk : Keeps mP wF r0 s) (hm0 : within 0x6019c3f mP) (hw0 : within 0xc1f0084000000000000200000000000000000000000000000000000000000000040000201020598c0000000000000400000000000000000000 wF) : Keeps mP wF r0 (State.lockStep s g rd f) := by
  unfold State.lockStep; try dsimp only
  with_reducible
    repeat' first
      | intro _ | assumption | exact within_trans (by decide +kernel) hm0 | exact within_trans (by decide +kernel) hw0
      | apply State.put_keeps | apply State.updCore_keeps | apply State.lockNext_keeps | apply State.lockDone_keeps
      | apply Keeps.ite | refine Keeps.lockGet ?_ (by assumption) | refine Keeps.lockGetEnds ?_ (by assumption)
      | refine Keeps.lockGetWait ?_ (by assumption) | split | dsimp only | apply within_ite

theorem execWlock_keeps {mP wF : Nat} {r0 : State} (g : GCore) (w : BitVec 32) (s : State) (hk : Keeps mP wF r0 s) (hm0 : within 0x6019c3f mP) (hw0 : within 0xc1f0084000000000000200000000000000000000000000000000000000000000040000201020598c0000000000000400000000000000000000 wF) : Keeps.Res mP wF r0 (execWlock g w s) := by
  unfold execWlock; try dsimp only
  with_reducible
    repeat' first
      | intro _ | assumption | exact within_trans (by decide +kernel) hm0 | exact within_trans (by decide +kernel) hw0
      | apply State.updCore_keeps | apply State.addedIf_keeps | apply State.lockDone_keeps
      | apply State.lockStep_keeps | apply Keeps.next | apply Keeps.ite | apply Keeps.iteFst | split | dsimp only
      | apply within_ite

theorem execWunlock_keeps {mP wF : Nat} {r0 : State} (g : GCore) (w : BitVec 32) (s : State) (hk : Keeps mP wF r0 s) (hm0 : within 0x6000c31 mP) (hw0 : within 0xc1f000000000000000020000000000000000000000000000000000000000000000000000002020000000000000000000000000000000000000 wF) : Keeps.Res mP wF r0 (execWunlock g w s) := by
  unfold execWunlock; try dsimp only
  with_reducible
    repeat' first
      | intro _ | assumption | exact within_trans (by decide +kernel) hm0 | exact within_trans (by decide +kernel) hw0
      | apply State.put_keeps | apply State.retire_keeps | apply State.guardViolation_keeps | apply State.added_keeps
      | apply Keeps.next | apply Keeps.ite | apply Keeps.iteFst | split | dsimp only | apply within_ite

theorem execWlquery_keeps {mP wF : Nat} {r0 : State} (g : GCore) (w : BitVec 32) (s : State) (hk : Keeps mP wF r0 s) (hm0 : within 0x4000400 mP) : Keeps.Res mP wF r0 (execWlquery g w s) := by
  unfold execWlquery; try dsimp only
  with_reducible
    repeat' first
      | intro _ | assumption | exact within_trans (by decide +kernel) hm0 | apply State.updCore_keeps
      | apply State.retire_keeps | apply State.added_keeps | apply Keeps.next | dsimp only

theorem State.placeDrop_keeps {mP wF : Nat} {r0 : State} (s : State) (g : Nat) (hk : Keeps mP wF r0 s) (hm0 : within 0x4000400 mP) : Keeps mP wF r0 (State.placeDrop s g) := by
  unfold State.placeDrop; try dsimp only
  with_reducible
    repeat' first
      | assumption | exact within_trans (by decide +kernel) hm0 | apply State.countCore_keeps
      | apply State.retire_keeps

theorem execPlace_keeps {mP wF : Nat} {r0 : State} (g : GCore) (w : BitVec 32) (s : State) (hk : Keeps mP wF r0 s) (hm0 : within 0x6019c3f mP) (hw0 : within 0xc1f0084000000000000200000000000000000000000000000000000000000000040000201000598c0000000000000400000000000000000000 wF) : Keeps.Res mP wF r0 (execPlace g w s) := by
  unfold execPlace; try dsimp only
  with_reducible
    repeat' first
      | intro _ | assumption | exact within_trans (by decide +kernel) hm0 | exact within_trans (by decide +kernel) hw0
      | apply State.updCore_keeps | apply State.countCore_keeps | apply State.retire_keeps | apply State.added_keeps
      | apply State.send_keeps | apply State.setL2_keeps | apply State.writeback_keeps | apply State.probe_keeps
      | apply State.coreRefused_keeps | apply State.placeDrop_keeps | apply Keeps.next | apply Keeps.ite
      | apply Keeps.iteFst | apply Keeps.iteOpt | refine Keeps.trGetOk ?_ (by assumption)
      | refine Keeps.trGetExc ?_ (by assumption) | refine Keeps.trGetWait ?_ (by assumption) | exact Keeps.optNone
      | apply Keeps.optSome | refine Keeps.opt ?_ (by assumption) | split | dsimp only | apply within_ite

theorem State.closeMb_keeps {mP wF : Nat} {r0 : State} (s : State) (g : Nat) (hk : Keeps mP wF r0 s) (hm0 : within 0x400 mP) : Keeps mP wF r0 (State.closeMb s g) := by
  unfold State.closeMb; try dsimp only
  with_reducible
    repeat' first
      | intro _ | assumption | exact within_trans (by decide +kernel) hm0 | apply State.updCore_keeps | dsimp only

theorem State.fenceWord_keeps {mP wF : Nat} {r0 : State} (s : State) (g : Nat) (sub : Nat) (w : BitVec 32) (f : State → State) (hk : Keeps mP wF r0 s) (hf : ∀ x0, Keeps mP wF r0 x0 → Keeps mP wF r0 (f x0)) (hm0 : within 0x400 mP) : Keeps mP wF r0 (State.fenceWord s g sub w f) := by
  unfold State.fenceWord; try dsimp only
  with_reducible
    repeat' first
      | assumption | exact within_trans (by decide +kernel) hm0 | apply State.addedIf_keeps | apply hf
      | refine Keeps.fst ?_ (by assumption)

theorem execFenceMb_keeps {mP wF : Nat} {r0 : State} (g : GCore) (w : BitVec 32) (s : State) (hk : Keeps mP wF r0 s) (hm0 : within 0x4000400 mP) : Keeps.Res mP wF r0 (execFenceMb g w s) := by
  unfold execFenceMb; try dsimp only
  with_reducible
    repeat' first
      | intro _ | assumption | exact within_trans (by decide +kernel) hm0 | apply State.retire_keeps
      | apply State.closeMb_keeps | apply State.fenceWord_keeps | apply Keeps.next | apply Keeps.ite
      | apply Keeps.iteFst | split | dsimp only

theorem execFenceDev_keeps {mP wF : Nat} {r0 : State} (g : GCore) (w : BitVec 32) (s : State) (hk : Keeps mP wF r0 s) (hm0 : within 0x4000400 mP) : Keeps.Res mP wF r0 (execFenceDev g w s) := by
  unfold execFenceDev; try dsimp only
  with_reducible
    repeat' first
      | intro _ | assumption | exact within_trans (by decide +kernel) hm0 | apply State.retire_keeps
      | apply State.fenceWord_keeps | apply Keeps.next | dsimp only

theorem execFencePlc_keeps {mP wF : Nat} {r0 : State} (g : GCore) (w : BitVec 32) (s : State) (hk : Keeps mP wF r0 s) (hm0 : within 0x4000400 mP) : Keeps.Res mP wF r0 (execFencePlc g w s) := by
  unfold execFencePlc; try dsimp only
  with_reducible
    repeat' first
      | intro _ | assumption | exact within_trans (by decide +kernel) hm0 | apply State.retire_keeps
      | apply State.fenceWord_keeps | apply Keeps.next | apply Keeps.ite | apply Keeps.iteFst | split | dsimp only

theorem execFenceCm_keeps {mP wF : Nat} {r0 : State} (g : GCore) (w : BitVec 32) (s : State) (hk : Keeps mP wF r0 s) (hm0 : within 0x6019c3f mP) (hw0 : within 0xc1f0084000000000000200000000000000000000000000000000000000000000000000001000418c0000000000000000000000000000000000 wF) : Keeps.Res mP wF r0 (execFenceCm g w s) := by
  unfold execFenceCm; try dsimp only
  with_reducible
    repeat' first
      | intro _ | assumption | exact within_trans (by decide +kernel) hm0 | exact within_trans (by decide +kernel) hw0
      | apply State.retire_keeps | apply State.cmRetry_keeps | apply State.fenceWord_keeps | apply Keeps.next
      | apply Keeps.ite | apply Keeps.iteFst | split | dsimp only | apply within_ite

theorem execFenceI_keeps {mP wF : Nat} {r0 : State} (g : GCore) (w : BitVec 32) (s : State) (hk : Keeps mP wF r0 s) (hm0 : within 0x4000400 mP) : Keeps.Res mP wF r0 (execFenceI g w s) := by
  unfold execFenceI; try dsimp only
  with_reducible
    repeat' first
      | intro _ | assumption | exact within_trans (by decide +kernel) hm0 | apply State.updCore_keeps
      | apply State.retire_keeps | apply State.closeMb_keeps | apply State.fenceWord_keeps | apply Keeps.next
      | apply Keeps.ite | apply Keeps.iteFst | split | dsimp only

theorem execMbEntryTimeout_keeps {mP wF : Nat} {r0 : State} (g : GCore) (la : LineAddr) (s : State) (hk : Keeps mP wF r0 s) (hm0 : within 0x400 mP) : Keeps.Res mP wF r0 (execMbEntryTimeout g la s) := by
  unfold execMbEntryTimeout; try dsimp only
  with_reducible
    repeat' first
      | intro _ | assumption | exact within_trans (by decide +kernel) hm0 | apply State.updCore_keeps
      | apply Keeps.next | apply Keeps.ite | apply Keeps.iteFst | split | dsimp only

theorem State.mbPop_keeps {mP wF : Nat} {r0 : State} (s : State) (g : Nat) (hk : Keeps mP wF r0 s) (hm0 : within 0x400 mP) : Keeps mP wF r0 (State.mbPop s g) := by
  unfold State.mbPop; try dsimp only
  with_reducible
    repeat' first
      | intro _ | assumption | exact within_trans (by decide +kernel) hm0 | apply State.updCore_keeps | dsimp only

theorem State.drainInto_keeps {mP wF : Nat} {r0 : State} (s : State) (g : Nat) (e : MbEnt) (hk : Keeps mP wF r0 s) (hm0 : within 0x2019c3f mP) (hw0 : within 0xc1f008400000000000020000000000000000000000000000000000000000000000000000100018000000000000000000000000000000000000 wF) : Keeps mP wF r0 (State.drainInto s g e) := by
  unfold State.drainInto; try dsimp only
  with_reducible
    repeat' first
      | intro _ | assumption | exact within_trans (by decide +kernel) hm0 | exact within_trans (by decide +kernel) hw0
      | apply State.updCore_keeps | apply State.commitAdvance_keeps | apply State.guardOverflow_keeps
      | apply State.l2Write_keeps | apply State.mbPop_keeps | apply Keeps.ite | split | dsimp only | apply within_ite

theorem State.mbDrain_keeps {mP wF : Nat} {r0 : State} (s : State) (g : Nat) (hk : Keeps mP wF r0 s) (hm0 : within 0x2019c3f mP) (hw0 : within 0xc1f008400000000000020000000000000000000000000000000000000000000000000000100018000000000000000000000000000000000000 wF) : Keeps mP wF r0 (State.mbDrain s g) := by
  unfold State.mbDrain; try dsimp only
  with_reducible
    repeat' first
      | intro _ | assumption | exact within_trans (by decide +kernel) hm0 | exact within_trans (by decide +kernel) hw0
      | apply State.updCore_keeps | apply State.send_keeps | apply State.startMiss_keeps | apply State.drainInto_keeps
      | apply Keeps.ite | split | dsimp only | apply within_ite

end Sys2Proof.Machine
end

