-- ==== Sys2Proof/Laws/KeepsPredictor.lean ====
section
/-! SUPPORT. The operations of Machine/Predictor.lean keep the memory form, the field widths and the queue. -/

set_option Elab.async false
namespace Sys2Proof.Machine

theorem State.predictOne_keeps {mP wF : Nat} {r0 : State} (s : State) (g : Nat) (b : Word × BranchKind) (hk : Keeps mP wF r0 s) (hm0 : within 0x2819c3f mP) (hw0 : within 0xc1f0084000000000000200000000067000005e0000000000000000000000000701000000100000000000000000000000000000000000000000 wF) : Keeps mP wF r0 (State.predictOne s g b) := by
  unfold State.predictOne; try dsimp only
  with_reducible
    repeat' first
      | intro _ | assumption | exact within_trans (by decide +kernel) hm0 | exact within_trans (by decide +kernel) hw0
      | apply State.updCore_keeps | apply State.countCore_keeps | apply State.follow_keeps | apply Keeps.ite | split
      | dsimp only | apply within_ite

theorem State.specAccess_keeps {mP wF : Nat} {r0 : State} (s : State) (g : Nat) (va : Nat) (fetch : Bool) (hk : Keeps mP wF r0 s) (hm0 : within 0x6019c37 mP) (hw0 : within 0xc1f008400000000000020000000000000000000000000000000000000000000004000020100000000000000000000400000000000000000000 wF) : Keeps mP wF r0 (State.specAccess s g va fetch) := by
  unfold State.specAccess; try dsimp only
  with_reducible
    repeat' first
      | assumption | exact within_trans (by decide +kernel) hm0 | exact within_trans (by decide +kernel) hw0
      | apply State.countCore_keeps | apply State.l1Fill_keeps | apply State.l1iFill_keeps | apply State.bring_keeps
      | apply State.specXlate_keeps | apply State.coreRefused_keeps | apply Keeps.ite | apply Keeps.iteOpt
      | exact Keeps.optNone | apply Keeps.optSome | refine Keeps.opt ?_ (by assumption)
      | refine Keeps.fst ?_ (by assumption) | exact Keeps.optNone | apply Keeps.optSome | split | dsimp only
      | apply within_ite

theorem State.resolve_keeps {mP wF : Nat} {r0 : State} (s : State) (g : Nat) (b : Flight) (rest : List Flight) (taken : Bool) (target : Word) (wrong : List (Bool × Word)) (hk : Keeps mP wF r0 s) (hm0 : within 0x7819c3f mP) (hw0 : within 0x41f8c1f0084000000180000200000000067000005e0000000000000000000000000705000020100000000000000000000400000000000001000000 wF) : Keeps mP wF r0 (State.resolve s g b rest taken target wrong) := by
  unfold State.resolve; try dsimp only
  with_reducible
    repeat' first
      | intro _ | assumption | exact within_trans (by decide +kernel) hm0 | exact within_trans (by decide +kernel) hw0
      | apply State.drawn_keeps | apply State.updCore_keeps | apply State.countCore_keeps | apply State.retireTo_keeps
      | apply State.specAccess_keeps | apply State.follow_keeps | apply State.train_keeps | apply Keeps.foldl
      | apply Keeps.foldlFst | apply Keeps.ite | split | dsimp only | apply within_ite

theorem execBranchMispredict_keeps {mP wF : Nat} {r0 : State} (g : GCore) (ahead : List (Word × BranchKind)) (taken : Bool) (target : Word) (wrong : List (Bool × Word)) (s : State) (hk : Keeps mP wF r0 s) (hm0 : within 0x7819c3f mP) (hw0 : within 0x41f8c1f0084000000180000200000000067000005e0000000000000000000000000705000020100000000000000000000400000000000001000000 wF) : Keeps.Res mP wF r0 (execBranchMispredict g ahead taken target wrong s) := by
  unfold execBranchMispredict; try dsimp only
  with_reducible
    repeat' first
      | intro _ | assumption | exact within_trans (by decide +kernel) hm0 | exact within_trans (by decide +kernel) hw0
      | apply State.updCore_keeps | apply State.predictOne_keeps | apply State.resolve_keeps | apply Keeps.next
      | apply Keeps.foldl | apply Keeps.foldlFst | apply Keeps.ite | apply Keeps.iteFst | split | dsimp only
      | apply within_ite

end Sys2Proof.Machine
end

