-- ==== Sys2Proof/Laws/KeepsMemory.lean ====
section
/-! SUPPORT. The operations of Machine/Memory.lean keep the memory form, the field widths and the queue. -/

set_option Elab.async false
namespace Sys2Proof.Machine

theorem State.updMc_keeps {mP wF : Nat} {r0 : State} (s : State) (ch : Nat) (f : Mc → Mc) (hk : Keeps mP wF r0 s)
    (hm0 : within 0x40000 mP) : Keeps mP wF r0 (s.updMc ch f) :=
  Keeps.record hk rfl fun p hp => by
    cases p <;> first
      | exact rfl
      | exact absurd (hp.symm.trans (within_bit hm0 (by decide +kernel))) Bool.false_ne_true

theorem State.updSub_keeps {mP wF : Nat} {r0 : State} (s : State) (ch : Nat) (sc : Nat) (f : McSub → McSub) (hk : Keeps mP wF r0 s) (hm0 : within 0x40000 mP) : Keeps mP wF r0 (State.updSub s ch sc f) := by
  unfold State.updSub; try dsimp only
  with_reducible
    repeat' first
      | intro _ | assumption | exact within_trans (by decide +kernel) hm0 | apply State.updMc_keeps | dsimp only

theorem State.stopPolder_keeps {mP wF : Nat} {r0 : State} (s : State) (p : Nat) (why : Nat) (hk : Keeps mP wF r0 s) (hm0 : within 0x2000cb1 mP) (hw0 : within 0xc1f000000000000000020000000000000000000000000000000000000000000000000000000000000400000000000000000000000000000000 wF) : Keeps mP wF r0 (State.stopPolder s p why) := by
  unfold State.stopPolder; try dsimp only
  with_reducible
    repeat' first
      | intro _ | assumption | exact within_trans (by decide +kernel) hm0 | exact within_trans (by decide +kernel) hw0
      | apply State.put_keeps | apply State.updPolder_keeps | apply State.logPol_keeps | apply State.tickFault_keeps
      | apply Keeps.ite | split | dsimp only | apply within_ite

theorem State.stopPolders_keeps {mP wF : Nat} {r0 : State} (s : State) (why : Nat) (hk : Keeps mP wF r0 s) (hm0 : within 0x2000cb1 mP) (hw0 : within 0xc1f000000000000000020000000000000000000000000000000000000000000000000000000000000400000000000000000000000000000000 wF) : Keeps mP wF r0 (State.stopPolders s why) := by
  unfold State.stopPolders; try dsimp only
  with_reducible
    repeat' first
      | intro _ | assumption | exact within_trans (by decide +kernel) hm0 | exact within_trans (by decide +kernel) hw0
      | apply State.stopPolder_keeps | apply Keeps.foldl | apply Keeps.foldlFst | apply Keeps.ite | split | dsimp only
      | apply within_ite

theorem State.mcAnswer_keeps {mP wF : Nat} {r0 : State} (s : State) (h : Nat) (ch : Nat) (m : Msg) (data : Line) (poison : Bool) (hk : Keeps mP wF r0 s) (hm0 : within 0x9001 mP) (hw0 : within 0x80000000000008400000000000000000000000000000000000000000000000000000000000000000000000000000000000000000000000000000000000 wF) : Keeps mP wF r0 (State.mcAnswer s h ch m data poison) := by
  unfold State.mcAnswer; try dsimp only
  with_reducible
    repeat' first
      | assumption | exact within_trans (by decide +kernel) hm0 | exact within_trans (by decide +kernel) hw0
      | apply State.bump_keeps | apply State.send_keeps | apply Keeps.ite | split | dsimp only | apply within_ite

theorem State.mcServe_keeps {mP wF : Nat} {r0 : State} (s : State) (h : Nat) (ch : Nat) (m : Msg) (hk : Keeps mP wF r0 s) (hm0 : within 0x9001 mP) (hw0 : within 0x80000000000008400000000000000000000000000000000000000000000000000000000000000000000000000000000000000000000000000000000000 wF) : Keeps mP wF r0 (State.mcServe s h ch m) := by
  unfold State.mcServe; try dsimp only
  with_reducible
    repeat' first
      | assumption | exact within_trans (by decide +kernel) hm0 | exact within_trans (by decide +kernel) hw0
      | apply State.countHub_keeps | apply State.mcAnswer_keeps

theorem State.mcRedirect_keeps {mP wF : Nat} {r0 : State} (s : State) (h : Nat) (ch : Nat) (m : Msg) (hk : Keeps mP wF r0 s) (hm0 : within 0x9001 mP) (hw0 : within 0x8400000000000000000000000000000000000000000000000000000000000000000000000000000000000000000000000000000000000 wF) : Keeps mP wF r0 (State.mcRedirect s h ch m) := by
  unfold State.mcRedirect; try dsimp only
  with_reducible
    repeat' first
      | assumption | exact within_trans (by decide +kernel) hm0 | exact within_trans (by decide +kernel) hw0
      | apply State.countHub_keeps | apply State.send_keeps

theorem State.beyondLog_keeps {mP wF : Nat} {r0 : State} (s : State) (h : Nat) (ch : Nat) (m : Msg) (hk : Keeps mP wF r0 s) (hm0 : within 0x2000831 mP) (hw0 : within 0xc1f000000000000000020000000000000000000000000000000000000000000000000000000000000000000000000000000000000000000000 wF) : Keeps mP wF r0 (State.beyondLog s h ch m) := by
  unfold State.beyondLog; try dsimp only
  with_reducible
    repeat' first
      | assumption | exact within_trans (by decide +kernel) hm0 | exact within_trans (by decide +kernel) hw0
      | apply State.logSec_keeps

theorem State.mcTakeRead_keeps {mP wF : Nat} {r0 : State} (s : State) (h : Nat) (ch : Nat) (m : Msg) (redir : Bool) (hk : Keeps mP wF r0 s) (hm0 : within 0x49001 mP) (hw0 : within 0x80000000000008400000000000000000000000000000000000000000000000000000000000000000000000000000000000000000000000000000000000 wF) : Keeps mP wF r0 (State.mcTakeRead s h ch m redir) := by
  unfold State.mcTakeRead; try dsimp only
  with_reducible
    repeat' first
      | intro _ | assumption | exact within_trans (by decide +kernel) hm0 | exact within_trans (by decide +kernel) hw0
      | apply State.updSub_keeps | apply State.mcAnswer_keeps | apply State.mcServe_keeps | apply Keeps.ite | split
      | dsimp only | apply within_ite

theorem State.mcRead_keeps {mP wF : Nat} {r0 : State} (s : State) (h : Nat) (ch : Nat) (m : Msg) (hk : Keeps mP wF r0 s) (hm0 : within 0x2049831 mP) (hw0 : within 0x80000000c1f008400000000000020000000000000000000000000000000000000000000000000000000000000000000000000000000000000000000000 wF) : Keeps mP wF r0 (State.mcRead s h ch m) := by
  unfold State.mcRead; try dsimp only
  with_reducible
    repeat' first
      | assumption | exact within_trans (by decide +kernel) hm0 | exact within_trans (by decide +kernel) hw0
      | apply State.mcAnswer_keeps | apply State.mcRedirect_keeps | apply State.beyondLog_keeps
      | apply State.mcTakeRead_keeps | apply Keeps.ite | split | dsimp only | apply within_ite

theorem State.mcQueue_keeps {mP wF : Nat} {r0 : State} (s : State) (h : Nat) (ch : Nat) (la : Nat) (m : Msg) (hk : Keeps mP wF r0 s) (hm0 : within 0x49401 mP) (hw0 : within 0x8400000000000000000000000000000000000000000000000000000000000000000000000000000000000000000000000000000000000 wF) : Keeps mP wF r0 (State.mcQueue s h ch la m) := by
  unfold State.mcQueue; try dsimp only
  with_reducible
    repeat' first
      | intro _ | assumption | exact within_trans (by decide +kernel) hm0 | exact within_trans (by decide +kernel) hw0
      | apply State.writeback_keeps | apply State.updSub_keeps | dsimp only

theorem State.mcStore_keeps {mP wF : Nat} {r0 : State} (s : State) (h : Nat) (ch : Nat) (la : Nat) (data : Line) (poison : Bool) (m : Msg) (hk : Keeps mP wF r0 s) (hm0 : within 0x49407 mP) (hw0 : within 0x8400000000000000000000000000000000000000000000000000000000000000000000000000000000000000000000000000000000000 wF) : Keeps mP wF r0 (State.mcStore s h ch la data poison m) := by
  unfold State.mcStore; try dsimp only
  with_reducible
    repeat' first
      | assumption | exact within_trans (by decide +kernel) hm0 | exact within_trans (by decide +kernel) hw0
      | apply State.writeLineHalf_keeps | apply State.setPoison_keeps | apply State.mcQueue_keeps

theorem State.mcAccept_keeps {mP wF : Nat} {r0 : State} (s : State) (h : Nat) (ch : Nat) (la : Nat) (data : Line) (poison : Bool) (m : Msg) (ans : List Msg) (hk : Keeps mP wF r0 s) (hm0 : within 0x49407 mP) (hw0 : within 0x8400000000000000000000000000000000000000000000000000000000000000000000000000000000000000000000000000000000000 wF) : Keeps mP wF r0 (State.mcAccept s h ch la data poison m ans) := by
  unfold State.mcAccept; try dsimp only
  with_reducible
    repeat' first
      | intro _ | assumption | exact within_trans (by decide +kernel) hm0 | exact within_trans (by decide +kernel) hw0
      | apply State.send_keeps | apply State.writeback_keeps | apply State.updMc_keeps | apply State.mcStore_keeps
      | apply Keeps.foldl | apply Keeps.foldlFst | apply Keeps.ite | split | dsimp only | apply within_ite

theorem State.mcWrite_keeps {mP wF : Nat} {r0 : State} (s : State) (h : Nat) (ch : Nat) (m : Msg) (hk : Keeps mP wF r0 s) (hm0 : within 0x2049c37 mP) (hw0 : within 0xc1f008400000000000020000000000000000000000000000000000000000000000000000000000000000000000000000000000000000000000 wF) : Keeps mP wF r0 (State.mcWrite s h ch m) := by
  unfold State.mcWrite; try dsimp only
  with_reducible
    repeat' first
      | assumption | exact within_trans (by decide +kernel) hm0 | exact within_trans (by decide +kernel) hw0
      | apply State.send_keeps | apply State.beyondLog_keeps | apply State.mcAccept_keeps | apply Keeps.ite | split
      | dsimp only | apply within_ite

theorem State.mcWriteback_keeps {mP wF : Nat} {r0 : State} (s : State) (h : Nat) (ch : Nat) (m : Msg) (hk : Keeps mP wF r0 s) (hm0 : within 0x2049c37 mP) (hw0 : within 0xc1f008400000000000020000000000000000000000000000000000000000000000000000000000000000000000000000000000000000000000 wF) : Keeps mP wF r0 (State.mcWriteback s h ch m) := by
  unfold State.mcWriteback; try dsimp only
  with_reducible
    repeat' first
      | assumption | exact within_trans (by decide +kernel) hm0 | exact within_trans (by decide +kernel) hw0
      | apply State.send_keeps | apply State.beyondLog_keeps | apply State.mcStore_keeps | apply State.mcAccept_keeps
      | apply Keeps.ite | split | dsimp only | apply within_ite

theorem State.mcMirDone_keeps {mP wF : Nat} {r0 : State} (s : State) (h : Nat) (ch : Nat) (m : Msg) (hk : Keeps mP wF r0 s) (hm0 : within 0x49001 mP) (hw0 : within 0x8400000000000000000000000000000000000000000000000000000000000000000000000000000000000000000000000000000000000 wF) : Keeps mP wF r0 (State.mcMirDone s h ch m) := by
  unfold State.mcMirDone; try dsimp only
  with_reducible
    repeat' first
      | intro _ | assumption | exact within_trans (by decide +kernel) hm0 | exact within_trans (by decide +kernel) hw0
      | apply State.send_keeps | apply State.updMc_keeps | apply Keeps.foldl | apply Keeps.foldlFst | split
      | dsimp only

theorem State.dramCmd_keeps {mP wF : Nat} {r0 : State} (s : State) (ch : Nat) (sc : Nat) (kind : Nat) (arg : Nat) (hk : Keeps mP wF r0 s) (hm0 : within 0x2000000 mP) : Keeps mP wF r0 (State.dramCmd s ch sc kind arg) := by
  unfold State.dramCmd; try dsimp only
  with_reducible
    repeat' first
      | assumption | exact within_trans (by decide +kernel) hm0 | apply State.emit_keeps

theorem State.refsb_keeps {mP wF : Nat} {r0 : State} (s : State) (ch : Nat) (sc : Nat) (k : Nat) (hk : Keeps mP wF r0 s) (hm0 : within 0x2040001 mP) (hw0 : within 0x400000000000000000000000000000000000000000000000000000000000000000000000000000000000000000000000000000000000 wF) : Keeps mP wF r0 (State.refsb s ch sc k) := by
  unfold State.refsb; try dsimp only
  with_reducible
    repeat' first
      | intro _ | assumption | exact within_trans (by decide +kernel) hm0 | exact within_trans (by decide +kernel) hw0
      | apply State.countHub_keeps | apply State.updSub_keeps | apply State.dramCmd_keeps | dsimp only

theorem State.wantRepair_keeps {mP wF : Nat} {r0 : State} (s : State) (ch : Nat) (r : RowId) (hk : Keeps mP wF r0 s) (hm0 : within 0x40000 mP) : Keeps mP wF r0 (State.wantRepair s ch r) := by
  unfold State.wantRepair; try dsimp only
  with_reducible
    repeat' first
      | intro _ | assumption | exact within_trans (by decide +kernel) hm0 | apply State.updMc_keeps | apply Keeps.ite
      | split | dsimp only

theorem State.rowError_keeps {mP wF : Nat} {r0 : State} (s : State) (ch : Nat) (r : RowId) (hk : Keeps mP wF r0 s) (hm0 : within 0x40001 mP) (hw0 : within 0x10000000000000000000000000000000000000000000000000000000000000000000000000000000000000000000000000000000000000000000000000 wF) : Keeps mP wF r0 (State.rowError s ch r) := by
  unfold State.rowError; try dsimp only
  with_reducible
    repeat' first
      | intro _ | assumption | exact within_trans (by decide +kernel) hm0 | exact within_trans (by decide +kernel) hw0
      | apply State.bump_keeps | apply State.updMc_keeps | apply State.wantRepair_keeps | apply Keeps.ite | split
      | dsimp only | apply within_ite

theorem State.mcIssue_keeps {mP wF : Nat} {r0 : State} (s : State) (ch : Nat) (sc : Nat) (w : Bool) (c : Cand) (corrected : Bool) (hk : Keeps mP wF r0 s) (hm0 : within 0x2049001 mP) (hw0 : within 0x90000000000008400000000000000000000000000000000000000000000000000000000000000000000000000000000000000000000000000000000000 wF) : Keeps mP wF r0 (State.mcIssue s ch sc w c corrected) := by
  unfold State.mcIssue; try dsimp only
  with_reducible
    repeat' first
      | intro _ | assumption | exact within_trans (by decide +kernel) hm0 | exact within_trans (by decide +kernel) hw0
      | apply State.countHub_keeps | apply State.updSub_keeps | apply State.mcServe_keeps | apply State.dramCmd_keeps
      | apply State.rowError_keeps | apply Keeps.ite | split | dsimp only | apply within_ite

theorem State.startPause_keeps {mP wF : Nat} {r0 : State} (s : State) (ch : Nat) (sc : Nat) (hk : Keeps mP wF r0 s) (hm0 : within 0x40000 mP) : Keeps mP wF r0 (State.startPause s ch sc) := by
  unfold State.startPause; try dsimp only
  with_reducible
    repeat' first
      | intro _ | assumption | exact within_trans (by decide +kernel) hm0 | apply State.updSub_keeps | dsimp only

theorem State.idlePause_keeps {mP wF : Nat} {r0 : State} (s : State) (ch : Nat) (sc : Nat) (hk : Keeps mP wF r0 s) (hm0 : within 0x40001 mP) (hw0 : within 0x2000000000000000000000000000000000000000000000000000000000000000000000000000000000000000000000000000000000000000000000000 wF) : Keeps.Opt mP wF r0 (State.idlePause s ch sc) := by
  unfold State.idlePause; try dsimp only
  with_reducible
    repeat' first
      | assumption | exact within_trans (by decide +kernel) hm0 | exact within_trans (by decide +kernel) hw0
      | apply State.bump_keeps | apply State.startPause_keeps | apply Keeps.optNone | apply Keeps.optSome
      | apply Keeps.ite | apply Keeps.iteFst | apply Keeps.iteOpt | split | dsimp only | apply within_ite

theorem execMcCommandSlot_keeps {mP wF : Nat} {r0 : State} (ch : Fin 16) (sc : Fin 2) (corrected : Bool) (s : State) (hk : Keeps mP wF r0 s) (hm0 : within 0x2049001 mP) (hw0 : within 0x93000000000008400000000000000000000000000000000000000000000000000000000000000000000000000000000000000000000000000000000000 wF) : Keeps.Res mP wF r0 (execMcCommandSlot ch sc corrected s) := by
  unfold execMcCommandSlot; try dsimp only
  with_reducible
    repeat' first
      | intro _ | assumption | exact within_trans (by decide +kernel) hm0 | exact within_trans (by decide +kernel) hw0
      | apply State.bump_keeps | apply State.updSub_keeps | apply State.refsb_keeps | apply State.mcIssue_keeps
      | apply State.startPause_keeps | apply State.idlePause_keeps | apply Keeps.next | apply Keeps.ite
      | apply Keeps.iteFst | apply Keeps.iteOpt | exact Keeps.optNone | apply Keeps.optSome
      | refine Keeps.opt ?_ (by assumption) | split | dsimp only | apply within_ite

theorem execPageIdleClose_keeps {mP wF : Nat} {r0 : State} (ch : Fin 16) (sc : Fin 2) (bank : BankId) (s : State) (hk : Keeps mP wF r0 s) (hm0 : within 0x2040000 mP) : Keeps.Res mP wF r0 (execPageIdleClose ch sc bank s) := by
  unfold execPageIdleClose; try dsimp only
  with_reducible
    repeat' first
      | intro _ | assumption | exact within_trans (by decide +kernel) hm0 | apply State.updSub_keeps
      | apply State.dramCmd_keeps | apply Keeps.next | apply Keeps.ite | apply Keeps.iteFst | split | dsimp only

theorem execUrgencyRise_keeps {mP wF : Nat} {r0 : State} (ch : Fin 16) (sc : Fin 2) (txid : BitVec 12) (s : State) (hk : Keeps mP wF r0 s) (hm0 : within 0x40001 mP) (hw0 : within 0x400000000000000000000000000000000000000000000000000000000000000000000000000000000000000000000000000000000000 wF) : Keeps.Res mP wF r0 (execUrgencyRise ch sc txid s) := by
  unfold execUrgencyRise; try dsimp only
  with_reducible
    repeat' first
      | intro _ | assumption | exact within_trans (by decide +kernel) hm0 | exact within_trans (by decide +kernel) hw0
      | apply State.countHub_keeps | apply State.updSub_keeps | apply Keeps.next | apply Keeps.foldl
      | apply Keeps.foldlFst | apply Keeps.ite | apply Keeps.iteFst | split | dsimp only | apply within_ite

theorem execRefreshInterval_keeps {mP wF : Nat} {r0 : State} (ch : Fin 16) (sc : Fin 2) (rank : Fin 4) (set : Fin 4) (s : State) (hk : Keeps mP wF r0 s) (hm0 : within 0x40001 mP) (hw0 : within 0x60000000000000000000000000000000000000000000000000000000000000000000000000000000000000000000000000000000000000000000000 wF) : Keeps.Res mP wF r0 (execRefreshInterval ch sc rank set s) := by
  unfold execRefreshInterval; try dsimp only
  with_reducible
    repeat' first
      | intro _ | assumption | exact within_trans (by decide +kernel) hm0 | exact within_trans (by decide +kernel) hw0
      | apply State.put_keeps | apply State.bump_keeps | apply State.updSub_keeps | apply Keeps.next | apply Keeps.ite
      | apply Keeps.iteFst | split | dsimp only | apply within_ite

theorem execDimmTempPoll_keeps {mP wF : Nat} {r0 : State} (ch : Fin 16) (hot : Bool) (celsius : BitVec 8) (s : State) (hk : Keeps mP wF r0 s) (hm0 : within 0x40001 mP) (hw0 : within 0x80000000000000000000000000000000000000000000000000000000000000000000000000000000000000000000000000000000000000000000000 wF) : Keeps.Res mP wF r0 (execDimmTempPoll ch hot celsius s) := by
  unfold execDimmTempPoll; try dsimp only
  with_reducible
    repeat' first
      | intro _ | assumption | exact within_trans (by decide +kernel) hm0 | exact within_trans (by decide +kernel) hw0
      | apply State.setFlag_keeps | apply State.updMc_keeps | apply Keeps.next | dsimp only

theorem State.channelLost_keeps {mP wF : Nat} {r0 : State} (s : State) (ch : Nat) (cause : Nat) (bcause : Nat) (hk : Keeps mP wF r0 s) (hm0 : within 0x20c9cb1 mP) (hw0 : within 0x80004000c1f008400000000000020000000000000000000000000000000000000000000000000000000000000400000000000000000000000000000000 wF) : Keeps mP wF r0 (State.channelLost s ch cause bcause) := by
  unfold State.channelLost; try dsimp only
  with_reducible
    repeat' first
      | intro _ | assumption | exact within_trans (by decide +kernel) hm0 | exact within_trans (by decide +kernel) hw0
      | apply State.put_keeps | apply State.logSec_keeps | apply State.retired_keeps | apply State.updMc_keeps
      | apply State.stopPolders_keeps | apply State.mcAnswer_keeps | apply State.mcRedirect_keeps | apply Keeps.foldl
      | apply Keeps.foldlFst | apply Keeps.ite | split | dsimp only | apply within_ite

theorem execChannelLoss_keeps {mP wF : Nat} {r0 : State} (ch : Fin 16) (cause : Fin 4) (s : State) (hk : Keeps mP wF r0 s) (hm0 : within 0x20c9cb1 mP) (hw0 : within 0x80004000c1f008400000000000020000000000000000000000000000000000000000000000000000000000000400000000000000000000000000000000 wF) : Keeps.Res mP wF r0 (execChannelLoss ch cause s) := by
  unfold execChannelLoss; try dsimp only
  with_reducible
    repeat' first
      | assumption | exact within_trans (by decide +kernel) hm0 | exact within_trans (by decide +kernel) hw0
      | apply State.channelLost_keeps | apply Keeps.next

theorem execRetrainOscCheck_keeps {mP wF : Nat} {r0 : State} (ch : Fin 16) (sc : Fin 2) (drift : Nat) (s : State) (hk : Keeps mP wF r0 s) (hm0 : within 0x2040831 mP) (hw0 : within 0xc000000c1f000000000000000020000000000000000000000000000000000000000000000000000000000000000000000000000000000000000000000 wF) : Keeps.Res mP wF r0 (execRetrainOscCheck ch sc drift s) := by
  unfold execRetrainOscCheck; try dsimp only
  with_reducible
    repeat' first
      | intro _ | assumption | exact within_trans (by decide +kernel) hm0 | exact within_trans (by decide +kernel) hw0
      | apply State.put_keeps | apply State.bump_keeps | apply State.logSec_keeps | apply State.updSub_keeps
      | apply Keeps.next | apply Keeps.ite | apply Keeps.iteFst | apply Keeps.getD | split | dsimp only
      | apply within_ite

theorem execRetrainWaitExpired_keeps {mP wF : Nat} {r0 : State} (ch : Fin 16) (sc : Fin 2) (s : State) (hk : Keeps mP wF r0 s) (hm0 : within 0x40001 mP) (hw0 : within 0x2000000000000000000000000000000000000000000000000000000000000000000000000000000000000000000000000000000000000000000000000 wF) : Keeps.Res mP wF r0 (execRetrainWaitExpired ch sc s) := by
  unfold execRetrainWaitExpired; try dsimp only
  with_reducible
    repeat' first
      | assumption | exact within_trans (by decide +kernel) hm0 | exact within_trans (by decide +kernel) hw0
      | apply State.idlePause_keeps | apply Keeps.next | exact Keeps.optNone | apply Keeps.optSome
      | refine Keeps.opt ?_ (by assumption) | apply Keeps.getD

theorem execRetrainPauseEnd_keeps {mP wF : Nat} {r0 : State} (ch : Fin 16) (sc : Fin 2) (corrected : Bool) (s : State) (hk : Keeps mP wF r0 s) (hm0 : within 0x20c9cb1 mP) (hw0 : within 0x80004000c1f008400000000000020000000000000000000000000000000000000000000000000000000000000400000000000000000000000000000000 wF) : Keeps.Res mP wF r0 (execRetrainPauseEnd ch sc corrected s) := by
  unfold execRetrainPauseEnd; try dsimp only
  with_reducible
    repeat' first
      | intro _ | assumption | exact within_trans (by decide +kernel) hm0 | exact within_trans (by decide +kernel) hw0
      | apply State.logSec_keeps | apply State.updSub_keeps | apply State.channelLost_keeps | apply Keeps.next
      | apply Keeps.ite | apply Keeps.iteFst | split | dsimp only | apply within_ite

theorem execRedirectedRead_keeps {mP wF : Nat} {r0 : State} (m : Msg) (s : State) (hk : Keeps mP wF r0 s) (hm0 : within 0x49001 mP) (hw0 : within 0x80000000000008400000000000000000000000000000000000000000000000000000000000000000000000000000000000000000000000000000000000 wF) : Keeps.Res mP wF r0 (execRedirectedRead m s) := by
  unfold execRedirectedRead; try dsimp only
  with_reducible
    repeat' first
      | assumption | exact within_trans (by decide +kernel) hm0 | exact within_trans (by decide +kernel) hw0
      | apply State.arrive_keeps | apply State.mcTakeRead_keeps | apply Keeps.next | apply Keeps.ite
      | apply Keeps.iteFst | split | dsimp only | apply within_ite

theorem State.startResync_keeps {mP wF : Nat} {r0 : State} (s : State) (ch : Nat) (hk : Keeps mP wF r0 s) (hm0 : within 0x40001 mP) (hw0 : within 0xc000000000000000000000000000000000000000000000000000000000000000000000000000000000000000000000000000000000000000000000 wF) : Keeps mP wF r0 (State.startResync s ch) := by
  unfold State.startResync; try dsimp only
  with_reducible
    repeat' first
      | intro _ | assumption | exact within_trans (by decide +kernel) hm0 | exact within_trans (by decide +kernel) hw0
      | apply State.put_keeps | apply State.updMc_keeps | dsimp only

theorem execResyncChunk_keeps {mP wF : Nat} {r0 : State} (ch : Fin 16) (chunk : Nat) (s : State) (hk : Keeps mP wF r0 s) (hm0 : within 0x2040837 mP) (hw0 : within 0xc000c1f000000000000000020000000000000000000000000000000000000000000000000000000000000000000000000000000000000000000000 wF) : Keeps.Res mP wF r0 (execResyncChunk ch chunk s) := by
  unfold execResyncChunk; try dsimp only
  with_reducible
    repeat' first
      | intro _ | assumption | exact within_trans (by decide +kernel) hm0 | exact within_trans (by decide +kernel) hw0
      | apply State.put_keeps | apply State.writeLineHalf_keeps | apply State.setPoison_keeps
      | apply State.logSec_keeps | apply State.updMc_keeps | apply Keeps.next | apply Keeps.foldl
      | apply Keeps.foldlFst | apply Keeps.ite | apply Keeps.iteFst | split | dsimp only | apply within_ite

theorem State.ueResolve_keeps {mP wF : Nat} {r0 : State} (s : State) (ch : Nat) (la : Nat) (mirrorGood : Bool) (hk : Keeps mP wF r0 s) (hm0 : within 0x2040837 mP) (hw0 : within 0x60000000c1f000000000000000020000000000000000000000000000000000000000000000000000000000000000000000000000000000000000000000 wF) : Keeps mP wF r0 (State.ueResolve s ch la mirrorGood).1 := by
  unfold State.ueResolve; try dsimp only
  with_reducible
    repeat' first
      | assumption | exact within_trans (by decide +kernel) hm0 | exact within_trans (by decide +kernel) hw0
      | apply State.bump_keeps | apply State.writeLineHalf_keeps | apply State.setPoison_keeps
      | apply State.logSec_keeps | apply State.wantRepair_keeps | apply Keeps.ite | apply Keeps.iteFst | split
      | dsimp only | apply within_ite

theorem execUncorrectableRead_keeps {mP wF : Nat} {r0 : State} (m : Msg) (secondGood : Bool) (mirrorGood : Bool) (s : State) (hk : Keeps mP wF r0 s) (hm0 : within 0x2049837 mP) (hw0 : within 0xe0000000c1f008400000000000020000000000000000000000000000000000000000000000000000000000000000000000000000000000000000000000 wF) : Keeps.Res mP wF r0 (execUncorrectableRead m secondGood mirrorGood s) := by
  unfold execUncorrectableRead; try dsimp only
  with_reducible
    repeat' first
      | intro _ | assumption | exact within_trans (by decide +kernel) hm0 | exact within_trans (by decide +kernel) hw0
      | apply State.updSub_keeps | apply State.mcServe_keeps | apply State.ueResolve_keeps | apply Keeps.next
      | apply Keeps.ite | apply Keeps.iteFst | refine Keeps.fst ?_ (by assumption) | split | dsimp only
      | apply within_ite

theorem execPatrolScrub_keeps {mP wF : Nat} {r0 : State} (ch : Fin 16) (la : LineAddr) (outcome : EccOutcome) (s : State) (hk : Keeps mP wF r0 s) (hm0 : within 0x2040837 mP) (hw0 : within 0x2070000000c1f000000000000000020000000000000000000000000000000000000000000000000000000000000000000000000000000000000000000000 wF) : Keeps.Res mP wF r0 (execPatrolScrub ch la outcome s) := by
  unfold execPatrolScrub; try dsimp only
  with_reducible
    repeat' first
      | intro _ | assumption | exact within_trans (by decide +kernel) hm0 | exact within_trans (by decide +kernel) hw0
      | apply State.bump_keeps | apply State.updMc_keeps | apply State.rowError_keeps | apply State.ueResolve_keeps
      | apply Keeps.next | apply Keeps.ite | apply Keeps.iteFst | refine Keeps.fst ?_ (by assumption) | split
      | dsimp only | apply within_ite

theorem State.runSppr_keeps {mP wF : Nat} {r0 : State} (s : State) (ch : Nat) (late : Bool) (hk : Keeps mP wF r0 s) (hm0 : within 0x40000 mP) : Keeps mP wF r0 (State.runSppr s ch late) := by
  unfold State.runSppr; try dsimp only
  with_reducible
    repeat' first
      | intro _ | assumption | exact within_trans (by decide +kernel) hm0 | apply State.updMc_keeps | dsimp only

theorem execSpprWaitExpired_keeps {mP wF : Nat} {r0 : State} (ch : Fin 16) (s : State) (hk : Keeps mP wF r0 s) (hm0 : within 0x40000 mP) : Keeps.Res mP wF r0 (execSpprWaitExpired ch s) := by
  unfold execSpprWaitExpired; try dsimp only
  with_reducible
    repeat' first
      | assumption | exact within_trans (by decide +kernel) hm0 | apply State.runSppr_keeps | apply Keeps.next

theorem execRowRepair_keeps {mP wF : Nat} {r0 : State} (ch : Fin 16) (row : RowId) (resource : Bool) (s : State) (hk : Keeps mP wF r0 s) (hm0 : within 0x20c0831 mP) (hw0 : within 0x400010000c1f000000000000000020000000000000000000000000000000000000000000000000000000000000000000000000000000000000000000000 wF) : Keeps.Res mP wF r0 (execRowRepair ch row resource s) := by
  unfold execRowRepair; try dsimp only
  with_reducible
    repeat' first
      | intro _ | assumption | exact within_trans (by decide +kernel) hm0 | exact within_trans (by decide +kernel) hw0
      | apply State.put_keeps | apply State.bump_keeps | apply State.updBerm_keeps | apply State.logSec_keeps
      | apply State.bermNote_keeps | apply State.bermLog_keeps | apply State.updMc_keeps | apply State.runSppr_keeps
      | apply Keeps.next | apply Keeps.ite | apply Keeps.iteFst | split | dsimp only | apply within_ite

end Sys2Proof.Machine
end

