-- ==== Sys2Proof/Laws/KeepsCoherence.lean ====
section
/-! SUPPORT. The operations of Machine/Coherence.lean keep the memory form, the field widths and the queue. -/

set_option Elab.async false
namespace Sys2Proof.Machine

theorem State.syncBank_keeps {mP wF : Nat} {r0 : State} (s : State) (h : Nat) (b : Nat) (hk : Keeps mP wF r0 s) (hm0 : within 0x1 mP) (hw0 : within 0x700000000000000000000000000000000000000000000000000 wF) : Keeps mP wF r0 (State.syncBank s h b) := by
  unfold State.syncBank; try dsimp only
  with_reducible
    repeat' first
      | assumption | exact within_trans (by decide +kernel) hm0 | exact within_trans (by decide +kernel) hw0
      | apply State.put_keeps | apply Keeps.ite | split | dsimp only | apply within_ite

theorem State.setTrk_keeps {mP wF : Nat} {r0 : State} (s : State) (h : Nat) (t : Trk) (hk : Keeps mP wF r0 s) (hm0 : within 0x10001 mP) (hw0 : within 0x700000000000000000000000000000000000000000000000000 wF) : Keeps mP wF r0 (State.setTrk s h t) := by
  unfold State.setTrk; try dsimp only
  with_reducible
    repeat' first
      | intro _ | assumption | exact within_trans (by decide +kernel) hm0 | exact within_trans (by decide +kernel) hw0
      | apply State.updDir_keeps | apply State.syncBank_keeps | apply Keeps.ite | split | dsimp only
      | apply within_ite

theorem State.dropTrk_keeps {mP wF : Nat} {r0 : State} (s : State) (h : Nat) (la : Nat) (hk : Keeps mP wF r0 s) (hm0 : within 0x10001 mP) (hw0 : within 0x700000000000000000000000000000000000000000000000000 wF) : Keeps mP wF r0 (State.dropTrk s h la) := by
  unfold State.dropTrk; try dsimp only
  with_reducible
    repeat' first
      | intro _ | assumption | exact within_trans (by decide +kernel) hm0 | exact within_trans (by decide +kernel) hw0
      | apply State.updDir_keeps | apply State.syncBank_keeps | dsimp only

theorem State.reserveUsed_keeps {mP wF : Nat} {r0 : State} (s : State) (h : Nat) (b : Nat) (m : Msg) (reserved : Bool) (hk : Keeps mP wF r0 s) (hm0 : within 0x2000831 mP) (hw0 : within 0xc1f000000000000000020000000000000000000000000000000000000000000000000000000000000000000000000000000000000000000000 wF) : Keeps mP wF r0 (State.reserveUsed s h b m reserved) := by
  unfold State.reserveUsed; try dsimp only
  with_reducible
    repeat' first
      | assumption | exact within_trans (by decide +kernel) hm0 | exact within_trans (by decide +kernel) hw0
      | apply State.logSec_keeps | apply Keeps.ite | split | dsimp only | apply within_ite

theorem State.openTrk_keeps {mP wF : Nat} {r0 : State} (s : State) (h : Nat) (la : Nat) (st : TrSt) (req : Option Msg) (at_ : Nat) (hk : Keeps mP wF r0 s) (hm0 : within 0x10001 mP) (hw0 : within 0x700000000000000000000000000000000000000000000000000 wF) : Keeps mP wF r0 (State.openTrk s h la st req at_) := by
  unfold State.openTrk; try dsimp only
  with_reducible
    repeat' first
      | intro _ | assumption | exact within_trans (by decide +kernel) hm0 | exact within_trans (by decide +kernel) hw0
      | apply State.updDir_keeps | apply State.syncBank_keeps | dsimp only

theorem State.nackMsg_keeps {mP wF : Nat} {r0 : State} (s : State) (h : Nat) (m : Msg) (hk : Keeps mP wF r0 s) (hm0 : within 0x9001 mP) (hw0 : within 0x8400000000000000000000000000000000000000000000000000000000001000000000000000000000000000000000000000000000000 wF) : Keeps mP wF r0 (State.nackMsg s h m) := by
  unfold State.nackMsg; try dsimp only
  with_reducible
    repeat' first
      | assumption | exact within_trans (by decide +kernel) hm0 | exact within_trans (by decide +kernel) hw0
      | apply State.bump_keeps | apply State.countHub_keeps | apply State.send_keeps

theorem State.join_keeps {mP wF : Nat} {r0 : State} (s : State) (h : Nat) (t : Trk) (m : Msg) (at_ : Nat) (hk : Keeps mP wF r0 s) (hm0 : within 0x2019831 mP) (hw0 : within 0xc1f008400000000000020000000000000000000000000000000000000000000701000000000000000000000000000000000000000000000000 wF) : Keeps mP wF r0 (State.join s h t m at_) := by
  unfold State.join; try dsimp only
  with_reducible
    repeat' first
      | assumption | exact within_trans (by decide +kernel) hm0 | exact within_trans (by decide +kernel) hw0
      | apply State.setTrk_keeps | apply State.reserveUsed_keeps | apply State.nackMsg_keeps | apply Keeps.ite | split
      | dsimp only | apply within_ite

theorem State.bankDone_keeps {mP wF : Nat} {r0 : State} (s : State) (h : Nat) (kind : Nat) (pushed : Nat) (m : Msg) (hk : Keeps mP wF r0 s) (hm0 : within 0x9001 mP) (hw0 : within 0x8400000000000000000000000000000000000000000000000000000000000000000000000000000000000000000000000000000000000 wF) : Keeps mP wF r0 (State.bankDone s h kind pushed m) := by
  unfold State.bankDone; try dsimp only
  with_reducible
    repeat' first
      | assumption | exact within_trans (by decide +kernel) hm0 | exact within_trans (by decide +kernel) hw0
      | apply State.send_keeps

theorem State.refusedZeros_keeps {mP wF : Nat} {r0 : State} (s : State) (h : Nat) (m : Msg) (hk : Keeps mP wF r0 s) (hm0 : within 0x9001 mP) (hw0 : within 0x8400000000000000000000000000000000000000000000000000000000000000000000000000000000000000000000000000000000000 wF) : Keeps mP wF r0 (State.refusedZeros s h m) := by
  unfold State.refusedZeros; try dsimp only
  with_reducible
    repeat' first
      | assumption | exact within_trans (by decide +kernel) hm0 | exact within_trans (by decide +kernel) hw0
      | apply State.send_keeps

theorem State.grantM_keeps {mP wF : Nat} {r0 : State} (s : State) (h : Nat) (m : Msg) (hk : Keeps mP wF r0 s) (hm0 : within 0x9001 mP) (hw0 : within 0x8400000000000000000000000000000000000000000000000000000000000000000000000000000000000000000000000000000000000 wF) : Keeps mP wF r0 (State.grantM s h m) := by
  unfold State.grantM; try dsimp only
  with_reducible
    repeat' first
      | assumption | exact within_trans (by decide +kernel) hm0 | exact within_trans (by decide +kernel) hw0
      | apply State.send_keeps

theorem State.hintDrop_keeps {mP wF : Nat} {r0 : State} (s : State) (h : Nat) (m : Msg) (hk : Keeps mP wF r0 s) (hm0 : within 0x9001 mP) (hw0 : within 0x8400000000000000000000000000000000000000000000000000000000008000000000000000000000000000000000000000000000000 wF) : Keeps mP wF r0 (State.hintDrop s h m) := by
  unfold State.hintDrop; try dsimp only
  with_reducible
    repeat' first
      | assumption | exact within_trans (by decide +kernel) hm0 | exact within_trans (by decide +kernel) hw0
      | apply State.bump_keeps | apply State.bankDone_keeps

theorem State.snoopOut_keeps {mP wF : Nat} {r0 : State} (s : State) (h : Nat) (t : Trk) (ty : MsgTy) (ds : List Nat) (hk : Keeps mP wF r0 s) (hm0 : within 0x9001 mP) (hw0 : within 0x8400000000000000000000000000000000000000000000000000000000000c00000000000000000000000000000000000000000000000 wF) : Keeps mP wF r0 (State.snoopOut s h t ty ds) := by
  unfold State.snoopOut; try dsimp only
  with_reducible
    repeat' first
      | intro _ | assumption | exact within_trans (by decide +kernel) hm0 | exact within_trans (by decide +kernel) hw0
      | apply State.bump_keeps | apply State.countHub_keeps | apply State.send_keeps | apply Keeps.foldl
      | apply Keeps.foldlFst | apply Keeps.ite | split | dsimp only | apply within_ite

theorem State.snoopAll_keeps {mP wF : Nat} {r0 : State} (s : State) (h : Nat) (t : Trk) (ty : MsgTy) (ds : List Nat) (hk : Keeps mP wF r0 s) (hm0 : within 0x19001 mP) (hw0 : within 0x8400000000000000000000000000000000000000000000000000000000700c00000000000000000000000000000000000000000000000 wF) : Keeps mP wF r0 (State.snoopAll s h t ty ds) := by
  unfold State.snoopAll; try dsimp only
  with_reducible
    repeat' first
      | assumption | exact within_trans (by decide +kernel) hm0 | exact within_trans (by decide +kernel) hw0
      | apply State.setTrk_keeps | apply State.snoopOut_keeps

theorem State.forward_keeps {mP wF : Nat} {r0 : State} (s : State) (h : Nat) (m : Msg) (hk : Keeps mP wF r0 s) (hm0 : within 0x4019001 mP) (hw0 : within 0x8400000000000000000000000000000000000000000000000000000000700000000000000000000000000000000000000000000000000 wF) : Keeps mP wF r0 (State.forward s h m) := by
  unfold State.forward; try dsimp only
  with_reducible
    repeat' first
      | assumption | exact within_trans (by decide +kernel) hm0 | exact within_trans (by decide +kernel) hw0
      | apply State.send_keeps | apply State.setDirEnt_keeps | apply State.recordPush_keeps | apply State.setTrk_keeps
      | apply Keeps.ite | split | dsimp only | apply within_ite

theorem State.holdReq_keeps {mP wF : Nat} {r0 : State} (s : State) (h : Nat) (m : Msg) (at_ : Nat) (hk : Keeps mP wF r0 s) (hm0 : within 0x10011 mP) (hw0 : within 0x700000000000000000000000000000000000000000000000000 wF) : Keeps mP wF r0 (State.holdReq s h m at_) := by
  unfold State.holdReq; try dsimp only
  with_reducible
    repeat' first
      | assumption | exact within_trans (by decide +kernel) hm0 | exact within_trans (by decide +kernel) hw0
      | apply State.hold_keeps | apply State.setTrk_keeps | apply State.openTrk_keeps | split | dsimp only

theorem State.dirEvict_keeps {mP wF : Nat} {r0 : State} (s : State) (h : Nat) (la : Nat) (m : Msg) (at_ : Nat) (hk : Keeps mP wF r0 s) (hm0 : within 0x4019011 mP) (hw0 : within 0x8400000000000000000000000000000000000000000000000000000000704c00000000000000000000000000000000000000000000000 wF) : Keeps mP wF r0 (State.dirEvict s h la m at_) := by
  unfold State.dirEvict; try dsimp only
  with_reducible
    repeat' first
      | assumption | exact within_trans (by decide +kernel) hm0 | exact within_trans (by decide +kernel) hw0
      | apply State.bump_keeps | apply State.drawn_keeps | apply State.openTrk_keeps | apply State.snoopAll_keeps
      | apply State.holdReq_keeps | split | dsimp only

theorem State.grantNow_keeps {mP wF : Nat} {r0 : State} (s : State) (h : Nat) (m : Msg) (hk : Keeps mP wF r0 s) (hm0 : within 0x19001 mP) (hw0 : within 0x8400000000000000000000000000000000000000000000000000000000000000000000000000000000000000000000000000000000000 wF) : Keeps mP wF r0 (State.grantNow s h m) := by
  unfold State.grantNow; try dsimp only
  with_reducible
    repeat' first
      | assumption | exact within_trans (by decide +kernel) hm0 | exact within_trans (by decide +kernel) hw0
      | apply State.record_keeps | apply State.grantM_keeps

theorem State.serve_keeps {mP wF : Nat} {r0 : State} (s : State) (h : Nat) (m : Msg) (at_ : Nat) (had : Bool) (hk : Keeps mP wF r0 s) (hm0 : within 0x6019831 mP) (hw0 : within 0xc1f00840000000000002000000000000000000000000000000000000000000070fc00000000000000000000000000000000000000000000000 wF) : Keeps mP wF r0 (State.serve s h m at_ had) := by
  unfold State.serve; try dsimp only
  with_reducible
    repeat' first
      | intro _ | assumption | exact within_trans (by decide +kernel) hm0 | exact within_trans (by decide +kernel) hw0
      | apply State.bump_keeps | apply State.countHub_keeps | apply State.reserveUsed_keeps
      | apply State.openTrk_keeps | apply State.nackMsg_keeps | apply State.hintDrop_keeps
      | apply State.snoopAll_keeps | apply State.forward_keeps | apply State.holdReq_keeps
      | apply State.dirEvict_keeps | apply State.grantNow_keeps | apply Keeps.ite | split | dsimp only
      | apply within_ite

theorem State.serveAll_keeps {mP wF : Nat} {r0 : State} (s : State) (h : Nat) (la : Nat) (y0 : List (Msg × Nat)) (hk : Keeps mP wF r0 s) (hm0 : within 0x6019831 mP) (hw0 : within 0xc1f00840000000000002000000000000000000000000000000000000000000070fc00000000000000000000000000000000000000000000000 wF) : Keeps mP wF r0 (State.serveAll s h la y0) := by
  induction y0 generalizing s h la with
  | nil =>
    unfold State.serveAll; try dsimp only
    with_reducible
      repeat' first
        | assumption | exact within_trans (by decide +kernel) hm0 | exact within_trans (by decide +kernel) hw0
        | apply State.setTrk_keeps | apply State.serve_keeps | refine Keeps.fst ?_ (by assumption) | split
        | dsimp only
  | cons x l ih =>
    unfold State.serveAll; try dsimp only
    with_reducible
      repeat' first
        | assumption | exact within_trans (by decide +kernel) hm0 | exact within_trans (by decide +kernel) hw0
        | apply State.setTrk_keeps | apply State.serve_keeps | apply ih | refine Keeps.fst ?_ (by assumption) | split
        | dsimp only

theorem State.unhold_keeps {mP wF : Nat} {r0 : State} (s : State) (h : Nat) (la : Nat) (hk : Keeps mP wF r0 s) (hm0 : within 0x6019831 mP) (hw0 : within 0xc1f00840000000000002000000000000000000000000000000000000000000070fc00000000000000000000000000000000000000000000000 wF) : Keeps mP wF r0 (State.unhold s h la) := by
  unfold State.unhold; try dsimp only
  with_reducible
    repeat' first
      | assumption | exact within_trans (by decide +kernel) hm0 | exact within_trans (by decide +kernel) hw0
      | apply State.hold_keeps | apply State.dropTrk_keeps | apply State.serveAll_keeps | apply Keeps.ite | split
      | dsimp only | apply within_ite

theorem State.setChanged_keeps {mP wF : Nat} {r0 : State} (s : State) (h : Nat) (la : Nat) (hk : Keeps mP wF r0 s) (hm0 : within 0x6019831 mP) (hw0 : within 0xc1f00840000000000002000000000000000000000000000000000000000000070fc00000000000000000000000000000000000000000000000 wF) : Keeps mP wF r0 (State.setChanged s h la) := by
  unfold State.setChanged; try dsimp only
  with_reducible
    repeat' first
      | intro _ | assumption | exact within_trans (by decide +kernel) hm0 | exact within_trans (by decide +kernel) hw0
      | apply State.unhold_keeps | apply Keeps.foldl | apply Keeps.foldlFst | dsimp only

theorem State.finishLine_keeps {mP wF : Nat} {r0 : State} (s : State) (h : Nat) (la : Nat) (hk : Keeps mP wF r0 s) (hm0 : within 0x6019831 mP) (hw0 : within 0xc1f00840000000000002000000000000000000000000000000000000000000070fc00000000000000000000000000000000000000000000000 wF) : Keeps mP wF r0 (State.finishLine s h la) := by
  unfold State.finishLine; try dsimp only
  with_reducible
    repeat' first
      | assumption | exact within_trans (by decide +kernel) hm0 | exact within_trans (by decide +kernel) hw0
      | apply State.dropTrk_keeps | apply State.serveAll_keeps | apply State.setChanged_keeps | split | dsimp only

theorem State.evicted_keeps {mP wF : Nat} {r0 : State} (s : State) (h : Nat) (t : Trk) (hk : Keeps mP wF r0 s) (hm0 : within 0x6019831 mP) (hw0 : within 0xc1f00840000000000002000000000000000000000000000000000000000000070fc00000000000000000000000000000000000000000000000 wF) : Keeps mP wF r0 (State.evicted s h t) := by
  unfold State.evicted; try dsimp only
  with_reducible
    repeat' first
      | assumption | exact within_trans (by decide +kernel) hm0 | exact within_trans (by decide +kernel) hw0
      | apply State.setDirEnt_keeps | apply State.dropTrk_keeps | apply State.serveAll_keeps
      | apply State.unhold_keeps | apply State.setChanged_keeps | split | dsimp only

theorem State.entryLeft_keeps {mP wF : Nat} {r0 : State} (s : State) (h : Nat) (la : Nat) (e : Option DirEnt) (hk : Keeps mP wF r0 s) (hm0 : within 0x6019831 mP) (hw0 : within 0xc1f00840000000000002000000000000000000000000000000000000000000070fc00000000000000000000000000000000000000000000000 wF) : Keeps mP wF r0 (State.entryLeft s h la e) := by
  unfold State.entryLeft; try dsimp only
  with_reducible
    repeat' first
      | assumption | exact within_trans (by decide +kernel) hm0 | exact within_trans (by decide +kernel) hw0
      | apply State.setDirEnt_keeps | apply State.unhold_keeps | apply State.setChanged_keeps

theorem State.proceed_keeps {mP wF : Nat} {r0 : State} (s : State) (h : Nat) (t : Trk) (hk : Keeps mP wF r0 s) (hm0 : within 0x6019831 mP) (hw0 : within 0xc1f00840000000000002000000000000000000000000000000000000000000070fc00000000000000000000000000000000000000000000000 wF) : Keeps mP wF r0 (State.proceed s h t) := by
  unfold State.proceed; try dsimp only
  with_reducible
    repeat' first
      | intro _ | assumption | exact within_trans (by decide +kernel) hm0 | exact within_trans (by decide +kernel) hw0
      | apply State.setDirEnt_keeps | apply State.dropTrk_keeps | apply State.forward_keeps
      | apply State.dirEvict_keeps | apply State.grantNow_keeps | apply State.serveAll_keeps
      | apply State.finishLine_keeps | apply State.evicted_keeps | apply Keeps.ite | split | dsimp only
      | apply within_ite

theorem State.checkTrk_keeps {mP wF : Nat} {r0 : State} (s : State) (h : Nat) (t : Trk) (hk : Keeps mP wF r0 s) (hm0 : within 0x6019831 mP) (hw0 : within 0xc1f00840000000000002000000000000000000000000000000000000000000070fc00000000000000000000000000000000000000000000000 wF) : Keeps mP wF r0 (State.checkTrk s h t) := by
  unfold State.checkTrk; try dsimp only
  with_reducible
    repeat' first
      | assumption | exact within_trans (by decide +kernel) hm0 | exact within_trans (by decide +kernel) hw0
      | apply State.setTrk_keeps | apply State.proceed_keeps | apply Keeps.ite | split | dsimp only | apply within_ite

theorem State.takeIn_keeps {mP wF : Nat} {r0 : State} (s : State) (h : Nat) (m : Msg) (hk : Keeps mP wF r0 s) (hm0 : within 0x6019831 mP) (hw0 : within 0xc1f00840000000000002000000000000000000000000000000000000000000070fc00000000000000000000000000000000000000000000000 wF) : Keeps mP wF r0 (State.takeIn s h m) := by
  unfold State.takeIn; try dsimp only
  with_reducible
    repeat' first
      | assumption | exact within_trans (by decide +kernel) hm0 | exact within_trans (by decide +kernel) hw0
      | apply State.join_keeps | apply State.hintDrop_keeps | apply State.serve_keeps | apply Keeps.ite | split
      | dsimp only | apply within_ite

theorem State.bankRequest_keeps {mP wF : Nat} {r0 : State} (s : State) (h : Nat) (m : Msg) (hk : Keeps mP wF r0 s) (hm0 : within 0x6019831 mP) (hw0 : within 0xc1f00840000000000002000000000000000000000000000000000000000000070fc00000000000000000000000000400000000000000000000 wF) : Keeps mP wF r0 (State.bankRequest s h m) := by
  unfold State.bankRequest; try dsimp only
  with_reducible
    repeat' first
      | intro _ | assumption | exact within_trans (by decide +kernel) hm0 | exact within_trans (by decide +kernel) hw0
      | apply State.refuse_keeps | apply State.countHub_keeps | apply State.send_keeps | apply State.updDir_keeps
      | apply State.syncBank_keeps | apply State.nackMsg_keeps | apply State.bankDone_keeps
      | apply State.refusedZeros_keeps | apply State.hintDrop_keeps | apply State.takeIn_keeps | apply Keeps.ite
      | split | dsimp only | apply within_ite

theorem execReadShared_keeps {mP wF : Nat} {r0 : State} (m : Msg) (s : State) (hk : Keeps mP wF r0 s) (hm0 : within 0x6059831 mP) (hw0 : within 0x80000000c1f00840000000000002000000000000000000000000000000000000000000070fc00000000000000000000000000400000000000000000000 wF) : Keeps.Res mP wF r0 (execReadShared m s) := by
  unfold execReadShared; try dsimp only
  with_reducible
    repeat' first
      | assumption | exact within_trans (by decide +kernel) hm0 | exact within_trans (by decide +kernel) hw0
      | apply State.arrive_keeps | apply State.mcRead_keeps | apply State.bankRequest_keeps | apply Keeps.next
      | apply Keeps.ite | apply Keeps.iteFst | split | dsimp only | apply within_ite

theorem execReadOwn_keeps {mP wF : Nat} {r0 : State} (m : Msg) (s : State) (hk : Keeps mP wF r0 s) (hm0 : within 0x6059831 mP) (hw0 : within 0x80000000c1f00840000000000002000000000000000000000000000000000000000000070fc00000000000000000000000000400000000000000000000 wF) : Keeps.Res mP wF r0 (execReadOwn m s) := by
  unfold execReadOwn; try dsimp only
  with_reducible
    repeat' first
      | assumption | exact within_trans (by decide +kernel) hm0 | exact within_trans (by decide +kernel) hw0
      | apply State.arrive_keeps | apply State.mcRead_keeps | apply State.bankRequest_keeps | apply Keeps.next
      | apply Keeps.ite | apply Keeps.iteFst | split | dsimp only | apply within_ite

theorem execUpgrade_keeps {mP wF : Nat} {r0 : State} (m : Msg) (s : State) (hk : Keeps mP wF r0 s) (hm0 : within 0x6019831 mP) (hw0 : within 0xc1f00840000000000002000000000000000000000000000000000000000000070fc00000000000000000000000000400000000000000000000 wF) : Keeps.Res mP wF r0 (execUpgrade m s) := by
  unfold execUpgrade; try dsimp only
  with_reducible
    repeat' first
      | assumption | exact within_trans (by decide +kernel) hm0 | exact within_trans (by decide +kernel) hw0
      | apply State.arrive_keeps | apply State.bankRequest_keeps | apply Keeps.next | apply Keeps.ite
      | apply Keeps.iteFst | split | dsimp only | apply within_ite

theorem execPlaceWrite_keeps {mP wF : Nat} {r0 : State} (m : Msg) (s : State) (hk : Keeps mP wF r0 s) (hm0 : within 0x6059c37 mP) (hw0 : within 0x80000000c1f00840000000000002000000000000000000000000000000000000000000070fc00000000000000000000000000400000000000000000000 wF) : Keeps.Res mP wF r0 (execPlaceWrite m s) := by
  unfold execPlaceWrite; try dsimp only
  with_reducible
    repeat' first
      | assumption | exact within_trans (by decide +kernel) hm0 | exact within_trans (by decide +kernel) hw0
      | apply State.arrive_keeps | apply State.mcRead_keeps | apply State.mcWrite_keeps
      | apply State.bankRequest_keeps | apply Keeps.next | apply Keeps.ite | apply Keeps.iteFst | split | dsimp only
      | apply within_ite

theorem execWrite_keeps {mP wF : Nat} {r0 : State} (m : Msg) (s : State) (hk : Keeps mP wF r0 s) (hm0 : within 0x6059c37 mP) (hw0 : within 0xc1f00840000000000002000000000000000000000000000000000000000000070fc00000000000000000000000000400000000000000000000 wF) : Keeps.Res mP wF r0 (execWrite m s) := by
  unfold execWrite; try dsimp only
  with_reducible
    repeat' first
      | assumption | exact within_trans (by decide +kernel) hm0 | exact within_trans (by decide +kernel) hw0
      | apply State.arrive_keeps | apply State.mcWrite_keeps | apply State.bankRequest_keeps | apply Keeps.next
      | apply Keeps.ite | apply Keeps.iteFst | split | dsimp only | apply within_ite

theorem execEvictClean_keeps {mP wF : Nat} {r0 : State} (m : Msg) (s : State) (hk : Keeps mP wF r0 s) (hm0 : within 0x6019831 mP) (hw0 : within 0xc1f00840000000000002000000000000000000000000000000000000000000070fc00000000000000000000000000000000000000000000000 wF) : Keeps.Res mP wF r0 (execEvictClean m s) := by
  unfold execEvictClean; try dsimp only
  with_reducible
    repeat' first
      | assumption | exact within_trans (by decide +kernel) hm0 | exact within_trans (by decide +kernel) hw0
      | apply State.arrive_keeps | apply State.entryLeft_keeps | apply Keeps.next | apply Keeps.ite
      | apply Keeps.iteFst | split | dsimp only | apply within_ite

theorem execHoldWindowExpired_keeps {mP wF : Nat} {r0 : State} (h : Half) (la : LineAddr) (s : State) (hk : Keeps mP wF r0 s) (hm0 : within 0x6019831 mP) (hw0 : within 0xc1f00840000000000002000000000000000000000000000000000000000000070fc00000000000000000000000000000000000000000000000 wF) : Keeps.Res mP wF r0 (execHoldWindowExpired h la s) := by
  unfold execHoldWindowExpired; try dsimp only
  with_reducible
    repeat' first
      | assumption | exact within_trans (by decide +kernel) hm0 | exact within_trans (by decide +kernel) hw0
      | apply State.unhold_keeps | apply Keeps.next | apply Keeps.ite | apply Keeps.iteFst | split | dsimp only
      | apply within_ite

theorem State.loadDone_keeps {mP wF : Nat} {r0 : State} (s : State) (g : Nat) (rd : Nat) (size : Nat) (v : Line) (hk : Keeps mP wF r0 s) (hm0 : within 0x4000400 mP) : Keeps mP wF r0 (State.loadDone s g rd size v) := by
  unfold State.loadDone; try dsimp only
  with_reducible
    repeat' first
      | intro _ | assumption | exact within_trans (by decide +kernel) hm0 | apply State.updCore_keeps
      | apply State.countCore_keeps | apply State.retire_keeps | dsimp only

theorem State.ensure_keeps {mP wF : Nat} {r0 : State} (s : State) (g : Nat) (la : Nat) (hk : Keeps mP wF r0 s) (hm0 : within 0x4009401 mP) (hw0 : within 0x8400000000000000000000000000000000000000000000000000000000000000000100000000000000000000000000000000000000000 wF) : Keeps.Opt mP wF r0 (State.ensure s g la) := by
  unfold State.ensure; try dsimp only
  with_reducible
    repeat' first
      | assumption | exact within_trans (by decide +kernel) hm0 | exact within_trans (by decide +kernel) hw0
      | apply State.countCore_keeps | apply State.countDie_keeps | apply State.l2FromDc_keeps | apply Keeps.optNone
      | apply Keeps.optSome | apply Keeps.ite | apply Keeps.iteFst | apply Keeps.iteOpt | exact Keeps.optNone
      | apply Keeps.optSome | refine Keeps.opt ?_ (by assumption) | split | dsimp only | apply within_ite

theorem State.loadPoison_keeps {mP wF : Nat} {r0 : State} (s : State) (g : Nat) (pa : Nat) (hk : Keeps mP wF r0 s) (hm0 : within 0x400 mP) : Keeps mP wF r0 (State.loadPoison s g pa) := by
  unfold State.loadPoison; try dsimp only
  with_reducible
    repeat' first
      | assumption | exact within_trans (by decide +kernel) hm0 | apply State.machineCheck_keeps

theorem State.fetchPoison_keeps {mP wF : Nat} {r0 : State} (s : State) (g : Nat) (pa : Nat) (hk : Keeps mP wF r0 s) (hm0 : within 0x400 mP) : Keeps mP wF r0 (State.fetchPoison s g pa) := by
  unfold State.fetchPoison; try dsimp only
  with_reducible
    repeat' first
      | assumption | exact within_trans (by decide +kernel) hm0 | apply State.machineCheck_keeps

theorem State.fetchTry_keeps {mP wF : Nat} {r0 : State} (s : State) (g : Nat) (pa : Nat) (hk : Keeps mP wF r0 s) (hm0 : within 0x4009401 mP) (hw0 : within 0x8400000000000000000000000000000000000000000000000000000000000000000100000000000000000000000000000000000000000 wF) : Keeps mP wF r0 (State.fetchTry s g pa) := by
  unfold State.fetchTry; try dsimp only
  with_reducible
    repeat' first
      | assumption | exact within_trans (by decide +kernel) hm0 | exact within_trans (by decide +kernel) hw0
      | apply State.countCore_keeps | apply State.l1iFill_keeps | apply State.startMiss_keeps
      | apply State.ensure_keeps | apply State.fetchPoison_keeps | apply Keeps.ite | apply Keeps.iteOpt
      | exact Keeps.optNone | apply Keeps.optSome | refine Keeps.opt ?_ (by assumption) | split | dsimp only
      | apply within_ite

theorem State.loadTry_keeps {mP wF : Nat} {r0 : State} (s : State) (g : Nat) (rd : Nat) (pa : Nat) (pa2 : Nat) (size : Nat) (hk : Keeps mP wF r0 s) (hm0 : within 0x4009401 mP) (hw0 : within 0x8400000000000000000000000000000000000000000000000000000000000000000100000000000000000000000000000000000000000 wF) : Keeps mP wF r0 (State.loadTry s g rd pa pa2 size) := by
  unfold State.loadTry; try dsimp only
  with_reducible
    repeat' first
      | intro _ | assumption | exact within_trans (by decide +kernel) hm0 | exact within_trans (by decide +kernel) hw0
      | apply State.updCore_keeps | apply State.countCore_keeps | apply State.l1Fill_keeps
      | apply State.startMiss_keeps | apply State.loadDone_keeps | apply State.ensure_keeps
      | apply State.loadPoison_keeps | apply Keeps.ite | apply Keeps.iteOpt | exact Keeps.optNone
      | apply Keeps.optSome | refine Keeps.opt ?_ (by assumption) | split | dsimp only | apply within_ite

theorem State.atomicDo_keeps {mP wF : Nat} {r0 : State} (s : State) (g : Nat) (rd : Nat) (pa : Nat) (size : Nat) (op : Nat) (v : Word) (hk : Keeps mP wF r0 s) (hm0 : within 0x6019c3f mP) (hw0 : within 0xc1f008400000000000020000000000000000000000000000000000000000000000000000100018000000000000000000000000000000000000 wF) : Keeps mP wF r0 (State.atomicDo s g rd pa size op v) := by
  unfold State.atomicDo; try dsimp only
  with_reducible
    repeat' first
      | assumption | exact within_trans (by decide +kernel) hm0 | exact within_trans (by decide +kernel) hw0
      | apply State.guardOverflow_keeps | apply State.l2Write_keeps | apply State.loadDone_keeps
      | apply State.loadPoison_keeps | apply Keeps.ite | split | dsimp only | apply within_ite

theorem State.snoopAnswer_keeps {mP wF : Nat} {r0 : State} (s : State) (m : Msg) (bits : Nat) (hk : Keeps mP wF r0 s) (hm0 : within 0x9001 mP) (hw0 : within 0x8400000000000000000000000000000000000000000000000000000000000000000000000000000000000000000000000000000000000 wF) : Keeps mP wF r0 (State.snoopAnswer s m bits) := by
  unfold State.snoopAnswer; try dsimp only
  with_reducible
    repeat' first
      | assumption | exact within_trans (by decide +kernel) hm0 | exact within_trans (by decide +kernel) hw0
      | apply State.send_keeps | apply Keeps.ite | split | dsimp only | apply within_ite

theorem State.dieTake_keeps {mP wF : Nat} {r0 : State} (s : State) (d : Nat) (la : Nat) (hk : Keeps mP wF r0 s) (hm0 : within 0x1401 mP) (hw0 : within 0x100000000000000000000000000000000000000000 wF) : Keeps mP wF r0 (State.dieTake s d la) := by
  unfold State.dieTake; try dsimp only
  with_reducible
    repeat' first
      | intro _ | assumption | exact within_trans (by decide +kernel) hm0 | exact within_trans (by decide +kernel) hw0
      | apply State.countCore_keeps | apply State.l2Inval_keeps | apply State.dropDc_keeps | apply Keeps.foldl
      | apply Keeps.foldlFst | dsimp only

theorem State.snoopServe_keeps {mP wF : Nat} {r0 : State} (s : State) (d : Nat) (m : Msg) (hk : Keeps mP wF r0 s) (hm0 : within 0x9401 mP) (hw0 : within 0x8400000000000000000000000000000000000000000000000000000000000000000100000000000000000000000000000000000000000 wF) : Keeps mP wF r0 (State.snoopServe s d m) := by
  unfold State.snoopServe; try dsimp only
  with_reducible
    repeat' first
      | assumption | exact within_trans (by decide +kernel) hm0 | exact within_trans (by decide +kernel) hw0
      | apply State.countCore_keeps | apply State.setL2_keeps | apply State.writeback_keeps
      | apply State.snoopAnswer_keeps | apply State.dieTake_keeps | apply Keeps.ite | split | dsimp only
      | apply within_ite

theorem State.snoop_keeps {mP wF : Nat} {r0 : State} (s : State) (d : Nat) (m : Msg) (hk : Keeps mP wF r0 s) (hm0 : within 0x2019c3f mP) (hw0 : within 0xc1f0084000000000000200000000000000000000000000000000000000000000000000001000418c0000000000000000000000000000000000 wF) : Keeps mP wF r0 (State.snoop s d m) := by
  unfold State.snoop; try dsimp only
  with_reducible
    repeat' first
      | intro _ | assumption | exact within_trans (by decide +kernel) hm0 | exact within_trans (by decide +kernel) hw0
      | apply State.updCore_keeps | apply State.countCore_keeps | apply State.abortTick_keeps
      | apply State.snoopAnswer_keeps | apply State.snoopServe_keeps | apply Keeps.ite | split | dsimp only
      | apply within_ite

theorem State.snoopIn_keeps {mP wF : Nat} {r0 : State} (s : State) (m : Msg) (ty : MsgTy) (hk : Keeps mP wF r0 s) (hm0 : within 0x2019c3f mP) (hw0 : within 0xc1f0084000000000000200000000000000000000000000000000000000000000000000001000418c0000000000000000000000000000000000 wF) : Keeps mP wF r0 (State.snoopIn s m ty) := by
  unfold State.snoopIn; try dsimp only
  with_reducible
    repeat' first
      | assumption | exact within_trans (by decide +kernel) hm0 | exact within_trans (by decide +kernel) hw0
      | apply State.arrive_keeps | apply State.snoop_keeps | apply Keeps.ite | split | dsimp only | apply within_ite

theorem execInvalidate_keeps {mP wF : Nat} {r0 : State} (m : Msg) (s : State) (hk : Keeps mP wF r0 s) (hm0 : within 0x2019c3f mP) (hw0 : within 0xc1f0084000000000000200000000000000000000000000000000000000000000000000001000418c0000000000000000000000000000000000 wF) : Keeps.Res mP wF r0 (execInvalidate m s) := by
  unfold execInvalidate; try dsimp only
  with_reducible
    repeat' first
      | assumption | exact within_trans (by decide +kernel) hm0 | exact within_trans (by decide +kernel) hw0
      | apply State.snoopIn_keeps | apply Keeps.next

theorem execRecall_keeps {mP wF : Nat} {r0 : State} (m : Msg) (s : State) (hk : Keeps mP wF r0 s) (hm0 : within 0x2019c3f mP) (hw0 : within 0xc1f0084000000000000200000000000000000000000000000000000000000000000000001000418c0000000000000000000000000000000000 wF) : Keeps.Res mP wF r0 (execRecall m s) := by
  unfold execRecall; try dsimp only
  with_reducible
    repeat' first
      | assumption | exact within_trans (by decide +kernel) hm0 | exact within_trans (by decide +kernel) hw0
      | apply State.snoopIn_keeps | apply Keeps.next

theorem execDowngrade_keeps {mP wF : Nat} {r0 : State} (m : Msg) (s : State) (hk : Keeps mP wF r0 s) (hm0 : within 0x2019c3f mP) (hw0 : within 0xc1f0084000000000000200000000000000000000000000000000000000000000000000001000418c0000000000000000000000000000000000 wF) : Keeps.Res mP wF r0 (execDowngrade m s) := by
  unfold execDowngrade; try dsimp only
  with_reducible
    repeat' first
      | assumption | exact within_trans (by decide +kernel) hm0 | exact within_trans (by decide +kernel) hw0
      | apply State.snoopIn_keeps | apply Keeps.next

theorem State.unpark_keeps {mP wF : Nat} {r0 : State} (s : State) (g : Nat) (la : Nat) (hk : Keeps mP wF r0 s) (hm0 : within 0x2019c3f mP) (hw0 : within 0xc1f0084000000000000200000000000000000000000000000000000000000000000000001000418c0000000000000000000000000000000000 wF) : Keeps mP wF r0 (State.unpark s g la) := by
  unfold State.unpark; try dsimp only
  with_reducible
    repeat' first
      | intro _ | assumption | exact within_trans (by decide +kernel) hm0 | exact within_trans (by decide +kernel) hw0
      | apply State.updCore_keeps | apply State.snoop_keeps | apply Keeps.foldl | apply Keeps.foldlFst | dsimp only

theorem execInvAck_keeps {mP wF : Nat} {r0 : State} (m : Msg) (s : State) (hk : Keeps mP wF r0 s) (hm0 : within 0x6019831 mP) (hw0 : within 0xc1f00840000000000002000000000000000000000000000000000000000000070fc00000000000000000000000000000000000000000000000 wF) : Keeps.Res mP wF r0 (execInvAck m s) := by
  unfold execInvAck; try dsimp only
  with_reducible
    repeat' first
      | assumption | exact within_trans (by decide +kernel) hm0 | exact within_trans (by decide +kernel) hw0
      | apply State.arrive_keeps | apply State.setTrk_keeps | apply State.checkTrk_keeps | apply Keeps.next
      | apply Keeps.ite | apply Keeps.iteFst | split | dsimp only | apply within_ite

theorem execRecallAck_keeps {mP wF : Nat} {r0 : State} (m : Msg) (s : State) (hk : Keeps mP wF r0 s) (hm0 : within 0x6019831 mP) (hw0 : within 0xc1f00840000000000002000000000000000000000000000000000000000000070fc00000000000000000000000000000000000000000000000 wF) : Keeps.Res mP wF r0 (execRecallAck m s) := by
  unfold execRecallAck; try dsimp only
  with_reducible
    repeat' first
      | assumption | exact within_trans (by decide +kernel) hm0 | exact within_trans (by decide +kernel) hw0
      | apply State.arrive_keeps | apply State.setTrk_keeps | apply State.checkTrk_keeps | apply Keeps.next
      | apply Keeps.ite | apply Keeps.iteFst | split | dsimp only | apply within_ite

theorem execSnoopRetryResend_keeps {mP wF : Nat} {r0 : State} (h : Half) (la : LineAddr) (d : Die) (s : State) (hk : Keeps mP wF r0 s) (hm0 : within 0x19001 mP) (hw0 : within 0x8400000000000000000000000000000000000000000000000000000000700c00000000000000000000000000000000000000000000000 wF) : Keeps.Res mP wF r0 (execSnoopRetryResend h la d s) := by
  unfold execSnoopRetryResend; try dsimp only
  with_reducible
    repeat' first
      | intro _ | assumption | exact within_trans (by decide +kernel) hm0 | exact within_trans (by decide +kernel) hw0
      | apply State.setTrk_keeps | apply State.snoopOut_keeps | apply Keeps.next | split | dsimp only

theorem execRdDone_keeps {mP wF : Nat} {r0 : State} (m : Msg) (s : State) (hk : Keeps mP wF r0 s) (hm0 : within 0x6019831 mP) (hw0 : within 0xc1f00840000000000002000000000000000000000000000000000000000000070fc00000000000000000000000000000000000000000000000 wF) : Keeps.Res mP wF r0 (execRdDone m s) := by
  unfold execRdDone; try dsimp only
  with_reducible
    repeat' first
      | assumption | exact within_trans (by decide +kernel) hm0 | exact within_trans (by decide +kernel) hw0
      | apply State.arrive_keeps | apply State.record_keeps | apply State.recordPush_keeps
      | apply State.bankDone_keeps | apply State.finishLine_keeps | apply Keeps.next | apply Keeps.ite
      | apply Keeps.iteFst | split | dsimp only | apply within_ite

theorem execWrDone_keeps {mP wF : Nat} {r0 : State} (m : Msg) (s : State) (hk : Keeps mP wF r0 s) (hm0 : within 0x6019831 mP) (hw0 : within 0xc1f00840000000000002000000000000000000000000000000000000000000070fc00000000000000000000000000000000000000000000000 wF) : Keeps.Res mP wF r0 (execWrDone m s) := by
  unfold execWrDone; try dsimp only
  with_reducible
    repeat' first
      | assumption | exact within_trans (by decide +kernel) hm0 | exact within_trans (by decide +kernel) hw0
      | apply State.arrive_keeps | apply State.bankDone_keeps | apply State.finishLine_keeps | apply Keeps.next
      | apply Keeps.ite | apply Keeps.iteFst | split | dsimp only | apply within_ite

theorem State.ownerWrote_keeps {mP wF : Nat} {r0 : State} (s : State) (h : Nat) (la : Nat) (m : Msg) (hk : Keeps mP wF r0 s) (hm0 : within 0x6019831 mP) (hw0 : within 0xc1f00840000000000002000000000000000000000000000000000000000000070fc00000000000000000000000000000000000000000000000 wF) : Keeps mP wF r0 (State.ownerWrote s h la m) := by
  unfold State.ownerWrote; try dsimp only
  with_reducible
    repeat' first
      | assumption | exact within_trans (by decide +kernel) hm0 | exact within_trans (by decide +kernel) hw0
      | apply State.entryLeft_keeps | apply Keeps.ite | split | dsimp only | apply within_ite

theorem execWbAccepted_keeps {mP wF : Nat} {r0 : State} (m : Msg) (s : State) (hk : Keeps mP wF r0 s) (hm0 : within 0x6019831 mP) (hw0 : within 0xc1f00840000000000002000000000000000000000000000000000000000000070fc00000000000000000000000000000000000000000000000 wF) : Keeps.Res mP wF r0 (execWbAccepted m s) := by
  unfold execWbAccepted; try dsimp only
  with_reducible
    repeat' first
      | assumption | exact within_trans (by decide +kernel) hm0 | exact within_trans (by decide +kernel) hw0
      | apply State.hold_keeps | apply State.send_keeps | apply State.arrive_keeps | apply State.checkTrk_keeps
      | apply State.ownerWrote_keeps | apply Keeps.next | apply Keeps.ite | apply Keeps.iteFst | split | dsimp only
      | apply within_ite

theorem State.ioDrop_keeps {mP wF : Nat} {r0 : State} (s : State) (x : IoTx) (hk : Keeps mP wF r0 s) (hm0 : within 0x20000 mP) : Keeps mP wF r0 (State.ioDrop s x) := by
  unfold State.ioDrop; try dsimp only
  with_reducible
    repeat' first
      | intro _ | assumption | exact within_trans (by decide +kernel) hm0 | apply State.updIo_keeps | dsimp only

theorem State.ioData_keeps {mP wF : Nat} {r0 : State} (s : State) (m : Msg) (hk : Keeps mP wF r0 s) (hm0 : within 0x2c29c31 mP) (hw0 : within 0xc1f0084000000000000a00000000000000000008001ec200000000000000000000000000000000000000000000000400000000000000000000 wF) : Keeps mP wF r0 (State.ioData s m) := by
  unfold State.ioData; try dsimp only
  with_reducible
    repeat' first
      | assumption | exact within_trans (by decide +kernel) hm0 | exact within_trans (by decide +kernel) hw0
      | apply State.casAnswer_keeps | apply State.guestComplete_keeps | apply State.peDone_keeps | apply Keeps.ite
      | split | dsimp only | apply within_ite

theorem State.wakeMisses_keeps {mP wF : Nat} {r0 : State} (s : State) (g : Nat) (la : Nat) (hk : Keeps mP wF r0 s) (hm0 : within 0x6019c3f mP) (hw0 : within 0xc1f008400000000000020000000000000000000000000000000000000000000000000000100018000000000000000000000000000000000000 wF) : Keeps mP wF r0 (State.wakeMisses s g la) := by
  unfold State.wakeMisses; try dsimp only
  with_reducible
    repeat' first
      | intro _ | assumption | exact within_trans (by decide +kernel) hm0 | exact within_trans (by decide +kernel) hw0
      | apply State.updCore_keeps | apply State.resend_keeps | apply State.fetchTry_keeps | apply State.loadTry_keeps
      | apply State.atomicDo_keeps | apply Keeps.ite | split | dsimp only | apply within_ite

theorem State.useOnce_keeps {mP wF : Nat} {r0 : State} (s : State) (g : Nat) (x : Miss) (poison : Bool) (data : Line) (hk : Keeps mP wF r0 s) (hm0 : within 0x4000400 mP) : Keeps mP wF r0 (State.useOnce s g x poison data) := by
  unfold State.useOnce; try dsimp only
  with_reducible
    repeat' first
      | intro _ | assumption | exact within_trans (by decide +kernel) hm0 | apply State.loadDone_keeps
      | apply State.loadPoison_keeps | apply State.fetchPoison_keeps | apply Keeps.ite | split | dsimp only

theorem State.useFill_keeps {mP wF : Nat} {r0 : State} (s : State) (g : Nat) (x : Miss) (own : Bool) (rz : Bool) (poison : Bool) (data : Line) (hk : Keeps mP wF r0 s) (hm0 : within 0x6019c3f mP) (hw0 : within 0xc1f0084000000000000200000000000000000000000000000000000000000000000000201000598c0000000000000000000000000000000000 wF) : Keeps.Opt mP wF r0 (State.useFill s g x own rz poison data) := by
  unfold State.useFill; try dsimp only
  with_reducible
    repeat' first
      | intro _ | assumption | exact within_trans (by decide +kernel) hm0 | exact within_trans (by decide +kernel) hw0
      | apply State.updCore_keeps | apply State.l2Inval_keeps | apply State.evictClean_keeps
      | apply State.l2Fill_keeps | apply State.drainInto_keeps | apply State.loadDone_keeps
      | apply State.fetchTry_keeps | apply State.loadTry_keeps | apply State.atomicDo_keeps | apply State.snoop_keeps
      | apply State.wakeMisses_keeps | apply State.useOnce_keeps | apply Keeps.optNone | apply Keeps.optSome
      | apply Keeps.foldl | apply Keeps.foldlFst | apply Keeps.ite | apply Keeps.iteFst | apply Keeps.iteOpt
      | exact Keeps.optNone | apply Keeps.optSome | refine Keeps.opt ?_ (by assumption) | split | dsimp only
      | apply within_ite

theorem State.pushIn_keeps {mP wF : Nat} {r0 : State} (s : State) (m : Msg) (hk : Keeps mP wF r0 s) (hm0 : within 0x4009401 mP) (hw0 : within 0x8400000000000000000000000000000000000000000000000000000000000000030300000000000000000000000000000000000000000 wF) : Keeps mP wF r0 (State.pushIn s m) := by
  unfold State.pushIn; try dsimp only
  with_reducible
    repeat' first
      | assumption | exact within_trans (by decide +kernel) hm0 | exact within_trans (by decide +kernel) hw0
      | apply State.bump_keeps | apply State.countCore_keeps | apply State.countDie_keeps
      | apply State.evictClean_keeps | apply State.dcFill_keeps | apply State.l2Fill_keeps | apply Keeps.ite
      | apply Keeps.iteOpt | exact Keeps.optNone | apply Keeps.optSome | refine Keeps.opt ?_ (by assumption)
      | exact Keeps.optNone | apply Keeps.optSome | split | dsimp only | apply within_ite

theorem State.dataIn_keeps {mP wF : Nat} {r0 : State} (s : State) (m : Msg) (hk : Keeps mP wF r0 s) (hm0 : within 0x6c39c3f mP) (hw0 : within 0xc1f0084000000000000a00000000000000000008001ec2000000000000000000000000303000598c0000000000000400000000000000000000 wF) : Keeps mP wF r0 (State.dataIn s m) := by
  unfold State.dataIn; try dsimp only
  with_reducible
    repeat' first
      | assumption | exact within_trans (by decide +kernel) hm0 | exact within_trans (by decide +kernel) hw0
      | apply State.arrive_keeps | apply State.evictClean_keeps | apply State.fillDefer_keeps
      | apply State.ioDrop_keeps | apply State.ioData_keeps | apply State.useFill_keeps | apply State.pushIn_keeps
      | apply Keeps.ite | apply Keeps.iteOpt | exact Keeps.optNone | apply Keeps.optSome
      | refine Keeps.opt ?_ (by assumption) | split | dsimp only | apply within_ite

theorem execData_keeps {mP wF : Nat} {r0 : State} (m : Msg) (s : State) (hk : Keeps mP wF r0 s) (hm0 : within 0x6c39c3f mP) (hw0 : within 0xc1f0084000000000000a00000000000000000008001ec2000000000000000000000000303000598c0000000000000400000000000000000000 wF) : Keeps.Res mP wF r0 (execData m s) := by
  unfold execData; try dsimp only
  with_reducible
    repeat' first
      | assumption | exact within_trans (by decide +kernel) hm0 | exact within_trans (by decide +kernel) hw0
      | apply State.dataIn_keeps | apply Keeps.next

theorem execDataBurst_keeps {mP wF : Nat} {r0 : State} (m0 : Msg) (m1 : Msg) (m2 : Msg) (m3 : Msg) (s : State) (hk : Keeps mP wF r0 s) (hm0 : within 0x6c39c3f mP) (hw0 : within 0xc1f0084000000000000a00000000000000000008001ec2000000000000000000000000303000598c0000000000000400000000000000000000 wF) : Keeps.Res mP wF r0 (execDataBurst m0 m1 m2 m3 s) := by
  unfold execDataBurst; try dsimp only
  with_reducible
    repeat' first
      | assumption | exact within_trans (by decide +kernel) hm0 | exact within_trans (by decide +kernel) hw0
      | apply State.dataIn_keeps | apply Keeps.next | apply Keeps.ite | apply Keeps.iteFst | split | dsimp only
      | apply within_ite

theorem execGrant_keeps {mP wF : Nat} {r0 : State} (m : Msg) (s : State) (hk : Keeps mP wF r0 s) (hm0 : within 0x6019c3f mP) (hw0 : within 0xc1f0084000000000000200000000000000000000000000000000000000000000000000201000598c0000000000000000000000000000000000 wF) : Keeps.Res mP wF r0 (execGrant m s) := by
  unfold execGrant; try dsimp only
  with_reducible
    repeat' first
      | intro _ | assumption | exact within_trans (by decide +kernel) hm0 | exact within_trans (by decide +kernel) hw0
      | apply State.updCore_keeps | apply State.arrive_keeps | apply State.evictClean_keeps | apply State.resend_keeps
      | apply State.fillDefer_keeps | apply State.useFill_keeps | apply Keeps.next | apply Keeps.ite
      | apply Keeps.iteFst | apply Keeps.iteOpt | exact Keeps.optNone | apply Keeps.optSome
      | refine Keeps.opt ?_ (by assumption) | split | dsimp only | apply within_ite

theorem execWbAck_keeps {mP wF : Nat} {r0 : State} (m : Msg) (s : State) (hk : Keeps mP wF r0 s) (hm0 : within 0x2019c3f mP) (hw0 : within 0xc1f0084000000000000200000000000000000000000000000000000000000000000000001000418c0000000000000000000000000000000000 wF) : Keeps.Res mP wF r0 (execWbAck m s) := by
  unfold execWbAck; try dsimp only
  with_reducible
    repeat' first
      | intro _ | assumption | exact within_trans (by decide +kernel) hm0 | exact within_trans (by decide +kernel) hw0
      | apply State.updCore_keeps | apply State.arrive_keeps | apply State.setL2_keeps | apply State.resend_keeps
      | apply State.hubSettle_keeps | apply State.unpark_keeps | apply Keeps.next | apply Keeps.ite
      | apply Keeps.iteFst | split | dsimp only | apply within_ite

theorem execWriteDone_keeps {mP wF : Nat} {r0 : State} (m : Msg) (s : State) (hk : Keeps mP wF r0 s) (hm0 : within 0x2c39c3f mP) (hw0 : within 0xc1f0084000000000000a00000000000000000008001ec200000000000000000000000000100000000000000000000400000000000000000000 wF) : Keeps.Res mP wF r0 (execWriteDone m s) := by
  unfold execWriteDone; try dsimp only
  with_reducible
    repeat' first
      | assumption | exact within_trans (by decide +kernel) hm0 | exact within_trans (by decide +kernel) hw0
      | apply State.casAnswer_keeps | apply State.arrive_keeps | apply State.guestComplete_keeps
      | apply State.peDone_keeps | apply State.commitAdvance_keeps | apply State.mbPop_keeps
      | apply State.ioDrop_keeps | apply Keeps.next | apply Keeps.ite | apply Keeps.iteFst | split | dsimp only
      | apply within_ite

theorem execMirDone_keeps {mP wF : Nat} {r0 : State} (m : Msg) (s : State) (hk : Keeps mP wF r0 s) (hm0 : within 0x49401 mP) (hw0 : within 0x8400000000000000000000000000000000000000000000000000000000000000000000000000000000000000000000000000000000000 wF) : Keeps.Res mP wF r0 (execMirDone m s) := by
  unfold execMirDone; try dsimp only
  with_reducible
    repeat' first
      | intro _ | assumption | exact within_trans (by decide +kernel) hm0 | exact within_trans (by decide +kernel) hw0
      | apply State.updTick_keeps | apply State.arrive_keeps | apply State.mcMirDone_keeps | apply Keeps.next
      | apply Keeps.ite | apply Keeps.iteFst | split | dsimp only | apply within_ite

theorem execPlaceDone_keeps {mP wF : Nat} {r0 : State} (m : Msg) (s : State) (hk : Keeps mP wF r0 s) (hm0 : within 0x8400 mP) : Keeps.Res mP wF r0 (execPlaceDone m s) := by
  unfold execPlaceDone; try dsimp only
  with_reducible
    repeat' first
      | intro _ | assumption | exact within_trans (by decide +kernel) hm0 | apply State.updCore_keeps
      | apply State.countCore_keeps | apply State.arrive_keeps | apply Keeps.next | apply Keeps.ite
      | apply Keeps.iteFst | split | dsimp only

theorem execNack_keeps {mP wF : Nat} {r0 : State} (m : Msg) (s : State) (hk : Keeps mP wF r0 s) (hm0 : within 0x29401 mP) (hw0 : within 0x8400000000000000000000000000000000000000000000000000000000000000000100000000000000000000000000000000000000000 wF) : Keeps.Res mP wF r0 (execNack m s) := by
  unfold execNack; try dsimp only
  with_reducible
    repeat' first
      | intro _ | assumption | exact within_trans (by decide +kernel) hm0 | exact within_trans (by decide +kernel) hw0
      | apply State.updCore_keeps | apply State.updIo_keeps | apply State.arrive_keeps | apply State.dieEvict_keeps
      | apply Keeps.next | apply Keeps.ite | apply Keeps.iteFst | split | dsimp only | apply within_ite

theorem execNackRetry_keeps {mP wF : Nat} {r0 : State} (m : Msg) (s : State) (hk : Keeps mP wF r0 s) (hm0 : within 0x29401 mP) (hw0 : within 0x8400000000000000000000000000000000000000000000000000000000000000000000000000000000000000000000000000000000000 wF) : Keeps.Res mP wF r0 (execNackRetry m s) := by
  unfold execNackRetry; try dsimp only
  with_reducible
    repeat' first
      | intro _ | assumption | exact within_trans (by decide +kernel) hm0 | exact within_trans (by decide +kernel) hw0
      | apply State.updCore_keeps | apply State.updIo_keeps | apply State.send_keeps | apply State.resend_keeps
      | apply Keeps.next | apply Keeps.ite | apply Keeps.iteFst | split | dsimp only | apply within_ite

theorem execWriteback_keeps {mP wF : Nat} {r0 : State} (m : Msg) (s : State) (hk : Keeps mP wF r0 s) (hm0 : within 0x2049c37 mP) (hw0 : within 0xc1f008400000000000020000000000000000000000000000000000000000000000000000000000000000000000000000000000000000000000 wF) : Keeps.Res mP wF r0 (execWriteback m s) := by
  unfold execWriteback; try dsimp only
  with_reducible
    repeat' first
      | assumption | exact within_trans (by decide +kernel) hm0 | exact within_trans (by decide +kernel) hw0
      | apply State.arrive_keeps | apply State.mcWriteback_keeps | apply Keeps.next | apply Keeps.ite
      | apply Keeps.iteFst | split | dsimp only | apply within_ite

theorem State.reportIn_keeps {mP wF : Nat} {r0 : State} (s : State) (h : Nat) (la : Nat) (d : Nat) (m : Bool) (hk : Keeps mP wF r0 s) (hm0 : within 0x4010000 mP) : Keeps.Opt mP wF r0 (State.reportIn s h la d m) := by
  unfold State.reportIn; try dsimp only
  with_reducible
    repeat' first
      | assumption | exact within_trans (by decide +kernel) hm0 | apply State.drawn_keeps
      | apply State.setDirEnt_keeps | apply Keeps.optNone | apply Keeps.optSome | apply Keeps.ite | apply Keeps.iteFst
      | apply Keeps.iteOpt | split | dsimp only

theorem State.setCensus_keeps {mP wF : Nat} {r0 : State} (s : State) (h : Nat) (b : Nat) (set : Nat) (hk : Keeps mP wF r0 s) (hm0 : within 0x6010831 mP) (hw0 : within 0xc1f000000000000000020000000000000000000000000000000000000000000000000000000000000000000000000000000000000000000000 wF) : Keeps mP wF r0 (State.setCensus s h b set) := by
  unfold State.setCensus; try dsimp only
  with_reducible
    repeat' first
      | intro _ | assumption | exact within_trans (by decide +kernel) hm0 | exact within_trans (by decide +kernel) hw0
      | apply State.logSec_keeps | apply State.updDir_keeps | apply State.reportIn_keeps | apply Keeps.foldl
      | apply Keeps.foldlFst | apply Keeps.ite | apply Keeps.iteOpt | exact Keeps.optNone | apply Keeps.optSome
      | refine Keeps.opt ?_ (by assumption) | split | dsimp only | apply within_ite

theorem State.retireColumn_keeps {mP wF : Nat} {r0 : State} (s : State) (h : Nat) (b : Nat) (w : Nat) (cause : Nat) (hk : Keeps mP wF r0 s) (hm0 : within 0x2099c37 mP) (hw0 : within 0xc1f008400000000000020000000000000000000000000000000000000000001800000000100000000000000000000000000000000000000000 wF) : Keeps mP wF r0 (State.retireColumn s h b w cause) := by
  unfold State.retireColumn; try dsimp only
  with_reducible
    repeat' first
      | intro _ | assumption | exact within_trans (by decide +kernel) hm0 | exact within_trans (by decide +kernel) hw0
      | apply State.put_keeps | apply State.recallLine_keeps | apply State.logSec_keeps | apply State.bermLog_keeps
      | apply State.retired_keeps | apply State.updDir_keeps | apply State.setDirEnt_keeps | apply Keeps.foldl
      | apply Keeps.foldlFst | apply Keeps.ite | split | dsimp only | apply within_ite

theorem execDirectoryColumnRetire_keeps {mP wF : Nat} {r0 : State} (h : Half) (bank : Fin 16) (way : Fin 26) (s : State) (hk : Keeps mP wF r0 s) (hm0 : within 0x2099c3f mP) (hw0 : within 0xc1f008400000000000020000000000000000000000000000000000000000001800000000100000000000000000000000000000000000000000 wF) : Keeps.Res mP wF r0 (execDirectoryColumnRetire h bank way s) := by
  unfold execDirectoryColumnRetire; try dsimp only
  with_reducible
    repeat' first
      | intro _ | assumption | exact within_trans (by decide +kernel) hm0 | exact within_trans (by decide +kernel) hw0
      | apply State.updBerm_keeps | apply State.logSec_keeps | apply State.finish_keeps
      | apply State.retireColumn_keeps | apply Keeps.next | apply Keeps.ite | apply Keeps.iteFst | split | dsimp only
      | apply within_ite

theorem execDirectoryEntryUe_keeps {mP wF : Nat} {r0 : State} (h : Half) (la : LineAddr) (s : State) (hk : Keeps mP wF r0 s) (hm0 : within 0x6010831 mP) (hw0 : within 0xc1f000000000000000020000000000000000000000000000000000000000000000000000000000000000000000000000000000000000000000 wF) : Keeps.Res mP wF r0 (execDirectoryEntryUe h la s) := by
  unfold execDirectoryEntryUe; try dsimp only
  with_reducible
    repeat' first
      | intro _ | assumption | exact within_trans (by decide +kernel) hm0 | exact within_trans (by decide +kernel) hw0
      | apply State.updDir_keeps | apply State.setDirEnt_keeps | apply State.setCensus_keeps | apply Keeps.next
      | apply Keeps.ite | apply Keeps.iteFst | split | dsimp only | apply within_ite

theorem execBcastSweep_keeps {mP wF : Nat} {r0 : State} (h : Half) (bank : Fin 16) (s : State) (hk : Keeps mP wF r0 s) (hm0 : within 0x6010831 mP) (hw0 : within 0xc1f000000000000000020000000000000000000000000000000000000000000000000000000000000000000000000000000000000000000000 wF) : Keeps.Res mP wF r0 (execBcastSweep h bank s) := by
  unfold execBcastSweep; try dsimp only
  with_reducible
    repeat' first
      | intro _ | assumption | exact within_trans (by decide +kernel) hm0 | exact within_trans (by decide +kernel) hw0
      | apply State.setCensus_keeps | apply Keeps.next | apply Keeps.foldl | apply Keeps.foldlFst | dsimp only

theorem State.reissue_keeps {mP wF : Nat} {r0 : State} (s : State) (h : Nat) (hk : Keeps mP wF r0 s) (hm0 : within 0x29401 mP) (hw0 : within 0x8400000000000000000000000000000000000000000000000000000000000000000000000000000000000000000000000000000000000 wF) : Keeps mP wF r0 (State.reissue s h) := by
  unfold State.reissue; try dsimp only
  with_reducible
    repeat' first
      | intro _ | assumption | exact within_trans (by decide +kernel) hm0 | exact within_trans (by decide +kernel) hw0
      | apply State.updCore_keeps | apply State.updIo_keeps | apply State.send_keeps | apply State.resend_keeps
      | apply Keeps.foldl | apply Keeps.foldlFst | apply Keeps.ite | split | dsimp only | apply within_ite

theorem State.takeHomes_keeps {mP wF : Nat} {r0 : State} (s : State) (h : Nat) (v : Nat) (hk : Keeps mP wF r0 s) (hm0 : within 0x2079c31 mP) (hw0 : within 0xc1f008400000000000020000000000000000000000000000000000000000000000040000000000000000000000000000000000000000000000 wF) : Keeps mP wF r0 (State.takeHomes s h v) := by
  unfold State.takeHomes; try dsimp only
  with_reducible
    repeat' first
      | intro _ | assumption | exact within_trans (by decide +kernel) hm0 | exact within_trans (by decide +kernel) hw0
      | apply State.put_keeps | apply State.updFabric_keeps | apply State.logSec_keeps | apply State.send_keeps
      | apply State.updDir_keeps | apply State.updMc_keeps | apply State.reissue_keeps | apply Keeps.foldl
      | apply Keeps.foldlFst | dsimp only

theorem State.dropHomed_keeps {mP wF : Nat} {r0 : State} (s : State) (h : Nat) (hk : Keeps mP wF r0 s) (hm0 : within 0x39401 mP) (hw0 : within 0x8400000000000000000000000000000000000000000000000000000000000000000100000000000000000000000000000000000000000 wF) : Keeps mP wF r0 (State.dropHomed s h) := by
  unfold State.dropHomed; try dsimp only
  with_reducible
    repeat' first
      | intro _ | assumption | exact within_trans (by decide +kernel) hm0 | exact within_trans (by decide +kernel) hw0
      | apply State.updFabric_keeps | apply State.l2Inval_keeps | apply State.dropDc_keeps | apply State.updDir_keeps
      | apply State.reissue_keeps | apply Keeps.foldl | apply Keeps.foldlFst | apply Keeps.ite | split | dsimp only
      | apply within_ite

theorem State.pairSync_keeps {mP wF : Nat} {r0 : State} (s : State) (hk : Keeps mP wF r0 s) (hm0 : within 0x1 mP) (hw0 : within 0x1000000000000000000000000000000000000000000000000000000000 wF) : Keeps mP wF r0 (State.pairSync s) := by
  unfold State.pairSync; try dsimp only
  with_reducible
    repeat' first
      | intro _ | assumption | exact within_trans (by decide +kernel) hm0 | exact within_trans (by decide +kernel) hw0
      | apply State.setFlag_keeps | apply Keeps.foldl | apply Keeps.foldlFst | split | dsimp only

theorem State.engineLoss_keeps {mP wF : Nat} {r0 : State} (s : State) (h : Nat) (es : List Nat) (hk : Keeps mP wF r0 s) (hm0 : within 0x2000e31 mP) (hw0 : within 0xc1f000000000000000020000000000000000000000000000000000000000000000000000000000000400000000000000000000000000000000 wF) : Keeps mP wF r0 (State.engineLoss s h es) := by
  unfold State.engineLoss; try dsimp only
  with_reducible
    repeat' first
      | intro _ | assumption | exact within_trans (by decide +kernel) hm0 | exact within_trans (by decide +kernel) hw0
      | apply State.handOver_keeps | apply State.encDown_keeps | apply Keeps.foldl | apply Keeps.foldlFst
      | apply Keeps.ite | split | dsimp only | apply within_ite

theorem State.halfLoss_keeps {mP wF : Nat} {r0 : State} (s : State) (h : Nat) (hk : Keeps mP wF r0 s) (hm0 : within 0x20ffeb1 mP) (hw0 : within 0xc1f008400000000000020000000000000000000000000000000000001000000000140000100000000400000000000000000000000000040000 wF) : Keeps mP wF r0 (State.halfLoss s h) := by
  unfold State.halfLoss; try dsimp only
  with_reducible
    repeat' first
      | intro _ | assumption | exact within_trans (by decide +kernel) hm0 | exact within_trans (by decide +kernel) hw0
      | apply State.setFlag_keeps | apply State.setHalf_keeps | apply State.logSec_keeps
      | apply State.standbyGone_keeps | apply State.bermLog_keeps | apply State.stopPolders_keeps
      | apply State.takeHomes_keeps | apply State.dropHomed_keeps | apply State.pairSync_keeps
      | apply State.engineLoss_keeps | apply Keeps.ite | split | dsimp only | apply within_ite

theorem execHubHalfLoss_keeps {mP wF : Nat} {r0 : State} (h : Half) (s : State) (hk : Keeps mP wF r0 s) (hm0 : within 0x20ffeb1 mP) (hw0 : within 0xc1f008400000000000020000000000000000000000000000000000001000000000140000100000000400000000000000000000000000040000 wF) : Keeps.Res mP wF r0 (execHubHalfLoss h s) := by
  unfold execHubHalfLoss; try dsimp only
  with_reducible
    repeat' first
      | assumption | exact within_trans (by decide +kernel) hm0 | exact within_trans (by decide +kernel) hw0
      | apply State.halfLoss_keeps | apply Keeps.next

theorem execCensus_keeps {mP wF : Nat} {r0 : State} (m : Msg) (s : State) (hk : Keeps mP wF r0 s) (hm0 : within 0x9001 mP) (hw0 : within 0x8400000000000000000000000000000000000000000000000000000000000000000000000000000000000000000000000000000000000 wF) : Keeps.Res mP wF r0 (execCensus m s) := by
  unfold execCensus; try dsimp only
  with_reducible
    repeat' first
      | intro _ | assumption | exact within_trans (by decide +kernel) hm0 | exact within_trans (by decide +kernel) hw0
      | apply State.send_keeps | apply State.arrive_keeps | apply Keeps.next | apply Keeps.foldl
      | apply Keeps.foldlFst | apply Keeps.ite | apply Keeps.iteFst | split | dsimp only | apply within_ite

theorem execCensusReport_keeps {mP wF : Nat} {r0 : State} (m : Msg) (s : State) (hk : Keeps mP wF r0 s) (hm0 : within 0x4019001 mP) (hw0 : within 0x8400000000000000000000000000000000000000000000000000000000000000000000000000000000000000000000000000000000000 wF) : Keeps.Res mP wF r0 (execCensusReport m s) := by
  unfold execCensusReport; try dsimp only
  with_reducible
    repeat' first
      | intro _ | assumption | exact within_trans (by decide +kernel) hm0 | exact within_trans (by decide +kernel) hw0
      | apply State.send_keeps | apply State.arrive_keeps | apply State.updDir_keeps | apply State.reportIn_keeps
      | apply Keeps.next | apply Keeps.ite | apply Keeps.iteFst | apply Keeps.iteOpt | exact Keeps.optNone
      | apply Keeps.optSome | refine Keeps.opt ?_ (by assumption) | split | dsimp only | apply within_ite

theorem execCensusComplete_keeps {mP wF : Nat} {r0 : State} (h : Half) (s : State) (hk : Keeps mP wF r0 s) (hm0 : within 0x6019831 mP) (hw0 : within 0xc1f0084000000000000200000000000000000000000000000000000000000007ffc40000000000000000000000000400000000000000000000 wF) : Keeps.Res mP wF r0 (execCensusComplete h s) := by
  unfold execCensusComplete; try dsimp only
  with_reducible
    repeat' first
      | intro _ | assumption | exact within_trans (by decide +kernel) hm0 | exact within_trans (by decide +kernel) hw0
      | apply State.put_keeps | apply State.logSec_keeps | apply State.updDir_keeps | apply State.syncBank_keeps
      | apply State.bankRequest_keeps | apply Keeps.next | apply Keeps.foldl | apply Keeps.foldlFst | apply Keeps.ite
      | apply Keeps.iteFst | split | dsimp only | apply within_ite

theorem execHomesHandBack_keeps {mP wF : Nat} {r0 : State} (h : Half) (bank : Fin 16) (s : State) (hk : Keeps mP wF r0 s) (hm0 : within 0x201fc37 mP) (hw0 : within 0xc1f008400000000000020000000000000000000000000000000000000000000000140000100000000000000000000000000000000000000000 wF) : Keeps.Res mP wF r0 (execHomesHandBack h bank s) := by
  unfold execHomesHandBack; try dsimp only
  with_reducible
    repeat' first
      | intro _ | assumption | exact within_trans (by decide +kernel) hm0 | exact within_trans (by decide +kernel) hw0
      | apply State.put_keeps | apply State.setFlag_keeps | apply State.setHalf_keeps | apply State.recallLine_keeps
      | apply State.logSec_keeps | apply State.updDir_keeps | apply State.setDirEnt_keeps | apply Keeps.next
      | apply Keeps.foldl | apply Keeps.foldlFst | apply Keeps.ite | apply Keeps.iteFst | split | dsimp only
      | apply within_ite

theorem execHubHeartbeat_keeps {mP wF : Nat} {r0 : State} (h : Half) (spine : Bool) (transit : Bool) (s : State) (hk : Keeps mP wF r0 s) (hm0 : within 0x10000 mP) : Keeps.Res mP wF r0 (execHubHeartbeat h spine transit s) := by
  unfold execHubHeartbeat; try dsimp only
  with_reducible
    repeat' first
      | intro _ | assumption | exact within_trans (by decide +kernel) hm0 | apply State.updDir_keeps
      | apply Keeps.next | apply Keeps.ite | apply Keeps.iteFst | split | dsimp only

theorem State.spineDown_keeps {mP wF : Nat} {r0 : State} (s : State) (b : Bool) (hk : Keeps mP wF r0 s) (hm0 : within 0x2000831 mP) (hw0 : within 0xc1f000000000000000020000000000000000000000000000000000000000000000080000000000000000000000000000000000000000000000 wF) : Keeps mP wF r0 (State.spineDown s b) := by
  unfold State.spineDown; try dsimp only
  with_reducible
    repeat' first
      | assumption | exact within_trans (by decide +kernel) hm0 | exact within_trans (by decide +kernel) hw0
      | apply State.setFlag_keeps | apply State.logSec_keeps

theorem State.remapTransit_keeps {mP wF : Nat} {r0 : State} (s : State) (hk : Keeps mP wF r0 s) (hm0 : within 0x10000 mP) : Keeps mP wF r0 (State.remapTransit s) := by
  unfold State.remapTransit; try dsimp only
  with_reducible
    repeat' first
      | intro _ | assumption | exact within_trans (by decide +kernel) hm0 | apply State.updDir_keeps | dsimp only

theorem execSpineLoss_keeps {mP wF : Nat} {r0 : State} (s : State) (hk : Keeps mP wF r0 s) (hm0 : within 0x2010831 mP) (hw0 : within 0xc1f000000000000000020000000000000000000000000000000000000000000000080000000000000000000000000000000000000000000000 wF) : Keeps.Res mP wF r0 (execSpineLoss s) := by
  unfold execSpineLoss; try dsimp only
  with_reducible
    repeat' first
      | assumption | exact within_trans (by decide +kernel) hm0 | exact within_trans (by decide +kernel) hw0
      | apply State.spineDown_keeps | apply State.remapTransit_keeps | apply Keeps.next | apply Keeps.ite
      | apply Keeps.iteFst | split | dsimp only | apply within_ite

theorem execSpineRestore_keeps {mP wF : Nat} {r0 : State} (s : State) (hk : Keeps mP wF r0 s) (hm0 : within 0x2000831 mP) (hw0 : within 0xc1f000000000000000020000000000000000000000000000000000000000000000080000000000000000000000000000000000000000000000 wF) : Keeps.Res mP wF r0 (execSpineRestore s) := by
  unfold execSpineRestore; try dsimp only
  with_reducible
    repeat' first
      | assumption | exact within_trans (by decide +kernel) hm0 | exact within_trans (by decide +kernel) hw0
      | apply State.spineDown_keeps | apply Keeps.next | apply Keeps.ite | apply Keeps.iteFst | split | dsimp only
      | apply within_ite

theorem execTransitRemap_keeps {mP wF : Nat} {r0 : State} (s : State) (hk : Keeps mP wF r0 s) (hm0 : within 0x10000 mP) : Keeps.Res mP wF r0 (execTransitRemap s) := by
  unfold execTransitRemap; try dsimp only
  with_reducible
    repeat' first
      | assumption | exact within_trans (by decide +kernel) hm0 | apply State.remapTransit_keeps | apply Keeps.next

end Sys2Proof.Machine
end

