-- ==== Sys2Proof/Laws/KeepsLinks.lean ====
section
/-! SUPPORT. The operations of Machine/Links.lean keep the memory form, the field widths and the queue. -/

set_option Elab.async false
namespace Sys2Proof.Machine

theorem State.updLk_keeps {mP wF : Nat} {r0 : State} (s : State) (l : LinkEnd) (f : LkSt → LkSt) (hk : Keeps mP wF r0 s) (hm0 : within 0x200000 mP) : Keeps mP wF r0 (State.updLk s l f) := by
  unfold State.updLk; try dsimp only
  with_reducible
    repeat' first
      | assumption | exact within_trans (by decide +kernel) hm0 | apply Keeps.ite | split
      | refine Keeps.record ?_ rfl (fun p hp => by cases p <;> first | exact absurd (hp.symm.trans (within_bit hm0 (by decide +kernel))) Bool.false_ne_true | with_unfolding_all exact rfl)
      | dsimp only

theorem State.lkPut_keeps {mP wF : Nat} {r0 : State} (s : State) (l : LinkEnd) (hub : Fld) (die : Fld) (v : Nat) (hk : Keeps mP wF r0 s) (hhub : within hub.mask wF) (hdie : within die.mask wF) (hm0 : within 0x1 mP) : Keeps mP wF r0 (State.lkPut s l hub die v) := by
  unfold State.lkPut; try dsimp only
  with_reducible
    repeat' first
      | assumption | exact within_trans (by decide +kernel) hm0 | apply State.put_keeps | apply Keeps.ite | split
      | dsimp only

theorem State.lkBump_keeps {mP wF : Nat} {r0 : State} (s : State) (l : LinkEnd) (hub : Fld) (die : Fld) (hk : Keeps mP wF r0 s) (hhub : within hub.mask wF) (hdie : within die.mask wF) (hm0 : within 0x1 mP) : Keeps mP wF r0 (State.lkBump s l hub die) := by
  unfold State.lkBump; try dsimp only
  with_reducible
    repeat' first
      | assumption | exact within_trans (by decide +kernel) hm0 | apply State.bump_keeps | apply Keeps.ite | split
      | dsimp only

theorem State.bothEnds_keeps {mP wF : Nat} {r0 : State} (s : State) (h : Half) (m : Fin 13) (f : State → LinkEnd → State) (hk : Keeps mP wF r0 s) (hf : ∀ x0 x1, Keeps mP wF r0 x0 → Keeps mP wF r0 (f x0 x1)) : Keeps mP wF r0 (State.bothEnds s h m f) := by
  unfold State.bothEnds; try dsimp only
  with_reducible
    repeat' first
      | assumption | apply hf | refine Keeps.fst ?_ (by assumption)

theorem State.setModState_keeps {mP wF : Nat} {r0 : State} (s : State) (h : Half) (m : Fin 13) (v : Nat) (hk : Keeps mP wF r0 s) (hm0 : within 0x200001 mP) (hw0 : within 0x100008000000000000000000000000000000000000000000000000000000000000 wF) : Keeps mP wF r0 (State.setModState s h m v) := by
  unfold State.setModState; try dsimp only
  with_reducible
    repeat' first
      | intro _ | assumption | exact within_trans (by decide +kernel) hm0 | exact within_trans (by decide +kernel) hw0
      | apply State.updLk_keeps | apply State.lkPut_keeps | apply State.bothEnds_keeps | apply Keeps.ite | split
      | dsimp only | apply within_ite

theorem State.sendFlit_keeps {mP wF : Nat} {r0 : State} (s : State) (l : LinkEnd) (kind : Nat) (seq : Nat) (body : List Nat) (hk : Keeps mP wF r0 s) (hm0 : within 0x2000000 mP) : Keeps mP wF r0 (State.sendFlit s l kind seq body) := by
  unfold State.sendFlit; try dsimp only
  with_reducible
    repeat' first
      | assumption | exact within_trans (by decide +kernel) hm0 | apply State.emit_keeps

theorem State.sendMaint_keeps {mP wF : Nat} {r0 : State} (s : State) (l : LinkEnd) (mtype : Nat) (retry : Nat) (hk : Keeps mP wF r0 s) (hm0 : within 0x2000000 mP) : Keeps mP wF r0 (State.sendMaint s l mtype retry) := by
  unfold State.sendMaint; try dsimp only
  with_reducible
    repeat' first
      | intro _ | assumption | exact within_trans (by decide +kernel) hm0 | apply State.sendFlit_keeps | dsimp only

theorem State.adoptMaps_keeps {mP wF : Nat} {r0 : State} (s : State) (h : Half) (m : Fin 13) (tx : Nat) (rx : Nat) (hk : Keeps mP wF r0 s) (hm0 : within 0x200001 mP) (hw0 : within 0xc000600000000000000000000000000000000000000000000000000000000000000 wF) : Keeps mP wF r0 (State.adoptMaps s h m tx rx) := by
  unfold State.adoptMaps; try dsimp only
  with_reducible
    repeat' first
      | intro _ | assumption | exact within_trans (by decide +kernel) hm0 | exact within_trans (by decide +kernel) hw0
      | apply State.updLk_keeps | apply State.lkPut_keeps | dsimp only

theorem State.noteMap_keeps {mP wF : Nat} {r0 : State} (s : State) (h : Half) (m : Fin 13) (rx : Bool) (old : Nat) (new : Nat) (hk : Keeps mP wF r0 s) (hm0 : within 0x2080831 mP) (hw0 : within 0xc1f000000000000000020000000000000000000000000000000000000000000000000000000000000000000000000000000000000000000000 wF) : Keeps mP wF r0 (State.noteMap s h m rx old new) := by
  unfold State.noteMap; try dsimp only
  with_reducible
    repeat' first
      | intro _ | assumption | exact within_trans (by decide +kernel) hm0 | exact within_trans (by decide +kernel) hw0
      | apply State.logSec_keeps | apply State.bermLog_keeps | apply Keeps.foldl | apply Keeps.foldlFst
      | apply Keeps.ite | split | dsimp only | apply within_ite

theorem State.syncPath_keeps {mP wF : Nat} {r0 : State} (s : State) (d : Fin 12) (hk : Keeps mP wF r0 s) (hm0 : within 0x1 mP) (hw0 : within 0x200000000000000000000000000000000000000000000000 wF) : Keeps mP wF r0 (State.syncPath s d) := by
  unfold State.syncPath; try dsimp only
  with_reducible
    repeat' first
      | intro _ | assumption | exact within_trans (by decide +kernel) hm0 | exact within_trans (by decide +kernel) hw0
      | apply State.put_keeps | dsimp only

theorem State.pathsOf_keeps {mP wF : Nat} {r0 : State} (s : State) (m : Fin 13) (hk : Keeps mP wF r0 s) (hm0 : within 0x10001 mP) (hw0 : within 0x200000000000000000000000000000000000000000000000 wF) : Keeps mP wF r0 (State.pathsOf s m) := by
  unfold State.pathsOf; try dsimp only
  with_reducible
    repeat' first
      | assumption | exact within_trans (by decide +kernel) hm0 | exact within_trans (by decide +kernel) hw0
      | apply State.remapTransit_keeps | apply State.syncPath_keeps | apply Keeps.ite | split | dsimp only
      | apply within_ite

theorem State.moduleLost_keeps {mP wF : Nat} {r0 : State} (s : State) (h : Half) (m : Fin 13) (cause : Nat) (hk : Keeps mP wF r0 s) (hm0 : within 0x2610831 mP) (hw0 : within 0xc1f000000000000000020000000000000000000000028000100008000000000000200000000000000000000000000000000000000000000000 wF) : Keeps mP wF r0 (State.moduleLost s h m cause) := by
  unfold State.moduleLost; try dsimp only
  with_reducible
    repeat' first
      | intro _ | assumption | exact within_trans (by decide +kernel) hm0 | exact within_trans (by decide +kernel) hw0
      | apply State.logSec_keeps | apply State.guestLoss_keeps | apply State.updLk_keeps
      | apply State.setModState_keeps | apply State.pathsOf_keeps | apply Keeps.ite | split | dsimp only
      | apply within_ite

theorem execLinkModuleLoss_keeps {mP wF : Nat} {r0 : State} (h : Half) (m : Fin 13) (cause : Fin 3) (s : State) (hk : Keeps mP wF r0 s) (hm0 : within 0x2610831 mP) (hw0 : within 0xc1f000000000000000020000000000000000000000028000100008000000000000200000000000000000000000000000000000000000000000 wF) : Keeps.Res mP wF r0 (execLinkModuleLoss h m cause s) := by
  unfold execLinkModuleLoss; try dsimp only
  with_reducible
    repeat' first
      | assumption | exact within_trans (by decide +kernel) hm0 | exact within_trans (by decide +kernel) hw0
      | apply State.moduleLost_keeps | apply Keeps.next | apply Keeps.ite | apply Keeps.iteFst | split | dsimp only
      | apply within_ite

theorem State.countFlit_keeps {mP wF : Nat} {r0 : State} (s : State) (l : LinkEnd) (ev : Nat) (hk : Keeps mP wF r0 s) (hm0 : within 0x1 mP) (hw0 : within 0x8000000000000000000000000000000000000000000000000000000000000000000000000000000000000000000000000000000000000 wF) : Keeps mP wF r0 (State.countFlit s l ev) := by
  unfold State.countFlit; try dsimp only
  with_reducible
    repeat' first
      | assumption | exact within_trans (by decide +kernel) hm0 | exact within_trans (by decide +kernel) hw0
      | apply State.countDie_keeps | apply Keeps.ite | split | dsimp only | apply within_ite

theorem State.resendFrom_keeps {mP wF : Nat} {r0 : State} (s : State) (l : LinkEnd) (p : Nat × Nat × List Msg → Bool) (hk : Keeps mP wF r0 s) (hm0 : within 0x2000001 mP) (hw0 : within 0x8000000000000000000000000000000000000000000000000000000000000000000000000000000000000000000000000000000000000 wF) : Keeps mP wF r0 (State.resendFrom s l p) := by
  unfold State.resendFrom; try dsimp only
  with_reducible
    repeat' first
      | intro _ | assumption | exact within_trans (by decide +kernel) hm0 | exact within_trans (by decide +kernel) hw0
      | apply State.sendFlit_keeps | apply State.countFlit_keeps | apply Keeps.foldl | apply Keeps.foldlFst
      | dsimp only

theorem State.resendAll_keeps {mP wF : Nat} {r0 : State} (s : State) (l : LinkEnd) (hk : Keeps mP wF r0 s) (hm0 : within 0x2200001 mP) (hw0 : within 0x8000000000000000000000000000000000000000000000000000000000000000000000000000000000000000000000000000000000000 wF) : Keeps mP wF r0 (State.resendAll s l) := by
  unfold State.resendAll; try dsimp only
  with_reducible
    repeat' first
      | intro _ | assumption | exact within_trans (by decide +kernel) hm0 | exact within_trans (by decide +kernel) hw0
      | apply State.updLk_keeps | apply State.resendFrom_keeps | dsimp only

theorem State.laneTest_keeps {mP wF : Nat} {r0 : State} (s : State) (h : Half) (m : Fin 13) (t : LaneTest) (hk : Keeps mP wF r0 s) (hm0 : within 0x2690831 mP) (hw0 : within 0xc1f00000000000000002000000000000000000000002800c100608000000000000200000000000000000000000000000000000000000000000 wF) : Keeps mP wF r0 (State.laneTest s h m t).1 := by
  unfold State.laneTest; try dsimp only
  with_reducible
    repeat' first
      | assumption | exact within_trans (by decide +kernel) hm0 | exact within_trans (by decide +kernel) hw0
      | apply State.adoptMaps_keeps | apply State.noteMap_keeps | apply State.moduleLost_keeps | apply Keeps.ite
      | apply Keeps.iteFst | split | dsimp only | apply within_ite

theorem State.retrain_keeps {mP wF : Nat} {r0 : State} (s : State) (h : Half) (m : Fin 13) (cause : Nat) (t : LaneTest) (hk : Keeps mP wF r0 s) (hm0 : within 0x2690831 mP) (hw0 : within 0xc1f00800000000000002000000000000000000000002804e102708000000000000200000000000000000000000000000000000000000000000 wF) : Keeps mP wF r0 (State.retrain s h m cause t).1 := by
  unfold State.retrain; try dsimp only
  with_reducible
    repeat' first
      | intro _ | assumption | exact within_trans (by decide +kernel) hm0 | exact within_trans (by decide +kernel) hw0
      | apply State.updLk_keeps | apply State.lkPut_keeps | apply State.lkBump_keeps | apply State.bothEnds_keeps
      | apply State.resendAll_keeps | apply State.laneTest_keeps | apply Keeps.ite | apply Keeps.iteFst
      | refine Keeps.fst ?_ (by assumption) | split | dsimp only | apply within_ite

theorem State.awake_keeps {mP wF : Nat} {r0 : State} (s : State) (h : Half) (m : Fin 13) (hk : Keeps mP wF r0 s) (hm0 : within 0x200001 mP) (hw0 : within 0x100008000000000000000000000000000000000000000000000000000000000000 wF) : Keeps mP wF r0 (State.awake s h m) := by
  unfold State.awake; try dsimp only
  with_reducible
    repeat' first
      | assumption | exact within_trans (by decide +kernel) hm0 | exact within_trans (by decide +kernel) hw0
      | apply State.setModState_keeps | apply Keeps.ite | split | dsimp only | apply within_ite

theorem execLaneTest_keeps {mP wF : Nat} {r0 : State} (h : Half) (m : Fin 13) (test : LaneTest) (s : State) (hk : Keeps mP wF r0 s) (hm0 : within 0x2690831 mP) (hw0 : within 0xc1f00800000000000002000000000000000000000002804e102708000000000000200000000000000000000000000000000000000000000000 wF) : Keeps.Res mP wF r0 (execLaneTest h m test s) := by
  unfold execLaneTest; try dsimp only
  with_reducible
    repeat' first
      | assumption | exact within_trans (by decide +kernel) hm0 | exact within_trans (by decide +kernel) hw0
      | apply State.retrain_keeps | apply Keeps.next | apply Keeps.ite | apply Keeps.iteFst
      | refine Keeps.fst ?_ (by assumption) | split | dsimp only | apply within_ite

theorem State.retrainWrite_keeps {mP wF : Nat} {r0 : State} (s : State) (l : LinkEnd) (t : LaneTest) (hk : Keeps mP wF r0 s) (hm0 : within 0x2690831 mP) (hw0 : within 0xc1f00800000000000002000000000000000000000002804e102708000000000000200000000000000000000000000000000000000000000000 wF) : Keeps mP wF r0 (State.retrainWrite s l t) := by
  unfold State.retrainWrite; try dsimp only
  with_reducible
    repeat' first
      | assumption | exact within_trans (by decide +kernel) hm0 | exact within_trans (by decide +kernel) hw0
      | apply State.retrain_keeps | apply State.awake_keeps | apply Keeps.ite | refine Keeps.fst ?_ (by assumption)
      | split | dsimp only | apply within_ite

theorem execLkRetrain_keeps {mP wF : Nat} {r0 : State} (a : Acc) (l : LinkEnd) (test : LaneTest) (s : State) (hk : Keeps mP wF r0 s) (hm0 : within 0x2690831 mP) (hw0 : within 0xc1f00800000000000002000000000000000000000002804e102708000000000000200000000000000000000000000400000000000000000000 wF) : Keeps.Res mP wF r0 (execLkRetrain a l test s) := by
  unfold execLkRetrain; try dsimp only
  with_reducible
    repeat' first
      | intro _ | assumption | exact within_trans (by decide +kernel) hm0 | exact within_trans (by decide +kernel) hw0
      | apply State.secureOnly_keeps | apply State.retrainWrite_keeps | apply Keeps.next | apply Keeps.ite
      | apply Keeps.iteFst | split | dsimp only | apply within_ite

theorem execMapMismatch_keeps {mP wF : Nat} {r0 : State} (l : LinkEnd) (test : LaneTest) (s : State) (hk : Keeps mP wF r0 s) (hm0 : within 0x2690831 mP) (hw0 : within 0xc1f0080000000000000200000000000000000000000280ce106708000000000000200000000000000000000000000000000000000000000000 wF) : Keeps.Res mP wF r0 (execMapMismatch l test s) := by
  unfold execMapMismatch; try dsimp only
  with_reducible
    repeat' first
      | intro _ | assumption | exact within_trans (by decide +kernel) hm0 | exact within_trans (by decide +kernel) hw0
      | apply State.logSec_keeps | apply State.lkBump_keeps | apply State.bothEnds_keeps | apply State.retrain_keeps
      | apply State.awake_keeps | apply Keeps.next | apply Keeps.ite | apply Keeps.iteFst
      | refine Keeps.fst ?_ (by assumption) | split | dsimp only | apply within_ite

theorem State.linkReset_keeps {mP wF : Nat} {r0 : State} (s : State) (l : LinkEnd) (hk : Keeps mP wF r0 s) (hm0 : within 0x200000 mP) : Keeps mP wF r0 (State.linkReset s l) := by
  unfold State.linkReset; try dsimp only
  with_reducible
    repeat' first
      | intro _ | assumption | exact within_trans (by decide +kernel) hm0 | apply State.updLk_keeps | apply Keeps.ite
      | split | dsimp only

theorem execLinkTrain_keeps {mP wF : Nat} {r0 : State} (h : Half) (m : Fin 13) (good : Bool) (test : LaneTest) (s : State) (hk : Keeps mP wF r0 s) (hm0 : within 0x2280831 mP) (hw0 : within 0xc1f00000000000000002000000000000000000000000000c100608000000000000000000000000000000000000000000000000000000000000 wF) : Keeps.Res mP wF r0 (execLinkTrain h m good test s) := by
  unfold execLinkTrain; try dsimp only
  with_reducible
    repeat' first
      | intro _ | assumption | exact within_trans (by decide +kernel) hm0 | exact within_trans (by decide +kernel) hw0
      | apply State.updLk_keeps | apply State.bothEnds_keeps | apply State.setModState_keeps
      | apply State.sendMaint_keeps | apply State.adoptMaps_keeps | apply State.noteMap_keeps | apply Keeps.next
      | apply Keeps.ite | apply Keeps.iteFst | split | dsimp only | apply within_ite

theorem State.refusePeer_keeps {mP wF : Nat} {r0 : State} (s : State) (h : Half) (m : Fin 13) (o : CapOffer) (hk : Keeps mP wF r0 s) (hm0 : within 0x2201831 mP) (hw0 : within 0xc1f000000000000000020000000000000000000000000000100108000000000000000000000000000000000000000000000000000000000000 wF) : Keeps mP wF r0 (State.refusePeer s h m o) := by
  unfold State.refusePeer; try dsimp only
  with_reducible
    repeat' first
      | intro _ | assumption | exact within_trans (by decide +kernel) hm0 | exact within_trans (by decide +kernel) hw0
      | apply State.updDie_keeps | apply State.logSec_keeps | apply State.updLk_keeps | apply State.lkPut_keeps
      | apply State.setModState_keeps | apply Keeps.ite | split | dsimp only | apply within_ite

theorem State.startLink_keeps {mP wF : Nat} {r0 : State} (s : State) (l : LinkEnd) (level : Nat) (feats : Nat) (kind : Nat) (rev : Nat) (credits : List Nat) (hk : Keeps mP wF r0 s) (hm0 : within 0x200001 mP) (hw0 : within 0x1e000f0000000000000000000000000000000000000000000000000000000000000 wF) : Keeps mP wF r0 (State.startLink s l level feats kind rev credits) := by
  unfold State.startLink; try dsimp only
  with_reducible
    repeat' first
      | intro _ | assumption | exact within_trans (by decide +kernel) hm0 | exact within_trans (by decide +kernel) hw0
      | apply State.updLk_keeps | apply State.lkPut_keeps | dsimp only

theorem execCap_keeps {mP wF : Nat} {r0 : State} (h : Half) (m : Fin 13) (offer : CapOffer) (s : State) (hk : Keeps mP wF r0 s) (hm0 : within 0x2611831 mP) (hw0 : within 0xc1f000000000000000020000000000000000000000000001f001f8000000000000200000000000000000000000000000000000000000000000 wF) : Keeps.Res mP wF r0 (execCap h m offer s) := by
  unfold execCap; try dsimp only
  with_reducible
    repeat' first
      | intro _ | assumption | exact within_trans (by decide +kernel) hm0 | exact within_trans (by decide +kernel) hw0
      | apply State.logSec_keeps | apply State.updDike_keeps | apply State.setModState_keeps
      | apply State.pathsOf_keeps | apply State.refusePeer_keeps | apply State.startLink_keeps | apply Keeps.next
      | apply Keeps.ite | apply Keeps.iteFst | split | dsimp only | apply within_ite

theorem execModuleRetrainTry_keeps {mP wF : Nat} {r0 : State} (h : Half) (m : Fin 13) (good : Bool) (s : State) (hk : Keeps mP wF r0 s) (hm0 : within 0x2610831 mP) (hw0 : within 0xc1f008000000000000020000000000000000000000000042102108000000000000200000000000000000000000000000000000000000000000 wF) : Keeps.Res mP wF r0 (execModuleRetrainTry h m good s) := by
  unfold execModuleRetrainTry; try dsimp only
  with_reducible
    repeat' first
      | intro _ | assumption | exact within_trans (by decide +kernel) hm0 | exact within_trans (by decide +kernel) hw0
      | apply State.logSec_keeps | apply State.updDike_keeps | apply State.updLk_keeps | apply State.lkPut_keeps
      | apply State.lkBump_keeps | apply State.bothEnds_keeps | apply State.setModState_keeps
      | apply State.pathsOf_keeps | apply State.resendAll_keeps | apply Keeps.next | apply Keeps.ite
      | apply Keeps.iteFst | split | dsimp only | apply within_ite

theorem State.flitSent_keeps {mP wF : Nat} {r0 : State} (s : State) (l : LinkEnd) (f : Flit) (hk : Keeps mP wF r0 s) (hm0 : within 0x200001 mP) (hw0 : within 0x8000000000000000000000000000000000000000000000000000000000000000000000000000000000000000000000000000000000000 wF) : Keeps mP wF r0 (State.flitSent s l f) := by
  unfold State.flitSent; try dsimp only
  with_reducible
    repeat' first
      | intro _ | assumption | exact within_trans (by decide +kernel) hm0 | exact within_trans (by decide +kernel) hw0
      | apply State.updLk_keeps | apply State.countFlit_keeps | apply Keeps.ite | split | dsimp only
      | apply within_ite

theorem State.flitHeader_keeps {mP wF : Nat} {r0 : State} (s : State) (l : LinkEnd) (f : Flit) (hk : Keeps mP wF r0 s) (hm0 : within 0x200000 mP) : Keeps mP wF r0 (State.flitHeader s l f) := by
  unfold State.flitHeader; try dsimp only
  with_reducible
    repeat' first
      | intro _ | assumption | exact within_trans (by decide +kernel) hm0 | apply State.updLk_keeps | apply Keeps.ite
      | split | dsimp only

theorem State.askRetry_keeps {mP wF : Nat} {r0 : State} (s : State) (l : LinkEnd) (hk : Keeps mP wF r0 s) (hm0 : within 0x2200000 mP) : Keeps mP wF r0 (State.askRetry s l) := by
  unfold State.askRetry; try dsimp only
  with_reducible
    repeat' first
      | intro _ | assumption | exact within_trans (by decide +kernel) hm0 | apply State.updLk_keeps
      | apply State.sendMaint_keeps | apply Keeps.ite | split | dsimp only

theorem execFlitReceive_keeps {mP wF : Nat} {r0 : State} (l : LinkEnd) (f : Flit) (s : State) (hk : Keeps mP wF r0 s) (hm0 : within 0x2200001 mP) (hw0 : within 0x8000000000000000000000000000000000000000020001000000000000000000000000000000000000000000000000000000000000000 wF) : Keeps.Res mP wF r0 (execFlitReceive l f s) := by
  unfold execFlitReceive; try dsimp only
  with_reducible
    repeat' first
      | intro _ | assumption | exact within_trans (by decide +kernel) hm0 | exact within_trans (by decide +kernel) hw0
      | apply State.updLk_keeps | apply State.lkBump_keeps | apply State.flitSent_keeps | apply State.flitHeader_keeps
      | apply State.askRetry_keeps | apply Keeps.next | apply Keeps.ite | apply Keeps.iteFst | split | dsimp only
      | apply within_ite

theorem execRetryReq_keeps {mP wF : Nat} {r0 : State} (l : LinkEnd) (seq : BitVec 10) (s : State) (hk : Keeps mP wF r0 s) (hm0 : within 0x2000001 mP) (hw0 : within 0x8000000000000000000000000000000000000000010000800000000000000000000000000000000000000000000000000000000000000 wF) : Keeps.Res mP wF r0 (execRetryReq l seq s) := by
  unfold execRetryReq; try dsimp only
  with_reducible
    repeat' first
      | intro _ | assumption | exact within_trans (by decide +kernel) hm0 | exact within_trans (by decide +kernel) hw0
      | apply State.lkBump_keeps | apply State.resendFrom_keeps | apply Keeps.next | apply Keeps.ite
      | apply Keeps.iteFst | split | dsimp only | apply within_ite

theorem execRetryReqRepeat_keeps {mP wF : Nat} {r0 : State} (l : LinkEnd) (s : State) (hk : Keeps mP wF r0 s) (hm0 : within 0x2200000 mP) : Keeps.Res mP wF r0 (execRetryReqRepeat l s) := by
  unfold execRetryReqRepeat; try dsimp only
  with_reducible
    repeat' first
      | intro _ | assumption | exact within_trans (by decide +kernel) hm0 | apply State.updLk_keeps
      | apply State.sendMaint_keeps | apply Keeps.next | apply Keeps.ite | apply Keeps.iteFst | split | dsimp only

theorem execAckTimeoutResend_keeps {mP wF : Nat} {r0 : State} (l : LinkEnd) (s : State) (hk : Keeps mP wF r0 s) (hm0 : within 0x2200001 mP) (hw0 : within 0x8000000000000000000000000000000000000000000000000000000000000000000000000000000000000000000000000000000000000 wF) : Keeps.Res mP wF r0 (execAckTimeoutResend l s) := by
  unfold execAckTimeoutResend; try dsimp only
  with_reducible
    repeat' first
      | intro _ | assumption | exact within_trans (by decide +kernel) hm0 | exact within_trans (by decide +kernel) hw0
      | apply State.updLk_keeps | apply State.resendFrom_keeps | apply Keeps.next | apply Keeps.ite
      | apply Keeps.iteFst | split | dsimp only | apply within_ite

theorem execMapFlitSend_keeps {mP wF : Nat} {r0 : State} (l : LinkEnd) (s : State) (hk : Keeps mP wF r0 s) (hm0 : within 0x2000000 mP) : Keeps.Res mP wF r0 (execMapFlitSend l s) := by
  unfold execMapFlitSend; try dsimp only
  with_reducible
    repeat' first
      | assumption | exact within_trans (by decide +kernel) hm0 | apply State.sendMaint_keeps | apply Keeps.next
      | apply Keeps.ite | apply Keeps.iteFst | split | dsimp only

theorem execSleepIdleExpired_keeps {mP wF : Nat} {r0 : State} (l : LinkEnd) (s : State) (hk : Keeps mP wF r0 s) (hm0 : within 0x2200000 mP) : Keeps.Res mP wF r0 (execSleepIdleExpired l s) := by
  unfold execSleepIdleExpired; try dsimp only
  with_reducible
    repeat' first
      | intro _ | assumption | exact within_trans (by decide +kernel) hm0 | apply State.updLk_keeps
      | apply State.sendMaint_keeps | apply Keeps.next | apply Keeps.ite | apply Keeps.iteFst | split | dsimp only

theorem execSleepReq_keeps {mP wF : Nat} {r0 : State} (l : LinkEnd) (s : State) (hk : Keeps mP wF r0 s) (hm0 : within 0x2000000 mP) : Keeps.Res mP wF r0 (execSleepReq l s) := by
  unfold execSleepReq; try dsimp only
  with_reducible
    repeat' first
      | assumption | exact within_trans (by decide +kernel) hm0 | apply State.sendMaint_keeps | apply Keeps.next
      | apply Keeps.ite | apply Keeps.iteFst | split | dsimp only

theorem execSleepAck_keeps {mP wF : Nat} {r0 : State} (l : LinkEnd) (s : State) (hk : Keeps mP wF r0 s) (hm0 : within 0x200001 mP) (hw0 : within 0x100108008000000000000000000000000000000000000000000000000000000000000 wF) : Keeps.Res mP wF r0 (execSleepAck l s) := by
  unfold execSleepAck; try dsimp only
  with_reducible
    repeat' first
      | intro _ | assumption | exact within_trans (by decide +kernel) hm0 | exact within_trans (by decide +kernel) hw0
      | apply State.updLk_keeps | apply State.lkBump_keeps | apply State.bothEnds_keeps
      | apply State.setModState_keeps | apply Keeps.next | apply Keeps.ite | apply Keeps.iteFst | split | dsimp only
      | apply within_ite

theorem execLinkWake_keeps {mP wF : Nat} {r0 : State} (l : LinkEnd) (s : State) (hk : Keeps mP wF r0 s) (hm0 : within 0x200001 mP) (hw0 : within 0x100008000000000000000000000000000000000000000000000000000000000000 wF) : Keeps.Res mP wF r0 (execLinkWake l s) := by
  unfold execLinkWake; try dsimp only
  with_reducible
    repeat' first
      | assumption | exact within_trans (by decide +kernel) hm0 | exact within_trans (by decide +kernel) hw0
      | apply State.awake_keeps | apply Keeps.next

theorem State.wakeDie_keeps {mP wF : Nat} {r0 : State} (s : State) (d : Nat) (hk : Keeps mP wF r0 s) (hm0 : within 0x200001 mP) (hw0 : within 0x100008000000000000000000000000000000000000000000000000000000000000 wF) : Keeps mP wF r0 (State.wakeDie s d) := by
  unfold State.wakeDie; try dsimp only
  with_reducible
    repeat' first
      | assumption | exact within_trans (by decide +kernel) hm0 | exact within_trans (by decide +kernel) hw0
      | apply State.awake_keeps | apply Keeps.ite | split | dsimp only | apply within_ite

end Sys2Proof.Machine
end

