-- ==== Sys2Proof/Laws/KeepsIngest.lean ====
section
/-! SUPPORT. The operations of Machine/Ingest.lean keep the memory form, the field widths and the queue. -/

set_option Elab.async false
namespace Sys2Proof.Machine

theorem State.updIng_keeps {mP wF : Nat} {r0 : State} (s : State) (f : Ingest → Ingest) (hk : Keeps mP wF r0 s)
    (hm0 : within 0x100000 mP) : Keeps mP wF r0 (s.updIng f) :=
  Keeps.record hk rfl fun p hp => by
    cases p <;> first
      | exact rfl
      | exact absurd (hp.symm.trans (within_bit hm0 (by decide +kernel))) Bool.false_ne_true

theorem State.updStrm_keeps {mP wF : Nat} {r0 : State} (s : State) (a : Nat) (f : Strm → Strm) (hk : Keeps mP wF r0 s) (hm0 : within 0x100000 mP) : Keeps mP wF r0 (State.updStrm s a f) := by
  unfold State.updStrm; try dsimp only
  with_reducible
    repeat' first
      | intro _ | assumption | exact within_trans (by decide +kernel) hm0 | apply State.updIng_keeps | apply Keeps.ite
      | split | dsimp only

theorem State.syncStrm_keeps {mP wF : Nat} {r0 : State} (s : State) (a : Nat) (hk : Keeps mP wF r0 s) (hm0 : within 0x1 mP) (hw0 : within 0x1fc00000000000000000000000000000000000000000000000000000000 wF) : Keeps mP wF r0 (State.syncStrm s a) := by
  unfold State.syncStrm; try dsimp only
  with_reducible
    repeat' first
      | intro _ | assumption | exact within_trans (by decide +kernel) hm0 | exact within_trans (by decide +kernel) hw0
      | apply State.put_keeps | apply State.setFlag_keeps | apply Keeps.foldl | apply Keeps.foldlFst | apply Keeps.ite
      | split | dsimp only | apply within_ite

theorem State.headAbsent_keeps {mP wF : Nat} {r0 : State} (s : State) (x : Strm) (cause : Nat) (hk : Keeps mP wF r0 s) (hm0 : within 0x2100831 mP) (hw0 : within 0xc1f00000000000000002000000000000000000000000000000000001fc00000000000000000000000000000000000000000000000000000000 wF) : Keeps mP wF r0 (State.headAbsent s x cause) := by
  unfold State.headAbsent; try dsimp only
  with_reducible
    repeat' first
      | intro _ | assumption | exact within_trans (by decide +kernel) hm0 | exact within_trans (by decide +kernel) hw0
      | apply State.logPol_keeps | apply State.updStrm_keeps | apply State.syncStrm_keeps | apply Keeps.ite | split
      | dsimp only | apply within_ite

theorem State.headPresent_keeps {mP wF : Nat} {r0 : State} (s : State) (x : Strm) (hk : Keeps mP wF r0 s) (hm0 : within 0x2100831 mP) (hw0 : within 0xc1f00000000000000002000000000000000000000000000000000001fc00000000000000000000000000000000000000000000000000000000 wF) : Keeps mP wF r0 (State.headPresent s x) := by
  unfold State.headPresent; try dsimp only
  with_reducible
    repeat' first
      | intro _ | assumption | exact within_trans (by decide +kernel) hm0 | exact within_trans (by decide +kernel) hw0
      | apply State.logPol_keeps | apply State.updStrm_keeps | apply State.syncStrm_keeps | dsimp only

theorem State.discover_keeps {mP wF : Nat} {r0 : State} (s : State) (port : Nat) (sub : Nat) (hk : Keeps mP wF r0 s) (hm0 : within 0x2000000 mP) : Keeps mP wF r0 (State.discover s port sub) := by
  unfold State.discover; try dsimp only
  with_reducible
    repeat' first
      | assumption | exact within_trans (by decide +kernel) hm0 | apply State.emit_keeps | apply Keeps.ite | split
      | dsimp only

theorem execHeadLinkUp_keeps {mP wF : Nat} {r0 : State} (port : Fin 16) (sub : Fin 4) (s : State) (hk : Keeps mP wF r0 s) (hm0 : within 0x2000001 mP) (hw0 : within 0x30000000000000000000000000000000000000000000000000000 wF) : Keeps.Res mP wF r0 (execHeadLinkUp port sub s) := by
  unfold execHeadLinkUp; try dsimp only
  with_reducible
    repeat' first
      | assumption | exact within_trans (by decide +kernel) hm0 | exact within_trans (by decide +kernel) hw0
      | apply State.put_keeps | apply State.discover_keeps | apply Keeps.next | apply Keeps.ite | apply Keeps.iteFst
      | split | dsimp only | apply within_ite

theorem State.linkDown_keeps {mP wF : Nat} {r0 : State} (s : State) (port : Nat) (sub : Nat) (hk : Keeps mP wF r0 s) (hm0 : within 0x2100831 mP) (hw0 : within 0xc1f00000000000000002000000000000000000000000000000000001fc00230000000000000000000000000000000000000000000000000000 wF) : Keeps mP wF r0 (State.linkDown s port sub) := by
  unfold State.linkDown; try dsimp only
  with_reducible
    repeat' first
      | intro _ | assumption | exact within_trans (by decide +kernel) hm0 | exact within_trans (by decide +kernel) hw0
      | apply State.put_keeps | apply State.bump_keeps | apply State.headAbsent_keeps | apply Keeps.foldl
      | apply Keeps.foldlFst | apply Keeps.ite | split | dsimp only | apply within_ite

theorem execHeadLinkDown_keeps {mP wF : Nat} {r0 : State} (port : Fin 16) (sub : Fin 4) (s : State) (hk : Keeps mP wF r0 s) (hm0 : within 0x2100831 mP) (hw0 : within 0xc1f00000000000000002000000000000000000000000000000000001fc00230000000000000000000000000000000000000000000000000000 wF) : Keeps.Res mP wF r0 (execHeadLinkDown port sub s) := by
  unfold execHeadLinkDown; try dsimp only
  with_reducible
    repeat' first
      | assumption | exact within_trans (by decide +kernel) hm0 | exact within_trans (by decide +kernel) hw0
      | apply State.linkDown_keeps | apply Keeps.next

theorem execGvcpDiscovery_keeps {mP wF : Nat} {r0 : State} (port : Fin 16) (sub : Fin 4) (s : State) (hk : Keeps mP wF r0 s) (hm0 : within 0x2000000 mP) : Keeps.Res mP wF r0 (execGvcpDiscovery port sub s) := by
  unfold execGvcpDiscovery; try dsimp only
  with_reducible
    repeat' first
      | assumption | exact within_trans (by decide +kernel) hm0 | apply State.discover_keeps | apply Keeps.next

theorem execGvcpAnswer_keeps {mP wF : Nat} {r0 : State} (port : Fin 16) (sub : Fin 4) (ans : GvcpAnswer) (s : State) (hk : Keeps mP wF r0 s) (hm0 : within 0x2100831 mP) (hw0 : within 0xc1f000000000000000020000000000000000000000000000000000000000000000000000000000000000000000000000000000000000000000 wF) : Keeps.Res mP wF r0 (execGvcpAnswer port sub ans s) := by
  unfold execGvcpAnswer; try dsimp only
  with_reducible
    repeat' first
      | intro _ | assumption | exact within_trans (by decide +kernel) hm0 | exact within_trans (by decide +kernel) hw0
      | apply State.emit_keeps | apply State.logSec_keeps | apply State.logPol_keeps | apply State.updStrm_keeps
      | apply Keeps.next | apply Keeps.foldl | apply Keeps.foldlFst | apply Keeps.ite | apply Keeps.iteFst | split
      | dsimp only | apply within_ite

theorem execHeadHeartbeat_keeps {mP wF : Nat} {r0 : State} (stream : Fin 128) (answered : Bool) (ptpSlave : Bool) (s : State) (hk : Keeps mP wF r0 s) (hm0 : within 0x2100831 mP) (hw0 : within 0xc1f00000000000000002000000000000000000000000000000000001fc00000000000000000000000000000000000000000000000000000000 wF) : Keeps.Res mP wF r0 (execHeadHeartbeat stream answered ptpSlave s) := by
  unfold execHeadHeartbeat; try dsimp only
  with_reducible
    repeat' first
      | intro _ | assumption | exact within_trans (by decide +kernel) hm0 | exact within_trans (by decide +kernel) hw0
      | apply State.emit_keeps | apply State.updStrm_keeps | apply State.headAbsent_keeps | apply Keeps.next
      | apply Keeps.ite | apply Keeps.iteFst | split | dsimp only | apply within_ite

theorem State.foreign_keeps {mP wF : Nat} {r0 : State} (s : State) (port : Nat) (hk : Keeps mP wF r0 s) (hm0 : within 0x1 mP) (hw0 : within 0x100000000000000000000000000000000000000000000000000000 wF) : Keeps mP wF r0 (State.foreign s port) := by
  unfold State.foreign; try dsimp only
  with_reducible
    repeat' first
      | assumption | exact within_trans (by decide +kernel) hm0 | exact within_trans (by decide +kernel) hw0
      | apply State.bump_keeps

theorem execHeadFrame_keeps {mP wF : Nat} {r0 : State} (port : Fin 16) (sub : Fin 4) (f : HeadFrame) (s : State) (hk : Keeps mP wF r0 s) (hm0 : within 0x2000001 mP) (hw0 : within 0x1c0000000000000000000000000000000000000000000000000000 wF) : Keeps.Res mP wF r0 (execHeadFrame port sub f s) := by
  unfold execHeadFrame; try dsimp only
  with_reducible
    repeat' first
      | intro _ | assumption | exact within_trans (by decide +kernel) hm0 | exact within_trans (by decide +kernel) hw0
      | apply State.bump_keeps | apply State.emit_keeps | apply State.foreign_keeps | apply Keeps.next
      | apply Keeps.ite | apply Keeps.iteFst | split | dsimp only | apply within_ite

theorem State.servo_keeps {mP wF : Nat} {r0 : State} (s : State) (t1 : Nat) (t2 : Nat) (hk : Keeps mP wF r0 s) (hm0 : within 0x2000a31 mP) (hw0 : within 0xc1f000000000000000020000000000000000000000000000000000000000000000000000000000000000000000380000000000000000000000 wF) : Keeps mP wF r0 (State.servo s t1 t2) := by
  unfold State.servo; try dsimp only
  with_reducible
    repeat' first
      | assumption | exact within_trans (by decide +kernel) hm0 | exact within_trans (by decide +kernel) hw0
      | apply State.servoPhase_keeps | apply State.sourceLost_keeps | apply Keeps.ite | split | dsimp only
      | apply within_ite

theorem execPtpMessage_keeps {mP wF : Nat} {r0 : State} (port : Fin 16) (sub : Fin 4) (kind : PtpKind) (domain : BitVec 8) (body : Word) (s : State) (hk : Keeps mP wF r0 s) (hm0 : within 0x2100a31 mP) (hw0 : within 0xc1f000000000000000020000000000000000000000000000000000000000000000000000000000000000000000380000000000000000000000 wF) : Keeps.Res mP wF r0 (execPtpMessage port sub kind domain body s) := by
  unfold execPtpMessage; try dsimp only
  with_reducible
    repeat' first
      | intro _ | assumption | exact within_trans (by decide +kernel) hm0 | exact within_trans (by decide +kernel) hw0
      | apply State.emit_keeps | apply State.updIng_keeps | apply State.servo_keeps | apply Keeps.next
      | apply Keeps.ite | apply Keeps.iteFst | split | dsimp only | apply within_ite

theorem execPtpSyncSend_keeps {mP wF : Nat} {r0 : State} (port : Fin 16) (sub : Fin 4) (s : State) (hk : Keeps mP wF r0 s) (hm0 : within 0x2000000 mP) : Keeps.Res mP wF r0 (execPtpSyncSend port sub s) := by
  unfold execPtpSyncSend; try dsimp only
  with_reducible
    repeat' first
      | assumption | exact within_trans (by decide +kernel) hm0 | apply State.emit_keeps | apply Keeps.next
      | apply Keeps.ite | apply Keeps.iteFst | split | dsimp only

theorem State.pushTo_keeps {mP wF : Nat} {r0 : State} (s : State) (g : Nat) (la : Nat) (die : Bool) (pol : Nat) (hk : Keeps mP wF r0 s) (hm0 : within 0x4019401 mP) (hw0 : within 0x8400000000000000000000000000000000000000000000000000000000000000030300000000000000000000000000000000000000000 wF) : Keeps mP wF r0 (State.pushTo s g la die pol) := by
  unfold State.pushTo; try dsimp only
  with_reducible
    repeat' first
      | assumption | exact within_trans (by decide +kernel) hm0 | exact within_trans (by decide +kernel) hw0
      | apply State.recordPush_keeps | apply State.pushIn_keeps | apply Keeps.ite | split | dsimp only
      | apply within_ite

theorem State.ingWrite_keeps {mP wF : Nat} {r0 : State} (s : State) (x : Strm) (a : Nat) (bs : List Byte) (tgt : Option Nat)
    (n : Nat) (hk : Keeps mP wF r0 s) (hm0 : within 0x6019c3f mP) (hw0 : within 0xc1f008400000000000020000000000000000000000000000000000000000000000000030300000000000000000000400000000000000000000 wF) : Keeps mP wF r0 (s.ingWrite x a bs tgt n) := by
  induction n generalizing s a bs with
  | zero => exact hk
  | succ n ih =>
    unfold State.ingWrite
    refine ih _ _ _ ?_
    dsimp only
    repeat' first
      | with_reducible assumption
      | with_reducible apply State.refuse_keeps
      | with_reducible apply State.countHub_keeps
      | with_reducible apply State.pushTo_keeps
      | with_reducible apply State.writeBytes_keeps
      | with_reducible exact within_trans (by decide +kernel) hm0
      | with_reducible exact within_trans (by decide +kernel) hw0
      | split

theorem State.newSlot_keeps {mP wF : Nat} {r0 : State} (s : State) (x : Strm) (r : SlotRec) (data : List Byte) (hk : Keeps mP wF r0 s) (hm0 : within 0x6119c3f mP) (hw0 : within 0xc1f008400000000000020000000000000000000000000000000000000000000000000030300000000000000000000400000000000000000000 wF) : Keeps mP wF r0 (State.newSlot s x r data) := by
  unfold State.newSlot; try dsimp only
  with_reducible
    repeat' first
      | intro _ | assumption | exact within_trans (by decide +kernel) hm0 | exact within_trans (by decide +kernel) hw0
      | apply State.updStrm_keeps | apply State.ingWrite_keeps | apply Keeps.ite | split | dsimp only
      | apply within_ite

theorem State.flushDrop_keeps {mP wF : Nat} {r0 : State} (s : State) (a : Nat) (hk : Keeps mP wF r0 s) (hm0 : within 0x6119c3f mP) (hw0 : within 0xc1f008400000000000020000000000000000000000000000000000000000000000000030300000000000000000000400000000000000000000 wF) : Keeps mP wF r0 (State.flushDrop s a) := by
  unfold State.flushDrop; try dsimp only
  with_reducible
    repeat' first
      | intro _ | assumption | exact within_trans (by decide +kernel) hm0 | exact within_trans (by decide +kernel) hw0
      | apply State.updStrm_keeps | apply State.newSlot_keeps | apply Keeps.ite | split | dsimp only
      | apply within_ite

theorem State.dropLine_keeps {mP wF : Nat} {r0 : State} (s : State) (x : Strm) (seq : Nat) (stamp : Nat) (hk : Keeps mP wF r0 s) (hm0 : within 0x100001 mP) (hw0 : within 0x100000000000000000000000000000000000000000000000000000000000 wF) : Keeps mP wF r0 (State.dropLine s x seq stamp) := by
  unfold State.dropLine; try dsimp only
  with_reducible
    repeat' first
      | intro _ | assumption | exact within_trans (by decide +kernel) hm0 | exact within_trans (by decide +kernel) hw0
      | apply State.bump_keeps | apply State.updStrm_keeps | apply Keeps.ite | split | dsimp only | apply within_ite

theorem State.leaveLine_keeps {mP wF : Nat} {r0 : State} (s : State) (x : Strm) (n : Nat) (hk : Keeps mP wF r0 s) (hm0 : within 0x6119c3f mP) (hw0 : within 0xc1f008400000000000020000000000000000000000000000000000100000000000000030300000000000000000000400000000000000000000 wF) : Keeps mP wF r0 (State.leaveLine s x n) := by
  unfold State.leaveLine; try dsimp only
  with_reducible
    repeat' first
      | intro _ | assumption | exact within_trans (by decide +kernel) hm0 | exact within_trans (by decide +kernel) hw0
      | apply State.drawn_keeps | apply State.updStrm_keeps | apply State.newSlot_keeps | apply State.flushDrop_keeps
      | apply State.dropLine_keeps | apply Keeps.ite | split | dsimp only | apply within_ite

theorem State.leaveGap_keeps {mP wF : Nat} {r0 : State} (s : State) (x : Strm) (blocks : Nat) (hk : Keeps mP wF r0 s) (hm0 : within 0x6119c3f mP) (hw0 : within 0xc1f008400000000000020000000000000000000000000000000000000000000000000030300000000000000000000400000000000000000000 wF) : Keeps mP wF r0 (State.leaveGap s x blocks) := by
  unfold State.leaveGap; try dsimp only
  with_reducible
    repeat' first
      | intro _ | assumption | exact within_trans (by decide +kernel) hm0 | exact within_trans (by decide +kernel) hw0
      | apply State.drawn_keeps | apply State.updStrm_keeps | apply State.newSlot_keeps | apply State.flushDrop_keeps
      | apply Keeps.ite | split | dsimp only | apply within_ite

theorem State.leaveLines_keeps {mP wF : Nat} {r0 : State} (s : State) (a : Nat) (y0 : Nat) (hk : Keeps mP wF r0 s) (hm0 : within 0x6119c3f mP) (hw0 : within 0xc1f008400000000000020000000000000000000000000000000000100000000000000030300000000000000000000400000000000000000000 wF) : Keeps mP wF r0 (State.leaveLines s a y0) := by
  induction y0 generalizing s a with
  | zero =>
    unfold State.leaveLines; try dsimp only
    with_reducible
      repeat' first
        | assumption | exact within_trans (by decide +kernel) hm0 | exact within_trans (by decide +kernel) hw0
        | apply State.leaveLine_keeps | apply State.leaveGap_keeps | apply Keeps.ite
        | refine Keeps.fst ?_ (by assumption) | split | dsimp only | apply within_ite
  | succ n ih =>
    unfold State.leaveLines; try dsimp only
    with_reducible
      repeat' first
        | assumption | exact within_trans (by decide +kernel) hm0 | exact within_trans (by decide +kernel) hw0
        | apply State.leaveLine_keeps | apply State.leaveGap_keeps | apply Keeps.ite | apply ih
        | refine Keeps.fst ?_ (by assumption) | split | dsimp only | apply within_ite

theorem State.settleWindow_keeps {mP wF : Nat} {r0 : State} (s : State) (a : Nat) (hk : Keeps mP wF r0 s) (hm0 : within 0x6119c3f mP) (hw0 : within 0xc1f00840000000000002000000000000000000000000000000000011fc00000000000030300000000000000000000400000000000000000000 wF) : Keeps mP wF r0 (State.settleWindow s a) := by
  unfold State.settleWindow; try dsimp only
  with_reducible
    repeat' first
      | intro _ | assumption | exact within_trans (by decide +kernel) hm0 | exact within_trans (by decide +kernel) hw0
      | apply State.updStrm_keeps | apply State.syncStrm_keeps | apply State.leaveLines_keeps | split | dsimp only

theorem State.newRun_keeps {mP wF : Nat} {r0 : State} (s : State) (x : Strm) (block : Nat) (mark : Bool) (hk : Keeps mP wF r0 s) (hm0 : within 0x6119c3f mP) (hw0 : within 0xc1f00840000000000002000000000000000000000000000000000011fc00000000000030300000000000000000000400000000000000000000 wF) : Keeps mP wF r0 (State.newRun s x block mark) := by
  unfold State.newRun; try dsimp only
  with_reducible
    repeat' first
      | intro _ | assumption | exact within_trans (by decide +kernel) hm0 | exact within_trans (by decide +kernel) hw0
      | apply State.updStrm_keeps | apply State.settleWindow_keeps | apply Keeps.foldl | apply Keeps.foldlFst | split
      | dsimp only

theorem State.acceptPkt_keeps {mP wF : Nat} {r0 : State} (s : State) (x : Strm) (h : Nat) (pkt : GvspPacket) (again : Bool) (hk : Keeps mP wF r0 s) (hm0 : within 0x6119c3f mP) (hw0 : within 0xc1f00840000000000002000000000000000000000000000000000031fc00000000000030300000000000000000000400000000000000000000 wF) : Keeps mP wF r0 (State.acceptPkt s x h pkt again) := by
  unfold State.acceptPkt; try dsimp only
  with_reducible
    repeat' first
      | intro _ | assumption | exact within_trans (by decide +kernel) hm0 | exact within_trans (by decide +kernel) hw0
      | apply State.bump_keeps | apply State.logPol_keeps | apply State.updStrm_keeps | apply State.settleWindow_keeps
      | apply State.newRun_keeps | apply Keeps.ite | split | dsimp only | apply within_ite

theorem execGvspPacket_keeps {mP wF : Nat} {r0 : State} (port : Fin 16) (slot : Fin 8) (pkt : GvspPacket) (s : State) (hk : Keeps mP wF r0 s) (hm0 : within 0x6119c3f mP) (hw0 : within 0xc1f00840000000000002000000000000000000000000000000000071fc00100000000030300000000000000000000400000000000000000000 wF) : Keeps.Res mP wF r0 (execGvspPacket port slot pkt s) := by
  unfold execGvspPacket; try dsimp only
  with_reducible
    repeat' first
      | assumption | exact within_trans (by decide +kernel) hm0 | exact within_trans (by decide +kernel) hw0
      | apply State.bump_keeps | apply State.headPresent_keeps | apply State.foreign_keeps
      | apply State.acceptPkt_keeps | apply Keeps.next | apply Keeps.ite | apply Keeps.iteFst | split | dsimp only
      | apply within_ite

theorem execReorderTimeout_keeps {mP wF : Nat} {r0 : State} (stream : Fin 128) (s : State) (hk : Keeps mP wF r0 s) (hm0 : within 0x6119c3f mP) (hw0 : within 0xc1f00840000000000002000000000000000000000000000000000011fc00000000000030300000000000000000000400000000000000000000 wF) : Keeps.Res mP wF r0 (execReorderTimeout stream s) := by
  unfold execReorderTimeout; try dsimp only
  with_reducible
    repeat' first
      | intro _ | assumption | exact within_trans (by decide +kernel) hm0 | exact within_trans (by decide +kernel) hw0
      | apply State.updStrm_keeps | apply State.settleWindow_keeps | apply Keeps.next | apply Keeps.foldl
      | apply Keeps.foldlFst | apply Keeps.ite | apply Keeps.iteFst | split | dsimp only | apply within_ite

theorem State.acceptSlot_keeps {mP wF : Nat} {r0 : State} (s : State) (x : Strm) (hk : Keeps mP wF r0 s) (hm0 : within 0x6119c3f mP) (hw0 : within 0xc1f0084000000000000200000000000000000000000000000000000ffc00000000000030300000000000000000000400000000000000000000 wF) : Keeps mP wF r0 (State.acceptSlot s x) := by
  unfold State.acceptSlot; try dsimp only
  with_reducible
    repeat' first
      | intro _ | assumption | exact within_trans (by decide +kernel) hm0 | exact within_trans (by decide +kernel) hw0
      | apply State.bump_keeps | apply State.countHub_keeps | apply State.updStrm_keeps | apply State.syncStrm_keeps
      | apply State.ingWrite_keeps | apply Keeps.ite | split | dsimp only | apply within_ite

theorem State.acceptWhile_keeps {mP wF : Nat} {r0 : State} (s : State) (a : Nat) (p : List SlotRec → Bool) (y0 : Nat) (hk : Keeps mP wF r0 s) (hm0 : within 0x6119c3f mP) (hw0 : within 0xc1f0084000000000000200000000000000000000000000000000000ffc00000000000030300000000000000000000400000000000000000000 wF) : Keeps mP wF r0 (State.acceptWhile s a p y0) := by
  induction y0 generalizing s a p with
  | zero =>
    unfold State.acceptWhile; try dsimp only
    with_reducible
      repeat' first
        | assumption | exact within_trans (by decide +kernel) hm0 | exact within_trans (by decide +kernel) hw0
        | apply State.acceptSlot_keeps | apply Keeps.ite | refine Keeps.fst ?_ (by assumption) | split | dsimp only
        | apply within_ite
  | succ n ih =>
    unfold State.acceptWhile; try dsimp only
    with_reducible
      repeat' first
        | assumption | exact within_trans (by decide +kernel) hm0 | exact within_trans (by decide +kernel) hw0
        | apply State.acceptSlot_keeps | apply Keeps.ite | apply ih | refine Keeps.fst ?_ (by assumption) | split
        | dsimp only | apply within_ite

theorem execSlotHeaderAccept_keeps {mP wF : Nat} {r0 : State} (stream : Fin 128) (s : State) (hk : Keeps mP wF r0 s) (hm0 : within 0x6119c3f mP) (hw0 : within 0xc1f0084000000000000200000000000000000000000000000000000ffc00000000000030300000000000000000000400000000000000000000 wF) : Keeps.Res mP wF r0 (execSlotHeaderAccept stream s) := by
  unfold execSlotHeaderAccept; try dsimp only
  with_reducible
    repeat' first
      | assumption | exact within_trans (by decide +kernel) hm0 | exact within_trans (by decide +kernel) hw0
      | apply State.acceptSlot_keeps | apply Keeps.next | apply Keeps.ite | apply Keeps.iteFst | split | dsimp only
      | apply within_ite

theorem State.cutGap_keeps {mP wF : Nat} {r0 : State} (s : State) (x : Strm) (e : Nat) (hk : Keeps mP wF r0 s) (hm0 : within 0x6119c3f mP) (hw0 : within 0xc1f008400000000000020000000000000000000000000000000000000000000000000030300000000000000000000400000000000000000000 wF) : Keeps mP wF r0 (State.cutGap s x e) := by
  unfold State.cutGap; try dsimp only
  with_reducible
    repeat' first
      | intro _ | assumption | exact within_trans (by decide +kernel) hm0 | exact within_trans (by decide +kernel) hw0
      | apply State.updStrm_keeps | apply State.newSlot_keeps | apply State.flushDrop_keeps | apply Keeps.foldl
      | apply Keeps.foldlFst | apply Keeps.ite | split | dsimp only | apply within_ite

theorem State.acceptGaps_keeps {mP wF : Nat} {r0 : State} (s : State) (x : Strm) (hk : Keeps mP wF r0 s) (hm0 : within 0x6119c3f mP) (hw0 : within 0xc1f0084000000000000200000000000000000000000000000000000ffc00000000000030300000000000000000000400000000000000000000 wF) : Keeps mP wF r0 (State.acceptGaps s x) := by
  unfold State.acceptGaps; try dsimp only
  with_reducible
    repeat' first
      | intro _ | assumption | exact within_trans (by decide +kernel) hm0 | exact within_trans (by decide +kernel) hw0
      | apply State.acceptWhile_keeps | dsimp only

theorem State.writeCut_keeps {mP wF : Nat} {r0 : State} (s : State) (x : Strm) (c : Cut) (hk : Keeps mP wF r0 s) (hm0 : within 0x6019c3f mP) (hw0 : within 0xc1f008400000000000020000000000000000000000000000000000000000000000000030300000000000000000000400000000000000000000 wF) : Keeps mP wF r0 (State.writeCut s x c) := by
  unfold State.writeCut; try dsimp only
  with_reducible
    repeat' first
      | assumption | exact within_trans (by decide +kernel) hm0 | exact within_trans (by decide +kernel) hw0
      | apply State.ingWrite_keeps | apply Keeps.ite | split | dsimp only | apply within_ite

theorem State.takeCut_keeps {mP wF : Nat} {r0 : State} (s : State) (x : Strm) (k : Nat) (e : Nat) (hk : Keeps mP wF r0 s) (hm0 : within 0x6119c3f mP) (hw0 : within 0xc1f00840000000000002000000000000000000000000000000000001fc00000000000030300000000000000000000400000000000000000000 wF) : Keeps mP wF r0 (State.takeCut s x k e) := by
  unfold State.takeCut; try dsimp only
  with_reducible
    repeat' first
      | intro _ | assumption | exact within_trans (by decide +kernel) hm0 | exact within_trans (by decide +kernel) hw0
      | apply State.logPol_keeps | apply State.updStrm_keeps | apply State.syncStrm_keeps | apply State.writeCut_keeps
      | apply Keeps.ite | split | dsimp only | apply within_ite

theorem execCutTake_keeps {mP wF : Nat} {r0 : State} (stream : Fin 128) (s : State) (hk : Keeps mP wF r0 s) (hm0 : within 0x6119c3f mP) (hw0 : within 0xc1f0084000000000000200000000000000000000000000000000000ffc00000000000030300000000000000000000400000000000000000000 wF) : Keeps.Res mP wF r0 (execCutTake stream s) := by
  unfold execCutTake; try dsimp only
  with_reducible
    repeat' first
      | assumption | exact within_trans (by decide +kernel) hm0 | exact within_trans (by decide +kernel) hw0
      | apply State.cutGap_keeps | apply State.acceptGaps_keeps | apply State.takeCut_keeps | apply Keeps.next
      | apply Keeps.ite | apply Keeps.iteFst | split | dsimp only | apply within_ite

theorem execCutRecordDelayed_keeps {mP wF : Nat} {r0 : State} (stream : Fin 128) (s : State) (hk : Keeps mP wF r0 s) (hm0 : within 0x6119c3f mP) (hw0 : within 0xc1f008400000000000020000000000000000000000000000000000000000000000000030300000000000000000000400000000000000000000 wF) : Keeps.Res mP wF r0 (execCutRecordDelayed stream s) := by
  unfold execCutRecordDelayed; try dsimp only
  with_reducible
    repeat' first
      | intro _ | assumption | exact within_trans (by decide +kernel) hm0 | exact within_trans (by decide +kernel) hw0
      | apply State.updStrm_keeps | apply State.writeCut_keeps | apply Keeps.next | apply Keeps.ite
      | apply Keeps.iteFst | split | dsimp only | apply within_ite

theorem State.freeCuts_keeps {mP wF : Nat} {r0 : State} (s : State) (a : Nat) (y0 : Nat) (hk : Keeps mP wF r0 s) (hm0 : within 0x100000 mP) : Keeps mP wF r0 (State.freeCuts s a y0) := by
  induction y0 generalizing s a with
  | zero =>
    unfold State.freeCuts; try dsimp only
    with_reducible
      repeat' first
        | intro _ | assumption | exact within_trans (by decide +kernel) hm0 | apply State.updStrm_keeps
        | apply Keeps.ite | refine Keeps.fst ?_ (by assumption) | split | dsimp only
  | succ n ih =>
    unfold State.freeCuts; try dsimp only
    with_reducible
      repeat' first
        | intro _ | assumption | exact within_trans (by decide +kernel) hm0 | apply State.updStrm_keeps
        | apply Keeps.ite | apply ih | refine Keeps.fst ?_ (by assumption) | split | dsimp only

theorem State.afterFree_keeps {mP wF : Nat} {r0 : State} (s : State) (a : Nat) (hk : Keeps mP wF r0 s) (hm0 : within 0x6119c3f mP) (hw0 : within 0xc1f00840000000000002000000000000000000000000000000000001fc00000000000030300000000000000000000400000000000000000000 wF) : Keeps mP wF r0 (State.afterFree s a) := by
  unfold State.afterFree; try dsimp only
  with_reducible
    repeat' first
      | assumption | exact within_trans (by decide +kernel) hm0 | exact within_trans (by decide +kernel) hw0
      | apply State.syncStrm_keeps | apply State.flushDrop_keeps | apply State.freeCuts_keeps | split | dsimp only

theorem execCutFree_keeps {mP wF : Nat} {r0 : State} (stream : Fin 128) (s : State) (hk : Keeps mP wF r0 s) (hm0 : within 0x6119c3f mP) (hw0 : within 0xc1f00840000000000002000000000000000000000000000000000001fc00000000000030300000000000000000000400000000000000000000 wF) : Keeps.Res mP wF r0 (execCutFree stream s) := by
  unfold execCutFree; try dsimp only
  with_reducible
    repeat' first
      | assumption | exact within_trans (by decide +kernel) hm0 | exact within_trans (by decide +kernel) hw0
      | apply State.afterFree_keeps | apply Keeps.next | split | dsimp only

theorem State.releaseCut_keeps {mP wF : Nat} {r0 : State} (s : State) (x : Strm) (n : Nat) (hk : Keeps mP wF r0 s) (hm0 : within 0x6119c3f mP) (hw0 : within 0xc1f00840000000000002000000000000000000000000000000000001fc00000000000030300000000000000000000400002000000000000000 wF) : Keeps mP wF r0 (State.releaseCut s x n) := by
  unfold State.releaseCut; try dsimp only
  with_reducible
    repeat' first
      | intro _ | assumption | exact within_trans (by decide +kernel) hm0 | exact within_trans (by decide +kernel) hw0
      | apply State.put_keeps | apply State.updStrm_keeps | apply State.afterFree_keeps | apply Keeps.foldl
      | apply Keeps.foldlFst | apply Keeps.ite | split | dsimp only | apply within_ite

theorem State.cutRel_keeps {mP wF : Nat} {r0 : State} (s : State) (p : Nat) (stream : Nat) (v : Nat) (hk : Keeps mP wF r0 s) (hm0 : within 0x6119c3f mP) (hw0 : within 0xc1f00840000000000002000000000000000000000000000000000001fc00000000000030300000000000000000000400002000000000000000 wF) : Keeps mP wF r0 (State.cutRel s p stream v) := by
  unfold State.cutRel; try dsimp only
  with_reducible
    repeat' first
      | assumption | exact within_trans (by decide +kernel) hm0 | exact within_trans (by decide +kernel) hw0
      | apply State.logPolSec_keeps | apply State.releaseCut_keeps | apply Keeps.ite | split | dsimp only
      | apply within_ite

theorem State.cutRelAll_keeps {mP wF : Nat} {r0 : State} (s : State) (p : Nat) (v : Nat) (hk : Keeps mP wF r0 s) (hm0 : within 0x6119c3f mP) (hw0 : within 0xc1f00840000000000002000000000000000000000000000000000001fc00000000000030300000000000000000000400002000000000000000 wF) : Keeps mP wF r0 (State.cutRelAll s p v) := by
  unfold State.cutRelAll; try dsimp only
  with_reducible
    repeat' first
      | intro _ | assumption | exact within_trans (by decide +kernel) hm0 | exact within_trans (by decide +kernel) hw0
      | apply State.releaseCut_keeps | apply Keeps.foldl | apply Keeps.foldlFst | dsimp only

theorem State.mboxAccess_keeps {mP wF : Nat} {r0 : State} (s : State) (a : Acc) (p : Nat) (o : Nat) (f : State → State) (hk : Keeps mP wF r0 s) (hf : ∀ x0, Keeps mP wF r0 x0 → Keeps mP wF r0 (f x0)) (hm0 : within 0x2000831 mP) (hw0 : within 0xc1f000000000000000020000000000000000000000000000000000000000000000000000000000000000000000000400000000000000000000 wF) : Keeps mP wF r0 (State.mboxAccess s a p o f) := by
  unfold State.mboxAccess; try dsimp only
  with_reducible
    repeat' first
      | assumption | exact within_trans (by decide +kernel) hm0 | exact within_trans (by decide +kernel) hw0
      | apply State.refuse_keeps | apply hf | apply Keeps.ite | refine Keeps.fst ?_ (by assumption) | split
      | dsimp only | apply within_ite

theorem execCutRel_keeps {mP wF : Nat} {r0 : State} (a : Acc) (p : Pol) (stream : Fin 128) (v : Word) (s : State) (hk : Keeps mP wF r0 s) (hm0 : within 0x6119c3f mP) (hw0 : within 0xc1f00840000000000002000000000000000000000000000000000001fc00000000000030300000000000000000000400002000000000000000 wF) : Keeps.Res mP wF r0 (execCutRel a p stream v s) := by
  unfold execCutRel; try dsimp only
  with_reducible
    repeat' first
      | intro _ | assumption | exact within_trans (by decide +kernel) hm0 | exact within_trans (by decide +kernel) hw0
      | apply State.cutRel_keeps | apply State.mboxAccess_keeps | apply Keeps.next | dsimp only

theorem execCutRelAll_keeps {mP wF : Nat} {r0 : State} (a : Acc) (p : Pol) (v : Word) (s : State) (hk : Keeps mP wF r0 s) (hm0 : within 0x6119c3f mP) (hw0 : within 0xc1f00840000000000002000000000000000000000000000000000001fc00000000000030300000000000000000000400002000000000000000 wF) : Keeps.Res mP wF r0 (execCutRelAll a p v s) := by
  unfold execCutRelAll; try dsimp only
  with_reducible
    repeat' first
      | intro _ | assumption | exact within_trans (by decide +kernel) hm0 | exact within_trans (by decide +kernel) hw0
      | apply State.cutRelAll_keeps | apply State.mboxAccess_keeps | apply Keeps.next | dsimp only

theorem execIngestLeadTakeover_keeps {mP wF : Nat} {r0 : State} (stream : Fin 128) (s : State) (hk : Keeps mP wF r0 s) (hm0 : within 0x6119c3f mP) (hw0 : within 0xc1f0084000000000000200000000000000000000000000000000001ffc00000000000030300000000000000000000400000000000000000000 wF) : Keeps.Res mP wF r0 (execIngestLeadTakeover stream s) := by
  unfold execIngestLeadTakeover; try dsimp only
  with_reducible
    repeat' first
      | intro _ | assumption | exact within_trans (by decide +kernel) hm0 | exact within_trans (by decide +kernel) hw0
      | apply State.logPol_keeps | apply State.updStrm_keeps | apply State.settleWindow_keeps
      | apply State.acceptWhile_keeps | apply Keeps.next | apply Keeps.ite | apply Keeps.iteFst | split | dsimp only
      | apply within_ite

theorem State.putBind_keeps {mP wF : Nat} {r0 : State} (s : State) (n : Nat) (ws : List Nat) (hk : Keeps mP wF r0 s) (hm0 : within 0x1 mP) (hw0 : within 0x200000000000000000000000000000000000000000000000000000000 wF) : Keeps mP wF r0 (State.putBind s n ws) := by
  unfold State.putBind; try dsimp only
  with_reducible
    repeat' first
      | intro _ | assumption | exact within_trans (by decide +kernel) hm0 | exact within_trans (by decide +kernel) hw0
      | apply State.put_keeps | apply Keeps.foldl | apply Keeps.foldlFst | dsimp only

theorem State.bindHead_keeps {mP wF : Nat} {r0 : State} (s : State) (x : Strm) (hk : Keeps mP wF r0 s) (hm0 : within 0x100001 mP) (hw0 : within 0x1fe00000000000000000000000000000000000000000000000000000000 wF) : Keeps mP wF r0 (State.bindHead s x) := by
  unfold State.bindHead; try dsimp only
  with_reducible
    repeat' first
      | intro _ | assumption | exact within_trans (by decide +kernel) hm0 | exact within_trans (by decide +kernel) hw0
      | apply State.updIng_keeps | apply State.syncStrm_keeps | apply State.putBind_keeps | apply Keeps.foldl
      | apply Keeps.foldlFst | apply Keeps.ite | split | dsimp only | apply within_ite

theorem execHeadBind_keeps {mP wF : Nat} {r0 : State} (c : Cmd) (s : State) (hk : Keeps mP wF r0 s) (hm0 : within 0x2119c3f mP) (hw0 : within 0xc1f00840000000000002000000000000000000000000000000000001fe00000000000000100000000000000000000400000000000000000000 wF) : Keeps.Res mP wF r0 (execHeadBind c s) := by
  unfold execHeadBind; try dsimp only
  with_reducible
    repeat' first
      | intro _ | assumption | exact within_trans (by decide +kernel) hm0 | exact within_trans (by decide +kernel) hw0
      | apply State.updCp_keeps | apply runCmd_keeps | apply State.bindHead_keeps | apply Keeps.next | apply Keeps.ite
      | apply Keeps.iteFst | split | dsimp only | apply within_ite

theorem State.unbindHead_keeps {mP wF : Nat} {r0 : State} (s : State) (x : Strm) (hk : Keeps mP wF r0 s) (hm0 : within 0x2100001 mP) (hw0 : within 0x3e00000000000000000000000000000000000000000000000000000000 wF) : Keeps mP wF r0 (State.unbindHead s x) := by
  unfold State.unbindHead; try dsimp only
  with_reducible
    repeat' first
      | intro _ | assumption | exact within_trans (by decide +kernel) hm0 | exact within_trans (by decide +kernel) hw0
      | apply State.put_keeps | apply State.setFlag_keeps | apply State.emit_keeps | apply State.updIng_keeps
      | apply State.putBind_keeps | apply Keeps.foldl | apply Keeps.foldlFst | apply Keeps.ite | split | dsimp only
      | apply within_ite

theorem execHeadUnbind_keeps {mP wF : Nat} {r0 : State} (c : Cmd) (s : State) (hk : Keeps mP wF r0 s) (hm0 : within 0x2119c3f mP) (hw0 : within 0xc1f008400000000000020000000000000000000000000000000000003e00000000000000100000000000000000000400000000000000000000 wF) : Keeps.Res mP wF r0 (execHeadUnbind c s) := by
  unfold execHeadUnbind; try dsimp only
  with_reducible
    repeat' first
      | intro _ | assumption | exact within_trans (by decide +kernel) hm0 | exact within_trans (by decide +kernel) hw0
      | apply runCmd_keeps | apply State.unbindHead_keeps | apply Keeps.next | split | dsimp only

theorem State.setHpCfg_keeps {mP wF : Nat} {r0 : State} (s : State) (port : Nat) (v : Nat) (hk : Keeps mP wF r0 s) (hm0 : within 0x2100831 mP) (hw0 : within 0xc1f00000000000000002000000000000000000000000000000000001fc0023e000000000000000000000000000000000000000000000000000 wF) : Keeps mP wF r0 (State.setHpCfg s port v) := by
  unfold State.setHpCfg; try dsimp only
  with_reducible
    repeat' first
      | intro _ | assumption | exact within_trans (by decide +kernel) hm0 | exact within_trans (by decide +kernel) hw0
      | apply State.put_keeps | apply State.linkDown_keeps | apply Keeps.foldl | apply Keeps.foldlFst | dsimp only

theorem State.hpCfgWrite_keeps {mP wF : Nat} {r0 : State} (s : State) (port : Nat) (v : Nat) (hk : Keeps mP wF r0 s) (hm0 : within 0x2100831 mP) (hw0 : within 0xc1f00000000000000002000000000000000000000000000000000001fc0023c000000000000000000000000000000000000000000000000000 wF) : Keeps mP wF r0 (State.hpCfgWrite s port v) := by
  unfold State.hpCfgWrite; try dsimp only
  with_reducible
    repeat' first
      | intro _ | assumption | exact within_trans (by decide +kernel) hm0 | exact within_trans (by decide +kernel) hw0
      | apply State.put_keeps | apply State.linkDown_keeps | apply Keeps.foldl | apply Keeps.foldlFst
      | apply Keeps.ite | split | dsimp only | apply within_ite

theorem execSetHpCfg_keeps {mP wF : Nat} {r0 : State} (c : Cmd) (s : State) (hk : Keeps mP wF r0 s) (hm0 : within 0x2119c3f mP) (hw0 : within 0xc1f00840000000000002000000000000000000000000000000000001fc0023e000000000100000000000000000000400000000000000000000 wF) : Keeps.Res mP wF r0 (execSetHpCfg c s) := by
  unfold execSetHpCfg; try dsimp only
  with_reducible
    repeat' first
      | intro _ | assumption | exact within_trans (by decide +kernel) hm0 | exact within_trans (by decide +kernel) hw0
      | apply State.silence_keeps | apply runCmd_keeps | apply State.setHpCfg_keeps | apply Keeps.next
      | apply Keeps.ite | apply Keeps.iteFst | split | dsimp only | apply within_ite

end Sys2Proof.Machine
end

