-- ==== Sys2Proof/Laws/KeepsCascade.lean ====
section
/-! SUPPORT. The operations of Machine/Cascade.lean keep the memory form, the field widths and the queue. -/

set_option Elab.async false
namespace Sys2Proof.Machine

theorem State.updChan_keeps {mP wF : Nat} {r0 : State} (s : State) (c : Nat) (f : CsChan → CsChan) (hk : Keeps mP wF r0 s) (hm0 : within 0x800000 mP) : Keeps mP wF r0 (State.updChan s c f) := by
  unfold State.updChan; try dsimp only
  with_reducible
    repeat' first
      | intro _ | assumption | exact within_trans (by decide +kernel) hm0 | apply State.updCas_keeps | dsimp only

theorem State.putTiming_keeps {mP wF : Nat} {r0 : State} (s : State) (w : Nat) (hk : Keeps mP wF r0 s) (hm0 : within 0x1 mP) (hw0 : within 0xe0000000000000000000000000000000000000000000000000000000000000000000000000000 wF) : Keeps mP wF r0 (State.putTiming s w) := by
  unfold State.putTiming; try dsimp only
  with_reducible
    repeat' first
      | assumption | exact within_trans (by decide +kernel) hm0 | exact within_trans (by decide +kernel) hw0
      | apply State.put_keeps

theorem State.csLog_keeps {mP wF : Nat} {r0 : State} (s : State) (code : Nat) (args : List Nat) (hk : Keeps mP wF r0 s) (hm0 : within 0x2000831 mP) (hw0 : within 0xc1f000000000000000020000000000000000000000000000000000000000000000000000000000000000000000000000000000000000000000 wF) : Keeps mP wF r0 (State.csLog s code args) := by
  unfold State.csLog; try dsimp only
  with_reducible
    repeat' first
      | assumption | exact within_trans (by decide +kernel) hm0 | exact within_trans (by decide +kernel) hw0
      | apply State.logSec_keeps

theorem State.chanLog_keeps {mP wF : Nat} {r0 : State} (s : State) (c : Nat) (code : Nat) (args : List Nat) (hk : Keeps mP wF r0 s) (hm0 : within 0x2000831 mP) (hw0 : within 0xc1f000000000000000020000000000000000000000000000000000000000000000000000000000000000000000000000000000000000000000 wF) : Keeps mP wF r0 (State.chanLog s c code args) := by
  unfold State.chanLog; try dsimp only
  with_reducible
    repeat' first
      | assumption | exact within_trans (by decide +kernel) hm0 | exact within_trans (by decide +kernel) hw0
      | apply State.logPols_keeps

theorem State.setReach_keeps {mP wF : Nat} {r0 : State} (s : State) (i : Nat) (b : Bool) (hk : Keeps mP wF r0 s) (hm0 : within 0x2000831 mP) (hw0 : within 0xc1f000000000000000020000000000001004000000000000000000000000000000000000000000000000000000000000000000000000000000 wF) : Keeps mP wF r0 (State.setReach s i b) := by
  unfold State.setReach; try dsimp only
  with_reducible
    repeat' first
      | assumption | exact within_trans (by decide +kernel) hm0 | exact within_trans (by decide +kernel) hw0
      | apply State.put_keeps | apply State.setFlag_keeps | apply State.csLog_keeps | apply Keeps.ite | split
      | dsimp only | apply within_ite

theorem State.setXfer_keeps {mP wF : Nat} {r0 : State} (s : State) (p : Nat) (x : Option Xfer) (hk : Keeps mP wF r0 s) (hm0 : within 0x800000 mP) : Keeps mP wF r0 (State.setXfer s p x) := by
  unfold State.setXfer; try dsimp only
  with_reducible
    repeat' first
      | intro _ | assumption | exact within_trans (by decide +kernel) hm0 | apply State.updCas_keeps | dsimp only

theorem State.polRead_keeps {mP wF : Nat} {r0 : State} (s : State) (c : Nat) (p : Nat) (a : Nat) (n : Nat) (hk : Keeps mP wF r0 s) (hm0 : within 0x2000831 mP) (hw0 : within 0xc1f000000000000000020000000000000000000000000000000000000000000000000000000000000000000000000400000000000000000000 wF) : Keeps mP wF r0 (State.polRead s c p a n).1 := by
  unfold State.polRead; try dsimp only
  with_reducible
    repeat' first
      | assumption | exact within_trans (by decide +kernel) hm0 | exact within_trans (by decide +kernel) hw0
      | apply State.refuse_keeps | apply Keeps.ite | apply Keeps.iteFst | split | dsimp only | apply within_ite

theorem State.polWrite_keeps {mP wF : Nat} {r0 : State} (s : State) (c : Nat) (p : Nat) (a : Nat) (bs : List Byte) (hk : Keeps mP wF r0 s) (hm0 : within 0x2019c3f mP) (hw0 : within 0xc1f008400000000000020000000000000000000000000000000000000000000000000000100000000000000000000400000000000000000000 wF) : Keeps mP wF r0 (State.polWrite s c p a bs) := by
  unfold State.polWrite; try dsimp only
  with_reducible
    repeat' first
      | assumption | exact within_trans (by decide +kernel) hm0 | exact within_trans (by decide +kernel) hw0
      | apply State.writeBytes_keeps | apply State.refuse_keeps | apply Keeps.ite | split | dsimp only
      | apply within_ite

theorem State.sendXfer_keeps {mP wF : Nat} {r0 : State} (s : State) (p : Nat) (x : Xfer) (hk : Keeps mP wF r0 s) (hm0 : within 0x2800831 mP) (hw0 : within 0xc1f000000000000000020000000000000000000000000000000000000000000000000000000000000000000000000400000000000000000000 wF) : Keeps mP wF r0 (State.sendXfer s p x) := by
  unfold State.sendXfer; try dsimp only
  with_reducible
    repeat' first
      | intro _ | assumption | exact within_trans (by decide +kernel) hm0 | exact within_trans (by decide +kernel) hw0
      | apply State.csSendTo_keeps | apply State.polRead_keeps | apply Keeps.foldl | apply Keeps.foldlFst
      | apply Keeps.ite | refine Keeps.fst ?_ (by assumption) | split | dsimp only | apply within_ite

theorem State.xferReach_keeps {mP wF : Nat} {r0 : State} (s : State) (i : Nat) (b : Bool) (hk : Keeps mP wF r0 s) (hm0 : within 0x2800831 mP) (hw0 : within 0xc1f000000000000000020000000000000000000000000000000000000000000000000000000000000000000000000400000000000000000000 wF) : Keeps mP wF r0 (State.xferReach s i b) := by
  unfold State.xferReach; try dsimp only
  with_reducible
    repeat' first
      | intro _ | assumption | exact within_trans (by decide +kernel) hm0 | exact within_trans (by decide +kernel) hw0
      | apply State.setXfer_keeps | apply State.sendXfer_keeps | apply Keeps.foldl | apply Keeps.foldlFst
      | apply Keeps.ite | split | dsimp only | apply within_ite

theorem State.dropMember_keeps {mP wF : Nat} {r0 : State} (s : State) (i : Nat) (hk : Keeps mP wF r0 s) (hm0 : within 0x2800831 mP) (hw0 : within 0xc1f000000000000000020000000000001004000000000000000000000000000000000000000000000000000000000400000000000000000000 wF) : Keeps mP wF r0 (State.dropMember s i) := by
  unfold State.dropMember; try dsimp only
  with_reducible
    repeat' first
      | intro _ | assumption | exact within_trans (by decide +kernel) hm0 | exact within_trans (by decide +kernel) hw0
      | apply State.updCas_keeps | apply State.setReach_keeps | apply State.xferReach_keeps | dsimp only

theorem State.helloOn_keeps {mP wF : Nat} {r0 : State} (s : State) (c : Nat) (hk : Keeps mP wF r0 s) (hm0 : within 0x2800000 mP) : Keeps mP wF r0 (State.helloOn s c) := by
  unfold State.helloOn; try dsimp only
  with_reducible
    repeat' first
      | intro _ | assumption | exact within_trans (by decide +kernel) hm0 | apply State.updCsPort_keeps
      | apply State.csTx_keeps | dsimp only

theorem execHelloSend_keeps {mP wF : Nat} {r0 : State} (s : State) (hk : Keeps mP wF r0 s) (hm0 : within 0x2800000 mP) : Keeps.Res mP wF r0 (execHelloSend s) := by
  unfold execHelloSend; try dsimp only
  with_reducible
    repeat' first
      | intro _ | assumption | exact within_trans (by decide +kernel) hm0 | apply State.csFlood_keeps
      | apply State.helloOn_keeps | apply Keeps.next | apply Keeps.foldl | apply Keeps.foldlFst | apply Keeps.ite
      | apply Keeps.iteFst | split | dsimp only

theorem State.csOff_keeps {mP wF : Nat} {r0 : State} (s : State) (hk : Keeps mP wF r0 s) (hm0 : within 0x2800831 mP) (hw0 : within 0xc1f000000000000000020000000000001184101000000000000000000000000000000000000000000000000000000400000000000000000000 wF) : Keeps mP wF r0 (State.csOff s) := by
  unfold State.csOff; try dsimp only
  with_reducible
    repeat' first
      | intro _ | assumption | exact within_trans (by decide +kernel) hm0 | exact within_trans (by decide +kernel) hw0
      | apply State.put_keeps | apply State.setFlag_keeps | apply State.updCas_keeps | apply State.dropMember_keeps
      | apply Keeps.foldl | apply Keeps.foldlFst | apply Keeps.ite | split | dsimp only | apply within_ite

theorem State.joinDone_keeps {mP wF : Nat} {r0 : State} (s : State) (res : CmdRes) (hk : Keeps mP wF r0 s) (hm0 : within 0x2819c3f mP) (hw0 : within 0xc1f008400000000000020000000000000000000000000000000000000000000701000000100000000000000000000000000000000000000000 wF) : Keeps mP wF r0 (State.joinDone s res) := by
  unfold State.joinDone; try dsimp only
  with_reducible
    repeat' first
      | intro _ | assumption | exact within_trans (by decide +kernel) hm0 | exact within_trans (by decide +kernel) hw0
      | apply State.finish_keeps | apply State.updCas_keeps | apply State.join_keeps | split | dsimp only

theorem State.csTake_keeps {mP wF : Nat} {r0 : State} (s : State) (h : CasHdr) (hk : Keeps mP wF r0 s) (hm0 : within 0x2800000 mP) : Keeps mP wF r0 (State.csTake s h).1 := by
  unfold State.csTake; try dsimp only
  with_reducible
    repeat' first
      | intro _ | assumption | exact within_trans (by decide +kernel) hm0 | apply State.emit_keeps
      | apply State.updCsPort_keeps | apply State.csAck_keeps | apply Keeps.ite | apply Keeps.iteFst | split
      | dsimp only

theorem State.onLink_keeps {mP wF : Nat} {r0 : State} (s : State) (h : CasHdr) (f : State → State) (hk : Keeps mP wF r0 s) (hf : ∀ x0, Keeps mP wF r0 x0 → Keeps mP wF r0 (f x0)) (hm0 : within 0x2800000 mP) : Keeps mP wF r0 (State.onLink s h f) := by
  unfold State.onLink; try dsimp only
  with_reducible
    repeat' first
      | assumption | exact within_trans (by decide +kernel) hm0 | apply State.csTake_keeps | apply hf
      | apply Keeps.ite | refine Keeps.fst ?_ (by assumption) | split | dsimp only

theorem State.csForward_keeps {mP wF : Nat} {r0 : State} (s : State) (h : CasHdr) (kind : Nat) (body : List Nat) (hk : Keeps mP wF r0 s) (hm0 : within 0x2800000 mP) : Keeps mP wF r0 (State.csForward s h kind body) := by
  unfold State.csForward; try dsimp only
  with_reducible
    repeat' first
      | intro _ | assumption | exact within_trans (by decide +kernel) hm0 | apply State.updCas_keeps
      | apply State.csOut_keeps | apply Keeps.ite | split | dsimp only

theorem State.onFlood_keeps {mP wF : Nat} {r0 : State} (s : State) (h : CasHdr) (kind : Nat) (body : List Nat) (f : State → State) (hk : Keeps mP wF r0 s) (hf : ∀ x0, Keeps mP wF r0 x0 → Keeps mP wF r0 (f x0)) (hm0 : within 0x2800000 mP) : Keeps mP wF r0 (State.onFlood s h kind body f) := by
  unfold State.onFlood; try dsimp only
  with_reducible
    repeat' first
      | assumption | exact within_trans (by decide +kernel) hm0 | apply State.csTake_keeps
      | apply State.csForward_keeps | apply hf | apply Keeps.ite | refine Keeps.fst ?_ (by assumption) | split
      | dsimp only

theorem State.onRoute_keeps {mP wF : Nat} {r0 : State} (s : State) (h : CasHdr) (kind : Nat) (body : List Nat) (f : State → State) (hk : Keeps mP wF r0 s) (hf : ∀ x0, Keeps mP wF r0 x0 → Keeps mP wF r0 (f x0)) (hm0 : within 0x2800000 mP) : Keeps mP wF r0 (State.onRoute s h kind body f) := by
  unfold State.onRoute; try dsimp only
  with_reducible
    repeat' first
      | assumption | exact within_trans (by decide +kernel) hm0 | apply State.csTx_keeps | apply State.csTake_keeps
      | apply hf | apply Keeps.ite | refine Keeps.fst ?_ (by assumption) | split | dsimp only

theorem State.announced_keeps {mP wF : Nat} {r0 : State} (s : State) (i : Nat) (serial : Word) (prio : Byte) (cap : Bool) (promote : Bool) (hk : Keeps mP wF r0 s) (hm0 : within 0x1 mP) (hw0 : within 0x56000000000000000000000000000000000000000000000000000000000000000000000000000000000 wF) : Keeps mP wF r0 (State.announced s i serial prio cap promote) := by
  unfold State.announced; try dsimp only
  with_reducible
    repeat' first
      | assumption | exact within_trans (by decide +kernel) hm0 | exact within_trans (by decide +kernel) hw0
      | apply State.put_keeps | apply State.setFlag_keeps

theorem execHello_keeps {mP wF : Nat} {r0 : State} (h : CasHdr) (serial : Word) (prio : Byte) (masterCap : Bool) (promote : Bool) (s : State) (hk : Keeps mP wF r0 s) (hm0 : within 0x2819c3f mP) (hw0 : within 0xc1f008400000000000020000000000057384101000000000000000000000000701000000100000000000000000000400000000000000000000 wF) : Keeps.Res mP wF r0 (execHello h serial prio masterCap promote s) := by
  unfold execHello; try dsimp only
  with_reducible
    repeat' first
      | assumption | exact within_trans (by decide +kernel) hm0 | exact within_trans (by decide +kernel) hw0
      | apply State.put_keeps | apply State.setFlag_keeps | apply State.join_keeps | apply State.csLog_keeps
      | apply State.csOff_keeps | apply State.joinDone_keeps | apply State.csTake_keeps | apply State.announced_keeps
      | apply Keeps.next | apply Keeps.ite | apply Keeps.iteFst | refine Keeps.fst ?_ (by assumption) | split
      | dsimp only | apply within_ite

theorem State.dWorst_keeps {mP wF : Nat} {r0 : State} (s : State) (hk : Keeps mP wF r0 s) (hm0 : within 0x2000831 mP) (hw0 : within 0xc1f000000000000000020000000000000003000000000000000000000000000000000000000000000000000000000000000000000000000000 wF) : Keeps mP wF r0 (State.dWorst s) := by
  unfold State.dWorst; try dsimp only
  with_reducible
    repeat' first
      | intro _ | assumption | exact within_trans (by decide +kernel) hm0 | exact within_trans (by decide +kernel) hw0
      | apply State.put_keeps | apply State.setFlag_keeps | apply State.csLog_keeps | apply Keeps.foldl
      | apply Keeps.foldlFst | apply Keeps.ite | split | dsimp only | apply within_ite

theorem State.takeTiming_keeps {mP wF : Nat} {r0 : State} (s : State) (w : Nat) (hk : Keeps mP wF r0 s) (hm0 : within 0x2000831 mP) (hw0 : within 0xc1f0000000000000000200000000000000000e0000000000000000000000000000000000000000000000000000000000000000000000000000 wF) : Keeps mP wF r0 (State.takeTiming s w) := by
  unfold State.takeTiming; try dsimp only
  with_reducible
    repeat' first
      | assumption | exact within_trans (by decide +kernel) hm0 | exact within_trans (by decide +kernel) hw0
      | apply State.putTiming_keeps | apply State.csLog_keeps | apply Keeps.ite | split | dsimp only
      | apply within_ite

theorem State.adoptChan_keeps {mP wF : Nat} {r0 : State} (s : State) (c : Nat) (m : Nat) (key : Nat × Nat × Nat) (hk : Keeps mP wF r0 s) (hm0 : within 0x800001 mP) (hw0 : within 0x500000000000000000000000000000000000000000000000000000000000000000000000000000000000 wF) : Keeps mP wF r0 (State.adoptChan s c m key) := by
  unfold State.adoptChan; try dsimp only
  with_reducible
    repeat' first
      | intro _ | assumption | exact within_trans (by decide +kernel) hm0 | exact within_trans (by decide +kernel) hw0
      | apply State.put_keeps | apply State.updChan_keeps | apply Keeps.ite | split | dsimp only | apply within_ite

theorem State.takeDiv_keeps {mP wF : Nat} {r0 : State} (s : State) (c : Nat) (m : Nat) (d : Nat) (key : Nat × Nat × Nat) (hk : Keeps mP wF r0 s) (hm0 : within 0x800001 mP) (hw0 : within 0x6700000000000000000000000000000000000000000000000000000000000000000000000000000000000 wF) : Keeps mP wF r0 (State.takeDiv s c m d key) := by
  unfold State.takeDiv; try dsimp only
  with_reducible
    repeat' first
      | intro _ | assumption | exact within_trans (by decide +kernel) hm0 | exact within_trans (by decide +kernel) hw0
      | apply State.put_keeps | apply State.setFlag_keeps | apply State.updChan_keeps | apply Keeps.ite | split
      | dsimp only | apply within_ite

theorem State.takeDivs_keeps {mP wF : Nat} {r0 : State} (s : State) (m : Nat) (divs : List (BitVec 64)) (key : Nat × Nat × Nat) (hk : Keeps mP wF r0 s) (hm0 : within 0x800001 mP) (hw0 : within 0x6700000000000000000000000000000000000000000000000000000000000000000000000000000000000 wF) : Keeps mP wF r0 (State.takeDivs s m divs key) := by
  unfold State.takeDivs; try dsimp only
  with_reducible
    repeat' first
      | intro _ | assumption | exact within_trans (by decide +kernel) hm0 | exact within_trans (by decide +kernel) hw0
      | apply State.takeDiv_keeps | apply Keeps.foldl | apply Keeps.foldlFst | dsimp only

theorem State.setMaster_keeps {mP wF : Nat} {r0 : State} (s : State) (i : Nat) (key : Nat × Nat × Nat) (hk : Keeps mP wF r0 s) (hm0 : within 0x2800831 mP) (hw0 : within 0xc1f000000000000000020000000000000000400000000000000000000000000000000000000000000000000000000000000000000000000000 wF) : Keeps mP wF r0 (State.setMaster s i key) := by
  unfold State.setMaster; try dsimp only
  with_reducible
    repeat' first
      | intro _ | assumption | exact within_trans (by decide +kernel) hm0 | exact within_trans (by decide +kernel) hw0
      | apply State.put_keeps | apply State.updCas_keeps | apply State.csLog_keeps | dsimp only

theorem State.follow_keeps {mP wF : Nat} {r0 : State} (s : State) (i : Nat) (f : MemberInfo) (divs : List (BitVec 64)) (hk : Keeps mP wF r0 s) (hm0 : within 0x2819c3f mP) (hw0 : within 0xc1f0084000000000000200000000067000005e0000000000000000000000000701000000100000000000000000000000000000000000000000 wF) : Keeps mP wF r0 (State.follow s i f divs) := by
  unfold State.follow; try dsimp only
  with_reducible
    repeat' first
      | intro _ | assumption | exact within_trans (by decide +kernel) hm0 | exact within_trans (by decide +kernel) hw0
      | apply State.put_keeps | apply State.joinDone_keeps | apply State.takeTiming_keeps
      | apply State.adoptChan_keeps | apply State.takeDivs_keeps | apply State.setMaster_keeps | apply Keeps.foldl
      | apply Keeps.foldlFst | apply Keeps.ite | split | dsimp only | apply within_ite

theorem State.followIsle_keeps {mP wF : Nat} {r0 : State} (s : State) (i : Nat) (f : MemberInfo) (divs : List (BitVec 64)) (hk : Keeps mP wF r0 s) (hm0 : within 0x2800831 mP) (hw0 : within 0xc1f0000000000000000200000000067000005e0000000000000000000000000000000000000000000000000000000000000000000000000000 wF) : Keeps mP wF r0 (State.followIsle s i f divs) := by
  unfold State.followIsle; try dsimp only
  with_reducible
    repeat' first
      | intro _ | assumption | exact within_trans (by decide +kernel) hm0 | exact within_trans (by decide +kernel) hw0
      | apply State.put_keeps | apply State.takeTiming_keeps | apply State.adoptChan_keeps
      | apply State.takeDivs_keeps | apply State.setMaster_keeps | apply Keeps.foldl | apply Keeps.foldlFst
      | apply Keeps.ite | split | dsimp only | apply within_ite

theorem State.heardMaster_keeps {mP wF : Nat} {r0 : State} (s : State) (i : Nat) (f : MemberInfo) (divs : List (BitVec 64)) (hk : Keeps mP wF r0 s) (hm0 : within 0x2819c3f mP) (hw0 : within 0xc1f0084000000000000200000000067000005e0000000000000000000000000701000000100000000000000000000000000000000000000000 wF) : Keeps mP wF r0 (State.heardMaster s i f divs) := by
  unfold State.heardMaster; try dsimp only
  with_reducible
    repeat' first
      | intro _ | assumption | exact within_trans (by decide +kernel) hm0 | exact within_trans (by decide +kernel) hw0
      | apply State.updCas_keeps | apply State.takeTiming_keeps | apply State.takeDivs_keeps
      | apply State.follow_keeps | apply State.followIsle_keeps | apply Keeps.ite | split | dsimp only
      | apply within_ite

theorem State.noteMember_keeps {mP wF : Nat} {r0 : State} (s : State) (h : CasHdr) (f : MemberInfo) (hk : Keeps mP wF r0 s) (hm0 : within 0x2800831 mP) (hw0 : within 0xc1f00000000000000002000000000007f004000000000000000000000000000000000000000000000000000000000400000000000000000000 wF) : Keeps mP wF r0 (State.noteMember s h f) := by
  unfold State.noteMember; try dsimp only
  with_reducible
    repeat' first
      | intro _ | assumption | exact within_trans (by decide +kernel) hm0 | exact within_trans (by decide +kernel) hw0
      | apply State.put_keeps | apply State.updCas_keeps | apply State.setReach_keeps | apply State.xferReach_keeps
      | apply State.announced_keeps | dsimp only

theorem execMember_keeps {mP wF : Nat} {r0 : State} (h : CasHdr) (f : MemberInfo) (divs : List (BitVec 64)) (s : State) (hk : Keeps mP wF r0 s) (hm0 : within 0x2819c3f mP) (hw0 : within 0xc1f00840000000000002000000000677f1875e1000000000000000000000000701000000100000000000000000000400000000000000000000 wF) : Keeps.Res mP wF r0 (execMember h f divs s) := by
  unfold execMember; try dsimp only
  with_reducible
    repeat' first
      | assumption | exact within_trans (by decide +kernel) hm0 | exact within_trans (by decide +kernel) hw0
      | apply State.join_keeps | apply State.csLog_keeps | apply State.csOff_keeps | apply State.joinDone_keeps
      | apply State.csTake_keeps | apply State.csForward_keeps | apply State.dWorst_keeps
      | apply State.heardMaster_keeps | apply State.noteMember_keeps | apply Keeps.next | apply Keeps.ite
      | apply Keeps.iteFst | refine Keeps.fst ?_ (by assumption) | split | dsimp only | apply within_ite

theorem State.becomeMaster_keeps {mP wF : Nat} {r0 : State} (s : State) (hk : Keeps mP wF r0 s) (hm0 : within 0x2819c3f mP) (hw0 : within 0xc1f008400000000000020000000006700003500000000000000000000000000701000000100000000000000000000000000000000000000000 wF) : Keeps mP wF r0 (State.becomeMaster s) := by
  unfold State.becomeMaster; try dsimp only
  with_reducible
    repeat' first
      | intro _ | assumption | exact within_trans (by decide +kernel) hm0 | exact within_trans (by decide +kernel) hw0
      | apply State.put_keeps | apply State.joinDone_keeps | apply State.dWorst_keeps | apply State.takeDivs_keeps
      | apply State.setMaster_keeps | dsimp only

theorem execElect_keeps {mP wF : Nat} {r0 : State} (h : CasHdr) (island : Option (Fin 8)) (prio : Byte) (serial : Word) (s : State) (hk : Keeps mP wF r0 s) (hm0 : within 0x2800000 mP) : Keeps.Res mP wF r0 (execElect h island prio serial s) := by
  unfold execElect; try dsimp only
  with_reducible
    repeat' first
      | intro _ | assumption | exact within_trans (by decide +kernel) hm0 | apply State.updCas_keeps
      | apply State.onFlood_keeps | apply Keeps.next | apply Keeps.ite | apply Keeps.iteFst | split | dsimp only

theorem execMasterSearchTimeout_keeps {mP wF : Nat} {r0 : State} (s : State) (hk : Keeps mP wF r0 s) (hm0 : within 0x2819c3f mP) (hw0 : within 0xc1f008400000000000020000000000000000000000000000000000000000000701000000100000000000000000000000000000000000000000 wF) : Keeps.Res mP wF r0 (execMasterSearchTimeout s) := by
  unfold execMasterSearchTimeout; try dsimp only
  with_reducible
    repeat' first
      | intro _ | assumption | exact within_trans (by decide +kernel) hm0 | exact within_trans (by decide +kernel) hw0
      | apply State.updCas_keeps | apply State.csFlood_keeps | apply State.joinDone_keeps | apply Keeps.next
      | apply Keeps.ite | apply Keeps.iteFst | split | dsimp only | apply within_ite

theorem State.chanTick_keeps {mP wF : Nat} {r0 : State} (s : State) (c : Nat) (num : Nat) (edge : Nat) (count : Word) (hk : Keeps mP wF r0 s) (hm0 : within 0x2819ebf mP) (hw0 : within 0xc1f008400000000000020000000000000000000000000000000000000000000000000000100000008f2c000400000000000000000000000000 wF) : Keeps mP wF r0 (State.chanTick s c num edge count) := by
  unfold State.chanTick; try dsimp only
  with_reducible
    repeat' first
      | intro _ | assumption | exact within_trans (by decide +kernel) hm0 | exact within_trans (by decide +kernel) hw0
      | apply State.updCtx_keeps | apply State.tickEdge_keeps | apply State.updChan_keeps | apply Keeps.foldl
      | apply Keeps.foldlFst | apply Keeps.ite | split | dsimp only | apply within_ite

theorem State.floodTick_keeps {mP wF : Nat} {r0 : State} (s : State) (c : Nat) (num : Nat) (edge : Nat) (count : Word) (island : Bool) (hk : Keeps mP wF r0 s) (hm0 : within 0x2800000 mP) : Keeps mP wF r0 (State.floodTick s c num edge count island) := by
  unfold State.floodTick; try dsimp only
  with_reducible
    repeat' first
      | assumption | exact within_trans (by decide +kernel) hm0 | apply State.csFlood_keeps

theorem execTickEdge_keeps {mP wF : Nat} {r0 : State} (p : Pol) (chk : Option (Nat × Nat)) (s : State) (hk : Keeps mP wF r0 s) (hm0 : within 0x2819ebf mP) (hw0 : within 0xc1f008400000000000020000000000000000000000000000000000000000000000000000100000008f2c000400000000000000000000000000 wF) : Keeps.Res mP wF r0 (execTickEdge p chk s) := by
  unfold execTickEdge; try dsimp only
  with_reducible
    repeat' first
      | intro _ | assumption | exact within_trans (by decide +kernel) hm0 | exact within_trans (by decide +kernel) hw0
      | apply State.tickEdge_keeps | apply State.updChan_keeps | apply State.chanTick_keeps
      | apply State.floodTick_keeps | apply Keeps.next | apply Keeps.foldl | apply Keeps.foldlFst | apply Keeps.ite
      | apply Keeps.iteFst | split | dsimp only | apply within_ite

theorem State.reconcile_keeps {mP wF : Nat} {r0 : State} (s : State) (m : Nat) (f : CasTick) (hk : Keeps mP wF r0 s) (hm0 : within 0x2800831 mP) (hw0 : within 0xc1f000000000000000020000000000080010000000000000000000000000000000000000000000000000000000000000000000000000000000 wF) : Keeps mP wF r0 (State.reconcile s m f) := by
  unfold State.reconcile; try dsimp only
  with_reducible
    repeat' first
      | intro _ | assumption | exact within_trans (by decide +kernel) hm0 | exact within_trans (by decide +kernel) hw0
      | apply State.put_keeps | apply State.bump_keeps | apply State.csFlood_keeps | apply State.updChan_keeps
      | apply State.chanLog_keeps | dsimp only

theorem State.takeChan_keeps {mP wF : Nat} {r0 : State} (s : State) (m : Nat) (f : CasTick) (hk : Keeps mP wF r0 s) (hm0 : within 0x2819ebf mP) (hw0 : within 0xc1f008400000000000020000000000580010000000000000000000000000000000000000100000008f2c000400000000000000000000000000 wF) : Keeps mP wF r0 (State.takeChan s m f) := by
  unfold State.takeChan; try dsimp only
  with_reducible
    repeat' first
      | intro _ | assumption | exact within_trans (by decide +kernel) hm0 | exact within_trans (by decide +kernel) hw0
      | apply State.put_keeps | apply State.updChan_keeps | apply State.chanTick_keeps | apply State.reconcile_keeps
      | apply Keeps.ite | split | dsimp only | apply within_ite

theorem execTick_keeps {mP wF : Nat} {r0 : State} (h : CasHdr) (f : CasTick) (s : State) (hk : Keeps mP wF r0 s) (hm0 : within 0x2819ebf mP) (hw0 : within 0xc1f008400000000000020000000000580010100000000000000000000000000000000000100000008f2c000400000000000000000000000000 wF) : Keeps.Res mP wF r0 (execTick h f s) := by
  unfold execTick; try dsimp only
  with_reducible
    repeat' first
      | intro _ | assumption | exact within_trans (by decide +kernel) hm0 | exact within_trans (by decide +kernel) hw0
      | apply State.put_keeps | apply State.updCas_keeps | apply State.updChan_keeps | apply State.onFlood_keeps
      | apply State.takeChan_keeps | apply Keeps.next | apply Keeps.ite | apply Keeps.iteFst | split | dsimp only
      | apply within_ite

theorem execHb_keeps {mP wF : Nat} {r0 : State} (h : CasHdr) (st : Fin 8) (s : State) (hk : Keeps mP wF r0 s) (hm0 : within 0x2800000 mP) : Keeps.Res mP wF r0 (execHb h st s) := by
  unfold execHb; try dsimp only
  with_reducible
    repeat' first
      | intro _ | assumption | exact within_trans (by decide +kernel) hm0 | apply State.updCas_keeps
      | apply State.onFlood_keeps | apply Keeps.next | apply Keeps.ite | apply Keeps.iteFst | split | dsimp only

theorem execHbSend_keeps {mP wF : Nat} {r0 : State} (s : State) (hk : Keeps mP wF r0 s) (hm0 : within 0x2800831 mP) (hw0 : within 0xc1f000000000000000020000000000001007000000000000000000000000000000000000000000000000000000000400000000000000000000 wF) : Keeps.Res mP wF r0 (execHbSend s) := by
  unfold execHbSend; try dsimp only
  with_reducible
    repeat' first
      | intro _ | assumption | exact within_trans (by decide +kernel) hm0 | exact within_trans (by decide +kernel) hw0
      | apply State.csFlood_keeps | apply State.dropMember_keeps | apply State.dWorst_keeps | apply Keeps.next
      | apply Keeps.foldl | apply Keeps.foldlFst | apply Keeps.ite | apply Keeps.iteFst | split | dsimp only
      | apply within_ite

theorem State.holdChan_keeps {mP wF : Nat} {r0 : State} (s : State) (cause : Nat) (c : Nat) (hk : Keeps mP wF r0 s) (hm0 : within 0x2800831 mP) (hw0 : within 0xc1f000000000000000020000000000100000000000000000000000000000000000000000000000000000000000000000000000000000000000 wF) : Keeps mP wF r0 (State.holdChan s cause c) := by
  unfold State.holdChan; try dsimp only
  with_reducible
    repeat' first
      | intro _ | assumption | exact within_trans (by decide +kernel) hm0 | exact within_trans (by decide +kernel) hw0
      | apply State.put_keeps | apply State.updChan_keeps | apply State.chanLog_keeps | dsimp only

theorem State.holdover_keeps {mP wF : Nat} {r0 : State} (s : State) (cause : Nat) (m : Nat) (hk : Keeps mP wF r0 s) (hm0 : within 0x2800831 mP) (hw0 : within 0xc1f000000000000000020000000000100008500000000000000000000000000000000000000000000000000000000000000000000000000000 wF) : Keeps mP wF r0 (State.holdover s cause m) := by
  unfold State.holdover; try dsimp only
  with_reducible
    repeat' first
      | intro _ | assumption | exact within_trans (by decide +kernel) hm0 | exact within_trans (by decide +kernel) hw0
      | apply State.put_keeps | apply State.bump_keeps | apply State.updCas_keeps | apply State.setMaster_keeps
      | apply State.holdChan_keeps | apply Keeps.foldl | apply Keeps.foldlFst | apply Keeps.ite | split | dsimp only
      | apply within_ite

theorem State.loseVia_keeps {mP wF : Nat} {r0 : State} (s : State) (i : Nat) (hk : Keeps mP wF r0 s) (hm0 : within 0x2800831 mP) (hw0 : within 0xc1f000000000000000020000000000001004000000000000000000000000000000000000000000000000000000000400000000000000000000 wF) : Keeps mP wF r0 (State.loseVia s i) := by
  unfold State.loseVia; try dsimp only
  with_reducible
    repeat' first
      | intro _ | assumption | exact within_trans (by decide +kernel) hm0 | exact within_trans (by decide +kernel) hw0
      | apply State.updCas_keeps | apply State.dropMember_keeps | apply Keeps.ite | split | dsimp only
      | apply within_ite

theorem execMasterLoss_keeps {mP wF : Nat} {r0 : State} (m : Fin 16) (route : Bool) (s : State) (hk : Keeps mP wF r0 s) (hm0 : within 0x2800831 mP) (hw0 : within 0xc1f00000000000000002000000000010100c500000000000000000000000000000000000000000000000000000000400000000000000000000 wF) : Keeps.Res mP wF r0 (execMasterLoss m route s) := by
  unfold execMasterLoss; try dsimp only
  with_reducible
    repeat' first
      | assumption | exact within_trans (by decide +kernel) hm0 | exact within_trans (by decide +kernel) hw0
      | apply State.holdover_keeps | apply State.loseVia_keeps | apply Keeps.next | apply Keeps.ite
      | apply Keeps.iteFst | split | dsimp only | apply within_ite

theorem execHoldoverEdge_keeps {mP wF : Nat} {r0 : State} (chan : Fin 8) (s : State) (hk : Keeps mP wF r0 s) (hm0 : within 0x2819ebf mP) (hw0 : within 0xc1f008400000000000020000000000000000000000000000000000000000000000000000100000008f2c000400000000000000000000000000 wF) : Keeps.Res mP wF r0 (execHoldoverEdge chan s) := by
  unfold execHoldoverEdge; try dsimp only
  with_reducible
    repeat' first
      | intro _ | assumption | exact within_trans (by decide +kernel) hm0 | exact within_trans (by decide +kernel) hw0
      | apply State.updChan_keeps | apply State.chanTick_keeps | apply Keeps.next | apply Keeps.ite
      | apply Keeps.iteFst | split | dsimp only | apply within_ite

theorem State.chanStall_keeps {mP wF : Nat} {r0 : State} (s : State) (c : Nat) (hk : Keeps mP wF r0 s) (hm0 : within 0x2800831 mP) (hw0 : within 0xc1f000000000000000020000000000100000000000000000000000000000000000000000000000000400000000000000000000000000000000 wF) : Keeps mP wF r0 (State.chanStall s c) := by
  unfold State.chanStall; try dsimp only
  with_reducible
    repeat' first
      | intro _ | assumption | exact within_trans (by decide +kernel) hm0 | exact within_trans (by decide +kernel) hw0
      | apply State.put_keeps | apply State.updChan_keeps | apply State.chanLog_keeps | apply Keeps.foldl
      | apply Keeps.foldlFst | dsimp only

theorem execHoldoverEnd_keeps {mP wF : Nat} {r0 : State} (chan : Fin 8) (s : State) (hk : Keeps mP wF r0 s) (hm0 : within 0x2800831 mP) (hw0 : within 0xc1f000000000000000020000000000100000000000000000000000000000000000000000000000000400000000000000000000000000000000 wF) : Keeps.Res mP wF r0 (execHoldoverEnd chan s) := by
  unfold execHoldoverEnd; try dsimp only
  with_reducible
    repeat' first
      | intro _ | assumption | exact within_trans (by decide +kernel) hm0 | exact within_trans (by decide +kernel) hw0
      | apply State.updCas_keeps | apply State.csFlood_keeps | apply State.updChan_keeps | apply State.chanStall_keeps
      | apply Keeps.next | apply Keeps.ite | apply Keeps.iteFst | split | dsimp only | apply within_ite

theorem State.isleEnd_keeps {mP wF : Nat} {r0 : State} (s : State) (c : Nat) (hk : Keeps mP wF r0 s) (hm0 : within 0x2800831 mP) (hw0 : within 0xc1f000000000000000020000000000500000500000000000000000000000000000000000000000000400000000000000000000000000000000 wF) : Keeps mP wF r0 (State.isleEnd s c) := by
  unfold State.isleEnd; try dsimp only
  with_reducible
    repeat' first
      | intro _ | assumption | exact within_trans (by decide +kernel) hm0 | exact within_trans (by decide +kernel) hw0
      | apply State.put_keeps | apply State.updChan_keeps | apply State.csLog_keeps | apply State.adoptChan_keeps
      | apply State.setMaster_keeps | apply State.chanStall_keeps | apply Keeps.ite | split | dsimp only
      | apply within_ite

theorem execElectionWaitEnd_keeps {mP wF : Nat} {r0 : State} (island : Bool) (chan : Fin 8) (s : State) (hk : Keeps mP wF r0 s) (hm0 : within 0x2819c3f mP) (hw0 : within 0xc1f008400000000000020000000006700003500000000000000000000000000701000000100000000400000000000000000000000000000000 wF) : Keeps.Res mP wF r0 (execElectionWaitEnd island chan s) := by
  unfold execElectionWaitEnd; try dsimp only
  with_reducible
    repeat' first
      | intro _ | assumption | exact within_trans (by decide +kernel) hm0 | exact within_trans (by decide +kernel) hw0
      | apply State.put_keeps | apply State.updCas_keeps | apply State.joinDone_keeps | apply State.setMaster_keeps
      | apply State.becomeMaster_keeps | apply State.isleEnd_keeps | apply Keeps.next | apply Keeps.ite
      | apply Keeps.iteFst | split | dsimp only | apply within_ite

theorem execRecon_keeps {mP wF : Nat} {r0 : State} (h : CasHdr) (index : Fin 16) (chan : Fin 8) (old : Fin 16) (new : Fin 16) (ofs : BitVec 48) (s : State) (hk : Keeps mP wF r0 s) (hm0 : within 0x2800831 mP) (hw0 : within 0xc1f000000000000000020000000000000000000000000000000000000000000000000000000000000000000000000000000000000000000000 wF) : Keeps.Res mP wF r0 (execRecon h index chan old new ofs s) := by
  unfold execRecon; try dsimp only
  with_reducible
    repeat' first
      | intro _ | assumption | exact within_trans (by decide +kernel) hm0 | exact within_trans (by decide +kernel) hw0
      | apply State.chanLog_keeps | apply State.onFlood_keeps | apply Keeps.next | dsimp only

theorem execLeave_keeps {mP wF : Nat} {r0 : State} (h : CasHdr) (s : State) (hk : Keeps mP wF r0 s) (hm0 : within 0x2800831 mP) (hw0 : within 0xc1f00000000000000002000000000010100f500000000000000000000000000000000000000000000000000000000400000000000000000000 wF) : Keeps.Res mP wF r0 (execLeave h s) := by
  unfold execLeave; try dsimp only
  with_reducible
    repeat' first
      | intro _ | assumption | exact within_trans (by decide +kernel) hm0 | exact within_trans (by decide +kernel) hw0
      | apply State.dropMember_keeps | apply State.onFlood_keeps | apply State.dWorst_keeps
      | apply State.holdover_keeps | apply Keeps.next | apply Keeps.ite | apply Keeps.iteFst | split | dsimp only
      | apply within_ite

theorem execCal_keeps {mP wF : Nat} {r0 : State} (h : CasHdr) (answer : Option (Word × Word)) (s : State) (hk : Keeps mP wF r0 s) (hm0 : within 0x2800831 mP) (hw0 : within 0xc1f000000000000000020000000000000403000000000000000000000000000000000000000000000000000000000000000000000000000000 wF) : Keeps.Res mP wF r0 (execCal h answer s) := by
  unfold execCal; try dsimp only
  with_reducible
    repeat' first
      | intro _ | assumption | exact within_trans (by decide +kernel) hm0 | exact within_trans (by decide +kernel) hw0
      | apply State.put_keeps | apply State.updCsPort_keeps | apply State.csSend_keeps | apply State.onLink_keeps
      | apply State.dWorst_keeps | apply Keeps.next | split | dsimp only

theorem execCalSend_keeps {mP wF : Nat} {r0 : State} (port : Fin 4) (s : State) (hk : Keeps mP wF r0 s) (hm0 : within 0x2800000 mP) : Keeps.Res mP wF r0 (execCalSend port s) := by
  unfold execCalSend; try dsimp only
  with_reducible
    repeat' first
      | intro _ | assumption | exact within_trans (by decide +kernel) hm0 | apply State.updCsPort_keeps
      | apply State.csSend_keeps | apply Keeps.next | apply Keeps.ite | apply Keeps.iteFst | split | dsimp only

theorem execSync_keeps {mP wF : Nat} {r0 : State} (h : CasHdr) (parentTime : Word) (s : State) (hk : Keeps mP wF r0 s) (hm0 : within 0x2800a31 mP) (hw0 : within 0xc1f000000000000000020000000000000000800000000000000000000000000000000000000000000000000000380000000000000000000000 wF) : Keeps.Res mP wF r0 (execSync h parentTime s) := by
  unfold execSync; try dsimp only
  with_reducible
    repeat' first
      | intro _ | assumption | exact within_trans (by decide +kernel) hm0 | exact within_trans (by decide +kernel) hw0
      | apply State.setFlag_keeps | apply State.servoPhase_keeps | apply State.sourceLost_keeps
      | apply State.onLink_keeps | apply Keeps.next | apply Keeps.ite | apply Keeps.iteFst | split | dsimp only
      | apply within_ite

theorem execSyncSend_keeps {mP wF : Nat} {r0 : State} (s : State) (hk : Keeps mP wF r0 s) (hm0 : within 0x2800000 mP) : Keeps.Res mP wF r0 (execSyncSend s) := by
  unfold execSyncSend; try dsimp only
  with_reducible
    repeat' first
      | intro _ | assumption | exact within_trans (by decide +kernel) hm0 | apply State.csSend_keeps
      | apply Keeps.next | apply Keeps.foldl | apply Keeps.foldlFst | apply Keeps.ite | apply Keeps.iteFst | split
      | dsimp only

theorem execCascadeLinkResend_keeps {mP wF : Nat} {r0 : State} (port : Fin 4) (lack : Option (BitVec 16)) (s : State) (hk : Keeps mP wF r0 s) (hm0 : within 0x2800001 mP) (hw0 : within 0x20000000000000000000000000000000000000000000000000000000000000000000000000000000 wF) : Keeps.Res mP wF r0 (execCascadeLinkResend port lack s) := by
  unfold execCascadeLinkResend; try dsimp only
  with_reducible
    repeat' first
      | intro _ | assumption | exact within_trans (by decide +kernel) hm0 | exact within_trans (by decide +kernel) hw0
      | apply State.bump_keeps | apply State.emit_keeps | apply State.updCsPort_keeps | apply State.csAck_keeps
      | apply Keeps.next | apply Keeps.foldl | apply Keeps.foldlFst | apply Keeps.ite | apply Keeps.iteFst | split
      | dsimp only | apply within_ite

theorem execCascadeLinkDown_keeps {mP wF : Nat} {r0 : State} (port : Fin 4) (s : State) (hk : Keeps mP wF r0 s) (hm0 : within 0x2800831 mP) (hw0 : within 0xc1f00000000000000002000000000010118f500000000000000000000000000000000000000000000000000000000400000000000000000000 wF) : Keeps.Res mP wF r0 (execCascadeLinkDown port s) := by
  unfold execCascadeLinkDown; try dsimp only
  with_reducible
    repeat' first
      | intro _ | assumption | exact within_trans (by decide +kernel) hm0 | exact within_trans (by decide +kernel) hw0
      | apply State.setFlag_keeps | apply State.updCas_keeps | apply State.csLog_keeps | apply State.dropMember_keeps
      | apply State.dWorst_keeps | apply State.holdover_keeps | apply Keeps.next | apply Keeps.foldl
      | apply Keeps.foldlFst | apply Keeps.ite | apply Keeps.iteFst | split | dsimp only | apply within_ite

theorem execCascadeLinkUp_keeps {mP wF : Nat} {r0 : State} (port : Fin 4) (s : State) (hk : Keeps mP wF r0 s) (hm0 : within 0x2800831 mP) (hw0 : within 0xc1f000000000000000020000000000000080000000000000000000000000000000000000000000000000000000000000000000000000000000 wF) : Keeps.Res mP wF r0 (execCascadeLinkUp port s) := by
  unfold execCascadeLinkUp; try dsimp only
  with_reducible
    repeat' first
      | intro _ | assumption | exact within_trans (by decide +kernel) hm0 | exact within_trans (by decide +kernel) hw0
      | apply State.setFlag_keeps | apply State.updCas_keeps | apply State.csLog_keeps | apply Keeps.next
      | apply Keeps.ite | apply Keeps.iteFst | split | dsimp only | apply within_ite

theorem State.joinStart_keeps {mP wF : Nat} {r0 : State} (s : State) (mask : Nat) (w : Nat → Nat) (hk : Keeps mP wF r0 s) (hm0 : within 0x800001 mP) (hw0 : within 0x19800001ff000000000000000000000000000000000000000000000000000000000000000000000000000 wF) : Keeps mP wF r0 (State.joinStart s mask w) := by
  unfold State.joinStart; try dsimp only
  with_reducible
    repeat' first
      | intro _ | assumption | exact within_trans (by decide +kernel) hm0 | exact within_trans (by decide +kernel) hw0
      | apply State.put_keeps | apply State.setFlag_keeps | apply State.updCas_keeps | apply State.updChan_keeps
      | apply State.putTiming_keeps | apply Keeps.foldl | apply Keeps.foldlFst | apply Keeps.ite | split | dsimp only
      | apply within_ite

theorem execCascadeJoin_keeps {mP wF : Nat} {r0 : State} (c : Cmd) (s : State) (hk : Keeps mP wF r0 s) (hm0 : within 0x2819c3f mP) (hw0 : within 0xc1f0084000000000000200000000019800001ff000000000000000000000000000000000100000000000000000000400000000000000000000 wF) : Keeps.Res mP wF r0 (execCascadeJoin c s) := by
  unfold execCascadeJoin; try dsimp only
  with_reducible
    repeat' first
      | intro _ | assumption | exact within_trans (by decide +kernel) hm0 | exact within_trans (by decide +kernel) hw0
      | apply runCmdLater_keeps | apply State.updCas_keeps | apply State.joinStart_keeps | apply Keeps.next
      | apply Keeps.ite | apply Keeps.iteFst | split | dsimp only | apply within_ite

theorem State.csLeaveAll_keeps {mP wF : Nat} {r0 : State} (s : State) (hk : Keeps mP wF r0 s) (hm0 : within 0x2800831 mP) (hw0 : within 0xc1f000000000000000020000000000101184101000000000000000000000000000000000000000000400000000000400000000000000000000 wF) : Keeps mP wF r0 (State.csLeaveAll s) := by
  unfold State.csLeaveAll; try dsimp only
  with_reducible
    repeat' first
      | intro _ | assumption | exact within_trans (by decide +kernel) hm0 | exact within_trans (by decide +kernel) hw0
      | apply State.csFlood_keeps | apply State.csOff_keeps | apply State.chanStall_keeps | apply Keeps.foldl
      | apply Keeps.foldlFst | apply Keeps.ite | split | dsimp only | apply within_ite

theorem execCascadeLeave_keeps {mP wF : Nat} {r0 : State} (c : Cmd) (s : State) (hk : Keeps mP wF r0 s) (hm0 : within 0x2819c3f mP) (hw0 : within 0xc1f008400000000000020000000000101184101000000000000000000000000701000000100000000400000000000400000000000000000000 wF) : Keeps.Res mP wF r0 (execCascadeLeave c s) := by
  unfold execCascadeLeave; try dsimp only
  with_reducible
    repeat' first
      | intro _ | assumption | exact within_trans (by decide +kernel) hm0 | exact within_trans (by decide +kernel) hw0
      | apply runCmd_keeps | apply State.joinDone_keeps | apply State.csLeaveAll_keeps | apply Keeps.next
      | apply Keeps.ite | apply Keeps.iteFst | split | dsimp only | apply within_ite

theorem execSetCsTbind_keeps {mP wF : Nat} {r0 : State} (c : Cmd) (s : State) (hk : Keeps mP wF r0 s) (hm0 : within 0x2019c3f mP) (hw0 : within 0xc1f008400000000000020000000018000000000000000000000000000000000000000000100000000000000000000400000000000000000000 wF) : Keeps.Res mP wF r0 (execSetCsTbind c s) := by
  unfold execSetCsTbind; try dsimp only
  with_reducible
    repeat' first
      | intro _ | assumption | exact within_trans (by decide +kernel) hm0 | exact within_trans (by decide +kernel) hw0
      | apply State.put_keeps | apply State.setFlag_keeps | apply State.silence_keeps | apply runCmd_keeps
      | apply Keeps.next | apply Keeps.ite | apply Keeps.iteFst | split | dsimp only | apply within_ite

theorem execSetRelay_keeps {mP wF : Nat} {r0 : State} (c : Cmd) (s : State) (hk : Keeps mP wF r0 s) (hm0 : within 0x2819c3f mP) (hw0 : within 0xc1f008400000000000020000000000000000000000000000000000000000000000000000100000000000000000000400000000000000000000 wF) : Keeps.Res mP wF r0 (execSetRelay c s) := by
  unfold execSetRelay; try dsimp only
  with_reducible
    repeat' first
      | intro _ | assumption | exact within_trans (by decide +kernel) hm0 | exact within_trans (by decide +kernel) hw0
      | apply State.setSq_keeps | apply runCmd_keeps | apply State.relay_keeps | apply Keeps.next | apply Keeps.ite
      | apply Keeps.iteFst | split | dsimp only | apply within_ite

theorem State.relayIn_keeps {mP wF : Nat} {r0 : State} (s : State) (h : CasHdr) (x : RelayCmdHead) (data : List Byte) (hk : Keeps mP wF r0 s) (hm0 : within 0x201941f mP) (hw0 : within 0x8400000000000000000000000000000000000000000000000000000000000000000100000000000000000000000000000000000000000 wF) : Keeps mP wF r0 (State.relayIn s h x data) := by
  unfold State.relayIn; try dsimp only
  with_reducible
    repeat' first
      | intro _ | assumption | exact within_trans (by decide +kernel) hm0 | exact within_trans (by decide +kernel) hw0
      | apply State.updCp_keeps | apply State.finish_keeps | apply Keeps.ite | split | dsimp only | apply within_ite

theorem execRelayCmd_keeps {mP wF : Nat} {r0 : State} (h : CasHdr) (hd : Option RelayCmdHead) (data : List Byte) (s : State) (hk : Keeps mP wF r0 s) (hm0 : within 0x281941f mP) (hw0 : within 0x8400000000000000000000000000000000000000000000000000000000000000000100000000000000000000000000000000000000000 wF) : Keeps.Res mP wF r0 (execRelayCmd h hd data s) := by
  unfold execRelayCmd; try dsimp only
  with_reducible
    repeat' first
      | intro _ | assumption | exact within_trans (by decide +kernel) hm0 | exact within_trans (by decide +kernel) hw0
      | apply State.updCas_keeps | apply State.onRoute_keeps | apply State.relayIn_keeps | apply Keeps.next
      | apply Keeps.ite | apply Keeps.iteFst | split | dsimp only | apply within_ite

theorem State.relayDone_keeps {mP wF : Nat} {r0 : State} (s : State) (x : RelayCplHead) (data : List Byte) (hk : Keeps mP wF r0 s) (hm0 : within 0x201941f mP) (hw0 : within 0x8400000000000000000000000000000000000000000000000000000000000000000100000000000000000000000000000000000000000 wF) : Keeps mP wF r0 (State.relayDone s x data) := by
  unfold State.relayDone; try dsimp only
  with_reducible
    repeat' first
      | assumption | exact within_trans (by decide +kernel) hm0 | exact within_trans (by decide +kernel) hw0
      | apply State.finishAt_keeps | split | dsimp only

theorem execRelayCpl_keeps {mP wF : Nat} {r0 : State} (h : CasHdr) (hd : Option RelayCplHead) (data : List Byte) (s : State) (hk : Keeps mP wF r0 s) (hm0 : within 0x281941f mP) (hw0 : within 0x8400000000000000000000000000000000000000000000000000000000000000000100000000000000000000000000000000000000000 wF) : Keeps.Res mP wF r0 (execRelayCpl h hd data s) := by
  unfold execRelayCpl; try dsimp only
  with_reducible
    repeat' first
      | intro _ | assumption | exact within_trans (by decide +kernel) hm0 | exact within_trans (by decide +kernel) hw0
      | apply State.updCas_keeps | apply State.onRoute_keeps | apply State.relayDone_keeps | apply Keeps.next
      | apply Keeps.ite | apply Keeps.iteFst | split | dsimp only | apply within_ite

theorem State.casServe_keeps {mP wF : Nat} {r0 : State} (s : State) (h : CasHdr) (x : XferArg) (m : Msg) (hk : Keeps mP wF r0 s) (hm0 : within 0x829001 mP) (hw0 : within 0x8400000000000000000000000000000000000000000000000000000000000000000000000000000000000000000000000000000000000 wF) : Keeps mP wF r0 (State.casServe s h x m) := by
  unfold State.casServe; try dsimp only
  with_reducible
    repeat' first
      | intro _ | assumption | exact within_trans (by decide +kernel) hm0 | exact within_trans (by decide +kernel) hw0
      | apply State.updCas_keeps | apply State.ioSend_keeps | dsimp only

theorem execPut_keeps {mP wF : Nat} {r0 : State} (h : CasHdr) (x : XferArg) (data : BitVec 512) (s : State) (hk : Keeps mP wF r0 s) (hm0 : within 0x2829831 mP) (hw0 : within 0xc1f008400000000000020000000000000000000000000000000000000000000000000000000000000000000000000400000000000000000000 wF) : Keeps.Res mP wF r0 (execPut h x data s) := by
  unfold execPut; try dsimp only
  with_reducible
    repeat' first
      | intro _ | assumption | exact within_trans (by decide +kernel) hm0 | exact within_trans (by decide +kernel) hw0
      | apply State.refuse_keeps | apply State.csSendTo_keeps | apply State.onRoute_keeps | apply State.casServe_keeps
      | apply Keeps.next | split | dsimp only

theorem execGetReq_keeps {mP wF : Nat} {r0 : State} (h : CasHdr) (x : XferArg) (s : State) (hk : Keeps mP wF r0 s) (hm0 : within 0x2829831 mP) (hw0 : within 0xc1f008400000000000020000000000000000000000000000000000000000000000000000000000000000000000000400000000000000000000 wF) : Keeps.Res mP wF r0 (execGetReq h x s) := by
  unfold execGetReq; try dsimp only
  with_reducible
    repeat' first
      | intro _ | assumption | exact within_trans (by decide +kernel) hm0 | exact within_trans (by decide +kernel) hw0
      | apply State.refuse_keeps | apply State.csSendTo_keeps | apply State.onRoute_keeps | apply State.casServe_keeps
      | apply Keeps.next | split | dsimp only

theorem State.csCommit_keeps {mP wF : Nat} {r0 : State} (s : State) (hk : Keeps mP wF r0 s) (hm0 : within 0x1 mP)
    (hw0 : within 0x7e0000000000000000000000000000000000000000000000000000000000000000000000000000000000000 wF) : Keeps mP wF r0 s.csCommit := by
  have cp : ∀ (src dst : Fld) (t : State), within dst.mask wF → Keeps mP wF r0 t →
      Keeps mP wF r0 ((List.range 16).foldl (fun u k => u.put dst k (t.get src k)) t) := fun _ _ _ hd ht =>
    Keeps.foldl ht fun _ _ hu => State.put_keeps _ _ _ _ hu hm0 hd
  unfold State.csCommit
  split
  · exact hk
  · repeat' first
      | with_reducible exact hk
      | with_reducible exact within_trans (by decide +kernel) hw0
      | with_reducible apply cp

theorem execCsWcommit_keeps {mP wF : Nat} {r0 : State} (a : Acc) (h : Half) (v : Word) (s : State) (hk : Keeps mP wF r0 s) (hm0 : within 0x2000831 mP) (hw0 : within 0xc1f0000000000000000200000007e0000000000000000000000000000000000000000000000000000000000000000400000000000000000000 wF) : Keeps.Res mP wF r0 (execCsWcommit a h v s) := by
  unfold execCsWcommit; try dsimp only
  with_reducible
    repeat' first
      | intro _ | assumption | exact within_trans (by decide +kernel) hm0 | exact within_trans (by decide +kernel) hw0
      | apply State.secureOnly_keeps | apply State.csCommit_keeps | apply Keeps.next | apply Keeps.ite
      | apply Keeps.iteFst | split | dsimp only | apply within_ite

theorem State.nextXfer_keeps {mP wF : Nat} {r0 : State} (s : State) (p : Nat) (hk : Keeps mP wF r0 s) (hm0 : within 0x2800831 mP) (hw0 : within 0xc1f000000000000000020000000000000000000000000000000000000000000000000000000000000000000000000400000000000000000000 wF) : Keeps mP wF r0 (State.nextXfer s p) := by
  unfold State.nextXfer; try dsimp only
  with_reducible
    repeat' first
      | assumption | exact within_trans (by decide +kernel) hm0 | exact within_trans (by decide +kernel) hw0
      | apply State.setXfer_keeps | apply State.polRead_keeps | apply State.sendXfer_keeps | apply Keeps.ite
      | refine Keeps.fst ?_ (by assumption) | split | dsimp only | apply within_ite

theorem State.sqTail_keeps {mP wF : Nat} {r0 : State} (s : State) (p : Nat) (v : Nat) (hk : Keeps mP wF r0 s) (hm0 : within 0x2800831 mP) (hw0 : within 0xc1f000000000000000020000000000000000000000000000000000000000000000000000000000000000000000000400008000000000000000 wF) : Keeps mP wF r0 (State.sqTail s p v) := by
  unfold State.sqTail; try dsimp only
  with_reducible
    repeat' first
      | assumption | exact within_trans (by decide +kernel) hm0 | exact within_trans (by decide +kernel) hw0
      | apply State.put_keeps | apply State.nextXfer_keeps | apply Keeps.ite | split | dsimp only | apply within_ite

theorem execCsSqtail_keeps {mP wF : Nat} {r0 : State} (a : Acc) (p : Pol) (v : Word) (s : State) (hk : Keeps mP wF r0 s) (hm0 : within 0x2800831 mP) (hw0 : within 0xc1f000000000000000020000000000000000000000000000000000000000000000000000000000000000000000000400008000000000000000 wF) : Keeps.Res mP wF r0 (execCsSqtail a p v s) := by
  unfold execCsSqtail; try dsimp only
  with_reducible
    repeat' first
      | intro _ | assumption | exact within_trans (by decide +kernel) hm0 | exact within_trans (by decide +kernel) hw0
      | apply State.mboxAccess_keeps | apply State.sqTail_keeps | apply Keeps.next | dsimp only

theorem execPutAck_keeps {mP wF : Nat} {r0 : State} (h : CasHdr) (x : XferArg) (s : State) (hk : Keeps mP wF r0 s) (hm0 : within 0x2800000 mP) : Keeps.Res mP wF r0 (execPutAck h x s) := by
  unfold execPutAck; try dsimp only
  with_reducible
    repeat' first
      | intro _ | assumption | exact within_trans (by decide +kernel) hm0 | apply State.setXfer_keeps
      | apply State.onRoute_keeps | apply Keeps.next | split | dsimp only

theorem execGetData_keeps {mP wF : Nat} {r0 : State} (h : CasHdr) (x : XferArg) (data : BitVec 512) (s : State) (hk : Keeps mP wF r0 s) (hm0 : within 0x2819c3f mP) (hw0 : within 0xc1f008400000000000020000000000000000000000000000000000000000000000000000100000000000000000000400000000000000000000 wF) : Keeps.Res mP wF r0 (execGetData h x data s) := by
  unfold execGetData; try dsimp only
  with_reducible
    repeat' first
      | intro _ | assumption | exact within_trans (by decide +kernel) hm0 | exact within_trans (by decide +kernel) hw0
      | apply State.setXfer_keeps | apply State.polWrite_keeps | apply State.onRoute_keeps | apply Keeps.next | split
      | dsimp only

theorem execTransferDone_keeps {mP wF : Nat} {r0 : State} (p : Pol) (s : State) (hk : Keeps mP wF r0 s) (hm0 : within 0x2819cbf mP) (hw0 : within 0xc1f008400000000000020000000000000040000000000000000000000000000000000000100000000000000000000400000000000000000000 wF) : Keeps.Res mP wF r0 (execTransferDone p s) := by
  unfold execTransferDone; try dsimp only
  with_reducible
    repeat' first
      | intro _ | assumption | exact within_trans (by decide +kernel) hm0 | exact within_trans (by decide +kernel) hw0
      | apply State.bump_keeps | apply State.updPolder_keeps | apply State.setXfer_keeps | apply State.polWrite_keeps
      | apply State.nextXfer_keeps | apply Keeps.next | apply Keeps.ite | apply Keeps.iteFst | split | dsimp only
      | apply within_ite

theorem execSetSendRing_keeps {mP wF : Nat} {r0 : State} (c : Cmd) (s : State) (hk : Keeps mP wF r0 s) (hm0 : within 0x2819cbf mP) (hw0 : within 0xc1f008400000000000020000000000000000000000000000000000000000000000000000100000000000000000000400008000000000000000 wF) : Keeps.Res mP wF r0 (execSetSendRing c s) := by
  unfold execSetSendRing; try dsimp only
  with_reducible
    repeat' first
      | intro _ | assumption | exact within_trans (by decide +kernel) hm0 | exact within_trans (by decide +kernel) hw0
      | apply State.put_keeps | apply State.setPolder_keeps | apply State.silence_keeps | apply runCmd_keeps
      | apply State.setXfer_keeps | apply Keeps.next | apply Keeps.ite | apply Keeps.iteFst | split | dsimp only
      | apply within_ite

end Sys2Proof.Machine
end

