-- ==== Sys2Proof/Laws/KeepsBerm.lean ====
section
/-! SUPPORT. The operations of Machine/Berm.lean keep the memory form, the field widths and the queue. -/

set_option Elab.async false
namespace Sys2Proof.Machine

theorem goodFld_within {wF : Nat} (h : Nat) (hw0 : within 0x140000000000 wF) : within (goodFld h).mask wF := by
  unfold goodFld
  exact within_ite (within_trans (by decide +kernel) hw0) (within_trans (by decide +kernel) hw0)

theorem selFld_within {wF : Nat} (h : Nat) (hw0 : within 0x280000000000 wF) : within (selFld h).mask wF := by
  unfold selFld
  exact within_ite (within_trans (by decide +kernel) hw0) (within_trans (by decide +kernel) hw0)

theorem State.leaveCore_keeps {mP wF : Nat} {r0 : State} (s : State) (g : Nat) (serv : Nat) (hk : Keeps mP wF r0 s) (hm0 : within 0x2019c3f mP) (hw0 : within 0xc1f0084000001000000200000000000000000000000000000000000000000000000000001020400c0000000000000000000000000000000000 wF) : Keeps mP wF r0 (State.leaveCore s g serv) := by
  unfold State.leaveCore; try dsimp only
  with_reducible
    repeat' first
      | assumption | exact within_trans (by decide +kernel) hm0 | exact within_trans (by decide +kernel) hw0
      | apply State.put_keeps | apply State.setVote_keeps | apply State.parkCore_keeps | apply State.freeToken_keeps
      | apply State.dropSamples_keeps | apply State.undoTick_keeps | apply State.answerParked_keeps
      | apply State.cleanCore_keeps | apply Keeps.ite | split | dsimp only | apply within_ite

theorem State.unberm_keeps {mP wF : Nat} {r0 : State} (s : State) (g : Nat) (serv : Nat) (hk : Keeps mP wF r0 s) (hm0 : within 0x401 mP) (hw0 : within 0x1ffe0000000 wF) : Keeps mP wF r0 (State.unberm s g serv) := by
  unfold State.unberm; try dsimp only
  with_reducible
    repeat' first
      | assumption | exact within_trans (by decide +kernel) hm0 | exact within_trans (by decide +kernel) hw0
      | apply State.put_keeps | apply State.parkCore_keeps | apply Keeps.ite | split | dsimp only | apply within_ite
      | apply bmFld_within

theorem State.armMigr_keeps {mP wF : Nat} {r0 : State} (s : State) (g : Nat) (cause : Nat) (cmd : Option Cmd) (hk : Keeps mP wF r0 s) (hm0 : within 0x80400 mP) : Keeps.Opt mP wF r0 (State.armMigr s g cause cmd) := by
  unfold State.armMigr; try dsimp only
  with_reducible
    repeat' first
      | intro _ | assumption | exact within_trans (by decide +kernel) hm0 | apply State.updCore_keeps
      | apply State.updBerm_keeps | apply Keeps.optNone | apply Keeps.optSome | split
      | refine Keeps.record ?_ rfl (fun p hp => by cases p <;> first | exact absurd (hp.symm.trans (within_bit hm0 (by decide +kernel))) Bool.false_ne_true | with_unfolding_all exact rfl)
      | dsimp only

theorem State.migrMove_keeps {mP wF : Nat} {r0 : State} (s : State) (x : Migr) (hk : Keeps mP wF r0 s) (hm0 : within 0x6099cbf mP) (hw0 : within 0xc1f0084000001000000200008000000000000000000000000000000000000000000000001020400c000000000000000000000001ffe0000000 wF) : Keeps mP wF r0 (State.migrMove s x) := by
  unfold State.migrMove; try dsimp only
  with_reducible
    repeat' first
      | intro _ | assumption | exact within_trans (by decide +kernel) hm0 | exact within_trans (by decide +kernel) hw0
      | apply State.updCore_keeps | apply State.updBerm_keeps | apply State.finish_keeps | apply State.bermLog_keeps
      | apply State.retireCore_keeps | apply State.assign_keeps | apply State.leaveCore_keeps | apply Keeps.ite
      | split | dsimp only | apply within_ite

theorem execPlannedMigration_keeps {mP wF : Nat} {r0 : State} (g : GCore) (s : State) (hk : Keeps mP wF r0 s) (hm0 : within 0x6099cbf mP) (hw0 : within 0xc1f0084000001000000200008000000000000000000000000000000000000000000000001020400c000000000000000000000001ffe0000000 wF) : Keeps.Res mP wF r0 (execPlannedMigration g s) := by
  unfold execPlannedMigration; try dsimp only
  with_reducible
    repeat' first
      | assumption | exact within_trans (by decide +kernel) hm0 | exact within_trans (by decide +kernel) hw0
      | apply State.migrMove_keeps | apply Keeps.next | apply Keeps.ite | apply Keeps.iteFst | split | dsimp only
      | apply within_ite

theorem State.migrLate_keeps {mP wF : Nat} {r0 : State} (s : State) (n : Nat) (hk : Keeps mP wF r0 s) (hm0 : within 0x401 mP) (hw0 : within 0x100000000000000000000000000000000000 wF) : Keeps mP wF r0 (State.migrLate s n) := by
  unfold State.migrLate; try dsimp only
  with_reducible
    repeat' first
      | intro _ | assumption | exact within_trans (by decide +kernel) hm0 | exact within_trans (by decide +kernel) hw0
      | apply State.bump_keeps | apply State.updTick_keeps | apply Keeps.ite | split | dsimp only | apply within_ite

theorem execMigrationLoad_keeps {mP wF : Nat} {r0 : State} (p : Pol) (l : Byte) (s : State) (hk : Keeps mP wF r0 s) (hm0 : within 0x2099e3f mP) (hw0 : within 0xc1f008400000000000020000000000000000000000000000000000000000000000000000100000106000000000000000000000000000000000 wF) : Keeps.Res mP wF r0 (execMigrationLoad p l s) := by
  unfold execMigrationLoad; try dsimp only
  with_reducible
    repeat' first
      | intro _ | assumption | exact within_trans (by decide +kernel) hm0 | exact within_trans (by decide +kernel) hw0
      | apply State.updCore_keeps | apply State.updTick_keeps | apply State.loadBody_keeps
      | apply State.migrTaken_keeps | apply State.tryTake_keeps | apply State.migrLate_keeps | apply Keeps.next
      | apply Keeps.ite | apply Keeps.iteFst | split
      | refine Keeps.record ?_ rfl (fun p hp => by cases p <;> first | exact absurd (hp.symm.trans (within_bit hm0 (by decide +kernel))) Bool.false_ne_true | with_unfolding_all exact rfl)
      | dsimp only | apply within_ite

theorem State.armDie_keeps {mP wF : Nat} {r0 : State} (s : State) (d : Nat) (cause : Nat) (cmd : Option Cmd) (hk : Keeps mP wF r0 s) (hm0 : within 0x2099cbf mP) (hw0 : within 0xc1f0084000001000000200000000000000000000000000000000000000000000000000001020402c000000000000000000000001ffe0000000 wF) : Keeps mP wF r0 (State.armDie s d cause cmd) := by
  unfold State.armDie; try dsimp only
  with_reducible
    repeat' first
      | intro _ | assumption | exact within_trans (by decide +kernel) hm0 | exact within_trans (by decide +kernel) hw0
      | apply State.updBerm_keeps | apply State.vacate_keeps | apply State.leaveCore_keeps | apply State.unberm_keeps
      | apply State.armMigr_keeps | apply Keeps.foldl | apply Keeps.foldlFst | apply Keeps.ite | apply Keeps.iteOpt
      | exact Keeps.optNone | apply Keeps.optSome | refine Keeps.opt ?_ (by assumption) | split | dsimp only
      | apply within_ite

theorem State.dropTraffic_keeps {mP wF : Nat} {r0 : State} (s : State) (d : Nat) (hk : Keeps mP wF r0 s) (hm0 : within 0x9001 mP) (hw0 : within 0x8400000000000000000000000000000000000000000000000000000000000000000000000000000000000000000000000000000000000 wF) : Keeps mP wF r0 (State.dropTraffic s d) := by
  unfold State.dropTraffic; try dsimp only
  with_reducible
    repeat' first
      | intro _ | assumption | exact within_trans (by decide +kernel) hm0 | exact within_trans (by decide +kernel) hw0
      | apply State.updFabric_keeps | apply State.send_keeps | apply State.snoopAnswer_keeps | apply Keeps.foldl
      | apply Keeps.foldlFst | apply Keeps.ite | split | dsimp only | apply within_ite

theorem State.dieOut_keeps {mP wF : Nat} {r0 : State} (s : State) (d : Nat) (cause : Nat) (hk : Keeps mP wF r0 s) (hm0 : within 0x2299c3f mP) (hw0 : within 0xc1f00840000000000002000080000000000000000000000010000800000000000020000010000000000000000000000000000001ffe0000000 wF) : Keeps mP wF r0 (State.dieOut s d cause) := by
  unfold State.dieOut; try dsimp only
  with_reducible
    repeat' first
      | intro _ | assumption | exact within_trans (by decide +kernel) hm0 | exact within_trans (by decide +kernel) hw0
      | apply State.put_keeps | apply State.updDie_keeps | apply State.updDirs_keeps | apply State.updBerm_keeps
      | apply State.finish_keeps | apply State.retired_keeps | apply State.setModState_keeps
      | apply State.pathsOf_keeps | apply State.unberm_keeps | apply State.dropTraffic_keeps | apply Keeps.foldl
      | apply Keeps.foldlFst | apply Keeps.ite | split | dsimp only | apply within_ite

theorem execDieRetire_keeps {mP wF : Nat} {r0 : State} (d : Die) (s : State) (hk : Keeps mP wF r0 s) (hm0 : within 0x2299cbf mP) (hw0 : within 0xc1f0084000001000000200008000000000000000000000001000080000000000002000001020402c000000000000000000000001ffe0000000 wF) : Keeps.Res mP wF r0 (execDieRetire d s) := by
  unfold execDieRetire; try dsimp only
  with_reducible
    repeat' first
      | intro _ | assumption | exact within_trans (by decide +kernel) hm0 | exact within_trans (by decide +kernel) hw0
      | apply State.armDie_keeps | apply State.dieOut_keeps | apply Keeps.next | apply Keeps.ite | apply Keeps.iteFst
      | split | dsimp only | apply within_ite

theorem State.dieLoss_keeps {mP wF : Nat} {r0 : State} (s : State) (d : Nat) (hk : Keeps mP wF r0 s) (hm0 : within 0x6299cbf mP) (hw0 : within 0xc1f0084000001000000200008000000000000000000000001000080000000000002000001020427c000000000000000000000001ffe0000000 wF) : Keeps mP wF r0 (State.dieLoss s d) := by
  unfold State.dieLoss; try dsimp only
  with_reducible
    repeat' first
      | intro _ | assumption | exact within_trans (by decide +kernel) hm0 | exact within_trans (by decide +kernel) hw0
      | apply State.updDie_keeps | apply State.answerParked_keeps | apply State.fence_keeps | apply State.unberm_keeps
      | apply State.dieOut_keeps | apply Keeps.foldl | apply Keeps.foldlFst | apply Keeps.ite | split | dsimp only
      | apply within_ite

theorem execDieHeartbeatLoss_keeps {mP wF : Nat} {r0 : State} (d : Die) (s : State) (hk : Keeps mP wF r0 s) (hm0 : within 0x6299cbf mP) (hw0 : within 0xc1f0084000001000000200008000000000000000000000001000080000000000002000001020427c000000000000000000000001ffe0000000 wF) : Keeps.Res mP wF r0 (execDieHeartbeatLoss d s) := by
  unfold execDieHeartbeatLoss; try dsimp only
  with_reducible
    repeat' first
      | assumption | exact within_trans (by decide +kernel) hm0 | exact within_trans (by decide +kernel) hw0
      | apply State.dieLoss_keeps | apply Keeps.next

theorem State.retireWay_keeps {mP wF : Nat} {r0 : State} (s : State) (kind : Nat) (i : Nat) (cause : Nat) (cmd : Option Cmd) (hk : Keeps mP wF r0 s) (hm0 : within 0x2099cbf mP) (hw0 : within 0xc1f0084000001000000200008000000000000000000000000000000000000000000030001060402c000000000000000000000001ffe0000000 wF) : Keeps.Opt mP wF r0 (State.retireWay s kind i cause cmd) := by
  unfold State.retireWay; try dsimp only
  with_reducible
    repeat' first
      | intro _ | assumption | exact within_trans (by decide +kernel) hm0 | exact within_trans (by decide +kernel) hw0
      | apply State.updBerm_keeps | apply State.finish_keeps | apply State.waysAtClose_keeps
      | apply State.retireCore_keeps | apply State.armMigr_keeps | apply State.armDie_keeps | apply Keeps.optNone
      | apply Keeps.optSome | apply Keeps.ite | apply Keeps.iteFst | apply Keeps.iteOpt | exact Keeps.optNone
      | apply Keeps.optSome | refine Keeps.opt ?_ (by assumption) | split | dsimp only | apply within_ite

theorem State.clearWay_keeps {mP wF : Nat} {r0 : State} (s : State) (d : Nat) (key : Nat) (hk : Keeps mP wF r0 s) (hm0 : within 0x1000 mP) : Keeps mP wF r0 (State.clearWay s d key) := by
  unfold State.clearWay; try dsimp only
  with_reducible
    repeat' first
      | intro _ | assumption | exact within_trans (by decide +kernel) hm0 | apply State.updDie_keeps | dsimp only

theorem execCacheWayRetire_keeps {mP wF : Nat} {r0 : State} (u : CacheWay) (s : State) (hk : Keeps mP wF r0 s) (hm0 : within 0x2099cbf mP) (hw0 : within 0xc1f0084000001000000200008000000000000000000000000000000000000000000030001060402c000000000000000000000001ffe0000000 wF) : Keeps.Res mP wF r0 (execCacheWayRetire u s) := by
  unfold execCacheWayRetire; try dsimp only
  with_reducible
    repeat' first
      | assumption | exact within_trans (by decide +kernel) hm0 | exact within_trans (by decide +kernel) hw0
      | apply State.retireWay_keeps | apply State.clearWay_keeps | apply Keeps.next | apply Keeps.ite
      | apply Keeps.iteFst | apply Keeps.iteOpt | exact Keeps.optNone | apply Keeps.optSome
      | refine Keeps.opt ?_ (by assumption) | apply Keeps.getD | split | dsimp only | apply within_ite

theorem State.ageOut_keeps {mP wF : Nat} {r0 : State} (s : State) (d : Nat) (c : Nat) (hk : Keeps mP wF r0 s) (hm0 : within 0x2099cbf mP) (hw0 : within 0xc1f0084000001000000200008000000000000000000000000000000000000000000000001020402c000000000000000000000001ffe0000000 wF) : Keeps mP wF r0 (State.ageOut s d c) := by
  unfold State.ageOut; try dsimp only
  with_reducible
    repeat' first
      | intro _ | assumption | exact within_trans (by decide +kernel) hm0 | exact within_trans (by decide +kernel) hw0
      | apply State.updBerm_keeps | apply State.logDie_keeps | apply State.retireCore_keeps
      | apply State.armMigr_keeps | apply State.armDie_keeps | apply Keeps.ite | apply Keeps.iteOpt
      | exact Keeps.optNone | apply Keeps.optSome | refine Keeps.opt ?_ (by assumption) | split | dsimp only
      | apply within_ite

theorem State.ageSample_keeps {mP wF : Nat} {r0 : State} (s : State) (d : Nat) (c : Nat) (v : Nat) (hk : Keeps mP wF r0 s) (hm0 : within 0x2099cbf mP) (hw0 : within 0xc1f008400000100000020001e000000000000000000000000000000000000000000000001020402c000000000000000000000001ffe0000000 wF) : Keeps mP wF r0 (State.ageSample s d c v) := by
  unfold State.ageSample; try dsimp only
  with_reducible
    repeat' first
      | intro _ | assumption | exact within_trans (by decide +kernel) hm0 | exact within_trans (by decide +kernel) hw0
      | apply State.put_keeps | apply State.updBerm_keeps | apply State.logDie_keeps | apply State.bermLog_keeps
      | apply State.ageOut_keeps | apply Keeps.ite | split | dsimp only | apply within_ite

theorem execAgeingSample_keeps {mP wF : Nat} {r0 : State} (d : Die) (margins : List Byte) (s : State) (hk : Keeps mP wF r0 s) (hm0 : within 0x2099cbf mP) (hw0 : within 0xc1f008400000100000020001e000000000000000000000000000000000000000000000001020402c000000000000000000000001ffe0000000 wF) : Keeps.Res mP wF r0 (execAgeingSample d margins s) := by
  unfold execAgeingSample; try dsimp only
  with_reducible
    repeat' first
      | intro _ | assumption | exact within_trans (by decide +kernel) hm0 | exact within_trans (by decide +kernel) hw0
      | apply State.updBerm_keeps | apply State.ageSample_keeps | apply Keeps.next | apply Keeps.foldl
      | apply Keeps.foldlFst | apply Keeps.ite | apply Keeps.iteFst | split | dsimp only | apply within_ite

theorem State.refLose_keeps {mP wF : Nat} {r0 : State} (s : State) (h : Nat) (i : Nat) (hk : Keeps mP wF r0 s) (hm0 : within 0x2000831 mP) (hw0 : within 0xc1f0000000000000000200000000000000000000000000000000000000000000000000000000000000000000000000000000007c0000000000 wF) : Keeps mP wF r0 (State.refLose s h i) := by
  unfold State.refLose; try dsimp only
  with_reducible
    repeat' first
      | assumption | exact within_trans (by decide +kernel) hm0 | exact within_trans (by decide +kernel) hw0
      | apply State.put_keeps | apply State.bump_keeps | apply State.logSec_keeps | apply Keeps.ite | split
      | dsimp only | apply within_ite | apply goodFld_within | apply selFld_within

theorem State.halfBringIn_keeps {mP wF : Nat} {r0 : State} (s : State) (h : Nat) (hk : Keeps mP wF r0 s) (hm0 : within 0x22d6831 mP) (hw0 : within 0xc000c1f000000000000000020000000000000000000000000000100008001000000000000000000000000000000000000000000000000000000000 wF) : Keeps mP wF r0 (State.halfBringIn s h) := by
  unfold State.halfBringIn; try dsimp only
  with_reducible
    repeat' first
      | intro _ | assumption | exact within_trans (by decide +kernel) hm0 | exact within_trans (by decide +kernel) hw0
      | apply State.setHalf_keeps | apply State.logSec_keeps | apply State.bermLog_keeps | apply State.updDir_keeps
      | apply State.startResync_keeps | apply State.pairSync_keeps | apply State.updLk_keeps | apply State.lkPut_keeps
      | apply Keeps.foldl | apply Keeps.foldlFst | dsimp only

theorem execHalfBringIn_keeps {mP wF : Nat} {r0 : State} (h : Half) (s : State) (hk : Keeps mP wF r0 s) (hm0 : within 0x22d6831 mP) (hw0 : within 0xc000c1f000000000000000020000000000000000000000000000100008001000000000000000000000000000000000000000000000000000000000 wF) : Keeps.Res mP wF r0 (execHalfBringIn h s) := by
  unfold execHalfBringIn; try dsimp only
  with_reducible
    repeat' first
      | assumption | exact within_trans (by decide +kernel) hm0 | exact within_trans (by decide +kernel) hw0
      | apply State.halfBringIn_keeps | apply Keeps.next | apply Keeps.ite | apply Keeps.iteFst | split | dsimp only
      | apply within_ite

theorem State.bermCoreOut_keeps {mP wF : Nat} {r0 : State} (s : State) (c : Cmd) (g : Nat) (hk : Keeps mP wF r0 s) (hm0 : within 0x2089c31 mP) (hw0 : within 0xc1f00840000010000002000080000000000000000000000000000000000000000000000000200000000000000000000000000001ffe0000000 wF) : Keeps mP wF r0 (State.bermCoreOut s c g).1 := by
  unfold State.bermCoreOut; try dsimp only
  with_reducible
    repeat' first
      | assumption | exact within_trans (by decide +kernel) hm0 | exact within_trans (by decide +kernel) hw0
      | apply State.retireCore_keeps | apply State.armMigr_keeps | apply Keeps.ite | apply Keeps.iteFst
      | apply Keeps.iteOpt | exact Keeps.optNone | apply Keeps.optSome | refine Keeps.opt ?_ (by assumption) | split
      | dsimp only | apply within_ite

theorem State.bermWayOut_keeps {mP wF : Nat} {r0 : State} (s : State) (c : Cmd) (k : Nat) (i : Nat) (hk : Keeps mP wF r0 s) (hm0 : within 0x2099cbf mP) (hw0 : within 0xc1f0084000001000000200008000000000000000000000000000000000000018000030001060402c000000000000000000000001ffe0000000 wF) : Keeps mP wF r0 (State.bermWayOut s c k i).1 := by
  unfold State.bermWayOut; try dsimp only
  with_reducible
    repeat' first
      | intro _ | assumption | exact within_trans (by decide +kernel) hm0 | exact within_trans (by decide +kernel) hw0
      | apply State.updBerm_keeps | apply State.logSec_keeps | apply State.retireColumn_keeps
      | apply State.retireWay_keeps | apply Keeps.ite | apply Keeps.iteFst | apply Keeps.iteOpt | exact Keeps.optNone
      | apply Keeps.optSome | refine Keeps.opt ?_ (by assumption) | split | dsimp only | apply within_ite

theorem State.bermHcOut_keeps {mP wF : Nat} {r0 : State} (s : State) (i : Nat) (hk : Keeps mP wF r0 s) (hm0 : within 0x2099c3f mP) (hw0 : within 0xc1f0084000000000000200000000000000000000000000000000000000000000000000001000000000000000000004000000800000001e0000 wF) : Keeps mP wF r0 (State.bermHcOut s i).1 := by
  unfold State.bermHcOut; try dsimp only
  with_reducible
    repeat' first
      | assumption | exact within_trans (by decide +kernel) hm0 | exact within_trans (by decide +kernel) hw0
      | apply State.liveLost_keeps | apply State.swapRoles_keeps | apply State.standbyGone_keeps
      | apply State.retired_keeps | apply Keeps.ite | apply Keeps.iteFst | split | dsimp only | apply within_ite

theorem State.bermOut_keeps {mP wF : Nat} {r0 : State} (s : State) (c : Cmd) (hk : Keeps mP wF r0 s) (hm0 : within 0x26d9cbf mP) (hw0 : within 0x80004000c1f0084000001000000200008000000000000000000280001000080000000018002030001060402c04000000000004000000807dffe01e0000 wF) : Keeps mP wF r0 (State.bermOut s c).1 := by
  unfold State.bermOut; try dsimp only
  with_reducible
    repeat' first
      | intro _ | assumption | exact within_trans (by decide +kernel) hm0 | exact within_trans (by decide +kernel) hw0
      | apply State.retired_keeps | apply State.channelLost_keeps | apply State.moduleLost_keeps
      | apply State.armDie_keeps | apply State.dieOut_keeps | apply State.refLose_keeps
      | apply State.bermCoreOut_keeps | apply State.bermWayOut_keeps | apply State.bermHcOut_keeps | apply Keeps.ite
      | apply Keeps.iteFst | apply Keeps.iteOpt | refine Keeps.fst ?_ (by assumption) | split | dsimp only
      | apply within_ite | apply goodFld_within

theorem execBermRetire_keeps {mP wF : Nat} {r0 : State} (c : Cmd) (s : State) (hk : Keeps mP wF r0 s) (hm0 : within 0x26d9cbf mP) (hw0 : within 0x80004000c1f0084000001000000200008000000000000000000280001000080000000018002030001060402c04000000000004000000807dffe01e0000 wF) : Keeps.Res mP wF r0 (execBermRetire c s) := by
  unfold execBermRetire; try dsimp only
  with_reducible
    repeat' first
      | intro _ | assumption | exact within_trans (by decide +kernel) hm0 | exact within_trans (by decide +kernel) hw0
      | apply runCmdLater_keeps | apply State.bermOut_keeps | apply Keeps.next | refine Keeps.fst ?_ (by assumption)
      | dsimp only

theorem State.broughtIn_keeps {mP wF : Nat} {r0 : State} (s : State) (k : Nat) (i : Nat) (hk : Keeps mP wF r0 s) (hm0 : within 0x2080831 mP) (hw0 : within 0xc1f000000000000000020000000000000000000000000000000000000000000000000000000000000000000000000000000000000000000000 wF) : Keeps mP wF r0 (State.broughtIn s k i) := by
  unfold State.broughtIn; try dsimp only
  with_reducible
    repeat' first
      | assumption | exact within_trans (by decide +kernel) hm0 | exact within_trans (by decide +kernel) hw0
      | apply State.logSec_keeps | apply State.bermLog_keeps

theorem State.bermCoreIn_keeps {mP wF : Nat} {r0 : State} (s : State) (g : Nat) (hk : Keeps mP wF r0 s) (hm0 : within 0x6080c31 mP) (hw0 : within 0xc1f00000000000000002000080000000000000000000000000000000000000000000000000000000000000000000000000000001ffe0000000 wF) : Keeps mP wF r0 (State.bermCoreIn s g).1 := by
  unfold State.bermCoreIn; try dsimp only
  with_reducible
    repeat' first
      | intro _ | assumption | exact within_trans (by decide +kernel) hm0 | exact within_trans (by decide +kernel) hw0
      | apply State.put_keeps | apply State.drawn_keeps | apply State.parkCore_keeps | apply State.retired_keeps
      | apply State.broughtIn_keeps | apply Keeps.ite | apply Keeps.iteFst | split | dsimp only | apply within_ite
      | apply bmFld_within

theorem State.bermDieIn_keeps {mP wF : Nat} {r0 : State} (s : State) (d : Nat) (hk : Keeps mP wF r0 s) (hm0 : within 0x2281c31 mP) (hw0 : within 0xc1f00000000000000002000080000000000000000000000000000000000000000000000000000000000000000000000000000001ffe0000000 wF) : Keeps mP wF r0 (State.bermDieIn s d) := by
  unfold State.bermDieIn; try dsimp only
  with_reducible
    repeat' first
      | intro _ | assumption | exact within_trans (by decide +kernel) hm0 | exact within_trans (by decide +kernel) hw0
      | apply State.put_keeps | apply State.updDie_keeps | apply State.parkCore_keeps | apply State.updLk_keeps
      | apply State.broughtIn_keeps | apply Keeps.foldl | apply Keeps.foldlFst | apply Keeps.ite | split | dsimp only
      | apply within_ite | apply bmFld_within

theorem State.bermIn_keeps {mP wF : Nat} {r0 : State} (s : State) (c : Cmd) (hk : Keeps mP wF r0 s) (hm0 : within 0x62d7c31 mP) (hw0 : within 0xc000c1f00000000000000002000080000000000000000000000010000800100000000000000000000000000000000000000000000015ffe0000000 wF) : Keeps mP wF r0 (State.bermIn s c).1 := by
  unfold State.bermIn; try dsimp only
  with_reducible
    repeat' first
      | intro _ | assumption | exact within_trans (by decide +kernel) hm0 | exact within_trans (by decide +kernel) hw0
      | apply State.put_keeps | apply State.startResync_keeps | apply State.updLk_keeps
      | apply State.halfBringIn_keeps | apply State.broughtIn_keeps | apply State.bermCoreIn_keeps
      | apply State.bermDieIn_keeps | apply Keeps.ite | apply Keeps.iteFst | refine Keeps.fst ?_ (by assumption)
      | split | dsimp only | apply within_ite | apply goodFld_within

theorem execBermBringIn_keeps {mP wF : Nat} {r0 : State} (c : Cmd) (s : State) (hk : Keeps mP wF r0 s) (hm0 : within 0x62dfc3f mP) (hw0 : within 0xc000c1f00840000000000002000080000000000000000000000010000800100000000000000010000000000000000000040000000015ffe0000000 wF) : Keeps.Res mP wF r0 (execBermBringIn c s) := by
  unfold execBermBringIn; try dsimp only
  with_reducible
    repeat' first
      | intro _ | assumption | exact within_trans (by decide +kernel) hm0 | exact within_trans (by decide +kernel) hw0
      | apply runCmd_keeps | apply State.bermIn_keeps | apply Keeps.next | refine Keeps.fst ?_ (by assumption)
      | dsimp only

theorem execKeepBlockFail_keeps {mP wF : Nat} {r0 : State} (s : State) (hk : Keeps mP wF r0 s) (hm0 : within 0x10 mP) : Keeps.Res mP wF r0 (execKeepBlockFail s) := by
  unfold execKeepBlockFail; try dsimp only
  with_reducible
    repeat' first
      | intro _ | assumption | exact within_trans (by decide +kernel) hm0 | apply State.updCp_keeps | apply Keeps.next
      | apply Keeps.ite | apply Keeps.iteFst | split | dsimp only

end Sys2Proof.Machine
end

