-- ==== Sys2Proof/Laws/KeepsEndpoint.lean ====
section
/-! SUPPORT. The operations of Machine/Endpoint.lean keep the memory form, the field widths and the queue. -/

set_option Elab.async false
namespace Sys2Proof.Machine

theorem State.initFields_keeps {mP wF : Nat} {r0 : State} (s : State) (fs : List Nat) (inst : Nat → Bool)
    (hk : Keeps mP wF r0 s) (hm0 : within 0x1 mP) (hw0 : within Fld.maskAll wF) : Keeps mP wF r0 (s.initFields fs inst) :=
  ⟨hk.mem, fun x => ⟨fun y hy => (hk.fit x).1 y (List.mem_filter.mp hy).1, (hk.fit x).2⟩, hk.pending,
   fun p hp => Part.same_trans (hk.part p hp) (by
    cases p <;> first
      | exact rfl
      | exact absurd (hp.symm.trans (within_bit hm0 (by decide +kernel))) Bool.false_ne_true),
   fun f _ hf => absurd (hf.symm.trans (testBit_of_mask (within_trans f.within_all hw0))) Bool.false_ne_true⟩

theorem State.initQrb_keeps {mP wF : Nat} {r0 : State} (s : State) (n : Nat) (hk : Keeps mP wF r0 s) (hm0 : within 0x2000811 mP) (hw0 : within Fld.maskAll wF) : Keeps mP wF r0 (State.initQrb s n) := by
  unfold State.initQrb; try dsimp only
  with_reducible
    repeat' first
      | intro _ | assumption | exact within_trans (by decide +kernel) hm0 | exact within_trans (by decide +kernel) hw0
      | apply State.initFields_keeps | apply State.flr_keeps | dsimp only | exact within_trans (Fld.within_all _) hw0

theorem State.cfgStore_keeps {mP wF : Nat} {r0 : State} (s : State) (e : Nat) (o : Nat) (v : Nat) (hk : Keeps mP wF r0 s) (hm0 : within 0x800 mP) : Keeps mP wF r0 (State.cfgStore s e o v) := by
  unfold State.cfgStore; try dsimp only
  with_reducible
    repeat' first
      | intro _ | assumption | exact within_trans (by decide +kernel) hm0 | apply State.updPe_keeps | dsimp only

theorem State.d3hot_keeps {mP wF : Nat} {r0 : State} (s : State) (e : Nat) (enter : Bool) (hk : Keeps mP wF r0 s) (hm0 : within 0x1 mP) (hw0 : within 0x100000000400000000000000000000000000000000000000000000000000000000000000000000000000000000000000000000 wF) : Keeps mP wF r0 (State.d3hot s e enter) := by
  unfold State.d3hot; try dsimp only
  with_reducible
    repeat' first
      | assumption | exact within_trans (by decide +kernel) hm0 | exact within_trans (by decide +kernel) hw0
      | apply State.setFlag_keeps | apply State.setVote_keeps

theorem execD3hotEntry_keeps {mP wF : Nat} {r0 : State} (e : Fin 4) (enter : Bool) (s : State) (hk : Keeps mP wF r0 s) (hm0 : within 0x801 mP) (hw0 : within 0x100000000400000000000000000000000000000000000000000000000000000000000000000000000000000000000000000000 wF) : Keeps.Res mP wF r0 (execD3hotEntry e enter s) := by
  unfold execD3hotEntry; try dsimp only
  with_reducible
    repeat' first
      | intro _ | assumption | exact within_trans (by decide +kernel) hm0 | exact within_trans (by decide +kernel) hw0
      | apply State.updPe_keeps | apply State.d3hot_keeps | apply Keeps.next | apply Keeps.ite | apply Keeps.iteFst
      | split | dsimp only | apply within_ite

theorem State.flr_keeps {mP wF : Nat} {r0 : State} (s : State) (e : Nat) (hk : Keeps mP wF r0 s) (hm0 : within 0x2000811 mP) (hw0 : within Fld.maskAll wF) : Keeps mP wF r0 (State.flr s e) := by
  unfold State.flr; try dsimp only
  with_reducible
    repeat' first
      | intro _ | assumption | exact within_trans (by decide +kernel) hm0 | exact within_trans (by decide +kernel) hw0
      | apply State.setFlag_keeps | apply State.emit_keeps | apply State.updCp_keeps | apply State.updPe_keeps
      | apply State.dropQueues_keeps | apply State.initQrb_keeps | apply State.d3hot_keeps | apply Keeps.ite | split
      | dsimp only | apply within_ite | exact within_trans (Fld.within_all _) hw0

theorem execFlr_keeps {mP wF : Nat} {r0 : State} (e : Fin 4) (s : State) (hk : Keeps mP wF r0 s) (hm0 : within 0x2000811 mP) (hw0 : within Fld.maskAll wF) : Keeps.Res mP wF r0 (execFlr e s) := by
  unfold execFlr; try dsimp only
  with_reducible
    repeat' first
      | assumption | exact within_trans (by decide +kernel) hm0 | exact within_trans (by decide +kernel) hw0
      | apply State.flr_keeps | apply Keeps.next | apply Keeps.ite | apply Keeps.iteFst | split | dsimp only
      | apply within_ite | exact within_trans (Fld.within_all _) hw0

theorem State.peLinkReset_keeps {mP wF : Nat} {r0 : State} (s : State) (e : Nat) (hk : Keeps mP wF r0 s) (hm0 : within 0x2000811 mP) (hw0 : within Fld.maskAll wF) : Keeps mP wF r0 (State.peLinkReset s e) := by
  unfold State.peLinkReset; try dsimp only
  with_reducible
    repeat' first
      | intro _ | assumption | exact within_trans (by decide +kernel) hm0 | exact within_trans (by decide +kernel) hw0
      | apply State.updPe_keeps | apply State.dropQueues_keeps | apply State.initFields_keeps
      | apply State.initQrb_keeps | dsimp only | exact within_trans (Fld.within_all _) hw0

theorem State.peReset_keeps {mP wF : Nat} {r0 : State} (s : State) (e : Nat) (hk : Keeps mP wF r0 s) (hm0 : within 0x2000811 mP) (hw0 : within Fld.maskAll wF) : Keeps mP wF r0 (State.peReset s e) := by
  unfold State.peReset; try dsimp only
  with_reducible
    repeat' first
      | assumption | exact within_trans (by decide +kernel) hm0 | exact within_trans (by decide +kernel) hw0
      | apply State.flr_keeps | apply State.peLinkReset_keeps | apply Keeps.ite | split | dsimp only
      | apply within_ite | exact within_trans (Fld.within_all _) hw0

theorem execPerstAssert_keeps {mP wF : Nat} {r0 : State} (e : Fin 4) (s : State) (hk : Keeps mP wF r0 s) (hm0 : within 0x2000811 mP) (hw0 : within Fld.maskAll wF) : Keeps.Res mP wF r0 (execPerstAssert e s) := by
  unfold execPerstAssert; try dsimp only
  with_reducible
    repeat' first
      | intro _ | assumption | exact within_trans (by decide +kernel) hm0 | exact within_trans (by decide +kernel) hw0
      | apply State.updPe_keeps | apply State.peReset_keeps | apply Keeps.next | dsimp only
      | exact within_trans (Fld.within_all _) hw0

theorem execPcieLinkDown_keeps {mP wF : Nat} {r0 : State} (e : Fin 4) (s : State) (hk : Keeps mP wF r0 s) (hm0 : within 0x2000811 mP) (hw0 : within Fld.maskAll wF) : Keeps.Res mP wF r0 (execPcieLinkDown e s) := by
  unfold execPcieLinkDown; try dsimp only
  with_reducible
    repeat' first
      | assumption | exact within_trans (by decide +kernel) hm0 | exact within_trans (by decide +kernel) hw0
      | apply State.peReset_keeps | apply Keeps.next | exact within_trans (Fld.within_all _) hw0

theorem execHotReset_keeps {mP wF : Nat} {r0 : State} (e : Fin 4) (s : State) (hk : Keeps mP wF r0 s) (hm0 : within 0x2000811 mP) (hw0 : within Fld.maskAll wF) : Keeps.Res mP wF r0 (execHotReset e s) := by
  unfold execHotReset; try dsimp only
  with_reducible
    repeat' first
      | assumption | exact within_trans (by decide +kernel) hm0 | exact within_trans (by decide +kernel) hw0
      | apply State.put_keeps | apply State.peReset_keeps | apply Keeps.next
      | exact within_trans (Fld.within_all _) hw0

theorem execPerstRelease_keeps {mP wF : Nat} {r0 : State} (e : Fin 4) (s : State) (hk : Keeps mP wF r0 s) (hm0 : within 0x801 mP) (hw0 : within 0x20000000000000000000000000000000000000000000000000000000000000000000000000000000000000000000 wF) : Keeps.Res mP wF r0 (execPerstRelease e s) := by
  unfold execPerstRelease; try dsimp only
  with_reducible
    repeat' first
      | intro _ | assumption | exact within_trans (by decide +kernel) hm0 | exact within_trans (by decide +kernel) hw0
      | apply State.put_keeps | apply State.updPe_keeps | apply Keeps.next | apply Keeps.ite | apply Keeps.iteFst
      | split | dsimp only | apply within_ite

theorem execPcieLinkUp_keeps {mP wF : Nat} {r0 : State} (e : Fin 4) (speed : Fin 7) (width : Fin 17) (flit : Bool) (s : State) (hk : Keeps mP wF r0 s) (hm0 : within 0x1 mP) (hw0 : within 0x3e0000000000000000000000000000000000000000000000000000000000000000000000000000000000000000000 wF) : Keeps.Res mP wF r0 (execPcieLinkUp e speed width flit s) := by
  unfold execPcieLinkUp; try dsimp only
  with_reducible
    repeat' first
      | assumption | exact within_trans (by decide +kernel) hm0 | exact within_trans (by decide +kernel) hw0
      | apply State.put_keeps | apply State.setFlag_keeps | apply Keeps.next | apply Keeps.ite | apply Keeps.iteFst
      | split | dsimp only | apply within_ite

theorem execConfigReady_keeps {mP wF : Nat} {r0 : State} (e : Fin 4) (s : State) (hk : Keeps mP wF r0 s) (hm0 : within 0x1 mP) (hw0 : within 0x800000000000000000000000000000000000000000000000000000000000000000000000000000000000000000000 wF) : Keeps.Res mP wF r0 (execConfigReady e s) := by
  unfold execConfigReady; try dsimp only
  with_reducible
    repeat' first
      | assumption | exact within_trans (by decide +kernel) hm0 | exact within_trans (by decide +kernel) hw0
      | apply State.setFlag_keeps | apply Keeps.next | apply Keeps.ite | apply Keeps.iteFst | split | dsimp only
      | apply within_ite

theorem State.peInbound_keeps {mP wF : Nat} {r0 : State} (s : State) (e : Nat) (tag : Option Nat) (hk : Keeps mP wF r0 s) (hm0 : within 0x1 mP) (hw0 : within 0x400000000000000020000000000000000000000000000000000000000000000000000000000000000000000000000000000000000000 wF) : Keeps mP wF r0 (State.peInbound s e tag) := by
  unfold State.peInbound; try dsimp only
  with_reducible
    repeat' first
      | assumption | exact within_trans (by decide +kernel) hm0 | exact within_trans (by decide +kernel) hw0
      | apply State.put_keeps | apply State.countHub_keeps | apply Keeps.ite | split | dsimp only | apply within_ite

theorem State.peUr_keeps {mP wF : Nat} {r0 : State} (s : State) (e : Nat) (read : Bool) (hk : Keeps mP wF r0 s) (hm0 : within 0x2000801 mP) (hw0 : within 0x20000000000000000000000000000000000000000000000000000000000000000000000000000000000000000000000 wF) : Keeps mP wF r0 (State.peUr s e read) := by
  unfold State.peUr; try dsimp only
  with_reducible
    repeat' first
      | assumption | exact within_trans (by decide +kernel) hm0 | exact within_trans (by decide +kernel) hw0
      | apply State.emit_keeps | apply State.aer_keeps | apply Keeps.ite | split | dsimp only | apply within_ite

theorem State.msixEmit_keeps {mP wF : Nat} {r0 : State} (s : State) (e : Nat) (vec : Nat) (hk : Keeps mP wF r0 s) (hm0 : within 0x2000800 mP) : Keeps mP wF r0 (State.msixEmit s e vec) := by
  unfold State.msixEmit; try dsimp only
  with_reducible
    repeat' first
      | intro _ | assumption | exact within_trans (by decide +kernel) hm0 | apply State.emit_keeps
      | apply State.updPe_keeps | dsimp only

theorem execMsixMessage_keeps {mP wF : Nat} {r0 : State} (e : Fin 4) (vec : Fin 2048) (s : State) (hk : Keeps mP wF r0 s) (hm0 : within 0x2000800 mP) : Keeps.Res mP wF r0 (execMsixMessage e vec s) := by
  unfold execMsixMessage; try dsimp only
  with_reducible
    repeat' first
      | intro _ | assumption | exact within_trans (by decide +kernel) hm0 | apply State.updPe_keeps
      | apply State.msixEmit_keeps | apply Keeps.next | apply Keeps.ite | apply Keeps.iteFst | split | dsimp only

theorem State.unmaskVec_keeps {mP wF : Nat} {r0 : State} (s : State) (e : Nat) (vec : Nat) (hk : Keeps mP wF r0 s) (hm0 : within 0x2000800 mP) : Keeps mP wF r0 (State.unmaskVec s e vec) := by
  unfold State.unmaskVec; try dsimp only
  with_reducible
    repeat' first
      | intro _ | assumption | exact within_trans (by decide +kernel) hm0 | apply State.updPe_keeps
      | apply State.msixEmit_keeps | apply Keeps.ite | split | dsimp only

theorem execMsixUnmask_keeps {mP wF : Nat} {r0 : State} (e : Fin 4) (vec : Fin 2048) (s : State) (hk : Keeps mP wF r0 s) (hm0 : within 0x2000800 mP) : Keeps.Res mP wF r0 (execMsixUnmask e vec s) := by
  unfold execMsixUnmask; try dsimp only
  with_reducible
    repeat' first
      | intro _ | assumption | exact within_trans (by decide +kernel) hm0 | apply State.updPe_keeps
      | apply State.unmaskVec_keeps | apply Keeps.next | dsimp only

theorem execIntxAssert_keeps {mP wF : Nat} {r0 : State} (e : Fin 4) (s : State) (hk : Keeps mP wF r0 s) (hm0 : within 0x2000800 mP) : Keeps.Res mP wF r0 (execIntxAssert e s) := by
  unfold execIntxAssert; try dsimp only
  with_reducible
    repeat' first
      | assumption | exact within_trans (by decide +kernel) hm0 | apply State.intxUpdate_keeps | apply Keeps.next
      | apply Keeps.ite | apply Keeps.iteFst | split | dsimp only

theorem State.cfgWrite_keeps {mP wF : Nat} {r0 : State} (s : State) (e : Nat) (o : Nat) (v : Nat) (hk : Keeps mP wF r0 s) (hm0 : within 0x2000811 mP) (hw0 : within Fld.maskAll wF) : Keeps mP wF r0 (State.cfgWrite s e o v) := by
  unfold State.cfgWrite; try dsimp only
  with_reducible
    repeat' first
      | intro _ | assumption | exact within_trans (by decide +kernel) hm0 | exact within_trans (by decide +kernel) hw0
      | apply State.updPe_keeps | apply State.intxUpdate_keeps | apply State.cfgStore_keeps | apply State.d3hot_keeps
      | apply State.flr_keeps | apply State.unmaskVec_keeps | apply Keeps.foldl | apply Keeps.foldlFst
      | apply Keeps.ite | split | dsimp only | apply within_ite | exact within_trans (Fld.within_all _) hw0

theorem execConfigRequest_keeps {mP wF : Nat} {r0 : State} (e : Fin 4) (type1 : Bool) (write : Bool) (off : BitVec 12) (v : BitVec 32) (s : State) (hk : Keeps mP wF r0 s) (hm0 : within 0x2000811 mP) (hw0 : within Fld.maskAll wF) : Keeps.Res mP wF r0 (execConfigRequest e type1 write off v s) := by
  unfold execConfigRequest; try dsimp only
  with_reducible
    repeat' first
      | assumption | exact within_trans (by decide +kernel) hm0 | exact within_trans (by decide +kernel) hw0
      | apply State.bump_keeps | apply State.emit_keeps | apply State.peInbound_keeps | apply State.peUr_keeps
      | apply State.cfgWrite_keeps | apply Keeps.next | apply Keeps.ite | apply Keeps.iteFst | split | dsimp only
      | apply within_ite | exact within_trans (Fld.within_all _) hw0

theorem State.peRefuse_keeps {mP wF : Nat} {r0 : State} (s : State) (e : Nat) (o : Nat) (p : Nat) (sec : Bool) (write : Bool) (hk : Keeps mP wF r0 s) (hm0 : within 0x2000831 mP) (hw0 : within 0xc1f000000000000000024000000000000000000000000000000000000000000000000000000000000000000000000400000000000000000000 wF) : Keeps mP wF r0 (State.peRefuse s e o p sec write) := by
  unfold State.peRefuse; try dsimp only
  with_reducible
    repeat' first
      | assumption | exact within_trans (by decide +kernel) hm0 | exact within_trans (by decide +kernel) hw0
      | apply State.bump_keeps | apply State.emit_keeps | apply State.refuse_keeps | apply Keeps.ite | split
      | dsimp only | apply within_ite

theorem execBar2Request_keeps {mP wF : Nat} {r0 : State} (e : Fin 4) (req : BarReq) (start : Word) (off : Word) (mask : BitVec 64) (data : BitVec 512) (ep : Bool) (ro : Bool) (s : State) (hk : Keeps mP wF r0 s) (hm0 : within 0x2029831 mP) (hw0 : within 0xc1f0084000000000000a4020000000000000000000000000000000000000000000000000000000000000000000000400000000000000000000 wF) : Keeps.Res mP wF r0 (execBar2Request e req start off mask data ep ro s) := by
  unfold execBar2Request; try dsimp only
  with_reducible
    repeat' first
      | intro _ | assumption | exact within_trans (by decide +kernel) hm0 | exact within_trans (by decide +kernel) hw0
      | apply State.aer_keeps | apply State.peAccept_keeps | apply State.peInbound_keeps | apply State.peUr_keeps
      | apply State.peRefuse_keeps | apply Keeps.next | apply Keeps.ite | apply Keeps.iteFst | split | dsimp only
      | apply within_ite

theorem execCompletionTimeout_keeps {mP wF : Nat} {r0 : State} (e : Fin 4) (cid : BitVec 16) (ep : Bool) (s : State) (hk : Keeps mP wF r0 s) (hm0 : within 0x2019c1f mP) (hw0 : within 0x8400000000000020000000000000000000000000000000000000000000000000000100000000000000000000000000000000000000000 wF) : Keeps.Res mP wF r0 (execCompletionTimeout e cid ep s) := by
  unfold execCompletionTimeout; try dsimp only
  with_reducible
    repeat' first
      | intro _ | assumption | exact within_trans (by decide +kernel) hm0 | exact within_trans (by decide +kernel) hw0
      | apply State.aer_keeps | apply State.finish_keeps | apply Keeps.next | apply Keeps.ite | apply Keeps.iteFst
      | split | dsimp only | apply within_ite

theorem execL1IdleExpired_keeps {mP wF : Nat} {r0 : State} (e : Fin 4) (s : State) (hk : Keeps mP wF r0 s) (hm0 : within 0x1 mP) (hw0 : within 0x10020000000000000000000000000000000000000000000000000000000000000000000000000000000000000000000 wF) : Keeps.Res mP wF r0 (execL1IdleExpired e s) := by
  unfold execL1IdleExpired; try dsimp only
  with_reducible
    repeat' first
      | assumption | exact within_trans (by decide +kernel) hm0 | exact within_trans (by decide +kernel) hw0
      | apply State.put_keeps | apply State.bump_keeps | apply Keeps.next | apply Keeps.ite | apply Keeps.iteFst
      | split | dsimp only | apply within_ite

theorem execL0pEvaluate_keeps {mP wF : Nat} {r0 : State} (e : Fin 4) (load : Nat) (s : State) (hk : Keeps mP wF r0 s) (hm0 : within 0x1 mP) (hw0 : within 0x120000000000000000000000000000000000000000000000000000000000000000000000000000000000000000000 wF) : Keeps.Res mP wF r0 (execL0pEvaluate e load s) := by
  unfold execL0pEvaluate; try dsimp only
  with_reducible
    repeat' first
      | assumption | exact within_trans (by decide +kernel) hm0 | exact within_trans (by decide +kernel) hw0
      | apply State.put_keeps | apply Keeps.next | apply Keeps.ite | apply Keeps.iteFst | split | dsimp only
      | apply within_ite

theorem execLtrSend_keeps {mP wF : Nat} {r0 : State} (e : Fin 4) (s : State) (hk : Keeps mP wF r0 s) (hm0 : within 0x2000800 mP) : Keeps.Res mP wF r0 (execLtrSend e s) := by
  unfold execLtrSend; try dsimp only
  with_reducible
    repeat' first
      | intro _ | assumption | exact within_trans (by decide +kernel) hm0 | apply State.emit_keeps
      | apply State.updPe_keeps | apply Keeps.next | apply Keeps.ite | apply Keeps.iteFst | split | dsimp only

theorem State.dikeCommit_keeps {mP wF : Nat} {r0 : State} (s : State) (g : Nat) (hk : Keeps mP wF r0 s) (hm0 : within 0x1 mP) (hw0 : within 0x3fe38000000000000000000000000000000000000000000000000000000000000000000000 wF) : Keeps mP wF r0 (State.dikeCommit s g) := by
  unfold State.dikeCommit; try dsimp only
  with_reducible
    repeat' first
      | intro _ | assumption | exact within_trans (by decide +kernel) hm0 | exact within_trans (by decide +kernel) hw0
      | apply State.put_keeps | apply State.syncDike_keeps | apply Keeps.foldl | apply Keeps.foldlFst | dsimp only

theorem State.peCommit_keeps {mP wF : Nat} {r0 : State} (s : State) (e : Nat) (hk : Keeps mP wF r0 s) (hm0 : within 0x1 mP) (hw0 : within 0x7ffc0000000000000000000000000000000000000000000000000000000000000000000000000000000000000000000000 wF) : Keeps mP wF r0 (State.peCommit s e) := by
  unfold State.peCommit; try dsimp only
  with_reducible
    repeat' first
      | intro _ | assumption | exact within_trans (by decide +kernel) hm0 | exact within_trans (by decide +kernel) hw0
      | apply State.put_keeps | apply State.syncPw_keeps | apply Keeps.foldl | apply Keeps.foldlFst | dsimp only

theorem State.windowCommit_keeps {mP wF : Nat} {r0 : State} (s : State) (t : Nat) (hk : Keeps mP wF r0 s) (hm0 : within 0x1 mP) (hw0 : within 0x7ffc000000000000000000003fe38000000000000000000000000000000000000000000000000000000000000000000000 wF) : Keeps mP wF r0 (State.windowCommit s t).1 := by
  unfold State.windowCommit; try dsimp only
  with_reducible
    repeat' first
      | assumption | exact within_trans (by decide +kernel) hm0 | exact within_trans (by decide +kernel) hw0
      | apply State.dikeCommit_keeps | apply State.peCommit_keeps | apply Keeps.ite | apply Keeps.iteFst | split
      | dsimp only | apply within_ite

theorem execWindowCommit_keeps {mP wF : Nat} {r0 : State} (c : Cmd) (s : State) (hk : Keeps mP wF r0 s) (hm0 : within 0x2019c3f mP) (hw0 : within 0xc1f00840000000007ffe000000000000000000003fe38000000000000000000000000000100000000000000000000400000000000000000000 wF) : Keeps.Res mP wF r0 (execWindowCommit c s) := by
  unfold execWindowCommit; try dsimp only
  with_reducible
    repeat' first
      | intro _ | assumption | exact within_trans (by decide +kernel) hm0 | exact within_trans (by decide +kernel) hw0
      | apply runCmd_keeps | apply State.windowCommit_keeps | apply Keeps.next | refine Keeps.fst ?_ (by assumption)
      | dsimp only

end Sys2Proof.Machine
end

