-- ==== Sys2Proof/Laws/KeepsPolders.lean ====
section
/-! SUPPORT. The operations of Machine/Polders.lean keep the memory form, the field widths and the queue. -/

set_option Elab.async false
namespace Sys2Proof.Machine

theorem State.rgnStore_keeps {mP wF : Nat} {r0 : State} (s : State) (n : Nat) (hk : Keeps mP wF r0 s) (hm0 : within 0x1 mP) (hw0 : within 0xff0000000000000000 wF) : Keeps mP wF r0 (State.rgnStore s n) := by
  unfold State.rgnStore; try dsimp only
  with_reducible
    repeat' first
      | assumption | exact within_trans (by decide +kernel) hm0 | exact within_trans (by decide +kernel) hw0
      | apply State.put_keeps

theorem State.rgnCommit_keeps {mP wF : Nat} {r0 : State} (s : State) (v : Nat) (hk : Keeps mP wF r0 s) (hm0 : within 0x1 mP) (hw0 : within 0xff0000000000000000 wF) : Keeps mP wF r0 (State.rgnCommit s v) := by
  unfold State.rgnCommit; try dsimp only
  with_reducible
    repeat' first
      | assumption | exact within_trans (by decide +kernel) hm0 | exact within_trans (by decide +kernel) hw0
      | apply State.rgnStore_keeps | apply Keeps.ite | split | dsimp only | apply within_ite

theorem execRgnCommit_keeps {mP wF : Nat} {r0 : State} (a : Acc) (h : Half) (v : Word) (s : State) (hk : Keeps mP wF r0 s) (hm0 : within 0x2000831 mP) (hw0 : within 0xc1f000000000000000020000000000000000000000000000000000000000000000000000000000000000000000000400ff0000000000000000 wF) : Keeps.Res mP wF r0 (execRgnCommit a h v s) := by
  unfold execRgnCommit; try dsimp only
  with_reducible
    repeat' first
      | intro _ | assumption | exact within_trans (by decide +kernel) hm0 | exact within_trans (by decide +kernel) hw0
      | apply State.secureOnly_keeps | apply State.rgnCommit_keeps | apply Keeps.next | dsimp only

theorem State.sweepRange_keeps {mP wF : Nat} {r0 : State} (s : State) (lo : Nat) (hi : Nat) (cmd : Option Cmd) (hk : Keeps mP wF r0 s) (hm0 : within 0x1940f mP) (hw0 : within 0x8400000000000000000000000000000000000000000000000000000000000000000100000000000000000000000000000000000000000 wF) : Keeps mP wF r0 (State.sweepRange s lo hi cmd) := by
  unfold State.sweepRange; try dsimp only
  with_reducible
    repeat' first
      | intro _ | assumption | exact within_trans (by decide +kernel) hm0 | exact within_trans (by decide +kernel) hw0
      | apply State.hubRecall_keeps | apply Keeps.foldl | apply Keeps.foldlFst | dsimp only

theorem State.detachRgn_keeps {mP wF : Nat} {r0 : State} (s : State) (p : Nat) (n : Nat) (cmd : Option Cmd) (hk : Keeps mP wF r0 s) (hm0 : within 0x1940f mP) (hw0 : within 0x8400000000000000000000000000000000000000000000000000000000000000000100000000000000000000000c00000000000000000 wF) : Keeps mP wF r0 (State.detachRgn s p n cmd) := by
  unfold State.detachRgn; try dsimp only
  with_reducible
    repeat' first
      | assumption | exact within_trans (by decide +kernel) hm0 | exact within_trans (by decide +kernel) hw0
      | apply State.put_keeps | apply State.sweepRange_keeps

theorem State.initPolRegs_keeps {mP wF : Nat} {r0 : State} (s : State) (p : Nat) (hk : Keeps mP wF r0 s) (hm0 : within 0x1 mP) (hw0 : within Fld.maskAll wF) : Keeps mP wF r0 (State.initPolRegs s p) := by
  unfold State.initPolRegs; try dsimp only
  with_reducible
    repeat' first
      | intro _ | assumption | exact within_trans (by decide +kernel) hm0 | exact within_trans (by decide +kernel) hw0
      | apply State.initFields_keeps | dsimp only | exact within_trans (Fld.within_all _) hw0

theorem State.joinCore_keeps {mP wF : Nat} {r0 : State} (s : State) (p : Nat) (l : Nat) (g : Nat) (hk : Keeps mP wF r0 s) (hm0 : within 0x200401 mP) (hw0 : within 0x100000000000000000000000000000000000100008000000000000000000000000000000000000000000000000000000000000 wF) : Keeps mP wF r0 (State.joinCore s p l g) := by
  unfold State.joinCore; try dsimp only
  with_reducible
    repeat' first
      | assumption | exact within_trans (by decide +kernel) hm0 | exact within_trans (by decide +kernel) hw0
      | apply State.setVote_keeps | apply State.setCore_keeps | apply State.wakeDie_keeps | apply Keeps.ite | split
      | dsimp only | apply within_ite

theorem State.makePolder_keeps {mP wF : Nat} {r0 : State} (s : State) (p : Nat) (w0 : Word) (gs : List Nat) (hk : Keeps mP wF r0 s) (hm0 : within 0x6200f91 mP) (hw0 : within Fld.maskAll wF) : Keeps mP wF r0 (State.makePolder s p w0 gs) := by
  unfold State.makePolder; try dsimp only
  with_reducible
    repeat' first
      | intro _ | assumption | exact within_trans (by decide +kernel) hm0 | exact within_trans (by decide +kernel) hw0
      | apply State.put_keeps | apply State.drawn_keeps | apply State.setPolder_keeps | apply State.dropQueues_keeps
      | apply State.updTe_keeps | apply State.initQrb_keeps | apply State.initPolRegs_keeps
      | apply State.joinCore_keeps | apply Keeps.foldl | apply Keeps.foldlFst
      | refine Keeps.record ?_ rfl (fun p hp => by cases p <;> first | exact absurd (hp.symm.trans (within_bit hm0 (by decide +kernel))) Bool.false_ne_true | with_unfolding_all exact rfl)
      | dsimp only | exact within_trans (Fld.within_all _) hw0

theorem execPolderCreate_keeps {mP wF : Nat} {r0 : State} (c : Cmd) (s : State) (hk : Keeps mP wF r0 s) (hm0 : within 0x6219fbf mP) (hw0 : within Fld.maskAll wF) : Keeps.Res mP wF r0 (execPolderCreate c s) := by
  unfold execPolderCreate; try dsimp only
  with_reducible
    repeat' first
      | intro _ | assumption | exact within_trans (by decide +kernel) hm0 | exact within_trans (by decide +kernel) hw0
      | apply runCmd_keeps | apply State.makePolder_keeps | apply Keeps.next | apply Keeps.ite | apply Keeps.iteFst
      | split | dsimp only | apply within_ite | exact within_trans (Fld.within_all _) hw0

theorem State.beginFromSlot_keeps {mP wF : Nat} {r0 : State} (s : State) (p : Nat) (l : Nat) (g : Nat) (hk : Keeps mP wF r0 s) (hm0 : within 0x4000400 mP) : Keeps mP wF r0 (State.beginFromSlot s p l g) := by
  unfold State.beginFromSlot; try dsimp only
  with_reducible
    repeat' first
      | intro _ | assumption | exact within_trans (by decide +kernel) hm0 | apply State.drawn_keeps
      | apply State.updCore_keeps | apply State.startCore_keeps | apply State.loadBody_keeps | apply Keeps.ite | split
      | dsimp only

theorem State.attachCore_keeps {mP wF : Nat} {r0 : State} (s : State) (p : Nat) (g : Nat) (v : Polder) (hk : Keeps mP wF r0 s) (hm0 : within 0x4200481 mP) (hw0 : within 0x100000000000000000000000000000000000100008000000000000000000000000200000000000000000000000000000000000 wF) : Keeps mP wF r0 (State.attachCore s p g v).1 := by
  unfold State.attachCore; try dsimp only
  with_reducible
    repeat' first
      | intro _ | assumption | exact within_trans (by decide +kernel) hm0 | exact within_trans (by decide +kernel) hw0
      | apply State.put_keeps | apply State.updPolder_keeps | apply State.startCore_keeps | apply State.joinCore_keeps
      | apply State.beginFromSlot_keeps | apply Keeps.ite | apply Keeps.iteFst | split | dsimp only | apply within_ite

theorem State.attachRgn_keeps {mP wF : Nat} {r0 : State} (s : State) (p : Nat) (n : Nat) (r : Nat) (v : Polder) (hk : Keeps mP wF r0 s) (hm0 : within 0x1 mP) (hw0 : within 0xc00000000000000000 wF) : Keeps mP wF r0 (State.attachRgn s p n r v).1 := by
  unfold State.attachRgn; try dsimp only
  with_reducible
    repeat' first
      | assumption | exact within_trans (by decide +kernel) hm0 | exact within_trans (by decide +kernel) hw0
      | apply State.put_keeps | apply Keeps.ite | apply Keeps.iteFst | split | dsimp only | apply within_ite

theorem State.attachArea_keeps {mP wF : Nat} {r0 : State} (s : State) (p : Nat) (n : Nat) (x : Nat) (v : Polder) (frame : Bool) (hk : Keeps mP wF r0 s) (hm0 : within 0x80 mP) : Keeps mP wF r0 (State.attachArea s p n x v frame).1 := by
  unfold State.attachArea; try dsimp only
  with_reducible
    repeat' first
      | intro _ | assumption | exact within_trans (by decide +kernel) hm0 | apply State.updPolder_keeps
      | apply Keeps.ite | apply Keeps.iteFst | split | dsimp only

theorem State.attachBit_keeps {mP wF : Nat} {r0 : State} (s : State) (p : Nat) (kind : Nat) (n : Nat) (v : Polder) (hk : Keeps mP wF r0 s) (hm0 : within 0x80 mP) : Keeps mP wF r0 (State.attachBit s p kind n v).1 := by
  unfold State.attachBit; try dsimp only
  with_reducible
    repeat' first
      | intro _ | assumption | exact within_trans (by decide +kernel) hm0 | apply State.updPolder_keeps
      | apply Keeps.foldl | apply Keeps.foldlFst | apply Keeps.ite | apply Keeps.iteFst | split | dsimp only

theorem State.polAttach_keeps {mP wF : Nat} {r0 : State} (s : State) (c : Cmd) (hk : Keeps mP wF r0 s) (hm0 : within 0x4200481 mP) (hw0 : within 0x100000000000000000000000000000000000100008000000000000000000000000200000000000000000c00000000000000000 wF) : Keeps mP wF r0 (State.polAttach s c).1 := by
  unfold State.polAttach; try dsimp only
  with_reducible
    repeat' first
      | intro _ | assumption | exact within_trans (by decide +kernel) hm0 | exact within_trans (by decide +kernel) hw0
      | apply State.updPolder_keeps | apply State.attachCore_keeps | apply State.attachRgn_keeps
      | apply State.attachArea_keeps | apply State.attachBit_keeps | apply Keeps.ite | apply Keeps.iteFst
      | refine Keeps.fst ?_ (by assumption) | split | dsimp only | apply within_ite

theorem execPolderAttach_keeps {mP wF : Nat} {r0 : State} (c : Cmd) (s : State) (hk : Keeps mP wF r0 s) (hm0 : within 0x6219cbf mP) (hw0 : within 0xc1f008400000100000020000000000000000000000000000100008000000000000000000100000200000000000000400c00000000000000000 wF) : Keeps.Res mP wF r0 (execPolderAttach c s) := by
  unfold execPolderAttach; try dsimp only
  with_reducible
    repeat' first
      | intro _ | assumption | exact within_trans (by decide +kernel) hm0 | exact within_trans (by decide +kernel) hw0
      | apply runCmd_keeps | apply State.polAttach_keeps | apply Keeps.next | refine Keeps.fst ?_ (by assumption)
      | dsimp only

theorem State.unbindTrig_keeps {mP wF : Nat} {r0 : State} (s : State) (t : Nat) (hk : Keeps mP wF r0 s) (hm0 : within 0x201 mP) (hw0 : within 0x30000000000000000000000000000 wF) : Keeps mP wF r0 (State.unbindTrig s t) := by
  unfold State.unbindTrig; try dsimp only
  with_reducible
    repeat' first
      | assumption | exact within_trans (by decide +kernel) hm0 | exact within_trans (by decide +kernel) hw0
      | apply State.setFlag_keeps | apply State.setTrigQ_keeps

theorem State.detachBit_keeps {mP wF : Nat} {r0 : State} (s : State) (p : Nat) (kind : Nat) (n : Nat) (v : Polder) (hk : Keeps mP wF r0 s) (hm0 : within 0x281 mP) (hw0 : within 0x30000000000000000000000000000 wF) : Keeps mP wF r0 (State.detachBit s p kind n v).1 := by
  unfold State.detachBit; try dsimp only
  with_reducible
    repeat' first
      | intro _ | assumption | exact within_trans (by decide +kernel) hm0 | exact within_trans (by decide +kernel) hw0
      | apply State.updPolder_keeps | apply State.unbindTrig_keeps | apply Keeps.foldl | apply Keeps.foldlFst
      | apply Keeps.ite | apply Keeps.iteFst | split | dsimp only | apply within_ite

theorem State.detachCore_keeps {mP wF : Nat} {r0 : State} (s : State) (c : Cmd) (p : Nat) (g : Nat) (v : Polder) (hk : Keeps mP wF r0 s) (hm0 : within 0x480 mP) : Keeps mP wF r0 (State.detachCore s c p g v).1 := by
  unfold State.detachCore; try dsimp only
  with_reducible
    repeat' first
      | intro _ | assumption | exact within_trans (by decide +kernel) hm0 | apply State.updPolder_keeps
      | apply State.updTick_keeps | apply Keeps.ite | apply Keeps.iteFst | split | dsimp only

theorem State.detachArea_keeps {mP wF : Nat} {r0 : State} (s : State) (p : Nat) (n : Nat) (v : Polder) (frame : Bool) (hk : Keeps mP wF r0 s) (hm0 : within 0x80 mP) : Keeps mP wF r0 (State.detachArea s p n v frame).1 := by
  unfold State.detachArea; try dsimp only
  with_reducible
    repeat' first
      | intro _ | assumption | exact within_trans (by decide +kernel) hm0 | apply State.updPolder_keeps
      | apply Keeps.ite | apply Keeps.iteFst | split | dsimp only

theorem State.polDetach_keeps {mP wF : Nat} {r0 : State} (s : State) (c : Cmd) (hk : Keeps mP wF r0 s) (hm0 : within 0x1968f mP) (hw0 : within 0x8400000000000000000000000000000000000000000000000000000000000000000100000000000030000000000c00000000000000000 wF) : Keeps mP wF r0 (State.polDetach s c).1 := by
  unfold State.polDetach; try dsimp only
  with_reducible
    repeat' first
      | intro _ | assumption | exact within_trans (by decide +kernel) hm0 | exact within_trans (by decide +kernel) hw0
      | apply State.updPolder_keeps | apply State.detachRgn_keeps | apply State.detachBit_keeps
      | apply State.detachCore_keeps | apply State.detachArea_keeps | apply Keeps.ite | apply Keeps.iteFst
      | apply Keeps.iteOpt | refine Keeps.fst ?_ (by assumption) | split | dsimp only | apply within_ite

theorem execPolderDetach_keeps {mP wF : Nat} {r0 : State} (c : Cmd) (s : State) (hk : Keeps mP wF r0 s) (hm0 : within 0x2019ebf mP) (hw0 : within 0xc1f008400000000000020000000000000000000000000000000000000000000000000000100000000000030000000400c00000000000000000 wF) : Keeps.Res mP wF r0 (execPolderDetach c s) := by
  unfold execPolderDetach; try dsimp only
  with_reducible
    repeat' first
      | intro _ | assumption | exact within_trans (by decide +kernel) hm0 | exact within_trans (by decide +kernel) hw0
      | apply runCmdLater_keeps | apply State.polDetach_keeps | apply Keeps.next | refine Keeps.fst ?_ (by assumption)
      | dsimp only

theorem State.polEnd_keeps {mP wF : Nat} {r0 : State} (s : State) (p : Nat) (v : Polder) (hk : Keeps mP wF r0 s) (hm0 : within 0x2919ebf mP) (hw0 : within Fld.maskAll wF) : Keeps mP wF r0 (State.polEnd s p v) := by
  unfold State.polEnd; try dsimp only
  with_reducible
    repeat' first
      | intro _ | assumption | exact within_trans (by decide +kernel) hm0 | exact within_trans (by decide +kernel) hw0
      | apply State.setPolder_keeps | apply State.updCp_keeps | apply State.finish_keeps | apply State.updCas_keeps
      | apply State.qrbStop_keeps | apply State.updTe_keeps | apply State.unbindHead_keeps
      | apply State.leaveCore_keeps | apply State.detachRgn_keeps | apply State.initPolRegs_keeps
      | apply State.unbindTrig_keeps | apply Keeps.foldl | apply Keeps.foldlFst | apply Keeps.ite | split | dsimp only
      | apply within_ite | exact within_trans (Fld.within_all _) hw0

theorem State.polStop_keeps {mP wF : Nat} {r0 : State} (s : State) (p : Nat) (v : Polder) (hk : Keeps mP wF r0 s) (hm0 : within 0x681 mP) (hw0 : within 0x400000000000000000000000000000000 wF) : Keeps mP wF r0 (State.polStop s p v) := by
  unfold State.polStop; try dsimp only
  with_reducible
    repeat' first
      | intro _ | assumption | exact within_trans (by decide +kernel) hm0 | exact within_trans (by decide +kernel) hw0
      | apply State.put_keeps | apply State.updPolder_keeps | apply State.updTick_keeps | apply State.updCtx_keeps
      | apply Keeps.foldl | apply Keeps.foldlFst | dsimp only

theorem State.polSettle_keeps {mP wF : Nat} {r0 : State} (s : State) (p : Nat) (hk : Keeps mP wF r0 s) (hm0 : within 0x2919ebf mP) (hw0 : within Fld.maskAll wF) : Keeps mP wF r0 (State.polSettle s p) := by
  unfold State.polSettle; try dsimp only
  with_reducible
    repeat' first
      | assumption | exact within_trans (by decide +kernel) hm0 | exact within_trans (by decide +kernel) hw0
      | apply State.configDone_keeps | apply State.polEnd_keeps | apply State.polStop_keeps | apply Keeps.ite | split
      | dsimp only | apply within_ite | exact within_trans (Fld.within_all _) hw0

theorem execPolderDelete_keeps {mP wF : Nat} {r0 : State} (c : Cmd) (s : State) (hk : Keeps mP wF r0 s) (hm0 : within 0x2919ebf mP) (hw0 : within Fld.maskAll wF) : Keeps.Res mP wF r0 (execPolderDelete c s) := by
  unfold execPolderDelete; try dsimp only
  with_reducible
    repeat' first
      | intro _ | assumption | exact within_trans (by decide +kernel) hm0 | exact within_trans (by decide +kernel) hw0
      | apply State.updPolder_keeps | apply runCmdLater_keeps | apply State.polSettle_keeps | apply Keeps.next
      | dsimp only | exact within_trans (Fld.within_all _) hw0

theorem execCoreDetachAtRest_keeps {mP wF : Nat} {r0 : State} (g : GCore) (s : State) (hk : Keeps mP wF r0 s) (hm0 : within 0x2919ebf mP) (hw0 : within Fld.maskAll wF) : Keeps.Res mP wF r0 (execCoreDetachAtRest g s) := by
  unfold execCoreDetachAtRest; try dsimp only
  with_reducible
    repeat' first
      | intro _ | assumption | exact within_trans (by decide +kernel) hm0 | exact within_trans (by decide +kernel) hw0
      | apply State.detached_keeps | apply State.leaveCore_keeps | apply State.polSettle_keeps | apply Keeps.next
      | apply Keeps.ite | apply Keeps.iteFst | split | dsimp only | apply within_ite
      | exact within_trans (Fld.within_all _) hw0

theorem State.startAll_keeps {mP wF : Nat} {r0 : State} (s : State) (p : Nat) (hk : Keeps mP wF r0 s) (hm0 : within 0x4000400 mP) : Keeps mP wF r0 (State.startAll s p) := by
  unfold State.startAll; try dsimp only
  with_reducible
    repeat' first
      | intro _ | assumption | exact within_trans (by decide +kernel) hm0 | apply State.startCore_keeps
      | apply Keeps.foldl | apply Keeps.foldlFst | apply Keeps.ite | split | dsimp only

theorem execSetEntryPoint_keeps {mP wF : Nat} {r0 : State} (c : Cmd) (s : State) (hk : Keeps mP wF r0 s) (hm0 : within 0x6019cbf mP) (hw0 : within 0xc1f008400000000000020000000000000000000000000000000000000000000000000000100000000000000000000400000000000000000000 wF) : Keeps.Res mP wF r0 (execSetEntryPoint c s) := by
  unfold execSetEntryPoint; try dsimp only
  with_reducible
    repeat' first
      | intro _ | assumption | exact within_trans (by decide +kernel) hm0 | exact within_trans (by decide +kernel) hw0
      | apply State.updPolder_keeps | apply State.silence_keeps | apply runCmd_keeps | apply State.startAll_keeps
      | apply Keeps.next | apply Keeps.ite | apply Keeps.iteFst | split | dsimp only | apply within_ite

end Sys2Proof.Machine
end

