-- ==== Sys2Proof/Laws/KeepsRecorder.lean ====
section
/-! SUPPORT. The operations of Machine/Recorder.lean keep the memory form, the field widths and the queue. -/

set_option Elab.async false
namespace Sys2Proof.Machine

theorem State.logRec_keeps {mP wF : Nat} {r0 : State} (s : State) (h : Nat) (code : Nat) (args : List Nat) (hk : Keeps mP wF r0 s) (hm0 : within 0x21 mP) (hw0 : within 0xc1f000000000000000000000000000000000000000000000000000000000000000000000000000000000000000000000000000000000000000 wF) : Keeps mP wF r0 (State.logRec s h code args) := by
  unfold State.logRec; try dsimp only
  with_reducible
    repeat' first
      | assumption | exact within_trans (by decide +kernel) hm0 | exact within_trans (by decide +kernel) hw0
      | apply State.recEvent_keeps

theorem State.recFreeze_keeps {mP wF : Nat} {r0 : State} (s : State) (h : Nat) (hk : Keeps mP wF r0 s) (hm0 : within 0x21 mP) (hw0 : within 0x20080000000000000000000000000000000000000000000000000000000000000000000000000000000000000000000000000000000000000 wF) : Keeps mP wF r0 (State.recFreeze s h) := by
  unfold State.recFreeze; try dsimp only
  with_reducible
    repeat' first
      | intro _ | assumption | exact within_trans (by decide +kernel) hm0 | exact within_trans (by decide +kernel) hw0
      | apply State.setFlag_keeps | apply State.updRcd_keeps | apply Keeps.ite | split | dsimp only | apply within_ite

theorem State.recUnfreeze_keeps {mP wF : Nat} {r0 : State} (s : State) (h : Nat) (hk : Keeps mP wF r0 s) (hm0 : within 0x21 mP) (hw0 : within 0xc3f080000000000000000000000000000000000000000000000000000000000000000000000000000000000000000000000000000000000000 wF) : Keeps mP wF r0 (State.recUnfreeze s h) := by
  unfold State.recUnfreeze; try dsimp only
  with_reducible
    repeat' first
      | intro _ | assumption | exact within_trans (by decide +kernel) hm0 | exact within_trans (by decide +kernel) hw0
      | apply State.put_keeps | apply State.setFlag_keeps | apply State.updRcd_keeps | apply State.recPut_keeps
      | apply Keeps.foldl | apply Keeps.foldlFst | apply Keeps.ite | split | dsimp only | apply within_ite

theorem State.recSetMode_keeps {mP wF : Nat} {r0 : State} (s : State) (h : Nat) (live : Bool) (hk : Keeps mP wF r0 s) (hm0 : within 0x21 mP) (hw0 : within 0xc3f180000000000000000000000000000000000000000000000000000000000000000000000000000000000000000000000000000000000000 wF) : Keeps mP wF r0 (State.recSetMode s h live) := by
  unfold State.recSetMode; try dsimp only
  with_reducible
    repeat' first
      | assumption | exact within_trans (by decide +kernel) hm0 | exact within_trans (by decide +kernel) hw0
      | apply State.setFlag_keeps | apply State.logRec_keeps | apply State.recUnfreeze_keeps | apply Keeps.ite | split
      | dsimp only | apply within_ite

theorem State.recClear_keeps {mP wF : Nat} {r0 : State} (s : State) (h : Nat) (hk : Keeps mP wF r0 s) (hm0 : within 0x21 mP) (hw0 : within 0xc1f000000000000000000000000000000000000000000000000000000000000000000000000000000000000000000000000000000000000000 wF) : Keeps mP wF r0 (State.recClear s h) := by
  unfold State.recClear; try dsimp only
  with_reducible
    repeat' first
      | intro _ | assumption | exact within_trans (by decide +kernel) hm0 | exact within_trans (by decide +kernel) hw0
      | apply State.put_keeps | apply State.setFlag_keeps | apply State.updRcd_keeps | apply State.logRec_keeps
      | dsimp only

theorem State.recCtlWrite_keeps {mP wF : Nat} {r0 : State} (s : State) (h : Nat) (v : Nat) (hk : Keeps mP wF r0 s) (hm0 : within 0x21 mP) (hw0 : within 0xc3fb80000000000000000000000000000000000000000000000000000000000000000000000000000000000000000000000000000000000000 wF) : Keeps mP wF r0 (State.recCtlWrite s h v) := by
  unfold State.recCtlWrite; try dsimp only
  with_reducible
    repeat' first
      | assumption | exact within_trans (by decide +kernel) hm0 | exact within_trans (by decide +kernel) hw0
      | apply State.put_keeps | apply State.setFlag_keeps | apply State.recFreeze_keeps
      | apply State.recUnfreeze_keeps | apply State.recSetMode_keeps | apply State.recClear_keeps | apply Keeps.ite
      | split | dsimp only | apply within_ite

theorem execRecFreeze_keeps {mP wF : Nat} {r0 : State} (a : Acc) (h : Half) (v : Word) (s : State) (hk : Keeps mP wF r0 s) (hm0 : within 0x2000831 mP) (hw0 : within 0xc3fb80000000000000020000000000000000000000000000000000000000000000000000000000000000000000000400000000000000000000 wF) : Keeps.Res mP wF r0 (execRecFreeze a h v s) := by
  unfold execRecFreeze; try dsimp only
  with_reducible
    repeat' first
      | intro _ | assumption | exact within_trans (by decide +kernel) hm0 | exact within_trans (by decide +kernel) hw0
      | apply State.secureOnly_keeps | apply State.recCtlWrite_keeps | apply Keeps.next | dsimp only

theorem execRecClear_keeps {mP wF : Nat} {r0 : State} (a : Acc) (h : Half) (v : Word) (s : State) (hk : Keeps mP wF r0 s) (hm0 : within 0x2000831 mP) (hw0 : within 0xc3fb80000000000000020000000000000000000000000000000000000000000000000000000000000000000000000400000000000000000000 wF) : Keeps.Res mP wF r0 (execRecClear a h v s) := by
  unfold execRecClear; try dsimp only
  with_reducible
    repeat' first
      | intro _ | assumption | exact within_trans (by decide +kernel) hm0 | exact within_trans (by decide +kernel) hw0
      | apply State.secureOnly_keeps | apply State.recCtlWrite_keeps | apply Keeps.next | dsimp only

theorem execRecMode_keeps {mP wF : Nat} {r0 : State} (a : Acc) (h : Half) (v : Word) (s : State) (hk : Keeps mP wF r0 s) (hm0 : within 0x2000831 mP) (hw0 : within 0xc3fb80000000000000020000000000000000000000000000000000000000000000000000000000000000000000000400000000000000000000 wF) : Keeps.Res mP wF r0 (execRecMode a h v s) := by
  unfold execRecMode; try dsimp only
  with_reducible
    repeat' first
      | intro _ | assumption | exact within_trans (by decide +kernel) hm0 | exact within_trans (by decide +kernel) hw0
      | apply State.secureOnly_keeps | apply State.recCtlWrite_keeps | apply Keeps.next | dsimp only

theorem execFreezeLapse_keeps {mP wF : Nat} {r0 : State} (h : Half) (s : State) (hk : Keeps mP wF r0 s) (hm0 : within 0x21 mP) (hw0 : within 0xc3f080000000000000000000000000000000000000000000000000000000000000000000000000000000000000000000000000000000000000 wF) : Keeps.Res mP wF r0 (execFreezeLapse h s) := by
  unfold execFreezeLapse; try dsimp only
  with_reducible
    repeat' first
      | assumption | exact within_trans (by decide +kernel) hm0 | exact within_trans (by decide +kernel) hw0
      | apply State.logRec_keeps | apply State.recUnfreeze_keeps | apply Keeps.next | apply Keeps.ite
      | apply Keeps.iteFst | split | dsimp only | apply within_ite

theorem execRecorderRecord_keeps {mP wF : Nat} {r0 : State} (h : Half) (ev : Event) (s : State) (hk : Keeps mP wF r0 s) (hm0 : within 0x2000831 mP) (hw0 : within 0xc1f000000000000000020000000000000000000000000000000000000000000000000000000000000000000000000000000000000000000000 wF) : Keeps.Res mP wF r0 (execRecorderRecord h ev s) := by
  unfold execRecorderRecord; try dsimp only
  with_reducible
    repeat' first
      | assumption | exact within_trans (by decide +kernel) hm0 | exact within_trans (by decide +kernel) hw0
      | apply State.logEv_keeps | apply Keeps.next

theorem State.viewFreeze_keeps {mP wF : Nat} {r0 : State} (s : State) (h : Nat) (p : Nat) (on : Bool) (hk : Keeps mP wF r0 s) (hm0 : within 0x21 mP) (hw0 : within 0x200000000000000000000000000000000000000000000000000000000000000000000000000000000000000000000000000000000000000000 wF) : Keeps mP wF r0 (State.viewFreeze s h p on) := by
  unfold State.viewFreeze; try dsimp only
  with_reducible
    repeat' first
      | intro _ | assumption | exact within_trans (by decide +kernel) hm0 | exact within_trans (by decide +kernel) hw0
      | apply State.setFlag_keeps | apply State.updRcd_keeps | apply Keeps.ite | split | dsimp only | apply within_ite

theorem State.viewGate_keeps {mP wF : Nat} {r0 : State} (s : State) (a : Acc) (h : Nat) (view : Option Pol) (o : Nat) (f : State → State) (hk : Keeps mP wF r0 s) (hf : ∀ x0, Keeps mP wF r0 x0 → Keeps mP wF r0 (f x0)) (hm0 : within 0x2000831 mP) (hw0 : within 0xc1f000000000000000020000000000000000000000000000000000000000000000000000000000000000000000000400000000000000000000 wF) : Keeps mP wF r0 (State.viewGate s a h view o f) := by
  unfold State.viewGate; try dsimp only
  with_reducible
    repeat' first
      | assumption | exact within_trans (by decide +kernel) hm0 | exact within_trans (by decide +kernel) hw0
      | apply State.ctlGate_keeps | apply hf | refine Keeps.fst ?_ (by assumption) | split | dsimp only

theorem execRvFreeze_keeps {mP wF : Nat} {r0 : State} (a : Acc) (h : Half) (p : Pol) (v : Word) (s : State) (hk : Keeps mP wF r0 s) (hm0 : within 0x2000831 mP) (hw0 : within 0xe1f000000000000000020000000000000000000000000000000000000000000000000000000000000000000000000400000000000000000000 wF) : Keeps.Res mP wF r0 (execRvFreeze a h p v s) := by
  unfold execRvFreeze; try dsimp only
  with_reducible
    repeat' first
      | intro _ | assumption | exact within_trans (by decide +kernel) hm0 | exact within_trans (by decide +kernel) hw0
      | apply State.viewFreeze_keeps | apply State.viewGate_keeps | apply Keeps.next | dsimp only

theorem State.cursorWrite_keeps {mP wF : Nat} {r0 : State} (s : State) (h : Nat) (view : Option Pol) (v : Nat) (hk : Keeps mP wF r0 s) (hm0 : within 0x1 mP) (hw0 : within 0x30c0000000000000000000000000000000000000000000000000000000000000000000000000000000000000000000000000000000000000000 wF) : Keeps mP wF r0 (State.cursorWrite s h view v) := by
  unfold State.cursorWrite; try dsimp only
  with_reducible
    repeat' first
      | assumption | exact within_trans (by decide +kernel) hm0 | exact within_trans (by decide +kernel) hw0
      | apply State.put_keeps | apply State.setFlag_keeps | apply Keeps.ite | split | dsimp only | apply within_ite

theorem execRecCursor_keeps {mP wF : Nat} {r0 : State} (a : Acc) (h : Half) (view : Option Pol) (v : Word) (s : State) (hk : Keeps mP wF r0 s) (hm0 : within 0x2000831 mP) (hw0 : within 0x3cdf000000000000000020000000000000000000000000000000000000000000000000000000000000000000000000400000000000000000000 wF) : Keeps.Res mP wF r0 (execRecCursor a h view v s) := by
  unfold execRecCursor; try dsimp only
  with_reducible
    repeat' first
      | intro _ | assumption | exact within_trans (by decide +kernel) hm0 | exact within_trans (by decide +kernel) hw0
      | apply State.viewGate_keeps | apply State.cursorWrite_keeps | apply Keeps.next | dsimp only

theorem execViewSeekDone_keeps {mP wF : Nat} {r0 : State} (h : Half) (p : Pol) (s : State) (hk : Keeps mP wF r0 s) (hm0 : within 0x1 mP) (hw0 : within 0x3000000000000000000000000000000000000000000000000000000000000000000000000000000000000000000000000000000000000000000 wF) : Keeps.Res mP wF r0 (execViewSeekDone h p s) := by
  unfold execViewSeekDone; try dsimp only
  with_reducible
    repeat' first
      | assumption | exact within_trans (by decide +kernel) hm0 | exact within_trans (by decide +kernel) hw0
      | apply State.put_keeps | apply State.setFlag_keeps | apply Keeps.next | apply Keeps.ite | apply Keeps.iteFst
      | split | dsimp only | apply within_ite

theorem State.windowRead_keeps {mP wF : Nat} {r0 : State} (s : State) (h : Nat) (view : Option Pol) (w : Nat) (hk : Keeps mP wF r0 s) (hm0 : within 0x11 mP) (hw0 : within 0x2040000000000000000000000000000000000000000000000000000000000000000000000000000000000000000000000000000000000000000 wF) : Keeps mP wF r0 (State.windowRead s h view w) := by
  unfold State.windowRead; try dsimp only
  with_reducible
    repeat' first
      | intro _ | assumption | exact within_trans (by decide +kernel) hm0 | exact within_trans (by decide +kernel) hw0
      | apply State.put_keeps | apply State.updCp_keeps | apply Keeps.ite | split | dsimp only | apply within_ite

theorem execRecWindow7Read_keeps {mP wF : Nat} {r0 : State} (a : Acc) (h : Half) (view : Option Pol) (s : State) (hk : Keeps mP wF r0 s) (hm0 : within 0x2000831 mP) (hw0 : within 0x2c5f000000000000000020000000000000000000000000000000000000000000000000000000000000000000000000400000000000000000000 wF) : Keeps.Res mP wF r0 (execRecWindow7Read a h view s) := by
  unfold execRecWindow7Read; try dsimp only
  with_reducible
    repeat' first
      | intro _ | assumption | exact within_trans (by decide +kernel) hm0 | exact within_trans (by decide +kernel) hw0
      | apply State.updCp_keeps | apply State.viewGate_keeps | apply State.windowRead_keeps | apply Keeps.next
      | dsimp only

theorem execRecorderFreeze_keeps {mP wF : Nat} {r0 : State} (c : Cmd) (s : State) (hk : Keeps mP wF r0 s) (hm0 : within 0x2019c3f mP) (hw0 : within 0xe3f088400000000000020000000000000000000000000000000000000000000000000000100000000000000000000400000000000000000000 wF) : Keeps.Res mP wF r0 (execRecorderFreeze c s) := by
  unfold execRecorderFreeze; try dsimp only
  with_reducible
    repeat' first
      | intro _ | assumption | exact within_trans (by decide +kernel) hm0 | exact within_trans (by decide +kernel) hw0
      | apply State.silence_keeps | apply runCmd_keeps | apply State.recFreeze_keeps | apply State.viewFreeze_keeps
      | apply Keeps.next | apply Keeps.ite | apply Keeps.iteFst | split | dsimp only | apply within_ite

theorem execRecorderUnfreeze_keeps {mP wF : Nat} {r0 : State} (c : Cmd) (s : State) (hk : Keeps mP wF r0 s) (hm0 : within 0x2019c3f mP) (hw0 : within 0xe3f088400000000000020000000000000000000000000000000000000000000000000000100000000000000000000400000000000000000000 wF) : Keeps.Res mP wF r0 (execRecorderUnfreeze c s) := by
  unfold execRecorderUnfreeze; try dsimp only
  with_reducible
    repeat' first
      | intro _ | assumption | exact within_trans (by decide +kernel) hm0 | exact within_trans (by decide +kernel) hw0
      | apply State.silence_keeps | apply runCmd_keeps | apply State.recUnfreeze_keeps | apply State.viewFreeze_keeps
      | apply Keeps.next | apply Keeps.ite | apply Keeps.iteFst | split | dsimp only | apply within_ite

theorem State.exportKeep_keeps {mP wF : Nat} {r0 : State} (s : State) (h : Nat) (hk : Keeps mP wF r0 s) (hm0 : within 0x61 mP) (hw0 : within 0xc1f000000000000000000000000000000000000000000000000000000000000000000000000000000000000000000000000000000000000000 wF) : Keeps mP wF r0 (State.exportKeep s h) := by
  unfold State.exportKeep; try dsimp only
  with_reducible
    repeat' first
      | intro _ | assumption | exact within_trans (by decide +kernel) hm0 | exact within_trans (by decide +kernel) hw0
      | apply State.logRec_keeps
      | refine Keeps.record ?_ rfl (fun p hp => by cases p <;> first | exact absurd (hp.symm.trans (within_bit hm0 (by decide +kernel))) Bool.false_ne_true | with_unfolding_all exact rfl)
      | dsimp only

theorem execRecorderExportKeep_keeps {mP wF : Nat} {r0 : State} (c : Cmd) (s : State) (hk : Keeps mP wF r0 s) (hm0 : within 0x2019c7f mP) (hw0 : within 0xc1f008400000000000020000000000000000000000000000000000000000000000000000100000000000000000000400000000000000000000 wF) : Keeps.Res mP wF r0 (execRecorderExportKeep c s) := by
  unfold execRecorderExportKeep; try dsimp only
  with_reducible
    repeat' first
      | intro _ | assumption | exact within_trans (by decide +kernel) hm0 | exact within_trans (by decide +kernel) hw0
      | apply State.silence_keeps | apply runCmd_keeps | apply State.exportKeep_keeps | apply Keeps.next
      | apply Keeps.ite | apply Keeps.iteFst | split | dsimp only | apply within_ite

theorem execRecorderExportBuffer_keeps {mP wF : Nat} {r0 : State} (c : Cmd) (s : State) (hk : Keeps mP wF r0 s) (hm0 : within 0x2019c3f mP) (hw0 : within 0xc1f008400000000000020000000000000000000000000000000000000000000000000000100000000000000000000400000000000000000000 wF) : Keeps.Res mP wF r0 (execRecorderExportBuffer c s) := by
  unfold execRecorderExportBuffer; try dsimp only
  with_reducible
    repeat' first
      | intro _ | assumption | exact within_trans (by decide +kernel) hm0 | exact within_trans (by decide +kernel) hw0
      | apply State.silence_keeps | apply runCmd_keeps | apply Keeps.next | apply Keeps.ite | apply Keeps.iteFst
      | split | dsimp only | apply within_ite

theorem execRecorderAutoExport_keeps {mP wF : Nat} {r0 : State} (h : Half) (s : State) (hk : Keeps mP wF r0 s) (hm0 : within 0x61 mP) (hw0 : within 0xc3f080000000000000000000000000000000000000000000000000000000000000000000000000000000000000000000000000000000000000 wF) : Keeps.Res mP wF r0 (execRecorderAutoExport h s) := by
  unfold execRecorderAutoExport; try dsimp only
  with_reducible
    repeat' first
      | assumption | exact within_trans (by decide +kernel) hm0 | exact within_trans (by decide +kernel) hw0
      | apply State.recFreeze_keeps | apply State.recUnfreeze_keeps | apply State.recClear_keeps
      | apply State.exportKeep_keeps | apply Keeps.next | apply Keeps.ite | apply Keeps.iteFst | split | dsimp only
      | apply within_ite

theorem State.sampleWrite_keeps {mP wF : Nat} {r0 : State} (s : State) (g : Nat) (ws : List Nat) (hk : Keeps mP wF r0 s) (hm0 : within 0x2019c3f mP) (hw0 : within 0xc1f008400000000000020000000000000000000000000000000000000000000000000000100000000000000000000400000000000000000000 wF) : Keeps mP wF r0 (State.sampleWrite s g ws) := by
  unfold State.sampleWrite; try dsimp only
  with_reducible
    repeat' first
      | intro _ | assumption | exact within_trans (by decide +kernel) hm0 | exact within_trans (by decide +kernel) hw0
      | apply State.updCore_keeps | apply State.writeBytes_keeps | apply State.admitInt_keeps
      | apply State.coreRefused_keeps | apply Keeps.ite | apply Keeps.iteOpt | exact Keeps.optNone
      | apply Keeps.optSome | refine Keeps.opt ?_ (by assumption) | split | dsimp only | apply within_ite

theorem execSampleTake_keeps {mP wF : Nat} {r0 : State} (g : GCore) (smp : SampleInfo) (s : State) (hk : Keeps mP wF r0 s) (hm0 : within 0x2019c3f mP) (hw0 : within 0xc1f008400000000000020000000000000000000000000000000000000000000000000000100000000000000000000400000000000000000000 wF) : Keeps.Res mP wF r0 (execSampleTake g smp s) := by
  unfold execSampleTake; try dsimp only
  with_reducible
    repeat' first
      | intro _ | assumption | exact within_trans (by decide +kernel) hm0 | exact within_trans (by decide +kernel) hw0
      | apply State.updCore_keeps | apply State.sampleWrite_keeps | apply Keeps.next | apply Keeps.ite
      | apply Keeps.iteFst | split | dsimp only | apply within_ite

theorem State.cbOwn_keeps {mP wF : Nat} {r0 : State} (s : State) (u : Nat) (b : Nat) (v : Nat) (hk : Keeps mP wF r0 s) (hm0 : within 0x1 mP) (hw0 : within 0x9cc0000000000000000000000000000000000000000000000000000000000000000000000000000000000000000000000000000000000 wF) : Keeps mP wF r0 (State.cbOwn s u b v) := by
  unfold State.cbOwn; try dsimp only
  with_reducible
    repeat' first
      | intro _ | assumption | exact within_trans (by decide +kernel) hm0 | exact within_trans (by decide +kernel) hw0
      | apply State.put_keeps | apply State.setFlag_keeps | apply Keeps.foldl | apply Keeps.foldlFst | apply Keeps.ite
      | split | dsimp only | apply within_ite

theorem execCbOwnWrite_keeps {mP wF : Nat} {r0 : State} (a : Acc) (addr : BitVec 52) (v : Word) (s : State) (hk : Keeps mP wF r0 s) (hm0 : within 0x2000831 mP) (hw0 : within 0xc1f009cc0000000000020000000000000000000000000000000000000000000000000000000000000000000000000400000000000000000000 wF) : Keeps.Res mP wF r0 (execCbOwnWrite a addr v s) := by
  unfold execCbOwnWrite; try dsimp only
  with_reducible
    repeat' first
      | intro _ | assumption | exact within_trans (by decide +kernel) hm0 | exact within_trans (by decide +kernel) hw0
      | apply State.secureOnly_keeps | apply State.cbOwn_keeps | apply Keeps.next | apply Keeps.ite
      | apply Keeps.iteFst | split | dsimp only | apply within_ite

theorem State.dumpWrite_keeps {mP wF : Nat} {r0 : State} (s : State) (p : Nat) (a : Nat) (stop : BitVec 12) (ws : List Nat) (hk : Keeps mP wF r0 s) (hm0 : within 0x2019c3f mP) (hw0 : within 0xc1f008400000000000020000000000000000000000000000000000000000000000000000100000000000000000000400000000000000000000 wF) : Keeps mP wF r0 (State.dumpWrite s p a stop ws) := by
  unfold State.dumpWrite; try dsimp only
  with_reducible
    repeat' first
      | assumption | exact within_trans (by decide +kernel) hm0 | exact within_trans (by decide +kernel) hw0
      | apply State.writeBytes_keeps | apply State.refuse_keeps | split | dsimp only

theorem State.dumpAll_keeps {mP wF : Nat} {r0 : State} (s : State) (p : Nat) (n : Nat) (fire : Nat) (base : Nat) (v : Polder) (hk : Keeps mP wF r0 s) (hm0 : within 0x2019c3f mP) (hw0 : within 0xc1f008400000000000020000000000000000000000000000000000000000000000000000100000000000000000000400000000000000000000 wF) : Keeps mP wF r0 (State.dumpAll s p n fire base v) := by
  unfold State.dumpAll; try dsimp only
  with_reducible
    repeat' first
      | intro _ | assumption | exact within_trans (by decide +kernel) hm0 | exact within_trans (by decide +kernel) hw0
      | apply State.updCore_keeps | apply State.dumpWrite_keeps | apply Keeps.foldl | apply Keeps.foldlFst
      | apply Keeps.ite | split | dsimp only | apply within_ite

theorem execCounterDump_keeps {mP wF : Nat} {r0 : State} (p : Pol) (s : State) (hk : Keeps mP wF r0 s) (hm0 : within 0x6019e3f mP) (hw0 : within 0xc1f048400000000000020000000000000000000000000000000000000000000000000000100000000000000000000400000000000000000000 wF) : Keeps.Res mP wF r0 (execCounterDump p s) := by
  unfold execCounterDump; try dsimp only
  with_reducible
    repeat' first
      | intro _ | assumption | exact within_trans (by decide +kernel) hm0 | exact within_trans (by decide +kernel) hw0
      | apply State.bump_keeps | apply State.drawn_keeps | apply State.updCtx_keeps | apply State.dumpAll_keeps
      | apply Keeps.next | apply Keeps.ite | apply Keeps.iteFst | split | dsimp only | apply within_ite

theorem execSetCntDump_keeps {mP wF : Nat} {r0 : State} (c : Cmd) (s : State) (hk : Keeps mP wF r0 s) (hm0 : within 0x2019c3f mP) (hw0 : within 0xc1f018400000000000020000000000000000000000000000000000000000000000000000100000000000000000000400000000000000000000 wF) : Keeps.Res mP wF r0 (execSetCntDump c s) := by
  unfold execSetCntDump; try dsimp only
  with_reducible
    repeat' first
      | intro _ | assumption | exact within_trans (by decide +kernel) hm0 | exact within_trans (by decide +kernel) hw0
      | apply State.put_keeps | apply State.silence_keeps | apply runCmd_keeps | apply Keeps.next | apply Keeps.ite
      | apply Keeps.iteFst | split | dsimp only | apply within_ite

end Sys2Proof.Machine
end

