-- ==== Sys2Proof/Laws/KeepsReset.lean ====
section
/-! SUPPORT. The operations of Machine/Reset.lean keep the memory form, the field widths and the queue. -/

set_option Elab.async false
namespace Sys2Proof.Machine

theorem State.updPow_keeps {mP wF : Nat} {r0 : State} (s : State) (f : Power → Power) (hk : Keeps mP wF r0 s) (hf : ∀ p, (f p).defs = p.defs)
    (hm0 : within 0x1000000 mP) : Keeps mP wF r0 (s.updPow f) :=
  Keeps.record hk (hf _) fun p hp => by
    cases p <;> first
      | exact rfl
      | exact absurd (hp.symm.trans (within_bit hm0 (by decide +kernel))) Bool.false_ne_true

theorem State.loadCfg_keeps {mP wF : Nat} {r0 : State} (s : State) (hk : Keeps mP wF r0 s) (hm0 : within 0x1 mP) (hw0 : within 0x1000000000000000001e000000000000000000000000000000000101c0e0000000000000000000000000000003c0000000020000000010 wF) : Keeps mP wF r0 (State.loadCfg s) := by
  unfold State.loadCfg; try dsimp only
  with_reducible
    repeat' first
      | intro _ | assumption | exact within_trans (by decide +kernel) hm0 | exact within_trans (by decide +kernel) hw0
      | apply State.put_keeps | apply State.setFlag_keeps | apply Keeps.foldl | apply Keeps.foldlFst | dsimp only

/-- The definitions the keep store holds fit the fields they are for. -/
theorem State.defsNow_fit (s : State) (h : s.fieldsFit) : ∀ d, s.defsNow = some d → ∀ x ∈ d.regs, fitsField x := by
  intro d hd x hx
  unfold State.defsNow at hd
  split at hd
  · exact h.2 d hd x hx
  · injection hd with hd
    subst hd
    exact h.1 x (List.mem_filter.mp hx).1

theorem State.rebuild_keeps {mP wF : Nat} {r0 : State} (s : State) (por : Bool) (hk : Keeps mP wF r0 s)
    (hm0 : within 0x7ffffff mP) (hw0 : within Fld.maskAll wF) : Keeps mP wF r0 (s.rebuild por) :=
  ⟨fun _ => rfl, fun x => ⟨fun y hy => (hk.fit x).1 y (List.mem_filter.mp hy).1, s.defsNow_fit (hk.fit x)⟩, hk.pending,
   fun p hp => absurd (hp.symm.trans (within_bit hm0 (by cases p <;> decide +kernel))) Bool.false_ne_true,
   fun f _ hf => absurd (hf.symm.trans (testBit_of_mask (within_trans f.within_all hw0))) Bool.false_ne_true⟩

theorem State.resetCores_keeps {mP wF : Nat} {r0 : State} (s : State) (hk : Keeps mP wF r0 s) (hm0 : within 0x401 mP) (hw0 : within 0x1ffe0000000 wF) : Keeps mP wF r0 (State.resetCores s) := by
  unfold State.resetCores; try dsimp only
  with_reducible
    repeat' first
      | intro _ | assumption | exact within_trans (by decide +kernel) hm0 | exact within_trans (by decide +kernel) hw0
      | apply State.put_keeps | apply State.setCores_keeps | apply Keeps.foldl | apply Keeps.foldlFst
      | apply Keeps.ite | split | dsimp only | apply within_ite | apply bmFld_within

theorem State.por_keeps {mP wF : Nat} {r0 : State} (s : State) (prim : Nat) (casc : Nat) (boot : Nat) (hk : Keeps mP wF r0 s) (hm0 : within 0x7ffffff mP) (hw0 : within Fld.maskAll wF) : Keeps mP wF r0 (State.por s prim casc boot) := by
  unfold State.por; try dsimp only
  with_reducible
    repeat' first
      | exact Eq.refl _ | intro _ | assumption | exact within_trans (by decide +kernel) hm0
      | exact within_trans (by decide +kernel) hw0 | apply State.put_keeps | apply State.tearBlocks_keeps
      | apply State.updPow_keeps | apply State.loadCfg_keeps | apply State.rebuild_keeps
      | apply State.resetCores_keeps | dsimp only | exact within_trans (Fld.within_all _) hw0

theorem State.pkr_keeps {mP wF : Nat} {r0 : State} (s : State) (cause : Nat) (boot : Nat) (hk : Keeps mP wF r0 s) (hm0 : within 0x7ffffff mP) (hw0 : within Fld.maskAll wF) : Keeps mP wF r0 (State.pkr s cause boot) := by
  unfold State.pkr; try dsimp only
  with_reducible
    repeat' first
      | exact Eq.refl _ | intro _ | assumption | exact within_trans (by decide +kernel) hm0
      | exact within_trans (by decide +kernel) hw0 | apply State.put_keeps | apply State.bump_keeps
      | apply State.updPow_keeps | apply State.loadCfg_keeps | apply State.rebuild_keeps
      | apply State.resetCores_keeps | dsimp only | exact within_trans (Fld.within_all _) hw0

theorem execPorst_keeps {mP wF : Nat} {r0 : State} (st : Straps) (s : State) (hk : Keeps mP wF r0 s) (hm0 : within 0x7ffffff mP) (hw0 : within Fld.maskAll wF) : Keeps.Res mP wF r0 (execPorst st s) := by
  unfold execPorst; try dsimp only
  with_reducible
    repeat' first
      | exact Eq.refl _ | intro _ | assumption | exact within_trans (by decide +kernel) hm0
      | exact within_trans (by decide +kernel) hw0 | apply State.updPow_keeps | apply State.por_keeps
      | apply Keeps.next | dsimp only | exact within_trans (Fld.within_all _) hw0

theorem State.askPkr_keeps {mP wF : Nat} {r0 : State} (s : State) (cause : Nat) (boot : Nat) (hk : Keeps mP wF r0 s) (hm0 : within 0x7ffffff mP) (hw0 : within Fld.maskAll wF) : Keeps mP wF r0 (State.askPkr s cause boot) := by
  unfold State.askPkr; try dsimp only
  with_reducible
    repeat' first
      | exact Eq.refl _ | intro _ | assumption | exact within_trans (by decide +kernel) hm0
      | exact within_trans (by decide +kernel) hw0 | apply State.updPow_keeps | apply State.pkr_keeps
      | apply Keeps.ite | split | dsimp only | apply within_ite | exact within_trans (Fld.within_all _) hw0

theorem execPkrst_keeps {mP wF : Nat} {r0 : State} (boot : Fin 4) (s : State) (hk : Keeps mP wF r0 s) (hm0 : within 0x7ffffff mP) (hw0 : within Fld.maskAll wF) : Keeps.Res mP wF r0 (execPkrst boot s) := by
  unfold execPkrst; try dsimp only
  with_reducible
    repeat' first
      | assumption | exact within_trans (by decide +kernel) hm0 | exact within_trans (by decide +kernel) hw0
      | apply State.askPkr_keeps | apply Keeps.next | exact within_trans (Fld.within_all _) hw0

theorem State.openDomain_keeps {mP wF : Nat} {r0 : State} (s : State) (d : Nat) (hk : Keeps mP wF r0 s) (hm0 : within 0x1 mP) (hw0 : within 0x200000000000000000000000000000000000000000000000000000000000000000000000000000000000000000000000000000 wF) : Keeps mP wF r0 (State.openDomain s d) := by
  unfold State.openDomain; try dsimp only
  with_reducible
    repeat' first
      | assumption | exact within_trans (by decide +kernel) hm0 | exact within_trans (by decide +kernel) hw0
      | apply State.put_keeps

theorem State.dieReset_keeps {mP wF : Nat} {r0 : State} (s : State) (d : Nat) (hk : Keeps mP wF r0 s) (hm0 : within 0x221941f mP) (hw0 : within Fld.maskAll wF) : Keeps mP wF r0 (State.dieReset s d) := by
  unfold State.dieReset; try dsimp only
  with_reducible
    repeat' first
      | intro _ | assumption | exact within_trans (by decide +kernel) hm0 | exact within_trans (by decide +kernel) hw0
      | apply State.setCore_keeps | apply State.updDie_keeps | apply State.updDirs_keeps
      | apply State.hubSettleAll_keeps | apply State.setModState_keeps | apply State.pathsOf_keeps
      | apply State.linkReset_keeps | apply State.initFields_keeps | apply State.openDomain_keeps | apply Keeps.foldl
      | apply Keeps.foldlFst | dsimp only | exact within_trans (Fld.within_all _) hw0

theorem State.coreReset_keeps {mP wF : Nat} {r0 : State} (s : State) (g : Nat) (hk : Keeps mP wF r0 s) (hm0 : within 0x6019c3f mP) (hw0 : within Fld.maskAll wF) : Keeps mP wF r0 (State.coreReset s g) := by
  unfold State.coreReset; try dsimp only
  with_reducible
    repeat' first
      | intro _ | assumption | exact within_trans (by decide +kernel) hm0 | exact within_trans (by decide +kernel) hw0
      | apply State.setCore_keeps | apply State.updTick_keeps | apply State.startCore_keeps
      | apply State.freeToken_keeps | apply State.hubSettleAll_keeps | apply State.answerParked_keeps
      | apply State.initFields_keeps | apply State.openDomain_keeps | apply Keeps.ite | split | dsimp only
      | apply within_ite | exact within_trans (Fld.within_all _) hw0

theorem State.polReset_keeps {mP wF : Nat} {r0 : State} (s : State) (p : Nat) (hk : Keeps mP wF r0 s) (hm0 : within 0x6019c3f mP) (hw0 : within Fld.maskAll wF) : Keeps mP wF r0 (State.polReset s p) := by
  unfold State.polReset; try dsimp only
  with_reducible
    repeat' first
      | intro _ | assumption | exact within_trans (by decide +kernel) hm0 | exact within_trans (by decide +kernel) hw0
      | apply State.dropQueues_keeps | apply State.initFields_keeps | apply State.initQrb_keeps
      | apply State.coreReset_keeps | apply Keeps.foldl | apply Keeps.foldlFst | split | dsimp only
      | exact within_trans (Fld.within_all _) hw0

theorem State.moduleReset_keeps {mP wF : Nat} {r0 : State} (s : State) (l : LinkEnd) (hk : Keeps mP wF r0 s) (hm0 : within 0x200001 mP) (hw0 : within 0x2100108000000000000000000000000000000000000000000000000000000000000 wF) : Keeps mP wF r0 (State.moduleReset s l) := by
  unfold State.moduleReset; try dsimp only
  with_reducible
    repeat' first
      | assumption | exact within_trans (by decide +kernel) hm0 | exact within_trans (by decide +kernel) hw0
      | apply State.lkPut_keeps | apply State.awake_keeps | apply State.linkReset_keeps

theorem State.linkTarget_keeps {mP wF : Nat} {r0 : State} (s : State) (t : Nat) (die : Bool) (hk : Keeps mP wF r0 s) (hm0 : within 0x2200811 mP) (hw0 : within Fld.maskAll wF) : Keeps mP wF r0 (State.linkTarget s t die) := by
  unfold State.linkTarget; try dsimp only
  with_reducible
    repeat' first
      | assumption | exact within_trans (by decide +kernel) hm0 | exact within_trans (by decide +kernel) hw0
      | apply State.peReset_keeps | apply State.moduleReset_keeps | apply Keeps.ite | split | dsimp only
      | apply within_ite | exact within_trans (Fld.within_all _) hw0

theorem State.rstDo_keeps {mP wF : Nat} {r0 : State} (s : State) (kind : Nat) (t : Nat) (hk : Keeps mP wF r0 s) (hm0 : within 0x7ffffff mP) (hw0 : within Fld.maskAll wF) : Keeps mP wF r0 (State.rstDo s kind t).1 := by
  unfold State.rstDo; try dsimp only
  with_reducible
    repeat' first
      | assumption | exact within_trans (by decide +kernel) hm0 | exact within_trans (by decide +kernel) hw0
      | apply State.askPkr_keeps | apply State.dieReset_keeps | apply State.coreReset_keeps
      | apply State.polReset_keeps | apply State.linkTarget_keeps | apply Keeps.ite | apply Keeps.iteFst | split
      | dsimp only | apply within_ite | exact within_trans (Fld.within_all _) hw0

theorem State.rstReq_keeps {mP wF : Nat} {r0 : State} (s : State) (v : Nat) (hk : Keeps mP wF r0 s) (hm0 : within 0x7ffffff mP) (hw0 : within Fld.maskAll wF) : Keeps mP wF r0 (State.rstReq s v) := by
  unfold State.rstReq; try dsimp only
  with_reducible
    repeat' first
      | assumption | exact within_trans (by decide +kernel) hm0 | exact within_trans (by decide +kernel) hw0
      | apply State.rstDo_keeps | apply Keeps.ite | refine Keeps.fst ?_ (by assumption) | split | dsimp only
      | apply within_ite | exact within_trans (Fld.within_all _) hw0

theorem execRstReqPkr_keeps {mP wF : Nat} {r0 : State} (a : Acc) (h : Half) (s : State) (hk : Keeps mP wF r0 s) (hm0 : within 0x7ffffff mP) (hw0 : within Fld.maskAll wF) : Keeps.Res mP wF r0 (execRstReqPkr a h s) := by
  unfold execRstReqPkr; try dsimp only
  with_reducible
    repeat' first
      | intro _ | assumption | exact within_trans (by decide +kernel) hm0 | exact within_trans (by decide +kernel) hw0
      | apply State.secureOnly_keeps | apply State.rstReq_keeps | apply Keeps.next | dsimp only
      | exact within_trans (Fld.within_all _) hw0

theorem execRstReqDie_keeps {mP wF : Nat} {r0 : State} (a : Acc) (h : Half) (d : Die) (s : State) (hk : Keeps mP wF r0 s) (hm0 : within 0x7ffffff mP) (hw0 : within Fld.maskAll wF) : Keeps.Res mP wF r0 (execRstReqDie a h d s) := by
  unfold execRstReqDie; try dsimp only
  with_reducible
    repeat' first
      | intro _ | assumption | exact within_trans (by decide +kernel) hm0 | exact within_trans (by decide +kernel) hw0
      | apply State.secureOnly_keeps | apply State.rstReq_keeps | apply Keeps.next | dsimp only
      | exact within_trans (Fld.within_all _) hw0

theorem execRstReqCore_keeps {mP wF : Nat} {r0 : State} (a : Acc) (h : Half) (g : GCore) (s : State) (hk : Keeps mP wF r0 s) (hm0 : within 0x7ffffff mP) (hw0 : within Fld.maskAll wF) : Keeps.Res mP wF r0 (execRstReqCore a h g s) := by
  unfold execRstReqCore; try dsimp only
  with_reducible
    repeat' first
      | intro _ | assumption | exact within_trans (by decide +kernel) hm0 | exact within_trans (by decide +kernel) hw0
      | apply State.secureOnly_keeps | apply State.rstReq_keeps | apply Keeps.next | dsimp only
      | exact within_trans (Fld.within_all _) hw0

theorem execRstReqPolder_keeps {mP wF : Nat} {r0 : State} (a : Acc) (h : Half) (p : Pol) (s : State) (hk : Keeps mP wF r0 s) (hm0 : within 0x7ffffff mP) (hw0 : within Fld.maskAll wF) : Keeps.Res mP wF r0 (execRstReqPolder a h p s) := by
  unfold execRstReqPolder; try dsimp only
  with_reducible
    repeat' first
      | intro _ | assumption | exact within_trans (by decide +kernel) hm0 | exact within_trans (by decide +kernel) hw0
      | apply State.secureOnly_keeps | apply State.rstReq_keeps | apply Keeps.next | dsimp only
      | exact within_trans (Fld.within_all _) hw0

theorem execRstReqLink_keeps {mP wF : Nat} {r0 : State} (a : Acc) (h : Half) (target : BitVec 16) (s : State) (hk : Keeps mP wF r0 s) (hm0 : within 0x7ffffff mP) (hw0 : within Fld.maskAll wF) : Keeps.Res mP wF r0 (execRstReqLink a h target s) := by
  unfold execRstReqLink; try dsimp only
  with_reducible
    repeat' first
      | intro _ | assumption | exact within_trans (by decide +kernel) hm0 | exact within_trans (by decide +kernel) hw0
      | apply State.secureOnly_keeps | apply State.rstReq_keeps | apply Keeps.next | dsimp only
      | exact within_trans (Fld.within_all _) hw0

theorem execPhySupplyTransient_keeps {mP wF : Nat} {r0 : State} (h : Half) (target : Fin 32) (die : Bool) (s : State) (hk : Keeps mP wF r0 s) (hm0 : within 0x2200811 mP) (hw0 : within Fld.maskAll wF) : Keeps.Res mP wF r0 (execPhySupplyTransient h target die s) := by
  unfold execPhySupplyTransient; try dsimp only
  with_reducible
    repeat' first
      | assumption | exact within_trans (by decide +kernel) hm0 | exact within_trans (by decide +kernel) hw0
      | apply State.linkTarget_keeps | apply Keeps.next | exact within_trans (Fld.within_all _) hw0

theorem execControllersFailed_keeps {mP wF : Nat} {r0 : State} (s : State) (hk : Keeps mP wF r0 s) (hm0 : within 0x7ffffff mP) (hw0 : within Fld.maskAll wF) : Keeps.Res mP wF r0 (execControllersFailed s) := by
  unfold execControllersFailed; try dsimp only
  with_reducible
    repeat' first
      | assumption | exact within_trans (by decide +kernel) hm0 | exact within_trans (by decide +kernel) hw0
      | apply State.askPkr_keeps | apply Keeps.next | apply Keeps.ite | apply Keeps.iteFst | split | dsimp only
      | apply within_ite | exact within_trans (Fld.within_all _) hw0

theorem State.bootTry_keeps {mP wF : Nat} {r0 : State} (s : State) (h : Nat) (y0 : List Nat) (hk : Keeps mP wF r0 s) (hm0 : within 0x2000831 mP) (hw0 : within 0xc1f000000000000000020000000000000000000000000000000000000000000000000000000000000000000000000000000000000000000000 wF) : Keeps mP wF r0 (State.bootTry s h y0).1 := by
  induction y0 generalizing s h with
  | nil =>
    unfold State.bootTry; try dsimp only
    with_reducible
      repeat' first
        | assumption | exact within_trans (by decide +kernel) hm0 | exact within_trans (by decide +kernel) hw0
        | apply State.logSec_keeps | apply State.setSlot_keeps | refine Keeps.fst ?_ (by assumption) | split
        | dsimp only
  | cons x l ih =>
    unfold State.bootTry; try dsimp only
    with_reducible
      repeat' first
        | assumption | exact within_trans (by decide +kernel) hm0 | exact within_trans (by decide +kernel) hw0
        | apply State.logSec_keeps | apply State.setSlot_keeps | apply ih | refine Keeps.fst ?_ (by assumption)
        | split | dsimp only

theorem State.bootActive_keeps {mP wF : Nat} {r0 : State} (s : State) (h : Nat) (hk : Keeps mP wF r0 s) (hm0 : within 0x2000831 mP) (hw0 : within 0xc1f000000000010000020000000000000000000000000000000000000000000000000000000000000000000000000000000000000000000000 wF) : Keeps mP wF r0 (State.bootActive s h) := by
  unfold State.bootActive; try dsimp only
  with_reducible
    repeat' first
      | intro _ | assumption | exact within_trans (by decide +kernel) hm0 | exact within_trans (by decide +kernel) hw0
      | apply State.put_keeps | apply State.updCp_keeps | apply State.updPe_keeps | apply State.logSec_keeps
      | apply State.setRuns_keeps | apply State.bootTry_keeps | apply Keeps.foldl | apply Keeps.foldlFst
      | refine Keeps.fst ?_ (by assumption) | split | dsimp only

theorem State.bootStandby_keeps {mP wF : Nat} {r0 : State} (s : State) (h : Nat) (k : Nat) (hk : Keeps mP wF r0 s) (hm0 : within 0x2000831 mP) (hw0 : within 0xc1f000000000000000020000000000000000000000000000000000000000000000000000000000000000000000000000000000000000040000 wF) : Keeps mP wF r0 (State.bootStandby s h k) := by
  unfold State.bootStandby; try dsimp only
  with_reducible
    repeat' first
      | assumption | exact within_trans (by decide +kernel) hm0 | exact within_trans (by decide +kernel) hw0
      | apply State.setFlag_keeps | apply State.logSec_keeps | apply State.setRuns_keeps | split | dsimp only

theorem execBootVerify_keeps {mP wF : Nat} {r0 : State} (hc : Half) (s : State) (hk : Keeps mP wF r0 s) (hm0 : within 0x2000831 mP) (hw0 : within 0xc1f000000000010000020000000000000000000000000000000000000000000000000000000000000000000000000000000000000000040000 wF) : Keeps.Res mP wF r0 (execBootVerify hc s) := by
  unfold execBootVerify; try dsimp only
  with_reducible
    repeat' first
      | assumption | exact within_trans (by decide +kernel) hm0 | exact within_trans (by decide +kernel) hw0
      | apply State.bootActive_keeps | apply State.bootStandby_keeps | apply Keeps.next | apply Keeps.ite
      | apply Keeps.iteFst | split | dsimp only | apply within_ite

theorem State.startStop_keeps {mP wF : Nat} {r0 : State} (s : State) (cause : Nat) (hk : Keeps mP wF r0 s) (hm0 : within 0x2000831 mP) (hw0 : within 0xc1f000000000010000020000000000000000000000000000000000000000000000000000000000000000000000000000000000000000000000 wF) : Keeps mP wF r0 (State.startStop s cause) := by
  unfold State.startStop; try dsimp only
  with_reducible
    repeat' first
      | assumption | exact within_trans (by decide +kernel) hm0 | exact within_trans (by decide +kernel) hw0
      | apply State.put_keeps | apply State.logSec_keeps

theorem State.hppr_keeps {mP wF : Nat} {r0 : State} (s : State) (hk : Keeps mP wF r0 s) (hm0 : within 0x2000000 mP) : Keeps mP wF r0 (State.hppr s) := by
  unfold State.hppr; try dsimp only
  with_reducible
    repeat' first
      | intro _ | assumption | exact within_trans (by decide +kernel) hm0 | apply State.dramCmd_keeps
      | apply Keeps.foldl | apply Keeps.foldlFst | dsimp only

theorem State.train_keeps {mP wF : Nat} {r0 : State} (s : State) (r : StartupReport) (hk : Keeps mP wF r0 s) (hm0 : within 0x3000831 mP) (hw0 : within 0x41f8c1f000000000018000020000000000000000000000000000000000000000000000000000000000000000000000000000000000000001000000 wF) : Keeps mP wF r0 (State.train s r) := by
  unfold State.train; try dsimp only
  with_reducible
    repeat' first
      | exact Eq.refl _ | intro _ | assumption | exact within_trans (by decide +kernel) hm0
      | exact within_trans (by decide +kernel) hw0 | apply State.put_keeps | apply State.setFlag_keeps
      | apply State.logSec_keeps | apply State.updPow_keeps | apply State.startStop_keeps | apply State.hppr_keeps
      | apply Keeps.foldl | apply Keeps.foldlFst | apply Keeps.ite | split | dsimp only | apply within_ite

theorem State.restorePolder_keeps {mP wF : Nat} {r0 : State} (s : State) (p : Nat) (v : Polder) (hk : Keeps mP wF r0 s) (hm0 : within 0x6219ebf mP) (hw0 : within 0xc1f008400000100000020000000000000000000000000000100008000000000000000000100000000520000000000000000000000000000000 wF) : Keeps mP wF r0 (State.restorePolder s p v) := by
  unfold State.restorePolder; try dsimp only
  with_reducible
    repeat' first
      | intro _ | assumption | exact within_trans (by decide +kernel) hm0 | exact within_trans (by decide +kernel) hw0
      | apply State.put_keeps | apply State.drawn_keeps | apply State.setPolder_keeps | apply State.takeConfig_keeps
      | apply State.joinCore_keeps | apply Keeps.foldl | apply Keeps.foldlFst | apply Keeps.ite | split | dsimp only
      | apply within_ite

/-- Restoring register values that fit keeps the widths. -/
theorem State.restoreRegs_keeps {mP wF : Nat} {r0 : State} (l : List (Nat × Nat)) (s : State) (hk : Keeps mP wF r0 s)
    (hl : r0.fieldsFit → ∀ x ∈ l, fitsField x) (hm0 : within 1 mP) (hw0 : within Fld.maskAll wF) :
    Keeps mP wF r0 (l.foldl (fun s x => if x.1 / 65536 = voteField then s
      else { s with regs := Tbl.insert x.1 x.2 (Tbl.erase s.regs x.1) }) s) := by
  induction l generalizing s with
  | nil => exact hk
  | cons x l ih =>
    refine ih _ ?_ fun h y hy => hl h y (List.mem_cons_of_mem _ hy)
    dsimp only
    split
    · exact hk
    · refine ⟨hk.mem, fun h => ⟨fun y hy => ?_, (hk.fit h).2⟩, hk.pending,
        fun p hp => Part.same_trans (hk.part p hp) (by
        cases p <;> first
          | exact rfl
          | exact absurd (hp.symm.trans (within_bit hm0 (by decide +kernel))) Bool.false_ne_true),
        fun f _ hf => absurd (hf.symm.trans (testBit_of_mask (within_trans f.within_all hw0))) Bool.false_ne_true⟩
      rcases Tbl.mem_insert hy with rfl | hy
      · exact hl h _ List.mem_cons_self
      · exact (hk.fit h).1 y (Tbl.mem_erase hy)

theorem State.restore_keeps {mP wF : Nat} {r0 : State} (s : State) (d : Defs) (hk : Keeps mP wF r0 s)
    (hd : r0.fieldsFit → ∀ x ∈ d.regs, fitsField x) (hm0 : within 0x6b19ebf mP) (hw0 : within Fld.maskAll wF) :
    Keeps mP wF r0 (s.restore d) := by
  have h1 := State.restoreRegs_keeps d.regs s hk hd (within_trans (by decide +kernel) hm0) hw0
  revert h1
  unfold State.restore
  generalize (d.regs.foldl (fun s x => if x.1 / 65536 = voteField then s
      else { s with regs := Tbl.insert x.1 x.2 (Tbl.erase s.regs x.1) }) s) = t
  intro h1
  repeat' first
    | intro _
    | with_reducible assumption
    | with_reducible exact within_trans (by decide +kernel) hm0
    | with_reducible exact within_trans (by decide +kernel) hw0
    | with_reducible apply State.put_keeps
    | with_reducible apply State.restorePolder_keeps
    | with_reducible apply State.bindHead_keeps
    | with_reducible apply State.joinStart_keeps
    | with_reducible apply State.startAll_keeps
    | with_reducible apply Keeps.foldl
    | with_reducible apply Keeps.ite
    | split

theorem State.startDone_keeps {mP wF : Nat} {r0 : State} (s : State) (hk : Keeps mP wF r0 s) (hm0 : within 0x7b19ebf mP)
    (hw0 : within Fld.maskAll wF) : Keeps mP wF r0 (s.startDone) := by
  have h1 : Keeps mP wF r0 (match s.pow.defs with | some d => s.restore d | none => s) := by
    split
    · next d hd =>
      exact State.restore_keeps s d hk (fun h => (hk.fit h).2 d hd) (within_trans (by decide +kernel) hm0) hw0
    · exact hk
  unfold State.startDone
  exact State.recSetMode_keeps _ _ _ (State.recSetMode_keeps _ _ _ (State.put_keeps _ _ _ _
    ⟨h1.mem, fun h => ⟨(h1.fit h).1, fun _ hd => nomatch hd⟩, h1.pending,
     fun p hp => Part.same_trans (h1.part p hp) (by
      cases p <;> first
        | exact rfl
        | exact absurd (hp.symm.trans (within_bit hm0 (by decide +kernel))) Bool.false_ne_true), h1.reg⟩
    (within_trans (by decide +kernel) hm0) (within_trans (by decide +kernel) hw0)) (within_trans (by decide +kernel) hm0)
    (within_trans (by decide +kernel) hw0)) (within_trans (by decide +kernel) hm0) (within_trans (by decide +kernel) hw0)

theorem State.commandReady_keeps {mP wF : Nat} {r0 : State} (s : State) (hk : Keeps mP wF r0 s) (hm0 : within 0x2000831 mP) (hw0 : within 0xc1f000000000008000020000000000000000000000000000000000000000000000000000000000000000000000000000000000000000000000 wF) : Keeps mP wF r0 (State.commandReady s) := by
  unfold State.commandReady; try dsimp only
  with_reducible
    repeat' first
      | assumption | exact within_trans (by decide +kernel) hm0 | exact within_trans (by decide +kernel) hw0
      | apply State.put_keeps | apply State.logSec_keeps | apply Keeps.ite | split | dsimp only | apply within_ite

theorem execStartupPhase_keeps {mP wF : Nat} {r0 : State} (r : StartupReport) (s : State) (hk : Keeps mP wF r0 s)
    (hm0 : within 0x7b19ebf mP) (hw0 : within Fld.maskAll wF) : Keeps.Res mP wF r0 (execStartupPhase r s) := by
  have hz : Keeps mP wF r0 ({ s with mem := { h0 := [], h1 := [] }, poison := { h0 := [], h1 := [] } } : State) :=
    ⟨fun _ => rfl, hk.fit, hk.pending, fun p hp => Part.same_trans (hk.part p hp) (by
      cases p <;> first
        | exact rfl
        | exact absurd (hp.symm.trans (within_bit hm0 (by decide +kernel))) Bool.false_ne_true), hk.reg⟩
  unfold execStartupPhase
  dsimp only
  repeat' first
    | intro _
    | with_reducible assumption
    | with_reducible exact within_trans (by decide +kernel) hm0
    | with_reducible exact within_trans (by decide +kernel) hw0
    | with_reducible apply State.put_keeps
    | with_reducible apply State.commandReady_keeps
    | with_reducible apply State.train_keeps
    | with_reducible apply State.startStop_keeps
    | with_reducible apply State.startDone_keeps
    | with_reducible apply Keeps.next
    | with_reducible apply Keeps.foldl
    | with_reducible apply Keeps.ite
    | split

end Sys2Proof.Machine
end

