-- ==== Sys2Proof/Laws/KeepsPower.lean ====
section
/-! SUPPORT. The operations of Machine/Power.lean keep the memory form, the field widths and the queue. -/

set_option Elab.async false
namespace Sys2Proof.Machine

theorem tsTemp_within {wF : Nat} (u : Nat) (hw0 : within 0x8200000000000000000000000000000000000000000000000000000000000000000000000000000000000000000000000000000000 wF) : within (tsTemp u).mask wF := by
  unfold tsTemp
  exact within_ite (within_trans (by decide +kernel) hw0) (within_trans (by decide +kernel) hw0)

theorem tsValid_within {wF : Nat} (u : Nat) (hw0 : within 0x10400000000000000000000000000000000000000000000000000000000000000000000000000000000000000000000000000000000 wF) : within (tsValid u).mask wF := by
  unfold tsValid
  exact within_ite (within_trans (by decide +kernel) hw0) (within_trans (by decide +kernel) hw0)

theorem tsMax_within {wF : Nat} (u : Nat) (hw0 : within 0x20800000000000000000000000000000000000000000000000000000000000000000000000000000000000000000000000000000000 wF) : within (tsMax u).mask wF := by
  unfold tsMax
  exact within_ite (within_trans (by decide +kernel) hw0) (within_trans (by decide +kernel) hw0)

theorem State.putRail_keeps {mP wF : Nat} {r0 : State} (s : State) (f : Fld) (v : Nat) (hk : Keeps mP wF r0 s) (hf : within f.mask wF) (hm0 : within 0x1 mP) : Keeps mP wF r0 (State.putRail s f v) := by
  unfold State.putRail; try dsimp only
  with_reducible
    repeat' first
      | assumption | exact within_trans (by decide +kernel) hm0 | apply State.put_keeps

theorem State.pfLive_keeps {mP wF : Nat} {r0 : State} (s : State) (hk : Keeps mP wF r0 s) (hm0 : within 0x201941f mP) (hw0 : within 0x8400000000000000000000000000000000000000000000000000000000000000000100000000000000000000000000000000000000000 wF) : Keeps mP wF r0 (State.pfLive s) := by
  unfold State.pfLive; try dsimp only
  with_reducible
    repeat' first
      | intro _ | assumption | exact within_trans (by decide +kernel) hm0 | exact within_trans (by decide +kernel) hw0
      | apply State.updCp_keeps | apply State.finish_keeps | apply State.setRuns_keeps | apply Keeps.ite | split
      | dsimp only | apply within_ite

theorem State.pfAssert_keeps {mP wF : Nat} {r0 : State} (s : State) (hk : Keeps mP wF r0 s) (hm0 : within 0x3019c3f mP) (hw0 : within 0xc1f008400000001800020000000000000000000000000000000000000000000000000000100000000000000000000000000000000000000000 wF) : Keeps mP wF r0 (State.pfAssert s) := by
  unfold State.pfAssert; try dsimp only
  with_reducible
    repeat' first
      | exact Eq.refl _ | intro _ | assumption | exact within_trans (by decide +kernel) hm0
      | exact within_trans (by decide +kernel) hw0 | apply State.logSec_keeps | apply State.updPow_keeps
      | apply State.putRail_keeps | apply State.pfLive_keeps | apply Keeps.ite | split | dsimp only | apply within_ite

theorem execPwrfailAssert_keeps {mP wF : Nat} {r0 : State} (s : State) (hk : Keeps mP wF r0 s) (hm0 : within 0x3019c3f mP) (hw0 : within 0xc1f008400000001800020000000000000000000000000000000000000000000000000000100000000000000000000000000000000000000000 wF) : Keeps.Res mP wF r0 (execPwrfailAssert s) := by
  unfold execPwrfailAssert; try dsimp only
  with_reducible
    repeat' first
      | assumption | exact within_trans (by decide +kernel) hm0 | exact within_trans (by decide +kernel) hw0
      | apply State.pfAssert_keeps | apply Keeps.next

theorem execPwrfailDeassert_keeps {mP wF : Nat} {r0 : State} (s : State) (hk : Keeps mP wF r0 s) (hm0 : within 0x2000831 mP) (hw0 : within 0xc1f000000000001800020000000000000000000000000000000000000000000000000000000000000000000000000000000000000000000000 wF) : Keeps.Res mP wF r0 (execPwrfailDeassert s) := by
  unfold execPwrfailDeassert; try dsimp only
  with_reducible
    repeat' first
      | assumption | exact within_trans (by decide +kernel) hm0 | exact within_trans (by decide +kernel) hw0
      | apply State.logSec_keeps | apply State.putRail_keeps | apply Keeps.next | apply Keeps.ite | apply Keeps.iteFst
      | split | dsimp only | apply within_ite

theorem execPfSafe_keeps {mP wF : Nat} {r0 : State} (s : State) (hk : Keeps mP wF r0 s) (hm0 : within 0x7ffffff mP) (hw0 : within Fld.maskAll wF) : Keeps.Res mP wF r0 (execPfSafe s) := by
  unfold execPfSafe; try dsimp only
  with_reducible
    repeat' first
      | assumption | exact within_trans (by decide +kernel) hm0 | exact within_trans (by decide +kernel) hw0
      | apply State.pkr_keeps | apply State.putRail_keeps | apply Keeps.next | apply Keeps.ite | apply Keeps.iteFst
      | split | dsimp only | apply within_ite | exact within_trans (Fld.within_all _) hw0

theorem State.railBit_keeps {mP wF : Nat} {r0 : State} (s : State) (r : Rail) (b : Bool) (hk : Keeps mP wF r0 s)
    (hm0 : within 0x1 mP) (hw0 : within 0x700000000000000000000000000000000000000000000000000000000000000000000000000000000000000000000000000 wF) : Keeps mP wF r0 (s.railBit r b) := by
  unfold State.railBit
  cases r <;> dsimp only <;> first
    | exact hk
    | exact State.putRail_keeps _ _ _ hk (within_trans (by decide +kernel) hw0) hm0

theorem State.railLost_keeps {mP wF : Nat} {r0 : State} (s : State) (r : Rail) (hk : Keeps mP wF r0 s) (hm0 : within 0x7ffffff mP) (hw0 : within Fld.maskAll wF) : Keeps mP wF r0 (State.railLost s r) := by
  unfold State.railLost; try dsimp only
  with_reducible
    repeat' first
      | exact Eq.refl _ | intro _ | assumption | exact within_trans (by decide +kernel) hm0
      | exact within_trans (by decide +kernel) hw0 | apply State.halfLoss_keeps | apply State.dieLoss_keeps
      | apply State.updPow_keeps | apply State.por_keeps | apply State.pkr_keeps | apply State.dieReset_keeps | split
      | dsimp only | exact within_trans (Fld.within_all _) hw0

theorem execRailMonitor_keeps {mP wF : Nat} {r0 : State} (rail : Rail) (inRange : Bool) (mv : BitVec 16) (s : State) (hk : Keeps mP wF r0 s) (hm0 : within 0x7ffffff mP) (hw0 : within Fld.maskAll wF) : Keeps.Res mP wF r0 (execRailMonitor rail inRange mv s) := by
  unfold execRailMonitor; try dsimp only
  with_reducible
    repeat' first
      | exact Eq.refl _ | intro _ | assumption | exact within_trans (by decide +kernel) hm0
      | exact within_trans (by decide +kernel) hw0 | apply State.logSec_keeps | apply State.updPow_keeps
      | apply State.railBit_keeps | apply State.railLost_keeps | apply Keeps.next | apply Keeps.ite
      | apply Keeps.iteFst | split | dsimp only | apply within_ite | exact within_trans (Fld.within_all _) hw0

theorem State.tsRead_keeps {mP wF : Nat} {r0 : State} (s : State) (u : Nat) (i : Nat) (v : Nat) (hk : Keeps mP wF r0 s) (hm0 : within 0x3000831 mP) (hw0 : within 0xc1f000038e00000000020000000000000000000000000000000000000000000000000000000000000000000000000000000000000000000000 wF) : Keeps mP wF r0 (State.tsRead s u i v) := by
  unfold State.tsRead; try dsimp only
  with_reducible
    repeat' first
      | exact Eq.refl _ | intro _ | assumption | exact within_trans (by decide +kernel) hm0
      | exact within_trans (by decide +kernel) hw0 | apply State.put_keeps | apply State.setFlag_keeps
      | apply State.logSec_keeps | apply State.updPow_keeps | apply Keeps.ite | split | dsimp only | apply within_ite
      | apply tsTemp_within | apply tsValid_within | apply tsMax_within

theorem State.pkgTemps_keeps {mP wF : Nat} {r0 : State} (s : State) (hk : Keeps mP wF r0 s) (hm0 : within 0x1 mP) (hw0 : within 0x60000000000000000000000000000000000000000000000000000000000000000000000000000000000000000000000000000 wF) : Keeps mP wF r0 (State.pkgTemps s) := by
  unfold State.pkgTemps; try dsimp only
  with_reducible
    repeat' first
      | intro _ | assumption | exact within_trans (by decide +kernel) hm0 | exact within_trans (by decide +kernel) hw0
      | apply State.put_keeps | apply Keeps.ite | split | dsimp only | apply within_ite | apply tsTemp_within
      | apply tsValid_within

theorem State.trip_keeps {mP wF : Nat} {r0 : State} (s : State) (u : Nat) (i : Nat) (v : Nat) (hk : Keeps mP wF r0 s) (hm0 : within 0x3219c3f mP) (hw0 : within Fld.maskAll wF) : Keeps mP wF r0 (State.trip s u i v) := by
  unfold State.trip; try dsimp only
  with_reducible
    repeat' first
      | exact Eq.refl _ | intro _ | assumption | exact within_trans (by decide +kernel) hm0
      | exact within_trans (by decide +kernel) hw0 | apply State.put_keeps | apply State.emit_keeps
      | apply State.updDie_keeps | apply State.logSec_keeps | apply State.updPow_keeps | apply State.dieReset_keeps
      | apply State.putRail_keeps | apply State.pfAssert_keeps | apply Keeps.foldl | apply Keeps.foldlFst
      | apply Keeps.ite | split | dsimp only | apply within_ite | exact within_trans (Fld.within_all _) hw0

theorem execThermalSample_keeps {mP wF : Nat} {r0 : State} (u : Fin 14) (temps : List Byte) (s : State) (hk : Keeps mP wF r0 s) (hm0 : within 0x3219c3f mP) (hw0 : within Fld.maskAll wF) : Keeps.Res mP wF r0 (execThermalSample u temps s) := by
  unfold execThermalSample; try dsimp only
  with_reducible
    repeat' first
      | intro _ | assumption | exact within_trans (by decide +kernel) hm0 | exact within_trans (by decide +kernel) hw0
      | apply State.tsRead_keeps | apply State.pkgTemps_keeps | apply State.trip_keeps | apply Keeps.next
      | apply Keeps.foldl | apply Keeps.foldlFst | apply Keeps.ite | apply Keeps.iteFst | split | dsimp only
      | apply within_ite | exact within_trans (Fld.within_all _) hw0

theorem State.dropRefused_keeps {mP wF : Nat} {r0 : State} (s : State) (k : Nat) (i : Nat) (c : Nat) (hk : Keeps mP wF r0 s) (hm0 : within 0x3000831 mP) (hw0 : within 0xc1f000000005000000020000000000000000000000000000000000000000000000000000000000000000000000000000000000000000000000 wF) : Keeps mP wF r0 (State.dropRefused s k i c) := by
  unfold State.dropRefused; try dsimp only
  with_reducible
    repeat' first
      | exact Eq.refl _ | intro _ | assumption | exact within_trans (by decide +kernel) hm0
      | exact within_trans (by decide +kernel) hw0 | apply State.put_keeps | apply State.bump_keeps
      | apply State.logSec_keeps | apply State.updPow_keeps | apply Keeps.ite | split | dsimp only | apply within_ite

theorem execVoteDrop_keeps {mP wF : Nat} {r0 : State} (dom : Domain) (s : State) (hk : Keeps mP wF r0 s) (hm0 : within 0x3000831 mP) (hw0 : within 0xc1f000000005300000020000000000000000000000000000000000000000000000000000000000000000000000000000000000000000000000 wF) : Keeps.Res mP wF r0 (execVoteDrop dom s) := by
  unfold execVoteDrop; try dsimp only
  with_reducible
    repeat' first
      | assumption | exact within_trans (by decide +kernel) hm0 | exact within_trans (by decide +kernel) hw0
      | apply State.put_keeps | apply State.dropRefused_keeps | apply Keeps.next | apply Keeps.ite
      | apply Keeps.iteFst | split | dsimp only | apply within_ite

theorem State.drainClean_keeps {mP wF : Nat} {r0 : State} (s : State) (k : Nat) (i : Nat) (hk : Keeps mP wF r0 s) (hm0 : within 0x1940f mP) (hw0 : within 0x8400000000000000000000000000000000000000000000000000000000000000000100000000000000000000000000000000000000000 wF) : Keeps mP wF r0 (State.drainClean s k i) := by
  unfold State.drainClean; try dsimp only
  with_reducible
    repeat' first
      | assumption | exact within_trans (by decide +kernel) hm0 | exact within_trans (by decide +kernel) hw0
      | apply State.cleanCore_keeps | apply Keeps.ite | split | dsimp only | apply within_ite

theorem State.coreOff_keeps {mP wF : Nat} {r0 : State} (s : State) (g : Nat) (hk : Keeps mP wF r0 s) (hm0 : within 0x400 mP) : Keeps mP wF r0 (State.coreOff s g) := by
  unfold State.coreOff; try dsimp only
  with_reducible
    repeat' first
      | intro _ | assumption | exact within_trans (by decide +kernel) hm0 | apply State.updCore_keeps
      | refine Keeps.record ?_ rfl (fun p hp => by cases p <;> first | exact absurd (hp.symm.trans (within_bit hm0 (by decide +kernel))) Bool.false_ne_true | with_unfolding_all exact rfl)
      | dsimp only

theorem State.enterP1_keeps {mP wF : Nat} {r0 : State} (s : State) (i : Nat) (hk : Keeps mP wF r0 s) (hm0 : within 0x2000831 mP) (hw0 : within 0xc1f000000000084000020000000000000000000000000000000000000000000000000000000000000000000000000000000000000000000000 wF) : Keeps mP wF r0 (State.enterP1 s i) := by
  unfold State.enterP1; try dsimp only
  with_reducible
    repeat' first
      | intro _ | assumption | exact within_trans (by decide +kernel) hm0 | exact within_trans (by decide +kernel) hw0
      | apply State.put_keeps | apply State.bump_keeps | apply State.logSec_keeps | apply State.dramCmd_keeps
      | apply Keeps.foldl | apply Keeps.foldlFst | apply Keeps.ite | split | dsimp only | apply within_ite

theorem State.leaveP1_keeps {mP wF : Nat} {r0 : State} (s : State) (cause : Nat) (hk : Keeps mP wF r0 s) (hm0 : within 0x2000831 mP) (hw0 : within 0xc1f000000000004000020000000000000000000000000000000000000000000000000000000000000000000000000000000000000000000000 wF) : Keeps mP wF r0 (State.leaveP1 s cause) := by
  unfold State.leaveP1; try dsimp only
  with_reducible
    repeat' first
      | intro _ | assumption | exact within_trans (by decide +kernel) hm0 | exact within_trans (by decide +kernel) hw0
      | apply State.put_keeps | apply State.logSec_keeps | apply State.dramCmd_keeps | apply Keeps.foldl
      | apply Keeps.foldlFst | apply Keeps.ite | split | dsimp only | apply within_ite

theorem State.closeDomain_keeps {mP wF : Nat} {r0 : State} (s : State) (k : Nat) (i : Nat) (hk : Keeps mP wF r0 s) (hm0 : within 0x2311c31 mP) (hw0 : within 0xc1f00000000008400002000000000000000000000000000010000801fc00230000000000002000000000000000000000000000000000000000 wF) : Keeps mP wF r0 (State.closeDomain s k i) := by
  unfold State.closeDomain; try dsimp only
  with_reducible
    repeat' first
      | intro _ | assumption | exact within_trans (by decide +kernel) hm0 | exact within_trans (by decide +kernel) hw0
      | apply State.put_keeps | apply State.updDie_keeps | apply State.updDirs_keeps | apply State.dramCmd_keeps
      | apply State.setModState_keeps | apply State.linkDown_keeps | apply State.coreOff_keeps
      | apply State.enterP1_keeps | apply Keeps.foldl | apply Keeps.foldlFst | apply Keeps.ite | split | dsimp only
      | apply within_ite

theorem State.sluiceNext_keeps {mP wF : Nat} {r0 : State} (s : State) (k : Nat) (i : Nat) (hk : Keeps mP wF r0 s) (hm0 : within 0x3319c3f mP) (hw0 : within 0xc1f00840000a28400002000000000000000000000000000010000801fc00230000000000102000000000000000000000000000000000000000 wF) : Keeps mP wF r0 (State.sluiceNext s k i) := by
  unfold State.sluiceNext; try dsimp only
  with_reducible
    repeat' first
      | exact Eq.refl _ | intro _ | assumption | exact within_trans (by decide +kernel) hm0
      | exact within_trans (by decide +kernel) hw0 | apply State.put_keeps | apply State.bump_keeps
      | apply State.updPow_keeps | apply State.drainClean_keeps | apply State.closeDomain_keeps | apply Keeps.ite
      | split | dsimp only | apply within_ite

theorem execSluiceDrained_keeps {mP wF : Nat} {r0 : State} (dom : Domain) (s : State) (hk : Keeps mP wF r0 s) (hm0 : within 0x3319c3f mP) (hw0 : within 0xc1f00840000a28400002000000000000000000000000000010000801fc00230000000000102000000000000000000000000000000000000000 wF) : Keeps.Res mP wF r0 (execSluiceDrained dom s) := by
  unfold execSluiceDrained; try dsimp only
  with_reducible
    repeat' first
      | assumption | exact within_trans (by decide +kernel) hm0 | exact within_trans (by decide +kernel) hw0
      | apply State.sluiceNext_keeps | apply Keeps.next | apply Keeps.ite | apply Keeps.iteFst | split | dsimp only
      | apply within_ite

theorem State.openDomainUp_keeps {mP wF : Nat} {r0 : State} (s : State) (k : Nat) (i : Nat) (cause : Nat) (hk : Keeps mP wF r0 s) (hm0 : within 0x2200c31 mP) (hw0 : within 0xc1f000000000004000020000000000000000000000000000100008000000000000000000000000000000000000000000000000000000000000 wF) : Keeps mP wF r0 (State.openDomainUp s k i cause) := by
  unfold State.openDomainUp; try dsimp only
  with_reducible
    repeat' first
      | intro _ | assumption | exact within_trans (by decide +kernel) hm0 | exact within_trans (by decide +kernel) hw0
      | apply State.updCore_keeps | apply State.dramCmd_keeps | apply State.setModState_keeps
      | apply State.leaveP1_keeps | apply Keeps.ite | split
      | refine Keeps.record ?_ rfl (fun p hp => by cases p <;> first | exact absurd (hp.symm.trans (within_bit hm0 (by decide +kernel))) Bool.false_ne_true | with_unfolding_all exact rfl)
      | dsimp only | apply within_ite

theorem State.wakeDomain_keeps {mP wF : Nat} {r0 : State} (s : State) (k : Nat) (i : Nat) (hk : Keeps mP wF r0 s) (hm0 : within 0x2200c31 mP) (hw0 : within 0xc1f000000002204000020000000000000000000000000000100008000000000000000000000000000000000000000000000000000000000000 wF) : Keeps mP wF r0 (State.wakeDomain s k i) := by
  unfold State.wakeDomain; try dsimp only
  with_reducible
    repeat' first
      | assumption | exact within_trans (by decide +kernel) hm0 | exact within_trans (by decide +kernel) hw0
      | apply State.put_keeps | apply State.bump_keeps | apply State.openDomainUp_keeps | apply Keeps.ite | split
      | dsimp only | apply within_ite

theorem execSluiceWake_keeps {mP wF : Nat} {r0 : State} (dom : Domain) (s : State) (hk : Keeps mP wF r0 s) (hm0 : within 0x2200c31 mP) (hw0 : within 0xc1f000000002204000020000000000000000000000000000100008000000000000000000000000000000000000000000000000000000000000 wF) : Keeps.Res mP wF r0 (execSluiceWake dom s) := by
  unfold execSluiceWake; try dsimp only
  with_reducible
    repeat' first
      | assumption | exact within_trans (by decide +kernel) hm0 | exact within_trans (by decide +kernel) hw0
      | apply State.wakeDomain_keeps | apply Keeps.next | apply Keeps.ite | apply Keeps.iteFst | split | dsimp only
      | apply within_ite

theorem execC2IdleExpired_keeps {mP wF : Nat} {r0 : State} (g : GCore) (s : State) (hk : Keeps mP wF r0 s) (hm0 : within 0x400 mP) : Keeps.Res mP wF r0 (execC2IdleExpired g s) := by
  unfold execC2IdleExpired; try dsimp only
  with_reducible
    repeat' first
      | intro _ | assumption | exact within_trans (by decide +kernel) hm0 | apply State.updCore_keeps
      | apply Keeps.next | apply Keeps.ite | apply Keeps.iteFst | split
      | refine Keeps.record ?_ rfl (fun p hp => by cases p <;> first | exact absurd (hp.symm.trans (within_bit hm0 (by decide +kernel))) Bool.false_ne_true | with_unfolding_all exact rfl)
      | dsimp only

theorem execPowerVote_keeps {mP wF : Nat} {r0 : State} (c : Cmd) (s : State) (hk : Keeps mP wF r0 s) (hm0 : within 0x2219c3f mP) (hw0 : within 0xc1f008400002304000020000000000000000000000000000100008000000000000000000100000000000000000000400000000000000000000 wF) : Keeps.Res mP wF r0 (execPowerVote c s) := by
  unfold execPowerVote; try dsimp only
  with_reducible
    repeat' first
      | intro _ | assumption | exact within_trans (by decide +kernel) hm0 | exact within_trans (by decide +kernel) hw0
      | apply State.setVote_keeps | apply State.silence_keeps | apply runCmd_keeps | apply State.wakeDomain_keeps
      | apply Keeps.next | apply Keeps.ite | apply Keeps.iteFst | split | dsimp only | apply within_ite

theorem execAvsStep_keeps {mP wF : Nat} {r0 : State} (d : Die) (s : State) (hk : Keeps mP wF r0 s) (hm0 : within 0x1000001 mP) (hw0 : within 0x6000000000000000000000000000000000000000000000000000000000000000000000000000000000000000000000000000000000 wF) : Keeps.Res mP wF r0 (execAvsStep d s) := by
  unfold execAvsStep; try dsimp only
  with_reducible
    repeat' first
      | exact Eq.refl _ | intro _ | assumption | exact within_trans (by decide +kernel) hm0
      | exact within_trans (by decide +kernel) hw0 | apply State.put_keeps | apply State.updPow_keeps
      | apply Keeps.next | apply Keeps.ite | apply Keeps.iteFst | split | dsimp only | apply within_ite

theorem execRefclkFail_keeps {mP wF : Nat} {r0 : State} (h : Half) (i : Fin 2) (s : State) (hk : Keeps mP wF r0 s) (hm0 : within 0x2000831 mP) (hw0 : within 0xc1f0000000000000000200000000000000000000000000000000000000000000000000000000000000000000000000000000007c0000000000 wF) : Keeps.Res mP wF r0 (execRefclkFail h i s) := by
  unfold execRefclkFail; try dsimp only
  with_reducible
    repeat' first
      | assumption | exact within_trans (by decide +kernel) hm0 | exact within_trans (by decide +kernel) hw0
      | apply State.refLose_keeps | apply Keeps.next

theorem execRefclkBothFail_keeps {mP wF : Nat} {r0 : State} (h : Half) (s : State) (hk : Keeps mP wF r0 s) (hm0 : within 0x7ffffff mP) (hw0 : within Fld.maskAll wF) : Keeps.Res mP wF r0 (execRefclkBothFail h s) := by
  unfold execRefclkBothFail; try dsimp only
  with_reducible
    repeat' first
      | exact Eq.refl _ | intro _ | assumption | exact within_trans (by decide +kernel) hm0
      | exact within_trans (by decide +kernel) hw0 | apply State.put_keeps | apply State.drawn_keeps
      | apply State.halfLoss_keeps | apply State.updPow_keeps | apply State.pkr_keeps | apply Keeps.next
      | apply Keeps.ite | apply Keeps.iteFst | split | dsimp only | apply within_ite | apply goodFld_within
      | exact within_trans (Fld.within_all _) hw0

theorem execRefclkRecover_keeps {mP wF : Nat} {r0 : State} (h : Half) (i : Fin 2) (s : State) (hk : Keeps mP wF r0 s) (hm0 : within 0x1000001 mP) (hw0 : within 0x1000000000003c0000000000 wF) : Keeps.Res mP wF r0 (execRefclkRecover h i s) := by
  unfold execRefclkRecover; try dsimp only
  with_reducible
    repeat' first
      | exact Eq.refl _ | intro _ | assumption | exact within_trans (by decide +kernel) hm0
      | exact within_trans (by decide +kernel) hw0 | apply State.put_keeps | apply State.setFlag_keeps
      | apply State.updPow_keeps | apply Keeps.next | apply Keeps.ite | apply Keeps.iteFst | split | dsimp only
      | apply within_ite | apply goodFld_within | apply selFld_within

end Sys2Proof.Machine
end

