-- ==== Sys2Proof/Laws/KeepsQueries.lean ====
section
/-! SUPPORT. The operations of Machine/Queries.lean keep the memory form, the field widths and the queue. -/

set_option Elab.async false
namespace Sys2Proof.Machine

theorem State.hidden_keeps {mP wF : Nat} {r0 : State} (s : State) (c : Cmd) (hk : Keeps mP wF r0 s) (hm0 : within 0x2000831 mP) (hw0 : within 0xc1f000000000000000020000000000000000000000000000000000000000000000000000000000000000000000000400000000000000000000 wF) : Keeps mP wF r0 (State.hidden s c).1 := by
  unfold State.hidden; try dsimp only
  with_reducible
    repeat' first
      | assumption | exact within_trans (by decide +kernel) hm0 | exact within_trans (by decide +kernel) hw0
      | apply State.silence_keeps

theorem State.absent_keeps {mP wF : Nat} {r0 : State} (s : State) (hk : Keeps mP wF r0 s) : Keeps mP wF r0 (State.absent s).1 := by
  unfold State.absent; try dsimp only
  with_reducible
    repeat' first
      | assumption

theorem State.inHalf_keeps {mP wF : Nat} {r0 : State} (s : State) (h : Nat) (w : Nat) (hk : Keeps mP wF r0 s) : Keeps mP wF r0 (State.inHalf s h w).1 := by
  unfold State.inHalf; try dsimp only
  with_reducible
    repeat' first
      | assumption | apply Keeps.ite | apply Keeps.iteFst | split | dsimp only

theorem State.secureStatus_keeps {mP wF : Nat} {r0 : State} (s : State) (k : Nat) (o : Nat) (hk : Keeps mP wF r0 s) : Keeps mP wF r0 (State.secureStatus s k o).1 := by
  unfold State.secureStatus; try dsimp only
  with_reducible
    repeat' first
      | assumption | apply State.absent_keeps | apply State.inHalf_keeps | apply Keeps.ite | apply Keeps.iteFst
      | refine Keeps.fst ?_ (by assumption) | split | dsimp only

theorem State.statusRead_keeps {mP wF : Nat} {r0 : State} (s : State) (c : Cmd) (hk : Keeps mP wF r0 s) (hm0 : within 0x2000831 mP) (hw0 : within 0xc1f000000000000000020000000000000000000000000000000000000000000000000000000000000000000000000400000000000000000000 wF) : Keeps mP wF r0 (State.statusRead s c).1 := by
  unfold State.statusRead; try dsimp only
  with_reducible
    repeat' first
      | assumption | exact within_trans (by decide +kernel) hm0 | exact within_trans (by decide +kernel) hw0
      | apply State.hidden_keeps | apply State.absent_keeps | apply State.inHalf_keeps
      | apply State.secureStatus_keeps | apply Keeps.ite | apply Keeps.iteFst | refine Keeps.fst ?_ (by assumption)
      | split | dsimp only | apply within_ite

theorem execStatusRead_keeps {mP wF : Nat} {r0 : State} (c : Cmd) (s : State) (hk : Keeps mP wF r0 s) (hm0 : within 0x2019c3f mP) (hw0 : within 0xc1f008400000000000020000000000000000000000000000000000000000000000000000100000000000000000000400000000000000000000 wF) : Keeps.Res mP wF r0 (execStatusRead c s) := by
  unfold execStatusRead; try dsimp only
  with_reducible
    repeat' first
      | intro _ | assumption | exact within_trans (by decide +kernel) hm0 | exact within_trans (by decide +kernel) hw0
      | apply runCmd_keeps | apply State.statusRead_keeps | apply Keeps.next | refine Keeps.fst ?_ (by assumption)
      | dsimp only

theorem State.structure_keeps {mP wF : Nat} {r0 : State} (s : State) (c : Cmd) (ws : List Nat) (hk : Keeps mP wF r0 s) : Keeps mP wF r0 (State.structure s c ws).1 := by
  unfold State.structure; try dsimp only
  with_reducible
    repeat' first
      | assumption | apply Keeps.ite | apply Keeps.iteFst | split | dsimp only

theorem State.identify_keeps {mP wF : Nat} {r0 : State} (s : State) (c : Cmd) (hk : Keeps mP wF r0 s) (hm0 : within 0x2000831 mP) (hw0 : within 0xc1f000000000000000020000000000000000000000000000000000000000000000000000000000000000000000000400000000000000000000 wF) : Keeps mP wF r0 (State.identify s c).1 := by
  unfold State.identify; try dsimp only
  with_reducible
    repeat' first
      | assumption | exact within_trans (by decide +kernel) hm0 | exact within_trans (by decide +kernel) hw0
      | apply State.hidden_keeps | apply State.absent_keeps | apply State.structure_keeps | apply Keeps.ite
      | apply Keeps.iteFst | refine Keeps.fst ?_ (by assumption) | split | dsimp only | apply within_ite

theorem execIdentify_keeps {mP wF : Nat} {r0 : State} (c : Cmd) (s : State) (hk : Keeps mP wF r0 s) (hm0 : within 0x2019c3f mP) (hw0 : within 0xc1f008400000000000020000000000000000000000000000000000000000000000000000100000000000000000000400000000000000000000 wF) : Keeps.Res mP wF r0 (execIdentify c s) := by
  unfold execIdentify; try dsimp only
  with_reducible
    repeat' first
      | intro _ | assumption | exact within_trans (by decide +kernel) hm0 | exact within_trans (by decide +kernel) hw0
      | apply runCmd_keeps | apply State.identify_keeps | apply Keeps.next | refine Keeps.fst ?_ (by assumption)
      | dsimp only

theorem State.getLog_keeps {mP wF : Nat} {r0 : State} (s : State) (c : Cmd) (hk : Keeps mP wF r0 s) (hm0 : within 0x4000000 mP) : Keeps mP wF r0 (State.getLog s c).1 := by
  unfold State.getLog; try dsimp only
  with_reducible
    repeat' first
      | assumption | exact within_trans (by decide +kernel) hm0 | apply Keeps.ite | apply Keeps.iteFst | split
      | refine Keeps.record ?_ rfl (fun p hp => by cases p <;> first | exact absurd (hp.symm.trans (within_bit hm0 (by decide +kernel))) Bool.false_ne_true | with_unfolding_all exact rfl)
      | dsimp only

theorem execGetLog_keeps {mP wF : Nat} {r0 : State} (c : Cmd) (s : State) (hk : Keeps mP wF r0 s) (hm0 : within 0x6019c3f mP) (hw0 : within 0xc1f008400000000000020000000000000000000000000000000000000000000000000000100000000000000000000400000000000000000000 wF) : Keeps.Res mP wF r0 (execGetLog c s) := by
  unfold execGetLog; try dsimp only
  with_reducible
    repeat' first
      | intro _ | assumption | exact within_trans (by decide +kernel) hm0 | exact within_trans (by decide +kernel) hw0
      | apply runCmd_keeps | apply State.getLog_keeps | apply Keeps.next | refine Keeps.fst ?_ (by assumption)
      | dsimp only

theorem State.polFeature_keeps {mP wF : Nat} {r0 : State} (s : State) (c : Cmd) (p : Nat) (f : Polder → Nat) (hk : Keeps mP wF r0 s) (hm0 : within 0x2000831 mP) (hw0 : within 0xc1f000000000000000020000000000000000000000000000000000000000000000000000000000000000000000000400000000000000000000 wF) : Keeps mP wF r0 (State.polFeature s c p f).1 := by
  unfold State.polFeature; try dsimp only
  with_reducible
    repeat' first
      | assumption | exact within_trans (by decide +kernel) hm0 | exact within_trans (by decide +kernel) hw0
      | apply State.hidden_keeps | apply State.absent_keeps | apply Keeps.ite | apply Keeps.iteFst
      | refine Keeps.fst ?_ (by assumption) | split | dsimp only | apply within_ite

theorem State.getFeature_keeps {mP wF : Nat} {r0 : State} (s : State) (c : Cmd) (hk : Keeps mP wF r0 s) (hm0 : within 0x6000831 mP) (hw0 : within 0xc1f000000000000000020000000000000000000000000000000000000000000000000000000000000000000000000400000000000000000000 wF) : Keeps mP wF r0 (State.getFeature s c).1 := by
  unfold State.getFeature; try dsimp only
  with_reducible
    repeat' first
      | intro _ | assumption | exact within_trans (by decide +kernel) hm0 | exact within_trans (by decide +kernel) hw0
      | apply State.drawn_keeps | apply State.trigSilent_keeps | apply State.hidden_keeps
      | apply State.polFeature_keeps | apply Keeps.ite | apply Keeps.iteFst | refine Keeps.fst ?_ (by assumption)
      | split | dsimp only | apply within_ite

theorem execGetFeature_keeps {mP wF : Nat} {r0 : State} (c : Cmd) (s : State) (hk : Keeps mP wF r0 s) (hm0 : within 0x6019c3f mP) (hw0 : within 0xc1f008400000000000020000000000000000000000000000000000000000000000000000100000000000000000000400000000000000000000 wF) : Keeps.Res mP wF r0 (execGetFeature c s) := by
  unfold execGetFeature; try dsimp only
  with_reducible
    repeat' first
      | intro _ | assumption | exact within_trans (by decide +kernel) hm0 | exact within_trans (by decide +kernel) hw0
      | apply runCmd_keeps | apply State.getFeature_keeps | apply Keeps.next | refine Keeps.fst ?_ (by assumption)
      | dsimp only

theorem State.setFeature_keeps {mP wF : Nat} {r0 : State} (s : State) (c : Cmd) (hk : Keeps mP wF r0 s) (hm0 : within 0x7ffffff mP) (hw0 : within Fld.maskAll wF) : Keeps mP wF r0 (State.setFeature s c).1 := by
  unfold State.setFeature; try dsimp only
  with_reducible
    repeat' first
      | assumption | exact within_trans (by decide +kernel) hm0 | exact within_trans (by decide +kernel) hw0
      | apply State.silence_keeps | apply State.rstDo_keeps | apply Keeps.ite | apply Keeps.iteFst
      | refine Keeps.fst ?_ (by assumption) | split | dsimp only | apply within_ite
      | exact within_trans (Fld.within_all _) hw0

theorem execSetFeature_keeps {mP wF : Nat} {r0 : State} (c : Cmd) (s : State) (hk : Keeps mP wF r0 s) (hm0 : within 0x7ffffff mP) (hw0 : within Fld.maskAll wF) : Keeps.Res mP wF r0 (execSetFeature c s) := by
  unfold execSetFeature; try dsimp only
  with_reducible
    repeat' first
      | intro _ | assumption | exact within_trans (by decide +kernel) hm0 | exact within_trans (by decide +kernel) hw0
      | apply runCmdLater_keeps | apply State.setFeature_keeps | apply Keeps.next
      | refine Keeps.fst ?_ (by assumption) | dsimp only | exact within_trans (Fld.within_all _) hw0

theorem execTickQuery_keeps {mP wF : Nat} {r0 : State} (c : Cmd) (s : State) (hk : Keeps mP wF r0 s) (hm0 : within 0x2019c3f mP) (hw0 : within 0xc1f008400000000000020000000000000000000000000000000000000000000000000000100000000000000000000400000000000000000000 wF) : Keeps.Res mP wF r0 (execTickQuery c s) := by
  unfold execTickQuery; try dsimp only
  with_reducible
    repeat' first
      | intro _ | assumption | exact within_trans (by decide +kernel) hm0 | exact within_trans (by decide +kernel) hw0
      | apply runCmd_keeps | apply State.absent_keeps | apply Keeps.next | apply Keeps.ite | apply Keeps.iteFst
      | refine Keeps.fst ?_ (by assumption) | split | dsimp only | apply within_ite

theorem execPtimeQuery_keeps {mP wF : Nat} {r0 : State} (c : Cmd) (s : State) (hk : Keeps mP wF r0 s) (hm0 : within 0x2019c3f mP) (hw0 : within 0xc1f008400000000000020000000000000000000000000000000000000000000000000000100000000000000000000400000000000000000000 wF) : Keeps.Res mP wF r0 (execPtimeQuery c s) := by
  unfold execPtimeQuery; try dsimp only
  with_reducible
    repeat' first
      | intro _ | assumption | exact within_trans (by decide +kernel) hm0 | exact within_trans (by decide +kernel) hw0
      | apply runCmd_keeps | apply Keeps.next | dsimp only

theorem execHeadPresence_keeps {mP wF : Nat} {r0 : State} (c : Cmd) (s : State) (hk : Keeps mP wF r0 s) (hm0 : within 0x2019c3f mP) (hw0 : within 0xc1f008400000000000020000000000000000000000000000000000000000000000000000100000000000000000000400000000000000000000 wF) : Keeps.Res mP wF r0 (execHeadPresence c s) := by
  unfold execHeadPresence; try dsimp only
  with_reducible
    repeat' first
      | intro _ | assumption | exact within_trans (by decide +kernel) hm0 | exact within_trans (by decide +kernel) hw0
      | apply runCmd_keeps | apply Keeps.next | dsimp only

end Sys2Proof.Machine
end

