-- ==== Sys2Proof/Laws/KeepsRegWrite.lean ====
section
/-! SUPPORT. The operations of Machine/RegWrite.lean keep the memory form, the field widths and the queue. -/

set_option Elab.async false
namespace Sys2Proof.Machine

theorem State.writeField_keeps {mP wF : Nat} {r0 : State} (s : State) (f : Fld) (i : Nat) (v : Nat) (hk : Keeps mP wF r0 s) (hf : within f.mask wF) (hm0 : within 0x1 mP) : Keeps mP wF r0 (State.writeField s f i v) := by
  unfold State.writeField; try dsimp only
  with_reducible
    repeat' first
      | assumption | exact within_trans (by decide +kernel) hm0 | apply State.put_keeps | apply Keeps.ite | split
      | dsimp only

theorem State.writeFields_keeps {mP wF : Nat} {r0 : State} (s : State) (r : Reg) (i : Nat) (v : Nat) (hk : Keeps mP wF r0 s) (hm0 : within 0x1 mP) (hw0 : within Fld.maskAll wF) : Keeps mP wF r0 (State.writeFields s r i v) := by
  unfold State.writeFields; try dsimp only
  with_reducible
    repeat' first
      | intro _ | assumption | exact within_trans (by decide +kernel) hm0 | exact within_trans (by decide +kernel) hw0
      | apply State.writeField_keeps | apply Keeps.foldl | apply Keeps.foldlFst | dsimp only
      | exact within_trans (Fld.within_all _) hw0

/-- The fields that a read clears. -/
def Fld.maskRc : Nat := 0x20f706000080404000000b08000003c0000000000000780000001c01f000f8007e00003c040fc0c0303600ff80f01c7c1000000400000000400000000000

theorem Fld.within_rc (f : Fld) (h : f.desc.ty = .rc) : within f.mask Fld.maskRc := by
  cases f <;> first
    | decide +kernel
    | exact absurd h (by decide)

theorem State.clearRc_keeps {mP wF : Nat} {r0 : State} (s : State) (r : Reg) (i : Nat) (hk : Keeps mP wF r0 s)
    (hm0 : within 0x1 mP) (hw0 : within Fld.maskRc wF) : Keeps mP wF r0 (s.clearRc r i) := by
  unfold State.clearRc
  refine Keeps.foldl hk fun s f hs => ?_
  split
  · next h => exact State.put_keeps _ _ _ _ hs hm0 (within_trans (f.within_rc h) hw0)
  · exact hs

theorem State.answer_keeps {mP wF : Nat} {r0 : State} (s : State) (v : Nat) (hk : Keeps mP wF r0 s) (hm0 : within 0x10 mP) : Keeps mP wF r0 (State.answer s v) := by
  unfold State.answer; try dsimp only
  with_reducible
    repeat' first
      | intro _ | assumption | exact within_trans (by decide +kernel) hm0 | apply State.updCp_keeps | dsimp only

theorem State.regRead_keeps {mP wF : Nat} {r0 : State} (s : State) (r : Reg) (i : Nat) (hk : Keeps mP wF r0 s) (hm0 : within 0x11 mP) (hw0 : within 0x20f706000284404000000b08000003c0000000000000780000001c01f000f8007e00003c040fc0c0303600ff80f01c7c1000000400000000400000000000 wF) : Keeps mP wF r0 (State.regRead s r i) := by
  unfold State.regRead; try dsimp only
  with_reducible
    repeat' first
      | assumption | exact within_trans (by decide +kernel) hm0 | exact within_trans (by decide +kernel) hw0
      | apply State.windowRead_keeps | apply State.clearRc_keeps | apply State.answer_keeps | split | dsimp only

theorem State.lkCtlWrite_keeps {mP wF : Nat} {r0 : State} (s : State) (r : Reg) (i : Nat) (l : LinkEnd) (v : Nat) (hk : Keeps mP wF r0 s) (hm0 : within 0x6690831 mP) (hw0 : within Fld.maskAll wF) : Keeps mP wF r0 (State.lkCtlWrite s r i l v) := by
  unfold State.lkCtlWrite; try dsimp only
  with_reducible
    repeat' first
      | assumption | exact within_trans (by decide +kernel) hm0 | exact within_trans (by decide +kernel) hw0
      | apply State.retrainWrite_keeps | apply State.writeFields_keeps | apply Keeps.ite | split
      | refine Keeps.record ?_ rfl (fun p hp => by cases p <;> first | exact absurd (hp.symm.trans (within_bit hm0 (by decide +kernel))) Bool.false_ne_true | with_unfolding_all exact rfl)
      | dsimp only | apply within_ite | exact within_trans (Fld.within_all _) hw0

theorem State.qrbCtlWrite_keeps {mP wF : Nat} {r0 : State} (s : State) (n : Nat) (v : Nat) (hk : Keeps mP wF r0 s) (hm0 : within 0x11 mP) (hw0 : within 0x3c000000000000 wF) : Keeps mP wF r0 (State.qrbCtlWrite s n v) := by
  unfold State.qrbCtlWrite; try dsimp only
  with_reducible
    repeat' first
      | assumption | exact within_trans (by decide +kernel) hm0 | exact within_trans (by decide +kernel) hw0
      | apply State.put_keeps | apply State.qrbStart_keeps | apply State.qrbStop_keeps | apply Keeps.ite | split
      | dsimp only | apply within_ite

theorem State.cqDoorbellIntx_keeps {mP wF : Nat} {r0 : State} (s : State) (n : Nat) (q : Nat) (v : Nat) (hk : Keeps mP wF r0 s) (hm0 : within 0x2000811 mP) (hw0 : within 0x1040000000000000 wF) : Keeps mP wF r0 (State.cqDoorbellIntx s n q v) := by
  unfold State.cqDoorbellIntx; try dsimp only
  with_reducible
    repeat' first
      | assumption | exact within_trans (by decide +kernel) hm0 | exact within_trans (by decide +kernel) hw0
      | apply State.cqDoorbell_keeps | apply State.intxUpdate_keeps | apply Keeps.ite | split | dsimp only
      | apply within_ite

theorem State.tkCtlWrite_keeps {mP wF : Nat} {r0 : State} (s : State) (p : Nat) (v : Nat) (hk : Keeps mP wF r0 s) (hm0 : within 0x2019ebf mP) (hw0 : within 0xc1f008400000000000020000000000000000000000000000000000000000000000000000100000008f2c000400000000000000000000000000 wF) : Keeps mP wF r0 (State.tkCtlWrite s p v) := by
  unfold State.tkCtlWrite; try dsimp only
  with_reducible
    repeat' first
      | assumption | exact within_trans (by decide +kernel) hm0 | exact within_trans (by decide +kernel) hw0
      | apply State.put_keeps | apply State.handOver_keeps | apply State.hostTick_keeps | apply State.tickResume_keeps
      | apply Keeps.ite | split | dsimp only | apply within_ite

theorem State.regWrite_keeps {mP wF : Nat} {r0 : State} (s : State) (r : Reg) (i : Nat) (v : Nat) (hk : Keeps mP wF r0 s) (hm0 : within 0x7ffffff mP) (hw0 : within Fld.maskAll wF) : Keeps mP wF r0 (State.regWrite s r i v) := by
  unfold State.regWrite; try dsimp only
  with_reducible
    repeat' first
      | assumption | exact within_trans (by decide +kernel) hm0 | exact within_trans (by decide +kernel) hw0
      | apply State.sqDoorbell_keeps | apply State.ptStep_keeps | apply State.ptPhase_keeps
      | apply State.encSwitch_keeps | apply State.l2CtlWrite_keeps | apply State.dcCtlWrite_keeps
      | apply State.dcMaintWrite_keeps | apply State.dikeAdmit_keeps | apply State.cutRel_keeps
      | apply State.cutRelAll_keeps | apply State.hpCfgWrite_keeps | apply State.csCommit_keeps
      | apply State.sqTail_keeps | apply State.rgnCommit_keeps | apply State.recCtlWrite_keeps
      | apply State.viewFreeze_keeps | apply State.cursorWrite_keeps | apply State.cbOwn_keeps
      | apply State.rstReq_keeps | apply State.writeFields_keeps | apply State.lkCtlWrite_keeps
      | apply State.qrbCtlWrite_keeps | apply State.cqDoorbellIntx_keeps | apply State.tkCtlWrite_keeps
      | apply Keeps.ite | split | dsimp only | apply within_ite | exact within_trans (Fld.within_all _) hw0

theorem State.ctlRead_keeps {mP wF : Nat} {r0 : State} (s : State) (a : Acc) (addr : Nat) (size : Nat) (hk : Keeps mP wF r0 s) (hm0 : within 0x6000831 mP) (hw0 : within 0x20f7060002c5f04000000b08000003c0000000000000780000001c01f000f8007e00003c040fc0c0303600ff80f01c7c1000000400000000400000000000 wF) : Keeps mP wF r0 (State.ctlRead s a addr size) := by
  unfold State.ctlRead; try dsimp only
  with_reducible
    repeat' first
      | intro _ | assumption | exact within_trans (by decide +kernel) hm0 | exact within_trans (by decide +kernel) hw0
      | apply State.emit_keeps | apply State.drawn_keeps | apply State.ctlGate_keeps | apply State.answer_keeps
      | apply State.regRead_keeps | apply Keeps.ite | split | dsimp only | apply within_ite

theorem State.ctlWrite_keeps {mP wF : Nat} {r0 : State} (s : State) (a : Acc) (addr : Nat) (size : Nat) (v : Nat) (hk : Keeps mP wF r0 s) (hm0 : within 0x7ffffff mP) (hw0 : within Fld.maskAll wF) : Keeps mP wF r0 (State.ctlWrite s a addr size v) := by
  unfold State.ctlWrite; try dsimp only
  with_reducible
    repeat' first
      | intro _ | assumption | exact within_trans (by decide +kernel) hm0 | exact within_trans (by decide +kernel) hw0
      | apply State.emit_keeps | apply State.ctlGate_keeps | apply State.regWrite_keeps | apply Keeps.ite | split
      | dsimp only | apply within_ite | exact within_trans (Fld.within_all _) hw0

theorem execRegisterWrite_keeps {mP wF : Nat} {r0 : State} (a : Acc) (write : Bool) (addr : BitVec 52) (size : Fin 4) (v : Word) (s : State) (hk : Keeps mP wF r0 s) (hm0 : within 0x7ffffff mP) (hw0 : within Fld.maskAll wF) : Keeps.Res mP wF r0 (execRegisterWrite a write addr size v s) := by
  unfold execRegisterWrite; try dsimp only
  with_reducible
    repeat' first
      | assumption | exact within_trans (by decide +kernel) hm0 | exact within_trans (by decide +kernel) hw0
      | apply State.ctlRead_keeps | apply State.ctlWrite_keeps | apply Keeps.next | apply Keeps.ite
      | apply Keeps.iteFst | split | dsimp only | apply within_ite | exact within_trans (Fld.within_all _) hw0

end Sys2Proof.Machine
end

