-- ==== Sys2Proof/Laws/KeepsAccess.lean ====
section
/-! SUPPORT. The operations of Machine/Access.lean keep the memory form, the field widths and the queue. -/

set_option Elab.async false
namespace Sys2Proof.Machine

theorem State.devWrite_keeps {mP wF : Nat} {r0 : State} (s : State) (a : Acc) (pa : Nat) (size : Nat) (v : Nat) (hk : Keeps mP wF r0 s) (hm0 : within 0x7ffffff mP) (hw0 : within Fld.maskAll wF) : Keeps mP wF r0 (State.devWrite s a pa size v) := by
  unfold State.devWrite; try dsimp only
  with_reducible
    repeat' first
      | assumption | exact within_trans (by decide +kernel) hm0 | exact within_trans (by decide +kernel) hw0
      | apply State.writeBytes_keeps | apply State.refuse_keeps | apply State.ctlWrite_keeps | apply Keeps.ite | split
      | dsimp only | apply within_ite | exact within_trans (Fld.within_all _) hw0

theorem State.misaligned_keeps {mP wF : Nat} {r0 : State} (s : State) (g : Nat) (size : Nat) (write : Bool) (va : Word) (hk : Keeps mP wF r0 s) (hm0 : within 0x400 mP) : Keeps mP wF r0 (State.misaligned s g size write va) := by
  unfold State.misaligned; try dsimp only
  with_reducible
    repeat' first
      | assumption | exact within_trans (by decide +kernel) hm0 | apply State.syncExc_keeps

theorem State.secondLine_keeps {mP wF : Nat} {r0 : State} (s : State) (g : Nat) (va : Nat) (pa : Nat) (n : Nat) (acc : AccKind) (hk : Keeps mP wF r0 s) (hm0 : within 0x6019c3f mP) (hw0 : within 0xc1f0084000000000000200000000000000000000000000000000000000000000040000201000598c0000000000000400000000000000000000 wF) : Keeps.Tr mP wF r0 (State.secondLine s g va pa n acc) := by
  unfold State.secondLine; try dsimp only
  with_reducible
    repeat' first
      | assumption | exact within_trans (by decide +kernel) hm0 | exact within_trans (by decide +kernel) hw0
      | apply State.translate_keeps | apply Keeps.trOk | apply Keeps.trExc | apply Keeps.trWait | apply Keeps.ite
      | apply Keeps.iteFst | refine Keeps.trGetOk ?_ (by assumption) | refine Keeps.trGetExc ?_ (by assumption)
      | refine Keeps.trGetWait ?_ (by assumption) | split | dsimp only | apply within_ite

theorem State.log60_keeps {mP wF : Nat} {r0 : State} (s : State) (g : Nat) (cache : Nat) (set : Nat) (way : Nat) (outcome : Nat) (hk : Keeps mP wF r0 s) (hm0 : within 0x2000831 mP) (hw0 : within 0xc1f000000000000000020000000000000000000000000000000000000000000000000000000000000000000000000000000000000000000000 wF) : Keeps mP wF r0 (State.log60 s g cache set way outcome) := by
  unfold State.log60; try dsimp only
  with_reducible
    repeat' first
      | assumption | exact within_trans (by decide +kernel) hm0 | exact within_trans (by decide +kernel) hw0
      | apply State.logDie_keeps

theorem State.l2Err_keeps {mP wF : Nat} {r0 : State} (s : State) (g : Nat) (way : Nat) (ue : Bool) (hk : Keeps mP wF r0 s) (hm0 : within 0x1 mP) (hw0 : within 0xe0000000000000000000000000000000000000000 wF) : Keeps mP wF r0 (State.l2Err s g way ue) := by
  unfold State.l2Err; try dsimp only
  with_reducible
    repeat' first
      | assumption | exact within_trans (by decide +kernel) hm0 | exact within_trans (by decide +kernel) hw0
      | apply State.put_keeps | apply State.bump_keeps | apply Keeps.ite | split | dsimp only | apply within_ite

theorem State.wayErr_keeps {mP wF : Nat} {r0 : State} (s : State) (d : Nat) (key : Nat) (window : Nat) (hk : Keeps mP wF r0 s) (hm0 : within 0x1000 mP) : Keeps mP wF r0 (State.wayErr s d key window) := by
  unfold State.wayErr; try dsimp only
  with_reducible
    repeat' first
      | intro _ | assumption | exact within_trans (by decide +kernel) hm0 | apply State.updDie_keeps | apply Keeps.ite
      | split | dsimp only

theorem State.l2DataErr_keeps {mP wF : Nat} {r0 : State} (s : State) (g : Nat) (la : Nat) (hk : Keeps mP wF r0 s) (hm0 : within 0x2019c3f mP) (hw0 : within 0xc1f0084000000000000200000000000000000000000000000000000000000000000000001e0041cc0000000000000000000000000000000000 wF) : Keeps.Err mP wF r0 (State.l2DataErr s g la) := by
  unfold State.l2DataErr; try dsimp only
  with_reducible
    repeat' first
      | intro _ | assumption | exact within_trans (by decide +kernel) hm0 | exact within_trans (by decide +kernel) hw0
      | apply State.put_keeps | apply State.setL2_keeps | apply State.dieEvict_keeps | apply State.l2Evict_keeps
      | apply State.abortTick_keeps | apply State.log60_keeps | apply State.l2Err_keeps | apply Keeps.errOn
      | apply Keeps.errEnd | apply Keeps.ite | apply Keeps.iteFst | split
      | refine Keeps.record ?_ rfl (fun p hp => by cases p <;> first | exact absurd (hp.symm.trans (within_bit hm0 (by decide +kernel))) Bool.false_ne_true | with_unfolding_all exact rfl)
      | dsimp only | apply within_ite

theorem State.l2TagErr_keeps {mP wF : Nat} {r0 : State} (s : State) (g : Nat) (la : Nat) (hk : Keeps mP wF r0 s) (hm0 : within 0x2019c3f mP) (hw0 : within 0xc1f0084000000000000200000000000000000000000000000000000000000000000000001e00418c0000000000000000000000000000000000 wF) : Keeps.Err mP wF r0 (State.l2TagErr s g la) := by
  unfold State.l2TagErr; try dsimp only
  with_reducible
    repeat' first
      | intro _ | assumption | exact within_trans (by decide +kernel) hm0 | exact within_trans (by decide +kernel) hw0
      | apply State.setL2_keeps | apply State.l2Drop_keeps | apply State.dieEvict_keeps | apply State.abortTick_keeps
      | apply State.log60_keeps | apply State.l2Err_keeps | apply Keeps.errOn | apply Keeps.errEnd | apply Keeps.foldl
      | apply Keeps.foldlFst | apply Keeps.ite | apply Keeps.iteFst | split
      | refine Keeps.record ?_ rfl (fun p hp => by cases p <;> first | exact absurd (hp.symm.trans (within_bit hm0 (by decide +kernel))) Bool.false_ne_true | with_unfolding_all exact rfl)
      | dsimp only | apply within_ite

theorem State.mbErr_keeps {mP wF : Nat} {r0 : State} (s : State) (g : Nat) (la : Nat) (pa : Nat) (load : Bool) (hk : Keeps mP wF r0 s) (hm0 : within 0x6099cbf mP) (hw0 : within 0xc1f008400000100000020000800000000000000000000000000000000000000000000000102043fc000000000000000000000001ffe0000000 wF) : Keeps.Err mP wF r0 (State.mbErr s g la pa load) := by
  unfold State.mbErr; try dsimp only
  with_reducible
    repeat' first
      | intro _ | assumption | exact within_trans (by decide +kernel) hm0 | exact within_trans (by decide +kernel) hw0
      | apply State.updCore_keeps | apply State.abortTick_keeps | apply State.fence_keeps
      | apply State.loadPoison_keeps | apply State.log60_keeps | apply Keeps.errOn | apply Keeps.errEnd
      | apply Keeps.ite | apply Keeps.iteFst | split | dsimp only | apply within_ite

theorem State.cacheErr_keeps {mP wF : Nat} {r0 : State} (s : State) (g : Nat) (la : Nat) (pa : Nat) (load : Bool) (fetch : Bool) (err : CacheErr) (hk : Keeps mP wF r0 s) (hm0 : within 0x6299cbf mP) (hw0 : within 0xc1f00840000010000002000080000000000000000000000010000800000000000020c0001e2043fc000000000000000000000001ffe0000000 wF) : Keeps.Err mP wF r0 (State.cacheErr s g la pa load fetch err) := by
  unfold State.cacheErr; try dsimp only
  with_reducible
    repeat' first
      | intro _ | assumption | exact within_trans (by decide +kernel) hm0 | exact within_trans (by decide +kernel) hw0
      | apply State.bump_keeps | apply State.updCore_keeps | apply State.setDc_keeps | apply State.dieLoss_keeps
      | apply State.log60_keeps | apply State.l2Err_keeps | apply State.wayErr_keeps | apply State.l2DataErr_keeps
      | apply State.l2TagErr_keeps | apply State.mbErr_keeps | apply Keeps.errOn | apply Keeps.errEnd
      | apply Keeps.ite | apply Keeps.iteFst | refine Keeps.errGetOn ?_ (by assumption)
      | refine Keeps.errGetEnd ?_ (by assumption) | apply Keeps.iteErr | split | dsimp only | apply within_ite

theorem execPageWalk_keeps {mP wF : Nat} {r0 : State} (g : GCore) (va : Word) (acc : AccKind) (la : LineAddr) (err : CacheErr)
    (s : State) (hk : Keeps mP wF r0 s) (hm0 : within 0x6299cbf mP) (hw0 : within 0xc1f00840000010000002000080000000000000000000000010000800000000000420c0201e205bfc000000000000040000000001ffe0000000 wF) :
    Keeps.Res mP wF r0 (execPageWalk g va acc la err s) := by
  unfold execPageWalk
  extract_lets lines
  clear_value lines
  repeat' first
    | with_reducible assumption
    | with_reducible exact within_trans (by decide +kernel) hm0
    | with_reducible exact within_trans (by decide +kernel) hw0
    | with_reducible apply Keeps.next
    | with_reducible apply State.cacheErr_keeps
    | with_reducible apply State.translate_keeps
    | with_reducible apply Keeps.errOn
    | with_reducible refine Keeps.errGetOn ?_ (by with_reducible assumption)
    | with_reducible refine Keeps.errGetEnd ?_ (by with_reducible assumption)
    | with_reducible refine Keeps.trGetOk ?_ (by with_reducible assumption)
    | with_reducible refine Keeps.trGetExc ?_ (by with_reducible assumption)
    | with_reducible refine Keeps.trGetWait ?_ (by with_reducible assumption)
    | with_reducible apply Keeps.iteErr
    | with_reducible apply Keeps.ite
    | split

theorem execMbDrain_keeps {mP wF : Nat} {r0 : State} (g : GCore) (err : CacheErr) (s : State) (hk : Keeps mP wF r0 s) (hm0 : within 0x6299cbf mP) (hw0 : within 0xc1f00840000010000002000080000000000000000000000010000800000000000020c0001e205bfc000000000000000000000001ffe0000000 wF) : Keeps.Res mP wF r0 (execMbDrain g err s) := by
  unfold execMbDrain; try dsimp only
  with_reducible
    repeat' first
      | assumption | exact within_trans (by decide +kernel) hm0 | exact within_trans (by decide +kernel) hw0
      | apply State.mbDrain_keeps | apply State.cacheErr_keeps | apply Keeps.next
      | refine Keeps.errGetOn ?_ (by assumption) | refine Keeps.errGetEnd ?_ (by assumption) | split | dsimp only

theorem State.loadDevice_keeps {mP wF : Nat} {r0 : State} (s : State) (g : GCore) (rd : Nat) (size : Nat) (pa : Nat) (va : Word) (hk : Keeps mP wF r0 s) (hm0 : within 0x6009c31 mP) (hw0 : within 0x20f7060002c5f04840000b08000003c0000000000000780000001c01f000f8007e00003c040fc0c0303600ff80f01c7c1000000400000000400000000000 wF) : Keeps mP wF r0 (State.loadDevice s g rd size pa va) := by
  unfold State.loadDevice; try dsimp only
  with_reducible
    repeat' first
      | assumption | exact within_trans (by decide +kernel) hm0 | exact within_trans (by decide +kernel) hw0
      | apply State.countCore_keeps | apply State.guardViolation_keeps | apply State.startMiss_keeps
      | apply State.coreRefused_keeps | apply State.loadDone_keeps | apply State.ctlRead_keeps | apply Keeps.ite
      | apply Keeps.iteOpt | exact Keeps.optNone | apply Keeps.optSome | refine Keeps.opt ?_ (by assumption) | split
      | dsimp only | apply within_ite

theorem State.loadNormal_keeps {mP wF : Nat} {r0 : State} (s : State) (g : Nat) (rd : Nat) (size : Nat) (pa : Nat) (pa2 : Nat) (hk : Keeps mP wF r0 s) (hm0 : within 0x6009c31 mP) (hw0 : within 0xc1f008400000000000020000000000000000000000000000000000000000000000000000100000000000000000000400000000000000000000 wF) : Keeps mP wF r0 (State.loadNormal s g rd size pa pa2) := by
  unfold State.loadNormal; try dsimp only
  with_reducible
    repeat' first
      | assumption | exact within_trans (by decide +kernel) hm0 | exact within_trans (by decide +kernel) hw0
      | apply State.coreRefused_keeps | apply State.loadDone_keeps | apply State.loadTry_keeps | apply Keeps.ite
      | apply Keeps.iteOpt | exact Keeps.optNone | apply Keeps.optSome | refine Keeps.opt ?_ (by assumption) | split
      | dsimp only | apply within_ite

theorem State.loadData_keeps {mP wF : Nat} {r0 : State} (s : State) (g : GCore) (rd : Nat) (va : Word) (size : Nat) (err : CacheErr) (hk : Keeps mP wF r0 s) (hm0 : within 0x6299cbf mP) (hw0 : within 0x20f7060002c5f04840000b18000003c0008000000000780000001c01f010f8087e00003c040fe0c0303e20fffcf01c7c100000040000000041ffe0000000 wF) : Keeps mP wF r0 (State.loadData s g rd va size err) := by
  unfold State.loadData; try dsimp only
  with_reducible
    repeat' first
      | assumption | exact within_trans (by decide +kernel) hm0 | exact within_trans (by decide +kernel) hw0
      | apply State.translate_keeps | apply State.misaligned_keeps | apply State.secondLine_keeps
      | apply State.cacheErr_keeps | apply State.loadDevice_keeps | apply State.loadNormal_keeps | apply Keeps.ite
      | refine Keeps.trGetOk ?_ (by assumption) | refine Keeps.trGetExc ?_ (by assumption)
      | refine Keeps.trGetWait ?_ (by assumption) | refine Keeps.errGetOn ?_ (by assumption)
      | refine Keeps.errGetEnd ?_ (by assumption) | apply Keeps.iteErr | split | dsimp only | apply within_ite

theorem State.fetchLine_keeps {mP wF : Nat} {r0 : State} (s : State) (g : GCore) (va : Word) (err : CacheErr) (hk : Keeps mP wF r0 s) (hm0 : within 0x6299cbf mP) (hw0 : within 0x20f7060002c5f04840000b18000003c0008000000000780000001c01f010f8087e00003c040fe0c0303e20fffcf01c7c100000040000000041ffe0000000 wF) : Keeps mP wF r0 (State.fetchLine s g va err) := by
  unfold State.fetchLine; try dsimp only
  with_reducible
    repeat' first
      | assumption | exact within_trans (by decide +kernel) hm0 | exact within_trans (by decide +kernel) hw0
      | apply State.countCore_keeps | apply State.guardViolation_keeps | apply State.startMiss_keeps
      | apply State.translate_keeps | apply State.coreRefused_keeps | apply State.specAccess_keeps
      | apply State.fetchTry_keeps | apply State.ctlRead_keeps | apply State.cacheErr_keeps | apply Keeps.ite
      | apply Keeps.iteOpt | refine Keeps.trGetOk ?_ (by assumption) | refine Keeps.trGetExc ?_ (by assumption)
      | refine Keeps.trGetWait ?_ (by assumption) | exact Keeps.optNone | apply Keeps.optSome
      | refine Keeps.opt ?_ (by assumption) | refine Keeps.errGetOn ?_ (by assumption)
      | refine Keeps.errGetEnd ?_ (by assumption) | apply Keeps.iteErr | split | dsimp only | apply within_ite

theorem execLoad_keeps {mP wF : Nat} {r0 : State} (g : GCore) (kind : LoadKind) (rd : Fin 32) (va : Word) (size : Fin 7) (err : CacheErr) (s : State) (hk : Keeps mP wF r0 s) (hm0 : within 0x6299cbf mP) (hw0 : within 0x20f7060002c5f04840000b18000003c0008000000000780000001c01f010f8087e00003c040fe0c0303e20fffcf01c7c100000040000000041ffe0000000 wF) : Keeps.Res mP wF r0 (execLoad g kind rd va size err s) := by
  unfold execLoad; try dsimp only
  with_reducible
    repeat' first
      | intro _ | assumption | exact within_trans (by decide +kernel) hm0 | exact within_trans (by decide +kernel) hw0
      | apply State.instr_keeps | apply State.loadData_keeps | apply State.fetchLine_keeps | apply Keeps.next | split
      | dsimp only

theorem State.storeDone_keeps {mP wF : Nat} {r0 : State} (s : State) (g : Nat) (hk : Keeps mP wF r0 s) (hm0 : within 0x4000400 mP) : Keeps mP wF r0 (State.storeDone s g) := by
  unfold State.storeDone; try dsimp only
  with_reducible
    repeat' first
      | assumption | exact within_trans (by decide +kernel) hm0 | apply State.countCore_keeps
      | apply State.retire_keeps

theorem State.storeNormal_keeps {mP wF : Nat} {r0 : State} (s : State) (g : Nat) (pa : Nat) (pa2 : Nat) (n : Nat) (v : Nat) (hk : Keeps mP wF r0 s) (hm0 : within 0x4000400 mP) : Keeps mP wF r0 (State.storeNormal s g pa pa2 n v) := by
  unfold State.storeNormal; try dsimp only
  with_reducible
    repeat' first
      | assumption | exact within_trans (by decide +kernel) hm0 | apply State.setCore_keeps
      | apply State.storeDone_keeps | split | dsimp only

theorem State.storeDevice_keeps {mP wF : Nat} {r0 : State} (s : State) (g : GCore) (size : Nat) (pa : Nat) (v : Nat) (hk : Keeps mP wF r0 s) (hm0 : within 0x7ffffff mP) (hw0 : within Fld.maskAll wF) : Keeps mP wF r0 (State.storeDevice s g size pa v) := by
  unfold State.storeDevice; try dsimp only
  with_reducible
    repeat' first
      | intro _ | assumption | exact within_trans (by decide +kernel) hm0 | exact within_trans (by decide +kernel) hw0
      | apply State.updTick_keeps | apply State.countCore_keeps | apply State.guardOverflow_keeps
      | apply State.devWrite_keeps | apply State.storeDone_keeps | apply Keeps.ite | split | dsimp only
      | apply within_ite | exact within_trans (Fld.within_all _) hw0

theorem execStore_keeps {mP wF : Nat} {r0 : State} (g : GCore) (va : Word) (size : Fin 7) (rs : Fin 32) (ordered : Bool) (s : State) (hk : Keeps mP wF r0 s) (hm0 : within 0x7ffffff mP) (hw0 : within Fld.maskAll wF) : Keeps.Res mP wF r0 (execStore g va size rs ordered s) := by
  unfold execStore; try dsimp only
  with_reducible
    repeat' first
      | intro _ | assumption | exact within_trans (by decide +kernel) hm0 | exact within_trans (by decide +kernel) hw0
      | apply State.instr_keeps | apply State.translate_keeps | apply State.closeMb_keeps
      | apply State.misaligned_keeps | apply State.secondLine_keeps | apply State.storeNormal_keeps
      | apply State.storeDevice_keeps | apply Keeps.next | apply Keeps.ite | apply Keeps.iteFst
      | refine Keeps.trGetOk ?_ (by assumption) | refine Keeps.trGetExc ?_ (by assumption)
      | refine Keeps.trGetWait ?_ (by assumption) | split | dsimp only | apply within_ite
      | exact within_trans (Fld.within_all _) hw0

theorem State.atomicDevice_keeps {mP wF : Nat} {r0 : State} (s : State) (g : GCore) (rd : Nat) (size : Nat) (pa : Nat) (op : Nat) (v : Word) (hk : Keeps mP wF r0 s) (hm0 : within 0x7ffffff mP) (hw0 : within Fld.maskAll wF) : Keeps mP wF r0 (State.atomicDevice s g rd size pa op v) := by
  unfold State.atomicDevice; try dsimp only
  with_reducible
    repeat' first
      | assumption | exact within_trans (by decide +kernel) hm0 | exact within_trans (by decide +kernel) hw0
      | apply State.countCore_keeps | apply State.coreRefused_keeps | apply State.loadDone_keeps
      | apply State.ctlRead_keeps | apply State.ctlWrite_keeps | apply State.devWrite_keeps | apply Keeps.ite
      | apply Keeps.iteOpt | exact Keeps.optNone | apply Keeps.optSome | refine Keeps.opt ?_ (by assumption) | split
      | dsimp only | apply within_ite | exact within_trans (Fld.within_all _) hw0

theorem State.atomicNormal_keeps {mP wF : Nat} {r0 : State} (s : State) (g : Nat) (rd : Nat) (size : Nat) (pa : Nat) (op : Nat) (v : Word) (hk : Keeps mP wF r0 s) (hm0 : within 0x6019c3f mP) (hw0 : within 0xc1f0084000000000000200000000000000000000000000000000000000000000000000001000598c0000000000000400000000000000000000 wF) : Keeps mP wF r0 (State.atomicNormal s g rd size pa op v) := by
  unfold State.atomicNormal; try dsimp only
  with_reducible
    repeat' first
      | intro _ | assumption | exact within_trans (by decide +kernel) hm0 | exact within_trans (by decide +kernel) hw0
      | apply State.writeLine_keeps | apply State.startMiss_keeps | apply State.lineDefer_keeps
      | apply State.coreRefused_keeps | apply State.closeMb_keeps | apply State.loadDone_keeps
      | apply State.loadPoison_keeps | apply State.atomicDo_keeps | apply Keeps.ite | apply Keeps.iteOpt
      | exact Keeps.optNone | apply Keeps.optSome | refine Keeps.opt ?_ (by assumption) | split | dsimp only
      | apply within_ite

theorem execAtomic_keeps {mP wF : Nat} {r0 : State} (g : GCore) (rd : Fin 32) (va : Word) (size : Fin 4) (op : AtomicOp) (rs : Fin 32) (err : CacheErr) (s : State) (hk : Keeps mP wF r0 s) (hm0 : within 0x7ffffff mP) (hw0 : within Fld.maskAll wF) : Keeps.Res mP wF r0 (execAtomic g rd va size op rs err s) := by
  unfold execAtomic; try dsimp only
  with_reducible
    repeat' first
      | intro _ | assumption | exact within_trans (by decide +kernel) hm0 | exact within_trans (by decide +kernel) hw0
      | apply State.guardViolation_keeps | apply State.instr_keeps | apply State.translate_keeps
      | apply State.misaligned_keeps | apply State.cacheErr_keeps | apply State.atomicDevice_keeps
      | apply State.atomicNormal_keeps | apply Keeps.next | apply Keeps.ite | apply Keeps.iteFst
      | refine Keeps.trGetOk ?_ (by assumption) | refine Keeps.trGetExc ?_ (by assumption)
      | refine Keeps.trGetWait ?_ (by assumption) | refine Keeps.errGetOn ?_ (by assumption)
      | refine Keeps.errGetEnd ?_ (by assumption) | apply Keeps.iteErr | split | dsimp only | apply within_ite
      | exact within_trans (Fld.within_all _) hw0

theorem State.drainOne_keeps {mP wF : Nat} {r0 : State} (s : State) (a : Acc) (e : DqEnt) (hk : Keeps mP wF r0 s) (hm0 : within 0x7ffffff mP) (hw0 : within Fld.maskAll wF) : Keeps mP wF r0 (State.drainOne s a e) := by
  unfold State.drainOne; try dsimp only
  with_reducible
    repeat' first
      | assumption | exact within_trans (by decide +kernel) hm0 | exact within_trans (by decide +kernel) hw0
      | apply State.releaseFrom_keeps | apply State.devWrite_keeps | split | dsimp only
      | exact within_trans (Fld.within_all _) hw0

theorem State.drainLog_keeps {mP wF : Nat} {r0 : State} (s : State) (a : Acc) (p : Nat) (l : Nat) (tick : Nat) (es : List DqEnt) (hk : Keeps mP wF r0 s) (hm0 : within 0x7ffffff mP) (hw0 : within Fld.maskAll wF) : Keeps mP wF r0 (State.drainLog s a p l tick es) := by
  unfold State.drainLog; try dsimp only
  with_reducible
    repeat' first
      | intro _ | assumption | exact within_trans (by decide +kernel) hm0 | exact within_trans (by decide +kernel) hw0
      | apply State.setCursor_keeps | apply State.drainOne_keeps | apply Keeps.foldl | apply Keeps.foldlFst
      | apply Keeps.ite | split | dsimp only | apply within_ite | exact within_trans (Fld.within_all _) hw0

theorem State.replayLog_keeps {mP wF : Nat} {r0 : State} (s : State) (g : GCore) (x : Replay) (hk : Keeps mP wF r0 s) (hm0 : within 0x7ffffff mP) (hw0 : within Fld.maskAll wF) : Keeps mP wF r0 (State.replayLog s g x) := by
  unfold State.replayLog; try dsimp only
  with_reducible
    repeat' first
      | intro _ | assumption | exact within_trans (by decide +kernel) hm0 | exact within_trans (by decide +kernel) hw0
      | apply State.updBerm_keeps | apply State.logDie_keeps | apply State.drainLog_keeps | split | dsimp only
      | exact within_trans (Fld.within_all _) hw0

theorem State.phaseC_keeps {mP wF : Nat} {r0 : State} (s : State) (g : GCore) (hk : Keeps mP wF r0 s) (hm0 : within 0x7ffffff mP) (hw0 : within Fld.maskAll wF) : Keeps mP wF r0 (State.phaseC s g) := by
  unfold State.phaseC; try dsimp only
  with_reducible
    repeat' first
      | intro _ | assumption | exact within_trans (by decide +kernel) hm0 | exact within_trans (by decide +kernel) hw0
      | apply State.updCore_keeps | apply State.closeGuarded_keeps | apply State.sampleWrite_keeps
      | apply State.drainLog_keeps | apply Keeps.foldl | apply Keeps.foldlFst | dsimp only
      | exact within_trans (Fld.within_all _) hw0

theorem execDeferredDrain_keeps {mP wF : Nat} {r0 : State} (g : GCore) (s : State) (hk : Keeps mP wF r0 s) (hm0 : within 0x7ffffff mP) (hw0 : within Fld.maskAll wF) : Keeps.Res mP wF r0 (execDeferredDrain g s) := by
  unfold execDeferredDrain; try dsimp only
  with_reducible
    repeat' first
      | intro _ | assumption | exact within_trans (by decide +kernel) hm0 | exact within_trans (by decide +kernel) hw0
      | apply State.replayLog_keeps | apply State.phaseC_keeps | apply Keeps.next | apply Keeps.ite
      | apply Keeps.iteFst | split | dsimp only | apply within_ite | exact within_trans (Fld.within_all _) hw0

theorem State.bar0Read_keeps {mP wF : Nat} {r0 : State} (s : State) (e : Nat) (o : Nat) (hk : Keeps mP wF r0 s) (hm0 : within 0x11 mP) (hw0 : within 0x20f706000284404000000b08000003c0000000000000780000001c01f000f8007e00003c040fc0c0303600ff80f01c7c1000000400000000400000000000 wF) : Keeps mP wF r0 (State.bar0Read s e o) := by
  unfold State.bar0Read; try dsimp only
  with_reducible
    repeat' first
      | assumption | exact within_trans (by decide +kernel) hm0 | exact within_trans (by decide +kernel) hw0
      | apply State.answer_keeps | apply State.regRead_keeps | split | dsimp only

theorem State.bar0Write_keeps {mP wF : Nat} {r0 : State} (s : State) (e : Nat) (o : Nat) (v : Nat) (hk : Keeps mP wF r0 s) (hm0 : within 0x7ffffff mP) (hw0 : within Fld.maskAll wF) : Keeps mP wF r0 (State.bar0Write s e o v) := by
  unfold State.bar0Write; try dsimp only
  with_reducible
    repeat' first
      | assumption | exact within_trans (by decide +kernel) hm0 | exact within_trans (by decide +kernel) hw0
      | apply State.regWrite_keeps | split | dsimp only | exact within_trans (Fld.within_all _) hw0

theorem State.bar0Reads_keeps {mP wF : Nat} {r0 : State} (s : State) (e : Nat) (o : Nat) (y0 : Nat) (hk : Keeps mP wF r0 s) (hm0 : within 0x11 mP) (hw0 : within 0x20f706000284404000000b08000003c0000000000000780000001c01f000f8007e00003c040fc0c0303600ff80f01c7c1000000400000000400000000000 wF) : Keeps mP wF r0 (State.bar0Reads s e o y0).1 := by
  induction y0 generalizing s e o with
  | zero =>
    unfold State.bar0Reads; try dsimp only
    with_reducible
      repeat' first
        | assumption | exact within_trans (by decide +kernel) hm0 | exact within_trans (by decide +kernel) hw0
        | apply State.bar0Read_keeps | refine Keeps.fst ?_ (by assumption)
  | succ n ih =>
    unfold State.bar0Reads; try dsimp only
    with_reducible
      repeat' first
        | assumption | exact within_trans (by decide +kernel) hm0 | exact within_trans (by decide +kernel) hw0
        | apply State.bar0Read_keeps | apply ih | refine Keeps.fst ?_ (by assumption)

theorem State.bar0Writes_keeps {mP wF : Nat} {r0 : State} (s : State) (e : Nat) (o : Nat) (y0 : List Word) (hk : Keeps mP wF r0 s) (hm0 : within 0x7ffffff mP) (hw0 : within Fld.maskAll wF) : Keeps mP wF r0 (State.bar0Writes s e o y0) := by
  induction y0 generalizing s e o with
  | nil =>
    unfold State.bar0Writes; try dsimp only
    with_reducible
      repeat' first
        | assumption | exact within_trans (by decide +kernel) hm0 | exact within_trans (by decide +kernel) hw0
        | apply State.bar0Write_keeps | refine Keeps.fst ?_ (by assumption)
        | exact within_trans (Fld.within_all _) hw0
  | cons x l ih =>
    unfold State.bar0Writes; try dsimp only
    with_reducible
      repeat' first
        | assumption | exact within_trans (by decide +kernel) hm0 | exact within_trans (by decide +kernel) hw0
        | apply State.bar0Write_keeps | apply ih | refine Keeps.fst ?_ (by assumption)
        | exact within_trans (Fld.within_all _) hw0

theorem State.bar4Put_keeps {mP wF : Nat} {r0 : State} (s : State) (e : Nat) (o : Nat) (v : Nat) (hk : Keeps mP wF r0 s) (hm0 : within 0x2000800 mP) : Keeps mP wF r0 (State.bar4Put s e o v) := by
  unfold State.bar4Put; try dsimp only
  with_reducible
    repeat' first
      | intro _ | assumption | exact within_trans (by decide +kernel) hm0 | apply State.updPe_keeps
      | apply State.unmaskVec_keeps | apply Keeps.ite | split | dsimp only

theorem State.bar4Puts_keeps {mP wF : Nat} {r0 : State} (s : State) (e : Nat) (o : Nat) (y0 : List Word) (hk : Keeps mP wF r0 s) (hm0 : within 0x2000800 mP) : Keeps mP wF r0 (State.bar4Puts s e o y0) := by
  induction y0 generalizing s e o with
  | nil =>
    unfold State.bar4Puts; try dsimp only
    with_reducible
      repeat' first
        | assumption | exact within_trans (by decide +kernel) hm0 | apply State.bar4Put_keeps
        | refine Keeps.fst ?_ (by assumption)
  | cons x l ih =>
    unfold State.bar4Puts; try dsimp only
    with_reducible
      repeat' first
        | assumption | exact within_trans (by decide +kernel) hm0 | apply State.bar4Put_keeps | apply ih
        | refine Keeps.fst ?_ (by assumption)

theorem State.barRead_keeps {mP wF : Nat} {r0 : State} (s : State) (e : Nat) (bar : PeBar) (o : Nat) (n : Nat) (size : TlpSize) (hk : Keeps mP wF r0 s) (hm0 : within 0x11 mP) (hw0 : within 0x20f706000284404000000b08000003c0000000000000780000001c01f000f8007e00003c040fc0c0303600ff80f01c7c1000000400000000400000000000 wF) : Keeps mP wF r0 (State.barRead s e bar o n size).1 := by
  unfold State.barRead; try dsimp only
  with_reducible
    repeat' first
      | intro _ | assumption | exact within_trans (by decide +kernel) hm0 | exact within_trans (by decide +kernel) hw0
      | apply State.bar0Reads_keeps | apply Keeps.ite | apply Keeps.iteFst | refine Keeps.fst ?_ (by assumption)
      | split | dsimp only | apply within_ite

theorem State.barWrite_keeps {mP wF : Nat} {r0 : State} (s : State) (e : Nat) (bar : PeBar) (o : Nat) (data : List Word) (size : TlpSize) (hk : Keeps mP wF r0 s) (hm0 : within 0x7ffffff mP) (hw0 : within Fld.maskAll wF) : Keeps mP wF r0 (State.barWrite s e bar o data size) := by
  unfold State.barWrite; try dsimp only
  with_reducible
    repeat' first
      | assumption | exact within_trans (by decide +kernel) hm0 | exact within_trans (by decide +kernel) hw0
      | apply State.bar0Writes_keeps | apply State.bar4Put_keeps | apply State.bar4Puts_keeps | apply Keeps.ite
      | split | dsimp only | apply within_ite | exact within_trans (Fld.within_all _) hw0

theorem execBar0Access_keeps {mP wF : Nat} {r0 : State} (e : Fin 4) (write : Bool) (bar : PeBar) (off : BitVec 20) (data : List Word) (size : TlpSize) (s : State) (hk : Keeps mP wF r0 s) (hm0 : within 0x7ffffff mP) (hw0 : within Fld.maskAll wF) : Keeps.Res mP wF r0 (execBar0Access e write bar off data size s) := by
  unfold execBar0Access; try dsimp only
  with_reducible
    repeat' first
      | assumption | exact within_trans (by decide +kernel) hm0 | exact within_trans (by decide +kernel) hw0
      | apply State.emit_keeps | apply State.peInbound_keeps | apply State.peUr_keeps | apply State.barRead_keeps
      | apply State.barWrite_keeps | apply Keeps.next | apply Keeps.ite | apply Keeps.iteFst
      | refine Keeps.fst ?_ (by assumption) | split | dsimp only | apply within_ite
      | exact within_trans (Fld.within_all _) hw0

end Sys2Proof.Machine
end

