-- ==== Sys2Proof/Laws/Commands.lean ====
section
/-! SUPPORT. How a command ends: its completion stands ready, and a completion without bytes changes the command plane only. -/

set_option Elab.async false
namespace Sys2Proof.Machine

/-- Nothing to return, nothing written. -/
theorem scatter_nil (src : Source) (s : State) (ds : List (Word × Word)) : scatter src s ds [] = s := by
  induction ds with
  | nil => rfl
  | cons d ds ih => simpa [scatter] using ih

theorem runningOf_eq {s : State} {c : Cmd} {r : Running} (h : s.runningOf c = some r) : r.src = c.src ∧ r.e = c.e := by
  have := List.find?_some h
  simp only [Bool.and_eq_true, beq_iff_eq] at this
  exact ⟨this.1.1.1, this.1.2⟩

/-- The completion of a finished command stands ready with its status, RESULT and bytes, but for one that is discarded (R406). -/
theorem finishAt_answeredOut (s : State) (c : Cmd) (res : CmdRes) (k : Nat) (h : (s.runningOf c).any (·.discard) = false) :
    answeredOut (s.finishAt c res k) c res.status res.result res.out := by
  unfold State.finishAt
  simp only [h, Bool.false_eq_true, if_false]
  dsimp only [State.updCp, answeredOut, cplOf]
  refine ⟨_, List.mem_append_right _ List.mem_cons_self, ?_⟩
  generalize hs : scatter c.src s (s.descs c) res.out = t
  have ht : t.runningOf c = s.runningOf c := by
    rw [← hs]; unfold State.runningOf
    rw [show (scatter c.src s (s.descs c) res.out).cp = s.cp from
      (scatter_keeps c.src s (s.descs c) res.out (Keeps.refl 0x201940f Fld.maskAll s) (by decide +kernel)
        (by decide +kernel)).part .cp (by decide)]
  rw [ht]
  cases hr : s.runningOf c with
  | none => exact ⟨rfl, rfl, rfl, rfl, rfl⟩
  | some r => exact ⟨(runningOf_eq hr).1, congrArg Entry.cid (runningOf_eq hr).2, rfl, rfl, rfl⟩

theorem finish_answered (s : State) (c : Cmd) (res : CmdRes) (h : (s.runningOf c).any (·.discard) = false) :
    answered (s.finish c res) c res.status res.result := by
  obtain ⟨x, hx, h1, h2, h3, h4, _⟩ := finishAt_answeredOut s c res (s.cmdTick c) h
  exact ⟨x, hx, h1, h2, h3, h4⟩

/-- A command that passes the shared checks has its own effect and completes. -/
theorem runCmd_passes {o : OpSpec} {c : Cmd} {s : State} (body : State → State × CmdRes) (h : s.passes o c = true) :
    runCmd o c body s = (body s).1.finish c (body s).2 := by
  simp only [State.passes, Bool.and_eq_true, Option.isNone_iff_eq_none, Bool.not_eq_true'] at h
  unfold runCmd
  rw [h.1.2]
  simp only [h.2, h.1.1.1.1, Bool.false_eq_true, if_false, Bool.not_true]

theorem runCmdLater_passes {o : OpSpec} {c : Cmd} {s : State} (body : State → State × Option CmdRes)
    (h : s.passes o c = true) :
    runCmdLater o c body s = match body (s.hold c) with | (t, some r) => t.finish c r | (t, none) => t := by
  simp only [State.passes, Bool.and_eq_true, Option.isNone_iff_eq_none, Bool.not_eq_true'] at h
  unfold runCmdLater
  simp only [h.1.2, h.1.1.1.1, h.1.1.1.2, Bool.false_eq_true, if_false, Bool.not_true, Bool.or_self]
  all_goals rfl

section
variable (s : State) (c : Cmd) (res : CmdRes)

/-- A completion without bytes changes the command plane only. -/
theorem finishAt_nil (h : res.out = []) (k : Nat) {p : Part} (hp : p ≠ .cp) : p.same s (s.finishAt c res k) := by
  unfold State.finishAt
  simp only [h, scatter_nil, ite_self]
  cases p <;> first | exact rfl | exact absurd rfl hp
theorem finish_nil (h : res.out = []) {p : Part} (hp : p ≠ .cp) : p.same s (s.finish c res) := finishAt_nil s c res h _ hp
theorem finish_nil_get (h : res.out = []) (f : Fld) (i : Nat) : (s.finish c res).get f i = s.get f i := by
  unfold State.get
  rw [show (s.finish c res).regs = s.regs from finish_nil s c res h (p := .regs) (by decide)]

/-- Bytes that a command returns change nothing of the command plane. -/
theorem scatter_cp (src : Source) (ds : List (Word × Word)) (bs : List Byte) : (scatter src s ds bs).cp = s.cp :=
  (scatter_keeps src s ds bs (Keeps.refl 0x201940f Fld.maskAll s) (by decide +kernel) (by decide +kernel)).part .cp (by decide)

/-- Completing a command changes the accept records, what is ready and the completion cache, and nothing else of the command
plane. -/
theorem finishAt_cp (k : Nat) : ∃ a b d, (s.finishAt c res k).cp = { s.cp with running := a, ready := b, cache := d } := by
  unfold State.finishAt
  dsimp only [State.updCp]
  split
  · exact ⟨_, _, _, rfl⟩
  · rw [scatter_cp]
    exact ⟨_, _, _, rfl⟩
@[simp] theorem finish_sq (k : Nat) : (s.finish c res).sq k = s.sq k := by
  obtain ⟨_, _, _, h⟩ := finishAt_cp s c res (s.cmdTick c)
  unfold State.sq State.finish; rw [h]
@[simp] theorem finish_cq (k : Nat) : (s.finish c res).cq k = s.cq k := by
  obtain ⟨_, _, _, h⟩ := finishAt_cp s c res (s.cmdTick c)
  unfold State.cq State.finish; rw [h]

end

end Sys2Proof.Machine
end

