-- ==== Sys2Proof/Laws/Updates.lean ====
section
/-! SUPPORT. One lemma per update of the state and each thing it leaves as it was, and what reading back what it changed
gives; the width of every register field. -/

set_option Elab.async false
namespace Sys2Proof.Machine

section
variable (s : State)

@[simp] theorem State.put_mem (f : Fld) (i v : Nat) : (s.put f i v).mem = s.mem := rfl
@[simp] theorem State.put_poison (f : Fld) (i v : Nat) : (s.put f i v).poison = s.poison := rfl
@[simp] theorem State.put_hub (f : Fld) (i v : Nat) : (s.put f i v).hub = s.hub := rfl
@[simp] theorem State.put_cp (f : Fld) (i v : Nat) : (s.put f i v).cp = s.cp := rfl
@[simp] theorem State.put_rcd (f : Fld) (i v : Nat) : (s.put f i v).rcd = s.rcd := rfl
@[simp] theorem State.put_exports (f : Fld) (i v : Nat) : (s.put f i v).exports = s.exports := rfl
@[simp] theorem State.put_pols (f : Fld) (i v : Nat) : (s.put f i v).pols = s.pols := rfl
@[simp] theorem State.put_polGen (f : Fld) (i v : Nat) : (s.put f i v).polGen = s.polGen := rfl
@[simp] theorem State.put_te (f : Fld) (i v : Nat) : (s.put f i v).te = s.te := rfl
@[simp] theorem State.put_cores (f : Fld) (i v : Nat) : (s.put f i v).cores = s.cores := rfl
@[simp] theorem State.put_pe (f : Fld) (i v : Nat) : (s.put f i v).pe = s.pe := rfl
@[simp] theorem State.put_dies (f : Fld) (i v : Nat) : (s.put f i v).dies = s.dies := rfl
@[simp] theorem State.put_halfLost (f : Fld) (i v : Nat) : (s.put f i v).halfLost = s.halfLost := rfl
@[simp] theorem State.put_halfReturning (f : Fld) (i v : Nat) : (s.put f i v).halfReturning = s.halfReturning := rfl
@[simp] theorem State.put_fabric (f : Fld) (i v : Nat) : (s.put f i v).fabric = s.fabric := rfl
@[simp] theorem State.put_dir (f : Fld) (i v : Nat) : (s.put f i v).dir = s.dir := rfl
@[simp] theorem State.put_io (f : Fld) (i v : Nat) : (s.put f i v).io = s.io := rfl
@[simp] theorem State.put_mcs (f : Fld) (i v : Nat) : (s.put f i v).mcs = s.mcs := rfl
@[simp] theorem State.put_berm (f : Fld) (i v : Nat) : (s.put f i v).berm = s.berm := rfl
@[simp] theorem State.put_ing (f : Fld) (i v : Nat) : (s.put f i v).ing = s.ing := rfl
@[simp] theorem State.put_links (f : Fld) (i v : Nat) : (s.put f i v).links = s.links := rfl
@[simp] theorem State.put_dike (f : Fld) (i v : Nat) : (s.put f i v).dike = s.dike := rfl
@[simp] theorem State.put_cas (f : Fld) (i v : Nat) : (s.put f i v).cas = s.cas := rfl
@[simp] theorem State.put_pow (f : Fld) (i v : Nat) : (s.put f i v).pow = s.pow := rfl
@[simp] theorem State.put_out (f : Fld) (i v : Nat) : (s.put f i v).out = s.out := rfl
@[simp] theorem State.put_free (f : Fld) (i v : Nat) : (s.put f i v).free = s.free := rfl
@[simp] theorem State.put_pending (f : Fld) (i v : Nat) : (s.put f i v).pending = s.pending := rfl
@[simp] theorem State.put_sq (f : Fld) (i v : Nat) (j : Nat) : (s.put f i v).sq j = s.sq j := rfl
@[simp] theorem State.put_cq (f : Fld) (i v : Nat) (j : Nat) : (s.put f i v).cq j = s.cq j := rfl
@[simp] theorem State.put_slot (f : Fld) (i v : Nat) (j : Nat) : (s.put f i v).slot j = s.slot j := rfl
@[simp] theorem State.put_polder (f : Fld) (i v : Nat) (j : Nat) : (s.put f i v).polder j = s.polder j := rfl
@[simp] theorem State.put_coreOf (f : Fld) (i v : Nat) (j k2 : Nat) : (s.put f i v).coreOf j k2 = s.coreOf j k2 := rfl
@[simp] theorem State.put_core (f : Fld) (i v : Nat) (j : Nat) : (s.put f i v).core j = s.core j := rfl
@[simp] theorem State.put_die (f : Fld) (i v : Nat) (j : Nat) : (s.put f i v).die j = s.die j := rfl
@[simp] theorem State.put_peSt (f : Fld) (i v : Nat) (j : Nat) : (s.put f i v).peSt j = s.peSt j := rfl
@[simp] theorem State.put_lost (f : Fld) (i v : Nat) (j : Nat) : (s.put f i v).lost j = s.lost j := rfl
@[simp] theorem State.put_strm (f : Fld) (i v : Nat) (j : Nat) : (s.put f i v).strm j = s.strm j := rfl
@[simp] theorem State.put_lk (f : Fld) (i v : Nat) (j : LinkEnd) : (s.put f i v).lk j = s.lk j := rfl
@[simp] theorem State.put_mc (f : Fld) (i v : Nat) (j : Nat) : (s.put f i v).mc j = s.mc j := rfl
@[simp] theorem State.put_chan (f : Fld) (i v : Nat) (j : Nat) : (s.put f i v).chan j = s.chan j := rfl
@[simp] theorem State.put_csPort (f : Fld) (i v : Nat) (j : Nat) : (s.put f i v).csPort j = s.csPort j := rfl
@[simp] theorem State.put_ctx (f : Fld) (i v : Nat) (j : Nat) : (s.put f i v).ctx j = s.ctx j := rfl
@[simp] theorem State.put_encIn (f : Fld) (i v : Nat) (j : Nat) : (s.put f i v).encIn j = s.encIn j := rfl
@[simp] theorem State.setFlag_mem (f : Fld) (i : Nat) (b : Bool) : (s.setFlag f i b).mem = s.mem := rfl
@[simp] theorem State.setFlag_poison (f : Fld) (i : Nat) (b : Bool) : (s.setFlag f i b).poison = s.poison := rfl
@[simp] theorem State.setFlag_hub (f : Fld) (i : Nat) (b : Bool) : (s.setFlag f i b).hub = s.hub := rfl
@[simp] theorem State.setFlag_cp (f : Fld) (i : Nat) (b : Bool) : (s.setFlag f i b).cp = s.cp := rfl
@[simp] theorem State.setFlag_rcd (f : Fld) (i : Nat) (b : Bool) : (s.setFlag f i b).rcd = s.rcd := rfl
@[simp] theorem State.setFlag_exports (f : Fld) (i : Nat) (b : Bool) : (s.setFlag f i b).exports = s.exports := rfl
@[simp] theorem State.setFlag_pols (f : Fld) (i : Nat) (b : Bool) : (s.setFlag f i b).pols = s.pols := rfl
@[simp] theorem State.setFlag_polGen (f : Fld) (i : Nat) (b : Bool) : (s.setFlag f i b).polGen = s.polGen := rfl
@[simp] theorem State.setFlag_te (f : Fld) (i : Nat) (b : Bool) : (s.setFlag f i b).te = s.te := rfl
@[simp] theorem State.setFlag_cores (f : Fld) (i : Nat) (b : Bool) : (s.setFlag f i b).cores = s.cores := rfl
@[simp] theorem State.setFlag_pe (f : Fld) (i : Nat) (b : Bool) : (s.setFlag f i b).pe = s.pe := rfl
@[simp] theorem State.setFlag_dies (f : Fld) (i : Nat) (b : Bool) : (s.setFlag f i b).dies = s.dies := rfl
@[simp] theorem State.setFlag_halfLost (f : Fld) (i : Nat) (b : Bool) : (s.setFlag f i b).halfLost = s.halfLost := rfl
@[simp] theorem State.setFlag_halfReturning (f : Fld) (i : Nat) (b : Bool) : (s.setFlag f i b).halfReturning = s.halfReturning := rfl
@[simp] theorem State.setFlag_fabric (f : Fld) (i : Nat) (b : Bool) : (s.setFlag f i b).fabric = s.fabric := rfl
@[simp] theorem State.setFlag_dir (f : Fld) (i : Nat) (b : Bool) : (s.setFlag f i b).dir = s.dir := rfl
@[simp] theorem State.setFlag_io (f : Fld) (i : Nat) (b : Bool) : (s.setFlag f i b).io = s.io := rfl
@[simp] theorem State.setFlag_mcs (f : Fld) (i : Nat) (b : Bool) : (s.setFlag f i b).mcs = s.mcs := rfl
@[simp] theorem State.setFlag_berm (f : Fld) (i : Nat) (b : Bool) : (s.setFlag f i b).berm = s.berm := rfl
@[simp] theorem State.setFlag_ing (f : Fld) (i : Nat) (b : Bool) : (s.setFlag f i b).ing = s.ing := rfl
@[simp] theorem State.setFlag_links (f : Fld) (i : Nat) (b : Bool) : (s.setFlag f i b).links = s.links := rfl
@[simp] theorem State.setFlag_dike (f : Fld) (i : Nat) (b : Bool) : (s.setFlag f i b).dike = s.dike := rfl
@[simp] theorem State.setFlag_cas (f : Fld) (i : Nat) (b : Bool) : (s.setFlag f i b).cas = s.cas := rfl
@[simp] theorem State.setFlag_pow (f : Fld) (i : Nat) (b : Bool) : (s.setFlag f i b).pow = s.pow := rfl
@[simp] theorem State.setFlag_out (f : Fld) (i : Nat) (b : Bool) : (s.setFlag f i b).out = s.out := rfl
@[simp] theorem State.setFlag_free (f : Fld) (i : Nat) (b : Bool) : (s.setFlag f i b).free = s.free := rfl
@[simp] theorem State.setFlag_pending (f : Fld) (i : Nat) (b : Bool) : (s.setFlag f i b).pending = s.pending := rfl
@[simp] theorem State.setFlag_sq (f : Fld) (i : Nat) (b : Bool) (j : Nat) : (s.setFlag f i b).sq j = s.sq j := rfl
@[simp] theorem State.setFlag_cq (f : Fld) (i : Nat) (b : Bool) (j : Nat) : (s.setFlag f i b).cq j = s.cq j := rfl
@[simp] theorem State.setFlag_slot (f : Fld) (i : Nat) (b : Bool) (j : Nat) : (s.setFlag f i b).slot j = s.slot j := rfl
@[simp] theorem State.setFlag_polder (f : Fld) (i : Nat) (b : Bool) (j : Nat) : (s.setFlag f i b).polder j = s.polder j := rfl
@[simp] theorem State.setFlag_coreOf (f : Fld) (i : Nat) (b : Bool) (j k2 : Nat) : (s.setFlag f i b).coreOf j k2 = s.coreOf j k2 := rfl
@[simp] theorem State.setFlag_core (f : Fld) (i : Nat) (b : Bool) (j : Nat) : (s.setFlag f i b).core j = s.core j := rfl
@[simp] theorem State.setFlag_die (f : Fld) (i : Nat) (b : Bool) (j : Nat) : (s.setFlag f i b).die j = s.die j := rfl
@[simp] theorem State.setFlag_peSt (f : Fld) (i : Nat) (b : Bool) (j : Nat) : (s.setFlag f i b).peSt j = s.peSt j := rfl
@[simp] theorem State.setFlag_lost (f : Fld) (i : Nat) (b : Bool) (j : Nat) : (s.setFlag f i b).lost j = s.lost j := rfl
@[simp] theorem State.setFlag_strm (f : Fld) (i : Nat) (b : Bool) (j : Nat) : (s.setFlag f i b).strm j = s.strm j := rfl
@[simp] theorem State.setFlag_lk (f : Fld) (i : Nat) (b : Bool) (j : LinkEnd) : (s.setFlag f i b).lk j = s.lk j := rfl
@[simp] theorem State.setFlag_mc (f : Fld) (i : Nat) (b : Bool) (j : Nat) : (s.setFlag f i b).mc j = s.mc j := rfl
@[simp] theorem State.setFlag_chan (f : Fld) (i : Nat) (b : Bool) (j : Nat) : (s.setFlag f i b).chan j = s.chan j := rfl
@[simp] theorem State.setFlag_csPort (f : Fld) (i : Nat) (b : Bool) (j : Nat) : (s.setFlag f i b).csPort j = s.csPort j := rfl
@[simp] theorem State.setFlag_ctx (f : Fld) (i : Nat) (b : Bool) (j : Nat) : (s.setFlag f i b).ctx j = s.ctx j := rfl
@[simp] theorem State.setFlag_encIn (f : Fld) (i : Nat) (b : Bool) (j : Nat) : (s.setFlag f i b).encIn j = s.encIn j := rfl
@[simp] theorem State.bump_mem (f : Fld) (i n : Nat) : (s.bump f i n).mem = s.mem := rfl
@[simp] theorem State.bump_poison (f : Fld) (i n : Nat) : (s.bump f i n).poison = s.poison := rfl
@[simp] theorem State.bump_hub (f : Fld) (i n : Nat) : (s.bump f i n).hub = s.hub := rfl
@[simp] theorem State.bump_cp (f : Fld) (i n : Nat) : (s.bump f i n).cp = s.cp := rfl
@[simp] theorem State.bump_rcd (f : Fld) (i n : Nat) : (s.bump f i n).rcd = s.rcd := rfl
@[simp] theorem State.bump_exports (f : Fld) (i n : Nat) : (s.bump f i n).exports = s.exports := rfl
@[simp] theorem State.bump_pols (f : Fld) (i n : Nat) : (s.bump f i n).pols = s.pols := rfl
@[simp] theorem State.bump_polGen (f : Fld) (i n : Nat) : (s.bump f i n).polGen = s.polGen := rfl
@[simp] theorem State.bump_te (f : Fld) (i n : Nat) : (s.bump f i n).te = s.te := rfl
@[simp] theorem State.bump_cores (f : Fld) (i n : Nat) : (s.bump f i n).cores = s.cores := rfl
@[simp] theorem State.bump_pe (f : Fld) (i n : Nat) : (s.bump f i n).pe = s.pe := rfl
@[simp] theorem State.bump_dies (f : Fld) (i n : Nat) : (s.bump f i n).dies = s.dies := rfl
@[simp] theorem State.bump_halfLost (f : Fld) (i n : Nat) : (s.bump f i n).halfLost = s.halfLost := rfl
@[simp] theorem State.bump_halfReturning (f : Fld) (i n : Nat) : (s.bump f i n).halfReturning = s.halfReturning := rfl
@[simp] theorem State.bump_fabric (f : Fld) (i n : Nat) : (s.bump f i n).fabric = s.fabric := rfl
@[simp] theorem State.bump_dir (f : Fld) (i n : Nat) : (s.bump f i n).dir = s.dir := rfl
@[simp] theorem State.bump_io (f : Fld) (i n : Nat) : (s.bump f i n).io = s.io := rfl
@[simp] theorem State.bump_mcs (f : Fld) (i n : Nat) : (s.bump f i n).mcs = s.mcs := rfl
@[simp] theorem State.bump_berm (f : Fld) (i n : Nat) : (s.bump f i n).berm = s.berm := rfl
@[simp] theorem State.bump_ing (f : Fld) (i n : Nat) : (s.bump f i n).ing = s.ing := rfl
@[simp] theorem State.bump_links (f : Fld) (i n : Nat) : (s.bump f i n).links = s.links := rfl
@[simp] theorem State.bump_dike (f : Fld) (i n : Nat) : (s.bump f i n).dike = s.dike := rfl
@[simp] theorem State.bump_cas (f : Fld) (i n : Nat) : (s.bump f i n).cas = s.cas := rfl
@[simp] theorem State.bump_pow (f : Fld) (i n : Nat) : (s.bump f i n).pow = s.pow := rfl
@[simp] theorem State.bump_out (f : Fld) (i n : Nat) : (s.bump f i n).out = s.out := rfl
@[simp] theorem State.bump_free (f : Fld) (i n : Nat) : (s.bump f i n).free = s.free := rfl
@[simp] theorem State.bump_pending (f : Fld) (i n : Nat) : (s.bump f i n).pending = s.pending := rfl
@[simp] theorem State.bump_sq (f : Fld) (i n : Nat) (j : Nat) : (s.bump f i n).sq j = s.sq j := rfl
@[simp] theorem State.bump_cq (f : Fld) (i n : Nat) (j : Nat) : (s.bump f i n).cq j = s.cq j := rfl
@[simp] theorem State.bump_slot (f : Fld) (i n : Nat) (j : Nat) : (s.bump f i n).slot j = s.slot j := rfl
@[simp] theorem State.bump_polder (f : Fld) (i n : Nat) (j : Nat) : (s.bump f i n).polder j = s.polder j := rfl
@[simp] theorem State.bump_coreOf (f : Fld) (i n : Nat) (j k2 : Nat) : (s.bump f i n).coreOf j k2 = s.coreOf j k2 := rfl
@[simp] theorem State.bump_core (f : Fld) (i n : Nat) (j : Nat) : (s.bump f i n).core j = s.core j := rfl
@[simp] theorem State.bump_die (f : Fld) (i n : Nat) (j : Nat) : (s.bump f i n).die j = s.die j := rfl
@[simp] theorem State.bump_peSt (f : Fld) (i n : Nat) (j : Nat) : (s.bump f i n).peSt j = s.peSt j := rfl
@[simp] theorem State.bump_lost (f : Fld) (i n : Nat) (j : Nat) : (s.bump f i n).lost j = s.lost j := rfl
@[simp] theorem State.bump_strm (f : Fld) (i n : Nat) (j : Nat) : (s.bump f i n).strm j = s.strm j := rfl
@[simp] theorem State.bump_lk (f : Fld) (i n : Nat) (j : LinkEnd) : (s.bump f i n).lk j = s.lk j := rfl
@[simp] theorem State.bump_mc (f : Fld) (i n : Nat) (j : Nat) : (s.bump f i n).mc j = s.mc j := rfl
@[simp] theorem State.bump_chan (f : Fld) (i n : Nat) (j : Nat) : (s.bump f i n).chan j = s.chan j := rfl
@[simp] theorem State.bump_csPort (f : Fld) (i n : Nat) (j : Nat) : (s.bump f i n).csPort j = s.csPort j := rfl
@[simp] theorem State.bump_ctx (f : Fld) (i n : Nat) (j : Nat) : (s.bump f i n).ctx j = s.ctx j := rfl
@[simp] theorem State.bump_encIn (f : Fld) (i n : Nat) (j : Nat) : (s.bump f i n).encIn j = s.encIn j := rfl
@[simp] theorem State.emit_regs (w : Wire) : (s.emit w).regs = s.regs := rfl
@[simp] theorem State.emit_mem (w : Wire) : (s.emit w).mem = s.mem := rfl
@[simp] theorem State.emit_poison (w : Wire) : (s.emit w).poison = s.poison := rfl
@[simp] theorem State.emit_hub (w : Wire) : (s.emit w).hub = s.hub := rfl
@[simp] theorem State.emit_cp (w : Wire) : (s.emit w).cp = s.cp := rfl
@[simp] theorem State.emit_rcd (w : Wire) : (s.emit w).rcd = s.rcd := rfl
@[simp] theorem State.emit_exports (w : Wire) : (s.emit w).exports = s.exports := rfl
@[simp] theorem State.emit_pols (w : Wire) : (s.emit w).pols = s.pols := rfl
@[simp] theorem State.emit_polGen (w : Wire) : (s.emit w).polGen = s.polGen := rfl
@[simp] theorem State.emit_te (w : Wire) : (s.emit w).te = s.te := rfl
@[simp] theorem State.emit_cores (w : Wire) : (s.emit w).cores = s.cores := rfl
@[simp] theorem State.emit_pe (w : Wire) : (s.emit w).pe = s.pe := rfl
@[simp] theorem State.emit_dies (w : Wire) : (s.emit w).dies = s.dies := rfl
@[simp] theorem State.emit_halfLost (w : Wire) : (s.emit w).halfLost = s.halfLost := rfl
@[simp] theorem State.emit_halfReturning (w : Wire) : (s.emit w).halfReturning = s.halfReturning := rfl
@[simp] theorem State.emit_fabric (w : Wire) : (s.emit w).fabric = s.fabric := rfl
@[simp] theorem State.emit_dir (w : Wire) : (s.emit w).dir = s.dir := rfl
@[simp] theorem State.emit_io (w : Wire) : (s.emit w).io = s.io := rfl
@[simp] theorem State.emit_mcs (w : Wire) : (s.emit w).mcs = s.mcs := rfl
@[simp] theorem State.emit_berm (w : Wire) : (s.emit w).berm = s.berm := rfl
@[simp] theorem State.emit_ing (w : Wire) : (s.emit w).ing = s.ing := rfl
@[simp] theorem State.emit_links (w : Wire) : (s.emit w).links = s.links := rfl
@[simp] theorem State.emit_dike (w : Wire) : (s.emit w).dike = s.dike := rfl
@[simp] theorem State.emit_cas (w : Wire) : (s.emit w).cas = s.cas := rfl
@[simp] theorem State.emit_pow (w : Wire) : (s.emit w).pow = s.pow := rfl
@[simp] theorem State.emit_free (w : Wire) : (s.emit w).free = s.free := rfl
@[simp] theorem State.emit_pending (w : Wire) : (s.emit w).pending = s.pending := rfl
@[simp] theorem State.emit_get (w : Wire) (fl : Fld) (ix : Nat) : (s.emit w).get fl ix = s.get fl ix := rfl
@[simp] theorem State.emit_flag (w : Wire) (fl : Fld) (ix : Nat) : (s.emit w).flag fl ix = s.flag fl ix := rfl
@[simp] theorem State.emit_now (w : Wire) : (s.emit w).now = s.now := rfl
@[simp] theorem State.emit_activeHalf (w : Wire) : (s.emit w).activeHalf = s.activeHalf := rfl
@[simp] theorem State.emit_guardedCfg (w : Wire) : (s.emit w).guardedCfg = s.guardedCfg := rfl
@[simp] theorem State.emit_sq (w : Wire) (j : Nat) : (s.emit w).sq j = s.sq j := rfl
@[simp] theorem State.emit_cq (w : Wire) (j : Nat) : (s.emit w).cq j = s.cq j := rfl
@[simp] theorem State.emit_slot (w : Wire) (j : Nat) : (s.emit w).slot j = s.slot j := rfl
@[simp] theorem State.emit_polder (w : Wire) (j : Nat) : (s.emit w).polder j = s.polder j := rfl
@[simp] theorem State.emit_coreOf (w : Wire) (j k2 : Nat) : (s.emit w).coreOf j k2 = s.coreOf j k2 := rfl
@[simp] theorem State.emit_core (w : Wire) (j : Nat) : (s.emit w).core j = s.core j := rfl
@[simp] theorem State.emit_die (w : Wire) (j : Nat) : (s.emit w).die j = s.die j := rfl
@[simp] theorem State.emit_peSt (w : Wire) (j : Nat) : (s.emit w).peSt j = s.peSt j := rfl
@[simp] theorem State.emit_lost (w : Wire) (j : Nat) : (s.emit w).lost j = s.lost j := rfl
@[simp] theorem State.emit_strm (w : Wire) (j : Nat) : (s.emit w).strm j = s.strm j := rfl
@[simp] theorem State.emit_lk (w : Wire) (j : LinkEnd) : (s.emit w).lk j = s.lk j := rfl
@[simp] theorem State.emit_mc (w : Wire) (j : Nat) : (s.emit w).mc j = s.mc j := rfl
@[simp] theorem State.emit_chan (w : Wire) (j : Nat) : (s.emit w).chan j = s.chan j := rfl
@[simp] theorem State.emit_csPort (w : Wire) (j : Nat) : (s.emit w).csPort j = s.csPort j := rfl
@[simp] theorem State.emit_ctx (w : Wire) (j : Nat) : (s.emit w).ctx j = s.ctx j := rfl
@[simp] theorem State.emit_encIn (w : Wire) (j : Nat) : (s.emit w).encIn j = s.encIn j := rfl
@[simp] theorem State.drawn_regs  : (s.drawn).regs = s.regs := rfl
@[simp] theorem State.drawn_mem  : (s.drawn).mem = s.mem := rfl
@[simp] theorem State.drawn_poison  : (s.drawn).poison = s.poison := rfl
@[simp] theorem State.drawn_hub  : (s.drawn).hub = s.hub := rfl
@[simp] theorem State.drawn_cp  : (s.drawn).cp = s.cp := rfl
@[simp] theorem State.drawn_rcd  : (s.drawn).rcd = s.rcd := rfl
@[simp] theorem State.drawn_exports  : (s.drawn).exports = s.exports := rfl
@[simp] theorem State.drawn_pols  : (s.drawn).pols = s.pols := rfl
@[simp] theorem State.drawn_polGen  : (s.drawn).polGen = s.polGen := rfl
@[simp] theorem State.drawn_te  : (s.drawn).te = s.te := rfl
@[simp] theorem State.drawn_cores  : (s.drawn).cores = s.cores := rfl
@[simp] theorem State.drawn_pe  : (s.drawn).pe = s.pe := rfl
@[simp] theorem State.drawn_dies  : (s.drawn).dies = s.dies := rfl
@[simp] theorem State.drawn_halfLost  : (s.drawn).halfLost = s.halfLost := rfl
@[simp] theorem State.drawn_halfReturning  : (s.drawn).halfReturning = s.halfReturning := rfl
@[simp] theorem State.drawn_fabric  : (s.drawn).fabric = s.fabric := rfl
@[simp] theorem State.drawn_dir  : (s.drawn).dir = s.dir := rfl
@[simp] theorem State.drawn_io  : (s.drawn).io = s.io := rfl
@[simp] theorem State.drawn_mcs  : (s.drawn).mcs = s.mcs := rfl
@[simp] theorem State.drawn_berm  : (s.drawn).berm = s.berm := rfl
@[simp] theorem State.drawn_ing  : (s.drawn).ing = s.ing := rfl
@[simp] theorem State.drawn_links  : (s.drawn).links = s.links := rfl
@[simp] theorem State.drawn_dike  : (s.drawn).dike = s.dike := rfl
@[simp] theorem State.drawn_cas  : (s.drawn).cas = s.cas := rfl
@[simp] theorem State.drawn_pow  : (s.drawn).pow = s.pow := rfl
@[simp] theorem State.drawn_out  : (s.drawn).out = s.out := rfl
@[simp] theorem State.drawn_pending  : (s.drawn).pending = s.pending := rfl
@[simp] theorem State.drawn_get (fl : Fld) (ix : Nat) : (s.drawn).get fl ix = s.get fl ix := rfl
@[simp] theorem State.drawn_flag (fl : Fld) (ix : Nat) : (s.drawn).flag fl ix = s.flag fl ix := rfl
@[simp] theorem State.drawn_now  : (s.drawn).now = s.now := rfl
@[simp] theorem State.drawn_activeHalf  : (s.drawn).activeHalf = s.activeHalf := rfl
@[simp] theorem State.drawn_guardedCfg  : (s.drawn).guardedCfg = s.guardedCfg := rfl
@[simp] theorem State.drawn_sq (j : Nat) : (s.drawn).sq j = s.sq j := rfl
@[simp] theorem State.drawn_cq (j : Nat) : (s.drawn).cq j = s.cq j := rfl
@[simp] theorem State.drawn_slot (j : Nat) : (s.drawn).slot j = s.slot j := rfl
@[simp] theorem State.drawn_polder (j : Nat) : (s.drawn).polder j = s.polder j := rfl
@[simp] theorem State.drawn_coreOf (j k2 : Nat) : (s.drawn).coreOf j k2 = s.coreOf j k2 := rfl
@[simp] theorem State.drawn_core (j : Nat) : (s.drawn).core j = s.core j := rfl
@[simp] theorem State.drawn_die (j : Nat) : (s.drawn).die j = s.die j := rfl
@[simp] theorem State.drawn_peSt (j : Nat) : (s.drawn).peSt j = s.peSt j := rfl
@[simp] theorem State.drawn_lost (j : Nat) : (s.drawn).lost j = s.lost j := rfl
@[simp] theorem State.drawn_strm (j : Nat) : (s.drawn).strm j = s.strm j := rfl
@[simp] theorem State.drawn_lk (j : LinkEnd) : (s.drawn).lk j = s.lk j := rfl
@[simp] theorem State.drawn_mc (j : Nat) : (s.drawn).mc j = s.mc j := rfl
@[simp] theorem State.drawn_chan (j : Nat) : (s.drawn).chan j = s.chan j := rfl
@[simp] theorem State.drawn_csPort (j : Nat) : (s.drawn).csPort j = s.csPort j := rfl
@[simp] theorem State.drawn_ctx (j : Nat) : (s.drawn).ctx j = s.ctx j := rfl
@[simp] theorem State.drawn_encIn (j : Nat) : (s.drawn).encIn j = s.encIn j := rfl
@[simp] theorem State.setPolder_regs (p : Nat) (v : Option Polder) : (s.setPolder p v).regs = s.regs := rfl
@[simp] theorem State.setPolder_mem (p : Nat) (v : Option Polder) : (s.setPolder p v).mem = s.mem := rfl
@[simp] theorem State.setPolder_poison (p : Nat) (v : Option Polder) : (s.setPolder p v).poison = s.poison := rfl
@[simp] theorem State.setPolder_hub (p : Nat) (v : Option Polder) : (s.setPolder p v).hub = s.hub := rfl
@[simp] theorem State.setPolder_cp (p : Nat) (v : Option Polder) : (s.setPolder p v).cp = s.cp := rfl
@[simp] theorem State.setPolder_rcd (p : Nat) (v : Option Polder) : (s.setPolder p v).rcd = s.rcd := rfl
@[simp] theorem State.setPolder_exports (p : Nat) (v : Option Polder) : (s.setPolder p v).exports = s.exports := rfl
@[simp] theorem State.setPolder_polGen (p : Nat) (v : Option Polder) : (s.setPolder p v).polGen = s.polGen := rfl
@[simp] theorem State.setPolder_te (p : Nat) (v : Option Polder) : (s.setPolder p v).te = s.te := rfl
@[simp] theorem State.setPolder_cores (p : Nat) (v : Option Polder) : (s.setPolder p v).cores = s.cores := rfl
@[simp] theorem State.setPolder_pe (p : Nat) (v : Option Polder) : (s.setPolder p v).pe = s.pe := rfl
@[simp] theorem State.setPolder_dies (p : Nat) (v : Option Polder) : (s.setPolder p v).dies = s.dies := rfl
@[simp] theorem State.setPolder_halfLost (p : Nat) (v : Option Polder) : (s.setPolder p v).halfLost = s.halfLost := rfl
@[simp] theorem State.setPolder_halfReturning (p : Nat) (v : Option Polder) : (s.setPolder p v).halfReturning = s.halfReturning := rfl
@[simp] theorem State.setPolder_fabric (p : Nat) (v : Option Polder) : (s.setPolder p v).fabric = s.fabric := rfl
@[simp] theorem State.setPolder_dir (p : Nat) (v : Option Polder) : (s.setPolder p v).dir = s.dir := rfl
@[simp] theorem State.setPolder_io (p : Nat) (v : Option Polder) : (s.setPolder p v).io = s.io := rfl
@[simp] theorem State.setPolder_mcs (p : Nat) (v : Option Polder) : (s.setPolder p v).mcs = s.mcs := rfl
@[simp] theorem State.setPolder_berm (p : Nat) (v : Option Polder) : (s.setPolder p v).berm = s.berm := rfl
@[simp] theorem State.setPolder_ing (p : Nat) (v : Option Polder) : (s.setPolder p v).ing = s.ing := rfl
@[simp] theorem State.setPolder_links (p : Nat) (v : Option Polder) : (s.setPolder p v).links = s.links := rfl
@[simp] theorem State.setPolder_dike (p : Nat) (v : Option Polder) : (s.setPolder p v).dike = s.dike := rfl
@[simp] theorem State.setPolder_cas (p : Nat) (v : Option Polder) : (s.setPolder p v).cas = s.cas := rfl
@[simp] theorem State.setPolder_pow (p : Nat) (v : Option Polder) : (s.setPolder p v).pow = s.pow := rfl
@[simp] theorem State.setPolder_out (p : Nat) (v : Option Polder) : (s.setPolder p v).out = s.out := rfl
@[simp] theorem State.setPolder_free (p : Nat) (v : Option Polder) : (s.setPolder p v).free = s.free := rfl
@[simp] theorem State.setPolder_pending (p : Nat) (v : Option Polder) : (s.setPolder p v).pending = s.pending := rfl
@[simp] theorem State.setPolder_get (p : Nat) (v : Option Polder) (fl : Fld) (ix : Nat) : (s.setPolder p v).get fl ix = s.get fl ix := rfl
@[simp] theorem State.setPolder_flag (p : Nat) (v : Option Polder) (fl : Fld) (ix : Nat) : (s.setPolder p v).flag fl ix = s.flag fl ix := rfl
@[simp] theorem State.setPolder_now (p : Nat) (v : Option Polder) : (s.setPolder p v).now = s.now := rfl
@[simp] theorem State.setPolder_activeHalf (p : Nat) (v : Option Polder) : (s.setPolder p v).activeHalf = s.activeHalf := rfl
@[simp] theorem State.setPolder_guardedCfg (p : Nat) (v : Option Polder) : (s.setPolder p v).guardedCfg = s.guardedCfg := rfl
@[simp] theorem State.setPolder_sq (p : Nat) (v : Option Polder) (j : Nat) : (s.setPolder p v).sq j = s.sq j := rfl
@[simp] theorem State.setPolder_cq (p : Nat) (v : Option Polder) (j : Nat) : (s.setPolder p v).cq j = s.cq j := rfl
@[simp] theorem State.setPolder_slot (p : Nat) (v : Option Polder) (j : Nat) : (s.setPolder p v).slot j = s.slot j := rfl
@[simp] theorem State.setPolder_core (p : Nat) (v : Option Polder) (j : Nat) : (s.setPolder p v).core j = s.core j := rfl
@[simp] theorem State.setPolder_die (p : Nat) (v : Option Polder) (j : Nat) : (s.setPolder p v).die j = s.die j := rfl
@[simp] theorem State.setPolder_peSt (p : Nat) (v : Option Polder) (j : Nat) : (s.setPolder p v).peSt j = s.peSt j := rfl
@[simp] theorem State.setPolder_lost (p : Nat) (v : Option Polder) (j : Nat) : (s.setPolder p v).lost j = s.lost j := rfl
@[simp] theorem State.setPolder_strm (p : Nat) (v : Option Polder) (j : Nat) : (s.setPolder p v).strm j = s.strm j := rfl
@[simp] theorem State.setPolder_lk (p : Nat) (v : Option Polder) (j : LinkEnd) : (s.setPolder p v).lk j = s.lk j := rfl
@[simp] theorem State.setPolder_mc (p : Nat) (v : Option Polder) (j : Nat) : (s.setPolder p v).mc j = s.mc j := rfl
@[simp] theorem State.setPolder_chan (p : Nat) (v : Option Polder) (j : Nat) : (s.setPolder p v).chan j = s.chan j := rfl
@[simp] theorem State.setPolder_csPort (p : Nat) (v : Option Polder) (j : Nat) : (s.setPolder p v).csPort j = s.csPort j := rfl
@[simp] theorem State.setPolder_ctx (p : Nat) (v : Option Polder) (j : Nat) : (s.setPolder p v).ctx j = s.ctx j := rfl
@[simp] theorem State.setPolder_encIn (p : Nat) (v : Option Polder) (j : Nat) : (s.setPolder p v).encIn j = s.encIn j := rfl
@[simp] theorem State.updPolder_regs (p : Nat) (g : Polder → Polder) : (s.updPolder p g).regs = s.regs := by unfold State.updPolder; split <;> rfl
@[simp] theorem State.updPolder_mem (p : Nat) (g : Polder → Polder) : (s.updPolder p g).mem = s.mem := by unfold State.updPolder; split <;> rfl
@[simp] theorem State.updPolder_poison (p : Nat) (g : Polder → Polder) : (s.updPolder p g).poison = s.poison := by unfold State.updPolder; split <;> rfl
@[simp] theorem State.updPolder_hub (p : Nat) (g : Polder → Polder) : (s.updPolder p g).hub = s.hub := by unfold State.updPolder; split <;> rfl
@[simp] theorem State.updPolder_cp (p : Nat) (g : Polder → Polder) : (s.updPolder p g).cp = s.cp := by unfold State.updPolder; split <;> rfl
@[simp] theorem State.updPolder_rcd (p : Nat) (g : Polder → Polder) : (s.updPolder p g).rcd = s.rcd := by unfold State.updPolder; split <;> rfl
@[simp] theorem State.updPolder_exports (p : Nat) (g : Polder → Polder) : (s.updPolder p g).exports = s.exports := by unfold State.updPolder; split <;> rfl
@[simp] theorem State.updPolder_polGen (p : Nat) (g : Polder → Polder) : (s.updPolder p g).polGen = s.polGen := by unfold State.updPolder; split <;> rfl
@[simp] theorem State.updPolder_te (p : Nat) (g : Polder → Polder) : (s.updPolder p g).te = s.te := by unfold State.updPolder; split <;> rfl
@[simp] theorem State.updPolder_cores (p : Nat) (g : Polder → Polder) : (s.updPolder p g).cores = s.cores := by unfold State.updPolder; split <;> rfl
@[simp] theorem State.updPolder_pe (p : Nat) (g : Polder → Polder) : (s.updPolder p g).pe = s.pe := by unfold State.updPolder; split <;> rfl
@[simp] theorem State.updPolder_dies (p : Nat) (g : Polder → Polder) : (s.updPolder p g).dies = s.dies := by unfold State.updPolder; split <;> rfl
@[simp] theorem State.updPolder_halfLost (p : Nat) (g : Polder → Polder) : (s.updPolder p g).halfLost = s.halfLost := by unfold State.updPolder; split <;> rfl
@[simp] theorem State.updPolder_halfReturning (p : Nat) (g : Polder → Polder) : (s.updPolder p g).halfReturning = s.halfReturning := by unfold State.updPolder; split <;> rfl
@[simp] theorem State.updPolder_fabric (p : Nat) (g : Polder → Polder) : (s.updPolder p g).fabric = s.fabric := by unfold State.updPolder; split <;> rfl
@[simp] theorem State.updPolder_dir (p : Nat) (g : Polder → Polder) : (s.updPolder p g).dir = s.dir := by unfold State.updPolder; split <;> rfl
@[simp] theorem State.updPolder_io (p : Nat) (g : Polder → Polder) : (s.updPolder p g).io = s.io := by unfold State.updPolder; split <;> rfl
@[simp] theorem State.updPolder_mcs (p : Nat) (g : Polder → Polder) : (s.updPolder p g).mcs = s.mcs := by unfold State.updPolder; split <;> rfl
@[simp] theorem State.updPolder_berm (p : Nat) (g : Polder → Polder) : (s.updPolder p g).berm = s.berm := by unfold State.updPolder; split <;> rfl
@[simp] theorem State.updPolder_ing (p : Nat) (g : Polder → Polder) : (s.updPolder p g).ing = s.ing := by unfold State.updPolder; split <;> rfl
@[simp] theorem State.updPolder_links (p : Nat) (g : Polder → Polder) : (s.updPolder p g).links = s.links := by unfold State.updPolder; split <;> rfl
@[simp] theorem State.updPolder_dike (p : Nat) (g : Polder → Polder) : (s.updPolder p g).dike = s.dike := by unfold State.updPolder; split <;> rfl
@[simp] theorem State.updPolder_cas (p : Nat) (g : Polder → Polder) : (s.updPolder p g).cas = s.cas := by unfold State.updPolder; split <;> rfl
@[simp] theorem State.updPolder_pow (p : Nat) (g : Polder → Polder) : (s.updPolder p g).pow = s.pow := by unfold State.updPolder; split <;> rfl
@[simp] theorem State.updPolder_out (p : Nat) (g : Polder → Polder) : (s.updPolder p g).out = s.out := by unfold State.updPolder; split <;> rfl
@[simp] theorem State.updPolder_free (p : Nat) (g : Polder → Polder) : (s.updPolder p g).free = s.free := by unfold State.updPolder; split <;> rfl
@[simp] theorem State.updPolder_pending (p : Nat) (g : Polder → Polder) : (s.updPolder p g).pending = s.pending := by unfold State.updPolder; split <;> rfl
@[simp] theorem State.updPolder_get (p : Nat) (g : Polder → Polder) (fl : Fld) (ix : Nat) : (s.updPolder p g).get fl ix = s.get fl ix := by unfold State.updPolder; split <;> rfl
@[simp] theorem State.updPolder_flag (p : Nat) (g : Polder → Polder) (fl : Fld) (ix : Nat) : (s.updPolder p g).flag fl ix = s.flag fl ix := by unfold State.updPolder; split <;> rfl
@[simp] theorem State.updPolder_now (p : Nat) (g : Polder → Polder) : (s.updPolder p g).now = s.now := by unfold State.updPolder; split <;> rfl
@[simp] theorem State.updPolder_activeHalf (p : Nat) (g : Polder → Polder) : (s.updPolder p g).activeHalf = s.activeHalf := by unfold State.updPolder; split <;> rfl
@[simp] theorem State.updPolder_guardedCfg (p : Nat) (g : Polder → Polder) : (s.updPolder p g).guardedCfg = s.guardedCfg := by unfold State.updPolder; split <;> rfl
@[simp] theorem State.updPolder_sq (p : Nat) (g : Polder → Polder) (j : Nat) : (s.updPolder p g).sq j = s.sq j := by unfold State.updPolder; split <;> rfl
@[simp] theorem State.updPolder_cq (p : Nat) (g : Polder → Polder) (j : Nat) : (s.updPolder p g).cq j = s.cq j := by unfold State.updPolder; split <;> rfl
@[simp] theorem State.updPolder_slot (p : Nat) (g : Polder → Polder) (j : Nat) : (s.updPolder p g).slot j = s.slot j := by unfold State.updPolder; split <;> rfl
@[simp] theorem State.updPolder_core (p : Nat) (g : Polder → Polder) (j : Nat) : (s.updPolder p g).core j = s.core j := by unfold State.updPolder; split <;> rfl
@[simp] theorem State.updPolder_die (p : Nat) (g : Polder → Polder) (j : Nat) : (s.updPolder p g).die j = s.die j := by unfold State.updPolder; split <;> rfl
@[simp] theorem State.updPolder_peSt (p : Nat) (g : Polder → Polder) (j : Nat) : (s.updPolder p g).peSt j = s.peSt j := by unfold State.updPolder; split <;> rfl
@[simp] theorem State.updPolder_lost (p : Nat) (g : Polder → Polder) (j : Nat) : (s.updPolder p g).lost j = s.lost j := by unfold State.updPolder; split <;> rfl
@[simp] theorem State.updPolder_strm (p : Nat) (g : Polder → Polder) (j : Nat) : (s.updPolder p g).strm j = s.strm j := by unfold State.updPolder; split <;> rfl
@[simp] theorem State.updPolder_lk (p : Nat) (g : Polder → Polder) (j : LinkEnd) : (s.updPolder p g).lk j = s.lk j := by unfold State.updPolder; split <;> rfl
@[simp] theorem State.updPolder_mc (p : Nat) (g : Polder → Polder) (j : Nat) : (s.updPolder p g).mc j = s.mc j := by unfold State.updPolder; split <;> rfl
@[simp] theorem State.updPolder_chan (p : Nat) (g : Polder → Polder) (j : Nat) : (s.updPolder p g).chan j = s.chan j := by unfold State.updPolder; split <;> rfl
@[simp] theorem State.updPolder_csPort (p : Nat) (g : Polder → Polder) (j : Nat) : (s.updPolder p g).csPort j = s.csPort j := by unfold State.updPolder; split <;> rfl
@[simp] theorem State.updPolder_ctx (p : Nat) (g : Polder → Polder) (j : Nat) : (s.updPolder p g).ctx j = s.ctx j := by unfold State.updPolder; split <;> rfl
@[simp] theorem State.updPolder_encIn (p : Nat) (g : Polder → Polder) (j : Nat) : (s.updPolder p g).encIn j = s.encIn j := by unfold State.updPolder; split <;> rfl
@[simp] theorem State.setCore_regs (g : Nat) (c : Core) : (s.setCore g c).regs = s.regs := rfl
@[simp] theorem State.setCore_mem (g : Nat) (c : Core) : (s.setCore g c).mem = s.mem := rfl
@[simp] theorem State.setCore_poison (g : Nat) (c : Core) : (s.setCore g c).poison = s.poison := rfl
@[simp] theorem State.setCore_hub (g : Nat) (c : Core) : (s.setCore g c).hub = s.hub := rfl
@[simp] theorem State.setCore_cp (g : Nat) (c : Core) : (s.setCore g c).cp = s.cp := rfl
@[simp] theorem State.setCore_rcd (g : Nat) (c : Core) : (s.setCore g c).rcd = s.rcd := rfl
@[simp] theorem State.setCore_exports (g : Nat) (c : Core) : (s.setCore g c).exports = s.exports := rfl
@[simp] theorem State.setCore_pols (g : Nat) (c : Core) : (s.setCore g c).pols = s.pols := rfl
@[simp] theorem State.setCore_polGen (g : Nat) (c : Core) : (s.setCore g c).polGen = s.polGen := rfl
@[simp] theorem State.setCore_te (g : Nat) (c : Core) : (s.setCore g c).te = s.te := rfl
@[simp] theorem State.setCore_pe (g : Nat) (c : Core) : (s.setCore g c).pe = s.pe := rfl
@[simp] theorem State.setCore_dies (g : Nat) (c : Core) : (s.setCore g c).dies = s.dies := rfl
@[simp] theorem State.setCore_halfLost (g : Nat) (c : Core) : (s.setCore g c).halfLost = s.halfLost := rfl
@[simp] theorem State.setCore_halfReturning (g : Nat) (c : Core) : (s.setCore g c).halfReturning = s.halfReturning := rfl
@[simp] theorem State.setCore_fabric (g : Nat) (c : Core) : (s.setCore g c).fabric = s.fabric := rfl
@[simp] theorem State.setCore_dir (g : Nat) (c : Core) : (s.setCore g c).dir = s.dir := rfl
@[simp] theorem State.setCore_io (g : Nat) (c : Core) : (s.setCore g c).io = s.io := rfl
@[simp] theorem State.setCore_mcs (g : Nat) (c : Core) : (s.setCore g c).mcs = s.mcs := rfl
@[simp] theorem State.setCore_berm (g : Nat) (c : Core) : (s.setCore g c).berm = s.berm := rfl
@[simp] theorem State.setCore_ing (g : Nat) (c : Core) : (s.setCore g c).ing = s.ing := rfl
@[simp] theorem State.setCore_links (g : Nat) (c : Core) : (s.setCore g c).links = s.links := rfl
@[simp] theorem State.setCore_dike (g : Nat) (c : Core) : (s.setCore g c).dike = s.dike := rfl
@[simp] theorem State.setCore_cas (g : Nat) (c : Core) : (s.setCore g c).cas = s.cas := rfl
@[simp] theorem State.setCore_pow (g : Nat) (c : Core) : (s.setCore g c).pow = s.pow := rfl
@[simp] theorem State.setCore_out (g : Nat) (c : Core) : (s.setCore g c).out = s.out := rfl
@[simp] theorem State.setCore_free (g : Nat) (c : Core) : (s.setCore g c).free = s.free := rfl
@[simp] theorem State.setCore_pending (g : Nat) (c : Core) : (s.setCore g c).pending = s.pending := rfl
@[simp] theorem State.setCore_get (g : Nat) (c : Core) (fl : Fld) (ix : Nat) : (s.setCore g c).get fl ix = s.get fl ix := rfl
@[simp] theorem State.setCore_flag (g : Nat) (c : Core) (fl : Fld) (ix : Nat) : (s.setCore g c).flag fl ix = s.flag fl ix := rfl
@[simp] theorem State.setCore_now (g : Nat) (c : Core) : (s.setCore g c).now = s.now := rfl
@[simp] theorem State.setCore_activeHalf (g : Nat) (c : Core) : (s.setCore g c).activeHalf = s.activeHalf := rfl
@[simp] theorem State.setCore_guardedCfg (g : Nat) (c : Core) : (s.setCore g c).guardedCfg = s.guardedCfg := rfl
@[simp] theorem State.setCore_sq (g : Nat) (c : Core) (j : Nat) : (s.setCore g c).sq j = s.sq j := rfl
@[simp] theorem State.setCore_cq (g : Nat) (c : Core) (j : Nat) : (s.setCore g c).cq j = s.cq j := rfl
@[simp] theorem State.setCore_slot (g : Nat) (c : Core) (j : Nat) : (s.setCore g c).slot j = s.slot j := rfl
@[simp] theorem State.setCore_polder (g : Nat) (c : Core) (j : Nat) : (s.setCore g c).polder j = s.polder j := rfl
@[simp] theorem State.setCore_coreOf (g : Nat) (c : Core) (j k2 : Nat) : (s.setCore g c).coreOf j k2 = s.coreOf j k2 := rfl
@[simp] theorem State.setCore_die (g : Nat) (c : Core) (j : Nat) : (s.setCore g c).die j = s.die j := rfl
@[simp] theorem State.setCore_peSt (g : Nat) (c : Core) (j : Nat) : (s.setCore g c).peSt j = s.peSt j := rfl
@[simp] theorem State.setCore_lost (g : Nat) (c : Core) (j : Nat) : (s.setCore g c).lost j = s.lost j := rfl
@[simp] theorem State.setCore_strm (g : Nat) (c : Core) (j : Nat) : (s.setCore g c).strm j = s.strm j := rfl
@[simp] theorem State.setCore_lk (g : Nat) (c : Core) (j : LinkEnd) : (s.setCore g c).lk j = s.lk j := rfl
@[simp] theorem State.setCore_mc (g : Nat) (c : Core) (j : Nat) : (s.setCore g c).mc j = s.mc j := rfl
@[simp] theorem State.setCore_chan (g : Nat) (c : Core) (j : Nat) : (s.setCore g c).chan j = s.chan j := rfl
@[simp] theorem State.setCore_csPort (g : Nat) (c : Core) (j : Nat) : (s.setCore g c).csPort j = s.csPort j := rfl
@[simp] theorem State.setCore_ctx (g : Nat) (c : Core) (j : Nat) : (s.setCore g c).ctx j = s.ctx j := rfl
@[simp] theorem State.setCore_encIn (g : Nat) (c : Core) (j : Nat) : (s.setCore g c).encIn j = s.encIn j := rfl
@[simp] theorem State.updCore_regs (g : Nat) (h : Core → Core) : (s.updCore g h).regs = s.regs := rfl
@[simp] theorem State.updCore_mem (g : Nat) (h : Core → Core) : (s.updCore g h).mem = s.mem := rfl
@[simp] theorem State.updCore_poison (g : Nat) (h : Core → Core) : (s.updCore g h).poison = s.poison := rfl
@[simp] theorem State.updCore_hub (g : Nat) (h : Core → Core) : (s.updCore g h).hub = s.hub := rfl
@[simp] theorem State.updCore_cp (g : Nat) (h : Core → Core) : (s.updCore g h).cp = s.cp := rfl
@[simp] theorem State.updCore_rcd (g : Nat) (h : Core → Core) : (s.updCore g h).rcd = s.rcd := rfl
@[simp] theorem State.updCore_exports (g : Nat) (h : Core → Core) : (s.updCore g h).exports = s.exports := rfl
@[simp] theorem State.updCore_pols (g : Nat) (h : Core → Core) : (s.updCore g h).pols = s.pols := rfl
@[simp] theorem State.updCore_polGen (g : Nat) (h : Core → Core) : (s.updCore g h).polGen = s.polGen := rfl
@[simp] theorem State.updCore_te (g : Nat) (h : Core → Core) : (s.updCore g h).te = s.te := rfl
@[simp] theorem State.updCore_pe (g : Nat) (h : Core → Core) : (s.updCore g h).pe = s.pe := rfl
@[simp] theorem State.updCore_dies (g : Nat) (h : Core → Core) : (s.updCore g h).dies = s.dies := rfl
@[simp] theorem State.updCore_halfLost (g : Nat) (h : Core → Core) : (s.updCore g h).halfLost = s.halfLost := rfl
@[simp] theorem State.updCore_halfReturning (g : Nat) (h : Core → Core) : (s.updCore g h).halfReturning = s.halfReturning := rfl
@[simp] theorem State.updCore_fabric (g : Nat) (h : Core → Core) : (s.updCore g h).fabric = s.fabric := rfl
@[simp] theorem State.updCore_dir (g : Nat) (h : Core → Core) : (s.updCore g h).dir = s.dir := rfl
@[simp] theorem State.updCore_io (g : Nat) (h : Core → Core) : (s.updCore g h).io = s.io := rfl
@[simp] theorem State.updCore_mcs (g : Nat) (h : Core → Core) : (s.updCore g h).mcs = s.mcs := rfl
@[simp] theorem State.updCore_berm (g : Nat) (h : Core → Core) : (s.updCore g h).berm = s.berm := rfl
@[simp] theorem State.updCore_ing (g : Nat) (h : Core → Core) : (s.updCore g h).ing = s.ing := rfl
@[simp] theorem State.updCore_links (g : Nat) (h : Core → Core) : (s.updCore g h).links = s.links := rfl
@[simp] theorem State.updCore_dike (g : Nat) (h : Core → Core) : (s.updCore g h).dike = s.dike := rfl
@[simp] theorem State.updCore_cas (g : Nat) (h : Core → Core) : (s.updCore g h).cas = s.cas := rfl
@[simp] theorem State.updCore_pow (g : Nat) (h : Core → Core) : (s.updCore g h).pow = s.pow := rfl
@[simp] theorem State.updCore_out (g : Nat) (h : Core → Core) : (s.updCore g h).out = s.out := rfl
@[simp] theorem State.updCore_free (g : Nat) (h : Core → Core) : (s.updCore g h).free = s.free := rfl
@[simp] theorem State.updCore_pending (g : Nat) (h : Core → Core) : (s.updCore g h).pending = s.pending := rfl
@[simp] theorem State.updCore_get (g : Nat) (h : Core → Core) (fl : Fld) (ix : Nat) : (s.updCore g h).get fl ix = s.get fl ix := rfl
@[simp] theorem State.updCore_flag (g : Nat) (h : Core → Core) (fl : Fld) (ix : Nat) : (s.updCore g h).flag fl ix = s.flag fl ix := rfl
@[simp] theorem State.updCore_now (g : Nat) (h : Core → Core) : (s.updCore g h).now = s.now := rfl
@[simp] theorem State.updCore_activeHalf (g : Nat) (h : Core → Core) : (s.updCore g h).activeHalf = s.activeHalf := rfl
@[simp] theorem State.updCore_guardedCfg (g : Nat) (h : Core → Core) : (s.updCore g h).guardedCfg = s.guardedCfg := rfl
@[simp] theorem State.updCore_sq (g : Nat) (h : Core → Core) (j : Nat) : (s.updCore g h).sq j = s.sq j := rfl
@[simp] theorem State.updCore_cq (g : Nat) (h : Core → Core) (j : Nat) : (s.updCore g h).cq j = s.cq j := rfl
@[simp] theorem State.updCore_slot (g : Nat) (h : Core → Core) (j : Nat) : (s.updCore g h).slot j = s.slot j := rfl
@[simp] theorem State.updCore_polder (g : Nat) (h : Core → Core) (j : Nat) : (s.updCore g h).polder j = s.polder j := rfl
@[simp] theorem State.updCore_coreOf (g : Nat) (h : Core → Core) (j k2 : Nat) : (s.updCore g h).coreOf j k2 = s.coreOf j k2 := rfl
@[simp] theorem State.updCore_die (g : Nat) (h : Core → Core) (j : Nat) : (s.updCore g h).die j = s.die j := rfl
@[simp] theorem State.updCore_peSt (g : Nat) (h : Core → Core) (j : Nat) : (s.updCore g h).peSt j = s.peSt j := rfl
@[simp] theorem State.updCore_lost (g : Nat) (h : Core → Core) (j : Nat) : (s.updCore g h).lost j = s.lost j := rfl
@[simp] theorem State.updCore_strm (g : Nat) (h : Core → Core) (j : Nat) : (s.updCore g h).strm j = s.strm j := rfl
@[simp] theorem State.updCore_lk (g : Nat) (h : Core → Core) (j : LinkEnd) : (s.updCore g h).lk j = s.lk j := rfl
@[simp] theorem State.updCore_mc (g : Nat) (h : Core → Core) (j : Nat) : (s.updCore g h).mc j = s.mc j := rfl
@[simp] theorem State.updCore_chan (g : Nat) (h : Core → Core) (j : Nat) : (s.updCore g h).chan j = s.chan j := rfl
@[simp] theorem State.updCore_csPort (g : Nat) (h : Core → Core) (j : Nat) : (s.updCore g h).csPort j = s.csPort j := rfl
@[simp] theorem State.updCore_ctx (g : Nat) (h : Core → Core) (j : Nat) : (s.updCore g h).ctx j = s.ctx j := rfl
@[simp] theorem State.updCore_encIn (g : Nat) (h : Core → Core) (j : Nat) : (s.updCore g h).encIn j = s.encIn j := rfl
@[simp] theorem State.updTick_regs (g : Nat) (h : CoreTick → CoreTick) : (s.updTick g h).regs = s.regs := rfl
@[simp] theorem State.updTick_mem (g : Nat) (h : CoreTick → CoreTick) : (s.updTick g h).mem = s.mem := rfl
@[simp] theorem State.updTick_poison (g : Nat) (h : CoreTick → CoreTick) : (s.updTick g h).poison = s.poison := rfl
@[simp] theorem State.updTick_hub (g : Nat) (h : CoreTick → CoreTick) : (s.updTick g h).hub = s.hub := rfl
@[simp] theorem State.updTick_cp (g : Nat) (h : CoreTick → CoreTick) : (s.updTick g h).cp = s.cp := rfl
@[simp] theorem State.updTick_rcd (g : Nat) (h : CoreTick → CoreTick) : (s.updTick g h).rcd = s.rcd := rfl
@[simp] theorem State.updTick_exports (g : Nat) (h : CoreTick → CoreTick) : (s.updTick g h).exports = s.exports := rfl
@[simp] theorem State.updTick_pols (g : Nat) (h : CoreTick → CoreTick) : (s.updTick g h).pols = s.pols := rfl
@[simp] theorem State.updTick_polGen (g : Nat) (h : CoreTick → CoreTick) : (s.updTick g h).polGen = s.polGen := rfl
@[simp] theorem State.updTick_te (g : Nat) (h : CoreTick → CoreTick) : (s.updTick g h).te = s.te := rfl
@[simp] theorem State.updTick_pe (g : Nat) (h : CoreTick → CoreTick) : (s.updTick g h).pe = s.pe := rfl
@[simp] theorem State.updTick_dies (g : Nat) (h : CoreTick → CoreTick) : (s.updTick g h).dies = s.dies := rfl
@[simp] theorem State.updTick_halfLost (g : Nat) (h : CoreTick → CoreTick) : (s.updTick g h).halfLost = s.halfLost := rfl
@[simp] theorem State.updTick_halfReturning (g : Nat) (h : CoreTick → CoreTick) : (s.updTick g h).halfReturning = s.halfReturning := rfl
@[simp] theorem State.updTick_fabric (g : Nat) (h : CoreTick → CoreTick) : (s.updTick g h).fabric = s.fabric := rfl
@[simp] theorem State.updTick_dir (g : Nat) (h : CoreTick → CoreTick) : (s.updTick g h).dir = s.dir := rfl
@[simp] theorem State.updTick_io (g : Nat) (h : CoreTick → CoreTick) : (s.updTick g h).io = s.io := rfl
@[simp] theorem State.updTick_mcs (g : Nat) (h : CoreTick → CoreTick) : (s.updTick g h).mcs = s.mcs := rfl
@[simp] theorem State.updTick_berm (g : Nat) (h : CoreTick → CoreTick) : (s.updTick g h).berm = s.berm := rfl
@[simp] theorem State.updTick_ing (g : Nat) (h : CoreTick → CoreTick) : (s.updTick g h).ing = s.ing := rfl
@[simp] theorem State.updTick_links (g : Nat) (h : CoreTick → CoreTick) : (s.updTick g h).links = s.links := rfl
@[simp] theorem State.updTick_dike (g : Nat) (h : CoreTick → CoreTick) : (s.updTick g h).dike = s.dike := rfl
@[simp] theorem State.updTick_cas (g : Nat) (h : CoreTick → CoreTick) : (s.updTick g h).cas = s.cas := rfl
@[simp] theorem State.updTick_pow (g : Nat) (h : CoreTick → CoreTick) : (s.updTick g h).pow = s.pow := rfl
@[simp] theorem State.updTick_out (g : Nat) (h : CoreTick → CoreTick) : (s.updTick g h).out = s.out := rfl
@[simp] theorem State.updTick_free (g : Nat) (h : CoreTick → CoreTick) : (s.updTick g h).free = s.free := rfl
@[simp] theorem State.updTick_pending (g : Nat) (h : CoreTick → CoreTick) : (s.updTick g h).pending = s.pending := rfl
@[simp] theorem State.updTick_get (g : Nat) (h : CoreTick → CoreTick) (fl : Fld) (ix : Nat) : (s.updTick g h).get fl ix = s.get fl ix := rfl
@[simp] theorem State.updTick_flag (g : Nat) (h : CoreTick → CoreTick) (fl : Fld) (ix : Nat) : (s.updTick g h).flag fl ix = s.flag fl ix := rfl
@[simp] theorem State.updTick_now (g : Nat) (h : CoreTick → CoreTick) : (s.updTick g h).now = s.now := rfl
@[simp] theorem State.updTick_activeHalf (g : Nat) (h : CoreTick → CoreTick) : (s.updTick g h).activeHalf = s.activeHalf := rfl
@[simp] theorem State.updTick_guardedCfg (g : Nat) (h : CoreTick → CoreTick) : (s.updTick g h).guardedCfg = s.guardedCfg := rfl
@[simp] theorem State.updTick_sq (g : Nat) (h : CoreTick → CoreTick) (j : Nat) : (s.updTick g h).sq j = s.sq j := rfl
@[simp] theorem State.updTick_cq (g : Nat) (h : CoreTick → CoreTick) (j : Nat) : (s.updTick g h).cq j = s.cq j := rfl
@[simp] theorem State.updTick_slot (g : Nat) (h : CoreTick → CoreTick) (j : Nat) : (s.updTick g h).slot j = s.slot j := rfl
@[simp] theorem State.updTick_polder (g : Nat) (h : CoreTick → CoreTick) (j : Nat) : (s.updTick g h).polder j = s.polder j := rfl
@[simp] theorem State.updTick_coreOf (g : Nat) (h : CoreTick → CoreTick) (j k2 : Nat) : (s.updTick g h).coreOf j k2 = s.coreOf j k2 := rfl
@[simp] theorem State.updTick_die (g : Nat) (h : CoreTick → CoreTick) (j : Nat) : (s.updTick g h).die j = s.die j := rfl
@[simp] theorem State.updTick_peSt (g : Nat) (h : CoreTick → CoreTick) (j : Nat) : (s.updTick g h).peSt j = s.peSt j := rfl
@[simp] theorem State.updTick_lost (g : Nat) (h : CoreTick → CoreTick) (j : Nat) : (s.updTick g h).lost j = s.lost j := rfl
@[simp] theorem State.updTick_strm (g : Nat) (h : CoreTick → CoreTick) (j : Nat) : (s.updTick g h).strm j = s.strm j := rfl
@[simp] theorem State.updTick_lk (g : Nat) (h : CoreTick → CoreTick) (j : LinkEnd) : (s.updTick g h).lk j = s.lk j := rfl
@[simp] theorem State.updTick_mc (g : Nat) (h : CoreTick → CoreTick) (j : Nat) : (s.updTick g h).mc j = s.mc j := rfl
@[simp] theorem State.updTick_chan (g : Nat) (h : CoreTick → CoreTick) (j : Nat) : (s.updTick g h).chan j = s.chan j := rfl
@[simp] theorem State.updTick_csPort (g : Nat) (h : CoreTick → CoreTick) (j : Nat) : (s.updTick g h).csPort j = s.csPort j := rfl
@[simp] theorem State.updTick_ctx (g : Nat) (h : CoreTick → CoreTick) (j : Nat) : (s.updTick g h).ctx j = s.ctx j := rfl
@[simp] theorem State.updTick_encIn (g : Nat) (h : CoreTick → CoreTick) (j : Nat) : (s.updTick g h).encIn j = s.encIn j := rfl
@[simp] theorem State.mapCores_regs (h : Core → Core) : (s.mapCores h).regs = s.regs := rfl
@[simp] theorem State.mapCores_mem (h : Core → Core) : (s.mapCores h).mem = s.mem := rfl
@[simp] theorem State.mapCores_poison (h : Core → Core) : (s.mapCores h).poison = s.poison := rfl
@[simp] theorem State.mapCores_hub (h : Core → Core) : (s.mapCores h).hub = s.hub := rfl
@[simp] theorem State.mapCores_cp (h : Core → Core) : (s.mapCores h).cp = s.cp := rfl
@[simp] theorem State.mapCores_rcd (h : Core → Core) : (s.mapCores h).rcd = s.rcd := rfl
@[simp] theorem State.mapCores_exports (h : Core → Core) : (s.mapCores h).exports = s.exports := rfl
@[simp] theorem State.mapCores_pols (h : Core → Core) : (s.mapCores h).pols = s.pols := rfl
@[simp] theorem State.mapCores_polGen (h : Core → Core) : (s.mapCores h).polGen = s.polGen := rfl
@[simp] theorem State.mapCores_te (h : Core → Core) : (s.mapCores h).te = s.te := rfl
@[simp] theorem State.mapCores_pe (h : Core → Core) : (s.mapCores h).pe = s.pe := rfl
@[simp] theorem State.mapCores_dies (h : Core → Core) : (s.mapCores h).dies = s.dies := rfl
@[simp] theorem State.mapCores_halfLost (h : Core → Core) : (s.mapCores h).halfLost = s.halfLost := rfl
@[simp] theorem State.mapCores_halfReturning (h : Core → Core) : (s.mapCores h).halfReturning = s.halfReturning := rfl
@[simp] theorem State.mapCores_fabric (h : Core → Core) : (s.mapCores h).fabric = s.fabric := rfl
@[simp] theorem State.mapCores_dir (h : Core → Core) : (s.mapCores h).dir = s.dir := rfl
@[simp] theorem State.mapCores_io (h : Core → Core) : (s.mapCores h).io = s.io := rfl
@[simp] theorem State.mapCores_mcs (h : Core → Core) : (s.mapCores h).mcs = s.mcs := rfl
@[simp] theorem State.mapCores_berm (h : Core → Core) : (s.mapCores h).berm = s.berm := rfl
@[simp] theorem State.mapCores_ing (h : Core → Core) : (s.mapCores h).ing = s.ing := rfl
@[simp] theorem State.mapCores_links (h : Core → Core) : (s.mapCores h).links = s.links := rfl
@[simp] theorem State.mapCores_dike (h : Core → Core) : (s.mapCores h).dike = s.dike := rfl
@[simp] theorem State.mapCores_cas (h : Core → Core) : (s.mapCores h).cas = s.cas := rfl
@[simp] theorem State.mapCores_pow (h : Core → Core) : (s.mapCores h).pow = s.pow := rfl
@[simp] theorem State.mapCores_out (h : Core → Core) : (s.mapCores h).out = s.out := rfl
@[simp] theorem State.mapCores_free (h : Core → Core) : (s.mapCores h).free = s.free := rfl
@[simp] theorem State.mapCores_pending (h : Core → Core) : (s.mapCores h).pending = s.pending := rfl
@[simp] theorem State.mapCores_get (h : Core → Core) (fl : Fld) (ix : Nat) : (s.mapCores h).get fl ix = s.get fl ix := rfl
@[simp] theorem State.mapCores_flag (h : Core → Core) (fl : Fld) (ix : Nat) : (s.mapCores h).flag fl ix = s.flag fl ix := rfl
@[simp] theorem State.mapCores_now (h : Core → Core) : (s.mapCores h).now = s.now := rfl
@[simp] theorem State.mapCores_activeHalf (h : Core → Core) : (s.mapCores h).activeHalf = s.activeHalf := rfl
@[simp] theorem State.mapCores_guardedCfg (h : Core → Core) : (s.mapCores h).guardedCfg = s.guardedCfg := rfl
@[simp] theorem State.mapCores_sq (h : Core → Core) (j : Nat) : (s.mapCores h).sq j = s.sq j := rfl
@[simp] theorem State.mapCores_cq (h : Core → Core) (j : Nat) : (s.mapCores h).cq j = s.cq j := rfl
@[simp] theorem State.mapCores_slot (h : Core → Core) (j : Nat) : (s.mapCores h).slot j = s.slot j := rfl
@[simp] theorem State.mapCores_polder (h : Core → Core) (j : Nat) : (s.mapCores h).polder j = s.polder j := rfl
@[simp] theorem State.mapCores_coreOf (h : Core → Core) (j k2 : Nat) : (s.mapCores h).coreOf j k2 = s.coreOf j k2 := rfl
@[simp] theorem State.mapCores_die (h : Core → Core) (j : Nat) : (s.mapCores h).die j = s.die j := rfl
@[simp] theorem State.mapCores_peSt (h : Core → Core) (j : Nat) : (s.mapCores h).peSt j = s.peSt j := rfl
@[simp] theorem State.mapCores_lost (h : Core → Core) (j : Nat) : (s.mapCores h).lost j = s.lost j := rfl
@[simp] theorem State.mapCores_strm (h : Core → Core) (j : Nat) : (s.mapCores h).strm j = s.strm j := rfl
@[simp] theorem State.mapCores_lk (h : Core → Core) (j : LinkEnd) : (s.mapCores h).lk j = s.lk j := rfl
@[simp] theorem State.mapCores_mc (h : Core → Core) (j : Nat) : (s.mapCores h).mc j = s.mc j := rfl
@[simp] theorem State.mapCores_chan (h : Core → Core) (j : Nat) : (s.mapCores h).chan j = s.chan j := rfl
@[simp] theorem State.mapCores_csPort (h : Core → Core) (j : Nat) : (s.mapCores h).csPort j = s.csPort j := rfl
@[simp] theorem State.mapCores_ctx (h : Core → Core) (j : Nat) : (s.mapCores h).ctx j = s.ctx j := rfl
@[simp] theorem State.mapCores_encIn (h : Core → Core) (j : Nat) : (s.mapCores h).encIn j = s.encIn j := rfl
@[simp] theorem State.setCores_regs (c : Tbl Core) : (s.setCores c).regs = s.regs := rfl
@[simp] theorem State.setCores_mem (c : Tbl Core) : (s.setCores c).mem = s.mem := rfl
@[simp] theorem State.setCores_poison (c : Tbl Core) : (s.setCores c).poison = s.poison := rfl
@[simp] theorem State.setCores_hub (c : Tbl Core) : (s.setCores c).hub = s.hub := rfl
@[simp] theorem State.setCores_cp (c : Tbl Core) : (s.setCores c).cp = s.cp := rfl
@[simp] theorem State.setCores_rcd (c : Tbl Core) : (s.setCores c).rcd = s.rcd := rfl
@[simp] theorem State.setCores_exports (c : Tbl Core) : (s.setCores c).exports = s.exports := rfl
@[simp] theorem State.setCores_pols (c : Tbl Core) : (s.setCores c).pols = s.pols := rfl
@[simp] theorem State.setCores_polGen (c : Tbl Core) : (s.setCores c).polGen = s.polGen := rfl
@[simp] theorem State.setCores_te (c : Tbl Core) : (s.setCores c).te = s.te := rfl
@[simp] theorem State.setCores_pe (c : Tbl Core) : (s.setCores c).pe = s.pe := rfl
@[simp] theorem State.setCores_dies (c : Tbl Core) : (s.setCores c).dies = s.dies := rfl
@[simp] theorem State.setCores_halfLost (c : Tbl Core) : (s.setCores c).halfLost = s.halfLost := rfl
@[simp] theorem State.setCores_halfReturning (c : Tbl Core) : (s.setCores c).halfReturning = s.halfReturning := rfl
@[simp] theorem State.setCores_fabric (c : Tbl Core) : (s.setCores c).fabric = s.fabric := rfl
@[simp] theorem State.setCores_dir (c : Tbl Core) : (s.setCores c).dir = s.dir := rfl
@[simp] theorem State.setCores_io (c : Tbl Core) : (s.setCores c).io = s.io := rfl
@[simp] theorem State.setCores_mcs (c : Tbl Core) : (s.setCores c).mcs = s.mcs := rfl
@[simp] theorem State.setCores_berm (c : Tbl Core) : (s.setCores c).berm = s.berm := rfl
@[simp] theorem State.setCores_ing (c : Tbl Core) : (s.setCores c).ing = s.ing := rfl
@[simp] theorem State.setCores_links (c : Tbl Core) : (s.setCores c).links = s.links := rfl
@[simp] theorem State.setCores_dike (c : Tbl Core) : (s.setCores c).dike = s.dike := rfl
@[simp] theorem State.setCores_cas (c : Tbl Core) : (s.setCores c).cas = s.cas := rfl
@[simp] theorem State.setCores_pow (c : Tbl Core) : (s.setCores c).pow = s.pow := rfl
@[simp] theorem State.setCores_out (c : Tbl Core) : (s.setCores c).out = s.out := rfl
@[simp] theorem State.setCores_free (c : Tbl Core) : (s.setCores c).free = s.free := rfl
@[simp] theorem State.setCores_pending (c : Tbl Core) : (s.setCores c).pending = s.pending := rfl
@[simp] theorem State.setCores_get (c : Tbl Core) (fl : Fld) (ix : Nat) : (s.setCores c).get fl ix = s.get fl ix := rfl
@[simp] theorem State.setCores_flag (c : Tbl Core) (fl : Fld) (ix : Nat) : (s.setCores c).flag fl ix = s.flag fl ix := rfl
@[simp] theorem State.setCores_now (c : Tbl Core) : (s.setCores c).now = s.now := rfl
@[simp] theorem State.setCores_activeHalf (c : Tbl Core) : (s.setCores c).activeHalf = s.activeHalf := rfl
@[simp] theorem State.setCores_guardedCfg (c : Tbl Core) : (s.setCores c).guardedCfg = s.guardedCfg := rfl
@[simp] theorem State.setCores_sq (c : Tbl Core) (j : Nat) : (s.setCores c).sq j = s.sq j := rfl
@[simp] theorem State.setCores_cq (c : Tbl Core) (j : Nat) : (s.setCores c).cq j = s.cq j := rfl
@[simp] theorem State.setCores_slot (c : Tbl Core) (j : Nat) : (s.setCores c).slot j = s.slot j := rfl
@[simp] theorem State.setCores_polder (c : Tbl Core) (j : Nat) : (s.setCores c).polder j = s.polder j := rfl
@[simp] theorem State.setCores_coreOf (c : Tbl Core) (j k2 : Nat) : (s.setCores c).coreOf j k2 = s.coreOf j k2 := rfl
@[simp] theorem State.setCores_die (c : Tbl Core) (j : Nat) : (s.setCores c).die j = s.die j := rfl
@[simp] theorem State.setCores_peSt (c : Tbl Core) (j : Nat) : (s.setCores c).peSt j = s.peSt j := rfl
@[simp] theorem State.setCores_lost (c : Tbl Core) (j : Nat) : (s.setCores c).lost j = s.lost j := rfl
@[simp] theorem State.setCores_strm (c : Tbl Core) (j : Nat) : (s.setCores c).strm j = s.strm j := rfl
@[simp] theorem State.setCores_lk (c : Tbl Core) (j : LinkEnd) : (s.setCores c).lk j = s.lk j := rfl
@[simp] theorem State.setCores_mc (c : Tbl Core) (j : Nat) : (s.setCores c).mc j = s.mc j := rfl
@[simp] theorem State.setCores_chan (c : Tbl Core) (j : Nat) : (s.setCores c).chan j = s.chan j := rfl
@[simp] theorem State.setCores_csPort (c : Tbl Core) (j : Nat) : (s.setCores c).csPort j = s.csPort j := rfl
@[simp] theorem State.setCores_ctx (c : Tbl Core) (j : Nat) : (s.setCores c).ctx j = s.ctx j := rfl
@[simp] theorem State.setCores_encIn (c : Tbl Core) (j : Nat) : (s.setCores c).encIn j = s.encIn j := rfl
@[simp] theorem State.updDie_regs (d : Nat) (h : DieSt → DieSt) : (s.updDie d h).regs = s.regs := rfl
@[simp] theorem State.updDie_mem (d : Nat) (h : DieSt → DieSt) : (s.updDie d h).mem = s.mem := rfl
@[simp] theorem State.updDie_poison (d : Nat) (h : DieSt → DieSt) : (s.updDie d h).poison = s.poison := rfl
@[simp] theorem State.updDie_hub (d : Nat) (h : DieSt → DieSt) : (s.updDie d h).hub = s.hub := rfl
@[simp] theorem State.updDie_cp (d : Nat) (h : DieSt → DieSt) : (s.updDie d h).cp = s.cp := rfl
@[simp] theorem State.updDie_rcd (d : Nat) (h : DieSt → DieSt) : (s.updDie d h).rcd = s.rcd := rfl
@[simp] theorem State.updDie_exports (d : Nat) (h : DieSt → DieSt) : (s.updDie d h).exports = s.exports := rfl
@[simp] theorem State.updDie_pols (d : Nat) (h : DieSt → DieSt) : (s.updDie d h).pols = s.pols := rfl
@[simp] theorem State.updDie_polGen (d : Nat) (h : DieSt → DieSt) : (s.updDie d h).polGen = s.polGen := rfl
@[simp] theorem State.updDie_te (d : Nat) (h : DieSt → DieSt) : (s.updDie d h).te = s.te := rfl
@[simp] theorem State.updDie_cores (d : Nat) (h : DieSt → DieSt) : (s.updDie d h).cores = s.cores := rfl
@[simp] theorem State.updDie_pe (d : Nat) (h : DieSt → DieSt) : (s.updDie d h).pe = s.pe := rfl
@[simp] theorem State.updDie_halfLost (d : Nat) (h : DieSt → DieSt) : (s.updDie d h).halfLost = s.halfLost := rfl
@[simp] theorem State.updDie_halfReturning (d : Nat) (h : DieSt → DieSt) : (s.updDie d h).halfReturning = s.halfReturning := rfl
@[simp] theorem State.updDie_fabric (d : Nat) (h : DieSt → DieSt) : (s.updDie d h).fabric = s.fabric := rfl
@[simp] theorem State.updDie_dir (d : Nat) (h : DieSt → DieSt) : (s.updDie d h).dir = s.dir := rfl
@[simp] theorem State.updDie_io (d : Nat) (h : DieSt → DieSt) : (s.updDie d h).io = s.io := rfl
@[simp] theorem State.updDie_mcs (d : Nat) (h : DieSt → DieSt) : (s.updDie d h).mcs = s.mcs := rfl
@[simp] theorem State.updDie_berm (d : Nat) (h : DieSt → DieSt) : (s.updDie d h).berm = s.berm := rfl
@[simp] theorem State.updDie_ing (d : Nat) (h : DieSt → DieSt) : (s.updDie d h).ing = s.ing := rfl
@[simp] theorem State.updDie_links (d : Nat) (h : DieSt → DieSt) : (s.updDie d h).links = s.links := rfl
@[simp] theorem State.updDie_dike (d : Nat) (h : DieSt → DieSt) : (s.updDie d h).dike = s.dike := rfl
@[simp] theorem State.updDie_cas (d : Nat) (h : DieSt → DieSt) : (s.updDie d h).cas = s.cas := rfl
@[simp] theorem State.updDie_pow (d : Nat) (h : DieSt → DieSt) : (s.updDie d h).pow = s.pow := rfl
@[simp] theorem State.updDie_out (d : Nat) (h : DieSt → DieSt) : (s.updDie d h).out = s.out := rfl
@[simp] theorem State.updDie_free (d : Nat) (h : DieSt → DieSt) : (s.updDie d h).free = s.free := rfl
@[simp] theorem State.updDie_pending (d : Nat) (h : DieSt → DieSt) : (s.updDie d h).pending = s.pending := rfl
@[simp] theorem State.updDie_get (d : Nat) (h : DieSt → DieSt) (fl : Fld) (ix : Nat) : (s.updDie d h).get fl ix = s.get fl ix := rfl
@[simp] theorem State.updDie_flag (d : Nat) (h : DieSt → DieSt) (fl : Fld) (ix : Nat) : (s.updDie d h).flag fl ix = s.flag fl ix := rfl
@[simp] theorem State.updDie_now (d : Nat) (h : DieSt → DieSt) : (s.updDie d h).now = s.now := rfl
@[simp] theorem State.updDie_activeHalf (d : Nat) (h : DieSt → DieSt) : (s.updDie d h).activeHalf = s.activeHalf := rfl
@[simp] theorem State.updDie_guardedCfg (d : Nat) (h : DieSt → DieSt) : (s.updDie d h).guardedCfg = s.guardedCfg := rfl
@[simp] theorem State.updDie_sq (d : Nat) (h : DieSt → DieSt) (j : Nat) : (s.updDie d h).sq j = s.sq j := rfl
@[simp] theorem State.updDie_cq (d : Nat) (h : DieSt → DieSt) (j : Nat) : (s.updDie d h).cq j = s.cq j := rfl
@[simp] theorem State.updDie_slot (d : Nat) (h : DieSt → DieSt) (j : Nat) : (s.updDie d h).slot j = s.slot j := rfl
@[simp] theorem State.updDie_polder (d : Nat) (h : DieSt → DieSt) (j : Nat) : (s.updDie d h).polder j = s.polder j := rfl
@[simp] theorem State.updDie_coreOf (d : Nat) (h : DieSt → DieSt) (j k2 : Nat) : (s.updDie d h).coreOf j k2 = s.coreOf j k2 := rfl
@[simp] theorem State.updDie_core (d : Nat) (h : DieSt → DieSt) (j : Nat) : (s.updDie d h).core j = s.core j := rfl
@[simp] theorem State.updDie_peSt (d : Nat) (h : DieSt → DieSt) (j : Nat) : (s.updDie d h).peSt j = s.peSt j := rfl
@[simp] theorem State.updDie_lost (d : Nat) (h : DieSt → DieSt) (j : Nat) : (s.updDie d h).lost j = s.lost j := rfl
@[simp] theorem State.updDie_strm (d : Nat) (h : DieSt → DieSt) (j : Nat) : (s.updDie d h).strm j = s.strm j := rfl
@[simp] theorem State.updDie_lk (d : Nat) (h : DieSt → DieSt) (j : LinkEnd) : (s.updDie d h).lk j = s.lk j := rfl
@[simp] theorem State.updDie_mc (d : Nat) (h : DieSt → DieSt) (j : Nat) : (s.updDie d h).mc j = s.mc j := rfl
@[simp] theorem State.updDie_chan (d : Nat) (h : DieSt → DieSt) (j : Nat) : (s.updDie d h).chan j = s.chan j := rfl
@[simp] theorem State.updDie_csPort (d : Nat) (h : DieSt → DieSt) (j : Nat) : (s.updDie d h).csPort j = s.csPort j := rfl
@[simp] theorem State.updDie_ctx (d : Nat) (h : DieSt → DieSt) (j : Nat) : (s.updDie d h).ctx j = s.ctx j := rfl
@[simp] theorem State.updDie_encIn (d : Nat) (h : DieSt → DieSt) (j : Nat) : (s.updDie d h).encIn j = s.encIn j := rfl
@[simp] theorem State.mapDies_regs (h : DieSt → DieSt) : (s.mapDies h).regs = s.regs := rfl
@[simp] theorem State.mapDies_mem (h : DieSt → DieSt) : (s.mapDies h).mem = s.mem := rfl
@[simp] theorem State.mapDies_poison (h : DieSt → DieSt) : (s.mapDies h).poison = s.poison := rfl
@[simp] theorem State.mapDies_hub (h : DieSt → DieSt) : (s.mapDies h).hub = s.hub := rfl
@[simp] theorem State.mapDies_cp (h : DieSt → DieSt) : (s.mapDies h).cp = s.cp := rfl
@[simp] theorem State.mapDies_rcd (h : DieSt → DieSt) : (s.mapDies h).rcd = s.rcd := rfl
@[simp] theorem State.mapDies_exports (h : DieSt → DieSt) : (s.mapDies h).exports = s.exports := rfl
@[simp] theorem State.mapDies_pols (h : DieSt → DieSt) : (s.mapDies h).pols = s.pols := rfl
@[simp] theorem State.mapDies_polGen (h : DieSt → DieSt) : (s.mapDies h).polGen = s.polGen := rfl
@[simp] theorem State.mapDies_te (h : DieSt → DieSt) : (s.mapDies h).te = s.te := rfl
@[simp] theorem State.mapDies_cores (h : DieSt → DieSt) : (s.mapDies h).cores = s.cores := rfl
@[simp] theorem State.mapDies_pe (h : DieSt → DieSt) : (s.mapDies h).pe = s.pe := rfl
@[simp] theorem State.mapDies_halfLost (h : DieSt → DieSt) : (s.mapDies h).halfLost = s.halfLost := rfl
@[simp] theorem State.mapDies_halfReturning (h : DieSt → DieSt) : (s.mapDies h).halfReturning = s.halfReturning := rfl
@[simp] theorem State.mapDies_fabric (h : DieSt → DieSt) : (s.mapDies h).fabric = s.fabric := rfl
@[simp] theorem State.mapDies_dir (h : DieSt → DieSt) : (s.mapDies h).dir = s.dir := rfl
@[simp] theorem State.mapDies_io (h : DieSt → DieSt) : (s.mapDies h).io = s.io := rfl
@[simp] theorem State.mapDies_mcs (h : DieSt → DieSt) : (s.mapDies h).mcs = s.mcs := rfl
@[simp] theorem State.mapDies_berm (h : DieSt → DieSt) : (s.mapDies h).berm = s.berm := rfl
@[simp] theorem State.mapDies_ing (h : DieSt → DieSt) : (s.mapDies h).ing = s.ing := rfl
@[simp] theorem State.mapDies_links (h : DieSt → DieSt) : (s.mapDies h).links = s.links := rfl
@[simp] theorem State.mapDies_dike (h : DieSt → DieSt) : (s.mapDies h).dike = s.dike := rfl
@[simp] theorem State.mapDies_cas (h : DieSt → DieSt) : (s.mapDies h).cas = s.cas := rfl
@[simp] theorem State.mapDies_pow (h : DieSt → DieSt) : (s.mapDies h).pow = s.pow := rfl
@[simp] theorem State.mapDies_out (h : DieSt → DieSt) : (s.mapDies h).out = s.out := rfl
@[simp] theorem State.mapDies_free (h : DieSt → DieSt) : (s.mapDies h).free = s.free := rfl
@[simp] theorem State.mapDies_pending (h : DieSt → DieSt) : (s.mapDies h).pending = s.pending := rfl
@[simp] theorem State.mapDies_get (h : DieSt → DieSt) (fl : Fld) (ix : Nat) : (s.mapDies h).get fl ix = s.get fl ix := rfl
@[simp] theorem State.mapDies_flag (h : DieSt → DieSt) (fl : Fld) (ix : Nat) : (s.mapDies h).flag fl ix = s.flag fl ix := rfl
@[simp] theorem State.mapDies_now (h : DieSt → DieSt) : (s.mapDies h).now = s.now := rfl
@[simp] theorem State.mapDies_activeHalf (h : DieSt → DieSt) : (s.mapDies h).activeHalf = s.activeHalf := rfl
@[simp] theorem State.mapDies_guardedCfg (h : DieSt → DieSt) : (s.mapDies h).guardedCfg = s.guardedCfg := rfl
@[simp] theorem State.mapDies_sq (h : DieSt → DieSt) (j : Nat) : (s.mapDies h).sq j = s.sq j := rfl
@[simp] theorem State.mapDies_cq (h : DieSt → DieSt) (j : Nat) : (s.mapDies h).cq j = s.cq j := rfl
@[simp] theorem State.mapDies_slot (h : DieSt → DieSt) (j : Nat) : (s.mapDies h).slot j = s.slot j := rfl
@[simp] theorem State.mapDies_polder (h : DieSt → DieSt) (j : Nat) : (s.mapDies h).polder j = s.polder j := rfl
@[simp] theorem State.mapDies_coreOf (h : DieSt → DieSt) (j k2 : Nat) : (s.mapDies h).coreOf j k2 = s.coreOf j k2 := rfl
@[simp] theorem State.mapDies_core (h : DieSt → DieSt) (j : Nat) : (s.mapDies h).core j = s.core j := rfl
@[simp] theorem State.mapDies_peSt (h : DieSt → DieSt) (j : Nat) : (s.mapDies h).peSt j = s.peSt j := rfl
@[simp] theorem State.mapDies_lost (h : DieSt → DieSt) (j : Nat) : (s.mapDies h).lost j = s.lost j := rfl
@[simp] theorem State.mapDies_strm (h : DieSt → DieSt) (j : Nat) : (s.mapDies h).strm j = s.strm j := rfl
@[simp] theorem State.mapDies_lk (h : DieSt → DieSt) (j : LinkEnd) : (s.mapDies h).lk j = s.lk j := rfl
@[simp] theorem State.mapDies_mc (h : DieSt → DieSt) (j : Nat) : (s.mapDies h).mc j = s.mc j := rfl
@[simp] theorem State.mapDies_chan (h : DieSt → DieSt) (j : Nat) : (s.mapDies h).chan j = s.chan j := rfl
@[simp] theorem State.mapDies_csPort (h : DieSt → DieSt) (j : Nat) : (s.mapDies h).csPort j = s.csPort j := rfl
@[simp] theorem State.mapDies_ctx (h : DieSt → DieSt) (j : Nat) : (s.mapDies h).ctx j = s.ctx j := rfl
@[simp] theorem State.mapDies_encIn (h : DieSt → DieSt) (j : Nat) : (s.mapDies h).encIn j = s.encIn j := rfl
@[simp] theorem State.updDirs_regs (h : DirHalf → DirHalf) : (s.updDirs h).regs = s.regs := rfl
@[simp] theorem State.updDirs_mem (h : DirHalf → DirHalf) : (s.updDirs h).mem = s.mem := rfl
@[simp] theorem State.updDirs_poison (h : DirHalf → DirHalf) : (s.updDirs h).poison = s.poison := rfl
@[simp] theorem State.updDirs_hub (h : DirHalf → DirHalf) : (s.updDirs h).hub = s.hub := rfl
@[simp] theorem State.updDirs_cp (h : DirHalf → DirHalf) : (s.updDirs h).cp = s.cp := rfl
@[simp] theorem State.updDirs_rcd (h : DirHalf → DirHalf) : (s.updDirs h).rcd = s.rcd := rfl
@[simp] theorem State.updDirs_exports (h : DirHalf → DirHalf) : (s.updDirs h).exports = s.exports := rfl
@[simp] theorem State.updDirs_pols (h : DirHalf → DirHalf) : (s.updDirs h).pols = s.pols := rfl
@[simp] theorem State.updDirs_polGen (h : DirHalf → DirHalf) : (s.updDirs h).polGen = s.polGen := rfl
@[simp] theorem State.updDirs_te (h : DirHalf → DirHalf) : (s.updDirs h).te = s.te := rfl
@[simp] theorem State.updDirs_cores (h : DirHalf → DirHalf) : (s.updDirs h).cores = s.cores := rfl
@[simp] theorem State.updDirs_pe (h : DirHalf → DirHalf) : (s.updDirs h).pe = s.pe := rfl
@[simp] theorem State.updDirs_dies (h : DirHalf → DirHalf) : (s.updDirs h).dies = s.dies := rfl
@[simp] theorem State.updDirs_halfLost (h : DirHalf → DirHalf) : (s.updDirs h).halfLost = s.halfLost := rfl
@[simp] theorem State.updDirs_halfReturning (h : DirHalf → DirHalf) : (s.updDirs h).halfReturning = s.halfReturning := rfl
@[simp] theorem State.updDirs_fabric (h : DirHalf → DirHalf) : (s.updDirs h).fabric = s.fabric := rfl
@[simp] theorem State.updDirs_io (h : DirHalf → DirHalf) : (s.updDirs h).io = s.io := rfl
@[simp] theorem State.updDirs_mcs (h : DirHalf → DirHalf) : (s.updDirs h).mcs = s.mcs := rfl
@[simp] theorem State.updDirs_berm (h : DirHalf → DirHalf) : (s.updDirs h).berm = s.berm := rfl
@[simp] theorem State.updDirs_ing (h : DirHalf → DirHalf) : (s.updDirs h).ing = s.ing := rfl
@[simp] theorem State.updDirs_links (h : DirHalf → DirHalf) : (s.updDirs h).links = s.links := rfl
@[simp] theorem State.updDirs_dike (h : DirHalf → DirHalf) : (s.updDirs h).dike = s.dike := rfl
@[simp] theorem State.updDirs_cas (h : DirHalf → DirHalf) : (s.updDirs h).cas = s.cas := rfl
@[simp] theorem State.updDirs_pow (h : DirHalf → DirHalf) : (s.updDirs h).pow = s.pow := rfl
@[simp] theorem State.updDirs_out (h : DirHalf → DirHalf) : (s.updDirs h).out = s.out := rfl
@[simp] theorem State.updDirs_free (h : DirHalf → DirHalf) : (s.updDirs h).free = s.free := rfl
@[simp] theorem State.updDirs_pending (h : DirHalf → DirHalf) : (s.updDirs h).pending = s.pending := rfl
@[simp] theorem State.updDirs_get (h : DirHalf → DirHalf) (fl : Fld) (ix : Nat) : (s.updDirs h).get fl ix = s.get fl ix := rfl
@[simp] theorem State.updDirs_flag (h : DirHalf → DirHalf) (fl : Fld) (ix : Nat) : (s.updDirs h).flag fl ix = s.flag fl ix := rfl
@[simp] theorem State.updDirs_now (h : DirHalf → DirHalf) : (s.updDirs h).now = s.now := rfl
@[simp] theorem State.updDirs_activeHalf (h : DirHalf → DirHalf) : (s.updDirs h).activeHalf = s.activeHalf := rfl
@[simp] theorem State.updDirs_guardedCfg (h : DirHalf → DirHalf) : (s.updDirs h).guardedCfg = s.guardedCfg := rfl
@[simp] theorem State.updDirs_sq (h : DirHalf → DirHalf) (j : Nat) : (s.updDirs h).sq j = s.sq j := rfl
@[simp] theorem State.updDirs_cq (h : DirHalf → DirHalf) (j : Nat) : (s.updDirs h).cq j = s.cq j := rfl
@[simp] theorem State.updDirs_slot (h : DirHalf → DirHalf) (j : Nat) : (s.updDirs h).slot j = s.slot j := rfl
@[simp] theorem State.updDirs_polder (h : DirHalf → DirHalf) (j : Nat) : (s.updDirs h).polder j = s.polder j := rfl
@[simp] theorem State.updDirs_coreOf (h : DirHalf → DirHalf) (j k2 : Nat) : (s.updDirs h).coreOf j k2 = s.coreOf j k2 := rfl
@[simp] theorem State.updDirs_core (h : DirHalf → DirHalf) (j : Nat) : (s.updDirs h).core j = s.core j := rfl
@[simp] theorem State.updDirs_die (h : DirHalf → DirHalf) (j : Nat) : (s.updDirs h).die j = s.die j := rfl
@[simp] theorem State.updDirs_peSt (h : DirHalf → DirHalf) (j : Nat) : (s.updDirs h).peSt j = s.peSt j := rfl
@[simp] theorem State.updDirs_lost (h : DirHalf → DirHalf) (j : Nat) : (s.updDirs h).lost j = s.lost j := rfl
@[simp] theorem State.updDirs_strm (h : DirHalf → DirHalf) (j : Nat) : (s.updDirs h).strm j = s.strm j := rfl
@[simp] theorem State.updDirs_lk (h : DirHalf → DirHalf) (j : LinkEnd) : (s.updDirs h).lk j = s.lk j := rfl
@[simp] theorem State.updDirs_mc (h : DirHalf → DirHalf) (j : Nat) : (s.updDirs h).mc j = s.mc j := rfl
@[simp] theorem State.updDirs_chan (h : DirHalf → DirHalf) (j : Nat) : (s.updDirs h).chan j = s.chan j := rfl
@[simp] theorem State.updDirs_csPort (h : DirHalf → DirHalf) (j : Nat) : (s.updDirs h).csPort j = s.csPort j := rfl
@[simp] theorem State.updDirs_ctx (h : DirHalf → DirHalf) (j : Nat) : (s.updDirs h).ctx j = s.ctx j := rfl
@[simp] theorem State.updDirs_encIn (h : DirHalf → DirHalf) (j : Nat) : (s.updDirs h).encIn j = s.encIn j := rfl
@[simp] theorem State.updDir_regs (g : Nat) (h : DirHalf → DirHalf) : (s.updDir g h).regs = s.regs := rfl
@[simp] theorem State.updDir_mem (g : Nat) (h : DirHalf → DirHalf) : (s.updDir g h).mem = s.mem := rfl
@[simp] theorem State.updDir_poison (g : Nat) (h : DirHalf → DirHalf) : (s.updDir g h).poison = s.poison := rfl
@[simp] theorem State.updDir_hub (g : Nat) (h : DirHalf → DirHalf) : (s.updDir g h).hub = s.hub := rfl
@[simp] theorem State.updDir_cp (g : Nat) (h : DirHalf → DirHalf) : (s.updDir g h).cp = s.cp := rfl
@[simp] theorem State.updDir_rcd (g : Nat) (h : DirHalf → DirHalf) : (s.updDir g h).rcd = s.rcd := rfl
@[simp] theorem State.updDir_exports (g : Nat) (h : DirHalf → DirHalf) : (s.updDir g h).exports = s.exports := rfl
@[simp] theorem State.updDir_pols (g : Nat) (h : DirHalf → DirHalf) : (s.updDir g h).pols = s.pols := rfl
@[simp] theorem State.updDir_polGen (g : Nat) (h : DirHalf → DirHalf) : (s.updDir g h).polGen = s.polGen := rfl
@[simp] theorem State.updDir_te (g : Nat) (h : DirHalf → DirHalf) : (s.updDir g h).te = s.te := rfl
@[simp] theorem State.updDir_cores (g : Nat) (h : DirHalf → DirHalf) : (s.updDir g h).cores = s.cores := rfl
@[simp] theorem State.updDir_pe (g : Nat) (h : DirHalf → DirHalf) : (s.updDir g h).pe = s.pe := rfl
@[simp] theorem State.updDir_dies (g : Nat) (h : DirHalf → DirHalf) : (s.updDir g h).dies = s.dies := rfl
@[simp] theorem State.updDir_halfLost (g : Nat) (h : DirHalf → DirHalf) : (s.updDir g h).halfLost = s.halfLost := rfl
@[simp] theorem State.updDir_halfReturning (g : Nat) (h : DirHalf → DirHalf) : (s.updDir g h).halfReturning = s.halfReturning := rfl
@[simp] theorem State.updDir_fabric (g : Nat) (h : DirHalf → DirHalf) : (s.updDir g h).fabric = s.fabric := rfl
@[simp] theorem State.updDir_io (g : Nat) (h : DirHalf → DirHalf) : (s.updDir g h).io = s.io := rfl
@[simp] theorem State.updDir_mcs (g : Nat) (h : DirHalf → DirHalf) : (s.updDir g h).mcs = s.mcs := rfl
@[simp] theorem State.updDir_berm (g : Nat) (h : DirHalf → DirHalf) : (s.updDir g h).berm = s.berm := rfl
@[simp] theorem State.updDir_ing (g : Nat) (h : DirHalf → DirHalf) : (s.updDir g h).ing = s.ing := rfl
@[simp] theorem State.updDir_links (g : Nat) (h : DirHalf → DirHalf) : (s.updDir g h).links = s.links := rfl
@[simp] theorem State.updDir_dike (g : Nat) (h : DirHalf → DirHalf) : (s.updDir g h).dike = s.dike := rfl
@[simp] theorem State.updDir_cas (g : Nat) (h : DirHalf → DirHalf) : (s.updDir g h).cas = s.cas := rfl
@[simp] theorem State.updDir_pow (g : Nat) (h : DirHalf → DirHalf) : (s.updDir g h).pow = s.pow := rfl
@[simp] theorem State.updDir_out (g : Nat) (h : DirHalf → DirHalf) : (s.updDir g h).out = s.out := rfl
@[simp] theorem State.updDir_free (g : Nat) (h : DirHalf → DirHalf) : (s.updDir g h).free = s.free := rfl
@[simp] theorem State.updDir_pending (g : Nat) (h : DirHalf → DirHalf) : (s.updDir g h).pending = s.pending := rfl
@[simp] theorem State.updDir_get (g : Nat) (h : DirHalf → DirHalf) (fl : Fld) (ix : Nat) : (s.updDir g h).get fl ix = s.get fl ix := rfl
@[simp] theorem State.updDir_flag (g : Nat) (h : DirHalf → DirHalf) (fl : Fld) (ix : Nat) : (s.updDir g h).flag fl ix = s.flag fl ix := rfl
@[simp] theorem State.updDir_now (g : Nat) (h : DirHalf → DirHalf) : (s.updDir g h).now = s.now := rfl
@[simp] theorem State.updDir_activeHalf (g : Nat) (h : DirHalf → DirHalf) : (s.updDir g h).activeHalf = s.activeHalf := rfl
@[simp] theorem State.updDir_guardedCfg (g : Nat) (h : DirHalf → DirHalf) : (s.updDir g h).guardedCfg = s.guardedCfg := rfl
@[simp] theorem State.updDir_sq (g : Nat) (h : DirHalf → DirHalf) (j : Nat) : (s.updDir g h).sq j = s.sq j := rfl
@[simp] theorem State.updDir_cq (g : Nat) (h : DirHalf → DirHalf) (j : Nat) : (s.updDir g h).cq j = s.cq j := rfl
@[simp] theorem State.updDir_slot (g : Nat) (h : DirHalf → DirHalf) (j : Nat) : (s.updDir g h).slot j = s.slot j := rfl
@[simp] theorem State.updDir_polder (g : Nat) (h : DirHalf → DirHalf) (j : Nat) : (s.updDir g h).polder j = s.polder j := rfl
@[simp] theorem State.updDir_coreOf (g : Nat) (h : DirHalf → DirHalf) (j k2 : Nat) : (s.updDir g h).coreOf j k2 = s.coreOf j k2 := rfl
@[simp] theorem State.updDir_core (g : Nat) (h : DirHalf → DirHalf) (j : Nat) : (s.updDir g h).core j = s.core j := rfl
@[simp] theorem State.updDir_die (g : Nat) (h : DirHalf → DirHalf) (j : Nat) : (s.updDir g h).die j = s.die j := rfl
@[simp] theorem State.updDir_peSt (g : Nat) (h : DirHalf → DirHalf) (j : Nat) : (s.updDir g h).peSt j = s.peSt j := rfl
@[simp] theorem State.updDir_lost (g : Nat) (h : DirHalf → DirHalf) (j : Nat) : (s.updDir g h).lost j = s.lost j := rfl
@[simp] theorem State.updDir_strm (g : Nat) (h : DirHalf → DirHalf) (j : Nat) : (s.updDir g h).strm j = s.strm j := rfl
@[simp] theorem State.updDir_lk (g : Nat) (h : DirHalf → DirHalf) (j : LinkEnd) : (s.updDir g h).lk j = s.lk j := rfl
@[simp] theorem State.updDir_mc (g : Nat) (h : DirHalf → DirHalf) (j : Nat) : (s.updDir g h).mc j = s.mc j := rfl
@[simp] theorem State.updDir_chan (g : Nat) (h : DirHalf → DirHalf) (j : Nat) : (s.updDir g h).chan j = s.chan j := rfl
@[simp] theorem State.updDir_csPort (g : Nat) (h : DirHalf → DirHalf) (j : Nat) : (s.updDir g h).csPort j = s.csPort j := rfl
@[simp] theorem State.updDir_ctx (g : Nat) (h : DirHalf → DirHalf) (j : Nat) : (s.updDir g h).ctx j = s.ctx j := rfl
@[simp] theorem State.updDir_encIn (g : Nat) (h : DirHalf → DirHalf) (j : Nat) : (s.updDir g h).encIn j = s.encIn j := rfl
@[simp] theorem State.updFabric_regs (h : List Msg → List Msg) : (s.updFabric h).regs = s.regs := rfl
@[simp] theorem State.updFabric_mem (h : List Msg → List Msg) : (s.updFabric h).mem = s.mem := rfl
@[simp] theorem State.updFabric_poison (h : List Msg → List Msg) : (s.updFabric h).poison = s.poison := rfl
@[simp] theorem State.updFabric_hub (h : List Msg → List Msg) : (s.updFabric h).hub = s.hub := rfl
@[simp] theorem State.updFabric_cp (h : List Msg → List Msg) : (s.updFabric h).cp = s.cp := rfl
@[simp] theorem State.updFabric_rcd (h : List Msg → List Msg) : (s.updFabric h).rcd = s.rcd := rfl
@[simp] theorem State.updFabric_exports (h : List Msg → List Msg) : (s.updFabric h).exports = s.exports := rfl
@[simp] theorem State.updFabric_pols (h : List Msg → List Msg) : (s.updFabric h).pols = s.pols := rfl
@[simp] theorem State.updFabric_polGen (h : List Msg → List Msg) : (s.updFabric h).polGen = s.polGen := rfl
@[simp] theorem State.updFabric_te (h : List Msg → List Msg) : (s.updFabric h).te = s.te := rfl
@[simp] theorem State.updFabric_cores (h : List Msg → List Msg) : (s.updFabric h).cores = s.cores := rfl
@[simp] theorem State.updFabric_pe (h : List Msg → List Msg) : (s.updFabric h).pe = s.pe := rfl
@[simp] theorem State.updFabric_dies (h : List Msg → List Msg) : (s.updFabric h).dies = s.dies := rfl
@[simp] theorem State.updFabric_halfLost (h : List Msg → List Msg) : (s.updFabric h).halfLost = s.halfLost := rfl
@[simp] theorem State.updFabric_halfReturning (h : List Msg → List Msg) : (s.updFabric h).halfReturning = s.halfReturning := rfl
@[simp] theorem State.updFabric_dir (h : List Msg → List Msg) : (s.updFabric h).dir = s.dir := rfl
@[simp] theorem State.updFabric_io (h : List Msg → List Msg) : (s.updFabric h).io = s.io := rfl
@[simp] theorem State.updFabric_mcs (h : List Msg → List Msg) : (s.updFabric h).mcs = s.mcs := rfl
@[simp] theorem State.updFabric_berm (h : List Msg → List Msg) : (s.updFabric h).berm = s.berm := rfl
@[simp] theorem State.updFabric_ing (h : List Msg → List Msg) : (s.updFabric h).ing = s.ing := rfl
@[simp] theorem State.updFabric_links (h : List Msg → List Msg) : (s.updFabric h).links = s.links := rfl
@[simp] theorem State.updFabric_dike (h : List Msg → List Msg) : (s.updFabric h).dike = s.dike := rfl
@[simp] theorem State.updFabric_cas (h : List Msg → List Msg) : (s.updFabric h).cas = s.cas := rfl
@[simp] theorem State.updFabric_pow (h : List Msg → List Msg) : (s.updFabric h).pow = s.pow := rfl
@[simp] theorem State.updFabric_out (h : List Msg → List Msg) : (s.updFabric h).out = s.out := rfl
@[simp] theorem State.updFabric_free (h : List Msg → List Msg) : (s.updFabric h).free = s.free := rfl
@[simp] theorem State.updFabric_pending (h : List Msg → List Msg) : (s.updFabric h).pending = s.pending := rfl
@[simp] theorem State.updFabric_get (h : List Msg → List Msg) (fl : Fld) (ix : Nat) : (s.updFabric h).get fl ix = s.get fl ix := rfl
@[simp] theorem State.updFabric_flag (h : List Msg → List Msg) (fl : Fld) (ix : Nat) : (s.updFabric h).flag fl ix = s.flag fl ix := rfl
@[simp] theorem State.updFabric_now (h : List Msg → List Msg) : (s.updFabric h).now = s.now := rfl
@[simp] theorem State.updFabric_activeHalf (h : List Msg → List Msg) : (s.updFabric h).activeHalf = s.activeHalf := rfl
@[simp] theorem State.updFabric_guardedCfg (h : List Msg → List Msg) : (s.updFabric h).guardedCfg = s.guardedCfg := rfl
@[simp] theorem State.updFabric_sq (h : List Msg → List Msg) (j : Nat) : (s.updFabric h).sq j = s.sq j := rfl
@[simp] theorem State.updFabric_cq (h : List Msg → List Msg) (j : Nat) : (s.updFabric h).cq j = s.cq j := rfl
@[simp] theorem State.updFabric_slot (h : List Msg → List Msg) (j : Nat) : (s.updFabric h).slot j = s.slot j := rfl
@[simp] theorem State.updFabric_polder (h : List Msg → List Msg) (j : Nat) : (s.updFabric h).polder j = s.polder j := rfl
@[simp] theorem State.updFabric_coreOf (h : List Msg → List Msg) (j k2 : Nat) : (s.updFabric h).coreOf j k2 = s.coreOf j k2 := rfl
@[simp] theorem State.updFabric_core (h : List Msg → List Msg) (j : Nat) : (s.updFabric h).core j = s.core j := rfl
@[simp] theorem State.updFabric_die (h : List Msg → List Msg) (j : Nat) : (s.updFabric h).die j = s.die j := rfl
@[simp] theorem State.updFabric_peSt (h : List Msg → List Msg) (j : Nat) : (s.updFabric h).peSt j = s.peSt j := rfl
@[simp] theorem State.updFabric_lost (h : List Msg → List Msg) (j : Nat) : (s.updFabric h).lost j = s.lost j := rfl
@[simp] theorem State.updFabric_strm (h : List Msg → List Msg) (j : Nat) : (s.updFabric h).strm j = s.strm j := rfl
@[simp] theorem State.updFabric_lk (h : List Msg → List Msg) (j : LinkEnd) : (s.updFabric h).lk j = s.lk j := rfl
@[simp] theorem State.updFabric_mc (h : List Msg → List Msg) (j : Nat) : (s.updFabric h).mc j = s.mc j := rfl
@[simp] theorem State.updFabric_chan (h : List Msg → List Msg) (j : Nat) : (s.updFabric h).chan j = s.chan j := rfl
@[simp] theorem State.updFabric_csPort (h : List Msg → List Msg) (j : Nat) : (s.updFabric h).csPort j = s.csPort j := rfl
@[simp] theorem State.updFabric_ctx (h : List Msg → List Msg) (j : Nat) : (s.updFabric h).ctx j = s.ctx j := rfl
@[simp] theorem State.updFabric_encIn (h : List Msg → List Msg) (j : Nat) : (s.updFabric h).encIn j = s.encIn j := rfl
@[simp] theorem State.arrive_regs (m : Msg) : (s.arrive m).regs = s.regs := rfl
@[simp] theorem State.arrive_mem (m : Msg) : (s.arrive m).mem = s.mem := rfl
@[simp] theorem State.arrive_poison (m : Msg) : (s.arrive m).poison = s.poison := rfl
@[simp] theorem State.arrive_hub (m : Msg) : (s.arrive m).hub = s.hub := rfl
@[simp] theorem State.arrive_cp (m : Msg) : (s.arrive m).cp = s.cp := rfl
@[simp] theorem State.arrive_rcd (m : Msg) : (s.arrive m).rcd = s.rcd := rfl
@[simp] theorem State.arrive_exports (m : Msg) : (s.arrive m).exports = s.exports := rfl
@[simp] theorem State.arrive_pols (m : Msg) : (s.arrive m).pols = s.pols := rfl
@[simp] theorem State.arrive_polGen (m : Msg) : (s.arrive m).polGen = s.polGen := rfl
@[simp] theorem State.arrive_te (m : Msg) : (s.arrive m).te = s.te := rfl
@[simp] theorem State.arrive_cores (m : Msg) : (s.arrive m).cores = s.cores := rfl
@[simp] theorem State.arrive_pe (m : Msg) : (s.arrive m).pe = s.pe := rfl
@[simp] theorem State.arrive_dies (m : Msg) : (s.arrive m).dies = s.dies := rfl
@[simp] theorem State.arrive_halfLost (m : Msg) : (s.arrive m).halfLost = s.halfLost := rfl
@[simp] theorem State.arrive_halfReturning (m : Msg) : (s.arrive m).halfReturning = s.halfReturning := rfl
@[simp] theorem State.arrive_dir (m : Msg) : (s.arrive m).dir = s.dir := rfl
@[simp] theorem State.arrive_io (m : Msg) : (s.arrive m).io = s.io := rfl
@[simp] theorem State.arrive_mcs (m : Msg) : (s.arrive m).mcs = s.mcs := rfl
@[simp] theorem State.arrive_berm (m : Msg) : (s.arrive m).berm = s.berm := rfl
@[simp] theorem State.arrive_ing (m : Msg) : (s.arrive m).ing = s.ing := rfl
@[simp] theorem State.arrive_links (m : Msg) : (s.arrive m).links = s.links := rfl
@[simp] theorem State.arrive_dike (m : Msg) : (s.arrive m).dike = s.dike := rfl
@[simp] theorem State.arrive_cas (m : Msg) : (s.arrive m).cas = s.cas := rfl
@[simp] theorem State.arrive_pow (m : Msg) : (s.arrive m).pow = s.pow := rfl
@[simp] theorem State.arrive_out (m : Msg) : (s.arrive m).out = s.out := rfl
@[simp] theorem State.arrive_free (m : Msg) : (s.arrive m).free = s.free := rfl
@[simp] theorem State.arrive_pending (m : Msg) : (s.arrive m).pending = s.pending := rfl
@[simp] theorem State.arrive_get (m : Msg) (fl : Fld) (ix : Nat) : (s.arrive m).get fl ix = s.get fl ix := rfl
@[simp] theorem State.arrive_flag (m : Msg) (fl : Fld) (ix : Nat) : (s.arrive m).flag fl ix = s.flag fl ix := rfl
@[simp] theorem State.arrive_now (m : Msg) : (s.arrive m).now = s.now := rfl
@[simp] theorem State.arrive_activeHalf (m : Msg) : (s.arrive m).activeHalf = s.activeHalf := rfl
@[simp] theorem State.arrive_guardedCfg (m : Msg) : (s.arrive m).guardedCfg = s.guardedCfg := rfl
@[simp] theorem State.arrive_sq (m : Msg) (j : Nat) : (s.arrive m).sq j = s.sq j := rfl
@[simp] theorem State.arrive_cq (m : Msg) (j : Nat) : (s.arrive m).cq j = s.cq j := rfl
@[simp] theorem State.arrive_slot (m : Msg) (j : Nat) : (s.arrive m).slot j = s.slot j := rfl
@[simp] theorem State.arrive_polder (m : Msg) (j : Nat) : (s.arrive m).polder j = s.polder j := rfl
@[simp] theorem State.arrive_coreOf (m : Msg) (j k2 : Nat) : (s.arrive m).coreOf j k2 = s.coreOf j k2 := rfl
@[simp] theorem State.arrive_core (m : Msg) (j : Nat) : (s.arrive m).core j = s.core j := rfl
@[simp] theorem State.arrive_die (m : Msg) (j : Nat) : (s.arrive m).die j = s.die j := rfl
@[simp] theorem State.arrive_peSt (m : Msg) (j : Nat) : (s.arrive m).peSt j = s.peSt j := rfl
@[simp] theorem State.arrive_lost (m : Msg) (j : Nat) : (s.arrive m).lost j = s.lost j := rfl
@[simp] theorem State.arrive_strm (m : Msg) (j : Nat) : (s.arrive m).strm j = s.strm j := rfl
@[simp] theorem State.arrive_lk (m : Msg) (j : LinkEnd) : (s.arrive m).lk j = s.lk j := rfl
@[simp] theorem State.arrive_mc (m : Msg) (j : Nat) : (s.arrive m).mc j = s.mc j := rfl
@[simp] theorem State.arrive_chan (m : Msg) (j : Nat) : (s.arrive m).chan j = s.chan j := rfl
@[simp] theorem State.arrive_csPort (m : Msg) (j : Nat) : (s.arrive m).csPort j = s.csPort j := rfl
@[simp] theorem State.arrive_ctx (m : Msg) (j : Nat) : (s.arrive m).ctx j = s.ctx j := rfl
@[simp] theorem State.arrive_encIn (m : Msg) (j : Nat) : (s.arrive m).encIn j = s.encIn j := rfl
@[simp] theorem State.updIo_regs (h : List IoTx → List IoTx) : (s.updIo h).regs = s.regs := rfl
@[simp] theorem State.updIo_mem (h : List IoTx → List IoTx) : (s.updIo h).mem = s.mem := rfl
@[simp] theorem State.updIo_poison (h : List IoTx → List IoTx) : (s.updIo h).poison = s.poison := rfl
@[simp] theorem State.updIo_hub (h : List IoTx → List IoTx) : (s.updIo h).hub = s.hub := rfl
@[simp] theorem State.updIo_cp (h : List IoTx → List IoTx) : (s.updIo h).cp = s.cp := rfl
@[simp] theorem State.updIo_rcd (h : List IoTx → List IoTx) : (s.updIo h).rcd = s.rcd := rfl
@[simp] theorem State.updIo_exports (h : List IoTx → List IoTx) : (s.updIo h).exports = s.exports := rfl
@[simp] theorem State.updIo_pols (h : List IoTx → List IoTx) : (s.updIo h).pols = s.pols := rfl
@[simp] theorem State.updIo_polGen (h : List IoTx → List IoTx) : (s.updIo h).polGen = s.polGen := rfl
@[simp] theorem State.updIo_te (h : List IoTx → List IoTx) : (s.updIo h).te = s.te := rfl
@[simp] theorem State.updIo_cores (h : List IoTx → List IoTx) : (s.updIo h).cores = s.cores := rfl
@[simp] theorem State.updIo_pe (h : List IoTx → List IoTx) : (s.updIo h).pe = s.pe := rfl
@[simp] theorem State.updIo_dies (h : List IoTx → List IoTx) : (s.updIo h).dies = s.dies := rfl
@[simp] theorem State.updIo_halfLost (h : List IoTx → List IoTx) : (s.updIo h).halfLost = s.halfLost := rfl
@[simp] theorem State.updIo_halfReturning (h : List IoTx → List IoTx) : (s.updIo h).halfReturning = s.halfReturning := rfl
@[simp] theorem State.updIo_fabric (h : List IoTx → List IoTx) : (s.updIo h).fabric = s.fabric := rfl
@[simp] theorem State.updIo_dir (h : List IoTx → List IoTx) : (s.updIo h).dir = s.dir := rfl
@[simp] theorem State.updIo_mcs (h : List IoTx → List IoTx) : (s.updIo h).mcs = s.mcs := rfl
@[simp] theorem State.updIo_berm (h : List IoTx → List IoTx) : (s.updIo h).berm = s.berm := rfl
@[simp] theorem State.updIo_ing (h : List IoTx → List IoTx) : (s.updIo h).ing = s.ing := rfl
@[simp] theorem State.updIo_links (h : List IoTx → List IoTx) : (s.updIo h).links = s.links := rfl
@[simp] theorem State.updIo_dike (h : List IoTx → List IoTx) : (s.updIo h).dike = s.dike := rfl
@[simp] theorem State.updIo_cas (h : List IoTx → List IoTx) : (s.updIo h).cas = s.cas := rfl
@[simp] theorem State.updIo_pow (h : List IoTx → List IoTx) : (s.updIo h).pow = s.pow := rfl
@[simp] theorem State.updIo_out (h : List IoTx → List IoTx) : (s.updIo h).out = s.out := rfl
@[simp] theorem State.updIo_free (h : List IoTx → List IoTx) : (s.updIo h).free = s.free := rfl
@[simp] theorem State.updIo_pending (h : List IoTx → List IoTx) : (s.updIo h).pending = s.pending := rfl
@[simp] theorem State.updIo_get (h : List IoTx → List IoTx) (fl : Fld) (ix : Nat) : (s.updIo h).get fl ix = s.get fl ix := rfl
@[simp] theorem State.updIo_flag (h : List IoTx → List IoTx) (fl : Fld) (ix : Nat) : (s.updIo h).flag fl ix = s.flag fl ix := rfl
@[simp] theorem State.updIo_now (h : List IoTx → List IoTx) : (s.updIo h).now = s.now := rfl
@[simp] theorem State.updIo_activeHalf (h : List IoTx → List IoTx) : (s.updIo h).activeHalf = s.activeHalf := rfl
@[simp] theorem State.updIo_guardedCfg (h : List IoTx → List IoTx) : (s.updIo h).guardedCfg = s.guardedCfg := rfl
@[simp] theorem State.updIo_sq (h : List IoTx → List IoTx) (j : Nat) : (s.updIo h).sq j = s.sq j := rfl
@[simp] theorem State.updIo_cq (h : List IoTx → List IoTx) (j : Nat) : (s.updIo h).cq j = s.cq j := rfl
@[simp] theorem State.updIo_slot (h : List IoTx → List IoTx) (j : Nat) : (s.updIo h).slot j = s.slot j := rfl
@[simp] theorem State.updIo_polder (h : List IoTx → List IoTx) (j : Nat) : (s.updIo h).polder j = s.polder j := rfl
@[simp] theorem State.updIo_coreOf (h : List IoTx → List IoTx) (j k2 : Nat) : (s.updIo h).coreOf j k2 = s.coreOf j k2 := rfl
@[simp] theorem State.updIo_core (h : List IoTx → List IoTx) (j : Nat) : (s.updIo h).core j = s.core j := rfl
@[simp] theorem State.updIo_die (h : List IoTx → List IoTx) (j : Nat) : (s.updIo h).die j = s.die j := rfl
@[simp] theorem State.updIo_peSt (h : List IoTx → List IoTx) (j : Nat) : (s.updIo h).peSt j = s.peSt j := rfl
@[simp] theorem State.updIo_lost (h : List IoTx → List IoTx) (j : Nat) : (s.updIo h).lost j = s.lost j := rfl
@[simp] theorem State.updIo_strm (h : List IoTx → List IoTx) (j : Nat) : (s.updIo h).strm j = s.strm j := rfl
@[simp] theorem State.updIo_lk (h : List IoTx → List IoTx) (j : LinkEnd) : (s.updIo h).lk j = s.lk j := rfl
@[simp] theorem State.updIo_mc (h : List IoTx → List IoTx) (j : Nat) : (s.updIo h).mc j = s.mc j := rfl
@[simp] theorem State.updIo_chan (h : List IoTx → List IoTx) (j : Nat) : (s.updIo h).chan j = s.chan j := rfl
@[simp] theorem State.updIo_csPort (h : List IoTx → List IoTx) (j : Nat) : (s.updIo h).csPort j = s.csPort j := rfl
@[simp] theorem State.updIo_ctx (h : List IoTx → List IoTx) (j : Nat) : (s.updIo h).ctx j = s.ctx j := rfl
@[simp] theorem State.updIo_encIn (h : List IoTx → List IoTx) (j : Nat) : (s.updIo h).encIn j = s.encIn j := rfl
@[simp] theorem State.setHalf_regs (g : Nat) (a b : Bool) : (s.setHalf g a b).regs = s.regs := rfl
@[simp] theorem State.setHalf_mem (g : Nat) (a b : Bool) : (s.setHalf g a b).mem = s.mem := rfl
@[simp] theorem State.setHalf_poison (g : Nat) (a b : Bool) : (s.setHalf g a b).poison = s.poison := rfl
@[simp] theorem State.setHalf_hub (g : Nat) (a b : Bool) : (s.setHalf g a b).hub = s.hub := rfl
@[simp] theorem State.setHalf_cp (g : Nat) (a b : Bool) : (s.setHalf g a b).cp = s.cp := rfl
@[simp] theorem State.setHalf_rcd (g : Nat) (a b : Bool) : (s.setHalf g a b).rcd = s.rcd := rfl
@[simp] theorem State.setHalf_exports (g : Nat) (a b : Bool) : (s.setHalf g a b).exports = s.exports := rfl
@[simp] theorem State.setHalf_pols (g : Nat) (a b : Bool) : (s.setHalf g a b).pols = s.pols := rfl
@[simp] theorem State.setHalf_polGen (g : Nat) (a b : Bool) : (s.setHalf g a b).polGen = s.polGen := rfl
@[simp] theorem State.setHalf_te (g : Nat) (a b : Bool) : (s.setHalf g a b).te = s.te := rfl
@[simp] theorem State.setHalf_cores (g : Nat) (a b : Bool) : (s.setHalf g a b).cores = s.cores := rfl
@[simp] theorem State.setHalf_pe (g : Nat) (a b : Bool) : (s.setHalf g a b).pe = s.pe := rfl
@[simp] theorem State.setHalf_dies (g : Nat) (a b : Bool) : (s.setHalf g a b).dies = s.dies := rfl
@[simp] theorem State.setHalf_fabric (g : Nat) (a b : Bool) : (s.setHalf g a b).fabric = s.fabric := rfl
@[simp] theorem State.setHalf_dir (g : Nat) (a b : Bool) : (s.setHalf g a b).dir = s.dir := rfl
@[simp] theorem State.setHalf_io (g : Nat) (a b : Bool) : (s.setHalf g a b).io = s.io := rfl
@[simp] theorem State.setHalf_mcs (g : Nat) (a b : Bool) : (s.setHalf g a b).mcs = s.mcs := rfl
@[simp] theorem State.setHalf_berm (g : Nat) (a b : Bool) : (s.setHalf g a b).berm = s.berm := rfl
@[simp] theorem State.setHalf_ing (g : Nat) (a b : Bool) : (s.setHalf g a b).ing = s.ing := rfl
@[simp] theorem State.setHalf_links (g : Nat) (a b : Bool) : (s.setHalf g a b).links = s.links := rfl
@[simp] theorem State.setHalf_dike (g : Nat) (a b : Bool) : (s.setHalf g a b).dike = s.dike := rfl
@[simp] theorem State.setHalf_cas (g : Nat) (a b : Bool) : (s.setHalf g a b).cas = s.cas := rfl
@[simp] theorem State.setHalf_pow (g : Nat) (a b : Bool) : (s.setHalf g a b).pow = s.pow := rfl
@[simp] theorem State.setHalf_out (g : Nat) (a b : Bool) : (s.setHalf g a b).out = s.out := rfl
@[simp] theorem State.setHalf_free (g : Nat) (a b : Bool) : (s.setHalf g a b).free = s.free := rfl
@[simp] theorem State.setHalf_pending (g : Nat) (a b : Bool) : (s.setHalf g a b).pending = s.pending := rfl
@[simp] theorem State.setHalf_get (g : Nat) (a b : Bool) (fl : Fld) (ix : Nat) : (s.setHalf g a b).get fl ix = s.get fl ix := rfl
@[simp] theorem State.setHalf_flag (g : Nat) (a b : Bool) (fl : Fld) (ix : Nat) : (s.setHalf g a b).flag fl ix = s.flag fl ix := rfl
@[simp] theorem State.setHalf_now (g : Nat) (a b : Bool) : (s.setHalf g a b).now = s.now := rfl
@[simp] theorem State.setHalf_activeHalf (g : Nat) (a b : Bool) : (s.setHalf g a b).activeHalf = s.activeHalf := rfl
@[simp] theorem State.setHalf_guardedCfg (g : Nat) (a b : Bool) : (s.setHalf g a b).guardedCfg = s.guardedCfg := rfl
@[simp] theorem State.setHalf_sq (g : Nat) (a b : Bool) (j : Nat) : (s.setHalf g a b).sq j = s.sq j := rfl
@[simp] theorem State.setHalf_cq (g : Nat) (a b : Bool) (j : Nat) : (s.setHalf g a b).cq j = s.cq j := rfl
@[simp] theorem State.setHalf_slot (g : Nat) (a b : Bool) (j : Nat) : (s.setHalf g a b).slot j = s.slot j := rfl
@[simp] theorem State.setHalf_polder (g : Nat) (a b : Bool) (j : Nat) : (s.setHalf g a b).polder j = s.polder j := rfl
@[simp] theorem State.setHalf_coreOf (g : Nat) (a b : Bool) (j k2 : Nat) : (s.setHalf g a b).coreOf j k2 = s.coreOf j k2 := rfl
@[simp] theorem State.setHalf_core (g : Nat) (a b : Bool) (j : Nat) : (s.setHalf g a b).core j = s.core j := rfl
@[simp] theorem State.setHalf_die (g : Nat) (a b : Bool) (j : Nat) : (s.setHalf g a b).die j = s.die j := rfl
@[simp] theorem State.setHalf_peSt (g : Nat) (a b : Bool) (j : Nat) : (s.setHalf g a b).peSt j = s.peSt j := rfl
@[simp] theorem State.setHalf_strm (g : Nat) (a b : Bool) (j : Nat) : (s.setHalf g a b).strm j = s.strm j := rfl
@[simp] theorem State.setHalf_lk (g : Nat) (a b : Bool) (j : LinkEnd) : (s.setHalf g a b).lk j = s.lk j := rfl
@[simp] theorem State.setHalf_mc (g : Nat) (a b : Bool) (j : Nat) : (s.setHalf g a b).mc j = s.mc j := rfl
@[simp] theorem State.setHalf_chan (g : Nat) (a b : Bool) (j : Nat) : (s.setHalf g a b).chan j = s.chan j := rfl
@[simp] theorem State.setHalf_csPort (g : Nat) (a b : Bool) (j : Nat) : (s.setHalf g a b).csPort j = s.csPort j := rfl
@[simp] theorem State.setHalf_ctx (g : Nat) (a b : Bool) (j : Nat) : (s.setHalf g a b).ctx j = s.ctx j := rfl
@[simp] theorem State.setHalf_encIn (g : Nat) (a b : Bool) (j : Nat) : (s.setHalf g a b).encIn j = s.encIn j := rfl
@[simp] theorem State.updCp_regs (h : CmdPlane → CmdPlane) : (s.updCp h).regs = s.regs := rfl
@[simp] theorem State.updCp_mem (h : CmdPlane → CmdPlane) : (s.updCp h).mem = s.mem := rfl
@[simp] theorem State.updCp_poison (h : CmdPlane → CmdPlane) : (s.updCp h).poison = s.poison := rfl
@[simp] theorem State.updCp_hub (h : CmdPlane → CmdPlane) : (s.updCp h).hub = s.hub := rfl
@[simp] theorem State.updCp_rcd (h : CmdPlane → CmdPlane) : (s.updCp h).rcd = s.rcd := rfl
@[simp] theorem State.updCp_exports (h : CmdPlane → CmdPlane) : (s.updCp h).exports = s.exports := rfl
@[simp] theorem State.updCp_pols (h : CmdPlane → CmdPlane) : (s.updCp h).pols = s.pols := rfl
@[simp] theorem State.updCp_polGen (h : CmdPlane → CmdPlane) : (s.updCp h).polGen = s.polGen := rfl
@[simp] theorem State.updCp_te (h : CmdPlane → CmdPlane) : (s.updCp h).te = s.te := rfl
@[simp] theorem State.updCp_cores (h : CmdPlane → CmdPlane) : (s.updCp h).cores = s.cores := rfl
@[simp] theorem State.updCp_pe (h : CmdPlane → CmdPlane) : (s.updCp h).pe = s.pe := rfl
@[simp] theorem State.updCp_dies (h : CmdPlane → CmdPlane) : (s.updCp h).dies = s.dies := rfl
@[simp] theorem State.updCp_halfLost (h : CmdPlane → CmdPlane) : (s.updCp h).halfLost = s.halfLost := rfl
@[simp] theorem State.updCp_halfReturning (h : CmdPlane → CmdPlane) : (s.updCp h).halfReturning = s.halfReturning := rfl
@[simp] theorem State.updCp_fabric (h : CmdPlane → CmdPlane) : (s.updCp h).fabric = s.fabric := rfl
@[simp] theorem State.updCp_dir (h : CmdPlane → CmdPlane) : (s.updCp h).dir = s.dir := rfl
@[simp] theorem State.updCp_io (h : CmdPlane → CmdPlane) : (s.updCp h).io = s.io := rfl
@[simp] theorem State.updCp_mcs (h : CmdPlane → CmdPlane) : (s.updCp h).mcs = s.mcs := rfl
@[simp] theorem State.updCp_berm (h : CmdPlane → CmdPlane) : (s.updCp h).berm = s.berm := rfl
@[simp] theorem State.updCp_ing (h : CmdPlane → CmdPlane) : (s.updCp h).ing = s.ing := rfl
@[simp] theorem State.updCp_links (h : CmdPlane → CmdPlane) : (s.updCp h).links = s.links := rfl
@[simp] theorem State.updCp_dike (h : CmdPlane → CmdPlane) : (s.updCp h).dike = s.dike := rfl
@[simp] theorem State.updCp_cas (h : CmdPlane → CmdPlane) : (s.updCp h).cas = s.cas := rfl
@[simp] theorem State.updCp_pow (h : CmdPlane → CmdPlane) : (s.updCp h).pow = s.pow := rfl
@[simp] theorem State.updCp_out (h : CmdPlane → CmdPlane) : (s.updCp h).out = s.out := rfl
@[simp] theorem State.updCp_free (h : CmdPlane → CmdPlane) : (s.updCp h).free = s.free := rfl
@[simp] theorem State.updCp_pending (h : CmdPlane → CmdPlane) : (s.updCp h).pending = s.pending := rfl
@[simp] theorem State.updCp_get (h : CmdPlane → CmdPlane) (fl : Fld) (ix : Nat) : (s.updCp h).get fl ix = s.get fl ix := rfl
@[simp] theorem State.updCp_flag (h : CmdPlane → CmdPlane) (fl : Fld) (ix : Nat) : (s.updCp h).flag fl ix = s.flag fl ix := rfl
@[simp] theorem State.updCp_now (h : CmdPlane → CmdPlane) : (s.updCp h).now = s.now := rfl
@[simp] theorem State.updCp_activeHalf (h : CmdPlane → CmdPlane) : (s.updCp h).activeHalf = s.activeHalf := rfl
@[simp] theorem State.updCp_guardedCfg (h : CmdPlane → CmdPlane) : (s.updCp h).guardedCfg = s.guardedCfg := rfl
@[simp] theorem State.updCp_polder (h : CmdPlane → CmdPlane) (j : Nat) : (s.updCp h).polder j = s.polder j := rfl
@[simp] theorem State.updCp_coreOf (h : CmdPlane → CmdPlane) (j k2 : Nat) : (s.updCp h).coreOf j k2 = s.coreOf j k2 := rfl
@[simp] theorem State.updCp_core (h : CmdPlane → CmdPlane) (j : Nat) : (s.updCp h).core j = s.core j := rfl
@[simp] theorem State.updCp_die (h : CmdPlane → CmdPlane) (j : Nat) : (s.updCp h).die j = s.die j := rfl
@[simp] theorem State.updCp_peSt (h : CmdPlane → CmdPlane) (j : Nat) : (s.updCp h).peSt j = s.peSt j := rfl
@[simp] theorem State.updCp_lost (h : CmdPlane → CmdPlane) (j : Nat) : (s.updCp h).lost j = s.lost j := rfl
@[simp] theorem State.updCp_strm (h : CmdPlane → CmdPlane) (j : Nat) : (s.updCp h).strm j = s.strm j := rfl
@[simp] theorem State.updCp_lk (h : CmdPlane → CmdPlane) (j : LinkEnd) : (s.updCp h).lk j = s.lk j := rfl
@[simp] theorem State.updCp_mc (h : CmdPlane → CmdPlane) (j : Nat) : (s.updCp h).mc j = s.mc j := rfl
@[simp] theorem State.updCp_chan (h : CmdPlane → CmdPlane) (j : Nat) : (s.updCp h).chan j = s.chan j := rfl
@[simp] theorem State.updCp_csPort (h : CmdPlane → CmdPlane) (j : Nat) : (s.updCp h).csPort j = s.csPort j := rfl
@[simp] theorem State.updCp_ctx (h : CmdPlane → CmdPlane) (j : Nat) : (s.updCp h).ctx j = s.ctx j := rfl
@[simp] theorem State.updCp_encIn (h : CmdPlane → CmdPlane) (j : Nat) : (s.updCp h).encIn j = s.encIn j := rfl
@[simp] theorem State.setSq_regs (k : Nat) (q : Option Sq) : (s.setSq k q).regs = s.regs := rfl
@[simp] theorem State.setSq_mem (k : Nat) (q : Option Sq) : (s.setSq k q).mem = s.mem := rfl
@[simp] theorem State.setSq_poison (k : Nat) (q : Option Sq) : (s.setSq k q).poison = s.poison := rfl
@[simp] theorem State.setSq_hub (k : Nat) (q : Option Sq) : (s.setSq k q).hub = s.hub := rfl
@[simp] theorem State.setSq_rcd (k : Nat) (q : Option Sq) : (s.setSq k q).rcd = s.rcd := rfl
@[simp] theorem State.setSq_exports (k : Nat) (q : Option Sq) : (s.setSq k q).exports = s.exports := rfl
@[simp] theorem State.setSq_pols (k : Nat) (q : Option Sq) : (s.setSq k q).pols = s.pols := rfl
@[simp] theorem State.setSq_polGen (k : Nat) (q : Option Sq) : (s.setSq k q).polGen = s.polGen := rfl
@[simp] theorem State.setSq_te (k : Nat) (q : Option Sq) : (s.setSq k q).te = s.te := rfl
@[simp] theorem State.setSq_cores (k : Nat) (q : Option Sq) : (s.setSq k q).cores = s.cores := rfl
@[simp] theorem State.setSq_pe (k : Nat) (q : Option Sq) : (s.setSq k q).pe = s.pe := rfl
@[simp] theorem State.setSq_dies (k : Nat) (q : Option Sq) : (s.setSq k q).dies = s.dies := rfl
@[simp] theorem State.setSq_halfLost (k : Nat) (q : Option Sq) : (s.setSq k q).halfLost = s.halfLost := rfl
@[simp] theorem State.setSq_halfReturning (k : Nat) (q : Option Sq) : (s.setSq k q).halfReturning = s.halfReturning := rfl
@[simp] theorem State.setSq_fabric (k : Nat) (q : Option Sq) : (s.setSq k q).fabric = s.fabric := rfl
@[simp] theorem State.setSq_dir (k : Nat) (q : Option Sq) : (s.setSq k q).dir = s.dir := rfl
@[simp] theorem State.setSq_io (k : Nat) (q : Option Sq) : (s.setSq k q).io = s.io := rfl
@[simp] theorem State.setSq_mcs (k : Nat) (q : Option Sq) : (s.setSq k q).mcs = s.mcs := rfl
@[simp] theorem State.setSq_berm (k : Nat) (q : Option Sq) : (s.setSq k q).berm = s.berm := rfl
@[simp] theorem State.setSq_ing (k : Nat) (q : Option Sq) : (s.setSq k q).ing = s.ing := rfl
@[simp] theorem State.setSq_links (k : Nat) (q : Option Sq) : (s.setSq k q).links = s.links := rfl
@[simp] theorem State.setSq_dike (k : Nat) (q : Option Sq) : (s.setSq k q).dike = s.dike := rfl
@[simp] theorem State.setSq_cas (k : Nat) (q : Option Sq) : (s.setSq k q).cas = s.cas := rfl
@[simp] theorem State.setSq_pow (k : Nat) (q : Option Sq) : (s.setSq k q).pow = s.pow := rfl
@[simp] theorem State.setSq_out (k : Nat) (q : Option Sq) : (s.setSq k q).out = s.out := rfl
@[simp] theorem State.setSq_free (k : Nat) (q : Option Sq) : (s.setSq k q).free = s.free := rfl
@[simp] theorem State.setSq_pending (k : Nat) (q : Option Sq) : (s.setSq k q).pending = s.pending := rfl
@[simp] theorem State.setSq_get (k : Nat) (q : Option Sq) (fl : Fld) (ix : Nat) : (s.setSq k q).get fl ix = s.get fl ix := rfl
@[simp] theorem State.setSq_flag (k : Nat) (q : Option Sq) (fl : Fld) (ix : Nat) : (s.setSq k q).flag fl ix = s.flag fl ix := rfl
@[simp] theorem State.setSq_now (k : Nat) (q : Option Sq) : (s.setSq k q).now = s.now := rfl
@[simp] theorem State.setSq_activeHalf (k : Nat) (q : Option Sq) : (s.setSq k q).activeHalf = s.activeHalf := rfl
@[simp] theorem State.setSq_guardedCfg (k : Nat) (q : Option Sq) : (s.setSq k q).guardedCfg = s.guardedCfg := rfl
@[simp] theorem State.setSq_polder (k : Nat) (q : Option Sq) (j : Nat) : (s.setSq k q).polder j = s.polder j := rfl
@[simp] theorem State.setSq_coreOf (k : Nat) (q : Option Sq) (j k2 : Nat) : (s.setSq k q).coreOf j k2 = s.coreOf j k2 := rfl
@[simp] theorem State.setSq_core (k : Nat) (q : Option Sq) (j : Nat) : (s.setSq k q).core j = s.core j := rfl
@[simp] theorem State.setSq_die (k : Nat) (q : Option Sq) (j : Nat) : (s.setSq k q).die j = s.die j := rfl
@[simp] theorem State.setSq_peSt (k : Nat) (q : Option Sq) (j : Nat) : (s.setSq k q).peSt j = s.peSt j := rfl
@[simp] theorem State.setSq_lost (k : Nat) (q : Option Sq) (j : Nat) : (s.setSq k q).lost j = s.lost j := rfl
@[simp] theorem State.setSq_strm (k : Nat) (q : Option Sq) (j : Nat) : (s.setSq k q).strm j = s.strm j := rfl
@[simp] theorem State.setSq_lk (k : Nat) (q : Option Sq) (j : LinkEnd) : (s.setSq k q).lk j = s.lk j := rfl
@[simp] theorem State.setSq_mc (k : Nat) (q : Option Sq) (j : Nat) : (s.setSq k q).mc j = s.mc j := rfl
@[simp] theorem State.setSq_chan (k : Nat) (q : Option Sq) (j : Nat) : (s.setSq k q).chan j = s.chan j := rfl
@[simp] theorem State.setSq_csPort (k : Nat) (q : Option Sq) (j : Nat) : (s.setSq k q).csPort j = s.csPort j := rfl
@[simp] theorem State.setSq_ctx (k : Nat) (q : Option Sq) (j : Nat) : (s.setSq k q).ctx j = s.ctx j := rfl
@[simp] theorem State.setSq_encIn (k : Nat) (q : Option Sq) (j : Nat) : (s.setSq k q).encIn j = s.encIn j := rfl
@[simp] theorem State.setCq_regs (k : Nat) (q : Option Cq) : (s.setCq k q).regs = s.regs := rfl
@[simp] theorem State.setCq_mem (k : Nat) (q : Option Cq) : (s.setCq k q).mem = s.mem := rfl
@[simp] theorem State.setCq_poison (k : Nat) (q : Option Cq) : (s.setCq k q).poison = s.poison := rfl
@[simp] theorem State.setCq_hub (k : Nat) (q : Option Cq) : (s.setCq k q).hub = s.hub := rfl
@[simp] theorem State.setCq_rcd (k : Nat) (q : Option Cq) : (s.setCq k q).rcd = s.rcd := rfl
@[simp] theorem State.setCq_exports (k : Nat) (q : Option Cq) : (s.setCq k q).exports = s.exports := rfl
@[simp] theorem State.setCq_pols (k : Nat) (q : Option Cq) : (s.setCq k q).pols = s.pols := rfl
@[simp] theorem State.setCq_polGen (k : Nat) (q : Option Cq) : (s.setCq k q).polGen = s.polGen := rfl
@[simp] theorem State.setCq_te (k : Nat) (q : Option Cq) : (s.setCq k q).te = s.te := rfl
@[simp] theorem State.setCq_cores (k : Nat) (q : Option Cq) : (s.setCq k q).cores = s.cores := rfl
@[simp] theorem State.setCq_pe (k : Nat) (q : Option Cq) : (s.setCq k q).pe = s.pe := rfl
@[simp] theorem State.setCq_dies (k : Nat) (q : Option Cq) : (s.setCq k q).dies = s.dies := rfl
@[simp] theorem State.setCq_halfLost (k : Nat) (q : Option Cq) : (s.setCq k q).halfLost = s.halfLost := rfl
@[simp] theorem State.setCq_halfReturning (k : Nat) (q : Option Cq) : (s.setCq k q).halfReturning = s.halfReturning := rfl
@[simp] theorem State.setCq_fabric (k : Nat) (q : Option Cq) : (s.setCq k q).fabric = s.fabric := rfl
@[simp] theorem State.setCq_dir (k : Nat) (q : Option Cq) : (s.setCq k q).dir = s.dir := rfl
@[simp] theorem State.setCq_io (k : Nat) (q : Option Cq) : (s.setCq k q).io = s.io := rfl
@[simp] theorem State.setCq_mcs (k : Nat) (q : Option Cq) : (s.setCq k q).mcs = s.mcs := rfl
@[simp] theorem State.setCq_berm (k : Nat) (q : Option Cq) : (s.setCq k q).berm = s.berm := rfl
@[simp] theorem State.setCq_ing (k : Nat) (q : Option Cq) : (s.setCq k q).ing = s.ing := rfl
@[simp] theorem State.setCq_links (k : Nat) (q : Option Cq) : (s.setCq k q).links = s.links := rfl
@[simp] theorem State.setCq_dike (k : Nat) (q : Option Cq) : (s.setCq k q).dike = s.dike := rfl
@[simp] theorem State.setCq_cas (k : Nat) (q : Option Cq) : (s.setCq k q).cas = s.cas := rfl
@[simp] theorem State.setCq_pow (k : Nat) (q : Option Cq) : (s.setCq k q).pow = s.pow := rfl
@[simp] theorem State.setCq_out (k : Nat) (q : Option Cq) : (s.setCq k q).out = s.out := rfl
@[simp] theorem State.setCq_free (k : Nat) (q : Option Cq) : (s.setCq k q).free = s.free := rfl
@[simp] theorem State.setCq_pending (k : Nat) (q : Option Cq) : (s.setCq k q).pending = s.pending := rfl
@[simp] theorem State.setCq_get (k : Nat) (q : Option Cq) (fl : Fld) (ix : Nat) : (s.setCq k q).get fl ix = s.get fl ix := rfl
@[simp] theorem State.setCq_flag (k : Nat) (q : Option Cq) (fl : Fld) (ix : Nat) : (s.setCq k q).flag fl ix = s.flag fl ix := rfl
@[simp] theorem State.setCq_now (k : Nat) (q : Option Cq) : (s.setCq k q).now = s.now := rfl
@[simp] theorem State.setCq_activeHalf (k : Nat) (q : Option Cq) : (s.setCq k q).activeHalf = s.activeHalf := rfl
@[simp] theorem State.setCq_guardedCfg (k : Nat) (q : Option Cq) : (s.setCq k q).guardedCfg = s.guardedCfg := rfl
@[simp] theorem State.setCq_polder (k : Nat) (q : Option Cq) (j : Nat) : (s.setCq k q).polder j = s.polder j := rfl
@[simp] theorem State.setCq_coreOf (k : Nat) (q : Option Cq) (j k2 : Nat) : (s.setCq k q).coreOf j k2 = s.coreOf j k2 := rfl
@[simp] theorem State.setCq_core (k : Nat) (q : Option Cq) (j : Nat) : (s.setCq k q).core j = s.core j := rfl
@[simp] theorem State.setCq_die (k : Nat) (q : Option Cq) (j : Nat) : (s.setCq k q).die j = s.die j := rfl
@[simp] theorem State.setCq_peSt (k : Nat) (q : Option Cq) (j : Nat) : (s.setCq k q).peSt j = s.peSt j := rfl
@[simp] theorem State.setCq_lost (k : Nat) (q : Option Cq) (j : Nat) : (s.setCq k q).lost j = s.lost j := rfl
@[simp] theorem State.setCq_strm (k : Nat) (q : Option Cq) (j : Nat) : (s.setCq k q).strm j = s.strm j := rfl
@[simp] theorem State.setCq_lk (k : Nat) (q : Option Cq) (j : LinkEnd) : (s.setCq k q).lk j = s.lk j := rfl
@[simp] theorem State.setCq_mc (k : Nat) (q : Option Cq) (j : Nat) : (s.setCq k q).mc j = s.mc j := rfl
@[simp] theorem State.setCq_chan (k : Nat) (q : Option Cq) (j : Nat) : (s.setCq k q).chan j = s.chan j := rfl
@[simp] theorem State.setCq_csPort (k : Nat) (q : Option Cq) (j : Nat) : (s.setCq k q).csPort j = s.csPort j := rfl
@[simp] theorem State.setCq_ctx (k : Nat) (q : Option Cq) (j : Nat) : (s.setCq k q).ctx j = s.ctx j := rfl
@[simp] theorem State.setCq_encIn (k : Nat) (q : Option Cq) (j : Nat) : (s.setCq k q).encIn j = s.encIn j := rfl
@[simp] theorem State.updWrr_regs (n : Nat) (h : Wrr → Wrr) : (s.updWrr n h).regs = s.regs := rfl
@[simp] theorem State.updWrr_mem (n : Nat) (h : Wrr → Wrr) : (s.updWrr n h).mem = s.mem := rfl
@[simp] theorem State.updWrr_poison (n : Nat) (h : Wrr → Wrr) : (s.updWrr n h).poison = s.poison := rfl
@[simp] theorem State.updWrr_hub (n : Nat) (h : Wrr → Wrr) : (s.updWrr n h).hub = s.hub := rfl
@[simp] theorem State.updWrr_rcd (n : Nat) (h : Wrr → Wrr) : (s.updWrr n h).rcd = s.rcd := rfl
@[simp] theorem State.updWrr_exports (n : Nat) (h : Wrr → Wrr) : (s.updWrr n h).exports = s.exports := rfl
@[simp] theorem State.updWrr_pols (n : Nat) (h : Wrr → Wrr) : (s.updWrr n h).pols = s.pols := rfl
@[simp] theorem State.updWrr_polGen (n : Nat) (h : Wrr → Wrr) : (s.updWrr n h).polGen = s.polGen := rfl
@[simp] theorem State.updWrr_te (n : Nat) (h : Wrr → Wrr) : (s.updWrr n h).te = s.te := rfl
@[simp] theorem State.updWrr_cores (n : Nat) (h : Wrr → Wrr) : (s.updWrr n h).cores = s.cores := rfl
@[simp] theorem State.updWrr_pe (n : Nat) (h : Wrr → Wrr) : (s.updWrr n h).pe = s.pe := rfl
@[simp] theorem State.updWrr_dies (n : Nat) (h : Wrr → Wrr) : (s.updWrr n h).dies = s.dies := rfl
@[simp] theorem State.updWrr_halfLost (n : Nat) (h : Wrr → Wrr) : (s.updWrr n h).halfLost = s.halfLost := rfl
@[simp] theorem State.updWrr_halfReturning (n : Nat) (h : Wrr → Wrr) : (s.updWrr n h).halfReturning = s.halfReturning := rfl
@[simp] theorem State.updWrr_fabric (n : Nat) (h : Wrr → Wrr) : (s.updWrr n h).fabric = s.fabric := rfl
@[simp] theorem State.updWrr_dir (n : Nat) (h : Wrr → Wrr) : (s.updWrr n h).dir = s.dir := rfl
@[simp] theorem State.updWrr_io (n : Nat) (h : Wrr → Wrr) : (s.updWrr n h).io = s.io := rfl
@[simp] theorem State.updWrr_mcs (n : Nat) (h : Wrr → Wrr) : (s.updWrr n h).mcs = s.mcs := rfl
@[simp] theorem State.updWrr_berm (n : Nat) (h : Wrr → Wrr) : (s.updWrr n h).berm = s.berm := rfl
@[simp] theorem State.updWrr_ing (n : Nat) (h : Wrr → Wrr) : (s.updWrr n h).ing = s.ing := rfl
@[simp] theorem State.updWrr_links (n : Nat) (h : Wrr → Wrr) : (s.updWrr n h).links = s.links := rfl
@[simp] theorem State.updWrr_dike (n : Nat) (h : Wrr → Wrr) : (s.updWrr n h).dike = s.dike := rfl
@[simp] theorem State.updWrr_cas (n : Nat) (h : Wrr → Wrr) : (s.updWrr n h).cas = s.cas := rfl
@[simp] theorem State.updWrr_pow (n : Nat) (h : Wrr → Wrr) : (s.updWrr n h).pow = s.pow := rfl
@[simp] theorem State.updWrr_out (n : Nat) (h : Wrr → Wrr) : (s.updWrr n h).out = s.out := rfl
@[simp] theorem State.updWrr_free (n : Nat) (h : Wrr → Wrr) : (s.updWrr n h).free = s.free := rfl
@[simp] theorem State.updWrr_pending (n : Nat) (h : Wrr → Wrr) : (s.updWrr n h).pending = s.pending := rfl
@[simp] theorem State.updWrr_get (n : Nat) (h : Wrr → Wrr) (fl : Fld) (ix : Nat) : (s.updWrr n h).get fl ix = s.get fl ix := rfl
@[simp] theorem State.updWrr_flag (n : Nat) (h : Wrr → Wrr) (fl : Fld) (ix : Nat) : (s.updWrr n h).flag fl ix = s.flag fl ix := rfl
@[simp] theorem State.updWrr_now (n : Nat) (h : Wrr → Wrr) : (s.updWrr n h).now = s.now := rfl
@[simp] theorem State.updWrr_activeHalf (n : Nat) (h : Wrr → Wrr) : (s.updWrr n h).activeHalf = s.activeHalf := rfl
@[simp] theorem State.updWrr_guardedCfg (n : Nat) (h : Wrr → Wrr) : (s.updWrr n h).guardedCfg = s.guardedCfg := rfl
@[simp] theorem State.updWrr_polder (n : Nat) (h : Wrr → Wrr) (j : Nat) : (s.updWrr n h).polder j = s.polder j := rfl
@[simp] theorem State.updWrr_coreOf (n : Nat) (h : Wrr → Wrr) (j k2 : Nat) : (s.updWrr n h).coreOf j k2 = s.coreOf j k2 := rfl
@[simp] theorem State.updWrr_core (n : Nat) (h : Wrr → Wrr) (j : Nat) : (s.updWrr n h).core j = s.core j := rfl
@[simp] theorem State.updWrr_die (n : Nat) (h : Wrr → Wrr) (j : Nat) : (s.updWrr n h).die j = s.die j := rfl
@[simp] theorem State.updWrr_peSt (n : Nat) (h : Wrr → Wrr) (j : Nat) : (s.updWrr n h).peSt j = s.peSt j := rfl
@[simp] theorem State.updWrr_lost (n : Nat) (h : Wrr → Wrr) (j : Nat) : (s.updWrr n h).lost j = s.lost j := rfl
@[simp] theorem State.updWrr_strm (n : Nat) (h : Wrr → Wrr) (j : Nat) : (s.updWrr n h).strm j = s.strm j := rfl
@[simp] theorem State.updWrr_lk (n : Nat) (h : Wrr → Wrr) (j : LinkEnd) : (s.updWrr n h).lk j = s.lk j := rfl
@[simp] theorem State.updWrr_mc (n : Nat) (h : Wrr → Wrr) (j : Nat) : (s.updWrr n h).mc j = s.mc j := rfl
@[simp] theorem State.updWrr_chan (n : Nat) (h : Wrr → Wrr) (j : Nat) : (s.updWrr n h).chan j = s.chan j := rfl
@[simp] theorem State.updWrr_csPort (n : Nat) (h : Wrr → Wrr) (j : Nat) : (s.updWrr n h).csPort j = s.csPort j := rfl
@[simp] theorem State.updWrr_ctx (n : Nat) (h : Wrr → Wrr) (j : Nat) : (s.updWrr n h).ctx j = s.ctx j := rfl
@[simp] theorem State.updWrr_encIn (n : Nat) (h : Wrr → Wrr) (j : Nat) : (s.updWrr n h).encIn j = s.encIn j := rfl
@[simp] theorem State.setSlot_regs (k : Nat) (x : FwSlot) : (s.setSlot k x).regs = s.regs := rfl
@[simp] theorem State.setSlot_mem (k : Nat) (x : FwSlot) : (s.setSlot k x).mem = s.mem := rfl
@[simp] theorem State.setSlot_poison (k : Nat) (x : FwSlot) : (s.setSlot k x).poison = s.poison := rfl
@[simp] theorem State.setSlot_hub (k : Nat) (x : FwSlot) : (s.setSlot k x).hub = s.hub := rfl
@[simp] theorem State.setSlot_rcd (k : Nat) (x : FwSlot) : (s.setSlot k x).rcd = s.rcd := rfl
@[simp] theorem State.setSlot_exports (k : Nat) (x : FwSlot) : (s.setSlot k x).exports = s.exports := rfl
@[simp] theorem State.setSlot_pols (k : Nat) (x : FwSlot) : (s.setSlot k x).pols = s.pols := rfl
@[simp] theorem State.setSlot_polGen (k : Nat) (x : FwSlot) : (s.setSlot k x).polGen = s.polGen := rfl
@[simp] theorem State.setSlot_te (k : Nat) (x : FwSlot) : (s.setSlot k x).te = s.te := rfl
@[simp] theorem State.setSlot_cores (k : Nat) (x : FwSlot) : (s.setSlot k x).cores = s.cores := rfl
@[simp] theorem State.setSlot_pe (k : Nat) (x : FwSlot) : (s.setSlot k x).pe = s.pe := rfl
@[simp] theorem State.setSlot_dies (k : Nat) (x : FwSlot) : (s.setSlot k x).dies = s.dies := rfl
@[simp] theorem State.setSlot_halfLost (k : Nat) (x : FwSlot) : (s.setSlot k x).halfLost = s.halfLost := rfl
@[simp] theorem State.setSlot_halfReturning (k : Nat) (x : FwSlot) : (s.setSlot k x).halfReturning = s.halfReturning := rfl
@[simp] theorem State.setSlot_fabric (k : Nat) (x : FwSlot) : (s.setSlot k x).fabric = s.fabric := rfl
@[simp] theorem State.setSlot_dir (k : Nat) (x : FwSlot) : (s.setSlot k x).dir = s.dir := rfl
@[simp] theorem State.setSlot_io (k : Nat) (x : FwSlot) : (s.setSlot k x).io = s.io := rfl
@[simp] theorem State.setSlot_mcs (k : Nat) (x : FwSlot) : (s.setSlot k x).mcs = s.mcs := rfl
@[simp] theorem State.setSlot_berm (k : Nat) (x : FwSlot) : (s.setSlot k x).berm = s.berm := rfl
@[simp] theorem State.setSlot_ing (k : Nat) (x : FwSlot) : (s.setSlot k x).ing = s.ing := rfl
@[simp] theorem State.setSlot_links (k : Nat) (x : FwSlot) : (s.setSlot k x).links = s.links := rfl
@[simp] theorem State.setSlot_dike (k : Nat) (x : FwSlot) : (s.setSlot k x).dike = s.dike := rfl
@[simp] theorem State.setSlot_cas (k : Nat) (x : FwSlot) : (s.setSlot k x).cas = s.cas := rfl
@[simp] theorem State.setSlot_pow (k : Nat) (x : FwSlot) : (s.setSlot k x).pow = s.pow := rfl
@[simp] theorem State.setSlot_out (k : Nat) (x : FwSlot) : (s.setSlot k x).out = s.out := rfl
@[simp] theorem State.setSlot_free (k : Nat) (x : FwSlot) : (s.setSlot k x).free = s.free := rfl
@[simp] theorem State.setSlot_pending (k : Nat) (x : FwSlot) : (s.setSlot k x).pending = s.pending := rfl
@[simp] theorem State.setSlot_get (k : Nat) (x : FwSlot) (fl : Fld) (ix : Nat) : (s.setSlot k x).get fl ix = s.get fl ix := rfl
@[simp] theorem State.setSlot_flag (k : Nat) (x : FwSlot) (fl : Fld) (ix : Nat) : (s.setSlot k x).flag fl ix = s.flag fl ix := rfl
@[simp] theorem State.setSlot_now (k : Nat) (x : FwSlot) : (s.setSlot k x).now = s.now := rfl
@[simp] theorem State.setSlot_activeHalf (k : Nat) (x : FwSlot) : (s.setSlot k x).activeHalf = s.activeHalf := rfl
@[simp] theorem State.setSlot_guardedCfg (k : Nat) (x : FwSlot) : (s.setSlot k x).guardedCfg = s.guardedCfg := rfl
@[simp] theorem State.setSlot_polder (k : Nat) (x : FwSlot) (j : Nat) : (s.setSlot k x).polder j = s.polder j := rfl
@[simp] theorem State.setSlot_coreOf (k : Nat) (x : FwSlot) (j k2 : Nat) : (s.setSlot k x).coreOf j k2 = s.coreOf j k2 := rfl
@[simp] theorem State.setSlot_core (k : Nat) (x : FwSlot) (j : Nat) : (s.setSlot k x).core j = s.core j := rfl
@[simp] theorem State.setSlot_die (k : Nat) (x : FwSlot) (j : Nat) : (s.setSlot k x).die j = s.die j := rfl
@[simp] theorem State.setSlot_peSt (k : Nat) (x : FwSlot) (j : Nat) : (s.setSlot k x).peSt j = s.peSt j := rfl
@[simp] theorem State.setSlot_lost (k : Nat) (x : FwSlot) (j : Nat) : (s.setSlot k x).lost j = s.lost j := rfl
@[simp] theorem State.setSlot_strm (k : Nat) (x : FwSlot) (j : Nat) : (s.setSlot k x).strm j = s.strm j := rfl
@[simp] theorem State.setSlot_lk (k : Nat) (x : FwSlot) (j : LinkEnd) : (s.setSlot k x).lk j = s.lk j := rfl
@[simp] theorem State.setSlot_mc (k : Nat) (x : FwSlot) (j : Nat) : (s.setSlot k x).mc j = s.mc j := rfl
@[simp] theorem State.setSlot_chan (k : Nat) (x : FwSlot) (j : Nat) : (s.setSlot k x).chan j = s.chan j := rfl
@[simp] theorem State.setSlot_csPort (k : Nat) (x : FwSlot) (j : Nat) : (s.setSlot k x).csPort j = s.csPort j := rfl
@[simp] theorem State.setSlot_ctx (k : Nat) (x : FwSlot) (j : Nat) : (s.setSlot k x).ctx j = s.ctx j := rfl
@[simp] theorem State.setSlot_encIn (k : Nat) (x : FwSlot) (j : Nat) : (s.setSlot k x).encIn j = s.encIn j := rfl
@[simp] theorem State.updBerm_regs (h : Berm → Berm) : (s.updBerm h).regs = s.regs := rfl
@[simp] theorem State.updBerm_mem (h : Berm → Berm) : (s.updBerm h).mem = s.mem := rfl
@[simp] theorem State.updBerm_poison (h : Berm → Berm) : (s.updBerm h).poison = s.poison := rfl
@[simp] theorem State.updBerm_hub (h : Berm → Berm) : (s.updBerm h).hub = s.hub := rfl
@[simp] theorem State.updBerm_cp (h : Berm → Berm) : (s.updBerm h).cp = s.cp := rfl
@[simp] theorem State.updBerm_rcd (h : Berm → Berm) : (s.updBerm h).rcd = s.rcd := rfl
@[simp] theorem State.updBerm_exports (h : Berm → Berm) : (s.updBerm h).exports = s.exports := rfl
@[simp] theorem State.updBerm_pols (h : Berm → Berm) : (s.updBerm h).pols = s.pols := rfl
@[simp] theorem State.updBerm_polGen (h : Berm → Berm) : (s.updBerm h).polGen = s.polGen := rfl
@[simp] theorem State.updBerm_te (h : Berm → Berm) : (s.updBerm h).te = s.te := rfl
@[simp] theorem State.updBerm_cores (h : Berm → Berm) : (s.updBerm h).cores = s.cores := rfl
@[simp] theorem State.updBerm_pe (h : Berm → Berm) : (s.updBerm h).pe = s.pe := rfl
@[simp] theorem State.updBerm_dies (h : Berm → Berm) : (s.updBerm h).dies = s.dies := rfl
@[simp] theorem State.updBerm_halfLost (h : Berm → Berm) : (s.updBerm h).halfLost = s.halfLost := rfl
@[simp] theorem State.updBerm_halfReturning (h : Berm → Berm) : (s.updBerm h).halfReturning = s.halfReturning := rfl
@[simp] theorem State.updBerm_fabric (h : Berm → Berm) : (s.updBerm h).fabric = s.fabric := rfl
@[simp] theorem State.updBerm_dir (h : Berm → Berm) : (s.updBerm h).dir = s.dir := rfl
@[simp] theorem State.updBerm_io (h : Berm → Berm) : (s.updBerm h).io = s.io := rfl
@[simp] theorem State.updBerm_mcs (h : Berm → Berm) : (s.updBerm h).mcs = s.mcs := rfl
@[simp] theorem State.updBerm_ing (h : Berm → Berm) : (s.updBerm h).ing = s.ing := rfl
@[simp] theorem State.updBerm_links (h : Berm → Berm) : (s.updBerm h).links = s.links := rfl
@[simp] theorem State.updBerm_dike (h : Berm → Berm) : (s.updBerm h).dike = s.dike := rfl
@[simp] theorem State.updBerm_cas (h : Berm → Berm) : (s.updBerm h).cas = s.cas := rfl
@[simp] theorem State.updBerm_pow (h : Berm → Berm) : (s.updBerm h).pow = s.pow := rfl
@[simp] theorem State.updBerm_out (h : Berm → Berm) : (s.updBerm h).out = s.out := rfl
@[simp] theorem State.updBerm_free (h : Berm → Berm) : (s.updBerm h).free = s.free := rfl
@[simp] theorem State.updBerm_pending (h : Berm → Berm) : (s.updBerm h).pending = s.pending := rfl
@[simp] theorem State.updBerm_get (h : Berm → Berm) (fl : Fld) (ix : Nat) : (s.updBerm h).get fl ix = s.get fl ix := rfl
@[simp] theorem State.updBerm_flag (h : Berm → Berm) (fl : Fld) (ix : Nat) : (s.updBerm h).flag fl ix = s.flag fl ix := rfl
@[simp] theorem State.updBerm_now (h : Berm → Berm) : (s.updBerm h).now = s.now := rfl
@[simp] theorem State.updBerm_activeHalf (h : Berm → Berm) : (s.updBerm h).activeHalf = s.activeHalf := rfl
@[simp] theorem State.updBerm_guardedCfg (h : Berm → Berm) : (s.updBerm h).guardedCfg = s.guardedCfg := rfl
@[simp] theorem State.updBerm_sq (h : Berm → Berm) (j : Nat) : (s.updBerm h).sq j = s.sq j := rfl
@[simp] theorem State.updBerm_cq (h : Berm → Berm) (j : Nat) : (s.updBerm h).cq j = s.cq j := rfl
@[simp] theorem State.updBerm_slot (h : Berm → Berm) (j : Nat) : (s.updBerm h).slot j = s.slot j := rfl
@[simp] theorem State.updBerm_polder (h : Berm → Berm) (j : Nat) : (s.updBerm h).polder j = s.polder j := rfl
@[simp] theorem State.updBerm_coreOf (h : Berm → Berm) (j k2 : Nat) : (s.updBerm h).coreOf j k2 = s.coreOf j k2 := rfl
@[simp] theorem State.updBerm_core (h : Berm → Berm) (j : Nat) : (s.updBerm h).core j = s.core j := rfl
@[simp] theorem State.updBerm_die (h : Berm → Berm) (j : Nat) : (s.updBerm h).die j = s.die j := rfl
@[simp] theorem State.updBerm_peSt (h : Berm → Berm) (j : Nat) : (s.updBerm h).peSt j = s.peSt j := rfl
@[simp] theorem State.updBerm_lost (h : Berm → Berm) (j : Nat) : (s.updBerm h).lost j = s.lost j := rfl
@[simp] theorem State.updBerm_strm (h : Berm → Berm) (j : Nat) : (s.updBerm h).strm j = s.strm j := rfl
@[simp] theorem State.updBerm_lk (h : Berm → Berm) (j : LinkEnd) : (s.updBerm h).lk j = s.lk j := rfl
@[simp] theorem State.updBerm_mc (h : Berm → Berm) (j : Nat) : (s.updBerm h).mc j = s.mc j := rfl
@[simp] theorem State.updBerm_chan (h : Berm → Berm) (j : Nat) : (s.updBerm h).chan j = s.chan j := rfl
@[simp] theorem State.updBerm_csPort (h : Berm → Berm) (j : Nat) : (s.updBerm h).csPort j = s.csPort j := rfl
@[simp] theorem State.updBerm_ctx (h : Berm → Berm) (j : Nat) : (s.updBerm h).ctx j = s.ctx j := rfl
@[simp] theorem State.updBerm_encIn (h : Berm → Berm) (j : Nat) : (s.updBerm h).encIn j = s.encIn j := rfl
@[simp] theorem State.updDike_regs (g : Nat) (h : Dike → Dike) : (s.updDike g h).regs = s.regs := rfl
@[simp] theorem State.updDike_mem (g : Nat) (h : Dike → Dike) : (s.updDike g h).mem = s.mem := rfl
@[simp] theorem State.updDike_poison (g : Nat) (h : Dike → Dike) : (s.updDike g h).poison = s.poison := rfl
@[simp] theorem State.updDike_hub (g : Nat) (h : Dike → Dike) : (s.updDike g h).hub = s.hub := rfl
@[simp] theorem State.updDike_cp (g : Nat) (h : Dike → Dike) : (s.updDike g h).cp = s.cp := rfl
@[simp] theorem State.updDike_rcd (g : Nat) (h : Dike → Dike) : (s.updDike g h).rcd = s.rcd := rfl
@[simp] theorem State.updDike_exports (g : Nat) (h : Dike → Dike) : (s.updDike g h).exports = s.exports := rfl
@[simp] theorem State.updDike_pols (g : Nat) (h : Dike → Dike) : (s.updDike g h).pols = s.pols := rfl
@[simp] theorem State.updDike_polGen (g : Nat) (h : Dike → Dike) : (s.updDike g h).polGen = s.polGen := rfl
@[simp] theorem State.updDike_te (g : Nat) (h : Dike → Dike) : (s.updDike g h).te = s.te := rfl
@[simp] theorem State.updDike_cores (g : Nat) (h : Dike → Dike) : (s.updDike g h).cores = s.cores := rfl
@[simp] theorem State.updDike_pe (g : Nat) (h : Dike → Dike) : (s.updDike g h).pe = s.pe := rfl
@[simp] theorem State.updDike_dies (g : Nat) (h : Dike → Dike) : (s.updDike g h).dies = s.dies := rfl
@[simp] theorem State.updDike_halfLost (g : Nat) (h : Dike → Dike) : (s.updDike g h).halfLost = s.halfLost := rfl
@[simp] theorem State.updDike_halfReturning (g : Nat) (h : Dike → Dike) : (s.updDike g h).halfReturning = s.halfReturning := rfl
@[simp] theorem State.updDike_fabric (g : Nat) (h : Dike → Dike) : (s.updDike g h).fabric = s.fabric := rfl
@[simp] theorem State.updDike_dir (g : Nat) (h : Dike → Dike) : (s.updDike g h).dir = s.dir := rfl
@[simp] theorem State.updDike_io (g : Nat) (h : Dike → Dike) : (s.updDike g h).io = s.io := rfl
@[simp] theorem State.updDike_mcs (g : Nat) (h : Dike → Dike) : (s.updDike g h).mcs = s.mcs := rfl
@[simp] theorem State.updDike_berm (g : Nat) (h : Dike → Dike) : (s.updDike g h).berm = s.berm := rfl
@[simp] theorem State.updDike_ing (g : Nat) (h : Dike → Dike) : (s.updDike g h).ing = s.ing := rfl
@[simp] theorem State.updDike_links (g : Nat) (h : Dike → Dike) : (s.updDike g h).links = s.links := rfl
@[simp] theorem State.updDike_cas (g : Nat) (h : Dike → Dike) : (s.updDike g h).cas = s.cas := rfl
@[simp] theorem State.updDike_pow (g : Nat) (h : Dike → Dike) : (s.updDike g h).pow = s.pow := rfl
@[simp] theorem State.updDike_out (g : Nat) (h : Dike → Dike) : (s.updDike g h).out = s.out := rfl
@[simp] theorem State.updDike_free (g : Nat) (h : Dike → Dike) : (s.updDike g h).free = s.free := rfl
@[simp] theorem State.updDike_pending (g : Nat) (h : Dike → Dike) : (s.updDike g h).pending = s.pending := rfl
@[simp] theorem State.updDike_get (g : Nat) (h : Dike → Dike) (fl : Fld) (ix : Nat) : (s.updDike g h).get fl ix = s.get fl ix := rfl
@[simp] theorem State.updDike_flag (g : Nat) (h : Dike → Dike) (fl : Fld) (ix : Nat) : (s.updDike g h).flag fl ix = s.flag fl ix := rfl
@[simp] theorem State.updDike_now (g : Nat) (h : Dike → Dike) : (s.updDike g h).now = s.now := rfl
@[simp] theorem State.updDike_activeHalf (g : Nat) (h : Dike → Dike) : (s.updDike g h).activeHalf = s.activeHalf := rfl
@[simp] theorem State.updDike_guardedCfg (g : Nat) (h : Dike → Dike) : (s.updDike g h).guardedCfg = s.guardedCfg := rfl
@[simp] theorem State.updDike_sq (g : Nat) (h : Dike → Dike) (j : Nat) : (s.updDike g h).sq j = s.sq j := rfl
@[simp] theorem State.updDike_cq (g : Nat) (h : Dike → Dike) (j : Nat) : (s.updDike g h).cq j = s.cq j := rfl
@[simp] theorem State.updDike_slot (g : Nat) (h : Dike → Dike) (j : Nat) : (s.updDike g h).slot j = s.slot j := rfl
@[simp] theorem State.updDike_polder (g : Nat) (h : Dike → Dike) (j : Nat) : (s.updDike g h).polder j = s.polder j := rfl
@[simp] theorem State.updDike_coreOf (g : Nat) (h : Dike → Dike) (j k2 : Nat) : (s.updDike g h).coreOf j k2 = s.coreOf j k2 := rfl
@[simp] theorem State.updDike_core (g : Nat) (h : Dike → Dike) (j : Nat) : (s.updDike g h).core j = s.core j := rfl
@[simp] theorem State.updDike_die (g : Nat) (h : Dike → Dike) (j : Nat) : (s.updDike g h).die j = s.die j := rfl
@[simp] theorem State.updDike_peSt (g : Nat) (h : Dike → Dike) (j : Nat) : (s.updDike g h).peSt j = s.peSt j := rfl
@[simp] theorem State.updDike_lost (g : Nat) (h : Dike → Dike) (j : Nat) : (s.updDike g h).lost j = s.lost j := rfl
@[simp] theorem State.updDike_strm (g : Nat) (h : Dike → Dike) (j : Nat) : (s.updDike g h).strm j = s.strm j := rfl
@[simp] theorem State.updDike_lk (g : Nat) (h : Dike → Dike) (j : LinkEnd) : (s.updDike g h).lk j = s.lk j := rfl
@[simp] theorem State.updDike_mc (g : Nat) (h : Dike → Dike) (j : Nat) : (s.updDike g h).mc j = s.mc j := rfl
@[simp] theorem State.updDike_chan (g : Nat) (h : Dike → Dike) (j : Nat) : (s.updDike g h).chan j = s.chan j := rfl
@[simp] theorem State.updDike_csPort (g : Nat) (h : Dike → Dike) (j : Nat) : (s.updDike g h).csPort j = s.csPort j := rfl
@[simp] theorem State.updDike_ctx (g : Nat) (h : Dike → Dike) (j : Nat) : (s.updDike g h).ctx j = s.ctx j := rfl
@[simp] theorem State.updDike_encIn (g : Nat) (h : Dike → Dike) (j : Nat) : (s.updDike g h).encIn j = s.encIn j := rfl
@[simp] theorem State.updRcd_regs (g : Nat) (h : Recorder → Recorder) : (s.updRcd g h).regs = s.regs := rfl
@[simp] theorem State.updRcd_mem (g : Nat) (h : Recorder → Recorder) : (s.updRcd g h).mem = s.mem := rfl
@[simp] theorem State.updRcd_poison (g : Nat) (h : Recorder → Recorder) : (s.updRcd g h).poison = s.poison := rfl
@[simp] theorem State.updRcd_hub (g : Nat) (h : Recorder → Recorder) : (s.updRcd g h).hub = s.hub := rfl
@[simp] theorem State.updRcd_cp (g : Nat) (h : Recorder → Recorder) : (s.updRcd g h).cp = s.cp := rfl
@[simp] theorem State.updRcd_exports (g : Nat) (h : Recorder → Recorder) : (s.updRcd g h).exports = s.exports := rfl
@[simp] theorem State.updRcd_pols (g : Nat) (h : Recorder → Recorder) : (s.updRcd g h).pols = s.pols := rfl
@[simp] theorem State.updRcd_polGen (g : Nat) (h : Recorder → Recorder) : (s.updRcd g h).polGen = s.polGen := rfl
@[simp] theorem State.updRcd_te (g : Nat) (h : Recorder → Recorder) : (s.updRcd g h).te = s.te := rfl
@[simp] theorem State.updRcd_cores (g : Nat) (h : Recorder → Recorder) : (s.updRcd g h).cores = s.cores := rfl
@[simp] theorem State.updRcd_pe (g : Nat) (h : Recorder → Recorder) : (s.updRcd g h).pe = s.pe := rfl
@[simp] theorem State.updRcd_dies (g : Nat) (h : Recorder → Recorder) : (s.updRcd g h).dies = s.dies := rfl
@[simp] theorem State.updRcd_halfLost (g : Nat) (h : Recorder → Recorder) : (s.updRcd g h).halfLost = s.halfLost := rfl
@[simp] theorem State.updRcd_halfReturning (g : Nat) (h : Recorder → Recorder) : (s.updRcd g h).halfReturning = s.halfReturning := rfl
@[simp] theorem State.updRcd_fabric (g : Nat) (h : Recorder → Recorder) : (s.updRcd g h).fabric = s.fabric := rfl
@[simp] theorem State.updRcd_dir (g : Nat) (h : Recorder → Recorder) : (s.updRcd g h).dir = s.dir := rfl
@[simp] theorem State.updRcd_io (g : Nat) (h : Recorder → Recorder) : (s.updRcd g h).io = s.io := rfl
@[simp] theorem State.updRcd_mcs (g : Nat) (h : Recorder → Recorder) : (s.updRcd g h).mcs = s.mcs := rfl
@[simp] theorem State.updRcd_berm (g : Nat) (h : Recorder → Recorder) : (s.updRcd g h).berm = s.berm := rfl
@[simp] theorem State.updRcd_ing (g : Nat) (h : Recorder → Recorder) : (s.updRcd g h).ing = s.ing := rfl
@[simp] theorem State.updRcd_links (g : Nat) (h : Recorder → Recorder) : (s.updRcd g h).links = s.links := rfl
@[simp] theorem State.updRcd_dike (g : Nat) (h : Recorder → Recorder) : (s.updRcd g h).dike = s.dike := rfl
@[simp] theorem State.updRcd_cas (g : Nat) (h : Recorder → Recorder) : (s.updRcd g h).cas = s.cas := rfl
@[simp] theorem State.updRcd_pow (g : Nat) (h : Recorder → Recorder) : (s.updRcd g h).pow = s.pow := rfl
@[simp] theorem State.updRcd_out (g : Nat) (h : Recorder → Recorder) : (s.updRcd g h).out = s.out := rfl
@[simp] theorem State.updRcd_free (g : Nat) (h : Recorder → Recorder) : (s.updRcd g h).free = s.free := rfl
@[simp] theorem State.updRcd_pending (g : Nat) (h : Recorder → Recorder) : (s.updRcd g h).pending = s.pending := rfl
@[simp] theorem State.updRcd_get (g : Nat) (h : Recorder → Recorder) (fl : Fld) (ix : Nat) : (s.updRcd g h).get fl ix = s.get fl ix := rfl
@[simp] theorem State.updRcd_flag (g : Nat) (h : Recorder → Recorder) (fl : Fld) (ix : Nat) : (s.updRcd g h).flag fl ix = s.flag fl ix := rfl
@[simp] theorem State.updRcd_now (g : Nat) (h : Recorder → Recorder) : (s.updRcd g h).now = s.now := rfl
@[simp] theorem State.updRcd_activeHalf (g : Nat) (h : Recorder → Recorder) : (s.updRcd g h).activeHalf = s.activeHalf := rfl
@[simp] theorem State.updRcd_guardedCfg (g : Nat) (h : Recorder → Recorder) : (s.updRcd g h).guardedCfg = s.guardedCfg := rfl
@[simp] theorem State.updRcd_sq (g : Nat) (h : Recorder → Recorder) (j : Nat) : (s.updRcd g h).sq j = s.sq j := rfl
@[simp] theorem State.updRcd_cq (g : Nat) (h : Recorder → Recorder) (j : Nat) : (s.updRcd g h).cq j = s.cq j := rfl
@[simp] theorem State.updRcd_slot (g : Nat) (h : Recorder → Recorder) (j : Nat) : (s.updRcd g h).slot j = s.slot j := rfl
@[simp] theorem State.updRcd_polder (g : Nat) (h : Recorder → Recorder) (j : Nat) : (s.updRcd g h).polder j = s.polder j := rfl
@[simp] theorem State.updRcd_coreOf (g : Nat) (h : Recorder → Recorder) (j k2 : Nat) : (s.updRcd g h).coreOf j k2 = s.coreOf j k2 := rfl
@[simp] theorem State.updRcd_core (g : Nat) (h : Recorder → Recorder) (j : Nat) : (s.updRcd g h).core j = s.core j := rfl
@[simp] theorem State.updRcd_die (g : Nat) (h : Recorder → Recorder) (j : Nat) : (s.updRcd g h).die j = s.die j := rfl
@[simp] theorem State.updRcd_peSt (g : Nat) (h : Recorder → Recorder) (j : Nat) : (s.updRcd g h).peSt j = s.peSt j := rfl
@[simp] theorem State.updRcd_lost (g : Nat) (h : Recorder → Recorder) (j : Nat) : (s.updRcd g h).lost j = s.lost j := rfl
@[simp] theorem State.updRcd_strm (g : Nat) (h : Recorder → Recorder) (j : Nat) : (s.updRcd g h).strm j = s.strm j := rfl
@[simp] theorem State.updRcd_lk (g : Nat) (h : Recorder → Recorder) (j : LinkEnd) : (s.updRcd g h).lk j = s.lk j := rfl
@[simp] theorem State.updRcd_mc (g : Nat) (h : Recorder → Recorder) (j : Nat) : (s.updRcd g h).mc j = s.mc j := rfl
@[simp] theorem State.updRcd_chan (g : Nat) (h : Recorder → Recorder) (j : Nat) : (s.updRcd g h).chan j = s.chan j := rfl
@[simp] theorem State.updRcd_csPort (g : Nat) (h : Recorder → Recorder) (j : Nat) : (s.updRcd g h).csPort j = s.csPort j := rfl
@[simp] theorem State.updRcd_ctx (g : Nat) (h : Recorder → Recorder) (j : Nat) : (s.updRcd g h).ctx j = s.ctx j := rfl
@[simp] theorem State.updRcd_encIn (g : Nat) (h : Recorder → Recorder) (j : Nat) : (s.updRcd g h).encIn j = s.encIn j := rfl
@[simp] theorem State.updPe_regs (e : Nat) (h : PeSt → PeSt) : (s.updPe e h).regs = s.regs := rfl
@[simp] theorem State.updPe_mem (e : Nat) (h : PeSt → PeSt) : (s.updPe e h).mem = s.mem := rfl
@[simp] theorem State.updPe_poison (e : Nat) (h : PeSt → PeSt) : (s.updPe e h).poison = s.poison := rfl
@[simp] theorem State.updPe_hub (e : Nat) (h : PeSt → PeSt) : (s.updPe e h).hub = s.hub := rfl
@[simp] theorem State.updPe_cp (e : Nat) (h : PeSt → PeSt) : (s.updPe e h).cp = s.cp := rfl
@[simp] theorem State.updPe_rcd (e : Nat) (h : PeSt → PeSt) : (s.updPe e h).rcd = s.rcd := rfl
@[simp] theorem State.updPe_exports (e : Nat) (h : PeSt → PeSt) : (s.updPe e h).exports = s.exports := rfl
@[simp] theorem State.updPe_pols (e : Nat) (h : PeSt → PeSt) : (s.updPe e h).pols = s.pols := rfl
@[simp] theorem State.updPe_polGen (e : Nat) (h : PeSt → PeSt) : (s.updPe e h).polGen = s.polGen := rfl
@[simp] theorem State.updPe_te (e : Nat) (h : PeSt → PeSt) : (s.updPe e h).te = s.te := rfl
@[simp] theorem State.updPe_cores (e : Nat) (h : PeSt → PeSt) : (s.updPe e h).cores = s.cores := rfl
@[simp] theorem State.updPe_dies (e : Nat) (h : PeSt → PeSt) : (s.updPe e h).dies = s.dies := rfl
@[simp] theorem State.updPe_halfLost (e : Nat) (h : PeSt → PeSt) : (s.updPe e h).halfLost = s.halfLost := rfl
@[simp] theorem State.updPe_halfReturning (e : Nat) (h : PeSt → PeSt) : (s.updPe e h).halfReturning = s.halfReturning := rfl
@[simp] theorem State.updPe_fabric (e : Nat) (h : PeSt → PeSt) : (s.updPe e h).fabric = s.fabric := rfl
@[simp] theorem State.updPe_dir (e : Nat) (h : PeSt → PeSt) : (s.updPe e h).dir = s.dir := rfl
@[simp] theorem State.updPe_io (e : Nat) (h : PeSt → PeSt) : (s.updPe e h).io = s.io := rfl
@[simp] theorem State.updPe_mcs (e : Nat) (h : PeSt → PeSt) : (s.updPe e h).mcs = s.mcs := rfl
@[simp] theorem State.updPe_berm (e : Nat) (h : PeSt → PeSt) : (s.updPe e h).berm = s.berm := rfl
@[simp] theorem State.updPe_ing (e : Nat) (h : PeSt → PeSt) : (s.updPe e h).ing = s.ing := rfl
@[simp] theorem State.updPe_links (e : Nat) (h : PeSt → PeSt) : (s.updPe e h).links = s.links := rfl
@[simp] theorem State.updPe_dike (e : Nat) (h : PeSt → PeSt) : (s.updPe e h).dike = s.dike := rfl
@[simp] theorem State.updPe_cas (e : Nat) (h : PeSt → PeSt) : (s.updPe e h).cas = s.cas := rfl
@[simp] theorem State.updPe_pow (e : Nat) (h : PeSt → PeSt) : (s.updPe e h).pow = s.pow := rfl
@[simp] theorem State.updPe_out (e : Nat) (h : PeSt → PeSt) : (s.updPe e h).out = s.out := rfl
@[simp] theorem State.updPe_free (e : Nat) (h : PeSt → PeSt) : (s.updPe e h).free = s.free := rfl
@[simp] theorem State.updPe_pending (e : Nat) (h : PeSt → PeSt) : (s.updPe e h).pending = s.pending := rfl
@[simp] theorem State.updPe_get (e : Nat) (h : PeSt → PeSt) (fl : Fld) (ix : Nat) : (s.updPe e h).get fl ix = s.get fl ix := rfl
@[simp] theorem State.updPe_flag (e : Nat) (h : PeSt → PeSt) (fl : Fld) (ix : Nat) : (s.updPe e h).flag fl ix = s.flag fl ix := rfl
@[simp] theorem State.updPe_now (e : Nat) (h : PeSt → PeSt) : (s.updPe e h).now = s.now := rfl
@[simp] theorem State.updPe_activeHalf (e : Nat) (h : PeSt → PeSt) : (s.updPe e h).activeHalf = s.activeHalf := rfl
@[simp] theorem State.updPe_guardedCfg (e : Nat) (h : PeSt → PeSt) : (s.updPe e h).guardedCfg = s.guardedCfg := rfl
@[simp] theorem State.updPe_sq (e : Nat) (h : PeSt → PeSt) (j : Nat) : (s.updPe e h).sq j = s.sq j := rfl
@[simp] theorem State.updPe_cq (e : Nat) (h : PeSt → PeSt) (j : Nat) : (s.updPe e h).cq j = s.cq j := rfl
@[simp] theorem State.updPe_slot (e : Nat) (h : PeSt → PeSt) (j : Nat) : (s.updPe e h).slot j = s.slot j := rfl
@[simp] theorem State.updPe_polder (e : Nat) (h : PeSt → PeSt) (j : Nat) : (s.updPe e h).polder j = s.polder j := rfl
@[simp] theorem State.updPe_coreOf (e : Nat) (h : PeSt → PeSt) (j k2 : Nat) : (s.updPe e h).coreOf j k2 = s.coreOf j k2 := rfl
@[simp] theorem State.updPe_core (e : Nat) (h : PeSt → PeSt) (j : Nat) : (s.updPe e h).core j = s.core j := rfl
@[simp] theorem State.updPe_die (e : Nat) (h : PeSt → PeSt) (j : Nat) : (s.updPe e h).die j = s.die j := rfl
@[simp] theorem State.updPe_lost (e : Nat) (h : PeSt → PeSt) (j : Nat) : (s.updPe e h).lost j = s.lost j := rfl
@[simp] theorem State.updPe_strm (e : Nat) (h : PeSt → PeSt) (j : Nat) : (s.updPe e h).strm j = s.strm j := rfl
@[simp] theorem State.updPe_lk (e : Nat) (h : PeSt → PeSt) (j : LinkEnd) : (s.updPe e h).lk j = s.lk j := rfl
@[simp] theorem State.updPe_mc (e : Nat) (h : PeSt → PeSt) (j : Nat) : (s.updPe e h).mc j = s.mc j := rfl
@[simp] theorem State.updPe_chan (e : Nat) (h : PeSt → PeSt) (j : Nat) : (s.updPe e h).chan j = s.chan j := rfl
@[simp] theorem State.updPe_csPort (e : Nat) (h : PeSt → PeSt) (j : Nat) : (s.updPe e h).csPort j = s.csPort j := rfl
@[simp] theorem State.updPe_ctx (e : Nat) (h : PeSt → PeSt) (j : Nat) : (s.updPe e h).ctx j = s.ctx j := rfl
@[simp] theorem State.updPe_encIn (e : Nat) (h : PeSt → PeSt) (j : Nat) : (s.updPe e h).encIn j = s.encIn j := rfl
@[simp] theorem State.updIng_regs (h : Ingest → Ingest) : (s.updIng h).regs = s.regs := rfl
@[simp] theorem State.updIng_mem (h : Ingest → Ingest) : (s.updIng h).mem = s.mem := rfl
@[simp] theorem State.updIng_poison (h : Ingest → Ingest) : (s.updIng h).poison = s.poison := rfl
@[simp] theorem State.updIng_hub (h : Ingest → Ingest) : (s.updIng h).hub = s.hub := rfl
@[simp] theorem State.updIng_cp (h : Ingest → Ingest) : (s.updIng h).cp = s.cp := rfl
@[simp] theorem State.updIng_rcd (h : Ingest → Ingest) : (s.updIng h).rcd = s.rcd := rfl
@[simp] theorem State.updIng_exports (h : Ingest → Ingest) : (s.updIng h).exports = s.exports := rfl
@[simp] theorem State.updIng_pols (h : Ingest → Ingest) : (s.updIng h).pols = s.pols := rfl
@[simp] theorem State.updIng_polGen (h : Ingest → Ingest) : (s.updIng h).polGen = s.polGen := rfl
@[simp] theorem State.updIng_te (h : Ingest → Ingest) : (s.updIng h).te = s.te := rfl
@[simp] theorem State.updIng_cores (h : Ingest → Ingest) : (s.updIng h).cores = s.cores := rfl
@[simp] theorem State.updIng_pe (h : Ingest → Ingest) : (s.updIng h).pe = s.pe := rfl
@[simp] theorem State.updIng_dies (h : Ingest → Ingest) : (s.updIng h).dies = s.dies := rfl
@[simp] theorem State.updIng_halfLost (h : Ingest → Ingest) : (s.updIng h).halfLost = s.halfLost := rfl
@[simp] theorem State.updIng_halfReturning (h : Ingest → Ingest) : (s.updIng h).halfReturning = s.halfReturning := rfl
@[simp] theorem State.updIng_fabric (h : Ingest → Ingest) : (s.updIng h).fabric = s.fabric := rfl
@[simp] theorem State.updIng_dir (h : Ingest → Ingest) : (s.updIng h).dir = s.dir := rfl
@[simp] theorem State.updIng_io (h : Ingest → Ingest) : (s.updIng h).io = s.io := rfl
@[simp] theorem State.updIng_mcs (h : Ingest → Ingest) : (s.updIng h).mcs = s.mcs := rfl
@[simp] theorem State.updIng_berm (h : Ingest → Ingest) : (s.updIng h).berm = s.berm := rfl
@[simp] theorem State.updIng_links (h : Ingest → Ingest) : (s.updIng h).links = s.links := rfl
@[simp] theorem State.updIng_dike (h : Ingest → Ingest) : (s.updIng h).dike = s.dike := rfl
@[simp] theorem State.updIng_cas (h : Ingest → Ingest) : (s.updIng h).cas = s.cas := rfl
@[simp] theorem State.updIng_pow (h : Ingest → Ingest) : (s.updIng h).pow = s.pow := rfl
@[simp] theorem State.updIng_out (h : Ingest → Ingest) : (s.updIng h).out = s.out := rfl
@[simp] theorem State.updIng_free (h : Ingest → Ingest) : (s.updIng h).free = s.free := rfl
@[simp] theorem State.updIng_pending (h : Ingest → Ingest) : (s.updIng h).pending = s.pending := rfl
@[simp] theorem State.updIng_get (h : Ingest → Ingest) (fl : Fld) (ix : Nat) : (s.updIng h).get fl ix = s.get fl ix := rfl
@[simp] theorem State.updIng_flag (h : Ingest → Ingest) (fl : Fld) (ix : Nat) : (s.updIng h).flag fl ix = s.flag fl ix := rfl
@[simp] theorem State.updIng_now (h : Ingest → Ingest) : (s.updIng h).now = s.now := rfl
@[simp] theorem State.updIng_activeHalf (h : Ingest → Ingest) : (s.updIng h).activeHalf = s.activeHalf := rfl
@[simp] theorem State.updIng_guardedCfg (h : Ingest → Ingest) : (s.updIng h).guardedCfg = s.guardedCfg := rfl
@[simp] theorem State.updIng_sq (h : Ingest → Ingest) (j : Nat) : (s.updIng h).sq j = s.sq j := rfl
@[simp] theorem State.updIng_cq (h : Ingest → Ingest) (j : Nat) : (s.updIng h).cq j = s.cq j := rfl
@[simp] theorem State.updIng_slot (h : Ingest → Ingest) (j : Nat) : (s.updIng h).slot j = s.slot j := rfl
@[simp] theorem State.updIng_polder (h : Ingest → Ingest) (j : Nat) : (s.updIng h).polder j = s.polder j := rfl
@[simp] theorem State.updIng_coreOf (h : Ingest → Ingest) (j k2 : Nat) : (s.updIng h).coreOf j k2 = s.coreOf j k2 := rfl
@[simp] theorem State.updIng_core (h : Ingest → Ingest) (j : Nat) : (s.updIng h).core j = s.core j := rfl
@[simp] theorem State.updIng_die (h : Ingest → Ingest) (j : Nat) : (s.updIng h).die j = s.die j := rfl
@[simp] theorem State.updIng_peSt (h : Ingest → Ingest) (j : Nat) : (s.updIng h).peSt j = s.peSt j := rfl
@[simp] theorem State.updIng_lost (h : Ingest → Ingest) (j : Nat) : (s.updIng h).lost j = s.lost j := rfl
@[simp] theorem State.updIng_lk (h : Ingest → Ingest) (j : LinkEnd) : (s.updIng h).lk j = s.lk j := rfl
@[simp] theorem State.updIng_mc (h : Ingest → Ingest) (j : Nat) : (s.updIng h).mc j = s.mc j := rfl
@[simp] theorem State.updIng_chan (h : Ingest → Ingest) (j : Nat) : (s.updIng h).chan j = s.chan j := rfl
@[simp] theorem State.updIng_csPort (h : Ingest → Ingest) (j : Nat) : (s.updIng h).csPort j = s.csPort j := rfl
@[simp] theorem State.updIng_ctx (h : Ingest → Ingest) (j : Nat) : (s.updIng h).ctx j = s.ctx j := rfl
@[simp] theorem State.updIng_encIn (h : Ingest → Ingest) (j : Nat) : (s.updIng h).encIn j = s.encIn j := rfl
@[simp] theorem State.updStrm_regs (a : Nat) (h : Strm → Strm) : (s.updStrm a h).regs = s.regs := rfl
@[simp] theorem State.updStrm_mem (a : Nat) (h : Strm → Strm) : (s.updStrm a h).mem = s.mem := rfl
@[simp] theorem State.updStrm_poison (a : Nat) (h : Strm → Strm) : (s.updStrm a h).poison = s.poison := rfl
@[simp] theorem State.updStrm_hub (a : Nat) (h : Strm → Strm) : (s.updStrm a h).hub = s.hub := rfl
@[simp] theorem State.updStrm_cp (a : Nat) (h : Strm → Strm) : (s.updStrm a h).cp = s.cp := rfl
@[simp] theorem State.updStrm_rcd (a : Nat) (h : Strm → Strm) : (s.updStrm a h).rcd = s.rcd := rfl
@[simp] theorem State.updStrm_exports (a : Nat) (h : Strm → Strm) : (s.updStrm a h).exports = s.exports := rfl
@[simp] theorem State.updStrm_pols (a : Nat) (h : Strm → Strm) : (s.updStrm a h).pols = s.pols := rfl
@[simp] theorem State.updStrm_polGen (a : Nat) (h : Strm → Strm) : (s.updStrm a h).polGen = s.polGen := rfl
@[simp] theorem State.updStrm_te (a : Nat) (h : Strm → Strm) : (s.updStrm a h).te = s.te := rfl
@[simp] theorem State.updStrm_cores (a : Nat) (h : Strm → Strm) : (s.updStrm a h).cores = s.cores := rfl
@[simp] theorem State.updStrm_pe (a : Nat) (h : Strm → Strm) : (s.updStrm a h).pe = s.pe := rfl
@[simp] theorem State.updStrm_dies (a : Nat) (h : Strm → Strm) : (s.updStrm a h).dies = s.dies := rfl
@[simp] theorem State.updStrm_halfLost (a : Nat) (h : Strm → Strm) : (s.updStrm a h).halfLost = s.halfLost := rfl
@[simp] theorem State.updStrm_halfReturning (a : Nat) (h : Strm → Strm) : (s.updStrm a h).halfReturning = s.halfReturning := rfl
@[simp] theorem State.updStrm_fabric (a : Nat) (h : Strm → Strm) : (s.updStrm a h).fabric = s.fabric := rfl
@[simp] theorem State.updStrm_dir (a : Nat) (h : Strm → Strm) : (s.updStrm a h).dir = s.dir := rfl
@[simp] theorem State.updStrm_io (a : Nat) (h : Strm → Strm) : (s.updStrm a h).io = s.io := rfl
@[simp] theorem State.updStrm_mcs (a : Nat) (h : Strm → Strm) : (s.updStrm a h).mcs = s.mcs := rfl
@[simp] theorem State.updStrm_berm (a : Nat) (h : Strm → Strm) : (s.updStrm a h).berm = s.berm := rfl
@[simp] theorem State.updStrm_links (a : Nat) (h : Strm → Strm) : (s.updStrm a h).links = s.links := rfl
@[simp] theorem State.updStrm_dike (a : Nat) (h : Strm → Strm) : (s.updStrm a h).dike = s.dike := rfl
@[simp] theorem State.updStrm_cas (a : Nat) (h : Strm → Strm) : (s.updStrm a h).cas = s.cas := rfl
@[simp] theorem State.updStrm_pow (a : Nat) (h : Strm → Strm) : (s.updStrm a h).pow = s.pow := rfl
@[simp] theorem State.updStrm_out (a : Nat) (h : Strm → Strm) : (s.updStrm a h).out = s.out := rfl
@[simp] theorem State.updStrm_free (a : Nat) (h : Strm → Strm) : (s.updStrm a h).free = s.free := rfl
@[simp] theorem State.updStrm_pending (a : Nat) (h : Strm → Strm) : (s.updStrm a h).pending = s.pending := rfl
@[simp] theorem State.updStrm_get (a : Nat) (h : Strm → Strm) (fl : Fld) (ix : Nat) : (s.updStrm a h).get fl ix = s.get fl ix := rfl
@[simp] theorem State.updStrm_flag (a : Nat) (h : Strm → Strm) (fl : Fld) (ix : Nat) : (s.updStrm a h).flag fl ix = s.flag fl ix := rfl
@[simp] theorem State.updStrm_now (a : Nat) (h : Strm → Strm) : (s.updStrm a h).now = s.now := rfl
@[simp] theorem State.updStrm_activeHalf (a : Nat) (h : Strm → Strm) : (s.updStrm a h).activeHalf = s.activeHalf := rfl
@[simp] theorem State.updStrm_guardedCfg (a : Nat) (h : Strm → Strm) : (s.updStrm a h).guardedCfg = s.guardedCfg := rfl
@[simp] theorem State.updStrm_sq (a : Nat) (h : Strm → Strm) (j : Nat) : (s.updStrm a h).sq j = s.sq j := rfl
@[simp] theorem State.updStrm_cq (a : Nat) (h : Strm → Strm) (j : Nat) : (s.updStrm a h).cq j = s.cq j := rfl
@[simp] theorem State.updStrm_slot (a : Nat) (h : Strm → Strm) (j : Nat) : (s.updStrm a h).slot j = s.slot j := rfl
@[simp] theorem State.updStrm_polder (a : Nat) (h : Strm → Strm) (j : Nat) : (s.updStrm a h).polder j = s.polder j := rfl
@[simp] theorem State.updStrm_coreOf (a : Nat) (h : Strm → Strm) (j k2 : Nat) : (s.updStrm a h).coreOf j k2 = s.coreOf j k2 := rfl
@[simp] theorem State.updStrm_core (a : Nat) (h : Strm → Strm) (j : Nat) : (s.updStrm a h).core j = s.core j := rfl
@[simp] theorem State.updStrm_die (a : Nat) (h : Strm → Strm) (j : Nat) : (s.updStrm a h).die j = s.die j := rfl
@[simp] theorem State.updStrm_peSt (a : Nat) (h : Strm → Strm) (j : Nat) : (s.updStrm a h).peSt j = s.peSt j := rfl
@[simp] theorem State.updStrm_lost (a : Nat) (h : Strm → Strm) (j : Nat) : (s.updStrm a h).lost j = s.lost j := rfl
@[simp] theorem State.updStrm_lk (a : Nat) (h : Strm → Strm) (j : LinkEnd) : (s.updStrm a h).lk j = s.lk j := rfl
@[simp] theorem State.updStrm_mc (a : Nat) (h : Strm → Strm) (j : Nat) : (s.updStrm a h).mc j = s.mc j := rfl
@[simp] theorem State.updStrm_chan (a : Nat) (h : Strm → Strm) (j : Nat) : (s.updStrm a h).chan j = s.chan j := rfl
@[simp] theorem State.updStrm_csPort (a : Nat) (h : Strm → Strm) (j : Nat) : (s.updStrm a h).csPort j = s.csPort j := rfl
@[simp] theorem State.updStrm_ctx (a : Nat) (h : Strm → Strm) (j : Nat) : (s.updStrm a h).ctx j = s.ctx j := rfl
@[simp] theorem State.updStrm_encIn (a : Nat) (h : Strm → Strm) (j : Nat) : (s.updStrm a h).encIn j = s.encIn j := rfl
@[simp] theorem State.updLk_regs (l : LinkEnd) (h : LkSt → LkSt) : (s.updLk l h).regs = s.regs := by unfold State.updLk; split <;> rfl
@[simp] theorem State.updLk_mem (l : LinkEnd) (h : LkSt → LkSt) : (s.updLk l h).mem = s.mem := by unfold State.updLk; split <;> rfl
@[simp] theorem State.updLk_poison (l : LinkEnd) (h : LkSt → LkSt) : (s.updLk l h).poison = s.poison := by unfold State.updLk; split <;> rfl
@[simp] theorem State.updLk_hub (l : LinkEnd) (h : LkSt → LkSt) : (s.updLk l h).hub = s.hub := by unfold State.updLk; split <;> rfl
@[simp] theorem State.updLk_cp (l : LinkEnd) (h : LkSt → LkSt) : (s.updLk l h).cp = s.cp := by unfold State.updLk; split <;> rfl
@[simp] theorem State.updLk_rcd (l : LinkEnd) (h : LkSt → LkSt) : (s.updLk l h).rcd = s.rcd := by unfold State.updLk; split <;> rfl
@[simp] theorem State.updLk_exports (l : LinkEnd) (h : LkSt → LkSt) : (s.updLk l h).exports = s.exports := by unfold State.updLk; split <;> rfl
@[simp] theorem State.updLk_pols (l : LinkEnd) (h : LkSt → LkSt) : (s.updLk l h).pols = s.pols := by unfold State.updLk; split <;> rfl
@[simp] theorem State.updLk_polGen (l : LinkEnd) (h : LkSt → LkSt) : (s.updLk l h).polGen = s.polGen := by unfold State.updLk; split <;> rfl
@[simp] theorem State.updLk_te (l : LinkEnd) (h : LkSt → LkSt) : (s.updLk l h).te = s.te := by unfold State.updLk; split <;> rfl
@[simp] theorem State.updLk_cores (l : LinkEnd) (h : LkSt → LkSt) : (s.updLk l h).cores = s.cores := by unfold State.updLk; split <;> rfl
@[simp] theorem State.updLk_pe (l : LinkEnd) (h : LkSt → LkSt) : (s.updLk l h).pe = s.pe := by unfold State.updLk; split <;> rfl
@[simp] theorem State.updLk_dies (l : LinkEnd) (h : LkSt → LkSt) : (s.updLk l h).dies = s.dies := by unfold State.updLk; split <;> rfl
@[simp] theorem State.updLk_halfLost (l : LinkEnd) (h : LkSt → LkSt) : (s.updLk l h).halfLost = s.halfLost := by unfold State.updLk; split <;> rfl
@[simp] theorem State.updLk_halfReturning (l : LinkEnd) (h : LkSt → LkSt) : (s.updLk l h).halfReturning = s.halfReturning := by unfold State.updLk; split <;> rfl
@[simp] theorem State.updLk_fabric (l : LinkEnd) (h : LkSt → LkSt) : (s.updLk l h).fabric = s.fabric := by unfold State.updLk; split <;> rfl
@[simp] theorem State.updLk_dir (l : LinkEnd) (h : LkSt → LkSt) : (s.updLk l h).dir = s.dir := by unfold State.updLk; split <;> rfl
@[simp] theorem State.updLk_io (l : LinkEnd) (h : LkSt → LkSt) : (s.updLk l h).io = s.io := by unfold State.updLk; split <;> rfl
@[simp] theorem State.updLk_mcs (l : LinkEnd) (h : LkSt → LkSt) : (s.updLk l h).mcs = s.mcs := by unfold State.updLk; split <;> rfl
@[simp] theorem State.updLk_berm (l : LinkEnd) (h : LkSt → LkSt) : (s.updLk l h).berm = s.berm := by unfold State.updLk; split <;> rfl
@[simp] theorem State.updLk_ing (l : LinkEnd) (h : LkSt → LkSt) : (s.updLk l h).ing = s.ing := by unfold State.updLk; split <;> rfl
@[simp] theorem State.updLk_dike (l : LinkEnd) (h : LkSt → LkSt) : (s.updLk l h).dike = s.dike := by unfold State.updLk; split <;> rfl
@[simp] theorem State.updLk_cas (l : LinkEnd) (h : LkSt → LkSt) : (s.updLk l h).cas = s.cas := by unfold State.updLk; split <;> rfl
@[simp] theorem State.updLk_pow (l : LinkEnd) (h : LkSt → LkSt) : (s.updLk l h).pow = s.pow := by unfold State.updLk; split <;> rfl
@[simp] theorem State.updLk_out (l : LinkEnd) (h : LkSt → LkSt) : (s.updLk l h).out = s.out := by unfold State.updLk; split <;> rfl
@[simp] theorem State.updLk_free (l : LinkEnd) (h : LkSt → LkSt) : (s.updLk l h).free = s.free := by unfold State.updLk; split <;> rfl
@[simp] theorem State.updLk_pending (l : LinkEnd) (h : LkSt → LkSt) : (s.updLk l h).pending = s.pending := by unfold State.updLk; split <;> rfl
@[simp] theorem State.updLk_get (l : LinkEnd) (h : LkSt → LkSt) (fl : Fld) (ix : Nat) : (s.updLk l h).get fl ix = s.get fl ix := by unfold State.updLk; split <;> rfl
@[simp] theorem State.updLk_flag (l : LinkEnd) (h : LkSt → LkSt) (fl : Fld) (ix : Nat) : (s.updLk l h).flag fl ix = s.flag fl ix := by unfold State.updLk; split <;> rfl
@[simp] theorem State.updLk_now (l : LinkEnd) (h : LkSt → LkSt) : (s.updLk l h).now = s.now := by unfold State.updLk; split <;> rfl
@[simp] theorem State.updLk_activeHalf (l : LinkEnd) (h : LkSt → LkSt) : (s.updLk l h).activeHalf = s.activeHalf := by unfold State.updLk; split <;> rfl
@[simp] theorem State.updLk_guardedCfg (l : LinkEnd) (h : LkSt → LkSt) : (s.updLk l h).guardedCfg = s.guardedCfg := by unfold State.updLk; split <;> rfl
@[simp] theorem State.updLk_sq (l : LinkEnd) (h : LkSt → LkSt) (j : Nat) : (s.updLk l h).sq j = s.sq j := by unfold State.updLk; split <;> rfl
@[simp] theorem State.updLk_cq (l : LinkEnd) (h : LkSt → LkSt) (j : Nat) : (s.updLk l h).cq j = s.cq j := by unfold State.updLk; split <;> rfl
@[simp] theorem State.updLk_slot (l : LinkEnd) (h : LkSt → LkSt) (j : Nat) : (s.updLk l h).slot j = s.slot j := by unfold State.updLk; split <;> rfl
@[simp] theorem State.updLk_polder (l : LinkEnd) (h : LkSt → LkSt) (j : Nat) : (s.updLk l h).polder j = s.polder j := by unfold State.updLk; split <;> rfl
@[simp] theorem State.updLk_coreOf (l : LinkEnd) (h : LkSt → LkSt) (j k2 : Nat) : (s.updLk l h).coreOf j k2 = s.coreOf j k2 := by unfold State.updLk; split <;> rfl
@[simp] theorem State.updLk_core (l : LinkEnd) (h : LkSt → LkSt) (j : Nat) : (s.updLk l h).core j = s.core j := by unfold State.updLk; split <;> rfl
@[simp] theorem State.updLk_die (l : LinkEnd) (h : LkSt → LkSt) (j : Nat) : (s.updLk l h).die j = s.die j := by unfold State.updLk; split <;> rfl
@[simp] theorem State.updLk_peSt (l : LinkEnd) (h : LkSt → LkSt) (j : Nat) : (s.updLk l h).peSt j = s.peSt j := by unfold State.updLk; split <;> rfl
@[simp] theorem State.updLk_lost (l : LinkEnd) (h : LkSt → LkSt) (j : Nat) : (s.updLk l h).lost j = s.lost j := by unfold State.updLk; split <;> rfl
@[simp] theorem State.updLk_strm (l : LinkEnd) (h : LkSt → LkSt) (j : Nat) : (s.updLk l h).strm j = s.strm j := by unfold State.updLk; split <;> rfl
@[simp] theorem State.updLk_mc (l : LinkEnd) (h : LkSt → LkSt) (j : Nat) : (s.updLk l h).mc j = s.mc j := by unfold State.updLk; split <;> rfl
@[simp] theorem State.updLk_chan (l : LinkEnd) (h : LkSt → LkSt) (j : Nat) : (s.updLk l h).chan j = s.chan j := by unfold State.updLk; split <;> rfl
@[simp] theorem State.updLk_csPort (l : LinkEnd) (h : LkSt → LkSt) (j : Nat) : (s.updLk l h).csPort j = s.csPort j := by unfold State.updLk; split <;> rfl
@[simp] theorem State.updLk_ctx (l : LinkEnd) (h : LkSt → LkSt) (j : Nat) : (s.updLk l h).ctx j = s.ctx j := by unfold State.updLk; split <;> rfl
@[simp] theorem State.updLk_encIn (l : LinkEnd) (h : LkSt → LkSt) (j : Nat) : (s.updLk l h).encIn j = s.encIn j := by unfold State.updLk; split <;> rfl
@[simp] theorem State.updMc_regs (c : Nat) (h : Mc → Mc) : (s.updMc c h).regs = s.regs := rfl
@[simp] theorem State.updMc_mem (c : Nat) (h : Mc → Mc) : (s.updMc c h).mem = s.mem := rfl
@[simp] theorem State.updMc_poison (c : Nat) (h : Mc → Mc) : (s.updMc c h).poison = s.poison := rfl
@[simp] theorem State.updMc_hub (c : Nat) (h : Mc → Mc) : (s.updMc c h).hub = s.hub := rfl
@[simp] theorem State.updMc_cp (c : Nat) (h : Mc → Mc) : (s.updMc c h).cp = s.cp := rfl
@[simp] theorem State.updMc_rcd (c : Nat) (h : Mc → Mc) : (s.updMc c h).rcd = s.rcd := rfl
@[simp] theorem State.updMc_exports (c : Nat) (h : Mc → Mc) : (s.updMc c h).exports = s.exports := rfl
@[simp] theorem State.updMc_pols (c : Nat) (h : Mc → Mc) : (s.updMc c h).pols = s.pols := rfl
@[simp] theorem State.updMc_polGen (c : Nat) (h : Mc → Mc) : (s.updMc c h).polGen = s.polGen := rfl
@[simp] theorem State.updMc_te (c : Nat) (h : Mc → Mc) : (s.updMc c h).te = s.te := rfl
@[simp] theorem State.updMc_cores (c : Nat) (h : Mc → Mc) : (s.updMc c h).cores = s.cores := rfl
@[simp] theorem State.updMc_pe (c : Nat) (h : Mc → Mc) : (s.updMc c h).pe = s.pe := rfl
@[simp] theorem State.updMc_dies (c : Nat) (h : Mc → Mc) : (s.updMc c h).dies = s.dies := rfl
@[simp] theorem State.updMc_halfLost (c : Nat) (h : Mc → Mc) : (s.updMc c h).halfLost = s.halfLost := rfl
@[simp] theorem State.updMc_halfReturning (c : Nat) (h : Mc → Mc) : (s.updMc c h).halfReturning = s.halfReturning := rfl
@[simp] theorem State.updMc_fabric (c : Nat) (h : Mc → Mc) : (s.updMc c h).fabric = s.fabric := rfl
@[simp] theorem State.updMc_dir (c : Nat) (h : Mc → Mc) : (s.updMc c h).dir = s.dir := rfl
@[simp] theorem State.updMc_io (c : Nat) (h : Mc → Mc) : (s.updMc c h).io = s.io := rfl
@[simp] theorem State.updMc_berm (c : Nat) (h : Mc → Mc) : (s.updMc c h).berm = s.berm := rfl
@[simp] theorem State.updMc_ing (c : Nat) (h : Mc → Mc) : (s.updMc c h).ing = s.ing := rfl
@[simp] theorem State.updMc_links (c : Nat) (h : Mc → Mc) : (s.updMc c h).links = s.links := rfl
@[simp] theorem State.updMc_dike (c : Nat) (h : Mc → Mc) : (s.updMc c h).dike = s.dike := rfl
@[simp] theorem State.updMc_cas (c : Nat) (h : Mc → Mc) : (s.updMc c h).cas = s.cas := rfl
@[simp] theorem State.updMc_pow (c : Nat) (h : Mc → Mc) : (s.updMc c h).pow = s.pow := rfl
@[simp] theorem State.updMc_out (c : Nat) (h : Mc → Mc) : (s.updMc c h).out = s.out := rfl
@[simp] theorem State.updMc_free (c : Nat) (h : Mc → Mc) : (s.updMc c h).free = s.free := rfl
@[simp] theorem State.updMc_pending (c : Nat) (h : Mc → Mc) : (s.updMc c h).pending = s.pending := rfl
@[simp] theorem State.updMc_get (c : Nat) (h : Mc → Mc) (fl : Fld) (ix : Nat) : (s.updMc c h).get fl ix = s.get fl ix := rfl
@[simp] theorem State.updMc_flag (c : Nat) (h : Mc → Mc) (fl : Fld) (ix : Nat) : (s.updMc c h).flag fl ix = s.flag fl ix := rfl
@[simp] theorem State.updMc_now (c : Nat) (h : Mc → Mc) : (s.updMc c h).now = s.now := rfl
@[simp] theorem State.updMc_activeHalf (c : Nat) (h : Mc → Mc) : (s.updMc c h).activeHalf = s.activeHalf := rfl
@[simp] theorem State.updMc_guardedCfg (c : Nat) (h : Mc → Mc) : (s.updMc c h).guardedCfg = s.guardedCfg := rfl
@[simp] theorem State.updMc_sq (c : Nat) (h : Mc → Mc) (j : Nat) : (s.updMc c h).sq j = s.sq j := rfl
@[simp] theorem State.updMc_cq (c : Nat) (h : Mc → Mc) (j : Nat) : (s.updMc c h).cq j = s.cq j := rfl
@[simp] theorem State.updMc_slot (c : Nat) (h : Mc → Mc) (j : Nat) : (s.updMc c h).slot j = s.slot j := rfl
@[simp] theorem State.updMc_polder (c : Nat) (h : Mc → Mc) (j : Nat) : (s.updMc c h).polder j = s.polder j := rfl
@[simp] theorem State.updMc_coreOf (c : Nat) (h : Mc → Mc) (j k2 : Nat) : (s.updMc c h).coreOf j k2 = s.coreOf j k2 := rfl
@[simp] theorem State.updMc_core (c : Nat) (h : Mc → Mc) (j : Nat) : (s.updMc c h).core j = s.core j := rfl
@[simp] theorem State.updMc_die (c : Nat) (h : Mc → Mc) (j : Nat) : (s.updMc c h).die j = s.die j := rfl
@[simp] theorem State.updMc_peSt (c : Nat) (h : Mc → Mc) (j : Nat) : (s.updMc c h).peSt j = s.peSt j := rfl
@[simp] theorem State.updMc_lost (c : Nat) (h : Mc → Mc) (j : Nat) : (s.updMc c h).lost j = s.lost j := rfl
@[simp] theorem State.updMc_strm (c : Nat) (h : Mc → Mc) (j : Nat) : (s.updMc c h).strm j = s.strm j := rfl
@[simp] theorem State.updMc_lk (c : Nat) (h : Mc → Mc) (j : LinkEnd) : (s.updMc c h).lk j = s.lk j := rfl
@[simp] theorem State.updMc_chan (c : Nat) (h : Mc → Mc) (j : Nat) : (s.updMc c h).chan j = s.chan j := rfl
@[simp] theorem State.updMc_csPort (c : Nat) (h : Mc → Mc) (j : Nat) : (s.updMc c h).csPort j = s.csPort j := rfl
@[simp] theorem State.updMc_ctx (c : Nat) (h : Mc → Mc) (j : Nat) : (s.updMc c h).ctx j = s.ctx j := rfl
@[simp] theorem State.updMc_encIn (c : Nat) (h : Mc → Mc) (j : Nat) : (s.updMc c h).encIn j = s.encIn j := rfl
@[simp] theorem State.updSub_regs (c d : Nat) (h : McSub → McSub) : (s.updSub c d h).regs = s.regs := rfl
@[simp] theorem State.updSub_mem (c d : Nat) (h : McSub → McSub) : (s.updSub c d h).mem = s.mem := rfl
@[simp] theorem State.updSub_poison (c d : Nat) (h : McSub → McSub) : (s.updSub c d h).poison = s.poison := rfl
@[simp] theorem State.updSub_hub (c d : Nat) (h : McSub → McSub) : (s.updSub c d h).hub = s.hub := rfl
@[simp] theorem State.updSub_cp (c d : Nat) (h : McSub → McSub) : (s.updSub c d h).cp = s.cp := rfl
@[simp] theorem State.updSub_rcd (c d : Nat) (h : McSub → McSub) : (s.updSub c d h).rcd = s.rcd := rfl
@[simp] theorem State.updSub_exports (c d : Nat) (h : McSub → McSub) : (s.updSub c d h).exports = s.exports := rfl
@[simp] theorem State.updSub_pols (c d : Nat) (h : McSub → McSub) : (s.updSub c d h).pols = s.pols := rfl
@[simp] theorem State.updSub_polGen (c d : Nat) (h : McSub → McSub) : (s.updSub c d h).polGen = s.polGen := rfl
@[simp] theorem State.updSub_te (c d : Nat) (h : McSub → McSub) : (s.updSub c d h).te = s.te := rfl
@[simp] theorem State.updSub_cores (c d : Nat) (h : McSub → McSub) : (s.updSub c d h).cores = s.cores := rfl
@[simp] theorem State.updSub_pe (c d : Nat) (h : McSub → McSub) : (s.updSub c d h).pe = s.pe := rfl
@[simp] theorem State.updSub_dies (c d : Nat) (h : McSub → McSub) : (s.updSub c d h).dies = s.dies := rfl
@[simp] theorem State.updSub_halfLost (c d : Nat) (h : McSub → McSub) : (s.updSub c d h).halfLost = s.halfLost := rfl
@[simp] theorem State.updSub_halfReturning (c d : Nat) (h : McSub → McSub) : (s.updSub c d h).halfReturning = s.halfReturning := rfl
@[simp] theorem State.updSub_fabric (c d : Nat) (h : McSub → McSub) : (s.updSub c d h).fabric = s.fabric := rfl
@[simp] theorem State.updSub_dir (c d : Nat) (h : McSub → McSub) : (s.updSub c d h).dir = s.dir := rfl
@[simp] theorem State.updSub_io (c d : Nat) (h : McSub → McSub) : (s.updSub c d h).io = s.io := rfl
@[simp] theorem State.updSub_berm (c d : Nat) (h : McSub → McSub) : (s.updSub c d h).berm = s.berm := rfl
@[simp] theorem State.updSub_ing (c d : Nat) (h : McSub → McSub) : (s.updSub c d h).ing = s.ing := rfl
@[simp] theorem State.updSub_links (c d : Nat) (h : McSub → McSub) : (s.updSub c d h).links = s.links := rfl
@[simp] theorem State.updSub_dike (c d : Nat) (h : McSub → McSub) : (s.updSub c d h).dike = s.dike := rfl
@[simp] theorem State.updSub_cas (c d : Nat) (h : McSub → McSub) : (s.updSub c d h).cas = s.cas := rfl
@[simp] theorem State.updSub_pow (c d : Nat) (h : McSub → McSub) : (s.updSub c d h).pow = s.pow := rfl
@[simp] theorem State.updSub_out (c d : Nat) (h : McSub → McSub) : (s.updSub c d h).out = s.out := rfl
@[simp] theorem State.updSub_free (c d : Nat) (h : McSub → McSub) : (s.updSub c d h).free = s.free := rfl
@[simp] theorem State.updSub_pending (c d : Nat) (h : McSub → McSub) : (s.updSub c d h).pending = s.pending := rfl
@[simp] theorem State.updSub_get (c d : Nat) (h : McSub → McSub) (fl : Fld) (ix : Nat) : (s.updSub c d h).get fl ix = s.get fl ix := rfl
@[simp] theorem State.updSub_flag (c d : Nat) (h : McSub → McSub) (fl : Fld) (ix : Nat) : (s.updSub c d h).flag fl ix = s.flag fl ix := rfl
@[simp] theorem State.updSub_now (c d : Nat) (h : McSub → McSub) : (s.updSub c d h).now = s.now := rfl
@[simp] theorem State.updSub_activeHalf (c d : Nat) (h : McSub → McSub) : (s.updSub c d h).activeHalf = s.activeHalf := rfl
@[simp] theorem State.updSub_guardedCfg (c d : Nat) (h : McSub → McSub) : (s.updSub c d h).guardedCfg = s.guardedCfg := rfl
@[simp] theorem State.updSub_sq (c d : Nat) (h : McSub → McSub) (j : Nat) : (s.updSub c d h).sq j = s.sq j := rfl
@[simp] theorem State.updSub_cq (c d : Nat) (h : McSub → McSub) (j : Nat) : (s.updSub c d h).cq j = s.cq j := rfl
@[simp] theorem State.updSub_slot (c d : Nat) (h : McSub → McSub) (j : Nat) : (s.updSub c d h).slot j = s.slot j := rfl
@[simp] theorem State.updSub_polder (c d : Nat) (h : McSub → McSub) (j : Nat) : (s.updSub c d h).polder j = s.polder j := rfl
@[simp] theorem State.updSub_coreOf (c d : Nat) (h : McSub → McSub) (j k2 : Nat) : (s.updSub c d h).coreOf j k2 = s.coreOf j k2 := rfl
@[simp] theorem State.updSub_core (c d : Nat) (h : McSub → McSub) (j : Nat) : (s.updSub c d h).core j = s.core j := rfl
@[simp] theorem State.updSub_die (c d : Nat) (h : McSub → McSub) (j : Nat) : (s.updSub c d h).die j = s.die j := rfl
@[simp] theorem State.updSub_peSt (c d : Nat) (h : McSub → McSub) (j : Nat) : (s.updSub c d h).peSt j = s.peSt j := rfl
@[simp] theorem State.updSub_lost (c d : Nat) (h : McSub → McSub) (j : Nat) : (s.updSub c d h).lost j = s.lost j := rfl
@[simp] theorem State.updSub_strm (c d : Nat) (h : McSub → McSub) (j : Nat) : (s.updSub c d h).strm j = s.strm j := rfl
@[simp] theorem State.updSub_lk (c d : Nat) (h : McSub → McSub) (j : LinkEnd) : (s.updSub c d h).lk j = s.lk j := rfl
@[simp] theorem State.updSub_chan (c d : Nat) (h : McSub → McSub) (j : Nat) : (s.updSub c d h).chan j = s.chan j := rfl
@[simp] theorem State.updSub_csPort (c d : Nat) (h : McSub → McSub) (j : Nat) : (s.updSub c d h).csPort j = s.csPort j := rfl
@[simp] theorem State.updSub_ctx (c d : Nat) (h : McSub → McSub) (j : Nat) : (s.updSub c d h).ctx j = s.ctx j := rfl
@[simp] theorem State.updSub_encIn (c d : Nat) (h : McSub → McSub) (j : Nat) : (s.updSub c d h).encIn j = s.encIn j := rfl
@[simp] theorem State.updCas_regs (h : Casc → Casc) : (s.updCas h).regs = s.regs := rfl
@[simp] theorem State.updCas_mem (h : Casc → Casc) : (s.updCas h).mem = s.mem := rfl
@[simp] theorem State.updCas_poison (h : Casc → Casc) : (s.updCas h).poison = s.poison := rfl
@[simp] theorem State.updCas_hub (h : Casc → Casc) : (s.updCas h).hub = s.hub := rfl
@[simp] theorem State.updCas_cp (h : Casc → Casc) : (s.updCas h).cp = s.cp := rfl
@[simp] theorem State.updCas_rcd (h : Casc → Casc) : (s.updCas h).rcd = s.rcd := rfl
@[simp] theorem State.updCas_exports (h : Casc → Casc) : (s.updCas h).exports = s.exports := rfl
@[simp] theorem State.updCas_pols (h : Casc → Casc) : (s.updCas h).pols = s.pols := rfl
@[simp] theorem State.updCas_polGen (h : Casc → Casc) : (s.updCas h).polGen = s.polGen := rfl
@[simp] theorem State.updCas_te (h : Casc → Casc) : (s.updCas h).te = s.te := rfl
@[simp] theorem State.updCas_cores (h : Casc → Casc) : (s.updCas h).cores = s.cores := rfl
@[simp] theorem State.updCas_pe (h : Casc → Casc) : (s.updCas h).pe = s.pe := rfl
@[simp] theorem State.updCas_dies (h : Casc → Casc) : (s.updCas h).dies = s.dies := rfl
@[simp] theorem State.updCas_halfLost (h : Casc → Casc) : (s.updCas h).halfLost = s.halfLost := rfl
@[simp] theorem State.updCas_halfReturning (h : Casc → Casc) : (s.updCas h).halfReturning = s.halfReturning := rfl
@[simp] theorem State.updCas_fabric (h : Casc → Casc) : (s.updCas h).fabric = s.fabric := rfl
@[simp] theorem State.updCas_dir (h : Casc → Casc) : (s.updCas h).dir = s.dir := rfl
@[simp] theorem State.updCas_io (h : Casc → Casc) : (s.updCas h).io = s.io := rfl
@[simp] theorem State.updCas_mcs (h : Casc → Casc) : (s.updCas h).mcs = s.mcs := rfl
@[simp] theorem State.updCas_berm (h : Casc → Casc) : (s.updCas h).berm = s.berm := rfl
@[simp] theorem State.updCas_ing (h : Casc → Casc) : (s.updCas h).ing = s.ing := rfl
@[simp] theorem State.updCas_links (h : Casc → Casc) : (s.updCas h).links = s.links := rfl
@[simp] theorem State.updCas_dike (h : Casc → Casc) : (s.updCas h).dike = s.dike := rfl
@[simp] theorem State.updCas_pow (h : Casc → Casc) : (s.updCas h).pow = s.pow := rfl
@[simp] theorem State.updCas_out (h : Casc → Casc) : (s.updCas h).out = s.out := rfl
@[simp] theorem State.updCas_free (h : Casc → Casc) : (s.updCas h).free = s.free := rfl
@[simp] theorem State.updCas_pending (h : Casc → Casc) : (s.updCas h).pending = s.pending := rfl
@[simp] theorem State.updCas_get (h : Casc → Casc) (fl : Fld) (ix : Nat) : (s.updCas h).get fl ix = s.get fl ix := rfl
@[simp] theorem State.updCas_flag (h : Casc → Casc) (fl : Fld) (ix : Nat) : (s.updCas h).flag fl ix = s.flag fl ix := rfl
@[simp] theorem State.updCas_now (h : Casc → Casc) : (s.updCas h).now = s.now := rfl
@[simp] theorem State.updCas_activeHalf (h : Casc → Casc) : (s.updCas h).activeHalf = s.activeHalf := rfl
@[simp] theorem State.updCas_guardedCfg (h : Casc → Casc) : (s.updCas h).guardedCfg = s.guardedCfg := rfl
@[simp] theorem State.updCas_sq (h : Casc → Casc) (j : Nat) : (s.updCas h).sq j = s.sq j := rfl
@[simp] theorem State.updCas_cq (h : Casc → Casc) (j : Nat) : (s.updCas h).cq j = s.cq j := rfl
@[simp] theorem State.updCas_slot (h : Casc → Casc) (j : Nat) : (s.updCas h).slot j = s.slot j := rfl
@[simp] theorem State.updCas_polder (h : Casc → Casc) (j : Nat) : (s.updCas h).polder j = s.polder j := rfl
@[simp] theorem State.updCas_coreOf (h : Casc → Casc) (j k2 : Nat) : (s.updCas h).coreOf j k2 = s.coreOf j k2 := rfl
@[simp] theorem State.updCas_core (h : Casc → Casc) (j : Nat) : (s.updCas h).core j = s.core j := rfl
@[simp] theorem State.updCas_die (h : Casc → Casc) (j : Nat) : (s.updCas h).die j = s.die j := rfl
@[simp] theorem State.updCas_peSt (h : Casc → Casc) (j : Nat) : (s.updCas h).peSt j = s.peSt j := rfl
@[simp] theorem State.updCas_lost (h : Casc → Casc) (j : Nat) : (s.updCas h).lost j = s.lost j := rfl
@[simp] theorem State.updCas_strm (h : Casc → Casc) (j : Nat) : (s.updCas h).strm j = s.strm j := rfl
@[simp] theorem State.updCas_lk (h : Casc → Casc) (j : LinkEnd) : (s.updCas h).lk j = s.lk j := rfl
@[simp] theorem State.updCas_mc (h : Casc → Casc) (j : Nat) : (s.updCas h).mc j = s.mc j := rfl
@[simp] theorem State.updCas_ctx (h : Casc → Casc) (j : Nat) : (s.updCas h).ctx j = s.ctx j := rfl
@[simp] theorem State.updCas_encIn (h : Casc → Casc) (j : Nat) : (s.updCas h).encIn j = s.encIn j := rfl
@[simp] theorem State.updChan_regs (c : Nat) (h : CsChan → CsChan) : (s.updChan c h).regs = s.regs := rfl
@[simp] theorem State.updChan_mem (c : Nat) (h : CsChan → CsChan) : (s.updChan c h).mem = s.mem := rfl
@[simp] theorem State.updChan_poison (c : Nat) (h : CsChan → CsChan) : (s.updChan c h).poison = s.poison := rfl
@[simp] theorem State.updChan_hub (c : Nat) (h : CsChan → CsChan) : (s.updChan c h).hub = s.hub := rfl
@[simp] theorem State.updChan_cp (c : Nat) (h : CsChan → CsChan) : (s.updChan c h).cp = s.cp := rfl
@[simp] theorem State.updChan_rcd (c : Nat) (h : CsChan → CsChan) : (s.updChan c h).rcd = s.rcd := rfl
@[simp] theorem State.updChan_exports (c : Nat) (h : CsChan → CsChan) : (s.updChan c h).exports = s.exports := rfl
@[simp] theorem State.updChan_pols (c : Nat) (h : CsChan → CsChan) : (s.updChan c h).pols = s.pols := rfl
@[simp] theorem State.updChan_polGen (c : Nat) (h : CsChan → CsChan) : (s.updChan c h).polGen = s.polGen := rfl
@[simp] theorem State.updChan_te (c : Nat) (h : CsChan → CsChan) : (s.updChan c h).te = s.te := rfl
@[simp] theorem State.updChan_cores (c : Nat) (h : CsChan → CsChan) : (s.updChan c h).cores = s.cores := rfl
@[simp] theorem State.updChan_pe (c : Nat) (h : CsChan → CsChan) : (s.updChan c h).pe = s.pe := rfl
@[simp] theorem State.updChan_dies (c : Nat) (h : CsChan → CsChan) : (s.updChan c h).dies = s.dies := rfl
@[simp] theorem State.updChan_halfLost (c : Nat) (h : CsChan → CsChan) : (s.updChan c h).halfLost = s.halfLost := rfl
@[simp] theorem State.updChan_halfReturning (c : Nat) (h : CsChan → CsChan) : (s.updChan c h).halfReturning = s.halfReturning := rfl
@[simp] theorem State.updChan_fabric (c : Nat) (h : CsChan → CsChan) : (s.updChan c h).fabric = s.fabric := rfl
@[simp] theorem State.updChan_dir (c : Nat) (h : CsChan → CsChan) : (s.updChan c h).dir = s.dir := rfl
@[simp] theorem State.updChan_io (c : Nat) (h : CsChan → CsChan) : (s.updChan c h).io = s.io := rfl
@[simp] theorem State.updChan_mcs (c : Nat) (h : CsChan → CsChan) : (s.updChan c h).mcs = s.mcs := rfl
@[simp] theorem State.updChan_berm (c : Nat) (h : CsChan → CsChan) : (s.updChan c h).berm = s.berm := rfl
@[simp] theorem State.updChan_ing (c : Nat) (h : CsChan → CsChan) : (s.updChan c h).ing = s.ing := rfl
@[simp] theorem State.updChan_links (c : Nat) (h : CsChan → CsChan) : (s.updChan c h).links = s.links := rfl
@[simp] theorem State.updChan_dike (c : Nat) (h : CsChan → CsChan) : (s.updChan c h).dike = s.dike := rfl
@[simp] theorem State.updChan_pow (c : Nat) (h : CsChan → CsChan) : (s.updChan c h).pow = s.pow := rfl
@[simp] theorem State.updChan_out (c : Nat) (h : CsChan → CsChan) : (s.updChan c h).out = s.out := rfl
@[simp] theorem State.updChan_free (c : Nat) (h : CsChan → CsChan) : (s.updChan c h).free = s.free := rfl
@[simp] theorem State.updChan_pending (c : Nat) (h : CsChan → CsChan) : (s.updChan c h).pending = s.pending := rfl
@[simp] theorem State.updChan_get (c : Nat) (h : CsChan → CsChan) (fl : Fld) (ix : Nat) : (s.updChan c h).get fl ix = s.get fl ix := rfl
@[simp] theorem State.updChan_flag (c : Nat) (h : CsChan → CsChan) (fl : Fld) (ix : Nat) : (s.updChan c h).flag fl ix = s.flag fl ix := rfl
@[simp] theorem State.updChan_now (c : Nat) (h : CsChan → CsChan) : (s.updChan c h).now = s.now := rfl
@[simp] theorem State.updChan_activeHalf (c : Nat) (h : CsChan → CsChan) : (s.updChan c h).activeHalf = s.activeHalf := rfl
@[simp] theorem State.updChan_guardedCfg (c : Nat) (h : CsChan → CsChan) : (s.updChan c h).guardedCfg = s.guardedCfg := rfl
@[simp] theorem State.updChan_sq (c : Nat) (h : CsChan → CsChan) (j : Nat) : (s.updChan c h).sq j = s.sq j := rfl
@[simp] theorem State.updChan_cq (c : Nat) (h : CsChan → CsChan) (j : Nat) : (s.updChan c h).cq j = s.cq j := rfl
@[simp] theorem State.updChan_slot (c : Nat) (h : CsChan → CsChan) (j : Nat) : (s.updChan c h).slot j = s.slot j := rfl
@[simp] theorem State.updChan_polder (c : Nat) (h : CsChan → CsChan) (j : Nat) : (s.updChan c h).polder j = s.polder j := rfl
@[simp] theorem State.updChan_coreOf (c : Nat) (h : CsChan → CsChan) (j k2 : Nat) : (s.updChan c h).coreOf j k2 = s.coreOf j k2 := rfl
@[simp] theorem State.updChan_core (c : Nat) (h : CsChan → CsChan) (j : Nat) : (s.updChan c h).core j = s.core j := rfl
@[simp] theorem State.updChan_die (c : Nat) (h : CsChan → CsChan) (j : Nat) : (s.updChan c h).die j = s.die j := rfl
@[simp] theorem State.updChan_peSt (c : Nat) (h : CsChan → CsChan) (j : Nat) : (s.updChan c h).peSt j = s.peSt j := rfl
@[simp] theorem State.updChan_lost (c : Nat) (h : CsChan → CsChan) (j : Nat) : (s.updChan c h).lost j = s.lost j := rfl
@[simp] theorem State.updChan_strm (c : Nat) (h : CsChan → CsChan) (j : Nat) : (s.updChan c h).strm j = s.strm j := rfl
@[simp] theorem State.updChan_lk (c : Nat) (h : CsChan → CsChan) (j : LinkEnd) : (s.updChan c h).lk j = s.lk j := rfl
@[simp] theorem State.updChan_mc (c : Nat) (h : CsChan → CsChan) (j : Nat) : (s.updChan c h).mc j = s.mc j := rfl
@[simp] theorem State.updChan_ctx (c : Nat) (h : CsChan → CsChan) (j : Nat) : (s.updChan c h).ctx j = s.ctx j := rfl
@[simp] theorem State.updChan_encIn (c : Nat) (h : CsChan → CsChan) (j : Nat) : (s.updChan c h).encIn j = s.encIn j := rfl
@[simp] theorem State.updPow_regs (h : Power → Power) : (s.updPow h).regs = s.regs := rfl
@[simp] theorem State.updPow_mem (h : Power → Power) : (s.updPow h).mem = s.mem := rfl
@[simp] theorem State.updPow_poison (h : Power → Power) : (s.updPow h).poison = s.poison := rfl
@[simp] theorem State.updPow_hub (h : Power → Power) : (s.updPow h).hub = s.hub := rfl
@[simp] theorem State.updPow_cp (h : Power → Power) : (s.updPow h).cp = s.cp := rfl
@[simp] theorem State.updPow_rcd (h : Power → Power) : (s.updPow h).rcd = s.rcd := rfl
@[simp] theorem State.updPow_exports (h : Power → Power) : (s.updPow h).exports = s.exports := rfl
@[simp] theorem State.updPow_pols (h : Power → Power) : (s.updPow h).pols = s.pols := rfl
@[simp] theorem State.updPow_polGen (h : Power → Power) : (s.updPow h).polGen = s.polGen := rfl
@[simp] theorem State.updPow_te (h : Power → Power) : (s.updPow h).te = s.te := rfl
@[simp] theorem State.updPow_cores (h : Power → Power) : (s.updPow h).cores = s.cores := rfl
@[simp] theorem State.updPow_pe (h : Power → Power) : (s.updPow h).pe = s.pe := rfl
@[simp] theorem State.updPow_dies (h : Power → Power) : (s.updPow h).dies = s.dies := rfl
@[simp] theorem State.updPow_halfLost (h : Power → Power) : (s.updPow h).halfLost = s.halfLost := rfl
@[simp] theorem State.updPow_halfReturning (h : Power → Power) : (s.updPow h).halfReturning = s.halfReturning := rfl
@[simp] theorem State.updPow_fabric (h : Power → Power) : (s.updPow h).fabric = s.fabric := rfl
@[simp] theorem State.updPow_dir (h : Power → Power) : (s.updPow h).dir = s.dir := rfl
@[simp] theorem State.updPow_io (h : Power → Power) : (s.updPow h).io = s.io := rfl
@[simp] theorem State.updPow_mcs (h : Power → Power) : (s.updPow h).mcs = s.mcs := rfl
@[simp] theorem State.updPow_berm (h : Power → Power) : (s.updPow h).berm = s.berm := rfl
@[simp] theorem State.updPow_ing (h : Power → Power) : (s.updPow h).ing = s.ing := rfl
@[simp] theorem State.updPow_links (h : Power → Power) : (s.updPow h).links = s.links := rfl
@[simp] theorem State.updPow_dike (h : Power → Power) : (s.updPow h).dike = s.dike := rfl
@[simp] theorem State.updPow_cas (h : Power → Power) : (s.updPow h).cas = s.cas := rfl
@[simp] theorem State.updPow_out (h : Power → Power) : (s.updPow h).out = s.out := rfl
@[simp] theorem State.updPow_free (h : Power → Power) : (s.updPow h).free = s.free := rfl
@[simp] theorem State.updPow_pending (h : Power → Power) : (s.updPow h).pending = s.pending := rfl
@[simp] theorem State.updPow_get (h : Power → Power) (fl : Fld) (ix : Nat) : (s.updPow h).get fl ix = s.get fl ix := rfl
@[simp] theorem State.updPow_flag (h : Power → Power) (fl : Fld) (ix : Nat) : (s.updPow h).flag fl ix = s.flag fl ix := rfl
@[simp] theorem State.updPow_now (h : Power → Power) : (s.updPow h).now = s.now := rfl
@[simp] theorem State.updPow_activeHalf (h : Power → Power) : (s.updPow h).activeHalf = s.activeHalf := rfl
@[simp] theorem State.updPow_guardedCfg (h : Power → Power) : (s.updPow h).guardedCfg = s.guardedCfg := rfl
@[simp] theorem State.updPow_sq (h : Power → Power) (j : Nat) : (s.updPow h).sq j = s.sq j := rfl
@[simp] theorem State.updPow_cq (h : Power → Power) (j : Nat) : (s.updPow h).cq j = s.cq j := rfl
@[simp] theorem State.updPow_slot (h : Power → Power) (j : Nat) : (s.updPow h).slot j = s.slot j := rfl
@[simp] theorem State.updPow_polder (h : Power → Power) (j : Nat) : (s.updPow h).polder j = s.polder j := rfl
@[simp] theorem State.updPow_coreOf (h : Power → Power) (j k2 : Nat) : (s.updPow h).coreOf j k2 = s.coreOf j k2 := rfl
@[simp] theorem State.updPow_core (h : Power → Power) (j : Nat) : (s.updPow h).core j = s.core j := rfl
@[simp] theorem State.updPow_die (h : Power → Power) (j : Nat) : (s.updPow h).die j = s.die j := rfl
@[simp] theorem State.updPow_peSt (h : Power → Power) (j : Nat) : (s.updPow h).peSt j = s.peSt j := rfl
@[simp] theorem State.updPow_lost (h : Power → Power) (j : Nat) : (s.updPow h).lost j = s.lost j := rfl
@[simp] theorem State.updPow_strm (h : Power → Power) (j : Nat) : (s.updPow h).strm j = s.strm j := rfl
@[simp] theorem State.updPow_lk (h : Power → Power) (j : LinkEnd) : (s.updPow h).lk j = s.lk j := rfl
@[simp] theorem State.updPow_mc (h : Power → Power) (j : Nat) : (s.updPow h).mc j = s.mc j := rfl
@[simp] theorem State.updPow_chan (h : Power → Power) (j : Nat) : (s.updPow h).chan j = s.chan j := rfl
@[simp] theorem State.updPow_csPort (h : Power → Power) (j : Nat) : (s.updPow h).csPort j = s.csPort j := rfl
@[simp] theorem State.updPow_ctx (h : Power → Power) (j : Nat) : (s.updPow h).ctx j = s.ctx j := rfl
@[simp] theorem State.updPow_encIn (h : Power → Power) (j : Nat) : (s.updPow h).encIn j = s.encIn j := rfl
@[simp] theorem State.updTe_regs (h : TickEngine → TickEngine) : (s.updTe h).regs = s.regs := rfl
@[simp] theorem State.updTe_mem (h : TickEngine → TickEngine) : (s.updTe h).mem = s.mem := rfl
@[simp] theorem State.updTe_poison (h : TickEngine → TickEngine) : (s.updTe h).poison = s.poison := rfl
@[simp] theorem State.updTe_hub (h : TickEngine → TickEngine) : (s.updTe h).hub = s.hub := rfl
@[simp] theorem State.updTe_cp (h : TickEngine → TickEngine) : (s.updTe h).cp = s.cp := rfl
@[simp] theorem State.updTe_rcd (h : TickEngine → TickEngine) : (s.updTe h).rcd = s.rcd := rfl
@[simp] theorem State.updTe_exports (h : TickEngine → TickEngine) : (s.updTe h).exports = s.exports := rfl
@[simp] theorem State.updTe_pols (h : TickEngine → TickEngine) : (s.updTe h).pols = s.pols := rfl
@[simp] theorem State.updTe_polGen (h : TickEngine → TickEngine) : (s.updTe h).polGen = s.polGen := rfl
@[simp] theorem State.updTe_cores (h : TickEngine → TickEngine) : (s.updTe h).cores = s.cores := rfl
@[simp] theorem State.updTe_pe (h : TickEngine → TickEngine) : (s.updTe h).pe = s.pe := rfl
@[simp] theorem State.updTe_dies (h : TickEngine → TickEngine) : (s.updTe h).dies = s.dies := rfl
@[simp] theorem State.updTe_halfLost (h : TickEngine → TickEngine) : (s.updTe h).halfLost = s.halfLost := rfl
@[simp] theorem State.updTe_halfReturning (h : TickEngine → TickEngine) : (s.updTe h).halfReturning = s.halfReturning := rfl
@[simp] theorem State.updTe_fabric (h : TickEngine → TickEngine) : (s.updTe h).fabric = s.fabric := rfl
@[simp] theorem State.updTe_dir (h : TickEngine → TickEngine) : (s.updTe h).dir = s.dir := rfl
@[simp] theorem State.updTe_io (h : TickEngine → TickEngine) : (s.updTe h).io = s.io := rfl
@[simp] theorem State.updTe_mcs (h : TickEngine → TickEngine) : (s.updTe h).mcs = s.mcs := rfl
@[simp] theorem State.updTe_berm (h : TickEngine → TickEngine) : (s.updTe h).berm = s.berm := rfl
@[simp] theorem State.updTe_ing (h : TickEngine → TickEngine) : (s.updTe h).ing = s.ing := rfl
@[simp] theorem State.updTe_links (h : TickEngine → TickEngine) : (s.updTe h).links = s.links := rfl
@[simp] theorem State.updTe_dike (h : TickEngine → TickEngine) : (s.updTe h).dike = s.dike := rfl
@[simp] theorem State.updTe_cas (h : TickEngine → TickEngine) : (s.updTe h).cas = s.cas := rfl
@[simp] theorem State.updTe_pow (h : TickEngine → TickEngine) : (s.updTe h).pow = s.pow := rfl
@[simp] theorem State.updTe_out (h : TickEngine → TickEngine) : (s.updTe h).out = s.out := rfl
@[simp] theorem State.updTe_free (h : TickEngine → TickEngine) : (s.updTe h).free = s.free := rfl
@[simp] theorem State.updTe_pending (h : TickEngine → TickEngine) : (s.updTe h).pending = s.pending := rfl
@[simp] theorem State.updTe_get (h : TickEngine → TickEngine) (fl : Fld) (ix : Nat) : (s.updTe h).get fl ix = s.get fl ix := rfl
@[simp] theorem State.updTe_flag (h : TickEngine → TickEngine) (fl : Fld) (ix : Nat) : (s.updTe h).flag fl ix = s.flag fl ix := rfl
@[simp] theorem State.updTe_now (h : TickEngine → TickEngine) : (s.updTe h).now = s.now := rfl
@[simp] theorem State.updTe_activeHalf (h : TickEngine → TickEngine) : (s.updTe h).activeHalf = s.activeHalf := rfl
@[simp] theorem State.updTe_guardedCfg (h : TickEngine → TickEngine) : (s.updTe h).guardedCfg = s.guardedCfg := rfl
@[simp] theorem State.updTe_sq (h : TickEngine → TickEngine) (j : Nat) : (s.updTe h).sq j = s.sq j := rfl
@[simp] theorem State.updTe_cq (h : TickEngine → TickEngine) (j : Nat) : (s.updTe h).cq j = s.cq j := rfl
@[simp] theorem State.updTe_slot (h : TickEngine → TickEngine) (j : Nat) : (s.updTe h).slot j = s.slot j := rfl
@[simp] theorem State.updTe_polder (h : TickEngine → TickEngine) (j : Nat) : (s.updTe h).polder j = s.polder j := rfl
@[simp] theorem State.updTe_coreOf (h : TickEngine → TickEngine) (j k2 : Nat) : (s.updTe h).coreOf j k2 = s.coreOf j k2 := rfl
@[simp] theorem State.updTe_core (h : TickEngine → TickEngine) (j : Nat) : (s.updTe h).core j = s.core j := rfl
@[simp] theorem State.updTe_die (h : TickEngine → TickEngine) (j : Nat) : (s.updTe h).die j = s.die j := rfl
@[simp] theorem State.updTe_peSt (h : TickEngine → TickEngine) (j : Nat) : (s.updTe h).peSt j = s.peSt j := rfl
@[simp] theorem State.updTe_lost (h : TickEngine → TickEngine) (j : Nat) : (s.updTe h).lost j = s.lost j := rfl
@[simp] theorem State.updTe_strm (h : TickEngine → TickEngine) (j : Nat) : (s.updTe h).strm j = s.strm j := rfl
@[simp] theorem State.updTe_lk (h : TickEngine → TickEngine) (j : LinkEnd) : (s.updTe h).lk j = s.lk j := rfl
@[simp] theorem State.updTe_mc (h : TickEngine → TickEngine) (j : Nat) : (s.updTe h).mc j = s.mc j := rfl
@[simp] theorem State.updTe_chan (h : TickEngine → TickEngine) (j : Nat) : (s.updTe h).chan j = s.chan j := rfl
@[simp] theorem State.updTe_csPort (h : TickEngine → TickEngine) (j : Nat) : (s.updTe h).csPort j = s.csPort j := rfl
@[simp] theorem State.updCtx_regs (p : Nat) (h : TickCtx → TickCtx) : (s.updCtx p h).regs = s.regs := rfl
@[simp] theorem State.updCtx_mem (p : Nat) (h : TickCtx → TickCtx) : (s.updCtx p h).mem = s.mem := rfl
@[simp] theorem State.updCtx_poison (p : Nat) (h : TickCtx → TickCtx) : (s.updCtx p h).poison = s.poison := rfl
@[simp] theorem State.updCtx_hub (p : Nat) (h : TickCtx → TickCtx) : (s.updCtx p h).hub = s.hub := rfl
@[simp] theorem State.updCtx_cp (p : Nat) (h : TickCtx → TickCtx) : (s.updCtx p h).cp = s.cp := rfl
@[simp] theorem State.updCtx_rcd (p : Nat) (h : TickCtx → TickCtx) : (s.updCtx p h).rcd = s.rcd := rfl
@[simp] theorem State.updCtx_exports (p : Nat) (h : TickCtx → TickCtx) : (s.updCtx p h).exports = s.exports := rfl
@[simp] theorem State.updCtx_pols (p : Nat) (h : TickCtx → TickCtx) : (s.updCtx p h).pols = s.pols := rfl
@[simp] theorem State.updCtx_polGen (p : Nat) (h : TickCtx → TickCtx) : (s.updCtx p h).polGen = s.polGen := rfl
@[simp] theorem State.updCtx_cores (p : Nat) (h : TickCtx → TickCtx) : (s.updCtx p h).cores = s.cores := rfl
@[simp] theorem State.updCtx_pe (p : Nat) (h : TickCtx → TickCtx) : (s.updCtx p h).pe = s.pe := rfl
@[simp] theorem State.updCtx_dies (p : Nat) (h : TickCtx → TickCtx) : (s.updCtx p h).dies = s.dies := rfl
@[simp] theorem State.updCtx_halfLost (p : Nat) (h : TickCtx → TickCtx) : (s.updCtx p h).halfLost = s.halfLost := rfl
@[simp] theorem State.updCtx_halfReturning (p : Nat) (h : TickCtx → TickCtx) : (s.updCtx p h).halfReturning = s.halfReturning := rfl
@[simp] theorem State.updCtx_fabric (p : Nat) (h : TickCtx → TickCtx) : (s.updCtx p h).fabric = s.fabric := rfl
@[simp] theorem State.updCtx_dir (p : Nat) (h : TickCtx → TickCtx) : (s.updCtx p h).dir = s.dir := rfl
@[simp] theorem State.updCtx_io (p : Nat) (h : TickCtx → TickCtx) : (s.updCtx p h).io = s.io := rfl
@[simp] theorem State.updCtx_mcs (p : Nat) (h : TickCtx → TickCtx) : (s.updCtx p h).mcs = s.mcs := rfl
@[simp] theorem State.updCtx_berm (p : Nat) (h : TickCtx → TickCtx) : (s.updCtx p h).berm = s.berm := rfl
@[simp] theorem State.updCtx_ing (p : Nat) (h : TickCtx → TickCtx) : (s.updCtx p h).ing = s.ing := rfl
@[simp] theorem State.updCtx_links (p : Nat) (h : TickCtx → TickCtx) : (s.updCtx p h).links = s.links := rfl
@[simp] theorem State.updCtx_dike (p : Nat) (h : TickCtx → TickCtx) : (s.updCtx p h).dike = s.dike := rfl
@[simp] theorem State.updCtx_cas (p : Nat) (h : TickCtx → TickCtx) : (s.updCtx p h).cas = s.cas := rfl
@[simp] theorem State.updCtx_pow (p : Nat) (h : TickCtx → TickCtx) : (s.updCtx p h).pow = s.pow := rfl
@[simp] theorem State.updCtx_out (p : Nat) (h : TickCtx → TickCtx) : (s.updCtx p h).out = s.out := rfl
@[simp] theorem State.updCtx_free (p : Nat) (h : TickCtx → TickCtx) : (s.updCtx p h).free = s.free := rfl
@[simp] theorem State.updCtx_pending (p : Nat) (h : TickCtx → TickCtx) : (s.updCtx p h).pending = s.pending := rfl
@[simp] theorem State.updCtx_get (p : Nat) (h : TickCtx → TickCtx) (fl : Fld) (ix : Nat) : (s.updCtx p h).get fl ix = s.get fl ix := rfl
@[simp] theorem State.updCtx_flag (p : Nat) (h : TickCtx → TickCtx) (fl : Fld) (ix : Nat) : (s.updCtx p h).flag fl ix = s.flag fl ix := rfl
@[simp] theorem State.updCtx_now (p : Nat) (h : TickCtx → TickCtx) : (s.updCtx p h).now = s.now := rfl
@[simp] theorem State.updCtx_activeHalf (p : Nat) (h : TickCtx → TickCtx) : (s.updCtx p h).activeHalf = s.activeHalf := rfl
@[simp] theorem State.updCtx_guardedCfg (p : Nat) (h : TickCtx → TickCtx) : (s.updCtx p h).guardedCfg = s.guardedCfg := rfl
@[simp] theorem State.updCtx_sq (p : Nat) (h : TickCtx → TickCtx) (j : Nat) : (s.updCtx p h).sq j = s.sq j := rfl
@[simp] theorem State.updCtx_cq (p : Nat) (h : TickCtx → TickCtx) (j : Nat) : (s.updCtx p h).cq j = s.cq j := rfl
@[simp] theorem State.updCtx_slot (p : Nat) (h : TickCtx → TickCtx) (j : Nat) : (s.updCtx p h).slot j = s.slot j := rfl
@[simp] theorem State.updCtx_polder (p : Nat) (h : TickCtx → TickCtx) (j : Nat) : (s.updCtx p h).polder j = s.polder j := rfl
@[simp] theorem State.updCtx_coreOf (p : Nat) (h : TickCtx → TickCtx) (j k2 : Nat) : (s.updCtx p h).coreOf j k2 = s.coreOf j k2 := rfl
@[simp] theorem State.updCtx_core (p : Nat) (h : TickCtx → TickCtx) (j : Nat) : (s.updCtx p h).core j = s.core j := rfl
@[simp] theorem State.updCtx_die (p : Nat) (h : TickCtx → TickCtx) (j : Nat) : (s.updCtx p h).die j = s.die j := rfl
@[simp] theorem State.updCtx_peSt (p : Nat) (h : TickCtx → TickCtx) (j : Nat) : (s.updCtx p h).peSt j = s.peSt j := rfl
@[simp] theorem State.updCtx_lost (p : Nat) (h : TickCtx → TickCtx) (j : Nat) : (s.updCtx p h).lost j = s.lost j := rfl
@[simp] theorem State.updCtx_strm (p : Nat) (h : TickCtx → TickCtx) (j : Nat) : (s.updCtx p h).strm j = s.strm j := rfl
@[simp] theorem State.updCtx_lk (p : Nat) (h : TickCtx → TickCtx) (j : LinkEnd) : (s.updCtx p h).lk j = s.lk j := rfl
@[simp] theorem State.updCtx_mc (p : Nat) (h : TickCtx → TickCtx) (j : Nat) : (s.updCtx p h).mc j = s.mc j := rfl
@[simp] theorem State.updCtx_chan (p : Nat) (h : TickCtx → TickCtx) (j : Nat) : (s.updCtx p h).chan j = s.chan j := rfl
@[simp] theorem State.updCtx_csPort (p : Nat) (h : TickCtx → TickCtx) (j : Nat) : (s.updCtx p h).csPort j = s.csPort j := rfl
@[simp] theorem State.updEnc_regs (e : Nat) (h : EncIn → EncIn) : (s.updEnc e h).regs = s.regs := rfl
@[simp] theorem State.updEnc_mem (e : Nat) (h : EncIn → EncIn) : (s.updEnc e h).mem = s.mem := rfl
@[simp] theorem State.updEnc_poison (e : Nat) (h : EncIn → EncIn) : (s.updEnc e h).poison = s.poison := rfl
@[simp] theorem State.updEnc_hub (e : Nat) (h : EncIn → EncIn) : (s.updEnc e h).hub = s.hub := rfl
@[simp] theorem State.updEnc_cp (e : Nat) (h : EncIn → EncIn) : (s.updEnc e h).cp = s.cp := rfl
@[simp] theorem State.updEnc_rcd (e : Nat) (h : EncIn → EncIn) : (s.updEnc e h).rcd = s.rcd := rfl
@[simp] theorem State.updEnc_exports (e : Nat) (h : EncIn → EncIn) : (s.updEnc e h).exports = s.exports := rfl
@[simp] theorem State.updEnc_pols (e : Nat) (h : EncIn → EncIn) : (s.updEnc e h).pols = s.pols := rfl
@[simp] theorem State.updEnc_polGen (e : Nat) (h : EncIn → EncIn) : (s.updEnc e h).polGen = s.polGen := rfl
@[simp] theorem State.updEnc_cores (e : Nat) (h : EncIn → EncIn) : (s.updEnc e h).cores = s.cores := rfl
@[simp] theorem State.updEnc_pe (e : Nat) (h : EncIn → EncIn) : (s.updEnc e h).pe = s.pe := rfl
@[simp] theorem State.updEnc_dies (e : Nat) (h : EncIn → EncIn) : (s.updEnc e h).dies = s.dies := rfl
@[simp] theorem State.updEnc_halfLost (e : Nat) (h : EncIn → EncIn) : (s.updEnc e h).halfLost = s.halfLost := rfl
@[simp] theorem State.updEnc_halfReturning (e : Nat) (h : EncIn → EncIn) : (s.updEnc e h).halfReturning = s.halfReturning := rfl
@[simp] theorem State.updEnc_fabric (e : Nat) (h : EncIn → EncIn) : (s.updEnc e h).fabric = s.fabric := rfl
@[simp] theorem State.updEnc_dir (e : Nat) (h : EncIn → EncIn) : (s.updEnc e h).dir = s.dir := rfl
@[simp] theorem State.updEnc_io (e : Nat) (h : EncIn → EncIn) : (s.updEnc e h).io = s.io := rfl
@[simp] theorem State.updEnc_mcs (e : Nat) (h : EncIn → EncIn) : (s.updEnc e h).mcs = s.mcs := rfl
@[simp] theorem State.updEnc_berm (e : Nat) (h : EncIn → EncIn) : (s.updEnc e h).berm = s.berm := rfl
@[simp] theorem State.updEnc_ing (e : Nat) (h : EncIn → EncIn) : (s.updEnc e h).ing = s.ing := rfl
@[simp] theorem State.updEnc_links (e : Nat) (h : EncIn → EncIn) : (s.updEnc e h).links = s.links := rfl
@[simp] theorem State.updEnc_dike (e : Nat) (h : EncIn → EncIn) : (s.updEnc e h).dike = s.dike := rfl
@[simp] theorem State.updEnc_cas (e : Nat) (h : EncIn → EncIn) : (s.updEnc e h).cas = s.cas := rfl
@[simp] theorem State.updEnc_pow (e : Nat) (h : EncIn → EncIn) : (s.updEnc e h).pow = s.pow := rfl
@[simp] theorem State.updEnc_out (e : Nat) (h : EncIn → EncIn) : (s.updEnc e h).out = s.out := rfl
@[simp] theorem State.updEnc_free (e : Nat) (h : EncIn → EncIn) : (s.updEnc e h).free = s.free := rfl
@[simp] theorem State.updEnc_pending (e : Nat) (h : EncIn → EncIn) : (s.updEnc e h).pending = s.pending := rfl
@[simp] theorem State.updEnc_get (e : Nat) (h : EncIn → EncIn) (fl : Fld) (ix : Nat) : (s.updEnc e h).get fl ix = s.get fl ix := rfl
@[simp] theorem State.updEnc_flag (e : Nat) (h : EncIn → EncIn) (fl : Fld) (ix : Nat) : (s.updEnc e h).flag fl ix = s.flag fl ix := rfl
@[simp] theorem State.updEnc_now (e : Nat) (h : EncIn → EncIn) : (s.updEnc e h).now = s.now := rfl
@[simp] theorem State.updEnc_activeHalf (e : Nat) (h : EncIn → EncIn) : (s.updEnc e h).activeHalf = s.activeHalf := rfl
@[simp] theorem State.updEnc_guardedCfg (e : Nat) (h : EncIn → EncIn) : (s.updEnc e h).guardedCfg = s.guardedCfg := rfl
@[simp] theorem State.updEnc_sq (e : Nat) (h : EncIn → EncIn) (j : Nat) : (s.updEnc e h).sq j = s.sq j := rfl
@[simp] theorem State.updEnc_cq (e : Nat) (h : EncIn → EncIn) (j : Nat) : (s.updEnc e h).cq j = s.cq j := rfl
@[simp] theorem State.updEnc_slot (e : Nat) (h : EncIn → EncIn) (j : Nat) : (s.updEnc e h).slot j = s.slot j := rfl
@[simp] theorem State.updEnc_polder (e : Nat) (h : EncIn → EncIn) (j : Nat) : (s.updEnc e h).polder j = s.polder j := rfl
@[simp] theorem State.updEnc_coreOf (e : Nat) (h : EncIn → EncIn) (j k2 : Nat) : (s.updEnc e h).coreOf j k2 = s.coreOf j k2 := rfl
@[simp] theorem State.updEnc_core (e : Nat) (h : EncIn → EncIn) (j : Nat) : (s.updEnc e h).core j = s.core j := rfl
@[simp] theorem State.updEnc_die (e : Nat) (h : EncIn → EncIn) (j : Nat) : (s.updEnc e h).die j = s.die j := rfl
@[simp] theorem State.updEnc_peSt (e : Nat) (h : EncIn → EncIn) (j : Nat) : (s.updEnc e h).peSt j = s.peSt j := rfl
@[simp] theorem State.updEnc_lost (e : Nat) (h : EncIn → EncIn) (j : Nat) : (s.updEnc e h).lost j = s.lost j := rfl
@[simp] theorem State.updEnc_strm (e : Nat) (h : EncIn → EncIn) (j : Nat) : (s.updEnc e h).strm j = s.strm j := rfl
@[simp] theorem State.updEnc_lk (e : Nat) (h : EncIn → EncIn) (j : LinkEnd) : (s.updEnc e h).lk j = s.lk j := rfl
@[simp] theorem State.updEnc_mc (e : Nat) (h : EncIn → EncIn) (j : Nat) : (s.updEnc e h).mc j = s.mc j := rfl
@[simp] theorem State.updEnc_chan (e : Nat) (h : EncIn → EncIn) (j : Nat) : (s.updEnc e h).chan j = s.chan j := rfl
@[simp] theorem State.updEnc_csPort (e : Nat) (h : EncIn → EncIn) (j : Nat) : (s.updEnc e h).csPort j = s.csPort j := rfl
end

@[simp] theorem Fld.width_PKG_ID_DEVICE : Fld.width .PKG_ID_DEVICE = 16 := rfl
@[simp] theorem Fld.width_PKG_ID_GRADE : Fld.width .PKG_ID_GRADE = 4 := rfl
@[simp] theorem Fld.width_PKG_ID_SPEED : Fld.width .PKG_ID_SPEED = 4 := rfl
@[simp] theorem Fld.width_PKG_ID_HUB_REV : Fld.width .PKG_ID_HUB_REV = 4 := rfl
@[simp] theorem Fld.width_PKG_ID_GUARDED : Fld.width .PKG_ID_GUARDED = 1 := rfl
@[simp] theorem Fld.width_CD_REV_CD0_REV : Fld.width .CD_REV_CD0_REV = 4 := rfl
@[simp] theorem Fld.width_CD_REV_CD1_REV : Fld.width .CD_REV_CD1_REV = 4 := rfl
@[simp] theorem Fld.width_CD_REV_CD2_REV : Fld.width .CD_REV_CD2_REV = 4 := rfl
@[simp] theorem Fld.width_CD_REV_CD3_REV : Fld.width .CD_REV_CD3_REV = 4 := rfl
@[simp] theorem Fld.width_CD_REV_CD4_REV : Fld.width .CD_REV_CD4_REV = 4 := rfl
@[simp] theorem Fld.width_CD_REV_CD5_REV : Fld.width .CD_REV_CD5_REV = 4 := rfl
@[simp] theorem Fld.width_CD_REV_CD6_REV : Fld.width .CD_REV_CD6_REV = 4 := rfl
@[simp] theorem Fld.width_CD_REV_CD7_REV : Fld.width .CD_REV_CD7_REV = 4 := rfl
@[simp] theorem Fld.width_CD_REV_CD8_REV : Fld.width .CD_REV_CD8_REV = 4 := rfl
@[simp] theorem Fld.width_CD_REV_CD9_REV : Fld.width .CD_REV_CD9_REV = 4 := rfl
@[simp] theorem Fld.width_CD_REV_CD10_REV : Fld.width .CD_REV_CD10_REV = 4 := rfl
@[simp] theorem Fld.width_CD_REV_CD11_REV : Fld.width .CD_REV_CD11_REV = 4 := rfl
@[simp] theorem Fld.width_CP_ROLE_ACTIVE : Fld.width .CP_ROLE_ACTIVE = 1 := rfl
@[simp] theorem Fld.width_CP_ROLE_STANDBY_READY : Fld.width .CP_ROLE_STANDBY_READY = 1 := rfl
@[simp] theorem Fld.width_CP_ROLE_LAST_CAUSE : Fld.width .CP_ROLE_LAST_CAUSE = 4 := rfl
@[simp] theorem Fld.width_CP_ROLE_TAKEOVERS : Fld.width .CP_ROLE_TAKEOVERS = 16 := rfl
@[simp] theorem Fld.width_MEM_WEIR_W1 : Fld.width .MEM_WEIR_W1 = 7 := rfl
@[simp] theorem Fld.width_MEM_WEIR_W2 : Fld.width .MEM_WEIR_W2 = 7 := rfl
@[simp] theorem Fld.width_MEM_WEIR_W3 : Fld.width .MEM_WEIR_W3 = 7 := rfl
@[simp] theorem Fld.width_MEM_SIZE_BLOCKS : Fld.width .MEM_SIZE_BLOCKS = 31 := rfl
@[simp] theorem Fld.width_MEM_TGT_T0 : Fld.width .MEM_TGT_T0 = 16 := rfl
@[simp] theorem Fld.width_MEM_TGT_T1 : Fld.width .MEM_TGT_T1 = 16 := rfl
@[simp] theorem Fld.width_MEM_TGT_T2 : Fld.width .MEM_TGT_T2 = 16 := rfl
@[simp] theorem Fld.width_MEM_TGT_T3 : Fld.width .MEM_TGT_T3 = 16 := rfl
@[simp] theorem Fld.width_BM_CORES_CD0 : Fld.width .BM_CORES_CD0 = 3 := rfl
@[simp] theorem Fld.width_BM_CORES_CD1 : Fld.width .BM_CORES_CD1 = 3 := rfl
@[simp] theorem Fld.width_BM_CORES_CD2 : Fld.width .BM_CORES_CD2 = 3 := rfl
@[simp] theorem Fld.width_BM_CORES_CD3 : Fld.width .BM_CORES_CD3 = 3 := rfl
@[simp] theorem Fld.width_BM_CORES_CD4 : Fld.width .BM_CORES_CD4 = 3 := rfl
@[simp] theorem Fld.width_BM_CORES_CD5 : Fld.width .BM_CORES_CD5 = 3 := rfl
@[simp] theorem Fld.width_BM_CORES_CD6 : Fld.width .BM_CORES_CD6 = 3 := rfl
@[simp] theorem Fld.width_BM_CORES_CD7 : Fld.width .BM_CORES_CD7 = 3 := rfl
@[simp] theorem Fld.width_BM_CORES_CD8 : Fld.width .BM_CORES_CD8 = 3 := rfl
@[simp] theorem Fld.width_BM_CORES_CD9 : Fld.width .BM_CORES_CD9 = 3 := rfl
@[simp] theorem Fld.width_BM_CORES_CD10 : Fld.width .BM_CORES_CD10 = 3 := rfl
@[simp] theorem Fld.width_BM_CORES_CD11 : Fld.width .BM_CORES_CD11 = 3 := rfl
@[simp] theorem Fld.width_BM_CORES_PROFILE : Fld.width .BM_CORES_PROFILE = 4 := rfl
@[simp] theorem Fld.width_REF_STAT_GOOD_H0 : Fld.width .REF_STAT_GOOD_H0 = 2 := rfl
@[simp] theorem Fld.width_REF_STAT_SEL_H0 : Fld.width .REF_STAT_SEL_H0 = 1 := rfl
@[simp] theorem Fld.width_REF_STAT_GOOD_H1 : Fld.width .REF_STAT_GOOD_H1 = 2 := rfl
@[simp] theorem Fld.width_REF_STAT_SEL_H1 : Fld.width .REF_STAT_SEL_H1 = 1 := rfl
@[simp] theorem Fld.width_REF_STAT_SWITCHES : Fld.width .REF_STAT_SWITCHES = 16 := rfl
@[simp] theorem Fld.width_CP_INFO_MAXDEPTH : Fld.width .CP_INFO_MAXDEPTH = 12 := rfl
@[simp] theorem Fld.width_CP_INFO_MAXQID : Fld.width .CP_INFO_MAXQID = 6 := rfl
@[simp] theorem Fld.width_CP_INFO_VERSION : Fld.width .CP_INFO_VERSION = 8 := rfl
@[simp] theorem Fld.width_QRB_CTL_EN : Fld.width .QRB_CTL_EN = 1 := rfl
@[simp] theorem Fld.width_QRB_CTL_ASQ_SIZE : Fld.width .QRB_CTL_ASQ_SIZE = 12 := rfl
@[simp] theorem Fld.width_QRB_CTL_ACQ_SIZE : Fld.width .QRB_CTL_ACQ_SIZE = 12 := rfl
@[simp] theorem Fld.width_QRB_STAT_RDY : Fld.width .QRB_STAT_RDY = 1 := rfl
@[simp] theorem Fld.width_QRB_STAT_DB_ERR : Fld.width .QRB_STAT_DB_ERR = 1 := rfl
@[simp] theorem Fld.width_QRB_STAT_TAKEOVER : Fld.width .QRB_STAT_TAKEOVER = 1 := rfl
@[simp] theorem Fld.width_QRB_STAT_FATAL : Fld.width .QRB_STAT_FATAL = 1 := rfl
@[simp] theorem Fld.width_ASQ_BASE_BASE : Fld.width .ASQ_BASE_BASE = 52 := rfl
@[simp] theorem Fld.width_ACQ_BASE_BASE : Fld.width .ACQ_BASE_BASE = 52 := rfl
@[simp] theorem Fld.width_SQ_DB_VALUE : Fld.width .SQ_DB_VALUE = 12 := rfl
@[simp] theorem Fld.width_CQ_DB_VALUE : Fld.width .CQ_DB_VALUE = 12 := rfl
@[simp] theorem Fld.width_CUT_REL_TICK : Fld.width .CUT_REL_TICK = 48 := rfl
@[simp] theorem Fld.width_CUT_REL_ALL_TICK : Fld.width .CUT_REL_ALL_TICK = 48 := rfl
@[simp] theorem Fld.width_CS_SQTAIL_VALUE : Fld.width .CS_SQTAIL_VALUE = 64 := rfl
@[simp] theorem Fld.width_RGN_LO_VALID : Fld.width .RGN_LO_VALID = 1 := rfl
@[simp] theorem Fld.width_RGN_LO_WORLD : Fld.width .RGN_LO_WORLD = 1 := rfl
@[simp] theorem Fld.width_RGN_LO_TYPE : Fld.width .RGN_LO_TYPE = 1 := rfl
@[simp] theorem Fld.width_RGN_LO_IDEMP : Fld.width .RGN_LO_IDEMP = 1 := rfl
@[simp] theorem Fld.width_RGN_LO_BASE : Fld.width .RGN_LO_BASE = 31 := rfl
@[simp] theorem Fld.width_RGN_HI_LIMIT : Fld.width .RGN_HI_LIMIT = 31 := rfl
@[simp] theorem Fld.width_RGN_RD_MASK : Fld.width .RGN_RD_MASK = 32 := rfl
@[simp] theorem Fld.width_RGN_WR_MASK : Fld.width .RGN_WR_MASK = 32 := rfl
@[simp] theorem Fld.width_RGN_STAGE_LO_VALUE : Fld.width .RGN_STAGE_LO_VALUE = 64 := rfl
@[simp] theorem Fld.width_RGN_STAGE_HI_VALUE : Fld.width .RGN_STAGE_HI_VALUE = 64 := rfl
@[simp] theorem Fld.width_RGN_STAGE_RD_VALUE : Fld.width .RGN_STAGE_RD_VALUE = 64 := rfl
@[simp] theorem Fld.width_RGN_STAGE_WR_VALUE : Fld.width .RGN_STAGE_WR_VALUE = 64 := rfl
@[simp] theorem Fld.width_RGN_COMMIT_INDEX : Fld.width .RGN_COMMIT_INDEX = 8 := rfl
@[simp] theorem Fld.width_RGN_COMMIT_GO : Fld.width .RGN_COMMIT_GO = 1 := rfl
@[simp] theorem Fld.width_WORLD_ATTR_PCIE_SEC : Fld.width .WORLD_ATTR_PCIE_SEC = 4 := rfl
@[simp] theorem Fld.width_WORLD_ATTR_CASC_SEC : Fld.width .WORLD_ATTR_CASC_SEC = 4 := rfl
@[simp] theorem Fld.width_WORLD_ATTR_GUEST_SEC : Fld.width .WORLD_ATTR_GUEST_SEC = 2 := rfl
@[simp] theorem Fld.width_WORLD_ATTR_SIDEBAND_TRUSTED : Fld.width .WORLD_ATTR_SIDEBAND_TRUSTED = 1 := rfl
@[simp] theorem Fld.width_RGN_VIOL_COUNT : Fld.width .RGN_VIOL_COUNT = 48 := rfl
@[simp] theorem Fld.width_PT_NOW_TIME : Fld.width .PT_NOW_TIME = 64 := rfl
@[simp] theorem Fld.width_PT_CTL_SRC : Fld.width .PT_CTL_SRC = 2 := rfl
@[simp] theorem Fld.width_PT_CTL_PPS_HALF : Fld.width .PT_CTL_PPS_HALF = 1 := rfl
@[simp] theorem Fld.width_PT_CTL_SLEW_MAX : Fld.width .PT_CTL_SLEW_MAX = 8 := rfl
@[simp] theorem Fld.width_PT_FREQ_VALUE : Fld.width .PT_FREQ_VALUE = 64 := rfl
@[simp] theorem Fld.width_PT_PHASE_VALUE : Fld.width .PT_PHASE_VALUE = 64 := rfl
@[simp] theorem Fld.width_PT_STEP_VALUE : Fld.width .PT_STEP_VALUE = 64 := rfl
@[simp] theorem Fld.width_PT_PPS_STAMP : Fld.width .PT_PPS_STAMP = 64 := rfl
@[simp] theorem Fld.width_PT_STAT_SRC_OK : Fld.width .PT_STAT_SRC_OK = 1 := rfl
@[simp] theorem Fld.width_PT_STAT_HOLDOVER : Fld.width .PT_STAT_HOLDOVER = 1 := rfl
@[simp] theorem Fld.width_PT_STAT_SLEWING : Fld.width .PT_STAT_SLEWING = 1 := rfl
@[simp] theorem Fld.width_PT_STAT_STEP_REFUSED : Fld.width .PT_STAT_STEP_REFUSED = 1 := rfl
@[simp] theorem Fld.width_ENC_CFG_EN : Fld.width .ENC_CFG_EN = 1 := rfl
@[simp] theorem Fld.width_ENC_CFG_MODE : Fld.width .ENC_CFG_MODE = 2 := rfl
@[simp] theorem Fld.width_ENC_CFG_ZCHK : Fld.width .ENC_CFG_ZCHK = 1 := rfl
@[simp] theorem Fld.width_ENC_CFG_FILT : Fld.width .ENC_CFG_FILT = 4 := rfl
@[simp] theorem Fld.width_ENC_CFG_TOL : Fld.width .ENC_CFG_TOL = 8 := rfl
@[simp] theorem Fld.width_ENC_CFG_ZPERIOD : Fld.width .ENC_CFG_ZPERIOD = 24 := rfl
@[simp] theorem Fld.width_ENC_POS_POS : Fld.width .ENC_POS_POS = 64 := rfl
@[simp] theorem Fld.width_ENC_STAT_ILLEGAL : Fld.width .ENC_STAT_ILLEGAL = 1 := rfl
@[simp] theorem Fld.width_ENC_STAT_LOS : Fld.width .ENC_STAT_LOS = 1 := rfl
@[simp] theorem Fld.width_ENC_STAT_ZERR : Fld.width .ENC_STAT_ZERR = 1 := rfl
@[simp] theorem Fld.width_ENC_STAT_OVERSPEED : Fld.width .ENC_STAT_OVERSPEED = 1 := rfl
@[simp] theorem Fld.width_ENC_STAT_PAIR_FAULT : Fld.width .ENC_STAT_PAIR_FAULT = 1 := rfl
@[simp] theorem Fld.width_ENC_STAT_FAILED : Fld.width .ENC_STAT_FAILED = 1 := rfl
@[simp] theorem Fld.width_ENC_STAT_ILLEGAL_CNT : Fld.width .ENC_STAT_ILLEGAL_CNT = 16 := rfl
@[simp] theorem Fld.width_TRIG_CFG_POL : Fld.width .TRIG_CFG_POL = 1 := rfl
@[simp] theorem Fld.width_TRIG_CFG_LATE : Fld.width .TRIG_CFG_LATE = 1 := rfl
@[simp] theorem Fld.width_TRIG_CFG_WIDTH : Fld.width .TRIG_CFG_WIDTH = 24 := rfl
@[simp] theorem Fld.width_TRIG_STAT_ARMED : Fld.width .TRIG_STAT_ARMED = 1 := rfl
@[simp] theorem Fld.width_TRIG_STAT_DEPTH : Fld.width .TRIG_STAT_DEPTH = 11 := rfl
@[simp] theorem Fld.width_TRIG_CNT_FIRED : Fld.width .TRIG_CNT_FIRED = 16 := rfl
@[simp] theorem Fld.width_TRIG_CNT_LATE_DROP : Fld.width .TRIG_CNT_LATE_DROP = 16 := rfl
@[simp] theorem Fld.width_TRIG_CNT_LATE_FIRED : Fld.width .TRIG_CNT_LATE_FIRED = 16 := rfl
@[simp] theorem Fld.width_TRIG_CNT_DISARM_DROP : Fld.width .TRIG_CNT_DISARM_DROP = 8 := rfl
@[simp] theorem Fld.width_TRIG_CNT_OVF : Fld.width .TRIG_CNT_OVF = 8 := rfl
@[simp] theorem Fld.width_SLACK_CTL_MIN_NS : Fld.width .SLACK_CTL_MIN_NS = 16 := rfl
@[simp] theorem Fld.width_SLACK_CTL_GUARD_NS : Fld.width .SLACK_CTL_GUARD_NS = 16 := rfl
@[simp] theorem Fld.width_TE_STAT_PARTNER : Fld.width .TE_STAT_PARTNER = 1 := rfl
@[simp] theorem Fld.width_TE_STAT_ROLE_CHANGES : Fld.width .TE_STAT_ROLE_CHANGES = 8 := rfl
@[simp] theorem Fld.width_TE_STAT_MISMATCH : Fld.width .TE_STAT_MISMATCH = 16 := rfl
@[simp] theorem Fld.width_TE_STAT_BACKUP : Fld.width .TE_STAT_BACKUP = 16 := rfl
@[simp] theorem Fld.width_TK_CFG_WORD : Fld.width .TK_CFG_WORD = 64 := rfl
@[simp] theorem Fld.width_TK_CTL_HOST_TICK : Fld.width .TK_CTL_HOST_TICK = 1 := rfl
@[simp] theorem Fld.width_TK_CTL_RESUME : Fld.width .TK_CTL_RESUME = 1 := rfl
@[simp] theorem Fld.width_TK_CTL_PREF : Fld.width .TK_CTL_PREF = 1 := rfl
@[simp] theorem Fld.width_TK_NOW_NUM : Fld.width .TK_NOW_NUM = 48 := rfl
@[simp] theorem Fld.width_TK_NOW_STATE : Fld.width .TK_NOW_STATE = 3 := rfl
@[simp] theorem Fld.width_TK_EDGE_PTIME : Fld.width .TK_EDGE_PTIME = 64 := rfl
@[simp] theorem Fld.width_TK_EVT_OVERRUN : Fld.width .TK_EVT_OVERRUN = 16 := rfl
@[simp] theorem Fld.width_TK_EVT_SKIP : Fld.width .TK_EVT_SKIP = 16 := rfl
@[simp] theorem Fld.width_TK_EVT_LATE : Fld.width .TK_EVT_LATE = 16 := rfl
@[simp] theorem Fld.width_TK_EVT_EARLY : Fld.width .TK_EVT_EARLY = 16 := rfl
@[simp] theorem Fld.width_GD_CTL_DEFER_LIMIT : Fld.width .GD_CTL_DEFER_LIMIT = 20 := rfl
@[simp] theorem Fld.width_GD_CTL_CATCHUP : Fld.width .GD_CTL_CATCHUP = 3 := rfl
@[simp] theorem Fld.width_GD_STAT_TOKEN_HELD : Fld.width .GD_STAT_TOKEN_HELD = 1 := rfl
@[simp] theorem Fld.width_GD_STAT_TOKEN_CPU : Fld.width .GD_STAT_TOKEN_CPU = 8 := rfl
@[simp] theorem Fld.width_GD_STAT_RECOVERING : Fld.width .GD_STAT_RECOVERING = 8 := rfl
@[simp] theorem Fld.width_GD_STAT_VACANT : Fld.width .GD_STAT_VACANT = 8 := rfl
@[simp] theorem Fld.width_GD_STAT_LAST_CAUSE : Fld.width .GD_STAT_LAST_CAUSE = 8 := rfl
@[simp] theorem Fld.width_GD_CNT0_ABORT_SNOOP : Fld.width .GD_CNT0_ABORT_SNOOP = 16 := rfl
@[simp] theorem Fld.width_GD_CNT0_ABORT_ERR : Fld.width .GD_CNT0_ABORT_ERR = 16 := rfl
@[simp] theorem Fld.width_GD_CNT0_RERUN_FAULT : Fld.width .GD_CNT0_RERUN_FAULT = 16 := rfl
@[simp] theorem Fld.width_GD_CNT0_TICKABORT : Fld.width .GD_CNT0_TICKABORT = 16 := rfl
@[simp] theorem Fld.width_GD_CNT1_WAY_OVF : Fld.width .GD_CNT1_WAY_OVF = 16 := rfl
@[simp] theorem Fld.width_GD_CNT1_DQ_OVF : Fld.width .GD_CNT1_DQ_OVF = 16 := rfl
@[simp] theorem Fld.width_GD_CNT1_DEV_READ : Fld.width .GD_CNT1_DEV_READ = 16 := rfl
@[simp] theorem Fld.width_GD_CNT1_TOKEN : Fld.width .GD_CNT1_TOKEN = 8 := rfl
@[simp] theorem Fld.width_GD_CNT1_CATCHUP_FAIL : Fld.width .GD_CNT1_CATCHUP_FAIL = 8 := rfl
@[simp] theorem Fld.width_L2_CTL_EN : Fld.width .L2_CTL_EN = 1 := rfl
@[simp] theorem Fld.width_L2_CTL_PF : Fld.width .L2_CTL_PF = 1 := rfl
@[simp] theorem Fld.width_L2_STAT_EN_STATUS : Fld.width .L2_STAT_EN_STATUS = 1 := rfl
@[simp] theorem Fld.width_L2_STAT_SWEEP : Fld.width .L2_STAT_SWEEP = 1 := rfl
@[simp] theorem Fld.width_L2_STAT_REFUSED : Fld.width .L2_STAT_REFUSED = 1 := rfl
@[simp] theorem Fld.width_L2_STAT_LOCKED : Fld.width .L2_STAT_LOCKED = 16 := rfl
@[simp] theorem Fld.width_L2_STAT_RETIRED : Fld.width .L2_STAT_RETIRED = 16 := rfl
@[simp] theorem Fld.width_L2_ECC_ECC_THRESH : Fld.width .L2_ECC_ECC_THRESH = 16 := rfl
@[simp] theorem Fld.width_L2_ECC_ECC_WINDOW : Fld.width .L2_ECC_ECC_WINDOW = 16 := rfl
@[simp] theorem Fld.width_L2_ECC_CE_CNT : Fld.width .L2_ECC_CE_CNT = 16 := rfl
@[simp] theorem Fld.width_L2_ECC_UE_CNT : Fld.width .L2_ECC_UE_CNT = 8 := rfl
@[simp] theorem Fld.width_L2_ECC_LAST_WAY : Fld.width .L2_ECC_LAST_WAY = 4 := rfl
@[simp] theorem Fld.width_L2_CNT_LOCK_LOST : Fld.width .L2_CNT_LOCK_LOST = 32 := rfl
@[simp] theorem Fld.width_L2_CNT_PUSH_DROP : Fld.width .L2_CNT_PUSH_DROP = 32 := rfl
@[simp] theorem Fld.width_DC_CTL_EN : Fld.width .DC_CTL_EN = 1 := rfl
@[simp] theorem Fld.width_DC_CTL_ECC_THRESH : Fld.width .DC_CTL_ECC_THRESH = 16 := rfl
@[simp] theorem Fld.width_DC_CTL_ECC_WINDOW : Fld.width .DC_CTL_ECC_WINDOW = 16 := rfl
@[simp] theorem Fld.width_DC_STAT_EN_STATUS : Fld.width .DC_STAT_EN_STATUS = 1 := rfl
@[simp] theorem Fld.width_DC_STAT_SWEEP : Fld.width .DC_STAT_SWEEP = 1 := rfl
@[simp] theorem Fld.width_DC_STAT_REFUSED : Fld.width .DC_STAT_REFUSED = 1 := rfl
@[simp] theorem Fld.width_DC_CNT_PUSH_DROP : Fld.width .DC_CNT_PUSH_DROP = 32 := rfl
@[simp] theorem Fld.width_DC_CNT_LOCK_VICTIM : Fld.width .DC_CNT_LOCK_VICTIM = 32 := rfl
@[simp] theorem Fld.width_DC_MAINT_OP : Fld.width .DC_MAINT_OP = 2 := rfl
@[simp] theorem Fld.width_DC_MAINT_SLICE : Fld.width .DC_MAINT_SLICE = 5 := rfl
@[simp] theorem Fld.width_DC_MAINT_SET : Fld.width .DC_MAINT_SET = 11 := rfl
@[simp] theorem Fld.width_DC_MAINT_WAY : Fld.width .DC_MAINT_WAY = 5 := rfl
@[simp] theorem Fld.width_DC_MAINT_GO : Fld.width .DC_MAINT_GO = 1 := rfl
@[simp] theorem Fld.width_DC_MAINT_BUSY : Fld.width .DC_MAINT_BUSY = 1 := rfl
@[simp] theorem Fld.width_DC_SLICE_RETIRED : Fld.width .DC_SLICE_RETIRED = 16 := rfl
@[simp] theorem Fld.width_DC_SLICE_SPARE_USED : Fld.width .DC_SLICE_SPARE_USED = 1 := rfl
@[simp] theorem Fld.width_DC_SLICE_CE_CNT : Fld.width .DC_SLICE_CE_CNT = 16 := rfl
@[simp] theorem Fld.width_DC_SLICE_UE_CNT : Fld.width .DC_SLICE_UE_CNT = 8 := rfl
@[simp] theorem Fld.width_DIR_CTL_HOLD_WINDOW : Fld.width .DIR_CTL_HOLD_WINDOW = 11 := rfl
@[simp] theorem Fld.width_DIR_CTL_NACK_RETRY : Fld.width .DIR_CTL_NACK_RETRY = 8 := rfl
@[simp] theorem Fld.width_DIR_STAT_HOMES : Fld.width .DIR_STAT_HOMES = 2 := rfl
@[simp] theorem Fld.width_DIR_STAT_SPINE_DOWN : Fld.width .DIR_STAT_SPINE_DOWN = 1 := rfl
@[simp] theorem Fld.width_DIR_STAT_PARTNER_LOST : Fld.width .DIR_STAT_PARTNER_LOST = 1 := rfl
@[simp] theorem Fld.width_DIR_STAT_PATHS : Fld.width .DIR_STAT_PATHS = 12 := rfl
@[simp] theorem Fld.width_DIR_CNT0_RECALLS : Fld.width .DIR_CNT0_RECALLS = 32 := rfl
@[simp] theorem Fld.width_DIR_CNT0_INVALS : Fld.width .DIR_CNT0_INVALS = 32 := rfl
@[simp] theorem Fld.width_DIR_CNT1_NACKS : Fld.width .DIR_CNT1_NACKS = 16 := rfl
@[simp] theorem Fld.width_DIR_CNT1_HOLD_WAITS : Fld.width .DIR_CNT1_HOLD_WAITS = 16 := rfl
@[simp] theorem Fld.width_DIR_CNT1_DIR_EVICTS : Fld.width .DIR_CNT1_DIR_EVICTS = 16 := rfl
@[simp] theorem Fld.width_DIR_CNT1_HINT_DROP : Fld.width .DIR_CNT1_HINT_DROP = 16 := rfl
@[simp] theorem Fld.width_CEN_STAT_LINES : Fld.width .CEN_STAT_LINES = 24 := rfl
@[simp] theorem Fld.width_CEN_STAT_DROPPED : Fld.width .CEN_STAT_DROPPED = 16 := rfl
@[simp] theorem Fld.width_CEN_STAT_BCAST : Fld.width .CEN_STAT_BCAST = 12 := rfl
@[simp] theorem Fld.width_CEN_STAT_DURATION : Fld.width .CEN_STAT_DURATION = 12 := rfl
@[simp] theorem Fld.width_DIR_BANK_TRK : Fld.width .DIR_BANK_TRK = 10 := rfl
@[simp] theorem Fld.width_DIR_BANK_WAIT : Fld.width .DIR_BANK_WAIT = 13 := rfl
@[simp] theorem Fld.width_DIR_BANK_WAIT_MAX : Fld.width .DIR_BANK_WAIT_MAX = 13 := rfl
@[simp] theorem Fld.width_DIR_BANK_SPARE : Fld.width .DIR_BANK_SPARE = 2 := rfl
@[simp] theorem Fld.width_DIR_BANK_RETIRED : Fld.width .DIR_BANK_RETIRED = 3 := rfl
@[simp] theorem Fld.width_HP_CFG_MODE : Fld.width .HP_CFG_MODE = 2 := rfl
@[simp] theorem Fld.width_HP_CFG_AN_EN : Fld.width .HP_CFG_AN_EN = 1 := rfl
@[simp] theorem Fld.width_HP_CFG_SUB_EN : Fld.width .HP_CFG_SUB_EN = 4 := rfl
@[simp] theorem Fld.width_HP_STAT_LINK : Fld.width .HP_STAT_LINK = 4 := rfl
@[simp] theorem Fld.width_HP_STAT_RATE : Fld.width .HP_STAT_RATE = 3 := rfl
@[simp] theorem Fld.width_HP_CNT_FCS_ERR : Fld.width .HP_CNT_FCS_ERR = 16 := rfl
@[simp] theorem Fld.width_HP_CNT_FEC_UNCORR : Fld.width .HP_CNT_FEC_UNCORR = 16 := rfl
@[simp] theorem Fld.width_HP_CNT_FOREIGN : Fld.width .HP_CNT_FOREIGN = 16 := rfl
@[simp] theorem Fld.width_HP_CNT_LINK_DOWN : Fld.width .HP_CNT_LINK_DOWN = 16 := rfl
@[simp] theorem Fld.width_HP_ADDR_IPV4 : Fld.width .HP_ADDR_IPV4 = 32 := rfl
@[simp] theorem Fld.width_HP_ADDR_PREFIX : Fld.width .HP_ADDR_PREFIX = 6 := rfl
@[simp] theorem Fld.width_HP_ADDR_VID : Fld.width .HP_ADDR_VID = 12 := rfl
@[simp] theorem Fld.width_PTP_CFG_DOMAIN : Fld.width .PTP_CFG_DOMAIN = 8 := rfl
@[simp] theorem Fld.width_PTP_CFG_PRIO1 : Fld.width .PTP_CFG_PRIO1 = 8 := rfl
@[simp] theorem Fld.width_PTP_CFG_PRIO2 : Fld.width .PTP_CFG_PRIO2 = 8 := rfl
@[simp] theorem Fld.width_PTP_CFG_LOG_SYNC : Fld.width .PTP_CFG_LOG_SYNC = 3 := rfl
@[simp] theorem Fld.width_PTP_CFG_ONE_STEP : Fld.width .PTP_CFG_ONE_STEP = 1 := rfl
@[simp] theorem Fld.width_PTP_CFG_SLAVE : Fld.width .PTP_CFG_SLAVE = 6 := rfl
@[simp] theorem Fld.width_PTP_CFG_SLAVE_EN : Fld.width .PTP_CFG_SLAVE_EN = 1 := rfl
@[simp] theorem Fld.width_PTP_EPOCH_OFFSET : Fld.width .PTP_EPOCH_OFFSET = 64 := rfl
@[simp] theorem Fld.width_STR_BIND_WORD : Fld.width .STR_BIND_WORD = 64 := rfl
@[simp] theorem Fld.width_STR_STAT_STATE : Fld.width .STR_STAT_STATE = 3 := rfl
@[simp] theorem Fld.width_STR_STAT_LEAD : Fld.width .STR_STAT_LEAD = 1 := rfl
@[simp] theorem Fld.width_STR_STAT_PAIR_LIVE : Fld.width .STR_STAT_PAIR_LIVE = 1 := rfl
@[simp] theorem Fld.width_STR_STAT_FULL : Fld.width .STR_STAT_FULL = 1 := rfl
@[simp] theorem Fld.width_STR_STAT_LAST_CUT : Fld.width .STR_STAT_LAST_CUT = 48 := rfl
@[simp] theorem Fld.width_STR_POS_NEXT : Fld.width .STR_POS_NEXT = 32 := rfl
@[simp] theorem Fld.width_STR_POS_HELD : Fld.width .STR_POS_HELD = 32 := rfl
@[simp] theorem Fld.width_STR_CNT0_LINES : Fld.width .STR_CNT0_LINES = 32 := rfl
@[simp] theorem Fld.width_STR_CNT0_INCOMPLETE : Fld.width .STR_CNT0_INCOMPLETE = 16 := rfl
@[simp] theorem Fld.width_STR_CNT0_LATE : Fld.width .STR_CNT0_LATE = 16 := rfl
@[simp] theorem Fld.width_STR_CNT1_DROP : Fld.width .STR_CNT1_DROP = 32 := rfl
@[simp] theorem Fld.width_STR_CNT1_DUP_PKT : Fld.width .STR_CNT1_DUP_PKT = 16 := rfl
@[simp] theorem Fld.width_STR_CNT1_FOREIGN_PKT : Fld.width .STR_CNT1_FOREIGN_PKT = 16 := rfl
@[simp] theorem Fld.width_LK_CTL_RETRAIN : Fld.width .LK_CTL_RETRAIN = 1 := rfl
@[simp] theorem Fld.width_LK_CTL_SLEEP_EN : Fld.width .LK_CTL_SLEEP_EN = 1 := rfl
@[simp] theorem Fld.width_LK_CTL_SLEEP_IDLE : Fld.width .LK_CTL_SLEEP_IDLE = 16 := rfl
@[simp] theorem Fld.width_LK_CTL_CRC_THRESH : Fld.width .LK_CTL_CRC_THRESH = 16 := rfl
@[simp] theorem Fld.width_LK_STAT_STATE : Fld.width .LK_STAT_STATE = 2 := rfl
@[simp] theorem Fld.width_LK_STAT_LEVEL : Fld.width .LK_STAT_LEVEL = 2 := rfl
@[simp] theorem Fld.width_LK_STAT_PEER_KIND : Fld.width .LK_STAT_PEER_KIND = 2 := rfl
@[simp] theorem Fld.width_LK_STAT_PEER_REV : Fld.width .LK_STAT_PEER_REV = 4 := rfl
@[simp] theorem Fld.width_LK_STAT_FEATURES : Fld.width .LK_STAT_FEATURES = 8 := rfl
@[simp] theorem Fld.width_LK_STAT_LAST_CAUSE : Fld.width .LK_STAT_LAST_CAUSE = 4 := rfl
@[simp] theorem Fld.width_LK_MAP_TX_MAP : Fld.width .LK_MAP_TX_MAP = 38 := rfl
@[simp] theorem Fld.width_LK_MAP_RX_MAP : Fld.width .LK_MAP_RX_MAP = 38 := rfl
@[simp] theorem Fld.width_LK_CNT_RETRIES : Fld.width .LK_CNT_RETRIES = 16 := rfl
@[simp] theorem Fld.width_LK_CNT_CRC_ERR : Fld.width .LK_CNT_CRC_ERR = 16 := rfl
@[simp] theorem Fld.width_LK_CNT_RETRAINS : Fld.width .LK_CNT_RETRAINS = 16 := rfl
@[simp] theorem Fld.width_LK_CNT_MISMATCH : Fld.width .LK_CNT_MISMATCH = 8 := rfl
@[simp] theorem Fld.width_LK_CNT_SLEEPS : Fld.width .LK_CNT_SLEEPS = 8 := rfl
@[simp] theorem Fld.width_LKC_CTL_RETRAIN : Fld.width .LKC_CTL_RETRAIN = 1 := rfl
@[simp] theorem Fld.width_LKC_CTL_SLEEP_EN : Fld.width .LKC_CTL_SLEEP_EN = 1 := rfl
@[simp] theorem Fld.width_LKC_CTL_SLEEP_IDLE : Fld.width .LKC_CTL_SLEEP_IDLE = 16 := rfl
@[simp] theorem Fld.width_LKC_CTL_CRC_THRESH : Fld.width .LKC_CTL_CRC_THRESH = 16 := rfl
@[simp] theorem Fld.width_LKC_STAT_STATE : Fld.width .LKC_STAT_STATE = 2 := rfl
@[simp] theorem Fld.width_LKC_STAT_LEVEL : Fld.width .LKC_STAT_LEVEL = 2 := rfl
@[simp] theorem Fld.width_LKC_STAT_PEER_KIND : Fld.width .LKC_STAT_PEER_KIND = 2 := rfl
@[simp] theorem Fld.width_LKC_STAT_PEER_REV : Fld.width .LKC_STAT_PEER_REV = 4 := rfl
@[simp] theorem Fld.width_LKC_STAT_FEATURES : Fld.width .LKC_STAT_FEATURES = 8 := rfl
@[simp] theorem Fld.width_LKC_STAT_LAST_CAUSE : Fld.width .LKC_STAT_LAST_CAUSE = 4 := rfl
@[simp] theorem Fld.width_LKC_MAP_TX_MAP : Fld.width .LKC_MAP_TX_MAP = 38 := rfl
@[simp] theorem Fld.width_LKC_MAP_RX_MAP : Fld.width .LKC_MAP_RX_MAP = 38 := rfl
@[simp] theorem Fld.width_LKC_CNT_RETRIES : Fld.width .LKC_CNT_RETRIES = 16 := rfl
@[simp] theorem Fld.width_LKC_CNT_CRC_ERR : Fld.width .LKC_CNT_CRC_ERR = 16 := rfl
@[simp] theorem Fld.width_LKC_CNT_RETRAINS : Fld.width .LKC_CNT_RETRAINS = 16 := rfl
@[simp] theorem Fld.width_LKC_CNT_MISMATCH : Fld.width .LKC_CNT_MISMATCH = 8 := rfl
@[simp] theorem Fld.width_LKC_CNT_SLEEPS : Fld.width .LKC_CNT_SLEEPS = 8 := rfl
@[simp] theorem Fld.width_DK_CTL_FENCE : Fld.width .DK_CTL_FENCE = 1 := rfl
@[simp] theorem Fld.width_DK_CTL_PQUAR : Fld.width .DK_CTL_PQUAR = 1 := rfl
@[simp] theorem Fld.width_DK_CTL_OUTCAP : Fld.width .DK_CTL_OUTCAP = 11 := rfl
@[simp] theorem Fld.width_DK_CTL_RATE : Fld.width .DK_CTL_RATE = 16 := rfl
@[simp] theorem Fld.width_DK_CTL_BURST : Fld.width .DK_CTL_BURST = 16 := rfl
@[simp] theorem Fld.width_DK_STAT_PQ_TRIP : Fld.width .DK_STAT_PQ_TRIP = 1 := rfl
@[simp] theorem Fld.width_DK_STAT_OUTSTANDING : Fld.width .DK_STAT_OUTSTANDING = 11 := rfl
@[simp] theorem Fld.width_DK_EPOCH_CURRENT : Fld.width .DK_EPOCH_CURRENT = 32 := rfl
@[simp] theorem Fld.width_DK_EPOCH_OLDEST_LIVE : Fld.width .DK_EPOCH_OLDEST_LIVE = 32 := rfl
@[simp] theorem Fld.width_DK_CNT_REFUSED : Fld.width .DK_CNT_REFUSED = 24 := rfl
@[simp] theorem Fld.width_DK_CNT_POISON_IN : Fld.width .DK_CNT_POISON_IN = 16 := rfl
@[simp] theorem Fld.width_DK_CNT_RATE_HELD : Fld.width .DK_CNT_RATE_HELD = 24 := rfl
@[simp] theorem Fld.width_DK_BASE_ADDR : Fld.width .DK_BASE_ADDR = 40 := rfl
@[simp] theorem Fld.width_DK_LIM_ADDR : Fld.width .DK_LIM_ADDR = 40 := rfl
@[simp] theorem Fld.width_DK_TGT_ADDR : Fld.width .DK_TGT_ADDR = 40 := rfl
@[simp] theorem Fld.width_DK_ATTR_VALID : Fld.width .DK_ATTR_VALID = 1 := rfl
@[simp] theorem Fld.width_DK_ATTR_RD : Fld.width .DK_ATTR_RD = 1 := rfl
@[simp] theorem Fld.width_DK_ATTR_WR : Fld.width .DK_ATTR_WR = 1 := rfl
@[simp] theorem Fld.width_DK_ATTR_PLACE : Fld.width .DK_ATTR_PLACE = 1 := rfl
@[simp] theorem Fld.width_DK_ATTR_SEC : Fld.width .DK_ATTR_SEC = 1 := rfl
@[simp] theorem Fld.width_DK_ATTR_POLDER : Fld.width .DK_ATTR_POLDER = 5 := rfl
@[simp] theorem Fld.width_DK_STG_VALUE : Fld.width .DK_STG_VALUE = 64 := rfl
@[simp] theorem Fld.width_DK_DBCFG_EN : Fld.width .DK_DBCFG_EN = 1 := rfl
@[simp] theorem Fld.width_DK_DBCFG_POLDER : Fld.width .DK_DBCFG_POLDER = 5 := rfl
@[simp] theorem Fld.width_DK_DBCFG_LCPU : Fld.width .DK_DBCFG_LCPU = 8 := rfl
@[simp] theorem Fld.width_DK_DBCFG_INTID : Fld.width .DK_DBCFG_INTID = 16 := rfl
@[simp] theorem Fld.width_GDB_VALUE : Fld.width .GDB_VALUE = 64 := rfl
@[simp] theorem Fld.width_CS_CTL_PORTS : Fld.width .CS_CTL_PORTS = 4 := rfl
@[simp] theorem Fld.width_CS_CTL_MASTER_CAP : Fld.width .CS_CTL_MASTER_CAP = 1 := rfl
@[simp] theorem Fld.width_CS_CTL_PROMOTE : Fld.width .CS_CTL_PROMOTE = 1 := rfl
@[simp] theorem Fld.width_CS_CTL_PRIORITY : Fld.width .CS_CTL_PRIORITY = 8 := rfl
@[simp] theorem Fld.width_CS_CTL_CASCADE_ID : Fld.width .CS_CTL_CASCADE_ID = 32 := rfl
@[simp] theorem Fld.width_CS_TIMING_L_CASCADE : Fld.width .CS_TIMING_L_CASCADE = 32 := rfl
@[simp] theorem Fld.width_CS_TIMING_HOLD_TICKS : Fld.width .CS_TIMING_HOLD_TICKS = 16 := rfl
@[simp] theorem Fld.width_CS_TIMING_HOLD_MS : Fld.width .CS_TIMING_HOLD_MS = 16 := rfl
@[simp] theorem Fld.width_CS_STAT_STATE : Fld.width .CS_STAT_STATE = 3 := rfl
@[simp] theorem Fld.width_CS_STAT_INDEX : Fld.width .CS_STAT_INDEX = 4 := rfl
@[simp] theorem Fld.width_CS_STAT_MASTER : Fld.width .CS_STAT_MASTER = 4 := rfl
@[simp] theorem Fld.width_CS_STAT_CONVERGING : Fld.width .CS_STAT_CONVERGING = 1 := rfl
@[simp] theorem Fld.width_CS_STAT_LATE_RISK : Fld.width .CS_STAT_LATE_RISK = 1 := rfl
@[simp] theorem Fld.width_CS_STAT_D_WORST : Fld.width .CS_STAT_D_WORST = 16 := rfl
@[simp] theorem Fld.width_CS_STAT_MEMBERS : Fld.width .CS_STAT_MEMBERS = 16 := rfl
@[simp] theorem Fld.width_CS_CNT_HOLDOVERS : Fld.width .CS_CNT_HOLDOVERS = 16 := rfl
@[simp] theorem Fld.width_CS_CNT_RECONCILES : Fld.width .CS_CNT_RECONCILES = 16 := rfl
@[simp] theorem Fld.width_CS_CNT_RESENDS : Fld.width .CS_CNT_RESENDS = 16 := rfl
@[simp] theorem Fld.width_CS_CNT_UNREACH : Fld.width .CS_CNT_UNREACH = 16 := rfl
@[simp] theorem Fld.width_CS_PORT_LINK : Fld.width .CS_PORT_LINK = 1 := rfl
@[simp] theorem Fld.width_CS_PORT_PEER_OK : Fld.width .CS_PORT_PEER_OK = 1 := rfl
@[simp] theorem Fld.width_CS_PORT_PEER : Fld.width .CS_PORT_PEER = 4 := rfl
@[simp] theorem Fld.width_CS_PORT_DELAY : Fld.width .CS_PORT_DELAY = 16 := rfl
@[simp] theorem Fld.width_CS_PORT_ASYM : Fld.width .CS_PORT_ASYM = 16 := rfl
@[simp] theorem Fld.width_CS_MEM_REACH : Fld.width .CS_MEM_REACH = 1 := rfl
@[simp] theorem Fld.width_CS_MEM_MASTER_CAP : Fld.width .CS_MEM_MASTER_CAP = 1 := rfl
@[simp] theorem Fld.width_CS_MEM_PROMOTE : Fld.width .CS_MEM_PROMOTE = 1 := rfl
@[simp] theorem Fld.width_CS_MEM_ROLE : Fld.width .CS_MEM_ROLE = 2 := rfl
@[simp] theorem Fld.width_CS_MEM_PRIORITY : Fld.width .CS_MEM_PRIORITY = 8 := rfl
@[simp] theorem Fld.width_CS_MEM_HOPS : Fld.width .CS_MEM_HOPS = 4 := rfl
@[simp] theorem Fld.width_CS_MEM_SERIAL_LO : Fld.width .CS_MEM_SERIAL_LO = 32 := rfl
@[simp] theorem Fld.width_CS_CHAN_OFS : Fld.width .CS_CHAN_OFS = 48 := rfl
@[simp] theorem Fld.width_CS_CHAN_STATE : Fld.width .CS_CHAN_STATE = 3 := rfl
@[simp] theorem Fld.width_CS_CHAN_DIR : Fld.width .CS_CHAN_DIR = 1 := rfl
@[simp] theorem Fld.width_CS_CHAN_MASTER : Fld.width .CS_CHAN_MASTER = 4 := rfl
@[simp] theorem Fld.width_CS_CHAN_ENC : Fld.width .CS_CHAN_ENC = 4 := rfl
@[simp] theorem Fld.width_CS_CHAN_ENC_EN : Fld.width .CS_CHAN_ENC_EN = 1 := rfl
@[simp] theorem Fld.width_CS_CHDIV_FRAC : Fld.width .CS_CHDIV_FRAC = 32 := rfl
@[simp] theorem Fld.width_CS_CHDIV_N : Fld.width .CS_CHDIV_N = 24 := rfl
@[simp] theorem Fld.width_CS_TBIND_CHANNEL : Fld.width .CS_TBIND_CHANNEL = 3 := rfl
@[simp] theorem Fld.width_CS_TBIND_VALID : Fld.width .CS_TBIND_VALID = 1 := rfl
@[simp] theorem Fld.width_CS_WTGT_TGT : Fld.width .CS_WTGT_TGT = 40 := rfl
@[simp] theorem Fld.width_CS_WATTR_VALID : Fld.width .CS_WATTR_VALID = 1 := rfl
@[simp] theorem Fld.width_CS_WATTR_RD : Fld.width .CS_WATTR_RD = 1 := rfl
@[simp] theorem Fld.width_CS_WATTR_WR : Fld.width .CS_WATTR_WR = 1 := rfl
@[simp] theorem Fld.width_CS_WATTR_POLDER : Fld.width .CS_WATTR_POLDER = 5 := rfl
@[simp] theorem Fld.width_CS_WATTR_PAGES : Fld.width .CS_WATTR_PAGES = 32 := rfl
@[simp] theorem Fld.width_CS_STG_WTGT_TGT : Fld.width .CS_STG_WTGT_TGT = 40 := rfl
@[simp] theorem Fld.width_CS_STG_WATTR_VALID : Fld.width .CS_STG_WATTR_VALID = 1 := rfl
@[simp] theorem Fld.width_CS_STG_WATTR_RD : Fld.width .CS_STG_WATTR_RD = 1 := rfl
@[simp] theorem Fld.width_CS_STG_WATTR_WR : Fld.width .CS_STG_WATTR_WR = 1 := rfl
@[simp] theorem Fld.width_CS_STG_WATTR_POLDER : Fld.width .CS_STG_WATTR_POLDER = 5 := rfl
@[simp] theorem Fld.width_CS_STG_WATTR_PAGES : Fld.width .CS_STG_WATTR_PAGES = 32 := rfl
@[simp] theorem Fld.width_CS_WCOMMIT_GO : Fld.width .CS_WCOMMIT_GO = 1 := rfl
@[simp] theorem Fld.width_AG_CTL_PERIOD_MS : Fld.width .AG_CTL_PERIOD_MS = 16 := rfl
@[simp] theorem Fld.width_AG_CTL_AG_WARN : Fld.width .AG_CTL_AG_WARN = 8 := rfl
@[simp] theorem Fld.width_AG_CTL_AG_RETIRE : Fld.width .AG_CTL_AG_RETIRE = 8 := rfl
@[simp] theorem Fld.width_AG_MARGIN_NOW : Fld.width .AG_MARGIN_NOW = 8 := rfl
@[simp] theorem Fld.width_AG_MARGIN_LOWEST : Fld.width .AG_MARGIN_LOWEST = 8 := rfl
@[simp] theorem Fld.width_AG_MARGIN_STATE : Fld.width .AG_MARGIN_STATE = 2 := rfl
@[simp] theorem Fld.width_AG_MARGIN_BELOW : Fld.width .AG_MARGIN_BELOW = 2 := rfl
@[simp] theorem Fld.width_PE_CFG_MODE : Fld.width .PE_CFG_MODE = 3 := rfl
@[simp] theorem Fld.width_PE_CFG_MAX_SPEED : Fld.width .PE_CFG_MAX_SPEED = 3 := rfl
@[simp] theorem Fld.width_PE_CFG_BAR2_LOG : Fld.width .PE_CFG_BAR2_LOG = 3 := rfl
@[simp] theorem Fld.width_PE_CFG_SUBSYS : Fld.width .PE_CFG_SUBSYS = 16 := rfl
@[simp] theorem Fld.width_PE_STAT_LINK : Fld.width .PE_STAT_LINK = 2 := rfl
@[simp] theorem Fld.width_PE_STAT_SPEED : Fld.width .PE_STAT_SPEED = 3 := rfl
@[simp] theorem Fld.width_PE_STAT_WIDTH : Fld.width .PE_STAT_WIDTH = 5 := rfl
@[simp] theorem Fld.width_PE_STAT_L0P_WIDTH : Fld.width .PE_STAT_L0P_WIDTH = 5 := rfl
@[simp] theorem Fld.width_PE_STAT_FLIT : Fld.width .PE_STAT_FLIT = 1 := rfl
@[simp] theorem Fld.width_PE_STAT_D3 : Fld.width .PE_STAT_D3 = 1 := rfl
@[simp] theorem Fld.width_PE_STAT_READY : Fld.width .PE_STAT_READY = 1 := rfl
@[simp] theorem Fld.width_PE_PM_L1_IDLE : Fld.width .PE_PM_L1_IDLE = 16 := rfl
@[simp] theorem Fld.width_PE_PM_L0P_EN : Fld.width .PE_PM_L0P_EN = 1 := rfl
@[simp] theorem Fld.width_PE_CNT_REFUSED : Fld.width .PE_CNT_REFUSED = 24 := rfl
@[simp] theorem Fld.width_PE_CNT_RRS : Fld.width .PE_CNT_RRS = 16 := rfl
@[simp] theorem Fld.width_PE_CNT_L1_ENTRIES : Fld.width .PE_CNT_L1_ENTRIES = 16 := rfl
@[simp] theorem Fld.width_PE_CNT_AER_LOST : Fld.width .PE_CNT_AER_LOST = 8 := rfl
@[simp] theorem Fld.width_PW_EPOCH_CURRENT : Fld.width .PW_EPOCH_CURRENT = 32 := rfl
@[simp] theorem Fld.width_PW_EPOCH_OLDEST_LIVE : Fld.width .PW_EPOCH_OLDEST_LIVE = 32 := rfl
@[simp] theorem Fld.width_PW_BASE_ADDR : Fld.width .PW_BASE_ADDR = 40 := rfl
@[simp] theorem Fld.width_PW_LIM_ADDR : Fld.width .PW_LIM_ADDR = 40 := rfl
@[simp] theorem Fld.width_PW_TGT_ADDR : Fld.width .PW_TGT_ADDR = 40 := rfl
@[simp] theorem Fld.width_PW_ATTR_VALID : Fld.width .PW_ATTR_VALID = 1 := rfl
@[simp] theorem Fld.width_PW_ATTR_RD : Fld.width .PW_ATTR_RD = 1 := rfl
@[simp] theorem Fld.width_PW_ATTR_WR : Fld.width .PW_ATTR_WR = 1 := rfl
@[simp] theorem Fld.width_PW_ATTR_PLACE : Fld.width .PW_ATTR_PLACE = 1 := rfl
@[simp] theorem Fld.width_PW_ATTR_SEC : Fld.width .PW_ATTR_SEC = 1 := rfl
@[simp] theorem Fld.width_PW_ATTR_POLDER : Fld.width .PW_ATTR_POLDER = 5 := rfl
@[simp] theorem Fld.width_PW_ATTR_LEVEL : Fld.width .PW_ATTR_LEVEL = 1 := rfl
@[simp] theorem Fld.width_PW_ATTR_PTGT : Fld.width .PW_ATTR_PTGT = 8 := rfl
@[simp] theorem Fld.width_PW_STG_VALUE : Fld.width .PW_STG_VALUE = 64 := rfl
@[simp] theorem Fld.width_PM_RAIL_CD_OK : Fld.width .PM_RAIL_CD_OK = 12 := rfl
@[simp] theorem Fld.width_PM_RAIL_HUB_OK : Fld.width .PM_RAIL_HUB_OK = 2 := rfl
@[simp] theorem Fld.width_PM_RAIL_SHARED_OK : Fld.width .PM_RAIL_SHARED_OK = 4 := rfl
@[simp] theorem Fld.width_PM_RAIL_PWRFAIL : Fld.width .PM_RAIL_PWRFAIL = 1 := rfl
@[simp] theorem Fld.width_PM_RAIL_PF_SAFE : Fld.width .PM_RAIL_PF_SAFE = 1 := rfl
@[simp] theorem Fld.width_PM_RAIL_THERMTRIP : Fld.width .PM_RAIL_THERMTRIP = 1 := rfl
@[simp] theorem Fld.width_PM_PKG_STATE : Fld.width .PM_PKG_STATE = 1 := rfl
@[simp] theorem Fld.width_PM_PKG_PHASE : Fld.width .PM_PKG_PHASE = 3 := rfl
@[simp] theorem Fld.width_PM_PKG_CAUSE : Fld.width .PM_PKG_CAUSE = 4 := rfl
@[simp] theorem Fld.width_PM_PKG_TJ_MAX : Fld.width .PM_PKG_TJ_MAX = 8 := rfl
@[simp] theorem Fld.width_PM_PKG_TDIMM_MAX : Fld.width .PM_PKG_TDIMM_MAX = 8 := rfl
@[simp] theorem Fld.width_PM_PKG_P1_ENTRIES : Fld.width .PM_PKG_P1_ENTRIES = 16 := rfl
@[simp] theorem Fld.width_PV_VOTE_VOTES : Fld.width .PV_VOTE_VOTES = 32 := rfl
@[simp] theorem Fld.width_PV_VOTE_SLUICE : Fld.width .PV_VOTE_SLUICE = 2 := rfl
@[simp] theorem Fld.width_PV_VETO_MASK : Fld.width .PV_VETO_MASK = 32 := rfl
@[simp] theorem Fld.width_PV_VETO_HOLD : Fld.width .PV_VETO_HOLD = 32 := rfl
@[simp] theorem Fld.width_PV_STAT_REFUSALS : Fld.width .PV_STAT_REFUSALS = 16 := rfl
@[simp] theorem Fld.width_PV_STAT_ABORTS : Fld.width .PV_STAT_ABORTS = 16 := rfl
@[simp] theorem Fld.width_PV_STAT_LAST_REFUSER : Fld.width .PV_STAT_LAST_REFUSER = 5 := rfl
@[simp] theorem Fld.width_PV_STAT_DROPS : Fld.width .PV_STAT_DROPS = 16 := rfl
@[simp] theorem Fld.width_RST_REQ_KIND : Fld.width .RST_REQ_KIND = 3 := rfl
@[simp] theorem Fld.width_RST_REQ_TARGET : Fld.width .RST_REQ_TARGET = 16 := rfl
@[simp] theorem Fld.width_RST_REQ_GO : Fld.width .RST_REQ_GO = 1 := rfl
@[simp] theorem Fld.width_RST_CAUSE_CAUSE : Fld.width .RST_CAUSE_CAUSE = 4 := rfl
@[simp] theorem Fld.width_RST_CAUSE_PKR_COUNT : Fld.width .RST_CAUSE_PKR_COUNT = 16 := rfl
@[simp] theorem Fld.width_TS_HUB_TEMP : Fld.width .TS_HUB_TEMP = 8 := rfl
@[simp] theorem Fld.width_TS_HUB_VALID : Fld.width .TS_HUB_VALID = 1 := rfl
@[simp] theorem Fld.width_TS_HUB_MAX : Fld.width .TS_HUB_MAX = 8 := rfl
@[simp] theorem Fld.width_DPM_CTL_C2_IDLE : Fld.width .DPM_CTL_C2_IDLE = 16 := rfl
@[simp] theorem Fld.width_DPM_CTL_GUARD_MV : Fld.width .DPM_CTL_GUARD_MV = 8 := rfl
@[simp] theorem Fld.width_DPM_CTL_VOLT_MV : Fld.width .DPM_CTL_VOLT_MV = 10 := rfl
@[simp] theorem Fld.width_TS_DIE_TEMP : Fld.width .TS_DIE_TEMP = 8 := rfl
@[simp] theorem Fld.width_TS_DIE_VALID : Fld.width .TS_DIE_VALID = 1 := rfl
@[simp] theorem Fld.width_TS_DIE_MAX : Fld.width .TS_DIE_MAX = 8 := rfl
@[simp] theorem Fld.width_CB_OWN_EN : Fld.width .CB_OWN_EN = 1 := rfl
@[simp] theorem Fld.width_CB_OWN_OWNER : Fld.width .CB_OWN_OWNER = 5 := rfl
@[simp] theorem Fld.width_CB_SEL_EVENT : Fld.width .CB_SEL_EVENT = 12 := rfl
@[simp] theorem Fld.width_CB_SEL_UNIT : Fld.width .CB_SEL_UNIT = 8 := rfl
@[simp] theorem Fld.width_CB_CNT_VALUE : Fld.width .CB_CNT_VALUE = 48 := rfl
@[simp] theorem Fld.width_CBD_OWN_EN : Fld.width .CBD_OWN_EN = 1 := rfl
@[simp] theorem Fld.width_CBD_OWN_OWNER : Fld.width .CBD_OWN_OWNER = 5 := rfl
@[simp] theorem Fld.width_CBD_SEL_EVENT : Fld.width .CBD_SEL_EVENT = 12 := rfl
@[simp] theorem Fld.width_CBD_SEL_UNIT : Fld.width .CBD_SEL_UNIT = 8 := rfl
@[simp] theorem Fld.width_CBD_CNT_VALUE : Fld.width .CBD_CNT_VALUE = 48 := rfl
@[simp] theorem Fld.width_CNT_DUMP_K : Fld.width .CNT_DUMP_K = 16 := rfl
@[simp] theorem Fld.width_CNT_DUMP_SLOTS : Fld.width .CNT_DUMP_SLOTS = 16 := rfl
@[simp] theorem Fld.width_CNT_DUMP_SKIPPED : Fld.width .CNT_DUMP_SKIPPED = 16 := rfl
@[simp] theorem Fld.width_REC_CTL_FREEZE : Fld.width .REC_CTL_FREEZE = 1 := rfl
@[simp] theorem Fld.width_REC_CTL_MODE : Fld.width .REC_CTL_MODE = 1 := rfl
@[simp] theorem Fld.width_REC_CTL_AUTO_EXPORT : Fld.width .REC_CTL_AUTO_EXPORT = 1 := rfl
@[simp] theorem Fld.width_REC_CTL_CLEAR : Fld.width .REC_CTL_CLEAR = 1 := rfl
@[simp] theorem Fld.width_REC_CTL_FREEZE_MAX : Fld.width .REC_CTL_FREEZE_MAX = 16 := rfl
@[simp] theorem Fld.width_REC_STAT_NEXT : Fld.width .REC_STAT_NEXT = 32 := rfl
@[simp] theorem Fld.width_REC_STAT_OLDEST : Fld.width .REC_STAT_OLDEST = 32 := rfl
@[simp] theorem Fld.width_REC_DROP_DROPPED : Fld.width .REC_DROP_DROPPED = 32 := rfl
@[simp] theorem Fld.width_REC_DROP_STAGED : Fld.width .REC_DROP_STAGED = 7 := rfl
@[simp] theorem Fld.width_REC_DROP_FULL : Fld.width .REC_DROP_FULL = 1 := rfl
@[simp] theorem Fld.width_REC_DROP_FROZEN : Fld.width .REC_DROP_FROZEN = 1 := rfl
@[simp] theorem Fld.width_REC_CURSOR_SEQ : Fld.width .REC_CURSOR_SEQ = 32 := rfl
@[simp] theorem Fld.width_REC_CURSOR_PARTNER : Fld.width .REC_CURSOR_PARTNER = 1 := rfl
@[simp] theorem Fld.width_REC_WINDOW_WORD : Fld.width .REC_WINDOW_WORD = 64 := rfl
@[simp] theorem Fld.width_RV_CTL_FREEZE : Fld.width .RV_CTL_FREEZE = 1 := rfl
@[simp] theorem Fld.width_RV_STAT_NEXT : Fld.width .RV_STAT_NEXT = 32 := rfl
@[simp] theorem Fld.width_RV_STAT_DROPPED : Fld.width .RV_STAT_DROPPED = 16 := rfl
@[simp] theorem Fld.width_RV_STAT_BUSY : Fld.width .RV_STAT_BUSY = 1 := rfl
@[simp] theorem Fld.width_RV_CURSOR_VSEQ : Fld.width .RV_CURSOR_VSEQ = 32 := rfl
@[simp] theorem Fld.width_RV_WINDOW_WORD : Fld.width .RV_WINDOW_WORD = 64 := rfl
@[simp] theorem Fld.width_MC_CFG_DPC : Fld.width .MC_CFG_DPC = 2 := rfl
@[simp] theorem Fld.width_MC_CFG_RANKS : Fld.width .MC_CFG_RANKS = 2 := rfl
@[simp] theorem Fld.width_MC_CFG_DENSITY : Fld.width .MC_CFG_DENSITY = 1 := rfl
@[simp] theorem Fld.width_MC_CFG_SPEED : Fld.width .MC_CFG_SPEED = 8 := rfl
@[simp] theorem Fld.width_MC_CFG_TRFCSB : Fld.width .MC_CFG_TRFCSB = 16 := rfl
@[simp] theorem Fld.width_MC_CFG_TREFI : Fld.width .MC_CFG_TREFI = 16 := rfl
@[simp] theorem Fld.width_MC_CTL_PAUSE_MIRROR : Fld.width .MC_CTL_PAUSE_MIRROR = 1 := rfl
@[simp] theorem Fld.width_MC_CTL_WQ_HI : Fld.width .MC_CTL_WQ_HI = 8 := rfl
@[simp] theorem Fld.width_MC_CTL_WQ_LO : Fld.width .MC_CTL_WQ_LO = 8 := rfl
@[simp] theorem Fld.width_MC_CTL_PAGE_IDLE : Fld.width .MC_CTL_PAGE_IDLE = 8 := rfl
@[simp] theorem Fld.width_MC_CTL_RESYNC_BW : Fld.width .MC_CTL_RESYNC_BW = 16 := rfl
@[simp] theorem Fld.width_MC_STAT_STATE : Fld.width .MC_STAT_STATE = 3 := rfl
@[simp] theorem Fld.width_MC_STAT_RESYNC_PCT : Fld.width .MC_STAT_RESYNC_PCT = 7 := rfl
@[simp] theorem Fld.width_MC_STAT_REDIRECTS : Fld.width .MC_STAT_REDIRECTS = 7 := rfl
@[simp] theorem Fld.width_MC_REF_FORCED : Fld.width .MC_REF_FORCED = 32 := rfl
@[simp] theorem Fld.width_MC_REF_DEBT_PEAK : Fld.width .MC_REF_DEBT_PEAK = 3 := rfl
@[simp] theorem Fld.width_MC_REF_HOT : Fld.width .MC_REF_HOT = 1 := rfl
@[simp] theorem Fld.width_MC_RT_SOFT_PS : Fld.width .MC_RT_SOFT_PS = 8 := rfl
@[simp] theorem Fld.width_MC_RT_HARD_PS : Fld.width .MC_RT_HARD_PS = 8 := rfl
@[simp] theorem Fld.width_MC_RT_OSC_US : Fld.width .MC_RT_OSC_US = 16 := rfl
@[simp] theorem Fld.width_MC_RT_RT_WAIT_US : Fld.width .MC_RT_RT_WAIT_US = 16 := rfl
@[simp] theorem Fld.width_MC_RTSTAT_IN_SLACK : Fld.width .MC_RTSTAT_IN_SLACK = 16 := rfl
@[simp] theorem Fld.width_MC_RTSTAT_IDLE : Fld.width .MC_RTSTAT_IDLE = 16 := rfl
@[simp] theorem Fld.width_MC_RTSTAT_FORCED : Fld.width .MC_RTSTAT_FORCED = 16 := rfl
@[simp] theorem Fld.width_MC_RTSTAT_LAST_DRIFT : Fld.width .MC_RTSTAT_LAST_DRIFT = 8 := rfl
@[simp] theorem Fld.width_MC_ERR_CE : Fld.width .MC_ERR_CE = 24 := rfl
@[simp] theorem Fld.width_MC_ERR_UE : Fld.width .MC_ERR_UE = 12 := rfl
@[simp] theorem Fld.width_MC_ERR_MIRROR_FIX : Fld.width .MC_ERR_MIRROR_FIX = 12 := rfl
@[simp] theorem Fld.width_MC_ERR_POISON_READ : Fld.width .MC_ERR_POISON_READ = 12 := rfl
@[simp] theorem Fld.width_MC_ECC_ROW_THRESH : Fld.width .MC_ECC_ROW_THRESH = 16 := rfl
@[simp] theorem Fld.width_MC_ECC_WINDOW_S : Fld.width .MC_ECC_WINDOW_S = 16 := rfl
@[simp] theorem Fld.width_MC_ECC_SPPR_DONE : Fld.width .MC_ECC_SPPR_DONE = 8 := rfl
@[simp] theorem Fld.width_MC_SCRUB_PERIOD_H : Fld.width .MC_SCRUB_PERIOD_H = 16 := rfl
@[simp] theorem Fld.width_MC_SCRUB_EN : Fld.width .MC_SCRUB_EN = 1 := rfl
@[simp] theorem Fld.width_MC_SCRUB_PASSES : Fld.width .MC_SCRUB_PASSES = 16 := rfl

/-! ### Reading back -/

section
variable (s : State)

/-- A register field after a write of a field. -/
theorem State.get_put (f g : Fld) (i j v : Nat) :
    (s.put f i v).get g j = if g = f ∧ j % 65536 = i % 65536 then v % 2 ^ f.width else s.get g j := by
  split
  · next h =>
    obtain ⟨rfl, hi⟩ := h
    rw [← State.get_put_same s g i v]
    unfold State.get State.put Fld.key
    rw [hi]
    split
    · rfl
    · next h' => rw [lookup_insert_same _ _ _ (Tbl.erase_no_key _ _)] at h'; cases h'
  · next h =>
    refine State.get_put_ne s v ?_
    by_cases hf : g = f
    · exact .inr fun hi => h ⟨hf, hi⟩
    · exact .inl hf
theorem State.get_setFlag (f g : Fld) (i j : Nat) (b : Bool) :
    (s.setFlag f i b).get g j = if g = f ∧ j % 65536 = i % 65536 then b2n b % 2 ^ f.width else s.get g j :=
  State.get_put s f g i j (b2n b)
@[simp] theorem State.get_put_self (f : Fld) (i v : Nat) : (s.put f i v).get f i = v % 2 ^ f.width := s.get_put_same f i v
@[simp] theorem State.get_put_fld (f g : Fld) (i j v : Nat) (h : g ≠ f) : (s.put f i v).get g j = s.get g j :=
  State.get_put_ne s v (.inl h)
@[simp] theorem State.get_setFlag_fld (f g : Fld) (i j : Nat) (b : Bool) (h : g ≠ f) : (s.setFlag f i b).get g j = s.get g j :=
  State.get_put_ne s _ (.inl h)
@[simp] theorem State.get_bump_fld (f g : Fld) (i j n : Nat) (h : g ≠ f) : (s.bump f i n).get g j = s.get g j :=
  State.get_put_ne s _ (.inl h)
@[simp] theorem State.flag_put_fld (f g : Fld) (i j v : Nat) (h : g ≠ f) : (s.put f i v).flag g j = s.flag g j := by
  unfold State.flag; rw [State.get_put_fld s f g i j v h]
@[simp] theorem State.flag_setFlag_fld (f g : Fld) (i j : Nat) (b : Bool) (h : g ≠ f) :
    (s.setFlag f i b).flag g j = s.flag g j := by
  unfold State.flag; rw [State.get_setFlag_fld s f g i j b h]
@[simp] theorem State.flag_bump_fld (f g : Fld) (i j n : Nat) (h : g ≠ f) : (s.bump f i n).flag g j = s.flag g j := by
  unfold State.flag; rw [State.get_bump_fld s f g i j n h]
@[simp] theorem State.flag_setFlag_self (f : Fld) (i : Nat) (b : Bool) : (s.setFlag f i b).flag f i = b := by
  unfold State.setFlag State.flag
  have h : 2 ≤ 2 ^ f.width := by
    have hw : 1 ≤ f.width := by cases f <;> decide
    calc 2 = 2 ^ 1 := rfl
      _ ≤ 2 ^ f.width := Nat.pow_le_pow_right (by decide) hw
  rw [State.get_put_same, Nat.mod_eq_of_lt (by unfold b2n; split <;> omega)]
  cases b <;> rfl
@[simp] theorem State.get_bump_self (f : Fld) (i n : Nat) :
    (s.bump f i n).get f i = min (s.get f i + n) (2 ^ f.width - 1) := by
  unfold State.bump
  rw [State.get_put_same, Nat.mod_eq_of_lt]
  have := Nat.two_pow_pos f.width
  omega

@[simp] theorem State.sq_setSq_self (k : Nat) (q : Option Sq) : (s.setSq k q).sq k = q := Tbl.get_set_same _ _ _ _
@[simp] theorem State.cq_setCq_self (k : Nat) (q : Option Cq) : (s.setCq k q).cq k = q := Tbl.get_set_same _ _ _ _
@[simp] theorem State.cq_setSq (k j : Nat) (q : Option Sq) : (s.setSq k q).cq j = s.cq j := rfl
@[simp] theorem State.sq_setCq (k j : Nat) (q : Option Cq) : (s.setCq k q).sq j = s.sq j := rfl
theorem State.sq_setSq_ne {k j : Nat} (q : Option Sq) (h : j ≠ k) : (s.setSq k q).sq j = s.sq j := Tbl.get_set_ne _ _ _ h
theorem State.cq_setCq_ne {k j : Nat} (q : Option Cq) (h : j ≠ k) : (s.setCq k q).cq j = s.cq j := Tbl.get_set_ne _ _ _ h
@[simp] theorem State.polder_setPolder_self (p : Nat) (v : Option Polder) : (s.setPolder p v).polder p = v :=
  Tbl.get_set_same _ _ _ _
theorem State.polder_setPolder_ne {p q : Nat} (v : Option Polder) (h : q ≠ p) : (s.setPolder p v).polder q = s.polder q :=
  Tbl.get_set_ne _ _ _ h
@[simp] theorem State.polder_updPolder_self (p : Nat) (g : Polder → Polder) : (s.updPolder p g).polder p = (s.polder p).map g := by
  unfold State.updPolder
  split
  · next v h => rw [State.polder_setPolder_self, h]; rfl
  · next h => rw [h]; rfl
theorem State.polder_updPolder_ne {p q : Nat} (g : Polder → Polder) (h : q ≠ p) : (s.updPolder p g).polder q = s.polder q := by
  unfold State.updPolder
  split
  · exact State.polder_setPolder_ne s _ h
  · rfl
theorem lookup_insert_self {α : Type} (l : List (Nat × α)) (k : Nat) (v : α) (h : ∀ w, (k, w) ∉ l) :
    (Tbl.insert k v l).lookup k = some v := by
  induction l with
  | nil => simp [Tbl.insert]
  | cons x t ih =>
    obtain ⟨j, w⟩ := x
    have hj : k ≠ j := fun e => h w (by simp [e])
    have ht : ∀ w, (k, w) ∉ t := fun w hw => h w (List.mem_cons_of_mem _ hw)
    by_cases hl : k < j
    · simp [Tbl.insert, hl]
    · simp [Tbl.insert, hl, List.lookup, beq_false_of_ne hj, ih ht]
@[simp] theorem State.core_setCore_self (g : Nat) (c : Core) : (s.setCore g c).core g = c := by
  unfold State.core State.setCore
  rw [lookup_insert_self _ _ _ (Tbl.erase_no_key _ _)]
theorem State.core_setCore_ne {g j : Nat} (c : Core) (h : j ≠ g) : (s.setCore g c).core j = s.core j := by
  unfold State.core State.setCore
  rw [lookup_insert_ne _ _ h, lookup_erase_ne _ h]
@[simp] theorem State.core_updCore_self (g : Nat) (h : Core → Core) : (s.updCore g h).core g = h (s.core g) :=
  State.core_setCore_self _ _ _
theorem State.core_updCore_ne {g j : Nat} (f : Core → Core) (h : j ≠ g) : (s.updCore g f).core j = s.core j :=
  State.core_setCore_ne _ _ h
@[simp] theorem State.core_updTick_self (g : Nat) (h : CoreTick → CoreTick) :
    (s.updTick g h).core g = { s.core g with t := h (s.core g).t } := State.core_setCore_self _ _ _
theorem State.core_updTick_ne {g j : Nat} (f : CoreTick → CoreTick) (h : j ≠ g) : (s.updTick g f).core j = s.core j :=
  State.core_setCore_ne _ _ h
@[simp] theorem State.die_updDie_self (d : Nat) (h : DieSt → DieSt) : (s.updDie d h).die d = h (s.die d) :=
  Tbl.get_set_same _ _ _ _
theorem State.die_updDie_ne {d j : Nat} (f : DieSt → DieSt) (h : j ≠ d) : (s.updDie d f).die j = s.die j :=
  Tbl.get_set_ne _ _ _ h
@[simp] theorem State.peSt_updPe_self (e : Nat) (h : PeSt → PeSt) : (s.updPe e h).peSt e = h (s.peSt e) :=
  Tbl.get_set_same _ _ _ _
@[simp] theorem State.mc_updMc_self (c : Nat) (h : Mc → Mc) : (s.updMc c h).mc c = h (s.mc c) := Tbl.get_set_same _ _ _ _
@[simp] theorem State.chan_updChan_self (c : Nat) (h : CsChan → CsChan) : (s.updChan c h).chan c = h (s.chan c) :=
  Tbl.get_set_same _ _ _ _
@[simp] theorem State.ctx_updCtx_self (p : Nat) (h : TickCtx → TickCtx) : (s.updCtx p h).ctx p = h (s.ctx p) :=
  Tbl.get_set_same _ _ _ _
theorem State.ctx_updCtx_ne {p q : Nat} (f : TickCtx → TickCtx) (h : q ≠ p) : (s.updCtx p f).ctx q = s.ctx q :=
  Tbl.get_set_ne _ _ _ h
@[simp] theorem State.encIn_updEnc_self (e : Nat) (h : EncIn → EncIn) : (s.updEnc e h).encIn e = h (s.encIn e) :=
  Tbl.get_set_same _ _ _ _
@[simp] theorem State.encIn_updCtx (p e : Nat) (h : TickCtx → TickCtx) : (s.updCtx p h).encIn e = s.encIn e := rfl
@[simp] theorem State.ctx_updEnc (p e : Nat) (h : EncIn → EncIn) : (s.updEnc e h).ctx p = s.ctx p := rfl
theorem State.lk_updLk_self (l : LinkEnd) (h : LkSt → LkSt) (ho : endOurs l = true) : (s.updLk l h).lk l = h (s.lk l) := by
  unfold State.updLk
  rw [if_pos ho]
  exact Tbl.get_set_same _ _ _ _
theorem State.slot_setSlot_self (k : Nat) (x : FwSlot) : (s.setSlot k x).slot k = x := by
  unfold State.setSlot State.slot State.updCp
  by_cases h : k = 0 <;> simp [h]
@[simp] theorem State.wrr_updWrr_self (n : Nat) (h : Wrr → Wrr) : (s.updWrr n h).wrr n = h (s.wrr n) :=
  Tbl.get_set_same _ _ _ _
@[simp] theorem State.updCp_cp (h : CmdPlane → CmdPlane) : (s.updCp h).cp = h s.cp := rfl
@[simp] theorem State.updBerm_berm (h : Berm → Berm) : (s.updBerm h).berm = h s.berm := rfl
@[simp] theorem State.updIng_ing (h : Ingest → Ingest) : (s.updIng h).ing = h s.ing := rfl
@[simp] theorem State.updCas_cas (h : Casc → Casc) : (s.updCas h).cas = h s.cas := rfl
@[simp] theorem State.updPow_pow (h : Power → Power) : (s.updPow h).pow = h s.pow := rfl
@[simp] theorem State.updTe_te (h : TickEngine → TickEngine) : (s.updTe h).te = h s.te := rfl
@[simp] theorem State.arrive_fabric (m : Msg) : (s.arrive m).fabric = s.fabric.erase m := rfl
@[simp] theorem State.emit_out (w : Wire) : (s.emit w).out = s.out ++ [w] := rfl
@[simp] theorem State.drawn_free : s.drawn.free = s.free + 1 := rfl

end


end Sys2Proof.Machine
end

