-- ==== Sys2Proof/Laws/Leaves.lean ====
section
/-! SUPPORT. What the shared operations leave as it was, one lemma per operation and kind of state: every part and field
outside its masks, and of the command plane everything but the error log where an operation only records an event. -/

set_option Elab.async false
namespace Sys2Proof.Machine

theorem State.recEvent_get (s : State) (h : Nat) (e : Event) (dup : Bool) (raised : Nat) {fl : Fld} {ix : Nat} (hf : Nat.testBit 0xc1f000000000000000000000000000000000000000000000000000000000000000000000000000000000000000000000000000000000000000 fl.ctorIdx = false) :
    (State.recEvent s h e dup raised).get fl ix = s.get fl ix :=
  (State.recEvent_keeps s h e dup raised (Keeps.refl 0x21 0xc1f000000000000000000000000000000000000000000000000000000000000000000000000000000000000000000000000000000000000000 s) rfl rfl).reg fl ix hf

theorem State.recEvent_part (s : State) (h : Nat) (e : Event) (dup : Bool) (raised : Nat) {pt : Part} (hp : Nat.testBit 0x21 pt.ctorIdx = false) : pt.same s (State.recEvent s h e dup raised) :=
  (State.recEvent_keeps s h e dup raised (Keeps.refl 0x21 0xc1f000000000000000000000000000000000000000000000000000000000000000000000000000000000000000000000000000000000000000 s) rfl rfl).part pt hp

@[simp] theorem State.errorLog_get (s : State) (e : Event) (raised : Nat) {fl : Fld} {ix : Nat} (hf : Nat.testBit 0 fl.ctorIdx = false) :
    (State.errorLog s e raised).get fl ix = s.get fl ix :=
  (State.errorLog_keeps s e raised (Keeps.refl 0x10 0 s) rfl).reg fl ix hf

theorem State.errorLog_part (s : State) (e : Event) (raised : Nat) {pt : Part} (hp : Nat.testBit 0x10 pt.ctorIdx = false) : pt.same s (State.errorLog s e raised) :=
  (State.errorLog_keeps s e raised (Keeps.refl 0x10 0 s) rfl).part pt hp

theorem State.aerEvent_get (s : State) (e : Nat) (seq : Nat) (ev : Event) {fl : Fld} {ix : Nat} (hf : Nat.testBit 0x20000000000000000000000000000000000000000000000000000000000000000000000000000000000000000000000 fl.ctorIdx = false) :
    (State.aerEvent s e seq ev).get fl ix = s.get fl ix :=
  (State.aerEvent_keeps s e seq ev (Keeps.refl 0x2000801 0x20000000000000000000000000000000000000000000000000000000000000000000000000000000000000000000000 s) rfl rfl).reg fl ix hf

theorem State.aerEvent_part (s : State) (e : Nat) (seq : Nat) (ev : Event) {pt : Part} (hp : Nat.testBit 0x2000801 pt.ctorIdx = false) : pt.same s (State.aerEvent s e seq ev) :=
  (State.aerEvent_keeps s e seq ev (Keeps.refl 0x2000801 0x20000000000000000000000000000000000000000000000000000000000000000000000000000000000000000000000 s) rfl rfl).part pt hp

theorem State.logEv_get (s : State) (h : Nat) (e : Event) (dup : Bool) {fl : Fld} {ix : Nat} (hf : Nat.testBit 0xc1f000000000000000020000000000000000000000000000000000000000000000000000000000000000000000000000000000000000000000 fl.ctorIdx = false) :
    (State.logEv s h e dup).get fl ix = s.get fl ix :=
  (State.logEv_keeps s h e dup (Keeps.refl 0x2000831 0xc1f000000000000000020000000000000000000000000000000000000000000000000000000000000000000000000000000000000000000000 s) rfl rfl).reg fl ix hf

theorem State.logEv_part (s : State) (h : Nat) (e : Event) (dup : Bool) {pt : Part} (hp : Nat.testBit 0x2000831 pt.ctorIdx = false) : pt.same s (State.logEv s h e dup) :=
  (State.logEv_keeps s h e dup (Keeps.refl 0x2000831 0xc1f000000000000000020000000000000000000000000000000000000000000000000000000000000000000000000000000000000000000000 s) rfl rfl).part pt hp

theorem State.logSec_get (s : State) (h : Nat) (n : Nat) (code : Nat) (args : List Nat) {fl : Fld} {ix : Nat} (hf : Nat.testBit 0xc1f000000000000000020000000000000000000000000000000000000000000000000000000000000000000000000000000000000000000000 fl.ctorIdx = false) :
    (State.logSec s h n code args).get fl ix = s.get fl ix :=
  (State.logSec_keeps s h n code args (Keeps.refl 0x2000831 0xc1f000000000000000020000000000000000000000000000000000000000000000000000000000000000000000000000000000000000000000 s) rfl rfl).reg fl ix hf

theorem State.logSec_part (s : State) (h : Nat) (n : Nat) (code : Nat) (args : List Nat) {pt : Part} (hp : Nat.testBit 0x2000831 pt.ctorIdx = false) : pt.same s (State.logSec s h n code args) :=
  (State.logSec_keeps s h n code args (Keeps.refl 0x2000831 0xc1f000000000000000020000000000000000000000000000000000000000000000000000000000000000000000000000000000000000000000 s) rfl rfl).part pt hp

theorem State.logPol_get (s : State) (h : Nat) (n : Nat) (code : Nat) (p : Nat) (args : List Nat) (hide : Nat) {fl : Fld} {ix : Nat} (hf : Nat.testBit 0xc1f000000000000000020000000000000000000000000000000000000000000000000000000000000000000000000000000000000000000000 fl.ctorIdx = false) :
    (State.logPol s h n code p args hide).get fl ix = s.get fl ix :=
  (State.logPol_keeps s h n code p args hide (Keeps.refl 0x2000831 0xc1f000000000000000020000000000000000000000000000000000000000000000000000000000000000000000000000000000000000000000 s) rfl rfl).reg fl ix hf

theorem State.logPol_part (s : State) (h : Nat) (n : Nat) (code : Nat) (p : Nat) (args : List Nat) (hide : Nat) {pt : Part} (hp : Nat.testBit 0x2000831 pt.ctorIdx = false) : pt.same s (State.logPol s h n code p args hide) :=
  (State.logPol_keeps s h n code p args hide (Keeps.refl 0x2000831 0xc1f000000000000000020000000000000000000000000000000000000000000000000000000000000000000000000000000000000000000000 s) rfl rfl).part pt hp

theorem State.logPolSec_get (s : State) (h : Nat) (n : Nat) (code : Nat) (p : Nat) (args : List Nat) {fl : Fld} {ix : Nat} (hf : Nat.testBit 0xc1f000000000000000020000000000000000000000000000000000000000000000000000000000000000000000000000000000000000000000 fl.ctorIdx = false) :
    (State.logPolSec s h n code p args).get fl ix = s.get fl ix :=
  (State.logPolSec_keeps s h n code p args (Keeps.refl 0x2000831 0xc1f000000000000000020000000000000000000000000000000000000000000000000000000000000000000000000000000000000000000000 s) rfl rfl).reg fl ix hf

theorem State.logPolSec_part (s : State) (h : Nat) (n : Nat) (code : Nat) (p : Nat) (args : List Nat) {pt : Part} (hp : Nat.testBit 0x2000831 pt.ctorIdx = false) : pt.same s (State.logPolSec s h n code p args) :=
  (State.logPolSec_keeps s h n code p args (Keeps.refl 0x2000831 0xc1f000000000000000020000000000000000000000000000000000000000000000000000000000000000000000000000000000000000000000 s) rfl rfl).part pt hp

theorem State.logDie_get (s : State) (d : Nat) (code : Nat) (p : Nat) (args : List Nat) (hide : Nat) {fl : Fld} {ix : Nat} (hf : Nat.testBit 0xc1f000000000000000020000000000000000000000000000000000000000000000000000000000000000000000000000000000000000000000 fl.ctorIdx = false) :
    (State.logDie s d code p args hide).get fl ix = s.get fl ix :=
  (State.logDie_keeps s d code p args hide (Keeps.refl 0x2000831 0xc1f000000000000000020000000000000000000000000000000000000000000000000000000000000000000000000000000000000000000000 s) rfl rfl).reg fl ix hf

theorem State.logDie_part (s : State) (d : Nat) (code : Nat) (p : Nat) (args : List Nat) (hide : Nat) {pt : Part} (hp : Nat.testBit 0x2000831 pt.ctorIdx = false) : pt.same s (State.logDie s d code p args hide) :=
  (State.logDie_keeps s d code p args hide (Keeps.refl 0x2000831 0xc1f000000000000000020000000000000000000000000000000000000000000000000000000000000000000000000000000000000000000000 s) rfl rfl).part pt hp

theorem State.logPols_get (s : State) (h : Nat) (n : Nat) (code : Nat) (ps : List Nat) (args : List Nat) {fl : Fld} {ix : Nat} (hf : Nat.testBit 0xc1f000000000000000020000000000000000000000000000000000000000000000000000000000000000000000000000000000000000000000 fl.ctorIdx = false) :
    (State.logPols s h n code ps args).get fl ix = s.get fl ix :=
  (State.logPols_keeps s h n code ps args (Keeps.refl 0x2000831 0xc1f000000000000000020000000000000000000000000000000000000000000000000000000000000000000000000000000000000000000000 s) rfl rfl).reg fl ix hf

theorem State.logPols_part (s : State) (h : Nat) (n : Nat) (code : Nat) (ps : List Nat) (args : List Nat) {pt : Part} (hp : Nat.testBit 0x2000831 pt.ctorIdx = false) : pt.same s (State.logPols s h n code ps args) :=
  (State.logPols_keeps s h n code ps args (Keeps.refl 0x2000831 0xc1f000000000000000020000000000000000000000000000000000000000000000000000000000000000000000000000000000000000000000 s) rfl rfl).part pt hp

theorem State.refuse_get (s : State) (h : Nat) (src : Agent) (pol : Nat) (sec : Bool) (addr : Nat) (kind : Nat) {fl : Fld} {ix : Nat} (hf : Nat.testBit 0xc1f000000000000000020000000000000000000000000000000000000000000000000000000000000000000000000400000000000000000000 fl.ctorIdx = false) :
    (State.refuse s h src pol sec addr kind).get fl ix = s.get fl ix :=
  (State.refuse_keeps s h src pol sec addr kind (Keeps.refl 0x2000831 0xc1f000000000000000020000000000000000000000000000000000000000000000000000000000000000000000000400000000000000000000 s) rfl rfl).reg fl ix hf

theorem State.refuse_part (s : State) (h : Nat) (src : Agent) (pol : Nat) (sec : Bool) (addr : Nat) (kind : Nat) {pt : Part} (hp : Nat.testBit 0x2000831 pt.ctorIdx = false) : pt.same s (State.refuse s h src pol sec addr kind) :=
  (State.refuse_keeps s h src pol sec addr kind (Keeps.refl 0x2000831 0xc1f000000000000000020000000000000000000000000000000000000000000000000000000000000000000000000400000000000000000000 s) rfl rfl).part pt hp

@[simp] theorem State.raiseInt_get (s : State) (p : Nat) (l : Nat) (id : Nat) {fl : Fld} {ix : Nat} (hf : Nat.testBit 0 fl.ctorIdx = false) :
    (State.raiseInt s p l id).get fl ix = s.get fl ix :=
  (State.raiseInt_keeps s p l id (Keeps.refl 0x400 0 s) rfl).reg fl ix hf

theorem State.raiseInt_part (s : State) (p : Nat) (l : Nat) (id : Nat) {pt : Part} (hp : Nat.testBit 0x400 pt.ctorIdx = false) : pt.same s (State.raiseInt s p l id) :=
  (State.raiseInt_keeps s p l id (Keeps.refl 0x400 0 s) rfl).part pt hp

@[simp] theorem State.tickFault_get (s : State) (p : Nat) {fl : Fld} {ix : Nat} (hf : Nat.testBit 0 fl.ctorIdx = false) :
    (State.tickFault s p).get fl ix = s.get fl ix :=
  (State.tickFault_keeps s p (Keeps.refl 0x400 0 s) rfl).reg fl ix hf

theorem State.tickFault_part (s : State) (p : Nat) {pt : Part} (hp : Nat.testBit 0x400 pt.ctorIdx = false) : pt.same s (State.tickFault s p) :=
  (State.tickFault_keeps s p (Keeps.refl 0x400 0 s) rfl).part pt hp

theorem State.countHub_get (s : State) (h : Nat) (ev : Nat) (unit : Nat) (tag : Option Nat) (n : Nat) {fl : Fld} {ix : Nat} (hf : Nat.testBit 0x400000000000000000000000000000000000000000000000000000000000000000000000000000000000000000000000000000000000 fl.ctorIdx = false) :
    (State.countHub s h ev unit tag n).get fl ix = s.get fl ix :=
  (State.countHub_keeps s h ev unit tag n (Keeps.refl 0x1 0x400000000000000000000000000000000000000000000000000000000000000000000000000000000000000000000000000000000000 s) rfl rfl).reg fl ix hf

theorem State.countHub_part (s : State) (h : Nat) (ev : Nat) (unit : Nat) (tag : Option Nat) (n : Nat) {pt : Part} (hp : Nat.testBit 0x1 pt.ctorIdx = false) : pt.same s (State.countHub s h ev unit tag n) :=
  (State.countHub_keeps s h ev unit tag n (Keeps.refl 0x1 0x400000000000000000000000000000000000000000000000000000000000000000000000000000000000000000000000000000000000 s) rfl rfl).part pt hp

theorem State.countDie_get (s : State) (d : Nat) (ev : Nat) (unit : Nat) (tag : Option Nat) (n : Nat) {fl : Fld} {ix : Nat} (hf : Nat.testBit 0x8000000000000000000000000000000000000000000000000000000000000000000000000000000000000000000000000000000000000 fl.ctorIdx = false) :
    (State.countDie s d ev unit tag n).get fl ix = s.get fl ix :=
  (State.countDie_keeps s d ev unit tag n (Keeps.refl 0x1 0x8000000000000000000000000000000000000000000000000000000000000000000000000000000000000000000000000000000000000 s) rfl rfl).reg fl ix hf

theorem State.countDie_part (s : State) (d : Nat) (ev : Nat) (unit : Nat) (tag : Option Nat) (n : Nat) {pt : Part} (hp : Nat.testBit 0x1 pt.ctorIdx = false) : pt.same s (State.countDie s d ev unit tag n) :=
  (State.countDie_keeps s d ev unit tag n (Keeps.refl 0x1 0x8000000000000000000000000000000000000000000000000000000000000000000000000000000000000000000000000000000000000 s) rfl rfl).part pt hp

theorem State.silence_get (s : State) (c : Cmd) {fl : Fld} {ix : Nat} (hf : Nat.testBit 0xc1f000000000000000020000000000000000000000000000000000000000000000000000000000000000000000000400000000000000000000 fl.ctorIdx = false) :
    (State.silence s c).get fl ix = s.get fl ix :=
  (State.silence_keeps s c (Keeps.refl 0x2000831 0xc1f000000000000000020000000000000000000000000000000000000000000000000000000000000000000000000400000000000000000000 s) rfl rfl).reg fl ix hf

theorem State.silence_part (s : State) (c : Cmd) {pt : Part} (hp : Nat.testBit 0x2000831 pt.ctorIdx = false) : pt.same s (State.silence s c) :=
  (State.silence_keeps s c (Keeps.refl 0x2000831 0xc1f000000000000000020000000000000000000000000000000000000000000000000000000000000000000000000400000000000000000000 s) rfl rfl).part pt hp

theorem State.takeover_get (s : State) (cause : Nat) {fl : Fld} {ix : Nat} (hf : Nat.testBit 0xc1f0084000000000000200000000000000000000000000000000000000000000000000001000000000000000000004000001800000001e0000 fl.ctorIdx = false) :
    (State.takeover s cause).get fl ix = s.get fl ix :=
  (State.takeover_keeps s cause (Keeps.refl 0x2019c3f 0xc1f0084000000000000200000000000000000000000000000000000000000000000000001000000000000000000004000001800000001e0000 s) rfl rfl).reg fl ix hf

theorem State.takeover_part (s : State) (cause : Nat) {pt : Part} (hp : Nat.testBit 0x2019c3f pt.ctorIdx = false) : pt.same s (State.takeover s cause) :=
  (State.takeover_keeps s cause (Keeps.refl 0x2019c3f 0xc1f0084000000000000200000000000000000000000000000000000000000000000000001000000000000000000004000001800000001e0000 s) rfl rfl).part pt hp

theorem State.fatal_get (s : State) {fl : Fld} {ix : Nat} (hf : Nat.testBit 0x20000000000000000000000000000000000000000000000000000000000000000000000000000000100000000000000 fl.ctorIdx = false) :
    (State.fatal s).get fl ix = s.get fl ix :=
  (State.fatal_keeps s (Keeps.refl 0x2000811 0x20000000000000000000000000000000000000000000000000000000000000000000000000000000100000000000000 s) rfl rfl).reg fl ix hf

theorem State.fatal_part (s : State) {pt : Part} (hp : Nat.testBit 0x2000811 pt.ctorIdx = false) : pt.same s (State.fatal s) :=
  (State.fatal_keeps s (Keeps.refl 0x2000811 0x20000000000000000000000000000000000000000000000000000000000000000000000000000000100000000000000 s) rfl rfl).part pt hp

theorem State.unfatal_get (s : State) {fl : Fld} {ix : Nat} (hf : Nat.testBit 0x100000000000000 fl.ctorIdx = false) :
    (State.unfatal s).get fl ix = s.get fl ix :=
  (State.unfatal_keeps s (Keeps.refl 0x11 0x100000000000000 s) rfl rfl).reg fl ix hf

theorem State.unfatal_part (s : State) {pt : Part} (hp : Nat.testBit 0x11 pt.ctorIdx = false) : pt.same s (State.unfatal s) :=
  (State.unfatal_keeps s (Keeps.refl 0x11 0x100000000000000 s) rfl rfl).part pt hp

theorem State.finish_get (s : State) (c : Cmd) (res : CmdRes) {fl : Fld} {ix : Nat} (hf : Nat.testBit 0x8400000000000000000000000000000000000000000000000000000000000000000100000000000000000000000000000000000000000 fl.ctorIdx = false) :
    (State.finish s c res).get fl ix = s.get fl ix :=
  (State.finish_keeps s c res (Keeps.refl 0x201941f 0x8400000000000000000000000000000000000000000000000000000000000000000100000000000000000000000000000000000000000 s) rfl rfl).reg fl ix hf

theorem State.finish_part (s : State) (c : Cmd) (res : CmdRes) {pt : Part} (hp : Nat.testBit 0x201941f pt.ctorIdx = false) : pt.same s (State.finish s c res) :=
  (State.finish_keeps s c res (Keeps.refl 0x201941f 0x8400000000000000000000000000000000000000000000000000000000000000000100000000000000000000000000000000000000000 s) rfl rfl).part pt hp

theorem State.accept_get (s : State) (c : Cmd) (sqHead : Nat) (relay : Option Nat) (rel : Bool) {fl : Fld} {ix : Nat} (hf : Nat.testBit 0xc1f008400000000000020000000000000000000000000000000000000000000000000000100000000000000000000400000000000000000000 fl.ctorIdx = false) :
    (State.accept s c sqHead relay rel).get fl ix = s.get fl ix :=
  (State.accept_keeps s c sqHead relay rel (Keeps.refl 0x2819c3f 0xc1f008400000000000020000000000000000000000000000000000000000000000000000100000000000000000000400000000000000000000 s) rfl rfl).reg fl ix hf

theorem State.accept_part (s : State) (c : Cmd) (sqHead : Nat) (relay : Option Nat) (rel : Bool) {pt : Part} (hp : Nat.testBit 0x2819c3f pt.ctorIdx = false) : pt.same s (State.accept s c sqHead relay rel) :=
  (State.accept_keeps s c sqHead relay rel (Keeps.refl 0x2819c3f 0xc1f008400000000000020000000000000000000000000000000000000000000000000000100000000000000000000400000000000000000000 s) rfl rfl).part pt hp

theorem State.ringRead_get (s : State) (p : Nat) (a : Nat) (n : Nat) {fl : Fld} {ix : Nat} (hf : Nat.testBit 0xc1f000000000000000020000000000000000000000000000000000000000000000000000000000000000000000000400000000000000000000 fl.ctorIdx = false) :
    (State.ringRead s p a n).1.get fl ix = s.get fl ix :=
  (State.ringRead_keeps s p a n (Keeps.refl 0x2000831 0xc1f000000000000000020000000000000000000000000000000000000000000000000000000000000000000000000400000000000000000000 s) rfl rfl).reg fl ix hf

theorem State.ringRead_part (s : State) (p : Nat) (a : Nat) (n : Nat) {pt : Part} (hp : Nat.testBit 0x2000831 pt.ctorIdx = false) : pt.same s (State.ringRead s p a n).1 :=
  (State.ringRead_keeps s p a n (Keeps.refl 0x2000831 0xc1f000000000000000020000000000000000000000000000000000000000000000000000000000000000000000000400000000000000000000 s) rfl rfl).part pt hp

theorem State.ringWrite_get (s : State) (p : Nat) (a : Nat) (bs : List Byte) {fl : Fld} {ix : Nat} (hf : Nat.testBit 0xc1f008400000000000020000000000000000000000000000000000000000000000000000100000000000000000000400000000000000000000 fl.ctorIdx = false) :
    (State.ringWrite s p a bs).get fl ix = s.get fl ix :=
  (State.ringWrite_keeps s p a bs (Keeps.refl 0x2019c3f 0xc1f008400000000000020000000000000000000000000000000000000000000000000000100000000000000000000400000000000000000000 s) rfl rfl).reg fl ix hf

theorem State.ringWrite_part (s : State) (p : Nat) (a : Nat) (bs : List Byte) {pt : Part} (hp : Nat.testBit 0x2019c3f pt.ctorIdx = false) : pt.same s (State.ringWrite s p a bs) :=
  (State.ringWrite_keeps s p a bs (Keeps.refl 0x2019c3f 0xc1f008400000000000020000000000000000000000000000000000000000000000000000100000000000000000000400000000000000000000 s) rfl rfl).part pt hp

@[simp] theorem State.msixSend_get (s : State) (e : Nat) (vec : Nat) {fl : Fld} {ix : Nat} (hf : Nat.testBit 0 fl.ctorIdx = false) :
    (State.msixSend s e vec).get fl ix = s.get fl ix :=
  (State.msixSend_keeps s e vec (Keeps.refl 0x2000800 0 s) rfl).reg fl ix hf

theorem State.msixSend_part (s : State) (e : Nat) (vec : Nat) {pt : Part} (hp : Nat.testBit 0x2000800 pt.ctorIdx = false) : pt.same s (State.msixSend s e vec) :=
  (State.msixSend_keeps s e vec (Keeps.refl 0x2000800 0 s) rfl).part pt hp

@[simp] theorem State.intxUpdate_get (s : State) (e : Nat) {fl : Fld} {ix : Nat} (hf : Nat.testBit 0 fl.ctorIdx = false) :
    (State.intxUpdate s e).get fl ix = s.get fl ix :=
  (State.intxUpdate_keeps s e (Keeps.refl 0x2000800 0 s) rfl).reg fl ix hf

theorem State.intxUpdate_part (s : State) (e : Nat) {pt : Part} (hp : Nat.testBit 0x2000800 pt.ctorIdx = false) : pt.same s (State.intxUpdate s e) :=
  (State.intxUpdate_keeps s e (Keeps.refl 0x2000800 0 s) rfl).part pt hp

@[simp] theorem State.cqSignal_get (s : State) (src : Source) (k : Nat) (q : Cq) {fl : Fld} {ix : Nat} (hf : Nat.testBit 0 fl.ctorIdx = false) :
    (State.cqSignal s src k q).get fl ix = s.get fl ix :=
  (State.cqSignal_keeps s src k q (Keeps.refl 0x2000c00 0 s) rfl).reg fl ix hf

theorem State.cqSignal_part (s : State) (src : Source) (k : Nat) (q : Cq) {pt : Part} (hp : Nat.testBit 0x2000c00 pt.ctorIdx = false) : pt.same s (State.cqSignal s src k q) :=
  (State.cqSignal_keeps s src k q (Keeps.refl 0x2000c00 0 s) rfl).part pt hp

theorem State.aer_get (s : State) (e : Nat) (uncorrectable : Bool) (internal : Bool) (bit : Nat) (hdr : List Nat) {fl : Fld} {ix : Nat} (hf : Nat.testBit 0x20000000000000000000000000000000000000000000000000000000000000000000000000000000000000000000000 fl.ctorIdx = false) :
    (State.aer s e uncorrectable internal bit hdr).get fl ix = s.get fl ix :=
  (State.aer_keeps s e uncorrectable internal bit hdr (Keeps.refl 0x2000801 0x20000000000000000000000000000000000000000000000000000000000000000000000000000000000000000000000 s) rfl rfl).reg fl ix hf

theorem State.aer_part (s : State) (e : Nat) (uncorrectable : Bool) (internal : Bool) (bit : Nat) (hdr : List Nat) {pt : Part} (hp : Nat.testBit 0x2000801 pt.ctorIdx = false) : pt.same s (State.aer s e uncorrectable internal bit hdr) :=
  (State.aer_keeps s e uncorrectable internal bit hdr (Keeps.refl 0x2000801 0x20000000000000000000000000000000000000000000000000000000000000000000000000000000000000000000000 s) rfl rfl).part pt hp

theorem State.writeBytes_get (s : State) (a : Nat) (bs : List Byte) {fl : Fld} {ix : Nat} (hf : Nat.testBit 0x8400000000000000000000000000000000000000000000000000000000000000000100000000000000000000000000000000000000000 fl.ctorIdx = false) :
    (State.writeBytes s a bs).get fl ix = s.get fl ix :=
  (State.writeBytes_keeps s a bs (Keeps.refl 0x1940f 0x8400000000000000000000000000000000000000000000000000000000000000000100000000000000000000000000000000000000000 s) rfl rfl).reg fl ix hf

theorem State.writeBytes_part (s : State) (a : Nat) (bs : List Byte) {pt : Part} (hp : Nat.testBit 0x1940f pt.ctorIdx = false) : pt.same s (State.writeBytes s a bs) :=
  (State.writeBytes_keeps s a bs (Keeps.refl 0x1940f 0x8400000000000000000000000000000000000000000000000000000000000000000100000000000000000000000000000000000000000 s) rfl rfl).part pt hp

theorem State.relay_get (s : State) (c : Cmd) (i : Nat) (r : Running) {fl : Fld} {ix : Nat} (hf : Nat.testBit 0x8400000000000000000000000000000000000000000000000000000000000000000100000000000000000000000000000000000000000 fl.ctorIdx = false) :
    (State.relay s c i r).get fl ix = s.get fl ix :=
  (State.relay_keeps s c i r (Keeps.refl 0x281941f 0x8400000000000000000000000000000000000000000000000000000000000000000100000000000000000000000000000000000000000 s) rfl rfl).reg fl ix hf

theorem State.relay_part (s : State) (c : Cmd) (i : Nat) (r : Running) {pt : Part} (hp : Nat.testBit 0x281941f pt.ctorIdx = false) : pt.same s (State.relay s c i r) :=
  (State.relay_keeps s c i r (Keeps.refl 0x281941f 0x8400000000000000000000000000000000000000000000000000000000000000000100000000000000000000000000000000000000000 s) rfl rfl).part pt hp

@[simp] theorem State.csSend_get (s : State) (c : Nat) (kind : Nat) (body : List Nat) {fl : Fld} {ix : Nat} (hf : Nat.testBit 0 fl.ctorIdx = false) :
    (State.csSend s c kind body).get fl ix = s.get fl ix :=
  (State.csSend_keeps s c kind body (Keeps.refl 0x2800000 0 s) rfl).reg fl ix hf

theorem State.csSend_part (s : State) (c : Nat) (kind : Nat) (body : List Nat) {pt : Part} (hp : Nat.testBit 0x2800000 pt.ctorIdx = false) : pt.same s (State.csSend s c kind body) :=
  (State.csSend_keeps s c kind body (Keeps.refl 0x2800000 0 s) rfl).part pt hp

theorem State.tickEdge_get (s : State) (p : Nat) (edge : Nat) (extra : Nat) (count : Word) (chk : Option (Nat × Nat)) {fl : Fld} {ix : Nat} (hf : Nat.testBit 0xc1f008400000000000020000000000000000000000000000000000000000000000000000100000008f2c000400000000000000000000000000 fl.ctorIdx = false) :
    (State.tickEdge s p edge extra count chk).get fl ix = s.get fl ix :=
  (State.tickEdge_keeps s p edge extra count chk (Keeps.refl 0x2019ebf 0xc1f008400000000000020000000000000000000000000000000000000000000000000000100000008f2c000400000000000000000000000000 s) rfl rfl).reg fl ix hf

theorem State.tickEdge_part (s : State) (p : Nat) (edge : Nat) (extra : Nat) (count : Word) (chk : Option (Nat × Nat)) {pt : Part} (hp : Nat.testBit 0x2019ebf pt.ctorIdx = false) : pt.same s (State.tickEdge s p edge extra count chk) :=
  (State.tickEdge_keeps s p edge extra count chk (Keeps.refl 0x2019ebf 0xc1f008400000000000020000000000000000000000000000000000000000000000000000100000008f2c000400000000000000000000000000 s) rfl rfl).part pt hp

theorem State.pairCheck_get (s : State) (p : Nat) {fl : Fld} {ix : Nat} (hf : Nat.testBit 0xc1f000000000000000020000000000000000000000000000000000000000000000000000000000000000000400000000000000000000000000 fl.ctorIdx = false) :
    (State.pairCheck s p).get fl ix = s.get fl ix :=
  (State.pairCheck_keeps s p (Keeps.refl 0x2000a31 0xc1f000000000000000020000000000000000000000000000000000000000000000000000000000000000000400000000000000000000000000 s) rfl rfl).reg fl ix hf

theorem State.pairCheck_part (s : State) (p : Nat) {pt : Part} (hp : Nat.testBit 0x2000a31 pt.ctorIdx = false) : pt.same s (State.pairCheck s p) :=
  (State.pairCheck_keeps s p (Keeps.refl 0x2000a31 0xc1f000000000000000020000000000000000000000000000000000000000000000000000000000000000000400000000000000000000000000 s) rfl rfl).part pt hp

theorem State.mismatchCheck_get (s : State) (p : Nat) (num : Nat) (edge : Nat) (chk : Option (Nat × Nat)) {fl : Fld} {ix : Nat} (hf : Nat.testBit 0xc1f000000000000000020000000000000000000000000000000000000000000000000000000000000008000000000000000000000000000000 fl.ctorIdx = false) :
    (State.mismatchCheck s p num edge chk).get fl ix = s.get fl ix :=
  (State.mismatchCheck_keeps s p num edge chk (Keeps.refl 0x2000831 0xc1f000000000000000020000000000000000000000000000000000000000000000000000000000000008000000000000000000000000000000 s) rfl rfl).reg fl ix hf

theorem State.mismatchCheck_part (s : State) (p : Nat) (num : Nat) (edge : Nat) (chk : Option (Nat × Nat)) {pt : Part} (hp : Nat.testBit 0x2000831 pt.ctorIdx = false) : pt.same s (State.mismatchCheck s p num edge chk) :=
  (State.mismatchCheck_keeps s p num edge chk (Keeps.refl 0x2000831 0xc1f000000000000000020000000000000000000000000000000000000000000000000000000000000008000000000000000000000000000000 s) rfl rfl).part pt hp

@[simp] theorem State.sendTick_get (s : State) (p : Nat) (m : TickMsg) {fl : Fld} {ix : Nat} (hf : Nat.testBit 0 fl.ctorIdx = false) :
    (State.sendTick s p m).get fl ix = s.get fl ix :=
  (State.sendTick_keeps s p m (Keeps.refl 0x200 0 s) rfl).reg fl ix hf

theorem State.sendTick_part (s : State) (p : Nat) (m : TickMsg) {pt : Part} (hp : Nat.testBit 0x200 pt.ctorIdx = false) : pt.same s (State.sendTick s p m) :=
  (State.sendTick_keeps s p m (Keeps.refl 0x200 0 s) rfl).part pt hp

theorem State.takeConfig_get (s : State) (p : Nat) (ws : List Word) (t : Nat) {fl : Fld} {ix : Nat} (hf : Nat.testBit 0xc1f008400000000000020000000000000000000000000000000000000000000000000000100000000420000000000000000000000000000000 fl.ctorIdx = false) :
    (State.takeConfig s p ws t).get fl ix = s.get fl ix :=
  (State.takeConfig_keeps s p ws t (Keeps.refl 0x2019e3f 0xc1f008400000000000020000000000000000000000000000000000000000000000000000100000000420000000000000000000000000000000 s) rfl rfl).reg fl ix hf

theorem State.takeConfig_part (s : State) (p : Nat) (ws : List Word) (t : Nat) {pt : Part} (hp : Nat.testBit 0x2019e3f pt.ctorIdx = false) : pt.same s (State.takeConfig s p ws t) :=
  (State.takeConfig_keeps s p ws t (Keeps.refl 0x2019e3f 0xc1f008400000000000020000000000000000000000000000000000000000000000000000100000000420000000000000000000000000000000 s) rfl rfl).part pt hp

theorem State.passTick_get (s : State) (d : Nat) (p : Nat) (m : TickMsg) {fl : Fld} {ix : Nat} (hf : Nat.testBit 0xc1f000000000000000020000000000000000000000000000000000000000000000000000000080102000000000000000000000000000000000 fl.ctorIdx = false) :
    (State.passTick s d p m).get fl ix = s.get fl ix :=
  (State.passTick_keeps s d p m (Keeps.refl 0x2000e31 0xc1f000000000000000020000000000000000000000000000000000000000000000000000000080102000000000000000000000000000000000 s) rfl rfl).reg fl ix hf

theorem State.passTick_part (s : State) (d : Nat) (p : Nat) (m : TickMsg) {pt : Part} (hp : Nat.testBit 0x2000e31 pt.ctorIdx = false) : pt.same s (State.passTick s d p m) :=
  (State.passTick_keeps s d p m (Keeps.refl 0x2000e31 0xc1f000000000000000020000000000000000000000000000000000000000000000000000000080102000000000000000000000000000000000 s) rfl rfl).part pt hp

theorem State.latchTick_get (s : State) (g : Nat) (m : TickMsg) {fl : Fld} {ix : Nat} (hf : Nat.testBit 0xc1f000000000000000020000000000000000000000000000000000000000000000000000000080102000000000000000000000000000000000 fl.ctorIdx = false) :
    (State.latchTick s g m).get fl ix = s.get fl ix :=
  (State.latchTick_keeps s g m (Keeps.refl 0x2000c31 0xc1f000000000000000020000000000000000000000000000000000000000000000000000000080102000000000000000000000000000000000 s) rfl rfl).reg fl ix hf

theorem State.latchTick_part (s : State) (g : Nat) (m : TickMsg) {pt : Part} (hp : Nat.testBit 0x2000c31 pt.ctorIdx = false) : pt.same s (State.latchTick s g m) :=
  (State.latchTick_keeps s g m (Keeps.refl 0x2000c31 0xc1f000000000000000020000000000000000000000000000000000000000000000000000000080102000000000000000000000000000000000 s) rfl rfl).part pt hp

@[simp] theorem State.slackShut_get (s : State) {fl : Fld} {ix : Nat} (hf : Nat.testBit 0 fl.ctorIdx = false) :
    (State.slackShut s).get fl ix = s.get fl ix :=
  (State.slackShut_keeps s (Keeps.refl 0x200 0 s) rfl).reg fl ix hf

theorem State.slackShut_part (s : State) {pt : Part} (hp : Nat.testBit 0x200 pt.ctorIdx = false) : pt.same s (State.slackShut s) :=
  (State.slackShut_keeps s (Keeps.refl 0x200 0 s) rfl).part pt hp

@[simp] theorem State.pulse_get (s : State) (t : Nat) (start : Nat) {fl : Fld} {ix : Nat} (hf : Nat.testBit 0 fl.ctorIdx = false) :
    (State.pulse s t start).get fl ix = s.get fl ix :=
  (State.pulse_keeps s t start (Keeps.refl 0x2000200 0 s) rfl).reg fl ix hf

theorem State.pulse_part (s : State) (t : Nat) (start : Nat) {pt : Part} (hp : Nat.testBit 0x2000200 pt.ctorIdx = false) : pt.same s (State.pulse s t start) :=
  (State.pulse_keeps s t start (Keeps.refl 0x2000200 0 s) rfl).part pt hp

theorem State.setTrigQ_get (s : State) (t : Nat) (q : List (Nat × Nat × Option Nat)) {fl : Fld} {ix : Nat} (hf : Nat.testBit 0x20000000000000000000000000000 fl.ctorIdx = false) :
    (State.setTrigQ s t q).get fl ix = s.get fl ix :=
  (State.setTrigQ_keeps s t q (Keeps.refl 0x201 0x20000000000000000000000000000 s) rfl rfl).reg fl ix hf

theorem State.setTrigQ_part (s : State) (t : Nat) (q : List (Nat × Nat × Option Nat)) {pt : Part} (hp : Nat.testBit 0x201 pt.ctorIdx = false) : pt.same s (State.setTrigQ s t q) :=
  (State.setTrigQ_keeps s t q (Keeps.refl 0x201 0x20000000000000000000000000000 s) rfl rfl).part pt hp

theorem State.trigPlace_get (s : State) (p : Nat) (t : Nat) (n : Nat) (o : Nat) {fl : Fld} {ix : Nat} (hf : Nat.testBit 0xc1f0000000000000000200000000000000000000000000000000000000000000000000000000000000001a0000000000000000000000000000 fl.ctorIdx = false) :
    (State.trigPlace s p t n o).get fl ix = s.get fl ix :=
  (State.trigPlace_keeps s p t n o (Keeps.refl 0x2000a31 0xc1f0000000000000000200000000000000000000000000000000000000000000000000000000000000001a0000000000000000000000000000 s) rfl rfl).reg fl ix hf

theorem State.trigPlace_part (s : State) (p : Nat) (t : Nat) (n : Nat) (o : Nat) {pt : Part} (hp : Nat.testBit 0x2000a31 pt.ctorIdx = false) : pt.same s (State.trigPlace s p t n o) :=
  (State.trigPlace_keeps s p t n o (Keeps.refl 0x2000a31 0xc1f0000000000000000200000000000000000000000000000000000000000000000000000000000000001a0000000000000000000000000000 s) rfl rfl).part pt hp

theorem State.leaveCore_get (s : State) (g : Nat) (serv : Nat) {fl : Fld} {ix : Nat} (hf : Nat.testBit 0xc1f0084000001000000200000000000000000000000000000000000000000000000000001020400c0000000000000000000000000000000000 fl.ctorIdx = false) :
    (State.leaveCore s g serv).get fl ix = s.get fl ix :=
  (State.leaveCore_keeps s g serv (Keeps.refl 0x2019c3f 0xc1f0084000001000000200000000000000000000000000000000000000000000000000001020400c0000000000000000000000000000000000 s) rfl rfl).reg fl ix hf

theorem State.leaveCore_part (s : State) (g : Nat) (serv : Nat) {pt : Part} (hp : Nat.testBit 0x2019c3f pt.ctorIdx = false) : pt.same s (State.leaveCore s g serv) :=
  (State.leaveCore_keeps s g serv (Keeps.refl 0x2019c3f 0xc1f0084000001000000200000000000000000000000000000000000000000000000000001020400c0000000000000000000000000000000000 s) rfl rfl).part pt hp

theorem State.recallLine_get (s : State) (la : Nat) {fl : Fld} {ix : Nat} (hf : Nat.testBit 0x8400000000000000000000000000000000000000000000000000000000000000000100000000000000000000000000000000000000000 fl.ctorIdx = false) :
    (State.recallLine s la).get fl ix = s.get fl ix :=
  (State.recallLine_keeps s la (Keeps.refl 0x19407 0x8400000000000000000000000000000000000000000000000000000000000000000100000000000000000000000000000000000000000 s) rfl rfl).reg fl ix hf

theorem State.recallLine_part (s : State) (la : Nat) {pt : Part} (hp : Nat.testBit 0x19407 pt.ctorIdx = false) : pt.same s (State.recallLine s la) :=
  (State.recallLine_keeps s la (Keeps.refl 0x19407 0x8400000000000000000000000000000000000000000000000000000000000000000100000000000000000000000000000000000000000 s) rfl rfl).part pt hp

theorem State.sweepRange_get (s : State) (lo : Nat) (hi : Nat) (cmd : Option Cmd) {fl : Fld} {ix : Nat} (hf : Nat.testBit 0x8400000000000000000000000000000000000000000000000000000000000000000100000000000000000000000000000000000000000 fl.ctorIdx = false) :
    (State.sweepRange s lo hi cmd).get fl ix = s.get fl ix :=
  (State.sweepRange_keeps s lo hi cmd (Keeps.refl 0x1940f 0x8400000000000000000000000000000000000000000000000000000000000000000100000000000000000000000000000000000000000 s) rfl rfl).reg fl ix hf

theorem State.sweepRange_part (s : State) (lo : Nat) (hi : Nat) (cmd : Option Cmd) {pt : Part} (hp : Nat.testBit 0x1940f pt.ctorIdx = false) : pt.same s (State.sweepRange s lo hi cmd) :=
  (State.sweepRange_keeps s lo hi cmd (Keeps.refl 0x1940f 0x8400000000000000000000000000000000000000000000000000000000000000000100000000000000000000000000000000000000000 s) rfl rfl).part pt hp

theorem State.joinCore_get (s : State) (p : Nat) (l : Nat) (g : Nat) {fl : Fld} {ix : Nat} (hf : Nat.testBit 0x100000000000000000000000000000000000100008000000000000000000000000000000000000000000000000000000000000 fl.ctorIdx = false) :
    (State.joinCore s p l g).get fl ix = s.get fl ix :=
  (State.joinCore_keeps s p l g (Keeps.refl 0x200401 0x100000000000000000000000000000000000100008000000000000000000000000000000000000000000000000000000000000 s) rfl rfl).reg fl ix hf

theorem State.joinCore_part (s : State) (p : Nat) (l : Nat) (g : Nat) {pt : Part} (hp : Nat.testBit 0x200401 pt.ctorIdx = false) : pt.same s (State.joinCore s p l g) :=
  (State.joinCore_keeps s p l g (Keeps.refl 0x200401 0x100000000000000000000000000000000000100008000000000000000000000000000000000000000000000000000000000000 s) rfl rfl).part pt hp

theorem State.detached_get (s : State) (p : Nat) (l : Nat) (g : Nat) {fl : Fld} {ix : Nat} (hf : Nat.testBit 0x8400000000000000000000000000000000000000000000000000000000000000000100000200000000000000000000000000000000000 fl.ctorIdx = false) :
    (State.detached s p l g).get fl ix = s.get fl ix :=
  (State.detached_keeps s p l g (Keeps.refl 0x201949f 0x8400000000000000000000000000000000000000000000000000000000000000000100000200000000000000000000000000000000000 s) rfl rfl).reg fl ix hf

theorem State.detached_part (s : State) (p : Nat) (l : Nat) (g : Nat) {pt : Part} (hp : Nat.testBit 0x201949f pt.ctorIdx = false) : pt.same s (State.detached s p l g) :=
  (State.detached_keeps s p l g (Keeps.refl 0x201949f 0x8400000000000000000000000000000000000000000000000000000000000000000100000200000000000000000000000000000000000 s) rfl rfl).part pt hp

theorem State.polSettle_part (s : State) (p : Nat) {pt : Part} (hp : Nat.testBit 0x2919ebf pt.ctorIdx = false) : pt.same s (State.polSettle s p) :=
  (State.polSettle_keeps s p (Keeps.refl 0x2919ebf Fld.maskAll s) rfl rfl).part pt hp

@[simp] theorem State.startCore_get (s : State) (g : Nat) {fl : Fld} {ix : Nat} (hf : Nat.testBit 0 fl.ctorIdx = false) :
    (State.startCore s g).get fl ix = s.get fl ix :=
  (State.startCore_keeps s g (Keeps.refl 0x4000400 0 s) rfl).reg fl ix hf

theorem State.startCore_part (s : State) (g : Nat) {pt : Part} (hp : Nat.testBit 0x4000400 pt.ctorIdx = false) : pt.same s (State.startCore s g) :=
  (State.startCore_keeps s g (Keeps.refl 0x4000400 0 s) rfl).part pt hp

theorem State.detachRgn_get (s : State) (p : Nat) (n : Nat) (cmd : Option Cmd) {fl : Fld} {ix : Nat} (hf : Nat.testBit 0x8400000000000000000000000000000000000000000000000000000000000000000100000000000000000000000c00000000000000000 fl.ctorIdx = false) :
    (State.detachRgn s p n cmd).get fl ix = s.get fl ix :=
  (State.detachRgn_keeps s p n cmd (Keeps.refl 0x1940f 0x8400000000000000000000000000000000000000000000000000000000000000000100000000000000000000000c00000000000000000 s) rfl rfl).reg fl ix hf

theorem State.detachRgn_part (s : State) (p : Nat) (n : Nat) (cmd : Option Cmd) {pt : Part} (hp : Nat.testBit 0x1940f pt.ctorIdx = false) : pt.same s (State.detachRgn s p n cmd) :=
  (State.detachRgn_keeps s p n cmd (Keeps.refl 0x1940f 0x8400000000000000000000000000000000000000000000000000000000000000000100000000000000000000000c00000000000000000 s) rfl rfl).part pt hp

@[simp] theorem State.countOne_get (s : State) (g : Nat) (i : Nat) (ev : Nat) (n : Nat) {fl : Fld} {ix : Nat} (hf : Nat.testBit 0 fl.ctorIdx = false) :
    (State.countOne s g i ev n).get fl ix = s.get fl ix :=
  (State.countOne_keeps s g i ev n (Keeps.refl 0x400 0 s) rfl).reg fl ix hf

theorem State.countOne_part (s : State) (g : Nat) (i : Nat) (ev : Nat) (n : Nat) {pt : Part} (hp : Nat.testBit 0x400 pt.ctorIdx = false) : pt.same s (State.countOne s g i ev n) :=
  (State.countOne_keeps s g i ev n (Keeps.refl 0x400 0 s) rfl).part pt hp

@[simp] theorem State.countCore_get (s : State) (g : Nat) (ev : Nat) (n : Nat) {fl : Fld} {ix : Nat} (hf : Nat.testBit 0 fl.ctorIdx = false) :
    (State.countCore s g ev n).get fl ix = s.get fl ix :=
  (State.countCore_keeps s g ev n (Keeps.refl 0x400 0 s) rfl).reg fl ix hf

theorem State.countCore_part (s : State) (g : Nat) (ev : Nat) (n : Nat) {pt : Part} (hp : Nat.testBit 0x400 pt.ctorIdx = false) : pt.same s (State.countCore s g ev n) :=
  (State.countCore_keeps s g ev n (Keeps.refl 0x400 0 s) rfl).part pt hp

@[simp] theorem State.countFixed_get (s : State) (g : Nat) (num : Nat) (bit : Nat) (n : Nat) {fl : Fld} {ix : Nat} (hf : Nat.testBit 0 fl.ctorIdx = false) :
    (State.countFixed s g num bit n).get fl ix = s.get fl ix :=
  (State.countFixed_keeps s g num bit n (Keeps.refl 0x400 0 s) rfl).reg fl ix hf

theorem State.countFixed_part (s : State) (g : Nat) (num : Nat) (bit : Nat) (n : Nat) {pt : Part} (hp : Nat.testBit 0x400 pt.ctorIdx = false) : pt.same s (State.countFixed s g num bit n) :=
  (State.countFixed_keeps s g num bit n (Keeps.refl 0x400 0 s) rfl).part pt hp

@[simp] theorem State.retire_get (s : State) (g : Nat) {fl : Fld} {ix : Nat} (hf : Nat.testBit 0 fl.ctorIdx = false) :
    (State.retire s g).get fl ix = s.get fl ix :=
  (State.retire_keeps s g (Keeps.refl 0x4000400 0 s) rfl).reg fl ix hf

theorem State.retire_part (s : State) (g : Nat) {pt : Part} (hp : Nat.testBit 0x4000400 pt.ctorIdx = false) : pt.same s (State.retire s g) :=
  (State.retire_keeps s g (Keeps.refl 0x4000400 0 s) rfl).part pt hp

@[simp] theorem State.takeExc_get (s : State) (g : Nat) (e : Exc) (resume : Word) {fl : Fld} {ix : Nat} (hf : Nat.testBit 0 fl.ctorIdx = false) :
    (State.takeExc s g e resume).get fl ix = s.get fl ix :=
  (State.takeExc_keeps s g e resume (Keeps.refl 0x400 0 s) rfl).reg fl ix hf

theorem State.takeExc_part (s : State) (g : Nat) (e : Exc) (resume : Word) {pt : Part} (hp : Nat.testBit 0x400 pt.ctorIdx = false) : pt.same s (State.takeExc s g e resume) :=
  (State.takeExc_keeps s g e resume (Keeps.refl 0x400 0 s) rfl).part pt hp

@[simp] theorem State.syncExc_get (s : State) (g : Nat) (cls : Nat) (detail : Nat) (l : Nat) (addr : Word) {fl : Fld} {ix : Nat} (hf : Nat.testBit 0 fl.ctorIdx = false) :
    (State.syncExc s g cls detail l addr).get fl ix = s.get fl ix :=
  (State.syncExc_keeps s g cls detail l addr (Keeps.refl 0x400 0 s) rfl).reg fl ix hf

theorem State.syncExc_part (s : State) (g : Nat) (cls : Nat) (detail : Nat) (l : Nat) (addr : Word) {pt : Part} (hp : Nat.testBit 0x400 pt.ctorIdx = false) : pt.same s (State.syncExc s g cls detail l addr) :=
  (State.syncExc_keeps s g cls detail l addr (Keeps.refl 0x400 0 s) rfl).part pt hp

@[simp] theorem State.machineCheck_get (s : State) (g : Nat) (source : Nat) (addr : Word) {fl : Fld} {ix : Nat} (hf : Nat.testBit 0 fl.ctorIdx = false) :
    (State.machineCheck s g source addr).get fl ix = s.get fl ix :=
  (State.machineCheck_keeps s g source addr (Keeps.refl 0x400 0 s) rfl).reg fl ix hf

theorem State.machineCheck_part (s : State) (g : Nat) (source : Nat) (addr : Word) {pt : Part} (hp : Nat.testBit 0x400 pt.ctorIdx = false) : pt.same s (State.machineCheck s g source addr) :=
  (State.machineCheck_keeps s g source addr (Keeps.refl 0x400 0 s) rfl).part pt hp

theorem State.guardViolation_get (s : State) (g : Nat) (sub : Nat) (addr : Word) (pa : Nat) {fl : Fld} {ix : Nat} (hf : Nat.testBit 0xc1f000000000000000020000000000000000000000000000000000000000000000000000000020000000000000000000000000000000000000 fl.ctorIdx = false) :
    (State.guardViolation s g sub addr pa).get fl ix = s.get fl ix :=
  (State.guardViolation_keeps s g sub addr pa (Keeps.refl 0x2000c31 0xc1f000000000000000020000000000000000000000000000000000000000000000000000000020000000000000000000000000000000000000 s) rfl rfl).reg fl ix hf

theorem State.guardViolation_part (s : State) (g : Nat) (sub : Nat) (addr : Word) (pa : Nat) {pt : Part} (hp : Nat.testBit 0x2000c31 pt.ctorIdx = false) : pt.same s (State.guardViolation s g sub addr pa) :=
  (State.guardViolation_keeps s g sub addr pa (Keeps.refl 0x2000c31 0xc1f000000000000000020000000000000000000000000000000000000000000000000000000020000000000000000000000000000000000000 s) rfl rfl).part pt hp

@[simp] theorem State.takeInt_get (s : State) (g : Nat) {fl : Fld} {ix : Nat} (hf : Nat.testBit 0 fl.ctorIdx = false) :
    (State.takeInt s g).get fl ix = s.get fl ix :=
  (State.takeInt_keeps s g (Keeps.refl 0x400 0 s) rfl).reg fl ix hf

theorem State.takeInt_part (s : State) (g : Nat) {pt : Part} (hp : Nat.testBit 0x400 pt.ctorIdx = false) : pt.same s (State.takeInt s g) :=
  (State.takeInt_keeps s g (Keeps.refl 0x400 0 s) rfl).part pt hp

@[simp] theorem State.admitInt_get (s : State) (g : Nat) {fl : Fld} {ix : Nat} (hf : Nat.testBit 0 fl.ctorIdx = false) :
    (State.admitInt s g).get fl ix = s.get fl ix :=
  (State.admitInt_keeps s g (Keeps.refl 0x400 0 s) rfl).reg fl ix hf

theorem State.admitInt_part (s : State) (g : Nat) {pt : Part} (hp : Nat.testBit 0x400 pt.ctorIdx = false) : pt.same s (State.admitInt s g) :=
  (State.admitInt_keeps s g (Keeps.refl 0x400 0 s) rfl).part pt hp

@[simp] theorem State.retireTo_get (s : State) (g : Nat) (pc : Word) {fl : Fld} {ix : Nat} (hf : Nat.testBit 0 fl.ctorIdx = false) :
    (State.retireTo s g pc).get fl ix = s.get fl ix :=
  (State.retireTo_keeps s g pc (Keeps.refl 0x4000400 0 s) rfl).reg fl ix hf

theorem State.retireTo_part (s : State) (g : Nat) (pc : Word) {pt : Part} (hp : Nat.testBit 0x4000400 pt.ctorIdx = false) : pt.same s (State.retireTo s g pc) :=
  (State.retireTo_keeps s g pc (Keeps.refl 0x4000400 0 s) rfl).part pt hp

@[simp] theorem State.countRetired_get (s : State) (g : Nat) {fl : Fld} {ix : Nat} (hf : Nat.testBit 0 fl.ctorIdx = false) :
    (State.countRetired s g).get fl ix = s.get fl ix :=
  (State.countRetired_keeps s g (Keeps.refl 0x4000400 0 s) rfl).reg fl ix hf

theorem State.countRetired_part (s : State) (g : Nat) {pt : Part} (hp : Nat.testBit 0x4000400 pt.ctorIdx = false) : pt.same s (State.countRetired s g) :=
  (State.countRetired_keeps s g (Keeps.refl 0x4000400 0 s) rfl).part pt hp

theorem State.carried_get (s : State) (m : Msg) {fl : Fld} {ix : Nat} (hf : Nat.testBit 0x8400000000000000000000000000000000000000000000000000000000000000000000000000000000000000000000000000000000000 fl.ctorIdx = false) :
    (State.carried s m).get fl ix = s.get fl ix :=
  (State.carried_keeps s m (Keeps.refl 0x1001 0x8400000000000000000000000000000000000000000000000000000000000000000000000000000000000000000000000000000000000 s) rfl rfl).reg fl ix hf

theorem State.carried_part (s : State) (m : Msg) {pt : Part} (hp : Nat.testBit 0x1001 pt.ctorIdx = false) : pt.same s (State.carried s m) :=
  (State.carried_keeps s m (Keeps.refl 0x1001 0x8400000000000000000000000000000000000000000000000000000000000000000000000000000000000000000000000000000000000 s) rfl rfl).part pt hp

@[simp] theorem State.smpRetired_get (s : State) (g : Nat) {fl : Fld} {ix : Nat} (hf : Nat.testBit 0 fl.ctorIdx = false) :
    (State.smpRetired s g).get fl ix = s.get fl ix :=
  (State.smpRetired_keeps s g (Keeps.refl 0x4000400 0 s) rfl).reg fl ix hf

theorem State.smpRetired_part (s : State) (g : Nat) {pt : Part} (hp : Nat.testBit 0x4000400 pt.ctorIdx = false) : pt.same s (State.smpRetired s g) :=
  (State.smpRetired_keeps s g (Keeps.refl 0x4000400 0 s) rfl).part pt hp

@[simp] theorem State.takeHeld_get (s : State) (g : Nat) {fl : Fld} {ix : Nat} (hf : Nat.testBit 0 fl.ctorIdx = false) :
    (State.takeHeld s g).get fl ix = s.get fl ix :=
  (State.takeHeld_keeps s g (Keeps.refl 0x400 0 s) rfl).reg fl ix hf

theorem State.takeHeld_part (s : State) (g : Nat) {pt : Part} (hp : Nat.testBit 0x400 pt.ctorIdx = false) : pt.same s (State.takeHeld s g) :=
  (State.takeHeld_keeps s g (Keeps.refl 0x400 0 s) rfl).part pt hp

theorem State.retireCore_get (s : State) (g : Nat) (cause : Nat) (who : Nat × Nat) {fl : Fld} {ix : Nat} (hf : Nat.testBit 0xc1f00840000010000002000080000000000000000000000000000000000000000000000000200000000000000000000000000001ffe0000000 fl.ctorIdx = false) :
    (State.retireCore s g cause who).get fl ix = s.get fl ix :=
  (State.retireCore_keeps s g cause who (Keeps.refl 0x2089c31 0xc1f00840000010000002000080000000000000000000000000000000000000000000000000200000000000000000000000000001ffe0000000 s) rfl rfl).reg fl ix hf

theorem State.retireCore_part (s : State) (g : Nat) (cause : Nat) (who : Nat × Nat) {pt : Part} (hp : Nat.testBit 0x2089c31 pt.ctorIdx = false) : pt.same s (State.retireCore s g cause who) :=
  (State.retireCore_keeps s g cause who (Keeps.refl 0x2089c31 0xc1f00840000010000002000080000000000000000000000000000000000000000000000000200000000000000000000000000001ffe0000000 s) rfl rfl).part pt hp

theorem State.fence_get (s : State) (g : Nat) (cause : Nat) (src : Nat) (syndrome : Nat) {fl : Fld} {ix : Nat} (hf : Nat.testBit 0xc1f0084000001000000200008000000000000000000000000000000000000000000000001020427c000000000000000000000001ffe0000000 fl.ctorIdx = false) :
    (State.fence s g cause src syndrome).get fl ix = s.get fl ix :=
  (State.fence_keeps s g cause src syndrome (Keeps.refl 0x6099cbf 0xc1f0084000001000000200008000000000000000000000000000000000000000000000001020427c000000000000000000000001ffe0000000 s) rfl rfl).reg fl ix hf

theorem State.fence_part (s : State) (g : Nat) (cause : Nat) (src : Nat) (syndrome : Nat) {pt : Part} (hp : Nat.testBit 0x6099cbf pt.ctorIdx = false) : pt.same s (State.fence s g cause src syndrome) :=
  (State.fence_keeps s g cause src syndrome (Keeps.refl 0x6099cbf 0xc1f0084000001000000200008000000000000000000000000000000000000000000000001020427c000000000000000000000001ffe0000000 s) rfl rfl).part pt hp

theorem State.vacate_get (s : State) (p : Nat) (l : Nat) (d : Nat) {fl : Fld} {ix : Nat} (hf : Nat.testBit 0xc1f000000000000000020000000000000000000000000000000000000000000000000000000000200000000000000000000000000000000000 fl.ctorIdx = false) :
    (State.vacate s p l d).get fl ix = s.get fl ix :=
  (State.vacate_keeps s p l d (Keeps.refl 0x2000cb1 0xc1f000000000000000020000000000000000000000000000000000000000000000000000000000200000000000000000000000000000000000 s) rfl rfl).reg fl ix hf

theorem State.vacate_part (s : State) (p : Nat) (l : Nat) (d : Nat) {pt : Part} (hp : Nat.testBit 0x2000cb1 pt.ctorIdx = false) : pt.same s (State.vacate s p l d) :=
  (State.vacate_keeps s p l d (Keeps.refl 0x2000cb1 0xc1f000000000000000020000000000000000000000000000000000000000000000000000000000200000000000000000000000000000000000 s) rfl rfl).part pt hp

theorem State.writeTickRec_get (s : State) (g : Nat) {fl : Fld} {ix : Nat} (hf : Nat.testBit 0x8400000000000000000000000000000000000000000000000000000000000000000100000000000000000000000000000000000000000 fl.ctorIdx = false) :
    (State.writeTickRec s g).get fl ix = s.get fl ix :=
  (State.writeTickRec_keeps s g (Keeps.refl 0x1940f 0x8400000000000000000000000000000000000000000000000000000000000000000100000000000000000000000000000000000000000 s) rfl rfl).reg fl ix hf

theorem State.writeTickRec_part (s : State) (g : Nat) {pt : Part} (hp : Nat.testBit 0x1940f pt.ctorIdx = false) : pt.same s (State.writeTickRec s g) :=
  (State.writeTickRec_keeps s g (Keeps.refl 0x1940f 0x8400000000000000000000000000000000000000000000000000000000000000000100000000000000000000000000000000000000000 s) rfl rfl).part pt hp

@[simp] theorem State.loadBody_get (s : State) (g : Nat) (h : Nat) {fl : Fld} {ix : Nat} (hf : Nat.testBit 0 fl.ctorIdx = false) :
    (State.loadBody s g h).get fl ix = s.get fl ix :=
  (State.loadBody_keeps s g h (Keeps.refl 0x400 0 s) rfl).reg fl ix hf

theorem State.loadBody_part (s : State) (g : Nat) (h : Nat) {pt : Part} (hp : Nat.testBit 0x400 pt.ctorIdx = false) : pt.same s (State.loadBody s g h) :=
  (State.loadBody_keeps s g h (Keeps.refl 0x400 0 s) rfl).part pt hp

theorem State.undoTick_get (s : State) (g : Nat) {fl : Fld} {ix : Nat} (hf : Nat.testBit 0x8400000000000000000000000000000000000000000000000000000000000000000100000000000000000000000000000000000000000 fl.ctorIdx = false) :
    (State.undoTick s g).get fl ix = s.get fl ix :=
  (State.undoTick_keeps s g (Keeps.refl 0x201941f 0x8400000000000000000000000000000000000000000000000000000000000000000100000000000000000000000000000000000000000 s) rfl rfl).reg fl ix hf

theorem State.undoTick_part (s : State) (g : Nat) {pt : Part} (hp : Nat.testBit 0x201941f pt.ctorIdx = false) : pt.same s (State.undoTick s g) :=
  (State.undoTick_keeps s g (Keeps.refl 0x201941f 0x8400000000000000000000000000000000000000000000000000000000000000000100000000000000000000000000000000000000000 s) rfl rfl).part pt hp

theorem State.abortTick_get (s : State) (g : Nat) (cause : Nat) (la : Nat) {fl : Fld} {ix : Nat} (hf : Nat.testBit 0xc1f0084000000000000200000000000000000000000000000000000000000000000000001000418c0000000000000000000000000000000000 fl.ctorIdx = false) :
    (State.abortTick s g cause la).get fl ix = s.get fl ix :=
  (State.abortTick_keeps s g cause la (Keeps.refl 0x2019c3f 0xc1f0084000000000000200000000000000000000000000000000000000000000000000001000418c0000000000000000000000000000000000 s) rfl rfl).reg fl ix hf

theorem State.abortTick_part (s : State) (g : Nat) (cause : Nat) (la : Nat) {pt : Part} (hp : Nat.testBit 0x2019c3f pt.ctorIdx = false) : pt.same s (State.abortTick s g cause la) :=
  (State.abortTick_keeps s g cause la (Keeps.refl 0x2019c3f 0xc1f0084000000000000200000000000000000000000000000000000000000000000000001000418c0000000000000000000000000000000000 s) rfl rfl).part pt hp

theorem State.closeGuarded_get (s : State) (g : Nat) {fl : Fld} {ix : Nat} (hf : Nat.testBit 0xc1f008400000000000020000000000000000000000000000000000000000000000003000106000006000000000000000000000000000000000 fl.ctorIdx = false) :
    (State.closeGuarded s g).get fl ix = s.get fl ix :=
  (State.closeGuarded_keeps s g (Keeps.refl 0x2099e3f 0xc1f008400000000000020000000000000000000000000000000000000000000000003000106000006000000000000000000000000000000000 s) rfl rfl).reg fl ix hf

theorem State.closeGuarded_part (s : State) (g : Nat) {pt : Part} (hp : Nat.testBit 0x2099e3f pt.ctorIdx = false) : pt.same s (State.closeGuarded s g) :=
  (State.closeGuarded_keeps s g (Keeps.refl 0x2099e3f 0xc1f008400000000000020000000000000000000000000000000000000000000000003000106000006000000000000000000000000000000000 s) rfl rfl).part pt hp

theorem State.startCommit_get (s : State) (g : Nat) (split : Bool) (force : Bool) {fl : Fld} {ix : Nat} (hf : Nat.testBit 0x8400000000000000000000000000000000000000000000000000000000000000000100000000000000000000000000000000000000000 fl.ctorIdx = false) :
    (State.startCommit s g split force).get fl ix = s.get fl ix :=
  (State.startCommit_keeps s g split force (Keeps.refl 0x1940f 0x8400000000000000000000000000000000000000000000000000000000000000000100000000000000000000000000000000000000000 s) rfl rfl).reg fl ix hf

theorem State.startCommit_part (s : State) (g : Nat) (split : Bool) (force : Bool) {pt : Part} (hp : Nat.testBit 0x1940f pt.ctorIdx = false) : pt.same s (State.startCommit s g split force) :=
  (State.startCommit_keeps s g split force (Keeps.refl 0x1940f 0x8400000000000000000000000000000000000000000000000000000000000000000100000000000000000000000000000000000000000 s) rfl rfl).part pt hp

theorem State.takeTick_get (s : State) (g : Nat) (m : TickMsg) {fl : Fld} {ix : Nat} (hf : Nat.testBit 0xc1f008400000000000020000000000000000000000000000000000000000000000000000100000004000000000000000000000000000000000 fl.ctorIdx = false) :
    (State.takeTick s g m).get fl ix = s.get fl ix :=
  (State.takeTick_keeps s g m (Keeps.refl 0x2099e3f 0xc1f008400000000000020000000000000000000000000000000000000000000000000000100000004000000000000000000000000000000000 s) rfl rfl).reg fl ix hf

theorem State.takeTick_part (s : State) (g : Nat) (m : TickMsg) {pt : Part} (hp : Nat.testBit 0x2099e3f pt.ctorIdx = false) : pt.same s (State.takeTick s g m) :=
  (State.takeTick_keeps s g m (Keeps.refl 0x2099e3f 0xc1f008400000000000020000000000000000000000000000000000000000000000000000100000004000000000000000000000000000000000 s) rfl rfl).part pt hp

theorem State.tryTake_get (s : State) (g : Nat) {fl : Fld} {ix : Nat} (hf : Nat.testBit 0xc1f008400000000000020000000000000000000000000000000000000000000000000000100000006000000000000000000000000000000000 fl.ctorIdx = false) :
    (State.tryTake s g).get fl ix = s.get fl ix :=
  (State.tryTake_keeps s g (Keeps.refl 0x2099e3f 0xc1f008400000000000020000000000000000000000000000000000000000000000000000100000006000000000000000000000000000000000 s) rfl rfl).reg fl ix hf

theorem State.tryTake_part (s : State) (g : Nat) {pt : Part} (hp : Nat.testBit 0x2099e3f pt.ctorIdx = false) : pt.same s (State.tryTake s g) :=
  (State.tryTake_keeps s g (Keeps.refl 0x2099e3f 0xc1f008400000000000020000000000000000000000000000000000000000000000000000100000006000000000000000000000000000000000 s) rfl rfl).part pt hp

theorem State.migrTaken_get (s : State) (g : Nat) {fl : Fld} {ix : Nat} (hf : Nat.testBit 0xc1f008400000000000020000000000000000000000000000000000000000000000000000100000000000000000000000000000000000000000 fl.ctorIdx = false) :
    (State.migrTaken s g).get fl ix = s.get fl ix :=
  (State.migrTaken_keeps s g (Keeps.refl 0x2099c3f 0xc1f008400000000000020000000000000000000000000000000000000000000000000000100000000000000000000000000000000000000000 s) rfl rfl).reg fl ix hf

theorem State.migrTaken_part (s : State) (g : Nat) {pt : Part} (hp : Nat.testBit 0x2099c3f pt.ctorIdx = false) : pt.same s (State.migrTaken s g) :=
  (State.migrTaken_keeps s g (Keeps.refl 0x2099c3f 0xc1f008400000000000020000000000000000000000000000000000000000000000000000100000000000000000000000000000000000000000 s) rfl rfl).part pt hp

/-! ### Recording an event -/

/-- An operation that changes nothing of the command plane but the error log. -/
def OnlyLogs (s t : State) : Prop := ∃ l n, t.cp = { s.cp with errLog := l, errSeq := n }

theorem OnlyLogs.of_eq {s t : State} (h : t.cp = s.cp) : OnlyLogs s t := ⟨s.cp.errLog, s.cp.errSeq, by rw [h]⟩
theorem OnlyLogs.trans {r s t : State} (h : OnlyLogs r s) (k : OnlyLogs s t) : OnlyLogs r t := by
  obtain ⟨l, n, h⟩ := h
  obtain ⟨l', n', k⟩ := k
  exact ⟨l', n', by rw [k, h]⟩

section
variable {s t : State} (h : OnlyLogs s t)
include h
theorem OnlyLogs.sqs : t.cp.sqs = s.cp.sqs := by obtain ⟨_, _, h⟩ := h; rw [h]
theorem OnlyLogs.cqs : t.cp.cqs = s.cp.cqs := by obtain ⟨_, _, h⟩ := h; rw [h]
theorem OnlyLogs.sq (k : Nat) : t.sq k = s.sq k := by unfold State.sq; rw [h.sqs]
theorem OnlyLogs.cq (k : Nat) : t.cq k = s.cq k := by unfold State.cq; rw [h.cqs]
theorem OnlyLogs.running : t.cp.running = s.cp.running := by obtain ⟨_, _, h⟩ := h; rw [h]
theorem OnlyLogs.ready : t.cp.ready = s.cp.ready := by obtain ⟨_, _, h⟩ := h; rw [h]
theorem OnlyLogs.stopping : t.cp.stopping = s.cp.stopping := by obtain ⟨_, _, h⟩ := h; rw [h]
theorem OnlyLogs.hbMissed : t.cp.hbMissed = s.cp.hbMissed := by obtain ⟨_, _, h⟩ := h; rw [h]
theorem OnlyLogs.runActive : t.cp.runActive = s.cp.runActive := by obtain ⟨_, _, h⟩ := h; rw [h]
theorem OnlyLogs.runStandby : t.cp.runStandby = s.cp.runStandby := by obtain ⟨_, _, h⟩ := h; rw [h]
theorem OnlyLogs.bootChoice : t.cp.bootChoice = s.cp.bootChoice := by obtain ⟨_, _, h⟩ := h; rw [h]
theorem OnlyLogs.jns : t.cp.jns = s.cp.jns := by obtain ⟨_, _, h⟩ := h; rw [h]
theorem OnlyLogs.sidebandBusy : t.cp.sidebandBusy = s.cp.sidebandBusy := by obtain ⟨_, _, h⟩ := h; rw [h]
theorem OnlyLogs.cfg : t.cp.cfg = s.cp.cfg := by obtain ⟨_, _, h⟩ := h; rw [h]
theorem OnlyLogs.keep : t.cp.keep = s.cp.keep := by obtain ⟨_, _, h⟩ := h; rw [h]
end

theorem OnlyLogs.logEv (s : State) (h : Nat) (e : Event) (d : Bool) : OnlyLogs s (s.logEv h e d) := by
  unfold State.logEv
  dsimp only
  refine OnlyLogs.trans ?_ (.of_eq (State.aerEvent_part (pt := .cp) _ _ _ _ rfl))
  refine OnlyLogs.trans ?_ (.of_eq (State.aerEvent_part (pt := .cp) _ _ _ _ rfl))
  refine OnlyLogs.trans ?_ (.of_eq (State.aerEvent_part (pt := .cp) _ _ _ _ rfl))
  refine OnlyLogs.trans ?_ (.of_eq (State.aerEvent_part (pt := .cp) _ _ _ _ rfl))
  refine OnlyLogs.trans ?_ (.of_eq (State.recEvent_part (pt := .cp) _ _ _ _ _ rfl))
  unfold State.errorLog
  split
  · exact ⟨_, _, rfl⟩
  · exact .of_eq rfl

theorem OnlyLogs.logSec (s : State) (h n code : Nat) (args : List Nat) : OnlyLogs s (s.logSec h n code args) :=
  OnlyLogs.logEv _ _ _ _

theorem OnlyLogs.refuse (s : State) (h : Nat) (src : Agent) (pol : Nat) (sec : Bool) (a k : Nat) :
    OnlyLogs s (s.refuse h src pol sec a k) := by
  unfold State.refuse
  dsimp only
  split
  · split
    · split <;> exact .of_eq rfl
    · exact .of_eq rfl
  · split
    · exact .of_eq rfl
    · exact OnlyLogs.trans (s := s.bump .RGN_VIOL_COUNT (instH h 0) 1) (.of_eq rfl) (.logEv _ _ _ _)

theorem OnlyLogs.silence (s : State) (c : Cmd) : OnlyLogs s (s.silence c) := .refuse _ _ _ _ _ _ _

/-! ### What goes out -/

/-- What has been sent stays sent. -/
def Sends (s t : State) : Prop := ∃ l, t.out = s.out ++ l

theorem Sends.of_eq {s t : State} (h : t.out = s.out) : Sends s t := ⟨[], by rw [h, List.append_nil]⟩
theorem Sends.trans {r s t : State} (h : Sends r s) (k : Sends s t) : Sends r t := by
  obtain ⟨l, h⟩ := h
  obtain ⟨m, k⟩ := k
  exact ⟨l ++ m, by rw [k, h, List.append_assoc]⟩
theorem Sends.mem {s t : State} (h : Sends s t) {w : Wire} (hw : w ∈ s.out) : w ∈ t.out := by
  obtain ⟨l, h⟩ := h
  rw [h]
  exact List.mem_append_left _ hw
theorem Sends.emit (s : State) (w : Wire) : Sends s (s.emit w) := ⟨[w], rfl⟩

theorem Sends.ite {c : Prop} [Decidable c] {s a b : State} (ha : Sends s a) (hb : Sends s b) :
    Sends s (if c then a else b) := by split <;> assumption

theorem Sends.aerMessage (s : State) (e : Nat) (u : Bool) (b : Nat) : Sends s (s.aerMessage e u b) := by
  unfold State.aerMessage
  dsimp only
  exact .ite (.ite (.emit _ _) (.of_eq rfl)) (.ite (.emit _ _) (.of_eq rfl))

theorem Sends.aer (s : State) (e : Nat) (u i : Bool) (b : Nat) (hdr : List Nat) : Sends s (s.aer e u i b hdr) := by
  have hit : Sends s (if i = true then s.bump .PE_CNT_AER_LOST (instPe e) 1 else s) := by split <;> exact .of_eq rfl
  cases u
  · refine if h : (s.peSt e).aerCor.testBit b = true then ?_ else ?_
    · simpa only [State.aer, Bool.false_eq_true, if_false, h, if_true] using hit
    · simp only [State.aer, Bool.false_eq_true, if_false, h]
      exact Sends.trans (s := s.updPe e _) (.of_eq rfl) (.aerMessage _ _ _ _)
  · refine if h : (s.peSt e).aerUnc.testBit b = true then ?_ else ?_
    · simpa only [State.aer, h, if_true] using hit
    · simp only [State.aer, h, if_true, Bool.false_eq_true, if_false]
      exact Sends.trans (s := s.updPe e _) (.of_eq rfl) (.aerMessage _ _ _ _)

theorem Sends.aerEvent (s : State) (e q : Nat) (ev : Event) : Sends s (s.aerEvent e q ev) := by
  unfold State.aerEvent
  dsimp only
  split
  · exact .of_eq rfl
  · split
    · exact .aer _ _ _ _ _ _
    · split
      · exact .aer _ _ _ _ _ _
      · split
        · exact .aer _ _ _ _ _ _
        · exact .of_eq rfl

theorem Sends.logEv (s : State) (h : Nat) (e : Event) (d : Bool) : Sends s (s.logEv h e d) := by
  unfold State.logEv
  dsimp only
  refine Sends.trans ?_ (.aerEvent _ _ _ _)
  refine Sends.trans ?_ (.aerEvent _ _ _ _)
  refine Sends.trans ?_ (.aerEvent _ _ _ _)
  refine Sends.trans ?_ (.aerEvent _ _ _ _)
  refine Sends.trans ?_ (.of_eq (State.recEvent_part (pt := .out) _ _ _ _ _ rfl))
  exact .of_eq (State.errorLog_part (pt := .out) _ _ _ rfl)

theorem Sends.refuse (s : State) (h : Nat) (src : Agent) (pol : Nat) (sec : Bool) (a k : Nat) :
    Sends s (s.refuse h src pol sec a k) := by
  unfold State.refuse
  dsimp only
  split
  · split
    · split <;> exact .of_eq rfl
    · exact .of_eq rfl
  · split
    · exact .of_eq rfl
    · exact Sends.trans (s := s.bump .RGN_VIOL_COUNT (instH h 0) 1) (.of_eq rfl) (.logEv _ _ _ _)

theorem Sends.silence (s : State) (c : Cmd) : Sends s (s.silence c) := .refuse _ _ _ _ _ _ _

/-- Completing a command without bytes sends nothing. -/
theorem finish_out_nil (s : State) (c : Cmd) (r : CmdRes) (h : r.out = []) : (s.finish c r).out = s.out :=
  finish_nil s c r h (p := .out) (by decide)

end Sys2Proof.Machine
end

