-- ==== Sys2Proof/Laws/Cores.lean ====
section
/-! SUPPORT. What counting, retiring an instruction and taking an exception do to a core: one lemma per operation. -/

set_option Elab.async false
namespace Sys2Proof.Machine

/-- System register `n` is no counter and not CNT_OVF. -/
def NoCounter (n : Nat) : Prop := n < 0xC20 ∨ n = 0xC22 ∨ 0xC2C ≤ n

theorem Core.sysOf_setSys_ne (c : Core) {m n : Nat} (v : Word) (h : n ≠ m) : (c.setSys m v).sysOf n = c.sysOf n := by
  unfold Core.sysOf Core.setSys
  dsimp only
  rw [lookup_insert_ne _ _ h, lookup_erase_ne _ h]
@[simp] theorem Core.sysOf_setSys_self (c : Core) (m : Nat) (v : Word) : (c.setSys m v).sysOf m = v := by
  unfold Core.sysOf Core.setSys
  dsimp only
  rw [lookup_insert_self _ _ _ (Tbl.erase_no_key _ _)]

/-- From core `c` to `d` only counters, pending interrupts and samples changed, and pending interrupts only where a counter raises
one. -/
def CoreCounts (c d : Core) : Prop :=
  ∃ y l a b, d = { c with sys := y, pend := l, smpLeft := a, smpDue := b } ∧ (∀ n, NoCounter n → d.sysOf n = c.sysOf n) ∧
    (c.raises = false → l = c.pend)

theorem CoreCounts.refl (c : Core) : CoreCounts c c := ⟨_, _, _, _, rfl, fun _ _ => rfl, fun _ => rfl⟩
theorem CoreCounts.sysOf {c d : Core} (h : CoreCounts c d) {n : Nat} (hn : NoCounter n) : d.sysOf n = c.sysOf n := by
  obtain ⟨_, _, _, _, _, w, _⟩ := h; exact w n hn
theorem CoreCounts.raises {c d : Core} (h : CoreCounts c d) : d.raises = c.raises := by
  unfold Core.raises
  rw [show (fun i => bitOf (d.sysOf (0xC2C + i)).toNat 16) = fun i => bitOf (c.sysOf (0xC2C + i)).toNat 16 from
    funext fun i => by rw [h.sysOf (.inr (.inr (by omega)))]]
theorem CoreCounts.trans {c d e : Core} (h : CoreCounts c d) (k : CoreCounts d e) : CoreCounts c e := by
  have hr := h.raises
  obtain ⟨y, l, a, b, rfl, w, p⟩ := h
  obtain ⟨y', l', a', b', rfl, w', p'⟩ := k
  exact ⟨y', l', a', b', rfl, fun n hn => (w' n hn).trans (w n hn), fun hc => (p' (hr.trans hc)).trans (p hc)⟩
theorem CoreCounts.setSys (c : Core) {m : Nat} (v : Word) (h : ¬NoCounter m) : CoreCounts c (c.setSys m v) :=
  ⟨_, _, _, _, rfl, fun _ hn => Core.sysOf_setSys_ne _ _ fun e => h (e ▸ hn), fun _ => rfl⟩

/-- Every core is as it was but for what counting changes. -/
def OnlyCounts (s t : State) : Prop := ∀ k, CoreCounts (s.core k) (t.core k)

theorem OnlyCounts.of_core {s t : State} (h : ∀ k, t.core k = s.core k) : OnlyCounts s t := fun k => by rw [h k]; exact .refl _
theorem OnlyCounts.refl (s : State) : OnlyCounts s s := .of_core fun _ => rfl
theorem OnlyCounts.trans {r s t : State} (h : OnlyCounts r s) (h' : OnlyCounts s t) : OnlyCounts r t := fun k =>
  (h k).trans (h' k)
theorem OnlyCounts.updCore (s : State) (g : Nat) (f : Core → Core) (h : CoreCounts (s.core g) (f (s.core g))) :
    OnlyCounts s (s.updCore g f) := fun k => by
  by_cases e : k = g
  · rw [e, State.core_updCore_self]; exact h
  · rw [State.core_updCore_ne _ _ e]; exact .refl _

theorem State.countOne_counts (s : State) (g i ev n : Nat) (hi : i < 8) : OnlyCounts s (s.countOne g i ev n) := by
  unfold State.countOne
  dsimp only
  split
  · have h0 := OnlyCounts.updCore s g (fun c => c.setSys (0xC24 + i)
      (BitVec.ofNat 64 ((((s.core g).sysOf (0xC24 + i)).toNat + n) % 2 ^ 48))) (.setSys _ _ (by unfold NoCounter; omega))
    split
    · exact h0
    · have h1 := h0.trans (.updCore _ g (fun c => c.setSys 0xC23 (c.sysOf 0xC23 ||| BitVec.ofNat 64 (2 ^ i)))
        (.setSys _ _ (by unfold NoCounter; omega)))
      split
      · rename_i hs
        refine h1.trans (.updCore _ g _ ⟨_, _, _, _, rfl, fun _ _ => rfl, fun hr => absurd ?_ (by simp : ¬(false = true))⟩)
        rw [← hr, (h1 g).raises]
        exact List.any_eq_true.2 ⟨i, List.mem_range.2 hi, hs⟩
      · exact h1
  · exact .refl _

theorem State.countCore_counts (s : State) (g ev n : Nat) : OnlyCounts s (s.countCore g ev n) := by
  unfold State.countCore
  have h : ∀ (l : List Nat) (s : State), (∀ i ∈ l, i < 8) → OnlyCounts s (l.foldl (fun s i => s.countOne g i ev n) s) := by
    intro l
    induction l with
    | nil => exact fun s _ => .refl s
    | cons a l ih =>
      exact fun s h => (s.countOne_counts g a ev n (h a List.mem_cons_self)).trans (ih _ fun i hi => h i (List.mem_cons_of_mem _ hi))
  exact h _ s (by decide)

theorem State.countFixed_counts (s : State) (g num bit n : Nat) (h : ¬NoCounter num) : OnlyCounts s (s.countFixed g num bit n) := by
  unfold State.countFixed
  dsimp only
  split
  · have h0 := OnlyCounts.updCore s g (fun c => c.setSys num (BitVec.ofNat 64 (((s.core g).sysOf num).toNat + n))) (.setSys _ _ h)
    split
    · exact h0
    · exact h0.trans (.updCore _ g (fun c => c.setSys 0xC23 (c.sysOf 0xC23 ||| BitVec.ofNat 64 (2 ^ bit)))
        (.setSys _ _ (by unfold NoCounter; omega)))
  · exact .refl _

theorem State.smpRetired_counts (s : State) (g : Nat) : OnlyCounts s (s.smpRetired g) := by
  unfold State.smpRetired
  dsimp only
  split
  · exact .refl _
  · refine OnlyCounts.trans (s := if (s.core g).smpLeft = 0 then s.drawn else s) (.of_core fun k => ?_)
      (.updCore _ g _ ⟨_, _, _, _, rfl, fun _ _ => rfl, fun _ => rfl⟩)
    split <;> rfl

theorem State.countRetired_counts (s : State) (g : Nat) : OnlyCounts s (s.countRetired g) :=
  (((s.smpRetired_counts g).trans (State.countFixed_counts _ g 0xC21 9 1 (by unfold NoCounter; omega))).trans
    (State.countCore_counts _ g 0x002 1)).trans (State.countCore_counts _ g 0x003 1)

section
variable {s u : State} (h : OnlyCounts s u) (k : Nat)
include h
theorem OnlyCounts.gpr : (u.core k).gpr = (s.core k).gpr := by obtain ⟨_, _, _, _, e, _⟩ := h k; rw [e]
theorem OnlyCounts.vr : (u.core k).vr = (s.core k).vr := by obtain ⟨_, _, _, _, e, _⟩ := h k; rw [e]
theorem OnlyCounts.pc : (u.core k).pc = (s.core k).pc := by obtain ⟨_, _, _, _, e, _⟩ := h k; rw [e]
theorem OnlyCounts.level : (u.core k).level = (s.core k).level := by obtain ⟨_, _, _, _, e, _⟩ := h k; rw [e]
theorem OnlyCounts.sec : (u.core k).sec = (s.core k).sec := by obtain ⟨_, _, _, _, e, _⟩ := h k; rw [e]
theorem OnlyCounts.serv : (u.core k).serv = (s.core k).serv := by obtain ⟨_, _, _, _, e, _⟩ := h k; rw [e]
theorem OnlyCounts.pow : (u.core k).pow = (s.core k).pow := by obtain ⟨_, _, _, _, e, _⟩ := h k; rw [e]
theorem OnlyCounts.pol : (u.core k).pol = (s.core k).pol := by obtain ⟨_, _, _, _, e, _⟩ := h k; rw [e]
theorem OnlyCounts.lcpu : (u.core k).lcpu = (s.core k).lcpu := by obtain ⟨_, _, _, _, e, _⟩ := h k; rw [e]
theorem OnlyCounts.started : (u.core k).started = (s.core k).started := by obtain ⟨_, _, _, _, e, _⟩ := h k; rw [e]
theorem OnlyCounts.t : (u.core k).t = (s.core k).t := by obtain ⟨_, _, _, _, e, _⟩ := h k; rw [e]
theorem OnlyCounts.l2 : (u.core k).l2 = (s.core k).l2 := by obtain ⟨_, _, _, _, e, _⟩ := h k; rw [e]
theorem OnlyCounts.mb : (u.core k).mb = (s.core k).mb := by obtain ⟨_, _, _, _, e, _⟩ := h k; rw [e]
theorem OnlyCounts.miss : (u.core k).miss = (s.core k).miss := by obtain ⟨_, _, _, _, e, _⟩ := h k; rw [e]
theorem OnlyCounts.tlb : (u.core k).tlb = (s.core k).tlb := by obtain ⟨_, _, _, _, e, _⟩ := h k; rw [e]
theorem OnlyCounts.flight : (u.core k).flight = (s.core k).flight := by obtain ⟨_, _, _, _, e, _⟩ := h k; rw [e]
theorem OnlyCounts.wbs : (u.core k).wbs = (s.core k).wbs := by obtain ⟨_, _, _, _, e, _⟩ := h k; rw [e]
theorem OnlyCounts.tlbiPend : (u.core k).tlbiPend = (s.core k).tlbiPend := by obtain ⟨_, _, _, _, e, _⟩ := h k; rw [e]
theorem OnlyCounts.save : (u.core k).save = (s.core k).save := by obtain ⟨_, _, _, _, e, _⟩ := h k; rw [e]
theorem OnlyCounts.gprOf (r : Nat) : (u.core k).gprOf r = (s.core k).gprOf r := by unfold Core.gprOf; rw [h.gpr]
end

section
variable (s : State) (g ev n k : Nat)
@[simp] theorem State.countCore_core_gpr : ((s.countCore g ev n).core k).gpr = (s.core k).gpr := (s.countCore_counts g ev n).gpr k
@[simp] theorem State.countCore_core_vr : ((s.countCore g ev n).core k).vr = (s.core k).vr := (s.countCore_counts g ev n).vr k
@[simp] theorem State.countCore_core_pc : ((s.countCore g ev n).core k).pc = (s.core k).pc := (s.countCore_counts g ev n).pc k
@[simp] theorem State.countCore_core_level : ((s.countCore g ev n).core k).level = (s.core k).level := (s.countCore_counts g ev n).level k
@[simp] theorem State.countCore_core_sec : ((s.countCore g ev n).core k).sec = (s.core k).sec := (s.countCore_counts g ev n).sec k
@[simp] theorem State.countCore_core_serv : ((s.countCore g ev n).core k).serv = (s.core k).serv := (s.countCore_counts g ev n).serv k
@[simp] theorem State.countCore_core_pow : ((s.countCore g ev n).core k).pow = (s.core k).pow := (s.countCore_counts g ev n).pow k
@[simp] theorem State.countCore_core_pol : ((s.countCore g ev n).core k).pol = (s.core k).pol := (s.countCore_counts g ev n).pol k
@[simp] theorem State.countCore_core_lcpu : ((s.countCore g ev n).core k).lcpu = (s.core k).lcpu := (s.countCore_counts g ev n).lcpu k
@[simp] theorem State.countCore_core_started : ((s.countCore g ev n).core k).started = (s.core k).started := (s.countCore_counts g ev n).started k
@[simp] theorem State.countCore_core_t : ((s.countCore g ev n).core k).t = (s.core k).t := (s.countCore_counts g ev n).t k
@[simp] theorem State.countCore_core_l2 : ((s.countCore g ev n).core k).l2 = (s.core k).l2 := (s.countCore_counts g ev n).l2 k
@[simp] theorem State.countCore_core_mb : ((s.countCore g ev n).core k).mb = (s.core k).mb := (s.countCore_counts g ev n).mb k
@[simp] theorem State.countCore_core_miss : ((s.countCore g ev n).core k).miss = (s.core k).miss := (s.countCore_counts g ev n).miss k
@[simp] theorem State.countCore_core_tlb : ((s.countCore g ev n).core k).tlb = (s.core k).tlb := (s.countCore_counts g ev n).tlb k
@[simp] theorem State.countCore_core_flight : ((s.countCore g ev n).core k).flight = (s.core k).flight := (s.countCore_counts g ev n).flight k
@[simp] theorem State.countCore_core_wbs : ((s.countCore g ev n).core k).wbs = (s.core k).wbs := (s.countCore_counts g ev n).wbs k
@[simp] theorem State.countCore_core_tlbiPend : ((s.countCore g ev n).core k).tlbiPend = (s.core k).tlbiPend := (s.countCore_counts g ev n).tlbiPend k
@[simp] theorem State.countCore_core_save : ((s.countCore g ev n).core k).save = (s.core k).save := (s.countCore_counts g ev n).save k
@[simp] theorem State.countCore_core_gprOf (r : Nat) : ((s.countCore g ev n).core k).gprOf r = (s.core k).gprOf r :=
  (s.countCore_counts g ev n).gprOf k r
theorem State.countCore_core_sysOf {m : Nat} (h : NoCounter m) : ((s.countCore g ev n).core k).sysOf m = (s.core k).sysOf m :=
  (s.countCore_counts g ev n k).sysOf h
end

section
variable (s : State) (g : Nat)

/-- Where nothing may interrupt, no interrupt is admitted. -/
theorem State.admits_calm (h : s.calm g = true) : s.admits g = false := by
  simp only [State.calm, Bool.or_eq_true, Bool.not_eq_true', Bool.and_eq_true] at h
  unfold State.admits
  rcases h with (h | h) | h <;> simp [h]

theorem CoreCounts.calm {s t : State} (h : CoreCounts (s.core g) (t.core g)) (k : s.calm g = true) : t.calm g = true := by
  have hr := h.raises
  have hi : (t.core g).intEnabled = (s.core g).intEnabled := by
    unfold Core.intEnabled
    rw [h.sysOf (.inl (by omega))]
    obtain ⟨_, _, _, _, e, _⟩ := h; rw [e]
  obtain ⟨_, l, _, _, e, _, p⟩ := h
  unfold State.calm at k ⊢
  rw [hi, hr, e]
  cases hc : (s.core g).raises
  · rw [hc] at k; rw [p hc]; exact k
  · rw [hc] at k; simpa using k

/-- An instruction that retires undisturbed: the counters count, the PC goes to `pc`, the time is noted, and nothing else of its core
changes. -/
theorem State.retireTo_core (pc : Word) (h : s.calm g = true) : ∃ d, CoreCounts (s.core g) d ∧
    (s.retireTo g pc).core g = { d with pc := pc, t := { d.t with lastRetire := s.now } } := by
  have hc := s.countRetired_counts g g
  refine ⟨_, hc, ?_⟩
  unfold State.retireTo State.admitInt
  dsimp only
  rw [State.admits_calm]
  · rw [if_neg Bool.false_ne_true]; exact State.core_updCore_self _ _ _
  · have := CoreCounts.calm g hc h
    unfold State.calm at this ⊢
    rw [State.core_updCore_self]
    exact this
theorem State.retire_core (h : s.calm g = true) : ∃ d, CoreCounts (s.core g) d ∧
    (s.retire g).core g = { d with pc := (s.core g).pc + 4, t := { d.t with lastRetire := s.now } } := s.retireTo_core g _ h
theorem State.retire_core_pc (h : s.calm g = true) : ((s.retire g).core g).pc = (s.core g).pc + 4 := by
  obtain ⟨_, _, e⟩ := s.retire_core g h; rw [e]
theorem State.retire_core_t (h : s.calm g = true) : ((s.retire g).core g).t = { (s.core g).t with lastRetire := s.now } := by
  obtain ⟨_, ⟨_, _, _, _, d, _⟩, e⟩ := s.retire_core g h; rw [e, d]
theorem State.retire_core_sysOf (h : s.calm g = true) {m : Nat} (hm : NoCounter m) :
    ((s.retire g).core g).sysOf m = (s.core g).sysOf m := by
  obtain ⟨_, d, e⟩ := s.retire_core g h; rw [e]; exact d.sysOf hm
theorem State.retire_core_gpr (h : s.calm g = true) : ((s.retire g).core g).gpr = (s.core g).gpr := by
  obtain ⟨_, ⟨_, _, _, _, d, _⟩, e⟩ := s.retire_core g h; rw [e, d]
theorem State.retire_core_vr (h : s.calm g = true) : ((s.retire g).core g).vr = (s.core g).vr := by
  obtain ⟨_, ⟨_, _, _, _, d, _⟩, e⟩ := s.retire_core g h; rw [e, d]
theorem State.retire_core_level (h : s.calm g = true) : ((s.retire g).core g).level = (s.core g).level := by
  obtain ⟨_, ⟨_, _, _, _, d, _⟩, e⟩ := s.retire_core g h; rw [e, d]
theorem State.retire_core_sec (h : s.calm g = true) : ((s.retire g).core g).sec = (s.core g).sec := by
  obtain ⟨_, ⟨_, _, _, _, d, _⟩, e⟩ := s.retire_core g h; rw [e, d]
theorem State.retire_core_serv (h : s.calm g = true) : ((s.retire g).core g).serv = (s.core g).serv := by
  obtain ⟨_, ⟨_, _, _, _, d, _⟩, e⟩ := s.retire_core g h; rw [e, d]
theorem State.retire_core_pow (h : s.calm g = true) : ((s.retire g).core g).pow = (s.core g).pow := by
  obtain ⟨_, ⟨_, _, _, _, d, _⟩, e⟩ := s.retire_core g h; rw [e, d]
theorem State.retire_core_pol (h : s.calm g = true) : ((s.retire g).core g).pol = (s.core g).pol := by
  obtain ⟨_, ⟨_, _, _, _, d, _⟩, e⟩ := s.retire_core g h; rw [e, d]
theorem State.retire_core_lcpu (h : s.calm g = true) : ((s.retire g).core g).lcpu = (s.core g).lcpu := by
  obtain ⟨_, ⟨_, _, _, _, d, _⟩, e⟩ := s.retire_core g h; rw [e, d]
theorem State.retire_core_started (h : s.calm g = true) : ((s.retire g).core g).started = (s.core g).started := by
  obtain ⟨_, ⟨_, _, _, _, d, _⟩, e⟩ := s.retire_core g h; rw [e, d]
theorem State.retire_core_l2 (h : s.calm g = true) : ((s.retire g).core g).l2 = (s.core g).l2 := by
  obtain ⟨_, ⟨_, _, _, _, d, _⟩, e⟩ := s.retire_core g h; rw [e, d]
theorem State.retire_core_mb (h : s.calm g = true) : ((s.retire g).core g).mb = (s.core g).mb := by
  obtain ⟨_, ⟨_, _, _, _, d, _⟩, e⟩ := s.retire_core g h; rw [e, d]
theorem State.retire_core_miss (h : s.calm g = true) : ((s.retire g).core g).miss = (s.core g).miss := by
  obtain ⟨_, ⟨_, _, _, _, d, _⟩, e⟩ := s.retire_core g h; rw [e, d]
theorem State.retire_core_tlb (h : s.calm g = true) : ((s.retire g).core g).tlb = (s.core g).tlb := by
  obtain ⟨_, ⟨_, _, _, _, d, _⟩, e⟩ := s.retire_core g h; rw [e, d]
theorem State.retire_core_flight (h : s.calm g = true) : ((s.retire g).core g).flight = (s.core g).flight := by
  obtain ⟨_, ⟨_, _, _, _, d, _⟩, e⟩ := s.retire_core g h; rw [e, d]
theorem State.retire_core_wbs (h : s.calm g = true) : ((s.retire g).core g).wbs = (s.core g).wbs := by
  obtain ⟨_, ⟨_, _, _, _, d, _⟩, e⟩ := s.retire_core g h; rw [e, d]
theorem State.retire_core_tlbiPend (h : s.calm g = true) : ((s.retire g).core g).tlbiPend = (s.core g).tlbiPend := by
  obtain ⟨_, ⟨_, _, _, _, d, _⟩, e⟩ := s.retire_core g h; rw [e, d]
theorem State.retire_core_save (h : s.calm g = true) : ((s.retire g).core g).save = (s.core g).save := by
  obtain ⟨_, ⟨_, _, _, _, d, _⟩, e⟩ := s.retire_core g h; rw [e, d]
theorem State.retire_core_gprOf (h : s.calm g = true) (r : Nat) : ((s.retire g).core g).gprOf r = (s.core g).gprOf r := by
  unfold Core.gprOf; rw [s.retire_core_gpr g h]

/-- Exception entry (R144, R145, R150): what the taking level's bank, the level, the world bit and the PC become. -/
theorem State.takeExc_core (e : Exc) (r : Word) (h : e.level < 4) :
    ((s.takeExc g e r).core g).level = e.level ∧
    ((s.takeExc g e r).core g).sec = (if e.level = 3 then true else (s.core g).sec) ∧
    ((s.takeExc g e r).core g).pc =
      ((s.core g).sysOf (bankReg e.level 4) &&& ~~~(0xFFF : Word)) + BitVec.ofNat 64 (vecOffset e (s.core g).level) ∧
    ((s.takeExc g e r).core g).sysOf (bankReg e.level 1) = r ∧
    ((s.takeExc g e r).core g).sysOf (bankReg e.level 0) = BitVec.ofNat 64 ((s.core g).level + b2n (s.core g).sec * 4) ∧
    ((s.takeExc g e r).core g).sysOf (bankReg e.level 2) =
      BitVec.ofNat 64 (xsynOf e (s.core g).t.isOpen ((s.core g).t.isOpen && s.coreGuarded g)) ∧
    ((s.takeExc g e r).core g).gpr = (s.core g).gpr ∧ ((s.takeExc g e r).core g).t = (s.core g).t := by
  have hb : bankReg e.level 1 < 0xC20 ∧ bankReg e.level 0 < 0xC20 ∧ bankReg e.level 2 < 0xC20 ∧
      bankReg e.level 0 ≠ bankReg e.level 1 ∧ bankReg e.level 1 ≠ bankReg e.level 2 ∧ bankReg e.level 0 ≠ bankReg e.level 2 ∧
      bankReg e.level 0 ≠ bankReg e.level 3 ∧ bankReg e.level 1 ≠ bankReg e.level 3 ∧ bankReg e.level 2 ≠ bankReg e.level 3 ∧
      bankReg e.level 4 ≠ bankReg e.level 0 ∧ bankReg e.level 4 ≠ bankReg e.level 1 ∧ bankReg e.level 4 ≠ bankReg e.level 2 ∧
      bankReg e.level 4 ≠ bankReg e.level 3 := by unfold bankReg; omega
  obtain ⟨h1, h0, h2, h01, h12, h02, h03, h13, h23, h40, h41, h42, h43⟩ := hb
  have key : ∀ (c : Core) (l : Nat) (w : Bool) (p : Word) (n : Nat),
      Core.sysOf { c with level := l, sec := w, pc := p } n = c.sysOf n := fun _ _ _ _ _ => rfl
  have hs : ∀ (c : Core) (n : Nat), c.squash.sysOf n = c.sysOf n := fun _ _ => rfl
  unfold State.takeExc
  dsimp only
  refine ⟨?_, ?_, ?_, ?_, ?_, ?_, ?_, ?_⟩
  all_goals first
    | rw [State.countCore_core_sysOf _ _ _ _ _ (.inl (by omega))]
    | rw [State.countCore_core_level]
    | rw [State.countCore_core_sec]
    | rw [State.countCore_core_pc]
    | rw [State.countCore_core_gpr]
    | rw [State.countCore_core_t]
  all_goals rw [State.core_updCore_self]
  all_goals try rw [key]
  all_goals by_cases hc : (decide (e.cls = 0x08) || decide (e.cls = 0x09) || decide (e.cls = 0x0A) ||
    decide (e.cls = 0x0B) || decide (e.cls = 0x10) || decide (e.cls = 0x1C)) = true
  all_goals simp only [hc, hs, if_true, if_false, Bool.false_eq_true, Core.sysOf_setSys_self, Core.sysOf_setSys_ne _ _ h01,
    Core.sysOf_setSys_ne _ _ h12, Core.sysOf_setSys_ne _ _ h02, Core.sysOf_setSys_ne _ _ h03, Core.sysOf_setSys_ne _ _ h13,
    Core.sysOf_setSys_ne _ _ h23, Core.sysOf_setSys_ne _ _ h40, Core.sysOf_setSys_ne _ _ h41, Core.sysOf_setSys_ne _ _ h42,
    Core.sysOf_setSys_ne _ _ h43, Core.sysOf_setSys_ne _ _ h01.symm]
  all_goals rfl
end

/-- The word of an added instruction runs as `f` says on a core that can run it. -/
theorem State.addedIf_ok {s : State} {g func : Nat} {w : BitVec 32} (sub : Option Nat) (f : State → State)
    (h : s.wordOk g func w = true) (hs : ∀ n, sub = some n → wordSub w = n) : s.addedIf true g func sub w f = f s := by
  unfold State.wordOk at h
  simp only [Bool.and_eq_true, beq_iff_eq] at h
  obtain ⟨⟨h1, h2⟩, h3⟩ := h
  unfold State.addedIf
  rw [h2]
  cases hr : addedRow func with
  | none => rw [hr] at h3; simp at h3
  | some r =>
    rw [hr] at h3
    simp only [Option.any_some, Bool.and_eq_true, decide_eq_true_eq] at h3
    have hsub : sub.any (· != wordSub w) = false := by
      cases sub with
      | none => rfl
      | some n => simp [hs n rfl]
    simp [h1, h3.1, hsub, Nat.not_lt.mpr h3.2]
theorem State.added_ok {s : State} {g func : Nat} {w : BitVec 32} (f : State → State) (hc : s.canRun g = true)
    (h : s.wordOk g func w = true) : s.added g func w f = f s := by
  unfold State.added
  rw [hc]
  exact State.addedIf_ok none f h fun _ h => nomatch h

end Sys2Proof.Machine
end

