-- ==== Sys2Proof/Laws/Frames.lean ====
section
/-! SUPPORT. From what an operation keeps to its frame: `Keeps` over the masks of a list of parts and a list of fields gives
`Changes` over the lists. -/

set_option Elab.async false
namespace Sys2Proof.Machine

/-- The masks of lists of parts and of fields. -/
def partMask : List Part → Nat
  | [] => 0
  | p :: ps => Nat.lor p.mask (partMask ps)
def fldMask : List Fld → Nat
  | [] => 0
  | f :: fs => Nat.lor f.mask (fldMask fs)

theorem Part.ctorIdx_inj {p q : Part} (h : p.ctorIdx = q.ctorIdx) : p = q := by cases p <;> cases q <;> first | rfl | (exact absurd h (by decide))

theorem partMask_testBit {p : Part} : ∀ {ps : List Part}, p ∉ ps → (partMask ps).testBit p.ctorIdx = false
  | [], _ => Nat.zero_testBit _
  | q :: ps, h => by
    have e : (partMask (q :: ps)).testBit p.ctorIdx = (q.mask.testBit p.ctorIdx || (partMask ps).testBit p.ctorIdx) :=
      Nat.testBit_or _ _ _
    rw [e, partMask_testBit fun hp => h (List.mem_cons_of_mem _ hp), Part.mask, Nat.testBit_two_pow]
    simp only [Bool.or_false, decide_eq_false_iff_not]
    exact fun hq => h (Part.ctorIdx_inj hq ▸ List.mem_cons_self)

theorem fldMask_testBit {f : Fld} : ∀ {fs : List Fld}, f ∉ fs → (fldMask fs).testBit f.ctorIdx = false
  | [], _ => Nat.zero_testBit _
  | g :: fs, h => by
    have e : (fldMask (g :: fs)).testBit f.ctorIdx = (g.mask.testBit f.ctorIdx || (fldMask fs).testBit f.ctorIdx) :=
      Nat.testBit_or _ _ _
    rw [e, fldMask_testBit fun hf => h (List.mem_cons_of_mem _ hf), Fld.mask, Nat.testBit_two_pow]
    simp only [Bool.or_false, decide_eq_false_iff_not]
    exact fun hg => h (Fld.ctorIdx_inj hg ▸ List.mem_cons_self)

/-- What is kept outside the masks of two lists is a frame over the lists. -/
theorem Keeps.changes {ps : List Part} {fs : List Fld} {s t : State} (h : Keeps (partMask ps) (fldMask fs) s t) :
    Changes ps fs s t :=
  ⟨fun p hp => h.part p (partMask_testBit hp), fun f i hf => h.reg f i (fldMask_testBit hf), h.pending⟩

theorem Keeps.changesParts {ps : List Part} {w : Nat} {s t : State} (h : Keeps (partMask ps) w s t) : ChangesParts ps s t :=
  ⟨fun p hp => h.part p (partMask_testBit hp), h.pending⟩

/-- The same from the outcome of a command. -/
theorem Keeps.Res.changes {ps : List Part} {fs : List Fld} {s t : State} {o : Host.Outcome State Fault Refusal}
    (h : Keeps.Res (partMask ps) (fldMask fs) s o) (e : o = .next t) : Changes ps fs s t := by
  subst e; exact Keeps.changes h

theorem Keeps.Res.changesParts {ps : List Part} {w : Nat} {s t : State} {o : Host.Outcome State Fault Refusal}
    (h : Keeps.Res (partMask ps) w s o) (e : o = .next t) : ChangesParts ps s t := by
  subst e; exact Keeps.changesParts h

end Sys2Proof.Machine
end

