-- ==== Sys2Proof/Tests/Slice0.lean ====
section
/-! SUPPORT. The model's own tests: each check of WellFormed refuses an ill-formed term, single effects with values worked out from
spec/, and for every clause of the statements that has hypotheses a state and operands that meet all of them. -/
set_option Elab.async false
set_option linter.unusedVariables false

namespace Sys2Proof.Tests
open Sys2Proof Sys2Proof.Machine

/-! ### States and operands -/

/-- Start-upS is complete. -/
def upS : State := State.reset.put .PM_PKG_PHASE 0 7

/-- Fields set one after another. -/
def sets (s : State) (l : List (Fld × Nat × Nat)) : State := l.foldl (fun s x => s.put x.1 x.2.1 x.2.2) s

/-- A submission entry without a buffer, of CID 7, and one whose buffer is `n` bytes at `a` in space `sp`. -/
def ent (op pol p0 p1 : Nat) : Entry :=
  ⟨BitVec.ofNat 64 (op + pol * 2 ^ 48 + 7 * 2 ^ 32), 0, 0, 0, 0, 0, BitVec.ofNat 64 p0, BitVec.ofNat 64 p1⟩
def entB (op pol p0 p1 a n sp : Nat) : Entry :=
  ⟨BitVec.ofNat 64 (op + 256 + pol * 2 ^ 48 + 7 * 2 ^ 32), 0, BitVec.ofNat 64 a, BitVec.ofNat 64 (n + sp * 2 ^ 32), 0, 0,
    BitVec.ofNat 64 p0, BitVec.ofNat 64 p1⟩

/-- A command of the sideband, one with a buffer, and one of a polder's mailbox set. -/
def sbc (op pol p0 p1 : Nat) : Cmd := ⟨.sideband, 0, ent op pol p0 p1, [], []⟩
def sbb (op pol p0 p1 n : Nat) (bs : List Byte) : Cmd := ⟨.sideband, 0, entB op pol p0 p1 0 n 2, [], bs⟩
def mbc (p : Pol) (op pol p0 p1 : Nat) : Cmd := ⟨.mailbox p, 0, ent op pol p0 p1, [], []⟩

/-- A queue and a completion queue of endpoint 0. -/
def sq0 : Sq := ⟨0x10000, 16, 0, 0, 0, 0, false, none, none, []⟩
def cq0 : Cq := ⟨0x20000, 16, 0, false, 0, 0, true⟩

/-- Polder 1 with a descriptor word: bit 0 secure, 1 guarded, 2 tick-bound, 3 fast clock. -/
def pold (w : Word) : Polder := { Polder.empty with word0 := w }
def upP (w : Word) : State := upS.setPolder 1 (some (pold w))

/-- The secure hub agent that reaches the control registers. -/
def hub : Acc := ⟨0, true, .hubAgent 0⟩

/-- A core that runs: in polder 0, and logical CPU 0 of polder 1 with a descriptor word. -/
def onCore (s : State) (g : Nat) : State := s.updCore g fun c => { c with pow := 0, started := true, pc := 0x1000 }
def run (g : Nat) : State := onCore upS g
def runP (g : Nat) (w : Word) : State :=
  (onCore (upS.setPolder 1 (some { pold w with lcpus := [some g] })) g).updCore g fun c =>
    { c with pol := 1, level := if w.getLsbD 0 then 3 else 2, sec := w.getLsbD 0 }

/-- The same with the core's state changed, or its tick side. -/
def withC (s : State) (g : Nat) (f : Core → Core) : State := s.updCore g f
def withT (s : State) (g : Nat) (f : CoreTick → CoreTick) : State := s.updTick g f

/-- A guarded tick-bound polder 1 whose core has an open, durable tick. -/
def gOpen (g : Nat) : State :=
  withT (runP g 6) g fun t => { t with isOpen := true, durable := true, first := false, cur := { TickMsg.none with num := 4 } }

/-- The same with a region entry that admits every polder to all of memory. -/
def openRgn (s : State) : State :=
  sets s [(.RGN_LO_VALID, 0, 1), (.RGN_HI_LIMIT, 0, 0x3FFFFFF), (.RGN_RD_MASK, 0, 0xFFFFFFFF), (.RGN_WR_MASK, 0, 0xFFFFFFFF),
    (.MEM_SIZE_BLOCKS, 0, 0x10000)]

/-- A core's registers set. -/
def gpr (s : State) (g : Nat) (l : List (Nat × Word)) : State := s.updCore g fun c => { c with gpr := l }
def sysr (s : State) (g : Nat) (l : List (Nat × Word)) : State := s.updCore g fun c => { c with sys := l }
def atLevel (s : State) (g l : Nat) : State := s.updCore g fun c => { c with level := l }

/-- Endpoint 0 out of reset with memory and bus-master enable, and trained. -/
def epUp : State :=
  (sets (upS.updPe 0 fun p => { p with perst := false }) [(.PE_STAT_READY, instPe 0, 1), (.PE_STAT_LINK, instPe 0, 1)]).cfgStore 0 4 6

/-- A secure message of polder 0 about a line, with its A and B fields. -/
def msg (ty : MsgTy) (src dst : BitVec 12) (a : BitVec 12) (la : LineAddr) (b : BitVec 18) : Msg :=
  ⟨ty, src, dst, 3, 0, 0, true, a, la, b, 0xFFFFFFFFFFFFFFFF, 0xFEDCBA9876543210⟩

/-- A home with an entry or a tracker of a line, and a core with a line in its L2. -/
def mem : State := openRgn upS
def dEnt (m : Bool) (pres g : Nat) : DirEnt := ⟨m, pres, g, 0⟩
def withE (s : State) (h la : Nat) (e : DirEnt) : State := s.setDirEnt h la (some e)
def trk (la : Nat) (st : TrSt) (r : Option Msg) (cnt : Nat) : Trk := ⟨9, la, st, r, 0, cnt, false, false, false, .recall, [], none, false, []⟩
def withK (s : State) (h : Nat) (k : Trk) : State := s.updDir h fun d => { d with trks := [k] }
def line (m dirty td : Bool) : CLine := ⟨0x123456789ABCDEF0, m, dirty, td, 1, false, 0⟩
def withL (s : State) (g la : Nat) (l : CLine) : State := s.updCore g fun c => { c with l2 := [(la, some l)] }
def withD (s : State) (d la : Nat) (l : CLine) : State := s.updDie d fun x => { x with dc := [(la, some l)] }

/-- A memory channel's state, a sub-channel changed, and the Guarded configuration. -/
def chS (ch st : Nat) : State := sets mem [(.MC_STAT_STATE, instCh ch, st)]
def withS (s : State) (ch sc : Nat) (f : McSub → McSub) : State := s.updSub ch sc f
def withM (s : State) (ch : Nat) (f : Mc → Mc) : State := s.updMc ch f
def gd (s : State) : State := s.put .PKG_ID_GUARDED 0 1
def rd0 (ty : MsgTy) : McRd := ⟨msg ty 0x105 0xC10 5 0x40 7, 127, 0x1FFFF, 0, 0, false⟩

/-- An added instruction's word: FUNC, SUB, RD, RS1, RS2. -/
def wrd (func sub rd rs1 rs2 : Nat) : BitVec 32 :=
  BitVec.ofNat 32 (0xEC000000 + rd * 2 ^ 21 + rs1 * 2 ^ 16 + rs2 * 2 ^ 11 + sub * 64 + func)

/-- A message on its way. -/
def arr (m : Msg) (s : State) : State := { s with fabric := s.fabric ++ [m] }

/-! ### Well-formedness: every check refuses an ill-formed term and admits a well-formed one -/

/-- The commands that are opcodes and features of one packet. -/
def opRows (c : Cmd) : List Instr :=
  ([.identify c, .getLog c, .getFeature c, .setFeature c, .queueCreate c, .queueDelete c] : List Instr)
  ++ ([.fwDownload c, .fwCommitStage c, .fwCommitNextReset c, .fwCommitLive c, .configWrite c, .configRead c] : List Instr)
  ++ ([.polderCreate c, .polderDelete c, .polderAttach c, .polderDetach c, .tickConfigure c, .triggerProgram c] : List Instr)
  ++ ([.jnsCreate c, .jnsDelete c, .journalWrite c, .journalRead c, .recorderExportKeep c, .recorderExportBuffer c] : List Instr)
  ++ ([.bermRetire c, .bermBringIn c, .cascadeJoin c, .cascadeLeave c, .headBind c, .headUnbind c] : List Instr)
  ++ ([.windowCommit c, .statusRead c, .tickQuery c, .ptimeQuery c, .recorderFreeze c, .recorderUnfreeze c] : List Instr)
  ++ ([.powerVote c, .triggerArm c, .triggerDisarm c, .headPresence c, .setWrrWeights c, .setTrigCfg c] : List Instr)
  ++ ([.setGdCtl c, .setEntryPoint c, .setHpCfg c, .setCsTbind c, .setSendRing c, .setRelay c] : List Instr)
  ++ ([.setCntDump c] : List Instr)

theorem test_wf_refuses_an_opcode_of_no_row : (opRows (sbc 0xFF 0 0 0)).all (fun i => !i.wf) = true := by decide +kernel

/-- One well-formed packet for each. -/
def goodRows : List Instr :=
  ([.identify (sbc 0x01 0 0 0), .getLog (sbc 0x02 0 0 0), .getFeature (sbc 0x03 0 0 0), .setFeature (sbc 0x04 0 16 0)] : List Instr)
  ++ ([.queueCreate (sbc 0x05 0 0 0), .queueDelete (sbc 0x06 0 0 0), .fwDownload (sbc 0x08 0 0 0), .fwCommitStage (sbc 0x09 0 0 0)] : List Instr)
  ++ ([.fwCommitNextReset (sbc 0x09 0 1 0), .fwCommitLive (sbc 0x09 0 2 0), .configWrite (sbc 0x0A 0 0 0), .configRead (sbc 0x0B 0 0 0)] : List Instr)
  ++ ([.polderCreate (sbc 0x10 0 0 0), .polderDelete (sbc 0x11 0 0 0), .polderAttach (sbc 0x12 0 0 0), .polderDetach (sbc 0x13 0 0 0)] : List Instr)
  ++ ([.tickConfigure (sbc 0x18 0 0 0), .triggerProgram (sbc 0x19 0 0 0), .jnsCreate (sbc 0x20 0 0 0), .jnsDelete (sbc 0x21 0 0 0)] : List Instr)
  ++ ([.journalWrite (sbc 0x22 0 0 0), .journalRead (sbc 0x23 0 0 0), .recorderExportKeep (sbc 0x28 0 2 0), .recorderExportBuffer (sbc 0x28 0 0 0)] : List Instr)
  ++ ([.bermRetire (sbc 0x30 0 0 0), .bermBringIn (sbc 0x31 0 0 0), .cascadeJoin (sbc 0x38 0 0 0), .cascadeLeave (sbc 0x39 0 0 0)] : List Instr)
  ++ ([.headBind (sbc 0x3C 0 0 0), .headUnbind (sbc 0x3D 0 0 0), .windowCommit (sbc 0x40 0 0 0), .statusRead (sbc 0x60 0 0 0)] : List Instr)
  ++ ([.tickQuery (sbc 0x61 0 0 0), .ptimeQuery (sbc 0x62 0 0 0), .recorderFreeze (sbc 0x63 0 0 0), .recorderUnfreeze (sbc 0x64 0 0 0)] : List Instr)
  ++ ([.powerVote (sbc 0x65 0 0 0), .triggerArm (sbc 0x66 0 0 0), .triggerDisarm (sbc 0x67 0 0 0), .headPresence (sbc 0x68 0 0 0)] : List Instr)
  ++ ([.setWrrWeights (sbc 0x04 0 0x1 0), .setTrigCfg (sbc 0x04 0 0x11F 0), .setGdCtl (sbc 0x04 0 0x21F 0), .setEntryPoint (sbc 0x04 0 0x31F 0)] : List Instr)
  ++ ([.setHpCfg (sbc 0x04 0 0x40F 0), .setCsTbind (sbc 0x04 0 0x51F 0), .setSendRing (sbc 0x04 0 0x55F 0), .setRelay (sbc 0x04 0 0x20 0)] : List Instr)
  ++ ([.setCntDump (sbc 0x04 0 0x71F 0)] : List Instr)

theorem test_wf_admits_the_opcodes_of_R46 : goodRows.all Instr.wf = true := by decide +kernel

/-- Features next to a row's range, and action bits of another row. -/
def badFields : List Instr :=
  ([.setWrrWeights (sbc 0x04 0 0x2 0), .setTrigCfg (sbc 0x04 0 0x120 0), .setGdCtl (sbc 0x04 0 0x220 0), .setEntryPoint (sbc 0x04 0 0x320 0)] : List Instr)
  ++ ([.setHpCfg (sbc 0x04 0 0x410 0), .setCsTbind (sbc 0x04 0 0x520 0), .setSendRing (sbc 0x04 0 0x560 0), .setRelay (sbc 0x04 0 0x21 0)] : List Instr)
  ++ ([.setCntDump (sbc 0x04 0 0x720 0), .setWrrWeights (sbc 0x04 0 0x0 0), .setTrigCfg (sbc 0x04 0 0xFF 0), .setGdCtl (sbc 0x04 0 0x1FF 0)] : List Instr)
  ++ ([.setEntryPoint (sbc 0x04 0 0x2FF 0), .setHpCfg (sbc 0x04 0 0x3FF 0), .setCsTbind (sbc 0x04 0 0x4FF 0), .setSendRing (sbc 0x04 0 0x53F 0)] : List Instr)
  ++ ([.setRelay (sbc 0x04 0 0x1F 0), .setCntDump (sbc 0x04 0 0x6FF 0), .setFeature (sbc 0x04 0 0x100 0), .fwCommitStage (sbc 0x09 0 1 0)] : List Instr)
  ++ ([.fwCommitNextReset (sbc 0x09 0 2 0), .fwCommitLive (sbc 0x09 0 0 0), .recorderExportKeep (sbc 0x28 0 1 0), .recorderExportBuffer (sbc 0x28 0 2 0)] : List Instr)

theorem test_wf_refuses_other_features_and_actions : badFields.all (fun i => !i.wf) = true := by decide +kernel

/-- Queue rows of a source. -/
def qrbRows (src : Source) : List Instr := [.sqDb src 0 0, .cqDb src 0 0, .qrbEnable src, .qrbDisable src]

theorem test_wf_queues_belong_to_endpoints_and_mailboxes :
    (qrbRows .sideband).all (fun i => !i.wf) && (qrbRows (.cascade 0 0 false)).all (fun i => !i.wf) && (qrbRows (.pcie 3)).all Instr.wf &&
      (qrbRows (.mailbox 31)).all Instr.wf = true := by decide +kernel

/-- The rows that are a message of one type. -/
def msgRows (m : Msg) : List Instr :=
  ([.readShared m, .readOwn m, .upgrade m, .placeWrite m, .write m, .evictClean m] : List Instr)
  ++ ([.invalidate m, .recall m, .downgrade m, .census m, .invAck m, .recallAck m] : List Instr)
  ++ ([.grant m, .nack m, .data m, .writeback m, .censusReport m, .redirectedRead m] : List Instr)
  ++ ([.rdDone m, .wbAccepted m, .wrDone m, .wbAck m, .writeDone m, .mirDone m] : List Instr)
  ++ ([.placeDone m, .nackRetry m, .redirectedRead m, .uncorrectableRead m false false, .guestRequest 0 m] : List Instr)

def msgOf (ty : MsgTy) (a : BitVec 12) : Msg := msg ty 0x105 0xD17 a 0x40 7

theorem test_wf_refuses_a_message_of_another_type :
    (msgRows (msgOf .grant 0)).filter Instr.wf = [.grant (msgOf .grant 0)] ∧
    (msgRows (msgOf .upgrade 0)).filter Instr.wf = [.upgrade (msgOf .upgrade 0), .nackRetry (msgOf .upgrade 0)] := by
  decide +kernel

/-- A message of its own type for each. -/
def goodMsgs : List Instr :=
  ([.readShared (msgOf .readShared 0), .readOwn (msgOf .readOwn 0), .upgrade (msgOf .upgrade 0), .placeWrite (msgOf .placeWrite 0)] : List Instr)
  ++ ([.write (msgOf .write 0), .evictClean (msgOf .evictClean 0), .invalidate (msgOf .invalidate 0), .recall (msgOf .recall 0)] : List Instr)
  ++ ([.downgrade (msgOf .downgrade 0), .census (msgOf .census 0), .invAck (msgOf .invAck 0), .recallAck (msgOf .recallAck 0)] : List Instr)
  ++ ([.grant (msgOf .grant 0), .nack (msgOf .nack 0), .data (msgOf .data 0), .writeback (msgOf .writeback 0)] : List Instr)
  ++ ([.censusReport (msgOf .censusReport 0), .redirectedRead (msgOf .readShared 0), .rdDone (msgOf .completion 1), .wbAccepted (msgOf .completion 2)] : List Instr)
  ++ ([.wrDone (msgOf .completion 3), .wbAck (msgOf .completion 4), .writeDone (msgOf .completion 5), .mirDone (msgOf .completion 6)] : List Instr)
  ++ ([.placeDone (msgOf .completion 7), .nackRetry (msgOf .write 0), .redirectedRead (msgOf .readShared 0), .uncorrectableRead (msgOf .readShared 0) false false] : List Instr)
  ++ ([.guestRequest 0 (msgOf .placeWrite 0)] : List Instr)

theorem test_wf_admits_a_message_of_its_type : goodMsgs.all Instr.wf = true := by decide +kernel

theorem test_wf_refuses_a_completion_of_another_kind :
    ([.rdDone (msgOf .completion 2), .wbAccepted (msgOf .completion 3), .wrDone (msgOf .completion 4),
      .wbAck (msgOf .completion 5), .writeDone (msgOf .completion 6), .mirDone (msgOf .completion 7),
      .placeDone (msgOf .completion 8), .nackRetry (msgOf .evictClean 0), .guestRequest 0 (msgOf .upgrade 0)] : List Instr).all (fun i => !i.wf) = true := by
  decide +kernel

/-- R155, R156: a word written out bit by bit: MAJOR 0b111011, RD 3, RS1 5, RS2 17, SUB 9, FUNC 0x08 (CMA). -/
theorem test_word_fields :
    let w : BitVec 32 := 0b111011_00011_00101_10001_01001_001000
    wordMajor w = 0x3B ∧ wordRd w = 3 ∧ wordRs1 w = 5 ∧ wordRs2 w = 17 ∧ wordSub w = 9 ∧ wordFunc w = 8 := by decide +kernel

/-- The words of R156 with every other field zero, each at its own row. -/
def wordsOfRows : List Instr :=
  ([.tickwait 5 0xEC000000, .tickdone 5 0xEC000001, .tickabort 5 0xEC000002, .rdpkr 5 0xEC000004, .wrpkr 5 0xEC000005] : List Instr)
  ++ ([.cma 5 0xEC000008, .cmsw 5 0xEC000009, .wlock 5 0xEC00000C, .wunlock 5 0xEC00000D, .wlquery 5 0xEC00000E] : List Instr)
  ++ ([.tlbi 5 0xEC000010, .tlbsync 5 0xEC000011, .place 5 0xEC000014, .fenceMb 5 0xEC000018, .fenceDev 5 0xEC000058] : List Instr)
  ++ ([.fencePlc 5 0xEC000098, .fenceCm 5 0xEC0000D8, .fenceI 5 0xEC000118, .tickdone 5 0xEC000003] : List Instr)

theorem test_wf_admits_a_row_s_word_and_one_of_no_row : wordsOfRows.all Instr.wf = true := by decide +kernel

theorem test_wf_refuses_the_word_of_another_row :
    ([.tickwait 5 0xEC000001, .tickdone 5 0xE8000001, .cma 5 0xEC000009, .fenceMb 5 0xEC000058, .fenceI 5 0xEC0000D8] : List Instr).all
      (fun i => !i.wf) = true := by decide +kernel

def push (la : LineAddr) : Msg := msg .data 0xD17 0x105 2 la 0
def flit (k : Fin 4) (fmt : BitVec 4) (n : Nat) : Flit := ⟨true, k, 0, 0, fmt, 0, 0, List.replicate n (msgOf .data 0)⟩
def ends : LinkEnd := ⟨0, 0, false⟩
def chan0 : ChanReport := ⟨0, 0, false, true, true, 0, 0⟩

theorem test_wf_refuses_the_other_shapes :
    ([.dataBurst (push 1) (push 2) (push 3) (push 4), .dataBurst (push 4) (push 5) (push 6) (push 8), .flitReceive ends (flit 0 4 2),
      .flitReceive ends (flit 1 0 1), .cap 0 0 ⟨0, 0, 2, 0, List.replicate 5 0⟩, .ageingSample 0 (List.replicate 20 0),
      .bar0Access 0 false .bar0 0 [] .dword, .startupPhase ⟨List.replicate 15 chan0, []⟩] : List Instr).all (fun i => !i.wf) = true := by
  decide +kernel

/-- A record's widths (R454) and a cascade payload's length (R362). -/
theorem test_wf_events_and_payloads :
    ([.recorderRecord 0 ⟨256, 0, false, 0, [], 0⟩, .recorderRecord 0 ⟨1, 32, false, 0, [], 0⟩,
      .recorderRecord 0 ⟨1, 0, false, 4096, [], 0⟩, .recorderRecord 0 ⟨1, 0, false, 0, [0, 0, 0, 0, 0], 0⟩,
      .recorderRecord 0 ⟨1, 0, false, 0, [2 ^ 64], 0⟩, .recorderRecord 0 ⟨1, 0, false, 0, [], 16⟩,
      .relayCmd ⟨3, 9, 0, 13, 0, 1, 0, 77⟩ none (List.replicate 4097 0)] : List Instr).all (fun i => !i.wf) &&
    ([.recorderRecord 1 ⟨255, 31, true, 4095, [0, 0, 0, 2 ^ 64 - 1], 15⟩,
      .relayCmd ⟨3, 9, 0, 13, 0, 1, 0, 77⟩ none (List.replicate 4096 0)] : List Instr).all Instr.wf = true := by decide +kernel

theorem test_wf_admits_the_other_shapes :
    ([.dataBurst (push 4) (push 5) (push 6) (push 7), .flitReceive ends (flit 0 4 1), .flitReceive ends (flit 1 0 0),
      .cap 0 0 ⟨0, 0, 2, 0, List.replicate 6 0⟩, .ageingSample 0 (List.replicate 21 0), .bar0Access 0 false .bar0 0 [0] .dword,
      .startupPhase ⟨List.replicate 16 chan0, []⟩] : List Instr).all Instr.wf = true := by decide +kernel

/-! ### Steps and single effects -/

/-- A field after a command, 2^64 where it does not answer a next state. -/
def after (c : Instr) (s : State) (f : State → Nat) : Nat := match exec c s with | .next t => f t | _ => 2 ^ 64

/-- R82 and log entry 8: an empty queue is one nanosecond. -/
theorem test_idle_is_one_ns :
    (match step upS with | .next t => t.get .PT_NOW_TIME 0 | _ => 0) = upS.get .PT_NOW_TIME 0 + 1 := by decide +kernel

/-- First in, first out: the step runs the front command and keeps the rest. -/
theorem test_step_takes_the_front :
    (match step { upS with pending := [.hcHeartbeat false, .controllerTakeover] } with | .next t => t.pending | _ => []) =
      [.controllerTakeover] := by decide +kernel

/-- The check value of CRC-32C of the nine digits (the polynomial R57 names). -/
theorem test_crc32c : crc32c [0x31, 0x32, 0x33, 0x34, 0x35, 0x36, 0x37, 0x38, 0x39] = 0xE3069283 := by decide +kernel

/-- R331: the CRC-8 of polynomial 0x07 over one bit at the lowest place. -/
theorem test_crc8 : crc8 1 30 0 = 7 := by decide +kernel

/-- R22, R231: lines of a half alternate with address bit 8. -/
theorem test_home_half : homeHalf 0x100 = 1 ∧ homeHalf 0x20100 = 0 ∧ homeHalf 0xFF = 0 := by decide +kernel

/-- A register's field keeps the low bits of what is stored, and its neighbour keeps its value. -/
theorem test_field_width : (upS.put .TK_NOW_NUM 31 (2 ^ 48 + 5)).get .TK_NOW_NUM 31 = 5 ∧
    (upS.put .TK_NOW_NUM 31 5).get .TK_NOW_NUM 30 = upS.get .TK_NOW_NUM 30 := by decide +kernel

/-- A byte written is in both halves' copies in Guarded, and memory stays canonical. -/
theorem test_write_mirrors : memByte (((gd mem).writeBytes 0x1234 [0x5A]).mem.get 0) 0x1234 = 0x5A ∧
    memByte (((gd mem).writeBytes 0x1234 [0x5A]).mem.get 1) 0x1234 = 0x5A ∧ ((gd mem).writeBytes 0x1234 [0x5A]).memOk = true := by
  decide +kernel

/-- R459: a freeze of half 1 through REC_CTL. -/
theorem test_rec_freeze : after (.recFreeze hub 1 1) (sets upS [(.REC_CTL_MODE, instH 1 0, 0)])
    (fun t => t.get .REC_DROP_FROZEN (instH 1 0)) = 1 := by decide +kernel

/-- R446: a write of CB_OWN gives the bank to polder 31. -/
theorem test_cb_own : after (.cbOwnWrite hub 0xFF00DA0001F00 0x3F) upS (fun t => t.get .CB_OWN_OWNER (instH 1 31)) = 31 := by
  decide +kernel

/-- A store waits in the merging buffer: memory is as before. -/
theorem test_store_waits : after (.store 5 0x1008 3 3 false) (gpr (openRgn (run 5)) 5 [(3, 9)])
    (fun t => (memByte (t.mem.get 0) 0x1008).toNat + ((t.core 5).mb.length * 256)) = 256 := by decide +kernel

/-! ### States that meet the hypotheses of the statements -/

namespace StepRunsTheFrontCommand

theorem wit_StepRunsTheFrontCommand_2 : ∃ (c : Instr) (cs : List Instr) (s : State), s.pending = c :: cs :=
⟨.slackClose, [], { upS with pending := [.slackClose] }, by decide +kernel⟩
theorem wit_StepRunsTheFrontCommand_4 : ∃ s : State, s.pending = [] ∧ 99 ∉ s.pow.held ∧ s.freqRate = 0 ∧ s.slewRate = 0 ∧
    s.te.rateAcc = 0 ∧ s.te.slewAcc = 0 :=
⟨upS, by decide +kernel⟩
theorem wit_StepRunsTheFrontCommand_5 : ∃ s : State, s.pending = [] ∧ 99 ∈ s.pow.held :=
⟨upS.updPow fun p => { p with held := [99] }, by decide +kernel⟩

end StepRunsTheFrontCommand

namespace StepsKeepMemoryCanonical

theorem wit_StepsKeepMemoryCanonical_1 : ∃ s t : State, s.memOk = true ∧ step s = .next t :=
⟨upS, upS.passNs, by exact ⟨by decide +kernel, rfl⟩⟩

end StepsKeepMemoryCanonical

namespace StepsKeepFieldsWithinTheirWidths

theorem wit_StepsKeepFieldsWithinTheirWidths_1 : ∃ s t : State, s.fieldsFit ∧ step s = .next t :=
⟨State.reset, State.reset.passNs, by exact ⟨⟨(by intro x h; cases h), (by intro d h; cases h)⟩, (by rfl)⟩⟩
theorem wit_StepsKeepFieldsWithinTheirWidths_2 : ∃ (s : State) (f : Fld) (i : Nat), s.fieldsFit :=
⟨State.reset, .PT_NOW_TIME, 0, by exact ⟨(by intro x h; cases h), (by intro d h; cases h)⟩⟩

end StepsKeepFieldsWithinTheirWidths

namespace ResetIsAsTheSpecSays

theorem wit_ResetIsAsTheSpecSays_10 : ∃ h b i : Nat, h < 2 ∧ b < 32 ∧ i < 8 := ⟨1, 31, 7, by decide +kernel⟩

end ResetIsAsTheSpecSays

namespace WrittenBytesAreReadBack

def held : State := withL (gOpen 5) 5 0x40 (line true true true)
theorem wit_WrittenBytesAreReadBack_1 : ∃ (s : State) (a : Nat) (bs : List Byte),
    bs ≠ [] ∧ ∀ la ∈ rangeLines a bs.length, tdIn la s.cores = none :=
  ⟨held, 0x1040, [7], by decide +kernel⟩
theorem wit_WrittenBytesAreReadBack_1b : ∃ (s : State) (a : Nat) (bs : List Byte),
    bs ≠ [] ∧ ∀ la ∈ rangeLines a bs.length, tdIn la s.cores = none :=
  ⟨held, 0xFFF, [7], by decide +kernel⟩
theorem wit_WrittenBytesAreReadBack_2 : ∃ (s : State) (a b : Nat) (bs : List Byte), b < a ∨ a + bs.length ≤ b :=
  ⟨upS, 1, 0, [7], by decide +kernel⟩
theorem wit_WrittenBytesAreReadBack_2b : ∃ (s : State) (a b : Nat) (bs : List Byte), b < a ∨ a + bs.length ≤ b :=
  ⟨upS, 1, 2, [7], by decide +kernel⟩
theorem wit_WrittenBytesAreReadBack_3 : ∃ (s : State) (a : Nat) (bs : List Byte) (i : Nat), s.guardedCfg = true ∧
    (∀ la ∈ rangeLines a bs.length, tdIn la s.cores = none) ∧ i < bs.length :=
  ⟨gd upS, 0x1000, [7, 8], 1, by decide +kernel⟩
theorem wit_WrittenBytesAreReadBack_4 : ∃ (s : State) (a : Nat) (bs : List Byte) (g : Nat), tdIn (a / 64) s.cores = some g ∧
    bs ≠ [] ∧ a % 64 + bs.length ≤ 64 :=
  ⟨held, 0x103F, [7], 5, by decide +kernel⟩

end WrittenBytesAreReadBack

namespace AddressesHaveUnitsHomesAndRights

theorem wit_AddressesHaveUnitsHomesAndRights_1 : ∃ u o : Nat, u < 16 ∧ o < 2 ^ 32 :=
  ⟨15, 4294967295, by decide +kernel⟩
theorem wit_AddressesHaveUnitsHomesAndRights_4 : ∃ la : Nat, la < 2 ^ 46 := ⟨70368744177663, by decide +kernel⟩
theorem wit_AddressesHaveUnitsHomesAndRights_3 : ∃ (s : State) (la : Nat),
    s.guardedCfg = true ∧ s.lost (homeHalf (la * 64)) = true :=
  ⟨{ gd upS with halfLost := ⟨false, true⟩ }, 4, by decide +kernel⟩

end AddressesHaveUnitsHomesAndRights

namespace MisshapenAccessesReadZero

theorem wit_MisshapenAccessesReadZero_1 : ∃ (a : Acc) (w : Bool) (addr : BitVec 52) (sz : Fin 4) (v : Word) (s : State), (((∃
    r i, s.ctlTarget (addr.toNat / 8 * 8) = .reg r i ∧ (sz ≠ 3 ∨ addr.toNat % 8 ≠ 0)) ∨ s.ctlTarget (addr.toNat / 8 * 8) =
    .unassigned)) :=
⟨hub, false, 0xFF00E00000004, 3, 0, upS, by exact Or.inl ⟨.PKG_ID, 0, by decide +kernel⟩⟩
theorem wit_MisshapenAccessesReadZero_1b : ∃ (a : Acc) (w : Bool) (addr : BitVec 52) (sz : Fin 4) (v : Word) (s : State), (((∃
    r i, s.ctlTarget (addr.toNat / 8 * 8) = .reg r i ∧ (sz ≠ 3 ∨ addr.toNat % 8 ≠ 0)) ∨ s.ctlTarget (addr.toNat / 8 * 8) =
    .unassigned)) :=
⟨hub, true, 0xFF00F00000000, 3, 0, upS, by exact Or.inr (by decide +kernel)⟩

end MisshapenAccessesReadZero

namespace HeadPresenceReportsBoundHeads

theorem wit_HeadPresenceReportsBoundHeads_1 : ∃ (c : Cmd) (s : State), s.passes (specQuery 0 0) c = true :=
⟨sbc 0x68 0 0 0, upS, by decide +kernel⟩

end HeadPresenceReportsBoundHeads

namespace DoorbellsSetTailOrHead

theorem wit_DoorbellsSetTailOrHead_1 : ∃ (src : Source) (q : Fin 64) (v : Word) (s : State) (r : Sq), s.sq (qKey src.num q) =
    some r ∧ r.tailOk (v.toNat % 4096) = true :=
⟨.pcie 0, 0, 5, upS.setSq 0 (some sq0), sq0, by decide +kernel⟩
theorem wit_DoorbellsSetTailOrHead_2 : ∃ (src : Source) (q : Fin 64) (v : Word) (s : State), (∀ r, s.sq (qKey src.num q) =
    some r → r.tailOk (v.toNat % 4096) = false) :=
⟨.pcie 0, 0, 17, upS.setSq 0 (some sq0), by intro r h; cases h; decide +kernel⟩
theorem wit_DoorbellsSetTailOrHead_3 : ∃ (src : Source) (q : Fin 64) (v : Word) (s : State) (r : Cq), s.cq (qKey src.num q) =
    some r ∧ r.headOk (v.toNat % 4096) = true :=
⟨.pcie 0, 0, 0, upS.setCq 0 (some cq0), cq0, by decide +kernel⟩
theorem wit_DoorbellsSetTailOrHead_4 : ∃ (src : Source) (q : Fin 64) (v : Word) (s : State), (∀ r, s.cq (qKey src.num q) =
    some r → r.headOk (v.toNat % 4096) = false) :=
⟨.pcie 3, 63, 1, upS, by intro r h; cases h⟩

end DoorbellsSetTailOrHead

namespace UrgentQueuesAreServedFirst

def qs : State := (sets upS [(.QRB_CTL_EN, qKey 5 0, 1), (.QRB_STAT_RDY, qKey 5 0, 1)]).setSq (qKey 5 0) (some { sq0 with tail := 3 })
def qsT : State := (qs.updWrr 5 fun w => w.setLast 0 0).updCp fun c => { c with lastUrgent := 5 }

theorem wit_UrgentQueuesAreServedFirst_1 : ∃ (s t : State) (n q m u k : Nat), n < 36 ∧ q < 64 ∧ s.sqPending n q = true ∧
    s.sqCls n q = 0 ∧ s.pickQueue = some (m, u, k, t) :=
⟨qs, qsT, 5, 0, 5, 0, 0, by decide +kernel⟩

end UrgentQueuesAreServedFirst

namespace CommandsAreAccepted

def qpe : State := (((sets upS [(.QRB_CTL_EN, qKey 0 0, 1), (.QRB_STAT_RDY, qKey 0 0, 1), (.PE_STAT_READY, instPe 0, 1)]).cfgStore 0 4 4).setSq 0 (some { sq0 with tail := 3, head := 15 })).setCq 0 (some cq0)
def qpeT : State := (qpe.updWrr 0 fun w => w.setLast 0 0).updCp fun c => { c with lastUrgent := 0 }
def full : State := qpe.updCp fun c => { c with running := (List.range 256).map fun i => { qpe.acceptRec .sideband 0 (ent 0x10 i 0 0) 0 with begun := true } }
def fullT : State := (full.updWrr 0 fun w => w.setLast 0 0).updCp fun c => { c with lastUrgent := 0 }
def qmb : State := (((sets (upP 0) [(.QRB_CTL_EN, qKey 5 0, 1), (.QRB_STAT_RDY, qKey 5 0, 1)])).setSq (qKey 5 0) (some { sq0 with tail := 3, head := 15 })).setCq (qKey 5 0) (some cq0)
def qmbT : State := (qmb.updWrr 5 fun w => w.setLast 0 0).updCp fun c => { c with lastUrgent := 5 }
def dsb : State := upS.updCp fun c => { c with direct := [(.cascade 1 2 false, ent 0x10 1 0 0, []), (.sideband, ent 0x61 1 0 0, [])] }
def dsbT : State := (dsb.updWrr 36 fun w => w.setLast 0 0).updCp fun c => { c with lastUrgent := 36 }

theorem wit_CommandsAreAccepted_1 : ∃ (e : Entry) (list : List (Word × Word)) (data : List Byte) (s s1 : State) (n q k : Nat)
    (r : Sq), s.cp.fatalSince = none ∧ s.pickQueue = some (n, q, k, s1) ∧ s.sq (qKey n q) = some r ∧ r.relay = none ∧ n < 4 ∧
    s.full256 e = false ∧ (∀ x ∈ s.cp.running, x.discard = false) :=
⟨ent 0x61 1 0 0, [], [], qpe, qpeT, 0, 0, 0, { sq0 with tail := 3, head := 15 }, by decide +kernel⟩
theorem wit_CommandsAreAccepted_2 : ∃ (e : Entry) (list : List (Word × Word)) (data : List Byte) (s s1 : State) (n q k : Nat)
    (r : Sq), s.cp.fatalSince = none ∧ s.pickQueue = some (n, q, k, s1) ∧ s.sq (qKey n q) = some r ∧ r.relay = none ∧ 4 ≤ n ∧
    n < 36 ∧ s.full256 (entryOf (s1.ringRead (n - 4) (r.base + r.head * 64) 64).2) = false ∧ (∀ x ∈ s.cp.running, x.discard =
    false) :=
⟨ent 0x61 1 0 0, [], [], qmb, qmbT, 5, 0, 0, { sq0 with tail := 3, head := 15 }, by decide +kernel⟩
theorem wit_CommandsAreAccepted_3 : ∃ (e : Entry) (list : List (Word × Word)) (data : List Byte) (s s1 : State) (n q k : Nat)
    (x : Source × Entry × List Byte), s.cp.fatalSince = none ∧ s.pickQueue = some (n, q, k, s1) ∧ s.sq (qKey n q) = none ∧
    s.cp.direct.find? (directOf n k) = some x ∧ s.full256 x.2.1 = false ∧ (∀ y ∈ s.cp.running, y.discard = false) :=
⟨ent 0 0 0 0, [], [], dsb, dsbT, 36, 0, 0, (.sideband, ent 0x61 1 0 0, []), by decide +kernel⟩
theorem wit_CommandsAreAccepted_4 : ∃ (e : Entry) (list : List (Word × Word)) (data : List Byte) (s : State), (s.pickQueue =
    none ∨ s.cp.fatalSince.isSome = true) :=
⟨ent 0x61 1 0 0, [], [], upS, by decide +kernel⟩
theorem wit_CommandsAreAccepted_5 : ∃ (e : Entry) (list : List (Word × Word)) (data : List Byte) (s s1 : State) (n q k : Nat)
    (r : Sq), s.pickQueue = some (n, q, k, s1) ∧ s.sq (qKey n q) = some r ∧ n < 4 ∧ s.full256 e = true :=
⟨ent 0x10 1 0 0, [], [], full, fullT, 0, 0, 0, { sq0 with tail := 3, head := 15 }, by decide +kernel⟩
theorem wit_CommandsAreAccepted_6 : ∃ (e : Entry) (s : State), s.cp.sidebandBusy = false :=
⟨ent 0x61 1 0 0, upS, by decide +kernel⟩
theorem wit_CommandsAreAccepted_7 : ∃ (e : Entry) (s : State), s.cp.sidebandBusy = true :=
⟨ent 0x61 1 0 0, upS.updCp fun c => { c with sidebandBusy := true }, by decide +kernel⟩

end CommandsAreAccepted

namespace CompletionsArePostedInOrder

def cp0 : Cpl := ⟨.pcie 0, 0, 7, 0, 0, 1, 0, some 5, []⟩
def cps : Cpl := ⟨.sideband, 0, 7, 0, 9, 0, 0, none, []⟩
def cpc : Cpl := ⟨.cascade 1 2 false, 0, 7, 0, 9, 0, 0, none, [1, 2]⟩
def cqF : Cq := ⟨0x20000, 16, 0, false, 0, 15, true⟩
def cpst (q : Cq) : State := (((sets upS [(.PE_STAT_READY, instPe 0, 1)]).cfgStore 0 4 4).setSq 0 (some sq0)).setCq 0 (some q)
def del : Cmd := ⟨.pcie 0, 0, ent 6 0 5 0, [], []⟩

theorem wit_CompletionsArePostedInOrder_1 : ∃ (e : Fin 4) (cq : Fin 64) (s : State) (x : Cpl) (q : Cq), s.cp.ready.find? (fun
    y => y.src == .pcie e && s.cplCq y == some (cq : Nat)) = some x ∧ s.cq (qKey e cq) = some q ∧ q.full = false ∧ s.dmaOn e =
    true ∧ s.cp.stopping = [] ∧ (∀ r, s.sq (qKey e x.sqid) = some r → r.delCmd = none) :=
⟨0, 0, (cpst { cqF with head := 3 }).updCp fun c => { c with ready := [cp0] }, cp0, { cqF with head := 3 }, by decide +kernel⟩
theorem wit_CompletionsArePostedInOrder_2 : ∃ (e : Fin 4) (cq : Fin 64) (s : State) (x : Cpl) (q : Cq) (r : Sq) (c : Cmd),
    s.cp.ready = [x] ∧ x.src = .pcie e ∧ s.sq (qKey e x.sqid) = some r ∧ r.cq = cq.val ∧ r.delCmd = some c ∧ s.cq (qKey e cq)
    = some q ∧ q.full = false ∧ s.dmaOn e = true ∧ s.cp.stopping = [] ∧ (∀ y ∈ s.cp.running, qKey y.src.num y.sqid ≠ qKey e
    x.sqid) ∧ (s.runningOf c).any (·.discard) = false :=
⟨0, 0, ((cpst { cqF with head := 3 }).setSq 5 (some { sq0 with deleting := true, delCmd := some del })).updCp fun c =>
    { c with ready := [{ cp0 with sqid := 5 }] }, { cp0 with sqid := 5 }, { cqF with head := 3 },
    { sq0 with deleting := true, delCmd := some del }, del, by decide +kernel⟩
theorem wit_CompletionsArePostedInOrder_3 : ∃ (src : Source) (cq : Fin 64) (s : State) (q : Cq), src.hasQueues = true ∧ s.cq
    (qKey src.num cq) = some q ∧ q.full = true :=
⟨.pcie 0, 0, (cpst cqF).updCp fun c => { c with ready := [cp0] }, cqF, by decide +kernel⟩
theorem wit_CompletionsArePostedInOrder_4 : ∃ (cq : Fin 64) (s : State) (x : Cpl), s.cp.ready.find? (fun y => y.src ==
    .sideband) = some x :=
⟨0, upS.updCp (fun c => { c with ready := [cps] }), cps, by decide +kernel⟩
theorem wit_CompletionsArePostedInOrder_5 : ∃ (c : Fin 4) (m : Fin 16) (b : Bool) (cq : Fin 64) (s : State) (x : Cpl),
    s.cp.ready.find? (fun y => y.src == .cascade c m b) = some x :=
⟨1, 2, false, 0, upS.updCp (fun c => { c with ready := [cpc] }), cpc, by decide +kernel⟩

end CompletionsArePostedInOrder

namespace AdminQueuesGoLiveAndStop

theorem wit_AdminQueuesGoLiveAndStop_1 : ∃ (src : Source) (s : State), s.flag .QRB_CTL_EN (qKey src.num 0) = false ∧ s.flag
    .QRB_STAT_RDY (qKey src.num 0) = false ∧ 1 ≤ s.get .QRB_CTL_ASQ_SIZE (qKey src.num 0) ∧ 1 ≤ s.get .QRB_CTL_ACQ_SIZE (qKey
    src.num 0) :=
⟨.mailbox 1, sets upS [(.QRB_CTL_ASQ_SIZE, qKey 5 0, 4095), (.QRB_CTL_ACQ_SIZE, qKey 5 0, 1)], by decide +kernel⟩
theorem wit_AdminQueuesGoLiveAndStop_2 : ∃ (src : Source) (s : State), (s.get .QRB_CTL_ASQ_SIZE (qKey src.num 0) = 0 ∨ s.get
    .QRB_CTL_ACQ_SIZE (qKey src.num 0) = 0) :=
⟨.mailbox 1, sets upS [(.QRB_CTL_ASQ_SIZE, qKey 5 0, 4095)], by decide +kernel⟩
theorem wit_AdminQueuesGoLiveAndStop_3 : ∃ (src : Source) (s : State), s.outstanding src.num = false :=
⟨.pcie 0, upS.setSq 0 (some sq0), by decide +kernel⟩
theorem wit_AdminQueuesGoLiveAndStop_4 : ∃ (src : Source) (s : State), s.outstanding src.num = true :=
⟨.pcie 0, (upS.setSq 0 (some sq0)).updCp fun c => { c with ready := [⟨.pcie 0, 0, 7, 0, 0, 1, 0, none, []⟩] }, by
    decide +kernel⟩

end AdminQueuesGoLiveAndStop

namespace StandbyTakesOverAndRejoins

def act : Live := ⟨sbc 9 0 0x12 0, 1, 0, false⟩
def liv (s : State) (b : Bool) : State := s.updCp fun c => { c with live := some { act with swapped := b } }

theorem wit_StandbyTakesOverAndRejoins_2 : ∃ s : State, s.cp.hbMissed < 2 :=
⟨upS.updCp fun c => { c with hbMissed := 1 }, by decide +kernel⟩
theorem wit_StandbyTakesOverAndRejoins_3 : ∃ s : State, 2 ≤ s.cp.hbMissed ∧ s.flag .CP_ROLE_STANDBY_READY 0 = true :=
⟨(sets upS [(.CP_ROLE_STANDBY_READY, 0, 1)]).updCp fun c => { c with hbMissed := 2 }, by decide +kernel⟩
theorem wit_StandbyTakesOverAndRejoins_4 : ∃ s : State, s.flag .CP_ROLE_STANDBY_READY 0 = true :=
⟨sets upS [(.CP_ROLE_STANDBY_READY, 0, 1), (.CP_ROLE_TAKEOVERS, 0, 255)], by decide +kernel⟩
theorem wit_StandbyTakesOverAndRejoins_5 : ∃ s : State, s.flag .CP_ROLE_STANDBY_READY 0 = false :=
⟨upS, by decide +kernel⟩
theorem wit_StandbyTakesOverAndRejoins_6 : ∃ s : State, s.cp.live = none ∧ s.lost (1 - s.activeHalf) = false ∧ s.cp.recovery =
    false ∧ (∀ x ∈ s.berm.retired, ¬(x.1 = 7 ∧ x.2.1 = 1 - s.activeHalf)) :=
⟨upS, by decide +kernel⟩
theorem wit_StandbyTakesOverAndRejoins_7 : ∃ s : State, s.cp.live = none :=
⟨upS, by decide +kernel⟩
theorem wit_StandbyTakesOverAndRejoins_8 : ∃ (s : State) (l : Live), s.cp.live = some l ∧ l.swapped = false :=
⟨liv (sets upS [(.CP_ROLE_STANDBY_READY, 0, 1)]) false, act, by decide +kernel⟩
theorem wit_StandbyTakesOverAndRejoins_9 : ∃ (s : State) (l : Live), s.cp.live = some l ∧ l.swapped = false ∧ (s.runningOf
    l.cmd).any (·.discard) = false :=
⟨liv (sets upS [(.CP_ROLE_STANDBY_READY, 0, 1)]) false, act, by decide +kernel⟩
theorem wit_StandbyTakesOverAndRejoins_10 : ∃ (s : State) (l : Live), s.cp.live = some l ∧ l.swapped = true ∧ s.mayStandBy =
    true ∧ (s.runningOf l.cmd).any (·.discard) = false :=
⟨liv upS true, { act with swapped := true }, by decide +kernel⟩

end StandbyTakesOverAndRejoins

namespace QueuesAreCreatedAndDeleted

def qc (op p0 p1 : Nat) : Cmd := ⟨.pcie 0, 0, ent op 0 p0 p1, [], []⟩

theorem wit_QueuesAreCreatedAndDeleted_1 : ∃ (c : Cmd) (s : State), s.passes specQueueCreate c = true ∧ onQueue0 c = true ∧
    bitOf c.e.p0 6 = true ∧ bitsOf c.e.p0 5 0 ≠ 0 ∧ 2 ≤ bitsOf c.e.p0 18 7 + 1 ∧ c.e.p1 % 4096 = 0 ∧ bitsOf c.e.p0 21 20 = 0 ∧
    bitsOf c.e.p0 29 24 = 0 ∧ s.cq (qKey c.src.num (bitsOf c.e.p0 5 0)) = none ∧ s.ringOk c.src true c.e.p1 (bitsOf c.e.p0 18
    7 + 1) = true :=
⟨qc 5 (1 + 2 ^ 6 + 15 * 2 ^ 7 + 3 * 2 ^ 32 + 2 ^ 43) 0x30000, upS.setSq 0 (some sq0), by decide +kernel⟩
theorem wit_QueuesAreCreatedAndDeleted_2 : ∃ (c : Cmd) (s : State), s.passes specQueueCreate c = true ∧ onQueue0 c = true ∧
    bitOf c.e.p0 6 = false ∧ bitsOf c.e.p0 5 0 ≠ 0 ∧ 2 ≤ bitsOf c.e.p0 18 7 + 1 ∧ c.e.p1 % 4096 = 0 ∧ bitsOf c.e.p0 43 32 = 0
    ∧ s.sq (qKey c.src.num (bitsOf c.e.p0 5 0)) = none ∧ s.cq (qKey c.src.num (bitsOf c.e.p0 29 24)) ≠ none ∧ s.ringOk c.src
    false c.e.p1 (bitsOf c.e.p0 18 7 + 1) = true :=
⟨qc 5 (63 + 4095 * 2 ^ 7 + 2 * 2 ^ 20 + 1 * 2 ^ 24) 0x30000, (upS.setSq 0 (some sq0)).setCq 1 (some cq0), by decide +kernel⟩
theorem wit_QueuesAreCreatedAndDeleted_3 : ∃ (c : Cmd) (s : State), s.passes specQueueCreate c = true ∧ onQueue0 c = true ∧
    bitsOf c.e.p0 5 0 = 0 :=
⟨qc 5 (15 * 2 ^ 7) 0x30000, upS.setSq 0 (some sq0), by decide +kernel⟩
theorem wit_QueuesAreCreatedAndDeleted_6 : ∃ (c : Cmd) (s : State) (r : Sq), s.passes specQueueDelete c = true ∧ onQueue0 c =
    true ∧ bitsOf c.e.p0 5 0 ≠ 0 ∧ bitOf c.e.p0 6 = false ∧ s.sq (qKey c.src.num (bitsOf c.e.p0 5 0)) = some r ∧ r.deleting =
    false ∧ (∃ x ∈ s.cp.ready, qKey x.src.num x.sqid = qKey c.src.num (bitsOf c.e.p0 5 0)) :=
⟨qc 6 5 0, ((upS.setSq 0 (some sq0)).setSq 5 (some sq0)).updCp (fun c =>
    { c with ready := [⟨.pcie 0, 5, 7, 0, 0, 1, 0, none, []⟩] }), sq0, by decide +kernel⟩
theorem wit_QueuesAreCreatedAndDeleted_5 : ∃ (c : Cmd) (s : State) (r : Sq), s.passes specQueueDelete c = true ∧ onQueue0 c =
    true ∧ bitsOf c.e.p0 5 0 ≠ 0 ∧ bitOf c.e.p0 6 = false ∧ s.sq (qKey c.src.num (bitsOf c.e.p0 5 0)) = some r ∧ r.deleting =
    false ∧ (∀ x ∈ s.cp.running, qKey x.src.num x.sqid ≠ qKey c.src.num (bitsOf c.e.p0 5 0)) ∧ (∀ x ∈ s.cp.ready, qKey
    x.src.num x.sqid ≠ qKey c.src.num (bitsOf c.e.p0 5 0)) :=
⟨qc 6 5 0, (upS.setSq 0 (some sq0)).setSq 5 (some sq0), sq0, by decide +kernel⟩
theorem wit_QueuesAreCreatedAndDeleted_7 : ∃ (c : Cmd) (s : State), s.passes specWrr c = true :=
⟨qc 4 1 0x020310, upS.setSq 0 (some sq0), by decide +kernel⟩
theorem wit_QueuesAreCreatedAndDeleted_4 : ∃ (c : Cmd) (s : State), s.passes specQueueDelete c = true ∧ onQueue0 c = true ∧
    bitsOf c.e.p0 5 0 ≠ 0 ∧ bitOf c.e.p0 6 = true ∧ s.cq (qKey c.src.num (bitsOf c.e.p0 5 0)) ≠ none ∧ (∀ q, q < 64 → ∀ r,
    s.sq (qKey c.src.num q) = some r → r.cq ≠ bitsOf c.e.p0 5 0) :=
⟨qc 6 (1 + 2 ^ 6) 0, upS.setCq 1 (some cq0), by exact ⟨by decide +kernel, by decide +kernel, by decide +kernel, by
    decide +kernel, by decide +kernel, by intro q _ r h; cases h⟩⟩

end QueuesAreCreatedAndDeleted

namespace FirmwareIsDownloadedAndCommitted

def image : List Byte := List.replicate 512 0xA5

theorem wit_FirmwareIsDownloadedAndCommitted_1 : ∃ (c : Cmd) (s : State), s.passes specFwDownload c = true ∧ c.e.p0 = 0 ∧
    s.bufLen c ≤ 0x100000 ∧ s.slotRunning (bitsOf c.e.p1 0 0) = false ∧ s.cp.session = none ∧ s.cp.live = none :=
⟨sbb 8 0 0 1 512 image, upS, by decide +kernel⟩
theorem wit_FirmwareIsDownloadedAndCommitted_2 : ∃ (c : Cmd) (s : State), s.passes specFwDownload c = true ∧ s.slotRunning
    (bitsOf c.e.p1 0 0) = true :=
⟨sbb 8 0 0 1 512 image, upS.updCp fun c => { c with runActive := some 1 }, by decide +kernel⟩
theorem wit_FirmwareIsDownloadedAndCommitted_3 : ∃ (c : Cmd) (s : State), s.passes specFwCommit c = true ∧ s.slotRunning
    (bitsOf c.e.p0 4 4) = false ∧ s.cp.session = none ∧ s.cp.live = none :=
⟨sbc 9 0 0x10 0, upS, by decide +kernel⟩
theorem wit_FirmwareIsDownloadedAndCommitted_4 : ∃ (c : Cmd) (s : State), s.passes specFwCommit c = true ∧ s.slotRunning
    (bitsOf c.e.p0 4 4) = false ∧ s.cp.session = none ∧ s.cp.live = none :=
⟨sbc 9 0 0x11 0, upS, by decide +kernel⟩
theorem wit_FirmwareIsDownloadedAndCommitted_5 : ∃ (c : Cmd) (s : State), s.passes specFwCommit c = true ∧ s.flag
    .CP_ROLE_STANDBY_READY 0 = true ∧ s.slotRunning (bitsOf c.e.p0 4 4) = false ∧ s.cp.session = none ∧ s.cp.live = none :=
⟨sbc 9 0 0x12 0, sets upS [(.CP_ROLE_STANDBY_READY, 0, 1)], by decide +kernel⟩
theorem wit_FirmwareIsDownloadedAndCommitted_6 : ∃ (c : Cmd) (s : State), s.passes specFwCommit c = true ∧ s.flag
    .CP_ROLE_STANDBY_READY 0 = false :=
⟨sbc 9 0 0x12 0, upS, by decide +kernel⟩

end FirmwareIsDownloadedAndCommitted

namespace ConfigurationAndJournalHoldWhatIsWritten

def image2 : List Byte := List.replicate 512 0xA5
def nsb (w0 : Nat) (n : Nat) (bs : List Byte) (p0 nsid : Nat) : Cmd := ⟨.sideband, 0, { entB w0 0 p0 0 0 n 2 with w1 := BitVec.ofNat 64 nsid }, [], bs⟩
def jn : Jns := ⟨2, 1, false, 4, 1, 0⟩
def js : State := upS.updCp fun c => { c with jns := [jn] }

theorem wit_ConfigurationAndJournalHoldWhatIsWritten_1 : ∃ (c : Cmd) (s : State), s.passes specConfigWrite c = true ∧ s.bufLen
    c = 1024 :=
⟨sbb 0x0A 0 0 0 1024 (List.replicate 1024 0), upS, by decide +kernel⟩
theorem wit_ConfigurationAndJournalHoldWhatIsWritten_2 : ∃ (c : Cmd) (s : State), s.passes specConfigRead c = true ∧ 1024 ≤
    s.bufLen c ∧ bitOf c.e.p0 0 = false :=
⟨sbb 0x0B 0 0 0 1024 [], upS, by decide +kernel⟩
theorem wit_ConfigurationAndJournalHoldWhatIsWritten_3 : ∃ (c : Cmd) (s : State) (r : List Word), s.passes specConfigRead c =
    true ∧ 1024 ≤ s.bufLen c ∧ bitOf c.e.p0 0 = true ∧ s.cp.cfgPending = some r :=
⟨sbb 0x0B 0 1 0 1024 [], upS.updCp (fun c => { c with cfgPending := some [7] }), [7], by decide +kernel⟩
theorem wit_ConfigurationAndJournalHoldWhatIsWritten_4 : ∃ (c : Cmd) (s : State) (n o : Nat), s.passes specJnsCreate c = true
    ∧ c.e.p0 ≠ 0 ∧ (∀ j ∈ s.cp.jns, j.owner ≠ c.e.polder) ∧ s.jnsFree = some n ∧ s.jnsGap c.e.p0 = some o :=
⟨sbc 0x20 1 1 0, upP 0, 1, 0, by decide +kernel⟩
theorem wit_ConfigurationAndJournalHoldWhatIsWritten_5 : ∃ (c : Cmd) (s : State) (j : Jns), s.passes specJnsDelete c = true ∧
    s.jnsOf c.e.nsid = some j ∧ s.jnsWriting j.nsid = false :=
⟨⟨.sideband, 0, { ent 0x21 0 0 0 with w1 := 2 }, [], []⟩, js, jn, by decide +kernel⟩
theorem wit_ConfigurationAndJournalHoldWhatIsWritten_6 : ∃ (c : Cmd) (s : State) (j : Jns) (a : Nat), s.passes (specJournal
    true) c = true ∧ s.jnsFor c = some j ∧ c.e.p0 % 512 = 0 ∧ s.bufLen c % 512 = 0 ∧ c.e.p0 + s.bufLen c ≤ j.mib * 0x100000 ∧
    s.progress c = 0 ∧ a = journalBase + j.off * 0x100000 + c.e.p0 ∧ (blocksOf a (s.bufLen c)).length ≤ 1 :=
⟨nsb 0x22 512 image2 0xFFE00 2, js, jn, journalBase + 4 * 0x100000 + 0xFFE00, by decide +kernel⟩
theorem wit_ConfigurationAndJournalHoldWhatIsWritten_7 : ∃ (c : Cmd) (s : State) (j : Jns) (a : Nat), s.passes (specJournal
    true) c = true ∧ s.jnsFor c = some j ∧ c.e.p0 % 512 = 0 ∧ s.bufLen c % 512 = 0 ∧ c.e.p0 + s.bufLen c ≤ j.mib * 0x100000 ∧
    s.progress c = 0 ∧ a = journalBase + j.off * 0x100000 + c.e.p0 ∧ 1 < (blocksOf a (s.bufLen c)).length :=
⟨nsb 0x22 1024 (image2 ++ image2) 0x3E00 2, js, jn, journalBase + 4 * 0x100000 + 0x3E00, by decide +kernel⟩
theorem wit_ConfigurationAndJournalHoldWhatIsWritten_8 : ∃ (c : Cmd) (s : State) (j : Jns) (a : Nat), s.begun c = true ∧
    (s.runningOf c).any (·.discard) = false ∧ s.jnsFor c = some j ∧ a = journalBase + j.off * 0x100000 + c.e.p0 ∧ (blocksOf a
    (s.bufLen c)).length = s.progress c + 1 :=
⟨nsb 0x22 1024 (image2 ++ image2) 0x3E00 2, js.updCp (fun c =>
    { c with running := [{ js.acceptRec .sideband 0 (nsb 0x22 1024 [] 0x3E00 2).e 0 with begun := true, prog := 1 }] }), jn,
    journalBase + 4 * 0x100000 + 0x3E00, by decide +kernel⟩
theorem wit_ConfigurationAndJournalHoldWhatIsWritten_9 : ∃ (c : Cmd) (s : State) (j : Jns), s.passes (specJournal false) c =
    true ∧ s.jnsFor c = some j ∧ c.e.p0 % 512 = 0 ∧ s.bufLen c % 512 = 0 ∧ c.e.p0 + s.bufLen c ≤ j.mib * 0x100000 ∧
    s.cp.badBlocks = [] :=
⟨nsb 0x23 512 [] 0xFFE00 2, js, jn, by decide +kernel⟩

end ConfigurationAndJournalHoldWhatIsWritten

namespace QueriesReportState

theorem wit_QueriesReportState_1 : ∃ (c : Cmd) (s : State), s.passes specIdentify c = true ∧ bitsOf c.e.p0 3 0 = 0 ∧ c.e.p1 =
    0 ∧ 256 ≤ descLen c.e.w3 :=
⟨sbb 1 0 0 0 256 [], upS, by decide +kernel⟩
theorem wit_QueriesReportState_2 : ∃ (c : Cmd) (s : State), s.passes specGetLog c = true ∧ bitsOf c.e.p0 7 0 = 5 ∧ c.e.p1 = 0
    ∧ 128 ≤ s.bufLen c ∧ s.srcSecure c.src = true :=
⟨sbb 2 0 5 0 128 [], upS, by decide +kernel⟩
theorem wit_QueriesReportState_3 : ∃ (c : Cmd) (s : State), s.passes (specQuery 0xFFFF 0) c = true ∧ bitsOf c.e.p0 15 0 = 1 :=
⟨sbc 3 0 1 0, upS, by decide +kernel⟩
theorem wit_QueriesReportState_4 : ∃ (c : Cmd) (s : State), s.passes (specQuery 0xFFFF 0) c = true ∧ 0x210 ≤ bitsOf c.e.p0 15
    0 ∧ bitsOf c.e.p0 15 0 < 0x220 ∧ s.polder (bitsOf c.e.p0 15 0 - 0x200) = none :=
⟨sbc 3 0 0x21F 0, upS, by decide +kernel⟩
theorem wit_QueriesReportState_5 : ∃ (c : Cmd) (s : State), s.passes (specQuery 0xF 0xFFFFFFFFFFFFFFFF) c = true ∧ bitsOf
    c.e.p0 3 0 = 0 :=
⟨sbc 0x60 0 0 0, upS, by decide +kernel⟩
theorem wit_QueriesReportState_6 : ∃ (c : Cmd) (s : State), s.passes (specQuery 0xF 0xFFFFFFFFFFFFFFFF) c = true ∧ bitsOf
    c.e.p0 3 0 = 2 ∧ c.e.p1 < 240 ∧ s.srcSecure c.src = true :=
⟨sbc 0x60 0 2 239, upS, by decide +kernel⟩
theorem wit_QueriesReportState_7 : ∃ (c : Cmd) (s : State) (v : Polder), s.passes specTickQuery c = true ∧ s.polder c.e.polder
    = some v :=
⟨sbc 0x61 1 0 0, upP 4, pold 4, by decide +kernel⟩
theorem wit_QueriesReportState_7b : ∃ (c : Cmd) (s : State) (v : Polder), s.passes specTickQuery c = true ∧ s.polder
    c.e.polder = some v :=
⟨sbc 0x61 1 0 0, upS.setPolder 1 (some { pold 4 with everTicked := true }), { pold 4 with everTicked := true }, by
    decide +kernel⟩
theorem wit_QueriesReportState_8 : ∃ (c : Cmd) (s : State), s.passes (specQuery 0 0) c = true :=
⟨sbc 0x62 0 0 0, upS, by decide +kernel⟩
theorem wit_QueriesReportState_9 : ∃ (c : Cmd) (s : State), s.passes (specQuery 0 0) c = true :=
⟨sbc 0x68 0 0 0, upS, by decide +kernel⟩

end QueriesReportState

namespace RegionCommitReplacesTheEntry

theorem wit_RegionCommitReplacesTheEntry_1 : ∃ (a : Acc) (h : Half) (v : Word) (s : State), a.sec = true ∧ s.lost h = false ∧
    bitOf v.toNat 8 = true :=
⟨hub, 0, 0x1FF, sets upS [(.RGN_STAGE_LO_VALUE, 0, 0x20000F), (.RGN_STAGE_HI_VALUE, 0, 0x400000)], by decide +kernel⟩
theorem wit_RegionCommitReplacesTheEntry_2 : ∃ (a : Acc) (h : Half) (v : Word) (s : State), a.sec = true ∧ s.lost h = false ∧
    bitOf v.toNat 8 = false :=
⟨hub, 1, 0xFF, upS, by decide +kernel⟩
theorem wit_RegionCommitReplacesTheEntry_3 : ∃ (a : Acc) (h : Half) (v : Word) (s : State), a.sec = false :=
⟨⟨1, false, .mailbox 1⟩, 1, 0x1FF, sets upS [(.RGN_VIOL_COUNT, instH 1 0, 2 ^ 48 - 1)], by decide +kernel⟩

end RegionCommitReplacesTheEntry

namespace PoldersAreMadeAndChanged

def desc64 (w0 : Nat) : List Byte := wordsLe [w0, 0x6, 0, 0, 0, 0, 0, 0]
def rg : State := sets (upP 0) [(.RGN_LO_VALID, 3, 1), (.RGN_LO_BASE, 3, 1), (.RGN_HI_LIMIT, 3, 2)]
def crl : State := (upS.setPolder 1 (some { pold 0 with lcpus := [some 5] })).updCore 5 fun c => { c with pol := 1 }
def rest1 : Cmd := sbc 0x13 1 (5 * 2 ^ 32) 0

theorem wit_PoldersAreMadeAndChanged_1 : ∃ (c : Cmd) (s : State) (gs : List Nat), s.passes specPolderCreate c = true ∧
    s.bufLen c = 64 ∧ s.polDescOk (s.bufWord c) = true ∧ s.polder c.e.polder = none ∧ s.polGrant (s.bufWord c) = (0, gs) :=
⟨sbb 0x10 1 0 0 64 (desc64 0x020210), upS, [1, 2], by decide +kernel⟩
theorem wit_PoldersAreMadeAndChanged_2 : ∃ (c : Cmd) (s : State), s.passes specPolderCreate c = true ∧ s.bufLen c = 64 ∧
    s.polDescOk (s.bufWord c) = true ∧ s.polder c.e.polder ≠ none :=
⟨sbb 0x10 1 0 0 64 (desc64 0x020210), upP 0, by decide +kernel⟩
theorem wit_PoldersAreMadeAndChanged_3 : ∃ (c : Cmd) (s : State) (v : Polder), s.passes specPolderObj c = true ∧ s.polder
    c.e.polder = some v ∧ v.deleting = false ∧ objKind c = 1 ∧ objNum c < 256 ∧ ((c.e.p1 = 1 ∨ c.e.p1 = 3)) ∧ s.rgnValid
    (objNum c) = true ∧ ((s.flag .RGN_LO_WORLD (objNum c) = false ∨ v.secure = true)) ∧ s.rgnOverlaps (objNum c) = false :=
⟨sbc 0x12 1 (1 + 3 * 2 ^ 32) 3, rg, pold 0, by decide +kernel⟩
theorem wit_PoldersAreMadeAndChanged_4 : ∃ (c : Cmd) (s : State) (v : Polder), s.passes specPolderObj c = true ∧ s.polder
    c.e.polder = some v ∧ v.deleting = false ∧ objKind c = 8 ∧ objNum c = 0 ∧ c.e.p1 = 0 ∧ ((v.secure = false ∨ s.flag
    .WORLD_ATTR_SIDEBAND_TRUSTED 0 = true)) :=
⟨sbc 0x12 1 8 0, upP 0, pold 0, by decide +kernel⟩
theorem wit_PoldersAreMadeAndChanged_5 : ∃ (c : Cmd) (s : State) (v : Polder), s.passes specPolderObj c = true ∧ s.polder
    c.e.polder = some v ∧ v.deleting = false ∧ objKind c = 1 ∧ objNum c < 256 ∧ s.holdsRgn c.e.polder (objNum c) = true :=
⟨sbc 0x13 1 (1 + 3 * 2 ^ 32) 0, sets rg [(.RGN_RD_MASK, 3, 2)], pold 0, by decide +kernel⟩
theorem wit_PoldersAreMadeAndChanged_6 : ∃ (c : Cmd) (s : State) (v : Polder), s.passes specPolderObj c = true ∧ s.polder
    c.e.polder = some v ∧ v.deleting = false ∧ objKind c = 0 ∧ objNum c < 240 ∧ some (objNum c) ∈ v.lcpus ∧ (s.core (objNum
    c)).t.leaving = false ∧ s.moving (objNum c) = false :=
⟨rest1, crl, { pold 0 with lcpus := [some 5] }, by decide +kernel⟩
theorem wit_PoldersAreMadeAndChanged_7 : ∃ (g : GCore) (s : State) (v : Polder) (c : Cmd), s.polder (s.core g).pol = some v ∧
    v.detCmds = [(g.val, c)] ∧ v.deleting = false ∧ s.atRest g = true ∧ (s.runningOf c).any (·.discard) = false :=
⟨5, (upS.setPolder 1 (some { pold 0 with lcpus := [some 5], detCmds := [(5, rest1)] })).updCore 5 fun c =>
    { c with pol := 1 }, { pold 0 with lcpus := [some 5], detCmds := [(5, rest1)] }, rest1, by decide +kernel⟩
theorem wit_PoldersAreMadeAndChanged_8 : ∃ (c : Cmd) (s : State) (v : Polder), s.passes specPolderDelete c = true ∧ s.polder
    c.e.polder = some v ∧ v.deleting = false ∧ v.lcpus = [] ∧ s.polHeld c.e.polder v = false ∧ s.berm.migr = [] :=
⟨sbc 0x11 1 0 0, upP 0, pold 0, by decide +kernel⟩
theorem wit_PoldersAreMadeAndChanged_9 : ∃ (c : Cmd) (s : State) (v : Polder), s.passes specSetEntry c = true ∧ s.srcSecure
    c.src = true ∧ s.polder (bitsOf c.e.p0 15 0 - 0x300) = some v ∧ bitOf c.e.p1 0 = false :=
⟨sbc 4 0 0x301 0x123454, upP 0, pold 0, by decide +kernel⟩

end PoldersAreMadeAndChanged

namespace PtimeIsDisciplined

theorem wit_PtimeIsDisciplined_1 : ∃ (a : Acc) (h : Half) (v : Word) (s : State), a.sec = true ∧ s.lost h = false ∧
    s.anyTickBound = false :=
⟨hub, 0, 0xFFFFFFFFFFFFFFFF, sets upS [(.PT_NOW_TIME, 0, 5)], by decide +kernel⟩
theorem wit_PtimeIsDisciplined_1b : ∃ (a : Acc) (h : Half) (v : Word) (s : State), a.sec = true ∧ s.lost h = false ∧
    s.anyTickBound = false :=
⟨hub, 0, 0xFFFFFFFFFFFFFFFF, upS, by decide +kernel⟩
theorem wit_PtimeIsDisciplined_2 : ∃ (a : Acc) (h : Half) (v : Word) (s : State), a.sec = true ∧ s.lost h = false ∧
    s.anyTickBound = true :=
⟨hub, 1, 5, upP 4, by decide +kernel⟩
theorem wit_PtimeIsDisciplined_3 : ∃ (a : Acc) (h : Half) (v : Word) (s : State), a.sec = true ∧ s.lost h = false :=
⟨hub, 1, 0xFFFFFFFFFFFFFFFF, upS.updTe fun t => { t with phaseLeft := 1 }, by decide +kernel⟩
theorem wit_PtimeIsDisciplined_4 : ∃ (h : Half) (s : State), s.get .PT_CTL_PPS_HALF 0 = h ∧ s.lost h = false :=
⟨0, upS, by decide +kernel⟩
theorem wit_PtimeIsDisciplined_5 : ∃ (h : Half) (s : State), (s.get .PT_CTL_PPS_HALF 0 ≠ h ∨ s.lost h = true) :=
⟨1, upS, by decide +kernel⟩
theorem wit_PtimeIsDisciplined_6 : ∃ (lost : Bool) (s : State), s.get .PT_CTL_SRC 0 ≠ 0 :=
⟨true, sets upS [(.PT_CTL_SRC, 0, 2), (.PT_STAT_SRC_OK, 0, 1)], by decide +kernel⟩
theorem wit_PtimeIsDisciplined_6b : ∃ (lost : Bool) (s : State), s.get .PT_CTL_SRC 0 ≠ 0 :=
⟨false, sets upS [(.PT_CTL_SRC, 0, 1), (.PT_STAT_HOLDOVER, 0, 1)], by decide +kernel⟩
theorem wit_PtimeIsDisciplined_8 : ∃ s : State, s.te.phaseLeft = 0 :=
⟨sets upS [(.PT_STAT_SLEWING, 0, 1)], by decide +kernel⟩
theorem wit_PtimeIsDisciplined_9 : ∃ s : State, s.te.phaseLeft ≠ 0 :=
⟨(sets upS [(.PT_STAT_SLEWING, 0, 1)]).updTe fun t => { t with phaseLeft := 1 }, by decide +kernel⟩

end PtimeIsDisciplined

namespace TicksAreConfiguredAndDelivered

def tp : Polder := { pold 4 with lcpus := [some 5, some 25] }
def ts : State := (sets (upS.setPolder 1 (some tp)) [(.TK_NOW_STATE, 1, 1), (.PT_NOW_TIME, 0, 20000000)]).updCore 5 fun c => { c with pol := 1 }
def tsrc (k : Nat) : State := sets ts [(.TK_CFG_WORD, 6, k), (.TK_CFG_WORD, 8, 10000)]
def tm : TickMsg := { TickMsg.none with num := 9, fire := 20000020 }
def td (w0 : Nat) : List Byte := wordsLe [w0, 0, 100000000 + 160 * 2 ^ 32, 2000, 0, 0, 0, 0]
def nx : List Word := [2, 0, 0x186A0, 0, 0, 0]

theorem wit_TicksAreConfiguredAndDelivered_1 : ∃ (a : Acc) (h : Half) (p : Pol) (s : State) (v : Polder), a.sec = true ∧
    s.lost h = false ∧ s.polder p = some v ∧ s.tkSource p = 5 ∧ s.get .TK_NOW_STATE p = 1 ∧ (s.ctx p).next = none ∧ (s.ctx
    p).suspendNext = false ∧ (s.ctx p).stall = none ∧ (s.ctx p).first = none ∧ (s.ctx p).stretching = false :=
⟨hub, 0, 1, sets (tsrc 5) [(.TK_NOW_NUM, 1, 2 ^ 48 - 1)], tp, by decide +kernel⟩
theorem wit_TicksAreConfiguredAndDelivered_2 : ∃ (p : Pol) (s : State) (v : Polder) (e : Nat), s.polder p = some v ∧ s.get
    .TK_NOW_STATE p = 1 ∧ (s.ctx p).encFailed = false ∧ s.tkSource p = 2 ∧ s.edgeDue p = some (e, 0) ∧ (s.ctx p).next = none ∧
    (s.ctx p).first = none ∧ s.masterChans p = [] :=
⟨1, sets (tsrc 2) [(.TK_NOW_NUM, 1, 2 ^ 48 - 1)], tp, 10000, by decide +kernel⟩
theorem wit_TicksAreConfiguredAndDelivered_3 : ∃ (c : Cmd) (s : State) (v : Polder), s.passes specTickConfigure c = true ∧
    s.polder c.e.polder = some v ∧ s.bufLen c = 64 ∧ tickDescOk v (s.bufWord c) = true ∧ bitsOf (s.bufWord c 0) 2 0 ≠ 1 ∧
    bitsOf (s.bufWord c 0) 2 0 ≠ 4 ∧ (v.guarded = true → v.frame ≠ none) ∧ (s.ctx c.e.polder).next = none :=
⟨sbb 0x18 1 0 0 64 (td 2), ts, tp, by decide +kernel⟩
theorem wit_TicksAreConfiguredAndDelivered_4 : ∃ (p : Pol) (s : State) (ws : List Word) (t0 : Nat), (s.ctx p).next = some (ws,
    t0) ∧ ((s.get .TK_NOW_STATE p = 0 ∨ (s.ctx p).encFailed = true)) ∧ t0 + 1000000 ≤ s.now ∧ (bitsOf (ws.getD 0 0).toNat 2 0
    = 1 → s.guardedCfg = false ∧ s.encBad (bitsOf (ws.getD 0 0).toNat 7 4) = false) ∧ (∀ c, (s.ctx p).nextCmd = some c →
    (s.runningOf c).any (·.discard) = false) :=
⟨1, (sets ts [(.TK_NOW_STATE, 1, 0)]).updCtx 1 (fun c =>
    { c with next := some (nx, 19000000), nextCmd := some (sbc 0x18 1 0 0) }), nx, 19000000, by decide +kernel⟩
theorem wit_TicksAreConfiguredAndDelivered_5 : ∃ (d : Die) (p : Pol) (h : Half) (s : State) (m : TickMsg), (h : Nat) =
    s.driver p ∧ s.msgTo p d h = some m :=
⟨0, 1, 0, ts.updCtx 1 (fun c => { c with msgs := [(0, 0, tm)] }), tm, by decide +kernel⟩
theorem wit_TicksAreConfiguredAndDelivered_6 : ∃ (d : Die) (p : Pol) (h : Half) (s : State), (h : Nat) ≠ s.driver p :=
⟨0, 1, 1, ts, by decide +kernel⟩
theorem wit_TicksAreConfiguredAndDelivered_7 : ∃ (d : Die) (p : Pol) (s : State) (m : TickMsg), s.msgTo p d (1 - s.driver p) =
    some m ∧ m.fire ≤ s.now + 20 :=
⟨0, 1, (sets ts [(.TE_STAT_BACKUP, instH 1 0, 65535)]).updCtx 1 (fun c => { c with msgs := [(0, 1, tm)] }), tm, by
    decide +kernel⟩
theorem wit_TicksAreConfiguredAndDelivered_8 : ∃ (a : Acc) (h : Half) (p : Pol) (s : State), a.sec = true ∧ s.lost h = false ∧
    s.get .TK_NOW_STATE p = 2 :=
⟨hub, 0, 1, sets ts [(.TK_NOW_STATE, 1, 2)], by decide +kernel⟩
theorem wit_TicksAreConfiguredAndDelivered_9 : ∃ (p : Pol) (cause : TakeoverCause) (s : State) (v : Polder), s.polder p = some
    v ∧ s.lost (1 - s.driver p) = false ∧ s.nextDriver p ≠ 1 - s.driver p :=
⟨1, .parity, ts, tp, by decide +kernel⟩
theorem wit_TicksAreConfiguredAndDelivered_10 : ∃ (p : Pol) (s : State), s.tkSource p = 1 ∧ ((s.get .TK_NOW_STATE p = 1 ∨
    s.get .TK_NOW_STATE p = 2)) ∧ max (s.get .TK_EDGE_PTIME p) (s.ctx p).anchor + 1000000000 ≤ s.now :=
⟨1, sets (tsrc 1) [(.PT_NOW_TIME, 0, 1000000000)], by decide +kernel⟩

end TicksAreConfiguredAndDelivered

namespace EncodersCountAndFail

def en (e : Nat) (l : List (Fld × Nat × Nat)) : State := sets upS ((.ENC_CFG_EN, instEnc e, 1) :: l)
def eAB (s : State) (e : Nat) (a b : Bool) : State := s.updEnc e fun x => { x with a := a, b := b }

theorem wit_EncodersCountAndFail_1 : ∃ (e : Fin 16) (a b : Bool) (held : Nat) (s : State) (n : Int), s.lost (e / 8) = false ∧
    s.flag .ENC_CFG_EN (instEnc e) = true ∧ s.get .ENC_CFG_FILT (instEnc e) ≤ held ∧ s.guardedCfg = false ∧ n = encStep (s.get
    .ENC_CFG_MODE (instEnc e)) (s.encIn e).a (s.encIn e).b a b ∧ n ≠ 0 :=
⟨15, true, false, 15, en 15 [(.ENC_POS_POS, instEnc 15, 2 ^ 63 - 1)], 1, by decide +kernel⟩
theorem wit_EncodersCountAndFail_1b : ∃ (e : Fin 16) (a b : Bool) (held : Nat) (s : State) (n : Int), s.lost (e / 8) = false ∧
    s.flag .ENC_CFG_EN (instEnc e) = true ∧ s.get .ENC_CFG_FILT (instEnc e) ≤ held ∧ s.guardedCfg = false ∧ n = encStep (s.get
    .ENC_CFG_MODE (instEnc e)) (s.encIn e).a (s.encIn e).b a b ∧ n ≠ 0 :=
⟨15, false, true, 15, en 15 [(.ENC_CFG_FILT, instEnc 15, 15)], -1, by decide +kernel⟩
theorem wit_EncodersCountAndFail_1c : ∃ (e : Fin 16) (a b : Bool) (held : Nat) (s : State) (n : Int), s.lost (e / 8) = false ∧
    s.flag .ENC_CFG_EN (instEnc e) = true ∧ s.get .ENC_CFG_FILT (instEnc e) ≤ held ∧ s.guardedCfg = false ∧ n = encStep (s.get
    .ENC_CFG_MODE (instEnc e)) (s.encIn e).a (s.encIn e).b a b ∧ n ≠ 0 :=
⟨3, false, false, 15, eAB (en 3 [(.ENC_CFG_MODE, instEnc 3, 2)]) 3 true false, -1, by decide +kernel⟩
theorem wit_EncodersCountAndFail_1d : ∃ (e : Fin 16) (a b : Bool) (held : Nat) (s : State) (n : Int), s.lost (e / 8) = false ∧
    s.flag .ENC_CFG_EN (instEnc e) = true ∧ s.get .ENC_CFG_FILT (instEnc e) ≤ held ∧ s.guardedCfg = false ∧ n = encStep (s.get
    .ENC_CFG_MODE (instEnc e)) (s.encIn e).a (s.encIn e).b a b ∧ n ≠ 0 :=
⟨3, true, true, 15, eAB (en 3 [(.ENC_CFG_MODE, instEnc 3, 3)]) 3 false true, -1, by decide +kernel⟩
theorem wit_EncodersCountAndFail_2 : ∃ (e : Fin 16) (a b z : Bool) (held : Nat) (s : State), (s.lost (e / 8) = true ∨ s.flag
    .ENC_CFG_EN (instEnc e) = true ∧ held < s.get .ENC_CFG_FILT (instEnc e)) :=
⟨15, false, true, true, 14, en 15 [(.ENC_CFG_FILT, instEnc 15, 15)], by decide +kernel⟩
theorem wit_EncodersCountAndFail_3 : ∃ (e : Fin 16) (a b z : Bool) (held : Nat) (s : State), s.lost (e / 8) = false ∧ s.flag
    .ENC_CFG_EN (instEnc e) = false :=
⟨0, true, true, true, 9, upS, by decide +kernel⟩
theorem wit_EncodersCountAndFail_4 : ∃ (e : Fin 16) (a b : Bool) (held : Nat) (s : State), s.lost (e / 8) = false ∧ s.flag
    .ENC_CFG_EN (instEnc e) = true ∧ s.get .ENC_CFG_FILT (instEnc e) ≤ held ∧ s.get .ENC_CFG_MODE (instEnc e) ≠ 3 ∧ a ≠
    (s.encIn e).a ∧ b ≠ (s.encIn e).b :=
⟨0, true, true, 15, en 0 [(.ENC_STAT_ILLEGAL_CNT, instEnc 0, 65535)], by decide +kernel⟩
theorem wit_EncodersCountAndFail_5 : ∃ (e : Fin 16) (s : State), s.flag .ENC_CFG_EN (instEnc e) = true ∧ s.lost (e / 8) =
    false :=
⟨8, sets upS [(.ENC_CFG_EN, instEnc 8, 1)], by decide +kernel⟩
theorem wit_EncodersCountAndFail_6 : ∃ (e : Fin 16) (s : State), s.flag .ENC_CFG_EN (instEnc e) = true ∧ s.lost (e / 8) =
    false :=
⟨8, sets upS [(.ENC_CFG_EN, instEnc 8, 1), (.ENC_STAT_ILLEGAL_CNT, instEnc 8, 65535)], by decide +kernel⟩
theorem wit_EncodersCountAndFail_7 : ∃ (e : Fin 16) (c : EncFault) (s : State), (s.flag .ENC_CFG_EN (instEnc e) = false ∨
    s.lost (e / 8) = true) :=
⟨8, .los, upS, by decide +kernel⟩
theorem wit_EncodersCountAndFail_8 : ∃ (a : Acc) (e : Fin 16) (v : Word) (s : State), a.sec = true ∧ s.lost (e / 8) = false ∧
    s.flag .ENC_CFG_EN (instEnc e) = false ∧ bitOf v.toNat 0 = true :=
⟨hub, 9, 0xFF0057, sets upS [(.ENC_STAT_FAILED, instEnc 9, 1)], by decide +kernel⟩

end EncodersCountAndFail

namespace TriggersFireAndSlackOpens

def tgp : Polder := { pold 4 with trigs := 2 ^ 31 }
def tgs (t : Nat) : State := sets (upS.setPolder 1 (some tgp)) [(.PT_NOW_TIME, 0, t)]
def tgq (a o t : Nat) : State := ((sets (tgs t) [(.TRIG_STAT_ARMED, instTrg 31, a), (.TRIG_CNT_FIRED, instTrg 31, 65535), (.TRIG_CNT_DISARM_DROP, instTrg 31, 255)]).setTrigQ 31 [(7, o, none)]).updCtx 1 fun c => { c with edges := [(7, 1000)] }
def slack : State := sets (upP (4)) [(.TK_NOW_STATE, 1, 1)]

theorem wit_TriggersFireAndSlackOpens_1 : ∃ (c : Cmd) (s : State) (p : Nat), s.passes specTrigProgram c = true ∧ s.trigFor c
    (bitsOf c.e.p0 4 0) = some p ∧ s.guardedCfg = false ∧ s.trigUp (bitsOf c.e.p0 4 0) = true ∧ s.released c = false ∧ 100 ≤
    bitsOf c.e.p1 31 0 ∧ s.trigFull (bitsOf c.e.p0 4 0) = false ∧ s.trigLate p (bitsOf c.e.p0 63 16) (bitsOf c.e.p1 31 0) =
    none :=
⟨sbc 0x19 0 (31 + 7 * 2 ^ 16) 100, tgs 0, 1, by decide +kernel⟩
theorem wit_TriggersFireAndSlackOpens_2 : ∃ (c : Cmd) (s : State) (p : Nat), s.passes specTrigProgram c = true ∧ s.trigFor c
    (bitsOf c.e.p0 4 0) = some p ∧ s.released c = false ∧ bitsOf c.e.p1 31 0 < 100 :=
⟨sbc 0x19 0 (31 + 7 * 2 ^ 16) 99, tgs 0, 1, by decide +kernel⟩
theorem wit_TriggersFireAndSlackOpens_3 : ∃ (k : Fin 32) (s : State) (p n o e : Nat), s.trigOwner k = some p ∧ s.trigQ k =
    [(n, o, none)] ∧ s.edgeOf p n = some e ∧ s.trigUp k = true ∧ e + o < s.now ∧ s.flag .TRIG_STAT_ARMED (instTrg k) = true ∧
    Tbl.get 0 s.te.pulseEnd k ≤ e + o :=
⟨31, tgq 1 500 1501, 1, 7, 500, 1000, by decide +kernel⟩
theorem wit_TriggersFireAndSlackOpens_4 : ∃ (k : Fin 32) (s : State) (p n o e : Nat), s.trigOwner k = some p ∧ s.trigQ k =
    [(n, o, none)] ∧ s.edgeOf p n = some e ∧ s.trigUp k = true ∧ e + o < s.now ∧ s.flag .TRIG_STAT_ARMED (instTrg k) = false
    :=
⟨31, tgq 0 500 1501, 1, 7, 500, 1000, by decide +kernel⟩
theorem wit_TriggersFireAndSlackOpens_5 : ∃ (c : Cmd) (s : State) (p : Nat), s.passes specTrigArm c = true ∧ s.trigFor c
    (bitsOf c.e.p0 4 0) = some p ∧ s.trigUp (bitsOf c.e.p0 4 0) = true :=
⟨sbc 0x66 0 31 0, tgs 0, 1, by decide +kernel⟩
theorem wit_TriggersFireAndSlackOpens_6 : ∃ (c : Cmd) (s : State) (p : Nat), s.passes specTrigArm c = true ∧ s.trigFor c
    (bitsOf c.e.p0 4 0) = some p ∧ s.trigUp (bitsOf c.e.p0 4 0) = true :=
⟨sbc 0x67 0 31 0, tgs 0, 1, by decide +kernel⟩
theorem wit_TriggersFireAndSlackOpens_7 : ∃ (c : Cmd) (s : State) (p k : Nat), s.passes specSetTrig c = true ∧ bitsOf c.e.p0
    15 0 = 0x100 + k ∧ k < 32 ∧ s.trigFor c k = some p ∧ s.guardedCfg = false :=
⟨sbc 4 0 0x11F 0xFFFFFF03, tgs 0, 1, 31, by decide +kernel⟩
theorem wit_TriggersFireAndSlackOpens_8 : ∃ (s : State) (c : Nat), s.slackTime = some c :=
⟨(sets slack [(.TK_CFG_WORD, 6, 2 + 2 ^ 11)]).updCtx 1 (fun c => { c with restrains := true }), 0, by decide +kernel⟩
theorem wit_TriggersFireAndSlackOpens_10 : ∃ (s : State) (c : Nat), s.te.slackClose = some c :=
⟨upS.updTe (fun t => { t with slackOpen := true, slackClose := some 0 }), 0, by decide +kernel⟩
theorem wit_TriggersFireAndSlackOpens_10b : ∃ (s : State) (c : Nat), s.te.slackClose = some c :=
⟨upS.updTe (fun t => { t with slackOpen := true, slackClose := some 1 }), 1, by decide +kernel⟩

end TriggersFireAndSlackOpens

namespace TicksAreTakenAndClosed

def tk1 : TickMsg := { TickMsg.none with num := 2 ^ 48 - 1, edge := 400, fire := 500 }
def till (m : TickMsg) (d : Nat) : TickMsg := { m with deadline := d }

theorem wit_TicksAreTakenAndClosed_1 : ∃ (g : GCore) (s : State) (m : TickMsg), s.mayTake g = true ∧ (s.core g).t.backlog = []
    ∧ (s.core g).t.pend = some m ∧ m.fire ≤ s.diePtime (dieOf g) ∧ (s.core g).t.doneAt < m.fire ∧ s.berm.migr = [] :=
⟨5, withT (sets (runP 5 4) [(.PT_NOW_TIME, 0, 500)]) 5 (fun t => { t with waiting := true, pend := some tk1 }), tk1, by
    decide +kernel⟩
theorem wit_TicksAreTakenAndClosed_1b : ∃ (g : GCore) (s : State) (m : TickMsg), s.mayTake g = true ∧ (s.core g).t.backlog =
    [] ∧ (s.core g).t.pend = some m ∧ m.fire ≤ s.diePtime (dieOf g) ∧ (s.core g).t.doneAt < m.fire ∧ s.berm.migr = [] :=
⟨5, withT (sets (runP 5 6) [(.PT_NOW_TIME, 0, 600)]) 5 (fun t => { t with first := false, pend := some tk1 }), tk1, by
    decide +kernel⟩
theorem wit_TicksAreTakenAndClosed_2 : ∃ (g : GCore) (s : State) (m : TickMsg), s.mayTake g = true ∧ (s.core g).t.backlog = []
    ∧ (s.core g).t.pend = some m ∧ m.fire ≤ (s.core g).t.doneAt :=
⟨5, withT (sets (runP 5 4) [(.PT_NOW_TIME, 0, 900), (.TK_EVT_SKIP, 1, 65535)]) 5 (fun t =>
    { t with waiting := true, doneAt := 500, missed := 65535, pend := some tk1 }), tk1, by decide +kernel⟩
theorem wit_TicksAreTakenAndClosed_3 : ∃ (g : GCore) (s : State), s.mayTake g = false :=
⟨5, run 5, by decide +kernel⟩
theorem wit_TicksAreTakenAndClosed_4 : ∃ (g : GCore) (s : State), (s.core g).t.isOpen = true ∧ (s.core g).t.durable = false ∧
    s.coreGuarded g = true :=
⟨239, withT (runP 239 6) 239 fun t => { t with isOpen := true, ints := [0x11] }, by decide +kernel⟩
theorem wit_TicksAreTakenAndClosed_5 : ∃ (g : GCore) (w : BitVec 32) (s : State), s.canRun g = true ∧ s.wordOk g 0x01 w = true
    ∧ (s.core g).t.isOpen = true ∧ s.coreGuarded g = false ∧ (s.core g).t.catching = false ∧ (s.core g).intEnabled = false ∧
    s.berm.wayRet = [] :=
⟨5, wrd 1 0 0 0 0, withT (runP 5 4) 5 fun t => { t with isOpen := true }, by decide +kernel⟩
theorem wit_TicksAreTakenAndClosed_6 : ∃ (g : GCore) (w : BitVec 32) (s : State), s.canRun g = true ∧ s.wordOk g 0x01 w = true
    ∧ (s.core g).t.isOpen = true ∧ s.coreGuarded g = true ∧ (s.core g).mb = [] :=
⟨5, wrd 1 0 0 0 0, gOpen 5, by decide +kernel⟩
theorem wit_TicksAreTakenAndClosed_7 : ∃ (g : GCore) (w : BitVec 32) (s : State), s.canRun g = true ∧ s.wordOk g 0x01 w = true
    ∧ (s.core g).t.isOpen = false :=
⟨5, wrd 1 0 0 0 0, runP 5 4, by decide +kernel⟩
theorem wit_TicksAreTakenAndClosed_8 : ∃ (g : GCore) (w : BitVec 32) (s : State), s.canRun g = true ∧ s.wordOk g 0x00 w = true
    ∧ s.calm g = true ∧ s.polTickBound (s.core g).pol = false :=
⟨5, wrd 0 0 0 0 0, runP 5 0, by decide +kernel⟩
theorem wit_TicksAreTakenAndClosed_8b : ∃ (g : GCore) (w : BitVec 32) (s : State), s.canRun g = true ∧ s.wordOk g 0x00 w =
    true ∧ s.calm g = true ∧ s.polTickBound (s.core g).pol = false :=
⟨5, wrd 0 0 31 0 0, runP 5 1, by decide +kernel⟩
theorem wit_TicksAreTakenAndClosed_9 : ∃ (g : GCore) (w : BitVec 32) (s : State), s.canRun g = true ∧ s.wordOk g 0x00 w = true
    ∧ s.polTickBound (s.core g).pol = true ∧ s.coreGuarded g = false ∧ (s.core g).t.isOpen = false ∧ (s.core g).t.backlog = []
    ∧ (s.core g).t.pend = none ∧ (s.core g).intEnabled = false :=
⟨5, wrd 0 0 3 0 0, runP 5 4, by decide +kernel⟩
theorem wit_TicksAreTakenAndClosed_10 : ∃ (g : GCore) (w : BitVec 32) (s : State), s.canRun g = true ∧ s.wordOk g 0x00 w =
    true ∧ s.polTickBound (s.core g).pol = true ∧ s.coreGuarded g = true ∧ (s.core g).mb = [] :=
⟨5, wrd 0 0 0 0 0, gOpen 5, by decide +kernel⟩
theorem wit_TicksAreTakenAndClosed_10b : ∃ (g : GCore) (w : BitVec 32) (s : State), s.canRun g = true ∧ s.wordOk g 0x00 w =
    true ∧ s.polTickBound (s.core g).pol = true ∧ s.coreGuarded g = true ∧ (s.core g).mb = [] :=
⟨5, wrd 0 0 3 0 0, runP 5 6, by decide +kernel⟩
theorem wit_TicksAreTakenAndClosed_11 : ∃ (g : GCore) (w : BitVec 32) (s : State), s.canRun g = true ∧ s.wordOk g 0x02 w =
    true ∧ s.inGuarded g = true :=
⟨5, wrd 2 0 0 0 0, sets (gOpen 5) [(.GD_CNT0_TICKABORT, 1, 65535)], by decide +kernel⟩
theorem wit_TicksAreTakenAndClosed_12 : ∃ (g : GCore) (w : BitVec 32) (s : State), s.canRun g = true ∧ s.wordOk g 0x02 w =
    true ∧ (s.core g).t.isOpen = false :=
⟨5, wrd 2 0 0 0 0, runP 5 4, by decide +kernel⟩
theorem wit_TicksAreTakenAndClosed_13 : ∃ (g : GCore) (s : State), (s.core g).t.isOpen = true ∧ s.coreGuarded g = false ∧
    (s.core g).t.step = 0 ∧ (s.core g).t.overran = false ∧ (s.core g).t.cur.deadline < s.now ∧ (s.polder (s.core g).pol).any
    (·.deleting) = false ∧ (s.core g).t.catching = false ∧ s.tkPolicy (s.core g).pol = 0 :=
⟨5, withT (sets (runP 5 4) [(.PT_NOW_TIME, 0, 901)]) 5 fun t => { t with isOpen := true, cur := till TickMsg.none 900 }, by
    decide +kernel⟩
theorem wit_TicksAreTakenAndClosed_14 : ∃ (g : GCore) (s : State), ((s.core g).t.isOpen = false ∨ s.now ≤ (s.core
    g).t.cur.deadline) :=
⟨5, runP 5 4, by exact Or.inl (by decide +kernel)⟩
theorem wit_TicksAreTakenAndClosed_14b : ∃ (g : GCore) (s : State), ((s.core g).t.isOpen = false ∨ s.now ≤ (s.core
    g).t.cur.deadline) :=
⟨5, withT (sets (runP 5 4) [(.PT_NOW_TIME, 0, 900)]) 5 (fun t => { t with isOpen := true, cur := till TickMsg.none 900 }), by
    exact Or.inr (by decide +kernel)⟩

end TicksAreTakenAndClosed

namespace CommitsAndFaults

def tkr : TickMsg := { TickMsg.none with num := 4, rerun := true }
def step (n : Nat) : State := withT (gOpen 5) 5 fun t => { t with step := n }
def gLine (td : Bool) : CLine := ⟨7, true, true, td, 0, false, 0⟩
def pmsg : Msg := ⟨.invalidate, 0xC01, 0x011, 3, 0, 1, false, 0, 0x40, 0, 0, 0⟩
def tk (s : State) (n : Nat) : State := sets s [(.PT_NOW_TIME, 0, n)]
def gbig : State := (withT (withC (sets (runP 5 6) [(.GD_STAT_VACANT, 1, 255)]) 5 fun c => c) 5 fun t => { t with isOpen := true, durable := true, first := false })

theorem wit_CommitsAndFaults_1 : ∃ (g : GCore) (s : State), (s.core g).t.step = 2 ∧ (s.core g).t.phaseA = [] ∧ (s.core
    g).t.splitting = false ∧ (s.core g).t.first = false ∧ (s.core g).t.catching = false :=
⟨5, withT (step 2) 5 fun t => { t with token := some 0 }, by decide +kernel⟩
theorem wit_CommitsAndFaults_2 : ∃ (g : GCore) (s : State), (s.core g).t.step ≠ 2 :=
⟨5, gOpen 5, by decide +kernel⟩
theorem wit_CommitsAndFaults_3 : ∃ (g : GCore) (s : State), (s.core g).t.step = 4 ∧ s.tdLines g = [] :=
⟨5, step 4, by decide +kernel⟩
theorem wit_CommitsAndFaults_4 : ∃ (g : GCore) (s : State), (s.core g).t.step ≠ 4 :=
⟨5, step 5, by decide +kernel⟩
theorem wit_CommitsAndFaults_5 : ∃ (g : GCore) (s : State), s.berm.replay.find? (fun x => x.old == (g : Nat)) = none ∧ (s.core
    g).t.step = 5 ∧ (s.core g).t.dq.length ≤ s.passed (s.core g).pol (s.core g).lcpu (s.core g).t.cur.num ∧ (s.core g).smpHeld
    = [] ∧ (s.core g).t.splitting = false ∧ (s.core g).t.first = false ∧ s.berm.wayRet = [] ∧ (s.core g).t.backlog = [] ∧
    (s.core g).t.pend = none :=
⟨5, withT (step 5) 5 fun t => { t with half := 1 }, by decide +kernel⟩
theorem wit_CommitsAndFaults_6 : ∃ (g : GCore) (s : State), s.berm.replay.find? (fun x => x.old == (g : Nat)) = none ∧ (s.core
    g).t.step ≠ 5 :=
⟨5, step 4, by decide +kernel⟩
theorem wit_CommitsAndFaults_7 : ∃ (g : GCore) (la : LineAddr) (m : Msg) (t0 : Nat) (s : State), (s.core g).t.step < 2 ∧
    (s.core g).t.token = none ∧ (s.core g).t.isOpen = true ∧ (m, t0) ∈ (s.core g).parked ∧ m.la = la ∧ t0 + s.deferLimit
    (s.core g).pol ≤ s.now :=
⟨5, 0x40, pmsg, 100, sets (withC (gOpen 5) 5 fun c => { c with parked := [(pmsg, 100)] }) [(.PT_NOW_TIME, 0, 300),
    (.GD_CTL_DEFER_LIMIT, 1, 0), (.GD_CNT0_ABORT_SNOOP, 1, 65535)], by decide +kernel⟩
theorem wit_CommitsAndFaults_8 : ∃ (g : GCore) (la : LineAddr) (s : State), ((2 ≤ (s.core g).t.step ∨ (s.core
    g).t.token.isSome = true)) :=
⟨5, 0x40, step 2, by exact Or.inl (by decide +kernel)⟩
theorem wit_CommitsAndFaults_8b : ∃ (g : GCore) (la : LineAddr) (s : State), ((2 ≤ (s.core g).t.step ∨ (s.core
    g).t.token.isSome = true)) :=
⟨5, 0x40, withT (gOpen 5) 5 (fun t => { t with token := some 0 }), by exact Or.inr (by decide +kernel)⟩
theorem wit_CommitsAndFaults_9 : ∃ (g : GCore) (syn : Word) (s : State), s.inGuarded g = true ∧ (s.core g).t.step < 4 :=
⟨5, 0x77, sets (step 3) [(.GD_CNT0_ABORT_ERR, 1, 65535)], by decide +kernel⟩
theorem wit_CommitsAndFaults_10 : ∃ (g : GCore) (syn : Word) (s : State), (s.core g).pol ≠ 0 ∧ (s.core g).serv = 0 ∧ (s.core
    g).t.leaving = false ∧ s.coreGuarded g = false ∧ (s.die (dieOf g)).state = 0 :=
⟨5, 0x77, sets (runP 5 4) [(.GD_STAT_VACANT, 1, 255)], by decide +kernel⟩
theorem wit_CommitsAndFaults_11 : ∃ (g : GCore) (n : Nat) (syn : Word) (s : State), (s.core g).pol ≠ 0 ∧ (s.core g).serv = 0 ∧
    (s.core g).t.leaving = false ∧ s.coreGuarded g = true ∧ (s.core g).t.first = false ∧ (s.die (dieOf g)).state = 0 ∧ (s.core
    g).t.isOpen = true ∧ (s.core g).t.token = none ∧ (s.core g).smpHeld = [] ∧ s.coreOf (s.core g).pol (s.core g).lcpu = some
    g.val ∧ s.commitRec (s.core g).pol (s.core g).lcpu ((s.core g).t.half + 1) = none ∧ s.migrFrom g = none ∧ s.replacementFor
    g = some n :=
⟨5, 18, 0x77, sets (gOpen 5) [(.GD_CNT0_RERUN_FAULT, 1, 65535)], by decide +kernel⟩
theorem wit_CommitsAndFaults_12 : ∃ (p : Pol) (l : Byte) (n old : Nat) (s : State), s.coreOf p l.toNat = some n ∧ (s.core
    n).t.recovering = true ∧ (p.val, l.toNat, old) ∈ s.berm.repl ∧ s.berm.replay.any (fun x => x.pol == (p : Nat) && x.lcpu ==
    l.toNat) = false ∧ (s.core n).t.cur.rerun = true :=
⟨1, 0, 18, 5, (withT (runP 18 6) 18 fun t => { t with recovering := true, cur := tkr }).updBerm fun b =>
    { b with repl := [(1, 0, 5)] }, by decide +kernel⟩
theorem wit_CommitsAndFaults_13 : ∃ (c : Cmd) (p : Nat) (v : Polder) (s : State), s.passes specSetGd c = true ∧ s.srcSecure
    c.src = true ∧ bitsOf c.e.p0 15 0 = 0x200 + p ∧ p < 32 ∧ s.polder p = some v :=
⟨sbc 4 0 0x201 0x7FFFFF, 1, pold 6, upP 6, by decide +kernel⟩

end CommitsAndFaults

namespace ExceptionsEnterAndReturn

def dev5 : Miss := ⟨0x40, 5, 3, 0x1000, 8, 0, 0, 1, 100, 0, 0, 100, []⟩

theorem wit_ExceptionsEnterAndReturn_1 : ∃ (g : GCore) (imm : BitVec 16) (s : State), s.canRun g = true ∧ (s.core g).level ≤ 3
    :=
⟨237, 0xFFFF, sysr (run 237) 237 [(0x304, 0x7FFF)], by decide +kernel⟩
theorem wit_ExceptionsEnterAndReturn_1b : ∃ (g : GCore) (imm : BitVec 16) (s : State), s.canRun g = true ∧ (s.core g).level ≤
    3 :=
⟨5, 0xFFFF, atLevel (runP 5 0) 5 0, by decide +kernel⟩
theorem wit_ExceptionsEnterAndReturn_2 : ∃ (g : GCore) (imm : BitVec 16) (s : State), s.canRun g = true ∧ (s.core g).level ≤ 3
    :=
⟨5, 0xFFFF, atLevel (runP 5 0) 5 0, by decide +kernel⟩
theorem wit_ExceptionsEnterAndReturn_3 : ∃ (g : GCore) (imm : BitVec 16) (s : State), s.canRun g = true ∧ (s.core g).level ≤ 2
    :=
⟨5, 0xFFFF, runP 5 0, by decide +kernel⟩
theorem wit_ExceptionsEnterAndReturn_3b : ∃ (g : GCore) (imm : BitVec 16) (s : State), s.canRun g = true ∧ (s.core g).level ≤
    2 :=
⟨5, 1, atLevel (runP 5 1) 5 1, by decide +kernel⟩
theorem wit_ExceptionsEnterAndReturn_4 : ∃ (g : GCore) (imm : BitVec 16) (s : State), s.canRun g = true ∧ s.coreSecPol g =
    true :=
⟨5, 7, atLevel (runP 5 1) 5 0, by decide +kernel⟩
theorem wit_ExceptionsEnterAndReturn_5 : ∃ (g : GCore) (imm : BitVec 16) (s : State), s.canRun g = true ∧ s.coreSecPol g =
    false ∧ (s.core g).level ≤ 1 :=
⟨5, 7, atLevel (runP 5 0) 5 0, by decide +kernel⟩
theorem wit_ExceptionsEnterAndReturn_6 : ∃ (g : GCore) (s : State), s.canRun g = true ∧ 1 ≤ (s.core g).level ∧ (((s.core
    g).t.isOpen = true ∨ (s.core g).pend = [] ∧ (s.core g).raises = false)) :=
⟨5, sysr (run 5) 5 [(0x300, 1), (0x301, 0x123456789), (0xC0A, 0)], by exact ⟨by decide +kernel, by decide +kernel, Or.inr (by
    decide +kernel)⟩⟩
theorem wit_ExceptionsEnterAndReturn_6b : ∃ (g : GCore) (s : State), s.canRun g = true ∧ 1 ≤ (s.core g).level ∧ (((s.core
    g).t.isOpen = true ∨ (s.core g).pend = [] ∧ (s.core g).raises = false)) :=
⟨5, sysr (runP 5 0) 5 [(0x200, 3), (0x201, 0x100)], by exact ⟨by decide +kernel, by decide +kernel, Or.inr (by
    decide +kernel)⟩⟩
theorem wit_ExceptionsEnterAndReturn_7 : ∃ (g : GCore) (s : State), s.canRun g = true ∧ (s.core g).level = 0 :=
⟨5, atLevel (runP 5 1) 5 0, by decide +kernel⟩
theorem wit_ExceptionsEnterAndReturn_8 : ∃ (g : GCore) (s : State), s.canRun g = true ∧ s.calm g = true :=
⟨5, run 5, by decide +kernel⟩
theorem wit_ExceptionsEnterAndReturn_9 : ∃ (g : GCore) (m : Miss) (s : State), (s.core g).miss.find? (fun m => (m.kind == 5 ||
    m.kind == 8 && s.rgnDevice m.addr) && decide (m.sent + 1000000 ≤ s.now)) = some m ∧ (s.coreGuarded g = true → (s.core
    g).t.isOpen = true ∧ (s.core g).t.step = 0) :=
⟨5, dev5, sets (withC (run 5) 5 fun c => { c with miss := [dev5] }) [(.PT_NOW_TIME, 0, 1000100)], by decide +kernel⟩
theorem wit_ExceptionsEnterAndReturn_9b : ∃ (g : GCore) (m : Miss) (s : State), (s.core g).miss.find? (fun m => (m.kind == 5
    || m.kind == 8 && s.rgnDevice m.addr) && decide (m.sent + 1000000 ≤ s.now)) = some m ∧ (s.coreGuarded g = true → (s.core
    g).t.isOpen = true ∧ (s.core g).t.step = 0) :=
⟨5, dev5, sets (withC (runP 5 0) 5 fun c => { c with miss := [dev5] }) [(.PT_NOW_TIME, 0, 1000100)], by decide +kernel⟩
theorem wit_ExceptionsEnterAndReturn_10 : ∃ (p : Pol) (l : Byte) (id : BitVec 16) (g : Nat) (s : State), s.coreOf p l.toNat =
    some g ∧ id.toNat < 0x11 ∧ (((s.core g).t.isOpen = true ∨ s.coreGuarded g = true ∧ (s.core g).t.first = false)) :=
⟨1, 0, 0x10, 5, gOpen 5, by exact ⟨by decide +kernel, by decide +kernel, Or.inl (by decide +kernel)⟩⟩
theorem wit_ExceptionsEnterAndReturn_10b : ∃ (p : Pol) (l : Byte) (id : BitVec 16) (g : Nat) (s : State), s.coreOf p l.toNat =
    some g ∧ id.toNat < 0x11 ∧ (((s.core g).t.isOpen = true ∨ s.coreGuarded g = true ∧ (s.core g).t.first = false)) :=
⟨1, 0, 0, 5, withT (runP 5 6) 5 (fun t => { t with first := false }), by exact ⟨by decide +kernel, by decide +kernel, Or.inr
    (by decide +kernel)⟩⟩
theorem wit_ExceptionsEnterAndReturn_11 : ∃ (p : Pol) (l : Byte) (id : BitVec 16) (g : Nat) (s : State), s.coreOf p l.toNat =
    some g ∧ id.toNat < 0x11 ∧ (s.core g).t.isOpen = false ∧ (s.core g).t.step = 0 ∧ (s.core g).t.recovering = false ∧ (s.core
    g).started = true ∧ (s.core g).serv = 0 ∧ (s.core g).pow ≠ 3 ∧ (s.core g).syncing = false ∧ (s.core g).miss.any
    Miss.blocks = false ∧ (s.coreGuarded g = true → (s.core g).t.first = true) ∧ (s.core g).intEnabled = true ∧ (s.core
    g).pend = [] :=
⟨1, 0, 0x10, 5, atLevel (runP 5 4) 5 0, by decide +kernel⟩
theorem wit_ExceptionsEnterAndReturn_11b : ∃ (p : Pol) (l : Byte) (id : BitVec 16) (g : Nat) (s : State), s.coreOf p l.toNat =
    some g ∧ id.toNat < 0x11 ∧ (s.core g).t.isOpen = false ∧ (s.core g).t.step = 0 ∧ (s.core g).t.recovering = false ∧ (s.core
    g).started = true ∧ (s.core g).serv = 0 ∧ (s.core g).pow ≠ 3 ∧ (s.core g).syncing = false ∧ (s.core g).miss.any
    Miss.blocks = false ∧ (s.coreGuarded g = true → (s.core g).t.first = true) ∧ (s.core g).intEnabled = true ∧ (s.core
    g).pend = [] :=
⟨1, 0, 0, 5, withT (sysr (atLevel (runP 5 1) 5 1) 5 [(0x109, 1)]) 5 fun t => { t with waiting := true }, by decide +kernel⟩

end ExceptionsEnterAndReturn

namespace SystemRegistersAndPrediction

def chk : Checkpoint := ⟨2 ^ 399, 5, 0, 0, 0⟩
def fl (k : BranchKind) (tk : Bool) : Flight := ⟨0x1000, k, tk, 0x5000, chk⟩
def fly (k : BranchKind) (tk : Bool) : State := withC (run 5) 5 fun c => { c with flight := [fl k tk, fl .jump true] }

theorem wit_SystemRegistersAndPrediction_1 : ∃ (g : GCore) (rd : Fin 32) (n : BitVec 12) (s : State), s.canRun g = true ∧
    s.calm g = true ∧ (isMReg n.toNat = true → s.coreSecPol g = true) ∧ sysReadLevel n.toNat (((s.core g).sysOf 0xC22).getLsbD
    1) ≤ (s.core g).level :=
⟨5, 31, 0x305, sysr (run 5) 5 [(0x305, 77)], by decide +kernel⟩
theorem wit_SystemRegistersAndPrediction_1b : ∃ (g : GCore) (rd : Fin 32) (n : BitVec 12) (s : State), s.canRun g = true ∧
    s.calm g = true ∧ (isMReg n.toNat = true → s.coreSecPol g = true) ∧ sysReadLevel n.toNat (((s.core g).sysOf 0xC22).getLsbD
    1) ≤ (s.core g).level :=
⟨5, 0, 0xC08, atLevel (runP 5 0) 5 0, by decide +kernel⟩
theorem wit_SystemRegistersAndPrediction_2 : ∃ (g : GCore) (rd : Fin 32) (n : BitVec 12) (s : State), s.canRun g = true ∧
    isMReg n.toNat = false ∧ (s.core g).level ≤ 3 ∧ (s.core g).level < sysReadLevel n.toNat (((s.core g).sysOf 0xC22).getLsbD
    1) :=
⟨5, 3, 0x109, atLevel (runP 5 0) 5 0, by decide +kernel⟩
theorem wit_SystemRegistersAndPrediction_2b : ∃ (g : GCore) (rd : Fin 32) (n : BitVec 12) (s : State), s.canRun g = true ∧
    isMReg n.toNat = false ∧ (s.core g).level ≤ 3 ∧ (s.core g).level < sysReadLevel n.toNat (((s.core g).sysOf 0xC22).getLsbD
    1) :=
⟨5, 3, 0xC3F, run 5, by decide +kernel⟩
theorem wit_SystemRegistersAndPrediction_3 : ∃ (g : GCore) (n : BitVec 12) (rs : Fin 32) (s : State), s.canRun g = true ∧
    (((s.core g).t.isOpen = true ∨ (s.core g).pend = [] ∧ (s.core g).raises = false)) ∧ (isMReg n.toNat = true → s.coreSecPol
    g = true) ∧ sysWriteLevel n.toNat ≤ (s.core g).level ∧ n.toNat < 0xC20 ∧ n.toNat ≠ 0xC16 ∧ n.toNat ≠ 0xC02 :=
⟨5, 0x304, 3, gpr (run 5) 5 [(3, 0xFFFFFFFFFFFFFFFF)], by exact ⟨by decide +kernel, Or.inr (by decide +kernel), by
    decide +kernel, by decide +kernel, by decide +kernel, by decide +kernel, by decide +kernel⟩⟩
theorem wit_SystemRegistersAndPrediction_3b : ∃ (g : GCore) (n : BitVec 12) (rs : Fin 32) (s : State), s.canRun g = true ∧
    (((s.core g).t.isOpen = true ∨ (s.core g).pend = [] ∧ (s.core g).raises = false)) ∧ (isMReg n.toNat = true → s.coreSecPol
    g = true) ∧ sysWriteLevel n.toNat ≤ (s.core g).level ∧ n.toNat < 0xC20 ∧ n.toNat ≠ 0xC16 ∧ n.toNat ≠ 0xC02 :=
⟨5, 0xC00, 3, gpr (atLevel (runP 5 0) 5 0) 5 [(3, 0xFFFFFFFFFFFFFFFF)], by exact ⟨by decide +kernel, Or.inr (by
    decide +kernel), by decide +kernel, by decide +kernel, by decide +kernel, by decide +kernel, by decide +kernel⟩⟩
theorem wit_SystemRegistersAndPrediction_3c : ∃ (g : GCore) (n : BitVec 12) (rs : Fin 32) (s : State), s.canRun g = true ∧
    (((s.core g).t.isOpen = true ∨ (s.core g).pend = [] ∧ (s.core g).raises = false)) ∧ (isMReg n.toNat = true → s.coreSecPol
    g = true) ∧ sysWriteLevel n.toNat ≤ (s.core g).level ∧ n.toNat < 0xC20 ∧ n.toNat ≠ 0xC16 ∧ n.toNat ≠ 0xC02 :=
⟨5, 0x109, 0, run 5, by exact ⟨by decide +kernel, Or.inr (by decide +kernel), by decide +kernel, by decide +kernel, by
    decide +kernel, by decide +kernel, by decide +kernel⟩⟩
theorem wit_SystemRegistersAndPrediction_4 : ∃ (g : GCore) (n : BitVec 12) (rs : Fin 32) (s : State), s.canRun g = true ∧
    s.calm g = true ∧ sysWriteLevel n.toNat ≤ (s.core g).level ∧ countersWritten n.toNat 0 = [n.toNat] :=
⟨5, 0xC2B, 3, sysr (gpr (run 5) 5 [(3, 0xFFFFFFFFFFFFFFFF)]) 5 [(0xC22, 7), (0xC33, 0x8002)], by decide +kernel⟩
theorem wit_SystemRegistersAndPrediction_4b : ∃ (g : GCore) (n : BitVec 12) (rs : Fin 32) (s : State), s.canRun g = true ∧
    s.calm g = true ∧ sysWriteLevel n.toNat ≤ (s.core g).level ∧ countersWritten n.toNat 0 = [n.toNat] :=
⟨5, 0xC21, 3, sysr (gpr (run 5) 5 [(3, 0xFFFFFFFFFFFFFFFF)]) 5 [(0xC22, 7)], by decide +kernel⟩
theorem wit_SystemRegistersAndPrediction_5 : ∃ (g : GCore) (rs : Fin 32) (s : State), s.canRun g = true ∧ s.calm g = true ∧ 1
    ≤ (s.core g).level :=
⟨5, 3, gpr (run 5) 5 [(3, 0xFFFFFFFFFFFFFFFF)], by decide +kernel⟩
theorem wit_SystemRegistersAndPrediction_6 : ∃ (g : GCore) (rs : Fin 32) (s : State), s.canRun g = true ∧ s.calm g = true ∧ 1
    ≤ (s.core g).level :=
⟨5, 0, run 5, by decide +kernel⟩
theorem wit_SystemRegistersAndPrediction_6b : ∃ (g : GCore) (rs : Fin 32) (s : State), s.canRun g = true ∧ s.calm g = true ∧ 1
    ≤ (s.core g).level :=
⟨5, 3, gpr (run 5) 5 [(3, 1)], by decide +kernel⟩
theorem wit_SystemRegistersAndPrediction_7 : ∃ (g : GCore) (w : BitVec 32) (s : State), s.canRun g = true ∧ s.wordOk g 0x04 w
    = true ∧ s.calm g = true :=
⟨5, wrd 4 0 0 0 0, run 5, by decide +kernel⟩
theorem wit_SystemRegistersAndPrediction_7b : ∃ (g : GCore) (w : BitVec 32) (s : State), s.canRun g = true ∧ s.wordOk g 0x04 w
    = true ∧ s.calm g = true :=
⟨5, wrd 4 0 4 0 0, sysr (atLevel (runP 5 0) 5 0) 5 [(0xC00, 0xFFFFFFFF)], by decide +kernel⟩
theorem wit_SystemRegistersAndPrediction_8 : ∃ (g : GCore) (w : BitVec 32) (s : State), s.canRun g = true ∧ s.wordOk g 0x05 w
    = true ∧ s.calm g = true :=
⟨5, wrd 5 0 0 3 0, gpr (run 5) 5 [(3, 0xFFFFFFFFFFFFFFFF)], by decide +kernel⟩
theorem wit_SystemRegistersAndPrediction_9 : ∃ (g : GCore) (rs : Fin 32) (s : State), s.canRun g = true ∧ s.calm g = true ∧ 1
    ≤ (s.core g).level ∧ ((s.core g).gprOf rs).getLsbD 3 = true :=
⟨5, 3, sysr (gpr (run 5) 5 [(3, 15)]) 5 [(0xC20, 5), (0xC22, 7), (0xC24, 9), (0xC2B, 0xFFFFFFFFFFFFFFFF)], by decide +kernel⟩
theorem wit_SystemRegistersAndPrediction_10 : ∃ (g : GCore) (kind : BranchKind) (taken : Bool) (target : Word) (wrong : List
    (Bool × Word)) (s : State), s.canRun g = true ∧ s.calm g = true ∧ (s.core g).flight = [] :=
⟨5, .cond, true, 0x5000, [(true, 0x2000), (false, 0x1000)], openRgn (run 5), by decide +kernel⟩
theorem wit_SystemRegistersAndPrediction_10b : ∃ (g : GCore) (kind : BranchKind) (taken : Bool) (target : Word) (wrong : List
    (Bool × Word)) (s : State), s.canRun g = true ∧ s.calm g = true ∧ (s.core g).flight = [] :=
⟨5, .ret, false, 0x5000, [], run 5, by decide +kernel⟩
theorem wit_SystemRegistersAndPrediction_11 : ∃ (g : GCore) (b : Flight) (rest : List Flight) (wrong : List (Bool × Word)) (s
    : State), s.canRun g = true ∧ s.calm g = true ∧ (s.core g).flight = b :: rest ∧ b.pc = (s.core g).pc :=
⟨5, fl .cond true, [fl .jump true], [], fly .cond true, by decide +kernel⟩
theorem wit_SystemRegistersAndPrediction_11b : ∃ (g : GCore) (b : Flight) (rest : List Flight) (wrong : List (Bool × Word)) (s
    : State), s.canRun g = true ∧ s.calm g = true ∧ (s.core g).flight = b :: rest ∧ b.pc = (s.core g).pc :=
⟨5, fl .cond false, [fl .jump true], [(true, 0x2000)], fly .cond false, by decide +kernel⟩
theorem wit_SystemRegistersAndPrediction_12 : ∃ (g : GCore) (b : Flight) (rest : List Flight) (taken : Bool) (target : Word)
    (wrong : List (Bool × Word)) (s : State), s.canRun g = true ∧ s.calm g = true ∧ (s.core g).flight = b :: rest ∧ b.pc =
    (s.core g).pc ∧ ((b.taken ≠ taken ∨ taken = true ∧ b.target ≠ target)) :=
⟨5, fl .cond false, [fl .jump true], true, 0x5000, [(true, 0x2000)], openRgn (fly .cond false), by exact ⟨by decide +kernel,
    by decide +kernel, by decide +kernel, by decide +kernel, Or.inl (by decide +kernel)⟩⟩
theorem wit_SystemRegistersAndPrediction_12b : ∃ (g : GCore) (b : Flight) (rest : List Flight) (taken : Bool) (target : Word)
    (wrong : List (Bool × Word)) (s : State), s.canRun g = true ∧ s.calm g = true ∧ (s.core g).flight = b :: rest ∧ b.pc =
    (s.core g).pc ∧ ((b.taken ≠ taken ∨ taken = true ∧ b.target ≠ target)) :=
⟨5, fl .indirect true, [fl .jump true], true, 0x6000, [], fly .indirect true, by exact ⟨by decide +kernel, by decide +kernel,
    by decide +kernel, by decide +kernel, Or.inr (by decide +kernel)⟩⟩
theorem wit_SystemRegistersAndPrediction_13 : ∃ (g : GCore) (up : Bool) (v : Polder) (s : State), s.polder (s.core g).pol =
    some v ∧ v.fastClock = true ∧ (up = true → s.mhzHeld (dieOf g) (min (((s.core g).sysOf 0xC09).toNat % 65536 + 100) 3400) =
    true) :=
⟨5, true, pold 8, sysr (upS.setPolder 1 (some (pold 8)) |>.updCore 5 fun c => { c with pol := 1 }) 5 [(0xC09, 3400)], by
    decide +kernel⟩
theorem wit_SystemRegistersAndPrediction_13b : ∃ (g : GCore) (up : Bool) (v : Polder) (s : State), s.polder (s.core g).pol =
    some v ∧ v.fastClock = true ∧ (up = true → s.mhzHeld (dieOf g) (min (((s.core g).sysOf 0xC09).toNat % 65536 + 100) 3400) =
    true) :=
⟨5, false, pold 8, (upS.setPolder 1 (some (pold 8))).updCore 5 fun c => { c with pol := 1 }, by decide +kernel⟩
theorem wit_SystemRegistersAndPrediction_14 : ∃ (g : GCore) (up : Bool) (v : Polder) (s : State), s.polder (s.core g).pol =
    some v ∧ v.fastClock = false :=
⟨5, true, pold 0, (upS.setPolder 1 (some (pold 0))).updCore 5 fun c => { c with pol := 1 }, by decide +kernel⟩

end SystemRegistersAndPrediction

namespace AccessesOfACore

def c5 : State := openRgn (run 5)
def mbe : MbEnt := ⟨0x40, 0xFFFFFFFFFFFFFFFF, 0x1234567890ABCDEF, 0, false, false⟩
def mbe1 : MbEnt := { mbe with mask := 1 }
def cl : CLine := ⟨0xFEDCBA9876543210, true, false, false, 0, false, 0⟩
def devR (s : State) : State := sets s [(.RGN_LO_TYPE, 0, 1)]
def dqs (n : Nat) : State := withT (devR (openRgn (gOpen 5))) 5 fun t => { t with dq := List.replicate n ⟨0x1000, 3, 7⟩ }
def mb5 (l : List MbEnt) : State := withC c5 5 fun c => { c with mb := l }
def l5 : State := withC c5 5 fun c => { c with l2 := [(0x40, some cl)] }
def l5b : State := withC l5 5 fun c => { c with mb := [mbe1] }
def no5 : State := gpr (run 5) 5 [(3, 9)]
def dv5 : State := sets (devR (openRgn (gOpen 5))) [(.GD_CNT1_DEV_READ, 1, 65535)]
def g5 : State := gpr c5 5 [(3, 0xFFFFFFFFFFFFFFFF)]
def v5 : State := withC c5 5 fun c => c.setVr 3 (2 ^ 512 - 1)
def dq3 (n : Nat) : State := gpr (dqs n) 5 [(3, 0xFFFFFFFFFFFFFFFF)]
def dqo (n : Nat) : State := sets (dqs n) [(.GD_CNT1_DQ_OVF, 1, 65535)]

theorem wit_AccessesOfACore_1 : ∃ (g : GCore) (rd : Fin 32) (va : Word) (size : Fin 7) (pa : Nat) (u s : State), u.canRun g =
    true ∧ u.translate g va.toNat .load = .ok s pa false ∧ s.deviceType pa false = false ∧ pa % 64 + 2 ^ size.val ≤ 64 ∧
    s.coreRefused g pa false = none ∧ (s.core g).mbLost = [] ∧ s.calm g = true ∧ mbCovers (s.core g).mb (pa / 64) (pa % 64) (2
    ^ size.val) = true :=
⟨5, 3, 0x103D, 1, 0x103D, mb5 [mbe], mb5 [mbe], by decide +kernel⟩
theorem wit_AccessesOfACore_1b : ∃ (g : GCore) (rd : Fin 32) (va : Word) (size : Fin 7) (pa : Nat) (u s : State), u.canRun g =
    true ∧ u.translate g va.toNat .load = .ok s pa false ∧ s.deviceType pa false = false ∧ pa % 64 + 2 ^ size.val ≤ 64 ∧
    s.coreRefused g pa false = none ∧ (s.core g).mbLost = [] ∧ s.calm g = true ∧ mbCovers (s.core g).mb (pa / 64) (pa % 64) (2
    ^ size.val) = true :=
⟨5, 0, 0x1000, 3, 0x1000, mb5 [mbe], mb5 [mbe], by decide +kernel⟩
theorem wit_AccessesOfACore_1c : ∃ (g : GCore) (rd : Fin 32) (va : Word) (size : Fin 7) (pa : Nat) (u s : State), u.canRun g =
    true ∧ u.translate g va.toNat .load = .ok s pa false ∧ s.deviceType pa false = false ∧ pa % 64 + 2 ^ size.val ≤ 64 ∧
    s.coreRefused g pa false = none ∧ (s.core g).mbLost = [] ∧ s.calm g = true ∧ mbCovers (s.core g).mb (pa / 64) (pa % 64) (2
    ^ size.val) = true :=
⟨5, 31, 0x1000, 6, 0x1000, mb5 [mbe], mb5 [mbe], by decide +kernel⟩
theorem wit_AccessesOfACore_2 : ∃ (g : GCore) (rd : Fin 32) (va : Word) (size : Fin 7) (pa : Nat) (l : CLine) (u s : State),
    u.canRun g = true ∧ u.translate g va.toNat .load = .ok s pa false ∧ s.deviceType pa false = false ∧ pa % 64 + 2 ^ size.val
    ≤ 64 ∧ s.coreRefused g pa false = none ∧ (s.core g).mbLost = [] ∧ s.calm g = true ∧ mbCovers (s.core g).mb (pa / 64) (pa %
    64) (2 ^ size.val) = false ∧ s.l2 g (pa / 64) = some l ∧ l.poison = false :=
⟨5, 3, 0x1000, 3, 0x1000, cl, l5, l5, by decide +kernel⟩
theorem wit_AccessesOfACore_2b : ∃ (g : GCore) (rd : Fin 32) (va : Word) (size : Fin 7) (pa : Nat) (l : CLine) (u s : State),
    u.canRun g = true ∧ u.translate g va.toNat .load = .ok s pa false ∧ s.deviceType pa false = false ∧ pa % 64 + 2 ^ size.val
    ≤ 64 ∧ s.coreRefused g pa false = none ∧ (s.core g).mbLost = [] ∧ s.calm g = true ∧ mbCovers (s.core g).mb (pa / 64) (pa %
    64) (2 ^ size.val) = false ∧ s.l2 g (pa / 64) = some l ∧ l.poison = false :=
⟨5, 3, 0x1001, 1, 0x1001, cl, l5b, l5b, by decide +kernel⟩
theorem wit_AccessesOfACore_2c : ∃ (g : GCore) (rd : Fin 32) (va : Word) (size : Fin 7) (pa : Nat) (l : CLine) (u s : State),
    u.canRun g = true ∧ u.translate g va.toNat .load = .ok s pa false ∧ s.deviceType pa false = false ∧ pa % 64 + 2 ^ size.val
    ≤ 64 ∧ s.coreRefused g pa false = none ∧ (s.core g).mbLost = [] ∧ s.calm g = true ∧ mbCovers (s.core g).mb (pa / 64) (pa %
    64) (2 ^ size.val) = false ∧ s.l2 g (pa / 64) = some l ∧ l.poison = false :=
⟨5, 0, 0x1020, 5, 0x1020, cl, l5b, l5b, by decide +kernel⟩
theorem wit_AccessesOfACore_3 : ∃ (g : GCore) (rd : Fin 32) (va : Word) (size : Fin 7) (pa : Nat) (v u s : State), u.canRun g
    = true ∧ u.translate g va.toNat .load = .ok s pa false ∧ s.deviceType pa false = false ∧ pa % 64 + 2 ^ size.val ≤ 64 ∧
    s.calm g = true ∧ s.coreRefused g pa false = some v :=
⟨5, 3, 0x1000, 3, 0x1000, no5.refuse 0 (.core 5) 0 true 0x1000 4, no5, no5, by decide +kernel⟩
theorem wit_AccessesOfACore_3b : ∃ (g : GCore) (rd : Fin 32) (va : Word) (size : Fin 7) (pa : Nat) (v u s : State), u.canRun g
    = true ∧ u.translate g va.toNat .load = .ok s pa false ∧ s.deviceType pa false = false ∧ pa % 64 + 2 ^ size.val ≤ 64 ∧
    s.calm g = true ∧ s.coreRefused g pa false = some v :=
⟨5, 3, 0x1000, 4, 0x1000, no5.refuse 0 (.core 5) 0 true 0x1000 4, no5, no5, by decide +kernel⟩
theorem wit_AccessesOfACore_4 : ∃ (g : GCore) (rd : Fin 32) (va : Word) (size : Fin 7) (pa : Nat) (dev : Bool) (err :
    CacheErr) (u s : State), u.canRun g = true ∧ (s.core g).level ≤ 3 ∧ u.translate g va.toNat .load = .ok s pa dev ∧
    s.deviceType pa dev = true ∧ va.toNat % 2 ^ size.val = 0 ∧ s.inGuarded g = true ∧ s.idempRead g pa = false :=
⟨5, 3, 0x1000, 3, 0x1000, false, .none, dv5, dv5, by decide +kernel⟩
theorem wit_AccessesOfACore_5 : ∃ (g : GCore) (va : Word) (size : Fin 7) (rs : Fin 32) (ordered : Bool) (pa : Nat) (u s :
    State), u.canRun g = true ∧ (u.core g).mb = [] ∧ u.translate g va.toNat .store = .ok s pa false ∧ s.deviceType pa false =
    false ∧ pa % 64 + 2 ^ size.val ≤ 64 ∧ s.calm g = true ∧ (s.core g).mb = [] :=
⟨5, 0x1038, 3, 3, true, 0x1038, g5, g5, by decide +kernel⟩
theorem wit_AccessesOfACore_5b : ∃ (g : GCore) (va : Word) (size : Fin 7) (rs : Fin 32) (ordered : Bool) (pa : Nat) (u s :
    State), u.canRun g = true ∧ (u.core g).mb = [] ∧ u.translate g va.toNat .store = .ok s pa false ∧ s.deviceType pa false =
    false ∧ pa % 64 + 2 ^ size.val ≤ 64 ∧ s.calm g = true ∧ (s.core g).mb = [] :=
⟨5, 0x103F, 0, 3, false, 0x103F, g5, g5, by decide +kernel⟩
theorem wit_AccessesOfACore_5c : ∃ (g : GCore) (va : Word) (size : Fin 7) (rs : Fin 32) (ordered : Bool) (pa : Nat) (u s :
    State), u.canRun g = true ∧ (u.core g).mb = [] ∧ u.translate g va.toNat .store = .ok s pa false ∧ s.deviceType pa false =
    false ∧ pa % 64 + 2 ^ size.val ≤ 64 ∧ s.calm g = true ∧ (s.core g).mb = [] :=
⟨5, 0x1000, 6, 3, false, 0x1000, v5, v5, by decide +kernel⟩
theorem wit_AccessesOfACore_6 : ∃ (g : GCore) (va : Word) (size : Fin 7) (rs : Fin 32) (pa : Nat) (dev : Bool) (u s : State),
    u.canRun g = true ∧ u.translate g va.toNat .store = .ok s pa dev ∧ s.deviceType pa dev = true ∧ va.toNat % 2 ^ size.val =
    0 ∧ s.inGuarded g = true ∧ (s.core g).t.dq.length + (dqEntries pa size ((u.core g).storeVal rs size % 2 ^ (8 * 2 ^
    size.val))).length ≤ 64 :=
⟨5, 0x1008, 2, 3, 0x1008, false, dq3 63, dq3 63, by decide +kernel⟩
theorem wit_AccessesOfACore_6b : ∃ (g : GCore) (va : Word) (size : Fin 7) (rs : Fin 32) (pa : Nat) (dev : Bool) (u s : State),
    u.canRun g = true ∧ u.translate g va.toNat .store = .ok s pa dev ∧ s.deviceType pa dev = true ∧ va.toNat % 2 ^ size.val =
    0 ∧ s.inGuarded g = true ∧ (s.core g).t.dq.length + (dqEntries pa size ((u.core g).storeVal rs size % 2 ^ (8 * 2 ^
    size.val))).length ≤ 64 :=
⟨5, 0x1040, 6, 3, 0x1040, false, dq3 56, dq3 56, by decide +kernel⟩
theorem wit_AccessesOfACore_7 : ∃ (g : GCore) (va : Word) (size : Fin 7) (rs : Fin 32) (pa : Nat) (dev : Bool) (u s : State),
    u.canRun g = true ∧ u.translate g va.toNat .store = .ok s pa dev ∧ s.deviceType pa dev = true ∧ va.toNat % 2 ^ size.val =
    0 ∧ s.inGuarded g = true ∧ 64 < (s.core g).t.dq.length + (dqEntries pa size ((u.core g).storeVal rs size % 2 ^ (8 * 2 ^
    size.val))).length :=
⟨5, 0x1008, 2, 3, 0x1008, false, dqo 64, dqo 64, by decide +kernel⟩
theorem wit_AccessesOfACore_7b : ∃ (g : GCore) (va : Word) (size : Fin 7) (rs : Fin 32) (pa : Nat) (dev : Bool) (u s : State),
    u.canRun g = true ∧ u.translate g va.toNat .store = .ok s pa dev ∧ s.deviceType pa dev = true ∧ va.toNat % 2 ^ size.val =
    0 ∧ s.inGuarded g = true ∧ 64 < (s.core g).t.dq.length + (dqEntries pa size ((u.core g).storeVal rs size % 2 ^ (8 * 2 ^
    size.val))).length :=
⟨5, 0x1040, 6, 3, 0x1040, false, dqo 57, dqo 57, by decide +kernel⟩
theorem wit_AccessesOfACore_8 : ∃ (g : GCore) (rd : Fin 32) (va : Word) (size : Fin 4) (op : AtomicOp) (rs : Fin 32) (pa :
    Nat) (l : CLine) (u s : State), u.canRun g = true ∧ va.toNat % 2 ^ size.val = 0 ∧ pa % 2 ^ size.val = 0 ∧ u.translate g
    va.toNat .atomic = .ok s pa false ∧ s.deviceType pa false = false ∧ s.coreRefused g pa true = none ∧ (s.core g).mb = [] ∧
    s.l2 g (pa / 64) = some l ∧ l.m = true ∧ l.poison = false ∧ s.inGuarded g = false ∧ s.calm g = true :=
⟨5, 3, 0x1008, 3, 1, 4, 0x1008, cl, l5, l5, by decide +kernel⟩
theorem wit_AccessesOfACore_9 : ∃ (g : GCore) (rd : Fin 32) (va : Word) (size : Fin 4) (op : AtomicOp) (rs : Fin 32) (err :
    CacheErr) (s : State), s.canRun g = true ∧ (s.core g).level ≤ 3 ∧ va.toNat % 2 ^ size.val ≠ 0 :=
⟨5, 3, 0x1009, 3, 1, 4, .none, run 5, by decide +kernel⟩
theorem wit_AccessesOfACore_9b : ∃ (g : GCore) (rd : Fin 32) (va : Word) (size : Fin 4) (op : AtomicOp) (rs : Fin 32) (err :
    CacheErr) (s : State), s.canRun g = true ∧ (s.core g).level ≤ 3 ∧ va.toNat % 2 ^ size.val ≠ 0 :=
⟨5, 3, 0x1007, 1, 1, 4, .l2Tag, atLevel (runP 5 0) 5 0, by decide +kernel⟩
theorem wit_AccessesOfACore_10 : ∃ (e : Fin 4) (off : BitVec 20) (data : List Word) (s : State), s.isEndpoint e = true ∧
    s.lost (e / 2) = false ∧ (s.peSt e).perst = false ∧ (s.cfgHalf e 0x04).testBit 1 = true ∧ ((off.toNat % 8 ≠ 0 ∨ 0x10000 ≤
    off.toNat ∨ bar0Target e off.toNat = none)) ∧ data.length ≤ 1 :=
⟨0, 0x7, [0], epUp, by exact ⟨by decide +kernel, by decide +kernel, by decide +kernel, by decide +kernel, Or.inl (by
    decide +kernel), by decide +kernel⟩⟩
theorem wit_AccessesOfACore_11 : ∃ (e : Fin 4) (v : Word) (s : State), s.isEndpoint e = true ∧ s.lost (e / 2) = false ∧
    (s.peSt e).perst = false ∧ (s.cfgHalf e 0x04).testBit 1 = true ∧ s.flag .QRB_CTL_EN (qKey e 0) = false ∧
    s.cp.stopping.contains (qKey e 0 / 64) = false :=
⟨0, 0xFFFFFFFFFFFFFFFF, epUp, by decide +kernel⟩
theorem wit_AccessesOfACore_12 : ∃ (e : Fin 4) (off : BitVec 20) (data : List Word) (s : State), s.isEndpoint e = true ∧
    s.lost (e / 2) = false ∧ (s.peSt e).perst = false ∧ (s.cfgHalf e 0x04).testBit 1 = true ∧ off.toNat % 8 = 0 :=
⟨0, 0x10, [0, 0], epUp, by decide +kernel⟩
theorem wit_AccessesOfACore_13 : ∃ (e : Fin 4) (off : BitVec 20) (data : List Word) (s : State), s.isEndpoint e = true ∧
    s.lost (e / 2) = false ∧ (s.peSt e).perst = false ∧ (s.cfgHalf e 0x04).testBit 1 = true ∧ s.romOn e = true :=
⟨0, 8, [0], epUp.cfgStore 0 0x30 1, by decide +kernel⟩

end AccessesOfACore

namespace MaintenanceLocksAndFences

def d5 : CLine := ⟨0xFEDCBA9876543210, true, true, false, 3, false, 0⟩
def m5 (l : CLine) : State := gpr (withC (openRgn (run 5)) 5 fun c => { c with l2 := [(0x40, some l)] }) 5 [(1, 0x1000), (2, 64)]
def mt5 : State := gpr (withC (openRgn (gOpen 5)) 5 fun c => { c with l2 := [(0x40, some ⟨1, true, true, true, 0, false, 0⟩)] }) 5 [(1, 0x1000)]
def mbx (la : Nat) : MbEnt := ⟨la, 0xFF, 0x0123456789ABCDEF, 5, false, false⟩
def fil (w n : Nat) : State := withC (m5 d5) 5 fun c => { c with fill := some ⟨w, 0x1000, n, 3, [7]⟩ }
def pl5 (r : Word) : State := gpr (openRgn (runP 5 1)) 5 [(1, 0x1000), (2, r)]
def row0D : AddedRow := ⟨false, false, false, (· < 12), fun _ => 1⟩
def iox : IoTx := ⟨msg .placeWrite 5 0xC10 0 0x40 0, false, 0, 0, 0⟩

theorem wit_MaintenanceLocksAndFences_1 : ∃ (g : GCore) (w : BitVec 32) (s : State), s.canRun g = true ∧ (s.core g).level ≤ 3
    ∧ wordMajor w = 0x3B ∧ ((addedRow (wordFunc w)).all fun r => !r.fits w) = true :=
⟨5, wrd 0x3F 0 0 0 0, run 5, by decide +kernel⟩
theorem wit_MaintenanceLocksAndFences_1b : ∃ (g : GCore) (w : BitVec 32) (s : State), s.canRun g = true ∧ (s.core g).level ≤ 3
    ∧ wordMajor w = 0x3B ∧ ((addedRow (wordFunc w)).all fun r => !r.fits w) = true :=
⟨5, wrd 0x0D 12 0 0 0, atLevel (runP 5 0) 5 0, by decide +kernel⟩
theorem wit_MaintenanceLocksAndFences_1c : ∃ (g : GCore) (w : BitVec 32) (s : State), s.canRun g = true ∧ (s.core g).level ≤ 3
    ∧ wordMajor w = 0x3B ∧ ((addedRow (wordFunc w)).all fun r => !r.fits w) = true :=
⟨5, wrd 0x09 3 0 1 0, run 5, by decide +kernel⟩
theorem wit_MaintenanceLocksAndFences_2 : ∃ (g : GCore) (w : BitVec 32) (r : AddedRow) (s : State), s.canRun g = true ∧
    wordMajor w = 0x3B ∧ wordFunc w = 0x0D ∧ addedRow (wordFunc w) = some r ∧ r.fits w = true ∧ (s.core g).level = 0 :=
⟨5, wrd 0x0D 11 0 0 0, row0D, atLevel (runP 5 0) 5 0, by exact ⟨by decide +kernel, by decide +kernel, by decide +kernel, rfl,
    by decide +kernel, by decide +kernel⟩⟩
theorem wit_MaintenanceLocksAndFences_3 : ∃ (g : GCore) (w : BitVec 32) (pa : Nat) (l : CLine) (u s : State), u.canRun g =
    true ∧ u.wordOk g 0x08 w = true ∧ wordSub w = 8 ∧ u.translate g ((u.core g).gprOf (wordRs1 w)).toNat .load false = .ok s
    pa false ∧ inControl pa = false ∧ s.rgnDevice pa = false ∧ s.coreRefused g pa false = none ∧ s.calm g = true ∧ s.l2 g (pa
    / 64) = some l ∧ l.m = true ∧ l.dirty = true ∧ l.td = false :=
⟨5, wrd 8 8 0 1 0, 0x1000, d5, m5 d5, m5 d5, by decide +kernel⟩
theorem wit_MaintenanceLocksAndFences_4 : ∃ (g : GCore) (w : BitVec 32) (pa : Nat) (l : CLine) (u s : State), u.canRun g =
    true ∧ u.wordOk g 0x08 w = true ∧ wordSub w = 9 ∧ u.translate g ((u.core g).gprOf (wordRs1 w)).toNat .store false = .ok s
    pa false ∧ inControl pa = false ∧ s.rgnDevice pa = false ∧ s.coreRefused g pa true = none ∧ s.calm g = true ∧ s.l2 g (pa /
    64) = some l ∧ l.td = false :=
⟨5, wrd 8 9 0 1 0, 0x1000, d5, m5 d5, m5 d5, by decide +kernel⟩
theorem wit_MaintenanceLocksAndFences_5 : ∃ (g : GCore) (w : BitVec 32) (pa : Nat) (u s : State), u.canRun g = true ∧ u.wordOk
    g 0x08 w = true ∧ wordSub w = 9 ∧ 1 ≤ (s.core g).level ∧ (s.core g).level ≤ 3 ∧ u.translate g ((u.core g).gprOf (wordRs1
    w)).toNat .store false = .ok s pa false ∧ inControl pa = false ∧ s.rgnDevice pa = false ∧ s.coreRefused g pa true = none ∧
    s.inGuarded g = true ∧ s.tdHere g (pa / 64) = true :=
⟨5, wrd 8 9 0 1 0, 0x1000, mt5, mt5, by decide +kernel⟩
theorem wit_MaintenanceLocksAndFences_6 : ∃ (g : GCore) (w : BitVec 32) (s : State), s.canRun g = true ∧ s.wordOk g 0x09 w =
    true ∧ wayLine (s.core g).l2 1024 (bitsOf ((s.core g).gprOf (wordRs1 w)).toNat 13 4) (((s.core g).gprOf (wordRs1 w)).toNat
    % 16) = none ∧ bitsOf ((s.core g).gprOf (wordRs1 w)).toNat 15 14 = 2 ∧ s.inGuarded g = false :=
⟨5, wrd 9 0 0 1 0, gpr (run 5) 5 [(1, 0x8000 + 0x3FF0 + 15)], by decide +kernel⟩
theorem wit_MaintenanceLocksAndFences_7 : ∃ (g : GCore) (w : BitVec 32) (la : Nat) (s : State), s.canRun g = true ∧ s.wordOk g
    0x09 w = true ∧ s.calm g = true ∧ wayLine (s.core g).l1d 128 (bitsOf ((s.core g).gprOf (wordRs1 w)).toNat 13 4) (((s.core
    g).gprOf (wordRs1 w)).toNat % 16) = some la ∧ bitsOf ((s.core g).gprOf (wordRs1 w)).toNat 15 14 = 1 ∧ wordSub w ≠ 0 ∧
    s.inGuarded g = false :=
⟨5, wrd 9 1 0 1 0, 0x7F, gpr (withC (run 5) 5 fun c =>
    { c with l1d := [(0x7F, some ⟨1, false, false, false, 11, false, 0⟩)] }) 5 [(1, 0x4000 + 0x7F0 + 11)], by decide +kernel⟩
theorem wit_MaintenanceLocksAndFences_8 : ∃ (g : GCore) (w : BitVec 32) (s : State), s.canRun g = true ∧ s.wordOk g 0x0C w =
    true ∧ (s.core g).fill = none ∧ wordSub w ≤ 11 ∧ (s.l2Locked g).testBit (wordSub w) = false ∧ (s.l2Retired g).testBit
    (wordSub w) = false ∧ ((s.core g).gprOf (wordRs1 w)).toNat % 64 = 0 ∧ ((s.core g).gprOf (wordRs2 w)).toNat % 64 = 0 ∧ 64 ≤
    ((s.core g).gprOf (wordRs2 w)).toNat ∧ ((s.core g).gprOf (wordRs2 w)).toNat ≤ 65536 :=
⟨5, wrd 0x0C 11 3 1 2, m5 d5, by decide +kernel⟩
theorem wit_MaintenanceLocksAndFences_9 : ∃ (g : GCore) (w : BitVec 32) (f : LockFill) (pa : Nat) (l : CLine) (s : State),
    s.canGoOn g = true ∧ (s.core g).syncing = false ∧ s.wordOk g 0x0C w = true ∧ (s.core g).fill = some f ∧ (s.l2Retired
    g).testBit f.way = false ∧ s.l2On g = true ∧ s.probe g f.va .load = .ok s pa false ∧ inControl pa = false ∧ s.rgnDevice pa
    = false ∧ s.coreRefused g pa false = none ∧ f.sets.contains (pa / 64 % 1024) = false ∧ s.l2 g (pa / 64) = some l ∧
    (s.l2SetOf g (pa / 64 % 1024)).find? (fun x => x.2.way == f.way) = none ∧ s.calm g = true :=
⟨5, wrd 0x0C 11 3 1 2, ⟨11, 0x1000, 1, 3, [7]⟩, 0x1000, d5, fil 11 1, by decide +kernel⟩
theorem wit_MaintenanceLocksAndFences_9b : ∃ (g : GCore) (w : BitVec 32) (f : LockFill) (pa : Nat) (l : CLine) (s : State),
    s.canGoOn g = true ∧ (s.core g).syncing = false ∧ s.wordOk g 0x0C w = true ∧ (s.core g).fill = some f ∧ (s.l2Retired
    g).testBit f.way = false ∧ s.l2On g = true ∧ s.probe g f.va .load = .ok s pa false ∧ inControl pa = false ∧ s.rgnDevice pa
    = false ∧ s.coreRefused g pa false = none ∧ f.sets.contains (pa / 64 % 1024) = false ∧ s.l2 g (pa / 64) = some l ∧
    (s.l2SetOf g (pa / 64 % 1024)).find? (fun x => x.2.way == f.way) = none ∧ s.calm g = true :=
⟨5, wrd 0x0C 11 0 1 2, ⟨11, 0x1000, 2, 3, [7]⟩, 0x1000, d5, fil 11 2, by decide +kernel⟩
theorem wit_MaintenanceLocksAndFences_10 : ∃ (g : GCore) (w : BitVec 32) (f : LockFill) (s : State), s.canGoOn g = true ∧
    (s.core g).syncing = false ∧ s.wordOk g 0x0C w = true ∧ (s.core g).fill = some f ∧ s.calm g = true ∧ (((s.l2Retired
    g).testBit f.way = true ∨ s.flag .L2_CTL_EN (instC g) = false)) :=
⟨5, wrd 0x0C 11 3 1 2, ⟨11, 0x1000, 1, 3, [7]⟩, sets (fil 11 1) [(.L2_STAT_RETIRED, instC 5, 0x800)], by exact ⟨by
    decide +kernel, by decide +kernel, by decide +kernel, by decide +kernel, by decide +kernel, Or.inl (by decide +kernel)⟩⟩
theorem wit_MaintenanceLocksAndFences_10b : ∃ (g : GCore) (w : BitVec 32) (f : LockFill) (s : State), s.canGoOn g = true ∧
    (s.core g).syncing = false ∧ s.wordOk g 0x0C w = true ∧ (s.core g).fill = some f ∧ s.calm g = true ∧ (((s.l2Retired
    g).testBit f.way = true ∨ s.flag .L2_CTL_EN (instC g) = false)) :=
⟨5, wrd 0x0C 11 3 1 2, ⟨11, 0x1000, 1, 3, [7]⟩, sets (fil 11 1) [(.L2_CTL_EN, instC 5, 0)], by exact ⟨by decide +kernel, by
    decide +kernel, by decide +kernel, by decide +kernel, by decide +kernel, Or.inr (by decide +kernel)⟩⟩
theorem wit_MaintenanceLocksAndFences_11 : ∃ (g : GCore) (w : BitVec 32) (s : State), s.canRun g = true ∧ s.wordOk g 0x0C w =
    true ∧ s.calm g = true ∧ ((11 < wordSub w ∨ (s.l2Locked g).testBit (wordSub w) = true)) :=
⟨5, wrd 0x0C 12 3 1 2, m5 d5, by exact ⟨by decide +kernel, by decide +kernel, by decide +kernel, Or.inl (by decide +kernel)⟩⟩
theorem wit_MaintenanceLocksAndFences_11b : ∃ (g : GCore) (w : BitVec 32) (s : State), s.canRun g = true ∧ s.wordOk g 0x0C w =
    true ∧ s.calm g = true ∧ ((11 < wordSub w ∨ (s.l2Locked g).testBit (wordSub w) = true)) :=
⟨5, wrd 0x0C 11 3 1 2, sets (m5 d5) [(.L2_STAT_LOCKED, instC 5, 0xFFF)], by exact ⟨by decide +kernel, by decide +kernel, by
    decide +kernel, Or.inr (by decide +kernel)⟩⟩
theorem wit_MaintenanceLocksAndFences_12 : ∃ (g : GCore) (w : BitVec 32) (s : State), s.canRun g = true ∧ s.wordOk g 0x0D w =
    true ∧ s.calm g = true ∧ s.inGuarded g = false :=
⟨5, wrd 0x0D 11 0 0 0, sets (m5 d5) [(.L2_STAT_LOCKED, instC 5, 0xFFF)], by decide +kernel⟩
theorem wit_MaintenanceLocksAndFences_13 : ∃ (g : GCore) (w : BitVec 32) (s : State), s.canRun g = true ∧ s.wordOk g 0x0E w =
    true ∧ s.calm g = true :=
⟨5, wrd 0x0E 0 3 0 0, sets (m5 d5) [(.L2_STAT_LOCKED, instC 5, 0xFFF), (.L2_STAT_RETIRED, instC 5, 0xF000)], by
    decide +kernel⟩
theorem wit_MaintenanceLocksAndFences_14 : ∃ (g : GCore) (w : BitVec 32) (pa n : Nat) (s : State), s.canRun g = true ∧
    s.wordOk g 0x14 w = true ∧ s.calm g = true ∧ s.probe g ((s.core g).gprOf (wordRs1 w)).toNat .load = .ok s pa false ∧
    s.placeTarget g (((s.core g).gprOf (wordRs2 w)).toNat % 256) = some n ∧ inControl pa = false ∧ s.rgnDevice pa = false ∧
    s.l2 g (pa / 64) = none ∧ s.coreRefused g pa false = none :=
⟨5, wrd 0x14 0 0 1 2, 0x1000, 5, pl5 0, by decide +kernel⟩
theorem wit_MaintenanceLocksAndFences_15 : ∃ (g : GCore) (w : BitVec 32) (pa : Nat) (s : State), s.canRun g = true ∧ s.wordOk
    g 0x14 w = true ∧ s.calm g = true ∧ s.probe g ((s.core g).gprOf (wordRs1 w)).toNat .load = .ok s pa false ∧ s.placeTarget
    g (((s.core g).gprOf (wordRs2 w)).toNat % 256) = none :=
⟨5, wrd 0x14 0 0 1 2, 0x1000, pl5 255, by decide +kernel⟩
theorem wit_MaintenanceLocksAndFences_16 : ∃ (g : GCore) (w : BitVec 32) (s : State), s.canRun g = true ∧ s.wordOk g 0x18 w =
    true ∧ wordSub w = 0 ∧ s.calm g = true :=
⟨5, wrd 0x18 0 0 0 0, run 5, by decide +kernel⟩
theorem wit_MaintenanceLocksAndFences_16b : ∃ (g : GCore) (w : BitVec 32) (s : State), s.canRun g = true ∧ s.wordOk g 0x18 w =
    true ∧ wordSub w = 0 ∧ s.calm g = true :=
⟨5, wrd 0x18 0 0 0 0, withC (run 5) 5 fun c => { c with mb := [mbx 0x40] }, by decide +kernel⟩
theorem wit_MaintenanceLocksAndFences_17 : ∃ (g : GCore) (w : BitVec 32) (s : State), s.canRun g = true ∧ s.wordOk g 0x18 w =
    true ∧ wordSub w = 1 :=
⟨5, wrd 0x18 1 0 0 0, run 5, by decide +kernel⟩
theorem wit_MaintenanceLocksAndFences_18 : ∃ (g : GCore) (w : BitVec 32) (s : State), s.canRun g = true ∧ s.wordOk g 0x18 w =
    true ∧ wordSub w = 2 :=
⟨5, wrd 0x18 2 0 0 0, run 5, by decide +kernel⟩
theorem wit_MaintenanceLocksAndFences_18b : ∃ (g : GCore) (w : BitVec 32) (s : State), s.canRun g = true ∧ s.wordOk g 0x18 w =
    true ∧ wordSub w = 2 :=
⟨5, wrd 0x18 2 0 0 0, withC (run 5) 5 fun c => { c with plPend := [iox] }, by decide +kernel⟩
theorem wit_MaintenanceLocksAndFences_19 : ∃ (g : GCore) (w : BitVec 32) (s : State), s.canRun g = true ∧ s.wordOk g 0x18 w =
    true ∧ wordSub w = 3 ∧ (s.core g).cmPend = [] ∧ s.calm g = true :=
⟨5, wrd 0x18 3 0 0 0, run 5, by decide +kernel⟩
theorem wit_MaintenanceLocksAndFences_20 : ∃ (g : GCore) (w : BitVec 32) (s : State), s.canRun g = true ∧ s.wordOk g 0x18 w =
    true ∧ wordSub w = 4 ∧ (s.core g).mb = [] ∧ s.calm g = true :=
⟨5, wrd 0x18 4 0 0 0, withC (run 5) 5 fun c => { c with l1i := [(0x40, some d5)] }, by decide +kernel⟩
theorem wit_MaintenanceLocksAndFences_22 : ∃ (g : GCore) (e : MbEnt) (es : List MbEnt) (l : CLine) (s : State), (s.core g).mb
    = e :: es ∧ s.l2 g e.la = some l ∧ l.m = true ∧ s.inGuarded g = false ∧ (s.core g).t.step = 0 :=
⟨5, mbx 0x40, [mbx 0x41], d5, withC (m5 d5) 5 fun c => { c with mb := [mbx 0x40, mbx 0x41] }, by decide +kernel⟩
theorem wit_MaintenanceLocksAndFences_23 : ∃ (g : GCore) (e : MbEnt) (es : List MbEnt) (s : State), (s.core g).mb = e :: es ∧
    s.l2 g e.la = none ∧ s.l2On g = true ∧ (s.core g).miss = [] ∧ (s.core g).wbs = [] :=
⟨5, mbx 0x41, [], withC (m5 d5) 5 fun c => { c with mb := [mbx 0x41] }, by decide +kernel⟩
theorem wit_MaintenanceLocksAndFences_24 : ∃ (g : GCore) (e : MbEnt) (es : List MbEnt) (s : State), (s.core g).mb = e :: es ∧
    s.l2 g e.la = none ∧ s.l2On g = false ∧ e.sent = false ∧ e.at_ ≤ s.now :=
⟨5, mbx 0x41, [], sets (withC (m5 d5) 5 fun c => { c with mb := [mbx 0x41] }) [(.L2_CTL_EN, instC 5, 0), (.PT_NOW_TIME, 0,
    5)], by decide +kernel⟩

end MaintenanceLocksAndFences

namespace CachesAreSweptAndMaintained

def gd : State := runP 5 6
def swc : State := sets (withC (run 5) 5 fun c => { c with l2 := [(0x40, some ⟨1, true, true, false, 0, false, 0⟩)] }) [(.L2_STAT_SWEEP, instC 5, 1), (.L2_STAT_LOCKED, instC 5, 0xFFF), (.L2_CTL_EN, instC 5, 0)]
def dln : CLine := ⟨1, false, false, false, 15, false, 0⟩
def mnt : State := sets (upS.updDie 11 fun d => { d with dc := [(19, some dln)] }) [(.DC_MAINT_BUSY, instD 11 0, 1), (.DC_MAINT_OP, instD 11 0, 2), (.DC_MAINT_SLICE, instD 11 0, dcSlice 19), (.DC_MAINT_SET, instD 11 0, dcLocal 19), (.DC_MAINT_WAY, instD 11 0, 15)]
def mntT : State := withC mnt 225 fun c => { c with l2 := [(19, some ⟨1, true, true, true, 0, false, 0⟩)] }

theorem wit_CachesAreSweptAndMaintained_1 : ∃ (a : Acc) (g : GCore) (v : Word) (s : State), a.sec = true ∧ s.unitGone (dieAddr
    (g / 20) ((g % 20) * 0x1000000 + 0x40000)) = false ∧ bitOf v.toNat 0 = false ∧ s.coreGuarded g = false ∧ s.flag .L2_CTL_EN
    (instC g) = true :=
⟨hub, 5, 0, run 5, by decide +kernel⟩
theorem wit_CachesAreSweptAndMaintained_2 : ∃ (a : Acc) (g : GCore) (v : Word) (s : State), a.sec = true ∧ s.unitGone (dieAddr
    (g / 20) ((g % 20) * 0x1000000 + 0x40000)) = false ∧ bitOf v.toNat 0 = false ∧ s.coreGuarded g = true :=
⟨hub, 5, 0, gd, by decide +kernel⟩
theorem wit_CachesAreSweptAndMaintained_3 : ∃ (g : GCore) (s : State), s.flag .L2_STAT_SWEEP (instC g) = true :=
⟨5, swc, by decide +kernel⟩
theorem wit_CachesAreSweptAndMaintained_4 : ∃ (g : GCore) (s : State), s.flag .L2_STAT_SWEEP (instC g) = false :=
⟨5, run 5, by decide +kernel⟩
theorem wit_CachesAreSweptAndMaintained_5 : ∃ (a : Acc) (d : Die) (v : Word) (s : State), a.sec = true ∧ s.unitGone (dieAddr d
    0x81000000) = false ∧ bitOf v.toNat 0 = false ∧ s.dieGuarded d = false ∧ s.flag .DC_CTL_EN (instD d 0) = true :=
⟨hub, 11, 0, upS, by decide +kernel⟩
theorem wit_CachesAreSweptAndMaintained_6 : ∃ (a : Acc) (d : Die) (v : Word) (s : State), a.sec = true ∧ s.unitGone (dieAddr d
    0x81000000) = false ∧ bitOf v.toNat 0 = false ∧ s.dieGuarded d = true :=
⟨hub, 0, 0, gd, by decide +kernel⟩
theorem wit_CachesAreSweptAndMaintained_7 : ∃ (d : Die) (s : State), s.flag .DC_STAT_SWEEP (instD d 0) = true :=
⟨0, sets (upS.updDie 0 fun d => { d with dc := [(19, some dln)] }) [(.DC_STAT_SWEEP, instD 0 0, 1), (.DC_CTL_EN, instD 0 0,
    0)], by decide +kernel⟩
theorem wit_CachesAreSweptAndMaintained_8 : ∃ (d : Die) (s : State), s.flag .DC_STAT_SWEEP (instD d 0) = false :=
⟨0, upS, by decide +kernel⟩
theorem wit_CachesAreSweptAndMaintained_9 : ∃ (a : Acc) (d : Die) (v : Word) (s : State), a.sec = true ∧ s.unitGone (dieAddr d
    0x81000018) = false ∧ s.flag .DC_MAINT_BUSY (instD d 0) = true :=
⟨hub, 11, 0x800000, sets upS [(.DC_MAINT_BUSY, instD 11 0, 1)], by decide +kernel⟩
theorem wit_CachesAreSweptAndMaintained_10 : ∃ (a : Acc) (d : Die) (v : Word) (s : State), a.sec = true ∧ s.unitGone (dieAddr
    d 0x81000018) = false ∧ s.flag .DC_MAINT_BUSY (instD d 0) = false ∧ bitOf v.toNat 23 = true ∧ v.toNat % 4 ≠ 3 ∧ bitsOf
    v.toNat 6 2 < 20 ∧ bitsOf v.toNat 17 7 * 20 + bitsOf v.toNat 6 2 < 32768 ∧ bitsOf v.toNat 22 18 < 16 :=
⟨hub, 11, BitVec.ofNat 64 (2 + 7 * 4 + 1638 * 128 + 15 * 2 ^ 18 + 2 ^ 23), upS, by decide +kernel⟩
theorem wit_CachesAreSweptAndMaintained_10b : ∃ (a : Acc) (d : Die) (v : Word) (s : State), a.sec = true ∧ s.unitGone (dieAddr
    d 0x81000018) = false ∧ s.flag .DC_MAINT_BUSY (instD d 0) = false ∧ bitOf v.toNat 23 = true ∧ v.toNat % 4 ≠ 3 ∧ bitsOf
    v.toNat 6 2 < 20 ∧ bitsOf v.toNat 17 7 * 20 + bitsOf v.toNat 6 2 < 32768 ∧ bitsOf v.toNat 22 18 < 16 :=
⟨hub, 11, BitVec.ofNat 64 (2 ^ 23 + 19 * 4), upS, by decide +kernel⟩
theorem wit_CachesAreSweptAndMaintained_11 : ∃ (d : Die) (la : Nat) (s : State), s.flag .DC_MAINT_BUSY (instD d 0) = true ∧
    s.maintLine d = some la ∧ (coresOfDie d).find? (fun n => s.tdHere n la) = none ∧ s.get .DC_MAINT_OP (instD d 0) = 0 :=
⟨11, 19, sets mnt [(.DC_MAINT_OP, instD 11 0, 0)], by decide +kernel⟩
theorem wit_CachesAreSweptAndMaintained_12 : ∃ (d : Die) (la : Nat) (s : State), s.flag .DC_MAINT_BUSY (instD d 0) = true ∧
    s.maintLine d = some la ∧ (coresOfDie d).find? (fun n => s.tdHere n la) = none ∧ s.get .DC_MAINT_OP (instD d 0) ≠ 0 :=
⟨11, 19, mnt, by decide +kernel⟩
theorem wit_CachesAreSweptAndMaintained_13 : ∃ (d : Die) (la n : Nat) (s : State), s.flag .DC_MAINT_BUSY (instD d 0) = true ∧
    s.maintLine d = some la ∧ (coresOfDie d).find? (fun n => s.tdHere n la) = some n ∧ (s.core n).parked = [] :=
⟨11, 19, 225, mntT, by decide +kernel⟩

end CachesAreSweptAndMaintained

namespace TranslationsFillAndGo

def tlb5 : TlbEnt := ⟨.dtlb, 1, true, false, 0, 0, true, 0x5000, 12, 0x9000, 3, 0, 0, 0x7F, 0, false, true, false⟩
def s1 (e : Nat) : State := ((openRgn (sysr (atLevel (runP 5 1) 5 1) 5 [(0x108, 1), (0x106, 0x100000)])).writeBytes 0x100000 (natLe 0x101001 8)).writeBytes 0x101000 (natLe e 8)
def tlb0 : TlbEnt := { tlb5 with pol := 0 }
def inv6 : TlbInv := ⟨6, false, 0, 0, 0⟩
def reg5 : Regime := ⟨1, true, false, 0⟩
def pd5 (d : Bool) : TlbiPend := ⟨25, inv6, reg5, d, []⟩
def bc : State := (withC (runP 5 1) 5 fun c => { c with tlbiPend := [pd5 false] }).updCore 25 fun c => { c with pol := 1, tlb := [tlb5], pow := 0 }
def h5 : State := sysr (withC (openRgn (atLevel (runP 5 1) 5 1)) 5 fun c => { c with tlb := [tlb5] }) 5 [(0x108, 1)]
def walkT (s : State) : Trace := match s.walk 5 0x123456 .load false with | .ok _ _ _ _ t => t | .fault _ t => t | .key _ t => t | .wait _ => Trace.none
def walkL (s : State) : Leaf := match s.walk 5 0x123456 .load false with | .ok _ _ (some l) _ _ => l | _ => ⟨0, 0, 0, 0, 0, false⟩
def walkF (s : State) : WFault := match s.walk 5 0x123456 .load false with | .fault f _ => f | _ => ⟨0, 0, 0, 0, false, 0, 0⟩
theorem fst_none {α β : Type} (p : α × Option β) (h : p.2 = none) : p = (p.1, none) := by rw [← h]
def lin (s : State) : State := (s.fetchLines (5 : GCore) (walkT s).lines).1
def p5 : Polder := { pold 1 with lcpus := [some 5, some 25] }

theorem wit_TranslationsFillAndGo_1 : ∃ (g : GCore) (va : Word) (acc : AccKind) (la : LineAddr) (e : TlbEnt) (pa : Nat) (dev :
    Bool) (s : State), s.canRun g = true ∧ s.vaFault g va.toNat = none ∧ s.s1On g = true ∧ s.tlbFind g (firstStr acc) va.toNat
    = some e ∧ s.useEntry g va.toNat acc true e = some (.ok s pa dev) :=
⟨5, 0x5123, .load, 0, tlb5, 0x9123, false, h5, by decide +kernel⟩
theorem wit_TranslationsFillAndGo_2 : ∃ (g : GCore) (va : Word) (la : LineAddr) (pa : Nat) (dev : Bool) (l : Leaf) (tr :
    Trace) (u s : State), s.canRun g = true ∧ (s.core g).tlb = [] ∧ s.s1On g = true ∧ s.walk g va.toNat .load false = .ok pa
    dev (some l) none tr ∧ tr.used = [] ∧ s.fetchLines g tr.lines = (u, none) ∧ pteA l.val = true ∧ va.toNat % 2 ^ slotBits
    l.val l.level ≤ pa :=
⟨5, 0x123456, 0, 0x40123456, false, walkL (s1 0x400001DF), walkT (s1 0x400001DF), lin (s1 0x400001DF), s1 0x400001DF, by exact
    ⟨by decide +kernel, by decide +kernel, by decide +kernel, by decide +kernel, by decide +kernel, fst_none _ (by
    decide +kernel), by decide +kernel⟩⟩
theorem wit_TranslationsFillAndGo_3 : ∃ (g : GCore) (va : Word) (la : LineAddr) (f : WFault) (tr : Trace) (u s : State),
    s.canRun g = true ∧ (s.core g).tlb = [] ∧ (s.core g).level ≤ 1 ∧ s.walk g va.toNat .load false = .fault f tr ∧
    s.fetchLines g tr.lines = (u, none) ∧ f.stage = 1 ∧ f.level < 4 ∧ f.cause = 1 ∧ f.pa = 0 ∧ f.wr = false ∧ f.s1 = 0 :=
⟨5, 0x123456, 0, walkF (s1 0), walkT (s1 0), lin (s1 0), s1 0, by exact ⟨by decide +kernel, by decide +kernel, by
    decide +kernel, by decide +kernel, fst_none _ (by decide +kernel), by decide +kernel⟩⟩
theorem wit_TranslationsFillAndGo_4 : ∃ (g : GCore) (w : BitVec 32) (s : State), s.canRun g = true ∧ s.wordOk g 0x10 w = true
    ∧ s.calm g = true ∧ wordSub w = 0x16 :=
⟨5, wrd 0x10 0x16 0 1 2, withC (run 5) 5 fun c => { c with tlb := [tlb0] }, by decide +kernel⟩
theorem wit_TranslationsFillAndGo_5 : ∃ (g : GCore) (w : BitVec 32) (v : Polder) (s : State), s.canRun g = true ∧ s.wordOk g
    0x10 w = true ∧ s.calm g = true ∧ wordSub w = 6 ∧ s.polder (s.core g).pol = some v :=
⟨5, wrd 0x10 6 0 1 2, p5, onCore ((runP 5 1).setPolder 1 (some p5)) 25, by decide +kernel⟩
theorem wit_TranslationsFillAndGo_6 : ∃ (g : GCore) (w : BitVec 32) (s : State), s.canRun g = true ∧ (s.core g).level ≤ 3 ∧
    wordMajor w = 0x3B ∧ wordFunc w = 0x10 ∧ wordSub w % 8 = 7 :=
⟨5, wrd 0x10 7 0 1 2, atLevel (runP 5 0) 5 0, by decide +kernel⟩
theorem wit_TranslationsFillAndGo_7 : ∃ (g : GCore) (inv : TlbInv) (y : Nat × Core) (x : TlbiPend) (s : State), s.cores.find?
    (fun z => z.2.tlbiPend.any fun x => x.dst == (g : Nat) && x.inv == inv && !x.done && x.reg.pol == (s.core g).pol) = some y
    ∧ y.1 ≠ g.val ∧ (s.core y.1).tlbiPend.find? (fun x => x.dst == (g : Nat) && x.inv == inv && !x.done && x.reg.pol ==
    (s.core g).pol) = some x :=
⟨25, inv6, (5, (bc.core 5)), pd5 false, bc, by decide +kernel⟩
theorem wit_TranslationsFillAndGo_8 : ∃ (g : GCore) (w : BitVec 32) (s : State), s.canGoOn g = true ∧ (s.core g).fill = none ∧
    s.wordOk g 0x11 w = true ∧ s.calm g = true ∧ (s.core g).tlbiPend.all s.tlbiDone = true :=
⟨5, wrd 0x11 0 0 0 0, run 5, by decide +kernel⟩
theorem wit_TranslationsFillAndGo_8b : ∃ (g : GCore) (w : BitVec 32) (s : State), s.canGoOn g = true ∧ (s.core g).fill = none
    ∧ s.wordOk g 0x11 w = true ∧ s.calm g = true ∧ (s.core g).tlbiPend.all s.tlbiDone = true :=
⟨5, wrd 0x11 0 0 0 0, withC bc 5 fun c => { c with tlbiPend := [pd5 true], syncing := true }, by decide +kernel⟩
theorem wit_TranslationsFillAndGo_9 : ∃ (g : GCore) (w : BitVec 32) (s : State), s.canGoOn g = true ∧ (s.core g).fill = none ∧
    s.wordOk g 0x11 w = true ∧ (s.core g).tlbiPend.all s.tlbiDone = false :=
⟨5, wrd 0x11 0 0 0 0, bc, by decide +kernel⟩
theorem wit_TranslationsFillAndGo_10 : ∃ (g : GCore) (rs : Fin 32) (s : State), s.canRun g = true ∧ s.calm g = true ∧ 1 ≤
    (s.core g).level :=
⟨5, 3, gpr (run 5) 5 [(3, 0xFFFFFFFFFFFFFFFF)], by decide +kernel⟩
theorem wit_TranslationsFillAndGo_11 : ∃ (g : GCore) (rs : Fin 32) (s : State), s.canRun g = true ∧ s.calm g = true ∧ 2 ≤
    (s.core g).level :=
⟨5, 3, gpr (run 5) 5 [(3, 0xFFFFFFFFFFFFFFFF)], by decide +kernel⟩

end TranslationsFillAndGo

namespace BanksServeRequests

def b0 : BitVec 12 := 0xC00
def rq (ty : MsgTy) (a : BitVec 12) : Msg := msg ty 0x105 b0 a 0x40 0
def kw : Trk := { trk 0x40 .hold none 0 with waiters := [(rq .upgrade 5, 0)] }

theorem wit_BanksServeRequests_1 : ∃ (m : Msg) (s : State), s.mayArrive m = true ∧ s.bankFree m ∧ s.rgnCheck m.pol m.sec false
    (m.la.toNat * 64) = none ∧ s.dirEnt (stopHalf m.dst) m.la.toNat = none ∧ s.wayFree (stopHalf m.dst) m.la.toNat = true :=
⟨rq .readShared 5, arr (rq .readShared 5) (mem), by exact ⟨by decide +kernel, by unfold State.bankFree; decide +kernel, by
    decide +kernel⟩⟩
theorem wit_BanksServeRequests_2 : ∃ (m : Msg) (k : Nat) (s : State), s.mayArrive m = true ∧ s.bankFree m ∧ s.rgnCheck m.pol
    m.sec false (m.la.toNat * 64) = some k :=
⟨rq .readShared 5, 4, arr (rq .readShared 5) (upS), by exact ⟨by decide +kernel, by unfold State.bankFree; decide +kernel, by
    decide +kernel⟩⟩
theorem wit_BanksServeRequests_3 : ∃ (m : Msg) (s : State), s.mayArrive m = true ∧ s.bankFree m ∧ s.rgnCheck m.pol m.sec false
    (m.la.toNat * 64) = none ∧ s.rgnCheck m.pol m.sec true (m.la.toNat * 64) = none ∧ s.dirEnt (stopHalf m.dst) m.la.toNat =
    none ∧ s.wayFree (stopHalf m.dst) m.la.toNat = true :=
⟨rq .readOwn 5, arr (rq .readOwn 5) (mem), by exact ⟨by decide +kernel, by unfold State.bankFree; decide +kernel, by
    decide +kernel⟩⟩
theorem wit_BanksServeRequests_4 : ∃ (m : Msg) (e : DirEnt) (s : State), s.mayArrive m = true ∧ s.bankFree m ∧ s.rgnCheck
    m.pol m.sec false (m.la.toNat * 64) = none ∧ s.rgnCheck m.pol m.sec true (m.la.toNat * 64) = none ∧ s.dirEnt (stopHalf
    m.dst) m.la.toNat = some e ∧ e.m = false ∧ s.inHold e = false ∧ (∃ d ∈ diesOf e.pres, d ≠ msgDie m) :=
⟨rq .readOwn 5, dEnt false 0xFFF 0, arr (rq .readOwn 5) (sets (withE mem 0 0x40 (dEnt false 0xFFF 0)) [(.PT_NOW_TIME, 0,
    2000)]), by exact ⟨by decide +kernel, by unfold State.bankFree; decide +kernel, by decide +kernel⟩⟩
theorem wit_BanksServeRequests_5 : ∃ (m : Msg) (e : DirEnt) (s : State), s.mayArrive m = true ∧ s.bankFree m ∧ s.rgnCheck
    m.pol m.sec false (m.la.toNat * 64) = none ∧ s.dirEnt (stopHalf m.dst) m.la.toNat = some e ∧ e.m = true ∧ s.inHold e =
    false :=
⟨rq .readShared 5, dEnt true 0x800 0, arr (rq .readShared 5) (sets (withE mem 0 0x40 (dEnt true 0x800 0)) [(.PT_NOW_TIME, 0,
    2000)]), by exact ⟨by decide +kernel, by unfold State.bankFree; decide +kernel, by decide +kernel⟩⟩
theorem wit_BanksServeRequests_6 : ∃ (m : Msg) (e : DirEnt) (s : State), s.mayArrive m = true ∧ s.bankFree m ∧ s.rgnCheck
    m.pol m.sec false (m.la.toNat * 64) = none ∧ s.dirEnt (stopHalf m.dst) m.la.toNat = some e ∧ ((e.m = true ∨ ∃ d ∈ diesOf
    e.pres, d ≠ msgDie m)) ∧ s.inHold e = true ∧ s.rgnCheck m.pol m.sec true (m.la.toNat * 64) = none ∧ s.waitRoom (stopHalf
    m.dst) (dirBank m.la.toNat) m = true :=
⟨rq .readOwn 5, dEnt true 0x800 0, arr (rq .readOwn 5) (withE (sets mem [(.DIR_CTL_HOLD_WINDOW, 0, 2000)]) 0 0x40 (dEnt true
    0x800 0)), by exact ⟨by decide +kernel, by unfold State.bankFree; decide +kernel, by decide +kernel, by decide +kernel,
    Or.inl (by decide +kernel), by decide +kernel, by decide +kernel⟩⟩
theorem wit_BanksServeRequests_7 : ∃ (m : Msg) (e : DirEnt) (s : State), s.mayArrive m = true ∧ s.bankFree m ∧ s.rgnCheck
    m.pol m.sec false (m.la.toNat * 64) = none ∧ s.rgnCheck m.pol m.sec true (m.la.toNat * 64) = none ∧ s.dirEnt (stopHalf
    m.dst) m.la.toNat = some e ∧ e.m = false ∧ e.pres = 2 ^ msgDie m ∧ msgDie m < 12 :=
⟨rq .upgrade 5, dEnt false 2 0, arr (rq .upgrade 5) (withE mem 0 0x40 (dEnt false 2 0)), by exact ⟨by decide +kernel, by
    unfold State.bankFree; decide +kernel, by decide +kernel⟩⟩
theorem wit_BanksServeRequests_8 : ∃ (m : Msg) (s : State), s.mayArrive m = true ∧ s.bankFree m ∧ s.rgnCheck m.pol m.sec true
    (m.la.toNat * 64) = none ∧ s.dirEnt (stopHalf m.dst) m.la.toNat = none :=
⟨rq .write 0, arr (rq .write 0) (mem), by exact ⟨by decide +kernel, by unfold State.bankFree; decide +kernel, by
    decide +kernel⟩⟩
theorem wit_BanksServeRequests_9 : ∃ (m : Msg) (k : Nat) (s : State), s.mayArrive m = true ∧ s.bankFree m ∧ s.rgnCheck m.pol
    m.sec true (m.la.toNat * 64) = some k :=
⟨rq .write 0, 4, arr (rq .write 0) (upS), by exact ⟨by decide +kernel, by unfold State.bankFree; decide +kernel, by
    decide +kernel⟩⟩
theorem wit_BanksServeRequests_10 : ∃ (m : Msg) (s : State), s.mayArrive m = true ∧ s.bankFree m ∧ m.a.getLsbD 0 = false ∧
    s.rgnCheck m.pol m.sec true (m.la.toNat * 64) = none ∧ s.dirEnt (stopHalf m.dst) m.la.toNat = none ∧ ((s.targetMine m =
    false ∨ m.b.getLsbD 4 = true)) :=
⟨msg .placeWrite 0xC20 b0 0 0x40 16, arr (msg .placeWrite 0xC20 b0 0 0x40 16) (mem), by exact ⟨by decide +kernel, by
    unfold State.bankFree; decide +kernel, by decide +kernel, by decide +kernel, by decide +kernel, Or.inr (by
    decide +kernel)⟩⟩
theorem wit_BanksServeRequests_11 : ∃ (m : Msg) (e : DirEnt) (s : State), s.mayArrive m = true ∧ s.bankFree m ∧ m.a.getLsbD 0
    = true ∧ s.rgnCheck m.pol m.sec false (m.la.toNat * 64) = none ∧ s.dirEnt (stopHalf m.dst) m.la.toNat = some e ∧ e.m =
    true :=
⟨rq .placeWrite 1, dEnt true 4 0, arr (rq .placeWrite 1) (withE mem 0 0x40 (dEnt true 4 0)), by exact ⟨by decide +kernel, by
    unfold State.bankFree; decide +kernel, by decide +kernel⟩⟩
theorem wit_BanksServeRequests_12 : ∃ (m : Msg) (e : DirEnt) (s : State), s.mayArrive m = true ∧ s.dirEnt (stopHalf m.dst)
    m.la.toNat = some e ∧ e.pres.testBit (msgDie m) = true ∧ s.trk (stopHalf m.dst) m.la.toNat = none ∧ s.wayWaiters (stopHalf
    m.dst) m.la.toNat = [] :=
⟨rq .evictClean 0, dEnt false 2 0, arr (rq .evictClean 0) (withE mem 0 0x40 (dEnt false 2 0)), by decide +kernel⟩
theorem wit_BanksServeRequests_12b : ∃ (m : Msg) (e : DirEnt) (s : State), s.mayArrive m = true ∧ s.dirEnt (stopHalf m.dst)
    m.la.toNat = some e ∧ e.pres.testBit (msgDie m) = true ∧ s.trk (stopHalf m.dst) m.la.toNat = none ∧ s.wayWaiters (stopHalf
    m.dst) m.la.toNat = [] :=
⟨rq .evictClean 0, dEnt false 0xFFF 0, arr (rq .evictClean 0) (withE mem 0 0x40 (dEnt false 0xFFF 0)), by decide +kernel⟩
theorem wit_BanksServeRequests_13 : ∃ (m : Msg) (s : State), s.mayArrive m = false :=
⟨rq .readShared 5, mem, by decide +kernel⟩
theorem wit_BanksServeRequests_13b : ∃ (m : Msg) (s : State), s.mayArrive m = false :=
⟨rq .readShared 5, arr (rq .upgrade 5) mem, by decide +kernel⟩
theorem wit_BanksServeRequests_14 : ∃ (h : Half) (la : LineAddr) (e : DirEnt) (s : State), s.dirEnt h la.toNat = some e ∧
    s.inHold e = true :=
⟨0, 0x40, dEnt true 2 0, withE (sets mem [(.DIR_CTL_HOLD_WINDOW, 0, 2000)]) 0 0x40 (dEnt true 2 0), by decide +kernel⟩
theorem wit_BanksServeRequests_15 : ∃ (h : Half) (la : LineAddr) (e : DirEnt) (k : Trk) (m : Msg) (n : Nat) (s : State),
    s.dirEnt h la.toNat = some e ∧ s.inHold e = false ∧ s.trk h la.toNat = some k ∧ k.st = .hold ∧ k.waiters = [(m, n)] ∧ m.ty
    = .upgrade ∧ m.la = la ∧ e.m = false ∧ e.pres = 2 ^ msgDie m ∧ msgDie m < 12 ∧ (s.bankTrks h (dirBank la.toNat)).length <
    496 :=
⟨0, 0x40, dEnt false 2 0, kw, rq .upgrade 5, 0, withK (withE (sets mem [(.PT_NOW_TIME, 0, 2000)]) 0 0x40 (dEnt false 2 0)) 0
    kw, by decide +kernel⟩
theorem wit_BanksServeRequests_16 : ∃ (m r : Msg) (k : Trk) (e : DirEnt) (s : State), s.mayArrive m = true ∧ s.trk (stopHalf
    m.dst) m.la.toNat = some k ∧ k.st = .rd ∧ k.req = some r ∧ k.waiters = [] ∧ r.ty = .readOwn ∧ s.dirEnt (stopHalf m.dst)
    m.la.toNat = some e ∧ s.wayWaiters (stopHalf m.dst) m.la.toNat = [] :=
⟨msg .completion 0xC10 b0 1 0x40 0, rq .readOwn 5, trk 0x40 .rd (some (rq .readOwn 5)) 0, dEnt false 0 0, arr (msg .completion
    0xC10 b0 1 0x40 0) (withK (withE mem 0 0x40 (dEnt false 0 0)) 0 (trk 0x40 .rd (some (rq .readOwn 5)) 0)), by
    decide +kernel⟩
theorem wit_BanksServeRequests_17 : ∃ (m r : Msg) (k : Trk) (e : DirEnt) (s : State), s.mayArrive m = true ∧ s.trk (stopHalf
    m.dst) m.la.toNat = some k ∧ k.st = .rd ∧ k.req = some r ∧ k.waiters = [] ∧ r.ty = .readShared ∧ nonCaching r = false ∧
    s.dirEnt (stopHalf m.dst) m.la.toNat = some e ∧ withBit e.pres (msgDie r) true ≠ 0 ∧ s.wayWaiters (stopHalf m.dst)
    m.la.toNat = [] :=
⟨msg .completion 0xC10 b0 1 0x40 0, rq .readShared 5, trk 0x40 .rd (some (rq .readShared 5)) 0, dEnt false 4 0, arr (msg
    .completion 0xC10 b0 1 0x40 0) (withK (withE mem 0 0x40 (dEnt false 4 0)) 0 (trk 0x40 .rd (some (rq .readShared 5)) 0)),
    by decide +kernel⟩
theorem wit_BanksServeRequests_18 : ∃ (m r : Msg) (k : Trk) (s : State), s.mayArrive m = true ∧ s.trk (stopHalf m.dst)
    m.la.toNat = some k ∧ k.st = .wr ∧ k.req = some r ∧ k.waiters = [] ∧ s.wayWaiters (stopHalf m.dst) m.la.toNat = [] :=
⟨msg .completion 0xC10 b0 3 0x40 0, rq .write 0, trk 0x40 .wr (some (rq .write 0)) 0, arr (msg .completion 0xC10 b0 3 0x40 0)
    (withK mem 0 (trk 0x40 .wr (some (rq .write 0)) 0)), by decide +kernel⟩

end BanksServeRequests

namespace SnoopsAreAnswered

def sn (ty : MsgTy) : Msg := msg ty 0xC00 0x103 0 0x40 9
def an (ty : MsgTy) (a : BitVec 12) : Msg := msg ty 0x103 0xC00 a 0x40 9
def dline (m dirty : Bool) : State := withD (withL mem 25 0x40 (line m dirty false)) 1 0x40 (line false false false)
def rw : Msg := msg .write 0xC20 0xC00 0 0x40 0
def ro : Msg := msg .readOwn 0x205 0xC00 5 0x40 0
def kr : Trk := { trk 0x40 .inv (some rw) 1 with retry := [(1, 90)], snp := .downgrade }
def wba : Msg := msg .completion 0xC00 0x105 4 0x40 0
def kk (st : TrSt) (r : Msg) (n : Nat) : State := withK mem 0 (trk 0x40 st (some r) n)

theorem wit_SnoopsAreAnswered_1 : ∃ (m : Msg) (s : State), s.mayArrive m = true ∧ s.pushComing m = false ∧ s.snoopFree m :=
⟨sn .invalidate, arr (sn .invalidate) (dline false false), by exact ⟨by decide +kernel, by decide +kernel, by
    unfold State.snoopFree; decide +kernel⟩⟩
theorem wit_SnoopsAreAnswered_2 : ∃ (m : Msg) (g : Nat) (l : CLine) (s : State), s.mayArrive m = true ∧ s.pushComing m = false
    ∧ s.snoopFree m ∧ s.mHolder (stopUnit m.dst) m.la.toNat = some g ∧ s.l2 g m.la.toNat = some l ∧ l.dirty = true :=
⟨sn .recall, 25, line true true false, arr (sn .recall) (dline true true), by exact ⟨by decide +kernel, by decide +kernel, by
    unfold State.snoopFree; decide +kernel, by decide +kernel⟩⟩
theorem wit_SnoopsAreAnswered_3 : ∃ (m : Msg) (s : State), s.mayArrive m = true ∧ s.pushComing m = false ∧ s.snoopFree m ∧
    s.mHolder (stopUnit m.dst) m.la.toNat = none :=
⟨sn .recall, arr (sn .recall) (dline false false), by exact ⟨by decide +kernel, by decide +kernel, by
    unfold State.snoopFree; decide +kernel, by decide +kernel⟩⟩
theorem wit_SnoopsAreAnswered_4 : ∃ (m : Msg) (g : Nat) (l : CLine) (s : State), s.mayArrive m = true ∧ s.pushComing m = false
    ∧ s.snoopFree m ∧ s.mHolder (stopUnit m.dst) m.la.toNat = some g ∧ s.l2 g m.la.toNat = some l ∧ l.dirty = true :=
⟨sn .downgrade, 25, line true true false, arr (sn .downgrade) (dline true true), by exact ⟨by decide +kernel, by
    decide +kernel, by unfold State.snoopFree; decide +kernel, by decide +kernel⟩⟩
theorem wit_SnoopsAreAnswered_5 : ∃ (m : Msg) (g : Nat) (l : CLine) (s : State), s.mayArrive m = true ∧ s.pushComing m = false
    ∧ s.snoopFree m ∧ s.mHolder (stopUnit m.dst) m.la.toNat = some g ∧ s.l2 g m.la.toNat = some l ∧ l.dirty = false :=
⟨sn .downgrade, 25, line true false false, arr (sn .downgrade) (dline true false), by exact ⟨by decide +kernel, by
    decide +kernel, by unfold State.snoopFree; decide +kernel, by decide +kernel⟩⟩
theorem wit_SnoopsAreAnswered_6 : ∃ (m : Msg) (k : Trk) (r : Msg) (s : State), s.mayArrive m = true ∧ s.trk (stopHalf m.dst)
    m.la.toNat = some k ∧ k.st = .inv ∧ k.req = some r ∧ m.b.toNat % 512 = k.id ∧ m.a.getLsbD 3 = false ∧ 1 < k.cnt ∧ k.la =
    m.la.toNat :=
⟨an .invAck 0, trk 0x40 .inv (some rw) 2, rw, arr (an .invAck 0) (kk .inv rw 2), by decide +kernel⟩
theorem wit_SnoopsAreAnswered_7 : ∃ (m : Msg) (k : Trk) (r : Msg) (s : State), s.mayArrive m = true ∧ s.trk (stopHalf m.dst)
    m.la.toNat = some k ∧ k.st = .inv ∧ k.req = some r ∧ m.b.toNat % 512 = k.id ∧ m.a.getLsbD 3 = false ∧ k.cnt = 1 ∧ k.needWb
    = false ∧ k.la = m.la.toNat ∧ r.ty = .write ∧ r.la = m.la :=
⟨an .invAck 0, trk 0x40 .inv (some rw) 1, rw, arr (an .invAck 0) (withE (kk .inv rw 1) 0 0x40 (dEnt false 2 0)), by
    decide +kernel⟩
theorem wit_SnoopsAreAnswered_8 : ∃ (m : Msg) (k : Trk) (s : State), s.mayArrive m = true ∧ s.trk (stopHalf m.dst) m.la.toNat
    = some k ∧ k.st = .inv ∧ m.b.toNat % 512 = k.id ∧ m.a.getLsbD 3 = true ∧ k.la = m.la.toNat :=
⟨an .invAck 8, trk 0x40 .inv (some rw) 1, arr (an .invAck 8) (kk .inv rw 1), by decide +kernel⟩
theorem wit_SnoopsAreAnswered_9 : ∃ (m : Msg) (k : Trk) (r : Msg) (s : State), s.mayArrive m = true ∧ s.trk (stopHalf m.dst)
    m.la.toNat = some k ∧ k.st = .rcl ∧ k.req = some r ∧ k.la = m.la.toNat ∧ m.b.toNat % 512 = k.id ∧ m.a.getLsbD 3 = false ∧
    k.cnt = 1 ∧ m.a.getLsbD 1 = false ∧ k.wbIn = false :=
⟨an .recallAck 0, trk 0x40 .rcl (some ro) 1, ro, arr (an .recallAck 0) (kk .rcl ro 1), by decide +kernel⟩
theorem wit_SnoopsAreAnswered_10 : ∃ (m : Msg) (k : Trk) (r : Msg) (s : State), s.mayArrive m = true ∧ s.trk (stopHalf m.dst)
    m.la.toNat = some k ∧ k.st = .rcl ∧ k.req = some r ∧ k.la = m.la.toNat ∧ m.b.toNat % 512 = k.id ∧ m.a.getLsbD 3 = false ∧
    k.cnt = 1 ∧ m.a.getLsbD 1 = true ∧ k.needWb = false ∧ k.bcast = false ∧ r.ty = .readOwn ∧ r.la = m.la :=
⟨an .recallAck 2, trk 0x40 .rcl (some ro) 1, ro, arr (an .recallAck 2) (withE (kk .rcl ro 1) 0 0x40 (dEnt true 2 0)), by
    decide +kernel⟩
theorem wit_SnoopsAreAnswered_13 : ∃ (m : Msg) (e : DirEnt) (s : State), s.mayArrive m = true ∧ s.trk (stopHalf m.dst)
    m.la.toNat = none ∧ s.dirEnt (stopHalf m.dst) m.la.toNat = some e ∧ e.m = true ∧ e.pres.testBit (msgDie m) = true ∧
    s.wayWaiters (stopHalf m.dst) m.la.toNat = [] :=
⟨msg .completion 0x105 0xC00 2 0x40 0, dEnt true 2 0, arr (msg .completion 0x105 0xC00 2 0x40 0) (withE mem 0 0x40 (dEnt true
    2 0)), by decide +kernel⟩
theorem wit_SnoopsAreAnswered_13b : ∃ (m : Msg) (e : DirEnt) (s : State), s.mayArrive m = true ∧ s.trk (stopHalf m.dst)
    m.la.toNat = none ∧ s.dirEnt (stopHalf m.dst) m.la.toNat = some e ∧ e.m = true ∧ e.pres.testBit (msgDie m) = true ∧
    s.wayWaiters (stopHalf m.dst) m.la.toNat = [] :=
⟨msg .completion 0x105 0xC00 2 0x40 2, dEnt true 2 0, arr (msg .completion 0x105 0xC00 2 0x40 2) (withE mem 0 0x40 (dEnt true
    2 0)), by decide +kernel⟩
theorem wit_SnoopsAreAnswered_11 : ∃ (h : Half) (la : LineAddr) (d : Die) (k : Trk) (x : Nat × Nat) (s : State), s.trk h
    la.toNat = some k ∧ k.la = la.toNat ∧ k.retry.find? (fun y => y.1 == d.val && decide (y.2 + s.nackRetry ≤ s.now)) = some x
    :=
⟨0, 0x40, 1, kr, (1, 90), sets (withK mem 0 kr) [(.PT_NOW_TIME, 0, 100000)], by decide +kernel⟩
theorem wit_SnoopsAreAnswered_12 : ∃ (h : Half) (la : LineAddr) (d : Die) (k : Trk) (s : State), s.trk h la.toNat = some k ∧
    k.retry.find? (fun y => y.1 == d.val && decide (y.2 + s.nackRetry ≤ s.now)) = none :=
⟨0, 0x40, 1, kr, sets (withK mem 0 kr) [(.PT_NOW_TIME, 0, 91), (.DIR_CTL_NACK_RETRY, 0, 100)], by decide +kernel⟩
theorem wit_SnoopsAreAnswered_12b : ∃ (h : Half) (la : LineAddr) (d : Die) (k : Trk) (s : State), s.trk h la.toNat = some k ∧
    k.retry.find? (fun y => y.1 == d.val && decide (y.2 + s.nackRetry ≤ s.now)) = none :=
⟨0, 0x40, 2, kr, sets (withK mem 0 kr) [(.PT_NOW_TIME, 0, 100000)], by decide +kernel⟩
theorem wit_SnoopsAreAnswered_14 : ∃ (m : Msg) (s : State), s.mayArrive m = true ∧ (s.core (stopCore m.dst)).parked = [] ∧
    (s.core (stopCore m.dst)).miss = [] ∧ s.hub = [] ∧ ((s.core (stopCore m.dst)).wbs.filter fun x => x.la == m.la).length ≤ 1
    :=
⟨wba, arr wba (withT (withC (withL mem 25 0x40 (line true true true)) 25 fun c =>
    { c with wbs := [msg .writeback 0x105 0xC17 0 0x40 0] }) 25 fun t => { t with step := 4 }), by decide +kernel⟩
theorem wit_SnoopsAreAnswered_14b : ∃ (m : Msg) (s : State), s.mayArrive m = true ∧ (s.core (stopCore m.dst)).parked = [] ∧
    (s.core (stopCore m.dst)).miss = [] ∧ s.hub = [] ∧ ((s.core (stopCore m.dst)).wbs.filter fun x => x.la == m.la).length ≤ 1
    :=
⟨wba, arr wba (withC (withL mem 25 0x40 (line true true true)) 25 fun c =>
    { c with wbs := [msg .writeback 0x105 0xC17 0 0x40 0] }), by decide +kernel⟩

end SnoopsAreAnswered

namespace AnswersEndRequests

def ms (kind stage nacks : Nat) : Miss := ⟨0x40, kind, 7, 0x1038, 3, 0, 0, 3, 100, stage, nacks, 100, []⟩
def dt (a : BitVec 12) : Msg := msg .data 0xC10 0x105 a 0x40 0
def mb40 : MbEnt := ⟨0x40, 0xFF, 0x7777, 5, true, true⟩
def cM (x : Miss) : State := withC (openRgn (run 25)) 25 fun c => { c with miss := [x] }

theorem wit_AnswersEndRequests_1 : ∃ (m : Msg) (x : Miss) (s : State), s.mayArrive m = true ∧ isCoreStop m.dst = true ∧
    m.a.getLsbD 1 = false ∧ m.a.getLsbD 8 = false ∧ m.a.getLsbD 9 = false ∧ m.a.getLsbD 0 = false ∧ s.missOf (stopCore m.dst)
    m = some x ∧ (s.core (stopCore m.dst)).miss = [x] ∧ (s.core (stopCore m.dst)).mb = [] ∧ x.seen = [] ∧ x.kind = 0 ∧ x.size
    = 3 ∧ x.addr / 64 = m.la.toNat ∧ x.addr % 64 ≤ 56 ∧ (s.core (stopCore m.dst)).mbLost = [] ∧ s.calm (stopCore m.dst) = true
    ∧ s.l2On (stopCore m.dst) = true ∧ (s.dc (stopCore m.dst / 20) m.la.toNat).isSome = true ∧ s.l2SetOf (stopCore m.dst)
    (m.la.toNat % 1024) = [] ∧ s.l2 (stopCore m.dst) m.la.toNat = none ∧ s.l2Blocked (stopCore m.dst) 0 = false :=
⟨dt 0, ms 0 0 0, arr (dt 0) (withD (cM (ms 0 0 0)) 1 0x40 (line false false false)), by decide +kernel⟩
theorem wit_AnswersEndRequests_2 : ∃ (m : Msg) (x : Miss) (s : State), s.mayArrive m = true ∧ isCoreStop m.dst = true ∧
    m.a.getLsbD 1 = false ∧ m.a.getLsbD 8 = true ∧ s.missOf (stopCore m.dst) m = some x ∧ (s.core (stopCore m.dst)).miss = [x]
    ∧ (s.core (stopCore m.dst)).mb = [] ∧ x.seen = [] ∧ x.kind = 0 ∧ x.size ≤ 3 ∧ x.addr % 64 + 2 ^ x.size ≤ 64 ∧ x.la =
    x.addr / 64 ∧ s.calm (stopCore m.dst) = true :=
⟨dt 0x100, ms 0 0 0, arr (dt 0x100) (cM (ms 0 0 0)), by decide +kernel⟩
theorem wit_AnswersEndRequests_3 : ∃ (m : Msg) (s : State), s.mayArrive m = true ∧ isCoreStop m.dst = true ∧ m.a.getLsbD 1 =
    false ∧ m.a.getLsbD 8 = false ∧ s.missOf (stopCore m.dst) m = none :=
⟨dt 0, arr (dt 0) (run 25), by decide +kernel⟩
theorem wit_AnswersEndRequests_4 : ∃ (m : Msg) (x : CLine) (s : State), s.mayArrive m = true ∧ m.a.getLsbD 1 = true ∧
    m.a.getLsbD 2 = true ∧ s.flag .DC_CTL_EN (instD (stopUnit m.dst) 0) = true ∧ s.dc (stopUnit m.dst) m.la.toNat = some x :=
⟨dt 0x206, line false false false, arr (dt 0x206) (withD mem 1 0x40 (line false false false)), by decide +kernel⟩
theorem wit_AnswersEndRequests_5 : ∃ (m : Msg) (s : State), s.mayArrive m = true ∧ m.a.getLsbD 1 = true ∧ m.a.getLsbD 2 = true
    ∧ s.flag .DC_CTL_EN (instD (stopUnit m.dst) 0) = false :=
⟨dt 6, arr (dt 6) (sets mem [(.DC_CTL_EN, instD 1 0, 0)]), by decide +kernel⟩
theorem wit_AnswersEndRequests_7 : ∃ (m : Msg) (x : Miss) (l y : CLine) (e : MbEnt) (es : List MbEnt) (s : State), s.mayArrive
    m = true ∧ s.missOf (stopCore m.dst) m = some x ∧ (s.core (stopCore m.dst)).miss = [x] ∧ x.seen = [] ∧ x.kind = 1 ∧ x.la =
    m.la.toNat ∧ (s.core (stopCore m.dst)).mb = e :: es ∧ e.la = m.la.toNat ∧ s.l2 (stopCore m.dst) m.la.toNat = some l ∧ s.dc
    (stopCore m.dst / 20) m.la.toNat = some y ∧ s.holders (stopCore m.dst / 20) m.la.toNat = [stopCore m.dst] ∧ s.l2On
    (stopCore m.dst) = true ∧ s.inGuarded (stopCore m.dst) = false ∧ (s.core (stopCore m.dst)).t.step = 0 :=
⟨msg .grant 0xC00 0x105 1 0x40 0, ms 1 0 0, line false false false, line false false false, mb40, [], arr (msg .grant 0xC00
    0x105 1 0x40 0) (withC (withD (withL (cM (ms 1 0 0)) 25 0x40 (line false false false)) 1 0x40 (line false false false)) 25
    fun c => { c with mb := [mb40] }), by decide +kernel⟩
theorem wit_AnswersEndRequests_8 : ∃ (m : Msg) (s : State), s.mayArrive m = true ∧ s.missOf (stopCore m.dst) m = none :=
⟨msg .grant 0xC00 0x105 1 0x40 0, arr (msg .grant 0xC00 0x105 1 0x40 0) (run 25), by decide +kernel⟩
theorem wit_AnswersEndRequests_9 : ∃ (m : Msg) (e : MbEnt) (es : List MbEnt) (s : State), s.mayArrive m = true ∧ isCoreStop
    m.dst = true ∧ (s.core (stopCore m.dst)).mb = e :: es ∧ e.sent = true ∧ e.la = m.la.toNat ∧ (s.core (stopCore
    m.dst)).t.step = 0 :=
⟨msg .completion 0xC00 0x105 5 0x40 0, mb40, [], arr (msg .completion 0xC00 0x105 5 0x40 0) (withC (run 25) 25 fun c =>
    { c with mb := [mb40] }), by decide +kernel⟩
theorem wit_AnswersEndRequests_10 : ∃ (m : Msg) (s : State), s.mayArrive m = true ∧ isCoreStop m.dst = true :=
⟨msg .completion 0xC00 0x105 6 0x40 0, arr (msg .completion 0xC00 0x105 6 0x40 0) (withT (run 25) 25 fun t =>
    { t with phaseA := [0x40, 0x40] }), by decide +kernel⟩
theorem wit_AnswersEndRequests_12 : ∃ (m : Msg) (x : Miss) (s : State), s.mayArrive m = true ∧ isCoreStop m.dst = true ∧
    s.missOf (stopCore m.dst) m = some x :=
⟨msg .nack 0xC00 0x105 0 0x40 0, ms 0 0 3, arr (msg .nack 0xC00 0x105 0 0x40 0) (cM (ms 0 0 3)), by decide +kernel⟩
theorem wit_AnswersEndRequests_13 : ∃ (m : Msg) (x : Miss) (s : State), isCoreStop m.src = true ∧ (s.core (stopCore
    m.src)).miss.find? (fun y => y.la == m.la.toNat && y.txid == m.txid.toNat && y.stage == 1) = some x ∧ (s.core (stopCore
    m.src)).miss = [x] ∧ x.sent + s.nackRetry ≤ s.now ∧ x.kind = 0 :=
⟨msg .readShared 0x105 0xC00 5 0x40 0, ms 0 1 4, sets (cM (ms 0 1 4)) [(.PT_NOW_TIME, 0, 100000)], by decide +kernel⟩
theorem wit_AnswersEndRequests_13b : ∃ (m : Msg) (x : Miss) (s : State), isCoreStop m.src = true ∧ (s.core (stopCore
    m.src)).miss.find? (fun y => y.la == m.la.toNat && y.txid == m.txid.toNat && y.stage == 1) = some x ∧ (s.core (stopCore
    m.src)).miss = [x] ∧ x.sent + s.nackRetry ≤ s.now ∧ x.kind = 0 :=
⟨msg .readShared 0x105 0xC00 5 0x40 0, ms 0 1 3, sets (cM (ms 0 1 3)) [(.PT_NOW_TIME, 0, 100000)], by decide +kernel⟩
theorem wit_AnswersEndRequests_14 : ∃ (m : Msg) (x : Miss) (s : State), isCoreStop m.src = true ∧ (s.core (stopCore
    m.src)).miss.find? (fun y => y.la == m.la.toNat && y.txid == m.txid.toNat && y.stage == 1) = some x ∧ s.now < x.sent +
    s.nackRetry :=
⟨msg .readShared 0x105 0xC00 5 0x40 0, ms 0 1 3, sets (cM (ms 0 1 3)) [(.PT_NOW_TIME, 0, 100), (.DIR_CTL_NACK_RETRY, 0, 100)],
    by decide +kernel⟩
theorem wit_AnswersEndRequests_15 : ∃ (m : Msg) (s : State), s.mayArrive m = true ∧ s.wbRoom m = true ∧ m.a.getLsbD 2 = false
    ∧ s.beyond m.la.toNat = false ∧ s.guardedCfg = false ∧ s.mcState (stopHalf m.dst * 8 + (stopNo m.dst - 16)) ≠ 3 ∧
    s.mcState (stopHalf m.dst * 8 + (stopNo m.dst - 16)) ≠ 5 :=
⟨msg .writeback 0x105 0xC17 0 0x40 0, arr (msg .writeback 0x105 0xC17 0 0x40 0) (sets mem [(.MC_STAT_STATE, instCh 7, 2)]), by
    decide +kernel⟩
theorem wit_AnswersEndRequests_16 : ∃ (m : Msg) (s : State), s.mayArrive m = true ∧ s.wbRoom m = true ∧ m.a.getLsbD 2 = true ∧
    s.beyond m.la.toNat = false ∧ s.mcState (stopHalf m.dst * 8 + (stopNo m.dst - 16)) ≠ 3 ∧ s.mcState (stopHalf m.dst * 8 +
    (stopNo m.dst - 16)) ≠ 5 :=
⟨msg .writeback 0x105 0xC17 4 0x40 0, arr (msg .writeback 0x105 0xC17 4 0x40 0) (sets mem [(.MC_STAT_STATE, instCh 7, 2)]), by
    decide +kernel⟩
theorem wit_AnswersEndRequests_6 : ∃ (a b c d : Msg) (s : State), (s.get .LK_STAT_FEATURES (instH (stopUnit a.src - 12)
    (stopUnit a.dst))).testBit 1 = true :=
⟨dt 0x206, dt 0x206, dt 0x206, dt 6, arr (dt 0x206) (sets mem [(.LK_STAT_FEATURES, instH 0 1, 2)]), by decide +kernel⟩
theorem wit_AnswersEndRequests_11 : ∃ (m : Msg) (s : State), s.mayArrive m = true :=
⟨msg .completion 0xC00 0x105 7 0x40 0, arr (msg .completion 0xC00 0x105 7 0x40 0) (run 25), by decide +kernel⟩

end AnswersEndRequests

namespace DirectoryRepairAndHubLoss

def gcf : State := sets mem [(.PKG_ID_GUARDED, 0, 1)]
def kb : State := withK mem 1 (trk 0x40 .wr (some (msg .write 0xC20 0xC00 0 0x40 0)) 0)
def la1 : Nat := 0x44
def rep (a : BitVec 12) (b : BitVec 18) : Msg := msg .censusReport 0xB16 0xC00 a 0x44 b
def ret : State := (sets gcf ((List.range 8).map fun ch => (.MC_STAT_STATE, instCh ch, 2))).setHalf 0 true true

theorem wit_DirectoryRepairAndHubLoss_1 : ∃ (h : Half) (b : Fin 16) (w : Fin 26) (s : State), s.columnFree h b w = false :=
⟨1, 0, 0, withE (withK mem 1 (trk 0 .wr (some (msg .write 0xC20 0xC00 0 0 0)) 0)) 1 0 (dEnt false 1 0), by decide +kernel⟩
theorem wit_DirectoryRepairAndHubLoss_2 : ∃ (h : Half) (b : Fin 16) (w : Fin 26) (s : State), s.columnFree h b w = true ∧
    (s.berm.wayRet.find? fun x => x.1 == 4 && x.2.1 == h.val * 512 + b.val * 32 + w.val) = none :=
⟨1, 15, 25, sets mem [(.DIR_BANK_SPARE, instH 1 15, 2)], by decide +kernel⟩
theorem wit_DirectoryRepairAndHubLoss_2b : ∃ (h : Half) (b : Fin 16) (w : Fin 26) (s : State), s.columnFree h b w = true ∧
    (s.berm.wayRet.find? fun x => x.1 == 4 && x.2.1 == h.val * 512 + b.val * 32 + w.val) = none :=
⟨0, 0, 0, mem, by decide +kernel⟩
theorem wit_DirectoryRepairAndHubLoss_3 : ∃ (h : Half) (la : LineAddr) (s : State), s.setLines h (dirBank la.toNat) (dirSet
    la.toNat) = [] :=
⟨0, 0x40, mem.updDir 0 fun d => { d with bcast := [(dirBank 0x40, dirSet 0x40)] }, by decide +kernel⟩
theorem wit_DirectoryRepairAndHubLoss_4 : ∃ (h : Half) (la : LineAddr) (d w : Nat) (s : State), s.setLines h (dirBank
    la.toNat) (dirSet la.toNat) = [(d, la.toNat)] ∧ s.mHolder d la.toNat = none ∧ (s.setDirEnt h la.toNat none).dirWay h
    la.toNat = some w :=
⟨0, 0x40, 1, 0, withD (withL mem 25 0x40 (line false false false)) 1 0x40 (line false false false), by decide +kernel⟩
theorem wit_DirectoryRepairAndHubLoss_5 : ∃ (h : Half) (b : Fin 16) (s : State), (∀ x ∈ (s.dir.get h).bcast, x.1 ≠ b.val) :=
⟨0, 3, mem, by decide +kernel⟩
theorem wit_DirectoryRepairAndHubLoss_6 : ∃ (h : Half) (b : Fin 16) (n : Nat) (s : State), (s.dir.get h).bcast = [(b.val, n)]
    ∧ s.setLines h b n = [] :=
⟨0, 3, 77, mem.updDir 0 fun d => { d with bcast := [(3, 77)] }, by decide +kernel⟩
theorem wit_DirectoryRepairAndHubLoss_7 : ∃ (h : Half) (s : State), s.lost h = false ∧ s.lost (1 - h.val) = false ∧
    s.halfReturning.get (1 - h.val) = false ∧ s.guardedCfg = true :=
⟨0, gcf, by decide +kernel⟩
theorem wit_DirectoryRepairAndHubLoss_8 : ∃ (h : Half) (s : State), s.lost h = false ∧ s.guardedCfg = false :=
⟨0, withD mem 1 0x40 (line false false false), by decide +kernel⟩
theorem wit_DirectoryRepairAndHubLoss_9 : ∃ (m : Msg) (s : State), s.mayArrive m = true ∧ (∀ x ∈ (s.die (stopUnit m.dst)).dc,
    homeHalf (x.1 * 64) ≠ m.a.toNat % 2) :=
⟨msg .census 0xD00 0xB16 0 0 0, arr (msg .census 0xD00 0xB16 0 0 0) (mem), by decide +kernel⟩
theorem wit_DirectoryRepairAndHubLoss_10 : ∃ (m : Msg) (la : Nat) (x : CLine) (s : State), s.mayArrive m = true ∧ s.dc
    (stopUnit m.dst) la = some x ∧ homeHalf (la * 64) = m.a.toNat % 2 :=
⟨msg .census 0xD00 0x116 0 0 0, 0x40, line false false false, arr (msg .census 0xD00 0x116 0 0 0) (withD (withL mem 25 0x40
    (line true true false)) 1 0x40 (line false false false)), by decide +kernel⟩
theorem wit_DirectoryRepairAndHubLoss_11 : ∃ (m : Msg) (w : Nat) (s : State), s.mayArrive m = true ∧ m.b.toNat % 2 = 0 ∧
    s.dirEnt (stopHalf m.dst) m.la.toNat = none ∧ s.dirWay (stopHalf m.dst) m.la.toNat = some w :=
⟨rep 1 0, 0, arr (rep 1 0) (mem), by decide +kernel⟩
theorem wit_DirectoryRepairAndHubLoss_11b : ∃ (m : Msg) (w : Nat) (s : State), s.mayArrive m = true ∧ m.b.toNat % 2 = 0 ∧
    s.dirEnt (stopHalf m.dst) m.la.toNat = none ∧ s.dirWay (stopHalf m.dst) m.la.toNat = some w :=
⟨rep 5 0, 0, arr (rep 5 0) (mem.updDir 0 fun d => { d with census := some [11] }), by decide +kernel⟩
theorem wit_DirectoryRepairAndHubLoss_13 : ∃ (h : Half) (s : State), (s.dir.get h).census = some [] ∧ (s.dir.get h).heldReqs =
    [] ∧ s.cenUnsettled h = false :=
⟨1, (sets mem [(.PT_NOW_TIME, 0, 5000000)]).updDir 1 fun d => { d with census := some [] }, by decide +kernel⟩
theorem wit_DirectoryRepairAndHubLoss_15 : ∃ (h : Half) (s : State), (s.dir.get h).census ≠ some [] :=
⟨1, mem, by decide +kernel⟩
theorem wit_DirectoryRepairAndHubLoss_16 : ∃ (h : Half) (b : Fin 16) (s : State), s.halfReturning.get h = true ∧ (∀ ch, ch < 8
    → s.mcState (h * 8 + ch) = 2) ∧ (∀ k ∈ s.bankTrks (1 - h.val) b, homeHalf (k.la * 64) ≠ h) ∧ (s.dir.get
    h).handBack.contains b.val = true ∧ (s.dir.get h).handBack.erase b.val ≠ [] :=
⟨0, 15, ret.updDir 0 fun d => { d with handBack := [14, 15] }, by decide +kernel⟩
theorem wit_DirectoryRepairAndHubLoss_17 : ∃ (h : Half) (b : Fin 16) (s : State), s.halfReturning.get h = true ∧ (∀ ch, ch < 8
    → s.mcState (h * 8 + ch) = 2) ∧ (∀ k ∈ s.bankTrks (1 - h.val) b, homeHalf (k.la * 64) ≠ h) ∧ (s.dir.get h).handBack =
    [b.val] :=
⟨0, 15, ret.updDir 0 fun d => { d with handBack := [15] }, by decide +kernel⟩
theorem wit_DirectoryRepairAndHubLoss_18 : ∃ (h : Half) (b : Fin 16) (s : State), s.halfReturning.get h = false :=
⟨0, 15, gcf, by decide +kernel⟩
theorem wit_DirectoryRepairAndHubLoss_20 : ∃ (s : State), s.flag .DIR_STAT_SPINE_DOWN (instH 0 0) = false :=
⟨upS, by decide +kernel⟩
theorem wit_DirectoryRepairAndHubLoss_21 : ∃ (s : State), s.flag .DIR_STAT_SPINE_DOWN (instH 0 0) = true :=
⟨sets upS [(.DIR_STAT_SPINE_DOWN, instH 0 0, 1), (.DIR_STAT_SPINE_DOWN, instH 1 0, 1)], by decide +kernel⟩
theorem wit_DirectoryRepairAndHubLoss_12 : ∃ (m : Msg) (s : State), s.mayArrive m = true ∧ m.b.toNat % 2 = 0 ∧ s.dirEnt
    (stopHalf m.dst) m.la.toNat = none ∧ s.dirWay (stopHalf m.dst) m.la.toNat = none ∧ m.a.getLsbD 1 = false :=
⟨rep 1 0, arr (rep 1 0) (withD (mem.updDir 0 fun d =>
    { d with retired := (List.range 26).map fun i => (dirBank 0x44, (i + 24) % 26) }) 11 0x44 (line false false false)), by
    decide +kernel⟩
theorem wit_DirectoryRepairAndHubLoss_14 : ∃ (m : Msg) (s : State), s.mayArrive m = true ∧ stopUnit m.dst < 12 ∧ isCoreStop
    m.dst = false ∧ s.tdOn (stopUnit m.dst) m.la.toNat = false :=
⟨msg .nack 0xC00 0x116 0 0x40 0, arr (msg .nack 0xC00 0x116 0 0x40 0) (withD (withL mem 25 0x40 (line true true false)) 1 0x40
    (line false false false)), by decide +kernel⟩

end DirectoryRepairAndHubLoss

namespace ChannelsServeRefreshAndRetrain

def rs : McSub → McSub := fun x => { x with reads := [rd0 .readShared], debt := [] }

theorem wit_ChannelsServeRefreshAndRetrain_1 : ∃ (ch : Fin 16) (sc : Fin 2) (c : Bool) (s : State), (s.sub ch sc).pausing =
    true :=
⟨15, 1, true, withS (chS 15 2) 15 1 fun x => { x with pausing := true }, by decide +kernel⟩
theorem wit_ChannelsServeRefreshAndRetrain_2 : ∃ (ch : Fin 16) (sc : Fin 2) (k : Nat) (c : Bool) (s : State), (s.sub ch
    sc).pausing = false ∧ (s.sub ch sc).forced = false ∧ s.mcState ch = 2 ∧ s.dueRefresh ch sc true = some k :=
⟨15, 1, 3, true, withS (chS 15 2) 15 1 fun x =>
    { x with debt := [(3, 4)], rows := [(3, some (1, 0, 0)), (12, some (5, 1, 0))] }, by decide +kernel⟩
theorem wit_ChannelsServeRefreshAndRetrain_2b : ∃ (ch : Fin 16) (sc : Fin 2) (k : Nat) (c : Bool) (s : State), (s.sub ch
    sc).pausing = false ∧ (s.sub ch sc).forced = false ∧ s.mcState ch = 2 ∧ s.dueRefresh ch sc true = some k :=
⟨0, 0, 0, true, withS (chS 0 2) 0 0 fun x =>
    { x with debt := [(0, 4), (2, 4)], rows := [(0, some (1, 0, 0)), (1, some (5, 1, 0))] }, by decide +kernel⟩
theorem wit_ChannelsServeRefreshAndRetrain_3 : ∃ (ch : Fin 16) (sc : Fin 2) (r : McRd) (c : Bool) (s : State), (s.sub ch
    sc).pausing = false ∧ (s.sub ch sc).wanted = none ∧ s.mcState ch = 2 ∧ s.dueRefresh ch sc true = none ∧ (s.mc ch).sppr =
    [] ∧ (s.sub ch sc).reads = [r] ∧ (s.sub ch sc).writes = [] ∧ 0 < s.get .MC_CTL_WQ_HI (instCh ch) ∧ r.bank < 128 ∧ Tbl.get
    none (s.sub ch sc).rows r.bank = none :=
⟨0, 1, rd0 .readShared, true, withS (sets (chS 0 2) [(.MC_CTL_WQ_HI, instCh 0, 48)]) 0 1 rs, by decide +kernel⟩
theorem wit_ChannelsServeRefreshAndRetrain_3b : ∃ (ch : Fin 16) (sc : Fin 2) (r : McRd) (c : Bool) (s : State), (s.sub ch
    sc).pausing = false ∧ (s.sub ch sc).wanted = none ∧ s.mcState ch = 2 ∧ s.dueRefresh ch sc true = none ∧ (s.mc ch).sppr =
    [] ∧ (s.sub ch sc).reads = [r] ∧ (s.sub ch sc).writes = [] ∧ 0 < s.get .MC_CTL_WQ_HI (instCh ch) ∧ r.bank < 128 ∧ Tbl.get
    none (s.sub ch sc).rows r.bank = none :=
⟨15, 0, rd0 .readShared, true, withS (sets (chS 15 2) [(.MC_CTL_WQ_HI, instCh 15, 1)]) 15 0 rs, by decide +kernel⟩
theorem wit_ChannelsServeRefreshAndRetrain_4 : ∃ (ch : Fin 16) (sc : Fin 2) (r : McRd) (streak at_ : Nat) (c : Bool) (s :
    State), (s.sub ch sc).pausing = false ∧ (s.sub ch sc).wanted = none ∧ s.mcState ch = 2 ∧ s.dueRefresh ch sc true = none ∧
    (s.mc ch).sppr = [] ∧ (s.sub ch sc).reads = [r] ∧ (s.sub ch sc).writes = [] ∧ 0 < s.get .MC_CTL_WQ_HI (instCh ch) ∧ r.bank
    < 128 ∧ Tbl.get none (s.sub ch sc).rows r.bank = some (r.row, streak, at_) ∧ r.msg.ty ≠ .placeWrite :=
⟨15, 1, rd0 .readShared, 16, 7, true, withS (chS 15 2) 15 1 fun x => { rs x with rows := [(127, some (0x1FFFF, 16, 7))] }, by
    decide +kernel⟩
theorem wit_ChannelsServeRefreshAndRetrain_4b : ∃ (ch : Fin 16) (sc : Fin 2) (r : McRd) (streak at_ : Nat) (c : Bool) (s :
    State), (s.sub ch sc).pausing = false ∧ (s.sub ch sc).wanted = none ∧ s.mcState ch = 2 ∧ s.dueRefresh ch sc true = none ∧
    (s.mc ch).sppr = [] ∧ (s.sub ch sc).reads = [r] ∧ (s.sub ch sc).writes = [] ∧ 0 < s.get .MC_CTL_WQ_HI (instCh ch) ∧ r.bank
    < 128 ∧ Tbl.get none (s.sub ch sc).rows r.bank = some (r.row, streak, at_) ∧ r.msg.ty ≠ .placeWrite :=
⟨0, 0, rd0 .readShared, 0, 0, true, withS (chS 0 2) 0 0 fun x => { rs x with rows := [(127, some (0x1FFFF, 0, 0))] }, by
    decide +kernel⟩
theorem wit_ChannelsServeRefreshAndRetrain_5 : ∃ (ch : Fin 16) (sc : Fin 2) (b : BankId) (row n at_ : Nat) (s : State),
    Tbl.get none (s.sub ch sc).rows (bankNo b) = some (row, n, at_) ∧ at_ + s.get .MC_CTL_PAGE_IDLE (instCh ch) ≤ s.now ∧
    (s.sub ch sc).reads = [] ∧ (s.sub ch sc).writes = [] :=
⟨15, 1, ⟨3, 7, 3⟩, 0x1FFFF, 0, 0, withS (sets (chS 15 2) [(.MC_CTL_PAGE_IDLE, instCh 15, 200), (.PT_NOW_TIME, 0, 200)]) 15 1
    fun x => { x with rows := [(127, some (0x1FFFF, 0, 0))] }, by decide +kernel⟩
theorem wit_ChannelsServeRefreshAndRetrain_6 : ∃ (ch : Fin 16) (sc : Fin 2) (b : BankId) (s : State), Tbl.get none (s.sub ch
    sc).rows (bankNo b) = none :=
⟨15, 1, ⟨3, 7, 3⟩, chS 15 2, by decide +kernel⟩
theorem wit_ChannelsServeRefreshAndRetrain_7 : ∃ (ch : Fin 16) (sc : Fin 2) (r : McRd) (s : State), (s.sub ch sc).reads = [r]
    ∧ (s.sub ch sc).writes = [] :=
⟨15, 1, rd0 .readShared, withS (sets (chS 15 2) [(.PT_NOW_TIME, 0, 400000)]) 15 1 rs, by decide +kernel⟩
theorem wit_ChannelsServeRefreshAndRetrain_8 : ∃ (ch : Fin 16) (sc : Fin 2) (rank set : Fin 4) (s : State), rank.val < 2 ^
    s.rb ∧ Tbl.get 0 (s.sub ch sc).debt (rank.val * 4 + set.val) < 4 :=
⟨15, 1, 0, 3, withS (sets (chS 15 2) [(.MC_REF_FORCED, instCh 15, 0xFFFFFFFF)]) 15 1 fun x => { x with debt := [(3, 3)] }, by
    decide +kernel⟩
theorem wit_ChannelsServeRefreshAndRetrain_8b : ∃ (ch : Fin 16) (sc : Fin 2) (rank set : Fin 4) (s : State), rank.val < 2 ^
    s.rb ∧ Tbl.get 0 (s.sub ch sc).debt (rank.val * 4 + set.val) < 4 :=
⟨0, 0, 0, 0, withS (chS 0 2) 0 0 fun x => { x with debt := [(0, -4)] }, by decide +kernel⟩
theorem wit_ChannelsServeRefreshAndRetrain_9 : ∃ (ch : Fin 16) (sc : Fin 2) (rank set : Fin 4) (s : State), Tbl.get 0 (s.sub
    ch sc).debt (rank.val * 4 + set.val) = 4 :=
⟨15, 1, 0, 3, withS (chS 15 2) 15 1 fun x => { x with debt := [(3, 4)] }, by decide +kernel⟩
theorem wit_ChannelsServeRefreshAndRetrain_11 : ∃ (ch : Fin 16) (sc : Fin 2) (drift : Nat) (s : State), drift < s.get
    .MC_RT_SOFT_PS (instCh ch) :=
⟨15, 1, 254, sets (chS 15 2) [(.MC_RT_SOFT_PS, instCh 15, 255)], by decide +kernel⟩
theorem wit_ChannelsServeRefreshAndRetrain_12 : ∃ (ch : Fin 16) (sc : Fin 2) (drift : Nat) (s : State), s.get .MC_RT_SOFT_PS
    (instCh ch) ≤ drift ∧ s.get .MC_RT_HARD_PS (instCh ch) ≤ drift ∧ (s.sub ch sc).forced = false :=
⟨15, 1, 300, sets (chS 15 2) [(.MC_RT_SOFT_PS, instCh 15, 255), (.MC_RT_HARD_PS, instCh 15, 15), (.MC_RTSTAT_FORCED, instCh
    15, 0xFFFF)], by decide +kernel⟩
theorem wit_ChannelsServeRefreshAndRetrain_13 : ∃ (ch : Fin 16) (sc : Fin 2) (drift : Nat) (s : State), s.get .MC_RT_SOFT_PS
    (instCh ch) ≤ drift ∧ drift < s.get .MC_RT_HARD_PS (instCh ch) ∧ (s.sub ch sc).wanted = none :=
⟨15, 1, 15, sets (chS 15 2) [(.MC_RT_SOFT_PS, instCh 15, 15), (.MC_RT_HARD_PS, instCh 15, 25), (.PT_NOW_TIME, 0, 99)], by
    decide +kernel⟩
theorem wit_ChannelsServeRefreshAndRetrain_14 : ∃ (ch : Fin 16) (sc : Fin 2) (at_ : Nat) (s : State), (s.sub ch sc).wanted =
    some at_ ∧ (s.sub ch sc).forced = false ∧ (s.sub ch sc).pausing = false ∧ (s.sub ch (1 - sc.val)).pausing = false ∧ (s.sub
    ch sc).reads = [] ∧ (s.sub ch sc).writes = [] ∧ at_ + s.get .MC_RT_RT_WAIT_US (instCh ch) * 1000 ≤ s.now :=
⟨15, 1, 0, withS (sets (chS 15 2) [(.PT_NOW_TIME, 0, 10000000), (.MC_RTSTAT_IDLE, instCh 15, 0xFFFF)]) 15 1 fun x =>
    { x with wanted := some 0 }, by decide +kernel⟩
theorem wit_ChannelsServeRefreshAndRetrain_15 : ∃ (ch : Fin 16) (sc : Fin 2) (s : State), (s.sub ch sc).wanted = none :=
⟨15, 1, chS 15 2, by decide +kernel⟩
theorem wit_ChannelsServeRefreshAndRetrain_16 : ∃ (ch : Fin 16) (sc : Fin 2) (s : State), (s.sub ch sc).pausing = true :=
⟨15, 1, withS (chS 15 2) 15 1 fun x => { x with pausing := true, forced := true, wanted := some 8 }, by decide +kernel⟩
theorem wit_ChannelsServeRefreshAndRetrain_17 : ∃ (ch : Fin 16) (sc : Fin 2) (s : State), (s.sub ch sc).pausing = true ∧
    s.mcState ch = 2 ∧ s.guardedCfg = true :=
⟨15, 1, withS (gd (chS 15 2)) 15 1 fun x => { x with pausing := true, forced := true, wanted := some 8 }, by decide +kernel⟩
theorem wit_ChannelsServeRefreshAndRetrain_17b : ∃ (ch : Fin 16) (sc : Fin 2) (s : State), (s.sub ch sc).pausing = true ∧
    s.mcState ch = 2 ∧ s.guardedCfg = true :=
⟨0, 0, withS (gd (chS 0 2)) 0 0 fun x => { x with pausing := true, forced := true, wanted := some 8 }, by decide +kernel⟩

end ChannelsServeRefreshAndRetrain

namespace ChannelLossAndRepair

def lm : Msg := msg .readShared 0x105 0xD17 5 0x40 7
def lr : McRd := ⟨lm, 127, 0x1FFFF, 0, 0, false⟩
def lrr : McRd := ⟨lm, 127, 0x1FFFF, 0, 0, true⟩
def rid : RowId := ⟨1, ⟨3, 7, 3⟩, 0x1FFFF⟩
def wr0 : McWr := ⟨0x40, 0, 0, 3, 0, 127, 0, 0, 0, false⟩

theorem wit_ChannelLossAndRepair_1 : ∃ (ch : Fin 16) (cause : Fin 4) (s : State), s.mcState ch = 2 ∧ s.guardedCfg = true :=
⟨15, 3, withS (gd (sets (chS 15 2) [(.MC_STAT_STATE, instCh 7, 2)])) 15 0 fun x => { x with reads := [lr] }, by
    decide +kernel⟩
theorem wit_ChannelLossAndRepair_1b : ∃ (ch : Fin 16) (cause : Fin 4) (s : State), s.mcState ch = 2 ∧ s.guardedCfg = true :=
⟨0, 0, withS (gd (chS 0 2)) 0 1 fun x => { x with reads := [lr] }, by decide +kernel⟩
theorem wit_ChannelLossAndRepair_2 : ∃ (ch : Fin 16) (cause : Fin 4) (p : Nat) (v : Polder) (s : State), s.mcState ch = 2 ∧
    s.guardedCfg = false ∧ p < 32 ∧ s.holdsNormal p = true ∧ s.polder p = some v ∧ v.stopped = 0 :=
⟨15, 3, 31, pold 7, (sets (chS 15 2) [(.TK_NOW_STATE, 31, 3)]).setPolder 31 (some (pold 7)), by decide +kernel⟩
theorem wit_ChannelLossAndRepair_3 : ∃ (ch : Fin 16) (cause : Fin 4) (s : State), ((s.mcState ch = 0 ∨ s.mcState ch = 3 ∨
    s.mcState ch = 5 ∨ s.mcState ch = 6)) :=
⟨15, 3, chS 15 3, by exact Or.inr (Or.inl (by decide +kernel))⟩
theorem wit_ChannelLossAndRepair_3b : ∃ (ch : Fin 16) (cause : Fin 4) (s : State), ((s.mcState ch = 0 ∨ s.mcState ch = 3 ∨
    s.mcState ch = 5 ∨ s.mcState ch = 6)) :=
⟨0, 0, chS 0 6, by exact Or.inr (Or.inr (Or.inr (by decide +kernel)))⟩
theorem wit_ChannelLossAndRepair_7 : ∃ (ch : Fin 16) (n : Nat) (s : State), s.mcState ch ≠ 4 :=
⟨15, 3, chS 15 2, by decide +kernel⟩
theorem wit_ChannelLossAndRepair_9 : ∃ (m : Msg) (sg mg : Bool) (s : State), (∀ r ∈ (s.sub ((stopUnit m.dst - 12) * 8 +
    (stopNo m.dst - 16)) (s.dSub m.la.toNat)).reads, r.msg ≠ m) :=
⟨lm, false, true, mem, by decide +kernel⟩
theorem wit_ChannelLossAndRepair_10 : ∃ (m : Msg) (r : McRd) (mg : Bool) (s : State), m.ty ≠ .placeWrite ∧ r.msg = m ∧ r ∈
    (s.sub ((stopUnit m.dst - 12) * 8 + (stopNo m.dst - 16)) (s.dSub m.la.toNat)).reads :=
⟨lm, lr, false, withS mem 15 0 fun x => { x with reads := [lr] }, by decide +kernel⟩
theorem wit_ChannelLossAndRepair_11 : ∃ (m : Msg) (r : McRd) (mg : Bool) (s : State), m.ty ≠ .placeWrite ∧ r.msg = m ∧
    s.guardedCfg = false ∧ r ∈ (s.sub ((stopUnit m.dst - 12) * 8 + (stopNo m.dst - 16)) (s.dSub m.la.toNat)).reads :=
⟨lm, lr, true, withS mem 15 0 fun x => { x with reads := [lr] }, by decide +kernel⟩
theorem wit_ChannelLossAndRepair_12 : ∃ (ch : Fin 16) (la : LineAddr) (s : State), s.flag .MC_SCRUB_EN (instCh ch) = true ∧
    s.mcState ch = 2 ∧ s.dCh la.toNat = ch % 8 ∧ s.beyond la.toNat = false ∧ ((s.guardedCfg = true ∨ homeHalf (la.toNat * 64)
    = ch / 8)) ∧ (∀ r ∈ (s.sub ch (s.dSub la.toNat)).reads, r.bank ≠ s.dBankNo la.toNat) ∧ (∀ w ∈ (s.sub ch (s.dSub
    la.toNat)).writes, w.bank ≠ s.dBankNo la.toNat) ∧ (s.poison.get (ch / 8)).contains la.toNat = false :=
⟨15, 0x7F, sets (gd (chS 15 2)) [(.MC_SCRUB_EN, instCh 15, 1), (.MC_ERR_CE, instCh 15, 0xFFFFFFFF)], by exact ⟨by
    decide +kernel, by decide +kernel, by decide +kernel, by decide +kernel, Or.inl (by decide +kernel), by decide +kernel, by
    decide +kernel, by decide +kernel⟩⟩
theorem wit_ChannelLossAndRepair_12b : ∃ (ch : Fin 16) (la : LineAddr) (s : State), s.flag .MC_SCRUB_EN (instCh ch) = true ∧
    s.mcState ch = 2 ∧ s.dCh la.toNat = ch % 8 ∧ s.beyond la.toNat = false ∧ ((s.guardedCfg = true ∨ homeHalf (la.toNat * 64)
    = ch / 8)) ∧ (∀ r ∈ (s.sub ch (s.dSub la.toNat)).reads, r.bank ≠ s.dBankNo la.toNat) ∧ (∀ w ∈ (s.sub ch (s.dSub
    la.toNat)).writes, w.bank ≠ s.dBankNo la.toNat) ∧ (s.poison.get (ch / 8)).contains la.toNat = false :=
⟨0, 0, sets (gd (chS 0 2)) [(.MC_SCRUB_EN, instCh 0, 1)], by exact ⟨by decide +kernel, by decide +kernel, by decide +kernel,
    by decide +kernel, Or.inl (by decide +kernel), by decide +kernel, by decide +kernel, by decide +kernel⟩⟩
theorem wit_ChannelLossAndRepair_13 : ∃ (ch : Fin 16) (la : LineAddr) (o : EccOutcome) (s : State), s.flag .MC_SCRUB_EN
    (instCh ch) = true ∧ s.mcState ch = 2 ∧ s.dCh la.toNat = ch % 8 ∧ s.beyond la.toNat = false ∧ ((s.guardedCfg = true ∨
    homeHalf (la.toNat * 64) = ch / 8)) ∧ (∀ r ∈ (s.sub ch (s.dSub la.toNat)).reads, r.bank ≠ s.dBankNo la.toNat) ∧ (∀ w ∈
    (s.sub ch (s.dSub la.toNat)).writes, w.bank ≠ s.dBankNo la.toNat) ∧ (s.poison.get (ch / 8)).contains la.toNat = true :=
⟨15, 0x7F, .uncorrectable, (sets (gd (chS 15 2)) [(.MC_SCRUB_EN, instCh 15, 1)]).setPoison 1 0x7F true, by exact ⟨by
    decide +kernel, by decide +kernel, by decide +kernel, by decide +kernel, Or.inl (by decide +kernel), by decide +kernel, by
    decide +kernel, by decide +kernel⟩⟩
theorem wit_ChannelLossAndRepair_14 : ∃ (ch : Fin 16) (la : LineAddr) (o : EccOutcome) (s : State), s.flag .MC_SCRUB_EN
    (instCh ch) = false :=
⟨15, 0x40, .uncorrectable, sets (chS 15 2) [(.MC_SCRUB_EN, instCh 15, 0)], by decide +kernel⟩
theorem wit_ChannelLossAndRepair_15 : ∃ (ch : Fin 16) (r : RowId) (at_ : Nat) (s : State), (s.mc ch).sppr = [(r, at_, false)]
    :=
⟨15, rid, 5, withM (sets (chS 15 2) [(.PT_NOW_TIME, 0, 100000005)]) 15 fun x => { x with sppr := [(rid, 5, false)] }, by
    decide +kernel⟩
theorem wit_ChannelLossAndRepair_15b : ∃ (ch : Fin 16) (r : RowId) (at_ : Nat) (s : State), (s.mc ch).sppr = [(r, at_, false)]
    :=
⟨15, rid, 5, withM (sets (chS 15 2) [(.PT_NOW_TIME, 0, 100000004)]) 15 fun x => { x with sppr := [(rid, 5, false)] }, by
    decide +kernel⟩
theorem wit_ChannelLossAndRepair_16 : ∃ (ch : Fin 16) (r : RowId) (at_ : Nat) (s : State), (s.mc ch).sppr = [(r, at_, true)]
    :=
⟨15, rid, 5, withM (sets (chS 15 2) [(.MC_ECC_SPPR_DONE, instCh 15, 255)]) 15 fun x => { x with sppr := [(rid, 5, true)] }, by
    decide +kernel⟩
theorem wit_ChannelLossAndRepair_17 : ∃ (ch : Fin 16) (r : RowId) (at_ : Nat) (s : State), (s.mc ch).sppr = [(r, at_, true)] ∧
    s.guardedCfg = true ∧ (s.mc ch).redirect.length < 64 :=
⟨15, rid, 5, withM (gd (chS 15 2)) 15 fun x => { x with sppr := [(rid, 5, true)], redirect := List.replicate 63 rid }, by
    decide +kernel⟩
theorem wit_ChannelLossAndRepair_18 : ∃ (ch : Fin 16) (row : RowId) (res : Bool) (s : State), (s.mc ch).sppr = [] :=
⟨15, rid, true, chS 15 2, by decide +kernel⟩
theorem wit_ChannelLossAndRepair_4 : ∃ (m : Msg) (w : McWr) (s : State), s.mayArrive m = true ∧ s.redirRoom m = true ∧ m.ty ≠
    .placeWrite ∧ s.mcState ((stopUnit m.dst - 12) * 8 + (stopNo m.dst - 16)) = 2 ∧ w.la = m.la.toNat ∧ w ∈ (s.sub ((stopUnit
    m.dst - 12) * 8 + (stopNo m.dst - 16)) (s.dSub m.la.toNat)).writes :=
⟨lm, wr0, arr lm (withS (chS 15 2) 15 0 fun x => { x with writes := [wr0] }), by decide +kernel⟩
theorem wit_ChannelLossAndRepair_5 : ∃ (m : Msg) (s : State), s.mayArrive m = true ∧ s.redirRoom m = true ∧ s.mcState
    ((stopUnit m.dst - 12) * 8 + (stopNo m.dst - 16)) = 2 ∧ (s.sub ((stopUnit m.dst - 12) * 8 + (stopNo m.dst - 16)) (s.dSub
    m.la.toNat)).writes = [] :=
⟨lm, arr lm (chS 15 2), by decide +kernel⟩
theorem wit_ChannelLossAndRepair_6 : ∃ (m : Msg) (s : State), s.redirRoom m = false :=
⟨lm, withS (chS 15 2) 15 0 fun x => { x with reads := List.replicate 32 lrr }, by decide +kernel⟩
theorem wit_ChannelLossAndRepair_8 : ∃ (ch : Fin 16) (n at_ : Nat) (s : State), s.mcState ch = 4 ∧ (s.mc ch).resync = some
    (at_, n) ∧ s.peerServes (ch.val / 8) (ch.val % 8) = true ∧ at_ + n * 81920 / max (s.get .MC_CTL_RESYNC_BW (instCh ch)) 1 ≤
    s.now :=
⟨15, 0, 7, withM (gd (sets (chS 15 4) [(.MC_STAT_STATE, instCh 7, 2), (.MEM_SIZE_BLOCKS, 0, 0), (.PT_NOW_TIME, 0, 7)])) 15 fun
    x => { x with resync := some (7, 0) }, by decide +kernel⟩
theorem wit_ChannelLossAndRepair_8b : ∃ (ch : Fin 16) (n at_ : Nat) (s : State), s.mcState ch = 4 ∧ (s.mc ch).resync = some
    (at_, n) ∧ s.peerServes (ch.val / 8) (ch.val % 8) = true ∧ at_ + n * 81920 / max (s.get .MC_CTL_RESYNC_BW (instCh ch)) 1 ≤
    s.now :=
⟨8, 5, 0, withM (gd (sets (chS 8 4) [(.MC_STAT_STATE, instCh 0, 2), (.PT_NOW_TIME, 0, 50000000)])) 8 fun x =>
    { x with resync := some (0, 5), waitMir := [⟨5126, 3, []⟩] }, by decide +kernel⟩

end ChannelLossAndRepair

namespace HeadPortsAndBindings

def hb (ma cl : Nat) : List Nat :=
  [ma + 15 * 256 + 3 * 4096, 0x1234, 5, 0, 64 + 256 * 2 ^ 32 + 2 ^ 48, 1000 + 1000 * 2 ^ 32, 0x1000, 16 + 4 * 2 ^ 16, 0x40,
    cl * 2 ^ 32, 0, 0, 0x100 + 7 * 2 ^ 32, 0, 0, 0]
def hx : Strm := newStrm 31 (hb 0 1000)
def pairB : List Nat := (hb 0 1000).set 0 (3 * 4096 + 7 * 256 + 15 * 2 ^ 16 + 2 * 2 ^ 20 + 2 ^ 22)
def hp : State := sets mem [(.HP_CFG_MODE, instPort 15, 3), (.HP_CFG_SUB_EN, instPort 15, 15)]
def hl : State := hp.put .HP_STAT_LINK (instPort 15) 15
def withH (s : State) (l : List Strm) : State := s.updIng fun g => { g with heads := l }
def hpol (s : State) : State := sets (s.setPolder 31 (some (pold 4))) [(.TK_CFG_WORD, 31 * 6 + 2, 1000)]
def hbc (n : Nat) : Cmd := ⟨.sideband, 0, entB 0x33 31 0 0 0 n 2, [], wordsLe (hb 0 1000)⟩
def an (f : Option (Fin 7)) : GvcpAnswer := ⟨0x1234, 5, 0x0A000001, f⟩
def frm (k : HeadKind) : HeadFrame := ⟨0, true, true, 9216, k⟩

theorem wit_HeadPortsAndBindings_1 : ∃ (p : Fin 16) (b : Fin 4) (s : State), s.subOn p b = true ∧ s.subLink p b = false :=
⟨15, 3, hp, by decide +kernel⟩
theorem wit_HeadPortsAndBindings_1b : ∃ (p : Fin 16) (b : Fin 4) (s : State), s.subOn p b = true ∧ s.subLink p b = false :=
⟨0, 0, sets mem [(.HP_CFG_MODE, 0, 1), (.HP_CFG_SUB_EN, 0, 1)], by decide +kernel⟩
theorem wit_HeadPortsAndBindings_2 : ∃ (p : Fin 16) (b : Fin 4) (s : State), s.subOn p b = false :=
⟨15, 3, sets hp [(.HP_CFG_MODE, instPort 15, 2)], by decide +kernel⟩
theorem wit_HeadPortsAndBindings_3 : ∃ (p : Fin 16) (b : Fin 4) (s : State), s.subLink p b = true ∧ s.ing.heads = [] :=
⟨15, 3, hl.put .HP_CNT_LINK_DOWN (instPort 15) 0xFFFF, by decide +kernel⟩
theorem wit_HeadPortsAndBindings_4 : ∃ (p : Fin 16) (b : Fin 4) (x : Strm) (s : State), s.subLink p b = true ∧ s.ing.heads =
    [x] ∧ x.portA = p ∧ x.subA = b ∧ x.paired = false ∧ x.present = true :=
⟨15, 3, { hx with a := 120, present := true }, withH hl [{ hx with a := 120, present := true }], by decide +kernel⟩
theorem wit_HeadPortsAndBindings_5 : ∃ (p : Fin 16) (b : Fin 4) (x : Strm) (s : State), s.subLink p b = true ∧ s.ing.heads =
    [x] ∧ x.portA = p ∧ x.subA = b ∧ (s.headLinks x).2 = true ∧ ((x.portB ≠ p ∨ x.subB ≠ b)) ∧ x.portB < 16 ∧ x.subB < 4 :=
⟨7, 3, { newStrm 31 pairB with a := 56, b := some 120, present := true }, withH (hl.put .HP_STAT_LINK (instPort 7) 8)
    [{ newStrm 31 pairB with a := 56, b := some 120, present := true }], by decide +kernel⟩
theorem wit_HeadPortsAndBindings_6 : ∃ (p : Fin 16) (b : Fin 4) (s : State), s.subOn p b = true ∧ s.subLink p b = true :=
⟨15, 3, hl, by decide +kernel⟩
theorem wit_HeadPortsAndBindings_7 : ∃ (p : Fin 16) (b : Fin 4) (s : State), s.subLink p b = false :=
⟨15, 3, hp, by decide +kernel⟩
theorem wit_HeadPortsAndBindings_8 : ∃ (p : Fin 16) (b : Fin 4) (n : GvcpAnswer) (s : State), s.subLink p b = true ∧
    (s.ing.heads.find? fun x => ansMatches x p b n) = none :=
⟨15, 3, an none, hl, by decide +kernel⟩
theorem wit_HeadPortsAndBindings_9 : ∃ (p : Fin 16) (b : Fin 4) (n : GvcpAnswer) (x : Strm) (s : State), s.subLink p b = true
    ∧ s.ing.heads = [x] ∧ ansMatches x p b n = true ∧ x.firstPort p b = true ∧ x.conf = false ∧ n.failStep = none ∧ n.ip.toNat
    / 2 ^ (32 - s.get .HP_ADDR_PREFIX (instSub p b)) = s.get .HP_ADDR_IPV4 (instSub p b) / 2 ^ (32 - s.get .HP_ADDR_PREFIX
    (instSub p b)) :=
⟨15, 3, an none, { hx with a := 120, hbMissed := 2 }, withH hl [{ hx with a := 120, hbMissed := 2 }], by decide +kernel⟩
theorem wit_HeadPortsAndBindings_10 : ∃ (p : Fin 16) (b : Fin 4) (n : GvcpAnswer) (x : Strm) (s : State), s.subLink p b = true
    ∧ s.ing.heads = [x] ∧ ansMatches x p b n = true ∧ x.conf = false ∧ n.failStep.isSome = true :=
⟨15, 3, an (some 6), hx, withH hl [hx], by decide +kernel⟩
theorem wit_HeadPortsAndBindings_11 : ∃ (n : Fin 128) (slave : Bool) (x : Strm) (s : State), s.strm n = some x ∧ x.conf = true
    :=
⟨127, false, { hx with a := 127, conf := true, hbMissed := 2 }, withH hl [{ hx with a := 127, conf := true, hbMissed := 2 }],
    by decide +kernel⟩
theorem wit_HeadPortsAndBindings_12 : ∃ (n : Fin 128) (slave : Bool) (x : Strm) (s : State), s.strm n = some x ∧ x.conf = true
    ∧ x.hbMissed = 2 ∧ x.present = true :=
⟨127, false, { hx with a := 127, conf := true, hbMissed := 2, present := true }, withH hl
    [{ hx with a := 127, conf := true, hbMissed := 2, present := true }], by decide +kernel⟩
theorem wit_HeadPortsAndBindings_13 : ∃ (n : Fin 128) (an slave : Bool) (s : State), s.strm n = none :=
⟨127, false, true, hl, by decide +kernel⟩
theorem wit_HeadPortsAndBindings_14 : ∃ (p : Fin 16) (b : Fin 4) (f : HeadFrame) (a : BitVec 32) (s : State), s.subLink p b =
    true ∧ f.fecOk = true ∧ f.fcsOk = true ∧ f.vid.toNat = s.get .HP_ADDR_VID (instSub p b) ∧ f.len ≤ 9216 ∧ f.kind = .arp a ∧
    a.toNat = s.get .HP_ADDR_IPV4 (instSub p b) :=
⟨15, 3, frm (.arp 0xFFFFFFFF), 0xFFFFFFFF, sets hl [(.HP_ADDR_IPV4, instSub 15 3, 0xFFFFFFFF)], by decide +kernel⟩
theorem wit_HeadPortsAndBindings_15 : ∃ (p : Fin 16) (b : Fin 4) (f : HeadFrame) (s : State), s.subLink p b = true ∧ f.fecOk =
    true ∧ f.fcsOk = true ∧ ((f.vid.toNat ≠ s.get .HP_ADDR_VID (instSub p b) ∨ 9216 < f.len ∨ f.kind = .fragment ∨ f.kind =
    .options ∨ f.kind = .other)) :=
⟨15, 3, frm .options, sets hl [(.HP_CNT_FOREIGN, instPort 15, 0xFFFFFFFF)], by exact ⟨by decide +kernel, by decide +kernel, by
    decide +kernel, Or.inr (Or.inr (Or.inr (Or.inl (by decide +kernel))))⟩⟩
theorem wit_HeadPortsAndBindings_15b : ∃ (p : Fin 16) (b : Fin 4) (f : HeadFrame) (s : State), s.subLink p b = true ∧ f.fecOk
    = true ∧ f.fcsOk = true ∧ ((f.vid.toNat ≠ s.get .HP_ADDR_VID (instSub p b) ∨ 9216 < f.len ∨ f.kind = .fragment ∨ f.kind =
    .options ∨ f.kind = .other)) :=
⟨15, 3, { frm (.arp 0) with len := 9217 }, hl, by exact ⟨by decide +kernel, by decide +kernel, by decide +kernel, Or.inr
    (Or.inl (by decide +kernel))⟩⟩
theorem wit_HeadPortsAndBindings_15c : ∃ (p : Fin 16) (b : Fin 4) (f : HeadFrame) (s : State), s.subLink p b = true ∧ f.fecOk
    = true ∧ f.fcsOk = true ∧ ((f.vid.toNat ≠ s.get .HP_ADDR_VID (instSub p b) ∨ 9216 < f.len ∨ f.kind = .fragment ∨ f.kind =
    .options ∨ f.kind = .other)) :=
⟨15, 3, { frm (.arp 0) with vid := 4095 }, hl, by exact ⟨by decide +kernel, by decide +kernel, by decide +kernel, Or.inl (by
    decide +kernel)⟩⟩
theorem wit_HeadPortsAndBindings_16 : ∃ (p : Fin 16) (b : Fin 4) (d : BitVec 8) (w : Word) (s : State), s.subOn p b = true ∧
    s.subLink p b = true ∧ s.isSlave p b = false ∧ d.toNat = s.get .PTP_CFG_DOMAIN 0 :=
⟨15, 3, 255, 5, sets hl [(.PTP_CFG_DOMAIN, 0, 255), (.PTP_EPOCH_OFFSET, 0, 2 ^ 64 - 3), (.PT_NOW_TIME, 0, 1)], by
    decide +kernel⟩
theorem wit_HeadPortsAndBindings_17 : ∃ (p : Fin 16) (b : Fin 4) (x : Bool) (d : BitVec 8) (w : Word) (s : State), s.isSlave p
    b = false :=
⟨15, 3, true, 5, 5, hl, by decide +kernel⟩
theorem wit_HeadPortsAndBindings_20 : ∃ (p : Fin 16) (b : Fin 4) (s : State), s.subOn p b = true ∧ s.subLink p b = true ∧
    s.isSlave p b = false :=
⟨15, 3, sets hl [(.PTP_CFG_ONE_STEP, 0, 1)], by decide +kernel⟩
theorem wit_HeadPortsAndBindings_20b : ∃ (p : Fin 16) (b : Fin 4) (s : State), s.subOn p b = true ∧ s.subLink p b = true ∧
    s.isSlave p b = false :=
⟨15, 3, sets hl [(.PTP_CFG_ONE_STEP, 0, 0)], by decide +kernel⟩
theorem wit_HeadPortsAndBindings_21 : ∃ (p : Fin 16) (b : Fin 4) (s : State), s.isSlave p b = true :=
⟨15, 3, (sets hl [(.PTP_CFG_SLAVE_EN, 0, 1), (.PTP_CFG_SLAVE, 0, 63)]).updIng fun g => { g with slaved := true }, by
    decide +kernel⟩
theorem wit_HeadPortsAndBindings_22 : ∃ (c : Cmd) (a : Nat) (s : State), s.passes specHeadBind c = true ∧ s.bufLen c = 128 ∧
    s.cp.blockFailed = false ∧ s.headOk c.e.polder (newStrm c.e.polder ((List.range 16).map (s.bufWord c))) = true ∧
    s.ing.heads = [] ∧ s.guardedCfg = false ∧ s.freeStream (newStrm c.e.polder ((List.range 16).map (s.bufWord c))).portA =
    some a :=
⟨hbc 128, 120, hpol hp, by decide +kernel⟩
theorem wit_HeadPortsAndBindings_23 : ∃ (c : Cmd) (s : State), s.passes specHeadBind c = true ∧ s.bufLen c ≠ 128 :=
⟨hbc 120, hpol hp, by decide +kernel⟩
theorem wit_HeadPortsAndBindings_24 : ∃ (c : Cmd) (x : Strm) (s : State), s.passes specHeadUnbind c = true ∧ s.strm (bitsOf
    c.e.p0 6 0) = some x :=
⟨sbc 0x34 0 120 0, { hx with a := 120 }, withH hp [{ hx with a := 120 }], by decide +kernel⟩
theorem wit_HeadPortsAndBindings_25 : ∃ (c : Cmd) (s : State), s.passes specSetHp c = true ∧ s.srcSecure c.src = true ∧ bitsOf
    c.e.p0 15 0 - 0x400 < 16 ∧ hpCfgOk c.e.p1 = true ∧ (∃ x ∈ s.ing.heads, x.portA = bitsOf c.e.p0 15 0 - 0x400) :=
⟨sbc 0x03 0 0x40F 0, withH hp [{ hx with a := 120 }], by exact ⟨by decide +kernel, by decide +kernel, by decide +kernel, by
    decide +kernel, { hx with a := 120 }, by decide +kernel, by decide +kernel⟩⟩
theorem wit_HeadPortsAndBindings_26 : ∃ (c : Cmd) (s : State), s.passes specSetHp c = true ∧ s.srcSecure c.src = true ∧ bitsOf
    c.e.p0 15 0 - 0x400 < 16 ∧ hpCfgOk c.e.p1 = true ∧ s.ing.heads = [] ∧ s.get .HP_STAT_LINK (instPort (bitsOf c.e.p0 15 0 -
    0x400)) < 16 :=
⟨sbc 0x03 0 0x40F 0xF03, hl, by decide +kernel⟩
theorem wit_HeadPortsAndBindings_26b : ∃ (c : Cmd) (s : State), s.passes specSetHp c = true ∧ s.srcSecure c.src = true ∧
    bitsOf c.e.p0 15 0 - 0x400 < 16 ∧ hpCfgOk c.e.p1 = true ∧ s.ing.heads = [] ∧ s.get .HP_STAT_LINK (instPort (bitsOf c.e.p0
    15 0 - 0x400)) < 16 :=
⟨sbc 0x03 0 0x400 0, hl, by decide +kernel⟩
theorem wit_HeadPortsAndBindings_18 : ∃ (p : Fin 16) (b : Fin 4) (k : PtpKind) (d : BitVec 8) (w : Word) (s : State), d.toNat
    ≠ s.get .PTP_CFG_DOMAIN 0 :=
⟨15, 3, .announce, 5, 5, hl, by decide +kernel⟩
theorem wit_HeadPortsAndBindings_19 : ∃ (p : Fin 16) (b : Fin 4) (d : BitVec 8) (w : Word) (s : State), s.subOn p b = true ∧
    s.subLink p b = true ∧ s.isSlave p b = true ∧ d.toNat = s.get .PTP_CFG_DOMAIN 0 :=
⟨15, 3, 0, 5, (sets hl [(.PTP_CFG_SLAVE_EN, 0, 1), (.PTP_CFG_SLAVE, 0, 63), (.PT_NOW_TIME, 0, 77)]).updIng fun g =>
    { g with slaved := true }, by decide +kernel⟩

end HeadPortsAndBindings

namespace LinesSlotsAndCuts

def lw (bl cl : Nat) : List Nat :=
  [15 * 256 + 3 * 4096, 0x1234, 5, 0, 256 + 256 * 2 ^ 32 + bl * 2 ^ 48, 1000 + cl * 2 ^ 32, 0x1000, 16 + 4 * 2 ^ 16, 0x40,
    1000 * 2 ^ 32, 0, 0, 0, 0, 0, 0]
def x0 : Strm := { newStrm 31 (lw 1 1000) with a := 127, lead := 1, conf := true, present := true, ever := true, ip := 9 }
def x5 : Strm := { x0 with words := lw 5 1000 }
def xs (x : Strm) : State := ((sets mem [(.HP_STAT_LINK, instPort 15, 8)]).setPolder 31 (some (pold 4))).updIng fun g => { g with heads := [x] }
def at_ (x : Strm) (n : Nat) : State := (xs x).put .PT_NOW_TIME 0 n
def pk (b : Word) (i : BitVec 32) (k : GvspKind) : GvspPacket := ⟨9, b, i, k⟩
def d256 : List Byte := List.replicate 256 0xA5
def r0 : SlotRec := ⟨0xFFFFFFFF, 77, 1999, 3, 0, 1, 0, 0, 3000⟩
def edge (s : State) (k e : Nat) : State := s.updCtx 31 fun c => { c with edges := [(k, e)] }
def ct (k : Nat) (w : Bool) : Cut := ⟨k, 0, 8, [], w⟩
def sec31 : Acc := ⟨0, true, .hubAgent 0⟩
def ns3 : Acc := ⟨3, false, .hubAgent 0⟩

theorem wit_LinesSlotsAndCuts_1 : ∃ (p : Fin 16) (q : Fin 8) (k : GvspPacket) (s : State), s.strm (p.val * 8 + q.val) = none
    :=
⟨15, 7, pk 0 0 .trailer, sets mem [(.HP_CNT_FOREIGN, instPort 15, 0xFFFFFFFF)], by decide +kernel⟩
theorem wit_LinesSlotsAndCuts_2 : ∃ (p : Fin 16) (q : Fin 8) (k : GvspPacket) (x : Strm) (s : State), s.strm (p.val * 8 +
    q.val) = some x ∧ x.a = p.val * 8 + q.val ∧ s.subLink p x.subA = true ∧ k.ip.toNat ≠ x.ip :=
⟨15, 7, { pk 0 0 .trailer with ip := 8 }, x0, xs x0, by decide +kernel⟩
theorem wit_LinesSlotsAndCuts_3 : ∃ (p : Fin 16) (q : Fin 8) (k : GvspPacket) (x : Strm) (s : State), s.strm (p.val * 8 +
    q.val) = some x ∧ x.a = p.val * 8 + q.val ∧ s.subLink p x.subA = true ∧ k.ip.toNat = x.ip ∧ x.conf = true ∧ k.kind =
    .foreign :=
⟨15, 7, pk 0 0 .foreign, x0, (xs x0).put .STR_CNT1_FOREIGN_PKT (instStr 127) 0xFFFF, by decide +kernel⟩
theorem wit_LinesSlotsAndCuts_4 : ∃ (p : Fin 16) (q : Fin 8) (k : GvspPacket) (x : Strm) (d : List Byte) (s : State), s.strm
    (p.val * 8 + q.val) = some x ∧ x.a = p.val * 8 + q.val ∧ s.subLink p x.subA = true ∧ k.ip.toNat = x.ip ∧ x.conf = true ∧
    x.present = true ∧ k.kind = .payload d ∧ k.pid.toNat ≤ x.nPkt ∧ x.run = some (k.block.toNat, 0) ∧ x.lastBlock =
    k.block.toNat ∧ (∃ g ∈ x.got, g.pos = k.pid.toNat) :=
⟨15, 7, pk 3 1 (.payload d256), { x5 with run := some (3, 0), lastBlock := 3, got := [⟨1, [], 0, 2⟩] }, d256, xs
    { x5 with run := some (3, 0), lastBlock := 3, got := [⟨1, [], 0, 2⟩] }, by decide +kernel⟩
theorem wit_LinesSlotsAndCuts_4b : ∃ (p : Fin 16) (q : Fin 8) (k : GvspPacket) (x : Strm) (d : List Byte) (s : State), s.strm
    (p.val * 8 + q.val) = some x ∧ x.a = p.val * 8 + q.val ∧ s.subLink p x.subA = true ∧ k.ip.toNat = x.ip ∧ x.conf = true ∧
    x.present = true ∧ k.kind = .payload d ∧ k.pid.toNat ≤ x.nPkt ∧ x.run = some (k.block.toNat, 0) ∧ x.lastBlock =
    k.block.toNat ∧ (∃ g ∈ x.got, g.pos = k.pid.toNat) :=
⟨15, 7, pk 3 0 (.payload d256), { x5 with run := some (3, 0), lastBlock := 3, got := [⟨0, [], 0, 2⟩] }, d256, xs
    { x5 with run := some (3, 0), lastBlock := 3, got := [⟨0, [], 0, 2⟩] }, by decide +kernel⟩
theorem wit_LinesSlotsAndCuts_4c : ∃ (p : Fin 16) (q : Fin 8) (k : GvspPacket) (x : Strm) (d : List Byte) (s : State), s.strm
    (p.val * 8 + q.val) = some x ∧ x.a = p.val * 8 + q.val ∧ s.subLink p x.subA = true ∧ k.ip.toNat = x.ip ∧ x.conf = true ∧
    x.present = true ∧ k.kind = .payload d ∧ k.pid.toNat ≤ x.nPkt ∧ x.run = some (k.block.toNat, 0) ∧ x.lastBlock =
    k.block.toNat ∧ (∃ g ∈ x.got, g.pos = k.pid.toNat) :=
⟨15, 7, pk 3 5 (.payload d256), { x5 with run := some (3, 0), lastBlock := 3, got := [⟨5, [], 0, 2⟩], lo := 2 }, d256, xs
    { x5 with run := some (3, 0), lastBlock := 3, got := [⟨5, [], 0, 2⟩], lo := 2 }, by decide +kernel⟩
theorem wit_LinesSlotsAndCuts_5 : ∃ (p : Fin 16) (q : Fin 8) (k : GvspPacket) (x : Strm) (d : List Byte) (s : State), s.strm
    (p.val * 8 + q.val) = some x ∧ x.a = p.val * 8 + q.val ∧ s.subLink p x.subA = true ∧ k.ip.toNat = x.ip ∧ x.conf = true ∧
    x.present = true ∧ k.kind = .payload d ∧ k.pid.toNat = 2 ∧ 2 ≤ x.nPkt ∧ x.run = some (k.block.toNat, 0) ∧ x.lastBlock =
    k.block.toNat ∧ x.got = [] ∧ x.lo = 0 ∧ x.line = 0 :=
⟨15, 7, pk (2 ^ 64 - 1) 2 (.payload d256), { x5 with run := some (2 ^ 64 - 1, 0), lastBlock := 2 ^ 64 - 1 }, d256, at_
    { x5 with run := some (2 ^ 64 - 1, 0), lastBlock := 2 ^ 64 - 1 } 50, by decide +kernel⟩
theorem wit_LinesSlotsAndCuts_6 : ∃ (p : Fin 16) (q : Fin 8) (k : GvspPacket) (x : Strm) (g : IngPkt) (d : List Byte) (ts n :
    Nat) (s : State), s.strm (p.val * 8 + q.val) = some x ∧ x.a = p.val * 8 + q.val ∧ s.subLink p x.subA = true ∧ k.ip.toNat =
    x.ip ∧ x.conf = true ∧ x.present = true ∧ k.kind = .payload d ∧ k.pid.toNat = 1 ∧ x.run = some (k.block.toNat, n) ∧
    x.lastBlock = k.block.toNat ∧ x.got = [g] ∧ g.pos = 0 ∧ x.lo = 1 ∧ x.line = 0 ∧ x.stamps = [(0, ts)] ∧ x.blockLines = 1 ∧
    x.lineBytes = x.pktBytes ∧ 0 < x.pktBytes ∧ d.length = x.pktBytes ∧ s.lost x.lead = false ∧ x.dropCount = 0 ∧ x.ringFull =
    false ∧ x.restart = false ∧ x.unsync = false :=
⟨15, 7, pk 3 1 (.payload d256),
    { x0 with run := some (3, 40), lastBlock := 3, got := [⟨0, [], 0, 2⟩], lo := 1, stamps := [(0, 500)] }, ⟨0, [], 0, 2⟩,
    d256, 500, 40, xs { x0 with run := some (3, 40), lastBlock := 3, got := [⟨0, [], 0, 2⟩], lo := 1, stamps := [(0, 500)] },
    by decide +kernel⟩
theorem wit_LinesSlotsAndCuts_6b : ∃ (p : Fin 16) (q : Fin 8) (k : GvspPacket) (x : Strm) (g : IngPkt) (d : List Byte) (ts n :
    Nat) (s : State), s.strm (p.val * 8 + q.val) = some x ∧ x.a = p.val * 8 + q.val ∧ s.subLink p x.subA = true ∧ k.ip.toNat =
    x.ip ∧ x.conf = true ∧ x.present = true ∧ k.kind = .payload d ∧ k.pid.toNat = 1 ∧ x.run = some (k.block.toNat, n) ∧
    x.lastBlock = k.block.toNat ∧ x.got = [g] ∧ g.pos = 0 ∧ x.lo = 1 ∧ x.line = 0 ∧ x.stamps = [(0, ts)] ∧ x.blockLines = 1 ∧
    x.lineBytes = x.pktBytes ∧ 0 < x.pktBytes ∧ d.length = x.pktBytes ∧ s.lost x.lead = false ∧ x.dropCount = 0 ∧ x.ringFull =
    false ∧ x.restart = false ∧ x.unsync = false :=
⟨15, 7, pk 3 1 (.payload d256),
    { x0 with run := some (3, 40), lastBlock := 3, got := [⟨0, [], 0, 2⟩], lo := 1, stamps := [(0, 500)] }, ⟨0, [], 0, 2⟩,
    d256, 500, 40, (xs
    { x0 with run := some (3, 40), lastBlock := 3, got := [⟨0, [], 0, 2⟩], lo := 1, stamps := [(0, 500)] }).put
    .PTP_EPOCH_OFFSET 0 700, by decide +kernel⟩
theorem wit_LinesSlotsAndCuts_7 : ∃ (n : Fin 128) (x : Strm) (s : State), s.strm n = some x ∧ (∀ g ∈ x.got, s.now < g.at_ +
    x.reorderNs) :=
⟨127, { x5 with got := [⟨5, [], 6, 2⟩] }, at_ { x5 with got := [⟨5, [], 6, 2⟩] } 1005, by decide +kernel⟩
theorem wit_LinesSlotsAndCuts_8 : ∃ (n : Fin 128) (x : Strm) (g : IngPkt) (s : State), s.strm n = some x ∧ x.a = n ∧ x.got =
    [g] ∧ g.pos = 2 ∧ x.lo = 0 ∧ g.at_ + x.reorderNs ≤ s.now ∧ x.line = 0 ∧ 4 ≤ x.nPkt ∧ (∃ p ∈ x.linePos 0, 3 < p) :=
⟨127, { x5 with got := [⟨2, d256, 6, 2⟩], words := (lw 5 1000).set 4 (1024 + 256 * 2 ^ 32 + 2 * 2 ^ 48) }, ⟨2, d256, 6, 2⟩,
    at_ { x5 with got := [⟨2, d256, 6, 2⟩], words := (lw 5 1000).set 4 (1024 + 256 * 2 ^ 32 + 2 * 2 ^ 48) } 1006, by
    decide +kernel⟩
theorem wit_LinesSlotsAndCuts_8b : ∃ (n : Fin 128) (x : Strm) (g : IngPkt) (s : State), s.strm n = some x ∧ x.a = n ∧ x.got =
    [g] ∧ g.pos = 2 ∧ x.lo = 0 ∧ g.at_ + x.reorderNs ≤ s.now ∧ x.line = 0 ∧ 4 ≤ x.nPkt ∧ (∃ p ∈ x.linePos 0, 3 < p) :=
⟨127, { x5 with got := [⟨2, d256, 6, 2⟩], run := some (3, 0), words := (lw 5 1000).set 4 (1024 + 256 * 2 ^ 32 + 2 * 2 ^ 48) },
    ⟨2, d256, 6, 2⟩, at_
    { x5 with got := [⟨2, d256, 6, 2⟩], run := some (3, 0), words := (lw 5 1000).set 4 (1024 + 256 * 2 ^ 32 + 2 * 2 ^ 48) }
    1006, by decide +kernel⟩
theorem wit_LinesSlotsAndCuts_9 : ∃ (n : Fin 128) (x : Strm) (s : State), s.strm n = some x ∧ x.slots = [] :=
⟨127, x0, xs x0, by decide +kernel⟩
theorem wit_LinesSlotsAndCuts_10 : ∃ (n : Fin 128) (x : Strm) (r : SlotRec) (l : List SlotRec) (k e c : Nat) (s : State),
    s.strm n = some x ∧ x.a = n ∧ s.lost x.lead = false ∧ x.slots = r :: l ∧ x.lastCut = some (k, e, c) ∧ r.stamp < e ∧
    r.flags = 0 :=
⟨127, { x0 with slots := [r0], lastCut := some (5, 2000, 3000) }, r0, [], 5, 2000, 3000, xs
    { x0 with slots := [r0], lastCut := some (5, 2000, 3000) }, by decide +kernel⟩
theorem wit_LinesSlotsAndCuts_11 : ∃ (n : Fin 128) (x : Strm) (r : SlotRec) (l : List SlotRec) (s : State), s.strm n = some x
    ∧ x.a = n ∧ s.lost x.lead = false ∧ x.slots = r :: l ∧ x.lastCut = none ∧ x.placeMode = 0 ∧ s.rgnCheck x.pol (s.polSecure
    x.pol) true (x.slotAddr r.no) = none :=
⟨127, { x0 with slots := [r0, r0] }, r0, [r0], xs { x0 with slots := [r0, r0] }, by decide +kernel⟩
theorem wit_LinesSlotsAndCuts_12 : ∃ (n : Fin 128) (x : Strm) (k e : Nat) (s : State), s.strm n = some x ∧ s.nextEdge x = some
    (k, e) ∧ s.now < e + x.cutLag :=
⟨127, x0, 5, 2000, edge (at_ x0 2999) 5 2000, by decide +kernel⟩
theorem wit_LinesSlotsAndCuts_13 : ∃ (n : Fin 128) (x : Strm) (r : SlotRec) (k e : Nat) (s : State), s.strm n = some x ∧ x.a =
    n ∧ s.nextEdge x = some (k, e) ∧ e + x.cutLag ≤ s.now ∧ s.lost x.lead = false ∧ x.run = none ∧ x.slots = [] ∧ x.cuts = []
    ∧ x.acc = [r] ∧ r.stamp < e ∧ r.accAt ≤ e + x.cutLag :=
⟨127, { x0 with acc := [r0] }, r0, 5, 2000, edge (at_ { x0 with acc := [r0] } 3000) 5 2000, by decide +kernel⟩
theorem wit_LinesSlotsAndCuts_13b : ∃ (n : Fin 128) (x : Strm) (r : SlotRec) (k e : Nat) (s : State), s.strm n = some x ∧ x.a
    = n ∧ s.nextEdge x = some (k, e) ∧ e + x.cutLag ≤ s.now ∧ s.lost x.lead = false ∧ x.run = none ∧ x.slots = [] ∧ x.cuts =
    [] ∧ x.acc = [r] ∧ r.stamp < e ∧ r.accAt ≤ e + x.cutLag :=
⟨127, { x0 with acc := [r0] }, r0, 5, 2000, edge (at_ { x0 with acc := [r0] } 300000) 5 2000, by decide +kernel⟩
theorem wit_LinesSlotsAndCuts_14 : ∃ (n : Fin 128) (x : Strm) (s : State), s.strm n = some x ∧ (∀ c ∈ x.cuts, c.written =
    true) :=
⟨127, { x0 with cuts := [ct 4 true] }, xs { x0 with cuts := [ct 4 true] }, by decide +kernel⟩
theorem wit_LinesSlotsAndCuts_15 : ∃ (n : Fin 128) (x : Strm) (c : Cut) (s : State), s.strm n = some x ∧ x.a = n ∧ x.cuts =
    [c] ∧ c.written = false ∧ s.lost x.lead = false :=
⟨127, { x0 with cuts := [ct 4 false] }, ct 4 false, xs { x0 with cuts := [ct 4 false] }, by decide +kernel⟩
theorem wit_LinesSlotsAndCuts_16 : ∃ (n : Fin 128) (x : Strm) (c : Cut) (s : State), s.strm n = some x ∧ x.a = n ∧ x.cuts =
    [c] ∧ c.written = true ∧ c.tick ≤ x.released ∧ s.tickClosed x.pol c.tick = true ∧ x.dropCount = 0 :=
⟨127, { x0 with cuts := [ct 4 true], released := 4 }, ct 4 true, xs { x0 with cuts := [ct 4 true], released := 4 }, by
    decide +kernel⟩
theorem wit_LinesSlotsAndCuts_17 : ∃ (n : Fin 128) (x : Strm) (c : Cut) (s : State), s.strm n = some x ∧ x.a = n ∧ x.cuts =
    [c] ∧ ((x.released < c.tick ∨ s.tickClosed x.pol c.tick = false)) ∧ x.dropCount = 0 :=
⟨127, { x0 with cuts := [ct 4 true], released := 3 }, ct 4 true, xs { x0 with cuts := [ct 4 true], released := 3 }, by
    decide +kernel⟩
theorem wit_LinesSlotsAndCuts_18 : ∃ (a : Acc) (p : Pol) (n : Fin 128) (v : Word) (x : Strm) (k : Nat) (s : State), a.sec =
    true ∧ s.strm n = some x ∧ x.a = n ∧ x.pol = p ∧ x.published = some k ∧ x.released ≤ min (v.toNat % 2 ^ 48) k :=
⟨sec31, 31, 127, 0xFFFFFFFFFFFFFFFF, { x0 with cuts := [ct 4 true, ct 5 true], released := 3 }, 5, xs
    { x0 with cuts := [ct 4 true, ct 5 true], released := 3 }, by decide +kernel⟩
theorem wit_LinesSlotsAndCuts_19 : ∃ (a : Acc) (p : Pol) (n : Fin 128) (v : Word) (s : State), a.sec = true ∧ (∀ x, s.strm n =
    some x → x.pol ≠ p) :=
⟨sec31, 30, 127, 3, xs x0, by exact ⟨by decide +kernel, by intro x h; cases h; decide +kernel⟩⟩
theorem wit_LinesSlotsAndCuts_20 : ∃ (a : Acc) (p : Pol) (n : Fin 128) (v : Word) (s : State), a.sec = false ∧ a.pol ≠ p :=
⟨ns3, 31, 127, 3, (xs x0).put .RGN_VIOL_COUNT (instH 0 0) (2 ^ 48 - 1), by decide +kernel⟩
theorem wit_LinesSlotsAndCuts_21 : ∃ (a : Acc) (p : Pol) (v : Word) (x : Strm) (k : Nat) (s : State), a.sec = true ∧
    s.ing.heads = [x] ∧ x.pol = p ∧ x.published = some k ∧ x.released ≤ min (v.toNat % 2 ^ 48) k :=
⟨sec31, 31, 3, { x0 with cuts := [ct 4 true, ct 5 true], released := 3 }, 5, xs
    { x0 with cuts := [ct 4 true, ct 5 true], released := 3 }, by decide +kernel⟩
theorem wit_LinesSlotsAndCuts_22 : ∃ (n : Fin 128) (x : Strm) (s : State), s.strm n = some x ∧ ((x.paired = false ∨ s.lost
    x.lead = false)) :=
⟨127, { x0 with words := (lw 1 1000).set 0 (2 ^ 22) }, xs { x0 with words := (lw 1 1000).set 0 (2 ^ 22) }, by decide +kernel⟩
theorem wit_LinesSlotsAndCuts_23 : ∃ (n : Fin 128) (x : Strm) (s : State), s.strm n = some x ∧ x.a = n ∧ x.paired = true ∧
    s.lost x.lead = true ∧ x.slots = [] ∧ x.run = none :=
⟨127, { x0 with words := (lw 1 1000).set 0 (2 ^ 22), cuts := [ct 4 true] }, { xs
    { x0 with words := (lw 1 1000).set 0 (2 ^ 22), cuts := [ct 4 true] } with halfLost := ⟨false, true⟩ }, by decide +kernel⟩

end LinesSlotsAndCuts

namespace ModulesTrainRetryAndSleep

def lt (tx rx : List (Fin 64)) : LaneTest := ⟨tx, rx, 9⟩
def hubL : LinkEnd := ⟨1, 11, false⟩
def dieL : LinkEnd := ⟨1, 11, true⟩
def md (st : Nat) : State := upS.setModState 1 11 st
def withK2 (s : State) (l : LinkEnd) (f : LkSt → LkSt) : State := s.updLk l f
def flit (crc : Bool) (seq : BitVec 10) (fmt : BitVec 4) (ms : List Msg) : Flit := ⟨crc, 0, seq, 0, fmt, 7, 0, ms⟩
def pr (s : State) (l : LinkEnd) (n : Nat) (r : List (Nat × Nat × List Msg)) : State := withK2 s (endPeer l) fun k => { k with next := n, credits := linkCredits, replay := r }
def hot (s : State) : State := withK2 (sets s [(.LK_CTL_CRC_THRESH, instH 1 11, 2)]) hubL fun k => { k with crcAt := [0, 0] }
def slp : State := sets (md 2) [(.LK_STAT_FEATURES, instH 1 11, 7), (.LK_CTL_SLEEP_EN, instH 1 11, 1), (.LKC_STAT_FEATURES, instD 11 1, 7), (.LKC_CTL_SLEEP_EN, instD 11 1, 1), (.PT_NOW_TIME, 0, 100000), (.LK_CNT_SLEEPS, instH 1 11, 0xFFFFFFFF)]
def fm : Msg := msg .data 0xB05 0xD10 5 0x40 7
def k3 (s : State) : State := withK2 s hubL fun k => { k with replay := [(1023, 1, []), (0, 1, []), (1, 1, [])], next := 2 }

theorem wit_ModulesTrainRetryAndSleep_1 : ∃ (h : Half) (m : Fin 13) (x : LaneTest) (s : State), s.modState h m = 0 ∧
    s.isRetired 6 (h * 16 + m) = false ∧ (s.lk (hubEnd h m)).lost = false ∧ (s.lk (hubEnd h m)).fails < 3 ∧ mapWorks (s.hubMap
    h m false) (x.tx.map Fin.val) = true ∧ mapWorks (s.hubMap h m true) (x.rx.map Fin.val) = true :=
⟨1, 11, lt [] [], md 0, by decide +kernel⟩
theorem wit_ModulesTrainRetryAndSleep_1b : ∃ (h : Half) (m : Fin 13) (x : LaneTest) (s : State), s.modState h m = 0 ∧
    s.isRetired 6 (h * 16 + m) = false ∧ (s.lk (hubEnd h m)).lost = false ∧ (s.lk (hubEnd h m)).fails < 3 ∧ mapWorks (s.hubMap
    h m false) (x.tx.map Fin.val) = true ∧ mapWorks (s.hubMap h m true) (x.rx.map Fin.val) = true :=
⟨1, 11, lt [5, 40] [7], sets (md 0) [(.LK_MAP_TX_MAP, instH 1 11, mapCheck (repBits [5] 0 + repBits [40] 1)), (.LK_MAP_RX_MAP,
    instH 1 11, mapCheck (3))], by decide +kernel⟩
theorem wit_ModulesTrainRetryAndSleep_1c : ∃ (h : Half) (m : Fin 13) (x : LaneTest) (s : State), s.modState h m = 0 ∧
    s.isRetired 6 (h * 16 + m) = false ∧ (s.lk (hubEnd h m)).lost = false ∧ (s.lk (hubEnd h m)).fails < 3 ∧ mapWorks (s.hubMap
    h m false) (x.tx.map Fin.val) = true ∧ mapWorks (s.hubMap h m true) (x.rx.map Fin.val) = true :=
⟨0, 12, lt [] [], upS.setModState 0 12 0, by decide +kernel⟩
theorem wit_ModulesTrainRetryAndSleep_2 : ∃ (h : Half) (m : Fin 13) (x : LaneTest) (s : State), s.modState h m = 0 ∧
    s.isRetired 6 (h * 16 + m) = false ∧ (s.lk (hubEnd h m)).lost = false ∧ (s.lk (hubEnd h m)).fails < 3 :=
⟨1, 11, lt [] [], withK2 (md 0) hubL fun k => { k with fails := 2 }, by decide +kernel⟩
theorem wit_ModulesTrainRetryAndSleep_3 : ∃ (h : Half) (m : Fin 13) (o : CapOffer) (s : State), s.modState h m = 1 ∧ m.val <
    12 ∧ s.peerFits m o = true :=
⟨1, 11, ⟨1, 1, 15, 0x0F, []⟩, md 1, by decide +kernel⟩
theorem wit_ModulesTrainRetryAndSleep_3b : ∃ (h : Half) (m : Fin 13) (o : CapOffer) (s : State), s.modState h m = 1 ∧ m.val <
    12 ∧ s.peerFits m o = true :=
⟨0, 0, ⟨1, 0, 0, 0xEF, [1, 2, 3, 4, 5, 6]⟩, upS.setModState 0 0 1, by decide +kernel⟩
theorem wit_ModulesTrainRetryAndSleep_4 : ∃ (h : Half) (m : Fin 13) (o : CapOffer) (s : State), s.modState h m = 1 ∧ m.val <
    12 ∧ ((o.kind ≠ 1 ∨ o.features.getLsbD 4 = true ∨ s.revOk o.rev = false)) :=
⟨1, 11, ⟨1, 2, 15, 0x0F, []⟩, sets (md 1) [(.PKG_ID_HUB_REV, 0, 0)], by exact ⟨by decide +kernel, by decide +kernel, Or.inr
    (Or.inr (by decide +kernel))⟩⟩
theorem wit_ModulesTrainRetryAndSleep_4b : ∃ (h : Half) (m : Fin 13) (o : CapOffer) (s : State), s.modState h m = 1 ∧ m.val <
    12 ∧ ((o.kind ≠ 1 ∨ o.features.getLsbD 4 = true ∨ s.revOk o.rev = false)) :=
⟨1, 11, ⟨2, 1, 15, 0x1F, []⟩, md 1, by exact ⟨by decide +kernel, by decide +kernel, Or.inl (by decide +kernel)⟩⟩
theorem wit_ModulesTrainRetryAndSleep_5 : ∃ (l : LinkEnd) (f : Flit) (s : State), s.lkState l ≠ 2 :=
⟨hubL, flit true 0 1 [], md 3, by decide +kernel⟩
theorem wit_ModulesTrainRetryAndSleep_10 : ∃ (l : LinkEnd) (q : BitVec 10) (s : State), endOurs l = true ∧ s.lkState l = 2 :=
⟨hubL, 1023, k3 (md 2), by decide +kernel⟩
theorem wit_ModulesTrainRetryAndSleep_10b : ∃ (l : LinkEnd) (q : BitVec 10) (s : State), endOurs l = true ∧ s.lkState l = 2 :=
⟨hubL, 0, k3 (md 2), by decide +kernel⟩
theorem wit_ModulesTrainRetryAndSleep_11 : ∃ (l : LinkEnd) (n : Nat) (s : State), endOurs l = true ∧ s.lkState l = 2 ∧ (s.lk
    l).retryAt = some n ∧ n + 2000 ≤ s.now :=
⟨hubL, 0, withK2 ((md 2).put .PT_NOW_TIME 0 2000) hubL fun k => { k with retryAt := some 0, expect := 1023 }, by
    decide +kernel⟩
theorem wit_ModulesTrainRetryAndSleep_12 : ∃ (l : LinkEnd) (s : State), (s.lk l).retryAt = none :=
⟨hubL, md 2, by decide +kernel⟩
theorem wit_ModulesTrainRetryAndSleep_13 : ∃ (l : LinkEnd) (s : State), endOurs l = true ∧ s.lkState l = 2 ∧ (s.lk l).replay ≠
    [] ∧ (s.lk l).ackAt + 4000 ≤ s.now :=
⟨hubL, k3 ((md 2).put .PT_NOW_TIME 0 4000), by decide +kernel⟩
theorem wit_ModulesTrainRetryAndSleep_14 : ∃ (l : LinkEnd) (s : State), (s.lk l).replay = [] :=
⟨hubL, md 2, by decide +kernel⟩
theorem wit_ModulesTrainRetryAndSleep_15 : ∃ (l : LinkEnd) (s : State), endOurs l = true ∧ s.lkState l = 2 :=
⟨dieL, md 2, by decide +kernel⟩
theorem wit_ModulesTrainRetryAndSleep_15b : ∃ (l : LinkEnd) (s : State), endOurs l = true ∧ s.lkState l = 2 :=
⟨hubL, md 2, by decide +kernel⟩
theorem wit_ModulesTrainRetryAndSleep_16 : ∃ (l : LinkEnd) (s : State), s.lkState l ≠ 2 :=
⟨hubL, md 3, by decide +kernel⟩
theorem wit_ModulesTrainRetryAndSleep_17 : ∃ (l : LinkEnd) (s : State), s.maySleep l = true ∧ s.linkIdle l = true ∧ (s.lk
    l).sleepAt = none :=
⟨hubL, slp, by decide +kernel⟩
theorem wit_ModulesTrainRetryAndSleep_18 : ∃ (l : LinkEnd) (s : State), s.maySleep l = true ∧ s.linkIdle l = true :=
⟨dieL, slp, by decide +kernel⟩
theorem wit_ModulesTrainRetryAndSleep_19 : ∃ (l : LinkEnd) (s : State), ((s.maySleep l = false ∨ s.linkIdle l = false)) :=
⟨hubL, md 2, by exact Or.inl (by decide +kernel)⟩
theorem wit_ModulesTrainRetryAndSleep_19b : ∃ (l : LinkEnd) (s : State), ((s.maySleep l = false ∨ s.linkIdle l = false)) :=
⟨hubL, slp.put .PT_NOW_TIME 0 0, by exact Or.inr (by decide +kernel)⟩
theorem wit_ModulesTrainRetryAndSleep_21 : ∃ (l : LinkEnd) (s : State), s.maySleep l = true ∧ s.linkIdle l = true ∧ (s.lk
    l).sleepAt.isSome = true :=
⟨hubL, withK2 slp hubL fun k => { k with sleepAt := some 0 }, by decide +kernel⟩
theorem wit_ModulesTrainRetryAndSleep_22 : ∃ (l : LinkEnd) (s : State), s.modState l.half l.m = 3 :=
⟨hubL, md 3, by decide +kernel⟩
theorem wit_ModulesTrainRetryAndSleep_23 : ∃ (h : Half) (m : Fin 13) (x : LaneTest) (s : State), s.modState h m = 2 ∧
    s.crcHigh (hubEnd h m) = true ∧ (s.get .LK_STAT_FEATURES (instH h m)).testBit 0 = true ∧ mapWorks (s.hubMap h m false)
    (x.tx.map Fin.val) = true ∧ mapWorks (s.hubMap h m true) (x.rx.map Fin.val) = true :=
⟨1, 11, lt [] [], hot (sets (md 2) [(.LK_STAT_FEATURES, instH 1 11, 1), (.LK_CNT_RETRAINS, instH 1 11, 0xFFFFFFFF)]), by
    decide +kernel⟩
theorem wit_ModulesTrainRetryAndSleep_24 : ∃ (h : Half) (m : Fin 13) (lane : Fin 64) (s : State), s.modState h m = 2 ∧
    s.crcHigh (hubEnd h m) = true ∧ s.hubMap h m false = 0 ∧ s.hubMap h m true = 0 :=
⟨1, 11, 63, hot (md 2), by decide +kernel⟩
theorem wit_ModulesTrainRetryAndSleep_24b : ∃ (h : Half) (m : Fin 13) (lane : Fin 64) (s : State), s.modState h m = 2 ∧
    s.crcHigh (hubEnd h m) = true ∧ s.hubMap h m false = 0 ∧ s.hubMap h m true = 0 :=
⟨1, 11, 0, hot (md 2), by decide +kernel⟩
theorem wit_ModulesTrainRetryAndSleep_25 : ∃ (h : Half) (m : Fin 13) (x : LaneTest) (s : State), s.modState h m ≠ 2 :=
⟨1, 11, lt [5] [5], md 1, by decide +kernel⟩
theorem wit_ModulesTrainRetryAndSleep_26 : ∃ (a : Acc) (l : LinkEnd) (x : LaneTest) (s : State), a.sec = true ∧ l.die = false
    ∧ s.lost l.half = false ∧ s.modState l.half l.m = 2 ∧ (s.get .LK_STAT_FEATURES (instH l.half l.m)).testBit 0 = true ∧
    mapWorks (s.hubMap l.half l.m false) (x.tx.map Fin.val) = true ∧ mapWorks (s.hubMap l.half l.m true) (x.rx.map Fin.val) =
    true :=
⟨hub, hubL, lt [] [], (md 2).put .LK_STAT_FEATURES (instH 1 11) 1, by decide +kernel⟩
theorem wit_ModulesTrainRetryAndSleep_27 : ∃ (l : LinkEnd) (x : LaneTest) (s : State), l.m.val < 12 ∧ s.modState l.half l.m =
    2 ∧ s.mapsDiffer l.half l.m = true ∧ (s.get .LK_STAT_FEATURES (instH l.half l.m)).testBit 0 = true ∧ mapWorks (s.hubMap
    l.half l.m false) (x.tx.map Fin.val) = true ∧ mapWorks (s.hubMap l.half l.m true) (x.rx.map Fin.val) = true :=
⟨dieL, lt [] [], withK2 (sets (md 2) [(.LK_STAT_FEATURES, instH 1 11, 1), (.LK_CNT_MISMATCH, instH 1 11, 0xFFFF)]) hubL fun k
    => { k with txMap := 1 }, by decide +kernel⟩
theorem wit_ModulesTrainRetryAndSleep_28 : ∃ (l : LinkEnd) (x : LaneTest) (s : State), s.mapsDiffer l.half l.m = false :=
⟨hubL, lt [] [], md 2, by decide +kernel⟩
theorem wit_ModulesTrainRetryAndSleep_29 : ∃ (h : Half) (m : Fin 13) (c : Fin 3) (s : State), s.modState h m ≠ 0 ∧ m.val < 12
    ∧ ((c ≠ 2 ∨ s.silent h m = true)) :=
⟨1, 11, 1, md 2, by exact ⟨by decide +kernel, by decide +kernel, Or.inl (by decide +kernel)⟩⟩
theorem wit_ModulesTrainRetryAndSleep_29b : ∃ (h : Half) (m : Fin 13) (c : Fin 3) (s : State), s.modState h m ≠ 0 ∧ m.val < 12
    ∧ ((c ≠ 2 ∨ s.silent h m = true)) :=
⟨0, 0, 0, upS.setModState 0 0 1, by exact ⟨by decide +kernel, by decide +kernel, Or.inl (by decide +kernel)⟩⟩
theorem wit_ModulesTrainRetryAndSleep_30 : ∃ (h : Half) (m : Fin 13) (c : Fin 3) (s : State), s.modState h m = 0 :=
⟨1, 11, 2, md 0, by decide +kernel⟩
theorem wit_ModulesTrainRetryAndSleep_31 : ∃ (h : Half) (m : Fin 13) (s : State), (s.lk (hubEnd h m)).lost = true ∧
    s.isRetired 6 (h * 16 + m) = false :=
⟨1, 11, withK2 (md 0) hubL fun k => { k with lost := true }, by decide +kernel⟩
theorem wit_ModulesTrainRetryAndSleep_31b : ∃ (h : Half) (m : Fin 13) (s : State), (s.lk (hubEnd h m)).lost = true ∧
    s.isRetired 6 (h * 16 + m) = false :=
⟨0, 12, (upS.setModState 0 12 0).updLk (hubEnd 0 12) fun k => { k with lost := true }, by decide +kernel⟩
theorem wit_ModulesTrainRetryAndSleep_32 : ∃ (h : Half) (m : Fin 13) (g : Bool) (s : State), (s.lk (hubEnd h m)).lost = false
    :=
⟨1, 11, true, md 0, by decide +kernel⟩
theorem wit_ModulesTrainRetryAndSleep_20 : ∃ (l : LinkEnd) (s : State), ((s.maySleep l = false ∨ (s.lk l).sleepAt = none)) :=
⟨hubL, slp, by exact Or.inr (by decide +kernel)⟩
theorem wit_ModulesTrainRetryAndSleep_20b : ∃ (l : LinkEnd) (s : State), ((s.maySleep l = false ∨ (s.lk l).sleepAt = none)) :=
⟨hubL, md 3, by exact Or.inl (by decide +kernel)⟩
theorem wit_ModulesTrainRetryAndSleep_29c : ∃ (h : Half) (m : Fin 13) (c : Fin 3) (s : State), s.modState h m ≠ 0 ∧ m.val < 12
    ∧ ((c ≠ 2 ∨ s.silent h m = true)) :=
⟨1, 11, 2, withK2 ((md 2).put .PT_NOW_TIME 0 5000) hubL fun k => { k with goodAt := 0 }, by exact ⟨by decide +kernel, by
    decide +kernel, Or.inr (by decide +kernel)⟩⟩
theorem wit_ModulesTrainRetryAndSleep_6 : ∃ (l : LinkEnd) (f : Flit) (s : State), l.die = false ∧ s.lkState l = 2 ∧ s.flitReal
    (endPeer l) f = true ∧ f.crcOk = false :=
⟨hubL, flit false 0 1 [fm], pr (sets (md 2) [(.LK_CNT_CRC_ERR, instH 1 11, 2 ^ 48 - 1)]) hubL 0 [], by decide +kernel⟩
theorem wit_ModulesTrainRetryAndSleep_6b : ∃ (l : LinkEnd) (f : Flit) (s : State), l.die = false ∧ s.lkState l = 2 ∧
    s.flitReal (endPeer l) f = true ∧ f.crcOk = false :=
⟨hubL, flit false 5 0 [fm], pr (md 2) hubL 5 [], by decide +kernel⟩
theorem wit_ModulesTrainRetryAndSleep_7 : ∃ (l : LinkEnd) (f : Flit) (s : State), endOurs l = true ∧ s.lkState l = 2 ∧
    s.flitReal (endPeer l) f = true ∧ f.crcOk = true ∧ f.kind = 0 ∧ fmtReserved f.fmt = false ∧ f.seq.toNat = (s.lk l).expect
    :=
⟨hubL, flit true 1023 1 [fm, fm], pr (withK2 (md 2) hubL fun k => { k with expect := 1023, retryAt := some 4 }) hubL 1023 [],
    by decide +kernel⟩
theorem wit_ModulesTrainRetryAndSleep_7b : ∃ (l : LinkEnd) (f : Flit) (s : State), endOurs l = true ∧ s.lkState l = 2 ∧
    s.flitReal (endPeer l) f = true ∧ f.crcOk = true ∧ f.kind = 0 ∧ fmtReserved f.fmt = false ∧ f.seq.toNat = (s.lk l).expect
    :=
⟨dieL, flit true 0 13 [], pr (md 2) dieL 0 [], by decide +kernel⟩
theorem wit_ModulesTrainRetryAndSleep_8 : ∃ (l : LinkEnd) (f : Flit) (s : State), endOurs l = true ∧ s.lkState l = 2 ∧
    s.flitReal (endPeer l) f = true ∧ f.crcOk = true ∧ f.kind = 0 ∧ fmtReserved f.fmt = false ∧ f.seq.toNat ≠ (s.lk l).expect
    ∧ ((s.lk l).expect + 1024 - f.seq.toNat) % 1024 ≤ 512 :=
⟨hubL, flit true 512 1 [fm], pr (md 2) hubL 0 [(512, 1, [fm])], by decide +kernel⟩
theorem wit_ModulesTrainRetryAndSleep_8b : ∃ (l : LinkEnd) (f : Flit) (s : State), endOurs l = true ∧ s.lkState l = 2 ∧
    s.flitReal (endPeer l) f = true ∧ f.crcOk = true ∧ f.kind = 0 ∧ fmtReserved f.fmt = false ∧ f.seq.toNat ≠ (s.lk l).expect
    ∧ ((s.lk l).expect + 1024 - f.seq.toNat) % 1024 ≤ 512 :=
⟨hubL, flit true 1023 1 [fm], pr (md 2) hubL 0 [(1023, 1, [fm])], by decide +kernel⟩
theorem wit_ModulesTrainRetryAndSleep_9 : ∃ (l : LinkEnd) (f : Flit) (s : State), endOurs l = true ∧ s.lkState l = 2 ∧
    s.flitReal (endPeer l) f = true ∧ f.crcOk = true ∧ f.kind = 0 ∧ fmtReserved f.fmt = true ∧ (s.lk l).retryAt = none :=
⟨hubL, flit true 0 15 [fm], pr (md 2) hubL 0 [], by decide +kernel⟩
theorem wit_ModulesTrainRetryAndSleep_9b : ∃ (l : LinkEnd) (f : Flit) (s : State), endOurs l = true ∧ s.lkState l = 2 ∧
    s.flitReal (endPeer l) f = true ∧ f.crcOk = true ∧ f.kind = 0 ∧ fmtReserved f.fmt = true ∧ (s.lk l).retryAt = none :=
⟨dieL, flit true 0 0 [fm], pr (md 2) dieL 0 [], by decide +kernel⟩

end ModulesTrainRetryAndSleep

namespace TheDikeAdmitsAndDecodes

def gq (ty : MsgTy) (a : BitVec 12) (la : LineAddr) (b : BitVec 18) : Msg := msg ty 0xF00 0xD26 a la b
def gu : State := sets mem [(.LK_STAT_STATE, instH 1 12, 2), (.DK_CTL_FENCE, instH 1 0, 0), (.DK_CTL_OUTCAP, instH 1 0, 1), (.DK_CNT_REFUSED, instH 1 0, 0xFFFFFFFFFFFF), (.DK_CNT_POISON_IN, instH 1 0, 0xFFFFFFFF)]
def gw : State := sets gu [(.DK_ATTR_VALID, instH 1 31, 1), (.DK_ATTR_RD, instH 1 31, 1), (.DK_ATTR_SEC, instH 1 31, 1), (.WORLD_ATTR_GUEST_SEC, 0, 2),
    (.DK_ATTR_POLDER, instH 1 31, 31), (.DK_BASE_ADDR, instH 1 31, 2), (.DK_LIM_ADDR, instH 1 31, 2), (.DK_TGT_ADDR, instH 1 31, 0x5000)]

theorem wit_TheDikeAdmitsAndDecodes_1 : ∃ (g : Half) (m : Msg) (s : State), s.guestUp g = false :=
⟨1, gq .readShared 31 0xBF 0, mem, by decide +kernel⟩
theorem wit_TheDikeAdmitsAndDecodes_2 : ∃ (g : Half) (m : Msg) (s : State), s.guestUp g = true ∧ guestMay m = true ∧
    (s.dike.get g).waiting = [] ∧ s.flag .DK_CTL_FENCE (instH g 0) = true :=
⟨1, gq .readShared 31 0xBF 0, gu.put .DK_CTL_FENCE (instH 1 0) 1, by decide +kernel⟩
theorem wit_TheDikeAdmitsAndDecodes_2b : ∃ (g : Half) (m : Msg) (s : State), s.guestUp g = true ∧ guestMay m = true ∧
    (s.dike.get g).waiting = [] ∧ s.flag .DK_CTL_FENCE (instH g 0) = true :=
⟨1, gq .write 8 0xBF 0, gu.put .DK_CTL_FENCE (instH 1 0) 1, by decide +kernel⟩
theorem wit_TheDikeAdmitsAndDecodes_3 : ∃ (g : Half) (m : Msg) (n : Nat) (s : State), s.guestUp g = true ∧ m.ty = .readShared
    ∧ m.a.toNat % 32 = 31 ∧ (s.dike.get g).waiting = [] ∧ s.flag .DK_CTL_FENCE (instH g 0) = false ∧ s.dikeCap g = true ∧
    s.get .DK_CTL_RATE (instH g 0) = 0 ∧ m.la.toNat * 64 < 0xFF00000000000 ∧ s.dikeWindow g (m.la.toNat * 64) = some n ∧
    s.flag .DK_ATTR_RD (instH g n) = true :=
⟨1, gq .readShared 31 0xBF 0, 31, gw, by decide +kernel⟩
theorem wit_TheDikeAdmitsAndDecodes_3b : ∃ (g : Half) (m : Msg) (n : Nat) (s : State), s.guestUp g = true ∧ m.ty = .readShared
    ∧ m.a.toNat % 32 = 31 ∧ (s.dike.get g).waiting = [] ∧ s.flag .DK_CTL_FENCE (instH g 0) = false ∧ s.dikeCap g = true ∧
    s.get .DK_CTL_RATE (instH g 0) = 0 ∧ m.la.toNat * 64 < 0xFF00000000000 ∧ s.dikeWindow g (m.la.toNat * 64) = some n ∧
    s.flag .DK_ATTR_RD (instH g n) = true :=
⟨1, gq .readShared 31 0x80 0, 31, gw.put .WORLD_ATTR_GUEST_SEC 0 1, by decide +kernel⟩
theorem wit_TheDikeAdmitsAndDecodes_4 : ∃ (g : Half) (m : Msg) (s : State), s.guestUp g = true ∧ guestMay m = true ∧
    guestPoison m = false ∧ (s.dike.get g).waiting = [] ∧ s.flag .DK_CTL_FENCE (instH g 0) = false ∧ s.dikeCap g = true ∧
    s.get .DK_CTL_RATE (instH g 0) = 0 ∧ m.la.toNat * 64 < 0xFF00000000000 ∧ ((s.dikeWindow g (m.la.toNat * 64) = none ∨ ∃ n,
    s.dikeWindow g (m.la.toNat * 64) = some n ∧ s.windowAllows g n m = false)) :=
⟨1, gq .readShared 31 0xC0 0, gw, by exact ⟨by decide +kernel, by decide +kernel, by decide +kernel, by decide +kernel, by
    decide +kernel, by decide +kernel, by decide +kernel, by decide +kernel, Or.inl (by decide +kernel)⟩⟩
theorem wit_TheDikeAdmitsAndDecodes_4b : ∃ (g : Half) (m : Msg) (s : State), s.guestUp g = true ∧ guestMay m = true ∧
    guestPoison m = false ∧ (s.dike.get g).waiting = [] ∧ s.flag .DK_CTL_FENCE (instH g 0) = false ∧ s.dikeCap g = true ∧
    s.get .DK_CTL_RATE (instH g 0) = 0 ∧ m.la.toNat * 64 < 0xFF00000000000 ∧ ((s.dikeWindow g (m.la.toNat * 64) = none ∨ ∃ n,
    s.dikeWindow g (m.la.toNat * 64) = some n ∧ s.windowAllows g n m = false)) :=
⟨1, gq .write 0 0xBF 0, gw, by exact ⟨by decide +kernel, by decide +kernel, by decide +kernel, by decide +kernel, by
    decide +kernel, by decide +kernel, by decide +kernel, by decide +kernel, Or.inr ⟨31, by decide +kernel, by
    decide +kernel⟩⟩⟩
theorem wit_TheDikeAdmitsAndDecodes_5 : ∃ (g : Half) (m : Msg) (s : State), s.guestUp g = true ∧ guestMay m = true ∧
    (s.dike.get g).waiting = [] ∧ s.flag .DK_CTL_FENCE (instH g 0) = false ∧ s.dikeCap g = false :=
⟨1, gq .readShared 31 0xBF 0, gw.updDike 1 fun d => { d with live := [(7, 0)] }, by decide +kernel⟩
theorem wit_TheDikeAdmitsAndDecodes_6 : ∃ (g : Half) (m : Msg) (s : State), s.guestUp g = true ∧ guestMay m = false ∧
    (s.dike.get g).waiting.length < 64 :=
⟨1, gq .readOwn 5 0xBF 0, gw, by decide +kernel⟩
theorem wit_TheDikeAdmitsAndDecodes_6b : ∃ (g : Half) (m : Msg) (s : State), s.guestUp g = true ∧ guestMay m = false ∧
    (s.dike.get g).waiting.length < 64 :=
⟨1, gq .readShared 30 0xBF 0, gw, by decide +kernel⟩
theorem wit_TheDikeAdmitsAndDecodes_7 : ∃ (g : Half) (m : Msg) (s : State), s.guestUp g = true ∧ guestMay m = true ∧
    guestPoison m = true ∧ (s.dike.get g).waiting = [] ∧ s.flag .DK_CTL_FENCE (instH g 0) = false ∧ s.dikeCap g = true ∧ s.get
    .DK_CTL_RATE (instH g 0) = 0 ∧ s.flag .DK_CTL_PQUAR (instH g 0) = true :=
⟨1, gq .write 8 0xBF 0, gw.put .DK_CTL_PQUAR (instH 1 0) 1, by decide +kernel⟩
theorem wit_TheDikeAdmitsAndDecodes_8 : ∃ (g : Half) (d : Fin 16) (v : Word) (s : State), s.guestUp g = true ∧ s.flag
    .DK_CTL_FENCE (instH g 0) = false ∧ s.flag .DK_DBCFG_EN (instH g d) = true ∧ s.get .DK_DBCFG_INTID (instH g d) < 0x200 :=
⟨1, 15, 0xFFFFFFFFFFFFFFFF, sets gu [(.DK_DBCFG_EN, instH 1 15, 1), (.DK_DBCFG_INTID, instH 1 15, 0x1FF)], by decide +kernel⟩
theorem wit_TheDikeAdmitsAndDecodes_9 : ∃ (g : Half) (d : Fin 16) (v : Word) (s : State), s.flag .DK_DBCFG_EN (instH g d) =
    false :=
⟨1, 15, 5, sets gu [(.DK_DBCFG_EN, instH 1 15, 0)], by decide +kernel⟩
theorem wit_TheDikeAdmitsAndDecodes_10 : ∃ (g : Half) (s : State), (s.dike.get g).down = false :=
⟨1, gw.updDike 1 fun d => { d with live := [(7, 0)] }, by decide +kernel⟩
theorem wit_TheDikeAdmitsAndDecodes_11 : ∃ (g : Half) (s : State), (s.dike.get g).waiting = [] :=
⟨1, sets gu [(.DK_CTL_RATE, instH 1 0, 100), (.DK_CTL_BURST, instH 1 0, 1)], by decide +kernel⟩
theorem wit_TheDikeAdmitsAndDecodes_11b : ∃ (g : Half) (s : State), (s.dike.get g).waiting = [] :=
⟨1, sets gu [(.DK_CTL_RATE, instH 1 0, 10), (.DK_CTL_BURST, instH 1 0, 0)], by decide +kernel⟩

end TheDikeAdmitsAndDecodes

namespace CascadeMembersMastersAndTime

def cs (st : Nat) : State :=
  sets mem [(.CS_STAT_STATE, 0, st), (.CS_CTL_PORTS, 0, 15), (.CS_PORT_PEER_OK, instPort2 3, 1), (.CS_PORT_PEER_OK, instPort2 0, 1),
    (.CS_PORT_LINK, instPort2 3, 1), (.CS_PORT_LINK, instPort2 0, 1),
    (.CS_STAT_INDEX, 0, 15), (.CS_STAT_MASTER, 0, 9), (.CS_CTL_CASCADE_ID, 0, 0xFFFFFFFF), (.PT_NOW_TIME, 0, 20000000)]
def withX (s : State) (f : Casc → Casc) : State := s.updCas f
def hd (p : Fin 4) (i : Fin 16) : CasHdr := ⟨p, i, 0, 13, 0xFFFFFFFF, 1, 0, 77⟩
def mi (n : Word) (r : Fin 3) : MemberInfo := ⟨n, 0x10, true, true, r, 5, 100, 0x0010000200001000⟩
def jc : Cmd := sbc 0x50 0 1 0
def other : Word := Config.serialFuse + 1
def memb (l : List (Nat × Nat)) : Member := ⟨mi 77 1, l, 5⟩
def rt (s : State) (i : Nat) (l : List (Nat × Nat)) : State := (s.setReach i true).updCas fun x => { x with mems := Tbl.set none x.mems i (some (memb l)) }
def cald (s : State) : State := (s.updCsPort 3 fun q => { q with cald := true }).updCsPort 0 fun q => { q with cald := true }
def all9 (s : State) : State := sets s ((List.range 8).map fun n => (.CS_CHAN_MASTER, n, 9))
def fr (n : Nat) : CsFrame := ⟨3, 15, 0, 15, 5, 9, n, 0, [1, 2]⟩
def snt (l : List Nat) (s : State) : State := s.updCsPort 3 fun q => { q with sent := l.map fr, ackAt := 5, got := 9 }

theorem wit_CascadeMembersMastersAndTime_1 : ∃ s : State, s.csJoined = true :=
⟨cs 2, by decide +kernel⟩
theorem wit_CascadeMembersMastersAndTime_1b : ∃ s : State, s.csJoined = true :=
⟨cs 3, by decide +kernel⟩
theorem wit_CascadeMembersMastersAndTime_2 : ∃ s : State, s.csJoined = false :=
⟨cs 0, by decide +kernel⟩
theorem wit_CascadeMembersMastersAndTime_3 : ∃ (h : CasHdr) (n : Word) (p : Byte) (a b : Bool) (s : State), s.csLink h.port =
    true ∧ h.id.toNat = s.csId ∧ h.lseq.toNat = ((s.csPort h.port).got + 1) % 65536 ∧ ¬ (h.src.val = s.csIndex ∧ n.toNat ≠
    Config.serial) :=
⟨hd 3 14, 5, 255, true, true, cs 1, by decide +kernel⟩
theorem wit_CascadeMembersMastersAndTime_3b : ∃ (h : CasHdr) (n : Word) (p : Byte) (a b : Bool) (s : State), s.csLink h.port =
    true ∧ h.id.toNat = s.csId ∧ h.lseq.toNat = ((s.csPort h.port).got + 1) % 65536 ∧ ¬ (h.src.val = s.csIndex ∧ n.toNat ≠
    Config.serial) :=
⟨hd 3 14, 5, 255, false, false, (cs 1).updCsPort 3 fun q => { q with hello := some 0 }, by decide +kernel⟩
theorem wit_CascadeMembersMastersAndTime_4 : ∃ (h : CasHdr) (n : Word) (p : Byte) (a b : Bool) (s : State), s.csLink h.port =
    true ∧ h.id.toNat ≠ s.csId :=
⟨{ hd 3 14 with id := 4 }, 5, 255, true, true, cs 1, by decide +kernel⟩
theorem wit_CascadeMembersMastersAndTime_5 : ∃ (h : CasHdr) (n : Word) (p : Byte) (a b : Bool) (f : CasTick) (s : State),
    s.csLink h.port = true ∧ h.id.toNat = s.csId ∧ h.lseq.toNat ≠ ((s.csPort h.port).got + 1) % 65536 :=
⟨{ hd 3 14 with lseq := 2 }, 5, 255, true, true, ⟨7, 5, 6, 7, true⟩, cs 2, by decide +kernel⟩
theorem wit_CascadeMembersMastersAndTime_5b : ∃ (h : CasHdr) (n : Word) (p : Byte) (a b : Bool) (f : CasTick) (s : State),
    s.csLink h.port = true ∧ h.id.toNat = s.csId ∧ h.lseq.toNat ≠ ((s.csPort h.port).got + 1) % 65536 :=
⟨{ hd 3 14 with lseq := 0 }, 5, 255, true, true, ⟨7, 5, 6, 7, true⟩, cs 2, by decide +kernel⟩
theorem wit_CascadeMembersMastersAndTime_6 : ∃ (h : CasHdr) (n : Word) (p : Byte) (a b : Bool) (s : State), s.csLink h.port =
    false :=
⟨hd 1 14, 5, 255, true, true, cs 1, by decide +kernel⟩
theorem wit_CascadeMembersMastersAndTime_7 : ∃ (h : CasHdr) (n : Word) (p : Byte) (a b : Bool) (k : Cmd) (s : State), s.csLink
    h.port = true ∧ h.id.toNat = s.csId ∧ h.lseq.toNat = ((s.csPort h.port).got + 1) % 65536 ∧ h.src.val = s.csIndex ∧ n.toNat
    ≠ Config.serial ∧ s.cas.join = some k ∧ (s.runningOf k).any (·.discard) = false :=
⟨hd 3 15, other, 5, true, true, jc, withX (cs 1) fun x => { x with join := some jc }, by exact ⟨by decide +kernel, by
    decide +kernel, by decide +kernel, by decide +kernel, fun h => absurd (BitVec.eq_of_toNat_eq (x := Config.serialFuse + 1)
    (y := Config.serialFuse) h) (by simp), by decide +kernel, by decide +kernel⟩⟩
theorem wit_CascadeMembersMastersAndTime_8 : ∃ (h : CasHdr) (f : MemberInfo) (ds : List (BitVec 64)) (s : State), s.hears h =
    true ∧ h.src.val ≠ s.csIndex ∧ f.role = 0 :=
⟨hd 3 14, mi 5 0, [], cs 2, by decide +kernel⟩
theorem wit_CascadeMembersMastersAndTime_8b : ∃ (h : CasHdr) (f : MemberInfo) (ds : List (BitVec 64)) (s : State), s.hears h =
    true ∧ h.src.val ≠ s.csIndex ∧ f.role = 0 :=
⟨hd 0 0, mi 0xFFFFFFFFFFFFFFFF 0, [], cs 5, by decide +kernel⟩
theorem wit_CascadeMembersMastersAndTime_9 : ∃ (h : CasHdr) (f : MemberInfo) (ds : List (BitVec 64)) (s : State), s.hears h =
    true ∧ s.csSeen h = false ∧ h.src.val ≠ s.csIndex ∧ s.csState = 1 ∧ s.csCald = true ∧ f.role ≠ 0 ∧ (∀ k, s.cas.join = some
    k → (s.runningOf k).any (·.discard) = false) :=
⟨hd 3 14, mi 5 1, [2 ^ 57 + 5], cald (withX (cs 1) fun x => { x with join := some jc }), by exact ⟨by decide +kernel, by
    decide +kernel, by decide +kernel, by decide +kernel, by decide +kernel, by decide +kernel, fun k h => (by
    cases h; decide +kernel)⟩⟩
theorem wit_CascadeMembersMastersAndTime_9b : ∃ (h : CasHdr) (f : MemberInfo) (ds : List (BitVec 64)) (s : State), s.hears h =
    true ∧ s.csSeen h = false ∧ h.src.val ≠ s.csIndex ∧ s.csState = 1 ∧ s.csCald = true ∧ f.role ≠ 0 ∧ (∀ k, s.cas.join = some
    k → (s.runningOf k).any (·.discard) = false) :=
⟨hd 3 14, mi 5 2, [], cald (withX (cs 1) fun x => { x with join := some jc }), by exact ⟨by decide +kernel, by decide +kernel,
    by decide +kernel, by decide +kernel, by decide +kernel, by decide +kernel, fun k h => (by cases h; decide +kernel)⟩⟩
theorem wit_CascadeMembersMastersAndTime_10 : ∃ (h : CasHdr) (f : MemberInfo) (ds : List (BitVec 64)) (s : State), s.hears h =
    true ∧ s.csSeen h = false ∧ h.src.val ≠ s.csIndex ∧ 1 < s.csState ∧ s.csState ≠ 4 ∧ h.src.val ≠ s.csMaster ∧ f.role = 1 :=
⟨hd 3 14, mi 5 1, [], withX (cs 2) fun x => { x with key := (0, 0x10, 6) }, by decide +kernel⟩
theorem wit_CascadeMembersMastersAndTime_10b : ∃ (h : CasHdr) (f : MemberInfo) (ds : List (BitVec 64)) (s : State), s.hears h
    = true ∧ s.csSeen h = false ∧ h.src.val ≠ s.csIndex ∧ 1 < s.csState ∧ s.csState ≠ 4 ∧ h.src.val ≠ s.csMaster ∧ f.role = 1
    :=
⟨hd 3 14, mi 5 1, [], withX ((cs 2).put .CS_CHAN_STATE 7 1) fun x => { x with key := (0, 0x10, 6) }, by decide +kernel⟩
theorem wit_CascadeMembersMastersAndTime_10c : ∃ (h : CasHdr) (f : MemberInfo) (ds : List (BitVec 64)) (s : State), s.hears h
    = true ∧ s.csSeen h = false ∧ h.src.val ≠ s.csIndex ∧ 1 < s.csState ∧ s.csState ≠ 4 ∧ h.src.val ≠ s.csMaster ∧ f.role = 1
    :=
⟨hd 3 14, mi 5 1, [], withX (cs 2) fun x => { x with key := (0, 0x10, 4) }, by decide +kernel⟩
theorem wit_CascadeMembersMastersAndTime_11 : ∃ (h : CasHdr) (f : MemberInfo) (ds : List (BitVec 64)) (n : Nat) (s : State),
    s.hears h = true ∧ s.csSeen h = false ∧ h.src.val ≠ s.csIndex ∧ s.csState = 4 ∧ f.role = 2 ∧ h.src.val ≠ s.csMaster ∧ n <
    8 ∧ bitOf (divOf ds n) 57 = true ∧ s.get .CS_CHAN_STATE n = 2 :=
⟨hd 3 14, mi 5 2, [0, 2 ^ 57 + 3 * 2 ^ 32 + 7], 1, (cs 4).put .CS_CHAN_STATE 1 2, by decide +kernel⟩
theorem wit_CascadeMembersMastersAndTime_12 : ∃ (h : CasHdr) (f : MemberInfo) (ds : List (BitVec 64)) (s : State), s.csLink
    h.port = false :=
⟨hd 2 14, mi 5 2, [], cs 2, by decide +kernel⟩
theorem wit_CascadeMembersMastersAndTime_13 : ∃ (h : CasHdr) (i : Option (Fin 8)) (p : Byte) (n : Word) (s : State), s.hears h
    = true ∧ s.csSeen h = false :=
⟨hd 3 14, some 7, 255, 0xFFFFFFFFFFFFFFFF, cs 2, by decide +kernel⟩
theorem wit_CascadeMembersMastersAndTime_13b : ∃ (h : CasHdr) (i : Option (Fin 8)) (p : Byte) (n : Word) (s : State), s.hears
    h = true ∧ s.csSeen h = false :=
⟨hd 3 14, none, 0, 0, cs 1, by decide +kernel⟩
theorem wit_CascadeMembersMastersAndTime_14 : ∃ (h : CasHdr) (i : Option (Fin 8)) (p : Byte) (n : Word) (s : State), s.hears h
    = true ∧ s.csSeen h = true :=
⟨hd 3 15, some 7, 255, 0xFFFFFFFFFFFFFFFF, cs 2, by decide +kernel⟩
theorem wit_CascadeMembersMastersAndTime_14b : ∃ (h : CasHdr) (i : Option (Fin 8)) (p : Byte) (n : Word) (s : State), s.hears
    h = true ∧ s.csSeen h = true :=
⟨hd 3 14, none, 255, 5, withX (cs 2) fun x => { x with seen := [(14, 77)] }, by decide +kernel⟩
theorem wit_CascadeMembersMastersAndTime_15 : ∃ s : State, s.csState = 1 ∧ s.cas.electAt = none ∧ s.cas.joinAt + 10000000 ≤
    s.now ∧ s.flag .CS_CTL_MASTER_CAP 0 = true :=
⟨sets (withX (cs 1) fun x => { x with joinAt := 10000000 }) [(.CS_CTL_MASTER_CAP, 0, 1)], by decide +kernel⟩
theorem wit_CascadeMembersMastersAndTime_16 : ∃ (s : State) (k : Cmd), s.csState = 1 ∧ s.cas.electAt = none ∧ s.cas.joinAt +
    10000000 ≤ s.now ∧ s.flag .CS_CTL_MASTER_CAP 0 = false ∧ s.cas.mems = [] ∧ s.cas.cands = [] ∧ s.cas.join = some k ∧
    (s.runningOf k).any (·.discard) = false :=
⟨withX (cs 1) fun x => { x with joinAt := 10000000, join := some jc }, jc, by decide +kernel⟩
theorem wit_CascadeMembersMastersAndTime_17 : ∃ s : State, s.csState ≠ 1 :=
⟨cs 2, by decide +kernel⟩
theorem wit_CascadeMembersMastersAndTime_18 : ∃ (n : Fin 8) (s : State) (t0 : Nat), s.csState = 1 ∧ s.cas.electAt = some t0 ∧
    t0 + 2000000 ≤ s.now ∧ s.selfCand ∈ s.cas.cands ∧ s.csIndex < 16 ∧ ((∀ x ∈ s.cas.cands, x = s.selfCand ∨ s.selfCand.1 <
    x.1 ∨ s.selfCand.1 = x.1 ∧ s.selfCand.2.1 < x.2.1)) ∧ (∀ k, s.cas.join = some k → (s.runningOf k).any (·.discard) = false)
    :=
⟨7, withX ((cs 1).put .CS_CTL_MASTER_CAP 0 1) fun x =>
    { x with electAt := some 18000000, join := some jc, cands := [(5, 0, 3), (0, Config.serial, 15)] }, 18000000, by exact ⟨by
    decide +kernel, by decide +kernel, by decide +kernel, List.mem_cons_of_mem _ (List.mem_cons.2 (Or.inl rfl)), by
    decide +kernel, fun x h => (List.mem_cons.1 h).elim (fun h => Or.inr (Or.inl (by subst h; decide +kernel))) (fun h =>
    Or.inl (List.mem_singleton.1 h)), fun k h => (by cases h; decide +kernel)⟩⟩
theorem wit_CascadeMembersMastersAndTime_19 : ∃ (n : Fin 8) (s : State) (t0 : Nat) (w : Nat × Nat × Nat), s.csState = 1 ∧
    s.cas.electAt = some t0 ∧ t0 + 2000000 ≤ s.now ∧ w ∈ s.cas.cands ∧ w ≠ s.selfCand ∧ w.2.2 < 16 ∧ ((∀ x ∈ s.cas.cands, x =
    w ∨ w.1 < x.1 ∨ w.1 = x.1 ∧ w.2.1 < x.2.1)) ∧ (∀ k, s.cas.join = some k → (s.runningOf k).any (·.discard) = false) :=
⟨7, withX (sets (cs 1) [(.CS_CTL_MASTER_CAP, 0, 1), (.CS_CTL_PRIORITY, 0, 5)]) fun x =>
    { x with electAt := some 18000000, join := some jc, cands := [(4, 9, 3), (4, 8, 14)] }, 18000000, (4, 8, 14), by exact ⟨by
    decide +kernel, by decide +kernel, by decide +kernel, by decide +kernel, by decide +kernel, by decide +kernel, by
    decide +kernel, fun k h => (by cases h; decide +kernel)⟩⟩
theorem wit_CascadeMembersMastersAndTime_20 : ∃ (n : Fin 8) (s : State), s.cas.electAt = none :=
⟨7, cs 1, by decide +kernel⟩
theorem wit_CascadeMembersMastersAndTime_21 : ∃ (h : CasHdr) (b : Fin 8) (s : State), s.hears h = true ∧ s.csSeen h = false :=
⟨hd 3 9, 7, cs 2, by decide +kernel⟩
theorem wit_CascadeMembersMastersAndTime_21b : ∃ (h : CasHdr) (b : Fin 8) (s : State), s.hears h = true ∧ s.csSeen h = false
    :=
⟨hd 3 8, 7, cs 3, by decide +kernel⟩
theorem wit_CascadeMembersMastersAndTime_22 : ∃ s : State, s.csJoined = true :=
⟨cs 4, by decide +kernel⟩
theorem wit_CascadeMembersMastersAndTime_22b : ∃ s : State, s.csJoined = true :=
⟨rt (cs 4) 8 [(3, 2)], by decide +kernel⟩
theorem wit_CascadeMembersMastersAndTime_23 : ∃ (h : CasHdr) (i : Fin 16) (n : Fin 8) (o w : Fin 16) (v : BitVec 48) (s :
    State), s.hears h = true ∧ s.csSeen h = false :=
⟨hd 3 14, 14, 7, 9, 8, 0xFFFFFFFFFFFF, cs 2, by decide +kernel⟩
theorem wit_CascadeMembersMastersAndTime_24 : ∃ (h : CasHdr) (s : State), s.hears h = true ∧ s.csSeen h = false :=
⟨hd 3 9, rt (all9 ((cs 2).put .CS_CHAN_STATE 7 1)) 9 [(3, 1)], by decide +kernel⟩
theorem wit_CascadeMembersMastersAndTime_25 : ∃ (h : CasHdr) (b : Fin 8) (s : State), s.csLink h.port = false :=
⟨hd 2 9, 5, cs 0, by decide +kernel⟩
theorem wit_CascadeMembersMastersAndTime_26 : ∃ (c : Fin 4) (s : State), s.csUp c = true :=
⟨3, cs 2, by decide +kernel⟩
theorem wit_CascadeMembersMastersAndTime_27 : ∃ (c : Fin 4) (s : State), s.csUp c = false :=
⟨2, cs 2, by decide +kernel⟩
theorem wit_CascadeMembersMastersAndTime_28 : ∃ (h : CasHdr) (s : State), s.hears h = true :=
⟨hd 3 9, cs 2, by decide +kernel⟩
theorem wit_CascadeMembersMastersAndTime_29 : ∃ (h : CasHdr) (t1 : Nat) (t2 t3 : Word) (s : State), s.hears h = true ∧
    (s.csPort h.port).cal1 = some t1 ∧ s.get .CS_PORT_ASYM (instPort2 h.port) < 65536 :=
⟨hd 3 9, 19999000, 0, 0xFFFFFFFFFFFFFFFF, ((cs 2).put .CS_PORT_ASYM (instPort2 3) 0x8000).updCsPort 3 fun q =>
    { q with cal1 := some 19999000 }, by decide +kernel⟩
theorem wit_CascadeMembersMastersAndTime_29b : ∃ (h : CasHdr) (t1 : Nat) (t2 t3 : Word) (s : State), s.hears h = true ∧
    (s.csPort h.port).cal1 = some t1 ∧ s.get .CS_PORT_ASYM (instPort2 h.port) < 65536 :=
⟨hd 3 9, 19999000, 100, 90, ((cs 2).put .CS_PORT_ASYM (instPort2 3) 0x7FFF).updCsPort 3 fun q =>
    { q with cal1 := some 19999000 }, by decide +kernel⟩
theorem wit_CascadeMembersMastersAndTime_30 : ∃ (h : CasHdr) (x : Word × Word) (s : State), s.hears h = true ∧ (s.csPort
    h.port).cal1 = none :=
⟨hd 3 9, (5, 6), cs 2, by decide +kernel⟩
theorem wit_CascadeMembersMastersAndTime_31 : ∃ (h : CasHdr) (pt : Word) (s : State), s.hears h = true ∧ s.timePort = some
    h.port.val :=
⟨hd 3 9, 0xFFFFFFFFFFFFFFFF, rt ((cs 2).put .PT_CTL_SRC 0 3) 9 [(3, 1)], by decide +kernel⟩
theorem wit_CascadeMembersMastersAndTime_31b : ∃ (h : CasHdr) (pt : Word) (s : State), s.hears h = true ∧ s.timePort = some
    h.port.val :=
⟨hd 3 9, 20000015, rt ((cs 2).put .PT_CTL_SRC 0 1) 9 [(3, 1)], by decide +kernel⟩
theorem wit_CascadeMembersMastersAndTime_32 : ∃ (h : CasHdr) (pt : Word) (s : State), s.hears h = true ∧ s.timePort ≠ some
    h.port.val :=
⟨hd 3 9, 1000, rt (cs 2) 9 [(0, 1), (3, 2)], by decide +kernel⟩
theorem wit_CascadeMembersMastersAndTime_33 : ∃ s : State, s.csJoined = true :=
⟨cs 2, by decide +kernel⟩
theorem wit_CascadeMembersMastersAndTime_34 : ∃ (c : Fin 4) (s : State), s.csLink c = true ∧ (s.csPort c).sent ≠ [] ∧
    (s.csPort c).ackAt + 5000 ≤ s.now :=
⟨3, snt [1, 2] ((cs 2).put .CS_CNT_RESENDS 0 0xFFFFFFFF), by decide +kernel⟩
theorem wit_CascadeMembersMastersAndTime_35 : ∃ (c : Fin 4) (k : BitVec 16) (f : CsFrame) (s : State), s.csLink c = true ∧ f ∈
    (s.csPort c).sent ∧ 0 < (f.lseq + 65536 - k.toNat) % 65536 ∧ (f.lseq + 65536 - k.toNat) % 65536 ≤ 128 :=
⟨3, 0xFFFF, fr 0, snt [0xFFFF, 0, 1] (cs 2), by decide +kernel⟩
theorem wit_CascadeMembersMastersAndTime_35b : ∃ (c : Fin 4) (k : BitVec 16) (f : CsFrame) (s : State), s.csLink c = true ∧ f
    ∈ (s.csPort c).sent ∧ 0 < (f.lseq + 65536 - k.toNat) % 65536 ∧ (f.lseq + 65536 - k.toNat) % 65536 ≤ 128 :=
⟨3, 5, fr 133, snt [5, 6, 133] (cs 2), by decide +kernel⟩
theorem wit_CascadeMembersMastersAndTime_36 : ∃ (c : Fin 4) (l : Option (BitVec 16)) (s : State), s.csLink c = false :=
⟨2, none, cs 2, by decide +kernel⟩
theorem wit_CascadeMembersMastersAndTime_37 : ∃ (c : Fin 4) (s : State), s.flag .CS_PORT_LINK (instPort2 c) = true :=
⟨3, rt (rt (all9 (cs 2)) 9 [(3, 1)]) 4 [(0, 1), (3, 2)], by decide +kernel⟩
theorem wit_CascadeMembersMastersAndTime_38 : ∃ (c : Fin 4) (s : State), s.flag .CS_PORT_LINK (instPort2 c) = false :=
⟨2, cs 2, by decide +kernel⟩
theorem wit_CascadeMembersMastersAndTime_38b : ∃ (c : Fin 4) (s : State), s.flag .CS_PORT_LINK (instPort2 c) = false :=
⟨1, (cs 2).put .CS_CTL_PORTS 0 1, by decide +kernel⟩

end CascadeMembersMastersAndTime

namespace ChannelTicksHoldoverAndIslands

def cs (st : Nat) : State :=
  sets mem [(.CS_STAT_STATE, 0, st), (.CS_CTL_PORTS, 0, 15), (.CS_PORT_PEER_OK, instPort2 3, 1), (.CS_PORT_PEER_OK, instPort2 0, 1),
    (.CS_PORT_LINK, instPort2 3, 1), (.CS_PORT_LINK, instPort2 0, 1), (.CS_CHAN_MASTER, 7, 9),
    (.CS_STAT_INDEX, 0, 15), (.CS_STAT_MASTER, 0, 9), (.CS_TIMING_HOLD_TICKS, 0, 4), (.CS_TIMING_HOLD_MS, 0, 1), (.CS_TIMING_L_CASCADE, 0, 1000), (.PT_NOW_TIME, 0, 20000000)]
def withX (s : State) (f : Casc → Casc) : State := s.updCas f
def hd (p : Fin 4) (i : Fin 16) : CasHdr := ⟨p, i, 0, 13, 0, 1, 0, 77⟩
def ch7 (s : State) (f : CsChan → CsChan) : State := s.updChan 7 f
def tkf (n : BitVec 48) (i : Bool) : CasTick := ⟨7, n, 19999000, 55, i⟩
def all9 (s : State) : State := sets s ((List.range 8).map fun n => (.CS_CHAN_MASTER, n, 9))
def memb (l : List (Nat × Nat)) : Member := ⟨⟨9, 1, true, true, 1, 0, 0, 0⟩, l, 5⟩
def b31 (s : State) : State :=
  sets (s.setPolder 31 (some { pold 4 with lcpus := [some 5] })) [(.TK_CFG_WORD, 31 * 6, 4), (.CS_TBIND_VALID, 31, 1), (.CS_TBIND_CHANNEL, 31, 7), (.TK_NOW_STATE, 31, 1)]
def big : Nat := 2 ^ 48 - 1

theorem wit_ChannelTicksHoldoverAndIslands_1 : ∃ (h : CasHdr) (f : CasTick) (s : State) (p : Nat) (v : Polder), s.hears h =
    true ∧ s.csSeen h = false ∧ s.takesFrom f.chan h.src = true ∧ s.csState ≠ 4 ∧ s.get .CS_CHAN_STATE f.chan = 1 ∧ (s.chan
    f.chan).ticked = true ∧ (s.chan f.chan).adopt = false ∧ (f.num.toNat + s.get .CS_CHAN_OFS f.chan) % 2 ^ 48 = ((s.chan
    f.chan).num + 1) % 2 ^ 48 ∧ (s.chan f.chan).num < 2 ^ 48 ∧ s.bound f.chan = [p] ∧ s.polder p = some v ∧ s.get
    .TK_NOW_STATE p = 1 ∧ (s.ctx p).next = none ∧ (s.ctx p).suspendNext = false ∧ (s.ctx p).stall = none ∧ (s.ctx
    p).stretching = false :=
⟨hd 3 9, tkf 0 false, b31 (ch7 ((cs 2).put .CS_CHAN_STATE 7 1) fun x => { x with ticked := true, num := big }), 31,
    { pold 4 with lcpus := [some 5] }, by decide +kernel⟩
theorem wit_ChannelTicksHoldoverAndIslands_1b : ∃ (h : CasHdr) (f : CasTick) (s : State) (p : Nat) (v : Polder), s.hears h =
    true ∧ s.csSeen h = false ∧ s.takesFrom f.chan h.src = true ∧ s.csState ≠ 4 ∧ s.get .CS_CHAN_STATE f.chan = 1 ∧ (s.chan
    f.chan).ticked = true ∧ (s.chan f.chan).adopt = false ∧ (f.num.toNat + s.get .CS_CHAN_OFS f.chan) % 2 ^ 48 = ((s.chan
    f.chan).num + 1) % 2 ^ 48 ∧ (s.chan f.chan).num < 2 ^ 48 ∧ s.bound f.chan = [p] ∧ s.polder p = some v ∧ s.get
    .TK_NOW_STATE p = 1 ∧ (s.ctx p).next = none ∧ (s.ctx p).suspendNext = false ∧ (s.ctx p).stall = none ∧ (s.ctx
    p).stretching = false :=
⟨hd 3 9, tkf 5 false, b31 (ch7 (sets (cs 2) [(.CS_CHAN_STATE, 7, 1), (.CS_CHAN_OFS, 7, 2 ^ 48 - 3)]) fun x =>
    { x with ticked := true, num := 1 }), 31, { pold 4 with lcpus := [some 5] }, by decide +kernel⟩
theorem wit_ChannelTicksHoldoverAndIslands_2 : ∃ (h : CasHdr) (f : CasTick) (s : State), s.hears h = true ∧ s.csSeen h = false
    ∧ s.takesFrom f.chan h.src = true ∧ s.csState = 4 ∧ (s.chan f.chan).ticked = true ∧ (s.chan f.chan).adopt = false ∧
    (s.chan f.chan).num < 2 ^ 48 ∧ s.get .CS_CHAN_STATE f.chan = 2 ∧ s.cas.heldAt ≠ s.now ∧ (s.chan f.chan).made ≤ ((s.chan
    f.chan).num + 2 ^ 48 - s.localNum f) % 2 ^ 48 :=
⟨hd 3 9, tkf 5 false, ch7 (sets (cs 4) [(.CS_CHAN_STATE, 7, 2), (.CS_CNT_RECONCILES, 0, 0xFFFFFFFF)]) fun x =>
    { x with ticked := true, num := big, made := 2 }, by decide +kernel⟩
theorem wit_ChannelTicksHoldoverAndIslands_2b : ∃ (h : CasHdr) (f : CasTick) (s : State), s.hears h = true ∧ s.csSeen h =
    false ∧ s.takesFrom f.chan h.src = true ∧ s.csState = 4 ∧ (s.chan f.chan).ticked = true ∧ (s.chan f.chan).adopt = false ∧
    (s.chan f.chan).num < 2 ^ 48 ∧ s.get .CS_CHAN_STATE f.chan = 2 ∧ s.cas.heldAt ≠ s.now ∧ (s.chan f.chan).made ≤ ((s.chan
    f.chan).num + 2 ^ 48 - s.localNum f) % 2 ^ 48 :=
⟨hd 3 9, tkf 5 true, ch7 (sets (cs 4) [(.CS_CHAN_STATE, 7, 2)]) fun x => { x with ticked := true, num := 3 }, by
    decide +kernel⟩
theorem wit_ChannelTicksHoldoverAndIslands_3 : ∃ (h : CasHdr) (f : CasTick) (s : State), s.hears h = true ∧ s.csSeen h = false
    ∧ s.takesFrom f.chan h.src = true ∧ s.get .CS_CHAN_STATE f.chan = 2 ∧ (s.chan f.chan).adopt = false ∧ 0 < (s.chan
    f.chan).made ∧ ((s.chan f.chan).num + 2 ^ 48 - s.localNum f) % 2 ^ 48 < (s.chan f.chan).made :=
⟨hd 3 9, tkf 5 false, ch7 ((cs 4).put .CS_CHAN_STATE 7 2) fun x => { x with ticked := true, num := 5, made := 1 }, by
    decide +kernel⟩
theorem wit_ChannelTicksHoldoverAndIslands_3b : ∃ (h : CasHdr) (f : CasTick) (s : State), s.hears h = true ∧ s.csSeen h =
    false ∧ s.takesFrom f.chan h.src = true ∧ s.get .CS_CHAN_STATE f.chan = 2 ∧ (s.chan f.chan).adopt = false ∧ 0 < (s.chan
    f.chan).made ∧ ((s.chan f.chan).num + 2 ^ 48 - s.localNum f) % 2 ^ 48 < (s.chan f.chan).made :=
⟨hd 3 9, tkf (2 ^ 48 - 1) false, ch7 ((cs 4).put .CS_CHAN_STATE 7 2) fun x => { x with ticked := true, num := 0, made := 2 },
    by decide +kernel⟩
theorem wit_ChannelTicksHoldoverAndIslands_4 : ∃ (h : CasHdr) (f : CasTick) (s : State), s.hears h = true ∧ s.csSeen h = false
    ∧ s.takesFrom f.chan h.src = true ∧ s.get .CS_CHAN_STATE f.chan = 2 ∧ (s.chan f.chan).adopt = false ∧ (s.chan f.chan).made
    = 0 ∧ s.cas.heldAt = s.now ∧ (s.chan f.chan).ticked = true ∧ (s.chan f.chan).num < 2 ^ 48 ∧ s.localNum f = ((s.chan
    f.chan).num + 1) % 2 ^ 48 :=
⟨hd 3 9, tkf 6 false, withX (ch7 ((cs 4).put .CS_CHAN_STATE 7 2) fun x => { x with ticked := true, num := 5 }) fun x =>
    { x with heldAt := 20000000 }, by decide +kernel⟩
theorem wit_ChannelTicksHoldoverAndIslands_5 : ∃ (h : CasHdr) (f : CasTick) (s : State), s.hears h = true ∧ s.csSeen h = false
    ∧ s.takesFrom f.chan h.src = true ∧ s.csState ≠ 4 ∧ s.get .CS_CHAN_STATE f.chan ≠ 2 ∧ (s.chan f.chan).ticked = true ∧
    (s.chan f.chan).num < 2 ^ 48 ∧ (s.chan f.chan).adopt = true :=
⟨hd 3 9, tkf 5 false, ch7 ((cs 2).put .CS_CHAN_STATE 7 1) fun x =>
    { x with ticked := true, num := big, adopt := true, old := 3 }, by decide +kernel⟩
theorem wit_ChannelTicksHoldoverAndIslands_6 : ∃ (h : CasHdr) (f : CasTick) (s : State), s.hears h = true ∧ s.takesFrom f.chan
    h.src = false :=
⟨hd 3 8, tkf 5 true, (cs 2).put .CS_CHAN_STATE 7 1, by decide +kernel⟩
theorem wit_ChannelTicksHoldoverAndIslands_6b : ∃ (h : CasHdr) (f : CasTick) (s : State), s.hears h = true ∧ s.takesFrom
    f.chan h.src = false :=
⟨hd 3 8, tkf 5 true, cs 2, by decide +kernel⟩
theorem wit_ChannelTicksHoldoverAndIslands_7 : ∃ (p : Pol) (n e : Nat) (cnt : Word) (s : State) (v : Polder), s.polder p =
    some v ∧ s.get .TK_NOW_STATE p = 1 ∧ (s.ctx p).encFailed = false ∧ s.tkSource p = 1 ∧ s.edgeDue p = some (e, cnt) ∧ (s.ctx
    p).next = none ∧ (s.ctx p).first = none ∧ s.masterChans p = [n] :=
⟨30, 7, 19999990, 2, sets (((ch7 (cs 3) fun x => { x with pol := some 30 }).setPolder 30 (some (pold 4))).updCtx 30 fun c =>
    { c with edgeIx := 1, due := [(0, 19999990, 2)] }) [(.TK_CFG_WORD, 30 * 6, 1), (.TK_CFG_WORD, 30 * 6 + 1, 2 ^ 32),
    (.TK_NOW_STATE, 30, 1), (.ENC_CFG_EN, 0, 1), (.ENC_POS_POS, 0, 2), (.TK_NOW_NUM, 30, big)], pold 4, by decide +kernel⟩
theorem wit_ChannelTicksHoldoverAndIslands_8 : ∃ (p : Pol) (s : State) (v : Polder), s.polder p = some v ∧ (s.ctx p).encFailed
    = false ∧ ((s.tkSource p = 4 ∨ s.get .TK_NOW_STATE p = 0)) ∧ s.flag .CS_TBIND_VALID p = true ∧ s.isleDue (s.get
    .CS_TBIND_CHANNEL p) = true :=
⟨31, b31 (ch7 (sets (cs 5) [(.CS_CHAN_STATE, 7, 3), (.CS_CHAN_MASTER, 7, 15), (.CS_CHDIV_N, 7, 1), (.ENC_CFG_EN, 0, 1)]) fun x
    => { x with p0 := -1, num := big }), { pold 4 with lcpus := [some 5] }, by exact ⟨by decide +kernel, by decide +kernel,
    Or.inl (by decide +kernel), by decide +kernel, by decide +kernel⟩⟩
theorem wit_ChannelTicksHoldoverAndIslands_9 : ∃ (m : Fin 16) (s : State), ((s.csState = 2 ∨ s.csState = 6)) ∧ s.csMaster = m
    ∧ s.csIndex ≠ m ∧ (∀ n, n < 8 → s.get .CS_CHAN_MASTER n = m) ∧ s.cas.hbAt + 60000 ≤ s.now :=
⟨9, all9 (sets (cs 2) [(.CS_CHAN_STATE, 7, 1), (.CS_CHAN_STATE, 6, 4), (.CS_CNT_HOLDOVERS, 0, 0xFFFFFFFF)]), by exact ⟨Or.inl
    (by decide +kernel), by decide +kernel, by decide +kernel, by decide +kernel, by decide +kernel⟩⟩
theorem wit_ChannelTicksHoldoverAndIslands_9b : ∃ (m : Fin 16) (s : State), ((s.csState = 2 ∨ s.csState = 6)) ∧ s.csMaster = m
    ∧ s.csIndex ≠ m ∧ (∀ n, n < 8 → s.get .CS_CHAN_MASTER n = m) ∧ s.cas.hbAt + 60000 ≤ s.now :=
⟨9, all9 (withX (sets (cs 6) [(.CS_CHAN_STATE, 7, 3)]) fun x => { x with hbAt := 19940000 }), by exact ⟨Or.inr (by
    decide +kernel), by decide +kernel, by decide +kernel, by decide +kernel, by decide +kernel⟩⟩
theorem wit_ChannelTicksHoldoverAndIslands_10 : ∃ (m : Fin 16) (s : State), ((s.csState = 2 ∨ s.csState = 6)) ∧ s.csMaster = m
    ∧ s.csIndex ≠ m ∧ (∀ n, n < 8 → s.get .CS_CHAN_MASTER n = m) ∧ s.csRoute m = none :=
⟨9, all9 (sets (cs 6) [(.CS_CHAN_STATE, 7, 3)]), by exact ⟨Or.inr (by decide +kernel), by decide +kernel, by decide +kernel,
    by decide +kernel, by decide +kernel⟩⟩
theorem wit_ChannelTicksHoldoverAndIslands_11 : ∃ (m : Fin 16) (x y : Nat × Nat) (v : Member) (s : State), s.member m = some v
    ∧ v.via = [x, y] ∧ x.1 ≠ y.1 ∧ s.csUp y.1 = true ∧ s.csRoute m = some x.1 ∧ s.canLose m = true :=
⟨9, (0, 1), (3, 1), memb [(0, 1), (3, 1)], withX (cs 2) fun x => { x with mems := [(9, some (memb [(0, 1), (3, 1)]))] }, by
    decide +kernel⟩
theorem wit_ChannelTicksHoldoverAndIslands_11b : ∃ (m : Fin 16) (x y : Nat × Nat) (v : Member) (s : State), s.member m = some
    v ∧ v.via = [x, y] ∧ x.1 ≠ y.1 ∧ s.csUp y.1 = true ∧ s.csRoute m = some x.1 ∧ s.canLose m = true :=
⟨9, (3, 1), (0, 2), memb [(3, 1), (0, 2)], withX (cs 2) fun x => { x with mems := [(9, some (memb [(3, 1), (0, 2)]))] }, by
    decide +kernel⟩
theorem wit_ChannelTicksHoldoverAndIslands_12 : ∃ (m : Fin 16) (s : State), s.csMaster = m ∧ s.now < s.cas.hbAt + 60000 :=
⟨9, withX (cs 2) fun x => { x with hbAt := 19940001 }, by decide +kernel⟩
theorem wit_ChannelTicksHoldoverAndIslands_13 : ∃ (m : Fin 16) (r : Bool) (s : State), s.canLose m = false :=
⟨9, true, cs 3, by decide +kernel⟩
theorem wit_ChannelTicksHoldoverAndIslands_14 : ∃ (n : Fin 8) (s : State), s.get .CS_CHAN_STATE n = 2 ∧ (s.chan n).electAt =
    none ∧ (s.chan n).ivals ≠ [] ∧ (s.chan n).made < s.get .CS_TIMING_HOLD_TICKS 0 ∧ (s.chan n).base + (s.chan n).after
    ((s.chan n).made + 1) ≤ s.now ∧ (s.chan n).after ((s.chan n).made + 1) ≤ s.get .CS_TIMING_HOLD_MS 0 * 1000000 :=
⟨7, b31 (ch7 ((cs 4).put .CS_CHAN_STATE 7 2) fun x =>
    { x with ivals := [100, 101], num := big, edge := 19999000, made := 3, count := 9 }), by decide +kernel⟩
theorem wit_ChannelTicksHoldoverAndIslands_15 : ∃ (n : Fin 8) (s : State), ((s.get .CS_CHAN_STATE n ≠ 2 ∨ s.get
    .CS_TIMING_HOLD_TICKS 0 ≤ (s.chan n).made ∨ (s.chan n).electAt.isSome = true)) :=
⟨7, ch7 ((cs 4).put .CS_CHAN_STATE 7 2) fun x => { x with ivals := [100, 101], made := 4 }, by exact Or.inr (Or.inl (by
    decide +kernel))⟩
theorem wit_ChannelTicksHoldoverAndIslands_15b : ∃ (n : Fin 8) (s : State), ((s.get .CS_CHAN_STATE n ≠ 2 ∨ s.get
    .CS_TIMING_HOLD_TICKS 0 ≤ (s.chan n).made ∨ (s.chan n).electAt.isSome = true)) :=
⟨7, ch7 ((cs 4).put .CS_CHAN_STATE 7 2) fun x => { x with ivals := [100, 101], electAt := some 5 }, by exact Or.inr (Or.inr
    (by decide +kernel))⟩
theorem wit_ChannelTicksHoldoverAndIslands_16 : ∃ (n : Fin 8) (s : State), s.get .CS_CHAN_STATE n = 2 ∧ (s.chan n).electAt =
    none ∧ ((s.get .CS_TIMING_HOLD_TICKS 0 ≤ (s.chan n).made ∨ (s.chan n).base + s.get .CS_TIMING_HOLD_MS 0 * 1000000 ≤
    s.now)) ∧ s.flag .CS_CTL_PROMOTE 0 = true ∧ s.flag .CS_CHAN_ENC_EN n = true :=
⟨7, ch7 (sets (cs 4) [(.CS_CHAN_STATE, 7, 2), (.CS_CTL_PROMOTE, 0, 1), (.CS_CHAN_ENC_EN, 7, 1)]) fun x =>
    { x with made := 4 }, by exact ⟨by decide +kernel, by decide +kernel, Or.inl (by decide +kernel), by decide +kernel, by
    decide +kernel⟩⟩
theorem wit_ChannelTicksHoldoverAndIslands_17 : ∃ (n : Fin 8) (s : State), s.get .CS_CHAN_STATE n = 2 ∧ (s.chan n).electAt =
    none ∧ ((s.get .CS_TIMING_HOLD_TICKS 0 ≤ (s.chan n).made ∨ (s.chan n).base + s.get .CS_TIMING_HOLD_MS 0 * 1000000 ≤
    s.now)) ∧ s.flag .CS_CTL_PROMOTE 0 = false ∧ ((∀ i, i < 16 → s.flag .CS_MEM_REACH i = false ∨ s.flag .CS_MEM_PROMOTE i =
    false)) :=
⟨7, b31 (ch7 (sets (cs 4) [(.CS_CHAN_STATE, 7, 2)]) fun x => { x with edge := 19000000 }), by exact ⟨by decide +kernel, by
    decide +kernel, Or.inr (by decide +kernel), by decide +kernel, by decide +kernel⟩⟩
theorem wit_ChannelTicksHoldoverAndIslands_18 : ∃ (n : Fin 8) (s : State), s.get .CS_CHAN_STATE n = 2 ∧ (s.chan n).made <
    s.get .CS_TIMING_HOLD_TICKS 0 ∧ s.now < (s.chan n).base + s.get .CS_TIMING_HOLD_MS 0 * 1000000 :=
⟨7, ch7 (sets (cs 4) [(.CS_CHAN_STATE, 7, 2)]) fun x => { x with edge := 19000001 }, by decide +kernel⟩
theorem wit_ChannelTicksHoldoverAndIslands_19 : ∃ (n : Fin 8) (s : State) (t0 : Nat), (s.chan n).electAt = some t0 ∧ t0 +
    200000 ≤ s.now ∧ s.get .CS_CHAN_STATE n = 2 ∧ s.csState = 4 ∧ (n.val, s.selfCand) ∈ s.cas.isle ∧ s.csIndex < 16 ∧ ((∀ x ∈
    s.cas.isle, x.1 ≠ n.val ∨ x.2 = s.selfCand ∨ s.selfCand.1 < x.2.1 ∨ s.selfCand.1 = x.2.1 ∧ s.selfCand.2.1 < x.2.2.1)) :=
⟨7, withX (ch7 (sets (cs 4) [(.CS_CHAN_STATE, 7, 2), (.CS_CTL_PROMOTE, 0, 1), (.CS_CHAN_ENC_EN, 7, 1)]) fun x =>
    { x with electAt := some 19800000, num := big }) fun x => { x with isle := [(7, 5, 0, 3), (7, 0, Config.serial, 15)] },
    19800000, by exact ⟨by decide +kernel, by decide +kernel, by decide +kernel, by decide +kernel, List.mem_cons_of_mem _
    (List.mem_cons.2 (Or.inl rfl)), by decide +kernel, fun x h => (List.mem_cons.1 h).elim (fun h => Or.inr (Or.inr (Or.inl
    (by subst h; decide +kernel)))) (fun h => Or.inr (Or.inl (by rw [List.mem_singleton.1 h]; rfl)))⟩⟩
theorem wit_ChannelTicksHoldoverAndIslands_20 : ∃ (n : Fin 8) (s : State) (t0 : Nat) (w : Nat × Nat × Nat), (s.chan n).electAt
    = some t0 ∧ t0 + 200000 ≤ s.now ∧ s.get .CS_CHAN_STATE n = 2 ∧ s.csState = 4 ∧ (n.val, w) ∈ s.cas.isle ∧ w ≠ s.selfCand ∧
    w.2.2 < 16 ∧ ((∀ x ∈ s.cas.isle, x.1 ≠ n.val ∨ x.2 = w ∨ w.1 < x.2.1 ∨ w.1 = x.2.1 ∧ w.2.1 < x.2.2.1)) :=
⟨7, withX (ch7 ((cs 4).put .CS_CHAN_STATE 7 2) fun x => { x with electAt := some 19800000, ticked := true }) fun x =>
    { x with isle := [(7, 5, 0, 3), (7, 4, 9, 3), (7, 4, 8, 14), (6, 0, 0, 1)] }, 19800000, (4, 8, 14), by decide +kernel⟩
theorem wit_ChannelTicksHoldoverAndIslands_21 : ∃ (n : Fin 8) (s : State) (t0 : Nat), (s.chan n).electAt = some t0 ∧ t0 +
    200000 ≤ s.now ∧ s.get .CS_CHAN_STATE n = 2 ∧ (∀ x ∈ s.cas.isle, x.1 ≠ n.val) :=
⟨7, b31 (ch7 ((cs 4).put .CS_CHAN_STATE 7 2) fun x => { x with electAt := some 0 }), 0, by decide +kernel⟩

end ChannelTicksHoldoverAndIslands

namespace CascadeCommandsWindowsAndTransfers

def cs (st : Nat) : State :=
  sets mem [(.CS_STAT_STATE, 0, st), (.CS_CTL_PORTS, 0, 15), (.CS_PORT_PEER_OK, instPort2 3, 1), (.CS_PORT_PEER_OK, instPort2 0, 1),
    (.CS_PORT_LINK, instPort2 3, 1), (.CS_PORT_LINK, instPort2 0, 1),
    (.CS_STAT_INDEX, 0, 15), (.CS_STAT_MASTER, 0, 9), (.PT_NOW_TIME, 0, 20000000)]
def rec (l : Nat) : List Byte := wordsLe [0xFFFFFFFF + 7 * 2 ^ 32 + 2 ^ 40, l + 2 ^ 32 + 1000 * 2 ^ 48, 0, 0x0E, 0, 0, 0, 0]
def jn (p0 n l : Nat) : Cmd := sbb 0x50 0 p0 0 n (rec l)
def bnd (s : State) : State :=
  sets (s.setPolder 31 (some (pold 4))) [(.TK_CFG_WORD, 31 * 6, 4), (.CS_TBIND_VALID, 31, 1), (.CS_TBIND_CHANNEL, 31, 7), (.TK_NOW_STATE, 31, 1)]
def qsq (k : Nat) (r : Option Nat) : State := mem.setSq k (some { sq0 with relay := r })
def win (s : State) (rd wr : Nat) : State := sets s [(.CS_WATTR_VALID, 15, 1), (.CS_WATTR_WR, 15, wr), (.CS_WATTR_RD, 15, rd), (.CS_WATTR_PAGES, 15, 1), (.CS_WATTR_POLDER, 15, 31), (.CS_WTGT_TGT, 15, 0x40)]
def xf (op len : Nat) (got : List Nat) : Xfer := ⟨op, 9, 5, len, 0, 0x1000, 0x2000, got, false, none⟩
def withF (s : State) (x : Xfer) : State := (s.setPolder 31 (some { pold 4 with sendSize := 4096, sendHead := 4095 })).setXfer 31 (some x)
def rtd (s : State) : State := s.updCas fun x => { x with mems := [(9, some ⟨⟨1, 0, true, true, 1, 0, 0, 0⟩, [(3, 1)], 0⟩)] }
def rnd : Running := ⟨.pcie 0, 5, ent 0x10 0 0 0, 0, 0, 0, false, none, false, false, 0, some 15, [], false⟩
def hd (d : Fin 16) : CasHdr := ⟨3, 9, d, 13, 0, 1, 0, 77⟩
def xa (p : Fin 32) (o : Word) : XferArg := ⟨p, 15, o⟩
def xa5 (o : Word) : XferArg := ⟨31, 5, o⟩
def rh (n : Nat) : RelayCmdHead := ⟨true, ent 0x10 0 0 0, n⟩
def ch (n : Nat) : RelayCplHead := ⟨7, 0xFF, 0xFFFFFFFFFFFFFFFFFFFFFFFFFFFFFFFF, 0xFFFFF, n⟩

theorem wit_CascadeCommandsWindowsAndTransfers_1 : ∃ (c : Cmd) (s : State), s.passes specCasJoin c = true ∧ s.csJoined = false
    ∧ s.bufLen c = 64 ∧ bitsOf c.e.p0 3 0 ≠ 0 ∧ s.joinOk (fun i => s.bufWord c i) = true :=
⟨jn 15 64 1000, mem, by decide +kernel⟩
theorem wit_CascadeCommandsWindowsAndTransfers_1b : ∃ (c : Cmd) (s : State), s.passes specCasJoin c = true ∧ s.csJoined =
    false ∧ s.bufLen c = 64 ∧ bitsOf c.e.p0 3 0 ≠ 0 ∧ s.joinOk (fun i => s.bufWord c i) = true :=
⟨jn 8 64 100000, mem, by decide +kernel⟩
theorem wit_CascadeCommandsWindowsAndTransfers_2 : ∃ (c : Cmd) (s : State), s.passes specCasJoin c = true ∧ s.csJoined = true
    :=
⟨jn 15 64 1000, cs 4, by decide +kernel⟩
theorem wit_CascadeCommandsWindowsAndTransfers_3 : ∃ (c : Cmd) (s : State), s.passes specCasJoin c = true ∧ s.csJoined = false
    ∧ s.bufLen c ≠ 64 :=
⟨jn 15 72 1000, mem, by decide +kernel⟩
theorem wit_CascadeCommandsWindowsAndTransfers_4 : ∃ (c : Cmd) (s : State), s.passes specCasJoin c = true ∧ s.csJoined = false
    ∧ s.bufLen c = 64 ∧ ((bitsOf c.e.p0 3 0 = 0 ∨ s.joinOk (fun i => s.bufWord c i) = false)) :=
⟨jn 0 64 1000, mem, by exact ⟨by decide +kernel, by decide +kernel, by decide +kernel, Or.inl (by decide +kernel)⟩⟩
theorem wit_CascadeCommandsWindowsAndTransfers_4b : ∃ (c : Cmd) (s : State), s.passes specCasJoin c = true ∧ s.csJoined =
    false ∧ s.bufLen c = 64 ∧ ((bitsOf c.e.p0 3 0 = 0 ∨ s.joinOk (fun i => s.bufWord c i) = false)) :=
⟨jn 15 64 999, mem, by exact ⟨by decide +kernel, by decide +kernel, by decide +kernel, Or.inr (by decide +kernel)⟩⟩
theorem wit_CascadeCommandsWindowsAndTransfers_4c : ∃ (c : Cmd) (s : State), s.passes specCasJoin c = true ∧ s.csJoined =
    false ∧ s.bufLen c = 64 ∧ ((bitsOf c.e.p0 3 0 = 0 ∨ s.joinOk (fun i => s.bufWord c i) = false)) :=
⟨jn 15 64 100001, mem, by exact ⟨by decide +kernel, by decide +kernel, by decide +kernel, Or.inr (by decide +kernel)⟩⟩
theorem wit_CascadeCommandsWindowsAndTransfers_5 : ∃ (c : Cmd) (s : State), s.passes specCasLeave c = true ∧ s.csJoined = true
    :=
⟨sbc 0x51 0 0 0, bnd (cs 2), by decide +kernel⟩
theorem wit_CascadeCommandsWindowsAndTransfers_6 : ∃ (c : Cmd) (s : State), s.passes specCasLeave c = true ∧ s.csJoined =
    false :=
⟨sbc 0x51 0 0 0, bnd mem, by decide +kernel⟩
theorem wit_CascadeCommandsWindowsAndTransfers_7 : ∃ (c : Cmd) (p : Nat) (s : State), s.passes specSetTbind c = true ∧ bitsOf
    c.e.p0 15 0 = 0x500 + p ∧ p < 32 ∧ s.srcSecure c.src = true :=
⟨sbc 3 0 0x51F 0xF, 31, bnd mem, by decide +kernel⟩
theorem wit_CascadeCommandsWindowsAndTransfers_7b : ∃ (c : Cmd) (p : Nat) (s : State), s.passes specSetTbind c = true ∧ bitsOf
    c.e.p0 15 0 = 0x500 + p ∧ p < 32 ∧ s.srcSecure c.src = true :=
⟨sbc 3 0 0x500 0, 0, mem, by decide +kernel⟩
theorem wit_CascadeCommandsWindowsAndTransfers_8 : ∃ (c : Cmd) (s : State), s.passes specSetTbind c = true ∧ s.srcSecure c.src
    = false :=
⟨⟨.pcie 3, 0, ent 3 0 0x51F 0xF, [], []⟩, mem, by decide +kernel⟩
theorem wit_CascadeCommandsWindowsAndTransfers_9 : ∃ (c : Cmd) (q : Nat) (r : Sq) (s : State), s.passes specSetRelay c = true
    ∧ q = qKey c.src.num (bitsOf c.e.p1 5 0) ∧ s.sq q = some r :=
⟨⟨.pcie 3, 0, ent 3 0 0x20 (63 + 15 * 256 + 4096), [], []⟩, qKey 3 63, sq0, qsq (qKey 3 63) none, by decide +kernel⟩
theorem wit_CascadeCommandsWindowsAndTransfers_9b : ∃ (c : Cmd) (q : Nat) (r : Sq) (s : State), s.passes specSetRelay c = true
    ∧ q = qKey c.src.num (bitsOf c.e.p1 5 0) ∧ s.sq q = some r :=
⟨⟨.pcie 3, 0, ent 3 0 0x20 63, [], []⟩, qKey 3 63, { sq0 with relay := some 15 }, qsq (qKey 3 63) (some 15), by
    decide +kernel⟩
theorem wit_CascadeCommandsWindowsAndTransfers_10 : ∃ (c : Cmd) (s : State), s.passes specSetRelay c = true ∧ s.sq (qKey
    c.src.num (bitsOf c.e.p1 5 0)) = none :=
⟨⟨.pcie 3, 0, ent 3 0 0x20 63, [], []⟩, mem, by decide +kernel⟩
theorem wit_CascadeCommandsWindowsAndTransfers_24 : ∃ (a : Acc) (h : Half) (v : Word) (s : State), a.sec = true ∧ s.lost h =
    false ∧ v.getLsbD 0 = true ∧ s.csStageBad = false :=
⟨hub, 1, 1, sets mem [(.CS_STG_WATTR_VALID, 15, 1), (.CS_STG_WATTR_POLDER, 15, 31), (.CS_STG_WATTR_PAGES, 15, 0xFFFFFFFF),
    (.CS_STG_WTGT_TGT, 15, 0xFFFFFFFFFF)], by decide +kernel⟩
theorem wit_CascadeCommandsWindowsAndTransfers_25 : ∃ (a : Acc) (h : Half) (v : Word) (s : State), a.sec = true ∧ s.lost h =
    false ∧ ((v.getLsbD 0 = false ∨ s.csStageBad = true)) :=
⟨hub, 1, 1, sets mem [(.CS_STG_WATTR_VALID, 15, 1)], by exact ⟨by decide +kernel, by decide +kernel, Or.inr (by
    decide +kernel)⟩⟩
theorem wit_CascadeCommandsWindowsAndTransfers_25b : ∃ (a : Acc) (h : Half) (v : Word) (s : State), a.sec = true ∧ s.lost h =
    false ∧ ((v.getLsbD 0 = false ∨ s.csStageBad = true)) :=
⟨hub, 1, 0xFFFFFFFFFFFFFFFE, mem, by exact ⟨by decide +kernel, by decide +kernel, Or.inl (by decide +kernel)⟩⟩
theorem wit_CascadeCommandsWindowsAndTransfers_26 : ∃ (a : Acc) (p : Pol) (v : Word) (s : State) (q : Polder), a.sec = true ∧
    s.polder p = some q ∧ v.toNat < q.sendSize :=
⟨hub, 31, 4095, mem.setPolder 31 (some { pold 4 with sendSize := 4096 }), { pold 4 with sendSize := 4096 }, by decide +kernel⟩
theorem wit_CascadeCommandsWindowsAndTransfers_27 : ∃ (a : Acc) (p : Pol) (v : Word) (s : State) (q : Polder), a.sec = true ∧
    s.polder p = some q ∧ q.sendSize ≤ v.toNat :=
⟨hub, 31, 4096, mem.setPolder 31 (some { pold 4 with sendSize := 4096 }), { pold 4 with sendSize := 4096 }, by decide +kernel⟩
theorem wit_CascadeCommandsWindowsAndTransfers_35 : ∃ (c : Cmd) (p : Nat) (v : Polder) (s : State), s.passes specSetSend c =
    true ∧ bitsOf c.e.p0 15 0 = 0x540 + p ∧ s.srcBound c.src p = true ∧ s.polder p = some v :=
⟨sbc 3 0 0x55F (5 * 4096 + 4095), 31, { pold 4 with sendSize := 16, sendBase := 0x3000 }, mem.setPolder 31 (some
    { pold 4 with sendSize := 16, sendBase := 0x3000 }), by decide +kernel⟩
theorem wit_CascadeCommandsWindowsAndTransfers_36 : ∃ (c : Cmd) (p : Nat) (s : State), s.passes specSetSend c = true ∧ bitsOf
    c.e.p0 15 0 = 0x540 + p ∧ ((s.srcBound c.src p = false ∨ s.polder p = none)) :=
⟨sbc 3 0 0x55F (5 * 4096 + 4095), 31, mem, by exact ⟨by decide +kernel, by decide +kernel, Or.inr (by decide +kernel)⟩⟩
theorem wit_CascadeCommandsWindowsAndTransfers_36b : ∃ (c : Cmd) (p : Nat) (s : State), s.passes specSetSend c = true ∧ bitsOf
    c.e.p0 15 0 = 0x540 + p ∧ ((s.srcBound c.src p = false ∨ s.polder p = none)) :=
⟨⟨.pcie 3, 0, ent 3 0 0x55F 0, [], []⟩, 31, mem.setPolder 31 (some (pold 4)), by exact ⟨by decide +kernel, by decide +kernel,
    Or.inl (by decide +kernel)⟩⟩
theorem wit_CascadeCommandsWindowsAndTransfers_11 : ∃ (h : CasHdr) (x : RelayCmdHead) (l : List Byte) (s : State), s.hears h =
    true ∧ h.dst.val = s.csIndex ∧ x.total ≤ l.length ∧ x.total ≤ 1048576 :=
⟨hd 15, rh 3, [1, 2, 3], cs 2, by decide +kernel⟩
theorem wit_CascadeCommandsWindowsAndTransfers_12 : ∃ (h : CasHdr) (x : RelayCmdHead) (l : List Byte) (s : State), s.hears h =
    true ∧ h.dst.val = s.csIndex ∧ l.length < x.total :=
⟨hd 15, rh 4, [1, 2, 3], cs 2, by decide +kernel⟩
theorem wit_CascadeCommandsWindowsAndTransfers_13 : ∃ (h : CasHdr) (x : RelayCmdHead) (k l : List Byte) (s : State), s.hears h
    = true ∧ h.dst.val = s.csIndex ∧ Tbl.get none s.cas.asmCmd h.src = some (x, k) ∧ x.total ≤ k.length + l.length ∧ x.total ≤
    1048576 :=
⟨hd 15, rh 4, [1, 2], [3, 4], (cs 2).updCas fun x => { x with asmCmd := [(9, some (rh 4, [1, 2]))] }, by decide +kernel⟩
theorem wit_CascadeCommandsWindowsAndTransfers_14 : ∃ (h : CasHdr) (x : RelayCmdHead) (l : List Byte) (s : State), s.hears h =
    true ∧ h.dst.val = s.csIndex ∧ x.total ≤ l.length ∧ 1048576 < x.total ∧ s.runningOf ⟨.cascade h.port h.src x.mb, 0, x.e,
    [], []⟩ = none :=
⟨hd 15, rh 1048577, List.replicate 1048577 0, cs 2, by exact ⟨by decide +kernel, by decide +kernel, by
    rw [List.length_replicate]; decide, by decide +kernel, by decide +kernel⟩⟩
theorem wit_CascadeCommandsWindowsAndTransfers_15 : ∃ (h : CasHdr) (x : Option RelayCmdHead) (y : Option RelayCplHead) (l :
    List Byte) (s : State), s.csLink h.port = false :=
⟨{ hd 15 with port := 2 }, none, none, [], cs 2, by decide +kernel⟩
theorem wit_CascadeCommandsWindowsAndTransfers_16 : ∃ (h : CasHdr) (x : RelayCplHead) (l : List Byte) (r : Running) (s :
    State), s.hears h = true ∧ h.dst.val = s.csIndex ∧ x.total ≤ l.length ∧ s.relayed x.cid.toNat = some r ∧ r.discard = false
    ∧ s.runningOf ⟨r.src, Fin.ofNat 64 r.sqid, r.e, [], []⟩ = some r :=
⟨hd 15, ch 2, [1, 2], rnd, ((cs 2).setSq (qKey 0 5) (some { sq0 with relay := some 15 })).updCp fun c =>
    { c with running := [rnd] }, by decide +kernel⟩
theorem wit_CascadeCommandsWindowsAndTransfers_17 : ∃ (h : CasHdr) (x : RelayCplHead) (l : List Byte) (s : State), s.hears h =
    true ∧ h.dst.val = s.csIndex ∧ x.total ≤ l.length ∧ s.relayed x.cid.toNat = none :=
⟨hd 15, ch 0, [], cs 2, by decide +kernel⟩
theorem wit_CascadeCommandsWindowsAndTransfers_18 : ∃ (h : CasHdr) (x : XferArg) (b : BitVec 512) (pa p : Nat) (s : State),
    s.hears h = true ∧ h.dst.val = s.csIndex ∧ s.csWindow x.win x.off.toNat true = some (pa, p) ∧ pa < 2 ^ 52 ∧ p < 32 :=
⟨hd 15, xa 7 4032, 0xABCD, 0x40FC0, 31, win (cs 2) 0 1, by decide +kernel⟩
theorem wit_CascadeCommandsWindowsAndTransfers_19 : ∃ (h : CasHdr) (x : XferArg) (b : BitVec 512) (q : Nat) (s : State),
    s.hears h = true ∧ h.dst.val = s.csIndex ∧ s.csWindow x.win x.off.toNat true = none ∧ s.csRoute h.src = some q :=
⟨hd 15, xa 7 4096, 0xABCD, 3, rtd ((win (cs 2) 0 1).put .RGN_VIOL_COUNT (instH 1 0) (2 ^ 48 - 1)), by decide +kernel⟩
theorem wit_CascadeCommandsWindowsAndTransfers_19b : ∃ (h : CasHdr) (x : XferArg) (b : BitVec 512) (q : Nat) (s : State),
    s.hears h = true ∧ h.dst.val = s.csIndex ∧ s.csWindow x.win x.off.toNat true = none ∧ s.csRoute h.src = some q :=
⟨hd 15, xa 7 0, 0xABCD, 3, rtd (win (cs 2) 1 0), by decide +kernel⟩
theorem wit_CascadeCommandsWindowsAndTransfers_20 : ∃ (h : CasHdr) (x : XferArg) (pa p : Nat) (s : State), s.hears h = true ∧
    h.dst.val = s.csIndex ∧ s.csWindow x.win x.off.toNat false = some (pa, p) ∧ pa < 2 ^ 52 ∧ p < 32 :=
⟨hd 15, xa 7 4032, 0x40FC0, 31, win (cs 2) 1 0, by decide +kernel⟩
theorem wit_CascadeCommandsWindowsAndTransfers_21 : ∃ (h : CasHdr) (x : XferArg) (q : Nat) (s : State), s.hears h = true ∧
    h.dst.val = s.csIndex ∧ s.csWindow x.win x.off.toNat false = none ∧ s.csRoute h.src = some q :=
⟨hd 15, xa 7 32, 3, rtd (win (cs 2) 1 0), by decide +kernel⟩
theorem wit_CascadeCommandsWindowsAndTransfers_22 : ∃ (h : CasHdr) (x : XferArg) (b : BitVec 512) (q : Nat) (s : State),
    s.hears h = true ∧ h.dst.val ≠ s.csIndex ∧ h.ttl ≠ 0 ∧ s.csRoute h.dst = some q :=
⟨hd 9, xa 7 32, 0xABCDEF, 3, rtd (cs 2), by decide +kernel⟩
theorem wit_CascadeCommandsWindowsAndTransfers_23 : ∃ (h : CasHdr) (x : XferArg) (b : BitVec 512) (s : State), s.csLink h.port
    = false :=
⟨{ hd 15 with port := 2 }, xa 7 32, 5, win (cs 2) 1 1, by decide +kernel⟩
theorem wit_CascadeCommandsWindowsAndTransfers_28 : ∃ (h : CasHdr) (x : XferArg) (r : Xfer) (i : Nat) (s : State), s.hears h =
    true ∧ h.dst.val = s.csIndex ∧ s.xferLine h.src 0 x = some (r, i) :=
⟨hd 15, xa5 64, xf 0 128 [0], 1, withF (cs 2) (xf 0 128 [0]), by decide +kernel⟩
theorem wit_CascadeCommandsWindowsAndTransfers_29 : ∃ (h : CasHdr) (x : XferArg) (s : State), s.hears h = true ∧ h.dst.val =
    s.csIndex ∧ s.xferLine h.src 0 x = none :=
⟨hd 15, xa5 0, withF (cs 2) (xf 0 128 [0]), by decide +kernel⟩
theorem wit_CascadeCommandsWindowsAndTransfers_30 : ∃ (h : CasHdr) (x : XferArg) (b : BitVec 512) (r : Xfer) (i : Nat) (s :
    State), s.hears h = true ∧ h.dst.val = s.csIndex ∧ s.xferLine h.src 1 x = some (r, i) ∧ s.rangeOk x.pol (s.polSecure
    x.pol) true (r.loc + 64 * i) 64 = true :=
⟨hd 15, xa5 64, 0xFEDC, xf 1 128 [0], 1, withF (cs 2) (xf 1 128 [0]), by decide +kernel⟩
theorem wit_CascadeCommandsWindowsAndTransfers_31 : ∃ (h : CasHdr) (x : XferArg) (b : BitVec 512) (s : State), s.hears h =
    true ∧ h.dst.val = s.csIndex ∧ s.xferLine h.src 1 x = none :=
⟨hd 15, xa5 128, 0xFEDC, withF (cs 2) (xf 1 128 [0]), by decide +kernel⟩
theorem wit_CascadeCommandsWindowsAndTransfers_32 : ∃ (p : Pol) (x : Xfer) (s : State), s.xfer p = some x ∧ s.xferUnreach x =
    false ∧ x.len ≤ x.got.length * 64 ∧ s.rangeOk p (s.polSecure p) true x.done 8 = true ∧ s.get .CS_SQTAIL_VALUE (instD p 0)
    = 0 ∧ (∀ q, s.polder p = some q → q.sendHead + 1 = q.sendSize) :=
⟨31, xf 1 128 [1, 0], rtd (withF mem (xf 1 128 [1, 0])), by decide +kernel⟩
theorem wit_CascadeCommandsWindowsAndTransfers_33 : ∃ (p : Pol) (x : Xfer) (s : State), s.xfer p = some x ∧ s.xferUnreach x =
    true ∧ s.rangeOk p (s.polSecure p) true x.done 8 = true ∧ (∀ q, s.polder p = some q → q.cports = 0) :=
⟨31, { xf 1 128 [1, 0] with unreach := true }, (rtd (withF mem { xf 1 128 [1, 0] with unreach := true })).put .CS_CNT_UNREACH
    0 0xFFFFFFFF, by decide +kernel⟩
theorem wit_CascadeCommandsWindowsAndTransfers_33b : ∃ (p : Pol) (x : Xfer) (s : State), s.xfer p = some x ∧ s.xferUnreach x =
    true ∧ s.rangeOk p (s.polSecure p) true x.done 8 = true ∧ (∀ q, s.polder p = some q → q.cports = 0) :=
⟨31, { xf 1 128 [] with lostAt := some 19000000 }, withF (cs 2) { xf 1 128 [] with lostAt := some 19000000 }, by
    decide +kernel⟩
theorem wit_CascadeCommandsWindowsAndTransfers_34 : ∃ (p : Pol) (x : Xfer) (s : State), s.xfer p = some x ∧ s.xferUnreach x =
    false ∧ x.got.length * 64 < x.len :=
⟨31, xf 1 128 [1], rtd (withF mem (xf 1 128 [1])), by decide +kernel⟩
theorem wit_CascadeCommandsWindowsAndTransfers_34b : ∃ (p : Pol) (x : Xfer) (s : State), s.xfer p = some x ∧ s.xferUnreach x =
    false ∧ x.got.length * 64 < x.len :=
⟨31, { xf 1 128 [1] with lostAt := some 19000001 }, withF (cs 2) { xf 1 128 [1] with lostAt := some 19000001 }, by
    decide +kernel⟩

end CascadeCommandsWindowsAndTransfers

namespace BermRetireAndBringIn

def bc (k i : Nat) : Cmd := sbc 0x60 0 k i
def inP : State := runP 5 4
def st (s : State) (g v : Nat) : State := s.updCore g fun c => { c with serv := v }
def mg : Migr := ⟨5, 18, 4, 0, false, false, false, 1, 0, none⟩
def withB (s : State) (f : Berm → Berm) : State := s.updBerm f

theorem wit_BermRetireAndBringIn_1 : ∃ (c : Cmd) (s : State), s.passes specBerm c = true ∧ ((bermIndexOk (bitsOf c.e.p0 3 0)
    c.e.p1 = false ∨ bitsOf c.e.p0 3 0 = 8)) :=
⟨bc 0 240, mem, by exact ⟨by decide +kernel, Or.inl (by decide +kernel)⟩⟩
theorem wit_BermRetireAndBringIn_1b : ∃ (c : Cmd) (s : State), s.passes specBerm c = true ∧ ((bermIndexOk (bitsOf c.e.p0 3 0)
    c.e.p1 = false ∨ bitsOf c.e.p0 3 0 = 8)) :=
⟨bc 8 1, mem, by exact ⟨by decide +kernel, Or.inr (by decide +kernel)⟩⟩
theorem wit_BermRetireAndBringIn_1c : ∃ (c : Cmd) (s : State), s.passes specBerm c = true ∧ ((bermIndexOk (bitsOf c.e.p0 3 0)
    c.e.p1 = false ∨ bitsOf c.e.p0 3 0 = 8)) :=
⟨bc 15 0, mem, by exact ⟨by decide +kernel, Or.inl (by decide +kernel)⟩⟩
theorem wit_BermRetireAndBringIn_2 : ∃ (c : Cmd) (s : State), s.passes specBerm c = true ∧ bitsOf c.e.p0 3 0 = 0 ∧ c.e.p1 <
    240 ∧ s.moving c.e.p1 = false ∧ (s.core c.e.p1).serv ≠ 2 ∧ (s.core c.e.p1).pol = 0 ∧ (s.die (dieOf c.e.p1)).state = 0 :=
⟨bc 0 239, mem, by decide +kernel⟩
theorem wit_BermRetireAndBringIn_2b : ∃ (c : Cmd) (s : State), s.passes specBerm c = true ∧ bitsOf c.e.p0 3 0 = 0 ∧ c.e.p1 <
    240 ∧ s.moving c.e.p1 = false ∧ (s.core c.e.p1).serv ≠ 2 ∧ (s.core c.e.p1).pol = 0 ∧ (s.die (dieOf c.e.p1)).state = 0 :=
⟨bc 0 0, mem, by decide +kernel⟩
theorem wit_BermRetireAndBringIn_3 : ∃ (c : Cmd) (s : State) (n : Nat), s.passes specBerm c = true ∧ bitsOf c.e.p0 3 0 = 0 ∧
    c.e.p1 < 240 ∧ s.moving c.e.p1 = false ∧ (s.core c.e.p1).serv ≠ 2 ∧ (s.core c.e.p1).pol ≠ 0 ∧ s.replacementFor c.e.p1 =
    some n :=
⟨bc 0 5, inP, 18, by decide +kernel⟩
theorem wit_BermRetireAndBringIn_4 : ∃ (c : Cmd) (s : State), s.passes specBerm c = true ∧ bitsOf c.e.p0 3 0 = 0 ∧ c.e.p1 <
    240 ∧ s.moving c.e.p1 = false ∧ (s.core c.e.p1).serv ≠ 2 ∧ (s.core c.e.p1).pol ≠ 0 ∧ s.replacementFor c.e.p1 = none :=
⟨bc 0 5, allCores.foldl (fun s g => if (s.core g).serv = 1 then st s g 2 else s) inP, by decide +kernel⟩
theorem wit_BermRetireAndBringIn_5 : ∃ (c : Cmd) (s : State), s.passes specBerm c = true ∧ bitsOf c.e.p0 3 0 = 0 ∧ c.e.p1 <
    240 ∧ s.moving c.e.p1 = true :=
⟨bc 0 5, withB inP fun b => { b with migr := [mg] }, by decide +kernel⟩
theorem wit_BermRetireAndBringIn_6 : ∃ (c : Cmd) (s : State), s.passes specBerm c = true ∧ bitsOf c.e.p0 3 0 = 1 ∧ c.e.p1 < 12
    ∧ (s.berm.dieRet.any fun x => x.1 == c.e.p1) = false ∧ (s.die c.e.p1).state = 0 ∧ (∀ g ∈ coresOfDie c.e.p1, (s.core g).pol
    = 0) :=
⟨bc 1 11, mem, by decide +kernel⟩
theorem wit_BermRetireAndBringIn_7 : ∃ (c : Cmd) (s : State), s.passes specBerm c = true ∧ bitsOf c.e.p0 3 0 = 1 ∧ c.e.p1 < 12
    ∧ (s.berm.dieRet.any fun x => x.1 == c.e.p1) = true :=
⟨bc 1 11, withB mem fun b => { b with dieRet := [(11, 4, none)] }, by decide +kernel⟩
theorem wit_BermRetireAndBringIn_8 : ∃ (c : Cmd) (s : State), s.passes specBerm c = true ∧ bitsOf c.e.p0 3 0 = 2 ∧ c.e.p1 <
    3840 ∧ s.berm.wayRet = [] ∧ ways (s.l2Retired (c.e.p1 / 16)) < 2 ∧ (s.l2Retired (c.e.p1 / 16)).testBit (c.e.p1 % 16) =
    false ∧ s.cacheWayFree 2 c.e.p1 = true :=
⟨bc 2 3839, mem, by decide +kernel⟩
theorem wit_BermRetireAndBringIn_9 : ∃ (c : Cmd) (s : State), s.passes specBerm c = true ∧ bitsOf c.e.p0 3 0 = 2 ∧ c.e.p1 <
    3840 ∧ s.berm.wayRet = [] ∧ ways (s.l2Retired (c.e.p1 / 16)) < 2 ∧ (s.l2Retired (c.e.p1 / 16)).testBit (c.e.p1 % 16) =
    false ∧ s.cacheWayFree 2 c.e.p1 = false :=
⟨bc 2 95, (withC inP 5 fun c => { c with l2 := [(0x40, some { line true true true with way := 15 })] }).updTick 5 fun t =>
    { t with isOpen := true }, by decide +kernel⟩
theorem wit_BermRetireAndBringIn_10 : ∃ (c : Cmd) (s : State), s.passes specBerm c = true ∧ bitsOf c.e.p0 3 0 = 4 ∧
    bermIndexOk 4 c.e.p1 = true ∧ s.isRetired 4 c.e.p1 = false ∧ (s.berm.wayRet.any fun x => x.1 == 4 && x.2.1 == c.e.p1) =
    false ∧ s.columnFree (c.e.p1 / 512) (c.e.p1 / 32 % 16) (c.e.p1 % 32) = true :=
⟨bc 4 1017, (mem.put .DIR_BANK_RETIRED (instH 1 15) 7), by decide +kernel⟩
theorem wit_BermRetireAndBringIn_10b : ∃ (c : Cmd) (s : State), s.passes specBerm c = true ∧ bitsOf c.e.p0 3 0 = 4 ∧
    bermIndexOk 4 c.e.p1 = true ∧ s.isRetired 4 c.e.p1 = false ∧ (s.berm.wayRet.any fun x => x.1 == 4 && x.2.1 == c.e.p1) =
    false ∧ s.columnFree (c.e.p1 / 512) (c.e.p1 / 32 % 16) (c.e.p1 % 32) = true :=
⟨bc 4 0, mem, by decide +kernel⟩
theorem wit_BermRetireAndBringIn_11 : ∃ (c : Cmd) (s : State), s.passes specBerm c = true ∧ bitsOf c.e.p0 3 0 = 5 ∧ c.e.p1 <
    16 ∧ s.guardedCfg = false :=
⟨bc 5 15, mem, by decide +kernel⟩
theorem wit_BermRetireAndBringIn_12 : ∃ (c : Cmd) (s : State), s.passes specBerm c = true ∧ bitsOf c.e.p0 3 0 = 5 ∧ c.e.p1 <
    16 ∧ s.guardedCfg = true ∧ s.mcState c.e.p1 = 2 :=
⟨bc 5 15, gd (chS 15 2), by decide +kernel⟩
theorem wit_BermRetireAndBringIn_13 : ∃ (c : Cmd) (s : State), s.passes specBerm c = true ∧ bitsOf c.e.p0 3 0 = 6 ∧
    bermIndexOk 6 c.e.p1 = true ∧ s.isRetired 6 c.e.p1 = false :=
⟨bc 6 27, (mem.setModState 1 11 2), by decide +kernel⟩
theorem wit_BermRetireAndBringIn_13b : ∃ (c : Cmd) (s : State), s.passes specBerm c = true ∧ bitsOf c.e.p0 3 0 = 6 ∧
    bermIndexOk 6 c.e.p1 = true ∧ s.isRetired 6 c.e.p1 = false :=
⟨bc 6 12, mem, by decide +kernel⟩
theorem wit_BermRetireAndBringIn_14 : ∃ (c : Cmd) (s : State), s.passes specBerm c = true ∧ bitsOf c.e.p0 3 0 = 7 ∧ c.e.p1 < 2
    ∧ s.isRetired 7 c.e.p1 = false ∧ s.activeHalf = c.e.p1 ∧ s.flag .CP_ROLE_STANDBY_READY 0 = false :=
⟨bc 7 0, sets mem [(.CP_ROLE_STANDBY_READY, 0, 0)], by decide +kernel⟩
theorem wit_BermRetireAndBringIn_15 : ∃ (c : Cmd) (s : State), s.passes specBerm c = true ∧ bitsOf c.e.p0 3 0 = 7 ∧ c.e.p1 < 2
    ∧ s.isRetired 7 c.e.p1 = false ∧ s.activeHalf = c.e.p1 ∧ s.flag .CP_ROLE_STANDBY_READY 0 = true :=
⟨bc 7 0, sets mem [(.CP_ROLE_STANDBY_READY, 0, 1)], by decide +kernel⟩
theorem wit_BermRetireAndBringIn_15b : ∃ (c : Cmd) (s : State), s.passes specBerm c = true ∧ bitsOf c.e.p0 3 0 = 7 ∧ c.e.p1 <
    2 ∧ s.isRetired 7 c.e.p1 = false ∧ s.activeHalf = c.e.p1 ∧ s.flag .CP_ROLE_STANDBY_READY 0 = true :=
⟨bc 7 1, sets mem [(.CP_ROLE_STANDBY_READY, 0, 1), (.CP_ROLE_ACTIVE, 0, 1)], by decide +kernel⟩
theorem wit_BermRetireAndBringIn_16 : ∃ (c : Cmd) (s : State), s.passes specBerm c = true ∧ bitsOf c.e.p0 3 0 = 7 ∧ c.e.p1 < 2
    ∧ s.isRetired 7 c.e.p1 = false ∧ s.activeHalf ≠ c.e.p1 :=
⟨bc 7 1, sets mem [(.CP_ROLE_STANDBY_READY, 0, 1)], by decide +kernel⟩
theorem wit_BermRetireAndBringIn_17 : ∃ (c : Cmd) (s : State), s.passes specBerm c = true ∧ bitsOf c.e.p0 3 0 = 9 ∧ c.e.p1 < 4
    ∧ s.isRetired 9 c.e.p1 = false ∧ s.get (goodFld (c.e.p1 / 2)) 0 = 2 ^ (c.e.p1 % 2) :=
⟨bc 9 3, mem.put .REF_STAT_GOOD_H1 0 2, by decide +kernel⟩
theorem wit_BermRetireAndBringIn_18 : ∃ (c : Cmd) (s : State), s.passes specBerm c = true ∧ bitsOf c.e.p0 3 0 = 9 ∧ c.e.p1 < 4
    ∧ s.isRetired 9 c.e.p1 = false ∧ s.get (goodFld (c.e.p1 / 2)) 0 = 3 :=
⟨bc 9 3, sets mem [(.REF_STAT_GOOD_H1, 0, 3), (.REF_STAT_SEL_H1, 0, 1)], by decide +kernel⟩
theorem wit_BermRetireAndBringIn_18b : ∃ (c : Cmd) (s : State), s.passes specBerm c = true ∧ bitsOf c.e.p0 3 0 = 9 ∧ c.e.p1 <
    4 ∧ s.isRetired 9 c.e.p1 = false ∧ s.get (goodFld (c.e.p1 / 2)) 0 = 3 :=
⟨bc 9 0, sets mem [(.REF_STAT_GOOD_H0, 0, 3), (.REF_STAT_SEL_H0, 0, 1)], by decide +kernel⟩
theorem wit_BermRetireAndBringIn_18c : ∃ (c : Cmd) (s : State), s.passes specBerm c = true ∧ bitsOf c.e.p0 3 0 = 9 ∧ c.e.p1 <
    4 ∧ s.isRetired 9 c.e.p1 = false ∧ s.get (goodFld (c.e.p1 / 2)) 0 = 3 :=
⟨bc 9 0, sets mem [(.REF_STAT_GOOD_H0, 0, 3), (.REF_STAT_SEL_H0, 0, 0)], by decide +kernel⟩
theorem wit_BermRetireAndBringIn_19 : ∃ (c : Cmd) (s : State), s.passes specBerm c = true ∧ ((bermIndexOk (bitsOf c.e.p0 3 0)
    c.e.p1 = false ∨ bitsOf c.e.p0 3 0 = 2 ∨ bitsOf c.e.p0 3 0 = 3 ∨ bitsOf c.e.p0 3 0 = 4)) :=
⟨bc 2 5, mem, by exact ⟨by decide +kernel, Or.inr (Or.inl (by decide +kernel))⟩⟩
theorem wit_BermRetireAndBringIn_19b : ∃ (c : Cmd) (s : State), s.passes specBerm c = true ∧ ((bermIndexOk (bitsOf c.e.p0 3 0)
    c.e.p1 = false ∨ bitsOf c.e.p0 3 0 = 2 ∨ bitsOf c.e.p0 3 0 = 3 ∨ bitsOf c.e.p0 3 0 = 4)) :=
⟨bc 6 13, mem, by exact ⟨by decide +kernel, Or.inl (by decide +kernel)⟩⟩
theorem wit_BermRetireAndBringIn_20 : ∃ (c : Cmd) (s : State), s.passes specBerm c = true ∧ bitsOf c.e.p0 3 0 = 0 ∧ c.e.p1 <
    240 ∧ (s.core c.e.p1).serv = 2 ∧ (s.die (dieOf c.e.p1)).state = 0 :=
⟨bc 0 239, st mem 239 2, by decide +kernel⟩
theorem wit_BermRetireAndBringIn_21 : ∃ (c : Cmd) (s : State), s.passes specBerm c = true ∧ bitsOf c.e.p0 3 0 = 0 ∧ c.e.p1 <
    240 ∧ (s.core c.e.p1).serv = 2 ∧ (s.die (dieOf c.e.p1)).state = 0 ∧ (0, c.e.p1, 2) ∈ s.berm.retired ∧ s.get .AG_MARGIN_NOW
    (instC c.e.p1) < s.agWarn (dieOf c.e.p1) :=
⟨bc 0 239, withB (sets (st mem 239 2) [(.AG_MARGIN_NOW, instC 239, 9), (.AG_CTL_AG_WARN, instD 11 0, 10)]) fun b =>
    { b with retired := [(0, 239, 2)] }, by decide +kernel⟩
theorem wit_BermRetireAndBringIn_22 : ∃ (c : Cmd) (s : State), s.passes specBerm c = true ∧ bitsOf c.e.p0 3 0 = 1 ∧ c.e.p1 <
    12 ∧ (s.berm.dieRet.any fun x => x.1 == c.e.p1) = false ∧ (s.die c.e.p1).state ≠ 0 ∧ (s.pow.bad.any fun x => x.1 == 7 +
    c.e.p1) = false :=
⟨bc 1 11, withB (mem.updDie 11 fun d => { d with state := 2 }) fun b => { b with retired := [(0, 225, 2), (1, 11, 4)] }, by
    decide +kernel⟩
theorem wit_BermRetireAndBringIn_23 : ∃ (c : Cmd) (s : State), s.passes specBerm c = true ∧ bitsOf c.e.p0 3 0 = 5 ∧ c.e.p1 <
    16 ∧ s.mcState c.e.p1 = 3 :=
⟨bc 5 15, gd (chS 15 3), by decide +kernel⟩
theorem wit_BermRetireAndBringIn_24 : ∃ (c : Cmd) (s : State), s.passes specBerm c = true ∧ bitsOf c.e.p0 3 0 = 5 ∧ c.e.p1 <
    16 ∧ s.mcState c.e.p1 = 4 :=
⟨bc 5 15, gd (chS 15 4), by decide +kernel⟩
theorem wit_BermRetireAndBringIn_25 : ∃ (c : Cmd) (s : State), s.passes specBerm c = true ∧ bitsOf c.e.p0 3 0 = 6 ∧
    bermIndexOk 6 c.e.p1 = true ∧ s.isRetired 6 c.e.p1 = true :=
⟨bc 6 27, withB mem fun b => { b with retired := [(6, 27, 4)] }, by decide +kernel⟩
theorem wit_BermRetireAndBringIn_26 : ∃ (c : Cmd) (s : State), s.passes specBerm c = true ∧ bitsOf c.e.p0 3 0 = 7 ∧ c.e.p1 < 2
    ∧ s.activeHalf ≠ c.e.p1 ∧ s.flag .CP_ROLE_STANDBY_READY 0 = false :=
⟨bc 7 1, withB mem fun b => { b with retired := [(7, 1, 4)] }, by decide +kernel⟩
theorem wit_BermRetireAndBringIn_27 : ∃ (c : Cmd) (s : State) (h : Nat), s.passes specBerm c = true ∧ bitsOf c.e.p0 3 0 = 8 ∧
    c.e.p1 = h ∧ h < 2 ∧ s.halfReturning.get h = false ∧ s.canReturn h = true ∧ (s.get .PM_RAIL_HUB_OK (instH (1 - h)
    0)).testBit h = true :=
⟨bc 8 1, { (gd mem).put .PM_RAIL_HUB_OK (instH 0 0) 3 with halfLost := ⟨false, true⟩ }, 1, by decide +kernel⟩
theorem wit_BermRetireAndBringIn_27b : ∃ (c : Cmd) (s : State) (h : Nat), s.passes specBerm c = true ∧ bitsOf c.e.p0 3 0 = 8 ∧
    c.e.p1 = h ∧ h < 2 ∧ s.halfReturning.get h = false ∧ s.canReturn h = true ∧ (s.get .PM_RAIL_HUB_OK (instH (1 - h)
    0)).testBit h = true :=
⟨bc 8 0, { (gd mem).put .PM_RAIL_HUB_OK (instH 1 0) 3 with halfLost := ⟨true, false⟩ }, 0, by decide +kernel⟩
theorem wit_BermRetireAndBringIn_28 : ∃ (c : Cmd) (s : State) (h : Nat), s.passes specBerm c = true ∧ bitsOf c.e.p0 3 0 = 8 ∧
    c.e.p1 = h ∧ h < 2 ∧ s.halfReturning.get h = true :=
⟨bc 8 1, { gd mem with halfReturning := ⟨false, true⟩ }, 1, by decide +kernel⟩
theorem wit_BermRetireAndBringIn_29 : ∃ (c : Cmd) (s : State), s.passes specBerm c = true ∧ bitsOf c.e.p0 3 0 = 9 ∧ c.e.p1 < 4
    ∧ s.isRetired 9 c.e.p1 = true :=
⟨bc 9 3, withB (mem.put .REF_STAT_GOOD_H1 0 1) fun b => { b with retired := [(9, 3, 4)] }, by decide +kernel⟩

end BermRetireAndBringIn

namespace MigrationAgeingAndDieLoss

def inP : State := runP 5 4
def withB (s : State) (f : Berm → Berm) : State := s.updBerm f
def way (s : State) (k : Nat) : State := s.updDie 11 fun d => { d with wayCe := [(k, (0, 2))] }
def mg : Migr := ⟨5, 18, 4, 0, false, false, false, 1, 0, none⟩
def sv : Save := ⟨0x1234, [(31, 7)], [(31, 9)], [(0, 1)], 2, false⟩
def moved : Migr := { mg with moved := true }
def ldS : State := withB (withC (withC inP 5 fun c => { c with save := some sv, pow := 3 }) 5 fun c => { c with t := { c.t with recovering := true } }) fun b => { b with migr := [⟨7, 5, 4, 0, false, true, false, 1, 0, none⟩] }

theorem wit_MigrationAgeingAndDieLoss_1 : ∃ (g : GCore) (x : Migr) (s : State), s.migrFrom g = some x ∧ s.migrReady x = true ∧
    (s.core x.new).serv = 1 ∧ x.new ≠ g.val ∧ x.new < 240 ∧ (s.berm.dieRet.any fun z => z.1 == dieOf g) = false ∧ (s.die
    (dieOf g)).state = 0 :=
⟨5, { mg with armNum := 9 }, withB (withC inP 5 fun c => { c with pow := 1 }) fun b =>
    { b with migr := [{ mg with armNum := 9 }] }, by decide +kernel⟩
theorem wit_MigrationAgeingAndDieLoss_2 : ∃ (g : GCore) (s : State), s.migrFrom g = none :=
⟨239, mem, by decide +kernel⟩
theorem wit_MigrationAgeingAndDieLoss_3 : ∃ (g : GCore) (x : Migr) (s : State), s.migrFrom g = some x ∧ s.migrReady x = false
    :=
⟨5, { mg with armOpen := true }, withB (withT inP 5 fun t => { t with isOpen := true }) fun b =>
    { b with migr := [{ mg with armOpen := true }] }, by decide +kernel⟩
theorem wit_MigrationAgeingAndDieLoss_4 : ∃ (p : Pol) (l : Byte) (n : Nat) (x : Migr) (v : Save) (s : State), s.coreOf p
    l.toNat = some n ∧ (s.berm.migr.find? fun x => x.new == n && x.moved && !x.faulted) = some x ∧ (s.core n).save = some v ∧
    s.coreGuarded n = false ∧ (s.core n).t.waiting = false :=
⟨1, 0, 5, ⟨7, 5, 4, 0, false, true, false, 1, 0, none⟩, sv, ldS, by decide +kernel⟩
theorem wit_MigrationAgeingAndDieLoss_5 : ∃ (p : Pol) (l : Byte) (s : State), s.coreOf p l.toNat = none :=
⟨1, 255, ldS, by decide +kernel⟩
theorem wit_MigrationAgeingAndDieLoss_6 : ∃ (d : Die) (s : State), (s.die d).state = 0 ∧ (∀ g ∈ coresOfDie d, (s.core g).pol =
    0) :=
⟨11, mem, by decide +kernel⟩
theorem wit_MigrationAgeingAndDieLoss_6b : ∃ (d : Die) (s : State), (s.die d).state = 0 ∧ (∀ g ∈ coresOfDie d, (s.core g).pol
    = 0) :=
⟨0, withB mem fun b => { b with dieRet := [(0, 2, none)] }, by decide +kernel⟩
theorem wit_MigrationAgeingAndDieLoss_7 : ∃ (d : Die) (s : State), (s.die d).state ≠ 0 :=
⟨11, mem.updDie 11 fun d => { d with state := 2 }, by decide +kernel⟩
theorem wit_MigrationAgeingAndDieLoss_8 : ∃ (d : Die) (s : State), (s.berm.dieRet.any fun x => x.1 == d.val) = true ∧
    s.dieEmpty d = false :=
⟨0, withB inP fun b => { b with dieRet := [(0, 2, none)] }, by decide +kernel⟩
theorem wit_MigrationAgeingAndDieLoss_9 : ∃ (d : Die) (s : State), (s.die d).state ≠ 1 ∧ (s.die d).state ≠ 2 :=
⟨11, mem, by decide +kernel⟩
theorem wit_MigrationAgeingAndDieLoss_9b : ∃ (d : Die) (s : State), (s.die d).state ≠ 1 ∧ (s.die d).state ≠ 2 :=
⟨0, inP, by decide +kernel⟩
theorem wit_MigrationAgeingAndDieLoss_9c : ∃ (d : Die) (s : State), (s.die d).state ≠ 1 ∧ (s.die d).state ≠ 2 :=
⟨0, inP.updDie 0 fun d => { d with state := 3 }, by decide +kernel⟩
theorem wit_MigrationAgeingAndDieLoss_10 : ∃ (d : Die) (s : State), (((s.die d).state = 1 ∨ (s.die d).state = 2)) :=
⟨11, mem.updDie 11 fun d => { d with state := 2 }, by exact Or.inr (by decide +kernel)⟩
theorem wit_MigrationAgeingAndDieLoss_11 : ∃ (g : GCore) (w : Fin 16) (s : State), s.get .L2_ECC_ECC_THRESH (instC g) ≠ 0 ∧
    (s.l2Retired g).testBit w = false ∧ s.get .L2_ECC_ECC_THRESH (instC g) < s.wayCount (dieOf g) (g % 20 * 16 + w) ∧ ways
    (s.l2Retired g) < 2 ∧ s.berm.wayRet = [] ∧ s.cacheWayFree 2 (g * 16 + w) = true :=
⟨239, 15, way (mem.put .L2_ECC_ECC_THRESH (instC 239) 1) 319, by decide +kernel⟩
theorem wit_MigrationAgeingAndDieLoss_12 : ∃ (d : Die) (sl : Fin 20) (w : Fin 16) (s : State), s.get .DC_CTL_ECC_THRESH (instD
    d 0) ≠ 0 ∧ s.get .DC_CTL_ECC_THRESH (instD d 0) < s.wayCount d (512 + sl * 16 + w) ∧ (s.get .DC_SLICE_RETIRED (instD d
    sl)).testBit w = false ∧ ways (s.get .DC_SLICE_RETIRED (instD d sl)) < 2 ∧ s.berm.wayRet = [] ∧ s.cacheWayFree 3 (d * 512
    + sl * 16 + w) = true :=
⟨11, 19, 15, way (sets mem [(.DC_CTL_ECC_THRESH, instD 11 0, 1), (.DC_SLICE_SPARE_USED, instD 11 19, 1), (.DC_SLICE_RETIRED,
    instD 11 19, 1)]) 831, by decide +kernel⟩
theorem wit_MigrationAgeingAndDieLoss_12b : ∃ (d : Die) (sl : Fin 20) (w : Fin 16) (s : State), s.get .DC_CTL_ECC_THRESH
    (instD d 0) ≠ 0 ∧ s.get .DC_CTL_ECC_THRESH (instD d 0) < s.wayCount d (512 + sl * 16 + w) ∧ (s.get .DC_SLICE_RETIRED
    (instD d sl)).testBit w = false ∧ ways (s.get .DC_SLICE_RETIRED (instD d sl)) < 2 ∧ s.berm.wayRet = [] ∧ s.cacheWayFree 3
    (d * 512 + sl * 16 + w) = true :=
⟨11, 19, 15, way (sets mem [(.DC_CTL_ECC_THRESH, instD 11 0, 1)]) 831, by decide +kernel⟩
theorem wit_MigrationAgeingAndDieLoss_13 : ∃ (g : GCore) (w : Fin 16) (s : State), s.get .L2_ECC_ECC_THRESH (instC g) = 0 :=
⟨239, 15, mem.put .L2_ECC_ECC_THRESH (instC 239) 0, by decide +kernel⟩
theorem wit_MigrationAgeingAndDieLoss_14 : ∃ (d : Die) (sl : Fin 20) (w : Fin 16) (s : State), s.get .DC_CTL_ECC_THRESH (instD
    d 0) = 0 :=
⟨11, 19, 15, mem.put .DC_CTL_ECC_THRESH (instD 11 0) 0, by decide +kernel⟩
theorem wit_MigrationAgeingAndDieLoss_16 : ∃ s : State, s.cp.spareBlocks ≠ 0 :=
⟨mem.updCp fun c => { c with spareBlocks := 1 }, by decide +kernel⟩
theorem wit_MigrationAgeingAndDieLoss_17 : ∃ s : State, s.cp.spareBlocks = 0 :=
⟨mem.updCp fun c => { c with spareBlocks := 0 }, by decide +kernel⟩
theorem wit_MigrationAgeingAndDieLoss_18 : ∃ (h : Half) (s : State), s.canReturn h = true :=
⟨1, { gd mem with halfLost := ⟨false, true⟩ }, by decide +kernel⟩
theorem wit_MigrationAgeingAndDieLoss_19 : ∃ (h : Half) (s : State), s.canReturn h = false :=
⟨1, gd mem, by decide +kernel⟩

end MigrationAgeingAndDieLoss

namespace EndpointResetsConfigurationAndLinkPower

def pe : State := (sets (mem.updPe 3 fun p => { p with perst := false }) [(.PE_STAT_READY, instPe 3, 1), (.PE_STAT_LINK, instPe 3, 2), (.PE_CFG_MODE, instPe 3, 1)])
def withP (s : State) (f : PeSt → PeSt) : State := s.updPe 3 f
def r3 : Running := ⟨.pcie 3, 5, ent 0x10 0 0 0, 0, 0, 0, false, none, false, true, 0, none, [], false⟩
def r2 : Running := ⟨.pcie 2, 5, ent 0x10 0 0 0, 0, 0, 0, false, none, false, false, 0, none, [], false⟩
def busy : State :=
  ((((withP (sets pe [(.PE_STAT_D3, instPe 3, 1), (.QRB_CTL_EN, qKey 3 0, 1)]) fun p => { p with intx := true, pba := [(5, 1)], msixAddr := [(4, 4)], msixMask := [(4, 0)] }).setSq (qKey 3 63) (some sq0)).setCq (qKey 3 63) (some cq0)).updCp fun c => { c with running := [r3, r2] })
def urg : State := pe.setSq (qKey 3 63) (some { sq0 with cls := 0 })

theorem wit_EndpointResetsConfigurationAndLinkPower_1 : ∃ (e : Fin 4) (s : State), s.isEndpoint e = true :=
⟨3, busy, by decide +kernel⟩
theorem wit_EndpointResetsConfigurationAndLinkPower_2 : ∃ (e : Fin 4) (s : State), s.isEndpoint e = false :=
⟨2, pe.put .PE_CFG_MODE (instPe 2) 3, by decide +kernel⟩
theorem wit_EndpointResetsConfigurationAndLinkPower_3 : ∃ (e : Fin 4) (b : Bool) (s : State), s.isEndpoint e = true :=
⟨3, true, pe, by decide +kernel⟩
theorem wit_EndpointResetsConfigurationAndLinkPower_3b : ∃ (e : Fin 4) (b : Bool) (s : State), s.isEndpoint e = true :=
⟨3, false, busy, by decide +kernel⟩
theorem wit_EndpointResetsConfigurationAndLinkPower_4 : ∃ (e : Fin 4) (b : Bool) (s : State), s.isEndpoint e = false :=
⟨2, true, pe.put .PE_CFG_MODE (instPe 2) 3, by decide +kernel⟩
theorem wit_EndpointResetsConfigurationAndLinkPower_8 : ∃ (e : Fin 4) (s : State), s.peOn e = true :=
⟨3, withP pe fun p => { p with perst := true }, by decide +kernel⟩
theorem wit_EndpointResetsConfigurationAndLinkPower_8b : ∃ (e : Fin 4) (s : State), s.peOn e = true :=
⟨2, pe.put .PE_CFG_MODE (instPe 2) 4, by decide +kernel⟩
theorem wit_EndpointResetsConfigurationAndLinkPower_9 : ∃ (e : Fin 4) (s : State), s.peOn e = false :=
⟨3, pe.put .PE_CFG_MODE (instPe 3) 5, by decide +kernel⟩
theorem wit_EndpointResetsConfigurationAndLinkPower_10 : ∃ (e : Fin 4) (sp : Fin 7) (w : Fin 17) (f : Bool) (s : State),
    s.peOn e = true ∧ (s.peSt e).perst = false :=
⟨3, 6, 16, true, pe.put .PE_CFG_MAX_SPEED (instPe 3) 7, by decide +kernel⟩
theorem wit_EndpointResetsConfigurationAndLinkPower_10b : ∃ (e : Fin 4) (sp : Fin 7) (w : Fin 17) (f : Bool) (s : State),
    s.peOn e = true ∧ (s.peSt e).perst = false :=
⟨3, 6, 16, false, sets pe [(.PE_CFG_MAX_SPEED, instPe 3, 3), (.PE_CFG_MODE, instPe 3, 2)], by decide +kernel⟩
theorem wit_EndpointResetsConfigurationAndLinkPower_11 : ∃ (e : Fin 4) (sp : Fin 7) (w : Fin 17) (f : Bool) (s : State),
    (s.peSt e).perst = true :=
⟨3, 6, 16, true, withP pe fun p => { p with perst := true }, by decide +kernel⟩
theorem wit_EndpointResetsConfigurationAndLinkPower_12 : ∃ (e : Fin 4) (s : State), s.isEndpoint e = true ∧ s.bootGood = true
    ∧ (s.peSt e).perst = false ∧ 2 ≤ s.get .PE_STAT_LINK (instPe e) :=
⟨3, (pe.put .PE_STAT_READY (instPe 3) 0).updCp fun c => { c with runActive := some 1 }, by decide +kernel⟩
theorem wit_EndpointResetsConfigurationAndLinkPower_13 : ∃ (e : Fin 4) (s : State), s.bootGood = false :=
⟨3, pe.updCp fun c => { c with recovery := true }, by decide +kernel⟩
theorem wit_EndpointResetsConfigurationAndLinkPower_14 : ∃ (e : Fin 4) (y w : Bool) (o : BitVec 12) (v : BitVec 32) (s :
    State), s.isEndpoint e = true ∧ s.lost (e / 2) = false ∧ (s.peSt e).perst = false ∧ s.flag .PE_STAT_READY (instPe e) =
    false :=
⟨3, true, true, 0xFFF, 5, sets pe [(.PE_STAT_READY, instPe 3, 0), (.PE_CNT_RRS, instPe 3, 0xFFFFFFFF)], by decide +kernel⟩
theorem wit_EndpointResetsConfigurationAndLinkPower_15 : ∃ (e : Fin 4) (y w : Bool) (o : BitVec 12) (v : BitVec 32) (s :
    State), s.lost (e / 2) = true :=
⟨3, true, true, 0xFFF, 5, { pe with halfLost := ⟨false, true⟩ }, by decide +kernel⟩
theorem wit_EndpointResetsConfigurationAndLinkPower_17 : ∃ (e : Fin 4) (o : BitVec 12) (v : BitVec 32) (s : State),
    s.isEndpoint e = true ∧ s.lost (e / 2) = false ∧ (s.peSt e).perst = false ∧ s.flag .PE_STAT_READY (instPe e) = true :=
⟨3, 3, 0, pe, by decide +kernel⟩
theorem wit_EndpointResetsConfigurationAndLinkPower_17b : ∃ (e : Fin 4) (o : BitVec 12) (v : BitVec 32) (s : State),
    s.isEndpoint e = true ∧ s.lost (e / 2) = false ∧ (s.peSt e).perst = false ∧ s.flag .PE_STAT_READY (instPe e) = true :=
⟨3, 8, 0, pe, by decide +kernel⟩
theorem wit_EndpointResetsConfigurationAndLinkPower_17c : ∃ (e : Fin 4) (o : BitVec 12) (v : BitVec 32) (s : State),
    s.isEndpoint e = true ∧ s.lost (e / 2) = false ∧ (s.peSt e).perst = false ∧ s.flag .PE_STAT_READY (instPe e) = true :=
⟨3, 0x37, 0, pe, by decide +kernel⟩
theorem wit_EndpointResetsConfigurationAndLinkPower_17d : ∃ (e : Fin 4) (o : BitVec 12) (v : BitVec 32) (s : State),
    s.isEndpoint e = true ∧ s.lost (e / 2) = false ∧ (s.peSt e).perst = false ∧ s.flag .PE_STAT_READY (instPe e) = true :=
⟨3, 0x250, 0, pe.put .PW_EPOCH_CURRENT (instPe 3) 0xFFFFFFFF, by decide +kernel⟩
theorem wit_EndpointResetsConfigurationAndLinkPower_16 : ∃ (e : Fin 4) (w : Bool) (o : BitVec 12) (v : BitVec 32) (s : State),
    s.isEndpoint e = true ∧ s.lost (e / 2) = false ∧ (s.peSt e).perst = false ∧ s.flag .PE_STAT_READY (instPe e) = true :=
⟨3, true, 0x58, 0x8000, busy, by decide +kernel⟩
theorem wit_EndpointResetsConfigurationAndLinkPower_18 : ∃ (e : Fin 4) (o : BitVec 12) (v : BitVec 32) (s : State),
    s.isEndpoint e = true ∧ s.lost (e / 2) = false ∧ (s.peSt e).perst = false ∧ s.flag .PE_STAT_READY (instPe e) = true :=
⟨3, 4, 0xFFFFFFFF, pe, by decide +kernel⟩
theorem wit_EndpointResetsConfigurationAndLinkPower_18b : ∃ (e : Fin 4) (o : BitVec 12) (v : BitVec 32) (s : State),
    s.isEndpoint e = true ∧ s.lost (e / 2) = false ∧ (s.peSt e).perst = false ∧ s.flag .PE_STAT_READY (instPe e) = true :=
⟨3, 4, 2, pe, by decide +kernel⟩
theorem wit_EndpointResetsConfigurationAndLinkPower_18c : ∃ (e : Fin 4) (o : BitVec 12) (v : BitVec 32) (s : State),
    s.isEndpoint e = true ∧ s.lost (e / 2) = false ∧ (s.peSt e).perst = false ∧ s.flag .PE_STAT_READY (instPe e) = true :=
⟨3, 0x44, 3, pe, by decide +kernel⟩
theorem wit_EndpointResetsConfigurationAndLinkPower_18d : ∃ (e : Fin 4) (o : BitVec 12) (v : BitVec 32) (s : State),
    s.isEndpoint e = true ∧ s.lost (e / 2) = false ∧ (s.peSt e).perst = false ∧ s.flag .PE_STAT_READY (instPe e) = true :=
⟨3, 0x44, 1, busy, by decide +kernel⟩
theorem wit_EndpointResetsConfigurationAndLinkPower_18e : ∃ (e : Fin 4) (o : BitVec 12) (v : BitVec 32) (s : State),
    s.isEndpoint e = true ∧ s.lost (e / 2) = false ∧ (s.peSt e).perst = false ∧ s.flag .PE_STAT_READY (instPe e) = true :=
⟨3, 0x58, 0x8000, busy, by decide +kernel⟩
theorem wit_EndpointResetsConfigurationAndLinkPower_19 : ∃ (e : Fin 4) (s : State), s.isEndpoint e = true ∧ s.get
    .PE_STAT_LINK (instPe e) = 2 ∧ (s.cfgHalf e 0x60).testBit 1 = true ∧ s.urgentSq e = false ∧ s.standby = false :=
⟨3, (pe.cfgStore 3 0x60 2).put .PE_CNT_L1_ENTRIES (instPe 3) 0xFFFFFFFF, by decide +kernel⟩
theorem wit_EndpointResetsConfigurationAndLinkPower_20 : ∃ (e : Fin 4) (s : State), ((s.urgentSq e = true ∨ s.standby = true))
    :=
⟨3, urg, by exact Or.inl (by decide +kernel)⟩
theorem wit_EndpointResetsConfigurationAndLinkPower_20b : ∃ (e : Fin 4) (s : State), ((s.urgentSq e = true ∨ s.standby =
    true)) :=
⟨3, pe.put .PM_PKG_STATE 0 1, by exact Or.inr (by decide +kernel)⟩
theorem wit_EndpointResetsConfigurationAndLinkPower_21 : ∃ (e : Fin 4) (n : Nat) (s : State), s.isEndpoint e = true ∧ s.flag
    .PE_STAT_FLIT (instPe e) = true ∧ s.get .PE_STAT_LINK (instPe e) = 2 ∧ s.get .PE_STAT_WIDTH (instPe e) ≤ 16 :=
⟨3, 399, sets pe [(.PE_STAT_FLIT, instPe 3, 1), (.PE_STAT_WIDTH, instPe 3, 16), (.PE_PM_L0P_EN, instPe 3, 1)], by
    decide +kernel⟩
theorem wit_EndpointResetsConfigurationAndLinkPower_21b : ∃ (e : Fin 4) (n : Nat) (s : State), s.isEndpoint e = true ∧ s.flag
    .PE_STAT_FLIT (instPe e) = true ∧ s.get .PE_STAT_LINK (instPe e) = 2 ∧ s.get .PE_STAT_WIDTH (instPe e) ≤ 16 :=
⟨3, 400, sets pe [(.PE_STAT_FLIT, instPe 3, 1), (.PE_STAT_WIDTH, instPe 3, 16), (.PE_PM_L0P_EN, instPe 3, 1)], by
    decide +kernel⟩
theorem wit_EndpointResetsConfigurationAndLinkPower_21c : ∃ (e : Fin 4) (n : Nat) (s : State), s.isEndpoint e = true ∧ s.flag
    .PE_STAT_FLIT (instPe e) = true ∧ s.get .PE_STAT_LINK (instPe e) = 2 ∧ s.get .PE_STAT_WIDTH (instPe e) ≤ 16 :=
⟨3, 400, sets pe [(.PE_STAT_FLIT, instPe 3, 1), (.PE_STAT_WIDTH, instPe 3, 16), (.PM_PKG_STATE, 0, 1)], by decide +kernel⟩
theorem wit_EndpointResetsConfigurationAndLinkPower_22 : ∃ (e : Fin 4) (n : Nat) (s : State), s.flag .PE_STAT_FLIT (instPe e)
    = false :=
⟨3, 0, pe.put .PE_STAT_FLIT (instPe 3) 0, by decide +kernel⟩
theorem wit_EndpointResetsConfigurationAndLinkPower_23 : ∃ (e : Fin 4) (s : State), s.isEndpoint e = true ∧ (s.peSt e).ltr ≠
    (if s.urgentSq e then 2 else 100) :=
⟨3, withP urg fun p => { p with ltr := 100 }, by decide +kernel⟩
theorem wit_EndpointResetsConfigurationAndLinkPower_23b : ∃ (e : Fin 4) (s : State), s.isEndpoint e = true ∧ (s.peSt e).ltr ≠
    (if s.urgentSq e then 2 else 100) :=
⟨3, withP pe fun p => { p with ltr := 2 }, by decide +kernel⟩
theorem wit_EndpointResetsConfigurationAndLinkPower_24 : ∃ (e : Fin 4) (s : State), s.isEndpoint e = false :=
⟨2, pe.put .PE_CFG_MODE (instPe 2) 3, by decide +kernel⟩

end EndpointResetsConfigurationAndLinkPower

namespace EndpointWindowsAndInterrupts

def pe : State := (sets (mem.updPe 3 fun p => { p with perst := false }) [(.PE_STAT_READY, instPe 3, 1), (.PE_STAT_LINK, instPe 3, 3), (.PE_CFG_MODE, instPe 3, 1)]).cfgStore 3 4 6
def withP (s : State) (f : PeSt → PeSt) : State := s.updPe 3 f
def wi : Nat := instH 1 (32 + 31)
def win (l : List (Fld × Nat × Nat)) : State :=
  sets pe ([(.PW_ATTR_VALID, wi, 1), (.PW_BASE_ADDR, wi, 1), (.PW_LIM_ADDR, wi, 1), (.PW_TGT_ADDR, wi, 0x40), (.PW_ATTR_POLDER, wi, 31), (.PE_CNT_REFUSED, instPe 3, 0xFFFFFFFFFFFF)] ++ l)
def r3 : Running := ⟨.pcie 3, 5, ent 0x10 0 0 0, 0, 0, 0, false, none, false, false, 0, none, [], false⟩
def msx (s : State) (m : Nat) : State := withP s fun p => { p with cfg := Tbl.insert 0xB2 m (Tbl.erase p.cfg 0xB2) }
def wc (t : Nat) : Cmd := sbc 0x70 0 t 0
def full : BitVec 64 := 0xFFFFFFFFFFFFFFFF

theorem wit_EndpointWindowsAndInterrupts_1 : ∃ (e : Fin 4) (req : BarReq) (start off : Word) (m : BitVec 64) (b : BitVec 512)
    (ep ro : Bool) (s : State), (((s.peSt e).perst = true ∨ s.lost (e / 2) = true ∨ s.peOn e = false)) :=
⟨3, .write, 0, 0, full, 5, false, false, withP pe fun p => { p with perst := true }, by exact Or.inl (by decide +kernel)⟩
theorem wit_EndpointWindowsAndInterrupts_2 : ∃ (e : Fin 4) (req : BarReq) (start off : Word) (m : BitVec 64) (b : BitVec 512)
    (ep ro : Bool) (s : State), s.isEndpoint e = true ∧ s.lost (e / 2) = false ∧ (s.peSt e).perst = false ∧ (((s.cfgHalf e
    0x04).testBit 1 = false ∨ req = .atomic ∨ req = .io)) :=
⟨3, .write, 0, 0, full, 5, false, false, pe.cfgStore 3 4 4, by exact ⟨by decide +kernel, by decide +kernel, by decide +kernel,
    Or.inl (by decide +kernel)⟩⟩
theorem wit_EndpointWindowsAndInterrupts_2b : ∃ (e : Fin 4) (req : BarReq) (start off : Word) (m : BitVec 64) (b : BitVec 512)
    (ep ro : Bool) (s : State), s.isEndpoint e = true ∧ s.lost (e / 2) = false ∧ (s.peSt e).perst = false ∧ (((s.cfgHalf e
    0x04).testBit 1 = false ∨ req = .atomic ∨ req = .io)) :=
⟨3, .atomic, 0, 0, full, 5, false, false, pe, by exact ⟨by decide +kernel, by decide +kernel, by decide +kernel, Or.inr
    (Or.inl rfl)⟩⟩
theorem wit_EndpointWindowsAndInterrupts_3 : ∃ (e : Fin 4) (req : BarReq) (start off : Word) (m : BitVec 64) (b : BitVec 512)
    (ep ro : Bool) (s : State), s.peOn e = true ∧ s.lost (e / 2) = false ∧ (s.peSt e).perst = false ∧ (s.isEndpoint e = true →
    (s.cfgHalf e 0x04).testBit 1 = true) ∧ ((req = .read ∨ req = .write)) ∧ ((s.peWindow e start.toNat = none ∨ ∃ n,
    s.peWindow e start.toNat = some n ∧ (s.flag (if req = .write then .PW_ATTR_WR else .PW_ATTR_RD) (instH (e / 2) (e % 2 * 32
    + n)) = false ∨ s.peLimit e n < off.toNat / 64 * 64 + firstByte m ∨ 2 ^ (30 + s.bar2Log e) ≤ off.toNat / 64 * 64 +
    firstByte m))) :=
⟨3, .read, 0x2000, 0x2000, full, 5, false, false, win [(.PW_ATTR_RD, wi, 1)], by exact ⟨by decide +kernel, by decide +kernel,
    by decide +kernel, fun _ => by decide +kernel, Or.inl rfl, Or.inl (by decide +kernel)⟩⟩
theorem wit_EndpointWindowsAndInterrupts_3b : ∃ (e : Fin 4) (req : BarReq) (start off : Word) (m : BitVec 64) (b : BitVec 512)
    (ep ro : Bool) (s : State), s.peOn e = true ∧ s.lost (e / 2) = false ∧ (s.peSt e).perst = false ∧ (s.isEndpoint e = true →
    (s.cfgHalf e 0x04).testBit 1 = true) ∧ ((req = .read ∨ req = .write)) ∧ ((s.peWindow e start.toNat = none ∨ ∃ n,
    s.peWindow e start.toNat = some n ∧ (s.flag (if req = .write then .PW_ATTR_WR else .PW_ATTR_RD) (instH (e / 2) (e % 2 * 32
    + n)) = false ∨ s.peLimit e n < off.toNat / 64 * 64 + firstByte m ∨ 2 ^ (30 + s.bar2Log e) ≤ off.toNat / 64 * 64 +
    firstByte m))) :=
⟨3, .write, 0x1FC0, 0x1FC0, full, 5, true, false, win [(.PW_ATTR_RD, wi, 1)], by exact ⟨by decide +kernel, by decide +kernel,
    by decide +kernel, fun _ => by decide +kernel, Or.inr rfl, Or.inr ⟨31, by decide +kernel, Or.inl (by decide +kernel)⟩⟩⟩
theorem wit_EndpointWindowsAndInterrupts_3c : ∃ (e : Fin 4) (req : BarReq) (start off : Word) (m : BitVec 64) (b : BitVec 512)
    (ep ro : Bool) (s : State), s.peOn e = true ∧ s.lost (e / 2) = false ∧ (s.peSt e).perst = false ∧ (s.isEndpoint e = true →
    (s.cfgHalf e 0x04).testBit 1 = true) ∧ ((req = .read ∨ req = .write)) ∧ ((s.peWindow e start.toNat = none ∨ ∃ n,
    s.peWindow e start.toNat = some n ∧ (s.flag (if req = .write then .PW_ATTR_WR else .PW_ATTR_RD) (instH (e / 2) (e % 2 * 32
    + n)) = false ∨ s.peLimit e n < off.toNat / 64 * 64 + firstByte m ∨ 2 ^ (30 + s.bar2Log e) ≤ off.toNat / 64 * 64 +
    firstByte m))) :=
⟨3, .read, 0x1FFF, 0x2000, full, 5, false, false, win [(.PW_ATTR_RD, wi, 1), (.PE_CFG_MODE, instPe 3, 3)], by exact ⟨by
    decide +kernel, by decide +kernel, by decide +kernel, fun _ => by decide +kernel, Or.inl rfl, Or.inr ⟨31, by
    decide +kernel, Or.inr (Or.inl (by decide +kernel))⟩⟩⟩
theorem wit_EndpointWindowsAndInterrupts_4 : ∃ (e : Fin 4) (req : BarReq) (start off : Word) (m : BitVec 64) (b : BitVec 512)
    (ep ro : Bool) (s : State) (n i pa : Nat), s.peOn e = true ∧ s.lost (e / 2) = false ∧ (s.peSt e).perst = false ∧
    (s.isEndpoint e = true → (s.cfgHalf e 0x04).testBit 1 = true) ∧ ((req = .read ∨ req = .write)) ∧ s.peWindow e start.toNat
    = some n ∧ i = instH (e / 2) (e % 2 * 32 + n) ∧ off.toNat / 64 * 64 + firstByte m ≤ s.peLimit e n ∧ off.toNat / 64 * 64 +
    firstByte m < 2 ^ (30 + s.bar2Log e) ∧ s.flag (if req = .write then .PW_ATTR_WR else .PW_ATTR_RD) i = true ∧ (s.peSt
    e).queue = [] ∧ (s.peSt e).live = [] ∧ pa = off.toNat / 64 * 64 - s.get .PW_BASE_ADDR i * 4096 + s.get .PW_TGT_ADDR i *
    4096 ∧ pa < 2 ^ 52 ∧ s.get .PW_ATTR_POLDER i < 32 :=
⟨3, .read, 0x1FFF, 0x1FC0, 0x8000000000000000, 5, false, true, win [(.PW_ATTR_RD, wi, 1), (.PW_ATTR_SEC, wi, 1),
    (.WORLD_ATTR_PCIE_SEC, 0, 8)], 31, wi, 0x40FC0, by decide +kernel⟩
theorem wit_EndpointWindowsAndInterrupts_4b : ∃ (e : Fin 4) (req : BarReq) (start off : Word) (m : BitVec 64) (b : BitVec 512)
    (ep ro : Bool) (s : State) (n i pa : Nat), s.peOn e = true ∧ s.lost (e / 2) = false ∧ (s.peSt e).perst = false ∧
    (s.isEndpoint e = true → (s.cfgHalf e 0x04).testBit 1 = true) ∧ ((req = .read ∨ req = .write)) ∧ s.peWindow e start.toNat
    = some n ∧ i = instH (e / 2) (e % 2 * 32 + n) ∧ off.toNat / 64 * 64 + firstByte m ≤ s.peLimit e n ∧ off.toNat / 64 * 64 +
    firstByte m < 2 ^ (30 + s.bar2Log e) ∧ s.flag (if req = .write then .PW_ATTR_WR else .PW_ATTR_RD) i = true ∧ (s.peSt
    e).queue = [] ∧ (s.peSt e).live = [] ∧ pa = off.toNat / 64 * 64 - s.get .PW_BASE_ADDR i * 4096 + s.get .PW_TGT_ADDR i *
    4096 ∧ pa < 2 ^ 52 ∧ s.get .PW_ATTR_POLDER i < 32 :=
⟨3, .write, 0x1000, 0x1000, full, 5, true, true, win [(.PW_ATTR_WR, wi, 1), (.PW_ATTR_PLACE, wi, 1), (.PW_ATTR_SEC, wi, 1)],
    31, wi, 0x40000, by decide +kernel⟩
theorem wit_EndpointWindowsAndInterrupts_4c : ∃ (e : Fin 4) (req : BarReq) (start off : Word) (m : BitVec 64) (b : BitVec 512)
    (ep ro : Bool) (s : State) (n i pa : Nat), s.peOn e = true ∧ s.lost (e / 2) = false ∧ (s.peSt e).perst = false ∧
    (s.isEndpoint e = true → (s.cfgHalf e 0x04).testBit 1 = true) ∧ ((req = .read ∨ req = .write)) ∧ s.peWindow e start.toNat
    = some n ∧ i = instH (e / 2) (e % 2 * 32 + n) ∧ off.toNat / 64 * 64 + firstByte m ≤ s.peLimit e n ∧ off.toNat / 64 * 64 +
    firstByte m < 2 ^ (30 + s.bar2Log e) ∧ s.flag (if req = .write then .PW_ATTR_WR else .PW_ATTR_RD) i = true ∧ (s.peSt
    e).queue = [] ∧ (s.peSt e).live = [] ∧ pa = off.toNat / 64 * 64 - s.get .PW_BASE_ADDR i * 4096 + s.get .PW_TGT_ADDR i *
    4096 ∧ pa < 2 ^ 52 ∧ s.get .PW_ATTR_POLDER i < 32 :=
⟨3, .write, 0x1000, 0x1000, full, 5, false, true, win [(.PW_ATTR_WR, wi, 1), (.PW_ATTR_PLACE, wi, 1)], 31, wi, 0x40000, by
    decide +kernel⟩
theorem wit_EndpointWindowsAndInterrupts_4d : ∃ (e : Fin 4) (req : BarReq) (start off : Word) (m : BitVec 64) (b : BitVec 512)
    (ep ro : Bool) (s : State) (n i pa : Nat), s.peOn e = true ∧ s.lost (e / 2) = false ∧ (s.peSt e).perst = false ∧
    (s.isEndpoint e = true → (s.cfgHalf e 0x04).testBit 1 = true) ∧ ((req = .read ∨ req = .write)) ∧ s.peWindow e start.toNat
    = some n ∧ i = instH (e / 2) (e % 2 * 32 + n) ∧ off.toNat / 64 * 64 + firstByte m ≤ s.peLimit e n ∧ off.toNat / 64 * 64 +
    firstByte m < 2 ^ (30 + s.bar2Log e) ∧ s.flag (if req = .write then .PW_ATTR_WR else .PW_ATTR_RD) i = true ∧ (s.peSt
    e).queue = [] ∧ (s.peSt e).live = [] ∧ pa = off.toNat / 64 * 64 - s.get .PW_BASE_ADDR i * 4096 + s.get .PW_TGT_ADDR i *
    4096 ∧ pa < 2 ^ 52 ∧ s.get .PW_ATTR_POLDER i < 32 :=
⟨3, .write, 0x1000, 0x1000, full, 5, false, true, win [(.PW_ATTR_WR, wi, 1)], 31, wi, 0x40000, by decide +kernel⟩
theorem wit_EndpointWindowsAndInterrupts_5 : ∃ (e : Fin 4) (c : BitVec 16) (ep : Bool) (r : Running) (s : State),
    (s.cp.running.find? fun r => r.src.num == e.val && r.e.cid == c.toNat && !r.attached && !r.begun && !r.discard) = some r ∧
    (∀ k, s.runningOf { src := r.src, sqid := Fin.ofNat 64 r.sqid, e := r.e, list := [], data := [] } = some k → k.discard =
    false) :=
⟨3, 7, false, r3, pe.updCp fun c => { c with running := [r3] }, by exact ⟨by decide +kernel, fun k h => (by
    cases h; decide +kernel)⟩⟩
theorem wit_EndpointWindowsAndInterrupts_5b : ∃ (e : Fin 4) (c : BitVec 16) (ep : Bool) (r : Running) (s : State),
    (s.cp.running.find? fun r => r.src.num == e.val && r.e.cid == c.toNat && !r.attached && !r.begun && !r.discard) = some r ∧
    (∀ k, s.runningOf { src := r.src, sqid := Fin.ofNat 64 r.sqid, e := r.e, list := [], data := [] } = some k → k.discard =
    false) :=
⟨3, 7, true, r3, pe.updCp fun c => { c with running := [r3] }, by exact ⟨by decide +kernel, fun k h => (by
    cases h; decide +kernel)⟩⟩
theorem wit_EndpointWindowsAndInterrupts_6 : ∃ (e : Fin 4) (c : BitVec 16) (ep : Bool) (s : State), (∀ r ∈ s.cp.running,
    r.e.cid ≠ c.toNat) :=
⟨3, 8, false, pe.updCp fun c => { c with running := [r3] }, by decide +kernel⟩
theorem wit_EndpointWindowsAndInterrupts_7 : ∃ (e : Fin 4) (v : Fin 2048) (s : State), v.val ∈ (s.peSt e).msixHeld ∧
    (s.cfgHalf e 0xB2).testBit 15 = true ∧ s.vecMasked e v = true :=
⟨3, 2047, withP (msx pe 0xC000) fun p => { p with msixHeld := [2047] }, by decide +kernel⟩
theorem wit_EndpointWindowsAndInterrupts_8 : ∃ (e : Fin 4) (v : Fin 2048) (s : State), v.val ∈ (s.peSt e).msixHeld ∧
    (s.cfgHalf e 0xB2).testBit 15 = true ∧ s.vecMasked e v = false ∧ ((Tbl.get 0 (s.peSt e).msixSent v = 0 ∨ Tbl.get 0 (s.peSt
    e).msixSent v + 999 ≤ s.now)) :=
⟨3, 2047, withP ((msx pe 0x8000).put .PT_NOW_TIME 0 1999) fun p =>
    { p with msixHeld := [5, 2047], msixSent := [(2047, 1000)], msixMask := [(2047, 0)], pba := [(2047, 1)] }, by exact ⟨by
    decide +kernel, by decide +kernel, by decide +kernel, Or.inr (by decide +kernel)⟩⟩
theorem wit_EndpointWindowsAndInterrupts_9 : ∃ (e : Fin 4) (v : Fin 2048) (s : State), ((v.val ∉ (s.peSt e).msixHeld ∨
    (s.cfgHalf e 0xB2).testBit 15 = false)) :=
⟨3, 2047, withP (msx pe 0) fun p => { p with msixHeld := [2047] }, by exact Or.inr (by decide +kernel)⟩
theorem wit_EndpointWindowsAndInterrupts_10 : ∃ (e : Fin 4) (v : Fin 2048) (s : State), Tbl.get 0 (s.peSt e).pba v ≠ 0 ∧
    (s.cfgHalf e 0xB2).testBit 14 = false :=
⟨3, 2047, withP (msx pe 0x8000) fun p => { p with pba := [(2047, 1)] }, by decide +kernel⟩
theorem wit_EndpointWindowsAndInterrupts_10b : ∃ (e : Fin 4) (v : Fin 2048) (s : State), Tbl.get 0 (s.peSt e).pba v ≠ 0 ∧
    (s.cfgHalf e 0xB2).testBit 14 = false :=
⟨3, 2047, (withP (msx pe 0x8000) fun p => { p with pba := [(2047, 1)] }).setCq (qKey 3 63) (some
    { cq0 with vector := 2047, ien := true, tail := 1 }), by decide +kernel⟩
theorem wit_EndpointWindowsAndInterrupts_11 : ∃ (e : Fin 4) (v : Fin 2048) (s : State), Tbl.get 0 (s.peSt e).pba v = 0 :=
⟨3, 2047, msx pe 0x8000, by decide +kernel⟩
theorem wit_EndpointWindowsAndInterrupts_12 : ∃ (e : Fin 4) (s : State), s.isEndpoint e = true :=
⟨3, pe.setCq (qKey 3 63) (some { cq0 with vector := 2047, ien := true, tail := 1 }), by decide +kernel⟩
theorem wit_EndpointWindowsAndInterrupts_12b : ∃ (e : Fin 4) (s : State), s.isEndpoint e = true :=
⟨3, withP pe fun p => { p with intx := true }, by decide +kernel⟩
theorem wit_EndpointWindowsAndInterrupts_13 : ∃ (e : Fin 4) (s : State), s.isEndpoint e = false :=
⟨2, pe.put .PE_CFG_MODE (instPe 2) 3, by decide +kernel⟩
theorem wit_EndpointWindowsAndInterrupts_14 : ∃ (c : Cmd) (e : Nat) (s : State), s.passes specWindow c = true ∧ bitsOf c.e.p0
    2 0 = e ∧ e < 4 ∧ s.peStageBad e = false :=
⟨wc 3, 3, sets pe [(.PW_EPOCH_CURRENT, instPe 3, 0xFFFFFFFF), (.PW_STG_VALUE, instH 1 (128 + 31 * 4 + 3), 2 ^ 64 - 1),
    (.PW_STG_VALUE, instH 1 (128 + 31 * 4 + 2), 2 ^ 64 - 1)], by decide +kernel⟩
theorem wit_EndpointWindowsAndInterrupts_15 : ∃ (c : Cmd) (e : Nat) (s : State), s.passes specWindow c = true ∧ bitsOf c.e.p0
    2 0 = e ∧ ((6 ≤ e ∨ e < 4 ∧ s.peStageBad e = true ∨ (e = 4 ∨ e = 5) ∧ s.dikeStageBad (e - 4) = true)) :=
⟨wc 6, 6, pe, by exact ⟨by decide +kernel, by decide +kernel, Or.inl (by decide +kernel)⟩⟩
theorem wit_EndpointWindowsAndInterrupts_15b : ∃ (c : Cmd) (e : Nat) (s : State), s.passes specWindow c = true ∧ bitsOf c.e.p0
    2 0 = e ∧ ((6 ≤ e ∨ e < 4 ∧ s.peStageBad e = true ∨ (e = 4 ∨ e = 5) ∧ s.dikeStageBad (e - 4) = true)) :=
⟨wc 5, 5, sets pe [(.DK_STG_VALUE, instH 1 (31 * 4 + 3), 1)], by exact ⟨by decide +kernel, by decide +kernel, Or.inr (Or.inr
    (by decide +kernel))⟩⟩
theorem wit_EndpointWindowsAndInterrupts_15c : ∃ (c : Cmd) (e : Nat) (s : State), s.passes specWindow c = true ∧ bitsOf c.e.p0
    2 0 = e ∧ ((6 ≤ e ∨ e < 4 ∧ s.peStageBad e = true ∨ (e = 4 ∨ e = 5) ∧ s.dikeStageBad (e - 4) = true)) :=
⟨wc 3, 3, sets pe [(.PW_STG_VALUE, instH 1 (128 + 31 * 4 + 3), 1)], by exact ⟨by decide +kernel, by decide +kernel, Or.inr
    (Or.inl (by decide +kernel))⟩⟩
theorem wit_EndpointWindowsAndInterrupts_16 : ∃ (c : Cmd) (g : Nat) (s : State), s.passes specWindow c = true ∧ bitsOf c.e.p0
    2 0 = 4 + g ∧ g < 2 ∧ s.dikeStageBad g = false :=
⟨wc 5, 1, sets pe [(.DK_EPOCH_CURRENT, instH 1 0, 0xFFFFFFFF), (.DK_STG_VALUE, instH 1 (31 * 4 + 3), 2 ^ 64 - 1),
    (.DK_STG_VALUE, instH 1 (31 * 4 + 1), 0xFEFFFFFFFFFFF), (.DK_STG_VALUE, instH 1 (31 * 4), 0x2000)], by decide +kernel⟩

end EndpointWindowsAndInterrupts

namespace ResetsAndStartUp

def ph (n : Nat) : State := mem.put .PM_PKG_PHASE 0 n
def pf (t : Nat) : State := (sets mem [(.PM_RAIL_PWRFAIL, instH 0 0, 1), (.PT_NOW_TIME, 0, t), (.RST_CAUSE_PKR_COUNT, 0, 0xFFFF)]).updPow fun p => { p with pfAt := 5 }
def cn (tr : Bool) (d : Fin 3) : ChanReport := ⟨d, 2, true, true, tr, 0xFFFF, 0xFFFF⟩
def sb : State := (sets mem [(.CP_ROLE_STANDBY_READY, 0, 0)]).updCp fun c => { c with runActive := some 0 }
def r0 : Running := ⟨.pcie 0, 5, ent 0x10 0 0 0, 0, 0, 0, false, none, false, false, 0, none, [], false⟩
def rep (tr : Bool) (d : Fin 3) : StartupReport := ⟨List.replicate 15 (cn true 2) ++ [cn tr d], [11]⟩
def pq (w : Word) (start : Bool) : State := (runP 5 w).updPolder 1 fun v => { v with start := start, entry := 0x4000 }
def c5 (s : State) : State := withC s 5 fun c => { c with l2 := [(0x40, some (line true true true))], tlb := [], pend := [5] }
def qm : Cmd := sbc 2 0 0x600 (rstWord 2 11)

theorem wit_ResetsAndStartUp_2 : ∃ (b : Fin 4) (s : State), ((s.flag .PM_RAIL_PWRFAIL (instH s.activeHalf 0) = false ∨ s.flag
    .PM_RAIL_PF_SAFE (instH s.activeHalf 0) = true ∨ s.pow.pfAt + 800000 ≤ s.now)) :=
⟨3, pf 800005, by exact Or.inr (Or.inr (by decide +kernel))⟩
theorem wit_ResetsAndStartUp_2b : ∃ (b : Fin 4) (s : State), ((s.flag .PM_RAIL_PWRFAIL (instH s.activeHalf 0) = false ∨ s.flag
    .PM_RAIL_PF_SAFE (instH s.activeHalf 0) = true ∨ s.pow.pfAt + 800000 ≤ s.now)) :=
⟨0, (gOpen 5).updCp fun c => { c with running := [r0] }, by exact Or.inl (by decide +kernel)⟩
theorem wit_ResetsAndStartUp_3 : ∃ (b : Fin 4) (s : State), s.flag .PM_RAIL_PWRFAIL (instH s.activeHalf 0) = true ∧ s.flag
    .PM_RAIL_PF_SAFE (instH s.activeHalf 0) = false ∧ s.now < s.pow.pfAt + 800000 :=
⟨3, pf 800004, by decide +kernel⟩
theorem wit_ResetsAndStartUp_4 : ∃ (a : Acc) (h : Half) (s : State), a.sec = true ∧ s.lost h = false ∧ s.flag .PM_RAIL_PWRFAIL
    (instH s.activeHalf 0) = false :=
⟨hub, 1, gOpen 5, by decide +kernel⟩
theorem wit_ResetsAndStartUp_5 : ∃ (a : Acc) (h : Half) (d : Die) (s : State), a.sec = true ∧ s.lost h = false ∧ s.diePolders
    d = true ∧ (s.die d).state = 0 :=
⟨hub, 1, 0, pq 4 true, by decide +kernel⟩
theorem wit_ResetsAndStartUp_6 : ∃ (a : Acc) (h : Half) (d : Die) (s : State), a.sec = true ∧ s.lost h = false ∧ s.diePolders
    d = false :=
⟨hub, 1, 11, c5 mem, by decide +kernel⟩
theorem wit_ResetsAndStartUp_6b : ∃ (a : Acc) (h : Half) (d : Die) (s : State), a.sec = true ∧ s.lost h = false ∧ s.diePolders
    d = false :=
⟨hub, 1, 0, c5 mem, by decide +kernel⟩
theorem wit_ResetsAndStartUp_7 : ∃ (a : Acc) (h : Half) (g : GCore) (s : State), a.sec = true ∧ s.lost h = false ∧ s.resetBusy
    (s.core g).pol = true :=
⟨hub, 1, 5, (gOpen 5).put .TK_NOW_STATE 1 1, by decide +kernel⟩
theorem wit_ResetsAndStartUp_8 : ∃ (a : Acc) (h : Half) (g : GCore) (s : State) (v : Polder), a.sec = true ∧ s.lost h = false
    ∧ s.resetBusy (s.core g).pol = false ∧ s.polder (s.core g).pol = some v ∧ (s.core g).serv = 0 :=
⟨hub, 1, 5, c5 (pq 6 true), { pold 6 with lcpus := [some 5], start := true, entry := 0x4000 }, by decide +kernel⟩
theorem wit_ResetsAndStartUp_8b : ∃ (a : Acc) (h : Half) (g : GCore) (s : State) (v : Polder), a.sec = true ∧ s.lost h = false
    ∧ s.resetBusy (s.core g).pol = false ∧ s.polder (s.core g).pol = some v ∧ (s.core g).serv = 0 :=
⟨hub, 1, 5, c5 (pq 7 false), { pold 7 with lcpus := [some 5], start := false, entry := 0x4000 }, by decide +kernel⟩
theorem wit_ResetsAndStartUp_9 : ∃ (a : Acc) (h : Half) (p : Pol) (s : State), a.sec = true ∧ s.lost h = false ∧ s.resetBusy p
    = true :=
⟨hub, 1, 1, (gOpen 5).put .TK_NOW_STATE 1 1, by decide +kernel⟩
theorem wit_ResetsAndStartUp_10 : ∃ (a : Acc) (h : Half) (p : Pol) (s : State) (v : Polder), a.sec = true ∧ s.lost h = false ∧
    s.resetBusy p = false ∧ s.polder p = some v :=
⟨hub, 1, 1, c5 ((pq 4 true).put .TK_NOW_STATE 1 1), { pold 4 with lcpus := [some 5], start := true, entry := 0x4000 }, by
    decide +kernel⟩
theorem wit_ResetsAndStartUp_11 : ∃ (a : Acc) (h k : Half) (m : Fin 13) (l : LinkEnd) (s : State), a.sec = true ∧ s.lost h =
    false ∧ l = hubEnd k m :=
⟨hub, 0, 1, 12, hubEnd 1 12, mem.setModState 1 12 3, by decide +kernel⟩
theorem wit_ResetsAndStartUp_11b : ∃ (a : Acc) (h k : Half) (m : Fin 13) (l : LinkEnd) (s : State), a.sec = true ∧ s.lost h =
    false ∧ l = hubEnd k m :=
⟨hub, 0, 0, 0, hubEnd 0 0, (mem.setModState 0 0 2).updLk (dieEnd 0 0) fun k => { k with txMap := 3 }, by decide +kernel⟩
theorem wit_ResetsAndStartUp_12 : ∃ (a : Acc) (h : Half) (e : Fin 4) (s : State), a.sec = true ∧ s.lost h = false :=
⟨hub, 0, 3, sets mem [(.PE_STAT_LINK, instPe 3, 2), (.PE_STAT_READY, instPe 3, 1)], by decide +kernel⟩
theorem wit_ResetsAndStartUp_13 : ∃ (a : Acc) (h : Half) (v : BitVec 16) (s : State), a.sec = true ∧ s.lost h = false ∧ 64 ≤
    v.toNat :=
⟨hub, 0, 64, mem, by decide +kernel⟩
theorem wit_ResetsAndStartUp_13b : ∃ (a : Acc) (h : Half) (v : BitVec 16) (s : State), a.sec = true ∧ s.lost h = false ∧ 64 ≤
    v.toNat :=
⟨hub, 0, 0xFFFF, mem, by decide +kernel⟩
theorem wit_ResetsAndStartUp_14 : ∃ (h : Half) (m : Fin 13) (n : Fin 32) (die : Bool) (l : LinkEnd) (s : State), n.val = m.val
    ∧ l = ⟨h, m, die⟩ ∧ endOurs l = true :=
⟨1, 12, 12, false, ⟨1, 12, false⟩, mem.setModState 1 12 2, by decide +kernel⟩
theorem wit_ResetsAndStartUp_14b : ∃ (h : Half) (m : Fin 13) (n : Fin 32) (die : Bool) (l : LinkEnd) (s : State), n.val =
    m.val ∧ l = ⟨h, m, die⟩ ∧ endOurs l = true :=
⟨1, 11, 11, true, ⟨1, 11, true⟩, (mem.setModState 1 11 3).updLk (hubEnd 1 11) fun k => { k with txMap := 3 }, by
    decide +kernel⟩
theorem wit_ResetsAndStartUp_15 : ∃ (h : Half) (n : Fin 32) (die : Bool) (s : State), 18 ≤ n.val :=
⟨1, 18, false, mem, by decide +kernel⟩
theorem wit_ResetsAndStartUp_15b : ∃ (h : Half) (n : Fin 32) (die : Bool) (s : State), 18 ≤ n.val :=
⟨1, 31, true, mem, by decide +kernel⟩
theorem wit_ResetsAndStartUp_16 : ∃ (s : State) (n : Nat), s.cp.fatalSince = some n ∧ n + 1000000000 ≤ s.now ∧ s.flag
    .PM_RAIL_PWRFAIL (instH s.activeHalf 0) = false :=
⟨(mem.put .PT_NOW_TIME 0 1000000007).updCp fun c => { c with fatalSince := some 7 }, 7, by decide +kernel⟩
theorem wit_ResetsAndStartUp_17 : ∃ s : State, s.cp.fatalSince = none :=
⟨mem, by decide +kernel⟩
theorem wit_ResetsAndStartUp_18 (f : FwSlot) (x : Nat) (hf : f.verify.1 = some x) : ∃ (h : Half) (k x : Nat) (l : List Nat) (s
    : State), s.get .PM_PKG_PHASE 0 = 1 ∧ s.pow.held = [] ∧ s.cp.recovery = false ∧ s.lost h = false ∧ h.val = s.activeHalf ∧
    s.bootOrder = k :: l ∧ (s.slot k).verify.1 = some x :=
⟨0, 0, x, [1], (ph 1).updCp fun c => { c with slotA := f }, by exact ⟨by rfl, by rfl, by rfl, by rfl, by rfl, by rfl, hf⟩⟩
theorem wit_ResetsAndStartUp_19 : ∃ (h : Half) (k : Nat) (x : Option Nat) (s : State), s.pow.held = [] ∧ s.cp.recovery = false
    ∧ s.lost h = false ∧ h.val ≠ s.activeHalf ∧ s.cp.runActive = some k ∧ s.mayStandBy = true ∧ s.cp.live = none ∧ s.flag
    .CP_ROLE_STANDBY_READY 0 = false ∧ (s.slot k).verify.1 = x :=
⟨1, 0, (sb.slot 0).verify.1, sb, by exact ⟨by decide +kernel, by decide +kernel, by decide +kernel, by decide +kernel, by
    decide +kernel, by decide +kernel, by decide +kernel, by decide +kernel, rfl⟩⟩
theorem wit_ResetsAndStartUp_20 : ∃ (h : Half) (s : State), s.get .PM_PKG_PHASE 0 = 1 ∧ s.pow.held = [] ∧ s.cp.recovery =
    false ∧ s.lost h = false ∧ h.val = s.activeHalf ∧ (∀ k ∈ s.bootOrder, (s.slot k).verify.1 = none) :=
⟨0, (ph 1).updPow fun p => { p with boot := 3 }, by decide +kernel⟩
theorem wit_ResetsAndStartUp_21 : ∃ (h : Half) (s : State), ((h.val = s.activeHalf ∧ s.get .PM_PKG_PHASE 0 ≠ 1 ∨ h.val ≠
    s.activeHalf ∧ s.cp.runActive = none)) :=
⟨0, ph 2, by exact Or.inl (by decide +kernel)⟩
theorem wit_ResetsAndStartUp_21b : ∃ (h : Half) (s : State), ((h.val = s.activeHalf ∧ s.get .PM_PKG_PHASE 0 ≠ 1 ∨ h.val ≠
    s.activeHalf ∧ s.cp.runActive = none)) :=
⟨1, ph 2, by exact Or.inr (by decide +kernel)⟩
theorem wit_ResetsAndStartUp_22 : ∃ (r : StartupReport) (s : State), ((s.get .PM_PKG_CAUSE 0 ≠ 0 ∨ s.pow.held ≠ [] ∨ s.get
    .PM_PKG_PHASE 0 = 7)) :=
⟨rep true 2, mem.put .PM_PKG_CAUSE 0 1, by exact Or.inl (by decide +kernel)⟩
theorem wit_ResetsAndStartUp_22b : ∃ (r : StartupReport) (s : State), ((s.get .PM_PKG_CAUSE 0 ≠ 0 ∨ s.pow.held ≠ [] ∨ s.get
    .PM_PKG_PHASE 0 = 7)) :=
⟨rep true 2, ph 7, by exact Or.inr (Or.inr (by decide +kernel))⟩
theorem wit_ResetsAndStartUp_23 : ∃ (r : StartupReport) (s : State), s.get .PM_PKG_CAUSE 0 = 0 ∧ s.pow.held = [] ∧ s.get
    .PM_PKG_PHASE 0 = 1 ∧ s.cp.runActive ≠ none :=
⟨rep true 2, (ph 1).updCp fun c => { c with runActive := some 0 }, by decide +kernel⟩
theorem wit_ResetsAndStartUp_24 : ∃ (r : StartupReport) (s : State), s.get .PM_PKG_CAUSE 0 = 0 ∧ s.pow.held = [] ∧ s.get
    .PM_PKG_PHASE 0 = 2 :=
⟨rep true 2, ph 2, by decide +kernel⟩
theorem wit_ResetsAndStartUp_25 : ∃ (r : StartupReport) (s : State), s.get .PM_PKG_CAUSE 0 = 0 ∧ s.pow.held = [] ∧ s.get
    .PM_PKG_PHASE 0 = 3 ∧ (∀ i, i < 16 → sameChan (chanOf r i) (chanOf r 0) = true ∧ goodChan (chanOf r i) = true ∧ (chanOf r
    i).trained = true) :=
⟨rep true 2, ph 3, by decide +kernel⟩
theorem wit_ResetsAndStartUp_25b : ∃ (r : StartupReport) (s : State), s.get .PM_PKG_CAUSE 0 = 0 ∧ s.pow.held = [] ∧ s.get
    .PM_PKG_PHASE 0 = 3 ∧ (∀ i, i < 16 → sameChan (chanOf r i) (chanOf r 0) = true ∧ goodChan (chanOf r i) = true ∧ (chanOf r
    i).trained = true) :=
⟨rep true 2, gd (ph 3), by decide +kernel⟩
theorem wit_ResetsAndStartUp_26 : ∃ (r : StartupReport) (s : State) (i : Nat), s.get .PM_PKG_CAUSE 0 = 0 ∧ s.pow.held = [] ∧
    s.get .PM_PKG_PHASE 0 = 3 ∧ i < 16 ∧ ((sameChan (chanOf r i) (chanOf r 0) = false ∨ goodChan (chanOf r i) = false)) :=
⟨rep true 1, ph 3, 15, by exact ⟨by decide +kernel, by decide +kernel, by decide +kernel, by decide +kernel, Or.inl (by
    decide +kernel)⟩⟩
theorem wit_ResetsAndStartUp_26b : ∃ (r : StartupReport) (s : State) (i : Nat), s.get .PM_PKG_CAUSE 0 = 0 ∧ s.pow.held = [] ∧
    s.get .PM_PKG_PHASE 0 = 3 ∧ i < 16 ∧ ((sameChan (chanOf r i) (chanOf r 0) = false ∨ goodChan (chanOf r i) = false)) :=
⟨rep true 0, ph 3, 15, by exact ⟨by decide +kernel, by decide +kernel, by decide +kernel, by decide +kernel, Or.inr (by
    decide +kernel)⟩⟩
theorem wit_ResetsAndStartUp_27 : ∃ (r : StartupReport) (s : State) (i : Nat), s.get .PM_PKG_CAUSE 0 = 0 ∧ s.pow.held = [] ∧
    s.get .PM_PKG_PHASE 0 = 3 ∧ (∀ j, j < 16 → sameChan (chanOf r j) (chanOf r 0) = true ∧ goodChan (chanOf r j) = true) ∧ i <
    16 ∧ (chanOf r i).trained = false :=
⟨rep false 2, ph 3, 15, by decide +kernel⟩
theorem wit_ResetsAndStartUp_28 : ∃ (r : StartupReport) (s : State), s.get .PM_PKG_CAUSE 0 = 0 ∧ s.pow.held = [] ∧ s.get
    .PM_PKG_PHASE 0 = 4 :=
⟨rep false 2, { ph 4 with mem := ⟨[(5, 5)], [(6, 6)]⟩ }, by decide +kernel⟩
theorem wit_ResetsAndStartUp_29 : ∃ (r : StartupReport) (s : State), s.get .PM_PKG_CAUSE 0 = 0 ∧ s.pow.held = [] ∧ s.get
    .PM_PKG_PHASE 0 = 5 :=
⟨rep true 2, ph 5, by decide +kernel⟩
theorem wit_ResetsAndStartUp_29b : ∃ (r : StartupReport) (s : State), s.get .PM_PKG_CAUSE 0 = 0 ∧ s.pow.held = [] ∧ s.get
    .PM_PKG_PHASE 0 = 5 :=
⟨rep true 2, (ph 5).updDie 11 fun d => { d with state := 2 }, by decide +kernel⟩
theorem wit_ResetsAndStartUp_30 : ∃ (r : StartupReport) (s : State), s.get .PM_PKG_CAUSE 0 = 0 ∧ s.pow.held = [] ∧ s.get
    .PM_PKG_PHASE 0 = 6 :=
⟨rep true 2, ph 6, by decide +kernel⟩
theorem wit_ResetsAndStartUp_30b : ∃ (r : StartupReport) (s : State), s.get .PM_PKG_CAUSE 0 = 0 ∧ s.pow.held = [] ∧ s.get
    .PM_PKG_PHASE 0 = 6 :=
⟨rep true 2, (ph 6).updPow fun p => { p with defs := some ⟨[(1, some (pold 4))], [], [], none⟩ }, by decide +kernel⟩
theorem wit_ResetsAndStartUp_31 : ∃ (c : Cmd) (s : State), s.passes (specQuery 0xFFFF 0xFFFFFFFFFFFFFFFF) c = true ∧ ((bitsOf
    c.e.p0 15 0 ≠ 0x600 ∨ c.e.p1 &&& 0x1FFFF0007 ≠ c.e.p1)) :=
⟨sbc 2 0 0x601 0, mem, by exact ⟨by decide +kernel, Or.inl (by decide +kernel)⟩⟩
theorem wit_ResetsAndStartUp_31b : ∃ (c : Cmd) (s : State), s.passes (specQuery 0xFFFF 0xFFFFFFFFFFFFFFFF) c = true ∧ ((bitsOf
    c.e.p0 15 0 ≠ 0x600 ∨ c.e.p1 &&& 0x1FFFF0007 ≠ c.e.p1)) :=
⟨sbc 2 0 0x600 8, mem, by exact ⟨by decide +kernel, Or.inr (by decide +kernel)⟩⟩
theorem wit_ResetsAndStartUp_32 : ∃ (c : Cmd) (d : Nat) (s : State), s.passes (specQuery 0xFFFF 0xFFFFFFFFFFFFFFFF) c = true ∧
    bitsOf c.e.p0 15 0 = 0x600 ∧ s.srcSecure c.src = true ∧ d < 12 ∧ c.e.p1 = rstWord 2 d :=
⟨qm, 11, c5 mem, by decide +kernel⟩
theorem wit_ResetsAndStartUp_32b : ∃ (c : Cmd) (d : Nat) (s : State), s.passes (specQuery 0xFFFF 0xFFFFFFFFFFFFFFFF) c = true
    ∧ bitsOf c.e.p0 15 0 = 0x600 ∧ s.srcSecure c.src = true ∧ d < 12 ∧ c.e.p1 = rstWord 2 d :=
⟨sbc 2 0 0x600 (rstWord 2 0), 0, pq 4 true, by decide +kernel⟩

end ResetsAndStartUp

namespace SuppliesTemperatureVotesAndSluices

def dm (k i : Nat) : Domain := ⟨Fin.ofNat 8 k, Fin.ofNat 256 i⟩
def pfS (s : State) : State := s.putRail .PM_RAIL_PWRFAIL 1
def withW (s : State) (f : Power → Power) : State := s.updPow f
def sl (s : State) (k i v votes : Nat) : State := sets s [(.PV_VOTE_SLUICE, domKey k i, v), (.PV_VOTE_VOTES, domKey k i, votes)]
def off (s : State) (g : Nat) : State := withC s g fun c => { c with pow := 3 }
def sv : Save := ⟨0x1234, [(31, 7)], [(31, 9)], [(0, 1)], 2, false⟩
def pv (p0 p1 : Nat) : Cmd := sbc 0x40 0 p0 p1

theorem wit_SuppliesTemperatureVotesAndSluices_1 : ∃ s : State, s.pwrFail = false :=
⟨mem, by decide +kernel⟩
theorem wit_SuppliesTemperatureVotesAndSluices_2 : ∃ s : State, s.pwrFail = true :=
⟨pfS mem, by decide +kernel⟩
theorem wit_SuppliesTemperatureVotesAndSluices_3 : ∃ s : State, s.pwrFail = true ∧ s.pow.bad = [] ∧ s.pow.tripped = false :=
⟨pfS mem, by decide +kernel⟩
theorem wit_SuppliesTemperatureVotesAndSluices_4 : ∃ s : State, ((s.pwrFail = false ∨ s.pow.bad ≠ [] ∨ s.pow.tripped = true))
    :=
⟨mem, by exact Or.inl (by decide +kernel)⟩
theorem wit_SuppliesTemperatureVotesAndSluices_4b : ∃ s : State, ((s.pwrFail = false ∨ s.pow.bad ≠ [] ∨ s.pow.tripped = true))
    :=
⟨withW (pfS mem) fun p => { p with tripped := true }, by exact Or.inr (Or.inr (by decide +kernel))⟩
theorem wit_SuppliesTemperatureVotesAndSluices_5 : ∃ s : State, s.pwrFail = true ∧ s.pow.pkrWait = none :=
⟨pfS mem, by decide +kernel⟩
theorem wit_SuppliesTemperatureVotesAndSluices_6 : ∃ (s : State) (c b : Nat), s.pwrFail = true ∧ s.pow.pkrWait = some (c, b) ∧
    c < 16 :=
⟨withW (pfS (gOpen 5)) fun p => { p with pkrWait := some (3, 2) }, 3, 2, by decide +kernel⟩
theorem wit_SuppliesTemperatureVotesAndSluices_7 : ∃ s : State, s.pwrFail = false :=
⟨mem, by decide +kernel⟩
theorem wit_SuppliesTemperatureVotesAndSluices_8 : ∃ (d : Fin 12) (v : BitVec 16) (s : State), s.pow.bad.lookup (7 + d.val) =
    none ∧ (s.die d).state = 0 :=
⟨11, 0xFFFF, mem, by decide +kernel⟩
theorem wit_SuppliesTemperatureVotesAndSluices_9 : ∃ (h : Half) (v : BitVec 16) (s : State), s.pow.bad.lookup (1 + h.val) =
    none :=
⟨1, 0, mem, by decide +kernel⟩
theorem wit_SuppliesTemperatureVotesAndSluices_9b : ∃ (h : Half) (v : BitVec 16) (s : State), s.pow.bad.lookup (1 + h.val) =
    none :=
⟨0, 0, gd mem, by decide +kernel⟩
theorem wit_SuppliesTemperatureVotesAndSluices_10 : ∃ (r : Rail) (v : BitVec 16) (s : State), ((r = .serL ∨ r = .serH ∨ r =
    .io ∨ r = .phy)) ∧ s.pow.bad.lookup (railNo r) = none :=
⟨.phy, 0, mem, by exact ⟨Or.inr (Or.inr (Or.inr (by decide +kernel))), by decide +kernel⟩⟩
theorem wit_SuppliesTemperatureVotesAndSluices_10b : ∃ (r : Rail) (v : BitVec 16) (s : State), ((r = .serL ∨ r = .serH ∨ r =
    .io ∨ r = .phy)) ∧ s.pow.bad.lookup (railNo r) = none :=
⟨.serL, 0, pfS mem, by exact ⟨Or.inl (by decide +kernel), by decide +kernel⟩⟩
theorem wit_SuppliesTemperatureVotesAndSluices_11 : ∃ (v : BitVec 16) (s : State), s.pow.bad.lookup 0 = none :=
⟨0, gOpen 5, by decide +kernel⟩
theorem wit_SuppliesTemperatureVotesAndSluices_12 : ∃ (r : Rail) (v : BitVec 16) (s : State), s.pow.bad.lookup (railNo r) =
    none :=
⟨.aon, 0, mem, by decide +kernel⟩
theorem wit_SuppliesTemperatureVotesAndSluices_12b : ∃ (r : Rail) (v : BitVec 16) (s : State), s.pow.bad.lookup (railNo r) =
    none :=
⟨.cd 11, 0, mem, by decide +kernel⟩
theorem wit_SuppliesTemperatureVotesAndSluices_13 : ∃ (r : Rail) (v : BitVec 16) (s : State), s.pow.bad.lookup (railNo r) =
    some none :=
⟨.serH, 0, withW (mem.put .PT_NOW_TIME 0 9) fun p => { p with bad := [(4, none)], held := [4] }, by decide +kernel⟩
theorem wit_SuppliesTemperatureVotesAndSluices_14 : ∃ (r : Rail) (v : BitVec 16) (s : State) (n : Nat), s.pow.bad.lookup
    (railNo r) = some (some n) ∧ n + railHold r ≤ s.now :=
⟨.serH, 0, withW (mem.put .PT_NOW_TIME 0 2000009) (fun p => { p with bad := [(4, some 9)], held := [4] }), 9, by
    decide +kernel⟩
theorem wit_SuppliesTemperatureVotesAndSluices_14b : ∃ (r : Rail) (v : BitVec 16) (s : State) (n : Nat), s.pow.bad.lookup
    (railNo r) = some (some n) ∧ n + railHold r ≤ s.now :=
⟨.cd 11, 0, withW (mem.put .PT_NOW_TIME 0 1000009) (fun p => { p with bad := [(18, some 9)] }), 9, by decide +kernel⟩
theorem wit_SuppliesTemperatureVotesAndSluices_15 : ∃ (u : Fin 14) (l : List Byte) (s : State), (∀ x ∈ l, celsius x.toNat <
    110) :=
⟨11, [109, 0xFF, 0x80], mem, by decide +kernel⟩
theorem wit_SuppliesTemperatureVotesAndSluices_15b : ∃ (u : Fin 14) (l : List Byte) (s : State), (∀ x ∈ l, celsius x.toNat <
    110) :=
⟨13, [100, 1, 2, 3, 4, 5, 6, 7, 8, 9], mem, by decide +kernel⟩
theorem wit_SuppliesTemperatureVotesAndSluices_16 : ∃ (u : Fin 14) (l : List Byte) (s : State) (x : Byte), x ∈ l.take (tsCount
    u) ∧ 110 ≤ celsius x.toNat ∧ s.pow.tripped = false :=
⟨13, [1, 2, 3, 4, 5, 6, 7, 110], mem, 110, by decide +kernel⟩
theorem wit_SuppliesTemperatureVotesAndSluices_16b : ∃ (u : Fin 14) (l : List Byte) (s : State) (x : Byte), x ∈ l.take
    (tsCount u) ∧ 110 ≤ celsius x.toNat ∧ s.pow.tripped = false :=
⟨0, [127, 0], mem.updDie 11 (fun d => { d with state := 2 }), 127, by decide +kernel⟩
theorem wit_SuppliesTemperatureVotesAndSluices_17 : ∃ (x : Domain) (s : State), ((s.sluice (domKey x.kind x.index) ≠ 0 ∨
    s.votes x.kind x.index ≠ 0)) :=
⟨dm 0 239, sl mem 0 239 1 0, by exact Or.inl (by decide +kernel)⟩
theorem wit_SuppliesTemperatureVotesAndSluices_18 : ∃ (x : Domain) (s : State) (c : Nat), domOk x.kind x.index = true ∧
    s.sluice (domKey x.kind x.index) = 0 ∧ s.votes x.kind x.index = 0 ∧ s.refuser x.kind x.index = some c :=
⟨dm 0 239, sets (sl (off mem 239) 0 239 0 0) [(.PV_VETO_MASK, domKey 0 239, 0x80000000), (.PV_VETO_HOLD, domKey 0 239,
    0x80000000), (.PV_STAT_REFUSALS, domKey 0 239, 0xFFFF)], 31, by decide +kernel⟩
theorem wit_SuppliesTemperatureVotesAndSluices_18b : ∃ (x : Domain) (s : State) (c : Nat), domOk x.kind x.index = true ∧
    s.sluice (domKey x.kind x.index) = 0 ∧ s.votes x.kind x.index = 0 ∧ s.refuser x.kind x.index = some c :=
⟨dm 0 5, sets (sl (withT (off mem 5) 5 fun t => { t with step := 1 }) 0 5 0 0) [(.PV_VETO_MASK, domKey 0 5, 2)], 1, by
    decide +kernel⟩
theorem wit_SuppliesTemperatureVotesAndSluices_19 : ∃ (x : Domain) (s : State), domOk x.kind x.index = true ∧ s.sluice (domKey
    x.kind x.index) = 0 ∧ s.votes x.kind x.index = 0 ∧ s.refuser x.kind x.index = none :=
⟨dm 0 239, sl (off mem 239) 0 239 0 0, by decide +kernel⟩
theorem wit_SuppliesTemperatureVotesAndSluices_19b : ∃ (x : Domain) (s : State), domOk x.kind x.index = true ∧ s.sluice
    (domKey x.kind x.index) = 0 ∧ s.votes x.kind x.index = 0 ∧ s.refuser x.kind x.index = none :=
⟨dm 3 15, sl mem 3 15 0 0, by decide +kernel⟩
theorem wit_SuppliesTemperatureVotesAndSluices_20 : ∃ (x : Domain) (s : State) (k : Nat), k = domKey x.kind x.index ∧ domOk
    x.kind x.index = true ∧ s.sluice k = 1 ∧ s.votes x.kind x.index ≠ 0 :=
⟨dm 0 239, sets (sl (off mem 239) 0 239 1 256) [(.PV_STAT_ABORTS, domKey 0 239, 0xFFFF)], domKey 0 239, by decide +kernel⟩
theorem wit_SuppliesTemperatureVotesAndSluices_21 : ∃ (x : Domain) (s : State) (k : Nat), k = domKey x.kind x.index ∧ domOk
    x.kind x.index = true ∧ s.sluice k = 1 ∧ s.votes x.kind x.index = 0 ∧ s.drained x.kind x.index = true :=
⟨dm 0 239, sl (off mem 239) 0 239 1 0, domKey 0 239, by decide +kernel⟩
theorem wit_SuppliesTemperatureVotesAndSluices_21b : ∃ (x : Domain) (s : State) (k : Nat), k = domKey x.kind x.index ∧ domOk
    x.kind x.index = true ∧ s.sluice k = 1 ∧ s.votes x.kind x.index = 0 ∧ s.drained x.kind x.index = true :=
⟨dm 4 3, sl (mem.put .PE_STAT_D3 (instPe 3) 1) 4 3 1 0, domKey 4 3, by decide +kernel⟩
theorem wit_SuppliesTemperatureVotesAndSluices_22 : ∃ (x : Domain) (s : State) (k : Nat), k = domKey x.kind x.index ∧ s.sluice
    k = 1 ∧ s.votes x.kind x.index = 0 ∧ s.drained x.kind x.index = false :=
⟨dm 0 239, withC (sl (off mem 239) 0 239 1 0) 239 (fun c => { c with cmPend := [(1, 1, 1)] }), domKey 0 239, by
    decide +kernel⟩
theorem wit_SuppliesTemperatureVotesAndSluices_23 : ∃ (x : Domain) (s : State) (k : Nat), k = domKey x.kind x.index ∧ domOk
    x.kind x.index = true ∧ s.sluice k = 2 ∧ s.votes x.kind x.index = 0 :=
⟨dm 0 239, sets (withC (sl (off mem 239) 0 239 2 0) 239 fun c => { c with l2 := [(4, some (line false false false))] })
    [(.PV_STAT_DROPS, domKey 0 239, 0xFFFF)], domKey 0 239, by decide +kernel⟩
theorem wit_SuppliesTemperatureVotesAndSluices_24 : ∃ (x : Domain) (s : State), s.votes x.kind x.index = 0 :=
⟨dm 0 239, sl (off mem 239) 0 239 3 0, by decide +kernel⟩
theorem wit_SuppliesTemperatureVotesAndSluices_25 : ∃ (x : Domain) (s : State) (k : Nat), k = domKey x.kind x.index ∧ domOk
    x.kind x.index = true ∧ s.sluice k = 3 ∧ s.votes x.kind x.index ≠ 0 :=
⟨dm 0 239, withC (sl (off mem 239) 0 239 3 256) 239 (fun c => { c with save := some sv }), domKey 0 239, by decide +kernel⟩
theorem wit_SuppliesTemperatureVotesAndSluices_25b : ∃ (x : Domain) (s : State) (k : Nat), k = domKey x.kind x.index ∧ domOk
    x.kind x.index = true ∧ s.sluice k = 3 ∧ s.votes x.kind x.index ≠ 0 :=
⟨dm 3 15, sl mem 3 15 3 0x80000000, domKey 3 15, by decide +kernel⟩
theorem wit_SuppliesTemperatureVotesAndSluices_26 : ∃ (g : GCore) (n : Nat) (s : State), (s.core g).idleSince = some n ∧
    (s.core g).pow = 1 ∧ (((s.core g).pol = 0 ∨ s.ticksRun (s.core g).pol = false)) ∧ n + max (s.get .DPM_CTL_C2_IDLE (instD
    (dieOf g) 0)) 1 * 1000 ≤ s.now :=
⟨239, 9, withC (sets mem [(.PT_NOW_TIME, 0, 1009), (.DPM_CTL_C2_IDLE, instD 11 0, 0)]) 239 fun c =>
    { c with pow := 1, idleSince := some 9, l1d := [(4, some (line false false false))], l2 := [(4, some (line false false false))] },
    by exact ⟨by decide +kernel, by decide +kernel, Or.inl (by decide +kernel), by decide +kernel⟩⟩
theorem wit_SuppliesTemperatureVotesAndSluices_27 : ∃ (g : GCore) (s : State), (((s.core g).pow ≠ 1 ∨ (s.core g).pol ≠ 0 ∧
    s.ticksRun (s.core g).pol = true)) :=
⟨239, withC mem 239 fun c => { c with pow := 2 }, by exact Or.inl (by decide +kernel)⟩
theorem wit_SuppliesTemperatureVotesAndSluices_28 : ∃ (d : Die) (s : State), s.lost (d / 6) = false ∧ Tbl.get 0 s.pow.avsAt d
    = 0 ∧ s.get .DPM_CTL_VOLT_MV (instD d 0) < 1024 :=
⟨11, mem, by decide +kernel⟩
theorem wit_SuppliesTemperatureVotesAndSluices_29 : ∃ (d : Die) (s : State), s.lost (d / 6) = true :=
⟨11, { mem with halfLost := ⟨false, true⟩ }, by decide +kernel⟩
theorem wit_SuppliesTemperatureVotesAndSluices_30 : ∃ (h : Half) (i : Fin 2) (s : State), s.get (selFld h) 0 = i ∧ s.get
    (goodFld h) 0 = 3 :=
⟨1, 1, sets mem [(selFld 1, 0, 1), (goodFld 1, 0, 3), (.REF_STAT_SWITCHES, 0, 0xFFFFFFFF)], by decide +kernel⟩
theorem wit_SuppliesTemperatureVotesAndSluices_31 : ∃ (h : Half) (s : State), 1 - h.val ∉ s.pow.refOut :=
⟨1, mem, by decide +kernel⟩
theorem wit_SuppliesTemperatureVotesAndSluices_32 : ∃ (h : Half) (s : State), 1 - h.val ∈ s.pow.refOut ∧ 99 ∉ s.pow.held :=
⟨1, withW mem fun p => { p with refOut := [0] }, by decide +kernel⟩
theorem wit_SuppliesTemperatureVotesAndSluices_34 : ∃ (c : Cmd) (s : State) (k i n : Nat), s.passes specVote c = true ∧ bitsOf
    c.e.p0 15 12 = k ∧ bitsOf c.e.p0 11 0 = i ∧ bitsOf c.e.p1 4 0 = n ∧ s.srcSecure c.src = true ∧ domOk k i = true ∧ 8 ≤ n ∧
    n < 16 ∧ s.sluice (domKey k i) = 0 :=
⟨pv (7 * 4096 + 1) (15 + 256), mem, 7, 1, 15, by decide +kernel⟩
theorem wit_SuppliesTemperatureVotesAndSluices_34b : ∃ (c : Cmd) (s : State) (k i n : Nat), s.passes specVote c = true ∧
    bitsOf c.e.p0 15 12 = k ∧ bitsOf c.e.p0 11 0 = i ∧ bitsOf c.e.p1 4 0 = n ∧ s.srcSecure c.src = true ∧ domOk k i = true ∧ 8
    ≤ n ∧ n < 16 ∧ s.sluice (domKey k i) = 0 :=
⟨pv 239 8, mem, 0, 239, 8, by decide +kernel⟩
theorem wit_SuppliesTemperatureVotesAndSluices_35 : ∃ (c : Cmd) (s : State) (g : Nat), s.passes specVote c = true ∧ bitsOf
    c.e.p0 15 0 = g ∧ g < 240 ∧ bitsOf c.e.p1 4 0 = 16 ∧ (s.core g).pol ≠ 0 ∧ s.srcBound c.src (s.core g).pol = true ∧
    s.sluice (domKey 0 g) = 0 :=
⟨pv 5 (16 + 256), runP 5 4, 5, by decide +kernel⟩
theorem wit_SuppliesTemperatureVotesAndSluices_36 : ∃ (c : Cmd) (s : State), s.passes specVote c = true ∧ ((bitsOf c.e.p1 4 0
    < 8 ∨ 16 ≤ bitsOf c.e.p1 4 0 ∧ s.clientPolder (bitsOf c.e.p0 15 12) (bitsOf c.e.p0 11 0) (bitsOf c.e.p1 4 0) = none)) :=
⟨pv 5 (7 + 256), runP 5 4, by exact ⟨by decide +kernel, Or.inl (by decide +kernel)⟩⟩
theorem wit_SuppliesTemperatureVotesAndSluices_36b : ∃ (c : Cmd) (s : State), s.passes specVote c = true ∧ ((bitsOf c.e.p1 4 0
    < 8 ∨ 16 ≤ bitsOf c.e.p1 4 0 ∧ s.clientPolder (bitsOf c.e.p0 15 12) (bitsOf c.e.p0 11 0) (bitsOf c.e.p1 4 0) = none)) :=
⟨pv 5 (17 + 256), runP 5 4, by exact ⟨by decide +kernel, Or.inr (by decide +kernel)⟩⟩

end SuppliesTemperatureVotesAndSluices

namespace RecorderWritesFreezesAndClears

def nm : State := sets upS [(.REC_CTL_MODE, instH 0 0, 0), (.REC_CTL_MODE, instH 1 0, 0), (.REC_CTL_FREEZE_MAX, instH 1 0, 0), (.RV_STAT_NEXT, instH 1 31, 5)]
def ev : Event := ⟨0x30, 31, true, 0x105, [1, 2, 3, 4], 0b1111⟩
def rc (q : Nat) : Rec := ⟨q, 4294967295, 1, 0x30, 31, true, false, 1, 0x105, 1, [1, 2], 2, 0⟩
def rs (h : Half) (l : List (Fld × Nat × Nat)) (r : List Rec) : State := (sets nm l).updRcd h fun x => { x with recs := r }
def live (h : Half) (l : List (Fld × Nat × Nat)) (r : List Rec) : State := rs h ((.REC_CTL_MODE, instH h 0, 1) :: l) r
def frz (h : Half) (st : List Rec) : State :=
  (sets nm [(.REC_DROP_FROZEN, instH h 0, 1), (.REC_CTL_FREEZE, instH h 0, 1), (.REC_DROP_STAGED, instH h 0, 2)]).updRcd h fun x =>
    { x with staged := st, frozenDrops := 70000 }
def bnd : State := (sets nm [(.RV_STAT_NEXT, instH 1 31, 5)]).setPolder 31 (some (pold 0))
def bnd7 : State := bnd.updRcd 1 fun x => { x with viewEnd := [(31, some 4)], viewDrops := [(31, 65536)] }

theorem wit_RecorderWritesFreezesAndClears_1 : ∃ (h : Half) (ev : Event) (s : State) (k : Nat), k = s.recHalf h ∧ s.frozen k =
    false ∧ s.recHeld k < 8192 :=
⟨1, ev, (rs 1 [(.REC_STAT_NEXT, instH 1 0, 4294967295), (.REC_STAT_OLDEST, instH 1 0, 4294967290)] [rc 4294967294]), 1, by
    decide +kernel⟩
theorem wit_RecorderWritesFreezesAndClears_2 : ∃ (h : Half) (ev : Event) (s : State) (k : Nat), k = s.recHalf h ∧ s.frozen k =
    true ∧ s.get .REC_DROP_STAGED (instH k 0) < 64 :=
⟨1, ev, (sets (frz 1 []) [(.REC_DROP_STAGED, instH 1 0, 63)]), 1, by decide +kernel⟩
theorem wit_RecorderWritesFreezesAndClears_3 : ∃ (h : Half) (ev : Event) (s : State) (k : Nat), k = s.recHalf h ∧ ((s.frozen k
    = true ∧ 64 ≤ s.get .REC_DROP_STAGED (instH k 0) ∨ s.frozen k = false ∧ s.recLive k = false ∧ 8192 ≤ s.recHeld k)) :=
⟨1, ev, (sets (frz 1 []) [(.REC_DROP_STAGED, instH 1 0, 64), (.REC_DROP_DROPPED, instH 1 0, 4294967295)]), 1, by
    decide +kernel⟩
theorem wit_RecorderWritesFreezesAndClears_3b : ∃ (h : Half) (ev : Event) (s : State) (k : Nat), k = s.recHalf h ∧ ((s.frozen
    k = true ∧ 64 ≤ s.get .REC_DROP_STAGED (instH k 0) ∨ s.frozen k = false ∧ s.recLive k = false ∧ 8192 ≤ s.recHeld k)) :=
⟨0, ev, (rs 0 [(.REC_STAT_NEXT, instH 0 0, 8192)] []), 0, by decide +kernel⟩
theorem wit_RecorderWritesFreezesAndClears_4 : ∃ (h : Half) (ev : Event) (s : State) (k : Nat), k = s.recHalf h ∧ s.frozen k =
    false ∧ s.recLive k = false ∧ s.recHeld k = 8191 ∧ s.get .REC_STAT_NEXT (instH k 0) < 2 ^ 32 ∧ s.get .REC_STAT_OLDEST
    (instH k 0) < 2 ^ 32 :=
⟨0, ev, (rs 0 [(.REC_STAT_NEXT, instH 0 0, 8191)] []), 0, by decide +kernel⟩
theorem wit_RecorderWritesFreezesAndClears_5 : ∃ (h : Half) (ev : Event) (s : State) (k : Nat), k = s.recHalf h ∧ s.frozen k =
    false ∧ s.recLive k = true ∧ s.recHeld k = 8192 ∧ (s.rcd.get k).recs ≠ [] ∧ s.get .REC_STAT_NEXT (instH k 0) < 2 ^ 32 ∧
    s.get .REC_STAT_OLDEST (instH k 0) < 2 ^ 32 :=
⟨1, ev, (live 1 [(.REC_STAT_NEXT, instH 1 0, 8191), (.REC_STAT_OLDEST, instH 1 0, 4294967295)] [rc 4294967295, rc 0]), 1, by
    decide +kernel⟩
theorem wit_RecorderWritesFreezesAndClears_6 : ∃ (a : Acc) (h : Half) (v : Word) (s : State), a.sec = true ∧ s.lost h = false
    ∧ s.recLive h = false ∧ s.frozen h = false ∧ v.getLsbD 0 = true ∧ v.getLsbD 1 = false ∧ v.getLsbD 3 = false :=
⟨hub, 1, 0xFFFF0005, nm, by decide +kernel⟩
theorem wit_RecorderWritesFreezesAndClears_7 : ∃ (a : Acc) (h : Half) (v : Word) (s : State), a.sec = true ∧ s.lost h = false
    ∧ s.recLive h = false ∧ s.frozen h = true ∧ v.getLsbD 0 = false ∧ v.getLsbD 1 = false ∧ v.getLsbD 3 = false :=
⟨hub, 1, 0, frz 1 [], by decide +kernel⟩
theorem wit_RecorderWritesFreezesAndClears_7b : ∃ (a : Acc) (h : Half) (v : Word) (s : State), a.sec = true ∧ s.lost h = false
    ∧ s.recLive h = false ∧ s.frozen h = true ∧ v.getLsbD 0 = false ∧ v.getLsbD 1 = false ∧ v.getLsbD 3 = false :=
⟨hub, 0, 0, frz 0 [rc 0], by decide +kernel⟩
theorem wit_RecorderWritesFreezesAndClears_8 : ∃ (a : Acc) (h : Half) (v : Word) (s : State), a.sec = true ∧ s.lost h = false
    ∧ s.recLive h = true ∧ s.frozen h = false ∧ v.getLsbD 1 = true ∧ v.getLsbD 3 = false :=
⟨hub, 1, 2, live 1 [] [rc 0], by decide +kernel⟩
theorem wit_RecorderWritesFreezesAndClears_8b : ∃ (a : Acc) (h : Half) (v : Word) (s : State), a.sec = true ∧ s.lost h = false
    ∧ s.recLive h = true ∧ s.frozen h = false ∧ v.getLsbD 1 = true ∧ v.getLsbD 3 = false :=
⟨hub, 1, 3, live 1 [] [rc 0], by decide +kernel⟩
theorem wit_RecorderWritesFreezesAndClears_9 : ∃ (a : Acc) (h : Half) (v : Word) (s : State), a.sec = true ∧ s.lost h = false
    ∧ s.recLive h = false ∧ s.frozen h = false ∧ v.getLsbD 0 = false ∧ v.getLsbD 1 = false ∧ v.getLsbD 3 = true :=
⟨hub, 1, 8, rs 1 [(.REC_STAT_NEXT, instH 1 0, 8192), (.REC_DROP_FULL, instH 1 0, 1)] [rc 3, rc 4], by decide +kernel⟩
theorem wit_RecorderWritesFreezesAndClears_10 : ∃ (a : Acc) (h : Half) (v : Word) (s : State), a.sec = true ∧ s.lost h = false
    ∧ s.recLive h = false ∧ s.frozen h = false ∧ v.getLsbD 1 = true ∧ v.getLsbD 3 = false ∧ s.recHeld h < 8192 :=
⟨hub, 1, 2, rs 1 [(.REC_STAT_NEXT, instH 1 0, 8191)] [rc 3], by decide +kernel⟩
theorem wit_RecorderWritesFreezesAndClears_10b : ∃ (a : Acc) (h : Half) (v : Word) (s : State), a.sec = true ∧ s.lost h =
    false ∧ s.recLive h = false ∧ s.frozen h = false ∧ v.getLsbD 1 = true ∧ v.getLsbD 3 = false ∧ s.recHeld h < 8192 :=
⟨hub, 0, 3, nm, by decide +kernel⟩
theorem wit_RecorderWritesFreezesAndClears_11 : ∃ (a : Acc) (h : Half) (v : Word) (s : State), a.sec = true ∧ s.lost h = false
    ∧ s.recLive h = true ∧ s.frozen h = false ∧ s.recHeld h < 8192 ∧ v.getLsbD 0 = false ∧ v.getLsbD 1 = false ∧ v.getLsbD 3 =
    false :=
⟨hub, 1, 0, live 1 [(.REC_STAT_NEXT, instH 1 0, 8191)] [rc 3], by decide +kernel⟩
theorem wit_RecorderWritesFreezesAndClears_12 : ∃ (a : Acc) (h : Half) (v : Word) (s : State), a.sec = true ∧ s.lost h = false
    ∧ s.recLive h = true ∧ s.frozen h = false ∧ s.recHeld h = 8192 ∧ v.getLsbD 0 = false ∧ v.getLsbD 1 = false ∧ v.getLsbD 3 =
    false :=
⟨hub, 1, 0, live 1 [(.REC_STAT_NEXT, instH 1 0, 8192)] [rc 3], by decide +kernel⟩
theorem wit_RecorderWritesFreezesAndClears_13 : ∃ (h : Half) (s : State), s.frozen h = true ∧ (s.rcd.get h).frozenAt + max
    (s.get .REC_CTL_FREEZE_MAX (instH h 0)) 1 * 1000000 ≤ s.now :=
⟨1, (sets (frz 1 []) [(.PT_NOW_TIME, 0, 1000000)]), by decide +kernel⟩
theorem wit_RecorderWritesFreezesAndClears_13b : ∃ (h : Half) (s : State), s.frozen h = true ∧ (s.rcd.get h).frozenAt + max
    (s.get .REC_CTL_FREEZE_MAX (instH h 0)) 1 * 1000000 ≤ s.now :=
⟨0, (sets (frz 0 [rc 0]) [(.PT_NOW_TIME, 0, 65535000000), (.REC_CTL_FREEZE_MAX, instH 0 0, 65535)]), by decide +kernel⟩
theorem wit_RecorderWritesFreezesAndClears_14 : ∃ (h : Half) (s : State), ((s.frozen h = false ∨ s.now < (s.rcd.get
    h).frozenAt + max (s.get .REC_CTL_FREEZE_MAX (instH h 0)) 1 * 1000000)) :=
⟨1, nm, by exact Or.inl (by decide +kernel)⟩
theorem wit_RecorderWritesFreezesAndClears_14b : ∃ (h : Half) (s : State), ((s.frozen h = false ∨ s.now < (s.rcd.get
    h).frozenAt + max (s.get .REC_CTL_FREEZE_MAX (instH h 0)) 1 * 1000000)) :=
⟨1, (sets (frz 1 []) [(.PT_NOW_TIME, 0, 999999)]), by exact Or.inr (by decide +kernel)⟩
theorem wit_RecorderWritesFreezesAndClears_15 : ∃ (c : Cmd) (s : State) (h : Nat), s.passes specRecFreeze c = true ∧
    s.srcSecure c.src = true ∧ bitsOf c.e.p0 0 0 = h ∧ s.recLive h = false :=
⟨sbc 0x51 0 1 0, nm, 1, by decide +kernel⟩
theorem wit_RecorderWritesFreezesAndClears_16 : ∃ (c : Cmd) (s : State) (h : Nat), s.passes specRecFreeze c = true ∧
    s.srcSecure c.src = true ∧ bitsOf c.e.p0 0 0 = h ∧ s.recLive h = true :=
⟨sbc 0x51 0 1 0, live 1 [] [], 1, by decide +kernel⟩
theorem wit_RecorderWritesFreezesAndClears_17 : ∃ (c : Cmd) (s : State) (h p : Nat), s.passes specRecFreeze c = true ∧
    s.srcSecure c.src = false ∧ bitsOf c.e.p0 0 0 = h ∧ p = c.e.polder ∧ p ≠ 0 ∧ (s.polder p).isSome = true ∧ s.srcBound c.src
    p = true ∧ s.recLive h = false :=
⟨mbc 31 0x51 31 1 0, bnd, 1, 31, by decide +kernel⟩
theorem wit_RecorderWritesFreezesAndClears_18 : ∃ (c : Cmd) (s : State), s.passes specRecFreeze c = true ∧ s.srcSecure c.src =
    false ∧ ((c.e.polder = 0 ∨ s.polder c.e.polder = none ∨ s.srcBound c.src c.e.polder = false)) :=
⟨mbc 31 0x51 0 1 0, bnd, by decide +kernel⟩
theorem wit_RecorderWritesFreezesAndClears_19 : ∃ (c : Cmd) (s : State) (h : Nat), s.passes specRecFreeze c = true ∧
    s.srcSecure c.src = true ∧ bitsOf c.e.p0 0 0 = h ∧ s.frozen h = true :=
⟨sbc 0x52 0 1 0, (frz 1 [rc 0]), 1, by decide +kernel⟩
theorem wit_RecorderWritesFreezesAndClears_20 : ∃ (c : Cmd) (s : State) (h p : Nat), s.passes specRecFreeze c = true ∧
    s.srcSecure c.src = false ∧ bitsOf c.e.p0 0 0 = h ∧ p = c.e.polder ∧ p ≠ 0 ∧ (s.polder p).isSome = true ∧ s.srcBound c.src
    p = true ∧ (Tbl.get none (s.rcd.get h).viewEnd p).isSome = true :=
⟨mbc 31 0x52 31 1 0, bnd7, 1, 31, by decide +kernel⟩

end RecorderWritesFreezesAndClears

namespace RecorderViewsWindowsAndExports

def ra (q v : Nat) : Rec := ⟨q, v, 1, 0x30, 31, true, false, 1, 0x105, 1, [1, 2, 3, 4], 10, 0⟩
def nm : State := (sets upS [(.REC_CTL_MODE, instH 0 0, 0), (.REC_CTL_MODE, instH 1 0, 0), (.RV_STAT_NEXT, instH 1 31, 7)]).setPolder 31 (some (pold 0))
def rv (h : Half) (l : List (Fld × Nat × Nat)) (r : List Rec) : State := (sets nm l).updRcd h fun x => { x with recs := r }
def a31 : Acc := ⟨31, false, .hubAgent 0⟩
def wit : State := rv 1 [(.REC_STAT_NEXT, instH 1 0, 3), (.REC_STAT_OLDEST, instH 1 0, 4294967295), (.RV_STAT_NEXT, instH 1 31, 6)] [ra 4294967295 3, ra 0 4, ra 1 5, { ra 2 0 with pol := 5 }]

theorem wit_RecorderViewsWindowsAndExports_1 : ∃ (a : Acc) (h : Half) (p : Pol) (v : Word) (s : State), ((a.sec = true ∨ a.pol
    = p)) ∧ s.lost h = false ∧ v.getLsbD 0 = true ∧ Tbl.get none (s.rcd.get h).viewEnd p = none :=
⟨a31, 1, 31, 1, wit, by decide +kernel⟩
theorem wit_RecorderViewsWindowsAndExports_1b : ∃ (a : Acc) (h : Half) (p : Pol) (v : Word) (s : State), ((a.sec = true ∨
    a.pol = p)) ∧ s.lost h = false ∧ v.getLsbD 0 = true ∧ Tbl.get none (s.rcd.get h).viewEnd p = none :=
⟨hub, 0, 1, 3, upS, by decide +kernel⟩
theorem wit_RecorderViewsWindowsAndExports_2 : ∃ (a : Acc) (h : Half) (p : Pol) (v : Word) (s : State), ((a.sec = true ∨ a.pol
    = p)) ∧ s.lost h = false ∧ v.getLsbD 0 = false :=
⟨a31, 1, 31, 0xFFFFFFFFFFFFFFFE, wit.updRcd 1 fun x => { x with viewEnd := [(31, some 4)] }, by decide +kernel⟩
theorem wit_RecorderViewsWindowsAndExports_3 : ∃ (a : Acc) (h : Half) (v : Word) (s : State) (o : Nat), a.sec = true ∧ s.lost
    h = false ∧ v.getLsbD 32 = false ∧ o = s.get .REC_STAT_OLDEST (instH h 0) ∧ o < 2 ^ 32 :=
⟨hub, 1, 4294967294, wit, 4294967295, by decide +kernel⟩
theorem wit_RecorderViewsWindowsAndExports_3b : ∃ (a : Acc) (h : Half) (v : Word) (s : State) (o : Nat), a.sec = true ∧ s.lost
    h = false ∧ v.getLsbD 32 = false ∧ o = s.get .REC_STAT_OLDEST (instH h 0) ∧ o < 2 ^ 32 :=
⟨hub, 1, 0, wit, 4294967295, by decide +kernel⟩
theorem wit_RecorderViewsWindowsAndExports_4 : ∃ (a : Acc) (h : Half) (p : Pol) (v : Word) (s : State), ((a.sec = true ∨ a.pol
    = p)) ∧ s.lost h = false :=
⟨a31, 1, 31, 0xFFFFFFFFFF, wit, by decide +kernel⟩
theorem wit_RecorderViewsWindowsAndExports_4b : ∃ (a : Acc) (h : Half) (p : Pol) (v : Word) (s : State), ((a.sec = true ∨
    a.pol = p)) ∧ s.lost h = false :=
⟨hub, 0, 0, 0, upS, by decide +kernel⟩
theorem wit_RecorderViewsWindowsAndExports_5 : ∃ (h : Half) (p : Pol) (s : State) (r : Rec) (l : List Rec), s.flag
    .RV_STAT_BUSY (instH h p) = true ∧ s.viewRecs h p = r :: l ∧ r.vseq < 2 ^ 32 :=
⟨1, 31, sets wit [(.RV_STAT_BUSY, instH 1 31, 1), (.RV_CURSOR_VSEQ, instH 1 31, 1)], ra 4294967295 3, [ra 0 4, ra 1 5], by
    decide +kernel⟩
theorem wit_RecorderViewsWindowsAndExports_5b : ∃ (h : Half) (p : Pol) (s : State) (r : Rec) (l : List Rec), s.flag
    .RV_STAT_BUSY (instH h p) = true ∧ s.viewRecs h p = r :: l ∧ r.vseq < 2 ^ 32 :=
⟨1, 31, sets wit [(.RV_STAT_BUSY, instH 1 31, 1), (.RV_CURSOR_VSEQ, instH 1 31, 5)], ra 4294967295 3, [ra 0 4, ra 1 5], by
    decide +kernel⟩
theorem wit_RecorderViewsWindowsAndExports_6 : ∃ (h : Half) (p : Pol) (s : State), s.flag .RV_STAT_BUSY (instH h p) = false :=
⟨0, 0, upS, by decide +kernel⟩
theorem wit_RecorderViewsWindowsAndExports_7 : ∃ (a : Acc) (h : Half) (s : State) (c : Nat), a.sec = true ∧ s.lost h = false ∧
    s.flag .REC_CURSOR_PARTNER (instH h 0) = false ∧ c = s.get .REC_CURSOR_SEQ (instH h 0) ∧ seqBefore c (s.get .REC_STAT_NEXT
    (instH h 0)) = true :=
⟨hub, 1, sets wit [(.REC_CURSOR_SEQ, instH 1 0, 4294967295)], 4294967295, by decide +kernel⟩
theorem wit_RecorderViewsWindowsAndExports_7b : ∃ (a : Acc) (h : Half) (s : State) (c : Nat), a.sec = true ∧ s.lost h = false
    ∧ s.flag .REC_CURSOR_PARTNER (instH h 0) = false ∧ c = s.get .REC_CURSOR_SEQ (instH h 0) ∧ seqBefore c (s.get
    .REC_STAT_NEXT (instH h 0)) = true :=
⟨hub, 1, sets wit [(.REC_CURSOR_SEQ, instH 1 0, 2)], 2, by decide +kernel⟩
theorem wit_RecorderViewsWindowsAndExports_8 : ∃ (a : Acc) (h : Half) (s : State) (c : Nat), a.sec = true ∧ s.lost h = false ∧
    s.flag .REC_CURSOR_PARTNER (instH h 0) = false ∧ c = s.get .REC_CURSOR_SEQ (instH h 0) ∧ seqBefore c (s.get .REC_STAT_NEXT
    (instH h 0)) = false :=
⟨hub, 1, sets wit [(.REC_CURSOR_SEQ, instH 1 0, 3)], 3, by decide +kernel⟩
theorem wit_RecorderViewsWindowsAndExports_9 : ∃ (a : Acc) (h : Half) (p : Pol) (s : State) (c : Nat), ((a.sec = true ∨ a.pol
    = p)) ∧ s.lost h = false ∧ s.flag .RV_STAT_BUSY (instH h p) = false ∧ c = s.get .RV_CURSOR_VSEQ (instH h p) ∧ seqBefore c
    (s.viewNext h p) = true :=
⟨a31, 1, 31, sets wit [(.RV_CURSOR_VSEQ, instH 1 31, 5)], 5, by decide +kernel⟩
theorem wit_RecorderViewsWindowsAndExports_9b : ∃ (a : Acc) (h : Half) (p : Pol) (s : State) (c : Nat), ((a.sec = true ∨ a.pol
    = p)) ∧ s.lost h = false ∧ s.flag .RV_STAT_BUSY (instH h p) = false ∧ c = s.get .RV_CURSOR_VSEQ (instH h p) ∧ seqBefore c
    (s.viewNext h p) = true :=
⟨a31, 1, 31, sets wit [(.RV_CURSOR_VSEQ, instH 1 31, 3)], 3, by decide +kernel⟩
theorem wit_RecorderViewsWindowsAndExports_10 : ∃ (a : Acc) (h : Half) (p : Pol) (s : State), ((a.sec = true ∨ a.pol = p)) ∧
    s.lost h = false ∧ s.flag .RV_STAT_BUSY (instH h p) = true :=
⟨a31, 1, 31, sets wit [(.RV_STAT_BUSY, instH 1 31, 1)], by decide +kernel⟩
theorem wit_RecorderViewsWindowsAndExports_11 : ∃ (h p : Nat) (s : State) (r : Rec), r ∈ s.viewRecs h p :=
⟨1, 31, wit, ra 1 5, by decide +kernel⟩
theorem wit_RecorderViewsWindowsAndExports_12 : ∃ (r : Rec) (i : Nat), i < 4 ∧ r.hide.testBit i = true :=
⟨ra 1 5, 3, by decide +kernel⟩
theorem wit_RecorderViewsWindowsAndExports_12b : ∃ (r : Rec) (i : Nat), i < 4 ∧ r.hide.testBit i = true :=
⟨ra 1 5, 1, by decide +kernel⟩
theorem wit_RecorderViewsWindowsAndExports_13 : ∃ (c : Cmd) (s : State) (h : Nat), s.passes (specExport 0) c = true ∧
    s.srcSecure c.src = true ∧ bitsOf c.e.p0 0 0 = h :=
⟨sbc 0x28 0 3 0, wit, 1, by decide +kernel⟩
theorem wit_RecorderViewsWindowsAndExports_14 : ∃ (c : Cmd) (s : State), s.passes (specExport 0) c = true ∧ s.srcSecure c.src
    = false :=
⟨mbc 31 0x28 31 3 0, wit, by decide +kernel⟩
theorem wit_RecorderViewsWindowsAndExports_15 : ∃ (c : Cmd) (s : State) (h : Nat) (l : List Rec), s.passes (specExport 1) c =
    true ∧ s.srcSecure c.src = true ∧ bitsOf c.e.p0 0 0 = h ∧ l = (s.heldAtAccept c (s.rcd.get h).recs).take (s.bufLen c / 64)
    :=
⟨sbb 0x28 0 1 0 191 [], wit, 1, [ra 4294967295 3, ra 0 4], by decide +kernel⟩
theorem wit_RecorderViewsWindowsAndExports_16 : ∃ (c : Cmd) (s : State) (h p : Nat) (l : List Rec), s.passes (specExport 1) c
    = true ∧ s.srcSecure c.src = false ∧ bitsOf c.e.p0 0 0 = h ∧ p = c.e.polder ∧ p ≠ 0 ∧ (s.polder p).isSome = true ∧
    s.srcBound c.src p = true ∧ l = (s.heldAtAccept c (s.viewRecs h p)).take (s.bufLen c / 64) :=
⟨⟨.mailbox 31, 0, entB 0x28 31 1 0 0x1000 4096 1, [], []⟩, openRgn wit, 1, 31, [ra 4294967295 3, ra 0 4, ra 1 5], by
    decide +kernel⟩
theorem wit_RecorderViewsWindowsAndExports_17 : ∃ (h : Half) (s : State), s.flag .REC_DROP_FULL (instH h 0) = true ∧ s.flag
    .REC_CTL_AUTO_EXPORT (instH h 0) = true ∧ s.recLive h = false ∧ s.frozen h = false ∧ s.lost h = false ∧ (s.rcd.get
    h).staged = [] ∧ (s.rcd.get h).stagedReps = [] ∧ s.get .REC_DROP_STAGED (instH h 0) = 0 :=
⟨1, sets wit [(.REC_DROP_FULL, instH 1 0, 1), (.REC_CTL_AUTO_EXPORT, instH 1 0, 1)], by decide +kernel⟩
theorem wit_RecorderViewsWindowsAndExports_17b : ∃ (h : Half) (s : State), s.flag .REC_DROP_FULL (instH h 0) = true ∧ s.flag
    .REC_CTL_AUTO_EXPORT (instH h 0) = true ∧ s.recLive h = false ∧ s.frozen h = false ∧ s.lost h = false ∧ (s.rcd.get
    h).staged = [] ∧ (s.rcd.get h).stagedReps = [] ∧ s.get .REC_DROP_STAGED (instH h 0) = 0 :=
⟨0, sets wit [(.REC_DROP_FULL, instH 0 0, 1), (.REC_CTL_AUTO_EXPORT, instH 0 0, 1)], by decide +kernel⟩
theorem wit_RecorderViewsWindowsAndExports_18 : ∃ (h : Half) (s : State), ((s.flag .REC_DROP_FULL (instH h 0) = false ∨ s.flag
    .REC_CTL_AUTO_EXPORT (instH h 0) = false)) :=
⟨1, sets wit [(.REC_CTL_AUTO_EXPORT, instH 1 0, 1)], by decide +kernel⟩
theorem wit_RecorderViewsWindowsAndExports_18b : ∃ (h : Half) (s : State), ((s.flag .REC_DROP_FULL (instH h 0) = false ∨
    s.flag .REC_CTL_AUTO_EXPORT (instH h 0) = false)) :=
⟨0, sets wit [(.REC_CTL_AUTO_EXPORT, instH 0 0, 0), (.REC_DROP_FULL, instH 0 0, 1)], by decide +kernel⟩

end RecorderViewsWindowsAndExports

namespace SamplesBanksDumpsAndRegisters

def smp : SampleInfo := ⟨0x2000, 0xFFFF, 7, 0x35, true, false, 0x12345678⟩
def sm (g : Nat) (s : State) (v35 v36 v37 : Word) : State :=
  sysr s g [(0xC34, 0x0000000A000003E1), (0xC35, v35), (0xC36, v36), (0xC37, v37)]
def grd (n : Nat) (v37 : Word) : State :=
  (sm 239 (gOpen 239) 0 0 v37).updCore 239 fun c => { c with smpHeld := List.replicate n [] }
def rb (v35 v36 v37 : Word) : State := sm 239 (openRgn (run 239)) v35 v36 v37
def due (b : Bool) : SmpDue := ⟨0xFFFF800000001000, 3, 0x1234, 77, b⟩
def withDue (s : State) (b : Bool) : State := s.updCore 239 fun c => { c with smpDue := [due b, due false] }
def adv (s : State) : State := s.updCore 239 fun c => { c with smpDue := [due false] }
def pd : Polder := { pold 4 with lcpus := [some 239], dump := some (0x100000, 64), everTicked := true }
def dp (v : Polder) (l : List (Fld × Nat × Nat)) : State := (sets upS l).setPolder 31 (some v)
def a5 : Acc := ⟨5, false, .hubAgent 0⟩

theorem wit_SamplesBanksDumpsAndRegisters_1 : ∃ (g : GCore) (x : SampleInfo) (s : State), (s.core g).smpDue = [] :=
⟨239, smp, run 239, by decide +kernel⟩
theorem wit_SamplesBanksDumpsAndRegisters_2 : ∃ (g : GCore) (x : SampleInfo) (d : SmpDue) (ds : List SmpDue) (s : State),
    (s.core g).smpDue = d :: ds ∧ d.held = true ∧ s.inGuarded g = true ∧ (s.core g).smpHeld.length < 16 :=
⟨239, smp, due true, [due false], withDue (grd 15 0) true, by decide +kernel⟩
theorem wit_SamplesBanksDumpsAndRegisters_3 : ∃ (g : GCore) (x : SampleInfo) (d : SmpDue) (ds : List SmpDue) (s : State),
    (s.core g).smpDue = d :: ds ∧ ((d.held = true ∧ s.inGuarded g = true ∧ 16 ≤ (s.core g).smpHeld.length ∨ (d.held = false ∨
    s.inGuarded g = false) ∧ (((s.core g).sysOf 0xC37).toNat % 2 = 1 ∨ (s.core g).smpSize ≤ ((s.core g).sysOf 0xC36).toNat % 2
    ^ 22))) :=
⟨239, smp, due true, [due false], withDue (grd 16 0xFFFF0000) true, by exact ⟨by decide +kernel, Or.inl (by decide +kernel)⟩⟩
theorem wit_SamplesBanksDumpsAndRegisters_3b : ∃ (g : GCore) (x : SampleInfo) (d : SmpDue) (ds : List SmpDue) (s : State),
    (s.core g).smpDue = d :: ds ∧ ((d.held = true ∧ s.inGuarded g = true ∧ 16 ≤ (s.core g).smpHeld.length ∨ (d.held = false ∨
    s.inGuarded g = false) ∧ (((s.core g).sysOf 0xC37).toNat % 2 = 1 ∨ (s.core g).smpSize ≤ ((s.core g).sysOf 0xC36).toNat % 2
    ^ 22))) :=
⟨239, smp, due true, [due false], withDue (grd 16 0xFFFE0000) true, by exact ⟨by decide +kernel, Or.inl (by decide +kernel)⟩⟩
theorem wit_SamplesBanksDumpsAndRegisters_3c : ∃ (g : GCore) (x : SampleInfo) (d : SmpDue) (ds : List SmpDue) (s : State),
    (s.core g).smpDue = d :: ds ∧ ((d.held = true ∧ s.inGuarded g = true ∧ 16 ≤ (s.core g).smpHeld.length ∨ (d.held = false ∨
    s.inGuarded g = false) ∧ (((s.core g).sysOf 0xC37).toNat % 2 = 1 ∨ (s.core g).smpSize ≤ ((s.core g).sysOf 0xC36).toNat % 2
    ^ 22))) :=
⟨239, smp, due false, [due false], withDue (rb 0x3000 63 1) false, by exact ⟨by decide +kernel, Or.inr ⟨Or.inl (by
    decide +kernel), Or.inl (by decide +kernel)⟩⟩⟩
theorem wit_SamplesBanksDumpsAndRegisters_3d : ∃ (g : GCore) (x : SampleInfo) (d : SmpDue) (ds : List SmpDue) (s : State),
    (s.core g).smpDue = d :: ds ∧ ((d.held = true ∧ s.inGuarded g = true ∧ 16 ≤ (s.core g).smpHeld.length ∨ (d.held = false ∨
    s.inGuarded g = false) ∧ (((s.core g).sysOf 0xC37).toNat % 2 = 1 ∨ (s.core g).smpSize ≤ ((s.core g).sysOf 0xC36).toNat % 2
    ^ 22))) :=
⟨239, smp, due true, [due false], withDue (rb 0x3000 64 0xFFFF0000) true, by exact ⟨by decide +kernel, Or.inr ⟨Or.inr (by
    decide +kernel), Or.inr (by decide +kernel)⟩⟩⟩
theorem wit_SamplesBanksDumpsAndRegisters_4 : ∃ (g : GCore) (x : SampleInfo) (d : SmpDue) (ds : List SmpDue) (s u : State) (b
    i : Nat), (s.core g).smpDue = d :: ds ∧ ((d.held = false ∨ s.inGuarded g = false)) ∧ ((s.core g).sysOf 0xC37).toNat % 2 =
    0 ∧ i < (s.core g).smpSize ∧ (s.core g).intEnabled = false ∧ u = s.updCore g (fun c => { c with smpDue := ds }) ∧ b =
    bitsOf ((s.core g).sysOf 0xC35).toNat 51 12 * 4096 ∧ i = ((s.core g).sysOf 0xC36).toNat % 2 ^ 22 ∧ u.coreRefused g (b + i
    * 64) true = none :=
⟨239, smp, due true, [due false], withDue (rb 0x3000 63 0) true, adv (withDue (rb 0x3000 63 0) true), 0x3000, 63, by exact ⟨by
    decide +kernel, Or.inr (by decide +kernel), by decide +kernel, by decide +kernel, by decide +kernel, rfl, by
    decide +kernel, by decide +kernel, by decide +kernel⟩⟩
theorem wit_SamplesBanksDumpsAndRegisters_4b : ∃ (g : GCore) (x : SampleInfo) (d : SmpDue) (ds : List SmpDue) (s u : State) (b
    i : Nat), (s.core g).smpDue = d :: ds ∧ ((d.held = false ∨ s.inGuarded g = false)) ∧ ((s.core g).sysOf 0xC37).toNat % 2 =
    0 ∧ i < (s.core g).smpSize ∧ (s.core g).intEnabled = false ∧ u = s.updCore g (fun c => { c with smpDue := ds }) ∧ b =
    bitsOf ((s.core g).sysOf 0xC35).toNat 51 12 * 4096 ∧ i = ((s.core g).sysOf 0xC36).toNat % 2 ^ 22 ∧ u.coreRefused g (b + i
    * 64) true = none :=
⟨239, smp, due false, [due false], withDue (rb 0x3001 0 0) false, adv (withDue (rb 0x3001 0 0) false), 0x3000, 0, by exact ⟨by
    decide +kernel, Or.inl (by decide +kernel), by decide +kernel, by decide +kernel, by decide +kernel, rfl, by
    decide +kernel, by decide +kernel, by decide +kernel⟩⟩
theorem wit_SamplesBanksDumpsAndRegisters_5 : ∃ (a : Acc) (addr : BitVec 52) (v : Word) (s : State) (u b : Nat), bankAt
    addr.toNat = some (u, b) ∧ u < 12 ∧ a.sec = true ∧ s.unitGone addr.toNat = false :=
⟨hub, 0xFF00B85000300, 0xFFFFFFFFFFFFFFFF, upS, 11, 3, by decide +kernel⟩
theorem wit_SamplesBanksDumpsAndRegisters_5b : ∃ (a : Acc) (addr : BitVec 52) (v : Word) (s : State) (u b : Nat), bankAt
    addr.toNat = some (u, b) ∧ u < 12 ∧ a.sec = true ∧ s.unitGone addr.toNat = false :=
⟨hub, 0xFF00085000000, 0, upS, 0, 0, by decide +kernel⟩
theorem wit_SamplesBanksDumpsAndRegisters_6 : ∃ (a : Acc) (addr : BitVec 52) (v : Word) (s : State) (h b : Nat), bankAt
    addr.toNat = some (12 + h, b) ∧ a.sec = true ∧ s.unitGone addr.toNat = false :=
⟨hub, 0xFF00DA0001F00, 0x3F, upS, 1, 31, by decide +kernel⟩
theorem wit_SamplesBanksDumpsAndRegisters_6b : ∃ (a : Acc) (addr : BitVec 52) (v : Word) (s : State) (h b : Nat), bankAt
    addr.toNat = some (12 + h, b) ∧ a.sec = true ∧ s.unitGone addr.toNat = false :=
⟨hub, 0xFF00CA0000000, 0, upS, 0, 0, by decide +kernel⟩
theorem wit_SamplesBanksDumpsAndRegisters_7 : ∃ (a : Acc) (addr : BitVec 52) (v : Word) (s : State), bankAt addr.toNat = none
    :=
⟨hub, 0xFF00B85000400, 1, upS, by decide +kernel⟩
theorem wit_SamplesBanksDumpsAndRegisters_7b : ∃ (a : Acc) (addr : BitVec 52) (v : Word) (s : State), bankAt addr.toNat = none
    :=
⟨hub, 0xFF00DA0002000, 1, upS, by decide +kernel⟩
theorem wit_SamplesBanksDumpsAndRegisters_8 : ∃ (c : Cmd) (s : State) (p : Nat) (v : Polder), s.passes specSetDump c = true ∧
    p = bitsOf c.e.p0 15 0 - 0x700 ∧ s.polder p = some v ∧ s.srcBound c.src p = true ∧ v.tickBound = true ∧ v.dump.isSome =
    true ∧ c.e.p1 < 2 ^ 16 :=
⟨sbc 0x04 0 0x71F 0xFFFF, dp pd [(.CNT_DUMP_K, 31, 9)], 31, pd, by decide +kernel⟩
theorem wit_SamplesBanksDumpsAndRegisters_8b : ∃ (c : Cmd) (s : State) (p : Nat) (v : Polder), s.passes specSetDump c = true ∧
    p = bitsOf c.e.p0 15 0 - 0x700 ∧ s.polder p = some v ∧ s.srcBound c.src p = true ∧ v.tickBound = true ∧ v.dump.isSome =
    true ∧ c.e.p1 < 2 ^ 16 :=
⟨sbc 0x04 0 0x71F 0, dp pd [(.CNT_DUMP_K, 31, 9)], 31, pd, by decide +kernel⟩
theorem wit_SamplesBanksDumpsAndRegisters_9 : ∃ (c : Cmd) (s : State) (p : Nat) (v : Polder), s.passes specSetDump c = true ∧
    p = bitsOf c.e.p0 15 0 - 0x700 ∧ s.polder p = some v ∧ s.srcBound c.src p = true ∧ v.tickBound = false ∧ c.e.p1 ≠ 0 :=
⟨sbc 0x04 0 0x71F 1, dp (pold 0) [], 31, pold 0, by decide +kernel⟩
theorem wit_SamplesBanksDumpsAndRegisters_10 : ∃ (c : Cmd) (s : State) (p : Nat) (v : Polder), s.passes specSetDump c = true ∧
    p = bitsOf c.e.p0 15 0 - 0x700 ∧ s.polder p = some v ∧ s.srcBound c.src p = true ∧ ((v.tickBound = true ∨ c.e.p1 = 0)) ∧
    v.dump = none :=
⟨sbc 0x04 0 0x71F 1, dp (pold 4) [], 31, pold 4, by decide +kernel⟩
theorem wit_SamplesBanksDumpsAndRegisters_10b : ∃ (c : Cmd) (s : State) (p : Nat) (v : Polder), s.passes specSetDump c = true
    ∧ p = bitsOf c.e.p0 15 0 - 0x700 ∧ s.polder p = some v ∧ s.srcBound c.src p = true ∧ ((v.tickBound = true ∨ c.e.p1 = 0)) ∧
    v.dump = none :=
⟨sbc 0x04 0 0x71F 0, dp (pold 0) [], 31, pold 0, by decide +kernel⟩
theorem wit_SamplesBanksDumpsAndRegisters_11 : ∃ (c : Cmd) (s : State) (p : Nat), s.passes specSetDump c = true ∧ p = bitsOf
    c.e.p0 15 0 - 0x700 ∧ ((s.polder p = none ∨ s.srcBound c.src p = false)) :=
⟨sbc 0x04 0 0x71F 1, upS, 31, by decide +kernel⟩
theorem wit_SamplesBanksDumpsAndRegisters_11b : ∃ (c : Cmd) (s : State) (p : Nat), s.passes specSetDump c = true ∧ p = bitsOf
    c.e.p0 15 0 - 0x700 ∧ ((s.polder p = none ∨ s.srcBound c.src p = false)) :=
⟨mbc 5 0x04 0 0x71F 1, (dp pd []).setPolder 5 (some (pold 0)), 31, by decide +kernel⟩
theorem wit_SamplesBanksDumpsAndRegisters_12 : ∃ (p : Pol) (s : State) (v : Polder) (area kib k n f : Nat), s.polder p = some
    v ∧ v.dump = some (area, kib) ∧ k = s.get .CNT_DUMP_K p ∧ n = s.get .TK_NOW_NUM p ∧ f = (s.ctx p).lastFire + s.tkOffset p
    ∧ k ≠ 0 ∧ n % k = 0 ∧ v.tickBound = true ∧ v.everTicked = true ∧ f ≤ s.now ∧ s.now ≤ f + 4 ∧ s.dumpSlots p ≠ 0 ∧ (s.ctx
    p).dumped = none :=
⟨31, dp pd [(.CNT_DUMP_K, 31, 2), (.TK_NOW_NUM, 31, 6)], pd, 0x100000, 64, 2, 6, 0, by decide +kernel⟩
theorem wit_SamplesBanksDumpsAndRegisters_13 : ∃ (p : Pol) (s : State), ((s.polder p = none ∨ s.get .CNT_DUMP_K p = 0 ∨ s.get
    .TK_NOW_NUM p % s.get .CNT_DUMP_K p ≠ 0 ∨ (s.ctx p).dumped.any (fun x => x.1 == s.get .TK_NOW_NUM p) = true)) :=
⟨31, upS, by decide +kernel⟩
theorem wit_SamplesBanksDumpsAndRegisters_13b : ∃ (p : Pol) (s : State), ((s.polder p = none ∨ s.get .CNT_DUMP_K p = 0 ∨ s.get
    .TK_NOW_NUM p % s.get .CNT_DUMP_K p ≠ 0 ∨ (s.ctx p).dumped.any (fun x => x.1 == s.get .TK_NOW_NUM p) = true)) :=
⟨31, dp pd [(.CNT_DUMP_K, 31, 2), (.TK_NOW_NUM, 31, 5)], by decide +kernel⟩
theorem wit_SamplesBanksDumpsAndRegisters_13c : ∃ (p : Pol) (s : State), ((s.polder p = none ∨ s.get .CNT_DUMP_K p = 0 ∨ s.get
    .TK_NOW_NUM p % s.get .CNT_DUMP_K p ≠ 0 ∨ (s.ctx p).dumped.any (fun x => x.1 == s.get .TK_NOW_NUM p) = true)) :=
⟨31, (dp pd [(.CNT_DUMP_K, 31, 1), (.TK_NOW_NUM, 31, 5)]).updCtx 31 fun c => { c with dumped := some (5, 0) }, by
    decide +kernel⟩
theorem wit_SamplesBanksDumpsAndRegisters_15 : ∃ (a : Acc) (addr : BitVec 52) (sz : Fin 4) (v : Word) (s : State) (r : Reg) (i
    : Nat), s.ctlTarget (addr.toNat / 8 * 8) = .reg r i ∧ a.sec = true ∧ s.unitGone addr.toNat = false ∧ ((sz ≠ 3 ∨ addr.toNat
    % 8 ≠ 0)) :=
⟨hub, 0xFF00B84000004, 3, 1, upS, .DPM_CTL, instD 11 0, by decide +kernel⟩
theorem wit_SamplesBanksDumpsAndRegisters_15b : ∃ (a : Acc) (addr : BitVec 52) (sz : Fin 4) (v : Word) (s : State) (r : Reg)
    (i : Nat), s.ctlTarget (addr.toNat / 8 * 8) = .reg r i ∧ a.sec = true ∧ s.unitGone addr.toNat = false ∧ ((sz ≠ 3 ∨
    addr.toNat % 8 ≠ 0)) :=
⟨hub, 0xFF00B84000000, 2, 1, upS, .DPM_CTL, instD 11 0, by decide +kernel⟩
theorem wit_SamplesBanksDumpsAndRegisters_16 : ∃ (a : Acc) (addr : BitVec 52) (sz : Fin 4) (v : Word) (s : State), s.ctlTarget
    (addr.toNat / 8 * 8) = .unassigned ∧ a.sec = true ∧ s.unitGone addr.toNat = false :=
⟨hub, 0xFF00B84000008, 3, 1, upS, by decide +kernel⟩
theorem wit_SamplesBanksDumpsAndRegisters_16b : ∃ (a : Acc) (addr : BitVec 52) (sz : Fin 4) (v : Word) (s : State),
    s.ctlTarget (addr.toNat / 8 * 8) = .unassigned ∧ a.sec = true ∧ s.unitGone addr.toNat = false :=
⟨hub, 0xFF00F00000000, 3, 1, upS, by decide +kernel⟩
theorem wit_SamplesBanksDumpsAndRegisters_17 : ∃ (a : Acc) (w : Bool) (addr : BitVec 52) (sz : Fin 4) (v : Word) (s : State),
    a.sec = false ∧ s.reaches a.pol w (s.ctlTarget (addr.toNat / 8 * 8)) = false :=
⟨a5, true, 0xFF00B84000000, 3, 1, upS, by decide +kernel⟩
theorem wit_SamplesBanksDumpsAndRegisters_17b : ∃ (a : Acc) (w : Bool) (addr : BitVec 52) (sz : Fin 4) (v : Word) (s : State),
    a.sec = false ∧ s.reaches a.pol w (s.ctlTarget (addr.toNat / 8 * 8)) = false :=
⟨a5, false, 0xFF00B84000008, 0, 1, upS, by decide +kernel⟩
theorem wit_SamplesBanksDumpsAndRegisters_18 : ∃ (a : Acc) (addr : BitVec 52) (v : Word) (s : State) (r : Reg) (i : Nat),
    s.ctlTarget addr.toNat = .reg r i ∧ addr.toNat % 8 = 0 ∧ a.sec = true ∧ s.unitGone addr.toNat = false ∧ r ≠ .REC_WINDOW ∧
    r ≠ .RV_WINDOW :=
⟨hub, 0xFF00B84000000, 1, upS, .DPM_CTL, instD 11 0, by decide +kernel⟩
theorem wit_SamplesBanksDumpsAndRegisters_18b : ∃ (a : Acc) (addr : BitVec 52) (v : Word) (s : State) (r : Reg) (i : Nat),
    s.ctlTarget addr.toNat = .reg r i ∧ addr.toNat % 8 = 0 ∧ a.sec = true ∧ s.unitGone addr.toNat = false ∧ r ≠ .REC_WINDOW ∧
    r ≠ .RV_WINDOW :=
⟨hub, 0xFF00E00002008, 1, sets upS [(.REF_STAT_SWITCHES, 0, 65535)], .REF_STAT, 0, by decide +kernel⟩
theorem wit_SamplesBanksDumpsAndRegisters_19 : ∃ (a : Acc) (addr : BitVec 52) (v : Word) (s : State) (i : Nat), s.ctlTarget
    addr.toNat = .reg .DPM_CTL i ∧ addr.toNat % 8 = 0 ∧ a.sec = true ∧ s.unitGone addr.toNat = false :=
⟨hub, 0xFF00B84000000, 0xFFFFFFFFFFFFFFFF, upS, instD 11 0, by decide +kernel⟩
theorem wit_SamplesBanksDumpsAndRegisters_19b : ∃ (a : Acc) (addr : BitVec 52) (v : Word) (s : State) (i : Nat), s.ctlTarget
    addr.toNat = .reg .DPM_CTL i ∧ addr.toNat % 8 = 0 ∧ a.sec = true ∧ s.unitGone addr.toNat = false :=
⟨hub, 0xFF00084000000, 0, upS, instD 0 0, by decide +kernel⟩

end SamplesBanksDumpsAndRegisters

namespace CoreInstructionsTouchTheirOwnCore

def own : State :=
  withC (openRgn (run 5)) 5 fun c => { c with mb := [⟨0x40, 0xFFFFFFFFFFFFFFFF, 0x1234567890ABCDEF, 0, false, false⟩] }
theorem wit_CoreInstructionsTouchTheirOwnCore_26 : ∃ (g : GCore) (s t : State),
    exec (.branchMispredict g [(0x2000, .cond)] false 0x4000 []) s = .next t :=
  ⟨5, own, _, rfl⟩
theorem wit_CoreInstructionsTouchTheirOwnCore_27 : ∃ (g : GCore) (rd : Fin 32) (va : Word) (size : Fin 7) (pa : Nat) (s t : State),
    s.translate g va.toNat .load = .ok s pa false ∧ s.deviceType pa false = false ∧ pa % 64 + 2 ^ size.val ≤ 64 ∧
    s.coreRefused g pa false = none ∧ (s.core g).mbLost = [] ∧
    mbCovers (s.core g).mb (pa / 64) (pa % 64) (2 ^ size.val) = true ∧ exec (.load g .data rd va size .none) s = .next t :=
  ⟨5, 3, 0x103D, 1, 0x103D, own, _, by decide +kernel, by decide +kernel, by decide +kernel, by decide +kernel,
    by decide +kernel, by decide +kernel, rfl⟩
theorem wit_CoreInstructionsTouchTheirOwnCore_27b : ∃ (g : GCore) (rd : Fin 32) (va : Word) (size : Fin 7) (pa : Nat) (s t : State),
    s.translate g va.toNat .load = .ok s pa false ∧ s.deviceType pa false = false ∧ pa % 64 + 2 ^ size.val ≤ 64 ∧
    s.coreRefused g pa false = none ∧ (s.core g).mbLost = [] ∧
    mbCovers (s.core g).mb (pa / 64) (pa % 64) (2 ^ size.val) = true ∧ exec (.load g .data rd va size .none) s = .next t :=
  ⟨5, 3, 0x1000, 6, 0x1000, own, _, by decide +kernel, by decide +kernel, by decide +kernel, by decide +kernel,
    by decide +kernel, by decide +kernel, rfl⟩
theorem wit_CoreInstructionsTouchTheirOwnCore_28 : ∃ (g : GCore) (va : Word) (size : Fin 7) (rs : Fin 32) (ordered : Bool) (pa : Nat)
    (s t : State), s.translate g va.toNat .store = .ok s pa false ∧
    (s.closeMb g).translate g va.toNat .store = .ok (s.closeMb g) pa false ∧ s.deviceType pa false = false ∧
    pa % 64 + 2 ^ size.val ≤ 64 ∧ exec (.store g va size rs ordered) s = .next t :=
  ⟨5, 0x103F, 0, 3, true, 0x103F, own, _, by decide +kernel, by decide +kernel, by decide +kernel, by decide +kernel, rfl⟩

end CoreInstructionsTouchTheirOwnCore

end Sys2Proof.Tests
end

section
/-! SUPPORT. R5: control-space accesses of another size or alignment than an aligned 64-bit word, or at an unassigned offset. -/

namespace Sys2Proof.Machine

/-- R5: an access that no register answers: not an aligned 64-bit word, or at an unassigned offset of control space. -/
def State.misshapen (s : State) (addr size : Nat) : Prop :=
  (∃ r i, s.ctlTarget (addr / 8 * 8) = .reg r i ∧ wordAccess addr size = false) ∨
    s.ctlTarget (addr / 8 * 8) = .unassigned

/-- The only accesses of R5 are 8 bytes at a multiple of 8. -/
theorem wordAccess_eq_false {addr : Nat} {sz : Fin 4} (h : sz ≠ 3 ∨ addr % 8 ≠ 0) :
    wordAccess addr (2 ^ sz.val) = false := by
  unfold wordAccess
  rcases h with hsize | halign
  · have : 2 ^ sz.val ≠ 8 := by revert hsize; revert sz; decide
    simp [this]
  · simp [halign]

/-! ### The gate of control space -/

/-- A gate that admits to nothing records at most a refusal or a missing unit in the command plane. -/
theorem OnlyLogs.ctlGate_id (s : State) (a : Acc) (ok : Bool) (h addr : Nat) :
    OnlyLogs s (s.ctlGate a ok h addr fun s => s) := by
  unfold State.ctlGate
  split
  · exact .refuse ..
  · split
    · exact .logSec ..
    · exact .of_eq rfl

theorem OnlyLogs.busRead {s t : State} (h : OnlyLogs s t) : t.cp.busRead = s.cp.busRead := by
  obtain ⟨_, _, h⟩ := h
  rw [h]

/-- The frame of a gate that admits to nothing, from any state that differs from `r` within that frame. -/
theorem ctlGate_id_changes {r s : State} (hs : Keeps (partMask logParts) (fldMask refuseFlds) r s) (a : Acc) (ok : Bool)
    (h addr : Nat) : Changes logParts refuseFlds r (s.ctlGate a ok h addr fun s => s) :=
  (State.ctlGate_keeps s a ok h addr (fun s => s) hs (fun _ hx => hx) (by decide +kernel) (by decide +kernel)).changes

theorem State.ctlGate_admitted (s : State) (a : Acc) (h addr : Nat) (f : State → State) (hg : s.unitGone addr = false) :
    s.ctlGate a true h addr f = f s := by
  simp [State.ctlGate, hg]

/-! ### Misshapen reads and writes -/

section
variable {s : State} {addr size : Nat} (hm : s.misshapen addr size)
include hm

theorem State.ctlRead_misshapen (a : Acc) : s.ctlRead a addr size =
    (s.answer 0).ctlGate a (a.sec || s.reaches a.pol false (s.ctlTarget (addr / 8 * 8))) (s.ctlHalf addr) addr fun s => s := by
  obtain ⟨r, i, ht, hw⟩ | ht := hm
  · simp [State.ctlRead, ht, hw]
  · simp [State.ctlRead, ht]

theorem State.ctlWrite_misshapen (a : Acc) (v : Nat) : s.ctlWrite a addr size v =
    s.ctlGate a (a.sec || s.reaches a.pol true (s.ctlTarget (addr / 8 * 8))) (s.ctlHalf addr) addr fun s => s := by
  obtain ⟨r, i, ht, hw⟩ | ht := hm
  · simp [State.ctlWrite, ht, hw]
  · simp [State.ctlWrite, ht]

theorem State.ctlRead_misshapen_changes (a : Acc) : Changes logParts refuseFlds s (s.ctlRead a addr size) := by
  rw [State.ctlRead_misshapen hm]
  exact ctlGate_id_changes (State.answer_keeps s 0 (.refl _ _ s) (by decide +kernel)) ..

theorem State.ctlRead_misshapen_zero (a : Acc) : (s.ctlRead a addr size).cp.busRead = 0 := by
  rw [State.ctlRead_misshapen hm]
  exact (OnlyLogs.ctlGate_id ..).busRead

theorem State.ctlWrite_misshapen_changes (a : Acc) (v : Nat) : Changes logParts refuseFlds s (s.ctlWrite a addr size v) := by
  rw [State.ctlWrite_misshapen hm]
  exact ctlGate_id_changes (.refl _ _ s) ..

theorem State.ctlWrite_misshapen_ignored {a : Acc} (v : Nat) (hsec : a.sec = true) (hg : s.unitGone addr = false) :
    s.ctlWrite a addr size v = s := by
  rw [State.ctlWrite_misshapen hm, hsec, Bool.true_or, State.ctlGate_admitted _ _ _ _ _ hg]

end

/-- Settles O7: past the gate of control space a misshapen access has nothing to do, so that a read returns the zero it began with
and a write leaves the state alone; the gate itself changes only what a refusal records. -/
theorem misshapenAccessesReadZero : Obligations.MisshapenAccessesReadZero := by
  unfold Obligations.MisshapenAccessesReadZero
  intro a w addr sz v s h
  have hm : s.misshapen addr.toNat (2 ^ sz.val) :=
    h.imp_left fun ⟨r, i, ht, hw⟩ => ⟨r, i, ht, wordAccess_eq_false hw⟩
  cases w with
  | false => exact ⟨_, rfl, State.ctlRead_misshapen_changes hm a, fun _ => State.ctlRead_misshapen_zero hm a, by simp⟩
  | true =>
    exact ⟨_, rfl, State.ctlWrite_misshapen_changes hm a _, by simp,
      fun hsec hg _ => State.ctlWrite_misshapen_ignored hm _ hsec hg⟩

end Sys2Proof.Machine
end

section
/-! SUPPORT. R311: the result of HEAD_PRESENCE, with the links of the sixteen head ports below and their presence from bit 64. -/

namespace Sys2Proof.Machine

/-! ### Masks over the head ports -/

/-- The number whose bit `n` is `f n` below `k`: the sum in `portMask`, for every count of ports. -/
def bitSum (k : Nat) (f : Nat → Bool) : Nat := ((List.range k).map fun n => b2n (f n) * 2 ^ n).sum

theorem portMask_eq_bitSum (f : Nat → Bool) : portMask f = bitSum 16 f := rfl

theorem bitSum_succ (k : Nat) (f : Nat → Bool) : bitSum (k + 1) f = 2 ^ k * b2n (f k) + bitSum k f := by
  simp only [bitSum, List.range_succ, List.map_append, List.map_cons, List.map_nil, List.sum_append_nat, List.sum_cons,
    List.sum_nil, Nat.add_zero]
  rw [Nat.add_comm, Nat.mul_comm]

theorem b2n_le_one (b : Bool) : b2n b ≤ 1 := by cases b <;> decide

theorem testBit_zero_b2n (b : Bool) : (b2n b).testBit 0 = b := by cases b <;> decide

theorem bitSum_lt (k : Nat) (f : Nat → Bool) : bitSum k f < 2 ^ k := by
  induction k with
  | zero => exact Nat.one_pos
  | succ k ih =>
    have hbit : 2 ^ k * b2n (f k) ≤ 2 ^ k * 1 := Nat.mul_le_mul_left _ (b2n_le_one (f k))
    rw [bitSum_succ, Nat.pow_succ]
    omega

theorem testBit_bitSum (f : Nat → Bool) {k n : Nat} (hn : n < k) : (bitSum k f).testBit n = f n := by
  induction k with
  | zero => exact absurd hn (Nat.not_lt_zero n)
  | succ k ih =>
    rw [bitSum_succ, Nat.testBit_two_pow_mul_add _ (bitSum_lt k f)]
    by_cases hk : n < k
    · rw [if_pos hk, ih hk]
    · obtain rfl : n = k := Nat.le_antisymm (Nat.le_of_lt_succ hn) (Nat.le_of_not_lt hk)
      rw [if_neg hk, Nat.sub_self, testBit_zero_b2n]

/-- The upper mask of two is read at bit 64 and above: the lower one ends below it. -/
theorem testBit_upper_portMask (f g : Nat → Bool) {n : Nat} (hn : n < 16) :
    (portMask f + portMask g * 2 ^ 64).testBit (64 + n) = g n := by
  have hlow : portMask f < 2 ^ 64 := Nat.lt_trans (bitSum_lt 16 f) (by decide)
  have habove : ¬ 64 + n < 64 := Nat.not_lt.mpr (Nat.le_add_right 64 n)
  rw [Nat.add_comm, Nat.mul_comm, Nat.testBit_two_pow_mul_add _ hlow, if_neg habove, Nat.add_sub_cancel_left,
    portMask_eq_bitSum, testBit_bitSum g hn]

/-! ### Presence -/

theorem State.portPresent_iff (s : State) (n : Nat) : s.portPresent n = true ↔
    (∃ x ∈ s.ing.heads, x.portA = n ∨ x.paired = true ∧ x.portB = n) ∧
    ∀ x ∈ s.ing.heads, (x.portA = n ∨ x.paired = true ∧ x.portB = n) → x.present = true := by
  simp only [State.portPresent, Bool.and_eq_true, Bool.not_eq_true', List.isEmpty_eq_false_iff_exists_mem, List.all_eq_true,
    List.mem_filter, Bool.or_eq_true, beq_iff_eq, and_imp]

/-! ### The completion -/

/-- A query that passes the shared checks completes with what it reads of the state it meets. -/
theorem runCmd_query_answered {o : OpSpec} {c : Cmd} {s : State} (res : State → CmdRes) (h : s.passes o c = true) :
    answered (runCmd o c (fun s => (s, res s)) s) c (res s).status (res s).result := by
  have hdiscard : (s.runningOf c).any (·.discard) = false := by
    simp only [State.passes, Bool.and_eq_true, Bool.not_eq_true'] at h
    obtain ⟨⟨⟨_, hdiscard⟩, _⟩, _⟩ := h
    exact hdiscard
  rw [runCmd_passes _ h]
  exact finish_answered s c (res s) hdiscard

theorem execHeadPresence_answered {c : Cmd} {s : State} (h : s.passes (specQuery 0 0) c = true) :
    ∃ t, execHeadPresence c s = .next t ∧ answered t c 0
      (portMask (fun n => s.get .HP_STAT_LINK (instPort n) != 0) + portMask s.portPresent * 2 ^ 64) :=
  ⟨_, rfl, runCmd_query_answered _ h⟩

/-- Settles O8: the command completes with the two masks, the lower one too short to reach bit 64, so that bit 64 + n is the
presence of port n. -/
theorem headPresenceReportsBoundHeads : Obligations.HeadPresenceReportsBoundHeads := by
  unfold Obligations.HeadPresenceReportsBoundHeads
  intro c s h
  obtain ⟨t, ht, hanswer⟩ := execHeadPresence_answered h
  refine ⟨t, _, ht, hanswer, fun n hn => ?_⟩
  rw [testBit_upper_portMask _ _ hn]
  exact State.portPresent_iff s n

end Sys2Proof.Machine
end
